-- ==== Sys2Proof/Word.lean ====
section
/-! DEFINITION. The word types of the CDX40 (R2, R24): bytes, 32-bit instruction words, 64-bit general
registers, 512-bit vector registers, and the plainest arithmetic on them. -/

namespace Sys2Proof

/-- A byte of memory, the smallest addressable unit (R2). -/
abbrev Byte := BitVec 8

/-- One instruction word (R33). -/
abbrev Word32 := BitVec 32

/-- A general register, a predicate register, a loop register or an address (R24). -/
abbrev Word := BitVec 64

/-- A vector register (R24). -/
abbrev Vec := BitVec 512

/-- The 64-bit word with every bit 1. -/
abbrev allOnes64 : Word := BitVec.allOnes 64

/-- `bits(v, hi, lo)` of R82, on a natural number. -/
def natBits (v hi lo : Nat) : Nat := v / 2 ^ lo % 2 ^ (hi + 1 - lo)

/-- `sext(v, n)` of R82: the low `n` bits of `v` read as a two's-complement number. -/
def sextNat (v n : Nat) : Int :=
  let u := v % 2 ^ n
  if n = 0 then 0 else if u < 2 ^ (n - 1) then (u : Int) else (u : Int) - (2 : Int) ^ n

/-- `wrap(v, 64)` of R82 as a register pattern. -/
abbrev wrap64 (v : Int) : Word := BitVec.ofInt 64 v

end Sys2Proof
end

