-- ==== Sys2Proof/Config.lean ====
section
/-! DEFINITION. The figures of the part (R12) that the model reads, and the free values: constants with no body,
for the values the spec does not give (the log names each). -/

namespace Sys2Proof.Config

/-- Cores of the module (R6, R12). -/
abbrev cores : Nat := 3072
/-- Cores of a cluster (R12). -/
abbrev clusterCores : Nat := 32
/-- Bytes of one core's scratchpad, 512 KiB (R12, R25). -/
abbrev scratchBytes : Nat := 0x80000
/-- Contexts of a core: the control context and ten helpers (R16). -/
abbrev contexts : Nat := 11
/-- Barrier groups of the module (R19). -/
abbrev groups : Nat := 32
/-- Drapers of the module (R296). -/
abbrev drapers : Nat := 128
/-- Micro-TLB entries (R204). -/
abbrev microTlb : Nat := 32
/-- Cluster TLB entries (R204). -/
abbrev clusterTlb : Nat := 512
/-- Last-level TLB entries (R204). -/
abbrev lastTlb : Nat := 4096
/-- Home of module HBM: physical addresses 0 to 2^40 - 1 (R30). -/
abbrev hbmBase : Nat := 0
/-- Home key of scratchpad byte 0 of core 0; core `n` follows at `n` times 512 KiB (log 3). -/
abbrev scratchBase : Nat := 2 ^ 60
/-- Home key of the first peer device (log 3). -/
abbrev peerBase : Nat := 2 ^ 61
/-- Home key of host memory (log 3). -/
abbrev hostBase : Nat := 2 ^ 62

/-- The failing-column mask that the known-answer patterns of R342 give, for the n-th run: the spec does not
give the patterns or the array's health. DESIGN CHOICE (log 20): a free value. -/
opaque katMask : Nat → BitVec 64

/-- The signature of R416 (ECDSA over P-521 under the identity key), 132 bytes. DESIGN CHOICE (log 21). -/
opaque signature : BitVec 512 → BitVec 1056

/-- The firmware measurement of index 1 to 8 (R416): the part's own. DESIGN CHOICE (log 21). -/
opaque firmwareMeasurement : Nat → BitVec 512

/-- The answer of the responder to a request the spec does not describe (R416). DESIGN CHOICE (log 21). -/
opaque spdmReply : Nat → BitVec 64

/-- The bytes that one signature item of R161 folds, from its address, its width in bytes and its data: the spec
does not give their order. DESIGN CHOICE (log 22). -/
opaque signatureBytes : Nat → Nat → List Byte → List Byte

/-- What a host access to the configuration space reads once bring-up step 5 has passed (R429): outside the
spec. DESIGN CHOICE (log 23). -/
opaque configSpace : Nat → BitVec 32

/-- The value of the n-th 16-bit word of a sensor reading that only the part knows: the average power and the
hottest junction of a window (R426, R427). DESIGN CHOICE (log 23). -/
opaque sensor : Nat → BitVec 16

/-- The value of an x register of a gang's leader, another core, in a cycle (R124). DESIGN CHOICE (log 31). -/
opaque leaderX : Nat → BitVec 5 → BitVec 64

/-- The value of a p register of a gang's leader, another core, in a cycle (R124). DESIGN CHOICE (log 31). -/
opaque leaderP : Nat → BitVec 3 → BitVec 64

/-- A loop register of a gang's leader, another core, as the gang forms: by cycle, set and register (lc, ls, le) (R124). DESIGN CHOICE
(log 31). -/
opaque leaderLoop : Nat → Nat → Nat → BitVec 64

/-- The address of the leader's GANG, where this core does not lead (R138). DESIGN CHOICE (log 31). -/
opaque leaderPc : Nat → BitVec 64

/-- The Lural port through which a peer device is reached (R201, R424): the board's own. DESIGN CHOICE (log 32). -/
opaque luralPort : Nat → BitVec 4

/-- A byte of an uncorrectable line as a unit other than a load, an atomic or an engine command reads it, by cycle and home key: the
spec states no value. DESIGN CHOICE (log 38). -/
opaque badByte : Nat → Nat → BitVec 8

/-- The contexts of a job's other cores executed TKA only with LSORD = 1 (R225), by JOBID. DESIGN CHOICE (log 34). -/
opaque othersRepro : BitVec 32 → Bool

/-- SSTEP of a superstep job on other cores, by JOBID and cycle (R268, R412, R433). DESIGN CHOICE (log 40). -/
opaque otherSstep : BitVec 32 → Nat → BitVec 64

/-- How long after its dispatch, in nanoseconds, a job on other cores issues its first instruction, by JOBID (R412). DESIGN CHOICE (log 40). -/
opaque otherStart : BitVec 32 → BitVec 64

/-- The daybook of one of the cores of a job on other cores has overflowed (R162), by JOBID. DESIGN CHOICE (log 40). -/
opaque othersOverflow : BitVec 32 → Bool

/-- A unit passes the test slice of step 4 of the bring-up, by cycle and unit (R421, R429). DESIGN CHOICE (log 47). -/
opaque bringUpPass : Nat → Nat → Bool

/-- The offset of PMCSR in the configuration space: the part's own (R430). DESIGN CHOICE (log 133). -/
opaque pmcsr : Nat

/-- A number for each place of a die's mesh, by die and place: the nodes of R14 take their places in the order of these numbers. R14 gives
no map of the mesh. DESIGN CHOICE (log 41). -/
opaque meshRank : Nat → Nat → Nat

/-- A helper of another core of the cluster is live, by cycle, position and helper (R274). DESIGN CHOICE (log 34). -/
opaque otherHelperLive : Nat → Nat → Nat → Bool

/-- The regions that a job on other cores maps onto some bytes allow the host to write them (R209): by JOBID, cycle, home key and number
of bytes. DESIGN CHOICE (log 34). -/
opaque otherAllows : BitVec 32 → Nat → Nat → Nat → Bool

/-- A byte of a job's save area, by cycle and place (R153): its layout is the device's own. DESIGN CHOICE (log 87). -/
opaque saveByte : Nat → Nat → BitVec 8

/-- A line of HBM is in its home slice when a load reads it, by cycle and home key: R212 gives a time for either case. DESIGN CHOICE
(log 122). -/
opaque sliceHit : Nat → Nat → Bool

/-- The store time of some bytes, by home key and number of bytes, which R300 and R379 name and no rule gives. DESIGN CHOICE
(log 122). -/
opaque storeTime : Nat → Nat → Nat

/-- Which of the unreserved groups the dispatcher takes for a job's superstep domain (R268, R409), by JOBID. DESIGN CHOICE (log 45). -/
opaque domainPick : BitVec 32 → Nat

/-- The 16 bytes of a health-table entry, from its unit, PASS, time and failures (R421): the spec does not lay them out. DESIGN
CHOICE (log 47). -/
opaque healthBytes : Nat → Bool → Nat → Nat → BitVec 128

/-- The loop register that a DBGSEL index names, by set × 3 + register (R423): the spec gives no numbering. DESIGN CHOICE (log 42). -/
opaque debugLoop : Nat → BitVec 4

/-- What DBGDATA reads of another core of the job, by cycle and DBGSEL (R418, R423). DESIGN CHOICE (log 34). -/
opaque remoteState : Nat → BitVec 64 → BitVec 64

/-- The value of an event counter of another core, by cycle and number (R420, R423). DESIGN CHOICE (log 34). -/
opaque remoteCounter : Nat → Nat → BitVec 64

end Sys2Proof.Config
end

