-- ==== Sys2Proof/Syntax.lean ====
section
/-! DEFINITION. The instructions and events of the CDX40: one constructor of `Instr` for each row of
spec/opcode_table.json. The first 201 are the instructions with an encoding (R33 to R46); the others are the
table's events (spec/95_what_each_step_holds.md): they carry what happens as their operands, or take it from the inbox
of the state. -/

namespace Sys2Proof

/-! ## Modifier codes (R37, R38, R39) -/

/-- The integer types of R38, codes 0 to 7. -/
inductive IntTy where
  | s8 | s16 | s32 | s64 | z8 | z16 | z32 | z64
  deriving DecidableEq, Repr

/-- The lane float types of R38, codes 8 to 10. -/
inductive FloatTy where
  | f32 | f16 | bf16
  deriving DecidableEq, Repr

/-- The types a vector lane may have (R170): I or F. -/
inductive LaneTy where
  | int (t : IntTy)
  | float (t : FloatTy)
  deriving DecidableEq, Repr

/-- Every type of R38, codes 0 to 17. -/
inductive Ty where
  | lane (t : LaneTy)
  | e4m3 | e5m2 | e3m2 | e2m3 | e2m1 | cb4 | s4
  deriving DecidableEq, Repr

/-- `.wrap` or `.sat` (R108). -/
inductive Variant where
  | wrap | sat
  deriving DecidableEq, Repr

/-- Scope codes (R39). -/
inductive Scope where
  | core | clu | dev | sys
  deriving DecidableEq, Repr

/-- Load width codes 0 to 6 (R37). -/
inductive LdWidth where
  | z8 | z16 | z32 | z64 | s8 | s16 | s32
  deriving DecidableEq, Repr

/-- Width codes 0 to 3 (R37): 1, 2, 4 or 8 bytes. -/
inductive MemWidth where
  | w8 | w16 | w32 | w64
  deriving DecidableEq, Repr

/-- Width codes 0 to 7 of LDT (R215). -/
inductive TagWidth where
  | scalar (w : LdWidth)
  | vec
  deriving DecidableEq, Repr

/-- Conditions of PCMP and VCMP (R118, R170). -/
inductive Cond where
  | eq | ne | lt | le | gt | ge
  deriving DecidableEq, Repr

/-- Atomic op codes 0 to 7 (R281); `addf` is `.add.f32`. -/
inductive AtomicOp where
  | add | and | or | xor | min | max | swap | addf
  deriving DecidableEq, Repr

/-- Atomic type codes 0 to 3 (R281). -/
inductive AtomicTy where
  | z64 | s64 | z32 | s32
  deriving DecidableEq, Repr

/-- VRED op codes 0 to 5 (R177). -/
inductive RedOp where
  | add | min | max | and | or | xor
  deriving DecidableEq, Repr

/-- VSHUF functions 0 to 6 (R175). -/
inductive ShufFn where
  | lo | hi | even | odd | rev | pk6 | up6
  deriving DecidableEq, Repr

/-- The accepted op and type pairs of PHACC (R364). -/
inductive PhAcc where
  | addS64 | addF32 | minS64 | minZ64 | maxS64 | maxZ64 | orZ64
  deriving DecidableEq, Repr

/-- The forms of MOV to or from a loop register (R114). -/
inductive LoopReg where
  | lc | ls | le
  deriving DecidableEq, Repr

/-- The control registers of R53. -/
inductive CtrlReg where
  | ctxst | corenum | jobarg | jobid | devtime | sstep | trapvec
  | traprec (n : BitVec 2)
  | mbox (n : BitVec 3)
  | mbq | rptst | rptpc | bgmask | imbal0 | imbal1 | sig
  deriving DecidableEq, Repr

/-- The vector class prefix word of R167, bits [18:9]. -/
structure VExt where
  sat : Bool
  ds : Bool
  dsn : BitVec 2
  as : Bool
  asn : BitVec 2
  bs : Bool
  bsn : BitVec 2
  deriving DecidableEq, Repr

/-- The 24-bit payload of an EXT word before the instruction, when there is one (R44, R45). -/
abbrev Ext := Option (BitVec 24)

/-! ## Payloads of events -/

/-- A tile on the ring (R350, R352): its header fields and its data bytes (elements and scales). -/
structure Tile where
  id : BitVec 16
  kidx : BitVec 16
  fmt : Ty
  sc : Bool
  budget : Nat
  src : Word
  data : List Byte
  deriving DecidableEq, Repr

/-- What another core's access asks of this core's router (R154): offsets are into this core's scratchpad. `clu` says that an atomic is
performed at the cluster atomic unit (R282). A pigeonhole operation names its context and brings the key of every lane, with its value; that
of a scalar form has one lane (R373, R376). -/
inductive RemoteOp where
  | read (off : Nat) (n : Nat)
  | write (off : Nat) (data : List Byte)
  | atomic (off : Nat) (op : AtomicOp) (t : AtomicTy) (operand : Word) (clu : Bool)
  | ftake (off : Nat) (ctx : Fin 11)
  | fput (off : Nat) (ctx : Fin 11) (v : Word)
  | finit (off : Nat) (v : Word) (full : Bool)
  | phins (table : Nat) (ctx : Fin 11) (keys : List (Word × Word))
  | phdel (table : Nat) (ctx : Fin 11) (keys : List (Word × Word))
  | phprb (table : Nat) (ctx : Fin 11) (keys : List (Word × Word))
  | phacc (table : Nat) (ctx : Fin 11) (op : PhAcc) (keys : List (Word × Word))
  deriving DecidableEq, Repr

/-- The base of the table that a pigeonhole operation names. -/
def RemoteOp.table : RemoteOp → Option Nat
  | .phins t _ _ => some t
  | .phdel t _ _ => some t
  | .phprb t _ _ => some t
  | .phacc t _ _ _ => some t
  | _ => none

/-- The context that it comes from. -/
def RemoteOp.ctx : RemoteOp → Fin 11
  | .phins _ c _ => c
  | .phdel _ c _ => c
  | .phprb _ c _ => c
  | .phacc _ c _ _ => c
  | _ => 0

/-- The first unfired entry of a weave on another core, as the loom reports it (R356); `more` says that others follow. -/
structure MissedAt where
  lpos : BitVec 5
  entry : BitVec 6
  mismatched : Bool
  more : Bool
  src : Word
  deriving DecidableEq, Repr

/-- A head flit that requests an output in one network cycle (R393): the router, numbered by die × 48 + node (R14), the output, the
input where the flit stands, and its class. -/
structure RouterReq where
  node : BitVec 8
  output : BitVec 3
  input : BitVec 3
  cls : Nat
  deriving DecidableEq, Repr

/-- What the outside brings with an event (R32): the host's accesses, and what only the device's own engines know.
`addr` is an address, a BAR0 offset, a unit number or a code, as the event says; `bar0` marks a read of BAR0. -/
structure HostReq where
  addr : Nat
  value : BitVec 64
  data : List Byte
  write : Bool
  n : Nat
  op : AtomicOp
  ty : AtomicTy
  compare : Option (BitVec 64)
  bar0 : Bool
  deriving DecidableEq, Repr

/-! ## The instructions and events -/

/-- One constructor per row of spec/opcode_table.json. In an instruction `s` is the switch marker (R47), `d`, `a` and
`b` are the register fields (R34, R35), `imm` is imm13, and `ext` is the payload of an EXT word (R45). -/
inductive Instr where
  -- scalar integer and logic (R109, R110)
  | add (s : Bool) (d a b : BitVec 5) (t : IntTy) (v : Variant)
  | addi (s : Bool) (d a : BitVec 5) (imm : BitVec 13) (ext : Ext)
  | sub (s : Bool) (d a b : BitVec 5) (t : IntTy) (v : Variant)
  | mul (s : Bool) (d a b : BitVec 5) (t : IntTy) (v : Variant)
  | muli (s : Bool) (d a : BitVec 5) (imm : BitVec 13) (ext : Ext)
  | mulh (s : Bool) (d a b : BitVec 5) (t : IntTy)
  | div (s : Bool) (d a b : BitVec 5) (t : IntTy)
  | rem (s : Bool) (d a b : BitVec 5) (t : IntTy)
  | and (s : Bool) (d a b : BitVec 5) (t : IntTy)
  | andi (s : Bool) (d a : BitVec 5) (imm : BitVec 13) (ext : Ext)
  | or (s : Bool) (d a b : BitVec 5) (t : IntTy)
  | ori (s : Bool) (d a : BitVec 5) (imm : BitVec 13) (ext : Ext)
  | xor (s : Bool) (d a b : BitVec 5) (t : IntTy)
  | xori (s : Bool) (d a : BitVec 5) (imm : BitVec 13) (ext : Ext)
  | shl (s : Bool) (d a b : BitVec 5) (t : IntTy)
  | shli (s : Bool) (d a : BitVec 5) (imm : BitVec 6)
  | shr (s : Bool) (d a b : BitVec 5) (t : IntTy)
  | shri (s : Bool) (d a : BitVec 5) (imm : BitVec 6)
  | sra (s : Bool) (d a b : BitVec 5) (t : IntTy)
  | srai (s : Bool) (d a : BitVec 5) (imm : BitVec 6)
  | clz (s : Bool) (d a : BitVec 5) (t : IntTy)
  | ctz (s : Bool) (d a : BitVec 5) (t : IntTy)
  | popc (s : Bool) (d a : BitVec 5) (t : IntTy)
  | min (s : Bool) (d a b : BitVec 5) (t : IntTy)
  | max (s : Bool) (d a b : BitVec 5) (t : IntTy)
  | bfx (s : Bool) (d a b : BitVec 5) (t : IntTy)
  | bfi (s : Bool) (d a b : BitVec 5) (t : IntTy)
  | abs (s : Bool) (d a : BitVec 5) (t : IntTy) (v : Variant)
  -- address, move and compare (R114 to R120)
  | mov (s : Bool) (d a : BitVec 5)
  | movFromLoop (s : Bool) (d : BitVec 5) (n : BitVec 2) (r : LoopReg)
  | movToLoop (s : Bool) (n : BitVec 2) (a : BitVec 5) (r : LoopReg)
  | movi (s : Bool) (d : BitVec 5) (imm : BitVec 13) (ext : Ext)
  | lea (s : Bool) (d a b : BitVec 5) (disp : BitVec 6) (k : BitVec 2) (ext : Ext)
  | slt (s : Bool) (d a b : BitVec 5) (t : IntTy)
  | slti (s : Bool) (d a : BitVec 5) (imm : BitVec 13) (ext : Ext)
  | seq (s : Bool) (d a b : BitVec 5) (t : IntTy)
  | seqi (s : Bool) (d a : BitVec 5) (imm : BitVec 13) (ext : Ext)
  | sel (s : Bool) (d a b : BitVec 5) (p : BitVec 3)
  | pcmp (s : Bool) (d : BitVec 3) (a b : BitVec 5) (t : IntTy) (c : Cond)
  | plog (s : Bool) (d a b : BitVec 3) (t : BitVec 4)
  | pmovToPredicate (s : Bool) (d : BitVec 3) (a : BitVec 5)
  | pmovFromPredicate (s : Bool) (d : BitVec 5) (a : BitVec 3)
  | pcnt (s : Bool) (d : BitVec 5) (a : BitVec 3) (t : IntTy)
  -- control flow (R121 to R130, R55 to R62)
  | br (s : Bool) (disp : BitVec 23) (ext : Ext)
  | call (s : Bool) (disp : BitVec 23) (ext : Ext)
  | jr (s : Bool) (a : BitVec 5)
  | callr (s : Bool) (a : BitVec 5)
  | ret (s : Bool)
  | beqz (s : Bool) (a : BitVec 5) (imm : BitVec 13) (ext : Ext)
  | bnez (s : Bool) (a : BitVec 5) (imm : BitVec 13) (ext : Ext)
  | bltz (s : Bool) (a : BitVec 5) (imm : BitVec 13) (ext : Ext)
  | bgez (s : Bool) (a : BitVec 5) (imm : BitVec 13) (ext : Ext)
  | bpany (s : Bool) (a : BitVec 3) (imm : BitVec 13) (ext : Ext)
  | bpnone (s : Bool) (a : BitVec 3) (imm : BitVec 13) (ext : Ext)
  | loop (s : Bool) (n : BitVec 2) (a : BitVec 5) (l : BitVec 8) (ext : Option (BitVec 16))
  | loopi (s : Bool) (n : BitVec 2) (l : BitVec 5) (imm : BitVec 13) (ext : Ext)
  | rptf (s : Bool) (sd sa sb : BitVec 5) (n k : BitVec 4) (ext : Option (BitVec 20))
  -- context and system (R132)
  | nop (s : Bool)
  | hstart (s : Bool) (h : BitVec 5) (b : BitVec 5) (imm : BitVec 13) (ext : Ext)
  | hend (s : Bool)
  | hwait (s : Bool) (a : BitVec 5)
  | hstat (s : Bool) (d : BitVec 5)
  | gang (s : Bool) (n : BitVec 2)
  | split (s : Bool)
  | trap (s : Bool) (code : BitVec 13)
  | rte (s : Bool)
  | rteXa (s : Bool) (a : BitVec 5)
  | endCore (s : Bool)
  | mfc (s : Bool) (d : BitVec 5) (r : CtrlReg)
  | mtc (s : Bool) (a : BitVec 5) (r : CtrlReg)
  | icinv (s : Bool) (a : BitVec 5) (c : Scope)
  | brk (s : Bool) (code : BitVec 8)
  | pause (s : Bool) (n : BitVec 13)
  | cntrd (s : Bool) (d : BitVec 5) (c : BitVec 4)
  -- vector and interpolator (R170)
  | vadd (s : Bool) (d a b : BitVec 5) (t : LaneTy) (m : BitVec 3) (x : Option VExt)
  | vsub (s : Bool) (d a b : BitVec 5) (t : LaneTy) (m : BitVec 3) (x : Option VExt)
  | vmul (s : Bool) (d a b : BitVec 5) (t : LaneTy) (m : BitVec 3) (x : Option VExt)
  | vfma (s : Bool) (d a b : BitVec 5) (t : FloatTy) (m : BitVec 3) (x : Option VExt)
  | vmin (s : Bool) (d a b : BitVec 5) (t : LaneTy) (m : BitVec 3) (x : Option VExt)
  | vmax (s : Bool) (d a b : BitVec 5) (t : LaneTy) (m : BitVec 3) (x : Option VExt)
  | vabs (s : Bool) (d a : BitVec 5) (t : LaneTy) (m : BitVec 3) (x : Option VExt)
  | vand (s : Bool) (d a b : BitVec 5) (t : IntTy) (m : BitVec 3) (x : Option VExt)
  | vor (s : Bool) (d a b : BitVec 5) (t : IntTy) (m : BitVec 3) (x : Option VExt)
  | vxor (s : Bool) (d a b : BitVec 5) (t : IntTy) (m : BitVec 3) (x : Option VExt)
  | vshl (s : Bool) (d a b : BitVec 5) (t : IntTy) (m : BitVec 3) (x : Option VExt)
  | vshr (s : Bool) (d a b : BitVec 5) (t : IntTy) (m : BitVec 3) (x : Option VExt)
  | vcmp (s : Bool) (d : BitVec 3) (a b : BitVec 5) (t : LaneTy) (c : Cond) (x : Option VExt)
  | vsel (s : Bool) (d a b : BitVec 5) (t : LaneTy) (p : BitVec 3) (x : Option VExt)
  | vshuf (s : Bool) (d a b : BitVec 5) (t : Ty) (f : ShufFn) (x : Option VExt)
  | vperm (s : Bool) (d a b : BitVec 5) (t : IntTy) (m : BitVec 3) (x : Option VExt)
  | vbcast (s : Bool) (d a : BitVec 5) (t : LaneTy) (m : BitVec 3) (x : Option VExt)
  | vred (s : Bool) (d a : BitVec 5) (op : RedOp) (t : LaneTy) (m : BitVec 3) (x : Option VExt)
  | vcvt (s : Bool) (d a : BitVec 5) (src dst : Ty) (k : BitVec 3) (x : Option VExt)
  | vmovxExtract (s : Bool) (d a b : BitVec 5) (t : LaneTy) (x : Option VExt)
  | vmovxInsert (s : Bool) (d a b : BitVec 5) (t : LaneTy) (x : Option VExt)
  | vrcp (s : Bool) (d a : BitVec 5) (t : FloatTy) (m : BitVec 3) (x : Option VExt)
  | vrsq (s : Bool) (d a : BitVec 5) (t : FloatTy) (m : BitVec 3) (x : Option VExt)
  | vtbld (s : Bool) (n : BitVec 2) (a : BitVec 5)
  | vinterp (s : Bool) (d a : BitVec 5) (n : BitVec 2) (m : BitVec 3) (x : Option VExt)
  -- memory access and translation (R187)
  | ld (s : Bool) (d a b : BitVec 5) (w : LdWidth) (c : Scope) (o : Bool) (k : BitVec 2) (ext : Ext)
  | st (s : Bool) (d a b : BitVec 5) (w : MemWidth) (c : Scope) (o : Bool) (k : BitVec 2) (ext : Ext)
  | ldc (s : Bool) (d a b : BitVec 5) (w : LdWidth) (k : BitVec 2) (ext : Ext)
  | vld (s : Bool) (d a b : BitVec 5) (c : Scope) (o : Bool) (k : BitVec 2) (ext : Ext)
  | vst (s : Bool) (d a b : BitVec 5) (c : Scope) (o : Bool) (k : BitVec 2) (ext : Ext)
  | vldb (s : Bool) (d a b : BitVec 5) (w : MemWidth) (k : BitVec 2) (ext : Ext)
  | vgth (s : Bool) (d a b : BitVec 5) (w : MemWidth) (m : BitVec 3) (k : BitVec 2)
  | vsct (s : Bool) (d a b : BitVec 5) (w : MemWidth) (m : BitVec 3) (k : BitVec 2)
  | pref (s : Bool) (a b : BitVec 5) (k : BitVec 2) (ext : Ext)
  | flush (s : Bool) (a b : BitVec 5) (c : Scope) (k : BitVec 2) (ext : Ext)
  | tlbinv (s : Bool) (a b : BitVec 5) (c : Scope)
  | tlbprb (s : Bool) (d a : BitVec 5)
  | tlbwait (s : Bool)
  | rgnq (s : Bool) (d a : BitVec 5)
  -- landing set (R215)
  | ldt (s : Bool) (n a b : BitVec 5) (w : TagWidth) (k : BitVec 2) (ext : Ext)
  | tka (s : Bool) (d a : BitVec 5) (v : Bool)
  | tkt (s : Bool) (d n : BitVec 5) (v : Bool)
  | reld (s : Bool) (n : BitVec 5)
  | reldDrop (s : Bool) (n : BitVec 5)
  | lsq (s : Bool) (d : BitVec 5) (e : BitVec 2)
  | lsmode (s : Bool) (m : Bool)
  -- transfers and streams (R237)
  | qpush (s : Bool) (q : BitVec 5) (a : BitVec 5) (c : Scope)
  | qpop (s : Bool) (d q : BitVec 5)
  | qtry (s : Bool) (d q : BitVec 5)
  | qlen (s : Bool) (d q : BitVec 5)
  | gx (s : Bool) (a : BitVec 5) (c : Scope)
  | gxs (s : Bool) (a : BitVec 5) (c : Scope)
  | compact (s : Bool) (a : BitVec 5) (c : Scope)
  | sbind (s : Bool) (n : BitVec 2) (a b : BitVec 5) (t : LaneTy) (wr : Bool)
  | sbindAffine (s : Bool) (n : BitVec 2) (a : BitVec 5) (t : LaneTy) (wr : Bool)
  | sfree (s : Bool) (n : BitVec 2)
  | sstat (s : Bool) (d : BitVec 5) (n : BitVec 2)
  | sadv (s : Bool) (n : BitVec 2) (a : BitVec 5)
  | wmrd (s : Bool) (d q : BitVec 5)
  -- synchronisation (R261)
  | arv (s : Bool) (d g : BitVec 5) (c : Scope) (o : Bool)
  | arvn (s : Bool) (d a g : BitVec 5) (c : Scope) (o : Bool)
  | wait (s : Bool) (a g : BitVec 5)
  | wtest (s : Bool) (d a g : BitVec 5)
  | expect (s : Bool) (a g : BitVec 5)
  | sync (s : Bool) (d : BitVec 5)
  | fence (s : Bool) (c : Scope) (o : Bool)
  | bbset (s : Bool) (a : BitVec 5) (term : Bool) (i : BitVec 4)
  | bbrd (s : Bool) (d : BitVec 5) (term : Bool) (i : BitVec 4)
  | bbclr (s : Bool) (a : BitVec 5)
  | bbpulse (s : Bool) (j : BitVec 4)
  | phase (s : Bool) (d g : BitVec 5)
  | bgstat (s : Bool) (d g : BitVec 5)
  | dlkst (s : Bool) (d a : BitVec 5)
  -- atomics, full/empty words, spikes and drapers (R281)
  | amo (s : Bool) (d a b : BitVec 5) (op : AtomicOp) (c : Scope) (o : Bool) (t : AtomicTy)
  | red (s : Bool) (a b : BitVec 5) (op : AtomicOp) (c : Scope) (o : Bool) (t : AtomicTy)
  | redv (s : Bool) (d a b : BitVec 5) (op : AtomicOp) (c : Scope) (t : AtomicTy)
  | cas (s : Bool) (d a b : BitVec 5) (c : Scope) (o : Bool) (t : AtomicTy)
  | ftake (s : Bool) (d a : BitVec 5) (c : Scope)
  | fput (s : Bool) (a b : BitVec 5) (c : Scope)
  | fpeek (s : Bool) (d a : BitVec 5) (k : Bool)
  | finit (s : Bool) (a b : BitVec 5) (k : Bool)
  | spkclaim (s : Bool) (a : BitVec 5)
  | spkpush (s : Bool) (a : BitVec 5)
  | spkpop (s : Bool) (d a : BitVec 5)
  | spkins (s : Bool) (d a b : BitVec 5)
  | spklen (s : Bool) (d : BitVec 5)
  | spkfree (s : Bool)
  | swalloc (s : Bool) (d a : BitVec 5)
  | swstat (s : Bool) (d a : BitVec 5)
  -- matrix (R327)
  | mctx (s : Bool) (a : BitVec 5)
  | mmul (s : Bool) (d a b : BitVec 5) (sp : Bool)
  | mloads (s : Bool) (a : BitVec 5)
  | mswap (s : Bool)
  | mstream (s : Bool) (d a : BitVec 5)
  | mdrain (s : Bool)
  | acrd (s : Bool) (d a : BitVec 5)
  | acwr (s : Bool) (d a : BitVec 5)
  | mchkKat (s : Bool) (d : BitVec 5)
  | mchkInj (s : Bool) (d a : BitVec 5)
  | mzeroAcc (s : Bool) (d : BitVec 5)
  | mzeroSt (s : Bool)
  | mstat (s : Bool) (d : BitVec 5)
  | mwait (s : Bool) (n : BitVec 5)
  | mcbk (s : Bool) (a : BitVec 5) (k : Bool)
  | mflag (s : Bool) (d : BitVec 5) (k : Bool)
  -- loom (R347)
  | lmjoin (s : Bool) (a : BitVec 5) (n : BitVec 2)
  | lmjoinLeave (s : Bool)
  | draft (s : Bool) (a : BitVec 5)
  | warp (s : Bool) (a : BitVec 5)
  | weft (s : Bool) (a : BitVec 5)
  | lmgo (s : Bool) (a : BitVec 5)
  | lmwait (s : Bool) (d : BitVec 5)
  | lmstat (s : Bool) (d : BitVec 5)
  -- pigeonhole (R364)
  | phclaim (s : Bool) (a : BitVec 5)
  | phins (s : Bool) (d a b : BitVec 5) (v : Bool)
  | phprb (s : Bool) (d a b : BitVec 5) (v : Bool)
  | phdel (s : Bool) (a b : BitVec 5) (v : Bool)
  | phacc (s : Bool) (d a b : BitVec 5) (op : PhAcc) (v : Bool)
  | phdrn (s : Bool) (d a b : BitVec 5) (k : Bool)
  | phfree (s : Bool) (a : BitVec 5)
  -- network (R383)
  | popen (s : Bool) (a : BitVec 5)
  | psend (s : Bool) (a : BitVec 5) (v e : Bool)
  | precv (s : Bool) (d : BitVec 5) (v : Bool) (n : BitVec 2)
  | mcast (s : Bool) (d a b : BitVec 5)
  | sendt (s : Bool) (d a : BitVec 5) (slot : BitVec 13)
  | rwin (s : Bool) (a : BitVec 5) (n : BitVec 2)
  | pstat (s : Bool) (d : BitVec 5) (n : BitVec 2)
  -- events that carry what happens (spec/95_what_each_step_holds.md)
  | registerWritePerformed (ctx : Fin 11) (seq : Nat)
  | pauseExpiry (ctx : Fin 11)
  | helperStops (ctx : Fin 11)
  | dispatch (q : BitVec 8) (placed : List (BitVec 12))
  | remoteAccess (core : BitVec 12) (jobid : BitVec 32) (op : RemoteOp)
  | retryResend (seq : Nat)
  | dieFenced (die : BitVec 2)
  | deferredUncorrectable (ctx : Fin 11) (seq : Nat) (source : BitVec 3) (iaddr caddr : Word)
  | walk (va : Word)
  | tlbinvCompletion (ctx : Fin 11)
  | slotLands (ctx : Fin 11) (tag : BitVec 5)
  | streamFetch (n : BitVec 2)
  | commandStart (q : Fin 5)
  | commandCompletion (q : Fin 5)
  | firmwarePath (q : Fin 5) (resolved : Bool)
  | arrival (g : BitVec 5) (core : BitVec 12) (weight : BitVec 16) (report : Option (Fin 11 × Nat))
  | expectReachesRoot (g : BitVec 5) (n : BitVec 16)
  | completionBroadcast (g : BitVec 5) (phase : BitVec 16)
  | pulse (src : BitVec 8)
  | heldHelperStart (term : BitVec 4)
  | probe (ctx : Fin 11)
  | probeReceived (ctx : Fin 11) (sender minimum : BitVec 16)
  | takePresentedAgain (ctx : Fin 11)
  | matrixResidueFault (ctx : Fin 11) (detail : BitVec 32) (iaddr caddr : Word)
  | pick (inWarp inWeft : Option Tile)
  | rePickPass (inWarp inWeft : Option Tile)
  | weaveEnd (others : Option MissedAt)
  | portWordArrival (port : BitVec 2) (src : BitVec 12) (w : Word) (closes : Bool)
  | closingMarker (port : BitVec 2)
  | abortCloseFlit (port : BitVec 2)
  | sendAllowance (ctx : Fin 11)
  | reclaimMessage (port : BitVec 2) (n : Nat)
  | mcastHop (ctx : Fin 11) (seq : Nat) (refused : Bool)
  | teardownCompletes (q : BitVec 8)
  | counterOverflow (n : BitVec 4)
  | accessPerformed (seq : Nat)
  | icinvCompletion (ctx : Fin 11)
  | routerArbitration (reqs : List RouterReq)
  -- events without operands: those of the host and the outside take what they bring from the inbox
  | undefinedInstruction
  | coreFree
  | coreSave
  | landingSetDrainBound
  | restore
  | hostWrite
  | hostRead
  | arbiterStep
  | matrixCommandComplete
  | stationaryPairGrant
  | mswapTakesEffect
  | weaveStart
  | latchedTask
  | clusterReset
  | doorbell
  | qbase
  | qsize
  | qhead
  | queueEnable
  | queueDisable
  | teardown
  | registerWrite
  | elbase
  | lost
  | trdrop
  | debugClaim
  | debugRelease
  | stop
  | resume
  | step
  | kill
  | dbgdataRead
  | dbgdataWrite
  | cntcfg
  | testSlice
  | testSliceEnd
  | ptmExchange
  | getMeasurements
  | vendorDefinedRequest
  | pwrctl
  | pwrst
  | throttleWindow
  | trip
  | coldReset
  | functionLevelReset
  | d3hot
  | d0
  | d3cold
  | luralPortDown
  | peerDeviceAccess
  | hostAtomicop
  | hostLinkDown
  | spdmRequest
  | configurationSpaceAccess
  deriving DecidableEq, Repr

end Sys2Proof
end

