-- ==== Sys2Proof/WellFormed.lean ====
section
/-! DEFINITION. Which terms of `Instr` are instructions of the part: the accepted types, scopes, queue numbers, loop
sets and prefixes of each instruction (R35, R37, R43, R45, R109, R167, R170, R237, R281). -/

namespace Sys2Proof

/-- Why a word, or a pair, is not an instruction (R43). Each raises the undefined-instruction trap. -/
inductive DecodeError where
  /-- The bytes end before the word does. -/
  | truncated
  /-- R41: the opcode value is unassigned, the all-zero word included. -/
  | unassignedOpcode
  /-- R35, R36: a nonzero bit in a reserved field. -/
  | reservedField
  /-- R37: a type, width, function or scope code that the instruction does not accept. -/
  | badCode
  /-- R43: a loop-set field of 3. -/
  | badLoopSet
  /-- R7, R53: a selector that names no control register. -/
  | noControlRegister
  /-- R43, R45: an EXT before an instruction that accepts none, or before a second EXT. -/
  | extNotAccepted
  /-- R167: a prefix word that the vector instruction does not accept. -/
  | badVectorExt
  /-- R236: a queue number that the instruction does not accept. -/
  | badQueue
  /-- The term is one of the table's events: it has no encoding. -/
  | noEncoding
  deriving DecidableEq, Repr

/-- The lane width of a type (R38, R165, R178): 6-bit elements take one byte each. -/
def IntTy.width : IntTy → Nat
  | .s8 => 8 | .s16 => 16 | .s32 => 32 | .s64 => 64
  | .z8 => 8 | .z16 => 16 | .z32 => 32 | .z64 => 64

/-- A `.s` type (R38). -/
def IntTy.signed : IntTy → Bool
  | .s8 => true | .s16 => true | .s32 => true | .s64 => true
  | .z8 => false | .z16 => false | .z32 => false | .z64 => false

/-- Lane width of a float type (R165). -/
def FloatTy.width : FloatTy → Nat
  | .f32 => 32 | .f16 => 16 | .bf16 => 16

/-- Lane width of an I or F type (R165). -/
def LaneTy.width : LaneTy → Nat
  | .int t => t.width
  | .float t => t.width

/-- A float code, 8 to 10 (R170). -/
def LaneTy.isFloat : LaneTy → Bool
  | .int _ => false
  | .float _ => true

/-- Width in bits of one element as VCVT places it (R178). -/
def Ty.cvtWidth : Ty → Nat
  | .lane t => t.width
  | .e4m3 => 8 | .e5m2 => 8 | .e3m2 => 8 | .e2m3 => 8
  | .e2m1 => 4 | .cb4 => 4 | .s4 => 4

/-- The prefix checks of R167: a stream stands only for a v register field, whose field then holds 0; `satOk` says
whether the instruction and its type accept SAT. A stream number whose flag is 0 is a field that the instruction does not
use, and must be 0 (R35, R10). -/
def vextOk (x : Option VExt) (d a b : Option (BitVec 5)) (satOk : Bool) : Option DecodeError :=
  match x with
  | none => none
  | some e =>
    if (!e.ds || d == some 0) && (!e.as || a == some 0) && (!e.bs || b == some 0) && (!e.sat || satOk)
        && (e.ds || e.dsn == 0) && (e.as || e.asn == 0) && (e.bs || e.bsn == 0)
    then none else some .badVectorExt

/-- `none` when `c` holds, the error otherwise. -/
def need (c : Bool) (e : DecodeError) : Option DecodeError := if c then none else some e

/-- The first error of two checks. -/
def both (a b : Option DecodeError) : Option DecodeError :=
  match a with
  | some e => some e
  | none => b

/-- The types VSHUF accepts with a function (R175). -/
def shufOk (t : Ty) (f : ShufFn) : Bool :=
  match t, f with
  | .e3m2, .pk6 => true | .e3m2, .up6 => true | .e2m3, .pk6 => true | .e2m3, .up6 => true
  | .lane _, .pk6 => false | .lane _, .up6 => false
  | .lane _, _ => true
  | _, _ => false

/-- VSHUF functions that read vB (R175). -/
def ShufFn.usesB : ShufFn → Bool
  | .lo => true | .hi => true | .even => true | .odd => true
  | .rev => false | .pk6 => false | .up6 => false

/-- VRED ops that accept float types (R177). -/
def RedOp.floatOk : RedOp → Bool
  | .add => true | .min => true | .max => true
  | .and => false | .or => false | .xor => false

/-- The ratio r of R178. -/
def cvtRatio (src dst : Ty) : Nat :=
  Nat.max src.cvtWidth dst.cvtWidth / Nat.min src.cvtWidth dst.cvtWidth

/-- A type VCVT accepts (R178): codes 0 to 15 and 17. -/
def Ty.cvtOk : Ty → Bool
  | .cb4 => false
  | _ => true

/-- Op 7 takes only type code 2 (R281). -/
def atomicOk (op : AtomicOp) (t : AtomicTy) : Bool := op != .addf || t == .z32

/-- `none` for a well-formed instruction; otherwise the first reason it is not one. -/
def Instr.check : Instr → Option DecodeError
  | .mulh _ _ _ _ t => need (t == .s64 || t == .z64) .badCode
  | .bfx _ _ _ _ t => need (t == .s64 || t == .z64) .badCode
  | .bfi _ _ _ _ t => need (t == .s64) .badCode
  | .abs _ _ _ t _ => need t.signed .badCode
  | .movFromLoop _ _ n _ => need (n != 3) .badLoopSet
  | .movToLoop _ n _ _ => need (n != 3) .badLoopSet
  | .loop _ n _ _ _ => need (n != 3) .badLoopSet
  | .loopi _ n _ _ _ => need (n != 3) .badLoopSet
  | .rptf _ _ _ _ _ k e => need (e.isNone || k == 0) .reservedField
  | .gang _ n => need (n != 0) .badCode
  | .icinv _ _ c => need (c != .sys) .badCode
  | .tlbinv _ _ _ c => need (c != .sys) .badCode
  | .vadd _ d a b t _ x => vextOk x (some d) (some a) (some b) (!t.isFloat)
  | .vsub _ d a b t _ x => vextOk x (some d) (some a) (some b) (!t.isFloat)
  | .vmul _ d a b t _ x => vextOk x (some d) (some a) (some b) (!t.isFloat)
  | .vfma _ _ a b _ _ x => vextOk x none (some a) (some b) false
  | .vmin _ d a b _ _ x => vextOk x (some d) (some a) (some b) false
  | .vmax _ d a b _ _ x => vextOk x (some d) (some a) (some b) false
  | .vabs _ d a t _ x => vextOk x (some d) (some a) none (!t.isFloat)
  | .vand _ d a b _ _ x => vextOk x (some d) (some a) (some b) false
  | .vor _ d a b _ _ x => vextOk x (some d) (some a) (some b) false
  | .vxor _ d a b _ _ x => vextOk x (some d) (some a) (some b) false
  | .vshl _ d a b _ _ x => vextOk x (some d) (some a) (some b) false
  | .vshr _ d a b _ _ x => vextOk x (some d) (some a) (some b) false
  | .vcmp _ _ a b _ _ x => vextOk x none (some a) (some b) false
  | .vsel _ d a b _ _ x => vextOk x (some d) (some a) (some b) false
  | .vshuf _ d a b t f x =>
    both (need (shufOk t f) .badCode)
      (both (need (f.usesB || b == 0) .reservedField)
        (vextOk x (some d) (some a) (if f.usesB then some b else none) false))
  | .vperm _ d a b _ _ x => vextOk x (some d) (some a) (some b) false
  | .vbcast _ d _ _ _ x => vextOk x (some d) none none false
  | .vred _ _ a op t _ x => both (need (op.floatOk || !t.isFloat) .badCode) (vextOk x none (some a) none false)
  | .vcvt _ d a src dst k x =>
    both (need (src.cvtOk && dst.cvtOk && decide (cvtRatio src dst ≤ 8) && decide (k.toNat < cvtRatio src dst)) .badCode)
      (vextOk x (some d) (some a) none false)
  | .vmovxExtract _ _ a _ _ x => vextOk x none (some a) none false
  | .vmovxInsert _ d _ _ _ x => vextOk x (some d) none none false
  | .vrcp _ d a _ _ x => vextOk x (some d) (some a) none false
  | .vrsq _ d a _ _ x => vextOk x (some d) (some a) none false
  | .vinterp _ d a _ _ x => vextOk x (some d) (some a) none false
  | .qpush _ q _ _ => need (decide (q.toNat ≤ 3)) .badQueue
  | .qpop _ _ q => need (decide (q.toNat ≤ 5)) .badQueue
  | .qtry _ _ q => need (decide (q.toNat ≤ 4)) .badQueue
  | .qlen _ _ q => need (decide (q.toNat ≤ 4)) .badQueue
  | .wmrd _ _ q => need (decide (q.toNat ≤ 3)) .badQueue
  | .amo _ _ _ _ op _ _ t => need (atomicOk op t) .badCode
  | .red _ _ _ op _ _ t => need (atomicOk op t) .badCode
  | .redv _ _ _ _ op _ t => need (atomicOk op t) .badCode
  | .lmjoin _ _ n => need (n != 0) .badCode
  | .add _ _ _ _ _ _ => none
  | .addi _ _ _ _ _ => none
  | .sub _ _ _ _ _ _ => none
  | .mul _ _ _ _ _ _ => none
  | .muli _ _ _ _ _ => none
  | .div _ _ _ _ _ => none
  | .rem _ _ _ _ _ => none
  | .and _ _ _ _ _ => none
  | .andi _ _ _ _ _ => none
  | .or _ _ _ _ _ => none
  | .ori _ _ _ _ _ => none
  | .xor _ _ _ _ _ => none
  | .xori _ _ _ _ _ => none
  | .shl _ _ _ _ _ => none
  | .shli _ _ _ _ => none
  | .shr _ _ _ _ _ => none
  | .shri _ _ _ _ => none
  | .sra _ _ _ _ _ => none
  | .srai _ _ _ _ => none
  | .clz _ _ _ _ => none
  | .ctz _ _ _ _ => none
  | .popc _ _ _ _ => none
  | .min _ _ _ _ _ => none
  | .max _ _ _ _ _ => none
  | .mov _ _ _ => none
  | .movi _ _ _ _ => none
  | .lea _ _ _ _ _ _ _ => none
  | .slt _ _ _ _ _ => none
  | .slti _ _ _ _ _ => none
  | .seq _ _ _ _ _ => none
  | .seqi _ _ _ _ _ => none
  | .sel _ _ _ _ _ => none
  | .pcmp _ _ _ _ _ _ => none
  | .plog _ _ _ _ _ => none
  | .pmovToPredicate _ _ _ => none
  | .pmovFromPredicate _ _ _ => none
  | .pcnt _ _ _ _ => none
  | .br _ _ _ => none
  | .call _ _ _ => none
  | .jr _ _ => none
  | .callr _ _ => none
  | .ret _ => none
  | .beqz _ _ _ _ => none
  | .bnez _ _ _ _ => none
  | .bltz _ _ _ _ => none
  | .bgez _ _ _ _ => none
  | .bpany _ _ _ _ => none
  | .bpnone _ _ _ _ => none
  | .nop _ => none
  | .hstart _ _ _ _ _ => none
  | .hend _ => none
  | .hwait _ _ => none
  | .hstat _ _ => none
  | .split _ => none
  | .trap _ _ => none
  | .rte _ => none
  | .rteXa _ _ => none
  | .endCore _ => none
  | .mfc _ _ _ => none
  | .mtc _ _ _ => none
  | .brk _ _ => none
  | .pause _ _ => none
  | .cntrd _ _ _ => none
  | .vtbld _ _ _ => none
  | .ld _ _ _ _ _ _ _ _ _ => none
  | .st _ _ _ _ _ _ _ _ _ => none
  | .ldc _ _ _ _ _ _ _ => none
  | .vld _ _ _ _ _ _ _ _ => none
  | .vst _ _ _ _ _ _ _ _ => none
  | .vldb _ _ _ _ _ _ _ => none
  | .vgth _ _ _ _ _ _ _ => none
  | .vsct _ _ _ _ _ _ _ => none
  | .pref _ _ _ _ _ => none
  | .flush _ _ _ _ _ _ => none
  | .tlbprb _ _ _ => none
  | .tlbwait _ => none
  | .rgnq _ _ _ => none
  | .ldt _ _ _ _ _ _ _ => none
  | .tka _ _ _ _ => none
  | .tkt _ _ _ _ => none
  | .reld _ _ => none
  | .reldDrop _ _ => none
  | .lsq _ _ _ => none
  | .lsmode _ _ => none
  | .gx _ _ _ => none
  | .gxs _ _ _ => none
  | .compact _ _ _ => none
  | .sbind _ _ _ _ _ _ => none
  | .sbindAffine _ _ _ _ _ => none
  | .sfree _ _ => none
  | .sstat _ _ _ => none
  | .sadv _ _ _ => none
  | .arv _ _ _ _ _ => none
  | .arvn _ _ _ _ _ _ => none
  | .wait _ _ _ => none
  | .wtest _ _ _ _ => none
  | .expect _ _ _ => none
  | .sync _ _ => none
  | .fence _ _ _ => none
  | .bbset _ _ _ _ => none
  | .bbrd _ _ _ _ => none
  | .bbclr _ _ => none
  | .bbpulse _ _ => none
  | .phase _ _ _ => none
  | .bgstat _ _ _ => none
  | .dlkst _ _ _ => none
  | .cas _ _ _ _ _ _ _ => none
  | .ftake _ _ _ _ => none
  | .fput _ _ _ _ => none
  | .fpeek _ _ _ _ => none
  | .finit _ _ _ _ => none
  | .spkclaim _ _ => none
  | .spkpush _ _ => none
  | .spkpop _ _ _ => none
  | .spkins _ _ _ _ => none
  | .spklen _ _ => none
  | .spkfree _ => none
  | .swalloc _ _ _ => none
  | .swstat _ _ _ => none
  | .mctx _ _ => none
  | .mmul _ _ _ _ _ => none
  | .mloads _ _ => none
  | .mswap _ => none
  | .mstream _ _ _ => none
  | .mdrain _ => none
  | .acrd _ _ _ => none
  | .acwr _ _ _ => none
  | .mchkKat _ _ => none
  | .mchkInj _ _ _ => none
  | .mzeroAcc _ _ => none
  | .mzeroSt _ => none
  | .mstat _ _ => none
  | .mwait _ _ => none
  | .mcbk _ _ _ => none
  | .mflag _ _ _ => none
  | .lmjoinLeave _ => none
  | .draft _ _ => none
  | .warp _ _ => none
  | .weft _ _ => none
  | .lmgo _ _ => none
  | .lmwait _ _ => none
  | .lmstat _ _ => none
  | .phclaim _ _ => none
  | .phins _ _ _ _ _ => none
  | .phprb _ _ _ _ _ => none
  | .phdel _ _ _ _ => none
  | .phacc _ _ _ _ _ _ => none
  | .phdrn _ _ _ _ _ => none
  | .phfree _ _ => none
  | .popen _ _ => none
  | .psend _ _ _ _ => none
  | .precv _ _ _ _ => none
  | .mcast _ _ _ _ => none
  | .sendt _ _ _ _ => none
  | .rwin _ _ _ => none
  | .pstat _ _ _ => none
  | .undefinedInstruction => some .noEncoding
  | .registerWritePerformed _ _ => some .noEncoding
  | .pauseExpiry _ => some .noEncoding
  | .helperStops _ => some .noEncoding
  | .coreFree => some .noEncoding
  | .dispatch _ _ => some .noEncoding
  | .coreSave => some .noEncoding
  | .landingSetDrainBound => some .noEncoding
  | .restore => some .noEncoding
  | .remoteAccess _ _ _ => some .noEncoding
  | .retryResend _ => some .noEncoding
  | .dieFenced _ => some .noEncoding
  | .deferredUncorrectable _ _ _ _ _ => some .noEncoding
  | .walk _ => some .noEncoding
  | .tlbinvCompletion _ => some .noEncoding
  | .hostWrite => some .noEncoding
  | .hostRead => some .noEncoding
  | .slotLands _ _ => some .noEncoding
  | .streamFetch _ => some .noEncoding
  | .commandStart _ => some .noEncoding
  | .commandCompletion _ => some .noEncoding
  | .firmwarePath _ _ => some .noEncoding
  | .arrival _ _ _ _ => some .noEncoding
  | .expectReachesRoot _ _ => some .noEncoding
  | .completionBroadcast _ _ => some .noEncoding
  | .pulse _ => some .noEncoding
  | .heldHelperStart _ => some .noEncoding
  | .probe _ => some .noEncoding
  | .probeReceived _ _ _ => some .noEncoding
  | .takePresentedAgain _ => some .noEncoding
  | .arbiterStep => some .noEncoding
  | .matrixCommandComplete => some .noEncoding
  | .matrixResidueFault _ _ _ _ => some .noEncoding
  | .stationaryPairGrant => some .noEncoding
  | .mswapTakesEffect => some .noEncoding
  | .weaveStart => some .noEncoding
  | .pick _ _ => some .noEncoding
  | .latchedTask => some .noEncoding
  | .rePickPass _ _ => some .noEncoding
  | .weaveEnd _ => some .noEncoding
  | .portWordArrival _ _ _ _ => some .noEncoding
  | .closingMarker _ => some .noEncoding
  | .abortCloseFlit _ => some .noEncoding
  | .sendAllowance _ => some .noEncoding
  | .reclaimMessage _ _ => some .noEncoding
  | .mcastHop _ _ _ => some .noEncoding
  | .clusterReset => some .noEncoding
  | .doorbell => some .noEncoding
  | .qbase => some .noEncoding
  | .qsize => some .noEncoding
  | .qhead => some .noEncoding
  | .queueEnable => some .noEncoding
  | .queueDisable => some .noEncoding
  | .teardown => some .noEncoding
  | .teardownCompletes _ => some .noEncoding
  | .registerWrite => some .noEncoding
  | .elbase => some .noEncoding
  | .lost => some .noEncoding
  | .trdrop => some .noEncoding
  | .debugClaim => some .noEncoding
  | .debugRelease => some .noEncoding
  | .stop => some .noEncoding
  | .resume => some .noEncoding
  | .step => some .noEncoding
  | .kill => some .noEncoding
  | .dbgdataRead => some .noEncoding
  | .dbgdataWrite => some .noEncoding
  | .cntcfg => some .noEncoding
  | .counterOverflow _ => some .noEncoding
  | .testSlice => some .noEncoding
  | .testSliceEnd => some .noEncoding
  | .ptmExchange => some .noEncoding
  | .getMeasurements => some .noEncoding
  | .vendorDefinedRequest => some .noEncoding
  | .pwrctl => some .noEncoding
  | .pwrst => some .noEncoding
  | .throttleWindow => some .noEncoding
  | .trip => some .noEncoding
  | .coldReset => some .noEncoding
  | .functionLevelReset => some .noEncoding
  | .d3hot => some .noEncoding
  | .d0 => some .noEncoding
  | .d3cold => some .noEncoding
  | .luralPortDown => some .noEncoding
  | .accessPerformed _ => some .noEncoding
  | .icinvCompletion _ => some .noEncoding
  | .routerArbitration _ => some .noEncoding
  | .peerDeviceAccess => some .noEncoding
  | .hostAtomicop => some .noEncoding
  | .hostLinkDown => some .noEncoding
  | .spdmRequest => some .noEncoding
  | .configurationSpaceAccess => some .noEncoding

/-- The instruction is one the part has an encoding for, with operands it accepts. -/
abbrev WellFormed (i : Instr) : Prop := i.check = none

end Sys2Proof
end

