-- ==== Sys2Proof/Decode.lean ====
section
/-! DEFINITION. The decoder and the encoder, both written from the encoding tables of the spec (R33 to R46 and each
class's table). Decoding is total on any bytes and rejects by name (R43). -/

namespace Sys2Proof

/-! ## The fields of a word (R34) -/

/-- The fields of a format-R word; formats I and B read their immediates across them (R34). -/
structure Fields where
  op : BitVec 8
  s : Bool
  d : BitVec 5
  a : BitVec 5
  b : BitVec 5
  f : BitVec 8
  deriving DecidableEq, Repr

/-- The word that holds the fields (R34). -/
def Fields.pack (x : Fields) : Word32 :=
  x.op ++ (BitVec.ofBool x.s ++ (x.d ++ (x.a ++ (x.b ++ x.f))))

/-- The fields of a word (R34). -/
def Fields.unpack (w : Word32) : Fields :=
  { op := w.extractLsb' 24 8, s := w.getLsbD 23, d := w.extractLsb' 18 5, a := w.extractLsb' 13 5,
    b := w.extractLsb' 8 5, f := w.extractLsb' 0 8 }

/-- F[7:3], the type code of the typed layout (R37). -/
def Fields.ty (x : Fields) : BitVec 5 := x.f.extractLsb' 3 5
/-- F[2:0], the variant of the typed layout (R37). -/
def Fields.var (x : Fields) : BitVec 3 := x.f.extractLsb' 0 3
/-- F[7:5], the width code of the ordered layout (R37). -/
def Fields.w (x : Fields) : BitVec 3 := x.f.extractLsb' 5 3
/-- F[4:3], the scope code (R37, R39). -/
def Fields.c (x : Fields) : BitVec 2 := x.f.extractLsb' 3 2
/-- F[2], the ordering bit (R37). -/
def Fields.o (x : Fields) : Bool := x.f.getLsbD 2
/-- F[1:0], the index shift (R37). -/
def Fields.k (x : Fields) : BitVec 2 := x.f.extractLsb' 0 2
/-- imm13 of format I (R34). -/
def Fields.imm (x : Fields) : BitVec 13 := x.b ++ x.f
/-- disp23 of format B (R34). -/
def Fields.disp (x : Fields) : BitVec 23 := x.d ++ (x.a ++ (x.b ++ x.f))

/-! ## Codes (R37, R38, R39, R53) -/

def IntTy.code : IntTy → BitVec 5
  | .s8 => 0 | .s16 => 1 | .s32 => 2 | .s64 => 3 | .z8 => 4 | .z16 => 5 | .z32 => 6 | .z64 => 7

def IntTy.ofCode (c : BitVec 5) : Option IntTy :=
  match c.toNat with
  | 0 => some .s8 | 1 => some .s16 | 2 => some .s32 | 3 => some .s64
  | 4 => some .z8 | 5 => some .z16 | 6 => some .z32 | 7 => some .z64
  | _ => none

def FloatTy.code : FloatTy → BitVec 5
  | .f32 => 8 | .f16 => 9 | .bf16 => 10

def FloatTy.ofCode (c : BitVec 5) : Option FloatTy :=
  match c.toNat with
  | 8 => some .f32 | 9 => some .f16 | 10 => some .bf16
  | _ => none

def LaneTy.code : LaneTy → BitVec 5
  | .int t => t.code
  | .float t => t.code

def LaneTy.ofCode (c : BitVec 5) : Option LaneTy :=
  match IntTy.ofCode c with
  | some t => some (.int t)
  | none =>
    match FloatTy.ofCode c with
    | some t => some (.float t)
    | none => none

def Ty.code : Ty → BitVec 5
  | .lane t => t.code
  | .e4m3 => 11 | .e5m2 => 12 | .e3m2 => 13 | .e2m3 => 14 | .e2m1 => 15 | .cb4 => 16 | .s4 => 17

def Ty.ofCode (c : BitVec 5) : Option Ty :=
  match LaneTy.ofCode c with
  | some t => some (.lane t)
  | none =>
    match c.toNat with
    | 11 => some .e4m3 | 12 => some .e5m2 | 13 => some .e3m2 | 14 => some .e2m3
    | 15 => some .e2m1 | 16 => some .cb4 | 17 => some .s4
    | _ => none

def Variant.code : Variant → BitVec 3
  | .wrap => 0 | .sat => 1

def Variant.ofCode (c : BitVec 3) : Option Variant :=
  match c.toNat with
  | 0 => some .wrap | 1 => some .sat
  | _ => none

def Scope.code : Scope → BitVec 2
  | .core => 0 | .clu => 1 | .dev => 2 | .sys => 3

def Scope.ofCode (c : BitVec 2) : Scope :=
  match c.toNat with
  | 0 => .core | 1 => .clu | 2 => .dev
  | _ => .sys

def LdWidth.code : LdWidth → BitVec 3
  | .z8 => 0 | .z16 => 1 | .z32 => 2 | .z64 => 3 | .s8 => 4 | .s16 => 5 | .s32 => 6

def LdWidth.ofCode (c : BitVec 3) : Option LdWidth :=
  match c.toNat with
  | 0 => some .z8 | 1 => some .z16 | 2 => some .z32 | 3 => some .z64
  | 4 => some .s8 | 5 => some .s16 | 6 => some .s32
  | _ => none

def MemWidth.code : MemWidth → BitVec 3
  | .w8 => 0 | .w16 => 1 | .w32 => 2 | .w64 => 3

def MemWidth.ofCode (c : BitVec 3) : Option MemWidth :=
  match c.toNat with
  | 0 => some .w8 | 1 => some .w16 | 2 => some .w32 | 3 => some .w64
  | _ => none

def TagWidth.code : TagWidth → BitVec 3
  | .scalar w => w.code
  | .vec => 7

def TagWidth.ofCode (c : BitVec 3) : TagWidth :=
  match LdWidth.ofCode c with
  | some w => .scalar w
  | none => .vec

def Cond.code : Cond → BitVec 3
  | .eq => 0 | .ne => 1 | .lt => 2 | .le => 3 | .gt => 4 | .ge => 5

def Cond.ofCode (c : BitVec 3) : Option Cond :=
  match c.toNat with
  | 0 => some .eq | 1 => some .ne | 2 => some .lt | 3 => some .le | 4 => some .gt | 5 => some .ge
  | _ => none

def AtomicOp.code : AtomicOp → BitVec 3
  | .add => 0 | .and => 1 | .or => 2 | .xor => 3 | .min => 4 | .max => 5 | .swap => 6 | .addf => 7

def AtomicOp.ofCode (c : BitVec 3) : AtomicOp :=
  match c.toNat with
  | 0 => .add | 1 => .and | 2 => .or | 3 => .xor | 4 => .min | 5 => .max | 6 => .swap
  | _ => .addf

def AtomicTy.code : AtomicTy → BitVec 2
  | .z64 => 0 | .s64 => 1 | .z32 => 2 | .s32 => 3

def AtomicTy.ofCode (c : BitVec 2) : AtomicTy :=
  match c.toNat with
  | 0 => .z64 | 1 => .s64 | 2 => .z32
  | _ => .s32

def RedOp.code : RedOp → BitVec 5
  | .add => 0 | .min => 1 | .max => 2 | .and => 3 | .or => 4 | .xor => 5

def RedOp.ofCode (c : BitVec 5) : Option RedOp :=
  match c.toNat with
  | 0 => some .add | 1 => some .min | 2 => some .max | 3 => some .and | 4 => some .or | 5 => some .xor
  | _ => none

def ShufFn.code : ShufFn → BitVec 3
  | .lo => 0 | .hi => 1 | .even => 2 | .odd => 3 | .rev => 4 | .pk6 => 5 | .up6 => 6

def ShufFn.ofCode (c : BitVec 3) : Option ShufFn :=
  match c.toNat with
  | 0 => some .lo | 1 => some .hi | 2 => some .even | 3 => some .odd | 4 => some .rev
  | 5 => some .pk6 | 6 => some .up6
  | _ => none

/-- Op code and type code of an accepted PHACC pair (R364): F[7:5] and F[4:3]. -/
def PhAcc.code : PhAcc → BitVec 5
  | .addS64 => 0b00000 | .addF32 => 0b00010 | .minS64 => 0b00100 | .minZ64 => 0b00101
  | .maxS64 => 0b01000 | .maxZ64 => 0b01001 | .orZ64 => 0b01101

def PhAcc.ofCode (c : BitVec 5) : Option PhAcc :=
  match c.toNat with
  | 0b00000 => some .addS64 | 0b00010 => some .addF32 | 0b00100 => some .minS64 | 0b00101 => some .minZ64
  | 0b01000 => some .maxS64 | 0b01001 => some .maxZ64 | 0b01101 => some .orZ64
  | _ => none

/-- The selectors of R53. -/
def CtrlReg.code : CtrlReg → BitVec 13
  | .ctxst => 0x000 | .corenum => 0x001 | .jobarg => 0x002 | .jobid => 0x003 | .devtime => 0x004
  | .sstep => 0x005 | .trapvec => 0x008 | .traprec n => 0b00000000100#11 ++ n | .mbox n => 0b0000000100#10 ++ n
  | .mbq => 0x028 | .rptst => 0x030 | .rptpc => 0x031 | .bgmask => 0x040 | .imbal0 => 0x041
  | .imbal1 => 0x042 | .sig => 0x048

def CtrlReg.ofCode (c : BitVec 13) : Option CtrlReg :=
  match c.toNat with
  | 0x000 => some .ctxst | 0x001 => some .corenum | 0x002 => some .jobarg | 0x003 => some .jobid
  | 0x004 => some .devtime | 0x005 => some .sstep | 0x008 => some .trapvec
  | 0x010 => some (.traprec 0) | 0x011 => some (.traprec 1) | 0x012 => some (.traprec 2) | 0x013 => some (.traprec 3)
  | 0x020 => some (.mbox 0) | 0x021 => some (.mbox 1) | 0x022 => some (.mbox 2) | 0x023 => some (.mbox 3)
  | 0x024 => some (.mbox 4) | 0x025 => some (.mbox 5) | 0x026 => some (.mbox 6) | 0x027 => some (.mbox 7)
  | 0x028 => some .mbq | 0x030 => some .rptst | 0x031 => some .rptpc | 0x040 => some .bgmask
  | 0x041 => some .imbal0 | 0x042 => some .imbal1 | 0x048 => some .sig
  | _ => none

/-- EXT[23:0] of a vector prefix word (R167). -/
def VExt.code (x : VExt) : BitVec 24 :=
  0#5 ++ (BitVec.ofBool x.sat ++ (BitVec.ofBool x.ds ++ (x.dsn ++ (BitVec.ofBool x.as ++ (x.asn ++
    (BitVec.ofBool x.bs ++ (x.bsn ++ 0#9)))))))

/-- The vector prefix word of R167; bits [23:19] and [8:0] are reserved. -/
def VExt.ofCode (e : BitVec 24) : Option VExt :=
  if e.extractLsb' 19 5 = 0 ∧ e.extractLsb' 0 9 = 0 then
    some { sat := e.getLsbD 18, ds := e.getLsbD 17, dsn := e.extractLsb' 15 2, as := e.getLsbD 14,
           asn := e.extractLsb' 12 2, bs := e.getLsbD 11, bsn := e.extractLsb' 9 2 }
  else none

/-! ## Reading the fields of each class -/

/-- What one class's reader answers. -/
abbrev Parsed := Except DecodeError Instr

/-- Goes on when the reserved bits named hold 0 (R35, R36). -/
def rsv (c : Bool) (k : Parsed) : Parsed := if c then k else .error .reservedField

/-- Goes on with the operand a code names; an unaccepted code is rejected (R37). -/
def coded {α : Type} (o : Option α) (k : α → Parsed) : Parsed :=
  match o with
  | some x => k x
  | none => .error .badCode

/-- An instruction that accepts no EXT (R43, R45). -/
def bare (x : Ext) (k : Parsed) : Parsed :=
  match x with
  | none => k
  | some _ => .error .extNotAccepted

/-- The vector prefix word of R167, when there is one. -/
def vext (x : Ext) (k : Option VExt → Parsed) : Parsed :=
  match x with
  | none => k none
  | some e =>
    match VExt.ofCode e with
    | some v => k (some v)
    | none => .error .badVectorExt

/-- A selector of R53. -/
def selector (f : Fields) (k : CtrlReg → Parsed) : Parsed :=
  match CtrlReg.ofCode f.imm with
  | some r => k r
  | none => .error .noControlRegister

/-- Typed layout with a variant, three registers (R108, R109). -/
def typed3v (f : Fields) (x : Ext)
    (k : Bool → BitVec 5 → BitVec 5 → BitVec 5 → IntTy → Variant → Instr) : Parsed :=
  bare x (coded (IntTy.ofCode f.ty) fun t => coded (Variant.ofCode f.var) fun v => .ok (k f.s f.d f.a f.b t v))

/-- Typed layout without a variant, three registers (R109). -/
def typed3 (f : Fields) (x : Ext) (k : Bool → BitVec 5 → BitVec 5 → BitVec 5 → IntTy → Instr) : Parsed :=
  bare x (coded (IntTy.ofCode f.ty) fun t => rsv (f.var == 0) (.ok (k f.s f.d f.a f.b t)))

/-- Typed layout, two registers, field B reserved (R109). -/
def typed2 (f : Fields) (x : Ext) (k : Bool → BitVec 5 → BitVec 5 → IntTy → Instr) : Parsed :=
  bare x (coded (IntTy.ofCode f.ty) fun t => rsv (f.b == 0 && f.var == 0) (.ok (k f.s f.d f.a t)))

/-- Format I with a signed immediate that an EXT widens (R45, R110). -/
def immed (f : Fields) (x : Ext) (k : Bool → BitVec 5 → BitVec 5 → BitVec 13 → Ext → Instr) : Parsed :=
  .ok (k f.s f.d f.a f.imm x)

/-- The shifts by an immediate: imm13[12:6] is reserved and no EXT is accepted (R110). -/
def shimm (f : Fields) (x : Ext) (k : Bool → BitVec 5 → BitVec 5 → BitVec 6 → Instr) : Parsed :=
  bare x (rsv (f.b == 0 && f.f.extractLsb' 6 2 == 0) (.ok (k f.s f.d f.a (f.f.extractLsb' 0 6))))

/-- Opcodes 0x01 to 0x1C (R109, R110). -/
def parseScalar (f : Fields) (x : Ext) : Parsed :=
  match f.op.toNat with
  | 0x01 => typed3v f x .add
  | 0x02 => immed f x .addi
  | 0x03 => typed3v f x .sub
  | 0x04 => typed3v f x .mul
  | 0x05 => immed f x .muli
  | 0x06 => typed3 f x .mulh
  | 0x07 => typed3 f x .div
  | 0x08 => typed3 f x .rem
  | 0x09 => typed3 f x .and
  | 0x0A => immed f x .andi
  | 0x0B => typed3 f x .or
  | 0x0C => immed f x .ori
  | 0x0D => typed3 f x .xor
  | 0x0E => immed f x .xori
  | 0x0F => typed3 f x .shl
  | 0x10 => shimm f x .shli
  | 0x11 => typed3 f x .shr
  | 0x12 => shimm f x .shri
  | 0x13 => typed3 f x .sra
  | 0x14 => shimm f x .srai
  | 0x15 => typed2 f x .clz
  | 0x16 => typed2 f x .ctz
  | 0x17 => typed2 f x .popc
  | 0x18 => typed3 f x .min
  | 0x19 => typed3 f x .max
  | 0x1A => typed3 f x .bfx
  | 0x1B => typed3 f x .bfi
  | 0x1C => bare x (coded (IntTy.ofCode f.ty) fun t => coded (Variant.ofCode f.var) fun v =>
      rsv (f.b == 0) (.ok (.abs f.s f.d f.a t v)))
  | _ => .error .unassignedOpcode

/-- MOV's forms (R114). -/
def parseMov (f : Fields) : Parsed :=
  match f.f.toNat with
  | 0 => .ok (.mov f.s f.d f.a)
  | 1 => rsv (f.a.extractLsb' 2 3 == 0) (.ok (.movFromLoop f.s f.d (f.a.extractLsb' 0 2) .lc))
  | 2 => rsv (f.a.extractLsb' 2 3 == 0) (.ok (.movFromLoop f.s f.d (f.a.extractLsb' 0 2) .ls))
  | 3 => rsv (f.a.extractLsb' 2 3 == 0) (.ok (.movFromLoop f.s f.d (f.a.extractLsb' 0 2) .le))
  | 5 => rsv (f.d.extractLsb' 2 3 == 0) (.ok (.movToLoop f.s (f.d.extractLsb' 0 2) f.a .lc))
  | 6 => rsv (f.d.extractLsb' 2 3 == 0) (.ok (.movToLoop f.s (f.d.extractLsb' 0 2) f.a .ls))
  | 7 => rsv (f.d.extractLsb' 2 3 == 0) (.ok (.movToLoop f.s (f.d.extractLsb' 0 2) f.a .le))
  | _ => .error .reservedField

/-- A field that names a predicate register: its two high bits are reserved (R35). -/
def hi2 (r : BitVec 5) : Bool := r.extractLsb' 3 2 == 0
/-- A predicate register number (R35). -/
def pnum (r : BitVec 5) : BitVec 3 := r.extractLsb' 0 3
/-- A field that names a stream register or a loop set: its three high bits are reserved (R35). -/
def hi3 (r : BitVec 5) : Bool := r.extractLsb' 2 3 == 0
/-- A stream register or loop set number (R35). -/
def snum (r : BitVec 5) : BitVec 2 := r.extractLsb' 0 2

/-- Opcodes 0x20 to 0x2B (R114 to R120). -/
def parseMove (f : Fields) (x : Ext) : Parsed :=
  match f.op.toNat with
  | 0x20 => bare x (rsv (f.b == 0) (parseMov f))
  | 0x21 => rsv (f.a == 0) (.ok (.movi f.s f.d f.imm x))
  | 0x22 => .ok (.lea f.s f.d f.a f.b (f.f.extractLsb' 2 6) f.k x)
  | 0x23 => typed3 f x .slt
  | 0x24 => immed f x .slti
  | 0x25 => typed3 f x .seq
  | 0x26 => immed f x .seqi
  | 0x27 => bare x (rsv (f.ty == 0) (.ok (.sel f.s f.d f.a f.b f.var)))
  | 0x28 => bare x (rsv (hi2 f.d) (coded (IntTy.ofCode f.ty) fun t => coded (Cond.ofCode f.var) fun c =>
      .ok (.pcmp f.s (pnum f.d) f.a f.b t c)))
  | 0x29 => bare x (rsv (hi2 f.d && hi2 f.a && hi2 f.b && f.f.extractLsb' 4 4 == 0)
      (.ok (.plog f.s (pnum f.d) (pnum f.a) (pnum f.b) (f.f.extractLsb' 0 4))))
  | 0x2A => bare x (rsv (f.b == 0)
      (match f.f.toNat with
       | 0 => rsv (hi2 f.d) (.ok (.pmovToPredicate f.s (pnum f.d) f.a))
       | 1 => rsv (hi2 f.a) (.ok (.pmovFromPredicate f.s f.d (pnum f.a)))
       | _ => .error .reservedField))
  | 0x2B => bare x (rsv (hi2 f.a && f.b == 0 && f.var == 0) (coded (IntTy.ofCode f.ty) fun t =>
      .ok (.pcnt f.s f.d (pnum f.a) t)))
  | _ => .error .unassignedOpcode

/-- A format-I branch on an x register (R121). -/
def branch (f : Fields) (x : Ext) (k : Bool → BitVec 5 → BitVec 13 → Ext → Instr) : Parsed :=
  rsv (f.d == 0) (.ok (k f.s f.a f.imm x))

/-- A format-I branch on a predicate (R121). -/
def pbranch (f : Fields) (x : Ext) (k : Bool → BitVec 3 → BitVec 13 → Ext → Instr) : Parsed :=
  rsv (f.d == 0 && hi2 f.a) (.ok (k f.s (pnum f.a) f.imm x))

/-- Opcodes 0x30 to 0x3D (R55, R121, R125). -/
def parseControl (f : Fields) (x : Ext) : Parsed :=
  match f.op.toNat with
  | 0x30 => .ok (.br f.s f.disp x)
  | 0x31 => .ok (.call f.s f.disp x)
  | 0x32 => bare x (rsv (f.d == 0 && f.b == 0 && f.f == 0) (.ok (.jr f.s f.a)))
  | 0x33 => bare x (rsv (f.d == 0 && f.b == 0 && f.f == 0) (.ok (.callr f.s f.a)))
  | 0x34 => bare x (rsv (f.d == 0 && f.a == 0 && f.b == 0 && f.f == 0) (.ok (.ret f.s)))
  | 0x35 => branch f x .beqz
  | 0x36 => branch f x .bnez
  | 0x37 => branch f x .bltz
  | 0x38 => branch f x .bgez
  | 0x39 => pbranch f x .bpany
  | 0x3A => pbranch f x .bpnone
  | 0x3B => rsv (hi3 f.d && f.b == 0)
      (match x with
       | none => .ok (.loop f.s (snum f.d) f.a f.f none)
       | some e => rsv (e.extractLsb' 16 8 == 0) (.ok (.loop f.s (snum f.d) f.a f.f (some (e.extractLsb' 0 16)))))
  | 0x3C => rsv (hi3 f.d) (.ok (.loopi f.s (snum f.d) f.a f.imm x))
  | 0x3D =>
      (match x with
       | none => .ok (.rptf f.s f.d f.a f.b (f.f.extractLsb' 4 4) (f.f.extractLsb' 0 4) none)
       | some e => rsv (e.extractLsb' 20 4 == 0)
           (.ok (.rptf f.s f.d f.a f.b (f.f.extractLsb' 4 4) (f.f.extractLsb' 0 4) (some (e.extractLsb' 0 20)))))
  | _ => .error .unassignedOpcode

/-- Opcodes 0x40 to 0x4F (R132). -/
def parseSystem (f : Fields) (x : Ext) : Parsed :=
  match f.op.toNat with
  | 0x40 => bare x (rsv (f.d == 0 && f.a == 0 && f.b == 0 && f.f == 0) (.ok (.nop f.s)))
  | 0x41 => .ok (.hstart f.s f.d f.b (f.a ++ f.f) x)
  | 0x42 => bare x (rsv (f.d == 0 && f.a == 0 && f.b == 0 && f.f == 0) (.ok (.hend f.s)))
  | 0x43 => bare x (rsv (f.d == 0 && f.b == 0 && f.f == 0) (.ok (.hwait f.s f.a)))
  | 0x44 => bare x (rsv (f.a == 0 && f.b == 0 && f.f == 0) (.ok (.hstat f.s f.d)))
  | 0x45 => bare x (rsv (f.d == 0 && f.a == 0 && f.b == 0 && f.f.extractLsb' 2 6 == 0) (.ok (.gang f.s f.k)))
  | 0x46 => bare x (rsv (f.d == 0 && f.a == 0 && f.b == 0 && f.f == 0) (.ok (.split f.s)))
  | 0x47 => bare x (rsv (f.d == 0 && f.a == 0) (.ok (.trap f.s f.imm)))
  | 0x48 => bare x (rsv (f.d == 0 && f.b == 0)
      (match f.f.toNat with
       | 0 => rsv (f.a == 0) (.ok (.rte f.s))
       | 1 => .ok (.rteXa f.s f.a)
       | _ => .error .reservedField))
  | 0x49 => bare x (rsv (f.d == 0 && f.a == 0 && f.b == 0 && f.f == 0) (.ok (.endCore f.s)))
  | 0x4A => bare x (rsv (f.a == 0) (selector f fun r => .ok (.mfc f.s f.d r)))
  | 0x4B => bare x (rsv (f.d == 0) (selector f fun r => .ok (.mtc f.s f.a r)))
  | 0x4C => bare x (rsv (f.d == 0 && f.b == 0 && f.w == 0 && f.var == 0) (.ok (.icinv f.s f.a (Scope.ofCode f.c))))
  | 0x4D => bare x (rsv (f.d == 0 && f.a == 0 && f.b == 0) (.ok (.brk f.s f.f)))
  | 0x4E => bare x (rsv (f.d == 0 && f.a == 0) (.ok (.pause f.s f.imm)))
  | 0x4F => bare x (rsv (f.a == 0 && f.b == 0 && f.f.extractLsb' 4 4 == 0)
      (.ok (.cntrd f.s f.d (f.f.extractLsb' 0 4))))
  | _ => .error .unassignedOpcode

/-- vD, vA, vB with types I and F and a mask (R170). -/
def vec3 (f : Fields) (x : Ext)
    (k : Bool → BitVec 5 → BitVec 5 → BitVec 5 → LaneTy → BitVec 3 → Option VExt → Instr) : Parsed :=
  coded (LaneTy.ofCode f.ty) fun t => vext x fun e => .ok (k f.s f.d f.a f.b t f.var e)

/-- vD, vA, vB with types I and a mask (R170). -/
def vec3i (f : Fields) (x : Ext)
    (k : Bool → BitVec 5 → BitVec 5 → BitVec 5 → IntTy → BitVec 3 → Option VExt → Instr) : Parsed :=
  coded (IntTy.ofCode f.ty) fun t => vext x fun e => .ok (k f.s f.d f.a f.b t f.var e)

/-- vD, vA with types F and a mask (R170). -/
def vec2f (f : Fields) (x : Ext)
    (k : Bool → BitVec 5 → BitVec 5 → FloatTy → BitVec 3 → Option VExt → Instr) : Parsed :=
  rsv (f.b == 0) (coded (FloatTy.ofCode f.ty) fun t => vext x fun e => .ok (k f.s f.d f.a t f.var e))

/-- Opcodes 0x50 to 0x67 (R170). -/
def parseVector (f : Fields) (x : Ext) : Parsed :=
  match f.op.toNat with
  | 0x50 => vec3 f x .vadd
  | 0x51 => vec3 f x .vsub
  | 0x52 => vec3 f x .vmul
  | 0x53 => coded (FloatTy.ofCode f.ty) fun t => vext x fun e => .ok (.vfma f.s f.d f.a f.b t f.var e)
  | 0x54 => vec3 f x .vmin
  | 0x55 => vec3 f x .vmax
  | 0x56 => rsv (f.b == 0) (coded (LaneTy.ofCode f.ty) fun t => vext x fun e => .ok (.vabs f.s f.d f.a t f.var e))
  | 0x57 => vec3i f x .vand
  | 0x58 => vec3i f x .vor
  | 0x59 => vec3i f x .vxor
  | 0x5A => vec3i f x .vshl
  | 0x5B => vec3i f x .vshr
  | 0x5C => rsv (hi2 f.d) (coded (LaneTy.ofCode f.ty) fun t => coded (Cond.ofCode f.var) fun c => vext x fun e =>
      .ok (.vcmp f.s (pnum f.d) f.a f.b t c e))
  | 0x5D => coded (LaneTy.ofCode f.ty) fun t => vext x fun e => .ok (.vsel f.s f.d f.a f.b t f.var e)
  | 0x5E => coded (Ty.ofCode f.ty) fun t => coded (ShufFn.ofCode f.var) fun g => vext x fun e =>
      .ok (.vshuf f.s f.d f.a f.b t g e)
  | 0x5F => vec3i f x .vperm
  | 0x60 => rsv (f.b == 0) (coded (LaneTy.ofCode f.ty) fun t => vext x fun e => .ok (.vbcast f.s f.d f.a t f.var e))
  | 0x61 => coded (LaneTy.ofCode f.ty) fun t => coded (RedOp.ofCode f.b) fun o => vext x fun e =>
      .ok (.vred f.s f.d f.a o t f.var e)
  | 0x62 => coded (Ty.ofCode f.b) fun src => coded (Ty.ofCode f.ty) fun dst => vext x fun e =>
      .ok (.vcvt f.s f.d f.a src dst f.var e)
  | 0x63 => coded (LaneTy.ofCode f.ty) fun t => vext x fun e =>
      (match f.var.toNat with
       | 0 => .ok (.vmovxExtract f.s f.d f.a f.b t e)
       | 1 => .ok (.vmovxInsert f.s f.d f.a f.b t e)
       | _ => .error .reservedField)
  | 0x64 => vec2f f x .vrcp
  | 0x65 => vec2f f x .vrsq
  | 0x66 => bare x (rsv (hi3 f.d && f.b == 0 && f.f == 0) (.ok (.vtbld f.s (snum f.d) f.a)))
  | 0x67 => rsv (hi3 f.b) (coded (if f.ty = 8 then some () else none) fun _ => vext x fun e =>
      .ok (.vinterp f.s f.d f.a (snum f.b) f.var e))
  | _ => .error .unassignedOpcode

/-- Opcodes 0x70 to 0x7D (R187). -/
def parseMemory (f : Fields) (x : Ext) : Parsed :=
  match f.op.toNat with
  | 0x70 => coded (LdWidth.ofCode f.w) fun w => .ok (.ld f.s f.d f.a f.b w (Scope.ofCode f.c) f.o f.k x)
  | 0x71 => coded (MemWidth.ofCode f.w) fun w => .ok (.st f.s f.d f.a f.b w (Scope.ofCode f.c) f.o f.k x)
  | 0x72 => rsv (f.f.extractLsb' 2 3 == 0) (coded (LdWidth.ofCode f.w) fun w => .ok (.ldc f.s f.d f.a f.b w f.k x))
  | 0x73 => coded (if f.w = 7 then some () else none) fun _ => .ok (.vld f.s f.d f.a f.b (Scope.ofCode f.c) f.o f.k x)
  | 0x74 => coded (if f.w = 7 then some () else none) fun _ => .ok (.vst f.s f.d f.a f.b (Scope.ofCode f.c) f.o f.k x)
  | 0x75 => rsv (f.f.extractLsb' 2 3 == 0) (coded (MemWidth.ofCode f.w) fun w => .ok (.vldb f.s f.d f.a f.b w f.k x))
  | 0x76 => bare x (coded (MemWidth.ofCode f.w) fun w => .ok (.vgth f.s f.d f.a f.b w (f.f.extractLsb' 2 3) f.k))
  | 0x77 => bare x (coded (MemWidth.ofCode f.w) fun w => .ok (.vsct f.s f.d f.a f.b w (f.f.extractLsb' 2 3) f.k))
  | 0x78 => rsv (f.d == 0 && f.f.extractLsb' 2 6 == 0) (.ok (.pref f.s f.a f.b f.k x))
  | 0x79 => rsv (f.d == 0 && f.w == 0 && !f.o) (.ok (.flush f.s f.a f.b (Scope.ofCode f.c) f.k x))
  | 0x7A => bare x (rsv (f.d == 0 && f.w == 0 && f.var == 0) (.ok (.tlbinv f.s f.a f.b (Scope.ofCode f.c))))
  | 0x7B => bare x (rsv (f.b == 0 && f.f == 0) (.ok (.tlbprb f.s f.d f.a)))
  | 0x7C => bare x (rsv (f.d == 0 && f.a == 0 && f.b == 0 && f.f == 0) (.ok (.tlbwait f.s)))
  | 0x7D => bare x (rsv (f.b == 0 && f.f == 0) (.ok (.rgnq f.s f.d f.a)))
  | _ => .error .unassignedOpcode

/-- F holds only one flag bit, bit 0. -/
def flag0 (f : Fields) (k : Bool → Parsed) : Parsed :=
  match f.f.toNat with
  | 0 => k false
  | 1 => k true
  | _ => .error .reservedField

/-- F holds only a scope, in bits [4:3]. -/
def scope43 (f : Fields) (k : Scope → Parsed) : Parsed :=
  rsv (f.w == 0 && f.var == 0) (k (Scope.ofCode f.c))

/-- Opcodes 0x80 to 0x93 (R215, R237). -/
def parseTransfer (f : Fields) (x : Ext) : Parsed :=
  match f.op.toNat with
  | 0x80 => rsv (f.f.extractLsb' 2 3 == 0) (.ok (.ldt f.s f.d f.a f.b (TagWidth.ofCode f.w) f.k x))
  | 0x81 => bare x (rsv (f.b == 0) (flag0 f fun v => .ok (.tka f.s f.d f.a v)))
  | 0x82 => bare x (rsv (f.a == 0) (flag0 f fun v => .ok (.tkt f.s f.d f.b v)))
  | 0x83 => bare x (rsv (f.a == 0 && f.b == 0) (flag0 f fun v =>
      match v with
      | false => .ok (.reld f.s f.d)
      | true => .ok (.reldDrop f.s f.d)))
  | 0x84 => bare x (rsv (f.a == 0 && f.b == 0 && f.f.extractLsb' 2 6 == 0) (.ok (.lsq f.s f.d f.k)))
  | 0x85 => bare x (rsv (f.d == 0 && f.a == 0 && f.b == 0) (flag0 f fun v => .ok (.lsmode f.s v)))
  | 0x88 => bare x (rsv (f.b == 0) (scope43 f fun c => .ok (.qpush f.s f.d f.a c)))
  | 0x89 => bare x (rsv (f.b == 0 && f.f == 0) (.ok (.qpop f.s f.d f.a)))
  | 0x8A => bare x (rsv (f.b == 0 && f.f == 0) (.ok (.qtry f.s f.d f.a)))
  | 0x8B => bare x (rsv (f.b == 0 && f.f == 0) (.ok (.qlen f.s f.d f.a)))
  | 0x8C => bare x (rsv (f.d == 0 && f.b == 0) (scope43 f fun c => .ok (.gx f.s f.a c)))
  | 0x8D => bare x (rsv (f.d == 0 && f.b == 0) (scope43 f fun c => .ok (.gxs f.s f.a c)))
  | 0x8E => bare x (rsv (f.d == 0 && f.b == 0) (scope43 f fun c => .ok (.compact f.s f.a c)))
  | 0x8F => bare x (rsv (hi3 f.d) (coded (LaneTy.ofCode f.ty) fun t =>
      (match f.k.toNat with
       | 0 => .ok (.sbind f.s (snum f.d) f.a f.b t f.o)
       | 2 => rsv (f.b == 0) (.ok (.sbindAffine f.s (snum f.d) f.a t f.o))
       | _ => .error .reservedField)))
  | 0x90 => bare x (rsv (hi3 f.d && f.a == 0 && f.b == 0 && f.f == 0) (.ok (.sfree f.s (snum f.d))))
  | 0x91 => bare x (rsv (hi3 f.a && f.b == 0 && f.f == 0) (.ok (.sstat f.s f.d (snum f.a))))
  | 0x92 => bare x (rsv (hi3 f.d && f.b == 0 && f.f == 0) (.ok (.sadv f.s (snum f.d) f.a)))
  | 0x93 => bare x (rsv (f.b == 0 && f.f == 0) (.ok (.wmrd f.s f.d f.a)))
  | _ => .error .unassignedOpcode

/-- Opcodes 0x98 to 0xA5 (R261). -/
def parseSync (f : Fields) (x : Ext) : Parsed :=
  match f.op.toNat with
  | 0x98 => bare x (rsv (f.a == 0 && f.w == 0 && f.k == 0) (.ok (.arv f.s f.d f.b (Scope.ofCode f.c) f.o)))
  | 0x99 => bare x (rsv (f.w == 0 && f.k == 0) (.ok (.arvn f.s f.d f.a f.b (Scope.ofCode f.c) f.o)))
  | 0x9A => bare x (rsv (f.d == 0 && f.f == 0) (.ok (.wait f.s f.a f.b)))
  | 0x9B => bare x (rsv (f.f == 0) (.ok (.wtest f.s f.d f.a f.b)))
  | 0x9C => bare x (rsv (f.d == 0 && f.f == 0) (.ok (.expect f.s f.a f.b)))
  | 0x9D => bare x (rsv (f.a == 0 && f.b == 0 && f.f == 0) (.ok (.sync f.s f.d)))
  | 0x9E => bare x (rsv (f.d == 0 && f.a == 0 && f.b == 0 && f.w == 0 && f.k == 0)
      (.ok (.fence f.s (Scope.ofCode f.c) f.o)))
  | 0x9F => bare x (rsv (f.d == 0 && f.b == 0 && f.w == 0)
      (.ok (.bbset f.s f.a (f.f.getLsbD 4) (f.f.extractLsb' 0 4))))
  | 0xA0 => bare x (rsv (f.a == 0 && f.b == 0 && f.w == 0)
      (.ok (.bbrd f.s f.d (f.f.getLsbD 4) (f.f.extractLsb' 0 4))))
  | 0xA1 => bare x (rsv (f.d == 0 && f.b == 0 && f.f == 0) (.ok (.bbclr f.s f.a)))
  | 0xA2 => bare x (rsv (f.d == 0 && f.a == 0 && f.b == 0 && f.f.extractLsb' 4 4 == 0)
      (.ok (.bbpulse f.s (f.f.extractLsb' 0 4))))
  | 0xA3 => bare x (rsv (f.a == 0 && f.f == 0) (.ok (.phase f.s f.d f.b)))
  | 0xA4 => bare x (rsv (f.a == 0 && f.f == 0) (.ok (.bgstat f.s f.d f.b)))
  | 0xA5 => bare x (rsv (f.b == 0 && f.f == 0) (.ok (.dlkst f.s f.d f.a)))
  | _ => .error .unassignedOpcode

/-- Opcodes 0xA8 to 0xB7 (R281). -/
def parseAtomic (f : Fields) (x : Ext) : Parsed :=
  match f.op.toNat with
  | 0xA8 => bare x (.ok (.amo f.s f.d f.a f.b (AtomicOp.ofCode f.w) (Scope.ofCode f.c) f.o (AtomicTy.ofCode f.k)))
  | 0xA9 => bare x (rsv (f.d == 0)
      (.ok (.red f.s f.a f.b (AtomicOp.ofCode f.w) (Scope.ofCode f.c) f.o (AtomicTy.ofCode f.k))))
  | 0xAA => bare x (rsv (!f.o)
      (.ok (.redv f.s f.d f.a f.b (AtomicOp.ofCode f.w) (Scope.ofCode f.c) (AtomicTy.ofCode f.k))))
  | 0xAB => bare x (rsv (f.w == 0) (.ok (.cas f.s f.d f.a f.b (Scope.ofCode f.c) f.o (AtomicTy.ofCode f.k))))
  | 0xAC => bare x (rsv (f.b == 0) (scope43 f fun c => .ok (.ftake f.s f.d f.a c)))
  | 0xAD => bare x (rsv (f.d == 0) (scope43 f fun c => .ok (.fput f.s f.a f.b c)))
  | 0xAE => bare x (rsv (f.b == 0) (flag0 f fun k => .ok (.fpeek f.s f.d f.a k)))
  | 0xAF => bare x (rsv (f.d == 0) (flag0 f fun k => .ok (.finit f.s f.a f.b k)))
  | 0xB0 => bare x (rsv (f.d == 0 && f.b == 0 && f.f == 0) (.ok (.spkclaim f.s f.a)))
  | 0xB1 => bare x (rsv (f.d == 0 && f.b == 0 && f.f == 0) (.ok (.spkpush f.s f.a)))
  | 0xB2 => bare x (rsv (f.b == 0 && f.f == 0) (.ok (.spkpop f.s f.d f.a)))
  | 0xB3 => bare x (rsv (f.f == 0) (.ok (.spkins f.s f.d f.a f.b)))
  | 0xB4 => bare x (rsv (f.a == 0 && f.b == 0 && f.f == 0) (.ok (.spklen f.s f.d)))
  | 0xB5 => bare x (rsv (f.d == 0 && f.a == 0 && f.b == 0 && f.f == 0) (.ok (.spkfree f.s)))
  | 0xB6 => bare x (rsv (f.b == 0 && f.f == 0) (.ok (.swalloc f.s f.d f.a)))
  | 0xB7 => bare x (rsv (f.b == 0 && f.f == 0) (.ok (.swstat f.s f.d f.a)))
  | _ => .error .unassignedOpcode

/-- Opcodes 0xB8 to 0xC5 (R327). -/
def parseMatrix (f : Fields) (x : Ext) : Parsed :=
  match f.op.toNat with
  | 0xB8 => bare x (rsv (f.d == 0 && f.b == 0 && f.f == 0) (.ok (.mctx f.s f.a)))
  | 0xB9 => bare x (flag0 f fun p => .ok (.mmul f.s f.d f.a f.b p))
  | 0xBA => bare x (rsv (f.d == 0 && f.b == 0 && f.f == 0) (.ok (.mloads f.s f.a)))
  | 0xBB => bare x (rsv (f.d == 0 && f.a == 0 && f.b == 0 && f.f == 0) (.ok (.mswap f.s)))
  | 0xBC => bare x (rsv (f.b == 0 && f.f == 0) (.ok (.mstream f.s f.d f.a)))
  | 0xBD => bare x (rsv (f.d == 0 && f.a == 0 && f.b == 0 && f.f == 0) (.ok (.mdrain f.s)))
  | 0xBE => bare x (rsv (f.b == 0 && f.f == 0) (.ok (.acrd f.s f.d f.a)))
  | 0xBF => bare x (rsv (f.b == 0 && f.f == 0) (.ok (.acwr f.s f.d f.a)))
  | 0xC0 => bare x (rsv (f.b == 0) (flag0 f fun k =>
      match k with
      | false => rsv (f.a == 0) (.ok (.mchkKat f.s f.d))
      | true => .ok (.mchkInj f.s f.d f.a)))
  | 0xC1 => bare x (rsv (f.a == 0 && f.b == 0) (flag0 f fun k =>
      match k with
      | false => .ok (.mzeroAcc f.s f.d)
      | true => rsv (f.d == 0) (.ok (.mzeroSt f.s))))
  | 0xC2 => bare x (rsv (f.a == 0 && f.b == 0 && f.f == 0) (.ok (.mstat f.s f.d)))
  | 0xC3 => bare x (rsv (f.d == 0 && f.a == 0 && f.b == 0 && f.w == 0) (.ok (.mwait f.s (f.f.extractLsb' 0 5))))
  | 0xC4 => bare x (rsv (f.d == 0 && f.b == 0) (flag0 f fun k => .ok (.mcbk f.s f.a k)))
  | 0xC5 => bare x (rsv (f.a == 0 && f.b == 0) (flag0 f fun k => .ok (.mflag f.s f.d k)))
  | _ => .error .unassignedOpcode

/-- Opcodes 0xC8 to 0xCE (R347). -/
def parseLoom (f : Fields) (x : Ext) : Parsed :=
  match f.op.toNat with
  | 0xC8 => bare x (rsv (f.d == 0 && f.b == 0 && f.f.extractLsb' 2 6 == 0)
      (if f.k = 0 then rsv (f.a == 0) (.ok (.lmjoinLeave f.s)) else .ok (.lmjoin f.s f.a f.k)))
  | 0xC9 => bare x (rsv (f.d == 0 && f.b == 0 && f.f == 0) (.ok (.draft f.s f.a)))
  | 0xCA => bare x (rsv (f.d == 0 && f.b == 0 && f.f == 0) (.ok (.warp f.s f.a)))
  | 0xCB => bare x (rsv (f.d == 0 && f.b == 0 && f.f == 0) (.ok (.weft f.s f.a)))
  | 0xCC => bare x (rsv (f.d == 0 && f.b == 0 && f.f == 0) (.ok (.lmgo f.s f.a)))
  | 0xCD => bare x (rsv (f.a == 0 && f.b == 0 && f.f == 0) (.ok (.lmwait f.s f.d)))
  | 0xCE => bare x (rsv (f.a == 0 && f.b == 0 && f.f == 0) (.ok (.lmstat f.s f.d)))
  | _ => .error .unassignedOpcode

/-- F holds only V, in bit 2 (R364). -/
def flag2 (f : Fields) (k : Bool → Parsed) : Parsed :=
  rsv (f.ty == 0 && f.k == 0) (k f.o)

/-- Opcodes 0xD0 to 0xD6 and 0xD8 to 0xDE (R364, R383). -/
def parsePigeonNet (f : Fields) (x : Ext) : Parsed :=
  match f.op.toNat with
  | 0xD0 => bare x (rsv (f.d == 0 && f.b == 0 && f.f == 0) (.ok (.phclaim f.s f.a)))
  | 0xD1 => bare x (flag2 f fun v => .ok (.phins f.s f.d f.a f.b v))
  | 0xD2 => bare x (flag2 f fun v => .ok (.phprb f.s f.d f.a f.b v))
  | 0xD3 => bare x (rsv (f.d == 0) (flag2 f fun v => .ok (.phdel f.s f.a f.b v)))
  | 0xD4 => bare x (rsv (f.k == 0) (coded (PhAcc.ofCode f.ty) fun p => .ok (.phacc f.s f.d f.a f.b p f.o)))
  | 0xD5 => bare x (flag0 f fun k => .ok (.phdrn f.s f.d f.a f.b k))
  | 0xD6 => bare x (rsv (f.d == 0 && f.b == 0 && f.f == 0) (.ok (.phfree f.s f.a)))
  | 0xD8 => bare x (rsv (f.d == 0 && f.b == 0 && f.f == 0) (.ok (.popen f.s f.a)))
  | 0xD9 => bare x (rsv (f.d == 0 && f.b == 0 && f.f.extractLsb' 2 6 == 0)
      (.ok (.psend f.s f.a (f.f.getLsbD 1) (f.f.getLsbD 0))))
  | 0xDA => bare x (rsv (f.a == 0 && f.b == 0 && f.ty == 0) (.ok (.precv f.s f.d f.o f.k)))
  | 0xDB => bare x (rsv (f.f == 0) (.ok (.mcast f.s f.d f.a f.b)))
  | 0xDC => bare x (.ok (.sendt f.s f.d f.a f.imm))
  | 0xDD => bare x (rsv (f.d == 0 && f.b == 0 && f.f.extractLsb' 2 6 == 0) (.ok (.rwin f.s f.a f.k)))
  | 0xDE => bare x (rsv (f.a == 0 && f.b == 0 && f.f.extractLsb' 2 6 == 0) (.ok (.pstat f.s f.d f.k)))
  | _ => .error .unassignedOpcode

/-- The reader of an opcode's class (R41). EXT (0xFF) is no instruction: alone, or as the second word of a pair, it is
rejected (R43). -/
def parse (f : Fields) (x : Ext) : Parsed :=
  if f.op.toNat = 0xFF then .error .extNotAccepted
  else if f.op.toNat < 0x20 then parseScalar f x
  else if f.op.toNat < 0x30 then parseMove f x
  else if f.op.toNat < 0x40 then parseControl f x
  else if f.op.toNat < 0x50 then parseSystem f x
  else if f.op.toNat < 0x70 then parseVector f x
  else if f.op.toNat < 0x80 then parseMemory f x
  else if f.op.toNat < 0x98 then parseTransfer f x
  else if f.op.toNat < 0xA8 then parseSync f x
  else if f.op.toNat < 0xB8 then parseAtomic f x
  else if f.op.toNat < 0xC8 then parseMatrix f x
  else if f.op.toNat < 0xD0 then parseLoom f x
  else parsePigeonNet f x

/-- The instruction of a word and its EXT payload: read the fields, then make the checks of `Instr.check`. -/
def decodeFields (f : Fields) (x : Ext) : Parsed :=
  match parse f x with
  | .error e => .error e
  | .ok i =>
    match i.check with
    | none => .ok i
    | some e => .error e

/-- A word alone (R33). -/
def decodeWord (w : Word32) : Parsed := decodeFields (Fields.unpack w) none

/-- The second word of an EXT pair (R44, R45). -/
def decodePair (e : BitVec 24) (w : Word32) : Parsed := decodeFields (Fields.unpack w) (some e)

/-- The word is an EXT (R42). -/
def isExt (w : Word32) : Bool := (w.extractLsb' 24 8).toNat == 0xFF

/-- The payload of an EXT word (R34). -/
def extPayload (w : Word32) : BitVec 24 := w.extractLsb' 0 24

/-- A little-endian word of four bytes (R2, R33). -/
def word32OfBytes (b0 b1 b2 b3 : Byte) : Word32 := b3 ++ (b2 ++ (b1 ++ b0))

/-- The bytes of a word, lowest address first (R2, R33). -/
def bytesOfWord32 (w : Word32) : List Byte :=
  [w.extractLsb' 0 8, w.extractLsb' 8 8, w.extractLsb' 16 8, w.extractLsb' 24 8]

/-- The instruction at the head of a byte string, with the bytes left over. Total; rejects by name. -/
def decodeBytes : List Byte → Except DecodeError (Instr × List Byte)
  | b0 :: b1 :: b2 :: b3 :: rest =>
    let w := word32OfBytes b0 b1 b2 b3
    if isExt w then
      match rest with
      | c0 :: c1 :: c2 :: c3 :: rest' =>
        match decodePair (extPayload w) (word32OfBytes c0 c1 c2 c3) with
        | .ok i => .ok (i, rest')
        | .error e => .error e
      | _ => .error .truncated
    else
      match decodeWord w with
      | .ok i => .ok (i, rest)
      | .error e => .error e
  | _ => .error .truncated

/-- The bytes of an instruction whose table bits are `w`: `nbits` bits in whole bytes, then zeros up to 8 bytes. -/
def tableBytes (nbits w : Nat) : List Byte :=
  (List.range 8).map fun i => if 8 * i < nbits then BitVec.ofNat 8 (w / 2 ^ (8 * i)) else 0

/-- The instruction this decoder reads from the bits `w`, numbered as spec/opcode_table.json numbers them. -/
def decodeTableWord (nbits w : Nat) : Option Instr :=
  match decodeBytes (tableBytes nbits w) with
  | .ok (i, _) => some i
  | .error _ => none

/-! ## The encoder -/

/-- imm13[12:8], field B of format I (R34). -/
def immHi (i : BitVec 13) : BitVec 5 := i.extractLsb' 8 5
/-- imm13[7:0], field F of format I (R34). -/
def immLo (i : BitVec 13) : BitVec 8 := i.extractLsb' 0 8

/-- The fields of an instruction and the payload of its EXT word, from the encoding tables of the spec; `none` for an
event, which has no encoding. -/
def encodeFields : Instr → Option (Ext × Fields)
  | .add s d a b t v => some (none, ⟨0x01, s, d, a, b, t.code ++ v.code⟩)
  | .sub s d a b t v => some (none, ⟨0x03, s, d, a, b, t.code ++ v.code⟩)
  | .mul s d a b t v => some (none, ⟨0x04, s, d, a, b, t.code ++ v.code⟩)
  | .mulh s d a b t => some (none, ⟨0x06, s, d, a, b, t.code ++ 0#3⟩)
  | .div s d a b t => some (none, ⟨0x07, s, d, a, b, t.code ++ 0#3⟩)
  | .rem s d a b t => some (none, ⟨0x08, s, d, a, b, t.code ++ 0#3⟩)
  | .and s d a b t => some (none, ⟨0x09, s, d, a, b, t.code ++ 0#3⟩)
  | .or s d a b t => some (none, ⟨0x0B, s, d, a, b, t.code ++ 0#3⟩)
  | .xor s d a b t => some (none, ⟨0x0D, s, d, a, b, t.code ++ 0#3⟩)
  | .shl s d a b t => some (none, ⟨0x0F, s, d, a, b, t.code ++ 0#3⟩)
  | .shr s d a b t => some (none, ⟨0x11, s, d, a, b, t.code ++ 0#3⟩)
  | .sra s d a b t => some (none, ⟨0x13, s, d, a, b, t.code ++ 0#3⟩)
  | .min s d a b t => some (none, ⟨0x18, s, d, a, b, t.code ++ 0#3⟩)
  | .max s d a b t => some (none, ⟨0x19, s, d, a, b, t.code ++ 0#3⟩)
  | .bfx s d a b t => some (none, ⟨0x1A, s, d, a, b, t.code ++ 0#3⟩)
  | .bfi s d a b t => some (none, ⟨0x1B, s, d, a, b, t.code ++ 0#3⟩)
  | .slt s d a b t => some (none, ⟨0x23, s, d, a, b, t.code ++ 0#3⟩)
  | .seq s d a b t => some (none, ⟨0x25, s, d, a, b, t.code ++ 0#3⟩)
  | .clz s d a t => some (none, ⟨0x15, s, d, a, 0, t.code ++ 0#3⟩)
  | .ctz s d a t => some (none, ⟨0x16, s, d, a, 0, t.code ++ 0#3⟩)
  | .popc s d a t => some (none, ⟨0x17, s, d, a, 0, t.code ++ 0#3⟩)
  | .addi s d a imm ext => some (ext, ⟨0x02, s, d, a, immHi imm, immLo imm⟩)
  | .muli s d a imm ext => some (ext, ⟨0x05, s, d, a, immHi imm, immLo imm⟩)
  | .andi s d a imm ext => some (ext, ⟨0x0A, s, d, a, immHi imm, immLo imm⟩)
  | .ori s d a imm ext => some (ext, ⟨0x0C, s, d, a, immHi imm, immLo imm⟩)
  | .xori s d a imm ext => some (ext, ⟨0x0E, s, d, a, immHi imm, immLo imm⟩)
  | .slti s d a imm ext => some (ext, ⟨0x24, s, d, a, immHi imm, immLo imm⟩)
  | .seqi s d a imm ext => some (ext, ⟨0x26, s, d, a, immHi imm, immLo imm⟩)
  | .shli s d a imm => some (none, ⟨0x10, s, d, a, 0, 0#2 ++ imm⟩)
  | .shri s d a imm => some (none, ⟨0x12, s, d, a, 0, 0#2 ++ imm⟩)
  | .srai s d a imm => some (none, ⟨0x14, s, d, a, 0, 0#2 ++ imm⟩)
  | .abs s d a t v => some (none, ⟨0x1C, s, d, a, 0, t.code ++ v.code⟩)
  | .mov s d a => some (none, ⟨0x20, s, d, a, 0, 0⟩)
  | .movFromLoop s d n r => some (none, ⟨0x20, s, d, 0#3 ++ n, 0, (match r with | .lc => 1 | .ls => 2 | .le => 3)⟩)
  | .movToLoop s n a r => some (none, ⟨0x20, s, 0#3 ++ n, a, 0, (match r with | .lc => 5 | .ls => 6 | .le => 7)⟩)
  | .movi s d imm ext => some (ext, ⟨0x21, s, d, 0, immHi imm, immLo imm⟩)
  | .lea s d a b disp k ext => some (ext, ⟨0x22, s, d, a, b, disp ++ k⟩)
  | .sel s d a b p => some (none, ⟨0x27, s, d, a, b, 0#5 ++ p⟩)
  | .pcmp s d a b t c => some (none, ⟨0x28, s, 0#2 ++ d, a, b, t.code ++ c.code⟩)
  | .plog s d a b t => some (none, ⟨0x29, s, 0#2 ++ d, 0#2 ++ a, 0#2 ++ b, 0#4 ++ t⟩)
  | .pmovToPredicate s d a => some (none, ⟨0x2A, s, 0#2 ++ d, a, 0, 0⟩)
  | .pmovFromPredicate s d a => some (none, ⟨0x2A, s, d, 0#2 ++ a, 0, 1⟩)
  | .pcnt s d a t => some (none, ⟨0x2B, s, d, 0#2 ++ a, 0, t.code ++ 0#3⟩)
  | .br s disp ext => some (ext, ⟨0x30, s, disp.extractLsb' 18 5, disp.extractLsb' 13 5, disp.extractLsb' 8 5, disp.extractLsb' 0 8⟩)
  | .call s disp ext => some (ext, ⟨0x31, s, disp.extractLsb' 18 5, disp.extractLsb' 13 5, disp.extractLsb' 8 5, disp.extractLsb' 0 8⟩)
  | .jr s a => some (none, ⟨0x32, s, 0, a, 0, 0⟩)
  | .callr s a => some (none, ⟨0x33, s, 0, a, 0, 0⟩)
  | .ret s => some (none, ⟨0x34, s, 0, 0, 0, 0⟩)
  | .beqz s a imm ext => some (ext, ⟨0x35, s, 0, a, immHi imm, immLo imm⟩)
  | .bnez s a imm ext => some (ext, ⟨0x36, s, 0, a, immHi imm, immLo imm⟩)
  | .bltz s a imm ext => some (ext, ⟨0x37, s, 0, a, immHi imm, immLo imm⟩)
  | .bgez s a imm ext => some (ext, ⟨0x38, s, 0, a, immHi imm, immLo imm⟩)
  | .bpany s a imm ext => some (ext, ⟨0x39, s, 0, 0#2 ++ a, immHi imm, immLo imm⟩)
  | .bpnone s a imm ext => some (ext, ⟨0x3A, s, 0, 0#2 ++ a, immHi imm, immLo imm⟩)
  | .loop s n a l ext => some (ext.map fun e => 0#8 ++ e, ⟨0x3B, s, 0#3 ++ n, a, 0, l⟩)
  | .loopi s n l imm ext => some (ext, ⟨0x3C, s, 0#3 ++ n, l, immHi imm, immLo imm⟩)
  | .rptf s sd sa sb n k ext => some (ext.map fun e => 0#4 ++ e, ⟨0x3D, s, sd, sa, sb, n ++ k⟩)
  | .nop s => some (none, ⟨0x40, s, 0, 0, 0, 0⟩)
  | .hstart s h b imm ext => some (ext, ⟨0x41, s, h, immHi imm, b, immLo imm⟩)
  | .hend s => some (none, ⟨0x42, s, 0, 0, 0, 0⟩)
  | .hwait s a => some (none, ⟨0x43, s, 0, a, 0, 0⟩)
  | .hstat s d => some (none, ⟨0x44, s, d, 0, 0, 0⟩)
  | .gang s n => some (none, ⟨0x45, s, 0, 0, 0, 0#6 ++ n⟩)
  | .split s => some (none, ⟨0x46, s, 0, 0, 0, 0⟩)
  | .trap s code => some (none, ⟨0x47, s, 0, 0, immHi code, immLo code⟩)
  | .rte s => some (none, ⟨0x48, s, 0, 0, 0, 0⟩)
  | .rteXa s a => some (none, ⟨0x48, s, 0, a, 0, 1⟩)
  | .endCore s => some (none, ⟨0x49, s, 0, 0, 0, 0⟩)
  | .mfc s d r => some (none, ⟨0x4A, s, d, 0, immHi r.code, immLo r.code⟩)
  | .mtc s a r => some (none, ⟨0x4B, s, 0, a, immHi r.code, immLo r.code⟩)
  | .icinv s a c => some (none, ⟨0x4C, s, 0, a, 0, 0#3 ++ (c.code ++ 0#3)⟩)
  | .brk s code => some (none, ⟨0x4D, s, 0, 0, 0, code⟩)
  | .pause s n => some (none, ⟨0x4E, s, 0, 0, immHi n, immLo n⟩)
  | .cntrd s d c => some (none, ⟨0x4F, s, d, 0, 0, 0#4 ++ c⟩)
  | .vadd s d a b t m x => some (x.map VExt.code, ⟨0x50, s, d, a, b, t.code ++ m⟩)
  | .vsub s d a b t m x => some (x.map VExt.code, ⟨0x51, s, d, a, b, t.code ++ m⟩)
  | .vmul s d a b t m x => some (x.map VExt.code, ⟨0x52, s, d, a, b, t.code ++ m⟩)
  | .vfma s d a b t m x => some (x.map VExt.code, ⟨0x53, s, d, a, b, t.code ++ m⟩)
  | .vmin s d a b t m x => some (x.map VExt.code, ⟨0x54, s, d, a, b, t.code ++ m⟩)
  | .vmax s d a b t m x => some (x.map VExt.code, ⟨0x55, s, d, a, b, t.code ++ m⟩)
  | .vand s d a b t m x => some (x.map VExt.code, ⟨0x57, s, d, a, b, t.code ++ m⟩)
  | .vor s d a b t m x => some (x.map VExt.code, ⟨0x58, s, d, a, b, t.code ++ m⟩)
  | .vxor s d a b t m x => some (x.map VExt.code, ⟨0x59, s, d, a, b, t.code ++ m⟩)
  | .vshl s d a b t m x => some (x.map VExt.code, ⟨0x5A, s, d, a, b, t.code ++ m⟩)
  | .vshr s d a b t m x => some (x.map VExt.code, ⟨0x5B, s, d, a, b, t.code ++ m⟩)
  | .vperm s d a b t m x => some (x.map VExt.code, ⟨0x5F, s, d, a, b, t.code ++ m⟩)
  | .vabs s d a t m x => some (x.map VExt.code, ⟨0x56, s, d, a, 0, t.code ++ m⟩)
  | .vcmp s d a b t c x => some (x.map VExt.code, ⟨0x5C, s, 0#2 ++ d, a, b, t.code ++ c.code⟩)
  | .vsel s d a b t p x => some (x.map VExt.code, ⟨0x5D, s, d, a, b, t.code ++ p⟩)
  | .vshuf s d a b t f x => some (x.map VExt.code, ⟨0x5E, s, d, a, b, t.code ++ f.code⟩)
  | .vbcast s d a t m x => some (x.map VExt.code, ⟨0x60, s, d, a, 0, t.code ++ m⟩)
  | .vred s d a op t m x => some (x.map VExt.code, ⟨0x61, s, d, a, op.code, t.code ++ m⟩)
  | .vcvt s d a src dst k x => some (x.map VExt.code, ⟨0x62, s, d, a, src.code, dst.code ++ k⟩)
  | .vmovxExtract s d a b t x => some (x.map VExt.code, ⟨0x63, s, d, a, b, t.code ++ 0#3⟩)
  | .vmovxInsert s d a b t x => some (x.map VExt.code, ⟨0x63, s, d, a, b, t.code ++ 1#3⟩)
  | .vrcp s d a t m x => some (x.map VExt.code, ⟨0x64, s, d, a, 0, t.code ++ m⟩)
  | .vrsq s d a t m x => some (x.map VExt.code, ⟨0x65, s, d, a, 0, t.code ++ m⟩)
  | .vtbld s n a => some (none, ⟨0x66, s, 0#3 ++ n, a, 0, 0⟩)
  | .vinterp s d a n m x => some (x.map VExt.code, ⟨0x67, s, d, a, 0#3 ++ n, 8#5 ++ m⟩)
  | .ld s d a b w c o k ext => some (ext, ⟨0x70, s, d, a, b, w.code ++ (c.code ++ (BitVec.ofBool o ++ k))⟩)
  | .st s d a b w c o k ext => some (ext, ⟨0x71, s, d, a, b, w.code ++ (c.code ++ (BitVec.ofBool o ++ k))⟩)
  | .ldc s d a b w k ext => some (ext, ⟨0x72, s, d, a, b, w.code ++ (0#3 ++ k)⟩)
  | .vld s d a b c o k ext => some (ext, ⟨0x73, s, d, a, b, 7#3 ++ (c.code ++ (BitVec.ofBool o ++ k))⟩)
  | .vst s d a b c o k ext => some (ext, ⟨0x74, s, d, a, b, 7#3 ++ (c.code ++ (BitVec.ofBool o ++ k))⟩)
  | .vldb s d a b w k ext => some (ext, ⟨0x75, s, d, a, b, w.code ++ (0#3 ++ k)⟩)
  | .vgth s d a b w m k => some (none, ⟨0x76, s, d, a, b, w.code ++ (m ++ k)⟩)
  | .vsct s d a b w m k => some (none, ⟨0x77, s, d, a, b, w.code ++ (m ++ k)⟩)
  | .pref s a b k ext => some (ext, ⟨0x78, s, 0, a, b, 0#6 ++ k⟩)
  | .flush s a b c k ext => some (ext, ⟨0x79, s, 0, a, b, 0#3 ++ (c.code ++ (0#1 ++ k))⟩)
  | .tlbinv s a b c => some (none, ⟨0x7A, s, 0, a, b, 0#3 ++ (c.code ++ 0#3)⟩)
  | .tlbprb s d a => some (none, ⟨0x7B, s, d, a, 0, 0⟩)
  | .tlbwait s => some (none, ⟨0x7C, s, 0, 0, 0, 0⟩)
  | .rgnq s d a => some (none, ⟨0x7D, s, d, a, 0, 0⟩)
  | .ldt s n a b w k ext => some (ext, ⟨0x80, s, n, a, b, w.code ++ (0#3 ++ k)⟩)
  | .tka s d a v => some (none, ⟨0x81, s, d, a, 0, 0#7 ++ BitVec.ofBool v⟩)
  | .tkt s d n v => some (none, ⟨0x82, s, d, 0, n, 0#7 ++ BitVec.ofBool v⟩)
  | .reld s n => some (none, ⟨0x83, s, n, 0, 0, 0⟩)
  | .reldDrop s n => some (none, ⟨0x83, s, n, 0, 0, 1⟩)
  | .lsq s d e => some (none, ⟨0x84, s, d, 0, 0, 0#6 ++ e⟩)
  | .lsmode s m => some (none, ⟨0x85, s, 0, 0, 0, 0#7 ++ BitVec.ofBool m⟩)
  | .qpush s q a c => some (none, ⟨0x88, s, q, a, 0, 0#3 ++ (c.code ++ 0#3)⟩)
  | .qpop s d q => some (none, ⟨0x89, s, d, q, 0, 0⟩)
  | .qtry s d q => some (none, ⟨0x8A, s, d, q, 0, 0⟩)
  | .qlen s d q => some (none, ⟨0x8B, s, d, q, 0, 0⟩)
  | .wmrd s d q => some (none, ⟨0x93, s, d, q, 0, 0⟩)
  | .gx s a c => some (none, ⟨0x8C, s, 0, a, 0, 0#3 ++ (c.code ++ 0#3)⟩)
  | .gxs s a c => some (none, ⟨0x8D, s, 0, a, 0, 0#3 ++ (c.code ++ 0#3)⟩)
  | .compact s a c => some (none, ⟨0x8E, s, 0, a, 0, 0#3 ++ (c.code ++ 0#3)⟩)
  | .sbind s n a b t wr => some (none, ⟨0x8F, s, 0#3 ++ n, a, b, t.code ++ (BitVec.ofBool wr ++ 0#2)⟩)
  | .sbindAffine s n a t wr => some (none, ⟨0x8F, s, 0#3 ++ n, a, 0, t.code ++ (BitVec.ofBool wr ++ 2#2)⟩)
  | .sfree s n => some (none, ⟨0x90, s, 0#3 ++ n, 0, 0, 0⟩)
  | .sstat s d n => some (none, ⟨0x91, s, d, 0#3 ++ n, 0, 0⟩)
  | .sadv s n a => some (none, ⟨0x92, s, 0#3 ++ n, a, 0, 0⟩)
  | .arv s d g c o => some (none, ⟨0x98, s, d, 0, g, 0#3 ++ (c.code ++ (BitVec.ofBool o ++ 0#2))⟩)
  | .arvn s d a g c o => some (none, ⟨0x99, s, d, a, g, 0#3 ++ (c.code ++ (BitVec.ofBool o ++ 0#2))⟩)
  | .wait s a g => some (none, ⟨0x9A, s, 0, a, g, 0⟩)
  | .wtest s d a g => some (none, ⟨0x9B, s, d, a, g, 0⟩)
  | .expect s a g => some (none, ⟨0x9C, s, 0, a, g, 0⟩)
  | .sync s d => some (none, ⟨0x9D, s, d, 0, 0, 0⟩)
  | .fence s c o => some (none, ⟨0x9E, s, 0, 0, 0, 0#3 ++ (c.code ++ (BitVec.ofBool o ++ 0#2))⟩)
  | .bbset s a term i => some (none, ⟨0x9F, s, 0, a, 0, 0#3 ++ (BitVec.ofBool term ++ i)⟩)
  | .bbrd s d term i => some (none, ⟨0xA0, s, d, 0, 0, 0#3 ++ (BitVec.ofBool term ++ i)⟩)
  | .bbclr s a => some (none, ⟨0xA1, s, 0, a, 0, 0⟩)
  | .bbpulse s j => some (none, ⟨0xA2, s, 0, 0, 0, 0#4 ++ j⟩)
  | .phase s d g => some (none, ⟨0xA3, s, d, 0, g, 0⟩)
  | .bgstat s d g => some (none, ⟨0xA4, s, d, 0, g, 0⟩)
  | .dlkst s d a => some (none, ⟨0xA5, s, d, a, 0, 0⟩)
  | .amo s d a b op c o t => some (none, ⟨0xA8, s, d, a, b, op.code ++ (c.code ++ (BitVec.ofBool o ++ t.code))⟩)
  | .red s a b op c o t => some (none, ⟨0xA9, s, 0, a, b, op.code ++ (c.code ++ (BitVec.ofBool o ++ t.code))⟩)
  | .redv s d a b op c t => some (none, ⟨0xAA, s, d, a, b, op.code ++ (c.code ++ (0#1 ++ t.code))⟩)
  | .cas s d a b c o t => some (none, ⟨0xAB, s, d, a, b, 0#3 ++ (c.code ++ (BitVec.ofBool o ++ t.code))⟩)
  | .ftake s d a c => some (none, ⟨0xAC, s, d, a, 0, 0#3 ++ (c.code ++ 0#3)⟩)
  | .fput s a b c => some (none, ⟨0xAD, s, 0, a, b, 0#3 ++ (c.code ++ 0#3)⟩)
  | .fpeek s d a k => some (none, ⟨0xAE, s, d, a, 0, 0#7 ++ BitVec.ofBool k⟩)
  | .finit s a b k => some (none, ⟨0xAF, s, 0, a, b, 0#7 ++ BitVec.ofBool k⟩)
  | .spkclaim s a => some (none, ⟨0xB0, s, 0, a, 0, 0⟩)
  | .spkpush s a => some (none, ⟨0xB1, s, 0, a, 0, 0⟩)
  | .spkpop s d a => some (none, ⟨0xB2, s, d, a, 0, 0⟩)
  | .spkins s d a b => some (none, ⟨0xB3, s, d, a, b, 0⟩)
  | .spklen s d => some (none, ⟨0xB4, s, d, 0, 0, 0⟩)
  | .spkfree s => some (none, ⟨0xB5, s, 0, 0, 0, 0⟩)
  | .swalloc s d a => some (none, ⟨0xB6, s, d, a, 0, 0⟩)
  | .swstat s d a => some (none, ⟨0xB7, s, d, a, 0, 0⟩)
  | .mctx s a => some (none, ⟨0xB8, s, 0, a, 0, 0⟩)
  | .mmul s d a b sp => some (none, ⟨0xB9, s, d, a, b, 0#7 ++ BitVec.ofBool sp⟩)
  | .mloads s a => some (none, ⟨0xBA, s, 0, a, 0, 0⟩)
  | .mswap s => some (none, ⟨0xBB, s, 0, 0, 0, 0⟩)
  | .mstream s d a => some (none, ⟨0xBC, s, d, a, 0, 0⟩)
  | .mdrain s => some (none, ⟨0xBD, s, 0, 0, 0, 0⟩)
  | .acrd s d a => some (none, ⟨0xBE, s, d, a, 0, 0⟩)
  | .acwr s d a => some (none, ⟨0xBF, s, d, a, 0, 0⟩)
  | .mchkKat s d => some (none, ⟨0xC0, s, d, 0, 0, 0⟩)
  | .mchkInj s d a => some (none, ⟨0xC0, s, d, a, 0, 1⟩)
  | .mzeroAcc s d => some (none, ⟨0xC1, s, d, 0, 0, 0⟩)
  | .mzeroSt s => some (none, ⟨0xC1, s, 0, 0, 0, 1⟩)
  | .mstat s d => some (none, ⟨0xC2, s, d, 0, 0, 0⟩)
  | .mwait s n => some (none, ⟨0xC3, s, 0, 0, 0, 0#3 ++ n⟩)
  | .mcbk s a k => some (none, ⟨0xC4, s, 0, a, 0, 0#7 ++ BitVec.ofBool k⟩)
  | .mflag s d k => some (none, ⟨0xC5, s, d, 0, 0, 0#7 ++ BitVec.ofBool k⟩)
  | .lmjoin s a n => some (none, ⟨0xC8, s, 0, a, 0, 0#6 ++ n⟩)
  | .lmjoinLeave s => some (none, ⟨0xC8, s, 0, 0, 0, 0⟩)
  | .draft s a => some (none, ⟨0xC9, s, 0, a, 0, 0⟩)
  | .warp s a => some (none, ⟨0xCA, s, 0, a, 0, 0⟩)
  | .weft s a => some (none, ⟨0xCB, s, 0, a, 0, 0⟩)
  | .lmgo s a => some (none, ⟨0xCC, s, 0, a, 0, 0⟩)
  | .lmwait s d => some (none, ⟨0xCD, s, d, 0, 0, 0⟩)
  | .lmstat s d => some (none, ⟨0xCE, s, d, 0, 0, 0⟩)
  | .phclaim s a => some (none, ⟨0xD0, s, 0, a, 0, 0⟩)
  | .phins s d a b v => some (none, ⟨0xD1, s, d, a, b, 0#5 ++ (BitVec.ofBool v ++ 0#2)⟩)
  | .phprb s d a b v => some (none, ⟨0xD2, s, d, a, b, 0#5 ++ (BitVec.ofBool v ++ 0#2)⟩)
  | .phdel s a b v => some (none, ⟨0xD3, s, 0, a, b, 0#5 ++ (BitVec.ofBool v ++ 0#2)⟩)
  | .phacc s d a b op v => some (none, ⟨0xD4, s, d, a, b, op.code ++ (BitVec.ofBool v ++ 0#2)⟩)
  | .phdrn s d a b k => some (none, ⟨0xD5, s, d, a, b, 0#7 ++ BitVec.ofBool k⟩)
  | .phfree s a => some (none, ⟨0xD6, s, 0, a, 0, 0⟩)
  | .popen s a => some (none, ⟨0xD8, s, 0, a, 0, 0⟩)
  | .psend s a v e => some (none, ⟨0xD9, s, 0, a, 0, 0#6 ++ (BitVec.ofBool v ++ BitVec.ofBool e)⟩)
  | .precv s d v n => some (none, ⟨0xDA, s, d, 0, 0, 0#5 ++ (BitVec.ofBool v ++ n)⟩)
  | .mcast s d a b => some (none, ⟨0xDB, s, d, a, b, 0⟩)
  | .sendt s d a slot => some (none, ⟨0xDC, s, d, a, immHi slot, immLo slot⟩)
  | .rwin s a n => some (none, ⟨0xDD, s, 0, a, 0, 0#6 ++ n⟩)
  | .pstat s d n => some (none, ⟨0xDE, s, d, 0, 0, 0#6 ++ n⟩)
  | .undefinedInstruction => none
  | .registerWritePerformed _ _ => none
  | .pauseExpiry _ => none
  | .helperStops _ => none
  | .coreFree => none
  | .dispatch _ _ => none
  | .coreSave => none
  | .landingSetDrainBound => none
  | .restore => none
  | .remoteAccess _ _ _ => none
  | .retryResend _ => none
  | .dieFenced _ => none
  | .deferredUncorrectable _ _ _ _ _ => none
  | .walk _ => none
  | .tlbinvCompletion _ => none
  | .hostWrite => none
  | .hostRead => none
  | .slotLands _ _ => none
  | .streamFetch _ => none
  | .commandStart _ => none
  | .commandCompletion _ => none
  | .firmwarePath _ _ => none
  | .arrival _ _ _ _ => none
  | .expectReachesRoot _ _ => none
  | .completionBroadcast _ _ => none
  | .pulse _ => none
  | .heldHelperStart _ => none
  | .probe _ => none
  | .probeReceived _ _ _ => none
  | .takePresentedAgain _ => none
  | .arbiterStep => none
  | .matrixCommandComplete => none
  | .matrixResidueFault _ _ _ _ => none
  | .stationaryPairGrant => none
  | .mswapTakesEffect => none
  | .weaveStart => none
  | .pick _ _ => none
  | .latchedTask => none
  | .rePickPass _ _ => none
  | .weaveEnd _ => none
  | .portWordArrival _ _ _ _ => none
  | .closingMarker _ => none
  | .abortCloseFlit _ => none
  | .sendAllowance _ => none
  | .reclaimMessage _ _ => none
  | .mcastHop _ _ _ => none
  | .clusterReset => none
  | .doorbell => none
  | .qbase => none
  | .qsize => none
  | .qhead => none
  | .queueEnable => none
  | .queueDisable => none
  | .teardown => none
  | .teardownCompletes _ => none
  | .registerWrite => none
  | .elbase => none
  | .lost => none
  | .trdrop => none
  | .debugClaim => none
  | .debugRelease => none
  | .stop => none
  | .resume => none
  | .step => none
  | .kill => none
  | .dbgdataRead => none
  | .dbgdataWrite => none
  | .cntcfg => none
  | .counterOverflow _ => none
  | .testSlice => none
  | .testSliceEnd => none
  | .ptmExchange => none
  | .getMeasurements => none
  | .vendorDefinedRequest => none
  | .pwrctl => none
  | .pwrst => none
  | .throttleWindow => none
  | .trip => none
  | .coldReset => none
  | .functionLevelReset => none
  | .d3hot => none
  | .d0 => none
  | .d3cold => none
  | .luralPortDown => none
  | .accessPerformed _ => none
  | .icinvCompletion _ => none
  | .routerArbitration _ => none
  | .peerDeviceAccess => none
  | .hostAtomicop => none
  | .hostLinkDown => none
  | .spdmRequest => none
  | .configurationSpaceAccess => none

/-- The words of an instruction: one, or an EXT word and one (R33, R44). -/
def encode (i : Instr) : List Word32 :=
  match encodeFields i with
  | none => []
  | some (none, f) => [f.pack]
  | some (some e, f) => [0xFF#8 ++ e, f.pack]

/-- The bytes of an instruction, lowest address first (R2, R33). -/
def encodeBytes (i : Instr) : List Byte := (encode i).flatMap bytesOfWord32

end Sys2Proof
end

