-- ==== Sys2Proof/Machine/State.lean ====
section
/-! DEFINITION. The state of the machine as plain data: one core with its eleven contexts, and the cluster, job and
device state that its programs can reach or the host can see. `State.reset` is the machine right after reset. -/

namespace Sys2Proof.Machine

open Sys2Proof

/-! ## What a context holds -/

/-- A register that a pending write names: the files whose writes can be outstanding (R47);
loop and control registers are written in the writer's own cycle (R128, R164). -/
inductive Reg where
  | x (n : BitVec 5)
  | v (n : BitVec 5)
  | p (n : BitVec 3)
  deriving DecidableEq, Repr

/-- An issued register write not yet performed (R47, R48). `due` is the cycle from which a result of fixed latency is
read, `none` for a variable one; `need` counts the accesses or unit results that the value still waits for, and `val` is
what has come in so far; `dead` marks a write to be discarded when it arrives: a later one to the same register has
overtaken it (R50), or its data is uncorrectable (R197). `late` marks a result of variable latency whose cycle is known (R399),
and `ready` is the cycle before which a formed one does not arrive (R280), 0 for none. -/
structure PendingWrite where
  reg : Reg
  val : Vec
  need : Nat
  seq : Nat
  due : Option Nat
  dead : Bool
  late : Bool
  ready : Nat
  deriving DecidableEq, Repr

/-- A register that can carry the taint of an LDC (R192). -/
inductive TReg where
  | reg (r : Reg)
  | loop (n : Fin 3) (r : LoopReg)
  deriving DecidableEq, Repr

/-- An order that an acquire or a fence puts on later accesses (R191, R271, R303): those whose home lies within `scope`
wait for access `seq`; loads do only where `loads` says so. -/
structure Barrier where
  seq : Nat
  scope : Scope
  loads : Bool
  deriving DecidableEq, Repr

/-- An outstanding TLBINV (R206): its range (`bytes` = 0 names every page), the accesses and engine commands it waits for,
whether it has dropped the entries, and whether it was found waiting; `ready` is the cycle before which it is not complete (R212). -/
structure Tlbinv where
  lo : Nat
  bytes : Nat
  scope : Scope
  after : List Nat
  dropped : Bool
  held : Bool
  ready : Nat
  deriving DecidableEq, Repr

/-- A lane that met uncorrectable data (R197), kept until every lane of its instruction is done: `inst` names the
instruction's first access, and `wseq` the register write to be discarded. -/
structure BadLane where
  inst : Nat
  lane : Nat
  source : Nat
  iaddr : Word
  caddr : Word
  wseq : Option Nat
  deriving DecidableEq, Repr

/-- Bytes, by home key, that a load of a context may have read before it was issued (R306, R310). `newer` lists the writes that have
changed some of them since, each by the numbers of the agents and of the releases that it happens before (R308, R309); `passed` the
context's loads performed since, by number, home key and whether they are tagged. -/
structure Early where
  ctx : Fin 11
  key : Nat
  bytes : List Byte
  newer : List (List Nat)
  passed : List (Nat × Nat × Bool)
  deriving DecidableEq, Repr

/-- The state of a landing slot (R213). -/
inductive SlotState where
  | free | pending | landed | faulted
  deriving DecidableEq, Repr

/-- A landing slot (R213, R217): a marker holds the cause, the DETAIL and the failing address; `since` is the cycle in
which it landed (R214), and `taint` its address's taint (R192); `read` says that its load has read memory, and its data has
yet to land (R218), and `load` is the number of its load's access (R220). -/
structure Slot where
  state : SlotState
  width : TagWidth
  addr : Word
  rank : Nat
  since : Nat
  taint : List Nat
  read : Bool
  load : Nat
  val : Vec
  cause : BitVec 8
  detail : BitVec 32
  caddr : Word
  deriving DecidableEq, Repr

/-- What a trap records (R140, R141, R142). `iaddr` is TRAPREC2 and `ret` is TRAPREC1; `log` says that it is a violation, whose
refused address is logged when the trap is raised (R11). -/
structure TrapInfo where
  cause : BitVec 8
  detail : BitVec 32
  tag : Option (BitVec 5)
  fetch : Bool
  next : Bool
  ret : Word
  iaddr : Word
  caddr : Word
  log : Bool
  deriving DecidableEq, Repr

/-- Where a context waits (R277): the four kinds the deadlock probes follow, and every other wait. -/
inductive WaitKind where
  | psend | precv | ftake | push | other
  deriving DecidableEq, Repr

/-- A waiting context (R17, R152, R277, R279): its instruction has issued, and has not completed. `since` is the cycle in which it
began to wait in this kind; `x`, `v` and `p` are the registers as the instruction read them at its issue, `instr` is the instruction, and
`ready` is the cycle before which its check has not completed (R212). -/
structure Wait where
  kind : WaitKind
  q : BitVec 8
  addr : Word
  since : Nat
  delivered : Option Word
  x : Vector Word 32
  v : Vector Vec 32
  p : Vector Word 8
  instr : Option Instr
  ready : Nat
  deriving DecidableEq, Repr

/-- The send binding of a context (R386, R398): SST, target, words sent and allowances held. -/
structure SendBinding where
  sst : BitVec 2
  core : BitVec 12
  port : BitVec 2
  words : Nat
  allow : Nat
  deriving DecidableEq, Repr

/-- The registers of a gang's leader that decide where its followers go on (R124; log 31): its loop registers, the return address of its
trap record, and its RPTST and RPTPC. -/
structure LoopRegs where
  lc : Vector Word 3
  ls : Vector Word 3
  le : Vector Word 3
  ret : Word
  rptst : Word
  rptpc : Word
  deriving DecidableEq, Repr

/-- A vector form of the pigeonholes under way (R374): its table by owner and base, the lanes performed, and what their keys held. -/
structure PhRun where
  owner : BitVec 12
  base : Nat
  done : List Nat
  got : List (Word × Option Word)
  deriving DecidableEq, Repr

/-- One context (R16, R18, R24). `ending` holds from HEND or END until the context stops (R134, R137). `frame` holds the
captured words while the sequencer runs a repeat frame (R59), and `refetch` says that they are to be fetched again (R61); `lead` holds
the leader's registers of this kind in a follower of a gang (R124); `trapping` is a trap raised and not yet entered, because
an earlier register write of the context is outstanding (R140). `inTaint` is
the taint of the registers that the issuing instruction reads (R192), and `icinv` the line that its ICINV is dropping (R150). -/
structure Ctx where
  live : Bool
  ending : Bool
  pc : Word
  x : Vector Word 32
  v : Vector Vec 32
  p : Vector Word 8
  lc : Vector Word 3
  ls : Vector Word 3
  le : Vector Word 3
  loopAge : Vector Nat 3
  inTrap : Bool
  lsord : Bool
  chk : Bool
  rsvw : Bool
  haz : Bool
  rptst : Word
  rptpc : Word
  frame : List Word32
  refetch : Bool
  lead : Option LoopRegs
  traprec : Vector Word 4
  slots : Vector Slot 32
  landed : List (BitVec 5)
  nextRank : Nat
  writes : List PendingWrite
  parked : Bool
  nextIssue : Nat
  paused : Bool
  wait : Option Wait
  deferred : List TrapInfo
  trapping : Option TrapInfo
  order : List Barrier
  taints : List (TReg × Nat)
  inTaint : List Nat
  badLanes : List BadLane
  tlbinvs : List Tlbinv
  icinv : Option Nat
  send : SendBinding
  tookFree : Bool
  takeOrder : List (BitVec 5)
  replay : Option (List (BitVec 5))
  range : Option (Nat × Nat)
  ph : Option PhRun
  afterSync : Bool
  deriving DecidableEq, Repr

/-! ## What a core holds -/

/-- A stream register (R257, R258). `fetched` holds the next elements of a read stream, as far as they have been fetched ahead of use (R169);
`held` says that a fetch waits for a watermark (R249), and `ready` is the cycle before which no element can be used (R260). -/
structure Stream where
  bnd : Bool
  wr : Bool
  ty : LaneTy
  base : Word
  c : Vector Nat 4
  st : Vector Int 3
  remain : Nat
  fetched : List (Option Word)
  held : Bool
  ready : Nat
  deriving DecidableEq, Repr

/-- An interpolator table (R180). -/
structure Table where
  lo : BitVec 32
  e : Int
  nseg : Nat
  below : BitVec 32
  above : BitVec 32
  belowMode : BitVec 2
  aboveMode : BitVec 2
  coef : List (BitVec 32 × BitVec 32 × BitVec 32)
  deriving DecidableEq, Repr

/-- A cached leaf (R204): the page's virtual base, its level and the leaf entry. -/
structure TlbEntry where
  va : Nat
  level : Nat
  leaf : Word
  deriving DecidableEq, Repr

/-- What an engine command does (R243, R252, R254). -/
inductive CmdKind where
  | copy | gx | gxs | compact
  deriving DecidableEq, Repr

/-- A command's remainder on the firmware path of R247: not there, waiting for its answer, or being performed by it. -/
inductive FwPath where
  | none | waiting | active
  deriving DecidableEq, Repr

/-- An engine command between its push and its completion (R238, R246). `exchange` is the phase it was pushed in (R209); `after`
are the accesses it waits for before its own (R238), and `held` says that it was found waiting; `wm` is its watermark and the
last byte of its destination, as home keys (R249). `next` counts the units of work done; `head`, `ptr`, `sum`, `off` and
`copying` are a COMPACT's place in its row (R255): the chain's head, the next swatch, the entries counted or copied, the offset,
and which pass it makes. `logged` is the last uncorrectable line logged (R247); `used` are the translations that the command has
used, and goes on with (R206). `pulled` are sources read ahead of their unit of work, by unit and piece, and `stores` the writes
made and not yet performed, oldest first; `lazy` says that writes wait there (R246, R313); `skipped` are units of work put off,
`redo` is the one of them that is done next, and `newer` what has been written since by unit, home key and length. `stopped`
says that the command does no more units (R242), and `retry` is the cycle in which an access answered with RETRY is sent again
(R154). -/
structure Cmd where
  seq : Nat
  kind : CmdKind
  vec : Vec
  ctx : Fin 11
  exchange : Bool
  after : List Nat
  held : Bool
  started : Bool
  path : FwPath
  status : Nat
  bytes : Nat
  wm : Option (Nat × Nat)
  next : Nat
  head : Word
  ptr : Option Word
  sum : Nat
  off : Nat
  copying : Bool
  logged : Option Nat
  used : List TlbEntry
  pulled : List (Nat × Nat × List Byte)
  stores : List (Nat × List Byte)
  lazy : Bool
  skipped : List Nat
  redo : Option Nat
  newer : List (Nat × Nat × Nat)
  stopped : Bool
  retry : Option Nat
  deriving DecidableEq, Repr

/-- A completion element in its queue (R241), with the row of a COMPACT overflow and its HEADS entry (R256), the
watermark that its command left (R249), and its command's number (R240). -/
structure Element where
  word : Word
  overflow : Option (BitVec 32 × Word)
  wm : Option Nat
  cmd : Nat
  deriving DecidableEq, Repr

/-- An engine queue: commands not complete, oldest first, and elements ready to pop (R236, R239). -/
structure Chan where
  cmds : List Cmd
  ready : List Element
  deriving DecidableEq, Repr

/-- An active spike (R292): its descriptor, the ring and the staging buffer oldest first, and the batches spilled. -/
structure Spike where
  ring : BitVec 19
  rsize : Nat
  spill : Word
  ssize : Nat
  entries : List Word
  staging : List Word
  head : Nat
  batches : Nat
  deriving DecidableEq, Repr

/-- An active pigeonhole table (R365, R366). -/
structure PhTable where
  base : Nat
  b : Nat
  c : Nat
  spill : Word
  deriving DecidableEq, Repr

/-- A pigeonhole operation of another core at this core's unit (R374, R376): who sent it and for which job, and the cycle of its coming; the
lanes that it has performed with what their keys held, and whether it is under way. -/
structure UnitOp where
  core : BitVec 12
  jobid : BitVec 32
  op : RemoteOp
  since : Nat
  done : List Nat
  got : List (Word × Option Word)
  started : Bool
  deriving DecidableEq, Repr

/-- An atomic of another agent that has read its word at a cluster atomic unit or a fabric port, and has yet to write it (R286): its
number, SOURCE, and the bytes to be written. -/
structure Half where
  seq : Nat
  source : Nat
  key : Nat
  data : List Byte
  deriving DecidableEq, Repr

/-- The states of a receiving port (R388). -/
inductive PortState where
  | closed | opened | route | aborted
  deriving DecidableEq, Repr

/-- A receiving port (R385, R388): waiting words with the closing markers (`none`) among them; `ending` says that the last word
is a packet's closing word, whose marker enters next, and `marks` number the releases of the closing markers that wait (R307).
`given` counts the allowances that the route's sender holds, and `requests` lists the contexts that wait to open a route, with
their cores, in the order of their requests; `owed` counts the free words whose allowances a broken route held, until a reclaim
message restores them (R396). -/
structure Port where
  state : PortState
  rctx : Fin 11
  rsrc : BitVec 12
  rw : Nat
  buf : List (Option Word)
  ending : Bool
  marks : List Nat
  given : Nat
  owed : Nat
  requests : List (BitVec 12 × Fin 11)
  deriving DecidableEq, Repr

/-- A multicast outstanding (R389, R390): its source, its destination offset, the targets still to come, the bit of the next one,
what has been read, and the masks so far; `after` are the accesses that it waits for, `holds` is the core whose multicast buffer the tile
is in, and `resets` are the clusters reset since it set out (R396). -/
structure Mcast where
  seq : Nat
  ctx : Fin 11
  id : BitVec 16
  group : Option (BitVec 5)
  src : Nat
  lines : Nat
  doff : Nat
  targets : List (BitVec 12)
  index : Nat
  data : Option (List Byte)
  stored : Nat
  refused : Nat
  result : Option Nat
  after : List Nat
  held : Bool
  holds : Option (BitVec 12)
  resets : List Nat
  deriving DecidableEq, Repr

/-- An event counter (R420). -/
structure Counter where
  en : Bool
  ovie : Bool
  ovf : Bool
  evsel : BitVec 8
  val : BitVec 48
  deriving DecidableEq, Repr

/-- A format word in force (R332). -/
structure Fmt where
  fa : Ty
  fb : Ty
  sma : Bool
  smb : Bool
  deriving DecidableEq, Repr

/-- A stationary plane (R337): its recorded address and format, its tile bytes, and the codebook that they were read with. -/
structure Plane where
  addr : Word
  fmt : Ty
  scaled : Bool
  data : List Byte
  book : List (BitVec 16)
  deriving DecidableEq, Repr

/-- A loom task (R353). -/
structure Task where
  entry : Nat
  trow : Nat
  tcol : Nat
  fmt : Fmt
  zero : Bool
  warp : Tile
  weft : Tile
  deriving DecidableEq, Repr

/-- The matrix commands (R326, R327), and a loom task. -/
inductive MKind where
  | mctx (w : Word)
  | mmul (sp : Bool)
  | mloads
  | mswap
  | mstream
  | mdrain
  | acrd
  | acwr
  | mchkKat
  | mchkInj
  | mzeroAcc
  | mzeroSt
  | mcbk (isB : Bool)
  | mflag (clr : Bool)
  | task (t : Task)
  deriving DecidableEq, Repr

/-- A residue mismatch (R105, R344): block, group, accumulator row and array column. -/
structure Mism where
  block : Nat
  group : Nat
  row : Nat
  col : Nat
  deriving DecidableEq, Repr

/-- An error of the sum datapath (R105; log 37): in the sum of a block or group of an output element, `num` × 2^`exp` too
much. `row` counts within the command. -/
structure Upset where
  row : Nat
  col : Nat
  block : Nat
  group : Nat
  num : Int
  exp : Int
  deriving DecidableEq, Repr

/-- A command in the core's matrix queue (R326): its descriptor, operand addresses, steps taken, and the register write
that its result fills; `after` are the accesses that it waits for (R331), `held` says that it was found waiting, and `mism`
what its residue checks found. -/
structure MCmd where
  kind : MKind
  ctx : Fin 11
  desc : Word
  a : Word
  b : Word
  steps : Nat
  finished : Bool
  iaddr : Word
  result : Option Nat
  after : List Nat
  held : Bool
  mism : List Mism
  deriving DecidableEq, Repr

/-- A kept tile (R336): its ROW0 and its 64 rows of words. -/
structure Kept where
  row0 : Nat
  rows : List (List (BitVec 32))
  deriving DecidableEq, Repr

/-- The core's part of its matrix unit (R326, R332, R336, R337, R343). The partition is a sparse list of 32-bit words keyed by
partition row times 64 plus column; a word not listed reads 0 (R345). The fields named -Issued, `ownIssue` and `weight` are the
issue side's; `retake` says that a restored core is to own the stationary pair again (R345). `upsets` are the datapath errors
that the command being performed meets (log 37). -/
structure Matrix where
  queue : List MCmd
  fmt : Option Fmt
  cba : Option (List (BitVec 16))
  cbb : Option (List (BitVec 16))
  iovf : Bool
  acc : List (Nat × BitVec 32)
  kept : Option Kept
  ownIssue : Bool
  own : Bool
  otherOwner : Bool
  retake : Bool
  shadow : Option Plane
  live : Option Plane
  upsets : List Upset
  keptIssued : Option Nat
  shadowIssued : Option Ty
  liveIssued : Option Ty
  cbaIssued : Bool
  cbbIssued : Bool
  fmtIssued : Option Fmt
  weight : BitVec 4
  rflt : BitVec 8
  katRuns : Nat
  deriving DecidableEq, Repr

/-- A draft entry (R351) with its marks (R352). -/
structure DraftEntry where
  warp : BitVec 16
  weft : BitVec 16
  trow : BitVec 11
  tcol : BitVec 6
  ctx : BitVec 2
  valid : Bool
  zero : Bool
  fired : Bool
  mismatched : Bool
  deriving DecidableEq, Repr

/-- A copied draft (R351). -/
structure Draft where
  fmts : List Fmt
  entries : List DraftEntry
  deriving DecidableEq, Repr

/-- The core's loom state (R348 to R358): `size` is SZ, 0 when the core is in no loom. `warps` lists the warps injected in the
weave by loom position, with ID and SRC (R355, R359); `ends` holds what the other cores have missed, when the weave ends once
this core's tasks are done (R356; log 34). -/
structure Loom where
  size : BitVec 2
  lpos : Nat
  area : BitVec 19
  draft : Option Draft
  injWarp : Option Tile
  injWeft : Option Tile
  curWarp : Option Tile
  curWeft : Option Tile
  wake : Option Tile
  armed : Bool
  armedAt : Nat
  warps : List (Nat × BitVec 16 × Word)
  running : Bool
  rp : Bool
  ms : Bool
  brkn : Bool
  passEnd : Bool
  ends : Option (Option MissedAt)
  pick : Nat
  out : Nat
  exp : Nat
  bell : Bool
  lmgoAt : Word
  latched : List Task
  deriving DecidableEq, Repr

/-- A gang the core is in (R138): its size and whether this core leads it. `stops` lists the traps of other members, each
by its cycle and the position of the lowest faulting member (R144; log 34). Register writes of other members are outstanding until
the cycle `parks` (R52), and a take is not complete on every member until the cycle `takes` (R223). -/
structure Gang where
  n : Nat
  leader : Bool
  stops : List (Nat × Nat)
  parks : Nat
  takes : Nat
  deriving DecidableEq, Repr

/-- What the daybook restores (R162, R163, R315): the registers and the core's own state at the superstep's start, and the old contents of
the scratchpad lines and the partition rows written in it, by home key over 64 and by row; `rerun` says that the superstep has been
run again. -/
structure Snapshot where
  ctx : Ctx
  streams : Vector Stream 4
  tabs : Vector (Option Table) 4
  mbox : Vector Word 8
  chans : Vector Chan 5
  mbq : List Word
  spike : Option Spike
  tables : List PhTable
  matrix : Matrix
  full : List (Nat × Bool)
  filler : List (Nat × Nat)
  lines : List (Nat × List Byte)
  rows : List (Nat × List (BitVec 32))
  rerun : Bool
  deriving DecidableEq, Repr

/-- The core (R16 to R18), its engines' queues and its units. `drained` says that the drain of the landing sets has come to its
bound (R227). In a redundant job `partnerSig` is the other core's signature,
`upset` says that the other core's next exchange word differs, and `withheld` that a word of this superstep was withheld
(R161, R163). `unit` lists the operations of other cores at its pigeonhole unit, in the order of their coming (R376). -/
structure Core where
  num : BitVec 12
  last : Fin 11
  streams : Vector Stream 4
  tabs : Vector (Option Table) 4
  mbox : Vector Word 8
  sig : Word
  partnerSig : Word
  upset : Bool
  withheld : Bool
  snapshot : Option Snapshot
  chans : Vector Chan 5
  mbq : List Word
  spike : Option Spike
  tables : List PhTable
  unit : List UnitOp
  ports : Vector Port 4
  mcasts : List Mcast
  counters : Vector Counter 16
  matrix : Matrix
  loom : Loom
  gang : Option Gang
  drained : Bool
  deriving DecidableEq, Repr

/-! ## Job, cluster and device -/

/-- Kinds of claimed area (R28, R408). -/
inductive ClaimKind where
  | pigeonhole | spike | loom | save | daybook
  deriving DecidableEq, Repr

/-- A claimed area of every core of the job (R408). -/
structure Claim where
  kind : ClaimKind
  off : Nat
  bytes : Nat
  deriving DecidableEq, Repr

/-- A slot of this core's transfer schedule (R391, R413). -/
structure SlotEntry where
  slot : BitVec 13
  t : Nat
  dest : Word
  deriving DecidableEq, Repr

/-- A take of a range by a context of another core, by the cycle from which it has been made (log 34). -/
structure OtherTake where
  core : BitVec 12
  ctx : Fin 11
  since : Nat
  deriving DecidableEq, Repr

/-- The index space of a job (R158, R159): `pool` holds ranges to be handed out again, `takes` the takes of other cores to come,
and `taken` the ranges that those hold. -/
structure IndexSpace where
  next : Nat
  left : Nat
  grain : Nat
  pool : List (Nat × Nat)
  takes : List OtherTake
  taken : List (BitVec 12 × Fin 11 × Nat × Nat)
  deriving DecidableEq, Repr

/-- The job that holds the core (R21, R407, R408). `evicted` holds from its choice as a victim until the core is saved (R152),
`stopping` from a teardown or a double trap until the job is aborted (R145, R414), with the REASON `stopReason`; `ended` says
that this core's share has ended (R137); `startTime` is the time of the first instruction, once `began` says that it has issued,
and of the dispatch before (R412); `save` and `saveLen` are the HBM save region (R153, R408). -/
structure Job where
  running : Bool
  evicted : Bool
  stopping : Bool
  stopReason : Nat
  ended : Bool
  jobid : BitVec 32
  prio : BitVec 5
  superstep : Bool
  helpers : Nat
  chk : Bool
  redun : Bool
  manif : Bool
  record : Bool
  mapctl : Bool
  arg : Word
  trapvec : Word
  root : Word
  compl : Word
  evt : BitVec 15
  cores : List (BitVec 12)
  claims : List Claim
  space : IndexSpace
  xsched : List SlotEntry
  dayEntries : Nat
  dayNeed : Nat
  noReplay : Bool
  tamper : Bool
  hashed : List (Nat × Nat)
  save : Word
  saveLen : Nat
  nonce : List Byte
  digests : List (BitVec 512)
  startTime : Word
  began : Bool
  logged : Nat
  final : Option (BitVec 8 × BitVec 8)
  deriving DecidableEq, Repr

/-- An arrival that has reached its group's root in the network cycle to come (R263): its core, its weight, and the context with the write
that reports the phase. -/
structure Reached where
  core : BitVec 12
  weight : BitVec 16
  report : Option (Fin 11 × Nat)
  deriving DecidableEq, Repr

/-- A barrier group as its root and this core's node hold it (R262, R263, R265); `reached` and `expects` are what has reached the root
and is counted in its next network cycle. -/
structure Group where
  res : Bool
  member : Bool
  base : Nat
  expected : Nat
  arrived : Nat
  phase : BitVec 16
  node : BitVec 16
  reached : List Reached
  expects : Nat
  deriving DecidableEq, Repr

/-- A bellboard counter (R273, R276); `pulses` are those that the next network cycle adds (R274), `cleared` says that BBCLR has cleared it in
that cycle, and `was` is the source before a BBSET of that cycle (R275). -/
structure BellCounter where
  src : BitVec 8
  thresh : BitVec 16
  count : Nat
  ovf : Bool
  pulses : Nat
  cleared : Bool
  was : Option (BitVec 8)
  deriving DecidableEq, Repr

/-- A bellboard term (R273, R276): `start` is the helper address recorded at BBSET. -/
structure BellTerm where
  cfg : BitVec 52
  armed : Bool
  pend : Bool
  cred : Nat
  start : Word
  deriving DecidableEq, Repr

/-- A draper granted to the job (R296). -/
structure Draper where
  base : Nat
  limit : Nat
  sz : Nat
  next : Nat
  deriving DecidableEq, Repr

/-- How the bytes that a load reads become its result (R189). -/
inductive LoadForm where
  | scalar (w : LdWidth)
  | broadcast (w : MemWidth)
  | lane (i w : Nat)
  deriving DecidableEq, Repr

/-- A read-modify-write (R283). -/
inductive Rmw where
  | op (o : AtomicOp) (t : AtomicTy)
  | cas (t : AtomicTy) (expect : Word)
  deriving DecidableEq, Repr

/-- What an outstanding access does when it is performed. An atomic that `splits` reads and writes as two accesses
(R286); `unitWrite` is the second of them. `fullBit` and `finit` act on a full/empty word (R289). An arrival that leaves once
its releases are done (R264) and a request to a draper (R297) have no bytes. -/
inductive AccOp where
  | store (data : List Byte)
  | load (f : LoadForm) (wseq : Nat)
  | tagged (tag : BitVec 5)
  | atomic (op : Rmw) (b : Word) (wseq : Option Nat) (splits : Bool)
  | unitWrite (data : List Byte)
  | fullBit (wseq : Nat)
  | finit (v : Word) (full : Bool)
  | arrive (g : BitVec 5) (weight : BitVec 16) (report : Option Nat)
  | swatch (d : Nat) (wx wp : Nat)
  deriving DecidableEq, Repr

/-- A memory access issued and not yet performed (R302): it waits for the accesses `after` (R191, R192, R271), and for
earlier ones of its context to the same bytes (R304). `iaddr` is its instruction's address and `caddr` its own; `page` is
the base and size of the page that translated it, 0 bytes when none did; `inst` and `lane` say which lane of which
instruction it is; `stream` is the stream it writes through; `acq` is the number by which later accesses name its read, where they wait for
no more of it (R283). `held` says that it was found unable to go on and waits for
another access or an engine; `retry` that a saving core has answered it with RETRY, and the cycle in which it is sent again
(R154). -/
structure Acc where
  seq : Nat
  ctx : Fin 11
  key : Nat
  len : Nat
  op : AccOp
  after : List Nat
  iaddr : Word
  caddr : Word
  page : Nat × Nat
  inst : Nat
  lane : Nat
  stream : Option (BitVec 2)
  acq : Option Nat
  held : Bool
  retry : Option Nat
  deriving DecidableEq, Repr

/-- An entry of an owner's deferred list (R289): who takes, and the word's home key. -/
structure FeWait where
  core : BitVec 12
  ctx : Fin 11
  key : Nat
  deriving DecidableEq, Repr

/-- The five registers of a queue (R405), and the index one past the last packet accepted (R411, R429). -/
structure Queue where
  base : Word
  size : BitVec 4
  head : BitVec 32
  tail : BitVec 32
  en : Bool
  td : Bool
  vec : BitVec 8
  irq : Bool
  accepted : BitVec 32
  deriving DecidableEq, Repr

/-- The states of a completion event (R411). -/
inductive EventState where
  | done | pending | failed
  deriving DecidableEq, Repr

/-- A health-table entry (R421). -/
structure Health where
  pass : Bool
  time : Word
  fails : Nat
  running : Bool
  deriving DecidableEq, Repr

/-- The power states of R430, and the loss of power (R427). -/
inductive Power where
  | d0 | d3hot | off
  deriving DecidableEq, Repr

/-- A job of this device that runs on other cores only (log 40); `saved` says that it has been evicted, and holds no core
(R152), and `scratch` then what the scratchpads of its cores hold (R153); `tookFree` says that it has run here and taken out of
order (R225). `groups`, `regions` and `drapers` are the numbers of what it has reserved (R21). -/
structure OtherJob where
  job : Job
  saved : Bool
  scratch : List Host.Cell
  tookFree : Bool
  groups : List Nat
  regions : List Nat
  drapers : List Nat
  deriving DecidableEq, Repr

/-- The host-visible device registers and records (R405, R411, R416 to R423, R427, R429). `slewHeld` says that a slew has held
DEVTIME back in this step (R417); `peersDown` lists the peer devices that do not answer (R424); `clashes` lists the packets, by
queue and index, whose EVT was PENDING when they were accepted (R409); and `jobs` the jobs on other cores. `ages` are the ageing
counters of the routers' inputs, by node × 8 + input, and `winners` the inputs that won the last arbitration, by node × 8 +
output (R14, R393). -/
structure Device where
  queues : List (Nat × Queue)
  clashes : List (Nat × BitVec 32)
  jobs : List OtherJob
  events : List (Nat × EventState)
  elbase : Word
  elsize : BitVec 4
  elprod : BitVec 32
  elcons : BitVec 32
  lost : BitVec 32
  dbgJob : BitVec 32
  dbgClaimed : Bool
  dbgBad : Bool
  dbgStopped : Bool
  dbgStopReq : Bool
  dbgStep : Option (Fin 11)
  dbgsel : Word
  trbase : Word
  trsize : BitVec 4
  trprod : BitVec 32
  trcons : BitVec 32
  trdrop : BitVec 32
  otherCounters : List (Nat × Word)
  health : List (Nat × Health)
  fencedDies : List (BitVec 2)
  pwrEn : Bool
  pwrCap : BitVec 16
  hot : Bool
  throt : Bool
  tjmax : BitVec 8
  pwr : BitVec 16
  windows : Nat
  power : Power
  bringUp : Nat
  hostLink : Bool
  luralDown : List (BitVec 4)
  peersDown : List Nat
  manifests : List (BitVec 32 × List Byte)
  reply : List Byte
  msix : List (BitVec 8)
  devtime : Word
  devFrac : Nat
  slew : Int
  slewHeld : Bool
  ages : List (Nat × Nat)
  winners : List (Nat × BitVec 3)
  deriving DecidableEq, Repr

/-- The barrier groups, the superstep domain and position, and the imbalance record (R262, R268, R270). `times` holds when each
core's arrival of this phase left it, and `synced` the phase in which this core's waiting SYNC has arrived (R269). -/
structure Barriers where
  groups : Vector Group 32
  domain : Option (BitVec 5)
  sstep : Word
  imbal0 : Word
  imbal1 : Word
  xcBase : Nat
  times : List (BitVec 12 × Word)
  synced : Option (BitVec 16)
  deriving DecidableEq, Repr

/-- Another core of the cluster that executes GANG, LMJOIN or END: its position, the size it names (0 for END), and the
cycle from which it waits or has ended (log 34). -/
structure Peer where
  pos : Nat
  n : Nat
  since : Nat
  deriving DecidableEq, Repr

/-- What another core of the cluster does to the bellboard (R273, R275). -/
inductive BoardOp where
  | setCounter (n : Fin 16) (src : BitVec 8) (thresh : BitVec 16)
  | setTerm (n : Fin 16) (cfg : BitVec 52) (start : Word)
  | clear (mask : Word)
  deriving DecidableEq, Repr

/-- What the other cores of the cluster do (R138, R348, R431): who waits at GANG or at LMJOIN, which ranges a clash keeps from a
gang or a loom (R138, R348), who has armed a weave with LMGO, which pigeonhole tables are active there, who has executed END,
and which positions are being saved, from one cycle to another (R154); the bellboard of the cluster (R272), the network cycle,
plus 1, and the position of the last core to act on it, what cores of higher positions have yet to do to it in this network
cycle (R275), the actions of its terms, by the cycle from which each is due (R280), and the deadlock probes on their way to a
context of this core, each with its sender and the lowest identity seen (R278). -/
structure Cluster where
  gangWait : List Peer
  gangClash : List (Nat × Nat)
  loomWait : List Peer
  loomClash : List (Nat × Nat)
  loomArmed : List Peer
  phTables : List (BitVec 12 × PhTable)
  ended : List Peer
  saving : List (Nat × Nat × Nat)
  counters : Vector BellCounter 16
  terms : Vector BellTerm 16
  boardLast : Nat × Nat
  boardOps : List (Nat × BoardOp)
  boardActs : List (Nat × Fin 16 × BellTerm)
  probes : List (Fin 11 × BitVec 16 × BitVec 16)
  deriving DecidableEq, Repr

/-- What another core does that this one can observe (log 34): it comes to GANG, LMJOIN, LMGO or END; claims or frees a pigeonhole table; is
saved for some cycles (R154); writes memory outside this core's scratchpad; puts, sets or takes a full/empty word there, or gives a take
up (R289); is served by a draper (R297); takes a range (R158); sends its arrival of the superstep off (R270); has an exchange word withheld, or
sends one that differs (R163); steps its matrix unit, or gets or gives up its stationary pair (R336, R337); injects a warp (R356); loses
a tile on this core's link (R355); asks a port for a route, or gives up (R386); sends on a multicast (R390); traps as a member of the
gang (R144), or has register writes or takes outstanding for some cycles (R52, R223); starts a command on a credit (R274); finds a deadlock
cycle (R278); refuses an access or an engine command of this core, being another job's (R431); performs an atomic of the cluster's unit on a word
outside this core's scratchpad (R286); drops a line from every instruction cache (R150); ends a context that receives on a port (R385); sets or
clears the bellboard (R275). The trace samples a context (R419), and a peer device falls silent or answers again (R424). -/
inductive OtherAct where
  | gangWait (pos n : Nat)
  | loomWait (pos n : Nat)
  | loomArm (pos : Nat)
  | ended (pos : Nat)
  | table (core : BitVec 12) (t : PhTable)
  | freeTable (core : BitVec 12) (base : Nat)
  | saving (pos cycles : Nat)
  | store (core : BitVec 12) (key : Nat) (data : List Byte)
  | fput (core : BitVec 12) (ctx : Fin 11) (key : Nat) (v : Word)
  | finit (core : BitVec 12) (key : Nat) (v : Word) (full : Bool)
  | ftake (core : BitVec 12) (ctx : Fin 11) (key : Nat)
  | untake (core : BitVec 12) (ctx : Fin 11)
  | swalloc (d : Nat)
  | range (core : BitVec 12) (ctx : Fin 11)
  | departs (core : BitVec 12)
  | withheld
  | upset
  | matrixStep
  | pairTaken
  | pairFreed
  | warp (lpos : Nat) (id : BitVec 16) (src : Word)
  | ringLoss (src : Word)
  | request (port : BitVec 2) (core : BitVec 12) (ctx : Fin 11)
  | withdraw (port : BitVec 2) (core : BitVec 12) (ctx : Fin 11)
  | mcast (core : BitVec 12) (ctx : Fin 11) (id : BitVec 16) (group : Option (BitVec 5)) (doff : Nat) (data : List Byte)
  | gangStop (pos : Nat)
  | gangParks (cycles : Nat)
  | gangTakes (cycles : Nat)
  | credit (term : Fin 16)
  | deadlock (ctx : Fin 11)
  | refused (seq : Nat)
  | refusedCmd (q : Fin 5) (a : Word)
  | atomic (core : BitVec 12) (key : Nat) (op : AtomicOp) (t : AtomicTy) (operand : Word)
  | icinv (key : Nat)
  | portEnds (core : BitVec 12) (port : BitVec 2)
  | board (pos : Nat) (op : BoardOp)
  | sample (ctx : Fin 11)
  | peerSilent (d : Nat)
  | peerAnswers (d : Nat)
  deriving DecidableEq, Repr

/-- Which agent moves next (log 1): an entry of the agenda, the core's next issue, a cycle that throttling withholds from the
core (R426), another core, or what the memory model leaves to the machine: a load of a context may have read some bytes early,
or reads what was read so (R310); a command may read a piece of a unit's source ahead, perform a write that it has made, leave
its writes for later, or put a unit of work off and do it then (R246, R313); a stream may fetch an element ahead (R169), and the
device may come to the next step of its bring-up (R429). -/
inductive Turn where
  | event (k : Nat)
  | issue
  | withheld
  | other (a : OtherAct)
  | early (ctx : Fin 11) (key len : Nat)
  | stale (seq : Nat)
  | pull (q : Fin 5) (u i : Nat)
  | drain (q : Fin 5) (i : Nat)
  | lazy (q : Fin 5)
  | defer (q : Fin 5)
  | redo (q : Fin 5) (u : Nat)
  | fetch (n : Fin 4) (i : Nat)
  | bringUp
  deriving DecidableEq, Repr

/-- An evicted job, as this core's save holds it (R153, R155): its contexts, the core's and the job's state, the events it had due,
and the scratchpads of its cores. `owned` says that the core held the stationary pair (R345), and `since` is the cycle of
the save. -/
structure Saved where
  ctxs : Vector Ctx 11
  core : Core
  job : Job
  bar : Barriers
  clu : Cluster
  scratch : List Host.Cell
  full : List (Nat × Bool)
  filler : List (Nat × Nat)
  regions : List (Nat × BitVec 48)
  revmap : List (Nat × Nat × Nat)
  drapers : List (Nat × Draper)
  accs : List Acc
  agenda : List Instr
  owned : Bool
  since : Nat
  deriving DecidableEq, Repr

/-- The machine. `agenda` lists the events that are due, oldest first: what instructions have set going, and what comes from
outside; `inbox` what the outside brings with its events, oldest first. `turns` says which agent moves next; when it is empty
the oldest event does, else the core issues (log 1). Memory is one list of bytes by home key, in canonical form (log 3). `bad`
lists the 64-byte lines that hold uncorrectable data, by key over 64, with the source code of R196 (log 35). `icache` holds the
lines of the core's instruction cache by home key of their first byte (R150); `early` what loads may have read before their
issue (R310), oldest first; `halves` are atomics of other agents between their read and their write (R286); `revmap` the frames
of R209 as base key, bytes and region. -/
structure State where
  ctxs : Vector Ctx 11
  cur : Fin 11
  core : Core
  job : Job
  bar : Barriers
  clu : Cluster
  dev : Device
  mem : List Host.Cell
  bad : List (Nat × Nat)
  full : List (Nat × Bool)
  filler : List (Nat × Nat)
  takers : List FeWait
  regions : List (Nat × BitVec 48)
  revmap : List (Nat × Nat × Nat)
  drapers : List (Nat × Draper)
  accs : List Acc
  early : List Early
  halves : List Half
  evicted : List Saved
  micro : List TlbEntry
  clutlb : List TlbEntry
  lasttlb : List TlbEntry
  icache : List (Nat × List Byte)
  agenda : List Instr
  inbox : List HostReq
  turns : List Turn
  cycle : Nat
  seq : Nat
  deriving DecidableEq, Repr

/-! ## How a step can stop -/

/-- A stop of the machine. -/
inductive Fault where
  /-- Raised by `step` and by no instruction: the package has no power (R427 trip, R430 D3cold), so nothing runs until a
  cold reset. Safe: the spec says all state is lost. -/
  | poweredOff
  deriving DecidableEq, Repr

/-- An instruction without a meaning. -/
inductive Refusal where
  /-- Raised by `exec` for a constructor that has no meaning yet. Safe: nothing is claimed of it. -/
  | notModelled (mnemonic : String)
  deriving DecidableEq, Repr

/-! ## Reset -/

/-- A free landing slot (R213). -/
def Slot.free : Slot :=
  { state := .free, width := .scalar .z64, addr := 0, rank := 0, since := 0, taint := [], read := false, load := 0, val := 0, cause := 0, detail := 0, caddr := 0 }

/-- A context before it starts: every register 0 (R133; log 4 for context 0). -/
def Ctx.reset : Ctx :=
  { live := false, ending := false, pc := 0, x := Vector.replicate 32 0, v := Vector.replicate 32 0,
    p := Vector.replicate 8 0, lc := Vector.replicate 3 0, ls := Vector.replicate 3 0, le := Vector.replicate 3 0,
    loopAge := Vector.replicate 3 0, inTrap := false, lsord := false, chk := false, rsvw := false, haz := false,
    rptst := 0, rptpc := 0, frame := [], refetch := false, lead := none, traprec := Vector.replicate 4 0, slots := Vector.replicate 32 Slot.free,
    landed := [], nextRank := 0, writes := [], parked := false, nextIssue := 0, paused := false, wait := none,
    deferred := [], trapping := none, order := [], taints := [], inTaint := [], badLanes := [], tlbinvs := [], icinv := none,
    send := { sst := 0, core := 0, port := 0, words := 0, allow := 0 }, tookFree := false,
    takeOrder := [], replay := none, range := none, ph := none, afterSync := false }

/-- An unbound stream register (R257, R258). -/
def Stream.unbound : Stream :=
  { bnd := false, wr := false, ty := .int .s8, base := 0, c := Vector.replicate 4 0, st := Vector.replicate 3 0,
    remain := 0, fetched := [], held := false, ready := 0 }

/-- A closed port (R385). -/
def Port.closed : Port := { state := .closed, rctx := 0, rsrc := 0, rw := 0, buf := [], ending := false, marks := [], given := 0, owed := 0, requests := [] }

/-- A counter after reset (R420). -/
def Counter.reset : Counter := { en := false, ovie := false, ovf := false, evsel := 0, val := 0 }

/-- The matrix state of a core at launch (R332, R345). -/
def Matrix.reset : Matrix :=
  { queue := [], fmt := none, cba := none, cbb := none, iovf := false, acc := [], kept := none, ownIssue := false,
    own := false, otherOwner := false, retake := false, shadow := none, live := none, upsets := [], keptIssued := none, shadowIssued := none,
    liveIssued := none, cbaIssued := false, cbbIssued := false, fmtIssued := none, weight := 0, rflt := 0,
    katRuns := 0 }

/-- A core in no loom (R358). -/
def Loom.reset : Loom :=
  { size := 0, lpos := 0, area := 0, draft := none, injWarp := none, injWeft := none, curWarp := none,
    curWeft := none, wake := none, armed := false, armedAt := 0, warps := [], running := false, rp := false, ms := false,
    brkn := false, passEnd := false, ends := none, pick := 0, out := 0, exp := 0, bell := false, lmgoAt := 0, latched := [] }

/-- The core after reset; core 0 unless a job places it elsewhere (log 2). -/
def Core.reset : Core :=
  { num := 0, last := 10, streams := Vector.replicate 4 Stream.unbound, tabs := Vector.replicate 4 none,
    mbox := Vector.replicate 8 0, sig := 0, partnerSig := 0, upset := false, withheld := false, snapshot := none,
    chans := Vector.replicate 5 { cmds := [], ready := [] }, mbq := [], spike := none, tables := [], unit := [],
    ports := Vector.replicate 4 Port.closed, mcasts := [], counters := Vector.replicate 16 Counter.reset, matrix := Matrix.reset,
    loom := Loom.reset, gang := none, drained := false }

/-- No job holds the core. -/
def Job.none : Job :=
  { running := false, evicted := false, stopping := false, stopReason := 1, ended := false, jobid := 0, prio := 0, superstep := false, helpers := 0, chk := false,
    redun := false, manif := false, record := false, mapctl := false, arg := 0, trapvec := 0, root := 0, compl := 0,
    evt := 0, cores := [], claims := [], space := { next := 0, left := 0, grain := 0, pool := [], takes := [], taken := [] }, xsched := [],
    dayEntries := 0, dayNeed := 0, noReplay := false, tamper := false, hashed := [], save := 0, saveLen := 0, nonce := [], digests := [],
    startTime := 0, began := false, logged := 0, final := Option.none }

/-- A group that no job has reserved (R262, R267). -/
def Group.unreserved : Group :=
  { res := false, member := false, base := 0, expected := 0, arrived := 0, phase := 0, node := 0, reached := [], expects := 0 }

/-- The barrier state of a core without a job (R262, R268, R270). -/
def Barriers.reset : Barriers :=
  { groups := Vector.replicate 32 Group.unreserved, domain := none, sstep := 0, imbal0 := 0, imbal1 := 0, xcBase := 0,
    times := [], synced := none }

/-- The bellboard at launch (R272), and no neighbour waiting. -/
def Cluster.reset : Cluster :=
  { gangWait := [], gangClash := [], loomWait := [], loomClash := [], loomArmed := [], phTables := [], ended := [], saving := [],
    counters := Vector.replicate 16 { src := 0, thresh := 0, count := 0, ovf := false, pulses := 0, cleared := false, was := none },
    terms := Vector.replicate 16 { cfg := 0, armed := false, pend := false, cred := 0, start := 0 }, boardLast := (0, 0), boardOps := [], boardActs := [], probes := [] }

/-- A queue after reset (R405). -/
def Queue.reset : Queue :=
  { base := 0, size := 0, head := 0, tail := 0, en := false, td := false, vec := 0, irq := false, accepted := 0 }

/-- The device after a cold reset and bring-up steps 1 to 5 (R405, R411, R423, R427, R429). -/
def Device.reset : Device :=
  { queues := [], clashes := [], jobs := [], events := [], elbase := 0, elsize := 0, elprod := 0, elcons := 0, lost := 0, dbgJob := 0,
    dbgClaimed := false, dbgBad := false, dbgStopped := false, dbgStopReq := false, dbgStep := none, dbgsel := 0,
    trbase := 0, trsize := 0, trprod := 0, trcons := 0, trdrop := 0, otherCounters := [], health := [],
    fencedDies := [], pwrEn := false, pwrCap := 3200, hot := false, throt := false, tjmax := 0, pwr := 0,
    windows := 0, power := .d0, bringUp := 5, hostLink := true, luralDown := [], peersDown := [], manifests := [], reply := [],
    msix := [], devtime := 0, devFrac := 0, slew := 0, slewHeld := false, ages := [], winners := [] }

/-- The machine right after reset: no job runs, no queue is enabled, and memory lists nothing (R405, R428, R429). -/
def State.reset : State :=
  { ctxs := Vector.replicate 11 Ctx.reset, cur := 0, core := Core.reset, job := Job.none, bar := Barriers.reset,
    clu := Cluster.reset, dev := Device.reset, mem := [], bad := [], full := [], filler := [], takers := [], regions := [],
    revmap := [], drapers := [], accs := [], early := [], halves := [], evicted := [], micro := [], clutlb := [], lasttlb := [], icache := [], agenda := [], inbox := [], turns := [],
    cycle := 0, seq := 1 }

end Sys2Proof.Machine
end

