-- ==== Sys2Proof/Machine/Flags.lean ====
section
/-! DEFINITION. The arithmetic every typed instruction shares (R108 to R113), and the status words that gather flags and
fields: CTXST (R54), RPTST and RPTPC (R60), TRAPREC0 (R141). -/

namespace Sys2Proof.Machine

/-! ## Typed integers (R82, R108) -/

/-- `ext(x, w)` of R108: sign-extended for a `.s` type, zero-extended for a `.z` type. -/
def extInt (t : IntTy) (v : Nat) : Int :=
  if t.signed then sextNat v t.width else (v % 2 ^ t.width : Nat)

/-- The least value of a type (R108). -/
def loInt (t : IntTy) : Int := if t.signed then -(2 : Int) ^ (t.width - 1) else 0

/-- The greatest value of a type (R108). -/
def hiInt (t : IntTy) : Int := if t.signed then (2 : Int) ^ (t.width - 1) - 1 else (2 : Int) ^ t.width - 1

/-- `sat(y, lo, hi)` of R82. -/
def satInt (y lo hi : Int) : Int := if y < lo then lo else if hi < y then hi else y

/-- An exact result narrowed to the type: wrapped or saturated (R108). -/
def narrowInt (t : IntTy) (v : Variant) (y : Int) : Int :=
  match v with
  | .sat => satInt y (loInt t) (hiInt t)
  | .wrap => extInt t (y % (2 : Int) ^ t.width).toNat

/-- The 64-bit pattern written for an exact result `y` (R108). -/
def typedWord (t : IntTy) (v : Variant) (y : Int) : Word := wrap64 (narrowInt t v y)

/-- A register read as a number of the type (R108). -/
def extWord (t : IntTy) (x : Word) : Int := extInt t x.toNat

/-! ## The operations of R109 to R113 -/

/-- DIV (R111). -/
def quotient (a b : Int) : Int := if b = 0 then -1 else Int.tdiv a b

/-- REM (R111). -/
def remainder (a b : Int) : Int := if b = 0 then a else a - b * Int.tdiv a b

/-- Leading zero bits of the low `w` bits of `v` (R109). -/
def leadingZeros (v : Nat) : Nat → Nat
  | 0 => 0
  | w + 1 => if v.testBit w then 0 else 1 + leadingZeros v w

/-- Trailing zero bits of `v`, looking at `w` bits (R109). -/
def trailingZeros (v : Nat) : Nat → Nat
  | 0 => 0
  | w + 1 => if v % 2 = 1 then 0 else 1 + trailingZeros (v / 2) w

/-- One bits among the low `w` bits of `v` (R109, R120). -/
def popCount (v : Nat) : Nat → Nat
  | 0 => 0
  | w + 1 => v % 2 + popCount (v / 2) w

/-- The shift count of R112: bits [5:0] of xB. -/
def shiftCount (b : Word) : Nat := b.toNat % 64

/-- SHL before the wrap (R112). -/
def shlInt (t : IntTy) (a b : Word) : Int := ((a.toNat % 2 ^ t.width * 2 ^ shiftCount b : Nat) : Int)

/-- SHR (R112): zeros shift in whatever the type. -/
def shrInt (t : IntTy) (a b : Word) : Int := ((a.toNat % 2 ^ t.width / 2 ^ shiftCount b : Nat) : Int)

/-- SRA (R112): copies of bit w - 1 shift in. -/
def sraInt (t : IntTy) (a b : Word) : Int := sextNat a.toNat t.width / (2 : Int) ^ shiftCount b

/-- The field position of BFX and BFI (R113). -/
def fieldPos (b : Word) : Nat := b.toNat % 64

/-- The number of bits of the field of BFX and BFI, cut at bit 63 (R113). -/
def fieldBits (b : Word) : Nat := Nat.min (natBits b.toNat 13 8 + 1) (64 - fieldPos b)

/-- BFX (R113). -/
def bfxWord (t : IntTy) (a b : Word) : Word :=
  let f := a.toNat / 2 ^ fieldPos b % 2 ^ fieldBits b
  if t.signed then wrap64 (sextNat f (fieldBits b)) else BitVec.ofNat 64 f

/-- BFI (R113): the field of `d` replaced by the low bits of `a`. -/
def bfiWord (d a b : Word) : Word :=
  let m : Word := BitVec.ofNat 64 ((2 ^ fieldBits b - 1) * 2 ^ fieldPos b)
  (d &&& ~~~m) ||| (BitVec.ofNat 64 (a.toNat * 2 ^ fieldPos b) &&& m)

/-- The condition of PCMP and VCMP on integers (R118). -/
def condInt (c : Cond) (a b : Int) : Bool :=
  match c with
  | .eq => decide (a = b)
  | .ne => decide (a ≠ b)
  | .lt => decide (a < b)
  | .le => decide (a ≤ b)
  | .gt => decide (b < a)
  | .ge => decide (b ≤ a)

/-- Bit i of PLOG's result: T[2 × bit i of pA + bit i of pB] (R119). -/
def plogWord (t : BitVec 4) (a b : Word) : Word :=
  (if t.getLsbD 0 then ~~~a &&& ~~~b else 0) ||| (if t.getLsbD 1 then ~~~a &&& b else 0)
    ||| (if t.getLsbD 2 then a &&& ~~~b else 0) ||| (if t.getLsbD 3 then a &&& b else 0)

/-- A truth value as a register (R117). -/
def boolWord (b : Bool) : Word := if b then 1 else 0

/-! ## CTXST (R54) -/

/-- A bit at a position of a 64-bit word. -/
def bitAt (b : Bool) (n : Nat) : Nat := if b then 2 ^ n else 0

/-- RPTST.ACT (R60). -/
def rptAct (w : Word) : Bool := w.getLsbD 0

/-- CTXST as MFC reads it (R54), for context number `num` of a job in superstep mode or not. -/
def ctxstWord (c : Ctx) (num : Nat) (superstep : Bool) : Word :=
  BitVec.ofNat 64 (num * 2 ^ 12 + bitAt superstep 11 + bitAt c.inTrap 10 + bitAt c.lsord 9 + bitAt (rptAct c.rptst) 8
    + bitAt c.chk 5 + bitAt c.rsvw 4 + bitAt c.haz 3)

/-- The reserved bits of CTXST (R54): a nonzero write to them sets RSVW (R8). -/
def ctxstRsv : Word := 0xFFFFFFFFFFFF00C7#64

/-- CTXST written (R8, R54): CHK is replaced, RSVW and HAZ are cleared by ones, and a nonzero write to a reserved bit sets
RSVW. A write that clears RSVW by a one and touches a reserved bit at once leaves it set: the spec does not say which wins (DESIGN CHOICE,
log 113). -/
def writeCtxst (c : Ctx) (w : Word) : Ctx :=
  { c with chk := w.getLsbD 5, haz := c.haz && !w.getLsbD 3,
           rsvw := (c.rsvw && !w.getLsbD 4) || decide (w &&& ctxstRsv ≠ 0) }

/-! ## The repeat frame's registers (R60) -/

/-- RPTST.J. -/
def rptJ (w : Word) : Nat := natBits w.toNat 63 44
/-- RPTST.KM1. -/
def rptKm1 (w : Word) : Nat := natBits w.toNat 43 24
/-- RPTST.SD. -/
def rptSd (w : Word) : Nat := natBits w.toNat 23 19
/-- RPTST.SA. -/
def rptSa (w : Word) : Nat := natBits w.toNat 18 14
/-- RPTST.SB. -/
def rptSb (w : Word) : Nat := natBits w.toNat 13 9
/-- RPTST.N. -/
def rptN (w : Word) : Nat := natBits w.toNat 8 5
/-- RPTST.IDX. -/
def rptIdx (w : Word) : Nat := natBits w.toNat 4 1

/-- RPTST from its fields (R60). -/
def rptWord (j km1 sd sa sb n idx : Nat) (act : Bool) : Word :=
  BitVec.ofNat 64 (j * 2 ^ 44 + km1 * 2 ^ 24 + sd * 2 ^ 19 + sa * 2 ^ 14 + sb * 2 ^ 9 + n * 2 ^ 5 + idx * 2
    + bitAt act 0)

/-- RPTST with the position of the current word replaced. -/
def rptAt (w : Word) (j idx : Nat) (act : Bool) : Word :=
  rptWord j (rptKm1 w) (rptSd w) (rptSa w) (rptSb w) (rptN w) idx act

/-- The writable bits of RPTPC (R60). -/
def rptpcMask : Word := 0x0000FFFFFFFFFFFC#64

/-! ## TRAPREC0 (R141) -/

/-- TRAPREC0 from what a trap records. -/
def traprec0 (t : TrapInfo) : Word :=
  BitVec.ofNat 64 (t.detail.toNat * 2 ^ 32 + (t.tag.getD 0).toNat * 2 ^ 19 + bitAt t.tag.isSome 18 + bitAt t.fetch 17
    + bitAt t.next 16 + t.cause.toNat)

end Sys2Proof.Machine
end

