-- ==== Sys2Proof/Machine/Memory.lean ====
section
/-! DEFINITION. Sparse lists in canonical form, and memory as one of them: bytes by home key, read and written in
little-endian order (R2). A byte that nothing has written reads 0 (R78 for a scratchpad; log 3 elsewhere). -/

namespace Sys2Proof.Machine

/-! ## Sparse lists -/

/-- What a key holds; a key that is not listed holds `d`. -/
def Sparse.get {α : Type} (d : α) : List (Nat × α) → Nat → α
  | [], _ => d
  | (a, v) :: m, k => if a = k then v else Sparse.get d m k

/-- The list without a key. -/
def Sparse.erase {α : Type} : List (Nat × α) → Nat → List (Nat × α)
  | [], _ => []
  | (a, v) :: m, k => if a = k then Sparse.erase m k else (a, v) :: Sparse.erase m k

/-- The list with an entry put before the first larger key. -/
def Sparse.insert {α : Type} (k : Nat) (v : α) : List (Nat × α) → List (Nat × α)
  | [] => [(k, v)]
  | (a, w) :: m => if k < a then (k, v) :: (a, w) :: m else (a, w) :: Sparse.insert k v m

/-- The list after key `k` is given the value `v`: a value equal to `d` is not listed. -/
def Sparse.set {α : Type} [DecidableEq α] (d : α) (m : List (Nat × α)) (k : Nat) (v : α) : List (Nat × α) :=
  if v = d then Sparse.erase m k else Sparse.insert k v (Sparse.erase m k)

/-- Every listed key is at least `b`, keys rise strictly, and no listed value is `d`. -/
def Sparse.wfFrom {α : Type} [DecidableEq α] (d : α) : Nat → List (Nat × α) → Bool
  | _, [] => true
  | b, (a, v) :: m => decide (b ≤ a) && decide (v ≠ d) && Sparse.wfFrom d (a + 1) m

/-- The canonical form of a sparse list. -/
def Sparse.wf {α : Type} [DecidableEq α] (d : α) (m : List (Nat × α)) : Bool := Sparse.wfFrom d 0 m

/-! ## Memory -/

/-- What a byte of memory that nothing has written reads as (log 3). -/
def Memory.unlisted : Byte := 0

/-- The canonical form of memory: addresses rise strictly, and no entry equals what an unlisted address reads as. -/
def Memory.wf (m : List Host.Cell) : Bool := Sparse.wf Memory.unlisted m

/-- One byte of memory. -/
def Memory.byte (m : List Host.Cell) (k : Nat) : Byte := Sparse.get Memory.unlisted m k

/-- Memory with one byte written. -/
def Memory.setByte (m : List Host.Cell) (k : Nat) (b : Byte) : List Host.Cell := Sparse.set Memory.unlisted m k b

/-- `n` bytes from key `k` upwards. -/
def Memory.read (m : List Host.Cell) (k : Nat) : Nat → List Byte
  | 0 => []
  | n + 1 => Memory.byte m k :: Memory.read m (k + 1) n

/-- Memory with the bytes written from key `k` upwards. -/
def Memory.write (m : List Host.Cell) (k : Nat) : List Byte → List Host.Cell
  | [] => m
  | b :: bs => Memory.write (Memory.setByte m k b) (k + 1) bs

/-- Memory with some cells written. -/
def Memory.writeCells : List Host.Cell → List Host.Cell → List Host.Cell
  | [], m => m
  | (k, b) :: cs, m => Memory.writeCells cs (Memory.setByte m k b)

/-! ## Byte order (R2) -/

/-- The number that bytes hold, the lowest address first. -/
def natOfBytes : List Byte → Nat
  | [] => 0
  | b :: bs => b.toNat + 256 * natOfBytes bs

/-- The `n` bytes that hold a number, the lowest address first. -/
def bytesOfNat (v : Nat) : Nat → List Byte
  | 0 => []
  | n + 1 => BitVec.ofNat 8 v :: bytesOfNat (v / 256) n

/-- The `w` bits that bytes hold. -/
def bitsOfBytes (w : Nat) (bs : List Byte) : BitVec w := BitVec.ofNat w (natOfBytes bs)

/-- Whether two runs of bytes share one. -/
def overlaps (a n b m : Nat) : Bool := decide (a < b + m) && decide (b < a + n)

/-! ## Home keys (log 3) -/

/-- The key of a scratchpad byte of a core. -/
def scratchKey (core : Nat) (off : Nat) : Nat := Config.scratchBase + core * Config.scratchBytes + off

/-- The key of a module physical address: module HBM has 2^40 bytes (R30; log 46). -/
def hbmKey (a : Nat) : Nat := Config.hbmBase + a % 2 ^ 40

/-- The bytes that are in memory from `k`, with one store laid over them. -/
def overlay (k : Nat) (bs : List Byte) (at_ : Nat) (data : List Byte) : List Byte :=
  bs.mapIdx fun i b => if at_ ≤ k + i then data.getD (k + i - at_) b else b

end Sys2Proof.Machine
end

