-- ==== Sys2Proof/Machine/Numbers.lean ====
section
/-! DEFINITION. Number formats and arithmetic (R83 to R94): the value of an encoding as an exact number, exact sums and
products, and the one rounding rule. -/

namespace Sys2Proof.Machine

/-! ## Formats (R83, R85) -/

/-- A floating-point format: exponent and mantissa bits, bias, whether it has infinities and NaN codes. -/
structure FFmt where
  ebits : Nat
  mbits : Nat
  bias : Nat
  inf : Bool
  nan : Bool
  deriving DecidableEq, Repr

def fmtF32 : FFmt := { ebits := 8, mbits := 23, bias := 127, inf := true, nan := true }
def fmtBf16 : FFmt := { ebits := 8, mbits := 7, bias := 127, inf := true, nan := true }
def fmtF16 : FFmt := { ebits := 5, mbits := 10, bias := 15, inf := true, nan := true }
def fmtE4m3 : FFmt := { ebits := 4, mbits := 3, bias := 7, inf := false, nan := true }
def fmtE5m2 : FFmt := { ebits := 5, mbits := 2, bias := 15, inf := true, nan := true }
def fmtE3m2 : FFmt := { ebits := 3, mbits := 2, bias := 3, inf := false, nan := false }
def fmtE2m3 : FFmt := { ebits := 2, mbits := 3, bias := 1, inf := false, nan := false }
def fmtE2m1 : FFmt := { ebits := 2, mbits := 1, bias := 1, inf := false, nan := false }

/-- The format of a lane float type. -/
def FFmt.ofFloat : FloatTy → FFmt
  | .f32 => fmtF32
  | .f16 => fmtF16
  | .bf16 => fmtBf16

/-- The all-ones exponent. -/
def FFmt.emax (f : FFmt) : Nat := 2 ^ f.ebits - 1

/-- The sign bit's weight. -/
def FFmt.signBit (f : FFmt) : Nat := 2 ^ (f.ebits + f.mbits)

/-- The encoding of +infinity. -/
def FFmt.infCode (f : FFmt) : Nat := f.emax * 2 ^ f.mbits

/-- The encoding of the largest finite value (R85). -/
def FFmt.maxCode (f : FFmt) : Nat :=
  if f.inf then f.infCode - 1 else if f.nan then f.infCode + 2 ^ f.mbits - 2 else f.infCode + 2 ^ f.mbits - 1

/-- The canonical NaN (R85, R86), or +0 in a format without NaN (R92). -/
def FFmt.nanCode (f : FFmt) : Nat :=
  if f.inf then f.infCode + 2 ^ (f.mbits - 1) else if f.nan then f.infCode + 2 ^ f.mbits - 1 else 0

/-! ## Values (R84) -/

/-- A value: a NaN, an infinity, or (-1)^neg × m × 2^q exactly, with the sign of a zero. -/
inductive Val where
  | nan
  | inf (neg : Bool)
  | num (neg : Bool) (m : Nat) (q : Int)
  deriving DecidableEq, Repr

/-- `value(b, fmt)` of R84. -/
def FFmt.value (f : FFmt) (b : Nat) : Val :=
  let s := decide (b / f.signBit % 2 = 1)
  let e := b / 2 ^ f.mbits % 2 ^ f.ebits
  let m := b % 2 ^ f.mbits
  if e = 0 then .num s m (1 - f.bias - f.mbits)
  else if e = f.emax ∧ f.inf then (if m = 0 then .inf s else .nan)
  else if e = f.emax ∧ f.nan ∧ m = 2 ^ f.mbits - 1 then .nan
  else .num s (2 ^ f.mbits + m) ((e : Int) - f.bias - f.mbits)

/-- An integer as a value. -/
def Val.ofInt (i : Int) : Val := .num (decide (i < 0)) i.natAbs 0

/-- The signed multiple of 2^q that a finite value is; 0 for the others. -/
def Val.scaled : Val → Int × Int
  | .num s m q => (if s then -(m : Int) else m, q)
  | _ => (0, 0)

/-- A number that is not zero. -/
def Val.nonzero : Val → Bool
  | .num _ m _ => decide (m ≠ 0)
  | _ => true

/-! ## Exact dyadic numbers -/

/-- The sum of two dyadic numbers N × 2^q. -/
def dyAdd (a b : Int × Int) : Int × Int :=
  if a.2 ≤ b.2 then (a.1 + b.1 * (2 : Int) ^ (b.2 - a.2).toNat, a.2)
  else (a.1 * (2 : Int) ^ (a.2 - b.2).toNat + b.1, b.2)

/-- The product of two dyadic numbers. -/
def dyMul (a b : Int × Int) : Int × Int := (a.1 * b.1, a.2 + b.2)

/-- A dyadic number as a value: an exact zero is +0. -/
def Val.ofDy (a : Int × Int) : Val := .num (decide (a.1 < 0)) a.1.natAbs a.2

/-! ## Exact arithmetic under IEEE 754 (R96, R97, R171) -/

/-- The negative of a value. -/
def Val.neg : Val → Val
  | .nan => .nan
  | .inf s => .inf (!s)
  | .num s m q => .num (!s) m q

/-- An exact sum: x + (-x) is +0, and (-0) + (-0) is -0. -/
def Val.add (a b : Val) : Val :=
  match a, b with
  | .nan, _ => .nan
  | _, .nan => .nan
  | .inf s, .inf t => if s = t then .inf s else .nan
  | .inf s, .num _ _ _ => .inf s
  | .num _ _ _, .inf t => .inf t
  | .num s m q, .num t n r =>
    if m = 0 ∧ n = 0 then .num (s && t) 0 0
    else Val.ofDy (dyAdd (Val.scaled (.num s m q)) (Val.scaled (.num t n r)))

/-- An exact product. -/
def Val.mul (a b : Val) : Val :=
  match a, b with
  | .nan, _ => .nan
  | _, .nan => .nan
  | .inf s, .inf t => .inf (s != t)
  | .inf s, .num t n _ => if n = 0 then .nan else .inf (s != t)
  | .num s m _, .inf t => if m = 0 then .nan else .inf (s != t)
  | .num s m q, .num t n r => .num (s != t) (m * n) (q + r)

/-- The order of two values that are not NaN, zeros being equal. -/
def Val.cmp (a b : Val) : Ordering :=
  match a, b with
  | .inf s, .inf t => if s = t then .eq else if s then .lt else .gt
  | .inf s, _ => if s then .lt else .gt
  | _, .inf t => if t then .gt else .lt
  | a, b => compare (dyAdd a.scaled (Val.neg b).scaled).1 0

/-- The sign bit of a value that is not NaN. -/
def Val.isNeg : Val → Bool
  | .nan => false
  | .inf s => s
  | .num s _ _ => s

/-- VMIN (R171): the canonical NaN when either is NaN; -0 is below +0. -/
def Val.min (a b : Val) : Val :=
  match a, b with
  | .nan, _ => .nan
  | _, .nan => .nan
  | a, b =>
    match a.cmp b with
    | .lt => a
    | .gt => b
    | .eq => if a.isNeg then a else b

/-- VMAX (R171). -/
def Val.max (a b : Val) : Val :=
  match a, b with
  | .nan, _ => .nan
  | _, .nan => .nan
  | a, b =>
    match a.cmp b with
    | .lt => b
    | .gt => a
    | .eq => if a.isNeg then b else a

/-- VABS (R171). -/
def Val.abs : Val → Val
  | .nan => .nan
  | .inf _ => .inf false
  | .num _ m q => .num false m q

/-- VCMP on floats (R173): with a NaN only .ne holds. -/
def condVal (c : Cond) (a b : Val) : Bool :=
  match a, b with
  | .nan, _ => decide (c = .ne)
  | _, .nan => decide (c = .ne)
  | a, b =>
    match c with
    | .eq => decide (a.cmp b = .eq)
    | .ne => decide (a.cmp b ≠ .eq)
    | .lt => decide (a.cmp b = .lt)
    | .le => decide (a.cmp b ≠ .gt)
    | .gt => decide (a.cmp b = .gt)
    | .ge => decide (a.cmp b ≠ .lt)

/-! ## Rounding (R91, R92, R93) -/

/-- `m / 2^d` to the nearest integer, a tie to the even one. -/
def rneShift (m d : Nat) : Nat :=
  let k := m / 2 ^ d
  let r := 2 * (m % 2 ^ d)
  if 2 ^ d < r ∨ (r = 2 ^ d ∧ k % 2 = 1) then k + 1 else k

/-- The magnitude code of m × 2^q rounded to the nearest value of the format, with R92 above the largest. -/
def FFmt.roundMag (f : FFmt) (m : Nat) (q : Int) : Nat :=
  if m = 0 then 0
  else
    let e : Int := q + Nat.log2 m
    let emin : Int := 1 - (f.bias : Int)
    let top : Int := if e < emin then emin else e
    let u : Int := top - f.mbits
    let k := if u ≤ q then m * 2 ^ (q - u).toNat else rneShift m (u - q).toNat
    let mag := (top - emin).toNat * 2 ^ f.mbits + k
    if f.maxCode < mag then (if f.inf then f.infCode else f.maxCode) else mag

/-- `round(x, fmt)` of R91 and R92, as an encoding. -/
def FFmt.round (f : FFmt) (x : Val) : Nat :=
  match x with
  | .nan => f.nanCode
  | .inf s => (if s then f.signBit else 0) + (if f.inf then f.infCode else f.maxCode)
  | .num s m q => (if s then f.signBit else 0) + f.roundMag m q

/-- The nearest integer to a value, a tie to the even one; 0 for the values that are no number. -/
def Val.nearest : Val → Int
  | .num s m q =>
    let k := if 0 ≤ q then m * 2 ^ q.toNat else rneShift m (-q).toNat
    if s then -(k : Int) else k
  | _ => 0

/-- `round(x, t)` for an integer type of `w` bits (R93): the nearest integer, saturated; a NaN gives 0. -/
def roundInt (signed : Bool) (w : Nat) (x : Val) : Int :=
  let lo : Int := if signed then -(2 : Int) ^ (w - 1) else 0
  let hi : Int := if signed then (2 : Int) ^ (w - 1) - 1 else (2 : Int) ^ w - 1
  match x with
  | .nan => 0
  | .inf s => if s then lo else hi
  | v => satInt v.nearest lo hi

/-! ## Reciprocal and reciprocal square root (R179) -/

/-- The greatest r below 2^b with r² ≤ n, from the top bit down. -/
def isqrtBits (n : Nat) : Nat → Nat → Nat
  | 0, r => r
  | b + 1, r => isqrtBits n b (if (r + 2 ^ b) * (r + 2 ^ b) ≤ n then r + 2 ^ b else r)

/-- The integer square root. -/
def isqrt (n : Nat) : Nat := isqrtBits n (Nat.log2 n / 2 + 1) 0

/-- 1/a to 64 bits, with one bit below that says the rest is not zero: enough for one correct rounding. -/
def Val.rcp : Val → Val
  | .nan => .nan
  | .inf s => .num s 0 0
  | .num s m q =>
    if m = 0 then .inf s
    else
      let k := Nat.log2 m + 64
      .num s (2 * (2 ^ k / m) + (if 2 ^ k % m = 0 then 0 else 1)) (-k - q - 1)

/-- 1/√a to 64 bits, with one bit below that says the rest is not zero. -/
def Val.rsq : Val → Val
  | .nan => .nan
  | .inf s => if s then .nan else .num false 0 0
  | .num s m q =>
    if m = 0 then .inf s
    else if s then .nan
    else
      let m' := if q % 2 = 0 then m else 2 * m
      let h := (q - q % 2) / 2
      let k := Nat.log2 m' / 2 + 65
      let r := isqrt (2 ^ (2 * k) / m')
      .num false (2 * r + (if r * r * m' = 2 ^ (2 * k) then 0 else 1)) (-k - h - 1)

/-! ## Elements by type code -/

/-- The float format of a type, if it is one. -/
def fmtOf : Ty → Option FFmt
  | .lane (.float t) => some (FFmt.ofFloat t)
  | .lane (.int _) => none
  | .e4m3 => some fmtE4m3
  | .e5m2 => some fmtE5m2
  | .e3m2 => some fmtE3m2
  | .e2m3 => some fmtE2m3
  | .e2m1 => some fmtE2m1
  | .cb4 => none
  | .s4 => none

/-- The value of an element of a type that carries its own value (R84, R87): CB4 does not (R88). -/
def elemValue (t : Ty) (b : Nat) : Val :=
  match t with
  | .lane (.int t) => Val.ofInt (extInt t b)
  | .s4 => Val.ofInt (sextNat b 4)
  | .cb4 => .nan
  | t => match fmtOf t with | some f => f.value b | none => .nan

/-- `round(x, t)` to the bits of one element (R91 to R93). -/
def elemRound (t : Ty) (x : Val) : Nat :=
  match t with
  | .lane (.int t) => (roundInt t.signed t.width x % (2 : Int) ^ t.width).toNat
  | .s4 => (roundInt true 4 x % 16).toNat
  | .cb4 => 0
  | t => match fmtOf t with | some f => f.round x | none => 0

end Sys2Proof.Machine
end

