-- ==== Sys2Proof/Machine/Ops.lean ====
section
/-! DEFINITION. The named operations on the state that every instruction uses: registers and their outstanding writes
(R47 to R50), hazards (R49), time, the error log and the trace ring (R419, R422, R433), taking a trap and returning from
one (R140, R145, R148), completing an instruction (R58, R127), and waiting. -/

namespace Sys2Proof.Machine

/-- A function applied to every place of a vector. -/
def mapVec {α β : Type} {n : Nat} (f : α → β) (v : Vector α n) : Vector β n := Vector.ofFn fun i => f (v.get i)

/-! ## The context that issues -/

/-- The context that issues, or on whose behalf an event acts. -/
def State.ctx (s : State) : Ctx := s.ctxs.get s.cur

/-- The state with that context replaced. -/
def State.setCtx (s : State) (c : Ctx) : State := { s with ctxs := s.ctxs.set s.cur.val c s.cur.isLt }

/-- The state with that context changed by `f`. -/
def State.modCtx (s : State) (f : Ctx → Ctx) : State := s.setCtx (f s.ctx)

/-- The state acting for context `n`. -/
def State.focus (s : State) (n : Fin 11) : State := { s with cur := n }

/-- The context numbered `n`. -/
def State.ctxAt (s : State) (n : Fin 11) : Ctx := s.ctxs.get n

/-- The state with the context numbered `n` changed by `f`. -/
def State.modCtxAt (s : State) (n : Fin 11) (f : Ctx → Ctx) : State :=
  { s with ctxs := s.ctxs.set n.val (f (s.ctxs.get n)) n.isLt }

/-- The state with the core changed by `f`. -/
def State.modCore (s : State) (f : Core → Core) : State := { s with core := f s.core }

/-- The address of the instruction that issues. -/
def State.pc (s : State) : Word := s.ctx.pc

/-! ## Registers (R24) -/

/-- An x register; x0 reads 0. -/
def Ctx.readX (c : Ctx) (r : BitVec 5) : Word := if r = 0 then 0 else c.x.get r.toFin

/-- A v register. -/
def Ctx.readV (c : Ctx) (r : BitVec 5) : Vec := c.v.get r.toFin

/-- A p register. -/
def Ctx.readP (c : Ctx) (r : BitVec 3) : Word := c.p.get r.toFin

/-- A register with a value put into it; a write to x0 is discarded. -/
def Ctx.put (c : Ctx) (r : Reg) (v : Vec) : Ctx :=
  match r with
  | .x n => if n = 0 then c else { c with x := c.x.set n.toNat (v.setWidth 64) n.isLt }
  | .v n => { c with v := c.v.set n.toNat v n.isLt }
  | .p n => { c with p := c.p.set n.toNat (v.setWidth 64) n.isLt }

/-- The context with the registers that its instruction reads: an instruction that waits read them when it issued (R17, R49). -/
def Ctx.operands (c : Ctx) : Ctx := match c.wait with | some w => { c with x := w.x, v := w.v, p := w.p } | none => c

/-- An x register as the issuing instruction reads it. -/
def State.readX (s : State) (r : BitVec 5) : Word := s.ctx.operands.readX r

/-- A v register as the issuing instruction reads it. -/
def State.readV (s : State) (r : BitVec 5) : Vec := s.ctx.operands.readV r

/-- A p register as the issuing instruction reads it. -/
def State.readP (s : State) (r : BitVec 3) : Word := s.ctx.operands.readP r

/-! ## Outstanding writes (R47 to R50) -/

/-- The older outstanding writes to a register, overtaken by the write numbered `seq` (R50). -/
def overtake (r : Reg) (seq : Nat) (ws : List PendingWrite) : List PendingWrite :=
  ws.map fun u => if u.reg = r ∧ u.seq < seq then { u with dead := true } else u

/-- An outstanding write arrives: one marked dead is discarded (R50, R197). -/
def Ctx.performWrite (c : Ctx) (w : PendingWrite) : Ctx :=
  let rest := c.writes.filter fun u => decide (u.seq ≠ w.seq)
  if w.dead then { c with writes := rest } else { c.put w.reg w.val with writes := overtake w.reg w.seq rest }

/-- The writes of a list that satisfy `p` arrive, in issue order. -/
def Ctx.performAll (p : PendingWrite → Bool) : List PendingWrite → Ctx → Ctx
  | [], c => c
  | w :: ws, c =>
    match c.writes.find? fun u => decide (u.seq = w.seq) with
    | some u => Ctx.performAll p ws (if p u then c.performWrite u else c)
    | none => Ctx.performAll p ws c

/-- The results of fixed latency that are read in this cycle have arrived (R48). -/
def Ctx.settle (c : Ctx) (cycle : Nat) : Ctx :=
  Ctx.performAll (fun w => match w.due with | some d => decide (d ≤ cycle) | none => false) c.writes c

/-- The taint of some registers: the LDCs outstanding that it holds (R192). -/
def Ctx.taintOf (c : Ctx) (rs : List TReg) : List Nat :=
  ((c.taints.filter fun p => decide (p.1 ∈ rs)).map (·.2)).dedup

/-- A register takes a taint in place of its earlier one; x0 is never tainted (R192). -/
def Ctx.setTaint (c : Ctx) (r : TReg) (ts : List Nat) : Ctx :=
  if r = .reg (.x 0) then c
  else { c with taints := (c.taints.filter fun p => decide (p.1 ≠ r)) ++ ts.map fun n => (r, n) }

/-- A result of fixed latency `lat` (R48), with the taint of what the instruction reads (R192): performed at once when
the next cycle reads it. -/
def Ctx.write (c : Ctx) (r : Reg) (v : Vec) (lat cycle seq : Nat) : Ctx :=
  if r = .x 0 then c
  else
    let t := c.setTaint (.reg r) c.inTaint
    if lat ≤ 1 then { t.put r v with writes := overtake r seq t.writes }
    else { t with writes := t.writes ++ [{ reg := r, val := v, need := 0, seq, due := some (cycle + lat), dead := false, late := false, ready := 0 }] }

/-- The state with the issuing context's result of fixed latency written. -/
def State.write (s : State) (r : Reg) (v : Vec) (lat : Nat) : State :=
  { s.modCtx (fun c => c.write r v lat s.cycle s.seq) with seq := s.seq + 1 }

/-- A result of fixed latency to an x register. -/
def State.writeX (s : State) (r : BitVec 5) (v : Word) (lat : Nat) : State := s.write (.x r) (v.setWidth 512) lat

/-- A result of fixed latency to a v register. -/
def State.writeV (s : State) (r : BitVec 5) (v : Vec) (lat : Nat) : State := s.write (.v r) v lat

/-- A result of fixed latency to a p register. -/
def State.writeP (s : State) (r : BitVec 3) (v : Word) (lat : Nat) : State := s.write (.p r) (v.setWidth 512) lat

/-- An event joins the agenda. -/
def State.post (s : State) (e : Instr) : State := { s with agenda := s.agenda ++ [e] }

/-- A register write of variable latency that waits for `need` accesses or unit results (R47); its number is the state's
`seq`. A formed one is performed by its event; a write to x0 is discarded (R24). -/
def State.writeLater (s : State) (r : Reg) (v : Vec) (need : Nat) : State :=
  if r = .x 0 then { s with seq := s.seq + 1 }
  else
  let t := s.modCtx fun c =>
    { c.setTaint (.reg r) c.inTaint with
      writes := c.writes ++ [{ reg := r, val := v, need, seq := s.seq, due := none, dead := false, late := false, ready := 0 }] }
  { t with seq := s.seq + 1,
           agenda := if need = 0 then t.agenda ++ [.registerWritePerformed s.cur s.seq] else t.agenda }

/-- A result of variable latency (R47) that arrives `lat` cycles after its issue (R230, R399). -/
def State.writeLate (s : State) (r : Reg) (v : Vec) (lat : Nat) : State :=
  if r = .x 0 then { s with seq := s.seq + 1 }
  else
    { s.modCtx fun c =>
        { c.setTaint (.reg r) c.inTaint with
          writes := c.writes ++
            [{ reg := r, val := v, need := 0, seq := s.seq, due := some (s.cycle + lat), dead := false, late := true, ready := 0 }] } with
      seq := s.seq + 1 }

/-- A result of variable latency that arrives no earlier than `lat` cycles after its issue (R280). -/
def State.writeFrom (s : State) (r : Reg) (v : Vec) (lat : Nat) : State :=
  if r = .x 0 then { s with seq := s.seq + 1 }
  else
    { s.modCtx fun c =>
        { c.setTaint (.reg r) c.inTaint with
          writes := c.writes ++
            [{ reg := r, val := v, need := 0, seq := s.seq, due := none, dead := false, late := false, ready := s.cycle + lat }] } with
      seq := s.seq + 1 }

/-- A part of the value of the outstanding write numbered `seq` has come in: `f` puts it in place. -/
def PendingWrite.take (w : PendingWrite) (seq : Nat) (f : Vec → Vec) (dead : Bool) : PendingWrite :=
  if w.seq = seq then { w with val := f w.val, need := w.need - 1, dead := w.dead || dead } else w

/-- The write numbered `seq` of context `n` takes a part of its value; with nothing more to wait for it can be
performed. -/
def State.fill (s : State) (n : Fin 11) (seq : Nat) (f : Vec → Vec) (dead : Bool) : State :=
  let t := s.modCtxAt n fun c => { c with writes := c.writes.map fun w => w.take seq f dead }
  if (t.ctxs.get n).writes.any fun w => decide (w.seq = seq) && decide (w.need = 0) then
    t.post (.registerWritePerformed n seq)
  else t

/-- A unit has formed the whole value of a write. -/
def State.formWrite (s : State) (n : Fin 11) (seq : Nat) (v : Vec) : State := s.fill n seq (fun _ => v) false

/-! ## Time (R5, R417) and event counters (R420) -/

/-- A counter that counts one event; the flag says that it wrapped. -/
def Counter.bump (k : Counter) (ev : BitVec 8) : Counter × Bool :=
  if k.en && decide (k.evsel = ev) then
    ({ k with val := k.val + 1, ovf := k.ovf || decide (k.val = BitVec.allOnes 48) }, decide (k.val = BitVec.allOnes 48))
  else (k, false)

/-- One event of the core is counted; a counter that wraps raises its overflow event (R420). -/
def State.count (s : State) (ev : BitVec 8) : State :=
  if s.core.counters.toList.any fun k => k.en && decide (k.evsel = ev) then
    { s with
      core := { s.core with counters := mapVec (fun k => (k.bump ev).1) s.core.counters },
      agenda := s.agenda ++ ((List.finRange 16).filter fun n => ((s.core.counters.get n).bump ev).2).map
        fun n => Instr.counterOverflow (BitVec.ofNat 4 n.val) }
  else s

/-- Device time after one core cycle of 10/36 ns: a pending offset is removed at 200 ppm at most, by one ns in 5,000 (R4, R417). -/
def Device.tick (d : Device) : Device :=
  if d.bringUp < 4 then d
  else if d.devFrac + 10 < 36 then { d with devFrac := d.devFrac + 10 }
  else
    let t := d.devtime
    let edge := decide (t.toNat % 5000 = 4999)
    if edge && decide (0 < d.slew) then { d with devFrac := d.devFrac + 10 - 36, devtime := t + 2, slew := d.slew - 1 }
    else if edge && decide (d.slew < 0) && !d.slewHeld then { d with devFrac := d.devFrac + 10 - 36, slew := d.slew + 1, slewHeld := true }
    else { d with devFrac := d.devFrac + 10 - 36, devtime := t + 1, slewHeld := false }

/-- A counter has reached its threshold (R274). -/
def BellCounter.ok (k : BellCounter) : Bool := decide (k.thresh.toNat ≤ k.count)

/-- A term's condition holds (R274). -/
def BellTerm.holds (t : BellTerm) (ks : Vector BellCounter 16) : Bool :=
  t.armed && ((List.finRange 16).all fun n => !t.cfg.getLsbD n.val || (ks.get n).ok)
    && (decide (natBits t.cfg.toNat 31 16 = 0) || (List.finRange 16).any fun n => t.cfg.getLsbD (16 + n.val) && (ks.get n).ok)

/-- A network cycle of the bellboard without a pulse: a reserved source, which no counter has (R272, R273; log 36). -/
def noPulse : BitVec 8 := 255

/-- The bellboard has something to do in the network cycle that begins with the next core cycle: pulses, instructions of other cores, or a clear
or a new source of the network cycle before; a term that holds; or an action that is due (R274, R275, R280). -/
def State.boardMoves (s : State) : Bool :=
  (s.clu.counters.toList.any fun k => decide (0 < k.pulses) || k.cleared || k.was.isSome)
    || (s.clu.terms.toList.any fun t => t.holds s.clu.counters) || !s.clu.boardOps.isEmpty
    || s.clu.boardActs.any fun x => decide (x.1 ≤ s.cycle + 1)

/-- Context `n` waits in an FTAKE that is on no deferred list and has had no value delivered: it presents its take again in
each network cycle (R289). -/
def State.stalledTake (s : State) (n : Fin 11) : Bool :=
  match (s.ctxs.get n).wait with
  | some w =>
    decide (w.kind = .ftake) && w.delivered.isNone
      && !(s.takers.any fun e => decide (e.core = s.core.num) && decide (e.ctx = n))
  | none => false

/-- The other positions of a core's loom (R348). -/
def State.loomOthers (s : State) : List Nat :=
  let n := 2 ^ (s.core.loom.size.toNat + 2)
  let p := s.core.num.toNat % 32
  ((List.range n).map (p / n * n + ·)).filter (· ≠ p)

/-- Position `p` is among the peers of a list by this cycle. -/
def State.peerBy (s : State) (l : List Peer) (p : Nat) : Bool := l.any fun x => decide (x.pos = p) && decide (x.since ≤ s.cycle)

/-- A member of the loom has executed END while another had armed: the loom is broken (R357; log 34). -/
def State.loomBroken (s : State) : Bool :=
  let l := s.core.loom
  l.brkn || (decide (l.size ≠ 0) && !l.running && s.clu.ended.any fun e =>
    decide (e.pos ∈ s.loomOthers) && decide (e.since ≤ s.cycle)
      && ((l.armed && decide (l.armedAt ≤ e.since))
        || s.clu.loomArmed.any fun a => decide (a.pos ∈ s.loomOthers) && decide (a.pos ≠ e.pos) && decide (a.since ≤ e.since)))

/-- Every core of the loom has armed (R354). -/
def State.loomArmed (s : State) : Bool :=
  s.core.loom.armed && !s.core.loom.running && !s.loomBroken && s.loomOthers.all fun p => s.peerBy s.clu.loomArmed p

/-- Core cycles of a throttling window of 1 ms (R4, R426). -/
def windowCycles : Nat := 3600000

/-- The events that a core cycle brings due: a pause whose last cycle this is expires at its end (R151), the bellboard tests its
terms in each network cycle (R274), a loom whose cores have all armed starts its weave (R354), an access answered with RETRY is
sent again (R154), a save or a teardown goes on (R153, R414), a throttling window ends (R426), blocked contexts probe every
4,096 cycles, and probes make a hop (R278). -/
def State.due (s : State) : List Instr :=
  (((List.finRange 11).filter fun n => (s.ctxs.get n).paused && decide ((s.ctxs.get n).nextIssue ≤ s.cycle + 2)).map
      Instr.pauseExpiry)
    ++ (if s.cycle % 2 = 1 ∧ s.boardMoves then [.pulse noPulse] else [])
    ++ (((List.finRange 11).filter fun n =>
        match (s.ctxs.get n).wait with
        | some w => decide (w.kind ≠ .other) && w.delivered.isNone && decide ((s.cycle + 1 - w.since) % 4096 = 0)
        | none => false).map Instr.probe)
    ++ ((List.finRange 11).flatMap fun n =>
        ((s.ctxs.get n).writes.filter fun w => decide (w.ready ≠ 0) && decide (w.ready = s.cycle + 2)).map fun w =>
          Instr.registerWritePerformed n w.seq)
    ++ (((List.finRange 11).filter fun n => decide (s.cycle % 2 = 0) && s.stalledTake n).map Instr.takePresentedAgain)
    ++ (if s.cycle % 2 = 0 ∧ s.loomArmed then [.weaveStart] else [])
    ++ (s.accs.filter fun a => a.retry = some s.cycle).map (fun a => .retryResend a.seq)
    ++ ((List.finRange 5).flatMap fun q =>
        ((s.core.chans.get q).cmds.filter fun c => c.retry = some s.cycle).flatMap fun c => [.accessPerformed c.seq, .commandCompletion q])
    ++ ((s.core.unit.map fun u => Instr.remoteAccess u.core u.jobid u.op).filter (· ∉ s.agenda))
    ++ ((List.finRange 11).flatMap fun n =>
        if (s.ctxs.get n).tlbinvs.any fun i => decide (i.ready = s.cycle + 1) then [Instr.tlbinvCompletion n] else [])
    ++ (if s.job.evicted then [.coreSave] else [])
    ++ (if s.job.stopping then [.teardownCompletes (BitVec.ofNat 8 (s.job.jobid.toNat / 2 ^ 24))] else [])
    ++ (if (s.cycle + 1) % windowCycles = 0 then [.throttleWindow] else [])
    ++ s.clu.probes.map fun p => .probeReceived p.1 p.2.1 p.2.2

/-- A core cycle begins. -/
def State.tick (s : State) : State :=
  { s with cycle := s.cycle + 1, dev := s.dev.tick, agenda := s.agenda ++ s.due, clu := { s.clu with probes := [] } }

/-! ## The job's phase (R22, R23, R268) -/

/-- SSTEP.PH = 1: an exchange phase. -/
def State.exchange (s : State) : Bool := s.bar.sstep.getLsbD 63

/-- A superstep job in a compute phase (R23). -/
def State.computePhase (s : State) : Bool := s.job.superstep && !s.exchange

/-! ## The error log (R422, R433) -/

/-- The entries that the error-log ring holds. -/
def Device.elCapacity (d : Device) : Nat := 2 ^ (d.elsize.toNat + 7)

/-- SOURCE of the issuing context (R433). -/
def State.source (s : State) : Nat := s.core.num.toNat + s.cur.val * 2 ^ 12

/-- SOURCE of an engine or unit of this core (R433). -/
def State.unitSource (s : State) : Nat := s.core.num.toNat + 15 * 2 ^ 12

/-- SOURCE when no core is concerned (R433). -/
def noSource : Nat := 0xFFFF

/-- The SSTEP field of an error-log entry (R433). -/
def sstepField (w : Word) : Nat := natBits w.toNat 63 63 * 2 ^ 31 + natBits w.toNat 30 0

/-- The bytes of an error-log entry (R433). -/
def logBytes (cls cause source : Nat) (jobid : BitVec 32) (detail : BitVec 32) (sstep : Nat) (time addr : Word) :
    List Byte :=
  bytesOfNat cls 1 ++ bytesOfNat cause 1 ++ bytesOfNat source 2 ++ bytesOfNat jobid.toNat 4
    ++ bytesOfNat detail.toNat 4 ++ bytesOfNat sstep 4 ++ bytesOfNat time.toNat 8 ++ bytesOfNat addr.toNat 8

/-- An entry about a job, or about none (JOBID 0), is written, or counted in LOST when no ring is set or the ring is full
(R422). -/
def State.logFor (s : State) (jobid : BitVec 32) (sstep : Nat) (cls cause source : Nat) (detail : BitVec 32) (addr : Word) : State :=
  let d := s.dev
  if d.elbase = 0 ∨ d.elCapacity ≤ (d.elprod - d.elcons).toNat then
    { s with dev := { d with lost := if d.lost = BitVec.allOnes 32 then d.lost else d.lost + 1 } }
  else
    { s with
      dev := { d with elprod := d.elprod + 1 },
      mem := Memory.write s.mem (hbmKey (d.elbase.toNat + 32 * (d.elprod.toNat % d.elCapacity)))
        (logBytes cls cause source jobid detail sstep d.devtime addr) }

/-- An entry that names the core's job, or none; one that names it counts in its record (R412, R422). -/
def State.logEntry (s : State) (withJob : Bool) (cls cause source : Nat) (detail : BitVec 32) (addr : Word) : State :=
  if withJob then
    let t := s.logFor s.job.jobid (sstepField s.bar.sstep) cls cause source detail addr
    { t with job := { t.job with logged := t.job.logged + 1 } }
  else s.logFor 0 0 cls cause source detail addr

/-- SSTEP of a superstep job that runs on other cores, at some cycle; a free job's is 0 (log 40). -/
def State.otherStep (s : State) (j : Job) : Word := if j.superstep then Config.otherSstep j.jobid s.cycle else 0

/-- The job of a JOBID changed by `f`: the one that holds the core, an evicted one, or one of other cores. -/
def State.modJob (s : State) (jobid : BitVec 32) (f : Job → Job) : State :=
  { s with
    job := if s.job.running ∧ s.job.jobid = jobid then f s.job else s.job,
    evicted := s.evicted.map fun x : Saved => if x.job.jobid = jobid then { x with job := f x.job } else x,
    dev := { s.dev with jobs := s.dev.jobs.map fun x : OtherJob => if x.job.jobid = jobid then { x with job := f x.job } else x } }

/-- SSTEP of the job of a JOBID; 0 when it is none of the device's. -/
def State.sstepAbout (s : State) (jobid : BitVec 32) : Word :=
  if s.job.running ∧ s.job.jobid = jobid then s.bar.sstep
  else
    match s.evicted.find? fun x => decide (x.job.jobid = jobid), s.dev.jobs.find? fun x => decide (x.job.jobid = jobid) with
    | some x, _ => x.bar.sstep
    | none, some x => s.otherStep x.job
    | none, none => 0

/-- An entry that names a job, wherever that is held, counts in its record (R412, R422). -/
def State.logAbout (s : State) (jobid : BitVec 32) (cls cause source : Nat) (detail : BitVec 32) (addr : Word) : State :=
  (s.logFor jobid (sstepField (s.sstepAbout jobid)) cls cause source detail addr).modJob jobid fun j => { j with logged := j.logged + 1 }

/-- A violation of the issuing context (R11). -/
def State.violation (s : State) (cause : BitVec 8) (detail : BitVec 32) (addr : Word) : State :=
  s.logEntry true 1 cause.toNat s.source detail addr

/-- A violation of an engine or unit of this core (R11). -/
def State.unitViolation (s : State) (cause : BitVec 8) (detail : BitVec 32) (addr : Word) : State :=
  s.logEntry true 1 cause.toNat s.unitSource detail addr

/-! ## The trace ring (R419, R423) -/

/-- The job is claimed by the debug engine (R418). -/
def State.claimed (s : State) : Bool := s.dev.dbgClaimed && decide (s.dev.dbgJob = s.job.jobid) && s.job.running

/-- The records that the trace ring holds. -/
def Device.trCapacity (d : Device) : Nat := 2 ^ (d.trsize.toNat + 7)

/-- A trace record is written, or dropped and counted when the ring is full; with TRBASE = 0 no ring is named and none
is written (log 30). -/
def State.trace (s : State) (kind ctx : Nat) (payload : Word) : State :=
  let d := s.dev
  if d.trbase = 0 then s
  else if d.trCapacity ≤ (d.trprod - d.trcons).toNat then { s with dev := { d with trdrop := d.trdrop + 1 } }
  else
    { s with
      dev := { d with trprod := d.trprod + 1 },
      mem := Memory.write s.mem (hbmKey (d.trbase.toNat + 32 * (d.trprod.toNat % d.trCapacity)))
        (bytesOfNat kind 1 ++ bytesOfNat ctx 1 ++ bytesOfNat s.core.num.toNat 2 ++ bytesOfNat s.job.jobid.toNat 4
          ++ bytesOfNat s.bar.sstep.toNat 8 ++ bytesOfNat d.devtime.toNat 8 ++ bytesOfNat payload.toNat 8) }

/-- A stop drops what remains of a pause (R151). -/
def Ctx.dropPause (cycle : Nat) (c : Ctx) : Ctx := if c.paused then { c with paused := false, nextIssue := cycle + 1 } else c

/-- The contexts of the claimed job issue no more (R418). -/
def State.halt (s : State) : State :=
  { s with ctxs := mapVec (Ctx.dropPause s.cycle) s.ctxs, dev := { s.dev with dbgStopped := true } }

/-- The claimed job stops: each live context's program counter is recorded (R418, R419). -/
def State.stopJob (s : State) : State :=
  let t := ((List.finRange 11).filter fun n => (s.ctxs.get n).live).foldl (fun u n => u.trace 2 n.val (s.ctxs.get n).pc) s
  { t.halt with dev := { t.halt.dev with dbgStopReq := false } }

/-! ## What the outside brings -/

/-- An event takes what the outside brings with it; with nothing there it does not happen. -/
def State.withReq (s : State) (k : HostReq → State → State) : State :=
  match s.inbox with
  | [] => s
  | r :: rs => k r { s with inbox := rs }

/-- What a read of the host or of another core brings back. -/
def State.answer (s : State) (bs : List Byte) : State := { s with dev := { s.dev with reply := bs } }

/-! ## Scopes, and what has been read early (R303, R306 to R310) -/

/-- SOURCE of a context of this core (R433). -/
def State.sourceOf (s : State) (n : Fin 11) : Nat := s.core.num.toNat + n.val * 2 ^ 12

/-- The key lies within the homes that a scope covers (R301, R303). -/
def State.within (s : State) (c : Scope) (key : Nat) : Bool :=
  let own := scratchKey s.core.num.toNat 0
  let clu := scratchKey (s.core.num.toNat / 32 * 32) 0
  match c with
  | .core => decide (own ≤ key) && decide (key < own + Config.scratchBytes)
  | .clu => decide (clu ≤ key) && decide (key < clu + 32 * Config.scratchBytes)
  | .dev => decide (key < Config.peerBase)
  | .sys => true

/-- The number of an engine command as an agent (R301); contexts and units are numbered by their SOURCE. -/
def cmdAgent (seq : Nat) : Nat := 2 ^ 16 + seq

/-- What has been read early changed by `f`. -/
def State.modEarly (s : State) (f : List Early → List Early) : State := { s with early := f s.early }

/-- An entry that a write which happens before its context's later reads has changed is given up (R309). -/
def State.freshEarly (s : State) (l : List Early) : List Early :=
  l.filter fun e => !e.newer.any fun k => decide (s.sourceOf e.ctx ∈ k)

/-- Bytes are written: an entry that holds some of them notes the write, with its agent. -/
def Early.overwrite (e : Early) (agent key n : Nat) : Early :=
  if overlaps e.key e.bytes.length key n then { e with newer := e.newer ++ [[agent]] } else e

/-- The writes within a scope that agents which `p` picks know come before what the agent numbered `n` does from now on
(R308, R309). -/
def State.learn (s : State) (n : Nat) (p : List Nat → Bool) (c : Scope) : State :=
  s.modEarly fun l => s.freshEarly (l.map fun e =>
    if s.within c e.key then { e with newer := e.newer.map fun k => if p k then n :: k else k } else e)

/-- The issuing context acquires what has been performed within a scope (R306): no byte that it read before that can be the value of a
later load. -/
def State.acquire (s : State) (c : Scope) : State := s.learn s.source (fun _ => true) c

/-- The issuing context acquires what the agent or the release of that number knows, and nothing else (R240, R307). -/
def State.acquireFrom (s : State) (n : Nat) (c : Scope) : State := s.learn s.source (fun k => decide (n ∈ k)) c

/-- The bytes from `lo` to `hi` lie behind a watermark from here on: no context of the core reads any more what it has read of them early
(R249). -/
def State.acquireAll (s : State) (lo hi : Nat) : State :=
  s.modEarly fun l => l.filter fun e => !overlaps e.key e.bytes.length lo (hi + 1 - lo)

/-- Bytes that context `n` has read early are given up where one of its own accesses touches them (R304). -/
def State.dropEarly (s : State) (n : Fin 11) (key len : Nat) : State :=
  s.modEarly fun l => l.filter fun e => !(decide (e.ctx = n) && overlaps e.key e.bytes.length key len)

/-- What a context has read early is given up as the context starts or stops. -/
def State.forgetEarly (s : State) (n : Fin 11) : State := s.modEarly fun l => l.filter fun e => decide (e.ctx ≠ n)

/-! ## Writing memory -/

/-- The 64-byte scratchpad lines of this core that a write touches, by home key over 64. -/
def State.ownLines (s : State) (key n : Nat) : List Nat :=
  let base := scratchKey s.core.num.toNat 0
  if base ≤ key ∧ key < base + Config.scratchBytes ∧ n ≠ 0 then
    (List.range ((key + n - 1) / 64 + 1 - key / 64)).map (key / 64 + ·)
  else []

/-- The daybook entries that a snapshot fills: one for a line, four for a row (R162). -/
def Snapshot.entries (n : Snapshot) : Nat := n.lines.length + 4 * n.rows.length

/-- A snapshot replaced by one that holds more: an overflow of the claim makes the superstep unreplayable, and is logged once
(R162, R433). -/
def State.daybook (s : State) (old new : Snapshot) : State :=
  let t := s.modCore fun c => { c with snapshot := some new }
  if old.entries ≤ s.job.dayEntries ∧ s.job.dayEntries < new.entries then
    let u := t.logEntry true 10 0 s.unitSource 0 0
    { u with job := { u.job with noReplay := true } }
  else t

/-- Before the first write to a scratchpad line in a superstep, the daybook records it (R162). -/
def State.daybookLines (s : State) (ls : List Nat) : State :=
  match s.core.snapshot with
  | some sn =>
    let new := (ls.filter fun l => !(sn.lines.any fun x => x.1 = l)).map fun l => (l, Memory.read s.mem (64 * l) 64)
    s.daybook sn { sn with lines := sn.lines ++ new }
  | none => s

/-- The 64 words of a row of the partition (R340). -/
def rowOf (m : List (Nat × BitVec 32)) (row : Nat) : List (BitVec 32) :=
  (List.range 64).map fun c => Sparse.get 0 m (row * 64 + c)

/-- The words of a row of the partition, from column `c`. -/
def rowWords (row : Nat) : List (BitVec 32) → Nat → List (Nat × BitVec 32) → List (Nat × BitVec 32)
  | [], _, m => m
  | w :: ws, c, m => rowWords row ws (c + 1) (Sparse.set 0 m (row * 64 + c) w)

/-- A row of the partition is written; before the first write in a superstep the daybook records it (R162). -/
def State.writeRow (s : State) (row : Nat) (ws : List (BitVec 32)) : State :=
  let t := match s.core.snapshot with
    | some sn =>
      if sn.rows.any fun x => x.1 = row then s
      else s.daybook sn { sn with rows := sn.rows ++ [(row, rowOf s.core.matrix.acc row)] }
    | none => s
  t.modCore fun c => { c with matrix := { c.matrix with acc := rowWords row ws 0 c.matrix.acc } }

/-- The dispatched jobs of the device that have not ended: the one that holds the core, the evicted ones and those of other cores. -/
def State.allJobs (s : State) : List Job := (if s.job.running then [s.job] else []) ++ s.evicted.map (·.job) ++ s.dev.jobs.map (·.job)

/-- The address that a write to a home names: that of the host's or of a peer's memory without its base. -/
def plainAddress (key : Nat) : Nat :=
  if Config.hostBase ≤ key then key - Config.hostBase else if Config.peerBase ≤ key then key - Config.peerBase else key

/-- Until its job completes, a write to a hashed range is performed, but sets TAMPER and is logged with its address (R415). `source` is its SOURCE. -/
def State.tamperCheck (s : State) (source : Nat) (key n : Nat) : State :=
  (s.allJobs.filter fun j => j.hashed.any fun r => overlaps key n r.1 r.2).foldl (fun t j =>
    (t.logAbout j.jobid 8 0 source 0 (BitVec.ofNat 64 (plainAddress key))).modJob j.jobid fun j => { j with tamper := true }) s

/-- Bytes are written at their home by the agent of a number, with a SOURCE: memory changes, and nothing else but what R162, R310 and
R415 record. -/
def State.pokeAs (s : State) (agent source key : Nat) (bs : List Byte) : State :=
  let t := (s.tamperCheck source key bs.length).daybookLines (s.ownLines key bs.length)
  { t with mem := Memory.write t.mem key bs, early := t.freshEarly (t.early.map fun e => e.overwrite agent key bs.length) }

/-- Bytes are written at their home by the agent with this SOURCE. -/
def State.poke (s : State) (source key : Nat) (bs : List Byte) : State := s.pokeAs source source key bs

/-- Bytes at their home. -/
def State.peek (s : State) (key n : Nat) : List Byte := Memory.read s.mem key n

/-! ## Signatures (R161) -/

/-- One bit of the CRC-64 of R161. -/
def crcBit (c : Word) : Word := if c.getLsbD 63 then (c <<< 1) ^^^ 0x42F0E1EBA9EA3693#64 else c <<< 1

/-- A byte is folded into a signature (R161). -/
def crcByte (c : Word) (b : Byte) : Word :=
  (List.range 8).foldl (fun x _ => crcBit x) (c ^^^ (b.setWidth 64 <<< 56))

/-- Bytes are folded into a signature. -/
def crcBytes (c : Word) (bs : List Byte) : Word := bs.foldl crcByte c

/-- What a core of a redundant pair stores, sends or commands is folded into its signature, and the other core does the same
(R160, R161); the order of the item's bytes is a free value (log 22). -/
def State.sign (s : State) (addr width : Nat) (data : List Byte) : State :=
  if s.job.redun then
    let bs := Config.signatureBytes addr width data
    s.modCore fun c => { c with sig := crcBytes c.sig bs, partnerSig := crcBytes c.partnerSig bs }
  else s

/-! ## Accesses issued and not yet performed (R302 to R306) -/

/-- What a new access at `key` waits for: the acquires and fences that hold it, and the taint of its address registers
(R191, R192, R271). -/
def State.holders (s : State) (key : Nat) (isLoad : Bool) (rs : List Reg) : List Nat :=
  ((s.ctx.order.filter fun b => s.within b.scope key && (b.loads || !isLoad)).map (·.seq))
    ++ s.ctx.taintOf (rs.map .reg)

/-- The untagged accesses of the issuing context whose home a scope covers: what a release at that scope waits for
(R191, R303). -/
def State.earlier (s : State) (c : Scope) : List Nat :=
  (s.accs.filter fun a => decide (a.ctx = s.cur) && s.within c a.key
    && (match a.op with | .tagged _ => false | .arrive _ _ _ => false | .swatch _ _ _ => false | _ => true)).map (·.seq)

/-- An access of the issuing instruction, to be completed by its caller. -/
def State.newAcc (s : State) (key len : Nat) (caddr : Word) (page : Nat × Nat) (op : AccOp) (after : List Nat) : Acc :=
  { seq := s.seq, ctx := s.cur, key, len, op, after, iaddr := s.pc, caddr, page, inst := s.seq, lane := 0, stream := none,
    acq := none, held := false, retry := none }

/-- The events that perform an access. A tagged load's read may be performed some time before its data lands (R218, R312). -/
def Acc.events (a : Acc) : List Instr :=
  match a.op with
  | .tagged t => [.accessPerformed a.seq, .slotLands a.ctx t]
  | _ => [.accessPerformed a.seq]

/-- An access joins the outstanding ones. -/
def State.push (s : State) (a : Acc) : State :=
  { s with accs := s.accs ++ [a], seq := s.seq + 1, agenda := s.agenda ++ a.events }

/-- A later access of the issuing context within a scope waits for the access numbered `seq` (R191, R271). -/
def State.addBarrier (s : State) (b : Barrier) : State := s.modCtx fun c => { c with order := c.order ++ [b] }

/-- A load, tagged or not: its context's stores before it can give it its value (R304). -/
def AccOp.isLoad : AccOp → Bool
  | .load _ _ => true
  | .tagged _ => true
  | _ => false

/-- A store. -/
def AccOp.isStore : AccOp → Bool
  | .store _ => true
  | _ => false

/-- An atomic that reads and writes as two accesses (R286). -/
def AccOp.splits : AccOp → Bool
  | .atomic _ _ _ sp => sp
  | _ => false

/-- A store or an atomic. -/
def AccOp.writes : AccOp → Bool
  | .load _ _ => false
  | .tagged _ => false
  | .fullBit _ => false
  | .arrive _ _ _ => false
  | .swatch _ _ _ => false
  | _ => true

/-- Some of the bytes lie above the command's watermark, or at it (R249). -/
def Cmd.gates (c : Cmd) (key len : Nat) : Bool :=
  match c.wm with
  | some (w, hi) => decide (w ≤ hi) && overlaps key len w (hi + 1 - w)
  | none => false

/-- Some of the bytes lie above the watermark of a command of the core that is not complete: an instruction that issues now waits
for them (R249). -/
def State.gated (s : State) (key len : Nat) : Bool := s.core.chans.toList.any fun q => q.cmds.any fun c => c.gates key len

/-- An access waits for the watermark of a command that was pushed before it (R249). -/
def State.gatedAcc (s : State) (a : Acc) : Bool :=
  s.core.chans.toList.any fun q => q.cmds.any fun c => decide (c.seq < a.seq) && c.gates a.key a.len

/-- Earlier access `u` of the same context keeps `a` back: it touches the same bytes, and is no store that a load could
read before it is performed (R304). The lanes of one gather that share an address are so read in ascending order (log 110). -/
def Acc.keeps (u a : Acc) : Bool :=
  decide (u.ctx = a.ctx) && decide (u.seq < a.seq) && overlaps u.key u.len a.key a.len && !(a.op.isLoad && u.op.isStore)

/-- Two requests of one context to one 64-byte line outside its scratchpad go out in order (R395); a load that its own store gives its value
to reads that (R304). -/
def State.sameLine (s : State) (u a : Acc) : Bool :=
  decide (u.ctx = a.ctx) && decide (u.seq < a.seq) && decide (0 < u.len) && decide (0 < a.len) && decide (u.key / 64 ≤ (a.key + a.len - 1) / 64)
    && decide (a.key / 64 ≤ (u.key + u.len - 1) / 64) && !s.within .core a.key
    && !(a.op.isLoad && u.op.isStore && overlaps u.key u.len a.key a.len)

/-- The second half of an atomic keeps other atomics of its point off the word (R286). -/
def Acc.occupies (u a : Acc) : Bool :=
  match u.op, a.op with
  | .unitWrite _, .atomic _ _ _ true => decide (u.seq ≠ a.seq) && overlaps u.key u.len a.key a.len
  | _, _ => false

/-- An access that waits for the numbers `after` waits for this one: for all of it, or for its read (R283). -/
def Acc.awaited (u : Acc) (after : List Nat) : Bool := decide (u.seq ∈ after) || u.acq.any fun n => decide (n ∈ after)

/-- Nothing that the access waits for is left (R191, R192, R249, R271, R283, R286, R304, R395). -/
def State.canSend (s : State) (a : Acc) : Bool :=
  !(s.accs.any fun u => u.awaited a.after || u.keeps a || u.occupies a || s.sameLine u a) && !s.gatedAcc a

/-- The access can be performed: it is not waiting to be sent again either (R154). -/
def State.canPerform (s : State) (a : Acc) : Bool := s.canSend a && a.retry.isNone

/-- Bytes with the earlier stores of context `n` laid over them, as its access numbered `seq` reads them (R304). -/
def State.ownOver (s : State) (n : Fin 11) (seq key : Nat) (bs : List Byte) : List Byte :=
  s.accs.foldl (fun bs e =>
    match e.op with
    | .store d => if e.ctx = n ∧ e.seq < seq then overlay key bs e.key d else bs
    | _ => bs) bs

/-- Bytes at their home as context `n` reads them with an access numbered `seq`: its own earlier stores lie over memory
(R304). -/
def State.seenBy (s : State) (n : Fin 11) (seq key len : Nat) : List Byte := s.ownOver n seq key (s.peek key len)

/-- Bytes at their home as context `n` reads them now. -/
def State.seen (s : State) (n : Fin 11) (key len : Nat) : List Byte := s.seenBy n s.seq key len

/-- A context's TLBINVs that were found waiting are no longer marked so. -/
def Ctx.unholdInv (c : Ctx) : Ctx := { c with tlbinvs := c.tlbinvs.map fun i : Tlbinv => { i with held := false } }

/-- The matrix command that was found waiting is no longer marked so. -/
def Matrix.unhold (m : Matrix) : Matrix := { m with queue := m.queue.map fun c : MCmd => { c with held := false } }

/-- A matrix command that takes no step (R330). -/
def MKind.stepless : MKind → Bool
  | .mctx _ => true
  | .mzeroSt => true
  | .mcbk _ => true
  | .mflag _ => true
  | _ => false

/-- The event by which the matrix queue goes on: a step of its head, a swap, a request for the stationary pair, or a
completion; a core that finds the pair owned by another waits for it (R330, R337, R338), and one that is to take it again after a restore
does that first (R345). -/
def Matrix.next (m : Matrix) : List Instr :=
  if m.retake then (if m.otherOwner then [] else [.stationaryPairGrant])
  else
  match m.queue with
  | [] => []
  | c :: _ =>
    if c.finished || c.kind.stepless then [.matrixCommandComplete]
    else
      match c.kind with
      | .mswap => [.mswapTakesEffect]
      | .mloads => if m.own then [.arbiterStep] else if m.otherOwner then [] else [.stationaryPairGrant]
      | _ => [.arbiterStep]

/-- A queue's commands that were found waiting are no longer marked so. -/
def Chan.unhold (q : Chan) : Chan := { q with cmds := q.cmds.map fun c : Cmd => { c with held := false } }

/-- Accesses, engine commands and TLBINVs that were found waiting are tried again. -/
def State.wake (s : State) : State :=
  { s with
    agenda := s.agenda ++ (s.accs.filter (·.held)).flatMap Acc.events
      ++ ((List.finRange 5).filter fun q => (s.core.chans.get q).cmds.any (·.held)).map Instr.commandStart
      ++ ((List.finRange 11).filter fun n => (s.ctxs.get n).tlbinvs.any (·.held)).map Instr.tlbinvCompletion
      ++ (if s.core.matrix.queue.any (·.held) then s.core.matrix.next else [])
      ++ ((List.finRange 4).filter fun n => (s.core.streams.get n).held).map (fun n => .streamFetch (BitVec.ofFin n))
      ++ (s.core.mcasts.filter (·.held)).map fun m => .mcastHop m.ctx m.seq false,
    accs := s.accs.map fun a : Acc => { a with held := false },
    core := { s.core with chans := mapVec Chan.unhold s.core.chans, streams := mapVec (fun t : Stream => { t with held := false }) s.core.streams, matrix := s.core.matrix.unhold,
                          mcasts := s.core.mcasts.map fun m : Mcast => { m with held := false } },
    ctxs := mapVec Ctx.unholdInv s.ctxs }

/-- A performed access orders nothing any more, and its LDC leaves every taint (R192). While bytes read early are held, the taint still
tells which loads come after the LDC's read (R308); it holds nothing back then. -/
def Ctx.forget (c : Ctx) (seq : Nat) (ghost : Bool) : Ctx :=
  { c with
    order := c.order.filter fun b => decide (b.seq ≠ seq),
    taints := if ghost then c.taints else c.taints.filter fun p => decide (p.2 ≠ seq),
    inTaint := if ghost then c.inTaint else c.inTaint.filter (· ≠ seq) }

/-- The contexts whose later loads waited for an access come after what had been written in the scope when it was performed
(R191, R271). -/
def State.ordered (s : State) (seq : Nat) : State :=
  let who (e : Early) : List Nat :=
    ((List.finRange 11).filter fun n =>
      (s.ctxAt n).order.any fun b => decide (b.seq = seq) && b.loads && s.within b.scope e.key).map s.sourceOf
  s.modEarly fun l => s.freshEarly (l.map fun e => { e with newer := e.newer.map (· ++ who e) })

/-- A load of the context has been performed after the bytes were read (R191, R192, R220). -/
def Early.pass (e : Early) (a : Acc) : Early :=
  match a.op with
  | .load _ _ => if e.ctx = a.ctx then { e with passed := e.passed ++ [(a.seq, a.key, false)] } else e
  | .tagged _ => if e.ctx = a.ctx then { e with passed := e.passed ++ [(a.seq, a.key, true)] } else e
  | _ => e

/-- The number `seq` of a performed access, or of its read, orders nothing any more (R283). -/
def State.forget (s : State) (seq : Nat) : State :=
  { s.ordered seq with ctxs := mapVec (fun c => c.forget seq (!s.early.isEmpty)) s.ctxs }

/-- An access that has been performed is no longer outstanding, and orders nothing any more. -/
def State.endAcc (s : State) (a : Acc) : State :=
  let t := (s.forget a.seq).forget (a.acq.getD a.seq)
  { t with accs := s.accs.filter fun u => decide (u.seq ≠ a.seq) }

/-- An access leaves the outstanding ones. -/
def State.leaveAcc (s : State) (a : Acc) : State := (s.modEarly fun l => l.map fun e => e.pass a).endAcc a

/-- An access is performed, and leaves the outstanding ones. -/
def State.dropAcc (s : State) (a : Acc) : State := (s.dropEarly a.ctx a.key a.len).leaveAcc a

/-- The read of an access is performed, and orders nothing any more (R283). -/
def State.dropRead (s : State) (a : Acc) : State :=
  match a.acq with
  | some n => { s.forget n with accs := s.accs.map fun u : Acc => if u.seq = a.seq then { u with acq := none } else u }
  | none => s

/-! ## Loads (R189) and atomics (R283, R284) as they are performed -/

/-- Bytes of a load width (R37). -/
def ldBytes : LdWidth → Nat
  | .z8 => 1 | .z16 => 2 | .z32 => 4 | .z64 => 8 | .s8 => 1 | .s16 => 2 | .s32 => 4

/-- What LD writes for the bytes it reads (R189). -/
def loadWord (w : LdWidth) (bs : List Byte) : Word :=
  let v := natOfBytes bs
  match w with
  | .s8 => wrap64 (sextNat v 8)
  | .s16 => wrap64 (sextNat v 16)
  | .s32 => wrap64 (sextNat v 32)
  | _ => BitVec.ofNat 64 v

/-- Lane `i` of `w` bits (R2). -/
def lane (v : Vec) (w i : Nat) : Nat := v.toNat / 2 ^ (w * i) % 2 ^ w

/-- The number whose `n` lanes of `w` bits are `f`. -/
def packNat (w : Nat) (f : Nat → Nat) : Nat → Nat
  | 0 => 0
  | n + 1 => packNat w f n + f n % 2 ^ w * 2 ^ (w * n)

/-- The vector whose `n` lanes of `w` bits are `f` (R2). -/
def ofLanes (w n : Nat) (f : Nat → Nat) : Vec := BitVec.ofNat 512 (packNat w f n)

/-- The vector with lane `i` of `w` bits replaced. -/
def setLane (v : Vec) (w i x : Nat) : Vec := ofLanes w (512 / w) fun j => if j = i then x else lane v w j

/-- Bits of a memory width (R37). -/
def memBits : MemWidth → Nat
  | .w8 => 8 | .w16 => 16 | .w32 => 32 | .w64 => 64

/-- Where the bytes of a load go in its destination (R189, R193). -/
def LoadForm.into (f : LoadForm) (bs : List Byte) (old : Vec) : Vec :=
  match f with
  | .scalar w => (loadWord w bs).setWidth 512
  | .broadcast w => ofLanes (memBits w) (512 / memBits w) fun _ => natOfBytes bs
  | .lane i w => setLane old w i (natOfBytes bs)

/-- The width of an atomic type (R281). -/
def atomicBits : AtomicTy → Nat
  | .z64 => 64 | .s64 => 64 | .z32 => 32 | .s32 => 32

/-- A `.s` type. -/
def atomicSigned : AtomicTy → Bool
  | .z64 => false | .s64 => true | .z32 => false | .s32 => true

/-- `opfn` of R284, on `w`-bit numbers. -/
def atomicFn (o : AtomicOp) (t : AtomicTy) (old b : Nat) : Nat :=
  let w := atomicBits t
  let num (v : Nat) : Int := if atomicSigned t then sextNat v w else (v : Int)
  match o with
  | .add => (old + b) % 2 ^ w
  | .and => old &&& b
  | .or => old ||| b
  | .xor => old ^^^ b
  | .min => if num old ≤ num b then old else b
  | .max => if num b ≤ num old then old else b
  | .swap => b
  | .addf => fmtF32.round ((fmtF32.value old).add (fmtF32.value b))

/-- The type of a read-modify-write. -/
def Rmw.ty : Rmw → AtomicTy
  | .op _ t => t
  | .cas t _ => t

/-- What a read-modify-write leaves in the word (R283). -/
def Rmw.new (r : Rmw) (old : Nat) (b : Word) : Nat :=
  let m := 2 ^ atomicBits r.ty
  match r with
  | .op o t => atomicFn o t old (b.toNat % m)
  | .cas _ e => if old = e.toNat % m then b.toNat % m else old

/-- What AMO and CAS write to xD (R283). -/
def atomicResult (t : AtomicTy) (old : Nat) : Word :=
  if atomicSigned t then wrap64 (sextNat old (atomicBits t)) else BitVec.ofNat 64 old

/-- The source code of an uncorrectable line that some bytes touch, if there is one (R196, R197; log 35). -/
def State.badAt (s : State) (key n : Nat) : Option Nat :=
  (s.bad.find? fun b => overlaps key n (b.1 * 64) 64).map (·.2)

/-- Bytes as a unit reads them; those of an uncorrectable line are a free value (log 38). -/
def State.unitRead (s : State) (key n : Nat) : List Byte :=
  (s.peek key n).mapIdx fun i b => if (s.badAt (key + i) 1).isSome then Config.badByte s.cycle (key + i) else b

/-- DETAIL of cause 0x18 (R196). -/
def badDetail (deferred : Bool) (source : Nat) : BitVec 32 :=
  BitVec.ofNat 32 ((if deferred then 1 else 0) + source % 8 * 2)

/-- When the last lane of an instruction is done, its lowest lane with uncorrectable data raises the deferred error, and is logged if
the instruction returns a value (R197). -/
def State.reportBad (s : State) (n : Fin 11) (inst : Nat) : State :=
  if s.accs.any fun u => decide (u.inst = inst) then s
  else
    match ((s.ctxs.get n).badLanes.filter fun b => decide (b.inst = inst)).insertionSort fun a b => a.lane ≤ b.lane with
    | [] => s
    | b :: _ =>
      let t := if b.wseq.isSome then s.logEntry true 2 0x18 (s.sourceOf n) (badDetail true b.source) b.caddr else s
      (t.modCtxAt n fun c => { c with badLanes := c.badLanes.filter fun b => decide (b.inst ≠ inst) }).post
        (.deferredUncorrectable n (b.wseq.getD 0) (BitVec.ofNat 3 b.source) b.iaddr b.caddr)

/-- A lane that meets uncorrectable data is not performed; of a reduction, each such word is logged (R197). -/
def State.meetBad (s : State) (a : Acc) (source : Nat) (wseq : Option Nat) : State :=
  let l := if wseq.isNone then s.logEntry true 2 0x18 (s.sourceOf a.ctx) (badDetail true source) a.caddr else s
  let t := l.modCtxAt a.ctx fun c =>
    { c with badLanes := c.badLanes ++ [{ inst := a.inst, lane := a.lane, source, iaddr := a.iaddr, caddr := a.caddr, wseq }] }
  match wseq with
  | some w => t.fill a.ctx w id true
  | none => t

/-- A slot changed. -/
def Ctx.modSlot (c : Ctx) (t : BitVec 5) (f : Slot → Slot) : Ctx :=
  { c with slots := c.slots.set t.toNat (f (c.slots.get t.toFin)) t.isLt }

/-- A slot lands: it joins the landed queue, among the slots of the same cycle in ascending tag (R214). -/
def Ctx.land (c : Ctx) (t : BitVec 5) (f : Slot → Slot) (cycle : Nat) : Ctx :=
  let later (u : BitVec 5) : Bool := decide ((c.slots.get u.toFin).since = cycle) && decide (t < u)
  { c with
    slots := c.slots.set t.toNat { f (c.slots.get t.toFin) with since := cycle } t.isLt,
    landed := c.landed.filter (fun u => !later u) ++ t :: c.landed.filter later }

/-- A slot of context `n` lands, and is counted (R214, R420). -/
def State.landSlot (s : State) (n : Fin 11) (t : BitVec 5) (f : Slot → Slot) : State :=
  (s.modCtxAt n fun c => c.land t f s.cycle).count 4

/-- The read of a slot's load is performed (R218): its value, or the marker that uncorrectable data leaves, waits to land. -/
def State.readSlot (s : State) (a : Acc) (t : BitVec 5) : State :=
  match s.badAt a.key a.len with
  | some src =>
    (s.logEntry true 2 0x18 (s.sourceOf a.ctx) (badDetail false src) a.caddr).modCtxAt a.ctx fun c =>
      c.modSlot t fun x => { x with read := true, cause := 0x18, detail := badDetail false src, caddr := a.caddr }
  | none =>
    s.modCtxAt a.ctx fun c =>
      c.modSlot t fun x => { x with read := true, val := bitsOfBytes 512 (s.seenBy a.ctx a.seq a.key a.len) }

/-! ## Full/empty words and drapers as they are performed (R289, R297) -/

/-- The full/empty bit of the word at a home key. -/
def State.isFull (s : State) (key : Nat) : Bool := Sparse.get false s.full key

/-- That bit set or cleared. -/
def State.setFull (s : State) (key : Nat) (b : Bool) : State := { s with full := Sparse.set false s.full key b }

/-- FINIT at the owner's banks: the deferred entries of the word go back to their requesters (R289). -/
def State.finitAt (s : State) (source key : Nat) (v : Word) (b : Bool) : State :=
  let t := (s.poke source key (bytesOfNat v.toNat 8)).setFull key b
  { t with takers := t.takers.filter fun e => decide (e.key ≠ key) }

/-- A draper by its number; one that is not granted has no pool. -/
def State.draper (s : State) (d : Nat) : Option Draper := (s.drapers.find? fun p => decide (p.1 = d)).map (·.2)

/-- The draper after it has handed out a swatch (R297). -/
def Draper.advance (p : Draper) : Draper :=
  let n := p.next + 2 ^ (7 + p.sz)
  { p with next := if n % 4096 = 0 then n + 28672 else n }

/-- What a draper hands out: the swatch's address and p0 (R297). -/
def Draper.swatch (p : Draper) : Nat × Word := if p.limit ≤ p.next then (0, 0) else (p.next, allOnes64)

/-- A draper has handed out its next swatch, if it has one left (R297). -/
def State.drawSwatch (s : State) (d : Nat) : State :=
  { s with drapers := s.drapers.map fun q : Nat × Draper => if q.1 = d ∧ q.2.next < q.2.limit then (q.1, q.2.advance) else q }

/-- A draper serves a request: xD and p0 take what it hands out (R297). -/
def State.serveSwatch (s : State) (n : Fin 11) (d wx wp : Nat) : State :=
  match s.draper d with
  | none => s
  | some p => ((s.drawSwatch d).formWrite n wx (BitVec.ofNat 512 p.swatch.1)).formWrite n wp (p.swatch.2.setWidth 512)

/-- The core from which what a redundant pair sends goes out: its leader (R160, R259, R268; log 73). -/
def State.sender (s : State) : BitVec 12 := if s.job.redun then s.core.num &&& 0xFFE else s.core.num

/-- The access is performed at its home (R302). -/
def State.performOp (s : State) (a : Acc) : State :=
  match a.op with
  | .store d => (s.poke (s.sourceOf a.ctx) a.key d).dropAcc a
  | .unitWrite d => (s.poke (s.sourceOf a.ctx) a.key d).dropAcc a
  | .fullBit w => (s.fill a.ctx w (fun _ => (boolWord (s.isFull a.key)).setWidth 512) false).dropAcc a
  | .finit v b => (s.finitAt (s.sourceOf a.ctx) a.key v b).dropAcc a
  | .swatch d wx wp => (s.serveSwatch a.ctx d wx wp).dropAcc a
  | .arrive g w r => (s.dropAcc a).post (.arrival g s.sender w (r.map fun n => (a.ctx, n)))
  | .load f w =>
    match s.badAt a.key a.len with
    | some src => (s.meetBad a src (some w)).dropAcc a
    | none => (s.fill a.ctx w (f.into (s.seenBy a.ctx a.seq a.key a.len)) false).dropAcc a
  | .tagged t => (s.readSlot a t).dropAcc a
  | .atomic r b w splits =>
    match s.badAt a.key a.len with
    | some src => (s.meetBad a src w).dropAcc a
    | none =>
      let old := natOfBytes (s.peek a.key a.len)
      let t := match w with
        | some n => s.fill a.ctx n (fun _ => (atomicResult r.ty old).setWidth 512) false
        | none => s
      let new := bytesOfNat (r.new old b) a.len
      if splits then
        let t := t.dropRead a
        ({ t with accs := t.accs.map fun u : Acc => if u.seq = a.seq then { u with op := .unitWrite new } else u }).post
          (.accessPerformed a.seq)
      else (t.poke (t.sourceOf a.ctx) a.key new).dropAcc a

/-- An outstanding access is performed; its instruction's deferred error follows its last lane, and what waited for it is
tried again. -/
def State.performAcc (s : State) (a : Acc) : State := ((s.performOp a).reportBad a.ctx a.inst).wake

/-- The second access of another agent's atomic is performed (R286). -/
def State.writeHalf (s : State) (h : Half) : State :=
  let t := s.poke h.source h.key h.data
  { t with halves := t.halves.filter fun x => decide (x.seq ≠ h.seq) }.wake

/-- Another agent's atomic has read its word at a cluster atomic unit or a fabric port, and writes it some time later (R286). -/
def State.addHalf (s : State) (source key : Nat) (data : List Byte) : State :=
  { s with halves := s.halves ++ [{ seq := s.seq, source, key, data }], seq := s.seq + 1, agenda := s.agenda ++ [.accessPerformed s.seq] }

/-- Other agents' atomics that have read the bytes write them, before another atomic of the point (R286). -/
def State.finishHalves (s : State) (key n : Nat) : State :=
  s.halves.foldl (fun t h => if overlaps h.key h.data.length key n then t.writeHalf h else t) s

/-- Writes of atomics that have read the bytes at this core's point are performed, before another atomic of the point (R286). -/
def State.finishUnits (s : State) (key n : Nat) : State :=
  (s.accs.foldl (fun t a =>
    match a.op with
    | .unitWrite _ => if overlaps a.key a.len key n then t.performAcc a else t
    | _ => t) s).finishHalves key n

/-- An access that cannot be performed yet is held until something is performed. -/
def State.holdAcc (s : State) (a : Acc) : State :=
  { s with accs := s.accs.map fun u => if u.seq = a.seq then { u with held := true } else u }

/-- Another core of the cluster, which holds the scratchpad byte with this key, is being saved, and answers with RETRY (R154; log 34). -/
def State.retried (s : State) (key : Nat) : Bool :=
  s.clu.saving.any fun p =>
    let lo := scratchKey (s.core.num.toNat / 32 * 32 + p.1) 0
    decide (p.1 ≠ s.core.num.toNat % 32) && decide (lo ≤ key) && decide (key < lo + Config.scratchBytes)
      && decide (p.2.1 ≤ s.cycle) && decide (s.cycle < p.2.2)

/-- An access is answered with RETRY (R154). -/
def State.answersRetry (s : State) (a : Acc) : Bool := decide (0 < a.len) && s.retried a.key

/-- An access answered with RETRY is sent again after 256 network cycles (R154). -/
def State.retryAcc (s : State) (a : Acc) : State :=
  { s with accs := s.accs.map fun u : Acc => if u.seq = a.seq then { u with retry := some (s.cycle + 512) } else u }

/-- An access is performed if it can be; else it is held, or will be sent again. -/
def State.tryAcc (s : State) (a : Acc) : State :=
  if s.canPerform a = false then s.holdAcc a
  else if s.answersRetry a then s.retryAcc a
  else (if a.op.splits then s.finishHalves a.key a.len else s).performAcc a

/-- The stores and atomics of a list are performed, in issue order; an atomic that meets uncorrectable data is logged instead (R197). -/
def State.finishWrites : List Acc → State → State
  | [], s => s
  | a :: as, s =>
    match a.op with
    | .store d => State.finishWrites as (s.poke (s.sourceOf a.ctx) a.key d)
    | .unitWrite d => State.finishWrites as (s.poke (s.sourceOf a.ctx) a.key d)
    | .atomic r b _ _ =>
      State.finishWrites as
        (match s.badAt a.key a.len with
        | some src => s.logEntry true 2 0x18 (s.sourceOf a.ctx) (badDetail true src) a.caddr
        | none => s.poke (s.sourceOf a.ctx) a.key (bytesOfNat (r.new (natOfBytes (s.peek a.key a.len)) b) a.len))
    | .finit v b => State.finishWrites as (s.finitAt (s.sourceOf a.ctx) a.key v b)
    | _ => State.finishWrites as s

/-! ## Ending a job (R406, R411, R412, R414) -/

/-- The completion record's key: a PCIe address when bit 63 of COMPL is 1 (R407). -/
def complKey (c : Word) : Nat :=
  if c.getLsbD 63 then Config.hostBase + natBits c.toNat 62 0 else hbmKey c.toNat

/-- Dword 0 of a completion record (R412). -/
def recordDword (status reason : Nat) (mfst tamper noReplay repro : Bool) (jobid : BitVec 32) : Nat :=
  status * 2 ^ 56 + reason * 2 ^ 48 + bitAt mfst 44 + bitAt tamper 43 + bitAt noReplay 42 + bitAt repro 41 + jobid.toNat

/-- A completion event takes its final state (R411). Event 0 is none. -/
def Device.settleEvent (d : Device) (n : Nat) (e : EventState) : Device :=
  if n = 0 then d else { d with events := Sparse.set EventState.done d.events n e }

/-- A queue by its number; one never written reads as after reset (R405). -/
def Device.queue (d : Device) (q : Nat) : Queue := Sparse.get Queue.reset d.queues q

/-- A queue replaced. -/
def Device.setQueue (d : Device) (q : Nat) (x : Queue) : Device :=
  { d with queues := Sparse.set Queue.reset d.queues q x }

/-- The vector of a queue is raised when its IRQ bit is 1 (R405). -/
def Device.raiseIrq (d : Device) (q : Nat) : Device :=
  if (d.queue q).irq then { d with msix := d.msix ++ [(d.queue q).vec] } else d

/-- Dwords 1 to 7 of a completion record (R412). -/
def recordTail (start finish count logged : Word) : List Byte :=
  bytesOfNat start.toNat 8 ++ bytesOfNat finish.toNat 8 ++ bytesOfNat count.toNat 8 ++ bytesOfNat logged.toNat 8
    ++ List.replicate 24 0

/-- The completion record is written, STATUS last, the job's event settles, and the queue's vector may be raised (R406,
R411, R412). -/
def State.writeRecord (s : State) (compl : Word) (evt : Nat) (q : Nat) (status : Nat) (dword0 : Nat)
    (start finish count logged : Word) : State :=
  let k := complKey compl
  let m1 := Memory.write s.mem (k + 8) (recordTail start finish count logged)
  let m2 := Memory.write (Memory.write m1 k (bytesOfNat dword0 7)) (k + 7) (bytesOfNat (dword0 / 2 ^ 56) 1)
  { s with mem := if compl.getLsbD 63 && !s.dev.hostLink then s.mem else m2,
           dev := (s.dev.settleEvent evt (if status = 1 then .done else .failed)).raiseIrq q }

/-- An event of the agenda that belongs to the core's job: it ends, or is saved, with the job (R145, R153). -/
def ofJob : Instr → Bool
  | .registerWritePerformed _ _ => true
  | .pauseExpiry _ => true
  | .helperStops _ => true
  | .retryResend _ => true
  | .deferredUncorrectable _ _ _ _ _ => true
  | .walk _ => true
  | .tlbinvCompletion _ => true
  | .slotLands _ _ => true
  | .streamFetch _ => true
  | .commandStart _ => true
  | .commandCompletion _ => true
  | .firmwarePath _ _ => true
  | .arrival _ _ _ _ => true
  | .expectReachesRoot _ _ => true
  | .completionBroadcast _ _ => true
  | .pulse _ => true
  | .heldHelperStart _ => true
  | .probe _ => true
  | .probeReceived _ _ _ => true
  | .takePresentedAgain _ => true
  | .matrixResidueFault _ _ _ _ => true
  | .pick _ _ => true
  | .rePickPass _ _ => true
  | .weaveEnd _ => true
  | .portWordArrival _ _ _ _ => true
  | .closingMarker _ => true
  | .abortCloseFlit _ => true
  | .sendAllowance _ => true
  | .reclaimMessage _ _ => true
  | .mcastHop _ _ _ => true
  | .accessPerformed _ => true
  | .icinvCompletion _ => true
  | .coreSave => true
  | .landingSetDrainBound => true
  | .arbiterStep => true
  | .matrixCommandComplete => true
  | .stationaryPairGrant => true
  | .mswapTakesEffect => true
  | .weaveStart => true
  | .latchedTask => true
  | _ => false

/-- The core without a job: its contexts, units and caches as before a launch, and no event of the job left. Its counters go
on (R420), and who else owns the stationary pair stays so (R337). -/
def State.idle (s : State) : State :=
  { s with
    ctxs := Vector.replicate 11 Ctx.reset,
    core := { Core.reset with
      num := s.core.num, last := s.core.last, counters := s.core.counters,
      matrix := { Matrix.reset with otherOwner := s.core.matrix.otherOwner } },
    bar := Barriers.reset, clu := Cluster.reset, full := [], filler := [], takers := [], regions := [], revmap := [],
    drapers := [], accs := [], early := [], micro := [], clutlb := [], lasttlb := [], icache := [],
    agenda := s.agenda.filter fun e =>
      (!ofJob e && !s.core.unit.any fun u => decide (e = .remoteAccess u.core u.jobid u.op))
        || s.halves.any fun h => decide (e = .accessPerformed h.seq) }

/-- The job has ended: it holds nothing of the core any more (R19), and an evicted job may be restored (R155). -/
def State.releaseJob (s : State) : State :=
  { s.idle with
    ctxs := mapVec (fun c => { c with live := false, ending := false, parked := false, paused := false, wait := none,
                                      writes := [], deferred := [], trapping := none, frame := [] }) s.ctxs,
    job := { s.job with running := false, evicted := false, stopping := false, ended := true },
    agenda := s.idle.agenda ++ if s.evicted.isEmpty then [] else [.restore] }

/-- A job's takes were all in issue order or recorded: the REPRO bit of its record (R225), `ctxs` being its contexts here. What its other
cores took is a free value (log 34). -/
def reproOf (j : Job) (ctxs : Vector Ctx 11) : Bool :=
  j.record || ((ctxs.toList.all fun c => !c.tookFree) && (decide (j.cores.length ≤ 1) || Config.othersRepro j.jobid))

/-- That bit of the job that holds the core. -/
def State.repro (s : State) : Bool := reproOf s.job s.ctxs

/-- The payload of a take-order record: up to six tags, and their count (R226, R419). -/
def takePayload (ts : List (BitVec 5)) : Word :=
  BitVec.ofNat 64 (ts.length * 2 ^ 61 + (ts.mapIdx fun i t => t.toNat * 2 ^ (5 * i)).sum)

/-- The tags that a context has taken and not yet recorded go to the trace ring (R226, R419). -/
def State.flushTakes (s : State) (n : Fin 11) : State :=
  match (s.ctxs.get n).takeOrder with
  | [] => s
  | ts => (s.trace 5 n.val (takePayload ts)).modCtxAt n fun c => { c with takeOrder := [] }

/-- Every context's tags are recorded. -/
def State.flushAllTakes (s : State) : State := (List.finRange 11).foldl State.flushTakes s

/-- The queue of a JOBID (R412). -/
def jobQueue (j : BitVec 32) : Nat := natBits j.toNat 31 24

/-- Bytes 0x000 to 0x2BF of a manifest (R416). -/
def manifestBody (jobid : BitVec 32) (nonce : List Byte) (digests : List (BitVec 512)) (record : List Byte) : List Byte :=
  bytesOfNat 0x0154_5346_4D58_4443 8 ++ bytesOfNat jobid.toNat 8 ++ nonce
    ++ (digests.map fun d => bytesOfNat d.toNat 64).flatten ++ record ++ List.replicate 144 0

/-- The signature of a manifest: big-endian, r then s (R416; log 21). -/
def manifestSignature (body : List Byte) : List Byte :=
  (bytesOfNat (Config.signature (sha512 body)).toNat 132).reverse

/-- The 64 most recent manifests, with one more (R416). -/
def keepManifest (l : List (BitVec 32 × List Byte)) (m : BitVec 32 × List Byte) : List (BitVec 32 × List Byte) :=
  if 64 ≤ l.length then l.drop 1 ++ [m] else l ++ [m]

/-- The final SSTEP.COUNT (R412). -/
def sstepCount (w : Word) : Word := BitVec.ofNat 64 (w.toNat % 2 ^ 63)

/-- The security engine builds and signs a job's manifest at its completion, `dword0` and `count` being those of the record (R416). -/
def State.addManifest (s : State) (j : Job) (dword0 : Nat) (count : Word) : State :=
  if j.manif then
    let record := bytesOfNat dword0 8 ++ recordTail j.startTime s.dev.devtime count (BitVec.ofNat 64 j.logged)
    let body := manifestBody j.jobid j.nonce j.digests record
    { s with dev := { s.dev with manifests := keepManifest s.dev.manifests (j.jobid, body ++ manifestSignature body) } }
  else s

/-- Dword 0 of a job's record (R412). A manifest exists of every job that has run with MANIF, of an ABORTED one too (log 123). -/
def Job.dword0 (j : Job) (repro : Bool) (status reason : Nat) : Nat :=
  recordDword status reason j.manif j.tamper j.noReplay repro j.jobid

/-- The manifest and the record of a job (R406, R412, R416). -/
def State.recordJob (s : State) (j : Job) (repro : Bool) (count : Word) (status reason : Nat) : State :=
  (s.addManifest j (j.dword0 repro status reason) count).writeRecord j.compl j.evt.toNat (jobQueue j.jobid) status
    (j.dword0 repro status reason) j.startTime s.dev.devtime count (BitVec.ofNat 64 j.logged)

/-- Those of the job that holds the core. -/
def State.endRecord (s : State) (status reason : Nat) : State := s.recordJob s.job s.repro (sstepCount s.bar.sstep) status reason

/-- A job of other cores as its record shows it: the time of its first instruction, once that is none of this core's, and whether the daybook of one
of its cores has overflowed are free values (log 40). -/
def State.otherRecord (s : State) (j : Job) : Job :=
  { j with
    startTime := if j.began then j.startTime
      else j.startTime + BitVec.ofNat 64 ((Config.otherStart j.jobid).toNat % ((s.dev.devtime - j.startTime).toNat + 1)),
    noReplay := j.noReplay || (j.superstep && Config.othersOverflow j.jobid) }

/-- A job that runs on other cores ends (R406, R412, R414; log 40): an evicted job may then be restored (R155). -/
def State.endOther (s : State) (x : OtherJob) (count : Word) (status reason : Nat) : State :=
  let j := x.job
  let t := { s with
    dev := { s.dev with jobs := s.dev.jobs.filter fun u => decide (u.job.jobid ≠ j.jobid) },
    agenda := s.agenda ++ if s.evicted.isEmpty then [] else [Instr.restore] }
  t.recordJob (s.otherRecord j) (j.record || (!x.tookFree && Config.othersRepro j.jobid)) (if j.superstep then sstepCount count else 0) status reason

/-- The job ends as ABORTED (R145, R414, R418): its contexts stop, its outstanding accesses and engine commands end,
and its record is written. -/
def State.abortJob (s : State) (reason : Nat) : State :=
  if s.job.running then
    ((State.finishWrites s.accs s).flushAllTakes.endRecord 3 reason).releaseJob
  else s

/-! ## Traps (R140 to R145) -/

/-- The trap of the instruction at `pc` (NEXT = 0). -/
def TrapInfo.at (pc : Word) (cause : BitVec 8) (detail : BitVec 32) (caddr : Word) : TrapInfo :=
  { cause, detail, tag := none, fetch := false, next := false, ret := pc, iaddr := pc, caddr, log := false }

/-- A status joins those of a command: the highest is reported (R242). -/
def Cmd.note (c : Cmd) (st : Nat) : Cmd := { c with status := Nat.max c.status st }

/-- The command ID (R243). -/
def cmdId (v : Vec) : Nat := natBits (lane v 64 0) 63 48

/-- The completion element (R241, R256). -/
def Cmd.element (c : Cmd) : Element :=
  { word := BitVec.ofNat 64 (2 ^ 63 + c.status * 2 ^ 48 + cmdId c.vec * 2 ^ 32 + c.bytes % 2 ^ 32),
    overflow := none, wm := c.wm.map (·.1), cmd := c.seq }

/-- The bytes of a command's writes that are made and not performed. -/
def Cmd.pending (c : Cmd) : Nat := (c.stores.map (·.2.length)).sum

/-- Every command of a queue ends with STATUS 10, its bytes already written remaining and no others; its element is queued, and neither BELL nor ARV
is made (R259). -/
def Chan.abort (c : Chan) : Chan :=
  { cmds := [], ready := c.ready ++ c.cmds.map fun x : Cmd => { x.note 10 with bytes := x.bytes - x.pending }.element }

/-- The engine commands of the core end (R259). -/
def State.abortCmds (s : State) : State := (s.modCore fun c => { c with chans := mapVec Chan.abort c.chans }).wake

/-- The job is to end: its other contexts stop at their next instruction boundary, and it is then ABORTED; its engine commands end (R145, R414). -/
def State.stopContexts (s : State) (reason : Nat) : State :=
  if s.job.stopping then s else { s with job := { s.job with stopping := true, stopReason := reason } }.abortCmds

/-- A trap while INTRAP is 1 (R145): both records are logged, the context stops, and the job is stopped as that of a torn-down queue. -/
def State.doubleTrap (s : State) (t : TrapInfo) : State :=
  let r := s.ctx.traprec
  let s1 := s.logEntry true 5 (natBits (r.get 0).toNat 7 0) s.source (BitVec.ofNat 32 (natBits (r.get 0).toNat 63 32))
    (r.get 3)
  let s2 := s1.logEntry true 5 t.cause.toNat s.source t.detail t.caddr
  (s2.modCtx fun c => { c with live := false, wait := none, trapping := none }).stopContexts 2

/-- The context enters the handler (R140): the record is written, INTRAP is set, and pc is TRAPVEC. A gang's members enter at one boundary
(R144). An END that RTE runs again is no longer the instruction after its SYNC (R137; DEDUCED, log 136). -/
def Ctx.enter (c : Ctx) (t : TrapInfo) (trapvec : Word) (cycle : Nat) : Ctx :=
  { c with traprec := #v[traprec0 t, t.ret, t.iaddr, t.caddr], inTrap := true, pc := trapvec, frame := [],
           refetch := false, parked := false, wait := none, trapping := none, nextIssue := cycle + 6, afterSync := false, ph := none,
           lead := c.lead.map fun l => { l with ret := t.ret } }

/-- A trap whose earlier register writes are all performed is taken (R140, R145). -/
def State.enterTrap (s : State) (t : TrapInfo) : State :=
  if s.ctx.inTrap then s.doubleTrap t
  else
    let u := s.modCtx fun c => c.enter t s.job.trapvec s.cycle
    if s.claimed then u.trace 1 s.cur.val (traprec0 t) else u

/-- The refused access of a violation is logged when its trap is raised (R11). -/
def State.logTrap (s : State) (t : TrapInfo) : State := if t.log then s.violation t.cause t.detail t.caddr else s

/-- A trap that has been raised is taken once every earlier-issued register write of the context is performed (R140). -/
def State.takeTrap (s : State) (t : TrapInfo) : State :=
  let c := s.ctx.settle s.cycle
  if c.writes.isEmpty then (s.setCtx c).enterTrap t
  else s.setCtx { c with trapping := some t, wait := none, nextIssue := s.cycle + 1 }

/-- A trap is raised (R140). -/
def State.raise (s : State) (t : TrapInfo) : State := (s.logTrap t).takeTrap { t with log := false }

/-- A trap whose check completes after a hold of `hold` cycles is raised then, not at issue (R51). -/
def State.raiseAfter (s : State) (t : TrapInfo) (hold : Nat) : State :=
  if hold ≤ 1 then s.raise t
  else s.modCtx fun c => { c with trapping := some t, wait := none, nextIssue := s.cycle + (hold - 1) }

/-- A trap of the instruction that issues, with its cause, DETAIL and the address it names. -/
def State.trapHere (s : State) (cause : BitVec 8) (detail : BitVec 32) (caddr : Word) : State :=
  s.raise (TrapInfo.at s.pc cause detail caddr)

/-- A trap that is also a violation: the refused address is logged (R11). -/
def State.trapLogged (s : State) (cause : BitVec 8) (detail : BitVec 32) (caddr : Word) : State :=
  (s.violation cause detail caddr).trapHere cause detail caddr

/-- The illegal-operation trap (R143). -/
def State.illegal (s : State) : State := s.trapHere 0x02 0 0

/-- The resource trap with its DETAIL (R21, R143). -/
def State.resource (s : State) (detail : BitVec 32) : State := s.trapHere 0x08 detail 0

/-- A phase violation with no refused access: the instruction's address is logged (R11). -/
def State.phaseViolation (s : State) : State := (s.violation 0x07 0 s.pc).trapHere 0x07 0 0

/-! ## Issue and hazards (R49) -/

/-- File and number of a register, as the hazard trap's DETAIL gives them (R143). -/
def Reg.detail : Reg → BitVec 32
  | .x n => BitVec.ofNat 32 (n.toNat * 256)
  | .v n => BitVec.ofNat 32 (1 + n.toNat * 256)
  | .p n => BitVec.ofNat 32 (2 + n.toNat * 256)

/-- The first register of a list with a variable-latency write outstanding (R49). -/
def Ctx.hazard (c : Ctx) (rs : List Reg) : Option Reg :=
  rs.find? fun r => c.writes.any fun w => decide (w.reg = r) && (w.due.isNone || w.late)

/-- An instruction that reads the registers `rs` and writes `ws` issues: a hazard sets HAZ, or traps with CHK = 1 (R49),
and what it reads gives its taint (R192). An instruction that waits has issued already. -/
def State.issue (s : State) (rs ws : List Reg) (k : State → State) : State :=
  if s.ctx.wait.isSome then k s
  else
    match s.ctx.hazard (rs ++ ws) with
    | none => k (s.modCtx fun c => { c with inTaint := c.taintOf (rs.map .reg) })
    | some r =>
      if s.ctx.chk then (s.count 3).trapHere 0x09 r.detail 0
      else k ((s.count 3).modCtx fun c => { c with haz := true, inTaint := c.taintOf (rs.map .reg) })

/-! ## Completing an instruction (R33, R58, R61, R127) -/

/-- The loop sets, the one started most recently first (R127). -/
def Ctx.loopOrder (c : Ctx) : List (Fin 3) :=
  [0, 1, 2].insertionSort fun a b => c.loopAge.get b ≤ c.loopAge.get a

/-- The registers that decide where the context goes on: its own, or in a follower of a gang its leader's (R124). -/
def Ctx.ctl (c : Ctx) : LoopRegs :=
  c.lead.getD { lc := c.lc, ls := c.ls, le := c.le, ret := c.traprec.get 1, rptst := c.rptst, rptpc := c.rptpc }

/-- RPTST changed, the leader's too (R124). -/
def Ctx.modRptst (c : Ctx) (f : Word → Word) : Ctx :=
  { c with rptst := f c.rptst, lead := c.lead.map fun l => { l with rptst := f l.rptst } }

/-- Loop `n` ends at a word of the instruction of `size` bytes at `pc` (R127). -/
def Ctx.loopEndsIn (c : Ctx) (n : Fin 3) (pc : Word) (size : Nat) : Bool :=
  decide (c.ctl.le.get n ≠ 0) && (decide (c.ctl.le.get n = pc) || (decide (size = 8) && decide (c.ctl.le.get n = pc + 4)))

/-- The count of loop `n` goes down by one, the leader's too (R127). -/
def Ctx.countLoop (c : Ctx) (n : Fin 3) : Ctx :=
  { c with
    lc := c.lc.set n.val (c.lc.get n - 1) n.isLt,
    lead := c.lead.map fun l => { l with lc := l.lc.set n.val (l.lc.get n - 1) n.isLt } }

/-- Loop `n` is active no more (R127). -/
def Ctx.exitLoop (c : Ctx) (n : Fin 3) : Ctx :=
  { c with le := c.le.set n.val 0 n.isLt, lead := c.lead.map fun l => { l with le := l.le.set n.val 0 n.isLt } }

/-- The end tests of the loops listed, for the instruction of `size` bytes at `pc` (R127). Of an EXT pair, the loops that end at its
two words are tested in one list (log 55). -/
def Ctx.endTests (pc : Word) (size : Nat) : List (Fin 3) → Ctx → Ctx
  | [], c => { c with pc := pc + BitVec.ofNat 64 size }
  | n :: ns, c =>
    if c.loopEndsIn n pc size then
      if 1 < (c.ctl.lc.get n).toInt then { c.countLoop n with pc := c.ctl.ls.get n }
      else Ctx.endTests pc size ns ((c.countLoop n).exitLoop n)
    else Ctx.endTests pc size ns c

/-- The sequencer's step after a body word (R58, R61). A frame whose J a handler has written above KM1 ends after this pass
(log 111). -/
def Ctx.frameNext (c : Ctx) : Ctx :=
  let r := c.ctl
  let j := rptJ r.rptst
  let i := rptIdx r.rptst
  let n := rptN r.rptst
  if i < n then { c.modRptst (fun w => rptAt w j (i + 1) true) with pc := r.rptpc + BitVec.ofNat 64 (4 * (i + 1)) }
  else if j < rptKm1 r.rptst then { c.modRptst (fun w => rptAt w (j + 1) 0 true) with pc := r.rptpc }
  else { c.modRptst (fun w => rptAt w j i false) with frame := [], pc := r.rptpc + BitVec.ofNat 64 (4 * (n + 1)) }

/-- The next program counter after an instruction of `size` bytes that does not transfer. A frame makes no loop test. -/
def Ctx.sequential (c : Ctx) (size : Nat) : Ctx :=
  if c.frame.isEmpty then Ctx.endTests c.pc size c.loopOrder c else c.frameNext

/-- An instruction completes: `sw` is its switch marker, and the next may issue `gap` cycles after it, not in its own cycle (R17, R47). -/
def State.retireAfter (s : State) (sw : Bool) (size gap : Nat) : State :=
  s.modCtx fun c => { c.sequential size with parked := sw, nextIssue := s.cycle + Nat.max 1 gap, wait := none, afterSync := false }

/-- An instruction completes and the next may issue in the next cycle. -/
def State.retire (s : State) (sw : Bool) (size : Nat) : State := s.retireAfter sw size 1

/-- A transfer completes: the next instruction is at `target`, no earlier than 3 cycles after (R131). -/
def State.jump (s : State) (sw : Bool) (target : Word) : State :=
  s.modCtx fun c => { c with pc := target, parked := sw, nextIssue := s.cycle + 3, wait := none, afterSync := false }

/-- The instruction at this address, with its bytes, contains the end word of an active loop (R130). -/
def Ctx.atLoopEnd (c : Ctx) (size : Nat) : Bool := [0, 1, 2].any fun n => c.loopEndsIn n c.pc size

/-! ## Waiting (R152) -/

/-- The context's instruction waits in a kind and stage from a cycle on, with the registers that it read at its issue. -/
def Ctx.waiting (c : Ctx) (kind : WaitKind) (q : BitVec 8) (addr : Word) (cycle : Nat) : Wait :=
  match c.wait with
  | some w => { w with kind, q, addr, since := if w.kind = kind then w.since else cycle, delivered := none }
  | none => { kind, q, addr, since := cycle, delivered := none, x := c.x, v := c.v, p := c.p, instr := none, ready := 0 }

/-- The instruction waits: it has issued, and is tried again until it completes. -/
def State.block (s : State) (kind : WaitKind) (q : BitVec 8) (addr : Word) : State :=
  s.modCtx fun c =>
    match c.wait with
    | some _ => c
    | none => { c with wait := some (c.waiting kind q addr s.cycle), nextIssue := s.cycle + 1 }

/-- The instruction's wait enters a further stage, which `q` numbers. -/
def State.waitOn (s : State) (kind : WaitKind) (q : BitVec 8) (addr : Word) : State :=
  s.modCtx fun c => { c with wait := some (c.waiting kind q addr s.cycle), nextIssue := s.cycle + 1 }

/-- The value that a waiting instruction read when it first issued, or the register now (R49, R152). -/
def State.waitValue (s : State) (a : BitVec 5) : Word :=
  match s.ctx.wait with
  | some w => w.addr
  | none => s.readX a

/-- The instruction goes on once no outstanding access satisfies `p`; until then it waits, with the operand `v` that it
read when it first issued. -/
def State.whenDone (s : State) (p : Acc → Bool) (v : Word) (k : State → State) : State :=
  if s.accs.any p then s.block .other 0 v else k s

/-- An access of the issuing context that is no tagged load. -/
def State.mine (s : State) (a : Acc) : Bool :=
  decide (a.ctx = s.cur) && (match a.op with | .tagged _ => false | _ => true)

/-! ## The leader of a gang (R124) -/

/-- A register as a control transfer reads it: the leader's (R124). Another core's registers are a free value
(log 31); the two cores of a redundant pair hold the same ones (R160). -/
def State.leadX (s : State) (r : BitVec 5) : Word :=
  match s.core.gang with
  | some g => if g.leader || s.job.redun then s.readX r else if r = 0 then 0 else Config.leaderX s.cycle r
  | none => s.readX r

/-- A predicate as a control transfer reads it: the leader's (R124; log 31). -/
def State.leadP (s : State) (r : BitVec 3) : Word :=
  match s.core.gang with
  | some g => if g.leader || s.job.redun then s.readP r else Config.leaderP s.cycle r
  | none => s.readP r

/-! ## Returning from a trap (R148) -/

/-- The frame's words no longer being in the sequencer, INTRAP is cleared and the context goes on at `target`, no
earlier than 3 cycles after (R131, R164). -/
def State.returnTo (s : State) (sw : Bool) (target : Word) : State :=
  (s.modCtx fun c => { c with inTrap := false }).jump sw target

end Sys2Proof.Machine
end

