-- ==== Sys2Proof/Machine/Operands.lean ====
section
/-! DEFINITION. The operand forms: immediates and displacements with and without an EXT word (R36, R45), and memory
addresses (R187, R188). -/

namespace Sys2Proof.Machine

/-- Bytes of an instruction: 4, or 8 with its EXT word (R33, R44). -/
def extBytes {α : Type} (x : Option α) : Nat := if x.isSome then 8 else 4

/-- The immediate of format I: 13 bits signed, or 37 with an EXT word (R36, R45). -/
def immWord (i : BitVec 13) (x : Ext) : Word :=
  match x with
  | none => i.signExtend 64
  | some e => (e ++ i).signExtend 64

/-- The word displacement of format B: 23 bits signed, or 47 with an EXT word (R36, R45). -/
def dispWord (i : BitVec 23) (x : Ext) : Word :=
  match x with
  | none => i.signExtend 64
  | some e => (e ++ i).signExtend 64

/-- The byte displacement of a memory operand: 0, or the EXT word's signed 24 bits (R187). -/
def memDisp (x : Ext) : Word :=
  match x with
  | none => 0
  | some e => e.signExtend 64

/-- LEA's displacement: F[7:2] signed, or with the EXT word 30 bits signed (R116). -/
def leaDisp (d : BitVec 6) (x : Ext) : Word :=
  match x with
  | none => d.signExtend 64
  | some e => (e ++ d).signExtend 64

/-- HSTART's word displacement {A, F}: 13 bits signed, or 37 with an EXT word (R132). -/
def startDisp (i : BitVec 13) (x : Ext) : Word := immWord i x

/-- `base + index × 2^k + disp`, wrapped (R116, R188). -/
def effAddr (base index : Word) (k : BitVec 2) (disp : Word) : Word := base + index <<< k.toNat + disp

/-- The address of a memory operand (R188). -/
def State.address (s : State) (a b : BitVec 5) (k : BitVec 2) (x : Ext) : Word :=
  effAddr (s.readX a) (s.readX b) k (memDisp x)

/-- The target of a transfer `n` words from the address of its instruction (R36, R121). -/
def State.target (s : State) (n : Word) : Word := s.pc + n <<< 2

end Sys2Proof.Machine
end

