-- ==== Sys2Proof/Machine/Scalar.lean ====
section
/-! DEFINITION. Scalar integer and logic instructions (R108 to R113). -/

namespace Sys2Proof.Machine

/-- What every meaning answers. -/
abbrev Outcome : Type := Host.Outcome State Fault Refusal

/-- xD := `f` of xA and xB, with latency `lat` (R108, R131). -/
def State.binary (s : State) (sw : Bool) (d a b : BitVec 5) (lat : Nat) (f : Word → Word → Word) : State :=
  s.issue [.x a, .x b] [.x d] fun s => (s.writeX d (f (s.readX a) (s.readX b)) lat).retire sw 4

/-- xD := `f` of xA, for an instruction of `size` bytes (R108, R110, R131). -/
def State.unary (s : State) (sw : Bool) (d a : BitVec 5) (lat size : Nat) (f : Word → Word) : State :=
  s.issue [.x a] [.x d] fun s => (s.writeX d (f (s.readX a)) lat).retire sw size

/-- An operation on numbers of a type, wrapped or saturated (R108). -/
def typed2 (t : IntTy) (v : Variant) (op : Int → Int → Int) (a b : Word) : Word :=
  typedWord t v (op (extWord t a) (extWord t b))

/-- An operation on one number of a type (R108). -/
def typed1 (t : IntTy) (v : Variant) (op : Int → Int) (a : Word) : Word := typedWord t v (op (extWord t a))

/-- The low bits of a register that a type covers (R109). -/
def lowBits (t : IntTy) (a : Word) : Nat := a.toNat % 2 ^ t.width

/-- MIN (R109): a if a ≤ b, else b. -/
def minInt (a b : Int) : Int := if a ≤ b then a else b

/-- MAX (R109): a if a ≥ b, else b. -/
def maxInt (a b : Int) : Int := if b ≤ a then a else b

/-- ADD (R109). -/
def execAdd (sw : Bool) (d a b : BitVec 5) (t : IntTy) (v : Variant) (s : State) : Outcome :=
  .next (s.binary sw d a b 1 (typed2 t v (· + ·)))

/-- SUB (R109). -/
def execSub (sw : Bool) (d a b : BitVec 5) (t : IntTy) (v : Variant) (s : State) : Outcome :=
  .next (s.binary sw d a b 1 (typed2 t v (· - ·)))

/-- MUL (R109). -/
def execMul (sw : Bool) (d a b : BitVec 5) (t : IntTy) (v : Variant) (s : State) : Outcome :=
  .next (s.binary sw d a b 3 (typed2 t v (· * ·)))

/-- MULH (R109): bits [127:64] of the product. -/
def execMulh (sw : Bool) (d a b : BitVec 5) (t : IntTy) (s : State) : Outcome :=
  .next (s.binary sw d a b 4 (typed2 t .wrap fun a b => a * b / (2 : Int) ^ 64))

/-- DIV (R111). -/
def execDiv (sw : Bool) (d a b : BitVec 5) (t : IntTy) (s : State) : Outcome :=
  .next (s.binary sw d a b 26 (typed2 t .wrap quotient))

/-- REM (R111). -/
def execRem (sw : Bool) (d a b : BitVec 5) (t : IntTy) (s : State) : Outcome :=
  .next (s.binary sw d a b 26 (typed2 t .wrap remainder))

/-- AND (R109). -/
def execAnd (sw : Bool) (d a b : BitVec 5) (t : IntTy) (s : State) : Outcome :=
  .next (s.binary sw d a b 1 fun a b => typedWord t .wrap ((a &&& b).toNat : Int))

/-- OR (R109). -/
def execOr (sw : Bool) (d a b : BitVec 5) (t : IntTy) (s : State) : Outcome :=
  .next (s.binary sw d a b 1 fun a b => typedWord t .wrap ((a ||| b).toNat : Int))

/-- XOR (R109). -/
def execXor (sw : Bool) (d a b : BitVec 5) (t : IntTy) (s : State) : Outcome :=
  .next (s.binary sw d a b 1 fun a b => typedWord t .wrap ((a ^^^ b).toNat : Int))

/-- SHL (R112). -/
def execShl (sw : Bool) (d a b : BitVec 5) (t : IntTy) (s : State) : Outcome :=
  .next (s.binary sw d a b 1 fun a b => typedWord t .wrap (shlInt t a b))

/-- SHR (R112). -/
def execShr (sw : Bool) (d a b : BitVec 5) (t : IntTy) (s : State) : Outcome :=
  .next (s.binary sw d a b 1 fun a b => typedWord t .wrap (shrInt t a b))

/-- SRA (R112). -/
def execSra (sw : Bool) (d a b : BitVec 5) (t : IntTy) (s : State) : Outcome :=
  .next (s.binary sw d a b 1 fun a b => typedWord t .wrap (sraInt t a b))

/-- CLZ (R109). -/
def execClz (sw : Bool) (d a : BitVec 5) (t : IntTy) (s : State) : Outcome :=
  .next (s.unary sw d a 1 4 fun a => typedWord t .wrap (leadingZeros (lowBits t a) t.width : Nat))

/-- CTZ (R109). -/
def execCtz (sw : Bool) (d a : BitVec 5) (t : IntTy) (s : State) : Outcome :=
  .next (s.unary sw d a 1 4 fun a => typedWord t .wrap (trailingZeros (lowBits t a) t.width : Nat))

/-- POPC (R109). -/
def execPopc (sw : Bool) (d a : BitVec 5) (t : IntTy) (s : State) : Outcome :=
  .next (s.unary sw d a 1 4 fun a => typedWord t .wrap (popCount (lowBits t a) t.width : Nat))

/-- MIN (R109). -/
def execMin (sw : Bool) (d a b : BitVec 5) (t : IntTy) (s : State) : Outcome :=
  .next (s.binary sw d a b 1 (typed2 t .wrap minInt))

/-- MAX (R109). -/
def execMax (sw : Bool) (d a b : BitVec 5) (t : IntTy) (s : State) : Outcome :=
  .next (s.binary sw d a b 1 (typed2 t .wrap maxInt))

/-- BFX (R113). -/
def execBfx (sw : Bool) (d a b : BitVec 5) (t : IntTy) (s : State) : Outcome :=
  .next (s.binary sw d a b 1 (bfxWord t))

/-- BFI (R113): xD is a third source; the type is .s64. -/
def execBfi (sw : Bool) (d a b : BitVec 5) (_t : IntTy) (s : State) : Outcome :=
  .next (s.issue [.x a, .x b, .x d] [] fun s =>
    (s.writeX d (bfiWord (s.readX d) (s.readX a) (s.readX b)) 1).retire sw 4)

/-- ABS (R109). -/
def execAbs (sw : Bool) (d a : BitVec 5) (t : IntTy) (v : Variant) (s : State) : Outcome :=
  .next (s.unary sw d a 1 4 (typed1 t v fun a => |a|))

/-- ADDI (R110). -/
def execAddi (sw : Bool) (d a : BitVec 5) (imm : BitVec 13) (ext : Ext) (s : State) : Outcome :=
  .next (s.unary sw d a 1 (extBytes ext) (· + immWord imm ext))

/-- MULI (R110). -/
def execMuli (sw : Bool) (d a : BitVec 5) (imm : BitVec 13) (ext : Ext) (s : State) : Outcome :=
  .next (s.unary sw d a 3 (extBytes ext) (· * immWord imm ext))

/-- ANDI (R110). -/
def execAndi (sw : Bool) (d a : BitVec 5) (imm : BitVec 13) (ext : Ext) (s : State) : Outcome :=
  .next (s.unary sw d a 1 (extBytes ext) (· &&& immWord imm ext))

/-- ORI (R110). -/
def execOri (sw : Bool) (d a : BitVec 5) (imm : BitVec 13) (ext : Ext) (s : State) : Outcome :=
  .next (s.unary sw d a 1 (extBytes ext) (· ||| immWord imm ext))

/-- XORI (R110). -/
def execXori (sw : Bool) (d a : BitVec 5) (imm : BitVec 13) (ext : Ext) (s : State) : Outcome :=
  .next (s.unary sw d a 1 (extBytes ext) (· ^^^ immWord imm ext))

/-- SHLI (R110). -/
def execShli (sw : Bool) (d a : BitVec 5) (imm : BitVec 6) (s : State) : Outcome :=
  .next (s.unary sw d a 1 4 (· <<< imm.toNat))

/-- SHRI (R110). -/
def execShri (sw : Bool) (d a : BitVec 5) (imm : BitVec 6) (s : State) : Outcome :=
  .next (s.unary sw d a 1 4 (· >>> imm.toNat))

/-- SRAI (R110). -/
def execSrai (sw : Bool) (d a : BitVec 5) (imm : BitVec 6) (s : State) : Outcome :=
  .next (s.unary sw d a 1 4 (BitVec.sshiftRight · imm.toNat))

end Sys2Proof.Machine
end

