-- ==== Sys2Proof/Machine/Translate.lean ====
section
/-! DEFINITION. Where an address leads and whether an access may go there: the regions of R25 and R26, job membership
(R431), the phase rule (R23), claimed areas (R28), page tables and TLBs (R198 to R208), permissions (R202), determinism
regions (R209, R210), remote atomics (R203), and fetching an instruction (R33, R43, R150). -/

namespace Sys2Proof.Machine

/-- Why a check of R196 fails: cause, DETAIL without the lane, and the address it names. -/
structure AccessFault where
  cause : BitVec 8
  detail : BitVec 32
  addr : Word
  deriving DecidableEq, Repr

/-- What a kind of access needs (R196, R202): `own` asks for the own scratchpad; `atomic` is `some` for an atomic, and
says whether its operation is one of the host set (R203). -/
structure Access where
  read : Bool
  write : Bool
  exec : Bool
  perms : Bool
  phased : Bool
  claims : Bool
  own : Bool
  atomic : Option Bool
  deriving DecidableEq, Repr

/-- A load. -/
def Access.load : Access :=
  { read := true, write := false, exec := false, perms := true, phased := true, claims := true, own := false,
    atomic := none }

/-- A store. -/
def Access.store : Access := { Access.load with read := false, write := true }

/-- An atomic, whose operation is in the host set or not (R203). -/
def Access.rmw (host : Bool) : Access := { Access.load with write := true, atomic := some host }

/-- An instruction fetch (R202): no load or store, so neither R23 nor R28 refuses it. -/
def Access.fetch : Access := { Access.load with read := false, exec := true, phased := false, claims := false }

/-- The checks of FLUSH: the address and translation faults of a load (R195). -/
def Access.flush : Access := { Access.load with perms := false, phased := false, claims := false }

/-- A read that an instruction requires in the own scratchpad (R196). -/
def Access.ownLoad : Access := { Access.load with own := true }

/-- Where an access goes: the home key of its first byte, the core whose scratchpad it is, the leaf, and the base and size
of the page that it maps. -/
structure Place where
  key : Nat
  core : Option (BitVec 12)
  leaf : Option Word
  page : Nat × Nat
  deriving DecidableEq, Repr

/-! ## Untranslated addresses (R25, R26) -/

/-- The number of the core at position `p` of this core's cluster (R6). -/
def State.clusterCore (s : State) (p : Nat) : BitVec 12 := BitVec.ofNat 12 (s.core.num.toNat / 32 * 32 + p)

/-- This core's position within its cluster (R6). -/
def State.position (s : State) : Nat := s.core.num.toNat % 32

/-- This core's die (R6). -/
def State.die (s : State) : Nat := s.core.num.toNat / 768

/-- The regions of R25: a scratchpad by its position (`none` for the local window) with an offset, or translated. -/
inductive Region where
  | unassigned
  | scratch (pos : Option Nat) (off : Nat)
  | translated
  deriving DecidableEq, Repr

/-- The region of an address (R25). -/
def regionOf (a : Word) : Region :=
  let n := a.toNat
  if n < 0x80000 then .scratch none n
  else if n < 0x1000000 then .unassigned
  else if n < 0x2000000 then .scratch (some ((n - 0x1000000) / 0x80000)) (n % 0x80000)
  else if n < 0x100000000 then .unassigned
  else if n < 0x1000000000000 then .translated
  else .unassigned

/-- An address fault (R196). -/
def addressFault (detail : BitVec 32) (a : Word) : AccessFault := { cause := 0x03, detail, addr := a }

/-- The first check of R196: alignment, then the regions of the first and the last byte (R26). -/
def placeCheck (a : Word) (n align : Nat) : Except AccessFault Region :=
  if a.toNat % align ≠ 0 then .error (addressFault 3 a)
  else
    match regionOf a, regionOf (a + BitVec.ofNat 64 (n - 1)) with
    | .unassigned, _ => .error (addressFault 1 a)
    | _, .unassigned => .error (addressFault 1 a)
    | .translated, .translated => .ok .translated
    | .scratch p o, .scratch q _ => if p = q then .ok (.scratch p o) else .error (addressFault 2 a)
    | _, _ => .error (addressFault 2 a)

/-- The core whose scratchpad a position names; `none` is the local window. -/
def State.scratchCore (s : State) (pos : Option Nat) : BitVec 12 :=
  match pos with
  | none => s.core.num
  | some p => s.clusterCore p

/-- A run of scratchpad bytes touches a claimed area (R28): every core of the job has the same claims (R408). -/
def State.claimed? (s : State) (off n : Nat) : Bool := s.job.claims.any fun c => overlaps off n c.off c.bytes

/-- The checks of an access to a scratchpad (R196, R431): own scratchpad (DETAIL 6 whoever owns the other,
R181), membership, phase, claimed areas. -/
def State.scratchCheck (s : State) (acc : Access) (a : Word) (n : Nat) (pos : Option Nat) (off : Nat) :
    Except AccessFault Place :=
  let c := s.scratchCore pos
  if acc.own ∧ c ≠ s.core.num then .error (addressFault 6 a)
  else if c ≠ s.core.num ∧ ¬ (c ∈ s.job.cores) then .error (addressFault 5 a)
  else if acc.phased ∧ s.job.superstep ∧ c ≠ s.core.num then .error { cause := 0x07, detail := 0, addr := a }
  else if acc.claims ∧ s.claimed? off n then .error { cause := 0x06, detail := 0, addr := a }
  else .ok { key := scratchKey c.toNat off, core := some c, leaf := none, page := (0, 0) }

/-! ## Page tables (R198 to R201) -/

/-- The bytes of the page a leaf of a level maps (R198). -/
def pageBytes (level : Nat) : Nat := if level = 0 then 2 ^ 16 else if level = 1 then 2 ^ 21 else 2 ^ 26

/-- The index into the table of a level (R198). -/
def tableIndex (va level : Nat) : Nat :=
  match level with
  | 0 => natBits va 20 16
  | 1 => natBits va 25 21
  | 2 => natBits va 38 26
  | _ => natBits va 47 39

/-- FRAME as address bits [47:16] (R199). -/
def leafFrame (w : Word) : Nat := natBits w.toNat 47 16 * 2 ^ 16
/-- APT (R199). -/
def leafApt (w : Word) : Nat := natBits w.toNat 7 6
/-- RGN (R199). -/
def leafRgn (w : Word) : Nat := natBits w.toNat 63 56

/-- A leaf at a level breaks a rule of R199 or R201. -/
def leafMalformed (w : Word) (level : Nat) : Bool :=
  decide (level = 3) || decide (natBits w.toNat 5 4 ≠ level) || decide (natBits w.toNat 55 52 ≠ 0)
    || decide (natBits w.toNat 15 8 ≠ 0) || decide (natBits w.toNat 3 2 ≠ 0)
    || decide (leafFrame w % pageBytes level ≠ 0)
    || (decide (leafApt w = 0) && decide (natBits w.toNat 47 38 ≠ 0))
    || (decide (leafApt w = 1) && decide (natBits w.toNat 47 40 ≠ 0))

/-- A pointer entry breaks a rule of R199. -/
def pointerMalformed (w : Word) : Bool := decide (natBits w.toNat 63 40 ≠ 0) || decide (natBits w.toNat 7 2 ≠ 0)

/-- How a walk ends (R200). -/
inductive WalkEnd where
  | leaf (level : Nat) (w : Word)
  | fault (level reason : Nat)
  deriving DecidableEq, Repr

/-- What one entry decides, given the walk from the next level down (R200). -/
def walkEntry (level : Nat) (w : Word) (next : WalkEnd) : WalkEnd :=
  if w.getLsbD 0 = false then .fault level 0
  else if w.getLsbD 1 then (if leafMalformed w level then .fault level 1 else .leaf level w)
  else if level = 0 ∨ pointerMalformed w then .fault level 1
  else next

/-- The entry of the table at `table` that a walk reads at a level: a relaxed .dev load of module HBM (R200). Of an uncorrectable line it takes the
stored bytes (log 38). -/
def tableEntry (m : List Host.Cell) (table va level : Nat) : Word :=
  bitsOfBytes 64 (Memory.read m (Config.hbmBase + table + 8 * tableIndex va level) 8)

/-- A walk from a level downwards (R200). The index is added to a NEXT that is not 64 KiB-aligned as it stands (log 125). -/
def walkFrom (m : List Host.Cell) (va : Nat) : Nat → Nat → WalkEnd
  | 0, table => walkEntry 0 (tableEntry m table va 0) (.fault 0 1)
  | level + 1, table =>
    let w := tableEntry m table va (level + 1)
    walkEntry (level + 1) w (walkFrom m va level (natBits w.toNat 39 8 * 2 ^ 8))

/-- The physical key of an address under a leaf (R201): aperture 0 is the HBM of the issuing die. -/
def leafKey (die : Nat) (w : Word) (level va : Nat) : Nat :=
  let off := va % pageBytes level
  match leafApt w with
  | 0 => Config.hbmBase + die * 2 ^ 38 + leafFrame w % 2 ^ 38 + off
  | 1 => Config.hbmBase + leafFrame w % 2 ^ 40 + off
  | 2 => Config.peerBase + leafFrame w + off
  | _ => Config.hostBase + leafFrame w + off

/-- The aperture's target is absent or down, or does not answer (R201, R424): the port that serves a peer device is a free value
(log 32). -/
def State.targetAbsent (s : State) (w : Word) : Bool :=
  match leafApt w with
  | 2 => decide (Config.luralPort (natBits w.toNat 47 40) ∈ s.dev.luralDown) || decide (natBits w.toNat 47 40 ∈ s.dev.peersDown)
  | 3 => !s.dev.hostLink
  | _ => false

/-! ## Translation caching (R204, R208) -/

/-- The cached entry that covers an address. -/
def tlbFind (l : List TlbEntry) (va : Nat) : Option TlbEntry :=
  l.find? fun e => decide (va / pageBytes e.level = e.va / pageBytes e.level)

/-- A TLB of `cap` entries filled with one more: the oldest goes when it is full (log 33). -/
def tlbFill (cap : Nat) (l : List TlbEntry) (e : TlbEntry) : List TlbEntry :=
  if e ∈ l then l else if cap ≤ l.length then l.drop 1 ++ [e] else l ++ [e]

/-- The die whose HBM holds a physical address (R30). -/
def dieOf (pa : Nat) : Nat := pa / 2 ^ 38

/-- The cycles of the level reads of a walk that ends at a level (R212): its root and tables are on the issuing die or
another. -/
def walkTime (m : List Host.Cell) (die va : Nat) : Nat → Nat → Nat
  | 0, table => if dieOf table = die then 220 else 340
  | level + 1, table =>
    let w := tableEntry m table va (level + 1)
    (if dieOf table = die then 220 else 340) +
      (if w.getLsbD 0 && !w.getLsbD 1 && !pointerMalformed w then
        walkTime m die va level (natBits w.toNat 39 8 * 2 ^ 8) else 0)

/-- What a translation finds: the entry used, or the fault, and the cycles that it takes (R212). -/
structure Translation where
  found : Except AccessFault TlbEntry
  time : Nat

/-- A translation fault (R196). -/
def translationFault (level reason : Nat) (a : Word) : AccessFault :=
  { cause := 0x04, detail := BitVec.ofNat 32 (level + reason * 16), addr := a }

/-- The dies on which a job has cores (R6). -/
def jobDies (cores : List (BitVec 12)) : List Nat := (cores.map fun c => c.toNat / 768).dedup

/-- The frames that a leaf maps, with its region: those of aperture 0 on each die of the job (R201, R209). -/
def leafFrames (dies : List Nat) (w : Word) (level : Nat) : List (Nat × Nat × Nat) :=
  if leafRgn w = 0 then [] else (dies.map fun d => (leafKey d w level 0, pageBytes level, leafRgn w)).dedup

/-- A walk's leaf joins the reverse map when its RGN is not 0 (R209). -/
def State.noteFrame (s : State) (e : TlbEntry) : State :=
  { s with revmap := s.revmap ++ (leafFrames (jobDies s.job.cores) e.leaf e.level).filter fun x => !decide (x ∈ s.revmap) }

/-- A walk for an address, installing what it finds in every TLB (R200, R204). A walk that faults installs nothing. -/
def State.walkFor (s : State) (a : Word) : State × Translation :=
  let va := a.toNat
  let t := 48 + walkTime s.mem s.die va 3 s.job.root.toNat
  let s1 := (s.count 11).count 12
  match walkFrom s.mem va 3 s.job.root.toNat with
  | .fault level reason => (s1, { found := .error (translationFault level reason a), time := t })
  | .leaf level w =>
    if s.targetAbsent w then (s1, { found := .error (translationFault level 2 a), time := t })
    else
      let e : TlbEntry := { va := va / pageBytes level * pageBytes level, level, leaf := w }
      ({ s1.noteFrame e with
          micro := tlbFill Config.microTlb s.micro e,
          clutlb := tlbFill Config.clusterTlb s.clutlb e,
          lasttlb := tlbFill Config.lastTlb s.lasttlb e },
        { found := .ok e, time := t })

/-- A cached entry whose target is absent or down faults as a walk would (R201). -/
def State.presentOr (s : State) (e : TlbEntry) (a : Word) : Except AccessFault TlbEntry :=
  if s.targetAbsent e.leaf then .error (translationFault e.level 2 a) else .ok e

/-- The translation of a translated address: the micro-TLB, the cluster TLB, the last-level TLB, then a walk (R204). -/
def State.translate (s : State) (a : Word) : State × Translation :=
  match tlbFind s.micro a.toNat with
  | some e => (s, { found := s.presentOr e a, time := 0 })
  | none =>
    match tlbFind s.clutlb a.toNat with
    | some e => ({ s with micro := tlbFill Config.microTlb s.micro e }, { found := s.presentOr e a, time := 10 })
    | none =>
      match tlbFind s.lasttlb a.toNat with
      | some e =>
        ({ s with micro := tlbFill Config.microTlb s.micro e, clutlb := tlbFill Config.clusterTlb s.clutlb e },
          { found := s.presentOr e a, time := 48 })
      | none => s.walkFor a

/-! ## Permissions and regions (R202, R203, R209, R210) -/

/-- A permission fault (R196). -/
def permissionFault (detail : Nat) (a : Word) : AccessFault :=
  { cause := 0x05, detail := BitVec.ofNat 32 detail, addr := a }

/-- A writer code allows a core (R210). -/
def codeAllowsCore (code : Nat) (core : Nat) : Bool :=
  decide (code / 2 ^ 14 = 3) || (decide (code / 2 ^ 14 = 1) && decide (code % 2 ^ 12 = core))

/-- A writer code allows the host (R209, R210). -/
def codeAllowsHost (code : Nat) : Bool := decide (2 ≤ code / 2 ^ 14)

/-- The writer code of a region entry for a phase (R209, R211): `exchange` is read for a superstep job only. -/
def writerCode (entry : BitVec 48) (superstep exchange : Bool) : Nat :=
  if superstep then (if exchange then natBits entry.toNat 31 16 else natBits entry.toNat 15 0)
  else natBits entry.toNat 47 32

/-- The region entry loaded for the job (R210): OWN = 1 when it is listed. -/
def State.region (s : State) (r : Nat) : Option (BitVec 48) := (s.regions.find? fun x => x.1 = r).map (·.2)

/-- The region check of a write by this core in a phase (R209); the writes of a redundant pair leave from its leader (R160). -/
def State.regionAllows (s : State) (r : Nat) (exchange : Bool) : Bool :=
  if r = 0 then true
  else
    match s.region r with
    | some e => codeAllowsCore (writerCode e s.job.superstep exchange) s.sender.toNat
    | none => false

/-- The checks of a translated access after its translation (R196): permission, region, remote atomic. `exchange` is the
phase the write is judged in (R209). -/
def State.leafCheck (s : State) (acc : Access) (w : Word) (a : Word) (exchange : Bool) : Except AccessFault Unit :=
  if acc.perms ∧ acc.read ∧ w.getLsbD 48 = false then .error (permissionFault 0 a)
  else if acc.perms ∧ acc.write ∧ w.getLsbD 49 = false then .error (permissionFault 1 a)
  else if acc.perms ∧ acc.exec ∧ w.getLsbD 50 = false then .error (permissionFault 2 a)
  else if acc.write ∧ s.regionAllows (leafRgn w) exchange = false then
    .error (permissionFault (1 + 2 ^ 8 + leafRgn w * 2 ^ 16) a)
  else
    match acc.atomic with
    | none => .ok ()
    | some host =>
      if leafApt w ≠ 0 ∧ w.getLsbD 51 = false then
        .error { cause := 0x0A, detail := BitVec.ofNat 32 (leafApt w), addr := a }
      else if leafApt w = 3 ∧ host = false then .error { cause := 0x0A, detail := 7, addr := a }
      else .ok ()

/-- An access checked under R196: the TLBs it leaves, where it goes or why it may not, and the trap-check hold of R212.
`exchange` is the phase of R209. -/
def State.check (s : State) (acc : Access) (a : Word) (n align : Nat) (exchange : Bool) :
    State × Except AccessFault Place × Nat :=
  match placeCheck a n align with
  | .error f => (s, .error f, 1)
  | .ok .translated =>
    if acc.own then (s, .error (addressFault 6 a), 1)
    else if acc.phased ∧ s.job.superstep then (s, .error { cause := 0x07, detail := 0, addr := a }, 1)
    else
      match s.translate a with
      | (s1, t) =>
        match t.found with
        | .error f => (s1, .error f, t.time)
        | .ok e =>
          match s1.leafCheck acc e.leaf a exchange with
          | .error f => (s1, .error f, t.time)
          | .ok () =>
            (s1, .ok { key := leafKey s.die e.leaf e.level a.toNat, core := none, leaf := some e.leaf, page := (e.va, pageBytes e.level) },
              t.time)
  | .ok (.scratch pos off) => (s, s.scratchCheck acc a n pos off, 1)
  | .ok .unassigned => (s, .error (addressFault 1 a), 1)

/-- A fault of R196 is a violation unless it is a translation fault; a scope that R282 does not pair with the address is none
either (R11). -/
def AccessFault.isViolation (f : AccessFault) : Bool := decide (f.cause ≠ 0x04) && decide (f.cause ≠ 0x02)

/-- The trap of a failing check, logged when it is a violation; it is raised when the check completes (R51, R196). -/
def State.trapAccess (s : State) (f : AccessFault) (hold : Nat) : State :=
  s.raiseAfter { TrapInfo.at s.pc f.cause f.detail f.addr with log := f.isViolation } hold

/-- An access of the issuing instruction: its trap, or the rest of the instruction at its place. -/
def State.access (s : State) (acc : Access) (a : Word) (n align : Nat) (k : State → Place → Nat → State) : State :=
  match s.check acc a n align s.exchange with
  | (t, .error f, h) => t.trapAccess f h
  | (t, .ok p, h) => k t p h

/-- The load time of R212 at a home key, after its translation; a line of HBM is in its home slice or not (log 122). -/
def State.loadTime (s : State) (key : Nat) : Nat :=
  if s.within .core key then 4
  else if s.within .clu key then 24
  else if Config.hostBase ≤ key then 4000
  else if Config.peerBase ≤ key then 3000
  else (if Config.sliceHit s.cycle key then 160 else 600) + (if dieOf key = s.die then 0 else 120)

/-! ## Uncorrectable data (R197) -/

/-- Uncorrectable data is logged with its address (R197, R433). -/
def State.logBad (s : State) (deferred : Bool) (source : Nat) (a : Word) : State :=
  s.logEntry true 2 0x18 s.source (badDetail deferred source) a

/-! ## Descriptors and tables in the own scratchpad -/

/-- The place of `n` bytes that an instruction reads in the own scratchpad at issue. -/
def State.checkOwn (s : State) (a : Word) (n align : Nat) : State × Except AccessFault Place :=
  match s.check .ownLoad a n align s.exchange with
  | (t, .error f, _) => (t, .error f)
  | (t, .ok p, _) => (t, .ok p)

/-- An instruction reads bytes of the own scratchpad at issue, after its context's earlier accesses to them (R304) and
behind the watermarks (R249); until then it waits, with the operand `v`. -/
def State.withOwn (s : State) (a : Word) (n align : Nat) (v : Word) (k : State → List Byte → State) : State :=
  match s.checkOwn a n align with
  | (t, .error f) => t.trapAccess f 1
  | (t, .ok p) =>
    if t.gated p.key n then t.block .other 0 v
    else
      t.whenDone (fun u => t.mine u && u.op.writes && !u.op.isStore && overlaps u.key u.len p.key n) v fun t =>
        k (t.dropEarly t.cur p.key n) (t.seen t.cur p.key n)

/-- The key of an address in either window onto the own scratchpad. -/
def State.ownKey (s : State) (a : Word) : Nat := scratchKey s.core.num.toNat (a.toNat % 0x80000)

/-- The span `a` to `a + n - 1` lies in one window of the own scratchpad and touches no claimed byte, or the fault with
its first failing byte (R257, R329). -/
def State.ownSpan (s : State) (a : Int) (n : Nat) : Option AccessFault :=
  let lo : Int := 0
  let own : Int := 0x1000000 + s.position * 0x80000
  let base : Option Int :=
    if lo ≤ a ∧ a < lo + 0x80000 then some lo else if own ≤ a ∧ a < own + 0x80000 then some own else none
  match base with
  | none =>
    some (addressFault (match regionOf (wrap64 a) with | .unassigned => 1 | _ => 6) (wrap64 a))
  | some b =>
    match (s.job.claims.filter fun c => overlaps (a - b).toNat n c.off c.bytes).map fun c => Nat.max (a - b).toNat c.off with
    | x :: xs => some { cause := 0x06, detail := 0, addr := wrap64 (b + (xs.foldl Nat.min x : Nat)) }
    | [] => if b + 0x80000 < a + n then some (addressFault 2 (wrap64 (b + 0x80000))) else none

/-! ## Fetching an instruction (R33, R43, R150, R202) -/

/-- The instruction cache holds 512 lines of 64 bytes; the oldest goes when it is full (log 33). -/
def icacheFill (l : List (Nat × List Byte)) (k : Nat) (bs : List Byte) : List (Nat × List Byte) :=
  if 512 ≤ l.length then l.drop 1 ++ [(k, bs)] else l ++ [(k, bs)]

/-- The line of a home key, from the instruction cache or from memory; caches do not snoop stores (R147, R150). -/
def State.fetchLine (s : State) (k : Nat) : State × List Byte :=
  match s.icache.find? fun l => l.1 = k with
  | some l => (s, l.2)
  | none =>
    let bs := s.peek k 64
    ({ s with icache := icacheFill s.icache k bs }, bs)

/-- The core that leads: of a gang the one at its lowest position, else this core (R20, R138, R160). -/
def State.leader (s : State) : BitVec 12 :=
  match s.core.gang with
  | some g => s.clusterCore (s.position / g.n * g.n)
  | none => s.core.num

/-- The place of a word of code: the members of a gang fetch their leader's instructions, so the local window is the leader's
(R20). -/
def State.fetchPlace (s : State) (a : Word) : State × Except AccessFault Place :=
  match ({ s with core := { s.core with num := s.leader } } : State).check .fetch a 4 4 s.exchange with
  | (t, r, _) => ({ t with core := { t.core with num := s.core.num } }, r)

/-- The four bytes of a word of code. -/
def State.fetchBytes (s : State) (a : Word) : State × Except AccessFault (List Byte) :=
  match s.fetchPlace a with
  | (s1, .error f) => (s1, .error f)
  | (s1, .ok p) =>
    let (s2, bs) := s1.fetchLine (p.key / 64 * 64)
    (s2, .ok ((bs.drop (p.key % 64)).take 4))

/-- The bytes of the instruction at an address: a second word only after an EXT (R44, R46). -/
def State.fetchAt (s : State) (a : Word) : State × Except AccessFault (List Byte) :=
  match s.fetchBytes a with
  | (s1, .error f) => (s1, .error f)
  | (s1, .ok bs) =>
    if isExt (bitsOfBytes 32 bs) then
      match s1.fetchBytes (a + 4) with
      | (s2, .error f) => (s2, .error f)
      | (s2, .ok cs) => (s2, .ok (bs ++ cs))
    else (s1, .ok bs)

/-- A fetch fault: a precise trap at the word's address, or at the EXT's (R43, R122). -/
def State.trapFetch (s : State) (f : AccessFault) : State :=
  let t := if f.isViolation then s.violation f.cause f.detail f.addr else s
  t.raise { TrapInfo.at s.pc f.cause f.detail f.addr with fetch := true }

end Sys2Proof.Machine
end

