-- ==== Sys2Proof/Machine/Issue.lean ====
section
/-! DEFINITION. Which context issues (R17), what it issues (R33, R43, R58), and the traps taken at its boundary (R149,
R197). -/

namespace Sys2Proof.Machine

/-! ## Stepping a captured word (R57, R58) -/

/-- A captured instruction with the offsets of its D, A and B fields added where they name x or v registers (R58);
`none` where it is not capturable (R57). -/
def stepped (dd da db : BitVec 5) : Instr → Option Instr
  | .add s d a b t v => some (.add s (d + dd) (a + da) (b + db) t v)
  | .addi s d a i x => some (.addi s (d + dd) (a + da) i x)
  | .sub s d a b t v => some (.sub s (d + dd) (a + da) (b + db) t v)
  | .mul s d a b t v => some (.mul s (d + dd) (a + da) (b + db) t v)
  | .muli s d a i x => some (.muli s (d + dd) (a + da) i x)
  | .mulh s d a b t => some (.mulh s (d + dd) (a + da) (b + db) t)
  | .div s d a b t => some (.div s (d + dd) (a + da) (b + db) t)
  | .rem s d a b t => some (.rem s (d + dd) (a + da) (b + db) t)
  | .and s d a b t => some (.and s (d + dd) (a + da) (b + db) t)
  | .andi s d a i x => some (.andi s (d + dd) (a + da) i x)
  | .or s d a b t => some (.or s (d + dd) (a + da) (b + db) t)
  | .ori s d a i x => some (.ori s (d + dd) (a + da) i x)
  | .xor s d a b t => some (.xor s (d + dd) (a + da) (b + db) t)
  | .xori s d a i x => some (.xori s (d + dd) (a + da) i x)
  | .shl s d a b t => some (.shl s (d + dd) (a + da) (b + db) t)
  | .shli s d a i => some (.shli s (d + dd) (a + da) i)
  | .shr s d a b t => some (.shr s (d + dd) (a + da) (b + db) t)
  | .shri s d a i => some (.shri s (d + dd) (a + da) i)
  | .sra s d a b t => some (.sra s (d + dd) (a + da) (b + db) t)
  | .srai s d a i => some (.srai s (d + dd) (a + da) i)
  | .clz s d a t => some (.clz s (d + dd) (a + da) t)
  | .ctz s d a t => some (.ctz s (d + dd) (a + da) t)
  | .popc s d a t => some (.popc s (d + dd) (a + da) t)
  | .min s d a b t => some (.min s (d + dd) (a + da) (b + db) t)
  | .max s d a b t => some (.max s (d + dd) (a + da) (b + db) t)
  | .bfx s d a b t => some (.bfx s (d + dd) (a + da) (b + db) t)
  | .bfi s d a b t => some (.bfi s (d + dd) (a + da) (b + db) t)
  | .abs s d a t v => some (.abs s (d + dd) (a + da) t v)
  | .mov s d a => some (.mov s (d + dd) (a + da))
  | .movFromLoop s d n r => some (.movFromLoop s (d + dd) n r)
  | .movToLoop s n a r => some (.movToLoop s n (a + da) r)
  | .movi s d i x => some (.movi s (d + dd) i x)
  | .lea s d a b disp k x => some (.lea s (d + dd) (a + da) (b + db) disp k x)
  | .slt s d a b t => some (.slt s (d + dd) (a + da) (b + db) t)
  | .slti s d a i x => some (.slti s (d + dd) (a + da) i x)
  | .seq s d a b t => some (.seq s (d + dd) (a + da) (b + db) t)
  | .seqi s d a i x => some (.seqi s (d + dd) (a + da) i x)
  | .sel s d a b p => some (.sel s (d + dd) (a + da) (b + db) p)
  | .pcmp s d a b t c => some (.pcmp s d (a + da) (b + db) t c)
  | .plog s d a b t => some (.plog s d a b t)
  | .pmovToPredicate s d a => some (.pmovToPredicate s d (a + da))
  | .pmovFromPredicate s d a => some (.pmovFromPredicate s (d + dd) a)
  | .pcnt s d a t => some (.pcnt s (d + dd) a t)
  | .vadd s d a b t m x => some (.vadd s (d + dd) (a + da) (b + db) t m x)
  | .vsub s d a b t m x => some (.vsub s (d + dd) (a + da) (b + db) t m x)
  | .vmul s d a b t m x => some (.vmul s (d + dd) (a + da) (b + db) t m x)
  | .vfma s d a b t m x => some (.vfma s (d + dd) (a + da) (b + db) t m x)
  | .vmin s d a b t m x => some (.vmin s (d + dd) (a + da) (b + db) t m x)
  | .vmax s d a b t m x => some (.vmax s (d + dd) (a + da) (b + db) t m x)
  | .vabs s d a t m x => some (.vabs s (d + dd) (a + da) t m x)
  | .vand s d a b t m x => some (.vand s (d + dd) (a + da) (b + db) t m x)
  | .vor s d a b t m x => some (.vor s (d + dd) (a + da) (b + db) t m x)
  | .vxor s d a b t m x => some (.vxor s (d + dd) (a + da) (b + db) t m x)
  | .vshl s d a b t m x => some (.vshl s (d + dd) (a + da) (b + db) t m x)
  | .vshr s d a b t m x => some (.vshr s (d + dd) (a + da) (b + db) t m x)
  | .vcmp s d a b t c x => some (.vcmp s d (a + da) (b + db) t c x)
  | .vsel s d a b t p x => some (.vsel s (d + dd) (a + da) (b + db) t p x)
  | .vshuf s d a b t f x => some (.vshuf s (d + dd) (a + da) (if f.usesB then b + db else b) t f x)
  | .vperm s d a b t m x => some (.vperm s (d + dd) (a + da) (b + db) t m x)
  | .vbcast s d a t m x => some (.vbcast s (d + dd) (a + da) t m x)
  | .vred s d a op t m x => some (.vred s (d + dd) (a + da) op t m x)
  | .vcvt s d a st dt k x => some (.vcvt s (d + dd) (a + da) st dt k x)
  | .vmovxExtract s d a b t x => some (.vmovxExtract s (d + dd) (a + da) (b + db) t x)
  | .vmovxInsert s d a b t x => some (.vmovxInsert s (d + dd) (a + da) (b + db) t x)
  | .vrcp s d a t m x => some (.vrcp s (d + dd) (a + da) t m x)
  | .vrsq s d a t m x => some (.vrsq s (d + dd) (a + da) t m x)
  | .vinterp s d a n m x => some (.vinterp s (d + dd) (a + da) n m x)
  | _ => none

/-- The offset of a field in execution `j` of a frame (R58). -/
def strideAt (j stride : Nat) : BitVec 5 := BitVec.ofNat 5 (j * stride)

/-- The instruction that the sequencer runs: the captured word at IDX, stepped for execution J (R58), in a gang those of the
leader (R124). Where a handler has written an RPTST with IDX above N, no word was captured there, and the context meets the
undefined instruction at RPTPC + 4 × IDX (log 111). -/
def Ctx.frameInstr (c : Ctx) : Instr :=
  match decodeWord (c.frame.getD (rptIdx c.ctl.rptst) 0) with
  | .ok i =>
    (stepped (strideAt (rptJ c.ctl.rptst) (rptSd c.ctl.rptst)) (strideAt (rptJ c.ctl.rptst) (rptSa c.ctl.rptst))
      (strideAt (rptJ c.ctl.rptst) (rptSb c.ctl.rptst)) i).getD .undefinedInstruction
  | .error _ => .undefinedInstruction

/-! ## Capturing a frame's words (R57 to R61) -/

/-- A body word is capturable (R57), undefined (R43), or another instruction. -/
inductive BodyWord where
  | good
  | undefined
  | other
  deriving DecidableEq, Repr

/-- What a body word is (R57, R59). -/
def bodyWord (w : Word32) : BodyWord :=
  match decodeWord w with
  | .error e => if isExt w then .other else (fun _ => .undefined) e
  | .ok i => if (stepped 0 0 0 i).isSome then .good else .other

/-- Why a frame cannot be captured: the trap's cause and DETAIL, whether it is a fetch fault, and the word's address. -/
structure FrameFault where
  cause : BitVec 8
  detail : BitVec 32
  fetch : Bool
  addr : Word
  deriving DecidableEq, Repr

/-- The words from `a` upwards, fetched and checked one after another (R58, R59). A word at the end of an active loop is found in its place
among them, after its own fetch and capturability and before the words after it: R59 gives no order there (DESIGN CHOICE, log 126). -/
def State.capture (s : State) (a : Word) : Nat → State × Except FrameFault (List Word32)
  | 0 => (s, .ok [])
  | n + 1 =>
    match s.fetchBytes a with
    | (t, .error f) => (t, .error { cause := f.cause, detail := f.detail, fetch := true, addr := a })
    | (t, .ok bs) =>
      let w := bitsOfBytes 32 bs
      match bodyWord w with
      | .undefined => (t, .error { cause := 0x01, detail := 0, fetch := false, addr := a })
      | .other => (t, .error { cause := 0x02, detail := 0, fetch := false, addr := a })
      | .good =>
        if ([0, 1, 2] : List (Fin 3)).any fun m => t.ctx.loopEndsIn m a 4 then
          (t, .error { cause := 0x02, detail := 0, fetch := false, addr := a })
        else
          match State.capture t (a + 4) n with
          | (u, .error f) => (u, .error f)
          | (u, .ok ws) => (u, .ok (w :: ws))

/-- The trap of a frame that cannot be captured, precise at `pc`: TRAPREC3 names the body word (R59, R61). -/
def State.trapFrame (s : State) (pc : Word) (f : FrameFault) : State :=
  let t := if f.fetch && decide (f.cause ≠ 0x04) then s.violation f.cause f.detail f.addr else s
  t.raise { TrapInfo.at pc f.cause f.detail f.addr with fetch := f.fetch }

/-- Cycles of fetching n words (R63). -/
def fetchCycles (n : Nat) : Nat := (n + 3) / 4

/-- The frame is resumed at execution J, word IDX: the words are fetched and checked again (R61), which takes its cycles before that word issues
(R63). -/
def State.resumeFrame (s : State) : State :=
  let here := s.ctx.ctl.rptpc + BitVec.ofNat 64 (4 * rptIdx s.ctx.ctl.rptst)
  let n := rptN s.ctx.ctl.rptst + 1
  match s.capture s.ctx.ctl.rptpc n with
  | (t, .error f) => (t.modCtx fun c => { c with pc := here }).trapFrame here f
  | (t, .ok ws) => t.modCtx fun c => { c with frame := ws, pc := here, nextIssue := Nat.max c.nextIssue s.cycle + fetchCycles n }

/-! ## Which context issues (R17) -/

/-- Every outstanding write of the context has been performed by this cycle (R47). -/
def Ctx.settled (c : Ctx) (cycle : Nat) : Bool :=
  c.writes.all fun w => match w.due with | some d => decide (d ≤ cycle) | none => false

/-- The context goes on although it is to stop at its next boundary: it has a packet open (R152), a trap to take (R149), a take
whose value it has been given (R291), or a vector form of the pigeonholes under way (R378). -/
def Ctx.mustRun (c : Ctx) : Bool :=
  decide (c.send.sst = 2) || c.trapping.isSome || c.ph.isSome || c.wait.any fun w => w.delivered.isSome

/-- The park of a switch marker is over, and a trap that waits can be taken: the context's writes are performed, and those of the
other members of a gang (R47, R52, R140). -/
def State.unparked (s : State) (c : Ctx) : Bool :=
  (!(c.parked || c.trapping.isSome) || c.settled s.cycle)
    && (!c.parked || s.core.gang.all fun g => decide (g.parks ≤ s.cycle))

/-- A fault that is to be taken at the context's next boundary is on its way to it (R197, R344): the context does not pass the boundary before. -/
def State.faultDue (s : State) (n : Fin 11) : Bool :=
  s.agenda.any fun e =>
    match e with
    | .matrixResidueFault c _ _ _ => decide (c = n)
    | .deferredUncorrectable c _ _ _ _ => decide (c = n)
    | _ => false

/-- The context may go on in this cycle: it is live and not parked. Pre-emption and teardown stop it at its next
boundary (R152, R414), and a debug stop does (R418), but a trap that has been raised is taken first (R149). -/
def State.mayGo (s : State) (n : Fin 11) : Bool :=
  let c := s.ctxAt n
  c.live && !c.ending && !c.paused && decide (c.nextIssue ≤ s.cycle) && s.unparked c && !s.faultDue n
    && (!(s.job.evicted || s.job.stopping) || c.mustRun) && decide (s.dev.power = .d0)
    && (!(s.claimed && s.dev.dbgStopped) || decide (s.dev.dbgStep = some n) || c.trapping.isSome)

/-- A trap due at the context's next boundary is taken there: a handler holds it back (R197, R344, R431), but not MISSED, which R356 does not
hold (R145). -/
def Ctx.dueNow (c : Ctx) (t : TrapInfo) : Bool := !c.inTrap || decide (t.cause = 0x0E)

/-- The context has something to do that takes no issue slot: its instruction has issued and waits for a resource (R17), a trap waits, one
is due at its boundary (R197; one that finds the context waiting stays until the wait is over), or its frame is to be fetched
again (R61). -/
def Ctx.busy (c : Ctx) : Bool := c.wait.isSome || c.trapping.isSome || c.refetch || c.deferred.any c.dueNow

/-- The context is served in this cycle, without an issue slot. -/
def State.attends (s : State) (n : Fin 11) : Bool := s.mayGo n && (s.ctxAt n).busy

/-- The context may issue in this cycle (R17). -/
def State.readyAt (s : State) (n : Fin 11) : Bool := s.mayGo n && !(s.ctxAt n).busy

/-- The search order of R17: from the context above the last that issued, wrapping from 10 to 0. -/
def State.order (s : State) : List (Fin 11) :=
  (List.range 11).map fun i => Fin.ofNat 11 (s.core.last.val + 1 + i)

/-- What a context does next. -/
inductive Next where
  | run (i : Instr) (s : State)
  | done (s : State)
  deriving DecidableEq, Repr

/-- The state acting for context `n`, whose results due have arrived (R48). -/
def State.resume (s : State) (n : Fin 11) : State := (s.focus n).modCtx fun c => c.settle s.cycle

/-- The job's first instruction issues now, if none has (R412). -/
def Job.begins (j : Job) (now : Word) : Job := if j.began then j else { j with began := true, startTime := now }

/-- The state as context `n` begins to issue: results due have arrived and the park is over (R47, R48). -/
def State.begin (s : State) (n : Fin 11) : State :=
  let t := (s.resume n).modCtx fun c => { c with parked := false }
  { t with core := { t.core with last := n }, job := t.job.begins t.dev.devtime }

/-- The instruction at the pc, fetched and decoded; a word that is none is the undefined instruction (R43). -/
def State.fetchNext (s : State) : Next :=
  match s.fetchAt s.pc with
  | (t, .error f) => .done (t.trapFetch f)
  | (t, .ok bs) =>
    match decodeBytes bs with
    | .ok (i, _) => .run i t
    | .error _ => .run .undefinedInstruction t

/-- The position of the member of the gang that traps in this cycle (R144; log 34). -/
def State.gangStop (s : State) : Option Nat :=
  match s.core.gang, s.cur with
  | some g, 0 => (g.stops.find? fun p => decide (p.1 ≤ s.cycle)).map (·.2)
  | _, _ => none

/-- That trap is no longer pending. -/
def State.dropStop (s : State) : State :=
  s.modCore fun c => { c with gang := c.gang.map fun g => { g with stops := g.stops.eraseP fun p => decide (p.1 ≤ s.cycle) } }

/-- The instruction that leads from one state to the other has trapped, or is held for a check that fails (R51). -/
def trapped (before after : State) : Bool :=
  after.ctx.trapping.isSome || (after.ctx.inTrap && !before.ctx.inTrap) || (before.ctx.live && !after.ctx.live)

/-- An instruction that traps on another member of the gang is not performed: cause 0x17 with that member's position, unless this
member traps at it too (R144). -/
def State.withGang (before after : State) : State :=
  match before.gangStop with
  | none => after
  | some pos => if trapped before after then after.dropStop else before.dropStop.trapHere 0x17 (BitVec.ofNat 32 pos) 0

/-- What context `n` issues: the repeat frame's word or the fetched instruction. -/
def State.select (s : State) (n : Fin 11) : Next :=
  let t := s.begin n
  if t.ctx.frame.isEmpty then t.fetchNext else .run t.ctx.frameInstr t

/-- A trap of the context is taken: one that waits for earlier writes or for the end of a check (R51, R140), else one due at this
boundary (R197). -/
def State.dueTrap (s : State) : Option State :=
  match s.ctx.trapping with
  | some tr => some ((s.modCtx fun c => { c with trapping := none }).raise tr)
  | none =>
    (s.ctx.deferred.find? s.ctx.dueNow).map fun d =>
      (s.modCtx fun c => { c with deferred := c.deferred.erase d }).raise { d with ret := s.pc }

/-- What an attended context does: its waiting instruction is tried again, its trap is taken, or its frame is fetched. -/
def State.attend (s : State) (n : Fin 11) : Next :=
  let t := s.resume n
  match t.ctx.wait with
  | some w =>
    match w.instr with
    | some i => .run i t
    | none => if t.ctx.frame.isEmpty then t.fetchNext else .run t.ctx.frameInstr t
  | none =>
    match t.dueTrap with
    | some u => .done u
    | none => .done (t.modCtx fun c => { c with refetch := false }).resumeFrame

/-- After the context's instruction: one that now waits is kept, and a single step of the debug engine ends when it completes (R418). -/
def State.keep (s : State) (i : Instr) : State :=
  match s.ctx.wait with
  | some w => s.modCtx fun c => { c with wait := some { w with instr := w.instr.or (some i) } }
  | none => if s.dev.dbgStep = some s.cur then { s with dev := { s.dev with dbgStep := none } } else s

/-- A single step of the debug engine ends with the trap of a fetch (R418). -/
def State.endStep (s : State) (n : Fin 11) : State := if s.dev.dbgStep = some n then { s with dev := { s.dev with dbgStep := none } } else s

/-- The context waits in a take (R219, R220, R289, R420). -/
def Wait.takes (w : Wait) : Bool := decide (w.kind = .ftake) || (decide (w.kind = .other) && decide (w.q = 3))

/-- The counters count the cycle, and the cycles in which a context is parked or waits in a take (R420). -/
def State.countCycle (s : State) : State :=
  let t := s.count 0
  let u := if t.ctxs.toList.any fun c => c.live && c.parked then t.count 2 else t
  if u.ctxs.toList.any fun c => c.live && c.wait.any Wait.takes then u.count 5
  else u

/-- The instruction did not issue: a stream that it reads has not fetched its next vector, and another context may issue (R17, R168). -/
def State.stalled (s : State) : Bool := s.ctx.live && !s.ctx.ending && decide (s.ctx.nextIssue ≤ s.cycle)

/-- Nothing moved: the context waited before, and waits in the same stage still. -/
def stillWaits (before after : State) : Bool := before.ctx.wait.isSome && decide (after.ctx.wait = before.ctx.wait)

end Sys2Proof.Machine
end

