-- ==== Sys2Proof/Machine/Move.lean ====
section
/-! DEFINITION. Moves, addresses, compares and predicates (R114 to R120). -/

namespace Sys2Proof.Machine

/-- The loop set a two-bit field names; 3 is reserved and names set 0 (R35). -/
def loopIndex (n : BitVec 2) : Fin 3 := if n = 1 then 1 else if n = 2 then 2 else 0

/-- Loop `n` is active: leN ≠ 0 (R125). -/
def Ctx.loopActive (c : Ctx) (n : Fin 3) : Bool := decide (c.le.get n ≠ 0)

/-- A loop register (R114). -/
def Ctx.readLoop (c : Ctx) (n : Fin 3) (r : LoopReg) : Word :=
  match r with
  | .lc => c.lc.get n
  | .ls => c.ls.get n
  | .le => c.le.get n

/-- A loop register written; a loop that becomes active by its leN counts as started now (R114, R127). -/
def Ctx.writeLoop (c : Ctx) (n : Fin 3) (r : LoopReg) (v : Word) (age : Nat) : Ctx :=
  match r with
  | .lc => { c with lc := c.lc.set n.val v n.isLt }
  | .ls => { c with ls := c.ls.set n.val v n.isLt }
  | .le => { c with le := c.le.set n.val v n.isLt, loopAge := c.loopAge.set n.val age n.isLt }

/-- The leader's loop register written with the leader's own value (R124); a context that follows nobody has none. -/
def Ctx.writeLead (c : Ctx) (n : Fin 3) (r : LoopReg) (v : Word) : Ctx :=
  { c with lead := c.lead.map fun l =>
      match r with
      | .lc => { l with lc := l.lc.set n.val v n.isLt }
      | .ls => { l with ls := l.ls.set n.val v n.isLt }
      | .le => { l with le := l.le.set n.val v n.isLt } }

/-- MOV xD, xA (R114). -/
def execMov (sw : Bool) (d a : BitVec 5) (s : State) : Outcome := .next (s.unary sw d a 1 4 id)

/-- MOV xD from a loop register (R114). -/
def execMovFromLoop (sw : Bool) (d : BitVec 5) (n : BitVec 2) (r : LoopReg) (s : State) : Outcome :=
  .next (s.issue [] [.x d] fun s =>
    ((s.modCtx fun c => { c with inTaint := c.taintOf [.loop (loopIndex n) r] }).writeX d
      (s.ctx.readLoop (loopIndex n) r) 1).retire sw 4)

/-- MOV to a loop register: lsD and leD of an active loop are refused (R114, R128). The write comes before the end test
of this instruction. -/
def execMovToLoop (sw : Bool) (n : BitVec 2) (a : BitVec 5) (r : LoopReg) (s : State) : Outcome :=
  .next (s.issue [.x a] [] fun s =>
    if r ≠ .lc ∧ s.ctx.loopActive (loopIndex n) then s.illegal
    else
      ({ s.modCtx fun c =>
          ((c.writeLoop (loopIndex n) r (s.readX a) s.seq).writeLead (loopIndex n) r (s.leadX a)).setTaint (.loop (loopIndex n) r) c.inTaint with
        seq := s.seq + 1 }).retire sw 4)

/-- MOVI (R115). -/
def execMovi (sw : Bool) (d : BitVec 5) (imm : BitVec 13) (ext : Ext) (s : State) : Outcome :=
  .next (s.issue [] [.x d] fun s => (s.writeX d (immWord imm ext) 1).retire sw (extBytes ext))

/-- LEA (R116). -/
def execLea (sw : Bool) (d a b : BitVec 5) (disp : BitVec 6) (k : BitVec 2) (ext : Ext) (s : State) : Outcome :=
  .next (s.issue [.x a, .x b] [.x d] fun s =>
    (s.writeX d (effAddr (s.readX a) (s.readX b) k (leaDisp disp ext)) 1).retire sw (extBytes ext))

/-- SLT (R117). -/
def execSlt (sw : Bool) (d a b : BitVec 5) (t : IntTy) (s : State) : Outcome :=
  .next (s.binary sw d a b 1 fun a b => boolWord (decide (extWord t a < extWord t b)))

/-- SLTI (R117): signed 64-bit values. -/
def execSlti (sw : Bool) (d a : BitVec 5) (imm : BitVec 13) (ext : Ext) (s : State) : Outcome :=
  .next (s.unary sw d a 1 (extBytes ext) fun a => boolWord (decide (a.toInt < (immWord imm ext).toInt)))

/-- SEQ (R117): the low w bits are equal. -/
def execSeq (sw : Bool) (d a b : BitVec 5) (t : IntTy) (s : State) : Outcome :=
  .next (s.binary sw d a b 1 fun a b => boolWord (decide (lowBits t a = lowBits t b)))

/-- SEQI (R117). -/
def execSeqi (sw : Bool) (d a : BitVec 5) (imm : BitVec 13) (ext : Ext) (s : State) : Outcome :=
  .next (s.unary sw d a 1 (extBytes ext) fun a => boolWord (decide (a = immWord imm ext)))

/-- SEL (R117): xA if bit 0 of pN is 1, else xB. -/
def execSel (sw : Bool) (d a b : BitVec 5) (p : BitVec 3) (s : State) : Outcome :=
  .next (s.issue [.x a, .x b, .p p] [.x d] fun s =>
    (s.writeX d (if (s.readP p).getLsbD 0 then s.readX a else s.readX b) 1).retire sw 4)

/-- PCMP (R118): every bit of pD to the condition. -/
def execPcmp (sw : Bool) (d : BitVec 3) (a b : BitVec 5) (t : IntTy) (c : Cond) (s : State) : Outcome :=
  .next (s.issue [.x a, .x b] [.p d] fun s =>
    (s.writeP d (if condInt c (extWord t (s.readX a)) (extWord t (s.readX b)) then allOnes64 else 0) 1).retire sw 4)

/-- PLOG (R119). -/
def execPlog (sw : Bool) (d a b : BitVec 3) (t : BitVec 4) (s : State) : Outcome :=
  .next (s.issue [.p a, .p b] [.p d] fun s => (s.writeP d (plogWord t (s.readP a) (s.readP b)) 1).retire sw 4)

/-- PMOV pD, xA (R120). -/
def execPmovToPredicate (sw : Bool) (d : BitVec 3) (a : BitVec 5) (s : State) : Outcome :=
  .next (s.issue [.x a] [.p d] fun s => (s.writeP d (s.readX a) 1).retire sw 4)

/-- PMOV xD, pA (R120). -/
def execPmovFromPredicate (sw : Bool) (d : BitVec 5) (a : BitVec 3) (s : State) : Outcome :=
  .next (s.issue [.p a] [.x d] fun s => (s.writeX d (s.readP a) 1).retire sw 4)

/-- PCNT (R120): the one bits among the predicate bits that lanes of the type's width read. -/
def execPcnt (sw : Bool) (d : BitVec 5) (a : BitVec 3) (t : IntTy) (s : State) : Outcome :=
  .next (s.issue [.p a] [.x d] fun s =>
    (s.writeX d (BitVec.ofNat 64 (popCount (s.readP a).toNat (512 / t.width))) 2).retire sw 4)

end Sys2Proof.Machine
end

