-- ==== Sys2Proof/Machine/Control.lean ====
section
/-! DEFINITION. Branches, calls, hardware loops and the repeat frame (R55 to R62, R121 to R130). -/

namespace Sys2Proof.Machine

/-- An address lies in the body of active loop `n` (R129). -/
def Ctx.inBody (c : Ctx) (n : Fin 3) (a : Word) : Bool :=
  decide (c.ctl.le.get n ≠ 0) && decide (c.ctl.ls.get n ≤ a) && decide (a ≤ c.ctl.le.get n)

/-- The transfer at `pc` leaves the body of active loop `n` (R129). -/
def Ctx.leaves (c : Ctx) (pc target : Word) (n : Fin 3) : Bool := c.inBody n pc && !c.inBody n target

/-- The body of active loop `m` lies within that of loop `n` (R129). -/
def Ctx.within (c : Ctx) (m n : Fin 3) : Bool :=
  decide (c.ctl.le.get m ≠ 0) && decide (c.ctl.ls.get n ≤ c.ctl.ls.get m) && decide (c.ctl.le.get m ≤ c.ctl.le.get n)

/-- The loops that a taken branch, JR or RET leaves are deactivated, and those within them (R129). -/
def Ctx.leaveLoops (c : Ctx) (pc target : Word) : Ctx :=
  let out := ([0, 1, 2] : List (Fin 3)).filter (c.leaves pc target)
  let cut (le : Vector Word 3) : Vector Word 3 :=
    Vector.ofFn fun m => if out.any fun n => decide (m = n) || c.within m n then 0 else le.get m
  { c with le := cut c.le, lead := c.lead.map fun l => { l with le := cut l.le } }

/-- A transfer of `size` bytes that the loop test refuses at the end word of an active loop (R130). -/
def State.transfer (s : State) (size : Nat) (k : State → State) : State :=
  if s.ctx.atLoopEnd size then s.illegal else k s

/-- A taken branch, JR or RET (R121, R129, R131). -/
def State.branchTo (s : State) (sw : Bool) (target : Word) : State :=
  (s.modCtx fun c => c.leaveLoops c.pc target).jump sw target

/-- A call: x31 takes the return address; no loop is deactivated (R121, R129). -/
def State.callTo (s : State) (sw : Bool) (size : Nat) (target : Word) : State :=
  (s.writeX 31 (s.pc + BitVec.ofNat 64 size) 1).jump sw target

/-- A target with a nonzero bit [1:0] raises the address fault (R33, R122). -/
def State.aligned (s : State) (target : Word) (k : State → State) : State :=
  if target.extractLsb' 0 2 ≠ 0 then s.trapLogged 0x03 4 target else k s

/-- A conditional branch of format I (R121). -/
def State.branchIf (s : State) (sw taken : Bool) (imm : BitVec 13) (ext : Ext) : State :=
  s.transfer (extBytes ext) fun s =>
    if taken then s.branchTo sw (s.target (immWord imm ext)) else s.retire sw (extBytes ext)

/-- BR (R121). -/
def execBr (sw : Bool) (disp : BitVec 23) (ext : Ext) (s : State) : Outcome :=
  .next (s.issue [] [] fun s => s.transfer (extBytes ext) fun s => s.branchTo sw (s.target (dispWord disp ext)))

/-- CALL (R121). -/
def execCall (sw : Bool) (disp : BitVec 23) (ext : Ext) (s : State) : Outcome :=
  .next (s.issue [] [.x 31] fun s => s.transfer (extBytes ext) fun s =>
    s.callTo sw (extBytes ext) (s.target (dispWord disp ext)))

/-- JR (R121, R122). -/
def execJr (sw : Bool) (a : BitVec 5) (s : State) : Outcome :=
  .next (s.issue [.x a] [] fun s => s.transfer 4 fun s => s.aligned (s.leadX a) fun t => t.branchTo sw (s.leadX a))

/-- CALLR (R121, R122): the target is read before x31 is written. -/
def execCallr (sw : Bool) (a : BitVec 5) (s : State) : Outcome :=
  .next (s.issue [.x a] [.x 31] fun s => s.transfer 4 fun s =>
    s.aligned (s.leadX a) fun t => t.callTo sw 4 (s.leadX a))

/-- RET (R121, R122). -/
def execRet (sw : Bool) (s : State) : Outcome :=
  .next (s.issue [.x 31] [] fun s => s.transfer 4 fun s => s.aligned (s.leadX 31) fun t => t.branchTo sw (s.leadX 31))

/-- BEQZ (R121). -/
def execBeqz (sw : Bool) (a : BitVec 5) (imm : BitVec 13) (ext : Ext) (s : State) : Outcome :=
  .next (s.issue [.x a] [] fun s => s.branchIf sw (decide (s.leadX a = 0)) imm ext)

/-- BNEZ (R121). -/
def execBnez (sw : Bool) (a : BitVec 5) (imm : BitVec 13) (ext : Ext) (s : State) : Outcome :=
  .next (s.issue [.x a] [] fun s => s.branchIf sw (decide (s.leadX a ≠ 0)) imm ext)

/-- BLTZ (R121). -/
def execBltz (sw : Bool) (a : BitVec 5) (imm : BitVec 13) (ext : Ext) (s : State) : Outcome :=
  .next (s.issue [.x a] [] fun s => s.branchIf sw (decide ((s.leadX a).toInt < 0)) imm ext)

/-- BGEZ (R121). -/
def execBgez (sw : Bool) (a : BitVec 5) (imm : BitVec 13) (ext : Ext) (s : State) : Outcome :=
  .next (s.issue [.x a] [] fun s => s.branchIf sw (decide (0 ≤ (s.leadX a).toInt)) imm ext)

/-- BPANY (R121). -/
def execBpany (sw : Bool) (a : BitVec 3) (imm : BitVec 13) (ext : Ext) (s : State) : Outcome :=
  .next (s.issue [.p a] [] fun s => s.branchIf sw (decide (s.leadP a ≠ 0)) imm ext)

/-- BPNONE (R121). -/
def execBpnone (sw : Bool) (a : BitVec 3) (imm : BitVec 13) (ext : Ext) (s : State) : Outcome :=
  .next (s.issue [.p a] [] fun s => s.branchIf sw (decide (s.leadP a = 0)) imm ext)

/-! ## Hardware loops (R125, R126) -/

/-- An active loop whose body holds the loop instruction ends before `endw` (R126). -/
def Ctx.outgrows (c : Ctx) (pc endw : Word) : Bool :=
  ([0, 1, 2] : List (Fin 3)).any fun m => c.inBody m pc && decide (c.ctl.le.get m < endw)

/-- A loop set with its three registers written, the leader's too: the count is read on the leader (R124). -/
def Ctx.setLoopSet (c : Ctx) (n : Fin 3) (lc ls le : Word) : Ctx :=
  { c with
    lc := c.lc.set n.val lc n.isLt, ls := c.ls.set n.val ls n.isLt, le := c.le.set n.val le n.isLt,
    lead := c.lead.map fun l =>
      { l with lc := l.lc.set n.val lc n.isLt, ls := l.ls.set n.val ls n.isLt, le := l.le.set n.val le n.isLt } }

/-- The loop set written as R126 gives: `l` is the body's length in words. -/
def Ctx.startLoop (c : Ctx) (n : Fin 3) (count : Int) (start endw : Word) (l age : Nat) : Ctx :=
  if count ≤ 0 then { c.setLoopSet n 0 start 0 with pc := start + BitVec.ofNat 64 (4 * l) }
  else { c.setLoopSet n (wrap64 count) start endw with loopAge := c.loopAge.set n.val age n.isLt, pc := start }

/-- The registers of a loop set take the taint of what starts the loop (R192). -/
def Ctx.taintLoop (c : Ctx) (n : Fin 3) : Ctx :=
  ((c.setTaint (.loop n .lc) c.inTaint).setTaint (.loop n .ls) c.inTaint).setTaint (.loop n .le) c.inTaint

/-- LOOP and LOOPI (R126): the first body word issues 2 cycles after, and a skipped body costs as a taken transfer
(R131). In a follower of a gang the set itself must be free in the follower's own registers, and the enclosing body and the end word are those
of the leader's: R130 does not say whose set the refusals read (DESIGN CHOICE, log 127). -/
def State.startLoop (s : State) (sw : Bool) (size : Nat) (n : Fin 3) (count : Int) (l : Nat) : State :=
  s.transfer size fun s =>
    let start := s.pc + BitVec.ofNat 64 size
    let endw := start + BitVec.ofNat 64 (4 * (l - 1))
    if s.ctx.loopActive n then s.illegal
    else if s.ctx.outgrows s.pc endw then s.illegal
    else
      { s.modCtx fun c =>
          { (c.startLoop n count start endw l s.seq).taintLoop n with
            parked := sw, nextIssue := s.cycle + (if count ≤ 0 then 3 else 2), wait := none, afterSync := false }
        with seq := s.seq + 1 }

/-- LOOP (R125): the count is xA; with an EXT word L - 1 is EXT[15:0] × 256 + F. -/
def execLoop (sw : Bool) (n : BitVec 2) (a : BitVec 5) (l : BitVec 8) (ext : Option (BitVec 16)) (s : State) : Outcome :=
  .next (s.issue [.x a] [] fun s =>
    s.startLoop sw (extBytes ext) (loopIndex n) (s.leadX a).toInt ((ext.getD 0).toNat * 256 + l.toNat + 1))

/-- LOOPI (R125). -/
def execLoopi (sw : Bool) (n : BitVec 2) (l : BitVec 5) (imm : BitVec 13) (ext : Ext) (s : State) : Outcome :=
  .next (s.issue [] [] fun s => s.startLoop sw (extBytes ext) (loopIndex n) (immWord imm ext).toInt (l.toNat + 1))

/-! ## The repeat frame (R55 to R62) -/

/-- RPTF (R55 to R59): n and k are one less than the operands. -/
def execRptf (sw : Bool) (sd sa sb : BitVec 5) (n k : BitVec 4) (ext : Option (BitVec 20)) (s : State) : Outcome :=
  .next (s.issue [] [] fun s => s.transfer (extBytes ext) fun s =>
    let base := s.pc + BitVec.ofNat 64 (extBytes ext)
    let km1 := match ext with | some e => e.toNat | none => k.toNat
    if rptAct s.ctx.rptst then s.illegal
    else
      match s.capture base (n.toNat + 1) with
      | (t, .error f) => t.trapFrame s.pc f
      | (t, .ok ws) =>
        t.modCtx fun c =>
          { c with
            rptst := rptWord 0 km1 sd.toNat sa.toNat sb.toNat n.toNat 0 true, rptpc := base &&& rptpcMask, frame := ws,
            lead := c.lead.map fun l =>
              { l with rptst := rptWord 0 km1 sd.toNat sa.toNat sb.toNat n.toNat 0 true, rptpc := base &&& rptpcMask },
            pc := base, parked := sw, nextIssue := s.cycle + 1 + fetchCycles (n.toNat + 1), wait := none,
            afterSync := false })

end Sys2Proof.Machine
end

