-- ==== Sys2Proof/Machine/System.lean ====
section
/-! DEFINITION. Context and system instructions (R132 to R151) but HEND and END: helpers, gangs, traps and their return,
control registers, instruction-cache invalidation, pauses and event counters. -/

namespace Sys2Proof.Machine

/-- NOP (R151). -/
def execNop (sw : Bool) (s : State) : Outcome := .next (s.issue [] [] fun s => s.retire sw 4)

/-! ## Helpers (R133, R135, R136) -/

/-- Helper `n` is live (R16). -/
def State.helperLive (s : State) (n : Nat) : Bool := if h : n < 11 then (s.ctxs.get ⟨n, h⟩).live else false

/-- Some helper is live. -/
def State.anyHelperLive (s : State) : Bool := (List.range 10).any fun i => s.helperLive (i + 1)

/-- A context as HSTART starts it: every register 0 but x1, the landing set empty, CHK as at launch (R133, R213). R133 does not name
TRAPREC0 to TRAPREC3 of a helper started again: they are 0 (log 112). -/
def startedCtx (target x1 : Word) (chk : Bool) (first : Nat) : Ctx :=
  { Ctx.reset with live := true, pc := target, x := Ctx.reset.x.set 1 x1, chk, nextIssue := first }

/-- Helper `h` starts at `target` with x1 given; its first word issues 4 cycles after (R133, R164, R274). Its take-order record goes
on (R226). -/
def State.startHelper (s : State) (h : Nat) (target x1 : Word) : State :=
  if hb : h < 11 then
    (s.modCtxAt ⟨h, hb⟩ fun c =>
      { startedCtx target x1 s.job.chk (s.cycle + 4) with tookFree := c.tookFree, takeOrder := c.takeOrder, replay := c.replay }).forgetEarly
        ⟨h, hb⟩
  else s

/-- The accesses of a started helper wait for those of the context that started it (R307). -/
def State.helperAfter (s : State) (h : Nat) (ns : List Nat) : State :=
  if hb : h < 11 then
    s.modCtxAt ⟨h, hb⟩ fun c => { c with order := ns.map fun n => { seq := n, scope := .sys, loads := true } }
  else s

/-- HSTART (R133); a redundant pair is a gang of two (R160). -/
def execHstart (sw : Bool) (h b : BitVec 5) (imm : BitVec 13) (ext : Ext) (s : State) : Outcome :=
  .next (s.issue [.x b] [] fun s =>
    let target := s.target (startDisp imm ext)
    if s.cur ≠ 0 ∨ h = 0 ∨ 10 < h.toNat ∨ s.core.gang.isSome ∨ s.job.redun then s.illegal
    else if s.job.helpers < h.toNat then s.resource 1
    else if s.helperLive h.toNat then s.illegal
    else if target.extractLsb' 0 2 ≠ 0 then s.trapLogged 0x03 4 target
    else ((s.startHelper h.toNat target (s.readX b)).helperAfter h.toNat (s.earlier .dev)).retire sw (extBytes ext))

/-- HWAIT's condition: no live helper whose bit in the mask is set (R135). -/
def State.helpersDone (s : State) (mask : Word) : Bool :=
  (List.range 10).all fun i => !(mask.getLsbD (i + 1) && s.helperLive (i + 1))

/-- The context acquires what the helpers of a mask have released (R307). -/
def State.acquireHelpers (s : State) (mask : Word) : State :=
  (List.finRange 11).foldl (fun t h => if mask.getLsbD h.val then t.acquireFrom (t.sourceOf h) .dev else t) s

/-- HWAIT (R135, R307). -/
def execHwait (sw : Bool) (a : BitVec 5) (s : State) : Outcome :=
  .next (s.issue [.x a] [] fun s =>
    if s.cur ≠ 0 then s.illegal
    else if s.helpersDone (s.waitValue a) then (s.acquireHelpers (s.waitValue a)).retire sw 4
    else s.block .other 0 (s.waitValue a))

/-- What HSTAT reads (R136). -/
def State.hstat (s : State) : Word :=
  BitVec.ofNat 64 (1 + ((List.range 10).map fun i => bitAt (s.helperLive (i + 1)) (i + 1)).sum + s.job.helpers * 2 ^ 16)

/-- HSTAT (R136). -/
def execHstat (sw : Bool) (d : BitVec 5) (s : State) : Outcome :=
  .next (s.issue [] [.x d] fun s => (s.writeX d s.hstat 2).retire sw 4)

/-! ## Gangs (R138, R139) -/

/-- The other positions of the aligned range of `n` positions that holds position `p` (R138, R348). -/
def rangeOthers (p n : Nat) : List Nat := ((List.range n).map (p / n * n + ·)).filter (· ≠ p)

/-- A range as its first position and its size. -/
def rangeOf (p n : Nat) : Nat × Nat := (p / n * n, n)

/-- The cores of a list that wait with another size than the `n` of position `p`, which one of the two ranges holds (R138, R348). -/
def peerRivals (waiting : List Peer) (p n cycle : Nat) : List Peer :=
  waiting.filter fun x =>
    decide (x.since ≤ cycle) && decide (x.n ≠ n) && (decide (x.pos / n = p / n) || decide (x.pos / x.n = p / x.n))

/-- A range forms no gang, or no loom: a clash has been noted for it, a core of it waits with another size, or one has executed END (R138,
R348). -/
def rangeClashes (clash : List (Nat × Nat)) (waiting ended : List Peer) (p n cycle : Nat) : Bool :=
  decide (rangeOf p n ∈ clash) || !(peerRivals waiting p n cycle).isEmpty
    || (rangeOthers p n).any fun q => ended.any fun x => decide (x.pos = q) && decide (x.since ≤ cycle)

/-- The ranges of a clash that position `p` makes with size `n`. -/
def clashOf (waiting : List Peer) (p n cycle : Nat) : List (Nat × Nat) :=
  rangeOf p n :: (peerRivals waiting p n cycle).map fun x => rangeOf x.pos x.n

/-- Those of a list whose ranges are not among `rs`: a clash ends the wait of the others (R138, R348). -/
def outsideClash (waiting : List Peer) (rs : List (Nat × Nat)) : List Peer := waiting.filter fun x => !decide (rangeOf x.pos x.n ∈ rs)

/-- The ranges of a clash form no gang any more, and nobody waits in one (R138). -/
def State.noteGangClash (s : State) (rs : List (Nat × Nat)) : State :=
  { s with clu := { s.clu with gangClash := (s.clu.gangClash ++ rs).dedup, gangWait := outsideClash s.clu.gangWait rs } }

/-- Every other position waits with the same size (R138, R348). -/
def peersWait (waiting : List Peer) (ps : List Nat) (n cycle : Nat) : Bool :=
  ps.all fun p => waiting.any fun x => decide (x.pos = p) && decide (x.since ≤ cycle) && decide (x.n = n)

/-- The leader's registers that decide where its followers go on, as a gang forms: another core's, and free values (R124; log 31). Those of
its handler and of its frame stand behind the loop sets. -/
def leaderLoops (cycle : Nat) : LoopRegs :=
  { lc := Vector.ofFn fun n => Config.leaderLoop cycle n.val 0, ls := Vector.ofFn fun n => Config.leaderLoop cycle n.val 1,
    le := Vector.ofFn fun n => Config.leaderLoop cycle n.val 2, ret := Config.leaderLoop cycle 3 0, rptst := Config.leaderLoop cycle 3 1,
    rptpc := Config.leaderLoop cycle 3 2 }

/-- GANG (R138): codes 1, 2 and 3 name 2, 4 and 8 cores. A member continues after the leader's GANG. Where GANG stands at the end word of
an active loop, the leader makes its end test and a follower its own, and the follower goes on after the leader's GANG all the same
(DESIGN CHOICE, log 128). -/
def execGang (sw : Bool) (n : BitVec 2) (s : State) : Outcome :=
  .next (s.issue [] [] fun s =>
    let size := 2 ^ n.toNat
    let others := rangeOthers s.position size
    if s.cur ≠ 0 ∨ s.anyHelperLive ∨ s.core.gang.isSome ∨ s.job.redun then s.illegal
    else if others.any fun p => !decide (s.clusterCore p ∈ s.job.cores) then s.resource 2
    else if rangeClashes s.clu.gangClash s.clu.gangWait s.clu.ended s.position size s.cycle then
      (s.noteGangClash (clashOf s.clu.gangWait s.position size s.cycle)).illegal
    else if peersWait s.clu.gangWait others size s.cycle then
      let leads := decide (s.position % size = 0)
      let t := (s.modCore fun c => { c with gang := some { n := size, leader := leads, stops := [], parks := 0, takes := 0 } }).retire sw 4
      { t.modCtx (fun c => if leads then c else { c with pc := Config.leaderPc s.cycle + 4, lead := some (leaderLoops s.cycle) }) with
        clu := { t.clu with gangWait := t.clu.gangWait.filter fun x => !(decide (x.pos ∈ others) && decide (x.since ≤ s.cycle)) } }
    else s.block .other 0 0)

/-- SPLIT (R139). -/
def execSplit (sw : Bool) (s : State) : Outcome :=
  .next (s.issue [] [] fun s =>
    if s.core.gang.isNone ∨ s.job.redun then s.illegal
    else
      ((s.modCore fun c => { c with gang := none }).retireAfter sw 4 3).modCtx fun c => { c with lead := none })

/-! ## Traps and their return (R146 to R148) -/

/-- TRAP (R146): NEXT = 1, so that RTE returns after it. At the end word of an active loop TRAP does not complete (R127), and RTE's return to the
word after it makes no end test (DEDUCED, log 129). -/
def execTrap (_sw : Bool) (code : BitVec 13) (s : State) : Outcome :=
  .next (s.issue [] [] fun s =>
    s.raise { TrapInfo.at s.pc 0x15 (code.setWidth 32) 0 with next := true, ret := s.pc + 4 })

/-- What BRK's trap or breakpoint record holds (R147). -/
def breakInfo (pc : Word) (code : BitVec 8) : TrapInfo :=
  { TrapInfo.at pc 0x16 (code.setWidth 32) 0 with next := true, ret := pc + 4 }

/-- BRK (R147, R418): a trap, or under a claim a breakpoint record and a stop; a superstep job stops at its next exchange
boundary. -/
def execBrk (sw : Bool) (code : BitVec 8) (s : State) : Outcome :=
  .next (s.issue [] [] fun s =>
    if s.claimed then
      let t := (s.trace 3 s.cur.val (traprec0 (breakInfo s.pc code))).retire sw 4
      if s.job.superstep then { t with dev := { t.dev with dbgStopReq := true } } else t.halt
    else s.raise (breakInfo s.pc code))

/-- Leaving the handler for `target`, or for the active frame (R148), in a gang those of the leader (R124). -/
def State.leaveHandler (s : State) (sw : Bool) (target : Word) : State :=
  if rptAct s.ctx.ctl.rptst then (s.returnTo sw s.pc).resumeFrame else s.returnTo sw target

/-- RTE (R148); one at the end word of an active loop is refused (R130). -/
def execRte (sw : Bool) (s : State) : Outcome :=
  .next (s.issue [] [] fun s => s.transfer 4 fun s =>
    if s.ctx.inTrap = false then s.illegal else s.leaveHandler sw s.ctx.ctl.ret)

/-- RTE xA (R148): with a frame active, or a misaligned target, it is a double trap. The target is the leader's (R124). R148 gives no cause
there: an active frame is cause 0x02, a misaligned target cause 0x03 with DETAIL 4, and neither is logged as a violation (DESIGN CHOICE,
log 141). -/
def execRteXa (sw : Bool) (a : BitVec 5) (s : State) : Outcome :=
  .next (s.issue [.x a] [] fun s => s.transfer 4 fun s =>
    if s.ctx.inTrap = false then s.illegal
    else if rptAct s.ctx.ctl.rptst then s.illegal
    else if (s.leadX a).extractLsb' 0 2 ≠ 0 then s.trapHere 0x03 4 (s.leadX a)
    else s.returnTo sw (s.leadX a))

/-- A word that is no instruction (R10, R43): the undefined-instruction trap, at the EXT for a pair. -/
def execUndefinedInstruction (s : State) : Outcome := .next (s.trapHere 0x01 0 0)

/-! ## Control registers (R7, R8, R53) -/

/-- BGMASK (R262): the groups this core belongs to, the superstep domain among them. -/
def State.bgmask (s : State) : Word :=
  BitVec.ofNat 64 ((List.finRange 32).map fun g =>
    bitAt (((s.bar.groups.get g).res && (s.bar.groups.get g).member) || decide (s.bar.domain = some (BitVec.ofFin g)))
      g.val).sum

/-- What MFC reads (R53, R54, R60, R142, R151, R268, R270). -/
def State.readCtrl (s : State) (r : CtrlReg) : Word :=
  match r with
  | .ctxst => ctxstWord s.ctx s.cur.val s.job.superstep
  | .corenum => (if s.job.redun then s.core.num &&& 0xFFE else s.core.num).setWidth 64
  | .jobarg => s.job.arg
  | .jobid => s.job.jobid.setWidth 64
  | .devtime => s.dev.devtime
  | .sstep => s.bar.sstep
  | .trapvec => s.job.trapvec
  | .traprec n => s.ctx.traprec.get n.toFin
  | .mbox n => s.core.mbox.get n.toFin
  | .mbq => s.core.mbq.headD 0
  | .rptst => s.ctx.rptst
  | .rptpc => s.ctx.rptpc
  | .bgmask => s.bgmask
  | .imbal0 => s.bar.imbal0
  | .imbal1 => s.bar.imbal1
  | .sig => if s.job.redun then s.core.sig else 0

/-- A read that clears (R8): MBQ's oldest post is removed, and a command that waits to post may start (R248). -/
def State.readClears (s : State) (r : CtrlReg) : State :=
  match r with
  | .mbq => (s.modCore fun c => { c with mbq := c.mbq.drop 1 }).wake
  | _ => s

/-- The reserved bits of a control register (R54, R60, R141). -/
def ctrlRsv : CtrlReg → Word
  | .ctxst => ctxstRsv
  | .rptpc => ~~~rptpcMask
  | .traprec n => if n = 0 then 0xFF00FF00#64 else 0
  | _ => 0

/-- A context whose write touched reserved bits has RSVW set (R8). -/
def Ctx.noteRsv (c : Ctx) (r : CtrlReg) (v : Word) : Ctx := { c with rsvw := c.rsvw || decide (v &&& ctrlRsv r ≠ 0) }

/-- A control register written (R8, R53): read-only fields ignore it. `lv` is what the leader of a gang writes to its own, which its followers
go by (R124). -/
def State.writeCtrl (s : State) (r : CtrlReg) (v lv : Word) : State :=
  match r with
  | .ctxst => s.modCtx fun c => writeCtxst c v
  | .rptst => s.modCtx fun c => { c with rptst := v, lead := c.lead.map fun l => { l with rptst := lv } }
  | .rptpc => s.modCtx fun c =>
      Ctx.noteRsv { c with rptpc := v &&& rptpcMask, lead := c.lead.map fun l => { l with rptpc := lv &&& rptpcMask } } .rptpc v
  | .mbox n => s.modCore fun c => { c with mbox := c.mbox.set n.toNat v n.isLt }
  | .traprec n => s.modCtx fun c => c.noteRsv (.traprec n) v
  | .corenum => s | .jobarg => s | .jobid => s | .devtime => s | .sstep => s | .trapvec => s | .mbq => s
  | .bgmask => s | .imbal0 => s | .imbal1 => s | .sig => s

/-- MFC (R53). -/
def execMfc (sw : Bool) (d : BitVec 5) (r : CtrlReg) (s : State) : Outcome :=
  .next (s.issue [] [.x d] fun s => ((s.readClears r).writeX d (s.readCtrl r) 2).retire sw 4)

/-- MTC (R53): setting RPTST.ACT outside a handler is refused (R62). -/
def execMtc (sw : Bool) (a : BitVec 5) (r : CtrlReg) (s : State) : Outcome :=
  .next (s.issue [.x a] [] fun s =>
    if r = .rptst ∧ rptAct (s.readX a) ∧ s.ctx.inTrap = false then s.illegal
    else (s.writeCtrl r (s.readX a) (s.leadX a)).retire sw 4)

/-! ## Instruction cache, pauses, counters (R150, R151) -/

/-- An access that is only located: no permission, phase or claim refuses it. -/
def Access.locate : Access :=
  { read := false, write := false, exec := false, perms := false, phased := false, claims := false, own := false,
    atomic := none }

/-- The home key of an address, when it has one. -/
def State.locate (s : State) (a : Word) : State × Option Nat :=
  match s.check .locate a 1 1 s.exchange with
  | (t, .ok p, _) => (t, some p.key)
  | (t, .error _, _) => (t, none)

/-- An outstanding store or atomic of the issuing context to a 64-byte line (R150, R195). -/
def State.storesTo (s : State) (line : Nat) (a : Acc) : Bool :=
  decide (a.ctx = s.cur) && a.op.writes && overlaps a.key a.len line 64

/-- The line leaves the core's instruction cache (R150). -/
def State.dropLine (s : State) (line : Nat) : State := { s with icache := s.icache.filter fun l => decide (l.1 ≠ line) }

/-- ICINV (R150): after the context's earlier stores to the line, every cache of the scope drops it, and the context
issues nothing until then. Every scope holds the core's own cache. An address that leads nowhere names no line. -/
def execIcinv (sw : Bool) (a : BitVec 5) (_c : Scope) (s : State) : Outcome :=
  .next (s.issue [.x a] [] fun s =>
    let at_ := s.waitValue a
    match s.ctx.icinv with
    | some _ => s
    | none =>
      if s.ctx.wait.any (·.q = 1) then s.retire sw 4
      else
        match s.locate at_ with
        | (t, none) => t.retire sw 4
        | (t, some k) =>
          t.whenDone (t.storesTo (k / 64 * 64)) at_ fun t =>
            ((t.modCtx fun c => { c with icinv := some (k / 64 * 64) }).post (.icinvCompletion t.cur)).waitOn .other 1 at_)

/-- Every cache of the scope has dropped the line (R150). -/
def execIcinvCompletion (ctx : Fin 11) (s : State) : Outcome :=
  .next (match (s.ctxAt ctx).icinv with
    | some line => (s.dropLine line).modCtxAt ctx fun c => { c with icinv := none }
    | none => s)

/-- PAUSE (R151): nothing issues for n cycles. -/
def execPause (sw : Bool) (n : BitVec 13) (s : State) : Outcome :=
  .next (s.issue [] [] fun s =>
    (s.retireAfter sw 4 (n.toNat + 1)).modCtx fun c => { c with paused := decide (n ≠ 0) })

/-- The last cycle of a pause has passed (R151). -/
def execPauseExpiry (ctx : Fin 11) (s : State) : Outcome :=
  .next (if (s.ctxAt ctx).paused ∧ (s.ctxAt ctx).nextIssue ≤ s.cycle + 1 then
      s.modCtxAt ctx fun c => { c with paused := false }
    else s)

/-- CNTRD (R151, R420): the counter's value before this cycle's increment, that of its own hazard too. -/
def execCntrd (sw : Bool) (d : BitVec 5) (c : BitVec 4) (s : State) : Outcome :=
  let v := (s.core.counters.get c.toFin).val
  .next (s.issue [] [.x d] fun s => (s.writeX d (v.setWidth 64) 2).retire sw 4)

/-- A register write of variable latency arrives (R47); one whose value no unit has formed yet does not. -/
def execRegisterWritePerformed (ctx : Fin 11) (seq : Nat) (s : State) : Outcome :=
  .next (s.modCtxAt ctx fun c => Ctx.performAll (fun w => decide (w.seq = seq) && decide (w.need = 0) && decide (w.ready ≤ s.cycle + 1)) c.writes c)

/-- A counter has wrapped (R420): with OVIE its overflow writes a trace record of kind 6. -/
def execCounterOverflow (n : BitVec 4) (s : State) : Outcome :=
  .next (if (s.core.counters.get n.toFin).ovie then s.trace 6 0xFF (n.setWidth 64) else s)

end Sys2Proof.Machine
end

