-- ==== Sys2Proof/Machine/Streams.lean ====
section
/-! DEFINITION. Stream registers: the affine walk, its use as a vector operand (R168, R169), and SBIND, SFREE, SADV and
SSTAT (R257, R258). -/

namespace Sys2Proof.Machine

/-- The elements a binding walks. -/
def Stream.total (t : Stream) : Nat := t.c.get 0 * t.c.get 1 * t.c.get 2 * t.c.get 3

/-- Bytes of an element (R165, R257). -/
def Stream.bytes (t : Stream) : Nat := t.ty.width / 8

/-- The elements used so far. -/
def Stream.used (t : Stream) : Nat := t.total - t.remain

/-- The address of element `e` of the walk, dimension 0 fastest (R257). -/
def Stream.addr (t : Stream) (e : Nat) : Int :=
  let c0 := t.c.get 0
  let c1 := t.c.get 1
  let c2 := t.c.get 2
  (t.base.toNat : Int) + (e % c0 * t.bytes : Nat) + (e / c0 % c1 : Nat) * t.st.get 0
    + (e / (c0 * c1) % c2 : Nat) * t.st.get 1 + (e / (c0 * c1 * c2) : Nat) * t.st.get 2

/-- The stream may stand in a field of lanes `w` wide, after `skip` elements used by an earlier field (R168). -/
def Stream.usable (t : Stream) (w : Nat) (wr : Bool) (skip : Nat) : Bool :=
  t.bnd && decide (t.wr = wr) && decide (t.ty.width = w) && decide (skip < t.remain)

/-- The stream advanced by `n` elements. -/
def Stream.advance (t : Stream) (n : Nat) : Stream := { t with remain := t.remain - n, fetched := t.fetched.drop n }

/-- The home key of the element `i` places after the next one. -/
def State.streamKey (s : State) (t : Stream) (i : Nat) : Nat := s.ownKey (wrap64 (t.addr (t.used + i)))

/-- The element `i` places after the next one, where it has been fetched. -/
def Stream.fetched? (t : Stream) (i : Nat) : Option Word := t.fetched.getD i none

/-- The `n` elements after the next `skip`, as far as the stream has them, are fetched and can be used (R168, R260). -/
def Stream.has (t : Stream) (skip n cycle : Nat) : Bool :=
  decide (t.ready ≤ cycle) && (List.range (Nat.min n (t.remain - skip))).all fun i => (t.fetched? (skip + i)).isSome

/-- The next `n` elements, which have been fetched (R169). -/
def Stream.next (t : Stream) (n : Nat) : List Word := (List.range n).map fun i => (t.fetched? i).getD 0

/-- The core's stream register `n` replaced. -/
def State.setStream (s : State) (n : BitVec 2) (t : Stream) : State :=
  s.modCore fun c => { c with streams := c.streams.set n.toNat t n.isLt }

/-- The core's stream register `n`. -/
def State.stream (s : State) (n : BitVec 2) : Stream := s.core.streams.get n.toFin

/-- The elements that a stream may hold fetched: four vectors (R257), as far as it has them. -/
def Stream.window (t : Stream) : Nat := Nat.min (4 * (512 / t.ty.width)) t.remain

/-- The first place of that window whose element is not fetched. -/
def Stream.hole (t : Stream) : Option Nat := (List.range t.window).find? fun i => (t.fetched? i).isNone

/-- A bound read stream with room fetches once more (R169). -/
def State.wantsFetch (s : State) (k : BitVec 2) : State :=
  let t := s.stream k
  if t.bnd ∧ t.wr = false ∧ t.hole.isSome ∧ .streamFetch k ∉ s.agenda then s.post (.streamFetch k) else s

/-- A read of up to `n` elements as a vector: the lanes past the end read 0, and the stream advances (R168). -/
def State.streamRead (s : State) (k : BitVec 2) (w n : Nat) : State × Vec :=
  let t := s.stream k
  let m := Nat.min n t.remain
  let es := t.next m
  ((s.setStream k (t.advance m)).wantsFetch k, ofLanes w n fun i => ((es[i]?).getD 0).toNat)

/-- The stores of the active lanes of a stream write, lane 0 first (R168, R169). -/
def State.streamStores (k : BitVec 2) (t : Stream) (w : Nat) (active : Nat → Bool) (f : Nat → Nat) : Nat → State → State
  | 0, s => s
  | m + 1, s =>
    let s1 := State.streamStores k t w active f m s
    if active m then
      let at_ := wrap64 (t.addr (t.used + m))
      (s1.push { s1.newAcc (s1.ownKey at_) t.bytes at_ (0, 0) (.store (bytesOfNat (f m % 2 ^ w) t.bytes))
                   (s1.holders (s1.ownKey at_) false []) with stream := some k }).sign at_.toNat t.bytes
        (bytesOfNat (f m % 2 ^ w) t.bytes)
    else s1

/-- A write of up to `n` lanes to a stream, which advances (R168). -/
def State.streamWrite (s : State) (k : BitVec 2) (w n : Nat) (active : Nat → Bool) (f : Nat → Nat) : State :=
  let t := s.stream k
  let m := Nat.min n t.remain
  (State.streamStores k t w active f m s).setStream k (t.advance m)

/-- An element as the stream unit fetches it. R197 does not name streams: of an uncorrectable line a stream fetches free bytes, and reports
nothing (DESIGN CHOICE, log 38). -/
def State.fetchElem (s : State) (t : Stream) (i : Nat) : Word := bitsOfBytes 64 (s.unitRead (s.streamKey t i) t.bytes)

/-- The elements of a stream with the one at a place fetched, where it was not and no watermark keeps it back (R249). -/
def State.fetchInto (s : State) (t : Stream) (l : List (Option Word)) (i : Nat) : List (Option Word) :=
  if (l.getD i none).isSome ∨ s.gated (s.streamKey t i) t.bytes then l
  else (l ++ List.replicate (i + 1 - l.length) none).set i (some (s.fetchElem t i))

/-- A read stream fetches a vector from its first element not fetched on, at most four vectors ahead (R257); behind a watermark it waits
(R249). -/
def execStreamFetch (n : BitVec 2) (s : State) : Outcome :=
  let t := s.stream n
  .next (match t.hole with
    | none => s
    | some h =>
      if t.bnd = false ∨ t.wr then s
      else
        let places := (List.range (Nat.min (512 / t.ty.width) (t.window - h))).map (h + ·)
        let waits := places.any fun i => (t.fetched? i).isNone && s.gated (s.streamKey t i) t.bytes
        let u := s.setStream n { t with fetched := places.foldl (s.fetchInto t) t.fetched, held := waits }
        if waits then u else u.wantsFetch n)

/-- A read stream fetches one element alone, at most four vectors ahead: each element is fetched at some moment of its own (R169). -/
def State.fetchOne (s : State) (n : BitVec 2) (i : Nat) : State :=
  let t := s.stream n
  if t.bnd = false ∨ t.wr ∨ t.window ≤ i then s else s.setStream n { t with fetched := s.fetchInto t t.fetched i }

/-! ## Binding (R257) -/

/-- The lowest address of the walk and one past its highest byte. -/
def Stream.span (t : Stream) : Int × Int :=
  let d : List Int := [((t.c.get 0 : Int) - 1) * t.bytes, ((t.c.get 1 : Int) - 1) * t.st.get 0,
    ((t.c.get 2 : Int) - 1) * t.st.get 1, ((t.c.get 3 : Int) - 1) * t.st.get 2]
  ((t.base.toNat : Int) + (d.map fun x => if x < 0 then x else 0).sum,
    (t.base.toNat : Int) + (d.map fun x => if x < 0 then 0 else x).sum + t.bytes)

/-- The walk is aligned to the element width: its base, and each stride it takes. -/
def Stream.aligned (t : Stream) : Bool :=
  decide (t.base.toNat % t.bytes = 0) &&
    ([0, 1, 2] : List (Fin 3)).all fun i => decide (t.c.get (i.succ) ≤ 1) || decide (t.st.get i % t.bytes = 0)

/-- The first element of the walk that is not aligned: the base, or the first that takes a misaligned stride. -/
def Stream.misaligned (t : Stream) : Word :=
  if t.base.toNat % t.bytes ≠ 0 then t.base
  else
    let taken (i : Fin 3) : Bool := decide (1 < t.c.get i.succ) && decide (t.st.get i % t.bytes ≠ 0)
    match ([0, 1, 2] : List (Fin 3)).find? taken with
    | some i => t.base + BitVec.ofInt 64 (t.st.get i)
    | none => t.base

/-- The fault of a binding's span, with its first failing byte (R257; log 117). -/
def State.streamFault (s : State) (t : Stream) : Option AccessFault :=
  if t.total = 0 then none
  else if t.aligned = false then some (addressFault 3 t.misaligned)
  else s.ownSpan t.span.1 (t.span.2 - t.span.1).toNat

/-- An access that an SBIND waits for: a write of the stream's previous binding (R257), or one that a fence or an acquire
puts before it (R271). -/
def State.bindWaits (s : State) (n : BitVec 2) (a : Acc) : Bool :=
  decide (a.stream = some n) || decide (a.seq ∈ s.holders (scratchKey s.core.num.toNat 0) false [])

/-- The binding takes effect (R257); the first vector of a read stream can be used 4 cycles later (R260). -/
def State.bindTo (s : State) (sw : Bool) (n : BitVec 2) (v : Word) (t : Stream) : State :=
  if 2 ^ 32 ≤ t.total then s.illegal
  else
    match s.streamFault t with
    | some f => s.trapAccess f 1
    | none =>
      s.whenDone (s.bindWaits n) v fun s =>
        ((s.setStream n { t with remain := t.total, ready := s.cycle + 4 }).wantsFetch n).retire sw 4

/-- SBIND, linear form (R257). -/
def execSbind (sw : Bool) (n : BitVec 2) (a b : BitVec 5) (ty : LaneTy) (wr : Bool) (s : State) : Outcome :=
  .next (s.issue [.x a, .x b] [] fun s =>
    if 2 ^ 32 ≤ (s.readX b).toNat then s.illegal
    else
      s.bindTo sw n (s.readX a) { Stream.unbound with
        bnd := true, wr, ty, base := s.readX a, c := #v[(s.readX b).toNat, 1, 1, 1] })

/-- A field of a descriptor. -/
def fieldAt (bs : List Byte) (off n : Nat) : Nat := natOfBytes ((bs.drop off).take n)

/-- The binding that an affine descriptor gives (R257). -/
def affineStream (bs : List Byte) (ty : LaneTy) (wr : Bool) : Stream :=
  { bnd := true, wr, ty, base := BitVec.ofNat 64 (fieldAt bs 0 8),
    c := #v[fieldAt bs 8 2, fieldAt bs 10 2, fieldAt bs 12 2, fieldAt bs 14 2],
    st := #v[sextNat (fieldAt bs 16 4) 32, sextNat (fieldAt bs 20 4) 32, sextNat (fieldAt bs 24 4) 32],
    remain := 0, fetched := [], held := false, ready := 0 }

/-- SBIND, affine form: 32 bytes at xA (R257). -/
def execSbindAffine (sw : Bool) (n : BitVec 2) (a : BitVec 5) (ty : LaneTy) (wr : Bool) (s : State) : Outcome :=
  .next (s.issue [.x a] [] fun s =>
    s.withOwn (s.waitValue a) 32 32 (s.waitValue a) fun t bs =>
      if fieldAt bs 28 4 ≠ 0 then t.illegal else t.bindTo sw n (s.waitValue a) (affineStream bs ty wr))

/-- SFREE (R258): the stream's writes are performed, then it is unbound. -/
def execSfree (sw : Bool) (n : BitVec 2) (s : State) : Outcome :=
  .next (s.issue [] [] fun s =>
    s.whenDone (fun a => decide (a.stream = some n)) 0 fun s => (s.setStream n Stream.unbound).retire sw 4)

/-- SADV (R258). -/
def execSadv (sw : Bool) (n : BitVec 2) (a : BitVec 5) (s : State) : Outcome :=
  .next (s.issue [.x a] [] fun s =>
    let t := s.stream n
    if t.bnd = false ∨ (s.readX a).toInt < 0 then s.illegal
    else ((s.setStream n (t.advance (Nat.min (s.readX a).toNat t.remain))).wantsFetch n).retire sw 4)

/-- What SSTAT reads (R258). -/
def sstatWord (t : Stream) : Word :=
  if t.bnd then BitVec.ofNat 64 (2 ^ 39 + bitAt t.wr 38 + t.ty.code.toNat * 2 ^ 33 + t.remain) else 0

/-- SSTAT (R258). -/
def execSstat (sw : Bool) (d : BitVec 5) (n : BitVec 2) (s : State) : Outcome :=
  .next (s.issue [] [.x d] fun s => (s.writeX d (sstatWord (s.stream n)) 2).retire sw 4)

end Sys2Proof.Machine
end

