-- ==== Sys2Proof/Machine/Vector.lean ====
section
/-! DEFINITION. Vector instructions and the interpolator (R165 to R184). -/

namespace Sys2Proof.Machine

/-! ## Operands (R165 to R168) -/

/-- A vector field: a v register, or the stream that the prefix puts in its place (R167). -/
inductive VOpnd where
  | reg (r : BitVec 5)
  | stream (k : BitVec 2)
  deriving DecidableEq, Repr

/-- Field D under the prefix. -/
def opndD (x : Option VExt) (r : BitVec 5) : VOpnd :=
  match x with
  | some e => if e.ds then .stream e.dsn else .reg r
  | none => .reg r

/-- Field A under the prefix. -/
def opndA (x : Option VExt) (r : BitVec 5) : VOpnd :=
  match x with
  | some e => if e.as then .stream e.asn else .reg r
  | none => .reg r

/-- Field B under the prefix. -/
def opndB (x : Option VExt) (r : BitVec 5) : VOpnd :=
  match x with
  | some e => if e.bs then .stream e.bsn else .reg r
  | none => .reg r

/-- `.sat` of the prefix (R167, R172). -/
def satOf (x : Option VExt) : Variant :=
  match x with
  | some e => if e.sat then .sat else .wrap
  | none => .wrap

/-- The register that a field reads or writes. -/
def VOpnd.regs : VOpnd → List Reg
  | .reg r => [.v r]
  | .stream _ => []

/-- Register D where its old value is a source too (R165, R171, R176, R178). -/
def oldRegs (o : VOpnd) (read : Bool) : List Reg := if read then o.regs else []

/-- A field in use: its operand, its lane width and the elements it takes (R168, R178). -/
structure VField where
  opnd : VOpnd
  w : Nat
  n : Nat
  deriving DecidableEq, Repr

/-- The registers of the fields that an instruction has. -/
def fieldRegs : Option VField → List Reg
  | some f => f.opnd.regs
  | none => []

/-- A source field can be read, after `skip` elements that an earlier field takes from the same stream (R168). -/
def State.fieldReads (s : State) (skip : Nat) : Option VField → Bool
  | some ⟨.stream k, w, _⟩ => (s.stream k).usable w false skip
  | _ => true

/-- A destination field can be written (R168). -/
def State.fieldWrites (s : State) : Option VField → Bool
  | some ⟨.stream k, w, _⟩ => (s.stream k).usable w true 0
  | _ => true

/-- The elements that field A takes before field B reads the same stream (R168). -/
def skipOf : Option VField → Option VField → Nat
  | some ⟨.stream k, _, n⟩, some ⟨.stream l, _, _⟩ => if k = l then n else 0
  | _, _ => 0

/-- The next vector of a source field is not fetched yet, or not to be used yet: its use stalls issue (R168, R260). -/
def State.fieldStalls (s : State) (skip : Nat) : Option VField → Bool
  | some ⟨.stream k, _, n⟩ => !(s.stream k).has skip n s.cycle
  | _ => false

/-- A source field is read; a stream advances. A field that the instruction has not reads 0. -/
def State.takeField (s : State) : Option VField → State × Vec
  | some ⟨.reg r, _, _⟩ => (s, s.readV r)
  | some ⟨.stream k, w, n⟩ => s.streamRead k w n
  | none => (s, 0)

/-- A vector instruction: its sources are read before anything is written (R166), and a trap advances no stream
(R168). `rs` are the further registers it reads and `ws` those it writes beside the field D, and `ok` what else it requires. One whose stream
has not fetched its next vector does not issue, and leaves everything as it is (R17, R168, R184). -/
def State.vector (s : State) (sw : Bool) (x : Option VExt) (rs ws : List Reg) (d a b : Option VField) (ok : Bool)
    (k : State → Vec → Vec → State) : State :=
  let fits := s.fieldReads 0 a && s.fieldReads (skipOf a b) b && s.fieldWrites d && ok
  if fits && (s.fieldStalls 0 a || s.fieldStalls (skipOf a b) b) then s
  else
    s.issue (fieldRegs a ++ fieldRegs b ++ rs) (ws ++ fieldRegs d) fun s =>
      if fits then
        match s.takeField a with
        | (s1, va) =>
          match s1.takeField b with
          | (s2, vb) => (k s2 va vb).retire sw (extBytes x)
      else s.illegal

/-- The lanes of `new` where `active`, and of `old` elsewhere (R165). -/
def blend (w n : Nat) (active : Nat → Bool) (old new : Vec) : Vec :=
  ofLanes w n fun i => if active i then lane new w i else lane old w i

/-- The active lanes of a result go to the destination field with latency `lat` (R165, R168). -/
def State.emit (s : State) (d : VField) (active : Nat → Bool) (res : Vec) (lat : Nat) : State :=
  match d.opnd with
  | .reg r => s.writeV r (blend d.w d.n active (s.readV r) res) lat
  | .stream k => s.streamWrite k d.w d.n active (lane res d.w)

/-- The lanes that the mask field makes active: all for m = 0, which reads no register (R165). -/
def State.maskAt (s : State) (m : BitVec 3) (i : Nat) : Bool := decide (m = 0) || (s.readP m).getLsbD i

/-- The predicate that the mask field reads (R165). -/
def maskRegs (m : BitVec 3) : List Reg := if m = 0 then [] else [.p m]

/-- A field of full vectors with lanes of `w` bits. -/
def fullField (o : VOpnd) (w : Nat) : Option VField := some { opnd := o, w, n := 512 / w }

/-- A masked instruction whose result has a lane for each lane of its sources; `f` is given the old lane of vD, the lanes
of A and B; `acc` says that the old lane is a source of every lane. -/
def State.lanewise (s : State) (sw : Bool) (x : Option VExt) (d : BitVec 5) (a b : Option VOpnd) (m : BitVec 3) (w lat : Nat)
    (acc : Bool) (f : Nat → Nat → Nat → Nat) : State :=
  s.vector sw x (maskRegs m ++ oldRegs (opndD x d) (decide (m ≠ 0) || acc)) [] (fullField (opndD x d) w) (a.bind fun o => fullField o w) (b.bind fun o => fullField o w)
    true fun t va vb =>
    t.emit { opnd := opndD x d, w, n := 512 / w } (t.maskAt m)
      (ofLanes w (512 / w) fun i => f (lane (t.readV d) w i) (lane va w i) (lane vb w i)) lat

/-! ## Lane arithmetic (R171, R172) -/

/-- An integer lane from its exact result (R108, R172). -/
def intLane (t : IntTy) (v : Variant) (y : Int) : Nat := (narrowInt t v y % (2 : Int) ^ t.width).toNat

/-- An operation on two integer lanes. -/
def intLanes (t : IntTy) (v : Variant) (op : Int → Int → Int) (a b : Nat) : Nat :=
  intLane t v (op (extInt t a) (extInt t b))

/-- An operation on two float lanes, rounded once (R171). -/
def floatLanes (t : FloatTy) (op : Val → Val → Val) (a b : Nat) : Nat :=
  (FFmt.ofFloat t).round (op ((FFmt.ofFloat t).value a) ((FFmt.ofFloat t).value b))

/-- An operation on two lanes of either kind. -/
def lanes2 (t : LaneTy) (v : Variant) (iop : Int → Int → Int) (fop : Val → Val → Val) (a b : Nat) : Nat :=
  match t with
  | .int t => intLanes t v iop a b
  | .float t => floatLanes t fop a b

/-- A latency that floats have of their own (R184). -/
def latency (t : LaneTy) (int float : Nat) : Nat := if t.isFloat then float else int

/-- VADD (R171, R172). -/
def execVadd (sw : Bool) (d a b : BitVec 5) (t : LaneTy) (m : BitVec 3) (x : Option VExt) (s : State) : Outcome :=
  .next (s.lanewise sw x d (opndA x a) (opndB x b) m t.width (latency t 2 4) false fun _ => lanes2 t (satOf x) (· + ·) Val.add)

/-- VSUB (R171, R172). -/
def execVsub (sw : Bool) (d a b : BitVec 5) (t : LaneTy) (m : BitVec 3) (x : Option VExt) (s : State) : Outcome :=
  .next (s.lanewise sw x d (opndA x a) (opndB x b) m t.width (latency t 2 4) false fun _ =>
    lanes2 t (satOf x) (· - ·) fun p q => p.add q.neg)

/-- VMUL (R171, R172). -/
def execVmul (sw : Bool) (d a b : BitVec 5) (t : LaneTy) (m : BitVec 3) (x : Option VExt) (s : State) : Outcome :=
  .next (s.lanewise sw x d (opndA x a) (opndB x b) m t.width 4 false fun _ => lanes2 t (satOf x) (· * ·) Val.mul)

/-- VFMA (R171): a × b + d with one rounding. -/
def execVfma (sw : Bool) (d a b : BitVec 5) (t : FloatTy) (m : BitVec 3) (x : Option VExt) (s : State) : Outcome :=
  .next (s.lanewise sw x d (opndA x a) (opndB x b) m t.width 4 true fun c p q =>
    (FFmt.ofFloat t).round ((Val.mul ((FFmt.ofFloat t).value p) ((FFmt.ofFloat t).value q)).add ((FFmt.ofFloat t).value c)))

/-- VMIN (R171, R172). -/
def execVmin (sw : Bool) (d a b : BitVec 5) (t : LaneTy) (m : BitVec 3) (x : Option VExt) (s : State) : Outcome :=
  .next (s.lanewise sw x d (opndA x a) (opndB x b) m t.width 2 false fun _ => lanes2 t .wrap minInt Val.min)

/-- VMAX (R171, R172). -/
def execVmax (sw : Bool) (d a b : BitVec 5) (t : LaneTy) (m : BitVec 3) (x : Option VExt) (s : State) : Outcome :=
  .next (s.lanewise sw x d (opndA x a) (opndB x b) m t.width 2 false fun _ => lanes2 t .wrap maxInt Val.max)

/-- VABS (R171, R172). -/
def execVabs (sw : Bool) (d a : BitVec 5) (t : LaneTy) (m : BitVec 3) (x : Option VExt) (s : State) : Outcome :=
  .next (s.lanewise sw x d (opndA x a) none m t.width 2 false fun _ p _ =>
    lanes2 t (satOf x) (fun a _ => |a|) (fun a _ => a.abs) p 0)

/-- VAND (R172). -/
def execVand (sw : Bool) (d a b : BitVec 5) (t : IntTy) (m : BitVec 3) (x : Option VExt) (s : State) : Outcome :=
  .next (s.lanewise sw x d (opndA x a) (opndB x b) m t.width 2 false fun _ p q => p &&& q)

/-- VOR (R172). -/
def execVor (sw : Bool) (d a b : BitVec 5) (t : IntTy) (m : BitVec 3) (x : Option VExt) (s : State) : Outcome :=
  .next (s.lanewise sw x d (opndA x a) (opndB x b) m t.width 2 false fun _ p q => p ||| q)

/-- VXOR (R172). -/
def execVxor (sw : Bool) (d a b : BitVec 5) (t : IntTy) (m : BitVec 3) (x : Option VExt) (s : State) : Outcome :=
  .next (s.lanewise sw x d (opndA x a) (opndB x b) m t.width 2 false fun _ p q => p ^^^ q)

/-- VSHL (R172). -/
def execVshl (sw : Bool) (d a b : BitVec 5) (t : IntTy) (m : BitVec 3) (x : Option VExt) (s : State) : Outcome :=
  .next (s.lanewise sw x d (opndA x a) (opndB x b) m t.width 2 false fun _ p q => p * 2 ^ (q % 64) % 2 ^ t.width)

/-- VSHR (R172): arithmetic for `.s` types, logical for `.z` types. -/
def execVshr (sw : Bool) (d a b : BitVec 5) (t : IntTy) (m : BitVec 3) (x : Option VExt) (s : State) : Outcome :=
  .next (s.lanewise sw x d (opndA x a) (opndB x b) m t.width 2 false fun _ p q =>
    intLane t .wrap (extInt t p / (2 : Int) ^ (q % 64)))

/-- The condition of VCMP on two lanes (R118, R173). -/
def condLane (t : LaneTy) (c : Cond) (a b : Nat) : Bool :=
  match t with
  | .int t => condInt c (extInt t a) (extInt t b)
  | .float t => condVal c ((FFmt.ofFloat t).value a) ((FFmt.ofFloat t).value b)

/-- VCMP (R173): bits 0 to n - 1 of pD, and no other. The bits that stay are those of pD at issue, written again with the result: another
write to pD that is outstanding then loses them (DESIGN CHOICE, log 53). -/
def execVcmp (sw : Bool) (d : BitVec 3) (a b : BitVec 5) (t : LaneTy) (c : Cond) (x : Option VExt) (s : State) : Outcome :=
  .next (s.vector sw x [.p d] [] none (fullField (opndA x a) t.width) (fullField (opndB x b) t.width) true fun s va vb =>
    let n := 512 / t.width
    let bits := packNat 1 (fun i => if condLane t c (lane va t.width i) (lane vb t.width i) then 1 else 0) n
    s.writeP d (BitVec.ofNat 64 ((s.readP d).toNat / 2 ^ n * 2 ^ n + bits)) 2)

/-- VSEL (R174). -/
def execVsel (sw : Bool) (d a b : BitVec 5) (t : LaneTy) (p : BitVec 3) (x : Option VExt) (s : State) : Outcome :=
  .next (s.vector sw x [.p p] [] (fullField (opndD x d) t.width) (fullField (opndA x a) t.width)
    (fullField (opndB x b) t.width) true fun s va vb =>
    s.emit { opnd := opndD x d, w := t.width, n := 512 / t.width } (fun _ => true)
      (ofLanes t.width (512 / t.width) fun i =>
        if (s.readP p).getLsbD i then lane va t.width i else lane vb t.width i) 2)

/-! ## Rearrangement (R175, R176) -/

/-- What VSHUF gives (R175), for lanes of `w` bits. -/
def shuffle (f : ShufFn) (w : Nat) (a b : Vec) : Vec :=
  let n := 512 / w
  let h := n / 2
  match f with
  | .lo => ofLanes w n fun i => if i % 2 = 0 then lane a w (i / 2) else lane b w (i / 2)
  | .hi => ofLanes w n fun i => if i % 2 = 0 then lane a w (h + i / 2) else lane b w (h + i / 2)
  | .even => ofLanes w n fun i => if i < h then lane a w (2 * i) else lane b w (2 * (i - h))
  | .odd => ofLanes w n fun i => if i < h then lane a w (2 * i + 1) else lane b w (2 * (i - h) + 1)
  | .rev => ofLanes w n fun i => lane a w (n - 1 - i)
  | .pk6 => ofLanes 6 64 fun i => lane a 8 i
  | .up6 => ofLanes 8 64 fun i => lane a 6 i

/-- VSHUF (R175). -/
def execVshuf (sw : Bool) (d a b : BitVec 5) (t : Ty) (f : ShufFn) (x : Option VExt) (s : State) : Outcome :=
  .next (s.vector sw x [] [] (fullField (opndD x d) t.cvtWidth) (fullField (opndA x a) t.cvtWidth)
    (if f.usesB then fullField (opndB x b) t.cvtWidth else none) true fun s va vb =>
    s.emit { opnd := opndD x d, w := t.cvtWidth, n := 512 / t.cvtWidth } (fun _ => true) (shuffle f t.cvtWidth va vb) 3)

/-- VPERM (R176). -/
def execVperm (sw : Bool) (d a b : BitVec 5) (t : IntTy) (m : BitVec 3) (x : Option VExt) (s : State) : Outcome :=
  .next (s.vector sw x (maskRegs m ++ oldRegs (opndD x d) (decide (m ≠ 0))) [] (fullField (opndD x d) t.width) (fullField (opndA x a) t.width)
    (fullField (opndB x b) t.width) true fun s va vb =>
    s.emit { opnd := opndD x d, w := t.width, n := 512 / t.width } (s.maskAt m)
      (ofLanes t.width (512 / t.width) fun i => lane va t.width (lane vb t.width i % (512 / t.width))) 3)

/-- VBCAST (R176). -/
def execVbcast (sw : Bool) (d a : BitVec 5) (t : LaneTy) (m : BitVec 3) (x : Option VExt) (s : State) : Outcome :=
  .next (s.vector sw x (.x a :: maskRegs m ++ oldRegs (opndD x d) (decide (m ≠ 0))) [] (fullField (opndD x d) t.width) none none true fun s _ _ =>
    s.emit { opnd := opndD x d, w := t.width, n := 512 / t.width } (s.maskAt m)
      (ofLanes t.width (512 / t.width) fun _ => (s.readX a).toNat) 2)

/-- A lane as an x register: sign-extended for `.s` types (R176). -/
def laneWord (t : LaneTy) (v : Nat) : Word :=
  match t with
  | .int t => wrap64 (extInt t v)
  | .float _ => BitVec.ofNat 64 v

/-- VMOVX, extract (R176). -/
def execVmovxExtract (sw : Bool) (d a b : BitVec 5) (t : LaneTy) (x : Option VExt) (s : State) : Outcome :=
  .next (s.vector sw x [.x b] [.x d] none (fullField (opndA x a) t.width) none true fun s va _ =>
    s.writeX d (laneWord t (lane va t.width ((s.readX b).toNat % (512 / t.width)))) 2)

/-- VMOVX, insert (R176): lane j alone is active. -/
def execVmovxInsert (sw : Bool) (d a b : BitVec 5) (t : LaneTy) (x : Option VExt) (s : State) : Outcome :=
  .next (s.vector sw x (.x a :: .x b :: oldRegs (opndD x d) true) [] (fullField (opndD x d) t.width) none none true fun s _ _ =>
    s.emit { opnd := opndD x d, w := t.width, n := 512 / t.width }
      (fun i => decide (i = (s.readX b).toNat % (512 / t.width)))
      (ofLanes t.width (512 / t.width) fun _ => (s.readX a).toNat) 2)

/-! ## Reduction, conversion, reciprocals (R177 to R179) -/

/-- One step of a reduction on integers (R177). -/
def combineInt (op : RedOp) (w : Nat) (a b : Int) : Int :=
  let un (i : Int) : Nat := (i % (2 : Int) ^ w).toNat
  match op with
  | .add => a + b
  | .min => minInt a b
  | .max => maxInt a b
  | .and => (un a &&& un b : Nat)
  | .or => (un a ||| un b : Nat)
  | .xor => (un a ^^^ un b : Nat)

/-- The identity of a reduction on integers (R177). -/
def identityInt (op : RedOp) (t : IntTy) : Int :=
  match op with
  | .add => 0
  | .min => hiInt t
  | .max => loInt t
  | .and => (2 : Int) ^ t.width - 1
  | .or => 0
  | .xor => 0

/-- One step of a reduction on floats: each addition is rounded to FP32 (R97, R177). -/
def combineVal (op : RedOp) (a b : Val) : Val :=
  match op with
  | .add => fmtF32.value (fmtF32.round (a.add b))
  | .min => a.min b
  | .max => a.max b
  | .and => a
  | .or => a
  | .xor => a

/-- The identity of a reduction on floats (R177). -/
def identityVal (op : RedOp) : Val :=
  match op with
  | .add => .num false 0 0
  | .min => .inf false
  | .max => .inf true
  | .and => .num false 0 0
  | .or => .num false 0 0
  | .xor => .num false 0 0

/-- What VRED writes for the active lanes in ascending order (R177). -/
def reduceWord (op : RedOp) (t : LaneTy) (act : List Nat) : Word :=
  match t with
  | .int t =>
    let y := match act.map (extInt t) with
      | [] => identityInt op t
      | l :: ls => ls.foldl (combineInt op t.width) l
    match op with
    | .add => wrap64 y
    | _ => wrap64 (extInt t (y % (2 : Int) ^ t.width).toNat)
  | .float t =>
    let y := match act.map (FFmt.ofFloat t).value with
      | [] => identityVal op
      | l :: ls => ls.foldl (combineVal op) l
    BitVec.ofNat 64 (fmtF32.round y)

/-- VRED (R177). -/
def execVred (sw : Bool) (d a : BitVec 5) (op : RedOp) (t : LaneTy) (m : BitVec 3) (x : Option VExt) (s : State) : Outcome :=
  .next (s.vector sw x (maskRegs m) [.x d] none (fullField (opndA x a) t.width) none true fun s va _ =>
    s.writeX d (reduceWord op t (((List.range (512 / t.width)).filter (s.maskAt m)).map (lane va t.width))) 20)

/-- The c elements of a conversion, written from element `first` on among the lanes of vD (R178). -/
def convert (src dst : Ty) (c from_ first : Nat) (old a : Vec) : Vec :=
  ofLanes dst.cvtWidth (512 / dst.cvtWidth) fun i =>
    if first ≤ i ∧ i < first + c then elemRound dst (elemValue src (lane a src.cvtWidth (from_ + (i - first))))
    else lane old dst.cvtWidth i

/-- VCVT (R178): part k concerns a register side only. -/
def execVcvt (sw : Bool) (d a : BitVec 5) (src dst : Ty) (k : BitVec 3) (x : Option VExt) (s : State) : Outcome :=
  let c := 512 / Nat.max src.cvtWidth dst.cvtWidth
  .next (s.vector sw x (oldRegs (opndD x d) (decide (dst.cvtWidth < src.cvtWidth))) [] (some { opnd := opndD x d, w := dst.cvtWidth, n := c })
    (some { opnd := opndA x a, w := src.cvtWidth, n := c }) none true fun s va _ =>
    let from_ := match opndA x a with
      | .reg _ => if src.cvtWidth < dst.cvtWidth then c * k.toNat else 0
      | .stream _ => 0
    match opndD x d with
    | .reg r =>
      s.writeV r (convert src dst c from_ (if dst.cvtWidth < src.cvtWidth then c * k.toNat else 0) (s.readV r) va) 3
    | .stream q => s.streamWrite q dst.cvtWidth c (fun _ => true) (lane (convert src dst c from_ 0 0 va) dst.cvtWidth))

/-- VRCP (R179). -/
def execVrcp (sw : Bool) (d a : BitVec 5) (t : FloatTy) (m : BitVec 3) (x : Option VExt) (s : State) : Outcome :=
  .next (s.lanewise sw x d (opndA x a) none m t.width 10 false fun _ p _ => floatLanes t (fun a _ => a.rcp) p 0)

/-- VRSQ (R179). -/
def execVrsq (sw : Bool) (d a : BitVec 5) (t : FloatTy) (m : BitVec 3) (x : Option VExt) (s : State) : Outcome :=
  .next (s.lanewise sw x d (opndA x a) none m t.width 10 false fun _ p _ => floatLanes t (fun a _ => a.rsq) p 0)

/-! ## The interpolator (R180 to R183) -/

/-- A field of a table's header is out of range (R180, R181). -/
def badTable (bs : List Byte) : Bool :=
  let e := sextNat (fieldAt bs 4 2) 16
  let n := fieldAt bs 6 2
  let f := fieldAt bs 16 4
  decide (e < -64) || decide (64 < e) || decide (n = 0) || decide (128 < n) || decide (f / 16 ≠ 0) || decide (f % 4 = 3)
    || decide (f / 4 % 4 = 3) || decide (natOfBytes ((bs.drop 20).take 12) ≠ 0)

/-- A binary32 at an offset. -/
def f32At (bs : List Byte) (off : Nat) : BitVec 32 := BitVec.ofNat 32 (fieldAt bs off 4)

/-- The table that the bytes hold (R180). -/
def tableOf (bs : List Byte) : Table :=
  { lo := f32At bs 0, e := sextNat (fieldAt bs 4 2) 16, nseg := fieldAt bs 6 2, below := f32At bs 8, above := f32At bs 12,
    belowMode := BitVec.ofNat 2 (fieldAt bs 16 4), aboveMode := BitVec.ofNat 2 (fieldAt bs 16 4 / 4),
    coef := (List.range (fieldAt bs 6 2)).map fun j =>
      (f32At bs (32 + 12 * j), f32At bs (36 + 12 * j), f32At bs (40 + 12 * j)) }

/-- The first key among some bytes that holds uncorrectable data (R181). -/
def State.firstBad (s : State) (key n : Nat) : Option Nat :=
  match (s.bad.filter fun b => overlaps key n (b.1 * 64) 64).map fun b => Nat.max key (b.1 * 64) with
  | [] => none
  | k :: ks => some (ks.foldl Nat.min k)

/-- Bytes that VTBLD reads in the own scratchpad: uncorrectable data among them raises cause 0x18 precisely (R181). -/
def State.tableBytes (s : State) (a : Word) (n : Nat) (k : State → List Byte → State) : State :=
  match s.checkOwn a n 4 with
  | (t, .error f) => t.trapAccess f 1
  | (t, .ok p) =>
    match t.firstBad p.key n with
    | some b =>
      (t.logBad false 0 (a + BitVec.ofNat 64 (b - p.key))).trapHere 0x18 0 (a + BitVec.ofNat 64 (b - p.key))
    | none => t.withOwn a n 4 a k

/-- VTBLD (R181). A malformed header is illegal before the coefficients are looked at: R181 gives no order (DESIGN CHOICE, log 137). -/
def execVtbld (sw : Bool) (n : BitVec 2) (a : BitVec 5) (s : State) : Outcome :=
  .next (s.issue [.x a] [] fun s =>
    let at_ := s.waitValue a
    s.tableBytes at_ 32 fun s header =>
      if badTable header then s.trapHere 0x02 0 at_
      else s.tableBytes at_ (32 + 12 * fieldAt header 6 2) fun s bs =>
        (s.modCore fun c => { c with tabs := c.tabs.set n.toNat (some (tableOf bs)) n.isLt }).retire sw 4)

/-- A quadratic segment at `t`, rounded once; a coefficient that is not finite gives NaN (R182). -/
def Table.segment (tb : Table) (j : Nat) (t : Val) : Nat :=
  let c := tb.coef.getD j (0, 0, 0)
  match fmtF32.value c.1.toNat, fmtF32.value c.2.1.toNat, fmtF32.value c.2.2.toNat with
  | .num s0 m0 q0, .num s1 m1 q1, .num s2 m2 q2 =>
    fmtF32.round (((Val.num s0 m0 q0).add ((Val.num s1 m1 q1).mul t)).add ((Val.num s2 m2 q2).mul (t.mul t)))
  | _, _, _ => fmtF32.nanCode

/-- A constant of a table as a result: a NaN is the canonical one, and no payload passes (R86). -/
def constant (c : BitVec 32) : Nat :=
  match fmtF32.value c.toNat with
  | .nan => fmtF32.nanCode
  | _ => c.toNat

/-- `edge` of R182. -/
def Table.edge (tb : Table) (mode : BitVec 2) (const : BitVec 32) (seg : Nat) (t x : Val) (bits : Nat) : Nat :=
  if mode = 0 then constant const
  else if mode = 2 then bits
  else
    match x, t with
    | .inf _, _ => fmtF32.nanCode
    | _, .num _ _ _ => tb.segment seg t
    | _, _ => fmtF32.nanCode

/-- A value times a power of two, exactly. -/
def Val.scale (v : Val) (e : Int) : Val :=
  match v with
  | .nan => .nan
  | .inf s => .inf s
  | .num s m q => .num s m (q + e)

/-- The integer part of a value that is not negative. -/
def Val.floor : Val → Nat
  | .num _ m q => if 0 ≤ q then m * 2 ^ q.toNat else m / 2 ^ (-q).toNat
  | _ => 0

/-- One lane of VINTERP (R182). -/
def Table.eval (tb : Table) (bits : Nat) : Nat :=
  let x := fmtF32.value bits
  match x.add (fmtF32.value tb.lo.toNat).neg with
  | .nan => fmtF32.nanCode
  | v =>
    let u := v.scale (-tb.e)
    if u.cmp (.num false 0 0) = .lt then tb.edge tb.belowMode tb.below 0 u x bits
    else if u.cmp (Val.ofInt tb.nseg) ≠ .lt then
      tb.edge tb.aboveMode tb.above (tb.nseg - 1) (u.add (Val.ofInt (1 - (tb.nseg : Int)))) x bits
    else tb.segment u.floor (u.add (Val.ofInt (-(u.floor : Int))))

/-- VINTERP (R182, R183): the whole table of the slot, as it is at issue. -/
def execVinterp (sw : Bool) (d a : BitVec 5) (n : BitVec 2) (m : BitVec 3) (x : Option VExt) (s : State) : Outcome :=
  .next (s.vector sw x (maskRegs m ++ oldRegs (opndD x d) (decide (m ≠ 0))) [] (fullField (opndD x d) 32) (fullField (opndA x a) 32) none
    (s.core.tabs.get n.toFin).isSome fun s va _ =>
    s.emit { opnd := opndD x d, w := 32, n := 16 } (s.maskAt m)
      (ofLanes 32 16 fun i => match s.core.tabs.get n.toFin with | some tb => tb.eval (lane va 32 i) | none => 0) 8)

end Sys2Proof.Machine
end

