-- ==== Sys2Proof/Machine/MemoryAccess.lean ====
section
/-! DEFINITION. Memory access and translation instructions (R187 to R211), and the events by which accesses, walks and
invalidations end. -/

namespace Sys2Proof.Machine

/-! ## Loads and stores (R189 to R192) -/

/-- Bytes of a memory width (R37). -/
def memBytes (w : MemWidth) : Nat := memBits w / 8

/-- A load of `n` bytes that gives register `r` its value; `order` is the scope of an acquire (R191). -/
def State.load (s : State) (sw : Bool) (size : Nat) (r : Reg) (rs : List Reg) (a : Word) (n : Nat) (f : LoadForm)
    (order : Option Scope) (k : State → Nat → State) : State :=
  s.access .load a n n fun s p h =>
    let t := s.writeLater r 0 1
    let q := t.seq
    let u := t.push (t.newAcc p.key n a p.page (.load f s.seq) (s.holders p.key true rs))
    let v := match order with | some c => u.addBarrier { seq := q, scope := c, loads := true } | none => u
    (k v q).retireAfter sw size h

/-- The scope at which an ordered access is an acquire or a release. -/
def orderOf (o : Bool) (c : Scope) : Option Scope := if o then some c else none

/-- LD (R189, R191). -/
def execLd (sw : Bool) (d a b : BitVec 5) (w : LdWidth) (c : Scope) (o : Bool) (k : BitVec 2) (ext : Ext) (s : State) :
    Outcome :=
  .next (s.issue [.x a, .x b] [.x d] fun s =>
    s.load sw (extBytes ext) (.x d) [.x a, .x b] (s.address a b k ext) (ldBytes w) (.scalar w) (orderOf o c) fun s _ => s)

/-- LDC (R192): its destination is tainted by it, and by its address. -/
def execLdc (sw : Bool) (d a b : BitVec 5) (w : LdWidth) (k : BitVec 2) (ext : Ext) (s : State) : Outcome :=
  .next (s.issue [.x a, .x b] [.x d] fun s =>
    s.load sw (extBytes ext) (.x d) [.x a, .x b] (s.address a b k ext) (ldBytes w) (.scalar w) none fun s q =>
      s.modCtx fun c => c.setTaint (.reg (.x d)) (c.inTaint ++ [q]))

/-- VLDB (R189): the element is read once. -/
def execVldb (sw : Bool) (d a b : BitVec 5) (w : MemWidth) (k : BitVec 2) (ext : Ext) (s : State) : Outcome :=
  .next (s.issue [.x a, .x b] [.v d] fun s =>
    s.load sw (extBytes ext) (.v d) [.x a, .x b] (s.address a b k ext) (memBytes w) (.broadcast w) none fun s _ => s)

/-- The accesses of the lanes of an instruction, one after another; `mk` gives each its lane (R190, R193). -/
def State.pushLanes (inst : Nat) (mk : State → Nat → Acc) : List Nat → State → State
  | [], s => s
  | i :: is, s => State.pushLanes inst mk is (s.push { mk s i with inst, lane := i })

/-- The eight words of a VLD or a VST, each an access of its own (R190). -/
def words8 : List Nat := List.range 8

/-- VLD (R189, R190). -/
def execVld (sw : Bool) (d a b : BitVec 5) (c : Scope) (o : Bool) (k : BitVec 2) (ext : Ext) (s : State) : Outcome :=
  .next (s.issue [.x a, .x b] [.v d] fun s =>
    let at_ := s.address a b k ext
    s.access .load at_ 64 64 fun s p h =>
      let t := s.writeLater (.v d) 0 8
      let after := s.holders p.key true [.x a, .x b]
      let u := State.pushLanes t.seq (fun u i =>
        u.newAcc (p.key + 8 * i) 8 (at_ + BitVec.ofNat 64 (8 * i)) p.page (.load (.lane i 64) s.seq) after) words8 t
      let v := if o then
          u.modCtx fun x => { x with order := x.order ++ words8.map fun i => { seq := t.seq + i, scope := c, loads := true } }
        else u
      v.retireAfter sw (extBytes ext) h)

/-- What a store waits for: at O = 1 every earlier access of the context within the scope (R191). -/
def State.storeAfter (s : State) (o : Bool) (c : Scope) (key : Nat) (rs : List Reg) : List Nat :=
  s.holders key false rs ++ (if o then s.earlier c else [])

/-- ST (R189, R191): the data register orders nothing. -/
def execSt (sw : Bool) (d a b : BitVec 5) (w : MemWidth) (c : Scope) (o : Bool) (k : BitVec 2) (ext : Ext) (s : State) :
    Outcome :=
  .next (s.issue [.x a, .x b, .x d] [] fun s =>
    let at_ := s.address a b k ext
    s.access .store at_ (memBytes w) (memBytes w) fun s p h =>
      let bs := bytesOfNat (s.readX d).toNat (memBytes w)
      ((s.push (s.newAcc p.key (memBytes w) at_ p.page (.store bs) (s.storeAfter o c p.key [.x a, .x b]))).sign
        at_.toNat (memBytes w) bs).retireAfter sw (extBytes ext) h)

/-- VST (R189, R190, R191). -/
def execVst (sw : Bool) (d a b : BitVec 5) (c : Scope) (o : Bool) (k : BitVec 2) (ext : Ext) (s : State) : Outcome :=
  .next (s.issue [.x a, .x b, .v d] [] fun s =>
    let at_ := s.address a b k ext
    s.access .store at_ 64 64 fun s p h =>
      let after := s.storeAfter o c p.key [.x a, .x b]
      (State.pushLanes s.seq (fun u i =>
        u.newAcc (p.key + 8 * i) 8 (at_ + BitVec.ofNat 64 (8 * i)) p.page (.store (bytesOfNat (lane (s.readV d) 64 i) 8))
          after) words8 s |>.sign at_.toNat 64 (bytesOfNat (s.readV d).toNat 64)).retireAfter sw (extBytes ext) h)

/-! ## Gather and scatter (R193) -/

/-- A fault of one lane (R193, R196). -/
def AccessFault.atLane (f : AccessFault) (i : Nat) : AccessFault :=
  { f with detail := f.detail + BitVec.ofNat 32 (i * 2 ^ 24) }

/-- The checks of the lanes listed, in ascending order: every place, or the lowest failing lane, and the longest hold. R212 states no
hold for an instruction one of whose lanes fails: the model takes the failing lane's own translation time (DESIGN CHOICE, log 115). -/
def State.checkLanes (acc : Access) (n : Nat) (at_ : Nat → Word) :
    List Nat → State → State × Except AccessFault (List (Nat × Place)) × Nat
  | [], s => (s, .ok [], 1)
  | i :: is, s =>
    match s.check acc (at_ i) n n s.exchange with
    | (t, .error f, h) => (t, .error (f.atLane i), h)
    | (t, .ok p, h) =>
      match State.checkLanes acc n at_ is t with
      | (u, .error f, g) => (u, .error f, g)
      | (u, .ok ps, g) => (u, .ok ((i, p) :: ps), Nat.max h g)

/-- The address of lane `i` of VGTH and VSCT (R188). -/
def State.laneAddr (s : State) (a b : BitVec 5) (w : Nat) (k : BitVec 2) (i : Nat) : Word :=
  s.readX a + BitVec.ofNat 64 (lane (s.readV b) w i) <<< k.toNat

/-- The active lanes (R165). -/
def State.activeLanes (s : State) (m : BitVec 3) (w : Nat) : List Nat := (List.range (512 / w)).filter (s.maskAt m)

/-- The accesses of checked lanes. -/
def State.pushPlaces (inst : Nat) (mk : State → Nat → Place → Acc) : List (Nat × Place) → State → State
  | [], s => s
  | (i, p) :: ps, s => State.pushPlaces inst mk ps (s.push { mk s i p with inst, lane := i })

/-- VGTH (R193): the active lanes of vD are written together. -/
def execVgth (sw : Bool) (d a b : BitVec 5) (w : MemWidth) (m : BitVec 3) (k : BitVec 2) (s : State) : Outcome :=
  .next (s.issue ([.x a, .v b] ++ maskRegs m ++ (if m = 0 then [] else [.v d])) [.v d] fun s =>
    match State.checkLanes .load (memBytes w) (s.laneAddr a b (memBits w) k) (s.activeLanes m (memBits w)) s with
    | (t, .error f, h) => t.trapAccess f h
    | (t, .ok ps, h) =>
      let u := t.writeLater (.v d) (t.readV d) ps.length
      (State.pushPlaces u.seq (fun x i p =>
        x.newAcc p.key (memBytes w) (t.laneAddr a b (memBits w) k i) p.page (.load (.lane i (memBits w)) t.seq)
          (t.holders p.key true [.x a, .v b])) ps u).retireAfter sw 4 h)

/-- The stores of the lanes of a VSCT are folded, lane by lane (R161). -/
def State.signLanes (w : Nat) (at_ : Nat → Word) (v : Vec) : List Nat → State → State
  | [], s => s
  | i :: is, s => State.signLanes w at_ v is (s.sign (at_ i).toNat (w / 8) (bytesOfNat (lane v w i) (w / 8)))

/-- VSCT (R193): of lanes that share an address the highest one's value remains. -/
def execVsct (sw : Bool) (d a b : BitVec 5) (w : MemWidth) (m : BitVec 3) (k : BitVec 2) (s : State) : Outcome :=
  .next (s.issue ([.x a, .v b] ++ maskRegs m ++ [.v d]) [] fun s =>
    match State.checkLanes .store (memBytes w) (s.laneAddr a b (memBits w) k) (s.activeLanes m (memBits w)) s with
    | (t, .error f, h) => t.trapAccess f h
    | (t, .ok ps, h) =>
      let u := State.pushPlaces t.seq (fun x i p =>
        x.newAcc p.key (memBytes w) (t.laneAddr a b (memBits w) k i) p.page
          (.store (bytesOfNat (lane (t.readV d) (memBits w) i) (memBytes w))) (t.holders p.key false [.x a, .v b])) ps t
      (State.signLanes (memBits w) (t.laneAddr a b (memBits w) k) (t.readV d) (ps.map (·.1)) u).retireAfter sw 4 h)

/-! ## PREF and FLUSH (R194, R195) -/

/-- The cycles that the translation of an address takes (R212). -/
def State.translateTime (s : State) (a : Word) : Nat := (s.check .locate a 1 1 s.exchange).2.2

/-- PREF (R194): it starts a translation, and traps never; the context goes on after the translation's time (R212). -/
def execPref (sw : Bool) (a b : BitVec 5) (k : BitVec 2) (ext : Ext) (s : State) : Outcome :=
  .next (s.issue [.x a, .x b] [] fun s =>
    (s.post (.walk (s.address a b k ext))).retireAfter sw (extBytes ext) (s.translateTime (s.address a b k ext)))

/-- An address that a waiting instruction formed when it first issued, or the address `v` now (R188). -/
def State.waitAddress (s : State) (v : Word) : Word := match s.ctx.wait with | some w => w.addr | none => v

/-- FLUSH on a checked line, from the cycle `ready` on: it waits with the line's home key (R195, R212). -/
def State.flushLine (s : State) (sw : Bool) (size : Nat) (c : Scope) (line ready : Nat) : State :=
  if s.accs.any fun u => s.storesTo line u && s.within c u.key then
    (s.block .other 0 (BitVec.ofNat 64 line)).modCtx fun x => { x with wait := x.wait.map fun w => { w with ready } }
  else s.retireAfter sw size (ready - s.cycle)

/-- FLUSH (R195): the context issues nothing until its earlier stores and atomics to the line are performed at the
scope, and its translation is done (R212). -/
def execFlush (sw : Bool) (a b : BitVec 5) (c : Scope) (k : BitVec 2) (ext : Ext) (s : State) : Outcome :=
  .next (s.issue [.x a, .x b] [] fun s =>
    match s.ctx.wait with
    | some w => s.flushLine sw (extBytes ext) c w.addr.toNat w.ready
    | none =>
      s.access .flush (s.address a b k ext) 1 1 fun s p h => s.flushLine sw (extBytes ext) c (p.key / 64 * 64) (s.cycle + h))

/-! ## Translation (R205 to R208) -/

/-- What TLBPRB reads (R205): the leaf that an access would use, or 0. -/
def State.probeLeaf (s : State) (a : Word) : State × Word :=
  match regionOf a with
  | .translated =>
    match s.translate a with
    | (t, r) => (t, match r.found with | .ok e => e.leaf | .error _ => 0)
  | _ => (s, 0)

/-- TLBPRB (R205). -/
def execTlbprb (sw : Bool) (d a : BitVec 5) (s : State) : Outcome :=
  .next (s.issue [.x a] [.x d] fun s =>
    match s.probeLeaf (s.readX a) with
    | (t, w) => (t.writeLater (.x d) (w.setWidth 512) 0).retire sw 4)

/-- A page overlaps the bytes that a TLBINV names (R206). -/
def Tlbinv.covers (i : Tlbinv) (base bytes : Nat) : Bool :=
  decide (bytes ≠ 0) && (decide (i.bytes = 0) || overlaps base bytes i.lo i.bytes)

/-- The cached entries that stay (R206). -/
def Tlbinv.keep (i : Tlbinv) (l : List TlbEntry) : List TlbEntry := l.filter fun e => !i.covers e.va (pageBytes e.level)

/-- The matching entries leave every TLB of the scope (R206). -/
def State.dropEntries (s : State) (i : Tlbinv) : State :=
  { s with
    micro := i.keep s.micro,
    clutlb := if i.scope = .core then s.clutlb else i.keep s.clutlb,
    lasttlb := if i.scope = .dev then i.keep s.lasttlb else s.lasttlb }

/-- TLBINV (R206). -/
def execTlbinv (sw : Bool) (a b : BitVec 5) (c : Scope) (s : State) : Outcome :=
  .next (s.issue [.x a, .x b] [] fun s =>
    if s.job.mapctl = false then s.illegal
    else if 4 ≤ s.ctx.tlbinvs.length then s.block .other 0 (s.readX a)
    else
      let i : Tlbinv :=
        { lo := (s.readX a).toNat, bytes := (s.readX b).toNat, scope := c, dropped := false, held := false, ready := 0,
          after := (s.accs.filter fun u => s.mine u && u.op.writes && s.within .dev u.key).map (·.seq) }
      ((s.modCtx fun x => { x with tlbinvs := x.tlbinvs ++ [i] }).post (.tlbinvCompletion s.cur)).retire sw 4)

/-- Some access or started engine command that a TLBINV waits for is not done. -/
def State.invWaits (s : State) (i : Tlbinv) : Bool :=
  (s.accs.any fun u => decide (u.seq ∈ i.after))
    || s.core.chans.toList.any fun q => q.cmds.any fun c => decide (c.seq ∈ i.after)

/-- The accesses and engine commands that a dropped entry has translated (R206). -/
def State.translatedBy (s : State) (i : Tlbinv) : List Nat :=
  ((s.accs.filter fun u => i.covers u.page.1 u.page.2).map (·.seq))
    ++ (s.core.chans.toList.flatMap fun q =>
      (q.cmds.filter fun c => c.used.any fun e => i.covers e.va (pageBytes e.level)).map (·.seq))

/-- The cycles of a TLBINV beside its waits (R212). -/
def invTime (c : Scope) : Nat := match c with | .core => 8 | .clu => 40 | _ => 400

/-- A context's TLBINVs go on: one drops its entries once the earlier stores are performed, and is complete once every access that a
dropped entry translated is, and its time is over (R206, R212). -/
def State.runInvs : List Tlbinv → State → State × List Tlbinv
  | [], s => (s, [])
  | i :: is, s =>
    if s.invWaits i then ((State.runInvs is s).1, { i with held := true } :: (State.runInvs is s).2)
    else if i.dropped then
      (if s.cycle < i.ready then ((State.runInvs is s).1, i :: (State.runInvs is s).2) else State.runInvs is s)
    else
      let t := s.dropEntries i
      let j : Tlbinv := { i with dropped := true, after := s.translatedBy i, ready := s.cycle + invTime i.scope }
      ((State.runInvs is t).1, { j with held := t.invWaits j } :: (State.runInvs is t).2)

/-- TLBINV_COMPLETION (R206): the context's TLBINVs go on as far as they can. -/
def execTlbinvCompletion (ctx : Fin 11) (s : State) : Outcome :=
  .next (match State.runInvs (s.ctxAt ctx).tlbinvs s with
    | (t, is) => t.modCtxAt ctx fun c => { c with tlbinvs := is })

/-- TLBWAIT (R207). -/
def execTlbwait (sw : Bool) (s : State) : Outcome :=
  .next (s.issue [] [] fun s => if s.ctx.tlbinvs.isEmpty then s.retire sw 4 else s.block .other 0 0)

/-- What RGNQ reads (R211): entry 0 allows any writer, and one not loaded for the job reads 0. -/
def State.regionWord (s : State) (r : Nat) : Word :=
  if r = 0 then 0x0001C000C000C000#64
  else match s.region r with | some e => BitVec.ofNat 64 (2 ^ 48 + e.toNat) | none => 0

/-- RGNQ (R211). -/
def execRgnq (sw : Bool) (d a : BitVec 5) (s : State) : Outcome :=
  .next (s.issue [.x a] [.x d] fun s =>
    if 255 < (s.readX a).toNat then s.illegal
    else (s.writeLater (.x d) ((s.regionWord (s.readX a).toNat).setWidth 512) 0).retire sw 4)

/-! ## Events -/

/-- WALK (R200, R204): the translation of an address enters the TLBs, unless they hold it. -/
def execWalk (va : Word) (s : State) : Outcome := .next (if s.job.running then (s.probeLeaf va).1 else s)

/-- DEFERRED_UNCORRECTABLE (R197): cause 0x18 is taken at the context's next instruction boundary. -/
def execDeferredUncorrectable (ctx : Fin 11) (_seq : Nat) (source : BitVec 3) (iaddr caddr : Word) (s : State) : Outcome :=
  .next (if (s.ctxAt ctx).live then
      s.modCtxAt ctx fun c =>
        { c with deferred := c.deferred ++ [{ TrapInfo.at iaddr 0x18 (badDetail true source.toNat) caddr with next := true }] }
    else s)

end Sys2Proof.Machine
end

