-- ==== Sys2Proof/Machine/Landing.lean ====
section
/-! DEFINITION. The landing set (R213 to R229): tagged loads, takes, faults and their restart, take order and replay. -/

namespace Sys2Proof.Machine

/-! ## Slots (R213, R214) -/

/-- A slot of a context. -/
def Ctx.slot (c : Ctx) (t : BitVec 5) : Slot := c.slots.get t.toFin

/-- A slot replaced. -/
def Ctx.setSlot (c : Ctx) (t : BitVec 5) (x : Slot) : Ctx := { c with slots := c.slots.set t.toNat x t.isLt }

/-- Vector class: width code 7 (R213). -/
def Slot.isVec (x : Slot) : Bool := match x.width with | .vec => true | .scalar _ => false

/-- The bytes of a tagged load (R216). -/
def tagBytes : TagWidth → Nat
  | .scalar w => ldBytes w
  | .vec => 64

/-- A state's code in the tag-busy DETAIL (R216). -/
def SlotState.code : SlotState → Nat
  | .free => 0 | .pending => 1 | .landed => 2 | .faulted => 3

/-- The tags in ascending order. -/
def allTags : List (BitVec 5) := (List.range 32).map (BitVec.ofNat 5)

/-- A slot that holds a load of the class `v` (R219). -/
def Ctx.inClass (c : Ctx) (v : Bool) (t : BitVec 5) : Bool :=
  decide ((c.slot t).state ≠ .free) && decide ((c.slot t).isVec = v)

/-- The slot of lowest rank among some tags. -/
def Ctx.lowestRank (c : Ctx) : List (BitVec 5) → Option (BitVec 5)
  | [] => none
  | t :: ts =>
    match c.lowestRank ts with
    | none => some t
    | some u => if (c.slot t).rank ≤ (c.slot u).rank then some t else some u

/-! ## Launching (R216, R217) -/

/-- A slot's load starts: checked in full, it goes out as a relaxed read, or a marker lands (R216, R217, R222). -/
def State.launch (s : State) (t : BitVec 5) : State :=
  let x := s.ctx.slot t
  match s.check .load x.addr (tagBytes x.width) (tagBytes x.width) s.exchange with
  | (u, .error f, _) =>
    let v := if f.isViolation then u.violation f.cause f.detail f.addr else u
    (v.modCtx fun c => c.setSlot t { x with state := .pending, read := false, cause := f.cause, detail := f.detail, caddr := f.addr }).post
      (.slotLands s.cur t)
  | (u, .ok p, _) =>
    (u.modCtx fun c => c.setSlot t { x with state := .pending, read := false, load := u.seq, cause := 0, detail := 0, caddr := 0 }).push
      (u.newAcc p.key (tagBytes x.width) x.addr p.page (.tagged t) (u.holders p.key true [] ++ x.taint))

/-- LDT (R216): the tag-busy trap is precise, and nothing is launched. -/
def execLdt (sw : Bool) (n a b : BitVec 5) (w : TagWidth) (k : BitVec 2) (ext : Ext) (s : State) : Outcome :=
  .next (s.issue [.x a, .x b] [] fun s =>
    let x := s.ctx.slot n
    if x.state ≠ .free then s.trapHere 0x0B (BitVec.ofNat 32 (n.toNat + 256 * x.state.code)) 0
    else
      ((s.modCtx fun c =>
        { c.setSlot n { Slot.free with width := w, addr := s.address a b k ext, rank := c.nextRank,
                                       taint := c.taintOf [.reg (.x a), .reg (.x b)] } with
          nextRank := c.nextRank + 1 }).launch n).retire sw (extBytes ext))

/-- A pending slot has what it is to land: what its load has read, or the marker of a failed check (R217, R218). -/
def State.slotRead (s : State) (ctx : Fin 11) (tag : BitVec 5) : Bool :=
  let x := (s.ctxAt ctx).slot tag
  decide (x.state = .pending) && (x.read || decide (x.cause ≠ 0))

/-- It lands (R214). -/
def State.landRead (s : State) (ctx : Fin 11) (tag : BitVec 5) : State :=
  s.landSlot ctx tag fun x => { x with state := if x.cause = 0 then .landed else .faulted, read := false }

/-- SLOT_LANDS (R214, R217): the data that the load has read lands, or the marker of a failed check does; a load that has not read
yet reads now (R218). -/
def execSlotLands (ctx : Fin 11) (tag : BitVec 5) (s : State) : Outcome :=
  .next (match s.accs.find? fun a => decide (a.ctx = ctx) && decide (a.op = .tagged tag) with
    | some a => let t := s.tryAcc a; if t.slotRead ctx tag then t.landRead ctx tag else t
    | none => if s.slotRead ctx tag then s.landRead ctx tag else s)

/-! ## Taking (R219 to R221) -/

/-- Which slot a take removes next. -/
inductive Choice where
  | none
  | diverged (tag : BitVec 5)
  | slot (tag : BitVec 5)
  | later
  deriving DecidableEq, Repr

/-- The slot that TKA takes (R219): the next recorded one in a replay (R226), the lowest rank in issue order, else the
first of its class to have landed. -/
def Ctx.choose (c : Ctx) (v : Bool) : Choice :=
  let cls := allTags.filter (c.inClass v)
  if cls.isEmpty then .none
  else if c.lsord then
    match c.lowestRank cls with
    | some t => .slot t
    | none => .none
  else
    match c.replay with
    | some (t :: _) => if c.inClass v t then .slot t else .diverged t
    | _ =>
      match c.landed.find? (c.inClass v) with
      | some t => .slot t
      | none => .later

/-- A take that chooses a faulted slot traps precisely, and removes nothing (R221). -/
def State.takeFault (s : State) (t : BitVec 5) : State :=
  let x := s.ctx.slot t
  s.raise { TrapInfo.at s.pc x.cause x.detail x.caddr with tag := some t }

/-- The slot is free again and out of the landed queue. -/
def Ctx.freeSlot (c : Ctx) (t : BitVec 5) : Ctx := { c.setSlot t Slot.free with landed := c.landed.filter (· ≠ t) }

/-- A value's destination: an x register extended as LD extends it, or a v register (R219), written 2 cycles later (R230). -/
def State.takeInto (s : State) (v : Bool) (d : BitVec 5) (x : Slot) : State :=
  match v, x.width with
  | false, .scalar w =>
    (s.modCtx fun c => { c with inTaint := x.taint }).writeLate (.x d)
      ((loadWord w (bytesOfNat x.val.toNat (ldBytes w))).setWidth 512) 2
  | _, _ => (s.modCtx fun c => { c with inTaint := x.taint }).writeLate (.v d) x.val 2

/-- A take is not yet complete on every member of the gang (R223; log 34). -/
def State.gangTakes (s : State) : Bool := s.core.gang.any fun g => decide (s.cycle < g.takes)

/-- The take of a slot orders its own load before the context's later accesses, and nothing else (R220): what the context had read before that
load's read is given up. -/
def State.takeOrders (s : State) (load : Nat) : State :=
  s.modEarly fun l => l.filter fun e => !(decide (e.ctx = s.cur) && e.passed.any fun q => decide (q.1 = load))

/-- A chosen slot is taken once it has landed: its value is returned, and the slot is freed (R219, R220). -/
def State.takeSlot (s : State) (v : Bool) (d t : BitVec 5) (k : State → State) : State :=
  let x := s.ctx.slot t
  match x.state with
  | .landed => if s.gangTakes then s.block .other 3 0 else k (((s.takeOrders x.load).takeInto v d x).modCtx fun c => c.freeSlot t)
  | .faulted => s.takeFault t
  | _ => s.block .other 3 0

/-- The register that a take writes. -/
def takeReg (v : Bool) (d : BitVec 5) : Reg := if v then .v d else .x d

/-- The take's place in the take-order record (R225, R226): six tags fill a record of the trace ring (R419). -/
def State.noteTake (s : State) (t : BitVec 5) : State :=
  let u := s.modCtx fun c =>
    if c.lsord then c
    else { c with tookFree := true, takeOrder := if s.job.record then c.takeOrder ++ [t] else c.takeOrder,
                  replay := c.replay.map (·.drop 1) }
  if u.ctx.takeOrder.length = 6 then u.flushTakes u.cur else u

/-- A recorded tag that names no slot of the class: the job stops as ABORTED (R226). -/
def State.diverge (s : State) (t : BitVec 5) : State :=
  (s.logEntry true 7 0 s.source (t.setWidth 32) 0).abortJob 4

/-- TKA (R219): the value to xD or vD, then the tag to xA. -/
def execTka (sw : Bool) (d a : BitVec 5) (v : Bool) (s : State) : Outcome :=
  .next (s.issue [] [takeReg v d, .x a] fun s =>
    match s.ctx.choose v with
    | .none => s.illegal
    | .diverged t => s.diverge t
    | .later => s.block .other 3 0
    | .slot t =>
      s.takeSlot v d t fun s =>
        (((s.noteTake t).modCtx fun c => { c with inTaint := [] }).writeLate (.x a) (t.setWidth 512) 2).retire sw 4)

/-- TKT (R219): the slot is named, and must hold a load of the form's class. -/
def execTkt (sw : Bool) (d n : BitVec 5) (v : Bool) (s : State) : Outcome :=
  .next (s.issue [] [takeReg v d] fun s =>
    if s.ctx.inClass v n then s.takeSlot v d n fun s => s.retire sw 4 else s.illegal)

/-! ## Restart, mode and queries (R222, R224, R229) -/

/-- RELD (R222): the load is relaunched with its width, address and rank. -/
def execReld (sw : Bool) (n : BitVec 5) (s : State) : Outcome :=
  .next (s.issue [] [] fun s =>
    if (s.ctx.slot n).state ≠ .faulted then s.illegal
    else ((s.modCtx fun c => { c with landed := c.landed.filter (· ≠ n) }).launch n).retire sw 4)

/-- RELD.drop (R222): the slot becomes free. -/
def execReldDrop (sw : Bool) (n : BitVec 5) (s : State) : Outcome :=
  .next (s.issue [] [] fun s =>
    if (s.ctx.slot n).state ≠ .faulted then s.illegal else (s.modCtx fun c => c.freeSlot n).retire sw 4)

/-- The pending slots of the context that acts are loaded again, in ascending rank (R163, R228). -/
def State.relaunchSlots (s : State) : State :=
  let c := s.ctx
  let ts := (allTags.filter fun t => decide ((c.slot t).state = .pending)).insertionSort fun a b =>
    (c.slot a).rank ≤ (c.slot b).rank
  ts.foldl State.launch (s.modCtx fun c => { c with slots := mapVec (fun x : Slot => { x with taint := [] }) c.slots })

/-- The number of slots in a state. -/
def Ctx.slotsIn (c : Ctx) (x : SlotState) : Nat := (allTags.filter fun t => (c.slot t).state = x).length

/-- The mask of the slots in a state (R229). -/
def Ctx.slotMask (c : Ctx) (x : SlotState) : Word :=
  BitVec.ofNat 64 ((allTags.map fun t => bitAt (decide ((c.slot t).state = x)) t.toNat).sum)

/-- HEAD of LSQ.sum (R229): what an unreplayed TKA of either class would consider first. -/
def Ctx.headSlot (c : Ctx) : Option (BitVec 5) :=
  if c.lsord then c.lowestRank (allTags.filter fun t => (c.slot t).state ≠ .free) else c.landed.head?

/-- LSQ.sum (R229): REPLAY is 1 while recorded tags are left for TKA to follow, which it does with LSORD = 0 (R226). -/
def Ctx.lsqSum (c : Ctx) : Word :=
  BitVec.ofNat 64 (bitAt (!c.lsord && c.replay.any fun l => !l.isEmpty) 39 + bitAt c.lsord 38 + bitAt c.headSlot.isSome 37
    + (c.headSlot.getD 0).toNat * 2 ^ 32 + c.slotsIn .faulted * 2 ^ 16 + c.slotsIn .pending * 2 ^ 8 + c.slotsIn .landed)

/-- What LSQ reads (R229). -/
def Ctx.lsq (c : Ctx) (e : BitVec 2) : Word :=
  if e = 0 then c.slotMask .pending else if e = 1 then c.slotMask .landed else if e = 2 then c.slotMask .faulted else c.lsqSum

/-- LSQ (R229). -/
def execLsq (sw : Bool) (d : BitVec 5) (e : BitVec 2) (s : State) : Outcome :=
  .next (s.issue [] [.x d] fun s => (s.writeX d (s.ctx.lsq e) 2).retire sw 4)

/-- LSMODE (R224): only with every slot free. -/
def execLsmode (sw : Bool) (m : Bool) (s : State) : Outcome :=
  .next (s.issue [] [] fun s =>
    if allTags.any fun t => (s.ctx.slot t).state ≠ .free then s.illegal
    else (s.modCtx fun c => { c with lsord := m }).retire sw 4)

end Sys2Proof.Machine
end

