-- ==== Sys2Proof/Machine/Transfers.lean ====
section
/-! DEFINITION. Engine queues (R236 to R256, R259): pushing and popping, block transfers, clipping, watermarks, pruning,
gathers, scatters and COMPACT. -/

namespace Sys2Proof.Machine

/-! ## The fields of a command (R243, R252, R254) -/

/-- Word `n` of a command. -/
def cmdWord (v : Vec) (n : Nat) : Nat := lane v 64 n

/-- A flag of word 0. -/
def cmdFlag (v : Vec) (n : Nat) : Bool := (cmdWord v 0).testBit n

/-- ARV. -/
def cmdArv (v : Vec) : Bool := cmdFlag v 31
/-- BELL. -/
def cmdBell (v : Vec) : Bool := cmdFlag v 30
/-- WM. -/
def cmdWm (v : Vec) : Bool := cmdFlag v 29
/-- CLIP. -/
def cmdClip (v : Vec) : Bool := cmdFlag v 28
/-- PRUNE. -/
def cmdPrune (v : Vec) : Bool := cmdFlag v 27
/-- ESZ. -/
def cmdEsz (v : Vec) : Nat := natBits (cmdWord v 0) 23 20
/-- PFMT. -/
def cmdPfmt (v : Vec) : Nat := natBits (cmdWord v 0) 19 15
/-- BG. -/
def cmdBg (v : Vec) : BitVec 5 := BitVec.ofNat 5 (natBits (cmdWord v 0) 44 40)
/-- Dimensions less one. -/
def cmdNdim (v : Vec) : Nat := natBits (cmdWord v 0) 11 10
/-- The count field of dimension `d`. -/
def cmdCount (v : Vec) (d : Nat) : Nat := natBits (cmdWord v 3) (16 * d + 15) (16 * d)
/-- The count of a dimension, 1 for an unused one. -/
def cmdCnt (v : Vec) (d : Nat) : Nat := if d ≤ cmdNdim v then cmdCount v d else 1
/-- The valid extent of a dimension (R248). -/
def cmdExtent (v : Vec) (d : Nat) : Nat := natBits (cmdWord v 7) (16 * d + 15) (16 * d)

/-- A signed 32-bit half of a word of strides. -/
def cmdStride (v : Vec) (word half : Nat) : Int := sextNat (cmdWord v word / 2 ^ (32 * half)) 32

/-- The source stride of a dimension. -/
def cmdSs (v : Vec) (d : Nat) : Int :=
  match d with
  | 0 => 2 ^ cmdEsz v | 1 => cmdStride v 4 0 | 2 => cmdStride v 4 1 | _ => cmdStride v 5 0

/-- The destination stride of a dimension. -/
def cmdDs (v : Vec) (d : Nat) : Int :=
  match d with
  | 0 => 2 ^ cmdEsz v | 1 => cmdStride v 5 1 | 2 => cmdStride v 6 0 | _ => cmdStride v 6 1

/-- The elements of the walk. -/
def cmdTotal (v : Vec) : Nat := cmdCnt v 0 * cmdCnt v 1 * cmdCnt v 2 * cmdCnt v 3

/-- The four dimensions. -/
def dims : List Nat := [0, 1, 2, 3]

/-- The index of element `e` in dimension `d`, dimension 0 having `c0` elements. -/
def cmdIndex (v : Vec) (c0 e d : Nat) : Nat :=
  match d with
  | 0 => e % c0
  | 1 => e / c0 % cmdCnt v 1
  | 2 => e / (c0 * cmdCnt v 1) % cmdCnt v 2
  | _ => e / (c0 * cmdCnt v 1 * cmdCnt v 2)

/-- The offset of element `e` from SRC. -/
def cmdSrcOff (v : Vec) (e : Nat) : Int := (dims.map fun d => (cmdIndex v (cmdCnt v 0) e d : Int) * cmdSs v d).sum

/-- Elements of the destination's dimension 0 (R251). -/
def cmdDstC0 (v : Vec) : Nat := if cmdPrune v then cmdCnt v 0 / 2 else cmdCnt v 0

/-- Elements of the destination. -/
def cmdDstTotal (v : Vec) : Nat := cmdDstC0 v * cmdCnt v 1 * cmdCnt v 2 * cmdCnt v 3

/-- The offset of destination element `e` from DST. -/
def cmdDstOff (v : Vec) (e : Nat) : Int := (dims.map fun d => (cmdIndex v (cmdDstC0 v) e d : Int) * cmdDs v d).sum

/-- Element `e` lies inside the extents (R248). -/
def cmdInside (v : Vec) (e : Nat) : Bool :=
  !cmdClip v || dims.all fun d => decide (cmdIndex v (cmdCnt v 0) e d < cmdExtent v d)

/-- Dimension `d` is clipped; an unused one, of count 1, is where its extent is 0 (R248). -/
def cmdClipped (v : Vec) (d : Nat) : Bool := cmdClip v && decide (cmdExtent v d < cmdCnt v d)

/-- Some element lies outside the extents. -/
def cmdOutside (v : Vec) : Bool := dims.any (cmdClipped v)

/-- IW of a gather (R252). -/
def cmdIw (v : Vec) : Nat := natBits (cmdWord v 0) 9 8

/-- The lowest offset of a walk, and one past its highest byte. -/
def spanOf (c : Nat → Nat) (st : Nat → Int) (size : Nat) : Int × Int :=
  let d := dims.map fun i => ((c i : Int) - 1) * st i
  ((d.map fun x => if x < 0 then x else 0).sum, (d.map fun x => if x < 0 then 0 else x).sum + size)

/-- The span of the source walk. -/
def cmdSrcSpan (v : Vec) : Int × Int := spanOf (cmdCnt v) (cmdSs v) (2 ^ cmdEsz v)

/-- The span of the destination walk. -/
def cmdDstSpan (v : Vec) : Int × Int :=
  spanOf (fun d => if d = 0 then cmdDstC0 v else cmdCnt v d) (cmdDs v) (2 ^ cmdEsz v)

/-- The nibbles of metadata of a pruned command (R251). -/
def cmdGroups (v : Vec) : Nat := cmdTotal v / 4

/-! ## Malformed commands (R244, R250, R252, R254) -/

/-- ARV names a group that is not reserved, or the superstep domain (R244). -/
def State.badGroup (s : State) (g : BitVec 5) : Bool :=
  !(s.bar.groups.get g.toFin).res || decide (s.bar.domain = some g)

/-- The pairs of PFMT and ESZ that PRUNE accepts (R250). -/
def pruneFormat (pfmt esz : Nat) : Option Ty :=
  match esz, pfmt with
  | 1, 10 => some (.lane (.float .bf16))
  | 1, 9 => some (.lane (.float .f16))
  | 0, 11 => some .e4m3
  | 0, 12 => some .e5m2
  | 0, 0 => some (.lane (.int .s8))
  | _, _ => none

/-- The regions that R245 accepts: any scratchpad, remote or not, or a translated address. -/
def acceptedAddress (a : Word) : Bool :=
  if a.getLsbD 63 then decide (natBits a.toNat 62 56 = 0) && decide (natBits a.toNat 43 19 = 0)
  else match regionOf a with | .unassigned => false | _ => true

/-- A block transfer breaks a rule of R244 or R250. -/
def State.badCopy (s : State) (v : Vec) : Bool :=
  decide (cmdWord v 0 &&& (2 ^ 64 - 1 - 0xFFFF1F00F8FF8C00) ≠ 0) || decide (3 < cmdEsz v)
    || (cmdClip v && cmdPrune v) || (decide (cmdPfmt v ≠ 0) && !cmdPrune v)
    || (!cmdClip v && !cmdPrune v && decide (cmdWord v 7 ≠ 0))
    || (dims.any fun d => if d ≤ cmdNdim v then decide (cmdCount v d = 0)
        else decide (cmdCount v d ≠ 0) || decide (cmdSs v d ≠ 0) || decide (cmdDs v d ≠ 0))
    || (cmdArv v && s.badGroup (cmdBg v))
    || (cmdPrune v && ((pruneFormat (cmdPfmt v) (cmdEsz v)).isNone || decide (cmdCnt v 0 % 4 ≠ 0)
        || !acceptedAddress (BitVec.ofNat 64 (cmdWord v 7))))

/-- A gather or scatter breaks a rule of R252. -/
def State.badGather (s : State) (v : Vec) : Bool :=
  decide (cmdWord v 0 &&& (2 ^ 64 - 1 - 0xFFFF1F00E0F00300) ≠ 0) || decide (cmdEsz v < 2) || decide (12 < cmdEsz v)
    || decide (1 < cmdIw v) || decide (regionOf (BitVec.ofNat 64 (cmdWord v 2)) ≠ .translated)
    || decide (cmdWord v 4 = 0) || decide (2 ^ 32 ≤ cmdWord v 4)
    || decide (cmdWord v 5 ≠ 0) || decide (cmdWord v 6 ≠ 0) || decide (cmdWord v 7 ≠ 0)
    || (cmdArv v && s.badGroup (cmdBg v))

/-- A COMPACT breaks a rule of R254. -/
def State.badCompact (s : State) (v : Vec) : Bool :=
  decide (cmdWord v 0 &&& (2 ^ 64 - 1 - 0xFFFF1F00C0F00000) ≠ 0) || decide (cmdEsz v < 2) || decide (4 < cmdEsz v)
    || decide (cmdWord v 4 = 0) || decide (2 ^ 32 ≤ cmdWord v 4)
    || decide (cmdWord v 5 ≠ 0) || decide (cmdWord v 6 ≠ 0) || decide (cmdWord v 7 ≠ 0)
    || (cmdArv v && s.badGroup (cmdBg v))

/-! ## Where a command's addresses lie (R245, R259) -/

/-- What an address of a command reaches. -/
inductive Reach where
  | own | other | elsewhere
  deriving DecidableEq, Repr

/-- The reach of an address (R245). -/
def State.reach (s : State) (a : Word) : Reach :=
  if a.getLsbD 63 then (if natBits a.toNat 55 44 = s.core.num.toNat then .own else .other)
  else
    match regionOf a with
    | .scratch none _ => .own
    | .scratch (some p) _ => if p = s.position then .own else .other
    | _ => .elsewhere

/-- The first bytes of the three windows onto the own scratchpad (R25, R245). -/
def State.ownWindows (s : State) : List Int :=
  [0, 0x1000000 + s.position * 0x80000, 2 ^ 63 + s.core.num.toNat * 2 ^ 44]

/-- A span of bytes lies in one window of the own scratchpad. -/
def State.spanOwn (s : State) (base : Word) (sp : Int × Int) : Bool :=
  s.ownWindows.any fun w => decide (w ≤ base.toNat + sp.1) && decide (base.toNat + sp.2 ≤ w + 0x80000)

/-- The first of `n` addresses that the phase refuses (R259). -/
def State.refused (s : State) (at_ : Nat → Word) : Nat → Nat → Option Word
  | 0, _ => none
  | n + 1, e =>
    let r := s.reach (at_ e)
    if r = .other ∨ (s.exchange = false ∧ r ≠ .own) then some (at_ e) else State.refused s at_ n (e + 1)

/-- The first address that the phase refuses among those of some runs of addresses, each with the span it fills. -/
def State.refusedIn (s : State) : List (Word × (Int × Int) × (Nat → Word) × Nat) → Option Word
  | [] => none
  | (base, sp, f, n) :: rs =>
    if s.spanOwn base sp then s.refusedIn rs
    else match s.refused f n 0 with | some a => some a | none => s.refusedIn rs

/-- A word of a command as an address. -/
def cmdAddr (v : Vec) (n : Nat) : Word := BitVec.ofNat 64 (cmdWord v n)

/-- Address `e` of a run of items of `size` bytes. -/
def runAddr (base : Word) (size e : Nat) : Word := base + BitVec.ofNat 64 (size * e)

/-- A run of `n` items of `size` bytes. -/
def runOf (base : Word) (size n : Nat) : Word × (Int × Int) × (Nat → Word) × Nat :=
  (base, (0, size * n), runAddr base size, n)

/-- The address of source element `e`. -/
def cmdSrc (v : Vec) (e : Nat) : Word := cmdAddr v 1 + BitVec.ofInt 64 (cmdSrcOff v e)

/-- The address of destination element `e`. -/
def cmdDst (v : Vec) (e : Nat) : Word := cmdAddr v 2 + BitVec.ofInt 64 (cmdDstOff v e)

/-- The runs of addresses that the phase rule looks at: in a compute phase SRC and DST, in an exchange phase every address (R259). -/
def cmdRuns (k : CmdKind) (v : Vec) (exchange : Bool) : List (Word × (Int × Int) × (Nat → Word) × Nat) :=
  match k with
  | .copy =>
    [(cmdAddr v 1, cmdSrcSpan v, cmdSrc v, cmdTotal v), (cmdAddr v 2, cmdDstSpan v, cmdDst v, cmdDstTotal v)]
      ++ (if cmdPrune v && exchange then [runOf (cmdAddr v 7) 1 ((cmdGroups v + 1) / 2)] else [])
  | .compact =>
    [runOf (cmdAddr v 1) 8 (cmdWord v 4), runOf (cmdAddr v 2) 4 (cmdWord v 4 + 1), runOf (cmdAddr v 3) 1 1]
  | _ => [runOf (cmdAddr v 1) (2 ^ (2 + cmdIw v)) (cmdWord v 4), runOf (cmdAddr v 3) (2 ^ cmdEsz v) (cmdWord v 4)]

/-! ## Watermarks (R249) -/

/-- The lowest of some numbers, or `d`. -/
def minOf (d : Int) (l : List Int) : Int := l.foldl (fun a b => if a < b then a else b) d

/-- The offsets of the destination elements that a copy writes, of those listed. -/
def cmdWritten (v : Vec) (es : List Nat) : List Int :=
  (es.filter fun e => cmdPrune v || cmdInside v e).map (cmdDstOff v)

/-- Destination elements written once `next` units of work are done. -/
def cmdDone (v : Vec) (next : Nat) : Nat :=
  if cmdPrune v then Nat.min (4 * next) (cmdDstTotal v) else Nat.min next (cmdDstTotal v)

/-- The watermark of a copy as an offset from DST: the lowest element that it writes and whose unit of work is not yet done. -/
def copyMark (v : Vec) (next : Nat) : Int :=
  let n := cmdDone v next
  let old := cmdWritten v (List.range n)
  minOf (cmdDstSpan v).2 ((cmdWritten v ((List.range (cmdDstTotal v)).drop n)).filter fun o => !decide (o ∈ old))

/-- The watermark of a command and the last byte of its destination, as home keys. -/
def State.markOf (s : State) (k : CmdKind) (v : Vec) (next : Nat) : Option (Nat × Nat) :=
  if cmdWm v = false then none
  else
    match k with
    | .copy =>
      let base : Int := s.ownKey (cmdAddr v 2)
      some ((base + copyMark v next).toNat, (base + (cmdDstSpan v).2 - 1).toNat)
    | .gx =>
      let base := s.ownKey (cmdAddr v 3)
      some (base + next * 2 ^ cmdEsz v, base + cmdWord v 4 * 2 ^ cmdEsz v - 1)
    | _ => none

/-- WM with a destination outside the own scratchpad (R249, R252). -/
def State.badMark (s : State) (k : CmdKind) (v : Vec) : Bool :=
  cmdWm v &&
    match k with
    | .copy => !s.spanOwn (cmdAddr v 2) (cmdDstSpan v)
    | _ => !s.spanOwn (cmdAddr v 3) (0, cmdWord v 4 * 2 ^ cmdEsz v)

/-! ## Pushing (R238) -/

/-- The queue numbered `q`. -/
def State.chan (s : State) (q : Fin 5) : Chan := s.core.chans.get q

/-- The queue numbered `q` replaced. -/
def State.setChan (s : State) (q : Fin 5) (c : Chan) : State :=
  s.modCore fun k => { k with chans := k.chans.set q.val c q.isLt }

/-- What a command waits for before it makes any access (R238, R271, R192). -/
def State.pushAfter (s : State) (c : Scope) : List Nat :=
  ((s.accs.filter fun a => s.mine a && (s.within c a.key || (decide (Config.scratchBase ≤ a.key) && decide (a.key < Config.peerBase)))).map
    (·.seq)) ++ s.ctx.order.map (·.seq) ++ s.ctx.inTaint

/-- A command joins its queue, or waits for a place (R238). -/
def State.enqueue (s : State) (sw : Bool) (q : Fin 5) (k : CmdKind) (v : Vec) (c : Scope) : State :=
  let ch := s.chan q
  if 8 ≤ ch.cmds.length + ch.ready.length then s.block .push (BitVec.ofNat 8 q.val) 0
  else
    let cmd : Cmd :=
      { seq := s.seq, kind := k, vec := v, ctx := s.cur, exchange := s.exchange, after := s.pushAfter c, held := false,
        started := false, path := .none, status := 0, bytes := 0, wm := s.markOf k v 0, next := 0, head := 0, ptr := none,
        sum := 0, off := 0, copying := false, logged := none, used := [], pulled := [], stores := [], lazy := false,
        skipped := [], redo := none, newer := [], stopped := false, retry := none }
    let t := s.setChan q { ch with cmds := ch.cmds ++ [cmd] }
    let u := ({ t with seq := t.seq + 1 }).post (.commandStart q)
    (match cmd.wm with | some (lo, hi) => u.acquireAll lo hi | none => u).retire sw 4

/-- The phase rule (R259): a command outside superstep mode is always accepted. -/
def State.phaseOk (s : State) (k : CmdKind) (v : Vec) (go : State → State) : State :=
  if s.job.superstep = false then go s
  else if s.exchange = false ∧ k ≠ .copy then s.phaseViolation
  else
    match s.refusedIn (cmdRuns k v s.exchange) with
    | some a => s.trapLogged 0x07 0 a
    | none => go s

/-- A push (R238): the command is checked, then the phase rule, and it is enqueued. -/
def State.pushCmd (s : State) (sw : Bool) (q : Fin 5) (k : CmdKind) (a : BitVec 5) (c : Scope) (bad : Vec → Bool) : State :=
  let v := s.readV a
  if bad v ∨ s.badMark k v then s.illegal else s.phaseOk k v fun s => s.enqueue sw q k v c

/-- A queue number as a queue. The decoder admits no other (R236, R237). -/
def chanOf (q : BitVec 5) : Fin 5 := Fin.ofNat 5 q.toNat

/-- QPUSH (R238). -/
def execQpush (sw : Bool) (q : BitVec 5) (a : BitVec 5) (c : Scope) (s : State) : Outcome :=
  .next (s.issue [.v a] [] fun s => s.pushCmd sw (chanOf q) .copy a c s.badCopy)

/-- GX (R253). -/
def execGx (sw : Bool) (a : BitVec 5) (c : Scope) (s : State) : Outcome :=
  .next (s.issue [.v a] [] fun s => s.pushCmd sw 4 .gx a c s.badGather)

/-- GXS (R253). -/
def execGxs (sw : Bool) (a : BitVec 5) (c : Scope) (s : State) : Outcome :=
  .next (s.issue [.v a] [] fun s => s.pushCmd sw 4 .gxs a c s.badGather)

/-- COMPACT (R255). -/
def execCompact (sw : Bool) (a : BitVec 5) (c : Scope) (s : State) : Outcome :=
  .next (s.issue [.v a] [] fun s => s.pushCmd sw 4 .compact a c s.badCompact)

/-! ## Popping (R239 to R241, R256) -/

/-- The trap of a popped COMPACT overflow, taken after the pop at `pc` has completed: RTE goes on where the context then would (R256). -/
def State.overflowTrap (s : State) (pc : Word) (e : Element) : State :=
  match e.overflow with
  | some (row, head) => s.raise { TrapInfo.at pc 0x13 row head with next := true, ret := s.pc }
  | none => s

/-- The oldest element is taken, which acquires the command's writes (R240); one of an overflown COMPACT traps once xD is written and the
pop is done (R239, R256). -/
def State.takeElement (s : State) (sw : Bool) (d : BitVec 5) (q : Fin 5) (e : Element) : State :=
  let t := (s.setChan q { s.chan q with ready := (s.chan q).ready.drop 1 }).writeX d e.word 2
  ((t.acquireFrom (cmdAgent e.cmd) .sys).retire sw 4).overflowTrap s.pc e

/-- Ranges that contexts of other cores have taken by now (R158, R159; log 34). -/
def IndexSpace.settle (cycle : Nat) : List OtherTake → IndexSpace → IndexSpace
  | [], i => { i with takes := [] }
  | t :: ts, i =>
    if cycle < t.since then { i with takes := t :: ts }
    else
      let rest := i.taken.filter fun x => !(decide (x.1 = t.core) && decide (x.2.1 = t.ctx))
      match i.pool with
      | (st, n) :: ps => IndexSpace.settle cycle ts { i with pool := ps, taken := rest ++ [(t.core, t.ctx, st, n)] }
      | [] =>
        let n := Nat.min i.grain i.left
        IndexSpace.settle cycle ts
          { i with next := i.next + n, left := i.left - n, taken := if n = 0 then rest else rest ++ [(t.core, t.ctx, i.next, n)] }

/-- The next range of the index space (R158, R241): one handed back by a fenced die first, then the next grain; none is left
when the space is exhausted, or when the job has none. -/
def State.nextRange (s : State) : State × Nat × Nat :=
  let i := IndexSpace.settle s.cycle s.job.space.takes s.job.space
  match i.pool with
  | (st, n) :: rest => ({ s with job := { s.job with space := { i with pool := rest } } }, st, n)
  | [] =>
    let n := Nat.min i.grain i.left
    if n = 0 then ({ s with job := { s.job with space := i } }, 0, 0)
    else ({ s with job := { s.job with space := { i with next := i.next + n, left := i.left - n } } }, i.next, n)

/-- QPOP of qd (R158): a range for this context, which holds it until it takes another. -/
def State.popRange (s : State) (sw : Bool) (d : BitVec 5) : State :=
  match s.nextRange with
  | (t, st, n) =>
    ((t.modCtx fun c => { c with range := if n = 0 then none else some (st, n) }).writeX d
      (BitVec.ofNat 64 (st * 2 ^ 24 + n)) 2).retire sw 4

/-- QPOP (R239). -/
def execQpop (sw : Bool) (d q : BitVec 5) (s : State) : Outcome :=
  .next (s.issue [] [.x d] fun s =>
    if q = 5 then s.popRange sw d
    else match (s.chan (chanOf q)).ready with
      | e :: _ => s.takeElement sw d (chanOf q) e
      | [] => s.block .other 0 0)

/-- QTRY (R239). -/
def execQtry (sw : Bool) (d q : BitVec 5) (s : State) : Outcome :=
  .next (s.issue [] [.x d] fun s =>
    match (s.chan (chanOf q)).ready with
    | e :: _ => s.takeElement sw d (chanOf q) e
    | [] => (s.writeX d 0 2).retire sw 4)

/-- QLEN (R239). -/
def execQlen (sw : Bool) (d q : BitVec 5) (s : State) : Outcome :=
  .next (s.issue [] [.x d] fun s =>
    let c := s.chan (chanOf q)
    (s.writeX d (BitVec.ofNat 64 (c.ready.length + 256 * (c.cmds.length + c.ready.length))) 2).retire sw 4)

/-- The watermarks of a queue's outstanding WM commands, oldest first: those whose elements wait, then those not
complete (R249). -/
def Chan.marks (c : Chan) : List Nat := c.ready.filterMap (·.wm) ++ c.cmds.filterMap fun x => x.wm.map (·.1)

/-- WMRD (R249): the watermark as a local-window address. -/
def execWmrd (sw : Bool) (d q : BitVec 5) (s : State) : Outcome :=
  .next (s.issue [] [.x d] fun s =>
    let w := match (s.chan (chanOf q)).marks with
      | k :: _ => BitVec.ofNat 64 (k - scratchKey s.core.num.toNat 0)
      | [] => allOnes64
    (s.writeX d w 2).retire sw 4)

/-! ## An engine's accesses (R245, R247) -/

/-- An engine's read: no phase rule is applied to it (R259). -/
def Access.engineRead : Access := { Access.load with phased := false }

/-- An engine's write. -/
def Access.engineWrite : Access := { Access.store with phased := false }

/-- The checks of the remote-scratchpad form (R245). -/
def State.remoteCheck (s : State) (a : Word) (align : Nat) : Except AccessFault Place :=
  let core := natBits a.toNat 55 44
  let off := natBits a.toNat 18 0
  if a.toNat % align ≠ 0 then .error (addressFault 3 a)
  else if natBits a.toNat 62 56 ≠ 0 ∨ natBits a.toNat 43 19 ≠ 0 then .error (addressFault 1 a)
  else if ¬ (BitVec.ofNat 12 core ∈ s.job.cores) then .error (addressFault 5 a)
  else if s.claimed? off align then .error { cause := 0x06, detail := 0, addr := a }
  else .ok { key := scratchKey core off, core := some (BitVec.ofNat 12 core), leaf := none, page := (0, 0) }

/-- Where an engine's access of `n` bytes goes (R245); `exchange` is the phase of its push (R209). -/
def State.engineCheck (s : State) (acc : Access) (a : Word) (n : Nat) (exchange : Bool) : State × Except AccessFault Place :=
  if a.getLsbD 63 then (s, s.remoteCheck a n)
  else match s.check acc a n n exchange with | (t, r, _) => (t, r)

/-- The same with a translation that the command already uses. -/
def State.checkHeld (s : State) (acc : Access) (a : Word) (e : TlbEntry) (exchange : Bool) : Except AccessFault Place :=
  match s.presentOr e a with
  | .error f => .error f
  | .ok e =>
    match s.leafCheck acc e.leaf a exchange with
    | .error f => .error f
    | .ok () =>
      .ok { key := leafKey s.die e.leaf e.level a.toNat, core := none, leaf := some e.leaf, page := (e.va, pageBytes e.level) }

/-- A translation that a command has used stays its own (R206). -/
def Cmd.holds (c : Cmd) (p : Place) : Cmd :=
  match p.leaf with
  | some w => { c with used := c.used ++ [{ va := p.page.1, level := natBits w.toNat 5 4, leaf := w }] }
  | none => c

/-- A read and the write it feeds: source, destination and bytes. -/
structure Move where
  src : Word
  dst : Word
  bytes : Nat
  deriving DecidableEq, Repr

/-- A checked move, with the home keys of its ends. -/
structure PlacedMove where
  move : Move
  rd : Nat
  wr : Nat
  deriving DecidableEq, Repr

/-- The head command of a queue changed by `f`. -/
def State.modHead (s : State) (q : Fin 5) (f : Cmd → Cmd) : State :=
  let ch := s.chan q
  match ch.cmds with
  | [] => s
  | c :: cs => s.setChan q { ch with cmds := f c :: cs }

/-- The head command of a queue. -/
def State.headCmd (s : State) (q : Fin 5) : Option Cmd := (s.chan q).cmds.head?

/-- Where an access of the head command goes: through a translation that it has used, else one that it uses from now on (R206). -/
def State.cmdCheck (s : State) (q : Fin 5) (acc : Access) (a : Word) (n : Nat) : State × Except AccessFault Place :=
  match s.headCmd q with
  | none => s.engineCheck acc a n s.exchange
  | some c =>
    match placeCheck a n n, tlbFind c.used a.toNat with
    | .ok .translated, some e => (s, s.checkHeld acc a e c.exchange)
    | _, _ =>
      match s.engineCheck acc a n c.exchange with
      | (t, .error f) => (t, .error f)
      | (t, .ok p) => (t.modHead q fun c => c.holds p, .ok p)

/-- The checks of some moves. -/
def State.placeMoves (q : Fin 5) : List Move → State → State × Except AccessFault (List PlacedMove)
  | [], s => (s, .ok [])
  | m :: ms, s =>
    match s.cmdCheck q .engineRead m.src m.bytes with
    | (t, .error f) => (t, .error f)
    | (t, .ok p) =>
      match t.cmdCheck q .engineWrite m.dst m.bytes with
      | (u, .error f) => (u, .error f)
      | (u, .ok r) =>
        match State.placeMoves q ms u with
        | (w, .error f) => (w, .error f)
        | (w, .ok ps) => (w, .ok ({ move := m, rd := p.key, wr := r.key } :: ps))

/-- The units of work of a command: an element, a byte of metadata with its groups, a row, or the closing offset of a
COMPACT. -/
def Cmd.units (c : Cmd) : Nat :=
  match c.kind with
  | .copy => if cmdPrune c.vec then (cmdGroups c.vec + 1) / 2 else cmdTotal c.vec
  | .compact => cmdWord c.vec 4 + 1
  | _ => cmdWord c.vec 4

/-- A command stops with a status, and writes no more (R242). -/
def Cmd.stop (c : Cmd) (st : Nat) : Cmd := { c.note st with stopped := true }

/-- The unit of work that the command does: the next, or one that it has put off (R246). -/
def Cmd.unit (c : Cmd) : Nat := c.redo.getD (if c.next < c.units then c.next else c.skipped.headD c.next)

/-- The command has no unit of work left. -/
def Cmd.finished (c : Cmd) : Bool := c.stopped || (decide (c.units ≤ c.next) && c.skipped.isEmpty)

/-- A unit of work is done. -/
def Cmd.advance (c : Cmd) : Cmd :=
  let u := c.unit
  let rest := c.skipped.filter (· ≠ u)
  { c with
    next := if u ∈ c.skipped then c.next else c.next + 1, skipped := rest, redo := none, newer := if rest.isEmpty then [] else c.newer,
    pulled := c.pulled.filter fun p => decide (p.1 ≠ u) }

/-- The status that a refusal reports (R247). -/
def stopStatus (f : AccessFault) : Nat := if f.cause = 0x05 then (if f.detail.getLsbD 8 then 5 else 4) else 3

/-- An access of the head command is answered with RETRY (R154): its unit of work is sent again after 256 network cycles. -/
def State.engineRetry (s : State) (q : Fin 5) : State := s.modHead q fun c => { c with retry := some (s.cycle + 512) }

/-- A check of the head command fails (R247): a refusal is logged and stops it; a translation fault hands the remainder to the
firmware path, which asks the host. -/
def State.engineFault (s : State) (q : Fin 5) (f : AccessFault) : State :=
  if f.cause = 0x04 then s.modHead q fun c => { c with path := .waiting }
  else (s.unitViolation f.cause f.detail f.addr).modHead q fun c => c.stop (stopStatus f)

/-- Uncorrectable data hands the remainder to the firmware path, which re-reads it (R247). -/
def State.engineBad (s : State) (q : Fin 5) : State :=
  (s.modHead q fun c => { c with path := .waiting }).post (.firmwarePath q true)

/-- A line still uncorrectable is logged, once, and the command goes on with STATUS 7 (R247). -/
def State.skipBad (s : State) (q : Fin 5) (a : Word) (key src : Nat) : State :=
  match s.headCmd q with
  | some c =>
    let t := if c.logged = some (key / 64) then s
      else s.logEntry true 2 0x18 s.unitSource (badDetail false src) (a &&& ~~~63#64)
    t.modHead q fun c => { c.note 7 with logged := some (key / 64) }
  | none => s

/-- A row of a scatter that was put off does not go over what a later one has written (R253). -/
def Cmd.outdone (c : Cmd) (key n : Nat) : Bool :=
  decide (c.kind = .gxs) && c.newer.any fun o => decide (c.unit < o.1) && overlaps key n o.2.1 o.2.2

/-- A write of the head command leaves it, and is counted (R241): it is performed now, or later and in any order (R246, R313). -/
def State.engineWrite (s : State) (q : Fin 5) (key : Nat) (bs : List Byte) : State :=
  match s.headCmd q with
  | some c =>
    let t :=
      if c.outdone key bs.length then s
      else if c.lazy then s.modHead q fun c => { c with stores := c.stores ++ [(key, bs)] }
      else s.pokeAs (cmdAgent c.seq) s.unitSource key bs
    t.modHead q fun c =>
      { c with bytes := c.bytes + bs.length, newer := if c.skipped.isEmpty then c.newer else c.newer ++ [(c.unit, key, bs.length)] }
  | none => s

/-- What a command has read ahead for a piece of a unit of work (R246). -/
def Cmd.pulledAt (c : Cmd) (unit piece : Nat) : Option (List Byte) :=
  (c.pulled.find? fun p => decide (p.1 = unit) && decide (p.2.1 = piece)).map (·.2.2)

/-- The source of a piece of the unit of work: read now, or ahead of it. -/
def State.source? (s : State) (c : Cmd) (piece : Nat) (p : PlacedMove) : Except Nat (List Byte) :=
  match c.pulledAt c.unit piece with
  | some bs => .ok bs
  | none =>
    match s.badAt p.rd p.move.bytes with
    | some src => .error src
    | none => .ok (s.peek p.rd p.move.bytes)

/-- The moves are made, from piece `i` on; a source line that the firmware path could not read is not written. -/
def State.makeMoves (q : Fin 5) (c : Cmd) (i : Nat) : List PlacedMove → State → State
  | [], s => s
  | m :: ms, s =>
    match s.source? c i m with
    | .error src => State.makeMoves q c (i + 1) ms (s.skipBad q m.move.src m.rd src)
    | .ok bs => State.makeMoves q c (i + 1) ms (s.engineWrite q m.wr bs)

/-- Some piece, from `i` on, meets uncorrectable data. -/
def State.meetsBad (s : State) (c : Cmd) (i : Nat) (ps : List PlacedMove) : Bool :=
  (ps.mapIdx fun j p => match s.source? c (i + j) p with | .error _ => true | .ok _ => false).any id

/-- A unit of work that only moves, as pieces from number `i` on: checked whole, then made, unless it must be sent again or go to the firmware path.
`fault` is what a failing check does. -/
def State.runMoves (s : State) (q : Fin 5) (c : Cmd) (i : Nat) (ms : List Move) (fault : State → AccessFault → State) (k : State → State) : State :=
  match State.placeMoves q ms s with
  | (t, .error f) => fault t f
  | (t, .ok ps) =>
    if ps.any fun p => t.retried p.rd || t.retried p.wr then t.engineRetry q
    else if c.path ≠ .active ∧ t.meetsBad c i ps then t.engineBad q
    else k (State.makeMoves q c i ps t)

/-- A word that the engine reads for itself, not for a destination. One that the firmware path could not read is logged, and the command goes
on with STATUS 7 (R247): the word is then a free value (log 38). -/
def State.engineRead (s : State) (q : Fin 5) (c : Cmd) (a : Word) (n : Nat) (k : State → Nat → State) : State :=
  match s.cmdCheck q .engineRead a n with
  | (t, .error f) => t.engineFault q f
  | (t, .ok p) =>
    if t.retried p.key then t.engineRetry q
    else
    match t.badAt p.key n with
    | some src =>
      if c.path = .active then
        k (t.skipBad q a p.key src) (natOfBytes ((List.range n).map fun i => Config.badByte c.seq (p.key + i)))
      else t.engineBad q
    | none => k t (natOfBytes (t.peek p.key n))

/-- Such a word, as piece `i` of the unit of work: read now, or ahead of it (R246). -/
def State.enginePiece (s : State) (q : Fin 5) (c : Cmd) (i : Nat) (a : Word) (n : Nat) (k : State → Nat → State) : State :=
  match c.pulledAt c.unit i with
  | some bs => k s (natOfBytes bs)
  | none => s.engineRead q c a n k

/-- A word that the engine forms itself is written. -/
def State.engineStore (s : State) (q : Fin 5) (a : Word) (bs : List Byte) (k : State → State) : State :=
  match s.cmdCheck q .engineWrite a bs.length with
  | (t, .error f) => t.engineFault q f
  | (t, .ok p) => if t.retried p.key then t.engineRetry q else k (t.engineWrite q p.key bs)

/-! ## Units of work -/

/-- The home keys at which units of a block transfer that were put off will write. -/
def State.skippedKeys (s : State) (c : Cmd) : List Nat :=
  if c.kind = .copy then
    (c.skipped.flatMap fun u => cmdWritten c.vec (if cmdPrune c.vec then ((List.range 4).map (4 * u + ·)).filter (· < cmdDstTotal c.vec) else [u])).map fun o =>
      ((s.ownKey (cmdAddr c.vec 2) : Int) + o).toNat
  else []

/-- The watermark of a command as its writes stand: one that waits to be performed, or whose unit was put off, holds it back, and it never
decreases (R249). -/
def State.remark (s : State) (c : Cmd) : Cmd :=
  { c with wm := (s.markOf c.kind c.vec c.next).map fun m =>
      (Nat.max ((c.wm.map (·.1)).getD 0) ((c.stores.map (·.1) ++ s.skippedKeys c).foldl Nat.min m.1), m.2) }

/-- One unit is done: the watermark follows (R249). -/
def State.unitDone (s : State) (q : Fin 5) : State := s.modHead q fun c => s.remark c.advance

/-- The move of element `e` of a block transfer, if it lies inside (R243, R248). -/
def copyMoves (v : Vec) (e : Nat) : List Move :=
  if cmdInside v e then [{ src := cmdSrc v e, dst := cmdDst v e, bytes := 2 ^ cmdEsz v }] else []

/-- A block transfer's element (R243, R248). -/
def State.copyUnit (s : State) (q : Fin 5) (c : Cmd) : State :=
  s.runMoves q c 0 (copyMoves c.vec c.unit) (fun s f => s.engineFault q f) fun s => s.unitDone q

/-- `a` is pruned before `b` on magnitude (R251): a NaN is larger than any number. -/
def smaller (t : Ty) (a b : Nat) : Bool :=
  match elemValue t a, elemValue t b with
  | .nan, _ => false
  | _, .nan => true
  | x, y => decide (x.abs.cmp y.abs = .lt)

/-- Position `j` of a group goes before position `i` in descending magnitude (R251). -/
def before (t : Ty) (es : List Nat) (j i : Nat) : Bool :=
  smaller t (es.getD i 0) (es.getD j 0) || (!smaller t (es.getD j 0) (es.getD i 0) && decide (j < i))

/-- The two positions that a group keeps, ascending (R251). -/
def keptOf (t : Ty) (es : List Nat) : List Nat :=
  (List.range 4).filter fun i => ((List.range 4).filter fun j => decide (j ≠ i) && before t es j i).length < 2

/-- The nibble of a group (R251). -/
def nibbleOf (kept : List Nat) : Nat := kept.getD 0 0 + 4 * kept.getD 1 0

/-- The source elements of a group, and where its kept elements go. -/
def groupMoves (v : Vec) (g : Nat) : List Move :=
  (List.range 4).map fun i => { src := cmdSrc v (4 * g + i), dst := cmdDst v (2 * g + i / 2), bytes := 2 ^ cmdEsz v }

/-- A group is pruned, unless the firmware path could not read one of its elements; the nibble, when it is. -/
def State.pruneGroup (s : State) (q : Fin 5) (c : Cmd) (i : Nat) (ps : List PlacedMove) : State × Option Nat :=
  let v := c.vec
  let read := ps.mapIdx fun j p => (p, s.source? c (i + j) p)
  match read.findSome? fun r => match r.2 with | .error src => some (r.1, src) | .ok _ => none with
  | some (p, src) => (s.skipBad q p.move.src p.rd src, none)
  | none =>
    let t := (pruneFormat (cmdPfmt v) (cmdEsz v)).getD (.lane (.int .s8))
    let bs := read.map fun r => match r.2 with | .ok b => b | .error _ => []
    let kept := keptOf t (bs.map natOfBytes)
    let dst (i : Nat) : Nat := (ps[2 * i]?.map (·.wr)).getD 0
    let u := (s.engineWrite q (dst 0) (bs.getD (kept.getD 0 0) [])).engineWrite q (dst 1) (bs.getD (kept.getD 1 0) [])
    (u, some (nibbleOf kept))

/-- The groups of a metadata byte are pruned and the byte is written (R251); the half of a group that was not read stays. -/
def State.pruneGroups (s : State) (q : Fin 5) (c : Cmd) (key : Nat) (lo hi : List PlacedMove) : State :=
  let old := natOfBytes (s.peek key 1)
  match s.pruneGroup q c 0 lo with
  | (t, a) =>
    match if hi.isEmpty then (t, some 0) else t.pruneGroup q c 4 hi with
    | (u, b) =>
      if a.isNone ∧ b.isNone then u
      else u.engineWrite q key [BitVec.ofNat 8 (a.getD (old % 16) + 16 * b.getD (old / 16))]

/-- The source elements of the one or two groups of metadata byte `m`. -/
def pruneMoves (v : Vec) (m : Nat) : List Move :=
  groupMoves v (2 * m) ++ if 2 * m + 1 < cmdGroups v then groupMoves v (2 * m + 1) else []

/-- A metadata byte of a pruned transfer, with its one or two groups (R251). -/
def State.pruneUnit (s : State) (q : Fin 5) (c : Cmd) : State :=
  match State.placeMoves q (pruneMoves c.vec c.unit) s with
  | (t, .error f) => t.engineFault q f
  | (t, .ok ps) =>
    match t.cmdCheck q .engineWrite (runAddr (cmdAddr c.vec 7) 1 c.unit) 1 with
    | (u, .error f) => u.engineFault q f
    | (u, .ok p) =>
      if (ps.any fun m => u.retried m.rd || u.retried m.wr) ∨ u.retried p.key then u.engineRetry q
      else if c.path ≠ .active ∧ u.meetsBad c 0 ps then u.engineBad q
      else (u.pruneGroups q c p.key (ps.take 4) (ps.drop 4)).unitDone q

/-- The words of a row of `n` bytes. -/
def rowMoves (src dst : Word) (n : Nat) : List Move :=
  let w := Nat.min n 8
  (List.range (n / w)).map fun i => { src := runAddr src w i, dst := runAddr dst w i, bytes := w }

/-- The table row that index `x` names. -/
def gatherFar (v : Vec) (x : Nat) : Word := cmdAddr v 2 + BitVec.ofNat 64 (x * 2 ^ cmdEsz v)

/-- Row `i` of ROWS. -/
def gatherNear (v : Vec) (i : Nat) : Word := runAddr (cmdAddr v 3) (2 ^ cmdEsz v) i

/-- The moves of row `i` of a gather or a scatter whose index is `x` (R253). -/
def gatherMoves (k : CmdKind) (v : Vec) (i x : Nat) : List Move :=
  if k = .gx then rowMoves (gatherFar v x) (gatherNear v i) (2 ^ cmdEsz v) else rowMoves (gatherNear v i) (gatherFar v x) (2 ^ cmdEsz v)

/-- The address that a row's fault logs: that of the row in which it lies (R253; log 116). -/
def gatherName (v : Vec) (i x : Nat) (a : Word) : Word :=
  if (a - gatherNear v i).toNat < 2 ^ cmdEsz v then gatherNear v i else gatherFar v x

/-- The bytes of an index of a gather. -/
def indexBytes (v : Vec) : Nat := 2 ^ (2 + cmdIw v)

/-- A failing check of a row (R253): the row's address is logged as R247 gives, and its index with it; a translation fault that goes to the
firmware path logs neither (log 116). -/
def State.gatherFault (s : State) (q : Fin 5) (v : Vec) (i x : Nat) (f : AccessFault) : State :=
  let t := s.engineFault q { f with addr := gatherName v i x f.addr }
  if f.cause = 0x04 then t else t.unitViolation f.cause f.detail (BitVec.ofNat 64 x)

/-- A row of a gather or a scatter with its index read (R253): piece 0 is the index, and the words of the row follow. -/
def State.gatherRow (s : State) (q : Fin 5) (c : Cmd) (x : Nat) : State :=
  s.runMoves q c 1 (gatherMoves c.kind c.vec c.unit x) (fun s f => s.gatherFault q c.vec c.unit x f) fun s => s.unitDone q

/-- A row of a gather or a scatter (R253). One whose index the firmware path could not read is not written. -/
def State.gatherUnit (s : State) (q : Fin 5) (c : Cmd) : State :=
  let a := runAddr (cmdAddr c.vec 1) (indexBytes c.vec) c.unit
  match c.pulledAt c.unit 0 with
  | some bs => s.gatherRow q c (natOfBytes bs)
  | none =>
    match s.cmdCheck q .engineRead a (indexBytes c.vec) with
    | (t, .error f) => t.engineFault q f
    | (t, .ok p) =>
      if t.retried p.key then t.engineRetry q
      else
      match t.badAt p.key (indexBytes c.vec) with
      | some src => if c.path = .active then (t.skipBad q a p.key src).unitDone q else t.engineBad q
      | none => t.gatherRow q c (natOfBytes (t.peek p.key (indexBytes c.vec)))

/-- The entries of a swatch, as moves of at most 8 bytes (R255, R298). -/
def swatchMoves (v : Vec) (p : Word) (first count : Nat) : List Move :=
  let n := 2 ^ cmdEsz v
  (List.range count).flatMap fun i => rowMoves (p + 16 + BitVec.ofNat 64 (n * i)) (runAddr (cmdAddr v 3) n (first + i)) n

/-- A COMPACT moves on to the next swatch of its chain with the entries so far. -/
def Cmd.follow (c : Cmd) (next count : Nat) : Cmd := { c with ptr := some (BitVec.ofNat 64 next), sum := c.sum + count, pulled := [] }

/-- The first pass over a swatch (R255): its row is checked and its entries are counted. -/
def State.compactCount (s : State) (q : Fin 5) (c : Cmd) (p : Word) : State :=
  s.engineRead q c p 8 fun s nx =>
    s.engineRead q c (p + 8) 8 fun s w =>
      if w % 2 ^ 32 ≠ c.next then (s.unitViolation 0 0 p).modHead q fun c => c.stop 9
      else s.modHead q fun c => c.follow nx (natBits w 39 32)

/-- The second pass over a swatch (R255): its entries are copied. Pieces 0 and 1 of the unit are the words of its header, and its entries
follow. -/
def State.compactCopy (s : State) (q : Fin 5) (c : Cmd) (p : Word) : State :=
  s.enginePiece q c 0 p 8 fun s nx =>
    s.enginePiece q c 1 (p + 8) 8 fun s w =>
      s.runMoves q c 2 (swatchMoves c.vec p (c.off + c.sum) (natBits w 39 32)) (fun s f => s.engineFault q f) fun s =>
        s.modHead q fun c => c.follow nx (natBits w 39 32)

/-- One step of a COMPACT (R255): a row's offset is written, or the closing offset; its chain's head is read; a swatch is counted, or copied; a
pass ends. -/
def State.compactUnit (s : State) (q : Fin 5) (c : Cmd) : State :=
  let v := c.vec
  match c.ptr with
  | none =>
    if c.copying = false then
      s.engineStore q (runAddr (cmdAddr v 2) 4 c.next) (bytesOfNat c.off 4) fun s =>
        s.modHead q fun d => if c.next = cmdWord v 4 then d.advance else { d with copying := true }
    else
      s.engineRead q c (runAddr (cmdAddr v 1) 8 c.next) 8 fun s h =>
        s.modHead q fun c => { c with head := BitVec.ofNat 64 h, ptr := some (BitVec.ofNat 64 h), sum := 0, copying := false }
  | some p =>
    if p ≠ 0 then (if c.copying then s.compactCopy q c p else s.compactCount q c p)
    else if c.copying then s.modHead q fun c => { c.advance with off := c.off + c.sum, ptr := none, copying := false }
    else if 2 ^ 32 - 1 < c.off + c.sum then s.modHead q fun c => { c.stop 8 with sum := c.next }
    else s.modHead q fun c => { c with ptr := some c.head, sum := 0, copying := true }

/-- The next unit of work of the head command. -/
def State.engineUnit (s : State) (q : Fin 5) (c : Cmd) : State :=
  match c.kind with
  | .copy => if cmdPrune c.vec then s.pruneUnit q c else s.copyUnit q c
  | .compact => s.compactUnit q c
  | _ => s.gatherUnit q c

/-- What the head command does after a unit of work: it goes on, completes, or waits for the firmware path. -/
def State.engineNext (s : State) (q : Fin 5) : State :=
  match s.headCmd q with
  | some c =>
    if c.path = .waiting ∨ c.retry.isSome then s
    else if c.finished then s.post (.commandCompletion q)
    else s.post (.accessPerformed c.seq)
  | none => s

/-- An access answered with RETRY is not yet to be sent again (R154). -/
def State.resting (s : State) (c : Cmd) : Bool := c.retry.any fun n => decide (s.cycle < n)

/-- A started command does its next unit of work: the engine's accesses are performed (R246, R302). -/
def State.engineStep (s : State) (q : Fin 5) (c : Cmd) : State :=
  if s.resting c then s
  else (((s.modHead q fun c => { c with retry := none }).engineUnit q { c with retry := none }).engineNext q).wake

/-- The queue whose head is the started command numbered `seq`, not waiting for the firmware path and with work to do. -/
def State.workingQueue (s : State) (seq : Nat) : Option (Fin 5) :=
  (List.finRange 5).find? fun q =>
    match s.headCmd q with
    | some c => decide (c.seq = seq) && c.started && decide (c.path ≠ .waiting) && !c.finished
    | none => false

/-- ACCESS_PERFORMED (R302, R304): an access is performed if nothing holds it back; an engine performs the accesses of its
command's next unit of work. -/
def execAccessPerformed (seq : Nat) (s : State) : Outcome :=
  .next (match s.accs.find? fun a => decide (a.seq = seq) with
    | some a => s.tryAcc a
    | none =>
      match s.halves.find? fun h => decide (h.seq = seq) with
      | some h => s.writeHalf h
      | none =>
        match s.workingQueue seq with
        | some q => match s.headCmd q with | some c => s.engineStep q c | none => s
        | none => s)

/-! ## Starting and completing (R246, R248, R274) -/

/-- Term `t` gates channel `q` of this core (R274). -/
def State.gates (s : State) (q : Fin 5) (t : BellTerm) : Bool :=
  t.armed && decide (natBits t.cfg.toNat 33 32 = 1) && decide (natBits t.cfg.toNat 39 35 = s.position)
    && decide (natBits t.cfg.toNat 41 40 = q.val)

/-- The terms that gate a channel. -/
def State.gatesOf (s : State) (q : Fin 5) : List (Fin 16) :=
  (List.finRange 16).filter fun i => s.gates q (s.clu.terms.get i)

/-- A bellboard term changed by `f`. -/
def State.modTerm (s : State) (i : Fin 16) (f : BellTerm → BellTerm) : State :=
  { s with clu := { s.clu with terms := s.clu.terms.set i.val (f (s.clu.terms.get i)) i.isLt } }

/-- A gated channel's command takes one credit; `none` where there is none to take (R274). -/
def State.takeCredit (s : State) (q : Fin 5) : Option State :=
  match s.gatesOf q with
  | [] => some s
  | is => (is.find? fun i => decide (0 < (s.clu.terms.get i).cred)).map fun i => s.modTerm i fun t => { t with cred := t.cred - 1 }

/-- The clipped box that a command posts (R248). -/
def boxWord (v : Vec) (ch : Nat) : Word :=
  BitVec.ofNat 64 (2 ^ 63 + ch * 2 ^ 60 + (dims.map fun d => bitAt (cmdClipped v d) (56 + d)).sum + cmdId v * 2 ^ 32
    + (if 1 ≤ cmdNdim v then Nat.min (cmdCnt v 1) (cmdExtent v 1) else 0) * 2 ^ 16 + Nat.min (cmdCnt v 0) (cmdExtent v 0))

/-- The command posts a box. -/
def Cmd.posts (c : Cmd) : Bool := decide (c.kind = .copy) && cmdOutside c.vec

/-- The head command may start: what it waits for is done, the mailbox queue has a place, and the core is not being saved
(R238, R248, R259). -/
def State.mayStart (s : State) (c : Cmd) : Bool :=
  !(s.accs.any fun a => decide (a.seq ∈ c.after)) && !(c.posts && decide (16 ≤ s.core.mbq.length)) && !s.job.evicted

/-- The head command starts: a clipped one posts its box (R246, R248). -/
def State.startCmd (s : State) (q : Fin 5) (c : Cmd) : State :=
  let t := if c.posts then
      (s.modCore fun k => { k with mbq := k.mbq ++ [boxWord c.vec q.val] }).modHead q fun c => c.note 1
    else s
  (t.modHead q fun c => { c with started := true, held := false }).engineNext q

/-- COMMAND_START (R246, R248, R274): the oldest command of a queue starts, or is held until it may. -/
def execCommandStart (q : Fin 5) (s : State) : Outcome :=
  .next (match s.headCmd q with
    | none => s
    | some c =>
      if c.started then s
      else
        match if s.mayStart c then s.takeCredit q else none with
        | some t => t.startCmd q c
        | none => s.modHead q fun c => { c with held := true })

/-- The element of a COMPACT that stopped at its offsets' overflow names its row, which `sum` then holds (R256). -/
def Cmd.lastElement (c : Cmd) : Element :=
  if c.status = 8 then { c.element with overflow := some (BitVec.ofNat 32 c.sum, runAddr (cmdAddr c.vec 1) 8 c.sum) }
  else c.element

/-- The writes of the head command that are not yet performed are performed, oldest first, and the watermark follows (R249). -/
def State.drainStores (s : State) (q : Fin 5) : State :=
  match s.headCmd q with
  | some c => (c.stores.foldl (fun t w => t.pokeAs (cmdAgent c.seq) t.unitSource w.1 w.2) s).modHead q fun c => s.remark { c with stores := [] }
  | none => s

/-- A command completes: its element is queued, then BELL is pulsed, then ARV is made; one that ended with STATUS 10 makes
neither. Of a redundant pair they go out from the leader (R246, R259). -/
def State.finishCmd (s : State) (q : Fin 5) (c : Cmd) (cs : List Cmd) : State :=
  let t := s.setChan q { cmds := cs, ready := (s.chan q).ready ++ [c.lastElement] }
  let u := if cmdBell c.vec ∧ c.status ≠ 10 ∧ q.val < 4 then t.post (.pulse (BitVec.ofNat 8 (4 * (s.sender.toNat % 32) + q.val))) else t
  let w := if cmdArv c.vec ∧ c.status ≠ 10 then u.post (.arrival (cmdBg c.vec) s.sender 1 none) else u
  (if cs.isEmpty then w else w.post (.commandStart q)).wake

/-! ## The accesses of a command in another order (R246, R313) -/

/-- The moves of a unit of work that is not yet done, with the number of its first piece: none where they hang on what is still to be read. -/
def Cmd.movesAt (c : Cmd) (u : Nat) : Nat × List Move :=
  match c.kind with
  | .copy => (0, if cmdPrune c.vec then pruneMoves c.vec u else copyMoves c.vec u)
  | .compact =>
    (2, match c.ptr, c.pulledAt u 1 with
      | some p, some bs => if c.copying then swatchMoves c.vec p (c.off + c.sum) (natBits (natOfBytes bs) 39 32) else []
      | _, _ => [])
  | k => (1, match c.pulledAt u 0 with | some bs => gatherMoves k c.vec u (natOfBytes bs) | none => [])

/-- A word of the header of the swatch that a COMPACT copies (R255). -/
def Cmd.headerAt (c : Cmd) (i : Nat) : Option (Word × Nat) :=
  c.ptr.bind fun p => if c.kind = .compact ∧ c.copying ∧ p ≠ 0 ∧ i < 2 then some (runAddr p 8 i, 8) else none

/-- The source of a piece: the index of a gather's row, a word of a swatch's header, or the source of a move. -/
def Cmd.pieceAt (c : Cmd) (u i : Nat) : Option (Word × Nat) :=
  if i = 0 ∧ (c.kind = .gx ∨ c.kind = .gxs) then some (runAddr (cmdAddr c.vec 1) (indexBytes c.vec) u, indexBytes c.vec)
  else if (c.movesAt u).1 ≤ i then ((c.movesAt u).2[i - (c.movesAt u).1]?).map fun m => (m.src, m.bytes)
  else c.headerAt i

/-- A started command reads piece `i` of unit `u` before that unit is done: each source is read once, and in no defined order
(R246). A read that would fault or meet uncorrectable data is left to its unit. -/
def State.pullPiece (s : State) (q : Fin 5) (u i : Nat) : State :=
  match s.headCmd q with
  | some c =>
    if c.started = false ∨ c.path ≠ .none ∨ c.stopped ∨ (u < c.next ∧ u ∉ c.skipped) ∨ c.units ≤ u ∨ (c.kind = .compact ∧ u ≠ c.next)
      ∨ (c.pulledAt u i).isSome then s
    else
      match c.pieceAt u i with
      | none => s
      | some (a, n) =>
        match s.cmdCheck q .engineRead a n with
        | (_, .error _) => s
        | (t, .ok p) =>
          if (t.badAt p.key n).isSome ∨ t.retried p.key then s
          else t.modHead q fun c => { c with pulled := c.pulled ++ [(u, i, t.peek p.key n)] }
  | none => s

/-- A write of the head command that waits may be performed before the others: those of a GX go in ascending rows, and of a GXS the later of two
to one byte stays (R253). -/
def Cmd.mayDrain (c : Cmd) (i : Nat) : Bool :=
  match c.kind, c.stores[i]? with
  | .gx, _ => decide (i = 0)
  | .gxs, some w => (c.stores.take i).all fun u => !overlaps u.1 u.2.length w.1 w.2.length
  | _, _ => true

/-- A write that waits is performed (R246, R313). -/
def State.drainStore (s : State) (q : Fin 5) (i : Nat) : State :=
  match s.headCmd q with
  | some c =>
    match c.stores[i]? with
    | some w =>
      if c.mayDrain i ∧ s.retried w.1 = false then
        ((s.pokeAs (cmdAgent c.seq) s.unitSource w.1 w.2).modHead q fun c => s.remark { c with stores := c.stores.eraseIdx i }).wake
      else s
    | none => s
  | none => s

/-- The head command puts its next unit of work off: a block transfer or a scatter may (R246, R253); the rows of a GX are written in
ascending order. -/
def State.deferUnit (s : State) (q : Fin 5) : State :=
  s.modHead q fun c =>
    if c.started ∧ c.path = .none ∧ (c.kind = .copy ∨ c.kind = .gxs) ∧ c.redo = none ∧ c.next < c.units ∧ c.stopped = false then
      { c with skipped := c.skipped ++ [c.next], next := c.next + 1 }
    else c

/-- The head command is to do a unit of work that it has put off. -/
def State.redoUnit (s : State) (q : Fin 5) (u : Nat) : State :=
  s.modHead q fun c => if u ∈ c.skipped ∧ c.path = .none then { c with redo := some u } else c

/-- From now on the head command's writes wait to be performed. -/
def State.delayStores (s : State) (q : Fin 5) : State := s.modHead q fun c => { c with lazy := true }

/-- COMMAND_COMPLETION (R246): the head command has done its work. -/
def execCommandCompletion (q : Fin 5) (s : State) : Outcome :=
  .next (match (s.chan q).cmds with
    | [] => s
    | c :: cs =>
      if c.started = false ∨ c.path = .waiting ∨ c.finished = false ∨ s.resting c then s
      else if c.stores.any fun w => s.retried w.1 then s.engineRetry q
      else
        let t := s.drainStores q
        t.finishCmd q ((t.headCmd q).getD c) cs)

/-- FIRMWARE_PATH (R247): the firmware performs the remainder of the head command, or the host has refused its translation. -/
def execFirmwarePath (q : Fin 5) (resolved : Bool) (s : State) : Outcome :=
  .next (match s.headCmd q with
    | none => s
    | some c =>
      if c.path ≠ .waiting then s
      else if resolved then (s.modHead q fun c => { c.note 2 with path := .active }).engineNext q
      else (s.modHead q fun c => { c.stop 6 with path := .active }).engineNext q)

end Sys2Proof.Machine
end

