-- ==== Sys2Proof/Machine/Sync.lean ====
section
/-! DEFINITION. Barriers, supersteps, fences, the bellboard and deadlock probes (R262 to R279), and the comparison of the
signatures of a redundant pair (R161, R163). -/

namespace Sys2Proof.Machine

/-! ## Barrier groups (R262 to R267) -/

/-- Barrier group `g`. -/
def State.group (s : State) (g : BitVec 5) : Group := s.bar.groups.get g.toFin

/-- Barrier group `g` replaced. -/
def State.setGroup (s : State) (g : BitVec 5) (x : Group) : State :=
  { s with bar := { s.bar with groups := s.bar.groups.set g.toNat x g.isLt } }

/-- The checks of R264: `member` where the issuing core must be a member of the group. The entry of WTEST and PHASE in superstep mode, which
R11's list of addresses leaves out, holds the instruction's address too (DESIGN CHOICE, log 62). -/
def State.groupCheck (s : State) (g : BitVec 5) (member : Bool) (k : State → State) : State :=
  if (s.group g).res = false ∧ s.bar.domain ≠ some g then s.resource 5
  else if s.bar.domain = some g ∨ (member ∧ (s.group g).member = false) then s.illegal
  else if s.job.superstep then s.phaseViolation
  else k s

/-- A count of R264 and R265: 1 to 65,535. -/
def badArrivals (v : Word) : Bool := decide (v = 0) || decide (65535 < v.toNat)

/-- An arrival of weight `w` leaves the core: at once, or, for a release, when every earlier access within the scope is
performed, and what a fence puts before a release (R264, R271). -/
def State.arrive (s : State) (d g : BitVec 5) (w : BitVec 16) (c : Scope) (o : Bool) : State :=
  let t := s.writeLater (.x d) 0 1
  t.push (t.newAcc 0 0 0 (0, 0) (.arrive g w (some (if d = 0 then 0 else s.seq))) (if o then s.earlier c ++ s.ctx.order.map (·.seq) else []))

/-- ARV (R264). -/
def execArv (sw : Bool) (d g : BitVec 5) (c : Scope) (o : Bool) (s : State) : Outcome :=
  .next (s.issue [] [.x d] fun s => s.groupCheck g true fun s => (s.arrive d g 1 c o).retire sw 4)

/-- ARVN (R264). -/
def execArvn (sw : Bool) (d a g : BitVec 5) (c : Scope) (o : Bool) (s : State) : Outcome :=
  .next (s.issue [.x a] [.x d] fun s => s.groupCheck g true fun s =>
    if badArrivals (s.readX a) then s.illegal else (s.arrive d g ((s.readX a).setWidth 16) c o).retire sw 4)

/-- Phase `x` has completed at the core's node (R265). -/
def Group.passed (g : Group) (x : BitVec 16) : Bool :=
  decide (1 ≤ (g.node - x).toNat) && decide ((g.node - x).toNat ≤ 32768)

/-- The signatures of a redundant pair are compared, and cleared after a match (R161). -/
def State.compareSigs (s : State) (mismatch k : State → State) : State :=
  if s.job.redun then
    if s.core.sig = s.core.partnerSig then k (s.modCore fun c => { c with sig := 0, partnerSig := 0 }) else mismatch s
  else k s

/-- SOURCE of the same context on the other core of the pair (R433). -/
def State.partnerSource (s : State) : Nat := (s.core.num ^^^ 1).toNat + s.cur.val * 2 ^ 12

/-- An uncorrectable mismatch: both signatures are logged, and the job is ABORTED (R163, R433). -/
def State.redundancyAbort (s : State) (detail : BitVec 32) : State :=
  ((s.logEntry true 6 0 s.source detail s.core.sig).logEntry true 6 0 s.partnerSource detail s.core.partnerSig).abortJob 3

/-- WAIT (R265, R266): until the phase has completed at the core's node; a redundant pair compares signatures (R161). -/
def execWait (sw : Bool) (a g : BitVec 5) (s : State) : Outcome :=
  .next (s.issue [.x a] [] fun s => s.groupCheck g true fun s =>
    if (s.group g).passed ((s.waitValue a).setWidth 16) then
      s.compareSigs (fun s => s.redundancyAbort 0) fun s => (s.acquire .sys).retire sw 4
    else s.block .other 0 (s.waitValue a))

/-- WTEST (R265). -/
def execWtest (sw : Bool) (d a g : BitVec 5) (s : State) : Outcome :=
  .next (s.issue [.x a] [.x d] fun s => s.groupCheck g false fun s =>
    (s.writeX d (boolWord ((s.group g).passed ((s.readX a).setWidth 16))) 2).retire sw 4)

/-- PHASE (R265). -/
def execPhase (sw : Bool) (d g : BitVec 5) (s : State) : Outcome :=
  .next (s.issue [] [.x d] fun s => s.groupCheck g false fun s => (s.writeX d ((s.group g).node.setWidth 64) 2).retire sw 4)

/-- EXPECT (R265). -/
def execExpect (sw : Bool) (a g : BitVec 5) (s : State) : Outcome :=
  .next (s.issue [.x a] [] fun s => s.groupCheck g true fun s =>
    if badArrivals (s.readX a) then s.illegal
    else (s.post (.expectReachesRoot g ((s.readX a).setWidth 16))).retire sw 4)

/-- What BGSTAT reads (R267). -/
def State.bgstat (s : State) (g : BitVec 5) : Word :=
  let x := s.group g
  let ss := decide (s.bar.domain = some g)
  if x.res ∨ ss then
    BitVec.ofNat 64 (bitAt ss 63 + 2 ^ 62 + x.expected % 2 ^ 20 * 2 ^ 36 + x.arrived % 2 ^ 20 * 2 ^ 16 + x.phase.toNat)
  else 0

/-- BGSTAT (R267): its result takes at least 16 cycles (R280). -/
def execBgstat (sw : Bool) (d g : BitVec 5) (s : State) : Outcome :=
  .next (s.issue [] [.x d] fun s => (s.writeFrom (.x d) ((s.bgstat g).setWidth 512) 16).retire sw 4)

/-! ## The root (R263) -/

/-- The largest expected count (R263). -/
def maxExpected : Nat := 2 ^ 20 - 1

/-- The root's step for a network cycle in which arrivals of weight `w` and EXPECTs of `n` reach it; the flag says that the
phase completes (R263). -/
def Group.rootStep (x : Group) (w n : Nat) : Group × Bool :=
  if x.expected ≤ x.arrived + w then
    ({ x with phase := x.phase + 1, arrived := x.arrived + w - x.expected, expected := x.base + n }, true)
  else ({ x with arrived := x.arrived + w, expected := Nat.min (x.expected + n) maxExpected }, false)

/-- The root counts what has reached it in its next network cycle (R263). -/
def State.rootDue (s : State) (g : BitVec 5) : State :=
  if .arrival g 0 0 none ∈ s.agenda then s else s.post (.arrival g 0 0 none)

/-- The completion is broadcast, and arrivals left over may complete the next phase in the next network cycle (R263). -/
def State.rootDone (s : State) (g : BitVec 5) (old : BitVec 16) : State :=
  let t := s.post (.completionBroadcast g old)
  if 0 < (t.group g).expected ∧ (t.group g).expected ≤ (t.group g).arrived then t.rootDue g else t

/-- The arrivals of a network cycle in the order in which the root takes them: by core, and within a core by context; those that an engine, a
multicast or the bellboard makes come after its contexts' (R263; log 120). -/
def rootOrder (l : List Reached) : List Reached :=
  let place (r : Reached) : Nat := r.core.toNat * 16 + (match r.report with | some (n, _) => n.val | none => 15)
  l.insertionSort fun a b => place a ≤ place b

/-- The phases that the arrivals of a network cycle report, `a` being what has arrived before: the current one up to the arrival that
reaches the count, and then the next (R263). -/
def Group.reports (x : Group) : Nat → List Reached → List (Fin 11 × Nat × BitVec 16)
  | _, [] => []
  | a, r :: rs =>
    let rest := x.reports (a + r.weight.toNat) rs
    match r.report with
    | some (n, seq) => (n, seq, if a < x.expected then x.phase else x.phase + 1) :: rest
    | none => rest

/-- A network cycle of the root: all the arrivals and EXPECTs that have reached it are counted at once (R263). -/
def State.rootCycle (s : State) (g : BitVec 5) : State :=
  let x := s.group g
  let rs := rootOrder x.reached
  let r := ({ x with reached := [], expects := 0 } : Group).rootStep (rs.map fun a => a.weight.toNat).sum x.expects
  let t := s.setGroup g r.1
  let u := if r.2 then t.rootDone g x.phase else t
  (x.reports x.arrived rs).foldl (fun u p => u.formWrite p.1 p.2.1 (p.2.2.setWidth 512)) u

/-- An arrival on the superstep domain is noted with the device time at which it leaves its core (R270); one of another core that was not
seen to leave leaves now. -/
def State.noteArrival (s : State) (g : BitVec 5) (core : BitVec 12) (w : BitVec 16) : State :=
  if s.bar.domain = some g ∧ w ≠ 0 ∧ ¬ (s.bar.times.any fun p => decide (p.1 = core)) then
    { s with bar := { s.bar with times := s.bar.times ++ [(core, s.dev.devtime)] } }
  else s

/-- ARRIVAL (R263): it reaches the root, and is counted in the root's next network cycle, for which weight 0 stands; the arriving context's
xD then takes the phase. On the superstep domain only the job's own cores arrive (R401). -/
def execArrival (g : BitVec 5) (core : BitVec 12) (weight : BitVec 16) (report : Option (Fin 11 × Nat)) (s : State) : Outcome :=
  let x := s.group g
  .next (if (x.res = false ∧ s.bar.domain ≠ some g) ∨ (s.bar.domain = some g ∧ weight ≠ 0 ∧ core ∉ s.job.cores) then s
    else if weight = 0 then s.rootCycle g
    else ((s.noteArrival g core weight).setGroup g { x with reached := x.reached ++ [{ core, weight, report }] }).rootDue g)

/-- EXPECT_REACHES_ROOT (R263). -/
def execExpectReachesRoot (g : BitVec 5) (n : BitVec 16) (s : State) : Outcome :=
  let x := s.group g
  .next (if x.res = false ∧ s.bar.domain ≠ some g then s
    else (s.setGroup g { x with expects := x.expects + n.toNat }).rootDue g)

/-! ## The superstep barrier (R268 to R270) -/

/-- The latest of some device times. -/
def latestOf (l : List (BitVec 12 × Word)) : Nat := l.foldl (fun m p => Nat.max m p.2.toNat) 0

/-- The earliest of some device times. -/
def earliestOf (l : List (BitVec 12 × Word)) : Nat :=
  match l with
  | [] => 0
  | p :: ps => ps.foldl (fun m q => Nat.min m q.2.toNat) p.2.toNat

/-- The lowest core number among the latest arrivals. -/
def lastCoreOf (l : List (BitVec 12 × Word)) : Nat :=
  (l.filter fun p => decide (p.2.toNat = latestOf l)).foldl (fun m p => Nat.min m p.1.toNat) 4095

/-- IMBAL1 (R270). -/
def imbalWord (l : List (BitVec 12 × Word)) : Word :=
  let e := earliestOf l
  BitVec.ofNat 64 (lastCoreOf l * 2 ^ 52 + Nat.min (latestOf l - e) (2 ^ 20 - 1) * 2 ^ 32
    + Nat.min ((l.map fun p => p.2.toNat - e).sum) (2 ^ 32 - 1))

/-- SSTEP of a phase and a count (R268). -/
def sstepWord (ph : Bool) (count : Nat) : Word := BitVec.ofNat 64 (bitAt ph 63 + count % 2 ^ 63)

/-- The groups that a job has reserved, its superstep domain among them (R262, R268). -/
def Barriers.held (b : Barriers) : List Nat :=
  (List.range 32).filter fun g => (b.groups.toList.getD g Group.unreserved).res || decide (b.domain = some (BitVec.ofNat 5 g))

/-- SSTEP.COUNT. -/
def State.sstepCount (s : State) : Nat := s.bar.sstep.toNat % 2 ^ 63

/-- The superstep barrier passes: the closing of a compute phase writes the imbalance record; the closing of an exchange phase
ends the superstep, unless a word was withheld and it runs again (R163, R269, R270); under a claim the record is traced (R419).
SYNC completes in the next core cycle, and the exchange counter is 0 in the first network cycle after (R391, R403). -/
def State.superstepPasses (s : State) : State :=
  let b := s.bar
  let xc := ((s.cycle + 1) / 2 + 1) * 2
  if s.exchange then
    { s with bar := { b with sstep := sstepWord false (if s.core.withheld then s.sstepCount else s.sstepCount + 1),
                             times := [], xcBase := xc } }
  else
    let t := { s with bar := { b with sstep := sstepWord true s.sstepCount, times := [], xcBase := xc,
                                      imbal0 := BitVec.ofNat 64 (earliestOf b.times), imbal1 := imbalWord b.times } }
    if s.claimed then t.trace 7 0xFF (imbalWord b.times) else t

/-- COMPLETION_BROADCAST (R265, R269): the completion of a phase reaches the core's node, which never goes back. -/
def execCompletionBroadcast (g : BitVec 5) (phase : BitVec 16) (s : State) : Outcome :=
  let x := s.group g
  let new := phase + 1
  .next (if x.passed phase then s
    else
      let t := s.setGroup g { x with node := new }
      if s.bar.domain = some g then t.superstepPasses else t)

/-- The superstep can be run again: it has not been, and a daybook that the job has claimed holds it (R162, R163). -/
def State.replayable (s : State) : Option Snapshot :=
  match s.core.snapshot with
  | some sn => if sn.rerun = false ∧ 0 < s.job.dayEntries ∧ sn.entries ≤ s.job.dayEntries then some sn else none
  | none => none

/-- The lines of a daybook are written back. -/
def restoreLines : List (Nat × List Byte) → List Host.Cell → List Host.Cell
  | [], m => m
  | l :: ls, m => restoreLines ls (Memory.write m (64 * l.1) l.2)

/-- The rows of a daybook are written back. -/
def restoreRows : List (Nat × List (BitVec 32)) → List (Nat × BitVec 32) → List (Nat × BitVec 32)
  | [], m => m
  | r :: rs, m => restoreRows rs (rowWords r.1 r.2 0 m)

/-- The matrix state at the superstep's start, with the partition's rows put back (R163, R315). The stationary pair, where the core had it and
has given it up since, is taken again as R345 gives. -/
def Matrix.putBack (now start : Matrix) (rows : List (Nat × List (BitVec 32))) : Matrix :=
  { start with
    acc := restoreRows rows now.acc, own := start.own && now.own, retake := start.retake || (start.own && !now.own),
    otherOwner := now.otherOwner, upsets := now.upsets, katRuns := now.katRuns }

/-- The core restores from its daybook and runs the superstep again (R163): loads of the undone run are given up, and those that were under
way at its start are made again. Of the tags that the undone run took, those already in the trace ring stay in the record, and the others are
dropped (DESIGN CHOICE, log 142). -/
def State.restoreDaybook (s : State) (sn : Snapshot) : State :=
  let t := ({ s with
      ctxs := s.ctxs.set 0 { sn.ctx with nextIssue := Nat.max (s.cycle + 1) s.bar.xcBase },
      mem := restoreLines sn.lines s.mem, full := sn.full, filler := sn.filler,
      accs := s.accs.filter fun a => decide (a.ctx ≠ 0),
      bar := { s.bar with synced := none } }).modCore fun c =>
    { c with streams := sn.streams, tabs := sn.tabs, mbox := sn.mbox, chans := sn.chans, mbq := sn.mbq, spike := sn.spike, tables := sn.tables,
             sig := 0, partnerSig := 0, withheld := false, snapshot := some { sn with lines := [], rows := [], rerun := true },
             matrix := c.matrix.putBack sn.matrix sn.rows }
  let v := ((t.forgetEarly 0).focus 0).relaunchSlots.focus s.cur
  let u := ([0, 1, 2, 3] : List (BitVec 2)).foldl State.wantsFetch v
  { u with agenda := u.agenda ++ u.core.matrix.next
      ++ ((List.finRange 5).filter fun q => !(u.core.chans.get q).cmds.isEmpty).map Instr.commandStart }

/-- A superstep starts: the daybook records the registers, and what else the core holds of its own (R162, R163, R315). -/
def State.openDaybook (s : State) : State :=
  if s.job.superstep then
    s.modCore fun c =>
      { c with snapshot := some {
          ctx := s.ctxAt 0, streams := c.streams, tabs := c.tabs, mbox := c.mbox, chans := c.chans, mbq := c.mbq, spike := c.spike,
          tables := c.tables, matrix := { c.matrix with acc := [] }, full := s.full, filler := s.filler, lines := [], rows := [],
          rerun := false } }
  else s

/-- What SYNC waits for before it arrives (R269): every register write, store and atomic of the core, and in an exchange phase
every command pushed in it. -/
def State.syncWaits (s : State) : Bool :=
  (s.ctxs.toList.any fun c => c.live && !c.settled s.cycle) || (s.accs.any fun a => a.op.writes)
    || (s.exchange && s.core.chans.toList.any fun q => q.cmds.any (·.exchange))

/-- SYNC's arrival leaves the core, or the leader of a redundant pair (R268, R269). -/
def State.syncArrive (s : State) (g : BitVec 5) : State :=
  let t := { s with bar := { s.bar with synced := some (s.group g).node } }
  ((t.noteArrival g s.sender 1).post (.arrival g s.sender 1 none)).waitOn .other 1 0

/-- The barrier has passed (R269): xD is SSTEP, and the next instruction issues when the exchange counter is 0 (R391). The
closing of an exchange phase starts a superstep, lets END follow (R137) and is where a stop asked for takes effect (R418). -/
def State.syncDone (s : State) (sw : Bool) (d : BitVec 5) : State :=
  let t := ({ s.acquire .sys with bar := { s.bar with synced := none } }).writeX d s.bar.sstep 1
  let u := (t.retireAfter sw 4 1).modCtx fun c =>
    { c with nextIssue := Nat.max c.nextIssue s.bar.xcBase, afterSync := !s.exchange }
  if s.exchange then u
  else
    let v := u.openDaybook
    if s.claimed ∧ s.dev.dbgStopReq then v.stopJob else v

/-- A pair that does not match at the SYNC closing a compute phase reruns it where it can (R163). At the SYNC closing an exchange phase, which
R163's table does not name, the job ends (DESIGN CHOICE, log 121). -/
def State.syncMismatch (s : State) : State :=
  match s.replayable with
  | some sn => if s.exchange then s.redundancyAbort 0 else s.restoreDaybook sn
  | none => s.redundancyAbort 0

/-- A word withheld in the exchange phase: every core restores, or the job ends (R163). -/
def State.syncWithheld (s : State) : State :=
  match s.replayable with
  | some sn => s.restoreDaybook sn
  | none => s.redundancyAbort 1

/-- SYNC (R269). -/
def execSync (sw : Bool) (d : BitVec 5) (s : State) : Outcome :=
  .next (s.issue [] [.x d] fun s =>
    match s.bar.domain with
    | none => s.illegal
    | some g =>
      if s.job.superstep = false ∨ s.cur ≠ 0 ∨ s.anyHelperLive then s.illegal
      else
        match s.bar.synced with
        | some p =>
          if (s.group g).passed p = false then s.block .other 0 0
          else if s.core.withheld ∧ s.exchange = false then s.syncWithheld
          else s.syncDone sw d
        | none =>
          if s.syncWaits then s.block .other 0 0
          else s.compareSigs State.syncMismatch fun s => s.syncArrive g)

/-! ## FENCE (R271) -/

/-- The untagged loads of the issuing context within a scope, not yet performed. -/
def State.myLoads (s : State) (c : Scope) : List Nat :=
  (s.accs.filter fun a => decide (a.ctx = s.cur) && (match a.op with | .load _ _ => true | _ => false) && s.within c a.key).map
    (·.seq)

/-- The stores and atomics of the issuing context within a scope, not yet performed. -/
def State.myWrites (s : State) (c : Scope) : List Nat :=
  (s.accs.filter fun a => decide (a.ctx = s.cur) && a.op.writes && s.within c a.key).map (·.seq)

/-- A fence's orders on later accesses within its scope (R303). -/
def orders (ns : List Nat) (c : Scope) (loads : Bool) : List Barrier := ns.map fun n => { seq := n, scope := c, loads }

/-- What a fence at a scope gives up of what the context had read early (R271): all of it for .sc, else what had been read before an untagged load
that has been performed. -/
def State.fenceEarly (s : State) (c : Scope) (sc : Bool) : State :=
  if sc then s.acquire c
  else
    s.modEarly fun l => l.filter fun e =>
      !(decide (e.ctx = s.cur) && s.within c e.key && e.passed.any fun q => !q.2.2 && s.within c q.2.1)

/-- FENCE (R271): every earlier untagged load comes before every later access, every earlier untagged access before every later
write; .sc puts the earlier writes before later loads too. It orders accesses within its scope (R303). -/
def execFence (sw : Bool) (c : Scope) (o : Bool) (s : State) : Outcome :=
  .next (s.issue [] [] fun s =>
    ((s.fenceEarly c o).modCtx fun x =>
      { x with order := x.order ++ orders (s.myLoads c) c true ++ orders (s.earlier c) c false
                          ++ (if o then orders (s.myWrites c) c true else []) }).retire sw 4)

/-! ## The bellboard (R272 to R276) -/

/-- The job holds the whole cluster (R272). -/
def State.ownsBoard (s : State) : Bool := (List.range 32).all fun p => decide (s.clusterCore p ∈ s.job.cores)

/-- A bellboard counter changed by `f`. -/
def State.modCounter (s : State) (i : Fin 16) (f : BellCounter → BellCounter) : State :=
  { s with clu := { s.clu with counters := s.clu.counters.set i.val (f (s.clu.counters.get i)) i.isLt } }

/-- ACTION of a term word (R273). -/
def termAction (w : Nat) : Nat := natBits w 33 32

/-- A term word that BBSET refuses (R273). -/
def State.badTerm (s : State) (w : Word) : Bool :=
  let n := w.toNat
  let h := natBits n 45 42
  let g := BitVec.ofNat 5 (natBits n 50 46)
  decide (natBits n 63 52 ≠ 0) || n.testBit 34 || decide (natBits n 31 0 = 0)
    || (decide (termAction n = 2) && (decide (h = 0) || decide (10 < h) || decide (s.job.helpers < h)))
    || (decide (termAction n = 3) && s.badGroup g)

/-- A counter word that BBSET refuses (R273). -/
def badCounter (w : Word) : Bool :=
  decide (natBits w.toNat 63 24 ≠ 0) || decide (natBits w.toNat 23 8 = 0) || decide (151 < natBits w.toNat 7 0)

/-- This core acts on the bellboard: in this network cycle no core of a lower position acts any more (R275). -/
def State.touchBoard (s : State) : State := { s with clu := { s.clu with boardLast := (s.cycle / 2 + 1, s.position) } }

/-- BBSET.c on the board: a pulse of this network cycle counts under the old source (R273, R275). -/
def State.setCounter (s : State) (i : Fin 16) (src : BitVec 8) (thresh : BitVec 16) : State :=
  s.modCounter i fun k => { k with src, thresh, was := some (k.was.getD k.src) }

/-- BBSET.t on the board (R273). -/
def State.setTerm (s : State) (i : Fin 16) (cfg : BitVec 52) (start : Word) : State :=
  (s.modTerm i fun t => { t with cfg, armed := decide (termAction cfg.toNat ≠ 0), start }).wake

/-- BBCLR on the board: it clears the pulses of its network cycle too (R275). -/
def State.clearBoard (s : State) (m : Word) : State :=
  let ks := Vector.ofFn fun n : Fin 16 =>
    let k := s.clu.counters.get n
    if m.getLsbD n.val then { k with count := 0, ovf := false, pulses := 0, cleared := true } else k
  let ts := Vector.ofFn fun n : Fin 16 =>
    let t := s.clu.terms.get n
    if m.getLsbD (16 + n.val) then { t with armed := false } else t
  { s with clu := { s.clu with counters := ks, terms := ts } }.wake

/-- What another core does to the board takes effect (R275). -/
def State.boardOp (s : State) : BoardOp → State
  | .setCounter i src thresh => s.setCounter i src thresh
  | .setTerm i cfg start => s.setTerm i cfg start
  | .clear m => s.clearBoard m

/-- BBSET (R273): a counter keeps its COUNT and OVF; a term records MBOX7 as its helper's start. -/
def execBbset (sw : Bool) (a : BitVec 5) (term : Bool) (i : BitVec 4) (s : State) : Outcome :=
  .next (s.issue [.x a] [] fun s =>
    let w := s.readX a
    if s.ownsBoard = false then s.illegal
    else if term then
      if s.badTerm w then s.illegal
      else
        (s.touchBoard.setTerm i.toFin (w.setWidth 52) (s.core.mbox.get 7)).retire sw 4
    else if badCounter w then s.illegal
    else (s.touchBoard.setCounter i.toFin (w.setWidth 8) (BitVec.ofNat 16 (natBits w.toNat 23 8))).retire sw 4)

/-- What BBRD reads of a counter (R276). -/
def counterWord (k : BellCounter) : Word :=
  BitVec.ofNat 64 (bitAt k.ovf 63 + k.src.toNat * 2 ^ 32 + k.thresh.toNat * 2 ^ 16 + k.count % 2 ^ 16)

/-- What BBRD reads of a term (R276). -/
def termWord (t : BellTerm) : Word :=
  BitVec.ofNat 64 (bitAt t.armed 63 + bitAt t.pend 62 + t.cred % 2 ^ 8 * 2 ^ 54 + t.cfg.toNat)

/-- BBRD (R276): its result takes at least 16 cycles (R280). A pulse of this network cycle is not counted yet (R275). -/
def execBbrd (sw : Bool) (d : BitVec 5) (term : Bool) (i : BitVec 4) (s : State) : Outcome :=
  .next (s.issue [] [.x d] fun s =>
    if s.ownsBoard = false then s.illegal
    else
      let w := if term then termWord (s.clu.terms.get i.toFin) else counterWord (s.clu.counters.get i.toFin)
      (s.touchBoard.writeFrom (.x d) (w.setWidth 512) 16).retire sw 4)

/-- BBCLR (R275). -/
def execBbclr (sw : Bool) (a : BitVec 5) (s : State) : Outcome :=
  .next (s.issue [.x a] [] fun s =>
    if s.ownsBoard = false then s.illegal else (s.touchBoard.clearBoard (s.readX a)).retire sw 4)

/-- A source pulses: its counters, as their sources stand at the beginning of the network cycle, count it at the end of that cycle, unless it
has cleared them (R274, R275). -/
def State.pulseFrom (s : State) (src : BitVec 8) : State :=
  let hit (k : BellCounter) : BellCounter := if k.was.getD k.src = src ∧ k.cleared = false then { k with pulses := k.pulses + 1 } else k
  { s with clu := { s.clu with counters := mapVec hit s.clu.counters } }

/-- BBPULSE (R275): it reaches the bellboard in issue order with the core's other instructions. -/
def execBbpulse (sw : Bool) (j : BitVec 4) (s : State) : Outcome :=
  .next (s.issue [] [] fun s =>
    if s.ownsBoard = false then s.illegal else (s.touchBoard.pulseFrom (136 + j.setWidth 8)).retire sw 4)

/-- A counter adds the pulses of the network cycle: past 65,535 it saturates and sets OVF (R274). -/
def BellCounter.add (k : BellCounter) : BellCounter :=
  { k with count := Nat.min (k.count + k.pulses) 65535, ovf := k.ovf || decide (65535 < k.count + k.pulses), pulses := 0, cleared := false,
           was := none }

/-- The counters after term `t` has fired (R274). -/
def BellTerm.consume (t : BellTerm) (ks : Vector BellCounter 16) : Vector BellCounter 16 :=
  Vector.ofFn fun n => let k := ks.get n
    if (t.cfg.getLsbD n.val || t.cfg.getLsbD (16 + n.val)) && k.ok then { k with count := k.count - k.thresh.toNat } else k

/-- Helper `h` of this core starts for term `i`, or its start is held while it is live (R274). -/
def State.termHelper (s : State) (i : Fin 16) (t : BellTerm) : State :=
  let h := natBits t.cfg.toNat 45 42
  if s.helperLive h then s.modTerm i fun t => { t with pend := true }
  else s.startHelper h t.start (BitVec.ofNat 64 i.val)

/-- Whether a helper of another core is live when a term starts it, and its start is so held, is a free value (R274; log 34). -/
def State.termElsewhere (s : State) (i : Fin 16) (t : BellTerm) : State :=
  if Config.otherHelperLive s.cycle (natBits t.cfg.toNat 39 35) (natBits t.cfg.toNat 45 42) then
    (s.modTerm i fun t => { t with pend := true }).post (.heldHelperStart (BitVec.ofNat 4 i.val))
  else s

/-- The action of a term that has fired (R274). -/
def State.termAct (s : State) (i : Fin 16) (t : BellTerm) : State :=
  let here := decide (natBits t.cfg.toNat 39 35 = s.position)
  match termAction t.cfg.toNat with
  | 1 => (s.modTerm i fun t => { t with cred := Nat.min (t.cred + 1) 255 }).wake
  | 2 => if here then s.termHelper i t else s.termElsewhere i t
  | 3 => s.post (.arrival (BitVec.ofNat 5 (natBits t.cfg.toNat 50 46)) (s.clusterCore 0) 1 none)
  | _ => s

/-- Terms are tested in ascending order, each seeing the subtractions of the lower ones (R274). -/
def State.testTerms : List (Fin 16) → State → State
  | [], s => s
  | i :: is, s =>
    let t := s.clu.terms.get i
    if t.holds s.clu.counters then
      let u := ({ s with clu := { s.clu with counters := t.consume s.clu.counters } }).count 15
      let v := { u with clu := { u.clu with boardActs := u.clu.boardActs ++ [(u.cycle + 2, i, t)] } }
      State.testTerms is (if t.cfg.getLsbD 51 then v else (v.modTerm i fun t => { t with armed := false }).wake)
    else State.testTerms is s

/-- The actions of terms that are due happen (R274, R280). -/
def State.boardDue (s : State) : State :=
  let acts := s.clu.boardActs.filter fun x => decide (x.1 ≤ s.cycle)
  let t := { s with clu := { s.clu with boardActs := s.clu.boardActs.filter fun x => decide (s.cycle < x.1) } }
  acts.foldl (fun u x => u.termAct x.2.1 x.2.2) t

/-- What cores of higher positions have done to the board in the network cycle takes effect, in ascending position (R275). -/
def State.boardPeers (s : State) : State :=
  let ops := s.clu.boardOps.insertionSort fun a b => a.1 ≤ b.1
  ops.foldl (fun u x => u.boardOp x.2) { s with clu := { s.clu with boardOps := [] } }

/-- A network cycle of the bellboard ends: actions that are due happen, the other cores' instructions take effect, the pulses are added, and
then the terms are tested (R274, R275, R280). A term's action comes 2 network cycles after the pulse's. -/
def State.boardCycle (s : State) : State :=
  let t := s.boardDue.boardPeers
  State.testTerms (List.finRange 16) { t with clu := { t.clu with counters := mapVec BellCounter.add t.clu.counters } }

/-- PULSE (R274): a pulse reaches the bellboard; the end of a network cycle of the board stands as a pulse of a reserved source. -/
def execPulse (src : BitVec 8) (s : State) : Outcome := .next (if src = noPulse then s.boardCycle else s.pulseFrom src)

/-- HELD_HELPER_START (R274): the start held for a term runs once its helper has ended, on this core or on another. -/
def execHeldHelperStart (term : BitVec 4) (s : State) : Outcome :=
  let t := s.clu.terms.get term.toFin
  let h := natBits t.cfg.toNat 45 42
  .next (if t.pend ∧ natBits t.cfg.toNat 39 35 ≠ s.position then s.modTerm term.toFin fun t => { t with pend := false }
    else if t.pend ∧ s.helperLive h = false then
      (s.modTerm term.toFin fun t => { t with pend := false }).startHelper h t.start (term.setWidth 64)
    else s)

/-! ## Deadlock probes (R277 to R279) -/

/-- KIND (R277). -/
def WaitKind.code : WaitKind → Nat
  | .psend => 1 | .precv => 2 | .ftake => 3 | .push => 4 | .other => 0

/-- The wait of a context that is blocked in the sense of R277: a take that has its value is so no more. -/
def State.blockedIn (s : State) (n : Fin 11) : Option Wait :=
  match (s.ctxAt n).live, (s.ctxAt n).wait with
  | true, some w => if w.kind = .other ∨ w.delivered.isSome then none else some w
  | _, _ => none

/-- A context's identity (R278). -/
def State.identity (s : State) (n : Fin 11) : Nat := s.core.num.toNat * 16 + n.val

/-- The contexts of this core that have a packet open to a port: they hold its route (R386). -/
def State.sendersTo (s : State) (core : BitVec 12) (port : BitVec 2) : List (Fin 11) :=
  (List.finRange 11).filter fun n =>
    let b := (s.ctxAt n).send
    decide (b.sst ≠ 0) && decide (b.core = core) && decide (b.port = port) && decide (0 < b.words)

/-- Whom the sender of an open route is, when it is a context of this core; another core's is outside. -/
def State.routeHolder (s : State) (port : BitVec 2) : List (Fin 11) :=
  let p := s.core.ports.get port.toFin
  if p.state = .route ∧ p.rsrc = s.core.num then s.sendersTo s.core.num port else []

/-- The home key of a full/empty word's address (R288). -/
def State.wordKey (s : State) (a : Word) : Option Nat :=
  match regionOf a with
  | .scratch p off => some (scratchKey (s.scratchCore p).toNat off)
  | _ => none

/-- The contexts of this core that a blocked context points to (R277). A sender that holds the route itself waits for the port's receiving context
(DEDUCED, log 130); one to another core's port points to the context of this core that holds the route, if one does. -/
def State.pointsTo (s : State) (n : Fin 11) (w : Wait) : List (Fin 11) :=
  match w.kind with
  | .psend =>
    let b := (s.ctxAt n).send
    let p := s.core.ports.get b.port.toFin
    if b.core ≠ s.core.num then (s.sendersTo b.core b.port).filter (· ≠ n)
    else
      match p.state with
      | .route => if n ∈ s.routeHolder b.port then [p.rctx] else s.routeHolder b.port
      | .closed => []
      | _ => [p.rctx]
  | .precv => s.routeHolder (w.q.setWidth 2)
  | .ftake =>
    match s.filler.find? fun f => decide (some f.1 = s.wordKey w.addr) with
    | some (_, id) => (List.finRange 11).filter fun m => decide (s.identity m = id)
    | none => []
  | .push =>
    let others := (List.finRange 11).filter fun m => decide (m ≠ n) && (s.ctxAt m).live
    if others.isEmpty then [n] else others
  | .other => []

/-- Some other live context of the core is not blocked: it may yet pop, and no cycle through a push is found (R238). -/
def State.othersGo (s : State) (n : Fin 11) : Bool :=
  (List.finRange 11).any fun m => decide (m ≠ n) && (s.ctxAt m).live && (s.blockedIn m).isNone

/-- A probe goes out along every pointer of a blocked context (R278), of one blocked in a push only where no other context may yet pop (R238);
the same probe is on its way to a context once. -/
def State.sendProbe (s : State) (n : Fin 11) (w : Wait) (sender minimum : BitVec 16) : State :=
  if w.kind = .push ∧ s.othersGo n then s
  else { s with clu := { s.clu with probes := (s.clu.probes ++ (s.pointsTo n w).map fun m => (m, sender, minimum)).dedup } }

/-- PROBE (R278): a context blocked for 4,096 cycles sends a probe. -/
def execProbe (ctx : Fin 11) (s : State) : Outcome :=
  .next (match s.blockedIn ctx with
    | some w => s.sendProbe ctx w (BitVec.ofNat 16 (s.identity ctx)) (BitVec.ofNat 16 (s.identity ctx))
    | none => s)

/-- The deadlock trap of a blocked context (R278): precise at its instruction, whose deferred take is removed. -/
def State.deadlockTrap (s : State) (n : Fin 11) (w : Wait) : State :=
  let t := { s with takers := s.takers.filter fun e => !(decide (e.core = s.core.num) && decide (e.ctx = n)) }
  let t := t.modCore fun c => { c with ports := mapVec (fun p : Port => { p with requests := p.requests.filter (· ≠ (c.num, n)) }) c.ports }
  (t.focus n).trapHere 0x11 (BitVec.ofNat 32 (w.kind.code + w.q.toNat % 32 * 256)) (if w.kind = .ftake then w.addr else 0)

/-- PROBE_RECEIVED (R278): dropped by a context that is not blocked, forwarded with the lower identity, or back at its sender:
the context with the carried minimum, when it is one of this core, takes the trap. -/
def execProbeReceived (ctx : Fin 11) (sender minimum : BitVec 16) (s : State) : Outcome :=
  .next (match s.blockedIn ctx with
    | none => s
    | some w =>
      let id := s.identity ctx
      if id = sender.toNat then
        match (List.finRange 11).find? fun m => decide (s.identity m = minimum.toNat) with
        | some m => match s.blockedIn m with | some v => s.deadlockTrap m v | none => s
        | none => s
      else s.sendProbe ctx w sender (BitVec.ofNat 16 (Nat.min id minimum.toNat)))

/-- What DLKST reads (R279). -/
def State.dlkst (s : State) (n : Fin 11) : Word :=
  match s.blockedIn n with
  | some w => BitVec.ofNat 64 (2 ^ 63 + w.kind.code * 2 ^ 32 + w.q.toNat * 2 ^ 24 + Nat.min (s.cycle - w.since) (2 ^ 24 - 1))
  | none => 0

/-- DLKST (R279). -/
def execDlkst (sw : Bool) (d a : BitVec 5) (s : State) : Outcome :=
  .next (s.issue [.x a] [.x d] fun s =>
    let n := (s.readX a).toNat
    if h : n < 11 then (s.writeX d (s.dlkst ⟨n, h⟩) 2).retire sw 4 else s.illegal)

end Sys2Proof.Machine
end

