-- ==== Sys2Proof/Machine/Atomics.lean ====
section
/-! DEFINITION. Atomics (R282 to R287), full/empty words (R288 to R291), spikes (R292 to R295) and drapers (R296 to R299). -/

namespace Sys2Proof.Machine

/-! ## Atomics -/

/-- Bytes of an atomic type (R281). -/
def atomicBytes (t : AtomicTy) : Nat := atomicBits t / 8

/-- The aperture of a place; a scratchpad has none. -/
def Place.apt (p : Place) : Option Nat := p.leaf.map leafApt

/-- The pairs of scope and address at which an atomic is performed (R282). -/
def Place.atomicAt (p : Place) (c : Scope) : Bool :=
  match p.apt, c with
  | none, .core => true
  | none, .clu => true
  | some n, .dev => decide (n ≤ 1)
  | some _, .sys => true
  | _, _ => false

/-- The cluster atomic unit and the fabric ports read and write in two accesses (R286); the host performs an AtomicOp. -/
def Place.splits (p : Place) (c : Scope) : Bool :=
  match p.apt, c with
  | none, .clu => true
  | some n, .sys => decide (n ≠ 3)
  | _, _ => false

/-- The checks of an atomic (R283): those of R196, then the pairing of R282. -/
def State.atomicCheck (s : State) (host : Bool) (c : Scope) (a : Word) (n : Nat) : State × Except AccessFault Place × Nat :=
  match s.check (.rmw host) a n n s.exchange with
  | (t, .error f, h) => (t, .error f, h)
  | (t, .ok p, h) => if p.atomicAt c then (t, .ok p, h) else (t, .error { cause := 0x02, detail := 0, addr := a }, h)

/-- An atomic of the issuing instruction at address `a`: its access is made, with the register write it fills. An acquire names the read on
its own, for which alone later accesses wait (R283). -/
def State.atomic (s : State) (sw : Bool) (a : Word) (rs : List Reg) (c : Scope) (o : Bool) (host : Bool) (op : Rmw) (b : Word)
    (d : Option (BitVec 5)) : State :=
  let n := atomicBytes op.ty
  match s.atomicCheck host c a n with
  | (t, .error f, h) => t.trapAccess f h
  | (t, .ok p, h) =>
    let after := t.storeAfter o c p.key rs
    let u := match d with | some d => t.writeLater (.x d) 0 1 | none => t
    let x := u.newAcc p.key n a p.page (.atomic op b (d.map fun _ => t.seq) (p.splits c)) after
    if o ∧ d.isSome then
      let v := u.push { x with acq := some (u.seq + 1) }
      ({ v with seq := v.seq + 1 }.addBarrier { seq := u.seq + 1, scope := c, loads := true }).retireAfter sw 4 h
    else (u.push x).retireAfter sw 4 h

/-- The operations of AMO that the host performs (R203, R282). -/
def amoHost (op : AtomicOp) : Bool := decide (op = .add) || decide (op = .swap)

/-- AMO (R283). -/
def execAmo (sw : Bool) (d a b : BitVec 5) (op : AtomicOp) (c : Scope) (o : Bool) (t : AtomicTy) (s : State) : Outcome :=
  .next (s.issue [.x a, .x b] [.x d] fun s =>
    s.atomic sw (s.readX a) [.x a] c o (amoHost op) (.op op t) (s.readX b) (some d))

/-- RED (R283). -/
def execRed (sw : Bool) (a b : BitVec 5) (op : AtomicOp) (c : Scope) (o : Bool) (t : AtomicTy) (s : State) : Outcome :=
  .next (s.issue [.x a, .x b] [] fun s =>
    s.atomic sw (s.readX a) [.x a] c o (decide (op = .add)) (.op op t) (s.readX b) none)

/-- CAS (R283): xD is read as the expected value. -/
def execCas (sw : Bool) (d a b : BitVec 5) (c : Scope) (o : Bool) (t : AtomicTy) (s : State) : Outcome :=
  .next (s.issue [.x a, .x b, .x d] [.x d] fun s =>
    s.atomic sw (s.readX a) [.x a] c o true (.cas t (s.readX d)) (s.readX b) (some d))

/-- The lanes of a REDV that are not skipped (R285). -/
def redvLanes (idx : Vec) (w : Nat) : List Nat := (List.range (512 / w)).filter fun i => decide (lane idx w i ≠ 2 ^ w - 1)

/-- The address of a lane of a REDV (R285). -/
def redvAddr (base : Word) (idx : Vec) (w i : Nat) : Word := base + BitVec.ofNat 64 (lane idx w i * (w / 8))

/-- The checks of the lanes listed, in ascending order (R285). -/
def State.checkAtomics (host : Bool) (c : Scope) (n : Nat) (at_ : Nat → Word) :
    List Nat → State → State × Except AccessFault (List (Nat × Place)) × Nat
  | [], s => (s, .ok [], 1)
  | i :: is, s =>
    match s.atomicCheck host c (at_ i) n with
    | (t, .error f, h) => (t, .error (f.atLane i), h)
    | (t, .ok p, h) =>
      match State.checkAtomics host c n at_ is t with
      | (u, .error f, g) => (u, .error f, g)
      | (u, .ok ps, g) => (u, .ok ((i, p) :: ps), Nat.max h g)

/-- REDV (R285): one RED for each lane, those to one word in ascending order. -/
def execRedv (sw : Bool) (d a b : BitVec 5) (op : AtomicOp) (c : Scope) (t : AtomicTy) (s : State) : Outcome :=
  .next (s.issue [.x a, .v b, .v d] [] fun s =>
    let w := atomicBits t
    let at_ := redvAddr (s.readX a) (s.readV b) w
    match State.checkAtomics (decide (op = .add)) c (w / 8) at_ (redvLanes (s.readV b) w) s with
    | (u, .error f, h) => u.trapAccess f h
    | (u, .ok ps, h) =>
      (State.pushPlaces u.seq (fun x i p =>
        x.newAcc p.key (w / 8) (at_ i) p.page (.atomic (.op op t) (BitVec.ofNat 64 (lane (u.readV d) w i)) none (p.splits c))
          (u.holders p.key false [.x a, .v b])) ps u).retireAfter sw 4 h)

/-! ## Full/empty words (R288 to R291) -/

/-- The checks of a full/empty instruction (R288): a translated address is an illegal operation. -/
def State.wordCheck (s : State) (a : Word) : Except AccessFault Place :=
  match placeCheck a 8 8 with
  | .error f => .error f
  | .ok (.scratch pos off) => s.scratchCheck (.rmw true) a 8 pos off
  | .ok _ => .error { cause := 0x02, detail := 0, addr := a }

/-- A full/empty instruction at a checked word, or its trap; an illegal operation names no address. -/
def State.withWord (s : State) (a : Word) (k : State → Place → State) : State :=
  match s.wordCheck a with
  | .error f => if f.cause = 0x02 then s.illegal else s.trapAccess f 1
  | .ok p => k s p

/-- The instruction is not waiting to send an access again, or it is the cycle to do so (R154). -/
def State.resends (s : State) : Bool :=
  match s.ctx.wait with
  | some w => !(decide (w.kind = .other) && decide (w.q = 1)) || decide ((s.cycle - w.since) % 512 = 0)
  | none => true

/-- The instruction has been answered with RETRY, and waits to send its access again (R154). -/
def State.awaitResend (s : State) (v : Word) : State :=
  s.modCtx fun c => { c with wait := some { c.waiting .other 1 v s.cycle with since := s.cycle }, nextIssue := s.cycle + 1 }

/-- An access that a full/empty operation at `key` waits for: the context's own to the word (R304), and those that acquires,
fences and taint put before it; or, for a release, every one within the scope (R290). -/
def State.wordWaits (s : State) (key : Nat) (rel : Option Scope) (a : Acc) : Bool :=
  (s.mine a && overlaps a.key a.len key 8) || decide (a.seq ∈ s.holders key false [])
    || decide (a.seq ∈ s.ctx.inTaint) || (match rel with | some c => decide (a.seq ∈ s.earlier c) | none => false)

/-- A full/empty access waits for watermarks too (R249), and while its owner is being saved it is sent again every 256 network cycles
(R154); its instruction keeps the operand `v` meanwhile. -/
def State.atWord (s : State) (key : Nat) (rel : Option Scope) (v : Word) (k : State → State) : State :=
  if s.gated key 8 then s.block .other 0 v
  else if s.resends = false then s
  else if s.retried key then s.awaitResend v
  else s.whenDone (s.wordWaits key rel) v k

/-- The owner of a word. -/
def Place.owner (p : Place) : BitVec 12 := p.core.getD 0

/-- A take is presented at the owner's banks: a full word gives its value and is empty, else it joins the deferred list while
that has room (R289). -/
def State.presentTake (s : State) (n : Fin 11) (key : Nat) : State × Option Word :=
  if s.isFull key then (s.setFull key false, some (bitsOfBytes 64 (s.peek key 8)))
  else if (s.takers.filter fun e => decide (e.key / Config.scratchBytes = key / Config.scratchBytes)).length < 64 then
    ({ s with takers := s.takers ++ [{ core := s.core.num, ctx := n, key }] }, none)
  else (s, none)

/-- FTAKE has its value, an acquire at its scope (R289, R290). -/
def State.takeDone (s : State) (sw : Bool) (d : BitVec 5) (c : Scope) (v : Word) : State :=
  ((s.acquire c).writeLater (.x d) (v.setWidth 512) 0).retire sw 4

/-- FTAKE (R289): it waits until it has its value; no later access of the context is performed before (R290). -/
def execFtake (sw : Bool) (d a : BitVec 5) (c : Scope) (s : State) : Outcome :=
  .next (s.issue [.x a] [.x d] fun s =>
    match s.ctx.wait with
    | some w =>
      if w.kind = .ftake then (match w.delivered with | some v => s.takeDone sw d c v | none => s)
      else s.withWord w.addr fun s p => s.atWord p.key none w.addr fun s =>
        match s.presentTake s.cur p.key with
        | (t, some v) => t.takeDone sw d c v
        | (t, none) => t.waitOn .ftake 0 w.addr
    | none =>
      s.withWord (s.readX a) fun s p => s.atWord p.key none (s.readX a) fun s =>
        match s.presentTake s.cur p.key with
        | (t, some v) => t.takeDone sw d c v
        | (t, none) => t.block .ftake 0 (s.readX a))

/-- A waiting take has its value. -/
def Ctx.deliver (c : Ctx) (v : Word) : Ctx := { c with wait := c.wait.map fun w => { w with delivered := some v } }

/-- TAKE_PRESENTED_AGAIN (R289): a stalled take is presented again, behind the watermarks (R249) and not to an owner that is being saved
(R291). -/
def execTakePresentedAgain (ctx : Fin 11) (s : State) : Outcome :=
  .next (if s.stalledTake ctx then
      match (s.ctxAt ctx).wait.bind fun w => s.wordKey w.addr with
      | some key =>
        if s.gated key 8 ∨ s.retried key then s
        else match s.presentTake ctx key with
        | (t, some v) => t.modCtxAt ctx fun c => c.deliver v
        | (t, none) => t
      | none => s
    else s)

/-- FPUT at the owner's banks, the word not being full (R289): the oldest entry for the word takes the value, else the word is
full. -/
def State.fputAt (s : State) (source key id : Nat) (v : Word) : State :=
  let t := s.poke source key (bytesOfNat v.toNat 8)
  let u := { t with filler := (key, id) :: t.filler.filter fun f => decide (f.1 ≠ key) }
  match u.takers.find? fun e => decide (e.key = key) with
  | none => u.setFull key true
  | some e =>
    let w := { u with takers := u.takers.erase e }
    if e.core = s.core.num then w.modCtxAt e.ctx fun c => c.deliver v else w

/-- FPUT (R289): it is a release at its scope (R290), and holds its context until the banks have accepted it. -/
def execFput (sw : Bool) (a b : BitVec 5) (c : Scope) (s : State) : Outcome :=
  .next (s.issue [.x a, .x b] [] fun s =>
    let at_ := s.waitAddress (s.readX a)
    s.withWord at_ fun s p => s.atWord p.key (some c) at_ fun s =>
      if s.isFull p.key then s.trapHere 0x10 0 at_
      else (s.fputAt s.source p.key (s.identity s.cur) (s.readX b)).retireAfter sw 4 (if p.owner = s.core.num then 4 else 24))

/-- FPEEK (R289): the word, or its bit; a relaxed read. -/
def execFpeek (sw : Bool) (d a : BitVec 5) (k : Bool) (s : State) : Outcome :=
  .next (s.issue [.x a] [.x d] fun s =>
    s.withWord (s.readX a) fun s p =>
      let t := s.writeLater (.x d) 0 1
      (t.push (t.newAcc p.key 8 (s.readX a) (0, 0) (if k then .fullBit s.seq else .load (.scalar .z64) s.seq)
        (s.holders p.key true [.x a]))).retire sw 4)

/-- FINIT (R289): a relaxed write of the word and its bit. -/
def execFinit (sw : Bool) (a b : BitVec 5) (k : Bool) (s : State) : Outcome :=
  .next (s.issue [.x a, .x b] [] fun s =>
    s.withWord (s.readX a) fun s p =>
      (s.push (s.newAcc p.key 8 (s.readX a) (0, 0) (.finit (s.readX b) k) (s.holders p.key false [.x a]))).retire sw 4)

/-! ## Spikes (R292 to R295) -/

/-- The entries of a batch (R293). -/
def batchEntries : Nat := 256

/-- A power of two. -/
def isPow2 (n : Nat) : Bool := decide (n ≠ 0) && decide (n &&& (n - 1) = 0)

/-- A spike descriptor that SPKCLAIM refuses (R292). -/
def badSpike (ring rsize spill ssize : Nat) : Bool :=
  decide (rsize < 4096) || decide (65536 < rsize) || !isPow2 rsize || decide (2 ^ 32 ≤ ssize) || decide (ssize % 2048 ≠ 0)
    || decide (ring % rsize ≠ 0) || decide (spill % 2048 ≠ 0)
    || (decide (ssize ≠ 0) && decide (regionOf (BitVec.ofNat 64 spill) ≠ .translated))

/-- A claim of a kind holds the bytes. -/
def State.inClaim (s : State) (k : ClaimKind) (lo n : Nat) : Bool :=
  s.job.claims.any fun c => decide (c.kind = k) && decide (c.off ≤ lo) && decide (lo + n ≤ c.off + c.bytes)

/-- SPKCLAIM (R292). -/
def execSpkclaim (sw : Bool) (a : BitVec 5) (s : State) : Outcome :=
  .next (s.issue [.x a] [] fun s =>
    let at_ := s.waitAddress (s.readX a)
    s.withOwn at_ 32 8 at_ fun s bs =>
      let ring := fieldAt bs 0 8
      let rsize := fieldAt bs 8 8
      let spill := fieldAt bs 16 8
      let ssize := fieldAt bs 24 8
      if s.core.spike.isSome ∨ badSpike ring rsize spill ssize then s.illegal
      else if s.inClaim .spike ring (rsize + 2048) = false then s.resource 3
      else
        (s.modCore fun c => { c with spike := some { ring := BitVec.ofNat 19 ring, rsize, spill := BitVec.ofNat 64 spill, ssize,
                                                     entries := [], staging := [], head := 0, batches := 0 } }).retire sw 4)

/-- The batches that the spill area holds. -/
def Spike.slots (p : Spike) : Nat := p.ssize / 2048

/-- The address of a batch of the spill area, the oldest being 0. -/
def Spike.batchAddr (p : Spike) (i : Nat) : Word := p.spill + BitVec.ofNat 64 (2048 * ((p.head + i) % p.slots))

/-- A phase violation at a batch (R11, R293). -/
def State.spikePhase (s : State) (a : Word) : State := (s.violation 0x07 0 a).trapHere 0x07 0 0

/-- The checks of a push (R293): nothing to spill, or the place of the batch and the cycles for which the spill holds issue (R300). -/
def State.pushRoom (s : State) (p : Spike) (k : State → Option Nat → Nat → State) : State :=
  if p.entries.length < p.rsize / 8 then k s none 1
  else if p.slots ≤ p.batches then s.trapHere 0x02 0 p.spill
  else if s.job.superstep then s.spikePhase (p.batchAddr p.batches)
  else
    match s.check .store (p.batchAddr p.batches) 2048 8 s.exchange with
    | (t, .error f, h) => t.trapAccess f h
    | (t, .ok q, h) => k t (some q.key) (h + Config.storeTime q.key 2048)

/-- Entries as bytes. -/
def entryBytes (l : List Word) : List Byte := l.flatMap fun e => bytesOfNat e.toNat 8

/-- The entry is appended, the ring's oldest batch being written first where one must be (R293). -/
def State.spikeAppend (s : State) (p : Spike) (v : Word) (spill : Option Nat) : State :=
  match spill with
  | none => s.modCore fun c => { c with spike := some { p with entries := p.entries ++ [v] } }
  | some key =>
    (s.poke s.unitSource key (entryBytes (p.entries.take batchEntries))).modCore fun c =>
      { c with spike := some { p with entries := p.entries.drop batchEntries ++ [v], batches := p.batches + 1 } }

/-- SPKPUSH (R293, R300). -/
def execSpkpush (sw : Bool) (a : BitVec 5) (s : State) : Outcome :=
  .next (s.issue [.x a] [] fun s =>
    match s.core.spike with
    | none => s.illegal
    | some p => s.pushRoom p fun t key h => (t.spikeAppend p (s.readX a) key).retireAfter sw 4 (Nat.max h 1))

/-- A batch's entries. -/
def entriesOf (bs : List Byte) : List Word :=
  (List.range batchEntries).map fun i => BitVec.ofNat 64 (natOfBytes ((bs.drop (8 * i)).take 8))

/-- Up to eight of the oldest entries leave the spike (R293), `lat` cycles later and with the hold of R300. -/
def State.spikeTake (s : State) (sw : Bool) (d a : BitVec 5) (p : Spike) (lat hold : Nat) : State :=
  let all := p.staging ++ p.entries
  let out := all.take 8
  let k := p.staging.length
  let t := s.modCore fun c =>
    { c with spike := some { p with staging := p.staging.drop 8, entries := p.entries.drop (8 - k) } }
  ((t.writeV d (ofLanes 64 8 fun i => (out.getD i 0).toNat) lat).writeX a (BitVec.ofNat 64 out.length) lat).retireAfter sw 4 hold

/-- SPKPOP (R293): with fewer than eight entries staged, the oldest batch is read back, which adds its load time and 32 cycles (R300). -/
def execSpkpop (sw : Bool) (d a : BitVec 5) (s : State) : Outcome :=
  .next (s.issue [] [.v d, .x a] fun s =>
    match s.core.spike with
    | none => s.illegal
    | some p =>
      if 8 ≤ p.staging.length ∨ p.batches = 0 then s.spikeTake sw d a p 4 1
      else if s.job.superstep then s.spikePhase (p.batchAddr 0)
      else
        match s.check .load (p.batchAddr 0) 2048 8 s.exchange with
        | (t, .error f, h) => t.trapAccess f h
        | (t, .ok q, h) =>
          t.spikeTake sw d a
            { p with staging := p.staging ++ entriesOf (t.peek q.key 2048), head := (p.head + 1) % p.slots, batches := p.batches - 1 }
            (36 + h + t.loadTime q.key) h)

/-- What SPKLEN reads (R295). -/
def spkWord : Option Spike → Word
  | none => 0
  | some p =>
    BitVec.ofNat 64 (2 ^ 63 + (p.entries.length + p.staging.length + batchEntries * p.batches) % 2 ^ 31 * 2 ^ 32
      + batchEntries * p.batches % 2 ^ 29)

/-- SPKLEN (R295). -/
def execSpklen (sw : Bool) (d : BitVec 5) (s : State) : Outcome :=
  .next (s.issue [] [.x d] fun s => (s.writeX d (spkWord s.core.spike) 2).retire sw 4)

/-- SPKFREE (R292). -/
def execSpkfree (sw : Bool) (s : State) : Outcome :=
  .next (s.issue [] [] fun s => (s.modCore fun c => { c with spike := none }).retire sw 4)

/-! ## Drapers (R296 to R299) -/

/-- The checks of a draper number (R296). -/
def State.withDraper (s : State) (a : Word) (k : State → Draper → State) : State :=
  if 127 < a.toNat then s.illegal
  else match s.draper a.toNat with | none => s.resource 3 | some p => k s p

/-- SWALLOC (R297): the phase is tested first; then the draper is asked, and xD and p0 are written when it answers. -/
def execSwalloc (sw : Bool) (d a : BitVec 5) (s : State) : Outcome :=
  .next (s.issue [.x a] [.x d, .p 0] fun s =>
    if s.job.superstep then s.phaseViolation
    else
      s.withDraper (s.readX a) fun s _ =>
        let t := s.writeLater (.x d) 0 1
        let u := t.writeLater (.p 0) 0 1
        (u.push (u.newAcc 0 0 0 (0, 0) (.swatch (s.readX a).toNat s.seq t.seq) [])).retire sw 4)

/-- The swatches of `sz` bytes from `lo` up to the limit, within the granule that ends at `hi`. -/
def swatchesIn (lo hi limit sz : Nat) : Nat := (Nat.min hi limit - lo + sz - 1) / sz

/-- The swatches that a draper has not yet handed out: those of its granule, then those of a granule in every eight (R297). -/
def Draper.left (p : Draper) : Nat :=
  let sz := 2 ^ (7 + p.sz)
  let g := p.next / 4096 * 4096
  let more := (p.limit - g + 32767) / 32768 - 1
  if p.limit ≤ p.next then 0
  else
    swatchesIn p.next (g + 4096) p.limit sz
      + (if more = 0 then 0 else (more - 1) * (4096 / sz) + swatchesIn (g + 32768 * more) (g + 32768 * more + 4096) p.limit sz)

/-- SWSTAT (R299). -/
def execSwstat (sw : Bool) (d a : BitVec 5) (s : State) : Outcome :=
  .next (s.issue [.x a] [.x d] fun s =>
    s.withDraper (s.readX a) fun s p =>
      (s.writeLater (.x d) (BitVec.ofNat 512 (2 ^ 63 + p.sz % 8 * 2 ^ 60 + Nat.min p.left (2 ^ 32 - 1))) 0).retire sw 4)

end Sys2Proof.Machine
end

