-- ==== Sys2Proof/Machine/Matrix.lean ====
section
/-! DEFINITION. The matrix unit (R326 to R346): the commands and their issue checks, exact accumulation with its residue check
(R95 to R106), the kept tile, the stationary pair, copies, clears and status. -/

namespace Sys2Proof.Machine

/-! ## Storage of operands (R88 to R90, R335) -/

/-- Bits of a packed element (R89). -/
def packedBits : Ty → Nat
  | .lane t => t.width
  | .e4m3 => 8 | .e5m2 => 8 | .e3m2 => 6 | .e2m3 => 6 | .e2m1 => 4 | .cb4 => 4 | .s4 => 4

/-- The formats that carry block scales (R95). -/
def carriesScales : Ty → Bool
  | .lane _ => false
  | .s4 => false
  | _ => true

/-- Scales follow an operand of this format under this scale mode (R332). -/
def scalesFollow (t : Ty) (mode : Bool) : Bool := mode && carriesScales t

/-- Bytes of `n` lines of 64 elements, with their 2n scales when scales follow (R90, R339). -/
def lineBytes (t : Ty) (n : Nat) (sc : Bool) : Nat := n * 8 * packedBits t + if sc then 8 * n else 0

/-- Bytes of a tile (R90). -/
def tileSize (t : Ty) (sc : Bool) : Nat := lineBytes t 64 sc

/-- Bytes of a pruned tile with its metadata (R335). -/
def prunedSize (t : Ty) : Nat := 64 * 4 * packedBits t + 512

/-- Element `n` of a run of packed elements (R89). -/
def codeAt (run w n : Nat) : Nat := run / 2 ^ (w * n) % 2 ^ w

/-- The value of an operand element; a CB4 code selects an entry of the codebook (R87, R88). -/
def operandValue (t : Ty) (book : List (BitVec 16)) (code : Nat) : Val :=
  match t with
  | .cb4 => fmtBf16.value (book.getD code 0).toNat
  | t => elemValue t code

/-- The 16 entries of a codebook (R88). -/
def bookOf (bs : List Byte) : List (BitVec 16) := (List.range 16).map fun c => BitVec.ofNat 16 (codeAt (natOfBytes bs) 16 c)

/-- A binary32 scale read from bytes (R95). -/
def scaleAt (bs : List Byte) (off : Nat) : Val := fmtF32.value (natOfBytes ((bs.drop off).take 4))

/-- The scale of every block of an operand without scales. -/
def unitScale : Val := .num false 1 0

/-! ## Residues (R103 to R105) -/

/-- ρ of a dyadic number (R103). -/
def residue (x : Int × Int) : Nat := (x.1 * 2 ^ (x.2 % 7).toNat % 127).toNat

/-- The check value C of a block or group, from the operands' residues alone (R105). -/
def checkValue (ps : List (Val × Val)) : Nat := (ps.map fun p => residue p.1.scaled * residue p.2.scaled).sum % 127

/-! ## Accumulation (R97 to R102) -/

/-- The three ways to accumulate: blocks of 32 with scales, groups of four through a window, or integers. -/
inductive AccKind where
  | narrow | wide | int
  deriving DecidableEq, Repr

/-- How a pairing accumulates, by its A format (R332). -/
def accKind : Ty → AccKind
  | .lane (.float _) => .wide
  | .lane (.int _) => .int
  | .s4 => .int
  | _ => .narrow

/-- The largest floor(log2 |p|) among the products that are not zero (R99). -/
def topWeight : List (Int × Int) → Option Int
  | [] => none
  | p :: ps =>
    match topWeight ps with
    | none => if p.1 = 0 then none else some (p.2 + Nat.log2 p.1.natAbs)
    | some e => if p.1 = 0 then some e else some (Max.max (p.2 + Nat.log2 p.1.natAbs) e)

/-- A product truncated toward zero to a multiple of 2^u (R99). -/
def truncTo (u : Int) (p : Int × Int) : Int × Int :=
  if u ≤ p.2 then p else let k := (2 : Int) ^ (u - p.2).toNat; (p.1.tdiv k * k, p.2)

/-- The exact sum of dyadic numbers. -/
def dySum (ps : List (Int × Int)) : Int × Int := ps.foldl dyAdd (0, 0)

/-- The exact sum of products, by IEEE 754 arithmetic where one is a NaN or an infinity (R97, R98). -/
def sumProducts (ps : List (Val × Val)) : Val := ps.foldl (fun s p => s.add (p.1.mul p.2)) (.num false 0 0)

/-- `acc := round(acc + t, .f32)` (R97). -/
def addF32 (acc : BitVec 32) (t : Nat) : BitVec 32 :=
  BitVec.ofNat 32 (fmtF32.round ((fmtF32.value acc.toNat).add (fmtF32.value t)))

/-- An infinity or a NaN. -/
def Val.special : Val → Bool
  | .num _ _ _ => false
  | _ => true

/-- What one block or group does: the new word, whether it overflowed, and whether its residues disagree. -/
structure BlockEnd where
  word : BitVec 32
  ovf : Bool
  bad : Bool
  deriving DecidableEq, Repr

/-- One block of the narrow kinds (R97, R98); `err` is the error of the sum datapath. Where a nonzero block sum meets a zero scale, the zero that
is added has the xor of the factors' signs, which an accumulator of -0 shows: the spec names no sign (DESIGN CHOICE, log 118). -/
def narrowBlock (ps : List (Val × Val)) (sa sb : Val) (err : Int × Int) (acc : BitVec 32) : BlockEnd :=
  match sumProducts ps with
  | .num s m q =>
    let d := dyAdd (Val.scaled (.num s m q)) err
    if residue d ≠ checkValue ps then { word := acc, ovf := false, bad := true }
    else
      let t := if d.1 = 0 ∧ sa.special = false ∧ sb.special = false then 0
        else fmtF32.round (((Val.ofDy d).mul sa).mul sb)
      { word := addF32 acc t, ovf := false, bad := false }
  | v => { word := addF32 acc (fmtF32.round ((v.mul sa).mul sb)), ovf := false, bad := false }

/-- One group of the 16-bit kinds (R98, R99). -/
def wideGroup (ps : List (Val × Val)) (err : Int × Int) (acc : BitVec 32) : BlockEnd :=
  let s := sumProducts ps
  if s.special then { word := addF32 acc (fmtF32.round s), ovf := false, bad := false }
  else
    let products := ps.map fun p => (p.1.mul p.2).scaled
    match topWeight products with
    | none =>
      if residue err ≠ 0 then { word := acc, ovf := false, bad := true }
      else { word := addF32 acc (fmtF32.round (Val.ofDy err)), ovf := false, bad := false }
    | some e =>
      let kept := products.map (truncTo (e - 61))
      let g := dyAdd (dySum kept) err
      let d := dyAdd (dySum products) (let k := dySum kept; (-k.1, k.2))
      if (residue g + residue d) % 127 ≠ checkValue ps then { word := acc, ovf := false, bad := true }
      else { word := addF32 acc (fmtF32.round (Val.ofDy g)), ovf := false, bad := false }

/-- One block of the integer kinds (R101, R102). -/
def intBlock (ps : List (Val × Val)) (err : Int × Int) (acc : BitVec 32) : BlockEnd :=
  let d := dyAdd (sumProducts ps).scaled err
  if residue d ≠ checkValue ps then { word := acc, ovf := false, bad := true }
  else
    let w := acc.toInt + d.1 * (2 : Int) ^ d.2.toNat
    { word := BitVec.ofInt 32 w, ovf := decide (w < -(2 : Int) ^ 31) || decide ((2 : Int) ^ 31 - 1 < w), bad := false }

/-- A product of matrices: how it accumulates; for each line of A and group of four along K, its elements, each with its place in
the group; for each column of B and group, the four elements; and the scales of a line or column and block. -/
structure Product where
  kind : AccKind
  a : List (List (List (Val × Nat)))
  b : List (List (List Val))
  sa : List (List Val)
  sb : List (List Val)

/-- The factors of each group of line `i` and column `j`. -/
def Product.factors (p : Product) (i j : Nat) : List (List (Val × Val)) :=
  List.zipWith (fun xs ys => xs.map fun x : Val × Nat => (x.1, ys.getD x.2 (.num false 0 0))) (p.a.getD i []) (p.b.getD j [])

/-- Groups joined to blocks of eight. -/
def blocksOf (gs : List (List (Val × Val))) : List (List (Val × Val)) :=
  (List.range (gs.length / 8)).map fun k => ((gs.drop (8 * k)).take 8).flatten

/-- What the datapath has too much in a sum (R105; log 37). -/
def errorOf (us : List Upset) (row col block group : Nat) : Int × Int :=
  match us.find? fun u => decide (u.row = row) && decide (u.col = col) && decide (u.block = block) && decide (u.group = group) with
  | some u => (u.num, u.exp)
  | none => (0, 0)

/-- What an output element has become, and its mismatches as block and group. -/
structure Element32 where
  word : BitVec 32
  ovf : Bool
  bad : List (Nat × Nat)
  deriving DecidableEq, Repr

/-- An element takes the outcome of a block or group. -/
def Element32.after (e : Element32) (block group : Nat) (r : BlockEnd) : Element32 :=
  { word := r.word, ovf := e.ovf || r.ovf, bad := if r.bad then e.bad ++ [(block, group)] else e.bad }

/-- Output element (i, j): blocks, or groups, are added in ascending K (R100). -/
def Product.element (p : Product) (us : List Upset) (i j : Nat) (acc : BitVec 32) : Element32 :=
  let start : Element32 := { word := acc, ovf := false, bad := [] }
  let gs := p.factors i j
  let scale (ss : List (List Val)) (l k : Nat) : Val := (ss.getD l []).getD k (.num false 1 0)
  match p.kind with
  | .narrow =>
    ((blocksOf gs).foldl (fun (x : Element32 × Nat) ps =>
      (x.1.after x.2 0 (narrowBlock ps (scale p.sa i x.2) (scale p.sb j x.2) (errorOf us i j x.2 0) x.1.word), x.2 + 1)) (start, 0)).1
  | .int =>
    ((blocksOf gs).foldl (fun (x : Element32 × Nat) ps =>
      (x.1.after x.2 0 (intBlock ps (errorOf us i j x.2 0) x.1.word), x.2 + 1)) (start, 0)).1
  | .wide =>
    (gs.foldl (fun (x : Element32 × Nat) ps =>
      (x.1.after (x.2 / 8) (x.2 % 8) (wideGroup ps (errorOf us i j (x.2 / 8) (x.2 % 8)) x.1.word), x.2 + 1)) (start, 0)).1

/-- A row of 64 words after its accumulation, with column rotation `rot` (R353); whether one overflowed; and its mismatches, for
accumulator row `row`. -/
def Product.row (p : Product) (us : List Upset) (i row rot : Nat) (old : List (BitVec 32)) :
    List (BitVec 32) × Bool × List Mism :=
  let es := (List.range 64).map fun j => p.element us i j (old.getD ((j + rot) % 64) 0)
  ((List.range 64).map fun c => (es.getD ((c + 64 - rot) % 64) { word := 0, ovf := false, bad := [] }).word,
    es.any (·.ovf),
    (es.mapIdx fun j e => e.bad.map fun b => { block := b.1, group := b.2, row, col := j : Mism }).flatten)

/-! ## Operands of a product -/

/-- The `per` elements of line `i` of packed lines (R89). -/
def lineVals (t : Ty) (book : List (BitVec 16)) (bs : List Byte) (per i : Nat) : List Val :=
  let n := per * packedBits t / 8
  let run := natOfBytes ((bs.drop (i * n)).take n)
  (List.range per).map fun j => operandValue t book (codeAt run (packedBits t) j)

/-- The 16 groups of four of a line. -/
def fours (vs : List Val) : List (List Val) := (List.range 16).map fun g => (vs.drop (4 * g)).take 4

/-- The groups of a line of A. -/
def denseGroups (vs : List Val) : List (List (Val × Nat)) := (fours vs).map fun xs => xs.mapIdx fun j v => (v, j)

/-- The A side of whole tiles, one after another (R90, R334). -/
def tileA (t : Ty) (book : List (BitVec 16)) (sc : Bool) (tiles : Nat) (bs : List Byte) : List (List (List (Val × Nat))) :=
  (List.range 64).map fun i => (List.range tiles).flatMap fun k => denseGroups (lineVals t book (bs.drop (k * tileSize t sc)) 64 i)

/-- The groups of a line of A in the pruned form: two kept elements, whose places the metadata gives (R335). -/
def prunedGroups (t : Ty) (tile : List Byte) (i : Nat) : List (List (Val × Nat)) :=
  let vs := lineVals t [] tile 32 i
  let nibs := natOfBytes ((tile.drop (256 * packedBits t + 8 * i)).take 8)
  (List.range 16).map fun g =>
    [(vs.getD (2 * g) (.num false 0 0), codeAt nibs 4 g % 4), (vs.getD (2 * g + 1) (.num false 0 0), codeAt nibs 4 g / 4)]

/-- The A side in the pruned form (R335). -/
def prunedA (t : Ty) (tiles : Nat) (bs : List Byte) : List (List (List (Val × Nat))) :=
  (List.range 64).map fun i => (List.range tiles).flatMap fun k => prunedGroups t (bs.drop (k * prunedSize t)) i

/-- The A side of `n` lines (R339): their elements, and then their scales. -/
def linesA (t : Ty) (book : List (BitVec 16)) (n : Nat) (bs : List Byte) : List (List (List (Val × Nat))) :=
  (List.range n).map fun i => denseGroups (lineVals t book bs 64 i)

/-- The B side of whole tiles (R90, R334). -/
def tileB (t : Ty) (book : List (BitVec 16)) (sc : Bool) (tiles : Nat) (bs : List Byte) : List (List (List Val)) :=
  (List.range 64).map fun j => (List.range tiles).flatMap fun k => fours (lineVals t book (bs.drop (k * tileSize t sc)) 64 j)

/-- The scales of whole tiles (R90): scale 2 × line + h of tile block div 2. -/
def tileScale (t : Ty) (sc : Bool) (tiles : Nat) (bs : List Byte) : List (List Val) :=
  (List.range 64).map fun line => (List.range (2 * tiles)).map fun block =>
    if sc then scaleAt bs (block / 2 * tileSize t sc + lineBytes t 64 false + 4 * (2 * line + block % 2)) else unitScale

/-- The scales of `n` lines (R339). -/
def linesScale (t : Ty) (n : Nat) (sc : Bool) (bs : List Byte) : List (List Val) :=
  (List.range n).map fun line => (List.range 2).map fun block =>
    if sc then scaleAt bs (lineBytes t n false + 4 * (2 * line + block)) else unitScale

/-- The product of MMUL, or of a loom's task with one tile of each (R334, R335, R353). -/
def tileProduct (f : Fmt) (sp : Bool) (cba cbb : List (BitVec 16)) (tiles : Nat) (a b : List Byte) : Product :=
  let sa := scalesFollow f.fa f.sma
  let sb := scalesFollow f.fb f.smb
  { kind := accKind f.fa, a := if sp then prunedA f.fa tiles a else tileA f.fa cba sa tiles a,
    b := tileB f.fb cbb sb tiles b, sa := tileScale f.fa sa tiles a, sb := tileScale f.fb sb tiles b }

/-- The product of MSTREAM: `n` lines of A with the live plane (R339). -/
def lineProduct (f : Fmt) (cba : List (BitVec 16)) (n : Nat) (a : List Byte) (w : Plane) : Product :=
  { kind := accKind f.fa, a := linesA f.fa cba n a, b := tileB w.fmt w.book w.scaled 1 w.data,
    sa := linesScale f.fa n (scalesFollow f.fa f.sma) a, sb := tileScale w.fmt w.scaled 1 w.data }

/-! ## Descriptors and format words (R328, R332) -/

/-- ROW0 of a descriptor. -/
def descRow0 (w : Word) : Nat := natBits w.toNat 10 0
/-- NR + 1 of a descriptor. -/
def descRows (w : Word) : Nat := natBits w.toNat 19 12 + 1
/-- KT + 1 of a descriptor. -/
def descTiles (w : Word) : Nat := natBits w.toNat 27 24 + 1
/-- KEEP of a descriptor. -/
def descKeep (w : Word) : Bool := w.getLsbD 32
/-- ZERO of a descriptor. -/
def descZero (w : Word) : Bool := w.getLsbD 33
/-- BELL of a descriptor. -/
def descBell (w : Word) : Bool := w.getLsbD 34

/-- The fields that MMUL uses (R328). -/
abbrev mmulFields : Word := 0x70F0007FF#64
/-- The fields that MSTREAM uses. -/
abbrev mstreamFields : Word := 0x6000FF7FF#64
/-- The fields that ACRD, ACWR and MZERO.acc use. -/
abbrev rowFields : Word := 0x4000FF7FF#64

/-- A descriptor has a bit set that is reserved or unused (R328). -/
def badDesc (w fields : Word) : Bool := decide (w &&& ~~~fields ≠ 0)

/-- A pairing that R332 accepts. -/
def pairs (fa fb : Ty) : Bool :=
  match fa, fb with
  | .lane (.float .bf16), .lane (.float .bf16) => true
  | .lane (.float .f16), .lane (.float .f16) => true
  | .lane (.int .s8), .lane (.int .s8) => true
  | .lane (.int .s8), .s4 => true
  | .s4, .lane (.int .s8) => true
  | .s4, .s4 => true
  | a, b => carriesScales a && carriesScales b

/-- A format word, unless it is one that MCTX refuses (R332). -/
def fmtOfWord (w : Word) : Option Fmt :=
  let n := w.toNat
  if natBits n 63 20 ≠ 0 ∨ natBits n 15 13 ≠ 0 ∨ natBits n 7 5 ≠ 0 ∨ 1 < natBits n 17 16 ∨ 1 < natBits n 19 18 then none
  else
    match Ty.ofCode (BitVec.ofNat 5 (natBits n 4 0)), Ty.ofCode (BitVec.ofNat 5 (natBits n 12 8)) with
    | some fa, some fb => if pairs fa fb then some { fa, fb, sma := n.testBit 16, smb := n.testBit 18 } else none
    | _, _ => none

/-! ## Issue (R326, R329, R331) -/

/-- A row span leaves the core's partition: the first row outside it (R15, R329). -/
def State.rowsOutside (s : State) (row0 n : Nat) : Option Nat :=
  let lo := 256 * (s.position % 8)
  if row0 < lo ∨ lo + 255 < row0 then some row0 else if lo + 256 < row0 + n then some (lo + 256) else none

/-- Check 3 of R329. -/
def State.rowCheck (s : State) (row0 n : Nat) (k : State → State) : State :=
  match s.rowsOutside row0 n with
  | some r => s.trapHere 0x0C (BitVec.ofNat 32 r) 0
  | none => k s

/-- Check 4 of R329: an operand span. -/
def State.spanCheck (s : State) (a : Word) (n align : Nat) (k : State → State) : State :=
  if a.toNat % align ≠ 0 then s.trapAccess (addressFault 3 a) 1
  else
    match s.ownSpan a.toNat n with
    | some f => s.trapAccess f 1
    | none => k s

/-- Check 1 of R329. -/
def State.weighed (s : State) (k : State → State) : State := if s.core.matrix.weight = 0 then s.resource 8 else k s

/-- A condition of check 2 of R329. -/
def State.unlessIllegal (s : State) (p : Bool) (k : State → State) : State := if p then s.illegal else k s

/-- The accesses of the issuing context to its own scratchpad that its command waits for (R331). -/
def State.ownAccesses (s : State) : List Nat :=
  (s.accs.filter fun a => decide (a.ctx = s.cur) && s.within .core a.key).map (·.seq)

/-- The queue takes no command: it is full, or latched tasks of the loom come first (R326, R352). -/
def State.queueFull (s : State) : Bool := decide (16 ≤ s.core.matrix.queue.length) || !s.core.loom.latched.isEmpty

/-- A command joins the queue; the first one in it is set going (R326). -/
def State.join (s : State) (c : MCmd) : State :=
  let m := s.core.matrix
  let t := s.modCore fun k => { k with matrix := { m with queue := m.queue ++ [c] } }
  if m.queue.isEmpty then { t with agenda := t.agenda ++ t.core.matrix.next } else t

/-- A command of the issuing context, which its caller may complete. -/
def State.newCommand (s : State) (kind : MKind) (desc a b : Word) (result : Option Nat) : MCmd :=
  { kind, ctx := s.cur, desc, a, b, steps := 0, finished := false, iaddr := s.pc, result, after := s.ownAccesses, held := false,
    mism := [] }

/-- The opcode and the F field of a command's word (R326), as OP × 256 + F; a loom's task has none. -/
def MKind.code : MKind → Nat
  | .mctx _ => 0xB800
  | .mmul sp => 0xB900 + bitAt sp 0
  | .mloads => 0xBA00
  | .mswap => 0xBB00
  | .mstream => 0xBC00
  | .mdrain => 0xBD00
  | .acrd => 0xBE00
  | .acwr => 0xBF00
  | .mchkKat => 0xC000
  | .mchkInj => 0xC001
  | .mzeroAcc => 0xC100
  | .mzeroSt => 0xC101
  | .mcbk isB => 0xC400 + bitAt isB 0
  | .mflag clr => 0xC500 + bitAt clr 0
  | .task _ => 0

/-- A matrix command is folded into the signature: which command it is, its descriptor and its operands (R161; log 22). -/
def State.signCommand (s : State) (kind : MKind) (desc a b : Word) : State :=
  s.sign a.toNat 18 (bytesOfNat kind.code 2 ++ bytesOfNat desc.toNat 8 ++ bytesOfNat b.toNat 8)

/-- A command that has passed its checks enters the queue, folded into the signature (R161); `f` is its effect on the issue
side. While the queue is full it waits (R326). -/
def State.command (s : State) (sw : Bool) (kind : MKind) (desc a b : Word) (f : Matrix → Matrix) : State :=
  if s.queueFull then s.block .other 0 0
  else
    (((s.modCore fun k => { k with matrix := f k.matrix }).join (s.newCommand kind desc a b none)).signCommand kind desc a b).retire sw 4

/-- A command with a result of variable latency (R341, R342). -/
def State.commandTo (s : State) (sw : Bool) (d : BitVec 5) (kind : MKind) (desc : Word) (f : Matrix → Matrix) : State :=
  if s.queueFull then s.block .other 0 0
  else
    let t := s.writeLater (.x d) 0 1
    (((t.modCore fun k => { k with matrix := f k.matrix }).join
      (t.newCommand kind desc 0 0 (if d = 0 then none else some s.seq))).signCommand kind desc 0 0).retire sw 4

/-- The issue side after a command that drains any kept tile (R336, R343). -/
def Matrix.drainIssued (m : Matrix) : Matrix := { m with keptIssued := none }

/-- MCTX (R332). -/
def execMctx (sw : Bool) (a : BitVec 5) (s : State) : Outcome :=
  .next (s.issue [.x a] [] fun s => s.weighed fun s =>
    let w := s.readX a
    match fmtOfWord w with
    | none => s.illegal
    | some f => s.command sw (.mctx w) w 0 0 fun m => { m with fmtIssued := some f })

/-- MCBK (R333). -/
def execMcbk (sw : Bool) (a : BitVec 5) (isB : Bool) (s : State) : Outcome :=
  .next (s.issue [.x a] [] fun s => s.weighed fun s =>
    s.spanCheck (s.readX a) 32 32 fun s =>
      s.command sw (.mcbk isB) 0 (s.readX a) 0 fun m =>
        if isB then { m with cbbIssued := true } else { m with cbaIssued := true })

/-- An operand is CB4 and its codebook has not been copied (R333). -/
def noBook (t : Ty) (copied : Bool) : Bool := decide (t = .cb4) && !copied

/-- A context format that MMUL.sp refuses (R335). -/
def badSparse (f : Fmt) : Bool :=
  f.sma || !(match f.fa with
    | .lane (.float .f16) => true
    | .lane (.float .bf16) => true
    | .e4m3 => true
    | .e5m2 => true
    | .lane (.int .s8) => true
    | _ => false)

/-- MMUL and MMUL.sp (R333 to R336). -/
def execMmul (sw : Bool) (d a b : BitVec 5) (sp : Bool) (s : State) : Outcome :=
  .next (s.issue [.x d, .x a, .x b] [] fun s => s.weighed fun s =>
    let w := s.readX d
    match s.core.matrix.fmtIssued with
    | none => s.illegal
    | some f =>
      s.unlessIllegal (badDesc w mmulFields || noBook f.fa s.core.matrix.cbaIssued || noBook f.fb s.core.matrix.cbbIssued
          || (sp && badSparse f)) fun s =>
        s.rowCheck (descRow0 w) 64 fun s =>
          s.spanCheck (s.readX a) (descTiles w * if sp then prunedSize f.fa else tileSize f.fa (scalesFollow f.fa f.sma)) 64
            fun s => s.spanCheck (s.readX b) (descTiles w * tileSize f.fb (scalesFollow f.fb f.smb)) 64 fun s =>
              s.command sw (.mmul sp) w (s.readX a) (s.readX b) fun m =>
                { m with keptIssued := if descKeep w then some (descRow0 w) else none })

/-- MLOADS (R333, R337). -/
def execMloads (sw : Bool) (a : BitVec 5) (s : State) : Outcome :=
  .next (s.issue [.x a] [] fun s => s.weighed fun s =>
    match s.core.matrix.fmtIssued with
    | none => s.illegal
    | some f =>
      s.unlessIllegal (s.core.matrix.shadowIssued.isSome || noBook f.fb s.core.matrix.cbbIssued) fun s =>
        s.spanCheck (s.readX a) (tileSize f.fb (scalesFollow f.fb f.smb)) 64 fun s =>
          s.command sw .mloads 0 (s.readX a) 0 fun m => { m with ownIssue := true, shadowIssued := some f.fb })

/-- MSWAP (R338). -/
def execMswap (sw : Bool) (s : State) : Outcome :=
  .next (s.issue [] [] fun s => s.weighed fun s =>
    s.unlessIllegal (!s.core.matrix.ownIssue || s.core.matrix.shadowIssued.isNone) fun s =>
      s.command sw .mswap 0 0 0 fun m => { m with liveIssued := m.shadowIssued, shadowIssued := none })

/-- MSTREAM (R333, R339). -/
def execMstream (sw : Bool) (d a : BitVec 5) (s : State) : Outcome :=
  .next (s.issue [.x d, .x a] [] fun s => s.weighed fun s =>
    let w := s.readX d
    match s.core.matrix.fmtIssued, s.core.matrix.liveIssued with
    | some f, some fw =>
      s.unlessIllegal (badDesc w mstreamFields || !s.core.matrix.ownIssue || !pairs f.fa fw
          || noBook f.fa s.core.matrix.cbaIssued) fun s =>
        s.rowCheck (descRow0 w) (descRows w) fun s =>
          s.spanCheck (s.readX a) (lineBytes f.fa (descRows w) (scalesFollow f.fa f.sma)) 64 fun s =>
            s.command sw .mstream w (s.readX a) 0 Matrix.drainIssued
    | _, _ => s.illegal)

/-- MDRAIN (R336). -/
def execMdrain (sw : Bool) (s : State) : Outcome :=
  .next (s.issue [] [] fun s => s.weighed fun s => s.command sw .mdrain 0 0 0 Matrix.drainIssued)

/-- The copies between the store and the scratchpad (R340). -/
def State.rowCopy (s : State) (sw : Bool) (d a : BitVec 5) (kind : MKind) : State :=
  let w := s.readX d
  s.unlessIllegal (badDesc w rowFields) fun s =>
    s.rowCheck (descRow0 w) (descRows w) fun s =>
      s.spanCheck (s.readX a) (256 * descRows w) 64 fun s => s.command sw kind w (s.readX a) 0 Matrix.drainIssued

/-- ACRD (R340). -/
def execAcrd (sw : Bool) (d a : BitVec 5) (s : State) : Outcome :=
  .next (s.issue [.x d, .x a] [] fun s => s.weighed fun s => s.rowCopy sw d a .acrd)

/-- ACWR (R340). -/
def execAcwr (sw : Bool) (d a : BitVec 5) (s : State) : Outcome :=
  .next (s.issue [.x d, .x a] [] fun s => s.weighed fun s => s.rowCopy sw d a .acwr)

/-- MCHK.kat (R342). -/
def execMchkKat (sw : Bool) (d : BitVec 5) (s : State) : Outcome :=
  .next (s.issue [] [.x d] fun s => s.weighed fun s => s.commandTo sw d .mchkKat 0 Matrix.drainIssued)

/-- MCHK.inj (R342). -/
def execMchkInj (sw : Bool) (d a : BitVec 5) (s : State) : Outcome :=
  .next (s.issue [.x a] [.x d] fun s => s.weighed fun s =>
    s.unlessIllegal (decide (64 ≤ (s.readX a).toNat)) fun s => s.commandTo sw d .mchkInj (s.readX a) Matrix.drainIssued)

/-- MZERO.acc (R340). -/
def execMzeroAcc (sw : Bool) (d : BitVec 5) (s : State) : Outcome :=
  .next (s.issue [.x d] [] fun s => s.weighed fun s =>
    let w := s.readX d
    s.unlessIllegal (badDesc w rowFields) fun s =>
      s.rowCheck (descRow0 w) (descRows w) fun s => s.command sw .mzeroAcc w 0 0 Matrix.drainIssued)

/-- MZERO.st (R337): the pair is released on the issue side. -/
def execMzeroSt (sw : Bool) (s : State) : Outcome :=
  .next (s.issue [] [] fun s => s.weighed fun s =>
    s.command sw .mzeroSt 0 0 0 fun m => { m with ownIssue := false, shadowIssued := none, liveIssued := none })

/-- MFLAG (R341). -/
def execMflag (sw : Bool) (d : BitVec 5) (clr : Bool) (s : State) : Outcome :=
  .next (s.issue [] [.x d] fun s => s.weighed fun s => s.commandTo sw d (.mflag clr) 0 id)

/-- An MSWAP of the core waits: one in the queue that no later MZERO.st clears (R337, R343). -/
def swapWaits : List MCmd → Bool
  | [] => false
  | c :: cs => (decide (c.kind = .mswap) && !c.finished && !(cs.any fun u => decide (u.kind = .mzeroSt))) || swapWaits cs

/-- What MSTAT reads (R343). -/
def Matrix.stat (m : Matrix) : Word :=
  BitVec.ofNat 64 (m.rflt.toNat * 2 ^ 32 + bitAt m.ownIssue 23 + bitAt m.shadowIssued.isSome 22 + bitAt (swapWaits m.queue) 21
    + bitAt m.keptIssued.isSome 20 + m.weight.toNat * 2 ^ 16 + m.keptIssued.getD 0 * 2 ^ 5 + Nat.min m.queue.length 16)

/-- MSTAT (R326, R343). -/
def execMstat (sw : Bool) (d : BitVec 5) (s : State) : Outcome :=
  .next (s.issue [] [.x d] fun s => (s.writeX d s.core.matrix.stat 2).retire sw 4)

/-- The incomplete commands that context `n` issued (R331); a loom's task is no command of a context. -/
def Matrix.pending (m : Matrix) (n : Fin 11) : Nat :=
  m.queue.countP fun c => decide (c.ctx = n) && (match c.kind with | .task _ => false | _ => true)

/-- MWAIT (R326, R331): an acquire of what the commands have written. -/
def execMwait (sw : Bool) (n : BitVec 5) (s : State) : Outcome :=
  .next (s.issue [] [] fun s => if s.core.matrix.pending s.cur ≤ n.toNat then (s.acquireFrom s.unitSource .core).retire sw 4 else s.block .other 0 0)

/-! ## Performing commands (R330, R336 to R342) -/

/-- Rows `row` upwards are written. -/
def State.writeRows : Nat → List (List (BitVec 32)) → State → State
  | _, [], s => s
  | row, ws :: rs, s => State.writeRows (row + 1) rs (s.writeRow (row % 256) ws)

/-- The kept tile, if any, is drained to its rows (R336). -/
def State.drainKept (s : State) : State :=
  match s.core.matrix.kept with
  | some k => (State.writeRows k.row0 k.rows s).modCore fun c => { c with matrix := { c.matrix with kept := none } }
  | none => s

/-- An MMUL that has not been performed is in the queue: the issue side's KEPT and KROW are its own. -/
def Matrix.mmulQueued (m : Matrix) : Bool := m.queue.any fun c => match c.kind with | .mmul _ => !c.finished | _ => false

/-- The kept tile is drained for another reason than a command of this core's queue: before a step of another core or a task of the loom,
and on eviction (R336, R343). -/
def State.drainOutside (s : State) : State :=
  if s.core.matrix.kept.isNone then s
  else
    s.drainKept.modCore fun c =>
      { c with matrix := { c.matrix with keptIssued := if c.matrix.mmulQueued then c.matrix.keptIssued else none } }

/-- The command at the head replaced. -/
def State.setHead (s : State) (f : MCmd → MCmd) : State :=
  s.modCore fun k => { k with matrix := { k.matrix with queue :=
    match k.matrix.queue with
    | c :: cs => f c :: cs
    | [] => [] } }

/-- The words of a row of the store, by its absolute number. -/
def State.accRow (s : State) (row : Nat) : List (BitVec 32) := rowOf s.core.matrix.acc (row % 256)

/-- DETAIL of the residue fault (R344). -/
def State.residueDetail (s : State) (x : Mism) (more : Bool) : BitVec 32 :=
  BitVec.ofNat 32 (x.group * 2 ^ 26 + bitAt more 25 + x.block * 2 ^ 20 + x.row * 2 ^ 8 + s.position / 8 * 2 ^ 6 + x.col)

/-- The address of the A tile, or of the A lines, of a block of a command (R344). -/
def State.blockAddr (s : State) (c : MCmd) (block : Nat) : Word :=
  match c.kind, s.core.matrix.fmt with
  | .mmul sp, some f =>
    c.a + BitVec.ofNat 64 (block / 2 * if sp then prunedSize f.fa else tileSize f.fa (scalesFollow f.fa f.sma))
  | _, _ => c.a

/-- Mismatches are logged and counted (R343, R344, R420). -/
def State.noteMismatches (c : MCmd) : List Mism → State → State
  | [], s => s
  | x :: xs, s =>
    let t := (s.logEntry true 3 0x0D (s.sourceOf c.ctx) (s.residueDetail x false) (s.blockAddr c x.block)).count 7
    State.noteMismatches c xs (t.modCore fun k =>
      { k with matrix := { k.matrix with rflt := if k.matrix.rflt = 255 then 255 else k.matrix.rflt + 1 } })

/-- What rows computed by a product leave: IOVF, and the mismatches in the command (R102, R105). -/
def State.noteRows (s : State) (c : MCmd) (rs : List (List (BitVec 32) × Bool × List Mism)) : State :=
  let xs := (rs.map (·.2.2)).flatten
  let t := s.modCore fun k => { k with matrix := { k.matrix with iovf := k.matrix.iovf || rs.any (·.2.1), upsets := [] } }
  State.noteMismatches c xs (t.setHead fun h => { h with mism := h.mism ++ xs })

/-- The tile that an MMUL starts from: the kept one, the store's, or zeros (R334). -/
def State.startTile (s : State) (row0 : Nat) (zero : Bool) : List (List (BitVec 32)) :=
  if zero then List.replicate 64 (List.replicate 64 0)
  else
    match s.core.matrix.kept with
    | some k => if k.row0 = row0 then k.rows else (List.range 64).map fun i => s.accRow (row0 + i)
    | none => (List.range 64).map fun i => s.accRow (row0 + i)

/-- The rows of a product from the tile that it starts from. -/
def Product.tile (p : Product) (us : List Upset) (row0 rot : Nat) (c : List (List (BitVec 32))) :
    List (List (BitVec 32) × Bool × List Mism) :=
  c.mapIdx fun i old => p.row us i (row0 + i) rot old

/-- MMUL's result (R334 to R336). -/
def State.performMmul (s : State) (c : MCmd) (sp : Bool) : State :=
  match s.core.matrix.fmt with
  | none => s
  | some f =>
    let row0 := descRow0 c.desc
    let na := descTiles c.desc * if sp then prunedSize f.fa else tileSize f.fa (scalesFollow f.fa f.sma)
    let nb := descTiles c.desc * tileSize f.fb (scalesFollow f.fb f.smb)
    let p := tileProduct f sp (s.core.matrix.cba.getD []) (s.core.matrix.cbb.getD []) (descTiles c.desc)
      (s.unitRead (s.ownKey c.a) na) (s.unitRead (s.ownKey c.b) nb)
    let rs := p.tile s.core.matrix.upsets row0 0 (s.startTile row0 (descZero c.desc))
    let t := s.noteRows c rs
    if descKeep c.desc then
      t.modCore fun k => { k with matrix := { k.matrix with kept := some { row0, rows := rs.map (·.1) } } }
    else
      State.writeRows row0 (rs.map (·.1)) (t.modCore fun k => { k with matrix := { k.matrix with kept := none } })

/-- A loom's task (R353). -/
def State.performTask (s : State) (c : MCmd) (t : Task) : State :=
  let p := tileProduct t.fmt false (s.core.matrix.cba.getD []) (s.core.matrix.cbb.getD []) 1 t.warp.data t.weft.data
  let rs := p.tile s.core.matrix.upsets t.trow t.tcol (s.startTile t.trow t.zero)
  State.writeRows t.trow (rs.map (·.1)) (s.noteRows c rs)

/-- MSTREAM's rows `lo` to `hi` − 1 (R339). -/
def State.performMstream (s : State) (c : MCmd) (lo hi : Nat) : State :=
  match s.core.matrix.fmt, s.core.matrix.live with
  | some f, some w =>
    let n := descRows c.desc
    let row0 := descRow0 c.desc
    let p := lineProduct f (s.core.matrix.cba.getD []) n
      (s.unitRead (s.ownKey c.a) (lineBytes f.fa n (scalesFollow f.fa f.sma))) w
    let rs := ((List.range (hi - lo)).map (lo + ·)).map fun r =>
      p.row s.core.matrix.upsets r (row0 + r) 0 (if descZero c.desc then List.replicate 64 0 else s.accRow (row0 + r))
    State.writeRows (row0 + lo) (rs.map (·.1)) (s.noteRows c rs)
  | _, _ => s

/-- The words of a row of the scratchpad copy (R340). -/
def wordsOf (bs : List Byte) : List (BitVec 32) := (List.range 64).map fun j => BitVec.ofNat 32 (codeAt (natOfBytes bs) 32 j)

/-- ACRD's row `i` (R340). -/
def State.acrdRow (s : State) (c : MCmd) (i : Nat) : State :=
  s.pokeAs s.unitSource (s.sourceOf c.ctx) (s.ownKey c.a + 256 * i)
    (((s.accRow (descRow0 c.desc + i)).map fun w => bytesOfNat w.toNat 4).flatten)

/-- ACWR's row `i` (R340). -/
def State.acwrRow (s : State) (c : MCmd) (i : Nat) : State :=
  s.writeRow ((descRow0 c.desc + i) % 256) (wordsOf (s.unitRead (s.ownKey c.a + 256 * i) 256))

/-- MZERO.acc's row `i` (R340). -/
def State.zeroRow (s : State) (c : MCmd) (i : Nat) : State :=
  s.writeRow ((descRow0 c.desc + i) % 256) (List.replicate 64 0)

/-- MLOADS's tile fills the shadow (R337). -/
def State.fillShadow (s : State) (c : MCmd) : State :=
  match s.core.matrix.fmt with
  | none => s
  | some f =>
    let sc := scalesFollow f.fb f.smb
    let w : Plane := { addr := c.a, fmt := f.fb, scaled := sc, data := s.unitRead (s.ownKey c.a) (tileSize f.fb sc),
                       book := s.core.matrix.cbb.getD [] }
    s.modCore fun k => { k with matrix := { k.matrix with shadow := some w } }

/-- The steps that a command takes (R330). -/
def MCmd.stepCount (c : MCmd) : Nat :=
  match c.kind with
  | .mmul _ => descTiles c.desc
  | .mstream => (descRows c.desc + 63) / 64
  | .acrd => (descRows c.desc + 63) / 64
  | .acwr => (descRows c.desc + 63) / 64
  | .mzeroAcc => (descRows c.desc + 63) / 64
  | _ => 1

/-- The kept tile is drained before this command's step (R336). -/
def State.drainFor (s : State) (c : MCmd) : State :=
  match c.kind, s.core.matrix.kept with
  | .mloads, _ => s
  | .mmul _, some k => if k.row0 = descRow0 c.desc ∧ descZero c.desc = false then s else s.drainKept
  | .task _, _ => s.drainOutside
  | _, _ => s.drainKept

/-- What a step does. An MMUL's rows are formed in its last step, and the row commands take 64 rows at a time (R330). -/
def State.stepCommand (s : State) (c : MCmd) : State :=
  let lo := 64 * c.steps
  let hi := Nat.min (lo + 64) (descRows c.desc)
  let rows := (List.range (hi - lo)).map (lo + ·)
  match c.kind with
  | .mmul sp => if c.steps + 1 = descTiles c.desc then s.performMmul c sp else s
  | .task t => s.performTask c t
  | .mstream => s.performMstream c lo hi
  | .acrd => rows.foldl (fun u i => u.acrdRow c i) s
  | .acwr => rows.foldl (fun u i => u.acwrRow c i) s
  | .mzeroAcc => rows.foldl (fun u i => u.zeroRow c i) s
  | .mloads => s.fillShadow c
  | _ => s

/-- The accesses that the command waits for have been performed, and ACWR's source lies below the watermarks (R249, R331,
R340). -/
def State.commandReady (s : State) (c : MCmd) : Bool :=
  !(s.accs.any fun u => decide (u.seq ∈ c.after))
    && (match c.kind with | .acwr => !s.gated (s.ownKey c.a) (256 * descRows c.desc) | _ => true)

/-- The head of the queue waits. -/
def State.holdHead (s : State) : State := s.setHead fun c => { c with held := true }

/-- A command that has not started keeps back: while the core is being evicted, to be reissued; when its job is to be ABORTED, to be
discarded; and until a restored core has the stationary pair again (R153, R345). -/
def State.keepsBack (s : State) (c : MCmd) : Bool :=
  (s.job.evicted || s.job.stopping || s.core.matrix.retake) && !c.finished && decide (c.steps = 0)

/-- ARBITER_STEP (R330): a step of the command at the head of the core's queue. A started command of a job that is to be ABORTED stops at
its next step (R345). -/
def execArbiterStep (s : State) : Outcome :=
  .next (match s.core.matrix.queue with
    | [] => s
    | c :: _ =>
      if c.finished || c.kind.stepless || decide (c.kind = .mswap) || (decide (c.kind = .mloads) && !s.core.matrix.own)
        || s.keepsBack c || s.job.stopping then s
      else if s.commandReady c = false then s.holdHead
      else
        let t := ((s.count 6).drainFor c).stepCommand c
        let last := decide (c.stepCount ≤ c.steps + 1)
        (t.setHead fun h => { h with steps := c.steps + 1, finished := last }).post
          (if last then .matrixCommandComplete else .arbiterStep))

/-- A plane filled again from its recorded address (R345). -/
def State.refill (s : State) (p : Plane) : Plane := { p with data := s.unitRead (s.ownKey p.addr) (tileSize p.fmt p.scaled) }

/-- The core owns the stationary pair again: its planes are refilled, and its commands go on (R345). -/
def State.retaken (s : State) : State :=
  let t := s.modCore fun k =>
    { k with matrix := { k.matrix with own := true, retake := false, live := k.matrix.live.map s.refill,
                                       shadow := k.matrix.shadow.map s.refill } }
  { t with agenda := t.agenda ++ t.core.matrix.next }

/-- STATIONARY_PAIR_GRANT (R337): the unit gives the pair to this core when its MLOADS is at the head of the queue, or when it has been
restored (R345), once no other core owns it. -/
def execStationaryPairGrant (s : State) : Outcome :=
  .next (if s.core.matrix.otherOwner then s
    else if s.core.matrix.retake then s.retaken
    else match s.core.matrix.queue with
    | [] => s
    | c :: _ =>
      if c.kind = .mloads ∧ s.core.matrix.own = false ∧ s.keepsBack c = false then
        (s.modCore fun k => { k with matrix := { k.matrix with own := true } }).post .arbiterStep
      else s)

/-- MSWAP_TAKES_EFFECT (R338): every earlier command has completed, so no row on the old plane is in the array. -/
def execMswapTakesEffect (s : State) : Outcome :=
  .next (match s.core.matrix.queue with
    | [] => s
    | c :: _ =>
      if c.kind = .mswap ∧ c.finished = false ∧ s.keepsBack c = false then
        ((s.modCore fun k => { k with matrix := { k.matrix with live := k.matrix.shadow, shadow := none } }).setHead fun h =>
          { h with finished := true }).post .matrixCommandComplete
      else s)

/-- The pair is released and both planes are cleared (R337). -/
def Matrix.release (m : Matrix) : Matrix := { m with own := false, shadow := none, live := none }

/-- What a command without a step does in queue order (R330, R332, R333, R337, R341). -/
def State.takeEffect (s : State) (c : MCmd) : State :=
  match c.kind with
  | .mctx w => s.modCore fun k => { k with matrix := { k.matrix with fmt := fmtOfWord w } }
  | .mcbk isB =>
    let b := bookOf (s.unitRead (s.ownKey c.a) 32)
    s.modCore fun k => { k with matrix := if isB then { k.matrix with cbb := some b } else { k.matrix with cba := some b } }
  | .mzeroSt => s.modCore fun k => { k with matrix := k.matrix.release }
  | .mflag true => s.modCore fun k => { k with matrix := { k.matrix with iovf := false } }
  | _ => s

/-- The result of a command (R341, R342): the known-answer mask is a free value (log 20); an injected one-bit error is always
detected (R105, R106). -/
def State.commandResult (s : State) (c : MCmd) : Word :=
  match c.kind with
  | .mflag _ => boolWord s.core.matrix.iovf
  | .mchkKat => Config.katMask s.core.matrix.katRuns
  | .mchkInj => 1
  | _ => 0

/-- A nonzero known-answer result is logged (R342, R433). -/
def State.noteKat (s : State) (c : MCmd) : State :=
  match c.kind with
  | .mchkKat =>
    let m := Config.katMask s.core.matrix.katRuns
    let t := s.modCore fun k => { k with matrix := { k.matrix with katRuns := k.matrix.katRuns + 1 } }
    if m = 0 then t
    else t.logEntry true 9 0 (s.sourceOf c.ctx) (BitVec.ofNat 32 (3072 + s.core.num.toNat / 8)) m
  | _ => s

/-- The mismatch that is reported: the lowest block, group, row and column (R344). -/
def reported : List Mism → Option Mism
  | [] => none
  | x :: xs =>
    match reported xs with
    | none => some x
    | some y =>
      let key (m : Mism) : Nat := ((m.block * 8 + m.group) * 4096 + m.row) * 64 + m.col
      some (if key x ≤ key y then x else y)

/-- The residue fault of a command is raised once (R344). -/
def State.raiseResidue (s : State) (c : MCmd) : State :=
  match reported c.mism with
  | none => s
  | some x =>
    s.post (.matrixResidueFault c.ctx (s.residueDetail x (decide (1 < c.mism.length))) c.iaddr (s.blockAddr c x.block))

/-- A command leaves the queue: its result arrives, its bell rings, its fault is raised, and a loom's task counts down (R326,
R328, R344, R358). -/
def State.leave (s : State) (c : MCmd) : State :=
  let t := s.modCore fun k => { k with matrix := { k.matrix with queue := k.matrix.queue.drop 1 } }
  let t := match c.result with
    | some n => t.formWrite c.ctx n ((s.commandResult c).setWidth 512)
    | none => t
  let t := if descBell c.desc then t.post (.pulse (128 + BitVec.ofNat 8 (s.position / 8))) else t
  let t := t.raiseResidue c
  match c.kind with
  | .task _ => t.modCore fun k => { k with loom := { k.loom with out := k.loom.out - 1 } }
  | _ => t

/-- What follows a completion: a latched task may enter, a weave whose tasks are done may end, and the next command goes on
(R326, R352, R356). -/
def State.matrixGoesOn (s : State) : State :=
  let l := s.core.loom
  { s with agenda := s.agenda ++ (if l.latched.isEmpty then [] else [.latchedTask])
      ++ (match l.ends with | some others => if l.out = 0 then [.weaveEnd others] else [] | none => [])
      ++ s.core.matrix.next }

/-- MATRIX_COMMAND_COMPLETE (R326): the command at the head, done, leaves the queue; one without a step takes its effect. -/
def execMatrixCommandComplete (s : State) : Outcome :=
  .next (match s.core.matrix.queue with
    | [] => s
    | c :: _ =>
      if !(c.finished || c.kind.stepless) || s.keepsBack c then s
      else if s.commandReady c = false then s.holdHead
      else ((s.leave c).takeEffect c |>.noteKat c).matrixGoesOn)

/-- MATRIX_RESIDUE_FAULT (R344): raised at the context's next instruction boundary, NEXT = 1. -/
def execMatrixResidueFault (ctx : Fin 11) (detail : BitVec 32) (iaddr caddr : Word) (s : State) : Outcome :=
  .next (s.modCtxAt ctx fun c =>
    { c with deferred := c.deferred ++ [{ cause := 0x0D, detail, tag := none, fetch := false, next := true, ret := 0, iaddr, caddr, log := false }] })

end Sys2Proof.Machine
end

