-- ==== Sys2Proof/Machine/Loom.lean ====
section
/-! DEFINITION. Looms (R347 to R360): joining and leaving, drafts, injected tiles, picks and their tasks, the re-pick pass, and the
weave's end. The other cores of the loom are outside: what they do comes as events and as plain data (log 34). -/

namespace Sys2Proof.Machine

/-- The core's loom state changed by `f`. -/
def State.modLoom (s : State) (f : Loom → Loom) : State := s.modCore fun k => { k with loom := f k.loom }

/-- Cores of a loom, by SZ (R358). -/
def loomSize (sz : BitVec 2) : Nat := 2 ^ (sz.toNat + 2)

/-- B = N/2 (R352). -/
def Loom.last (l : Loom) : Nat := loomSize l.size / 2

/-! ## Joining and leaving (R348, R349) -/

/-- The ranges of a clash form no loom any more, and nobody waits in one (R348). -/
def State.noteLoomClash (s : State) (rs : List (Nat × Nat)) : State :=
  { s with clu := { s.clu with loomClash := (s.clu.loomClash ++ rs).dedup, loomWait := outsideClash s.clu.loomWait rs } }

/-- The core leaves its loom; of a broken one nobody counts as armed any more (R349, R357). -/
def State.leaveLoom (s : State) : State :=
  { s.modLoom (fun _ => Loom.reset) with
    clu := { s.clu with loomArmed := s.clu.loomArmed.filter fun x => !decide (x.pos ∈ s.loomOthers) } }

/-- LMJOIN (R348): codes 1, 2 and 3 name 8, 16 and 32 cores. -/
def execLmjoin (sw : Bool) (a : BitVec 5) (n : BitVec 2) (s : State) : Outcome :=
  .next (s.issue [.x a] [] fun s =>
    let size := loomSize n
    let others := rangeOthers s.position size
    let area := s.readX a
    if s.cur ≠ 0 ∨ s.core.loom.size ≠ 0 ∨ s.job.redun then s.illegal
    else if s.job.superstep then s.phaseViolation
    else if others.any fun p => !decide (s.clusterCore p ∈ s.job.cores) then s.resource 2
    else if !(s.job.claims.any fun c => decide (c.kind = .loom) && decide (c.off = area.toNat) && decide (c.bytes = 65536)) then
      s.resource 3
    else if rangeClashes s.clu.loomClash s.clu.loomWait s.clu.ended s.position size s.cycle then
      (s.noteLoomClash (clashOf s.clu.loomWait s.position size s.cycle)).illegal
    else if peersWait s.clu.loomWait others size s.cycle then
      let t := (s.modLoom fun _ =>
        { Loom.reset with size := n, lpos := s.position % size, area := BitVec.ofNat 19 area.toNat }).retire sw 4
      { t with clu := { t.clu with loomWait := t.clu.loomWait.filter fun x => !(decide (x.pos ∈ others) && decide (x.since ≤ s.cycle)) } }
    else s.block .other 0 0)

/-- A weave is armed by some core of the loom, or in progress (R349, R357). -/
def State.weaving (s : State) : Bool :=
  s.core.loom.running || s.core.loom.armed || s.loomOthers.any fun p => s.peerBy s.clu.loomArmed p

/-- LMJOIN #0 (R349, R357). -/
def execLmjoinLeave (sw : Bool) (s : State) : Outcome :=
  .next (s.issue [] [] fun s =>
    if s.cur ≠ 0 then s.illegal
    else if s.core.loom.size = 0 then s.retire sw 4
    else if s.loomBroken = false ∧ s.weaving then s.illegal
    else s.leaveLoom.retire sw 4)

/-! ## Drafts and tiles (R350, R351) -/

/-- An entry of a draft block (R351). -/
def draftEntry (bs : List Byte) : DraftEntry :=
  let n := natOfBytes bs
  { warp := BitVec.ofNat 16 (natBits n 15 0), weft := BitVec.ofNat 16 (natBits n 31 16), trow := BitVec.ofNat 11 (natBits n 42 32),
    tcol := BitVec.ofNat 6 (natBits n 53 48), ctx := BitVec.ofNat 2 (natBits n 57 56), valid := n.testBit 64, zero := n.testBit 65,
    fired := false, mismatched := false }

/-- An entry in use has a reserved bit set (R351). -/
def badEntry (bs : List Byte) : Bool :=
  let n := natOfBytes bs
  n.testBit 64 && (decide (natBits n 47 43 ≠ 0) || decide (natBits n 55 54 ≠ 0) || decide (natBits n 63 58 ≠ 0)
    || decide (natBits n 127 66 ≠ 0))

/-- The four format words of a draft block, unless MCTX would refuse one (R351). -/
def draftFormats (bs : List Byte) : Option (List Fmt) :=
  ((List.range 4).map fun i => fmtOfWord (bitsOfBytes 64 ((bs.drop (8 * i)).take 8))).foldr (fun o l =>
    match o, l with
    | some f, some fs => some (f :: fs)
    | _, _ => none) (some [])

/-- The 64 entries of a draft block, as bytes. -/
def draftBlocks (bs : List Byte) : List (List Byte) := (List.range 64).map fun i => (bs.drop (32 + 16 * i)).take 16

/-- A loom instruction of a core that is in a whole loom (R347, R357). -/
def State.inLoom (s : State) (k : State → State) : State :=
  if s.core.loom.size = 0 ∨ s.loomBroken then s.illegal else k s

/-- The issuing context's accesses to its own scratchpad are performed first (R350, R351). -/
def State.afterOwn (s : State) (k : State → State) : State :=
  s.whenDone (fun a => decide (a.ctx = s.cur) && s.within .core a.key) 0 k

/-- The draft that a block gives is taken, unless it breaks R351. -/
def State.takeDraft (s : State) (sw : Bool) (bs : List Byte) : State :=
  match draftFormats bs with
  | none => s.illegal
  | some fmts =>
    if (draftBlocks bs).any badEntry then s.illegal
    else
      let es := (draftBlocks bs).map draftEntry
      match (es.filter (·.valid)).filterMap fun e => s.rowsOutside e.trow.toNat 64 with
      | r :: _ => s.trapHere 0x0C (BitVec.ofNat 32 r) 0
      | [] => (s.modLoom fun l => { l with draft := some { fmts, entries := es } }).retireAfter sw 4 24

/-- DRAFT (R351, R360). -/
def execDraft (sw : Bool) (a : BitVec 5) (s : State) : Outcome :=
  .next (s.issue [.x a] [] fun s => s.inLoom fun s =>
    if s.core.loom.armed ∨ s.core.loom.running then s.illegal
    else
      s.spanCheck (s.readX a) 1056 64 fun s => s.afterOwn fun s =>
        s.takeDraft sw (s.unitRead (s.ownKey (s.readX a)) 1056))

/-- A type code that a tile may have (R350): 0 and 9 to 17. -/
def tileFmt (c : Nat) : Option Ty := if c = 0 ∨ 9 ≤ c then Ty.ofCode (BitVec.ofNat 5 c) else none

/-- The remote-scratchpad form of an address in the own scratchpad (R245, R350). -/
def State.remoteForm (s : State) (a : Word) : Word :=
  BitVec.ofNat 64 (2 ^ 63 + s.core.num.toNat * 2 ^ 44 + a.toNat % 0x80000)

/-- A tile's header, unless it breaks R350. -/
def State.tileHeader (s : State) (a : Word) (family : Bool) (bs : List Byte) : Option Tile :=
  let n := natOfBytes bs
  match tileFmt (natBits n 52 48) with
  | none => none
  | some t =>
    if n.testBit 32 ≠ family ∨ natBits n 47 33 ≠ 0 ∨ natBits n 127 54 ≠ 0 ∨ (n.testBit 53 ∧ carriesScales t = false) then none
    else
      some { id := BitVec.ofNat 16 (natBits n 15 0), kidx := BitVec.ofNat 16 (natBits n 31 16), fmt := t, sc := n.testBit 53,
             budget := 0, src := s.remoteForm a, data := [] }

/-- The tile with its data read at its source (R350, R355), and all its picks to move. -/
def State.readTile (s : State) (t : Tile) : Tile :=
  { t with budget := s.core.loom.last,
           data := s.unitRead (scratchKey s.core.num.toNat (t.src.toNat % 0x80000 + 64)) (tileSize t.fmt t.sc) }

/-- A tile to inject, checked (R350). -/
def State.injection (s : State) (a : Word) (family : Bool) (k : Tile → State → State) : State :=
  s.spanCheck a 64 64 fun s => s.afterOwn fun s =>
    match s.tileHeader a family (s.unitRead (s.ownKey a) 16) with
    | none => s.illegal
    | some t => s.spanCheck a (64 + tileSize t.fmt t.sc) 64 (k t)

/-- WARP (R350). -/
def execWarp (sw : Bool) (a : BitVec 5) (s : State) : Outcome :=
  .next (s.issue [.x a] [] fun s => s.inLoom fun s =>
    if s.core.loom.armed ∨ s.core.loom.running ∨ s.core.loom.injWarp.isSome then s.illegal
    else
      s.injection (s.readX a) false fun t s =>
        (s.modLoom fun l => { l with injWarp := some t, warps := l.warps ++ [(l.lpos, t.id, t.src)] }).retire sw 4)

/-- WEFT (R350). -/
def execWeft (sw : Bool) (a : BitVec 5) (s : State) : Outcome :=
  .next (s.issue [.x a] [] fun s => s.inLoom fun s =>
    if s.core.loom.armed ∨ s.core.loom.running ∨ s.core.loom.injWeft.isSome then s.illegal
    else s.injection (s.readX a) true fun t s => (s.modLoom fun l => { l with injWeft := some t }).retire sw 4)

/-! ## Arming and status (R354, R357, R358) -/

/-- The entries of the draft. -/
def Loom.entries (l : Loom) : List DraftEntry := match l.draft with | some d => d.entries | none => []

/-- The format words of the draft. -/
def Loom.formats (l : Loom) : List Fmt := match l.draft with | some d => d.fmts | none => []

/-- Entries with V = 1. -/
def Loom.valid (l : Loom) : Nat := l.entries.countP (·.valid)

/-- The draft's entries changed by `f`. -/
def Loom.mapEntries (l : Loom) (f : DraftEntry → DraftEntry) : Loom :=
  { l with draft := l.draft.map fun d => { d with entries := d.entries.map f } }

/-- LMGO's first check (R354). -/
def Loom.badGo (l : Loom) (x : Word) : Bool :=
  decide (x &&& ~~~0x17F#64 ≠ 0) || l.armed || l.running || l.draft.isNone || decide (natBits x.toNat 6 0 ≠ l.valid)
    || (x.getLsbD 8 && decide (l.lpos ≠ 0))

/-- LMGO (R354). -/
def execLmgo (sw : Bool) (a : BitVec 5) (s : State) : Outcome :=
  .next (s.issue [.x a] [] fun s =>
    if s.cur ≠ 0 then s.illegal
    else
      s.inLoom fun s =>
        let x := s.readX a
        let l := s.core.loom
        let m := s.core.matrix
        if l.badGo x then s.illegal
        else if natBits x.toNat 6 0 ≠ 0 ∧ m.weight = 0 then s.resource 8
        else if l.formats.any fun f => noBook f.fa m.cbaIssued || noBook f.fb m.cbbIssued then s.illegal
        else
          (s.modLoom fun l =>
            { (l.mapEntries fun e => { e with fired := false, mismatched := false }) with
              out := 0, exp := natBits x.toNat 6 0, armed := true, armedAt := s.cycle, lmgoAt := s.pc, bell := x.getLsbD 8 }).retire
            sw 4)

/-- Context 0's MISSED trap, found while it waits in LMWAIT (R356). -/
def State.missedHere (s : State) : Option TrapInfo :=
  if s.ctx.wait.isSome then s.ctx.deferred.find? fun t => decide (t.cause = 0x0E) else none

/-- LMWAIT (R356, R357). MISSED is precise there: TRAPREC1 holds its address, and TRAPREC2 that of the LMGO (log 119). A context
that waits when the core leaves its broken loom through another context gets 2 as well. -/
def execLmwait (sw : Bool) (d : BitVec 5) (s : State) : Outcome :=
  .next (s.issue [] [.x d] fun s =>
    if s.core.loom.size = 0 ∧ s.ctx.wait.isNone then s.illegal
    else if s.core.loom.size = 0 ∨ s.loomBroken then
      (s.leaveLoom.writeLater (.x d) 2 0).retire sw 4
    else if s.weaving then s.block .other 0 0
    else
      match s.missedHere with
      | some t =>
        (s.modCtx fun c => { c with deferred := c.deferred.erase t }).raise { t with next := false, ret := s.pc }
      | none => (s.writeLater (.x d) (if s.core.loom.ms then 1 else 0) 0).retire sw 4)

/-- What LMSTAT reads (R358). -/
def State.lmstat (s : State) : Word :=
  let l := s.core.loom
  let broken := s.loomBroken
  if l.size = 0 then 0
  else
    BitVec.ofNat 64 (2 ^ 63 + l.size.toNat * 2 ^ 61 + bitAt (!broken && (l.running || l.armed)) 60 + bitAt l.rp 59 + bitAt l.ms 58
      + l.lpos * 2 ^ 53 + l.pick * 2 ^ 48 + bitAt broken 47 + l.out * 2 ^ 32 + l.exp * 2 ^ 16 + l.valid)

/-- LMSTAT (R358). -/
def execLmstat (sw : Bool) (d : BitVec 5) (s : State) : Outcome :=
  .next (s.issue [] [.x d] fun s => (s.writeX d s.lmstat 2).retire sw 4)

/-! ## Picks (R352, R353) -/

/-- A pass begins: pick 0 holds the tiles injected here, read at their sources (R350, R352, R355). -/
def State.startPass (s : State) (rp : Bool) (w f : Option Tile) : State :=
  s.modLoom fun l =>
    { l with running := true, rp, passEnd := false, pick := 0, curWarp := w.map s.readTile, curWeft := f.map s.readTile,
             wake := none }

/-- WEAVE_START (R352, R354): every core of the loom has armed. -/
def execWeaveStart (s : State) : Outcome :=
  .next (if s.loomArmed then s.startPass false s.core.loom.injWarp s.core.loom.injWeft else s)

/-- The tiles have the formats, and the scales, of the entry's format word (R352). -/
def fitsFormat (f : Fmt) (x y : Tile) : Bool :=
  decide (x.fmt = f.fa) && decide (y.fmt = f.fb) && decide (x.sc = scalesFollow f.fa f.sma) && decide (y.sc = scalesFollow f.fb f.smb)

/-- `fire` of R352 from entry `i` on: the entries marked, and the tasks created. -/
def fireEntries (fmts : List Fmt) (x y : Tile) : Nat → List DraftEntry → List DraftEntry × List Task
  | _, [] => ([], [])
  | i, e :: es =>
    let r := fireEntries fmts x y (i + 1) es
    if e.valid ∧ e.fired = false ∧ x.id = e.warp ∧ y.id = e.weft then
      match fmts.drop e.ctx.toNat with
      | f :: _ =>
        if fitsFormat f x y then
          ({ e with fired := true } :: r.1,
            { entry := i, trow := e.trow.toNat, tcol := e.tcol.toNat, fmt := f, zero := e.zero, warp := x, weft := y } :: r.2)
        else ({ e with mismatched := true } :: r.1, r.2)
      | [] => (e :: r.1, r.2)
    else (e :: r.1, r.2)

/-- A task as a command of the core's queue (R353, R356). -/
def State.taskCommand (s : State) (t : Task) : MCmd :=
  { kind := .task t, ctx := 0, desc := BitVec.ofNat 64 (t.trow + bitAt t.zero 33), a := t.warp.src, b := t.weft.src, steps := 0,
    finished := false, iaddr := s.core.loom.lmgoAt, result := none, after := [], held := false, mism := [] }

/-- A task enters the command queue, or is latched while the queue is full (R352). -/
def State.dispatchTask (s : State) (t : Task) : State :=
  if s.queueFull then s.modLoom fun l => { l with latched := l.latched ++ [t] } else s.join (s.taskCommand t)

/-- A pair is compared with the draft; its tasks are dispatched in creation order (R352). -/
def State.firePair (s : State) (x y : Option Tile) : State :=
  match x, y, s.core.loom.draft with
  | some x, some y, some d =>
    let r := fireEntries d.fmts x y 0 d.entries
    r.2.foldl State.dispatchTask (s.modLoom fun l =>
      { l with draft := some { d with entries := r.1 }, exp := l.exp - r.2.length, out := l.out + r.2.length })
  | _, _, _ => s

/-- A tile received for pick `p` (R352). -/
def received (last p : Nat) (t : Tile) : Tile := { t with budget := last - p }

/-- PICK (R352): the pairs of the pick are compared, and the next pick's tiles come in; after pick B the pass ends. An evicted
core goes on after its restore (R359). -/
def execPick (inWarp inWeft : Option Tile) (s : State) : Outcome :=
  let l := s.core.loom
  .next (if l.running = false ∨ l.passEnd then s
    else
      let t := s.count 8
      let t := if l.pick < l.last then t.firePair l.curWarp l.curWeft else t
      let t := if 1 ≤ l.pick then t.firePair l.curWarp l.wake else t
      t.modLoom fun k =>
        if l.pick < l.last then
          { k with pick := l.pick + 1, curWarp := inWarp.map (received l.last (l.pick + 1)),
                   curWeft := inWeft.map (received l.last (l.pick + 1)), wake := l.curWeft }
        else { k with passEnd := true, curWarp := none, curWeft := none, wake := none })

/-- LATCHED_TASK (R352): the oldest latched task enters the queue once it has room. -/
def execLatchedTask (s : State) : Outcome :=
  .next (match s.core.loom.latched with
    | [] => s
    | t :: ts =>
      if 16 ≤ s.core.matrix.queue.length then s
      else
        let u := (s.modLoom fun l => { l with latched := ts }).join (s.taskCommand t)
        if ts.isEmpty then u else u.post .latchedTask)

/-- An unfired entry of this core names the tile (R355). -/
def Loom.wants (l : Loom) (warp : Bool) (id : BitVec 16) : Bool :=
  l.entries.any fun e => e.valid && !e.fired && decide ((if warp then e.warp else e.weft) = id)

/-- RE_PICK_PASS (R355): the tiles injected here that an unfired entry names, of this core or (`inWarp`, `inWeft`) of another, are
read again. -/
def execRePickPass (inWarp inWeft : Option Tile) (s : State) : Outcome :=
  let l := s.core.loom
  .next (if l.running = false ∨ l.passEnd = false ∨ l.rp then s
    else
      let keep (warp : Bool) (other : Option Tile) (t : Option Tile) : Option Tile :=
        t.filter fun x => other.isSome || l.wants warp x.id
      s.startPass true (keep true inWarp l.injWarp) (keep false inWeft l.injWeft))

/-! ## The weave's end (R356) -/

/-- The first unfired entry of a list, with its index. -/
def firstUnfired : Nat → List DraftEntry → Option (Nat × DraftEntry)
  | _, [] => none
  | i, e :: es => if e.valid ∧ e.fired = false then some (i, e) else firstUnfired (i + 1) es

/-- The SRC of the lowest-positioned warp that carried an ID, or 0 (R356). -/
def Loom.srcOf (l : Loom) (id : BitVec 16) : Word :=
  match (l.warps.filter fun w => decide (w.2.1 = id)).insertionSort fun a b => a.1 ≤ b.1 with
  | w :: _ => w.2.2
  | [] => 0

/-- DETAIL of the MISSED trap (R356). -/
def missedDetail (entry lpos : Nat) (mismatched more : Bool) : BitVec 32 :=
  BitVec.ofNat 32 (entry + lpos * 2 ^ 8 + bitAt mismatched 16 + bitAt more 17)

/-- Every unfired entry of this core is logged (R356, R433). -/
def State.logMissed : Nat → List DraftEntry → State → State
  | _, [], s => s
  | i, e :: es, s =>
    State.logMissed (i + 1) es
      (if e.valid ∧ e.fired = false then
        s.logEntry true 4 0x0E s.unitSource (missedDetail i s.core.loom.lpos e.mismatched false) (s.core.loom.srcOf e.warp)
      else s)

/-- What the MISSED trap reports: the unfired entry at the lowest loom position, of this core or another. -/
def Loom.missed (l : Loom) (others : Option MissedAt) : Option (BitVec 32 × Word) :=
  let n := l.entries.countP fun e => e.valid && !e.fired
  match firstUnfired 0 l.entries, others with
  | none, none => none
  | none, some o => some (missedDetail o.entry.toNat o.lpos.toNat o.mismatched o.more, o.src)
  | some (i, e), none => some (missedDetail i l.lpos e.mismatched (decide (1 < n)), l.srcOf e.warp)
  | some (i, e), some o =>
    if o.lpos.toNat < l.lpos then some (missedDetail o.entry.toNat o.lpos.toNat o.mismatched true, o.src)
    else some (missedDetail i l.lpos e.mismatched true, l.srcOf e.warp)

/-- The core's loom once the weave has ended: unfired entries are dropped, and nothing is armed or injected (R350, R356). -/
def Loom.ended (l : Loom) (ms : Bool) : Loom :=
  { l.mapEntries fun e => { e with valid := e.valid && e.fired } with
    running := false, armed := false, rp := false, passEnd := false, ends := none, ms, exp := if ms then 0 else l.exp,
    injWarp := none, injWeft := none, warps := [], bell := false }

/-- The MISSED trap waits for context 0's next boundary, with the address of its LMGO (R356). -/
def State.raiseMissed (s : State) (m : BitVec 32 × Word) : State :=
  s.modCtxAt 0 fun c =>
    { c with deferred := c.deferred ++ [{ cause := 0x0E, detail := m.1, tag := none, fetch := false, next := true, ret := 0,
                                          iaddr := s.core.loom.lmgoAt, caddr := m.2, log := false }] }

/-- WEAVE_END (R356): the last pass has ended and every core has OUT = 0; `others` is what the other cores have missed. While tasks
of this core are not complete, it waits; and a first pass that leaves an entry unfired is not the last (R355). -/
def execWeaveEnd (others : Option MissedAt) (s : State) : Outcome :=
  let l := s.core.loom
  .next (if l.running = false ∨ l.passEnd = false ∨ (l.rp = false ∧ (l.missed others).isSome) then s
    else if l.out ≠ 0 then s.modLoom fun l => { l with ends := some others }
    else
      let m := l.missed others
      let t := State.logMissed 0 l.entries s
      let t := if l.lpos = 0 ∧ l.bell then t.post (.pulse (132 + BitVec.ofNat 8 (s.position / 8))) else t
      let t := match m with
        | some m => if l.lpos = 0 then t.raiseMissed m else t
        | none => t
      { t.modLoom (fun l => l.ended m.isSome) with clu := { t.clu with loomArmed := [] } })

end Sys2Proof.Machine
end

