-- ==== Sys2Proof/Machine/Pigeonhole.lean ====
section
/-! DEFINITION. The pigeonholes (R364 to R379), and SPKINS, which inserts into one (R294). A table is its buckets' bytes. -/

namespace Sys2Proof.Machine

/-! ## Buckets (R365, R368, R370) -/

/-- The reserved key, which an unused slot holds (R365, R369). -/
def reservedKey : Word := allOnes64

/-- A bucket's entries in slot order, and SPILLED. -/
structure Bucket where
  items : List (Word × Word)
  spilled : Nat
  deriving DecidableEq, Repr

/-- The bytes of a bucket (R365). -/
def Bucket.bytes (u : Bucket) (spl : Bool) : List Byte :=
  bytesOfNat u.items.length 1 ++ bytesOfNat u.spilled 1 ++ bytesOfNat (bitAt spl 0) 1 ++ List.replicate 13 0
    ++ (List.range 7).flatMap fun i =>
      let e := u.items.getD i (reservedKey, 0)
      bytesOfNat e.1.toNat 8 ++ bytesOfNat e.2.toNat 8

/-- A bucket read from its bytes. -/
def bucketOf (bs : List Byte) : Bucket :=
  { items := (List.range (Nat.min (fieldAt bs 0 1) 7)).map fun i =>
      (BitVec.ofNat 64 (fieldAt bs (16 + 16 * i) 8), BitVec.ofNat 64 (fieldAt bs (24 + 16 * i) 8)),
    spilled := fieldAt bs 1 1 }

/-- An empty bucket. -/
def Bucket.empty : Bucket := { items := [], spilled := 0 }

/-- The hash of a key (R368). -/
def phHash (k : Word) : Word :=
  let h := k * 0x9E3779B97F4A7C15#64
  h ^^^ (h >>> 31)

/-- The home bucket of a key (R368). -/
def PhTable.home (t : PhTable) (k : Word) : Nat := (phHash k).toNat / 2 ^ (64 - t.b)

/-- The spill bucket of a home bucket (R368). -/
def PhTable.spillOf (t : PhTable) (j : Nat) : Nat := j % 2 ^ t.c

/-- The address of a spill bucket. -/
def PhTable.spillAddr (t : PhTable) (i : Nat) : Word := t.spill + BitVec.ofNat 64 (128 * i)

/-- Entries in ascending key order, keys being unsigned (R370). -/
def sortKeys (l : List (Word × Word)) : List (Word × Word) := l.insertionSort fun a b => a.1.toNat ≤ b.1.toNat

/-! ## Operations on one key (R372) -/

/-- What an operation does to a key. -/
inductive PhOp where
  | ins (w : Word)
  | del
  | prb
  | acc (op : PhAcc) (w : Word)
  deriving DecidableEq, Repr

/-- Half `h` of a value pair of .add.f32. -/
def halfSum (a b : Word) (h : Nat) : Nat :=
  fmtF32.round ((fmtF32.value (codeAt a.toNat 32 h)).add (fmtF32.value (codeAt b.toNat 32 h)))

/-- `combine` of R372. -/
def phCombine (op : PhAcc) (old w : Word) : Word :=
  match op with
  | .addS64 => old + w
  | .addF32 => BitVec.ofNat 64 (halfSum old w 0 + halfSum old w 1 * 2 ^ 32)
  | .minS64 => if old.toInt ≤ w.toInt then old else w
  | .minZ64 => if old.toNat ≤ w.toNat then old else w
  | .maxS64 => if w.toInt ≤ old.toInt then old else w
  | .maxZ64 => if w.toNat ≤ old.toNat then old else w
  | .orZ64 => old ||| w

/-- The value that an operation leaves for a key, `none` for none (R372). -/
def PhOp.result (o : PhOp) (old : Option Word) : Option Word :=
  match o, old with
  | .ins w, _ => some w
  | .del, _ => none
  | .prb, v => v
  | .acc op w, some v => some (phCombine op v w)
  | .acc _ w, none => some w

/-- The value of a key in a list of entries. -/
def findKey (l : List (Word × Word)) (k : Word) : Option Word := (l.find? fun e => decide (e.1 = k)).map (·.2)

/-- The entries with a key's value replaced, added or removed. -/
def setKey (l : List (Word × Word)) (k : Word) (v : Option Word) : List (Word × Word) :=
  let rest := l.filter fun e => decide (e.1 ≠ k)
  match v with
  | some v => sortKeys ((k, v) :: rest)
  | none => sortKeys rest

/-- An active table and the core whose unit keeps it. -/
structure PhPlace where
  owner : BitVec 12
  table : PhTable
  deriving DecidableEq, Repr

/-- The home key of a home bucket. -/
def PhPlace.homeKey (p : PhPlace) (j : Nat) : Nat := scratchKey p.owner.toNat (p.table.base + 128 * j)

/-- SOURCE of the unit that keeps a table (R433). -/
def PhPlace.source (p : PhPlace) : Nat := p.owner.toNat + 15 * 2 ^ 12

/-- The state acting for the core numbered `n`, whose unit makes the access (R376). -/
def State.asCore (s : State) (n : BitVec 12) : State := s.modCore fun c => { c with num := n }

/-- A spill access, which is no load or store of a context. -/
def Access.spill (write : Bool) : Access := { (if write then Access.store else Access.load) with phased := false }

/-- A check of the unit that keeps a table: another core's has its own micro-TLB (R204), which is taken to hold nothing (log 34). -/
def State.unitCheck (s : State) (p : PhPlace) (write : Bool) (a : Word) : State × Except AccessFault Place × Nat :=
  if p.owner = s.core.num then s.check (.spill write) a 128 128 s.exchange
  else
    match ({ s with micro := [] }.asCore p.owner).check (.spill write) a 128 128 s.exchange with
    | (t, r, h) => ({ t with micro := s.micro }.asCore s.core.num, r, h)

/-- A spill bucket's place, and the cycles that its access adds (R371, R376, R379): refused in a superstep's compute phase, else checked
under R196; the address named is the bucket's. -/
def State.spillAccess (s : State) (p : PhPlace) (i : Nat) (write : Bool) : State × Except AccessFault Nat × Nat :=
  let a := p.table.spillAddr i
  let s := if p.owner = s.core.num then s.count 10 else s
  if s.computePhase then (s, .error { cause := 0x07, detail := 0, addr := a }, 0)
  else
    match s.unitCheck p write a with
    | (t, .error f, h) => (t, .error { f with addr := a }, h)
    | (t, .ok q, h) => (t, .ok q.key, h + t.loadTime q.key)

/-- A key's home bucket, and its spill bucket where that is read (R370, R371). -/
structure PhView where
  home : Bucket
  spill : Option (Nat × Bucket)
  deriving DecidableEq, Repr

/-- The spill bucket must be read: a key not found at home may be spilled, or needs a place there, and a key that leaves
the home bucket makes room for a spilled one (R370). -/
def needsSpill (u : Bucket) (k : Word) (o : PhOp) : Bool :=
  match findKey u.items k, o with
  | some _, .del => decide (0 < u.spilled)
  | some _, _ => false
  | none, .ins _ => decide (7 ≤ u.items.length)
  | none, .acc _ _ => decide (7 ≤ u.items.length)
  | none, _ => decide (0 < u.spilled)

/-- The buckets that an operation on a key reads, and the cycles that this adds. -/
def State.phView (s : State) (p : PhPlace) (k : Word) (o : PhOp) : State × Except AccessFault PhView × Nat :=
  let j := p.table.home k
  let home := bucketOf (s.peek (p.homeKey j) 128)
  if needsSpill home k o then
    match s.spillAccess p (p.table.spillOf j) false with
    | (t, .error f, h) => (t, .error f, h)
    | (t, .ok key, h) => (t, .ok { home, spill := some (key, bucketOf (t.unitRead key 128)) }, h)
  else (s, .ok { home, spill := none }, 0)

/-- The live keys of home bucket `j`, as far as the buckets read show them. -/
def PhView.keys (v : PhView) (t : PhTable) (j : Nat) : List (Word × Word) :=
  v.home.items ++ (match v.spill with
    | some (_, u) => u.items.filter fun e => decide (t.home e.1 = j)
    | none => [])

/-- The buckets after home bucket `j` has come to hold the keys `ks` (R370). -/
def PhView.place (v : PhView) (t : PhTable) (j : Nat) (ks : List (Word × Word)) : Bucket × Option Bucket :=
  match v.spill with
  | none => ({ items := ks, spilled := v.home.spilled }, none)
  | some (_, u) =>
    ({ items := ks.take 7, spilled := ks.length - 7 },
      some { items := sortKeys ((u.items.filter fun e => decide (t.home e.1 ≠ j)) ++ ks.drop 7), spilled := 0 })

/-- The pigeonhole overflow (R371). -/
def phOverflow (t : PhTable) (j : Nat) : AccessFault :=
  { cause := 0x0F, detail := BitVec.ofNat 32 j, addr := t.spillAddr (t.spillOf j) }

/-- An operation on one key whose buckets have been read (R370 to R372): its old value, or what stops it with nothing changed, and the cycles
that its spill write adds (R379). -/
def State.phApply (s : State) (p : PhPlace) (k : Word) (o : PhOp) (v : PhView) : State × Except AccessFault (Option Word) × Nat :=
  let j := p.table.home k
  let ks := v.keys p.table j
  let old := findKey ks k
  let new := setKey ks k (o.result old)
  match v.place p.table j new with
  | (home, none) => (if o.result old = old then s else s.poke p.source (p.homeKey j) (home.bytes false), .ok old, 0)
  | (home, some spill) =>
    if 7 < spill.items.length then (s, .error (phOverflow p.table j), 0)
    else if new = sortKeys ks then (s, .ok old, 0)
    else
      match s.spillAccess p (p.table.spillOf j) true with
      | (u, .error f, g) => (u, .error f, g)
      | (u, .ok key, g) =>
        ((u.poke p.source (p.homeKey j) (home.bytes false)).poke p.source key (spill.bytes true), .ok old, g)

/-- An operation on one key, indivisible (R370 to R372): its old value, or what stops it with nothing changed, and the cycles that its
spill accesses add (R379). -/
def State.phKey (s : State) (p : PhPlace) (k : Word) (o : PhOp) : State × Except AccessFault (Option Word) × Nat :=
  match s.phView p k o with
  | (t, .error f, h) => (t, .error f, h)
  | (t, .ok v, h) => ((t.phApply p k o v).1, (t.phApply p k o v).2.1, h + (t.phApply p k o v).2.2)

/-! ## The unit's order (R373, R374) -/

/-- One update of the unit: its key, the lanes that present it, and what it does. -/
structure PhUpdate where
  key : Word
  lanes : List Nat
  op : PhOp
  deriving DecidableEq, Repr

/-- The bits of some lanes. -/
def laneMask (l : List Nat) : Nat := (l.map fun i => 2 ^ i).sum

/-- The trap's DETAIL with the lane, for an overflow, and the mask of the lanes performed (R371). -/
def phDetailAt (f : AccessFault) (lane mask : Nat) : AccessFault :=
  { f with detail := BitVec.ofNat 32 (f.detail.toNat % 2 ^ 24 + (if f.cause = 0x0F then lane * 2 ^ 16 else 0) + mask * 2 ^ 24) }

/-- That DETAIL for a key's lanes, and the lanes performed. -/
def phDetail (f : AccessFault) (lanes done : List Nat) : AccessFault := phDetailAt f (lanes.headD 0) (laneMask done)

/-- Updates are performed in order, up to the first that fails (R373, R374), with the cycles that their spill accesses add (R379). -/
def State.phRun (p : PhPlace) : List PhUpdate → List Nat → State → State × Except AccessFault (List (Word × Option Word)) × Nat
  | [], _, s => (s, .ok [], 0)
  | u :: us, done, s =>
    match s.phKey p u.key u.op with
    | (t, .error f, h) => (t, .error (phDetail f u.lanes done), h)
    | (t, .ok old, h) =>
      match State.phRun p us (done ++ u.lanes) t with
      | (w, .error f, g) => (w, .error f, h + g)
      | (w, .ok rs, g) => (w, .ok ((u.key, old) :: rs), h + g)

/-- The combined update of the lanes that present one key, in ascending lane order (R373). -/
def combineLanes (mk : Nat → PhOp) (lanes : List Nat) : PhOp :=
  match lanes with
  | [] => .prb
  | i :: is =>
    is.foldl (fun o j =>
      match o, mk j with
      | .acc op v, .acc _ w => .acc op (phCombine op v w)
      | _, o' => o') (mk i)

/-- The updates of `n` lanes (R373): distinct keys, by home bucket and then by key. -/
def phUpdatesOf (n : Nat) (t : PhTable) (keys : Nat → Word) (mk : Nat → PhOp) : List PhUpdate :=
  let ks := ((List.range n).map keys).dedup
  let us := ks.map fun k =>
    let lanes := (List.range n).filter fun i => decide (keys i = k)
    { key := k, lanes, op := combineLanes mk lanes : PhUpdate }
  us.insertionSort fun a b =>
    t.home a.key * 2 ^ 64 + a.key.toNat ≤ t.home b.key * 2 ^ 64 + b.key.toNat

/-- The updates of a vector form (R373). -/
def phUpdates (t : PhTable) (keys : Nat → Word) (mk : Nat → PhOp) : List PhUpdate := phUpdatesOf 8 t keys mk

/-! ## The instructions (R367, R375, R376) -/

/-- The active table whose base lies at an offset of a core's scratchpad; another core's is outside (log 34). -/
def State.tableAt (s : State) (owner : BitVec 12) (off : Nat) : Option PhTable :=
  if owner = s.core.num then s.core.tables.find? fun t => decide (t.base = off)
  else ((s.clu.phTables.find? fun x => decide (x.1 = owner) && decide (x.2.base = off))).map (·.2)

/-- The access of a pigeonhole operation to its table (R375, R376). -/
def Access.table : Access := { Access.rmw true with claims := false }

/-- A vector form of another context of this core is under way at the table's unit: between its buckets only operations of other cores come
(R374, R376). -/
def State.tableBusy (s : State) (p : PhPlace) : Bool :=
  (List.finRange 11).any fun n => decide (n ≠ s.cur) && (s.ctxAt n).ph.any fun r => decide (r.owner = p.owner)

/-- The cycle in which a context's operation arrived at the unit that is to take it, where it waits for that (R376). -/
def Ctx.phArrived (c : Ctx) : Option Nat :=
  match c.wait with
  | some w => if w.kind = .other ∧ w.q = 2 then some w.since else none
  | none => none

/-- The core whose unit takes the operation that a context waits with. -/
def State.phOwner (s : State) (n : Fin 11) : Option (BitVec 12) :=
  match (s.ctxAt n).wait with
  | some w => match regionOf w.addr with | .scratch pos _ => some (s.scratchCore pos) | _ => none
  | none => none

/-- The network cycle in which another core's operation arrives at this core's unit: the one after its coming (R376). -/
def UnitOp.arrives (u : UnitOp) : Nat := u.since / 2 + 1

/-- An operation of another core that has come to this core's unit, and has not begun, goes before one of this core that arrived in a network
cycle: it arrived before, or in the same one from a lower core (R376). -/
def State.unitBefore (s : State) (cycle : Nat) : Bool :=
  s.core.unit.any fun u =>
    !u.started && (decide (u.arrives < cycle) || (decide (u.arrives = cycle) && decide (u.core < s.core.num)))

/-- The unit takes the context's operation now: in the order of arrival, those of one network cycle by core and then by context number, so that
one that arrives in the first half of a network cycle waits for its end where a lower context could still issue in it (R376). -/
def State.phTurn (s : State) (p : PhPlace) : Bool :=
  let mine := s.ctx.phArrived.getD s.cycle
  let earlier (n : Fin 11) : Bool :=
    decide (s.phOwner n = some p.owner)
      && (s.ctxAt n).phArrived.any fun c => decide (c / 2 < mine / 2) || (decide (c / 2 = mine / 2) && decide (n < s.cur))
  !(decide (p.owner = s.core.num) && s.unitBefore (mine / 2))
    && !((List.finRange 11).any fun n => decide (n ≠ s.cur) && earlier n)
    && (decide (mine / 2 < s.cycle / 2) || (decide (s.cycle % 2 = 1) && s.ctx.wait.isNone)
      || !((List.finRange 11).any fun n => decide (n < s.cur) && (s.ctxAt n).live))

/-- The operation has arrived at the unit, and waits for its turn (R376). -/
def State.phArrive (s : State) (a : Word) : State :=
  if s.ctx.phArrived.isSome then s
  else s.modCtx fun c => { c with wait := some { c.waiting .other 2 a s.cycle with since := s.cycle }, nextIssue := s.cycle + 1 }

/-- An operation reaches the unit of its table: after a vector form of this core that is under way, and in the order of arrival (R374, R376).
Another core that is being saved answers with RETRY (R378). Every later access follows it (R376). -/
def State.atUnit (s : State) (a : Word) (p : PhPlace) (k : State → PhPlace → State) : State :=
  if s.ctx.ph.isSome then k s p
  else if s.resends = false then s
  else if s.retried (p.homeKey 0) then s.awaitResend a
  else if s.tableBusy p = false ∧ s.phTurn p then k (s.acquire .sys) p
  else s.phArrive a

/-- The table that an operand names (R367, R375): an address that is no base of an active table, or with `own` not the issuing
core's, is an illegal operation that names it. Earlier accesses come first where an order says so (R376). -/
def State.withTable (s : State) (a : Word) (own : Bool) (k : State → PhPlace → State) : State :=
  match regionOf a with
  | .scratch pos off =>
    let c := s.scratchCore pos
    if own ∧ c ≠ s.core.num then s.trapHere 0x02 0 a
    else
      match s.scratchCheck .table a 1 pos off with
      | .error f => s.trapAccess f 1
      | .ok q =>
        match s.tableAt c off with
        | none => s.trapHere 0x02 0 a
        | some t =>
          s.whenDone (fun u => decide (u.seq ∈ s.holders q.key false []) || decide (u.seq ∈ s.ctx.inTaint)) a fun s =>
            s.atUnit a { owner := c, table := t } k
  | _ => s.trapHere 0x02 0 a

/-- A pigeonhole operation is counted by the unit that performs it (R420). -/
def State.countPh (s : State) (p : PhPlace) : State := if p.owner = s.core.num then s.count 9 else s

/-- A fault that the table's unit meets is logged (R371, R433). -/
def State.phLog (s : State) (p : PhPlace) (f : AccessFault) : State :=
  s.logEntry true (if f.cause = 0x0F then 11 else 1) f.cause.toNat p.source f.detail f.addr

/-- The trap of a failing key (R371), raised when the unit has found it, `hold` cycles after (R376); nothing of a vector form is under way
any more. -/
def State.phTrap (s : State) (p : PhPlace) (f : AccessFault) (hold : Nat) : State :=
  ((s.phLog p f).modCtx fun c => { c with ph := none }).raiseAfter (TrapInfo.at s.pc f.cause f.detail f.addr) hold

/-- The issue hold of an operation (R379), less what it has waited at the unit. -/
def State.phHold (s : State) (p : PhPlace) (n : Nat) : Nat :=
  Nat.max 1 (n + (if p.owner = s.core.num then 0 else 24) - (s.cycle - s.ctx.phArrived.getD s.cycle))

/-- Updates of the issuing instruction on a table: its trap, or the rest of the instruction, with the cycles of its spill accesses. -/
def State.phPerform (s : State) (p : PhPlace) (us : List PhUpdate) (k : State → List (Word × Option Word) → Nat → State) : State :=
  match State.phRun p us [] (s.countPh p) with
  | (t, .error f, h) => t.phTrap p f h
  | (t, .ok rs, h) => k t rs h

/-- The updates of a vector form that are performed next: those of one home bucket (R374). -/
def nextBucket (t : PhTable) (us : List PhUpdate) : List PhUpdate :=
  match us with
  | [] => []
  | u :: _ => us.filter fun x => decide (t.home x.key = t.home u.key)

/-- A vector form on a table: the updates of one home bucket are performed, and the instruction waits between two buckets, where the unit
may perform operations of other cores (R374), 2 cycles for each (R379). -/
def State.phPerformLanes (s : State) (a : Word) (p : PhPlace) (us : List PhUpdate) (k : State → List (Word × Option Word) → Nat → State) :
    State :=
  let run := s.ctx.ph.getD { owner := p.owner, base := p.table.base, done := [], got := [] }
  let left := us.filter fun u => !(u.lanes.any fun i => decide (i ∈ run.done))
  let now := nextBucket p.table left
  match State.phRun p now run.done (if s.ctx.ph.isSome then s else s.countPh p) with
  | (t, .error f, h) => t.phTrap p f h
  | (t, .ok rs, h) =>
    let done := run.done ++ now.flatMap (·.lanes)
    if left.length ≤ now.length then k (t.modCtx fun c => { c with ph := none }) (run.got ++ rs) h
    else
      t.modCtx fun c =>
        { c with
          ph := some { run with done, got := run.got ++ rs },
          wait := some (c.waiting .other (BitVec.ofNat 8 (16 + done.length)) a s.cycle), nextIssue := s.cycle + 2 + h }

/-- A scalar operation that writes no register. -/
def State.phScalar (s : State) (sw : Bool) (a : Word) (key : Word) (o : PhOp) : State :=
  s.withTable a false fun s p =>
    if key = reservedKey then s.illegal
    else s.phPerform p [{ key, lanes := [0], op := o }] fun t _ h => t.retireAfter sw 4 (t.phHold p (6 + h))

/-- A vector operation that writes no register. -/
def State.phVector (s : State) (sw : Bool) (a : Word) (keys : Nat → Word) (mk : Nat → PhOp) : State :=
  s.withTable a false fun s p =>
    if (List.range 8).any fun i => decide (keys i = reservedKey) then s.illegal
    else
      s.phPerformLanes a p (phUpdates p.table keys mk) fun t _ h => t.retireAfter sw 4 (t.phHold p (8 + h))

/-- A 64-bit lane. -/
def lane64 (v : Vec) (i : Nat) : Word := BitVec.ofNat 64 (lane v 64 i)

/-- PHINS (R372, R373). -/
def execPhins (sw : Bool) (d a b : BitVec 5) (v : Bool) (s : State) : Outcome :=
  .next (if v then
      s.issue [.x a, .v b, .v d] [] fun s =>
        s.phVector sw (s.readX a) (lane64 (s.readV b)) fun i => .ins (lane64 (s.readV d) i)
    else s.issue [.x a, .x b, .x d] [] fun s => s.phScalar sw (s.readX a) (s.readX b) (.ins (s.readX d)))

/-- PHDEL (R372, R373). -/
def execPhdel (sw : Bool) (a b : BitVec 5) (v : Bool) (s : State) : Outcome :=
  .next (if v then s.issue [.x a, .v b] [] fun s => s.phVector sw (s.readX a) (lane64 (s.readV b)) fun _ => .del
    else s.issue [.x a, .x b] [] fun s => s.phScalar sw (s.readX a) (s.readX b) .del)

/-- PHACC (R372, R373). -/
def execPhacc (sw : Bool) (d a b : BitVec 5) (op : PhAcc) (v : Bool) (s : State) : Outcome :=
  .next (if v then
      s.issue [.x a, .v b, .v d] [] fun s =>
        s.phVector sw (s.readX a) (lane64 (s.readV b)) fun i => .acc op (lane64 (s.readV d) i)
    else s.issue [.x a, .x b, .x d] [] fun s => s.phScalar sw (s.readX a) (s.readX b) (.acc op (s.readX d)))

/-- What a probe found for a key. -/
def probed (rs : List (Word × Option Word)) (k : Word) : Option Word :=
  match rs.find? fun r => decide (r.1 = k) with
  | some r => r.2
  | none => none

/-- PHPRB's scalar form (R372): every bit of p0 is written. -/
def State.phProbe (s : State) (sw : Bool) (d : BitVec 5) (a key : Word) : State :=
  s.withTable a false fun s p =>
    if key = reservedKey then s.illegal
    else
      s.phPerform p [{ key, lanes := [0], op := .prb }] fun t rs h =>
        let r := probed rs key
        ((t.writeLater (.x d) ((r.getD 0).setWidth 512) 0).writeLater (.p 0)
          ((if r.isSome then allOnes64 else 0).setWidth 512) 0).retireAfter sw 4 (t.phHold p (6 + h))

/-- PHPRB's vector form (R373): bits 0 to 7 of p0 are written, and its other bits kept. -/
def State.phProbeLanes (s : State) (sw : Bool) (d : BitVec 5) (a : Word) (keys : Nat → Word) : State :=
  s.withTable a false fun s p =>
    if (List.range 8).any fun i => decide (keys i = reservedKey) then s.illegal
    else
      s.phPerformLanes a p (phUpdates p.table keys fun _ => .prb) fun t rs h =>
        let found := laneMask ((List.range 8).filter fun i => (probed rs (keys i)).isSome)
        ((t.writeLater (.v d) (ofLanes 64 8 fun i => ((probed rs (keys i)).getD 0).toNat) 0).writeLater (.p 0)
          (((t.readP 0 &&& ~~~0xFF#64) ||| BitVec.ofNat 64 found).setWidth 512) 0).retireAfter sw 4
            (t.phHold p (8 + h))

/-- PHPRB (R372, R373). -/
def execPhprb (sw : Bool) (d a b : BitVec 5) (v : Bool) (s : State) : Outcome :=
  .next (if v then s.issue [.x a, .v b] [.v d, .p 0] fun s => s.phProbeLanes sw d (s.readX a) (lane64 (s.readV b))
    else s.issue [.x a, .x b] [.x d, .p 0] fun s => s.phProbe sw d (s.readX a) (s.readX b))

/-! ## Claiming and freeing (R366, R367) -/

/-- Home buckets `0` to `n` − 1 are written empty. -/
def State.emptyHomes (p : PhPlace) : List Nat → State → State
  | [], s => s
  | j :: js, s => State.emptyHomes p js (s.poke p.source (p.homeKey j) (Bucket.empty.bytes false))

/-- The places of spill buckets, for reading or writing, and the cycles of their accesses (R371, R379). -/
def State.spillPlaces (p : PhPlace) (write : Bool) : List Nat → State → State × Except AccessFault (List Nat) × Nat
  | [], s => (s, .ok [], 0)
  | i :: is, s =>
    match s.spillAccess p i write with
    | (t, .error f, h) => (t, .error f, h)
    | (t, .ok k, h) =>
      match State.spillPlaces p write is t with
      | (u, .error f, g) => (u, .error f, h + g)
      | (u, .ok ks, g) => (u, .ok (k :: ks), h + g)

/-- Every spill bucket is written empty. -/
def State.emptySpills (p : PhPlace) (keys : List Nat) (s : State) : State :=
  keys.foldl (fun t k => t.poke p.source k (Bucket.empty.bytes true)) s

/-- A descriptor that PHCLAIM refuses (R366). -/
def badPhTable (w1 spill w3 : Nat) : Bool :=
  let b := natBits w1 3 0
  let c := natBits w1 11 8
  decide (natBits w1 7 4 ≠ 0) || decide (natBits w1 63 12 ≠ 0) || decide (w3 ≠ 0) || decide (b < 5) || decide (11 < b)
    || decide (b < c) || decide (regionOf (BitVec.ofNat 64 spill) ≠ .translated) || decide (spill % (128 * 2 ^ c) ≠ 0)

/-- Each page of the spill range passes the checks of a store and a load (R366), one after another: their times add up to the hold (R51). -/
def State.spillPages (s : State) : List Word → Nat → (State → Nat → State) → State
  | [], hold, k => k s hold
  | a :: as, hold, k =>
    match s.check (.spill true) a 1 1 s.exchange with
    | (t, .error f, h) => t.trapAccess f (hold + h)
    | (t, .ok _, h) =>
      match t.check (.spill false) a 1 1 t.exchange with
      | (u, .error f, g) => u.trapAccess f (hold + h + g)
      | (u, .ok _, g) => u.spillPages as (hold + h + g) k

/-- The table becomes active with every bucket empty, `hold` cycles of checks being done (R366, R379). -/
def State.claimTable (s : State) (sw : Bool) (t : PhTable) (hold : Nat) : State :=
  let p : PhPlace := { owner := s.core.num, table := t }
  match State.spillPlaces p true (List.range (2 ^ t.c)) s with
  | (u, .error f, h) => u.phTrap p f (hold + h)
  | (u, .ok keys, h) =>
    ((State.emptySpills p keys (State.emptyHomes p (List.range (2 ^ t.b)) u)).modCore fun c =>
      { c with tables := c.tables ++ [t] }).retireAfter sw 4 (4 * 2 ^ t.b + hold + h)

/-- What TABLE of a descriptor names (R366, R375): an offset in the own scratchpad, in either window, another core's scratchpad, or no
scratchpad. -/
inductive TableName where
  | own (off : Nat)
  | other
  | outside
  deriving DecidableEq, Repr

/-- Where TABLE lies. -/
def State.tableName (s : State) (a : Word) : TableName :=
  match regionOf a with
  | .scratch pos off => if s.scratchCore pos = s.core.num then .own off else .other
  | _ => .outside

/-- The table that TABLE names is active (R366). -/
def State.activeAt (s : State) : TableName → Bool
  | .own off => s.core.tables.any fun t => decide (t.base = off)
  | _ => false

/-- TABLE begins a pigeonhole claim of exactly `n` bytes (R366). -/
def State.tableClaim (s : State) (n : Nat) : TableName → Bool
  | .own off => s.job.claims.any fun k => decide (k.kind = .pigeonhole) && decide (k.off = off) && decide (k.bytes = n)
  | _ => false

/-- The offset that TABLE names. -/
def TableName.off : TableName → Nat
  | .own off => off
  | _ => 0

/-- PHCLAIM (R366, R375, R379): a table of another core is an illegal operation. -/
def execPhclaim (sw : Bool) (a : BitVec 5) (s : State) : Outcome :=
  .next (s.issue [.x a] [] fun s =>
    let at_ := s.waitAddress (s.readX a)
    s.withOwn at_ 32 8 at_ fun s bs =>
      let name := s.tableName (BitVec.ofNat 64 (fieldAt bs 0 8))
      let w1 := fieldAt bs 8 8
      let spill := fieldAt bs 16 8
      let b := natBits w1 3 0
      let c := natBits w1 11 8
      if badPhTable w1 spill (fieldAt bs 24 8) ∨ s.activeAt name ∨ name = .other then s.illegal
      else if s.tableClaim (128 * 2 ^ b) name = false ∨ 4 ≤ s.core.tables.length then s.resource 3
      else if s.computePhase then s.phaseViolation
      else
        s.spillPages ((List.range ((128 * 2 ^ c + 65535) / 65536)).map fun i => BitVec.ofNat 64 (spill + 65536 * i)) 0 fun s h =>
          s.claimTable sw { base := name.off, b, c, spill := BitVec.ofNat 64 spill } h)

/-- PHFREE (R367): it waits for the operations under way on the table, other cores' vector forms among them. -/
def execPhfree (sw : Bool) (a : BitVec 5) (s : State) : Outcome :=
  .next (s.issue [.x a] [] fun s => s.withTable (s.readX a) true fun s p =>
    if s.core.unit.any fun u => u.started && decide (u.op.table = some p.table.base) then s.phArrive (s.readX a)
    else (s.modCore fun c => { c with tables := c.tables.filter fun t => decide (t ≠ p.table) }).retire sw 4)

/-! ## Draining (R377) -/

/-- The entries of the spill buckets whose places are given. -/
def State.spillItems (s : State) (keys : List Nat) : List (Word × Word) :=
  keys.flatMap fun k => (bucketOf (s.unitRead k 128)).items

/-- The live entries in drain order: by home bucket, and within it by key. -/
def State.drainList (s : State) (p : PhPlace) (spilled : List (Word × Word)) : List (Word × Word) :=
  (List.range (2 ^ p.table.b)).flatMap fun j =>
    sortKeys ((bucketOf (s.peek (p.homeKey j) 128)).items ++ spilled.filter fun e => decide (p.table.home e.1 = j))

/-- The records are stored from an address, each checked; a failing one traps with the count of those written (R377). The cycles are
their store time (R379). -/
def State.drainTo (a : Word) : Nat → List (Word × Word) → State → State × Option AccessFault × Nat
  | _, [], s => (s, none, 0)
  | n, e :: es, s =>
    let at_ := a + BitVec.ofNat 64 (16 * n)
    match s.check .store at_ 16 16 s.exchange with
    | (t, .error f, h) => (t, some { f with detail := BitVec.ofNat 32 n }, h)
    | (t, .ok q, h) =>
      let rec1 := t.push (t.newAcc q.key 8 at_ q.page (.store (bytesOfNat e.1.toNat 8)) (t.holders q.key false []))
      let rec2 := rec1.push (rec1.newAcc (q.key + 8) 8 (at_ + 8) q.page (.store (bytesOfNat e.2.toNat 8)) (t.holders q.key false []))
      let r := State.drainTo a (n + 1) es (rec2.sign at_.toNat 16 (bytesOfNat e.1.toNat 8 ++ bytesOfNat e.2.toNat 8))
      (r.1, r.2.1, h + Config.storeTime q.key 16 + r.2.2)

/-- The spill buckets that some home bucket has spilled to. -/
def State.usedSpills (s : State) (p : PhPlace) : List Nat :=
  (((List.range (2 ^ p.table.b)).filter fun j => decide (0 < (bucketOf (s.peek (p.homeKey j) 128)).spilled)).map
    p.table.spillOf).dedup

/-- PHDRN on a checked table (R377). -/
def State.drain (s : State) (sw : Bool) (d : BitVec 5) (at_ : Word) (clr : Bool) (p : PhPlace) : State :=
  match State.spillPlaces p false (s.usedSpills p) (s.countPh p) with
  | (t, .error f, h) => t.phTrap p (phDetail f [] []) h
  | (t, .ok used, h) =>
    match State.spillPlaces p true (if clr then List.range (2 ^ p.table.c) else []) t with
    | (u, .error f, g) => u.phTrap p (phDetail f [] []) (h + g)
    | (u, .ok all, g) =>
      let es := u.drainList p (u.spillItems used)
      match State.drainTo at_ 0 es u with
      | (w, some f, k) => w.trapAccess f (h + g + k)
      | (w, none, k) =>
        let x := if clr then State.emptySpills p all (State.emptyHomes p (List.range (2 ^ p.table.b)) w) else w
        (x.writeLater (.x d) (BitVec.ofNat 512 es.length) 0).retireAfter sw 4 (w.phHold p (8 + 2 * es.length + h + g + k))

/-- PHDRN (R377). -/
def execPhdrn (sw : Bool) (d a b : BitVec 5) (clr : Bool) (s : State) : Outcome :=
  .next (s.issue [.x a, .x b] [.x d] fun s => s.withTable (s.readX a) true fun s p =>
    if (s.readX b).toNat % 16 ≠ 0 then s.trapAccess (addressFault 3 (s.readX b)) 1
    else s.drain sw d (s.readX b) clr p)

/-! ## Other cores' operations at this core's unit (R371, R374 to R378) -/

/-- What another core's operation does with the value of a lane. -/
def remoteMk : RemoteOp → Word → PhOp
  | .phins _ _ _, v => .ins v
  | .phdel _ _ _, _ => .del
  | .phacc _ _ f _, v => .acc f v
  | _, _ => .prb

/-- The keys of its lanes, with their values. -/
def remoteKeys : RemoteOp → List (Word × Word)
  | .phins _ _ l => l
  | .phdel _ _ l => l
  | .phprb _ _ l => l
  | .phacc _ _ _ l => l
  | _ => []

/-- The updates that it makes. -/
def UnitOp.updates (u : UnitOp) (t : PhTable) : List PhUpdate :=
  let l := remoteKeys u.op
  phUpdatesOf l.length t (fun i => (l.getD i (0, 0)).1) fun i => remoteMk u.op (l.getD i (0, 0)).2

/-- The unit takes another core's operation now: in the order of arrival, those of one network cycle by core and then by context number, this
core's own among them. One under way goes on between its buckets (R374, R376). -/
def State.unitTurn (s : State) (u : UnitOp) : Bool :=
  let m := u.arrives
  let before (v : UnitOp) : Bool :=
    (v.started && decide (v.core = u.core))
      || (!v.started && (decide (v.arrives < m) || (decide (v.arrives = m)
        && (decide (v.core < u.core) || (decide (v.core = u.core) && decide (v.op.ctx < u.op.ctx))))))
  let own (n : Fin 11) : Bool :=
    decide (s.phOwner n = some s.core.num)
      && (s.ctxAt n).phArrived.any fun c => decide (c / 2 < m) || (decide (c / 2 = m) && decide (s.core.num < u.core))
  u.started
    || (decide (m < s.cycle / 2 + if s.core.num < u.core then 0 else 1) && !(s.core.unit.any before)
      && !((List.finRange 11).any own))

/-- The operation leaves the unit. -/
def State.dropUnit (s : State) (u : UnitOp) : State := s.modCore fun c => { c with unit := c.unit.erase u }

/-- The answer of the unit: for each lane what its key held, and whether it was there. -/
def unitAnswer (l : List (Word × Word)) (got : List (Word × Option Word)) : List Byte :=
  l.flatMap fun e => bytesOfNat ((probed got e.1).getD 0).toNat 8 ++ bytesOfNat (bitAt (probed got e.1).isSome 0) 1

/-- The unit performs the updates of another core's operation for one home bucket; a failing key ends it, and is logged by the unit (R371,
R374). -/
def State.unitStep (s : State) (u : UnitOp) : State :=
  match u.op.table.bind (s.tableAt s.core.num) with
  | none => (s.dropUnit u).answer []
  | some t =>
    let p : PhPlace := { owner := s.core.num, table := t }
    let left := (u.updates t).filter fun x => !(x.lanes.any fun i => decide (i ∈ u.done))
    let now := nextBucket t left
    if (remoteKeys u.op).any fun e => decide (e.1 = reservedKey) then (s.dropUnit u).answer []
    else
      match State.phRun p now u.done (if u.started then s else s.countPh p) with
      | (w, .error f, _) => ((w.phLog p f).dropUnit u).answer []
      | (w, .ok rs, _) =>
        if left.length ≤ now.length then (w.dropUnit u).answer (unitAnswer (remoteKeys u.op) (u.got ++ rs))
        else
          w.modCore fun c => { c with unit := c.unit.map fun x =>
            if x = u then { u with done := u.done ++ now.flatMap (·.lanes), got := u.got ++ rs, started := true } else x }

/-- Another core's pigeonhole operation comes to this core's unit, or goes on there (R376). -/
def State.unitAccess (s : State) (core : BitVec 12) (jobid : BitVec 32) (op : RemoteOp) : State :=
  match s.core.unit.find? fun u => decide (u.core = core) && decide (u.jobid = jobid) && decide (u.op = op) with
  | some u => if s.unitTurn u then s.unitStep u else s
  | none => s.modCore fun c => { c with unit := c.unit ++ [{ core, jobid, op, since := s.cycle, done := [], got := [], started := false }] }

/-! ## SPKINS (R294) -/

/-- SPKINS on an active table, with the spike: a key that is absent is inserted with value 0 and pushed, as one operation; a push that
would trap comes first. Its buckets are read once (R300). -/
def State.spikeInsert (s : State) (sw : Bool) (d : BitVec 5) (key : Word) (p : PhPlace) (k : Spike) : State :=
  match (s.countPh p).phView p key (.ins 0) with
  | (t, .error f, h) => t.phTrap p (phDetail f [0] []) h
  | (t, .ok v, h) =>
    if (findKey (v.keys p.table (p.table.home key)) key).isSome then
      (t.writeX d 0 (t.phHold p (8 + h))).retireAfter sw 4 (t.phHold p (8 + h))
    else
    t.pushRoom k fun t spill e =>
      match t.phApply p key (.ins 0) v with
      | (u, .error f, g) => u.phTrap p (phDetail f [0] []) (h + g)
      | (u, .ok _, g) =>
        let n := u.phHold p (8 + h + g + if spill.isSome then e else 0)
        ((u.spikeAppend k key spill).writeX d 1 n).retireAfter sw 4 n

/-- SPKINS (R294): the table is named by its local address; an inactive spike is an illegal operation (R292). -/
def execSpkins (sw : Bool) (d a b : BitVec 5) (s : State) : Outcome :=
  .next (s.issue [.x a, .x b] [.x d] fun s => s.withTable (s.readX b) true fun s p =>
    match s.core.spike with
    | none => s.illegal
    | some k => if s.readX a = reservedKey then s.illegal else s.spikeInsert sw d (s.readX a) p k)

end Sys2Proof.Machine
end

