-- ==== Sys2Proof/Machine/Network.lean ====
section
/-! DEFINITION. The network (R383 to R398): stream ports, multicast, timed sends, one router's arbitration, and status. Words for
another core leave this one; words, markers and allowances from other cores come as events (log 34). -/

namespace Sys2Proof.Machine

/-! ## Ports (R385, R388) -/

/-- Port `n` of this core. -/
def State.port (s : State) (n : BitVec 2) : Port := s.core.ports.get n.toFin

/-- Port `n` changed by `f`. -/
def State.modPort (s : State) (n : BitVec 2) (f : Port → Port) : State :=
  s.modCore fun c => { c with ports := c.ports.set n.toNat (f (c.ports.get n.toFin)) n.isLt }

/-- The words that wait in a port (R398): closing markers are none. -/
def Port.waiting (p : Port) : Nat := p.buf.countP (·.isSome)

/-- A phase violation of a network instruction in a superstep job (R384). -/
def State.freeJob (s : State) (k : State → State) : State := if s.job.superstep then s.phaseViolation else k s

/-- RWIN (R385): the port opens for the issuing context, or closes. -/
def execRwin (sw : Bool) (a : BitVec 5) (n : BitVec 2) (s : State) : Outcome :=
  .next (s.issue [.x a] [] fun s => s.freeJob fun s =>
    let p := s.port n
    if s.readX a = 1 then
      if p.state ≠ .closed ∧ p.rctx ≠ s.cur then s.illegal
      else if p.state ≠ .closed then s.retire sw 4
      else (s.modPort n fun _ => { Port.closed with state := .opened, rctx := s.cur, owed := p.owed, requests := p.requests }).retire sw 4
    else if s.readX a = 0 then
      if p.state = .route ∨ 0 < p.waiting then s.illegal
      else (s.modPort n fun _ => { Port.closed with owed := p.owed, requests := p.requests }).retire sw 4
    else s.illegal)

/-- The context of this core that holds the route into a port, when one does. -/
def State.routeSender (s : State) (n : BitVec 2) : Option (Fin 11) :=
  if (s.port n).state = .route ∧ (s.port n).rsrc = s.core.num then
    (List.finRange 11).find? fun c =>
      let b := (s.ctxAt c).send
      decide (b.core = s.core.num) && decide (b.port = n) && decide (0 < b.words)
  else none

/-- A packet's first word opens its route (R386, R388): the sender gets an allowance for each free buffer word, but for those that a broken
route still holds (R396). -/
def Port.openRoute (p : Port) (src : BitVec 12) : Port :=
  { p with state := .route, rsrc := src, rw := 0, given := 64 - p.waiting - p.owed }

/-- Words of a route that a cluster reset or its sender's end breaks stay takeable, and its allowances are to be reclaimed (R388, R396). -/
def Port.abortRoute (p : Port) : Port := { p with state := .aborted, ending := false, given := 0, owed := p.owed + p.given }

/-- The allowances of a broken route come back as a reclaim message (R396). -/
def State.postReclaim (s : State) (n : BitVec 2) (k : Nat) : State := if k = 0 then s else s.post (.reclaimMessage n k)

/-- A word enters the buffer, for an allowance. -/
def Port.enter (p : Port) (w : Word) : Port := { p with buf := p.buf ++ [some w], rw := p.rw + 1, given := p.given - 1 }

/-- The closing marker enters the buffer (R388), with the number of its release (R307). -/
def Port.close (p : Port) (mark : Nat) : Port :=
  { p with state := .opened, buf := p.buf ++ [none], ending := false, marks := p.marks ++ [mark], given := 0 }

/-- A closing marker enters a port. Its release is that of what the agents which `p` picks know within .dev, under a number of its own, which the
PRECV that takes the marker acquires (R307). -/
def State.closeRoute (s : State) (n : BitVec 2) (p : Nat → Bool) : State :=
  ({ s with seq := s.seq + 1 }.modPort n fun x => x.close (cmdAgent s.seq)).learn (cmdAgent s.seq) (fun k => k.any p) .dev

/-- The agent is a context of a core. -/
def agentOf (core : BitVec 12) (a : Nat) : Bool := decide (a < 2 ^ 16) && decide (a % 2 ^ 12 = core.toNat)

/-- A word of another core can open a route: the port is open, has room, no sender with an earlier request waits (R386), and the core is not
being evicted (R397). -/
def State.routeFor (s : State) (p : Port) (src : BitVec 12) : Bool :=
  decide (p.state = .opened) && decide (p.waiting + p.owed < 64) && !s.job.evicted
    && (match p.requests with | [] => true | r :: _ => decide (r.1 = src))

/-- PORT_WORD_ARRIVAL (R388): the word of a packet from another core. A word that its packet's route or an allowance does not
cover is not there to arrive; but the words of a route open into a core that is being evicted are all accepted (R397). A closing word waits
for its marker. -/
def execPortWordArrival (port : BitVec 2) (src : BitVec 12) (w : Word) (closes : Bool) (s : State) : Outcome :=
  let p := s.port port
  .next (
    let q : Option Port :=
      match p.state with
      | .opened => if s.routeFor p src then some { (p.openRoute src).enter w with requests := p.requests.drop 1 } else none
      | .route => if p.rsrc = src ∧ (0 < p.given ∨ s.job.evicted) ∧ p.ending = false then some (p.enter w) else none
      | _ => none
    match q with
    | none => s
    | some q =>
      let t := s.modPort port fun _ => { q with ending := closes }
      if closes then t.post (.closingMarker port) else t)

/-- CLOSING_MARKER (R388): it follows the closing word, and releases the route. The contexts of the sending core are not told apart (log 131). -/
def execClosingMarker (port : BitVec 2) (s : State) : Outcome :=
  .next (if (s.port port).state = .route ∧ (s.port port).ending then s.closeRoute port (agentOf (s.port port).rsrc) else s)

/-- A sender's route has been aborted (R396). -/
def SendBinding.abort (b : SendBinding) : SendBinding := if b.sst = 2 then { b with sst := 3, allow := 0 } else b

/-- ABORT_CLOSE_FLIT (R388, R396): words already buffered stay takeable. -/
def execAbortCloseFlit (port : BitVec 2) (s : State) : Outcome :=
  .next (if (s.port port).state = .route then
      let t := match s.routeSender port with
        | some c => s.modCtxAt c fun x => { x with send := x.send.abort }
        | none => s
      (t.modPort port Port.abortRoute).postReclaim port (s.port port).given
    else s)

/-- SEND_ALLOWANCE (R385): an allowance returns to a context of this core whose packet's port is another core's. -/
def execSendAllowance (ctx : Fin 11) (s : State) : Outcome :=
  .next (if (s.ctxAt ctx).send.core ≠ s.core.num ∧ (s.ctxAt ctx).send.sst ≠ 0 then
      s.modCtxAt ctx fun c => { c with send := { c.send with allow := c.send.allow + 1 } }
    else s)

/-- RECLAIM_MESSAGE (R396): allowances of a broken route, those of words discarded in flight among them, restore the port's free words; they
go to the sender of a route that has opened since. -/
def execReclaimMessage (port : BitVec 2) (n : Nat) (s : State) : Outcome :=
  .next (s.modPort port fun p =>
    let k := Nat.min n p.owed
    { p with owed := p.owed - k, given := if p.state = .route then p.given + k else p.given })

/-! ## Sending (R386) -/

/-- POPEN (R384, R386). -/
def execPopen (sw : Bool) (a : BitVec 5) (s : State) : Outcome :=
  .next (s.issue [.x a] [] fun s => s.freeJob fun s =>
    let v := s.readX a
    let core := v.setWidth 12
    if v &&& ~~~0x30FFF#64 ≠ 0 then s.illegal
    else if Config.cores ≤ core.toNat ∨ ¬ (core ∈ s.job.cores) then s.trapHere 0x02 0 v
    else if s.ctx.send.sst = 2 then s.illegal
    else
      (s.modCtx fun c =>
        { c with send := { sst := 1, core, port := BitVec.ofNat 2 (natBits v.toNat 17 16), words := 0, allow := 0 } }).retire sw 4)

/-- The context's send binding. -/
def State.binding (s : State) : SendBinding := s.ctx.send

/-- The context's send binding changed by `f`. -/
def State.modSend (s : State) (f : SendBinding → SendBinding) : State := s.modCtx fun c => { c with send := f c.send }

/-- The target port is one of this core. -/
def State.localPort (s : State) : Bool := decide (s.binding.core = s.core.num)

/-- Allowances that the sender holds (R385): for a port of this core they are the port's to count, which takes every word of an open route while
its core is being evicted (R397). -/
def State.allowances (s : State) : Nat :=
  if s.localPort then Nat.max (s.port s.binding.port).given (if s.job.evicted then 1 else 0) else s.binding.allow

/-- The sender's request is first at a port of this core, or already in line (R386). -/
def State.joinLine (s : State) : State :=
  s.modPort s.binding.port fun p =>
    if (s.core.num, s.cur) ∈ p.requests then p else { p with requests := p.requests ++ [(s.core.num, s.cur)] }

/-- The route can open: the port is open and holds none, and no earlier request waits there (R386). Another core's port shows it by
the allowances that it sends. -/
def State.routeOpens (s : State) : Bool :=
  if s.localPort then
    let p := s.port s.binding.port
    decide (p.state = .opened) && decide (p.waiting + p.owed < 64)
      && (p.requests.isEmpty || decide (p.requests.head? = some (s.core.num, s.cur)))
  else decide (0 < s.binding.allow)

/-- The route opens. -/
def State.openRoute (s : State) : State :=
  if s.localPort then
    s.modPort s.binding.port fun p => { p.openRoute s.core.num with requests := p.requests.filter (· ≠ (s.core.num, s.cur)) }
  else s

/-- One word is sent (R161, R386). -/
def State.sendWord (s : State) (w : Word) : State :=
  let b := s.binding
  let t := (s.sign (b.core.toNat * 4 + b.port.toNat) 8 (bytesOfNat w.toNat 8)).modSend fun b =>
    { b with sst := 2, words := b.words + 1, allow := b.allow - 1 }
  if s.localPort then t.modPort b.port fun p => p.enter w else t

/-- The closing marker is sent, and the route is released (R386). -/
def State.sendMarker (s : State) : State :=
  let t := if s.localPort then s.closeRoute s.binding.port fun a => decide (a = s.source) else s
  t.modSend fun b => { b with sst := 1, words := 0, allow := 0 }

/-- The words of a PSEND from the `n`-th on go out as far as allowances reach; how many have gone in all comes back. -/
def State.sendWords : List Word → Nat → State → State × Nat
  | [], n, s => (s, n)
  | w :: ws, n, s => if s.allowances = 0 then (s, n) else State.sendWords ws (n + 1) (s.sendWord w)

/-- A PSEND with `gone` of its words sent goes on (R386). -/
def State.sendOn (s : State) (sw : Bool) (ws : List Word) (e : Bool) (gone : Nat) : State :=
  let q := s.binding.port.setWidth 8
  if s.binding.words = 0 ∧ s.routeOpens = false then
    (if s.localPort then s.joinLine else s).waitOn .psend q (BitVec.ofNat 64 gone)
  else
    let t := if s.binding.words = 0 then s.openRoute else s
    match State.sendWords (ws.drop gone) gone t with
    | (u, n) =>
      if n < ws.length then u.waitOn .psend q (BitVec.ofNat 64 n)
      else (if e then u.sendMarker else u).retireAfter sw 4 ws.length

/-- The packet would be too long (R386). -/
def tooLong (w m : Nat) (e : Bool) : Bool := decide (256 < w + m) || (decide (w + m = 256) && !e)

/-- A PSEND of an aborted packet completes without sending, up to its closing one (R396). -/
def State.sendNothing (s : State) (sw : Bool) (m : Nat) (e : Bool) : State :=
  (s.modSend fun b => if e then { b with words := 0 } else b).retireAfter sw 4 m

/-- The accesses that a closing PSEND comes after: it is a release at .dev (R307). -/
def State.beforeClosing (s : State) (e : Bool) (a : Acc) : Bool :=
  e && (decide (a.seq ∈ s.earlier .dev) || decide (a.seq ∈ s.ctx.order.map (·.seq)))

/-- PSEND of some words (R384, R386). -/
def State.psend (s : State) (sw : Bool) (ws : List Word) (e : Bool) : State :=
  s.freeJob fun s =>
    match s.ctx.wait with
    | some w =>
      if w.kind = .psend then
        if s.binding.sst = 3 then s.sendNothing sw ws.length e else s.sendOn sw ws e w.addr.toNat
      else s.whenDone (s.beforeClosing e) 0 fun s => s.sendOn sw ws e 0
    | none =>
      if s.binding.sst = 0 then s.illegal
      else if s.binding.sst = 3 ∧ 0 < s.binding.words then s.sendNothing sw ws.length e
      else
        let s := s.modSend fun b => if b.sst = 3 then { b with sst := 1 } else b
        if tooLong s.binding.words ws.length e then s.trapHere 0x14 0 0
        else s.whenDone (s.beforeClosing e) 0 fun s => s.sendOn sw ws e 0

/-- PSEND (R386): one word, or the eight lanes of a vector. -/
def execPsend (sw : Bool) (a : BitVec 5) (v e : Bool) (s : State) : Outcome :=
  .next (if v then s.issue [.v a] [] fun s => s.psend sw ((List.range 8).map (lane64 (s.readV a))) e
    else s.issue [.x a] [] fun s => s.psend sw [s.readX a] e)

/-! ## Receiving (R387) -/

/-- The words a take removes, up to `n` and up to a closing marker; the buffer after it; and whether it reached the marker. The
closing word is not taken before its marker has entered. -/
def takeWords (ending : Bool) : Nat → List (Option Word) → List Word × List (Option Word) × Bool
  | _, [] => ([], [], false)
  | _, none :: l => ([], l, true)
  | 0, some w :: l => ([], some w :: l, false)
  | n + 1, some w :: l =>
    if ending ∧ l.isEmpty then ([], some w :: l, false)
    else
      let r := takeWords ending n l
      (w :: r.1, r.2.1, r.2.2)

/-- Bits [63:8] of p0 when the take reached the closing marker or met an abort (R387). -/
abbrev endFlag : Word := 0xFFFFFFFFFFFFFF00#64

/-- A take has removed words, whose allowances return to the route's sender (R385). -/
def State.returnAllowances (s : State) (n : BitVec 2) (k : Nat) : State :=
  s.modPort n fun p => if p.state = .route then { p with given := p.given + k } else p

/-- The results of a take: xD or vD, and p0 (R387), 2 cycles after the words are chosen (R399). -/
def State.takeResult (s : State) (sw : Bool) (d : BitVec 5) (v : Bool) (ws : List Word) (flag : Bool) : State :=
  let p0 := (if flag then endFlag else 0) ||| BitVec.ofNat 64 (2 ^ ws.length - 1)
  let val : Vec := if v then ofLanes 64 8 fun i => (ws.getD i 0).toNat else (ws.headD 0).setWidth 512
  ((s.writeLate (if v then .v d else .x d) val 2).writeLate (.p 0) (p0.setWidth 512) 2).retire sw 4

/-- A take has reached the closing marker: an acquire of its release, and of nothing else (R307). -/
def State.takeMarker (s : State) (n : BitVec 2) : State :=
  (s.acquireFrom ((s.port n).marks.headD 0) .dev).modPort n fun p => { p with marks := p.marks.drop 1 }

/-- PRECV (R387): a take that reaches the closing marker is an acquire (R307). -/
def execPrecv (sw : Bool) (d : BitVec 5) (v : Bool) (n : BitVec 2) (s : State) : Outcome :=
  .next (s.issue [] [if v then .v d else .x d, .p 0] fun s => s.freeJob fun s =>
    let p := s.port n
    if p.state = .closed ∨ p.rctx ≠ s.cur then s.illegal
    else
      let r := takeWords p.ending (if v then 8 else 1) p.buf
      if r.1.isEmpty then
        if p.state = .aborted then (s.modPort n fun p => { p with state := .opened, buf := [], marks := [] }).takeResult sw d v [] true
        else s.block .precv (n.setWidth 8) 0
      else
        let t := (s.modPort n fun p => { p with buf := r.2.1 }).returnAllowances n r.1.length
        (if r.2.2 then t.takeMarker n else t).takeResult sw d v r.1 r.2.2)

/-! ## Multicast (R389, R390) -/

/-- The targets that a descriptor names (R389). -/
def mcastTargets (v : Vec) : List (BitVec 12) :=
  let n := natBits (lane v 64 0) 26 24 + 1
  (List.range n).map fun t => BitVec.ofNat 12 (lane v 64 (2 + t / 4) / 2 ^ (16 * (t % 4)))

/-- A strictly ascending list of core numbers. -/
def ascending : List (BitVec 12) → Bool
  | [] => true
  | [_] => true
  | a :: b :: l => decide (a < b) && ascending (b :: l)

/-- A reserved bit of a multicast descriptor is set (R389). -/
def badMcast (v : Vec) : Bool :=
  let l0 := lane v 64 0
  let n := natBits l0 26 24 + 1
  decide (natBits l0 47 45 ≠ 0) || decide (natBits l0 39 32 ≠ 0) || decide (natBits l0 30 27 ≠ 0) || decide (natBits l0 23 23 ≠ 0)
    || decide (natBits l0 15 0 ≠ 0) || decide (natBits (lane v 64 1) 63 19 ≠ 0) || decide (natBits (lane v 64 1) 5 0 ≠ 0)
    || ((List.range 8).any fun t =>
        let f := lane v 64 (2 + t / 4) / 2 ^ (16 * (t % 4)) % 2 ^ 16
        decide (2 ^ 12 ≤ f) || (decide (n ≤ t) && decide (f ≠ 0)))
    || ((List.range 4).any fun i => decide (lane v 64 (4 + i) ≠ 0))

/-- The remote-scratchpad form of an offset in a core's scratchpad (R245). -/
def scratchForm (c : BitVec 12) (off : Nat) : Nat := 2 ^ 63 + c.toNat * 2 ^ 44 + off

/-- The stores of a multicast are folded into the signature as it issues, in the order of its targets, with the source as it is seen then (R161;
log 132). -/
def State.signMcast (s : State) (ts : List (BitVec 12)) (doff : Nat) (data : List Byte) : State :=
  ts.foldl (fun t c => t.sign (scratchForm c doff) data.length data) s

/-- MCAST (R384, R389). -/
def execMcast (sw : Bool) (d a b : BitVec 5) (s : State) : Outcome :=
  .next (s.issue [.x a, .v b] [.x d] fun s => s.freeJob fun s =>
    let v := s.readV b
    let l0 := lane v 64 0
    let lines := natBits l0 22 16 + 1
    let doff := natBits (lane v 64 1) 18 0
    let g := BitVec.ofNat 5 (natBits l0 44 40)
    let arv := l0.testBit 31
    let ts := mcastTargets v
    if badMcast v ∨ ascending ts = false ∨ s.core.num ∈ ts ∨ (ts.any fun c => !decide (c ∈ s.job.cores))
        ∨ 0x80000 < doff + 64 * lines ∨ (arv ∧ s.badGroup g) then s.illegal
    else
      s.spanCheck (s.readX a) (64 * lines) 64 fun s =>
        if 2 ≤ s.core.mcasts.countP fun m => decide (m.ctx = s.cur) then s.block .other 0 0
        else
          let t := s.writeLater (.x d) 0 1
          let m : Mcast :=
            { seq := s.seq, ctx := s.cur, id := BitVec.ofNat 16 (natBits l0 63 48), group := if arv then some g else none,
              src := s.ownKey (s.readX a), lines, doff, targets := ts, index := 0, data := none, stored := 0, refused := 0,
              result := if d = 0 then none else some s.seq, after := s.ownAccesses, held := false, holds := none, resets := [] }
          (((t.modCore fun c => { c with mcasts := c.mcasts ++ [m] }).post (.mcastHop s.cur s.seq false)).signMcast ts doff
            (s.seen s.cur m.src (64 * lines))).retire sw 4)

/-- A multicast outstanding replaced, or gone. -/
def State.setMcast (s : State) (seq : Nat) (m : Option Mcast) : State :=
  s.modCore fun c => { c with mcasts := c.mcasts.filterMap fun u => if u.seq = seq then m else some u }

/-- The bytes of a multicast with this SOURCE, ID and group reach offset `doff` of core `c`: stored, or refused at a claimed area, which is
logged (R28, R390). -/
def State.mcastStore (s : State) (source : Nat) (id : BitVec 16) (group : Option (BitVec 5)) (doff : Nat) (c : BitVec 12) (data : List Byte) :
    State × Bool :=
  match (s.job.claims.filter fun k => overlaps doff data.length k.off k.bytes).map fun k => Nat.max doff k.off with
  | [] =>
    let t := s.poke source (scratchKey c.toNat doff) data
    let t := if s.job.redun then t.poke source (scratchKey (c ^^^ 1).toNat doff) data else t
    (match group with | some g => t.post (.arrival g c 1 none) | none => t, true)
  | x :: xs =>
    (s.logEntry true 1 0x06 (c.toNat + 15 * 2 ^ 12) (id.setWidth 32) (BitVec.ofNat 64 (scratchForm c (xs.foldl Nat.min x))), false)

/-- The result of a multicast (R390). -/
def Mcast.word (m : Mcast) : Word := BitVec.ofNat 64 (m.stored + m.refused * 2 ^ 8)

/-- A multicast has passed its last hop: xD is written (R390). -/
def State.mcastDone (s : State) (m : Mcast) : State :=
  let t := s.setMcast m.seq none
  match m.result with
  | some n => t.formWrite m.ctx n (m.word.setWidth 512)
  | none => t

/-- The cores of a cluster, numbered by die × 24 + cluster (R6). -/
def inCluster (n : Nat) (c : BitVec 12) : Bool := decide (c.toNat / 32 = n)

/-- Another multicast of this core is in the multicast buffer of core `c` (R390). -/
def State.bufferTaken (s : State) (m : Mcast) (c : BitVec 12) : Bool :=
  s.core.mcasts.any fun u => decide (u.seq ≠ m.seq) && decide (u.holds = some c)

/-- MCAST_HOP (R390): the tile reaches its next target, whose multicast buffer it then holds in place of the last one's; until that is free, and
what the multicast comes after is performed, it waits. The chain stops at a target in a cluster that has been reset, as `refused` or this core's own
state says, and no target from there on is reached (R396). -/
def execMcastHop (ctx : Fin 11) (seq : Nat) (refused : Bool) (s : State) : Outcome :=
  .next (match s.core.mcasts.find? fun m => decide (m.seq = seq) && decide (m.ctx = ctx) with
    | none => s
    | some m =>
      match m.targets with
      | [] => s.mcastDone m
      | c :: cs =>
        if refused ∨ m.resets.any (inCluster · c) then
          (s.mcastDone { m with refused := m.refused + laneMask ((List.range m.targets.length).map (m.index + ·)) }).wake
        else if (s.accs.any fun a => decide (a.seq ∈ m.after)) ∨ s.bufferTaken m c then s.setMcast seq (some { m with held := true })
        else
          let data := m.data.getD (s.unitRead m.src (64 * m.lines))
          match s.mcastStore (s.sourceOf m.ctx) m.id m.group m.doff c data with
          | (t, ok) =>
            let m' := { m with data := some data, targets := cs, index := m.index + 1, holds := some c,
                               stored := m.stored + (if ok then 1 else 0), refused := m.refused + (if ok then 0 else 2 ^ m.index) }
            (if cs.isEmpty then t.mcastDone m' else (t.setMcast seq (some m')).post (.mcastHop ctx seq false)).wake)

/-! ## Timed sends (R391) -/

/-- The exchange counter XC (R391). -/
def State.xc (s : State) : Nat := (s.cycle - s.bar.xcBase) / 2

/-- The slot fault's DETAIL (R391). -/
def slotDetail (slot : BitVec 13) (bit xc : Nat) : BitVec 32 := BitVec.ofNat 32 (slot.toNat + 2 ^ bit + Nat.min xc 65535 * 2 ^ 16)

/-- The 64 bytes of a timed send leave on their path, unless the pair's words differ at the network interface (R163, R391);
they reach both cores of a pair (R160). -/
def State.timedSend (s : State) (dest : Word) (v : Vec) : State :=
  let data := bytesOfNat v.toNat 64
  let t := s.sign dest.toNat 64 data
  if t.job.redun ∧ t.core.upset then t.modCore fun c => { c with upset := false, withheld := true }
  else
    let u := t.poke t.source (scratchKey (natBits dest.toNat 55 44) (natBits dest.toNat 18 0)) data
    if t.job.redun then u.poke t.source (scratchKey (natBits dest.toNat 55 44 ^^^ 1) (natBits dest.toNat 18 0)) data else u

/-- SENDT (R384, R391). -/
def execSendt (sw : Bool) (d a : BitVec 5) (slot : BitVec 13) (s : State) : Outcome :=
  .next (s.issue [.v d, .x a] [] fun s =>
    if s.job.superstep = false ∨ s.exchange = false then s.phaseViolation
    else
      match s.job.xsched.find? fun e => decide (e.slot = slot) with
      | none => s.trapHere 0x12 (slotDetail slot 14 s.xc) 0
      | some e =>
        if s.xc ≠ e.t then s.trapHere 0x12 (slotDetail slot 13 s.xc) 0
        else if s.readX a ≠ e.dest then s.trapHere 0x12 (slotDetail slot 15 s.xc) 0
        else (s.timedSend e.dest (s.readV d)).retire sw 4)

/-! ## Status (R398) -/

/-- RST (R388). -/
def PortState.code : PortState → Nat
  | .closed => 0 | .opened => 1 | .route => 2 | .aborted => 3

/-- What PSTAT reads (R398). -/
def State.pstat (s : State) (n : BitVec 2) : Word :=
  let b := s.binding
  let p := s.port n
  BitVec.ofNat 64 (b.sst.toNat * 2 ^ 62 + b.words * 2 ^ 53 + b.core.toNat * 2 ^ 41 + b.port.toNat * 2 ^ 39 + p.state.code * 2 ^ 34
    + p.rctx.val * 2 ^ 30 + p.rsrc.toNat * 2 ^ 18 + p.rw * 2 ^ 9 + Nat.min p.waiting 64)

/-- PSTAT (R398). -/
def execPstat (sw : Bool) (d : BitVec 5) (n : BitVec 2) (s : State) : Outcome :=
  .next (s.issue [] [.x d] fun s => (s.writeX d (s.pstat n) 2).retire sw 4)

/-! ## The mesh and reserved paths (R13, R14, R432) -/

/-- The places of a die's mesh, 8 columns of 6 rows, in the order in which its nodes take them (R14; log 41). -/
def meshOrder (die : Nat) : List Nat := (List.range 48).insertionSort fun a b => Config.meshRank die a ≤ Config.meshRank die b

/-- The place of a cluster's node, of its die's 24. -/
def clusterPlace (die cluster : Nat) : Nat := (meshOrder die).getD cluster 0

/-- The place of a fabric-interface node: 0 serves the horizontal die-to-die interface, and 1 the vertical one (R13, R14). -/
def fabricPlace (die i : Nat) : Nat := (meshOrder die).getD (40 + i) 0

/-- The cluster of a core, of its die's 24 (R6). -/
def clusterOf (core : Nat) : Nat := core / 32 % 24

/-- The node of a core's cluster, by die × 48 + place. -/
def nodeOf (core : Nat) : Nat := core / 768 * 48 + clusterPlace (core / 768) (clusterOf core)

/-- The outputs between two places, each by the place and the side that it leaves on: along the row first, and then along the column (R432). -/
def meshHops (a b : Nat) : List (Nat × Nat) :=
  let y := a / 8
  (if a % 8 ≤ b % 8 then (List.range (b % 8 - a % 8)).map fun i => (a + i, 2) else (List.range (a % 8 - b % 8)).map fun i => (a - i, 4))
    ++ (if y ≤ b / 8 then (List.range (b / 8 - y)).map fun i => (8 * (y + i) + b % 8, 3)
        else (List.range (y - b / 8)).map fun i => (8 * (y - i) + b % 8, 1))

/-- What a flit holds: an output or a port, from one network cycle to another. -/
structure Hold where
  output : Nat
  first : Nat
  past : Nat
  deriving DecidableEq, Repr

/-- The number of a node's output: sides 1 to 4 (R393), and 6 for a die-to-die interface. -/
def outputOf (die place side : Nat) : Nat := (die * 48 + place) * 8 + side

/-- The number of a core's local port. -/
def portOf (core : Nat) : Nat := 2 ^ 16 + core

/-- The outputs that a flit holds between two places of a die from network cycle `t` on, one in each cycle (R432). -/
def holdsWithin (die a b t : Nat) : List Hold :=
  (meshHops a b).mapIdx fun k h => { output := outputOf die h.1 h.2, first := t + k, past := t + k + 1 }

/-- What a flit holds from a place of a die to another die's interface node, with the network cycle in which it is there: the die-to-die
interface is one output, and holds the flit for 60 network cycles (R399, R432; log 41). -/
def holdsAcross (die a i t : Nat) : List Hold × Nat :=
  let f := fabricPlace die i
  let u := t + (meshHops a f).length
  (holdsWithin die a f t ++ [{ output := outputOf die f 6, first := u, past := u + 60 }], u + 60)

/-- The reserved path of a timed send from network cycle `t` on (R432): the horizontal boundary is crossed before the vertical one (R13), and
the destination's local port comes last. Within a cluster the flit passes the local switch only. -/
def pathOf (src dst t : Nat) : List Hold :=
  if src / 32 = dst / 32 then [{ output := portOf dst, first := t, past := t + 1 }]
  else
    let d := src / 768
    let a := clusterPlace d (clusterOf src)
    let e := dst / 768
    let across := decide (d % 2 ≠ e % 2)
    let down := decide (d / 2 ≠ e / 2)
    let m := if across then d ^^^ 1 else d
    let h := if across then holdsAcross d a 0 t else ([], t)
    let b := if across then fabricPlace m 0 else a
    let v := if down then holdsAcross m b 1 h.2 else ([], h.2)
    let c := if down then fabricPlace e 1 else b
    let z := clusterPlace e (clusterOf dst)
    let last := v.2 + (meshHops c z).length
    h.1 ++ v.1 ++ holdsWithin e c z v.2 ++ [{ output := portOf dst, first := last, past := last + 1 }]

/-- Two flits need one output or local port in one network cycle (R432). -/
def Hold.clashes (a b : Hold) : Bool := decide (a.output = b.output) && decide (a.first < b.past) && decide (b.first < a.past)

/-- Some two of the holds clash. -/
def anyClash : List Hold → Bool
  | [] => false
  | h :: hs => hs.any h.clashes || anyClash hs

/-! ## Arbitration (R392, R393) -/

/-- The class that a timed flit on its reserved path is given here; traffic has classes 0 to 23 (R392, R393). -/
def timedClass : Nat := 24

/-- The number of a request's input buffer. -/
def reqBuffer (r : RouterReq) : Nat := r.node.toNat * 8 + r.input.toNat

/-- The number of the output that it asks for. -/
def reqOut (r : RouterReq) : Nat := r.node.toNat * 8 + r.output.toNat

/-- The better of two requests under R393, neither counter being saturated. -/
def betterReq (ages : List (Nat × Nat)) (a b : RouterReq) : RouterReq :=
  let age (r : RouterReq) : Nat := Sparse.get 0 ages (reqBuffer r)
  if b.cls < a.cls then a
  else if a.cls < b.cls then b
  else if age b < age a then a
  else if age a < age b then b
  else if a.input ≤ b.input then a else b

/-- The winner of an output's arbitration (R393), and whether it won by saturation. -/
def arbitrate (ages : List (Nat × Nat)) (reqs : List RouterReq) : Option (RouterReq × Bool) :=
  match (reqs.filter fun r => decide (63 ≤ Sparse.get 0 ages (reqBuffer r))).insertionSort fun a b => a.input.toNat ≤ b.input.toNat with
  | r :: _ => some (r, true)
  | [] =>
    match reqs with
    | [] => none
    | r :: rs => some (rs.foldl (betterReq ages) r, false)

/-- The ageing counters after an arbitration (R393). -/
def ageAll (reqs : List RouterReq) (winner : RouterReq) (ages : List (Nat × Nat)) : List (Nat × Nat) :=
  reqs.foldl (fun l r =>
    Sparse.set 0 l (reqBuffer r) (if r.input = winner.input then 0 else Nat.min (Sparse.get 0 l (reqBuffer r) + 1) 63)) ages

/-- One output's arbitration in a network cycle (R392, R393): the flit of a timed send takes its output without arbitration. A win by
saturation is counted by the cores of the node's cluster (R420; log 106). -/
def State.arbitrateOutput (s : State) (reqs : List RouterReq) : State :=
  let won (r : RouterReq) : List (Nat × BitVec 3) := s.dev.winners ++ [(reqOut r, r.input)]
  match reqs.find? fun r => decide (r.cls = timedClass) with
  | some r => { s with dev := { s.dev with winners := won r } }
  | none =>
    match arbitrate s.dev.ages reqs with
    | none => s
    | some (w, saturated) =>
      let t := { s with dev := { s.dev with ages := ageAll reqs w s.dev.ages, winners := won w } }
      if saturated && decide (w.node.toNat = nodeOf s.core.num.toNat) then t.count 14 else t

/-- ROUTER_ARBITRATION (R392, R393): the requests at router outputs in one network cycle, each output arbitrating its own. Bypass and
injection change only timing (R394, R395). -/
def execRouterArbitration (reqs : List RouterReq) (s : State) : Outcome :=
  let rs := reqs.filter fun r => decide (r.input.toNat < 5)
  .next ((rs.map reqOut).dedup.foldl (fun t o => t.arbitrateOutput (rs.filter fun r => decide (reqOut r = o)))
    { s with dev := { s.dev with winners := [] } })

end Sys2Proof.Machine
end

