-- ==== Sys2Proof/Machine/Ending.lean ====
section
/-! DEFINITION. Ending a context, a core's share of a job, and a job (R134, R137, R406, R412, R416). -/

namespace Sys2Proof.Machine

/-! ## HEND and END (R134, R137) -/

/-- What HEND and END wait for: the context's stores, atomics, multicasts, engine commands, TLBINVs and matrix commands (R134, R331, R389). -/
def State.endWaits (s : State) : Bool :=
  (s.core.mcasts.any fun m => decide (m.ctx = s.cur)) || (s.accs.any fun a => decide (a.ctx = s.cur) && a.op.writes)
    || (s.core.chans.toList.any fun q => q.cmds.any fun c => decide (c.ctx = s.cur))
    || decide (s.core.matrix.pending s.cur ≠ 0) || !s.ctx.tlbinvs.isEmpty

/-- The residue fault of a command that HEND or END awaits (R344). -/
def State.residueHere (s : State) : Option TrapInfo :=
  if s.ctx.inTrap = false then s.ctx.deferred.find? fun t => decide (t.cause = 0x0D) else none

/-- HEND or END goes on once everything that it awaits is done; a residue fault of an awaited command is raised precisely at it,
and the context does not end: TRAPREC1 and TRAPREC2 hold its address (R140, R344; log 119). -/
def State.awaitEnd (s : State) (k : State → State) : State :=
  match s.residueHere with
  | some t => (s.modCtx fun c => { c with deferred := c.deferred.erase t }).raise { t with next := false, ret := s.pc, iaddr := s.pc }
  | none => if s.endWaits then s.block .other 0 0 else k s

/-- The context issues nothing more; `e` is the event with which it stops. -/
def State.beginEnd (s : State) (e : Instr) : State :=
  (s.modCtx fun c => { c with ending := true, wait := none }).post e

/-- HEND (R134). -/
def execHend (_sw : Bool) (s : State) : Outcome :=
  .next (s.issue [] [] fun s =>
    if s.cur = 0 ∨ s.ctx.send.sst = 2 then s.illegal
    else s.awaitEnd fun s => s.beginEnd (.helperStops s.cur))

/-- END (R137): after the helpers, a weave in progress (R349; one that some core has not armed yet is broken by it, R357) and
context 0's own accesses, and the comparison of a pair (R161). One at the end word of an active loop is refused (R130). -/
def execEndCore (_sw : Bool) (s : State) : Outcome :=
  .next (s.issue [] [] fun s => s.transfer 4 fun s =>
    if s.cur ≠ 0 then s.illegal
    else if s.job.superstep ∧ s.ctx.afterSync = false then s.phaseViolation
    else if s.anyHelperLive then s.block .other 0 0
    else if s.core.loom.running ∨ s.loomArmed then s.block .other 0 0
    else s.awaitEnd fun s => s.compareSigs (fun s => s.redundancyAbort 0) fun s => s.beginEnd .coreFree)

/-! ## A context stops (R134, R385) -/

/-- A port whose receiving context ends closes: its words are discarded, and an open route into it is aborted (R385, R396). -/
def State.closePort (n : Fin 11) (s : State) (p : BitVec 2) : State :=
  if (s.port p).state ≠ .closed ∧ (s.port p).rctx = n then
    let t := match s.routeSender p with
      | some c => s.modCtxAt c fun x => { x with send := x.send.abort }
      | none => s
    (t.modPort p fun x => { Port.closed with owed := x.owed + x.given, requests := x.requests }).postReclaim p (s.port p).given
  else s

/-- A context without anything outstanding, no longer live; its registers keep their values. -/
def Ctx.stopped (c : Ctx) : Ctx :=
  { c with live := false, ending := false, parked := false, paused := false, wait := none, trapping := none, deferred := [],
           writes := [], slots := Ctx.reset.slots, landed := [], order := [], taints := [], inTaint := [], badLanes := [],
           icinv := none, send := Ctx.reset.send, range := none, frame := [] }

/-- Context `n` stops being live: loads still outstanding are discarded (R134), and its ports close (R385). -/
def State.stopCtx (s : State) (n : Fin 11) : State :=
  let t := ([0, 1, 2, 3] : List (BitVec 2)).foldl (State.closePort n) (s.flushTakes n)
  { t with
    ctxs := t.ctxs.set n.val (t.ctxs.get n).stopped n.isLt,
    accs := t.accs.filter fun a : Acc => !(decide (a.ctx = n) && (match a.op with
      | .load _ _ => true | .tagged _ => true | .fullBit _ => true | _ => false)) }

/-- The terms whose held start names helper `n` of this core (R274). -/
def State.heldFor (s : State) (n : Fin 11) : List Instr :=
  ((List.finRange 16).filter fun i =>
    let t := s.clu.terms.get i
    t.pend && decide (natBits t.cfg.toNat 45 42 = n.val) && decide (natBits t.cfg.toNat 39 35 = s.position)).map fun i =>
      Instr.heldHelperStart (BitVec.ofNat 4 i.val)

/-- HELPER_STOPS (R134, R135): everything the helper awaited is done, and it stops being live; a start held for it may run
(R274). -/
def execHelperStops (ctx : Fin 11) (s : State) : Outcome :=
  .next (if (s.ctxAt ctx).ending then
      let t := (s.stopCtx ctx).wake
      { t with agenda := t.agenda ++ t.heldFor ctx }
    else s)

/-! ## The job completes (R406, R412, R416) -/

/-- JOB_COMPLETES (R406): every write of the job is performed, then its record is written, STATUS last. -/
def State.completeJob (s : State) : State := ((State.finishWrites s.accs s).flushAllTakes.endRecord 1 0).releaseJob

/-- Every other core of the job is known to have executed END: those of the pair and of the cluster (log 34). -/
def State.othersEnded (s : State) : Bool :=
  s.job.cores.all fun c => decide (c = s.core.num) || (s.job.redun && decide (c = s.core.num ^^^ 1))
    || s.clu.ended.any fun e => decide (s.clusterCore e.pos = c) && decide (e.since ≤ s.cycle)

/-- The core's share has ended: it leaves its gang and its loom, and releases the stationary pair (R137, R337, R349). -/
def State.endShare (s : State) : State :=
  let t := (s.stopCtx 0).modCore fun k =>
    { k with gang := none, loom := Loom.reset, matrix := { k.matrix.release with ownIssue := false, shadowIssued := none, liveIssued := none } }
  { t with job := { t.job with ended := true } }

/-- CORE_FREE (R137): this core's END completes, and the job with it when that was the last. Coming after it, the event says that
the last END of the job's other cores has completed; else the inbox names a job of other cores that completes (log 40). -/
def execCoreFree (s : State) : Outcome :=
  .next (if (s.ctxAt 0).ending then
      let t := s.endShare
      if t.othersEnded then t.completeJob else t.wake
    else if s.job.running ∧ s.job.ended then s.completeJob
    else
      match s.inbox with
      | r :: rs =>
        match s.dev.jobs.find? fun j => !j.saved && decide (j.job.jobid.toNat = r.addr) with
        | some j => { s with inbox := rs }.endOther j r.value 1 0
        | none => s
      | [] => s)

end Sys2Proof.Machine
end

