-- ==== Sys2Proof/Machine/Eviction.lean ====
section
/-! DEFINITION. Saving and restoring an evicted core (R153, R155, R227, R228, R345), accesses of other cores and RETRY (R154,
R376, R431), and the loss of a die or a cluster (R159, R396). -/

namespace Sys2Proof.Machine

/-! ## The save (R153) -/

/-- A tagged load. -/
def AccOp.isTagged : AccOp → Bool
  | .tagged _ => true
  | _ => false

/-- What the save waits for: contexts at a boundary (R152), every access but tagged loads and those being sent again, started
engine and matrix commands (R259, R345), multicasts, open routes into the core (R397), and what other cores' operations have begun here (R286,
R378). -/
def State.saveWaits (s : State) : Bool :=
  (s.ctxs.toList.any fun c => c.live && (c.mustRun || c.ending))
    || (s.accs.any fun a => !a.op.isTagged && a.retry.isNone)
    || (s.core.chans.toList.any fun q => q.cmds.any (·.started))
    || (match s.core.matrix.queue with | c :: _ => c.finished || decide (0 < c.steps) | [] => false)
    || !s.core.unit.isEmpty || (s.halves.any fun h => s.within .core h.key) || !s.core.mcasts.isEmpty || s.core.ports.toList.any fun p => decide (p.state = .route)

/-- Tagged loads are still on their way, or have yet to land their data or marker (R227). -/
def State.landing (s : State) : Bool := s.ctxs.toList.any fun c => allTags.any fun t => decide ((c.slot t).state = .pending)

/-- A context as it is saved: every formed write has arrived, a waiting instruction will be executed again (R152), the rest of a
pause is dropped (R151), and the words of a repeat frame are to be fetched again (R61). -/
def Ctx.saved (c : Ctx) : Ctx :=
  { Ctx.performAll (fun w => decide (w.need = 0)) c.writes c with
    wait := none, icinv := none, nextIssue := if c.paused then 0 else c.nextIssue, paused := false,
    refetch := c.refetch || !c.frame.isEmpty, frame := [] }

/-- Whether a home key lies in the scratchpad of one of some cores. -/
def inScratch (cores : List (BitVec 12)) (k : Nat) : Bool :=
  decide (Config.scratchBase ≤ k) && decide (k < Config.scratchBase + Config.cores * Config.scratchBytes)
    && decide (BitVec.ofNat 12 ((k - Config.scratchBase) / Config.scratchBytes) ∈ cores)

/-- An event that the save keeps: not its own, nor a landing whose load will be made again (R227). -/
def savedEvent : Instr → Bool
  | .coreSave => false
  | .landingSetDrainBound => false
  | .slotLands _ _ => false
  | .teardownCompletes _ => false
  | e => ofJob e

/-- What the save areas hold once a core is saved: the device's own layout of what it streams there (R153, R185; log 87). -/
def State.fillSaveArea (s : State) : State :=
  let bytes (n : Nat) : List Byte := (List.range n).map (Config.saveByte s.cycle)
  let claims := s.job.claims.filter fun c => decide (c.kind = .save)
  let m := s.job.cores.foldl (fun m k => claims.foldl (fun m c => Memory.write m (scratchKey k.toNat c.off) (bytes c.bytes)) m) s.mem
  { s with mem := Memory.write m (hbmKey s.job.save.toNat) (bytes s.job.saveLen) }

/-- What the save holds (R153): the kept tile has been drained, ownership of the pair is released (R345), and no take or request
of the core is on a list any more (R291). -/
def State.savedJob (s : State) : Saved :=
  { ctxs := mapVec Ctx.saved s.ctxs,
    core := { s.core with
      drained := false, ports := mapVec (fun p : Port => { p with requests := [] }) s.core.ports,
      matrix := { s.core.matrix with own := false } },
    job := { s.job with evicted := false }, bar := s.bar, clu := s.clu, scratch := s.mem.filter fun x => inScratch s.job.cores x.1,
    full := s.full, filler := s.filler, regions := s.regions, revmap := s.revmap, drapers := s.drapers,
    accs := s.accs.filter fun a => !a.op.isTagged, agenda := s.agenda.filter savedEvent, owned := s.core.matrix.own,
    since := s.cycle }

/-- CORE_SAVE (R153): the steps of the save, once what it waits for is done; the landing set is drained first (R227). A job that is to be
ABORTED is not saved (R414). -/
def execCoreSave (s : State) : Outcome :=
  .next (if s.job.running = false ∨ s.job.evicted = false ∨ s.job.ended ∨ s.job.stopping ∨ s.saveWaits then s
    else if s.landing ∧ s.core.drained = false then
      (if .landingSetDrainBound ∈ s.agenda then s else s.post .landingSetDrainBound)
    else
      let t := s.drainOutside.fillSaveArea
      { t.idle with job := Job.none, evicted := t.evicted ++ [t.savedJob], agenda := t.idle.agenda ++ [.restore] })

/-- LANDING_SET_DRAIN_BOUND (R227): slots that are still pending are saved to be loaded again. -/
def execLandingSetDrainBound (s : State) : Outcome :=
  .next (if s.job.evicted then (s.modCore fun c => { c with drained := true }).post .coreSave else s)

/-! ## The restore (R155, R228, R345) -/

/-- The stationary pair is to be taken again, once no other core owns it, and its planes are then filled (R345). -/
def State.retakePair (s : State) (owned : Bool) : State :=
  if owned then s.modCore fun c => { c with matrix := { c.matrix with own := false, retake := true } } else s

/-- Every context's pending slots are loaded again. -/
def State.relaunchAll (s : State) : State :=
  ((List.finRange 11).foldl (fun t n => (t.focus n).relaunchSlots) s).focus s.cur

/-- A context as it is restored: it issues from the next cycle on at the earliest, and its landed slots come before every slot that lands from now
on (R228). -/
def Ctx.restored (cycle : Nat) (c : Ctx) : Ctx :=
  { c with nextIssue := Nat.max c.nextIssue (cycle + 1), slots := mapVec (fun x : Slot => { x with since := 0 }) c.slots }

/-- The job's state is back in the core, the scratchpads first; the exchange counter goes on from where it stood (log 44), and who else owns the
stationary pair is as it is now (R345). -/
def State.putBack (s : State) (x : Saved) : State :=
  { s with
    ctxs := mapVec (Ctx.restored s.cycle) x.ctxs,
    core := { x.core with
      counters := s.core.counters, num := s.core.num, last := s.core.last,
      matrix := { x.core.matrix with otherOwner := s.core.matrix.otherOwner } },
    job := x.job,
    bar := { x.bar with xcBase := x.bar.xcBase + (s.cycle - x.since + 1) / 2 * 2 }, clu := x.clu,
    mem := Memory.writeCells x.scratch (s.mem.filter fun c => !inScratch x.job.cores c.1),
    full := x.full, filler := x.filler, takers := [], regions := x.regions, revmap := x.revmap, drapers := x.drapers,
    accs := x.accs.map fun a : Acc => { a with retry := none, held := false },
    evicted := s.evicted.erase x,
    agenda := s.agenda ++ x.agenda ++ (x.accs.filter fun a => a.retry.isSome || a.held).flatMap Acc.events }

/-- The job is back: accesses still to be made are sent first (R431), the commands kept are reissued in order (R259, R345), and the landing sets are
loaded again (R228). -/
def State.restored (s : State) (x : Saved) : State :=
  let t := ((s.putBack x).retakePair x.owned).relaunchAll
  { t with agenda := t.agenda ++ t.core.matrix.next
      ++ ((List.finRange 5).filter fun q => !(t.core.chans.get q).cmds.isEmpty).map Instr.commandStart }

/-! ## RETRY and accesses of other cores (R154, R431) -/

/-- RETRY_RESEND (R154): the access is sent again, unless the core has been given to another job by then (R431). -/
def execRetryResend (seq : Nat) (s : State) : Outcome :=
  .next (match s.accs.find? fun a => decide (a.seq = seq) && a.retry.isSome with
    | some a =>
      ({ s with accs := s.accs.map fun u : Acc => if u.seq = seq then { u with retry := none } else u }).tryAcc
        { a with retry := none }
    | none => s)

/-- The first byte that a remote access names, as an offset into the scratchpad. -/
def RemoteOp.off : Sys2Proof.RemoteOp → Nat
  | .read o _ => o
  | .write o _ => o
  | .atomic o _ _ _ _ => o
  | .ftake o _ => o
  | .fput o _ _ => o
  | .finit o _ _ => o
  | .phins t _ _ => t
  | .phdel t _ _ => t
  | .phprb t _ _ => t
  | .phacc t _ _ _ => t

/-- The address that names a scratchpad byte of this core in the remote-scratchpad form (R245). -/
def State.remoteAddr (s : State) (off : Nat) : Word := BitVec.ofNat 64 (2 ^ 63 + s.core.num.toNat * 2 ^ 44 + off % 0x80000)

/-- Another core's atomic at this core's banks (R286): one of the cluster's unit comes after those that have read there and not written, and writes
some time after its own read. On uncorrectable data it is not performed, and logged (R197). -/
def State.remoteAtomic (s : State) (core : BitVec 12) (off : Nat) (f : AtomicOp) (t : AtomicTy) (b : Word) (clu : Bool) : State :=
  let key := scratchKey s.core.num.toNat (off % Config.scratchBytes)
  let n := atomicBytes t
  let s := if clu then s.finishUnits key n else s
  match s.badAt key n with
  | some src => (s.logEntry true 2 0x18 core.toNat (badDetail true src) (s.remoteAddr off)).answer []
  | none =>
    let old := natOfBytes (s.peek key n)
    let new := bytesOfNat (atomicFn f t old (b.toNat % 2 ^ atomicBits t)) n
    (if clu then s.addHalf core.toNat key new else s.poke core.toNat key new).answer (bytesOfNat old n)

/-- The access is performed at this core's banks, or comes to its pigeonhole unit (R289, R302, R376). -/
def State.remoteOp (s : State) (core : BitVec 12) (jobid : BitVec 32) (op : Sys2Proof.RemoteOp) : State :=
  let key (o : Nat) : Nat := scratchKey s.core.num.toNat (o % Config.scratchBytes)
  match op with
  | .read o n => s.answer (s.unitRead (key o) n)
  | .write o d => s.poke core.toNat (key o) d
  | .atomic o f t b clu => s.remoteAtomic core o f t b clu
  | .ftake o c =>
    if s.isFull (key o) then (s.setFull (key o) false).answer (s.peek (key o) 8)
    else if (s.takers.filter fun e => decide (e.key / Config.scratchBytes = key o / Config.scratchBytes)).length < 64 then
      { s with takers := s.takers ++ [{ core, ctx := c, key := key o }] }
    else s
  | .fput o c v => if s.isFull (key o) then s.answer [] else s.fputAt (core.toNat + c.val * 2 ^ 12) (key o) (core.toNat * 16 + c.val) v
  | .finit o v b => s.finitAt core.toNat (key o) v b
  | op => s.unitAccess core jobid op

/-- Every context of an evicted core has stopped, and every route into it has closed: the save is under way (R152, R397). -/
def State.saveBegun (s : State) : Bool :=
  s.job.evicted && !(s.ctxs.toList.any fun c => c.live && (c.mustRun || c.ending))
    && !(s.core.ports.toList.any fun p => decide (p.state = .route))

/-- A pigeonhole operation of another core has come to this core's unit, and is not done (R376). -/
def State.unitHas (s : State) (core : BitVec 12) (jobid : BitVec 32) (op : RemoteOp) : Bool :=
  s.core.unit.any fun u => decide (u.core = core) && decide (u.jobid = jobid) && decide (u.op = op)

/-- REMOTE_ACCESS (R154, R431): an access of another core reaches this core's router. It is performed for the job that holds the
core, answered with RETRY while the core is saved, and refused and logged once another job holds the core. The first step of the
save comes when every context has stopped, and every open route has closed; a pigeonhole operation that came before it is done
first (R378). -/
def execRemoteAccess (core : BitVec 12) (jobid : BitVec 32) (op : RemoteOp) (s : State) : Outcome :=
  .next (if s.job.running ∧ s.job.jobid = jobid then
      (if s.saveBegun ∧ s.unitHas core jobid op = false then s.count 13 else (s.remoteOp core jobid op).wake)
    else if s.job.running = false ∧ (s.evicted.any fun x => decide (x.job.jobid = jobid)) then s.count 13
    else (s.logAbout jobid 1 0x03 core.toNat 5 (s.remoteAddr (RemoteOp.off op))).answer [])

/-! ## Jobs that end elsewhere (R412, R414) -/

/-- Jobs on other cores are ABORTED (R414; log 40). -/
def State.abortOthers (reason : Nat) : List OtherJob → State → State
  | [], s => s
  | j :: js, s => State.abortOthers reason js (s.endOther j (Config.otherSstep j.job.jobid s.cycle) 3 reason)

/-- An evicted job ends as ABORTED: the tags that its contexts have taken and not yet recorded go to the trace ring, and its record is
written (R226, R414). -/
def State.abortEvicted (s : State) (x : Saved) (reason : Nat) : State :=
  let t := ({ s with ctxs := x.ctxs, job := x.job, bar := x.bar } : State).flushAllTakes.endRecord 3 reason
  { s with mem := t.mem, dev := t.dev }

/-- Evicted jobs are ABORTED (R414). -/
def State.abortSaved (reason : Nat) : List Saved → State → State
  | [], s => s
  | x :: xs, s =>
    State.abortSaved reason xs
      ({ s with evicted := s.evicted.erase x }.abortEvicted x reason)

/-! ## The loss of a die or a cluster (R159, R396) -/

/-- The cores of a die. -/
def onDie (die : BitVec 2) (c : BitVec 12) : Bool := decide (c.toNat / 768 = die.toNat)

/-- The job cannot go on without a die: it has no index space, or no core left (R159). -/
def Job.endsWith (j : Job) (die : BitVec 2) : Bool :=
  j.cores.any (onDie die) && (j.superstep || decide (j.space.grain = 0) || j.cores.all (onDie die))

/-- The job goes on without the cores of a die: the ranges that those hold are handed out again (R159). -/
def Job.without (j : Job) (die : BitVec 2) (cycle : Nat) : Job :=
  let i := IndexSpace.settle cycle j.space.takes j.space
  let lost := i.taken.filter fun x => onDie die x.1
  { j with
    cores := j.cores.filter fun c => !onDie die c,
    space := { i with pool := i.pool ++ lost.map (fun x => (x.2.2.1, x.2.2.2)),
                      taken := i.taken.filter fun x => !onDie die x.1,
                      takes := i.takes.filter fun x => !onDie die x.core } }

/-- That, where the job has cores there. -/
def Job.leaves (j : Job) (die : BitVec 2) (cycle : Nat) : Job := if j.cores.any (onDie die) then j.without die cycle else j

/-- A job as one of other cores, with what it has reserved. -/
def otherJob (j : Job) (ctxs : Vector Ctx 11) (scratch : Option (List Host.Cell)) (groups : List Nat) (regions drapers : List Nat) : OtherJob :=
  { job := j, saved := scratch.isSome, scratch := scratch.getD [], tookFree := ctxs.toList.any (·.tookFree), groups, regions, drapers }

/-- The job that holds the core goes on without it, on other dies (R159; log 40). -/
def State.leaveJob (s : State) (die : BitVec 2) : State :=
  let t := s.releaseJob
  { t with
    job := Job.none,
    dev := { t.dev with jobs := t.dev.jobs ++
      [otherJob (s.job.without die s.cycle) s.ctxs none s.bar.held (s.regions.map (·.1)) (s.drapers.map (·.1))] } }

/-- An evicted job that held this core and has lost it with its die is one of other cores from here on (R159; log 40). -/
def Saved.leave (x : Saved) (die : BitVec 2) (cycle : Nat) : OtherJob :=
  otherJob (x.job.without die cycle) x.ctxs (some x.scratch) x.bar.held (x.regions.map (·.1)) (x.drapers.map (·.1))

/-- The jobs of the device that do not hold the core go on without a lost die, or are ABORTED (R159). -/
def State.othersLose (s : State) (die : BitVec 2) : State :=
  let t := State.abortSaved 5 (s.evicted.filter fun x => x.job.endsWith die)
    (State.abortOthers 5 (s.dev.jobs.filter fun j => j.job.endsWith die) s)
  let gone := t.evicted.filter fun x => onDie die t.core.num && x.job.cores.any (onDie die)
  { t with
    evicted := (t.evicted.filter (· ∉ gone)).map fun x => { x with job := x.job.leaves die s.cycle },
    dev := { t.dev with
      jobs := (t.dev.jobs.map fun j : OtherJob => { j with job := j.job.leaves die s.cycle }) ++ gone.map fun x => x.leave die s.cycle } }

/-- DIE_FENCED (R159): ranges held on the lost die are handed out again. A job without an index space that has cores there is
ABORTED; one with an index space goes on where it has cores left, without this core when its own die is lost (R412). So it is with evicted jobs and
those of other cores. -/
def execDieFenced (die : BitVec 2) (s : State) : Outcome :=
  .next (
    let t := { s with dev := { s.dev with fencedDies := if die ∈ s.dev.fencedDies then s.dev.fencedDies else s.dev.fencedDies ++ [die] } }.othersLose die
    if t.job.running = false ∨ ¬ (t.job.cores.any (onDie die)) then t
    else if t.job.endsWith die then t.abortJob 5
    else if t.die = die.toNat then t.leaveJob die
    else { t with job := t.job.without die t.cycle })

/-- A reset of another cluster reaches this core (R396): routes from there into a port become ABORTED, and so do bindings with a
packet open to it; a multicast chain stops at its first target there. -/
def State.resetOther (s : State) (n : Nat) : State :=
  let t := s.modCore fun c =>
    { c with
      ports := mapVec (fun p : Port => if p.state = .route ∧ inCluster n p.rsrc then p.abortRoute else p) c.ports,
      mcasts := c.mcasts.map fun m : Mcast => { m with resets := n :: m.resets } }
  let reclaims : List Instr := (([0, 1, 2, 3] : List (BitVec 2)).filter fun i =>
      decide ((s.port i).state = .route) && inCluster n (s.port i).rsrc && decide (0 < (s.port i).given)).map fun i =>
    .reclaimMessage i (s.port i).given
  ({ t with
    ctxs := mapVec (fun c : Ctx => if inCluster n c.send.core then { c with send := c.send.abort } else c) t.ctxs,
    agenda := reclaims ++ t.agenda }).wake

/-- CLUSTER_RESET (R396, R412, R428): the inbox names the cluster. The job of a core of that cluster is ABORTED with REASON 5, its engine commands
with STATUS 10 (R259); a core of the job in another cluster first sees its routes end, and is told with `n` ≠ 0 that the job ends (log 43). -/
def execClusterReset (s : State) : Outcome :=
  .next (s.withReq fun r s =>
      let t := State.abortOthers 5 (s.dev.jobs.filter fun j => !j.saved && j.job.cores.any (inCluster r.addr)) s
      if t.job.running = false ∨ ¬ (t.job.cores.any (inCluster r.addr)) then t
      else if inCluster r.addr t.core.num ∨ r.n ≠ 0 then t.abortCmds.abortJob 5
      else t.resetOther r.addr)

end Sys2Proof.Machine
end

