-- ==== Sys2Proof/Machine/Launch.lean ====
section
/-! DEFINITION. Launch packets and resource blocks, their refusal, placement, and the start of a job (R156, R157, R407 to R413,
R415, R432). -/

namespace Sys2Proof.Machine

/-! ## The packet (R407) and the resource block (R408) -/

/-- The fields of a launch packet (R407), with the JOBID that it takes (R412). -/
structure Packet where
  jobid : BitVec 32
  dword0 : Nat
  code : Word
  arg : Word
  compl : Word
  res : Nat
  deps : Nat
  trapvec : Word
  root : Word
  deriving DecidableEq, Repr

/-- The packet that 64 bytes give, at an index of a queue. -/
def packetOf (q : Nat) (i : BitVec 32) (bs : List Byte) : Packet :=
  { jobid := BitVec.ofNat 32 (q * 2 ^ 24 + i.toNat % 2 ^ 24), dword0 := fieldAt bs 0 8, code := BitVec.ofNat 64 (fieldAt bs 8 8),
    arg := BitVec.ofNat 64 (fieldAt bs 16 8), compl := BitVec.ofNat 64 (fieldAt bs 24 8), res := fieldAt bs 32 8,
    deps := fieldAt bs 40 8, trapvec := BitVec.ofNat 64 (fieldAt bs 48 8), root := BitVec.ofNat 64 (fieldAt bs 56 8) }

/-- EVT. -/
def Packet.evt (p : Packet) : Nat := natBits p.dword0 62 48
/-- COUNT, the logical cores. -/
def Packet.count (p : Packet) : Nat := natBits p.dword0 47 36
/-- SHAPE. -/
def Packet.shape (p : Packet) : Nat := natBits p.dword0 35 34
/-- PRIO. -/
def Packet.prio (p : Packet) : Nat := natBits p.dword0 33 29
/-- HELPERS. -/
def Packet.helpers (p : Packet) : Nat := natBits p.dword0 28 25
/-- MODE: a superstep job. -/
def Packet.superstep (p : Packet) : Bool := p.dword0.testBit 15
/-- REDUN. -/
def Packet.redun (p : Packet) : Bool := p.dword0.testBit 14
/-- MANIF. -/
def Packet.manif (p : Packet) : Bool := p.dword0.testBit 13
/-- The physical cores of the job (R160). -/
def Packet.cores (p : Packet) : Nat := p.count * if p.redun then 2 else 1
/-- DEPn: its event, and ANY. -/
def Packet.dep (p : Packet) (n : Nat) : Nat × Bool := (natBits p.deps (16 * n + 14) (16 * n), p.deps.testBit (16 * n + 15))

/-- The bytes of the packet at index `i` of a queue's ring (R405). -/
def State.packetBytes (s : State) (q : Nat) (i : BitVec 32) : List Byte :=
  let x := s.dev.queue q
  s.unitRead (hbmKey (x.base.toNat + 64 * (i.toNat % 2 ^ (x.size.toNat + 4)))) 64

/-- The packet at index `i` of a queue's ring. -/
def State.packetAt (s : State) (q : Nat) (i : BitVec 32) : Packet := packetOf q i (s.packetBytes q i)

/-- The bytes of a packet's resource block. -/
def State.blockOf (s : State) (p : Packet) : List Byte := s.unitRead (hbmKey p.res) 0x150

/-- A dword of the resource block by its offset. -/
def blockField (bs : List Byte) (off : Nat) : Nat := fieldAt bs off 8

/-- The claims of a resource block that are used, with kind, offset and bytes. -/
def blockClaims (bs : List Byte) : List (Nat × Nat × Nat) :=
  ((List.range 16).map fun i =>
    let w := blockField bs (0x20 + 8 * i)
    (natBits w 63 61, natBits w 50 32, natBits w 19 0)).filter fun c => decide (c.1 ≠ 0)

/-- The kind of a claim. -/
def claimKind (n : Nat) : ClaimKind :=
  match n with
  | 1 => .pigeonhole
  | 2 => .spike
  | 3 => .loom
  | 4 => .save
  | _ => .daybook

/-- Records of `size` bytes at a module physical address. -/
def State.records (s : State) (base size n : Nat) : List (List Byte) :=
  (List.range n).map fun i => s.unitRead (hbmKey (base + size * i)) size

/-- The group record of a group (R408). -/
def State.groupRecord (s : State) (bs : List Byte) (g : Nat) : List Byte := s.unitRead (hbmKey (blockField bs 0xB8 + 512 * g)) 512

/-- The groups that a block reserves. -/
def blockGroups (bs : List Byte) : List Nat := (List.range 32).filter fun g => (blockField bs 0xB0).testBit g

/-- The region records of a block. -/
def State.regionRecords (s : State) (bs : List Byte) : List Nat :=
  (s.records (blockField bs 0xC0) 8 (blockField bs 0xC8)).map natOfBytes

/-- The draper records of a block. -/
def State.draperRecords (s : State) (bs : List Byte) : List (List Byte) := s.records (blockField bs 0xD0) 32 (blockField bs 0xD8)

/-- The schedule entries of a block (R413). -/
def State.scheduleEntries (s : State) (bs : List Byte) : List (List Byte) := s.records (blockField bs 0xE0) 16 (blockField bs 0xE8)

/-! ## Refusal (R409, R412) -/

/-- Reason 1: a reserved bit is set, or a field of the packet lies out of range (R407). -/
def Packet.badFields (p : Packet) : Bool :=
  p.dword0.testBit 63 || decide (natBits p.dword0 24 16 ≠ 0) || decide (natBits p.dword0 9 0 ≠ 0) || decide (p.shape = 3)
    || decide (23 < p.prio) || decide (10 < p.helpers) || decide (p.code.toNat % 4 ≠ 0) || decide (p.compl.toNat % 64 ≠ 0)
    || (!p.compl.getLsbD 63 && decide (2 ^ 40 ≤ p.compl.toNat)) || decide (p.res % 64 ≠ 0) || decide (2 ^ 40 ≤ p.res)
    || decide (natBits p.root.toNat 63 40 ≠ 0) || decide (natBits p.root.toNat 11 0 ≠ 0)

/-- Reason 2: COUNT does not match SHAPE (R157). -/
def Packet.badShape (p : Packet) : Bool :=
  let n := p.count
  match p.shape with
  | 0 => !(decide (n ∈ [1, 2, 4, 8, 16]))
  | 1 => decide (n % 32 ≠ 0) || decide (n = 0) || decide (768 < n)
  | _ => decide (n % 768 ≠ 0) || decide (n = 0) || decide (3072 < n)

/-- A region record breaks R210 or R408. -/
def badRegion (w : Nat) : Bool :=
  let bad (code : Nat) : Bool := decide (natBits code 13 12 ≠ 0) || (decide (natBits code 15 14 = 1) && decide (3071 < natBits code 11 0))
  decide (natBits w 63 56 = 0) || decide (natBits w 55 48 ≠ 0) || bad (natBits w 15 0) || bad (natBits w 31 16)
    || bad (natBits w 47 32)

/-- A group record breaks R262 or R408. -/
def badGroupRecord (bs : List Byte) : Bool := decide (2 ^ 20 ≤ fieldAt bs 0 8) || decide (fieldAt bs 392 120 ≠ 0)

/-- A draper record breaks R296. -/
def badDraper (bs : List Byte) : Bool :=
  let d := fieldAt bs 0 8
  decide (127 < d) || decide (fieldAt bs 8 8 % 4096 ≠ 0) || decide (regionOf (BitVec.ofNat 64 (fieldAt bs 8 8)) ≠ .translated) || decide (natBits (fieldAt bs 8 8) 14 12 ≠ d % 8)
    || decide (5 < fieldAt bs 24 8)

/-- A schedule entry breaks R413. -/
def badEntryWords (bs : List Byte) : Bool :=
  let a := fieldAt bs 0 8
  let b := fieldAt bs 8 8
  decide (natBits a 15 13 ≠ 0) || decide (natBits a 63 44 ≠ 0) || decide (b % 64 ≠ 0) || decide (0x80000 ≤ b)

/-- Reason 1 in the resource block (R408). -/
def State.badBlock (s : State) (bs : List Byte) : Bool :=
  let start := blockField bs 0x10
  let count := natBits (blockField bs 0x18) 31 0
  let grain := natBits (blockField bs 0x18) 63 32
  decide (2 ^ 40 ≤ start) || (decide (count ≠ 0) && (decide (grain = 0) || decide (2 ^ 24 ≤ grain))) || decide (2 ^ 40 < start + count)
    || ((List.range 16).any fun i =>
      let w := blockField bs (0x20 + 8 * i)
      decide (5 < natBits w 63 61) || (decide (natBits w 63 61 ≠ 0) && (decide (natBits w 60 51 ≠ 0) || decide (natBits w 31 20 ≠ 0))))
    || decide (16 ≤ blockField bs 0xA0) || decide (2 ^ 32 ≤ blockField bs 0xB0) || decide (0x80000 < blockField bs 0x148)
    || decide (255 < blockField bs 0xC8) || decide (128 < blockField bs 0xD8)
    || ((blockGroups bs).any fun g => badGroupRecord (s.groupRecord bs g)) || ((s.regionRecords bs).any badRegion)
    || ((s.draperRecords bs).any badDraper)
    || (decide (blockField bs 0xE8 ≤ 8192) && (s.scheduleEntries bs).any badEntryWords)

/-- A claim overlaps a later one of a list. -/
def claimsOverlap : List (Nat × Nat × Nat) → Bool
  | [] => false
  | c :: cs => (cs.any fun d => overlaps c.2.1 c.2.2 d.2.1 d.2.2) || claimsOverlap cs

/-- Reason 3: a claim that R409 refuses. -/
def badClaims (bs : List Byte) : Bool :=
  let cs := blockClaims bs
  (cs.any fun c => decide (c.2.2 = 0) || decide (0x80000 < c.2.1 + c.2.2) || decide (c.2.1 < blockField bs 0x148)
    || (decide (c.1 = 5) && decide (c.2.2 % 128 ≠ 0))) || claimsOverlap cs

/-- Reason 4: a save claim or a save region that is too small (R153, R408). -/
def Packet.badSave (p : Packet) (bs : List Byte) : Bool :=
  let saves := (blockClaims bs).filter fun c => decide (c.1 = 4)
  let need := 8192 * (2 + p.helpers)
  (saves.any fun c => decide (c.2.2 < need))
    || decide (blockField bs 0xF8 < (576 * 1024 + if saves.isEmpty then need else 0) * p.cores)

/-- Two entries name one slot (R409). -/
def State.sameSlot (s : State) (bs : List Byte) : Bool :=
  decide (8192 < blockField bs 0xE8)
    || !decide (((s.scheduleEntries bs).map fun e => natBits (fieldAt e 0 8) 12 0).Nodup)

/-- Bytes at a translated address as the dispatcher reads them through ROOT, with the keys of the parts: `none` where a part cannot be
read in full (R409). `die` is the die of the reading core, and `wr` asks that no leaf allow writes. -/
def State.readThrough (s : State) (die root : Nat) (wr : Bool) : Nat → Nat → Nat → Option (List (Nat × Nat))
  | 0, _, n => if n = 0 then some [] else none
  | fuel + 1, va, n =>
    if n = 0 then some []
    else if va < 2 ^ 32 ∨ 2 ^ 48 ≤ va then none
    else
      let k := Nat.min n (65536 - va % 65536)
      match walkFrom s.mem va 3 root with
      | .fault _ _ => none
      | .leaf level w =>
        if w.getLsbD 48 = false ∨ s.targetAbsent w ∨ (wr ∧ w.getLsbD 49) ∨ (s.badAt (leafKey die w level va) k).isSome then none
        else (s.readThrough die root wr fuel (va + k) (n - k)).map ((leafKey die w level va, k) :: ·)

/-- The parts of a translated range, as keys and lengths. -/
def State.parts (s : State) (p : Packet) (die : Nat) (va : Word) (n : Nat) : Option (List (Nat × Nat)) :=
  s.readThrough die p.root.toNat false (n / 65536 + 2) va.toNat n

/-- The bytes of some parts. -/
def State.partBytes (s : State) (ps : List (Nat × Nat)) : List Byte := ps.flatMap fun x => s.peek x.1 x.2

/-- Reason 6: a leaf that maps the code range of a job with a manifest allows writes (R409). -/
def State.writableCode (s : State) (p : Packet) (die : Nat) (bs : List Byte) : Bool :=
  let n := blockField bs 0
  p.manif && (s.parts p die p.code n).isSome && (s.readThrough die p.root.toNat true (n / 65536 + 2) p.code.toNat n).isNone

/-- The ranges of HBM that are hashed for a manifest: the schedule, the regions, the packet, the block, the records of the groups in use and the
drapers (R415). -/
def State.configRanges (s : State) (p : Packet) (q : Nat) (i : BitVec 32) (bs : List Byte) : List (Nat × Nat) :=
  let x := s.dev.queue q
  [(hbmKey (blockField bs 0xE0), 16 * blockField bs 0xE8), (hbmKey (blockField bs 0xC0), 8 * blockField bs 0xC8),
    (hbmKey (x.base.toNat + 64 * (i.toNat % 2 ^ (x.size.toNat + 4))), 64), (hbmKey p.res, 0x150)]
    ++ (blockGroups bs).map (fun g => (hbmKey (blockField bs 0xB8 + 512 * g), 512)) ++ [(hbmKey (blockField bs 0xD0), 32 * blockField bs 0xD8)]

/-- Reason 8: an input that is read before the first instruction cannot be read in full (R409). -/
def State.unreadable (s : State) (p : Packet) (q : Nat) (i : BitVec 32) (die : Nat) (bs : List Byte) : Bool :=
  let none? (va : Word) (n : Nat) : Bool := (s.parts p die va n).isNone
  none? (BitVec.ofNat 64 (blockField bs 0x140)) (blockField bs 0x148) || none? p.arg (Nat.min (blockField bs 8) 64)
    || (p.manif && (none? p.code (blockField bs 0) || none? p.arg (blockField bs 8)
      || none? (BitVec.ofNat 64 (blockField bs 0x100)) (blockField bs 0x108)
      || (s.configRanges p q i bs).any fun r => (s.badAt r.1 r.2).isSome))

/-- The reason why a packet is refused before it is placed, if there is one (R409): reasons 1 to 5 and 7, the lowest that applies. -/
def State.refusal (s : State) (p : Packet) (clash : Bool) : Option Nat :=
  let bs := s.blockOf p
  if p.badFields then some 1
  else if p.badShape then some 2
  else if s.badBlock bs then some 1
  else if badClaims bs then some 3
  else if p.badSave bs then some 4
  else if s.sameSlot bs then some 5
  else if clash then some 7
  else none

/-! ## The transfer schedule (R413, R432) -/

/-- The destination core of an entry of a core that is the `i`-th (R402, R413). -/
def scheduleDest (cores : List (BitVec 12)) (i : Nat) (e : List Byte) : Nat :=
  (cores.getD ((i + natBits (fieldAt e 0 8) 43 32) % cores.length) 0).toNat

/-- Everything that the flits of the schedule need on the placed cores. -/
def scheduleNeeds (cores : List (BitVec 12)) (es : List (List Byte)) : List Hold :=
  es.flatMap fun e => (List.range cores.length).flatMap fun i =>
    pathOf (cores.getD i 0).toNat (scheduleDest cores i e) (natBits (fieldAt e 0 8) 31 16)

/-- Two flits need one output in one network cycle (R432). -/
def scheduleConflict (cores : List (BitVec 12)) (es : List (List Byte)) : Bool := anyClash (scheduleNeeds cores es)

/-- The schedule of the `i`-th core (R391, R413). -/
def scheduleOf (cores : List (BitVec 12)) (i : Nat) (es : List (List Byte)) : List SlotEntry :=
  es.map fun e =>
    { slot := BitVec.ofNat 13 (fieldAt e 0 8), t := natBits (fieldAt e 0 8) 31 16,
      dest := BitVec.ofNat 64 (2 ^ 63 + scheduleDest cores i e * 2 ^ 44 + natBits (fieldAt e 8 8) 18 0) }

/-! ## Placement (R157, R421) -/

/-- A core is fenced off: its die, itself, or its matrix unit, since a failed test slice (R159, R421). -/
def State.coreFenced (s : State) (c : BitVec 12) : Bool :=
  (s.dev.fencedDies.any fun d => decide (c.toNat / 768 = d.toNat))
    || s.dev.health.any fun h => decide (h.2.fails ≠ 0) && (decide (h.1 = c.toNat) || decide (h.1 = 3072 + c.toNat / 8))

/-- The cores from `p` on. -/
def coresFrom (p n : Nat) : List (BitVec 12) := (List.range n).map fun i => BitVec.ofNat 12 (p + i)

/-- A job that holds cores: this core's, or another of the device. -/
structure Holder where
  ours : Bool
  jobid : BitVec 32
  prio : Nat
  start : Nat
  cores : List (BitVec 12)
  movable : Bool
  deriving DecidableEq, Repr

/-- The jobs that hold cores; one that is about to end by itself is no victim. -/
def State.jobHolders (s : State) : List Holder :=
  (if s.job.running then
      [{ ours := true, jobid := s.job.jobid, prio := s.job.prio.toNat, start := s.job.startTime.toNat, cores := s.job.cores,
         movable := !s.job.ended && !s.job.stopping }] else [])
    ++ (s.dev.jobs.filter fun j => !j.saved).map fun j =>
      { ours := false, jobid := j.job.jobid, prio := j.job.prio.toNat, start := j.job.startTime.toNat, cores := j.job.cores, movable := true }

/-- A core of a die that the packet's job may be placed on: the queue's, or any for a job of whole dies (R156, R157; log 91). -/
def Packet.mayUse (q : Nat) (p : Packet) (c : BitVec 12) : Bool := decide (p.shape = 2) || decide (c.toNat / 768 = q / 64)

/-- The jobs that one of a priority may evict for the cores that `may` picks, in the order in which they are chosen: the lowest priority first, and
among equals the one started last (R152). -/
def State.lowerHolders (s : State) (prio : Nat) (may : BitVec 12 → Bool) : List Holder :=
  (s.jobHolders.filter fun h => h.movable && decide (h.prio < prio) && h.cores.any may).insertionSort fun a b =>
    a.prio < b.prio ∨ (a.prio = b.prio ∧ b.start ≤ a.start)

/-- Those of a packet's job. -/
def State.victimsFor (s : State) (q : Nat) (p : Packet) : List Holder := s.lowerHolders p.prio (p.mayUse q)

/-- As few victims of a list as do, in their order, and none where all would not suffice (R152). -/
def leastVictims (v : List Holder) (fits : List Holder → Bool) : Option (List Holder) :=
  ((List.range (v.length + 1)).find? fun k => fits (v.take k)).map v.take

/-- A core can be had once some jobs have left: no other job holds it, and it is not fenced off. -/
def State.coreOpen (s : State) (left : List Holder) (c : BitVec 12) : Bool :=
  !s.coreFenced c && !(s.jobHolders.any fun h => !decide (h ∈ left) && decide (c ∈ h.cores))

/-- Block `b` of `n` cores can be had. -/
def State.blockOpen (s : State) (left : List Holder) (n b : Nat) : Bool := (coresFrom (b * n) n).all (s.coreOpen left)

/-- The dies of a job of whole dies, in ascending order: the queue's, and the lowest-numbered others that can be freed (R157); none where they do not
suffice. -/
def State.diesFor (s : State) (q : Nat) (p : Packet) : List Nat :=
  let own := q / 64
  let others := ((List.range 4).filter fun d => decide (d ≠ own) && s.blockOpen (s.victimsFor q p) 768 d).take (p.cores / 768 - 1)
  if s.blockOpen (s.victimsFor q p) 768 own ∧ others.length + 1 = p.cores / 768 then (own :: others).insertionSort (· ≤ ·) else []

/-- The packet's job can be placed once some jobs have left (R157). -/
def State.fits (s : State) (q : Nat) (p : Packet) (left : List Holder) : Bool :=
  match p.shape with
  | 0 => (List.range (768 / p.cores)).any fun b => s.blockOpen left p.cores (q / 64 * (768 / p.cores) + b)
  | 1 => decide (p.cores / 32 ≤ (List.range 24).countP fun b => s.blockOpen left 32 (q / 64 * 24 + b))
  | _ => !(s.diesFor q p).isEmpty && (s.diesFor q p).all (s.blockOpen left 768)

/-- The victims that a packet's job needs to be placed (R152). -/
def State.victims (s : State) (q : Nat) (p : Packet) : Option (List Holder) := leastVictims (s.victimsFor q p) (s.fits q p)

/-- The victims that an evicted job needs to return to its cores (R152, R155). -/
def State.victimsBack (s : State) (j : Job) : Option (List Holder) :=
  leastVictims (s.lowerHolders j.prio.toNat fun c => decide (c ∈ j.cores)) fun left => j.cores.all (s.coreOpen left)

/-- A job of other cores is evicted: its scratchpads are saved (R153). -/
def OtherJob.save (j : OtherJob) (m : List Host.Cell) : OtherJob :=
  { j with saved := true, scratch := m.filter fun x => inScratch j.job.cores x.1 }

/-- The victims are evicted whole (R152); another job's cores are left to it until they are placed again. -/
def State.evict (s : State) (v : List Holder) : State :=
  let t := { s with dev := { s.dev with jobs := s.dev.jobs.map fun j : OtherJob =>
    if !j.saved && (v.any fun h => !h.ours && decide (h.jobid = j.job.jobid)) then j.save s.mem else j } }
  if (v.any (·.ours)) ∧ s.job.evicted = false then { t with job := { t.job with evicted := true } }.post .coreSave else t

/-- A list of cores is a placement of the packet's shape (R157), in ascending order and without a fenced core. -/
def State.placementOk (s : State) (q : Nat) (p : Packet) (cs : List (BitVec 12)) : Bool :=
  let n := p.cores
  let first := (cs.headD 0).toNat
  let whole (size : Nat) : Bool :=
    decide (cs = ((cs.map fun c => c.toNat / size).dedup).flatMap fun b => coresFrom (b * size) size)
  decide (cs.length = n) && (cs.all fun c => decide (c.toNat < Config.cores) && !s.coreFenced c)
    && match p.shape with
      | 0 => decide (cs = coresFrom first n) && decide (first % 32 % n = 0) && decide (n ≤ 32) && decide (first / 768 = q / 64)
      | 1 => whole 32 && ascending cs && cs.all fun c => decide (c.toNat / 768 = q / 64)
      | _ => decide (cs = (s.diesFor q p).flatMap fun d => coresFrom (d * 768) 768)

/-! ## The start of a job (R21, R78, R151, R408) -/

/-- A group of the job as its launch leaves it: its members are numbered by job core index, and BASE 0 means their count (R262,
R408). -/
def launchGroup (rec : List Byte) (i n : Nat) : Group :=
  let mask := fieldAt rec 8 384
  let members := (List.range n).countP fun k => mask.testBit k
  let base := if fieldAt rec 0 8 = 0 then members else fieldAt rec 0 8
  { res := true, member := mask.testBit i, base, expected := base, arrived := 0, phase := 0, node := 0, reached := [], expects := 0 }

/-- Numbers of something that jobs reserve, held by the running job, the evicted ones and those of other cores (R19, R21). -/
def State.reserved (s : State) (own : List Nat) (kept : Saved → List Nat) (others : OtherJob → List Nat) : List Nat :=
  (if s.job.running then own else []) ++ s.evicted.flatMap kept ++ s.dev.jobs.flatMap others

/-- The groups that jobs hold (R262). -/
def State.heldGroups (s : State) : List Nat := s.reserved s.bar.held (fun x => x.bar.held) (·.groups)

/-- The region entries that jobs hold (R210). -/
def State.heldRegions (s : State) : List Nat := s.reserved (s.regions.map (·.1)) (fun x => x.regions.map (·.1)) (·.regions)

/-- The drapers that jobs hold (R296). -/
def State.heldDrapers (s : State) : List Nat := s.reserved (s.drapers.map (·.1)) (fun x => x.drapers.map (·.1)) (·.drapers)

/-- The region entries that a block's records name. -/
def State.blockRegions (s : State) (bs : List Byte) : List Nat := (s.regionRecords bs).map fun w => natBits w 63 56

/-- The drapers that a block's records name. -/
def State.blockDrapers (s : State) (bs : List Byte) : List Nat := (s.draperRecords bs).map fun r => fieldAt r 0 8

/-- A resource of the job is held by another: a group, a region entry or a draper, or no group is left for the domain (R409). -/
def State.resourcesBusy (s : State) (p : Packet) (bs : List Byte) : Bool :=
  let gs := blockGroups bs
  (gs.any fun g => decide (g ∈ s.heldGroups))
    || (p.superstep && (List.range 32).all fun g => decide (g ∈ gs) || decide (g ∈ s.heldGroups))
    || ((s.blockRegions bs).any fun n => decide (n ∈ s.heldRegions))
    || ((s.blockDrapers bs).any fun n => decide (n ∈ s.heldDrapers))

/-- The superstep domain: one of the unreserved groups (R268; log 45). -/
def State.domainOf (s : State) (p : Packet) (bs : List Byte) : Option (BitVec 5) :=
  let free := (List.range 32).filter fun g => !(decide (g ∈ blockGroups bs) || decide (g ∈ s.heldGroups))
  if p.superstep then (free[Config.domainPick p.jobid % free.length]?).map (BitVec.ofNat 5) else none

/-- The barrier state at launch, on the job's `i`-th of `n` logical cores. -/
def State.launchBarriers (s : State) (p : Packet) (bs : List Byte) (i n : Nat) : Barriers :=
  let domain := s.domainOf p bs
  { Barriers.reset with
    domain,
    xcBase := s.cycle,
    groups := Vector.ofFn fun g : Fin 32 =>
      if domain = some (BitVec.ofFin g) then { Group.unreserved with base := n, expected := n }
      else if g.val ∈ blockGroups bs then launchGroup (s.groupRecord bs g.val) i n
      else Group.unreserved }

/-- A redundant pair is a gang of two, led by its even core (R160). -/
def pairGang (num : BitVec 12) : Gang := { n := 2, leader := decide (num.toNat % 2 = 0), stops := [], parks := 0, takes := 0 }

/-- The leaves of a table and of the tables below it with RGN ≠ 0, as frames of the reverse map (R209). -/
def framesOf (m : List Host.Cell) (dies : List Nat) : Nat → Nat → List (Nat × Nat × Nat)
  | 0, table => ((List.range 32).map fun i => bitsOfBytes 64 (Memory.read m (hbmKey (table + 8 * i)) 8)).flatMap fun w =>
      if w.getLsbD 0 && w.getLsbD 1 && !leafMalformed w 0 then leafFrames dies w 0 else []
  | level + 1, table =>
    let n := match level with | 0 => 32 | 1 => 8192 | _ => 512
    ((List.range n).map fun i => bitsOfBytes 64 (Memory.read m (hbmKey (table + 8 * i)) 8)).flatMap fun w =>
      if w.getLsbD 0 = false then []
      else if w.getLsbD 1 then
        (if !leafMalformed w (level + 1) then leafFrames dies w (level + 1) else [])
      else if pointerMalformed w then []
      else framesOf m dies level (natBits w.toNat 39 8 * 2 ^ 8)

/-- The tags that a context's records of a REPLAY range give, in order (R226, R419). -/
def replayTags (core ctx : Nat) (recs : List (List Byte)) : List (BitVec 5) :=
  recs.flatMap fun r =>
    if fieldAt r 0 1 = 5 ∧ fieldAt r 1 1 = ctx ∧ fieldAt r 2 2 = core then
      (List.range (natBits (fieldAt r 24 8) 63 61)).map fun i => BitVec.ofNat 5 (fieldAt r 24 8 / 2 ^ (5 * i))
    else []

/-- The contexts at launch: context 0 is live at CODE, and each replays its record when there is one (R16, R226, R407). -/
def State.launchCtxs (s : State) (p : Packet) (bs : List Byte) : Vector Ctx 11 :=
  let recs := s.records (blockField bs 0x110) 32 (blockField bs 0x118 / 32)
  Vector.ofFn fun n : Fin 11 =>
    let c := { Ctx.reset with replay := if recs.isEmpty then none else some (replayTags s.core.num.toNat n.val recs) }
    if n = 0 then { c with live := true, pc := p.code, chk := p.dword0.testBit 10, nextIssue := s.cycle + 1 } else c

/-- MBOX at launch (R151). -/
def launchMbox (arg : List Byte) : Vector Word 8 :=
  Vector.ofFn fun n : Fin 8 => if 8 * n.val + 8 ≤ arg.length then BitVec.ofNat 64 (fieldAt arg (8 * n.val) 8) else 0

/-- The ranges hashed for a manifest, as keys and lengths (R415). -/
def State.hashedRanges (s : State) (p : Packet) (q : Nat) (i : BitVec 32) (die : Nat) (bs : List Byte) : List (Nat × Nat) :=
  let part (va : Word) (n : Nat) : List (Nat × Nat) := (s.parts p die va n).getD []
  part p.code (blockField bs 0) ++ part (BitVec.ofNat 64 (blockField bs 0x140)) (blockField bs 0x148) ++ part p.arg (blockField bs 8)
    ++ part (BitVec.ofNat 64 (blockField bs 0x100)) (blockField bs 0x108) ++ s.configRanges p q i bs

/-- The digests of a manifest, in their order (R415, R416). -/
def State.launchDigests (s : State) (p : Packet) (q : Nat) (i : BitVec 32) (die : Nat) (bs : List Byte) : List (BitVec 512) :=
  let part (va : Word) (n : Nat) : List Byte := s.partBytes ((s.parts p die va n).getD [])
  [part p.code (blockField bs 0) ++ part (BitVec.ofNat 64 (blockField bs 0x140)) (blockField bs 0x148),
    part p.arg (blockField bs 8), (s.scheduleEntries bs).flatten, (s.records (blockField bs 0xC0) 8 (blockField bs 0xC8)).flatten,
    part (BitVec.ofNat 64 (blockField bs 0x100)) (blockField bs 0x108),
    (List.range 8).flatMap fun k => bytesOfNat (Config.firmwareMeasurement (k + 1)).toNat 64,
    s.packetBytes q i ++ bs ++ (blockGroups bs).flatMap (s.groupRecord bs) ++ (s.draperRecords bs).flatten].map sha512

/-- The claims at launch. -/
def launchClaims (bs : List Byte) : List Claim :=
  (blockClaims bs).map fun c => { kind := claimKind c.1, off := c.2.1, bytes := c.2.2 }

/-- The entries that the daybook claims hold (R162). -/
def daybookEntries (bs : List Byte) : Nat := (((blockClaims bs).filter fun c => decide (c.1 = 5)).map fun c => c.2.2 / 128).sum

/-- The index space at launch: only a free job has one (R158). -/
def launchSpace (p : Packet) (bs : List Byte) : IndexSpace :=
  let count := natBits (blockField bs 0x18) 31 0
  if p.superstep ∨ count = 0 then Job.none.space
  else { Job.none.space with next := blockField bs 0x10, left := count, grain := natBits (blockField bs 0x18) 63 32 }

/-- The logical cores of a job (R160). -/
def Packet.logical (p : Packet) (cs : List (BitVec 12)) : List (BitVec 12) := if p.redun then cs.filter fun c => decide (c.toNat % 2 = 0) else cs

/-- The job at launch (R407, R408), with the schedule of its logical core `idx`; `die` reads its inputs. -/
def State.launchJob (s : State) (p : Packet) (q : Nat) (i : BitVec 32) (bs : List Byte) (cs : List (BitVec 12)) (idx die : Nat) : Job :=
  { Job.none with
    running := true, jobid := p.jobid, prio := BitVec.ofNat 5 p.prio, superstep := p.superstep, helpers := p.helpers,
    chk := p.dword0.testBit 10, redun := p.redun, manif := p.manif, record := p.dword0.testBit 12, mapctl := p.dword0.testBit 11,
    arg := p.arg, trapvec := p.trapvec, root := p.root, compl := p.compl, evt := BitVec.ofNat 15 p.evt, cores := cs,
    claims := launchClaims bs, space := launchSpace p bs, xsched := scheduleOf (p.logical cs) idx (s.scheduleEntries bs),
    dayEntries := daybookEntries bs, dayNeed := blockField bs 0xA8,
    noReplay := p.superstep && (decide (daybookEntries bs = 0) || decide (daybookEntries bs < blockField bs 0xA8)),
    hashed := if p.manif then s.hashedRanges p q i die bs else [],
    digests := if p.manif then s.launchDigests p q i die bs else [],
    save := BitVec.ofNat 64 (blockField bs 0xF0), saveLen := blockField bs 0xF8, nonce := (bs.drop 0x120).take 32, startTime := s.dev.devtime }

/-- The image in the scratchpad of every core of the job, whose other bytes read 0 (R78). -/
def launchMemory (m : List Host.Cell) (cs : List (BitVec 12)) (image : List Byte) : List Host.Cell :=
  cs.foldl (fun m c => Memory.write m (scratchKey c.toNat 0) image) (m.filter fun x => !inScratch cs x.1)

/-- The bytes of the local-section image, read by a die. -/
def State.launchImage (s : State) (p : Packet) (die : Nat) (bs : List Byte) : List Byte :=
  s.partBytes ((s.parts p die (BitVec.ofNat 64 (blockField bs 0x140)) (blockField bs 0x148)).getD [])

/-- The drapers at launch (R296). -/
def State.launchDrapers (s : State) (bs : List Byte) : List (Nat × Draper) :=
  (s.draperRecords bs).map fun r =>
    (fieldAt r 0 8, { base := fieldAt r 8 8, limit := fieldAt r 16 8, sz := fieldAt r 24 8, next := fieldAt r 8 8 })

/-- A test slice on the unit numbered `u` of the health table: its entry (R421). -/
def Device.healthOf (d : Device) (u : Nat) : Health := Sparse.get { pass := true, time := 0, fails := 0, running := false } d.health u

/-- An entry of the health table replaced. -/
def Device.setHealth (d : Device) (u : Nat) (h : Health) : Device :=
  { d with health := Sparse.set { pass := true, time := 0, fails := 0, running := false } d.health u h }

/-- Test slices on the units that a placement needs are abandoned (R421). -/
def Device.dropSlices (d : Device) (cs : List (BitVec 12)) : Device :=
  { d with health := d.health.map fun h =>
      if cs.any fun c => decide (h.1 = c.toNat) || decide (h.1 = 3072 + c.toNat / 8) then (h.1, { h.2 with running := false }) else h }

/-- The job starts on this core (R21). -/
def State.launchHere (s : State) (p : Packet) (q : Nat) (i : BitVec 32) (cs : List (BitVec 12)) : State :=
  let bs := s.blockOf p
  let logical := p.logical cs
  let me := if p.redun then s.core.num &&& 0xFFE else s.core.num
  let idx := logical.findIdx (· = me)
  let image := s.launchImage p s.die bs
  let arg := s.partBytes ((s.parts p s.die p.arg (Nat.min (blockField bs 8) 64)).getD [])
  let t := s.idle
  let u : State := { t with
    ctxs := s.launchCtxs p bs, cur := 0,
    core := { t.core with
      last := 10, mbox := launchMbox arg, gang := if p.redun then some (pairGang s.core.num) else none, matrix := { t.core.matrix with weight := BitVec.ofNat 4 (blockField bs 0xA0) } },
    job := s.launchJob p q i bs cs idx s.die, bar := s.launchBarriers p bs idx logical.length,
    mem := launchMemory s.mem cs image,
    dev := s.dev.dropSlices cs, regions := (s.regionRecords bs).map fun w => (natBits w 63 56, BitVec.ofNat 48 w),
    revmap := framesOf s.mem (jobDies cs) 3 p.root.toNat, drapers := s.launchDrapers bs }
  let u := u.openDaybook
  if u.job.noReplay then u.logEntry true 10 0 u.unitSource 0 0 else u

/-- The job starts on other cores (R21, R78; log 40). -/
def State.launchThere (s : State) (p : Packet) (q : Nat) (i : BitVec 32) (cs : List (BitVec 12)) : State :=
  let bs := s.blockOf p
  let die := (cs.headD 0).toNat / 768
  let j := s.launchJob p q i bs cs 0 die
  let t := { s with
    mem := launchMemory s.mem cs (s.launchImage p die bs),
    dev := { s.dev.dropSlices cs with jobs := s.dev.jobs ++
      [otherJob j (Vector.replicate 11 Ctx.reset) none (blockGroups bs ++ ((s.domainOf p bs).map BitVec.toNat).toList) (s.blockRegions bs)
        (s.blockDrapers bs)] } }
  if j.noReplay then t.logAbout j.jobid 10 0 ((cs.headD 0).toNat + 15 * 2 ^ 12) 0 0 else t

/-! ## DISPATCH (R156, R411) -/

/-- The packet at the head leaves the ring (R405). -/
def State.advanceHead (s : State) (q : Nat) : State :=
  let x := s.dev.queue q
  { s with dev := { s.dev.setQueue q { x with head := x.head + 1 } with
      clashes := s.dev.clashes.filter fun c => !decide (c = (q, x.head)) } }

/-- The record of a packet that never ran (R412): the event of a packet refused for it is another job's. -/
def State.neverRan (s : State) (q : Nat) (p : Packet) (clash : Bool) (status reason : Nat) : State :=
  s.writeRecord p.compl (if clash then 0 else p.evt) q status (recordDword status reason false false false false p.jobid) 0 s.dev.devtime
    0 0

/-- A dependence names a FAILED event without ANY (R411). -/
def State.depFailed (s : State) (p : Packet) : Bool :=
  (List.range 4).any fun n =>
    let d := p.dep n
    decide (d.1 ≠ 0) && !d.2 && decide (Sparse.get EventState.done s.dev.events d.1 = .failed)

/-- Every dependence is met (R411). -/
def State.depsMet (s : State) (p : Packet) : Bool :=
  (List.range 4).all fun n =>
    let d := p.dep n
    let e := Sparse.get EventState.done s.dev.events d.1
    decide (d.1 = 0) || decide (e = .done) || (d.2 && decide (e = .failed))

/-- The evicted jobs of a queue, those of this core marked; the one that came last is its head (R155; log 91). -/
def State.savedOf (s : State) (q : Nat) : List (Job × Bool) :=
  (((s.dev.jobs.filter (·.saved)).map fun x => (x.job, false)) ++ s.evicted.map fun x => (x.job, true)).filter fun x =>
    decide (jobQueue x.1.jobid = q)

/-- The evicted job at the head of a queue, if there is one. -/
def State.savedHead (s : State) (q : Nat) : Option (Job × Bool) := (s.savedOf q).getLast?

/-- The dispatcher may take the packet at the head of a queue (R155, R405, R429, R430). -/
def State.headReady (s : State) (q : Nat) : Bool :=
  let x := s.dev.queue q
  decide (s.dev.power = .d0) && decide (s.dev.elbase ≠ 0) && x.en && !x.td && decide (x.head ≠ x.accepted) && (s.savedHead q).isNone

/-- What the dispatchers compare of an eligible head (R156, R157): its place among the heads, and the dies whose cores it takes. -/
structure Head where
  rank : Nat
  dies : List Nat
  deriving DecidableEq, Repr

/-- The place of a priority and a queue: the highest priority comes first, then the lowest queue number (R156). -/
def rankOf (prio q : Nat) : Nat := prio * 256 + (255 - q)

/-- The dies of a packet's job: its queue's, or those that a job of whole dies takes (R157). -/
def State.packetDies (s : State) (q : Nat) (p : Packet) : List Nat := if p.shape = 2 then s.diesFor q p else [q / 64]

/-- An evicted job as a head (R155, R157). -/
def savedAsHead (j : Job) (q : Nat) : Head := { rank := rankOf j.prio.toNat q, dies := (q / 64 :: j.cores.map fun c => c.toNat / 768).dedup }

/-- A packet as a head. -/
def State.packetAsHead (s : State) (q : Nat) (p : Packet) : Head := { rank := rankOf p.prio q, dies := s.packetDies q p }

/-- The head of a queue, an evicted job before the packets (R155), where it is eligible and could be placed (R156). -/
def State.headOf (s : State) (q : Nat) : Option Head :=
  match s.savedHead q with
  | some (j, _) => if (s.victimsBack j).isSome ∧ s.dev.power = .d0 then some (savedAsHead j q) else none
  | none =>
    if s.headReady q then
      let i := (s.dev.queue q).head
      let p := s.packetAt q i
      if (s.refusal p (decide ((q, i) ∈ s.dev.clashes))).isNone ∧ s.depsMet p ∧ (s.victims q p).isSome ∧ s.resourcesBusy p (s.blockOf p) = false then
        some (s.packetAsHead q p)
      else none
    else none

/-- Another head comes first at a dispatcher of one of the dies (R156): a job of whole dies is one of its priority at each (R157). -/
def State.outranked (s : State) (h : Head) : Bool :=
  (List.range 256).any fun q => (s.headOf q).any fun x => decide (h.rank < x.rank) && x.dies.any fun d => decide (d ∈ h.dies)

/-- An eligible head placed on cores of which this is none, or this one (R157); where it cannot be placed, jobs of lower priority are evicted
first (R152). -/
def State.place (s : State) (q : Nat) (i : BitVec 32) (p : Packet) (cs : List (BitVec 12)) : State :=
  let bs := s.blockOf p
  let die := (cs.headD 0).toNat / 768
  if scheduleConflict (p.logical cs) (s.scheduleEntries bs) then (s.neverRan q p false 4 5).advanceHead q
  else if s.writableCode p die bs then (s.neverRan q p false 4 6).advanceHead q
  else
  if s.resourcesBusy p bs then s
  else
  match s.victims q p with
  | none => s
  | some (h :: hs) => s.evict (h :: hs)
  | some [] =>
  if cs.all (s.coreOpen []) = false then s
  else if s.unreadable p q i die bs then (s.neverRan q p false 4 8).advanceHead q
  else if s.core.num ∈ cs then (s.launchHere p q i cs).advanceHead q
  else (s.launchThere p q i cs).advanceHead q

/-- An evicted job of other cores is back on the cores that it left, with its scratchpads (R153, R155); test slices there are abandoned (R421). -/
def State.returnOther (s : State) (j : Job) : State :=
  let scratch := ((s.dev.jobs.find? fun x => x.saved && decide (x.job = j)).map (·.scratch)).getD []
  { s with
    mem := Memory.writeCells scratch (s.mem.filter fun c => !inScratch j.cores c.1),
    dev := { s.dev.dropSlices j.cores with
      jobs := s.dev.jobs.map fun x : OtherJob => if x.job = j then { x with saved := false, scratch := [] } else x } }

/-- The evicted job of other cores at the head of a queue: it returns to the cores that it left once they are free, jobs of lower priority being
evicted for it (R152, R155), unless another head comes before it (R156). -/
def State.restoreOther (s : State) (q : Nat) : State :=
  match s.savedHead q with
  | some (j, false) =>
    if s.outranked (savedAsHead j q) then s
    else
      match s.victimsBack j with
      | none => s
      | some (h :: hs) => s.evict (h :: hs)
      | some [] => s.returnOther j
  | _ => s

/-- DISPATCH (R156): the dispatcher takes the head of queue `q`: refuses it, cancels it, or places it on the cores `placed`, which are
its choice among those that are free; a head that is not eligible, or whose resources are busy, waits (R409), and so does one that another
head comes before. An evicted job of other cores is the head of its queue (R155). -/
def execDispatch (q : BitVec 8) (placed : List (BitVec 12)) (s : State) : Outcome :=
  .next (
    let n := q.toNat
    if s.headReady n = false then s.restoreOther n
    else
      let i := (s.dev.queue n).head
      let p := s.packetAt n i
      let clash := decide ((n, i) ∈ s.dev.clashes)
      match s.refusal p clash with
      | some r => (s.neverRan n p clash 4 r).advanceHead n
      | none =>
        if s.depFailed p then (s.neverRan n p clash 2 0).advanceHead n
        else if s.depsMet p ∧ s.placementOk n p placed ∧ s.outranked (s.packetAsHead n p) = false then s.place n i p placed
        else s)

/-! ## RESTORE (R152, R155, R156, R228, R345) -/

/-- The evicted job that is restored first: the highest priority, then the lowest queue (R155, R156). -/
def nextRestored : List Saved → Option Saved
  | [] => none
  | x :: xs =>
    match nextRestored xs with
    | none => some x
    | some y =>
      if rankOf y.job.prio.toNat (jobQueue y.job.jobid) ≤ rankOf x.job.prio.toNat (jobQueue x.job.jobid) then some x else some y

/-- An evicted job may return to its cores: it is the head of its queue, every core that it left is free, or becomes so when jobs of lower
priority leave, and no other head comes before it (R152, R155, R156). -/
def State.restorable (s : State) (x : Saved) : Bool :=
  let q := jobQueue x.job.jobid
  decide (s.savedHead q = some (x.job, true)) && (s.victimsBack x.job).isSome && decide (s.dev.power = .d0) && !s.outranked (savedAsHead x.job q)

/-- RESTORE (R155): the job returns to the cores that it left, jobs of lower priority being evicted for it (R152), and test slices there abandoned
(R421). -/
def execRestore (s : State) : Outcome :=
  .next (
    match nextRestored (s.evicted.filter s.restorable) with
    | none => s
    | some x =>
      match s.victimsBack x.job with
      | some (h :: hs) => s.evict (h :: hs)
      | _ => if s.job.running then s else { s with dev := s.dev.dropSlices x.job.cores }.restored x)

end Sys2Proof.Machine
end

