-- ==== Sys2Proof/Machine/HostSide.lean ====
section
/-! DEFINITION. The host's queues and their teardown (R405, R411, R414), its window onto module memory (R209, R314, R424), peer
devices, and the SPDM responder (R416). -/

namespace Sys2Proof.Machine

/-! ## Queue registers (R405) -/

/-- The queue whose block holds a BAR0 offset. -/
def queueOf (off : Nat) : Nat := (off - 0x10000) / 64 % 256

/-- A queue-register write that is ignored is a violation: the entry holds the BAR0 offset, and the write gets an error response, which is one
of no bytes (R11, R405). -/
def State.ignoreWrite (s : State) (off : Nat) : State := (s.logFor 0 0 1 0 noSource 0 (BitVec.ofNat 64 off)).answer []

/-- A queue changed by `f`. -/
def State.modQueue (s : State) (q : Nat) (f : Queue → Queue) : State := { s with dev := s.dev.setQueue q (f (s.dev.queue q)) }

/-- The packet at an index is accepted: its EVT becomes PENDING, unless it is so already (R409, R411). -/
def State.acceptPacket (s : State) (q : Nat) (i : BitVec 32) : State :=
  let e := (s.packetAt q i).evt
  if e = 0 then s
  else if Sparse.get EventState.done s.dev.events e = .pending then
    { s with dev := { s.dev with clashes := s.dev.clashes ++ [(q, i)] } }
  else { s with dev := s.dev.settleEvent e .pending }

/-- `n` packets from an index on are accepted. -/
def State.acceptFrom (q : Nat) : Nat → BitVec 32 → State → State
  | 0, _, s => s
  | n + 1, i, s => State.acceptFrom q n (i + 1) (s.acceptPacket q i)

/-- The packets of a queue that wait to be accepted are, once the error-log ring is set (R411, R429). -/
def State.acceptQueue (s : State) (q : Nat) : State :=
  let x := s.dev.queue q
  if s.dev.elbase = 0 then s
  else (State.acceptFrom q (x.tail - x.accepted).toNat x.accepted s).modQueue q fun y => { y with accepted := y.tail }

/-- A QTAIL write (R405). -/
def State.writeTail (s : State) (off : Nat) (v : Word) : State :=
  let q := queueOf off
  let x := s.dev.queue q
  let new : BitVec 32 := v.setWidth 32
  if x.en = false ∨ (new - x.head).toNat < (x.tail - x.head).toNat ∨ 2 ^ (x.size.toNat + 4) < (new - x.head).toNat then
    s.ignoreWrite off
  else (s.modQueue q fun x => { x with tail := new }).acceptQueue q

/-- A QBASE write (R405). -/
def State.writeBase (s : State) (off : Nat) (v : Word) : State :=
  if (s.dev.queue (queueOf off)).en ∨ v.toNat % 64 ≠ 0 then s.ignoreWrite off
  else s.modQueue (queueOf off) fun x => { x with base := v }

/-- A QSIZE write (R405). -/
def State.writeSize (s : State) (off : Nat) (v : Word) : State :=
  if (s.dev.queue (queueOf off)).en ∨ 12 ≤ v.toNat then s.ignoreWrite off
  else s.modQueue (queueOf off) fun x => { x with size := v.setWidth 4 }

/-- The undispatched packets of a queue are CANCELLED in ring order (R414). -/
def State.cancelFrom (q : Nat) : Nat → State → State
  | 0, s => s
  | n + 1, s =>
    let i := (s.dev.queue q).head
    State.cancelFrom q n ((s.neverRan q (s.packetAt q i) (decide ((q, i) ∈ s.dev.clashes)) 2 0).advanceHead q)

/-- A teardown starts (R414): packets are cancelled, and every dispatched job of the queue stops. -/
def State.startTeardown (s : State) (q : Nat) : State :=
  let x := s.dev.queue q
  let t := State.cancelFrom q (x.tail - x.head).toNat s
  let t := State.abortOthers 1 (t.dev.jobs.filter fun j => decide (jobQueue j.job.jobid = q)) t
  let t := State.abortSaved 1 (t.evicted.filter fun x => decide (jobQueue x.job.jobid = q)) t
  let t := if t.job.running ∧ jobQueue t.job.jobid = q then t.stopContexts 1 else t
  t.post (.teardownCompletes (BitVec.ofNat 8 q))

/-- A QCTL write (R405, R414). -/
def State.writeCtl (s : State) (off : Nat) (v : Word) : State :=
  let q := queueOf off
  let x := s.dev.queue q
  if x.td ∧ v.getLsbD 0 then s.ignoreWrite off
  else
    let y := { x with vec := BitVec.ofNat 8 (natBits v.toNat 15 8), irq := v.getLsbD 16 }
    if v.getLsbD 1 then
      let t := s.modQueue q fun _ => { y with en := false, td := true }
      if x.td then t else t.startTeardown q
    else if v.getLsbD 0 then
      (if x.en then s.modQueue q fun _ => y
      else
        let t := s.modQueue q fun _ => { y with en := true, head := 0, tail := 0, accepted := 0 }
        { t with dev := { t.dev with clashes := t.dev.clashes.filter fun c => decide (c.1 ≠ q) } })
    else s.modQueue q fun _ => { y with en := false }

/-- DOORBELL (R405, R411). -/
def execDoorbell (s : State) : Outcome := .next (s.withReq fun r s => s.writeTail r.addr r.value)

/-- QBASE (R405). -/
def execQbase (s : State) : Outcome := .next (s.withReq fun r s => s.writeBase r.addr r.value)

/-- QSIZE (R405). -/
def execQsize (s : State) : Outcome := .next (s.withReq fun r s => s.writeSize r.addr r.value)

/-- QHEAD (R405): a write is ignored and logged. -/
def execQhead (s : State) : Outcome := .next (s.withReq fun r s => s.ignoreWrite r.addr)

/-- QUEUE_ENABLE (R405): a QCTL write with EN = 1. -/
def execQueueEnable (s : State) : Outcome := .next (s.withReq fun r s => s.writeCtl r.addr r.value)

/-- QUEUE_DISABLE (R405): a QCTL write with EN = 0. -/
def execQueueDisable (s : State) : Outcome := .next (s.withReq fun r s => s.writeCtl r.addr r.value)

/-- TEARDOWN (R405, R414): a QCTL write with TD = 1. -/
def execTeardown (s : State) : Outcome := .next (s.withReq fun r s => s.writeCtl r.addr r.value)

/-- TEARDOWN_COMPLETES (R145, R414): once the contexts of a stopping job of the queue have stopped, it is ABORTED; TD of a queue torn down then reads
0 with QHEAD = QTAIL. -/
def execTeardownCompletes (q : BitVec 8) (s : State) : Outcome :=
  .next (
    let n := q.toNat
    let mine := s.job.running && s.job.stopping && decide (jobQueue s.job.jobid = n)
    if mine ∧ (s.ctxs.toList.any fun c => c.live && c.mustRun) then s
    else
      let t := if mine then s.abortJob s.job.stopReason else s
      if (s.dev.queue n).td then t.modQueue n fun x => { x with td := false, head := x.tail, accepted := x.tail } else t)

/-! ## Module memory (R209, R314, R424) -/

/-- A host write to module memory is accepted (R209): each region that a running job maps there allows the host. A region that is not
loaded allows no writer; what the jobs on other cores map is a free value (log 34). -/
def State.hostMayWrite (s : State) (key n : Nat) : Bool :=
  (!s.job.running || s.revmap.all fun f =>
    !overlaps key n f.1 f.2.1 || (match s.region f.2.2 with
      | some e => codeAllowsHost (writerCode e s.job.superstep s.exchange)
      | none => false))
    && s.dev.jobs.all fun j => j.saved || Config.otherAllows j.job.jobid s.cycle key n

/-- A host write or AtomicOp that a region refuses is dropped and logged, and gets an error response, which is one of no bytes (R11, R433). -/
def State.refuseHost (s : State) (a : Nat) : State := (s.logFor 0 0 1 0x05 noSource 0x100 (BitVec.ofNat 64 a)).answer []

/-- The host's link carries accesses: it is up, and the device is in D0, where links do not idle (R424, R430; log 96). -/
def State.hostReaches (s : State) : Bool := s.dev.hostLink && decide (s.dev.power = .d0)

/-- HOST_WRITE (R209, R415): performed at its home. -/
def execHostWrite (s : State) : Outcome :=
  .next (s.withReq fun r s =>
    if s.hostReaches = false ∨ 2 ^ 40 < r.addr + r.data.length then s
    else if s.hostMayWrite (hbmKey r.addr) r.data.length then (s.poke noSource (hbmKey r.addr) r.data).wake
    else s.refuseHost r.addr)

/-- A register of the queue block of BAR0 as it reads (R405). -/
def Queue.read (x : Queue) (off : Nat) : Word :=
  match off with
  | 0x00 => x.base
  | 0x08 => x.size.setWidth 64
  | 0x10 => x.head.setWidth 64
  | 0x18 => x.tail.setWidth 64
  | 0x20 => BitVec.ofNat 64 (bitAt x.irq 16 + x.vec.toNat * 2 ^ 8 + bitAt x.td 1 + bitAt x.en 0)
  | _ => 0

/-- A counter's configuration word (R420). -/
def Counter.word (k : Counter) : Word :=
  BitVec.ofNat 64 (bitAt k.en 63 + bitAt k.ovie 62 + bitAt k.ovf 61 + k.evsel.toNat)

/-- A JOBID names a job of the device that has been dispatched and has not ended. -/
def State.runs (s : State) (j : BitVec 32) : Bool :=
  (s.job.running && decide (s.job.jobid = j)) || (s.evicted.any fun x => decide (x.job.jobid = j))
    || s.dev.jobs.any fun x => decide (x.job.jobid = j)

/-- DBGCLAIM as it reads (R423). -/
def State.claimWord (s : State) : Word :=
  let d := s.dev
  BitVec.ofNat 64 (bitAt d.dbgBad 34 + bitAt (d.dbgStopped && d.dbgClaimed && s.runs d.dbgJob) 33 + bitAt d.dbgClaimed 32
    + d.dbgJob.toNat)

/-- PWRST as it reads (R427). -/
def Device.pwrstWord (d : Device) : Word :=
  BitVec.ofNat 64 (bitAt d.hot 25 + bitAt d.throt 24 + d.tjmax.toNat * 2 ^ 16 + d.pwr.toNat)

/-- A BAR0 register as it reads, but for those with rows of their own: LOST, TRDROP and DBGDATA (R405, R420, R423, R427). An offset that
holds no register reads 0. -/
def State.bar0Read (s : State) (off : Nat) : Word :=
  let d := s.dev
  if 0x10000 ≤ off ∧ off < 0x14000 then (d.queue (queueOf off)).read (off % 64)
  else if 0x100000 ≤ off ∧ off < 0x180000 ∧ (off - 0x100000) / 128 < Config.cores then
    let k := (off - 0x100000) / 8
    if k / 16 = s.core.num.toNat then (s.core.counters.get (Fin.ofNat 16 k)).word
    else Sparse.get 0 d.otherCounters k ||| BitVec.ofNat 64 (bitAt ((Config.remoteCounter s.cycle k).getLsbD 48) 61)
  else if 0x180000 ≤ off ∧ off < 0x200000 ∧ (off - 0x180000) / 128 < Config.cores then
    let k := (off - 0x180000) / 8
    if k / 16 = s.core.num.toNat then (s.core.counters.get (Fin.ofNat 16 k)).val.setWidth 64 else ((Config.remoteCounter s.cycle k).setWidth 48).setWidth 64
  else if 0x200000 ≤ off ∧ (off - 0x200000) / 16 < 3456 then
    let u := (off - 0x200000) / 16
    let h := d.healthOf u
    let w := Config.healthBytes u h.pass h.time.toNat h.fails
    if off % 16 < 8 then w.setWidth 64 else (w >>> 64).setWidth 64
  else
    match off with
    | 0x0000 => BitVec.ofNat 64 (bitAt d.pwrEn 16 + d.pwrCap.toNat)
    | 0x0008 => d.pwrstWord
    | 0x0100 => d.elbase
    | 0x0108 => d.elsize.setWidth 64
    | 0x0110 => d.elprod.setWidth 64
    | 0x0118 => d.elcons.setWidth 64
    | 0x0200 => s.claimWord
    | 0x0210 => d.trbase
    | 0x0218 => d.trsize.setWidth 64
    | 0x0220 => d.trprod.setWidth 64
    | 0x0228 => d.trcons.setWidth 64
    | 0x0240 => d.dbgsel
    | _ => 0

/-- HOST_READ (R314, R424): performed at its home; a read of BAR0 brings back its register. -/
def execHostRead (s : State) : Outcome :=
  .next (s.withReq fun r s =>
    if s.hostReaches = false then s
    else if r.bar0 then s.answer (bytesOfNat (s.bar0Read r.addr).toNat 8)
    else if 2 ^ 40 < r.addr + r.n then s
    else s.answer (s.unitRead (hbmKey r.addr) r.n))

/-- A read-modify-write of the host or of a peer device, whose old value comes back: on uncorrectable data it is not performed (R197). It comes
after the atomics that have read the word at the same point and not written it, and writes some time after its own read (R286). -/
def State.outsideAtomic (s : State) (key : Nat) (op : Rmw) (b : Word) : State :=
  let n := atomicBits op.ty / 8
  let s := s.finishUnits key n
  if (s.badAt key n).isSome then s.answer (s.unitRead key n)
  else
    let old := natOfBytes (s.peek key n)
    (s.addHalf noSource key (bytesOfNat (op.new old b) n)).answer (bytesOfNat old n)

/-- The operation that an AtomicOp brings: fetch-add, swap or compare-swap (R424). -/
def reqAtomic (r : Sys2Proof.HostReq) : Rmw :=
  match r.compare with
  | some e => .cas r.ty e
  | none => .op r.op r.ty

/-- The device completes an AtomicOp (R424): naturally aligned, fetch-add, swap or compare-swap. -/
def hostOp (r : Sys2Proof.HostReq) : Bool :=
  (r.compare.isSome || decide (r.op = .add) || decide (r.op = .swap)) && decide (r.addr % (atomicBits r.ty / 8) = 0)
    && decide (r.addr < 2 ^ 40)

/-- HOST_ATOMICOP (R424): a write of the host, so the regions check it (R209). -/
def execHostAtomicop (s : State) : Outcome :=
  .next (s.withReq fun r s =>
    if s.hostReaches = false ∨ hostOp r = false then s
    else if s.hostMayWrite (hbmKey r.addr) (atomicBits r.ty / 8) then s.outsideAtomic (hbmKey r.addr) (reqAtomic r) r.value
    else s.refuseHost r.addr)

/-- PEER_DEVICE_ACCESS (R314): a write, an atomic when it reads no bytes, or a read, at its home in module memory. Its own device has
checked it. In D3hot the links idle (R430). -/
def execPeerDeviceAccess (s : State) : Outcome :=
  .next (s.withReq fun r s =>
    if 2 ^ 40 ≤ r.addr ∨ s.dev.power ≠ .d0 then s
    else if r.write then (s.poke noSource (hbmKey r.addr) r.data).wake
    else if r.n = 0 then s.outsideAtomic (hbmKey r.addr) (reqAtomic r) r.value
    else s.answer (s.unitRead (hbmKey r.addr) r.n))

/-! ## The SPDM responder (R416) and the configuration space (R429) -/

/-- GET_MEASUREMENTS (R416): indices 1 to 8 return the firmware measurements. -/
def execGetMeasurements (s : State) : Outcome :=
  .next (s.withReq fun r s =>
    if 1 ≤ r.addr ∧ r.addr ≤ 8 then s.answer (bytesOfNat (Config.firmwareMeasurement r.addr).toNat 64)
    else s.answer (bytesOfNat (Config.spdmReply r.addr).toNat 8))

/-- VENDOR_DEFINED_REQUEST (R416): the manifest of a JOBID; an answer of no bytes is the InvalidRequest error. -/
def execVendorDefinedRequest (s : State) : Outcome :=
  .next (s.withReq fun r s =>
    match s.dev.manifests.reverse.find? fun m => decide (m.1.toNat = r.addr) with
    | some m => s.answer m.2
    | none => s.answer [])

/-- SPDM_REQUEST (R416): the answer is the responder's own (log 21). -/
def execSpdmRequest (s : State) : Outcome := .next (s.withReq fun r s => s.answer (bytesOfNat (Config.spdmReply r.addr).toNat 8))

/-- What PowerState of PMCSR reads (R430; log 133). -/
def Power.code : Power → BitVec 2
  | .d0 => 0 | .d3hot => 3 | .off => 3

/-- A dword of the configuration space: in PMCSR, PowerState is the power state and No_Soft_Reset is 1 (R430; log 133). -/
def Device.configRead (d : Device) (off : Nat) : BitVec 32 :=
  let w := Config.configSpace off
  if off = Config.pmcsr then (w &&& ~~~3#32) ||| 8#32 ||| d.power.code.setWidth 32 else w

/-- CONFIGURATION_SPACE_ACCESS (R429): answered with CRS, here no bytes, until step 5 of bring-up. -/
def execConfigurationSpaceAccess (s : State) : Outcome :=
  .next (s.withReq fun r s => s.answer (if s.dev.bringUp < 5 then [] else bytesOfNat (s.dev.configRead r.addr).toNat 4))

end Sys2Proof.Machine
end

