-- ==== Sys2Proof/Machine/Device.lean ====
section
/-! DEFINITION. The error-log, debug, trace and counter registers (R417 to R423), test slices (R421), power, links and resets
(R424 to R430). -/

namespace Sys2Proof.Machine

/-! ## Registers of R423 -/

/-- ELBASE is set: the packets of every queue that wait are accepted (R429). -/
def execElbase (s : State) : Outcome :=
  .next (s.withReq fun r s =>
    let t := { s with dev := { s.dev with elbase := r.value &&& ~~~0xFFF#64 } }
    (t.dev.queues.map (·.1)).foldl State.acceptQueue t)

/-- LOST is read, and cleared (R423). -/
def execLost (s : State) : Outcome :=
  .next ({ s with dev := { s.dev with lost := 0 } }.answer (bytesOfNat s.dev.lost.toNat 8))

/-- TRDROP is read, and cleared (R423). -/
def execTrdrop (s : State) : Outcome :=
  .next ({ s with dev := { s.dev with trdrop := 0 } }.answer (bytesOfNat s.dev.trdrop.toNat 8))

/-- REGISTER_WRITE (R405, R423): a BAR0 write to a register without a row of its own. A write to QHEAD or to offsets 0x28 to 0x3F of a
queue's block is ignored and logged; one to a read-only register, or to no register, is ignored. -/
def execRegisterWrite (s : State) : Outcome :=
  .next (s.withReq fun r s =>
    let d := s.dev
    if 0x10000 ≤ r.addr ∧ r.addr < 0x14000 ∧ (0x28 ≤ r.addr % 64 ∨ r.addr % 64 = 0x10) then s.ignoreWrite r.addr
    else
      { s with dev :=
          match r.addr with
          | 0x0108 => { d with elsize := r.value.setWidth 4 }
          | 0x0118 => { d with elcons := r.value.setWidth 32 }
          | 0x0210 => { d with trbase := r.value &&& ~~~0xFFF#64 }
          | 0x0218 => { d with trsize := r.value.setWidth 4 }
          | 0x0228 => { d with trcons := r.value.setWidth 32 }
          | 0x0240 => { d with dbgsel := r.value }
          | _ => d })

/-- CNTCFG (R420): OVF is cleared by writing 1, which sets the counter to 0. Nonzero reserved bits are dropped: a host write has no context whose RSVW
could be set (R8; log 94). -/
def execCntcfg (s : State) : Outcome :=
  .next (s.withReq fun r s =>
    let k := (r.addr - 0x100000) / 8
    let f (x : Counter) : Counter :=
      { en := r.value.getLsbD 63, ovie := r.value.getLsbD 62, ovf := x.ovf && !r.value.getLsbD 61, evsel := r.value.setWidth 8,
        val := if r.value.getLsbD 61 then 0 else x.val }
    if Config.cores ≤ k / 16 then s
    else if k / 16 = s.core.num.toNat then
      s.modCore fun c => { c with counters := c.counters.set (k % 16) (f (c.counters.get (Fin.ofNat 16 k))) (Nat.mod_lt k (by decide)) }
    else { s with dev := { s.dev with otherCounters := Sparse.set 0 s.dev.otherCounters k (r.value &&& 0xC0000000000000FF#64) } })

/-! ## The debug engine (R418, R423) -/

/-- Nothing is stopped any more. -/
def State.setDebugIdle (s : State) : State :=
  { s with dev := { s.dev with dbgStopped := false, dbgStopReq := false, dbgStep := none } }

/-- DEBUG_CLAIM (R423). -/
def execDebugClaim (s : State) : Outcome :=
  .next (s.withReq fun r s =>
    let j : BitVec 32 := r.value.setWidth 32
    { s with dev := { s.dev with
        dbgJob := j, dbgClaimed := s.runs j, dbgBad := !s.runs j, dbgStopped := s.dev.dbgStopped && decide (s.dev.dbgJob = j),
        dbgStopReq := s.dev.dbgStopReq && decide (s.dev.dbgJob = j) } })

/-- DEBUG_RELEASE (R423): the job goes on. -/
def execDebugRelease (s : State) : Outcome :=
  .next (s.withReq fun r s =>
    { s with dev := { s.dev with dbgJob := r.value.setWidth 32, dbgClaimed := false, dbgStopped := false, dbgStopReq := false, dbgStep := none } })

/-- STOP (R418): a free job stops at instruction boundaries, a superstep job at its next exchange boundary; one on other cores only
stops there (log 40), and an evicted free one is stopped where it is saved (log 93). -/
def execStop (s : State) : Outcome :=
  .next (if s.dev.dbgClaimed = false ∨ s.dev.dbgStopped then s
    else if s.claimed then
      (if s.job.superstep then { s with dev := { s.dev with dbgStopReq := true } } else s.stopJob)
    else
      match s.evicted.find? fun x => decide (x.job.jobid = s.dev.dbgJob) with
      | some x =>
        if x.job.superstep then { s with dev := { s.dev with dbgStopReq := true } } else { s with dev := { s.dev with dbgStopped := true } }
      | none => { s with dev := { s.dev with dbgStopped := s.runs s.dev.dbgJob } })

/-- RESUME (R418). -/
def execResume (s : State) : Outcome :=
  .next (if s.dev.dbgClaimed then s.setDebugIdle else s)

/-- The claimed job as this core holds it: running or evicted (R418). -/
def State.claimedJob (s : State) : Option Job :=
  if s.dev.dbgClaimed = false then none
  else if s.claimed then some s.job
  else (s.evicted.find? fun x => decide (x.job.jobid = s.dev.dbgJob)).map (·.job)

/-- STEP (R418): one instruction of the context that DBGCMD names, or, for a superstep job, on to the next exchange boundary. An evicted job takes its
step once it is restored (log 93); one on other cores takes it there, and stops again (log 40). -/
def execStep (s : State) : Outcome :=
  .next (s.withReq fun r s =>
    match s.claimedJob with
    | none => s
    | some j =>
    if s.dev.dbgStopped = false then s
    else if j.superstep then { s with dev := { s.dev with dbgStopped := false, dbgStopReq := true } }
    else
      let n := natBits r.value.toNat 23 20
      if h : n < 11 ∧ natBits r.value.toNat 19 8 = s.core.num.toNat then
        { s with dev := { s.dev with dbgStep := some ⟨n, h.1⟩ } }
      else s)

/-- KILL (R418): the claimed job ends as ABORTED with REASON 6. -/
def execKill (s : State) : Outcome :=
  .next (if s.dev.dbgClaimed = false then s
    else if s.claimed then (s.abortJob 6).setDebugIdle
    else (State.abortOthers 6 (s.dev.jobs.filter fun j => decide (j.job.jobid = s.dev.dbgJob))
      (State.abortSaved 6 (s.evicted.filter fun x => decide (x.job.jobid = s.dev.dbgJob)) s)).setDebugIdle)

/-- The cores of the claimed job, while it is stopped (R423): nothing is read or written at any other time. -/
def State.debugCores (s : State) : List (BitVec 12) :=
  if s.dev.dbgClaimed = false ∨ s.dev.dbgStopped = false then []
  else if s.claimed then s.job.cores
  else ((s.dev.jobs.find? fun j => !j.saved && decide (j.job.jobid = s.dev.dbgJob)).map (·.job.cores)).getD []

/-- The context that DBGSEL names; 11 to 15 name none. -/
def debugCtx (sel : Nat) : Option (Fin 11) := if h : natBits sel 15 12 < 11 then some ⟨natBits sel 15 12, h⟩ else none

/-- The loop register that a DBGSEL index names (log 42). -/
def debugLoopReg (i : Nat) : Fin 3 × LoopReg :=
  let k := (Config.debugLoop i).toNat % 9
  (Fin.ofNat 3 (k / 3), if k % 3 = 0 then .lc else if k % 3 = 1 then .ls else .le)

/-- An item of a context of this core, by space and index (R423). -/
def State.debugItem (s : State) (space i : Nat) : Word :=
  match space with
  | 0 => if i < 32 then s.ctx.readX (BitVec.ofNat 5 i) else 0
  | 1 => if i < 256 then ((s.ctx.readV (BitVec.ofNat 5 (i / 8))) >>> (64 * (i % 8))).setWidth 64 else 0
  | 2 => if i < 8 then s.ctx.readP (BitVec.ofNat 3 i) else 0
  | 3 => s.ctx.readLoop (debugLoopReg i).1 (debugLoopReg i).2
  | 4 => match (if i < 2 ^ 13 then CtrlReg.ofCode (BitVec.ofNat 13 i) else none) with
    | some r => s.readCtrl r
    | none => 0
  | _ => 0

/-- A v register with one of its eight 64-bit words replaced. -/
def putWord (v : Vec) (k : Nat) (w : Word) : Vec :=
  (v &&& ~~~((BitVec.allOnes 64).setWidth 512 <<< (64 * k))) ||| (w.setWidth 512 <<< (64 * k))

/-- An item of a context of this core written (R423). -/
def State.setDebugItem (s : State) (space i : Nat) (w : Word) : State :=
  match space with
  | 0 => if i < 32 then s.modCtx fun c => c.put (.x (BitVec.ofNat 5 i)) (w.setWidth 512) else s
  | 1 =>
    let r : BitVec 5 := BitVec.ofNat 5 (i / 8)
    if i < 256 then s.modCtx fun c => c.put (.v r) (putWord (c.readV r) (i % 8) w) else s
  | 2 => if i < 8 then s.modCtx fun c => c.put (.p (BitVec.ofNat 3 i)) (w.setWidth 512) else s
  | 3 => s.modCtx fun c => c.writeLoop (debugLoopReg i).1 (debugLoopReg i).2 w s.seq
  | 4 => match (if i < 2 ^ 13 then CtrlReg.ofCode (BitVec.ofNat 13 i) else none) with
    | some r => s.writeCtrl r w w
    | none => s
  | _ => s

/-- What DBGDATA reads (R423): of another core's registers and partition, a free value (log 34). A read has no effect of its own. -/
def State.debugRead (s : State) : Word :=
  let sel := s.dev.dbgsel.toNat
  let core : BitVec 12 := BitVec.ofNat 12 (natBits sel 11 0)
  let space := natBits sel 19 16
  let i := natBits sel 63 32
  if core ∉ s.debugCores then 0
  else if space = 5 then
    (if i < Config.scratchBytes ∧ i % 8 = 0 then bitsOfBytes 64 (s.peek (scratchKey core.toNat i) 8) else 0)
  else if core ≠ s.core.num then Config.remoteState s.cycle s.dev.dbgsel
  else if space = 6 then (if i < 256 * 64 then (Sparse.get 0 s.core.matrix.acc i).setWidth 64 else 0)
  else match debugCtx sel with
    | some n => { s with cur := n }.debugItem space i
    | none => 0

/-- DBGDATA written (R423): another core's registers and partition are its own (log 34). -/
def State.debugWrite (s : State) (w : Word) : State :=
  let sel := s.dev.dbgsel.toNat
  let core : BitVec 12 := BitVec.ofNat 12 (natBits sel 11 0)
  let space := natBits sel 19 16
  let i := natBits sel 63 32
  if core ∉ s.debugCores then s
  else if space = 5 then
    (if i < Config.scratchBytes ∧ i % 8 = 0 then s.poke noSource (scratchKey core.toNat i) (bytesOfNat w.toNat 8) else s)
  else if core ≠ s.core.num then s
  else if space = 6 then
    (if i < 256 * 64 then
      s.modCore fun c => { c with matrix := { c.matrix with acc := Sparse.set 0 c.matrix.acc i (w.setWidth 32) } }
    else s)
  else match debugCtx sel with
    | some n => { ({ s with cur := n }.setDebugItem space i w) with cur := s.cur }
    | none => s

/-- DBGDATA_READ (R423). -/
def execDbgdataRead (s : State) : Outcome := .next (s.answer (bytesOfNat s.debugRead.toNat 8))

/-- DBGDATA_WRITE (R423). -/
def execDbgdataWrite (s : State) : Outcome := .next (s.withReq fun r s => s.debugWrite r.value)

/-! ## Test slices (R421) -/

/-- A core runs a job of this device. -/
def State.coreBusy (s : State) (c : BitVec 12) : Bool :=
  (s.job.running && decide (c ∈ s.job.cores)) || s.dev.jobs.any fun j => !j.saved && decide (c ∈ j.job.cores)

/-- The unit of a health-table entry is idle: a core, or a matrix unit with its eight cores (R421, R423). -/
def State.unitIdle (s : State) (u : Nat) : Bool :=
  if u < 3072 then !s.coreBusy (BitVec.ofNat 12 u)
  else (List.range 8).all fun i => !s.coreBusy (BitVec.ofNat 12 ((u - 3072) * 8 + i))

/-- TEST_SLICE (R421): a slice starts on an idle unit. That it has been idle for 50 µs is the event's own (log 49). -/
def execTestSlice (s : State) : Outcome :=
  .next (s.withReq fun r s =>
    if r.addr < 3456 ∧ s.unitIdle r.addr then
      { s with dev := s.dev.setHealth r.addr { s.dev.healthOf r.addr with running := true } }
    else s)

/-- A test slice of unit `u` has ended: its entry is updated, and a failure is logged (R421, R433). -/
def State.endSlice (s : State) (u : Nat) (pass : Bool) : State :=
  let h := s.dev.healthOf u
  let e : Health := { pass, time := s.dev.devtime, fails := if pass then h.fails else h.fails + 1, running := false }
  let t := { s with dev := s.dev.setHealth u e }
  if pass then t else t.logFor 0 0 9 0 (if u < 3072 then 0xF000 + u else noSource) (BitVec.ofNat 32 u) 0

/-- TEST_SLICE_END (R421): bit 0 of the result says that the unit passed. A slice that was abandoned records nothing. -/
def execTestSliceEnd (s : State) : Outcome :=
  .next (s.withReq fun r s => if (s.dev.healthOf r.addr).running = false then s else s.endSlice r.addr (r.value.getLsbD 0))

/-- The device comes to the next step of its bring-up, in order (R429): in step 4 a test slice runs on every unit, with results that are free values
(log 47), and DEVTIME starts; in step 5 every queue has EN = 0. -/
def State.bringUpStep (s : State) : State :=
  let d := s.dev
  if d.power ≠ .d0 ∨ d.bringUp = 0 ∨ 5 ≤ d.bringUp then s
  else
    let t := { s with dev := { d with bringUp := d.bringUp + 1 } }
    match d.bringUp with
    | 3 => ((List.range 3456).filter fun u => !Config.bringUpPass s.cycle u).foldl (fun t u => t.endSlice u false) t
    | 4 => { t with dev := (t.dev.queues.map (·.1)).foldl (fun d q => d.setQueue q { d.queue q with en := false }) t.dev }
    | _ => t

/-! ## Device time, power and throttling (R417, R426, R427) -/

/-- PTM_EXCHANGE (R417): the offset of host time to device time, in nanoseconds and signed, is removed by slewing, or by one step
when the device is behind by 1 ms or more. -/
def execPtmExchange (s : State) : Outcome :=
  .next (s.withReq fun r s =>
    let o := r.value.toInt
    { s with dev :=
      if 1000000 ≤ o then { s.dev with devtime := s.dev.devtime + r.value, slew := 0 } else { s.dev with slew := o } })

/-- PWRCTL (R427): a cap outside 1,200 to 3,200 W is stored as the nearer bound. Nonzero reserved bits are dropped: a host write has no context whose
RSVW could be set (R8; log 94). -/
def execPwrctl (s : State) : Outcome :=
  .next (s.withReq fun r s =>
    { s with dev := { s.dev with
      pwrEn := r.value.getLsbD 16, pwrCap := BitVec.ofNat 16 (Nat.max 1200 (Nat.min 3200 (natBits r.value.toNat 15 0))) } })

/-- PWRST (R427): HOT is cleared by writing 1. -/
def execPwrst (s : State) : Outcome :=
  .next (s.withReq fun r s => { s with dev := { s.dev with hot := s.dev.hot && !r.value.getLsbD 25 } })

/-- The power limit in watts (R426). -/
def Device.powerLimit (d : Device) : Nat := if d.pwrEn then d.pwrCap.toNat else 3200

/-- THROTTLE_WINDOW (R426, R427): a window begins, judged on the one before it; what that one drew and its hottest junction are
free values (log 23). At 115 °C the device trips. -/
def execThrottleWindow (s : State) : Outcome :=
  .next (
    let p := Config.sensor (2 * s.dev.windows)
    let t : BitVec 8 := (Config.sensor (2 * s.dev.windows + 1)).setWidth 8
    { s with
      agenda := if 115 ≤ t.toNat then s.agenda ++ [.trip] else s.agenda,
      dev := { s.dev with
        pwr := p, tjmax := t, windows := s.dev.windows + 1, hot := s.dev.hot || decide (105 ≤ t.toNat),
        throt := decide (s.dev.powerLimit < p.toNat) || decide (105 ≤ t.toNat) } })

/-! ## Resets and power states (R427, R428, R430) -/

/-- Memory of the host and of peer devices: the rest is the module's own. -/
def outsideCells (m : List Host.Cell) : List Host.Cell := m.filter fun c => decide (Config.peerBase ≤ c.1)

/-- Every register and memory of the module takes its reset value (R428); what comes from outside goes on, and so do the counts that
number steps, accesses and windows (log 1). -/
def State.fresh (s : State) (d : Device) : State :=
  { State.reset with
    core := { Core.reset with num := s.core.num }, dev := { d with windows := s.dev.windows },
    mem := outsideCells s.mem, bad := s.bad.filter fun b => decide (Config.peerBase ≤ 64 * b.1),
    agenda := s.agenda.filter fun e => !ofJob e, inbox := s.inbox, turns := s.turns, cycle := s.cycle, seq := s.seq }

/-- The package without power (R427, R430): no record is written, and the host's link is down. -/
def State.unpowered (s : State) : State := s.fresh { Device.reset with power := .off, bringUp := 0, hostLink := false }

/-- TRIP (R427): the effect is that of removing power. -/
def execTrip (s : State) : Outcome := .next s.unpowered

/-- COLD_RESET (R428, R429): bring-up begins. -/
def execColdReset (s : State) : Outcome := .next (s.fresh { Device.reset with bringUp := 1 })

/-- FUNCTION_LEVEL_RESET (R428): every job ends without a record, and HBM, the scratchpads and the stores are zeroed; device time goes
on (R417), and the links stay trained (log 50). -/
def execFunctionLevelReset (s : State) : Outcome :=
  .next (s.fresh { Device.reset with
    devtime := s.dev.devtime, devFrac := s.dev.devFrac, slew := s.dev.slew, bringUp := s.dev.bringUp,
    hostLink := s.dev.hostLink, luralDown := s.dev.luralDown })

/-- D3HOT (R430): a job that runs ends without a record; the registers, the health table, DEVTIME and the manifests are kept. -/
def execD3hot (s : State) : Outcome :=
  .next { s.idle with
    job := Job.none, evicted := [],
    dev := { s.dev with jobs := [], power := .d3hot, dbgStopped := false, dbgStopReq := false, dbgStep := none } }

/-- D0 (R430): the device returns to service. -/
def execD0 (s : State) : Outcome := .next { s with dev := { s.dev with power := .d0 } }

/-- D3COLD (R430): all state is lost. -/
def execD3cold (s : State) : Outcome := .next s.unpowered

/-! ## Links (R201, R424) -/

/-- LURAL_PORT_DOWN (R424): it does not stop the device. -/
def execLuralPortDown (s : State) : Outcome :=
  .next (s.withReq fun r s => { s with dev := { s.dev with luralDown := (BitVec.ofNat 4 r.addr :: s.dev.luralDown).dedup } })

/-- HOST_LINK_DOWN (R201, R427). -/
def execHostLinkDown (s : State) : Outcome := .next { s with dev := { s.dev with hostLink := false } }

end Sys2Proof.Machine
end

