-- ==== Sys2Proof/Machine/Dispatch.lean ====
section
/-! DEFINITION. The dispatch: one arm for each constructor of Instr, one direct call of its meaning. -/

namespace Sys2Proof.Machine

open Sys2Proof

/-- The meaning of an instruction or event. -/
def exec (i : Instr) (s : State) : Host.Outcome State Fault Refusal :=
  match i with
  | .add sw d a b t v => Sys2Proof.Machine.execAdd sw d a b t v s
  | .addi sw d a imm ext => Sys2Proof.Machine.execAddi sw d a imm ext s
  | .sub sw d a b t v => Sys2Proof.Machine.execSub sw d a b t v s
  | .mul sw d a b t v => Sys2Proof.Machine.execMul sw d a b t v s
  | .muli sw d a imm ext => Sys2Proof.Machine.execMuli sw d a imm ext s
  | .mulh sw d a b t => Sys2Proof.Machine.execMulh sw d a b t s
  | .div sw d a b t => Sys2Proof.Machine.execDiv sw d a b t s
  | .rem sw d a b t => Sys2Proof.Machine.execRem sw d a b t s
  | .and sw d a b t => Sys2Proof.Machine.execAnd sw d a b t s
  | .andi sw d a imm ext => Sys2Proof.Machine.execAndi sw d a imm ext s
  | .or sw d a b t => Sys2Proof.Machine.execOr sw d a b t s
  | .ori sw d a imm ext => Sys2Proof.Machine.execOri sw d a imm ext s
  | .xor sw d a b t => Sys2Proof.Machine.execXor sw d a b t s
  | .xori sw d a imm ext => Sys2Proof.Machine.execXori sw d a imm ext s
  | .shl sw d a b t => Sys2Proof.Machine.execShl sw d a b t s
  | .shli sw d a imm => Sys2Proof.Machine.execShli sw d a imm s
  | .shr sw d a b t => Sys2Proof.Machine.execShr sw d a b t s
  | .shri sw d a imm => Sys2Proof.Machine.execShri sw d a imm s
  | .sra sw d a b t => Sys2Proof.Machine.execSra sw d a b t s
  | .srai sw d a imm => Sys2Proof.Machine.execSrai sw d a imm s
  | .clz sw d a t => Sys2Proof.Machine.execClz sw d a t s
  | .ctz sw d a t => Sys2Proof.Machine.execCtz sw d a t s
  | .popc sw d a t => Sys2Proof.Machine.execPopc sw d a t s
  | .min sw d a b t => Sys2Proof.Machine.execMin sw d a b t s
  | .max sw d a b t => Sys2Proof.Machine.execMax sw d a b t s
  | .bfx sw d a b t => Sys2Proof.Machine.execBfx sw d a b t s
  | .bfi sw d a b t => Sys2Proof.Machine.execBfi sw d a b t s
  | .abs sw d a t v => Sys2Proof.Machine.execAbs sw d a t v s
  | .mov sw d a => Sys2Proof.Machine.execMov sw d a s
  | .movFromLoop sw d n r => Sys2Proof.Machine.execMovFromLoop sw d n r s
  | .movToLoop sw n a r => Sys2Proof.Machine.execMovToLoop sw n a r s
  | .movi sw d imm ext => Sys2Proof.Machine.execMovi sw d imm ext s
  | .lea sw d a b disp k ext => Sys2Proof.Machine.execLea sw d a b disp k ext s
  | .slt sw d a b t => Sys2Proof.Machine.execSlt sw d a b t s
  | .slti sw d a imm ext => Sys2Proof.Machine.execSlti sw d a imm ext s
  | .seq sw d a b t => Sys2Proof.Machine.execSeq sw d a b t s
  | .seqi sw d a imm ext => Sys2Proof.Machine.execSeqi sw d a imm ext s
  | .sel sw d a b p => Sys2Proof.Machine.execSel sw d a b p s
  | .pcmp sw d a b t c => Sys2Proof.Machine.execPcmp sw d a b t c s
  | .plog sw d a b t => Sys2Proof.Machine.execPlog sw d a b t s
  | .pmovToPredicate sw d a => Sys2Proof.Machine.execPmovToPredicate sw d a s
  | .pmovFromPredicate sw d a => Sys2Proof.Machine.execPmovFromPredicate sw d a s
  | .pcnt sw d a t => Sys2Proof.Machine.execPcnt sw d a t s
  | .br sw disp ext => Sys2Proof.Machine.execBr sw disp ext s
  | .call sw disp ext => Sys2Proof.Machine.execCall sw disp ext s
  | .jr sw a => Sys2Proof.Machine.execJr sw a s
  | .callr sw a => Sys2Proof.Machine.execCallr sw a s
  | .ret sw => Sys2Proof.Machine.execRet sw s
  | .beqz sw a imm ext => Sys2Proof.Machine.execBeqz sw a imm ext s
  | .bnez sw a imm ext => Sys2Proof.Machine.execBnez sw a imm ext s
  | .bltz sw a imm ext => Sys2Proof.Machine.execBltz sw a imm ext s
  | .bgez sw a imm ext => Sys2Proof.Machine.execBgez sw a imm ext s
  | .bpany sw a imm ext => Sys2Proof.Machine.execBpany sw a imm ext s
  | .bpnone sw a imm ext => Sys2Proof.Machine.execBpnone sw a imm ext s
  | .loop sw n a l ext => Sys2Proof.Machine.execLoop sw n a l ext s
  | .loopi sw n l imm ext => Sys2Proof.Machine.execLoopi sw n l imm ext s
  | .rptf sw sd sa sb n k ext => Sys2Proof.Machine.execRptf sw sd sa sb n k ext s
  | .nop sw => Sys2Proof.Machine.execNop sw s
  | .hstart sw h b imm ext => Sys2Proof.Machine.execHstart sw h b imm ext s
  | .hend sw => Sys2Proof.Machine.execHend sw s
  | .hwait sw a => Sys2Proof.Machine.execHwait sw a s
  | .hstat sw d => Sys2Proof.Machine.execHstat sw d s
  | .gang sw n => Sys2Proof.Machine.execGang sw n s
  | .split sw => Sys2Proof.Machine.execSplit sw s
  | .trap sw code => Sys2Proof.Machine.execTrap sw code s
  | .rte sw => Sys2Proof.Machine.execRte sw s
  | .rteXa sw a => Sys2Proof.Machine.execRteXa sw a s
  | .endCore sw => Sys2Proof.Machine.execEndCore sw s
  | .mfc sw d r => Sys2Proof.Machine.execMfc sw d r s
  | .mtc sw a r => Sys2Proof.Machine.execMtc sw a r s
  | .icinv sw a c => Sys2Proof.Machine.execIcinv sw a c s
  | .brk sw code => Sys2Proof.Machine.execBrk sw code s
  | .pause sw n => Sys2Proof.Machine.execPause sw n s
  | .cntrd sw d c => Sys2Proof.Machine.execCntrd sw d c s
  | .vadd sw d a b t m x => Sys2Proof.Machine.execVadd sw d a b t m x s
  | .vsub sw d a b t m x => Sys2Proof.Machine.execVsub sw d a b t m x s
  | .vmul sw d a b t m x => Sys2Proof.Machine.execVmul sw d a b t m x s
  | .vfma sw d a b t m x => Sys2Proof.Machine.execVfma sw d a b t m x s
  | .vmin sw d a b t m x => Sys2Proof.Machine.execVmin sw d a b t m x s
  | .vmax sw d a b t m x => Sys2Proof.Machine.execVmax sw d a b t m x s
  | .vabs sw d a t m x => Sys2Proof.Machine.execVabs sw d a t m x s
  | .vand sw d a b t m x => Sys2Proof.Machine.execVand sw d a b t m x s
  | .vor sw d a b t m x => Sys2Proof.Machine.execVor sw d a b t m x s
  | .vxor sw d a b t m x => Sys2Proof.Machine.execVxor sw d a b t m x s
  | .vshl sw d a b t m x => Sys2Proof.Machine.execVshl sw d a b t m x s
  | .vshr sw d a b t m x => Sys2Proof.Machine.execVshr sw d a b t m x s
  | .vcmp sw d a b t c x => Sys2Proof.Machine.execVcmp sw d a b t c x s
  | .vsel sw d a b t p x => Sys2Proof.Machine.execVsel sw d a b t p x s
  | .vshuf sw d a b t f x => Sys2Proof.Machine.execVshuf sw d a b t f x s
  | .vperm sw d a b t m x => Sys2Proof.Machine.execVperm sw d a b t m x s
  | .vbcast sw d a t m x => Sys2Proof.Machine.execVbcast sw d a t m x s
  | .vred sw d a op t m x => Sys2Proof.Machine.execVred sw d a op t m x s
  | .vcvt sw d a src dst k x => Sys2Proof.Machine.execVcvt sw d a src dst k x s
  | .vmovxExtract sw d a b t x => Sys2Proof.Machine.execVmovxExtract sw d a b t x s
  | .vmovxInsert sw d a b t x => Sys2Proof.Machine.execVmovxInsert sw d a b t x s
  | .vrcp sw d a t m x => Sys2Proof.Machine.execVrcp sw d a t m x s
  | .vrsq sw d a t m x => Sys2Proof.Machine.execVrsq sw d a t m x s
  | .vtbld sw n a => Sys2Proof.Machine.execVtbld sw n a s
  | .vinterp sw d a n m x => Sys2Proof.Machine.execVinterp sw d a n m x s
  | .ld sw d a b w c o k ext => Sys2Proof.Machine.execLd sw d a b w c o k ext s
  | .st sw d a b w c o k ext => Sys2Proof.Machine.execSt sw d a b w c o k ext s
  | .ldc sw d a b w k ext => Sys2Proof.Machine.execLdc sw d a b w k ext s
  | .vld sw d a b c o k ext => Sys2Proof.Machine.execVld sw d a b c o k ext s
  | .vst sw d a b c o k ext => Sys2Proof.Machine.execVst sw d a b c o k ext s
  | .vldb sw d a b w k ext => Sys2Proof.Machine.execVldb sw d a b w k ext s
  | .vgth sw d a b w m k => Sys2Proof.Machine.execVgth sw d a b w m k s
  | .vsct sw d a b w m k => Sys2Proof.Machine.execVsct sw d a b w m k s
  | .pref sw a b k ext => Sys2Proof.Machine.execPref sw a b k ext s
  | .flush sw a b c k ext => Sys2Proof.Machine.execFlush sw a b c k ext s
  | .tlbinv sw a b c => Sys2Proof.Machine.execTlbinv sw a b c s
  | .tlbprb sw d a => Sys2Proof.Machine.execTlbprb sw d a s
  | .tlbwait sw => Sys2Proof.Machine.execTlbwait sw s
  | .rgnq sw d a => Sys2Proof.Machine.execRgnq sw d a s
  | .ldt sw n a b w k ext => Sys2Proof.Machine.execLdt sw n a b w k ext s
  | .tka sw d a v => Sys2Proof.Machine.execTka sw d a v s
  | .tkt sw d n v => Sys2Proof.Machine.execTkt sw d n v s
  | .reld sw n => Sys2Proof.Machine.execReld sw n s
  | .reldDrop sw n => Sys2Proof.Machine.execReldDrop sw n s
  | .lsq sw d e => Sys2Proof.Machine.execLsq sw d e s
  | .lsmode sw m => Sys2Proof.Machine.execLsmode sw m s
  | .qpush sw q a c => Sys2Proof.Machine.execQpush sw q a c s
  | .qpop sw d q => Sys2Proof.Machine.execQpop sw d q s
  | .qtry sw d q => Sys2Proof.Machine.execQtry sw d q s
  | .qlen sw d q => Sys2Proof.Machine.execQlen sw d q s
  | .gx sw a c => Sys2Proof.Machine.execGx sw a c s
  | .gxs sw a c => Sys2Proof.Machine.execGxs sw a c s
  | .compact sw a c => Sys2Proof.Machine.execCompact sw a c s
  | .sbind sw n a b t wr => Sys2Proof.Machine.execSbind sw n a b t wr s
  | .sbindAffine sw n a t wr => Sys2Proof.Machine.execSbindAffine sw n a t wr s
  | .sfree sw n => Sys2Proof.Machine.execSfree sw n s
  | .sstat sw d n => Sys2Proof.Machine.execSstat sw d n s
  | .sadv sw n a => Sys2Proof.Machine.execSadv sw n a s
  | .wmrd sw d q => Sys2Proof.Machine.execWmrd sw d q s
  | .arv sw d g c o => Sys2Proof.Machine.execArv sw d g c o s
  | .arvn sw d a g c o => Sys2Proof.Machine.execArvn sw d a g c o s
  | .wait sw a g => Sys2Proof.Machine.execWait sw a g s
  | .wtest sw d a g => Sys2Proof.Machine.execWtest sw d a g s
  | .expect sw a g => Sys2Proof.Machine.execExpect sw a g s
  | .sync sw d => Sys2Proof.Machine.execSync sw d s
  | .fence sw c o => Sys2Proof.Machine.execFence sw c o s
  | .bbset sw a term idx => Sys2Proof.Machine.execBbset sw a term idx s
  | .bbrd sw d term idx => Sys2Proof.Machine.execBbrd sw d term idx s
  | .bbclr sw a => Sys2Proof.Machine.execBbclr sw a s
  | .bbpulse sw j => Sys2Proof.Machine.execBbpulse sw j s
  | .phase sw d g => Sys2Proof.Machine.execPhase sw d g s
  | .bgstat sw d g => Sys2Proof.Machine.execBgstat sw d g s
  | .dlkst sw d a => Sys2Proof.Machine.execDlkst sw d a s
  | .amo sw d a b op c o t => Sys2Proof.Machine.execAmo sw d a b op c o t s
  | .red sw a b op c o t => Sys2Proof.Machine.execRed sw a b op c o t s
  | .redv sw d a b op c t => Sys2Proof.Machine.execRedv sw d a b op c t s
  | .cas sw d a b c o t => Sys2Proof.Machine.execCas sw d a b c o t s
  | .ftake sw d a c => Sys2Proof.Machine.execFtake sw d a c s
  | .fput sw a b c => Sys2Proof.Machine.execFput sw a b c s
  | .fpeek sw d a k => Sys2Proof.Machine.execFpeek sw d a k s
  | .finit sw a b k => Sys2Proof.Machine.execFinit sw a b k s
  | .spkclaim sw a => Sys2Proof.Machine.execSpkclaim sw a s
  | .spkpush sw a => Sys2Proof.Machine.execSpkpush sw a s
  | .spkpop sw d a => Sys2Proof.Machine.execSpkpop sw d a s
  | .spkins sw d a b => Sys2Proof.Machine.execSpkins sw d a b s
  | .spklen sw d => Sys2Proof.Machine.execSpklen sw d s
  | .spkfree sw => Sys2Proof.Machine.execSpkfree sw s
  | .swalloc sw d a => Sys2Proof.Machine.execSwalloc sw d a s
  | .swstat sw d a => Sys2Proof.Machine.execSwstat sw d a s
  | .mctx sw a => Sys2Proof.Machine.execMctx sw a s
  | .mmul sw d a b sp => Sys2Proof.Machine.execMmul sw d a b sp s
  | .mloads sw a => Sys2Proof.Machine.execMloads sw a s
  | .mswap sw => Sys2Proof.Machine.execMswap sw s
  | .mstream sw d a => Sys2Proof.Machine.execMstream sw d a s
  | .mdrain sw => Sys2Proof.Machine.execMdrain sw s
  | .acrd sw d a => Sys2Proof.Machine.execAcrd sw d a s
  | .acwr sw d a => Sys2Proof.Machine.execAcwr sw d a s
  | .mchkKat sw d => Sys2Proof.Machine.execMchkKat sw d s
  | .mchkInj sw d a => Sys2Proof.Machine.execMchkInj sw d a s
  | .mzeroAcc sw d => Sys2Proof.Machine.execMzeroAcc sw d s
  | .mzeroSt sw => Sys2Proof.Machine.execMzeroSt sw s
  | .mstat sw d => Sys2Proof.Machine.execMstat sw d s
  | .mwait sw n => Sys2Proof.Machine.execMwait sw n s
  | .mcbk sw a k => Sys2Proof.Machine.execMcbk sw a k s
  | .mflag sw d k => Sys2Proof.Machine.execMflag sw d k s
  | .lmjoin sw a n => Sys2Proof.Machine.execLmjoin sw a n s
  | .lmjoinLeave sw => Sys2Proof.Machine.execLmjoinLeave sw s
  | .draft sw a => Sys2Proof.Machine.execDraft sw a s
  | .warp sw a => Sys2Proof.Machine.execWarp sw a s
  | .weft sw a => Sys2Proof.Machine.execWeft sw a s
  | .lmgo sw a => Sys2Proof.Machine.execLmgo sw a s
  | .lmwait sw d => Sys2Proof.Machine.execLmwait sw d s
  | .lmstat sw d => Sys2Proof.Machine.execLmstat sw d s
  | .phclaim sw a => Sys2Proof.Machine.execPhclaim sw a s
  | .phins sw d a b v => Sys2Proof.Machine.execPhins sw d a b v s
  | .phprb sw d a b v => Sys2Proof.Machine.execPhprb sw d a b v s
  | .phdel sw a b v => Sys2Proof.Machine.execPhdel sw a b v s
  | .phacc sw d a b op v => Sys2Proof.Machine.execPhacc sw d a b op v s
  | .phdrn sw d a b k => Sys2Proof.Machine.execPhdrn sw d a b k s
  | .phfree sw a => Sys2Proof.Machine.execPhfree sw a s
  | .popen sw a => Sys2Proof.Machine.execPopen sw a s
  | .psend sw a v e => Sys2Proof.Machine.execPsend sw a v e s
  | .precv sw d v n => Sys2Proof.Machine.execPrecv sw d v n s
  | .mcast sw d a b => Sys2Proof.Machine.execMcast sw d a b s
  | .sendt sw d a slot => Sys2Proof.Machine.execSendt sw d a slot s
  | .rwin sw a n => Sys2Proof.Machine.execRwin sw a n s
  | .pstat sw d n => Sys2Proof.Machine.execPstat sw d n s
  | .registerWritePerformed ctx seq => Sys2Proof.Machine.execRegisterWritePerformed ctx seq s
  | .pauseExpiry ctx => Sys2Proof.Machine.execPauseExpiry ctx s
  | .helperStops ctx => Sys2Proof.Machine.execHelperStops ctx s
  | .dispatch q placed => Sys2Proof.Machine.execDispatch q placed s
  | .remoteAccess core jobid op => Sys2Proof.Machine.execRemoteAccess core jobid op s
  | .retryResend seq => Sys2Proof.Machine.execRetryResend seq s
  | .dieFenced die => Sys2Proof.Machine.execDieFenced die s
  | .deferredUncorrectable ctx seq source iaddr caddr => Sys2Proof.Machine.execDeferredUncorrectable ctx seq source iaddr caddr s
  | .walk va => Sys2Proof.Machine.execWalk va s
  | .tlbinvCompletion ctx => Sys2Proof.Machine.execTlbinvCompletion ctx s
  | .slotLands ctx tag => Sys2Proof.Machine.execSlotLands ctx tag s
  | .streamFetch n => Sys2Proof.Machine.execStreamFetch n s
  | .commandStart q => Sys2Proof.Machine.execCommandStart q s
  | .commandCompletion q => Sys2Proof.Machine.execCommandCompletion q s
  | .firmwarePath q resolved => Sys2Proof.Machine.execFirmwarePath q resolved s
  | .arrival g core weight report => Sys2Proof.Machine.execArrival g core weight report s
  | .expectReachesRoot g n => Sys2Proof.Machine.execExpectReachesRoot g n s
  | .completionBroadcast g phase => Sys2Proof.Machine.execCompletionBroadcast g phase s
  | .pulse src => Sys2Proof.Machine.execPulse src s
  | .heldHelperStart term => Sys2Proof.Machine.execHeldHelperStart term s
  | .probe ctx => Sys2Proof.Machine.execProbe ctx s
  | .probeReceived ctx sender minimum => Sys2Proof.Machine.execProbeReceived ctx sender minimum s
  | .takePresentedAgain ctx => Sys2Proof.Machine.execTakePresentedAgain ctx s
  | .matrixResidueFault ctx detail iaddr caddr => Sys2Proof.Machine.execMatrixResidueFault ctx detail iaddr caddr s
  | .pick inWarp inWeft => Sys2Proof.Machine.execPick inWarp inWeft s
  | .rePickPass inWarp inWeft => Sys2Proof.Machine.execRePickPass inWarp inWeft s
  | .weaveEnd others => Sys2Proof.Machine.execWeaveEnd others s
  | .portWordArrival port src w closes => Sys2Proof.Machine.execPortWordArrival port src w closes s
  | .closingMarker port => Sys2Proof.Machine.execClosingMarker port s
  | .abortCloseFlit port => Sys2Proof.Machine.execAbortCloseFlit port s
  | .sendAllowance ctx => Sys2Proof.Machine.execSendAllowance ctx s
  | .reclaimMessage port n => Sys2Proof.Machine.execReclaimMessage port n s
  | .mcastHop ctx seq refused => Sys2Proof.Machine.execMcastHop ctx seq refused s
  | .teardownCompletes q => Sys2Proof.Machine.execTeardownCompletes q s
  | .counterOverflow n => Sys2Proof.Machine.execCounterOverflow n s
  | .accessPerformed seq => Sys2Proof.Machine.execAccessPerformed seq s
  | .icinvCompletion ctx => Sys2Proof.Machine.execIcinvCompletion ctx s
  | .routerArbitration reqs => Sys2Proof.Machine.execRouterArbitration reqs s
  | .undefinedInstruction => Sys2Proof.Machine.execUndefinedInstruction s
  | .coreFree => Sys2Proof.Machine.execCoreFree s
  | .coreSave => Sys2Proof.Machine.execCoreSave s
  | .landingSetDrainBound => Sys2Proof.Machine.execLandingSetDrainBound s
  | .restore => Sys2Proof.Machine.execRestore s
  | .hostWrite => Sys2Proof.Machine.execHostWrite s
  | .hostRead => Sys2Proof.Machine.execHostRead s
  | .arbiterStep => Sys2Proof.Machine.execArbiterStep s
  | .matrixCommandComplete => Sys2Proof.Machine.execMatrixCommandComplete s
  | .stationaryPairGrant => Sys2Proof.Machine.execStationaryPairGrant s
  | .mswapTakesEffect => Sys2Proof.Machine.execMswapTakesEffect s
  | .weaveStart => Sys2Proof.Machine.execWeaveStart s
  | .latchedTask => Sys2Proof.Machine.execLatchedTask s
  | .clusterReset => Sys2Proof.Machine.execClusterReset s
  | .doorbell => Sys2Proof.Machine.execDoorbell s
  | .qbase => Sys2Proof.Machine.execQbase s
  | .qsize => Sys2Proof.Machine.execQsize s
  | .qhead => Sys2Proof.Machine.execQhead s
  | .queueEnable => Sys2Proof.Machine.execQueueEnable s
  | .queueDisable => Sys2Proof.Machine.execQueueDisable s
  | .teardown => Sys2Proof.Machine.execTeardown s
  | .registerWrite => Sys2Proof.Machine.execRegisterWrite s
  | .elbase => Sys2Proof.Machine.execElbase s
  | .lost => Sys2Proof.Machine.execLost s
  | .trdrop => Sys2Proof.Machine.execTrdrop s
  | .debugClaim => Sys2Proof.Machine.execDebugClaim s
  | .debugRelease => Sys2Proof.Machine.execDebugRelease s
  | .stop => Sys2Proof.Machine.execStop s
  | .resume => Sys2Proof.Machine.execResume s
  | .step => Sys2Proof.Machine.execStep s
  | .kill => Sys2Proof.Machine.execKill s
  | .dbgdataRead => Sys2Proof.Machine.execDbgdataRead s
  | .dbgdataWrite => Sys2Proof.Machine.execDbgdataWrite s
  | .cntcfg => Sys2Proof.Machine.execCntcfg s
  | .testSlice => Sys2Proof.Machine.execTestSlice s
  | .testSliceEnd => Sys2Proof.Machine.execTestSliceEnd s
  | .ptmExchange => Sys2Proof.Machine.execPtmExchange s
  | .getMeasurements => Sys2Proof.Machine.execGetMeasurements s
  | .vendorDefinedRequest => Sys2Proof.Machine.execVendorDefinedRequest s
  | .pwrctl => Sys2Proof.Machine.execPwrctl s
  | .pwrst => Sys2Proof.Machine.execPwrst s
  | .throttleWindow => Sys2Proof.Machine.execThrottleWindow s
  | .trip => Sys2Proof.Machine.execTrip s
  | .coldReset => Sys2Proof.Machine.execColdReset s
  | .functionLevelReset => Sys2Proof.Machine.execFunctionLevelReset s
  | .d3hot => Sys2Proof.Machine.execD3hot s
  | .d0 => Sys2Proof.Machine.execD0 s
  | .d3cold => Sys2Proof.Machine.execD3cold s
  | .luralPortDown => Sys2Proof.Machine.execLuralPortDown s
  | .peerDeviceAccess => Sys2Proof.Machine.execPeerDeviceAccess s
  | .hostAtomicop => Sys2Proof.Machine.execHostAtomicop s
  | .hostLinkDown => Sys2Proof.Machine.execHostLinkDown s
  | .spdmRequest => Sys2Proof.Machine.execSpdmRequest s
  | .configurationSpaceAccess => Sys2Proof.Machine.execConfigurationSpaceAccess s

end Sys2Proof.Machine
end

