-- ==== Sys2Proof/Machine/Others.lean ====
section
/-! DEFINITION. What moves besides the core's own cycles and the agenda: the other cores, as far as this one can observe them (log 34), and
the freedom that the memory model leaves: loads read early (R310), and engine and stream accesses in another order (R169, R246, R313). -/

namespace Sys2Proof.Machine

/-! ## Other cores at GANG, LMJOIN, LMGO and END (R137, R138, R348, R354) -/

/-- A peer joins a list in place of what it did before. -/
def joinPeers (l : List Peer) (p : Peer) : List Peer := (l.filter fun x => decide (x.pos ≠ p.pos)) ++ [p]

/-- Another position of this cluster. -/
def State.otherPosition (s : State) (pos : Nat) : Bool := decide (pos < 32) && decide (pos ≠ s.position)

/-- The cluster's other cores changed by `f` where `pos` is one of them. -/
def State.peerActs (s : State) (pos : Nat) (f : Cluster → Cluster) : State :=
  if s.otherPosition pos then { s with clu := f s.clu } else s

/-- The peer at a position, from now on. -/
def State.peerNow (s : State) (pos n : Nat) : Peer := { pos, n, since := s.cycle }

/-- The GANG or LMJOIN at which this core's context 0 waits, as a peer of the others. -/
def State.ownWait (s : State) (loom : Bool) : List Peer :=
  match (s.ctxAt 0).wait with
  | some w =>
    match w.instr with
    | some (.gang _ n) => if loom then [] else [{ pos := s.position, n := 2 ^ n.toNat, since := w.since }]
    | some (.lmjoin _ _ n) => if loom then [{ pos := s.position, n := loomSize n, since := w.since }] else []
    | _ => []
  | none => []

/-- Another core comes to GANG with a size (R138): it waits, or it traps and its range and those that it meets form no gang any more. -/
def State.peerGang (s : State) (pos n : Nat) : State :=
  let others := (s.clu.gangWait.filter fun x => decide (x.pos ≠ pos)) ++ s.ownWait false
  if s.otherPosition pos = false ∨ n ∉ [2, 4, 8] then s
  else if rangeClashes s.clu.gangClash others s.clu.ended pos n s.cycle then s.noteGangClash (clashOf others pos n s.cycle)
  else { s with clu := { s.clu with gangWait := joinPeers s.clu.gangWait (s.peerNow pos n) } }

/-- Another core comes to LMJOIN with a size (R348). -/
def State.peerLoom (s : State) (pos n : Nat) : State :=
  let others := (s.clu.loomWait.filter fun x => decide (x.pos ≠ pos)) ++ s.ownWait true
  if s.otherPosition pos = false ∨ n ∉ [8, 16, 32] then s
  else if rangeClashes s.clu.loomClash others s.clu.ended pos n s.cycle then s.noteLoomClash (clashOf others pos n s.cycle)
  else { s with clu := { s.clu with loomWait := joinPeers s.clu.loomWait (s.peerNow pos n) } }

/-- Another core of the loom executes LMGO (R354). -/
def State.loomArms (s : State) (pos : Nat) : State :=
  if pos ∈ s.loomOthers ∧ s.core.loom.size ≠ 0 then { s with clu := { s.clu with loomArmed := joinPeers s.clu.loomArmed (s.peerNow pos 0) } } else s

/-- The first key of the scratchpad at a position of this cluster. -/
def State.scratchAt (s : State) (pos : Nat) : Nat := scratchKey (s.clusterCore pos).toNat 0

/-- The core at a position is saved for some cycles (R153, R154): its deferred lists go with it, and their entries are presented again
(R291). -/
def State.peerSaved (s : State) (pos cycles : Nat) : State :=
  if s.otherPosition pos then
    { s with
      clu := { s.clu with saving := s.clu.saving ++ [(pos, s.cycle, s.cycle + cycles)] },
      takers := s.takers.filter fun e => !(decide (s.scratchAt pos ≤ e.key) && decide (e.key < s.scratchAt pos + Config.scratchBytes)) }
  else s

/-! ## Other cores' pigeonhole tables (R366, R367) -/

/-- Another core of the cluster claims a table, whose buckets are all empty then (R366). -/
def State.peerTable (s : State) (core : BitVec 12) (t : PhTable) : State :=
  let p : PhPlace := { owner := core, table := t }
  if s.otherPosition (core.toNat % 32) = false ∨ core ≠ s.clusterCore (core.toNat % 32) ∨ (s.tableAt core t.base).isSome then s
  else
    match State.spillPlaces p true (List.range (2 ^ t.c)) s with
    | (_, .error _, _) => s
    | (u, .ok keys, _) =>
      let v := State.emptySpills p keys (State.emptyHomes p (List.range (2 ^ t.b)) u)
      { v with clu := { v.clu with phTables := v.clu.phTables ++ [(core, t)] } }

/-- A context of this core has an operation on another core's table at its unit, or a vector form under way there (R367). -/
def State.usesTable (s : State) (core : BitVec 12) (base : Nat) : Bool :=
  (List.finRange 11).any fun n =>
    ((s.ctxAt n).ph.any fun r => decide (r.owner = core) && decide (r.base = base))
      || ((s.ctxAt n).phArrived.isSome && decide (s.phOwner n = some core)
        && (s.ctxAt n).wait.any fun w => match regionOf w.addr with | .scratch _ off => decide (off = base) | _ => false)

/-- Another core frees a table, once no operation is under way on it (R367). -/
def State.peerFrees (s : State) (core : BitVec 12) (base : Nat) : State :=
  if s.usesTable core base then s
  else { s with clu := { s.clu with phTables := s.clu.phTables.filter fun x => !(decide (x.1 = core) && decide (x.2.base = base)) } }

/-! ## Other cores' stores, full/empty words and requests (R158, R289, R297, R302, R386) -/

/-- Another core. -/
def State.isOther (s : State) (core : BitVec 12) : Bool := decide (core ≠ s.core.num)

/-- Another core's store outside this core's scratchpad, into which its accesses come through the router, is performed (R302). -/
def State.peerStores (s : State) (core : BitVec 12) (key : Nat) (data : List Byte) : State :=
  let own := scratchKey s.core.num.toNat 0
  if s.isOther core ∧ overlaps key data.length own Config.scratchBytes = false then (s.poke core.toNat key data).wake else s

/-- An atomic has read these bytes at the cluster's unit or at a port, and has yet to write them (R286). -/
def State.halfDone (s : State) (key n : Nat) : Bool :=
  (s.accs.any fun a => match a.op with | .unitWrite _ => overlaps a.key a.len key n | _ => false)
    || s.halves.any fun h => overlaps h.key h.data.length key n

/-- Another core's atomic of the cluster's unit, or of a fabric port, on a word outside this core's scratchpad reads it now, and writes it some time
later; one that has read the word at that point before it comes first (R286). -/
def State.peerAtomic (s : State) (core : BitVec 12) (key : Nat) (op : AtomicOp) (t : AtomicTy) (b : Word) : State :=
  let n := atomicBits t / 8
  if s.isOther core ∧ key % n = 0 ∧ s.within .core key = false ∧ (s.within .clu key ∨ key < Config.scratchBase) ∧ s.halfDone key n = false
      ∧ (s.badAt key n).isNone then
    s.addHalf core.toNat key (bytesOfNat ((Rmw.op op t).new (natOfBytes (s.peek key n)) b) n)
  else s

/-- A word of a scratchpad of this cluster that is not this core's. -/
def State.peerWord (s : State) (key : Nat) : Bool := decide (key % 8 = 0) && s.within .clu key && !s.within .core key

/-- Another core's FPUT to such a word (R289). -/
def State.peerPuts (s : State) (core : BitVec 12) (ctx : Fin 11) (key : Nat) (v : Word) : State :=
  if s.isOther core ∧ s.peerWord key ∧ s.isFull key = false then
    (s.fputAt (core.toNat + ctx.val * 2 ^ 12) key (core.toNat * 16 + ctx.val) v).wake
  else s

/-- Another core's FINIT of such a word (R289). -/
def State.peerInits (s : State) (core : BitVec 12) (key : Nat) (v : Word) (full : Bool) : State :=
  if s.isOther core ∧ s.peerWord key then (s.finitAt core.toNat key v full).wake else s

/-- Another core's FTAKE of such a word (R289). -/
def State.peerTakes (s : State) (core : BitVec 12) (ctx : Fin 11) (key : Nat) : State :=
  if s.isOther core = false ∨ s.peerWord key = false then s
  else if s.isFull key then s.setFull key false
  else if (s.takers.filter fun e => decide (e.key / Config.scratchBytes = key / Config.scratchBytes)).length < 64 then
    { s with takers := s.takers ++ [{ core, ctx, key }] }
  else s

/-- Another core's context is on no deferred list any more: it took a deadlock trap, or stopped (R291). -/
def State.peerUntakes (s : State) (core : BitVec 12) (ctx : Fin 11) : State :=
  if s.isOther core then { s with takers := s.takers.filter fun e => !(decide (e.core = core) && decide (e.ctx = ctx)) } else s

/-- A context of another core of the job takes a range (R158). -/
def State.peerRange (s : State) (core : BitVec 12) (ctx : Fin 11) : State :=
  if s.isOther core ∧ core ∈ s.job.cores then
    { s with job := { s.job with space := { s.job.space with takes := s.job.space.takes ++ [{ core, ctx, since := s.cycle }] } } }
  else s

/-- Another core of the superstep domain sends its arrival off (R270). -/
def State.peerDeparts (s : State) (core : BitVec 12) : State :=
  match s.bar.domain with
  | some g => if s.isOther core ∧ core ∈ s.job.cores then s.noteArrival g core 1 else s
  | none => s

/-- A port's requests of other cores changed by `f` (R386). -/
def State.peerAsks (s : State) (port : BitVec 2) (core : BitVec 12)
    (f : List (BitVec 12 × Fin 11) → List (BitVec 12 × Fin 11)) : State :=
  if s.isOther core then s.modPort port fun p => { p with requests := f p.requests } else s

/-- A tile of another core's multicast reaches this core (R390). -/
def State.peerMcast (s : State) (core : BitVec 12) (ctx : Fin 11) (id : BitVec 16) (group : Option (BitVec 5)) (doff : Nat) (data : List Byte) :
    State :=
  if s.isOther core ∧ core ∈ s.job.cores ∧ doff + data.length ≤ Config.scratchBytes then
    (s.mcastStore (core.toNat + ctx.val * 2 ^ 12) id group doff s.core.num data).1.wake
  else s

/-! ## The pair, the matrix unit and the loom (R163, R336, R337, R355, R356) -/

/-- Another core takes the stationary pair, or gives it up (R337). -/
def State.peerOwns (s : State) (taken : Bool) : State :=
  if s.core.matrix.own then s
  else
    let t := s.modCore fun c => { c with matrix := { c.matrix with otherOwner := taken } }
    if taken then t else { t with agenda := t.agenda ++ t.core.matrix.next }

/-- Another core of the loom injects a warp (R356). -/
def State.peerWarp (s : State) (lpos : Nat) (id : BitVec 16) (src : Word) : State :=
  if s.core.loom.size ≠ 0 ∧ lpos ≠ s.core.loom.lpos ∧ lpos < 2 ^ (s.core.loom.size.toNat + 2) then
    s.modCore fun c => { c with loom := { c.loom with warps := c.loom.warps ++ [(lpos, id, src)] } }
  else s

/-! ## The bellboard (R273, R275) -/

/-- The board takes the instruction from another core: R273 gives what it refuses. -/
def State.boardTakes (s : State) : BoardOp → Bool
  | .setCounter _ src thresh => !badCounter (BitVec.ofNat 64 (src.toNat + thresh.toNat * 2 ^ 8))
  | .setTerm _ cfg _ => !s.badTerm (cfg.setWidth 64)
  | .clear _ => true

/-- Another core acts on the bellboard. The instructions of one network cycle take effect in ascending position: one of a higher position than this
core's waits for the end of the cycle, and one of a position below the last that has acted in it comes too late for it (R275). -/
def State.peerBoard (s : State) (pos : Nat) (op : BoardOp) : State :=
  let now := s.cycle / 2 + 1
  if s.ownsBoard = false ∨ s.otherPosition pos = false ∨ s.boardTakes op = false then s
  else if s.position < pos then { s with clu := { s.clu with boardOps := s.clu.boardOps ++ [(pos, op)] } }
  else if s.clu.boardLast.1 = now ∧ pos < s.clu.boardLast.2 then s
  else { s with clu := { s.clu with boardLast := (now, pos) } }.boardOp op

/-! ## Routes and the trace (R385, R419) -/

/-- A context of another core that receives on a port ends: the route of a context of this core into it is aborted (R385, R396). -/
def State.peerPortEnds (s : State) (core : BitVec 12) (port : BitVec 2) : State :=
  if s.isOther core then
    { s with ctxs := mapVec (fun c : Ctx => if c.send.core = core ∧ c.send.port = port then { c with send := c.send.abort } else c) s.ctxs }
  else s

/-- The trace samples a context of the claimed job: R419 gives no times (log 134). -/
def State.sampleCtx (s : State) (n : Fin 11) : State :=
  if s.claimed ∧ (s.ctxAt n).live then s.trace 4 n.val (s.ctxAt n).pc else s

/-! ## The gang (R52, R144, R223) -/

/-- The other positions of the gang. -/
def State.gangOthers (s : State) : List Nat :=
  match s.core.gang with
  | some g => ((List.range g.n).map (s.position / g.n * g.n + ·)).filter (· ≠ s.position)
  | none => []

/-- The core's gang changed by `f`. -/
def State.modGang (s : State) (f : Gang → Gang) : State := s.modCore fun c => { c with gang := c.gang.map f }

/-! ## Refused accesses (R431) -/

/-- The trap of a load or an atomic that another job's core has refused: deferred to the context's boundary, and already logged (R431). -/
def refusedTrap (a : Acc) : TrapInfo :=
  { cause := 0x03, detail := 5, tag := none, fetch := false, next := true, ret := 0, iaddr := a.iaddr, caddr := a.caddr, log := false }

/-- A load or an atomic that another job's core refuses writes nothing; its error waits for the context's boundary. While one of an instruction
address waits, another of it adds none: for several lanes, or two issues, there is one trap (R431; DESIGN CHOICE, log 135). -/
def State.refuseValue (s : State) (a : Acc) (wseq : Nat) : State :=
  (s.fill a.ctx wseq id true).modCtxAt a.ctx fun c =>
    { c with deferred := if c.deferred.any fun t => decide (t.cause = 0x03) && decide (t.iaddr = a.iaddr) then c.deferred
                         else c.deferred ++ [refusedTrap a] }

/-- What becomes of a refused access: a store is dropped, a value is not written, and a tagged load lands a marker (R431). -/
def State.refuseOp (s : State) (a : Acc) : State :=
  match a.op with
  | .load _ w => s.refuseValue a w
  | .fullBit w => s.refuseValue a w
  | .atomic _ _ (some w) _ => s.refuseValue a w
  | .tagged t =>
    s.modCtxAt a.ctx fun c => c.modSlot t fun x => { x with read := true, cause := 0x03, detail := 5, caddr := a.caddr }
  | _ => s

/-- The access reaches another core now: it waits for nothing, and is not waiting to be sent again (R154). -/
def State.arrives (s : State) (a : Acc) : Bool := s.canSend a && (a.retry.isNone || a.retry.any fun c => decide (c ≤ s.cycle))

/-- The access numbered `seq` reaches a core that has been given to another job, this core's job being evicted: it is refused and logged, whether it
is sent for the first time or again (R154, R431). -/
def State.peerRefuses (s : State) (seq : Nat) : State :=
  match s.accs.find? fun a => decide (a.seq = seq) with
  | some a =>
    if s.job.evicted ∧ inScratch s.job.cores a.key ∧ s.within .core a.key = false ∧ s.arrives a then
      (((s.logEntry true 1 0x03 (s.sourceOf a.ctx) 5 a.caddr).refuseOp a).dropAcc a).wake
    else s
  | none => s

/-- An access of the head command of a queue is refused so (R431): the command stops. -/
def State.peerRefusesCmd (s : State) (q : Fin 5) (a : Word) : State :=
  match s.headCmd q with
  | some c =>
    if s.job.evicted ∧ c.started ∧ c.path ≠ .waiting ∧ c.next < c.units ∧ s.reach a = .other then
      ((s.unitViolation 0x03 5 a).modHead q fun c => c.stop 3).engineNext q
    else s
  | none => s

/-! ## What another core does -/

/-- Another core acts (log 34). What this core's state does not allow leaves it as it is. -/
def State.otherActs (s : State) : OtherAct → State
  | .gangWait pos n => s.peerGang pos n
  | .loomWait pos n => s.peerLoom pos n
  | .loomArm pos => s.loomArms pos
  | .ended pos => s.peerActs pos fun c => { c with ended := joinPeers c.ended (s.peerNow pos 0) }
  | .table core t => s.peerTable core t
  | .freeTable core base => s.peerFrees core base
  | .saving pos cycles => s.peerSaved pos cycles
  | .store core key data => s.peerStores core key data
  | .fput core ctx key v => s.peerPuts core ctx key v
  | .finit core key v full => s.peerInits core key v full
  | .ftake core ctx key => s.peerTakes core ctx key
  | .untake core ctx => s.peerUntakes core ctx
  | .swalloc d => s.drawSwatch d
  | .range core ctx => s.peerRange core ctx
  | .departs core => s.peerDeparts core
  | .withheld => if s.job.redun ∧ s.exchange then s.modCore fun c => { c with withheld := true } else s
  | .upset => if s.job.redun then s.modCore fun c => { c with upset := true } else s
  | .matrixStep => s.drainOutside
  | .pairTaken => s.peerOwns true
  | .pairFreed => s.peerOwns false
  | .warp lpos id src => s.peerWarp lpos id src
  | .ringLoss src => s.logEntry true 2 0x18 s.unitSource (badDetail false 3) src
  | .request port core ctx => s.peerAsks port core fun l => if (core, ctx) ∈ l then l else l ++ [(core, ctx)]
  | .withdraw port core ctx => s.peerAsks port core fun l => l.filter (· ≠ (core, ctx))
  | .mcast core ctx id group doff data => s.peerMcast core ctx id group doff data
  | .gangStop pos => if pos ∈ s.gangOthers then s.modGang fun g => { g with stops := g.stops ++ [(s.cycle, pos)] } else s
  | .gangParks cycles => s.modGang fun g => { g with parks := Nat.max g.parks (s.cycle + cycles) }
  | .gangTakes cycles => s.modGang fun g => { g with takes := Nat.max g.takes (s.cycle + cycles) }
  | .credit term =>
    if natBits (s.clu.terms.get term).cfg.toNat 39 35 ≠ s.position then s.modTerm term fun t => { t with cred := t.cred - 1 } else s
  | .deadlock ctx => match s.blockedIn ctx with | some w => s.deadlockTrap ctx w | none => s
  | .refused seq => s.peerRefuses seq
  | .refusedCmd q a => s.peerRefusesCmd q a
  | .atomic core key op t b => s.peerAtomic core key op t b
  | .icinv key => s.dropLine key
  | .portEnds core port => s.peerPortEnds core port
  | .board pos op => s.peerBoard pos op
  | .sample ctx => s.sampleCtx ctx
  | .peerSilent d => { s with dev := { s.dev with peersDown := (d :: s.dev.peersDown).dedup } }
  | .peerAnswers d => { s with dev := { s.dev with peersDown := s.dev.peersDown.filter (· ≠ d) } }

/-! ## Loads that read early (R310) -/

/-- A load of a live context may read these bytes now, whatever its instruction's address still depends on (R310): not behind a watermark
(R249), nor bytes that cannot be read. -/
def State.readEarly (s : State) (n : Fin 11) (key len : Nat) : State :=
  if (s.ctxAt n).live = false ∨ len = 0 ∨ s.gated key len ∨ (s.badAt key len).isSome then s
  else { s with early := s.early ++ [{ ctx := n, key, bytes := s.peek key len, newer := [], passed := [] }] }

/-- A load can have read its bytes when an entry was read: the entry holds them, and no load of the context performed since comes before it, be it
by an order or because it goes to the same line outside the scratchpad (R191, R192, R395). -/
def State.mayGive (s : State) (e : Early) (a : Acc) : Bool :=
  decide (e.ctx = a.ctx) && decide (e.key ≤ a.key) && decide (a.key + a.len ≤ e.key + e.bytes.length)
    && !(e.passed.any fun p =>
      decide (p.1 ∈ a.after) || (decide (p.1 < a.seq) && !s.within .core a.key && decide (a.key / 64 ≤ p.2.1 / 64)
        && decide (p.2.1 / 64 ≤ (a.key + a.len - 1) / 64)))

/-- What the entry gives to a load, its context's own earlier stores laid over it (R304). -/
def State.earlyBytes (s : State) (e : Early) (a : Acc) : List Byte :=
  s.ownOver a.ctx a.seq a.key ((e.bytes.drop (a.key - e.key)).take a.len)

/-- A load has been performed when an entry was read: it came before what the context has read early since, and after the entries before, of which
those with its bytes are no later load's (R304, R309). -/
def State.readAt (s : State) (e : Early) (a : Acc) : State :=
  let k := s.early.findIdx (· = e)
  (s.modEarly fun l =>
    (((l.take k).filter fun x => !(decide (x.ctx = a.ctx) && overlaps x.key x.bytes.length a.key a.len)).map fun x => x.pass a) ++ l.drop k).endAcc a

/-- An outstanding plain load takes what its context has read early (R310). A tagged one reads after its issue (R218). -/
def State.loadStale (s : State) (seq : Nat) : State :=
  match s.accs.find? fun a => decide (a.seq = seq) with
  | some a =>
    match a.op, s.early.find? fun e => s.mayGive e a with
    | .load f w, some e =>
      if s.canPerform a ∧ s.answersRetry a = false ∧ (s.badAt a.key a.len).isNone then
        (((s.fill a.ctx w (f.into (s.earlyBytes e a)) false).readAt e a).reportBad a.ctx a.inst).wake
      else s
    | _, _ => s
  | none => s

/-- What an agent other than the core and the agenda does when its turn comes (log 1). -/
def State.freeTurn (s : State) : Turn → State
  | .other a => s.otherActs a
  | .early ctx key len => s.readEarly ctx key len
  | .stale seq => s.loadStale seq
  | .pull q u i => s.pullPiece q u i
  | .drain q i => s.drainStore q i
  | .lazy q => s.delayStores q
  | .defer q => s.deferUnit q
  | .redo q u => s.redoUnit q u
  | .fetch n i => s.fetchOne (BitVec.ofFin n) i
  | .bringUp => s.bringUpStep
  | .event _ => s
  | .issue => s
  | .withheld => s

end Sys2Proof.Machine
end

