-- ==== Sys2Proof/Machine/Step.lean ====
section
/-! DEFINITION. One step of the machine: an event of the agenda, or one core cycle in which at most one instruction
issues (R17; log 1). -/

namespace Sys2Proof.Machine

open Sys2Proof

/-- The contexts of a list that have something to do without an issue slot do it (R17). One whose wait goes on leaves everything as it
was. -/
def serve (s : State) : List (Fin 11) → Host.Outcome State Fault Refusal
  | [] => .next s
  | n :: ns =>
    if s.attends n then
      match s.attend n with
      | .done t => serve t ns
      | .run i t =>
        match exec i t with
        | .next u => serve (if stillWaits t u ∧ t.gangStop = none then s else (t.withGang u).keep i) ns
        | o => o
    else serve s ns

/-- The first context of a list that is ready issues (R17); with none the cycle issues nothing. One whose instruction is stalled on a stream has not
issued (R168). -/
def issueFrom (s : State) : List (Fin 11) → Host.Outcome State Fault Refusal
  | [] => .next s
  | n :: ns =>
    if s.readyAt n then
      match s.select n with
      | .done t => .next (t.dropStop.endStep n)
      | .run i t =>
        match exec i t with
        | .next u => if u.stalled then issueFrom s ns else .next (((t.withGang u).keep i).count 1)
        | o => o
    else issueFrom s ns

/-- One core cycle (R17): one ready context issues, and then what waited at its beginning goes on, so that a read of a counter comes before what the
cycle counts (R151, R420). -/
def cycleStep (s : State) : Host.Outcome State Fault Refusal :=
  match issueFrom s.tick s.tick.order with
  | .next t =>
    match serve t (s.tick.order.filter s.tick.attends) with
    | .next u => .next u.countCycle
    | o => o
  | o => o

/-- The event at a place of the agenda happens; a place that holds none leaves the machine as it is. -/
def eventStep (s : State) (k : Nat) : Host.Outcome State Fault Refusal :=
  match s.agenda[k]? with
  | some e => exec e { s with agenda := s.agenda.eraseIdx k }
  | none => .next s

/-- One step: the tape says which agent moves; without it the oldest event does, else the core issues (log 1). With the
power off nothing runs until a cold reset (R427, R430). -/
def step (s : State) : Host.Outcome State Fault Refusal :=
  if s.dev.power = .off then
    if Instr.coldReset ∈ s.agenda then exec .coldReset { s with agenda := s.agenda.erase .coldReset }
    else .fault .poweredOff
  else
    match s.turns, s.agenda with
    | .event k :: ts, _ => eventStep { s with turns := ts } k
    | .issue :: ts, _ => cycleStep { s with turns := ts }
    | .withheld :: ts, _ => if s.dev.throt then .next { s with turns := ts }.tick.countCycle else cycleStep { s with turns := ts }
    | t :: ts, _ => .next ({ s with turns := ts }.freeTurn t)
    | [], _ :: _ => eventStep s 0
    | [], [] => cycleStep s

/-- The state with an instruction of the table placed where step fetches next, at local address 0 of context 0, as the
first instruction of a running job (log 5). -/
def State.withFetchWord (s : State) (nbits w : Nat) : State :=
  { s with
    ctxs := s.ctxs.set 0 { s.ctxs.get 0 with
      live := true, ending := false, pc := 0, frame := [], refetch := false, parked := false, paused := false, nextIssue := 0, wait := none,
      deferred := [], trapping := none },
    core := { s.core with last := 10 },
    job := { s.job with running := true, evicted := false, stopping := false },
    dev := { s.dev with power := .d0, dbgStopped := false },
    mem := Memory.write s.mem (scratchKey s.core.num.toNat 0) (Sys2Proof.tableBytes nbits w),
    icache := [], agenda := [], turns := [] }

end Sys2Proof.Machine
end

