-- ==== Sys2Proof/Machine/Uses.lean ====
section
/-! DEFINITION. The registers that an instruction reads and writes (R49). -/

namespace Sys2Proof.Machine

/-- The registers whose outstanding writes an instruction meets as a hazard: those it reads, and those it writes (R49, log 53). CNTRD, which writes xD
alone, and the events have no entry. -/
def usesOf (i : Instr) : Option (List Reg × List Reg) :=
  match i with
  | .add _ d a b _ _ => some ([.x a, .x b], [.x d])
  | .addi _ d a _ _ => some ([.x a], [.x d])
  | .sub _ d a b _ _ => some ([.x a, .x b], [.x d])
  | .mul _ d a b _ _ => some ([.x a, .x b], [.x d])
  | .muli _ d a _ _ => some ([.x a], [.x d])
  | .mulh _ d a b _ => some ([.x a, .x b], [.x d])
  | .div _ d a b _ => some ([.x a, .x b], [.x d])
  | .rem _ d a b _ => some ([.x a, .x b], [.x d])
  | .and _ d a b _ => some ([.x a, .x b], [.x d])
  | .andi _ d a _ _ => some ([.x a], [.x d])
  | .or _ d a b _ => some ([.x a, .x b], [.x d])
  | .ori _ d a _ _ => some ([.x a], [.x d])
  | .xor _ d a b _ => some ([.x a, .x b], [.x d])
  | .xori _ d a _ _ => some ([.x a], [.x d])
  | .shl _ d a b _ => some ([.x a, .x b], [.x d])
  | .shli _ d a _ => some ([.x a], [.x d])
  | .shr _ d a b _ => some ([.x a, .x b], [.x d])
  | .shri _ d a _ => some ([.x a], [.x d])
  | .sra _ d a b _ => some ([.x a, .x b], [.x d])
  | .srai _ d a _ => some ([.x a], [.x d])
  | .clz _ d a _ => some ([.x a], [.x d])
  | .ctz _ d a _ => some ([.x a], [.x d])
  | .popc _ d a _ => some ([.x a], [.x d])
  | .min _ d a b _ => some ([.x a, .x b], [.x d])
  | .max _ d a b _ => some ([.x a, .x b], [.x d])
  | .bfx _ d a b _ => some ([.x a, .x b], [.x d])
  | .bfi _ d a b _ => some ([.x a, .x b, .x d], [])
  | .abs _ d a _ _ => some ([.x a], [.x d])
  | .mov _ d a => some ([.x a], [.x d])
  | .movFromLoop _ d _ _ => some ([], [.x d])
  | .movToLoop _ _ a _ => some ([.x a], [])
  | .movi _ d _ _ => some ([], [.x d])
  | .lea _ d a b _ _ _ => some ([.x a, .x b], [.x d])
  | .slt _ d a b _ => some ([.x a, .x b], [.x d])
  | .slti _ d a _ _ => some ([.x a], [.x d])
  | .seq _ d a b _ => some ([.x a, .x b], [.x d])
  | .seqi _ d a _ _ => some ([.x a], [.x d])
  | .sel _ d a b p => some ([.x a, .x b, .p p], [.x d])
  | .pcmp _ d a b _ _ => some ([.x a, .x b], [.p d])
  | .plog _ d a b _ => some ([.p a, .p b], [.p d])
  | .pmovToPredicate _ d a => some ([.x a], [.p d])
  | .pmovFromPredicate _ d a => some ([.p a], [.x d])
  | .pcnt _ d a _ => some ([.p a], [.x d])
  | .br _ _ _ => some ([], [])
  | .call _ _ _ => some ([], [.x 31])
  | .jr _ a => some ([.x a], [])
  | .callr _ a => some ([.x a], [.x 31])
  | .ret _ => some ([.x 31], [])
  | .beqz _ a _ _ => some ([.x a], [])
  | .bnez _ a _ _ => some ([.x a], [])
  | .bltz _ a _ _ => some ([.x a], [])
  | .bgez _ a _ _ => some ([.x a], [])
  | .bpany _ a _ _ => some ([.p a], [])
  | .bpnone _ a _ _ => some ([.p a], [])
  | .loop _ _ a _ _ => some ([.x a], [])
  | .loopi _ _ _ _ _ => some ([], [])
  | .rptf _ _ _ _ _ _ _ => some ([], [])
  | .nop _ => some ([], [])
  | .hstart _ _ b _ _ => some ([.x b], [])
  | .hend _ => some ([], [])
  | .hwait _ a => some ([.x a], [])
  | .hstat _ d => some ([], [.x d])
  | .gang _ _ => some ([], [])
  | .split _ => some ([], [])
  | .trap _ _ => some ([], [])
  | .rte _ => some ([], [])
  | .rteXa _ a => some ([.x a], [])
  | .endCore _ => some ([], [])
  | .mfc _ d _ => some ([], [.x d])
  | .mtc _ a _ => some ([.x a], [])
  | .icinv _ a _ => some ([.x a], [])
  | .brk _ _ => some ([], [])
  | .pause _ _ => some ([], [])
  | .vadd _ d a b _ m x => some ((opndA x a).regs ++ (opndB x b).regs ++ maskRegs m ++ oldRegs (opndD x d) (decide (m ≠ 0)), (opndD x d).regs)
  | .vsub _ d a b _ m x => some ((opndA x a).regs ++ (opndB x b).regs ++ maskRegs m ++ oldRegs (opndD x d) (decide (m ≠ 0)), (opndD x d).regs)
  | .vmul _ d a b _ m x => some ((opndA x a).regs ++ (opndB x b).regs ++ maskRegs m ++ oldRegs (opndD x d) (decide (m ≠ 0)), (opndD x d).regs)
  | .vfma _ d a b _ m x => some ((opndA x a).regs ++ (opndB x b).regs ++ maskRegs m ++ oldRegs (opndD x d) true, (opndD x d).regs)
  | .vmin _ d a b _ m x => some ((opndA x a).regs ++ (opndB x b).regs ++ maskRegs m ++ oldRegs (opndD x d) (decide (m ≠ 0)), (opndD x d).regs)
  | .vmax _ d a b _ m x => some ((opndA x a).regs ++ (opndB x b).regs ++ maskRegs m ++ oldRegs (opndD x d) (decide (m ≠ 0)), (opndD x d).regs)
  | .vabs _ d a _ m x => some ((opndA x a).regs ++ maskRegs m ++ oldRegs (opndD x d) (decide (m ≠ 0)), (opndD x d).regs)
  | .vand _ d a b _ m x => some ((opndA x a).regs ++ (opndB x b).regs ++ maskRegs m ++ oldRegs (opndD x d) (decide (m ≠ 0)), (opndD x d).regs)
  | .vor _ d a b _ m x => some ((opndA x a).regs ++ (opndB x b).regs ++ maskRegs m ++ oldRegs (opndD x d) (decide (m ≠ 0)), (opndD x d).regs)
  | .vxor _ d a b _ m x => some ((opndA x a).regs ++ (opndB x b).regs ++ maskRegs m ++ oldRegs (opndD x d) (decide (m ≠ 0)), (opndD x d).regs)
  | .vshl _ d a b _ m x => some ((opndA x a).regs ++ (opndB x b).regs ++ maskRegs m ++ oldRegs (opndD x d) (decide (m ≠ 0)), (opndD x d).regs)
  | .vshr _ d a b _ m x => some ((opndA x a).regs ++ (opndB x b).regs ++ maskRegs m ++ oldRegs (opndD x d) (decide (m ≠ 0)), (opndD x d).regs)
  | .vcmp _ d a b _ _ x => some ((opndA x a).regs ++ (opndB x b).regs ++ [.p d], [])
  | .vsel _ d a b _ p x => some ((opndA x a).regs ++ (opndB x b).regs ++ [.p p], (opndD x d).regs)
  | .vshuf _ d a b _ f x => some ((opndA x a).regs ++ (if f.usesB then (opndB x b).regs else []), (opndD x d).regs)
  | .vperm _ d a b _ m x => some ((opndA x a).regs ++ (opndB x b).regs ++ maskRegs m ++ oldRegs (opndD x d) (decide (m ≠ 0)), (opndD x d).regs)
  | .vbcast _ d a _ m x => some (.x a :: maskRegs m ++ oldRegs (opndD x d) (decide (m ≠ 0)), (opndD x d).regs)
  | .vred _ d a _ _ m x => some ((opndA x a).regs ++ maskRegs m, [.x d])
  | .vcvt _ d a src dst _ x => some ((opndA x a).regs ++ oldRegs (opndD x d) (decide (dst.cvtWidth < src.cvtWidth)), (opndD x d).regs)
  | .vmovxExtract _ d a b _ x => some ((opndA x a).regs ++ [.x b], [.x d])
  | .vmovxInsert _ d a b _ x => some (.x a :: .x b :: oldRegs (opndD x d) true, (opndD x d).regs)
  | .vrcp _ d a _ m x => some ((opndA x a).regs ++ maskRegs m ++ oldRegs (opndD x d) (decide (m ≠ 0)), (opndD x d).regs)
  | .vrsq _ d a _ m x => some ((opndA x a).regs ++ maskRegs m ++ oldRegs (opndD x d) (decide (m ≠ 0)), (opndD x d).regs)
  | .vtbld _ _ a => some ([.x a], [])
  | .vinterp _ d a _ m x => some ((opndA x a).regs ++ maskRegs m ++ oldRegs (opndD x d) (decide (m ≠ 0)), (opndD x d).regs)
  | .ld _ d a b _ _ _ _ _ => some ([.x a, .x b], [.x d])
  | .st _ d a b _ _ _ _ _ => some ([.x a, .x b, .x d], [])
  | .ldc _ d a b _ _ _ => some ([.x a, .x b], [.x d])
  | .vld _ d a b _ _ _ _ => some ([.x a, .x b], [.v d])
  | .vst _ d a b _ _ _ _ => some ([.x a, .x b, .v d], [])
  | .vldb _ d a b _ _ _ => some ([.x a, .x b], [.v d])
  | .vgth _ d a b _ m _ => some ([.x a, .v b] ++ maskRegs m ++ (if m = 0 then [] else [.v d]), [.v d])
  | .vsct _ d a b _ m _ => some ([.x a, .v b] ++ maskRegs m ++ [.v d], [])
  | .pref _ a b _ _ => some ([.x a, .x b], [])
  | .flush _ a b _ _ _ => some ([.x a, .x b], [])
  | .tlbinv _ a b _ => some ([.x a, .x b], [])
  | .tlbprb _ d a => some ([.x a], [.x d])
  | .tlbwait _ => some ([], [])
  | .rgnq _ d a => some ([.x a], [.x d])
  | .ldt _ _ a b _ _ _ => some ([.x a, .x b], [])
  | .tka _ d a v => some ([], [takeReg v d, .x a])
  | .tkt _ d _ v => some ([], [takeReg v d])
  | .reld _ _ => some ([], [])
  | .reldDrop _ _ => some ([], [])
  | .lsq _ d _ => some ([], [.x d])
  | .lsmode _ _ => some ([], [])
  | .qpush _ _ a _ => some ([.v a], [])
  | .qpop _ d _ => some ([], [.x d])
  | .qtry _ d _ => some ([], [.x d])
  | .qlen _ d _ => some ([], [.x d])
  | .gx _ a _ => some ([.v a], [])
  | .gxs _ a _ => some ([.v a], [])
  | .compact _ a _ => some ([.v a], [])
  | .sbind _ _ a b _ _ => some ([.x a, .x b], [])
  | .sbindAffine _ _ a _ _ => some ([.x a], [])
  | .sfree _ _ => some ([], [])
  | .sstat _ d _ => some ([], [.x d])
  | .sadv _ _ a => some ([.x a], [])
  | .wmrd _ d _ => some ([], [.x d])
  | .arv _ d _ _ _ => some ([], [.x d])
  | .arvn _ d a _ _ _ => some ([.x a], [.x d])
  | .wait _ a _ => some ([.x a], [])
  | .wtest _ d a _ => some ([.x a], [.x d])
  | .expect _ a _ => some ([.x a], [])
  | .sync _ d => some ([], [.x d])
  | .fence _ _ _ => some ([], [])
  | .bbset _ a _ _ => some ([.x a], [])
  | .bbrd _ d _ _ => some ([], [.x d])
  | .bbclr _ a => some ([.x a], [])
  | .bbpulse _ _ => some ([], [])
  | .phase _ d _ => some ([], [.x d])
  | .bgstat _ d _ => some ([], [.x d])
  | .dlkst _ d a => some ([.x a], [.x d])
  | .amo _ d a b _ _ _ _ => some ([.x a, .x b], [.x d])
  | .red _ a b _ _ _ _ => some ([.x a, .x b], [])
  | .redv _ d a b _ _ _ => some ([.x a, .v b, .v d], [])
  | .cas _ d a b _ _ _ => some ([.x a, .x b, .x d], [.x d])
  | .ftake _ d a _ => some ([.x a], [.x d])
  | .fput _ a b _ => some ([.x a, .x b], [])
  | .fpeek _ d a _ => some ([.x a], [.x d])
  | .finit _ a b _ => some ([.x a, .x b], [])
  | .spkclaim _ a => some ([.x a], [])
  | .spkpush _ a => some ([.x a], [])
  | .spkpop _ d a => some ([], [.v d, .x a])
  | .spkins _ d a b => some ([.x a, .x b], [.x d])
  | .spklen _ d => some ([], [.x d])
  | .spkfree _ => some ([], [])
  | .swalloc _ d a => some ([.x a], [.x d, .p 0])
  | .swstat _ d a => some ([.x a], [.x d])
  | .mctx _ a => some ([.x a], [])
  | .mmul _ d a b _ => some ([.x d, .x a, .x b], [])
  | .mloads _ a => some ([.x a], [])
  | .mswap _ => some ([], [])
  | .mstream _ d a => some ([.x d, .x a], [])
  | .mdrain _ => some ([], [])
  | .acrd _ d a => some ([.x d, .x a], [])
  | .acwr _ d a => some ([.x d, .x a], [])
  | .mchkKat _ d => some ([], [.x d])
  | .mchkInj _ d a => some ([.x a], [.x d])
  | .mzeroAcc _ d => some ([.x d], [])
  | .mzeroSt _ => some ([], [])
  | .mstat _ d => some ([], [.x d])
  | .mwait _ _ => some ([], [])
  | .mcbk _ a _ => some ([.x a], [])
  | .mflag _ d _ => some ([], [.x d])
  | .lmjoin _ a _ => some ([.x a], [])
  | .lmjoinLeave _ => some ([], [])
  | .draft _ a => some ([.x a], [])
  | .warp _ a => some ([.x a], [])
  | .weft _ a => some ([.x a], [])
  | .lmgo _ a => some ([.x a], [])
  | .lmwait _ d => some ([], [.x d])
  | .lmstat _ d => some ([], [.x d])
  | .phclaim _ a => some ([.x a], [])
  | .phins _ d a b v => some (if v then ([.x a, .v b, .v d], []) else ([.x a, .x b, .x d], []))
  | .phprb _ d a b v => some (if v then ([.x a, .v b], [.v d, .p 0]) else ([.x a, .x b], [.x d, .p 0]))
  | .phdel _ a b v => some (if v then ([.x a, .v b], []) else ([.x a, .x b], []))
  | .phacc _ d a b _ v => some (if v then ([.x a, .v b, .v d], []) else ([.x a, .x b, .x d], []))
  | .phdrn _ d a b _ => some ([.x a, .x b], [.x d])
  | .phfree _ a => some ([.x a], [])
  | .popen _ a => some ([.x a], [])
  | .psend _ a v _ => some (if v then ([.v a], []) else ([.x a], []))
  | .precv _ d v _ => some ([], [if v then .v d else .x d, .p 0])
  | .mcast _ d a b => some ([.x a, .v b], [.x d])
  | .sendt _ d a _ => some ([.v d, .x a], [])
  | .rwin _ a _ => some ([.x a], [])
  | .pstat _ d _ => some ([], [.x d])
  | .cntrd _ _ _ | .registerWritePerformed _ _ | .pauseExpiry _ | .helperStops _ | .dispatch _ _ | .remoteAccess _ _ _ | .retryResend _
  | .dieFenced _ | .deferredUncorrectable _ _ _ _ _ | .walk _ | .tlbinvCompletion _ | .slotLands _ _ | .streamFetch _ | .commandStart _
  | .commandCompletion _ | .firmwarePath _ _ | .arrival _ _ _ _ | .expectReachesRoot _ _ | .completionBroadcast _ _ | .pulse _
  | .heldHelperStart _ | .probe _ | .probeReceived _ _ _ | .takePresentedAgain _ | .matrixResidueFault _ _ _ _ | .pick _ _
  | .rePickPass _ _ | .weaveEnd _ | .portWordArrival _ _ _ _ | .closingMarker _ | .abortCloseFlit _ | .sendAllowance _
  | .reclaimMessage _ _ | .mcastHop _ _ _ | .teardownCompletes _ | .counterOverflow _ | .accessPerformed _ | .icinvCompletion _
  | .routerArbitration _ | .undefinedInstruction | .coreFree | .coreSave | .landingSetDrainBound | .restore | .hostWrite | .hostRead
  | .arbiterStep | .matrixCommandComplete | .stationaryPairGrant | .mswapTakesEffect | .weaveStart | .latchedTask | .clusterReset
  | .doorbell | .qbase | .qsize | .qhead | .queueEnable | .queueDisable | .teardown | .registerWrite | .elbase | .lost | .trdrop
  | .debugClaim | .debugRelease | .stop | .resume | .step | .kill | .dbgdataRead | .dbgdataWrite | .cntcfg | .testSlice | .testSliceEnd
  | .ptmExchange | .getMeasurements | .vendorDefinedRequest | .pwrctl | .pwrst | .throttleWindow | .trip | .coldReset | .functionLevelReset
  | .d3hot | .d0 | .d3cold | .luralPortDown | .peerDeviceAccess | .hostAtomicop | .hostLinkDown | .spdmRequest | .configurationSpaceAccess => none

end Sys2Proof.Machine
end

