-- ==== Sys2Proof/Safety.lean ====
section
/-! DEFINITION. The terms in which claims speak of the machine: a good state, a context that can issue, and what an
instruction has changed. -/

namespace Sys2Proof

open Sys2Proof.Machine

/-- Memory is in canonical form (log 3). -/
abbrev Safe (s : State) : Prop := Memory.wf s.mem = true

namespace Machine

/-- No dispatched job of the device has ranges hashed for a manifest (R415). -/
abbrev State.unhashed (s : State) : Prop := (s.allJobs.all fun j => j.hashed.isEmpty) = true

/-! ## A context that can issue -/

/-- The issuing context waits at no instruction, and no register of `rs` has a variable-latency write outstanding: an
instruction that uses those registers meets no hazard (R49). -/
def State.ready (s : State) (rs : List Reg) : Prop := s.ctx.wait = none ∧ s.ctx.hazard rs = none

/-- No repeat frame runs, and the instruction of `size` bytes at the program counter holds no end word of an active loop:
execution goes on with the word after it (R58, R127). -/
def Ctx.straight (c : Ctx) (size : Nat) : Prop := c.frame = [] ∧ c.atLoopEnd size = false

/-! ## What an instruction changes -/

/-- A register of any file, as 512 bits. -/
def Ctx.reg (c : Ctx) (r : Reg) : Vec :=
  match r with
  | .x n => (c.readX n).setWidth 512
  | .v n => c.readV n
  | .p n => (c.readP n).setWidth 512

/-- Nothing has changed but the issuing context and the numbering of writes and accesses: memory, the core and its units, the
other contexts, the job, the barriers, the cluster, the device and every queue are as before. -/
def State.onlyCtx (s t : State) : Prop := t = { s.setCtx t.ctx with seq := t.seq }

/-- Of a context, nothing has changed but the registers of the three files, the outstanding writes, the taints (R192), and the place
that it goes on from: the program counter, the loop counts and end addresses (in a follower of a gang also its leader's, R124), and the repeat
frame. -/
def Ctx.onlyRegs (c d : Ctx) : Prop :=
  d = { c with
    pc := d.pc, x := d.x, v := d.v, p := d.p, lc := d.lc, le := d.le, lead := d.lead, rptst := d.rptst, frame := d.frame,
    writes := d.writes, parked := d.parked, nextIssue := d.nextIssue, wait := d.wait, taints := d.taints,
    inTaint := d.inTaint, afterSync := d.afterSync }

/-- No register of any file has changed, nor has an outstanding write joined or left. -/
def State.sameRegs (s t : State) : Prop := (∀ r, t.ctx.reg r = s.ctx.reg r) ∧ t.ctx.writes = s.ctx.writes

/-- The issuing context goes on after an instruction of `size` bytes that transfers nowhere: it waits no more, is parked if `sw`
says so (R47), and issues again `gap` cycles later, not in its own cycle (R17); on a straight way it goes on with the next word,
and no loop or frame register has changed. -/
structure State.goesOn (s t : State) (sw : Bool) (size gap : Nat) : Prop where
  wait : t.ctx.wait = none
  parked : t.ctx.parked = sw
  next : t.ctx.nextIssue = s.cycle + Nat.max 1 gap
  place : s.ctx.straight size → t.ctx.pc = s.ctx.pc + BitVec.ofNat 64 size ∧ t.ctx.lc = s.ctx.lc ∧ t.ctx.le = s.ctx.le
    ∧ t.ctx.lead = s.ctx.lead ∧ t.ctx.rptst = s.ctx.rptst ∧ t.ctx.frame = []

/-- Register `r` takes the value `v` with the fixed latency `lat` (R47, R48), and no other register of any file has changed. A latency of one is read
at once, and overtakes the older outstanding writes to `r` (R50); a longer one is an outstanding write until its cycle comes. A write to x0 is
discarded (R24). -/
structure State.lands (s t : State) (r : Reg) (v : Vec) (lat : Nat) : Prop where
  others : ∀ q, q ≠ r ∨ 1 < lat ∨ r = .x 0 → t.ctx.reg q = s.ctx.reg q
  zero : r = .x 0 → t.ctx.writes = s.ctx.writes
  now : r ≠ .x 0 → lat ≤ 1 → t.ctx.reg r = v ∧ t.ctx.writes = overtake r s.seq s.ctx.writes
  later : r ≠ .x 0 → 1 < lat → t.ctx.writes = s.ctx.writes ++
      [{ reg := r, val := v, need := 0, seq := s.seq, due := some (s.cycle + lat), dead := false, late := false, ready := 0 }]

/-- An instruction of `size` bytes has given register `r` the value `v` with latency `lat`, and has changed nothing
else. -/
structure State.computes (s t : State) (sw : Bool) (size : Nat) (r : Reg) (v : Vec) (lat : Nat) : Prop where
  only : s.onlyCtx t
  regs : s.ctx.onlyRegs t.ctx
  goes : s.goesOn t sw size 1
  lands : s.lands t r v lat

/-- An instruction whose context is ready to use `rs` answers a next state, in which `r` has the value `v` with latency `lat` and nothing else
has changed. -/
def State.gives (s : State) (i : Instr) (rs : List Reg) (sw : Bool) (size : Nat) (r : Reg) (v : Vec) (lat : Nat) : Prop :=
  s.ready rs → ∃ t, exec i s = .next t ∧ s.computes t sw size r v lat

/-- A 64-bit value as a register of any file takes it. -/
abbrev wide (w : Word) : Vec := w.setWidth 512

/-- The state in which an instruction that meets no hazard does its work: the taint of the registers `rs` that it reads is noted
(R192). -/
def State.issued (s : State) (rs : List Reg) : State := s.modCtx fun c => { c with inTaint := c.taintOf (rs.map .reg) }

/-- Register `r` will take the value `v`, which is already formed, with variable latency: the write is outstanding, and its arrival
is due (R47). No register has changed. -/
structure State.forms (s t : State) (r : Reg) (v : Vec) : Prop where
  regs : ∀ q, t.ctx.reg q = s.ctx.reg q
  zero : r = .x 0 → t.ctx.writes = s.ctx.writes
  write : r ≠ .x 0 → t.ctx.writes = s.ctx.writes ++
      [{ reg := r, val := v, need := 0, seq := s.seq, due := none, dead := false, late := false, ready := 0 }]
  due : r ≠ .x 0 → .registerWritePerformed s.cur s.seq ∈ t.agenda

/-- Register `r` will take the value `v`, which is already formed, no earlier than `lat` cycles after the issue (R280). No register has changed. -/
structure State.formsFrom (s t : State) (r : Reg) (v : Vec) (lat : Nat) : Prop where
  regs : ∀ q, t.ctx.reg q = s.ctx.reg q
  zero : r = .x 0 → t.ctx.writes = s.ctx.writes
  write : r ≠ .x 0 → t.ctx.writes = s.ctx.writes ++
      [{ reg := r, val := v, need := 0, seq := s.seq, due := none, dead := false, late := false, ready := s.cycle + lat }]

/-- Register `r` waits for the `need` accesses or unit results that its value, so far `v`, is made of (R47). No register has
changed. -/
structure State.awaits (s t : State) (r : Reg) (v : Vec) (need : Nat) : Prop where
  regs : ∀ q, t.ctx.reg q = s.ctx.reg q
  zero : r = .x 0 → t.ctx.writes = s.ctx.writes
  write : r ≠ .x 0 → t.ctx.writes = s.ctx.writes ++
      [{ reg := r, val := v, need, seq := s.seq, due := none, dead := false, late := false, ready := 0 }]

/-- A run of `n` bytes at `a` is aligned, lies in the local window, and touches no claimed area (R25, R26, R28, R188). -/
def State.localRun (s : State) (a : Word) (n : Nat) : Prop :=
  a.toNat % n = 0 ∧ a.toNat + n ≤ 0x80000 ∧ ∀ c ∈ s.job.claims, overlaps a.toNat n c.off c.bytes = false

/-! ## Control transfers (R121, R129, R131) -/

/-- A control transfer is done: the issuing context goes on at `target`, `gap` cycles later at the soonest. Nothing has changed but its registers, its
program counter and its loop end addresses. -/
structure State.goesTo (s t : State) (sw : Bool) (target : Word) (gap : Nat) : Prop where
  only : s.onlyCtx t
  regs : s.ctx.onlyRegs t.ctx
  pc : t.ctx.pc = target
  parked : t.ctx.parked = sw
  wait : t.ctx.wait = none
  next : t.ctx.nextIssue = s.cycle + Nat.max 1 gap
  counts : t.ctx.lc = s.ctx.lc
  frame : t.ctx.frame = s.ctx.frame ∧ t.ctx.rptst = s.ctx.rptst

/-- A transfer from `pc` to `target` leaves the body of active loop `n` (R129), the loops being the leader's in a follower of a gang
(R124). -/
def Ctx.exits (c : Ctx) (target : Word) (n : Fin 3) : Prop :=
  c.ctl.le.get n ≠ 0 ∧ (c.ctl.ls.get n ≤ c.pc ∧ c.pc ≤ c.ctl.le.get n) ∧ ¬ (c.ctl.ls.get n ≤ target ∧ target ≤ c.ctl.le.get n)

/-- Loop `m` is active, and its body lies within that of loop `n` (R129). -/
def Ctx.contains (c : Ctx) (n m : Fin 3) : Prop :=
  c.ctl.le.get m ≠ 0 ∧ c.ctl.ls.get n ≤ c.ctl.ls.get m ∧ c.ctl.le.get m ≤ c.ctl.le.get n

/-- A taken branch, JR or RET is done: no register has changed; the active loops whose body it leaves are deactivated, and those whose body lies
within one of theirs; every other loop is as it was (R129). -/
structure State.branches (s t : State) (sw : Bool) (target : Word) : Prop where
  goes : s.goesTo t sw target 3
  same : s.sameRegs t
  out : ∀ m n, s.ctx.exits target n → (m = n ∨ s.ctx.contains n m) →
    t.ctx.le.get m = 0
  kept : ∀ m, (¬ ∃ n, s.ctx.exits target n ∧ (m = n ∨ s.ctx.contains n m)) →
    t.ctx.le.get m = s.ctx.le.get m

/-- An instruction that writes no register completes, and nothing has changed but the place it goes on from. -/
structure State.passes (s t : State) (sw : Bool) (size gap : Nat) : Prop where
  only : s.onlyCtx t
  regs : s.ctx.onlyRegs t.ctx
  goes : s.goesOn t sw size gap
  same : s.sameRegs t

/-! ## Traps (R140, R141) and waits (R152) -/

/-- The context `d` has entered the handler for the trap `i` of the context `c`: the record is written, INTRAP is 1, and the handler is next; the
registers, the loops, the frame's registers and the landing set are as they were. -/
structure Ctx.entered (c d : Ctx) (i : TrapInfo) (trapvec : Word) : Prop where
  regs : ∀ r, d.reg r = c.reg r
  inTrap : d.inTrap = true
  pc : d.pc = trapvec
  cause : natBits (d.traprec.get 0).toNat 7 0 = i.cause.toNat
  detail : natBits (d.traprec.get 0).toNat 63 32 = i.detail.toNat
  next : (d.traprec.get 0).getLsbD 16 = i.next
  fetch : (d.traprec.get 0).getLsbD 17 = i.fetch
  tag : (d.traprec.get 0).getLsbD 18 = i.tag.isSome ∧ natBits (d.traprec.get 0).toNat 23 19 = (i.tag.getD 0).toNat
  zero : natBits (d.traprec.get 0).toNat 15 8 = 0 ∧ natBits (d.traprec.get 0).toNat 31 24 = 0
  ret : d.traprec.get 1 = i.ret
  iaddr : d.traprec.get 2 = i.iaddr
  caddr : d.traprec.get 3 = i.caddr
  loops : d.lc = c.lc ∧ d.ls = c.ls ∧ d.le = c.le
  rpt : d.rptst = c.rptst ∧ d.rptpc = c.rptpc
  slots : d.slots = c.slots ∧ d.landed = c.landed
  wait : d.wait = none

/-- The context can enter a handler at once: it is in none, and has no register write outstanding (R140). -/
def Ctx.trappable (c : Ctx) : Prop := c.inTrap = false ∧ c.writes = []

/-- A check of the instruction has failed after `hold` cycles (R51): the trap is entered at once, or is kept until the check completes. -/
structure State.failed (s t : State) (f : AccessFault) (hold : Nat) : Prop where
  now : hold ≤ 1 → s.ctx.entered t.ctx (TrapInfo.at s.ctx.pc f.cause f.detail f.addr) s.job.trapvec
  later : 1 < hold → s.sameRegs t ∧ t.mem = s.mem ∧ t.ctx.pc = s.ctx.pc ∧ t.ctx.traprec = s.ctx.traprec ∧ t.ctx.nextIssue = s.cycle + (hold - 1)
    ∧ t.ctx.trapping = some { TrapInfo.at s.ctx.pc f.cause f.detail f.addr with log := f.isViolation }

/-- The instruction waits: it stays at its address, and nothing has changed but that the context waits. -/
structure State.waits (s t : State) : Prop where
  only : t = s.setCtx t.ctx
  ctx : { t.ctx with wait := s.ctx.wait, nextIssue := s.ctx.nextIssue, inTaint := s.ctx.inTaint } = s.ctx
  wait : t.ctx.wait.isSome = true

end Machine

end Sys2Proof
end

