-- ==== Sys2Proof/Certificates/Slice0/Obligations.lean ====
section
/-! DEFINITION. The statements for the provers, family by family in the opcode table's order. -/

open Sys2Proof Sys2Proof.Machine

/-! ## Scalar instructions (R108 to R120) -/

/-- R108: a `.sat` result is the exact one clamped to the type's range, and a `.wrap` result is the number of the type's range that is congruent to it
modulo 2^w; what is written is that number's 64-bit pattern, and a register is read as the number of the type's range that its low w bits
hold. -/
def Obligations.TypedResultsNarrowAsTheTypeSays : Prop :=
  ∀ (t : IntTy) (y : Int) (x : Word),
    (loInt t ≤ extWord t x ∧ extWord t x ≤ hiInt t ∧ (extWord t x - x.toNat) % (2 : Int) ^ t.width = 0) ∧
    typedWord t .sat y = BitVec.ofInt 64 (max (loInt t) (min y (hiInt t))) ∧
    ∃ z : Int, typedWord t .wrap y = BitVec.ofInt 64 z ∧ loInt t ≤ z ∧ z ≤ hiInt t ∧ (z - y) % (2 : Int) ^ t.width = 0

/-- R109: ADD, SUB, MUL and ABS write the exact result narrowed to the type, wrapped or saturated, in one cycle (MUL in three), and
change nothing else. R111: DIV truncates towards zero and REM leaves what a = b × q + r asks, with the dividend's sign; a zero divisor gives −1 and the dividend,
and no trap. MULH gives the bits of the product from 64 up (R109). Nothing else changes. -/
def Obligations.AddSubMulDivGiveTheirTypedResult : Prop :=
  (
  ∀ (s : State) (sw : Bool) (d a b : BitVec 5) (t : IntTy) (v : Variant),
    let A := extWord t (s.readX a)
    let B := extWord t (s.readX b)
    s.gives (.add sw d a b t v) [.x a, .x b, .x d] sw 4 (.x d) (wide (typedWord t v (A + B))) 1 ∧
    s.gives (.sub sw d a b t v) [.x a, .x b, .x d] sw 4 (.x d) (wide (typedWord t v (A - B))) 1 ∧
    s.gives (.mul sw d a b t v) [.x a, .x b, .x d] sw 4 (.x d) (wide (typedWord t v (A * B))) 3 ∧
    s.gives (.abs sw d a t v) [.x a, .x d] sw 4 (.x d) (wide (typedWord t v |A|)) 1) ∧
  (
  ∀ (s : State) (sw : Bool) (d a b : BitVec 5) (t : IntTy),
    let A := extWord t (s.readX a)
    let B := extWord t (s.readX b)
    s.gives (.mulh sw d a b t) [.x a, .x b, .x d] sw 4 (.x d) (wide (typedWord t .wrap (A * B / (2 : Int) ^ 64))) 4 ∧
    (∃ q r : Int,
      (B = 0 → q = -1 ∧ r = A) ∧ (B ≠ 0 → A = B * q + r ∧ |r| < |B| ∧ (r = 0 ∨ (r < 0 ↔ A < 0))) ∧
      s.gives (.div sw d a b t) [.x a, .x b, .x d] sw 4 (.x d) (wide (typedWord t .wrap q)) 26 ∧
      s.gives (.rem sw d a b t) [.x a, .x b, .x d] sw 4 (.x d) (wide (typedWord t .wrap r)) 26))

/-- R109, R117: AND, OR, XOR, MIN, MAX, SLT and SEQ write what the type's numbers give, and change nothing else. R110, R115, R116: the immediate forms compute in 64 bits with the immediate of 13 bits, or of 37 with an EXT word; MOVI and LEA write the
immediate and the address; nothing else changes. -/
def Obligations.LogicOrderAndImmediateForms : Prop :=
  (
  ∀ (s : State) (sw : Bool) (d a b : BitVec 5) (t : IntTy),
    let A := extWord t (s.readX a)
    let B := extWord t (s.readX b)
    let rs : List Reg := [.x a, .x b, .x d]
    s.gives (.and sw d a b t) rs sw 4 (.x d) (wide (typedWord t .wrap ((s.readX a &&& s.readX b).toNat : Int))) 1 ∧
    s.gives (.or sw d a b t) rs sw 4 (.x d) (wide (typedWord t .wrap ((s.readX a ||| s.readX b).toNat : Int))) 1 ∧
    s.gives (.xor sw d a b t) rs sw 4 (.x d) (wide (typedWord t .wrap ((s.readX a ^^^ s.readX b).toNat : Int))) 1 ∧
    s.gives (.min sw d a b t) rs sw 4 (.x d) (wide (typedWord t .wrap (min A B))) 1 ∧
    s.gives (.max sw d a b t) rs sw 4 (.x d) (wide (typedWord t .wrap (max A B))) 1 ∧
    s.gives (.slt sw d a b t) rs sw 4 (.x d) (wide (if A < B then 1 else 0)) 1 ∧
    s.gives (.seq sw d a b t) rs sw 4 (.x d)
      (wide (if ∀ i < t.width, (s.readX a).getLsbD i = (s.readX b).getLsbD i then 1 else 0)) 1) ∧
  (
  ∀ (s : State) (sw : Bool) (d a b : BitVec 5) (i : BitVec 13) (e : Ext) (j k6 : BitVec 6) (k : BitVec 2),
    let A := s.readX a
    let I : Word := match e with | none => i.signExtend 64 | some x => (x ++ i).signExtend 64
    let D : Word := match e with | none => k6.signExtend 64 | some x => (x ++ k6).signExtend 64
    let size := if e.isSome then 8 else 4
    let rs : List Reg := [.x a, .x d]
    s.gives (.addi sw d a i e) rs sw size (.x d) (wide (A + I)) 1 ∧
    s.gives (.muli sw d a i e) rs sw size (.x d) (wide (A * I)) 3 ∧
    s.gives (.andi sw d a i e) rs sw size (.x d) (wide (A &&& I)) 1 ∧
    s.gives (.ori sw d a i e) rs sw size (.x d) (wide (A ||| I)) 1 ∧
    s.gives (.xori sw d a i e) rs sw size (.x d) (wide (A ^^^ I)) 1 ∧
    s.gives (.slti sw d a i e) rs sw size (.x d) (wide (if A.toInt < I.toInt then 1 else 0)) 1 ∧
    s.gives (.seqi sw d a i e) rs sw size (.x d) (wide (if A = I then 1 else 0)) 1 ∧
    s.gives (.shli sw d a j) rs sw 4 (.x d) (wide (A <<< j.toNat)) 1 ∧
    s.gives (.shri sw d a j) rs sw 4 (.x d) (wide (A >>> j.toNat)) 1 ∧
    s.gives (.srai sw d a j) rs sw 4 (.x d) (wide (A.sshiftRight j.toNat)) 1 ∧
    s.gives (.movi sw d i e) [.x d] sw size (.x d) (wide I) 1 ∧
    s.gives (.lea sw d a b k6 k e) [.x a, .x b, .x d] sw size (.x d) (wide (A + s.readX b <<< k.toNat + D)) 1)

/-- R112: SHL, SHR and SRA shift by bits [5:0] of xB, whatever the width; a count of w or more gives 0, and for SRA 0 or −1. Nothing else
changes. -/
def Obligations.ShiftsTakeBitsFiveToZeroOfTheCount : Prop :=
  ∀ (s : State) (sw : Bool) (d a b : BitVec 5) (t : IntTy),
    let n := (s.readX b).toNat % 64
    let u := (s.readX a).toNat % 2 ^ t.width
    let i : Int := if u < 2 ^ (t.width - 1) then (u : Int) else (u : Int) - 2 ^ t.width
    let rs : List Reg := [.x a, .x b, .x d]
    ∃ l r q : Word,
      s.gives (.shl sw d a b t) rs sw 4 (.x d) (wide l) 1 ∧ l = typedWord t .wrap ((u * 2 ^ n : Nat) : Int) ∧
      s.gives (.shr sw d a b t) rs sw 4 (.x d) (wide r) 1 ∧ r = typedWord t .wrap ((u / 2 ^ n : Nat) : Int) ∧
      s.gives (.sra sw d a b t) rs sw 4 (.x d) (wide q) 1 ∧ q = typedWord t .wrap (i / (2 : Int) ^ n) ∧
      (t.width ≤ n → l = 0 ∧ r = 0 ∧ q = typedWord t .wrap (if u < 2 ^ (t.width - 1) then 0 else -1))

/-- R109, R113: CLZ, CTZ and POPC count zero and one bits among the low w bits of xA, and BFX and BFI take and put a field of xA that is cut at bit 63;
nothing else changes. R114, R117 to R120: MOV, SEL, PCMP, PLOG, PMOV and PCNT write what they name, and change nothing else. -/
def Obligations.BitFieldsMovesAndPredicates : Prop :=
  (
  ∀ (s : State) (sw : Bool) (d a b : BitVec 5) (t : IntTy),
    let A := s.readX a
    let pos := (s.readX b).toNat % 64
    let n := min ((s.readX b).toNat / 256 % 64 + 1) (64 - pos)
    let w := t.width
    (∃ k, k ≤ w ∧ (∀ i, w - k ≤ i → i < w → A.getLsbD i = false) ∧ (k < w → A.getLsbD (w - 1 - k) = true) ∧
      s.gives (.clz sw d a t) [.x a, .x d] sw 4 (.x d) (wide (typedWord t .wrap (k : Int))) 1) ∧
    (∃ k, k ≤ w ∧ (∀ i < k, A.getLsbD i = false) ∧ (k < w → A.getLsbD k = true) ∧
      s.gives (.ctz sw d a t) [.x a, .x d] sw 4 (.x d) (wide (typedWord t .wrap (k : Int))) 1) ∧
    s.gives (.popc sw d a t) [.x a, .x d] sw 4 (.x d)
      (wide (typedWord t .wrap (((List.range w).filter fun i => A.getLsbD i).length : Int))) 1 ∧
    (∃ f : Word, (∀ i < 64, f.getLsbD i = if i < n then A.getLsbD (pos + i) else t.signed && A.getLsbD (pos + n - 1)) ∧
      s.gives (.bfx sw d a b t) [.x a, .x b, .x d] sw 4 (.x d) (wide f) 1) ∧
    (∃ f : Word, (∀ i < 64, f.getLsbD i = if pos ≤ i ∧ i < pos + n then A.getLsbD (i - pos) else (s.readX d).getLsbD i) ∧
      s.gives (.bfi sw d a b t) [.x a, .x b, .x d] sw 4 (.x d) (wide f) 1)) ∧
  (
  ∀ (s : State) (sw : Bool) (d a b : BitVec 5) (p q r : BitVec 3) (t : IntTy) (c : Cond) (T : BitVec 4),
    let A := extWord t (s.readX a)
    let B := extWord t (s.readX b)
    let holds : Prop := match c with | .eq => A = B | .ne => A ≠ B | .lt => A < B | .le => A ≤ B | .gt => A > B | .ge => A ≥ B
    s.gives (.mov sw d a) [.x a, .x d] sw 4 (.x d) (wide (s.readX a)) 1 ∧
    s.gives (.sel sw d a b p) [.x a, .x b, .p p, .x d] sw 4 (.x d)
      (wide (if (s.readP p).getLsbD 0 then s.readX a else s.readX b)) 1 ∧
    (holds → s.gives (.pcmp sw p a b t c) [.x a, .x b, .p p] sw 4 (.p p) (wide (BitVec.allOnes 64)) 1) ∧
    (¬ holds → s.gives (.pcmp sw p a b t c) [.x a, .x b, .p p] sw 4 (.p p) (wide 0) 1) ∧
    (∃ w : Word, (∀ i < 64, w.getLsbD i = T.getLsbD (2 * ((s.readP q).getLsbD i).toNat + ((s.readP r).getLsbD i).toNat)) ∧
      s.gives (.plog sw p q r T) [.p q, .p r, .p p] sw 4 (.p p) (wide w) 1) ∧
    s.gives (.pmovToPredicate sw p a) [.x a, .p p] sw 4 (.p p) (wide (s.readX a)) 1 ∧
    s.gives (.pmovFromPredicate sw d p) [.p p, .x d] sw 4 (.x d) (wide (s.readP p)) 1 ∧
    s.gives (.pcnt sw d p t) [.p p, .x d] sw 4 (.x d)
      (wide (BitVec.ofNat 64 ((List.range (512 / t.width)).filter fun i => (s.readP p).getLsbD i).length)) 2)

/-! ## Branches, calls, loops and repeat frames (R55 to R62, R121 to R131) -/

/-- R121, R129, R131: BR, JR and RET go to their target, and the six conditional branches do when their condition holds; a branch whose condition does not hold goes on with
the next word. Registers keep their values; the loops that a taken transfer leaves are deactivated. What a member of a gang tests and follows is its leader's
(R124; log 31). R121, R129: CALL and CALLR write the address after them to x31, go to their target, and deactivate no loop; CALLR reads its target before it writes x31.
R130: any of these eleven instructions that contains the end word of an active loop raises the illegal-operation trap as it issues, and the loop stays active. -/
def Obligations.TransfersGoWhereTheySay : Prop :=
  (
  ∀ (s : State) (sw : Bool) (d : BitVec 23) (i : BitVec 13) (e : Ext) (a : BitVec 5) (p : BitVec 3),
    let size := if e.isSome then 8 else 4
    let B : Word := match e with | none => d.signExtend 64 | some x => (x ++ d).signExtend 64
    let I : Word := match e with | none => i.signExtend 64 | some x => (x ++ i).signExtend 64
    let A := s.leadX a
    let P := s.leadP p
    let goes (j : Instr) (target : Word) : Prop := ∃ t, exec j s = .next t ∧ s.branches t sw target
    let cond (j : Instr) (c : Prop) : Prop :=
      (c → goes j (s.ctx.pc + I <<< 2)) ∧ (¬ c → ∃ t, exec j s = .next t ∧ s.passes t sw size 1)
    s.ready [.x a, .x 31, .p p] → s.ctx.atLoopEnd size = false →
      goes (.br sw d e) (s.ctx.pc + B <<< 2) ∧
      (s.ctx.atLoopEnd 4 = false → A.extractLsb' 0 2 = 0 → goes (.jr sw a) A) ∧
      (s.ctx.atLoopEnd 4 = false → (s.leadX 31).extractLsb' 0 2 = 0 → goes (.ret sw) (s.leadX 31)) ∧
      cond (.beqz sw a i e) (A = 0) ∧ cond (.bnez sw a i e) (A ≠ 0) ∧
      cond (.bltz sw a i e) (A.toInt < 0) ∧ cond (.bgez sw a i e) (0 ≤ A.toInt) ∧
      cond (.bpany sw p i e) (P ≠ 0) ∧ cond (.bpnone sw p i e) (P = 0)) ∧
  (
  ∀ (s : State) (sw : Bool) (d : BitVec 23) (e : Ext) (a : BitVec 5),
    let size := if e.isSome then 8 else 4
    let B : Word := match e with | none => d.signExtend 64 | some x => (x ++ d).signExtend 64
    let A := s.leadX a
    s.ready [.x a, .x 31] →
      (s.ctx.atLoopEnd size = false → ∃ t, exec (.call sw d e) s = .next t ∧ s.goesTo t sw (s.ctx.pc + B <<< 2) 3 ∧
        s.lands t (.x 31) (wide (s.ctx.pc + BitVec.ofNat 64 size)) 1 ∧ t.ctx.le = s.ctx.le) ∧
      (s.ctx.atLoopEnd 4 = false → A.extractLsb' 0 2 = 0 → ∃ t, exec (.callr sw a) s = .next t ∧ s.goesTo t sw A 3 ∧
        s.lands t (.x 31) (wide (s.ctx.pc + 4)) 1 ∧ t.ctx.le = s.ctx.le)) ∧
  (
  ∀ (s : State) (sw : Bool) (d : BitVec 23) (i : BitVec 13) (e : Ext) (a : BitVec 5) (p : BitVec 3),
    let size := if e.isSome then 8 else 4
    let refused (j : Instr) (size : Nat) : Prop :=
      s.ctx.atLoopEnd size = true → ∃ t, exec j s = .next t ∧ s.ctx.entered t.ctx (TrapInfo.at s.ctx.pc 0x02 0 0) s.job.trapvec
    s.ready [.x a, .x 31, .p p] → s.ctx.trappable →
      refused (.br sw d e) size ∧ refused (.call sw d e) size ∧ refused (.jr sw a) 4 ∧ refused (.callr sw a) 4 ∧ refused (.ret sw) 4 ∧
      refused (.beqz sw a i e) size ∧ refused (.bnez sw a i e) size ∧ refused (.bltz sw a i e) size ∧ refused (.bgez sw a i e) size ∧
      refused (.bpany sw p i e) size ∧ refused (.bpnone sw p i e) size)

/-- R122: a JR, CALLR or RET to a target whose bits [1:0] are not 0 raises the address fault with DETAIL 4 and the target in TRAPREC3: no register is written, and
TRAPREC1 is its own address. Outside a trap handler, with no write outstanding, the trap is entered at once. -/
def Obligations.MisalignedTargetsTrap : Prop :=
  ∀ (s : State) (sw : Bool) (a : BitVec 5) (j : Instr) (r : BitVec 5),
    (j = .jr sw a ∧ r = a) ∨ (j = .callr sw a ∧ r = a) ∨ (j = .ret sw ∧ r = 31) →
    s.ready [.x r, .x 31] → s.ctx.atLoopEnd 4 = false → (s.leadX r).extractLsb' 0 2 ≠ 0 →
    s.ctx.trappable →
    ∃ t, exec j s = .next t ∧ s.ctx.entered t.ctx (TrapInfo.at s.ctx.pc 0x03 4 (s.leadX r)) s.job.trapvec

/-- R126: LOOP and LOOPI start an inactive set: with a count above 0 its three registers are written and the body begins; else the body is skipped and the
set stays inactive. No other set and no register changes. A set that is active, a body that outgrows the active loop that holds the instruction, and one at the end word of an active loop (R130) raise the
illegal-operation trap. R114, R128: MOV reads a loop register; MOV to lcN of any loop, and to lsN or leN of an inactive one, writes it alone; to lsN or leN of an active loop it takes the
illegal-operation trap. What a follower of a gang counts and follows is its leader's (R124; log 31); that the set must be free in its own registers and the enclosing body is the leader's is the model's choice (log 127). -/
def Obligations.LoopsStartAndTheirRegistersMove : Prop :=
  (
  ∀ (s : State) (sw : Bool) (n : BitVec 2) (a b : BitVec 5) (l : BitVec 8) (i : BitVec 13) (e : Ext) (f : Option (BitVec 16)),
    let starts (j : Instr) (size : Nat) (count : Int) (L : Nat) : Prop :=
      let N := loopIndex n
      let start := s.ctx.pc + BitVec.ofNat 64 size
      let endw := start + BitVec.ofNat 64 (4 * (L - 1))
      let L' := s.ctx.ctl
      let outgrown : Prop := ∃ M, L'.le.get M ≠ 0 ∧ L'.ls.get M ≤ s.ctx.pc ∧ s.ctx.pc ≤ L'.le.get M ∧ L'.le.get M < endw
      (s.ctx.atLoopEnd size = true ∨ s.ctx.le.get N ≠ 0 ∨ outgrown → s.ctx.trappable →
        ∃ t, exec j s = .next t ∧ s.ctx.entered t.ctx (TrapInfo.at s.ctx.pc 0x02 0 0) s.job.trapvec) ∧
      (s.ctx.atLoopEnd size = false → s.ctx.le.get N = 0 → ¬ outgrown →
      ∃ t, exec j s = .next t ∧ s.onlyCtx t ∧ s.sameRegs t ∧ t.ctx.wait = none ∧ t.ctx.parked = sw ∧
        t.ctx.rptst = s.ctx.rptst ∧ t.ctx.frame = s.ctx.frame ∧
        (∀ M, M ≠ N → t.ctx.lc.get M = s.ctx.lc.get M ∧ t.ctx.ls.get M = s.ctx.ls.get M ∧ t.ctx.le.get M = s.ctx.le.get M) ∧
        t.ctx.ls.get N = start ∧
        (count ≤ 0 → t.ctx.lc.get N = 0 ∧ t.ctx.le.get N = 0 ∧ t.ctx.pc = start + BitVec.ofNat 64 (4 * L) ∧ t.ctx.nextIssue = s.cycle + 3) ∧
        (0 < count → t.ctx.lc.get N = BitVec.ofInt 64 count ∧ t.ctx.le.get N = endw ∧ t.ctx.pc = start ∧ t.ctx.nextIssue = s.cycle + 2))
    s.ready [.x a] →
      starts (.loop sw n a l f) (if f.isSome then 8 else 4) (s.leadX a).toInt ((f.getD 0).toNat * 256 + l.toNat + 1) ∧
      starts (.loopi sw n b i e) (if e.isSome then 8 else 4) (immWord i e).toInt (b.toNat + 1)) ∧
  (
  ∀ (s : State) (sw : Bool) (n : BitVec 2) (a d : BitVec 5) (r : LoopReg),
    let N := loopIndex n
    let file (c : Ctx) (q : LoopReg) : Vector Word 3 := match q with | .lc => c.lc | .ls => c.ls | .le => c.le
    s.gives (.movFromLoop sw d n r) [.x d] sw 4 (.x d) (wide ((file s.ctx r).get N)) 1 ∧
    (s.ready [.x a] → r = .lc ∨ s.ctx.le.get N = 0 →
      ∃ t, exec (.movToLoop sw n a r) s = .next t ∧ s.onlyCtx t ∧ s.sameRegs t ∧ t.ctx.wait = none ∧ t.ctx.parked = sw ∧ t.ctx.nextIssue = s.cycle + 1 ∧
        (s.ctx.straight 4 → (r = .le → s.readX a ≠ s.ctx.pc ∧ s.leadX a ≠ s.ctx.pc) →
          t.ctx.pc = s.ctx.pc + 4 ∧ (file t.ctx r).get N = s.readX a ∧ (∀ q M, q ≠ r ∨ M ≠ N → (file t.ctx q).get M = (file s.ctx q).get M)) ∧
        (s.ctx.frame = [] → s.ctx.lead = none → r = .lc → s.ctx.le.get N = s.ctx.pc → s.ctx.pc ≠ 0 → (∀ M, M ≠ N → s.ctx.le.get M = 0) →
          t.ctx.lc.get N = s.readX a - 1 ∧
          (1 < (s.readX a).toInt → t.ctx.pc = s.ctx.ls.get N ∧ t.ctx.le.get N = s.ctx.le.get N) ∧
          ((s.readX a).toInt ≤ 1 → t.ctx.pc = s.ctx.pc + 4 ∧ t.ctx.le.get N = 0))) ∧
    (s.ready [.x a] → r ≠ .lc → s.ctx.le.get N ≠ 0 → s.ctx.trappable →
      ∃ t, exec (.movToLoop sw n a r) s = .next t ∧ s.ctx.entered t.ctx (TrapInfo.at s.ctx.pc 0x02 0 0) s.job.trapvec))

/-- R127: when an instruction that contains the end word of the one active loop of a context that follows no leader completes, the count goes down by one; while it is above 0 the body begins again, and else
the loop is deactivated and the next word follows. Stated of NOP (R151), and of the completion that the instructions share. R58: inside a frame, whose words are all capturable (R57), an instruction goes on with the next body word, with word 0 of the next execution, or, after the last word of the last execution, with the word behind the body and the sequencer idle; in a follower of a gang J and IDX are the leader's (R124; log 31). Stated of ADD and of that completion. Where a handler has written J above KM1 or IDX above N, the frame ends after that word: the model's choice (log 111). -/
def Obligations.LoopEndsAndFrameWordsGoOn : Prop :=
  (
  ∀ (s : State) (sw : Bool) (N : Fin 3) (gap : Nat),
    let ends (t : State) : Prop := s.onlyCtx t ∧ s.sameRegs t ∧ t.ctx.parked = sw ∧
      t.ctx.lc.get N = s.ctx.lc.get N - 1 ∧ (∀ M, M ≠ N → t.ctx.lc.get M = s.ctx.lc.get M ∧ t.ctx.le.get M = s.ctx.le.get M) ∧
      t.ctx.ls = s.ctx.ls ∧
      (1 < (s.ctx.lc.get N).toInt → t.ctx.pc = s.ctx.ls.get N ∧ t.ctx.le.get N = s.ctx.le.get N) ∧
      ((s.ctx.lc.get N).toInt ≤ 1 → t.ctx.pc = s.ctx.pc + 4 ∧ t.ctx.le.get N = 0)
    s.ctx.frame = [] → s.ctx.lead = none → s.ctx.le.get N = s.ctx.pc → s.ctx.pc ≠ 0 → (∀ M, M ≠ N → s.ctx.le.get M = 0) →
    ends (s.retireAfter sw 4 gap) ∧ (s.ready [] → ∃ t, exec (.nop sw) s = .next t ∧ ends t)) ∧
  (
  ∀ (s : State) (sw : Bool) (d a b : BitVec 5) (ty : IntTy) (v : Variant) (gap : Nat),
    let R := s.ctx.ctl.rptst
    let P := s.ctx.ctl.rptpc
    let goes (t : State) : Prop := t.ctx.lc = s.ctx.lc ∧ t.ctx.le = s.ctx.le ∧ t.ctx.parked = sw ∧
      rptKm1 t.ctx.rptst = rptKm1 s.ctx.rptst ∧ rptN t.ctx.rptst = rptN s.ctx.rptst ∧
      rptSd t.ctx.rptst = rptSd s.ctx.rptst ∧ rptSa t.ctx.rptst = rptSa s.ctx.rptst ∧ rptSb t.ctx.rptst = rptSb s.ctx.rptst ∧
      (rptIdx R < rptN R → rptIdx t.ctx.rptst = rptIdx R + 1 ∧ rptJ t.ctx.rptst = rptJ R ∧ rptAct t.ctx.rptst = true ∧
        t.ctx.frame = s.ctx.frame ∧ t.ctx.pc = P + BitVec.ofNat 64 (4 * (rptIdx R + 1))) ∧
      (rptN R ≤ rptIdx R → rptJ R < rptKm1 R → rptIdx t.ctx.rptst = 0 ∧ rptJ t.ctx.rptst = rptJ R + 1 ∧ rptAct t.ctx.rptst = true ∧
        t.ctx.frame = s.ctx.frame ∧ t.ctx.pc = P) ∧
      (rptN R ≤ rptIdx R → rptKm1 R ≤ rptJ R → rptAct t.ctx.rptst = false ∧ t.ctx.frame = [] ∧
        t.ctx.pc = P + BitVec.ofNat 64 (4 * (rptN R + 1)))
    s.ctx.frame ≠ [] → (∀ w ∈ s.ctx.frame, bodyWord w = .good) →
    goes (s.retireAfter sw 4 gap) ∧
    (s.ready [.x a, .x b, .x d] → ∃ t, exec (.add sw d a b ty v) s = .next t ∧ goes t ∧
      s.computes t sw 4 (.x d) (wide (typedWord ty v (extWord ty (s.readX a) + extWord ty (s.readX b)))) 1))

/-- R55, R57 to R61: RPTF fetches its body's words in order, and checks each; when all can be captured it takes them into the sequencer, writes its parameters to RPTST with execution 0 and word 0 active, and goes on with the first
body word. R59: the first word that cannot be fetched, is undefined, is not capturable or stands at the end of an active loop raises its trap at the RPTF with that word's address, and RPTST keeps its value; an RPTF that issues while
a frame is active, or that contains the end word of an active loop (R130), raises the illegal-operation trap and names no word. Registers keep their values. A word at a loop's end is found before a later word that cannot be
captured: the model's choice (log 126). R58: of a captured word, the sequencer steps the fields D, A and B that name x or v registers by J times their strides, modulo 32, and no other; shown for
the shapes ADD, ADDI, PCMP, PLOG, MOV to a loop register, SEL, VADD and VCMP. In a follower of a gang the stepping is its leader's (R124; log 31). -/
def Obligations.RepeatFramesAreCapturedAndStepped : Prop :=
  (
  ∀ (s : State) (sw : Bool) (sd sa sb : BitVec 5) (n k : BitVec 4) (e : Option (BitVec 20)) (u : Nat → State) (w : Nat → Word32) (m : Nat),
    let size := if e.isSome then 8 else 4
    let base := s.ctx.pc + BitVec.ofNat 64 size
    let at_ (i : Nat) : Word := base + BitVec.ofNat 64 (4 * i)
    let km1 := match e with | some x => x.toNat | none => k.toNat
    let atEnd (i : Nat) : Bool := ([0, 1, 2] : List (Fin 3)).any fun N => decide (s.ctx.ctl.le.get N ≠ 0) && decide (s.ctx.ctl.le.get N = at_ i)
    let fetched (i : Nat) : Prop := ∃ bs, (u i).fetchBytes (at_ i) = (u (i + 1), .ok bs) ∧ w i = bitsOfBytes 32 bs
    let refused (cause : BitVec 8) (detail : BitVec 32) (fetch : Bool) (addr : Word) : Prop :=
      s.ctx.trappable → ∃ t, exec (.rptf sw sd sa sb n k e) s = .next t ∧ t.core.matrix = s.core.matrix ∧
        s.ctx.entered t.ctx { TrapInfo.at s.ctx.pc cause detail addr with fetch } s.job.trapvec
    s.ready [] →
    (s.ctx.atLoopEnd size = true ∨ rptAct s.ctx.rptst = true → refused 0x02 0 false 0) ∧
    (s.ctx.atLoopEnd size = false → rptAct s.ctx.rptst = false → m ≤ n.toNat + 1 → u 0 = s.issued [] →
      (∀ i < m, fetched i ∧ bodyWord (w i) = .good ∧ atEnd i = false) →
      (m = n.toNat + 1 →
        ∃ t, exec (.rptf sw sd sa sb n k e) s = .next t ∧ t.mem = s.mem ∧ t.core.matrix = s.core.matrix ∧ s.sameRegs t ∧ t.ctx.frame = (List.range m).map w ∧
          t.ctx.pc = base ∧ t.ctx.parked = sw ∧ rptAct t.ctx.rptst = true ∧ rptJ t.ctx.rptst = 0 ∧ rptIdx t.ctx.rptst = 0 ∧
          rptKm1 t.ctx.rptst = km1 ∧ rptN t.ctx.rptst = n.toNat ∧ rptSd t.ctx.rptst = sd.toNat ∧ rptSa t.ctx.rptst = sa.toNat ∧
          rptSb t.ctx.rptst = sb.toNat ∧ t.ctx.rptpc = base &&& 0xFFFFFFFFFFFC) ∧
      (m ≤ n.toNat →
        (∀ f, ((u m).fetchBytes (at_ m)).2 = .error f → refused f.cause f.detail true (at_ m)) ∧
        (fetched m → bodyWord (w m) = .undefined → refused 0x01 0 false (at_ m)) ∧
        (fetched m → bodyWord (w m) = .other ∨ bodyWord (w m) = .good ∧ atEnd m = true → refused 0x02 0 false (at_ m))))) ∧
  (
  ∀ (c : Ctx) (i : Instr) (sw : Bool) (d a b : BitVec 5) (p q r : BitVec 3) (ty : IntTy) (vt : LaneTy) (v : Variant) (im : BitVec 13) (T : BitVec 4) (cc : Cond)
      (N : BitVec 2) (L : LoopReg) (mode : BitVec 3) (x : Option VExt),
    let R := c.ctl.rptst
    let D := BitVec.ofNat 5 (d.toNat + rptJ R * rptSd R)
    let A := BitVec.ofNat 5 (a.toNat + rptJ R * rptSa R)
    let B := BitVec.ofNat 5 (b.toNat + rptJ R * rptSb R)
    c.frame[rptIdx R]?.map decodeWord = some (.ok i) →
      (i = .add sw d a b ty v → c.frameInstr = .add sw D A B ty v) ∧
      (i = .addi sw d a im none → c.frameInstr = .addi sw D A im none) ∧
      (i = .pcmp sw p a b ty cc → c.frameInstr = .pcmp sw p A B ty cc) ∧
      (i = .plog sw p q r T → c.frameInstr = .plog sw p q r T) ∧
      (i = .movToLoop sw N a L → c.frameInstr = .movToLoop sw N A L) ∧
      (i = .sel sw d a b p → c.frameInstr = .sel sw D A B p) ∧
      (i = .vadd sw d a b vt mode x → c.frameInstr = .vadd sw D A B vt mode x) ∧
      (i = .vcmp sw p a b vt cc x → c.frameInstr = .vcmp sw p A B vt cc x))

/-! ## Contexts, gangs, traps, control registers, and the end of a job (R53, R54, R133 to R151, R406, R412) -/

/-- R133: HSTART by context 0, with a helper that the job reserved and that is not live, starts it at its target with every register 0 but x1, which takes xB, an empty landing set and CHK as at
launch. Context 0 goes on, and nothing else changes. R135, R136: HWAIT by context 0 goes on once no helper of its mask is live, and waits until then; HSTAT writes the live mask and the number of helpers reserved. -/
def Obligations.HelpersStartAndAreAwaited : Prop :=
  (
  ∀ (s : State) (sw : Bool) (h : Fin 11) (b : BitVec 5) (i : BitVec 13) (e : Ext),
    let target := s.ctx.pc + immWord i e <<< 2
    s.ready [.x b] → s.cur = 0 → h ≠ 0 → h.val ≤ s.job.helpers → s.core.gang = none → s.job.redun = false →
    (s.ctxAt h).live = false → target.extractLsb' 0 2 = 0 →
    ∃ t, exec (.hstart sw (BitVec.ofNat 5 h.val) b i e) s = .next t ∧ { t with ctxs := s.ctxs, early := s.early } = s ∧
      (∀ m, m ≠ h → m ≠ 0 → t.ctxAt m = s.ctxAt m) ∧
      s.ctx.onlyRegs t.ctx ∧ s.sameRegs t ∧ s.goesOn t sw (if e.isSome then 8 else 4) 1 ∧
      (t.ctxAt h).live = true ∧ (t.ctxAt h).pc = target ∧ (t.ctxAt h).inTrap = false ∧ (t.ctxAt h).chk = s.job.chk ∧
      (t.ctxAt h).rptst = 0 ∧ (t.ctxAt h).rptpc = 0 ∧ (∀ k, ((t.ctxAt h).slots.get k).state = .free) ∧
      (∀ k, (t.ctxAt h).lc.get k = 0 ∧ (t.ctxAt h).ls.get k = 0 ∧ (t.ctxAt h).le.get k = 0) ∧
      ∀ r, (t.ctxAt h).reg r = if r = .x 1 then wide (s.readX b) else 0) ∧
  (
  ∀ (s : State) (sw : Bool) (a d : BitVec 5),
    let busy (m : Word) : Prop := ∃ h : Fin 11, h ≠ 0 ∧ m.getLsbD h.val = true ∧ (s.ctxAt h).live = true
    (s.ready [.x a] → s.cur = 0 → ¬ busy (s.readX a) → ∃ t, exec (.hwait sw a) s = .next t ∧ s.passes { t with early := s.early } sw 4 1) ∧
    (s.ready [.x a] → s.cur = 0 → busy (s.readX a) → ∃ t, exec (.hwait sw a) s = .next t ∧ s.waits t) ∧
    s.gives (.hstat sw d) [.x d] sw 4 (.x d)
      (wide (BitVec.ofNat 64 (1 + ((List.range 10).map fun i => if s.helperLive (i + 1) then 2 ^ (i + 1) else 0).sum
        + s.job.helpers * 2 ^ 16))) 2)

/-- R138, R139: GANG by context 0, alone on its core and in no gang, forms the gang once context 0 of every other core of the range waits at a GANG of the same size; the leader goes on with the next word, and a
member behind the leader's GANG (log 34; what it follows is log 31). A range of which some core waits with another size, or has executed END, forms no gang: GANG takes the illegal-operation trap there, and the range is noted, so that every later GANG of it does too. SPLIT leaves the gang. No register changes. -/
def Obligations.GangsFormAndSplit : Prop :=
  ∀ (s : State) (sw : Bool) (n : BitVec 2),
    let size := 2 ^ n.toNat
    let others := rangeOthers s.position size
    (s.ready [] → s.cur = 0 → s.anyHelperLive = false → s.core.gang = none → s.job.redun = false →
      (∀ p ∈ others, s.clusterCore p ∈ s.job.cores) → rangeClashes s.clu.gangClash s.clu.gangWait s.clu.ended s.position size s.cycle = false →
      peersWait s.clu.gangWait others size s.cycle = true →
      ∃ t, exec (.gang sw n) s = .next t ∧ { t with ctxs := s.ctxs, core := s.core, clu := s.clu } = s ∧ s.sameRegs t ∧
        t.core = { s.core with gang := some { n := size, leader := decide (s.position % size = 0), stops := [], parks := 0, takes := 0 } } ∧
        t.clu = { s.clu with gangWait := t.clu.gangWait } ∧ (∀ x ∈ t.clu.gangWait, x.pos ∉ others) ∧ t.ctx.parked = sw ∧
        (s.position % size = 0 → s.goesOn t sw 4 1) ∧ (s.position % size ≠ 0 → t.ctx.pc = Config.leaderPc s.cycle + 4 ∧ t.ctx.lead.isSome = true)) ∧
    (s.ready [] → s.cur = 0 → s.anyHelperLive = false → s.core.gang = none → s.job.redun = false →
      (∀ p ∈ others, s.clusterCore p ∈ s.job.cores) → s.ctx.trappable →
      (rangeOf s.position size ∈ s.clu.gangClash ∨
        (∃ x ∈ s.clu.gangWait, x.since ≤ s.cycle ∧ x.n ≠ size ∧ (x.pos / size = s.position / size ∨ x.pos / x.n = s.position / x.n)) ∨
        ∃ x ∈ s.clu.ended, x.since ≤ s.cycle ∧ x.pos ∈ others) →
      ∃ t, exec (.gang sw n) s = .next t ∧ s.ctx.entered t.ctx (TrapInfo.at s.ctx.pc 0x02 0 0) s.job.trapvec ∧
        rangeOf s.position size ∈ t.clu.gangClash ∧ (∀ r ∈ s.clu.gangClash, r ∈ t.clu.gangClash) ∧ (∀ x ∈ t.clu.gangWait, x ∈ s.clu.gangWait)) ∧
    (s.ready [] → s.core.gang.isSome = true → s.job.redun = false →
      ∃ t, exec (.split sw) s = .next t ∧ t.core = { s.core with gang := none } ∧ (t.modCore fun _ => s.core) = s.setCtx t.ctx ∧
        s.sameRegs t ∧ t.ctx.lead = none ∧ s.goesOn (t.modCtx fun c => { c with lead := s.ctx.lead }) sw 4 3)

/-- R10, R146, R147: TRAP and BRK (with the job not claimed) enter the handler with cause 0x15 and 0x16, their code as DETAIL, and NEXT = 1 so that TRAPREC1 is the word after them; a word that is no instruction enters it with cause 0x01
and its own address. R140: a trap is not entered while an earlier register write of its context has not been formed: the trap is kept, nothing is written of the record, and the program counter stays. R145, R259: TRAP, like every trap, while INTRAP is 1 ends its context and stops the job, whose engine commands end with an element each; the other contexts come to their boundaries (R414). R412: once no context is live the
job so stopped is ABORTED: its event is FAILED, and its completion record says ABORTED with reason 2. -/
def Obligations.TrapsEnterTheHandlerOrAbortTheJob : Prop :=
  (
  (
  ∀ (s : State) (sw : Bool) (n : BitVec 13) (k : BitVec 8),
    s.ready [] → s.ctx.trappable → s.claimed = false →
    (∃ t, exec (.trap sw n) s = .next t ∧ t = s.setCtx t.ctx ∧ s.ctx.entered t.ctx
      { cause := 0x15, detail := n.setWidth 32, tag := none, fetch := false, next := true, ret := s.ctx.pc + 4, iaddr := s.ctx.pc, caddr := 0, log := false } s.job.trapvec) ∧
    (∃ t, exec (.brk sw k) s = .next t ∧ t = s.setCtx t.ctx ∧ s.ctx.entered t.ctx
      { cause := 0x16, detail := k.setWidth 32, tag := none, fetch := false, next := true, ret := s.ctx.pc + 4, iaddr := s.ctx.pc, caddr := 0, log := false } s.job.trapvec) ∧
    (∃ t, exec .undefinedInstruction s = .next t ∧ t = s.setCtx t.ctx ∧ s.ctx.entered t.ctx (TrapInfo.at s.ctx.pc 0x01 0 0) s.job.trapvec)) ∧
  (
  ∀ (s : State) (i : TrapInfo),
    (∃ w ∈ s.ctx.writes, (∀ d, w.due = some d → s.cycle < d) ∧ ∀ u ∈ s.ctx.writes, u.seq = w.seq → u = w) →
    (s.raise i).ctx.trapping = some { i with log := false } ∧ (s.raise i).ctx.pc = s.ctx.pc ∧ (s.raise i).ctx.traprec = s.ctx.traprec ∧
      (s.raise i).ctx.inTrap = s.ctx.inTrap ∧ (i.log = false → (s.raise i) = s.setCtx (s.raise i).ctx))) ∧
  (
  ∀ (s : State) (sw : Bool) (n : BitVec 13),
    s.ready [] → s.ctx.inTrap = true → s.ctx.writes = [] → s.job.stopping = false →
    ∃ t, exec (.trap sw n) s = .next t ∧ t.ctx.live = false ∧ t.job.stopping = true ∧ t.job.stopReason = 2 ∧
      (∀ m, m ≠ s.cur → (t.ctxAt m).live = (s.ctxAt m).live ∧ (t.ctxAt m).pc = (s.ctxAt m).pc ∧ ∀ r, (t.ctxAt m).reg r = (s.ctxAt m).reg r) ∧
      (∀ q : Fin 5, (t.core.chans.get q).cmds = [] ∧
        (t.core.chans.get q).ready.length = (s.core.chans.get q).ready.length + (s.core.chans.get q).cmds.length)) ∧
  (
  ∀ (s : State) (q : BitVec 8),
    q.toNat = jobQueue s.job.jobid → s.job.running = true → s.job.stopping = true → s.job.stopReason = 2 → (∀ c, (s.ctxAt c).live = false) → s.dev.hostLink = true →
    ∃ t, exec (.teardownCompletes q) s = .next t ∧ t.job.running = false ∧
      (s.job.evt ≠ 0 → Sparse.get EventState.done t.dev.events s.job.evt.toNat = .failed) ∧
      Memory.byte t.mem (complKey s.job.compl + 7) = 3 ∧ Memory.byte t.mem (complKey s.job.compl + 6) = 2)

/-- R148: RTE and RTE xA in a handler, with no frame active, clear INTRAP and go to TRAPREC1, or to an aligned xA, in a gang the leader's (R124; log 31), no earlier than three cycles after; no register and no loop changes. RTE with a frame active whose words can be fetched again
resumes it at its word (R61, R63). RTE xA with a frame active or with a misaligned xA is a double trap (its cause and DETAIL: log 141). Outside a handler RTE and RTE xA take the illegal-operation trap, and so they do at the end word of an active loop (R130), which in a handler is a double trap: the context ends, and the job is stopped (R145). R140, R146, R148: a TRAP, and the RTE that a handler outside every loop executes at once, come back to the word after the TRAP with every register, loop and frame register, landing slot, and byte of memory as it was, and INTRAP 0. -/
def Obligations.ReturnsComeBackFromTheHandler : Prop :=
  (
  ∀ (s : State) (sw : Bool) (a : BitVec 5) (j : Instr) (target : Word),
    (j = .rte sw ∧ target = s.ctx.ctl.ret) ∨ (j = .rteXa sw a ∧ target = s.leadX a ∧ target.extractLsb' 0 2 = 0) →
    s.ready [.x a] →
    (s.ctx.atLoopEnd 4 = false → s.ctx.inTrap = true → rptAct s.ctx.ctl.rptst = false →
      ∃ t, exec j s = .next t ∧ t = s.setCtx t.ctx ∧ s.sameRegs t ∧ t.ctx.inTrap = false ∧ t.ctx.pc = target ∧ t.ctx.parked = sw ∧
        t.ctx.nextIssue = s.cycle + 3 ∧ t.ctx.lc = s.ctx.lc ∧ t.ctx.ls = s.ctx.ls ∧ t.ctx.le = s.ctx.le ∧ t.ctx.traprec = s.ctx.traprec ∧
        t.ctx.slots = s.ctx.slots) ∧
    (s.ctx.trappable → ∃ t, exec j s = .next t ∧ s.ctx.entered t.ctx (TrapInfo.at s.ctx.pc 0x02 0 0) s.job.trapvec)) ∧
  (
  ∀ (s u : State) (sw : Bool) (a : BitVec 5) (ws : List Word32),
    let L := s.ctx.ctl
    let n := rptN L.rptst + 1
    s.ready [.x a] → s.ctx.inTrap = true → s.ctx.atLoopEnd 4 = false →
    (rptAct L.rptst = true → ((s.issued []).returnTo sw s.ctx.pc).capture L.rptpc n = (u, .ok ws) →
      ∃ t, exec (.rte sw) s = .next t ∧ t.mem = s.mem ∧ s.sameRegs t ∧ t.ctx.inTrap = false ∧ t.ctx.frame = ws ∧ t.ctx.rptst = s.ctx.rptst ∧
        t.ctx.pc = L.rptpc + BitVec.ofNat 64 (4 * rptIdx L.rptst) ∧ t.ctx.nextIssue = s.cycle + 3 + (n + 3) / 4 ∧ t.ctx.le = s.ctx.le) ∧
    (rptAct L.rptst = true ∨ (s.leadX a).extractLsb' 0 2 ≠ 0 → s.ctx.writes = [] →
      ∃ t, exec (.rteXa sw a) s = .next t ∧ t.ctx.live = false ∧ t.job.stopping = true ∧
        (∀ m, m ≠ s.cur → (t.ctxAt m).live = (s.ctxAt m).live ∧ (t.ctxAt m).pc = (s.ctxAt m).pc ∧ ∀ r, (t.ctxAt m).reg r = (s.ctxAt m).reg r))) ∧
  (
  ∀ (s : State) (sw : Bool) (a : BitVec 5) (j : Instr),
    j = .rte sw ∨ j = .rteXa sw a → s.ready [.x a] → s.ctx.inTrap = true → s.ctx.atLoopEnd 4 = true → s.ctx.writes = [] →
    ∃ t, exec j s = .next t ∧ t.ctx.live = false ∧ t.job.stopping = true) ∧
  (
  ∀ (s : State) (sw sw' : Bool) (n : BitVec 13) (c : Nat),
    s.ready [] → s.ctx.trappable → s.claimed = false → rptAct s.ctx.ctl.rptst = false → (∀ k, s.ctx.ctl.le.get k ≠ s.job.trapvec) →
    ∃ t u, exec (.trap sw n) s = .next t ∧ exec (.rte sw') { t with cycle := c } = .next u ∧ u.ctx.pc = s.ctx.pc + 4 ∧
      u.ctx.inTrap = false ∧ (∀ r, u.ctx.reg r = s.ctx.reg r) ∧ u.ctx.lc = s.ctx.lc ∧ u.ctx.ls = s.ctx.ls ∧ u.ctx.le = s.ctx.le ∧
      u.ctx.rptst = s.ctx.rptst ∧ u.ctx.rptpc = s.ctx.rptpc ∧ u.ctx.slots = s.ctx.slots ∧ (∀ k, Memory.byte u.mem k = Memory.byte s.mem k) ∧
      { u with ctxs := s.ctxs, cycle := s.cycle } = s ∧ ∀ m, m ≠ s.cur → u.ctxAt m = s.ctxAt m)

/-- R53, R54: MFC writes the register that its selector names: of CTXST the fields of R54, of a reserved bit 0; reading MBQ removes its oldest post, and 0 stands for none. Nothing else changes but with MBQ. -/
def Obligations.MfcReadsEveryControlRegister : Prop :=
  ∀ (s : State) (sw : Bool) (d : BitVec 5),
    let reads (r : CtrlReg) (w : Word) : Prop := s.gives (.mfc sw d r) [.x d] sw 4 (.x d) (wide w) 2
    (∃ w : Word, reads .ctxst w ∧ natBits w.toNat 15 12 = s.cur.val ∧ w.getLsbD 11 = s.job.superstep ∧ w.getLsbD 10 = s.ctx.inTrap ∧
      w.getLsbD 9 = s.ctx.lsord ∧ w.getLsbD 8 = s.ctx.rptst.getLsbD 0 ∧ w.getLsbD 5 = s.ctx.chk ∧ w.getLsbD 4 = s.ctx.rsvw ∧
      w.getLsbD 3 = s.ctx.haz ∧ natBits w.toNat 63 16 = 0 ∧ natBits w.toNat 7 6 = 0 ∧ natBits w.toNat 2 0 = 0) ∧
    reads .corenum ((if s.job.redun then s.core.num &&& 0xFFE else s.core.num).setWidth 64) ∧ reads .jobarg s.job.arg ∧ reads .jobid (s.job.jobid.setWidth 64) ∧
    reads .devtime s.dev.devtime ∧ reads .sstep s.bar.sstep ∧ reads .trapvec s.job.trapvec ∧
    (∀ n, reads (.traprec n) (s.ctx.traprec.get n.toFin)) ∧ (∀ n, reads (.mbox n) (s.core.mbox.get n.toFin)) ∧
    reads .rptst s.ctx.rptst ∧ reads .rptpc s.ctx.rptpc ∧ reads .imbal0 s.bar.imbal0 ∧ reads .imbal1 s.bar.imbal1 ∧
    (∃ w : Word, reads .bgmask w ∧ ∀ g : Fin 32, w.getLsbD g.val =
      (((s.bar.groups.get g).res && (s.bar.groups.get g).member) || decide (s.bar.domain = some (BitVec.ofFin g)))) ∧
    reads .sig (if s.job.redun then s.core.sig else 0) ∧
    (s.ready [.x d] → ∃ t, exec (.mfc sw d .mbq) s = .next t ∧ t.core.mbq = s.core.mbq.tail ∧ s.lands t (.x d) (wide (s.core.mbq.headD 0)) 2 ∧
      s.goesOn t sw 4 1 ∧ t.mem = s.mem)

/-- R8, R54, R60, R62: MTC writes the fields that can be written, clears RSVW and HAZ where it writes ones, ignores read-only registers, and notes a nonzero write to a reserved bit in RSVW; one write that clears RSVW and has a reserved bit leaves it set, the model's choice (log 113). Setting RPTST.ACT outside a handler takes the illegal-operation trap. -/
def Obligations.MtcWritesWhatCanBeWritten : Prop :=
  ∀ (s : State) (sw : Bool) (a : BitVec 5),
    let w := s.readX a
    let writes (r : CtrlReg) (p : State → Prop) : Prop :=
      s.ready [.x a] → ∃ t, exec (.mtc sw a r) s = .next t ∧ s.sameRegs t ∧ t.mem = s.mem ∧ t.ctx.parked = sw ∧ p t
    writes .ctxst (fun t => t.ctx.chk = w.getLsbD 5 ∧ t.ctx.haz = (s.ctx.haz && !w.getLsbD 3) ∧
      t.ctx.rsvw = ((s.ctx.rsvw && !w.getLsbD 4) || decide (natBits w.toNat 63 16 ≠ 0 ∨ natBits w.toNat 7 6 ≠ 0 ∨ natBits w.toNat 2 0 ≠ 0)) ∧
      t.ctx.inTrap = s.ctx.inTrap ∧ t.ctx.lsord = s.ctx.lsord ∧ t.core = s.core) ∧
    (∀ n, writes (.mbox n) (fun t => t.core = { s.core with mbox := t.core.mbox } ∧ t.core.mbox.get n.toFin = w ∧
      ∀ m, m ≠ n.toFin → t.core.mbox.get m = s.core.mbox.get m)) ∧
    (rptAct w = false ∨ s.ctx.inTrap = true → s.ctx.frame = [] → writes .rptst (fun t => t.ctx.rptst = w ∧ t.core = s.core)) ∧
    (s.ctx.frame = [] → writes .rptpc (fun t => natBits t.ctx.rptpc.toNat 47 2 = natBits w.toNat 47 2 ∧ natBits t.ctx.rptpc.toNat 1 0 = 0 ∧
      natBits t.ctx.rptpc.toNat 63 48 = 0 ∧ t.ctx.rsvw = (s.ctx.rsvw || decide (natBits w.toNat 63 48 ≠ 0 ∨ natBits w.toNat 1 0 ≠ 0)))) ∧
    (∀ r ∈ [CtrlReg.corenum, .jobarg, .jobid, .devtime, .sstep, .trapvec, .mbq, .bgmask, .imbal0, .imbal1, .sig],
      s.ready [.x a] → ∃ t, exec (.mtc sw a r) s = .next t ∧ s.passes t sw 4 1) ∧
    (∀ n, writes (.traprec n) (fun t => t.ctx.traprec = s.ctx.traprec ∧ t.core = s.core)) ∧
    (rptAct w = true → s.ready [.x a] → s.ctx.trappable →
      ∃ t, exec (.mtc sw a .rptst) s = .next t ∧ s.ctx.entered t.ctx (TrapInfo.at s.ctx.pc 0x02 0 0) s.job.trapvec)

/-- R150, R151: NOP does nothing; PAUSE issues nothing for n more cycles, and its expiry ends the pause; CNTRD reads a counter; ICINV, with its line located and no store to it outstanding, has every cache drop the line and then
goes on. R47, R50: a formed register write of variable latency is performed: its register takes the value, an older outstanding write to the same register will be discarded, and no other register changes; a write that a later one has overtaken is discarded. R420: a counter that wraps with OVIE writes a trace record of kind 6 with its number, when the ring is set and has room; with OVIE 0 nothing happens. -/
def Obligations.PausesCountersCachesAndLateWrites : Prop :=
  (
  ∀ (s : State) (sw : Bool) (n : BitVec 13) (d a : BitVec 5) (k : BitVec 4) (sc : Scope) (c : Fin 11),
    (s.ready [] → ∃ t, exec (.nop sw) s = .next t ∧ s.passes t sw 4 1) ∧
    (s.ready [] → ∃ t, exec (.pause sw n) s = .next t ∧ t.ctx.paused = decide (n ≠ 0) ∧
      s.passes (t.modCtx fun x => { x with paused := s.ctx.paused }) sw 4 (n.toNat + 1)) ∧
    ((s.ctxAt c).paused = true → (s.ctxAt c).nextIssue ≤ s.cycle + 1 →
      exec (.pauseExpiry c) s = .next (s.modCtxAt c fun x => { x with paused := false })) ∧
    s.gives (.cntrd sw d k) [.x d] sw 4 (.x d) (wide ((s.core.counters.get k.toFin).val.setWidth 64)) 2 ∧
    (∀ (u : State) (key : Nat), s.ready [.x a] → s.ctx.icinv = none →
      (s.modCtx fun x => { x with inTaint := x.taintOf [.reg (.x a)] }).locate (s.readX a) = (u, some key) →
      (∀ m ∈ s.accs, m.ctx = s.cur → m.op.writes = true → overlaps m.key m.len (key / 64 * 64) 64 = false) →
      ∃ t, exec (.icinv sw a sc) s = .next t ∧ t.ctx.wait.isSome = true ∧ t.ctx.icinv = some (key / 64 * 64) ∧ t.ctx.pc = s.ctx.pc ∧
        .icinvCompletion s.cur ∈ t.agenda ∧ s.sameRegs t ∧ t.mem = s.mem) ∧
    (∀ line, (s.ctxAt c).icinv = some line →
      ∃ t, exec (.icinvCompletion c) s = .next t ∧ { t with ctxs := s.ctxs, icache := s.icache } = s ∧
        (t.ctxAt c).icinv = none ∧ ∀ l, l ∈ t.icache ↔ l ∈ s.icache ∧ l.1 ≠ line) ∧
    (∀ w, s.ctx.wait = some w → w.q = 1 → s.ctx.icinv = none → ∃ t, exec (.icinv sw a sc) s = .next t ∧ s.passes t sw 4 1)) ∧
  (
  (
  ∀ (s : State) (c : Fin 11) (q : Nat) (w : PendingWrite),
    w ∈ (s.ctxAt c).writes → w.seq = q → w.need = 0 → w.ready ≤ s.cycle + 1 → (∀ u ∈ (s.ctxAt c).writes, u.seq = q → u = w) →
    (∀ n, w.reg = .x n → w.val = wide (w.val.setWidth 64)) → (∀ n, w.reg = .p n → w.val = wide (w.val.setWidth 64)) →
    ∃ t, exec (.registerWritePerformed c q) s = .next t ∧ { t with ctxs := s.ctxs } = s ∧ (∀ m, m ≠ c → t.ctxAt m = s.ctxAt m) ∧
      (∀ r, r ≠ w.reg ∨ w.dead = true → (t.ctxAt c).reg r = (s.ctxAt c).reg r) ∧
      (w.dead = false → w.reg ≠ .x 0 → (t.ctxAt c).reg w.reg = w.val) ∧
      (∀ u, u ∈ (t.ctxAt c).writes ↔ ∃ v ∈ (s.ctxAt c).writes, v.seq ≠ q ∧
        u = if w.dead = false ∧ v.reg = w.reg ∧ v.seq < q then { v with dead := true } else v) ∧
      (t.ctxAt c).pc = (s.ctxAt c).pc) ∧
  (
  ∀ (s : State) (n : BitVec 4),
    ((s.core.counters.get n.toFin).ovie = false → exec (.counterOverflow n) s = .next s) ∧
    ((s.core.counters.get n.toFin).ovie = true → s.dev.trbase ≠ 0 → (s.dev.trprod - s.dev.trcons).toNat < s.dev.trCapacity →
      ∃ t, exec (.counterOverflow n) s = .next t ∧ { t with mem := s.mem, dev := s.dev } = s ∧ t.dev = { s.dev with trprod := s.dev.trprod + 1 } ∧
        let k := hbmKey (s.dev.trbase.toNat + 32 * (s.dev.trprod.toNat % s.dev.trCapacity))
        Memory.byte t.mem k = 6 ∧ Memory.read t.mem (k + 24) 8 = bytesOfNat n.toNat 8 ∧
        ∀ j, j < k ∨ k + 32 ≤ j → Memory.byte t.mem j = Memory.byte s.mem j)))

/-- R134, R137: HEND of a helper without an open packet, and END of context 0 with no live helper, no weave in progress, no residue fault to report (R344), and in superstep mode right after a closing SYNC, go on once nothing of the context is outstanding: the context
issues nothing more, and its stop is due. Until then they wait. A helper that stops is live no more; its registers and memory stay. R406, R411, R412: when context 0's END completes and the job's other cores have ended, the job completes: it runs no more, no context is live, its event is DONE, and its completion record says DONE with reason 0. -/
def Obligations.EndsEndContextsAndJobs : Prop :=
  (
  ∀ (s : State) (sw : Bool) (c : Fin 11),
    let ends (j e : Instr) : Prop := ∃ t, exec j s = .next t ∧ { t with ctxs := s.ctxs, agenda := s.agenda } = s ∧
      { t.ctx with ending := s.ctx.ending, wait := s.ctx.wait, inTaint := s.ctx.inTaint } = s.ctx ∧ (∀ m, m ≠ s.cur → t.ctxAt m = s.ctxAt m) ∧
      t.ctx.ending = true ∧ t.ctx.wait = none ∧ t.agenda = s.agenda ++ [e]
    (s.ready [] → s.cur ≠ 0 → s.ctx.send.sst ≠ 2 → s.residueHere = none → s.endWaits = false → ends (.hend sw) (.helperStops s.cur)) ∧
    (s.ready [] → s.cur ≠ 0 → s.ctx.send.sst ≠ 2 → s.residueHere = none → s.endWaits = true → ∃ t, exec (.hend sw) s = .next t ∧ s.waits t) ∧
    (s.ready [] → s.cur = 0 → s.ctx.atLoopEnd 4 = false → s.anyHelperLive = false → (s.job.superstep = true → s.ctx.afterSync = true) →
      s.core.loom.running = false → s.loomArmed = false → s.job.redun = false → s.residueHere = none → s.endWaits = false →
      ends (.endCore sw) .coreFree) ∧
    (s.ready [] → s.cur = 0 → s.ctx.atLoopEnd 4 = false → s.anyHelperLive = true ∨ s.core.loom.running = true ∨ s.loomArmed = true → (s.job.superstep = true → s.ctx.afterSync = true) →
      ∃ t, exec (.endCore sw) s = .next t ∧ s.waits t) ∧
    ((s.ctxAt c).ending = true → (s.ctxAt c).takeOrder = [] →
      ∃ t, exec (.helperStops c) s = .next t ∧ (t.ctxAt c).live = false ∧ (t.ctxAt c).ending = false ∧ (∀ m r, (t.ctxAt m).reg r = (s.ctxAt m).reg r) ∧
        (∀ m, m ≠ c → (t.ctxAt m).live = (s.ctxAt m).live ∧ (t.ctxAt m).pc = (s.ctxAt m).pc) ∧ t.mem = s.mem ∧ t.job = s.job ∧ t.dev = s.dev)) ∧
  (
  ∀ (s : State),
    (s.ctxAt 0).ending = true → s.endShare.othersEnded = true → s.dev.hostLink = true →
    ∃ t, exec .coreFree s = .next t ∧ t.job.running = false ∧ (∀ c, (t.ctxAt c).live = false) ∧
      (s.job.evt ≠ 0 → Sparse.get EventState.done t.dev.events s.job.evt.toNat = .done) ∧
      Memory.byte t.mem (complKey s.job.compl + 7) = 1 ∧ Memory.byte t.mem (complKey s.job.compl + 6) = 0 ∧
      ∀ i < 4, Memory.byte t.mem (complKey s.job.compl + i) = BitVec.ofNat 8 (s.job.jobid.toNat / 256 ^ i))

/-! ## Vector instructions and the interpolator (R165 to R183) -/

/-- R165, R166, R172: in integer types each active lane of vD takes the lane result of R172, and an inactive lane keeps its value; the sources are read before vD is written, the prefix names no stream, and nothing else changes. -/
def Obligations.VectorIntegerLanesGiveTheirResult : Prop :=
  ∀ (s : State) (sw : Bool) (d a b : BitVec 5) (t : IntTy) (m : BitVec 3) (x : Option VExt),
    (∀ e, x = some e → e.ds = false ∧ e.as = false ∧ e.bs = false) →
    let w := t.width
    let size := if x.isSome then 8 else 4
    let v : Variant := if x.any (·.sat) then .sat else .wrap
    let A (i : Nat) := lane (s.readV a) w i
    let B (i : Nat) := lane (s.readV b) w i
    let lanes (j : Instr) (lat : Nat) (f : Nat → Int) : Prop := ∃ V : Vec,
      (∀ i < 512 / w, lane V w i =
        if m = 0 ∨ (s.readP m).getLsbD i = true then (f i % (2 : Int) ^ w).toNat else lane (s.readV d) w i) ∧
      s.gives j [.v a, .v b, .v d, .p m] sw size (.v d) V lat
    lanes (.vadd sw d a b (.int t) m x) 2 (fun i => narrowInt t v (extInt t (A i) + extInt t (B i))) ∧
    lanes (.vsub sw d a b (.int t) m x) 2 (fun i => narrowInt t v (extInt t (A i) - extInt t (B i))) ∧
    lanes (.vmul sw d a b (.int t) m x) 4 (fun i => narrowInt t v (extInt t (A i) * extInt t (B i))) ∧
    lanes (.vabs sw d a (.int t) m x) 2 (fun i => narrowInt t v |extInt t (A i)|) ∧
    lanes (.vmin sw d a b (.int t) m x) 2 (fun i => min (extInt t (A i)) (extInt t (B i))) ∧
    lanes (.vmax sw d a b (.int t) m x) 2 (fun i => max (extInt t (A i)) (extInt t (B i))) ∧
    lanes (.vand sw d a b t m x) 2 (fun i => (A i &&& B i : Nat)) ∧
    lanes (.vor sw d a b t m x) 2 (fun i => (A i ||| B i : Nat)) ∧
    lanes (.vxor sw d a b t m x) 2 (fun i => (A i ^^^ B i : Nat)) ∧
    lanes (.vshl sw d a b t m x) 2 (fun i => (A i * 2 ^ (B i % 64) : Nat)) ∧
    lanes (.vshr sw d a b t m x) 2 (fun i => extInt t (A i) / (2 : Int) ^ (B i % 64))

/-- R171, R179: in float types each active lane of vD takes the exact result rounded once to the lane's format, and an inactive lane keeps its value; VMIN and VMAX order −0 below +0 and give a NaN for a NaN; nothing else
changes. R84, R91, R92: rounding the value of an encoding that is no NaN gives the encoding back, in every format; rounding a NaN gives the format's NaN code; and a finite magnitude above the largest becomes infinity, or the largest value in a format
without infinities. -/
def Obligations.VectorFloatLanesRoundOnceAndKeepWhatFits : Prop :=
  (
  ∀ (s : State) (sw : Bool) (d a b : BitVec 5) (t : FloatTy) (m : BitVec 3) (x : Option VExt),
    (∀ e, x = some e → e.ds = false ∧ e.as = false ∧ e.bs = false) →
    let w := (LaneTy.float t).width
    let F := FFmt.ofFloat t
    let size := if x.isSome then 8 else 4
    let A (i : Nat) := F.value (lane (s.readV a) w i)
    let B (i : Nat) := F.value (lane (s.readV b) w i)
    let C (i : Nat) := F.value (lane (s.readV d) w i)
    let lanes (j : Instr) (lat : Nat) (f : Nat → Val) : Prop := ∃ V : Vec,
      (∀ i < 512 / w, lane V w i =
        if m = 0 ∨ (s.readP m).getLsbD i = true then F.round (f i) % 2 ^ w else lane (s.readV d) w i) ∧
      s.gives j [.v a, .v b, .v d, .p m] sw size (.v d) V lat
    lanes (.vadd sw d a b (.float t) m x) 4 (fun i => (A i).add (B i)) ∧
    lanes (.vsub sw d a b (.float t) m x) 4 (fun i => (A i).add (B i).neg) ∧
    lanes (.vmul sw d a b (.float t) m x) 4 (fun i => (A i).mul (B i)) ∧
    lanes (.vfma sw d a b t m x) 4 (fun i => ((A i).mul (B i)).add (C i)) ∧
    lanes (.vmin sw d a b (.float t) m x) 2 (fun i => (A i).min (B i)) ∧
    lanes (.vmax sw d a b (.float t) m x) 2 (fun i => (A i).max (B i)) ∧
    lanes (.vabs sw d a (.float t) m x) 2 (fun i => (A i).abs) ∧
    lanes (.vrcp sw d a t m x) 10 (fun i => (A i).rcp) ∧
    lanes (.vrsq sw d a t m x) 10 (fun i => (A i).rsq)) ∧
  (
  ∀ f ∈ [fmtF32, fmtBf16, fmtF16, fmtE4m3, fmtE5m2, fmtE3m2, fmtE2m3, fmtE2m1],
    (∀ b, b < 2 * f.signBit → f.value b ≠ .nan → f.round (f.value b) = b) ∧
    f.round .nan = f.nanCode ∧
    (∀ (neg : Bool) (k : Nat), f.round (.num neg 1 ((2 ^ f.ebits : Nat) + (k : Int))) =
      (if neg then f.signBit else 0) + (if f.inf then f.infCode else f.maxCode)) ∧
    ∀ b < 2 * f.signBit, f.round (f.value b) < 2 * f.signBit)

/-- R173 to R176: VCMP writes the condition of each lane and no other bit of pD; VSEL, VSHUF, VPERM, VBCAST and VMOVX move lanes as R174 to R176 say; nothing else changes. R177, R178: VRED combines the active lanes in ascending order, an integer sum exactly, and gives the operation's identity when no lane is active; VCVT writes each element that it converts, and where it narrows keeps the rest of vD; nothing else changes. -/
def Obligations.VectorsCompareRearrangeReduceAndConvert : Prop :=
  (
  ∀ (s : State) (sw : Bool) (d a b : BitVec 5) (t : LaneTy) (it : IntTy) (c : Cond) (p m : BitVec 3) (x : Option VExt),
    (∀ e, x = some e → e.ds = false ∧ e.as = false ∧ e.bs = false) →
    let size := if x.isSome then 8 else 4
    let w := t.width
    let n := 512 / w
    let A := lane (s.readV a) w
    let B := lane (s.readV b) w
    let rs : List Reg := [.v a, .v b, .v d, .p m, .p p, .x a, .x b, .x d]
    let gives (j : Instr) (lat : Nat) (w : Nat) (f : Nat → Nat) : Prop :=
      ∃ V : Vec, (∀ i < 512 / w, lane V w i = f i) ∧ s.gives j rs sw size (.v d) V lat
    let holds (i : Nat) : Prop := match t with
      | .int t => match c with
        | .eq => extInt t (A i) = extInt t (B i) | .ne => extInt t (A i) ≠ extInt t (B i) | .lt => extInt t (A i) < extInt t (B i)
        | .le => extInt t (A i) ≤ extInt t (B i) | .gt => extInt t (A i) > extInt t (B i) | .ge => extInt t (A i) ≥ extInt t (B i)
      | .float t => condVal c ((FFmt.ofFloat t).value (A i)) ((FFmt.ofFloat t).value (B i)) = true
    (∃ P : Word, (∀ i < 64, P.getLsbD i = true ↔ if i < n then holds i else (s.readP p).getLsbD i = true) ∧
      s.gives (.vcmp sw p a b t c x) rs sw size (.p p) (wide P) 2) ∧
    gives (.vsel sw d a b t p x) 2 w (fun i => if (s.readP p).getLsbD i then A i else B i) ∧
    gives (.vshuf sw d a b (.lane t) .lo x) 3 w (fun i => if i % 2 = 0 then A (i / 2) else B (i / 2)) ∧
    gives (.vshuf sw d a b (.lane t) .hi x) 3 w (fun i => if i % 2 = 0 then A (n / 2 + i / 2) else B (n / 2 + i / 2)) ∧
    gives (.vshuf sw d a b (.lane t) .even x) 3 w (fun i => if i < n / 2 then A (2 * i) else B (2 * (i - n / 2))) ∧
    gives (.vshuf sw d a b (.lane t) .odd x) 3 w (fun i => if i < n / 2 then A (2 * i + 1) else B (2 * (i - n / 2) + 1)) ∧
    gives (.vshuf sw d a b (.lane t) .rev x) 3 w (fun i => A (n - 1 - i)) ∧
    gives (.vshuf sw d a b .e3m2 .up6 x) 3 8 (fun i => lane (s.readV a) 6 i) ∧
    (∃ V : Vec, (∀ i < 64, lane V 6 i = lane (s.readV a) 8 i % 64) ∧ natBits V.toNat 511 384 = 0 ∧
      s.gives (.vshuf sw d a b .e3m2 .pk6 x) rs sw size (.v d) V 3) ∧
    gives (.vperm sw d a b it m x) 3 it.width (fun i =>
      if m = 0 ∨ (s.readP m).getLsbD i = true then lane (s.readV a) it.width (lane (s.readV b) it.width i % (512 / it.width))
      else lane (s.readV d) it.width i) ∧
    gives (.vbcast sw d a t m x) 2 w (fun i =>
      if m = 0 ∨ (s.readP m).getLsbD i = true then (s.readX a).toNat % 2 ^ w else lane (s.readV d) w i) ∧
    gives (.vmovxInsert sw d a b t x) 2 w (fun i =>
      if i = (s.readX b).toNat % n then (s.readX a).toNat % 2 ^ w else lane (s.readV d) w i) ∧
    (∃ v : Word, (∀ i < 64, v.getLsbD i = if i < w then (A ((s.readX b).toNat % n)).testBit i else
        (match t with | .int t => t.signed | .float _ => false) && (A ((s.readX b).toNat % n)).testBit (w - 1)) ∧
      s.gives (.vmovxExtract sw d a b t x) rs sw size (.x d) (wide v) 2)) ∧
  (
  ∀ (s : State) (sw : Bool) (d a : BitVec 5) (op : RedOp) (t : LaneTy) (it : IntTy) (m k : BitVec 3) (src dst : Ty) (x : Option VExt),
    (∀ e, x = some e → e.ds = false ∧ e.as = false ∧ e.bs = false) →
    let size := if x.isSome then 8 else 4
    let act (w : Nat) : List Nat := (List.range (512 / w)).filter fun i => decide (m = 0) || (s.readP m).getLsbD i
    let c := 512 / max src.cvtWidth dst.cvtWidth
    s.gives (.vred sw d a .add (.int it) m x) [.v a, .p m, .x d] sw size (.x d)
      (wide (BitVec.ofInt 64 ((act it.width).map fun i => extInt it (lane (s.readV a) it.width i)).sum)) 20 ∧
    (act it.width = [] → ∀ y : Int, (op = .min ∧ y = hiInt it) ∨ (op = .max ∧ y = loInt it) ∨ (op = .and ∧ y = extInt it (2 ^ it.width - 1)) ∨ (op = .or ∧ y = 0) ∨ (op = .xor ∧ y = 0) →
      s.gives (.vred sw d a op (.int it) m x) [.v a, .p m, .x d] sw size (.x d) (wide (BitVec.ofInt 64 y)) 20) ∧
    (∀ y : Int, act it.width ≠ [] → y ∈ (act it.width).map (fun i => extInt it (lane (s.readV a) it.width i)) →
      (∀ i ∈ act it.width, y ≤ extInt it (lane (s.readV a) it.width i)) →
      s.gives (.vred sw d a .min (.int it) m x) [.v a, .p m, .x d] sw size (.x d) (wide (BitVec.ofInt 64 y)) 20) ∧
    s.gives (.vred sw d a op t m x) [.v a, .p m, .x d] sw size (.x d) (wide (reduceWord op t ((act t.width).map (lane (s.readV a) t.width)))) 20 ∧
    (∃ V : Vec, s.gives (.vcvt sw d a src dst k x) [.v a, .v d] sw size (.v d) V 3 ∧
      ∀ i < 512 / dst.cvtWidth, lane V dst.cvtWidth i =
        if dst.cvtWidth < src.cvtWidth then
          (if c * k.toNat ≤ i ∧ i < c * k.toNat + c then
            elemRound dst (elemValue src (lane (s.readV a) src.cvtWidth (i - c * k.toNat))) % 2 ^ dst.cvtWidth
          else lane (s.readV d) dst.cvtWidth i)
        else elemRound dst (elemValue src (lane (s.readV a) src.cvtWidth
          (i + if src.cvtWidth < dst.cvtWidth then c * k.toNat else 0))) % 2 ^ dst.cvtWidth))

/-- R168: a vector instruction whose field A names a read stream, bound and of the lanes' width, takes its next elements once they have been fetched, reads the lanes past its end as 0, and advances it; until they are fetched it does not issue (R17), and nothing changes; one that names a stream that cannot be read takes the illegal-operation trap and advances none. Stated of VADD. -/
def Obligations.StreamsFeedVectorInstructions : Prop :=
  ∀ (s : State) (sw : Bool) (d b : BitVec 5) (t : IntTy) (k : BitVec 2),
    let x : Option VExt := some { sat := false, ds := false, dsn := 0, as := true, asn := k, bs := false, bsn := 0 }
    let w := t.width
    let q := s.core.streams.get k.toFin
    let n := 512 / w
    let ok : Prop := q.bnd = true ∧ q.wr = false ∧ q.ty.width = w ∧ 0 < q.remain
    (ok → q.has 0 n s.cycle = false → exec (.vadd sw d 0 b (.int t) 0 x) s = .next s) ∧
    (ok → s.ready [.v b, .v d] → q.has 0 n s.cycle = true →
      ∃ t' V, exec (.vadd sw d 0 b (.int t) 0 x) s = .next t' ∧ t'.mem = s.mem ∧ s.goesOn t' sw 8 1 ∧ s.lands t' (.v d) V 2 ∧
        t'.core.streams.get k.toFin = { q with remain := q.remain - min n q.remain, fetched := q.fetched.drop (min n q.remain) } ∧
        (∀ j, j ≠ k.toFin → t'.core.streams.get j = s.core.streams.get j) ∧
        ∀ i < n, lane V w i = (narrowInt t .wrap
          (extInt t (if i < min n q.remain then ((q.fetched? i).getD 0).toNat else 0)
            + extInt t (lane (s.readV b) w i)) % (2 : Int) ^ w).toNat) ∧
    (¬ ok → s.ready [.v b, .v d] → s.ctx.trappable →
      ∃ t', exec (.vadd sw d 0 b (.int t) 0 x) s = .next t' ∧ t'.core = s.core ∧
        s.ctx.entered t'.ctx (TrapInfo.at s.ctx.pc 0x02 0 0) s.job.trapvec)

/-- R181 to R183: VTBLD of an aligned, valid table in its own scratchpad replaces the slot whole, and no other; VINTERP evaluates each active lane on its slot's table, with one rounding in the segment that R182 names; on an empty slot it takes the illegal-operation
trap. -/
def Obligations.TablesLoadAndInterpolate : Prop :=
  ∀ (s : State) (sw : Bool) (d a : BitVec 5) (n : BitVec 2) (m : BitVec 3),
    (∀ bs, let off := (s.readX a).toNat
      let key := scratchKey s.core.num.toNat off
      let size := 32 + 12 * fieldAt (Memory.read s.mem key 32) 6 2
      s.ready [.x a] → off % 4 = 0 → off + size ≤ 0x80000 → (∀ c ∈ s.job.claims, overlaps off size c.off c.bytes = false) →
      s.accs = [] → s.bad = [] → (∀ q ∈ s.core.chans.toList, q.cmds = []) →
      bs = Memory.read s.mem key size → badTable (Memory.read s.mem key 32) = false →
      ∃ t, exec (.vtbld sw n a) s = .next t ∧ s.sameRegs t ∧ s.goesOn t sw 4 1 ∧ t.mem = s.mem ∧
        t.core = { s.core with tabs := t.core.tabs } ∧ t.core.tabs.get n.toFin = some (tableOf bs) ∧
        ∀ k, k ≠ n.toFin → t.core.tabs.get k = s.core.tabs.get k) ∧
    (∀ tb, s.core.tabs.get n.toFin = some tb → ∃ V : Vec,
      (∀ i < 16, lane V 32 i =
        if m = 0 ∨ (s.readP m).getLsbD i = true then tb.eval (lane (s.readV a) 32 i) % 2 ^ 32 else lane (s.readV d) 32 i) ∧
      s.gives (.vinterp sw d a n m none) [.v a, .v d, .p m] sw 4 (.v d) V 8) ∧
    (s.core.tabs.get n.toFin = none → s.ready [.v a, .v d, .p m] → s.ctx.trappable →
      ∃ t, exec (.vinterp sw d a n m none) s = .next t ∧ s.ctx.entered t.ctx (TrapInfo.at s.ctx.pc 0x02 0 0) s.job.trapvec)

/-! ## Memory accesses and translation (R187 to R211, R302 to R304) -/

/-- R25, R26, R28, R196, R431: an access to a local-window run goes to the own scratchpad's byte at that offset. A misaligned one fails with DETAIL 3, one to an unassigned region with DETAIL 1, one to a core outside the job with DETAIL 5; in superstep mode
every access outside the own scratchpad fails with a phase violation, and one that touches a claimed area with a claimed-area fault. R198 to R204: a translated load whose address no TLB holds walks the job's page table; a valid leaf at the level where the walk ends gives the page's frame and is cached in every TLB, and the access goes there when RD is 1; with RD = 0 it fails with the permission fault,
and where an entry is not valid it fails with the translation fault that names the level. A cached leaf gives its frame without a walk. -/
def Obligations.AccessesAreCheckedAndTranslated : Prop :=
  (
  ∀ (s : State) (acc : Access) (a : Word) (n : Nat) (x : Bool), (n = 1 ∨ n = 2 ∨ n = 4 ∨ n = 8 ∨ n = 64) →
    (acc = .load ∨ acc = .store ∨ ∃ h, acc = .rmw h) →
    let fails (cause : BitVec 8) (detail : BitVec 32) : Prop :=
      s.check acc a n n x = (s, .error { cause, detail, addr := a }, 1)
    (s.localRun a n → s.check acc a n n x =
      (s, .ok { key := scratchKey s.core.num.toNat a.toNat, core := some s.core.num, leaf := none, page := (0, 0) }, 1)) ∧
    (a.toNat % n ≠ 0 → fails 0x03 3) ∧
    (a.toNat % n = 0 → 0x80000 ≤ a.toNat → a.toNat < 0x1000000 → fails 0x03 1) ∧
    (a.toNat % n = 0 → 0x2000000 ≤ a.toNat → a.toNat < 0x100000000 → fails 0x03 1) ∧
    (a.toNat % n = 0 → 0x1000000000000 ≤ a.toNat → fails 0x03 1) ∧
    (a.toNat % n = 0 → a.toNat < 0x80000 → (∃ c ∈ s.job.claims, overlaps a.toNat n c.off c.bytes = true) → fails 0x06 0) ∧
    (∀ p < 32, ∀ off, a.toNat = 0x1000000 + p * 0x80000 + off → off < 0x80000 → off % n = 0 → s.clusterCore p ≠ s.core.num →
      (s.clusterCore p ∉ s.job.cores → fails 0x03 5) ∧
      (s.clusterCore p ∈ s.job.cores → s.job.superstep = true → fails 0x07 0) ∧
      (s.clusterCore p ∈ s.job.cores → s.job.superstep = false → (∀ c ∈ s.job.claims, overlaps off n c.off c.bytes = false) →
        s.check acc a n n x = (s, .ok { key := scratchKey (s.clusterCore p).toNat off, core := some (s.clusterCore p), leaf := none, page := (0, 0) }, 1))) ∧
    (a.toNat % n = 0 → 0x100000000 ≤ a.toNat → a.toNat < 0x1000000000000 → s.job.superstep = true → fails 0x07 0)) ∧
  (
  ∀ (s : State) (a : Word) (n : Nat) (x : Bool), (n = 1 ∨ n = 2 ∨ n = 4 ∨ n = 8 ∨ n = 64) →
    a.toNat % n = 0 → 0x100000000 ≤ a.toNat → a.toNat < 0x1000000000000 → s.job.superstep = false →
    (∀ e, tlbFind s.micro a.toNat = some e → s.targetAbsent e.leaf = false → e.leaf.getLsbD 48 = true →
      s.check .load a n n x =
        (s, .ok { key := leafKey s.die e.leaf e.level a.toNat, core := none, leaf := some e.leaf, page := (e.va, pageBytes e.level) }, 0)) ∧
    (tlbFind s.micro a.toNat = none → tlbFind s.clutlb a.toNat = none → tlbFind s.lasttlb a.toNat = none →
      (∀ level w, walkFrom s.mem a.toNat 3 s.job.root.toNat = .leaf level w → s.targetAbsent w = false →
        ∃ t h, t.mem = s.mem ∧ t.ctxs = s.ctxs ∧ t.accs = s.accs ∧
          ((s.check .load a n n x = (t, .ok { key := leafKey s.die w level a.toNat, core := none, leaf := some w, page := (a.toNat / pageBytes level * pageBytes level, pageBytes level) }, h) ∧ w.getLsbD 48 = true) ∨
            (s.check .load a n n x = (t, .error { cause := 0x05, detail := 0, addr := a }, h) ∧ w.getLsbD 48 = false)) ∧
          ∀ l ∈ [t.micro, t.clutlb, t.lasttlb], ({ va := a.toNat / pageBytes level * pageBytes level, level, leaf := w } : TlbEntry) ∈ l) ∧
      (∀ level reason, walkFrom s.mem a.toNat 3 s.job.root.toNat = .fault level reason →
        ∃ t h, s.check .load a n n x = (t, .error { cause := 0x04, detail := BitVec.ofNat 32 (level + reason * 16), addr := a }, h) ∧
          t.mem = s.mem ∧ t.ctxs = s.ctxs ∧ t.micro = s.micro)) ∧
    (∀ m table, (tableEntry m table a.toNat 3).getLsbD 0 = false → walkFrom m a.toNat 3 table = .fault 3 0))

/-- R189 to R192: LD, LDC, VLDB and VLD whose address passes its checks send their accesses to it: one, or for VLD one for each of its eight words, and the destination waits for what they bring. An acquire holds the later accesses of its scope until it has read, and LDC's destination carries its taint. Memory, and every other register, stay as they are. -/
def Obligations.LoadsSendTheirAccesses : Prop :=
  ∀ (s u : State) (sw : Bool) (d a b : BitVec 5) (w : LdWidth) (m : MemWidth) (c : Scope) (o : Bool) (k : BitVec 2) (e : Ext) (p : Place) (h : Nat),
    let size := if e.isSome then 8 else 4
    let A := s.address a b k e
    let goes (n : Nat) : Prop := s.ready [.x a, .x b, .x d, .v d] ∧ (s.issued [.x a, .x b]).check .load A n n s.exchange = (u, .ok p, h)
    let sends (t : State) (n i : Nat) (key : Nat) (f : LoadForm) : Prop := ∃ x ∈ t.accs, x.seq = s.seq + 1 + i ∧ x.ctx = s.cur ∧
      x.key = key ∧ x.len = n ∧ x.op = .load f s.seq ∧ x.iaddr = s.ctx.pc ∧ x.caddr = A + BitVec.ofNat 64 (8 * i)
    let one (j : Instr) (r : Reg) (n : Nat) (f : LoadForm) : Prop := goes n →
      ∃ t, exec j s = .next t ∧ s.awaits t r 0 1 ∧ s.goesOn t sw size h ∧ t.mem = s.mem ∧ sends t n 0 p.key f ∧ t.accs.length = s.accs.length + 1 ∧
        (∀ x ∈ s.accs, x ∈ t.accs)
    one (.ld sw d a b w c o k e) (.x d) (ldBytes w) (.scalar w) ∧
    one (.ldc sw d a b w k e) (.x d) (ldBytes w) (.scalar w) ∧
    one (.vldb sw d a b m k e) (.v d) (memBytes m) (.broadcast m) ∧
    (goes 64 → ∃ t, exec (.vld sw d a b c o k e) s = .next t ∧ s.awaits t (.v d) 0 8 ∧ s.goesOn t sw size h ∧ t.mem = s.mem ∧
      (∀ i < 8, sends t 8 i (p.key + 8 * i) (.lane i 64)) ∧ t.accs.length = s.accs.length + 8 ∧ ∀ x ∈ s.accs, x ∈ t.accs) ∧
    (goes (ldBytes w) → ∀ t, exec (.ld sw d a b w c true k e) s = .next t → ⟨s.seq + 1, c, true⟩ ∈ t.ctx.order) ∧
    (goes (ldBytes w) → d ≠ 0 → ∀ t, exec (.ldc sw d a b w k e) s = .next t → (.reg (.x d), s.seq + 1) ∈ t.ctx.taints)

/-- R189, R191: ST and VST whose address passes its checks send their bytes to it: the low bytes of xD, or the eight words of vD. A release waits for every earlier access of its context in its scope. No register changes, and memory does not until the access is performed. -/
def Obligations.StoresSendTheirBytes : Prop :=
  ∀ (s u : State) (sw : Bool) (d a b : BitVec 5) (w : MemWidth) (c : Scope) (o : Bool) (k : BitVec 2) (e : Ext) (p : Place) (h : Nat),
    let size := if e.isSome then 8 else 4
    let A := s.address a b k e
    let goes (n : Nat) : Prop := s.ready [.x a, .x b, .x d, .v d] ∧ (s.issued [.x a, .x b, .x d]).check .store A n n s.exchange = (u, .ok p, h)
    let goesV (n : Nat) : Prop := s.ready [.x a, .x b, .x d, .v d] ∧ (s.issued [.x a, .x b, .v d]).check .store A n n s.exchange = (u, .ok p, h)
    let sends (t : State) (n i key : Nat) (bs : List Byte) : Prop := ∃ x ∈ t.accs, x.seq = s.seq + i ∧ x.ctx = s.cur ∧ x.key = key ∧ x.len = n ∧
      x.op = .store bs ∧ x.iaddr = s.ctx.pc ∧
      (o = true → ∀ y ∈ s.accs, y.ctx = s.cur → s.within c y.key = true → (∀ g, y.op ≠ .tagged g) → (∀ g v r, y.op ≠ .arrive g v r) →
        (∀ g v r, y.op ≠ .swatch g v r) → y.seq ∈ x.after)
    (goes (memBytes w) → ∃ t, exec (.st sw d a b w c o k e) s = .next t ∧ s.sameRegs t ∧ s.goesOn t sw size h ∧ t.mem = s.mem ∧
      sends t (memBytes w) 0 p.key (bytesOfNat (s.readX d).toNat (memBytes w)) ∧ t.accs.length = s.accs.length + 1 ∧ ∀ x ∈ s.accs, x ∈ t.accs) ∧
    (goesV 64 → ∃ t, exec (.vst sw d a b c o k e) s = .next t ∧ s.sameRegs t ∧ s.goesOn t sw size h ∧ t.mem = s.mem ∧
      (∀ i < 8, sends t 8 i (p.key + 8 * i) (bytesOfNat (lane (s.readV d) 64 i) 8)) ∧ t.accs.length = s.accs.length + 8 ∧
      ∀ x ∈ s.accs, x ∈ t.accs)

/-- R193: VGTH and VSCT whose active lanes all pass their checks send one access for each, at xA plus its lane of vB scaled; the gathered lanes are written together. Where a lane fails, the fault of the lowest failing lane is taken by either instruction, and nothing is sent: the context enters its handler at once, or, where the check takes h cycles, holds the trap until they have passed. -/
def Obligations.GatherAndScatterSendEveryActiveLane : Prop :=
  ∀ (s u : State) (sw : Bool) (d a b : BitVec 5) (w : MemWidth) (m : BitVec 3) (k : BitVec 2) (ps : List (Nat × Place)) (h : Nat),
    let n := memBytes w
    let lanes := (List.range (512 / memBits w)).filter fun i => decide (m = 0) || (s.readP m).getLsbD i
    let at_ (i : Nat) : Word := s.readX a + BitVec.ofNat 64 (lane (s.readV b) (memBits w) i) <<< k.toNat
    let rs := [Reg.x a, .v b] ++ maskRegs m
    let gs := rs ++ if m = 0 then [] else [Reg.v d]
    let fails (i : Instr) (f : AccessFault) : Prop := s.ctx.trappable →
      ∃ t, exec i s = .next t ∧ t.accs = s.accs ∧ s.failed t f h
    s.ready (gs ++ [.v d]) →
      (State.checkLanes .load n at_ lanes (s.issued gs) = (u, .ok ps, h) →
        ∃ t, exec (.vgth sw d a b w m k) s = .next t ∧ s.awaits t (.v d) (s.readV d) ps.length ∧ s.goesOn t sw 4 h ∧ t.mem = s.mem ∧
          ps.map (·.1) = lanes ∧ t.accs.length = s.accs.length + ps.length ∧
          ∀ i p, (i, p) ∈ ps → ∃ x ∈ t.accs, x.key = p.key ∧ x.len = n ∧ x.op = .load (.lane i (memBits w)) s.seq ∧ x.ctx = s.cur ∧ x.caddr = at_ i) ∧
      (State.checkLanes .store n at_ lanes (s.issued (rs ++ [.v d])) = (u, .ok ps, h) →
        ∃ t, exec (.vsct sw d a b w m k) s = .next t ∧ s.sameRegs t ∧ s.goesOn t sw 4 h ∧ t.mem = s.mem ∧
          ps.map (·.1) = lanes ∧ t.accs.length = s.accs.length + ps.length ∧
          ∀ i p, (i, p) ∈ ps → ∃ x ∈ t.accs, x.key = p.key ∧ x.len = n ∧
            x.op = .store (bytesOfNat (lane (s.readV d) (memBits w) i) n) ∧ x.ctx = s.cur ∧ x.caddr = at_ i) ∧
      (∀ f, State.checkLanes .load n at_ lanes (s.issued gs) = (u, .error f, h) → fails (.vgth sw d a b w m k) f) ∧
      (∀ f, State.checkLanes .store n at_ lanes (s.issued (rs ++ [.v d])) = (u, .error f, h) → fails (.vsct sw d a b w m k) f)

/-- R302, R304: an outstanding access that nothing holds back is performed at its home: a store's bytes are in memory and no other byte has changed; a load's value, read under its own context's earlier stores, comes into the write that waits for it and memory stays. The access is outstanding no more. R304: a load right after a store of the same context to the same place reads what was stored, even before the store is performed. -/
def Obligations.AccessesArePerformedAtTheirHome : Prop :=
  (
  ∀ (s : State) (a : Acc),
    a ∈ s.accs → (∀ y ∈ s.accs, y.seq = a.seq → y = a) → s.canPerform a = true → s.answersRetry a = false → (∀ y ∈ s.accs, y.inst = a.inst → y = a) →
    (∀ c, (s.ctxAt c).badLanes = []) →
    (∀ bs, a.op = .store bs → s.unhashed → s.core.snapshot = none →
      ∃ t, exec (.accessPerformed a.seq) s = .next t ∧ (∀ y, y ∈ t.accs ↔ ∃ x ∈ s.accs, x.seq ≠ a.seq ∧ y = { x with held := false }) ∧
        (∀ k, Memory.byte t.mem k = if a.key ≤ k ∧ k < a.key + bs.length then bs.getD (k - a.key) 0 else Memory.byte s.mem k) ∧
        ∀ c r, (t.ctxAt c).reg r = (s.ctxAt c).reg r) ∧
    (∀ f q, a.op = .load f q → s.badAt a.key a.len = none →
      ∃ t, exec (.accessPerformed a.seq) s = .next t ∧ (∀ y ∈ t.accs, y.seq ≠ a.seq) ∧ t.mem = s.mem ∧
        (∀ c r, (t.ctxAt c).reg r = (s.ctxAt c).reg r) ∧
        (t.ctxAt a.ctx).writes = (s.ctxAt a.ctx).writes.map fun w =>
          if w.seq = q then { w with val := f.into (s.seenBy a.ctx a.seq a.key a.len) w.val, need := w.need - 1 } else w)) ∧
  (
  ∀ (s : State) (bs : List Byte) (x : Acc) (key : Nat),
    s.accs = [x] → x.op = .store bs → x.ctx = s.cur → x.seq < s.seq → x.key = key → bs.length = x.len →
    s.seen s.cur key bs.length = bs ∧
    (∀ n, n ≠ s.cur → s.seen n key bs.length = Memory.read s.mem key bs.length))

/-- R2, R47, R189, R302: a word loaded from the own scratchpad, with no access or write outstanding, comes to its register once its access and its write are performed: the little-endian bytes at the address, extended as the width says. No other register and no byte of memory changes. -/
def Obligations.LoadsBringTheBytesOfTheirAddress : Prop :=
  ∀ (s : State) (sw : Bool) (d a b : BitVec 5) (w : LdWidth) (c : Scope) (o : Bool) (k : BitVec 2) (e : Ext),
    let A := s.address a b k e
    s.ready [.x a, .x b, .x d] → d ≠ 0 → s.localRun A (ldBytes w) → s.accs = [] → s.ctx.writes = [] → s.ctx.order = [] → s.ctx.taints = [] →
    s.bad = [] → s.clu.saving = [] → (∀ q ∈ s.core.chans.toList, q.cmds = []) → (∀ n, (s.ctxAt n).badLanes = []) →
    ∃ t u v, exec (.ld sw d a b w c o k e) s = .next t ∧ exec (.accessPerformed (s.seq + 1)) t = .next u ∧
      exec (.registerWritePerformed s.cur s.seq) u = .next v ∧
      v.ctx.reg (.x d) = wide (loadWord w (Memory.read s.mem (scratchKey s.core.num.toNat A.toNat) (ldBytes w))) ∧
      (∀ r, r ≠ .x d → v.ctx.reg r = s.ctx.reg r) ∧ v.ctx.writes = [] ∧ v.accs = [] ∧ v.mem = s.mem

/-- R194, R195, R205 to R207, R211: PREF starts a translation, and its context goes on after the translation's time, whatever it finds (R212; log 54); FLUSH of an address that passes, a claimed area too (log 63), waits while a store or atomic of its context to the line is outstanding in its scope, and else goes on; TLBPRB gives the leaf that an access would use; TLBINV, granted map control, is taken up, drops the matching entries of its scope's TLBs once what it waits for is done, and completes no earlier than 8, 40 or 400 cycles after (R212); TLBWAIT goes on once none is outstanding; RGNQ gives a region's entry, and takes the illegal-operation trap above 255. R197, R200: a walk event of a running job leaves registers and memory as they are, and puts a valid leaf into the TLBs; a deferred uncorrectable error of a live context becomes due at its next boundary, with cause 0x18, DETAIL[0] = 1, NEXT = 1 and the address of its data. -/
def Obligations.TranslationIsProbedWalkedAndInvalidated : Prop :=
  (
  ∀ (s : State) (sw : Bool) (d a b : BitVec 5) (c : Scope) (k : BitVec 2) (e : Ext),
    let size := if e.isSome then 8 else 4
    let A := s.address a b k e
    (∀ u r h, s.ready [.x a, .x b] → (s.issued [.x a, .x b]).check .locate A 1 1 s.exchange = (u, r, h) →
      ∃ t, exec (.pref sw a b k e) s = .next t ∧ t.agenda = s.agenda ++ [.walk A] ∧ s.sameRegs t ∧ s.goesOn t sw size h ∧
        t = { s.setCtx t.ctx with agenda := t.agenda }) ∧
    (∀ u p h, s.ready [.x a, .x b] → (s.issued [.x a, .x b]).check .flush A 1 1 s.exchange = (u, .ok p, h) →
      let waits : Prop := ∃ y ∈ s.accs, y.ctx = s.cur ∧ y.op.writes = true ∧ overlaps y.key y.len (p.key / 64 * 64) 64 = true ∧ s.within c y.key = true
      ∃ t, exec (.flush sw a b c k e) s = .next t ∧ s.sameRegs t ∧ t.mem = s.mem ∧ t.accs = s.accs ∧
        (¬ waits → s.goesOn t sw size h) ∧ (waits → t.ctx.wait.isSome = true ∧ t.ctx.pc = s.ctx.pc)) ∧
    (s.ready [.x a, .x b] → A.toNat < 0x80000 →
      (∀ y ∈ s.accs, y.ctx = s.cur → y.op.writes = true → overlaps y.key y.len (scratchKey s.core.num.toNat A.toNat / 64 * 64) 64 = false) →
      ∃ t, exec (.flush sw a b c k e) s = .next t ∧ s.passes t sw size 1) ∧
    (s.ready [.x a, .x d] → regionOf (s.readX a) ≠ .translated → ∃ t, exec (.tlbprb sw d a) s = .next t ∧ s.forms t (.x d) 0 ∧ s.goesOn t sw 4 1) ∧
    (∀ x, s.ready [.x a, .x d] → regionOf (s.readX a) = .translated → tlbFind s.micro (s.readX a).toNat = some x → s.targetAbsent x.leaf = false →
      ∃ t, exec (.tlbprb sw d a) s = .next t ∧ s.forms t (.x d) (wide x.leaf) ∧ s.goesOn t sw 4 1 ∧ t.mem = s.mem) ∧
    (s.ready [.x a, .x b] → s.job.mapctl = true → s.ctx.tlbinvs.length < 4 →
      ∃ t i, exec (.tlbinv sw a b c) s = .next t ∧ t.ctx.tlbinvs = s.ctx.tlbinvs ++ [i] ∧ i.lo = (s.readX a).toNat ∧ i.bytes = (s.readX b).toNat ∧
        i.scope = c ∧ i.dropped = false ∧ .tlbinvCompletion s.cur ∈ t.agenda ∧ s.sameRegs t ∧ s.goesOn t sw 4 1 ∧ t.micro = s.micro) ∧
    (s.ready [.x a, .x b] → s.job.mapctl = false → s.ctx.trappable →
      ∃ t, exec (.tlbinv sw a b c) s = .next t ∧ s.ctx.entered t.ctx (TrapInfo.at s.ctx.pc 0x02 0 0) s.job.trapvec) ∧
    (∀ n i is, (s.ctxAt n).tlbinvs = i :: is → s.invWaits i = false → (∀ y ∈ is, s.invWaits y = true) →
      let later := is.map fun y : Tlbinv => { y with held := true }
      (i.dropped = true → ∃ t, exec (.tlbinvCompletion n) s = .next t ∧ t.micro = s.micro ∧
        (t.ctxAt n).tlbinvs = (if s.cycle < i.ready then [i] else []) ++ later) ∧
      (i.dropped = false → ∃ t j, exec (.tlbinvCompletion n) s = .next t ∧ (t.ctxAt n).tlbinvs = j :: later ∧ j.dropped = true ∧
        j.ready = s.cycle + (match i.scope with | .core => 8 | .clu => 40 | _ => 400) ∧ (t.cycle + 1 = j.ready → .tlbinvCompletion n ∈ t.tick.agenda) ∧
        (∀ x, x ∈ t.micro ↔ x ∈ s.micro ∧ ¬ (i.bytes = 0 ∨ overlaps x.va (pageBytes x.level) i.lo i.bytes = true)) ∧
        (i.scope = .core → t.clutlb = s.clutlb) ∧ (i.scope ≠ .dev → t.lasttlb = s.lasttlb))) ∧
    (s.ready [] → s.ctx.tlbinvs = [] → ∃ t, exec (.tlbwait sw) s = .next t ∧ s.passes t sw 4 1) ∧
    (s.ready [] → s.ctx.tlbinvs ≠ [] → ∃ t, exec (.tlbwait sw) s = .next t ∧ s.waits t) ∧
    (s.ready [.x a, .x d] → 255 < (s.readX a).toNat → s.ctx.trappable →
      ∃ t, exec (.rgnq sw d a) s = .next t ∧ s.ctx.entered t.ctx (TrapInfo.at s.ctx.pc 0x02 0 0) s.job.trapvec) ∧
    (s.ready [.x a, .x d] → (s.readX a).toNat ≤ 255 → ∃ t v, exec (.rgnq sw d a) s = .next t ∧ s.forms t (.x d) (wide v) ∧ s.goesOn t sw 4 1 ∧ t.mem = s.mem ∧
      (s.readX a = 0 → v = 0x0001C000C000C000#64) ∧ (s.readX a ≠ 0 → s.region (s.readX a).toNat = none → v = 0) ∧
      (∀ x, s.readX a ≠ 0 → s.region (s.readX a).toNat = some x → v.getLsbD 48 = true ∧ natBits v.toNat 47 0 = x.toNat ∧ natBits v.toNat 63 49 = 0))) ∧
  (
  ∀ (s : State) (va iaddr caddr : Word) (c : Fin 11) (q : Nat) (src : BitVec 3),
    (s.job.running = true → 0x100000000 ≤ va.toNat → va.toNat < 0x1000000000000 →
      ∃ t, exec (.walk va) s = .next t ∧ t.ctxs = s.ctxs ∧ t.mem = s.mem ∧ t.accs = s.accs ∧
        ∀ level w, tlbFind s.micro va.toNat = none → tlbFind s.clutlb va.toNat = none → tlbFind s.lasttlb va.toNat = none →
          walkFrom s.mem va.toNat 3 s.job.root.toNat = .leaf level w → s.targetAbsent w = false →
          ({ va := va.toNat / pageBytes level * pageBytes level, level, leaf := w } : TlbEntry) ∈ t.micro) ∧
    ((s.ctxAt c).live = true → ∃ t d, exec (.deferredUncorrectable c q src iaddr caddr) s = .next t ∧ { t with ctxs := s.ctxs } = s ∧
      t.ctxAt c = { s.ctxAt c with deferred := (s.ctxAt c).deferred ++ [d] } ∧ (∀ m, m ≠ c → t.ctxAt m = s.ctxAt m) ∧
      d.cause = 0x18 ∧ d.detail.getLsbD 0 = true ∧ natBits d.detail.toNat 3 1 = src.toNat ∧ d.next = true ∧ d.iaddr = iaddr ∧ d.caddr = caddr))

/-! ## Landing sets (R213 to R229) -/

/-- R213, R214, R216, R217: LDT into a free slot whose address passes its checks makes the slot pending, with its width, address and the next rank, and sends one read; a failed check makes it pending with the marker's cause, DETAIL and address, and sends
nothing; a slot that is not free takes the tag-busy trap, with the tag and the slot's state in DETAIL. R218: the read brings the bytes that its context sees into the slot, which stays pending until it lands and joins the landed queue, at once or later; a marker lands as a faulted slot. R222: RELD relaunches a faulted slot with its
width, address and rank, out of the landed queue, and RELD.drop frees it; either takes the illegal-operation trap on any other slot. Registers and memory stay. -/
def Obligations.TaggedLoadsAreLaunchedAndLand : Prop :=
  ∀ (s u : State) (sw : Bool) (n a b : BitVec 5) (w : TagWidth) (k : BitVec 2) (e : Ext) (p : Place) (f : AccessFault) (h : Nat),
    let size := if e.isSome then 8 else 4
    let A := s.address a b k e
    let x := s.ctx.slot n
    let prep := (s.issued [.x a, .x b]).modCtx fun c =>
      { c.setSlot n { Slot.free with width := w, addr := A, rank := c.nextRank, taint := c.taintOf [.reg (.x a), .reg (.x b)] } with
        nextRank := c.nextRank + 1 }
    let again := (s.issued []).modCtx fun c => { c with landed := c.landed.filter (· ≠ n) }
    let others (t : State) : Prop := ∀ m, m ≠ n → t.ctx.slot m = s.ctx.slot m
    let sent (t : State) (w : TagWidth) (addr : Word) (rank : Nat) : Prop := t.mem = s.mem ∧ others t ∧ s.sameRegs t ∧
      (t.ctx.slot n).state = .pending ∧ (t.ctx.slot n).cause = 0 ∧ (t.ctx.slot n).width = w ∧ (t.ctx.slot n).addr = addr ∧ (t.ctx.slot n).rank = rank ∧
      t.accs.length = s.accs.length + 1 ∧ (∀ y ∈ s.accs, y ∈ t.accs) ∧
      ∃ y ∈ t.accs, y.ctx = s.cur ∧ y.key = p.key ∧ y.len = tagBytes w ∧ y.op = .tagged n ∧ y.caddr = addr ∧ .slotLands s.cur n ∈ t.agenda
    let marked (t : State) (w : TagWidth) (addr : Word) (rank : Nat) : Prop := others t ∧ s.sameRegs t ∧
      (t.ctx.slot n).state = .pending ∧ (t.ctx.slot n).cause = f.cause ∧ (t.ctx.slot n).detail = f.detail ∧ (t.ctx.slot n).caddr = f.addr ∧
      (t.ctx.slot n).width = w ∧ (t.ctx.slot n).addr = addr ∧ (t.ctx.slot n).rank = rank ∧ t.accs = s.accs ∧ .slotLands s.cur n ∈ t.agenda
    (s.ready [.x a, .x b] → x.state = .free → prep.check .load A (tagBytes w) (tagBytes w) s.exchange = (u, .ok p, h) →
      ∃ t, exec (.ldt sw n a b w k e) s = .next t ∧ s.goesOn t sw size 1 ∧ sent t w A s.ctx.nextRank ∧ t.ctx.nextRank = s.ctx.nextRank + 1) ∧
    (s.ready [.x a, .x b] → x.state = .free → prep.check .load A (tagBytes w) (tagBytes w) s.exchange = (u, .error f, h) →
      ∃ t, exec (.ldt sw n a b w k e) s = .next t ∧ s.goesOn t sw size 1 ∧ marked t w A s.ctx.nextRank ∧ t.ctx.nextRank = s.ctx.nextRank + 1) ∧
    (s.ready [.x a, .x b] → x.state ≠ .free → s.ctx.trappable →
      ∃ t, exec (.ldt sw n a b w k e) s = .next t ∧ t.accs = s.accs ∧
        s.ctx.entered t.ctx (TrapInfo.at s.ctx.pc 0x0B (BitVec.ofNat 32 (n.toNat + 256 * x.state.code)) 0) s.job.trapvec) ∧
    (s.ready [] → x.state = .faulted → again.check .load x.addr (tagBytes x.width) (tagBytes x.width) s.exchange = (u, .ok p, h) →
      ∃ t, exec (.reld sw n) s = .next t ∧ s.goesOn t sw 4 1 ∧ sent t x.width x.addr x.rank ∧ t.ctx.landed = s.ctx.landed.filter (· ≠ n)) ∧
    (s.ready [] → x.state = .faulted → again.check .load x.addr (tagBytes x.width) (tagBytes x.width) s.exchange = (u, .error f, h) →
      ∃ t, exec (.reld sw n) s = .next t ∧ s.goesOn t sw 4 1 ∧ marked t x.width x.addr x.rank ∧ t.ctx.landed = s.ctx.landed.filter (· ≠ n)) ∧
    (s.ready [] → x.state = .faulted → ∃ t, exec (.reldDrop sw n) s = .next t ∧ t = s.setCtx t.ctx ∧ s.goesOn t sw 4 1 ∧ s.sameRegs t ∧ others t ∧
      (t.ctx.slot n).state = .free ∧ t.ctx.landed = s.ctx.landed.filter (· ≠ n)) ∧
    (∀ j, j = Instr.reld sw n ∨ j = .reldDrop sw n → s.ready [] → x.state ≠ .faulted → s.ctx.trappable → s.claimed = false →
      ∃ t, exec j s = .next t ∧ t = s.setCtx t.ctx ∧ s.ctx.entered t.ctx (TrapInfo.at s.ctx.pc 0x02 0 0) s.job.trapvec) ∧
    (∀ (c : Fin 11) (y : Acc), y ∈ s.accs → y.ctx = c → y.op = .tagged n → (∀ z ∈ s.accs, z.ctx = c → z.op = .tagged n → z = y) →
      ((s.ctxAt c).slot n).state = .pending → ((s.ctxAt c).slot n).cause = 0 →
      s.canPerform y = true → s.answersRetry y = false → (s.ctxAt c).badLanes = [] →
      (s.badAt y.key y.len = none → (∀ z ∈ s.accs, z.seq = y.seq → z = y) → ∃ t, exec (.accessPerformed y.seq) s = .next t ∧ t.mem = s.mem ∧
        (t.ctxAt c).slot n = { (s.ctxAt c).slot n with read := true, val := bitsOfBytes 512 (s.seenBy c y.seq y.key y.len) } ∧
        (t.ctxAt c).landed = (s.ctxAt c).landed ∧ (∀ m r, (t.ctxAt m).reg r = (s.ctxAt m).reg r) ∧ ∀ z ∈ t.accs, z.seq ≠ y.seq) ∧
      (s.badAt y.key y.len = none → ∃ t, exec (.slotLands c n) s = .next t ∧ t.mem = s.mem ∧ (∀ m r, (t.ctxAt m).reg r = (s.ctxAt m).reg r) ∧
        ((t.ctxAt c).slot n).state = .landed ∧ ((t.ctxAt c).slot n).val = bitsOfBytes 512 (s.seenBy c y.seq y.key y.len) ∧ n ∈ (t.ctxAt c).landed ∧
        (∀ m, m ≠ n → (t.ctxAt c).slot m = (s.ctxAt c).slot m) ∧ ∀ z ∈ t.accs, z.seq ≠ y.seq) ∧
      (∀ src, s.badAt y.key y.len = some src → ∃ t, exec (.slotLands c n) s = .next t ∧ (∀ m r, (t.ctxAt m).reg r = (s.ctxAt m).reg r) ∧
        ((t.ctxAt c).slot n).state = .faulted ∧ ((t.ctxAt c).slot n).cause = 0x18 ∧ ((t.ctxAt c).slot n).caddr = y.caddr ∧ n ∈ (t.ctxAt c).landed)) ∧
    (∀ c : Fin 11, (∀ y ∈ s.accs, y.ctx = c → y.op ≠ .tagged n) → ((s.ctxAt c).slot n).state = .pending →
      (((s.ctxAt c).slot n).cause ≠ 0 ∨ ((s.ctxAt c).slot n).read = true) →
      ∃ t, exec (.slotLands c n) s = .next t ∧ t.mem = s.mem ∧ (∀ m r, (t.ctxAt m).reg r = (s.ctxAt m).reg r) ∧ n ∈ (t.ctxAt c).landed ∧
        (t.ctxAt c).slot n = { (s.ctxAt c).slot n with
          state := if ((s.ctxAt c).slot n).cause = 0 then .landed else .faulted, read := false, since := s.cycle } ∧
        (∀ m, m ≠ n → (t.ctxAt c).slot m = (s.ctxAt c).slot m)) ∧
    (s.job.evicted = true → ∃ t, exec .landingSetDrainBound s = .next t ∧ t.core.drained = true ∧ .coreSave ∈ t.agenda ∧ t.ctxs = s.ctxs ∧ t.mem = s.mem)

/-- R219 to R221, R225, R226: TKA takes, of the slots of its class, the lowest rank in issue order, the next recorded tag in a replay, and else the first that landed; TKT takes the slot it names. A landed slot's value goes to xD, extended as LD extends it, or to vD, and TKA's tag to xA, 2 cycles later (R230); the
slot is free and out of the landed queue. A faulted slot traps precisely with the marker's cause, DETAIL, address and tag, and stays; a pending one holds the take, and so does a take of a gang that is not complete on every member (R223; log 65). A replay whose tags are used up counts as none (log 64). No slot of the class is an illegal operation, and in a replay a recorded tag without one ends the job. R224: LSMODE sets the order with every slot free, and is illegal otherwise. R229: LSQ reads the set. -/
def Obligations.TakesReturnLandedValues : Prop :=
  ∀ (s : State) (sw : Bool) (d a n : BitVec 5) (v m : Bool) (e : BitVec 2),
    let R := takeReg v d
    let chosen (g : BitVec 5) : Prop := s.ctx.inClass v g = true ∧
      (s.ctx.lsord = true → ∀ y, y ≠ g → s.ctx.inClass v y = true → (s.ctx.slot g).rank < (s.ctx.slot y).rank) ∧
      (s.ctx.lsord = false → (∃ l, s.ctx.replay = some (g :: l)) ∨
        ((s.ctx.replay = none ∨ s.ctx.replay = some []) ∧ ∃ l r, s.ctx.landed = l ++ g :: r ∧ ∀ y ∈ l, s.ctx.inClass v y = false))
    let value (x : Slot) : Vec := match x.width with | .scalar w => wide (loadWord w (bytesOfNat x.val.toNat (ldBytes w))) | .vec => x.val
    let taken (t : State) (g : BitVec 5) (ws : List (Reg × Vec)) : Prop := (∀ q, t.ctx.reg q = s.ctx.reg q) ∧
      (t.ctx.slot g).state = .free ∧ (∀ y, y ≠ g → t.ctx.slot y = s.ctx.slot y) ∧ t.ctx.landed = s.ctx.landed.filter (· ≠ g) ∧
      s.goesOn t sw 4 1 ∧ t.accs = s.accs ∧ (s.dev.trbase = 0 ∨ s.ctx.takeOrder.length < 5 → t.mem = s.mem) ∧
      (∀ y ∈ s.ctx.writes, y ∈ t.ctx.writes) ∧ (∀ y ∈ t.ctx.writes, y ∈ s.ctx.writes ∨ ∃ q ∈ ws, y.reg = q.1 ∧ y.val = q.2) ∧
      ∀ q ∈ ws, q.1 ≠ .x 0 → ∃ y ∈ t.ctx.writes, y.reg = q.1 ∧ y.val = q.2 ∧ y.need = 0 ∧ y.due = some (s.cycle + 2) ∧ y.late = true ∧ y.dead = false
    let faults (j : Instr) (g : BitVec 5) : Prop := ∃ t, exec j s = .next t ∧ t = s.setCtx t.ctx ∧
      s.ctx.entered t.ctx { TrapInfo.at s.ctx.pc (s.ctx.slot g).cause (s.ctx.slot g).detail (s.ctx.slot g).caddr with tag := some g } s.job.trapvec
    let illegal (j : Instr) : Prop := ∃ t, exec j s = .next t ∧ t = s.setCtx t.ctx ∧ s.ctx.entered t.ctx (TrapInfo.at s.ctx.pc 0x02 0 0) s.job.trapvec
    let quiet : Prop := s.ctx.trappable ∧ s.claimed = false
    (∀ g, s.ready [R, .x a] → chosen g →
      ((s.ctx.slot g).state = .landed → s.gangTakes = true → ∃ t, exec (.tka sw d a v) s = .next t ∧ s.waits t) ∧
      ((s.ctx.slot g).state = .landed → s.gangTakes = false → ∃ t, exec (.tka sw d a v) s = .next t ∧ taken t g [(R, value (s.ctx.slot g)), (.x a, wide (g.setWidth 64))] ∧
        (s.ctx.lsord = false → t.ctx.tookFree = true ∧ t.ctx.replay = s.ctx.replay.map (·.drop 1) ∧
          (s.job.record = true → s.ctx.takeOrder.length < 5 → t.ctx.takeOrder = s.ctx.takeOrder ++ [g]))) ∧
      ((s.ctx.slot g).state = .faulted → quiet → faults (.tka sw d a v) g) ∧
      ((s.ctx.slot g).state = .pending → ∃ t, exec (.tka sw d a v) s = .next t ∧ s.waits t)) ∧
    (s.ready [R, .x a] → (∀ g, s.ctx.inClass v g = false) → quiet → illegal (.tka sw d a v)) ∧
    (s.ready [R, .x a] → (∃ g, s.ctx.inClass v g = true) → s.ctx.lsord = false → s.ctx.replay = none → (∀ g ∈ s.ctx.landed, s.ctx.inClass v g = false) →
      ∃ t, exec (.tka sw d a v) s = .next t ∧ s.waits t) ∧
    (∀ g l, s.ready [R, .x a] → s.job.running = true → (∃ y, s.ctx.inClass v y = true) → s.ctx.lsord = false → s.ctx.replay = some (g :: l) → s.ctx.inClass v g = false →
      ∃ t, exec (.tka sw d a v) s = .next t ∧ t.job.running = false ∧ t.job.ended = true ∧ ∀ c, (t.ctxAt c).live = false) ∧
    (s.ready [R] → s.ctx.inClass v n = true →
      ((s.ctx.slot n).state = .landed → s.gangTakes = true → ∃ t, exec (.tkt sw d n v) s = .next t ∧ s.waits t) ∧
      ((s.ctx.slot n).state = .landed → s.gangTakes = false → ∃ t, exec (.tkt sw d n v) s = .next t ∧ taken t n [(R, value (s.ctx.slot n))] ∧ t.mem = s.mem) ∧
      ((s.ctx.slot n).state = .faulted → quiet → faults (.tkt sw d n v) n) ∧
      ((s.ctx.slot n).state = .pending → ∃ t, exec (.tkt sw d n v) s = .next t ∧ s.waits t)) ∧
    (s.ready [R] → s.ctx.inClass v n = false → quiet → illegal (.tkt sw d n v)) ∧
    (s.ready [] → (∀ y, (s.ctx.slot y).state = .free) → ∃ t, exec (.lsmode sw m) s = .next t ∧ t = s.setCtx t.ctx ∧ s.sameRegs t ∧ s.goesOn t sw 4 1 ∧
      t.ctx.lsord = m ∧ t.ctx.slots = s.ctx.slots) ∧
    (s.ready [] → (∃ y, (s.ctx.slot y).state ≠ .free) → quiet → illegal (.lsmode sw m)) ∧
    s.gives (.lsq sw d e) [.x d] sw 4 (.x d) (wide (s.ctx.lsq e)) 2 ∧
    (∀ i : Nat, (s.ctx.lsq 0).getLsbD i = (decide (i < 32) && decide ((s.ctx.slot (BitVec.ofNat 5 i)).state = .pending)) ∧
      (s.ctx.lsq 1).getLsbD i = (decide (i < 32) && decide ((s.ctx.slot (BitVec.ofNat 5 i)).state = .landed)) ∧
      (s.ctx.lsq 2).getLsbD i = (decide (i < 32) && decide ((s.ctx.slot (BitVec.ofNat 5 i)).state = .faulted))) ∧
    natBits (s.ctx.lsq 3).toNat 5 0 = s.ctx.slotsIn .landed ∧ natBits (s.ctx.lsq 3).toNat 13 8 = s.ctx.slotsIn .pending ∧
    natBits (s.ctx.lsq 3).toNat 21 16 = s.ctx.slotsIn .faulted ∧ (s.ctx.lsq 3).getLsbD 38 = s.ctx.lsord ∧ ((s.ctx.lsq 3).getLsbD 39 = true ↔ s.ctx.lsord = false ∧ ∃ g l, s.ctx.replay = some (g :: l))

/-! ## Engine queues and streams (R236 to R259) -/

/-- R238: QPUSH, GX, GXS and COMPACT of a well-formed command that the phase accepts put it, unstarted, behind the commands of its queue, where it waits for every earlier access of its context that its scope covers or that goes to a scratchpad; with eight outstanding the push waits. R244, R250, R252, R254: a malformed command takes the
illegal-operation trap, and R259: one that the phase refuses the phase violation, with the refused address; nothing is enqueued. -/
def Obligations.CommandsArePushed : Prop :=
  ∀ (s : State) (sw : Bool) (qn : BitVec 5) (a : BitVec 5) (c : Scope),
    let v := s.readV a
    let push (j : Instr) (q : Fin 5) (k : CmdKind) (bad : Bool) : Prop :=
      let len := (s.chan q).cmds.length + (s.chan q).ready.length
      let accepted : Prop := s.job.superstep = false ∨ ((s.exchange = true ∨ k = .copy) ∧ s.refusedIn (cmdRuns k v s.exchange) = none)
      (s.ready [.v a] → bad = false → s.badMark k v = false → accepted → len < 8 →
        ∃ t x, exec j s = .next t ∧ (t.chan q).cmds = (s.chan q).cmds ++ [x] ∧ (t.chan q).ready = (s.chan q).ready ∧
          (∀ r, r ≠ q → t.chan r = s.chan r) ∧ x.kind = k ∧ x.vec = v ∧ x.ctx = s.cur ∧ x.exchange = s.exchange ∧ x.started = false ∧ x.status = 0 ∧
          x.bytes = 0 ∧ x.next = 0 ∧ x.wm = s.markOf k v 0 ∧
          (∀ y ∈ s.accs, y.ctx = s.cur → (∀ g, y.op ≠ .tagged g) →
            s.within c y.key = true ∨ (Config.scratchBase ≤ y.key ∧ y.key < Config.peerBase) → y.seq ∈ x.after) ∧
          .commandStart q ∈ t.agenda ∧ s.sameRegs t ∧ s.goesOn t sw 4 1 ∧ t.mem = s.mem ∧ t.accs = s.accs) ∧
      (s.ready [.v a] → bad = false → s.badMark k v = false → accepted → 8 ≤ len → ∃ t, exec j s = .next t ∧ s.waits t) ∧
      (s.ready [.v a] → bad = true ∨ s.badMark k v = true → s.ctx.trappable →
        ∃ t, exec j s = .next t ∧ t.core = s.core ∧ s.ctx.entered t.ctx (TrapInfo.at s.ctx.pc 0x02 0 0) s.job.trapvec) ∧
      (∀ x, s.ready [.v a] → bad = false → s.badMark k v = false → s.job.superstep = true → (s.exchange = true ∨ k = .copy) →
        s.refusedIn (cmdRuns k v s.exchange) = some x → s.ctx.trappable →
        ∃ t, exec j s = .next t ∧ t.core = s.core ∧ s.ctx.entered t.ctx (TrapInfo.at s.ctx.pc 0x07 0 x) s.job.trapvec) ∧
      (s.ready [.v a] → bad = false → s.badMark k v = false → s.job.superstep = true → s.exchange = false → k ≠ .copy → s.ctx.trappable →
        ∃ t, exec j s = .next t ∧ t.core = s.core ∧ s.ctx.entered t.ctx (TrapInfo.at s.ctx.pc 0x07 0 0) s.job.trapvec)
    push (.qpush sw qn a c) (chanOf qn) .copy (s.badCopy v) ∧ push (.gx sw a c) 4 .gx (s.badGather v) ∧
      push (.gxs sw a c) 4 .gxs (s.badGather v) ∧ push (.compact sw a c) 4 .compact (s.badCompact v)

/-- R246, R248, R274: the oldest command of a queue starts once what it waits for is done and, where bellboard terms gate its channel, a credit is taken; until then it is held. R243: a plain copy then moves its elements one by one, each from its source address to its destination address; R206: where it has used a translation of an address before, it goes there by that one. R241, R242, R246: with its work done the writes that it has made and that still wait are performed, its element joins those ready, with
V, STATUS, ID and BYTES, and its arrival and its pulse are made. R247: the firmware path goes on with STATUS 2 or, refused, ends it with STATUS 6. No register changes.
R248: an element outside the extents is neither read nor written. R251: of each group PRUNE writes the two largest elements in ascending position, and the metadata byte that names them. R253: GX copies the table row that the index names to its row, and GXS the other way. R255: COMPACT writes a row's
offset, counts the swatches of its chain, and copies their entries in chain order. -/
def Obligations.CommandsStartMoveAndComplete : Prop :=
  (
  ∀ (s u w : State) (q : Fin 5) (c : Cmd) (cs : List Cmd) (p r : Place),
    let v := c.vec
    let regs (t : State) : Prop := ∀ m x, (t.ctxAt m).reg x = (s.ctxAt m).reg x
    let credit : Prop := s.gatesOf q = [] ∨ ∃ i ∈ s.gatesOf q, 0 < (s.clu.terms.get i).cred
    (s.chan q).cmds = c :: cs →
    (c.started = false → c.path = .none → c.next = 0 → c.skipped = [] → c.stopped = false → c.retry = none → s.mayStart c = true → credit →
      ∃ t x, exec (.commandStart q) s = .next t ∧ (t.chan q).cmds = x :: cs ∧ x.started = true ∧ x.held = false ∧ x.seq = c.seq ∧ x.vec = v ∧ x.next = 0 ∧
        (c.posts = false → x.status = c.status ∧ t.core.mbq = s.core.mbq) ∧
        (c.posts = true → x.status = Nat.max c.status 1 ∧ t.core.mbq = s.core.mbq ++ [boxWord v q.val]) ∧
        (0 < c.units → .accessPerformed c.seq ∈ t.agenda) ∧ (c.units = 0 → .commandCompletion q ∈ t.agenda) ∧
        (s.gatesOf q = [] → t.clu = s.clu) ∧
        (s.gatesOf q ≠ [] → ∃ i ∈ s.gatesOf q, (t.clu.terms.get i).cred + 1 = (s.clu.terms.get i).cred ∧ ∀ m, m ≠ i → t.clu.terms.get m = s.clu.terms.get m) ∧
        t.mem = s.mem ∧ regs t) ∧
    (c.started = false → s.mayStart c = false ∨ ¬ credit →
      ∃ t, exec (.commandStart q) s = .next t ∧ (t.chan q).cmds = { c with held := true } :: cs ∧ t.mem = s.mem ∧ regs t ∧ t.clu = s.clu) ∧
    (c.kind = .copy → cmdPrune v = false → cmdInside v c.next = true → c.started = true → c.path = .none → c.next < c.units →
      c.pulledAt c.next 0 = none → c.lazy = false → c.skipped = [] → c.redo = none → c.stopped = false → c.retry = none → s.clu.saving = [] →
      (∀ y ∈ s.accs, y.seq ≠ c.seq) → (∀ y ∈ s.halves, y.seq ≠ c.seq) → (∀ m x xs, m ≠ q → (s.chan m).cmds = x :: xs → x.seq ≠ c.seq) → s.unhashed → s.core.snapshot = none → s.bad = [] →
      s.cmdCheck q .engineRead (cmdSrc v c.next) (2 ^ cmdEsz v) = (u, .ok p) →
      u.cmdCheck q .engineWrite (cmdDst v c.next) (2 ^ cmdEsz v) = (w, .ok r) →
      ∃ t x, exec (.accessPerformed c.seq) s = .next t ∧ regs t ∧
        (∀ k, Memory.byte t.mem k = if r.key ≤ k ∧ k < r.key + 2 ^ cmdEsz v then Memory.byte s.mem (p.key + (k - r.key)) else Memory.byte s.mem k) ∧
        (t.chan q).cmds.head? = some x ∧ x.seq = c.seq ∧ x.next = c.next + 1 ∧ x.bytes = c.bytes + 2 ^ cmdEsz v ∧ x.status = c.status) ∧
    (∀ a n acc, c.used = [] → a.getLsbD 63 = false → s.cmdCheck q acc a n = match s.check acc a n n c.exchange with
      | (t, .error f, _) => (t, .error f)
      | (t, .ok x, _) => (t.modHead q fun y => y.holds x, .ok x)) ∧
    (∀ a n acc e, placeCheck a n n = .ok .translated → tlbFind c.used a.toNat = some e → s.targetAbsent e.leaf = false → s.leafCheck acc e.leaf a c.exchange = .ok () →
      ∃ x, s.cmdCheck q acc a n = (s, .ok x) ∧ x.key = leafKey s.die e.leaf e.level a.toNat) ∧
    (c.started = true → c.path ≠ .waiting → c.finished = true → c.retry = none → s.clu.saving = [] →
      ∃ t e, exec (.commandCompletion q) s = .next t ∧ (t.chan q).cmds.length = cs.length ∧ (t.chan q).ready = (s.chan q).ready ++ [e] ∧
        (c.status < 256 → e.word.getLsbD 63 = true ∧ natBits e.word.toNat 62 56 = 0 ∧ natBits e.word.toNat 55 48 = c.status ∧ natBits e.word.toNat 47 32 = cmdId v ∧
          natBits e.word.toNat 31 0 = c.bytes % 2 ^ 32) ∧
        (c.status ≠ 8 → e.overflow = none) ∧ (c.status = 8 → e.overflow = some (BitVec.ofNat 32 c.sum, cmdAddr v 1 + BitVec.ofNat 64 (8 * c.sum))) ∧
        (cmdArv v = true → c.status ≠ 10 → .arrival (cmdBg v) s.sender 1 none ∈ t.agenda) ∧
        (cmdBell v = true → c.status ≠ 10 → q.val < 4 → .pulse (BitVec.ofNat 8 (4 * (s.sender.toNat % 32) + q.val)) ∈ t.agenda) ∧
        (cs ≠ [] → .commandStart q ∈ t.agenda) ∧ regs t ∧ (c.stores = [] → t.mem = s.mem) ∧
        (s.unhashed → s.core.snapshot = none → t.mem = c.stores.foldl (fun m x => Memory.write m x.1 x.2) s.mem)) ∧
    (c.path = .waiting → c.next < c.units → c.stopped = false → c.retry = none →
      (∃ t x, exec (.firmwarePath q true) s = .next t ∧ (t.chan q).cmds = x :: cs ∧ x.path = .active ∧ x.status = Nat.max c.status 2 ∧ x.next = c.next ∧
        .accessPerformed c.seq ∈ t.agenda ∧ t.mem = s.mem ∧ regs t) ∧
      (∃ t x, exec (.firmwarePath q false) s = .next t ∧ (t.chan q).cmds = x :: cs ∧ x.status = Nat.max c.status 6 ∧ x.stopped = true ∧ x.next = c.next ∧
        .commandCompletion q ∈ t.agenda ∧ t.mem = s.mem ∧ regs t))) ∧
  (
  ∀ (s u w : State) (q : Fin 5) (c : Cmd) (cs : List Cmd) (r : Place) (ps : List PlacedMove),
    let v := c.vec
    let i := c.next
    let n := 2 ^ cmdEsz v
    let plain : Prop := (s.chan q).cmds = c :: cs ∧ c.started = true ∧ c.path = .none ∧ i < c.units ∧ c.pulled = [] ∧ c.lazy = false ∧ c.skipped = [] ∧
      c.redo = none ∧ c.newer = [] ∧ c.stopped = false ∧ c.retry = none ∧ s.clu.saving = [] ∧ s.bad = [] ∧ s.unhashed ∧ s.core.snapshot = none ∧
      (∀ y ∈ s.accs, y.seq ≠ c.seq) ∧ (∀ y ∈ s.halves, y.seq ≠ c.seq) ∧ (∀ m x xs, m ≠ q → (s.chan m).cmds = x :: xs → x.seq ≠ c.seq)
    let does (m : List Host.Cell) (f : Cmd → Prop) : Prop := ∃ t x, exec (.accessPerformed c.seq) s = .next t ∧ t.mem = m ∧ (∀ m r, (t.ctxAt m).reg r = (s.ctxAt m).reg r) ∧
      (t.chan q).cmds.head? = some x ∧ x.seq = c.seq ∧ x.status = c.status ∧ f x
    let moved (m : List Host.Cell) : List Host.Cell := ps.foldl (fun m p => Memory.write m p.wr (Memory.read m p.rd p.move.bytes)) m
    let row (a b : Word) (n : Nat) : List Move :=
      (List.range (n / min n 8)).map fun k => { src := a + BitVec.ofNat 64 (min n 8 * k), dst := b + BitVec.ofNat 64 (min n 8 * k), bytes := min n 8 }
    let near : Word := cmdAddr v 3 + BitVec.ofNat 64 (n * i)
    let far (x : Nat) : Word := cmdAddr v 2 + BitVec.ofNat 64 (x * n)
    let iw := 2 ^ (2 + cmdIw v)
    let rd (l : List PlacedMove) (k : Nat) : Nat := (l[k]?.map (·.rd)).getD 0
    let wr (l : List PlacedMove) (k : Nat) : Nat := (l[k]?.map (·.wr)).getD 0
    let elem (m : List Host.Cell) (l : List PlacedMove) (k : Nat) : List Byte := Memory.read m (rd l k) n
    let group (g : Nat) : List Move := (List.range 4).map fun k => { src := cmdSrc v (4 * g + k), dst := cmdDst v (2 * g + k / 2), bytes := n }
    let prunes (ty : Ty) (m m' : List Host.Cell) (l : List PlacedMove) (nib : Nat) : Prop := ∃ a b, a < b ∧ b < 4 ∧ nib = a + 4 * b ∧
      (∀ k < 4, k ≠ a → k ≠ b → ∀ j ∈ [a, b], smaller ty (natOfBytes (elem m l j)) (natOfBytes (elem m l k)) = false ∧
        (smaller ty (natOfBytes (elem m l k)) (natOfBytes (elem m l j)) = false → j < k)) ∧
      m' = Memory.write (Memory.write m (wr l 0) (elem m l a)) (wr l 2) (elem m l b)
    plain →
      (c.kind = .copy → cmdPrune v = false → cmdInside v i = false → does s.mem fun x => x.next = i + 1 ∧ x.bytes = c.bytes) ∧
      (∀ x, c.kind = .gx → s.cmdCheck q .engineRead (cmdAddr v 1 + BitVec.ofNat 64 (iw * i)) iw = (u, .ok r) → x = natOfBytes (Memory.read s.mem r.key iw) →
        State.placeMoves q (row (far x) near n) u = (w, .ok ps) → does (moved s.mem) fun y => y.next = i + 1 ∧ y.bytes = c.bytes + n) ∧
      (∀ x, c.kind = .gxs → s.cmdCheck q .engineRead (cmdAddr v 1 + BitVec.ofNat 64 (iw * i)) iw = (u, .ok r) → x = natOfBytes (Memory.read s.mem r.key iw) →
        State.placeMoves q (row near (far x) n) u = (w, .ok ps) → does (moved s.mem) fun y => y.next = i + 1 ∧ y.bytes = c.bytes + n) ∧
      (∀ ty lo hi, c.kind = .copy → cmdPrune v = true → pruneFormat (cmdPfmt v) (cmdEsz v) = some ty → lo.length = 4 →
        State.placeMoves q (group (2 * i) ++ if 2 * i + 1 < cmdTotal v / 4 then group (2 * i + 1) else []) s = (u, .ok (lo ++ hi)) →
        u.cmdCheck q .engineWrite (cmdAddr v 7 + BitVec.ofNat 64 i) 1 = (w, .ok r) →
        ∃ m m' a b, prunes ty s.mem m lo a ∧ (hi = [] → m' = m ∧ b = 0) ∧ (hi ≠ [] → prunes ty m m' hi b) ∧
          does (Memory.write m' r.key [BitVec.ofNat 8 (a + 16 * b)]) fun x => x.next = i + 1 ∧ x.bytes = c.bytes + (if hi = [] then 2 else 4) * n + 1) ∧
      (c.kind = .compact → c.ptr = none → c.copying = false → s.cmdCheck q .engineWrite (cmdAddr v 2 + BitVec.ofNat 64 (4 * i)) 4 = (u, .ok r) →
        does (Memory.write s.mem r.key (bytesOfNat c.off 4)) fun x => x.bytes = c.bytes + 4 ∧ (i = cmdWord v 4 → x.next = i + 1) ∧ (i ≠ cmdWord v 4 → x.next = i ∧ x.copying = true)) ∧
      (∀ p k nx, c.kind = .compact → c.ptr = some p → p ≠ 0 → s.cmdCheck q .engineRead p 8 = (u, .ok r) → nx = natOfBytes (Memory.read s.mem r.key 8) →
        ∀ (w' z : State) (r' : Place), u.cmdCheck q .engineRead (p + 8) 8 = (w', .ok r') → k = natBits (natOfBytes (Memory.read s.mem r'.key 8)) 39 32 →
        (c.copying = false → natOfBytes (Memory.read s.mem r'.key 8) % 2 ^ 32 = i → does s.mem fun x => x.ptr = some (BitVec.ofNat 64 nx) ∧ x.sum = c.sum + k ∧ x.next = i) ∧
        (c.copying = true → State.placeMoves q ((List.range k).flatMap fun j => row (p + 16 + BitVec.ofNat 64 (n * j)) (cmdAddr v 3 + BitVec.ofNat 64 (n * (c.off + c.sum + j))) n) w' = (z, .ok ps) →
          does (moved s.mem) fun x => x.ptr = some (BitVec.ofNat 64 nx) ∧ x.sum = c.sum + k ∧ x.bytes = c.bytes + k * n)))

/-- R239, R241: QPOP and QTRY of a queue with an element ready take the oldest one into xD with latency 2; with none, QPOP waits and QTRY writes 0. R158: QPOP of qd hands out the next range of the index space; of an exhausted one START is 0 (log 105). QLEN counts the elements ready and the commands outstanding, and R249: WMRD gives the
watermark of the oldest command that has one. R256: a popped COMPACT overflow traps once the pop is done and its register written, and the trap returns to where the context goes on after the pop. Memory stays. -/
def Obligations.ElementsArePopped : Prop :=
  ∀ (s : State) (sw : Bool) (d qn : BitVec 5),
    let q := chanOf qn
    let pops (j : Instr) : Prop := ∀ e es, s.ready [.x d] → (s.chan q).ready = e :: es →
      (e.overflow = none → ∃ t, exec j s = .next t ∧ s.lands t (.x d) (wide e.word) 2 ∧ s.goesOn t sw 4 1 ∧ (t.chan q).ready = es ∧
        (t.chan q).cmds = (s.chan q).cmds ∧ (∀ m, m ≠ q → t.chan m = s.chan m) ∧ t.mem = s.mem ∧ t.accs = s.accs) ∧
      (∀ row head, e.overflow = some (row, head) → s.ctx.trappable →
        let i : TrapInfo := { cause := 0x13, detail := row, tag := none, fetch := false, next := true, ret := (s.ctx.sequential 4).pc, iaddr := s.ctx.pc, caddr := head, log := false }
        ∃ t, exec j s = .next t ∧ (t.chan q).ready = es ∧ (t.chan q).cmds = (s.chan q).cmds ∧
          (d = 0 → (s.ctx.sequential 4).entered t.ctx i s.job.trapvec) ∧
          (d ≠ 0 → s.lands t (.x d) (wide e.word) 2 ∧ t.ctx.trapping = some i ∧ t.ctx.pc = i.ret ∧ t.ctx.inTrap = false))
    (qn.toNat < 5 → pops (.qpop sw d qn) ∧ pops (.qtry sw d qn) ∧
      ((s.chan q).ready = [] →
        (s.ready [.x d] → ∃ t, exec (.qpop sw d qn) s = .next t ∧ s.waits t) ∧ s.gives (.qtry sw d qn) [.x d] sw 4 (.x d) 0 2) ∧
      s.gives (.qlen sw d qn) [.x d] sw 4 (.x d) (wide (BitVec.ofNat 64 ((s.chan q).ready.length + 256 * ((s.chan q).cmds.length + (s.chan q).ready.length)))) 2 ∧
      s.gives (.wmrd sw d qn) [.x d] sw 4 (.x d)
        (wide (match (s.chan q).marks with | k :: _ => BitVec.ofNat 64 (k - scratchKey s.core.num.toNat 0) | [] => BitVec.allOnes 64)) 2) ∧
    (s.ready [.x d] → s.job.space.takes = [] → s.job.space.pool = [] →
      let n := Nat.min s.job.space.grain s.job.space.left
      ∃ t, exec (.qpop sw d 5) s = .next t ∧ s.goesOn t sw 4 1 ∧ t.mem = s.mem ∧ t.core = s.core ∧
        (0 < n → s.lands t (.x d) (wide (BitVec.ofNat 64 (s.job.space.next * 2 ^ 24 + n))) 2 ∧ t.job.space.next = s.job.space.next + n ∧
          t.job.space.left = s.job.space.left - n ∧ t.ctx.range = some (s.job.space.next, n)) ∧
        (n = 0 → s.lands t (.x d) 0 2 ∧ t.job.space.next = s.job.space.next ∧ t.ctx.range = none))

/-- R257, R258: SBIND, whose count and span are legal, binds the stream to a walk from its first element once the writes of its previous binding are performed; the affine form takes the walk from the descriptor at xA. A count or total above 2^32 - 1 is an illegal operation, and a span outside one window, misaligned or claimed takes its fault; the binding stays. The first vector of a read stream can be used 4 cycles after its binding (R260). SFREE unbinds once the stream's
writes are performed, SADV advances a bound stream, SSTAT reads it, and a read stream fetches ahead. Registers and memory stay. -/
def Obligations.StreamsAreBoundAndFreed : Prop :=
  ∀ (s : State) (sw : Bool) (n : BitVec 2) (a b d : BitVec 5) (ty : LaneTy) (wr : Bool),
    let lin : Stream := { bnd := true, wr, ty, base := s.readX a, c := #v[(s.readX b).toNat, 1, 1, 1], st := Vector.replicate 3 0, remain := 0, fetched := [], held := false, ready := 0 }
    let key := scratchKey s.core.num.toNat (s.readX a).toNat
    let aff := affineStream (Memory.read s.mem key 32) ty wr
    let kept (t : State) : Prop := t.mem = s.mem ∧ t.accs = s.accs ∧ s.sameRegs t ∧ s.goesOn t sw 4 1
    let only (t : State) : Prop := kept t ∧ ∀ m, m ≠ n → t.stream m = s.stream m
    let binds (j : Instr) (x : Stream) : Prop :=
      (x.total < 2 ^ 32 → s.streamFault x = none → (∀ y ∈ s.accs, s.bindWaits n y = false) →
        ∃ t, exec j s = .next t ∧ only t ∧ t.stream n = { x with remain := x.total, ready := s.cycle + 4 } ∧ (wr = false → .streamFetch n ∈ t.agenda)) ∧
      (x.total < 2 ^ 32 → s.streamFault x = none → (∃ y ∈ s.accs, s.bindWaits n y = true) → ∃ t, exec j s = .next t ∧ s.waits t) ∧
      (∀ f, x.total < 2 ^ 32 → s.streamFault x = some f → s.ctx.trappable →
        ∃ t, exec j s = .next t ∧ t.core = s.core ∧ s.ctx.entered t.ctx (TrapInfo.at s.ctx.pc f.cause f.detail f.addr) s.job.trapvec) ∧
      (2 ^ 32 ≤ x.total → s.ctx.trappable → ∃ t, exec j s = .next t ∧ t.core = s.core ∧ s.ctx.entered t.ctx (TrapInfo.at s.ctx.pc 0x02 0 0) s.job.trapvec)
    (s.ready [.x a, .x b] → binds (.sbind sw n a b ty wr) lin) ∧
    (s.ready [.x a] → s.localRun (s.readX a) 32 → s.accs = [] → s.gated key 32 = false →
      (fieldAt (Memory.read s.mem key 32) 28 4 = 0 → binds (.sbindAffine sw n a ty wr) aff) ∧
      (fieldAt (Memory.read s.mem key 32) 28 4 ≠ 0 → s.ctx.trappable →
        ∃ t, exec (.sbindAffine sw n a ty wr) s = .next t ∧ t.core = s.core ∧ s.ctx.entered t.ctx (TrapInfo.at s.ctx.pc 0x02 0 0) s.job.trapvec)) ∧
    (s.ready [] → (∀ y ∈ s.accs, y.stream ≠ some n) → ∃ t, exec (.sfree sw n) s = .next t ∧ only t ∧ t.stream n = Stream.unbound) ∧
    (s.ready [] → (∃ y ∈ s.accs, y.stream = some n) → ∃ t, exec (.sfree sw n) s = .next t ∧ s.waits t) ∧
    (s.ready [.x a] → (s.stream n).bnd = true → 0 ≤ (s.readX a).toInt →
      ∃ t, exec (.sadv sw n a) s = .next t ∧ only t ∧
        t.stream n = { s.stream n with
          remain := (s.stream n).remain - (s.readX a).toNat, fetched := (s.stream n).fetched.drop (Nat.min (s.readX a).toNat (s.stream n).remain) }) ∧
    (s.ready [.x a] → (s.stream n).bnd = false ∨ (s.readX a).toInt < 0 → s.ctx.trappable →
      ∃ t, exec (.sadv sw n a) s = .next t ∧ t.core = s.core ∧ s.ctx.entered t.ctx (TrapInfo.at s.ctx.pc 0x02 0 0) s.job.trapvec) ∧
    s.gives (.sstat sw d n) [.x d] sw 4 (.x d) (wide (if (s.stream n).bnd then
      BitVec.ofNat 64 (2 ^ 39 + (if (s.stream n).wr then 2 ^ 38 else 0) + (s.stream n).ty.code.toNat * 2 ^ 33 + (s.stream n).remain) else 0)) 2 ∧
    (s.bad = [] → (s.stream n).bnd = true → (s.stream n).wr = false → (s.stream n).fetched = [] → 512 / (s.stream n).ty.width ≤ (s.stream n).remain →
      (∀ i < 512 / (s.stream n).ty.width, s.gated (s.ownKey (wrap64 ((s.stream n).addr ((s.stream n).used + i)))) (s.stream n).bytes = false) →
      ∃ t, exec (.streamFetch n) s = .next t ∧ t.mem = s.mem ∧ t.ctxs = s.ctxs ∧ (∀ m, m ≠ n → t.stream m = s.stream m) ∧
        (t.stream n).remain = (s.stream n).remain ∧ (t.stream n).fetched = (List.range (512 / (s.stream n).ty.width)).map fun i =>
          some (bitsOfBytes 64 (Memory.read s.mem (s.ownKey (wrap64 ((s.stream n).addr ((s.stream n).used + i)))) (s.stream n).bytes)))

/-! ## Barriers, supersteps, fences, the bellboard and probes (R262 to R279) -/

/-- R263 to R267: on a reserved group that is not the superstep domain, outside superstep mode, a member's ARV and ARVN send an arrival, a release after the context's earlier accesses in its scope, and xD waits for the phase; EXPECT sends its count to the root; WAIT goes on once the phase has completed at the core's node; WTEST, PHASE and BGSTAT read the group. A group that is not reserved is
the resource trap with DETAIL 5; the domain, a group of which the core is no member where that is required, and a count outside 1 to 65,535 are illegal operations; superstep mode is a phase violation. R263: arrivals and EXPECTs that reach the root are counted together in its next network cycle, for which the model writes an arrival of weight 0 (log 36): where they fill the count, the phase completes, the surplus is carried, the next count is set and the completion is broadcast; each arrival reports the phase that it was counted in. The broadcast moves the node on, never back. -/
def Obligations.BarrierGroupsCountPhases : Prop :=
  ∀ (s : State) (sw : Bool) (d a g : BitVec 5) (c : Scope) (o : Bool),
    let x := s.group g
    let open_ : Prop := x.res = true ∧ s.bar.domain ≠ some g ∧ s.job.superstep = false
    let gone (p : BitVec 16) : Prop := 1 ≤ (x.node - p).toNat ∧ (x.node - p).toNat ≤ 32768
    let A := s.readX a
    let count : Prop := 1 ≤ A.toNat ∧ A.toNat ≤ 65535
    let arrives (j : Instr) (w : BitVec 16) : Prop := ∃ t y, exec j s = .next t ∧ s.awaits t (.x d) 0 1 ∧ s.goesOn t sw 4 1 ∧ t.mem = s.mem ∧ t.bar = s.bar ∧
      y ∈ t.accs ∧ y.op = .arrive g w (some (if d = 0 then 0 else s.seq)) ∧ y.ctx = s.cur ∧ .accessPerformed y.seq ∈ t.agenda ∧ (∀ z ∈ s.accs, z ∈ t.accs) ∧
      (o = false → y.after = []) ∧
      (o = true → ∀ z ∈ s.accs, z.ctx = s.cur → s.within c z.key = true → (∀ q, z.op ≠ .tagged q) → (∀ q v r, z.op ≠ .arrive q v r) →
        (∀ q v r, z.op ≠ .swatch q v r) → z.seq ∈ y.after)
    let traps (j : Instr) (cause : BitVec 8) (detail : BitVec 32) : Prop := s.ctx.trappable →
      ∃ t, exec j s = .next t ∧ t.bar = s.bar ∧ t.accs = s.accs ∧ s.ctx.entered t.ctx (TrapInfo.at s.ctx.pc cause detail 0) s.job.trapvec
    s.ready [.x a, .x d] →
      (open_ → x.member = true → arrives (.arv sw d g c o) 1) ∧
      (open_ → x.member = true → count → arrives (.arvn sw d a g c o) (A.setWidth 16)) ∧
      (open_ → x.member = true → count → ∃ t, exec (.expect sw a g) s = .next t ∧ t.agenda = s.agenda ++ [.expectReachesRoot g (A.setWidth 16)] ∧ t.bar = s.bar ∧
        t.mem = s.mem ∧ s.sameRegs t ∧ s.goesOn t sw 4 1) ∧
      (open_ → x.member = true → ¬ gone (A.setWidth 16) → ∃ t, exec (.wait sw a g) s = .next t ∧ s.waits t) ∧
      (open_ → x.member = true → gone (A.setWidth 16) →
        (s.job.redun = false → ∃ t, exec (.wait sw a g) s = .next t ∧ (∀ e ∈ t.early, e.ctx = s.cur → e.newer = []) ∧ s.passes { t with early := s.early } sw 4 1) ∧
        (s.job.redun = true → s.core.sig = s.core.partnerSig → ∃ t, exec (.wait sw a g) s = .next t ∧ s.sameRegs t ∧ s.goesOn t sw 4 1 ∧
          t.core.sig = 0 ∧ t.core.partnerSig = 0 ∧ t.mem = s.mem) ∧
        (s.job.redun = true → s.core.sig ≠ s.core.partnerSig → s.job.running = true → ∃ t, exec (.wait sw a g) s = .next t ∧ t.job.running = false)) ∧
      (open_ → ∃ v : Bool, (v = true ↔ gone (A.setWidth 16)) ∧ s.gives (.wtest sw d a g) [.x a, .x d] sw 4 (.x d) (wide (if v then 1 else 0)) 2) ∧
      (open_ → s.gives (.phase sw d g) [.x d] sw 4 (.x d) (wide (x.node.setWidth 64)) 2) ∧
      (∃ t v, exec (.bgstat sw d g) s = .next t ∧ s.formsFrom t (.x d) (wide v) 16 ∧ s.goesOn t sw 4 1 ∧ t.mem = s.mem ∧ t.bar = s.bar ∧
        (x.res = false → s.bar.domain ≠ some g → v = 0) ∧
        (x.res = true ∨ s.bar.domain = some g → v.getLsbD 62 = true ∧ v.getLsbD 63 = decide (s.bar.domain = some g) ∧ natBits v.toNat 15 0 = x.phase.toNat ∧
          natBits v.toNat 35 16 = x.arrived % 2 ^ 20 ∧ natBits v.toNat 55 36 = x.expected % 2 ^ 20)) ∧
      (∀ j, j = Instr.arv sw d g c o ∨ j = .arvn sw d a g c o ∨ j = .expect sw a g ∨ j = .wait sw a g ∨ j = .wtest sw d a g ∨ j = .phase sw d g →
        (x.res = false → s.bar.domain ≠ some g → traps j 0x08 5) ∧ (s.bar.domain = some g → traps j 0x02 0) ∧
        (x.res = true → s.bar.domain ≠ some g → x.member = true → s.job.superstep = true → traps j 0x07 0)) ∧
      (∀ j, j = Instr.arv sw d g c o ∨ j = .arvn sw d a g c o ∨ j = .expect sw a g ∨ j = .wait sw a g →
        x.res = true → s.bar.domain ≠ some g → x.member = false → traps j 0x02 0) ∧
      (∀ j, j = Instr.arvn sw d a g c o ∨ j = .expect sw a g → open_ → x.member = true → ¬ count → traps j 0x02 0) ∧
      (∀ (core : BitVec 12) (w n : BitVec 16) (k : Fin 11) (q : Nat), x.res = true → s.bar.domain ≠ some g →
        let still (t : State) : Prop := t.mem = s.mem ∧ (∀ m r, (t.ctxAt m).reg r = (s.ctxAt m).reg r) ∧ ∀ h, h ≠ g → t.group h = s.group h
        let W := (x.reached.map fun r => r.weight.toNat).sum
        let reports (p : Nat) : Vec := wide ((if p < x.expected then x.phase else x.phase + 1).setWidth 64)
        (w ≠ 0 → ∃ t, exec (.arrival g core w (some (k, q))) s = .next t ∧ still t ∧ t.ctxs = s.ctxs ∧
          t.group g = { x with reached := x.reached ++ [{ core, weight := w, report := some (k, q) }] } ∧ .arrival g 0 0 none ∈ t.agenda) ∧
        (∃ t, exec (.expectReachesRoot g n) s = .next t ∧ still t ∧ t.ctxs = s.ctxs ∧ t.group g = { x with expects := x.expects + n.toNat } ∧
          .arrival g 0 0 none ∈ t.agenda) ∧
        (∃ t, exec (.arrival g 0 0 none) s = .next t ∧ still t ∧
          (x.arrived + W < x.expected → t.group g =
            { x with reached := [], expects := 0, arrived := x.arrived + W, expected := Nat.min (x.expected + x.expects) (2 ^ 20 - 1) }) ∧
          (x.expected ≤ x.arrived + W → t.group g =
            { x with reached := [], expects := 0, phase := x.phase + 1, arrived := x.arrived + W - x.expected, expected := x.base + x.expects } ∧
            .completionBroadcast g x.phase ∈ t.agenda) ∧
          (x.reached = [] → t.ctxs = s.ctxs) ∧
          (∀ r, x.reached = [r] → r.report = some (k, q) → (t.ctxAt k).writes = (s.ctxAt k).writes.map fun y =>
            if y.seq = q then { y with val := reports x.arrived, need := y.need - 1 } else y) ∧
          (∀ r r' m p, x.reached = [r, r'] ∨ x.reached = [r', r] → r.core.toNat < r'.core.toNat → r.report = some (m, p) → r'.report = some (k, q) → p ≠ q →
            ∀ y ∈ (s.ctxAt k).writes, y.seq = q → { y with val := reports (x.arrived + r.weight.toNat), need := y.need - 1 } ∈ (t.ctxAt k).writes)) ∧
        (¬ gone w → ∃ t, exec (.completionBroadcast g w) s = .next t ∧ still t ∧ t.ctxs = s.ctxs ∧ t.group g = { x with node := w + 1 }) ∧
        (gone w → exec (.completionBroadcast g w) s = .next s))

/-- R268 to R271, R161 to R163, R391: SYNC by context 0 of a superstep job waits until the core's writes are done, arrives once, and goes on with SSTEP in xD when its phase has completed; the passing changes SSTEP, from a compute phase to its exchange phase and from that to the next superstep. A withheld word makes the superstep run again from the daybook, and ends the job where it cannot (what the daybook puts back: log 72; SYNC's xD comes with latency 1: log 74). FENCE puts the
context's earlier loads before its later accesses in its scope, its earlier accesses before its later writes, and .sc its earlier writes before its later loads. R277 to R279: a context blocked long enough sends a probe along what it waits for, one blocked in a push only where every other live context is blocked too (R238); a probe that comes back gives the deadlock trap to the context with the lowest identity; DLKST reads a context's wait. -/
def Obligations.SuperstepsFencesAndProbes : Prop :=
  ∀ (s : State) (sw : Bool) (d a g : BitVec 5) (c : Scope) (o : Bool),
    let x := s.group g
    let mine : Prop := s.bar.domain = some g ∧ s.job.superstep = true ∧ s.cur = 0 ∧ s.anyHelperLive = false
    (s.ready [.x d] → mine → s.bar.synced = none → s.syncWaits = true → ∃ t, exec (.sync sw d) s = .next t ∧ s.waits t) ∧
    (s.ready [.x d] → mine → s.bar.synced = none → s.syncWaits = false → (s.job.redun = true → s.core.sig = s.core.partnerSig) →
      ∃ t, exec (.sync sw d) s = .next t ∧ t.bar.synced = some x.node ∧ t.agenda = s.agenda ++ [.arrival g s.sender 1 none] ∧ s.sameRegs t ∧
        t.ctx.wait.isSome = true ∧ t.ctx.pc = s.ctx.pc ∧ t.mem = s.mem ∧ t.core = if s.job.redun then { s.core with sig := 0, partnerSig := 0 } else s.core) ∧
    (∀ p, s.ctx.wait.isSome = true → mine → s.bar.synced = some p → x.passed p = false →
      ∃ t, exec (.sync sw d) s = .next t ∧ t = s) ∧
    (∀ p, s.ctx.wait.isSome = true → mine → s.bar.synced = some p → x.passed p = true → s.core.withheld = false ∨ s.exchange = true →
      ∃ t, exec (.sync sw d) s = .next t ∧ s.lands t (.x d) (wide s.bar.sstep) 1 ∧ t.ctx.wait = none ∧ t.ctx.parked = sw ∧ t.bar = { s.bar with synced := none } ∧
        t.ctx.nextIssue = Nat.max (s.cycle + 1) s.bar.xcBase ∧ (s.ctx.straight 4 → t.ctx.pc = s.ctx.pc + 4) ∧ (s.claimed = false → t.mem = s.mem) ∧ t.accs = s.accs) ∧
    (∀ p, s.ctx.wait.isSome = true → mine → s.bar.synced = some p → x.passed p = true → s.core.withheld = true → s.exchange = false →
      (∀ sn, s.replayable = some sn → (∀ k, (sn.ctx.slots.get k).state ≠ .pending) →
        ∃ t, exec (.sync sw d) s = .next t ∧ t.mem = restoreLines sn.lines s.mem ∧ (∀ r, (t.ctxAt 0).reg r = sn.ctx.reg r) ∧ (t.ctxAt 0).pc = sn.ctx.pc ∧
        t.core.streams = sn.streams ∧ t.core.tabs = sn.tabs ∧ t.core.mbox = sn.mbox ∧ t.core.spike = sn.spike ∧ t.core.tables = sn.tables ∧ t.full = sn.full ∧
        t.core.withheld = false ∧ t.bar.synced = none ∧ ∀ y ∈ t.accs, y ∈ s.accs ∧ y.ctx ≠ 0) ∧
      (s.replayable = none → s.job.running = true → ∃ t, exec (.sync sw d) s = .next t ∧ t.job.running = false)) ∧
    (s.ready [.x d] → s.bar.domain = none ∨ s.job.superstep = false ∨ s.cur ≠ 0 ∨ s.anyHelperLive = true → s.ctx.trappable →
      ∃ t, exec (.sync sw d) s = .next t ∧ t.bar = s.bar ∧ s.ctx.entered t.ctx (TrapInfo.at s.ctx.pc 0x02 0 0) s.job.trapvec) ∧
    (∀ p, s.bar.domain = some g → x.passed p = false → s.claimed = false → ∃ t, exec (.completionBroadcast g p) s = .next t ∧ t.mem = s.mem ∧ t.ctxs = s.ctxs ∧ (t.group g).node = p + 1 ∧
      t.bar.xcBase = ((s.cycle + 1) / 2 + 1) * 2 ∧ t.exchange = !s.exchange ∧
      (s.exchange = false → t.sstepCount = s.sstepCount) ∧
      (s.exchange = true → t.sstepCount = if s.core.withheld then s.sstepCount else (s.sstepCount + 1) % 2 ^ 63)) ∧
    (s.ready [] → ∃ t, exec (.fence sw c o) s = .next t ∧ { t with early := s.early } = s.setCtx t.ctx ∧ s.sameRegs t ∧ s.goesOn t sw 4 1 ∧ (∀ b ∈ s.ctx.order, b ∈ t.ctx.order) ∧
      ∀ y ∈ s.accs, y.ctx = s.cur → s.within c y.key = true →
        ((∃ f q, y.op = .load f q) → (⟨y.seq, c, true⟩ : Barrier) ∈ t.ctx.order) ∧
        ((∀ q, y.op ≠ .tagged q) → (∀ q v r, y.op ≠ .arrive q v r) → (∀ q v r, y.op ≠ .swatch q v r) → (⟨y.seq, c, false⟩ : Barrier) ∈ t.ctx.order) ∧
        (o = true → y.op.writes = true → (⟨y.seq, c, true⟩ : Barrier) ∈ t.ctx.order)) ∧
    (∀ (n m : Fin 11) (w v : Wait) (snd low : BitVec 16),
      let goes : Prop := w.kind = .push → ∀ k, k ≠ n → (s.ctxAt k).live = true → (s.blockedIn k).isSome = true
      (∀ k w', s.blockedIn k = some w' ↔ (s.ctxAt k).live = true ∧ (s.ctxAt k).wait = some w' ∧ w'.kind ≠ .other ∧ w'.delivered = none) ∧
      (s.blockedIn n = some w → goes → ∃ t, exec (.probe n) s = .next t ∧ { t with clu := s.clu } = s ∧ (∀ p ∈ s.clu.probes, p ∈ t.clu.probes) ∧
        (∀ k ∈ s.pointsTo n w, (k, BitVec.ofNat 16 (s.identity n), BitVec.ofNat 16 (s.identity n)) ∈ t.clu.probes)) ∧
      (s.blockedIn n = none → exec (.probe n) s = .next s ∧ exec (.probeReceived n snd low) s = .next s) ∧
      (s.blockedIn n = some w → ¬ goes → exec (.probe n) s = .next s ∧ (s.identity n ≠ snd.toNat → exec (.probeReceived n snd low) s = .next s)) ∧
      (s.blockedIn n = some w → s.identity n ≠ snd.toNat → goes → ∃ t, exec (.probeReceived n snd low) s = .next t ∧ { t with clu := s.clu } = s ∧
        ∀ k ∈ s.pointsTo n w, (k, snd, BitVec.ofNat 16 (Nat.min (s.identity n) low.toNat)) ∈ t.clu.probes) ∧
      (s.blockedIn n = some w → s.identity n = snd.toNat → s.identity m = low.toNat → s.blockedIn m = some v → (s.ctxAt m).trappable →
        ∃ t, exec (.probeReceived n snd low) s = .next t ∧ (∀ k, k ≠ m → t.ctxAt k = s.ctxAt k) ∧
          (s.ctxAt m).entered (t.ctxAt m) (TrapInfo.at (s.ctxAt m).pc 0x11 (BitVec.ofNat 32 (v.kind.code + v.q.toNat % 32 * 256)) (if v.kind = .ftake then v.addr else 0))
            s.job.trapvec) ∧
      (s.readX a = BitVec.ofNat 64 n.val →
        (s.blockedIn n = none → s.gives (.dlkst sw d a) [.x a, .x d] sw 4 (.x d) 0 2) ∧
        (s.blockedIn n = some w → s.gives (.dlkst sw d a) [.x a, .x d] sw 4 (.x d)
          (wide (BitVec.ofNat 64 (2 ^ 63 + w.kind.code * 2 ^ 32 + w.q.toNat * 2 ^ 24 + Nat.min (s.cycle - w.since) (2 ^ 24 - 1)))) 2))) ∧
    (s.ready [.x a, .x d] → 11 ≤ (s.readX a).toNat → s.ctx.trappable →
      ∃ t, exec (.dlkst sw d a) s = .next t ∧ s.ctx.entered t.ctx (TrapInfo.at s.ctx.pc 0x02 0 0) s.job.trapvec)

/-- R272 to R276: on a job that holds its whole cluster BBSET writes a well-formed counter or term, BBRD reads one, BBCLR clears the counters and disarms the terms of its mask, and BBPULSE pulses a source; a malformed word, or a job without the whole cluster, is an illegal operation. BBSET of a term keeps its credits and its held start (log 70).
R274, R275: a pulse waits at every counter of its source, unless a BBCLR of the same network cycle has cleared it, for the end of the bellboard's network cycle, for which the model writes a pulse of the reserved source 255 (log 36): that cycle adds the pulses that wait, saturating; a term that then holds takes its thresholds from its
counters and, unless it repeats, is disarmed, and acts 2 network cycles after the pulse (R280); what another core of the cluster has cleared is cleared; a helper's start held by a live helper runs once it has ended. -/
def Obligations.TheBellboardCountsAndFires : Prop :=
  ∀ (s : State) (sw : Bool) (a d : BitVec 5) (n : BitVec 4) (term : Bool),
    let i := n.toFin
    let w := s.readX a
    let T := s.clu.terms.get i
    let K := s.clu.counters.get i
    let calm (t : State) : Prop := t.mem = s.mem ∧ t.bar = s.bar ∧ s.sameRegs t ∧ s.goesOn t sw 4 1
    let counts (src : BitVec 8) (m : Fin 16) : Prop := (s.clu.counters.get m).was.getD (s.clu.counters.get m).src = src ∧ (s.clu.counters.get m).cleared = false
    let pulsed (t : State) (src : BitVec 8) : Prop := t.clu = { s.clu with counters := t.clu.counters, boardLast := t.clu.boardLast } ∧
      ((∃ m, counts src m) → t.cycle % 2 = 1 → .pulse 255 ∈ t.tick.agenda) ∧ ∀ m : Fin 16,
        (counts src m → t.clu.counters.get m = { s.clu.counters.get m with pulses := (s.clu.counters.get m).pulses + 1 }) ∧ (¬ counts src m → t.clu.counters.get m = s.clu.counters.get m)
    let illegal (j : Instr) : Prop := s.ctx.trappable → ∃ t, exec j s = .next t ∧ t.clu = s.clu ∧ s.ctx.entered t.ctx (TrapInfo.at s.ctx.pc 0x02 0 0) s.job.trapvec
    (s.ownsBoard = true ↔ ∀ p < 32, s.clusterCore p ∈ s.job.cores) ∧
    (s.ready [.x a, .x d] → s.ownsBoard = true →
      (s.badTerm w = false → ∃ t, exec (.bbset sw a true n) s = .next t ∧ calm t ∧ t.clu.counters = s.clu.counters ∧ (∀ m, m ≠ i → t.clu.terms.get m = s.clu.terms.get m) ∧
        t.clu.terms.get i = { T with cfg := w.setWidth 52, armed := decide (natBits w.toNat 33 32 ≠ 0), start := s.core.mbox.get 7 }) ∧
      (badCounter w = false → ∃ t, exec (.bbset sw a false n) s = .next t ∧ calm t ∧ t.clu.terms = s.clu.terms ∧ (∀ m, m ≠ i → t.clu.counters.get m = s.clu.counters.get m) ∧
        t.clu.counters.get i = { K with src := w.setWidth 8, thresh := BitVec.ofNat 16 (natBits w.toNat 23 8), was := some (K.was.getD K.src) }) ∧
      (s.badTerm w = true → illegal (.bbset sw a true n)) ∧ (badCounter w = true → illegal (.bbset sw a false n)) ∧
      (∃ t v, exec (.bbrd sw d term n) s = .next t ∧ s.formsFrom t (.x d) (wide v) 16 ∧ s.goesOn t sw 4 1 ∧ { t.clu with boardLast := s.clu.boardLast } = s.clu ∧ t.mem = s.mem ∧
        (term = false → v.getLsbD 63 = K.ovf ∧ natBits v.toNat 39 32 = K.src.toNat ∧ natBits v.toNat 31 16 = K.thresh.toNat ∧ natBits v.toNat 15 0 = K.count % 2 ^ 16) ∧
        (term = true → v.getLsbD 63 = T.armed ∧ v.getLsbD 62 = T.pend ∧ natBits v.toNat 61 54 = T.cred % 2 ^ 8 ∧ natBits v.toNat 51 0 = T.cfg.toNat)) ∧
      (∃ t, exec (.bbclr sw a) s = .next t ∧ calm t ∧ ∀ m : Fin 16,
        t.clu.counters.get m = (if w.getLsbD m.val then { s.clu.counters.get m with count := 0, ovf := false, pulses := 0, cleared := true } else s.clu.counters.get m) ∧
        t.clu.terms.get m = if w.getLsbD (16 + m.val) then { s.clu.terms.get m with armed := false } else s.clu.terms.get m) ∧
      (∃ t, exec (.bbpulse sw n) s = .next t ∧ calm t ∧ pulsed t (136 + n.setWidth 8))) ∧
    (s.ready [.x a, .x d] → s.ownsBoard = false → illegal (.bbset sw a term n) ∧ illegal (.bbrd sw d term n) ∧ illegal (.bbclr sw a) ∧ illegal (.bbpulse sw n)) ∧
    (∀ src : BitVec 8, src ≠ 255 → ∃ t, exec (.pulse src) s = .next t ∧ t.mem = s.mem ∧ t.ctxs = s.ctxs ∧ pulsed t src) ∧
    (∀ (k : Nat) (T' : BellTerm) (p : Nat) (mask : Word),
      let ks := Vector.ofFn fun m : Fin 16 => let k := s.clu.counters.get m
        ({ k with count := Nat.min (k.count + k.pulses) 65535, ovf := k.ovf || decide (65535 < k.count + k.pulses), pulses := 0, cleared := false, was := none } : BellCounter)
      let took (t : State) : Prop := ∀ m : Fin 16, t.clu.counters.get m =
        (if (T.cfg.getLsbD m.val || T.cfg.getLsbD (16 + m.val)) = true ∧ (ks.get m).thresh.toNat ≤ (ks.get m).count then
          { ks.get m with count := (ks.get m).count - (ks.get m).thresh.toNat } else ks.get m)
      let regs (t : State) : Prop := t.mem = s.mem ∧ ∀ m r, (t.ctxAt m).reg r = (s.ctxAt m).reg r
      let A := natBits T'.cfg.toNat 33 32
      ((∀ x ∈ s.clu.boardActs, s.cycle < x.1) → s.clu.boardOps = [] →
        ((∀ m, (s.clu.terms.get m).holds ks = false) → ∃ t, exec (.pulse 255) s = .next t ∧ t = { s with clu := { s.clu with counters := ks } }) ∧
        ((∀ m, m ≠ i → (s.clu.terms.get m).armed = false) → T.holds ks = true → ∃ t, exec (.pulse 255) s = .next t ∧ regs t ∧ took t ∧
          (t.clu.terms.get i).armed = T.cfg.getLsbD 51 ∧ (∀ m, m ≠ i → t.clu.terms.get m = s.clu.terms.get m) ∧ t.clu.boardActs = s.clu.boardActs ++ [(s.cycle + 2, i, T)])) ∧
      (s.clu.boardActs = [(k, i, T')] → k ≤ s.cycle → s.clu.boardOps = [] → (∀ m, (s.clu.terms.get m).armed = false) →
        ∃ t, exec (.pulse 255) s = .next t ∧ t.mem = s.mem ∧ t.clu.counters = ks ∧ t.clu.boardActs = [] ∧ (∀ m, m ≠ i → t.clu.terms.get m = s.clu.terms.get m) ∧
          (A ≠ 2 → regs t) ∧ (A = 1 → (t.clu.terms.get i).cred = Nat.min (T.cred + 1) 255) ∧
          (A = 2 → natBits T'.cfg.toNat 39 35 = s.position → ∀ h : Fin 11, h.val = natBits T'.cfg.toNat 45 42 →
            ((s.ctxAt h).live = true → (t.clu.terms.get i).pend = true ∧ regs t) ∧
            ((s.ctxAt h).live = false → (t.ctxAt h).live = true ∧ (t.ctxAt h).pc = T'.start ∧ (t.ctxAt h).reg (.x 1) = wide (BitVec.ofNat 64 i.val) ∧
              ∀ m, m ≠ h → ∀ r, (t.ctxAt m).reg r = (s.ctxAt m).reg r)) ∧
          (A = 3 → .arrival (BitVec.ofNat 5 (natBits T'.cfg.toNat 50 46)) (s.clusterCore 0) 1 none ∈ t.agenda)) ∧
      (s.clu.boardActs = [] → s.clu.boardOps = [(p, .clear mask)] → (∀ m, (s.clu.terms.get m).armed = false) →
        ∃ t, exec (.pulse 255) s = .next t ∧ regs t ∧ ∀ m : Fin 16, mask.getLsbD m.val = true → (t.clu.counters.get m).count = 0 ∧ (t.clu.counters.get m).ovf = false)) ∧
    (T.pend = true → natBits T.cfg.toNat 39 35 ≠ s.position → ∃ t, exec (.heldHelperStart n) s = .next t ∧ t.mem = s.mem ∧ t.ctxs = s.ctxs ∧
      (t.clu.terms.get i).pend = false) ∧
    (∀ h : Fin 11, T.pend = true → natBits T.cfg.toNat 39 35 = s.position → h.val = natBits T.cfg.toNat 45 42 → (s.ctxAt h).live = false →
      ∃ t, exec (.heldHelperStart n) s = .next t ∧ t.mem = s.mem ∧ (t.clu.terms.get i).pend = false ∧ (t.ctxAt h).live = true ∧ (t.ctxAt h).pc = T.start ∧
        (t.ctxAt h).reg (.x 1) = wide (n.setWidth 64) ∧ ∀ m, m ≠ h → t.ctxAt m = s.ctxAt m)

/-! ## Atomics, full/empty words, spikes and drapers (R282 to R299) -/

/-- R282, R283, R285: AMO, RED, CAS and REDV whose address passes its checks send a read-modify-write to it, REDV one for each lane that is not skipped; AMO and CAS wait for the old value, and a failed check traps, when it completes (R51), and sends nothing; an acquire's later accesses in its scope wait for the read. In the own scratchpad .core and .clu are paired with the address, and .dev and .sys are an illegal operation. R284: performed whole, it leaves the word that the operation gives
of the old one and the operand, writes the old one to xD as the type extends it, and changes no other byte; R286: the cluster unit reads first, and writes with a second access. -/
def Obligations.AtomicsReadModifyAndWrite : Prop :=
  ∀ (s u : State) (sw : Bool) (d a b : BitVec 5) (op : AtomicOp) (c : Scope) (o : Bool) (ty : AtomicTy) (p : Place) (f : AccessFault) (h : Nat) (ps : List (Nat × Place)),
    let n := match ty with | .z64 => 8 | .s64 => 8 | .z32 => 4 | .s32 => 4
    let A := s.readX a
    let start (rs : List Reg) (host : Bool) (r : Except AccessFault Place) : Prop :=
      s.ready (rs ++ [.x d]) ∧ (s.issued rs).atomicCheck host c A n = (u, r, h)
    let sent (t : State) (r : Rmw) (w : Option Nat) : Prop := t.mem = s.mem ∧ s.goesOn t sw 4 h ∧ (∀ z ∈ s.accs, z ∈ t.accs) ∧ t.accs.length = s.accs.length + 1 ∧
      ∃ y ∈ t.accs, y.ctx = s.cur ∧ y.key = p.key ∧ y.len = n ∧ y.op = .atomic r (s.readX b) w (p.splits c) ∧ y.caddr = A ∧ .accessPerformed y.seq ∈ t.agenda ∧
        (o = true → ∀ z ∈ s.accs, z.ctx = s.cur → s.within c z.key = true → (∀ q, z.op ≠ .tagged q) → (∀ q v r, z.op ≠ .arrive q v r) →
          (∀ q v r, z.op ≠ .swatch q v r) → z.seq ∈ y.after) ∧
        (o = true → w.isSome = true → ∃ m, y.acq = some m ∧ (⟨m, c, true⟩ : Barrier) ∈ t.ctx.order)
    let fails (j : Instr) : Prop := s.ctx.trappable → ∃ t, exec j s = .next t ∧ t.accs = s.accs ∧ s.failed t f h
    (start [.x a, .x b] (op = .add ∨ op = .swap) (.ok p) → ∃ t, exec (.amo sw d a b op c o ty) s = .next t ∧ s.awaits t (.x d) 0 1 ∧ sent t (.op op ty) (some s.seq)) ∧
    (start [.x a, .x b] (op = .add ∨ op = .swap) (.error f) → fails (.amo sw d a b op c o ty)) ∧
    (start [.x a, .x b] (op = .add) (.ok p) → ∃ t, exec (.red sw a b op c o ty) s = .next t ∧ s.sameRegs t ∧ sent t (.op op ty) none) ∧
    (start [.x a, .x b] (op = .add) (.error f) → fails (.red sw a b op c o ty)) ∧
    (start [.x a, .x b, .x d] true (.ok p) → ∃ t, exec (.cas sw d a b c o ty) s = .next t ∧ s.awaits t (.x d) 0 1 ∧ sent t (.cas ty (s.readX d)) (some s.seq)) ∧
    (start [.x a, .x b, .x d] true (.error f) → fails (.cas sw d a b c o ty)) ∧
    (let ix := s.readV b
     let at_ (i : Nat) : Word := A + BitVec.ofNat 64 (lane ix (8 * n) i * n)
     let lanes := (List.range (64 / n)).filter fun i => lane ix (8 * n) i ≠ 2 ^ (8 * n) - 1
     s.ready [.x a, .v b, .v d] →
      (State.checkAtomics (op = .add) c n at_ lanes (s.issued [.x a, .v b, .v d]) = (u, .error f, h) → fails (.redv sw d a b op c ty)) ∧
      (State.checkAtomics (op = .add) c n at_ lanes (s.issued [.x a, .v b, .v d]) = (u, .ok ps, h) →
      ∃ t, exec (.redv sw d a b op c ty) s = .next t ∧ s.sameRegs t ∧ s.goesOn t sw 4 h ∧ t.mem = s.mem ∧ ps.map (·.1) = lanes ∧
        t.accs.length = s.accs.length + ps.length ∧ (∀ z ∈ s.accs, z ∈ t.accs) ∧
        ∀ i q, (i, q) ∈ ps → ∃ y ∈ t.accs, y.key = q.key ∧ y.len = n ∧ y.ctx = s.cur ∧ y.caddr = at_ i ∧
          y.op = .atomic (.op op ty) (BitVec.ofNat 64 (lane (s.readV d) (8 * n) i)) none (q.splits c))) ∧
    (s.localRun A n → ∀ host, (c = .core ∨ c = .clu → s.atomicCheck host c A n =
        (s, .ok { key := scratchKey s.core.num.toNat A.toNat, core := some s.core.num, leaf := none, page := (0, 0) }, 1)) ∧
      (c = .dev ∨ c = .sys → s.atomicCheck host c A n = (s, .error { cause := 0x02, detail := 0, addr := A }, 1))) ∧
    (∀ (y : Acc) (r : Rmw) (v : Word) (w : Option Nat) (half : Bool), y ∈ s.accs → (∀ z ∈ s.accs, z.seq = y.seq → z = y) → s.canPerform y = true →
      s.answersRetry y = false → (∀ k, (s.ctxAt k).badLanes = []) → y.op = .atomic r v w half → s.badAt y.key y.len = none →
      (half = true → ∀ x ∈ s.halves, overlaps x.key x.data.length y.key y.len = false) → s.unhashed → s.core.snapshot = none →
      let old := natOfBytes (Memory.read s.mem y.key y.len)
      ∃ t, exec (.accessPerformed y.seq) s = .next t ∧ (∀ k q, (t.ctxAt k).reg q = (s.ctxAt k).reg q) ∧
        (∀ q, w = some q → (t.ctxAt y.ctx).writes = (s.ctxAt y.ctx).writes.map fun x =>
          if x.seq = q then { x with val := wide (atomicResult r.ty old), need := x.need - 1 } else x) ∧
        (half = false → (∀ z ∈ t.accs, z.seq ≠ y.seq) ∧ ∀ k, Memory.byte t.mem k =
          if y.key ≤ k ∧ k < y.key + y.len then BitVec.ofNat 8 (r.new old v / 256 ^ (k - y.key)) else Memory.byte s.mem k) ∧
        (half = true → t.mem = s.mem ∧ ∃ z ∈ t.accs, z.seq = y.seq ∧ z.key = y.key ∧ z.op = .unitWrite (bytesOfNat (r.new old v) y.len))) ∧
    (∀ (x y : BitVec 64) (v : Word), Rmw.new (.op .add .z64) x.toNat v = (x + v).toNat ∧ Rmw.new (.op .and .z64) x.toNat v = (x &&& v).toNat ∧
      Rmw.new (.op .or .z64) x.toNat v = (x ||| v).toNat ∧ Rmw.new (.op .xor .z64) x.toNat v = (x ^^^ v).toNat ∧ Rmw.new (.op .swap .z64) x.toNat v = v.toNat ∧
      Rmw.new (.op .min .z64) x.toNat v = Nat.min x.toNat v.toNat ∧ Rmw.new (.op .max .z64) x.toNat v = Nat.max x.toNat v.toNat ∧
      Rmw.new (.op .min .s64) x.toNat v = (if x.toInt ≤ v.toInt then x else v).toNat ∧ Rmw.new (.op .max .s64) x.toNat v = (if v.toInt ≤ x.toInt then x else v).toNat ∧
      Rmw.new (.cas .z64 y) x.toNat v = (if x = y then v else x).toNat)

/-- R288 to R291: FPUT into an empty word, once what it waits for is done, writes it and gives it to the oldest deferred take, or makes it full; a full word takes the fill trap. FTAKE of a full word returns it and leaves it empty; of an empty word it joins the deferred list and waits for its value. FPEEK reads the word or its bit, and FINIT writes both. A take that the list had no room for is presented again. R296 to R299: SWALLOC asks a
granted draper for a swatch, which is handed out in xD and p0, and SWSTAT reads it; a number above 127 is an illegal operation, a draper not granted a resource trap, and SWALLOC in superstep mode a phase violation before either. R249, R154: FPUT and FTAKE wait behind a watermark, and while the word's owner answers with RETRY. -/
def Obligations.FullEmptyWordsAndDrapers : Prop :=
  ∀ (s : State) (sw : Bool) (d a b : BitVec 5) (c : Scope) (k : Bool) (p : Place),
    let A := s.readX a
    let B := s.readX b
    let still (t : State) : Prop := t.mem = s.mem ∧ t.full = s.full ∧ s.goesOn t sw 4 1 ∧ ∀ z ∈ s.accs, z ∈ t.accs
    let clear : Prop := s.gated p.key 8 = false ∧ s.retried p.key = false
    (s.wordCheck A = .ok p →
      (¬ clear → (s.ready [.x a, .x b] → ∃ t, exec (.fput sw a b c) s = .next t ∧ s.waits t) ∧ (s.ready [.x a, .x d] → ∃ t, exec (.ftake sw d a c) s = .next t ∧ s.waits t)) ∧
      (clear → s.ready [.x a, .x b] → (∀ y ∈ s.accs, (s.issued [.x a, .x b]).wordWaits p.key (some c) y = false) → s.isFull p.key = false → s.unhashed → s.core.snapshot = none →
        ∃ t, exec (.fput sw a b c) s = .next t ∧ s.goesOn t sw 4 (if p.owner = s.core.num then 4 else 24) ∧ s.sameRegs t ∧
          (∀ q, Memory.byte t.mem q = if p.key ≤ q ∧ q < p.key + 8 then BitVec.ofNat 8 (B.toNat / 256 ^ (q - p.key)) else Memory.byte s.mem q) ∧
          ((∀ e ∈ s.takers, e.key ≠ p.key) → t.isFull p.key = true ∧ t.takers = s.takers) ∧
          (∀ e l r, s.takers = l ++ e :: r → (∀ x ∈ l, x.key ≠ p.key) → e.key = p.key → t.isFull p.key = false ∧ t.takers = l ++ r ∧
            (e.core = s.core.num → ∀ w, (s.ctxAt e.ctx).wait = some w → e.ctx ≠ s.cur → (t.ctxAt e.ctx).wait = some { w with delivered := some B }))) ∧
      (clear → s.ready [.x a, .x b] → (∃ y ∈ s.accs, (s.issued [.x a, .x b]).wordWaits p.key (some c) y = true) → ∃ t, exec (.fput sw a b c) s = .next t ∧ s.waits t) ∧
      (clear → s.ready [.x a, .x b] → (∀ y ∈ s.accs, (s.issued [.x a, .x b]).wordWaits p.key (some c) y = false) → s.isFull p.key = true → s.ctx.trappable →
        ∃ t, exec (.fput sw a b c) s = .next t ∧ t.full = s.full ∧ s.ctx.entered t.ctx (TrapInfo.at s.ctx.pc 0x10 0 A) s.job.trapvec) ∧
      (clear → s.ready [.x a, .x d] → (∃ y ∈ s.accs, (s.issued [.x a]).wordWaits p.key none y = true) → ∃ t, exec (.ftake sw d a c) s = .next t ∧ s.waits t) ∧
      (clear → s.ready [.x a, .x d] → (∀ y ∈ s.accs, (s.issued [.x a]).wordWaits p.key none y = false) →
        (s.isFull p.key = true → ∃ t, exec (.ftake sw d a c) s = .next t ∧ s.forms t (.x d) (wide (bitsOfBytes 64 (Memory.read s.mem p.key 8))) ∧ s.goesOn t sw 4 1 ∧
          t.isFull p.key = false ∧ (∀ q, q ≠ p.key → t.isFull q = s.isFull q) ∧ t.mem = s.mem) ∧
        (s.isFull p.key = false → s.takers.length < 64 → ∃ t w, exec (.ftake sw d a c) s = .next t ∧ t.takers = s.takers ++ [{ core := s.core.num, ctx := s.cur, key := p.key }] ∧
          t.ctx.wait = some w ∧ w.kind = .ftake ∧ w.delivered = none ∧ t.ctx.pc = s.ctx.pc ∧ s.sameRegs t ∧ t.mem = s.mem ∧ t.full = s.full)) ∧
      (s.ready [.x a, .x d] → ∃ t y, exec (.fpeek sw d a k) s = .next t ∧ s.awaits t (.x d) 0 1 ∧ still t ∧ y ∈ t.accs ∧ y.key = p.key ∧ y.len = 8 ∧ y.ctx = s.cur ∧
        y.op = if k then .fullBit s.seq else .load (.scalar .z64) s.seq) ∧
      (s.ready [.x a, .x b] → ∃ t y, exec (.finit sw a b k) s = .next t ∧ s.sameRegs t ∧ still t ∧ y ∈ t.accs ∧ y.key = p.key ∧ y.len = 8 ∧ y.ctx = s.cur ∧ y.op = .finit B k)) ∧
    (∀ w v, s.ctx.wait = some w → w.kind = .ftake → w.delivered = some v →
      ∃ t, exec (.ftake sw d a c) s = .next t ∧ s.forms t (.x d) (wide v) ∧ s.goesOn t sw 4 1 ∧ t.mem = s.mem ∧ t.full = s.full) ∧
    (∀ (n : Fin 11) (w : Wait) (key : Nat), (s.ctxAt n).wait = some w → s.stalledTake n = true → s.wordKey w.addr = some key →
      (s.gated key 8 = true ∨ s.retried key = true → exec (.takePresentedAgain n) s = .next s) ∧
      (s.gated key 8 = false → s.retried key = false →
      (s.isFull key = true → ∃ t, exec (.takePresentedAgain n) s = .next t ∧ t.isFull key = false ∧ t.mem = s.mem ∧
        (t.ctxAt n).wait = some { w with delivered := some (bitsOfBytes 64 (Memory.read s.mem key 8)) }) ∧
      (s.isFull key = false → s.takers.length < 64 → ∃ t, exec (.takePresentedAgain n) s = .next t ∧
        t = { s with takers := s.takers ++ [{ core := s.core.num, ctx := n, key }] }))) ∧
    (∀ y v f, y ∈ s.accs → (∀ z ∈ s.accs, z.seq = y.seq → z = y) → y.op = .finit v f → s.canPerform y = true → s.answersRetry y = false →
      (∀ m, (s.ctxAt m).badLanes = []) → s.unhashed → s.core.snapshot = none →
      ∃ t, exec (.accessPerformed y.seq) s = .next t ∧ t.isFull y.key = f ∧ (∀ e ∈ t.takers, e.key ≠ y.key) ∧
        ∀ q, Memory.byte t.mem q = if y.key ≤ q ∧ q < y.key + 8 then BitVec.ofNat 8 (v.toNat / 256 ^ (q - y.key)) else Memory.byte s.mem q) ∧
    (∀ g, s.ready [.x a, .x d, .p 0] → A.toNat ≤ 127 → s.draper A.toNat = some g →
      (s.job.superstep = false → ∃ t y, exec (.swalloc sw d a) s = .next t ∧ (∀ q, t.ctx.reg q = s.ctx.reg q) ∧ s.goesOn t sw 4 1 ∧ t.mem = s.mem ∧ t.drapers = s.drapers ∧
        y ∈ t.accs ∧ y.op = .swatch A.toNat s.seq (s.seq + 1) ∧ y.ctx = s.cur ∧
        (d ≠ 0 → ⟨.x d, 0, 1, s.seq, none, false, false, 0⟩ ∈ t.ctx.writes) ∧ ⟨.p 0, 0, 1, s.seq + 1, none, false, false, 0⟩ ∈ t.ctx.writes) ∧
      (∃ t v, exec (.swstat sw d a) s = .next t ∧ s.forms t (.x d) (wide v) ∧ s.goesOn t sw 4 1 ∧ t.mem = s.mem ∧ v.getLsbD 63 = true ∧ natBits v.toNat 62 60 = g.sz % 8 ∧
        natBits v.toNat 59 32 = 0 ∧ natBits v.toNat 31 0 = Nat.min g.left (2 ^ 32 - 1))) ∧
    (s.ready [.x a, .x d, .p 0] → s.job.superstep = true → s.ctx.trappable →
      ∃ t, exec (.swalloc sw d a) s = .next t ∧ s.ctx.entered t.ctx (TrapInfo.at s.ctx.pc 0x07 0 0) s.job.trapvec) ∧
    (∀ j, j = Instr.swalloc sw d a ∧ s.job.superstep = false ∨ j = .swstat sw d a → s.ready [.x a, .x d, .p 0] → s.ctx.trappable →
      (127 < A.toNat → ∃ t, exec j s = .next t ∧ s.ctx.entered t.ctx (TrapInfo.at s.ctx.pc 0x02 0 0) s.job.trapvec) ∧
      (A.toNat ≤ 127 → s.draper A.toNat = none → ∃ t, exec j s = .next t ∧ s.ctx.entered t.ctx (TrapInfo.at s.ctx.pc 0x08 3 0) s.job.trapvec)) ∧
    (∀ y n wx wp g, y ∈ s.accs → (∀ z ∈ s.accs, z.seq = y.seq → z = y) → y.op = .swatch n wx wp → wx ≠ wp → s.draper n = some g → s.canPerform y = true → s.answersRetry y = false →
      (∀ m, (s.ctxAt m).badLanes = []) →
      ∃ t, exec (.accessPerformed y.seq) s = .next t ∧ t.mem = s.mem ∧ t.draper n = some (if g.limit ≤ g.next then g else g.advance) ∧
        (t.ctxAt y.ctx).writes = (s.ctxAt y.ctx).writes.map fun x =>
          if x.seq = wx then { x with val := if g.limit ≤ g.next then 0 else BitVec.ofNat 512 g.next, need := x.need - 1 }
          else if x.seq = wp then { x with val := if g.limit ≤ g.next then 0 else wide (BitVec.allOnes 64), need := x.need - 1 } else x)

/-- R292, R293, R295: SPKCLAIM of a well-formed descriptor whose ring lies in a spike claim makes an empty spike active; SPKPUSH appends its entry, first writing the ring's oldest 256 entries as a batch of the spill area when the ring is full; SPKPOP takes up to eight of the oldest entries, reading the oldest batch back when fewer than eight are staged; SPKLEN counts them and SPKFREE ends the
spike. R300: a spill holds the context for its store's time, and a batch read back holds it for the translation of its address and adds its load's time and 32 cycles to the latency of SPKPOP (log 122). What they refuse traps, and the spike stays as it was. The ring is state of the unit, and a phase trap of a spike has CADDR 0 (logs 75 and 107). -/
def Obligations.SpikesKeepTheirEntriesInOrder : Prop :=
  ∀ (s u : State) (sw : Bool) (d a : BitVec 5) (p : Spike) (q : Place) (h : Nat),
    let A := s.readX a
    let bs := Memory.read s.mem (scratchKey s.core.num.toNat A.toNat) 32
    let calm (t : State) : Prop := s.sameRegs t ∧ s.goesOn t sw 4 1 ∧ t.accs = s.accs
    let refuses (j : Instr) (cause : BitVec 8) (detail : BitVec 32) (caddr : Word) : Prop := s.ctx.trappable →
      ∃ t, exec j s = .next t ∧ t.core.spike = s.core.spike ∧ s.ctx.entered t.ctx (TrapInfo.at s.ctx.pc cause detail caddr) s.job.trapvec
    let field (n : Nat) : Nat := natOfBytes ((bs.drop (8 * n)).take 8)
    let pow : Prop := ∃ k, 12 ≤ k ∧ k ≤ 16 ∧ field 1 = 2 ^ k
    let good : Prop := pow ∧ field 0 % field 1 = 0 ∧ field 2 % 2048 = 0 ∧ field 3 < 2 ^ 32 ∧ field 3 % 2048 = 0 ∧
      (field 3 ≠ 0 → regionOf (BitVec.ofNat 64 (field 2)) = .translated)
    let inside : Prop := ∃ c ∈ s.job.claims, c.kind = .spike ∧ c.off ≤ field 0 ∧ field 0 + field 1 + 2048 ≤ c.off + c.bytes
    let pops (t : State) (all : List Word) (n lat hold : Nat) : Prop := s.goesOn t sw 4 hold ∧ (∀ r, t.ctx.reg r = s.ctx.reg r) ∧
      ⟨.v d, ofLanes 64 8 fun i => (all.getD i 0).toNat, 0, n, some (s.cycle + lat), false, false, 0⟩ ∈ t.ctx.writes ∧
      (a ≠ 0 → ⟨.x a, wide (BitVec.ofNat 64 (Nat.min 8 all.length)), 0, n + 1, some (s.cycle + lat), false, false, 0⟩ ∈ t.ctx.writes)
    (s.ready [.x a] → A.toNat % 8 = 0 → A.toNat + 32 ≤ 0x80000 → (∀ c ∈ s.job.claims, overlaps A.toNat 32 c.off c.bytes = false) → s.accs = [] →
      s.gated (scratchKey s.core.num.toNat A.toNat) 32 = false →
      (s.core.spike = none → good → inside → ∃ t x, exec (.spkclaim sw a) s = .next t ∧ calm t ∧ t.mem = s.mem ∧ t.core = { s.core with spike := some x } ∧
        x.ring = BitVec.ofNat 19 (field 0) ∧ x.rsize = field 1 ∧ x.spill = BitVec.ofNat 64 (field 2) ∧ x.ssize = field 3 ∧ x.entries = [] ∧ x.staging = [] ∧ x.batches = 0) ∧
      (s.core.spike.isSome = true ∨ ¬ good → refuses (.spkclaim sw a) 0x02 0 0) ∧
      (s.core.spike = none → good → ¬ inside → refuses (.spkclaim sw a) 0x08 3 0)) ∧
    (s.core.spike = none → s.ready [.x a, .v d] → refuses (.spkpush sw a) 0x02 0 0 ∧ refuses (.spkpop sw d a) 0x02 0 0) ∧
    (s.core.spike = some p → s.ready [.x a, .v d] →
      (p.entries.length < p.rsize / 8 → ∃ t, exec (.spkpush sw a) s = .next t ∧ calm t ∧ t.mem = s.mem ∧
        t.core.spike = some { p with entries := p.entries ++ [A] }) ∧
      (p.rsize / 8 ≤ p.entries.length → p.ssize / 2048 ≤ p.batches → refuses (.spkpush sw a) 0x02 0 p.spill) ∧
      (p.rsize / 8 ≤ p.entries.length → p.batches < p.ssize / 2048 → s.job.superstep = true → refuses (.spkpush sw a) 0x07 0 0) ∧
      (p.rsize / 8 ≤ p.entries.length → p.batches < p.ssize / 2048 → s.job.superstep = false → s.unhashed → s.core.snapshot = none →
        (s.issued [.x a]).check .store (p.batchAddr p.batches) 2048 8 s.exchange = (u, .ok q, h) →
        ∃ t, exec (.spkpush sw a) s = .next t ∧ s.sameRegs t ∧ s.goesOn t sw 4 (Nat.max (h + Config.storeTime q.key 2048) 1) ∧ t.accs = s.accs ∧
          t.core.spike = some { p with entries := p.entries.drop 256 ++ [A], batches := p.batches + 1 } ∧
          ∀ k, Memory.byte t.mem k = if q.key ≤ k ∧ k < q.key + 8 * Nat.min 256 p.entries.length then
            BitVec.ofNat 8 ((p.entries.getD ((k - q.key) / 8) 0).toNat / 256 ^ ((k - q.key) % 8)) else Memory.byte s.mem k) ∧
      (∀ f, p.rsize / 8 ≤ p.entries.length → p.batches < p.ssize / 2048 → s.job.superstep = false → s.ctx.trappable →
        (s.issued [.x a]).check .store (p.batchAddr p.batches) 2048 8 s.exchange = (u, .error f, h) →
        ∃ t, exec (.spkpush sw a) s = .next t ∧ t.core.spike = s.core.spike ∧ s.failed t f h) ∧
      (∀ f, p.staging.length < 8 → 0 < p.batches → s.job.superstep = false → s.ctx.trappable →
        (s.issued []).check .load (p.batchAddr 0) 2048 8 s.exchange = (u, .error f, h) →
        ∃ t, exec (.spkpop sw d a) s = .next t ∧ t.core.spike = s.core.spike ∧ s.failed t f h) ∧
      (8 ≤ p.staging.length ∨ p.batches = 0 → ∃ t, exec (.spkpop sw d a) s = .next t ∧ pops t (p.staging ++ p.entries) s.seq 4 1 ∧ t.mem = s.mem ∧
        t.core.spike = some { p with staging := p.staging.drop 8, entries := p.entries.drop (8 - p.staging.length) }) ∧
      (p.staging.length < 8 → 0 < p.batches → s.job.superstep = true → refuses (.spkpop sw d a) 0x07 0 0) ∧
      (p.staging.length < 8 → 0 < p.batches → s.job.superstep = false → (s.issued []).check .load (p.batchAddr 0) 2048 8 s.exchange = (u, .ok q, h) →
        let st := p.staging ++ (List.range 256).map fun i => BitVec.ofNat 64 (natOfBytes (Memory.read s.mem (q.key + 8 * i) 8))
        ∃ t, exec (.spkpop sw d a) s = .next t ∧ pops t st s.seq (36 + h + s.loadTime q.key) h ∧ t.mem = s.mem ∧
          t.core.spike = some { p with staging := st.drop 8, head := (p.head + 1) % (p.ssize / 2048), batches := p.batches - 1 })) ∧
    s.gives (.spklen sw d) [.x d] sw 4 (.x d) (wide (match s.core.spike with
      | none => 0
      | some x => BitVec.ofNat 64 (2 ^ 63 + (x.entries.length + x.staging.length + 256 * x.batches) % 2 ^ 31 * 2 ^ 32 + 256 * x.batches % 2 ^ 29))) 2 ∧
    (s.ready [] → ∃ t, exec (.spkfree sw) s = .next t ∧ calm t ∧ t.mem = s.mem ∧ t.core = { s.core with spike := none })

/-! ## The matrix unit (R326 to R346) -/

/-- R326 to R343: a matrix command of a job with an arbiter weight passes the checks of its kind, in the order weight, legality, rows, operand spans, and the first that fails traps; one that passes joins the queue behind the others, or waits while the queue is full, and the issue side notes what it will have done. MCHK and MFLAG leave xD waiting for their result. MSTAT reads the issue side, and
MWAIT waits until no more of the context's commands are incomplete than it allows, and then acquires what the commands have written. -/
def Obligations.MatrixCommandsAreCheckedAndQueued : Prop :=
  ∀ (s : State) (sw : Bool) (d a b n : BitVec 5) (x : Bool),
    let M := s.core.matrix
    let X := s.readX a
    let Y := s.readX b
    let W := s.readX d
    let span (v : Word) (len align : Nat) : Option AccessFault := if v.toNat % align ≠ 0 then some (addressFault 3 v) else s.ownSpan v.toNat len
    let traps (j : Instr) (cause : BitVec 8) (detail : BitVec 32) (caddr : Word) : Prop := s.ctx.trappable →
      ∃ t, exec j s = .next t ∧ t.core = s.core ∧ s.ctx.entered t.ctx (TrapInfo.at s.ctx.pc cause detail caddr) s.job.trapvec
    let full : Prop := 16 ≤ M.queue.length ∨ s.core.loom.latched ≠ []
    let cmd (j : Instr) (k : MKind) (desc p q : Word) (result illegal : Bool) (rows : Option Nat) (spans : List (Option AccessFault)) (f : Matrix → Matrix) : Prop :=
      (M.weight = 0 → traps j 0x08 8 0) ∧
      (M.weight ≠ 0 → illegal = true → traps j 0x02 0 0) ∧
      (M.weight ≠ 0 → illegal = false → ∀ r, rows = some r → traps j 0x0C (BitVec.ofNat 32 r) 0) ∧
      (M.weight ≠ 0 → illegal = false → rows = none → ∀ e, spans.findSome? id = some e → traps j e.cause e.detail e.addr) ∧
      (M.weight ≠ 0 → illegal = false → rows = none → spans.findSome? id = none → full → ∃ t, exec j s = .next t ∧ s.waits t) ∧
      (M.weight ≠ 0 → illegal = false → rows = none → spans.findSome? id = none → ¬ full →
        ∃ t c, exec j s = .next t ∧ t.core.matrix = { f M with queue := M.queue ++ [c] } ∧ c.kind = k ∧ c.desc = desc ∧ c.a = p ∧ c.b = q ∧ c.ctx = s.cur ∧
          c.steps = 0 ∧ c.finished = false ∧ c.iaddr = s.ctx.pc ∧ c.mism = [] ∧ (∀ y ∈ s.accs, y.ctx = s.cur → s.within .core y.key = true → y.seq ∈ c.after) ∧
          t.mem = s.mem ∧ t.accs = s.accs ∧ s.goesOn t sw 4 1 ∧ (M.queue = [] → ∀ e ∈ t.core.matrix.next, e ∈ t.agenda) ∧
          (result = false → c.result = none ∧ s.sameRegs t) ∧ (result = true → c.result = (if d = 0 then none else some s.seq) ∧ s.awaits t (.x d) 0 1))
    s.ready [.x d, .x a, .x b] →
      cmd (.mctx sw a) (.mctx X) X 0 0 false (fmtOfWord X).isNone none [] (fun m => { m with fmtIssued := fmtOfWord X }) ∧
      (∀ f, fmtOfWord X = some f → Ty.ofCode (X.extractLsb' 0 5) = some f.fa ∧ Ty.ofCode (X.extractLsb' 8 5) = some f.fb ∧ f.sma = X.getLsbD 16 ∧ f.smb = X.getLsbD 18 ∧
        pairs f.fa f.fb = true) ∧
      cmd (.mcbk sw a x) (.mcbk x) 0 X 0 false false none [span X 32 32] (fun m => if x then { m with cbbIssued := true } else { m with cbaIssued := true }) ∧
      (M.fmtIssued = none → M.weight ≠ 0 → traps (.mmul sw d a b x) 0x02 0 0 ∧ traps (.mloads sw a) 0x02 0 0 ∧ traps (.mstream sw d a) 0x02 0 0) ∧
      (M.liveIssued = none → M.weight ≠ 0 → traps (.mstream sw d a) 0x02 0 0) ∧
      (∀ f, M.fmtIssued = some f →
        let sa := f.sma && carriesScales f.fa
        let sb := f.smb && carriesScales f.fb
        cmd (.mmul sw d a b x) (.mmul x) W X Y false
          (decide (W &&& ~~~0x70F0007FF#64 ≠ 0) || (decide (f.fa = .cb4) && !M.cbaIssued) || (decide (f.fb = .cb4) && !M.cbbIssued) || (x && badSparse f))
          (s.rowsOutside (descRow0 W) 64)
          [span X (descTiles W * if x then prunedSize f.fa else tileSize f.fa sa) 64, span Y (descTiles W * tileSize f.fb sb) 64]
          (fun m => { m with keptIssued := if W.getLsbD 32 then some (descRow0 W) else none }) ∧
        cmd (.mloads sw a) .mloads 0 X 0 false (M.shadowIssued.isSome || (decide (f.fb = .cb4) && !M.cbbIssued)) none [span X (tileSize f.fb sb) 64]
          (fun m => { m with ownIssue := true, shadowIssued := some f.fb }) ∧
        ∀ fw, M.liveIssued = some fw →
          cmd (.mstream sw d a) .mstream W X 0 false
            (decide (W &&& ~~~0x6000FF7FF#64 ≠ 0) || !M.ownIssue || !pairs f.fa fw || (decide (f.fa = .cb4) && !M.cbaIssued))
            (s.rowsOutside (descRow0 W) (descRows W)) [span X (lineBytes f.fa (descRows W) sa) 64] (fun m => { m with keptIssued := none })) ∧
      cmd (.mswap sw) .mswap 0 0 0 false (!M.ownIssue || M.shadowIssued.isNone) none [] (fun m => { m with liveIssued := m.shadowIssued, shadowIssued := none }) ∧
      cmd (.mdrain sw) .mdrain 0 0 0 false false none [] (fun m => { m with keptIssued := none }) ∧
      cmd (.acrd sw d a) .acrd W X 0 false (decide (W &&& ~~~0x4000FF7FF#64 ≠ 0)) (s.rowsOutside (descRow0 W) (descRows W)) [span X (256 * descRows W) 64]
        (fun m => { m with keptIssued := none }) ∧
      cmd (.acwr sw d a) .acwr W X 0 false (decide (W &&& ~~~0x4000FF7FF#64 ≠ 0)) (s.rowsOutside (descRow0 W) (descRows W)) [span X (256 * descRows W) 64]
        (fun m => { m with keptIssued := none }) ∧
      cmd (.mzeroAcc sw d) .mzeroAcc W 0 0 false (decide (W &&& ~~~0x4000FF7FF#64 ≠ 0)) (s.rowsOutside (descRow0 W) (descRows W)) []
        (fun m => { m with keptIssued := none }) ∧
      cmd (.mzeroSt sw) .mzeroSt 0 0 0 false false none [] (fun m => { m with ownIssue := false, shadowIssued := none, liveIssued := none }) ∧
      cmd (.mchkKat sw d) .mchkKat 0 0 0 true false none [] (fun m => { m with keptIssued := none }) ∧
      cmd (.mchkInj sw d a) .mchkInj X 0 0 true (decide (64 ≤ X.toNat)) none [] (fun m => { m with keptIssued := none }) ∧
      cmd (.mflag sw d x) (.mflag x) 0 0 0 true false none [] id ∧
      ((∀ r, M.keptIssued = some r → r < 2048) → ∃ v : Word, s.gives (.mstat sw d) [.x d] sw 4 (.x d) (wide v) 2 ∧ natBits v.toNat 4 0 = Nat.min M.queue.length 16 ∧ natBits v.toNat 19 16 = M.weight.toNat ∧
        v.getLsbD 22 = M.shadowIssued.isSome ∧ v.getLsbD 23 = M.ownIssue ∧ natBits v.toNat 39 32 = M.rflt.toNat ∧
        (∀ r, M.keptIssued = some r → v.getLsbD 20 = true ∧ natBits v.toNat 15 5 = r)) ∧
      (M.pending s.cur ≤ n.toNat → ∃ t, exec (.mwait sw n) s = .next t ∧ s.passes { t with early := s.early } sw 4 1 ∧
        ∀ e ∈ t.early, e.ctx = s.cur → s.within .core e.key = true → ∀ k ∈ e.newer, s.unitSource ∉ k) ∧
      (n.toNat < M.pending s.cur → ∃ t, exec (.mwait sw n) s = .next t ∧ s.waits t)

/-- R101, R102, R105, R330, R332 to R345: a step of the command at the head of the queue is taken once the accesses it waits for are done: MZERO.acc clears the rows it names, ACRD copies them to the scratchpad and ACWR from it, MLOADS fills the shadow plane, and the last step of an MMUL writes its rows, or keeps its tile. An integer block adds its exact sum of products, wrapped, and never a false mismatch.
Completing, a command leaves the queue, its result arrives and its bell rings; MCTX, MCBK, MZERO.st and MFLAG.clr take their effect. R337: the pair is granted to a waiting MLOADS once no other core owns it; R345: a restored core that owned it takes it again first, its planes filled from the scratchpad, and a core whose job is to be ABORTED takes no further step; MSWAP makes the shadow the live plane, and a residue fault becomes due at its context's next boundary. No register changes. A plane keeps the codebook in force at its MLOADS, and the rows of an MMUL are formed in its last step (log 78). -/
def Obligations.MatrixCommandsArePerformed : Prop :=
  ∀ (s : State) (c : MCmd) (cs : List MCmd),
    let M := s.core.matrix
    let row0 := descRow0 c.desc
    let rows := descRows c.desc
    let regs (t : State) : Prop := ∀ m r, (t.ctxAt m).reg r = (s.ctxAt m).reg r
    let word (m : Matrix) (r k : Nat) : BitVec 32 := Sparse.get 0 m.acc (r * 64 + k)
    let key := s.ownKey c.a
    let plain : Prop := s.unhashed ∧ s.core.snapshot = none ∧ s.bad = [] ∧ s.job.evicted = false ∧ M.upsets = [] ∧ M.kept = none
    let waits : Prop := ∃ y ∈ s.accs, y.seq ∈ c.after
    (M.otherOwner = true → exec .stationaryPairGrant s = .next s) ∧
    (∀ p, M.otherOwner = false → M.retake = true → M.live = some p → s.bad = [] → ∃ t, exec .stationaryPairGrant s = .next t ∧ t.mem = s.mem ∧ t.ctxs = s.ctxs ∧ t.core.matrix.own = true ∧
      t.core.matrix.retake = false ∧ t.core.matrix.acc = M.acc ∧
      t.core.matrix.live = some { p with data := Memory.read s.mem (s.ownKey p.addr) (tileSize p.fmt p.scaled) }) ∧
    (s.job.stopping = true → exec .arbiterStep s = .next s) ∧
    (M.queue = c :: cs → s.job.evicted = false → s.job.stopping = false → M.retake = false →
    (c.finished = false → c.kind.stepless = false → c.kind ≠ .mswap → (c.kind = .mloads → M.own = true) →
      (waits → ∃ t, exec .arbiterStep s = .next t ∧ t.core.matrix = { M with queue := { c with held := true } :: cs } ∧ t.mem = s.mem ∧ t.ctxs = s.ctxs) ∧
      (¬ waits → (c.kind = .acwr → s.gated key (256 * rows) = false) →
        ∃ t x, exec .arbiterStep s = .next t ∧ regs t ∧ t.core.matrix.queue = x :: cs ∧ x.kind = c.kind ∧ x.steps = c.steps + 1 ∧
          x.finished = decide (c.stepCount ≤ c.steps + 1) ∧ (if x.finished = true then Instr.matrixCommandComplete else Instr.arbiterStep) ∈ t.agenda ∧
          (plain → c.kind ≠ .acrd → (∀ f, c.kind ≠ .mmul f) → (∀ f, c.kind ≠ .task f) → c.kind ≠ .mstream → t.mem = s.mem) ∧
          (c.kind = .mzeroAcc → c.steps = 0 → rows ≤ 64 → plain → ∀ r k, r < 256 → k < 64 →
            word t.core.matrix r k = if ∃ i < rows, (row0 + i) % 256 = r then 0 else word M r k) ∧
          (c.kind = .acwr → c.steps = 0 → rows ≤ 64 → plain → ∀ i k, i < rows → k < 64 →
            word t.core.matrix ((row0 + i) % 256) k = BitVec.ofNat 32 (natOfBytes (Memory.read s.mem (key + 256 * i + 4 * k) 4))) ∧
          (c.kind = .acrd → c.steps = 0 → rows ≤ 64 → plain → t.core.matrix.acc = M.acc ∧ ∀ q, Memory.byte t.mem q =
            if key ≤ q ∧ q < key + 256 * rows then
              BitVec.ofNat 8 ((word M ((row0 + (q - key) / 256) % 256) ((q - key) % 256 / 4)).toNat / 256 ^ ((q - key) % 4)) else Memory.byte s.mem q) ∧
          (∀ f, c.kind = .mloads → M.fmt = some f → s.bad = [] → t.core.matrix.shadow = some
            { addr := c.a, fmt := f.fb, scaled := f.smb && carriesScales f.fb,
              data := Memory.read s.mem key (tileSize f.fb (f.smb && carriesScales f.fb)), book := M.cbb.getD [] }) ∧
          (∀ f sp, c.kind = .mmul sp → M.fmt = some f → c.steps + 1 = descTiles c.desc → plain →
            let sa := f.sma && carriesScales f.fa
            let sb := f.smb && carriesScales f.fb
            let p := tileProduct f sp (M.cba.getD []) (M.cbb.getD []) (descTiles c.desc)
              (Memory.read s.mem key (descTiles c.desc * if sp then prunedSize f.fa else tileSize f.fa sa))
              (Memory.read s.mem (s.ownKey c.b) (descTiles c.desc * tileSize f.fb sb))
            let out (i : Nat) : List (BitVec 32) :=
              (p.row [] i (row0 + i) 0 (if c.desc.getLsbD 33 then List.replicate 64 0 else rowOf M.acc ((row0 + i) % 256))).1
            (c.desc.getLsbD 32 = false → ∀ i k, i < 64 → k < 64 → word t.core.matrix ((row0 + i) % 256) k = (out i).getD k 0) ∧
            (c.desc.getLsbD 32 = true → t.core.matrix.acc = M.acc ∧ t.core.matrix.kept = some { row0, rows := (List.range 64).map out })))) ∧
    (∀ (xs : List (Int × Int)) (acc : BitVec 32),
      let w := acc.toInt + (xs.map fun y => y.1 * y.2).sum
      intBlock (xs.map fun y => (Val.ofInt y.1, Val.ofInt y.2)) (0, 0) acc =
        { word := BitVec.ofInt 32 w, ovf := decide (w < -2 ^ 31 ∨ 2 ^ 31 - 1 < w), bad := false }) ∧
    (c.kind = .mloads → M.own = false → M.otherOwner = false → (c.finished = false ∧ c.steps = 0) → ∃ t, exec .stationaryPairGrant s = .next t ∧ t.agenda = s.agenda ++ [.arbiterStep] ∧
      t.core.matrix = { M with own := true } ∧ t.mem = s.mem ∧ t.ctxs = s.ctxs) ∧
    (c.kind = .mswap → c.finished = false → ∃ t, exec .mswapTakesEffect s = .next t ∧ .matrixCommandComplete ∈ t.agenda ∧
      t.core.matrix = { M with live := M.shadow, shadow := none, queue := { c with finished := true } :: cs } ∧ t.mem = s.mem ∧ t.ctxs = s.ctxs) ∧
    (c.finished = true ∨ c.kind.stepless = true → ¬ waits → c.kind ≠ .acwr → c.mism = [] →
      ∃ t, exec .matrixCommandComplete s = .next t ∧ t.core.matrix.queue = cs ∧ t.core.matrix.acc = M.acc ∧ regs t ∧
        (c.kind ≠ .mchkKat → t.mem = s.mem) ∧
        (∀ q v, c.result = some q → (∀ x, c.kind = .mflag x → v = if M.iovf then 1 else 0) → (c.kind = .mchkInj → v = 1) → (c.kind = .mchkKat → v = Config.katMask M.katRuns) →
          ((∃ x, c.kind = .mflag x) ∨ c.kind = .mchkInj ∨ c.kind = .mchkKat) → (t.ctxAt c.ctx).writes = (s.ctxAt c.ctx).writes.map fun y =>
            if y.seq = q then { y with val := wide v, need := y.need - 1 } else y) ∧
        (c.desc.getLsbD 34 = true → .pulse (128 + BitVec.ofNat 8 (s.position / 8)) ∈ t.agenda) ∧
        (∀ w, c.kind = .mctx w → t.core.matrix.fmt = fmtOfWord w) ∧
        (∀ x, c.kind = .mcbk x → s.bad = [] → (if x then t.core.matrix.cbb else t.core.matrix.cba) =
          some ((List.range 16).map fun i => BitVec.ofNat 16 (natOfBytes (Memory.read s.mem (key + 2 * i) 2)))) ∧
        (c.kind = .mzeroSt → t.core.matrix.own = false ∧ t.core.matrix.shadow = none ∧ t.core.matrix.live = none) ∧
        (c.kind = .mflag true → t.core.matrix.iovf = false) ∧ (∀ e ∈ t.core.matrix.next, e ∈ t.agenda)) ∧
    (c.finished = true → ∀ m, c.mism = [m] → ¬ waits → c.kind ≠ .acwr → ∃ t, exec .matrixCommandComplete s = .next t ∧
      .matrixResidueFault c.ctx (s.residueDetail m false) c.iaddr (s.blockAddr c m.block) ∈ t.agenda)) ∧
    (∀ (k : Fin 11) (detail : BitVec 32) (iaddr caddr : Word), ∃ t, exec (.matrixResidueFault k detail iaddr caddr) s = .next t ∧ { t with ctxs := s.ctxs } = s ∧
      (∀ m, m ≠ k → t.ctxAt m = s.ctxAt m) ∧ t.ctxAt k = { s.ctxAt k with deferred := (s.ctxAt k).deferred ++
        [{ cause := 0x0D, detail, tag := none, fetch := false, next := true, ret := 0, iaddr, caddr, log := false }] })

/-! ## Looms (R347 to R360) -/

/-- R348 to R358: LMJOIN joins a loom once context 0 of every other core of the range waits to, in an area that the job claimed; a core of the range that names another size, or has executed END, makes this LMJOIN, and every later one of the range, illegal; LMJOIN #0 leaves the loom unless a weave is armed or runs; DRAFT takes a well-formed draft, WARP and WEFT a well-formed tile, LMGO arms; a core that leaves a broken loom counts none of its cores as armed any more (R357); LMWAIT waits for the weave's end and writes how it ended; LMSTAT reads the loom. Each refusal is the trap that the spec names. A weave starts when every core has
armed; each pick compares its pairs with the draft, fires the matching unfired entries in order, creates their tasks, and takes the next tiles in; the re-pick pass reads again the tiles that unfired entries name; and the weave ends, not before the re-pick pass where an entry is unfired, once the tasks are done, with MISSED due at context 0 of the core at position 0 when an entry is unfired. A tile is read when the weave or the pass starts, and a weave does not end before its pass (log 80). -/
def Obligations.LoomsWeaveTheirDrafts : Prop :=
  ∀ (s : State) (sw : Bool) (a d : BitVec 5) (n : BitVec 2),
    let L := s.core.loom
    let M := s.core.matrix
    let X := s.readX a
    let calm (t : State) (gap : Nat) : Prop := t.mem = s.mem ∧ t.accs = s.accs ∧ s.sameRegs t ∧ s.goesOn t sw 4 gap
    let becomes (t : State) (l : Loom) : Prop := t.core = { s.core with loom := l }
    let disarmed (t : State) : Prop := ∀ x ∈ t.clu.loomArmed, x.pos ∉ s.loomOthers
    let traps (j : Instr) (cause : BitVec 8) (detail : BitVec 32) (caddr : Word) : Prop := s.ctx.trappable →
      ∃ t, exec j s = .next t ∧ t.core = s.core ∧ s.ctx.entered t.ctx (TrapInfo.at s.ctx.pc cause detail caddr) s.job.trapvec
    let size := 2 ^ (n.toNat + 2)
    let others := rangeOthers s.position size
    let clash : Prop := (s.position / size * size, size) ∈ s.clu.loomClash ∨ (∃ p ∈ others, s.peerBy s.clu.ended p = true) ∨
      ∃ x ∈ s.clu.loomWait, x.since ≤ s.cycle ∧ x.n ≠ size ∧ (x.pos / size = s.position / size ∨ x.pos / x.n = s.position / x.n)
    let mates : Prop := ∀ p ∈ others, s.clusterCore p ∈ s.job.cores
    let area : Prop := ∃ c ∈ s.job.claims, c.kind = .loom ∧ c.off = X.toNat ∧ c.bytes = 65536
    let whole : Prop := L.size ≠ 0 ∧ s.loomBroken = false
    let idle : Prop := L.armed = false ∧ L.running = false
    let key := s.ownKey X
    let clear : Prop := (∀ y ∈ s.accs, y.ctx = s.cur → s.within .core y.key = false) ∧ s.bad = []
    let spanFault (len : Nat) : Option AccessFault := if X.toNat % 64 ≠ 0 then some (addressFault 3 X) else s.ownSpan X.toNat len
    (s.ready [.x a] →
      (s.cur ≠ 0 ∨ L.size ≠ 0 ∨ s.job.redun = true → traps (.lmjoin sw a n) 0x02 0 0) ∧
      (s.cur = 0 → L.size = 0 → s.job.redun = false →
        (s.job.superstep = true → traps (.lmjoin sw a n) 0x07 0 0) ∧
        (s.job.superstep = false → ¬ mates → traps (.lmjoin sw a n) 0x08 2 0) ∧
        (s.job.superstep = false → mates → ¬ area → traps (.lmjoin sw a n) 0x08 3 0) ∧
        (s.job.superstep = false → mates → area → clash → s.ctx.trappable →
          ∃ t, exec (.lmjoin sw a n) s = .next t ∧ t.core = s.core ∧ (s.position / size * size, size) ∈ t.clu.loomClash ∧
            s.ctx.entered t.ctx (TrapInfo.at s.ctx.pc 0x02 0 0) s.job.trapvec) ∧
        (s.job.superstep = false → mates → area → ¬ clash →
          (peersWait s.clu.loomWait others size s.cycle = true → ∃ t, exec (.lmjoin sw a n) s = .next t ∧ calm t 1 ∧
            becomes t { Loom.reset with size := n, lpos := s.position % size, area := BitVec.ofNat 19 X.toNat } ∧ ∀ x ∈ t.clu.loomWait, x.pos ∈ others → s.cycle < x.since) ∧
          (peersWait s.clu.loomWait others size s.cycle = false → ∃ t, exec (.lmjoin sw a n) s = .next t ∧ s.waits t)))) ∧
    (s.ready [] → s.cur ≠ 0 → traps (.lmjoinLeave sw) 0x02 0 0) ∧
    (s.ready [] → s.cur = 0 → L.size = 0 → ∃ t, exec (.lmjoinLeave sw) s = .next t ∧ calm t 1 ∧ t.core = s.core) ∧
    (s.ready [] → s.cur = 0 → L.size ≠ 0 → s.loomBroken = true ∨ s.weaving = false →
      ∃ t, exec (.lmjoinLeave sw) s = .next t ∧ calm t 1 ∧ becomes t Loom.reset ∧ disarmed t) ∧
    (s.ready [] → s.cur = 0 → L.size ≠ 0 → s.loomBroken = false → s.weaving = true → traps (.lmjoinLeave sw) 0x02 0 0) ∧
    (∀ j, j = Instr.draft sw a ∨ j = .warp sw a ∨ j = .weft sw a → s.ready [.x a] → ¬ whole ∨ ¬ idle → traps j 0x02 0 0) ∧
    (s.ready [.x a] → whole → idle →
      (∀ e, spanFault 1056 = some e → traps (.draft sw a) e.cause e.detail e.addr) ∧
      (spanFault 1056 = none → clear →
        let bs := Memory.read s.mem key 1056
        let es := (draftBlocks bs).map draftEntry
        (∀ fs, draftFormats bs = some fs → (∀ b ∈ draftBlocks bs, badEntry b = false) → (∀ e ∈ es, e.valid = true → s.rowsOutside e.trow.toNat 64 = none) →
          ∃ t, exec (.draft sw a) s = .next t ∧ calm t 24 ∧ becomes t { L with draft := some { fmts := fs, entries := es } }) ∧
        (draftFormats bs = none ∨ (∃ b ∈ draftBlocks bs, badEntry b = true) → traps (.draft sw a) 0x02 0 0)) ∧
      (∀ tile, spanFault 64 = none → clear →
        (L.injWarp = none → s.tileHeader X false (Memory.read s.mem key 16) = some tile → spanFault (64 + tileSize tile.fmt tile.sc) = none →
          ∃ t, exec (.warp sw a) s = .next t ∧ calm t 1 ∧ becomes t { L with injWarp := some tile, warps := L.warps ++ [(L.lpos, tile.id, tile.src)] }) ∧
        (L.injWeft = none → s.tileHeader X true (Memory.read s.mem key 16) = some tile → spanFault (64 + tileSize tile.fmt tile.sc) = none →
          ∃ t, exec (.weft sw a) s = .next t ∧ calm t 1 ∧ becomes t { L with injWeft := some tile })) ∧
      (spanFault 64 = none → clear → L.injWarp = none → s.tileHeader X false (Memory.read s.mem key 16) = none → traps (.warp sw a) 0x02 0 0) ∧
      (spanFault 64 = none → clear → L.injWeft = none → s.tileHeader X true (Memory.read s.mem key 16) = none → traps (.weft sw a) 0x02 0 0)) ∧
    (s.ready [.x a] → s.cur = 0 → whole →
      (L.badGo X = true → traps (.lmgo sw a) 0x02 0 0) ∧
      (L.badGo X = false → natBits X.toNat 6 0 ≠ 0 → M.weight = 0 → traps (.lmgo sw a) 0x08 8 0) ∧
      (L.badGo X = false → natBits X.toNat 6 0 = 0 ∨ M.weight ≠ 0 → (∀ f ∈ L.formats, (f.fa = .cb4 → M.cbaIssued = true) ∧ (f.fb = .cb4 → M.cbbIssued = true)) →
        ∃ t, exec (.lmgo sw a) s = .next t ∧ calm t 1 ∧ t.core.loom.armed = true ∧ t.core.loom.exp = natBits X.toNat 6 0 ∧ t.core.loom.out = 0 ∧
          t.core.loom.bell = X.getLsbD 8 ∧ (∀ e ∈ t.core.loom.entries, e.fired = false) ∧ t.core.loom.entries.length = L.entries.length)) ∧
    (s.ready [.x d] →
      (L.size = 0 → traps (.lmwait sw d) 0x02 0 0) ∧
      (L.size ≠ 0 → s.loomBroken = true → ∃ t, exec (.lmwait sw d) s = .next t ∧ s.forms t (.x d) (wide 2) ∧ s.goesOn t sw 4 1 ∧ t.core = { s.core with loom := Loom.reset } ∧ t.mem = s.mem ∧ disarmed t) ∧
      (whole → s.weaving = true → ∃ t, exec (.lmwait sw d) s = .next t ∧ s.waits t) ∧
      (whole → s.weaving = false → ∃ t, exec (.lmwait sw d) s = .next t ∧ s.forms t (.x d) (wide (if L.ms then 1 else 0)) ∧ s.goesOn t sw 4 1 ∧ t.core = s.core ∧ t.mem = s.mem) ∧
      ((L.size = 0 → s.gives (.lmstat sw d) [.x d] sw 4 (.x d) 0 2) ∧
        (L.size ≠ 0 → L.lpos < 32 → L.pick < 32 → L.out < 2 ^ 15 → L.exp < 2 ^ 16 → L.valid < 2 ^ 16 → ∃ v : Word, s.gives (.lmstat sw d) [.x d] sw 4 (.x d) (wide v) 2 ∧
          v.getLsbD 63 = true ∧ natBits v.toNat 62 61 = L.size.toNat ∧ v.getLsbD 60 = (!s.loomBroken && (L.running || L.armed)) ∧ v.getLsbD 59 = L.rp ∧ v.getLsbD 58 = L.ms ∧
          natBits v.toNat 57 53 = L.lpos ∧ natBits v.toNat 52 48 = L.pick ∧ v.getLsbD 47 = s.loomBroken ∧ natBits v.toNat 46 32 = L.out ∧
          natBits v.toNat 31 16 = L.exp ∧ natBits v.toNat 15 0 = L.valid))) ∧
    (let still (t : State) : Prop := t.mem = s.mem ∧ t.ctxs = s.ctxs
     (s.loomArmed = true → ∃ t, exec .weaveStart s = .next t ∧ still t ∧ becomes t
        { L with running := true, rp := false, passEnd := false, pick := 0, wake := none, curWarp := L.injWarp.map s.readTile, curWeft := L.injWeft.map s.readTile }) ∧
     (s.loomArmed = false → exec .weaveStart s = .next s) ∧
     (∀ (w f : Option Tile) (x y : Tile) (dr : Draft), L.running = true → L.passEnd = false → L.pick = 0 → L.last ≠ 0 → L.curWarp = some x → L.curWeft = some y → L.draft = some dr →
        let r := fireEntries dr.fmts x y 0 dr.entries
        ∃ t, exec (.pick w f) s = .next t ∧ still t ∧ t.core.loom.pick = 1 ∧ t.core.loom.draft = some { dr with entries := r.1 } ∧
          t.core.loom.out = L.out + r.2.length ∧ t.core.loom.exp = L.exp - r.2.length ∧ t.core.loom.wake = some y ∧
          t.core.loom.curWarp = w.map (fun q => { q with budget := L.last - 1 }) ∧ t.core.loom.curWeft = f.map (fun q => { q with budget := L.last - 1 }) ∧
          (L.latched = [] → M.queue.length + r.2.length ≤ 16 → t.core.matrix.queue = M.queue ++ r.2.map s.taskCommand ∧ t.core.loom.latched = []) ∧
          (L.latched ≠ [] ∨ 16 ≤ M.queue.length → t.core.matrix.queue = M.queue ∧ t.core.loom.latched = L.latched ++ r.2)) ∧
     (∀ fmts (x y : Tile) (es : List DraftEntry) (i : Nat), i < es.length →
        let e := es.getD i ⟨0, 0, 0, 0, 0, false, false, false, false⟩
        let meets : Prop := e.valid = true ∧ e.fired = false ∧ x.id = e.warp ∧ y.id = e.weft
        let out := (fireEntries fmts x y 0 es)
        out.1.length = es.length ∧
        (¬ meets → out.1[i]? = some e ∧ ∀ q ∈ out.2, q.entry ≠ i) ∧
        (∀ f, meets → fmts[e.ctx.toNat]? = some f →
          (fitsFormat f x y = true → out.1[i]? = some { e with fired := true } ∧
            { entry := i, trow := e.trow.toNat, tcol := e.tcol.toNat, fmt := f, zero := e.zero, warp := x, weft := y } ∈ out.2) ∧
          (fitsFormat f x y = false → out.1[i]? = some { e with mismatched := true } ∧ ∀ q ∈ out.2, q.entry ≠ i))) ∧
     (∀ q qs, L.latched = q :: qs → M.queue.length < 16 → ∃ t, exec .latchedTask s = .next t ∧ still t ∧ t.core.matrix.queue = M.queue ++ [s.taskCommand q] ∧
        t.core.loom.latched = qs) ∧
     (∀ w f : Option Tile, L.running = true → L.passEnd = true → L.rp = false → ∃ t, exec (.rePickPass w f) s = .next t ∧ still t ∧ t.core.loom.rp = true ∧ t.core.loom.passEnd = false ∧
        t.core.loom.pick = 0 ∧ (∀ x, L.injWarp = some x → t.core.loom.curWarp = if w.isSome = true ∨ L.wants true x.id = true then some (s.readTile x) else none) ∧
        (∀ x, L.injWeft = some x → t.core.loom.curWeft = if f.isSome = true ∨ L.wants false x.id = true then some (s.readTile x) else none)) ∧
     (∀ o, L.running = true → L.passEnd = true → L.rp = false → (L.missed o).isSome = true → exec (.weaveEnd o) s = .next s) ∧
     (∀ i e, firstUnfired 0 L.entries = some (i, e) → ∀ o, (L.missed o).isSome = true) ∧
     (∀ o, L.running = true → L.passEnd = true → L.rp = true ∨ L.missed o = none → L.out ≠ 0 → ∃ t, exec (.weaveEnd o) s = .next t ∧ still t ∧ becomes t { L with ends := some o }) ∧
     (L.running = true → L.passEnd = true → L.out = 0 →
        ((∀ e ∈ L.entries, e.valid = true → e.fired = true) → ∃ t, exec (.weaveEnd none) s = .next t ∧ still t ∧ t.core.loom.running = false ∧ t.core.loom.armed = false ∧
          t.core.loom.ms = false ∧ t.core.loom.injWarp = none ∧ t.core.loom.injWeft = none ∧
          (L.lpos = 0 → L.bell = true → .pulse (132 + BitVec.ofNat 8 (s.position / 8)) ∈ t.agenda)) ∧
        (∀ i e, L.rp = true → firstUnfired 0 L.entries = some (i, e) → L.entries.countP (fun q => q.valid && !q.fired) = 1 → ∃ t, exec (.weaveEnd none) s = .next t ∧
          t.core.loom.running = false ∧ t.core.loom.ms = true ∧ t.core.loom.exp = 0 ∧ (∀ q ∈ t.core.loom.entries, q.valid = true → q.fired = true) ∧
          (∀ m, m ≠ 0 → t.ctxAt m = s.ctxAt m) ∧ (L.lpos ≠ 0 → t.ctxAt 0 = s.ctxAt 0) ∧
          (L.lpos = 0 → (t.ctxAt 0).deferred = (s.ctxAt 0).deferred ++
            [{ cause := 0x0E, detail := BitVec.ofNat 32 (i + if e.mismatched then 2 ^ 16 else 0), tag := none,
               fetch := false, next := true, ret := 0, iaddr := L.lmgoAt, caddr := L.srcOf e.warp, log := false }]))))

/-! ## Pigeonholes (R364 to R379, R294) -/

/-- R365 to R377: on an active table of the core, PHINS, PHDEL, PHACC and PHPRB of a key that its home bucket settles replace, remove, combine and return the key's value there, the bucket's keys staying in order, and change no other byte; the vector forms perform their lanes' updates in the table's order, those of one home bucket at a time, and wait between two buckets (R374); an operation that fails takes its trap. R376, R378: an operation waits for its turn at the unit, and while the table's core answers with RETRY. An address that is no base of an active table is an
illegal operation that names it, and the reserved key is illegal. PHCLAIM makes a well-formed table of the own core, named by either window, active with every bucket empty, PHFREE ends it once no other core's form is under way on it, and PHDRN stores its entries in order and counts them. R294: SPKINS inserts an absent key with value 0 and pushes it, and reports a present one. The store times in the hold of PHDRN are free values (log 122), the table is checked before the reserved key (log 81), and a TABLE outside both windows is the resource trap (log 140). -/
def Obligations.PigeonholesKeepOneValueForAKey : Prop :=
  ∀ (s u : State) (sw : Bool) (d a b : BitVec 5) (op : PhAcc) (T : PhTable) (f : AccessFault) (rs : List (Word × Option Word)) (h : Nat),
    let X := s.readX a
    let K := s.readX b
    let D := s.readX d
    let P : PhPlace := { owner := s.core.num, table := T }
    let home (k : Word) : Nat := scratchKey s.core.num.toNat (T.base + 128 * T.home k)
    let bucket (m : List Host.Cell) (k : Word) : Bucket := bucketOf (Memory.read m (home k) 128)
    let at_ (x : Word) : Prop := s.core.tables.find? (fun t => decide (t.base = x.toNat)) = some T ∧ x.toNat < 0x80000
    let plain : Prop := s.accs = [] ∧ s.unhashed ∧ s.core.snapshot = none
    let turn : Prop := s.ctx.ph = none ∧ s.tableBusy P = false ∧ s.retried (P.homeKey 0) = false ∧ s.phTurn P = true
    let traps (j : Instr) (cause : BitVec 8) (detail : BitVec 32) (caddr : Word) : Prop := s.ctx.trappable →
      ∃ t, exec j s = .next t ∧ s.ctx.entered t.ctx (TrapInfo.at s.ctx.pc cause detail caddr) s.job.trapvec
    let old := findKey (bucket s.mem K).items K
    let changed (t : State) (k : Word) (v : Option Word) : Prop :=
      (bucket t.mem k) = { items := setKey (bucket s.mem k).items k v, spilled := (bucket s.mem k).spilled } ∧
      ∀ q, q < home k ∨ home k + 128 ≤ q → Memory.byte t.mem q = Memory.byte s.mem q
    let scalar (j : Instr) (o : PhOp) : Prop := needsSpill (bucket s.mem K) K o = false → (bucket s.mem K).items.Pairwise (fun p q => p.1.toNat < q.1.toNat) →
      ∃ t, exec j s = .next t ∧ s.sameRegs t ∧ s.goesOn t sw 4 6 ∧ t.accs = [] ∧ changed t K (o.result old)
    (∀ v j, j ∈ [Instr.phins sw d a b v, .phdel sw a b v, .phacc sw d a b op v, .phprb sw d a b v, .phfree sw a, .phdrn sw d a b v] →
      s.ready [.x a, .x b, .v b, .x d, .v d, .p 0] → at_ X → plain → s.ctx.ph = none → ¬ turn →
      ∃ t, exec j s = .next t ∧ s.waits t) ∧
    (s.ready [.x a, .x b, .x d, .p 0] → at_ X → plain → turn → K ≠ BitVec.allOnes 64 →
      scalar (.phins sw d a b false) (.ins D) ∧ scalar (.phdel sw a b false) .del ∧ scalar (.phacc sw d a b op false) (.acc op D) ∧
      (needsSpill (bucket s.mem K) K .prb = false → ∃ t, exec (.phprb sw d a b false) s = .next t ∧ t.mem = s.mem ∧ s.goesOn t sw 4 6 ∧
        (∀ r, t.ctx.reg r = s.ctx.reg r) ∧ (d ≠ 0 → ⟨.x d, wide (old.getD 0), 0, s.seq, none, false, false, 0⟩ ∈ t.ctx.writes) ∧
        ⟨.p 0, wide (if old.isSome then BitVec.allOnes 64 else 0), 0, s.seq + 1, none, false, false, 0⟩ ∈ t.ctx.writes)) ∧
    (∀ (l : List (Word × Word)) (k v : Word) (x y : Word), findKey (setKey l k (some v)) k = some v ∧ findKey (setKey l k none) k = none ∧
      (∀ q, q ≠ k → findKey (setKey l k (some v)) q = findKey l q ∧ findKey (setKey l k none) q = findKey l q) ∧
      (PhOp.ins v).result (some x) = some v ∧ (PhOp.ins v).result none = some v ∧ PhOp.del.result (some x) = none ∧ PhOp.prb.result (some x) = some x ∧
      (∀ o, (PhOp.acc o v).result none = some v) ∧ (PhOp.acc .addS64 y).result (some x) = some (x + y) ∧ (PhOp.acc .orZ64 y).result (some x) = some (x ||| y) ∧
      (PhOp.acc .minS64 y).result (some x) = some (if x.toInt ≤ y.toInt then x else y) ∧ (PhOp.acc .maxS64 y).result (some x) = some (if y.toInt ≤ x.toInt then x else y) ∧
      (PhOp.acc .minZ64 y).result (some x) = some (if x.toNat ≤ y.toNat then x else y) ∧ (PhOp.acc .maxZ64 y).result (some x) = some (if y.toNat ≤ x.toNat then x else y)) ∧
    (let vk (i : Nat) : Word := BitVec.ofNat 64 (lane (s.readV b) 64 i)
     let vd (i : Nat) : Word := BitVec.ofNat 64 (lane (s.readV d) 64 i)
     let now : PhRun := s.ctx.ph.getD { owner := s.core.num, base := T.base, done := [], got := [] }
     let left (mk : Nat → PhOp) : List PhUpdate := (phUpdates T vk mk).filter fun x => !(x.lanes.any fun i => decide (i ∈ now.done))
     let next (mk : Nat → PhOp) : List PhUpdate := (left mk).filter fun x => some (T.home x.key) = (left mk).head?.map fun y => T.home y.key
     let last (mk : Nat → PhOp) : Prop := ∀ x ∈ left mk, x ∈ next mk
     let at0 (rd : List Reg) : State := if s.ctx.ph.isSome then s else ((if s.ctx.wait.isSome then s else s.issued rd).acquire .sys).countPh P
     let runs (rd : List Reg) (mk : Nat → PhOp) (r : Except AccessFault (List (Word × Option Word))) : Prop :=
       State.phRun P (next mk) now.done (at0 rd) = (u, r, h)
     let goesOnLater (j : Instr) (rd : List Reg) (mk : Nat → PhOp) : Prop :=
       (runs rd mk (.ok rs) → ¬ last mk → ∃ t, exec j s = .next t ∧ t.mem = u.mem ∧ s.sameRegs t ∧ t.ctx.wait.isSome = true ∧ t.ctx.pc = s.ctx.pc ∧
         t.ctx.nextIssue = s.cycle + 2 + h ∧ t.ctx.ph = some { now with done := now.done ++ (next mk).flatMap (·.lanes), got := now.got ++ rs }) ∧
       (runs rd mk (.error f) → s.ctx.trappable → ∃ t, exec j s = .next t ∧ t.ctx.ph = none ∧
         (h ≤ 1 → s.ctx.entered t.ctx (TrapInfo.at s.ctx.pc f.cause f.detail f.addr) s.job.trapvec) ∧
         (1 < h → t.ctx.nextIssue = s.cycle + (h - 1) ∧ t.ctx.trapping = some (TrapInfo.at s.ctx.pc f.cause f.detail f.addr)))
     let vector (j : Instr) (rd : List Reg) (mk : Nat → PhOp) : Prop :=
       (runs rd mk (.ok rs) → last mk → ∃ t, exec j s = .next t ∧ t.mem = u.mem ∧ s.sameRegs t ∧ t.ctx.ph = none ∧ s.goesOn t sw 4 (s.phHold P (8 + h))) ∧
       goesOnLater j rd mk
     (s.ctx.wait = none → s.phHold P (8 + h) = 8 + h) ∧
     (s.ready [.x a, .v b, .v d, .p 0] → at_ X → plain → turn → (∃ i < 8, vk i = BitVec.allOnes 64) →
       ∀ j, j = Instr.phins sw d a b true ∨ j = .phdel sw a b true ∨ j = .phacc sw d a b op true ∨ j = .phprb sw d a b true → traps j 0x02 0 0) ∧
     ((s.ready [.x a, .v b, .v d, .p 0] ∧ turn) ∨ (s.ctx.wait.isSome = true ∧ (s.ctx.ph.isSome = true ∨ turn ∧ s.resends = true)) →
       at_ X → plain → (∀ i < 8, vk i ≠ BitVec.allOnes 64) →
       vector (.phins sw d a b true) [.x a, .v b, .v d] (fun i => .ins (vd i)) ∧ vector (.phdel sw a b true) [.x a, .v b] (fun _ => .del) ∧
       vector (.phacc sw d a b op true) [.x a, .v b, .v d] (fun i => .acc op (vd i)) ∧
       goesOnLater (.phprb sw d a b true) [.x a, .v b] (fun _ => .prb) ∧
       (runs [.x a, .v b] (fun _ => .prb) (.ok rs) → last (fun _ => .prb) → ∃ t, exec (.phprb sw d a b true) s = .next t ∧ t.mem = u.mem ∧
         let all := now.got ++ rs
         t.ctx.ph = none ∧ s.goesOn t sw 4 (s.phHold P (8 + h)) ∧ (∀ r, t.ctx.reg r = s.ctx.reg r) ∧
         ⟨.v d, ofLanes 64 8 fun i => ((probed all (vk i)).getD 0).toNat, 0, s.seq, none, false, false, 0⟩ ∈ t.ctx.writes ∧
         ∃ w ∈ t.ctx.writes, w.reg = .p 0 ∧ ∀ i, w.val.getLsbD i = if i < 8 then (probed all (vk i)).isSome else (wide (s.readP 0)).getLsbD i))) ∧
    (∀ j, j = Instr.phins sw d a b false ∨ j = .phdel sw a b false ∨ j = .phacc sw d a b op false ∨ j = .phprb sw d a b false →
      s.ready [.x a, .x b, .x d, .p 0] → X.toNat < 0x80000 →
      (s.core.tables.find? (fun t => decide (t.base = X.toNat)) = none → traps j 0x02 0 X) ∧ (at_ X → plain → turn → K = BitVec.allOnes 64 → traps j 0x02 0 0)) ∧
    (let bs := Memory.read s.mem (scratchKey s.core.num.toNat X.toNat) 32
     let w1 := fieldAt bs 8 8
     let B := fieldAt bs 0 8
     let window := 0x1000000 + s.position * 0x80000
     let own : Option Nat := if B < 0x80000 then some B else if window ≤ B ∧ B < window + 0x80000 then some (B - window) else none
     let other : Prop := own = none ∧ 0x1000000 ≤ B ∧ B < 0x2000000
     let N : PhTable := { base := own.getD 0, b := natBits w1 3 0, c := natBits w1 11 8, spill := BitVec.ofNat 64 (fieldAt bs 16 8) }
     let i0 := (s.issued [.x a]).dropEarly s.cur (scratchKey s.core.num.toNat X.toNat) 32
     let pages := (List.range ((128 * 2 ^ N.c + 65535) / 65536)).map fun i => BitVec.ofNat 64 (N.spill.toNat + 65536 * i)
     let time (w : Bool) (v : Word) : Nat := (i0.check (.spill w) v 1 1 s.exchange).2.2
     let good : Prop := natBits w1 7 4 = 0 ∧ natBits w1 63 12 = 0 ∧ fieldAt bs 24 8 = 0 ∧ 5 ≤ N.b ∧ N.b ≤ 11 ∧ N.c ≤ N.b ∧
       regionOf N.spill = .translated ∧ N.spill.toNat % (128 * 2 ^ N.c) = 0
     let claim : Prop := ∃ k ∈ s.job.claims, k.kind = .pigeonhole ∧ k.off = N.base ∧ k.bytes = 128 * 2 ^ N.b
     s.ready [.x a] → X.toNat % 8 = 0 → X.toNat + 32 ≤ 0x80000 → (∀ k ∈ s.job.claims, overlaps X.toNat 32 k.off k.bytes = false) → plain →
       s.gated (scratchKey s.core.num.toNat X.toNat) 32 = false →
       (¬ good ∨ (own.isSome = true ∧ ∃ t ∈ s.core.tables, t.base = N.base) ∨ other → traps (.phclaim sw a) 0x02 0 0) ∧
       (good → ¬ other → (own.isSome = true → ∀ t ∈ s.core.tables, t.base ≠ N.base) → own = none ∨ ¬ claim ∨ 4 ≤ s.core.tables.length → traps (.phclaim sw a) 0x08 3 0) ∧
       (good → own.isSome = true → (∀ t ∈ s.core.tables, t.base ≠ N.base) → claim → s.core.tables.length < 4 → s.computePhase = false → (∀ k, (s.core.counters.get k).en = false) →
         (∀ w v, N.spill.toNat ≤ v.toNat → v.toNat < N.spill.toNat + 128 * 2 ^ N.c → ∃ q h, i0.check (.spill w) v 1 1 s.exchange = (i0, .ok q, h)) →
         (∀ i < 2 ^ N.c, ∃ q h, i0.check (.spill true) (N.spillAddr i) 128 128 s.exchange = (i0, .ok q, h) ∧ q.key + 128 ≤ Config.scratchBase) →
         ∃ t, exec (.phclaim sw a) s = .next t ∧ t.core = { s.core with tables := s.core.tables ++ [N] } ∧ s.sameRegs t ∧
           s.goesOn t sw 4 (4 * 2 ^ N.b + (pages.map fun v => time true v + time false v).sum + ((List.range (2 ^ N.c)).map fun i => (i0.spillAccess { owner := s.core.num, table := N } i true).2.2).sum) ∧
           ∀ j < 2 ^ N.b, bucketOf (Memory.read t.mem (scratchKey s.core.num.toNat (N.base + 128 * j)) 128) = Bucket.empty)) ∧
    (s.ready [.x a] → at_ X → plain → turn → (∃ y ∈ s.core.unit, y.started = true ∧ y.op.table = some T.base) → ∃ t, exec (.phfree sw a) s = .next t ∧ s.waits t) ∧
    (s.ready [.x a] → at_ X → plain → turn → (∀ y ∈ s.core.unit, ¬ (y.started = true ∧ y.op.table = some T.base)) → ∃ t, exec (.phfree sw a) s = .next t ∧ t.core = { s.core with tables := t.core.tables } ∧ t.mem = s.mem ∧ s.sameRegs t ∧ s.goesOn t sw 4 1 ∧
      ∀ x, x ∈ t.core.tables ↔ x ∈ s.core.tables ∧ x ≠ T) ∧
    (let es := (List.range (2 ^ T.b)).flatMap fun j => sortKeys (bucketOf (Memory.read s.mem (scratchKey s.core.num.toNat (T.base + 128 * j)) 128)).items
     s.ready [.x a, .x b, .x d] → at_ X → plain → turn → (∀ j < 2 ^ T.b, (bucketOf (Memory.read s.mem (scratchKey s.core.num.toNat (T.base + 128 * j)) 128)).spilled = 0) →
       K.toNat % 16 = 0 → K.toNat + 16 * es.length ≤ 0x80000 → (∀ k ∈ s.job.claims, overlaps K.toNat (16 * es.length) k.off k.bytes = false) →
       ∃ t, exec (.phdrn sw d a b false) s = .next t ∧ t.mem = s.mem ∧ (∀ r, t.ctx.reg r = s.ctx.reg r) ∧ s.goesOn t sw 4 (8 + 2 * es.length + ((List.range es.length).map fun i => 1 + Config.storeTime (scratchKey s.core.num.toNat (K.toNat + 16 * i)) 16).sum) ∧ t.accs.length = 2 * es.length ∧
         (d ≠ 0 → ∃ w ∈ t.ctx.writes, w.reg = .x d ∧ w.val = BitVec.ofNat 512 es.length ∧ w.need = 0) ∧
         ∀ i e, es[i]? = some e → ∃ y ∈ t.accs, ∃ z ∈ t.accs, y.key = scratchKey s.core.num.toNat (K.toNat + 16 * i) ∧ y.op = .store (bytesOfNat e.1.toNat 8) ∧
           z.key = y.key + 8 ∧ z.op = .store (bytesOfNat e.2.toNat 8)) ∧
    (let found := findKey (bucket s.mem X).items X
     s.ready [.x a, .x b, .x d] → at_ K → plain → turn → X ≠ BitVec.allOnes 64 → (found = none → (bucket s.mem X).spilled = 0) →
       (found.isSome = true → s.core.spike.isSome = true → ∃ t, exec (.spkins sw d a b) s = .next t ∧ t.mem = s.mem ∧ t.core.spike = s.core.spike ∧ s.lands t (.x d) 0 8 ∧ s.goesOn t sw 4 8) ∧
       (∀ p, found = none → s.core.spike = some p → p.entries.length < p.rsize / 8 → (bucket s.mem X).items.length < 7 →
         ∃ t, exec (.spkins sw d a b) s = .next t ∧ changed t X (some 0) ∧ t.core.spike = some { p with entries := p.entries ++ [X] } ∧ s.lands t (.x d) 1 8 ∧ s.goesOn t sw 4 8) ∧
       (s.core.spike = none → traps (.spkins sw d a b) 0x02 0 0))

/-! ## The network (R383 to R398) -/

/-- R384 to R387, R396, R398: RWIN opens a port for the context and closes one without route or words; POPEN binds the context to a port of a core of the job. PSEND puts its words into the port, opening the packet's route first, and its closing marker after them when it closes, or takes an allowance of another core's port for each; without a route it waits in line, and it is a release. PRECV takes the oldest words of the
context's port up to the packet's end, which p0 shows, or waits. PSTAT reads both ends. A refusal takes the trap that the spec names; all but PSTAT are phase violations in superstep mode. Words, markers, aborts and allowances of other cores change the port or the binding that they name. A closing word is held until its marker has come, SST stays 3 until the .E of the aborted packet, and a PSEND to a port of this core enters it at once (log 83). -/
def Obligations.PortsCarryPackets : Prop :=
  ∀ (s : State) (sw : Bool) (a d : BitVec 5) (n : BitVec 2) (v e : Bool),
    let X := s.readX a
    let p := s.port n
    let B := s.ctx.send
    let q := s.port B.port
    let ws : List Word := if v then (List.range 8).map fun i => BitVec.ofNat 64 (lane (s.readV a) 64 i) else [X]
    let room (t : State) (m : BitVec 2) : Prop := ∀ k, k ≠ m → t.port k = s.port k
    let calm (t : State) (gap : Nat) : Prop := t.mem = s.mem ∧ t.accs = s.accs ∧ s.sameRegs t ∧ s.goesOn t sw 4 gap
    let traps (j : Instr) (cause : BitVec 8) (detail : BitVec 32) (caddr : Word) : Prop := s.ctx.trappable →
      ∃ t, exec j s = .next t ∧ t.core = s.core ∧ s.ctx.entered t.ctx (TrapInfo.at s.ctx.pc cause detail caddr) s.job.trapvec
    let R : Reg := if v then .v d else .x d
    let gives (t : State) (xs : List Word) (flag : Bool) : Prop := (∀ r, t.ctx.reg r = s.ctx.reg r) ∧ s.goesOn t sw 4 1 ∧ t.mem = s.mem ∧
      (R ≠ .x 0 → ⟨R, if v then ofLanes 64 8 fun i => (xs.getD i 0).toNat else wide (xs.headD 0), 0, s.seq, some (s.cycle + 2), false, true, 0⟩ ∈ t.ctx.writes) ∧
      ⟨.p 0, wide ((if flag then 0xFFFFFFFFFFFFFF00#64 else 0) ||| BitVec.ofNat 64 (2 ^ xs.length - 1)), 0, s.seq + 1, some (s.cycle + 2), false, true, 0⟩ ∈ t.ctx.writes
    let opens (g : Nat) : Port := { p with state := .route, rw := 1, given := g - 1, requests := p.requests.drop 1 }
    let bound : Prop := B.sst ≠ 0 ∧ (B.sst = 3 → B.words = 0)
    let fits : Prop := B.words + ws.length < 256 ∨ B.words + ws.length = 256 ∧ e = true
    let free : Prop := bound ∧ fits ∧ ∀ y ∈ s.accs, s.beforeClosing e y = false
    (∀ j, j = Instr.rwin sw a n ∨ j = .popen sw a ∨ j = .psend sw a v e ∨ j = .precv sw d v n ∨ j = .mcast sw d a a →
      s.ready [.x a, .v a, .x d, .v d, .p 0] → s.job.superstep = true → traps j 0x07 0 0) ∧
    (s.ready [.x a] → s.job.superstep = false →
      (X = 1 → p.state = .closed → ∃ t, exec (.rwin sw a n) s = .next t ∧ calm t 1 ∧ room t n ∧ (t.port n).state = .opened ∧ (t.port n).rctx = s.cur ∧ (t.port n).buf = [] ∧ (t.port n).requests = p.requests) ∧
      (X = 1 → p.state ≠ .closed → p.rctx = s.cur → ∃ t, exec (.rwin sw a n) s = .next t ∧ s.passes t sw 4 1) ∧
      (X = 1 → p.state ≠ .closed → p.rctx ≠ s.cur → traps (.rwin sw a n) 0x02 0 0) ∧
      (X = 0 → p.state ≠ .route → p.waiting = 0 → ∃ t, exec (.rwin sw a n) s = .next t ∧ calm t 1 ∧ room t n ∧ (t.port n).state = .closed ∧ (t.port n).requests = p.requests) ∧
      (X = 0 → p.state = .route ∨ 0 < p.waiting → traps (.rwin sw a n) 0x02 0 0) ∧
      (X ≠ 0 → X ≠ 1 → traps (.rwin sw a n) 0x02 0 0)) ∧
    (s.ready [.x a] → s.job.superstep = false →
      (X &&& ~~~0x30FFF#64 ≠ 0 → traps (.popen sw a) 0x02 0 0) ∧
      (X &&& ~~~0x30FFF#64 = 0 → 3072 ≤ (X.setWidth 12).toNat ∨ X.setWidth 12 ∉ s.job.cores → traps (.popen sw a) 0x02 0 X) ∧
      (X &&& ~~~0x30FFF#64 = 0 → (X.setWidth 12).toNat < 3072 → X.setWidth 12 ∈ s.job.cores →
        (B.sst = 2 → traps (.popen sw a) 0x02 0 0) ∧
        (B.sst ≠ 2 → ∃ t, exec (.popen sw a) s = .next t ∧ calm t 1 ∧ t.core = s.core ∧
          t.ctx.send = { sst := 1, core := X.setWidth 12, port := X.extractLsb' 16 2, words := 0, allow := 0 }))) ∧
    (s.ready [.x a, .v a] → s.job.superstep = false →
      (B.sst = 0 → traps (.psend sw a v e) 0x02 0 0) ∧
      (bound → ¬ fits → s.ctx.trappable → ∃ t, exec (.psend sw a v e) s = .next t ∧ t.core = s.core ∧
        s.ctx.entered t.ctx (TrapInfo.at s.ctx.pc 0x14 0 0) s.job.trapvec ∧ t.ctx.send = if B.sst = 3 then { B with sst := 1 } else B) ∧
      (B.sst = 3 → 0 < B.words → ∃ t, exec (.psend sw a v e) s = .next t ∧ calm t ws.length ∧ t.core = s.core ∧ t.ctx.send = if e then { B with words := 0 } else B) ∧
      (B.sst = 1 ∨ B.sst = 2 → fits → (∃ y ∈ s.accs, s.beforeClosing e y = true) → ∃ t, exec (.psend sw a v e) s = .next t ∧ s.waits t) ∧
      (free →
        (B.core = s.core.num → B.words = 0 → q.state = .opened → q.requests = [] ∨ q.requests.head? = some (s.core.num, s.cur) →
            q.waiting + q.owed + ws.length ≤ 64 → ∃ t, exec (.psend sw a v e) s = .next t ∧ calm t ws.length ∧ room t B.port ∧
          (t.port B.port).buf = q.buf ++ ws.map some ++ (if e then [none] else []) ∧ (t.port B.port).rw = ws.length ∧
          (e = false → (t.port B.port).state = .route ∧ (t.port B.port).rsrc = s.core.num ∧ (t.port B.port).given = 64 - q.waiting - q.owed - ws.length ∧ t.ctx.send.sst = 2 ∧
            t.ctx.send.words = ws.length) ∧
          (e = true → (t.port B.port).state = .opened ∧ t.ctx.send.sst = 1 ∧ t.ctx.send.words = 0)) ∧
        (B.core = s.core.num → 0 < B.words → ws.length ≤ q.given → ∃ t, exec (.psend sw a v e) s = .next t ∧ calm t ws.length ∧ room t B.port ∧
          (t.port B.port).buf = q.buf ++ ws.map some ++ (if e then [none] else []) ∧
          (e = false → (t.port B.port).state = q.state ∧ (t.port B.port).given = q.given - ws.length ∧ (t.port B.port).rw = q.rw + ws.length ∧
            t.ctx.send.words = B.words + ws.length) ∧
          (e = true → (t.port B.port).state = .opened ∧ t.ctx.send.sst = 1 ∧ t.ctx.send.words = 0)) ∧
        (B.core = s.core.num → 0 < B.words → q.given = 0 → s.job.evicted = false → ∃ t w, exec (.psend sw a v e) s = .next t ∧ t.ctx.wait = some w ∧ w.kind = .psend ∧
          t.ctx.pc = s.ctx.pc ∧ t.core = s.core ∧ s.sameRegs t ∧ t.mem = s.mem) ∧
        (B.core = s.core.num → B.words = 0 → q.state ≠ .opened ∨ (∃ r, q.requests.head? = some r ∧ r ≠ (s.core.num, s.cur)) → ∃ t w, exec (.psend sw a v e) s = .next t ∧ t.ctx.wait = some w ∧ w.kind = .psend ∧ t.ctx.pc = s.ctx.pc ∧
          (s.core.num, s.cur) ∈ (t.port B.port).requests ∧ (t.port B.port).buf = q.buf ∧ s.sameRegs t ∧ t.mem = s.mem) ∧
        (B.core ≠ s.core.num → ws.length ≤ B.allow → ∃ t, exec (.psend sw a v e) s = .next t ∧ calm t ws.length ∧ (∀ k, t.port k = s.port k) ∧
          t.ctx.send = if e then { B with sst := 1, words := 0, allow := 0 } else { B with sst := 2, words := B.words + ws.length, allow := B.allow - ws.length }) ∧
        (B.core ≠ s.core.num → B.allow = 0 → ∃ t w, exec (.psend sw a v e) s = .next t ∧ t.ctx.wait = some w ∧ w.kind = .psend ∧ t.ctx.pc = s.ctx.pc ∧ s.sameRegs t ∧ t.mem = s.mem))) ∧
    (s.ready [R, .p 0] → s.job.superstep = false →
      (p.state = .closed ∨ p.rctx ≠ s.cur → traps (.precv sw d v n) 0x02 0 0) ∧
      (p.state ≠ .closed → p.rctx = s.cur →
        let r := takeWords p.ending (if v then 8 else 1) p.buf
        (r.1 ≠ [] → ∃ t, exec (.precv sw d v n) s = .next t ∧ gives t r.1 r.2.2 ∧ room t n ∧ (t.port n).buf = r.2.1 ∧ (t.port n).state = p.state ∧
          (p.state = .route → (t.port n).given = p.given + r.1.length)) ∧
        (r.1 = [] → p.state = .aborted → ∃ t, exec (.precv sw d v n) s = .next t ∧ gives t [] true ∧ room t n ∧ (t.port n).state = .opened ∧ (t.port n).buf = []) ∧
        (r.1 = [] → p.state ≠ .aborted → ∃ t, exec (.precv sw d v n) s = .next t ∧ s.waits t))) ∧
    (∀ (xs : List Word) (l : List (Option Word)) (k : Nat), (xs.length ≤ k → takeWords false k (xs.map some ++ none :: l) = (xs, l, true)) ∧
      (takeWords false xs.length (xs.map some ++ l.filter Option.isSome) = (xs, l.filter Option.isSome, false)) ∧
      (xs ≠ [] → takeWords true k (xs.map some) = ((xs.dropLast).take k, (xs.drop (Nat.min k (xs.length - 1))).map some, false))) ∧
    (B.words < 512 → p.rw < 512 → ∃ w : Word, s.gives (.pstat sw d n) [.x d] sw 4 (.x d) (wide w) 2 ∧
      natBits w.toNat 63 62 = B.sst.toNat ∧ natBits w.toNat 61 53 = B.words ∧ natBits w.toNat 52 41 = B.core.toNat ∧ natBits w.toNat 40 39 = B.port.toNat ∧
      natBits w.toNat 35 34 = p.state.code ∧ natBits w.toNat 33 30 = p.rctx.val ∧ natBits w.toNat 29 18 = p.rsrc.toNat ∧ natBits w.toNat 17 9 = p.rw ∧ natBits w.toNat 6 0 = Nat.min p.waiting 64) ∧
    (let still (t : State) : Prop := t.mem = s.mem ∧ t.accs = s.accs ∧ ∀ m r, (t.ctxAt m).reg r = (s.ctxAt m).reg r
     ∀ (src : BitVec 12) (w : Word) (c : Fin 11) (k : Nat),
      (p.state = .opened → p.waiting + p.owed < 64 → s.job.evicted = false → (∀ r, p.requests.head? = some r → r.1 = src) →
        ∃ t, exec (.portWordArrival n src w e) s = .next t ∧ still t ∧ room t n ∧
          t.port n = { opens (64 - p.waiting - p.owed) with rsrc := src, buf := p.buf ++ [some w], ending := e } ∧ (e = true → .closingMarker n ∈ t.agenda)) ∧
      (p.state = .opened → 64 ≤ p.waiting + p.owed ∨ s.job.evicted = true ∨ (∃ r, p.requests.head? = some r ∧ r.1 ≠ src) → exec (.portWordArrival n src w e) s = .next s) ∧
      (p.state = .route → p.rsrc = src → 0 < p.given ∨ s.job.evicted = true → p.ending = false → ∃ t, exec (.portWordArrival n src w e) s = .next t ∧ still t ∧ room t n ∧
        t.port n = { p with rw := p.rw + 1, given := p.given - 1, buf := p.buf ++ [some w], ending := e } ∧ (e = true → .closingMarker n ∈ t.agenda)) ∧
      (p.state = .closed ∨ p.state = .aborted ∨ p.state = .route ∧ (p.rsrc ≠ src ∨ p.ending = true ∨ p.given = 0 ∧ s.job.evicted = false) → exec (.portWordArrival n src w e) s = .next s) ∧
      (p.state = .route → p.ending = true → ∃ t, exec (.closingMarker n) s = .next t ∧ still t ∧ room t n ∧
        t.port n = { p with state := .opened, buf := p.buf ++ [none], ending := false, given := 0, marks := p.marks ++ [cmdAgent s.seq] }) ∧
      (p.state = .route → ∃ t, exec (.abortCloseFlit n) s = .next t ∧ still t ∧ room t n ∧
        t.port n = { p with state := .aborted, ending := false, given := 0, owed := p.owed + p.given } ∧ (0 < p.given → .reclaimMessage n p.given ∈ t.agenda) ∧
        ∀ k, s.routeSender n = some k → (t.ctxAt k).send = if (s.ctxAt k).send.sst = 2 then { (s.ctxAt k).send with sst := 3, allow := 0 } else (s.ctxAt k).send) ∧
      ((s.ctxAt c).send.core ≠ s.core.num → (s.ctxAt c).send.sst ≠ 0 → ∃ t, exec (.sendAllowance c) s = .next t ∧ still t ∧
        (t.ctxAt c).send = { (s.ctxAt c).send with allow := (s.ctxAt c).send.allow + 1 } ∧ ∀ m, m ≠ c → t.ctxAt m = s.ctxAt m) ∧
      (∃ t, exec (.reclaimMessage n k) s = .next t ∧ still t ∧ t.ctxs = s.ctxs ∧ room t n ∧ t.port n =
        { p with owed := p.owed - Nat.min k p.owed, given := if p.state = .route then p.given + Nat.min k p.owed else p.given }))

/-- R389 to R393: MCAST of a well-formed descriptor whose source span is legal starts a multicast, of which a context has two at most. A hop waits for the context's earlier accesses to its own scratchpad, and for the target's multicast buffer; then it stores the tile at its next target (in a redundant job at both cores of the pair), arriving at its group, or is refused at a claimed area, which is logged, and the last one fills xD with both masks; a hop into a reset cluster ends the chain with the rest refused. SENDT in an exchange phase, in its slot's network cycle and to its slot's destination, sends its 64 bytes there (in a redundant job to both cores of the pair, unless their words differ); otherwise it takes the slot trap, with
what differed and the exchange counter in DETAIL, or outside an exchange phase the phase violation. Each router output picks the timed flit, or else the lowest saturated input, or else the highest class, the higher counter and the lower input; a winner's counter returns to 0 and the losers' rise. A timed flit leaves the ages alone (log 106). -/
def Obligations.MulticastsTimedSendsAndArbitration : Prop :=
  ∀ (s : State) (sw : Bool) (a b d : BitVec 5) (slot : BitVec 13),
    let X := s.readX a
    let v := s.readV b
    let l0 := lane v 64 0
    let n := natBits l0 22 16 + 1
    let doff := natBits (lane v 64 1) 18 0
    let ts := mcastTargets v
    let traps (j : Instr) (cause : BitVec 8) (detail : BitVec 32) (caddr : Word) : Prop := s.ctx.trappable →
      ∃ t, exec j s = .next t ∧ t.core = s.core ∧ s.ctx.entered t.ctx (TrapInfo.at s.ctx.pc cause detail caddr) s.job.trapvec
    let bad : Prop := badMcast v = true ∨ ascending ts = false ∨ s.core.num ∈ ts ∨ (∃ c ∈ ts, c ∉ s.job.cores) ∨ 0x80000 < doff + 64 * n ∨
      (l0.testBit 31 = true ∧ s.badGroup (BitVec.ofNat 5 (natBits l0 44 40)) = true)
    let regs (t : State) : Prop := ∀ k r, (t.ctxAt k).reg r = (s.ctxAt k).reg r
    -- the bytes at `key` are not hashed, and no daybook overflows with them
    let quiet (key size : Nat) : Prop := (∀ j ∈ s.allJobs, ∀ r ∈ j.hashed, overlaps key size r.1 r.2 = false) ∧
      ∀ sn, s.core.snapshot = some sn → sn.entries + 2 * (size / 64 + 1) ≤ s.job.dayEntries ∨ s.job.dayEntries < sn.entries
    -- `bytes` are stored at `key`, and in a redundant job at the pair's other core too; no other byte changes
    let stored (t : State) (key pair size : Nat) (bytes : Nat → Byte) : Prop := ∀ q, Memory.byte t.mem q =
      if s.job.redun = true ∧ pair ≤ q ∧ q < pair + size then bytes (q - pair)
      else if key ≤ q ∧ q < key + size then bytes (q - key) else Memory.byte s.mem q
    (s.ready [.x a, .v b, .x d] → s.job.superstep = false →
      (bad → traps (.mcast sw d a b) 0x02 0 0) ∧
      (¬ bad → X.toNat % 64 ≠ 0 → traps (.mcast sw d a b) 0x03 3 X) ∧
      (¬ bad → X.toNat % 64 = 0 → ∀ f, s.ownSpan X.toNat (64 * n) = some f → traps (.mcast sw d a b) f.cause f.detail f.addr) ∧
      (¬ bad → X.toNat % 64 = 0 → s.ownSpan X.toNat (64 * n) = none →
        (2 ≤ s.core.mcasts.countP (fun m => m.ctx = s.cur) → ∃ t, exec (.mcast sw d a b) s = .next t ∧ s.waits t) ∧
        (s.core.mcasts.countP (fun m => m.ctx = s.cur) < 2 → ∃ t m, exec (.mcast sw d a b) s = .next t ∧ s.awaits t (.x d) 0 1 ∧ s.goesOn t sw 4 1 ∧ t.mem = s.mem ∧
          t.core = { s.core with mcasts := s.core.mcasts ++ [m], sig := t.core.sig, partnerSig := t.core.partnerSig } ∧
          (s.job.redun = false → t.core.sig = s.core.sig ∧ t.core.partnerSig = s.core.partnerSig) ∧ m.holds = none ∧ m.resets = [] ∧ m.seq = s.seq ∧ m.ctx = s.cur ∧ m.src = s.ownKey X ∧ m.lines = n ∧ m.doff = doff ∧ m.targets = ts ∧
          m.id.toNat = natBits l0 63 48 ∧ m.group = (if l0.testBit 31 then some (BitVec.ofNat 5 (natBits l0 44 40)) else none) ∧ m.data = none ∧
          m.index = 0 ∧ m.stored = 0 ∧ m.refused = 0 ∧ m.result = (if d = 0 then none else some s.seq) ∧ .mcastHop s.cur s.seq false ∈ t.agenda ∧
          ∀ y ∈ s.accs, y.ctx = s.cur → s.within .core y.key = true → y.seq ∈ m.after))) ∧
    (∀ (m : Mcast) (c : BitVec 12) (cs : List (BitVec 12)), m ∈ s.core.mcasts → (∀ u ∈ s.core.mcasts, u.seq = m.seq → u = m) → m.targets = c :: cs →
      (∀ l, m.data = some l → l.length = 64 * m.lines) →
      let key := scratchKey c.toNat m.doff
      let pair := scratchKey (c ^^^ 1).toNat m.doff
      let D := m.data.getD (s.unitRead m.src (64 * m.lines))
      let ended (t : State) (st rf : Nat) : Prop := (∀ u ∈ t.core.mcasts, u.seq ≠ m.seq) ∧ ∀ w, m.result = some w → (t.ctxAt m.ctx).writes =
        (s.ctxAt m.ctx).writes.map fun y => if y.seq = w then { y with val := wide (BitVec.ofNat 64 (st + rf * 2 ^ 8)), need := y.need - 1 } else y
      let goes (t : State) (st rf : Nat) : Prop := (cs = [] → ended t st rf) ∧
        (cs ≠ [] → .mcastHop m.ctx m.seq false ∈ t.agenda ∧
          ∃ u ∈ t.core.mcasts, u = { m with targets := cs, index := m.index + 1, stored := st, refused := rf, data := some D, holds := some c, held := false })
      let broken : Prop := m.resets.any (inCluster · c) = true
      (¬ broken → (∃ y ∈ s.accs, y.seq ∈ m.after) ∨ s.bufferTaken m c = true → ∃ t, exec (.mcastHop m.ctx m.seq false) s = .next t ∧ { t with core := s.core } = s ∧ { m with held := true } ∈ t.core.mcasts) ∧
      (∀ r, r = true ∨ broken → ∃ t, exec (.mcastHop m.ctx m.seq r) s = .next t ∧ regs t ∧ t.mem = s.mem ∧ ended t m.stored (m.refused + 2 ^ m.index * (2 ^ (cs.length + 1) - 1))) ∧
      (¬ broken → (∀ y ∈ s.accs, y.seq ∉ m.after) → s.bufferTaken m c = false →
        ((∀ k ∈ s.job.claims, overlaps m.doff (64 * m.lines) k.off k.bytes = false) → ∃ t, exec (.mcastHop m.ctx m.seq false) s = .next t ∧ regs t ∧
          goes t (m.stored + 1) m.refused ∧ (∀ g, m.group = some g → .arrival g c 1 none ∈ t.agenda) ∧
          (quiet key (64 * m.lines) → (s.job.redun = true → quiet pair (64 * m.lines)) → stored t key pair (64 * m.lines) fun i => D.getD i 0)) ∧
        ((∃ k ∈ s.job.claims, overlaps m.doff (64 * m.lines) k.off k.bytes = true) → ∃ t, exec (.mcastHop m.ctx m.seq false) s = .next t ∧ regs t ∧
          goes t m.stored (m.refused + 2 ^ m.index) ∧ t.job.logged = s.job.logged + 1 ∧
          let log := hbmKey (s.dev.elbase.toNat + 32 * (s.dev.elprod.toNat % s.dev.elCapacity))
          ∀ q, q < log ∨ log + 32 ≤ q → Memory.byte t.mem q = Memory.byte s.mem q))) ∧
    (s.ready [.v d, .x a] →
      (s.job.superstep = false ∨ s.exchange = false → traps (.sendt sw d a slot) 0x07 0 0) ∧
      (s.job.superstep = true → s.exchange = true →
        ((∀ e ∈ s.job.xsched, e.slot ≠ slot) → traps (.sendt sw d a slot) 0x12 (BitVec.ofNat 32 (slot.toNat + 2 ^ 14 + Nat.min s.xc 65535 * 2 ^ 16)) 0) ∧
        (∀ e, s.job.xsched.find? (fun e => decide (e.slot = slot)) = some e →
          (s.xc ≠ e.t → traps (.sendt sw d a slot) 0x12 (BitVec.ofNat 32 (slot.toNat + 2 ^ 13 + Nat.min s.xc 65535 * 2 ^ 16)) 0) ∧
          (s.xc = e.t → X ≠ e.dest → traps (.sendt sw d a slot) 0x12 (BitVec.ofNat 32 (slot.toNat + 2 ^ 15 + Nat.min s.xc 65535 * 2 ^ 16)) 0) ∧
          (s.xc = e.t → X = e.dest → ∃ t, exec (.sendt sw d a slot) s = .next t ∧ s.sameRegs t ∧ s.goesOn t sw 4 1 ∧ t.accs = s.accs ∧
            let key := scratchKey (natBits X.toNat 55 44) (natBits X.toNat 18 0)
            let pair := scratchKey (natBits X.toNat 55 44 ^^^ 1) (natBits X.toNat 18 0)
            (s.job.redun = true → s.core.upset = true → t.mem = s.mem ∧ t.core.withheld = true ∧ t.core.upset = false) ∧
            (s.job.redun = false ∨ s.core.upset = false → quiet key 64 → (s.job.redun = true → quiet pair 64) →
              stored t key pair 64 fun i => BitVec.ofNat 8 ((s.readV d).toNat / 256 ^ i)))))) ∧
    (∀ reqs : List RouterReq, (∀ r ∈ reqs, r.input.toNat < 5) → (reqs.map reqBuffer).Nodup →
      (∀ r ∈ reqs, ∀ u ∈ reqs, r.cls = timedClass → u.cls = timedClass → reqOut r = reqOut u → r = u) →
      let age (r : RouterReq) : Nat := Sparse.get 0 s.dev.ages (reqBuffer r)
      let rivals (w : RouterReq) : List RouterReq := reqs.filter fun r => decide (reqOut r = reqOut w)
      let timed (w : RouterReq) : Prop := ∃ r ∈ rivals w, r.cls = timedClass
      let wins (w : RouterReq) : Prop := (w.cls = timedClass) ∨ ¬ timed w ∧
        ((63 ≤ age w ∧ ∀ r ∈ rivals w, 63 ≤ age r → w.input ≤ r.input) ∨
         ((∀ r ∈ rivals w, age r < 63) ∧ ∀ r ∈ rivals w, r.cls < w.cls ∨ r.cls = w.cls ∧ (age r < age w ∨ age r = age w ∧ w.input ≤ r.input)))
      ∃ t, exec (.routerArbitration reqs) s = .next t ∧ t.mem = s.mem ∧ t.ctxs = s.ctxs ∧ t.accs = s.accs ∧ t.job = s.job ∧
        ∀ w ∈ reqs, ((reqOut w, w.input) ∈ t.dev.winners ↔ wins w) ∧
          (timed w → Sparse.get 0 t.dev.ages (reqBuffer w) = age w) ∧
          (¬ timed w → wins w → Sparse.get 0 t.dev.ages (reqBuffer w) = 0) ∧
          (¬ timed w → ¬ wins w → Sparse.get 0 t.dev.ages (reqBuffer w) = Nat.min (age w + 1) 63))
/-! ## Launch, eviction and the loss of cores (R152 to R159, R227, R228, R396, R405 to R415, R431) -/

/-- R156, R405, R407 to R412: with a queue enabled and its head ready, DISPATCH refuses a packet with the reason that applies (a reserved bit or a field out of range, a COUNT that does not match its SHAPE, a block, a claim or a save region that is refused, two entries of one slot, an event PENDING for another), cancels one whose dependence is FAILED without ANY, lets one wait whose dependences are not met or that has no place, and starts the others: on this core with its image in zeroed scratchpads, context 0 live at CODE and every register 0 (log 4), or on other cores, with its image in theirs (R78; log 40). A head that another head comes before, by priority and then by queue number at a dispatcher of one of its dies, waits; where the job has no place, jobs of lower priority are evicted first, the lowest and latest before the others, as few as it needs, and none where all would not suffice (R152). In a redundant job the core's pair is a gang (R160). An evicted job is the head of its queue: one of other cores returns when its cores are free, evicting jobs of lower priority that hold them (R152, R155). A refused or cancelled packet leaves the ring with its record written, STATUS in its last byte, and its event FAILED. The order of the reasons is log 90, and which heads and placements are taken is log 91. -/
def Obligations.JobsAreRefusedCancelledPlacedAndLaunched : Prop :=
  ∀ (s : State) (q : BitVec 8) (cs : List (BitVec 12)),
    let n := q.toNat
    let x := s.dev.queue n
    let i := x.head
    let p := s.packetAt n i
    let bs := s.blockOf p
    let D := p.dword0
    let cnt := natBits D 47 36
    let clash : Prop := (n, i) ∈ s.dev.clashes
    let die := (cs.headD 0).toNat / 768
    let logical := if p.redun then cs.filter fun c => decide (c.toNat % 2 = 0) else cs
    let ready : Prop := s.dev.power = .d0 ∧ s.dev.elbase ≠ 0 ∧ x.en = true ∧ x.td = false ∧ i ≠ x.accepted ∧ (∀ e ∈ s.evicted, e.job.jobid.toNat / 2 ^ 24 ≠ n) ∧
      ∀ j ∈ s.dev.jobs, j.saved = true → j.job.jobid.toNat / 2 ^ 24 ≠ n
    let key := complKey p.compl
    let went (t : State) : Prop := t.dev.queue n = { x with head := i + 1 } ∧ (∀ m, m ≠ n → t.dev.queue m = s.dev.queue m)
    let never (st rs : Nat) : Prop := (p.compl.getLsbD 63 = true → s.dev.hostLink = true) → ∃ t, exec (.dispatch q cs) s = .next t ∧ { t with dev := s.dev, mem := s.mem } = s ∧ went t ∧
      (∀ k, Memory.byte t.mem k = if key ≤ k ∧ k < key + 64 then
        (bytesOfNat (st * 2 ^ 56 + rs * 2 ^ 48 + p.jobid.toNat) 8 ++ bytesOfNat 0 8 ++ bytesOfNat s.dev.devtime.toNat 8).getD (k - key) 0 else Memory.byte s.mem k) ∧
      t.dev.msix = (if x.irq then s.dev.msix ++ [x.vec] else s.dev.msix) ∧
      ∀ e, Sparse.get EventState.done t.dev.events e = if e = p.evt ∧ e ≠ 0 ∧ ¬ clash then .failed else Sparse.get EventState.done s.dev.events e
    let bad : Prop := D.testBit 63 = true ∨ natBits D 24 16 ≠ 0 ∨ natBits D 9 0 ≠ 0 ∨ natBits D 35 34 = 3 ∨ 23 < natBits D 33 29 ∨ 10 < natBits D 28 25 ∨ p.code.toNat % 4 ≠ 0 ∨
      p.compl.toNat % 64 ≠ 0 ∨ (p.compl.getLsbD 63 = false ∧ 2 ^ 40 ≤ p.compl.toNat) ∨ p.res % 64 ≠ 0 ∨ 2 ^ 40 ≤ p.res ∨ natBits p.root.toNat 63 40 ≠ 0 ∨ natBits p.root.toNat 11 0 ≠ 0
    let fits : Prop := (natBits D 35 34 = 0 ∧ (cnt = 1 ∨ cnt = 2 ∨ cnt = 4 ∨ cnt = 8 ∨ cnt = 16)) ∨ (natBits D 35 34 = 1 ∧ cnt % 32 = 0 ∧ 32 ≤ cnt ∧ cnt ≤ 768) ∨
      (natBits D 35 34 = 2 ∧ cnt % 768 = 0 ∧ 768 ≤ cnt ∧ cnt ≤ 3072)
    let dep (j : Nat) : Nat := natBits p.deps (16 * j + 14) (16 * j)
    let any (j : Nat) : Bool := p.deps.testBit (16 * j + 15)
    let event (j : Nat) : EventState := Sparse.get EventState.done s.dev.events (dep j)
    let lost : Prop := ∃ j < 4, dep j ≠ 0 ∧ any j = false ∧ event j = .failed
    let met : Prop := ∀ j < 4, dep j = 0 ∨ event j = .done ∨ (any j = true ∧ event j = .failed)
    let fine : Prop := scheduleConflict logical (s.scheduleEntries bs) = false ∧ s.writableCode p die bs = false
    let chosen : Prop := s.victims n p = some [] ∧ ∀ c ∈ cs, s.coreOpen [] c = true
    let evicts (v : List Holder) : Prop := ∃ t, exec (.dispatch q cs) s = .next t ∧ { t with dev := s.dev, job := s.job, agenda := s.agenda } = s ∧
      t.dev = { s.dev with jobs := s.dev.jobs.map fun j =>
        if j.saved = false ∧ v.any (fun x => !x.ours && decide (x.jobid = j.job.jobid)) = true then { j with saved := true, scratch := s.mem.filter fun c => inScratch j.job.cores c.1 } else j } ∧
      t.job = { s.job with evicted := s.job.evicted || v.any (·.ours) } ∧ t.agenda = if v.any (·.ours) ∧ s.job.evicted = false then s.agenda ++ [.coreSave] else s.agenda
    let image (c : Nat) : List Byte := s.partBytes ((s.parts p c (BitVec.ofNat 64 (blockField bs 0x140)) (blockField bs 0x148)).getD [])
    let loaded (t : State) (c : Nat) : Prop := (∀ k ∈ cs, ∀ o < 0x80000, Memory.byte t.mem (scratchKey k.toNat o) = (image c).getD o 0) ∧
      ∀ k, inScratch cs k = false → Memory.byte t.mem k = Memory.byte s.mem k
    let L := s.launchJob p n i bs cs 0 die
    (∀ h : Head, s.outranked h = true ↔ ∃ m < 256, ∃ y, s.headOf m = some y ∧ h.rank < y.rank ∧ ∃ d ∈ y.dies, d ∈ h.dies) ∧
    (∀ e g m k, m < 256 → k < 256 → (rankOf e m < rankOf g k ↔ e < g ∨ e = g ∧ k < m)) ∧
    (¬ ready → (∀ j, s.savedHead n ≠ some (j, false)) → exec (.dispatch q cs) s = .next s) ∧
    (∀ j, ¬ ready → s.savedHead n = some (j, false) →
      (s.outranked (savedAsHead j n) = true ∨ s.victimsBack j = none → exec (.dispatch q cs) s = .next s) ∧
      (s.outranked (savedAsHead j n) = false → ∀ h hs, s.victimsBack j = some (h :: hs) → evicts (h :: hs)) ∧
      (s.outranked (savedAsHead j n) = false → s.victimsBack j = some [] → ∃ t, exec (.dispatch q cs) s = .next t ∧ { t with dev := s.dev, mem := s.mem } = s ∧
        (∀ y ∈ t.dev.jobs, y.job = j → y.saved = false) ∧ t.dev.jobs.map (·.job) = s.dev.jobs.map (·.job) ∧
        ∀ y, s.dev.jobs.find? (fun y => y.saved && decide (y.job = j)) = some y → t.mem = Memory.writeCells y.scratch (s.mem.filter fun c => !inScratch j.cores c.1))) ∧
    (∀ j v, s.victimsBack j = some v → (∀ h ∈ v, h.movable = true ∧ h.prio < j.prio.toNat ∧ ∃ c ∈ h.cores, c ∈ j.cores) ∧ ∀ c ∈ j.cores, s.coreOpen v c = true) ∧
    ((∀ h ∈ s.victimsFor n p, h.movable = true ∧ h.prio < p.prio ∧ ∃ c ∈ h.cores, natBits D 35 34 = 2 ∨ c.toNat / 768 = n / 64) ∧
      (s.victimsFor n p).Pairwise (fun a b => a.prio < b.prio ∨ a.prio = b.prio ∧ b.start ≤ a.start) ∧
      (∀ v, s.victims n p = some v → ∃ k, v = (s.victimsFor n p).take k ∧ s.fits n p v = true ∧ ∀ j < k, s.fits n p ((s.victimsFor n p).take j) = false) ∧
      (s.victims n p = none → ∀ k, s.fits n p ((s.victimsFor n p).take k) = false)) ∧
    (ready → (bad → never 4 1) ∧ (¬ bad → ¬ fits → never 4 2) ∧
      (∀ r, s.refusal p (decide clash) = some r → never 4 r) ∧ (s.refusal p false = none → clash → never 4 7) ∧
      (s.refusal p false = none → ¬ clash → lost → never 2 0) ∧
      (s.refusal p false = none → ¬ clash → ¬ lost → ¬ met ∨ s.placementOk n p cs = false ∨ s.outranked (s.packetAsHead n p) = true → exec (.dispatch q cs) s = .next s) ∧
      (s.refusal p false = none → ¬ clash → ¬ lost → met → s.placementOk n p cs = true → s.outranked (s.packetAsHead n p) = false →
        (scheduleConflict logical (s.scheduleEntries bs) = true → never 4 5) ∧
        (scheduleConflict logical (s.scheduleEntries bs) = false → s.writableCode p die bs = true → never 4 6) ∧
        (fine → s.resourcesBusy p bs = true → exec (.dispatch q cs) s = .next s) ∧
        (fine → s.resourcesBusy p bs = false → ∀ h hs, s.victims n p = some (h :: hs) → evicts (h :: hs)) ∧
        (fine → s.victims n p = none → exec (.dispatch q cs) s = .next s) ∧
        (fine → s.victims n p = some [] → (∃ c ∈ cs, s.coreOpen [] c = false) → exec (.dispatch q cs) s = .next s) ∧
        (fine → chosen → s.resourcesBusy p bs = false → s.unreadable p n i die bs = true → never 4 8) ∧
        (fine → chosen → s.resourcesBusy p bs = false → s.unreadable p n i die bs = false → s.core.num ∉ cs → ∃ t, exec (.dispatch q cs) s = .next t ∧
          went t ∧ (L.noReplay = false → { t with dev := s.dev, mem := s.mem } = s ∧ loaded t die) ∧
          L.jobid = p.jobid ∧ L.compl = p.compl ∧ L.evt = BitVec.ofNat 15 p.evt ∧ L.cores = cs ∧ L.startTime = s.dev.devtime ∧ L.prio.toNat = p.prio ∧ L.superstep = D.testBit 15 ∧
          ∃ y ∈ t.dev.jobs, y.saved = false ∧ y.job = { L with logged := if L.noReplay then 1 else 0 } ∧
            y.groups = blockGroups bs ++ ((s.domainOf p bs).map BitVec.toNat).toList ∧ y.regions = s.blockRegions bs ∧ y.drapers = s.blockDrapers bs) ∧
        (fine → chosen → s.resourcesBusy p bs = false → s.unreadable p n i die bs = false → s.core.num ∈ cs → ∃ t, exec (.dispatch q cs) s = .next t ∧ went t ∧
          (∀ m, (t.ctxAt m).live = decide (m = 0)) ∧ (∀ m r, (t.ctxAt m).reg r = 0) ∧ (t.ctxAt 0).pc = p.code ∧ (t.ctxAt 0).chk = D.testBit 10 ∧
          (∀ m, (t.ctxAt m).inTrap = false ∧ (t.ctxAt m).lsord = false ∧ (t.ctxAt m).writes = [] ∧ ∀ k, ((t.ctxAt m).slots.get k).state = .free) ∧
          t.job.running = true ∧ t.job.jobid = p.jobid ∧ t.job.prio.toNat = p.prio ∧ t.job.superstep = D.testBit 15 ∧ t.job.redun = D.testBit 14 ∧ t.job.manif = D.testBit 13 ∧
          t.job.record = D.testBit 12 ∧ t.job.mapctl = D.testBit 11 ∧ t.job.helpers = natBits D 28 25 ∧ t.job.arg = p.arg ∧ t.job.trapvec = p.trapvec ∧ t.job.root = p.root ∧
          t.job.compl = p.compl ∧ t.job.cores = cs ∧ t.job.began = false ∧ t.job.claims = launchClaims bs ∧
          (t.core.gang = if p.redun then some { n := 2, leader := decide (s.core.num.toNat % 2 = 0), stops := [], parks := 0, takes := 0 } else none) ∧
          (∀ k, (t.core.ports.get k).state = .closed) ∧ (∀ k, (t.core.streams.get k).bnd = false) ∧ t.core.matrix.acc = [] ∧ t.core.num = s.core.num ∧ t.accs = [] ∧ t.full = [] ∧
          t.micro = [] ∧ t.clutlb = [] ∧ t.lasttlb = [] ∧ t.icache = [] ∧
          (D.testBit 15 = false → t.job.space.next = (if natBits (blockField bs 0x18) 31 0 = 0 then 0 else blockField bs 0x10) ∧ t.job.space.left = natBits (blockField bs 0x18) 31 0 ∧
            t.bar.domain = none ∧ loaded t s.die) ∧
          (D.testBit 15 = true → t.job.space.left = 0 ∧ ∀ g, t.bar.domain = some g → g.toNat ∉ blockGroups bs))))
/-- R152, R153, R155, R227, R228: CORE_SAVE leaves the machine as it is unless the job is chosen for eviction and nothing that the save awaits is outstanding; tagged loads on their way first get their time, which the drain bound ends; then the contexts, the core, the job and its scratchpads are held, a frame's words are to be fetched again, the save areas are filled (log 87), the stationary pair is released, and no job has the core. RESTORE puts back the evicted job of the highest priority of those that are the heads of their queues and that no other head comes before, once its cores are free; jobs of lower priority that hold them are evicted for it. R154, R376, R431: an access sent again is performed; one of another core reads or writes this core's scratchpad and words for the job that holds the core, an atomic of the cluster's unit in two accesses (R286), or comes to its pigeonhole unit, which performs it in its turn, one home bucket at a time (R374, R376), is told to retry once the contexts have stopped and the open routes have closed, and is refused and logged for another job. R159, R396, R412: a lost die gives the ranges held there back to the index space, or ends the job with REASON 5, as a reset of the core's own cluster does; a job with an index space leaves a core of the lost die and goes on elsewhere, and so do evicted jobs and those of other cores. A reset of another cluster aborts the routes and packets open with it, whose allowances are reclaimed, and notes it for the multicasts under way, which stop there (log 43). RETRY replies are counted at the core that answers (log 85), a core of another job logs what it refuses (log 88), and an answer of no bytes is the error response (log 100). -/
def Obligations.JobsAreSavedRestoredAndLoseCores : Prop :=
  ∀ (s : State),
    let quiet : Prop := (∀ m, (s.ctxAt m).live = true → (s.ctxAt m).ending = false ∧ (s.ctxAt m).send.sst ≠ 2 ∧ (s.ctxAt m).trapping = none ∧ (s.ctxAt m).ph = none ∧ ∀ w, (s.ctxAt m).wait = some w → w.delivered = none) ∧
      (∀ k, ∀ c ∈ (s.core.chans.get k).cmds, c.started = false) ∧ s.core.matrix.queue = [] ∧ s.core.mcasts = [] ∧ (∀ k, (s.core.ports.get k).state ≠ .route) ∧
      s.core.unit = [] ∧ (∀ y ∈ s.halves, s.within .core y.key = false)
    let landed : Prop := ∀ m k, ((s.ctxAt m).slots.get k).state ≠ .pending
    let begun : Prop := s.job.evicted = true ∧ (∀ m, (s.ctxAt m).live = true → (s.ctxAt m).mustRun = false ∧ (s.ctxAt m).ending = false) ∧
      ∀ k, (s.core.ports.get k).state ≠ .route
    let key := complKey s.job.compl
    let aborts (e : Instr) (r : Byte) : Prop := s.evicted = [] → s.dev.jobs = [] → s.accs = [] → (∀ m, (s.ctxAt m).takeOrder = []) → (s.job.compl.getLsbD 63 = true → s.dev.hostLink = true) →
      ∃ t, exec e s = .next t ∧ t.job.running = false ∧ (∀ m, (t.ctxAt m).live = false) ∧ (∀ m q, (t.ctxAt m).reg q = (s.ctxAt m).reg q) ∧
        Memory.byte t.mem (key + 7) = 3 ∧ Memory.byte t.mem (key + 6) = r ∧ (∀ k, k < key ∨ key + 64 ≤ k → Memory.byte t.mem k = Memory.byte s.mem k) ∧
        (s.job.evt ≠ 0 → Sparse.get EventState.done t.dev.events s.job.evt.toNat = .failed)
    let aborted (e : Instr) (j : Job) (r : Byte) : Prop := (j.compl.getLsbD 63 = true → s.dev.hostLink = true) → s.job.running = false →
      ∃ t, exec e s = .next t ∧ t.evicted = [] ∧ t.dev.jobs = [] ∧ Memory.byte t.mem (complKey j.compl + 7) = 3 ∧ Memory.byte t.mem (complKey j.compl + 6) = r ∧
        (∀ k, k < complKey j.compl ∨ complKey j.compl + 64 ≤ k → Memory.byte t.mem k = Memory.byte s.mem k) ∧ (j.evt ≠ 0 → Sparse.get EventState.done t.dev.events j.evt.toNat = .failed)
    (s.job.running = false ∨ s.job.evicted = false ∨ s.job.ended = true ∨ s.job.stopping = true ∨ (∃ a ∈ s.accs, (∃ d, a.op = .store d) ∧ a.retry = none) ∨ s.core.mcasts ≠ [] ∨
      (∃ k, ∃ c ∈ (s.core.chans.get k).cmds, c.started = true) ∨ s.core.unit ≠ [] ∨ (∃ y ∈ s.halves, s.within .core y.key = true) → exec .coreSave s = .next s) ∧
    (s.job.running = true → s.job.evicted = true → s.job.ended = false → s.job.stopping = false → quiet →
      ((∀ a ∈ s.accs, (∃ t, a.op = .tagged t) ∨ a.retry ≠ none) → ¬ landed → s.core.drained = false → .landingSetDrainBound ∉ s.agenda →
        exec .coreSave s = .next { s with agenda := s.agenda ++ [.landingSetDrainBound] }) ∧
      (s.accs = [] → landed ∨ s.core.drained = true → s.core.matrix.kept = none → (∀ m, (s.ctxAt m).writes = []) → ∃ t x, exec .coreSave s = .next t ∧
        t.job = Job.none ∧ (∀ q, (∀ k ∈ s.job.claims, k.kind = .save → ∀ c ∈ s.job.cores, q < scratchKey c.toNat k.off ∨ scratchKey c.toNat k.off + k.bytes ≤ q) →
          q < hbmKey s.job.save.toNat ∨ hbmKey s.job.save.toNat + s.job.saveLen ≤ q → Memory.byte t.mem q = Memory.byte s.mem q) ∧ t.dev = s.dev ∧ t.evicted = s.evicted ++ [x] ∧ (∀ m, t.ctxAt m = Ctx.reset) ∧ t.core.num = s.core.num ∧ t.core.counters = s.core.counters ∧
        x.job = { s.job with evicted := false } ∧ x.bar = s.bar ∧ x.regions = s.regions ∧ x.drapers = s.drapers ∧ x.full = s.full ∧ x.owned = s.core.matrix.own ∧ x.core.matrix.own = false ∧
        x.core.matrix.acc = s.core.matrix.acc ∧ x.core.streams = s.core.streams ∧ x.core.mbox = s.core.mbox ∧
        (∀ k b, (k, b) ∈ x.scratch ↔ (k, b) ∈ t.mem ∧ inScratch s.job.cores k = true) ∧
        ∀ m, (x.ctxs.get m).pc = (s.ctxAt m).pc ∧ (x.ctxs.get m).live = (s.ctxAt m).live ∧ (∀ r, (x.ctxs.get m).reg r = (s.ctxAt m).reg r) ∧ (x.ctxs.get m).slots = (s.ctxAt m).slots ∧
          (x.ctxs.get m).lc = (s.ctxAt m).lc ∧ (x.ctxs.get m).le = (s.ctxAt m).le ∧ (x.ctxs.get m).traprec = (s.ctxAt m).traprec ∧ (x.ctxs.get m).wait = none ∧
          (x.ctxs.get m).frame = [] ∧ ((s.ctxAt m).frame ≠ [] → (x.ctxs.get m).refetch = true))) ∧
    (exec .landingSetDrainBound s = .next (if s.job.evicted then { s with core := { s.core with drained := true }, agenda := s.agenda ++ [.coreSave] } else s)) ∧
    (∀ x, s.restorable x = true ↔ s.savedHead (jobQueue x.job.jobid) = some (x.job, true) ∧ s.victimsBack x.job ≠ none ∧ s.dev.power = .d0 ∧
      s.outranked (savedAsHead x.job (jobQueue x.job.jobid)) = false) ∧
    ((∀ x ∈ s.evicted, s.restorable x = false) → exec .restore s = .next s) ∧
    (∀ x h hs, nextRestored (s.evicted.filter s.restorable) = some x → s.victimsBack x.job = some (h :: hs) →
      ∃ t, exec .restore s = .next t ∧ { t with dev := s.dev, job := s.job, agenda := s.agenda } = s ∧
        (∀ j ∈ s.dev.jobs, j.saved = false → (∃ y ∈ h :: hs, y.ours = false ∧ y.jobid = j.job.jobid) →
          { j with saved := true, scratch := s.mem.filter fun c => inScratch j.job.cores c.1 } ∈ t.dev.jobs) ∧
        ((∃ y ∈ h :: hs, y.ours = true) → t.job.evicted = true)) ∧
    (∀ x, nextRestored (s.evicted.filter s.restorable) = some x → s.victimsBack x.job = some [] → s.job.running = true → exec .restore s = .next s) ∧
    (∀ x, nextRestored (s.evicted.filter s.restorable) = some x → x ∈ s.evicted ∧ s.restorable x = true ∧
      ∀ y ∈ s.evicted, s.restorable y = true → y.job.prio ≤ x.job.prio) ∧
    (∀ x, s.job.running = false → nextRestored (s.evicted.filter s.restorable) = some x → s.victimsBack x.job = some [] → x.accs = [] → (∀ m k, ((x.ctxs.get m).slots.get k).state ≠ .pending) →
      Memory.wf x.scratch = true → (∀ c ∈ x.scratch, inScratch x.job.cores c.1 = true) → ∃ t, exec .restore s = .next t ∧
        t.job = x.job ∧ t.dev = s.dev.dropSlices x.job.cores ∧ t.evicted = s.evicted.erase x ∧ t.regions = x.regions ∧ t.drapers = x.drapers ∧ t.full = x.full ∧ t.core.mbox = x.core.mbox ∧
        t.core.streams = x.core.streams ∧ t.core.matrix.acc = x.core.matrix.acc ∧ t.bar.groups = x.bar.groups ∧ t.bar.sstep = x.bar.sstep ∧
        (∀ k, Memory.byte t.mem k = if inScratch x.job.cores k then Memory.byte x.scratch k else Memory.byte s.mem k) ∧
        (∀ m, (t.ctxAt m).pc = (x.ctxs.get m).pc ∧ (t.ctxAt m).live = (x.ctxs.get m).live ∧ s.cycle < (t.ctxAt m).nextIssue ∧ ∀ r, (t.ctxAt m).reg r = (x.ctxs.get m).reg r) ∧
        (x.owned = true → t.core.matrix.own = false ∧ t.core.matrix.retake = true ∧ (s.core.matrix.otherOwner = false → .stationaryPairGrant ∈ t.agenda)) ∧ t.core.matrix.otherOwner = s.core.matrix.otherOwner ∧
        ∀ k, (x.core.chans.get k).cmds ≠ [] → .commandStart k ∈ t.agenda) ∧
    (∀ (a : Acc) (d : List Byte), s.accs = [a] → a.op = .store d → a.retry.isSome = true → a.after = [] → s.gated a.key a.len = false → s.clu.saving = [] → s.unhashed →
      s.core.snapshot = none → (s.ctxAt a.ctx).badLanes = [] → ∃ t, exec (.retryResend a.seq) s = .next t ∧ t.accs = [] ∧ t.mem = Memory.write s.mem a.key d ∧ t.dev = s.dev ∧
        ∀ m r, (t.ctxAt m).reg r = (s.ctxAt m).reg r) ∧
    (∀ seq, (∀ a ∈ s.accs, a.seq = seq → a.retry = none) → exec (.retryResend seq) s = .next s) ∧
    (∀ (c : BitVec 12) (o : Nat), o < 0x80000 → let w := scratchKey s.core.num.toNat o
      let regs (t : State) : Prop := ∀ m r, (t.ctxAt m).reg r = (s.ctxAt m).reg r
      (∀ op, s.job.running = true → begun → s.unitHas c s.job.jobid op = false → exec (.remoteAccess c s.job.jobid op) s = .next (s.count 13)) ∧
      (∀ op j, s.job.running = false → (∃ x ∈ s.evicted, x.job.jobid = j) → exec (.remoteAccess c j op) s = .next (s.count 13)) ∧
      (∀ op j, s.job.running = true → s.job.jobid ≠ j → s.dev.elbase = 0 → s.dev.lost ≠ BitVec.allOnes 32 → ∃ t, exec (.remoteAccess c j op) s = .next t ∧
        t.mem = s.mem ∧ t.ctxs = s.ctxs ∧ t.core = s.core ∧ t.job = s.job ∧ t.full = s.full ∧ t.dev.lost = s.dev.lost + 1 ∧ t.dev.reply = [] ∧
        t.evicted = s.evicted.map fun x => if x.job.jobid = j then { x with job := { x.job with logged := x.job.logged + 1 } } else x) ∧
      (s.job.running = true → ¬ begun → s.bad = [] → s.unhashed → s.core.snapshot = none →
        (∀ k, ∃ t, exec (.remoteAccess c s.job.jobid (.read o k)) s = .next t ∧ regs t ∧ t.mem = s.mem ∧ t.dev = { s.dev with reply := Memory.read s.mem w k }) ∧
        (∀ bs, ∃ t, exec (.remoteAccess c s.job.jobid (.write o bs)) s = .next t ∧ regs t ∧ t.mem = Memory.write s.mem w bs ∧ t.dev = s.dev) ∧
        (∀ f ty b clu, (clu = true → s.halfDone w (atomicBytes ty) = false) → let old := natOfBytes (Memory.read s.mem w (atomicBytes ty))
          let new := bytesOfNat (atomicFn f ty old (b.toNat % 2 ^ atomicBits ty)) (atomicBytes ty)
          ∃ t, exec (.remoteAccess c s.job.jobid (.atomic o f ty b clu)) s = .next t ∧ regs t ∧ t.dev = { s.dev with reply := bytesOfNat old (atomicBytes ty) } ∧
            (clu = false → t.mem = Memory.write s.mem w new ∧ t.halves = s.halves) ∧
            (clu = true → t.mem = s.mem ∧ t.halves = s.halves ++ [{ seq := s.seq, source := c.toNat, key := w, data := new }] ∧ .accessPerformed s.seq ∈ t.agenda)) ∧
        (∀ n, s.isFull w = true → ∃ t, exec (.remoteAccess c s.job.jobid (.ftake o n)) s = .next t ∧ regs t ∧ t.mem = s.mem ∧ t.isFull w = false ∧
          t.dev = { s.dev with reply := Memory.read s.mem w 8 } ∧ t.takers = s.takers) ∧
        (∀ n, s.isFull w = false → s.takers = [] → ∃ t, exec (.remoteAccess c s.job.jobid (.ftake o n)) s = .next t ∧ regs t ∧ t.mem = s.mem ∧ t.dev = s.dev ∧
          t.takers = [{ core := c, ctx := n, key := w }]) ∧
        (∀ n v, s.isFull w = true → ∃ t, exec (.remoteAccess c s.job.jobid (.fput o n v)) s = .next t ∧ regs t ∧ t.mem = s.mem ∧ t.isFull w = true ∧ t.dev = { s.dev with reply := [] }) ∧
        (∀ n v, s.isFull w = false → s.takers = [] → ∃ t, exec (.remoteAccess c s.job.jobid (.fput o n v)) s = .next t ∧ regs t ∧ t.isFull w = true ∧
          t.mem = Memory.write s.mem w (bytesOfNat v.toNat 8)) ∧
        (∀ v b, ∃ t, exec (.remoteAccess c s.job.jobid (.finit o v b)) s = .next t ∧ regs t ∧ t.isFull w = b ∧ t.mem = Memory.write s.mem w (bytesOfNat v.toNat 8)) ∧
        (∀ op table, op.table = some table → s.unitHas c s.job.jobid op = false → ∃ t, exec (.remoteAccess c s.job.jobid op) s = .next t ∧ regs t ∧ t.mem = s.mem ∧ t.dev = s.dev ∧
          t.core.unit = s.core.unit ++ [{ core := c, jobid := s.job.jobid, op, since := s.cycle, done := [], got := [], started := false }])) ∧
      (∀ y table, s.job.running = true → s.core.unit = [y] → y.core = c → y.jobid = s.job.jobid → y.op.table = some table →
        (s.unitTurn y = false → ∃ t, exec (.remoteAccess c s.job.jobid y.op) s = .next t ∧ regs t ∧ t.mem = s.mem ∧ t.core.unit = [y]) ∧
        (s.unitTurn y = true → s.tableAt s.core.num table = none → ∃ t, exec (.remoteAccess c s.job.jobid y.op) s = .next t ∧ regs t ∧ t.mem = s.mem ∧ t.core.unit = [] ∧ t.dev = { s.dev with reply := [] }) ∧
        (∀ T rs (v : State) (h : Nat), s.unitTurn y = true → s.tableAt s.core.num table = some T → (∀ e ∈ remoteKeys y.op, e.1 ≠ BitVec.allOnes 64) →
          let P : PhPlace := { owner := s.core.num, table := T }
          let left := (y.updates T).filter fun x => !(x.lanes.any fun i => decide (i ∈ y.done))
          let now := left.filter fun x => some (T.home x.key) = left.head?.map fun x => T.home x.key
          State.phRun P now y.done (if y.started then s else s.countPh P) = (v, .ok rs, h) → ∃ t, exec (.remoteAccess c s.job.jobid y.op) s = .next t ∧ regs t ∧ t.mem = v.mem ∧
            ((∀ x ∈ left, x ∈ now) → t.core.unit = [] ∧ t.dev = { v.dev with reply := unitAnswer (remoteKeys y.op) (y.got ++ rs) }) ∧
            ((∃ x ∈ left, x ∉ now) → t.core.unit = [{ y with done := y.done ++ now.flatMap (·.lanes), got := y.got ++ rs, started := true }])))) ∧
    (∀ y ∈ s.halves, (∀ z ∈ s.halves, z.seq = y.seq → z = y) → (∀ a ∈ s.accs, a.seq ≠ y.seq) → s.unhashed → s.core.snapshot = none →
      ∃ t, exec (.accessPerformed y.seq) s = .next t ∧ t.mem = Memory.write s.mem y.key y.data ∧ (∀ z, z ∈ t.halves ↔ z ∈ s.halves ∧ z ≠ y) ∧ t.dev = s.dev ∧ ∀ m r, (t.ctxAt m).reg r = (s.ctxAt m).reg r) ∧
    (∀ (die : BitVec 2), let off (k : BitVec 12) : Prop := k.toNat / 768 = die.toNat
      let mark (t : State) : Prop := die ∈ t.dev.fencedDies
      let others : Prop := (∀ j ∈ s.dev.jobs, j.job.endsWith die = false) ∧ ∀ x ∈ s.evicted, x.job.endsWith die = false
      (∀ (j : Job), j.endsWith die = true ↔ (∃ k ∈ j.cores, off k) ∧ (j.superstep = true ∨ j.space.grain = 0 ∨ ∀ k ∈ j.cores, off k)) ∧
      (∀ (j : Job) (n : Nat), j.space.takes = [] → let w := j.without die n
        { w with cores := j.cores, space := j.space } = j ∧ (∀ k, k ∈ w.cores ↔ k ∈ j.cores ∧ ¬ off k) ∧ w.space.next = j.space.next ∧ w.space.left = j.space.left ∧
        (∀ k m a b, (k, m, a, b) ∈ j.space.taken → if off k then (a, b) ∈ w.space.pool ∧ (k, m, a, b) ∉ w.space.taken else (k, m, a, b) ∈ w.space.taken) ∧
        ∀ y ∈ j.space.pool, y ∈ w.space.pool) ∧
      (others → s.job.running = false ∨ (∀ k ∈ s.job.cores, ¬ off k) → ∃ t, exec (.dieFenced die) s = .next t ∧ { t with dev := s.dev, evicted := s.evicted } = s ∧ mark t ∧
        (∀ j ∈ s.dev.jobs, (if ∃ k ∈ j.job.cores, off k then { j with job := j.job.without die s.cycle } else j) ∈ t.dev.jobs) ∧
        ∀ x ∈ s.evicted, (∃ k ∈ x.job.cores, off k) → if off s.core.num then ∃ j ∈ t.dev.jobs, j.saved = true ∧ j.job = x.job.without die s.cycle ∧ j.scratch = x.scratch
          else { x with job := x.job.without die s.cycle } ∈ t.evicted) ∧
      (∀ j, s.dev.jobs = [j] → s.evicted = [] → j.job.endsWith die = true → aborted (.dieFenced die) j.job 5) ∧
      (∀ x, s.dev.jobs = [] → s.evicted = [x] → (∀ m, (x.ctxs.get m).takeOrder = []) → x.job.endsWith die = true → aborted (.dieFenced die) x.job 5) ∧
      (s.job.running = true → s.job.endsWith die = true → aborts (.dieFenced die) 5) ∧
      (others → s.job.running = true → (∃ k ∈ s.job.cores, off k) → s.job.endsWith die = false → off s.core.num →
        ∃ t, exec (.dieFenced die) s = .next t ∧ t.job = Job.none ∧ t.mem = s.mem ∧ mark t ∧ (∀ m, (t.ctxAt m).live = false) ∧
          ∃ j ∈ t.dev.jobs, j.saved = false ∧ j.job = s.job.without die s.cycle) ∧
      (others → s.job.running = true → (∃ k ∈ s.job.cores, off k) → s.job.endsWith die = false → ¬ off s.core.num →
        ∃ t, exec (.dieFenced die) s = .next t ∧ { t with dev := s.dev, job := s.job, evicted := s.evicted } = s ∧ mark t ∧ t.job = s.job.without die s.cycle)) ∧
    (s.inbox = [] → exec .clusterReset s = .next s) ∧
    (∀ r l, s.inbox = r :: l → let off (k : BitVec 12) : Prop := k.toNat / 32 = r.addr
      let others : Prop := ∀ j ∈ s.dev.jobs, j.saved = false → ∀ k ∈ j.job.cores, ¬ off k
      (others → s.job.running = false ∨ (∀ k ∈ s.job.cores, ¬ off k) → exec .clusterReset s = .next { s with inbox := l }) ∧
      (∀ j, s.dev.jobs = [j] → s.evicted = [] → j.saved = false → (∃ k ∈ j.job.cores, off k) → aborted .clusterReset j.job 5) ∧
      (s.job.running = true → (∃ k ∈ s.job.cores, off k) → off s.core.num ∨ r.n ≠ 0 → aborts .clusterReset 5) ∧
      (others → s.job.running = true → (∃ k ∈ s.job.cores, off k) → ¬ off s.core.num → r.n = 0 → ∃ t, exec .clusterReset s = .next t ∧
        t.mem = s.mem ∧ t.job = s.job ∧ t.inbox = l ∧ (∀ m q, (t.ctxAt m).reg q = (s.ctxAt m).reg q) ∧
        (∀ k, t.core.ports.get k = if (s.core.ports.get k).state = .route ∧ off (s.core.ports.get k).rsrc
          then { s.core.ports.get k with state := .aborted, ending := false, given := 0, owed := (s.core.ports.get k).owed + (s.core.ports.get k).given } else s.core.ports.get k) ∧
        (∀ k : BitVec 2, (s.port k).state = .route → off (s.port k).rsrc → 0 < (s.port k).given → .reclaimMessage k (s.port k).given ∈ t.agenda) ∧
        (∀ u ∈ s.core.mcasts, { u with resets := r.addr :: u.resets, held := false } ∈ t.core.mcasts ∧ (u.held = true → .mcastHop u.ctx u.seq false ∈ t.agenda)) ∧
        ∀ m, (t.ctxAt m).send = if off (s.ctxAt m).send.core then (s.ctxAt m).send.abort else (s.ctxAt m).send))
/-! ## The host's queues, memory window and registers (R11, R197, R209, R314, R405, R411, R414, R416, R420 to R424, R429) -/

/-- R405, R411, R414, R429: a QTAIL write to an enabled queue that moves the tail forward within the ring's size is taken, and with the error-log ring set its packets are accepted, their events PENDING; QBASE and QSIZE are taken while the queue is disabled; QCTL enables an idle queue with head and tail 0, disables it, or tears it down: its packets are CANCELLED, its job stops, and once the contexts have stopped the job is ABORTED, with REASON 1 or that of an earlier double trap (R145), and TD reads 0 with QHEAD = QTAIL. Every other write to a queue's block is ignored, logged and answered with an error, which is no bytes. Only the queue named changes. The registers without a row of their own take what is written. What an ignored register write logs is log 89, the low bits of a base are log 94, and an answer of no bytes is log 100. -/
def Obligations.QueuesTakePacketsAndAreTornDown : Prop :=
  ∀ (s : State),
    let quiet (e : Instr) : Prop := s.inbox = [] → exec e s = .next s
    (quiet .doorbell ∧ quiet .qbase ∧ quiet .qsize ∧ quiet .qhead ∧ quiet .queueEnable ∧ quiet .queueDisable ∧ quiet .teardown ∧ quiet .registerWrite) ∧
    (∀ r l, s.inbox = r :: l →
      let q := (r.addr - 0x10000) / 64 % 256
      let x := s.dev.queue q
      let new : BitVec 32 := r.value.setWidth 32
      let only (t : State) : Prop := { t with dev := s.dev, inbox := s.inbox } = s ∧ t.inbox = l ∧ { t.dev with queues := s.dev.queues } = s.dev ∧ ∀ m, m ≠ q → t.dev.queue m = s.dev.queue m
      let ignored (e : Instr) : Prop :=
        (s.dev.elbase = 0 → s.dev.lost ≠ BitVec.allOnes 32 → exec e s = .next { s with inbox := l, dev := { s.dev with lost := s.dev.lost + 1, reply := [] } }) ∧
        (s.dev.elbase ≠ 0 → (s.dev.elprod - s.dev.elcons).toNat < 2 ^ (s.dev.elsize.toNat + 7) → ∃ t, exec e s = .next t ∧ { t with dev := s.dev, mem := s.mem, inbox := s.inbox } = s ∧
          t.inbox = l ∧ t.dev = { s.dev with elprod := s.dev.elprod + 1, reply := [] } ∧
          let at_ := hbmKey (s.dev.elbase.toNat + 32 * (s.dev.elprod.toNat % 2 ^ (s.dev.elsize.toNat + 7)))
          t.mem = Memory.write s.mem at_ (bytesOfNat 1 1 ++ bytesOfNat 0 1 ++ bytesOfNat 0xFFFF 2 ++ bytesOfNat 0 12 ++ bytesOfNat s.dev.devtime.toNat 8 ++ bytesOfNat (r.addr % 2 ^ 64) 8))
      let takes : Prop := x.en = true ∧ (x.tail - x.head).toNat ≤ (new - x.head).toNat ∧ (new - x.head).toNat ≤ 2 ^ (x.size.toNat + 4)
      (¬ takes → ignored .doorbell) ∧
      (takes → s.dev.elbase = 0 → ∃ t, exec .doorbell s = .next t ∧ only t ∧ t.dev.queue q = { x with tail := new }) ∧
      (takes → s.dev.elbase ≠ 0 → ∃ t, exec .doorbell s = .next t ∧ { t with dev := s.dev, inbox := s.inbox } = s ∧ t.inbox = l ∧ t.dev.queue q = { x with tail := new, accepted := new } ∧
        (∀ m, m ≠ q → t.dev.queue m = s.dev.queue m) ∧
        (new = x.accepted → t.dev.events = s.dev.events ∧ t.dev.clashes = s.dev.clashes) ∧
        (new = x.accepted + 1 → let ev := (s.packetAt q x.accepted).evt
          (ev ≠ 0 → ∀ e, Sparse.get EventState.done t.dev.events e = if e = ev then .pending else Sparse.get EventState.done s.dev.events e) ∧
          (ev ≠ 0 → Sparse.get EventState.done s.dev.events ev = .pending → t.dev.clashes = s.dev.clashes ++ [(q, x.accepted)]) ∧
          (ev = 0 ∨ Sparse.get EventState.done s.dev.events ev ≠ .pending → t.dev.clashes = s.dev.clashes))) ∧
      (x.en = false → r.value.toNat % 64 = 0 → ∃ t, exec .qbase s = .next t ∧ only t ∧ t.dev.queue q = { x with base := r.value }) ∧
      (x.en = true ∨ r.value.toNat % 64 ≠ 0 → ignored .qbase) ∧
      (x.en = false → r.value.toNat < 12 → ∃ t, exec .qsize s = .next t ∧ only t ∧ t.dev.queue q = { x with size := r.value.setWidth 4 }) ∧
      (x.en = true ∨ 12 ≤ r.value.toNat → ignored .qsize) ∧
      ignored .qhead ∧
      (∀ e, e = Instr.queueEnable ∨ e = .queueDisable ∨ e = .teardown →
        let y : Queue := { x with vec := r.value.extractLsb' 8 8, irq := r.value.getLsbD 16 }
        (x.td = true → r.value.getLsbD 0 = true → ignored e) ∧
        (r.value.getLsbD 1 = false → r.value.getLsbD 0 = true → x.td = false → x.en = false → ∃ t, exec e s = .next t ∧ { t with dev := s.dev, inbox := s.inbox } = s ∧ t.inbox = l ∧
          { t.dev with queues := s.dev.queues, clashes := s.dev.clashes } = s.dev ∧ (∀ m, m ≠ q → t.dev.queue m = s.dev.queue m) ∧
          t.dev.queue q = { y with en := true, head := 0, tail := 0, accepted := 0 } ∧ ∀ c, c ∈ t.dev.clashes ↔ c ∈ s.dev.clashes ∧ c.1 ≠ q) ∧
        (r.value.getLsbD 1 = false → r.value.getLsbD 0 = true → x.td = false → x.en = true → ∃ t, exec e s = .next t ∧ only t ∧ t.dev.queue q = y) ∧
        (r.value.getLsbD 1 = false → r.value.getLsbD 0 = false → ∃ t, exec e s = .next t ∧ only t ∧ t.dev.queue q = { y with en := false }) ∧
        (r.value.getLsbD 1 = true → r.value.getLsbD 0 = false → x.td = true → ∃ t, exec e s = .next t ∧ only t ∧ t.dev.queue q = { y with en := false }) ∧
        (∀ j, r.value.getLsbD 1 = true → x.td = false → s.dev.jobs = [j] → s.evicted = [] → x.tail = x.head → natBits j.job.jobid.toNat 31 24 = q → s.job.running = false →
          (j.job.compl.getLsbD 63 = true → s.dev.hostLink = true) → ∃ t, exec e s = .next t ∧ t.dev.jobs = [] ∧ t.dev.queue q = { y with en := false, td := true } ∧
            Memory.byte t.mem (complKey j.job.compl + 7) = 3 ∧ Memory.byte t.mem (complKey j.job.compl + 6) = 1) ∧
        (r.value.getLsbD 1 = true → x.td = false → s.dev.jobs = [] → s.evicted = [] →
          (x.tail = x.head → let ours : Prop := s.job.running = true ∧ natBits s.job.jobid.toNat 31 24 = q
            ∃ t, exec e s = .next t ∧ t.mem = s.mem ∧ (∀ m r, (t.ctxAt m).reg r = (s.ctxAt m).reg r) ∧ t.inbox = l ∧ t.dev.queue q = { y with en := false, td := true } ∧
            (∀ m, m ≠ q → t.dev.queue m = s.dev.queue m) ∧ .teardownCompletes (BitVec.ofNat 8 q) ∈ t.agenda ∧
            (¬ ours → t.core = s.core ∧ t.job = s.job) ∧
            (ours → s.job.stopping = true → t.core = s.core ∧ t.job = s.job) ∧
            (ours → s.job.stopping = false → t.job = { s.job with stopping := true, stopReason := 1 } ∧ ∀ k, (t.core.chans.get k).cmds = [] ∧
              (t.core.chans.get k).ready = (s.core.chans.get k).ready ++ (s.core.chans.get k).cmds.map fun c => Cmd.element { c with status := max c.status 10, bytes := c.bytes - (c.stores.map (·.2.length)).sum })) ∧
          (x.tail = x.head + 1 → let p := s.packetAt q x.head
            (p.compl.getLsbD 63 = true → s.dev.hostLink = true) → ∃ t, exec e s = .next t ∧ (∀ m r, (t.ctxAt m).reg r = (s.ctxAt m).reg r) ∧ t.inbox = l ∧
              t.dev.queue q = { y with en := false, td := true, head := x.tail } ∧ .teardownCompletes (BitVec.ofNat 8 q) ∈ t.agenda ∧
              Memory.byte t.mem (complKey p.compl + 7) = 2 ∧ Memory.byte t.mem (complKey p.compl + 6) = 0 ∧
              ((q, x.head) ∉ s.dev.clashes → p.evt ≠ 0 → Sparse.get EventState.done t.dev.events p.evt = .failed)))) ∧
      (let low := r.value &&& ~~~0xFFF#64
       let puts (d : Device) : Prop := exec .registerWrite s = .next { s with inbox := l, dev := d }
       (0x10000 ≤ r.addr → r.addr < 0x14000 → 0x28 ≤ r.addr % 64 ∨ r.addr % 64 = 0x10 → ignored .registerWrite) ∧
       (r.addr = 0x108 → puts { s.dev with elsize := r.value.setWidth 4 }) ∧ (r.addr = 0x118 → puts { s.dev with elcons := new }) ∧
       (r.addr = 0x210 → puts { s.dev with trbase := low }) ∧ (r.addr = 0x218 → puts { s.dev with trsize := r.value.setWidth 4 }) ∧
       (r.addr = 0x228 → puts { s.dev with trcons := new }) ∧ (r.addr = 0x240 → puts { s.dev with dbgsel := r.value }) ∧
       (r.addr = 0x110 ∨ r.addr = 0x220 ∨ 0x200000 ≤ r.addr → puts s.dev))) ∧
    (∀ (n : BitVec 8), let x := s.dev.queue n.toNat
      let mine : Prop := s.job.running = true ∧ s.job.stopping = true ∧ natBits s.job.jobid.toNat 31 24 = n.toNat
      (x.td = false → ¬ mine → exec (.teardownCompletes n) s = .next s) ∧
      (mine → (∃ m, (s.ctxAt m).live = true ∧ (s.ctxAt m).mustRun = true) → exec (.teardownCompletes n) s = .next s) ∧
      (x.td = true → ¬ mine → ∃ t, exec (.teardownCompletes n) s = .next t ∧ { t with dev := s.dev } = s ∧ { t.dev with queues := s.dev.queues } = s.dev ∧
        (∀ m, m ≠ n.toNat → t.dev.queue m = s.dev.queue m) ∧ t.dev.queue n.toNat = { x with td := false, head := x.tail, accepted := x.tail }) ∧
      (mine → (∀ m, (s.ctxAt m).live = true → (s.ctxAt m).mustRun = false) → s.accs = [] → s.job.stopReason < 256 →
        (∀ m, (s.ctxAt m).takeOrder = []) → (s.job.compl.getLsbD 63 = true → s.dev.hostLink = true) → ∃ t, exec (.teardownCompletes n) s = .next t ∧ t.job.running = false ∧
        (∀ m, (t.ctxAt m).live = false) ∧ Memory.byte t.mem (complKey s.job.compl + 7) = 3 ∧ Memory.byte t.mem (complKey s.job.compl + 6) = BitVec.ofNat 8 s.job.stopReason ∧
        t.dev.queue n.toNat = if x.td then { x with td := false, head := x.tail, accepted := x.tail } else x))

/-- R2, R197, R201, R209, R314, R424: HOST_WRITE, HOST_READ, HOST_ATOMICOP and PEER_DEVICE_ACCESS act at their home in module memory, in little-endian order, within its 2^40 bytes and while the host's link is up and does not idle (R430); a host write that a region of a running job forbids, or one that is not loaded, is dropped, logged and answered with an error, which is no bytes. A read-modify-write comes after an atomic that has read the word and not written it, and writes with a second access (R286). R416: the responder returns manifests and measurements. R429: the configuration space answers from bring-up step 5, and R430: PMCSR shows the power state and No_Soft_Reset (log 133). R405, R420 to R423, R427: the registers read as their rows say; ELBASE lets queues be taken, LOST and TRDROP clear when read, and a counter's configuration is written. The step of bring-up that an access finds is log 48, a write of CNTCFG log 85, the low bits of a base log 94, what a peer or an AtomicOp is checked for log 98, and an answer of no bytes, CRS among them, log 100. -/
def Obligations.TheHostReachesMemoryAndRegisters : Prop :=
  ∀ (s : State),
    let quiet (e : Instr) : Prop := s.inbox = [] → exec e s = .next s
    let calm (t : State) : Prop := t.job = s.job ∧ t.core.matrix.acc = s.core.matrix.acc ∧ t.full = s.full ∧ ∀ m r, (t.ctxAt m).reg r = (s.ctxAt m).reg r
    (quiet .hostWrite ∧ quiet .hostRead ∧ quiet .hostAtomicop ∧ quiet .peerDeviceAccess ∧ quiet .getMeasurements ∧ quiet .vendorDefinedRequest ∧ quiet .spdmRequest ∧
      quiet .configurationSpaceAccess ∧ quiet .elbase ∧ quiet .cntcfg) ∧
    (exec .lost s = .next { s with dev := { s.dev with lost := 0, reply := bytesOfNat s.dev.lost.toNat 8 } }) ∧
    (exec .trdrop s = .next { s with dev := { s.dev with trdrop := 0, reply := bytesOfNat s.dev.trdrop.toNat 8 } }) ∧
    (∀ r l, s.inbox = r :: l →
      let key := r.addr
      let replies (e : Instr) (bs : List Byte) : Prop := exec e s = .next { s with inbox := l, dev := { s.dev with reply := bs } }
      let nothing (e : Instr) : Prop := exec e s = .next { s with inbox := l }
      let rgn (f : Nat × Nat × Nat) : Prop := ∃ w, s.region f.2.2 = some w ∧ codeAllowsHost (writerCode w s.job.superstep s.exchange) = true
      let allowed (n : Nat) : Prop := (s.job.running = false ∨ ∀ f ∈ s.revmap, overlaps key n f.1 f.2.1 = true → rgn f) ∧
        ∀ j ∈ s.dev.jobs, j.saved = true ∨ Config.otherAllows j.job.jobid s.cycle key n = true
      let w := atomicBits r.ty
      let old := natOfBytes (Memory.read s.mem key (w / 8))
      let op : Rmw := match r.compare with | some e => .cas r.ty e | none => .op r.op r.ty
      let swaps (e : Instr) : Prop := s.halfDone key (w / 8) = false → s.bad = [] → ∃ t, exec e s = .next t ∧ calm t ∧ t.inbox = l ∧
        t.dev = { s.dev with reply := bytesOfNat old (w / 8) } ∧ t.mem = s.mem ∧ .accessPerformed s.seq ∈ t.agenda ∧
        t.halves = s.halves ++ [{ seq := s.seq, source := 0xFFFF, key, data := bytesOfNat (op.new old r.value) (w / 8) }]
      let writes (e : Instr) : Prop := s.unhashed → s.core.snapshot = none → ∃ t, exec e s = .next t ∧ calm t ∧ t.inbox = l ∧ t.dev = s.dev ∧ t.mem = Memory.write s.mem key r.data
      let refused (e : Instr) : Prop := s.dev.elbase = 0 → s.dev.lost ≠ BitVec.allOnes 32 → exec e s = .next { s with inbox := l, dev := { s.dev with lost := s.dev.lost + 1, reply := [] } }
      let proper : Prop := (r.compare.isSome = true ∨ r.op = .add ∨ r.op = .swap) ∧ r.addr % (w / 8) = 0 ∧ r.addr < 2 ^ 40
      let up : Prop := s.dev.hostLink = true ∧ s.dev.power = .d0
      (¬ up → nothing .hostWrite ∧ nothing .hostRead ∧ nothing .hostAtomicop) ∧
      (up →
        (2 ^ 40 < r.addr + r.data.length → nothing .hostWrite) ∧
        (r.addr < 2 ^ 40 → r.addr + r.data.length ≤ 2 ^ 40 → (allowed r.data.length → writes .hostWrite) ∧ (¬ allowed r.data.length → refused .hostWrite)) ∧
        (r.bar0 = false → 2 ^ 40 < r.addr + r.n → nothing .hostRead) ∧
        (r.bar0 = false → r.addr < 2 ^ 40 → r.addr + r.n ≤ 2 ^ 40 → s.bad = [] → replies .hostRead (Memory.read s.mem key r.n)) ∧
        (¬ proper → nothing .hostAtomicop) ∧
        (proper → (allowed (w / 8) → swaps .hostAtomicop) ∧ (¬ allowed (w / 8) → refused .hostAtomicop)) ∧
        (r.bar0 = true →
          let reads (v : Word) : Prop := replies .hostRead (bytesOfNat v.toNat 8)
          let x := s.dev.queue ((r.addr - 0x10000) / 64 % 256)
          (0x10000 ≤ r.addr → r.addr < 0x14000 → (r.addr % 64 = 0 → reads x.base) ∧ (r.addr % 64 = 8 → reads (x.size.setWidth 64)) ∧ (r.addr % 64 = 16 → reads (x.head.setWidth 64)) ∧
            (r.addr % 64 = 24 → reads (x.tail.setWidth 64)) ∧
            (r.addr % 64 = 32 → reads (BitVec.ofNat 64 ((if x.en then 1 else 0) + (if x.td then 2 else 0) + x.vec.toNat * 256 + (if x.irq then 65536 else 0)))) ∧
            (0x28 ≤ r.addr % 64 → reads 0)) ∧
          (r.addr = 0x0 → reads (BitVec.ofNat 64 (s.dev.pwrCap.toNat + if s.dev.pwrEn then 65536 else 0))) ∧
          (r.addr = 0x8 → reads (BitVec.ofNat 64 (s.dev.pwr.toNat + s.dev.tjmax.toNat * 2 ^ 16 + (if s.dev.throt then 2 ^ 24 else 0) + if s.dev.hot then 2 ^ 25 else 0))) ∧
          (r.addr = 0x100 → reads s.dev.elbase) ∧ (r.addr = 0x108 → reads (s.dev.elsize.setWidth 64)) ∧ (r.addr = 0x110 → reads (s.dev.elprod.setWidth 64)) ∧
          (r.addr = 0x118 → reads (s.dev.elcons.setWidth 64)) ∧ (r.addr = 0x210 → reads s.dev.trbase) ∧ (r.addr = 0x220 → reads (s.dev.trprod.setWidth 64)) ∧
          (r.addr = 0x200 → reads (BitVec.ofNat 64 (s.dev.dbgJob.toNat + (if s.dev.dbgClaimed then 2 ^ 32 else 0) +
            (if s.dev.dbgStopped && s.dev.dbgClaimed && s.runs s.dev.dbgJob then 2 ^ 33 else 0) + if s.dev.dbgBad then 2 ^ 34 else 0))) ∧
          (∀ k : Fin 16, r.addr = 0x100000 + 8 * (16 * s.core.num.toNat + k.val) → s.core.num.toNat < 3072 → let c := s.core.counters.get k
            reads (BitVec.ofNat 64 (c.evsel.toNat + (if c.ovf then 2 ^ 61 else 0) + (if c.ovie then 2 ^ 62 else 0) + if c.en then 2 ^ 63 else 0))) ∧
          (∀ k : Fin 16, r.addr = 0x180000 + 8 * (16 * s.core.num.toNat + k.val) → s.core.num.toNat < 3072 → reads ((s.core.counters.get k).val.setWidth 64)))) ∧
      (2 ^ 40 ≤ r.addr ∨ s.dev.power ≠ .d0 → nothing .peerDeviceAccess) ∧
      (r.addr < 2 ^ 40 → s.dev.power = .d0 → (r.write = true → writes .peerDeviceAccess) ∧ (r.write = false → r.n = 0 → swaps .peerDeviceAccess) ∧
        (r.write = false → r.n ≠ 0 → s.bad = [] → replies .peerDeviceAccess (Memory.read s.mem key r.n))) ∧
      (1 ≤ r.addr → r.addr ≤ 8 → replies .getMeasurements (bytesOfNat (Config.firmwareMeasurement r.addr).toNat 64)) ∧
      (r.addr = 0 ∨ 8 < r.addr → replies .getMeasurements (bytesOfNat (Config.spdmReply r.addr).toNat 8)) ∧
      replies .spdmRequest (bytesOfNat (Config.spdmReply r.addr).toNat 8) ∧
      ((∀ m ∈ s.dev.manifests, m.1.toNat ≠ r.addr) → replies .vendorDefinedRequest []) ∧
      (∀ m, m ∈ s.dev.manifests → m.1.toNat = r.addr → (∀ u ∈ s.dev.manifests, u.1 = m.1 → u = m) → replies .vendorDefinedRequest m.2) ∧
      (s.dev.bringUp < 5 → replies .configurationSpaceAccess []) ∧
      (5 ≤ s.dev.bringUp → ∃ v : BitVec 32, replies .configurationSpaceAccess (bytesOfNat v.toNat 4) ∧ (r.addr ≠ Config.pmcsr → v = Config.configSpace r.addr) ∧
        (r.addr = Config.pmcsr → v.getLsbD 3 = true ∧ natBits v.toNat 1 0 = (if s.dev.power = .d0 then 0 else 3) ∧ ∀ k, k ≠ 0 → k ≠ 1 → k ≠ 3 → v.getLsbD k = (Config.configSpace r.addr).getLsbD k)) ∧
      (∃ t, exec .elbase s = .next t ∧ { t with dev := s.dev, inbox := s.inbox } = s ∧ t.inbox = l ∧ t.dev.elbase = r.value &&& ~~~0xFFF#64 ∧
        (r.value &&& ~~~0xFFF#64 ≠ 0 → ∀ q, q ∈ s.dev.queues.map Prod.fst → t.dev.queue q = { s.dev.queue q with accepted := (s.dev.queue q).tail })) ∧
      (∀ k : Fin 16, r.addr = 0x100000 + 8 * (16 * s.core.num.toNat + k.val) → s.core.num.toNat < 3072 → ∃ t, exec .cntcfg s = .next t ∧ { t with core := s.core, inbox := s.inbox } = s ∧ t.inbox = l ∧
        { t.core with counters := s.core.counters } = s.core ∧ (∀ j, j ≠ k → t.core.counters.get j = s.core.counters.get j) ∧
        let c := s.core.counters.get k
        t.core.counters.get k = if r.value.getLsbD 61 then { en := r.value.getLsbD 63, ovie := r.value.getLsbD 62, ovf := false, evsel := r.value.setWidth 8, val := 0 }
          else { c with en := r.value.getLsbD 63, ovie := r.value.getLsbD 62, evsel := r.value.setWidth 8 }))
/-! ## Debug, health, power and resets (R417 to R430) -/

/-- R418, R423: DBGCLAIM claims a running job and marks a JOBID that does not run; the release lets the job go on; STOP stops a free job at once, dropping what remains of a pause (R151), and a superstep job at its next exchange boundary; RESUME lets it go on; a job on other cores stops there (log 40); STEP names one context of this core, and a stopped job that is evicted takes its step once it is back (log 93); KILL ends the claimed job with REASON 6, wherever it runs. While the claimed job is stopped, and at no other time, DBGDATA reads and writes what DBGSEL names: a register, a word of the scratchpad, a word of the partition. -/
def Obligations.TheDebugEngineClaimsStopsAndReads : Prop :=
  ∀ (s : State),
    let d := s.dev
    let quiet (e : Instr) : Prop := s.inbox = [] → exec e s = .next s
    let key := complKey s.job.compl
    let held : Prop := d.dbgClaimed = true ∧ d.dbgJob = s.job.jobid ∧ s.job.running = true
    let saved := s.evicted.find? (fun y => decide (y.job.jobid = d.dbgJob))
    (quiet .debugClaim ∧ quiet .debugRelease ∧ quiet .dbgdataWrite) ∧
    (∀ r l, s.inbox = r :: l → let j : BitVec 32 := r.value.setWidth 32
      let runs : Prop := (s.job.running = true ∧ s.job.jobid = j) ∨ (∃ u ∈ s.evicted, u.job.jobid = j) ∨ ∃ u ∈ d.jobs, u.job.jobid = j
      (runs → exec .debugClaim s = .next { s with inbox := l, dev := { d with
        dbgJob := j, dbgClaimed := true, dbgBad := false, dbgStopped := d.dbgStopped && decide (d.dbgJob = j), dbgStopReq := d.dbgStopReq && decide (d.dbgJob = j) } }) ∧
      (¬ runs → ∃ t, exec .debugClaim s = .next t ∧ { t with dev := d, inbox := s.inbox } = s ∧ t.dev.dbgClaimed = false ∧ t.dev.dbgBad = true ∧ t.dev.dbgJob = j) ∧
      (exec .debugRelease s = .next { s with inbox := l, dev := { d with dbgJob := j, dbgClaimed := false, dbgStopped := false, dbgStopReq := false, dbgStep := none } })) ∧
    (d.dbgClaimed = false ∨ d.dbgStopped = true → exec .stop s = .next s) ∧
    (d.dbgClaimed = true → d.dbgStopped = false → ¬ held →
      (∀ y, saved = some y → exec .stop s = .next { s with dev := if y.job.superstep then { d with dbgStopReq := true } else { d with dbgStopped := true } }) ∧
      (saved = none → exec .stop s = .next { s with dev := { d with dbgStopped := d.jobs.any fun u => decide (u.job.jobid = d.dbgJob) } })) ∧
    (d.dbgStopped = false → held → s.job.superstep = true → exec .stop s = .next { s with dev := { d with dbgStopReq := true } }) ∧
    (d.dbgStopped = false → held → s.job.superstep = false → ∃ t, exec .stop s = .next t ∧ { t with dev := d, mem := s.mem, ctxs := s.ctxs } = s ∧ t.dev.dbgStopped = true ∧
      (∀ m, t.ctxAt m = if (s.ctxAt m).paused then { s.ctxAt m with paused := false, nextIssue := s.cycle + 1 } else s.ctxAt m) ∧
      (d.trbase = 0 → t.mem = s.mem ∧ t.dev = { d with dbgStopped := true, dbgStopReq := false })) ∧
    (exec .resume s = .next (if d.dbgClaimed then { s with dev := { d with dbgStopped := false, dbgStopReq := false, dbgStep := none } } else s)) ∧
    (d.dbgStopped = false ∨ d.dbgClaimed = false ∨ (¬ held ∧ saved = none) ∨ s.inbox = [] → ∃ t, exec .step s = .next t ∧ { t with inbox := s.inbox } = s) ∧
    (∀ r l j, s.inbox = r :: l → d.dbgStopped = true → d.dbgClaimed = true → (held ∧ j = s.job) ∨ (¬ held ∧ ∃ y, saved = some y ∧ j = y.job) →
      (j.superstep = true → exec .step s = .next { s with inbox := l, dev := { d with dbgStopped := false, dbgStopReq := true } }) ∧
      (∀ n : Fin 11, j.superstep = false → natBits r.value.toNat 23 20 = n.val → natBits r.value.toNat 19 8 = s.core.num.toNat →
        exec .step s = .next { s with inbox := l, dev := { d with dbgStep := some n } })) ∧
    (d.dbgClaimed = false → exec .kill s = .next s) ∧
    (held → s.accs = [] → (∀ m, (s.ctxAt m).takeOrder = []) → (s.job.compl.getLsbD 63 = true → d.hostLink = true) → ∃ t, exec .kill s = .next t ∧
      t.job.running = false ∧ (∀ m, (t.ctxAt m).live = false) ∧ Memory.byte t.mem (key + 7) = 3 ∧ Memory.byte t.mem (key + 6) = 6 ∧
      (∀ k, k < key ∨ key + 64 ≤ k → Memory.byte t.mem k = Memory.byte s.mem k) ∧ t.dev.dbgStopped = false) ∧
    (∀ u, d.dbgClaimed = true → ¬ held → s.job.running = false → s.evicted = [] → d.jobs = [u] → u.job.jobid = d.dbgJob → (u.job.compl.getLsbD 63 = true → d.hostLink = true) → ∃ t, exec .kill s = .next t ∧
      t.dev.jobs = [] ∧ t.evicted = [] ∧ Memory.byte t.mem (complKey u.job.compl + 7) = 3 ∧ Memory.byte t.mem (complKey u.job.compl + 6) = 6 ∧
      (∀ k, k < complKey u.job.compl ∨ complKey u.job.compl + 64 ≤ k → Memory.byte t.mem k = Memory.byte s.mem k) ∧ t.dev.dbgStopped = false) ∧
    (let sel := d.dbgsel.toNat
     let core : BitVec 12 := d.dbgsel.extractLsb' 0 12
     let space := natBits sel 19 16
     let i := natBits sel 63 32
     let open_ : Prop := d.dbgStopped = true ∧ held ∧ core ∈ s.job.cores
     let reads (v : Word) : Prop := exec .dbgdataRead s = .next { s with dev := { d with reply := bytesOfNat v.toNat 8 } }
     (d.dbgStopped = false ∨ (held ∧ core ∉ s.job.cores) → reads 0 ∧ ∃ t, exec .dbgdataWrite s = .next t ∧ { t with inbox := s.inbox } = s) ∧
     (open_ → space = 5 → i < 0x80000 → i % 8 = 0 → reads (bitsOfBytes 64 (Memory.read s.mem (scratchKey core.toNat i) 8)) ∧
       ∀ r l, s.inbox = r :: l → s.unhashed → s.core.snapshot = none → ∃ t, exec .dbgdataWrite s = .next t ∧ { t with mem := s.mem, inbox := s.inbox } = s ∧ t.inbox = l ∧
         t.mem = Memory.write s.mem (scratchKey core.toNat i) (bytesOfNat r.value.toNat 8)) ∧
     (open_ → core = s.core.num → space = 6 → i < 16384 → reads ((Sparse.get 0 s.core.matrix.acc i).setWidth 64) ∧
       ∀ r l, s.inbox = r :: l → ∃ t, exec .dbgdataWrite s = .next t ∧ t.mem = s.mem ∧ t.ctxs = s.ctxs ∧
         ∀ k, Sparse.get 0 t.core.matrix.acc k = if k = i then r.value.setWidth 32 else Sparse.get 0 s.core.matrix.acc k) ∧
     (∀ n : Fin 11, open_ → core = s.core.num → natBits sel 15 12 = n.val →
       let puts (q : Reg) (f : Word → Vec) : Prop := ∀ r l, s.inbox = r :: l → q ≠ .x 0 → ∃ t, exec .dbgdataWrite s = .next t ∧ t.mem = s.mem ∧ t.cur = s.cur ∧ t.inbox = l ∧
         (t.ctxAt n).reg q = f r.value ∧ (∀ u, u ≠ q → (t.ctxAt n).reg u = (s.ctxAt n).reg u) ∧ (t.ctxAt n).pc = (s.ctxAt n).pc ∧ ∀ m, m ≠ n → t.ctxAt m = s.ctxAt m
       (space = 0 → i < 32 → reads ((s.ctxAt n).readX (BitVec.ofNat 5 i)) ∧ puts (.x (BitVec.ofNat 5 i)) wide) ∧
       (space = 1 → i < 256 → reads (BitVec.ofNat 64 (lane ((s.ctxAt n).readV (BitVec.ofNat 5 (i / 8))) 64 (i % 8))) ∧
         puts (.v (BitVec.ofNat 5 (i / 8))) fun w => setLane ((s.ctxAt n).readV (BitVec.ofNat 5 (i / 8))) 64 (i % 8) w.toNat) ∧
       (space = 2 → i < 8 → reads ((s.ctxAt n).readP (BitVec.ofNat 3 i)) ∧ puts (.p (BitVec.ofNat 3 i)) wide)))

/-- R417, R421, R426, R427: a PTM exchange steps DEVTIME forward when the device is behind by 1 ms or more, and else sets the offset to slew; a test slice runs on an idle unit and its end updates the unit's entry and logs a failure; PWRCTL keeps its cap between 1,200 and 3,200 W; PWRST clears HOT; a window throttles on its power or temperature. R201, R424, R427, R428, R430: cold reset, function-level reset, a trip and D3cold leave no job, no listed byte of the module and every register at reset, the function-level reset keeping DEVTIME (log 50); D3hot ends the job, D0 returns to service; bring-up comes to its steps in order, in step 4 with a test slice of every unit and in step 5 with every queue off; a port or the host's link goes down without stopping the device. SOURCE of a failed slice is log 49, a new offset replaces the old one (log 95), D3hot ends evicted jobs and those on other cores too (log 96), a cold reset leaves the module without a listed byte (log 101), and what a slice of the bring-up finds is a free value (log 47). -/
def Obligations.TheDeviceIsTestedPoweredAndReset : Prop :=
  ∀ (s : State),
    let d := s.dev
    let quiet (e : Instr) : Prop := s.inbox = [] → exec e s = .next s
    let fresh (t : State) : Prop := t.job = Job.none ∧ (∀ m, t.ctxAt m = Ctx.reset) ∧ t.core = { Core.reset with num := s.core.num } ∧ t.accs = [] ∧ t.full = [] ∧ t.evicted = [] ∧ t.micro = [] ∧
      t.clutlb = [] ∧ t.lasttlb = [] ∧ t.icache = [] ∧ t.regions = [] ∧ t.drapers = [] ∧ t.bar = Barriers.reset ∧ t.clu = Cluster.reset ∧ t.inbox = s.inbox ∧ t.turns = s.turns ∧
      ∀ k, Memory.byte t.mem k = if Config.peerBase ≤ k then Memory.byte s.mem k else 0
    (quiet .ptmExchange ∧ quiet .testSlice ∧ quiet .testSliceEnd ∧ quiet .pwrctl ∧ quiet .pwrst ∧ quiet .luralPortDown) ∧
    (∀ r l, s.inbox = r :: l →
      let dev (f : Device) : State := { s with inbox := l, dev := f }
      let h := d.healthOf r.addr
      (exec .ptmExchange s = .next (dev (if 1000000 ≤ r.value.toInt then { d with devtime := d.devtime + r.value, slew := 0 } else { d with slew := r.value.toInt }))) ∧
      (exec .pwrctl s = .next (dev { d with pwrEn := r.value.getLsbD 16, pwrCap := BitVec.ofNat 16 (max 1200 (min 3200 (natBits r.value.toNat 15 0))) })) ∧
      (exec .pwrst s = .next (dev { d with hot := d.hot && !r.value.getLsbD 25 })) ∧
      (3456 ≤ r.addr → exec .testSlice s = .next (dev d)) ∧
      (let busy (k : Nat) : Prop := (s.job.running = true ∧ BitVec.ofNat 12 k ∈ s.job.cores) ∨ (∃ j ∈ d.jobs, j.saved = false ∧ BitVec.ofNat 12 k ∈ j.job.cores)
       (r.addr < 3072 → busy r.addr → exec .testSlice s = .next (dev d)) ∧
       (3072 ≤ r.addr → r.addr < 3456 → (∃ i < 8, busy ((r.addr - 3072) * 8 + i)) → exec .testSlice s = .next (dev d))) ∧
      (r.addr < 3456 → s.job.running = false → (∀ j ∈ d.jobs, j.saved = true) → ∃ t, exec .testSlice s = .next t ∧ { t with dev := d, inbox := s.inbox } = s ∧ { t.dev with health := d.health } = d ∧
        t.dev.healthOf r.addr = { h with running := true } ∧ ∀ u, u ≠ r.addr → t.dev.healthOf u = d.healthOf u) ∧
      (h.running = false → exec .testSliceEnd s = .next (dev d)) ∧
      (h.running = true → r.value.getLsbD 0 = true → ∃ t, exec .testSliceEnd s = .next t ∧ { t with dev := d, inbox := s.inbox } = s ∧ { t.dev with health := d.health } = d ∧
        t.dev.healthOf r.addr = { pass := true, time := d.devtime, fails := h.fails, running := false } ∧ ∀ u, u ≠ r.addr → t.dev.healthOf u = d.healthOf u) ∧
      (h.running = true → r.value.getLsbD 0 = false → d.elbase ≠ 0 → (d.elprod - d.elcons).toNat < 2 ^ (d.elsize.toNat + 7) → ∃ t, exec .testSliceEnd s = .next t ∧
        t.dev.healthOf r.addr = { pass := false, time := d.devtime, fails := h.fails + 1, running := false } ∧ t.dev.elprod = d.elprod + 1 ∧
        Memory.byte t.mem (hbmKey (d.elbase.toNat + 32 * (d.elprod.toNat % 2 ^ (d.elsize.toNat + 7)))) = 9) ∧
      (∃ t, exec .luralPortDown s = .next t ∧ { t with dev := d, inbox := s.inbox } = s ∧ { t.dev with luralDown := d.luralDown } = d ∧
        ∀ p, p ∈ t.dev.luralDown ↔ p ∈ d.luralDown ∨ p = BitVec.ofNat 4 r.addr)) ∧
    (∃ t, exec .throttleWindow s = .next t ∧ { t with dev := d, agenda := s.agenda } = s ∧ t.dev.windows = d.windows + 1 ∧
      t.agenda = (if 115 ≤ t.dev.tjmax.toNat then s.agenda ++ [.trip] else s.agenda) ∧ (105 ≤ t.dev.tjmax.toNat → t.dev.hot = true ∧ t.dev.throt = true) ∧ (d.hot = true → t.dev.hot = true) ∧
      ((if d.pwrEn then d.pwrCap.toNat else 3200) < t.dev.pwr.toNat → t.dev.throt = true) ∧
      (t.dev.pwr.toNat ≤ (if d.pwrEn then d.pwrCap.toNat else 3200) → t.dev.tjmax.toNat < 105 → t.dev.throt = false ∧ t.dev.hot = d.hot)) ∧
    (∃ t, exec .coldReset s = .next t ∧ fresh t ∧ t.dev.queues = [] ∧ t.dev.events = [] ∧ t.dev.elbase = 0 ∧ t.dev.devtime = 0 ∧ t.dev.power = .d0 ∧ t.dev.bringUp = 1 ∧ t.dev.health = [] ∧
      t.dev.manifests = [] ∧ t.dev.dbgClaimed = false ∧ t.dev.jobs = []) ∧
    (∃ t, exec .functionLevelReset s = .next t ∧ fresh t ∧ t.dev.queues = [] ∧ t.dev.events = [] ∧ t.dev.elbase = 0 ∧ t.dev.devtime = d.devtime ∧ t.dev.power = .d0 ∧ t.dev.jobs = []) ∧
    (∀ e, e = Instr.trip ∨ e = .d3cold → ∃ t, exec e s = .next t ∧ fresh t ∧ t.dev.power = .off ∧ t.dev.queues = [] ∧ t.dev.hostLink = false) ∧
    (∃ t, exec .d3hot s = .next t ∧ t.dev.power = .d3hot ∧ t.job = Job.none ∧ t.dev.jobs = [] ∧ t.evicted = [] ∧ t.mem = s.mem ∧ (∀ m, (t.ctxAt m).live = false) ∧ t.dev.queues = d.queues ∧
      t.dev.health = d.health ∧ t.dev.devtime = d.devtime ∧ t.dev.manifests = d.manifests ∧ t.dev.events = d.events) ∧
    (d.power ≠ .off → exec .d0 s = .next { s with dev := { d with power := .d0 } }) ∧
    (let up : State := { s with dev := { d with bringUp := d.bringUp + 1 } }
     let next : State := s.freeTurn .bringUp
     (d.power ≠ .d0 ∨ d.bringUp = 0 ∨ 5 ≤ d.bringUp → next = s) ∧
     (d.power = .d0 → (d.bringUp = 1 ∨ d.bringUp = 2 → next = up) ∧
       (d.bringUp = 3 → next.dev.bringUp = 4 ∧ ((∀ u < 3456, Config.bringUpPass s.cycle u = true) → next = up) ∧
         ∀ u < 3456, (next.dev.healthOf u).pass = ((d.healthOf u).pass && Config.bringUpPass s.cycle u)) ∧
       (d.bringUp = 4 → next.dev.bringUp = 5 ∧ (∀ q ∈ d.queues, (next.dev.queue q.1).en = false) ∧ next.mem = s.mem))) ∧
    (exec .hostLinkDown s = .next { s with dev := { d with hostLink := false } })
/-! ## The machine as a whole (R2, R17, R33 to R49, R58, R140, R144, R405, R428, R429) -/

/-- R49: an instruction that reads or writes a register with a variable-latency write outstanding meets a hazard, counted by event 3 (R420). With CHK = 0 it sets HAZ and goes on, reading the value that the register holds; with CHK = 1 it writes nothing, and traps with cause 0x09 and the register in DETAIL: the trap is raised, and is taken in a cycle by which every earlier write has been performed (R140). `usesOf` lists what each instruction of the opcode table reads and writes (log 53); CNTRD reads its counter before its own hazard is counted (R151). A vector instruction whose stream has not fetched what it reads does not issue (R17, R168). -/
def Obligations.HazardsSetHazOrTrap : Prop :=
  (∀ (i : Instr) (rs ws : List Reg), usesOf i = some (rs, ws) → ∃ k : State → State,
    (∀ s : State, exec i s = .next s ∨ exec i s = .next (s.issue rs ws k)) ∧
    ∀ s : State, (∀ q : BitVec 2, (s.stream q).ready ≤ s.cycle ∧ ∀ e < (s.stream q).remain, ((s.stream q).fetched? e).isSome = true) →
      (s.ctx.wait.isSome = true → exec i s = .next (k s)) ∧
      (s.ctx.wait = none → (∀ r ∈ rs ++ ws, ∀ w ∈ s.ctx.writes, w.reg = r → w.due.isSome = true ∧ w.late = false) →
        exec i s = .next (k (s.modCtx fun c => { c with inTaint := c.taintOf (rs.map .reg) }))) ∧
      (∀ w, s.ctx.wait = none → w ∈ s.ctx.writes → w.due = none ∨ w.late = true → w.reg ∈ rs ++ ws →
        (s.ctx.chk = false → exec i s = .next (k ((s.count 3).modCtx fun c => { c with haz := true, inTaint := c.taintOf (rs.map .reg) }))) ∧
        (s.ctx.chk = true → (∀ y ∈ s.ctx.writes, y.due = none) → ∃ t, exec i s = .next t ∧
          (∃ y ∈ s.ctx.writes, y.reg ∈ rs ++ ws ∧ t.ctx.trapping = some (TrapInfo.at s.ctx.pc 0x09 y.reg.detail 0)) ∧
          t.ctx.pc = s.ctx.pc ∧ t.ctx.haz = s.ctx.haz ∧ (∀ q, t.ctx.reg q = s.ctx.reg q) ∧ t.ctx.writes = s.ctx.writes ∧ t.mem = s.mem ∧ t.accs = s.accs ∧
          t.ctx.slots = s.ctx.slots ∧ t.bar = s.bar ∧ t.clu = s.clu ∧ t.dev = s.dev ∧ t.job = s.job))) ∧
  (∀ (sw : Bool) (d : BitVec 5) (c : BitVec 4), ∃ k : BitVec 48 → State → State, ∀ s : State,
    exec (.cntrd sw d c) s = .next (s.issue [] [.x d] (k (s.core.counters.get c.toFin).val))) ∧
  ∀ s : State,
    (∀ (c : Fin 11) (tr : TrapInfo), (s.ctxAt c).trapping = some tr → s.attends c = true → (∀ y ∈ (s.ctxAt c).writes, ∃ d, y.due = some d ∧ d ≤ s.cycle) ∧
      ((s.ctxAt c).writes = [] → (s.ctxAt c).wait = none → (s.ctxAt c).inTrap = false → ∃ t, s.attend c = .done t ∧ t.cur = c ∧
        (s.ctxAt c).entered t.ctx tr s.job.trapvec)) ∧
    (∀ (sw : Bool) (d a b : BitVec 5) (t : IntTy) (v : Variant) (w : PendingWrite), w ∈ s.ctx.writes → w.due = none → w.reg = .x a ∨ w.reg = .x b ∨ w.reg = .x d →
      s.ctx.wait = none → s.ctx.chk = false → d ≠ 0 → s.ctx.writes = [w] →
      ∃ r, exec (.add sw d a b t v) s = .next r ∧ r.ctx.haz = true ∧ r.ctx.reg (.x d) = wide (typedWord t v (extWord t (s.readX a) + extWord t (s.readX b))) ∧
        ∀ q, q ≠ .x d → r.ctx.reg q = s.ctx.reg q)

/-- R17, R20, R33, R43, R44, R58, R144, R420: in a core cycle the first ready context of the round-robin order issues, and the contexts that waited at its beginning, had a trap to take or a frame to fetch are served after it without an issue slot; one whose instruction is stalled on a stream has not issued (R168). With no frame running, the instruction that the bytes at its program counter decode to, or the undefined instruction where they decode to none; in a frame, the frame's word. What the step adds is the cycle's own counting and what another member of the gang has done (R144). The tape says which agent moves: an event due at the place it names, a core cycle, a cycle that throttling withholds, or what the other cores and the freedom of the memory model allow (log 34); without it the oldest event happens, else a core cycle (log 1). Code in the local window is read at the program counter, in a gang in the leader's scratchpad. Without power nothing runs. A waiting instruction has taken its slot when it first issued (log 61), and a follower fetches at the place of its leader (log 108). -/
def Obligations.StepsRunTheDecodedInstruction : Prop :=
  ∀ (s : State),
    let on : Prop := s.dev.power ≠ .off
    (¬ on → .coldReset ∉ s.agenda → step s = .fault .poweredOff) ∧
    (on → s.turns = [] → ∀ e l, s.agenda = e :: l → step s = exec e { s with agenda := l }) ∧
    (on → ∀ k ts, s.turns = .event k :: ts →
      (∀ e, s.agenda[k]? = some e → step s = exec e { s with turns := ts, agenda := s.agenda.eraseIdx k }) ∧
      (s.agenda[k]? = none → step s = .next { s with turns := ts })) ∧
    (on → ∀ ts, s.turns = .withheld :: ts → s.dev.throt = true → step s = .next { s with turns := ts }.tick.countCycle) ∧
    (on → ∀ y ts, s.turns = y :: ts → (∀ k, y ≠ .event k) → y ≠ .issue → y ≠ .withheld → step s = .next ({ s with turns := ts }.freeTurn y)) ∧
    (on → ∀ c : State, (s.turns = [] ∧ s.agenda = [] ∧ c = s) ∨ (∃ ts, s.turns = .issue :: ts ∧ c = { s with turns := ts }) ∨
        (∃ ts, s.turns = .withheld :: ts ∧ s.dev.throt = false ∧ c = { s with turns := ts }) →
      let u := c.tick
      let ends (x : State) : Prop :=
        ((∀ m, u.attends m = false) → step s = .next x.countCycle) ∧
        (∀ (n : Fin 11) (w : Wait) (i : Instr) (v : State), (∀ m, u.attends m = decide (m = n)) → x.attends n = true → (x.ctxAt n).wait = some w → w.instr = some i →
          exec i (x.resume n) = .next v → (x.resume n).gangStop = none → step s = .next (if stillWaits (x.resume n) v then x else v.keep i).countCycle)
      ((∀ n, u.readyAt n = false) → ends u) ∧
      (∀ (n : Fin 11) (before after : List (Fin 11)), u.order = before ++ n :: after → (∀ m ∈ before, u.readyAt m = false) → u.readyAt n = true →
        let b := u.begin n
        let runs (i : Instr) (f : State) : Prop := ∀ v, exec i f = .next v →
          (v.stalled = true → (∀ m ∈ after, u.readyAt m = false) → ends u) ∧
          (v.stalled = false → f.gangStop = none → ends ((v.keep i).count 1)) ∧
          (∀ pos, v.stalled = false → f.gangStop = some pos → trapped f v = false → ends (((f.dropStop.trapHere 0x17 (BitVec.ofNat 32 pos) 0).keep i).count 1)) ∧
          (∀ pos, v.stalled = false → f.gangStop = some pos → trapped f v = true → ends ((v.dropStop.keep i).count 1))
        (b.ctx.frame = [] → ∀ f bs, b.fetchAt b.ctx.pc = (f, .ok bs) →
          (∀ i rest, decodeBytes bs = .ok (i, rest) → WellFormed i ∧ runs i f) ∧
          (∀ e, decodeBytes bs = .error e → runs .undefinedInstruction f)) ∧
        (b.ctx.frame = [] → ∀ f x, b.fetchAt b.ctx.pc = (f, .error x) → ends ((f.trapFetch x).dropStop.endStep n)) ∧
        (b.ctx.frame ≠ [] → runs b.ctx.frameInstr b))) ∧
    (∀ n : Fin 11, let u := s.tick
      (u.begin n).core.last = n ∧ (u.begin n).cur = n ∧ (u.begin n).mem = s.mem ∧ (s.job.began = false → (u.begin n).job.startTime = u.dev.devtime) ∧ (s.job.began = true → (u.begin n).job = s.job) ∧
      ((s.ctxAt n).writes = [] → (u.begin n).ctx.pc = (s.ctxAt n).pc ∧
      ∀ r, (u.begin n).ctx.reg r = (s.ctxAt n).reg r)) ∧
    (s.core.gang = none → s.leader = s.core.num) ∧
    (∀ g, s.core.gang = some g → s.leader = BitVec.ofNat 12 (s.core.num.toNat / 32 * 32 + s.core.num.toNat % 32 / g.n * g.n)) ∧
    (∀ a : Word, a.toNat % 4 = 0 → a.toNat + 8 ≤ 0x80000 → s.icache = [] → (∀ c ∈ s.job.claims, overlaps a.toNat 8 c.off c.bytes = false) →
      let key := scratchKey s.leader.toNat a.toNat
      let w := Memory.read s.mem key 4
      ∃ f, { f with icache := [] } = s ∧ s.fetchAt a = (f, .ok (if isExt (bitsOfBytes 32 w) then Memory.read s.mem key 8 else w)))

/-- R34 to R46, R53, R55, R109, R133 to R147 and the encoding tables of the other chapters: words that the spec gives as examples, or that its tables give bit by bit, decode to the instructions that they stand for. -/
def Obligations.WordsOfTheSpecDecode : Prop :=
  decodeTableWord 32 0x01148318 = some (.add false 5 4 3 .s64 .wrap) ∧ decodeTableWord 32 0x01148310 = some (.add false 5 4 3 .s32 .wrap) ∧
  decodeTableWord 32 0x01148319 = some (.add false 5 4 3 .s64 .sat) ∧ decodeTableWord 32 0x07296C38 = some (.div false 10 11 12 .z64) ∧
  decodeTableWord 32 0x021CFFFC = some (.addi false 7 7 (-4) none) ∧ decodeTableWord 32 0x307FFFFD = some (.br false (-3) none) ∧
  decodeTableWord 32 0x3D084013 = some (.rptf false 2 2 0 1 3 none) ∧ decodeTableWord 32 0x4A240000 = some (.mfc false 9 .ctxst) ∧
  decodeTableWord 32 0x4B014000 = some (.mtc false 10 .ctxst) ∧ decodeTableWord 32 0x410C0608 = some (.hstart false 3 6 8 none) ∧
  decodeTableWord 32 0x47000021 = some (.trap false 0x21) ∧ decodeTableWord 32 0x48012001 = some (.rteXa false 9) ∧
  decodeTableWord 32 0x500C8502 = some (.vadd false 3 4 5 (.int .s8) 2 none) ∧ decodeTableWord 32 0x5D102342 = some (.vsel false 4 1 3 (.float .f32) 2 none) ∧
  decodeTableWord 64 0x219006A0FF00000C = some (.movi true 4 0x06A0 (some 0xC)) ∧ decodeTableWord 32 0x00000000 = none ∧ decodeTableWord 32 0xE0000000 = none ∧
  decodeTableWord 64 0xFF00000CFF00000C = none

/-- R405, R411, R417, R422, R423, R428, R429: after reset no context is live, every register reads 0 (log 4), no job has the core, no queue is enabled, no event is PENDING or FAILED, the error-log ring and the trace ring are not set, nothing is claimed, DEVTIME is 0, memory lists nothing and so reads 0 (log 3), and every queue, buffer and cache is empty; memory is in canonical form. With nothing from outside the next step is a cycle in which nothing issues. -/
def Obligations.ResetLeavesTheMachineEmpty : Prop :=
  Safe State.reset ∧ (∀ n, (State.reset.ctxAt n).live = false) ∧ (∀ n r, (State.reset.ctxAt n).reg r = 0) ∧ (∀ n, (State.reset.ctxAt n).inTrap = false ∧ (State.reset.ctxAt n).writes = []) ∧
  State.reset.job.running = false ∧ (∀ q, State.reset.dev.queue q = Queue.reset) ∧ (∀ e, Sparse.get EventState.done State.reset.dev.events e = .done) ∧ State.reset.dev.elbase = 0 ∧
  State.reset.dev.trbase = 0 ∧ State.reset.dev.lost = 0 ∧ State.reset.dev.dbgClaimed = false ∧ State.reset.dev.devtime = 0 ∧ State.reset.dev.jobs = [] ∧ State.reset.dev.manifests = [] ∧
  State.reset.accs = [] ∧ (∀ k, Memory.byte State.reset.mem k = 0) ∧ (∀ k, (State.reset.core.ports.get k).state = .closed) ∧ State.reset.core.matrix.queue = [] ∧ State.reset.full = [] ∧
  (∀ g, (State.reset.bar.groups.get g).res = false) ∧ State.reset.agenda = [] ∧ ∃ t, step State.reset = .next t ∧ t.mem = [] ∧ t.ctxs = State.reset.ctxs ∧ t.job = State.reset.job ∧ t.cycle = 1

/-- The model keeps memory in one form (log 3): memory holds each byte once, in the order of its keys, and lists no byte that reads as an unlisted one does: every step keeps that form. -/
def Obligations.EveryStepKeepsMemoryCanonical : Prop :=
  ∀ (s t : State), Safe s → step s = .next t → Safe t

/-- R2, R33 to R46 and the encoding tables of the chapters: encoding a well-formed instruction that has an encoding gives bytes that decode to it, whatever bytes follow; and every byte string that decodes to an instruction is its encoding, so no two strings give one instruction, and none that is ill-formed is given. -/
def Obligations.DecodeAndEncodeAgree : Prop :=
  (∀ (i : Instr) (rest : List Byte), WellFormed i → (encodeFields i).isSome = true → decodeBytes (encodeBytes i ++ rest) = .ok (i, rest)) ∧
  (∀ (bs rest : List Byte) (i : Instr), decodeBytes bs = .ok (i, rest) → WellFormed i ∧ (encodeFields i).isSome = true ∧ bs = encodeBytes i ++ rest)
end

