-- ==== Sys2Proof/Laws/Memory.lean ====
section
/-! SUPPORT. Sparse lists and memory: what a read gives after a write, and that every operation keeps the canonical form
(log 3). -/

namespace Sys2Proof.Machine

open Sys2Proof

/-! ## Reading after writing -/

section Sparse

variable {α : Type} {d : α}

theorem Sparse.get_erase_self (m : List (Nat × α)) (k : Nat) : Sparse.get d (Sparse.erase m k) k = d := by
  induction m with
  | nil => rfl
  | cons c m ih =>
    unfold Sparse.erase
    split
    · exact ih
    · rename_i h
      simp [Sparse.get, h, ih]

theorem Sparse.get_erase_ne {k j : Nat} (h : j ≠ k) (m : List (Nat × α)) : Sparse.get d (Sparse.erase m k) j = Sparse.get d m j := by
  induction m with
  | nil => rfl
  | cons c m ih =>
    unfold Sparse.erase
    split
    · rename_i hc
      rw [ih, Sparse.get, if_neg (by omega)]
    · simp only [Sparse.get, ih]

theorem Sparse.get_insert_self (k : Nat) (v : α) (m : List (Nat × α)) (h : ∀ c ∈ m, c.1 ≠ k) : Sparse.get d (Sparse.insert k v m) k = v := by
  induction m with
  | nil => simp [Sparse.insert, Sparse.get]
  | cons c m ih =>
    unfold Sparse.insert
    split
    · simp [Sparse.get]
    · have hc := h c (List.mem_cons_self ..)
      simp [Sparse.get, hc, ih fun e he => h e (List.mem_cons_of_mem _ he)]

theorem Sparse.get_insert_ne {k j : Nat} (h : j ≠ k) (v : α) (m : List (Nat × α)) : Sparse.get d (Sparse.insert k v m) j = Sparse.get d m j := by
  induction m with
  | nil => simp [Sparse.insert, Sparse.get, Ne.symm h]
  | cons c m ih =>
    unfold Sparse.insert
    split
    · rw [Sparse.get, if_neg (Ne.symm h)]
    · simp only [Sparse.get, ih]

theorem Sparse.mem_erase {k : Nat} {c : Nat × α} {m : List (Nat × α)} (h : c ∈ Sparse.erase m k) : c ∈ m ∧ c.1 ≠ k := by
  induction m with
  | nil => exact absurd h (List.not_mem_nil)
  | cons e m ih =>
    unfold Sparse.erase at h
    split at h
    · exact ⟨List.mem_cons_of_mem _ (ih h).1, (ih h).2⟩
    · rename_i he
      rcases List.mem_cons.1 h with rfl | h
      · exact ⟨List.mem_cons_self .., he⟩
      · exact ⟨List.mem_cons_of_mem _ (ih h).1, (ih h).2⟩

/-- A key reads the value that it was given. -/
@[simp] theorem Sparse.get_set_self [DecidableEq α] (m : List (Nat × α)) (k : Nat) (v : α) : Sparse.get d (Sparse.set d m k v) k = v := by
  unfold Sparse.set
  split
  · rename_i h
    rw [h]
    exact Sparse.get_erase_self m k
  · exact Sparse.get_insert_self k v _ fun c hc => (Sparse.mem_erase hc).2

/-- Every other key keeps its value. -/
theorem Sparse.get_set_ne [DecidableEq α] {k j : Nat} (h : j ≠ k) (m : List (Nat × α)) (v : α) : Sparse.get d (Sparse.set d m k v) j = Sparse.get d m j := by
  unfold Sparse.set
  split
  · exact Sparse.get_erase_ne h m
  · rw [Sparse.get_insert_ne h, Sparse.get_erase_ne h]

theorem Sparse.get_set [DecidableEq α] (m : List (Nat × α)) (k j : Nat) (v : α) :
    Sparse.get d (Sparse.set d m k v) j = if j = k then v else Sparse.get d m j := by
  split
  · rename_i h; rw [h, Sparse.get_set_self]
  · rename_i h; exact Sparse.get_set_ne h m v

/-- A list without some keys reads `d` there, and elsewhere as before. -/
theorem Sparse.get_filter (p : Nat → Bool) (m : List (Nat × α)) (k : Nat) :
    Sparse.get d (m.filter fun c => p c.1) k = if p k then Sparse.get d m k else d := by
  induction m with
  | nil => simp [Sparse.get]
  | cons c m ih =>
    obtain ⟨a, v⟩ := c
    by_cases hp : p a = true
    · rw [List.filter_cons_of_pos (by exact hp)]
      by_cases hk : a = k
      · subst hk; simp [Sparse.get, hp]
      · simp only [Sparse.get, if_neg hk, ih]
    · rw [List.filter_cons_of_neg (by simpa using hp), ih]
      by_cases hk : a = k
      · subst hk; simp [hp]
      · simp only [Sparse.get, if_neg hk]

/-! ## The canonical form -/

theorem Sparse.wfFrom_cons [DecidableEq α] {b : Nat} {c : Nat × α} {m : List (Nat × α)} :
    Sparse.wfFrom d b (c :: m) = true ↔ b ≤ c.1 ∧ c.2 ≠ d ∧ Sparse.wfFrom d (c.1 + 1) m = true := by
  simp only [Sparse.wfFrom, Bool.and_eq_true, decide_eq_true_eq, and_assoc]

theorem Sparse.wfFrom_mono [DecidableEq α] {b b' : Nat} (h : b' ≤ b) {m : List (Nat × α)} (w : Sparse.wfFrom d b m = true) :
    Sparse.wfFrom d b' m = true := by
  cases m with
  | nil => rfl
  | cons c m =>
    rw [Sparse.wfFrom_cons] at w ⊢
    exact ⟨h.trans w.1, w.2⟩

theorem Sparse.wfFrom_erase [DecidableEq α] {b : Nat} {m : List (Nat × α)} (w : Sparse.wfFrom d b m = true) (k : Nat) :
    Sparse.wfFrom d b (Sparse.erase m k) = true := by
  induction m generalizing b with
  | nil => exact w
  | cons c m ih =>
    rw [Sparse.wfFrom_cons] at w
    unfold Sparse.erase
    split
    · exact Sparse.wfFrom_mono (by omega) (ih w.2.2)
    · rw [Sparse.wfFrom_cons]
      exact ⟨w.1, w.2.1, ih w.2.2⟩

theorem Sparse.wfFrom_insert [DecidableEq α] {b k : Nat} {v : α} {m : List (Nat × α)} (w : Sparse.wfFrom d b m = true) (hb : b ≤ k) (hv : v ≠ d)
    (hk : ∀ c ∈ m, c.1 ≠ k) : Sparse.wfFrom d b (Sparse.insert k v m) = true := by
  induction m generalizing b with
  | nil =>
    show Sparse.wfFrom d b [(k, v)] = true
    rw [Sparse.wfFrom_cons]
    exact ⟨hb, hv, rfl⟩
  | cons c m ih =>
    rw [Sparse.wfFrom_cons] at w
    unfold Sparse.insert
    split
    · rename_i h
      rw [Sparse.wfFrom_cons, Sparse.wfFrom_cons]
      exact ⟨hb, hv, h, w.2⟩
    · rename_i h
      have hc := hk c (List.mem_cons_self ..)
      rw [Sparse.wfFrom_cons]
      exact ⟨w.1, w.2.1, ih w.2.2 (by show c.1 + 1 ≤ k; omega) fun e he => hk e (List.mem_cons_of_mem _ he)⟩

theorem Sparse.wfFrom_filter [DecidableEq α] {b : Nat} {m : List (Nat × α)} (w : Sparse.wfFrom d b m = true) (p : Nat × α → Bool) :
    Sparse.wfFrom d b (m.filter p) = true := by
  induction m generalizing b with
  | nil => exact w
  | cons c m ih =>
    rw [Sparse.wfFrom_cons] at w
    rw [List.filter_cons]
    split
    · rw [Sparse.wfFrom_cons]
      exact ⟨w.1, w.2.1, ih w.2.2⟩
    · exact Sparse.wfFrom_mono (by omega) (ih w.2.2)

/-- Giving a key a value keeps the canonical form. -/
theorem Sparse.wf_set [DecidableEq α] {m : List (Nat × α)} (w : Sparse.wf d m = true) (k : Nat) (v : α) : Sparse.wf d (Sparse.set d m k v) = true := by
  unfold Sparse.wf Sparse.set
  split
  · exact Sparse.wfFrom_erase w k
  · rename_i h
    exact Sparse.wfFrom_insert (Sparse.wfFrom_erase w k) (Nat.zero_le k) h fun c hc => (Sparse.mem_erase hc).2

end Sparse

/-! ## Memory -/

theorem Memory.wf_setByte {m : List Host.Cell} (w : Memory.wf m = true) (k : Nat) (b : Byte) : Memory.wf (Memory.setByte m k b) = true :=
  Sparse.wf_set w k b

theorem Memory.wf_write {m : List Host.Cell} (w : Memory.wf m = true) (k : Nat) (bs : List Byte) : Memory.wf (Memory.write m k bs) = true := by
  induction bs generalizing m k with
  | nil => exact w
  | cons b bs ih => exact ih (Memory.wf_setByte w k b) (k + 1)

theorem Memory.wf_writeCells {m : List Host.Cell} (w : Memory.wf m = true) (cs : List Host.Cell) : Memory.wf (Memory.writeCells cs m) = true := by
  induction cs generalizing m with
  | nil => exact w
  | cons c cs ih => exact ih (Memory.wf_setByte w c.1 c.2)

theorem Memory.wf_filter {m : List Host.Cell} (w : Memory.wf m = true) (p : Host.Cell → Bool) : Memory.wf (m.filter p) = true :=
  Sparse.wfFrom_filter w p

/-- Memory right after reset is in canonical form. -/
theorem Memory.wf_reset : Memory.wf State.reset.mem = true := rfl

@[simp] theorem Memory.byte_setByte (m : List Host.Cell) (k j : Nat) (b : Byte) :
    Memory.byte (Memory.setByte m k b) j = if j = k then b else Memory.byte m j := Sparse.get_set m k j b

/-- A write changes the bytes from its key upwards, and no other. -/
theorem Memory.byte_write (m : List Host.Cell) (k : Nat) (bs : List Byte) (j : Nat) :
    Memory.byte (Memory.write m k bs) j = if k ≤ j ∧ j < k + bs.length then bs.getD (j - k) 0 else Memory.byte m j := by
  induction bs generalizing m k with
  | nil => rw [if_neg (by simp only [List.length_nil]; omega)]; rfl
  | cons b bs ih =>
    rw [Memory.write, ih, Memory.byte_setByte]
    by_cases h : j = k
    · subst h
      rw [if_neg (by omega), if_pos rfl, if_pos (by simp only [List.length_cons]; omega)]
      simp
    · by_cases h' : k + 1 ≤ j ∧ j < k + 1 + bs.length
      · rw [if_pos h', if_pos (by simp only [List.length_cons]; omega)]
        obtain ⟨n, rfl⟩ : ∃ n, j = k + 1 + n := ⟨j - (k + 1), by omega⟩
        rw [show k + 1 + n - (k + 1) = n by omega, show k + 1 + n - k = n + 1 by omega, List.getD_cons_succ]
      · rw [if_neg h', if_neg h, if_neg (by simp only [List.length_cons]; omega)]

@[simp] theorem Memory.length_read (m : List Host.Cell) (k n : Nat) : (Memory.read m k n).length = n := by
  induction n generalizing k with
  | zero => rfl
  | succ n ih => simp [Memory.read, ih]

theorem Memory.getD_read (m : List Host.Cell) (k n i : Nat) (h : i < n) : (Memory.read m k n).getD i 0 = Memory.byte m (k + i) := by
  induction n generalizing k i with
  | zero => omega
  | succ n ih =>
    cases i with
    | zero => simp [Memory.read]
    | succ i =>
      rw [Memory.read, List.getD_cons_succ, ih (k + 1) i (by omega)]
      congr 1
      omega

/-- Equal bytes give equal reads. -/
theorem Memory.read_congr {m m' : List Host.Cell} {k n : Nat} (h : ∀ j, k ≤ j → j < k + n → Memory.byte m j = Memory.byte m' j) :
    Memory.read m k n = Memory.read m' k n := by
  induction n generalizing k with
  | zero => rfl
  | succ n ih =>
    rw [Memory.read, Memory.read, h k (by omega) (by omega), ih fun j hj hj' => h j (by omega) (by omega)]

/-- What was written reads back. -/
theorem Memory.read_write_self (m : List Host.Cell) (k : Nat) (bs : List Byte) : Memory.read (Memory.write m k bs) k bs.length = bs := by
  induction bs generalizing m k with
  | nil => rfl
  | cons b bs ih =>
    rw [List.length_cons, Memory.read, Memory.write, ih]
    congr 1
    rw [Memory.byte_write, if_neg (by omega), Memory.byte_setByte, if_pos rfl]

/-- A write elsewhere leaves a read as it was. -/
theorem Memory.read_write_apart {m : List Host.Cell} {k j n : Nat} {bs : List Byte} (h : j + n ≤ k ∨ k + bs.length ≤ j) :
    Memory.read (Memory.write m k bs) j n = Memory.read m j n :=
  Memory.read_congr fun i hi hi' => by rw [Memory.byte_write, if_neg (by omega)]

@[simp] theorem length_bytesOfNat (v n : Nat) : (bytesOfNat v n).length = n := by
  induction n generalizing v with
  | zero => rfl
  | succ n ih => simp [bytesOfNat, ih]

/-- Little-endian bytes hold their number (R2). -/
theorem natOfBytes_bytesOfNat (v n : Nat) : natOfBytes (bytesOfNat v n) = v % 256 ^ n := by
  induction n generalizing v with
  | zero => simp [bytesOfNat, natOfBytes, Nat.mod_one]
  | succ n ih =>
    rw [bytesOfNat, natOfBytes, ih, BitVec.toNat_ofNat, show 256 ^ (n + 1) = 256 * 256 ^ n from Nat.pow_succ', Nat.mod_mul]

theorem natOfBytes_lt (bs : List Byte) : natOfBytes bs < 256 ^ bs.length := by
  induction bs with
  | nil => simp [natOfBytes]
  | cons b bs ih =>
    rw [natOfBytes, List.length_cons, Nat.pow_succ']
    have := b.isLt
    omega

end Sys2Proof.Machine
end

