-- ==== Sys2Proof/Laws/State.lean ====
section
/-! SUPPORT. The small laws of the state's updates: one lemma for each field and update, so that no proof unfolds one. -/

namespace Sys2Proof.Machine

open Sys2Proof

/-! ## Vectors -/

theorem get_eq_getElem {α : Type} {n : Nat} (v : Vector α n) (i : Fin n) : v.get i = v[i.val] := rfl

@[simp] theorem get_set_self {α : Type} {n : Nat} (v : Vector α n) (i : Fin n) (a : α) (h : i.val < n) :
    (v.set i.val a h).get i = a := by simp [get_eq_getElem]

theorem get_set_ne {α : Type} {n : Nat} (v : Vector α n) (i j : Fin n) (a : α) (h : i ≠ j) :
    (v.set i.val a i.isLt).get j = v.get j := by
  have : i.val ≠ j.val := fun e => h (Fin.ext e)
  simp [get_eq_getElem, this]

@[simp] theorem set_set_same {α : Type} {n : Nat} (v : Vector α n) (i : Fin n) (a b : α) :
    (v.set i.val a i.isLt).set i.val b i.isLt = v.set i.val b i.isLt := by
  apply Vector.ext
  intro j hj
  by_cases h : i.val = j <;> simp [h]

@[simp] theorem set_get_same {α : Type} {n : Nat} (v : Vector α n) (i : Fin n) :
    v.set i.val (v.get i) i.isLt = v := by
  apply Vector.ext
  intro j hj
  by_cases h : i.val = j
  · subst h; simp [get_eq_getElem]
  · simp [h]

@[simp] theorem mapVec_get {α β : Type} {n : Nat} (f : α → β) (v : Vector α n) (i : Fin n) :
    (mapVec f v).get i = f (v.get i) := by
  simp [mapVec, get_eq_getElem]

/-! ## `setCtx` -/

@[simp] theorem State.setCtx_cur (s : State) (c : Ctx) : (s.setCtx c).cur = s.cur := rfl
@[simp] theorem State.setCtx_core (s : State) (c : Ctx) : (s.setCtx c).core = s.core := rfl
@[simp] theorem State.setCtx_job (s : State) (c : Ctx) : (s.setCtx c).job = s.job := rfl
@[simp] theorem State.setCtx_bar (s : State) (c : Ctx) : (s.setCtx c).bar = s.bar := rfl
@[simp] theorem State.setCtx_clu (s : State) (c : Ctx) : (s.setCtx c).clu = s.clu := rfl
@[simp] theorem State.setCtx_dev (s : State) (c : Ctx) : (s.setCtx c).dev = s.dev := rfl
@[simp] theorem State.setCtx_mem (s : State) (c : Ctx) : (s.setCtx c).mem = s.mem := rfl
@[simp] theorem State.setCtx_bad (s : State) (c : Ctx) : (s.setCtx c).bad = s.bad := rfl
@[simp] theorem State.setCtx_full (s : State) (c : Ctx) : (s.setCtx c).full = s.full := rfl
@[simp] theorem State.setCtx_filler (s : State) (c : Ctx) : (s.setCtx c).filler = s.filler := rfl
@[simp] theorem State.setCtx_takers (s : State) (c : Ctx) : (s.setCtx c).takers = s.takers := rfl
@[simp] theorem State.setCtx_regions (s : State) (c : Ctx) : (s.setCtx c).regions = s.regions := rfl
@[simp] theorem State.setCtx_revmap (s : State) (c : Ctx) : (s.setCtx c).revmap = s.revmap := rfl
@[simp] theorem State.setCtx_drapers (s : State) (c : Ctx) : (s.setCtx c).drapers = s.drapers := rfl
@[simp] theorem State.setCtx_accs (s : State) (c : Ctx) : (s.setCtx c).accs = s.accs := rfl
@[simp] theorem State.setCtx_early (s : State) (c : Ctx) : (s.setCtx c).early = s.early := rfl
@[simp] theorem State.setCtx_halves (s : State) (c : Ctx) : (s.setCtx c).halves = s.halves := rfl
@[simp] theorem State.setCtx_evicted (s : State) (c : Ctx) : (s.setCtx c).evicted = s.evicted := rfl
@[simp] theorem State.setCtx_micro (s : State) (c : Ctx) : (s.setCtx c).micro = s.micro := rfl
@[simp] theorem State.setCtx_clutlb (s : State) (c : Ctx) : (s.setCtx c).clutlb = s.clutlb := rfl
@[simp] theorem State.setCtx_lasttlb (s : State) (c : Ctx) : (s.setCtx c).lasttlb = s.lasttlb := rfl
@[simp] theorem State.setCtx_icache (s : State) (c : Ctx) : (s.setCtx c).icache = s.icache := rfl
@[simp] theorem State.setCtx_agenda (s : State) (c : Ctx) : (s.setCtx c).agenda = s.agenda := rfl
@[simp] theorem State.setCtx_inbox (s : State) (c : Ctx) : (s.setCtx c).inbox = s.inbox := rfl
@[simp] theorem State.setCtx_turns (s : State) (c : Ctx) : (s.setCtx c).turns = s.turns := rfl
@[simp] theorem State.setCtx_cycle (s : State) (c : Ctx) : (s.setCtx c).cycle = s.cycle := rfl
@[simp] theorem State.setCtx_seq (s : State) (c : Ctx) : (s.setCtx c).seq = s.seq := rfl

/-! ## `modCtx` -/

@[simp] theorem State.modCtx_cur (s : State) (f : Ctx → Ctx) : (s.modCtx f).cur = s.cur := rfl
@[simp] theorem State.modCtx_core (s : State) (f : Ctx → Ctx) : (s.modCtx f).core = s.core := rfl
@[simp] theorem State.modCtx_job (s : State) (f : Ctx → Ctx) : (s.modCtx f).job = s.job := rfl
@[simp] theorem State.modCtx_bar (s : State) (f : Ctx → Ctx) : (s.modCtx f).bar = s.bar := rfl
@[simp] theorem State.modCtx_clu (s : State) (f : Ctx → Ctx) : (s.modCtx f).clu = s.clu := rfl
@[simp] theorem State.modCtx_dev (s : State) (f : Ctx → Ctx) : (s.modCtx f).dev = s.dev := rfl
@[simp] theorem State.modCtx_mem (s : State) (f : Ctx → Ctx) : (s.modCtx f).mem = s.mem := rfl
@[simp] theorem State.modCtx_bad (s : State) (f : Ctx → Ctx) : (s.modCtx f).bad = s.bad := rfl
@[simp] theorem State.modCtx_full (s : State) (f : Ctx → Ctx) : (s.modCtx f).full = s.full := rfl
@[simp] theorem State.modCtx_filler (s : State) (f : Ctx → Ctx) : (s.modCtx f).filler = s.filler := rfl
@[simp] theorem State.modCtx_takers (s : State) (f : Ctx → Ctx) : (s.modCtx f).takers = s.takers := rfl
@[simp] theorem State.modCtx_regions (s : State) (f : Ctx → Ctx) : (s.modCtx f).regions = s.regions := rfl
@[simp] theorem State.modCtx_revmap (s : State) (f : Ctx → Ctx) : (s.modCtx f).revmap = s.revmap := rfl
@[simp] theorem State.modCtx_drapers (s : State) (f : Ctx → Ctx) : (s.modCtx f).drapers = s.drapers := rfl
@[simp] theorem State.modCtx_accs (s : State) (f : Ctx → Ctx) : (s.modCtx f).accs = s.accs := rfl
@[simp] theorem State.modCtx_early (s : State) (f : Ctx → Ctx) : (s.modCtx f).early = s.early := rfl
@[simp] theorem State.modCtx_halves (s : State) (f : Ctx → Ctx) : (s.modCtx f).halves = s.halves := rfl
@[simp] theorem State.modCtx_evicted (s : State) (f : Ctx → Ctx) : (s.modCtx f).evicted = s.evicted := rfl
@[simp] theorem State.modCtx_micro (s : State) (f : Ctx → Ctx) : (s.modCtx f).micro = s.micro := rfl
@[simp] theorem State.modCtx_clutlb (s : State) (f : Ctx → Ctx) : (s.modCtx f).clutlb = s.clutlb := rfl
@[simp] theorem State.modCtx_lasttlb (s : State) (f : Ctx → Ctx) : (s.modCtx f).lasttlb = s.lasttlb := rfl
@[simp] theorem State.modCtx_icache (s : State) (f : Ctx → Ctx) : (s.modCtx f).icache = s.icache := rfl
@[simp] theorem State.modCtx_agenda (s : State) (f : Ctx → Ctx) : (s.modCtx f).agenda = s.agenda := rfl
@[simp] theorem State.modCtx_inbox (s : State) (f : Ctx → Ctx) : (s.modCtx f).inbox = s.inbox := rfl
@[simp] theorem State.modCtx_turns (s : State) (f : Ctx → Ctx) : (s.modCtx f).turns = s.turns := rfl
@[simp] theorem State.modCtx_cycle (s : State) (f : Ctx → Ctx) : (s.modCtx f).cycle = s.cycle := rfl
@[simp] theorem State.modCtx_seq (s : State) (f : Ctx → Ctx) : (s.modCtx f).seq = s.seq := rfl

/-! ## `focus` -/

@[simp] theorem State.focus_ctxs (s : State) (n : Fin 11) : (s.focus n).ctxs = s.ctxs := rfl
@[simp] theorem State.focus_core (s : State) (n : Fin 11) : (s.focus n).core = s.core := rfl
@[simp] theorem State.focus_job (s : State) (n : Fin 11) : (s.focus n).job = s.job := rfl
@[simp] theorem State.focus_bar (s : State) (n : Fin 11) : (s.focus n).bar = s.bar := rfl
@[simp] theorem State.focus_clu (s : State) (n : Fin 11) : (s.focus n).clu = s.clu := rfl
@[simp] theorem State.focus_dev (s : State) (n : Fin 11) : (s.focus n).dev = s.dev := rfl
@[simp] theorem State.focus_mem (s : State) (n : Fin 11) : (s.focus n).mem = s.mem := rfl
@[simp] theorem State.focus_bad (s : State) (n : Fin 11) : (s.focus n).bad = s.bad := rfl
@[simp] theorem State.focus_full (s : State) (n : Fin 11) : (s.focus n).full = s.full := rfl
@[simp] theorem State.focus_filler (s : State) (n : Fin 11) : (s.focus n).filler = s.filler := rfl
@[simp] theorem State.focus_takers (s : State) (n : Fin 11) : (s.focus n).takers = s.takers := rfl
@[simp] theorem State.focus_regions (s : State) (n : Fin 11) : (s.focus n).regions = s.regions := rfl
@[simp] theorem State.focus_revmap (s : State) (n : Fin 11) : (s.focus n).revmap = s.revmap := rfl
@[simp] theorem State.focus_drapers (s : State) (n : Fin 11) : (s.focus n).drapers = s.drapers := rfl
@[simp] theorem State.focus_accs (s : State) (n : Fin 11) : (s.focus n).accs = s.accs := rfl
@[simp] theorem State.focus_early (s : State) (n : Fin 11) : (s.focus n).early = s.early := rfl
@[simp] theorem State.focus_halves (s : State) (n : Fin 11) : (s.focus n).halves = s.halves := rfl
@[simp] theorem State.focus_evicted (s : State) (n : Fin 11) : (s.focus n).evicted = s.evicted := rfl
@[simp] theorem State.focus_micro (s : State) (n : Fin 11) : (s.focus n).micro = s.micro := rfl
@[simp] theorem State.focus_clutlb (s : State) (n : Fin 11) : (s.focus n).clutlb = s.clutlb := rfl
@[simp] theorem State.focus_lasttlb (s : State) (n : Fin 11) : (s.focus n).lasttlb = s.lasttlb := rfl
@[simp] theorem State.focus_icache (s : State) (n : Fin 11) : (s.focus n).icache = s.icache := rfl
@[simp] theorem State.focus_agenda (s : State) (n : Fin 11) : (s.focus n).agenda = s.agenda := rfl
@[simp] theorem State.focus_inbox (s : State) (n : Fin 11) : (s.focus n).inbox = s.inbox := rfl
@[simp] theorem State.focus_turns (s : State) (n : Fin 11) : (s.focus n).turns = s.turns := rfl
@[simp] theorem State.focus_cycle (s : State) (n : Fin 11) : (s.focus n).cycle = s.cycle := rfl
@[simp] theorem State.focus_seq (s : State) (n : Fin 11) : (s.focus n).seq = s.seq := rfl

/-! ## `modCtxAt` -/

@[simp] theorem State.modCtxAt_cur (s : State) (n : Fin 11) (f : Ctx → Ctx) : (s.modCtxAt n f).cur = s.cur := rfl
@[simp] theorem State.modCtxAt_core (s : State) (n : Fin 11) (f : Ctx → Ctx) : (s.modCtxAt n f).core = s.core := rfl
@[simp] theorem State.modCtxAt_job (s : State) (n : Fin 11) (f : Ctx → Ctx) : (s.modCtxAt n f).job = s.job := rfl
@[simp] theorem State.modCtxAt_bar (s : State) (n : Fin 11) (f : Ctx → Ctx) : (s.modCtxAt n f).bar = s.bar := rfl
@[simp] theorem State.modCtxAt_clu (s : State) (n : Fin 11) (f : Ctx → Ctx) : (s.modCtxAt n f).clu = s.clu := rfl
@[simp] theorem State.modCtxAt_dev (s : State) (n : Fin 11) (f : Ctx → Ctx) : (s.modCtxAt n f).dev = s.dev := rfl
@[simp] theorem State.modCtxAt_mem (s : State) (n : Fin 11) (f : Ctx → Ctx) : (s.modCtxAt n f).mem = s.mem := rfl
@[simp] theorem State.modCtxAt_bad (s : State) (n : Fin 11) (f : Ctx → Ctx) : (s.modCtxAt n f).bad = s.bad := rfl
@[simp] theorem State.modCtxAt_full (s : State) (n : Fin 11) (f : Ctx → Ctx) : (s.modCtxAt n f).full = s.full := rfl
@[simp] theorem State.modCtxAt_filler (s : State) (n : Fin 11) (f : Ctx → Ctx) : (s.modCtxAt n f).filler = s.filler := rfl
@[simp] theorem State.modCtxAt_takers (s : State) (n : Fin 11) (f : Ctx → Ctx) : (s.modCtxAt n f).takers = s.takers := rfl
@[simp] theorem State.modCtxAt_regions (s : State) (n : Fin 11) (f : Ctx → Ctx) : (s.modCtxAt n f).regions = s.regions := rfl
@[simp] theorem State.modCtxAt_revmap (s : State) (n : Fin 11) (f : Ctx → Ctx) : (s.modCtxAt n f).revmap = s.revmap := rfl
@[simp] theorem State.modCtxAt_drapers (s : State) (n : Fin 11) (f : Ctx → Ctx) : (s.modCtxAt n f).drapers = s.drapers := rfl
@[simp] theorem State.modCtxAt_accs (s : State) (n : Fin 11) (f : Ctx → Ctx) : (s.modCtxAt n f).accs = s.accs := rfl
@[simp] theorem State.modCtxAt_early (s : State) (n : Fin 11) (f : Ctx → Ctx) : (s.modCtxAt n f).early = s.early := rfl
@[simp] theorem State.modCtxAt_halves (s : State) (n : Fin 11) (f : Ctx → Ctx) : (s.modCtxAt n f).halves = s.halves := rfl
@[simp] theorem State.modCtxAt_evicted (s : State) (n : Fin 11) (f : Ctx → Ctx) : (s.modCtxAt n f).evicted = s.evicted := rfl
@[simp] theorem State.modCtxAt_micro (s : State) (n : Fin 11) (f : Ctx → Ctx) : (s.modCtxAt n f).micro = s.micro := rfl
@[simp] theorem State.modCtxAt_clutlb (s : State) (n : Fin 11) (f : Ctx → Ctx) : (s.modCtxAt n f).clutlb = s.clutlb := rfl
@[simp] theorem State.modCtxAt_lasttlb (s : State) (n : Fin 11) (f : Ctx → Ctx) : (s.modCtxAt n f).lasttlb = s.lasttlb := rfl
@[simp] theorem State.modCtxAt_icache (s : State) (n : Fin 11) (f : Ctx → Ctx) : (s.modCtxAt n f).icache = s.icache := rfl
@[simp] theorem State.modCtxAt_agenda (s : State) (n : Fin 11) (f : Ctx → Ctx) : (s.modCtxAt n f).agenda = s.agenda := rfl
@[simp] theorem State.modCtxAt_inbox (s : State) (n : Fin 11) (f : Ctx → Ctx) : (s.modCtxAt n f).inbox = s.inbox := rfl
@[simp] theorem State.modCtxAt_turns (s : State) (n : Fin 11) (f : Ctx → Ctx) : (s.modCtxAt n f).turns = s.turns := rfl
@[simp] theorem State.modCtxAt_cycle (s : State) (n : Fin 11) (f : Ctx → Ctx) : (s.modCtxAt n f).cycle = s.cycle := rfl
@[simp] theorem State.modCtxAt_seq (s : State) (n : Fin 11) (f : Ctx → Ctx) : (s.modCtxAt n f).seq = s.seq := rfl

/-! ## `modCore` -/

@[simp] theorem State.modCore_ctxs (s : State) (f : Core → Core) : (s.modCore f).ctxs = s.ctxs := rfl
@[simp] theorem State.modCore_cur (s : State) (f : Core → Core) : (s.modCore f).cur = s.cur := rfl
@[simp] theorem State.modCore_job (s : State) (f : Core → Core) : (s.modCore f).job = s.job := rfl
@[simp] theorem State.modCore_bar (s : State) (f : Core → Core) : (s.modCore f).bar = s.bar := rfl
@[simp] theorem State.modCore_clu (s : State) (f : Core → Core) : (s.modCore f).clu = s.clu := rfl
@[simp] theorem State.modCore_dev (s : State) (f : Core → Core) : (s.modCore f).dev = s.dev := rfl
@[simp] theorem State.modCore_mem (s : State) (f : Core → Core) : (s.modCore f).mem = s.mem := rfl
@[simp] theorem State.modCore_bad (s : State) (f : Core → Core) : (s.modCore f).bad = s.bad := rfl
@[simp] theorem State.modCore_full (s : State) (f : Core → Core) : (s.modCore f).full = s.full := rfl
@[simp] theorem State.modCore_filler (s : State) (f : Core → Core) : (s.modCore f).filler = s.filler := rfl
@[simp] theorem State.modCore_takers (s : State) (f : Core → Core) : (s.modCore f).takers = s.takers := rfl
@[simp] theorem State.modCore_regions (s : State) (f : Core → Core) : (s.modCore f).regions = s.regions := rfl
@[simp] theorem State.modCore_revmap (s : State) (f : Core → Core) : (s.modCore f).revmap = s.revmap := rfl
@[simp] theorem State.modCore_drapers (s : State) (f : Core → Core) : (s.modCore f).drapers = s.drapers := rfl
@[simp] theorem State.modCore_accs (s : State) (f : Core → Core) : (s.modCore f).accs = s.accs := rfl
@[simp] theorem State.modCore_early (s : State) (f : Core → Core) : (s.modCore f).early = s.early := rfl
@[simp] theorem State.modCore_halves (s : State) (f : Core → Core) : (s.modCore f).halves = s.halves := rfl
@[simp] theorem State.modCore_evicted (s : State) (f : Core → Core) : (s.modCore f).evicted = s.evicted := rfl
@[simp] theorem State.modCore_micro (s : State) (f : Core → Core) : (s.modCore f).micro = s.micro := rfl
@[simp] theorem State.modCore_clutlb (s : State) (f : Core → Core) : (s.modCore f).clutlb = s.clutlb := rfl
@[simp] theorem State.modCore_lasttlb (s : State) (f : Core → Core) : (s.modCore f).lasttlb = s.lasttlb := rfl
@[simp] theorem State.modCore_icache (s : State) (f : Core → Core) : (s.modCore f).icache = s.icache := rfl
@[simp] theorem State.modCore_agenda (s : State) (f : Core → Core) : (s.modCore f).agenda = s.agenda := rfl
@[simp] theorem State.modCore_inbox (s : State) (f : Core → Core) : (s.modCore f).inbox = s.inbox := rfl
@[simp] theorem State.modCore_turns (s : State) (f : Core → Core) : (s.modCore f).turns = s.turns := rfl
@[simp] theorem State.modCore_cycle (s : State) (f : Core → Core) : (s.modCore f).cycle = s.cycle := rfl
@[simp] theorem State.modCore_seq (s : State) (f : Core → Core) : (s.modCore f).seq = s.seq := rfl

/-! ## `post` -/

@[simp] theorem State.post_ctxs (s : State) (e : Instr) : (s.post e).ctxs = s.ctxs := rfl
@[simp] theorem State.post_cur (s : State) (e : Instr) : (s.post e).cur = s.cur := rfl
@[simp] theorem State.post_core (s : State) (e : Instr) : (s.post e).core = s.core := rfl
@[simp] theorem State.post_job (s : State) (e : Instr) : (s.post e).job = s.job := rfl
@[simp] theorem State.post_bar (s : State) (e : Instr) : (s.post e).bar = s.bar := rfl
@[simp] theorem State.post_clu (s : State) (e : Instr) : (s.post e).clu = s.clu := rfl
@[simp] theorem State.post_dev (s : State) (e : Instr) : (s.post e).dev = s.dev := rfl
@[simp] theorem State.post_mem (s : State) (e : Instr) : (s.post e).mem = s.mem := rfl
@[simp] theorem State.post_bad (s : State) (e : Instr) : (s.post e).bad = s.bad := rfl
@[simp] theorem State.post_full (s : State) (e : Instr) : (s.post e).full = s.full := rfl
@[simp] theorem State.post_filler (s : State) (e : Instr) : (s.post e).filler = s.filler := rfl
@[simp] theorem State.post_takers (s : State) (e : Instr) : (s.post e).takers = s.takers := rfl
@[simp] theorem State.post_regions (s : State) (e : Instr) : (s.post e).regions = s.regions := rfl
@[simp] theorem State.post_revmap (s : State) (e : Instr) : (s.post e).revmap = s.revmap := rfl
@[simp] theorem State.post_drapers (s : State) (e : Instr) : (s.post e).drapers = s.drapers := rfl
@[simp] theorem State.post_accs (s : State) (e : Instr) : (s.post e).accs = s.accs := rfl
@[simp] theorem State.post_early (s : State) (e : Instr) : (s.post e).early = s.early := rfl
@[simp] theorem State.post_halves (s : State) (e : Instr) : (s.post e).halves = s.halves := rfl
@[simp] theorem State.post_evicted (s : State) (e : Instr) : (s.post e).evicted = s.evicted := rfl
@[simp] theorem State.post_micro (s : State) (e : Instr) : (s.post e).micro = s.micro := rfl
@[simp] theorem State.post_clutlb (s : State) (e : Instr) : (s.post e).clutlb = s.clutlb := rfl
@[simp] theorem State.post_lasttlb (s : State) (e : Instr) : (s.post e).lasttlb = s.lasttlb := rfl
@[simp] theorem State.post_icache (s : State) (e : Instr) : (s.post e).icache = s.icache := rfl
@[simp] theorem State.post_inbox (s : State) (e : Instr) : (s.post e).inbox = s.inbox := rfl
@[simp] theorem State.post_turns (s : State) (e : Instr) : (s.post e).turns = s.turns := rfl
@[simp] theorem State.post_cycle (s : State) (e : Instr) : (s.post e).cycle = s.cycle := rfl
@[simp] theorem State.post_seq (s : State) (e : Instr) : (s.post e).seq = s.seq := rfl

/-! ## `answer` -/

@[simp] theorem State.answer_ctxs (s : State) (bs : List Byte) : (s.answer bs).ctxs = s.ctxs := rfl
@[simp] theorem State.answer_cur (s : State) (bs : List Byte) : (s.answer bs).cur = s.cur := rfl
@[simp] theorem State.answer_core (s : State) (bs : List Byte) : (s.answer bs).core = s.core := rfl
@[simp] theorem State.answer_job (s : State) (bs : List Byte) : (s.answer bs).job = s.job := rfl
@[simp] theorem State.answer_bar (s : State) (bs : List Byte) : (s.answer bs).bar = s.bar := rfl
@[simp] theorem State.answer_clu (s : State) (bs : List Byte) : (s.answer bs).clu = s.clu := rfl
@[simp] theorem State.answer_mem (s : State) (bs : List Byte) : (s.answer bs).mem = s.mem := rfl
@[simp] theorem State.answer_bad (s : State) (bs : List Byte) : (s.answer bs).bad = s.bad := rfl
@[simp] theorem State.answer_full (s : State) (bs : List Byte) : (s.answer bs).full = s.full := rfl
@[simp] theorem State.answer_filler (s : State) (bs : List Byte) : (s.answer bs).filler = s.filler := rfl
@[simp] theorem State.answer_takers (s : State) (bs : List Byte) : (s.answer bs).takers = s.takers := rfl
@[simp] theorem State.answer_regions (s : State) (bs : List Byte) : (s.answer bs).regions = s.regions := rfl
@[simp] theorem State.answer_revmap (s : State) (bs : List Byte) : (s.answer bs).revmap = s.revmap := rfl
@[simp] theorem State.answer_drapers (s : State) (bs : List Byte) : (s.answer bs).drapers = s.drapers := rfl
@[simp] theorem State.answer_accs (s : State) (bs : List Byte) : (s.answer bs).accs = s.accs := rfl
@[simp] theorem State.answer_early (s : State) (bs : List Byte) : (s.answer bs).early = s.early := rfl
@[simp] theorem State.answer_halves (s : State) (bs : List Byte) : (s.answer bs).halves = s.halves := rfl
@[simp] theorem State.answer_evicted (s : State) (bs : List Byte) : (s.answer bs).evicted = s.evicted := rfl
@[simp] theorem State.answer_micro (s : State) (bs : List Byte) : (s.answer bs).micro = s.micro := rfl
@[simp] theorem State.answer_clutlb (s : State) (bs : List Byte) : (s.answer bs).clutlb = s.clutlb := rfl
@[simp] theorem State.answer_lasttlb (s : State) (bs : List Byte) : (s.answer bs).lasttlb = s.lasttlb := rfl
@[simp] theorem State.answer_icache (s : State) (bs : List Byte) : (s.answer bs).icache = s.icache := rfl
@[simp] theorem State.answer_agenda (s : State) (bs : List Byte) : (s.answer bs).agenda = s.agenda := rfl
@[simp] theorem State.answer_inbox (s : State) (bs : List Byte) : (s.answer bs).inbox = s.inbox := rfl
@[simp] theorem State.answer_turns (s : State) (bs : List Byte) : (s.answer bs).turns = s.turns := rfl
@[simp] theorem State.answer_cycle (s : State) (bs : List Byte) : (s.answer bs).cycle = s.cycle := rfl
@[simp] theorem State.answer_seq (s : State) (bs : List Byte) : (s.answer bs).seq = s.seq := rfl

/-! ## `acquire` -/

@[simp] theorem State.acquire_ctxs (s : State) (c : Scope) : (s.acquire c).ctxs = s.ctxs := rfl
@[simp] theorem State.acquire_cur (s : State) (c : Scope) : (s.acquire c).cur = s.cur := rfl
@[simp] theorem State.acquire_core (s : State) (c : Scope) : (s.acquire c).core = s.core := rfl
@[simp] theorem State.acquire_job (s : State) (c : Scope) : (s.acquire c).job = s.job := rfl
@[simp] theorem State.acquire_bar (s : State) (c : Scope) : (s.acquire c).bar = s.bar := rfl
@[simp] theorem State.acquire_clu (s : State) (c : Scope) : (s.acquire c).clu = s.clu := rfl
@[simp] theorem State.acquire_dev (s : State) (c : Scope) : (s.acquire c).dev = s.dev := rfl
@[simp] theorem State.acquire_mem (s : State) (c : Scope) : (s.acquire c).mem = s.mem := rfl
@[simp] theorem State.acquire_bad (s : State) (c : Scope) : (s.acquire c).bad = s.bad := rfl
@[simp] theorem State.acquire_full (s : State) (c : Scope) : (s.acquire c).full = s.full := rfl
@[simp] theorem State.acquire_filler (s : State) (c : Scope) : (s.acquire c).filler = s.filler := rfl
@[simp] theorem State.acquire_takers (s : State) (c : Scope) : (s.acquire c).takers = s.takers := rfl
@[simp] theorem State.acquire_regions (s : State) (c : Scope) : (s.acquire c).regions = s.regions := rfl
@[simp] theorem State.acquire_revmap (s : State) (c : Scope) : (s.acquire c).revmap = s.revmap := rfl
@[simp] theorem State.acquire_drapers (s : State) (c : Scope) : (s.acquire c).drapers = s.drapers := rfl
@[simp] theorem State.acquire_accs (s : State) (c : Scope) : (s.acquire c).accs = s.accs := rfl
@[simp] theorem State.acquire_halves (s : State) (c : Scope) : (s.acquire c).halves = s.halves := rfl
@[simp] theorem State.acquire_evicted (s : State) (c : Scope) : (s.acquire c).evicted = s.evicted := rfl
@[simp] theorem State.acquire_micro (s : State) (c : Scope) : (s.acquire c).micro = s.micro := rfl
@[simp] theorem State.acquire_clutlb (s : State) (c : Scope) : (s.acquire c).clutlb = s.clutlb := rfl
@[simp] theorem State.acquire_lasttlb (s : State) (c : Scope) : (s.acquire c).lasttlb = s.lasttlb := rfl
@[simp] theorem State.acquire_icache (s : State) (c : Scope) : (s.acquire c).icache = s.icache := rfl
@[simp] theorem State.acquire_agenda (s : State) (c : Scope) : (s.acquire c).agenda = s.agenda := rfl
@[simp] theorem State.acquire_inbox (s : State) (c : Scope) : (s.acquire c).inbox = s.inbox := rfl
@[simp] theorem State.acquire_turns (s : State) (c : Scope) : (s.acquire c).turns = s.turns := rfl
@[simp] theorem State.acquire_cycle (s : State) (c : Scope) : (s.acquire c).cycle = s.cycle := rfl
@[simp] theorem State.acquire_seq (s : State) (c : Scope) : (s.acquire c).seq = s.seq := rfl

/-! ## `acquireFrom` -/

@[simp] theorem State.acquireFrom_ctxs (s : State) (n : Nat) (c : Scope) : (s.acquireFrom n c).ctxs = s.ctxs := rfl
@[simp] theorem State.acquireFrom_cur (s : State) (n : Nat) (c : Scope) : (s.acquireFrom n c).cur = s.cur := rfl
@[simp] theorem State.acquireFrom_core (s : State) (n : Nat) (c : Scope) : (s.acquireFrom n c).core = s.core := rfl
@[simp] theorem State.acquireFrom_job (s : State) (n : Nat) (c : Scope) : (s.acquireFrom n c).job = s.job := rfl
@[simp] theorem State.acquireFrom_bar (s : State) (n : Nat) (c : Scope) : (s.acquireFrom n c).bar = s.bar := rfl
@[simp] theorem State.acquireFrom_clu (s : State) (n : Nat) (c : Scope) : (s.acquireFrom n c).clu = s.clu := rfl
@[simp] theorem State.acquireFrom_dev (s : State) (n : Nat) (c : Scope) : (s.acquireFrom n c).dev = s.dev := rfl
@[simp] theorem State.acquireFrom_mem (s : State) (n : Nat) (c : Scope) : (s.acquireFrom n c).mem = s.mem := rfl
@[simp] theorem State.acquireFrom_bad (s : State) (n : Nat) (c : Scope) : (s.acquireFrom n c).bad = s.bad := rfl
@[simp] theorem State.acquireFrom_full (s : State) (n : Nat) (c : Scope) : (s.acquireFrom n c).full = s.full := rfl
@[simp] theorem State.acquireFrom_filler (s : State) (n : Nat) (c : Scope) : (s.acquireFrom n c).filler = s.filler := rfl
@[simp] theorem State.acquireFrom_takers (s : State) (n : Nat) (c : Scope) : (s.acquireFrom n c).takers = s.takers := rfl
@[simp] theorem State.acquireFrom_regions (s : State) (n : Nat) (c : Scope) : (s.acquireFrom n c).regions = s.regions := rfl
@[simp] theorem State.acquireFrom_revmap (s : State) (n : Nat) (c : Scope) : (s.acquireFrom n c).revmap = s.revmap := rfl
@[simp] theorem State.acquireFrom_drapers (s : State) (n : Nat) (c : Scope) : (s.acquireFrom n c).drapers = s.drapers := rfl
@[simp] theorem State.acquireFrom_accs (s : State) (n : Nat) (c : Scope) : (s.acquireFrom n c).accs = s.accs := rfl
@[simp] theorem State.acquireFrom_halves (s : State) (n : Nat) (c : Scope) : (s.acquireFrom n c).halves = s.halves := rfl
@[simp] theorem State.acquireFrom_evicted (s : State) (n : Nat) (c : Scope) : (s.acquireFrom n c).evicted = s.evicted := rfl
@[simp] theorem State.acquireFrom_micro (s : State) (n : Nat) (c : Scope) : (s.acquireFrom n c).micro = s.micro := rfl
@[simp] theorem State.acquireFrom_clutlb (s : State) (n : Nat) (c : Scope) : (s.acquireFrom n c).clutlb = s.clutlb := rfl
@[simp] theorem State.acquireFrom_lasttlb (s : State) (n : Nat) (c : Scope) : (s.acquireFrom n c).lasttlb = s.lasttlb := rfl
@[simp] theorem State.acquireFrom_icache (s : State) (n : Nat) (c : Scope) : (s.acquireFrom n c).icache = s.icache := rfl
@[simp] theorem State.acquireFrom_agenda (s : State) (n : Nat) (c : Scope) : (s.acquireFrom n c).agenda = s.agenda := rfl
@[simp] theorem State.acquireFrom_inbox (s : State) (n : Nat) (c : Scope) : (s.acquireFrom n c).inbox = s.inbox := rfl
@[simp] theorem State.acquireFrom_turns (s : State) (n : Nat) (c : Scope) : (s.acquireFrom n c).turns = s.turns := rfl
@[simp] theorem State.acquireFrom_cycle (s : State) (n : Nat) (c : Scope) : (s.acquireFrom n c).cycle = s.cycle := rfl
@[simp] theorem State.acquireFrom_seq (s : State) (n : Nat) (c : Scope) : (s.acquireFrom n c).seq = s.seq := rfl

/-! ## `acquireAll` -/

@[simp] theorem State.acquireAll_ctxs (s : State) (lo hi : Nat) : (s.acquireAll lo hi).ctxs = s.ctxs := rfl
@[simp] theorem State.acquireAll_cur (s : State) (lo hi : Nat) : (s.acquireAll lo hi).cur = s.cur := rfl
@[simp] theorem State.acquireAll_core (s : State) (lo hi : Nat) : (s.acquireAll lo hi).core = s.core := rfl
@[simp] theorem State.acquireAll_job (s : State) (lo hi : Nat) : (s.acquireAll lo hi).job = s.job := rfl
@[simp] theorem State.acquireAll_bar (s : State) (lo hi : Nat) : (s.acquireAll lo hi).bar = s.bar := rfl
@[simp] theorem State.acquireAll_clu (s : State) (lo hi : Nat) : (s.acquireAll lo hi).clu = s.clu := rfl
@[simp] theorem State.acquireAll_dev (s : State) (lo hi : Nat) : (s.acquireAll lo hi).dev = s.dev := rfl
@[simp] theorem State.acquireAll_mem (s : State) (lo hi : Nat) : (s.acquireAll lo hi).mem = s.mem := rfl
@[simp] theorem State.acquireAll_bad (s : State) (lo hi : Nat) : (s.acquireAll lo hi).bad = s.bad := rfl
@[simp] theorem State.acquireAll_full (s : State) (lo hi : Nat) : (s.acquireAll lo hi).full = s.full := rfl
@[simp] theorem State.acquireAll_filler (s : State) (lo hi : Nat) : (s.acquireAll lo hi).filler = s.filler := rfl
@[simp] theorem State.acquireAll_takers (s : State) (lo hi : Nat) : (s.acquireAll lo hi).takers = s.takers := rfl
@[simp] theorem State.acquireAll_regions (s : State) (lo hi : Nat) : (s.acquireAll lo hi).regions = s.regions := rfl
@[simp] theorem State.acquireAll_revmap (s : State) (lo hi : Nat) : (s.acquireAll lo hi).revmap = s.revmap := rfl
@[simp] theorem State.acquireAll_drapers (s : State) (lo hi : Nat) : (s.acquireAll lo hi).drapers = s.drapers := rfl
@[simp] theorem State.acquireAll_accs (s : State) (lo hi : Nat) : (s.acquireAll lo hi).accs = s.accs := rfl
@[simp] theorem State.acquireAll_halves (s : State) (lo hi : Nat) : (s.acquireAll lo hi).halves = s.halves := rfl
@[simp] theorem State.acquireAll_evicted (s : State) (lo hi : Nat) : (s.acquireAll lo hi).evicted = s.evicted := rfl
@[simp] theorem State.acquireAll_micro (s : State) (lo hi : Nat) : (s.acquireAll lo hi).micro = s.micro := rfl
@[simp] theorem State.acquireAll_clutlb (s : State) (lo hi : Nat) : (s.acquireAll lo hi).clutlb = s.clutlb := rfl
@[simp] theorem State.acquireAll_lasttlb (s : State) (lo hi : Nat) : (s.acquireAll lo hi).lasttlb = s.lasttlb := rfl
@[simp] theorem State.acquireAll_icache (s : State) (lo hi : Nat) : (s.acquireAll lo hi).icache = s.icache := rfl
@[simp] theorem State.acquireAll_agenda (s : State) (lo hi : Nat) : (s.acquireAll lo hi).agenda = s.agenda := rfl
@[simp] theorem State.acquireAll_inbox (s : State) (lo hi : Nat) : (s.acquireAll lo hi).inbox = s.inbox := rfl
@[simp] theorem State.acquireAll_turns (s : State) (lo hi : Nat) : (s.acquireAll lo hi).turns = s.turns := rfl
@[simp] theorem State.acquireAll_cycle (s : State) (lo hi : Nat) : (s.acquireAll lo hi).cycle = s.cycle := rfl
@[simp] theorem State.acquireAll_seq (s : State) (lo hi : Nat) : (s.acquireAll lo hi).seq = s.seq := rfl

/-! ## The issuing context -/

@[simp] theorem State.modCore_core (s : State) (f : Core → Core) : (s.modCore f).core = f s.core := rfl
@[simp] theorem State.focus_cur (s : State) (n : Fin 11) : (s.focus n).cur = n := rfl
@[simp] theorem State.post_agenda (s : State) (e : Instr) : (s.post e).agenda = s.agenda ++ [e] := rfl
@[simp] theorem State.answer_reply (s : State) (bs : List Byte) : (s.answer bs).dev.reply = bs := rfl

@[simp] theorem State.ctx_setCtx (s : State) (c : Ctx) : (s.setCtx c).ctx = c := by simp [State.ctx, State.setCtx]
@[simp] theorem State.ctx_modCtx (s : State) (f : Ctx → Ctx) : (s.modCtx f).ctx = f s.ctx := by simp [State.modCtx]
@[simp] theorem State.ctx_modCore (s : State) (f : Core → Core) : (s.modCore f).ctx = s.ctx := rfl
@[simp] theorem State.ctx_post (s : State) (e : Instr) : (s.post e).ctx = s.ctx := rfl

@[simp] theorem State.setCtx_setCtx (s : State) (c d : Ctx) : (s.setCtx c).setCtx d = s.setCtx d := by
  simp [State.setCtx]
@[simp] theorem State.setCtx_ctx (s : State) : s.setCtx s.ctx = s := by simp [State.setCtx, State.ctx]

/-- The other contexts keep what they hold. -/
theorem State.setCtx_other (s : State) (c : Ctx) (n : Fin 11) (h : s.cur ≠ n) : (s.setCtx c).ctxAt n = s.ctxAt n := by
  simp [State.setCtx, State.ctxAt, get_set_ne _ _ _ _ h]

@[simp] theorem State.ctxAt_modCtxAt (s : State) (n : Fin 11) (f : Ctx → Ctx) :
    (s.modCtxAt n f).ctxAt n = f (s.ctxAt n) := by simp [State.modCtxAt, State.ctxAt]

theorem State.ctxAt_modCtxAt_ne (s : State) (m n : Fin 11) (f : Ctx → Ctx) (h : n ≠ m) :
    (s.modCtxAt n f).ctxAt m = s.ctxAt m := by simp [State.modCtxAt, State.ctxAt, get_set_ne _ _ _ _ h]

/-! ## Registers -/

@[simp] theorem Ctx.readX_zero (c : Ctx) : c.readX 0 = 0 := rfl

theorem Ctx.reg_x_zero (c : Ctx) : c.reg (.x 0) = 0#512 := by
  rw [show c.reg (.x 0) = (c.readX 0).setWidth 512 from rfl, Ctx.readX_zero]; simp

/-- Writes to x0 are discarded (R24). -/
@[simp] theorem Ctx.put_x_zero (c : Ctx) (v : Vec) : c.put (.x 0) v = c := rfl

theorem Ctx.put_x_ne (c : Ctx) (n : BitVec 5) (v : Vec) (h : n ≠ 0) :
    c.put (.x n) v = { c with x := c.x.set n.toNat (v.setWidth 64) n.isLt } := by
  unfold Ctx.put; exact if_neg h

theorem Ctx.reg_x_ne (c : Ctx) (n : BitVec 5) (h : n ≠ 0) : c.reg (.x n) = (c.x.get n.toFin).setWidth 512 := by
  rw [show c.reg (.x n) = (c.readX n).setWidth 512 from rfl, Ctx.readX, if_neg h]

/-- A register put reads back, cut to its file's width. -/
theorem Ctx.reg_put_x (c : Ctx) (n : BitVec 5) (v : Vec) (h : n ≠ 0) :
    (c.put (.x n) v).reg (.x n) = (v.setWidth 64).setWidth 512 := by
  rw [Ctx.put_x_ne c n v h, Ctx.reg_x_ne _ n h]
  exact congrArg (BitVec.setWidth 512) (get_set_self c.x n.toFin _ n.isLt)

theorem Ctx.reg_put_v (c : Ctx) (n : BitVec 5) (v : Vec) : (c.put (.v n) v).reg (.v n) = v :=
  get_set_self c.v n.toFin v n.isLt

theorem Ctx.reg_put_p (c : Ctx) (n : BitVec 3) (v : Vec) :
    (c.put (.p n) v).reg (.p n) = (v.setWidth 64).setWidth 512 :=
  congrArg (BitVec.setWidth 512) (get_set_self c.p n.toFin _ n.isLt)

/-- A register put leaves every other register alone. -/
theorem Ctx.reg_put_ne (c : Ctx) (r q : Reg) (v : Vec) (h : q ≠ r) : (c.put r v).reg q = c.reg q := by
  cases r with
  | x n =>
    by_cases hz : n = 0
    · subst hz; rfl
    · rw [Ctx.put_x_ne c n v hz]
      cases q with
      | x m =>
        by_cases hm : m = 0
        · subst hm; rw [Ctx.reg_x_zero, Ctx.reg_x_zero]
        · rw [Ctx.reg_x_ne _ m hm, Ctx.reg_x_ne _ m hm]
          exact congrArg (BitVec.setWidth 512)
            (get_set_ne c.x n.toFin m.toFin _ fun e => h (by rw [BitVec.eq_of_toFin_eq e]))
      | v m => rfl
      | p m => rfl
  | v n =>
    cases q with
    | v m => exact get_set_ne c.v n.toFin m.toFin _ fun e => h (by rw [BitVec.eq_of_toFin_eq e])
    | x m => rfl
    | p m => rfl
  | p n =>
    cases q with
    | p m =>
      exact congrArg (BitVec.setWidth 512)
        (get_set_ne c.p n.toFin m.toFin _ fun e => h (by rw [BitVec.eq_of_toFin_eq e]))
    | x m => rfl
    | v m => rfl

/-- A register put changes nothing but the three files. -/
theorem Ctx.put_only (c : Ctx) (r : Reg) (v : Vec) :
    c.put r v = { c with x := (c.put r v).x, v := (c.put r v).v, p := (c.put r v).p } := by
  cases r with
  | x n =>
    by_cases hz : n = 0
    · subst hz; rfl
    · rw [Ctx.put_x_ne c n v hz]
  | v n => rfl
  | p n => rfl

/-- A taint changes nothing but the taints (R192). -/
theorem Ctx.setTaint_only (c : Ctx) (r : TReg) (ts : List Nat) :
    c.setTaint r ts = { c with taints := (c.setTaint r ts).taints } := by
  unfold Ctx.setTaint; split <;> rfl

end Sys2Proof.Machine
end

