-- ==== Sys2Proof/Laws/Frame.lean ====
section
/-! SUPPORT. What the shared operations on memory, logs, accesses and records leave unchanged, said once for each, and that
each keeps memory in canonical form (log 3). -/

namespace Sys2Proof.Machine

open Sys2Proof

/-! ## Counting, posting and outstanding writes: memory is untouched -/

/-- Counting an event changes the counters, and posts the overflows (R420). -/
theorem State.count_only (s : State) (ev : BitVec 8) :
    s.count ev = { s with core := { s.core with counters := (s.count ev).core.counters }, agenda := (s.count ev).agenda } := by
  unfold State.count
  split <;> rfl

@[simp] theorem State.count_mem (s : State) (ev : BitVec 8) : (s.count ev).mem = s.mem := by rw [State.count_only]
@[simp] theorem State.count_ctxs (s : State) (ev : BitVec 8) : (s.count ev).ctxs = s.ctxs := by rw [State.count_only]
@[simp] theorem State.count_job (s : State) (ev : BitVec 8) : (s.count ev).job = s.job := by rw [State.count_only]
@[simp] theorem State.count_dev (s : State) (ev : BitVec 8) : (s.count ev).dev = s.dev := by rw [State.count_only]
@[simp] theorem State.count_accs (s : State) (ev : BitVec 8) : (s.count ev).accs = s.accs := by rw [State.count_only]
@[simp] theorem State.count_cur (s : State) (ev : BitVec 8) : (s.count ev).cur = s.cur := by rw [State.count_only]
@[simp] theorem State.count_cycle (s : State) (ev : BitVec 8) : (s.count ev).cycle = s.cycle := by rw [State.count_only]

/-- A part of an outstanding write's value changes that write, and may post its arrival (R47). -/
theorem State.fill_only (s : State) (n : Fin 11) (seq : Nat) (f : Vec → Vec) (dead : Bool) :
    s.fill n seq f dead = { s.modCtxAt n (fun c => { c with writes := c.writes.map fun w => w.take seq f dead }) with
      agenda := (s.fill n seq f dead).agenda } := by
  unfold State.fill
  dsimp only
  split <;> rfl

@[simp] theorem State.fill_mem (s : State) (n : Fin 11) (seq : Nat) (f : Vec → Vec) (dead : Bool) : (s.fill n seq f dead).mem = s.mem := by
  rw [State.fill_only]; rfl
@[simp] theorem State.fill_accs (s : State) (n : Fin 11) (seq : Nat) (f : Vec → Vec) (dead : Bool) : (s.fill n seq f dead).accs = s.accs := by
  rw [State.fill_only]; rfl
@[simp] theorem State.fill_job (s : State) (n : Fin 11) (seq : Nat) (f : Vec → Vec) (dead : Bool) : (s.fill n seq f dead).job = s.job := by
  rw [State.fill_only]; rfl
@[simp] theorem State.fill_core (s : State) (n : Fin 11) (seq : Nat) (f : Vec → Vec) (dead : Bool) : (s.fill n seq f dead).core = s.core := by
  rw [State.fill_only]; rfl

/-- An outstanding write joins those of the context (R47). -/
@[simp] theorem State.writeLater_mem (s : State) (r : Reg) (v : Vec) (need : Nat) : (s.writeLater r v need).mem = s.mem := by
  unfold State.writeLater
  split <;> rfl
@[simp] theorem State.writeLater_accs (s : State) (r : Reg) (v : Vec) (need : Nat) : (s.writeLater r v need).accs = s.accs := by
  unfold State.writeLater
  split <;> rfl

@[simp] theorem State.write_mem (s : State) (r : Reg) (v : Vec) (lat : Nat) : (s.write r v lat).mem = s.mem := rfl
@[simp] theorem State.retireAfter_mem (s : State) (sw : Bool) (size gap : Nat) : (s.retireAfter sw size gap).mem = s.mem := rfl
@[simp] theorem State.jump_mem (s : State) (sw : Bool) (target : Word) : (s.jump sw target).mem = s.mem := rfl
@[simp] theorem State.block_mem (s : State) (kind : WaitKind) (q : BitVec 8) (addr : Word) : (s.block kind q addr).mem = s.mem := rfl
@[simp] theorem State.waitOn_mem (s : State) (kind : WaitKind) (q : BitVec 8) (addr : Word) : (s.waitOn kind q addr).mem = s.mem := rfl
@[simp] theorem State.wake_mem (s : State) : s.wake.mem = s.mem := rfl
@[simp] theorem State.wake_dev (s : State) : s.wake.dev = s.dev := rfl
@[simp] theorem State.wake_job (s : State) : s.wake.job = s.job := rfl
@[simp] theorem State.dropAcc_mem (s : State) (a : Acc) : (s.dropAcc a).mem = s.mem := rfl
@[simp] theorem State.push_mem (s : State) (a : Acc) : (s.push a).mem = s.mem := rfl
@[simp] theorem State.holdAcc_mem (s : State) (a : Acc) : (s.holdAcc a).mem = s.mem := rfl
@[simp] theorem State.retryAcc_mem (s : State) (a : Acc) : (s.retryAcc a).mem = s.mem := rfl
@[simp] theorem State.setFull_mem (s : State) (key : Nat) (b : Bool) : (s.setFull key b).mem = s.mem := rfl
@[simp] theorem State.tick_mem (s : State) : s.tick.mem = s.mem := rfl
@[simp] theorem State.idle_mem (s : State) : s.idle.mem = s.mem := rfl
@[simp] theorem State.releaseJob_mem (s : State) : s.releaseJob.mem = s.mem := rfl
@[simp] theorem State.landSlot_mem (s : State) (n : Fin 11) (t : BitVec 5) (f : Slot → Slot) : (s.landSlot n t f).mem = s.mem := by
  unfold State.landSlot; rw [State.count_mem]; rfl
@[simp] theorem State.sign_mem (s : State) (addr width : Nat) (data : List Byte) : (s.sign addr width data).mem = s.mem := by
  unfold State.sign; split <;> rfl

/-- A wait changes the issuing context alone. -/
theorem State.block_only (s : State) (kind : WaitKind) (q : BitVec 8) (addr : Word) :
    s.block kind q addr = s.setCtx (s.block kind q addr).ctx := by
  unfold State.block
  rw [State.ctx_modCtx]
  rfl

/-! ## The error log and the trace ring (R419, R422) -/

/-- An entry changes the ring, or LOST, and nothing else. -/
theorem State.logFor_only (s : State) (jobid : BitVec 32) (sstep cls cause source : Nat) (detail : BitVec 32) (addr : Word) :
    s.logFor jobid sstep cls cause source detail addr =
      { s with dev := (s.logFor jobid sstep cls cause source detail addr).dev, mem := (s.logFor jobid sstep cls cause source detail addr).mem } := by
  unfold State.logFor
  dsimp only
  split <;> rfl

theorem State.logFor_safe {s : State} (h : Safe s) (jobid : BitVec 32) (sstep cls cause source : Nat) (detail : BitVec 32) (addr : Word) :
    Safe (s.logFor jobid sstep cls cause source detail addr) := by
  unfold State.logFor
  dsimp only
  split
  · exact h
  · exact Memory.wf_write h _ _

/-- An entry about the job counts in its record too (R412). -/
theorem State.logEntry_only (s : State) (withJob : Bool) (cls cause source : Nat) (detail : BitVec 32) (addr : Word) :
    s.logEntry withJob cls cause source detail addr =
      { s with dev := (s.logEntry withJob cls cause source detail addr).dev, mem := (s.logEntry withJob cls cause source detail addr).mem,
               job := { s.job with logged := (s.logEntry withJob cls cause source detail addr).job.logged } } := by
  unfold State.logEntry
  split
  · dsimp only
    rw [State.logFor_only]
  · rw [State.logFor_only]

theorem State.logEntry_safe {s : State} (h : Safe s) (withJob : Bool) (cls cause source : Nat) (detail : BitVec 32) (addr : Word) :
    Safe (s.logEntry withJob cls cause source detail addr) := by
  unfold State.logEntry
  split <;> exact State.logFor_safe h ..

theorem State.violation_safe {s : State} (h : Safe s) (cause : BitVec 8) (detail : BitVec 32) (addr : Word) : Safe (s.violation cause detail addr) :=
  State.logEntry_safe h ..

theorem State.unitViolation_safe {s : State} (h : Safe s) (cause : BitVec 8) (detail : BitVec 32) (addr : Word) :
    Safe (s.unitViolation cause detail addr) :=
  State.logEntry_safe h ..

/-- A trace record changes the ring, or TRDROP, and nothing else. -/
theorem State.trace_only (s : State) (kind ctx : Nat) (payload : Word) :
    s.trace kind ctx payload = { s with dev := (s.trace kind ctx payload).dev, mem := (s.trace kind ctx payload).mem } := by
  unfold State.trace
  dsimp only
  split
  · rfl
  · split <;> rfl

theorem State.trace_safe {s : State} (h : Safe s) (kind ctx : Nat) (payload : Word) : Safe (s.trace kind ctx payload) := by
  unfold State.trace
  dsimp only
  split
  · exact h
  · split
    · exact h
    · exact Memory.wf_write h _ _

/-! ## Writing memory (R162, R415) -/

@[simp] theorem State.modJob_mem (s : State) (jobid : BitVec 32) (f : Job → Job) : (s.modJob jobid f).mem = s.mem := rfl

theorem State.logAbout_safe {s : State} (h : Safe s) (jobid : BitVec 32) (cls cause source : Nat) (detail : BitVec 32) (addr : Word) :
    Safe (s.logAbout jobid cls cause source detail addr) :=
  State.logFor_safe h ..

/-- What every step of a fold keeps, the fold keeps. -/
theorem foldl_keeps {α β : Type} (P : α → Prop) (f : α → β → α) (hf : ∀ a b, P a → P (f a b)) (l : List β) {a : α} (h : P a) : P (l.foldl f a) := by
  induction l generalizing a with
  | nil => exact h
  | cons b l ih => exact ih (hf a b h)

theorem State.tamperCheck_safe {s : State} (h : Safe s) (source key n : Nat) : Safe (s.tamperCheck source key n) :=
  foldl_keeps Safe _ (fun _ j ht => State.logAbout_safe ht j.jobid 8 0 source 0 (BitVec.ofNat 64 (plainAddress key))) _ h

/-- With nothing hashed there is nothing to check. -/
theorem State.tamperCheck_none {s : State} (h : s.unhashed) (source key n : Nat) : s.tamperCheck source key n = s := by
  have hl : (s.allJobs.filter fun j => j.hashed.any fun r => overlaps key n r.1 r.2) = [] := by
    rw [List.filter_eq_nil_iff]
    intro j hj
    rw [List.isEmpty_iff.mp (List.all_eq_true.mp h j hj)]
    exact Bool.false_ne_true
  unfold State.tamperCheck
  rw [hl]
  rfl

theorem State.daybook_safe {s : State} (h : Safe s) (old new : Snapshot) : Safe (s.daybook old new) := by
  unfold State.daybook
  dsimp only
  split
  · exact State.logEntry_safe (s := s.modCore fun c => { c with snapshot := some new }) h true 10 0 s.unitSource 0 0
  · exact h

theorem State.daybookLines_safe {s : State} (h : Safe s) (ls : List Nat) : Safe (s.daybookLines ls) := by
  unfold State.daybookLines
  split
  · exact State.daybook_safe h _ _
  · exact h

theorem State.pokeAs_safe {s : State} (h : Safe s) (agent source key : Nat) (bs : List Byte) : Safe (s.pokeAs agent source key bs) :=
  Memory.wf_write (State.daybookLines_safe (State.tamperCheck_safe h source key bs.length) _) key bs

theorem State.poke_safe {s : State} (h : Safe s) (source key : Nat) (bs : List Byte) : Safe (s.poke source key bs) :=
  State.pokeAs_safe h ..

/-- With nothing hashed for a manifest and no daybook open, a write changes memory, and what has been read of it early. -/
theorem State.pokeAs_plain {s : State} (hh : s.unhashed) (hs : s.core.snapshot = none) (agent source key : Nat) (bs : List Byte) :
    s.pokeAs agent source key bs =
      { s with mem := Memory.write s.mem key bs, early := s.freshEarly (s.early.map fun e => e.overwrite agent key bs.length) } := by
  have hd : s.daybookLines (s.ownLines key bs.length) = s := by
    unfold State.daybookLines
    rw [hs]
  unfold State.pokeAs
  rw [State.tamperCheck_none hh, hd]

theorem State.writeRow_safe {s : State} (h : Safe s) (row : Nat) (ws : List (BitVec 32)) : Safe (s.writeRow row ws) := by
  unfold State.writeRow
  dsimp only
  split
  · split
    · exact h
    · exact State.daybook_safe h _ _
  · exact h

theorem State.finitAt_safe {s : State} (h : Safe s) (source key : Nat) (v : Word) (b : Bool) : Safe (s.finitAt source key v b) :=
  State.poke_safe h source key _

/-! ## Performing accesses (R302) -/

theorem State.serveSwatch_mem (s : State) (n : Fin 11) (d wx wp : Nat) : (s.serveSwatch n d wx wp).mem = s.mem := by
  unfold State.serveSwatch
  split
  · rfl
  · simp only [State.formWrite, State.fill_mem]; rfl

theorem State.meetBad_safe {s : State} (h : Safe s) (a : Acc) (source : Nat) (wseq : Option Nat) : Safe (s.meetBad a source wseq) := by
  have key : Safe (if wseq.isNone then s.logEntry true 2 0x18 (s.sourceOf a.ctx) (badDetail true source) a.caddr else s) := by
    split
    · exact State.logEntry_safe h ..
    · exact h
  unfold State.meetBad
  dsimp only
  split
  · rw [Safe, State.fill_mem]; exact key
  · exact key

theorem State.readSlot_safe {s : State} (h : Safe s) (a : Acc) (t : BitVec 5) : Safe (s.readSlot a t) := by
  unfold State.readSlot
  split
  · rw [Safe, State.modCtxAt_mem]; exact State.logEntry_safe h ..
  · exact h

@[simp] theorem State.dropRead_mem (s : State) (a : Acc) : (s.dropRead a).mem = s.mem := by
  unfold State.dropRead; split <;> rfl

theorem State.performOp_safe {s : State} (h : Safe s) (a : Acc) : Safe (s.performOp a) := by
  unfold State.performOp
  split
  · rw [Safe, State.dropAcc_mem]; exact State.poke_safe h ..
  · rw [Safe, State.dropAcc_mem]; exact State.poke_safe h ..
  · rw [Safe, State.dropAcc_mem, State.fill_mem]; exact h
  · rw [Safe, State.dropAcc_mem]; exact State.finitAt_safe h ..
  · rw [Safe, State.dropAcc_mem, State.serveSwatch_mem]; exact h
  · rw [Safe, State.post_mem, State.dropAcc_mem]; exact h
  · split
    · rw [Safe, State.dropAcc_mem]; exact State.meetBad_safe h ..
    · rw [Safe, State.dropAcc_mem, State.fill_mem]; exact h
  · rw [Safe, State.dropAcc_mem]; exact State.readSlot_safe h ..
  · split
    · rw [Safe, State.dropAcc_mem]; exact State.meetBad_safe h ..
    · dsimp only
      split
      · split <;> simp only [Safe, State.post_mem, State.dropRead_mem, State.fill_mem] <;> exact h
      · rw [Safe, State.dropAcc_mem]
        refine State.poke_safe ?_ _ _ _
        split
        · rw [Safe, State.fill_mem]; exact h
        · exact h

theorem State.reportBad_safe {s : State} (h : Safe s) (n : Fin 11) (inst : Nat) : Safe (s.reportBad n inst) := by
  unfold State.reportBad
  split
  · exact h
  · split
    · exact h
    · dsimp only
      rw [Safe, State.post_mem, State.modCtxAt_mem]
      split
      · exact State.logEntry_safe h ..
      · exact h

theorem State.performAcc_safe {s : State} (h : Safe s) (a : Acc) : Safe (s.performAcc a) := by
  unfold State.performAcc
  rw [Safe, State.wake_mem]
  exact State.reportBad_safe (State.performOp_safe h a) _ _

theorem State.writeHalf_safe {s : State} (h : Safe s) (x : Half) : Safe (s.writeHalf x) := by
  unfold State.writeHalf
  rw [Safe, State.wake_mem]
  exact State.poke_safe h ..

theorem State.finishHalves_safe {s : State} (h : Safe s) (key n : Nat) : Safe (s.finishHalves key n) := by
  unfold State.finishHalves
  refine foldl_keeps Safe _ (fun t x ht => ?_) _ h
  split
  · exact State.writeHalf_safe ht x
  · exact ht

theorem State.tryAcc_safe {s : State} (h : Safe s) (a : Acc) : Safe (s.tryAcc a) := by
  unfold State.tryAcc
  split
  · exact h
  · split
    · exact h
    · refine State.performAcc_safe ?_ a
      split
      · exact State.finishHalves_safe h ..
      · exact h

/-! ## Records and the end of a job (R406, R412) -/

theorem State.finishWrites_safe {s : State} (h : Safe s) (l : List Acc) : Safe (State.finishWrites l s) := by
  induction l generalizing s with
  | nil => exact h
  | cons a l ih =>
    unfold State.finishWrites
    split
    · exact ih (State.poke_safe h ..)
    · exact ih (State.poke_safe h ..)
    · refine ih ?_
      split
      · exact State.logEntry_safe h ..
      · exact State.poke_safe h ..
    · exact ih (State.finitAt_safe h ..)
    · exact ih h

theorem State.writeRecord_safe {s : State} (h : Safe s) (compl : Word) (evt q status dword0 : Nat) (start finish count logged : Word) :
    Safe (s.writeRecord compl evt q status dword0 start finish count logged) := by
  unfold State.writeRecord Safe
  dsimp only
  split
  · exact h
  · exact Memory.wf_write (Memory.wf_write (Memory.wf_write h _ _) _ _) _ _

theorem State.flushTakes_safe {s : State} (h : Safe s) (n : Fin 11) : Safe (s.flushTakes n) := by
  unfold State.flushTakes
  split
  · exact h
  · exact State.trace_safe h ..

theorem State.flushAllTakes_safe {s : State} (h : Safe s) : Safe s.flushAllTakes := by
  unfold State.flushAllTakes
  generalize List.finRange 11 = l
  induction l generalizing s with
  | nil => exact h
  | cons n l ih => exact ih (State.flushTakes_safe h n)

@[simp] theorem State.addManifest_mem (s : State) (j : Job) (d : Nat) (count : Word) : (s.addManifest j d count).mem = s.mem := by
  unfold State.addManifest; split <;> rfl

theorem State.recordJob_safe {s : State} (h : Safe s) (j : Job) (repro : Bool) (count : Word) (status reason : Nat) :
    Safe (s.recordJob j repro count status reason) :=
  State.writeRecord_safe (by rw [Safe, State.addManifest_mem]; exact h) ..

theorem State.endRecord_safe {s : State} (h : Safe s) (status reason : Nat) : Safe (s.endRecord status reason) := State.recordJob_safe h ..

theorem State.endOther_safe {s : State} (h : Safe s) (x : OtherJob) (count : Word) (status reason : Nat) :
    Safe (s.endOther x count status reason) :=
  State.recordJob_safe (by exact h) ..

theorem State.abortJob_safe {s : State} (h : Safe s) (reason : Nat) : Safe (s.abortJob reason) := by
  unfold State.abortJob
  split
  · rw [Safe, State.releaseJob_mem]
    exact State.endRecord_safe (State.flushAllTakes_safe (State.finishWrites_safe h _)) ..
  · exact h

/-! ## Traps and issue (R49, R140, R145) -/

@[simp] theorem State.abortCmds_mem (s : State) : s.abortCmds.mem = s.mem := rfl

@[simp] theorem State.stopContexts_mem (s : State) (reason : Nat) : (s.stopContexts reason).mem = s.mem := by
  unfold State.stopContexts; split <;> rfl

theorem State.doubleTrap_safe {s : State} (h : Safe s) (t : TrapInfo) : Safe (s.doubleTrap t) := by
  have h2 := State.logEntry_safe (State.logEntry_safe h true 5 (natBits (s.ctx.traprec.get 0).toNat 7 0) s.source
    (BitVec.ofNat 32 (natBits (s.ctx.traprec.get 0).toNat 63 32)) (s.ctx.traprec.get 3)) true 5 t.cause.toNat s.source t.detail t.caddr
  unfold State.doubleTrap
  dsimp only
  rw [Safe, State.stopContexts_mem, State.modCtx_mem]
  exact h2

theorem State.logTrap_safe {s : State} (h : Safe s) (t : TrapInfo) : Safe (s.logTrap t) := by
  unfold State.logTrap
  split
  · exact State.violation_safe h ..
  · exact h

theorem State.takeTrap_safe {s : State} (h : Safe s) (t : TrapInfo) : Safe (s.takeTrap t) := by
  unfold State.takeTrap
  dsimp only
  split
  · unfold State.enterTrap
    split
    · exact State.doubleTrap_safe (s := s.setCtx (s.ctx.settle s.cycle)) h t
    · dsimp only
      split
      · refine State.trace_safe ?_ ..
        rw [Safe, State.modCtx_mem, State.setCtx_mem]; exact h
      · exact h
  · exact h

theorem State.raise_safe {s : State} (h : Safe s) (t : TrapInfo) : Safe (s.raise t) := State.takeTrap_safe (State.logTrap_safe h t) _

theorem State.trapHere_safe {s : State} (h : Safe s) (cause : BitVec 8) (detail : BitVec 32) (caddr : Word) : Safe (s.trapHere cause detail caddr) :=
  State.raise_safe h _

theorem State.trapLogged_safe {s : State} (h : Safe s) (cause : BitVec 8) (detail : BitVec 32) (caddr : Word) :
    Safe (s.trapLogged cause detail caddr) :=
  State.trapHere_safe (State.violation_safe h ..) ..

theorem State.illegal_safe {s : State} (h : Safe s) : Safe s.illegal := State.trapHere_safe h ..
theorem State.resource_safe {s : State} (h : Safe s) (detail : BitVec 32) : Safe (s.resource detail) := State.trapHere_safe h ..
theorem State.phaseViolation_safe {s : State} (h : Safe s) : Safe s.phaseViolation := State.trapHere_safe (State.violation_safe h ..) ..

/-- An instruction that issues keeps memory canonical if its continuation does. -/
theorem State.issue_safe {s : State} (h : Safe s) (rs ws : List Reg) {k : State → State} (hk : ∀ t, Safe t → Safe (k t)) : Safe (s.issue rs ws k) := by
  unfold State.issue
  split
  · exact hk _ h
  · split
    · exact hk _ h
    · split
      · refine State.trapHere_safe ?_ ..
        rw [Safe, State.count_mem]; exact h
      · refine hk _ ?_
        rw [Safe, State.modCtx_mem, State.count_mem]; exact h

theorem State.whenDone_safe {s : State} (h : Safe s) (p : Acc → Bool) (v : Word) {k : State → State} (hk : ∀ t, Safe t → Safe (k t)) :
    Safe (s.whenDone p v k) := by
  unfold State.whenDone
  split
  · exact h
  · exact hk _ h

/-- An event that takes what the outside brings keeps memory canonical if what it does keeps it. -/
theorem State.withReq_safe {s : State} (h : Safe s) {k : HostReq → State → State} (hk : ∀ r t, Safe t → Safe (k r t)) : Safe (s.withReq k) := by
  unfold State.withReq
  split
  · exact h
  · exact hk _ _ h

/-- With nothing from outside the event does not happen. -/
theorem State.withReq_nil {s : State} (h : s.inbox = []) (k : HostReq → State → State) : s.withReq k = s := by
  unfold State.withReq
  rw [h]

theorem State.withReq_cons {s : State} {r : HostReq} {l : List HostReq} (h : s.inbox = r :: l) (k : HostReq → State → State) :
    s.withReq k = k r { s with inbox := l } := by
  unfold State.withReq
  rw [h]

end Sys2Proof.Machine
end

