-- ==== Sys2Proof/Laws/Ops.lean ====
section
/-! SUPPORT. What each shared operation of the machine can do, said once (issue, results, completion, waiting, traps). -/

namespace Sys2Proof.Machine

open Sys2Proof

/-! ## Issue (R49) -/

/-- An instruction that meets no hazard issues: the taint of what it reads is noted, and nothing else happens (R49, R192). -/
theorem State.issue_ready {s : State} {rs ws : List Reg} (h : s.ready (rs ++ ws)) (k : State → State) :
    s.issue rs ws k = k (s.modCtx fun c => { c with inTaint := c.taintOf (rs.map .reg) }) := by
  unfold State.issue
  rw [h.1, h.2]
  rfl

/-- A hazard with CHK = 1 is counted, and traps with cause 0x09 (R49). -/
theorem State.issue_trap {s : State} {rs ws : List Reg} {r : Reg} (hw : s.ctx.wait = none)
    (h : s.ctx.hazard (rs ++ ws) = some r) (hc : s.ctx.chk = true) (k : State → State) :
    s.issue rs ws k = (s.count 3).trapHere 0x09 r.detail 0 := by
  unfold State.issue
  rw [hw, h, hc]
  rfl

/-- A hazard with CHK = 0 is counted and sets HAZ, and the instruction goes on (R49). -/
theorem State.issue_haz {s : State} {rs ws : List Reg} {r : Reg} (hw : s.ctx.wait = none)
    (h : s.ctx.hazard (rs ++ ws) = some r) (hc : s.ctx.chk = false) (k : State → State) :
    s.issue rs ws k = k ((s.count 3).modCtx fun c => { c with haz := true, inTaint := c.taintOf (rs.map .reg) }) := by
  unfold State.issue
  rw [hw, h, hc]
  rfl

/-- What issuing notes changes no register and no place. -/
theorem Ctx.reg_inTaint (c : Ctx) (t : List Nat) (r : Reg) : ({ c with inTaint := t } : Ctx).reg r = c.reg r := by
  cases r <;> rfl

/-! ## The next word (R58, R127) -/

/-- A loop test of an instruction that holds no end word goes on with the next word. -/
theorem Ctx.endTests_straight (pc : Word) (size : Nat) (c : Ctx) :
    ∀ l : List (Fin 3), (∀ n ∈ l, c.loopEndsIn n pc size = false) →
      Ctx.endTests pc size l c = { c with pc := pc + BitVec.ofNat 64 size }
  | [], _ => rfl
  | n :: ns, h => by
    unfold Ctx.endTests
    rw [h n (List.mem_cons_self ..)]
    exact Ctx.endTests_straight pc size c ns fun m hm => h m (List.mem_cons_of_mem _ hm)

/-- On a straight way execution goes on with the next word. -/
theorem Ctx.sequential_straight {c : Ctx} {size : Nat} (h : c.straight size) :
    c.sequential size = { c with pc := c.pc + BitVec.ofNat 64 size } := by
  obtain ⟨hf, hl⟩ := h
  unfold Ctx.sequential
  rw [if_pos (by rw [hf]; rfl)]
  refine Ctx.endTests_straight c.pc size c c.loopOrder fun n _ => ?_
  have hl : (c.loopEndsIn 0 c.pc size || (c.loopEndsIn 1 c.pc size || (c.loopEndsIn 2 c.pc size || false))) = false := hl
  simp only [Bool.or_eq_false_iff] at hl
  match n with
  | 0 => exact hl.1
  | 1 => exact hl.2.1
  | 2 => exact hl.2.2.1

/-- Loop tests change the loop counts and end addresses, the leader's too, and the program counter. -/
theorem Ctx.endTests_only (pc : Word) (size : Nat) : ∀ (l : List (Fin 3)) (c : Ctx),
    Ctx.endTests pc size l c =
      { c with pc := (Ctx.endTests pc size l c).pc, lc := (Ctx.endTests pc size l c).lc, le := (Ctx.endTests pc size l c).le,
               lead := (Ctx.endTests pc size l c).lead }
  | [], _ => rfl
  | n :: ns, c => by
    unfold Ctx.endTests
    split
    · split
      · rfl
      · rw [Ctx.endTests_only pc size ns _]; rfl
    · exact Ctx.endTests_only pc size ns c

/-- A new frame position changes RPTST, the leader's too, and nothing else. -/
theorem Ctx.modRptst_only (c : Ctx) (f : Word → Word) :
    c.modRptst f = { c with rptst := (c.modRptst f).rptst, lead := (c.modRptst f).lead } := rfl

/-- The sequencer's step changes the program counter and the frame's position, the leader's too. -/
theorem Ctx.frameNext_only (c : Ctx) :
    c.frameNext = { c with pc := c.frameNext.pc, lead := c.frameNext.lead, rptst := c.frameNext.rptst, frame := c.frameNext.frame } := by
  unfold Ctx.frameNext
  generalize c.ctl = r
  dsimp only
  split
  · rw [Ctx.modRptst_only]
  · split <;> rw [Ctx.modRptst_only]

/-- Going on changes the program counter, the loop counts and end addresses, and the frame's position. -/
theorem Ctx.sequential_only (c : Ctx) (size : Nat) :
    c.sequential size =
      { c with pc := (c.sequential size).pc, lc := (c.sequential size).lc, le := (c.sequential size).le, lead := (c.sequential size).lead,
               rptst := (c.sequential size).rptst, frame := (c.sequential size).frame } := by
  unfold Ctx.sequential
  split
  · rw [Ctx.endTests_only c.pc size c.loopOrder c]
  · rw [Ctx.frameNext_only c]

/-! ## Completing (R47, R131) -/

/-- An instruction that completes goes on with the word after it. -/
theorem State.retireAfter_goesOn (s : State) (sw : Bool) (size gap : Nat) :
    s.goesOn (s.retireAfter sw size gap) sw size gap := by
  refine ⟨?_, ?_, ?_, fun h => ?_⟩
  all_goals simp only [State.retireAfter, State.ctx_modCtx]
  rw [Ctx.sequential_straight h]
  exact ⟨rfl, rfl, rfl, rfl, rfl, h.1⟩

/-- A register is untouched by where its context goes on. -/
theorem Ctx.reg_congr {c d : Ctx} (hx : c.x = d.x) (hv : c.v = d.v) (hp : c.p = d.p) (r : Reg) : c.reg r = d.reg r := by
  cases r with
  | x n => simp only [Ctx.reg, Ctx.readX, hx]
  | v n => simp only [Ctx.reg, Ctx.readV, hv]
  | p n => simp only [Ctx.reg, Ctx.readP, hp]

theorem Ctx.sequential_x (c : Ctx) (size : Nat) : (c.sequential size).x = c.x := by rw [Ctx.sequential_only]
theorem Ctx.sequential_v (c : Ctx) (size : Nat) : (c.sequential size).v = c.v := by rw [Ctx.sequential_only]
theorem Ctx.sequential_p (c : Ctx) (size : Nat) : (c.sequential size).p = c.p := by rw [Ctx.sequential_only]
theorem Ctx.sequential_writes (c : Ctx) (size : Nat) : (c.sequential size).writes = c.writes := by
  rw [Ctx.sequential_only]

/-- Completing changes no register and no outstanding write. -/
theorem State.retireAfter_sameRegs (s : State) (sw : Bool) (size gap : Nat) : s.sameRegs (s.retireAfter sw size gap) := by
  refine ⟨fun r => ?_, ?_⟩ <;> simp only [State.retireAfter, State.ctx_modCtx]
  · exact Ctx.reg_congr (Ctx.sequential_x _ _) (Ctx.sequential_v _ _) (Ctx.sequential_p _ _) r
  · exact Ctx.sequential_writes _ _

/-! ## Results of fixed latency (R47, R48, R50) -/

/-- What a value can be in a register of a file. -/
def Reg.fits (r : Reg) (v : Vec) : Prop :=
  match r with
  | .v _ => True
  | _ => (v.setWidth 64).setWidth 512 = v

/-- A 64-bit value fits every register. -/
theorem Reg.fits_wide (r : Reg) (w : Word) : r.fits (wide w) := by
  cases r <;> simp [Reg.fits, wide]

/-- A register put reads back. -/
theorem Ctx.reg_put_self (c : Ctx) (r : Reg) (v : Vec) (h : r ≠ .x 0) (hf : r.fits v) : (c.put r v).reg r = v := by
  cases r with
  | x n => rw [Ctx.reg_put_x c n v fun e => h (by rw [e])]; exact hf
  | v n => exact Ctx.reg_put_v c n v
  | p n => rw [Ctx.reg_put_p]; exact hf

/-- A result of fixed latency changes the registers, the outstanding writes and the taints of its context. -/
theorem Ctx.write_only (c : Ctx) (r : Reg) (v : Vec) (lat cycle seq : Nat) :
    c.write r v lat cycle seq =
      { c with x := (c.write r v lat cycle seq).x, v := (c.write r v lat cycle seq).v, p := (c.write r v lat cycle seq).p,
               writes := (c.write r v lat cycle seq).writes, taints := (c.write r v lat cycle seq).taints } := by
  unfold Ctx.write
  split
  · rfl
  · split
    · dsimp only
      rw [Ctx.put_only, Ctx.setTaint_only]
    · rw [Ctx.setTaint_only]

/-- A result of fixed latency lands in its register alone. -/
theorem State.write_lands (s : State) (r : Reg) (v : Vec) (lat : Nat) (hf : r.fits v) : s.lands (s.write r v lat) r v lat := by
  have hc : (s.write r v lat).ctx = s.ctx.write r v lat s.cycle s.seq :=
    s.ctx_modCtx fun c => c.write r v lat s.cycle s.seq
  have ht : ∀ q : Reg, (s.ctx.setTaint (.reg r) s.ctx.inTaint).reg q = s.ctx.reg q := fun q => by
    rw [Ctx.setTaint_only]; exact Ctx.reg_congr rfl rfl rfl q
  have hw : (s.ctx.setTaint (.reg r) s.ctx.inTaint).writes = s.ctx.writes := by rw [Ctx.setTaint_only]
  refine ⟨fun q hq => ?_, fun hz => ?_, fun hz hl => ?_, fun hz hl => ?_⟩
  · rw [hc]
    unfold Ctx.write
    by_cases hz : r = .x 0
    · rw [if_pos hz]
    · rw [if_neg hz]
      by_cases hl : lat ≤ 1
      · dsimp only
        rw [if_pos hl]
        have hqr : q ≠ r := by
          rcases hq with h | h | h
          · exact h
          · omega
          · exact absurd h hz
        exact (Ctx.reg_congr rfl rfl rfl q).trans ((Ctx.reg_put_ne _ r q v hqr).trans (ht q))
      · dsimp only
        rw [if_neg hl]
        exact (Ctx.reg_congr rfl rfl rfl q).trans (ht q)
  · rw [hc, Ctx.write, if_pos hz]
  · rw [hc, Ctx.write, if_neg hz]
    dsimp only
    rw [if_pos hl]
    refine ⟨(Ctx.reg_congr rfl rfl rfl r).trans (Ctx.reg_put_self _ r v hz hf), ?_⟩
    rw [Ctx.put_only, hw]
  · rw [hc, Ctx.write, if_neg hz]
    dsimp only
    rw [if_neg (by omega), hw]

/-- An instruction that writes one result of fixed latency and completes has done nothing else. -/
theorem State.write_retire_computes (s : State) (ts : Ctx → List Nat) (sw : Bool) (size : Nat) (r : Reg) (v : Vec) (lat : Nat)
    (hf : r.fits v) :
    s.computes (((s.modCtx fun c => { c with inTaint := ts c }).write r v lat).retire sw size) sw size r v lat := by
  set a := s.modCtx fun c => { c with inTaint := ts c } with ha
  set b := a.write r v lat with hb
  have hac : a.ctx = { s.ctx with inTaint := ts s.ctx } := s.ctx_modCtx _
  have hbc : b.ctx = a.ctx.write r v lat s.cycle s.seq := a.ctx_modCtx fun c => c.write r v lat s.cycle s.seq
  have hl := a.write_lands r v lat hf
  have hs := b.retireAfter_sameRegs sw size 1
  have hg := b.retireAfter_goesOn sw size 1
  have hareg : ∀ q, a.ctx.reg q = s.ctx.reg q := fun q => by rw [hac]; exact Ctx.reg_congr rfl rfl rfl q
  have hbo := Ctx.write_only a.ctx r v lat s.cycle s.seq
  rw [← hbc] at hbo
  have htc : (b.retire sw size).ctx =
      { b.ctx.sequential size with parked := sw, nextIssue := s.cycle + 1, wait := none, afterSync := false } :=
    b.ctx_modCtx _
  refine ⟨?_, ?_, ⟨hg.wait, hg.parked, hg.next, fun h => ?_⟩, ⟨fun q hq => ?_, fun hz => ?_, fun hz hq => ?_, fun hz hq => ?_⟩⟩
  · unfold State.onlyCtx
    rw [htc]
    simp only [State.retire, State.retireAfter, hb, ha, State.write, State.modCtx, State.setCtx, State.ctx, set_set_same,
      get_set_self, show Nat.max 1 1 = 1 from rfl]
  · unfold Ctx.onlyRegs
    rw [htc, Ctx.sequential_only, hbo, hac]
  · have hstr : b.ctx.straight size := by
      rw [hbo, hac]; exact h
    have := hg.place hstr
    rw [hbo, hac] at this
    exact this
  · rw [show b.retire sw size = b.retireAfter sw size 1 from rfl, hs.1 q, hl.others q hq, hareg q]
  · rw [show b.retire sw size = b.retireAfter sw size 1 from rfl, hs.2, hl.zero hz, hac]
  · rw [show b.retire sw size = b.retireAfter sw size 1 from rfl, hs.1 r, hs.2, (hl.now hz hq).1, (hl.now hz hq).2, hac]
    exact ⟨rfl, rfl⟩
  · rw [show b.retire sw size = b.retireAfter sw size 1 from rfl, hs.2, hl.later hz hq, hac]
    rfl

/-- An instruction that issues without a hazard, writes one result of fixed latency, and completes. -/
theorem State.issue_write_computes {s : State} {rs ws : List Reg} (h : s.ready (rs ++ ws)) (sw : Bool) (size : Nat) (r : Reg)
    (v : State → Vec) (lat : Nat) (hv : ∀ f : Ctx → List Nat, v (s.modCtx fun c => { c with inTaint := f c }) = v s) (hf : r.fits (v s)) :
    s.computes (s.issue rs ws fun u => (u.write r (v u) lat).retire sw size) sw size r (v s) lat := by
  rw [State.issue_ready h]
  simp only [hv]
  exact s.write_retire_computes _ sw size r (v s) lat hf

/-- A context that waits at no instruction reads its registers as they stand (R17). -/
theorem Ctx.operands_ready {c : Ctx} (h : c.wait = none) : c.operands = c := by
  unfold Ctx.operands; rw [h]

/-- The registers that an instruction reads do not depend on the taint that its issue notes. -/
theorem Ctx.operands_inTaint (c : Ctx) (t : List Nat) : ({ c with inTaint := t } : Ctx).operands = { c.operands with inTaint := t } := by
  unfold Ctx.operands
  cases h : c.wait <;> simp only [h]

/-- What an instruction reads does not depend on the taint that its issue notes. -/
theorem State.readX_inTaint (s : State) (f : Ctx → List Nat) (a : BitVec 5) :
    (s.modCtx fun c => { c with inTaint := f c }).readX a = s.readX a := by
  simp only [State.readX, State.ctx_modCtx, Ctx.operands_inTaint]; rfl

theorem State.readP_inTaint (s : State) (f : Ctx → List Nat) (a : BitVec 3) :
    (s.modCtx fun c => { c with inTaint := f c }).readP a = s.readP a := by
  simp only [State.readP, State.ctx_modCtx, Ctx.operands_inTaint]; rfl

theorem State.readV_inTaint (s : State) (f : Ctx → List Nat) (a : BitVec 5) :
    (s.modCtx fun c => { c with inTaint := f c }).readV a = s.readV a := by
  simp only [State.readV, State.ctx_modCtx, Ctx.operands_inTaint]; rfl

theorem State.pc_inTaint (s : State) (f : Ctx → List Nat) :
    (s.modCtx fun c => { c with inTaint := f c }).pc = s.pc := by
  simp only [State.pc, State.ctx_modCtx]

end Sys2Proof.Machine
end

