-- ==== Sys2Proof/Laws/Scalar.lean ====
section
/-! SUPPORT. What the shared operations of the scalar instructions do. -/

namespace Sys2Proof.Machine

open Sys2Proof

/-- An instruction of two x registers gives its function of them (R108). -/
theorem State.binary_computes {s : State} {d a b : BitVec 5} (h : s.ready [.x a, .x b, .x d]) (sw : Bool) (lat : Nat)
    (f : Word → Word → Word) :
    s.computes (s.binary sw d a b lat f) sw 4 (.x d) (wide (f (s.readX a) (s.readX b))) lat :=
  State.issue_write_computes (rs := [.x a, .x b]) (ws := [.x d]) h sw 4 (.x d)
    (fun u => wide (f (u.readX a) (u.readX b))) lat (fun t => by simp only [State.readX_inTaint])
    (Reg.fits_wide _ _)

/-- An instruction of one x register gives its function of it (R108, R110). -/
theorem State.unary_computes {s : State} {d a : BitVec 5} (h : s.ready [.x a, .x d]) (sw : Bool) (lat size : Nat)
    (f : Word → Word) :
    s.computes (s.unary sw d a lat size f) sw size (.x d) (wide (f (s.readX a))) lat :=
  State.issue_write_computes (rs := [.x a]) (ws := [.x d]) h sw size (.x d) (fun u => wide (f (u.readX a))) lat
    (fun t => by simp only [State.readX_inTaint]) (Reg.fits_wide _ _)

end Sys2Proof.Machine
end

