-- ==== Sys2Proof/Tests/Slice0.lean ====
section
/-! SUPPORT. Small tests: ill-formed terms that each check refuses, words of the spec that the decoder reads, single
steps whose results are worked out by hand from the rules, and states that meet the hypotheses of the statements of
Certificates/Slice0/Obligations.lean. -/

namespace Sys2Proof.Tests

open Sys2Proof Sys2Proof.Machine

-- The theorems are checked one after another: in parallel they ask for more memory than a check has.
set_option Elab.async false

/-! ## Ill-formed terms (R35, R37, R43, R45, R109, R167, R170, R175, R177, R178, R236, R281, R347) -/

theorem test_scalar_types_refused :
    (Instr.mulh false 1 2 3 .s32).check = some .badCode ∧ (Instr.bfx false 1 2 3 .z8).check = some .badCode ∧
    (Instr.bfi false 1 2 3 .z64).check = some .badCode ∧ (Instr.abs false 1 2 .z16 .wrap).check = some .badCode := by decide

theorem test_loop_set_three_refused :
    (Instr.movFromLoop false 1 3 .lc).check = some .badLoopSet ∧ (Instr.movToLoop false 3 1 .le).check = some .badLoopSet ∧
    (Instr.loop false 3 1 4 none).check = some .badLoopSet ∧ (Instr.loopi false 3 4 1 none).check = some .badLoopSet := by decide

theorem test_rptf_count_nibble_with_ext_refused :
    (Instr.rptf false 1 1 1 0 3 (some 0x100)).check = some .reservedField := by decide

theorem test_gang_zero_and_sys_scopes_refused :
    (Instr.gang false 0).check = some .badCode ∧ (Instr.icinv false 1 .sys).check = some .badCode ∧
    (Instr.tlbinv false 1 2 .sys).check = some .badCode := by decide

/-- SAT with a float type, a stream in place of v3, a stream in place of a field that names no v register, and SAT where no
sum is formed. -/
theorem test_vector_prefixes_refused :
    (Instr.vadd false 3 4 5 (.float .f32) 0 (some ⟨true, false, 0, false, 0, false, 0⟩)).check = some .badVectorExt ∧
    (Instr.vsub false 3 4 5 (.int .s8) 0 (some ⟨false, true, 1, false, 0, false, 0⟩)).check = some .badVectorExt ∧
    (Instr.vmul false 3 4 5 (.int .s8) 0 (some ⟨false, false, 0, true, 0, false, 0⟩)).check = some .badVectorExt ∧
    (Instr.vfma false 0 4 5 .f32 0 (some ⟨false, true, 0, false, 0, false, 0⟩)).check = some .badVectorExt ∧
    (Instr.vmin false 3 4 5 (.int .s8) 0 (some ⟨false, false, 0, false, 0, true, 0⟩)).check = some .badVectorExt ∧
    (Instr.vmax false 3 4 5 (.int .s8) 0 (some ⟨true, false, 0, false, 0, false, 0⟩)).check = some .badVectorExt ∧
    (Instr.vabs false 3 4 (.float .f16) 0 (some ⟨true, false, 0, false, 0, false, 0⟩)).check = some .badVectorExt ∧
    (Instr.vand false 3 4 5 .s8 0 (some ⟨true, false, 0, false, 0, false, 0⟩)).check = some .badVectorExt ∧
    (Instr.vor false 3 4 5 .s8 0 (some ⟨true, false, 0, false, 0, false, 0⟩)).check = some .badVectorExt ∧
    (Instr.vxor false 3 4 5 .s8 0 (some ⟨true, false, 0, false, 0, false, 0⟩)).check = some .badVectorExt ∧
    (Instr.vshl false 3 4 5 .s8 0 (some ⟨true, false, 0, false, 0, false, 0⟩)).check = some .badVectorExt ∧
    (Instr.vshr false 3 4 5 .s8 0 (some ⟨false, true, 0, false, 0, false, 0⟩)).check = some .badVectorExt := by decide

theorem test_more_vector_prefixes_refused :
    (Instr.vcmp false 0 4 5 (.int .s8) .lt (some ⟨false, true, 0, false, 0, false, 0⟩)).check = some .badVectorExt ∧
    (Instr.vsel false 3 4 5 (.int .s8) 0 (some ⟨false, true, 0, false, 0, false, 0⟩)).check = some .badVectorExt ∧
    (Instr.vperm false 3 4 5 .s8 0 (some ⟨true, false, 0, false, 0, false, 0⟩)).check = some .badVectorExt ∧
    (Instr.vbcast false 3 0 (.int .s8) 0 (some ⟨false, false, 0, true, 0, false, 0⟩)).check = some .badVectorExt ∧
    (Instr.vmovxExtract false 0 4 0 (.int .s8) (some ⟨false, true, 0, false, 0, false, 0⟩)).check = some .badVectorExt ∧
    (Instr.vmovxInsert false 3 0 0 (.int .s8) (some ⟨false, false, 0, true, 0, false, 0⟩)).check = some .badVectorExt ∧
    (Instr.vrcp false 3 4 .f32 0 (some ⟨true, false, 0, false, 0, false, 0⟩)).check = some .badVectorExt ∧
    (Instr.vrsq false 3 0 .f32 0 (some ⟨false, true, 0, true, 0, false, 0⟩)).check = some .badVectorExt ∧
    (Instr.vinterp false 3 4 0 0 (some ⟨true, false, 0, false, 0, false, 0⟩)).check = some .badVectorExt := by decide

theorem test_vector_codes_refused :
    (Instr.vshuf false 1 2 3 (.lane (.int .s8)) .pk6 none).check = some .badCode ∧
    (Instr.vshuf false 1 2 3 .e4m3 .lo none).check = some .badCode ∧
    (Instr.vshuf false 1 2 3 (.lane (.int .s8)) .rev none).check = some .reservedField ∧
    (Instr.vred false 1 2 .and (.float .f32) 0 none).check = some .badCode ∧
    (Instr.vcvt false 1 2 .cb4 (.lane (.float .f32)) 0 none).check = some .badCode ∧
    (Instr.vcvt false 1 2 .e2m1 (.lane (.int .s64)) 0 none).check = some .badCode ∧
    (Instr.vcvt false 1 2 (.lane (.float .f32)) (.lane (.float .bf16)) 2 none).check = some .badCode := by decide

theorem test_queue_numbers_refused :
    (Instr.qpush false 4 1 .dev).check = some .badQueue ∧ (Instr.qpop false 1 6).check = some .badQueue ∧
    (Instr.qtry false 1 5).check = some .badQueue ∧ (Instr.qlen false 1 5).check = some .badQueue ∧
    (Instr.wmrd false 1 4).check = some .badQueue := by decide

theorem test_atomic_types_and_join_refused :
    (Instr.amo false 1 2 3 .addf .dev false .z64).check = some .badCode ∧
    (Instr.red false 2 3 .addf .dev false .s32).check = some .badCode ∧
    (Instr.redv false 1 2 3 .addf .dev .s64).check = some .badCode ∧ (Instr.lmjoin false 1 0).check = some .badCode := by decide

theorem test_events_have_no_encoding :
    Instr.doorbell.check = some .noEncoding ∧ (Instr.walk 0).check = some .noEncoding ∧ encode .doorbell = [] := by decide

/-! ## Words of the spec (R34 to R46 and the encoding examples of the chapters) -/

theorem test_scalar_words_decode :
    decodeTableWord 32 0x01148310 = some (.add false 5 4 3 .s32 .wrap) ∧
    decodeTableWord 32 0x1A092838 = some (.bfx false 2 9 8 .z64) ∧
    decodeTableWord 32 0x100C600C = some (.shli false 3 3 12) ∧
    decodeTableWord 32 0x07296C38 = some (.div false 10 11 12 .z64) ∧
    decodeTableWord 32 0x021CFFFC = some (.addi false 7 7 (-4) none) := by decide

theorem test_move_and_compare_words_decode :
    decodeTableWord 32 0x2805281C = some (.pcmp false 1 9 8 .s64 .gt) := by decide

theorem test_control_words_decode :
    decodeTableWord 32 0x3501FFFD = some (.beqz false 15 0x1ffd none) ∧
    decodeTableWord 32 0x31000010 = some (.call false 0x10 none) ∧
    decodeTableWord 32 0x3B090002 = some (.loop false 2 8 2 none) ∧
    decodeTableWord 32 0x3C00200A = some (.loopi false 0 1 10 none) ∧
    decodeTableWord 32 0x33016000 = some (.callr false 11) ∧
    decodeTableWord 32 0x34000000 = some (.ret false) ∧
    decodeTableWord 32 0x3D084013 = some (.rptf false 2 2 0 1 3 none) ∧
    decodeTableWord 32 0x307FFFFD = some (.br false (-3) none) := by decide

theorem test_system_words_decode :
    decodeTableWord 32 0x40000000 = some (.nop false) ∧
    decodeTableWord 32 0x42000000 = some (.hend false) ∧
    decodeTableWord 32 0x4300E000 = some (.hwait false 7) ∧
    decodeTableWord 32 0x44200000 = some (.hstat false 8) ∧
    decodeTableWord 32 0x45000002 = some (.gang false 2) ∧
    decodeTableWord 32 0x46000000 = some (.split false) ∧
    decodeTableWord 32 0x48000000 = some (.rte false) ∧
    decodeTableWord 32 0x49000000 = some (.endCore false) ∧
    decodeTableWord 32 0x4C008010 = some (.icinv false 4 .dev) ∧
    decodeTableWord 32 0x4D000005 = some (.brk false 5) ∧
    decodeTableWord 32 0x4E000040 = some (.pause false 0x40) ∧
    decodeTableWord 32 0x4F0C0002 = some (.cntrd false 3 2) := by decide

theorem test_vector_words_decode :
    decodeTableWord 32 0x531CA640 = some (.vfma false 7 5 6 .f32 0 none) ∧
    decodeTableWord 32 0x5C886142 = some (.vcmp true 2 3 1 (.float .f32) .lt none) ∧
    decodeTableWord 32 0x61188043 = some (.vred false 6 4 .add (.float .f32) 3 none) ∧
    decodeTableWord 32 0x6004A040 = some (.vbcast false 1 5 (.float .f32) 0 none) ∧
    decodeTableWord 32 0x670C4040 = some (.vinterp false 3 2 0 0 none) ∧
    decodeTableWord 32 0x62148851 = some (.vcvt false 5 4 (.lane (.float .f32)) (.lane (.float .bf16)) 1 none) ∧
    decodeTableWord 32 0x6600E000 = some (.vtbld false 0 7) := by decide

theorem test_memory_words_decode :
    decodeTableWord 32 0x701464D2 = some (.ld false 5 3 4 .s32 .dev false 2 none) ∧
    decodeTableWord 32 0x7608E146 = some (.vgth false 2 7 1 .w32 1 2) ∧
    decodeTableWord 32 0x713A8074 = some (.st false 14 20 0 .w64 .dev true 0 none) ∧
    decodeTableWord 32 0x79038010 = some (.flush false 28 0 .dev 0 none) ∧
    decodeTableWord 32 0x7A012B10 = some (.tlbinv false 9 11 .dev) ∧
    decodeTableWord 32 0x7B952000 = some (.tlbprb true 5 9) ∧
    decodeTableWord 32 0x7C000000 = some (.tlbwait false) := by decide

theorem test_landing_words_decode :
    decodeTableWord 32 0x800D4B42 = some (.ldt false 3 10 11 (.scalar .z32) 2 none) ∧
    decodeTableWord 32 0x8000C0E0 = some (.ldt false 0 6 0 .vec 0 none) ∧
    decodeTableWord 32 0x81B1A000 = some (.tka true 12 13 false) ∧
    decodeTableWord 32 0x8110A001 = some (.tka false 4 5 true) ∧
    decodeTableWord 32 0x821C0400 = some (.tkt false 7 4 false) ∧
    decodeTableWord 32 0x83100000 = some (.reld false 4) ∧
    decodeTableWord 32 0x83100001 = some (.reldDrop false 4) ∧
    decodeTableWord 32 0x84240003 = some (.lsq false 9 3) ∧
    decodeTableWord 32 0x85000001 = some (.lsmode false true) := by decide

theorem test_transfer_words_decode :
    decodeTableWord 32 0x8804C010 = some (.qpush false 1 6 .dev) ∧
    decodeTableWord 32 0x89A42000 = some (.qpop true 9 1) ∧
    decodeTableWord 32 0x8A206000 = some (.qtry false 8 3) ∧
    decodeTableWord 32 0x8B108000 = some (.qlen false 4 4) ∧
    decodeTableWord 32 0x8C00E010 = some (.gx false 7 .dev) ∧
    decodeTableWord 32 0x8E006010 = some (.compact false 3 .dev) ∧
    decodeTableWord 32 0x8F0D8052 = some (.sbindAffine false 3 12 (.float .bf16) false) ∧
    decodeTableWord 32 0x91184000 = some (.sstat false 6 2) ∧
    decodeTableWord 32 0x92006000 = some (.sadv false 0 3) ∧
    decodeTableWord 32 0x93144000 = some (.wmrd false 5 2) := by decide

theorem test_sync_words_decode :
    decodeTableWord 32 0x98940314 = some (.arv true 5 3 .dev true) ∧
    decodeTableWord 32 0x99012710 = some (.arvn false 0 9 7 .dev false) ∧
    decodeTableWord 32 0x9A00A300 = some (.wait false 5 3) ∧
    decodeTableWord 32 0x9C008300 = some (.expect false 4 3) ∧
    decodeTableWord 32 0x9D300000 = some (.sync false 12) ∧
    decodeTableWord 32 0x9E000014 = some (.fence false .dev true) ∧
    decodeTableWord 32 0x9F010015 = some (.bbset false 8 true 5) ∧
    decodeTableWord 32 0xA0180000 = some (.bbrd false 6 false 0) ∧
    decodeTableWord 32 0xA2000002 = some (.bbpulse false 2) ∧
    decodeTableWord 32 0xA50CE000 = some (.dlkst false 3 7) := by decide

theorem test_atomic_words_decode :
    decodeTableWord 32 0xA8168108 = some (.amo false 5 20 1 .add .clu false .z64) ∧
    decodeTableWord 32 0xA9014C90 = some (.red false 10 12 .min .dev false .z64) ∧
    decodeTableWord 32 0xAB0C8510 = some (.cas false 3 4 5 .dev false .z64) ∧
    decodeTableWord 32 0xACAB0008 = some (.ftake true 10 24 .clu) ∧
    decodeTableWord 32 0xAD02E908 = some (.fput false 23 9 .clu) ∧
    decodeTableWord 32 0xB1016000 = some (.spkpush false 11) ∧
    decodeTableWord 32 0xB2086000 = some (.spkpop false 2 3) ∧
    decodeTableWord 32 0xB6B1A000 = some (.swalloc true 12 13) := by decide

theorem test_matrix_words_decode :
    decodeTableWord 32 0xB8008000 = some (.mctx false 4) ∧
    decodeTableWord 32 0xB9190901 = some (.mmul false 6 8 9 true) ∧
    decodeTableWord 32 0xBA014000 = some (.mloads false 10) ∧
    decodeTableWord 32 0xBB000000 = some (.mswap false) ∧
    decodeTableWord 32 0xBC1D6000 = some (.mstream false 7 11) ∧
    decodeTableWord 32 0xBE198000 = some (.acrd false 6 12) ∧
    decodeTableWord 32 0xC00C8001 = some (.mchkInj false 3 4) ∧
    decodeTableWord 32 0xC1000001 = some (.mzeroSt false) ∧
    decodeTableWord 32 0xC3000002 = some (.mwait false 2) ∧
    decodeTableWord 32 0xC4008001 = some (.mcbk false 4 true) ∧
    decodeTableWord 32 0xC51C0001 = some (.mflag false 7 true) := by decide

theorem test_loom_words_decode :
    decodeTableWord 32 0xC8008001 = some (.lmjoin false 4 1) ∧
    decodeTableWord 32 0xC8000000 = some (.lmjoinLeave false) ∧
    decodeTableWord 32 0xC900A000 = some (.draft false 5) ∧
    decodeTableWord 32 0xCA00C000 = some (.warp false 6) ∧
    decodeTableWord 32 0xCC012000 = some (.lmgo false 9) ∧
    decodeTableWord 32 0xCD280000 = some (.lmwait false 10) ∧
    decodeTableWord 32 0xCE2C0000 = some (.lmstat false 11) := by decide

theorem test_pigeonhole_words_decode :
    decodeTableWord 32 0xD0010000 = some (.phclaim false 8) ∧
    decodeTableWord 32 0xD1188504 = some (.phins false 6 4 5 true) ∧
    decodeTableWord 32 0xD29C8500 = some (.phprb true 7 4 5 false) ∧
    decodeTableWord 32 0xD3008500 = some (.phdel false 4 5 false) ∧
    decodeTableWord 32 0xD4188548 = some (.phacc false 6 4 5 .maxZ64 false) ∧
    decodeTableWord 32 0xD5A48A01 = some (.phdrn true 9 4 10 true) ∧
    decodeTableWord 32 0xD6008000 = some (.phfree false 4) := by decide

theorem test_network_words_decode :
    decodeTableWord 32 0xD8008000 = some (.popen false 4) ∧
    decodeTableWord 32 0xD900C003 = some (.psend false 6 true true) ∧
    decodeTableWord 32 0xDA9C0001 = some (.precv true 7 false 1) ∧
    decodeTableWord 32 0xDB254400 = some (.mcast false 9 10 4) ∧
    decodeTableWord 32 0xDC0CC005 = some (.sendt false 3 6 5) ∧
    decodeTableWord 32 0xDD012001 = some (.rwin false 9 1) ∧
    decodeTableWord 32 0xDE280001 = some (.pstat false 10 1) := by decide

theorem test_prefixed_words_decode :
    decodeTableWord 64 0x500C8500FF040000 = some (.vadd false 3 4 5 (.int .s8) 0 (some ⟨true, false, 0, false, 0, false, 0⟩)) ∧
    decodeTableWord 64 0x701C6074FF000010 = some (.ld false 7 3 0 .z64 .dev true 0 (some 0x10)) ∧
    decodeTableWord 64 0x7304C0F0FF000040 = some (.vld false 1 6 0 .dev false 0 (some 0x40)) ∧
    decodeTableWord 64 0x219006A0FF00000C = some (.movi true 4 0x06A0 (some 0xC)) := by decide

/-- R36, R41, R45: a nonzero reserved field, an opcode with no instruction, two prefixes, and a prefix before an instruction that
takes none. -/
theorem test_words_refused :
    decodeTableWord 32 0x01148311 = some (.add false 5 4 3 .s32 .sat) ∧ decodeTableWord 32 0x01148312 = none ∧
    decodeTableWord 32 0x40000001 = none ∧ decodeTableWord 32 0x00000000 = none ∧ decodeTableWord 64 0x40000000FF000001 = none := by decide

/-- R33: the words of a pair lie in memory with the prefix first, each with its low byte first. -/
theorem test_encoding_lays_out_bytes :
    encodeBytes (.movi true 4 0x06A0 (some 0xC)) = [0x0C, 0x00, 0x00, 0xFF, 0xA0, 0x06, 0x90, 0x21] := by decide

/-! ## Small states -/

/-- The x registers of a list, the others 0. -/
def xs (l : List (Fin 32 × Word)) : Vector Word 32 := l.foldl (fun v p => v.set p.1 p.2) (Vector.replicate 32 0)

/-- A running job on core 0, alone, with two helpers reserved and its handler at 0x40. -/
def job : Job :=
  { Job.none with running := true, jobid := 5, helpers := 2, trapvec := 0x40, compl := 0x1000, evt := 9, cores := [0] }

/-- Context 0 live at 0x100: x1 = 0x200, x2 = 3, x3 = −1, x4 = 4, x5 = 0, x6 = 0x82 (misaligned for 4 bytes), x31 = 0x140; p1 = −1. -/
def ctx0 : Ctx :=
  { Ctx.reset with live := true, pc := 0x100, x := xs [(1, 0x200), (2, 3), (3, -1), (4, 4), (6, 0x82), (31, 0x140)],
                   p := Ctx.reset.p.set 1 (-1) }

/-- That context on a running core. -/
def on (c : Ctx) : State := { State.reset with ctxs := State.reset.ctxs.set 0 c, job := job }

/-- The state most tests begin from. -/
def base : State := on ctx0

/-- The issuing context has no write outstanding and does not wait: it is ready whatever registers it uses. -/
theorem ready_of_idle {s : State} (w : s.ctx.wait = none) (h : s.ctx.writes = []) (rs : List Reg) : s.ready rs := by
  refine ⟨w, ?_⟩
  simp [Ctx.hazard, h]

/-- A register of the next state satisfies a test. -/
def after (i : Instr) (s : State) (p : State → Bool) : Bool :=
  match exec i s with
  | .next t => p t
  | _ => false

/-! ## Witnesses: scalar, control and system statements -/

theorem witness_base_ready (rs : List Reg) : base.ready rs := ready_of_idle (by decide) (by decide) rs

/-- AddSubMulDivGiveTheirTypedResult: a zero and a nonzero divisor. -/
theorem witness_AddSubMulDivGiveTheirTypedResult :
    base.ready [.x 1, .x 2, .x 7] ∧ extWord .s64 (base.readX 5) = 0 ∧ extWord .s64 (base.readX 2) ≠ 0 ∧
    (extWord .s64 (base.readX 3) : Int) = extWord .s64 (base.readX 2) * 0 + (-1) ∧ |(-1 : Int)| < |extWord .s64 (base.readX 2)| := by
  refine ⟨witness_base_ready _, ?_⟩
  decide

theorem witness_LogicOrderAndImmediateForms : base.ready [.x 1, .x 2, .x 7] ∧ base.ready [.x 7] :=
  ⟨witness_base_ready _, witness_base_ready _⟩

/-- A count of the width, and a smaller one. -/
theorem witness_ShiftsTakeBitsFiveToZeroOfTheCount :
    base.ready [.x 1, .x 2, .x 7] ∧ IntTy.s8.width ≤ (base.readX 3).toNat % 64 ∧ ¬ IntTy.s8.width ≤ (base.readX 2).toNat % 64 :=
  ⟨witness_base_ready _, by decide⟩

/-- A comparison that holds, and one that does not. -/
theorem witness_BitFieldsMovesAndPredicates :
    base.ready [.x 1, .x 2, .p 1] ∧ extWord .s64 (base.readX 3) < extWord .s64 (base.readX 2) ∧
    ¬ extWord .s64 (base.readX 2) < extWord .s64 (base.readX 3) :=
  ⟨witness_base_ready _, by decide⟩

/-- x5 = 0, x3 < 0, x31 and x1 aligned, p1 ≠ 0, p2 = 0; and a taken branch that leaves loop 0 alone of two loops. -/
def inLoops : State :=
  on { ctx0 with lc := ctx0.lc.set 0 2, ls := (ctx0.ls.set 0 0x100).set 1 0x80, le := (ctx0.le.set 0 0x10C).set 1 0x180 }

theorem witness_TransfersGoWhereTheySay :
    base.ready [.x 1, .x 31, .p 1] ∧ base.ctx.atLoopEnd 4 = false ∧ base.ctx.atLoopEnd 8 = false ∧
    (base.leadX 1).extractLsb' 0 2 = 0 ∧ (base.leadX 31).extractLsb' 0 2 = 0 ∧
    base.leadX 5 = 0 ∧ base.leadX 1 ≠ 0 ∧ (base.leadX 3).toInt < 0 ∧ 0 ≤ (base.leadX 5).toInt ∧ base.leadP 1 ≠ 0 ∧ base.leadP 2 = 0 ∧
    inLoops.ctx.atLoopEnd 4 = false ∧
    (∃ s : State, s.ctx.atLoopEnd 4 = true ∧ s.ctx.atLoopEnd 8 = true ∧ s.ctx.wait = none ∧ s.ctx.writes = [] ∧ s.ctx.inTrap = false) := by
  refine ⟨witness_base_ready _, ?_⟩
  refine ⟨by decide, by decide, by decide, by decide, by decide, by decide, by decide, by decide, by decide, by decide, by decide, ?_⟩
  exact ⟨on { ctx0 with le := (ctx0.le.set 0 0x100).set 1 0x104 }, by decide⟩

theorem witness_loop_exit : inLoops.ready [.x 1, .x 31] ∧ inLoops.ctx.exits 0x140 0 ∧ ¬ inLoops.ctx.exits 0x140 1 := by
  refine ⟨ready_of_idle (by decide) (by decide) _, ?_⟩
  unfold Ctx.exits
  decide

theorem witness_MisalignedTargetsTrap :
    base.ready [.x 6, .x 31] ∧ base.ctx.atLoopEnd 4 = false ∧ (base.leadX 6).extractLsb' 0 2 ≠ 0 ∧ base.ctx.trappable := by
  refine ⟨witness_base_ready _, ?_⟩
  unfold Ctx.trappable
  decide

/-- Loop 2 inactive inside loop 1; counts 0, −1 and 3; a write to a loop register of an idle and of an active set. -/
theorem witness_LoopsStartAndTheirRegistersMove :
    base.ready [.x 2] ∧ inLoops.ready [.x 2] ∧ inLoops.ctx.le.get 2 = 0 ∧
    (∀ M, inLoops.ctx.le.get M ≠ 0 → inLoops.ctx.ls.get M ≤ inLoops.ctx.pc → inLoops.ctx.pc ≤ inLoops.ctx.le.get M →
      inLoops.ctx.pc + 4 + 4 ≤ inLoops.ctx.le.get M) ∧
    (inLoops.leadX 5).toInt ≤ 0 ∧ (inLoops.leadX 3).toInt ≤ 0 ∧ 0 < (inLoops.leadX 2).toInt ∧
    (∀ M, base.ctx.le.get M = 0) ∧ base.ctx.frame = [] ∧ base.readX 1 ≠ base.ctx.pc ∧
    inLoops.ctx.le.get 0 ≠ 0 ∧ inLoops.ctx.trappable := by
  refine ⟨witness_base_ready _, ready_of_idle (by decide) (by decide) _, ?_⟩
  unfold Ctx.trappable
  decide

/-- The last word of loop 0 with counts 2 and 1; the frame words 0 of 1 and 1 of 1, of executions 0 of 1 and 1 of 1. -/
def atEnd (n : Word) : State := on { ctx0 with lc := ctx0.lc.set 0 n, ls := ctx0.ls.set 0 0xF0, le := ctx0.le.set 0 0x100 }

def inFrame (st : Word) : State := on { ctx0 with rptst := st, rptpc := 0x100, frame := [0x40000000, 0x40000000] }

theorem witness_LoopEndsAndFrameWordsGoOn :
    (atEnd 2).ready [] ∧ (atEnd 2).ctx.le.get 0 = (atEnd 2).ctx.pc ∧ (atEnd 2).ctx.pc ≠ 0 ∧ (∀ M, M ≠ 0 → (atEnd 2).ctx.le.get M = 0) ∧
    (atEnd 2).ctx.frame = [] ∧ 1 < ((atEnd 2).ctx.lc.get 0).toInt ∧ ((atEnd 1).ctx.lc.get 0).toInt ≤ 1 :=
  ⟨ready_of_idle (by decide) (by decide) _, by decide⟩

theorem witness_frame_words :
    (∀ st, (inFrame st).ready []) ∧ (inFrame 0).ctx.frame ≠ [] ∧
    rptIdx (rptWord 0 1 0 0 0 1 0 true) < rptN (rptWord 0 1 0 0 0 1 0 true) ∧
    (rptN (rptWord 0 1 0 0 0 1 1 true) ≤ rptIdx (rptWord 0 1 0 0 0 1 1 true) ∧
      rptJ (rptWord 0 1 0 0 0 1 1 true) < rptKm1 (rptWord 0 1 0 0 0 1 1 true)) ∧
    (rptN (rptWord 1 1 0 0 0 1 1 true) ≤ rptIdx (rptWord 1 1 0 0 0 1 1 true) ∧
      rptKm1 (rptWord 1 1 0 0 0 1 1 true) ≤ rptJ (rptWord 1 1 0 0 0 1 1 true)) := by
  refine ⟨fun st => ready_of_idle rfl rfl _, ?_⟩
  decide

/-- A VADD and an ADDI word behind an RPTF at 0x100. -/
def framed : State := { base with mem := Memory.write [] (scratchKey 0 0x104) [0x02, 0x85, 0x0C, 0x50, 0xFC, 0xFF, 0x1C, 0x02] }

theorem witness_RepeatFramesAreCapturedAndStepped :
    framed.ready [] ∧ framed.ctx.atLoopEnd 4 = false ∧ rptAct framed.ctx.rptst = false ∧
    ((framed.modCtx fun c => { c with inTaint := [] }).capture (framed.ctx.pc + 4) 2).2.toOption = some [0x500C8502, 0x021CFFFC] :=
  ⟨ready_of_idle (by decide) (by decide) _, by decide⟩

/-- Helper 1 live beside context 0; and helper 1 issuing. -/
def withHelper : State := { base with ctxs := base.ctxs.set 1 { Ctx.reset with live := true, pc := 0x300 } }

def asHelper : State := { withHelper with cur := 1 }

theorem witness_HelpersStartAndAreAwaited :
    base.ready [.x 1] ∧ base.cur = 0 ∧ (2 : Fin 11).val ≤ base.job.helpers ∧ base.core.gang = none ∧ base.job.redun = false ∧
    (base.ctxAt 2).live = false ∧ (base.ctx.pc + immWord 8 none <<< 2).extractLsb' 0 2 = 0 ∧
    (∀ h : Fin 11, ¬(h ≠ 0 ∧ (base.readX 2).getLsbD h.val = true ∧ (base.ctxAt h).live = true)) ∧
    (∃ h : Fin 11, h ≠ 0 ∧ (withHelper.readX 2).getLsbD h.val = true ∧ (withHelper.ctxAt h).live = true) ∧ withHelper.ready [.x 2] :=
  ⟨witness_base_ready _, by decide, by decide, by decide, by decide, by decide, by decide, by decide, by decide,
    ready_of_idle (by decide) (by decide) _⟩

/-- Core 1 waits at GANG 2; core 1 itself waits while core 0 does; core 0 in a gang. -/
def ganging : State :=
  { base with job := { job with cores := [0, 1] }, clu := { Cluster.reset with gangWait := [{ pos := 1, n := 2, since := 0 }] } }

def gangingAtOne : State :=
  { ganging with core := { Core.reset with num := 1 }, clu := { Cluster.reset with gangWait := [{ pos := 0, n := 2, since := 0 }] } }

def ganged : State := { base with core := { Core.reset with gang := some { n := 2, leader := true, stops := [], parks := 0, takes := 0 } } }

theorem witness_GangsFormAndSplit :
    (∀ s ∈ [ganging, gangingAtOne], s.ctx.wait = none ∧ s.ctx.writes = [] ∧ s.cur = 0 ∧ s.anyHelperLive = false ∧ s.core.gang = none ∧ s.job.redun = false ∧
      (∀ p ∈ rangeOthers s.position 2, s.clusterCore p ∈ s.job.cores) ∧
      rangeClashes s.clu.gangClash s.clu.gangWait s.clu.ended s.position 2 s.cycle = false ∧
      peersWait s.clu.gangWait (rangeOthers s.position 2) 2 s.cycle = true) ∧
    ganging.position % 2 = 0 ∧ gangingAtOne.position % 2 ≠ 0 ∧ ganged.core.gang.isSome = true ∧ ganged.ctx.wait = none ∧ ganged.ctx.writes = [] := by
  decide

/-- A context with a write outstanding, and one in its handler. -/
def waiting7 : PendingWrite := { reg := .x 7, val := 0, need := 1, seq := 0, due := none, dead := false, late := false, ready := 0 }

def pending : State := on { ctx0 with writes := [waiting7] }

def inHandler : State := on { ctx0 with inTrap := true, traprec := ctx0.traprec.set 1 0x204, pc := 0x40 }

theorem witness_TrapsEnterTheHandlerOrAbortTheJob :
    base.ready [] ∧ base.ctx.trappable ∧ base.claimed = false ∧
    (∃ w ∈ pending.ctx.writes, w.need ≠ 0 ∧ ∀ u ∈ pending.ctx.writes, u.seq = w.seq → u = w) ∧
    inHandler.ready [] ∧ inHandler.ctx.inTrap = true ∧ inHandler.ctx.writes = [] ∧ inHandler.job.running = true ∧ inHandler.dev.hostLink = true := by
  refine ⟨witness_base_ready _, ⟨by decide, by decide⟩, by decide,
    ⟨waiting7, .head _, by decide, fun u h _ => List.eq_of_mem_singleton h⟩, ready_of_idle (by decide) (by decide) _, ?_⟩
  decide

theorem witness_ReturnsComeBackFromTheHandler :
    inHandler.ready [.x 1] ∧ inHandler.ctx.atLoopEnd 4 = false ∧ inHandler.ctx.inTrap = true ∧ rptAct inHandler.ctx.rptst = false ∧
    (inHandler.readX 1).extractLsb' 0 2 = 0 ∧ base.ready [] ∧ base.ctx.trappable ∧ base.claimed = false ∧ rptAct base.ctx.rptst = false ∧
    (∀ k, base.ctx.le.get k ≠ base.job.trapvec) := by
  refine ⟨ready_of_idle (by decide) (by decide) _, ?_⟩
  unfold State.ready Ctx.trappable
  decide

theorem witness_MfcReadsEveryControlRegister : base.ready [.x 7] ∧ base.job.redun = false := ⟨witness_base_ready _, by decide⟩

/-- x1 leaves ACT 0, x2 sets it; RPTST outside a frame, and in the handler. -/
theorem witness_MtcWritesWhatCanBeWritten :
    base.ready [.x 1] ∧ rptAct (base.readX 1) = false ∧ base.ctx.frame = [] ∧ rptAct (base.readX 2) = true ∧ base.ctx.trappable ∧
    inHandler.ready [.x 2] ∧ inHandler.ctx.inTrap = true ∧ inHandler.ctx.frame = [] := by
  refine ⟨witness_base_ready _, by decide, by decide, by decide, ⟨by decide, by decide⟩, ready_of_idle (by decide) (by decide) _, by decide, by decide⟩

/-- A paused context; an ICINV of the local line at 0x200, its line noted, and its wait at an end. -/
def pausing : State := on { ctx0 with paused := true }

def dropping : State := on { ctx0 with icinv := some (scratchKey 0 0x200) }

def dropped : State := on { ctx0 with wait := some (ctx0.waiting .other 1 0 0) }

/-- Register x7 takes 6 from write 3; a dead write; and a counter that overflows. -/
def write7 (d : Bool) : PendingWrite := { reg := .x 7, val := wide 6, need := 0, seq := 3, due := none, dead := d, late := false, ready := 0 }

def formed (d : Bool) : State := on { ctx0 with writes := [write7 d] }

def counting (ie : Bool) : State :=
  { base with core := { Core.reset with counters := Core.reset.counters.set 2 { Counter.reset with ovie := ie } },
              dev := { Device.reset with trbase := 0x10000, trsize := 3 } }

theorem witness_PausesCountersCachesAndLateWrites :
    base.ready [.x 1] ∧ ((pausing.ctxAt 0).paused = true ∧ (pausing.ctxAt 0).nextIssue ≤ pausing.cycle + 1) ∧
    base.ctx.icinv = none ∧ ((base.modCtx fun x => { x with inTaint := x.taintOf [.reg (.x 1)] }).locate (base.readX 1)).2 = some (scratchKey 0 0x200) ∧
    base.accs = [] ∧ (dropping.ctxAt 0).icinv = some (scratchKey 0 0x200) ∧
    (∃ w, dropped.ctx.wait = some w ∧ w.q = 1) ∧ dropped.ctx.icinv = none ∧
    (counting false).core.counters.get 2 = Counter.reset ∧ ((counting true).core.counters.get 2).ovie = true ∧ (counting true).dev.trbase ≠ 0 ∧
    ((counting true).dev.trprod - (counting true).dev.trcons).toNat < (counting true).dev.trCapacity := by
  refine ⟨witness_base_ready _, by decide, by decide, by decide, by decide, by decide, ⟨_, rfl, rfl⟩, by decide, by decide, by decide, by decide, by decide⟩

theorem witness_late_writes (d : Bool) :
    write7 d ∈ ((formed d).ctxAt 0).writes ∧ (write7 d).seq = 3 ∧ (write7 d).need = 0 ∧
    (∀ u ∈ ((formed d).ctxAt 0).writes, u.seq = 3 → u = write7 d) ∧
    (∀ n, (write7 d).reg = .x n → (write7 d).val = wide ((write7 d).val.setWidth 64)) ∧
    (∀ n, (write7 d).reg = .p n → (write7 d).val = wide ((write7 d).val.setWidth 64)) :=
  ⟨.head _, rfl, rfl, fun u h _ => List.eq_of_mem_singleton h, fun n _ => by simp [write7, wide], fun n h => by cases h⟩

/-- A helper at its HEND, with nothing and with a TLBINV outstanding; context 0 at END, alone and with a helper; both ending. -/
def helperWaits : State :=
  { asHelper with ctxs := asHelper.ctxs.set 1 { Ctx.reset with
      live := true, tlbinvs := [{ lo := 0, bytes := 0, scope := .dev, after := [], dropped := false, held := false, ready := 0 }] } }

def ending : State :=
  { base with ctxs := (base.ctxs.set 0 { ctx0 with ending := true }).set 1 { Ctx.reset with live := true, ending := true } }

theorem witness_EndsEndContextsAndJobs :
    asHelper.ready [] ∧ asHelper.cur ≠ 0 ∧ asHelper.ctx.send.sst ≠ 2 ∧ asHelper.endWaits = false ∧
    helperWaits.ready [] ∧ helperWaits.cur ≠ 0 ∧ helperWaits.ctx.send.sst ≠ 2 ∧ helperWaits.endWaits = true ∧
    base.ready [] ∧ base.cur = 0 ∧ base.ctx.atLoopEnd 4 = false ∧ base.anyHelperLive = false ∧ base.job.superstep = false ∧
    base.core.loom.size = 0 ∧ base.job.redun = false ∧ base.endWaits = false ∧
    withHelper.ready [] ∧ withHelper.cur = 0 ∧ withHelper.ctx.atLoopEnd 4 = false ∧ withHelper.anyHelperLive = true ∧ withHelper.job.superstep = false ∧
    (ending.ctxAt 1).ending = true ∧ (ending.ctxAt 1).takeOrder = [] ∧
    (ending.ctxAt 0).ending = true ∧ ending.endShare.othersEnded = true ∧ ending.dev.hostLink = true := by
  unfold State.ready
  decide

/-! ## Witnesses: vector, memory and landing-set statements -/

/-- Where a check places an access, when it passes. -/
def placed (r : State × Except AccessFault Place × Nat) : Option Nat :=
  match r.2.1 with
  | .ok p => some p.key
  | .error _ => none

/-- Why a check fails. -/
def failure (r : State × Except AccessFault Place × Nat) : Option AccessFault :=
  match r.2.1 with
  | .ok _ => none
  | .error f => some f

def satOnly : Option VExt := some ⟨true, false, 0, false, 0, false, 0⟩

theorem witness_VectorIntegerLanesGiveTheirResult :
    (∀ e, satOnly = some e → e.ds = false ∧ e.as = false ∧ e.bs = false) ∧ base.ready [.v 1, .v 2, .v 3, .p 1] :=
  ⟨by intro e h; cases h; exact ⟨rfl, rfl, rfl⟩, witness_base_ready _⟩

theorem witness_VectorFloatLanesRoundOnceAndKeepWhatFits :
    (∀ e, (none : Option VExt) = some e → e.ds = false ∧ e.as = false ∧ e.bs = false) ∧ base.ready [.v 1, .v 2, .v 3, .p 1] ∧
    (0x3F80 < 2 * fmtBf16.signBit ∧ fmtBf16.value 0x3F80 ≠ .nan) ∧ fmtE4m3.value 0x7E ≠ .nan :=
  ⟨(by intro e h; cases h), witness_base_ready _, by decide, by decide⟩

/-- p2 = 0, so no lane is active under it; v0 holds 0 in every lane, which is the least. -/
theorem witness_VectorsCompareRearrangeReduceAndConvert :
    base.ready [.v 1, .v 2, .v 3, .p 1, .p 2, .x 1, .x 2, .x 7] ∧
    ((List.range 16).filter fun i => decide ((2 : BitVec 3) = 0) || (base.readP 2).getLsbD i) = [] ∧
    ((List.range 16).filter fun i => decide ((1 : BitVec 3) = 0) || (base.readP 1).getLsbD i) ≠ [] ∧
    base.readV 1 = 0 :=
  ⟨witness_base_ready _, by decide, by decide, rfl⟩

/-- Stream 1 reads 20 bytes from local 0x200, all fetched or none. -/
def streamed (f : Bool) : State :=
  { base with core := { Core.reset with streams := Core.reset.streams.set 1 { Stream.unbound with
      bnd := true, base := 0x200, c := Vector.replicate 4 1 |>.set 0 20, st := Vector.replicate 3 1, remain := 20,
      fetched := if f then (List.replicate 20 (some 5)) else [] } } }

def streaming : State := streamed false

theorem witness_StreamsFeedVectorInstructions :
    (let q := (streamed true).core.streams.get 1
     (streamed true).ready [.v 5, .v 6] ∧ q.bnd = true ∧ q.wr = false ∧ q.ty.width = IntTy.s8.width ∧ 0 < q.remain ∧ q.has 0 64 (streamed true).cycle = true) ∧
    streaming.ready [.v 5, .v 6] ∧ ((streaming.core.streams.get 1).bnd = true ∧ (streaming.core.streams.get 1).wr = false ∧
      (streaming.core.streams.get 1).ty.width = IntTy.s8.width ∧ 0 < (streaming.core.streams.get 1).remain) ∧
    (streaming.core.streams.get 1).has 0 64 streaming.cycle = false ∧
    base.ready [.v 5, .v 6] ∧ ¬(base.core.streams.get 1).bnd = true ∧ base.ctx.trappable :=
  ⟨⟨ready_of_idle rfl rfl _, by decide +kernel⟩, ready_of_idle rfl rfl _, by decide, by decide, witness_base_ready _, by decide, by decide, by decide⟩

/-- The table with segments from 0 to 4, spaced 2^0, with NSEG = 4 is at 0x200; and a filled slot. -/
def tableBytes4 : List Byte := [0, 0, 0, 0, 0, 0, 4, 0]

def tabled : State := { base with mem := Memory.write [] (scratchKey 0 0x200) tableBytes4 }

def filled : State :=
  { base with core := { Core.reset with tabs := Core.reset.tabs.set 1 (some (tableOf tableBytes4)) } }

theorem witness_TablesLoadAndInterpolate :
    tabled.ready [.x 1] ∧ (tabled.readX 1).toNat % 4 = 0 ∧
    (tabled.readX 1).toNat + (32 + 12 * fieldAt (Memory.read tabled.mem (scratchKey 0 0x200) 32) 6 2) ≤ 0x80000 ∧ tabled.job.claims = [] ∧
    tabled.accs = [] ∧ tabled.bad = [] ∧ (∀ q ∈ tabled.core.chans.toList, q.cmds = []) ∧
    badTable (Memory.read tabled.mem (scratchKey 0 0x200) 32) = false ∧
    (filled.core.tabs.get 1).isSome = true ∧ filled.ready [.v 1, .v 2, .p 1] ∧
    base.core.tabs.get 1 = none ∧ base.ctx.trappable :=
  ⟨ready_of_idle rfl rfl _, by decide, by decide, by decide, by decide, by decide, by decide, by decide, by decide, ready_of_idle rfl rfl _,
    by decide, by decide, by decide⟩

/-- Core 1 is in the job, with and without superstep mode, and a spike area is claimed at 0x400. -/
def paired (sup : Bool) : State :=
  { base with job := { job with cores := [0, 1], superstep := sup, claims := [{ kind := .spike, off := 0x400, bytes := 0x100 }] } }

/-- One table of each level at module HBM 0x10000, 0x20000 and 0x30000: 0x1_0400_0000 is a 64 MiB page with RD = 1, and 0x1_0800_0000 one with RD = 0;
the entry of 0x1_0C00_0000 is not valid. -/
def pages : List Host.Cell :=
  Memory.write (Memory.write (Memory.write [] (hbmKey 0x10000) (bytesOfNat 0x20001 8)) (hbmKey (0x20000 + 8 * 65)) (bytesOfNat 0x0001000400000063 8))
    (hbmKey (0x20000 + 8 * 66)) (bytesOfNat 0x0002000400000063 8)

def paged : State := { base with job := { job with root := 0x10000 }, mem := pages }

def cached : State := { paged with micro := [{ va := 0x104000000, level := 2, leaf := 0x0001000400000063 }] }

theorem witness_AccessesAreCheckedAndTranslated :
    base.localRun 0x7FFF8 8 ∧ (0x101 : Word).toNat % 2 ≠ 0 ∧
    ((0x80000 : Word).toNat % 8 = 0 ∧ 0x80000 ≤ (0x80000 : Word).toNat ∧ (0xFFFFF8 : Word).toNat < 0x1000000) ∧
    ((0x2000000 : Word).toNat % 64 = 0 ∧ 0x2000000 ≤ (0x2000000 : Word).toNat ∧ (0xFFFFFFC0 : Word).toNat < 0x100000000) ∧
    ((0x1000000000000 : Word).toNat % 8 = 0) ∧
    (∃ c ∈ (paired false).job.claims, overlaps (0x4F8 : Word).toNat 8 c.off c.bytes = true) ∧
    (paired false).clusterCore 2 ≠ (paired false).core.num ∧ (paired false).clusterCore 2 ∉ (paired false).job.cores ∧
    (paired false).clusterCore 1 ≠ (paired false).core.num ∧ (paired false).clusterCore 1 ∈ (paired false).job.cores ∧
    (∀ c ∈ (paired false).job.claims, overlaps 0x3F8 8 c.off c.bytes = false) ∧
    (paired true).job.superstep = true ∧ (0x1000000 + 1 * 0x80000 + 0x3F8 : Word).toNat = 0x1000000 + 1 * 0x80000 + 0x3F8 := by
  refine ⟨⟨by decide, by decide, by decide⟩, ?_⟩
  decide

theorem witness_translated_addresses :
    paged.job.superstep = false ∧ (0x100000000 ≤ (0x104000008 : Word).toNat ∧ (0x104000008 : Word).toNat < 0x1000000000000) ∧
    walkFrom paged.mem 0x104000008 3 paged.job.root.toNat = .leaf 2 0x0001000400000063 ∧ paged.targetAbsent 0x0001000400000063 = false ∧
    (0x0001000400000063 : Word).getLsbD 48 = true ∧
    walkFrom paged.mem 0x108000008 3 paged.job.root.toNat = .leaf 2 0x0002000400000063 ∧ (0x0002000400000063 : Word).getLsbD 48 = false ∧
    walkFrom paged.mem 0x10C000008 3 paged.job.root.toNat = .fault 2 0 ∧
    tlbFind paged.micro 0x104000008 = none ∧ tlbFind paged.clutlb 0x104000008 = none ∧ tlbFind paged.lasttlb 0x104000008 = none ∧
    (tlbFind cached.micro 0x104000008).isSome = true ∧ (tableEntry [] 0 0 3).getLsbD 0 = false := by
  decide

/-- x1 + x4 × 1 = 0x204 and x1 = 0x200 are local; a vector load at 0x200, and a store. -/
theorem witness_LoadsSendTheirAccesses :
    base.ready [.x 1, .x 5, .x 7, .v 7] ∧
    placed ((base.issued [.x 1, .x 5]).check .load (base.address 1 5 0 none) 64 64 base.exchange) = some (scratchKey 0 0x200) ∧
    placed ((base.issued [.x 1, .x 4]).check .load (base.address 1 4 0 none) 4 4 base.exchange) = some (scratchKey 0 0x204) :=
  ⟨witness_base_ready _, by decide, by decide⟩

theorem witness_StoresSendTheirBytes :
    base.ready [.x 1, .x 5, .x 2, .v 2] ∧
    placed ((base.issued [.x 1, .x 5, .x 2]).check .store (base.address 1 5 0 none) 8 8 base.exchange) = some (scratchKey 0 0x200) ∧
    placed ((base.issued [.x 1, .x 5, .v 2]).check .store (base.address 1 5 0 none) 64 64 base.exchange) = some (scratchKey 0 0x200) :=
  ⟨witness_base_ready _, by decide, by decide⟩

/-- p3 = 3: lanes 0 and 1 are active, both at x1 = 0x200; x6 = 0x82 is not aligned. -/
def gathering : State := on { ctx0 with p := ctx0.p.set 3 3 }

theorem witness_GatherAndScatterSendEveryActiveLane :
    gathering.ready [.x 1, .v 2, .p 3, .v 7] ∧
    (match State.checkLanes .load 4 (fun _ => 0x200) [0, 1] (gathering.issued [.x 1, .v 2, .p 3, .v 7]) with
      | (_, .ok ps, _) => decide (ps.map (fun q => (q.1, q.2.key)) = [(0, scratchKey 0 0x200), (1, scratchKey 0 0x200)])
      | _ => false) = true ∧
    (match State.checkLanes .store 4 (fun _ => 0x200) [0, 1] (gathering.issued [.x 1, .v 2, .p 3, .v 7]) with
      | (_, .ok ps, _) => decide (ps.map (fun q => (q.1, q.2.key)) = [(0, scratchKey 0 0x200), (1, scratchKey 0 0x200)])
      | _ => false) = true ∧
    (match State.checkLanes .load 4 (fun _ => 0x82) [0, 1] (gathering.issued [.x 6, .v 2, .p 3, .v 7]) with
      | (_, .error f, _) => decide (f.detail = 3) | _ => false) = true ∧ gathering.ctx.trappable :=
  ⟨ready_of_idle rfl rfl _, by decide, by decide, by decide, by decide, by decide⟩

/-- A store of two bytes, and a load of eight, outstanding and held by nothing. -/
def store2 : Acc :=
  { seq := 4, ctx := 0, key := scratchKey 0 0x300, len := 2, op := .store [1, 2], after := [], iaddr := 0xFC, caddr := 0x300, page := (0, 0), inst := 4,
    lane := 0, stream := none, acq := none, held := false, retry := none }

def load8 : Acc := { store2 with seq := 6, len := 8, op := .load (.scalar .z64) 5, inst := 6 }

def outstanding (a : Acc) : State := { base with accs := [a], seq := 9 }

theorem witness_AccessesArePerformedAtTheirHome :
    (∀ a ∈ [store2, load8], a ∈ (outstanding a).accs ∧ (∀ y ∈ (outstanding a).accs, y.seq = a.seq → y = a) ∧ (outstanding a).canPerform a = true ∧
      (outstanding a).answersRetry a = false ∧ (∀ y ∈ (outstanding a).accs, y.inst = a.inst → y = a) ∧
      (outstanding a).unhashed ∧ (outstanding a).badAt a.key a.len = none ∧ a.ctx = (outstanding a).cur ∧ a.seq < (outstanding a).seq) ∧
    (∀ a c, ((outstanding a).ctxAt c).badLanes = []) ∧ (∀ a, (outstanding a).core.snapshot = none) ∧ [1, 2].length = store2.len ∧
    (outstanding store2).accs = [store2] := by
  refine ⟨?_, fun a c => ?_, fun a => rfl, rfl, rfl⟩
  · decide
  · show (base.ctxAt c).badLanes = []
    revert c
    decide

theorem witness_LoadsBringTheBytesOfTheirAddress :
    base.ready [.x 1, .x 5, .x 7] ∧ base.localRun (base.address 1 5 0 none) 8 ∧ base.accs = [] ∧ base.ctx.writes = [] ∧ base.ctx.order = [] ∧
    base.ctx.taints = [] ∧ base.bad = [] ∧ base.clu.saving = [] ∧ (∀ q ∈ base.core.chans.toList, q.cmds = []) ∧
    (∀ n, (base.ctxAt n).badLanes = []) :=
  ⟨witness_base_ready _, ⟨by decide, by decide, by decide⟩, by decide, rfl, by decide, by decide, by decide, by decide, by decide, by decide⟩

/-- x8 = 0x1_0400_0000 with its leaf cached; TLBINV with and without map control; one outstanding, before and after it drops; region 3. -/
def probing : State :=
  { cached with ctxs := cached.ctxs.set 0 { ctx0 with x := ctx0.x.set 8 0x104000000 }, job := { cached.job with mapctl := true }, regions := [(3, 0x77)] }

def inv (d : Bool) : Tlbinv := { lo := 0x104000000, bytes := 64, scope := .clu, after := [], dropped := d, held := false, ready := 0 }

def invalidating (d : Bool) : State := { probing with ctxs := probing.ctxs.set 0 { ctx0 with tlbinvs := [inv d] } }

theorem witness_TranslationIsProbedWalkedAndInvalidated :
    base.ready [.x 1, .x 5, .x 7] ∧ (base.address 1 5 0 none).toNat < 0x80000 ∧ base.accs = [] ∧ regionOf (base.readX 1) ≠ .translated ∧
    probing.ready [.x 8, .x 7, .x 1] ∧ regionOf (probing.readX 8) = .translated ∧
    (tlbFind probing.micro (probing.readX 8).toNat).any (fun x => !probing.targetAbsent x.leaf) = true ∧
    probing.job.mapctl = true ∧ probing.ctx.tlbinvs.length < 4 ∧ base.job.mapctl = false ∧ base.ctx.trappable ∧
    (∀ d, ((invalidating d).ctxAt 0).tlbinvs = [inv d] ∧ (invalidating d).invWaits (inv d) = false) ∧
    base.ctx.tlbinvs = [] ∧ (invalidating true).ctx.tlbinvs ≠ [] ∧ (invalidating true).ctx.wait = none ∧
    (probing.readX 2).toNat ≤ 255 ∧ probing.readX 5 = 0 ∧ probing.readX 2 ≠ 0 ∧ probing.region (probing.readX 2).toNat = some 0x77 ∧
    probing.region (probing.readX 4).toNat = none ∧ paged.job.running = true ∧ (paged.ctxAt 0).live = true := by
  refine ⟨witness_base_ready _, by decide, by decide, by decide, ready_of_idle rfl rfl _, by decide, by decide, by decide, by decide, by decide,
    ⟨by decide, by decide⟩, ?_⟩
  decide

/-! ## Witnesses: landing-set, transfer and synchronisation statements -/

/-- Context 0 with slot 2 in a state, of a width, ranked. -/
def slotted (st : SlotState) (w : TagWidth) (rank : Nat) (c : Ctx) : Ctx :=
  { c.setSlot 2 { Slot.free with state := st, width := w, addr := 0x200, rank, cause := if st = .faulted then 4 else 0 } with landed := if st = .free ∨ st = .pending then [] else [2] }

def withSlot (st : SlotState) : State := on (slotted st (.scalar .z32) 0 ctx0)

/-- The tagged read of slot 2 outstanding; its line good and bad; a marker on its way. -/
def tagRead : Acc := { store2 with seq := 4, key := scratchKey 0 0x200, len := 4, op := .tagged 2 }

def landing (bad : Bool) : State := { withSlot .pending with accs := [tagRead], bad := if bad then [(scratchKey 0 0x200 / 64, 2)] else [] }

def markedSlot : State := on { ctx0 with slots := ctx0.slots.set 2 { Slot.free with state := .pending, cause := 4 } }

def evicted : State := { base with job := { job with evicted := true } }

theorem witness_TaggedLoadsAreLaunchedAndLand :
    base.ready [.x 1, .x 5] ∧ (base.ctx.slot 2).state = .free ∧
    placed (base.check .load (base.address 1 5 0 none) 4 4 base.exchange) = some (scratchKey 0 0x200) ∧
    (failure (base.check .load (base.address 6 5 0 none) 4 4 base.exchange)).isSome = true ∧ base.ctx.trappable ∧
    (∀ st, (withSlot st).ready [.x 1, .x 5]) ∧ ((withSlot .landed).ctx.slot 2).state ≠ .free ∧ ((withSlot .faulted).ctx.slot 2).state = .faulted ∧
    placed ((withSlot .faulted).check .load 0x200 4 4 (withSlot .faulted).exchange) = some (scratchKey 0 0x200) ∧
    (failure ((withSlot .faulted).check .load 0x82 4 4 (withSlot .faulted).exchange)).isSome = true ∧
    base.claimed = false ∧ evicted.job.evicted = true := by
  refine ⟨witness_base_ready _, by decide, by decide, by decide, ⟨by decide, by decide⟩, fun st => ready_of_idle (by cases st <;> rfl) (by cases st <;> rfl) _, ?_⟩
  decide

theorem witness_slots_land (b : Bool) :
    tagRead ∈ (landing b).accs ∧ tagRead.ctx = 0 ∧ tagRead.op = .tagged 2 ∧ (∀ z ∈ (landing b).accs, z.ctx = 0 → z.op = .tagged 2 → z = tagRead) ∧
    (landing b).canPerform tagRead = true ∧ (landing b).answersRetry tagRead = false ∧ ((landing b).ctxAt 0).badLanes = [] ∧
    ((landing b).badAt tagRead.key tagRead.len).isSome = b ∧
    (∀ y ∈ markedSlot.accs, y.ctx = 0 → y.op ≠ .tagged 2) ∧ ((markedSlot.ctxAt 0).slot 2).state = .pending ∧ ((markedSlot.ctxAt 0).slot 2).cause ≠ 0 := by
  cases b <;> decide

/-- Slot 2 in issue order, in free order with and without a replay, and a replay that records another tag. -/
def taking (st : SlotState) (ordered : Bool) (rep : Option (List (BitVec 5))) : State :=
  on { slotted st (.scalar .z32) 0 ctx0 with lsord := ordered, replay := rep }

theorem witness_TakesReturnLandedValues :
    (∀ st o r, (taking st o r).ready [.x 7, .x 8]) ∧ (∀ st ∈ [SlotState.landed, .faulted, .pending], ((taking st true none).ctx.inClass false 2 = true ∧
      ((taking st true none).ctx.slot 2).state = st)) ∧
    (∀ y : Fin 32, y ≠ 2 → (taking .landed true none).ctx.inClass false (BitVec.ofFin y) = false) ∧
    (taking .landed false none).ctx.landed = [] ++ 2 :: [] ∧ (taking .landed false (some [2])).ctx.replay = some (2 :: []) ∧
    (taking .landed true none).ctx.trappable ∧ (taking .landed true none).claimed = false ∧
    (∀ g : Fin 32, base.ctx.inClass false (BitVec.ofFin g) = false ∧ (base.ctx.slot (BitVec.ofFin g)).state = .free) ∧
    ((taking .pending false none).ctx.inClass false 2 = true ∧ (taking .pending false none).ctx.replay = none ∧ (taking .pending false none).ctx.landed = []) ∧
    ((taking .landed false (some [9])).job.running = true ∧ (taking .landed false (some [9])).ctx.inClass false 9 = false) ∧
    ((taking .landed true none).ctx.slot 2).state ≠ .free := by
  refine ⟨fun st o r => ready_of_idle (by cases st <;> rfl) (by cases st <;> rfl) _, by decide, by decide, by decide, by decide, ⟨by decide, by decide⟩, ?_⟩
  decide

/-- Eight words as a command. -/
def cmdOf (ws : List Nat) : Vec := BitVec.ofNat 512 (natOfBytes (ws.flatMap fun w => bytesOfNat w 8))

/-- A copy of four words from 0x200 to 0x300, one whose reserved bit is set, a gather of four rows of eight bytes from a table of HBM to 0x300 by the
indices at 0x200, and a COMPACT of one row. -/
def copyCmd : Vec := cmdOf [0x0007000000300000, 0x200, 0x300, 4, 0, 0, 0, 0]
def badCmd : Vec := cmdOf [0x0007000000300001, 0x200, 0x300, 4, 0, 0, 0, 0]
def farCmd : Vec := cmdOf [0x0007000000300000, 0x200, 0x1080000, 4, 0, 0, 0, 0]
def gatherCmd : Vec := cmdOf [0x0008000000300000, 0x200, 0x104000000, 0x300, 4, 0, 0, 0]
def compactCmd : Vec := cmdOf [0x0009000000300000, 0x200, 0x300, 0x400, 1, 0, 0, 0]

/-- Context 0 with a command in v2, in superstep mode or not. -/
def pushing (v : Vec) (sup : Bool) : State :=
  { base with ctxs := base.ctxs.set 0 { ctx0 with v := ctx0.v.set 2 v }, job := { job with superstep := sup } }

def cmd (k : CmdKind) (v : Vec) : Cmd :=
  { seq := 5, kind := k, vec := v, ctx := 0, exchange := false, after := [], held := false, started := false, path := .none, status := 0, bytes := 0, wm := none,
    next := 0, head := 0, ptr := none, sum := 0, off := 0, copying := false, logged := none, used := [], pulled := [], stores := [], lazy := false,
    skipped := [], redo := none, newer := [], stopped := false, retry := none }

def queued (c : Cmd) : State := { base with core := { Core.reset with chans := Core.reset.chans.set 1 { cmds := [c], ready := [] } }, seq := 9 }

def full8 : State :=
  { pushing copyCmd false with core := { Core.reset with chans := Core.reset.chans.set 1 { cmds := List.replicate 8 (cmd .copy copyCmd), ready := [] } } }

theorem witness_CommandsArePushed :
    (∀ v p, (pushing v p).ready [.v 2]) ∧ (pushing copyCmd false).badCopy copyCmd = false ∧ (pushing copyCmd false).badMark .copy copyCmd = false ∧
    (pushing copyCmd false).badGather gatherCmd = false ∧ (pushing copyCmd false).badCompact compactCmd = false ∧
    (pushing badCmd false).badCopy badCmd = true ∧ (pushing copyCmd true).refusedIn (cmdRuns .copy copyCmd false) = none ∧
    (pushing farCmd true).badCopy farCmd = false ∧ (pushing farCmd true).badMark .copy farCmd = false ∧
    ((pushing farCmd true).refusedIn (cmdRuns .copy farCmd false)).isSome = true ∧ (pushing copyCmd true).exchange = false ∧
    8 ≤ (full8.chan 1).cmds.length + (full8.chan 1).ready.length ∧ (pushing copyCmd true).ctx.inTrap = false ∧ (pushing copyCmd true).ctx.writes.length = 0 := by
  refine ⟨fun v p => ready_of_idle rfl rfl _, ?_⟩
  decide +kernel

/-- Engine checks of the two addresses of element 0. -/
theorem witness_CommandsStartMoveAndComplete :
    ((queued (cmd .copy copyCmd)).mayStart (cmd .copy copyCmd) = true ∧ (queued (cmd .copy copyCmd)).gatesOf 1 = [] ∧
      (cmd .copy copyCmd).posts = false ∧ 0 < (cmd .copy copyCmd).units ∧ ((queued (cmd .copy copyCmd)).chan 1).cmds.length = 1) ∧
    ({ queued (cmd .copy copyCmd) with job := { job with evicted := true } } : State).mayStart (cmd .copy copyCmd) = false ∧
    (cmdPrune copyCmd = false ∧ cmdInside copyCmd 0 = true ∧ (queued (cmd .copy copyCmd)).bad = [] ∧ (queued (cmd .copy copyCmd)).unhashed ∧
      (match ((queued (cmd .copy copyCmd)).engineCheck .engineRead (cmdSrc copyCmd 0) 8 false).2 with | .ok p => some p.key | .error _ => none) = some (scratchKey 0 0x200) ∧
      (match ((queued (cmd .copy copyCmd)).engineCheck .engineWrite (cmdDst copyCmd 0) 8 false).2 with | .ok p => some p.key | .error _ => none) = some (scratchKey 0 0x300)) ∧
    (({ cmd .copy copyCmd with started := true, next := 4 } : Cmd).units ≤ 4 ∧ ({ cmd .copy copyCmd with path := FwPath.waiting } : Cmd).next < (cmd .copy copyCmd).units) := by
  decide +kernel

def popping (o : Option (BitVec 32 × Word)) : State :=
  { base with core := { Core.reset with chans := Core.reset.chans.set 1 { cmds := [], ready := [{ word := 6, overflow := o, wm := none, cmd := 4 }] } } }

def ranges (n : Nat) : State := { base with job := { job with space := { job.space with next := 10, left := n, grain := 4 } } }

theorem witness_ElementsArePopped :
    (∀ o, (popping o).ready [.x 7]) ∧ ((popping none).chan 1).ready.length = 1 ∧ (base.chan 1).ready = [] ∧ base.ctx.trappable ∧
    (∀ n, (ranges n).job.space.takes = [] ∧ (ranges n).job.space.pool = []) ∧ 0 < Nat.min (ranges 3).job.space.grain (ranges 3).job.space.left ∧
    Nat.min (ranges 0).job.space.grain (ranges 0).job.space.left = 0 := by
  refine ⟨fun o => ready_of_idle rfl rfl _, by decide, by decide, ⟨by decide, by decide⟩, fun n => ⟨rfl, rfl⟩, by decide, by decide⟩

/-- Three bytes from 0x200; a count above 2^32 − 1; a stream at 0x1080000; and an affine descriptor at 0x200 of one element at 0x300. -/
def affineAt : State := { base with mem := Memory.write [] (scratchKey 0 0x200) [0, 3, 0, 0, 0, 0, 0, 0, 1, 0, 1, 0, 1, 0, 1] }

def streamOf (a c : Nat) : Stream :=
  { bnd := true, wr := false, ty := .int .s8, base := BitVec.ofNat 64 a, c := #v[c, 1, 1, 1], st := Vector.replicate 3 0, remain := 0, fetched := [], held := false, ready := 0 }

def writer : Acc := { store2 with stream := some 1 }

theorem witness_StreamsAreBoundAndFreed :
    base.ready [.x 1, .x 2] ∧ (streamOf 0x200 3).total < 2 ^ 32 ∧ base.streamFault (streamOf 0x200 3) = none ∧ base.accs = [] ∧
    (outstanding writer).bindWaits 1 writer = true ∧ (base.streamFault (streamOf 0x80000 3)).isSome = true ∧ 2 ^ 32 ≤ (streamOf 0x200 (2 ^ 32)).total ∧
    base.ctx.trappable ∧ affineAt.ready [.x 1] ∧ affineAt.localRun (affineAt.readX 1) 32 ∧ affineAt.gated (scratchKey 0 0x200) 32 = false ∧
    fieldAt (Memory.read affineAt.mem (scratchKey 0 0x200) 32) 28 4 = 0 ∧
    (affineStream (Memory.read affineAt.mem (scratchKey 0 0x200) 32) (.int .s8) false).total = 1 ∧
    affineAt.streamFault (affineStream (Memory.read affineAt.mem (scratchKey 0 0x200) 32) (.int .s8) false) = none ∧
    (streaming.stream 1).bnd = true ∧ 0 ≤ (base.readX 2).toInt ∧ (base.readX 3).toInt < 0 ∧ (base.stream 1).bnd = false := by
  refine ⟨witness_base_ready _, by decide +kernel, by decide +kernel, by decide +kernel, by decide +kernel, by decide +kernel, by decide +kernel, ⟨by decide, by decide⟩,
    ready_of_idle rfl rfl _, ⟨by decide, by decide, by decide⟩, ?_⟩
  decide +kernel

/-- A read stream with 64 bytes left and nothing fetched. -/
def ahead : State :=
  { base with core := { Core.reset with streams := Core.reset.streams.set 1 { streamOf 0x200 64 with remain := 64 } } }

theorem witness_streams_fetch_ahead :
    (ahead.stream 1).bnd = true ∧ (ahead.stream 1).wr = false ∧ (ahead.stream 1).fetched = [] ∧ 512 / (ahead.stream 1).ty.width ≤ (ahead.stream 1).remain := by
  decide +kernel

/-- Group 3 reserved, with this core a member, at node phase 5; the group of the superstep domain. -/
def grouped (mem : Bool) (arrived : Nat) (sup : Bool) : State :=
  { base with
    job := { job with superstep := sup },
    bar := { Barriers.reset with groups := Barriers.reset.groups.set 3 { res := true, member := mem, base := 2, expected := 2, arrived, phase := 5, node := 5, reached := [], expects := 0 } } }

def inDomain : State := { grouped true 0 true with bar := { (grouped true 0 true).bar with domain := some 3 } }

theorem witness_BarrierGroupsCountPhases :
    (∀ m n p, (grouped m n p).ready [.x 4, .x 7]) ∧ ((grouped true 0 false).group 3).res = true ∧ (grouped true 0 false).bar.domain ≠ some 3 ∧
    (grouped true 0 false).job.superstep = false ∧ ((grouped true 0 false).group 3).member = true ∧
    (1 ≤ (base.readX 4).toNat ∧ (base.readX 4).toNat ≤ 65535) ∧ ¬ (1 ≤ (base.readX 5).toNat ∧ (base.readX 5).toNat ≤ 65535) ∧
    (1 ≤ (5 - (base.readX 4).setWidth 16 : BitVec 16).toNat ∧ (5 - (base.readX 4).setWidth 16 : BitVec 16).toNat ≤ 32768) ∧
    ¬ 1 ≤ (5 - (5 : BitVec 16)).toNat ∧ (base.group 3).res = false ∧ base.bar.domain ≠ some 3 ∧ inDomain.bar.domain = some 3 ∧
    (grouped true 0 true).job.superstep = true ∧ ((grouped false 0 false).group 3).member = false ∧
    0 + 1 < ((grouped true 0 false).group 3).expected ∧ ((grouped true 1 false).group 3).expected ≤ 1 + 1 ∧ base.ctx.trappable := by
  refine ⟨fun m n p => ready_of_idle rfl rfl _, by decide, by decide, by decide, by decide, by decide, by decide, by decide, by decide, by decide, by decide, by decide,
    by decide, by decide, by decide, by decide, ⟨by decide, by decide⟩⟩

/-- In the domain with the phase at 5: at a SYNC whose arrival is out, passed and not passed, with a word withheld, with and without a daybook. -/
def syncing (p : BitVec 16) (withheld : Bool) (sn : Option Snapshot) : State :=
  { inDomain with
    ctxs := inDomain.ctxs.set 0 { ctx0 with wait := some (ctx0.waiting .other 1 0 0) },
    bar := { inDomain.bar with synced := some p }, core := { Core.reset with withheld, snapshot := sn },
    job := { inDomain.job with dayEntries := 16 } }

def daybook : Snapshot :=
  { ctx := ctx0, streams := Core.reset.streams, tabs := Core.reset.tabs, mbox := Core.reset.mbox, chans := Core.reset.chans, mbq := [], spike := none,
    tables := [], matrix := Matrix.reset, full := [], filler := [], lines := [], rows := [], rerun := false }

theorem witness_SuperstepsFencesAndProbes :
    inDomain.ready [.x 7] ∧ (inDomain.bar.domain = some 3 ∧ inDomain.job.superstep = true ∧ inDomain.cur = 0 ∧ inDomain.anyHelperLive = false) ∧
    inDomain.bar.synced = none ∧ inDomain.syncWaits = false ∧ inDomain.core.sig = inDomain.core.partnerSig ∧
    ({ inDomain with accs := [store2] } : State).syncWaits = true ∧
    ((syncing 5 false none).ctx.wait.isSome = true ∧ ((syncing 5 false none).group 3).passed 5 = false ∧ ((syncing 4 false none).group 3).passed 4 = true) ∧
    (syncing 4 false none).core.withheld = false ∧ (syncing 4 true none).core.withheld = true ∧ (syncing 4 true none).exchange = false ∧
    (syncing 4 true (some daybook)).replayable.isSome = true ∧ (syncing 4 true none).replayable.isNone = true ∧ (syncing 4 true none).job.running = true ∧
    base.bar.domain = none ∧ base.ctx.trappable ∧ inDomain.claimed = false ∧ base.ready [] := by
  refine ⟨ready_of_idle rfl rfl _, by decide, by decide, by decide, by decide, by decide, by decide, by decide, by decide, by decide, by decide, by decide, by decide,
    by decide, ⟨by decide, by decide⟩, by decide, witness_base_ready _⟩

/-- Context 0 waits at PRECV of port 0 and at FTAKE; x2 = 3 names context 3, and x1 none. -/
def blocked (k : WaitKind) : State := on { ctx0 with wait := some (ctx0.waiting k 0 0x200 0) }

theorem witness_probes :
    (∀ k ∈ [WaitKind.psend, .precv, .ftake, .push], ((blocked k).blockedIn 0).isSome = true) ∧ base.blockedIn 0 = none ∧
    (blocked .ftake).identity 0 = (0 : BitVec 16).toNat ∧ (blocked .ftake).identity 0 ≠ (5 : BitVec 16).toNat ∧
    ((blocked .ftake).ctxAt 0).trappable ∧ base.readX 2 = BitVec.ofNat 64 (3 : Fin 11).val ∧ base.blockedIn 3 = none ∧ 11 ≤ (base.readX 1).toNat := by
  refine ⟨by decide, by decide, by decide, by decide, ⟨by decide, by decide⟩, by decide, by decide, by decide⟩

/-- A job on the whole cluster; x1 = 0x200 is a bad counter word; a term that holds on source 7, of each action. -/
def boarded : State := { base with job := { job with cores := (List.range 32).map (BitVec.ofNat 12) } }

def ringing (act : Nat) (helper : Bool) : State :=
  { boarded with
    ctxs := if helper then boarded.ctxs.set 1 { Ctx.reset with live := true } else boarded.ctxs,
    clu := { Cluster.reset with
      counters := Cluster.reset.counters.set 2 { src := 7, thresh := 1, count := 0, pulses := 1, ovf := false, cleared := false, was := none },
      terms := Cluster.reset.terms.set 4 { cfg := BitVec.ofNat 52 (4 + act * 2 ^ 32 + 2 ^ 42), armed := true, pend := false, cred := 0, start := 0x80 } } }

def counted : Vector BellCounter 16 := Cluster.reset.counters.set 2 { src := 7, thresh := 1, count := 1, pulses := 0, ovf := false, cleared := false, was := none }

theorem witness_TheBellboardCountsAndFires :
    boarded.ready [.x 1, .x 7] ∧ boarded.ownsBoard = true ∧ base.ownsBoard = false ∧ boarded.badTerm 0x100000001 = false ∧ badCounter 0x107 = false ∧
    boarded.badTerm (boarded.readX 5) = true ∧ badCounter (boarded.readX 5) = true ∧ base.ctx.trappable ∧
    (∀ act ∈ [1, 2, 3], ((ringing act false).clu.terms.get 4).holds counted = true ∧ natBits ((ringing act false).clu.terms.get 4).cfg.toNat 33 32 = act) ∧
    (∀ m : Fin 16, m ≠ 4 → ((ringing 1 false).clu.terms.get m).armed = false) ∧ (∀ m : Fin 16, (base.clu.terms.get m).holds base.clu.counters = false) ∧
    (natBits ((ringing 2 true).clu.terms.get 4).cfg.toNat 39 35 = (ringing 2 true).position ∧ natBits ((ringing 2 true).clu.terms.get 4).cfg.toNat 45 42 = 1) ∧
    ((ringing 2 true).ctxAt 1).live = true ∧ ((ringing 2 false).ctxAt 1).live = false := by
  refine ⟨ready_of_idle rfl rfl _, by decide, by decide, by decide, by decide, by decide, by decide, ⟨by decide, by decide⟩, ?_⟩
  decide

/-- A term holds a start for helper 1, which is not live. -/
theorem witness_held_helper_start :
    let s : State := { boarded with clu := { Cluster.reset with
      terms := Cluster.reset.terms.set 4 { cfg := BitVec.ofNat 52 (2 ^ 42), armed := false, pend := true, cred := 0, start := 0x80 } } }
    (s.clu.terms.get 4).pend = true ∧ natBits (s.clu.terms.get 4).cfg.toNat 45 42 = 1 ∧ (s.ctxAt 1).live = false := by decide

/-! ## Witnesses: atomic, matrix, loom and pigeonhole statements -/

/-- Where an atomic's check places it, and why it fails. -/
theorem witness_AtomicsReadModifyAndWrite :
    base.ready [.x 1, .x 2, .x 7] ∧ placed ((base.issued [.x 1, .x 2]).atomicCheck true .clu (base.readX 1) 8) = some (scratchKey 0 0x200) ∧
    (failure ((base.issued [.x 6, .x 2]).atomicCheck true .clu (base.readX 6) 8)).isSome = true ∧ base.ctx.trappable ∧
    base.localRun (base.readX 1) 8 ∧ base.ready [.x 1, .v 2, .v 3] ∧
    (match State.checkAtomics true .clu 8 (fun _ => 0x200) [0, 1] (base.issued [.x 1, .v 2, .v 3]) with
      | (_, .ok ps, _) => decide (ps.length = 2) | _ => false) = true :=
  ⟨witness_base_ready _, by decide, by decide, ⟨by decide, by decide⟩, ⟨by decide, by decide, by decide⟩, witness_base_ready _, by decide⟩

/-- An atomic of the address and one of the cluster unit, outstanding. -/
def atomic8 (half : Bool) : Acc := { store2 with len := 8, op := .atomic (.op .add .z64) 5 (some 3) half }

theorem witness_atomics_performed (half : Bool) :
    atomic8 half ∈ (outstanding (atomic8 half)).accs ∧ (∀ z ∈ (outstanding (atomic8 half)).accs, z.seq = (atomic8 half).seq → z = atomic8 half) ∧
    (outstanding (atomic8 half)).canPerform (atomic8 half) = true ∧ (outstanding (atomic8 half)).answersRetry (atomic8 half) = false ∧
    (outstanding (atomic8 half)).badAt (atomic8 half).key 8 = none ∧ (outstanding (atomic8 half)).unhashed := by
  cases half <;> decide

/-- The word at 0x200 empty and full, with another context's take deferred, and with a store of this context to it outstanding. -/
def wordy (f : Bool) : State := { base with full := if f then [(scratchKey 0 0x200, true)] else [] }

def deferredTake : State :=
  { base with
    ctxs := base.ctxs.set 1 { Ctx.reset with live := true, wait := some (Ctx.reset.waiting .ftake 0 0x200 0) },
    takers := [{ core := 0, ctx := 1, key := scratchKey 0 0x200 }] }

def storing : State := outstanding { store2 with key := scratchKey 0 0x200 }

def delivered : State := on { ctx0 with wait := some { ctx0.waiting .ftake 0 0x200 0 with delivered := some 6 } }

def presenting (f : Bool) : State := { wordy f with ctxs := (blocked .ftake).ctxs }

def finiting : Acc := { store2 with key := scratchKey 0 0x200, len := 8, op := .finit 6 true }

theorem witness_FullEmptyWordsAndDrapers :
    base.ready [.x 1, .x 2, .x 7] ∧ (match base.wordCheck (base.readX 1) with | .ok p => decide (p.key = scratchKey 0 0x200) | _ => false) = true ∧
    base.accs = [] ∧ base.isFull (scratchKey 0 0x200) = false ∧ (wordy true).isFull (scratchKey 0 0x200) = true ∧ base.ctx.trappable ∧
    deferredTake.takers.length = 1 ∧ (deferredTake.ctxAt 1).wait.isSome = true ∧ deferredTake.cur ≠ 1 ∧
    (∃ y ∈ storing.accs, (storing.issued [.x 1, .x 2]).wordWaits (scratchKey 0 0x200) (some .clu) y = true) ∧
    (delivered.ctx.wait.bind (·.delivered)) = some 6 ∧
    (∀ f, (presenting f).stalledTake 0 = true ∧ (presenting f).wordKey 0x200 = some (scratchKey 0 0x200) ∧ (presenting f).isFull (scratchKey 0 0x200) = f) ∧
    (finiting ∈ (outstanding finiting).accs ∧ (outstanding finiting).canPerform finiting = true ∧ (outstanding finiting).answersRetry finiting = false) := by
  refine ⟨witness_base_ready _, by decide, by decide, by decide, by decide, ⟨by decide, by decide⟩, ?_⟩
  decide

/-- Draper 3 is granted, with and without a swatch left; a request to it is out. -/
def draped (sup : Bool) : State :=
  { base with drapers := [(3, { base := 0x1000, limit := 0x3000, sz := 0, next := 0x1000 })], job := { job with superstep := sup } }

def request : Acc := { store2 with len := 0, op := .swatch 3 7 8 }

theorem witness_drapers :
    (∀ p, (draped p).ready [.x 2, .x 7, .p 0]) ∧ ((draped false).readX 2).toNat ≤ 127 ∧ ((draped false).draper 3).isSome = true ∧
    127 < ((draped false).readX 1).toNat ∧ base.draper 3 = none ∧ base.ctx.trappable ∧ (draped true).ctx.trappable ∧
    (let s := { draped false with accs := [request] }
     request ∈ s.accs ∧ s.canPerform request = true ∧ s.answersRetry request = false ∧ (7 : Nat) ≠ 8) :=
  ⟨fun p => ready_of_idle rfl rfl _, by decide, by decide, by decide, by decide, ⟨by decide, by decide⟩, ⟨by decide, by decide⟩, by decide⟩

/-- A spike descriptor at 0x200: a ring of 4 KiB at 0x4000, and one batch of spill area at 0x1_0400_0000, whose page is cached with RD and WR. -/
def writable : State := { base with micro := [{ va := 0x104000000, level := 2, leaf := 0x0003000400000063 }] }

def spiky : State :=
  { writable with
    job := { job with claims := [{ kind := .spike, off := 0x4000, bytes := 0x2000 }] },
    mem := Memory.write [] (scratchKey 0 0x200) ([0x4000, 0x1000, 0x104000000, 0x800].flatMap fun w => bytesOfNat w 8) }

def spikeOf (es st : List Word) (bat : Nat) : Spike :=
  { ring := 0x4000, rsize := 0x1000, spill := 0x104000000, ssize := 0x800, entries := es, staging := st, head := 0, batches := bat }

def spiked (es st : List Word) (bat : Nat) (sup : Bool) : State :=
  { writable with core := { Core.reset with spike := some (spikeOf es st bat) }, job := { job with superstep := sup } }

def ringful : List Word := List.replicate 512 7

theorem witness_SpikesKeepTheirEntriesInOrder :
    spiky.ready [.x 1] ∧ spiky.localRun (spiky.readX 1) 32 ∧ spiky.accs = [] ∧ spiky.gated (scratchKey 0 0x200) 32 = false ∧ spiky.core.spike = none ∧
    (let field (n : Nat) := natOfBytes (((Memory.read spiky.mem (scratchKey 0 0x200) 32).drop (8 * n)).take 8)
     field 1 = 2 ^ 12 ∧ field 0 % field 1 = 0 ∧ field 2 % 2048 = 0 ∧ field 3 < 2 ^ 32 ∧ field 3 % 2048 = 0 ∧ regionOf (BitVec.ofNat 64 (field 2)) = .translated ∧
       (∃ c ∈ spiky.job.claims, c.kind = .spike ∧ c.off ≤ field 0 ∧ field 0 + field 1 + 2048 ≤ c.off + c.bytes)) ∧
    base.core.spike = none ∧ base.ctx.trappable ∧ (∀ e t n p, (spiked e t n p).ready [.x 1, .v 7]) ∧ (spiked [1] [] 0 false).core.spike.isSome = true := by
  refine ⟨ready_of_idle rfl rfl _, ⟨by decide, by decide, by decide⟩, by decide, by decide, by decide, by decide +kernel, by decide, ⟨by decide, by decide⟩,
    fun e t n p => ready_of_idle rfl rfl _, by decide⟩

/-- A ring with room, and one that is full, with a batch free and with none; eight staged, and a batch to read back. -/
theorem witness_spike_batches :
    ([1] : List Word).length < 0x1000 / 8 ∧ 0x1000 / 8 ≤ ringful.length ∧ 0x800 / 2048 ≤ 1 ∧ 0 < 0x800 / 2048 ∧
    placed (((spiked ringful [] 0 false).issued [.x 1]).check .store 0x104000000 2048 8 false) = some (hbmKey 0x400000000) ∧
    placed (((spiked [] [] 1 false).issued []).check .load 0x104000000 2048 8 false) = some (hbmKey 0x400000000) ∧
    (spiked ringful [] 0 true).job.superstep = true ∧ (spiked [] [] 1 true).ctx.inTrap = false := by
  exact ⟨by decide, by decide +kernel, by decide, by decide, by decide +kernel, by decide +kernel, by decide, by decide⟩

/-- A matrix unit with weight and a format of bf16 in force; with the live plane too; and its queue full. -/
def fBf16 : Fmt := { fa := .lane (.float .bf16), fb := .lane (.float .bf16), sma := false, smb := false }

def matrixed (q : List MCmd) : State :=
  { base with core := { Core.reset with matrix := { Matrix.reset with
      weight := 1, fmt := some fBf16, fmtIssued := some fBf16, liveIssued := some (.lane (.float .bf16)), ownIssue := true, queue := q } } }

def mcmd (k : MKind) (desc : Word) : MCmd :=
  { kind := k, ctx := 0, desc, a := 0x200, b := 0x8200, steps := 0, finished := false, iaddr := 0x100, result := none, after := [], held := false, mism := [] }

/-- x5 = 0 is a format word, a descriptor of one row and no address that fails; x3 = −1 is none of them; 0x600 of x1 is no row of this core; x6 is misaligned. -/
theorem witness_MatrixCommandsAreCheckedAndQueued :
    (∀ q, (matrixed q).ready [.x 7, .x 1, .x 5]) ∧ base.core.matrix.weight = 0 ∧ (matrixed []).core.matrix.weight ≠ 0 ∧ base.ctx.trappable ∧
    fmtOfWord (base.readX 5) ≠ none ∧ (fmtOfWord (base.readX 3)).isNone = true ∧ (matrixed []).rowsOutside (descRow0 (base.readX 5)) 64 = none ∧
    ((matrixed []).rowsOutside (descRow0 (base.readX 1)) 64).isSome = true ∧ (base.readX 6).toNat % 64 ≠ 0 ∧ (base.readX 1).toNat % 64 = 0 ∧
    (matrixed []).ownSpan (base.readX 1).toNat 8192 = none ∧ ((matrixed []).ownSpan 0x80000 8192).isSome = true ∧
    16 ≤ (matrixed (List.replicate 16 (mcmd .mdrain 0))).core.matrix.queue.length ∧ ¬ 16 ≤ (matrixed []).core.matrix.queue.length ∧
    base.core.matrix.fmtIssued = none ∧ (matrixed []).core.matrix.fmtIssued = some fBf16 ∧ base.core.matrix.liveIssued = none ∧
    (matrixed []).core.matrix.pending 0 ≤ 0 ∧ 0 < (matrixed [mcmd .mdrain 0]).core.matrix.pending 0 ∧ (matrixed []).core.matrix.keptIssued = none := by
  refine ⟨fun q => ready_of_idle rfl rfl _, by decide, by decide, ⟨by decide, by decide⟩, ?_⟩
  decide

/-- A one-tile MMUL, a MLOADS with and without the pair, an MSWAP, and a finished command at the head. -/
theorem witness_MatrixCommandsArePerformed :
    (∀ k, (matrixed [mcmd k 0]).core.matrix.queue = mcmd k 0 :: []) ∧ (matrixed [mcmd .mloads 0]).job.evicted = false ∧
    (∀ k ∈ [MKind.mmul false, .mstream, .acrd, .acwr, .mzeroAcc], k.stepless = false ∧ k ≠ .mswap ∧ k ≠ .mloads) ∧
    MKind.mloads.stepless = false ∧ (matrixed [mcmd .mloads 0]).core.matrix.own = false ∧ (matrixed [mcmd .mloads 0]).accs = [] ∧
    (matrixed [mcmd .acwr 0]).gated ((matrixed []).ownKey 0x200) 256 = false ∧ descRows 0 = 1 ∧ descTiles 0 = 1 ∧ (0 : Word).getLsbD 32 = false ∧
    (0x100000000 : Word).getLsbD 32 = true ∧ (matrixed []).core.matrix.upsets = [] ∧ (matrixed []).core.matrix.kept = none ∧
    (matrixed []).unhashed ∧ (matrixed []).bad = [] ∧ ({ mcmd .mchkInj 0 with after := [4] } : MCmd).after = [store2.seq] ∧
    (MKind.mctx 0).stepless = true ∧ (MKind.mflag true).stepless = true := by
  refine ⟨fun k => rfl, ?_⟩
  decide

/-- Core 0 alone in a loom of 8 with its area claimed and context 0 of the others waiting; and in it, idle, with a draft of one entry. -/
def eight : List (BitVec 12) := (List.range 8).map (BitVec.ofNat 12)

def joining (sup : Bool) (cores : List (BitVec 12)) (claims : List Claim) (waits : List Peer) : State :=
  { base with
    ctxs := base.ctxs.set 0 { ctx0 with x := ctx0.x.set 9 0x10000 },
    job := { job with superstep := sup, cores, claims }, clu := { Cluster.reset with loomWait := waits } }

def loomClaim : List Claim := [{ kind := .loom, off := 0x10000, bytes := 65536 }]

def sevenWait (n : Nat) : List Peer := (List.range 7).map fun i => { pos := i + 1, n, since := 0 }

def entry (fired : Bool) : DraftEntry := { warp := 1, weft := 2, trow := 0, tcol := 0, ctx := 0, valid := true, zero := false, fired, mismatched := false }

def tile (id : BitVec 16) (src : Word) : Tile := { id, kidx := 0, fmt := .lane (.float .bf16), sc := false, budget := 0, src, data := [] }

def woven (f : Loom → Loom) : State :=
  { joining false eight loomClaim [] with core := { Core.reset with
      matrix := { Matrix.reset with weight := 1 },
      loom := f { Loom.reset with size := 1, area := 0x10000, draft := some { fmts := List.replicate 4 fBf16, entries := [entry false] } } } }

def running (l : Loom) : Loom :=
  { l with running := true, armed := true, curWarp := some (tile 1 0), curWeft := some (tile 2 0), injWarp := some (tile 1 0), injWeft := some (tile 2 0) }

theorem witness_LoomsJoinAndLeave :
    (∀ a b c d, (joining a b c d).ready [.x 9]) ∧ asHelper.cur ≠ 0 ∧ base.cur = 0 ∧ base.core.loom.size = 0 ∧ base.job.redun = false ∧
    (joining true eight loomClaim []).job.superstep = true ∧
    (∃ p ∈ rangeOthers base.position 8, base.clusterCore p ∉ base.job.cores) ∧
    (∀ p ∈ rangeOthers base.position 8, base.clusterCore p ∈ eight) ∧ ((joining false eight [] []).readX 9).toNat = 0x10000 ∧
    rangeClashes [] (sevenWait 16) [] 0 8 0 = true ∧ rangeClashes [] (sevenWait 8) [] 0 8 0 = false ∧ rangeClashes [rangeOf 0 8] [] [] 0 8 0 = true ∧
    peersWait (sevenWait 8) (rangeOthers 0 8) 8 0 = true ∧ peersWait [] (rangeOthers 0 8) 8 0 = false ∧ base.ctx.trappable ∧
    ((woven id).core.loom.size ≠ 0 ∧ (woven id).loomBroken = false ∧ (woven id).weaving = false) ∧ (woven running).weaving = true := by
  refine ⟨fun a b c d => ready_of_idle rfl rfl _, by decide, by decide, by decide, by decide, by decide, by decide, by decide, by decide, by decide, by decide,
    by decide, by decide, by decide, ⟨by decide, by decide⟩, by decide, by decide⟩

/-- A draft block of zeros names integer formats and no valid entry; a tile header at 0x200 with ID 1, in bf16; a block whose entry 0 is bad. -/
def headed (fam : Nat) : State :=
  { woven id with mem := Memory.write [] (scratchKey 0 0x200) (bytesOfNat (1 + fam * 2 ^ 32 + 10 * 2 ^ 48) 8) }

theorem witness_drafts_and_tiles :
    (woven id).ready [.x 1] ∧ ((woven id).core.loom.armed = false ∧ (woven id).core.loom.running = false) ∧ ((woven id).readX 1).toNat % 64 = 0 ∧
    (woven id).ownSpan ((woven id).readX 1).toNat 1056 = none ∧ (woven id).accs = [] ∧ (woven id).bad = [] ∧
    (draftFormats (List.replicate 1056 0)).isSome = true ∧ draftFormats (List.replicate 1056 255) = none ∧ badEntry (List.replicate 16 255) = true ∧
    badEntry (List.replicate 16 0) = false ∧ ((woven id).readX 6).toNat % 64 ≠ 0 ∧
    ((headed 0).tileHeader 0x200 false (Memory.read (headed 0).mem (scratchKey 0 0x200) 16)).isSome = true ∧
    ((headed 1).tileHeader 0x200 true (Memory.read (headed 1).mem (scratchKey 0 0x200) 16)).isSome = true ∧
    (headed 0).tileHeader 0x200 true (Memory.read (headed 0).mem (scratchKey 0 0x200) 16) = none ∧
    (woven id).core.loom.injWarp = none := by
  refine ⟨ready_of_idle rfl rfl _, ?_⟩
  decide +kernel

/-- LMGO with one expected entry, with a bad word and without weight; a weave armed everywhere, at its first pick, with a task latched, at its pass end, at its
end. -/
def armedAll : State :=
  { woven (fun l => { l with armed := true }) with clu := { Cluster.reset with loomArmed := (List.range 7).map fun i => { pos := i + 1, n := 8, since := 0 } } }

def atPassEnd (fired : Bool) (out : Nat) : State :=
  woven fun l => { running l with passEnd := true, out, draft := some { fmts := List.replicate 4 fBf16, entries := [entry fired] } }

theorem witness_LoomsWeaveTheirDrafts :
    (woven id).core.loom.badGo 1 = false ∧ (woven id).core.loom.badGo 0x300 = true ∧ (woven id).core.matrix.weight ≠ 0 ∧
    (∀ f ∈ (woven id).core.loom.formats, f = fBf16) ∧ base.core.loom.size = 0 ∧ armedAll.loomArmed = true ∧ (woven id).loomArmed = false ∧
    ((woven running).core.loom.running = true ∧ (woven running).core.loom.passEnd = false ∧ (woven running).core.loom.pick = 0 ∧
      (woven running).core.loom.last ≠ 0 ∧ (woven running).core.loom.curWarp = some (tile 1 0) ∧ (woven running).core.loom.curWeft = some (tile 2 0)) ∧
    fitsFormat fBf16 (tile 1 0) (tile 2 0) = true ∧ (woven running).core.matrix.queue.length + 1 ≤ 16 ∧
    ((atPassEnd false 0).core.loom.running = true ∧ (atPassEnd false 0).core.loom.passEnd = true ∧ (atPassEnd false 0).core.loom.rp = false) ∧
    (atPassEnd false 1).core.loom.out ≠ 0 ∧ (∀ e ∈ (atPassEnd true 0).core.loom.entries, e.valid = true → e.fired = true) ∧
    firstUnfired 0 (atPassEnd false 0).core.loom.entries = some (0, entry false) ∧
    (atPassEnd false 0).core.loom.entries.countP (fun q => q.valid && !q.fired) = 1 := by
  decide

/-- A task is latched while the command queue has room. -/
theorem witness_latched_task :
    let s := woven fun l => { running l with latched := [⟨0, 0, 0, fBf16, false, tile 1 0, tile 2 0⟩] }
    s.core.loom.latched = ⟨0, 0, 0, fBf16, false, tile 1 0, tile 2 0⟩ :: [] ∧ s.core.matrix.queue.length < 16 := by decide

/-- A table of 32 buckets at 0x2000 with no spill; keys x2 = 3 and x4 = 4 in empty buckets, and 3 in a bucket that holds it with value 9; x3 is reserved. -/
def table32 : PhTable := { base := 0x2000, b := 5, c := 0, spill := 0x104000000 }

def tables : State :=
  { writable with ctxs := writable.ctxs.set 0 { ctx0 with x := ctx0.x.set 9 0x2000 }, core := { Core.reset with tables := [table32] } }

def holding : State :=
  { tables with mem := Memory.write [] (scratchKey 0 (0x2000 + 128 * table32.home 3)) (Bucket.bytes { items := [(3, 9)], spilled := 0 } false) }

theorem witness_PigeonholesKeepOneValueForAKey :
    tables.ready [.x 9, .x 2, .x 7, .p 0] ∧ tables.core.tables.find? (fun t => decide (t.base = (tables.readX 9).toNat)) = some table32 ∧
    (tables.readX 9).toNat < 0x80000 ∧ tables.accs = [] ∧ tables.unhashed ∧ tables.readX 2 ≠ BitVec.allOnes 64 ∧ tables.readX 3 = BitVec.allOnes 64 ∧
    needsSpill (bucketOf (Memory.read tables.mem (scratchKey 0 (0x2000 + 128 * table32.home 3)) 128)) 3 (.ins 5) = false ∧
    needsSpill (bucketOf (Memory.read holding.mem (scratchKey 0 (0x2000 + 128 * table32.home 3)) 128)) 3 .del = false ∧
    findKey (bucketOf (Memory.read holding.mem (scratchKey 0 (0x2000 + 128 * table32.home 3)) 128)).items 3 = some 9 ∧
    findKey (bucketOf (Memory.read tables.mem (scratchKey 0 (0x2000 + 128 * table32.home 3)) 128)).items 3 = none ∧
    tables.core.tables.find? (fun t => decide (t.base = (tables.readX 1).toNat)) = none ∧ tables.ctx.trappable := by
  refine ⟨ready_of_idle rfl rfl _, ?_⟩
  unfold Ctx.trappable
  decide +kernel

theorem witness_vector_updates :
    tables.ready [.x 9, .v 2, .v 3, .p 0] ∧ (∀ i < 8, BitVec.ofNat 64 (lane (tables.readV 2) 64 i) ≠ BitVec.allOnes 64) ∧
    (match (State.phRun { owner := 0, table := table32 } (phUpdates table32 (fun _ => 0) fun _ => .ins 1) [] tables).2.1 with
      | .ok rs => decide (rs = [(0, none)]) | _ => false) = true := by
  refine ⟨ready_of_idle rfl rfl _, ?_⟩
  decide +kernel

/-- A descriptor of that table at 0x200, in a job that claims it. -/
def claiming : State :=
  { writable with
    job := { job with claims := [{ kind := .pigeonhole, off := 0x2000, bytes := 0x1000 }] },
    mem := Memory.write [] (scratchKey 0 0x200) ([0x2000, 5, 0x104000000, 0].flatMap fun w => bytesOfNat w 8) }

/-- A check passes and leaves the state as it was. -/
def passesAt (s : State) (acc : Access) (v : Word) (n : Nat) : Option Nat :=
  match s.check acc v n n s.exchange with
  | (t, .ok q, _) => if t = s then some q.key else none
  | _ => none

theorem witness_claiming_a_table :
    claiming.ready [.x 1] ∧ claiming.localRun (claiming.readX 1) 32 ∧ claiming.accs = [] ∧ claiming.gated (scratchKey 0 0x200) 32 = false ∧
    (let bs := Memory.read claiming.mem (scratchKey 0 0x200) 32
     fieldAt bs 0 8 = 0x2000 ∧ fieldAt bs 8 8 = 5 ∧ fieldAt bs 16 8 = 0x104000000 ∧ fieldAt bs 24 8 = 0 ∧ regionOf 0x104000000 = .translated ∧
       (0x104000000 : Word).toNat % 128 = 0) ∧
    (∃ k ∈ claiming.job.claims, k.kind = .pigeonhole ∧ k.off = 0x2000 ∧ k.bytes = 128 * 2 ^ 5) ∧ claiming.core.tables = [] ∧ claiming.computePhase = false ∧
    (∀ k, (claiming.core.counters.get k).en = false) ∧ claiming.ctx.trappable := by
  refine ⟨ready_of_idle rfl rfl _, ⟨by decide, by decide, by decide⟩, by decide, by decide, ?_⟩
  unfold Ctx.trappable
  decide +kernel

theorem witness_spill_bytes_pass :
    ∀ w : Bool, ∀ j : Fin 128, (passesAt (claiming.issued [.x 1]) (.spill w) (0x104000000 + BitVec.ofNat 64 j.val) 1).isSome = true := by
  decide +kernel

theorem witness_spill_bucket_passes :
    (passesAt (claiming.issued [.x 1]) (.spill true) (table32.spillAddr 0) 128).any (fun k => decide (k + 128 ≤ Config.scratchBase)) = true := by
  decide +kernel

/-- SPKINS of an absent and of a present key, with a spike and without. -/
def spikeAndTable : State := { tables with core := { tables.core with spike := (spiked [] [] 0 false).core.spike } }

theorem witness_spkins :
    spikeAndTable.core.spike.isSome = true ∧ tables.core.spike = none ∧
    (bucketOf (Memory.read spikeAndTable.mem (scratchKey 0 (0x2000 + 128 * table32.home 3)) 128)).spilled = 0 ∧
    (bucketOf (Memory.read spikeAndTable.mem (scratchKey 0 (0x2000 + 128 * table32.home 3)) 128)).items.length < 7 ∧
    (∀ j < 2 ^ table32.b, (bucketOf (Memory.read tables.mem (scratchKey 0 (table32.base + 128 * j)) 128)).spilled = 0) ∧
    (tables.readX 5).toNat % 16 = 0 ∧ tables.job.claims = [] := by
  decide +kernel

/-! ## Witnesses: network, launch, host and device statements -/

/-- Port 0 in a state with words, and the context's send binding. -/
def porting (st : PortState) (rc : Fin 11) (buf : List (Option Word)) (b : SendBinding) (sup : Bool) : State :=
  { base with
    ctxs := base.ctxs.set 0 { ctx0 with send := b, x := ctx0.x.set 9 1 },
    core := { Core.reset with ports := Core.reset.ports.set 0 { Port.closed with state := st, rctx := rc, buf, rsrc := 3, given := 5 } },
    job := { job with superstep := sup } }

def bound (sst : BitVec 2) (core : BitVec 12) (words allow : Nat) : SendBinding := { sst, core, port := 0, words, allow }

def unbound : SendBinding := bound 0 0 0 0

theorem witness_PortsCarryPackets :
    (∀ st r b s p, (porting st r b s p).ready [.x 9, .x 5, .v 1, .p 0]) ∧ (porting .opened 0 [] unbound true).job.superstep = true ∧
    (porting .opened 0 [] unbound false).readX 9 = 1 ∧ (porting .opened 0 [] unbound false).readX 5 = 0 ∧ (porting .opened 0 [] unbound false).readX 2 = 3 ∧
    ((porting .closed 0 [] unbound false).port 0).state = .closed ∧ ((porting .opened 0 [] unbound false).port 0).rctx = 0 ∧
    ((porting .opened 1 [] unbound false).port 0).rctx ≠ (porting .opened 1 [] unbound false).cur ∧ ((porting .opened 0 [] unbound false).port 0).waiting = 0 ∧
    0 < ((porting .opened 0 [some 6] unbound false).port 0).waiting ∧ base.readX 3 &&& ~~~0x30FFF#64 ≠ 0 ∧ base.readX 5 &&& ~~~0x30FFF#64 = 0 ∧
    ((base.readX 5).setWidth 12).toNat < 3072 ∧ (base.readX 5).setWidth 12 ∈ base.job.cores ∧ (base.readX 2).setWidth 12 ∉ base.job.cores ∧ base.ctx.trappable :=
  ⟨fun st r b s p => ready_of_idle rfl rfl _, by decide, by decide, by decide, by decide, by decide, by decide, by decide, by decide, by decide, by decide, by decide, by decide,
    by decide, by decide, ⟨by decide, by decide⟩⟩

/-- A binding in each SST; packets of the greatest length; a send to the own core and to another; a receive with words, at an abort, and with none. -/
theorem witness_sends_and_receives :
    (bound 1 0 0 0).sst = 1 ∧ 256 < (bound 2 0 256 0).words + 1 ∧ (bound 2 0 255 0).words + 1 = 256 ∧ (bound 2 0 0 0).words + 1 < 256 ∧ 0 < (bound 3 0 4 0).words ∧
    ((porting .opened 0 [] (bound 1 0 0 0) false).port 0).requests = [] ∧ (porting .opened 0 [] (bound 1 0 0 0) false).accs = [] ∧
    (porting .opened 0 [] (bound 1 0 0 0) false).ctx.order = [] ∧ ((porting .route 0 [] (bound 1 0 0 0) false).port 0).state ≠ .opened ∧
    (bound 1 7 0 2).core ≠ 0 ∧ 1 ≤ (bound 1 7 0 2).allow ∧ (bound 1 7 0 0).allow = 0 ∧
    (takeWords false 1 [some 6, none]).1 ≠ [] ∧ (takeWords false 1 []).1 = [] ∧ ((porting .aborted 0 [] unbound false).port 0).state = .aborted ∧
    ((porting .route 0 [] unbound false).port 0).rsrc = 3 ∧ 0 < ((porting .route 0 [] unbound false).port 0).given ∧
    ((porting .route 0 [] unbound false).port 0).ending = false ∧ (3 : BitVec 12) ≠ 4 ∧ ((porting .route 0 [] (bound 1 7 0 0) false).ctxAt 0).send.sst ≠ 0 := by
  decide

/-- A multicast of one line to cores 1 and 2 at offset 0x300, and one with a reserved bit; one outstanding with two targets; a timed send of slot 5 at exchange
counter 0; and two inputs of a router. -/
def mcastCmd : Vec := cmdOf [0x0007000001000000, 0x300, 0x20001, 0, 0, 0, 0, 0]

def mcast0 : Mcast :=
  { seq := 5, ctx := 0, id := 7, group := none, src := scratchKey 0 0x200, lines := 1, doff := 0x300, targets := [1, 2], index := 0, data := none, stored := 0,
    refused := 0, result := none, after := [], held := false, holds := none, resets := [] }

def mcasting (v : Vec) (n : Nat) (claims : List Claim) : State :=
  { base with
    ctxs := base.ctxs.set 0 { ctx0 with v := ctx0.v.set 2 v }, job := { job with cores := [0, 1, 2], claims },
    core := { Core.reset with mcasts := List.replicate n mcast0 } }

theorem witness_MulticastsTimedSendsAndArbitration :
    (∀ v n c, (mcasting v n c).ready [.x 1, .v 2, .x 7]) ∧ badMcast mcastCmd = false ∧ ascending (mcastTargets mcastCmd) = true ∧
    (0 : BitVec 12) ∉ mcastTargets mcastCmd ∧ (∀ c ∈ mcastTargets mcastCmd, c ∈ (mcasting mcastCmd 0 []).job.cores) ∧ ¬ 0x80000 < 0x300 + 64 * 1 ∧
    (lane mcastCmd 64 0).testBit 31 = false ∧ badMcast (cmdOf [1, 0x300, 0x20001]) = true ∧ base.ctx.trappable ∧ (base.readX 6).toNat % 64 ≠ 0 ∧
    (base.readX 1).toNat % 64 = 0 ∧ base.ownSpan (base.readX 1).toNat 64 = none ∧ (base.ownSpan 0x80000 64).isSome = true ∧
    2 ≤ (mcasting mcastCmd 2 []).core.mcasts.countP (fun m => m.ctx = (mcasting mcastCmd 2 []).cur) ∧
    (mcasting mcastCmd 1 []).core.mcasts.length = 1 ∧ (mcasting mcastCmd 1 []).bad = [] ∧ (mcasting mcastCmd 1 []).job.redun = false ∧
    (∃ k ∈ (mcasting mcastCmd 1 [{ kind := .spike, off := 0x300, bytes := 0x40 }]).job.claims, overlaps 0x300 (64 * 1) k.off k.bytes = true) := by
  refine ⟨fun v n c => ready_of_idle rfl rfl _, by decide +kernel, by decide +kernel, by decide +kernel, by decide +kernel, by decide, by decide +kernel, by decide +kernel,
    ⟨by decide, by decide⟩, ?_⟩
  decide +kernel

def sending (dest : Word) (cyc : Nat) (ex : Bool) : State :=
  { base with
    ctxs := base.ctxs.set 0 { ctx0 with x := ctx0.x.set 9 dest }, cycle := cyc, bar := { Barriers.reset with sstep := if ex then 0x8000000000000000 else 0 },
    job := { job with superstep := true, xsched := [{ slot := 5, t := 0, dest := 0x8000100000000300 }] } }

theorem witness_timed_sends :
    (∀ d n e, (sending d n e).ready [.v 1, .x 9]) ∧ base.job.superstep = false ∧ (sending 0 0 false).exchange = false ∧ (sending 0 0 true).exchange = true ∧
    (∀ e ∈ (sending 0 0 true).job.xsched, e.slot ≠ 6) ∧ ((sending 0 0 true).job.xsched.find? (fun e => decide (e.slot = 5))).isSome = true ∧
    (sending 0 2 true).xc ≠ 0 ∧ (sending 0 0 true).xc = 0 ∧ (sending 0 0 true).readX 9 ≠ 0x8000100000000300 ∧
    (sending 0x8000100000000300 0 true).readX 9 = 0x8000100000000300 ∧ (sending 0 0 true).ctx.trappable ∧
    (let reqs : List RouterReq := [{ node := 0, output := 2, input := 1, cls := 3 }, { node := 0, output := 2, input := 4, cls := 8 }]
     (∀ r ∈ reqs, r.input.toNat < 5 ∧ r.cls ≠ timedClass) ∧ (reqs.map reqBuffer).Nodup ∧ ∀ r ∈ reqs, reqOut r = 2) :=
  ⟨fun d n e => ready_of_idle rfl rfl _, by decide, by decide, by decide, by decide, by decide, by decide, by decide, by decide, by decide, ⟨by decide, by decide⟩, by decide⟩

/-- Queue 0 holds one packet, for one core, with its block at 0x50000; its first two dwords and its dependences as given. -/
def dispatching (d0 code deps : Nat) (ev : List (Nat × EventState)) : State :=
  { State.reset with
    dev := { Device.reset with
      queues := [(0, { Queue.reset with base := 0x40000, tail := 1, accepted := 1, en := true })], elbase := 0x60000, events := ev },
    mem := Memory.write (Memory.write [] (hbmKey 0x40000) ([d0, code, 0, 0x1000, 0x50000, deps, 0x40, 0].flatMap fun w => bytesOfNat w 8)) (hbmKey 0x500F8) (bytesOfNat 0x100000 8) }

/-- EVT 9, COUNT 1, PRIO 2. -/
def word0 : Nat := 9 * 2 ^ 48 + 2 ^ 36 + 2 * 2 ^ 29

def startable : State := dispatching word0 0x100 0 []

def busy (p : BitVec 5) : State := { startable with job := { job with prio := p } }

def goodPacket (s : State) : Bool :=
  let p := s.packetAt 0 0
  let bs := s.blockOf p
  decide (s.refusal p false = none) && decide ((0, (0 : BitVec 32)) ∉ s.dev.clashes) && s.placementOk 0 p [0] && !scheduleConflict [0] (s.scheduleEntries bs) && !s.writableCode p 0 bs
    && !s.resourcesBusy p bs && !s.unreadable p 0 0 0 bs

theorem witness_JobsAreRefusedCancelledPlacedAndLaunched :
    (startable.dev.power = .d0 ∧ startable.dev.elbase ≠ 0 ∧ (startable.dev.queue 0).en = true ∧ (startable.dev.queue 0).td = false ∧
      (startable.dev.queue 0).head ≠ (startable.dev.queue 0).accepted ∧ startable.evicted = []) ∧ goodPacket startable = true ∧ startable.core.num ∈ ([0] : List (BitVec 12)) ∧
    startable.core.num ∉ ([1] : List (BitVec 12)) ∧ startable.placementOk 0 (startable.packetAt 0 0) [1] = true ∧
    (dispatching (word0 + 1) 0x100 0 []).refusal ((dispatching (word0 + 1) 0x100 0 []).packetAt 0 0) false = some 1 ∧
    (dispatching (word0 + 2 ^ 37) 0x100 0 []).refusal ((dispatching (word0 + 2 ^ 37) 0x100 0 []).packetAt 0 0) false = some 2 ∧
    (∀ e ∈ [EventState.failed, .pending], Sparse.get EventState.done (dispatching word0 0x100 4 [(4, e)]).dev.events 4 = e ∧
      natBits ((dispatching word0 0x100 4 [(4, e)]).packetAt 0 0).deps 15 0 = 4) ∧
    ((busy 1).job.running = true ∧ (∃ c ∈ ([0] : List (BitVec 12)), c ∈ (busy 1).job.cores) ∧ (busy 1).job.prio.toNat < ((busy 1).packetAt 0 0).prio ∧
      ((busy 2).packetAt 0 0).prio ≤ (busy 2).job.prio.toNat ∧ (busy 1).job.ended = false ∧ (busy 1).job.evicted = false) := by
  decide +kernel

/-- A job chosen for eviction and quiet, with a tagged load on its way, and saved; two remote stores, one answered by RETRY. -/
def leaving (a : List Acc) : State := { base with job := { job with evicted := true }, accs := a }

def saved : Saved :=
  { ctxs := base.ctxs, core := Core.reset, job := job, bar := Barriers.reset, clu := Cluster.reset, scratch := [], full := [], filler := [], regions := [], revmap := [], drapers := [],
    accs := [], agenda := [], owned := false, since := 0 }

def restoring : State := { State.reset with evicted := [saved] }

def retried : Acc := { store2 with retry := some 0 }

/-- Core 0 of die 0 and core 768 of die 1; an index space. -/
def acrossDies (num : BitVec 12) (grain : Nat) : State :=
  { base with core := { Core.reset with num }, job := { job with cores := [0, 768], space := { job.space with grain } } }

def req (a : Nat) (v : Word) : HostReq := { addr := a, value := v, data := [1, 2], write := true, n := 0, op := .add, ty := .z64, compare := none, bar0 := false }

theorem witness_JobsAreSavedRestoredAndLoseCores :
    (leaving []).job.running = true ∧ (leaving []).job.evicted = true ∧ (leaving []).job.ended = false ∧
    (∀ m, ((leaving []).ctxAt m).live = true → ((leaving []).ctxAt m).ending = false ∧ ((leaving []).ctxAt m).send.sst ≠ 2 ∧ ((leaving []).ctxAt m).trapping = none ∧
      ((leaving []).ctxAt m).wait = none) ∧
    (∀ k, ((leaving []).core.chans.get k).cmds = []) ∧ (leaving []).core.matrix.queue = [] ∧ (leaving []).core.mcasts = [] ∧
    (∀ k, ((leaving []).core.ports.get k).state ≠ .route) ∧ (leaving []).core.matrix.kept = none ∧
    (leaving [tagRead]).accs.length = 1 ∧ tagRead.retry = none ∧ (leaving [tagRead]).core.drained = false ∧ (leaving [tagRead]).agenda = [] ∧ (leaving [store2]).accs = [store2] ∧
    restoring.job.running = false ∧ (nextRestored restoring.evicted).isSome = true ∧ saved.accs = [] ∧ saved.owned = false ∧ Memory.wf saved.scratch = true ∧
    retried.retry.isSome = true ∧ (outstanding retried).gated retried.key retried.len = false ∧ (outstanding retried).clu.saving = [] ∧
    ((leaving []).job.running = true ∧ base.dev.elbase = 0 ∧ base.dev.lost ≠ BitVec.allOnes 32 ∧ base.job.jobid ≠ 6 ∧ base.tableAt base.core.num 0x2000 = none) := by
  refine ⟨by decide, by decide, by decide, by decide, by decide, by decide, by decide, by decide, by decide, by decide, by decide, by decide, by decide, rfl, ?_⟩
  decide +kernel

theorem witness_saved_slots_are_settled : ∀ (m : Fin 11) (k : Fin 32), ((saved.ctxs.get m).slots.get k).state ≠ .pending := by decide +kernel

theorem witness_dies_and_clusters :
    base.job.compl.getLsbD 63 = false ∧ (∀ m, (base.ctxAt m).takeOrder = []) ∧
    (∀ k ∈ base.job.cores, ¬ k.toNat / 768 = 1) ∧ (∃ k ∈ (acrossDies 768 4).job.cores, k.toNat / 768 = 0) ∧ (acrossDies 768 4).core.num.toNat / 768 ≠ 0 ∧
    (acrossDies 0 4).core.num.toNat / 768 = 0 ∧ (acrossDies 768 4).job.superstep = false ∧ (acrossDies 768 4).job.space.grain ≠ 0 ∧ (acrossDies 768 0).job.space.grain = 0 ∧
    (acrossDies 768 4).job.space.takes = [] ∧ (∃ k ∈ (acrossDies 768 4).job.cores, k.toNat / 32 = (req 0 0).addr) ∧ (acrossDies 768 4).core.num.toNat / 32 ≠ (req 0 0).addr := by
  decide

/-- Queue 0 enabled and disabled; the ring empty and with one packet; and a request in the inbox. -/
def hosting (a : Nat) (v : Word) (x : Queue) (eb : Word) : State :=
  { State.reset with inbox := [req a v], dev := { Device.reset with queues := [(0, x)], elbase := eb } }

def enabled : Queue := { Queue.reset with base := 0x40000, en := true }

theorem witness_QueuesTakePacketsAndAreTornDown :
    (∀ a v x e, (hosting a v x e).inbox = req a v :: []) ∧ base.inbox = [] ∧
    (let x := (hosting 0x10018 1 enabled 0).dev.queue 0
     x.en = true ∧ (x.tail - x.head).toNat ≤ ((1 : BitVec 32) - x.head).toNat ∧ ((1 : BitVec 32) - x.head).toNat ≤ 2 ^ (x.size.toNat + 4) ∧ (1 : BitVec 32) = x.accepted + 1) ∧
    ¬ ((17 : BitVec 32) - enabled.head).toNat ≤ 2 ^ (enabled.size.toNat + 4) ∧ (hosting 0x10018 1 enabled 0).dev.elbase = 0 ∧
    ((hosting 0x10018 1 enabled 0x60000).dev.elbase ≠ 0 ∧
      ((hosting 0x10018 1 enabled 0x60000).dev.elprod - (hosting 0x10018 1 enabled 0x60000).dev.elcons).toNat < 2 ^ ((hosting 0x10018 1 enabled 0x60000).dev.elsize.toNat + 7)) ∧
    Queue.reset.en = false ∧ (0x40000 : Word).toNat % 64 = 0 ∧ (11 : Word).toNat < 12 ∧ 12 ≤ (12 : Word).toNat ∧ Queue.reset.td = false ∧
    ((1 : Word).getLsbD 0 = true ∧ (1 : Word).getLsbD 1 = false ∧ (2 : Word).getLsbD 1 = true ∧ (2 : Word).getLsbD 0 = false) ∧
    ((hosting 0x10020 2 enabled 0).dev.jobs = [] ∧ (hosting 0x10020 2 enabled 0).evicted = [] ∧ enabled.tail = enabled.head) ∧
    ({ enabled with tail := 1 } : Queue).tail = enabled.head + 1 ∧ 0x28 ≤ 0x10028 % 64 ∧
    (let s := { base with dev := { Device.reset with queues := [(0, { enabled with td := true })] }, job := { job with stopping := true } }
     (s.dev.queue 0).td = true ∧ s.job.running = true ∧ s.job.stopping = true ∧ natBits s.job.jobid.toNat 31 24 = 0 ∧
       (∀ m, (s.ctxAt m).live = true → (s.ctxAt m).send.sst ≠ 2 ∧ (s.ctxAt m).trapping = none ∧ (s.ctxAt m).wait = none)) ∧
    natBits ({ job with jobid := 0x1000005 } : Job).jobid.toNat 31 24 ≠ 0 ∧
    (((porting .opened 0 [] (bound 2 7 4 0) false).ctxAt 0).live = true ∧ ((porting .opened 0 [] (bound 2 7 4 0) false).ctxAt 0).send.sst = 2) := by
  refine ⟨fun a v x e => rfl, ?_⟩
  decide +kernel

/-- The two bytes of a write at an address; a region that the host may not write, mapped by the running job. -/
def forbidding : State := { base with inbox := [req 0x400000000 0], regions := [(3, 0)], revmap := [(0x400000000, 0x4000000, 3)] }

theorem witness_TheHostReachesMemoryAndRegisters :
    (hosting 0 0 enabled 0).dev.hostLink = true ∧ (hosting 0 0 enabled 0).job.running = false ∧ (req 0 0).addr < 2 ^ 40 ∧ (req 0 0).addr + (req 0 0).data.length ≤ 2 ^ 40 ∧
    2 ^ 40 < (req (2 ^ 40 - 1) 0).addr + (req (2 ^ 40 - 1) 0).data.length ∧ (req 0 0).bar0 = false ∧ (req 0 0).op = .add ∧ (req 0 0).addr % 8 = 0 ∧ (req 4 0).addr % 8 ≠ 0 ∧
    (∃ f ∈ forbidding.revmap, overlaps 0x400000000 2 f.1 f.2.1 = true ∧ codeAllowsHost (writerCode 0 forbidding.job.superstep forbidding.exchange) = false ∧
      forbidding.region f.2.2 = some 0) ∧ forbidding.job.running = true ∧
    2 ^ 40 ≤ (req (2 ^ 40) 0).addr ∧ 1 ≤ (req 8 0).addr ∧ (req 8 0).addr ≤ 8 ∧ 8 < (req 9 0).addr ∧
    (∃ k : Fin 16, (req 0x100008 0).addr = 0x100000 + 8 * (16 * base.core.num.toNat + k.val)) ∧
    (∃ k : Fin 16, (req 0x180008 0).addr = 0x180000 + 8 * (16 * base.core.num.toNat + k.val)) := by
  decide

/-- The job claimed, and stopped, with a selector; a request of STEP for context 0 of core 0. -/
def debugged (st : Bool) (sel : Word) (sup : Bool) : State :=
  { base with
    dev := { Device.reset with dbgClaimed := true, dbgJob := 5, dbgStopped := st, dbgsel := sel }, job := { job with superstep := sup }, inbox := [req 0 5] }

theorem witness_TheDebugEngineClaimsStopsAndReads :
    (debugged true 0 false).dev.dbgClaimed = true ∧ (debugged true 0 false).dev.dbgJob = (debugged true 0 false).job.jobid ∧ (debugged true 0 false).job.running = true ∧
    (debugged false 0 false).dev.dbgStopped = false ∧ (debugged false 0 true).job.superstep = true ∧ (debugged true 0 false).dev.dbgStopped = true ∧
    (∀ st sel sup, (debugged st sel sup).inbox = req 0 5 :: []) ∧ base.inbox = [] ∧ base.dev.dbgClaimed = false ∧ (base.job.running = true ∧ base.job.jobid = (5 : Word).setWidth 32) ∧
    base.job.jobid ≠ (6 : Word).setWidth 32 ∧ (debugged true 0 false).dev.trbase = 0 ∧
    (natBits (5 : Word).toNat 23 20 = (0 : Fin 11).val ∧ natBits (5 : Word).toNat 19 8 = (debugged true 0 false).core.num.toNat) ∧
    (debugged true 0 false).accs = [] ∧ (debugged true 0 false).job.compl.getLsbD 63 = false := by
  refine ⟨by decide, by decide, by decide, by decide, by decide, by decide, fun st sel sup => rfl, by decide, by decide, by decide, by decide, by decide, by decide, by decide, by decide⟩

/-- Selectors of each space at its last index, of this core and of one outside the job. -/
theorem witness_debug_selectors :
    (let n (w : Word) := w.toNat
     (natBits (n 0x0007FFF800050000) 19 16 = 5 ∧ natBits (n 0x0007FFF800050000) 63 32 < 0x80000 ∧ natBits (n 0x0007FFF800050000) 63 32 % 8 = 0) ∧
     (natBits (n 0x00003FFF00060000) 19 16 = 6 ∧ natBits (n 0x00003FFF00060000) 63 32 < 16384) ∧
     (natBits (n 0x0000001F00000000) 19 16 = 0 ∧ natBits (n 0x0000001F00000000) 63 32 < 32) ∧
     (natBits (n 0x000000FF00010000) 19 16 = 1 ∧ natBits (n 0x000000FF00010000) 63 32 < 256) ∧
     (natBits (n 0x0000000700020000) 19 16 = 2 ∧ natBits (n 0x0000000700020000) 63 32 < 8)) ∧
    (0x0007FFF800050000 : Word).extractLsb' 0 12 ∈ base.job.cores ∧ (0x0007FFF800050001 : Word).extractLsb' 0 12 ∉ base.job.cores ∧
    (0x0007FFF800050000 : Word).extractLsb' 0 12 = base.core.num ∧ Reg.x 31 ≠ .x 0 := by
  decide

/-- Bursts of 1 ms and less; the units 3455 and 3456, and one of a running job; an entry running. -/
def tested (a : Nat) (v : Word) (run : Bool) : State :=
  { State.reset with inbox := [req a v], dev := { Device.reset with elbase := 0x60000, health := [(a, { pass := true, time := 0, fails := 0, running := run })] } }

theorem witness_TheDeviceIsTestedPoweredAndReset :
    (∀ a v r, (tested a v r).inbox = req a v :: []) ∧ 1000000 ≤ (1000000 : Word).toInt ∧ ¬ 1000000 ≤ (999999 : Word).toInt ∧ ¬ 1000000 ≤ (-1000000 : Word).toInt ∧
    3456 ≤ (req 3456 0).addr ∧ (req 3455 0).addr < 3456 ∧ (tested 0 0 false).job.running = false ∧ (tested 0 0 false).dev.jobs = [] ∧
    ((req 0 0).addr < 3072 ∧ base.job.running = true ∧ BitVec.ofNat 12 (req 0 0).addr ∈ base.job.cores) ∧
    ((tested 3 1 true).dev.healthOf 3).running = true ∧ ((tested 3 1 false).dev.healthOf 3).running = false ∧ (1 : Word).getLsbD 0 = true ∧ (0 : Word).getLsbD 0 = false ∧
    (tested 3 0 true).dev.elbase ≠ 0 ∧ ((tested 3 0 true).dev.elprod - (tested 3 0 true).dev.elcons).toNat < 2 ^ ((tested 3 0 true).dev.elsize.toNat + 7) := by
  refine ⟨fun a v r => rfl, ?_⟩
  decide

/-- Register x7 waited for, in a job with CHK and without; formed and not. -/
def hazarding (chk : Bool) (need : Nat) : State :=
  on { ctx0 with chk, writes := [{ reg := .x 7, val := 0, need, seq := 3, due := none, dead := false, late := false, ready := 0 }] }

theorem witness_HazardsSetHazOrTrap :
    (∀ c n, (hazarding c n).ctx.wait = none ∧ (hazarding c n).ctx.chk = c ∧ ∃ w, (hazarding c n).ctx.writes = [w] ∧ w.due = none ∧ w.need = n ∧ w.reg = .x 7) ∧
    Reg.x 7 ∈ [Reg.x 1, .x 2, .x 7] ∧ (hazarding true 0).ctx.inTrap = false ∧ (1 : Nat) ≠ 0 :=
  ⟨fun c n => ⟨rfl, rfl, _, rfl, rfl, rfl, rfl⟩, by decide, by decide, by decide⟩

/-- The power off; an event due; no context ready; and the NOP at 0x100 of the only ready context, which is fetched from the local window. -/
def nopping : State := { base with mem := Memory.write [] (scratchKey 0 0x100) [0, 0, 0, 0x40] }

theorem witness_StepsRunTheDecodedInstruction :
    ({ base with dev := { Device.reset with power := .off } } : State).dev.power = .off ∧ base.dev.power ≠ .off ∧ base.turns = [] ∧
    ({ base with agenda := [.walk 0] } : State).agenda = .walk 0 :: [] ∧ base.agenda = [] ∧ (∀ n, State.reset.tick.readyAt n = false) ∧
    nopping.tick.readyAt 0 = true ∧ (nopping.tick.order.takeWhile fun n => !nopping.tick.readyAt n).length < nopping.tick.order.length ∧
    (nopping.tick.begin 0).ctx.trapping = none ∧ (nopping.tick.begin 0).ctx.deferred = [] ∧ (nopping.tick.begin 0).gangStop = none ∧ (nopping.tick.begin 0).ctx.frame = [] ∧
    ((nopping.tick.begin 0).fetchAt (nopping.tick.begin 0).ctx.pc).2.toOption = some [0, 0, 0, 0x40] ∧
    decodeBytes [0, 0, 0, 0x40] = .ok (.nop false, []) ∧ decodeBytes [0, 0, 0, 0] = .error .unassignedOpcode ∧
    ((inFrame (rptWord 0 1 0 0 0 1 0 true)).tick.begin 0).ctx.frame ≠ [] ∧
    (0x100 : Word).toNat % 4 = 0 ∧ (0x7FFF8 : Word).toNat + 8 ≤ 0x80000 ∧ base.icache = [] ∧ base.job.claims = [] := by
  decide +kernel

theorem witness_EveryStepKeepsMemoryCanonical : Safe nopping ∧ ∃ t, step nopping = .next t ∧ t.ctx.pc = 0x104 :=
  ⟨by decide, _, rfl, by decide +kernel⟩

theorem witness_DecodeAndEncodeAgree :
    WellFormed (.movi true 4 0x06A0 (some 0xC)) ∧ (encodeFields (.movi true 4 0x06A0 (some 0xC))).isSome = true ∧
    decodeBytes [0x0C, 0x00, 0x00, 0xFF, 0xA0, 0x06, 0x90, 0x21, 7] = .ok (.movi true 4 0x06A0 (some 0xC), [7]) := by
  decide

/-! ## Witnesses: further clauses -/

theorem witness_loop_corners :
    inLoops.ready [.x 2] ∧ (inLoops.ctx.ctl.le.get 0 ≠ 0 ∧ inLoops.ctx.ctl.ls.get 0 ≤ inLoops.ctx.pc ∧ inLoops.ctx.pc ≤ inLoops.ctx.ctl.le.get 0 ∧
      inLoops.ctx.ctl.le.get 0 < inLoops.ctx.pc + 4 + BitVec.ofNat 64 (4 * (8 - 1))) ∧ inLoops.ctx.trappable ∧
    (atEnd 2).ctx.atLoopEnd 4 = true ∧ (atEnd 2).ctx.trappable ∧ (∀ M, base.ctx.ctl.le.get M = 0) ∧ base.ctx.straight 4 ∧ base.readX 1 ≠ base.ctx.pc ∧
    base.leadX 1 ≠ base.ctx.pc ∧ (atEnd 2).ctx.lead = none ∧ (atEnd 2).ctx.frame = [] ∧ 1 < ((atEnd 2).readX 2).toInt ∧ ((atEnd 2).readX 5).toInt ≤ 1 := by
  unfold Ctx.trappable Ctx.straight
  exact ⟨ready_of_idle rfl rfl _, by decide⟩

/-- Every context of a job stopped for a double trap has come to its boundary. -/
def torn : State := { State.reset with job := { job with stopping := true, stopReason := 2 } }

theorem witness_trap_corners :
    (∃ w ∈ pending.ctx.writes, (∀ d, w.due = some d → pending.cycle < d) ∧ ∀ u ∈ pending.ctx.writes, u.seq = w.seq → u = w) ∧
    inHandler.job.stopping = false ∧ ((5 : BitVec 8).toNat = jobQueue torn.job.jobid ∨ (0 : BitVec 8).toNat = jobQueue torn.job.jobid) ∧ torn.job.running = true ∧
    torn.job.stopping = true ∧ torn.job.stopReason = 2 ∧ (∀ c, (torn.ctxAt c).live = false) ∧ torn.dev.hostLink = true :=
  ⟨⟨waiting7, .head _, fun d h => (nomatch h), fun u h _ => List.eq_of_mem_singleton h⟩, by decide⟩

/-- In the handler with the frame of two words at 0x104 active; with x6 misaligned; and at a loop's end word. -/
def resuming : State :=
  { framed with ctxs := base.ctxs.set 0 { ctx0 with pc := 0x40, inTrap := true, rptst := rptWord 0 1 0 0 0 1 0 true, rptpc := 0x104 } }

def handlerAtEnd : State := on { (atEnd 2).ctx with inTrap := true }

theorem witness_return_corners :
    resuming.ready [.x 6] ∧ resuming.ctx.inTrap = true ∧ resuming.ctx.atLoopEnd 4 = false ∧ rptAct resuming.ctx.rptst = true ∧
    (((resuming.issued []).returnTo false resuming.ctx.pc).capture resuming.ctx.rptpc 2).2.toOption = some [0x500C8502, 0x021CFFFC] ∧
    rptN resuming.ctx.rptst + 1 = 2 ∧ resuming.ctx.writes = [] ∧ (inHandler.leadX 6).extractLsb' 0 2 ≠ 0 ∧ rptAct inHandler.ctx.rptst = false ∧
    handlerAtEnd.ready [.x 6] ∧ handlerAtEnd.ctx.inTrap = true ∧ handlerAtEnd.ctx.atLoopEnd 4 = true ∧ handlerAtEnd.ctx.writes = [] ∧
    (∀ k, base.ctx.ctl.le.get k ≠ base.job.trapvec) := by
  refine ⟨ready_of_idle rfl rfl _, by decide, by decide, by decide, by decide, by decide, by decide, by decide, by decide, ready_of_idle rfl rfl _, ?_⟩
  decide

theorem witness_ends_corners :
    asHelper.residueHere = none ∧ base.residueHere = none ∧ base.core.loom.running = false ∧ base.loomArmed = false ∧ base.ready [] ∧
    armedAll.cur = 0 ∧ armedAll.ctx.atLoopEnd 4 = false ∧ armedAll.loomArmed = true ∧ armedAll.job.superstep = false ∧ armedAll.ready [] := by
  refine ⟨by decide, by decide, by decide, by decide, witness_base_ready _, by decide, by decide, by decide, by decide, ready_of_idle rfl rfl _⟩

theorem witness_scatter_fails :
    (match State.checkLanes .store 4 (fun _ => 0x82) [0, 1] (gathering.issued [.x 6, .v 2, .p 3, .v 7]) with
      | (_, .error f, _) => decide (f.detail = 3) | _ => false) = true ∧ gathering.ctx.trappable := by
  unfold Ctx.trappable
  decide

/-- A slot whose read has been performed; and a take of a gang that is not complete on every member. -/
def readSlot : State := on { ctx0 with slots := ctx0.slots.set 2 { Slot.free with state := .pending, read := true, val := 6 } }

def heldTake : State :=
  { taking .landed true none with core := { Core.reset with gang := some { n := 2, leader := true, stops := [], parks := 0, takes := 1 } } }

theorem witness_landing_corners :
    (∀ b, (((landing b).ctxAt 0).slot 2).state = .pending ∧ (((landing b).ctxAt 0).slot 2).cause = 0 ∧
      (∀ z ∈ (landing b).accs, z.seq = tagRead.seq → z = tagRead)) ∧
    (∀ y ∈ readSlot.accs, y.ctx = 0 → y.op ≠ .tagged 2) ∧ ((readSlot.ctxAt 0).slot 2).state = .pending ∧ ((readSlot.ctxAt 0).slot 2).read = true ∧
    heldTake.ready [.x 7, .x 8] ∧ heldTake.ctx.inClass false 2 = true ∧ (heldTake.ctx.slot 2).state = .landed ∧ heldTake.gangTakes = true ∧
    (taking .landed true none).gangTakes = false ∧
    ((taking .landed false (some [])).ctx.replay = some [] ∧ (taking .landed false (some [])).ctx.landed = [] ++ 2 :: []) := by
  refine ⟨fun b => by cases b <;> decide, by decide, by decide, by decide, ready_of_idle rfl rfl _, ?_⟩
  decide

/-- A copy with ARV and BELL, and one whose second row of two lies outside its valid extents. -/
def bellCmd : Vec := cmdOf [0x0007030000000000 + 0xC0300000, 0x200, 0x300, 4, 0, 0, 0, 0]
def clipCmd : Vec := cmdOf [0x0007000010300000, 0x200, 0x300, 4, 0, 0, 0, 2]

/-- A term of action 1 on channel 1 of this core, armed, with and without a credit. -/
def gating (cred : Nat) : State :=
  { queued (cmd .copy copyCmd) with clu := { Cluster.reset with
      terms := Cluster.reset.terms.set 4 { cfg := BitVec.ofNat 52 (2 ^ 32 + 2 ^ 40), armed := true, pend := false, cred, start := 0 } } }

/-- The oldest command started, at its first element; and one that has used a page's leaf. -/
def started : State := queued { cmd .copy copyCmd with started := true }

theorem witness_command_corners :
    ((pushing gatherCmd true).badGather gatherCmd = false ∧ (pushing gatherCmd true).badMark .gx gatherCmd = false ∧
      (pushing compactCmd true).badMark .compact compactCmd = false ∧ (pushing gatherCmd true).exchange = false) ∧
    (((gating 1).gatesOf 1 = [4] ∧ 0 < ((gating 1).clu.terms.get 4).cred) ∧ (gating 0).gatesOf 1 = [4] ∧ ((gating 0).clu.terms.get 4).cred = 0) ∧
    ((cmd .copy clipCmd).posts = true ∧ (queued (cmd .copy clipCmd)).mayStart (cmd .copy clipCmd) = true) ∧
    ((cmd .copy copyCmd).pulledAt 0 0 = none ∧ (cmd .copy copyCmd).lazy = false ∧ started.accs = [] ∧ (∀ m, m ≠ 1 → (started.chan m).cmds = []) ∧
      started.core.snapshot = none ∧ placed ((started.cmdCheck 1 .engineRead (cmdSrc copyCmd 0) 8).1, (started.cmdCheck 1 .engineRead (cmdSrc copyCmd 0) 8).2, 0) = some (scratchKey 0 0x200) ∧
      (let u := (started.cmdCheck 1 .engineRead (cmdSrc copyCmd 0) 8).1
       placed (u, (u.cmdCheck 1 .engineWrite (cmdDst copyCmd 0) 8).2, 0) = some (scratchKey 0 0x300))) ∧
    (placeCheck 0x104000008 8 8 = .ok .translated ∧ tlbFind cached.micro (0x104000008 : Word).toNat ≠ none ∧
      (cached.leafCheck .engineRead 0x0001000400000063 0x104000008 false).toOption = some ()) ∧
    (cmdArv bellCmd = true ∧ cmdBell bellCmd = true ∧ cmdBg bellCmd = 3) ∧
    (popping (some (1, 2))).ctx.trappable ∧ ((popping (some (1, 2))).chan 1).ready.length = 1 ∧ ahead.bad = [] := by
  unfold Ctx.trappable
  decide +kernel

/-- Two arrivals and an EXPECT wait for the root's next network cycle. -/
def reaching (rs : List Reached) (ex : Nat) : State :=
  { base with
    bar := { Barriers.reset with groups := Barriers.reset.groups.set 3 { res := true, member := true, base := 2, expected := 2, arrived := 0, phase := 5, node := 5, reached := rs, expects := ex } } }

def arrived (core : BitVec 12) (q : Nat) : Reached := { core, weight := 1, report := some (0, q) }

theorem witness_barrier_corners :
    (3 : BitVec 16) ≠ 0 ∧ ((reaching [arrived 1 4] 1).group 3).res = true ∧ (reaching [arrived 1 4] 1).bar.domain ≠ some 3 ∧
    ((reaching [arrived 1 4] 1).group 3).arrived + 1 < ((reaching [arrived 1 4] 1).group 3).expected ∧
    ((reaching [arrived 1 4] 1).group 3).reached = [arrived 1 4] ∧ ((reaching [] 1).group 3).reached = [] ∧
    (((reaching [arrived 1 4, arrived 2 6] 1).group 3).reached = [arrived 1 4, arrived 2 6] ∧ (arrived 1 4).core.toNat < (arrived 2 6).core.toNat ∧ (4 : Nat) ≠ 6 ∧
      ((reaching [arrived 1 4, arrived 2 6] 1).group 3).expected ≤ ((reaching [arrived 1 4, arrived 2 6] 1).group 3).arrived + 2) ∧
    ((syncing 4 true (some daybook)).replayable.all fun sn => (List.finRange 32).all fun k => decide ((sn.ctx.slots.get k).state ≠ .pending)) = true ∧
    (inDomain.group 3).passed 5 = false ∧ inDomain.claimed = false ∧ inDomain.exchange = false := by
  decide

/-- In a network cycle in which source 7 pulses the term holds; a term that starts a helper of another core, and one of this core, held. -/
def heldStart (cfg : Nat) : State :=
  { boarded with clu := { Cluster.reset with
      terms := Cluster.reset.terms.set 4 { cfg := BitVec.ofNat 52 cfg, armed := false, pend := true, cred := 0, start := 0x80 } } }

/-- A term that has fired a network cycle ago with an action, and a clear of another core that waits for the board's next cycle. -/
def acting (act : Nat) : State :=
  { ringing 0 false with clu := { (ringing 0 false).clu with
      terms := Cluster.reset.terms, boardActs := [(0, 4, { cfg := BitVec.ofNat 52 (act * 2 ^ 32 + 2 ^ 42), armed := true, pend := false, cred := 0, start := 0x80 })] } }

def clearing : State := { ringing 0 false with clu := { (ringing 0 false).clu with boardOps := [(3, .clear 4)], terms := Cluster.reset.terms } }

theorem witness_board_acts :
    (∀ act : Fin 4, (acting act).clu.boardOps = [] ∧ (∀ x ∈ (acting act).clu.boardActs, x.1 ≤ (acting act).cycle) ∧ (acting act).clu.boardActs.length = 1 ∧
      natBits ((acting act).clu.boardActs.headD (0, 0, ⟨0, false, false, 0, 0⟩)).2.2.cfg.toNat 33 32 = act) ∧
    (∀ m, ((acting 1).clu.terms.get m).armed = false) ∧ (∀ m, (clearing.clu.terms.get m).armed = false) ∧ clearing.clu.boardActs = [] ∧ (4 : Word).getLsbD 2 = true := by
  decide +kernel

theorem witness_bellboard_corners :
    (Vector.ofFn fun m : Fin 16 => let k := (ringing 1 false).clu.counters.get m
      ({ k with count := Nat.min (k.count + k.pulses) 65535, ovf := k.ovf || decide (65535 < k.count + k.pulses), pulses := 0, cleared := false, was := none } : BellCounter)) = counted ∧
    ((heldStart (2 ^ 35)).clu.terms.get 4).pend = true ∧ natBits ((heldStart (2 ^ 35)).clu.terms.get 4).cfg.toNat 39 35 ≠ (heldStart (2 ^ 35)).position ∧
    ((heldStart (2 ^ 42)).clu.terms.get 4).pend = true ∧ natBits ((heldStart (2 ^ 42)).clu.terms.get 4).cfg.toNat 39 35 = (heldStart (2 ^ 42)).position ∧
    natBits ((heldStart (2 ^ 42)).clu.terms.get 4).cfg.toNat 45 42 = (1 : Fin 11).val ∧ ((heldStart (2 ^ 42)).ctxAt 1).live = false := by
  decide

/-- A watermark gates the word at 0x200, at FPUT and FTAKE, and at a take that presents again. -/
def gatedWord (s : State) : State :=
  { s with core := { s.core with chans := Core.reset.chans.set 1 { cmds := [{ cmd .copy copyCmd with wm := some (scratchKey 0 0x200, scratchKey 0 0x23F) }], ready := [] } } }

theorem witness_atomic_corners :
    (failure ((base.issued [.x 6, .x 2]).atomicCheck false .clu (base.readX 6) 8)).isSome = true ∧
    placed ((base.issued [.x 1, .x 2]).atomicCheck false .clu (base.readX 1) 8) = some (scratchKey 0 0x200) ∧
    placed ((base.issued [.x 1, .x 2, .x 7]).atomicCheck true .clu (base.readX 1) 8) = some (scratchKey 0 0x200) ∧
    (match State.checkAtomics false .clu 8 (fun _ => 0x82) [0, 1] (base.issued [.x 6, .v 2, .v 3]) with
      | (_, .error f, _) => decide (f.detail = 3) | _ => false) = true ∧
    (gatedWord base).gated (scratchKey 0 0x200) 8 = true ∧ (gatedWord base).ready [.x 1, .x 2] ∧ base.gated (scratchKey 0 0x200) 8 = false ∧
    base.retried (scratchKey 0 0x200) = false ∧ (gatedWord (presenting true)).stalledTake 0 = true ∧
    (gatedWord (presenting true)).gated (scratchKey 0 0x200) 8 = true ∧ (presenting true).gated (scratchKey 0 0x200) 8 = false ∧
    (presenting true).retried (scratchKey 0 0x200) = false ∧ (presenting false).takers.length < 64 ∧
    ((draped true).job.superstep = true ∧ (draped true).ctx.trappable) ∧ ((draped false).job.superstep = false ∧ (draped false).ctx.trappable) := by
  refine ⟨by decide, by decide, by decide, by decide, by decide +kernel, ready_of_idle rfl rfl _, ?_⟩
  unfold Ctx.trappable
  decide +kernel

/-- The spill area is not mapped: a spill and a batch read back fail. -/
def unmapped (es : List Word) (bat : Nat) : State := { spiked es [] bat false with micro := [] }

theorem witness_spike_corners :
    (failure (((unmapped ringful 0).issued [.x 1]).check .store 0x104000000 2048 8 false)).isSome = true ∧
    (failure (((unmapped [] 1).issued []).check .load 0x104000000 2048 8 false)).isSome = true ∧ (unmapped ringful 0).ctx.trappable ∧
    (unmapped [] 1).job.superstep = false := by
  unfold Ctx.trappable
  decide +kernel

/-- A restored core that takes the pair again; and a job that is being stopped. -/
def retaking : State :=
  { base with core := { Core.reset with matrix := { Matrix.reset with
      retake := true, live := some { addr := 0x200, fmt := .lane (.float .bf16), scaled := false, data := [], book := [] } } } }

theorem witness_matrix_corners :
    retaking.core.matrix.retake = true ∧ retaking.core.matrix.live.isSome = true ∧ retaking.bad = [] ∧ torn.job.stopping = true ∧
    (matrixed [mcmd .acrd 0]).job.stopping = false ∧ (matrixed [mcmd .acrd 0]).core.matrix.retake = false := by
  decide

/-- A weave at its pass's end whose unfired entry has had its re-pick pass; and one whose peers have named another size. -/
def rePicked : State :=
  woven fun l => { running l with passEnd := true, rp := true, draft := some { fmts := List.replicate 4 fBf16, entries := [entry false] } }

theorem witness_loom_corners :
    (∃ x ∈ (joining false eight loomClaim (sevenWait 16)).clu.loomWait, x.since ≤ (joining false eight loomClaim (sevenWait 16)).cycle ∧ x.n ≠ 8 ∧
      (x.pos / 8 = (joining false eight loomClaim (sevenWait 16)).position / 8 ∨ x.pos / x.n = (joining false eight loomClaim (sevenWait 16)).position / x.n)) ∧
    ((joining false eight loomClaim (sevenWait 8)).clu.loomClash = [] ∧ (∀ p ∈ rangeOthers 0 8, (joining false eight loomClaim (sevenWait 8)).peerBy
        (joining false eight loomClaim (sevenWait 8)).clu.ended p = false) ∧
      ∀ x ∈ (joining false eight loomClaim (sevenWait 8)).clu.loomWait, x.n = 8) ∧
    (∃ c ∈ (joining false eight loomClaim []).job.claims, c.kind = .loom ∧ c.off = ((joining false eight loomClaim []).readX 9).toNat ∧ c.bytes = 65536) ∧
    ((atPassEnd false 0).core.loom.missed none).isSome = true ∧ (atPassEnd true 0).core.loom.missed none = none ∧
    (rePicked.core.loom.running = true ∧ rePicked.core.loom.passEnd = true ∧ rePicked.core.loom.rp = true ∧ rePicked.core.loom.out = 0 ∧
      firstUnfired 0 rePicked.core.loom.entries = some (0, entry false) ∧ rePicked.core.loom.entries.countP (fun q => q.valid && !q.fired) = 1) := by
  decide

/-- The vector forms' unit: its turn, not its turn while another context's run is in progress, and one run's second bucket. -/
def busyTable : State :=
  { tables with ctxs := tables.ctxs.set 1 { Ctx.reset with live := true, ph := some { owner := 0, base := 0x2000, done := [0], got := [] } } }

def inRun : State :=
  { tables with ctxs := tables.ctxs.set 0 { tables.ctx with
      wait := some (tables.ctx.waiting .other 2 0x2000 0), ph := some { owner := 0, base := 0x2000, done := [0], got := [(0, none)] } } }

theorem witness_pigeonhole_turns :
    (tables.ctx.ph = none ∧ tables.tableBusy { owner := 0, table := table32 } = false ∧
      tables.retried (({ owner := 0, table := table32 } : PhPlace).homeKey 0) = false ∧ tables.phTurn { owner := 0, table := table32 } = true) ∧
    (busyTable.ready [.x 9] ∧ busyTable.ctx.ph = none ∧ busyTable.tableBusy { owner := 0, table := table32 } = true) ∧
    (inRun.ctx.wait.isSome = true ∧ inRun.ctx.ph.isSome = true ∧ inRun.accs = [] ∧ (inRun.readX 9).toNat = 0x2000 ∧
      (match (State.phRun { owner := 0, table := table32 } ((phUpdates table32 (fun i => BitVec.ofNat 64 i) fun _ => .ins 1).filter fun x => x.key = 5) [0] inRun).2.1 with
        | .ok rs => decide (rs = [(5, none)]) | _ => false) = true) ∧
    tables.ctx.wait = none := by
  refine ⟨by decide +kernel, ⟨ready_of_idle rfl rfl _, by decide +kernel, by decide +kernel⟩, by decide +kernel, by decide⟩

/-- Descriptors at 0x200 of a table through the own cluster window, of a table of core 1, and of one that no claim names. -/
def describing (b : Nat) : State :=
  { claiming with mem := Memory.write [] (scratchKey 0 0x200) ([b, 5, 0x104000000, 0].flatMap fun w => bytesOfNat w 8) }

theorem witness_claim_windows :
    (∀ b ∈ [0x1002000, 0x1082000, 0x3000, 0x200000000], fieldAt (Memory.read (describing b).mem (scratchKey 0 0x200) 32) 0 8 = b) ∧ (describing 0).position = 0 ∧
    (∀ k ∈ (describing 0).job.claims, k.off ≠ 0x3000) ∧ (describing 0).localRun ((describing 0).readX 1) 32 := by
  refine ⟨by decide +kernel, by decide, by decide, ⟨by decide, by decide, by decide⟩⟩

/-- Port 0 with requests that wait, owed words, or an allowance. -/
def queueing (p : Port) (b : SendBinding) (accs : List Acc) : State :=
  { base with ctxs := base.ctxs.set 0 { ctx0 with send := b }, core := { Core.reset with ports := Core.reset.ports.set 0 p }, accs, seq := 9 }

def route0 : Port := { Port.closed with state := .route, rsrc := 3, given := 5 }

theorem witness_port_corners :
    (let p : Port := { Port.closed with state := .opened, requests := [(0, 0)] }
     ((queueing p (bound 1 0 0 0) []).port 0).requests.head? = some ((queueing p (bound 1 0 0 0) []).core.num, (queueing p (bound 1 0 0 0) []).cur) ∧
       ((queueing p (bound 1 0 0 0) []).port 0).waiting + ((queueing p (bound 1 0 0 0) []).port 0).owed + 8 ≤ 64) ∧
    (let p : Port := { Port.closed with state := .opened, requests := [(7, 0)] }
     ∃ r, ((queueing p (bound 1 0 0 0) []).port 0).requests.head? = some r ∧ r.1 ≠ 3 ∧
       r ≠ ((queueing p (bound 1 0 0 0) []).core.num, (queueing p (bound 1 0 0 0) []).cur)) ∧
    (0 < (queueing route0 (bound 2 0 4 0) []).ctx.send.words ∧ [6].length ≤ ((queueing route0 (bound 2 0 4 0) []).port 0).given) ∧
    (((queueing { route0 with given := 0 } (bound 2 0 4 0) []).port 0).given = 0 ∧ (queueing { route0 with given := 0 } (bound 2 0 4 0) []).job.evicted = false) ∧
    (queueing route0 (bound 2 0 4 0) [store2]).beforeClosing true store2 = true ∧ (queueing route0 (bound 2 0 4 0) [store2]).beforeClosing false store2 = false ∧
    ({ route0 with ending := true } : Port).ending = true ∧ route0.owed = 0 ∧ evicted.job.evicted = true := by
  refine ⟨by decide, ⟨_, rfl, by decide, by decide⟩, by decide, by decide, by decide, by decide, by decide, by decide, by decide⟩

/-- A multicast that waits for a store, one with its last target, and a redundant job's send whose words differ. -/
def hopping (m : Mcast) (accs : List Acc) (redun : Bool) : State :=
  { base with core := { Core.reset with mcasts := [m] }, accs, job := { job with cores := [0, 1, 2], redun } }

def upsetting : State :=
  { sending 0x8000100000000300 0 true with core := { Core.reset with upset := true }, job := { (sending 0 0 true).job with redun := true } }

/-- Three flits for one output, one of them timed; two, of which one has waited for 63 turns. -/
def flit (input : BitVec 3) (cls : Nat) : RouterReq := { node := 0, output := 2, input, cls }

theorem witness_multicast_corners :
    (∃ y ∈ (hopping { mcast0 with after := [4] } [store2] false).accs, y.seq ∈ ({ mcast0 with after := [4] } : Mcast).after) ∧
    mcast0 ∈ (hopping mcast0 [] true).core.mcasts ∧ mcast0.targets = 1 :: [2] ∧ ({ mcast0 with targets := [2] } : Mcast).targets = 2 :: [] ∧
    (∀ l, mcast0.data = some l → l.length = 64 * mcast0.lines) ∧ (hopping mcast0 [] true).job.redun = true ∧ (hopping mcast0 [] true).unhashed ∧
    (hopping mcast0 [] true).core.snapshot = none ∧ (upsetting.job.redun = true ∧ upsetting.core.upset = true ∧ upsetting.exchange = true ∧ upsetting.xc = 0) ∧
    (let reqs := [flit 1 timedClass, flit 2 3, flit 4 8]
     (reqs.map reqBuffer).Nodup ∧ (∀ r ∈ reqs, ∀ u ∈ reqs, r.cls = timedClass → u.cls = timedClass → reqOut r = reqOut u → r = u) ∧ ∀ r ∈ reqs, r.input.toNat < 5) ∧
    (let s : State := { base with dev := { Device.reset with ages := [(1, 63)] } }
     63 ≤ Sparse.get 0 s.dev.ages (reqBuffer (flit 1 3)) ∧ ([flit 1 3, flit 4 8].map reqBuffer).Nodup) := by
  refine ⟨by decide, by decide, rfl, rfl, fun l h => (nomatch h), by decide, by decide, by decide, by decide, ?_, ?_⟩
  · decide
  · decide

/-- A packet of COUNT 768, which takes the whole die; its save region is 768 MiB. -/
def dieWord : Nat := 9 * 2 ^ 48 + 768 * 2 ^ 36 + 2 ^ 34 + 2 * 2 ^ 29

def dieBusy (p : BitVec 5) : State :=
  { dispatching dieWord 0x100 0 [] with
    job := { job with prio := p }, mem := Memory.write (dispatching dieWord 0x100 0 []).mem (hbmKey 0x500F8) (bytesOfNat 0x30000000 8) }

/-- A second queue, whose head has the higher priority 3. -/
def rivalled : State :=
  { startable with
    dev := { startable.dev with queues := startable.dev.queues ++ [(1, { Queue.reset with base := 0x42000, tail := 1, accepted := 1, en := true })] },
    mem := Memory.write (Memory.write startable.mem (hbmKey 0x42000) ([word0 + 2 ^ 29, 0x100, 0, 0x1040, 0x52000, 0, 0x40, 0].flatMap fun w => bytesOfNat w 8))
      (hbmKey 0x520F8) (bytesOfNat 0x100000 8) }

theorem witness_victims :
    (let s := dieBusy 1
     let p := s.packetAt 0 0
     (match s.victims 0 p with | some (h :: hs) => h.ours && hs.isEmpty | _ => false) = true ∧ s.placementOk 0 p (coresFrom 0 768) = true ∧ s.outranked (s.packetAsHead 0 p) = false ∧
       s.refusal p false = none ∧ scheduleConflict (coresFrom 0 768) (s.scheduleEntries (s.blockOf p)) = false ∧ s.writableCode p 0 (s.blockOf p) = false) ∧
    (dieBusy 2).victims 0 ((dieBusy 2).packetAt 0 0) = none := by
  decide +kernel

/-- A superstep packet while another job holds every group; and a claimed job that has been evicted. -/
def allGroupsHeld : State :=
  let s := dispatching (word0 + 2 ^ 15) 0x100 0 []
  { s with dev := { s.dev with jobs := [{ job := { job with jobid := 0x05000001, evt := 0, compl := 0, cores := [9], prio := 1 }, saved := false, scratch := [], tookFree := false,
                                           groups := List.range 32, regions := [], drapers := [] }] } }

def claimedAway : State := { restoring with dev := { Device.reset with dbgClaimed := true, dbgJob := job.jobid } }

theorem witness_resources_busy_and_evicted_claims :
    (let p := allGroupsHeld.packetAt 0 0
     let bs := allGroupsHeld.blockOf p
     allGroupsHeld.refusal p false = none ∧ allGroupsHeld.placementOk 0 p [0] = true ∧ scheduleConflict [0] (allGroupsHeld.scheduleEntries bs) = false ∧ allGroupsHeld.writableCode p 0 bs = false ∧
     allGroupsHeld.resourcesBusy p bs = true ∧ allGroupsHeld.outranked (allGroupsHeld.packetAsHead 0 p) = false ∧ allGroupsHeld.depsMet p = true) ∧
    (dieBusy 1).resourcesBusy ((dieBusy 1).packetAt 0 0) ((dieBusy 1).blockOf ((dieBusy 1).packetAt 0 0)) = false ∧
    claimedAway.job.running = false ∧ (claimedAway.evicted.find? fun y => decide (y.job.jobid = claimedAway.dev.dbgJob)).isSome = true ∧ saved.job.superstep = false ∧
    (base.job.began = false ∧ ({ base.job with began := true } : Job).began = true) := by
  decide +kernel

theorem witness_dispatch_corners :
    (startable.victims 0 (startable.packetAt 0 0) = some [] ∧ (∀ c ∈ ([0] : List (BitVec 12)), startable.coreOpen [] c = true) ∧
      startable.outranked (startable.packetAsHead 0 (startable.packetAt 0 0)) = false) ∧
    ((busy 1).victims 0 ((busy 1).packetAt 0 0) = some [] ∧ ∃ c ∈ ([0] : List (BitVec 12)), (busy 1).coreOpen [] c = false) ∧
    rivalled.outranked (rivalled.packetAsHead 0 (rivalled.packetAt 0 0)) = true ∧ State.reset.dev.elbase = 0 := by
  decide +kernel

/-- A job chosen for eviction with a tagged load on its way into slot 2. -/
def loading : State := { withSlot .pending with job := { job with evicted := true }, accs := [tagRead] }

theorem witness_eviction_corners :
    (loading.job.evicted = true ∧ ((loading.ctxAt 0).slots.get 2).state = .pending ∧ (∃ t, tagRead.op = .tagged t) ∧ loading.core.drained = false ∧ loading.agenda = []) ∧
    ((∀ m k, (((leaving []).ctxAt m).slots.get k).state ≠ .pending) ∧ (∀ m, ((leaving []).ctxAt m).writes = []) ∧ ∀ m, ((leaving []).ctxAt m).ph = none) ∧
    restoring.restorable saved = true ∧ (nextRestored (restoring.evicted.filter restoring.restorable)) = some saved ∧ (∀ c ∈ saved.scratch, inScratch saved.job.cores c.1 = true) ∧
    (∀ m, ((leaving []).ctxAt m).live = true → ((leaving []).ctxAt m).mustRun = false ∧ ((leaving []).ctxAt m).ending = false) ∧ base.job.evicted = false ∧
    (∃ x ∈ restoring.evicted, x.job.jobid = 5) ∧ (wordy true).takers = [] ∧ base.takers = [] ∧ base.accs = [] ∧
    ((∃ k ∈ (acrossDies 0 4).job.cores, ¬ k.toNat / 768 = 0) ∧ (∃ k ∈ (acrossDies 0 4).job.cores, k.toNat / 768 = 0) ∧ (acrossDies 0 4).job.superstep = false ∧
      (acrossDies 0 4).job.space.grain ≠ 0) ∧ (∀ k ∈ base.job.cores, k.toNat / 768 = 0) := by
  refine ⟨⟨by decide, by decide, ⟨2, rfl⟩, by decide, by decide⟩, ⟨by decide +kernel, by decide, by decide⟩, by decide +kernel, by decide +kernel, by decide, by decide, by decide,
    ⟨saved, .head _, by decide⟩, by decide, by decide, by decide, by decide, by decide⟩

/-- The running job is the torn-down queue's, and at its boundaries; a context still in a packet. -/
def tearing (stopping td : Bool) (b : SendBinding) : State :=
  { base with
    ctxs := base.ctxs.set 0 { ctx0 with send := b }, inbox := [req 0x10020 2], job := { job with stopping, stopReason := 1 },
    dev := { Device.reset with queues := [(0, { enabled with td })] } }

theorem witness_teardown_corners :
    ((tearing false false unbound).inbox = req 0x10020 2 :: [] ∧ (tearing false false unbound).job.running = true ∧
      natBits (tearing false false unbound).job.jobid.toNat 31 24 = 0 ∧ (tearing false false unbound).job.stopping = false ∧
      (tearing true false unbound).job.stopping = true ∧ ((tearing true false unbound).dev.queue 0).tail = ((tearing true false unbound).dev.queue 0).head ∧
      (tearing true false unbound).dev.jobs = [] ∧ (tearing true false unbound).evicted = []) ∧
    (((tearing true true (bound 2 7 4 0)).ctxAt 0).live = true ∧ ((tearing true true (bound 2 7 4 0)).ctxAt 0).mustRun = true) ∧
    ((∀ m, ((tearing true true unbound).ctxAt m).live = true → ((tearing true true unbound).ctxAt m).mustRun = false) ∧ (tearing true true unbound).accs = [] ∧
      (tearing true true unbound).job.stopReason < 256) := by
  decide

/-- The host writes to a region that allows it, and to one that is not loaded. -/
def mapping (rs : List (Nat × BitVec 48)) : State := { forbidding with regions := rs }

theorem witness_host_corners :
    (∀ f ∈ (mapping [(3, 0x8000_0000_0000)]).revmap, ∃ w, (mapping [(3, 0x8000_0000_0000)]).region f.2.2 = some w ∧
      codeAllowsHost (writerCode w (mapping [(3, 0x8000_0000_0000)]).job.superstep (mapping [(3, 0x8000_0000_0000)]).exchange) = true) ∧
    (mapping []).region 3 = none ∧ (mapping []).dev.jobs = [] ∧ forbidding.dev.elbase = 0 := by
  refine ⟨fun f h => ?_, by decide, by decide, by decide⟩
  rw [List.eq_of_mem_singleton h]
  exact ⟨_, rfl, by decide⟩

theorem witness_stop_drops_a_pause :
    (let s : State := { debugged false 0 false with ctxs := pausing.ctxs }
     s.dev.dbgStopped = false ∧ s.dev.dbgClaimed = true ∧ s.dev.dbgJob = s.job.jobid ∧ s.job.running = true ∧ (s.ctxAt 0).paused = true) ∧
    (debugged false 0 true).dev.dbgStopped = false := by
  decide

/-- Context 1 with a trap to take and no write outstanding, beside a context whose write has not come. -/
def nop0x204 : TrapInfo := TrapInfo.at 0x204 0x15 0 0

def trapTaking : State :=
  { hazarding true 1 with ctxs := (hazarding true 1).ctxs.set 1 { Ctx.reset with live := true, trapping := some nop0x204 } }

/-- Context 0 waits at HWAIT for helper 1, and its gang's leader has stopped. -/
def hwaiting : State :=
  { withHelper with ctxs := withHelper.ctxs.set 0 { ctx0 with wait := some { ctx0.waiting .other 0 0 0 with instr := some (.hwait false 2) } } }

def stopped : State :=
  { nopping with core := { Core.reset with gang := some { n := 2, leader := false, stops := [(0, 1)], parks := 0, takes := 0 } } }

theorem witness_machine_corners :
    ((trapTaking.ctxAt 1).trapping = some nop0x204 ∧ trapTaking.attends 1 = true ∧ (trapTaking.ctxAt 1).writes = [] ∧ (trapTaking.ctxAt 1).wait = none ∧
      (trapTaking.ctxAt 1).inTrap = false ∧ trapTaking.ctx.writes.length = 1) ∧
    ((∀ n, nopping.tick.attends n = false) ∧ (∀ n, State.reset.tick.attends n = false)) ∧
    ((∀ m, hwaiting.tick.attends m = decide (m = 0)) ∧ (hwaiting.tick.ctxAt 0).wait.bind (·.instr) = some (.hwait false 2) ∧
      (hwaiting.tick.resume 0).gangStop = none) ∧
    ((stopped.tick.begin 0).gangStop = some 1 ∧ stopped.tick.readyAt 0 = true) ∧
    (({ State.reset with turns := [.withheld, .issue], dev := { Device.reset with throt := true } } : State).dev.throt = true) ∧
    ({ base with agenda := [.walk 0], turns := [.event 0, .event 7] } : State).agenda[7]? = none ∧
    (ganged.core.gang.isSome = true ∧ base.core.gang = none) ∧
    ((({ base with ctxs := base.ctxs.set 0 { ctx0 with pc := 0x80000 } } : State).tick.begin 0).fetchAt 0x80000).2.toOption = none := by
  decide +kernel

/-! ## Witnesses of single clauses -/

/-- The words behind an RPTF at 0x100, both capturable; a second word that is undefined, one that is EXT, one at an active loop's end; an RPTF at the end of memory and at an active loop's end; and inside a frame. -/
def framing (bytes : List Byte) (c : Ctx) : State := { on c with mem := Memory.write framed.mem (scratchKey 0 0x108) bytes }

def frameEnd : State := on { ctx0 with pc := 0x0FFFFFFC }

theorem witness_body_words :
    bodyWord 0x500C8502 = .good ∧ bodyWord 0x021CFFFC = .good ∧ bitsOfBytes 32 [0x02, 0x85, 0x0C, 0x50] = 0x500C8502 ∧ (inFrame 0).ctx.frame ≠ [] ∧
    ((framed.issued []).fetchBytes 0x104).2.toOption = some [0x02, 0x85, 0x0C, 0x50] ∧
    (((framing [0, 0, 0, 0] ctx0).issued []).fetchBytes 0x108).2.toOption = some [0, 0, 0, 0] ∧ bodyWord (bitsOfBytes 32 [0, 0, 0, 0]) = .undefined ∧
    (((framing [0, 0, 0, 0x40] ctx0).issued []).fetchBytes 0x108).2.toOption = some [0, 0, 0, 0x40] ∧ bodyWord (bitsOfBytes 32 [0, 0, 0, 0x40]) = .other ∧
    ((frameEnd.issued []).fetchBytes 0x10000000).2.toOption = none ∧
    (framing [] { ctx0 with le := ctx0.le.set 1 0x104 }).ctx.ctl.le.get 1 = 0x100 + 4 ∧ (atEnd 2).ctx.atLoopEnd 4 = true ∧
    rptAct (inFrame 1).ctx.rptst = true ∧ ((inFrame 1).ctx.inTrap = false ∧ (inFrame 1).ctx.writes = []) ∧
    ((atEnd 2).ctx.inTrap = false ∧ (atEnd 2).ctx.writes = []) := by
  decide +kernel

/-- A capturable frame, its words written out, for the ADD that runs inside it; and a frame of each shape, in execution 1 with strides. -/
def goodFrame (st : Word) : State := on { ctx0 with rptst := st, rptpc := 0x100, frame := [0x500C8502, 0x021CFFFC] }

def shaped (i : Instr) : Ctx := { ctx0 with rptst := rptWord 1 0 3 1 2 3 0 true, frame := encode i }

theorem witness_frame_steps :
    (∀ st, (goodFrame st).ready [.x 1, .x 2, .x 7]) ∧ (goodFrame 0).ctx.frame ≠ [] ∧ (goodFrame 0).ctx.frame = [0x500C8502, 0x021CFFFC] ∧
    ∀ i ∈ [Instr.add false 7 1 2 .s64 .wrap, .addi false 7 1 5 none, .pcmp false 3 1 2 .s64 .lt, .plog false 1 2 3 8,
      .movToLoop false 1 2 .lc, .sel false 7 1 2 3, .vadd false 7 1 2 (.int .s32) 0 none, .vcmp false 3 1 2 (.int .s32) .lt none],
      (shaped i).frame[rptIdx (shaped i).ctl.rptst]?.map decodeWord = some (.ok i) :=
  ⟨fun st => ready_of_idle rfl rfl _, by decide +kernel⟩

/-- A copy whose third and fourth elements are clipped; a gather of one row of sixteen bytes from a local table, and its scatter; a PRUNE of eight BF16 values, and of four; and
a COMPACT of one row, whose chain at 0x600 holds one swatch of two words. The state that the checks leave, of which nothing is used but that it exists. -/
def rowCmd : Vec := cmdOf [0x0008000000400000, 0x200, 0x400, 0x300, 1, 0, 0, 0]
def pruneCmd (n : Nat) : Vec := cmdOf [0x0007000008150000, 0x200, 0x300, n, 0, 0, 0, 0x500]
def boxCmd : Vec := cmdOf [0x0007000010300000, 0x200, 0x300, 4, 0, 0, 0, 2]

def going (k : CmdKind) (v : Vec) : Cmd := { cmd k v with started := true }

def chained : State := { queued { going .compact compactCmd with ptr := some 0x600 } with
  mem := Memory.write [] (scratchKey 0 0x600) ([0, 0, 0, 0, 0, 0, 0, 0, 0, 0, 0, 0, 2, 0, 0, 0] ++ List.replicate 8 1 ++ List.replicate 8 2) }

/-- The keys of the checked places. -/
def keyOf (r : State × Except AccessFault Place) : Option Nat := r.2.toOption.map Place.key

def keysOf (r : State × Except AccessFault (List PlacedMove)) : Option (List (Nat × Nat)) := r.2.toOption.map fun l => l.map fun p => (p.rd, p.wr)

/-- What the premises of the second part ask of the command and of the state. -/
def plainly (s : State) (k : CmdKind) (v : Vec) (c : Cmd) : Bool :=
  (s.chan 1).cmds == [c] && c.started && decide (c.path = .none) && decide (c.next < c.units) && decide (c.kind = k) && decide (c.vec = v) && c.pulled.isEmpty && !c.lazy &&
    c.skipped.isEmpty && c.redo.isNone && c.newer.isEmpty && !c.stopped && c.retry.isNone && s.accs.isEmpty && s.halves.isEmpty && s.bad.isEmpty && s.clu.saving.isEmpty &&
    s.core.snapshot.isNone

theorem witness_commands_move :
    plainly (queued { going .copy boxCmd with next := 2 }) .copy boxCmd { going .copy boxCmd with next := 2 } = true ∧ cmdInside boxCmd 2 = false ∧ cmdPrune boxCmd = false ∧
    plainly (queued (going .gx rowCmd)) .gx rowCmd (going .gx rowCmd) = true ∧ plainly (queued (going .gxs rowCmd)) .gxs rowCmd (going .gxs rowCmd) = true ∧
    keyOf ((queued (going .gx rowCmd)).cmdCheck 1 .engineRead (cmdAddr rowCmd 1) 4) = some (scratchKey 0 0x200) ∧
    keysOf (State.placeMoves 1 [{ src := 0x400, dst := 0x300, bytes := 8 }, { src := 0x408, dst := 0x308, bytes := 8 }] (queued (going .gx rowCmd))) =
      some [(scratchKey 0 0x400, scratchKey 0 0x300), (scratchKey 0 0x408, scratchKey 0 0x308)] ∧
    (queued (going .gx rowCmd)).unhashed := by
  decide +kernel

theorem witness_prunes :
    plainly (queued (going .copy (pruneCmd 8))) .copy (pruneCmd 8) (going .copy (pruneCmd 8)) = true ∧ cmdPrune (pruneCmd 8) = true ∧
    plainly (queued (going .copy (pruneCmd 4))) .copy (pruneCmd 4) (going .copy (pruneCmd 4)) = true ∧
    (pruneFormat (cmdPfmt (pruneCmd 8)) (cmdEsz (pruneCmd 8))).isSome = true ∧ cmdTotal (pruneCmd 8) = 8 ∧ cmdTotal (pruneCmd 4) = 4 ∧
    ((keysOf (State.placeMoves 1 ((List.range 8).map fun k => { src := cmdSrc (pruneCmd 8) k, dst := cmdDst (pruneCmd 8) (k / 2), bytes := 2 })
      (queued (going .copy (pruneCmd 8))))).map List.length) = some 8 ∧
    keyOf ((queued (going .copy (pruneCmd 8))).cmdCheck 1 .engineWrite (cmdAddr (pruneCmd 8) 7) 1) = some (scratchKey 0 0x500) := by
  decide +kernel

theorem witness_compacts :
    plainly (queued (going .compact compactCmd)) .compact compactCmd (going .compact compactCmd) = true ∧
    keyOf ((queued (going .compact compactCmd)).cmdCheck 1 .engineWrite (cmdAddr compactCmd 2) 4) = some (scratchKey 0 0x300) ∧
    plainly (queued { going .compact compactCmd with next := 1 }) .compact compactCmd { going .compact compactCmd with next := 1 } = true ∧ cmdWord compactCmd 4 = 1 ∧
    plainly chained .compact compactCmd { going .compact compactCmd with ptr := some 0x600 } = true ∧
    keyOf (chained.cmdCheck 1 .engineRead 0x600 8) = some (scratchKey 0 0x600) ∧ keyOf (chained.cmdCheck 1 .engineRead 0x608 8) = some (scratchKey 0 0x608) ∧
    natOfBytes (Memory.read chained.mem (scratchKey 0 0x608) 8) % 2 ^ 32 = 0 ∧
    keysOf (State.placeMoves 1 [{ src := 0x610, dst := 0x400, bytes := 8 }, { src := 0x618, dst := 0x408, bytes := 8 }] chained) =
      some [(scratchKey 0 0x610, scratchKey 0 0x400), (scratchKey 0 0x618, scratchKey 0 0x408)] := by
  decide +kernel

theorem witness_firmware_and_checks :
    ({ going .copy copyCmd with path := FwPath.waiting } : Cmd).next < (going .copy copyCmd).units ∧
    keyOf ((queued (going .copy copyCmd)).cmdCheck 1 .engineRead (cmdSrc copyCmd 0) 8) = some (scratchKey 0 0x200) ∧
    keyOf ((queued (going .copy copyCmd)).cmdCheck 1 .engineWrite (cmdDst copyCmd 0) 8) = some (scratchKey 0 0x300) ∧
    (cmd .copy copyCmd).used = [] ∧ (∃ e, tlbFind cached.micro 0x104000000 = some e ∧ cached.targetAbsent e.leaf = false ∧ cached.leafCheck .engineRead e.leaf 0x104000000 false = .ok ()) ∧
    placeCheck 0x104000000 8 8 = .ok .translated ∧ plainly (queued (going .copy copyCmd)) .copy copyCmd (going .copy copyCmd) = true := by
  refine ⟨by decide +kernel, by decide +kernel, by decide +kernel, by decide +kernel, ⟨_, by rfl, by decide +kernel, by rfl⟩, by rfl, by decide +kernel⟩

/-- A range noted as clashing; a peer that waits at another size; a peer that has executed END. -/
def clashing : List State :=
  [{ ganging with clu := { Cluster.reset with gangClash := [rangeOf 0 2] } },
   { ganging with clu := { Cluster.reset with gangWait := [{ pos := 1, n := 4, since := 0 }] } },
   { ganging with clu := { Cluster.reset with ended := [{ pos := 1, n := 0, since := 0 }] } }]

theorem witness_gang_clashes :
    (∀ s ∈ clashing, s.ctx.wait = none ∧ s.ctx.writes = [] ∧ s.cur = 0 ∧ s.anyHelperLive = false ∧ s.core.gang = none ∧ s.job.redun = false ∧ s.ctx.inTrap = false ∧
      (∀ p ∈ rangeOthers s.position 2, s.clusterCore p ∈ s.job.cores)) ∧
    (∃ s ∈ clashing, rangeOf s.position 2 ∈ s.clu.gangClash) ∧
    (∃ s ∈ clashing, ∃ x ∈ s.clu.gangWait, x.since ≤ s.cycle ∧ x.n ≠ 2 ∧ x.pos / 2 = s.position / 2) ∧
    ∃ s ∈ clashing, ∃ x ∈ s.clu.ended, x.since ≤ s.cycle ∧ x.pos ∈ rangeOthers s.position 2 := by
  refine ⟨by decide +kernel, ⟨_, .head _, by decide⟩, ⟨_, .tail _ (.head _), _, .head _, by decide⟩, ⟨_, .tail _ (.tail _ (.head _)), _, .head _, by decide⟩⟩

/-- A FLUSH behind a store of its own context to its line; x8 = 256 for RGNQ; an unmapped entry. -/
def flushing : State := { outstanding { store2 with key := scratchKey 0 0x200 } with ctxs := base.ctxs.set 0 { ctx0 with x := ctx0.x.set 8 256 } }

theorem witness_flush_waits :
    flushing.ready [.x 1, .x 5, .x 8] ∧ flushing.ctx.inTrap = false ∧ 255 < (flushing.readX 8).toNat ∧
    keyOf (((flushing.issued [.x 1, .x 5]).check .flush 0x200 1 1 flushing.exchange).1, ((flushing.issued [.x 1, .x 5]).check .flush 0x200 1 1 flushing.exchange).2.1)
      = some (scratchKey 0 0x200) ∧
    ∃ y ∈ flushing.accs, y.ctx = flushing.cur ∧ y.op.writes = true ∧ overlaps y.key y.len (scratchKey 0 0x200 / 64 * 64) 64 = true ∧ flushing.within .core y.key = true :=
  ⟨ready_of_idle rfl rfl _, by decide +kernel, by decide +kernel, by decide +kernel, _, .head _, by decide +kernel⟩

/-- Blocked contexts: one in a push with no other live context, and with helper 1 running; another core's port. -/
theorem witness_probes_go :
    (∀ k, k ≠ 0 → ((blocked .push).ctxAt k).live = true → ((blocked .push).blockedIn k).isSome = true) ∧ ((blocked .push).blockedIn 0).isSome = true ∧
    (let s : State := { blocked .push with ctxs := (blocked .push).ctxs.set 1 { Ctx.reset with live := true } }
     (s.ctxAt 1).live = true ∧ (s.blockedIn 1).isSome = false ∧ (s.blockedIn 0).isSome = true) := by
  decide +kernel

/-- One more core's operation at this core's pigeonhole unit, before its turn, at it, and under way. -/
def unitOp (started : Bool) (core : BitVec 12) : UnitOp :=
  { core, jobid := 5, op := .phins 0x2000 1 [(5, 6), (7, 8)], since := 0, done := [], got := [], started }

def unitAt (cyc : Nat) (u : List UnitOp) : State := { tables with cycle := cyc, core := { tables.core with unit := u } }

/-- An atomic of another core that has read and not written. -/
def halved : State := { base with halves := [{ seq := 3, source := 7, key := scratchKey 0 0x300, data := [9, 0, 0, 0, 0, 0, 0, 0] }], seq := 9 }

theorem witness_remote_operations :
    ((unitAt 0 [unitOp false 7]).unitTurn (unitOp false 7) = false ∧ (unitAt 9 [unitOp false 7]).unitTurn (unitOp false 7) = true ∧ (unitAt 0 [unitOp true 7]).unitTurn (unitOp true 7) = true ∧
      (unitAt 9 [unitOp false 7]).job.running = true ∧ (unitAt 9 [unitOp false 7]).tableAt (unitAt 9 [unitOp false 7]).core.num 0x2000 = some table32 ∧
      base.tableAt base.core.num 0x2000 = none ∧ (unitOp false 7).op.table = some 0x2000 ∧ remoteKeys (unitOp false 7).op = [(5, 6), (7, 8)] ∧
      (5 : Word) ≠ BitVec.allOnes 64 ∧ (7 : Word) ≠ BitVec.allOnes 64) ∧
    ((unitAt 9 []).unitHas 7 5 (unitOp false 7).op = false ∧ (unitAt 9 [unitOp false 7]).unitHas 7 5 (unitOp false 7).op = true) := by
  decide +kernel

theorem witness_remote_buckets :
    (let P : PhPlace := { owner := 0, table := table32 }
     let left := ((unitOp true 7).updates table32).filter fun x => !(x.lanes.any fun i => decide (i ∈ (unitOp true 7).done))
     left.length = 2 ∧ (match (State.phRun P (left.take 1) [] (unitAt 9 [unitOp true 7])).2.1 with | .ok rs => decide (rs.length = 1) | _ => false) = true) := by
  decide +kernel

theorem witness_halves :
    halved.halfDone (scratchKey 0 0x300) 8 = true ∧ halved.halfDone (scratchKey 0 0x200) 8 = false ∧ halved.accs = [] ∧ halved.unhashed ∧ halved.core.snapshot = none ∧
    (∀ y ∈ halved.halves, ∀ z ∈ halved.halves, z.seq = y.seq → z = y) := by
  decide +kernel

/-- PHFREE while another core's form on its table is under way. -/
theorem witness_phfree_waits :
    (unitAt 9 [unitOp true 7]).ready [.x 9] ∧ ((unitAt 9 [unitOp true 7]).phTurn { owner := 0, table := table32 } = true ∧ (unitAt 9 [unitOp true 7]).tableBusy { owner := 0, table := table32 } = false) ∧
    (∃ y ∈ (unitAt 9 [unitOp true 7]).core.unit, y.started = true ∧ y.op.table = some table32.base) ∧ ∀ y ∈ tables.core.unit, ¬ (y.started = true ∧ y.op.table = some table32.base) :=
  ⟨ready_of_idle rfl rfl _, by decide +kernel, ⟨_, .head _, by decide⟩, by decide⟩

/-- The saved job's queue head; a job of lower priority that holds its core, on this core and on none; a job that may not move; the order of two saved jobs. -/
def savedAt (p : BitVec 5) : Saved := { saved with job := { job with prio := p } }

def returning (p : BitVec 5) (holder : Job) : State := { State.reset with evicted := [savedAt p], job := holder }

def movable : Job := { job with jobid := 0x01000007, prio := 1, save := 0x90000000, saveLen := 0x200000 }

theorem witness_restores_evict :
    (returning 3 movable).restorable (savedAt 3) = true ∧ (returning 3 movable).job.running = true ∧
    (match (returning 3 movable).victimsBack (savedAt 3).job with | some (h :: hs) => h.ours && hs.isEmpty | _ => false) = true ∧
    nextRestored ((returning 3 movable).evicted.filter (returning 3 movable).restorable) = some (savedAt 3) ∧
    (returning 1 movable).restorable (savedAt 1) = false ∧
    (∀ x ∈ (returning 1 movable).evicted, (returning 1 movable).restorable x = false) ∧
    (restoring.victimsBack saved.job = some []) ∧
    (let s := returning 3 { movable with cores := [9] }
     s.victimsBack (savedAt 3).job = some [] ∧ s.job.running = true ∧ nextRestored (s.evicted.filter s.restorable) = some (savedAt 3)) := by
  decide +kernel

/-- Jobs of other cores: one whose cores a lost die and a reset cluster take, and one that goes on. -/
def elsewhere (cores : List (BitVec 12)) (grain : Nat) : OtherJob :=
  { job := { job with jobid := 0x05000001, cores, space := { job.space with grain } }, saved := false, scratch := [], tookFree := false, groups := [], regions := [], drapers := [] }

def beside (j : OtherJob) : State := { State.reset with dev := { Device.reset with jobs := [j] } }

theorem witness_lost_elsewhere :
    ((elsewhere [768] 0).job.endsWith 1 = true ∧ (elsewhere [0, 768] 4).job.endsWith 1 = false ∧ saved.job.endsWith 0 = true ∧ saved.job.endsWith 1 = false ∧
      ({ saved.job with cores := [0, 768], space := { saved.job.space with grain := 4 } } : Job).endsWith 0 = false) ∧
    ((beside (elsewhere [768] 0)).dev.jobs = [elsewhere [768] 0] ∧ (beside (elsewhere [768] 0)).evicted = [] ∧ (beside (elsewhere [768] 0)).job.running = false ∧
      (elsewhere [768] 0).job.compl.getLsbD 63 = false) ∧
    (restoring.dev.jobs = [] ∧ restoring.evicted = [saved] ∧ ∀ m, (saved.ctxs.get m).takeOrder = []) ∧
    (∃ k ∈ (elsewhere [768] 0).job.cores, k.toNat / 32 = (req 24 0).addr) ∧ (elsewhere [768] 0).saved = false := by
  decide +kernel

/-- A context of this core waits at a port of a cluster that is reset, while another cluster's route is open into this core. -/
theorem witness_store_retry :
    (outstanding retried).accs = [retried] ∧ (∃ d, retried.op = .store d) ∧ retried.after = [] ∧ (outstanding retried).unhashed ∧ (outstanding retried).core.snapshot = none ∧
    ((outstanding retried).ctxAt 0).badLanes = [] ∧ (outstanding store2).accs = [store2] ∧ store2.retry = none := by
  refine ⟨by decide, ⟨_, rfl⟩, by decide, by decide, by decide, by decide, by decide, by decide⟩

/-- An instruction stalled on a stream, which the step serves no issue; an instruction of each kind of use. -/
def stallAdd : Instr := .vadd false 7 0 5 (.int .s8) 0 (some { sat := false, ds := false, dsn := 0, as := true, asn := 1, bs := false, bsn := 0 })

def stalling : State := { streaming with mem := Memory.write [] (scratchKey 0 0x100) (encodeBytes stallAdd) }

theorem witness_stalls_and_uses :
    (match decodeBytes (encodeBytes stallAdd) with | .ok (i, []) => decide (i = stallAdd) | _ => false) = true ∧
    (let f := stalling.tick.begin 0
     stalling.tick.readyAt 0 = true ∧ f.ctx.frame = [] ∧ (∀ m, stalling.tick.attends m = false) ∧
       (match exec stallAdd f with | .next v => v.stalled | _ => false) = true) ∧
    usesOf (.add false 7 1 2 .s64 .wrap) = some ([.x 1, .x 2], [.x 7]) ∧
    (∀ q : BitVec 2, (base.stream q).ready ≤ base.cycle ∧ (base.stream q).remain = 0) ∧ (streamed true).cycle = 0 ∧
    (∀ e < ((streamed true).stream 1).remain, (((streamed true).stream 1).fetched? e).isSome = true) := by
  decide +kernel

/-- A loom that a member's END has broken. -/
def brokenLoom : State :=
  { woven (fun l => { l with armed := true }) with clu := { Cluster.reset with ended := [{ pos := 3, n := 0, since := 0 }] } }

theorem witness_broken_loom :
    brokenLoom.core.loom.size ≠ 0 ∧ brokenLoom.loomBroken = true ∧ brokenLoom.cur = 0 ∧ brokenLoom.ctx.wait = none ∧ brokenLoom.ctx.writes = [] ∧
    (woven running).core.loom.size ≠ 0 ∧ (woven running).loomBroken = false ∧ (woven running).weaving = true ∧
    (let l := (woven id).core.loom
     l.lpos < 32 ∧ l.pick < 32 ∧ l.out < 2 ^ 15 ∧ l.exp < 2 ^ 16 ∧ l.valid < 2 ^ 16) ∧
    natBits (1 : Word).toNat 6 0 ≠ 0 ∧ (woven id).core.loom.badGo 1 = false ∧
    ({ woven id with core := { (woven id).core with matrix := Matrix.reset } } : State).core.matrix.weight = 0 := by
  decide +kernel

/-- A target whose multicast buffer another tile holds; and a target in a cluster that has been reset. -/
theorem witness_multicast_waits :
    (let s : State := { base with core := { Core.reset with mcasts := [mcast0, { mcast0 with seq := 6, holds := some 1 }] } }
     mcast0 ∈ s.core.mcasts ∧ (∀ u ∈ s.core.mcasts, u.seq = mcast0.seq → u = mcast0) ∧ s.bufferTaken mcast0 1 = true ∧ mcast0.resets.any (inCluster · 1) = false) ∧
    (hopping mcast0 [] false).bufferTaken mcast0 1 = false ∧ ({ mcast0 with resets := [0] } : Mcast).resets.any (inCluster · 1) = true := by
  decide +kernel

/-- A key whose bucket has spilled and whose spill bucket is not mapped; and a context whose access is to be sent again. -/
def spilledTable : State :=
  { tables with micro := [], mem := Memory.write [] (scratchKey 0 (0x2000 + 128 * table32.home 0)) (({ items := [], spilled := 1 } : Bucket).bytes false) }

def resending : State :=
  { tables with cycle := 512, ctxs := tables.ctxs.set 0 { tables.ctx with wait := some { tables.ctx.waiting .other 1 0x2000 0 with since := 0 } } }

theorem witness_pigeonhole_failures :
    (bucketOf (Memory.read spilledTable.mem (scratchKey 0 (0x2000 + 128 * table32.home 0)) 128)).spilled = 1 ∧
    (match (State.phRun { owner := 0, table := table32 } (phUpdates table32 (fun _ => 0) fun _ => .prb) [] spilledTable).2.1 with
      | .error f => decide (f.cause = 0x04) | _ => false) = true ∧
    resending.ctx.wait.isSome = true ∧ resending.resends = true ∧ resending.accs = [] ∧ resending.phTurn { owner := 0, table := table32 } = true ∧
    resending.tableBusy { owner := 0, table := table32 } = false ∧ resending.retried (({ owner := 0, table := table32 } : PhPlace).homeKey 0) = false := by
  decide +kernel

/-- The saved job of other cores at the head of queue 5: its cores free, held by a job of lower priority, held by one that is not lower, and outranked. -/
def savedOther (p : BitVec 5) : OtherJob := { elsewhere [9] 0 with job := { (elsewhere [9] 0).job with prio := p }, saved := true }

def holderOther (p : BitVec 5) : OtherJob := { elsewhere [9] 0 with job := { (elsewhere [9] 0).job with jobid := 0x06000001, prio := p } }

def besides (l : List OtherJob) : State := { State.reset with dev := { Device.reset with jobs := l } }

theorem witness_saved_heads :
    (let s := besides [savedOther 3]
     let j := (savedOther 3).job
     s.savedHead 5 = some (j, false) ∧ s.outranked (savedAsHead j 5) = false ∧ s.victimsBack j = some [] ∧ (s.dev.queue 5).en = false ∧
       s.dev.jobs.find? (fun y => y.saved && decide (y.job = j)) = some (savedOther 3)) ∧
    (let s := besides [savedOther 3, holderOther 1]
     match s.victimsBack (savedOther 3).job with | some (h :: hs) => !h.ours && hs.isEmpty | _ => false) = true ∧
    (besides [savedOther 3, holderOther 3]).victimsBack (savedOther 3).job = none ∧
    (∀ j ∈ (besides [savedOther 3, holderOther 1]).dev.jobs, j.saved = false → j.job.jobid = 0x06000001) ∧ (besides []).savedHead 5 = none := by
  decide +kernel

/-- The power state register, read in a bring-up that has come to its end and in one that has not; a peer device's read, write and atomic in D0. -/
theorem witness_configuration_space :
    (hosting Config.pmcsr 0 enabled 0).inbox = [req Config.pmcsr 0] ∧ (req Config.pmcsr 0).addr = Config.pmcsr ∧ 5 ≤ Device.reset.bringUp ∧ ({ Device.reset with bringUp := 3 } : Device).bringUp < 5 ∧
    Device.reset.power = .d0 ∧ (req 0 0).write = true ∧ ({ req 0 0 with write := false } : HostReq).n = 0 ∧ ({ req 0 0 with write := false, n := 4 } : HostReq).n ≠ 0 ∧
    (halved.halfDone 0 8 = false ∧ halved.bad = []) ∧ ({ Device.reset with power := .d3hot } : Device).power ≠ .d0 := by
  refine ⟨rfl, rfl, ?_⟩
  decide

/-- A claim on a job of other cores and on an evicted one, stopped and not; and the steps of a bring-up. -/
def claimedOther (st : Bool) : State :=
  { besides [elsewhere [9] 0] with dev := { (besides [elsewhere [9] 0]).dev with dbgClaimed := true, dbgJob := 0x05000001, dbgStopped := st } }

theorem witness_claims_elsewhere :
    (let s := claimedOther false
     s.dev.dbgClaimed = true ∧ s.dev.dbgStopped = false ∧ s.job.running = false ∧ (s.evicted.find? fun y => decide (y.job.jobid = s.dev.dbgJob)) = none ∧
       s.dev.jobs = [elsewhere [9] 0] ∧ (elsewhere [9] 0).job.jobid = s.dev.dbgJob ∧ (elsewhere [9] 0).job.compl.getLsbD 63 = false) ∧
    (let s : State := { claimedAway with dev := { claimedAway.dev with dbgStopped := true }, inbox := [req 0 0] }
     s.dev.dbgStopped = true ∧ s.job.running = false ∧ (s.evicted.find? fun y => decide (y.job.jobid = s.dev.dbgJob)) = some saved ∧
       natBits (req 0 0).value.toNat 23 20 = (0 : Fin 11).val ∧ natBits (req 0 0).value.toNat 19 8 = s.core.num.toNat) ∧
    (∀ n : Fin 4, ({ State.reset with dev := { Device.reset with bringUp := n.val + 1 } } : State).dev.power = .d0) ∧
    ((req 3072 0).addr < 3456 ∧ ∃ i < 8, base.job.running = true ∧ BitVec.ofNat 12 (((req 3072 0).addr - 3072) * 8 + i) ∈ base.job.cores) ∧
    ((req 9 0).addr < 3072 ∧ ∃ j ∈ (besides [elsewhere [9] 0]).dev.jobs, j.saved = false ∧ BitVec.ofNat 12 (req 9 0).addr ∈ j.job.cores) := by
  refine ⟨by decide +kernel, by decide +kernel, by decide, ⟨by decide, 0, by decide⟩, by decide⟩

/-- The torn-down queue's job runs on other cores. -/
theorem witness_teardown_elsewhere :
    (let s : State := { besides [elsewhere [9] 0] with inbox := [req 0x10160 2] }
     natBits (elsewhere [9] 0).job.jobid.toNat 31 24 = 5 ∧ ((req 0x10160 2).addr - 0x10000) / 64 % 256 = 5 ∧ s.dev.jobs = [elsewhere [9] 0] ∧ s.evicted = [] ∧ s.job.running = false ∧
       (s.dev.queue 5).td = false ∧ (s.dev.queue 5).tail = (s.dev.queue 5).head) := by
  decide

/-! ## Single steps, with results worked out by hand from the rules -/

/-- Register x7 of the state after an instruction. -/
def x7 (i : Instr) (s : State) : Word :=
  match exec i s with
  | .next t => t.ctx.readX 7
  | _ => 0xBAD

def vals (a b : Word) : State := on { ctx0 with x := (ctx0.x.set 8 a).set 9 b }

/-- R108, R109: 127 + 1 in .s8 wraps to −128 and saturates at 127; 0 − 1 in .z16 is 65,535, and 0 saturated. -/
theorem test_add_sub_narrow :
    x7 (.add false 7 8 9 .s8 .wrap) (vals 127 1) = -128 ∧ x7 (.add false 7 8 9 .s8 .sat) (vals 127 1) = 127 ∧
    x7 (.sub false 7 8 9 .z16 .wrap) (vals 0 1) = 65535 ∧ x7 (.sub false 7 8 9 .z16 .sat) (vals 0 1) = 0 := by decide +kernel

/-- R111: the least .s64 number divided by −1 wraps, with remainder 0; a zero divisor gives −1 and the dividend. The results come with a latency of 26. -/
theorem test_div_rem_corners :
    after (.div false 7 8 9 .s64) (vals 0x8000000000000000 (-1)) (fun t => t.ctx.writes.map (fun w => w.val.toNat) = [0x8000000000000000]) = true ∧
    after (.rem false 7 8 9 .s64) (vals 0x8000000000000000 (-1)) (fun t => t.ctx.writes.map (fun w => w.val.toNat) = [0]) = true ∧
    after (.div false 7 8 9 .s32) (vals 5 0) (fun t => t.ctx.writes.map (fun w => w.val.toNat % 2 ^ 64) = [0xFFFFFFFFFFFFFFFF]) = true ∧
    after (.rem false 7 8 9 .s32) (vals (-7) 0) (fun t => t.ctx.writes.map (fun w => w.val.toNat % 2 ^ 64) = [0xFFFFFFFFFFFFFFF9]) = true := by decide +kernel

/-- R112: a count of 40 shifts a 32-bit number out; SRA keeps its sign. Bit 6 of the count is not read. -/
theorem test_shifts_by_more_than_the_width :
    x7 (.shl false 7 8 9 .z32) (vals 1 40) = 0 ∧ x7 (.sra false 7 8 9 .s32) (vals 0x80000000 40) = -1 ∧ x7 (.shl false 7 8 9 .z64) (vals 1 65) = 2 := by decide +kernel

/-- R109, R117: CLZ of 1 in .z32 is 31, CTZ of 0 in .z16 is 16; −1 is below 0 signed, and above it unsigned. -/
theorem test_counts_and_orders :
    x7 (.clz false 7 8 .z32) (vals 1 0) = 31 ∧ x7 (.ctz false 7 8 .z16) (vals 0 0) = 16 ∧ x7 (.slt false 7 8 9 .s64) (vals (-1) 0) = 1 ∧
    x7 (.slt false 7 8 9 .z64) (vals (-1) 0) = 0 := by decide +kernel

/-- R113: the field of 8 bits from bit 60 is cut at bit 63. -/
theorem test_bfx_is_cut_at_bit_63 : x7 (.bfx false 7 8 9 .z64) (vals 0xF000000000000000 (60 + 7 * 256)) = 0xF := by decide +kernel

/-- R24: a write to x0 is discarded. R110: an immediate of 13 bits is sign-extended, and one of 37 bits has the EXT payload above it. -/
theorem test_immediates_and_x0 :
    x7 (.movi false 7 0x1FFF none) base = -1 ∧ x7 (.movi false 7 0x6A0 (some 0xC)) base = 0x186A0 ∧
    after (.movi false 0 5 none) base (fun t => t.ctx.readX 0 = 0) = true := by decide +kernel

/-- R118 to R120: PCMP fills its predicate; SEL reads bit 0 of its. -/
theorem test_predicates :
    after (.pcmp false 2 3 2 .s64 .lt) base (fun t => t.ctx.readP 2 = -1) = true ∧ x7 (.sel false 7 1 2 1) base = 0x200 ∧ x7 (.sel false 7 1 2 2) base = 3 := by
  decide +kernel

/-- R121, R123: a branch of −3 words from 0x100 goes to 0xF4; CALL leaves 0x104 in x31. -/
theorem test_branch_and_call :
    after (.br false (-3) none) base (fun t => t.ctx.pc = 0xF4) = true ∧ after (.call false 0x10 none) base (fun t => t.ctx.pc = 0x140 ∧ t.ctx.readX 31 = 0x104) = true := by
  decide +kernel

/-- R126: LOOP with a count of 0 skips the body of three words; with 3 it starts it. -/
theorem test_loop_skips_or_starts :
    after (.loop false 0 5 2 none) base (fun t => t.ctx.pc = 0x110 ∧ t.ctx.le.get 0 = 0) = true ∧
    after (.loop false 0 2 2 none) base (fun t => t.ctx.pc = 0x104 ∧ t.ctx.le.get 0 = 0x10C ∧ t.ctx.lc.get 0 = 3) = true := by decide +kernel

/-- R140, R141, R147: TRAP #0x21 enters the handler at 0x40 with cause 0x15, NEXT and the return address 0x104; RTE comes back. -/
theorem test_trap_and_return :
    after (.trap false 0x21) base (fun t => t.ctx.pc = 0x40 ∧ t.ctx.traprec.get 0 = 0x0000002100010015 ∧ t.ctx.traprec.get 1 = 0x104 ∧ t.ctx.traprec.get 2 = 0x100) = true ∧
    after (.rte false) inHandler (fun t => t.ctx.pc = 0x204 ∧ t.ctx.inTrap = false) = true := by decide +kernel

/-- R122: RET to 0x142 is an address fault with DETAIL 4 and the target in TRAPREC3. -/
theorem test_misaligned_return :
    after (.ret false) (on { ctx0 with x := ctx0.x.set 31 0x142 }) (fun t => t.ctx.pc = 0x40 ∧ t.ctx.traprec.get 0 = 0x0000000400000003 ∧ t.ctx.traprec.get 3 = 0x142) = true := by
  decide +kernel

/-- R133: HSTART sets x1 of helper 2, and its target counts from the HSTART. -/
theorem test_hstart :
    after (.hstart false 2 1 8 none) base (fun t => (t.ctxAt 2).live = true ∧ (t.ctxAt 2).pc = 0x120 ∧ (t.ctxAt 2).readX 1 = 0x200 ∧ (t.ctxAt 2).readX 2 = 0) = true := by
  decide +kernel

/-- R49, R140: an ADD that reads a register still waited for sets HAZ; with CHK its trap is raised, and waits for the write. -/
theorem test_hazard :
    after (.add false 8 7 2 .s64 .wrap) (hazarding false 1) (fun t => t.ctx.haz = true ∧ t.ctx.readX 8 = 3) = true ∧
    after (.add false 8 7 2 .s64 .wrap) (hazarding true 0) (fun t => t.ctx.trapping = some (TrapInfo.at 0x100 9 0x700 0) ∧ t.ctx.pc = 0x100) = true := by decide +kernel

/-- R54: MFC of CTXST in the handler of context 0 gives INTRAP, bit 10. -/
theorem test_ctxst : after (.mfc false 7 .ctxst) inHandler (fun t => t.ctx.writes.map (fun w => w.val.toNat) = [0x400]) = true := by decide +kernel

/-- R172: lanes of .s8 saturate one by one: 127 + 1 and −128 − 1. -/
theorem test_vector_saturates :
    after (.vadd false 3 1 2 (.int .s8) 0 satOnly) (on { ctx0 with v := (ctx0.v.set 1 0x807F).set 2 0xFF01 })
      (fun t => t.ctx.writes.map (fun w => w.val.toNat) = [0x807F]) = true := by decide +kernel

/-- R84, R171: 1.0 + 1.0 in .bf16 lanes is 2.0, and a NaN gives the quiet NaN. -/
theorem test_bf16_lanes :
    fmtBf16.round ((fmtBf16.value 0x3F80).add (fmtBf16.value 0x3F80)) = 0x4000 ∧ fmtBf16.round ((fmtBf16.value 0x7F81).add (fmtBf16.value 0x3F80)) = fmtBf16.nanCode ∧
    fmtE4m3.value 0x7E = .num false 448 0 ∨ fmtE4m3.round (fmtE4m3.value 0x7E) = 0x7E := by decide +kernel

/-- R189: a byte loaded with sign; a store of two bytes puts the low byte first, when it is performed. -/
theorem test_load_extends_and_store_is_little_endian :
    loadWord .s8 [0x80] = -128 ∧ loadWord .z16 [0x34, 0x12] = 0x1234 ∧
    (match exec (.st false 6 1 5 .w16 .dev false 0 none) base with
      | .next t => after (.accessPerformed 1) t (fun u => Memory.byte u.mem (scratchKey 0 0x200) = 0x82 ∧ Memory.byte u.mem (scratchKey 0 0x201) = 0)
      | _ => false) = true := by decide +kernel

/-- R196: a misaligned load is an address fault with DETAIL 3; a store in a claimed area is cause 6. -/
theorem test_access_faults :
    after (.ld false 7 6 5 .z32 .dev false 0 none) base (fun t => t.ctx.traprec.get 0 = 0x0000000300000003 ∧ t.ctx.traprec.get 3 = 0x82) = true ∧
    after (.st false 7 1 1 .w64 .dev false 0 none) (paired false) (fun t => natBits (t.ctx.traprec.get 0).toNat 7 0 = 6) = true := by decide +kernel

/-- R216, R222: LDT makes its slot pending with its address; a second one finds the tag busy. -/
theorem test_ldt :
    after (.ldt false 2 1 5 (.scalar .z32) 0 none) base (fun t => (t.ctx.slot 2).state = .pending ∧ (t.ctx.slot 2).addr = 0x200 ∧ t.accs.length = 1) = true ∧
    after (.ldt false 2 1 5 (.scalar .z32) 0 none) (withSlot .pending) (fun t => natBits (t.ctx.traprec.get 0).toNat 7 0 = 0x0B ∧ natBits (t.ctx.traprec.get 0).toNat 63 32 = 0x102) = true := by
  decide +kernel

/-- R284: an AMO.add of 5 to 7 at the cluster scope returns 7 and leaves 12. -/
theorem test_amo :
    (match exec (.amo false 7 1 8 .add .core false .z64) { vals 5 0 with mem := Memory.write [] (scratchKey 0 0x200) [7] } with
      | .next t => after (.accessPerformed 2) t (fun u => Memory.byte u.mem (scratchKey 0 0x200) = 12 ∧ u.ctx.writes.map (fun w => w.val.toNat) = [7])
      | _ => false) = true := by decide +kernel

/-- R289: FPUT to an empty word makes it full; FTAKE empties it. -/
theorem test_full_empty :
    after (.fput false 1 2 .clu) base (fun t => t.isFull (scratchKey 0 0x200) = true ∧ Memory.byte t.mem (scratchKey 0 0x200) = 3) = true ∧
    after (.ftake false 7 1 .clu) (wordy true) (fun t => t.isFull (scratchKey 0 0x200) = false) = true := by decide +kernel

/-- R238, R241: QPUSH puts the command behind its queue; QPOP takes the oldest element. -/
theorem test_queues :
    after (.qpush false 1 2 .dev) (pushing copyCmd false) (fun t => (t.chan 1).cmds.length = 1 ∧ t.agenda = [.commandStart 1]) = true ∧
    after (.qpop false 7 1) (popping none) (fun t => (t.chan 1).ready.length = 0 ∧ t.ctx.writes.map (fun w => w.val.toNat) = [6]) = true := by decide +kernel

/-- R263, R264: with two arrivals of two the root's network cycle completes phase 5. -/
theorem test_barrier_completes :
    after (.arrival 3 0 0 none) (grouped true 2 false) (fun t => (t.group 3).phase = 6 ∧ (t.group 3).arrived = 0 ∧ t.agenda = [.completionBroadcast 3 5]) = true ∧
    after (.wait false 4 3) (grouped true 0 false) (fun t => t.ctx.pc = 0x104) = true := by decide +kernel

/-- R273, R274, R280: a pulse of source 7 waits for the next network cycle, in which term 4 fires and takes the threshold; its action comes one
network cycle later. -/
theorem test_bellboard : after (.pulse 7) (ringing 1 false) (fun t => (t.clu.counters.get 2).pulses = 2) = true ∧
    after (.pulse 255) (ringing 1 false) (fun t => (t.clu.terms.get 4).cred = 0 ∧ (t.clu.counters.get 2).count = 0 ∧ t.clu.boardActs.map (·.1) = [2]) = true ∧
    after (.pulse 255) (acting 1) (fun t => (t.clu.terms.get 4).cred = 1 ∧ t.clu.boardActs = []) = true := by decide +kernel

/-- R366, R372: an insertion into an empty table, and its probe. -/
theorem test_pigeonhole :
    after (.phins false 2 9 2 false) tables (fun t => findKey (bucketOf (Memory.read t.mem (scratchKey 0 (0x2000 + 128 * table32.home 3)) 128)).items 3 = some 3) = true ∧
    after (.phprb false 7 9 2 false) holding (fun t => t.ctx.writes.map (fun w => w.val.toNat) = [9, 0xFFFFFFFFFFFFFFFF]) = true := by decide +kernel

/-- R385, R386: a word sent to the own port waits there. -/
theorem test_send_to_the_own_port :
    after (.psend false 2 false false) (porting .opened 0 [] (bound 1 0 0 0) false) (fun t => (t.port 0).buf = [some 3] ∧ (t.port 0).state = .route ∧ t.ctx.send.sst = 2) = true := by
  decide +kernel

/-- R332, R345: MCTX of 0 joins the queue, and its completion puts the format in force. -/
theorem test_mctx :
    (match exec (.mctx false 5) (matrixed []) with
      | .next t => after .matrixCommandComplete t (fun u => u.core.matrix.fmt = fmtOfWord 0 ∧ u.core.matrix.queue = [])
      | _ => false) = true := by decide +kernel

/-- R405, R411: a doorbell moves the tail; R411, R412: END of a job alone writes DONE at COMPL. -/
theorem test_doorbell_and_done :
    after .doorbell (hosting 0x10018 1 enabled 0) (fun t => (t.dev.queue 0).tail = 1) = true ∧
    after .coreFree ending (fun t => Memory.byte t.mem (hbmKey 0x1007) = 1 ∧ Memory.byte t.mem (hbmKey 0x1000) = 5 ∧ t.job.running = false) = true := by decide +kernel

/-- R407, R410: the packet is launched on core 0 with its CODE as the program counter. -/
theorem test_launch : after (.dispatch 0 [0]) startable (fun t => t.ctx.pc = 0x100 ∧ t.ctx.live = true ∧ (t.dev.queue 0).head = 1) = true := by decide +kernel

end Sys2Proof.Tests
end

section
/-! SUPPORT. The scalar arithmetic: what an instruction of two or one x registers gives, what quotient and remainder are (R111), and what a shift
by the width or more leaves (R112). -/

namespace Sys2Proof.Machine

open Sys2Proof

/-! ## From an instruction's meaning to what it gives -/

/-- An instruction whose meaning is a function of two x registers gives that function's value. -/
theorem State.binary_gives {s : State} {i : Instr} {sw : Bool} {d a b : BitVec 5} {lat : Nat} (f : Word → Word → Word)
    (h : exec i s = .next (s.binary sw d a b lat f)) :
    s.gives i [.x a, .x b, .x d] sw 4 (.x d) (wide (f (s.readX a) (s.readX b))) lat :=
  fun hr => ⟨_, h, State.binary_computes hr sw lat f⟩

/-- An instruction whose meaning is a function of one x register gives that function's value. -/
theorem State.unary_gives {s : State} {i : Instr} {sw : Bool} {d a : BitVec 5} {lat size : Nat} (f : Word → Word)
    (h : exec i s = .next (s.unary sw d a lat size f)) :
    s.gives i [.x a, .x d] sw size (.x d) (wide (f (s.readX a))) lat :=
  fun hr => ⟨_, h, State.unary_computes hr sw lat size f⟩

/-! ## Quotient and remainder (R111) -/

@[simp] theorem quotient_zero (a : Int) : quotient a 0 = -1 := if_pos rfl

@[simp] theorem remainder_zero (a : Int) : remainder a 0 = a := if_pos rfl

theorem quotient_of_ne {b : Int} (h : b ≠ 0) (a : Int) : quotient a b = a.tdiv b := if_neg h

/-- By a divisor that is not zero, REM leaves what truncated division leaves. -/
theorem remainder_of_ne {b : Int} (h : b ≠ 0) (a : Int) : remainder a b = a.tmod b :=
  (if_neg h).trans (Int.tmod_def a b).symm

theorem eq_mul_quotient_add_remainder {b : Int} (h : b ≠ 0) (a : Int) : a = b * quotient a b + remainder a b := by
  rw [quotient_of_ne h, remainder_of_ne h]
  exact (Int.mul_tdiv_add_tmod a b).symm

theorem abs_remainder_lt {b : Int} (h : b ≠ 0) (a : Int) : |remainder a b| < |b| := by
  rw [remainder_of_ne h, Int.abs_eq_natAbs, Int.abs_eq_natAbs, Int.natAbs_tmod]
  exact Int.ofNat_lt.2 (Nat.mod_lt _ (Int.natAbs_pos.2 h))

/-- A remainder that is not zero has the sign of the dividend. -/
theorem remainder_eq_zero_or_neg_iff {b : Int} (h : b ≠ 0) (a : Int) :
    remainder a b = 0 ∨ (remainder a b < 0 ↔ a < 0) := by
  rw [remainder_of_ne h]
  by_cases hd : b ∣ a
  · exact .inl (Int.tmod_eq_zero_of_dvd hd)
  · have sign : (a.tmod b).sign = a.sign := (Int.sign_tmod a b).trans (if_neg hd)
    right
    rw [← Int.sign_eq_neg_one_iff_neg, sign, Int.sign_eq_neg_one_iff_neg]

/-! ## Wrapped results (R108) -/

theorem width_pos (t : IntTy) : 0 < t.width := by cases t <;> decide

/-- A wrapped result depends on the exact one modulo 2^w only. -/
theorem typedWord_wrap_congr {t : IntTy} {y z : Int} (h : y % (2 : Int) ^ t.width = z % (2 : Int) ^ t.width) :
    typedWord t .wrap y = typedWord t .wrap z := by
  simp only [typedWord, narrowInt, h]

@[simp] theorem typedWord_wrap_zero (t : IntTy) : typedWord t .wrap 0 = 0 := by
  cases t <;> decide

/-! ## Shifts (R112) -/

/-- `sext` at a type's width, without the case of no bits. -/
theorem sextNat_width (t : IntTy) (v : Nat) :
    sextNat v t.width =
      if v % 2 ^ t.width < 2 ^ (t.width - 1) then ((v % 2 ^ t.width : Nat) : Int)
      else ((v % 2 ^ t.width : Nat) : Int) - (2 : Int) ^ t.width :=
  if_neg (width_pos t).ne'

/-- Every bit that SHL leaves after a count of the width or more is above the type. -/
theorem typedWord_shlInt_of_width_le {t : IntTy} {b : Word} (h : t.width ≤ shiftCount b) (a : Word) :
    typedWord t .wrap (shlInt t a b) = 0 := by
  have dvd : (2 : Int) ^ t.width ∣ shlInt t a b := by
    rw [shlInt, Nat.cast_mul, Nat.cast_pow]
    exact (pow_dvd_pow 2 h).mul_left _
  rw [← typedWord_wrap_zero t]
  exact typedWord_wrap_congr (by rw [Int.emod_eq_zero_of_dvd dvd, Int.zero_emod])

theorem shrInt_of_width_le {t : IntTy} {b : Word} (h : t.width ≤ shiftCount b) (a : Word) : shrInt t a b = 0 := by
  have small : a.toNat % 2 ^ t.width < 2 ^ shiftCount b :=
    (Nat.mod_lt _ (Nat.two_pow_pos _)).trans_le (Nat.pow_le_pow_right two_pos h)
  rw [shrInt, Nat.div_eq_of_lt small, Nat.cast_zero]

/-- Only copies of bit w − 1 are left by SRA with a count of the width or more. -/
theorem sraInt_of_width_le {t : IntTy} {b : Word} (h : t.width ≤ shiftCount b) (a : Word) :
    sraInt t a b = if a.toNat % 2 ^ t.width < 2 ^ (t.width - 1) then 0 else -1 := by
  have bound : ((a.toNat % 2 ^ t.width : Nat) : Int) < (2 : Int) ^ t.width :=
    mod_cast Nat.mod_lt a.toNat (Nat.two_pow_pos t.width)
  have le : (2 : Int) ^ t.width ≤ (2 : Int) ^ shiftCount b := pow_le_pow_right₀ one_le_two h
  rw [sraInt, sextNat_width]
  split
  · exact Int.ediv_eq_zero_of_lt (Int.natCast_nonneg _) (bound.trans_le le)
  · exact Int.ediv_eq_neg_one_of_neg_of_le (by omega) (by omega)

end Sys2Proof.Machine
end

section
/-! PROOF. The scalar statements: results of arithmetic (R109, R111) and of shifts (R112). -/

namespace Sys2Proof.Machine

open Sys2Proof

/-- Settles O2: each instruction is `binary` or `unary` of its operation, and DIV and REM give `quotient` and `remainder`. -/
theorem addSubMulDivGiveTheirTypedResult : Obligations.AddSubMulDivGiveTheirTypedResult := by
  unfold Obligations.AddSubMulDivGiveTheirTypedResult
  refine ⟨fun s sw d a b t v => ⟨?_, ?_, ?_, ?_⟩, fun s sw d a b t => ⟨?_, ?_⟩⟩
  · exact State.binary_gives (typed2 t v (· + ·)) rfl
  · exact State.binary_gives (typed2 t v (· - ·)) rfl
  · exact State.binary_gives (typed2 t v (· * ·)) rfl
  · exact State.unary_gives (typed1 t v fun x => |x|) rfl
  · exact State.binary_gives (typed2 t .wrap fun x y => x * y / (2 : Int) ^ 64) rfl
  · refine ⟨quotient (extWord t (s.readX a)) (extWord t (s.readX b)),
      remainder (extWord t (s.readX a)) (extWord t (s.readX b)), fun h => ?_, fun h => ?_, ?_, ?_⟩
    · rw [h]
      exact ⟨quotient_zero _, remainder_zero _⟩
    · exact ⟨eq_mul_quotient_add_remainder h _, abs_remainder_lt h _, remainder_eq_zero_or_neg_iff h _⟩
    · exact State.binary_gives (typed2 t .wrap quotient) rfl
    · exact State.binary_gives (typed2 t .wrap remainder) rfl

/-- Settles O4: each shift is `binary` of its operation, and a count of the width or more leaves no bit of xA, or copies of bit w − 1. -/
theorem shiftsTakeBitsFiveToZeroOfTheCount : Obligations.ShiftsTakeBitsFiveToZeroOfTheCount := by
  unfold Obligations.ShiftsTakeBitsFiveToZeroOfTheCount
  intro s sw d a b t n u i rs
  have sra : sraInt t (s.readX a) (s.readX b) = i / (2 : Int) ^ n := by
    rw [sraInt, sextNat_width]
    rfl
  refine ⟨typedWord t .wrap (shlInt t (s.readX a) (s.readX b)), typedWord t .wrap (shrInt t (s.readX a) (s.readX b)),
    typedWord t .wrap (sraInt t (s.readX a) (s.readX b)), ?_, rfl, ?_, rfl, ?_, by rw [sra], fun h => ⟨?_, ?_, ?_⟩⟩
  · exact State.binary_gives (fun x y => typedWord t .wrap (shlInt t x y)) rfl
  · exact State.binary_gives (fun x y => typedWord t .wrap (shrInt t x y)) rfl
  · exact State.binary_gives (fun x y => typedWord t .wrap (sraInt t x y)) rfl
  · exact typedWord_shlInt_of_width_le h _
  · rw [shrInt_of_width_le h, typedWord_wrap_zero]
  · rw [sraInt_of_width_le h]

end Sys2Proof.Machine
end

section
/-! SUPPORT. An instruction that issues without a hazard and writes no register: what it has changed when it completes, or waits; and the
contexts beside the one that issues (R47, R49, R152). -/

namespace Sys2Proof.Machine

open Sys2Proof

/-! ## Issuing, and then completing or waiting -/

/-- An instruction that meets no hazard does its work in the state that has noted its taint (R49). -/
theorem State.issue_issued {s : State} {rs ws : List Reg} (h : s.ready (rs ++ ws)) (k : State → State) :
    s.issue rs ws k = k (s.issued rs) :=
  State.issue_ready h k

theorem State.issued_ctx (s : State) (rs : List Reg) :
    (s.issued rs).ctx = { s.ctx with inTaint := s.ctx.taintOf (rs.map .reg) } :=
  s.ctx_modCtx _

theorem State.issued_wait {s : State} (h : s.ctx.wait = none) (rs : List Reg) : (s.issued rs).ctx.wait = none := by
  rw [State.issued_ctx]
  exact h

/-- An instruction that notes the taint of what it reads and completes has changed nothing but the place it goes on from. -/
theorem State.issued_retireAfter_passes (s : State) (rs : List Reg) (sw : Bool) (size gap : Nat) :
    s.passes ((s.issued rs).retireAfter sw size gap) sw size gap := by
  obtain ⟨wait, parked, next, place⟩ := (s.issued rs).retireAfter_goesOn sw size gap
  obtain ⟨regs, writes⟩ := (s.issued rs).retireAfter_sameRegs sw size gap
  rw [State.issued_ctx] at place writes
  refine ⟨?_, ?_, ⟨wait, parked, next, place⟩, fun r => ?_, writes⟩
  · simp [State.onlyCtx, State.retireAfter, State.issued, State.modCtx, State.setCtx, State.ctx]
  · unfold Ctx.onlyRegs
    simp only [State.retireAfter, State.ctx_modCtx]
    rw [Ctx.sequential_only, State.issued_ctx]
  · rw [regs, State.issued_ctx, Ctx.reg_inTaint]

/-- The operand of a waiting instruction is what its register holds when it issues (R152). -/
theorem State.waitValue_issued (s : State) (h : s.ctx.wait = none) (rs : List Reg) (a : BitVec 5) :
    (s.issued rs).waitValue a = s.readX a := by
  unfold State.waitValue
  rw [State.issued_wait h]
  exact s.readX_inTaint _ a

/-- An instruction that issues and waits has changed nothing but its wait (R152). -/
theorem State.issued_block_waits (s : State) (h : s.ctx.wait = none) (rs : List Reg) (kind : WaitKind) (q : BitVec 8) (addr : Word) :
    s.waits ((s.issued rs).block kind q addr) := by
  have ctx : ((s.issued rs).block kind q addr).ctx =
      { (s.issued rs).ctx with wait := some ((s.issued rs).ctx.waiting kind q addr s.cycle), nextIssue := s.cycle + 1 } := by
    rw [State.block, State.ctx_modCtx, State.issued_wait h]
    rfl
  refine ⟨?_, ?_, ?_⟩
  · rw [State.block_only]
    simp [State.issued, State.modCtx]
  · rw [ctx, State.issued_ctx]
  · rw [ctx]
    rfl

/-- What completing does to the issuing context depends on that context and on the cycle alone. -/
theorem State.retireAfter_ctx_congr {s t : State} (ctx : s.ctx = t.ctx) (cycle : s.cycle = t.cycle) (sw : Bool) (size gap : Nat) :
    (s.retireAfter sw size gap).ctx = (t.retireAfter sw size gap).ctx := by
  simp only [State.retireAfter, State.ctx_modCtx, ctx, cycle]

/-- Where a context goes on depends on the context alone. -/
theorem State.goesOn.of_ctx_eq {s t u : State} {sw : Bool} {size gap : Nat} (h : s.goesOn t sw size gap) (e : u.ctx = t.ctx) :
    s.goesOn u sw size gap := by
  obtain ⟨wait, parked, next, place⟩ := h
  constructor <;> rwa [e]

/-! ## The contexts of a state -/

theorem State.ctxAt_modCtx_self (s : State) (f : Ctx → Ctx) : (s.modCtx f).ctxAt s.cur = f s.ctx := s.ctx_modCtx f

/-- Another context than the issuing one is as it was. -/
theorem State.ctxAt_modCtx_ne (s : State) (f : Ctx → Ctx) {n : Fin 11} (h : n ≠ s.cur) : (s.modCtx f).ctxAt n = s.ctxAt n :=
  s.setCtx_other _ n h.symm

/-- Issuing starts and stops no context. -/
theorem State.live_inTaint (s : State) (f : Ctx → List Nat) (n : Fin 11) :
    ((s.modCtx fun c => { c with inTaint := f c }).ctxAt n).live = (s.ctxAt n).live := by
  by_cases h : n = s.cur
  · rw [h, State.ctxAt_modCtx_self]
    rfl
  · rw [State.ctxAt_modCtx_ne s _ h]

end Sys2Proof.Machine
end

section
/-! SUPPORT. Helpers: which are live, what starting one changes, and what HWAIT and HSTAT read (R133, R135, R136). -/

namespace Sys2Proof.Machine

open Sys2Proof

/-! ## Live helpers (R16) -/

theorem State.helperLive_val (s : State) (h : Fin 11) : s.helperLive h.val = (s.ctxAt h).live := dif_pos h.isLt

theorem State.helperLive_inTaint (s : State) (f : Ctx → List Nat) (n : Nat) :
    (s.modCtx fun c => { c with inTaint := f c }).helperLive n = s.helperLive n := by
  by_cases h : n < 11
  · rw [State.helperLive_val _ ⟨n, h⟩, State.helperLive_val s ⟨n, h⟩, State.live_inTaint]
  · simp only [State.helperLive, dif_neg h]

theorem State.hstat_inTaint (s : State) (f : Ctx → List Nat) : (s.modCtx fun c => { c with inTaint := f c }).hstat = s.hstat := by
  simp only [State.hstat, State.helperLive_inTaint, State.modCtx_job]

theorem State.helperLive_issued (s : State) (rs : List Reg) (n : Nat) : (s.issued rs).helperLive n = s.helperLive n :=
  s.helperLive_inTaint _ n

theorem State.helpersDone_issued (s : State) (rs : List Reg) (m : Word) : (s.issued rs).helpersDone m = s.helpersDone m := by
  simp only [State.helpersDone, State.helperLive_issued]

/-- HWAIT's condition fails just when a live helper has its bit in the mask (R135). -/
theorem State.helpersDone_eq_false_iff (s : State) (m : Word) :
    s.helpersDone m = false ↔ ∃ h : Fin 11, h ≠ 0 ∧ m.getLsbD h.val = true ∧ (s.ctxAt h).live = true := by
  simp only [State.helpersDone, List.all_eq_false, List.mem_range, Bool.not_eq_true', Bool.not_eq_false, Bool.and_eq_true]
  constructor
  · rintro ⟨i, hi, bit, live⟩
    refine ⟨⟨i + 1, by omega⟩, Fin.ne_of_val_ne i.succ_ne_zero, bit, ?_⟩
    rwa [← State.helperLive_val]
  · rintro ⟨h, h0, bit, live⟩
    obtain ⟨i, hi⟩ := Nat.exists_eq_succ_of_ne_zero (Fin.val_ne_of_ne h0)
    rw [← State.helperLive_val, hi] at live
    rw [hi] at bit
    exact ⟨i, by omega, bit, live⟩

/-! ## HSTART (R133) -/

/-- The context of a helper as HSTART leaves it: as started, with its take-order record, and its accesses ordered after those of context 0
(R133, R226, R307). -/
def State.helperCtx (s : State) (h : Fin 11) (target x1 : Word) : Ctx :=
  { startedCtx target x1 s.job.chk (s.cycle + 4) with
    tookFree := (s.ctxAt h).tookFree, takeOrder := (s.ctxAt h).takeOrder, replay := (s.ctxAt h).replay,
    order := (s.earlier .dev).map fun n => { seq := n, scope := .sys, loads := true } }

/-- Helper `h` has started: its context is new, and nothing that it had read early is left. -/
def State.helperStarted (s : State) (h : Fin 11) (target x1 : Word) : State :=
  { s.modCtxAt h fun _ => s.helperCtx h target x1 with early := (s.forgetEarly h).early }

/-- The two steps in which HSTART starts a helper. -/
theorem State.startHelper_helperAfter (s : State) (h : Fin 11) (target x1 : Word) :
    (s.startHelper h.val target x1).helperAfter h.val (s.earlier .dev) = s.helperStarted h target x1 := by
  simp only [State.startHelper, State.helperAfter, dif_pos h.isLt, Fin.eta]
  simp [State.helperStarted, State.modCtxAt, State.forgetEarly, State.modEarly, State.helperCtx, State.ctxAt]

theorem State.helperStarted_ctxAt_self (s : State) (h : Fin 11) (target x1 : Word) :
    (s.helperStarted h target x1).ctxAt h = s.helperCtx h target x1 :=
  s.ctxAt_modCtxAt h fun _ => s.helperCtx h target x1

theorem State.helperStarted_ctxAt_ne (s : State) {h m : Fin 11} (ne : m ≠ h) (target x1 : Word) :
    (s.helperStarted h target x1).ctxAt m = s.ctxAt m :=
  s.ctxAt_modCtxAt_ne m h (fun _ => s.helperCtx h target x1) ne.symm

/-- Every register of a context before it starts is 0 (R133). -/
theorem Ctx.reset_reg (r : Reg) : Ctx.reset.reg r = 0 := by
  cases r with
  | x n => simp [Ctx.reg, Ctx.readX, Ctx.reset, get_eq_getElem]
  | v n => simp [Ctx.reg, Ctx.readV, Ctx.reset, get_eq_getElem]
  | p n => simp [Ctx.reg, Ctx.readP, Ctx.reset, get_eq_getElem]

/-- Of a started context's registers, x1 alone is set. -/
theorem startedCtx_reg (target x1 : Word) (chk : Bool) (first : Nat) (r : Reg) :
    (startedCtx target x1 chk first).reg r = if r = .x 1 then wide x1 else 0 := by
  have x : (startedCtx target x1 chk first).x = (Ctx.reset.put (.x 1) (wide x1)).x := by
    rw [Ctx.put_x_ne _ _ _ (by decide)]
    simp [startedCtx, wide]
  rw [Ctx.reg_congr (d := Ctx.reset.put (.x 1) (wide x1)) x rfl rfl r]
  split
  case isTrue h => rw [h, Ctx.reg_put_self _ _ _ (by decide) (Reg.fits_wide _ _)]
  case isFalse h => rw [Ctx.reg_put_ne _ _ _ _ h, Ctx.reset_reg]

/-- The state that HSTART leaves (R133): helper `h` is started, and context 0 has completed. -/
def State.hstarted (s : State) (sw : Bool) (h : Fin 11) (b : BitVec 5) (i : BitVec 13) (e : Ext) : State :=
  ((s.issued [.x b]).helperStarted h (s.target (immWord i e)) (s.readX b)).retire sw (extBytes e)

/-- HSTART refuses none of the helpers that it can start (R133). -/
theorem exec_hstart_starts {s : State} {h : Fin 11} {b : BitVec 5} {i : BitVec 13} {e : Ext} (sw : Bool) (ready : s.ready [.x b])
    (cur : s.cur = 0) (h0 : h ≠ 0) (reserved : h.val ≤ s.job.helpers) (gang : s.core.gang = none) (redun : s.job.redun = false)
    (idle : (s.ctxAt h).live = false) (aligned : (s.target (immWord i e)).extractLsb' 0 2 = 0) :
    exec (.hstart sw (BitVec.ofNat 5 h.val) b i e) s = .next (s.hstarted sw h b i e) := by
  have number : (BitVec.ofNat 5 h.val).toNat = h.val := Nat.mod_eq_of_lt (by omega)
  have nonzero : BitVec.ofNat 5 h.val ≠ 0#5 := fun z => h0 (Fin.ext (by rw [← number, z]; rfl))
  have accepted : ¬((s.issued [.x b]).cur ≠ 0 ∨ BitVec.ofNat 5 h.val = 0 ∨ 10 < h.val ∨ (s.issued [.x b]).core.gang.isSome ∨
      (s.issued [.x b]).job.redun) := by
    rintro (c | c | c | c | c)
    · exact c cur
    · exact nonzero c
    · omega
    · exact Option.isSome_iff_ne_none.1 c gang
    · exact Bool.false_ne_true (redun.symm.trans c)
  have target : (s.issued [.x b]).target (startDisp i e) = s.target (immWord i e) :=
    congrArg (· + immWord i e <<< 2) (s.pc_inTaint _)
  have operand : (s.issued [.x b]).readX b = s.readX b := s.readX_inTaint _ b
  have enough : ¬(s.issued [.x b]).job.helpers < h.val := Nat.not_lt.2 reserved
  have stopped : ¬(s.issued [.x b]).helperLive h.val = true := by
    rw [State.helperLive_issued, State.helperLive_val, idle]
    exact Bool.false_ne_true
  refine congrArg Host.Outcome.next ((State.issue_issued (ws := []) ready _).trans ?_)
  dsimp only
  rw [number, target, operand, if_neg accepted, if_neg enough, if_neg stopped, if_neg (not_not_intro aligned),
    State.startHelper_helperAfter, State.hstarted]

/-- Context 0 completes as an instruction that writes nothing does. -/
theorem State.hstarted_ctx {s : State} {h : Fin 11} (other : h ≠ s.cur) (sw : Bool) (b : BitVec 5) (i : BitVec 13) (e : Ext) :
    (s.hstarted sw h b i e).ctx = ((s.issued [.x b]).retire sw (extBytes e)).ctx :=
  State.retireAfter_ctx_congr ((s.issued [.x b]).helperStarted_ctxAt_ne other.symm _ _) rfl sw (extBytes e) 1

theorem State.hstarted_ctxAt_self {s : State} {h : Fin 11} (other : h ≠ s.cur) (sw : Bool) (b : BitVec 5) (i : BitVec 13) (e : Ext) :
    (s.hstarted sw h b i e).ctxAt h = (s.issued [.x b]).helperCtx h (s.target (immWord i e)) (s.readX b) :=
  calc (s.hstarted sw h b i e).ctxAt h
    _ = ((s.issued [.x b]).helperStarted h (s.target (immWord i e)) (s.readX b)).ctxAt h := State.ctxAt_modCtx_ne _ _ other
    _ = _ := State.helperStarted_ctxAt_self ..

/-- The contexts that neither issue nor start are as they were. -/
theorem State.hstarted_ctxAt_ne {s : State} {h m : Fin 11} (ne : m ≠ h) (other : m ≠ s.cur) (sw : Bool) (b : BitVec 5) (i : BitVec 13)
    (e : Ext) : (s.hstarted sw h b i e).ctxAt m = s.ctxAt m :=
  calc (s.hstarted sw h b i e).ctxAt m
    _ = ((s.issued [.x b]).helperStarted h (s.target (immWord i e)) (s.readX b)).ctxAt m := State.ctxAt_modCtx_ne _ _ other
    _ = (s.issued [.x b]).ctxAt m := State.helperStarted_ctxAt_ne _ ne _ _
    _ = s.ctxAt m := State.ctxAt_modCtx_ne _ _ other

/-! ## HWAIT and HSTAT (R135, R136) -/

/-- Acquiring changes what has been read early, and nothing else (R307). -/
theorem State.acquireHelpers_only (s : State) (m : Word) : s.acquireHelpers m = { s with early := (s.acquireHelpers m).early } := by
  unfold State.acquireHelpers
  generalize List.finRange 11 = l
  induction l generalizing s with
  | nil => rfl
  | cons h l ih =>
    rw [List.foldl_cons]
    split
    · exact ih _
    · exact ih s

/-- HWAIT by context 0 goes by its condition: it acquires and completes, or waits (R135, R307). -/
theorem exec_hwait_ready {s : State} {a : BitVec 5} (sw : Bool) (ready : s.ready [.x a]) (cur : s.cur = 0) :
    exec (.hwait sw a) s = .next
      (if s.helpersDone (s.readX a) then ((s.issued [.x a]).acquireHelpers (s.readX a)).retire sw 4
        else (s.issued [.x a]).block .other 0 (s.readX a)) := by
  have cur : (s.issued [.x a]).cur = 0 := cur
  refine congrArg Host.Outcome.next ((State.issue_issued (ws := []) ready _).trans ?_)
  rw [s.waitValue_issued ready.1, if_neg (not_not_intro cur), State.helpersDone_issued]

/-- HWAIT completes when no helper of its mask is live (R135). -/
theorem State.hwait_passes {s : State} {a : BitVec 5} (sw : Bool) (ready : s.ready [.x a]) (cur : s.cur = 0)
    (done : s.helpersDone (s.readX a) = true) :
    ∃ t, exec (.hwait sw a) s = .next t ∧ s.passes { t with early := s.early } sw 4 1 := by
  rw [exec_hwait_ready sw ready cur, if_pos done, State.acquireHelpers_only]
  exact ⟨_, rfl, s.issued_retireAfter_passes [.x a] sw 4 1⟩

/-- HWAIT waits while a helper of its mask is live (R135, R152). -/
theorem State.hwait_waits {s : State} {a : BitVec 5} (sw : Bool) (ready : s.ready [.x a]) (cur : s.cur = 0)
    (busy : s.helpersDone (s.readX a) = false) : ∃ t, exec (.hwait sw a) s = .next t ∧ s.waits t := by
  rw [exec_hwait_ready sw ready cur, busy]
  exact ⟨_, rfl, s.issued_block_waits ready.1 [.x a] .other 0 (s.readX a)⟩

/-- HSTAT gives the live mask and the number of helpers reserved (R136). -/
theorem State.hstat_gives (s : State) (sw : Bool) (d : BitVec 5) : s.gives (.hstat sw d) [.x d] sw 4 (.x d) (wide s.hstat) 2 :=
  fun ready => ⟨_, rfl, State.issue_write_computes (rs := []) (ws := [.x d]) ready sw 4 (.x d) (fun u => wide u.hstat) 2
    (fun _ => congrArg wide (State.hstat_inTaint s _)) (Reg.fits_wide _ _)⟩

end Sys2Proof.Machine
end

section
/-! PROOF. Starting and awaiting helpers (R133, R135, R136). -/

namespace Sys2Proof.Machine

open Sys2Proof

/-- Settles O11: HSTART changes the helper's context and completes, HWAIT goes by `helpersDone`, and HSTAT writes `hstat`. -/
theorem helpersStartAndAreAwaited : Obligations.HelpersStartAndAreAwaited := by
  unfold Obligations.HelpersStartAndAreAwaited
  constructor
  · intro s sw h b i e target ready cur h0 reserved gang redun idle aligned
    have other : h ≠ s.cur := cur ▸ h0
    obtain ⟨-, regs, goes, same⟩ := s.issued_retireAfter_passes [.x b] sw (extBytes e) 1
    have ctx := State.hstarted_ctx other sw b i e
    have helper := State.hstarted_ctxAt_self other sw b i e
    refine ⟨s.hstarted sw h b i e, exec_hstart_starts sw ready cur h0 reserved gang redun idle aligned, rfl,
      fun m ne m0 => State.hstarted_ctxAt_ne ne (cur ▸ m0) sw b i e, ?_, ?_, goes.of_ctx_eq ctx, ?_⟩
    · rw [ctx]
      exact regs
    · rw [State.sameRegs, ctx]
      exact same
    · rw [helper]
      refine ⟨rfl, rfl, rfl, rfl, rfl, rfl, fun k => ?_, fun k => ?_, fun r => ?_⟩
      · simp [State.helperCtx, startedCtx, Ctx.reset, Slot.free, get_eq_getElem]
      · simp [State.helperCtx, startedCtx, Ctx.reset, get_eq_getElem]
      · exact (Ctx.reg_congr rfl rfl rfl r).trans (startedCtx_reg target (s.readX b) s.job.chk (s.cycle + 4) r)
  · intro s sw a d busy
    refine ⟨fun ready cur idle => ?_, fun ready cur live => ?_, s.hstat_gives sw d⟩
    · exact State.hwait_passes sw ready cur (Bool.of_not_eq_false fun f => idle ((s.helpersDone_eq_false_iff _).1 f))
    · exact State.hwait_waits sw ready cur ((s.helpersDone_eq_false_iff _).2 live)

end Sys2Proof.Machine
end

section
/-! SUPPORT. Decoding and encoding (R33 to R46): each code's inverse, how a field or a byte falls into its parts, what each reader accepts, and for
every class that reading and encoding are inverse. -/

namespace Sys2Proof

/-! ## Codes (R37, R38, R39, R53) -/

@[simp] theorem IntTy.ofCode_eq_some {c : BitVec 5} {t : IntTy} : IntTy.ofCode c = some t ↔ t.code = c := by
  revert c; cases t <;> decide
@[simp] theorem FloatTy.ofCode_eq_some {c : BitVec 5} {t : FloatTy} : FloatTy.ofCode c = some t ↔ t.code = c := by
  revert c; cases t <;> decide
@[simp] theorem LaneTy.ofCode_eq_some {c : BitVec 5} {t : LaneTy} : LaneTy.ofCode c = some t ↔ t.code = c := by
  revert c; rcases t with t | t <;> cases t <;> decide
@[simp] theorem Ty.ofCode_eq_some {c : BitVec 5} {t : Ty} : Ty.ofCode c = some t ↔ t.code = c := by
  revert c
  rcases t with (t | t) | _
  · cases t <;> decide
  · cases t <;> decide
  all_goals decide
@[simp] theorem Variant.ofCode_eq_some {c : BitVec 3} {v : Variant} : Variant.ofCode c = some v ↔ v.code = c := by
  revert c; cases v <;> decide
@[simp] theorem LdWidth.ofCode_eq_some {c : BitVec 3} {w : LdWidth} : LdWidth.ofCode c = some w ↔ w.code = c := by
  revert c; cases w <;> decide
@[simp] theorem MemWidth.ofCode_eq_some {c : BitVec 3} {w : MemWidth} : MemWidth.ofCode c = some w ↔ w.code = c := by
  revert c; cases w <;> decide
@[simp] theorem Cond.ofCode_eq_some {c : BitVec 3} {d : Cond} : Cond.ofCode c = some d ↔ d.code = c := by
  revert c; cases d <;> decide
@[simp] theorem RedOp.ofCode_eq_some {c : BitVec 5} {o : RedOp} : RedOp.ofCode c = some o ↔ o.code = c := by
  revert c; cases o <;> decide
@[simp] theorem ShufFn.ofCode_eq_some {c : BitVec 3} {g : ShufFn} : ShufFn.ofCode c = some g ↔ g.code = c := by
  revert c; cases g <;> decide
@[simp] theorem PhAcc.ofCode_eq_some {c : BitVec 5} {p : PhAcc} : PhAcc.ofCode c = some p ↔ p.code = c := by
  revert c; cases p <;> decide
@[simp] theorem CtrlReg.ofCode_code (r : CtrlReg) : CtrlReg.ofCode r.code = some r := by
  cases r with
  | traprec n => revert n; decide
  | mbox n => revert n; decide
  | _ => rfl
@[simp] theorem CtrlReg.ofCode_eq_some {c : BitVec 13} {r : CtrlReg} : CtrlReg.ofCode c = some r ↔ r.code = c := by
  refine ⟨fun h => ?_, fun h => h ▸ r.ofCode_code⟩
  unfold CtrlReg.ofCode at h
  split at h <;> simp only [Option.some.injEq, reduceCtorEq] at h
  all_goals
    rename_i hc
    rw [← h]
    exact (BitVec.eq_of_toNat_eq hc).symm
@[simp] theorem Scope.code_ofCode (c : BitVec 2) : (Scope.ofCode c).code = c := by revert c; decide
theorem Scope.ofCode_code (c : Scope) : Scope.ofCode c.code = c := by cases c <;> rfl
@[simp] theorem Scope.ofCode_eq_iff {c : BitVec 2} {o : Scope} : Scope.ofCode c = o ↔ o.code = c :=
  ⟨fun h => h ▸ Scope.code_ofCode c, fun h => h ▸ Scope.ofCode_code o⟩
@[simp] theorem TagWidth.code_ofCode (c : BitVec 3) : (TagWidth.ofCode c).code = c := by revert c; decide
theorem TagWidth.ofCode_code (w : TagWidth) : TagWidth.ofCode w.code = w := by
  rcases w with w | _
  · cases w <;> rfl
  · rfl
@[simp] theorem TagWidth.ofCode_eq_iff {c : BitVec 3} {o : TagWidth} : TagWidth.ofCode c = o ↔ o.code = c :=
  ⟨fun h => h ▸ TagWidth.code_ofCode c, fun h => h ▸ TagWidth.ofCode_code o⟩
@[simp] theorem AtomicOp.code_ofCode (c : BitVec 3) : (AtomicOp.ofCode c).code = c := by revert c; decide
theorem AtomicOp.ofCode_code (o : AtomicOp) : AtomicOp.ofCode o.code = o := by cases o <;> rfl
@[simp] theorem AtomicOp.ofCode_eq_iff {c : BitVec 3} {o : AtomicOp} : AtomicOp.ofCode c = o ↔ o.code = c :=
  ⟨fun h => h ▸ AtomicOp.code_ofCode c, fun h => h ▸ AtomicOp.ofCode_code o⟩
@[simp] theorem AtomicTy.code_ofCode (c : BitVec 2) : (AtomicTy.ofCode c).code = c := by revert c; decide
theorem AtomicTy.ofCode_code (t : AtomicTy) : AtomicTy.ofCode t.code = t := by cases t <;> rfl
@[simp] theorem AtomicTy.ofCode_eq_iff {c : BitVec 2} {o : AtomicTy} : AtomicTy.ofCode c = o ↔ o.code = c :=
  ⟨fun h => h ▸ AtomicTy.code_ofCode c, fun h => h ▸ AtomicTy.ofCode_code o⟩


/-! ## Fields in parts (R34, R35, R37) -/

/-- A word is two parts joined just when they are its high and its low bits. -/
theorem append_eq_iff {m n : Nat} {hi : BitVec m} {lo : BitVec n} {x : BitVec (m + n)} :
    hi ++ lo = x ↔ hi = x.extractLsb' n m ∧ lo = x.extractLsb' 0 n := by
  constructor
  · rintro rfl
    exact ⟨BitVec.extractLsb'_append_eq_left.symm, BitVec.extractLsb'_append_eq_right.symm⟩
  · rintro ⟨rfl, rfl⟩
    exact BitVec.extractLsb'_append_extractLsb'

/-- The low bits of a word in two parts. -/
theorem append_eq_low_iff {m n k : Nat} {hi : BitVec m} {lo : BitVec n} {x : BitVec k} :
    hi ++ lo = x.extractLsb' 0 (m + n) ↔ hi = x.extractLsb' n m ∧ lo = x.extractLsb' 0 n := by
  rw [append_eq_iff, BitVec.extractLsb'_extractLsb'_of_le (by omega), BitVec.extractLsb'_extractLsb'_of_le (by omega)]

@[simp] theorem ofBool_eq_iff {w n : Nat} {o : Bool} {x : BitVec w} : BitVec.ofBool o = x.extractLsb' n 1 ↔ o = x.getLsbD n := by
  have h : x.extractLsb' n 1 = BitVec.ofBool (x.getLsbD n) := by
    ext i hi
    obtain rfl : i = 0 := by omega
    simp
  rw [h]
  cases o <;> cases x.getLsbD n <;> decide

@[simp] theorem zero_eq_bit_iff {w n : Nat} {x : BitVec w} : 0#1 = x.extractLsb' n 1 ↔ x.getLsbD n = false :=
  (ofBool_eq_iff (o := false)).trans eq_comm

@[simp] theorem bit_eq_zero_iff {w n : Nat} {x : BitVec w} : x.extractLsb' n 1 = 0#1 ↔ x.getLsbD n = false :=
  eq_comm.trans zero_eq_bit_iff

section Byte

variable {x : BitVec 8}

@[simp] theorem byte_5_3 {t : BitVec 5} {m : BitVec 3} : t ++ m = x ↔ t = x.extractLsb' 3 5 ∧ m = x.extractLsb' 0 3 := append_eq_iff

@[simp] theorem byte_2_6 {h : BitVec 2} {l : BitVec 6} : h ++ l = x ↔ h = x.extractLsb' 6 2 ∧ l = x.extractLsb' 0 6 := append_eq_iff

@[simp] theorem byte_6_2 {h : BitVec 6} {l : BitVec 2} : h ++ l = x ↔ h = x.extractLsb' 2 6 ∧ l = x.extractLsb' 0 2 := append_eq_iff

@[simp] theorem byte_4_4 {h l : BitVec 4} : h ++ l = x ↔ h = x.extractLsb' 4 4 ∧ l = x.extractLsb' 0 4 := append_eq_iff

@[simp] theorem byte_3_5 {h : BitVec 3} {l : BitVec 5} : h ++ l = x ↔ h = x.extractLsb' 5 3 ∧ l = x.extractLsb' 0 5 := append_eq_iff

@[simp] theorem low_2_3 {h : BitVec 2} {l : BitVec 3} : h ++ l = x.extractLsb' 0 5 ↔ h = x.extractLsb' 3 2 ∧ l = x.extractLsb' 0 3 := append_eq_low_iff

@[simp] theorem low_3_2 {h : BitVec 3} {l : BitVec 2} : h ++ l = x.extractLsb' 0 5 ↔ h = x.extractLsb' 2 3 ∧ l = x.extractLsb' 0 2 := append_eq_low_iff

@[simp] theorem low_1_4 {h : BitVec 1} {l : BitVec 4} : h ++ l = x.extractLsb' 0 5 ↔ h = x.extractLsb' 4 1 ∧ l = x.extractLsb' 0 4 := append_eq_low_iff

@[simp] theorem low_1_2 {h : BitVec 1} {l : BitVec 2} : h ++ l = x.extractLsb' 0 3 ↔ h = x.extractLsb' 2 1 ∧ l = x.extractLsb' 0 2 := append_eq_low_iff

@[simp] theorem low_1_1 {h l : BitVec 1} : h ++ l = x.extractLsb' 0 2 ↔ h = x.extractLsb' 1 1 ∧ l = x.extractLsb' 0 1 := append_eq_low_iff

@[simp] theorem byte_7_1 {h : BitVec 7} {l : BitVec 1} : h ++ l = x ↔ h = x.extractLsb' 1 7 ∧ l = x.extractLsb' 0 1 := append_eq_iff

end Byte

@[simp] theorem field_2_3 {h : BitVec 2} {l : BitVec 3} {x : BitVec 5} : h ++ l = x ↔ h = x.extractLsb' 3 2 ∧ l = x.extractLsb' 0 3 := append_eq_iff

@[simp] theorem field_3_2 {h : BitVec 3} {l : BitVec 2} {x : BitVec 5} : h ++ l = x ↔ h = x.extractLsb' 2 3 ∧ l = x.extractLsb' 0 2 := append_eq_iff

/-- A 13-bit immediate lies in two fields (R34). -/
theorem imm_eq_iff {i : BitVec 13} {b : BitVec 5} {f : BitVec 8} : b ++ f = i ↔ b = immHi i ∧ f = immLo i := append_eq_iff

/-- A 23-bit displacement lies in four fields (R34). -/
@[simp] theorem Fields.extract_disp (f : Fields) :
    f.disp.extractLsb' 18 5 = f.d ∧ f.disp.extractLsb' 13 5 = f.a ∧ f.disp.extractLsb' 8 5 = f.b ∧ f.disp.extractLsb' 0 8 = f.f := by
  have h : f.d ++ (f.a ++ (f.b ++ f.f)) = f.disp ↔ _ := append_eq_iff
  rw [append_eq_low_iff, append_eq_low_iff] at h
  simpa only [eq_comm] using h.1 rfl

theorem eq_imm_iff {i : BitVec 13} {b : BitVec 5} {f : BitVec 8} : i = b ++ f ↔ b = immHi i ∧ f = immLo i := eq_comm.trans imm_eq_iff

theorem Fields.disp_eq_iff {f : Fields} {i : BitVec 23} :
    f.disp = i ↔ f.d = i.extractLsb' 18 5 ∧ f.a = i.extractLsb' 13 5 ∧ f.b = i.extractLsb' 8 5 ∧ f.f = i.extractLsb' 0 8 := by
  rw [Fields.disp, show f.d ++ _ = i ↔ _ from append_eq_iff, append_eq_low_iff, append_eq_low_iff]

@[simp] theorem extract_field_2_3 (h : BitVec 2) (l : BitVec 3) :
    BitVec.extractLsb' (n := 5) 3 2 (h ++ l) = h ∧ BitVec.extractLsb' (n := 5) 0 3 (h ++ l) = l :=
  ⟨BitVec.extractLsb'_append_eq_left, BitVec.extractLsb'_append_eq_right⟩

@[simp] theorem extract_field_3_2 (h : BitVec 3) (l : BitVec 2) :
    BitVec.extractLsb' (n := 5) 2 3 (h ++ l) = h ∧ BitVec.extractLsb' (n := 5) 0 2 (h ++ l) = l :=
  ⟨BitVec.extractLsb'_append_eq_left, BitVec.extractLsb'_append_eq_right⟩

@[simp] theorem extract_ext_8_16 (h : BitVec 8) (l : BitVec 16) :
    BitVec.extractLsb' (n := 24) 16 8 (h ++ l) = h ∧ BitVec.extractLsb' (n := 24) 0 16 (h ++ l) = l :=
  ⟨BitVec.extractLsb'_append_eq_left, BitVec.extractLsb'_append_eq_right⟩

@[simp] theorem extract_ext_4_20 (h : BitVec 4) (l : BitVec 20) :
    BitVec.extractLsb' (n := 24) 20 4 (h ++ l) = h ∧ BitVec.extractLsb' (n := 24) 0 20 (h ++ l) = l :=
  ⟨BitVec.extractLsb'_append_eq_left, BitVec.extractLsb'_append_eq_right⟩

@[simp] theorem immHi_append (b : BitVec 5) (f : BitVec 8) : immHi (b ++ f) = b := BitVec.extractLsb'_append_eq_left
@[simp] theorem immLo_append (b : BitVec 5) (f : BitVec 8) : immLo (b ++ f) = f := BitVec.extractLsb'_append_eq_right

@[simp] theorem ext_8_16 {h : BitVec 8} {l : BitVec 16} {e : BitVec 24} : h ++ l = e ↔ h = e.extractLsb' 16 8 ∧ l = e.extractLsb' 0 16 := append_eq_iff

@[simp] theorem ext_4_20 {h : BitVec 4} {l : BitVec 20} {e : BitVec 24} : h ++ l = e ↔ h = e.extractLsb' 20 4 ∧ l = e.extractLsb' 0 20 := append_eq_iff

/-- The prefix word's fields (R167). -/
theorem VExt.code_eq_iff {v : VExt} {e : BitVec 24} :
    v.code = e ↔ 0#5 = e.extractLsb' 19 5 ∧ v.sat = e.getLsbD 18 ∧ v.ds = e.getLsbD 17 ∧ v.dsn = e.extractLsb' 15 2 ∧
      v.as = e.getLsbD 14 ∧ v.asn = e.extractLsb' 12 2 ∧ v.bs = e.getLsbD 11 ∧ v.bsn = e.extractLsb' 9 2 ∧ 0#9 = e.extractLsb' 0 9 := by
  rw [VExt.code, show 0#5 ++ _ = e ↔ _ from append_eq_iff]
  simp only [append_eq_low_iff, ofBool_eq_iff]

@[simp] theorem VExt.ofCode_eq_some {e : BitVec 24} {v : VExt} : VExt.ofCode e = some v ↔ v.code = e := by
  rw [VExt.code_eq_iff, VExt.ofCode]
  obtain ⟨sat, ds, dsn, as, asn, bs, bsn⟩ := v
  split
  next h => 
    simp only [Option.some.injEq, VExt.mk.injEq, h]
    tauto
  next h =>
    simp only [reduceCtorEq, false_iff]
    tauto

/-! ## What each reader accepts -/

section Readers

variable {f : Fields} {x : Ext} {i : Instr}

@[simp] theorem rsv_eq_ok {c : Bool} {k : Parsed} : rsv c k = .ok i ↔ c = true ∧ k = .ok i := by
  cases c <;> simp [rsv]

@[simp] theorem coded_eq_ok {α : Type} {o : Option α} {k : α → Parsed} : coded o k = .ok i ↔ ∃ a, o = some a ∧ k a = .ok i := by
  cases o <;> simp [coded]

@[simp] theorem bare_eq_ok {k : Parsed} : bare x k = .ok i ↔ none = x ∧ k = .ok i := by
  cases x <;> simp [bare]

@[simp] theorem vext_eq_ok {k : Option VExt → Parsed} : vext x k = .ok i ↔ ∃ v, v.map VExt.code = x ∧ k v = .ok i := by
  cases x with
  | none => simp [vext]
  | some e =>
    simp only [vext, Option.map_eq_some_iff, ← VExt.ofCode_eq_some]
    cases VExt.ofCode e <;> simp

@[simp] theorem selector_eq_ok {k : CtrlReg → Parsed} : selector f k = .ok i ↔ ∃ r, CtrlReg.code r = f.imm ∧ k r = .ok i := by
  simp only [selector, ← CtrlReg.ofCode_eq_some]
  cases CtrlReg.ofCode f.imm <;> simp

/-- The one accepted code of a field (R37). -/
theorem accepted_eq_some {c : Prop} [Decidable c] {u : Unit} : (if c then some () else none) = some u ↔ c := by
  split <;> simp [*]

@[simp] theorem flag0_eq_ok {k : Bool → Parsed} : flag0 f k = .ok i ↔ ∃ v : Bool, 0#7 ++ BitVec.ofBool v = f.f ∧ k v = .ok i := by
  unfold flag0
  split <;> rename_i h
  · simp [BitVec.eq_of_toNat_eq (y := 0#8) h]
  · simp [BitVec.eq_of_toNat_eq (y := 1#8) h]
  · rename_i h'
    have h0 : ¬0#7 ++ BitVec.ofBool false = f.f := fun e => h' (e ▸ rfl)
    have h1 : ¬0#7 ++ BitVec.ofBool true = f.f := fun e => h (e ▸ rfl)
    simp only [h0, h1, Bool.exists_bool, reduceCtorEq, false_and, or_self]

theorem ofNat_eq_comm {w n : Nat} {x : BitVec w} : BitVec.ofNat w n = x ↔ x = BitVec.ofNat w n := eq_comm

theorem ofNat_eq_iff {w n : Nat} (_ : 1 < w) {x : BitVec w} : BitVec.ofNat w n = x ↔ x.toNat = n % 2 ^ w := by
  rw [← BitVec.toNat_inj, BitVec.toNat_ofNat, eq_comm]

/-! ## What a class reads encodes to the word read

The special arms are those that look into a field again: MOV and PMOV, RTE, VMOVX, SBIND, LMJOIN, and the flags of RELD, MCHK and MZERO. -/

theorem encodeFields_of_parseMov (hop : f.op = 0x20) (hb : f.b = 0) : parseMov f = .ok i → encodeFields i = some (none, f) := by
  obtain ⟨op, s, d, a, b, F⟩ := f
  unfold parseMov
  split <;> rename_i hF
  all_goals simp
  all_goals
    intros
    subst_vars
    simp_all [encodeFields, ofNat_eq_iff]

theorem encodeFields_of_parseScalar : parseScalar f x = .ok i → encodeFields i = some (x, f) := by
  obtain ⟨op, s, d, a, b, F⟩ := f
  unfold parseScalar
  split <;> rename_i hop
  all_goals
    simp [typed3v, typed3, typed2, immed, shimm, Fields.ty, Fields.var, Fields.imm, -Bool.exists_bool]
  all_goals
    intros
    subst_vars
    simp_all [encodeFields, ofNat_eq_iff, -BitVec.extractLsb'_toNat]

theorem encodeFields_of_parseMove : parseMove f x = .ok i → encodeFields i = some (x, f) := by
  obtain ⟨op, s, d, a, b, F⟩ := f
  unfold parseMove
  split <;> rename_i hop
  case h_1 =>
    simp only [bare_eq_ok, rsv_eq_ok, beq_iff_eq]
    rintro ⟨rfl, hb, h⟩
    exact encodeFields_of_parseMov (BitVec.eq_of_toNat_eq hop) hb h
  on_goal 10 =>
    simp only [bare_eq_ok, rsv_eq_ok, beq_iff_eq, and_imp]
    intro _ _
    split
  all_goals
    simp [typed3, immed, hi2, pnum, Fields.ty, Fields.var, Fields.k, Fields.imm, -Bool.exists_bool]
  all_goals
    intros
    subst_vars
    simp_all [encodeFields, ofNat_eq_iff, -BitVec.extractLsb'_toNat]

theorem encodeFields_of_parseControl : parseControl f x = .ok i → encodeFields i = some (x, f) := by
  obtain ⟨op, s, d, a, b, F⟩ := f
  unfold parseControl
  split <;> rename_i hop
  on_goal 14 =>
    split
  on_goal 12 =>
    simp only [rsv_eq_ok, hi3, beq_iff_eq, Bool.and_eq_true, and_imp]
    intro _
    split
  all_goals
    simp [branch, pbranch, hi2, hi3, pnum, snum, Fields.imm, -Bool.exists_bool]
  all_goals
    intros
    subst_vars
    simp_all [encodeFields, ofNat_eq_iff, -BitVec.extractLsb'_toNat]

theorem encodeFields_of_parseSystem : parseSystem f x = .ok i → encodeFields i = some (x, f) := by
  obtain ⟨op, s, d, a, b, F⟩ := f
  unfold parseSystem
  split <;> rename_i hop
  on_goal 9 =>
    simp only [bare_eq_ok, rsv_eq_ok, beq_iff_eq, Bool.and_eq_true, and_imp]
    intro _ _
    split <;> rename_i hF
  all_goals
    simp [Fields.var, Fields.w, Fields.c, Fields.k, Fields.imm, -Bool.exists_bool]
  all_goals
    intros
    subst_vars
    simp_all [encodeFields, ofNat_eq_iff, -BitVec.extractLsb'_toNat]

theorem encodeFields_of_parseVector : parseVector f x = .ok i → encodeFields i = some (x, f) := by
  obtain ⟨op, s, d, a, b, F⟩ := f
  unfold parseVector
  split <;> rename_i hop
  on_goal 24 => simp only [rsv_eq_ok, coded_eq_ok, accepted_eq_some]
  on_goal 20 =>
    simp only [coded_eq_ok, vext_eq_ok, Fields.ty, Fields.var, LaneTy.ofCode_eq_some, and_imp, forall_exists_index]
    intro _ _ _ _
    split <;> rename_i hF
  all_goals
    simp [vec3, vec3i, vec2f, hi2, hi3, pnum, snum, Fields.ty, Fields.var, -Bool.exists_bool]
  all_goals
    intros
    subst_vars
    simp_all [encodeFields, ofNat_eq_iff, -BitVec.extractLsb'_toNat]

theorem encodeFields_of_parseMemory : parseMemory f x = .ok i → encodeFields i = some (x, f) := by
  obtain ⟨op, s, d, a, b, F⟩ := f
  unfold parseMemory
  split <;> rename_i hop
  on_goal 5 => simp only [coded_eq_ok, accepted_eq_some]
  on_goal 4 => simp only [coded_eq_ok, accepted_eq_some]
  all_goals
    simp [Fields.var, Fields.w, Fields.c, Fields.o, Fields.k, -Bool.exists_bool]
  all_goals
    intros
    subst_vars
    simp_all [encodeFields, ofNat_eq_iff, -BitVec.extractLsb'_toNat]

theorem encodeFields_of_parseTransfer : parseTransfer f x = .ok i → encodeFields i = some (x, f) := by
  obtain ⟨op, s, d, a, b, F⟩ := f
  unfold parseTransfer
  split <;> rename_i hop
  on_goal 14 =>
    simp only [bare_eq_ok, rsv_eq_ok, coded_eq_ok, Fields.ty, Fields.k, hi3, beq_iff_eq, LaneTy.ofCode_eq_some, and_imp, forall_exists_index]
    intro _ _ _ _
    split <;> rename_i hF
  on_goal 4 =>
    simp only [bare_eq_ok, rsv_eq_ok, flag0_eq_ok, beq_iff_eq, Bool.and_eq_true, and_imp, forall_exists_index]
    intro _ _ _ v _
    cases v
  all_goals
    simp [scope43, hi3, snum, Fields.var, Fields.w, Fields.c, Fields.o, Fields.k, -Bool.exists_bool]
  all_goals
    intros
    subst_vars
    simp_all [encodeFields, ofNat_eq_iff, -BitVec.extractLsb'_toNat]

theorem encodeFields_of_parseSync : parseSync f x = .ok i → encodeFields i = some (x, f) := by
  obtain ⟨op, s, d, a, b, F⟩ := f
  unfold parseSync
  split <;> rename_i hop
  all_goals
    simp [Fields.w, Fields.c, Fields.o, Fields.k, -Bool.exists_bool]
  all_goals
    intros
    subst_vars
    simp_all [encodeFields, ofNat_eq_iff, -BitVec.extractLsb'_toNat]

theorem encodeFields_of_parseAtomic : parseAtomic f x = .ok i → encodeFields i = some (x, f) := by
  obtain ⟨op, s, d, a, b, F⟩ := f
  unfold parseAtomic
  split <;> rename_i hop
  all_goals
    simp [scope43, Fields.var, Fields.w, Fields.c, Fields.o, Fields.k, -Bool.exists_bool]
  all_goals
    intros
    subst_vars
    simp_all [encodeFields, ofNat_eq_iff, -BitVec.extractLsb'_toNat]

theorem encodeFields_of_parseMatrix : parseMatrix f x = .ok i → encodeFields i = some (x, f) := by
  obtain ⟨op, s, d, a, b, F⟩ := f
  unfold parseMatrix
  split <;> rename_i hop
  on_goal 10 =>
    simp only [bare_eq_ok, rsv_eq_ok, flag0_eq_ok, beq_iff_eq, Bool.and_eq_true, and_imp, forall_exists_index]
    intro _ _ _ v _
    cases v
  on_goal 9 =>
    simp only [bare_eq_ok, rsv_eq_ok, flag0_eq_ok, beq_iff_eq, and_imp, forall_exists_index]
    intro _ _ v _
    cases v
  all_goals
    simp [Fields.w, -Bool.exists_bool]
  all_goals
    intros
    subst_vars
    simp_all [encodeFields, ofNat_eq_iff, -BitVec.extractLsb'_toNat]

theorem encodeFields_of_parseLoom : parseLoom f x = .ok i → encodeFields i = some (x, f) := by
  obtain ⟨op, s, d, a, b, F⟩ := f
  unfold parseLoom
  split <;> rename_i hop
  case h_1 =>
    simp only [bare_eq_ok, rsv_eq_ok, beq_iff_eq, Bool.and_eq_true]
    rintro ⟨rfl, ⟨⟨rfl, rfl⟩, hn⟩, h⟩
    have hF : 0#6 ++ Fields.k ⟨op, s, 0, a, 0, F⟩ = F := byte_6_2.2 ⟨hn.symm, rfl⟩
    split at h
    case isTrue hk =>
      obtain ⟨ha, rfl⟩ : a = 0 ∧ Instr.lmjoinLeave s = i := by simpa using h
      rw [hk] at hF
      subst ha hF
      simp [encodeFields, ofNat_eq_iff, hop]
    case isFalse hk =>
      obtain rfl : Instr.lmjoin s a _ = i := by simpa using h
      simp_all [encodeFields, ofNat_eq_iff]
  all_goals
    simp [-Bool.exists_bool]
  all_goals
    intros
    subst_vars
    simp_all [encodeFields, ofNat_eq_iff, -BitVec.extractLsb'_toNat]

theorem encodeFields_of_parsePigeonNet : parsePigeonNet f x = .ok i → encodeFields i = some (x, f) := by
  obtain ⟨op, s, d, a, b, F⟩ := f
  unfold parsePigeonNet
  split <;> rename_i hop
  all_goals
    simp [flag2, Fields.ty, Fields.o, Fields.k, Fields.imm, -Bool.exists_bool]
  all_goals
    intros
    subst_vars
    simp_all [encodeFields, ofNat_eq_iff, -BitVec.extractLsb'_toNat]

/-! ## What a well-formed instruction encodes to is read as it

The constructors of `Instr` stand in the opcode table's order, so that the numbers of a class's constructors are a range. -/

theorem parseScalar_of_encodeFields (lo : 0 ≤ i.ctorIdx) (hi : i.ctorIdx < 28) (wf : WellFormed i) (h : encodeFields i = some (x, f)) : parse f x = .ok i := by
  obtain ⟨op, s, d, a, b, F⟩ := f
  cases i <;> simp [Instr.ctorIdx] at lo hi
  all_goals
    simp only [encodeFields, Option.some.injEq, Prod.mk.injEq, Fields.mk.injEq] at h
    obtain ⟨rfl, rfl, rfl, rfl, rfl, rfl, h⟩ := h
  all_goals
    simp_all [parse, parseScalar, typed3v, typed3, typed2, immed, shimm, Fields.ty, Fields.var, Fields.imm, imm_eq_iff, ofNat_eq_comm, -BitVec.extractLsb'_toNat]

theorem parseMove_of_encodeFields (lo : 28 ≤ i.ctorIdx) (hi : i.ctorIdx < 43) (wf : WellFormed i) (h : encodeFields i = some (x, f)) : parse f x = .ok i := by
  obtain ⟨op, s, d, a, b, F⟩ := f
  cases i <;> simp [Instr.ctorIdx] at lo hi
  all_goals
    simp only [encodeFields, Option.some.injEq, Prod.mk.injEq, Fields.mk.injEq] at h
    obtain ⟨rfl, rfl, rfl, rfl, rfl, rfl, h⟩ := h
  on_goal 3 => cases ‹LoopReg›
  on_goal 2 => cases ‹LoopReg›
  all_goals
    simp_all [parse, parseMove, typed3, immed, hi2, pnum, parseMov, Fields.ty, Fields.var, Fields.k, Fields.imm, imm_eq_iff, ofNat_eq_comm, -BitVec.extractLsb'_toNat]

theorem parseControl_of_encodeFields (lo : 43 ≤ i.ctorIdx) (hi : i.ctorIdx < 57) (wf : WellFormed i) (h : encodeFields i = some (x, f)) : parse f x = .ok i := by
  obtain ⟨op, s, d, a, b, F⟩ := f
  cases i <;> simp [Instr.ctorIdx] at lo hi
  all_goals
    simp only [encodeFields, Option.some.injEq, Prod.mk.injEq, Fields.mk.injEq] at h
    obtain ⟨rfl, rfl, rfl, rfl, rfl, rfl, h⟩ := h
  on_goal 14 => cases ‹Option (BitVec 20)›
  on_goal 12 => cases ‹Option (BitVec 16)›
  all_goals
    simp_all [parse, parseControl, branch, pbranch, hi2, hi3, pnum, snum, Fields.imm, imm_eq_iff, ofNat_eq_comm, Fields.disp_eq_iff, -BitVec.extractLsb'_toNat]

theorem parseSystem_of_encodeFields (lo : 57 ≤ i.ctorIdx) (hi : i.ctorIdx < 74) (wf : WellFormed i) (h : encodeFields i = some (x, f)) : parse f x = .ok i := by
  obtain ⟨op, s, d, a, b, F⟩ := f
  cases i <;> simp [Instr.ctorIdx] at lo hi
  all_goals
    simp only [encodeFields, Option.some.injEq, Prod.mk.injEq, Fields.mk.injEq] at h
    obtain ⟨rfl, rfl, rfl, rfl, rfl, rfl, h⟩ := h
  all_goals
    simp_all [parse, parseSystem, Fields.var, Fields.w, Fields.c, Fields.k, Fields.imm, imm_eq_iff, ofNat_eq_comm, eq_imm_iff, -BitVec.extractLsb'_toNat]

theorem parseVector_of_encodeFields (lo : 74 ≤ i.ctorIdx) (hi : i.ctorIdx < 99) (wf : WellFormed i) (h : encodeFields i = some (x, f)) : parse f x = .ok i := by
  obtain ⟨op, s, d, a, b, F⟩ := f
  cases i <;> simp [Instr.ctorIdx] at lo hi
  all_goals
    simp only [encodeFields, Option.some.injEq, Prod.mk.injEq, Fields.mk.injEq] at h
    obtain ⟨rfl, rfl, rfl, rfl, rfl, rfl, h⟩ := h
  all_goals
    simp_all [parse, parseVector, vec3, vec3i, vec2f, hi2, hi3, pnum, snum, Fields.ty, Fields.var, ofNat_eq_comm, -BitVec.extractLsb'_toNat]

theorem parseMemory_of_encodeFields (lo : 99 ≤ i.ctorIdx) (hi : i.ctorIdx < 113) (wf : WellFormed i) (h : encodeFields i = some (x, f)) : parse f x = .ok i := by
  obtain ⟨op, s, d, a, b, F⟩ := f
  cases i <;> simp [Instr.ctorIdx] at lo hi
  all_goals
    simp only [encodeFields, Option.some.injEq, Prod.mk.injEq, Fields.mk.injEq] at h
    obtain ⟨rfl, rfl, rfl, rfl, rfl, rfl, h⟩ := h
  all_goals
    simp_all [parse, parseMemory, Fields.var, Fields.w, Fields.c, Fields.o, Fields.k, ofNat_eq_comm, -BitVec.extractLsb'_toNat]

theorem parseTransfer_of_encodeFields (lo : 113 ≤ i.ctorIdx) (hi : i.ctorIdx < 133) (wf : WellFormed i) (h : encodeFields i = some (x, f)) : parse f x = .ok i := by
  obtain ⟨op, s, d, a, b, F⟩ := f
  cases i <;> simp [Instr.ctorIdx] at lo hi
  all_goals
    simp only [encodeFields, Option.some.injEq, Prod.mk.injEq, Fields.mk.injEq] at h
    obtain ⟨rfl, rfl, rfl, rfl, rfl, rfl, h⟩ := h
  all_goals
    simp_all [parse, parseTransfer, scope43, hi3, snum, Fields.ty, Fields.var, Fields.w, Fields.c, Fields.o, Fields.k, ofNat_eq_comm, -BitVec.extractLsb'_toNat]

theorem parseSync_of_encodeFields (lo : 133 ≤ i.ctorIdx) (hi : i.ctorIdx < 147) (wf : WellFormed i) (h : encodeFields i = some (x, f)) : parse f x = .ok i := by
  obtain ⟨op, s, d, a, b, F⟩ := f
  cases i <;> simp [Instr.ctorIdx] at lo hi
  all_goals
    simp only [encodeFields, Option.some.injEq, Prod.mk.injEq, Fields.mk.injEq] at h
    obtain ⟨rfl, rfl, rfl, rfl, rfl, rfl, h⟩ := h
  all_goals
    simp_all [parse, parseSync, Fields.w, Fields.c, Fields.o, Fields.k, ofNat_eq_comm, -BitVec.extractLsb'_toNat]

theorem parseAtomic_of_encodeFields (lo : 147 ≤ i.ctorIdx) (hi : i.ctorIdx < 163) (wf : WellFormed i) (h : encodeFields i = some (x, f)) : parse f x = .ok i := by
  obtain ⟨op, s, d, a, b, F⟩ := f
  cases i <;> simp [Instr.ctorIdx] at lo hi
  all_goals
    simp only [encodeFields, Option.some.injEq, Prod.mk.injEq, Fields.mk.injEq] at h
    obtain ⟨rfl, rfl, rfl, rfl, rfl, rfl, h⟩ := h
  all_goals
    simp_all [parse, parseAtomic, scope43, Fields.var, Fields.w, Fields.c, Fields.o, Fields.k, ofNat_eq_comm, -BitVec.extractLsb'_toNat]

theorem parseMatrix_of_encodeFields (lo : 163 ≤ i.ctorIdx) (hi : i.ctorIdx < 179) (wf : WellFormed i) (h : encodeFields i = some (x, f)) : parse f x = .ok i := by
  obtain ⟨op, s, d, a, b, F⟩ := f
  cases i <;> simp [Instr.ctorIdx] at lo hi
  all_goals
    simp only [encodeFields, Option.some.injEq, Prod.mk.injEq, Fields.mk.injEq] at h
    obtain ⟨rfl, rfl, rfl, rfl, rfl, rfl, h⟩ := h
  all_goals
    simp_all [parse, parseMatrix, Fields.w, ofNat_eq_comm, -BitVec.extractLsb'_toNat]

theorem parseLoom_of_encodeFields (lo : 179 ≤ i.ctorIdx) (hi : i.ctorIdx < 187) (wf : WellFormed i) (h : encodeFields i = some (x, f)) : parse f x = .ok i := by
  obtain ⟨op, s, d, a, b, F⟩ := f
  cases i <;> simp [Instr.ctorIdx] at lo hi
  all_goals
    simp only [encodeFields, Option.some.injEq, Prod.mk.injEq, Fields.mk.injEq] at h
    obtain ⟨rfl, rfl, rfl, rfl, rfl, rfl, h⟩ := h
  all_goals
    simp_all [parse, parseLoom, Fields.k, ofNat_eq_comm, WellFormed, Instr.check, need, -BitVec.extractLsb'_toNat]

theorem parsePigeonNet_of_encodeFields (lo : 187 ≤ i.ctorIdx) (hi : i.ctorIdx < 201) (wf : WellFormed i) (h : encodeFields i = some (x, f)) : parse f x = .ok i := by
  obtain ⟨op, s, d, a, b, F⟩ := f
  cases i <;> simp [Instr.ctorIdx] at lo hi
  all_goals
    simp only [encodeFields, Option.some.injEq, Prod.mk.injEq, Fields.mk.injEq] at h
    obtain ⟨rfl, rfl, rfl, rfl, rfl, rfl, h⟩ := h
  all_goals
    simp_all [parse, parsePigeonNet, flag2, Fields.ty, Fields.o, Fields.k, Fields.imm, imm_eq_iff, ofNat_eq_comm, -BitVec.extractLsb'_toNat]

/-! ## All classes -/

/-- An event has no encoding. -/
theorem encodeFields_eq_none (lo : 201 ≤ i.ctorIdx) : encodeFields i = none := by
  cases i <;> simp [Instr.ctorIdx] at lo <;> rfl

theorem of_ite_eq_ok {c : Prop} [Decidable c] {k l : Parsed} {P : Prop} (hk : k = .ok i → P) (hl : l = .ok i → P) :
    (if c then k else l) = .ok i → P := by
  split
  · exact hk
  · exact hl

/-- What an opcode's class reads encodes to what was read (R41). -/
theorem encodeFields_of_parse : parse f x = .ok i → encodeFields i = some (x, f) :=
  of_ite_eq_ok nofun <|
  of_ite_eq_ok encodeFields_of_parseScalar <|
  of_ite_eq_ok encodeFields_of_parseMove <|
  of_ite_eq_ok encodeFields_of_parseControl <|
  of_ite_eq_ok encodeFields_of_parseSystem <|
  of_ite_eq_ok encodeFields_of_parseVector <|
  of_ite_eq_ok encodeFields_of_parseMemory <|
  of_ite_eq_ok encodeFields_of_parseTransfer <|
  of_ite_eq_ok encodeFields_of_parseSync <|
  of_ite_eq_ok encodeFields_of_parseAtomic <|
  of_ite_eq_ok encodeFields_of_parseMatrix <|
  of_ite_eq_ok encodeFields_of_parseLoom <|
  encodeFields_of_parsePigeonNet

/-- A well-formed instruction is read from its encoding (R41). -/
theorem parse_of_encodeFields (wf : WellFormed i) (h : encodeFields i = some (x, f)) : parse f x = .ok i := by
  rcases Nat.lt_or_ge i.ctorIdx 28 with hi | lo
  · exact parseScalar_of_encodeFields (Nat.zero_le _) hi wf h
  rcases Nat.lt_or_ge i.ctorIdx 43 with hi | lo'
  · exact parseMove_of_encodeFields lo hi wf h
  rcases Nat.lt_or_ge i.ctorIdx 57 with hi | lo
  · exact parseControl_of_encodeFields lo' hi wf h
  rcases Nat.lt_or_ge i.ctorIdx 74 with hi | lo'
  · exact parseSystem_of_encodeFields lo hi wf h
  rcases Nat.lt_or_ge i.ctorIdx 99 with hi | lo
  · exact parseVector_of_encodeFields lo' hi wf h
  rcases Nat.lt_or_ge i.ctorIdx 113 with hi | lo'
  · exact parseMemory_of_encodeFields lo hi wf h
  rcases Nat.lt_or_ge i.ctorIdx 133 with hi | lo
  · exact parseTransfer_of_encodeFields lo' hi wf h
  rcases Nat.lt_or_ge i.ctorIdx 147 with hi | lo'
  · exact parseSync_of_encodeFields lo hi wf h
  rcases Nat.lt_or_ge i.ctorIdx 163 with hi | lo
  · exact parseAtomic_of_encodeFields lo' hi wf h
  rcases Nat.lt_or_ge i.ctorIdx 179 with hi | lo'
  · exact parseMatrix_of_encodeFields lo hi wf h
  rcases Nat.lt_or_ge i.ctorIdx 187 with hi | lo
  · exact parseLoom_of_encodeFields lo' hi wf h
  rcases Nat.lt_or_ge i.ctorIdx 201 with hi | lo'
  · exact parsePigeonNet_of_encodeFields lo hi wf h
  · rw [encodeFields_eq_none lo'] at h
    cases h

/-- Decoding a word's fields gives the well-formed instruction that they encode, and no other. -/
theorem decodeFields_eq_ok : decodeFields f x = .ok i ↔ WellFormed i ∧ encodeFields i = some (x, f) := by
  have h : decodeFields f x = .ok i ↔ WellFormed i ∧ parse f x = .ok i := by
    unfold decodeFields
    cases parse f x with
    | error e => simp
    | ok j =>
      simp only [Except.ok.injEq]
      split <;> rename_i hc <;> simp only [Except.ok.injEq, reduceCtorEq, false_iff, not_and]
      · exact ⟨fun e => ⟨e ▸ hc, e⟩, And.right⟩
      · rintro wf rfl
        simp [WellFormed, hc] at wf
  rw [h]
  exact ⟨fun ⟨wf, p⟩ => ⟨wf, encodeFields_of_parse p⟩, fun ⟨wf, e⟩ => ⟨wf, parse_of_encodeFields wf e⟩⟩

/-- No instruction has the opcode of EXT (R42, R43). -/
theorem op_ne_ext (wf : WellFormed i) (h : encodeFields i = some (x, f)) : f.op.toNat ≠ 0xFF := fun hop => by
  have p := parse_of_encodeFields wf h
  rw [parse, if_pos hop] at p
  cases p

end Readers

/-! ## Words and bytes (R2, R33, R34) -/

theorem Fields.pack_eq_iff {f : Fields} {w : Word32} : f.pack = w ↔ f = Fields.unpack w := by
  obtain ⟨op, s, d, a, b, F⟩ := f
  rw [Fields.pack, show op ++ _ = w ↔ _ from append_eq_iff, append_eq_low_iff, append_eq_low_iff, append_eq_low_iff, append_eq_low_iff,
    ofBool_eq_iff, Fields.unpack, Fields.mk.injEq]

@[simp] theorem Fields.unpack_pack (f : Fields) : Fields.unpack f.pack = f := (Fields.pack_eq_iff.1 rfl).symm

@[simp] theorem Fields.pack_unpack (w : Word32) : (Fields.unpack w).pack = w := Fields.pack_eq_iff.2 rfl

theorem word32OfBytes_eq_iff {b0 b1 b2 b3 : Byte} {w : Word32} : word32OfBytes b0 b1 b2 b3 = w ↔ bytesOfWord32 w = [b0, b1, b2, b3] := by
  rw [word32OfBytes, show b3 ++ _ = w ↔ _ from append_eq_iff, append_eq_low_iff, append_eq_low_iff, bytesOfWord32]
  simp only [List.cons.injEq, and_true]
  tauto

theorem bytesOfWord32_word32OfBytes (b0 b1 b2 b3 : Byte) : bytesOfWord32 (word32OfBytes b0 b1 b2 b3) = [b0, b1, b2, b3] :=
  word32OfBytes_eq_iff.1 rfl

theorem isExt_pack (f : Fields) : isExt f.pack = (f.op.toNat == 0xFF) := by
  rw [isExt, show f.pack.extractLsb' 24 8 = (Fields.unpack f.pack).op from rfl, Fields.unpack_pack]

theorem ext_eq_iff {e : BitVec 24} {w : Word32} : 0xFF#8 ++ e = w ↔ isExt w = true ∧ e = extPayload w := by
  rw [show 0xFF#8 ++ e = w ↔ _ from append_eq_iff, isExt, extPayload, beq_iff_eq, ← BitVec.toNat_inj, eq_comm (a := (0xFF#8).toNat)]
  rfl

/-! ## Decoding bytes -/

/-- A word that is no EXT decodes alone (R33). -/
theorem decodeBytes_word {w : Word32} (h : isExt w = false) (rest : List Byte) :
    decodeBytes (bytesOfWord32 w ++ rest) = (decodeFields (Fields.unpack w) none).map (·, rest) := by
  have hw : word32OfBytes (w.extractLsb' 0 8) (w.extractLsb' 8 8) (w.extractLsb' 16 8) (w.extractLsb' 24 8) = w := word32OfBytes_eq_iff.2 rfl
  simp only [bytesOfWord32, List.cons_append, List.nil_append, decodeBytes, hw, h, decodeWord]
  cases decodeFields (Fields.unpack w) none <;> rfl

/-- An EXT word decodes with the word after it (R44). -/
theorem decodeBytes_ext {w v : Word32} (h : isExt w = true) (rest : List Byte) :
    decodeBytes (bytesOfWord32 w ++ (bytesOfWord32 v ++ rest)) = (decodeFields (Fields.unpack v) (some (extPayload w))).map (·, rest) := by
  have hw : word32OfBytes (w.extractLsb' 0 8) (w.extractLsb' 8 8) (w.extractLsb' 16 8) (w.extractLsb' 24 8) = w := word32OfBytes_eq_iff.2 rfl
  have hv : word32OfBytes (v.extractLsb' 0 8) (v.extractLsb' 8 8) (v.extractLsb' 16 8) (v.extractLsb' 24 8) = v := word32OfBytes_eq_iff.2 rfl
  simp only [bytesOfWord32, List.cons_append, List.nil_append, decodeBytes, hw, hv, h, decodePair]
  cases decodeFields (Fields.unpack v) (some (extPayload w)) <;> rfl

/-- Bytes that decode begin with a word that is no EXT, or with an EXT word and another (R33, R44). -/
theorem decodeBytes_ok_cases {bs rest : List Byte} {i : Instr} (h : decodeBytes bs = .ok (i, rest)) :
    (∃ w, isExt w = false ∧ bs = bytesOfWord32 w ++ rest ∧ decodeFields (Fields.unpack w) none = .ok i) ∨
    ∃ w v, isExt w = true ∧ bs = bytesOfWord32 w ++ (bytesOfWord32 v ++ rest) ∧ decodeFields (Fields.unpack v) (some (extPayload w)) = .ok i := by
  match bs with
  | b0 :: b1 :: b2 :: b3 :: tail =>
    have hb := bytesOfWord32_word32OfBytes b0 b1 b2 b3
    set w := word32OfBytes b0 b1 b2 b3
    rw [show b0 :: b1 :: b2 :: b3 :: tail = bytesOfWord32 w ++ tail by rw [hb]; rfl] at h ⊢
    cases he : isExt w with
    | false =>
      rw [decodeBytes_word he] at h
      left
      refine ⟨w, he, ?_⟩
      cases hd : decodeFields (Fields.unpack w) none with
      | error e => rw [hd] at h; cases h
      | ok j => rw [hd] at h; cases h; exact ⟨rfl, rfl⟩
    | true =>
      match tail with
      | c0 :: c1 :: c2 :: c3 :: tail' =>
        have hc := bytesOfWord32_word32OfBytes c0 c1 c2 c3
        set v := word32OfBytes c0 c1 c2 c3
        rw [show c0 :: c1 :: c2 :: c3 :: tail' = bytesOfWord32 v ++ tail' by rw [hc]; rfl] at h ⊢
        rw [decodeBytes_ext he] at h
        right
        refine ⟨w, v, he, ?_⟩
        cases hd : decodeFields (Fields.unpack v) (some (extPayload w)) with
        | error e => rw [hd] at h; cases h
        | ok j => rw [hd] at h; cases h; exact ⟨rfl, rfl⟩
      | [] | [_] | [_, _] | [_, _, _] => simp [hb, decodeBytes, he, w] at h
  | [] | [_] | [_, _] | [_, _, _] => cases h

/-! ## Encoding -/

theorem encodeBytes_word {i : Instr} {f : Fields} (h : encodeFields i = some (none, f)) : encodeBytes i = bytesOfWord32 f.pack := by
  simp [encodeBytes, encode, h]

theorem encodeBytes_ext {i : Instr} {e : BitVec 24} {f : Fields} (h : encodeFields i = some (some e, f)) :
    encodeBytes i = bytesOfWord32 (0xFF#8 ++ e) ++ bytesOfWord32 f.pack := by
  simp [encodeBytes, encode, h]

end Sys2Proof
end

section
/-! PROOF. Decoding and encoding (R33 to R46). -/

namespace Sys2Proof

/-- Settles O60: `decodeFields` and `encodeFields` are inverse on well-formed instructions, and so are the words and bytes around them. -/
theorem decodeAndEncodeAgree : Obligations.DecodeAndEncodeAgree := by
  refine ⟨fun i rest wf h => ?_, fun bs rest i h => ?_⟩
  · obtain ⟨⟨x, f⟩, h⟩ := Option.isSome_iff_exists.1 h
    have hd := decodeFields_eq_ok.2 ⟨wf, h⟩
    cases x with
    | none =>
      have hx : isExt f.pack = false := by rw [isExt_pack]; exact beq_false_of_ne (op_ne_ext wf h)
      rw [encodeBytes_word h, decodeBytes_word hx, Fields.unpack_pack, hd]
      rfl
    | some e =>
      obtain ⟨hx, he⟩ := ext_eq_iff.1 (rfl : 0xFF#8 ++ e = 0xFF#8 ++ e)
      rw [encodeBytes_ext h, List.append_assoc, decodeBytes_ext hx, Fields.unpack_pack, ← he, hd]
      rfl
  · rcases decodeBytes_ok_cases h with ⟨w, hx, rfl, hd⟩ | ⟨w, v, hx, rfl, hd⟩
    · obtain ⟨wf, he⟩ := decodeFields_eq_ok.1 hd
      exact ⟨wf, by rw [he]; rfl, by rw [encodeBytes_word he, Fields.pack_unpack]⟩
    · obtain ⟨wf, he⟩ := decodeFields_eq_ok.1 hd
      exact ⟨wf, by rw [he]; rfl, by rw [encodeBytes_ext he, Fields.pack_unpack, ext_eq_iff.2 ⟨hx, rfl⟩, List.append_assoc]⟩

end Sys2Proof
end

section
/-! SUPPORT. What the arithmetic of scalar instructions gives: narrowing to a type (R108), and the bits that counts and bit fields speak of
(R109, R113, R119, R120). -/

namespace Sys2Proof.Machine

open Sys2Proof

/-! ## From an instruction's meaning to what it gives -/

/-- An instruction that issues, writes one result of fixed latency, and completes, gives that result. -/
theorem State.issue_gives {s : State} {i : Instr} {sw : Bool} {size lat : Nat} {r : Reg} (rs ws : List Reg) (v : State → Vec)
    (h : exec i s = .next (s.issue rs ws fun u => (u.write r (v u) lat).retire sw size))
    (hv : ∀ f : Ctx → List Nat, v (s.modCtx fun c => { c with inTaint := f c }) = v s) (hf : r.fits (v s)) :
    s.gives i (rs ++ ws) sw size r (v s) lat :=
  fun ready => ⟨_, h, State.issue_write_computes ready sw size r v lat hv hf⟩

/-! ## Narrowing to a type (R108) -/

theorem two_pow_width (t : IntTy) : (2 : Int) ^ t.width = 2 * 2 ^ (t.width - 1) := by
  rw [← pow_succ', Nat.sub_add_cancel (width_pos t)]

/-- A number read in a type lies in the type's range. -/
theorem extInt_mem_range (t : IntTy) (v : Nat) : loInt t ≤ extInt t v ∧ extInt t v ≤ hiInt t := by
  have below : v % 2 ^ t.width < 2 ^ t.width := Nat.mod_lt _ (Nat.two_pow_pos _)
  have below : ((v % 2 ^ t.width : Nat) : Int) < (2 : Int) ^ t.width := mod_cast below
  have twice := two_pow_width t
  unfold extInt loInt hiInt
  cases t.signed
  · simp only [Bool.false_eq_true, if_false]
    omega
  · simp only [if_true, sextNat_width]
    split
    case isTrue small =>
      have small : ((v % 2 ^ t.width : Nat) : Int) < (2 : Int) ^ (t.width - 1) := mod_cast small
      omega
    case isFalse large =>
      have large : (2 : Int) ^ (t.width - 1) ≤ ((v % 2 ^ t.width : Nat) : Int) := mod_cast Nat.le_of_not_lt large
      omega

/-- A number read in a type is congruent to the bits that it is read from. -/
theorem extInt_emod (t : IntTy) (v : Nat) : (extInt t v - v) % (2 : Int) ^ t.width = 0 := by
  have low : ((v % 2 ^ t.width : Nat) : Int) = (v : Int) % (2 : Int) ^ t.width := by push_cast; rfl
  apply Int.emod_eq_zero_of_dvd
  have dvd : (2 : Int) ^ t.width ∣ (v : Int) % (2 : Int) ^ t.width - v := Int.dvd_sub_self_of_emod_eq rfl
  unfold extInt
  rw [sextNat_width, low]
  split
  · split
    · exact dvd
    · rw [sub_right_comm]
      exact dvd.sub (dvd_refl _)
  · exact dvd

/-- A saturated result is the exact one clamped to the range. -/
theorem satInt_eq_clamp {lo hi : Int} (h : lo ≤ hi) (y : Int) : satInt y lo hi = max lo (min y hi) := by
  unfold satInt
  split
  · omega
  · split <;> omega

theorem loInt_le_hiInt (t : IntTy) : loInt t ≤ hiInt t :=
  (extInt_mem_range t 0).1.trans (extInt_mem_range t 0).2

/-! ## Counting bits (R109, R120) -/

theorem testBit_lowBits (t : IntTy) (a : Word) (i : Nat) : (lowBits t a).testBit i = (decide (i < t.width) && a.getLsbD i) :=
  Nat.testBit_mod_two_pow ..

theorem leadingZeros_le (v : Nat) : ∀ w, leadingZeros v w ≤ w
  | 0 => Nat.le_refl 0
  | w + 1 => by
    have := leadingZeros_le v w
    unfold leadingZeros
    split <;> omega

/-- The bits that CLZ counts are zero. -/
theorem testBit_of_leadingZeros (v : Nat) : ∀ {w i}, w - leadingZeros v w ≤ i → i < w → v.testBit i = false
  | w + 1, i, above, below => by
    unfold leadingZeros at above
    split at above
    · omega
    case isFalse top =>
      by_cases last : i = w
      · rw [last]
        exact Bool.eq_false_iff.2 top
      · have := leadingZeros_le v w
        exact testBit_of_leadingZeros v (w := w) (by omega) (by omega)

/-- CLZ stops at a bit that is one. -/
theorem testBit_leadingZeros (v : Nat) : ∀ {w}, leadingZeros v w < w → v.testBit (w - 1 - leadingZeros v w) = true
  | w + 1, less => by
    unfold leadingZeros at less ⊢
    split
    case isTrue top => exact top
    case isFalse top =>
      rw [if_neg top] at less
      have := testBit_leadingZeros v (w := w) (by omega)
      rwa [show w + 1 - 1 - (1 + leadingZeros v w) = w - 1 - leadingZeros v w by omega]

theorem trailingZeros_le (v w : Nat) : trailingZeros v w ≤ w := by
  induction w generalizing v with
  | zero => exact Nat.le_refl 0
  | succ w ih =>
    have := ih (v / 2)
    unfold trailingZeros
    split <;> omega

/-- The bits that CTZ counts are zero. -/
theorem testBit_of_trailingZeros {v w i : Nat} (h : i < trailingZeros v w) : v.testBit i = false := by
  induction w generalizing v i with
  | zero => exact absurd h (Nat.not_lt_zero i)
  | succ w ih =>
    unfold trailingZeros at h
    split at h
    · omega
    case isFalse low =>
      cases i with
      | zero => rw [Nat.testBit_zero]; exact decide_eq_false low
      | succ i => rw [Nat.testBit_succ]; exact ih (by omega)

/-- CTZ stops at a bit that is one. -/
theorem testBit_trailingZeros {v w : Nat} (h : trailingZeros v w < w) : v.testBit (trailingZeros v w) = true := by
  induction w generalizing v with
  | zero => exact absurd h (Nat.not_lt_zero _)
  | succ w ih =>
    unfold trailingZeros at h ⊢
    split
    case isTrue low => rw [Nat.testBit_zero]; exact decide_eq_true low
    case isFalse low =>
      rw [if_neg low] at h
      rw [Nat.add_comm, Nat.testBit_succ]
      exact ih (by omega)

/-- POPC counts the positions of one bits. -/
theorem popCount_eq_length_filter (v w : Nat) : popCount v w = ((List.range w).filter fun i => v.testBit i).length := by
  induction w generalizing v with
  | zero => rfl
  | succ w ih =>
    rw [popCount, ih, List.range_succ_eq_map, List.filter_cons, List.filter_map, Nat.testBit_zero]
    simp only [Function.comp_def, Nat.testBit_succ]
    split
    case isTrue low => simp [of_decide_eq_true low, Nat.add_comm]
    case isFalse low =>
      have : v % 2 = 0 := by
        have := of_decide_eq_false (Bool.eq_false_iff.2 low)
        omega
      simp [this]

/-! ## Bit fields (R113) -/

theorem fieldPos_lt (b : Word) : fieldPos b < 64 := Nat.mod_lt _ (by decide)

/-- The field is cut at bit 63. -/
theorem fieldBits_eq (b : Word) : fieldBits b = min (b.toNat / 256 % 64 + 1) (64 - fieldPos b) := rfl

theorem fieldBits_pos (b : Word) : 0 < fieldBits b := by
  have := fieldPos_lt b
  rw [fieldBits_eq]
  omega

/-- A bit of the field of xA. -/
theorem testBit_field (a : Word) (p n i : Nat) : (a.toNat / 2 ^ p % 2 ^ n).testBit i = (decide (i < n) && a.getLsbD (p + i)) := by
  rw [Nat.testBit_mod_two_pow, Nat.testBit_div_two_pow, Nat.add_comm]
  rfl

/-- A number below 2^n is below half of it when its top bit is zero. -/
theorem lt_two_pow_pred_iff {f n : Nat} (pos : 0 < n) (h : f < 2 ^ n) : f < 2 ^ (n - 1) ↔ f.testBit (n - 1) = false := by
  constructor
  · exact Nat.testBit_lt_two_pow
  · intro top
    refine Nat.lt_pow_two_of_testBit f fun i hi => ?_
    by_cases last : i = n - 1
    · rw [last]
      exact top
    · exact Nat.testBit_lt_two_pow (h.trans_le (Nat.pow_le_pow_right two_pos (by omega)))

/-- A bit of a number of `n` bits, sign-extended to a register. -/
theorem getLsbD_wrap64_sextNat {f n i : Nat} (pos : 0 < n) (le : n ≤ 64) (h : f < 2 ^ n) (hi : i < 64) :
    (wrap64 (sextNat f n)).getLsbD i = if i < n then f.testBit i else f.testBit (n - 1) := by
  have fits : wrap64 (sextNat f n) = (BitVec.ofNat n f).signExtend 64 := by
    apply BitVec.eq_of_toInt_eq
    rw [BitVec.toInt_signExtend_of_le le, BitVec.toInt_ofInt, BitVec.toInt_eq_toNat_cond, BitVec.toNat_ofNat]
    have half : 2 ^ n = 2 * 2 ^ (n - 1) := by rw [← pow_succ', Nat.sub_add_cancel pos]
    have le : 2 ^ n ≤ 2 ^ 64 := Nat.pow_le_pow_right two_pos le
    rw [sextNat, if_neg pos.ne', Nat.mod_eq_of_lt h]
    norm_num at le
    have cast : (2 : Int) ^ n = ((2 ^ n : Nat) : Int) := by push_cast; rfl
    rw [cast]
    split
    · rw [if_pos (by omega), Int.bmod_def]
      norm_num
      omega
    · rw [if_neg (by omega), Int.bmod_def]
      norm_num
      omega
  rw [fits, BitVec.getLsbD_signExtend, BitVec.getLsbD_ofNat, BitVec.msb_eq_getLsbD_last, BitVec.getLsbD_ofNat]
  split <;> simp [*]

/-- What BFX takes (R113). -/
theorem getLsbD_bfxWord (t : IntTy) (a b : Word) {i : Nat} (hi : i < 64) :
    (bfxWord t a b).getLsbD i =
      if i < fieldBits b then a.getLsbD (fieldPos b + i) else t.signed && a.getLsbD (fieldPos b + fieldBits b - 1) := by
  have pos := fieldBits_pos b
  have le : fieldBits b ≤ 64 := by rw [fieldBits_eq]; omega
  have last : fieldPos b + (fieldBits b - 1) = fieldPos b + fieldBits b - 1 := by omega
  unfold bfxWord
  dsimp only
  split
  case isTrue sgn =>
    rw [getLsbD_wrap64_sextNat pos le (Nat.mod_lt _ (Nat.two_pow_pos _)) hi]
    simp only [testBit_field, sgn, last]
    split
    case isTrue below => simp [below]
    case isFalse => simp [pos]
  case isFalse uns =>
    rw [BitVec.getLsbD_ofNat, testBit_field]
    simp [hi, uns]

/-- A bit of BFI's mask (R113). -/
theorem testBit_fieldMask (p n i : Nat) : ((2 ^ n - 1) * 2 ^ p).testBit i = decide (p ≤ i ∧ i < p + n) := by
  rw [Nat.testBit_mul_two_pow, Nat.testBit_two_pow_sub_one]
  by_cases h : p ≤ i
  · simp [h]; omega
  · simp [h]

/-- What BFI puts (R113). -/
theorem getLsbD_bfiWord (d a b : Word) {i : Nat} (hi : i < 64) :
    (bfiWord d a b).getLsbD i =
      if fieldPos b ≤ i ∧ i < fieldPos b + fieldBits b then a.getLsbD (i - fieldPos b) else d.getLsbD i := by
  unfold bfiWord
  dsimp only
  rw [BitVec.getLsbD_or, BitVec.getLsbD_and, BitVec.getLsbD_and, BitVec.getLsbD_not, BitVec.getLsbD_ofNat, BitVec.getLsbD_ofNat,
    testBit_fieldMask, Nat.testBit_mul_two_pow]
  split
  case isTrue inside => simp [hi, inside, BitVec.getLsbD]
  case isFalse outside => simp [hi, outside]

/-! ## Predicates (R118, R119) -/

theorem condInt_iff (c : Cond) (a b : Int) :
    condInt c a b = true ↔ match c with | .eq => a = b | .ne => a ≠ b | .lt => a < b | .le => a ≤ b | .gt => a > b | .ge => a ≥ b := by
  cases c <;> exact decide_eq_true_iff

/-- A bit of PLOG's result is the table's entry for the two bits (R119). -/
theorem getLsbD_plogWord (t : BitVec 4) (a b : Word) {i : Nat} (hi : i < 64) :
    (plogWord t a b).getLsbD i = t.getLsbD (2 * (a.getLsbD i).toNat + (b.getLsbD i).toNat) := by
  have entry (k : Nat) (w : Word) : (if t.getLsbD k then w else 0).getLsbD i = (t.getLsbD k && w.getLsbD i) := by
    split <;> simp [*]
  simp only [plogWord, BitVec.getLsbD_or, entry, BitVec.getLsbD_and, BitVec.getLsbD_not, hi, decide_true, Bool.true_and]
  cases a.getLsbD i <;> cases b.getLsbD i <;> simp

/-- The low bits of two registers are equal bit by bit (R117). -/
theorem lowBits_eq_iff (t : IntTy) (a b : Word) : lowBits t a = lowBits t b ↔ ∀ i < t.width, a.getLsbD i = b.getLsbD i := by
  constructor
  · intro h i hi
    have := congrArg (Nat.testBit · i) h
    simpa [testBit_lowBits, hi] using this
  · intro h
    refine Nat.eq_of_testBit_eq fun i => ?_
    rw [testBit_lowBits, testBit_lowBits]
    by_cases hi : i < t.width
    · rw [h i hi]
    · simp [hi]

end Sys2Proof.Machine
end

section
/-! PROOF. The scalar statements: narrowing (R108), logic, order and immediate forms (R109, R110, R115 to R117), and bit fields, moves and
predicates (R113, R114, R117 to R120). -/

namespace Sys2Proof.Machine

open Sys2Proof

/-- Settles O1: wrapping and reading give a number of the range that is congruent to what they are given, and saturation is clamping. -/
theorem typedResultsNarrowAsTheTypeSays : Obligations.TypedResultsNarrowAsTheTypeSays := by
  unfold Obligations.TypedResultsNarrowAsTheTypeSays
  intro t y x
  refine ⟨⟨(extInt_mem_range t _).1, (extInt_mem_range t _).2, extInt_emod t _⟩, ?_, narrowInt t .wrap y, rfl,
    (extInt_mem_range t _).1, (extInt_mem_range t _).2, ?_⟩
  · exact congrArg wrap64 (satInt_eq_clamp (loInt_le_hiInt t) y)
  · have congr := extInt_emod t (y % (2 : Int) ^ t.width).toNat
    have pos : (0 : Int) < 2 ^ t.width := by positivity
    rw [Int.toNat_of_nonneg (Int.emod_nonneg _ pos.ne')] at congr
    rwa [← Int.emod_emod_of_dvd _ (dvd_refl _), Int.sub_emod, ← Int.emod_emod_of_dvd y (dvd_refl _), ← Int.sub_emod, Int.emod_emod_of_dvd _ (dvd_refl _)]

/-- Settles O3: each instruction is `binary` or `unary` of its operation, or writes the one word that it computes. -/
theorem logicOrderAndImmediateForms : Obligations.LogicOrderAndImmediateForms := by
  unfold Obligations.LogicOrderAndImmediateForms
  refine ⟨fun s sw d a b t => ?_, fun s sw d a b i e j k6 k => ?_⟩
  · intro A B rs
    refine ⟨?_, ?_, ?_, ?_, ?_, ?_, ?_⟩
    · exact State.binary_gives (fun x y => typedWord t .wrap ((x &&& y).toNat : Int)) rfl
    · exact State.binary_gives (fun x y => typedWord t .wrap ((x ||| y).toNat : Int)) rfl
    · exact State.binary_gives (fun x y => typedWord t .wrap ((x ^^^ y).toNat : Int)) rfl
    · rw [show min A B = minInt A B from (min_def ..)]
      exact State.binary_gives (typed2 t .wrap minInt) rfl
    · rw [show max A B = maxInt A B by unfold maxInt; omega]
      exact State.binary_gives (typed2 t .wrap maxInt) rfl
    · have h := State.binary_gives (s := s) (i := .slt sw d a b t) (fun x y => boolWord (decide (extWord t x < extWord t y))) rfl
      simpa [boolWord] using h
    · have h := State.binary_gives (s := s) (i := .seq sw d a b t) (fun x y => boolWord (decide (lowBits t x = lowBits t y))) rfl
      simpa [boolWord, lowBits_eq_iff] using h
  · intro A I D size rs
    refine ⟨?_, ?_, ?_, ?_, ?_, ?_, ?_, ?_, ?_, ?_, ?_, ?_⟩
    · exact State.unary_gives (· + immWord i e) rfl
    · exact State.unary_gives (· * immWord i e) rfl
    · exact State.unary_gives (· &&& immWord i e) rfl
    · exact State.unary_gives (· ||| immWord i e) rfl
    · exact State.unary_gives (· ^^^ immWord i e) rfl
    · have h := State.unary_gives (s := s) (i := .slti sw d a i e) (fun x => boolWord (decide (x.toInt < (immWord i e).toInt))) rfl
      simp only [boolWord, decide_eq_true_eq] at h
      exact h
    · have h := State.unary_gives (s := s) (i := .seqi sw d a i e) (fun x => boolWord (decide (x = immWord i e))) rfl
      simp only [boolWord, decide_eq_true_eq] at h
      exact h
    · exact State.unary_gives (· <<< j.toNat) rfl
    · exact State.unary_gives (· >>> j.toNat) rfl
    · exact State.unary_gives (BitVec.sshiftRight · j.toNat) rfl
    · exact State.issue_gives [] [.x d] (fun _ => wide (immWord i e)) rfl (fun _ => rfl) (Reg.fits_wide _ _)
    · exact State.issue_gives [.x a, .x b] [.x d] (fun u => wide (effAddr (u.readX a) (u.readX b) k (leaDisp k6 e))) rfl
        (fun _ => by simp only [State.readX_inTaint]) (Reg.fits_wide _ _)

/-- Settles O5: the counts and bit fields are those of `leadingZeros`, `trailingZeros`, `popCount`, `bfxWord` and `bfiWord`, whose bits are known,
and the moves write the word that they read. -/
theorem bitFieldsMovesAndPredicates : Obligations.BitFieldsMovesAndPredicates := by
  unfold Obligations.BitFieldsMovesAndPredicates
  refine ⟨fun s sw d a b t => ?_, fun s sw d a b p q r t c T => ?_⟩
  · intro A pos n w
    have low {i : Nat} (hi : i < w) : (lowBits t A).testBit i = A.getLsbD i := by simp [testBit_lowBits, show i < t.width from hi]
    refine ⟨?_, ?_, ?_, ?_, ?_⟩
    · refine ⟨leadingZeros (lowBits t A) w, leadingZeros_le _ _, fun i above below => ?_, fun less => ?_,
        State.unary_gives (fun x => typedWord t .wrap (leadingZeros (lowBits t x) t.width : Nat)) rfl⟩
      · rw [← low below]
        exact testBit_of_leadingZeros _ above below
      · rw [← low (by omega)]
        exact testBit_leadingZeros _ less
    · refine ⟨trailingZeros (lowBits t A) w, trailingZeros_le _ _, fun i below => ?_, fun less => ?_,
        State.unary_gives (fun x => typedWord t .wrap (trailingZeros (lowBits t x) t.width : Nat)) rfl⟩
      · have := trailingZeros_le (lowBits t A) w
        rw [← low (by omega)]
        exact testBit_of_trailingZeros below
      · rw [← low less]
        exact testBit_trailingZeros less
    · have count : ((List.range w).filter fun i => A.getLsbD i).length = popCount (lowBits t A) w := by
        rw [popCount_eq_length_filter]
        exact congrArg List.length (List.filter_congr fun i hi => (low (List.mem_range.1 hi)).symm)
      rw [count]
      exact State.unary_gives (fun x => typedWord t .wrap (popCount (lowBits t x) t.width : Nat)) rfl
    · exact ⟨bfxWord t A (s.readX b), fun i hi => getLsbD_bfxWord t A _ hi, State.binary_gives (bfxWord t) rfl⟩
    · exact ⟨bfiWord (s.readX d) A (s.readX b), fun i hi => getLsbD_bfiWord _ A _ hi,
        State.issue_gives [.x a, .x b, .x d] [] (fun u => wide (bfiWord (u.readX d) (u.readX a) (u.readX b))) rfl
          (fun _ => by simp only [State.readX_inTaint]) (Reg.fits_wide _ _)⟩
  · intro A B holds
    have cond : condInt c A B = true ↔ holds := condInt_iff c A B
    have pcmp := State.issue_gives (s := s) (i := .pcmp sw p a b t c) [.x a, .x b] [.p p]
      (fun u => wide (if condInt c (extWord t (u.readX a)) (extWord t (u.readX b)) then allOnes64 else 0)) rfl
      (fun _ => by simp only [State.readX_inTaint]) (Reg.fits_wide _ _)
    refine ⟨?_, ?_, fun h => ?_, fun h => ?_, ?_, ?_, ?_, ?_⟩
    · exact State.unary_gives id rfl
    · exact State.issue_gives [.x a, .x b, .p p] [.x d] (fun u => wide (if (u.readP p).getLsbD 0 then u.readX a else u.readX b)) rfl
        (fun _ => by simp only [State.readX_inTaint, State.readP_inTaint]) (Reg.fits_wide _ _)
    · rwa [if_pos (cond.2 h)] at pcmp
    · rwa [if_neg fun e => h (cond.1 e)] at pcmp
    · exact ⟨plogWord T (s.readP q) (s.readP r), fun i hi => getLsbD_plogWord T _ _ hi,
        State.issue_gives [.p q, .p r] [.p p] (fun u => wide (plogWord T (u.readP q) (u.readP r))) rfl
          (fun _ => by simp only [State.readP_inTaint]) (Reg.fits_wide _ _)⟩
    · exact State.issue_gives [.x a] [.p p] (fun u => wide (u.readX a)) rfl (fun _ => by simp only [State.readX_inTaint]) (Reg.fits_wide _ _)
    · exact State.issue_gives [.p p] [.x d] (fun u => wide (u.readP p)) rfl (fun _ => by simp only [State.readP_inTaint]) (Reg.fits_wide _ _)
    · rw [show ((List.range (512 / t.width)).filter fun i => (s.readP p).getLsbD i).length =
          popCount (s.readP p).toNat (512 / t.width) from (popCount_eq_length_filter _ _).symm]
      exact State.issue_gives [.p p] [.x d] (fun u => wide (BitVec.ofNat 64 (popCount (u.readP p).toNat (512 / t.width)))) rfl
        (fun _ => by simp only [State.readP_inTaint]) (Reg.fits_wide _ _)

/-- Settles O57: the kernel runs the decoder on each word. -/
theorem wordsOfTheSpecDecode : Obligations.WordsOfTheSpecDecode := by
  unfold Obligations.WordsOfTheSpecDecode
  decide

end Sys2Proof.Machine
end

section
/-! SUPPORT. A core cycle in which nothing issues, and what counting it changes (R17, R420). -/

namespace Sys2Proof.Machine

open Sys2Proof

/-- With no context ready the cycle issues nothing. -/
theorem issueFrom_of_not_ready (s : State) : ∀ l : List (Fin 11), (∀ n ∈ l, s.readyAt n = false) → issueFrom s l = .next s
  | [], _ => by unfold issueFrom; rfl
  | n :: l, h => by
    unfold issueFrom
    rw [h n (List.mem_cons_self ..), if_neg Bool.false_ne_true]
    exact issueFrom_of_not_ready s l fun m hm => h m (List.mem_cons_of_mem _ hm)

/-- With nothing to serve nothing is served. -/
theorem serve_nil (s : State) : serve s [] = .next s := by unfold serve; rfl

theorem State.count_parts (s : State) (ev : BitVec 8) :
    (s.count ev).mem = s.mem ∧ (s.count ev).ctxs = s.ctxs ∧ (s.count ev).job = s.job ∧ (s.count ev).cycle = s.cycle := by
  unfold State.count
  split <;> exact ⟨rfl, rfl, rfl, rfl⟩

/-- Counting the cycle changes no more than the counters. -/
theorem State.countCycle_parts (s : State) :
    s.countCycle.mem = s.mem ∧ s.countCycle.ctxs = s.ctxs ∧ s.countCycle.job = s.job ∧ s.countCycle.cycle = s.cycle := by
  unfold State.countCycle
  have count := State.count_parts
  dsimp only
  split <;> split <;> simp

end Sys2Proof.Machine
end

section
/-! PROOF. The machine after reset (R428, R429). -/

namespace Sys2Proof.Machine

open Sys2Proof

theorem State.reset_ctxAt (n : Fin 11) : State.reset.ctxAt n = Ctx.reset := by
  simp [State.reset, State.ctxAt, get_eq_getElem]

/-- No context of a core without a job may go. -/
theorem reset_tick_mayGo (n : Fin 11) : State.reset.tick.mayGo n = false := by
  unfold State.mayGo
  rw [show State.reset.tick.ctxAt n = Ctx.reset from State.reset_ctxAt n]
  rfl

/-- The first step after reset is a core cycle in which nothing issues. -/
theorem step_reset : step State.reset = .next State.reset.tick.countCycle := by
  have ready : ∀ n ∈ State.reset.tick.order, State.reset.tick.readyAt n = false := fun n _ => by
    rw [State.readyAt, reset_tick_mayGo, Bool.false_and]
  have served : State.reset.tick.order.filter State.reset.tick.attends = [] :=
    List.filter_eq_nil_iff.2 fun n _ => by rw [State.attends, reset_tick_mayGo, Bool.false_and]; exact Bool.false_ne_true
  have cycle : cycleStep State.reset = .next State.reset.tick.countCycle := by
    rw [cycleStep, issueFrom_of_not_ready _ _ ready, served]
    dsimp only
    rw [serve_nil]
  exact cycle

/-- Settles O58: the state after reset is given field by field, and its first step is a core cycle in which nothing issues. -/
theorem resetLeavesTheMachineEmpty : Obligations.ResetLeavesTheMachineEmpty := by
  unfold Obligations.ResetLeavesTheMachineEmpty
  obtain ⟨mem, ctxs, job, cycle⟩ := State.reset.tick.countCycle_parts
  refine ⟨rfl, fun n => ?_, fun n r => ?_, fun n => ?_, rfl, fun _ => rfl, fun _ => rfl, rfl, rfl, rfl, rfl, rfl, rfl, rfl, rfl, fun _ => rfl,
    fun k => ?_, rfl, rfl, fun g => ?_, rfl, _, step_reset, mem, ctxs, job, cycle⟩
  · rw [State.reset_ctxAt]; rfl
  · rw [State.reset_ctxAt]; exact Ctx.reset_reg r
  · rw [State.reset_ctxAt]; exact ⟨rfl, rfl⟩
  · simp [State.reset, Core.reset, get_eq_getElem, Port.closed]
  · simp [State.reset, Barriers.reset, get_eq_getElem, Group.unreserved]

end Sys2Proof.Machine
end

section
/-! SUPPORT. Traps: what the record holds, and what entering a handler at once changes (R140, R141, R145). -/

namespace Sys2Proof.Machine

open Sys2Proof

/-! ## Logging changes no context (R422) -/

@[simp] theorem State.logEntry_ctx (s : State) (withJob : Bool) (cls cause source : Nat) (detail : BitVec 32) (addr : Word) :
    (s.logEntry withJob cls cause source detail addr).ctx = s.ctx := by rw [State.logEntry_only]; rfl
@[simp] theorem State.logEntry_ctxs (s : State) (withJob : Bool) (cls cause source : Nat) (detail : BitVec 32) (addr : Word) :
    (s.logEntry withJob cls cause source detail addr).ctxs = s.ctxs := by rw [State.logEntry_only]
@[simp] theorem State.logEntry_cur (s : State) (withJob : Bool) (cls cause source : Nat) (detail : BitVec 32) (addr : Word) :
    (s.logEntry withJob cls cause source detail addr).cur = s.cur := by rw [State.logEntry_only]
@[simp] theorem State.logEntry_cycle (s : State) (withJob : Bool) (cls cause source : Nat) (detail : BitVec 32) (addr : Word) :
    (s.logEntry withJob cls cause source detail addr).cycle = s.cycle := by rw [State.logEntry_only]
@[simp] theorem State.logEntry_core (s : State) (withJob : Bool) (cls cause source : Nat) (detail : BitVec 32) (addr : Word) :
    (s.logEntry withJob cls cause source detail addr).core = s.core := by rw [State.logEntry_only]
@[simp] theorem State.logEntry_trapvec (s : State) (withJob : Bool) (cls cause source : Nat) (detail : BitVec 32) (addr : Word) :
    (s.logEntry withJob cls cause source detail addr).job.trapvec = s.job.trapvec := by rw [State.logEntry_only]
@[simp] theorem State.logEntry_stopping (s : State) (withJob : Bool) (cls cause source : Nat) (detail : BitVec 32) (addr : Word) :
    (s.logEntry withJob cls cause source detail addr).job.stopping = s.job.stopping := by rw [State.logEntry_only]

@[simp] theorem State.trace_ctx (s : State) (kind ctx : Nat) (payload : Word) : (s.trace kind ctx payload).ctx = s.ctx := by
  rw [State.trace_only]; rfl
@[simp] theorem State.trace_core (s : State) (kind ctx : Nat) (payload : Word) : (s.trace kind ctx payload).core = s.core := by
  rw [State.trace_only]

theorem State.logTrap_ctx (s : State) (t : TrapInfo) : (s.logTrap t).ctx = s.ctx := by
  unfold State.logTrap
  split
  · exact State.logEntry_ctx ..
  · rfl

theorem State.logTrap_cycle (s : State) (t : TrapInfo) : (s.logTrap t).cycle = s.cycle := by
  unfold State.logTrap
  split
  · exact State.logEntry_cycle ..
  · rfl

theorem State.logTrap_trapvec (s : State) (t : TrapInfo) : (s.logTrap t).job.trapvec = s.job.trapvec := by
  unfold State.logTrap
  split
  · exact State.logEntry_trapvec ..
  · rfl

theorem State.logTrap_core (s : State) (t : TrapInfo) : (s.logTrap t).core = s.core := by
  unfold State.logTrap
  split
  · exact State.logEntry_core ..
  · rfl

/-! ## TRAPREC0 (R141) -/

theorem natBits_add_mul {lo hi : Nat} (x y : Nat) (h : y < 2 ^ lo) : natBits (x * 2 ^ lo + y) hi lo = x % 2 ^ (hi + 1 - lo) := by
  rw [natBits, Nat.add_comm, Nat.add_mul_div_right _ _ (Nat.two_pow_pos lo), Nat.div_eq_of_lt h, Nat.zero_add]

theorem bitAt_le (b : Bool) (n : Nat) : bitAt b n ≤ 2 ^ n := by
  unfold bitAt
  split
  · exact Nat.le_refl _
  · exact Nat.zero_le _

theorem bitAt_eq (b : Bool) (n : Nat) : bitAt b n = b.toNat * 2 ^ n := by
  cases b <;> simp [bitAt]

/-- TRAPREC0 as a number. -/
theorem traprec0_toNat (t : TrapInfo) :
    (traprec0 t).toNat = t.detail.toNat * 2 ^ 32 + (t.tag.getD 0).toNat * 2 ^ 19 + t.tag.isSome.toNat * 2 ^ 18 + t.fetch.toNat * 2 ^ 17
      + t.next.toNat * 2 ^ 16 + t.cause.toNat := by
  have detail := t.detail.isLt
  have tag := (t.tag.getD 0).isLt
  have cause := t.cause.isLt
  have some := t.tag.isSome.toNat_le
  have fetch := t.fetch.toNat_le
  have next := t.next.toNat_le
  rw [traprec0, BitVec.toNat_ofNat, bitAt_eq, bitAt_eq, bitAt_eq]
  omega

/-- A bit of a word, by the number that it is. -/
theorem getLsbD_eq_of_toNat {w n : Nat} (x : BitVec w) (b : Bool) (h : x.toNat / 2 ^ n % 2 = b.toNat) : x.getLsbD n = b := by
  rw [BitVec.getLsbD, Nat.testBit_eq_decide_div_mod_eq, h]
  cases b <;> rfl

theorem traprec0_cause (t : TrapInfo) : natBits (traprec0 t).toNat 7 0 = t.cause.toNat := by
  have := t.cause.isLt
  rw [traprec0_toNat, natBits]
  omega

theorem traprec0_detail (t : TrapInfo) : natBits (traprec0 t).toNat 63 32 = t.detail.toNat := by
  have := t.detail.isLt
  have := (t.tag.getD 0).isLt
  have := t.cause.isLt
  have := t.tag.isSome.toNat_le
  have := t.fetch.toNat_le
  have := t.next.toNat_le
  rw [traprec0_toNat, natBits]
  omega

theorem traprec0_next (t : TrapInfo) : (traprec0 t).getLsbD 16 = t.next := by
  have := t.cause.isLt
  have := t.next.toNat_le
  refine getLsbD_eq_of_toNat _ _ ?_
  rw [traprec0_toNat]
  omega

theorem traprec0_fetch (t : TrapInfo) : (traprec0 t).getLsbD 17 = t.fetch := by
  have := t.cause.isLt
  have := t.next.toNat_le
  have := t.fetch.toNat_le
  refine getLsbD_eq_of_toNat _ _ ?_
  rw [traprec0_toNat]
  omega

theorem traprec0_tag (t : TrapInfo) :
    (traprec0 t).getLsbD 18 = t.tag.isSome ∧ natBits (traprec0 t).toNat 23 19 = (t.tag.getD 0).toNat := by
  have := t.cause.isLt
  have := (t.tag.getD 0).isLt
  have := t.tag.isSome.toNat_le
  have := t.next.toNat_le
  have := t.fetch.toNat_le
  constructor
  · refine getLsbD_eq_of_toNat _ _ ?_
    rw [traprec0_toNat]
    omega
  · rw [traprec0_toNat, natBits]
    omega

theorem traprec0_zero (t : TrapInfo) : natBits (traprec0 t).toNat 15 8 = 0 ∧ natBits (traprec0 t).toNat 31 24 = 0 := by
  have := t.cause.isLt
  have := (t.tag.getD 0).isLt
  have := t.tag.isSome.toNat_le
  have := t.next.toNat_le
  have := t.fetch.toNat_le
  rw [traprec0_toNat, natBits, natBits]
  omega

/-! ## Entering the handler (R140) -/

/-- With nothing outstanding nothing settles. -/
theorem Ctx.settle_nil {c : Ctx} (h : c.writes = []) (cycle : Nat) : c.settle cycle = c := by
  rw [Ctx.settle, h]
  rfl

/-- Entering writes the record and goes to the handler. -/
theorem Ctx.enter_entered (c : Ctx) (t : TrapInfo) (trapvec : Word) (cycle : Nat) : c.entered (c.enter t trapvec cycle) t trapvec where
  regs := Ctx.reg_congr rfl rfl rfl
  inTrap := rfl
  pc := rfl
  cause := traprec0_cause t
  detail := traprec0_detail t
  next := traprec0_next t
  fetch := traprec0_fetch t
  tag := traprec0_tag t
  zero := traprec0_zero t
  ret := rfl
  iaddr := rfl
  caddr := rfl
  loops := ⟨rfl, rfl, rfl⟩
  rpt := ⟨rfl, rfl⟩
  slots := ⟨rfl, rfl⟩
  wait := rfl

/-- A trap's entry does not depend on whether its refused access is logged. -/
theorem Ctx.entered.of_log {c d : Ctx} {t : TrapInfo} {v : Word} {l : Bool} (h : c.entered d { t with log := l } v) : c.entered d t v :=
  { h with }

/-- A context that can enter a handler takes a trap at once (R140). -/
theorem State.takeTrap_trappable {s : State} (h : s.ctx.trappable) (t : TrapInfo) :
    s.takeTrap t =
      if s.claimed then (s.modCtx fun c => c.enter t s.job.trapvec s.cycle).trace 1 s.cur.val (traprec0 t)
      else s.modCtx fun c => c.enter t s.job.trapvec s.cycle := by
  obtain ⟨out, none⟩ := h
  unfold State.takeTrap
  rw [Ctx.settle_nil none]
  dsimp only
  rw [none, State.setCtx_ctx, List.isEmpty_nil, if_pos rfl, State.enterTrap, out]
  rfl

/-- A trap that a trappable context takes enters the handler. -/
theorem State.takeTrap_ctx {s : State} (h : s.ctx.trappable) (t : TrapInfo) :
    (s.takeTrap t).ctx = s.ctx.enter t s.job.trapvec s.cycle := by
  rw [State.takeTrap_trappable h]
  split
  · rw [State.trace_ctx, State.ctx_modCtx]
  · rw [State.ctx_modCtx]

theorem State.raise_ctx {s : State} (h : s.ctx.trappable) (t : TrapInfo) :
    (s.raise t).ctx = s.ctx.enter { t with log := false } s.job.trapvec s.cycle := by
  have same := State.logTrap_ctx s t
  rw [State.raise, State.takeTrap_ctx (by rwa [same]), same, State.logTrap_trapvec, State.logTrap_cycle]

/-- Raising a trap that can be entered at once enters the handler (R140). -/
theorem State.raise_entered {s : State} (h : s.ctx.trappable) (t : TrapInfo) : s.ctx.entered (s.raise t).ctx t s.job.trapvec := by
  rw [State.raise_ctx h]
  exact (Ctx.enter_entered ..).of_log

/-- What an instruction notes of its taint does not matter to a handler's entry. -/
theorem Ctx.entered.of_inTaint {c d : Ctx} {ts : List Nat} {t : TrapInfo} {v : Word}
    (h : ({ c with inTaint := ts } : Ctx).entered d t v) : c.entered d t v :=
  { h with regs := fun r => (h.regs r).trans (Ctx.reg_inTaint c ts r) }

theorem State.issued_trappable {s : State} (h : s.ctx.trappable) (rs : List Reg) : (s.issued rs).ctx.trappable := by
  rw [State.issued_ctx]
  exact h

theorem State.issued_pc (s : State) (rs : List Reg) : (s.issued rs).pc = s.ctx.pc := by
  rw [State.pc, State.issued_ctx]

/-- An instruction that issues and raises a trap enters the handler. -/
theorem State.issued_raise_entered {s : State} (h : s.ctx.trappable) (rs : List Reg) (t : TrapInfo) :
    s.ctx.entered ((s.issued rs).raise t).ctx t s.job.trapvec := by
  have entered := State.raise_entered (State.issued_trappable h rs) t
  rw [State.issued_ctx] at entered
  exact entered.of_inTaint

/-- An instruction that issues and traps at its own address. -/
theorem State.issued_trapHere_entered {s : State} (h : s.ctx.trappable) (rs : List Reg) (cause : BitVec 8) (detail : BitVec 32) (caddr : Word) :
    s.ctx.entered ((s.issued rs).trapHere cause detail caddr).ctx (TrapInfo.at s.ctx.pc cause detail caddr) s.job.trapvec := by
  rw [State.trapHere, State.issued_pc]
  exact State.issued_raise_entered h rs _

/-- The illegal-operation trap of an instruction that issues. -/
theorem State.issued_illegal_entered {s : State} (h : s.ctx.trappable) (rs : List Reg) :
    s.ctx.entered (s.issued rs).illegal.ctx (TrapInfo.at s.ctx.pc 0x02 0 0) s.job.trapvec :=
  State.issued_trapHere_entered h rs 0x02 0 0

/-- A trap that is also a violation is entered as any other. -/
theorem State.trapLogged_ctx {s : State} (h : s.ctx.trappable) (cause : BitVec 8) (detail : BitVec 32) (caddr : Word) :
    (s.trapLogged cause detail caddr).ctx = s.ctx.enter (TrapInfo.at s.ctx.pc cause detail caddr) s.job.trapvec s.cycle := by
  have same : (s.violation cause detail caddr).ctx = s.ctx := State.logEntry_ctx ..
  rw [State.trapLogged, State.trapHere, State.raise_ctx (by rwa [same]), State.pc, same]
  simp [State.violation, TrapInfo.at]

theorem State.issued_trapLogged_entered {s : State} (h : s.ctx.trappable) (rs : List Reg) (cause : BitVec 8) (detail : BitVec 32) (caddr : Word) :
    s.ctx.entered ((s.issued rs).trapLogged cause detail caddr).ctx (TrapInfo.at s.ctx.pc cause detail caddr) s.job.trapvec := by
  rw [State.trapLogged_ctx (State.issued_trappable h rs), State.issued_ctx]
  exact (Ctx.enter_entered ..).of_inTaint

end Sys2Proof.Machine
end

section
/-! SUPPORT. Control transfers: where they go, which loops they leave, and when they are refused (R121, R122, R129 to R131). -/

namespace Sys2Proof.Machine

open Sys2Proof

/-! ## What the issue of a transfer leaves as it was -/

@[simp] theorem State.atLoopEnd_issued (s : State) (rs : List Reg) (size : Nat) : (s.issued rs).ctx.atLoopEnd size = s.ctx.atLoopEnd size := by
  rw [State.issued_ctx]
  rfl

@[simp] theorem State.readX_issued (s : State) (rs : List Reg) (a : BitVec 5) : (s.issued rs).readX a = s.readX a := s.readX_inTaint _ a

@[simp] theorem State.readP_issued (s : State) (rs : List Reg) (a : BitVec 3) : (s.issued rs).readP a = s.readP a := s.readP_inTaint _ a

@[simp] theorem State.leadX_issued (s : State) (rs : List Reg) (a : BitVec 5) : (s.issued rs).leadX a = s.leadX a := by
  unfold State.leadX
  rw [State.readX_issued]
  rfl

@[simp] theorem State.leadP_issued (s : State) (rs : List Reg) (a : BitVec 3) : (s.issued rs).leadP a = s.leadP a := by
  unfold State.leadP
  rw [State.readP_issued]
  rfl

@[simp] theorem State.target_issued (s : State) (rs : List Reg) (n : Word) : (s.issued rs).target n = s.ctx.pc + n <<< 2 := by
  rw [State.target, State.issued_pc]

/-- A context that is ready for some registers is ready for fewer. -/
theorem State.ready.mono {s : State} {rs qs : List Reg} (h : s.ready rs) (sub : ∀ r ∈ qs, r ∈ rs) : s.ready qs := by
  obtain ⟨wait, free⟩ := h
  exact ⟨wait, List.find?_eq_none.2 fun r hr => List.find?_eq_none.1 free r (sub r hr)⟩

/-! ## The end word of an active loop (R130) -/

theorem State.transfer_refused {s : State} {size : Nat} (h : s.ctx.atLoopEnd size = true) (k : State → State) : s.transfer size k = s.illegal :=
  if_pos h

theorem State.transfer_passed {s : State} {size : Nat} (h : s.ctx.atLoopEnd size = false) (k : State → State) : s.transfer size k = k s :=
  if_neg (Bool.eq_false_iff.1 h)

/-- A transfer at the end word of an active loop takes the illegal-operation trap. -/
theorem State.issued_transfer_entered {s : State} (h : s.ctx.trappable) (rs : List Reg) {size : Nat} (atEnd : s.ctx.atLoopEnd size = true)
    (k : State → State) : s.ctx.entered ((s.issued rs).transfer size k).ctx (TrapInfo.at s.ctx.pc 0x02 0 0) s.job.trapvec := by
  rw [State.transfer_refused (by rwa [State.atLoopEnd_issued])]
  exact State.issued_illegal_entered h rs

/-! ## The loops that a transfer leaves (R129) -/

theorem Ctx.leaves_iff (c : Ctx) (target : Word) (n : Fin 3) : c.leaves c.pc target n = true ↔ c.exits target n := by
  simp only [Ctx.leaves, Ctx.inBody, Ctx.exits, Bool.and_eq_true, Bool.not_eq_true', decide_eq_true_eq, Bool.and_eq_false_iff, decide_eq_false_iff_not]
  tauto

theorem Ctx.within_iff (c : Ctx) (m n : Fin 3) : c.within m n = true ↔ c.contains n m := by
  simp only [Ctx.within, Ctx.contains, Bool.and_eq_true, decide_eq_true_eq, and_assoc]

/-- Loop `m` ends with a loop that is left. -/
theorem Ctx.leftWith_iff (c : Ctx) (target : Word) (m : Fin 3) :
    ((([0, 1, 2] : List (Fin 3)).filter (c.leaves c.pc target)).any fun n => decide (m = n) || c.within m n) = true ↔
      ∃ n, c.exits target n ∧ (m = n ∨ c.contains n m) := by
  have every (n : Fin 3) : n ∈ ([0, 1, 2] : List (Fin 3)) := by revert n; decide
  simp only [List.any_eq_true, List.mem_filter, every, true_and, Bool.or_eq_true, decide_eq_true_eq, Ctx.leaves_iff, Ctx.within_iff]

/-- The end addresses after a transfer that leaves loops. -/
theorem Ctx.leaveLoops_le (c : Ctx) (target : Word) (m : Fin 3) [Decidable (∃ n, c.exits target n ∧ (m = n ∨ c.contains n m))] :
    (c.leaveLoops c.pc target).le.get m = if ∃ n, c.exits target n ∧ (m = n ∨ c.contains n m) then 0 else c.le.get m := by
  rw [Ctx.leaveLoops]
  dsimp only
  rw [get_eq_getElem, Vector.getElem_ofFn]
  simp only [Fin.eta, Ctx.leftWith_iff]

/-- Leaving loops changes end addresses, and nothing else. -/
theorem Ctx.leaveLoops_only (c : Ctx) (pc target : Word) :
    c.leaveLoops pc target = { c with le := (c.leaveLoops pc target).le, lead := (c.leaveLoops pc target).lead } := rfl

/-- Noting a taint moves no loop. -/
theorem Ctx.leaveLoops_inTaint (c : Ctx) (ts : List Nat) (pc target : Word) :
    ({ c with inTaint := ts } : Ctx).leaveLoops pc target = { c.leaveLoops pc target with inTaint := ts } := rfl

/-! ## Going to a target (R121, R131) -/

theorem State.jump_ctx (s : State) (sw : Bool) (target : Word) :
    (s.jump sw target).ctx = { s.ctx with pc := target, parked := sw, nextIssue := s.cycle + 3, wait := none, afterSync := false } :=
  s.ctx_modCtx _

/-- The context after a branch. -/
theorem State.issued_branchTo_ctx (s : State) (rs : List Reg) (sw : Bool) (target : Word) :
    ((s.issued rs).branchTo sw target).ctx =
      { s.ctx.leaveLoops s.ctx.pc target with
        inTaint := s.ctx.taintOf (rs.map .reg), pc := target, parked := sw, nextIssue := s.cycle + 3, wait := none, afterSync := false } := by
  rw [State.branchTo, State.jump_ctx, State.ctx_modCtx, State.issued_ctx, Ctx.leaveLoops_inTaint]
  rfl

/-- A taken branch goes to its target, and the loops that it leaves are deactivated. -/
theorem State.issued_branchTo_branches (s : State) (rs : List Reg) (sw : Bool) (target : Word) :
    s.branches ((s.issued rs).branchTo sw target) sw target := by
  classical
  have ctx := State.issued_branchTo_ctx s rs sw target
  refine ⟨⟨?_, ?_, ?_, ?_, ?_, ?_, ?_, ?_⟩, ⟨fun r => ?_, ?_⟩, fun m n left same => ?_, fun m kept => ?_⟩
  · simp [State.onlyCtx, State.branchTo, State.jump, State.issued, State.modCtx, State.setCtx, State.ctx]
  · rw [Ctx.onlyRegs, ctx, Ctx.leaveLoops_only]
  · rw [ctx]
  · rw [ctx]
  · rw [ctx]
  · rw [ctx]; rfl
  · rw [ctx]; rfl
  · rw [ctx]; exact ⟨rfl, rfl⟩
  all_goals rw [ctx]
  · exact Ctx.reg_congr rfl rfl rfl r
  · rfl
  · exact (Ctx.leaveLoops_le ..).trans (if_pos ⟨n, left, same⟩)
  · exact (Ctx.leaveLoops_le ..).trans (if_neg kept)

/-- A branch of a ready context that holds no end word. -/
theorem State.branch_exec {s : State} {j : Instr} {sw : Bool} {rs : List Reg} {size : Nat} {target : Word} (ready : s.ready rs)
    (free : s.ctx.atLoopEnd size = false)
    (h : exec j s = .next (s.issue rs [] fun s => s.transfer size fun s => s.branchTo sw (s.target target))) :
    ∃ t, exec j s = .next t ∧ s.branches t sw (s.ctx.pc + target <<< 2) := by
  refine ⟨_, h, ?_⟩
  rw [State.issue_issued (by rwa [List.append_nil]), State.transfer_passed (by rwa [State.atLoopEnd_issued]), State.target_issued]
  exact s.issued_branchTo_branches rs sw _

/-- A conditional branch of a ready context that holds no end word goes by its condition. -/
theorem State.branchIf_exec {s : State} {j : Instr} {sw : Bool} {rs : List Reg} {i : BitVec 13} {e : Ext} (cond : State → Bool)
    (ready : s.ready rs) (free : s.ctx.atLoopEnd (extBytes e) = false)
    (h : exec j s = .next (s.issue rs [] fun u => u.branchIf sw (cond u) i e)) (noted : cond (s.issued rs) = cond s) :
    (cond s = true → ∃ t, exec j s = .next t ∧ s.branches t sw (s.ctx.pc + immWord i e <<< 2)) ∧
    (cond s = false → ∃ t, exec j s = .next t ∧ s.passes t sw (extBytes e) 1) := by
  rw [h, State.issue_issued (by rwa [List.append_nil]), State.branchIf, State.transfer_passed (by rwa [State.atLoopEnd_issued]), noted,
    State.target_issued]
  constructor
  · intro taken
    rw [if_pos taken]
    exact ⟨_, rfl, s.issued_branchTo_branches rs sw _⟩
  · intro stays
    rw [if_neg (Bool.eq_false_iff.1 stays)]
    exact ⟨_, rfl, s.issued_retireAfter_passes rs sw (extBytes e) 1⟩

/-! ## Register targets (R122) -/

theorem State.aligned_passed {s : State} {target : Word} (h : target.extractLsb' 0 2 = 0) (k : State → State) : s.aligned target k = k s :=
  if_neg (not_not_intro h)

theorem State.aligned_refused {s : State} {target : Word} (h : target.extractLsb' 0 2 ≠ 0) (k : State → State) :
    s.aligned target k = s.trapLogged 0x03 4 target :=
  if_pos h

/-- A jump to an aligned register target. -/
theorem State.jumpReg_exec {s : State} {j : Instr} {sw : Bool} {r : BitVec 5} (ready : s.ready [.x r]) (free : s.ctx.atLoopEnd 4 = false)
    (even : (s.leadX r).extractLsb' 0 2 = 0)
    (h : exec j s = .next (s.issue [.x r] [] fun s => s.transfer 4 fun s => s.aligned (s.leadX r) fun t => t.branchTo sw (s.leadX r))) :
    ∃ t, exec j s = .next t ∧ s.branches t sw (s.leadX r) := by
  refine ⟨_, h, ?_⟩
  rw [State.issue_issued (ws := []) ready, State.transfer_passed (by rwa [State.atLoopEnd_issued]), State.leadX_issued, State.aligned_passed even]
  exact s.issued_branchTo_branches [.x r] sw _

/-! ## Calls (R121, R129) -/

/-- The context after a call: x31 holds the return address. -/
theorem State.issued_callTo_goes (s : State) (rs : List Reg) (sw : Bool) (size : Nat) (target : Word) :
    s.goesTo ((s.issued rs).callTo sw size target) sw target 3 ∧
      s.lands ((s.issued rs).callTo sw size target) (.x 31) (wide (s.ctx.pc + BitVec.ofNat 64 size)) 1 ∧
      ((s.issued rs).callTo sw size target).ctx.le = s.ctx.le := by
  have written : ((s.issued rs).writeX 31 (s.ctx.pc + BitVec.ofNat 64 size) 1).ctx =
      (s.issued rs).ctx.write (.x 31) (wide (s.ctx.pc + BitVec.ofNat 64 size)) 1 s.cycle s.seq :=
    State.ctx_modCtx _ fun c => c.write (.x 31) (wide (s.ctx.pc + BitVec.ofNat 64 size)) 1 s.cycle s.seq
  have ctx := State.jump_ctx ((s.issued rs).writeX 31 (s.ctx.pc + BitVec.ofNat 64 size) 1) sw target
  have only := Ctx.write_only (s.issued rs).ctx (.x 31) (wide (s.ctx.pc + BitVec.ofNat 64 size)) 1 s.cycle s.seq
  obtain ⟨others, zero, now, later⟩ :=
    (s.issued rs).write_lands (.x 31) (wide (s.ctx.pc + BitVec.ofNat 64 size)) 1 (Reg.fits_wide _ _)
  rw [State.callTo, State.issued_pc]
  rw [written, only, State.issued_ctx] at ctx
  have same (q : Reg) : (((s.issued rs).writeX 31 (s.ctx.pc + BitVec.ofNat 64 size) 1).jump sw target).ctx.reg q =
      ((s.issued rs).write (.x 31) (wide (s.ctx.pc + BitVec.ofNat 64 size)) 1).ctx.reg q := by
    rw [State.jump_ctx]
    exact Ctx.reg_congr rfl rfl rfl q
  have noted (q : Reg) : (s.issued rs).ctx.reg q = s.ctx.reg q := by rw [State.issued_ctx, Ctx.reg_inTaint]
  refine ⟨⟨?_, ?_, ?_, ?_, ?_, ?_, ?_, ?_⟩, ⟨fun q hq => ?_, fun z => ?_, fun nz le => ?_, fun _ lt => ?_⟩, ?_⟩
  · simp [State.onlyCtx, State.jump, State.writeX, State.write, State.issued, State.modCtx, State.setCtx, State.ctx]
  · rw [Ctx.onlyRegs, ctx]
  · rw [ctx]
  · rw [ctx]
  · rw [ctx]
  · rw [ctx]; rfl
  · rw [ctx]
  · rw [ctx]; exact ⟨rfl, rfl⟩
  · rw [same, others q hq, noted]
  · exact absurd z (by decide)
  · obtain ⟨value, writes⟩ := now nz le
    rw [same, value, State.jump_ctx]
    refine ⟨rfl, writes.trans ?_⟩
    rw [State.issued_ctx]
    rfl
  · omega
  · rw [ctx]

end Sys2Proof.Machine
end

section
/-! PROOF. Control transfers (R121, R122, R129, R130). -/

namespace Sys2Proof.Machine

open Sys2Proof

/-- A transfer at the end word of an active loop is refused as it issues (R130). -/
theorem State.transfer_refused_exec {s : State} {j : Instr} (rs ws : List Reg) {size : Nat} (k : State → State → State) (ready : s.ready (rs ++ ws))
    (trappable : s.ctx.trappable) (h : exec j s = .next (s.issue rs ws fun s => s.transfer size (k s))) (atEnd : s.ctx.atLoopEnd size = true) :
    ∃ t, exec j s = .next t ∧ s.ctx.entered t.ctx (TrapInfo.at s.ctx.pc 0x02 0 0) s.job.trapvec := by
  refine ⟨_, h, ?_⟩
  rw [State.issue_issued ready]
  exact State.issued_transfer_entered trappable rs atEnd _

/-- Settles O6: each transfer issues, passes the end-word test, and then branches, calls, or goes on with the next word. -/
theorem transfersGoWhereTheySay : Obligations.TransfersGoWhereTheySay := by
  unfold Obligations.TransfersGoWhereTheySay
  refine ⟨fun s sw d i e a p => ?_, fun s sw d e a => ?_, fun s sw d i e a p => ?_⟩
  · intro size B I A P goes cond ready free
    have x : s.ready [.x a] := ready.mono (by simp)
    have x31 : s.ready [.x 31] := ready.mono (by simp)
    have pr : s.ready [.p p] := ready.mono (by simp)
    have none : s.ready [] := ready.mono (by simp)
    have byCond {j : Instr} {rs : List Reg} {c : Prop} (t : State → Bool) (ready : s.ready rs)
        (h : exec j s = .next (s.issue rs [] fun u => u.branchIf sw (t u) i e)) (noted : t (s.issued rs) = t s) (iff : t s = true ↔ c) :
        cond j c := by
      obtain ⟨taken, stays⟩ := State.branchIf_exec t ready free h noted
      exact ⟨fun hc => taken (iff.2 hc), fun hc => stays (Bool.eq_false_iff.2 fun ht => hc (iff.1 ht))⟩
    refine ⟨State.branch_exec none free rfl, fun free4 even => State.jumpReg_exec x free4 even rfl,
      fun free4 even => State.jumpReg_exec x31 free4 even rfl, ?_, ?_, ?_, ?_, ?_, ?_⟩
    · exact byCond (fun u => decide (u.leadX a = 0)) x rfl (by rw [State.leadX_issued]) decide_eq_true_iff
    · exact byCond (fun u => decide (u.leadX a ≠ 0)) x rfl (by rw [State.leadX_issued]) decide_eq_true_iff
    · exact byCond (fun u => decide ((u.leadX a).toInt < 0)) x rfl (by rw [State.leadX_issued]) decide_eq_true_iff
    · exact byCond (fun u => decide (0 ≤ (u.leadX a).toInt)) x rfl (by rw [State.leadX_issued]) decide_eq_true_iff
    · exact byCond (fun u => decide (u.leadP p ≠ 0)) pr rfl (by rw [State.leadP_issued]) decide_eq_true_iff
    · exact byCond (fun u => decide (u.leadP p = 0)) pr rfl (by rw [State.leadP_issued]) decide_eq_true_iff
  · intro size B A ready
    have x31 : s.ready [.x 31] := ready.mono (by simp)
    refine ⟨fun free => ⟨_, congrArg Host.Outcome.next (State.issue_issued (rs := []) x31 _), ?_⟩,
      fun free even => ⟨_, congrArg Host.Outcome.next (State.issue_issued (rs := [.x a]) ready _), ?_⟩⟩
    · rw [State.transfer_passed (size := extBytes e) (by rwa [State.atLoopEnd_issued]), State.target_issued]
      exact s.issued_callTo_goes [] sw size _
    · rw [State.transfer_passed (by rwa [State.atLoopEnd_issued]), State.leadX_issued, State.aligned_passed even]
      exact s.issued_callTo_goes [.x a] sw 4 A
  · intro size refused ready trappable
    have x : s.ready ([.x a] ++ []) := ready.mono (by simp)
    have x31 : s.ready ([.x 31] ++ []) := ready.mono (by simp)
    have pr : s.ready ([.p p] ++ []) := ready.mono (by simp)
    have none : s.ready ([] ++ []) := ready.mono (by simp)
    have byCond {j : Instr} {rs : List Reg} (t : State → Bool) (ready : s.ready (rs ++ []))
        (h : exec j s = .next (s.issue rs [] fun u => u.branchIf sw (t u) i e)) : refused j size :=
      State.transfer_refused_exec rs [] (fun u s => if t u then s.branchTo sw (s.target (immWord i e)) else s.retire sw (extBytes e))
        ready trappable h
    refine ⟨?_, ?_, ?_, ?_, ?_, ?_, ?_, ?_, ?_, ?_, ?_⟩
    · exact State.transfer_refused_exec _ _ (fun _ s => s.branchTo sw (s.target (dispWord d e))) none trappable rfl
    · exact State.transfer_refused_exec [] [.x 31] (fun _ s => s.callTo sw (extBytes e) (s.target (dispWord d e))) x31 trappable rfl
    · exact State.transfer_refused_exec _ _ (fun _ s => s.aligned (s.leadX a) fun t => t.branchTo sw (s.leadX a)) x trappable rfl
    · exact State.transfer_refused_exec [.x a] [.x 31] (fun _ s => s.aligned (s.leadX a) fun t => t.callTo sw 4 (s.leadX a))
        (ready.mono (by simp)) trappable rfl
    · exact State.transfer_refused_exec _ _ (fun _ s => s.aligned (s.leadX 31) fun t => t.branchTo sw (s.leadX 31)) x31 trappable rfl
    · exact byCond (fun u => decide (u.leadX a = 0)) x rfl
    · exact byCond (fun u => decide (u.leadX a ≠ 0)) x rfl
    · exact byCond (fun u => decide ((u.leadX a).toInt < 0)) x rfl
    · exact byCond (fun u => decide (0 ≤ (u.leadX a).toInt)) x rfl
    · exact byCond (fun u => decide (u.leadP p ≠ 0)) pr rfl
    · exact byCond (fun u => decide (u.leadP p = 0)) pr rfl

/-- A register target that is not aligned raises the address fault (R122). -/
theorem State.misaligned_exec {s : State} {j : Instr} (r : BitVec 5) (ws : List Reg) (k : State → State → State) (ready : s.ready ([.x r] ++ ws))
    (free : s.ctx.atLoopEnd 4 = false) (odd : (s.leadX r).extractLsb' 0 2 ≠ 0) (trappable : s.ctx.trappable)
    (h : exec j s = .next (s.issue [.x r] ws fun s => s.transfer 4 fun s => s.aligned (s.leadX r) (k s))) :
    ∃ t, exec j s = .next t ∧ s.ctx.entered t.ctx (TrapInfo.at s.ctx.pc 0x03 4 (s.leadX r)) s.job.trapvec := by
  refine ⟨_, h, ?_⟩
  rw [State.issue_issued ready, State.transfer_passed (by rwa [State.atLoopEnd_issued]), State.leadX_issued, State.aligned_refused odd]
  exact State.issued_trapLogged_entered trappable [.x r] 0x03 4 _

/-- Settles O7: the three transfers to a register's address test it alike. -/
theorem misalignedTargetsTrap : Obligations.MisalignedTargetsTrap := by
  unfold Obligations.MisalignedTargetsTrap
  intro s sw a j r which ready free odd trappable
  have x : s.ready ([.x r] ++ []) := ready.mono (by simp)
  obtain ⟨rfl, rfl⟩ | ⟨rfl, rfl⟩ | ⟨rfl, rfl⟩ := which
  · exact State.misaligned_exec r [] (fun s t => t.branchTo sw (s.leadX r)) x free odd trappable rfl
  · exact State.misaligned_exec r [.x 31] (fun s t => t.callTo sw 4 (s.leadX r)) ready free odd trappable rfl
  · exact State.misaligned_exec 31 [] (fun s t => t.branchTo sw (s.leadX 31)) x free odd trappable rfl

end Sys2Proof.Machine
end

section
/-! SUPPORT. Where an instruction goes on at the end of a loop and inside a repeat frame: the end test of one active loop (R127), RPTST's fields
(R60), and the sequencer's step (R58). -/

namespace Sys2Proof.Machine

open Sys2Proof

/-! ## The registers that decide (R124) -/

theorem Ctx.ctl_of_lead_none {c : Ctx} (h : c.lead = none) :
    c.ctl = { lc := c.lc, ls := c.ls, le := c.le, ret := c.traprec.get 1, rptst := c.rptst, rptpc := c.rptpc } := by
  rw [Ctx.ctl, h]
  rfl

theorem Ctx.ctl_countLoop (c : Ctx) (n : Fin 3) : (c.countLoop n).ctl = { c.ctl with lc := c.ctl.lc.set n.val (c.ctl.lc.get n - 1) n.isLt } := by
  unfold Ctx.ctl Ctx.countLoop
  cases c.lead <;> rfl

theorem Ctx.ctl_exitLoop (c : Ctx) (n : Fin 3) : (c.exitLoop n).ctl = { c.ctl with le := c.ctl.le.set n.val 0 n.isLt } := by
  unfold Ctx.ctl Ctx.exitLoop
  cases c.lead <;> rfl

/-! ## The end test of one loop (R127) -/

theorem Ctx.mem_loopOrder (c : Ctx) (n : Fin 3) : n ∈ c.loopOrder := by
  rw [Ctx.loopOrder, List.mem_insertionSort]
  revert n
  decide

theorem Ctx.nodup_loopOrder (c : Ctx) : c.loopOrder.Nodup := by
  rw [Ctx.loopOrder, (List.perm_insertionSort _ _).nodup_iff]
  decide

/-- A loop that has ended does not end again, and the end tests of the others are as before. -/
theorem Ctx.loopEndsIn_exitLoop {c : Ctx} {n m : Fin 3} (ne : m ≠ n) (pc : Word) (size : Nat) :
    ((c.countLoop n).exitLoop n).loopEndsIn m pc size = c.loopEndsIn m pc size := by
  simp only [Ctx.loopEndsIn, Ctx.ctl_exitLoop, Ctx.ctl_countLoop, get_set_ne _ _ _ _ ne.symm]

/-- The end tests where one loop alone ends. -/
theorem Ctx.endTests_one {N : Fin 3} {pc : Word} {size : Nat} {c : Ctx} (ends : c.loopEndsIn N pc size = true)
    (others : ∀ m, m ≠ N → c.loopEndsIn m pc size = false) :
    ∀ {l : List (Fin 3)}, N ∈ l → l.Nodup → Ctx.endTests pc size l c =
      if 1 < (c.ctl.lc.get N).toInt then { c.countLoop N with pc := c.ctl.ls.get N }
      else { (c.countLoop N).exitLoop N with pc := pc + BitVec.ofNat 64 size }
  | n :: ns, mem, nodup => by
    obtain ⟨fresh, nodup⟩ := List.nodup_cons.1 nodup
    unfold Ctx.endTests
    by_cases same : n = N
    · subst same
      rw [if_pos ends, Ctx.endTests_straight pc size _ ns fun m hm => ?_]
      have ne : m ≠ n := fun e => fresh (e ▸ hm)
      rw [Ctx.loopEndsIn_exitLoop ne]
      exact others m ne
    · rw [if_neg (Bool.eq_false_iff.1 (others n same))]
      exact Ctx.endTests_one ends others ((List.mem_cons.1 mem).resolve_left (Ne.symm same)) nodup

/-- What the end test of loop `N` does to the context: the count is one less, and the body begins again or the loop is over (R127). -/
def Ctx.loopStep (c d : Ctx) (N : Fin 3) : Prop :=
  d.lc.get N = c.lc.get N - 1 ∧ (∀ M, M ≠ N → d.lc.get M = c.lc.get M ∧ d.le.get M = c.le.get M) ∧ d.ls = c.ls ∧
    (1 < (c.lc.get N).toInt → d.pc = c.ls.get N ∧ d.le.get N = c.le.get N) ∧ ((c.lc.get N).toInt ≤ 1 → d.pc = c.pc + 4 ∧ d.le.get N = 0)

/-- Where the one active loop of a context without a leader ends at its instruction, going on makes that loop's end test. -/
theorem Ctx.sequential_loopStep {c : Ctx} {N : Fin 3} (frame : c.frame = []) (lead : c.lead = none) (at_ : c.le.get N = c.pc) (pc : c.pc ≠ 0)
    (idle : ∀ M, M ≠ N → c.le.get M = 0) : c.loopStep (c.sequential 4) N := by
  have own := Ctx.ctl_of_lead_none lead
  have ends : c.loopEndsIn N c.pc 4 = true := by simpa [Ctx.loopEndsIn, own, at_] using pc
  have others (m : Fin 3) (ne : m ≠ N) : c.loopEndsIn m c.pc 4 = false := by simp [Ctx.loopEndsIn, own, idle m ne]
  have seq : c.sequential 4 = if 1 < (c.lc.get N).toInt then { c.countLoop N with pc := c.ls.get N }
      else { (c.countLoop N).exitLoop N with pc := c.pc + 4 } := by
    rw [Ctx.sequential, frame, List.isEmpty_nil, if_pos rfl, Ctx.endTests_one ends others (c.mem_loopOrder N) c.nodup_loopOrder, own]
    rfl
  rw [Ctx.loopStep, seq]
  split
  case isTrue more =>
    exact ⟨get_set_self _ _ _ N.isLt, fun M ne => ⟨get_set_ne _ _ _ _ ne.symm, rfl⟩, rfl, fun _ => ⟨rfl, rfl⟩, fun le => absurd more (by omega)⟩
  case isFalse last =>
    exact ⟨get_set_self _ _ _ N.isLt, fun M ne => ⟨get_set_ne _ _ _ _ ne.symm, get_set_ne _ _ _ _ ne.symm⟩, rfl, fun more => absurd more last,
      fun _ => ⟨rfl, get_set_self _ _ _ N.isLt⟩⟩

/-! ## RPTST's fields (R60) -/

theorem natBits_lt (v hi lo : Nat) : natBits v hi lo < 2 ^ (hi + 1 - lo) := Nat.mod_lt _ (Nat.two_pow_pos _)

theorem rptJ_lt (w : Word) : rptJ w < 2 ^ 20 := natBits_lt ..
theorem rptKm1_lt (w : Word) : rptKm1 w < 2 ^ 20 := natBits_lt ..
theorem rptSd_lt (w : Word) : rptSd w < 2 ^ 5 := natBits_lt ..
theorem rptSa_lt (w : Word) : rptSa w < 2 ^ 5 := natBits_lt ..
theorem rptSb_lt (w : Word) : rptSb w < 2 ^ 5 := natBits_lt ..
theorem rptN_lt (w : Word) : rptN w < 2 ^ 4 := natBits_lt ..
theorem rptIdx_lt (w : Word) : rptIdx w < 2 ^ 4 := natBits_lt ..

/-- Fields that fit stand in RPTST as they are put there. -/
theorem rptWord_fields {j km1 sd sa sb n idx : Nat} (act : Bool) (hj : j < 2 ^ 20) (hk : km1 < 2 ^ 20) (hd : sd < 2 ^ 5) (ha : sa < 2 ^ 5)
    (hb : sb < 2 ^ 5) (hn : n < 2 ^ 4) (hi : idx < 2 ^ 4) :
    let w := rptWord j km1 sd sa sb n idx act
    rptJ w = j ∧ rptKm1 w = km1 ∧ rptSd w = sd ∧ rptSa w = sa ∧ rptSb w = sb ∧ rptN w = n ∧ rptIdx w = idx ∧ rptAct w = act := by
  have bit := act.toNat_le
  have num : (rptWord j km1 sd sa sb n idx act).toNat =
      j * 2 ^ 44 + km1 * 2 ^ 24 + sd * 2 ^ 19 + sa * 2 ^ 14 + sb * 2 ^ 9 + n * 2 ^ 5 + idx * 2 + act.toNat := by
    rw [rptWord, BitVec.toNat_ofNat, bitAt_eq]
    omega
  simp only [rptJ, rptKm1, rptSd, rptSa, rptSb, rptN, rptIdx, rptAct, natBits, num]
  refine ⟨by omega, by omega, by omega, by omega, by omega, by omega, by omega, getLsbD_eq_of_toNat _ _ ?_⟩
  rw [num]
  omega

/-- The word's position alone changes. -/
theorem rptAt_fields {j idx : Nat} (w : Word) (act : Bool) (hj : j < 2 ^ 20) (hi : idx < 2 ^ 4) :
    let u := rptAt w j idx act
    rptJ u = j ∧ rptKm1 u = rptKm1 w ∧ rptSd u = rptSd w ∧ rptSa u = rptSa w ∧ rptSb u = rptSb w ∧ rptN u = rptN w ∧ rptIdx u = idx ∧
      rptAct u = act :=
  rptWord_fields act hj (rptKm1_lt w) (rptSd_lt w) (rptSa_lt w) (rptSb_lt w) (rptN_lt w) hi

/-! ## The sequencer's step (R58) -/

/-- Inside a frame the context has gone on as the sequencer does (R58; in a follower J and IDX are the leader's, R124; log 111). -/
def Ctx.frameStep (c d : Ctx) : Prop :=
  let R := c.ctl.rptst
  let P := c.ctl.rptpc
  d.lc = c.lc ∧ d.le = c.le ∧ rptKm1 d.rptst = rptKm1 c.rptst ∧ rptN d.rptst = rptN c.rptst ∧
    rptSd d.rptst = rptSd c.rptst ∧ rptSa d.rptst = rptSa c.rptst ∧ rptSb d.rptst = rptSb c.rptst ∧
    (rptIdx R < rptN R → rptIdx d.rptst = rptIdx R + 1 ∧ rptJ d.rptst = rptJ R ∧ rptAct d.rptst = true ∧
      d.frame = c.frame ∧ d.pc = P + BitVec.ofNat 64 (4 * (rptIdx R + 1))) ∧
    (rptN R ≤ rptIdx R → rptJ R < rptKm1 R → rptIdx d.rptst = 0 ∧ rptJ d.rptst = rptJ R + 1 ∧ rptAct d.rptst = true ∧
      d.frame = c.frame ∧ d.pc = P) ∧
    (rptN R ≤ rptIdx R → rptKm1 R ≤ rptJ R → rptAct d.rptst = false ∧ d.frame = [] ∧ d.pc = P + BitVec.ofNat 64 (4 * (rptN R + 1)))

/-- A position of the frame, with the word's place given as a function and the program counter as a word. -/
def Ctx.framePlace (c : Ctx) (f : Word → Word) (frame : List Word32) (pc : Word) : Ctx := { c.modRptst f with frame, pc }

theorem Ctx.framePlace_fields (c : Ctx) (f : Word → Word) (frame : List Word32) (pc : Word) :
    (c.framePlace f frame pc).lc = c.lc ∧ (c.framePlace f frame pc).le = c.le ∧ (c.framePlace f frame pc).rptst = f c.rptst ∧
      (c.framePlace f frame pc).frame = frame ∧ (c.framePlace f frame pc).pc = pc := ⟨rfl, rfl, rfl, rfl, rfl⟩

theorem Ctx.framePlace_same (c : Ctx) (f : Word → Word) (pc : Word) : { c.modRptst f with pc } = c.framePlace f c.frame pc := rfl

theorem Ctx.frameNext_next {c : Ctx} (h : rptIdx c.ctl.rptst < rptN c.ctl.rptst) :
    c.frameNext = c.framePlace (fun w => rptAt w (rptJ c.ctl.rptst) (rptIdx c.ctl.rptst + 1) true) c.frame
      (c.ctl.rptpc + BitVec.ofNat 64 (4 * (rptIdx c.ctl.rptst + 1))) := by
  rw [← Ctx.framePlace_same]
  exact if_pos h

theorem Ctx.frameNext_again {c : Ctx} (h : rptN c.ctl.rptst ≤ rptIdx c.ctl.rptst) (more : rptJ c.ctl.rptst < rptKm1 c.ctl.rptst) :
    c.frameNext = c.framePlace (fun w => rptAt w (rptJ c.ctl.rptst + 1) 0 true) c.frame c.ctl.rptpc := by
  rw [← Ctx.framePlace_same]
  exact (if_neg (Nat.not_lt.2 h)).trans (if_pos more)

theorem Ctx.frameNext_last {c : Ctx} (h : rptN c.ctl.rptst ≤ rptIdx c.ctl.rptst) (last : rptKm1 c.ctl.rptst ≤ rptJ c.ctl.rptst) :
    c.frameNext = c.framePlace (fun w => rptAt w (rptJ c.ctl.rptst) (rptIdx c.ctl.rptst) false) []
      (c.ctl.rptpc + BitVec.ofNat 64 (4 * (rptN c.ctl.rptst + 1))) :=
  (if_neg (Nat.not_lt.2 h)).trans (if_neg (Nat.not_lt.2 last))

theorem Ctx.frameNext_frameStep (c : Ctx) : c.frameStep c.frameNext := by
  have hj := rptJ_lt c.ctl.rptst
  have hk := rptKm1_lt c.ctl.rptst
  have hn := rptN_lt c.ctl.rptst
  have hi := rptIdx_lt c.ctl.rptst
  unfold Ctx.frameStep
  by_cases next : rptIdx c.ctl.rptst < rptN c.ctl.rptst
  · obtain ⟨lc, le, rptst, frame, pc⟩ := c.framePlace_fields (fun w => rptAt w (rptJ c.ctl.rptst) (rptIdx c.ctl.rptst + 1) true) c.frame
      (c.ctl.rptpc + BitVec.ofNat 64 (4 * (rptIdx c.ctl.rptst + 1)))
    obtain ⟨j, km1, sd, sa, sb, n, idx, act⟩ := rptAt_fields (idx := rptIdx c.ctl.rptst + 1) c.rptst true hj (by omega)
    rw [Ctx.frameNext_next next, rptst]
    exact ⟨lc, le, km1, n, sd, sa, sb, fun _ => ⟨idx, j, act, frame, pc⟩, fun _ => by omega, fun _ => by omega⟩
  · by_cases again : rptJ c.ctl.rptst < rptKm1 c.ctl.rptst
    · obtain ⟨lc, le, rptst, frame, pc⟩ := c.framePlace_fields (fun w => rptAt w (rptJ c.ctl.rptst + 1) 0 true) c.frame c.ctl.rptpc
      obtain ⟨j, km1, sd, sa, sb, n, idx, act⟩ := rptAt_fields (j := rptJ c.ctl.rptst + 1) (idx := 0) c.rptst true (by omega) (by decide)
      rw [Ctx.frameNext_again (by omega) again, rptst]
      exact ⟨lc, le, km1, n, sd, sa, sb, fun _ => by omega, fun _ _ => ⟨idx, j, act, frame, pc⟩, fun _ _ => by omega⟩
    · obtain ⟨lc, le, rptst, frame, pc⟩ := c.framePlace_fields (fun w => rptAt w (rptJ c.ctl.rptst) (rptIdx c.ctl.rptst) false) []
        (c.ctl.rptpc + BitVec.ofNat 64 (4 * (rptN c.ctl.rptst + 1)))
      obtain ⟨j, km1, sd, sa, sb, n, idx, act⟩ := rptAt_fields c.rptst false hj hi
      rw [Ctx.frameNext_last (by omega) (by omega), rptst]
      exact ⟨lc, le, km1, n, sd, sa, sb, fun _ => by omega, fun _ _ => by omega, fun _ _ => ⟨act, frame, pc⟩⟩

theorem Ctx.sequential_frameStep {c : Ctx} (h : c.frame ≠ []) (size : Nat) : c.frameStep (c.sequential size) := by
  rw [Ctx.sequential, if_neg (by rwa [List.isEmpty_iff])]
  exact c.frameNext_frameStep

/-! ## Completing (R47) -/

theorem State.retireAfter_ctx (s : State) (sw : Bool) (size gap : Nat) :
    (s.retireAfter sw size gap).ctx =
      { s.ctx.sequential size with parked := sw, nextIssue := s.cycle + Nat.max 1 gap, wait := none, afterSync := false } :=
  s.ctx_modCtx _

theorem State.retireAfter_onlyCtx (s : State) (sw : Bool) (size gap : Nat) : s.onlyCtx (s.retireAfter sw size gap) := by
  simp [State.onlyCtx, State.retireAfter, State.modCtx, State.setCtx, State.ctx]

theorem State.write_ctx (s : State) (r : Reg) (v : Vec) (lat : Nat) : (s.write r v lat).ctx = s.ctx.write r v lat s.cycle s.seq :=
  s.ctx_modCtx fun c => c.write r v lat s.cycle s.seq

end Sys2Proof.Machine
end

section
/-! PROOF. The ends of loops and the words of a frame (R58, R127). -/

namespace Sys2Proof.Machine

open Sys2Proof

/-- Settles O9: completing goes on by `sequential`, which makes the one loop's end test, or the sequencer's step. -/
theorem loopEndsAndFrameWordsGoOn : Obligations.LoopEndsAndFrameWordsGoOn := by
  unfold Obligations.LoopEndsAndFrameWordsGoOn
  refine ⟨fun s sw N gap => ?_, fun s sw d a b ty v gap => ?_⟩
  · intro ends frame lead at_ pc idle
    have step : s.ctx.loopStep (s.ctx.sequential 4) N := Ctx.sequential_loopStep frame lead at_ pc idle
    have noted : (s.issued []).ctx.loopStep ((s.issued []).ctx.sequential 4) N := by
      rw [State.issued_ctx]
      exact Ctx.sequential_loopStep frame lead at_ pc idle
    constructor
    · obtain ⟨regs, writes⟩ := s.retireAfter_sameRegs sw 4 gap
      refine ⟨s.retireAfter_onlyCtx sw 4 gap, ⟨regs, writes⟩, ?_⟩
      rw [State.retireAfter_ctx]
      exact ⟨rfl, step⟩
    · intro ready
      refine ⟨_, congrArg Host.Outcome.next (State.issue_issued (rs := []) (ws := []) ready _), ?_⟩
      obtain ⟨only, -, -, same⟩ := s.issued_retireAfter_passes [] sw 4 1
      refine ⟨only, same, ?_⟩
      rw [State.issued_ctx] at noted
      rw [State.retire, State.retireAfter_ctx, State.issued_ctx]
      exact ⟨rfl, noted⟩
  · intro R P goes frame _
    have of_step (t : State) (step : s.ctx.frameStep t.ctx) (parked : t.ctx.parked = sw) : goes t := by
      obtain ⟨lc, le, fields⟩ := step
      exact ⟨lc, le, parked, fields⟩
    constructor
    · refine of_step _ ?_ ?_ <;> rw [State.retireAfter_ctx]
      exact Ctx.sequential_frameStep frame 4
    · intro ready
      refine ⟨_, rfl, ?_, State.binary_computes ready sw 1 (typed2 ty v (· + ·))⟩
      rw [State.binary, State.issue_issued (rs := [.x a, .x b]) ready]
      generalize typed2 ty v (· + ·) ((s.issued [.x a, .x b]).readX a) ((s.issued [.x a, .x b]).readX b) = r
      have same : ((s.issued [.x a, .x b]).writeX d r 1).ctx.frame = s.ctx.frame := by
        rw [State.writeX, State.write_ctx, Ctx.write_only, State.issued_ctx]
      have step := Ctx.sequential_frameStep (c := ((s.issued [.x a, .x b]).writeX d r 1).ctx) (by rwa [same]) 4
      rw [State.retire]
      refine of_step _ ?_ ?_ <;> rw [State.retireAfter_ctx]
      rw [State.writeX, State.write_ctx, Ctx.write_only, State.issued_ctx] at step ⊢
      exact step

end Sys2Proof.Machine
end

section
/-! SUPPORT. Loop registers: starting a loop, when it is refused, and moves to and from its registers (R114, R125, R126, R128, R130). -/

namespace Sys2Proof.Machine

open Sys2Proof

/-! ## Instructions that issue -/

/-- An instruction of a ready context does its work in the state that its issue leaves. -/
theorem State.exec_issued {s : State} {j : Instr} {rs ws : List Reg} {k : State → State} (ready : s.ready (rs ++ ws))
    (h : exec j s = .next (s.issue rs ws k)) : exec j s = .next (k (s.issued rs)) := by
  rw [h, State.issue_issued ready]

theorem State.issued_loops (s : State) (rs : List Reg) :
    (s.issued rs).ctx.lc = s.ctx.lc ∧ (s.issued rs).ctx.ls = s.ctx.ls ∧ (s.issued rs).ctx.le = s.ctx.le := by
  rw [State.issued_ctx]
  exact ⟨rfl, rfl, rfl⟩

/-! ## What is refused (R126, R130) -/

theorem Ctx.loopActive_iff (c : Ctx) (n : Fin 3) : c.loopActive n = true ↔ c.le.get n ≠ 0 := decide_eq_true_iff

/-- A body outgrows an active loop that holds the instruction. -/
theorem Ctx.outgrows_iff (c : Ctx) (pc endw : Word) :
    c.outgrows pc endw = true ↔ ∃ M, c.ctl.le.get M ≠ 0 ∧ c.ctl.ls.get M ≤ pc ∧ pc ≤ c.ctl.le.get M ∧ c.ctl.le.get M < endw := by
  have every (n : Fin 3) : n ∈ ([0, 1, 2] : List (Fin 3)) := by revert n; decide
  simp only [Ctx.outgrows, Ctx.inBody, List.any_eq_true, every, true_and, Bool.and_eq_true, decide_eq_true_eq, and_assoc]

/-! ## The context of a started loop (R126) -/

/-- A loop set's registers, the others as they were. -/
theorem Ctx.setLoopSet_registers (c : Ctx) (n : Fin 3) (lc ls le : Word) :
    ((c.setLoopSet n lc ls le).lc.get n = lc ∧ (c.setLoopSet n lc ls le).ls.get n = ls ∧ (c.setLoopSet n lc ls le).le.get n = le) ∧
    ∀ M, M ≠ n → (c.setLoopSet n lc ls le).lc.get M = c.lc.get M ∧ (c.setLoopSet n lc ls le).ls.get M = c.ls.get M ∧
      (c.setLoopSet n lc ls le).le.get M = c.le.get M :=
  ⟨⟨get_set_self _ _ _ n.isLt, get_set_self _ _ _ n.isLt, get_set_self _ _ _ n.isLt⟩,
    fun _ ne => ⟨get_set_ne _ _ _ _ ne.symm, get_set_ne _ _ _ _ ne.symm, get_set_ne _ _ _ _ ne.symm⟩⟩

/-- The context of a loop that starts, as the set and its taint are written. -/
def Ctx.looped (c : Ctx) (n : Fin 3) (count : Int) (start endw : Word) (l age : Nat) : Ctx := (c.startLoop n count start endw l age).taintLoop n

theorem Ctx.taintLoop_only (c : Ctx) (n : Fin 3) : c.taintLoop n = { c with taints := (c.taintLoop n).taints } := by
  unfold Ctx.taintLoop
  rw [Ctx.setTaint_only, Ctx.setTaint_only, Ctx.setTaint_only]

/-- Starting a loop changes the loop registers, the program counter, and what is kept beside them. -/
theorem Ctx.looped_only (c : Ctx) (n : Fin 3) (count : Int) (start endw : Word) (l age : Nat) :
    c.looped n count start endw l age =
      { c with lc := (c.looped n count start endw l age).lc, ls := (c.looped n count start endw l age).ls,
               le := (c.looped n count start endw l age).le, lead := (c.looped n count start endw l age).lead,
               loopAge := (c.looped n count start endw l age).loopAge, pc := (c.looped n count start endw l age).pc,
               taints := (c.looped n count start endw l age).taints } := by
  unfold Ctx.looped
  rw [Ctx.taintLoop_only]
  unfold Ctx.startLoop
  split <;> rfl

/-- A set that a loop instruction skips: the count is not above 0. -/
theorem Ctx.looped_skipped (c : Ctx) (n : Fin 3) {count : Int} (start endw : Word) (l age : Nat) (h : count ≤ 0) :
    let d := c.looped n count start endw l age
    (∀ M, M ≠ n → d.lc.get M = c.lc.get M ∧ d.ls.get M = c.ls.get M ∧ d.le.get M = c.le.get M) ∧ d.ls.get n = start ∧
      d.lc.get n = 0 ∧ d.le.get n = 0 ∧ d.pc = start + BitVec.ofNat 64 (4 * l) := by
  obtain ⟨⟨lc, ls, le⟩, others⟩ := c.setLoopSet_registers n 0 start 0
  rw [Ctx.looped, Ctx.taintLoop_only, Ctx.startLoop, if_pos h]
  generalize start + BitVec.ofNat 64 (4 * l) = skipped
  exact ⟨others, ls, lc, le, rfl⟩

/-- A set that a loop instruction starts. -/
theorem Ctx.looped_begun (c : Ctx) (n : Fin 3) {count : Int} (start endw : Word) (l age : Nat) (h : 0 < count) :
    let d := c.looped n count start endw l age
    (∀ M, M ≠ n → d.lc.get M = c.lc.get M ∧ d.ls.get M = c.ls.get M ∧ d.le.get M = c.le.get M) ∧ d.ls.get n = start ∧
      d.lc.get n = wrap64 count ∧ d.le.get n = endw ∧ d.pc = start := by
  obtain ⟨⟨lc, ls, le⟩, others⟩ := c.setLoopSet_registers n (wrap64 count) start endw
  rw [Ctx.looped, Ctx.taintLoop_only, Ctx.startLoop, if_neg (Int.not_le.2 h)]
  exact ⟨others, ls, lc, le, rfl⟩

/-! ## LOOP and LOOPI -/

/-- The context that a loop instruction leaves. -/
def Ctx.loopDone (c : Ctx) (sw : Bool) (n : Fin 3) (count : Int) (start endw : Word) (l age cycle : Nat) : Ctx :=
  { c.looped n count start endw l age with
    parked := sw, nextIssue := cycle + (if count ≤ 0 then 3 else 2), wait := none, afterSync := false }

/-- The state that a loop instruction leaves. -/
def State.loopStarted (s : State) (sw : Bool) (n : Fin 3) (count : Int) (start endw : Word) (l : Nat) : State :=
  { s.modCtx (fun c => c.loopDone sw n count start endw l s.seq s.cycle) with seq := s.seq + 1 }

theorem State.loopStarted_ctx (s : State) (sw : Bool) (n : Fin 3) (count : Int) (start endw : Word) (l : Nat) :
    (s.loopStarted sw n count start endw l).ctx = s.ctx.loopDone sw n count start endw l s.seq s.cycle :=
  s.ctx_modCtx fun c => c.loopDone sw n count start endw l s.seq s.cycle

/-- A loop instruction is refused, or starts its loop. -/
theorem State.startLoop_eq (s : State) (sw : Bool) (size : Nat) (n : Fin 3) (count : Int) (l : Nat) :
    s.startLoop sw size n count l =
      if s.ctx.atLoopEnd size = true ∨ s.ctx.loopActive n = true ∨
          s.ctx.outgrows s.pc (s.pc + BitVec.ofNat 64 size + BitVec.ofNat 64 (4 * (l - 1))) = true then s.illegal
      else s.loopStarted sw n count (s.pc + BitVec.ofNat 64 size) (s.pc + BitVec.ofNat 64 size + BitVec.ofNat 64 (4 * (l - 1))) l := by
  rw [State.startLoop, State.transfer]
  by_cases atEnd : s.ctx.atLoopEnd size = true
  · rw [if_pos atEnd, if_pos (.inl atEnd)]
  · rw [if_neg atEnd]
    dsimp only
    by_cases busy : s.ctx.loopActive n = true
    · rw [if_pos busy, if_pos (.inr (.inl busy))]
    · rw [if_neg busy]
      by_cases out : s.ctx.outgrows s.pc (s.pc + BitVec.ofNat 64 size + BitVec.ofNat 64 (4 * (l - 1))) = true
      · rw [if_pos out, if_pos (.inr (.inr out))]
      · rw [if_neg out]
        exact (if_neg (by tauto)).symm

/-- The issue of a loop instruction does not move what it is tested on. -/
theorem State.issued_startLoop (s : State) (rs : List Reg) (sw : Bool) (size : Nat) (n : Fin 3) (count : Int) (l : Nat) :
    let start := s.ctx.pc + BitVec.ofNat 64 size
    let endw := start + BitVec.ofNat 64 (4 * (l - 1))
    (s.issued rs).startLoop sw size n count l =
      if s.ctx.atLoopEnd size = true ∨ s.ctx.loopActive n = true ∨ s.ctx.outgrows s.ctx.pc endw = true then (s.issued rs).illegal
      else (s.issued rs).loopStarted sw n count start endw l := by
  have active : (s.issued rs).ctx.loopActive n = s.ctx.loopActive n := by rw [State.issued_ctx]; rfl
  have outgrows (e : Word) : (s.issued rs).ctx.outgrows s.ctx.pc e = s.ctx.outgrows s.ctx.pc e := by rw [State.issued_ctx]; rfl
  have eq := State.startLoop_eq (s.issued rs) sw size n count l
  rw [State.issued_pc, State.atLoopEnd_issued, active, outgrows] at eq
  exact eq

/-- A started loop has changed no register of any file. -/
theorem State.loopStarted_same (s : State) (rs : List Reg) (sw : Bool) (n : Fin 3) (count : Int) (start endw : Word) (l : Nat) :
    s.onlyCtx ((s.issued rs).loopStarted sw n count start endw l) ∧ s.sameRegs ((s.issued rs).loopStarted sw n count start endw l) := by
  constructor
  · simp [State.onlyCtx, State.loopStarted, State.issued, State.modCtx, State.setCtx, State.ctx]
  · rw [State.sameRegs, State.loopStarted_ctx, Ctx.loopDone, Ctx.looped_only, State.issued_ctx]
    exact ⟨fun r => Ctx.reg_congr rfl rfl rfl r, rfl⟩

/-! ## Moves to loop registers (R114, R128) -/

/-- The file of a loop register. -/
def Ctx.loopFile (c : Ctx) (q : LoopReg) : Vector Word 3 := match q with | .lc => c.lc | .ls => c.ls | .le => c.le

/-- A loop register written, the others as they were. -/
theorem Ctx.writeLoop_file (c : Ctx) (n : Fin 3) (r : LoopReg) (v : Word) (age : Nat) :
    ((c.writeLoop n r v age).loopFile r).get n = v ∧
      ∀ q M, q ≠ r ∨ M ≠ n → ((c.writeLoop n r v age).loopFile q).get M = (c.loopFile q).get M := by
  constructor
  · cases r <;> exact get_set_self _ _ _ n.isLt
  · intro q M ne
    by_cases same : q = r
    · subst same
      have apart := (ne.resolve_left fun h => h rfl).symm
      cases q <;> exact get_set_ne _ _ _ _ apart
    · cases q <;> cases r <;> first | rfl | exact absurd rfl same

/-- The context of a move to a loop register, before it completes. -/
def Ctx.movedToLoop (c : Ctx) (n : Fin 3) (r : LoopReg) (own lead : Word) (age : Nat) : Ctx :=
  ((c.writeLoop n r own age).writeLead n r lead).setTaint (.loop n r) c.inTaint

theorem Ctx.movedToLoop_only (c : Ctx) (n : Fin 3) (r : LoopReg) (own lead : Word) (age : Nat) :
    c.movedToLoop n r own lead age =
      { c with lc := (c.writeLoop n r own age).lc, ls := (c.writeLoop n r own age).ls, le := (c.writeLoop n r own age).le,
               loopAge := (c.writeLoop n r own age).loopAge, lead := ((c.writeLoop n r own age).writeLead n r lead).lead,
               taints := (c.movedToLoop n r own lead age).taints } := by
  unfold Ctx.movedToLoop
  rw [Ctx.setTaint_only]
  cases r <;> rfl

/-- A word is at no loop's end when it is the end address of no active loop. -/
theorem Ctx.atLoopEnd_word (c : Ctx) : c.atLoopEnd 4 = false ↔ ∀ M, c.ctl.le.get M ≠ 0 → c.ctl.le.get M ≠ c.pc := by
  have every (n : Fin 3) : n ∈ ([0, 1, 2] : List (Fin 3)) := by revert n; decide
  simp only [Ctx.atLoopEnd, List.any_eq_false, every, true_implies, Ctx.loopEndsIn, Bool.and_eq_true, Bool.or_eq_true, decide_eq_true_eq,
    show ¬ (4 : Nat) = 8 by decide, false_and, or_false, not_and]

/-- The end addresses that decide, after a loop register is written. -/
theorem Ctx.movedToLoop_ctl_le (c : Ctx) (n : Fin 3) (r : LoopReg) (own lead : Word) (age : Nat) (M : Fin 3) :
    (c.movedToLoop n r own lead age).ctl.le.get M = c.ctl.le.get M ∨
      r = .le ∧ ((c.movedToLoop n r own lead age).ctl.le.get M = own ∨ (c.movedToLoop n r own lead age).ctl.le.get M = lead) := by
  rw [Ctx.movedToLoop_only]
  cases h : c.lead <;> cases r <;> simp only [Ctx.ctl, Ctx.writeLoop, Ctx.writeLead, h, Option.map_none, Option.map_some, Option.getD_none,
    Option.getD_some, true_or, reduceCtorEq, false_and, true_and]
  all_goals
    by_cases same : M = n
    · subst same
      simp only [get_set_self, true_or, or_true]
    · left
      exact get_set_ne _ _ _ _ (Ne.symm same)

/-- A move to an end address that is not the move's own address lets the move go straight on; a move to another register does too. -/
theorem Ctx.movedToLoop_straight {c : Ctx} {n : Fin 3} {r : LoopReg} {own lead : Word} (age : Nat) (h : c.straight 4)
    (off : r = .le → own ≠ c.pc ∧ lead ≠ c.pc) : (c.movedToLoop n r own lead age).straight 4 := by
  obtain ⟨frame, free⟩ := h
  refine ⟨by rw [Ctx.movedToLoop_only]; exact frame, (Ctx.atLoopEnd_word _).2 fun M active => ?_⟩
  have pc : (c.movedToLoop n r own lead age).pc = c.pc := by rw [Ctx.movedToLoop_only]
  rw [pc]
  rcases c.movedToLoop_ctl_le n r own lead age M with same | ⟨le, new | new⟩
  · rw [same] at active ⊢
    exact c.atLoopEnd_word.1 free M active
  · rw [new]
    exact (off le).1
  · rw [new]
    exact (off le).2

end Sys2Proof.Machine
end

section
/-! PROOF. Loops and their registers (R114, R126, R128, R130). -/

namespace Sys2Proof.Machine

open Sys2Proof

/-- What a loop instruction of a ready context does (R126). -/
def State.starts (s : State) (sw : Bool) (N : Fin 3) (j : Instr) (size : Nat) (count : Int) (L : Nat) : Prop :=
  let start := s.ctx.pc + BitVec.ofNat 64 size
  let endw := start + BitVec.ofNat 64 (4 * (L - 1))
  let L' := s.ctx.ctl
  let outgrown : Prop := ∃ M, L'.le.get M ≠ 0 ∧ L'.ls.get M ≤ s.ctx.pc ∧ s.ctx.pc ≤ L'.le.get M ∧ L'.le.get M < endw
  (s.ctx.atLoopEnd size = true ∨ s.ctx.le.get N ≠ 0 ∨ outgrown → s.ctx.trappable →
    ∃ t, exec j s = .next t ∧ s.ctx.entered t.ctx (TrapInfo.at s.ctx.pc 0x02 0 0) s.job.trapvec) ∧
  (s.ctx.atLoopEnd size = false → s.ctx.le.get N = 0 → ¬ outgrown →
  ∃ t, exec j s = .next t ∧ s.onlyCtx t ∧ s.sameRegs t ∧ t.ctx.wait = none ∧ t.ctx.parked = sw ∧
    t.ctx.rptst = s.ctx.rptst ∧ t.ctx.frame = s.ctx.frame ∧
    (∀ M, M ≠ N → t.ctx.lc.get M = s.ctx.lc.get M ∧ t.ctx.ls.get M = s.ctx.ls.get M ∧ t.ctx.le.get M = s.ctx.le.get M) ∧
    t.ctx.ls.get N = start ∧
    (count ≤ 0 → t.ctx.lc.get N = 0 ∧ t.ctx.le.get N = 0 ∧ t.ctx.pc = start + BitVec.ofNat 64 (4 * L) ∧ t.ctx.nextIssue = s.cycle + 3) ∧
    (0 < count → t.ctx.lc.get N = BitVec.ofInt 64 count ∧ t.ctx.le.get N = endw ∧ t.ctx.pc = start ∧ t.ctx.nextIssue = s.cycle + 2))

/-- A loop that has started has its set written, and the others as they were. -/
theorem State.issued_loopStarted_parts (s : State) (rs : List Reg) (sw : Bool) (N : Fin 3) (count : Int) (start endw : Word) (L : Nat) :
    let t := (s.issued rs).loopStarted sw N count start endw L
    t.ctx.wait = none ∧ t.ctx.parked = sw ∧ t.ctx.rptst = s.ctx.rptst ∧ t.ctx.frame = s.ctx.frame ∧
    (∀ M, M ≠ N → t.ctx.lc.get M = s.ctx.lc.get M ∧ t.ctx.ls.get M = s.ctx.ls.get M ∧ t.ctx.le.get M = s.ctx.le.get M) ∧
    t.ctx.ls.get N = start ∧
    (count ≤ 0 → t.ctx.lc.get N = 0 ∧ t.ctx.le.get N = 0 ∧ t.ctx.pc = start + BitVec.ofNat 64 (4 * L) ∧ t.ctx.nextIssue = s.cycle + 3) ∧
    (0 < count → t.ctx.lc.get N = BitVec.ofInt 64 count ∧ t.ctx.le.get N = endw ∧ t.ctx.pc = start ∧ t.ctx.nextIssue = s.cycle + 2) := by
  have frame : ((s.issued rs).ctx.loopDone sw N count start endw L (s.issued rs).seq s.cycle).rptst = s.ctx.rptst ∧
      ((s.issued rs).ctx.loopDone sw N count start endw L (s.issued rs).seq s.cycle).frame = s.ctx.frame := by
    rw [Ctx.loopDone, Ctx.looped_only, State.issued_ctx]
    exact ⟨rfl, rfl⟩
  obtain ⟨rptst, frame⟩ := frame
  obtain ⟨lcs, lss, les⟩ := s.issued_loops rs
  dsimp only
  rw [State.loopStarted_ctx]
  by_cases pos : 0 < count
  · obtain ⟨others, ls, lc, le, pc⟩ := (s.issued rs).ctx.looped_begun N start endw L (s.issued rs).seq pos
    rw [lcs, lss, les] at others
    refine ⟨rfl, rfl, rptst, frame, others, ls, fun h => absurd pos (Int.not_lt.2 h), fun _ => ⟨lc, le, pc, ?_⟩⟩
    exact congrArg (s.cycle + ·) (if_neg (Int.not_le.2 pos))
  · have none := Int.not_lt.1 pos
    obtain ⟨others, ls, lc, le, pc⟩ := (s.issued rs).ctx.looped_skipped N start endw L (s.issued rs).seq none
    rw [lcs, lss, les] at others
    refine ⟨rfl, rfl, rptst, frame, others, ls, fun _ => ⟨lc, le, pc, ?_⟩, fun h => absurd h pos⟩
    exact congrArg (s.cycle + ·) (if_pos none)

theorem State.startLoop_starts {s : State} {sw : Bool} {N : Fin 3} {j : Instr} {rs : List Reg} {size : Nat} {L : Nat} (count : State → Int)
    (ready : s.ready rs) (h : exec j s = .next (s.issue rs [] fun u => u.startLoop sw size N (count u) L))
    (noted : count (s.issued rs) = count s) : s.starts sw N j size (count s) L := by
  have run := State.exec_issued (by rwa [List.append_nil]) h
  rw [noted, State.issued_startLoop] at run
  constructor
  · intro bad trappable
    refine ⟨_, run, ?_⟩
    rw [if_pos (by rwa [Ctx.loopActive_iff, Ctx.outgrows_iff])]
    exact State.issued_illegal_entered trappable rs
  · intro free idle fits
    rw [if_neg (by rw [Ctx.loopActive_iff, Ctx.outgrows_iff]; rintro (c | c | c)
                   · exact absurd (free.symm.trans c) Bool.false_ne_true
                   · exact c idle
                   · exact fits c)] at run
    obtain ⟨only, same⟩ := s.loopStarted_same rs sw N (count s) _ _ L
    exact ⟨_, run, only, same, s.issued_loopStarted_parts rs sw N (count s) _ _ L⟩

/-- MOV reads a loop register (R114). -/
theorem State.movFromLoop_gives (s : State) (sw : Bool) (d : BitVec 5) (n : BitVec 2) (r : LoopReg) :
    s.gives (.movFromLoop sw d n r) [.x d] sw 4 (.x d) (wide ((s.ctx.loopFile r).get (loopIndex n))) 1 := by
  intro ready
  refine ⟨_, State.exec_issued (rs := []) (ws := [.x d]) ready rfl, ?_⟩
  have read : (s.issued []).ctx.readLoop (loopIndex n) r = (s.ctx.loopFile r).get (loopIndex n) := by
    rw [State.issued_ctx]
    cases r <;> rfl
  have twice : ((s.issued []).modCtx fun c => { c with inTaint := c.taintOf [.loop (loopIndex n) r] }) =
      s.modCtx fun c => { c with inTaint := c.taintOf [.loop (loopIndex n) r] } := by
    simp [State.issued, State.modCtx, Ctx.taintOf]
  rw [twice, read]
  exact s.write_retire_computes (fun c => c.taintOf [.loop (loopIndex n) r]) sw 4 (.x d) _ 1 (Reg.fits_wide _ _)

/-- The state of a move to a loop register, before it completes. -/
def State.movedToLoop (s : State) (n : Fin 3) (r : LoopReg) (own lead : Word) : State :=
  { s.modCtx (fun c => c.movedToLoop n r own lead s.seq) with seq := s.seq + 1 }

theorem State.movedToLoop_ctx (s : State) (n : Fin 3) (r : LoopReg) (own lead : Word) :
    (s.movedToLoop n r own lead).ctx = s.ctx.movedToLoop n r own lead s.seq :=
  s.ctx_modCtx fun c => c.movedToLoop n r own lead s.seq

/-- MOV to a loop register is refused, or writes it and completes (R114, R128). -/
theorem exec_movToLoop {s : State} {n : BitVec 2} {a : BitVec 5} {r : LoopReg} (sw : Bool) (ready : s.ready [.x a]) :
    exec (.movToLoop sw n a r) s = .next
      (if r ≠ .lc ∧ s.ctx.le.get (loopIndex n) ≠ 0 then (s.issued [.x a]).illegal
        else ((s.issued [.x a]).movedToLoop (loopIndex n) r (s.readX a) (s.leadX a)).retire sw 4) := by
  have active : (s.issued [.x a]).ctx.loopActive (loopIndex n) = s.ctx.loopActive (loopIndex n) := by rw [State.issued_ctx]; rfl
  refine (State.exec_issued (rs := [.x a]) (ws := []) (k := fun u => if r ≠ .lc ∧ u.ctx.loopActive (loopIndex n) = true then u.illegal
    else (u.movedToLoop (loopIndex n) r (u.readX a) (u.leadX a)).retire sw 4) ready rfl).trans (congrArg Host.Outcome.next ?_)
  simp only [active, Ctx.loopActive_iff, State.readX_issued, State.leadX_issued]

/-- The loop registers after a move to one of them goes straight on. -/
theorem State.issued_movedToLoop_straight {s : State} (rs : List Reg) (sw : Bool) {N : Fin 3} {r : LoopReg} {own lead : Word}
    (straight : s.ctx.straight 4) (off : r = .le → own ≠ s.ctx.pc ∧ lead ≠ s.ctx.pc) :
    let t := ((s.issued rs).movedToLoop N r own lead).retire sw 4
    t.ctx.pc = s.ctx.pc + 4 ∧ (t.ctx.loopFile r).get N = own ∧
      ∀ q M, q ≠ r ∨ M ≠ N → (t.ctx.loopFile q).get M = (s.ctx.loopFile q).get M := by
  have ctx := (s.issued rs).movedToLoop_ctx N r own lead
  have straight : ((s.issued rs).movedToLoop N r own lead).ctx.straight 4 := by
    rw [ctx, State.issued_ctx]
    exact Ctx.movedToLoop_straight (c := { s.ctx with inTaint := _ }) _ straight off
  obtain ⟨-, -, -, place⟩ := ((s.issued rs).movedToLoop N r own lead).retireAfter_goesOn sw 4 1
  obtain ⟨pc, lc, le, -⟩ := place straight
  have ls : (((s.issued rs).movedToLoop N r own lead).retireAfter sw 4 1).ctx.ls = ((s.issued rs).movedToLoop N r own lead).ctx.ls := by
    rw [State.retireAfter_ctx, Ctx.sequential_only]
  have file (q : LoopReg) : (((s.issued rs).movedToLoop N r own lead).retireAfter sw 4 1).ctx.loopFile q =
      ((s.issued rs).ctx.writeLoop N r own (s.issued rs).seq).loopFile q := by
    have moved : ((s.issued rs).movedToLoop N r own lead).ctx.loopFile q =
        ((s.issued rs).ctx.writeLoop N r own (s.issued rs).seq).loopFile q := by
      rw [ctx, Ctx.movedToLoop_only]
      cases q <;> rfl
    rw [← moved]
    cases q
    · exact lc
    · exact ls
    · exact le
  obtain ⟨here, others⟩ := (s.issued rs).ctx.writeLoop_file N r own (s.issued rs).seq
  have noted (q : LoopReg) : (s.issued rs).ctx.loopFile q = s.ctx.loopFile q := by
    rw [State.issued_ctx]
    cases q <;> rfl
  refine ⟨pc.trans ?_, (congrArg (·.get N) (file r)).trans here, fun q M ne => ?_⟩
  · rw [ctx, Ctx.movedToLoop_only, State.issued_ctx]
    rfl
  · rw [State.retire, file, others q M ne, noted]

/-- A move to the count of the one active loop, at that loop's end, counts what it has written (R114, R127). -/
theorem State.issued_movedToLoop_ends {s : State} (rs : List Reg) (sw : Bool) {N : Fin 3} (own lead : Word) (frame : s.ctx.frame = [])
    (alone : s.ctx.lead = none) (at_ : s.ctx.le.get N = s.ctx.pc) (pc : s.ctx.pc ≠ 0) (idle : ∀ M, M ≠ N → s.ctx.le.get M = 0) :
    let t := ((s.issued rs).movedToLoop N .lc own lead).retire sw 4
    t.ctx.lc.get N = own - 1 ∧ (1 < own.toInt → t.ctx.pc = s.ctx.ls.get N ∧ t.ctx.le.get N = s.ctx.le.get N) ∧
      (own.toInt ≤ 1 → t.ctx.pc = s.ctx.pc + 4 ∧ t.ctx.le.get N = 0) := by
  have ctx : ((s.issued rs).movedToLoop N .lc own lead).ctx =
      { s.ctx with
        inTaint := s.ctx.taintOf (rs.map .reg), lc := s.ctx.lc.set N.val own N.isLt, lead := none,
        taints := ((s.issued rs).ctx.movedToLoop N .lc own lead (s.issued rs).seq).taints } := by
    rw [State.movedToLoop_ctx, Ctx.movedToLoop_only, State.issued_ctx]
    simp [Ctx.writeLoop, Ctx.writeLead, alone]
  have step : ((s.issued rs).movedToLoop N .lc own lead).ctx.loopStep (((s.issued rs).movedToLoop N .lc own lead).ctx.sequential 4) N := by
    rw [ctx]
    exact Ctx.sequential_loopStep frame rfl at_ pc idle
  obtain ⟨lc, -, -, again, over_⟩ := step
  dsimp only
  rw [State.retire, State.retireAfter_ctx]
  have written : ((s.issued rs).movedToLoop N .lc own lead).ctx.lc.get N = own := by
    rw [ctx]
    exact get_set_self _ _ _ N.isLt
  rw [written] at lc again over_
  refine ⟨lc, fun more => ?_, fun last => ?_⟩
  · obtain ⟨pc, le⟩ := again more
    rw [ctx] at pc le
    exact ⟨by rw [ctx]; exact pc, by rw [ctx]; exact le⟩
  · obtain ⟨pc, le⟩ := over_ last
    rw [ctx] at pc
    exact ⟨by rw [ctx]; exact pc, le⟩

theorem State.issued_movedToLoop_retire (s : State) (rs : List Reg) (sw : Bool) (N : Fin 3) (r : LoopReg) (own lead : Word) :
    let t := ((s.issued rs).movedToLoop N r own lead).retire sw 4
    s.onlyCtx t ∧ s.sameRegs t ∧ t.ctx.wait = none ∧ t.ctx.parked = sw ∧ t.ctx.nextIssue = s.cycle + 1 := by
  have ctx := State.retireAfter_ctx ((s.issued rs).movedToLoop N r own lead) sw 4 1
  refine ⟨?_, ⟨fun q => ?_, ?_⟩, ?_, ?_, ?_⟩
  · simp [State.onlyCtx, State.retire, State.retireAfter, State.movedToLoop, State.issued, State.modCtx, State.setCtx, State.ctx]
  all_goals rw [State.retire, ctx]
  · rw [State.movedToLoop_ctx, Ctx.movedToLoop_only, State.issued_ctx]
    exact Ctx.reg_congr (Ctx.sequential_x _ _) (Ctx.sequential_v _ _) (Ctx.sequential_p _ _) q
  · rw [Ctx.sequential_writes, State.movedToLoop_ctx, Ctx.movedToLoop_only, State.issued_ctx]
  · rfl

/-- Settles O8: a loop instruction goes by `startLoop_eq`, a move by the file that it writes and the completion after it. -/
theorem loopsStartAndTheirRegistersMove : Obligations.LoopsStartAndTheirRegistersMove := by
  unfold Obligations.LoopsStartAndTheirRegistersMove
  refine ⟨fun s sw n a b l i e f => ?_, fun s sw n a d r => ?_⟩
  · intro starts ready
    exact ⟨State.startLoop_starts (fun u => (u.leadX a).toInt) ready rfl (by rw [State.leadX_issued]),
      State.startLoop_starts (rs := []) (fun _ => (immWord i e).toInt) (ready.mono (by simp)) rfl rfl⟩
  · intro N file
    refine ⟨s.movFromLoop_gives sw d n r, fun ready free => ?_, fun ready ne active trappable => ?_⟩
    · have run := exec_movToLoop (n := n) (r := r) sw ready
      rw [if_neg (by rintro ⟨ne, active⟩; exact free.elim ne active)] at run
      obtain ⟨only, same, wait, parked, next⟩ := s.issued_movedToLoop_retire [.x a] sw N r (s.readX a) (s.leadX a)
      refine ⟨_, run, only, same, wait, parked, next, fun straight off => ?_, fun frame lead lc at_ pc idle => ?_⟩
      · exact State.issued_movedToLoop_straight [.x a] sw straight off
      · subst lc
        exact State.issued_movedToLoop_ends [.x a] sw _ _ frame lead at_ pc idle
    · refine ⟨_, exec_movToLoop sw ready, ?_⟩
      rw [if_pos ⟨ne, active⟩]
      exact State.issued_illegal_entered trappable [.x a]

end Sys2Proof.Machine
end

section
/-! SUPPORT. What translating an address and fetching code change: the caches, the reverse map, the counters and the agenda, and nothing else
(R150, R196, R200, R204, R209). -/

namespace Sys2Proof.Machine

open Sys2Proof

/-- From `s` to `t` nothing has changed but the event counters, the agenda, the TLBs, the reverse map and the instruction cache. -/
def State.sought (s t : State) : Prop :=
  t = { s with core := { s.core with counters := t.core.counters }, agenda := t.agenda, micro := t.micro, clutlb := t.clutlb,
               lasttlb := t.lasttlb, revmap := t.revmap, icache := t.icache }

theorem State.sought.refl (s : State) : s.sought s := rfl

theorem State.sought.trans {s t u : State} (h : s.sought t) (g : t.sought u) : s.sought u := by
  unfold State.sought at h g ⊢
  rw [g, h]

theorem State.sought.of_fst {α : Type} {s t : State} {p : State × α} {a : α} (h : s.sought p.1) (e : p = (t, a)) : s.sought t := by
  rw [e] at h
  exact h

section
variable {s t : State} (h : s.sought t)
include h

theorem State.sought.ctxs : t.ctxs = s.ctxs := by rw [h]
theorem State.sought.ctx : t.ctx = s.ctx := by rw [h]; rfl
theorem State.sought.cur : t.cur = s.cur := by rw [h]
theorem State.sought.job : t.job = s.job := by rw [h]
theorem State.sought.mem : t.mem = s.mem := by rw [h]
theorem State.sought.dev : t.dev = s.dev := by rw [h]
theorem State.sought.bar : t.bar = s.bar := by rw [h]
theorem State.sought.clu : t.clu = s.clu := by rw [h]
theorem State.sought.accs : t.accs = s.accs := by rw [h]
theorem State.sought.cycle : t.cycle = s.cycle := by rw [h]
theorem State.sought.seq : t.seq = s.seq := by rw [h]
theorem State.sought.core : t.core = { s.core with counters := t.core.counters } := congrArg State.core h

end

theorem State.count_sought (s : State) (ev : BitVec 8) : s.sought (s.count ev) := by
  rw [State.sought, State.count_only]

/-- A walk installs what it finds (R200, R204). -/
theorem State.walkFor_sought (s : State) (a : Word) : s.sought (s.walkFor a).1 := by
  have counted : s.sought ((s.count 11).count 12) := (s.count_sought 11).trans (State.count_sought _ 12)
  unfold State.walkFor
  dsimp only
  split
  · exact counted
  · split
    · exact counted
    · exact counted.trans rfl

theorem State.translate_sought (s : State) (a : Word) : s.sought (s.translate a).1 := by
  unfold State.translate
  split
  · exact .refl s
  · split
    · exact rfl
    · split
      · exact rfl
      · exact s.walkFor_sought a

/-- A check leaves the machine as its translation does (R196). -/
theorem State.check_sought (s : State) (acc : Access) (a : Word) (n align : Nat) (exchange : Bool) :
    s.sought (s.check acc a n align exchange).1 := by
  have found := s.translate_sought a
  unfold State.check
  split
  · exact .refl s
  · split
    · exact .refl s
    · split
      · exact .refl s
      · split
        case h_1 u t e =>
          rw [e] at found
          split
          · exact found
          · split <;> exact found
  · exact .refl s
  · exact .refl s

theorem State.checkOwn_sought (s : State) (a : Word) (n align : Nat) : s.sought (s.checkOwn a n align).1 := by
  have found := s.check_sought .ownLoad a n align s.exchange
  unfold State.checkOwn
  split
  case h_1 e => exact found.of_fst e
  case h_2 e => exact found.of_fst e

theorem State.fetchLine_sought (s : State) (k : Nat) : s.sought (s.fetchLine k).1 := by
  unfold State.fetchLine
  split
  · exact .refl s
  · exact rfl

/-- Code is fetched as from the leader's core, and the core's own number stays (R20). -/
theorem State.fetchPlace_sought (s : State) (a : Word) : s.sought (s.fetchPlace a).1 := by
  have found := State.check_sought { s with core := { s.core with num := s.leader } } .fetch a 4 4 s.exchange
  unfold State.fetchPlace
  split
  case h_1 t r x e =>
    have found := found.of_fst e
    unfold State.sought at found ⊢
    rw [found]

theorem State.fetchBytes_sought (s : State) (a : Word) : s.sought (s.fetchBytes a).1 := by
  have place := s.fetchPlace_sought a
  unfold State.fetchBytes
  split
  case h_1 e => exact place.of_fst e
  case h_2 t p e => exact (place.of_fst e).trans (t.fetchLine_sought _)

theorem State.fetchAt_sought (s : State) (a : Word) : s.sought (s.fetchAt a).1 := by
  have first := s.fetchBytes_sought a
  unfold State.fetchAt
  split
  case h_1 e => exact first.of_fst e
  case h_2 t bs e =>
    have first := first.of_fst e
    split
    · have second := t.fetchBytes_sought (a + 4)
      split
      case h_1 f => exact first.trans (second.of_fst f)
      case h_2 f => exact first.trans (second.of_fst f)
    · exact first

theorem State.capture_sought (n : Nat) : ∀ (s : State) (a : Word), s.sought (s.capture a n).1 := by
  induction n with
  | zero => exact fun s _ => .refl s
  | succ n ih =>
    intro s a
    have first := s.fetchBytes_sought a
    unfold State.capture
    split
    case h_1 e => exact first.of_fst e
    case h_2 t bs e =>
      have first := first.of_fst e
      dsimp only
      split
      · exact first
      · exact first
      · split
        · exact first
        · have rest := ih t (a + 4)
          split
          case h_1 f => exact first.trans (rest.of_fst f)
          case h_2 f => exact first.trans (rest.of_fst f)

end Sys2Proof.Machine
end

section
/-! SUPPORT. Capturing a repeat frame, and the fields that its sequencer steps (R57 to R61). -/

namespace Sys2Proof.Machine

open Sys2Proof

/-! ## Capturing words one after another (R58, R59) -/

/-- A word stands at the end of an active loop (R59). -/
theorem Ctx.any_loopEndsIn_word (c : Ctx) (a : Word) :
    (([0, 1, 2] : List (Fin 3)).any fun m => c.loopEndsIn m a 4) =
      ([0, 1, 2] : List (Fin 3)).any fun m => decide (c.ctl.le.get m ≠ 0) && decide (c.ctl.le.get m = a) := by
  simp [Ctx.loopEndsIn]

section
variable {u : Nat → State} {w : Nat → Word32} {at_ : Nat → Word} (next : ∀ i, at_ i + 4 = at_ (i + 1))
include next

/-- Words that are fetched and can be captured come before the capture of the rest. -/
theorem State.capture_append {m : Nat} (rest : Nat) : ∀ {j : Nat},
    (∀ i, j ≤ i → i < j + m → ∃ bs, (u i).fetchBytes (at_ i) = (u (i + 1), .ok bs) ∧ w i = bitsOfBytes 32 bs) →
    (∀ i, j ≤ i → i < j + m → bodyWord (w i) = .good ∧
      (([0, 1, 2] : List (Fin 3)).any fun N => (u (i + 1)).ctx.loopEndsIn N (at_ i) 4) = false) →
    (u j).capture (at_ j) (m + rest) =
      match (u (j + m)).capture (at_ (j + m)) rest with
      | (t, .error f) => (t, .error f)
      | (t, .ok ws) => (t, .ok ((List.range' j m).map w ++ ws)) := by
  induction m with
  | zero =>
    intro j _ _
    rw [Nat.zero_add, Nat.add_zero]
    split <;> assumption
  | succ m ih =>
    intro j fetched good
    obtain ⟨bs, fetch, word⟩ := fetched j (Nat.le_refl j) (by omega)
    obtain ⟨fits, inner⟩ := good j (Nat.le_refl j) (by omega)
    have tail := ih (j := j + 1) (fun i lo hi => fetched i (by omega) (by omega)) (fun i lo hi => good i (by omega) (by omega))
    rw [show m + 1 + rest = (m + rest) + 1 by omega, State.capture, fetch]
    dsimp only
    rw [← word, fits]
    dsimp only
    rw [inner, if_neg Bool.false_ne_true, next, tail, show j + 1 + m = j + (m + 1) by omega]
    rcases (u (j + (m + 1))).capture (at_ (j + (m + 1))) rest with ⟨t, f | ws⟩ <;> rfl

end

/-- A word that cannot be fetched ends the capture. -/
theorem State.capture_fetch_error {s : State} {a : Word} {f : AccessFault} (n : Nat) (h : (s.fetchBytes a).2 = .error f) :
    s.capture a (n + 1) = ((s.fetchBytes a).1, .error { cause := f.cause, detail := f.detail, fetch := true, addr := a }) := by
  rw [State.capture]
  split
  case h_1 e => rw [e] at h ⊢; cases h; rfl
  case h_2 e => rw [e] at h; cases h

/-- An undefined word ends the capture. -/
theorem State.capture_undefined {s t : State} {a : Word} {bs : List Byte} (n : Nat) (fetch : s.fetchBytes a = (t, .ok bs))
    (h : bodyWord (bitsOfBytes 32 bs) = .undefined) :
    s.capture a (n + 1) = (t, .error { cause := 0x01, detail := 0, fetch := false, addr := a }) := by
  rw [State.capture, fetch]
  dsimp only
  rw [h]

/-- A word that is not capturable, or that stands at a loop's end, ends the capture. -/
theorem State.capture_refused {s t : State} {a : Word} {bs : List Byte} (n : Nat) (fetch : s.fetchBytes a = (t, .ok bs))
    (h : bodyWord (bitsOfBytes 32 bs) = .other ∨
      bodyWord (bitsOfBytes 32 bs) = .good ∧ (([0, 1, 2] : List (Fin 3)).any fun m => t.ctx.loopEndsIn m a 4) = true) :
    s.capture a (n + 1) = (t, .error { cause := 0x02, detail := 0, fetch := false, addr := a }) := by
  rw [State.capture, fetch]
  dsimp only
  rcases h with other | ⟨good, atEnd⟩
  · rw [other]
  · rw [good]
    exact if_pos atEnd

/-! ## RPTF (R55, R58, R59) -/

/-- The context of a frame that is captured. -/
def Ctx.framed (c : Ctx) (sw : Bool) (base : Word) (rptst : Word) (ws : List Word32) (next : Nat) : Ctx :=
  { c with
    rptst := rptst, rptpc := base &&& rptpcMask, frame := ws,
    lead := c.lead.map fun l => { l with rptst := rptst, rptpc := base &&& rptpcMask },
    pc := base, parked := sw, nextIssue := next, wait := none, afterSync := false }

/-- KM1 of an RPTF: its k, or the EXT word's (R55). -/
def frameKm1 (k : BitVec 4) (e : Option (BitVec 20)) : Nat := match e with | some x => x.toNat | none => k.toNat

theorem frameKm1_lt (k : BitVec 4) (e : Option (BitVec 20)) : frameKm1 k e < 2 ^ 20 := by
  cases e with
  | some x => exact x.isLt
  | none => exact k.isLt.trans (by decide)

/-- RPTF of a ready context is refused, or goes by its capture. -/
theorem exec_rptf {s : State} (sw : Bool) (sd sa sb : BitVec 5) (n k : BitVec 4) (e : Option (BitVec 20)) (ready : s.ready []) :
    let base := s.ctx.pc + BitVec.ofNat 64 (extBytes e)
    exec (.rptf sw sd sa sb n k e) s = .next
      (if s.ctx.atLoopEnd (extBytes e) = true ∨ rptAct s.ctx.rptst = true then (s.issued []).illegal
       else match (s.issued []).capture base (n.toNat + 1) with
        | (t, .error f) => t.trapFrame s.ctx.pc f
        | (t, .ok ws) => t.modCtx fun c =>
            c.framed sw base (rptWord 0 (frameKm1 k e) sd.toNat sa.toNat sb.toNat n.toNat 0 true) ws (s.cycle + 1 + fetchCycles (n.toNat + 1))) := by
  have act : (s.issued []).ctx.rptst = s.ctx.rptst := by rw [State.issued_ctx]
  refine (State.exec_issued (rs := []) (ws := []) (k := fun u => u.transfer (extBytes e) fun s => if rptAct s.ctx.rptst = true then s.illegal
    else match s.capture (s.pc + BitVec.ofNat 64 (extBytes e)) (n.toNat + 1) with
      | (t, .error f) => t.trapFrame s.pc f
      | (t, .ok ws) => t.modCtx fun c => c.framed sw (s.pc + BitVec.ofNat 64 (extBytes e))
          (rptWord 0 (frameKm1 k e) sd.toNat sa.toNat sb.toNat n.toNat 0 true) ws
          (s.cycle + 1 + fetchCycles (n.toNat + 1))) ready rfl).trans (congrArg Host.Outcome.next ?_)
  by_cases atEnd : s.ctx.atLoopEnd (extBytes e) = true
  · rw [State.transfer_refused (by rwa [State.atLoopEnd_issued]), if_pos (.inl atEnd)]
  · rw [State.transfer_passed (by rw [State.atLoopEnd_issued]; exact Bool.eq_false_iff.2 atEnd), act, State.issued_pc]
    by_cases active : rptAct s.ctx.rptst = true
    · rw [if_pos active, if_pos (.inr active)]
    · rw [if_neg active]
      exact (if_neg (by tauto)).symm

/-- Raising a trap that is entered at once leaves the core as it was. -/
theorem State.raise_core {s : State} (h : s.ctx.trappable) (t : TrapInfo) : (s.raise t).core = s.core := by
  have same := State.logTrap_ctx s t
  rw [State.raise, State.takeTrap_trappable (by rwa [same])]
  split
  · rw [State.trace_core, State.modCtx_core, State.logTrap_core]
  · rw [State.modCtx_core, State.logTrap_core]

/-- The trap of a frame that cannot be captured names its word (R59). -/
theorem State.trapFrame_entered {s u : State} (h : s.ctx.trappable) (seek : (s.issued []).sought u) (f : FrameFault) :
    (u.trapFrame s.ctx.pc f).core = u.core ∧
      s.ctx.entered (u.trapFrame s.ctx.pc f).ctx { TrapInfo.at s.ctx.pc f.cause f.detail f.addr with fetch := f.fetch } s.job.trapvec := by
  have same : u.ctx = (s.issued []).ctx := seek.ctx
  have noted : u.ctx.trappable := by rw [same]; exact State.issued_trappable h []
  have job : u.job = s.job := seek.job
  have enters (v : State) (ctx : v.ctx = u.ctx) (core : v.core = u.core) (vec : v.job.trapvec = s.job.trapvec) (i : TrapInfo) :
      (v.raise i).core = u.core ∧ s.ctx.entered (v.raise i).ctx i s.job.trapvec := by
    refine ⟨(State.raise_core (by rwa [ctx]) i).trans core, ?_⟩
    have entered := State.raise_entered (s := v) (by rwa [ctx]) i
    rw [ctx, same, State.issued_ctx, vec] at entered
    exact entered.of_inTaint
  unfold State.trapFrame
  dsimp only
  split
  · exact enters _ (State.logEntry_ctx ..) (State.logEntry_core ..) ((State.logEntry_trapvec ..).trans (by rw [job])) _
  · exact enters u rfl rfl (by rw [job]) _

/-- RPTF that issues while a frame is active, or at the end word of an active loop, is refused (R55, R130). -/
theorem rptf_refused {s : State} (sw : Bool) (sd sa sb : BitVec 5) (n k : BitVec 4) (e : Option (BitVec 20)) (ready : s.ready [])
    (bad : s.ctx.atLoopEnd (extBytes e) = true ∨ rptAct s.ctx.rptst = true) (trappable : s.ctx.trappable) :
    ∃ t, exec (.rptf sw sd sa sb n k e) s = .next t ∧ t.core.matrix = s.core.matrix ∧
      s.ctx.entered t.ctx (TrapInfo.at s.ctx.pc 0x02 0 0) s.job.trapvec := by
  refine ⟨_, exec_rptf sw sd sa sb n k e ready, ?_⟩
  rw [if_pos bad]
  exact ⟨congrArg Core.matrix (State.raise_core (State.issued_trappable trappable []) _), State.issued_illegal_entered trappable []⟩

/-- RPTF whose capture fails traps at its own address, and names the word (R59). -/
theorem rptf_fault {s t : State} {sw : Bool} {sd sa sb : BitVec 5} {n k : BitVec 4} {e : Option (BitVec 20)} {f : FrameFault} (ready : s.ready [])
    (free : s.ctx.atLoopEnd (extBytes e) = false) (idle : rptAct s.ctx.rptst = false)
    (h : (s.issued []).capture (s.ctx.pc + BitVec.ofNat 64 (extBytes e)) (n.toNat + 1) = (t, .error f)) (trappable : s.ctx.trappable) :
    ∃ t, exec (.rptf sw sd sa sb n k e) s = .next t ∧ t.core.matrix = s.core.matrix ∧
      s.ctx.entered t.ctx { TrapInfo.at s.ctx.pc f.cause f.detail f.addr with fetch := f.fetch } s.job.trapvec := by
  have sought := (State.capture_sought (n.toNat + 1) (s.issued []) (s.ctx.pc + BitVec.ofNat 64 (extBytes e))).of_fst h
  refine ⟨_, exec_rptf sw sd sa sb n k e ready, ?_⟩
  rw [if_neg (by rw [free, idle]; decide), h]
  obtain ⟨core, entered⟩ := State.trapFrame_entered trappable sought f
  exact ⟨by rw [core, sought.core]; rfl, entered⟩

/-- RPTF whose words are captured begins its frame (R58). -/
theorem rptf_captured {s t : State} {sw : Bool} {sd sa sb : BitVec 5} {n k : BitVec 4} {e : Option (BitVec 20)} {ws : List Word32}
    (ready : s.ready []) (free : s.ctx.atLoopEnd (extBytes e) = false) (idle : rptAct s.ctx.rptst = false)
    (h : (s.issued []).capture (s.ctx.pc + BitVec.ofNat 64 (extBytes e)) (n.toNat + 1) = (t, .ok ws)) :
    let base := s.ctx.pc + BitVec.ofNat 64 (extBytes e)
    ∃ t, exec (.rptf sw sd sa sb n k e) s = .next t ∧ t.mem = s.mem ∧ t.core.matrix = s.core.matrix ∧ s.sameRegs t ∧ t.ctx.frame = ws ∧
      t.ctx.pc = base ∧ t.ctx.parked = sw ∧ rptAct t.ctx.rptst = true ∧ rptJ t.ctx.rptst = 0 ∧ rptIdx t.ctx.rptst = 0 ∧
      rptKm1 t.ctx.rptst = frameKm1 k e ∧ rptN t.ctx.rptst = n.toNat ∧ rptSd t.ctx.rptst = sd.toNat ∧
      rptSa t.ctx.rptst = sa.toNat ∧ rptSb t.ctx.rptst = sb.toNat ∧ t.ctx.rptpc = base &&& 0xFFFFFFFFFFFC := by
  have sought := (State.capture_sought (n.toNat + 1) (s.issued []) (s.ctx.pc + BitVec.ofNat 64 (extBytes e))).of_fst h
  obtain ⟨fj, fk, fd, fa, fb, fn, fi, fact⟩ := rptWord_fields (j := 0) (idx := 0) true (by decide) (frameKm1_lt k e) sd.isLt sa.isLt sb.isLt n.isLt (by decide)
  refine ⟨_, exec_rptf sw sd sa sb n k e ready, ?_⟩
  rw [if_neg (by rw [free, idle]; decide), h]
  dsimp only
  rw [State.modCtx_mem, State.modCtx_core, State.sameRegs, State.ctx_modCtx, sought.mem, sought.core, sought.ctx, State.issued_ctx]
  exact ⟨rfl, rfl, ⟨fun r => Ctx.reg_congr rfl rfl rfl r, rfl⟩, rfl, rfl, rfl, fact, fj, fi, fk, fn, fd, fa, fb, rfl⟩

/-! ## Stepping a captured word (R58) -/

/-- A register number steps by the execution times the stride, modulo 32. -/
theorem add_strideAt (a : BitVec 5) (j stride : Nat) : a + strideAt j stride = BitVec.ofNat 5 (a.toNat + j * stride) := by
  rw [strideAt, BitVec.ofNat_add, BitVec.ofNat_toNat, BitVec.setWidth_eq]

/-- The sequencer runs the word at its place, stepped. -/
theorem Ctx.frameInstr_of_word {c : Ctx} {i : Instr} (h : c.frame[rptIdx c.ctl.rptst]?.map decodeWord = some (.ok i)) :
    c.frameInstr = (stepped (strideAt (rptJ c.ctl.rptst) (rptSd c.ctl.rptst)) (strideAt (rptJ c.ctl.rptst) (rptSa c.ctl.rptst))
      (strideAt (rptJ c.ctl.rptst) (rptSb c.ctl.rptst)) i).getD .undefinedInstruction := by
  obtain ⟨word, at_, decodes⟩ := Option.map_eq_some_iff.1 h
  rw [Ctx.frameInstr, List.getD_eq_getElem?_getD, at_, Option.getD_some, decodes]

end Sys2Proof.Machine
end

section
/-! PROOF. Repeat frames are captured and stepped (R55 to R61). -/

namespace Sys2Proof.Machine

open Sys2Proof

/-- Settles O10: RPTF goes by `capture`, which takes the words that are fetched and good, and stops at the first that is not. -/
theorem repeatFramesAreCapturedAndStepped : Obligations.RepeatFramesAreCapturedAndStepped := by
  unfold Obligations.RepeatFramesAreCapturedAndStepped
  refine ⟨fun s sw sd sa sb n k e u w m => ?_, fun c i sw d a b p q r ty vt v im T cc N L mode x => ?_⟩
  · intro size base at_ km1 atEnd fetched refused ready
    refine ⟨fun bad trappable => rptf_refused sw sd sa sb n k e ready bad trappable, fun free idle le start good => ?_⟩
    have next (i : Nat) : at_ i + 4 = at_ (i + 1) := by
      show base + BitVec.ofNat 64 (4 * i) + 4 = base + BitVec.ofNat 64 (4 * (i + 1))
      rw [Nat.mul_add, BitVec.ofNat_add, BitVec.add_assoc]
      rfl
    have seek (j : Nat) (hj : j ≤ m) : (s.issued []).sought (u j) := by
      induction j with
      | zero => rw [start]; exact .refl _
      | succ j ih =>
        obtain ⟨⟨bs, fetch, -⟩, -⟩ := good j (by omega)
        exact (ih (by omega)).trans (((u j).fetchBytes_sought (at_ j)).of_fst fetch)
    have atEnd_eq (v : State) (sought : (s.issued []).sought v) (i : Nat) :
        (([0, 1, 2] : List (Fin 3)).any fun N => v.ctx.loopEndsIn N (at_ i) 4) = atEnd i := by
      rw [Ctx.any_loopEndsIn_word, sought.ctx, State.issued_ctx]
      rfl
    have prefix_ (rest : Nat) := State.capture_append (u := u) (w := w) (at_ := at_) next (m := m) rest (j := 0)
      (fun i _ hi => (good i (by omega)).1)
      (fun i _ hi => ⟨(good i (by omega)).2.1, by
        rw [atEnd_eq _ (seek (i + 1) (by omega))]
        exact (good i (by omega)).2.2⟩)
    have first : at_ 0 = base := BitVec.add_zero base
    rw [start, first] at prefix_
    refine ⟨fun all => ?_, fun some => ?_⟩
    · have whole := prefix_ 0
      simp only [Nat.zero_add, Nat.add_zero, State.capture, List.append_nil, ← List.range_eq_range'] at whole
      rw [all] at whole ⊢
      exact rptf_captured ready free idle whole
    · have left : n.toNat + 1 = m + (n.toNat - m + 1) := by omega
      have fails {t : State} {f : FrameFault} (h : (u m).capture (at_ m) (n.toNat - m + 1) = (t, .error f)) :
          refused f.cause f.detail f.fetch f.addr := by
        have whole := prefix_ (n.toNat - m + 1)
        rw [Nat.zero_add, h, ← left] at whole
        exact rptf_fault ready free idle whole
      refine ⟨fun f fault => fails (State.capture_fetch_error _ fault), ?_, ?_⟩
      · rintro ⟨bs, fetch, word⟩ bad
        exact fails (State.capture_undefined _ fetch (word ▸ bad))
      · rintro ⟨bs, fetch, word⟩ bad
        refine fails (State.capture_refused _ fetch ?_)
        rwa [atEnd_eq _ ((seek m (Nat.le_refl m)).trans (((u m).fetchBytes_sought (at_ m)).of_fst fetch)), ← word]
  · intro R D A B word
    have step := Ctx.frameInstr_of_word word
    refine ⟨?_, ?_, ?_, ?_, ?_, ?_, ?_, ?_⟩
    all_goals
      rintro rfl
      rw [step]
      simp only [stepped, Option.getD_some, add_strideAt, D, A, B, R]

end Sys2Proof.Machine
end

section
/-! SUPPORT. The results of an instruction that first changes something else: where it goes on, and what its write lands in. -/

namespace Sys2Proof.Machine

open Sys2Proof

/-- Two contexts stand at the same place, with the same loops and frame: they go on alike. -/
structure Ctx.sameWay (c d : Ctx) : Prop where
  pc : d.pc = c.pc
  lc : d.lc = c.lc
  le : d.le = c.le
  lead : d.lead = c.lead
  rptst : d.rptst = c.rptst
  frame : d.frame = c.frame

theorem Ctx.sameWay.atLoopEnd {c d : Ctx} (h : c.sameWay d) (size : Nat) : d.atLoopEnd size = c.atLoopEnd size := by
  have le : d.ctl.le = c.ctl.le := by
    simp only [Ctx.ctl, h.lead]
    cases c.lead with
    | none => exact h.le
    | some l => rfl
  simp only [Ctx.atLoopEnd, Ctx.loopEndsIn, le, h.pc]

theorem Ctx.sameWay.straight {c d : Ctx} (h : c.sameWay d) {size : Nat} (straight : c.straight size) : d.straight size :=
  ⟨h.frame.trans straight.1, (h.atLoopEnd size).trans straight.2⟩

/-- What comes after an instruction that has changed its context's way in nothing. -/
theorem State.goesOn.of_sameWay {s m t : State} {sw : Bool} {size gap : Nat} (h : m.goesOn t sw size gap) (cycle : m.cycle = s.cycle)
    (way : s.ctx.sameWay m.ctx) : s.goesOn t sw size gap where
  wait := h.wait
  parked := h.parked
  next := cycle ▸ h.next
  place straight := by
    obtain ⟨pc, lc, le, lead, rptst, frame⟩ := h.place (way.straight straight)
    exact ⟨way.pc ▸ pc, lc.trans way.lc, le.trans way.le, lead.trans way.lead, rptst.trans way.rptst, frame⟩

/-- What an instruction's write lands in, of one that has changed no register before. -/
theorem State.lands.of_sameRegs {s m t : State} {r : Reg} {v : Vec} {lat : Nat} (h : m.lands t r v lat) (same : s.sameRegs m)
    (cycle : m.cycle = s.cycle) (seq : m.seq = s.seq) : s.lands t r v lat where
  others q hq := (h.others q hq).trans (same.1 q)
  zero hz := (h.zero hz).trans same.2
  now hz hl := ⟨(h.now hz hl).1, by rw [(h.now hz hl).2, same.2, seq]⟩
  later hz hl := by rw [h.later hz hl, same.2, seq, cycle]

/-- An instruction's one result and its completion, from the state in which it makes them. -/
theorem State.write_retire_of {s m : State} (sw : Bool) (size : Nat) (r : Reg) (v : Vec) (lat : Nat) (hf : r.fits v) (same : s.sameRegs m)
    (cycle : m.cycle = s.cycle) (seq : m.seq = s.seq) (way : s.ctx.sameWay m.ctx) :
    s.lands ((m.write r v lat).retire sw size) r v lat ∧ s.goesOn ((m.write r v lat).retire sw size) sw size 1 := by
  have here : (m.modCtx fun c => { c with inTaint := c.inTaint }) = m := m.setCtx_ctx
  have h := m.write_retire_computes (·.inTaint) sw size r v lat hf
  rw [here] at h
  exact ⟨h.lands.of_sameRegs same cycle seq, h.goes.of_sameWay cycle way⟩

/-- Of every context waking what was found waiting changes the marks of its TLBINVs alone. -/
theorem State.wake_ctxAt (s : State) (n : Fin 11) : s.wake.ctxAt n = (s.ctxAt n).unholdInv := mapVec_get _ _ _

theorem State.wake_ctx (s : State) : s.wake.ctx = s.ctx.unholdInv := mapVec_get _ _ _

theorem Ctx.unholdInv_reg (c : Ctx) (r : Reg) : c.unholdInv.reg r = c.reg r := Ctx.reg_congr rfl rfl rfl r

end Sys2Proof.Machine
end

section
/-! SUPPORT. The control registers as MFC reads them (R53, R54, R262), and as MTC writes them (R8, R54). -/

namespace Sys2Proof.Machine

open Sys2Proof

/-- A sum of single bits holds each of them at its own place. -/
theorem testBit_sum_bitAt : ∀ {n : Nat} (f : Fin n → Bool),
    ((List.finRange n).map fun g => bitAt (f g) g.val).sum < 2 ^ n ∧
      ∀ g : Fin n, ((List.finRange n).map fun g => bitAt (f g) g.val).sum.testBit g.val = f g
  | 0, _ => ⟨by simp, fun g => g.elim0⟩
  | n + 1, f => by
    obtain ⟨lt, bits⟩ := testBit_sum_bitAt fun g : Fin n => f g.castSucc
    have split : ((List.finRange (n + 1)).map fun g => bitAt (f g) g.val).sum
        = ((List.finRange n).map fun g : Fin n => bitAt (f g.castSucc) g.val).sum + 2 ^ n * (f (Fin.last n)).toNat := by
      rw [List.finRange_succ_last, List.map_append, List.sum_append, List.map_map]
      simp [Function.comp_def, bitAt_eq, Nat.mul_comm]
    rw [split]
    generalize ((List.finRange n).map fun g : Fin n => bitAt (f g.castSucc) g.val).sum = S at lt bits
    refine ⟨?_, fun g => ?_⟩
    · have := Bool.toNat_le (f (Fin.last n))
      have : 2 ^ n * (f (Fin.last n)).toNat ≤ 2 ^ n * 1 := Nat.mul_le_mul_left _ this
      rw [Nat.pow_succ]; omega
    · rw [Nat.add_comm, Nat.testBit_two_pow_mul_add _ lt]
      cases g using Fin.lastCases with
      | last => cases f (Fin.last n) <;> simp
      | cast g => simp [g.isLt, bits g]

/-- What MFC reads does not depend on the taint that its issue notes. -/
theorem State.readCtrl_inTaint (s : State) (f : Ctx → List Nat) (r : CtrlReg) :
    (s.modCtx fun c => { c with inTaint := f c }).readCtrl r = s.readCtrl r := by
  cases r <;> simp only [State.readCtrl, State.ctx_modCtx, State.modCtx_cur, State.modCtx_job, State.modCtx_core, State.modCtx_dev,
    State.modCtx_bar] <;> rfl

/-- A control register whose read clears nothing is read with a latency of two cycles (R8, R53). -/
theorem State.mfc_gives (s : State) (sw : Bool) (d : BitVec 5) {r : CtrlReg} (h : r ≠ .mbq) :
    s.gives (.mfc sw d r) [.x d] sw 4 (.x d) (wide (s.readCtrl r)) 2 := by
  refine State.issue_gives [] [.x d] (fun u => wide (u.readCtrl r)) ?_ (fun f => by rw [State.readCtrl_inTaint]) (Reg.fits_wide _ _)
  cases r with
  | mbq => exact absurd rfl h
  | _ => rfl

/-- The fields of CTXST (R54). -/
theorem ctxstWord_fields (c : Ctx) {num : Nat} (h : num < 2 ^ 4) (superstep : Bool) :
    let w := ctxstWord c num superstep
    natBits w.toNat 15 12 = num ∧ w.getLsbD 11 = superstep ∧ w.getLsbD 10 = c.inTrap ∧ w.getLsbD 9 = c.lsord ∧ w.getLsbD 8 = rptAct c.rptst ∧
      w.getLsbD 5 = c.chk ∧ w.getLsbD 4 = c.rsvw ∧ w.getLsbD 3 = c.haz ∧ natBits w.toNat 63 16 = 0 ∧ natBits w.toNat 7 6 = 0 ∧
      natBits w.toNat 2 0 = 0 := by
  intro w
  have le := fun b : Bool => Bool.toNat_le b
  have value : w.toNat = num * 4096 + superstep.toNat * 2048 + c.inTrap.toNat * 1024 + c.lsord.toNat * 512 + (rptAct c.rptst).toNat * 256
      + c.chk.toNat * 32 + c.rsvw.toNat * 16 + c.haz.toNat * 8 := by
    have := le superstep; have := le c.inTrap; have := le c.lsord; have := le (rptAct c.rptst); have := le c.chk; have := le c.rsvw
    have := le c.haz
    simp only [w, ctxstWord, bitAt_eq, BitVec.toNat_ofNat]
    omega
  have := le superstep; have := le c.inTrap; have := le c.lsord; have := le (rptAct c.rptst); have := le c.chk; have := le c.rsvw
  have := le c.haz
  refine ⟨?_, getLsbD_eq_of_toNat _ _ ?_, getLsbD_eq_of_toNat _ _ ?_, getLsbD_eq_of_toNat _ _ ?_, getLsbD_eq_of_toNat _ _ ?_,
    getLsbD_eq_of_toNat _ _ ?_, getLsbD_eq_of_toNat _ _ ?_, getLsbD_eq_of_toNat _ _ ?_, ?_, ?_, ?_⟩ <;>
    simp only [value, natBits] <;> omega

/-- BGMASK shows the groups that the core belongs to, and the superstep domain (R262). -/
theorem State.bgmask_getLsbD (s : State) (g : Fin 32) :
    s.bgmask.getLsbD g.val =
      (((s.bar.groups.get g).res && (s.bar.groups.get g).member) || decide (s.bar.domain = some (BitVec.ofFin g))) := by
  have bits := (testBit_sum_bitAt fun g : Fin 32 =>
    ((s.bar.groups.get g).res && (s.bar.groups.get g).member) || decide (s.bar.domain = some (BitVec.ofFin g))).2 g
  unfold State.bgmask
  rw [BitVec.getLsbD_ofNat, bits]
  simp [show g.val < 64 by omega]

end Sys2Proof.Machine
end

section
/-! PROOF. MFC (R53, R54). -/

namespace Sys2Proof.Machine

open Sys2Proof

/-- Reading MBQ removes its oldest post (R8, R248). -/
theorem State.mfc_mbq {s : State} {d : BitVec 5} (sw : Bool) (ready : s.ready [.x d]) :
    ∃ t, exec (.mfc sw d .mbq) s = .next t ∧ t.core.mbq = s.core.mbq.tail ∧ s.lands t (.x d) (wide (s.core.mbq.headD 0)) 2 ∧
      s.goesOn t sw 4 1 ∧ t.mem = s.mem := by
  have run : exec (.mfc sw d .mbq) s
      = .next ((((s.issued []).modCore fun c => { c with mbq := c.mbq.drop 1 }).wake.write (.x d) (wide (s.core.mbq.headD 0)) 2).retire sw 4) :=
    State.exec_issued (rs := []) (ws := [.x d]) ready
      (k := fun u => ((u.modCore fun c => { c with mbq := c.mbq.drop 1 }).wake.write (.x d) (wide (u.core.mbq.headD 0)) 2).retire sw 4) rfl
  have ctx : ((s.issued []).modCore fun c => { c with mbq := c.mbq.drop 1 }).wake.ctx
      = ({ s.ctx with inTaint := s.ctx.taintOf [] } : Ctx).unholdInv := by
    rw [State.wake_ctx, State.ctx_modCore, State.issued_ctx]; rfl
  obtain ⟨lands, goes⟩ := State.write_retire_of (s := s) sw 4 (.x d) (wide (s.core.mbq.headD 0)) 2 (Reg.fits_wide _ _)
    (m := ((s.issued []).modCore fun c => { c with mbq := c.mbq.drop 1 }).wake)
    ⟨fun r => by rw [ctx, Ctx.unholdInv_reg]; exact Ctx.reg_congr rfl rfl rfl r, by rw [ctx]; rfl⟩ rfl rfl
    ⟨by rw [ctx]; rfl, by rw [ctx]; rfl, by rw [ctx]; rfl, by rw [ctx]; rfl, by rw [ctx]; rfl, by rw [ctx]; rfl⟩
  exact ⟨_, run, List.drop_one, lands, goes, rfl⟩

/-- Settles O15: MFC gives `readCtrl`, whose fields are those of the register that the selector names; of MBQ it removes the head. -/
theorem mfcReadsEveryControlRegister : Obligations.MfcReadsEveryControlRegister := by
  unfold Obligations.MfcReadsEveryControlRegister
  intro s sw d reads
  have reads_ : ∀ r, r ≠ .mbq → reads r (s.readCtrl r) := fun r h => s.mfc_gives sw d h
  exact ⟨⟨_, reads_ .ctxst nofun, ctxstWord_fields s.ctx (by omega) s.job.superstep⟩, reads_ .corenum nofun, reads_ .jobarg nofun,
    reads_ .jobid nofun, reads_ .devtime nofun, reads_ .sstep nofun, reads_ .trapvec nofun, fun n => reads_ (.traprec n) nofun,
    fun n => reads_ (.mbox n) nofun, reads_ .rptst nofun, reads_ .rptpc nofun, reads_ .imbal0 nofun, reads_ .imbal1 nofun,
    ⟨_, reads_ .bgmask nofun, s.bgmask_getLsbD⟩, reads_ .sig nofun, s.mfc_mbq sw⟩

end Sys2Proof.Machine
end

section
/-! SUPPORT. The control registers as MTC writes them (R8, R53, R54, R60, R62). -/

namespace Sys2Proof.Machine

open Sys2Proof

/-- A field is 0 when each of its bits is. -/
theorem natBits_eq_zero_iff (w : Word) (hi lo : Nat) : natBits w.toNat hi lo = 0 ↔ ∀ i, lo ≤ i → i ≤ hi → w.getLsbD i = false := by
  unfold natBits
  constructor
  · intro h i ge le
    have : (w.toNat / 2 ^ lo % 2 ^ (hi + 1 - lo)).testBit (i - lo) = false := by rw [h]; exact Nat.zero_testBit _
    rw [Nat.testBit_mod_two_pow, Nat.testBit_div_two_pow, show i - lo + lo = i by omega, decide_eq_true (by omega : i - lo < hi + 1 - lo),
      Bool.true_and] at this
    exact this
  · intro h
    refine Nat.eq_of_testBit_eq fun i => ?_
    rw [Nat.testBit_mod_two_pow, Nat.testBit_div_two_pow, Nat.zero_testBit]
    by_cases lt : i < hi + 1 - lo
    · rw [show w.toNat.testBit (i + lo) = false from h (i + lo) (by omega) (by omega), Bool.and_false]
    · rw [decide_eq_false lt, Bool.false_and]

/-- A word has none of the bits of a mask when it is 0 at each of them. -/
theorem and_eq_zero_iff (w mask : Word) : w &&& mask = 0 ↔ ∀ i, i < 64 → mask.getLsbD i = true → w.getLsbD i = false := by
  constructor
  · intro h i _ m
    have := congrArg (·.getLsbD i) h
    simpa [m] using this
  · intro h
    refine BitVec.eq_of_getLsbD_eq fun i hi => ?_
    rw [BitVec.getLsbD_and]
    cases m : mask.getLsbD i with
    | false => simp
    | true => simp [h i hi m]

/-- A write of CTXST touches a reserved bit when it has a one outside the fields of R54 (R8). -/
theorem ctxstRsv_iff (w : Word) : w &&& ctxstRsv ≠ 0 ↔ natBits w.toNat 63 16 ≠ 0 ∨ natBits w.toNat 7 6 ≠ 0 ∨ natBits w.toNat 2 0 ≠ 0 := by
  have mask : ∀ i : Fin 64, ctxstRsv.getLsbD i.val = decide (16 ≤ i.val ∨ 6 ≤ i.val ∧ i.val ≤ 7 ∨ i.val ≤ 2) := by decide
  rw [← not_iff_not]
  simp only [not_or, not_not, natBits_eq_zero_iff, and_eq_zero_iff]
  constructor
  · intro h
    exact ⟨fun i ge le => h i (by omega) (by rw [mask ⟨i, by omega⟩]; exact decide_eq_true (.inl ge)),
      fun i ge le => h i (by omega) (by rw [mask ⟨i, by omega⟩]; exact decide_eq_true (.inr (.inl ⟨ge, le⟩))),
      fun i _ le => h i (by omega) (by rw [mask ⟨i, by omega⟩]; exact decide_eq_true (.inr (.inr le)))⟩
  · intro ⟨high, mid, low⟩ i lt m
    rw [mask ⟨i, lt⟩] at m
    rcases of_decide_eq_true m with h | ⟨ge, le⟩ | le
    · exact high i h (by omega)
    · exact mid i ge le
    · exact low i (by omega) le

/-- A write of RPTPC touches a reserved bit when it has a one outside bits [47:2] (R8, R60). -/
theorem rptpcRsv_iff (w : Word) : w &&& ~~~rptpcMask ≠ 0 ↔ natBits w.toNat 63 48 ≠ 0 ∨ natBits w.toNat 1 0 ≠ 0 := by
  have mask : ∀ i : Fin 64, (~~~rptpcMask).getLsbD i.val = decide (48 ≤ i.val ∨ i.val ≤ 1) := by decide
  rw [← not_iff_not]
  simp only [not_or, not_not, natBits_eq_zero_iff, and_eq_zero_iff]
  constructor
  · intro h
    exact ⟨fun i ge le => h i (by omega) (by rw [mask ⟨i, by omega⟩]; exact decide_eq_true (.inl ge)),
      fun i _ le => h i (by omega) (by rw [mask ⟨i, by omega⟩]; exact decide_eq_true (.inr le))⟩
  · intro ⟨high, low⟩ i lt m
    rw [mask ⟨i, lt⟩] at m
    rcases of_decide_eq_true m with h | le
    · exact high i h (by omega)
    · exact low i (by omega) le

/-- RPTPC keeps bits [47:2] of what is written, and no other (R60). -/
theorem rptpcMask_fields (w : Word) : natBits (w &&& rptpcMask).toNat 47 2 = natBits w.toNat 47 2 ∧ natBits (w &&& rptpcMask).toNat 1 0 = 0 ∧
    natBits (w &&& rptpcMask).toNat 63 48 = 0 := by
  have mask : ∀ i : Fin 64, rptpcMask.getLsbD i.val = decide (2 ≤ i.val ∧ i.val ≤ 47) := by decide
  refine ⟨Nat.eq_of_testBit_eq fun i => ?_, (natBits_eq_zero_iff _ _ _).mpr fun i ge le => ?_, (natBits_eq_zero_iff _ _ _).mpr fun i ge le => ?_⟩
  · unfold natBits
    rw [Nat.testBit_mod_two_pow, Nat.testBit_div_two_pow, Nat.testBit_mod_two_pow, Nat.testBit_div_two_pow]
    by_cases lt : i < 46
    · congr 1
      show (w &&& rptpcMask).getLsbD (i + 2) = w.getLsbD (i + 2)
      rw [BitVec.getLsbD_and, mask ⟨i + 2, by omega⟩, decide_eq_true (by simp; omega), Bool.and_true]
    · rw [decide_eq_false (by omega : ¬ i < 47 + 1 - 2), Bool.false_and, Bool.false_and]
  · rw [BitVec.getLsbD_and, mask ⟨i, by omega⟩, decide_eq_false (by simp; omega), Bool.and_false]
  · rw [BitVec.getLsbD_and, mask ⟨i, by omega⟩, decide_eq_false (by simp; omega), Bool.and_false]

/-- Outside a frame, going on changes neither RPTST nor RPTPC. -/
theorem Ctx.sequential_rpt {c : Ctx} (h : c.frame = []) (size : Nat) : (c.sequential size).rptst = c.rptst ∧ (c.sequential size).rptpc = c.rptpc := by
  unfold Ctx.sequential
  rw [if_pos (by rw [h]; rfl), Ctx.endTests_only]
  exact ⟨rfl, rfl⟩

/-- A control register written changes no register of the three files (R53). -/
theorem State.writeCtrl_sameRegs (s : State) (r : CtrlReg) (v lv : Word) : s.sameRegs (s.writeCtrl r v lv) := by
  refine ⟨fun q => ?_, ?_⟩
  · cases r <;> simp only [State.writeCtrl, State.ctx_modCtx, State.ctx_modCore] <;> exact Ctx.reg_congr rfl rfl rfl q
  · cases r <;> simp only [State.writeCtrl, State.ctx_modCtx, State.ctx_modCore] <;> rfl

/-- MTC, but one that would set RPTST.ACT outside a handler, writes its register and goes on (R53, R62). -/
theorem exec_mtc {s : State} {a : BitVec 5} {r : CtrlReg} (sw : Bool) (ready : s.ready [.x a])
    (ok : r = .rptst → rptAct (s.readX a) = false ∨ s.ctx.inTrap = true) :
    exec (.mtc sw a r) s = .next (((s.issued [.x a]).writeCtrl r (s.readX a) (s.leadX a)).retire sw 4) := by
  have run := State.exec_issued (j := .mtc sw a r) (s := s) (rs := [.x a]) (ws := []) ready
    (k := fun u => if r = .rptst ∧ rptAct (u.readX a) ∧ u.ctx.inTrap = false then u.illegal
      else (u.writeCtrl r (u.readX a) (u.leadX a)).retire sw 4) rfl
  rw [run]
  have inTrap : (s.issued [.x a]).ctx.inTrap = s.ctx.inTrap := by rw [State.issued_ctx]
  simp only [State.readX_issued, State.leadX_issued, inTrap]
  rw [if_neg]
  rintro ⟨e, act, out⟩
  rcases ok e with h | h
  · rw [act] at h; exact Bool.noConfusion h
  · rw [out] at h; exact Bool.noConfusion h

/-- MTC that sets RPTST.ACT outside a handler is refused (R62). -/
theorem exec_mtc_refused {s : State} {a : BitVec 5} (sw : Bool) (ready : s.ready [.x a]) (act : rptAct (s.readX a) = true)
    (out : s.ctx.inTrap = false) : exec (.mtc sw a .rptst) s = .next (s.issued [.x a]).illegal := by
  have run := State.exec_issued (j := .mtc sw a .rptst) (s := s) (rs := [.x a]) (ws := []) ready
    (k := fun u => if CtrlReg.rptst = .rptst ∧ rptAct (u.readX a) ∧ u.ctx.inTrap = false then u.illegal
      else (u.writeCtrl .rptst (u.readX a) (u.leadX a)).retire sw 4) rfl
  rw [run, if_pos]
  exact ⟨rfl, by rw [State.readX_issued, act], by rw [State.issued_ctx]; exact out⟩

/-- What MTC leaves alone, and the contexts' part of what it does. -/
theorem State.mtc_writes (s : State) (sw : Bool) (a : BitVec 5) (r : CtrlReg) (v lv : Word) :
    let m := (s.issued [.x a]).writeCtrl r v lv
    s.sameRegs (m.retire sw 4) ∧ (m.retire sw 4).mem = s.mem ∧ (m.retire sw 4).ctx.parked = sw ∧ (m.retire sw 4).core = m.core ∧
      (m.retire sw 4).ctx = { m.ctx.sequential 4 with parked := sw, nextIssue := m.cycle + 1, wait := none, afterSync := false } := by
  intro m
  have mem : m.mem = s.mem := by cases r <;> rfl
  have same := (s.issued [.x a]).writeCtrl_sameRegs r v lv
  have same' := m.retireAfter_sameRegs sw 4 1
  refine ⟨⟨fun q => ?_, ?_⟩, mem, ?_, rfl, m.ctx_modCtx _⟩
  · rw [State.retire, same'.1 q, same.1 q, State.issued_ctx]; exact Ctx.reg_inTaint _ _ q
  · rw [State.retire, same'.2, same.2, State.issued_ctx]
  · rw [State.retire, State.retireAfter_ctx]

end Sys2Proof.Machine
end

section
/-! PROOF. MTC (R8, R53, R54, R60, R62). -/

namespace Sys2Proof.Machine

open Sys2Proof

/-- Settles O16: MTC writes by `writeCtrl`, whose cases are the registers', and completes; the reserved bits are those of the masks. -/
theorem mtcWritesWhatCanBeWritten : Obligations.MtcWritesWhatCanBeWritten := by
  unfold Obligations.MtcWritesWhatCanBeWritten
  intro s sw a w writes
  have write : ∀ (r : CtrlReg) (p : State → Prop), (r = .rptst → rptAct w = false ∨ s.ctx.inTrap = true) →
      (∀ t, t.core = ((s.issued [.x a]).writeCtrl r w (s.leadX a)).core →
        t.ctx = { ((s.issued [.x a]).writeCtrl r w (s.leadX a)).ctx.sequential 4 with
          parked := sw, nextIssue := ((s.issued [.x a]).writeCtrl r w (s.leadX a)).cycle + 1, wait := none, afterSync := false } → p t) →
      writes r p := fun r p ok h ready => by
    obtain ⟨same, mem, parked, core, ctx⟩ := s.mtc_writes sw a r w (s.leadX a)
    exact ⟨_, exec_mtc sw ready ok, same, mem, parked, h _ core ctx⟩
  refine ⟨write _ _ nofun fun t core ctx => ?_, fun n => write _ _ nofun fun t core ctx => ?_, fun ok frame => write _ _ (fun _ => ok) fun t core ctx => ?_,
    fun frame => write _ _ nofun fun t core ctx => ?_, fun r hr ready => ?_, fun n => write _ _ nofun fun t core ctx => ?_,
    fun act ready trappable => ⟨_, exec_mtc_refused sw ready act trappable.1, State.issued_illegal_entered trappable _⟩⟩
  · rw [ctx, core, Ctx.sequential_only]
    simp only [State.writeCtrl, State.ctx_modCtx, State.issued_ctx, writeCtxst, ctxstRsv_iff, true_and]
    rfl
  · rw [core]
    exact ⟨rfl, get_set_self _ _ _ n.isLt, fun m ne => get_set_ne _ n.toFin m _ (Ne.symm ne)⟩
  · rw [ctx, core]
    have rpt := Ctx.sequential_rpt (c := ((s.issued [.x a]).writeCtrl .rptst w (s.leadX a)).ctx) (size := 4)
      (by simp only [State.writeCtrl, State.ctx_modCtx, State.issued_ctx]; exact frame)
    refine ⟨rpt.1.trans ?_, rfl⟩
    simp only [State.writeCtrl, State.ctx_modCtx]
  · have rpt := Ctx.sequential_rpt (c := ((s.issued [.x a]).writeCtrl .rptpc w (s.leadX a)).ctx) (size := 4)
      (by simp only [State.writeCtrl, State.ctx_modCtx, State.issued_ctx]; exact frame)
    have written : t.ctx.rptpc = w &&& rptpcMask := by
      rw [ctx]; refine rpt.2.trans ?_; simp only [State.writeCtrl, State.ctx_modCtx]; rfl
    obtain ⟨field, low, high⟩ := rptpcMask_fields w
    rw [written]
    refine ⟨field, low, high, ?_⟩
    rw [ctx, Ctx.sequential_only]
    simp only [State.writeCtrl, State.ctx_modCtx, State.issued_ctx, Ctx.noteRsv, ctrlRsv, rptpcRsv_iff]
  · have run := exec_mtc (r := r) sw ready (by rintro rfl; simp at hr)
    have ignored : (s.issued [.x a]).writeCtrl r (s.readX a) (s.leadX a) = s.issued [.x a] := by
      simp only [List.mem_cons, List.not_mem_nil, or_false] at hr
      rcases hr with rfl | rfl | rfl | rfl | rfl | rfl | rfl | rfl | rfl | rfl | rfl <;> rfl
    rw [ignored] at run
    exact ⟨_, run, s.issued_retireAfter_passes [.x a] sw 4 1⟩
  · rw [ctx, core, Ctx.sequential_only]
    simp only [State.writeCtrl, State.ctx_modCtx, State.issued_ctx]
    exact ⟨rfl, rfl⟩

end Sys2Proof.Machine
end

section
/-! SUPPORT. Pauses, ICINV, register writes of variable latency, and trace records (R47, R50, R150, R151, R419). -/

namespace Sys2Proof.Machine

open Sys2Proof

/-- An instruction that only completes passes, whatever it had waited for. -/
theorem State.retireAfter_passes (s : State) (sw : Bool) (size gap : Nat) : s.passes (s.retireAfter sw size gap) sw size gap where
  only := s.retireAfter_onlyCtx sw size gap
  regs := by unfold Ctx.onlyRegs; rw [State.retireAfter_ctx, Ctx.sequential_only]
  goes := s.retireAfter_goesOn sw size gap
  same := s.retireAfter_sameRegs sw size gap

/-- PAUSE is a completion that marks the pause. -/
theorem State.paused_retireAfter (s : State) (sw : Bool) (size gap : Nat) (b : Bool) :
    (((s.retireAfter sw size gap).modCtx fun c => { c with paused := b }).modCtx fun c => { c with paused := s.ctx.paused })
      = s.retireAfter sw size gap := by
  have paused : (s.ctx.sequential size).paused = s.ctx.paused := by rw [Ctx.sequential_only]
  simp only [State.modCtx, State.setCtx_setCtx, State.ctx_setCtx, State.retireAfter, ← paused]

theorem State.locate_sought (s : State) (a : Word) : s.sought (s.locate a).1 := by
  have h := State.check_sought s .locate a 1 1 s.exchange
  unfold State.locate
  split
  · next e => rw [e] at h; exact h
  · next e => rw [e] at h; exact h

/-! ## Outstanding writes arrive (R47, R50) -/

/-- Where no outstanding write satisfies the test, none arrives. -/
theorem Ctx.performAll_none {p : PendingWrite → Bool} {c : Ctx} (h : ∀ u ∈ c.writes, p u = false) : ∀ ws, Ctx.performAll p ws c = c
  | [] => rfl
  | w :: ws => by
    unfold Ctx.performAll
    split
    · next u e =>
      rw [h u (List.mem_of_find?_eq_some e)]
      exact Ctx.performAll_none h ws
    · exact Ctx.performAll_none h ws

/-- The outstanding writes after the write `w` has arrived. -/
theorem Ctx.performWrite_writes (c : Ctx) (w : PendingWrite) :
    (c.performWrite w).writes = if w.dead then c.writes.filter fun u => decide (u.seq ≠ w.seq)
      else overtake w.reg w.seq (c.writes.filter fun u => decide (u.seq ≠ w.seq)) := by
  unfold Ctx.performWrite
  dsimp only
  split <;> rfl

theorem Ctx.mem_performWrite_writes (c : Ctx) (w u : PendingWrite) :
    u ∈ (c.performWrite w).writes ↔ ∃ v ∈ c.writes, v.seq ≠ w.seq ∧
      u = if w.dead = false ∧ v.reg = w.reg ∧ v.seq < w.seq then { v with dead := true } else v := by
  rw [Ctx.performWrite_writes]
  cases w.dead with
  | true =>
    simp only [if_true, List.mem_filter, decide_eq_true_eq, Bool.true_eq_false, false_and, if_false]
    exact ⟨fun ⟨m, h⟩ => ⟨u, m, h, rfl⟩, fun ⟨v, m, h, e⟩ => e ▸ ⟨m, h⟩⟩
  | false =>
    simp only [Bool.false_eq_true, if_false, overtake, List.mem_map, List.mem_filter, decide_eq_true_eq, true_and]
    exact ⟨fun ⟨v, ⟨m, h⟩, e⟩ => ⟨v, m, h, e.symm⟩, fun ⟨v, m, h, e⟩ => ⟨v, ⟨m, h⟩, e.symm⟩⟩

/-- Where the test names one outstanding write, that one arrives. -/
theorem Ctx.performAll_one {p : PendingWrite → Bool} {q : Nat} {w : PendingWrite} (hp : ∀ u, p u = true → u.seq = q) (sat : p w = true) :
    ∀ {ws : List PendingWrite} {c : Ctx}, w ∈ ws → w ∈ c.writes → (∀ u ∈ c.writes, u.seq = q → u = w) → Ctx.performAll p ws c = c.performWrite w
  | [], _, listed, _, _ => absurd listed List.not_mem_nil
  | x :: ws, c, listed, out, one => by
    have seq : w.seq = q := hp w sat
    unfold Ctx.performAll
    split
    · next u found =>
      have same : u.seq = x.seq := by simpa using List.find?_some found
      by_cases here : u.seq = q
      · obtain rfl := one u (List.mem_of_find?_eq_some found) here
        rw [sat]
        refine Ctx.performAll_none (fun v hv => Bool.eq_false_iff.mpr fun pv => ?_) ws
        obtain ⟨y, _, ne, e⟩ := (Ctx.mem_performWrite_writes c u v).mp hv
        refine ne ?_
        rw [seq, ← hp v pv, e]
        split <;> rfl
      · rw [show p u = false from Bool.eq_false_iff.mpr fun pu => here (hp u pu)]
        refine Ctx.performAll_one hp sat ((List.mem_cons.mp listed).resolve_left fun e => here ?_) out one
        rw [same, ← e, seq]
    · next none =>
      refine Ctx.performAll_one hp sat ((List.mem_cons.mp listed).resolve_left fun e => ?_) out one
      have := List.find?_eq_none.mp none w out
      rw [e] at this
      simp at this

/-- The write `w` arrives in its register alone, and one that is overtaken in none. -/
theorem Ctx.performWrite_reg (c : Ctx) (w : PendingWrite) {r : Reg} (h : r ≠ w.reg ∨ w.dead = true) : (c.performWrite w).reg r = c.reg r := by
  unfold Ctx.performWrite
  dsimp only
  split
  · exact Ctx.reg_congr rfl rfl rfl r
  · next alive =>
    exact (Ctx.reg_congr rfl rfl rfl r).trans (Ctx.reg_put_ne c w.reg r w.val (h.resolve_right alive))

theorem Ctx.performWrite_self (c : Ctx) {w : PendingWrite} (alive : w.dead = false) (h : w.reg ≠ .x 0) (fits : w.reg.fits w.val) :
    (c.performWrite w).reg w.reg = w.val := by
  unfold Ctx.performWrite
  rw [alive]
  exact (Ctx.reg_congr rfl rfl rfl w.reg).trans (Ctx.reg_put_self c w.reg w.val h fits)

/-- An arriving write changes the three files and the outstanding writes of its context. -/
theorem Ctx.performWrite_only (c : Ctx) (w : PendingWrite) :
    c.performWrite w = { c with x := (c.performWrite w).x, v := (c.performWrite w).v, p := (c.performWrite w).p, writes := (c.performWrite w).writes } := by
  unfold Ctx.performWrite
  dsimp only
  split
  · rfl
  · rw [Ctx.put_only]

/-! ## The trace ring (R419) -/

theorem Memory.write_append (m : List Host.Cell) (k : Nat) (as bs : List Byte) :
    Memory.write m k (as ++ bs) = Memory.write (Memory.write m k as) (k + as.length) bs := by
  induction as generalizing m k with
  | nil => rfl
  | cons a as ih =>
    rw [List.cons_append, Memory.write, Memory.write, ih, List.length_cons]
    congr 1
    omega

/-- The bytes of a trace record before its payload (R419). -/
def State.traceHead (s : State) (kind ctx : Nat) : List Byte :=
  bytesOfNat kind 1 ++ bytesOfNat ctx 1 ++ bytesOfNat s.core.num.toNat 2 ++ bytesOfNat s.job.jobid.toNat 4
    ++ bytesOfNat s.bar.sstep.toNat 8 ++ bytesOfNat s.dev.devtime.toNat 8

theorem State.length_traceHead (s : State) (kind ctx : Nat) : (s.traceHead kind ctx).length = 24 := by
  simp [State.traceHead]

/-- A trace record goes to the ring's next place, where that is set and has room (R419). -/
theorem State.trace_written {s : State} (ring : s.dev.trbase ≠ 0) (room : (s.dev.trprod - s.dev.trcons).toNat < s.dev.trCapacity) (kind ctx : Nat)
    (payload : Word) :
    s.trace kind ctx payload = { s with
      dev := { s.dev with trprod := s.dev.trprod + 1 },
      mem := Memory.write s.mem (hbmKey (s.dev.trbase.toNat + 32 * (s.dev.trprod.toNat % s.dev.trCapacity)))
        (s.traceHead kind ctx ++ bytesOfNat payload.toNat 8) } := by
  unfold State.trace
  dsimp only
  rw [if_neg ring, if_neg (Nat.not_le.mpr room)]
  rfl

end Sys2Proof.Machine
end

section
/-! PROOF. Pauses, counters, ICINV and late writes (R47, R50, R150, R151, R420). -/

namespace Sys2Proof.Machine

open Sys2Proof

theorem State.cntrd_gives (s : State) (sw : Bool) (d : BitVec 5) (k : BitVec 4) :
    s.gives (.cntrd sw d k) [.x d] sw 4 (.x d) (wide ((s.core.counters.get k.toFin).val.setWidth 64)) 2 :=
  State.issue_gives [] [.x d] (fun _ => wide ((s.core.counters.get k.toFin).val.setWidth 64)) rfl (fun _ => rfl) (Reg.fits_wide _ _)

/-- PAUSE (R151). -/
theorem exec_pause_passes {s : State} (sw : Bool) (n : BitVec 13) (ready : s.ready []) :
    ∃ t, exec (.pause sw n) s = .next t ∧ t.ctx.paused = decide (n ≠ 0) ∧
      s.passes (t.modCtx fun x => { x with paused := s.ctx.paused }) sw 4 (n.toNat + 1) := by
  refine ⟨_, State.exec_issued (rs := []) (ws := []) ready
    (k := fun u => (u.retireAfter sw 4 (n.toNat + 1)).modCtx fun c => { c with paused := decide (n ≠ 0) }) rfl, ?_, ?_⟩
  · rw [State.ctx_modCtx]
  · have paused : s.ctx.paused = (s.issued []).ctx.paused := by rw [State.issued_ctx]
    rw [paused, State.paused_retireAfter]
    exact s.issued_retireAfter_passes [] sw 4 (n.toNat + 1)

/-- ICINV with its line located, and no store to it outstanding, sends its invalidation and waits (R150). -/
theorem exec_icinv_sends {s u : State} {a : BitVec 5} {key : Nat} (sw : Bool) (sc : Scope) (ready : s.ready [.x a]) (idle : s.ctx.icinv = none)
    (found : (s.issued [.x a]).locate (s.readX a) = (u, some key))
    (free : ∀ m ∈ s.accs, m.ctx = s.cur → m.op.writes = true → overlaps m.key m.len (key / 64 * 64) 64 = false) :
    ∃ t, exec (.icinv sw a sc) s = .next t ∧ t.ctx.wait.isSome = true ∧ t.ctx.icinv = some (key / 64 * 64) ∧ t.ctx.pc = s.ctx.pc ∧
      .icinvCompletion s.cur ∈ t.agenda ∧ s.sameRegs t ∧ t.mem = s.mem := by
  have sought : (s.issued [.x a]).sought u := (State.locate_sought _ _).of_fst found
  have ctx : u.ctx = { s.ctx with inTaint := s.ctx.taintOf [.reg (.x a)] } := sought.ctx.trans (s.issued_ctx _)
  have none_out : u.accs.any (u.storesTo (key / 64 * 64)) = false := by
    rw [List.any_eq_false]
    intro m hm
    rw [sought.accs] at hm
    simp only [State.storesTo, sought.cur, Bool.and_eq_true, decide_eq_true_eq, not_and, Bool.not_eq_true]
    exact fun e => free m hm e.1 e.2
  have run : exec (.icinv sw a sc) s
      = .next (((u.modCtx fun c => { c with icinv := some (key / 64 * 64) }).post (.icinvCompletion u.cur)).waitOn .other 1 (s.readX a)) := by
    have issued : exec (.icinv sw a sc) s = .next (s.issue [.x a] [] fun s => match s.ctx.icinv with
      | some _ => s
      | none =>
        if s.ctx.wait.any (·.q = 1) then s.retire sw 4
        else
          match s.locate (s.waitValue a) with
          | (t, none) => t.retire sw 4
          | (t, some k) => t.whenDone (t.storesTo (k / 64 * 64)) (s.waitValue a) fun t =>
              ((t.modCtx fun c => { c with icinv := some (k / 64 * 64) }).post (.icinvCompletion t.cur)).waitOn .other 1 (s.waitValue a)) := rfl
    rw [State.exec_issued (rs := [.x a]) (ws := []) ready issued]
    have icinv : (s.issued [.x a]).ctx.icinv = none := by rw [State.issued_ctx]; exact idle
    simp only [icinv, State.issued_wait ready.1, State.waitValue_issued s ready.1, found, Option.any_none, Bool.false_eq_true, if_false,
      State.whenDone, none_out]
  refine ⟨_, run, ?_⟩
  have after : (((u.modCtx fun c => { c with icinv := some (key / 64 * 64) }).post (.icinvCompletion u.cur)).waitOn .other 1 (s.readX a)).ctx
      = { u.ctx with
          icinv := some (key / 64 * 64)
          wait := some (({ u.ctx with icinv := some (key / 64 * 64) } : Ctx).waiting .other 1 (s.readX a) u.cycle)
          nextIssue := u.cycle + 1 } := by
    simp only [State.waitOn, State.ctx_modCtx, State.ctx_post]
    rfl
  refine ⟨by rw [after]; rfl, by rw [after], by rw [after, ctx], ?_, ⟨fun r => ?_, by rw [after, ctx]⟩, sought.mem⟩
  · have cur : u.cur = s.cur := sought.cur
    rw [← cur]
    exact List.mem_append_right _ (List.mem_singleton_self _)
  · rw [after, ctx]; exact Ctx.reg_congr rfl rfl rfl r

/-- Every cache drops the line of an ICINV that completes (R150). -/
theorem exec_icinvCompletion {s : State} {c : Fin 11} {line : Nat} (h : (s.ctxAt c).icinv = some line) :
    exec (.icinvCompletion c) s = .next ((s.dropLine line).modCtxAt c fun x => { x with icinv := none }) := by
  show Host.Outcome.next _ = _
  rw [h]

/-- ICINV whose line has been dropped goes on (R150). -/
theorem exec_icinv_goes {s : State} {a : BitVec 5} {w : Wait} (sw : Bool) (sc : Scope) (waits : s.ctx.wait = some w) (q : w.q = 1)
    (done : s.ctx.icinv = none) : exec (.icinv sw a sc) s = .next (s.retire sw 4) := by
  show Host.Outcome.next (s.issue [.x a] [] _) = _
  unfold State.issue
  rw [if_pos (by rw [waits]; rfl)]
  simp only [done, waits, Option.any_some, q, decide_true, if_true]

/-- A formed write of variable latency arrives (R47). -/
theorem exec_registerWritePerformed {s : State} {c : Fin 11} {q : Nat} {w : PendingWrite} (out : w ∈ (s.ctxAt c).writes) (seq : w.seq = q)
    (formed : w.need = 0) (due : w.ready ≤ s.cycle + 1) (one : ∀ u ∈ (s.ctxAt c).writes, u.seq = q → u = w) :
    exec (.registerWritePerformed c q) s = .next (s.modCtxAt c fun x => x.performWrite w) := by
  have arrives : Ctx.performAll (fun w => decide (w.seq = q) && decide (w.need = 0) && decide (w.ready ≤ s.cycle + 1)) (s.ctxAt c).writes
      (s.ctxAt c) = (s.ctxAt c).performWrite w := by
    refine Ctx.performAll_one (q := q) (fun u hu => ?_) ?_ out out one
    · simp only [Bool.and_eq_true, decide_eq_true_eq] at hu
      exact hu.1.1
    · simp [seq, formed, due]
  exact congrArg (fun x => Host.Outcome.next { s with ctxs := s.ctxs.set c.val x c.isLt }) arrives

/-- Settles O17: each instruction and event by the rule of what it does. -/
theorem pausesCountersCachesAndLateWrites : Obligations.PausesCountersCachesAndLateWrites := by
  unfold Obligations.PausesCountersCachesAndLateWrites
  refine ⟨fun s sw n d a k sc c => ⟨fun ready => ?_, exec_pause_passes sw n, fun paused due => ?_, s.cntrd_gives sw d k,
    fun u key ready idle found free => exec_icinv_sends sw sc ready idle found free, fun line h => ?_, fun w waits q done => ?_⟩,
    fun s c q w out seq formed due one fx fp => ?_, fun s n => ⟨fun off => ?_, fun on ring room => ?_⟩⟩
  · exact ⟨_, State.exec_issued (rs := []) (ws := []) ready (k := fun u => u.retire sw 4) rfl, s.issued_retireAfter_passes [] sw 4 1⟩
  · exact congrArg Host.Outcome.next (if_pos ⟨paused, due⟩)
  · refine ⟨_, exec_icinvCompletion h, rfl, by rw [State.ctxAt_modCtxAt], fun l => ?_⟩
    simp only [State.modCtxAt_icache, State.dropLine, List.mem_filter, decide_eq_true_eq]
  · exact ⟨_, exec_icinv_goes sw sc waits q done, s.retireAfter_passes sw 4 1⟩
  · have fits : w.reg.fits w.val := by
      cases e : w.reg with
      | x n => exact (fx n e).symm
      | v n => trivial
      | p n => exact (fp n e).symm
    refine ⟨_, exec_registerWritePerformed out seq formed due one, rfl, fun m ne => State.ctxAt_modCtxAt_ne _ _ _ _ (Ne.symm ne), fun r hr => ?_,
      fun alive hx => ?_, fun u => ?_, ?_⟩ <;> rw [State.ctxAt_modCtxAt]
    · exact Ctx.performWrite_reg _ w hr
    · exact Ctx.performWrite_self _ alive hx fits
    · rw [Ctx.mem_performWrite_writes, seq]
    · rw [Ctx.performWrite_only]
  · exact congrArg Host.Outcome.next (if_neg (by rw [off]; exact Bool.false_ne_true))
  · have run : exec (.counterOverflow n) s = .next (s.trace 6 0xFF (n.setWidth 64)) := congrArg Host.Outcome.next (if_pos on)
    rw [State.trace_written ring room] at run
    refine ⟨_, run, rfl, rfl, ?_⟩
    dsimp only
    generalize hbmKey (s.dev.trbase.toNat + _) = k
    have len := s.length_traceHead 6 0xFF
    have six : (s.traceHead 6 0xFF ++ bytesOfNat (n.setWidth 64 : Word).toNat 8).getD 0 0 = 6 := rfl
    refine ⟨?_, ?_, fun j hj => ?_⟩
    · rw [Memory.byte_write, if_pos (by simp [len])]
      simpa using six
    · have number : (n.setWidth 64 : Word).toNat = n.toNat := by
        rw [BitVec.toNat_setWidth]; exact Nat.mod_eq_of_lt (by omega)
      rw [Memory.write_append, len, number]
      have := Memory.read_write_self (Memory.write s.mem k (s.traceHead 6 0xFF)) (k + 24) (bytesOfNat n.toNat 8)
      rwa [length_bytesOfNat] at this
    · rw [Memory.byte_write, if_neg (by simp only [List.length_append, len, length_bytesOfNat]; omega)]

end Sys2Proof.Machine
end

section
/-! SUPPORT. What the end of a job leaves of what its record names, and the record itself (R406, R411, R412). -/

namespace Sys2Proof.Machine

open Sys2Proof

/-- From `s` to `t` the job has kept what its completion record is written by: where it goes, its event and its number, the host's link (R412). -/
structure State.sameRecord (s t : State) : Prop where
  compl : t.job.compl = s.job.compl
  evt : t.job.evt = s.job.evt
  jobid : t.job.jobid = s.job.jobid
  link : t.dev.hostLink = s.dev.hostLink

theorem State.sameRecord.refl (s : State) : s.sameRecord s := ⟨rfl, rfl, rfl, rfl⟩

theorem State.sameRecord.trans {s t u : State} (h : s.sameRecord t) (g : t.sameRecord u) : s.sameRecord u :=
  ⟨g.compl.trans h.compl, g.evt.trans h.evt, g.jobid.trans h.jobid, g.link.trans h.link⟩

theorem State.logFor_sameRecord (s : State) (jobid : BitVec 32) (sstep cls cause source : Nat) (detail : BitVec 32) (addr : Word) :
    s.sameRecord (s.logFor jobid sstep cls cause source detail addr) := by
  unfold State.logFor
  dsimp only
  split <;> exact ⟨rfl, rfl, rfl, rfl⟩

theorem State.logEntry_sameRecord (s : State) (withJob : Bool) (cls cause source : Nat) (detail : BitVec 32) (addr : Word) :
    s.sameRecord (s.logEntry withJob cls cause source detail addr) := by
  unfold State.logEntry
  split
  · exact (s.logFor_sameRecord ..).trans ⟨rfl, rfl, rfl, rfl⟩
  · exact s.logFor_sameRecord ..

theorem State.modJob_sameRecord (s : State) (jobid : BitVec 32) {f : Job → Job}
    (hf : ∀ j, (f j).compl = j.compl ∧ (f j).evt = j.evt ∧ (f j).jobid = j.jobid) : s.sameRecord (s.modJob jobid f) := by
  obtain ⟨compl, evt, id⟩ := hf s.job
  refine ⟨?_, ?_, ?_, rfl⟩ <;> unfold State.modJob <;> dsimp only <;> split
  · exact compl
  · rfl
  · exact evt
  · rfl
  · exact id
  · rfl

theorem State.logAbout_sameRecord (s : State) (jobid : BitVec 32) (cls cause source : Nat) (detail : BitVec 32) (addr : Word) :
    s.sameRecord (s.logAbout jobid cls cause source detail addr) :=
  (s.logFor_sameRecord ..).trans (State.modJob_sameRecord _ _ fun _ => ⟨rfl, rfl, rfl⟩)

theorem State.tamperCheck_sameRecord (s : State) (source key n : Nat) : s.sameRecord (s.tamperCheck source key n) :=
  foldl_keeps s.sameRecord _ (fun t _ h =>
    h.trans ((t.logAbout_sameRecord ..).trans (State.modJob_sameRecord (f := fun j => { j with tamper := true }) _ _ fun _ => ⟨rfl, rfl, rfl⟩))) _
    (State.sameRecord.refl s)

theorem State.daybook_sameRecord (s : State) (old new : Snapshot) : s.sameRecord (s.daybook old new) := by
  have h := (s.modCore fun c => { c with snapshot := some new }).logEntry_sameRecord true 10 0 s.unitSource 0 0
  unfold State.daybook
  dsimp only
  split
  · exact ⟨h.compl, h.evt, h.jobid, h.link⟩
  · exact ⟨rfl, rfl, rfl, rfl⟩

theorem State.daybookLines_sameRecord (s : State) (ls : List Nat) : s.sameRecord (s.daybookLines ls) := by
  unfold State.daybookLines
  split
  · exact s.daybook_sameRecord _ _
  · exact State.sameRecord.refl s

theorem State.pokeAs_sameRecord (s : State) (agent source key : Nat) (bs : List Byte) : s.sameRecord (s.pokeAs agent source key bs) :=
  ((s.tamperCheck_sameRecord source key bs.length).trans (State.daybookLines_sameRecord _ _)).trans ⟨rfl, rfl, rfl, rfl⟩

theorem State.poke_sameRecord (s : State) (source key : Nat) (bs : List Byte) : s.sameRecord (s.poke source key bs) := s.pokeAs_sameRecord ..

theorem State.finitAt_sameRecord (s : State) (source key : Nat) (v : Word) (b : Bool) : s.sameRecord (s.finitAt source key v b) :=
  (s.poke_sameRecord source key (bytesOfNat v.toNat 8)).trans ⟨rfl, rfl, rfl, rfl⟩

theorem State.finishWrites_sameRecord (l : List Acc) (s : State) : s.sameRecord (State.finishWrites l s) := by
  induction l generalizing s with
  | nil => exact State.sameRecord.refl s
  | cons a l ih =>
    unfold State.finishWrites
    split
    · exact (s.poke_sameRecord ..).trans (ih _)
    · exact (s.poke_sameRecord ..).trans (ih _)
    · refine State.sameRecord.trans ?_ (ih _)
      split
      · exact s.logEntry_sameRecord ..
      · exact s.poke_sameRecord ..
    · exact (s.finitAt_sameRecord ..).trans (ih _)
    · exact ih s

theorem State.trace_sameRecord (s : State) (kind ctx : Nat) (payload : Word) : s.sameRecord (s.trace kind ctx payload) := by
  unfold State.trace
  dsimp only
  split
  · exact State.sameRecord.refl s
  · split <;> exact ⟨rfl, rfl, rfl, rfl⟩

theorem State.flushTakes_sameRecord (s : State) (n : Fin 11) : s.sameRecord (s.flushTakes n) := by
  unfold State.flushTakes
  split
  · exact State.sameRecord.refl s
  · exact (s.trace_sameRecord ..).trans ⟨rfl, rfl, rfl, rfl⟩

theorem State.flushAllTakes_sameRecord (s : State) : s.sameRecord s.flushAllTakes :=
  foldl_keeps s.sameRecord _ (fun t n h => h.trans (t.flushTakes_sameRecord n)) _ (State.sameRecord.refl s)

/-- Bytes of a number, one by one (R2). -/
theorem getD_bytesOfNat {n i : Nat} (v : Nat) (h : i < n) : (bytesOfNat v n).getD i 0 = BitVec.ofNat 8 (v / 256 ^ i) := by
  induction n generalizing v i with
  | zero => omega
  | succ n ih =>
    cases i with
    | zero => simp [bytesOfNat]
    | succ i => rw [bytesOfNat, List.getD_cons_succ, ih _ (by omega), Nat.div_div_eq_div_mul, ← Nat.pow_succ']

/-- The fields of a record's first dword (R412). -/
theorem recordDword_parts {status reason : Nat} (hr : reason < 256) (mfst tamper noReplay repro : Bool) (jobid : BitVec 32) :
    recordDword status reason mfst tamper noReplay repro jobid / 2 ^ 56 = status ∧
      recordDword status reason mfst tamper noReplay repro jobid / 256 ^ 6 % 256 = reason ∧
      recordDword status reason mfst tamper noReplay repro jobid % 2 ^ 32 = jobid.toNat := by
  have le := fun b : Bool => Bool.toNat_le b
  have := le mfst; have := le tamper; have := le noReplay; have := le repro
  simp only [recordDword, bitAt_eq]
  refine ⟨?_, ?_, ?_⟩ <;> omega

/-- What a completion record is: STATUS and REASON in its last bytes, the JOBID in its first (R412). -/
structure State.recorded (t : State) (compl : Word) (evt : BitVec 15) (jobid : BitVec 32) (status reason : Nat) : Prop where
  event : evt ≠ 0 → Sparse.get EventState.done t.dev.events evt.toNat = if status = 1 then .done else .failed
  status : Memory.byte t.mem (complKey compl + 7) = BitVec.ofNat 8 status
  reason : Memory.byte t.mem (complKey compl + 6) = BitVec.ofNat 8 reason
  jobid : ∀ i < 4, Memory.byte t.mem (complKey compl + i) = BitVec.ofNat 8 (jobid.toNat / 256 ^ i)

theorem Device.raiseIrq_events (d : Device) (q : Nat) : (d.raiseIrq q).events = d.events := by
  unfold Device.raiseIrq; split <;> rfl

/-- Seven bytes of a record's first dword stand at its place, and STATUS in the eighth, while the host's link is up or is not needed (R407, R412). -/
theorem State.writeRecord_byte (s : State) (compl : Word) (evt q status dword0 : Nat) (start finish count logged : Word) (up : s.dev.hostLink = true)
    {i : Nat} (h : i < 8) :
    Memory.byte (s.writeRecord compl evt q status dword0 start finish count logged).mem (complKey compl + i) = BitVec.ofNat 8 (dword0 / 256 ^ i) := by
  unfold State.writeRecord
  simp only [up, Bool.not_true, Bool.and_false, Bool.false_eq_true, if_false]
  rw [Memory.byte_write, length_bytesOfNat]
  by_cases last : i = 7
  · subst last
    rw [if_pos (by omega), Nat.sub_self, getD_bytesOfNat _ (by omega), Nat.pow_zero, Nat.div_one, show (256 : Nat) ^ 7 = 2 ^ 56 from rfl]
  · rw [if_neg (by omega), Memory.byte_write, length_bytesOfNat, if_pos (by omega), Nat.add_sub_cancel_left, getD_bytesOfNat _ (by omega)]

theorem State.writeRecord_events (s : State) (compl : Word) {evt : BitVec 15} (q status dword0 : Nat) (start finish count logged : Word) (h : evt ≠ 0) :
    Sparse.get EventState.done (s.writeRecord compl evt.toNat q status dword0 start finish count logged).dev.events evt.toNat
      = if status = 1 then .done else .failed := by
  have : evt.toNat ≠ 0 := fun e => h (BitVec.eq_of_toNat_eq e)
  unfold State.writeRecord Device.settleEvent
  rw [Device.raiseIrq_events, if_neg this]
  exact Sparse.get_set_self ..

theorem State.addManifest_hostLink (s : State) (j : Job) (d : Nat) (count : Word) : (s.addManifest j d count).dev.hostLink = s.dev.hostLink := by
  unfold State.addManifest; split <;> rfl

/-- A job's record holds what R412 says. -/
theorem State.recordJob_recorded (s : State) (j : Job) (repro : Bool) (count : Word) {status reason : Nat} (hr : reason < 256)
    (up : s.dev.hostLink = true) : (s.recordJob j repro count status reason).recorded j.compl j.evt j.jobid status reason := by
  obtain ⟨st, re, id⟩ := recordDword_parts (status := status) hr j.manif j.tamper j.noReplay repro j.jobid
  have byte := fun i (h : i < 8) => (s.addManifest j (j.dword0 repro status reason) count).writeRecord_byte j.compl j.evt.toNat (jobQueue j.jobid) status
    (j.dword0 repro status reason) j.startTime s.dev.devtime count (BitVec.ofNat 64 j.logged) ((s.addManifest_hostLink ..).trans up) (i := i) h
  refine ⟨fun h => State.writeRecord_events _ _ _ _ _ _ _ _ _ h, ?_, ?_, fun i hi => ?_⟩
  · refine (byte 7 (by omega)).trans (congrArg _ ?_)
    rw [show (256 : Nat) ^ 7 = 2 ^ 56 from rfl]
    exact st
  · refine (byte 6 (by omega)).trans (BitVec.eq_of_toNat_eq ?_)
    rw [BitVec.toNat_ofNat, BitVec.toNat_ofNat, Nat.mod_eq_of_lt (show reason < 2 ^ 8 from hr)]
    exact re
  · refine (byte i (by omega)).trans (BitVec.eq_of_toNat_eq ?_)
    rw [BitVec.toNat_ofNat, BitVec.toNat_ofNat, ← id]
    show j.dword0 repro status reason / 256 ^ i % 2 ^ 8 = j.dword0 repro status reason % 2 ^ 32 / 256 ^ i % 2 ^ 8
    have : i = 0 ∨ i = 1 ∨ i = 2 ∨ i = 3 := by omega
    rcases this with rfl | rfl | rfl | rfl <;> omega

/-- The job that holds the core ends: its record is written, and nothing of it runs (R406, R412). -/
structure State.jobOver (s t : State) (status reason : Nat) : Prop where
  running : t.job.running = false
  live : ∀ c, (t.ctxAt c).live = false
  record : t.recorded s.job.compl s.job.evt s.job.jobid status reason

theorem State.releaseJob_live (s : State) (c : Fin 11) : (s.releaseJob.ctxAt c).live = false := by
  unfold State.releaseJob State.ctxAt
  dsimp only
  rw [mapVec_get]

theorem State.endRecord_jobOver {s u : State} (same : s.sameRecord u) {status reason : Nat} (hr : reason < 256)
    (up : s.dev.hostLink = true) : s.jobOver (u.endRecord status reason).releaseJob status reason where
  running := rfl
  live := State.releaseJob_live _
  record := by
    obtain ⟨event, st, re, id⟩ := u.recordJob_recorded u.job u.repro (Machine.sstepCount u.bar.sstep) hr (same.link.trans up)
    rw [same.compl] at st re id
    rw [same.evt] at event
    rw [same.jobid] at id
    exact ⟨event, st, re, id⟩

/-- A job that completes, or is ABORTED, first has its writes performed and its tags recorded (R145, R406). -/
theorem State.finish_sameRecord (s : State) : s.sameRecord (State.finishWrites s.accs s).flushAllTakes :=
  (State.finishWrites_sameRecord _ s).trans (State.flushAllTakes_sameRecord _)

theorem State.completeJob_jobOver {s : State} (up : s.dev.hostLink = true) : s.jobOver s.completeJob 1 0 :=
  State.endRecord_jobOver s.finish_sameRecord (by omega) up

theorem State.abortJob_jobOver {s : State} (running : s.job.running = true) (up : s.dev.hostLink = true) {reason : Nat} (hr : reason < 256) :
    s.jobOver (s.abortJob reason) 3 reason := by
  unfold State.abortJob
  rw [if_pos running]
  exact State.endRecord_jobOver s.finish_sameRecord hr up

theorem State.jobOver.of_sameRecord {s u t : State} {status reason : Nat} (h : u.jobOver t status reason) (same : s.sameRecord u) :
    s.jobOver t status reason where
  running := h.running
  live := h.live
  record := by rw [← same.compl, ← same.evt, ← same.jobid]; exact h.record

end Sys2Proof.Machine
end

section
/-! SUPPORT. How a context's stop leaves the others, and what HEND and END wait for (R134, R137, R385). -/

namespace Sys2Proof.Machine

open Sys2Proof

/-- Of the contexts, `t` differs from `s` in their send bindings and the marks of their TLBINVs alone, and memory, the job and the device are as they were. -/
structure State.sameButSends (s t : State) : Prop where
  live : ∀ m, (t.ctxAt m).live = (s.ctxAt m).live
  pc : ∀ m, (t.ctxAt m).pc = (s.ctxAt m).pc
  reg : ∀ m r, (t.ctxAt m).reg r = (s.ctxAt m).reg r
  mem : t.mem = s.mem
  job : t.job = s.job
  dev : t.dev = s.dev

theorem State.sameButSends.refl (s : State) : s.sameButSends s := ⟨fun _ => rfl, fun _ => rfl, fun _ _ => rfl, rfl, rfl, rfl⟩

theorem State.sameButSends.trans {s t u : State} (h : s.sameButSends t) (g : t.sameButSends u) : s.sameButSends u :=
  ⟨fun m => (g.live m).trans (h.live m), fun m => (g.pc m).trans (h.pc m), fun m r => (g.reg m r).trans (h.reg m r), g.mem.trans h.mem,
    g.job.trans h.job, g.dev.trans h.dev⟩

theorem State.wake_sameButSends (s : State) : s.sameButSends s.wake where
  live m := by rw [State.wake_ctxAt]; rfl
  pc m := by rw [State.wake_ctxAt]; rfl
  reg m r := by rw [State.wake_ctxAt, Ctx.unholdInv_reg]
  mem := rfl
  job := rfl
  dev := rfl

theorem State.modSend_sameButSends (s : State) (c : Fin 11) (f : Ctx → SendBinding) :
    s.sameButSends (s.modCtxAt c fun x => { x with send := f x }) := by
  have at_ : ∀ m, ((s.modCtxAt c fun x => { x with send := f x }).ctxAt m) = { s.ctxAt m with
      send := ((s.modCtxAt c fun x => { x with send := f x }).ctxAt m).send } := fun m => by
    by_cases h : c = m
    · subst h; rw [State.ctxAt_modCtxAt]
    · rw [State.ctxAt_modCtxAt_ne _ _ _ _ h]
  exact ⟨fun m => by rw [at_ m], fun m => by rw [at_ m], fun m r => by rw [at_ m]; exact Ctx.reg_congr rfl rfl rfl r, rfl, rfl, rfl⟩

theorem State.closePort_sameButSends (n : Fin 11) (s : State) (p : BitVec 2) : s.sameButSends (State.closePort n s p) := by
  have reclaimed : ∀ (t : State) (f : Port → Port) (k : Nat), t.sameButSends ((t.modPort p f).postReclaim p k) := fun t f k => by
    unfold State.postReclaim
    split <;> exact ⟨fun _ => rfl, fun _ => rfl, fun _ _ => rfl, rfl, rfl, rfl⟩
  unfold State.closePort
  split
  · dsimp only
    refine State.sameButSends.trans ?_ (reclaimed _ _ _)
    split
    · exact s.modSend_sameButSends _ fun x => x.send.abort
    · exact State.sameButSends.refl s
  · exact State.sameButSends.refl s

theorem State.closePorts_sameButSends (n : Fin 11) (s : State) (ps : List (BitVec 2)) : s.sameButSends (ps.foldl (State.closePort n) s) :=
  foldl_keeps s.sameButSends _ (fun t p h => h.trans (State.closePort_sameButSends n t p)) ps (State.sameButSends.refl s)

theorem Ctx.stopped_reg (c : Ctx) (r : Reg) : c.stopped.reg r = c.reg r := Ctx.reg_congr rfl rfl rfl r

/-- The state in which context `n` stops: its tags are recorded and its ports are closed (R134, R226, R385). -/
def State.closed (s : State) (n : Fin 11) : State := ([0, 1, 2, 3] : List (BitVec 2)).foldl (State.closePort n) (s.flushTakes n)

/-- A context that stops changes its own place among the contexts, and the accesses that it had outstanding. -/
theorem State.stopCtx_only (s : State) (n : Fin 11) :
    s.stopCtx n = { s.closed n with ctxs := (s.closed n).ctxs.set n.val ((s.closed n).ctxAt n).stopped n.isLt, accs := (s.stopCtx n).accs } := by
  unfold State.stopCtx State.closed
  generalize List.foldl (State.closePort n) (s.flushTakes n) _ = t
  rfl

theorem State.stopCtx_ctxs (s : State) (n : Fin 11) :
    (s.stopCtx n).ctxs = (s.closed n).ctxs.set n.val ((s.closed n).ctxAt n).stopped n.isLt := by rw [State.stopCtx_only]

theorem State.stopCtx_self (s : State) (n : Fin 11) : (s.stopCtx n).ctxAt n = ((s.closed n).ctxAt n).stopped := by
  rw [State.ctxAt, State.stopCtx_ctxs]; exact get_set_self _ _ _ n.isLt

theorem State.stopCtx_other (s : State) {m n : Fin 11} (h : m ≠ n) : (s.stopCtx n).ctxAt m = (s.closed n).ctxAt m := by
  rw [State.ctxAt, State.stopCtx_ctxs]; exact get_set_ne _ _ _ _ (Ne.symm h)

theorem State.stopCtx_parts (s : State) (n : Fin 11) :
    (s.stopCtx n).mem = (s.closed n).mem ∧ (s.stopCtx n).job = (s.closed n).job ∧ (s.stopCtx n).dev = (s.closed n).dev := by
  have h := s.stopCtx_only n
  generalize s.closed n = t at h ⊢
  rw [h]
  exact ⟨rfl, rfl, rfl⟩

theorem State.sameButSends.sameRecord {s t : State} (h : s.sameButSends t) : s.sameRecord t :=
  ⟨by rw [h.job], by rw [h.job], by rw [h.job], by rw [h.dev]⟩

theorem State.stopCtx_sameRecord (s : State) (n : Fin 11) : s.sameRecord (s.stopCtx n) := by
  have closed : s.sameRecord (s.closed n) := (s.flushTakes_sameRecord n).trans (State.closePorts_sameButSends n _ _).sameRecord
  obtain ⟨_, job, dev⟩ := s.stopCtx_parts n
  exact ⟨by rw [job, closed.compl], by rw [job, closed.evt], by rw [job, closed.jobid], by rw [dev, closed.link]⟩

theorem State.endShare_sameRecord (s : State) : s.sameRecord s.endShare := by
  have stopped := s.stopCtx_sameRecord 0
  unfold State.endShare
  generalize s.stopCtx 0 = t at stopped ⊢
  exact ⟨stopped.compl, stopped.evt, stopped.jobid, stopped.link⟩

/-! What HEND and END look at does not depend on the taint that their issue notes. -/

theorem State.endWaits_issued (s : State) (rs : List Reg) : (s.issued rs).endWaits = s.endWaits := by
  unfold State.endWaits; rw [State.issued_ctx]; rfl

theorem State.residueHere_issued (s : State) (rs : List Reg) : (s.issued rs).residueHere = s.residueHere := by
  unfold State.residueHere; rw [State.issued_ctx]

theorem State.anyHelperLive_issued (s : State) (rs : List Reg) : (s.issued rs).anyHelperLive = s.anyHelperLive := by
  unfold State.anyHelperLive; simp only [State.helperLive_issued]

/-- With no residue fault to report, HEND and END go on once nothing that they await is left. -/
theorem State.awaitEnd_done {s : State} (res : s.residueHere = none) (done : s.endWaits = false) (k : State → State) : s.awaitEnd k = k s := by
  unfold State.awaitEnd; rw [res, done]; rfl

theorem State.awaitEnd_waits {s : State} (res : s.residueHere = none) (waits : s.endWaits = true) (k : State → State) :
    s.awaitEnd k = s.block .other 0 0 := by
  unfold State.awaitEnd; rw [res, waits]; rfl

end Sys2Proof.Machine
end

section
/-! PROOF. HEND, END, and the end of contexts and jobs (R134, R137, R406, R411, R412). -/

namespace Sys2Proof.Machine

open Sys2Proof

/-- A context that begins to end issues nothing more, and its stop is due. -/
theorem State.issued_beginEnd (s : State) (e : Instr) :
    let t := (s.issued []).beginEnd e
    { t with ctxs := s.ctxs, agenda := s.agenda } = s ∧
      { t.ctx with ending := s.ctx.ending, wait := s.ctx.wait, inTaint := s.ctx.inTaint } = s.ctx ∧ (∀ m, m ≠ s.cur → t.ctxAt m = s.ctxAt m) ∧
      t.ctx.ending = true ∧ t.ctx.wait = none ∧ t.agenda = s.agenda ++ [e] := by
  intro t
  have ctx : t.ctx = { s.ctx with ending := true, wait := none, inTaint := s.ctx.taintOf [] } := by
    simp only [t, State.beginEnd, State.ctx_post, State.ctx_modCtx, State.issued_ctx]
    rfl
  have other : ∀ m, m ≠ s.cur → t.ctxAt m = s.ctxAt m := fun m ne =>
    (State.ctxAt_modCtx_ne (s.issued []) (fun c => { c with ending := true, wait := none }) ne).trans (State.ctxAt_modCtx_ne s _ ne)
  exact ⟨rfl, by rw [ctx], other, by rw [ctx], by rw [ctx], rfl⟩

theorem exec_hend {s : State} (sw : Bool) (ready : s.ready []) (cur : s.cur ≠ 0) (send : s.ctx.send.sst ≠ 2) :
    exec (.hend sw) s = .next ((s.issued []).awaitEnd fun u => u.beginEnd (.helperStops u.cur)) := by
  have run := State.exec_issued (j := .hend sw) (s := s) (rs := []) (ws := []) ready
    (k := fun u => if u.cur = 0 ∨ u.ctx.send.sst = 2 then u.illegal else u.awaitEnd fun u => u.beginEnd (.helperStops u.cur)) rfl
  have here : (s.issued []).ctx.send = s.ctx.send := by rw [State.issued_ctx]
  simp only [here] at run
  rw [run]
  exact congrArg Host.Outcome.next (if_neg (not_or.mpr ⟨cur, send⟩))

/-- END of context 0, past the checks of its place. -/
theorem exec_endCore {s : State} (sw : Bool) (ready : s.ready []) (cur : s.cur = 0) (free : s.ctx.atLoopEnd 4 = false)
    (sync : s.job.superstep = true → s.ctx.afterSync = true) :
    exec (.endCore sw) s = .next (if s.anyHelperLive then (s.issued []).block .other 0 0
      else if s.core.loom.running ∨ s.loomArmed then (s.issued []).block .other 0 0
      else (s.issued []).awaitEnd fun u => u.compareSigs (fun u => u.redundancyAbort 0) fun u => u.beginEnd .coreFree) := by
  have run := State.exec_issued (j := .endCore sw) (s := s) (rs := []) (ws := []) ready
    (k := fun u => u.transfer 4 fun u =>
      if u.cur ≠ 0 then u.illegal
      else if u.job.superstep ∧ u.ctx.afterSync = false then u.phaseViolation
      else if u.anyHelperLive then u.block .other 0 0
      else if u.core.loom.running ∨ u.loomArmed then u.block .other 0 0
      else u.awaitEnd fun u => u.compareSigs (fun u => u.redundancyAbort 0) fun u => u.beginEnd .coreFree) rfl
  rw [run, State.transfer_passed (by rw [State.atLoopEnd_issued]; exact free)]
  have after : (s.issued []).ctx.afterSync = s.ctx.afterSync := by rw [State.issued_ctx]
  have inSync : ¬ ((s.issued []).job.superstep = true ∧ (s.issued []).ctx.afterSync = false) := by
    rintro ⟨step, no⟩
    rw [after, sync step] at no
    exact Bool.noConfusion no
  rw [if_neg (not_not.mpr (show (s.issued []).cur = 0 from cur)), if_neg inSync, State.anyHelperLive_issued]
  rfl

/-- HELPER_STOPS of a helper that has ended, with no tag to record (R134). -/
theorem exec_helperStops_stopped {s : State} {c : Fin 11} (ending : (s.ctxAt c).ending = true) (taken : (s.ctxAt c).takeOrder = []) :
    ∃ t, exec (.helperStops c) s = .next t ∧ (t.ctxAt c).live = false ∧ (t.ctxAt c).ending = false ∧ (∀ m r, (t.ctxAt m).reg r = (s.ctxAt m).reg r) ∧
      (∀ m, m ≠ c → (t.ctxAt m).live = (s.ctxAt m).live ∧ (t.ctxAt m).pc = (s.ctxAt m).pc) ∧ t.mem = s.mem ∧ t.job = s.job ∧ t.dev = s.dev := by
  have flush : s.flushTakes c = s := by
    unfold State.flushTakes
    rw [show (s.ctxs.get c).takeOrder = [] from taken]
  have closed : s.sameButSends (s.closed c) := by
    unfold State.closed
    rw [flush]
    exact State.closePorts_sameButSends c s _
  obtain ⟨mem, job, dev⟩ := s.stopCtx_parts c
  have run : exec (.helperStops c) s = .next { (s.stopCtx c).wake with agenda := (s.stopCtx c).wake.agenda ++ (s.stopCtx c).wake.heldFor c } :=
    congrArg Host.Outcome.next (if_pos ending)
  have self := s.stopCtx_self c
  have other := fun m (ne : m ≠ c) => s.stopCtx_other ne
  generalize s.stopCtx c = u at run mem job dev self other
  have woken := u.wake_sameButSends
  have live := fun m => woken.live m
  refine ⟨_, run, (live c).trans (by rw [self]; rfl), ?_, fun m r => ?_, fun m ne => ⟨?_, ?_⟩, mem.trans closed.mem, job.trans closed.job,
    dev.trans closed.dev⟩
  · show (u.wake.ctxAt c).ending = false
    rw [State.wake_ctxAt, self]; rfl
  · refine (woken.reg m r).trans (Eq.trans ?_ (closed.reg m r))
    by_cases h : m = c
    · rw [h, self, Ctx.stopped_reg]
    · rw [other m h]
  · exact (live m).trans (by rw [other m ne]; exact closed.live m)
  · exact (woken.pc m).trans (by rw [other m ne]; exact closed.pc m)

/-- Settles O18: HEND and END by `awaitEnd`, a helper's stop by what `stopCtx` leaves, and the job's end by its record. -/
theorem endsEndContextsAndJobs : Obligations.EndsEndContextsAndJobs := by
  unfold Obligations.EndsEndContextsAndJobs
  refine ⟨fun s sw c => ?_, fun s ending others up => ?_⟩
  · intro ends
    have block := fun ready : s.ready [] => s.issued_block_waits ready.1 [] .other 0 0
    refine ⟨fun ready cur send res done => ?_, fun ready cur send res waits => ?_, fun ready cur free alone sync loom armed redun res done => ?_,
      fun ready cur free busy sync => ?_, exec_helperStops_stopped⟩
    · refine ⟨_, exec_hend sw ready cur send, ?_⟩
      rw [State.awaitEnd_done (by rw [State.residueHere_issued]; exact res) (by rw [State.endWaits_issued]; exact done)]
      exact s.issued_beginEnd (.helperStops s.cur)
    · refine ⟨_, exec_hend sw ready cur send, ?_⟩
      rw [State.awaitEnd_waits (by rw [State.residueHere_issued]; exact res) (by rw [State.endWaits_issued]; exact waits)]
      exact block ready
    · refine ⟨_, exec_endCore sw ready cur free sync, ?_⟩
      rw [alone, loom, armed]
      simp only [Bool.false_eq_true, or_self, if_false]
      rw [State.awaitEnd_done (by rw [State.residueHere_issued]; exact res) (by rw [State.endWaits_issued]; exact done)]
      have one : (s.issued []).compareSigs (fun u => u.redundancyAbort 0) (fun u => u.beginEnd .coreFree) = (s.issued []).beginEnd .coreFree :=
        if_neg (by rw [show (s.issued []).job.redun = false from redun]; exact Bool.false_ne_true)
      rw [one]
      exact s.issued_beginEnd .coreFree
    · refine ⟨_, exec_endCore sw ready cur free sync, ?_⟩
      cases alone : s.anyHelperLive with
      | true => exact block ready
      | false =>
        rw [alone] at busy
        rw [if_neg Bool.false_ne_true, if_pos (busy.resolve_left Bool.false_ne_true)]
        exact block ready
  · have run : exec .coreFree s = .next s.endShare.completeJob :=
      congrArg Host.Outcome.next ((if_pos ending).trans (if_pos others))
    have ended := (State.completeJob_jobOver (s := s.endShare) (s.endShare_sameRecord.link.trans up)).of_sameRecord s.endShare_sameRecord
    exact ⟨_, run, ended.running, ended.live, ended.record.event, ended.record.status, ended.record.reason, ended.record.jobid⟩

end Sys2Proof.Machine
end

section
/-! SUPPORT. Traps that wait for a register write, and the double trap (R140, R145, R259). -/

namespace Sys2Proof.Machine

open Sys2Proof

/-- Outside a claim, a trap that a trappable context takes changes that context alone. -/
theorem State.raise_unclaimed {s : State} (h : s.ctx.trappable) (free : s.claimed = false) {t : TrapInfo} (quiet : t.log = false) :
    s.raise t = s.setCtx (s.raise t).ctx := by
  have here : s.raise t = s.modCtx fun c => c.enter { t with log := false } s.job.trapvec s.cycle := by
    rw [State.raise, State.logTrap, quiet, if_neg Bool.false_ne_true, State.takeTrap_trappable h, free, if_neg Bool.false_ne_true]
  rw [here, State.ctx_modCtx]
  rfl

theorem State.setCtx_issued (s : State) (rs : List Reg) (c : Ctx) : (s.issued rs).setCtx c = s.setCtx c := State.setCtx_setCtx s _ c

/-- An instruction that raises a trap outside a claim changes its context alone. -/
theorem State.issued_raise_unclaimed {s : State} (h : s.ctx.trappable) (free : s.claimed = false) (rs : List Reg) {t : TrapInfo} (quiet : t.log = false) :
    (s.issued rs).raise t = s.setCtx ((s.issued rs).raise t).ctx := by
  have only := State.raise_unclaimed (State.issued_trappable h rs) (show (s.issued rs).claimed = false from free) quiet
  rwa [State.setCtx_issued] at only

/-! ## A trap that waits (R140) -/

/-- Some outstanding write, the only one of its number, does not satisfy the test. -/
def Ctx.keepsWrite (p : PendingWrite → Bool) (c : Ctx) : Prop := ∃ w ∈ c.writes, p w = false ∧ ∀ u ∈ c.writes, u.seq = w.seq → u = w

/-- A write that does not satisfy the test stays when another one arrives, if also overtaken. -/
theorem Ctx.keepsWrite_performWrite {p : PendingWrite → Bool} (hp : ∀ u, p { u with dead := true } = p u) {c : Ctx} (h : c.keepsWrite p)
    {u : PendingWrite} (out : u ∈ c.writes) (sat : p u = true) : (c.performWrite u).keepsWrite p := by
  obtain ⟨w, hw, no, one⟩ := h
  have ne : w.seq ≠ u.seq := fun e => by rw [one u out e.symm, no] at sat; exact Bool.noConfusion sat
  refine ⟨_, (Ctx.mem_performWrite_writes c u _).mpr ⟨w, hw, ne, rfl⟩, ?_, fun x hx same => ?_⟩
  · split
    · rw [hp, no]
    · exact no
  · obtain ⟨v, hv, _, rfl⟩ := (Ctx.mem_performWrite_writes c u x).mp hx
    have seq : v.seq = w.seq := by
      have left : (if u.dead = false ∧ v.reg = u.reg ∧ v.seq < u.seq then { v with dead := true } else v).seq = v.seq := by split <;> rfl
      have right : (if u.dead = false ∧ w.reg = u.reg ∧ w.seq < u.seq then { w with dead := true } else w).seq = w.seq := by split <;> rfl
      rw [left, right] at same
      exact same
    rw [one v hv seq]

theorem Ctx.keepsWrite_performAll {p : PendingWrite → Bool} (hp : ∀ u, p { u with dead := true } = p u) :
    ∀ (ws : List PendingWrite) {c : Ctx}, c.keepsWrite p → (Ctx.performAll p ws c).keepsWrite p
  | [], _, h => h
  | x :: ws, c, h => by
    unfold Ctx.performAll
    split
    · next u found =>
      refine Ctx.keepsWrite_performAll hp ws ?_
      split
      · next sat => exact Ctx.keepsWrite_performWrite hp h (List.mem_of_find?_eq_some found) sat
      · exact h
    · exact Ctx.keepsWrite_performAll hp ws h

/-- Arriving writes change the three files and the outstanding writes of their context. -/
theorem Ctx.performAll_only (p : PendingWrite → Bool) : ∀ (ws : List PendingWrite) (c : Ctx),
    Ctx.performAll p ws c = { c with
      x := (Ctx.performAll p ws c).x, v := (Ctx.performAll p ws c).v, p := (Ctx.performAll p ws c).p, writes := (Ctx.performAll p ws c).writes }
  | [], _ => rfl
  | w :: ws, c => by
    unfold Ctx.performAll
    split
    · split
      · rw [Ctx.performAll_only p ws, Ctx.performWrite_only]
      · exact Ctx.performAll_only p ws c
    · exact Ctx.performAll_only p ws c

theorem Ctx.settle_only (c : Ctx) (cycle : Nat) :
    c.settle cycle = { c with x := (c.settle cycle).x, v := (c.settle cycle).v, p := (c.settle cycle).p, writes := (c.settle cycle).writes } :=
  Ctx.performAll_only ..

/-- A write whose cycle has not come stays outstanding. -/
theorem Ctx.settle_outstanding {c : Ctx} {cycle : Nat} {w : PendingWrite} (out : w ∈ c.writes) (undue : ∀ d, w.due = some d → cycle < d)
    (one : ∀ u ∈ c.writes, u.seq = w.seq → u = w) : (c.settle cycle).writes.isEmpty = false := by
  have keeps : c.keepsWrite fun u => match u.due with | some d => decide (d ≤ cycle) | none => false := by
    refine ⟨w, out, ?_, one⟩
    cases e : w.due with
    | none => simp only [e]
    | some d => simp only [e, decide_eq_false (Nat.not_le.mpr (undue d e))]
  obtain ⟨u, hu, _⟩ := Ctx.keepsWrite_performAll (fun _ => rfl) c.writes keeps
  cases h : (c.settle cycle).writes with
  | nil => exact absurd (show u ∈ (c.settle cycle).writes from hu) (by rw [h]; exact List.not_mem_nil)
  | cons x xs => rfl

/-- A trap whose earlier register writes have not all been formed is kept (R140). -/
theorem State.takeTrap_kept {s : State} (t : TrapInfo) {w : PendingWrite} (out : w ∈ s.ctx.writes) (undue : ∀ d, w.due = some d → s.cycle < d)
    (one : ∀ u ∈ s.ctx.writes, u.seq = w.seq → u = w) :
    s.takeTrap t = s.setCtx { s.ctx.settle s.cycle with trapping := some t, wait := none, nextIssue := s.cycle + 1 } := by
  unfold State.takeTrap
  dsimp only
  rw [Ctx.settle_outstanding out undue one]
  rfl

/-! ## The double trap (R145, R259) -/

/-- From `s` to `t` the issuing context has ended by a double trap, and the job is stopped; the other contexts go on to their boundaries. -/
structure State.doubled (s t : State) : Prop where
  live : t.ctx.live = false
  stopping : t.job.stopping = true
  others : ∀ m, m ≠ s.cur → (t.ctxAt m).live = (s.ctxAt m).live ∧ (t.ctxAt m).pc = (s.ctxAt m).pc ∧ ∀ r, (t.ctxAt m).reg r = (s.ctxAt m).reg r

theorem State.logEntry_ctxAt (s : State) (withJob : Bool) (cls cause source : Nat) (detail : BitVec 32) (addr : Word) (m : Fin 11) :
    (s.logEntry withJob cls cause source detail addr).ctxAt m = s.ctxAt m := by
  rw [State.ctxAt, State.logEntry_ctxs, State.ctxAt]

/-- The engine commands of a core end: its queues are empty, and each command has its element (R259). -/
theorem Chan.unhold_abort (c : Chan) : c.abort.unhold.cmds = [] ∧ c.abort.unhold.ready.length = c.ready.length + c.cmds.length := by
  refine ⟨rfl, ?_⟩
  show (c.ready ++ c.cmds.map _).length = _
  rw [List.length_append, List.length_map]

theorem State.abortCmds_chans (s : State) (q : Fin 5) : s.abortCmds.core.chans.get q = (s.core.chans.get q).abort.unhold := by
  unfold State.abortCmds State.wake
  dsimp only
  rw [mapVec_get, State.modCore_core, mapVec_get]

theorem State.abortCmds_ctxAt (s : State) (m : Fin 11) : s.abortCmds.ctxAt m = (s.ctxAt m).unholdInv := State.wake_ctxAt _ m

/-- Stopping the contexts of a job leaves what they hold. -/
theorem State.stopContexts_parts (s : State) (reason : Nat) :
    (s.stopContexts reason).job.stopping = true ∧ (s.stopContexts reason).cur = s.cur ∧
      ∀ m, ((s.stopContexts reason).ctxAt m).live = (s.ctxAt m).live ∧ ((s.stopContexts reason).ctxAt m).pc = (s.ctxAt m).pc ∧
        ∀ r, ((s.stopContexts reason).ctxAt m).reg r = (s.ctxAt m).reg r := by
  unfold State.stopContexts
  split
  · next h => exact ⟨h, rfl, fun m => ⟨rfl, rfl, fun r => rfl⟩⟩
  · refine ⟨rfl, rfl, fun m => ?_⟩
    rw [State.abortCmds_ctxAt]
    exact ⟨rfl, rfl, Ctx.unholdInv_reg _⟩

/-- A trap in a handler, with no write outstanding, ends the context (R145). -/
theorem State.doubleTrap_doubled (s : State) (t : TrapInfo) : s.doubled (s.doubleTrap t) := by
  unfold State.doubleTrap
  dsimp only
  generalize e : State.logEntry _ true 5 t.cause.toNat s.source t.detail t.caddr = u
  have ctxAt : ∀ m, u.ctxAt m = s.ctxAt m := fun m => by rw [← e, State.logEntry_ctxAt, State.logEntry_ctxAt]
  have cur : u.cur = s.cur := by rw [← e]; simp
  clear e
  obtain ⟨stopping, same, parts⟩ := (u.modCtx fun c => { c with live := false, wait := none, trapping := none }).stopContexts_parts 2
  refine ⟨?_, stopping, fun m ne => ?_⟩
  · rw [State.ctx, same]
    exact (parts _).1.trans (by rw [State.modCtx_cur, State.ctxAt_modCtx_self])
  · have at_ := State.ctxAt_modCtx_ne u (fun c => { c with live := false, wait := none, trapping := none }) (show m ≠ u.cur from cur ▸ ne)
    rw [← ctxAt m, ← at_]
    exact parts m

/-- A trap raised in a handler, with no write outstanding, is a double trap (R145). -/
theorem State.raise_inTrap {s : State} (inTrap : s.ctx.inTrap = true) (none : s.ctx.writes = []) (t : TrapInfo) :
    s.raise t = (s.logTrap t).doubleTrap { t with log := false } := by
  have ctx := s.logTrap_ctx t
  rw [State.raise, State.takeTrap, Ctx.settle_nil (by rw [ctx]; exact none)]
  rw [State.setCtx_ctx, ctx, none, List.isEmpty_nil, if_pos rfl, State.enterTrap, ctx, inTrap]
  rfl

theorem State.logTrap_ctxAt (s : State) (t : TrapInfo) (m : Fin 11) : (s.logTrap t).ctxAt m = s.ctxAt m := by
  unfold State.logTrap
  split
  · exact State.logEntry_ctxAt ..
  · rfl

theorem State.logTrap_cur (s : State) (t : TrapInfo) : (s.logTrap t).cur = s.cur := by
  unfold State.logTrap
  split
  · exact State.logEntry_cur ..
  · rfl

theorem State.raise_doubled {s : State} (inTrap : s.ctx.inTrap = true) (none : s.ctx.writes = []) (t : TrapInfo) : s.doubled (s.raise t) := by
  rw [State.raise_inTrap inTrap none]
  obtain ⟨live, stopping, others⟩ := (s.logTrap t).doubleTrap_doubled { t with log := false }
  refine ⟨live, stopping, fun m ne => ?_⟩
  have h := others m (by rw [State.logTrap_cur]; exact ne)
  rwa [State.logTrap_ctxAt] at h

/-- The same of an instruction that issues. -/
theorem State.issued_raise_doubled {s : State} (inTrap : s.ctx.inTrap = true) (none : s.ctx.writes = []) (rs : List Reg) (t : TrapInfo) :
    s.doubled ((s.issued rs).raise t) := by
  obtain ⟨live, stopping, others⟩ := State.raise_doubled (s := s.issued rs) (by rw [State.issued_ctx]; exact inTrap)
    (by rw [State.issued_ctx]; exact none) t
  refine ⟨live, stopping, fun m ne => ?_⟩
  have h := others m ne
  rwa [show (s.issued rs).ctxAt m = s.ctxAt m from State.ctxAt_modCtx_ne s _ ne] at h

/-- A job that no double trap has stopped before is stopped with REASON 2, and its engine commands end (R145, R259). -/
theorem State.doubleTrap_stops {s : State} (going : s.job.stopping = false) (t : TrapInfo) :
    (s.doubleTrap t).job.stopReason = 2 ∧ ∀ q, (s.doubleTrap t).core.chans.get q = (s.core.chans.get q).abort.unhold := by
  unfold State.doubleTrap
  dsimp only
  generalize e : State.logEntry _ true 5 t.cause.toNat s.source t.detail t.caddr = u
  have stopping : u.job.stopping = false := by rw [← e, State.logEntry_stopping, State.logEntry_stopping, going]
  have core : u.core = s.core := by rw [← e, State.logEntry_core, State.logEntry_core]
  clear e
  unfold State.stopContexts
  rw [if_neg (by rw [State.modCtx_job, stopping]; exact Bool.false_ne_true)]
  refine ⟨rfl, fun q => ?_⟩
  rw [State.abortCmds_chans]
  exact congrArg (fun k : Core => (k.chans.get q).abort.unhold) core

end Sys2Proof.Machine
end

section
/-! PROOF. Traps (R10, R140, R145 to R147, R412). -/

namespace Sys2Proof.Machine

open Sys2Proof

/-- A trap of an instruction that issues, outside a handler and a claim: the context enters the handler, and nothing else changes. -/
theorem State.issued_raise_only {s : State} (h : s.ctx.trappable) (free : s.claimed = false) (rs : List Reg) {t : TrapInfo} (quiet : t.log = false) :
    (s.issued rs).raise t = s.setCtx ((s.issued rs).raise t).ctx ∧ s.ctx.entered ((s.issued rs).raise t).ctx t s.job.trapvec :=
  ⟨State.issued_raise_unclaimed h free rs quiet, State.issued_raise_entered h rs t⟩

theorem exec_trap {s : State} (sw : Bool) (n : BitVec 13) (ready : s.ready []) :
    exec (.trap sw n) s = .next ((s.issued []).raise { TrapInfo.at s.ctx.pc 0x15 (n.setWidth 32) 0 with next := true, ret := s.ctx.pc + 4 }) := by
  have run := State.exec_issued (j := .trap sw n) (s := s) (rs := []) (ws := []) ready
    (k := fun u => u.raise { TrapInfo.at u.pc 0x15 (n.setWidth 32) 0 with next := true, ret := u.pc + 4 }) rfl
  rwa [State.issued_pc] at run

theorem exec_brk {s : State} (sw : Bool) (n : BitVec 8) (ready : s.ready []) (free : s.claimed = false) :
    exec (.brk sw n) s = .next ((s.issued []).raise (breakInfo s.ctx.pc n)) := by
  have run := State.exec_issued (j := .brk sw n) (s := s) (rs := []) (ws := []) ready (k := fun u =>
    if u.claimed then
      let t := (u.trace 3 u.cur.val (traprec0 (breakInfo u.pc n))).retire sw 4
      if u.job.superstep then { t with dev := { t.dev with dbgStopReq := true } } else t.halt
    else u.raise (breakInfo u.pc n)) rfl
  rw [run, if_neg (by rw [show (s.issued []).claimed = false from free]; exact Bool.false_ne_true), State.issued_pc]

/-- TEARDOWN_COMPLETES of the queue whose job was stopped ends that job (R145, R414). -/
theorem exec_teardownCompletes {s : State} {q : BitVec 8} (queue : q.toNat = jobQueue s.job.jobid) (running : s.job.running = true)
    (stopping : s.job.stopping = true) (idle : ∀ c, (s.ctxAt c).live = false) (up : s.dev.hostLink = true) {reason : Nat} (hr : reason < 256)
    (why : s.job.stopReason = reason) : ∃ t, exec (.teardownCompletes q) s = .next t ∧ s.jobOver t 3 reason := by
  have mine : (s.job.running && s.job.stopping && decide (jobQueue s.job.jobid = q.toNat)) = true := by
    rw [running, stopping, decide_eq_true queue.symm]; rfl
  have free : (s.ctxs.toList.any fun c => c.live && c.mustRun) = false := by
    rw [List.any_eq_false]
    intro c hc
    obtain ⟨i, hi, rfl⟩ := List.mem_iff_getElem.mp hc
    have live := idle ⟨i, by simpa using hi⟩
    simp only [State.ctxAt, get_eq_getElem] at live
    simp [live]
  have run : exec (.teardownCompletes q) s = .next (if (s.dev.queue q.toNat).td then (s.abortJob reason).modQueue q.toNat fun x =>
      { x with td := false, head := x.tail, accepted := x.tail } else s.abortJob reason) := by
    show Host.Outcome.next _ = _
    dsimp only
    rw [mine, free, why]
    simp
  have ended := State.abortJob_jobOver running up hr
  refine ⟨_, run, ?_⟩
  split
  · exact ⟨ended.running, ended.live, ⟨ended.record.event, ended.record.status, ended.record.reason, ended.record.jobid⟩⟩
  · exact ended

/-- Settles O13: TRAP, BRK and an undefined word raise their trap; it is kept while a write is outstanding, a double trap in a handler, and the stopped job
is ABORTED with its record. -/
theorem trapsEnterTheHandlerOrAbortTheJob : Obligations.TrapsEnterTheHandlerOrAbortTheJob := by
  unfold Obligations.TrapsEnterTheHandlerOrAbortTheJob
  refine ⟨⟨fun s sw n k ready trappable free => ⟨⟨_, exec_trap sw n ready, State.issued_raise_only trappable free [] rfl⟩,
    ⟨_, exec_brk sw k ready free, State.issued_raise_only trappable free [] rfl⟩, ⟨s.trapHere 0x01 0 0, rfl, State.raise_unclaimed trappable free rfl,
      State.raise_entered trappable _⟩⟩, fun s i => ?_⟩, fun s sw n ready inTrap none going => ?_,
    fun s q queue running stopping why idle up => ?_⟩
  · rintro ⟨w, out, undue, one⟩
    have ctx := s.logTrap_ctx i
    have cycle := s.logTrap_cycle i
    have kept := State.takeTrap_kept (s := s.logTrap i) { i with log := false } (ctx ▸ out) (cycle ▸ undue) (ctx ▸ one)
    have raised : (s.raise i).ctx = { s.ctx.settle s.cycle with trapping := some { i with log := false }, wait := none, nextIssue := s.cycle + 1 } := by
      rw [State.raise, kept, State.ctx_setCtx, ctx, cycle]
    rw [raised]
    refine ⟨rfl, by rw [Ctx.settle_only], by rw [Ctx.settle_only], by rw [Ctx.settle_only], fun quiet => ?_⟩
    have same : s.logTrap i = s := by rw [State.logTrap, quiet, if_neg Bool.false_ne_true]
    rw [State.raise, kept, same]
  · have doubled := State.issued_raise_doubled inTrap none [] { TrapInfo.at s.ctx.pc 0x15 (n.setWidth 32) 0 with next := true, ret := s.ctx.pc + 4 }
    have raised := State.raise_inTrap (s := s.issued []) (by rw [State.issued_ctx]; exact inTrap) (by rw [State.issued_ctx]; exact none)
      { TrapInfo.at s.ctx.pc 0x15 (n.setWidth 32) 0 with next := true, ret := s.ctx.pc + 4 }
    obtain ⟨why, chans⟩ := State.doubleTrap_stops (s := s.issued []) going
      { TrapInfo.at s.ctx.pc 0x15 (n.setWidth 32) 0 with next := true, ret := s.ctx.pc + 4 }
    refine ⟨_, exec_trap sw n ready, doubled.live, doubled.stopping, ?_, doubled.others, fun q => ?_⟩
    · rw [raised]; exact why
    · rw [raised]
      exact (chans q).symm ▸ Chan.unhold_abort _
  · obtain ⟨t, run, ended⟩ := exec_teardownCompletes queue running stopping idle up (reason := 2) (by omega) why
    exact ⟨t, run, ended.running, ended.record.event, ended.record.status, ended.record.reason⟩

end Sys2Proof.Machine
end

section
/-! SUPPORT. RTE (R61, R63, R148). -/

namespace Sys2Proof.Machine

open Sys2Proof

/-- The context that has left its handler for `target` (R131, R148). -/
def Ctx.returned (c : Ctx) (sw : Bool) (target : Word) (cycle : Nat) : Ctx :=
  { c with inTrap := false, pc := target, parked := sw, nextIssue := cycle + 3, wait := none, afterSync := false }

theorem State.returnTo_ctx (s : State) (sw : Bool) (target : Word) : (s.returnTo sw target).ctx = s.ctx.returned sw target s.cycle := by
  simp only [State.returnTo, State.jump, State.ctx_modCtx]
  rfl

theorem State.returnTo_only (s : State) (sw : Bool) (target : Word) : s.returnTo sw target = s.setCtx (s.returnTo sw target).ctx := by
  rw [State.returnTo_ctx]
  simp only [State.returnTo, State.jump, State.modCtx, State.ctx_setCtx, State.setCtx_setCtx]
  rfl

theorem State.issued_returnTo_only (s : State) (rs : List Reg) (sw : Bool) (target : Word) :
    (s.issued rs).returnTo sw target = s.setCtx ((s.issued rs).returnTo sw target).ctx := by
  have only := (s.issued rs).returnTo_only sw target
  rwa [State.setCtx_issued] at only

theorem State.issued_returnTo_ctx (s : State) (rs : List Reg) (sw : Bool) (target : Word) :
    ((s.issued rs).returnTo sw target).ctx = ({ s.ctx with inTaint := s.ctx.taintOf (rs.map .reg) } : Ctx).returned sw target s.cycle := by
  rw [State.returnTo_ctx, State.issued_ctx]
  rfl

theorem Ctx.ctl_inTaint (c : Ctx) (ts : List Nat) : ({ c with inTaint := ts } : Ctx).ctl = c.ctl := rfl

theorem State.issued_ctl (s : State) (rs : List Reg) : (s.issued rs).ctx.ctl = s.ctx.ctl := by rw [State.issued_ctx, Ctx.ctl_inTaint]

theorem State.issued_inTrap (s : State) (rs : List Reg) : (s.issued rs).ctx.inTrap = s.ctx.inTrap := by rw [State.issued_ctx]

/-- RTE past the test of R130. -/
theorem exec_rte {s : State} (sw : Bool) (ready : s.ready []) (free : s.ctx.atLoopEnd 4 = false) :
    exec (.rte sw) s = .next (if s.ctx.inTrap = false then (s.issued []).illegal
      else if rptAct s.ctx.ctl.rptst then ((s.issued []).returnTo sw s.ctx.pc).resumeFrame else (s.issued []).returnTo sw s.ctx.ctl.ret) := by
  have run := State.exec_issued (j := .rte sw) (s := s) (rs := []) (ws := []) ready
    (k := fun u => u.transfer 4 fun u => if u.ctx.inTrap = false then u.illegal else u.leaveHandler sw u.ctx.ctl.ret) rfl
  rw [run, State.transfer_passed (by rw [State.atLoopEnd_issued]; exact free), State.issued_inTrap, State.leaveHandler, State.issued_ctl, State.issued_pc]

/-- RTE xA past the test of R130. -/
theorem exec_rteXa {s : State} {a : BitVec 5} (sw : Bool) (ready : s.ready [.x a]) (free : s.ctx.atLoopEnd 4 = false) :
    exec (.rteXa sw a) s = .next (if s.ctx.inTrap = false then (s.issued [.x a]).illegal
      else if rptAct s.ctx.ctl.rptst then (s.issued [.x a]).illegal
      else if (s.leadX a).extractLsb' 0 2 ≠ 0 then (s.issued [.x a]).trapHere 0x03 4 (s.leadX a)
      else (s.issued [.x a]).returnTo sw (s.leadX a)) := by
  have run := State.exec_issued (j := .rteXa sw a) (s := s) (rs := [.x a]) (ws := []) ready
    (k := fun u => u.transfer 4 fun u =>
      if u.ctx.inTrap = false then u.illegal
      else if rptAct u.ctx.ctl.rptst then u.illegal
      else if (u.leadX a).extractLsb' 0 2 ≠ 0 then u.trapHere 0x03 4 (u.leadX a)
      else u.returnTo sw (u.leadX a)) rfl
  rw [run, State.transfer_passed (by rw [State.atLoopEnd_issued]; exact free)]
  simp only [State.issued_inTrap, State.issued_ctl, State.leadX_issued]

/-- RTE and RTE xA at the end word of an active loop are refused (R130). -/
theorem exec_rte_refused {s : State} {a : BitVec 5} {j : Instr} {sw : Bool} (which : j = .rte sw ∨ j = .rteXa sw a) (ready : s.ready [.x a])
    (atEnd : s.ctx.atLoopEnd 4 = true) : ∃ rs, exec j s = .next (s.issued rs).illegal := by
  rcases which with rfl | rfl
  · exact ⟨[], (State.exec_issued (j := .rte sw) (rs := []) (ws := []) (ready.mono (by simp))
      (k := fun u => u.transfer 4 fun u => if u.ctx.inTrap = false then u.illegal else u.leaveHandler sw u.ctx.ctl.ret) rfl).trans
      (congrArg Host.Outcome.next (State.transfer_refused (by rw [State.atLoopEnd_issued]; exact atEnd) _))⟩
  · exact ⟨[.x a], (State.exec_issued (j := .rteXa sw a) (rs := [.x a]) (ws := []) ready
      (k := fun u => u.transfer 4 fun u =>
        if u.ctx.inTrap = false then u.illegal
        else if rptAct u.ctx.ctl.rptst then u.illegal
        else if (u.leadX a).extractLsb' 0 2 ≠ 0 then u.trapHere 0x03 4 (u.leadX a)
        else u.returnTo sw (u.leadX a)) rfl).trans
      (congrArg Host.Outcome.next (State.transfer_refused (by rw [State.atLoopEnd_issued]; exact atEnd) _))⟩

/-- Outside a handler RTE and RTE xA are refused. -/
theorem exec_rte_outside {s : State} {a : BitVec 5} {j : Instr} {sw : Bool} (which : j = .rte sw ∨ j = .rteXa sw a) (ready : s.ready [.x a])
    (out : s.ctx.inTrap = false) : ∃ rs, exec j s = .next (s.issued rs).illegal := by
  cases atEnd : s.ctx.atLoopEnd 4 with
  | true => exact exec_rte_refused which ready atEnd
  | false =>
    rcases which with rfl | rfl
    · exact ⟨[], (exec_rte sw (ready.mono (by simp)) atEnd).trans (congrArg Host.Outcome.next (if_pos out))⟩
    · exact ⟨[.x a], (exec_rteXa sw ready atEnd).trans (congrArg Host.Outcome.next (if_pos out))⟩

/-- A frame whose words can be fetched again is resumed at its word (R61, R63). -/
theorem State.resumeFrame_resumed {s u : State} {ws : List Word32} (h : s.capture s.ctx.ctl.rptpc (rptN s.ctx.ctl.rptst + 1) = (u, .ok ws)) :
    s.resumeFrame = u.modCtx fun c => { c with
      frame := ws, pc := s.ctx.ctl.rptpc + BitVec.ofNat 64 (4 * rptIdx s.ctx.ctl.rptst),
      nextIssue := Nat.max c.nextIssue s.cycle + fetchCycles (rptN s.ctx.ctl.rptst + 1) } := by
  unfold State.resumeFrame
  dsimp only
  rw [h]

/-- A handler's return has changed none of the registers that decide the way. -/
theorem Ctx.ctl_returned (c : Ctx) (sw : Bool) (target : Word) (cycle : Nat) : (c.returned sw target cycle).ctl = c.ctl := rfl

/-- A context in its handler has its record's return address, and the loops and frame registers that it had. -/
theorem Ctx.ctl_enter (c : Ctx) (t : TrapInfo) (trapvec : Word) (cycle : Nat) : (c.enter t trapvec cycle).ctl = { c.ctl with ret := t.ret } := by
  unfold Ctx.enter Ctx.ctl
  cases c.lead <;> rfl

end Sys2Proof.Machine
end

section
/-! PROOF. RTE (R61, R63, R130, R140, R145, R146, R148). -/

namespace Sys2Proof.Machine

open Sys2Proof

/-- RTE in a handler, with no frame active, goes to where the trap came from, and RTE xA to an aligned xA. -/
theorem exec_rte_returns {s : State} {a : BitVec 5} {j : Instr} {sw : Bool} {target : Word}
    (which : (j = .rte sw ∧ target = s.ctx.ctl.ret) ∨ (j = .rteXa sw a ∧ target = s.leadX a ∧ target.extractLsb' 0 2 = 0)) (ready : s.ready [.x a])
    (free : s.ctx.atLoopEnd 4 = false) (inTrap : s.ctx.inTrap = true) (idle : rptAct s.ctx.ctl.rptst = false) :
    ∃ rs, exec j s = .next ((s.issued rs).returnTo sw target) := by
  have inside : ¬ s.ctx.inTrap = false := by rw [inTrap]; exact Bool.noConfusion
  have frame : ¬ rptAct s.ctx.ctl.rptst = true := by rw [idle]; exact Bool.noConfusion
  rcases which with ⟨rfl, rfl⟩ | ⟨rfl, rfl, aligned⟩
  · exact ⟨[], (exec_rte sw (ready.mono (by simp)) free).trans (congrArg Host.Outcome.next ((if_neg inside).trans (if_neg frame)))⟩
  · exact ⟨[.x a], (exec_rteXa sw ready free).trans
      (congrArg Host.Outcome.next ((if_neg inside).trans ((if_neg frame).trans (if_neg (not_not.mpr aligned)))))⟩

theorem Ctx.returned_reg (c : Ctx) (ts : List Nat) (sw : Bool) (target : Word) (cycle : Nat) (r : Reg) :
    (({ c with inTaint := ts } : Ctx).returned sw target cycle).reg r = c.reg r := Ctx.reg_congr rfl rfl rfl r

/-- A TRAP, and the RTE that its handler executes at once, come back to the word after it (R140, R146, R148). -/
theorem trap_rte_returns {s : State} (sw sw' : Bool) (n : BitVec 13) (c : Nat) (ready : s.ready []) (trappable : s.ctx.trappable)
    (free : s.claimed = false) (idle : rptAct s.ctx.ctl.rptst = false) (apart : ∀ k, s.ctx.ctl.le.get k ≠ s.job.trapvec) :
    ∃ t u, exec (.trap sw n) s = .next t ∧ exec (.rte sw') { t with cycle := c } = .next u ∧ u.ctx.pc = s.ctx.pc + 4 ∧
      u.ctx.inTrap = false ∧ (∀ r, u.ctx.reg r = s.ctx.reg r) ∧ u.ctx.lc = s.ctx.lc ∧ u.ctx.ls = s.ctx.ls ∧ u.ctx.le = s.ctx.le ∧
      u.ctx.rptst = s.ctx.rptst ∧ u.ctx.rptpc = s.ctx.rptpc ∧ u.ctx.slots = s.ctx.slots ∧ (∀ k, Memory.byte u.mem k = Memory.byte s.mem k) ∧
      { u with ctxs := s.ctxs, cycle := s.cycle } = s ∧ ∀ m, m ≠ s.cur → u.ctxAt m = s.ctxAt m := by
  have only := State.issued_raise_unclaimed trappable free []
    (t := { TrapInfo.at s.ctx.pc 0x15 (n.setWidth 32) 0 with next := true, ret := s.ctx.pc + 4 }) rfl
  have ctx := State.raise_ctx (State.issued_trappable trappable [])
    { TrapInfo.at s.ctx.pc 0x15 (n.setWidth 32) 0 with next := true, ret := s.ctx.pc + 4 }
  rw [State.issued_ctx] at ctx
  generalize hi : ({ TrapInfo.at s.ctx.pc 0x15 (n.setWidth 32) 0 with next := true, ret := s.ctx.pc + 4 } : TrapInfo) = i at only ctx
  have ret : i.ret = s.ctx.pc + 4 := by rw [← hi]
  have run := exec_trap (s := s) sw n ready
  rw [hi, only, ctx] at run
  set d := ({ s.ctx with inTaint := s.ctx.taintOf [] } : Ctx).enter { i with log := false } s.job.trapvec s.cycle with hd
  have here : ({ s.setCtx d with cycle := c } : State).ctx = d := s.ctx_setCtx d
  have ctl : d.ctl = { s.ctx.ctl with ret := i.ret } := Ctx.ctl_enter _ _ _ _
  have out : d.atLoopEnd 4 = false := (Ctx.atLoopEnd_word d).mpr fun k _ => by rw [ctl]; exact apart k
  have rte := exec_rte (s := ({ s.setCtx d with cycle := c } : State)) sw' ⟨by rw [here]; rfl, by rw [here]; rfl⟩ (by rw [here]; exact out)
  rw [here, ctl, show d.inTrap = true from rfl, if_neg Bool.noConfusion, show rptAct ({ s.ctx.ctl with ret := i.ret } : LoopRegs).rptst = false from idle,
    if_neg Bool.noConfusion, State.issued_returnTo_only] at rte
  have back := ({ s.setCtx d with cycle := c } : State).issued_returnTo_ctx [] sw' i.ret
  rw [here] at back
  rw [back] at rte
  refine ⟨_, _, run, rte, ?_⟩
  generalize hv : ({ d with inTaint := d.taintOf ([].map TReg.reg) } : Ctx).returned sw' i.ret _ = v
  have ctx' : (({ s.setCtx d with cycle := c } : State).setCtx v).ctx = v := State.ctx_setCtx _ v
  rw [ctx', ← hv]
  exact ⟨ret, rfl, fun r => (Ctx.returned_reg d _ sw' i.ret _ r).trans (Ctx.reg_congr rfl rfl rfl r), rfl, rfl, rfl, rfl, rfl, rfl, fun _ => rfl, rfl,
    fun m ne => (State.setCtx_other ({ s.setCtx d with cycle := c } : State) _ m (Ne.symm ne)).trans (State.setCtx_other s d m (Ne.symm ne))⟩

/-- Settles O14: RTE by its branches: the return, the frame resumed, the refusals, and the round trip of a TRAP. -/
theorem returnsComeBackFromTheHandler : Obligations.ReturnsComeBackFromTheHandler := by
  unfold Obligations.ReturnsComeBackFromTheHandler
  refine ⟨fun s sw a j target which ready => ⟨fun free inTrap idle => ?_, fun trappable => ?_⟩, ?_, fun s sw a j which ready inTrap atEnd none => ?_,
    fun s sw sw' n c ready trappable free idle apart => trap_rte_returns sw sw' n c ready trappable free idle apart⟩
  · obtain ⟨rs, run⟩ := exec_rte_returns which ready free inTrap idle
    refine ⟨_, run, s.issued_returnTo_only rs sw target, ?_⟩
    rw [State.issued_returnTo_ctx] at *
    exact ⟨⟨fun r => by rw [State.issued_returnTo_ctx]; exact Ctx.returned_reg _ _ _ _ _ r, by rw [State.issued_returnTo_ctx]; rfl⟩, rfl, rfl, rfl, rfl,
      rfl, rfl, rfl, rfl, rfl⟩
  · obtain ⟨rs, run⟩ := exec_rte_outside (which.imp And.left And.left) ready trappable.1
    exact ⟨_, run, State.issued_illegal_entered trappable rs⟩
  · intro s u sw a ws L n ready inTrap free
    have inside : ¬ s.ctx.inTrap = false := by rw [inTrap]; exact Bool.noConfusion
    refine ⟨fun act captured => ?_, fun bad none => ?_⟩
    · have back := s.issued_returnTo_ctx [] sw s.ctx.pc
      have ctl : ((s.issued []).returnTo sw s.ctx.pc).ctx.ctl = L := by rw [back]; rfl
      have sought : ((s.issued []).returnTo sw s.ctx.pc).sought u := (State.capture_sought _ _ _).of_fst captured
      have run := (exec_rte sw (ready.mono (by simp)) free).trans (congrArg Host.Outcome.next ((if_neg inside).trans (if_pos act)))
      rw [State.resumeFrame_resumed (u := u) (ws := ws) (by rw [ctl]; exact captured), ctl] at run
      refine ⟨_, run, sought.mem, ?_⟩
      have ctx := sought.ctx.trans back
      rw [State.ctx_modCtx, ctx]
      refine ⟨⟨fun r => ?_, ?_⟩, rfl, rfl, rfl, rfl, ?_, rfl⟩
      · rw [State.ctx_modCtx, ctx]
        exact Ctx.reg_congr rfl rfl rfl r
      · rw [State.ctx_modCtx, ctx]; rfl
      · show Nat.max (s.cycle + 3) s.cycle + (rptN L.rptst + 1 + 3) / 4 = s.cycle + 3 + (n + 3) / 4
        have max : Nat.max (s.cycle + 3) s.cycle = s.cycle + 3 := Nat.max_eq_left (by omega)
        rw [max]
    · have run := exec_rteXa sw ready free
      rw [if_neg inside] at run
      have doubled : ∀ i : TrapInfo, ∃ t : State, (s.issued [.x a]).raise i = t ∧ t.ctx.live = false ∧ t.job.stopping = true ∧
          (∀ m, m ≠ s.cur → (t.ctxAt m).live = (s.ctxAt m).live ∧ (t.ctxAt m).pc = (s.ctxAt m).pc ∧ ∀ r, (t.ctxAt m).reg r = (s.ctxAt m).reg r) := fun i =>
        have h := State.issued_raise_doubled inTrap none [.x a] i
        ⟨_, rfl, h.live, h.stopping, h.others⟩
      cases act : rptAct s.ctx.ctl.rptst with
      | true =>
        rw [act, if_pos rfl] at run
        obtain ⟨t, raised, h⟩ := doubled (TrapInfo.at (s.issued [.x a]).pc 0x02 0 0)
        exact ⟨t, run.trans (congrArg Host.Outcome.next raised), h⟩
      | false =>
        rw [act, if_neg Bool.noConfusion, if_pos (bad.resolve_left (by rw [act]; exact Bool.noConfusion))] at run
        obtain ⟨t, raised, h⟩ := doubled (TrapInfo.at (s.issued [.x a]).pc 0x03 4 (s.leadX a))
        exact ⟨t, run.trans (congrArg Host.Outcome.next raised), h⟩
  · obtain ⟨rs, run⟩ := exec_rte_refused which ready atEnd
    have doubled := State.issued_raise_doubled inTrap none rs (TrapInfo.at (s.issued rs).pc 0x02 0 0)
    exact ⟨_, run, doubled.live, doubled.stopping⟩

end Sys2Proof.Machine
end

section
/-! PROOF. Forming a gang (R138): a member may be listed twice among those that wait. -/

namespace Sys2Proof.Machine

open Sys2Proof

/-- Core 0 of a job of two cores, while core 1 waits at its GANG now, and is listed as waiting from the next cycle on too. -/
def listedTwice : State :=
  { State.reset with
    job := { State.reset.job with cores := [0, 1] },
    clu := { State.reset.clu with gangWait := [{ pos := 1, n := 2, since := 0 }, { pos := 1, n := 2, since := 1 }] } }

/-- The two cores form the gang, and the entry of the next cycle stays. -/
theorem exec_gang_listedTwice :
    (match exec (.gang false 1) listedTwice with
      | .next t => decide (t.clu.gangWait = [{ pos := 1, n := 2, since := 1 }])
      | _ => false) = true := by decide

/-- Refutes O12: of the cores that wait, those listed with a cycle to come stay listed when the gang forms, as GANG takes out the entries of this cycle and
earlier. In `listedTwice` core 1 is listed for both, so that the gang forms and core 1, one of its others, is listed still. -/
theorem not_gangsFormAndSplit : ¬ Obligations.GangsFormAndSplit := by
  unfold Obligations.GangsFormAndSplit
  intro h
  obtain ⟨forms, _, _⟩ := h listedTwice false 1
  obtain ⟨t, run, _, _, _, _, gone, _⟩ := forms ⟨by decide, by decide⟩ rfl (by decide) rfl rfl (by decide) (by decide) (by decide)
  have wait := exec_gang_listedTwice
  rw [run] at wait
  have listed : t.clu.gangWait = [{ pos := 1, n := 2, since := 1 }] := of_decide_eq_true wait
  rw [listed] at gone
  exact absurd (gone _ (List.mem_singleton_self _)) (by decide)

end Sys2Proof.Machine
end

section
/-! SUPPORT. Accesses to the local window, and code fetched from it (R25, R26, R33, R46, R150, R196). -/

namespace Sys2Proof.Machine

open Sys2Proof

/-! ## The local window (R25, R196) -/

/-- Where a run of the local window goes. -/
def localPlace (core : BitVec 12) (a : Word) : Place := { key := scratchKey core.toNat a.toNat, core := some core, leaf := none, page := (0, 0) }

theorem regionOf_local {a : Word} (h : a.toNat < 0x80000) : regionOf a = .scratch none a.toNat := if_pos h

theorem toNat_add_ofNat {a : Word} {n : Nat} (h : a.toNat + n < 2 ^ 64) : (a + BitVec.ofNat 64 n).toNat = a.toNat + n := by
  rw [BitVec.toNat_add, BitVec.toNat_ofNat]
  omega

/-- An aligned run of the local window passes its place's checks. -/
theorem placeCheck_local {a : Word} {n align : Nat} (aligned : a.toNat % align = 0) (pos : 0 < n) (fits : a.toNat + n ≤ 0x80000) :
    placeCheck a n align = .ok (.scratch none a.toNat) := by
  have last : (a + BitVec.ofNat 64 (n - 1)).toNat = a.toNat + (n - 1) := toNat_add_ofNat (by omega)
  unfold placeCheck
  rw [if_neg (not_not.mpr aligned), regionOf_local (by omega), regionOf_local (by omega)]
  exact if_pos rfl

/-- An access to a run of the local window goes to the own scratchpad (R25). -/
theorem State.check_local {s : State} {acc : Access} {a : Word} {n align : Nat} (aligned : a.toNat % align = 0) (pos : 0 < n)
    (fits : a.toNat + n ≤ 0x80000) (free : acc.claims = true → s.claimed? a.toNat n = false) (exchange : Bool) :
    s.check acc a n align exchange = (s, .ok (localPlace s.core.num a), 1) := by
  have passes : s.scratchCheck acc a n none a.toNat = .ok (localPlace s.core.num a) := by
    unfold State.scratchCheck
    simp only [State.scratchCore, ne_eq, not_true_eq_false, and_false, false_and, if_false]
    rw [if_neg (fun h => by rw [free h.1] at h; exact Bool.noConfusion h.2)]
    rfl
  unfold State.check
  rw [placeCheck_local aligned pos fits]
  dsimp only
  rw [passes]

/-- Code of the local window lies in the leader's scratchpad (R20). -/
theorem State.fetchPlace_local {s : State} {a : Word} (aligned : a.toNat % 4 = 0) (fits : a.toNat + 4 ≤ 0x80000) :
    s.fetchPlace a = (s, .ok (localPlace s.leader a)) := by
  unfold State.fetchPlace
  rw [State.check_local aligned (by omega) fits (fun h => Bool.noConfusion h)]

/-! ## Lines of code (R33, R150) -/

theorem Memory.read_add (m : List Host.Cell) (k i n : Nat) : Memory.read m k (i + n) = Memory.read m k i ++ Memory.read m (k + i) n := by
  induction i generalizing k with
  | zero => rw [Nat.zero_add]; rfl
  | succ i ih => rw [show i + 1 + n = i + n + 1 by omega, Memory.read, Memory.read, ih, show k + 1 + i = k + (i + 1) by omega]; rfl

/-- A part of a read is a read of its own. -/
theorem Memory.drop_take_read (m : List Host.Cell) (k : Nat) {d n l : Nat} (h : d + n ≤ l) :
    ((Memory.read m k l).drop d).take n = Memory.read m (k + d) n := by
  obtain ⟨r, rfl⟩ := Nat.exists_eq_add_of_le h
  rw [Nat.add_assoc, Memory.read_add, List.drop_left' (Memory.length_read ..), Memory.read_add, List.take_left' (Memory.length_read ..)]

/-- Every line that the cache holds is as memory has it. -/
def State.freshLines (s : State) : Prop := ∀ l ∈ s.icache, l.2 = Memory.read s.mem l.1 64

theorem State.fetchLine_fresh {s : State} (fresh : s.freshLines) (k : Nat) :
    (s.fetchLine k).2 = Memory.read s.mem k 64 ∧ (s.fetchLine k).1.freshLines ∧ { (s.fetchLine k).1 with icache := [] } = { s with icache := [] } := by
  unfold State.fetchLine
  split
  · next l found =>
    have key : l.1 = k := by simpa using List.find?_some found
    exact ⟨by rw [fresh l (List.mem_of_find?_eq_some found), key], fresh, rfl⟩
  · refine ⟨rfl, fun l hl => ?_, rfl⟩
    have old : l ∈ s.icache ∨ l = (k, s.peek k 64) := by
      unfold icacheFill at hl
      dsimp only at hl
      split at hl
      · exact (List.mem_append.mp hl).imp List.mem_of_mem_drop List.mem_singleton.mp
      · exact (List.mem_append.mp hl).imp_right List.mem_singleton.mp
    rcases old with h | rfl
    · exact fresh l h
    · rfl

/-- A word of code in the local window is read from its scratchpad while every cached line is fresh. -/
theorem State.fetchBytes_local {s : State} (fresh : s.freshLines) {a : Word} (aligned : a.toNat % 4 = 0) (fits : a.toNat + 4 ≤ 0x80000) :
    ∃ t, s.fetchBytes a = (t, .ok (Memory.read s.mem (scratchKey s.leader.toNat a.toNat) 4)) ∧ t.freshLines ∧
      { t with icache := [] } = { s with icache := [] } := by
  have mod : scratchKey s.leader.toNat a.toNat % 64 % 4 = 0 := by
    unfold scratchKey Config.scratchBase Config.scratchBytes
    omega
  unfold State.fetchBytes
  rw [State.fetchPlace_local aligned fits]
  dsimp only [localPlace]
  generalize scratchKey s.leader.toNat a.toNat = key at mod
  obtain ⟨line, fresh', same⟩ := State.fetchLine_fresh fresh (key / 64 * 64)
  refine ⟨_, ?_, fresh', same⟩
  rw [line, Memory.drop_take_read _ _ (by omega), Nat.div_add_mod' key 64]

/-- The instruction at an address of the local window, with the word behind an EXT (R44, R46). -/
theorem State.fetchAt_local {s : State} {a : Word} (aligned : a.toNat % 4 = 0) (fits : a.toNat + 8 ≤ 0x80000) (cold : s.icache = []) :
    ∃ f, { f with icache := [] } = s ∧ s.fetchAt a = (f, .ok (if isExt (bitsOfBytes 32 (Memory.read s.mem (scratchKey s.leader.toNat a.toNat) 4))
      then Memory.read s.mem (scratchKey s.leader.toNat a.toNat) 8 else Memory.read s.mem (scratchKey s.leader.toNat a.toNat) 4)) := by
  have empty : { s with icache := [] } = s := by rw [← cold]
  obtain ⟨t, first, fresh, same⟩ := State.fetchBytes_local (s := s) (by unfold State.freshLines; rw [cold]; simp) aligned (by omega)
  rw [empty] at same
  have next : (a + 4).toNat = a.toNat + 4 := toNat_add_ofNat (n := 4) (by omega)
  obtain ⟨u, second, _, same'⟩ := State.fetchBytes_local fresh (a := a + 4) (by omega) (by omega)
  have mem : t.mem = s.mem := by have h := congrArg State.mem same; exact h
  have leader : t.leader = s.leader := by have h := congrArg State.leader same; exact h
  have key : scratchKey s.leader.toNat (a + 4).toNat = scratchKey s.leader.toNat a.toNat + 4 := by
    rw [next]; exact (Nat.add_assoc ..).symm
  rw [mem, leader, key] at second
  unfold State.fetchAt
  rw [first]
  dsimp only
  split
  · rw [second]
    exact ⟨u, same'.trans same, congrArg (fun x => (u, Except.ok x)) (Memory.read_add s.mem _ 4 4).symm⟩
  · exact ⟨t, same, rfl⟩

end Sys2Proof.Machine
end

section
/-! SUPPORT. The parts of a core cycle (R17, R44, R48, R144). -/

namespace Sys2Proof.Machine

open Sys2Proof

/-- Contexts that are not ready are passed over. -/
theorem issueFrom_append {s : State} (l : List (Fin 11)) : ∀ {before : List (Fin 11)}, (∀ m ∈ before, s.readyAt m = false) →
    issueFrom s (before ++ l) = issueFrom s l
  | [], _ => rfl
  | m :: before, h => by
    rw [List.cons_append, issueFrom, h m (List.mem_cons_self ..), if_neg Bool.false_ne_true]
    exact issueFrom_append l fun x hx => h x (List.mem_cons_of_mem _ hx)

/-- The search order names every context once (R17). -/
theorem State.order_eq (s : State) (n : Fin 11) : s.order.filter (fun m => decide (m = n)) = [n] := by
  have all : ∀ last n : Fin 11, ((List.range 11).map fun i => Fin.ofNat 11 (last.val + 1 + i)).filter (fun m => decide (m = n)) = [n] := by decide
  exact all s.core.last n

/-- With nothing attended, nothing is served. -/
theorem State.filter_attends_none {s : State} (h : ∀ m, s.attends m = false) : s.order.filter s.attends = [] :=
  List.filter_eq_nil_iff.mpr fun m _ => by rw [h m]; exact Bool.false_ne_true

theorem State.filter_attends_one {s : State} {n : Fin 11} (h : ∀ m, s.attends m = decide (m = n)) : s.order.filter s.attends = [n] := by
  rw [show s.attends = fun m => decide (m = n) from funext h]
  exact s.order_eq n

theorem State.resume_ctx (s : State) (n : Fin 11) : (s.resume n).ctx = (s.ctxAt n).settle s.cycle := by
  rw [State.resume, State.ctx_modCtx]; rfl

/-- A context whose instruction waits tries it again (R17). -/
theorem State.attend_waiting {s : State} {n : Fin 11} {w : Wait} {i : Instr} (waits : (s.ctxAt n).wait = some w) (instr : w.instr = some i) :
    s.attend n = .run i (s.resume n) := by
  have wait : (s.resume n).ctx.wait = some w := by rw [State.resume_ctx, Ctx.settle_only]; exact waits
  unfold State.attend
  dsimp only
  rw [wait]
  dsimp only
  rw [instr]

theorem State.withGang_none {b : State} (h : b.gangStop = none) (v : State) : b.withGang v = v := by
  unfold State.withGang; rw [h]

/-- One context served, that waits in an instruction which no other member's trap stops. -/
theorem serve_one {x v : State} {n : Fin 11} {w : Wait} {i : Instr} (attends : x.attends n = true) (waits : (x.ctxAt n).wait = some w)
    (instr : w.instr = some i) (run : exec i (x.resume n) = .next v) (alone : (x.resume n).gangStop = none) :
    serve x [n] = .next (if stillWaits (x.resume n) v then x else v.keep i) := by
  rw [serve, attends, if_pos rfl, State.attend_waiting waits instr]
  dsimp only
  rw [run]
  dsimp only
  rw [serve_nil, State.withGang_none alone]
  simp only [alone, and_true]

/-- The first ready context begins to issue (R17): what it does takes no instruction, its instruction is stalled, or it issues. -/
theorem issueFrom_done {s t : State} {n : Fin 11} {before after : List (Fin 11)} (skip : ∀ m ∈ before, s.readyAt m = false) (ready : s.readyAt n = true)
    (selected : s.select n = .done t) : issueFrom s (before ++ n :: after) = .next (t.dropStop.endStep n) := by
  rw [issueFrom_append _ skip, issueFrom, ready, if_pos rfl, selected]

theorem issueFrom_run {s t u : State} {i : Instr} {n : Fin 11} {before after : List (Fin 11)} (skip : ∀ m ∈ before, s.readyAt m = false)
    (ready : s.readyAt n = true) (selected : s.select n = .run i t) (run : exec i t = .next u) :
    issueFrom s (before ++ n :: after) = if u.stalled then issueFrom s after else .next (((t.withGang u).keep i).count 1) := by
  rw [issueFrom_append _ skip, issueFrom, ready, if_pos rfl, selected]
  dsimp only
  rw [run]

theorem State.select_frame {s : State} {n : Fin 11} (frame : (s.begin n).ctx.frame ≠ []) : s.select n = .run (s.begin n).ctx.frameInstr (s.begin n) := by
  unfold State.select
  dsimp only
  rw [if_neg (by rw [List.isEmpty_iff]; exact frame)]

theorem State.select_fetch {s : State} {n : Fin 11} (frame : (s.begin n).ctx.frame = []) : s.select n = (s.begin n).fetchNext := by
  unfold State.select
  dsimp only
  rw [if_pos (by rw [frame]; rfl)]

/-- What a fetched word is (R43, R44). -/
theorem State.fetchNext_decoded {b f : State} {bs rest : List Byte} {i : Instr} (fetch : b.fetchAt b.ctx.pc = (f, .ok bs))
    (decode : decodeBytes bs = .ok (i, rest)) : b.fetchNext = .run i f := by
  unfold State.fetchNext State.pc
  rw [fetch]
  dsimp only
  rw [decode]

theorem State.fetchNext_undefined {b f : State} {bs : List Byte} {e : DecodeError} (fetch : b.fetchAt b.ctx.pc = (f, .ok bs))
    (decode : decodeBytes bs = .error e) : b.fetchNext = .run .undefinedInstruction f := by
  unfold State.fetchNext State.pc
  rw [fetch]
  dsimp only
  rw [decode]

theorem State.fetchNext_fault {b f : State} {x : AccessFault} (fetch : b.fetchAt b.ctx.pc = (f, .error x)) : b.fetchNext = .done (f.trapFetch x) := by
  unfold State.fetchNext State.pc
  rw [fetch]

/-- The end of a core cycle: what the contexts attended do, and the cycle's own counting. -/
def endsCycle (u : State) (o : Host.Outcome State Fault Refusal) : Host.Outcome State Fault Refusal :=
  match o with
  | .next t =>
    match serve t (u.order.filter u.attends) with
    | .next v => .next v.countCycle
    | o => o
  | o => o

theorem cycleStep_eq (c : State) : cycleStep c = endsCycle c.tick (issueFrom c.tick c.tick.order) := rfl

theorem endsCycle_none {u : State} (h : ∀ m, u.attends m = false) (x : State) : endsCycle u (.next x) = .next x.countCycle := by
  unfold endsCycle
  dsimp only
  rw [State.filter_attends_none h, serve_nil]

theorem endsCycle_one {u x v : State} {n : Fin 11} {w : Wait} {i : Instr} (only : ∀ m, u.attends m = decide (m = n)) (attends : x.attends n = true)
    (waits : (x.ctxAt n).wait = some w) (instr : w.instr = some i) (run : exec i (x.resume n) = .next v) (alone : (x.resume n).gangStop = none) :
    endsCycle u (.next x) = .next (if stillWaits (x.resume n) v then x else v.keep i).countCycle := by
  unfold endsCycle
  dsimp only
  rw [State.filter_attends_one only, serve_one attends waits instr run alone]

/-! ## The beginning of an instruction (R47, R48, R412) -/

theorem State.begin_job (s : State) (n : Fin 11) : (s.begin n).job = s.job.begins s.dev.devtime := rfl

theorem State.begin_ctx (s : State) (n : Fin 11) : (s.begin n).ctx = { (s.ctxAt n).settle s.cycle with parked := false } := by
  show ((s.resume n).modCtx fun c => { c with parked := false }).ctx = _
  rw [State.ctx_modCtx, State.resume_ctx]

end Sys2Proof.Machine
end

section
/-! PROOF. One step of the machine (R17, R33, R43, R44, R58, R144). -/

namespace Sys2Proof.Machine

open Sys2Proof

theorem eventStep_some {s : State} {k : Nat} {e : Instr} (h : s.agenda[k]? = some e) : eventStep s k = exec e { s with agenda := s.agenda.eraseIdx k } := by
  unfold eventStep; rw [h]

theorem eventStep_none {s : State} {k : Nat} (h : s.agenda[k]? = none) : eventStep s k = .next s := by
  unfold eventStep; rw [h]

/-- Settles O56: a step by its branches, a core cycle by the first ready context and what is served after it, and the fetch from the local window. -/
theorem stepsRunTheDecodedInstruction : Obligations.StepsRunTheDecodedInstruction := by
  unfold Obligations.StepsRunTheDecodedInstruction
  intro s on
  refine ⟨fun off free => ?_, fun up none_ e l agenda => ?_, fun up k ts turns => ⟨fun e at_ => ?_, fun at_ => ?_⟩, fun up ts turns throt => ?_,
    fun up y ts turns ne_event ne_issue ne_withheld => ?_, ?_, fun n => ?_, fun gang => by unfold State.leader; rw [gang],
    fun g gang => by unfold State.leader; rw [gang]; rfl, fun a aligned fits cold _ => State.fetchAt_local aligned fits cold⟩
  · unfold step
    rw [if_pos (not_not.mp off), if_neg free]
  · have event : step s = eventStep s 0 := by
      unfold step
      rw [if_neg up]
      simp only [none_, agenda]
    rw [event, eventStep_some (e := e) (by rw [agenda]; rfl), agenda]
    rfl
  · unfold step
    rw [if_neg up, turns]
    exact eventStep_some (s := { s with turns := ts }) at_
  · unfold step
    rw [if_neg up, turns]
    exact eventStep_none (s := { s with turns := ts }) at_
  · unfold step
    rw [if_neg up, turns]
    exact if_pos throt
  · unfold step
    rw [if_neg up, turns]
    cases y with
    | event k => exact absurd rfl (ne_event k)
    | issue => exact absurd rfl ne_issue
    | withheld => exact absurd rfl ne_withheld
    | _ => rfl
  · intro up c which u ends
    have cycle : step s = cycleStep c := by
      unfold step
      rw [if_neg up]
      rcases which with ⟨turns, agenda, rfl⟩ | ⟨ts, turns, rfl⟩ | ⟨ts, turns, full, rfl⟩
      · rw [turns, agenda]
      · rw [turns]
      · rw [turns]; exact if_neg (by rw [full]; exact Bool.false_ne_true)
    rw [cycleStep_eq] at cycle
    have ended : ∀ x, issueFrom u u.order = .next x → ends x := fun x issued => by
      have here : step s = endsCycle u (.next x) := cycle.trans (congrArg (endsCycle u) issued)
      exact ⟨fun idle => here.trans (endsCycle_none idle x), fun n w i v only attends waits instr run alone =>
        here.trans (endsCycle_one only attends waits instr run alone)⟩
    refine ⟨fun idle => ended u (issueFrom_of_not_ready u _ fun n _ => idle n), fun n before after order skip ready => ?_⟩
    intro b runs
    have ran : ∀ i f, u.select n = .run i f → runs i f := fun i f selected v run => by
      have issue := issueFrom_run (after := after) skip ready selected run
      rw [← order] at issue
      refine ⟨fun stalled rest => ended u ?_, fun issued alone => ended _ ?_, fun pos issued stop free => ended _ ?_, fun pos issued stop trap => ended _ ?_⟩
      · rw [issue, if_pos stalled, issueFrom_of_not_ready u after rest]
      · rw [issue, if_neg (by rw [issued]; exact Bool.false_ne_true), State.withGang_none alone]
      · rw [issue, if_neg (by rw [issued]; exact Bool.false_ne_true), State.withGang, stop]
        dsimp only
        rw [if_neg (by rw [free]; exact Bool.false_ne_true)]
      · rw [issue, if_neg (by rw [issued]; exact Bool.false_ne_true), State.withGang, stop]
        dsimp only
        rw [if_pos trap]
    refine ⟨fun frame f bs fetch => ⟨fun i rest decode => ⟨(decodeAndEncodeAgree.2 bs rest i decode).1, ran i f ?_⟩, fun e decode => ran _ f ?_⟩,
      fun frame f x fetch => ended _ ?_, fun frame => ran _ _ (State.select_frame frame)⟩
    · rw [State.select_fetch frame, State.fetchNext_decoded fetch decode]
    · rw [State.select_fetch frame, State.fetchNext_undefined fetch decode]
    · rw [order]
      exact issueFrom_done skip ready (by rw [State.select_fetch frame, State.fetchNext_fault fetch])
  · intro u
    refine ⟨rfl, rfl, rfl, fun first => ?_, fun later => ?_, fun none_ => ?_⟩
    · rw [State.begin_job, Job.begins, if_neg (by rw [show u.job.began = false from first]; exact Bool.false_ne_true)]
    · rw [State.begin_job, Job.begins, if_pos (show u.job.began = true from later)]
      rfl
    · have settled : (u.ctxAt n).settle u.cycle = s.ctxAt n := Ctx.settle_nil none_ u.cycle
      rw [State.begin_ctx, settled]
      exact ⟨rfl, fun r => Ctx.reg_congr rfl rfl rfl r⟩

end Sys2Proof.Machine
end

section
/-! SUPPORT. How every instruction of the opcode table comes to issue with the registers that it uses (R17, R49, R168). -/

namespace Sys2Proof.Machine

open Sys2Proof

/-- Every element that a stream has left is fetched and can be used. -/
def State.streamsFetched (s : State) : Prop :=
  ∀ q : BitVec 2, (s.stream q).ready ≤ s.cycle ∧ ∀ e < (s.stream q).remain, ((s.stream q).fetched? e).isSome = true

/-- The instruction reads `rs` and writes `ws`, and does `k` once it has issued; where a stream stalls it, it does nothing (R17). -/
def issuesAs (i : Instr) (rs ws : List Reg) (k : State → State) : Prop :=
  (∀ s : State, exec i s = .next s ∨ exec i s = .next (s.issue rs ws k)) ∧ ∀ s : State, s.streamsFetched → exec i s = .next (s.issue rs ws k)

theorem issuesAs.of_exec {i : Instr} {rs ws : List Reg} {k : State → State} (h : ∀ s, exec i s = .next (s.issue rs ws k)) : issuesAs i rs ws k :=
  ⟨fun s => .inr (h s), fun s _ => h s⟩

/-- Issuing hands on a state with the streams and the tables of the one before. -/
theorem State.issue_congr {s : State} {rs ws : List Reg} {k l : State → State}
    (h : ∀ u : State, u.core.streams = s.core.streams → u.core.tabs = s.core.tabs → k u = l u) : s.issue rs ws k = s.issue rs ws l := by
  have counted : (s.count 3).core.streams = s.core.streams ∧ (s.count 3).core.tabs = s.core.tabs := by
    rw [State.count_only]; exact ⟨rfl, rfl⟩
  unfold State.issue
  split
  · exact h s rfl rfl
  · split
    · exact h _ rfl rfl
    · split
      · rfl
      · exact h _ counted.1 counted.2

theorem State.fieldReads_congr {s u : State} (h : u.core.streams = s.core.streams) (skip : Nat) (f : Option VField) :
    u.fieldReads skip f = s.fieldReads skip f := by
  unfold State.fieldReads State.stream; rw [h]

theorem State.fieldWrites_congr {s u : State} (h : u.core.streams = s.core.streams) (f : Option VField) : u.fieldWrites f = s.fieldWrites f := by
  unfold State.fieldWrites State.stream; rw [h]

/-- A stream that has fetched what it has left stalls no field. -/
theorem State.fieldStalls_fetched {s : State} (h : s.streamsFetched) (skip : Nat) (f : Option VField) : s.fieldStalls skip f = false := by
  unfold State.fieldStalls
  split
  · next k _ n =>
    obtain ⟨ready, fetched⟩ := h k
    have all : (s.stream k).has skip n s.cycle = true := by
      unfold Stream.has
      rw [decide_eq_true ready, Bool.true_and, List.all_eq_true]
      intro i hi
      have lt : i < Nat.min n ((s.stream k).remain - skip) := List.mem_range.mp hi
      have le : Nat.min n ((s.stream k).remain - skip) ≤ (s.stream k).remain - skip := Nat.min_le_right ..
      exact fetched (skip + i) (by omega)
    rw [all]; rfl
  · rfl

/-- A vector instruction's fields, and what else it requires, allow it. -/
def State.vectorFits (s : State) (d a b : Option VField) (ok : Bool) : Bool :=
  s.fieldReads 0 a && s.fieldReads (skipOf a b) b && s.fieldWrites d && ok

/-- What a vector instruction does once it has issued. -/
def State.vectorDone (s : State) (sw : Bool) (x : Option VExt) (d a b : Option VField) (ok : Bool) (k : State → Vec → Vec → State) : State :=
  if s.vectorFits d a b ok then (k ((s.takeField a).1.takeField b).1 (s.takeField a).2 ((s.takeField a).1.takeField b).2).retire sw (extBytes x)
  else s.illegal

theorem State.vector_eq (s : State) (sw : Bool) (x : Option VExt) (rs ws : List Reg) (d a b : Option VField) (ok : Bool)
    (k : State → Vec → Vec → State) :
    s.vector sw x rs ws d a b ok k =
      if s.vectorFits d a b ok && (s.fieldStalls 0 a || s.fieldStalls (skipOf a b) b) then s
      else s.issue (fieldRegs a ++ fieldRegs b ++ rs) (ws ++ fieldRegs d) fun u =>
        if s.vectorFits d a b ok then (k ((u.takeField a).1.takeField b).1 (u.takeField a).2 ((u.takeField a).1.takeField b).2).retire sw (extBytes x)
        else u.illegal := rfl

/-- A vector instruction issues with the registers of its fields, and those it reads and writes besides. -/
theorem issuesAs.of_vector {i : Instr} {sw : Bool} {x : Option VExt} {rs ws : List Reg} {d a b : Option VField} {ok : State → Bool}
    {k : State → Vec → Vec → State} (h : ∀ s, exec i s = .next (s.vector sw x rs ws d a b (ok s) k))
    (tabs : ∀ s u : State, u.core.tabs = s.core.tabs → ok u = ok s) :
    issuesAs i (fieldRegs a ++ fieldRegs b ++ rs) (ws ++ fieldRegs d) fun u => u.vectorDone sw x d a b (ok u) k := by
  have same : ∀ s u : State, u.core.streams = s.core.streams → u.core.tabs = s.core.tabs → u.vectorFits d a b (ok u) = s.vectorFits d a b (ok s) :=
    fun s u hs ht => by
      unfold State.vectorFits
      rw [State.fieldReads_congr hs, State.fieldReads_congr hs, State.fieldWrites_congr hs, tabs s u ht]
  have issued : ∀ s : State, (s.issue (fieldRegs a ++ fieldRegs b ++ rs) (ws ++ fieldRegs d) fun u =>
      if s.vectorFits d a b (ok s) then (k ((u.takeField a).1.takeField b).1 (u.takeField a).2 ((u.takeField a).1.takeField b).2).retire sw (extBytes x)
      else u.illegal) = s.issue (fieldRegs a ++ fieldRegs b ++ rs) (ws ++ fieldRegs d) fun u => u.vectorDone sw x d a b (ok u) k := fun s =>
    State.issue_congr fun u hs ht => by unfold State.vectorDone; rw [same s u hs ht]
  constructor
  · intro s
    rw [h, State.vector_eq, issued]
    split
    · exact .inl rfl
    · exact .inr rfl
  · intro s fetched
    rw [h, State.vector_eq, issued, State.fieldStalls_fetched fetched, State.fieldStalls_fetched fetched, Bool.or_self, Bool.and_false,
      if_neg Bool.false_ne_true]

/-- The registers of a field that an instruction may have. -/
def opndRegs : Option VOpnd → List Reg
  | some o => o.regs
  | none => []

theorem fieldRegs_bind (o : Option VOpnd) (w : Nat) : fieldRegs (o.bind fun o => fullField o w) = opndRegs o := by cases o <;> rfl

/-- An instruction that takes its sources lane by lane issues with the registers of its fields, of its mask, and of its old lanes. -/
theorem issuesAs.of_lanewise {i : Instr} {sw : Bool} {x : Option VExt} {d : BitVec 5} {a b : Option VOpnd} {m : BitVec 3} {w lat : Nat} {acc : Bool}
    {f : Nat → Nat → Nat → Nat} {rs : List Reg} (h : ∀ s, exec i s = .next (s.lanewise sw x d a b m w lat acc f))
    (hr : opndRegs a ++ opndRegs b ++ (maskRegs m ++ oldRegs (opndD x d) (decide (m ≠ 0) || acc)) = rs) :
    ∃ k, issuesAs i rs (opndD x d).regs k := by
  have issues := issuesAs.of_vector (ok := fun _ => true) h fun _ _ _ => rfl
  rw [fieldRegs_bind, fieldRegs_bind, hr] at issues
  exact ⟨_, issues⟩

theorem issuesAs.of_vector_regs {i : Instr} {sw : Bool} {x : Option VExt} {rs ws rs' ws' : List Reg} {d a b : Option VField} {ok : State → Bool}
    {k : State → Vec → Vec → State} (h : ∀ s, exec i s = .next (s.vector sw x rs ws d a b (ok s) k))
    (tabs : ∀ s u : State, u.core.tabs = s.core.tabs → ok u = ok s) (hr : fieldRegs a ++ fieldRegs b ++ rs = rs') (hw : ws ++ fieldRegs d = ws') :
    ∃ k, issuesAs i rs' ws' k := by
  have issues := issuesAs.of_vector h tabs
  rw [hr, hw] at issues
  exact ⟨_, issues⟩

/-- An instruction with a scalar and a vector form issues with the registers of its form. -/
theorem issuesAs.of_forms {i : Instr} {v : Bool} {rs ws rs' ws' qs zs : List Reg} {k k' : State → State}
    (h : ∀ s, exec i s = .next (if v then s.issue rs ws k else s.issue rs' ws' k')) (uses : some (if v then (rs, ws) else (rs', ws')) = some (qs, zs)) :
    ∃ k, issuesAs i qs zs k := by
  cases v
  · cases uses
    exact ⟨k', issuesAs.of_exec h⟩
  · cases uses
    exact ⟨k, issuesAs.of_exec h⟩

/-- Every instruction of `usesOf` issues with the registers that stand there. -/
theorem usesOf_issuesAs {i : Instr} {rs ws : List Reg} (h : usesOf i = some (rs, ws)) : ∃ k, issuesAs i rs ws k := by
  cases i
  case vadd => cases h; exact issuesAs.of_lanewise (fun _ => rfl) (by simp [opndRegs])
  case vsub => cases h; exact issuesAs.of_lanewise (fun _ => rfl) (by simp [opndRegs])
  case vmul => cases h; exact issuesAs.of_lanewise (fun _ => rfl) (by simp [opndRegs])
  case vfma => cases h; exact issuesAs.of_lanewise (fun _ => rfl) (by simp [opndRegs])
  case vmin => cases h; exact issuesAs.of_lanewise (fun _ => rfl) (by simp [opndRegs])
  case vmax => cases h; exact issuesAs.of_lanewise (fun _ => rfl) (by simp [opndRegs])
  case vabs => cases h; exact issuesAs.of_lanewise (fun _ => rfl) (by simp [opndRegs])
  case vand => cases h; exact issuesAs.of_lanewise (fun _ => rfl) (by simp [opndRegs])
  case vor => cases h; exact issuesAs.of_lanewise (fun _ => rfl) (by simp [opndRegs])
  case vxor => cases h; exact issuesAs.of_lanewise (fun _ => rfl) (by simp [opndRegs])
  case vshl => cases h; exact issuesAs.of_lanewise (fun _ => rfl) (by simp [opndRegs])
  case vshr => cases h; exact issuesAs.of_lanewise (fun _ => rfl) (by simp [opndRegs])
  case vrcp => cases h; exact issuesAs.of_lanewise (fun _ => rfl) (by simp [opndRegs])
  case vrsq => cases h; exact issuesAs.of_lanewise (fun _ => rfl) (by simp [opndRegs])
  case vcmp => cases h; exact issuesAs.of_vector_regs (ok := fun _ => true) (fun _ => rfl) (fun _ _ _ => rfl) rfl rfl
  case vsel => cases h; exact issuesAs.of_vector_regs (ok := fun _ => true) (fun _ => rfl) (fun _ _ _ => rfl) rfl rfl
  case vshuf f _ =>
    cases h
    refine issuesAs.of_vector_regs (ok := fun _ => true) (fun _ => rfl) (fun _ _ _ => rfl) ?_ rfl
    rw [List.append_nil]
    cases f.usesB <;> rfl
  case vperm => cases h; exact issuesAs.of_vector_regs (ok := fun _ => true) (fun _ => rfl) (fun _ _ _ => rfl) (List.append_assoc ..).symm rfl
  case vbcast => cases h; exact issuesAs.of_vector_regs (ok := fun _ => true) (fun _ => rfl) (fun _ _ _ => rfl) rfl rfl
  case vred => cases h; exact issuesAs.of_vector_regs (ok := fun _ => true) (fun _ => rfl) (fun _ _ _ => rfl) (by simp [fieldRegs, fullField]) rfl
  case vcvt => cases h; exact issuesAs.of_vector_regs (ok := fun _ => true) (fun _ => rfl) (fun _ _ _ => rfl) (by simp [fieldRegs]) rfl
  case vmovxExtract => cases h; exact issuesAs.of_vector_regs (ok := fun _ => true) (fun _ => rfl) (fun _ _ _ => rfl) (by simp [fieldRegs, fullField]) rfl
  case vmovxInsert => cases h; exact issuesAs.of_vector_regs (ok := fun _ => true) (fun _ => rfl) (fun _ _ _ => rfl) rfl rfl
  case vinterp n _ _ =>
    cases h
    exact issuesAs.of_vector_regs (ok := fun s => (s.core.tabs.get n.toFin).isSome) (fun _ => rfl) (fun _ _ e => by rw [e]) (by simp [fieldRegs, fullField]) rfl
  case phins => exact issuesAs.of_forms (fun _ => rfl) h
  case phprb => exact issuesAs.of_forms (fun _ => rfl) h
  case phdel => exact issuesAs.of_forms (fun _ => rfl) h
  case phacc => exact issuesAs.of_forms (fun _ => rfl) h
  case psend => exact issuesAs.of_forms (fun _ => rfl) h
  -- No event has an entry, and every other instruction hands its registers to `issue` as the table lists them.
  all_goals cases h
  all_goals exact ⟨_, issuesAs.of_exec fun _ => rfl⟩

end Sys2Proof.Machine
end

section
/-! PROOF. Hazards (R49, R140, R151, R420). -/

namespace Sys2Proof.Machine

open Sys2Proof

theorem Ctx.hazard_none {c : Ctx} {rs : List Reg} (h : ∀ r ∈ rs, ∀ w ∈ c.writes, w.reg = r → w.due.isSome = true ∧ w.late = false) :
    c.hazard rs = none := by
  unfold Ctx.hazard
  refine List.find?_eq_none.mpr fun r hr => ?_
  rw [Bool.not_eq_true, List.any_eq_false]
  intro w hw
  rw [Bool.not_eq_true, Bool.and_eq_false_iff]
  by_cases e : w.reg = r
  · obtain ⟨due, late⟩ := h r hr w hw e
    exact .inr (by rw [late, Bool.or_false, Option.isNone_eq_false_iff]; exact due)
  · exact .inl (decide_eq_false e)

theorem Ctx.hazard_some {c : Ctx} {rs : List Reg} {w : PendingWrite} (out : w ∈ c.writes) (late : w.due = none ∨ w.late = true) (uses : w.reg ∈ rs) :
    ∃ y ∈ c.writes, y.reg ∈ rs ∧ c.hazard rs = some y.reg := by
  cases e : c.hazard rs with
  | none =>
    have := List.find?_eq_none.mp e w.reg uses
    rw [Bool.not_eq_true, List.any_eq_false] at this
    refine absurd ?_ (this w out)
    rw [decide_eq_true rfl, Bool.true_and, Bool.or_eq_true]
    exact late.imp_left fun d => by rw [d]; rfl
  | some r =>
    have found := List.find?_some e
    obtain ⟨y, hy, meets⟩ := List.any_eq_true.mp found
    have reg : y.reg = r := of_decide_eq_true (Bool.and_eq_true_iff.mp meets).1
    exact ⟨y, hy, reg ▸ List.mem_of_find?_eq_some e, by rw [reg]⟩

/-- With no write due, a trap that is raised while one is outstanding is kept (R140). -/
theorem State.takeTrap_outstanding {s : State} (t : TrapInfo) (undue : ∀ y ∈ s.ctx.writes, y.due = none) {w : PendingWrite} (out : w ∈ s.ctx.writes) :
    s.takeTrap t = s.setCtx { s.ctx with trapping := some t, wait := none, nextIssue := s.cycle + 1 } := by
  have settled : s.ctx.settle s.cycle = s.ctx := Ctx.performAll_none (fun u hu => by rw [undue u hu]) _
  have some_ : s.ctx.writes.isEmpty = false := by
    cases e : s.ctx.writes with
    | nil => rw [e] at out; exact absurd out List.not_mem_nil
    | cons x xs => rfl
  unfold State.takeTrap
  dsimp only
  rw [settled, some_]
  rfl

/-- What a hazard trap that is kept leaves. -/
theorem State.count_trapHere_kept {s : State} {ev : BitVec 8} (cause : BitVec 8) (detail : BitVec 32) (caddr : Word)
    (undue : ∀ y ∈ s.ctx.writes, y.due = none) {w : PendingWrite} (out : w ∈ s.ctx.writes) :
    (s.count ev).trapHere cause detail caddr =
      (s.count ev).setCtx { s.ctx with trapping := some (TrapInfo.at s.ctx.pc cause detail caddr), wait := none, nextIssue := s.cycle + 1 } := by
  have ctx : (s.count ev).ctx = s.ctx := (s.count_sought ev).ctx
  have kept := State.takeTrap_outstanding (s := s.count ev) (TrapInfo.at s.ctx.pc cause detail caddr) (ctx ▸ undue) (ctx ▸ out)
  rw [ctx, State.count_cycle] at kept
  rw [← kept, State.trapHere, State.pc, ctx]
  rfl

/-- A trap that a context has kept is taken in a cycle by which its writes have been performed (R140). -/
theorem State.attends_settled {s : State} {c : Fin 11} {tr : TrapInfo} (trapping : (s.ctxAt c).trapping = some tr) (attends : s.attends c = true) :
    ∀ y ∈ (s.ctxAt c).writes, ∃ d, y.due = some d ∧ d ≤ s.cycle := by
  have unparked : s.unparked (s.ctxAt c) = true := by
    simp only [State.attends, State.mayGo, Bool.and_eq_true] at attends
    tauto
  have settled : (s.ctxAt c).settled s.cycle = true := by
    simp only [State.unparked, trapping, Option.isSome_some, Bool.or_true, Bool.not_true, Bool.false_or, Bool.and_eq_true] at unparked
    exact unparked.1
  intro y hy
  have due := List.all_eq_true.mp settled y hy
  cases e : y.due with
  | none => simp only [e, Bool.false_eq_true] at due
  | some d => simp only [e, decide_eq_true_eq] at due; exact ⟨d, rfl, due⟩

theorem State.raise_cur {s : State} (h : s.ctx.trappable) (t : TrapInfo) : (s.raise t).cur = s.cur := by
  have cur := s.logTrap_cur t
  rw [State.raise, State.takeTrap_trappable (by rw [State.logTrap_ctx]; exact h)]
  split
  · rw [State.trace_only]; exact cur
  · exact cur

/-- A kept trap is entered once nothing is outstanding. -/
theorem State.attend_enters {s : State} {c : Fin 11} {tr : TrapInfo} (trapping : (s.ctxAt c).trapping = some tr) (none_ : (s.ctxAt c).writes = [])
    (wait : (s.ctxAt c).wait = none) (out : (s.ctxAt c).inTrap = false) :
    ∃ t, s.attend c = .done t ∧ t.cur = c ∧ (s.ctxAt c).entered t.ctx tr s.job.trapvec := by
  have ctx : (s.resume c).ctx = s.ctxAt c := by rw [State.resume_ctx, Ctx.settle_nil none_]
  have ctx' : ((s.resume c).modCtx fun c => { c with trapping := none }).ctx = { s.ctxAt c with trapping := none } := by rw [State.ctx_modCtx, ctx]
  have trappable : ((s.resume c).modCtx fun c => { c with trapping := none }).ctx.trappable := by rw [ctx']; exact ⟨out, none_⟩
  have entered := State.raise_entered trappable tr
  rw [ctx'] at entered
  refine ⟨_, ?_, (State.raise_cur trappable tr).trans rfl, { entered with regs := fun r => (entered.regs r).trans (Ctx.reg_congr rfl rfl rfl r) }⟩
  unfold State.attend State.dueTrap
  simp only [ctx, wait, trapping]

/-- An ADD that meets a hazard with CHK = 0 sets HAZ, and adds what the registers hold (R49). -/
theorem add_hazard {s : State} (sw : Bool) {d a b : BitVec 5} (t : IntTy) (v : Variant) {w : PendingWrite} (out : w ∈ s.ctx.writes) (due : w.due = none)
    (uses : w.reg = .x a ∨ w.reg = .x b ∨ w.reg = .x d) (wait : s.ctx.wait = none) (chk : s.ctx.chk = false) (hd : d ≠ 0) :
    ∃ r, exec (.add sw d a b t v) s = .next r ∧ r.ctx.haz = true ∧
      r.ctx.reg (.x d) = wide (typedWord t v (extWord t (s.readX a) + extWord t (s.readX b))) ∧ ∀ q, q ≠ .x d → r.ctx.reg q = s.ctx.reg q := by
  obtain ⟨y, _, _, hazard⟩ := Ctx.hazard_some (rs := [.x a, .x b] ++ [.x d]) out (.inl due) (by simpa using uses)
  have haz := State.issue_haz wait hazard chk fun u =>
    (u.writeX d (typedWord t v (extWord t (u.readX a) + extWord t (u.readX b))) 1).retire sw 4
  set m := (s.count 3).modCtx fun c => { c with haz := true, inTaint := c.taintOf (([.x a, .x b] : List Reg).map .reg) } with hm
  have ctx : m.ctx = { s.ctx with haz := true, inTaint := s.ctx.taintOf (([.x a, .x b] : List Reg).map .reg) } := by
    rw [hm, State.ctx_modCtx, (s.count_sought 3).ctx]
  have read : ∀ r, m.readX r = s.readX r := fun r => by
    have idle : m.ctx.wait = none := by rw [ctx]; exact wait
    rw [State.readX, State.readX, Ctx.operands_ready idle, Ctx.operands_ready wait, ctx]
    rfl
  rw [read, read] at haz
  generalize typedWord t v (extWord t (s.readX a) + extWord t (s.readX b)) = val at haz
  have lands := m.write_lands (.x d) (wide val) 1 (Reg.fits_wide _ _)
  have same := (m.write (.x d) (wide val) 1).retireAfter_sameRegs sw 4 1
  have nonzero : Reg.x d ≠ .x 0 := fun e => hd (Reg.x.inj e)
  have reg : ∀ q, m.ctx.reg q = s.ctx.reg q := fun q => by rw [ctx]; exact Ctx.reg_congr rfl rfl rfl q
  refine ⟨_, congrArg Host.Outcome.next haz, ?_, (same.1 _).trans (lands.now nonzero (Nat.le_refl 1)).1, fun q hq =>
    (same.1 q).trans ((lands.others q (.inl hq)).trans (reg q))⟩
  show ((m.write (.x d) (wide val) 1).retireAfter sw 4 1).ctx.haz = true
  rw [State.retireAfter_ctx, Ctx.sequential_only, State.write_ctx, Ctx.write_only, ctx]

/-- Settles O55: an instruction of `usesOf` issues with its registers, and `issue` finds the hazard, sets HAZ, or traps. -/
theorem hazardsSetHazOrTrap : Obligations.HazardsSetHazOrTrap := by
  unfold Obligations.HazardsSetHazOrTrap
  refine ⟨fun i rs ws uses => ?_, fun sw d c => ⟨fun v s => (s.writeX d (v.setWidth 64) 2).retire sw 4, fun _ => rfl⟩,
    fun s => ⟨fun c tr trapping attends => ⟨State.attends_settled trapping attends, State.attend_enters trapping⟩,
      fun sw d a b t v w out due used wait chk hd _ => add_hazard sw t v out due used wait chk hd⟩⟩
  obtain ⟨k, either, issues⟩ := usesOf_issuesAs uses
  refine ⟨k, either, fun s fetched => ⟨fun wait => ?_, fun wait free => ?_, fun w wait out late used => ?_⟩⟩
  · rw [issues s fetched, State.issue, if_pos wait]
  · rw [issues s fetched, State.issue_ready ⟨wait, Ctx.hazard_none free⟩]
  · obtain ⟨y, hy, reg, hazard⟩ := Ctx.hazard_some out late used
    refine ⟨fun chk => by rw [issues s fetched, State.issue_haz wait hazard chk], fun chk undue => ?_⟩
    have kept := State.count_trapHere_kept (ev := 3) 0x09 y.reg.detail 0 undue out
    refine ⟨_, by rw [issues s fetched, State.issue_trap wait hazard chk, kept], ⟨y, hy, reg, by rw [State.ctx_setCtx]⟩, ?_⟩
    have only := s.count_only 3
    rw [State.ctx_setCtx]
    exact ⟨rfl, rfl, fun q => Ctx.reg_congr rfl rfl rfl q, rfl, s.count_mem 3, s.count_accs 3, rfl, (s.count_sought 3).bar, (s.count_sought 3).clu,
      s.count_dev 3, s.count_job 3⟩

end Sys2Proof.Machine
end

section
/-! SUPPORT. Lanes, and what a vector instruction without streams gives (R165, R166). -/

namespace Sys2Proof.Machine

/-! ## Lanes (R2) -/

theorem packNat_lt (w : Nat) (f : Nat → Nat) : ∀ n, packNat w f n < 2 ^ (w * n)
  | 0 => by simp [packNat]
  | n + 1 => by
    have low := packNat_lt w f n
    have top : f n % 2 ^ w * 2 ^ (w * n) ≤ (2 ^ w - 1) * 2 ^ (w * n) :=
      Nat.mul_le_mul_right _ (Nat.le_sub_one_of_lt (Nat.mod_lt _ (Nat.two_pow_pos w)))
    have all : (2 ^ w - 1) * 2 ^ (w * n) + 2 ^ (w * n) = 2 ^ (w * (n + 1)) := by
      rw [← Nat.succ_mul, Nat.succ_eq_add_one, Nat.sub_add_cancel Nat.one_le_two_pow, ← pow_add, Nat.mul_succ, Nat.add_comm]
    rw [packNat]
    omega

/-- A packed number's places are what was packed. -/
theorem packNat_place (w : Nat) (f : Nat → Nat) {i : Nat} : ∀ {n : Nat}, i < n → packNat w f n / 2 ^ (w * i) % 2 ^ w = f i % 2 ^ w
  | n + 1, h => by
    rw [packNat]
    rcases Nat.lt_succ_iff_lt_or_eq.1 h with less | rfl
    · have apart : w * n = w * i + w * (n - i) := by rw [← Nat.mul_add, Nat.add_sub_cancel' less.le]
      have above : w * (n - i) = w + w * (n - i - 1) := by
        rw [Nat.add_comm, ← Nat.mul_succ, Nat.succ_eq_add_one, Nat.sub_add_cancel (Nat.sub_pos_of_lt less)]
      rw [apart, pow_add, Nat.mul_left_comm, Nat.add_mul_div_left _ _ (Nat.two_pow_pos _), above, pow_add, Nat.mul_left_comm, Nat.add_mul_mod_self_left,
        packNat_place w f less]
    · rw [Nat.add_mul_div_right _ _ (Nat.two_pow_pos _), Nat.div_eq_of_lt (packNat_lt w f i), Nat.zero_add, Nat.mod_mod]

theorem lane_ofLanes {w n : Nat} (fits : w * n ≤ 512) (f : Nat → Nat) {i : Nat} (h : i < n) : lane (ofLanes w n f) w i = f i % 2 ^ w := by
  have whole : packNat w f n < 2 ^ 512 := (packNat_lt w f n).trans_le (Nat.pow_le_pow_right two_pos fits)
  unfold lane ofLanes
  rw [BitVec.toNat_ofNat, Nat.mod_eq_of_lt whole, packNat_place w f h]

theorem lane_lt (v : Vec) (w i : Nat) : lane v w i < 2 ^ w := Nat.mod_lt _ (Nat.two_pow_pos w)

@[simp] theorem lane_mod (v : Vec) (w i : Nat) : lane v w i % 2 ^ w = lane v w i := Nat.mod_mod _ _

theorem packNat_lane (v : Vec) (w : Nat) : ∀ n, packNat w (lane v w) n = v.toNat % 2 ^ (w * n)
  | 0 => by simp [packNat, Nat.mod_one]
  | n + 1 => by
    rw [packNat, packNat_lane v w n, lane_mod, Nat.mul_succ, pow_add, Nat.mod_mul, lane, Nat.mul_comm (v.toNat / _ % _)]

/-- A vector is made of its lanes. -/
theorem ofLanes_lane {w n : Nat} (whole : w * n = 512) (v : Vec) : ofLanes w n (lane v w) = v := by
  rw [ofLanes, packNat_lane, whole, Nat.mod_eq_of_lt v.isLt, BitVec.ofNat_toNat, BitVec.setWidth_eq]

theorem lanes_fit (w : Nat) : w * (512 / w) ≤ 512 := Nat.mul_div_le 512 w

theorem lane_blend {w n : Nat} (fits : w * n ≤ 512) (active : Nat → Bool) (old new : Vec) {i : Nat} (h : i < n) :
    lane (blend w n active old new) w i = if active i = true then lane new w i else lane old w i := by
  unfold blend
  rw [lane_ofLanes fits _ h]
  split <;> exact lane_mod _ _ _

theorem State.maskAt_iff (s : State) (m : BitVec 3) (i : Nat) : s.maskAt m i = true ↔ m = 0 ∨ (s.readP m).getLsbD i = true := by
  simp [State.maskAt]

theorem State.maskAt_inTaint (s : State) (f : Ctx → List Nat) (m : BitVec 3) :
    (s.modCtx fun c => { c with inTaint := f c }).maskAt m = s.maskAt m := by
  funext i; unfold State.maskAt; rw [State.readP_inTaint]

theorem mem_maskRegs {m : BitVec 3} {r : Reg} (h : r ∈ maskRegs m) : r = .p m := by
  unfold maskRegs at h
  split at h
  · cases h
  · exact List.mem_singleton.1 h

theorem mem_oldRegs {d : BitVec 5} {c : Bool} {r : Reg} (h : r ∈ oldRegs (.reg d) c) : r = .v d := by
  unfold oldRegs at h
  split at h
  · exact List.mem_singleton.1 h
  · cases h

/-- The registers of a masked instruction beside those of its sources. -/
theorem mem_masked {m : BitVec 3} {d : BitVec 5} {c : Bool} {r : Reg} (h : r ∈ maskRegs m ++ oldRegs (.reg d) c) : r = .p m ∨ r = .v d :=
  (List.mem_append.1 h).imp mem_maskRegs mem_oldRegs

/-! ## Fields that name registers (R165, R167) -/

/-- The prefix names no stream. -/
def noStreams (x : Option VExt) : Prop := ∀ e, x = some e → e.ds = false ∧ e.as = false ∧ e.bs = false

theorem opndD_reg {x : Option VExt} (h : noStreams x) (r : BitVec 5) : opndD x r = .reg r := by
  cases x with
  | none => rfl
  | some e => simp [opndD, (h e rfl).1]

theorem opndA_reg {x : Option VExt} (h : noStreams x) (r : BitVec 5) : opndA x r = .reg r := by
  cases x with
  | none => rfl
  | some e => simp [opndA, (h e rfl).2.1]

theorem opndB_reg {x : Option VExt} (h : noStreams x) (r : BitVec 5) : opndB x r = .reg r := by
  cases x with
  | none => rfl
  | some e => simp [opndB, (h e rfl).2.2]

/-- A field of a register. -/
def regField (r : BitVec 5) (w n : Nat) : VField := { opnd := .reg r, w, n }

/-- The field is not one of a stream. -/
def plainField (f : Option VField) : Prop := f = none ∨ ∃ r w n, f = some (regField r w n)

/-- What a field that names no stream reads. -/
def State.fieldV (s : State) (f : Option VField) : Vec := (s.takeField f).2

theorem plainField_none : plainField none := .inl rfl

theorem plainField_full (r : BitVec 5) (w : Nat) : plainField (fullField (.reg r) w) := .inr ⟨r, w, 512 / w, rfl⟩

@[simp] theorem State.fieldV_none (s : State) : s.fieldV none = 0 := rfl

@[simp] theorem State.fieldV_full (s : State) (r : BitVec 5) (w : Nat) : s.fieldV (fullField (.reg r) w) = s.readV r := rfl

theorem plainField.take {f : Option VField} (h : plainField f) (s : State) : s.takeField f = (s, s.fieldV f) := by
  obtain rfl | ⟨r, w, n, rfl⟩ := h <;> rfl

theorem plainField.reads {f : Option VField} (h : plainField f) (s : State) (skip : Nat) : s.fieldReads skip f = true := by
  obtain rfl | ⟨r, w, n, rfl⟩ := h <;> rfl

theorem plainField.writes {f : Option VField} (h : plainField f) (s : State) : s.fieldWrites f = true := by
  obtain rfl | ⟨r, w, n, rfl⟩ := h <;> rfl

theorem plainField.stalls {f : Option VField} (h : plainField f) (s : State) (skip : Nat) : s.fieldStalls skip f = false := by
  obtain rfl | ⟨r, w, n, rfl⟩ := h <;> rfl

theorem plainField.inTaint {f : Option VField} (h : plainField f) (s : State) (g : Ctx → List Nat) :
    (s.modCtx fun c => { c with inTaint := g c }).fieldV f = s.fieldV f := by
  obtain rfl | ⟨r, w, n, rfl⟩ := h
  · rfl
  · exact s.readV_inTaint g r

/-- A vector instruction without streams gives what its body writes. -/
theorem State.vector_gives {s : State} {i : Instr} {sw : Bool} {x : Option VExt} {rs ws : List Reg} {d a b : Option VField} {ok : Bool}
    {k : State → Vec → Vec → State} {r : Reg} {lat : Nat} (v : State → Vec → Vec → Vec) {qs : List Reg}
    (h : exec i s = .next (s.vector sw x rs ws d a b ok k)) (hok : ok = true) (hd : plainField d) (ha : plainField a) (hb : plainField b)
    (hk : ∀ u va vb, k u va vb = u.write r (v u va vb) lat)
    (hv : ∀ (f : Ctx → List Nat) (va vb : Vec), v (s.modCtx fun c => { c with inTaint := f c }) va vb = v s va vb)
    (hf : r.fits (v s (s.fieldV a) (s.fieldV b))) (hr : ∀ q ∈ fieldRegs a ++ fieldRegs b ++ rs ++ (ws ++ fieldRegs d), q ∈ qs) :
    s.gives i qs sw (extBytes x) r (v s (s.fieldV a) (s.fieldV b)) lat := by
  have body : exec i s = .next (s.issue (fieldRegs a ++ fieldRegs b ++ rs) (ws ++ fieldRegs d) fun u =>
      (u.write r (v u (u.fieldV a) (u.fieldV b)) lat).retire sw (extBytes x)) := by
    have fits : s.vectorFits d a b ok = true := by simp [State.vectorFits, ha.reads, hb.reads, hd.writes, hok]
    rw [h, State.vector_eq, fits, ha.stalls, hb.stalls]
    simp only [Bool.or_self, Bool.and_false, Bool.false_eq_true, if_false, if_true, ha.take, hb.take, hk]
  exact fun ready => State.issue_gives _ _ (fun u => v u (u.fieldV a) (u.fieldV b)) body
    (fun f => by simp only [ha.inTaint, hb.inTaint, hv]) hf (ready.mono hr)

/-- The lanes that an instruction which works lane by lane leaves in vD. -/
def State.lanesOf (s : State) (d a : BitVec 5) (b : Option (BitVec 5)) (m : BitVec 3) (w : Nat) (f : Nat → Nat → Nat → Nat) : Vec :=
  blend w (512 / w) (s.maskAt m) (s.readV d)
    (ofLanes w (512 / w) fun i => f (lane (s.readV d) w i) (lane (s.readV a) w i) (lane (b.elim 0 s.readV) w i))

theorem State.lane_lanesOf (s : State) (d a : BitVec 5) (b : Option (BitVec 5)) (m : BitVec 3) {w i : Nat} (f : Nat → Nat → Nat → Nat) (h : i < 512 / w) :
    lane (s.lanesOf d a b m w f) w i =
      if m = 0 ∨ (s.readP m).getLsbD i = true then f (lane (s.readV d) w i) (lane (s.readV a) w i) (lane (b.elim 0 s.readV) w i) % 2 ^ w
      else lane (s.readV d) w i := by
  unfold State.lanesOf
  rw [lane_blend (lanes_fit w) _ _ _ h, lane_ofLanes (lanes_fit w) _ h]
  simp only [State.maskAt_iff]

/-- An instruction that works lane by lane, without streams. -/
theorem State.lanewise_gives {s : State} {i : Instr} {sw : Bool} {x : Option VExt} {d a : BitVec 5} {b : Option (BitVec 5)} {m : BitVec 3} {w lat : Nat}
    {acc : Bool} {f : Nat → Nat → Nat → Nat} {qs : List Reg} (hx : noStreams x)
    (h : exec i s = .next (s.lanewise sw x d (some (opndA x a)) (b.map (opndB x)) m w lat acc f))
    (hr : ∀ q, q = .v a ∨ (∃ e, b = some e ∧ q = .v e) ∨ q = .p m ∨ q = .v d → q ∈ qs) :
    s.gives i qs sw (extBytes x) (.v d) (s.lanesOf d a b m w f) lat := by
  have fieldB : ((b.map (opndB x)).bind fun o => fullField o w) = b.bind fun e => fullField (.reg e) w := by
    cases b with
    | none => rfl
    | some e => simp [opndB_reg hx]
  have plainB : plainField (b.bind fun e => fullField (.reg e) w) := by
    cases b with
    | none => exact plainField_none
    | some e => exact plainField_full e w
  have valueB : s.fieldV (b.bind fun e => fullField (.reg e) w) = b.elim 0 s.readV := by cases b <;> rfl
  unfold State.lanewise at h
  rw [opndD_reg hx, opndA_reg hx, fieldB] at h
  have gives := State.vector_gives (qs := qs) (r := .v d) (lat := lat)
    (fun u va vb => blend w (512 / w) (u.maskAt m) (u.readV d)
      (ofLanes w (512 / w) fun i => f (lane (u.readV d) w i) (lane va w i) (lane vb w i)))
    h rfl (plainField_full d w) (plainField_full a w) plainB (fun _ _ _ => rfl)
    (fun g va vb => by simp only [State.maskAt_inTaint, State.readV_inTaint]) trivial ?_
  · rw [valueB] at gives
    exact gives
  · intro q hq
    apply hr
    rw [List.mem_append, List.mem_append, List.mem_append] at hq
    rcases hq with ((ha | hb) | hm) | hd
    · exact .inl (List.mem_singleton.1 ha)
    · cases b with
      | none => cases hb
      | some e => exact .inr (.inl ⟨e, rfl, List.mem_singleton.1 hb⟩)
    · exact .inr (.inr (mem_masked hm))
    · exact .inr (.inr (.inr (List.mem_singleton.1 hd)))

end Sys2Proof.Machine
end

section
/-! PROOF. O19: the integer lanes (R172). -/

namespace Sys2Proof.Machine

open Sys2Proof

theorem minInt_eq (a b : Int) : minInt a b = min a b := rfl

theorem maxInt_eq (a b : Int) : maxInt a b = max a b := by unfold maxInt; split <;> omega

theorem satOf_eq (x : Option VExt) : satOf x = if x.any (·.sat) then .sat else .wrap := by cases x <;> rfl

/-- The bits of a lane, as the number that a remainder is. -/
theorem toNat_emod_mod (y : Int) (w : Nat) : (y % (2 : Int) ^ w).toNat % 2 ^ w = (y % (2 : Int) ^ w).toNat := by
  have pos : (0 : Int) < 2 ^ w := by positivity
  refine Nat.mod_eq_of_lt ((Int.toNat_lt (Int.emod_nonneg y pos.ne')).2 ?_)
  push_cast
  exact Int.emod_lt_of_pos y pos

theorem toNat_cast_emod (k w : Nat) : (((k : Int)) % (2 : Int) ^ w).toNat = k % 2 ^ w := by
  rw [show (2 : Int) ^ w = ((2 ^ w : Nat) : Int) by push_cast; rfl, ← Int.natCast_mod, Int.toNat_natCast]

theorem intLane_mod (t : IntTy) (v : Variant) (y : Int) : intLane t v y % 2 ^ t.width = (narrowInt t v y % (2 : Int) ^ t.width).toNat :=
  toNat_emod_mod _ _

/-- A number of the type wraps to itself. -/
theorem narrowInt_wrap_emod (t : IntTy) (y : Int) : narrowInt t .wrap y % (2 : Int) ^ t.width = y % (2 : Int) ^ t.width := by
  have pos : (0 : Int) < 2 ^ t.width := by positivity
  have same : (extInt t (y % (2 : Int) ^ t.width).toNat - (y % (2 : Int) ^ t.width).toNat) % (2 : Int) ^ t.width = 0 := extInt_emod t _
  rw [Int.toNat_of_nonneg (Int.emod_nonneg y pos.ne')] at same
  rw [narrowInt, Int.emod_eq_emod_iff_emod_sub_eq_zero.2 same, Int.emod_emod_of_dvd _ dvd_rfl]

theorem intLane_wrap_mod (t : IntTy) (y : Int) : intLane t .wrap y % 2 ^ t.width = (y % (2 : Int) ^ t.width).toNat := by
  rw [intLane_mod, narrowInt_wrap_emod]


/-- Settles O19: the instructions work lane by lane, and the remainder of a lane's number is what the lane keeps. -/
theorem vectorIntegerLanesGiveTheirResult : Obligations.VectorIntegerLanesGiveTheirResult := by
  unfold Obligations.VectorIntegerLanesGiveTheirResult
  intro s sw d a b t m x hx w size v A B lanes
  have variant : satOf x = v := satOf_eq x
  have two {j : Instr} {lat : Nat} {g : Nat → Nat → Nat} {f : Nat → Int}
      (h : exec j s = .next (s.lanewise sw x d (some (opndA x a)) (some (opndB x b)) m w lat false fun _ => g))
      (hf : ∀ i, g (A i) (B i) % 2 ^ w = (f i % (2 : Int) ^ w).toNat) : lanes j lat f :=
    ⟨s.lanesOf d a (some b) m w fun _ => g, fun i hi => by rw [State.lane_lanesOf _ _ _ _ _ _ hi, ← hf i]; rfl,
      State.lanewise_gives (b := some b) hx h (by simp)⟩
  have one {j : Instr} {lat : Nat} {g : Nat → Nat} {f : Nat → Int}
      (h : exec j s = .next (s.lanewise sw x d (some (opndA x a)) none m w lat false fun _ p _ => g p))
      (hf : ∀ i, g (A i) % 2 ^ w = (f i % (2 : Int) ^ w).toNat) : lanes j lat f :=
    ⟨s.lanesOf d a none m w fun _ p _ => g p, fun i hi => by rw [State.lane_lanesOf _ _ _ _ _ _ hi, ← hf i],
      State.lanewise_gives (b := none) hx h (by simp)⟩
  refine ⟨two rfl fun i => ?_, two rfl fun i => ?_, two rfl fun i => ?_, one rfl fun i => ?_, two rfl fun i => ?_, two rfl fun i => ?_,
    two rfl fun i => ?_, two rfl fun i => ?_, two rfl fun i => ?_, two rfl fun i => ?_, two rfl fun i => ?_⟩
  · rw [← variant]; exact intLane_mod t _ _
  · rw [← variant]; exact intLane_mod t _ _
  · rw [← variant]; exact intLane_mod t _ _
  · rw [← variant]; exact intLane_mod t _ _
  · rw [← minInt_eq]; exact intLane_wrap_mod t _
  · rw [← maxInt_eq]; exact intLane_wrap_mod t _
  · exact (toNat_cast_emod _ _).symm
  · exact (toNat_cast_emod _ _).symm
  · exact (toNat_cast_emod _ _).symm
  · rw [toNat_cast_emod]; exact Nat.mod_mod _ _
  · exact intLane_wrap_mod t _

end Sys2Proof.Machine
end

section
/-! SUPPORT. Rounding keeps what a format holds (R84, R91, R92). -/

namespace Sys2Proof.Machine

/-- The parts of an encoding: sign, exponent and mantissa. -/
theorem FFmt.code_parts {f : FFmt} {b : Nat} (h : b < 2 * f.signBit) :
    b = (if b / f.signBit % 2 = 1 then f.signBit else 0) + (b / 2 ^ f.mbits % 2 ^ f.ebits * 2 ^ f.mbits + b % 2 ^ f.mbits) := by
  have sign : f.signBit = 2 ^ f.mbits * 2 ^ f.ebits := by rw [FFmt.signBit, pow_add, Nat.mul_comm]
  have pos : 0 < f.signBit := by rw [sign]; positivity
  have high : b / f.signBit < 2 := Nat.div_lt_of_lt_mul (by rwa [Nat.mul_comm])
  have low : b % f.signBit = b / 2 ^ f.mbits % 2 ^ f.ebits * 2 ^ f.mbits + b % 2 ^ f.mbits := by
    rw [sign, Nat.mod_mul, Nat.add_comm, Nat.mul_comm]
  have whole := Nat.div_add_mod b f.signBit
  rw [← low]
  split
  next one => rw [Nat.mod_eq_of_lt high] at one; rw [one, Nat.mul_one] at whole; exact whole.symm
  next zero =>
    rw [Nat.mod_eq_of_lt high] at zero
    have none : b / f.signBit = 0 := (Nat.le_one_iff_eq_zero_or_eq_one.1 (Nat.le_of_lt_succ high)).resolve_right zero
    rw [none, Nat.mul_zero] at whole
    exact whole.symm

/-- A subnormal magnitude rounds to its mantissa. -/
theorem FFmt.roundMag_subnormal {f : FFmt} {m : Nat} (h : m < 2 ^ f.mbits) (le : m ≤ f.maxCode) : f.roundMag m (1 - f.bias - f.mbits) = m := by
  unfold FFmt.roundMag
  split
  next zero => exact zero.symm
  next nonzero =>
    have small : Nat.log2 m < f.mbits := (Nat.log2_lt nonzero).2 h
    have below : (1 : Int) - f.bias - f.mbits + Nat.log2 m < 1 - (f.bias : Int) := by omega
    simp only [if_pos below, le_refl, if_true, sub_self, Int.toNat_zero, pow_zero, Nat.mul_one, Nat.zero_mul, Nat.zero_add]
    exact if_neg (Nat.not_lt.2 le)

/-- A normal magnitude rounds to its exponent and mantissa. -/
theorem FFmt.roundMag_normal {f : FFmt} {e m : Nat} (pos : 0 < e) (h : m < 2 ^ f.mbits) (le : e * 2 ^ f.mbits + m ≤ f.maxCode) :
    f.roundMag (2 ^ f.mbits + m) ((e : Int) - f.bias - f.mbits) = e * 2 ^ f.mbits + m := by
  have nonzero : 2 ^ f.mbits + m ≠ 0 := by positivity
  have log : Nat.log2 (2 ^ f.mbits + m) = f.mbits := (Nat.log2_eq_iff nonzero).2 ⟨by omega, by rw [pow_succ]; omega⟩
  have above : ¬ (e : Int) - f.bias - f.mbits + f.mbits < 1 - (f.bias : Int) := by omega
  have steps : ((e : Int) - f.bias - f.mbits + f.mbits - (1 - (f.bias : Int))).toNat = e - 1 := by omega
  have same : (e : Int) - f.bias - f.mbits + f.mbits - f.mbits = (e : Int) - f.bias - f.mbits := by omega
  have code : (e - 1) * 2 ^ f.mbits + (2 ^ f.mbits + m) = e * 2 ^ f.mbits + m := by
    rw [← Nat.add_assoc, ← Nat.succ_mul, Nat.succ_eq_add_one, Nat.sub_add_cancel pos]
  unfold FFmt.roundMag
  rw [if_neg nonzero]
  simp only [log, if_neg above, steps, same, le_refl, if_true, sub_self, Int.toNat_zero, pow_zero, Nat.mul_one, code]
  exact if_neg (Nat.not_lt.2 le)

theorem FFmt.emax_succ (f : FFmt) : f.emax + 1 = 2 ^ f.ebits := Nat.sub_add_cancel Nat.one_le_two_pow

theorem FFmt.infCode_add (f : FFmt) : f.infCode + 2 ^ f.mbits = f.signBit := by
  rw [FFmt.infCode, ← Nat.succ_mul, Nat.succ_eq_add_one, f.emax_succ, FFmt.signBit, pow_add]

/-- Rounding the value of an encoding gives the encoding back, unless it is a NaN (R91). -/
theorem FFmt.round_value {f : FFmt} {b : Nat} (pos : 0 < f.ebits) (h : b < 2 * f.signBit) (num : f.value b ≠ .nan) : f.round (f.value b) = b := by
  have mant : b % 2 ^ f.mbits < 2 ^ f.mbits := Nat.mod_lt _ (Nat.two_pow_pos _)
  have exps : b / 2 ^ f.mbits % 2 ^ f.ebits < 2 ^ f.ebits := Nat.mod_lt _ (Nat.two_pow_pos _)
  have two : 2 ≤ 2 ^ f.ebits := Nat.le_self_pow pos.ne' 2
  have parts := FFmt.code_parts h
  have top := f.emax_succ
  have inf : f.infCode = f.emax * 2 ^ f.mbits := rfl
  unfold FFmt.value at num ⊢
  generalize b / f.signBit % 2 = s at parts num ⊢
  generalize b / 2 ^ f.mbits % 2 ^ f.ebits = e at parts num exps ⊢
  generalize b % 2 ^ f.mbits = m at parts num mant ⊢
  have sum (k : Nat) : (if decide (s = 1) = true then f.signBit else 0) + k = (if s = 1 then f.signBit else 0) + k := by simp only [decide_eq_true_eq]
  dsimp only at num ⊢
  have below (le : e < f.emax) : e * 2 ^ f.mbits + m ≤ f.maxCode := by
    have step : (e + 1) * 2 ^ f.mbits ≤ f.emax * 2 ^ f.mbits := Nat.mul_le_mul_right _ le
    rw [Nat.succ_mul] at step
    unfold FFmt.maxCode
    split
    · omega
    · split <;> omega
  split at num
  next zero =>
    rw [if_pos zero]
    have le := below (by omega)
    rw [zero, Nat.zero_mul, Nat.zero_add] at le parts
    rw [FFmt.round, FFmt.roundMag_subnormal mant le, sum, ← parts]
  next nonzero =>
    rw [if_neg nonzero]
    split at num
    next infinite =>
      rw [if_pos infinite]
      obtain ⟨rfl, has⟩ := infinite
      split at num
      next zero =>
        rw [if_pos zero, FFmt.round, if_pos has, sum, inf]
        rw [zero, Nat.add_zero] at parts
        exact parts.symm
      next => exact absurd rfl num
    next finite =>
      rw [if_neg finite]
      split at num
      next nan => exact absurd rfl num
      next number =>
        rw [if_neg number]
        have le : e * 2 ^ f.mbits + m ≤ f.maxCode := by
          rcases Nat.lt_or_ge e f.emax with less | ge
          · exact below less
          · obtain rfl : e = f.emax := by omega
            have noInf : ¬ f.inf = true := fun has => finite ⟨rfl, has⟩
            unfold FFmt.maxCode
            rw [if_neg noInf, inf]
            split
            next has =>
              have : m ≠ 2 ^ f.mbits - 1 := fun all => number ⟨rfl, has, all⟩
              omega
            · omega
        rw [FFmt.round, FFmt.roundMag_normal (Nat.pos_of_ne_zero nonzero) mant le, sum, ← parts]

/-- A magnitude above the largest becomes infinity, or the largest value (R92). -/
theorem FFmt.round_huge (f : FFmt) (pos : 0 < f.bias) (neg : Bool) (k : Nat) :
    f.round (.num neg 1 ((2 ^ f.ebits : Nat) + (k : Int))) = (if neg then f.signBit else 0) + (if f.inf then f.infCode else f.maxCode) := by
  have log : Nat.log2 1 = 0 := rfl
  have top := f.emax_succ
  have inf := f.infCode_add
  have mag : f.maxCode < ((2 ^ f.ebits : Nat) + (k : Int) + ((0 : Nat) : Int) - (1 - (f.bias : Int))).toNat * 2 ^ f.mbits + 2 ^ f.mbits := by
    have large : f.maxCode < f.signBit := by
      have one : 1 ≤ 2 ^ f.mbits := Nat.one_le_two_pow
      unfold FFmt.maxCode
      split
      · omega
      · split <;> omega
    have steps : f.emax ≤ ((2 ^ f.ebits : Nat) + (k : Int) + ((0 : Nat) : Int) - (1 - (f.bias : Int))).toNat := by omega
    have := Nat.mul_le_mul_right (2 ^ f.mbits) steps
    rw [show f.emax * 2 ^ f.mbits = f.infCode from rfl] at this
    omega
  have above : ¬ (2 ^ f.ebits : Nat) + (k : Int) + ((0 : Nat) : Int) < 1 - (f.bias : Int) := by omega
  have exact : (2 ^ f.ebits : Nat) + (k : Int) + ((0 : Nat) : Int) - f.mbits ≤ (2 ^ f.ebits : Nat) + (k : Int) := by omega
  have shift : ((2 ^ f.ebits : Nat) + (k : Int) - ((2 ^ f.ebits : Nat) + (k : Int) + ((0 : Nat) : Int) - f.mbits)).toNat = f.mbits := by omega
  unfold FFmt.round FFmt.roundMag
  simp only [Nat.one_ne_zero, if_false, log, if_neg above, if_pos exact, shift, Nat.one_mul, if_pos mag]

/-- Every code that rounding gives to a value of the format is one of the format. -/
theorem FFmt.round_value_lt {f : FFmt} {b : Nat} (pos : 0 < f.ebits) (h : b < 2 * f.signBit) (nan : f.nanCode < 2 * f.signBit) :
    f.round (f.value b) < 2 * f.signBit := by
  by_cases num : f.value b = .nan
  · rw [num]; exact nan
  · rw [FFmt.round_value pos h num]; exact h

end Sys2Proof.Machine
end

section
/-! PROOF. O20: the float lanes and the formats (R84, R91, R92, R171, R179). -/

namespace Sys2Proof.Machine

open Sys2Proof

/-- Settles O20: the instructions work lane by lane, and rounding undoes the value of an encoding. -/
theorem vectorFloatLanesRoundOnceAndKeepWhatFits : Obligations.VectorFloatLanesRoundOnceAndKeepWhatFits := by
  unfold Obligations.VectorFloatLanesRoundOnceAndKeepWhatFits
  constructor
  · intro s sw d a b t m x hx w F size A B C lanes
    have three {j : Instr} {lat : Nat} {acc : Bool} {g : Nat → Nat → Nat → Nat} {f : Nat → Val}
        (h : exec j s = .next (s.lanewise sw x d (some (opndA x a)) (some (opndB x b)) m w lat acc g))
        (hf : ∀ i, g (lane (s.readV d) w i) (lane (s.readV a) w i) (lane (s.readV b) w i) = F.round (f i)) : lanes j lat f :=
      ⟨s.lanesOf d a (some b) m w g, fun i hi => by rw [State.lane_lanesOf _ _ _ _ _ _ hi, ← hf i]; rfl,
        State.lanewise_gives (b := some b) hx h (by simp)⟩
    have one {j : Instr} {lat : Nat} {g : Nat → Nat} {f : Nat → Val}
        (h : exec j s = .next (s.lanewise sw x d (some (opndA x a)) none m w lat false fun _ p _ => g p))
        (hf : ∀ i, g (lane (s.readV a) w i) = F.round (f i)) : lanes j lat f :=
      ⟨s.lanesOf d a none m w fun _ p _ => g p, fun i hi => by rw [State.lane_lanesOf _ _ _ _ _ _ hi, ← hf i],
        State.lanewise_gives (b := none) hx h (by simp)⟩
    exact ⟨three rfl fun _ => rfl, three rfl fun _ => rfl, three rfl fun _ => rfl, three rfl fun _ => rfl, three rfl fun _ => rfl,
      three rfl fun _ => rfl, one rfl fun _ => rfl, one rfl fun _ => rfl, one rfl fun _ => rfl⟩
  · intro f hf
    have small : 0 < f.ebits ∧ 0 < f.bias ∧ f.nanCode < 2 * f.signBit := by
      revert f; decide
    obtain ⟨ebits, bias, nan⟩ := small
    exact ⟨fun b hb num => FFmt.round_value ebits hb num, rfl, f.round_huge bias, fun b hb => FFmt.round_value_lt ebits hb nan⟩

end Sys2Proof.Machine
end

section
/-! SUPPORT. Fields of lanes that an instruction writes, and folds of numbers (R173 to R178). -/

namespace Sys2Proof.Machine

/-- An instruction that sends its lanes to field D, without a stream there. -/
theorem State.emit_gives {s : State} {i : Instr} {sw : Bool} {x : Option VExt} {d : BitVec 5} {rs ws : List Reg} {a b : Option VField} {w lat : Nat}
    (act : State → Nat → Bool) (res : State → Vec → Vec → Vec) {ok : Bool} {qs : List Reg} (hx : noStreams x)
    (h : exec i s = .next (s.vector sw x rs ws (fullField (opndD x d) w) a b ok fun u va vb =>
      u.emit { opnd := opndD x d, w, n := 512 / w } (act u) (res u va vb) lat)) (hok : ok = true)
    (ha : plainField a) (hb : plainField b) (hact : ∀ f : Ctx → List Nat, act (s.modCtx fun c => { c with inTaint := f c }) = act s)
    (hres : ∀ (f : Ctx → List Nat) (va vb : Vec), res (s.modCtx fun c => { c with inTaint := f c }) va vb = res s va vb)
    (hr : ∀ q ∈ fieldRegs a ++ fieldRegs b ++ rs ++ (ws ++ [.v d]), q ∈ qs) :
    s.gives i qs sw (extBytes x) (.v d) (blend w (512 / w) (act s) (s.readV d) (res s (s.fieldV a) (s.fieldV b))) lat := by
  rw [opndD_reg hx] at h
  exact State.vector_gives (fun u va vb => blend w (512 / w) (act u) (u.readV d) (res u va vb)) h hok (plainField_full d w) ha hb (fun _ _ _ => rfl)
    (fun f va vb => by simp only [hact, hres, State.readV_inTaint]) trivial hr

/-- An instruction whose lanes of D are all active. -/
theorem State.emitAll_gives {s : State} {i : Instr} {sw : Bool} {x : Option VExt} {d : BitVec 5} {rs ws : List Reg} {a b : Option VField} {w lat : Nat}
    (res : State → Vec → Vec → Vec) {qs : List Reg} (whole : w * (512 / w) = 512) (hx : noStreams x)
    (h : exec i s = .next (s.vector sw x rs ws (fullField (opndD x d) w) a b true fun u va vb =>
      u.emit { opnd := opndD x d, w, n := 512 / w } (fun _ => true) (res u va vb) lat))
    (ha : plainField a) (hb : plainField b)
    (hres : ∀ (f : Ctx → List Nat) (va vb : Vec), res (s.modCtx fun c => { c with inTaint := f c }) va vb = res s va vb)
    (hr : ∀ q ∈ fieldRegs a ++ fieldRegs b ++ rs ++ (ws ++ [.v d]), q ∈ qs) :
    s.gives i qs sw (extBytes x) (.v d) (res s (s.fieldV a) (s.fieldV b)) lat := by
  have gives := State.emit_gives (fun _ _ => true) res hx h rfl ha hb (fun _ => rfl) hres hr
  have all (old new : Vec) : blend w (512 / w) (fun _ => true) old new = new := ofLanes_lane whole new
  rwa [all] at gives

theorem lanes_whole_int (t : IntTy) : t.width * (512 / t.width) = 512 := by cases t <;> rfl

theorem lanes_whole (t : LaneTy) : t.width * (512 / t.width) = 512 := by
  cases t with
  | int t => exact lanes_whole_int t
  | float t => cases t <;> rfl

/-- A number of the type is what its bits hold. -/
theorem extInt_of_mem_range {t : IntTy} {y : Int} (lo : loInt t ≤ y) (hi : y ≤ hiInt t) : extInt t (y % (2 : Int) ^ t.width).toNat = y := by
  have pos : (0 : Int) < 2 ^ t.width := by positivity
  obtain ⟨lo', hi'⟩ := extInt_mem_range t (y % (2 : Int) ^ t.width).toNat
  have size : hiInt t - loInt t < (2 : Int) ^ t.width := by
    have twice := two_pow_width t
    unfold hiInt loInt
    split <;> omega
  have same := extInt_emod t (y % (2 : Int) ^ t.width).toNat
  rw [Int.toNat_of_nonneg (Int.emod_nonneg y pos.ne')] at same
  have dvd : (2 : Int) ^ t.width ∣ extInt t (y % (2 : Int) ^ t.width).toNat - y := by
    have := Int.dvd_of_emod_eq_zero same
    have rest : (2 : Int) ^ t.width ∣ y % (2 : Int) ^ t.width - y := Int.dvd_sub_self_of_emod_eq rfl
    simpa using dvd_add this rest
  exact sub_eq_zero.1 (Int.eq_zero_of_abs_lt_dvd dvd (abs_lt.2 ⟨by omega, by omega⟩))

/-- A sum from the first number on. -/
theorem foldl_add_cons (l : Int) (ls : List Int) : ls.foldl (· + ·) l = (l :: ls).sum := by
  rw [List.sum_eq_foldl, List.foldl_cons, Int.zero_add]

/-- The least of some numbers is the one that is below all. -/
theorem foldl_min_eq {y l : Int} {ls : List Int} (mem : y ∈ l :: ls) (least : ∀ z ∈ l :: ls, y ≤ z) : ls.foldl minInt l = y := by
  have min : (l :: ls).min? = some y := List.min?_eq_some_iff.2 ⟨mem, least⟩
  rw [List.min?_cons', Option.some_inj] at min
  exact min

/-! What a reduction of no lane gives (R177). -/

theorem reduceWord_min_nil (t : IntTy) : reduceWord .min (.int t) [] = BitVec.ofInt 64 (hiInt t) :=
  congrArg wrap64 (extInt_of_mem_range (loInt_le_hiInt t) le_rfl)

theorem reduceWord_max_nil (t : IntTy) : reduceWord .max (.int t) [] = BitVec.ofInt 64 (loInt t) :=
  congrArg wrap64 (extInt_of_mem_range le_rfl (loInt_le_hiInt t))

theorem reduceWord_and_nil (t : IntTy) : reduceWord .and (.int t) [] = BitVec.ofInt 64 (extInt t (2 ^ t.width - 1)) := by
  cases t <;> decide

theorem reduceWord_nil_zero {op : RedOp} (h : op = .or ∨ op = .xor) (t : IntTy) : reduceWord op (.int t) [] = BitVec.ofInt 64 0 := by
  rcases h with rfl | rfl <;> cases t <;> decide

theorem reduceWord_min {t : IntTy} {act : List Nat} {y : Int} (mem : y ∈ act.map (extInt t)) (least : ∀ z ∈ act.map (extInt t), y ≤ z) :
    reduceWord .min (.int t) act = wrap64 y := by
  obtain ⟨b, _, rfl⟩ := List.mem_map.1 mem
  obtain ⟨lo, hi⟩ := extInt_mem_range t b
  cases act with
  | nil => cases mem
  | cons a as =>
    have fold : (as.map (extInt t)).foldl minInt (extInt t a) = extInt t b := foldl_min_eq mem least
    unfold reduceWord
    simp only [List.map_cons]
    rw [show combineInt .min t.width = minInt from rfl, fold, extInt_of_mem_range lo hi]

theorem reduceWord_add (t : IntTy) (act : List Nat) : reduceWord .add (.int t) act = wrap64 (act.map (extInt t)).sum := by
  cases act with
  | nil => rfl
  | cons a as => exact congrArg wrap64 (foldl_add_cons _ _)

theorem testBit_packNat_one (f : Nat → Bool) {n i : Nat} (h : i < n) : (packNat 1 (fun i => if f i then 1 else 0) n).testBit i = f i := by
  have place := packNat_place 1 (fun i => if f i then 1 else 0) h
  rw [Nat.one_mul] at place
  rw [Nat.testBit_eq_decide_div_mod_eq, show _ / 2 ^ i % 2 = _ from place]
  cases f i <;> rfl

/-- A lane extends with its sign (R176). -/
def laneSigned : LaneTy → Bool
  | .int t => t.signed
  | .float _ => false

theorem natBits_ofLanes_above {w n lo hi : Nat} (above : w * n ≤ lo) (f : Nat → Nat) : natBits (ofLanes w n f).toNat hi lo = 0 := by
  have small : (ofLanes w n f).toNat < 2 ^ lo :=
    ((BitVec.toNat_ofNat _ _).trans_le (Nat.mod_le _ _)).trans_lt ((packNat_lt w f n).trans_le (Nat.pow_le_pow_right two_pos above))
  rw [natBits, Nat.div_eq_of_lt small, Nat.zero_mod]

theorem getLsbD_laneWord (t : LaneTy) {v i : Nat} (h : v < 2 ^ t.width) (hi : i < 64) :
    (laneWord t v).getLsbD i = if i < t.width then v.testBit i else
      laneSigned t && v.testBit (t.width - 1) := by
  have high (le : ¬ i < t.width) : v.testBit i = false := Nat.testBit_lt_two_pow (h.trans_le (Nat.pow_le_pow_right two_pos (not_lt.1 le)))
  cases t with
  | float t =>
    rw [laneWord, BitVec.getLsbD_ofNat]
    split
    next => simp [hi]
    next le => simp [high le, laneSigned]
  | int t =>
    have width : 0 < t.width ∧ t.width ≤ 64 := by cases t <;> decide
    change (wrap64 (extInt t v)).getLsbD i = if i < t.width then v.testBit i else t.signed && v.testBit (t.width - 1)
    change v < 2 ^ t.width at h
    unfold extInt
    cases t.signed
    · rw [if_neg Bool.false_ne_true, wrap64, Nat.mod_eq_of_lt h, BitVec.ofInt_natCast, BitVec.getLsbD_ofNat, Bool.false_and]
      split
      next => simp [hi]
      next le => rw [high le, Bool.and_false]
    · rw [if_pos rfl, getLsbD_wrap64_sextNat width.1 width.2 h hi, Bool.true_and]

end Sys2Proof.Machine
end

section
/-! PROOF. O21: comparison, rearrangement, reduction and conversion (R173 to R178). -/

namespace Sys2Proof.Machine

open Sys2Proof

theorem condLane_iff (t : LaneTy) (c : Cond) (a b : Nat) : condLane t c a b = true ↔ match t with
    | .int t => (match c with
      | .eq => extInt t a = extInt t b | .ne => extInt t a ≠ extInt t b | .lt => extInt t a < extInt t b
      | .le => extInt t a ≤ extInt t b | .gt => extInt t a > extInt t b | .ge => extInt t a ≥ extInt t b)
    | .float t => condVal c ((FFmt.ofFloat t).value a) ((FFmt.ofFloat t).value b) = true := by
  cases t with
  | float t => exact Iff.rfl
  | int t => exact condInt_iff c _ _

/-- The bits that VCMP leaves in pD (R173). -/
theorem getLsbD_condBits (old : Word) (f : Nat → Bool) {n i : Nat} (hi : i < 64) :
    (BitVec.ofNat 64 (old.toNat / 2 ^ n * 2 ^ n + packNat 1 (fun i => if f i then 1 else 0) n)).getLsbD i = if i < n then f i else old.getLsbD i := by
  have low := packNat_lt 1 (fun i => if f i then 1 else 0) n
  rw [Nat.one_mul] at low
  rw [BitVec.getLsbD_ofNat, Nat.mul_comm, Nat.testBit_two_pow_mul_add _ low, decide_eq_true hi, Bool.true_and]
  split
  next less => exact testBit_packNat_one f less
  next le => rw [Nat.testBit_div_two_pow, Nat.sub_add_cancel (not_lt.1 le)]; rfl

/-! ## What each instruction writes, without streams -/

section
variable {s : State} {sw : Bool} {d a b : BitVec 5} {t : LaneTy} {x : Option VExt} {qs : List Reg} (hx : noStreams x)
include hx

/-- VCMP (R173). -/
theorem vcmp_gives {c : Cond} {p : BitVec 3} (hr : ∀ q ∈ [.v a, .v b, .p p], q ∈ qs) :
    s.gives (.vcmp sw p a b t c x) qs sw (extBytes x) (.p p) (wide (BitVec.ofNat 64 ((s.readP p).toNat / 2 ^ (512 / t.width) * 2 ^ (512 / t.width) +
      packNat 1 (fun i => if condLane t c (lane (s.readV a) t.width i) (lane (s.readV b) t.width i) then 1 else 0) (512 / t.width)))) 2 := by
  have h : exec (.vcmp sw p a b t c x) s = .next (s.vector sw x [.p p] [] none (fullField (opndA x a) t.width) (fullField (opndB x b) t.width) true _) := rfl
  rw [opndA_reg hx, opndB_reg hx] at h
  exact State.vector_gives (a := fullField (.reg a) t.width) (b := fullField (.reg b) t.width) (fun u va vb => wide (BitVec.ofNat 64 ((u.readP p).toNat / 2 ^ (512 / t.width) * 2 ^ (512 / t.width) +
      packNat 1 (fun i => if condLane t c (lane va t.width i) (lane vb t.width i) then 1 else 0) (512 / t.width)))) h rfl plainField_none
    (plainField_full a _) (plainField_full b _) (fun _ _ _ => rfl) (fun f _ _ => by simp only [State.readP_inTaint]) (Reg.fits_wide _ _) hr

/-- VSEL (R174). -/
theorem vsel_gives {p : BitVec 3} (hr : ∀ q ∈ [.v a, .v b, .p p, .v d], q ∈ qs) :
    s.gives (.vsel sw d a b t p x) qs sw (extBytes x) (.v d) (ofLanes t.width (512 / t.width) fun i =>
      if (s.readP p).getLsbD i then lane (s.readV a) t.width i else lane (s.readV b) t.width i) 2 := by
  have h : exec (.vsel sw d a b t p x) s = .next (s.vector sw x [.p p] [] (fullField (opndD x d) t.width) (fullField (opndA x a) t.width)
    (fullField (opndB x b) t.width) true _) := rfl
  rw [opndA_reg hx, opndB_reg hx] at h
  exact State.emitAll_gives (a := fullField (.reg a) t.width) (b := fullField (.reg b) t.width) (fun u va vb => ofLanes t.width (512 / t.width) fun i => if (u.readP p).getLsbD i then lane va t.width i else lane vb t.width i)
    (lanes_whole t) hx h (plainField_full a _) (plainField_full b _) (fun f _ _ => by simp only [State.readP_inTaint]) hr

/-- VSHUF (R175). -/
theorem vshuf_gives {u : Ty} {f : ShufFn} (whole : u.cvtWidth * (512 / u.cvtWidth) = 512) (hr : ∀ q ∈ [.v a, .v b, .v d], q ∈ qs) :
    s.gives (.vshuf sw d a b u f x) qs sw (extBytes x) (.v d) (shuffle f u.cvtWidth (s.readV a) (if f.usesB then s.readV b else 0)) 3 := by
  have h : exec (.vshuf sw d a b u f x) s = .next (s.vector sw x [] [] (fullField (opndD x d) u.cvtWidth) (fullField (opndA x a) u.cvtWidth)
    (if f.usesB then fullField (opndB x b) u.cvtWidth else none) true _) := rfl
  rw [opndA_reg hx, opndB_reg hx] at h
  have res (hb : plainField (if f.usesB then fullField (.reg b) u.cvtWidth else none)) (hbr) :=
    State.emitAll_gives (qs := qs) (fun _ va vb => shuffle f u.cvtWidth va vb) whole hx h (plainField_full a _) hb (fun _ _ _ => rfl) hbr
  cases uses : f.usesB
  · rw [uses] at res
    exact res plainField_none fun q hq => hr q (by revert hq; simp [fullField, fieldRegs, VOpnd.regs]; tauto)
  · rw [uses] at res
    exact res (plainField_full b _) fun q hq => hr q hq

/-- VPERM (R176). -/
theorem vperm_gives {it : IntTy} {m : BitVec 3} (hr : ∀ q ∈ [.v a, .v b, .p m, .v d], q ∈ qs) :
    s.gives (.vperm sw d a b it m x) qs sw (extBytes x) (.v d) (blend it.width (512 / it.width) (s.maskAt m) (s.readV d)
      (ofLanes it.width (512 / it.width) fun i => lane (s.readV a) it.width (lane (s.readV b) it.width i % (512 / it.width)))) 3 := by
  have h : exec (.vperm sw d a b it m x) s = .next (s.vector sw x (maskRegs m ++ oldRegs (opndD x d) (decide (m ≠ 0))) []
    (fullField (opndD x d) it.width) (fullField (opndA x a) it.width) (fullField (opndB x b) it.width) true _) := rfl
  rw [opndA_reg hx, opndB_reg hx] at h
  refine State.emit_gives (a := fullField (.reg a) it.width) (b := fullField (.reg b) it.width) (fun u => u.maskAt m)
    (fun _ va vb => ofLanes it.width (512 / it.width) fun i => lane va it.width (lane vb it.width i % (512 / it.width))) hx h rfl
    (plainField_full a _) (plainField_full b _) (fun f => s.maskAt_inTaint f m) (fun _ _ _ => rfl) ?_
  rw [opndD_reg hx]
  intro q hq
  rw [List.mem_append, List.mem_append] at hq
  rcases hq with (hab | hm) | hd
  · exact hr q (by revert hab; simp [fullField, fieldRegs, VOpnd.regs]; tauto)
  · exact hr q (by rcases mem_masked hm with rfl | rfl <;> simp)
  · exact hr q (by rw [List.mem_singleton.1 hd]; simp)

/-- VBCAST (R176). -/
theorem vbcast_gives {m : BitVec 3} (hr : ∀ q ∈ [.x a, .p m, .v d], q ∈ qs) :
    s.gives (.vbcast sw d a t m x) qs sw (extBytes x) (.v d) (blend t.width (512 / t.width) (s.maskAt m) (s.readV d)
      (ofLanes t.width (512 / t.width) fun _ => (s.readX a).toNat)) 2 := by
  have h : exec (.vbcast sw d a t m x) s = .next (s.vector sw x (.x a :: maskRegs m ++ oldRegs (opndD x d) (decide (m ≠ 0))) []
    (fullField (opndD x d) t.width) none none true _) := rfl
  refine State.emit_gives (a := none) (b := none) (fun u => u.maskAt m) (fun u _ _ => ofLanes t.width (512 / t.width) fun _ => (u.readX a).toNat) hx h rfl
    plainField_none plainField_none (fun f => s.maskAt_inTaint f m) (fun f _ _ => by simp only [State.readX_inTaint]) ?_
  rw [opndD_reg hx]
  intro q hq
  rcases List.mem_append.1 hq with hs | hd
  · rcases List.mem_cons.1 hs with rfl | hm
    · exact hr _ (by simp)
    · exact hr q (by rcases mem_masked hm with rfl | rfl <;> simp)
  · exact hr q (by rw [List.mem_singleton.1 hd]; simp)

/-- VMOVX, insert (R176). -/
theorem vmovxInsert_gives (hr : ∀ q ∈ [.x a, .x b, .v d], q ∈ qs) :
    s.gives (.vmovxInsert sw d a b t x) qs sw (extBytes x) (.v d) (blend t.width (512 / t.width)
      (fun i => decide (i = (s.readX b).toNat % (512 / t.width))) (s.readV d) (ofLanes t.width (512 / t.width) fun _ => (s.readX a).toNat)) 2 := by
  have h : exec (.vmovxInsert sw d a b t x) s = .next (s.vector sw x (.x a :: .x b :: oldRegs (opndD x d) true) []
    (fullField (opndD x d) t.width) none none true _) := rfl
  refine State.emit_gives (a := none) (b := none) (fun u i => decide (i = (u.readX b).toNat % (512 / t.width)))
    (fun u _ _ => ofLanes t.width (512 / t.width) fun _ => (u.readX a).toNat) hx h rfl plainField_none plainField_none
    (fun f => by simp only [State.readX_inTaint]) (fun f _ _ => by simp only [State.readX_inTaint]) ?_
  rw [opndD_reg hx]
  exact fun q hq => hr q (by revert hq; simp [fieldRegs, oldRegs, VOpnd.regs])

/-- VMOVX, extract (R176). -/
theorem vmovxExtract_gives (hr : ∀ q ∈ [.v a, .x b, .x d], q ∈ qs) :
    s.gives (.vmovxExtract sw d a b t x) qs sw (extBytes x) (.x d)
      (wide (laneWord t (lane (s.readV a) t.width ((s.readX b).toNat % (512 / t.width))))) 2 := by
  have h : exec (.vmovxExtract sw d a b t x) s = .next (s.vector sw x [.x b] [.x d] none (fullField (opndA x a) t.width) none true _) := rfl
  rw [opndA_reg hx] at h
  exact State.vector_gives (a := fullField (.reg a) t.width) (b := none)
    (fun u va _ => wide (laneWord t (lane va t.width ((u.readX b).toNat % (512 / t.width))))) h rfl plainField_none (plainField_full a _) plainField_none
    (fun _ _ _ => rfl) (fun f _ _ => by simp only [State.readX_inTaint]) (Reg.fits_wide _ _) hr

/-- VRED (R177). -/
theorem vred_gives {op : RedOp} {m : BitVec 3} (hr : ∀ q ∈ [.v a, .p m, .x d], q ∈ qs) :
    s.gives (.vred sw d a op t m x) qs sw (extBytes x) (.x d)
      (wide (reduceWord op t (((List.range (512 / t.width)).filter (s.maskAt m)).map (lane (s.readV a) t.width)))) 20 := by
  have h : exec (.vred sw d a op t m x) s = .next (s.vector sw x (maskRegs m) [.x d] none (fullField (opndA x a) t.width) none true _) := rfl
  rw [opndA_reg hx] at h
  refine State.vector_gives (a := fullField (.reg a) t.width) (b := none)
    (fun u va _ => wide (reduceWord op t (((List.range (512 / t.width)).filter (u.maskAt m)).map (lane va t.width)))) h rfl plainField_none
    (plainField_full a _) plainField_none (fun _ _ _ => rfl) (fun f _ _ => by simp only [State.maskAt_inTaint]) (Reg.fits_wide _ _) fun q hq => ?_
  rw [List.mem_append, List.mem_append] at hq
  rcases hq with (ha | hm) | hd
  · exact hr q (by rw [List.mem_singleton.1 ha]; simp)
  · exact hr q (by rw [mem_maskRegs hm]; simp)
  · exact hr q (by rw [List.mem_singleton.1 hd]; simp)

/-- VCVT (R178). -/
theorem vcvt_gives {src dst : Ty} {k : BitVec 3} (hr : ∀ q ∈ [.v a, .v d], q ∈ qs) :
    s.gives (.vcvt sw d a src dst k x) qs sw (extBytes x) (.v d) (convert src dst (512 / Nat.max src.cvtWidth dst.cvtWidth)
      (if src.cvtWidth < dst.cvtWidth then 512 / Nat.max src.cvtWidth dst.cvtWidth * k.toNat else 0)
      (if dst.cvtWidth < src.cvtWidth then 512 / Nat.max src.cvtWidth dst.cvtWidth * k.toNat else 0) (s.readV d) (s.readV a)) 3 := by
  have h : exec (.vcvt sw d a src dst k x) s = execVcvt sw d a src dst k x s := rfl
  unfold execVcvt at h
  rw [opndA_reg hx, opndD_reg hx] at h
  exact State.vector_gives (a := some (regField a _ _)) (b := none)
    (fun u va _ => convert src dst (512 / Nat.max src.cvtWidth dst.cvtWidth)
      (if src.cvtWidth < dst.cvtWidth then 512 / Nat.max src.cvtWidth dst.cvtWidth * k.toNat else 0)
      (if dst.cvtWidth < src.cvtWidth then 512 / Nat.max src.cvtWidth dst.cvtWidth * k.toNat else 0) (u.readV d) va) h rfl (.inr ⟨d, _, _, rfl⟩)
    (.inr ⟨a, _, _, rfl⟩) plainField_none
    (fun _ _ _ => rfl) (fun f _ _ => by simp only [State.readV_inTaint]) trivial fun q hq => by
      rw [List.mem_append, List.mem_append] at hq
      rcases hq with (ha | ho) | hd
      · exact hr q (by rw [List.mem_singleton.1 ha]; simp)
      · exact hr q (by rw [mem_oldRegs ho]; simp)
      · exact hr q (by rw [List.mem_singleton.1 hd]; simp)

end

/-- The elements that a conversion leaves in vD (R178). -/
theorem lane_convert {src dst : Ty} {c from_ first i : Nat} (old a : Vec) (h : i < 512 / dst.cvtWidth) :
    lane (convert src dst c from_ first old a) dst.cvtWidth i =
      if first ≤ i ∧ i < first + c then elemRound dst (elemValue src (lane a src.cvtWidth (from_ + (i - first)))) % 2 ^ dst.cvtWidth
      else lane old dst.cvtWidth i := by
  unfold convert
  rw [lane_ofLanes (lanes_fit _) _ h]
  split
  · rfl
  · exact lane_mod _ _ _

theorem lane_masked {s : State} {w i : Nat} (m : BitVec 3) (d : BitVec 5) (f : Nat → Nat) (h : i < 512 / w) :
    lane (blend w (512 / w) (s.maskAt m) (s.readV d) (ofLanes w (512 / w) f)) w i =
      if m = 0 ∨ (s.readP m).getLsbD i = true then f i % 2 ^ w else lane (s.readV d) w i := by
  rw [lane_blend (lanes_fit w) _ _ _ h, lane_ofLanes (lanes_fit w) _ h]
  simp only [State.maskAt_iff]

/-- Settles O21: each instruction's word or vector is known, lane by lane. -/
theorem vectorsCompareRearrangeReduceAndConvert : Obligations.VectorsCompareRearrangeReduceAndConvert := by
  unfold Obligations.VectorsCompareRearrangeReduceAndConvert
  constructor
  · intro s sw d a b t it c p m x hx size w n A B rs gives holds
    have mk {j : Instr} {lat u : Nat} {f : Nat → Nat} {V : Vec} (hg : s.gives j rs sw size (.v d) V lat) (hl : ∀ i < 512 / u, lane V u i = f i) :
        gives j lat u f := ⟨V, hl, hg⟩
    have shuf {f : ShufFn} {g : Nat → Nat} (hg : ∀ i < n, lane (shuffle f w (s.readV a) (if f.usesB then s.readV b else 0)) w i = g i) :
        gives (.vshuf sw d a b (.lane t) f x) 3 w g := mk (vshuf_gives (u := .lane t) hx (lanes_whole t) (by simp [rs])) hg
    have of {f : Nat → Nat} {i : Nat} (hi : i < n) : lane (ofLanes w n f) w i = f i % 2 ^ w := lane_ofLanes (lanes_fit w) f hi
    have pick {P : Prop} [Decidable P] {w' j l : Nat} {V W : Vec} : (if P then lane V w' j else lane W w' l) % 2 ^ w' = if P then lane V w' j else lane W w' l := by
      split <;> exact lane_mod _ _ _
    refine ⟨⟨_, fun i hi => ?_, vcmp_gives hx (by simp [rs])⟩, mk (vsel_gives hx (by simp [rs])) fun i hi => (of hi).trans pick,
      shuf fun i hi => (of hi).trans ?_, shuf fun i hi => (of hi).trans ?_, shuf fun i hi => (of hi).trans ?_, shuf fun i hi => (of hi).trans ?_,
      shuf fun i hi => (of hi).trans ?_, mk (vshuf_gives (u := .e3m2) hx rfl (by simp [rs])) fun i hi => ?_,
      ⟨_, fun i hi => ?_, ?_, vshuf_gives (u := .e3m2) hx rfl (by simp [rs])⟩,
      mk (vperm_gives hx (by simp [rs])) fun i hi => ?_, mk (vbcast_gives hx (by simp [rs])) fun i hi => lane_masked m d _ hi,
      mk (vmovxInsert_gives hx (by simp [rs])) fun i hi => ?_, ⟨_, fun i hi => ?_, vmovxExtract_gives hx (by simp [rs])⟩⟩
    · rw [getLsbD_condBits _ (fun i => condLane t c (lane (s.readV a) t.width i) (lane (s.readV b) t.width i)) hi]
      change (if i < n then _ else _) = true ↔ _
      split
      · exact condLane_iff t c _ _
      · exact Iff.rfl
    · exact pick
    · exact pick
    · exact pick
    · exact pick
    · exact lane_mod _ _ _
    · have less : lane (s.readV a) 6 i < 2 ^ 8 := (lane_lt _ 6 i).trans (by decide)
      exact (lane_ofLanes (w := 8) (n := 64) (by decide) _ hi).trans (Nat.mod_eq_of_lt less)
    · exact lane_ofLanes (w := 6) (n := 64) (by decide) _ hi
    · exact natBits_ofLanes_above (by decide) _
    · exact (lane_masked m d _ hi).trans (by rw [lane_mod])
    · rw [lane_blend (lanes_fit w) _ _ _ hi, of hi]
      simp only [decide_eq_true_eq]
      rfl
    · rw [getLsbD_laneWord t (lane_lt _ _ _) hi]
      cases t <;> rfl
  · intro s sw d a op t it m k src dst x hx size act c
    have ints (op : RedOp) : s.gives (.vred sw d a op (.int it) m x) [.v a, .p m, .x d] sw size (.x d)
        (wide (reduceWord op (.int it) ((act it.width).map (lane (s.readV a) it.width)))) 20 := vred_gives hx (by simp)
    have lanes : ((act it.width).map (lane (s.readV a) it.width)).map (extInt it) = (act it.width).map fun i => extInt it (lane (s.readV a) it.width i) :=
      List.map_map
    refine ⟨?_, fun none y => ?_, fun y _ mem least => ?_, vred_gives hx (by simp), ⟨_, vcvt_gives hx (by simp), fun i hi => ?_⟩⟩
    · have gives := ints .add
      rw [reduceWord_add, lanes] at gives
      exact gives
    · have gives := ints op
      rw [none, List.map_nil] at gives
      rintro (⟨rfl, rfl⟩ | ⟨rfl, rfl⟩ | ⟨rfl, rfl⟩ | ⟨rfl, rfl⟩ | ⟨rfl, rfl⟩)
      · rwa [reduceWord_min_nil] at gives
      · rwa [reduceWord_max_nil] at gives
      · rwa [reduceWord_and_nil] at gives
      · rwa [reduceWord_nil_zero (.inl rfl)] at gives
      · rwa [reduceWord_nil_zero (.inr rfl)] at gives
    · have gives := ints .min
      rw [reduceWord_min (by rw [lanes]; exact mem) (by rw [lanes]; exact fun z hz => by obtain ⟨i, hi, rfl⟩ := List.mem_map.1 hz; exact least i hi)] at gives
      exact gives
    · rw [lane_convert _ _ hi]
      rcases Nat.lt_trichotomy dst.cvtWidth src.cvtWidth with less | same | more
      · have not : ¬ src.cvtWidth < dst.cvtWidth := by omega
        simp only [if_pos less, if_neg not, Nat.zero_add]
        rfl
      · have all : i < c := by simp only [c, same, max_self]; rwa [← same]
        rw [if_neg same.not_gt, if_neg same.not_lt, if_neg same.not_lt, if_pos ⟨Nat.zero_le _, by rwa [Nat.zero_add]⟩, Nat.zero_add]
        rfl
      · have all : i < c := by simp only [c, max_eq_right more.le]; exact hi
        rw [if_pos more, if_neg more.not_gt, if_neg more.not_gt, if_pos ⟨Nat.zero_le _, by rwa [Nat.zero_add]⟩, Nat.add_comm]
        rfl

end Sys2Proof.Machine
end

section
/-! PROOF. O22: a stream in field A (R168, R260). -/

namespace Sys2Proof.Machine

open Sys2Proof

theorem State.wantsFetch_ctx (s : State) (k : BitVec 2) : (s.wantsFetch k).ctx = s.ctx := by
  unfold State.wantsFetch; dsimp only; split <;> rfl
theorem State.wantsFetch_core (s : State) (k : BitVec 2) : (s.wantsFetch k).core = s.core := by
  unfold State.wantsFetch; dsimp only; split <;> rfl
theorem State.wantsFetch_mem (s : State) (k : BitVec 2) : (s.wantsFetch k).mem = s.mem := by
  unfold State.wantsFetch; dsimp only; split <;> rfl
theorem State.wantsFetch_cycle (s : State) (k : BitVec 2) : (s.wantsFetch k).cycle = s.cycle := by
  unfold State.wantsFetch; dsimp only; split <;> rfl
theorem State.wantsFetch_seq (s : State) (k : BitVec 2) : (s.wantsFetch k).seq = s.seq := by
  unfold State.wantsFetch; dsimp only; split <;> rfl

theorem State.setStream_self (s : State) (k : BitVec 2) (t : Stream) : (s.setStream k t).core.streams.get k.toFin = t :=
  Vector.getElem_set_self k.isLt

theorem State.setStream_other (s : State) (k : BitVec 2) (t : Stream) {j : Fin 4} (h : j ≠ k.toFin) :
    (s.setStream k t).core.streams.get j = s.core.streams.get j := by
  have apart : k.toNat ≠ j.val := fun e => h (Fin.ext e.symm)
  exact Vector.getElem_set_ne k.isLt j.isLt apart

/-- The elements that a read takes, and 0 past them (R168). -/
theorem lane_streamRead (s : State) (k : BitVec 2) (t : IntTy) {i : Nat} (h : i < 512 / t.width) :
    lane (s.streamRead k t.width (512 / t.width)).2 t.width i =
      (if i < min (512 / t.width) (s.stream k).remain then (((s.stream k).fetched? i).getD 0).toNat else 0) % 2 ^ t.width := by
  refine (lane_ofLanes (lanes_fit _) _ h).trans (congrArg (· % _) ?_)
  unfold Stream.next
  rw [List.getElem?_map]
  split
  next less => rw [List.getElem?_range less]; rfl
  next le => rw [List.getElem?_eq_none (by rw [List.length_range]; exact not_lt.1 le)]; rfl

theorem extInt_mod (t : IntTy) (v : Nat) : extInt t (v % 2 ^ t.width) = extInt t v := by
  unfold extInt sextNat
  simp only [Nat.mod_mod]

/-- The prefix that puts the stream `k` into field A, and nothing else. -/
def streamA (k : BitVec 2) : Option VExt := some { sat := false, ds := false, dsn := 0, as := true, asn := k, bs := false, bsn := 0 }

/-- What VADD leaves in vD, of the lanes of A and of `u`'s vB. -/
def State.vaddLanes (u : State) (d b : BitVec 5) (t : IntTy) (va : Vec) : Vec :=
  blend t.width (512 / t.width) (u.maskAt 0) (u.readV d)
    (ofLanes t.width (512 / t.width) fun i => intLanes t .wrap (· + ·) (lane va t.width i) (lane (u.readV b) t.width i))

/-- VADD of a stream takes a vector of it, where it can be used and has been fetched. -/
theorem exec_vadd_stream (s : State) (sw : Bool) (d b : BitVec 5) (t : IntTy) (k : BitVec 2) :
    exec (.vadd sw d 0 b (.int t) 0 (streamA k)) s =
      .next (if (s.stream k).usable t.width false 0 && !(s.stream k).has 0 (512 / t.width) s.cycle then s
        else s.issue [.v b] [.v d] fun u =>
          if (s.stream k).usable t.width false 0 then
            ((u.streamRead k t.width (512 / t.width)).1.write (.v d)
              ((u.streamRead k t.width (512 / t.width)).1.vaddLanes d b t (u.streamRead k t.width (512 / t.width)).2) 2).retire sw 8
          else u.illegal) := by
  have run : exec (.vadd sw d 0 b (.int t) 0 (streamA k)) s = .next (s.vector sw (streamA k) [] [] (fullField (.reg d) t.width)
      (fullField (.stream k) t.width) (fullField (.reg b) t.width) true fun u va vb => u.write (.v d)
        (blend t.width (512 / t.width) (u.maskAt 0) (u.readV d)
          (ofLanes t.width (512 / t.width) fun i => intLanes t .wrap (· + ·) (lane va t.width i) (lane vb t.width i))) 2) := rfl
  have fits : s.vectorFits (fullField (.reg d) t.width) (fullField (.stream k) t.width) (fullField (.reg b) t.width) true =
      (s.stream k).usable t.width false 0 := by
    simp [State.vectorFits, (plainField_full b _).reads, (plainField_full d _).writes]
    rfl
  rw [run, State.vector_eq, fits, (plainField_full b _).stalls, Bool.or_false]
  rfl

theorem Stream.usable_iff (q : Stream) (w : Nat) : q.usable w false 0 = true ↔ q.bnd = true ∧ q.wr = false ∧ q.ty.width = w ∧ 0 < q.remain := by
  simp [Stream.usable, and_assoc]

/-- What a read of the stream `k` by an instruction that has issued leaves, and gives. -/
theorem streamRead_issued (s : State) (rs : List Reg) (k : BitVec 2) (t : IntTy) : ∃ m va,
    (s.issued rs).streamRead k t.width (512 / t.width) = (m, va) ∧ m.ctx = (s.issued rs).ctx ∧ m.mem = s.mem ∧
      m.cycle = s.cycle ∧ m.seq = s.seq ∧ m.core.streams.get k.toFin = (s.stream k).advance (min (512 / t.width) (s.stream k).remain) ∧
      (∀ j, j ≠ k.toFin → m.core.streams.get j = s.core.streams.get j) ∧
      ∀ i < 512 / t.width, lane va t.width i =
        (if i < min (512 / t.width) (s.stream k).remain then (((s.stream k).fetched? i).getD 0).toNat else 0) % 2 ^ t.width := by
  refine ⟨((s.issued rs).setStream k ((s.stream k).advance (min (512 / t.width) (s.stream k).remain))).wantsFetch k, _, rfl, ?_, ?_, ?_, ?_, ?_, fun j hj => ?_,
    fun i hi => lane_streamRead (s.issued rs) k t hi⟩
  · rw [State.wantsFetch_ctx]; rfl
  · rw [State.wantsFetch_mem]; rfl
  · rw [State.wantsFetch_cycle]; rfl
  · rw [State.wantsFetch_seq]; rfl
  · rw [State.wantsFetch_core]; exact State.setStream_self ..
  · rw [State.wantsFetch_core]; exact State.setStream_other _ _ _ hj

/-- Settles O22: where the stream can be used and has been fetched, the read takes its next elements and advances it, and VADD goes on as with a register. -/
theorem streamsFeedVectorInstructions : Obligations.StreamsFeedVectorInstructions := by
  unfold Obligations.StreamsFeedVectorInstructions
  intro s sw d b t k x w q n ok
  have run := exec_vadd_stream s sw d b t k
  have usable : (s.stream k).usable t.width false 0 = true ↔ ok := Stream.usable_iff q w
  have has : ∀ m c, (s.stream k).has 0 m c = q.has 0 m c := fun _ _ => rfl
  refine ⟨fun can unfetched => ?_, fun can ready fetched => ?_, fun cannot ready trappable => ?_⟩
  · rw [usable.2 can, has, unfetched] at run
    exact run
  · rw [usable.2 can, has, fetched] at run
    rw [if_neg (by decide), State.issue_issued ready] at run
    simp only [if_true] at run
    obtain ⟨m, va, read, ctx, mem, cycle, seq, self, other, lanes⟩ := streamRead_issued s [.v b] k t
    rw [read] at run
    have same : s.sameRegs m := ⟨fun r => by rw [ctx, State.issued_ctx]; exact Ctx.reg_inTaint s.ctx _ r, by rw [ctx, State.issued_ctx]⟩
    obtain ⟨lands, goes⟩ := State.write_retire_of (s := s) (m := m) sw 8 (.v d) (m.vaddLanes d b t va) 2 trivial same cycle seq
      (by rw [ctx, State.issued_ctx]; exact ⟨rfl, rfl, rfl, rfl, rfl, rfl⟩)
    have only := (m.write_retire_computes (·.inTaint) sw 8 (.v d) (m.vaddLanes d b t va) 2 trivial).only
    rw [show (m.modCtx fun c => { c with inTaint := c.inTaint }) = m from m.setCtx_ctx] at only
    refine ⟨_, m.vaddLanes d b t va, run, ?_, goes, lands, ?_, fun j hj => ?_, fun i hi => ?_⟩
    · rw [only]; exact mem
    · rw [only]; exact self
    · rw [only]; exact other j hj
    · have old : m.readV b = s.readV b := by
        unfold State.readV
        rw [ctx]
        exact State.readV_inTaint s (fun c => c.taintOf ([Reg.v b].map .reg)) b
      unfold State.vaddLanes
      rw [lane_blend (lanes_fit _) _ _ _ hi, lane_ofLanes (lanes_fit _) _ hi, if_pos (show m.maskAt 0 i = true from rfl), old, lanes i hi]
      unfold intLanes
      rw [extInt_mod, intLane_mod]
      rfl
  · rw [Bool.eq_false_iff.2 fun e => cannot (usable.1 e)] at run
    rw [Bool.false_and, if_neg Bool.false_ne_true, State.issue_issued ready] at run
    simp only [Bool.false_eq_true, if_false] at run
    exact ⟨_, run, State.raise_core (State.issued_trappable trappable _) _, State.issued_illegal_entered trappable _⟩

end Sys2Proof.Machine
end

section
/-! SUPPORT. Instructions that change more than their context, and reads of the own scratchpad at issue (R196, R249, R304). -/

namespace Sys2Proof.Machine

theorem State.issued_sameRegs (s : State) (rs : List Reg) : s.sameRegs (s.issued rs) :=
  ⟨fun r => by rw [State.issued_ctx]; exact Ctx.reg_inTaint s.ctx _ r, by rw [State.issued_ctx]⟩

theorem State.issued_sameWay (s : State) (rs : List Reg) : s.ctx.sameWay (s.issued rs).ctx := by
  rw [State.issued_ctx]
  exact ⟨rfl, rfl, rfl, rfl, rfl, rfl⟩

theorem State.sameRegs.trans {s t u : State} (h : s.sameRegs t) (k : t.sameRegs u) : s.sameRegs u :=
  ⟨fun r => (k.1 r).trans (h.1 r), k.2.trans h.2⟩

theorem State.sameRegs.of_ctx {s m n : State} (h : s.sameRegs m) (ctx : n.ctx = m.ctx) : s.sameRegs n :=
  ⟨fun r => by rw [ctx]; exact h.1 r, by rw [ctx]; exact h.2⟩

/-- An instruction that completes in a state whose context is the one that has issued. -/
theorem State.completes {s m : State} {rs : List Reg} (ctx : m.ctx = (s.issued rs).ctx) (cycle : m.cycle = s.cycle) (sw : Bool) (size gap : Nat) :
    s.sameRegs (m.retireAfter sw size gap) ∧ s.goesOn (m.retireAfter sw size gap) sw size gap :=
  ⟨((s.issued_sameRegs rs).of_ctx ctx).trans (m.retireAfter_sameRegs sw size gap),
    (m.retireAfter_goesOn sw size gap).of_sameWay cycle (ctx ▸ s.issued_sameWay rs)⟩

/-- An instruction that writes one register and completes in a state whose context is the one that has issued. -/
theorem State.completesWith {s m : State} {rs : List Reg} (ctx : m.ctx = (s.issued rs).ctx) (cycle : m.cycle = s.cycle) (seq : m.seq = s.seq) (sw : Bool)
    (size : Nat) (r : Reg) (v : Vec) (lat : Nat) (hf : r.fits v) :
    s.lands ((m.write r v lat).retire sw size) r v lat ∧ s.goesOn ((m.write r v lat).retire sw size) sw size 1 :=
  State.write_retire_of sw size r v lat hf ((s.issued_sameRegs rs).of_ctx ctx) cycle seq (ctx ▸ s.issued_sameWay rs)

/-- Writing one register and completing changes the context alone. -/
theorem State.write_retire_only (m : State) (sw : Bool) (size : Nat) (r : Reg) (v : Vec) (lat : Nat) (hf : r.fits v) :
    m.onlyCtx ((m.write r v lat).retire sw size) := by
  have only := (m.write_retire_computes (·.inTaint) sw size r v lat hf).only
  rwa [show (m.modCtx fun c => { c with inTaint := c.inTaint }) = m from m.setCtx_ctx] at only

/-- No access of the core is outstanding, and no command of it is incomplete. -/
structure State.quiet (s : State) : Prop where
  accs : s.accs = []
  cmds : ∀ q ∈ s.core.chans.toList, q.cmds = []

theorem State.quiet.gated {s : State} (h : s.quiet) (key len : Nat) : s.gated key len = false := by
  unfold State.gated
  rw [List.any_eq_false]
  intro q hq
  rw [h.cmds q hq]
  exact Bool.false_ne_true

theorem State.quiet.seen {s : State} (h : s.quiet) (n : Fin 11) (key len : Nat) : s.seen n key len = Memory.read s.mem key len := by
  unfold State.seen State.seenBy State.ownOver
  rw [h.accs]
  rfl

theorem State.quiet.whenDone {s : State} (h : s.quiet) (p : Acc → Bool) (v : Word) (k : State → State) : s.whenDone p v k = k s := by
  unfold State.whenDone
  rw [h.accs]
  rfl

theorem State.claimed?_eq_false {s : State} {off n : Nat} (h : ∀ c ∈ s.job.claims, overlaps off n c.off c.bytes = false) : s.claimed? off n = false := by
  unfold State.claimed?
  rw [List.any_eq_false]
  exact fun c hc => Bool.eq_false_iff.1 (h c hc)

theorem overlaps_mono {a n m b k : Nat} (h : overlaps a n b k = false) (le : m ≤ n) : overlaps a m b k = false := by
  unfold overlaps at *
  simp only [Bool.and_eq_false_iff, decide_eq_false_iff_not] at *
  omega

/-- The own scratchpad's bytes that an instruction reads at issue, in the local window. -/
theorem State.withOwn_local {s : State} {a : Word} {n align : Nat} (quiet : s.quiet) (aligned : a.toNat % align = 0) (pos : 0 < n)
    (fits : a.toNat + n ≤ 0x80000) (free : s.claimed? a.toNat n = false) (v : Word) (k : State → List Byte → State) :
    s.withOwn a n align v k =
      k (s.dropEarly s.cur (scratchKey s.core.num.toNat a.toNat) n) (Memory.read s.mem (scratchKey s.core.num.toNat a.toNat) n) := by
  unfold State.withOwn State.checkOwn
  rw [State.check_local aligned pos fits fun _ => free]
  dsimp only [localPlace]
  rw [quiet.gated, quiet.whenDone, quiet.seen]
  rfl

theorem State.firstBad_nil {s : State} (h : s.bad = []) (key n : Nat) : s.firstBad key n = none := by
  unfold State.firstBad
  rw [h]
  rfl

/-- The table's bytes that VTBLD reads in the local window (R181). -/
theorem State.tableBytes_local {s : State} {a : Word} {n : Nat} (quiet : s.quiet) (bad : s.bad = []) (aligned : a.toNat % 4 = 0) (pos : 0 < n)
    (fits : a.toNat + n ≤ 0x80000) (free : s.claimed? a.toNat n = false) (k : State → List Byte → State) :
    s.tableBytes a n k =
      k (s.dropEarly s.cur (scratchKey s.core.num.toNat a.toNat) n) (Memory.read s.mem (scratchKey s.core.num.toNat a.toNat) n) := by
  unfold State.tableBytes State.checkOwn
  rw [State.check_local aligned pos fits fun _ => free]
  dsimp only
  rw [State.firstBad_nil bad]
  exact State.withOwn_local quiet aligned pos fits free a k

end Sys2Proof.Machine
end

section
/-! PROOF. O23: the interpolator's tables (R181 to R183). -/

namespace Sys2Proof.Machine

open Sys2Proof

/-- VTBLD of a valid table in the local window puts it into its slot (R181). -/
theorem exec_vtbld (s : State) (sw : Bool) (n : BitVec 2) (a : BitVec 5) (ready : s.ready [.x a]) (aligned : (s.readX a).toNat % 4 = 0)
    {size : Nat} (hs : size = 32 + 12 * fieldAt (Memory.read s.mem (scratchKey s.core.num.toNat (s.readX a).toNat) 32) 6 2)
    (fits : (s.readX a).toNat + size ≤ 0x80000) (free : s.claimed? (s.readX a).toNat size = false) (quiet : s.quiet) (bad : s.bad = [])
    (valid : badTable (Memory.read s.mem (scratchKey s.core.num.toNat (s.readX a).toNat) 32) = false) :
    ∃ m : State, m.ctx = (s.issued [.x a]).ctx ∧ m.cycle = s.cycle ∧ m.mem = s.mem ∧
      m.core = { s.core with tabs := s.core.tabs.set n.toNat (some (tableOf (Memory.read s.mem (scratchKey s.core.num.toNat (s.readX a).toNat) size))) n.isLt } ∧
      exec (.vtbld sw n a) s = .next (m.retire sw 4) := by
  have at_ : (s.issued [.x a]).waitValue a = s.readX a := State.waitValue_issued s ready.1 _ a
  have header : s.claimed? (s.readX a).toNat 32 = false := by
    unfold State.claimed? at *
    rw [List.any_eq_false] at *
    exact fun c hc => Bool.eq_false_iff.1 (overlaps_mono (Bool.eq_false_iff.2 (free c hc)) (by omega))
  have run : exec (.vtbld sw n a) s = .next (s.issue [.x a] [] _) := rfl
  rw [State.issue_issued (by simpa using ready)] at run
  dsimp only at run
  rw [at_, State.tableBytes_local (s := s.issued [.x a]) ⟨quiet.1, quiet.2⟩ bad aligned (by omega) (by omega) header] at run
  rw [show badTable (Memory.read (s.issued [.x a]).mem (scratchKey (s.issued [.x a]).core.num.toNat (s.readX a).toNat) 32) = false from valid,
    if_neg Bool.false_ne_true, State.tableBytes_local (s := (s.issued [.x a]).dropEarly _ _ _) ⟨quiet.1, quiet.2⟩ bad aligned (by omega) (by rw [hs] at fits; exact fits)
      (by rw [hs] at free; exact free)] at run
  subst hs
  refine ⟨_, ?_, ?_, ?_, ?_, run⟩
  · rfl
  · rfl
  · rfl
  · rfl

/-- VINTERP with the slot's table (R182). -/
theorem vinterp_gives {s : State} (sw : Bool) (d a : BitVec 5) {n : BitVec 2} (m : BitVec 3) {tb : Table} (slot : s.core.tabs.get n.toFin = some tb) :
    s.gives (.vinterp sw d a n m none) [.v a, .v d, .p m] sw 4 (.v d)
      (blend 32 16 (s.maskAt m) (s.readV d) (ofLanes 32 16 fun i => tb.eval (lane (s.readV a) 32 i))) 8 := by
  have gives := State.emit_gives (s := s) (i := .vinterp sw d a n m none) (d := d) (a := fullField (.reg a) 32) (b := none) (w := 32) (lat := 8)
    (qs := [.v a, .v d, .p m]) (fun u => u.maskAt m)
    (fun u va _ => ofLanes 32 16 fun i => match u.core.tabs.get n.toFin with | some tb => tb.eval (lane va 32 i) | none => 0)
    (x := none) nofun rfl (by rw [slot]; rfl) (plainField_full a _) plainField_none (fun f => s.maskAt_inTaint f m) (fun _ _ _ => rfl) ?_
  · simp only [slot] at gives
    exact gives
  · intro q hq
    rw [List.mem_append, List.mem_append] at hq
    rcases hq with (ha | hm) | hd
    · rw [List.mem_singleton.1 ha]; simp
    · rcases mem_masked hm with rfl | rfl <;> simp
    · rw [List.mem_singleton.1 hd]; simp

/-- VINTERP on an empty slot is an illegal operation (R182). -/
theorem exec_vinterp_empty {s : State} (sw : Bool) (d a : BitVec 5) {n : BitVec 2} (m : BitVec 3) (slot : s.core.tabs.get n.toFin = none)
    (ready : s.ready [.v a, .v d, .p m]) : ∃ rs, exec (.vinterp sw d a n m none) s = .next (s.issued rs).illegal := by
  have run : exec (.vinterp sw d a n m none) s = .next (s.vector sw none (maskRegs m ++ oldRegs (.reg d) (decide (m ≠ 0))) [] (fullField (.reg d) 32)
    (fullField (.reg a) 32) none (s.core.tabs.get n.toFin).isSome _) := rfl
  have fits : s.vectorFits (fullField (.reg d) 32) (fullField (.reg a) 32) none false = false := Bool.and_false _
  rw [slot, Option.isSome_none, State.vector_eq, fits, Bool.false_and, if_neg Bool.false_ne_true, State.issue_issued (ready.mono ?_)] at run
  · exact ⟨_, run⟩
  · intro q hq
    rw [List.mem_append, List.mem_append] at hq
    rcases hq with (ha | hm) | hd
    · rw [List.mem_singleton.1 ha]; simp
    · rcases mem_masked hm with rfl | rfl <;> simp
    · rw [List.mem_singleton.1 hd]; simp

/-- Settles O23: VTBLD reads the table's bytes at once, and VINTERP evaluates the table of its slot. -/
theorem tablesLoadAndInterpolate : Obligations.TablesLoadAndInterpolate := by
  unfold Obligations.TablesLoadAndInterpolate
  intro s sw d a n m
  refine ⟨fun bs ready aligned fits claims accs bad cmds hbs valid => ?_, fun tb slot => ?_, fun slot ready trappable => ?_⟩
  · obtain ⟨u, ctx, cycle, mem, core, run⟩ := exec_vtbld s sw n a ready aligned rfl fits (State.claimed?_eq_false claims) ⟨accs, cmds⟩ bad valid
    obtain ⟨regs, goes⟩ := State.completes ctx cycle sw 4 1
    have tabs : (u.retire sw 4).core = u.core := rfl
    refine ⟨_, run, regs, goes, mem, ?_, ?_, fun k hk => ?_⟩
    · rw [tabs, core]
    · rw [tabs, core, hbs]
      exact Vector.getElem_set_self n.isLt
    · rw [tabs, core]
      exact Vector.getElem_set_ne n.isLt k.isLt fun e => hk (Fin.ext e.symm)
  · refine ⟨_, fun i hi => ?_, vinterp_gives sw d a m slot⟩
    exact lane_masked (w := 32) m d _ hi
  · obtain ⟨rs, run⟩ := exec_vinterp_empty sw d a m slot ready
    exact ⟨_, run, State.issued_illegal_entered trappable rs⟩

end Sys2Proof.Machine
end

section
/-! PROOF. O24: the checks of an access, and its translation (R25, R26, R28, R196 to R204). -/

namespace Sys2Proof.Machine

open Sys2Proof

/-- A natural size of an access (R26). -/
def accessSize (n : Nat) : Prop := n = 1 ∨ n = 2 ∨ n = 4 ∨ n = 8 ∨ n = 64

theorem accessSize.pos {n : Nat} (h : accessSize n) : 0 < n := by
  rcases h with rfl | rfl | rfl | rfl | rfl <;> decide

/-- An aligned run that begins below a multiple of 64 ends below it. -/
theorem accessSize.fits {n : Nat} (h : accessSize n) {a b : Nat} (aligned : a % n = 0) (below : a < 64 * b) : a + n ≤ 64 * b := by
  rcases h with rfl | rfl | rfl | rfl | rfl <;> omega

/-- The kinds of access that LD, ST and the atomics make: none asks for the own scratchpad, and all are phased and refused by claims. -/
def Access.data (acc : Access) : Prop := acc = .load ∨ acc = .store ∨ ∃ h, acc = .rmw h

theorem Access.data.fields {acc : Access} (h : acc.data) : acc.own = false ∧ acc.phased = true ∧ acc.claims = true := by
  rcases h with rfl | rfl | ⟨_, rfl⟩ <;> exact ⟨rfl, rfl, rfl⟩

/-! ## The place of a run (R25, R26) -/

theorem placeCheck_misaligned {a : Word} {n align : Nat} (h : a.toNat % align ≠ 0) : placeCheck a n align = .error (addressFault 3 a) := if_pos h

theorem placeCheck_unassigned {a : Word} {n align : Nat} (aligned : a.toNat % align = 0) (h : regionOf a = .unassigned) :
    placeCheck a n align = .error (addressFault 1 a) := by
  unfold placeCheck
  rw [if_neg (not_not.2 aligned), h]

theorem placeCheck_whole {a : Word} {n align : Nat} {r : Region} (aligned : a.toNat % align = 0) (first : regionOf a = r)
    (last : ∃ r', regionOf (a + BitVec.ofNat 64 (n - 1)) = r' ∧ (r = .translated ∧ r' = .translated ∨ ∃ p o o', r = .scratch p o ∧ r' = .scratch p o')) :
    placeCheck a n align = .ok r := by
  obtain ⟨r', last, same⟩ := last
  unfold placeCheck
  rw [if_neg (not_not.2 aligned), first, last]
  rcases same with ⟨rfl, rfl⟩ | ⟨p, o, o', rfl, rfl⟩
  · rfl
  · exact if_pos rfl

theorem regionOf_unassigned {a : Word} (h : (0x80000 ≤ a.toNat ∧ a.toNat < 0x1000000) ∨ (0x2000000 ≤ a.toNat ∧ a.toNat < 0x100000000) ∨
    0x1000000000000 ≤ a.toNat) : regionOf a = .unassigned := by
  unfold regionOf
  dsimp only
  rcases h with h | h | h <;> split_ifs <;> first | rfl | omega

theorem regionOf_translated {a : Word} (lo : 0x100000000 ≤ a.toNat) (hi : a.toNat < 0x1000000000000) : regionOf a = .translated := by
  unfold regionOf
  dsimp only
  split_ifs <;> first | rfl | omega

theorem regionOf_scratch {a : Word} {p off : Nat} (at_ : a.toNat = 0x1000000 + p * 0x80000 + off) (hp : p < 32) (ho : off < 0x80000) :
    regionOf a = .scratch (some p) off := by
  have place : (a.toNat - 0x1000000) / 0x80000 = p ∧ a.toNat % 0x80000 = off := by omega
  unfold regionOf
  dsimp only
  rw [place.1, place.2]
  split_ifs <;> first | rfl | omega

theorem placeCheck_translated {a : Word} {n : Nat} (hn : accessSize n) (aligned : a.toNat % n = 0) (lo : 0x100000000 ≤ a.toNat)
    (hi : a.toNat < 0x1000000000000) : placeCheck a n n = .ok .translated := by
  have fits : a.toNat + n ≤ 64 * 0x40000000000 := hn.fits aligned hi
  have last : (a + BitVec.ofNat 64 (n - 1)).toNat = a.toNat + (n - 1) := toNat_add_ofNat (by have := hn.pos; omega)
  have := hn.pos
  exact placeCheck_whole aligned (regionOf_translated lo hi) ⟨_, regionOf_translated (by omega) (by omega), .inl ⟨rfl, rfl⟩⟩

theorem placeCheck_scratch {a : Word} {n p off : Nat} (hn : accessSize n) (at_ : a.toNat = 0x1000000 + p * 0x80000 + off) (hp : p < 32)
    (ho : off < 0x80000) (aligned : off % n = 0) : placeCheck a n n = .ok (.scratch (some p) off) := by
  have whole : a.toNat % n = 0 := by rcases hn with rfl | rfl | rfl | rfl | rfl <;> omega
  have fits : off + n ≤ 64 * 0x2000 := hn.fits aligned ho
  have last : (a + BitVec.ofNat 64 (n - 1)).toNat = a.toNat + (n - 1) := toNat_add_ofNat (by have := hn.pos; omega)
  have := hn.pos
  exact placeCheck_whole whole (regionOf_scratch at_ hp ho)
    ⟨_, regionOf_scratch (off := off + (n - 1)) (by omega) hp (by omega), .inr ⟨_, _, _, rfl, rfl⟩⟩

/-! ## Checks by region (R196) -/

section
variable {s : State} {acc : Access} {a : Word} {n align : Nat}

theorem State.check_place {f : AccessFault} (h : placeCheck a n align = .error f) (x : Bool) : s.check acc a n align x = (s, .error f, 1) := by
  unfold State.check
  rw [h]

theorem State.check_scratch {pos : Option Nat} {off : Nat} (h : placeCheck a n align = .ok (.scratch pos off)) (x : Bool) :
    s.check acc a n align x = (s, s.scratchCheck acc a n pos off, 1) := by
  unfold State.check
  rw [h]

theorem State.check_phase (hd : acc.data) (h : placeCheck a n align = .ok .translated) (superstep : s.job.superstep = true) (x : Bool) :
    s.check acc a n align x = (s, .error { cause := 0x07, detail := 0, addr := a }, 1) := by
  obtain ⟨own, phased, _⟩ := hd.fields
  unfold State.check
  rw [h]
  dsimp only
  rw [own, if_neg Bool.false_ne_true, if_pos ⟨phased, superstep⟩]

/-- The checks of a scratchpad's access in their order (R196). -/
theorem State.scratchCheck_eq (hd : acc.data) (pos : Option Nat) (off : Nat) :
    s.scratchCheck acc a n pos off =
      if s.scratchCore pos ≠ s.core.num ∧ s.scratchCore pos ∉ s.job.cores then .error (addressFault 5 a)
      else if s.job.superstep = true ∧ s.scratchCore pos ≠ s.core.num then .error { cause := 0x07, detail := 0, addr := a }
      else if s.claimed? off n = true then .error { cause := 0x06, detail := 0, addr := a }
      else .ok { key := scratchKey (s.scratchCore pos).toNat off, core := some (s.scratchCore pos), leaf := none, page := (0, 0) } := by
  obtain ⟨own, phased, claims⟩ := hd.fields
  unfold State.scratchCheck
  simp only [own, phased, claims, Bool.false_eq_true, false_and, true_and, if_false]

end

/-! ## Translation (R198 to R204) -/

theorem mem_tlbFill (cap : Nat) (l : List TlbEntry) (e : TlbEntry) : e ∈ tlbFill cap l e := by
  unfold tlbFill
  split
  · assumption
  · split <;> simp

/-- A load's permission (R202). -/
theorem State.leafCheck_load (s : State) (w a : Word) (x : Bool) :
    s.leafCheck .load w a x = if w.getLsbD 48 = false then .error { cause := 0x05, detail := 0, addr := a } else .ok () := by
  unfold State.leafCheck
  simp only [Access.load, true_and, Bool.false_eq_true, false_and, and_false, if_false]
  rfl

section
variable {s u : State} {a : Word} {n align : Nat} {tr : Translation} (h : placeCheck a n align = .ok .translated) (free : s.job.superstep = false)
  (found : s.translate a = (u, tr))
include h free found

/-! What a translated load outside superstep mode finds (R196). -/

theorem State.check_load_fault {f : AccessFault} (e : tr.found = .error f) (x : Bool) : s.check .load a n align x = (u, .error f, tr.time) := by
  unfold State.check
  rw [h]
  dsimp only
  rw [if_neg (by decide), free, if_neg (by simp), found]
  dsimp only
  rw [e]

theorem State.check_load_denied {l : TlbEntry} (e : tr.found = .ok l) (rd : l.leaf.getLsbD 48 = false) (x : Bool) :
    s.check .load a n align x = (u, .error { cause := 0x05, detail := 0, addr := a }, tr.time) := by
  unfold State.check
  rw [h]
  dsimp only
  rw [if_neg (by decide), free, if_neg (by simp), found]
  dsimp only
  rw [e]
  dsimp only
  rw [State.leafCheck_load, if_pos rd]

theorem State.check_load_leaf {l : TlbEntry} (e : tr.found = .ok l) (rd : l.leaf.getLsbD 48 = true) (x : Bool) :
    s.check .load a n align x =
      (u, .ok { key := leafKey s.die l.leaf l.level a.toNat, core := none, leaf := some l.leaf, page := (l.va, pageBytes l.level) }, tr.time) := by
  unfold State.check
  rw [h]
  dsimp only
  rw [if_neg (by decide), free, if_neg (by simp), found]
  dsimp only
  rw [e]
  dsimp only
  rw [State.leafCheck_load, if_neg (by rw [rd]; decide)]

end

theorem State.translate_cached {s : State} {a : Word} {e : TlbEntry} (h : tlbFind s.micro a.toNat = some e) (present : s.targetAbsent e.leaf = false) :
    s.translate a = (s, { found := .ok e, time := 0 }) := by
  unfold State.translate State.presentOr
  rw [h]
  dsimp only
  rw [present, if_neg Bool.false_ne_true]

theorem State.translate_walk {s : State} {a : Word} (h : tlbFind s.micro a.toNat = none) (h' : tlbFind s.clutlb a.toNat = none)
    (h'' : tlbFind s.lasttlb a.toNat = none) : s.translate a = s.walkFor a := by
  unfold State.translate
  rw [h, h', h'']

/-- A walk that finds a valid leaf caches it in every TLB (R200, R204). -/
theorem State.walkFor_leaf {s : State} {a : Word} {level : Nat} {w : Word} (h : walkFrom s.mem a.toNat 3 s.job.root.toNat = .leaf level w)
    (present : s.targetAbsent w = false) : ∃ u time, s.walkFor a =
      (u, { found := .ok { va := a.toNat / pageBytes level * pageBytes level, level, leaf := w }, time }) ∧
      ∀ l ∈ [u.micro, u.clutlb, u.lasttlb], ({ va := a.toNat / pageBytes level * pageBytes level, level, leaf := w } : TlbEntry) ∈ l := by
  unfold State.walkFor
  dsimp only
  rw [h]
  dsimp only
  rw [present, if_neg Bool.false_ne_true]
  exact ⟨_, _, rfl, by simp [mem_tlbFill]⟩

theorem State.count_micro (s : State) (ev : BitVec 8) : (s.count ev).micro = s.micro := by rw [State.count_only]

/-- A walk that faults caches nothing (R200). -/
theorem State.walkFor_fault {s : State} {a : Word} {level reason : Nat} (h : walkFrom s.mem a.toNat 3 s.job.root.toNat = .fault level reason) :
    ∃ u time, s.walkFor a = (u, { found := .error (translationFault level reason a), time }) ∧ u.micro = s.micro := by
  unfold State.walkFor
  dsimp only
  rw [h]
  exact ⟨_, _, rfl, by rw [State.count_micro, State.count_micro]⟩

/-- Settles O24: the place of a run decides its first checks, and its translation the rest. -/
theorem accessesAreCheckedAndTranslated : Obligations.AccessesAreCheckedAndTranslated := by
  unfold Obligations.AccessesAreCheckedAndTranslated
  constructor
  · intro s acc a n x hn hd fails
    have bad (aligned : a.toNat % n = 0) (h) : fails 0x03 1 := State.check_place (placeCheck_unassigned aligned (regionOf_unassigned h)) x
    refine ⟨fun ⟨aligned, fits, claims⟩ => State.check_local aligned (accessSize.pos hn) fits (fun _ => State.claimed?_eq_false claims) x,
      fun h => State.check_place (placeCheck_misaligned h) x, fun aligned lo hi => bad aligned (.inl ⟨lo, hi⟩), fun aligned lo hi => bad aligned (.inr (.inl ⟨lo, hi⟩)),
      fun aligned lo => bad aligned (.inr (.inr lo)), fun aligned hi ⟨c, hc, claimed⟩ => ?_, fun p hp off at_ ho aligned other => ?_,
      fun aligned lo hi superstep => State.check_phase hd (placeCheck_translated hn aligned lo hi) superstep x⟩
    · have fits : a.toNat + n ≤ 64 * 0x2000 := accessSize.fits hn aligned hi
      have touched : s.claimed? a.toNat n = true := List.any_eq_true.2 ⟨c, hc, claimed⟩
      have own : s.scratchCore none = s.core.num := rfl
      show s.check acc a n n x = _
      rw [State.check_scratch (placeCheck_local aligned (accessSize.pos hn) fits) x, State.scratchCheck_eq hd, if_neg (fun h => h.1 own), if_neg (fun h => h.2 own), if_pos touched]
    · have check := State.check_scratch (s := s) (acc := acc) (placeCheck_scratch hn at_ hp ho aligned) x
      rw [State.scratchCheck_eq hd, show s.scratchCore (some p) = s.clusterCore p from rfl] at check
      refine ⟨fun out => ?_, fun member superstep => ?_, fun member free claims => ?_⟩
      · rw [if_pos ⟨other, out⟩] at check
        exact check
      · rw [if_neg (fun h => h.2 member), if_pos ⟨superstep, other⟩] at check
        exact check
      · rw [if_neg (fun h => h.2 member), if_neg (fun h => by rw [free] at h; exact Bool.noConfusion h.1),
          if_neg (Bool.eq_false_iff.1 (State.claimed?_eq_false claims))] at check
        exact check
  · intro s a n x hn aligned lo hi free
    have place := placeCheck_translated hn aligned lo hi
    refine ⟨fun e cached present rd => State.check_load_leaf place free (State.translate_cached cached present) rfl rd x, fun none none' none'' => ⟨fun level w leaf present => ?_,
      fun level reason fault => ?_⟩, fun m table invalid => ?_⟩
    · obtain ⟨u, time, walk, cached⟩ := State.walkFor_leaf leaf present
      have sought := (s.walkFor_sought a).of_fst walk
      rw [← State.translate_walk none none' none''] at walk
      refine ⟨u, time, sought.mem, sought.ctxs, sought.accs, ?_, cached⟩
      cases rd : w.getLsbD 48
      · exact .inr ⟨State.check_load_denied place free walk rfl rd x, rfl⟩
      · exact .inl ⟨State.check_load_leaf place free walk rfl rd x, rfl⟩
    · obtain ⟨u, time, walk, same⟩ := State.walkFor_fault fault
      have sought := (s.walkFor_sought a).of_fst walk
      rw [← State.translate_walk none none' none''] at walk
      exact ⟨u, time, State.check_load_fault place free walk rfl x, sought.mem, sought.ctxs, same⟩
    · unfold walkFrom walkEntry
      dsimp only
      rw [if_pos invalid]

end Sys2Proof.Machine
end

section
/-! SUPPORT. Outstanding writes and accesses as an instruction makes them (R47, R188 to R193). -/

namespace Sys2Proof.Machine

/-! ## A write that waits (R47) -/

theorem Ctx.sameWay.refl (c : Ctx) : c.sameWay c := ⟨rfl, rfl, rfl, rfl, rfl, rfl⟩

theorem Ctx.sameWay.trans {c d e : Ctx} (h : c.sameWay d) (k : d.sameWay e) : c.sameWay e :=
  ⟨k.pc.trans h.pc, k.lc.trans h.lc, k.le.trans h.le, k.lead.trans h.lead, k.rptst.trans h.rptst, k.frame.trans h.frame⟩

theorem State.sameRegs.refl (s : State) : s.sameRegs s := ⟨fun _ => rfl, rfl⟩

theorem State.writeLater_seq (s : State) (r : Reg) (v : Vec) (need : Nat) : (s.writeLater r v need).seq = s.seq + 1 := by
  unfold State.writeLater; split <;> rfl
theorem State.writeLater_cycle (s : State) (r : Reg) (v : Vec) (need : Nat) : (s.writeLater r v need).cycle = s.cycle := by
  unfold State.writeLater; split <;> rfl
theorem State.writeLater_cur (s : State) (r : Reg) (v : Vec) (need : Nat) : (s.writeLater r v need).cur = s.cur := by
  unfold State.writeLater; split <;> rfl

theorem State.writeLater_ctx (s : State) (r : Reg) (v : Vec) (need : Nat) : (s.writeLater r v need).ctx =
    if r = .x 0 then s.ctx else { s.ctx with
      taints := (s.ctx.setTaint (.reg r) s.ctx.inTaint).taints,
      writes := s.ctx.writes ++ [{ reg := r, val := v, need, seq := s.seq, due := none, dead := false, late := false, ready := 0 }] } := by
  unfold State.writeLater
  split
  · rfl
  · have ctx := s.ctx_modCtx fun c => { c.setTaint (.reg r) c.inTaint with
      writes := c.writes ++ [{ reg := r, val := v, need, seq := s.seq, due := none, dead := false, late := false, ready := 0 }] }
    rw [Ctx.setTaint_only] at ctx
    exact ctx

theorem State.writeLater_sameWay (s : State) (r : Reg) (v : Vec) (need : Nat) : s.ctx.sameWay (s.writeLater r v need).ctx := by
  rw [State.writeLater_ctx]
  split
  · exact .refl _
  · exact ⟨rfl, rfl, rfl, rfl, rfl, rfl⟩

theorem State.writeLater_awaits (s : State) (r : Reg) (v : Vec) (need : Nat) : s.awaits (s.writeLater r v need) r v need where
  regs q := by
    rw [State.writeLater_ctx]
    split
    · rfl
    · exact Ctx.reg_congr rfl rfl rfl q
  zero h := by rw [State.writeLater_ctx, if_pos h]
  write h := by rw [State.writeLater_ctx, if_neg h]

theorem State.awaits.of_sameRegs {s m t : State} {r : Reg} {v : Vec} {need : Nat} (h : m.awaits t r v need) (same : s.sameRegs m)
    (seq : m.seq = s.seq) : s.awaits t r v need where
  regs q := (h.regs q).trans (same.1 q)
  zero e := (h.zero e).trans same.2
  write e := by rw [h.write e, same.2, seq]

theorem State.awaits.then_sameRegs {s m t : State} {r : Reg} {v : Vec} {need : Nat} (h : s.awaits m r v need) (same : m.sameRegs t) :
    s.awaits t r v need where
  regs q := (same.1 q).trans (h.regs q)
  zero e := same.2.trans (h.zero e)
  write e := same.2.trans (h.write e)

/-! ## Accesses that join the outstanding ones -/

theorem State.sign_only (s : State) (addr width : Nat) (data : List Byte) : s.sign addr width data = { s with core := (s.sign addr width data).core } := by
  unfold State.sign; split <;> rfl

/-- What an instruction's accesses change beside themselves: the numbering, and the agenda. -/
def State.onlySent (s t : State) : Prop := t = { s with accs := t.accs, seq := t.seq, agenda := t.agenda }

theorem State.onlySent.ctx {s t : State} (h : s.onlySent t) : t.ctx = s.ctx := by rw [h]; rfl

theorem State.onlySent.trans {s t u : State} (h : s.onlySent t) (k : t.onlySent u) : s.onlySent u := by
  unfold State.onlySent at h k ⊢
  rw [k, h]

theorem State.push_onlySent (s : State) (a : Acc) : s.onlySent (s.push a) := rfl

/-- The accesses of some lanes join the outstanding ones in their order, one after another. -/
theorem State.pushPlaces_sent (inst : Nat) (mk : State → Nat → Place → Acc) : ∀ (ps : List (Nat × Place)) (s : State),
    s.onlySent (State.pushPlaces inst mk ps s) ∧ (State.pushPlaces inst mk ps s).seq = s.seq + ps.length ∧
      (State.pushPlaces inst mk ps s).accs.length = s.accs.length + ps.length ∧ (∀ x ∈ s.accs, x ∈ (State.pushPlaces inst mk ps s).accs) ∧
      ∀ (j : Nat) (h : j < ps.length), ∃ u : State, s.onlySent u ∧ u.seq = s.seq + j ∧
        { mk u ps[j].1 ps[j].2 with inst, lane := ps[j].1 } ∈ (State.pushPlaces inst mk ps s).accs
  | [], s => ⟨rfl, rfl, rfl, fun _ h => h, fun j h => absurd h (Nat.not_lt_zero j)⟩
  | (i, p) :: ps, s => by
    obtain ⟨only, seq, length, kept, each⟩ := State.pushPlaces_sent inst mk ps (s.push { mk s i p with inst, lane := i })
    refine ⟨(s.push_onlySent _).trans only, ?_, ?_, fun x hx => kept x (List.mem_append_left _ hx), fun j hj => ?_⟩
    · exact seq.trans (by simp only [State.push, List.length_cons]; omega)
    · exact length.trans (by simp only [State.push, List.length_append, List.length_cons, List.length_nil]; omega)
    · cases j with
      | zero => exact ⟨s, rfl, rfl, kept _ (List.mem_append_right _ (List.mem_singleton.2 rfl))⟩
      | succ j =>
        obtain ⟨u, sent, at_, mem⟩ := each j (Nat.lt_of_succ_lt_succ hj)
        exact ⟨u, (s.push_onlySent _).trans sent, at_.trans (by simp only [State.push]; omega), mem⟩

theorem State.pushLanes_eq (inst : Nat) (mk : State → Nat → Acc) (p : Place) : ∀ (is : List Nat) (s : State),
    State.pushLanes inst mk is s = State.pushPlaces inst (fun u i _ => mk u i) (is.map fun i => (i, p)) s
  | [], _ => rfl
  | _ :: is, _ => State.pushLanes_eq inst mk p is _

/-- The eight accesses of a VLD or a VST. -/
theorem State.pushLanes_words8 (inst : Nat) (mk : State → Nat → Acc) (p : Place) (s : State) :
    s.onlySent (State.pushLanes inst mk words8 s) ∧ (State.pushLanes inst mk words8 s).accs.length = s.accs.length + 8 ∧
      (∀ x ∈ s.accs, x ∈ (State.pushLanes inst mk words8 s).accs) ∧
      ∀ i < 8, ∃ u : State, s.onlySent u ∧ u.seq = s.seq + i ∧ { mk u i with inst, lane := i } ∈ (State.pushLanes inst mk words8 s).accs := by
  rw [State.pushLanes_eq inst mk p]
  obtain ⟨only, _, length, kept, each⟩ := State.pushPlaces_sent inst (fun u i _ => mk u i) (words8.map fun i => (i, p)) s
  refine ⟨only, length, kept, fun i hi => ?_⟩
  obtain ⟨u, sent, seq, mem⟩ := each i (by simpa [words8] using hi)
  simp only [List.getElem_map, words8, List.getElem_range] at mem
  exact ⟨u, sent, seq, mem⟩

theorem State.access_ok {s u : State} {acc : Access} {a : Word} {n align : Nat} {p : Place} {h : Nat}
    (ok : s.check acc a n align s.exchange = (u, .ok p, h)) (k : State → Place → Nat → State) : s.access acc a n align k = k u p h := by
  unfold State.access
  rw [ok]

theorem State.address_issued (s : State) (rs : List Reg) (a b : BitVec 5) (k : BitVec 2) (e : Ext) : (s.issued rs).address a b k e = s.address a b k e := by
  unfold State.address
  rw [State.readX_issued, State.readX_issued]

/-- A state in the midst of an instruction of `s`, whose context goes on as `s`'s does. -/
structure State.amid (s m : State) : Prop where
  cycle : m.cycle = s.cycle
  way : s.ctx.sameWay m.ctx
  cur : m.cur = s.cur

theorem State.amid.goesOn {s m : State} (h : s.amid m) (sw : Bool) (size gap : Nat) : s.goesOn (m.retireAfter sw size gap) sw size gap :=
  (m.retireAfter_goesOn sw size gap).of_sameWay h.cycle h.way

theorem State.amid.trans {s m n : State} (h : s.amid m) (k : m.amid n) : s.amid n :=
  ⟨k.cycle.trans h.cycle, h.way.trans k.way, k.cur.trans h.cur⟩

theorem State.amid.pc {s m : State} (h : s.amid m) : m.pc = s.ctx.pc := h.way.pc

theorem State.issued_amid (s : State) (rs : List Reg) : s.amid (s.issued rs) := ⟨rfl, s.issued_sameWay rs, rfl⟩

theorem State.sought.amid {s m : State} (h : s.sought m) : s.amid m := ⟨h.cycle, by rw [h.ctx]; exact .refl _, h.cur⟩

theorem State.writeLater_amid (s : State) (r : Reg) (v : Vec) (need : Nat) : s.amid (s.writeLater r v need) :=
  ⟨s.writeLater_cycle r v need, s.writeLater_sameWay r v need, s.writeLater_cur r v need⟩

theorem State.onlySent.amid {s m : State} (h : s.onlySent m) : s.amid m := ⟨by rw [h], by rw [h.ctx]; exact .refl _, by rw [h]⟩

theorem State.sought.sameRegs {s m : State} (h : s.sought m) : s.sameRegs m := ⟨fun r => by rw [h.ctx], by rw [h.ctx]⟩

theorem State.onlySent.sameRegs {s m : State} (h : s.onlySent m) : s.sameRegs m := ⟨fun r => by rw [h.ctx], by rw [h.ctx]⟩

end Sys2Proof.Machine
end

section
/-! PROOF. O25: loads (R189 to R192). -/

namespace Sys2Proof.Machine

open Sys2Proof

/-- The state in which a load has sent its access, of a place that its check has given. -/
def State.sentLoad (u : State) (r : Reg) (rs : List Reg) (a : Word) (n : Nat) (f : LoadForm) (p : Place) : State :=
  (u.writeLater r 0 1).push ((u.writeLater r 0 1).newAcc p.key n a p.page (.load f u.seq) (u.holders p.key true rs))

/-- The state with the barrier of an acquire that the access numbered `q` makes. -/
def State.acquiring (u : State) (order : Option Scope) (q : Nat) : State :=
  match order with | some c => u.addBarrier { seq := q, scope := c, loads := true } | none => u

theorem State.acquiring_ctx (u : State) (order : Option Scope) (q : Nat) :
    (u.acquiring order q).ctx = { u.ctx with order := (u.acquiring order q).ctx.order } := by
  cases order with
  | none => rfl
  | some c =>
    unfold State.acquiring State.addBarrier
    rw [State.ctx_modCtx]

theorem State.acquiring_rest (u : State) (order : Option Scope) (q : Nat) :
    (u.acquiring order q).mem = u.mem ∧ (u.acquiring order q).accs = u.accs ∧ (u.acquiring order q).cycle = u.cycle ∧ (u.acquiring order q).cur = u.cur := by
  cases order <;> exact ⟨rfl, rfl, rfl, rfl⟩

theorem State.load_eq {s u : State} {a : Word} {n : Nat} {p : Place} {h : Nat} (ok : s.check .load a n n s.exchange = (u, .ok p, h)) (sw : Bool) (size : Nat)
    (r : Reg) (rs : List Reg) (f : LoadForm) (order : Option Scope) (k : State → Nat → State) :
    s.load sw size r rs a n f order k = (k ((u.sentLoad r rs a n f p).acquiring order (u.seq + 1)) (u.seq + 1)).retireAfter sw size h := by
  unfold State.load
  rw [State.access_ok ok]
  dsimp only
  rw [State.writeLater_seq]
  cases order <;> rfl

/-- What a load that has sent its access leaves. -/
structure State.loads (s t : State) (r : Reg) (a : Word) (n : Nat) (f : LoadForm) (p : Place) : Prop where
  awaits : s.awaits t r 0 1
  mem : t.mem = s.mem
  sent : ∃ x ∈ t.accs, x.seq = s.seq + 1 ∧ x.ctx = s.cur ∧ x.key = p.key ∧ x.len = n ∧ x.op = .load f s.seq ∧ x.iaddr = s.ctx.pc ∧ x.caddr = a
  one : t.accs.length = s.accs.length + 1
  kept : ∀ x ∈ s.accs, x ∈ t.accs

theorem State.sentLoad_loads {s u : State} {rs rs' : List Reg} (found : (s.issued rs).sought u) (r : Reg) (a : Word) (n : Nat) (f : LoadForm) (p : Place)
    (order : Option Scope) (q : Nat) :
    s.loads ((u.sentLoad r rs' a n f p).acquiring order q) r a n f p ∧ s.amid ((u.sentLoad r rs' a n f p).acquiring order q) := by
  have amidu : s.amid u := (s.issued_amid rs).trans found.amid
  have same : s.sameRegs u := (s.issued_sameRegs rs).trans found.sameRegs
  obtain ⟨mem, accs, cycle, cur⟩ := (u.sentLoad r rs' a n f p).acquiring_rest order q
  have ctx := (u.sentLoad r rs' a n f p).acquiring_ctx order q
  have sent : (u.sentLoad r rs' a n f p).ctx = (u.writeLater r 0 1).ctx := rfl
  have list : (u.sentLoad r rs' a n f p).accs = s.accs ++ [(u.writeLater r 0 1).newAcc p.key n a p.page (.load f u.seq) (u.holders p.key true rs')] := by
    show (u.writeLater r 0 1).accs ++ _ = _
    rw [State.writeLater_accs, found.accs]
    rfl
  have late : u.amid (u.writeLater r 0 1) := u.writeLater_amid r 0 1
  refine ⟨⟨?_, ?_, ?_, ?_, ?_⟩, ?_⟩
  · refine ((u.writeLater_awaits r 0 1).of_sameRegs same found.seq).then_sameRegs ⟨fun x => ?_, ?_⟩
    · rw [ctx, sent]; exact Ctx.reg_congr rfl rfl rfl x
    · rw [ctx, sent]
  · rw [mem]
    exact (u.writeLater_mem r 0 1).trans found.mem
  · refine ⟨_, by rw [accs, list]; exact List.mem_append_right _ (List.mem_singleton.2 rfl), ?_, (amidu.trans late).cur, rfl, rfl, ?_, (amidu.trans late).pc, rfl⟩
    · exact (u.writeLater_seq r 0 1).trans (congrArg (· + 1) found.seq)
    · exact congrArg (AccOp.load f) found.seq
  · rw [accs, list, List.length_append]; rfl
  · rw [accs, list]
    exact fun x hx => List.mem_append_left _ hx
  · refine (amidu.trans late).trans ⟨cycle, ?_, cur⟩
    rw [ctx, sent]
    exact ⟨rfl, rfl, rfl, rfl, rfl, rfl⟩

theorem State.amid.modCtx {s m : State} (h : s.amid m) {f : Ctx → Ctx} (way : m.ctx.sameWay (f m.ctx)) : s.amid (m.modCtx f) :=
  h.trans ⟨rfl, by rw [State.ctx_modCtx]; exact way, rfl⟩

theorem State.loads.modCtx {s t : State} {r : Reg} {a : Word} {n : Nat} {l : LoadForm} {p : Place} (h : s.loads t r a n l p) {f : Ctx → Ctx}
    (same : t.sameRegs (t.modCtx f)) : s.loads (t.modCtx f) r a n l p where
  awaits := h.awaits.then_sameRegs same
  mem := h.mem
  sent := h.sent
  one := h.one
  kept := h.kept

theorem Ctx.setTaint_sameRegs (t : State) (x : TReg) (ts : Ctx → List Nat) : t.sameRegs (t.modCtx fun c => c.setTaint x (ts c)) :=
  ⟨fun q => by rw [State.ctx_modCtx, Ctx.setTaint_only]; exact Ctx.reg_congr rfl rfl rfl q, by rw [State.ctx_modCtx, Ctx.setTaint_only]⟩

/-- A load whose address passes its checks sends its access, and goes on when they are complete. -/
theorem State.load_sends {s u : State} {rs : List Reg} {a : Word} {n : Nat} {p : Place} {h : Nat}
    (ok : (s.issued rs).check .load a n n s.exchange = (u, .ok p, h)) (sw : Bool) (size : Nat) (r : Reg) (rs' : List Reg) (f : LoadForm) (order : Option Scope) :
    s.loads ((s.issued rs).load sw size r rs' a n f order fun s _ => s) r a n f p ∧
      s.goesOn ((s.issued rs).load sw size r rs' a n f order fun s _ => s) sw size h := by
  obtain ⟨loads, amid⟩ := State.sentLoad_loads (rs' := rs') ((State.check_sought ..).of_fst ok) r a n f p order (u.seq + 1)
  rw [State.load_eq (s := s.issued rs) ok]
  exact ⟨loads.modCtx (State.retireAfter_sameRegs _ sw size h), amid.goesOn sw size h⟩

/-- A load whose destination is tainted by it (R192). -/
theorem State.ldc_sends {s u : State} {rs : List Reg} {a : Word} {n : Nat} {p : Place} {h : Nat}
    (ok : (s.issued rs).check .load a n n s.exchange = (u, .ok p, h)) (sw : Bool) (size : Nat) (r : Reg) (rs' : List Reg) (f : LoadForm) :
    s.loads ((s.issued rs).load sw size r rs' a n f none fun s q => s.modCtx fun c => c.setTaint (.reg r) (c.inTaint ++ [q])) r a n f p ∧
      s.goesOn ((s.issued rs).load sw size r rs' a n f none fun s q => s.modCtx fun c => c.setTaint (.reg r) (c.inTaint ++ [q])) sw size h := by
  obtain ⟨loads, amid⟩ := State.sentLoad_loads (rs' := rs') ((State.check_sought ..).of_fst ok) r a n f p none (u.seq + 1)
  rw [State.load_eq (s := s.issued rs) ok]
  exact ⟨(loads.modCtx (Ctx.setTaint_sameRegs _ _ fun c => c.inTaint ++ [u.seq + 1])).modCtx (State.retireAfter_sameRegs _ sw size h),
    (amid.modCtx (by rw [Ctx.setTaint_only]; exact ⟨rfl, rfl, rfl, rfl, rfl, rfl⟩)).goesOn sw size h⟩

theorem Ctx.sequential_order (c : Ctx) (size : Nat) : (c.sequential size).order = c.order := by rw [Ctx.sequential_only]
theorem Ctx.sequential_taints (c : Ctx) (size : Nat) : (c.sequential size).taints = c.taints := by rw [Ctx.sequential_only]

/-- An acquire holds what comes after it (R191). -/
theorem State.load_acquires {s u : State} {rs : List Reg} {a : Word} {n : Nat} {p : Place} {h : Nat}
    (ok : (s.issued rs).check .load a n n s.exchange = (u, .ok p, h)) (sw : Bool) (size : Nat) (r : Reg) (rs' : List Reg) (f : LoadForm) (c : Scope) :
    ⟨s.seq + 1, c, true⟩ ∈ ((s.issued rs).load sw size r rs' a n f (some c) fun s _ => s).ctx.order := by
  have seq : u.seq = s.seq := ((State.check_sought ..).of_fst ok).seq
  rw [State.load_eq (s := s.issued rs) ok, State.retireAfter_ctx, Ctx.sequential_order, State.acquiring, State.addBarrier, State.ctx_modCtx, seq]
  exact List.mem_append_right _ (List.mem_singleton.2 rfl)

/-- LDC's destination carries its taint (R192). -/
theorem State.ldc_taints {s u : State} {rs : List Reg} {a : Word} {n : Nat} {p : Place} {h : Nat}
    (ok : (s.issued rs).check .load a n n s.exchange = (u, .ok p, h)) (sw : Bool) (size : Nat) {d : BitVec 5} (hd : d ≠ 0) (rs' : List Reg) (f : LoadForm) :
    (.reg (.x d), s.seq + 1) ∈
      ((s.issued rs).load sw size (.x d) rs' a n f none fun s q => s.modCtx fun c => c.setTaint (.reg (.x d)) (c.inTaint ++ [q])).ctx.taints := by
  have seq : u.seq = s.seq := ((State.check_sought ..).of_fst ok).seq
  rw [State.load_eq (s := s.issued rs) ok, State.retireAfter_ctx, Ctx.sequential_taints, State.ctx_modCtx, seq]
  unfold Ctx.setTaint
  rw [if_neg (by simpa using hd)]
  simp

/-- The state in which a VLD has sent its accesses. -/
def State.sentWords (u : State) (d : BitVec 5) (a : Word) (rs : List Reg) (p : Place) : State :=
  State.pushLanes (u.writeLater (.v d) 0 8).seq (fun x i =>
    x.newAcc (p.key + 8 * i) 8 (a + BitVec.ofNat 64 (8 * i)) p.page (.load (.lane i 64) u.seq) (u.holders p.key true rs)) words8 (u.writeLater (.v d) 0 8)

/-- The barriers of an ordered VLD. -/
def State.acquiringWords (u : State) (o : Bool) (c : Scope) (q : Nat) : State :=
  if o then u.modCtx fun x => { x with order := x.order ++ words8.map fun i => { seq := q + i, scope := c, loads := true } } else u

theorem State.acquiringWords_same (u : State) (o : Bool) (c : Scope) (q : Nat) :
    u.amid (u.acquiringWords o c q) ∧ u.sameRegs (u.acquiringWords o c q) ∧ (u.acquiringWords o c q).accs = u.accs ∧ (u.acquiringWords o c q).mem = u.mem := by
  unfold State.acquiringWords
  split
  · refine ⟨⟨rfl, ?_, rfl⟩, ⟨fun r => ?_, ?_⟩, rfl, rfl⟩
    · rw [State.ctx_modCtx]; exact ⟨rfl, rfl, rfl, rfl, rfl, rfl⟩
    · rw [State.ctx_modCtx]; exact Ctx.reg_congr rfl rfl rfl r
    · rw [State.ctx_modCtx]
  · exact ⟨⟨rfl, .refl _, rfl⟩, .refl _, rfl, rfl⟩

theorem exec_vld (s u : State) (sw : Bool) (d a b : BitVec 5) (c : Scope) (o : Bool) (k : BitVec 2) (e : Ext) (p : Place) (h : Nat)
    (ready : s.ready [.x a, .x b, .v d]) (ok : (s.issued [.x a, .x b]).check .load (s.address a b k e) 64 64 s.exchange = (u, .ok p, h)) :
    exec (.vld sw d a b c o k e) s = .next (((u.sentWords d (s.address a b k e) [.x a, .x b] p).acquiringWords o c
      (u.writeLater (.v d) 0 8).seq).retireAfter sw (extBytes e) h) := by
  have run : exec (.vld sw d a b c o k e) s = execVld sw d a b c o k e s := rfl
  unfold execVld at run
  rw [State.issue_issued (ready.mono (by simp))] at run
  dsimp only at run
  rw [State.address_issued, State.access_ok ok] at run
  exact run

/-- VLD whose address passes its checks sends the accesses of its eight words (R190). -/
theorem State.vld_sends {s u : State} (sw : Bool) (d a b : BitVec 5) (c : Scope) (o : Bool) (k : BitVec 2) (e : Ext) {p : Place} {h : Nat}
    (ready : s.ready [.x a, .x b, .v d]) (ok : (s.issued [.x a, .x b]).check .load (s.address a b k e) 64 64 s.exchange = (u, .ok p, h)) :
    ∃ t, exec (.vld sw d a b c o k e) s = .next t ∧ s.awaits t (.v d) 0 8 ∧ s.goesOn t sw (extBytes e) h ∧ t.mem = s.mem ∧
      (∀ i < 8, ∃ x ∈ t.accs, x.seq = s.seq + 1 + i ∧ x.ctx = s.cur ∧ x.key = p.key + 8 * i ∧ x.len = 8 ∧ x.op = .load (.lane i 64) s.seq ∧
        x.iaddr = s.ctx.pc ∧ x.caddr = s.address a b k e + BitVec.ofNat 64 (8 * i)) ∧ t.accs.length = s.accs.length + 8 ∧ ∀ x ∈ s.accs, x ∈ t.accs := by
  have found : (s.issued [.x a, .x b]).sought u := (State.check_sought ..).of_fst ok
  have amid : s.amid (u.writeLater (.v d) 0 8) := ((s.issued_amid _).trans found.amid).trans (u.writeLater_amid _ _ _)
  have waits : s.awaits (u.writeLater (.v d) 0 8) (.v d) 0 8 :=
    (u.writeLater_awaits _ _ _).of_sameRegs ((s.issued_sameRegs _).trans found.sameRegs) found.seq
  have seq : (u.writeLater (.v d) 0 8).seq = s.seq + 1 := (u.writeLater_seq _ _ _).trans (congrArg (· + 1) found.seq)
  have accs : (u.writeLater (.v d) 0 8).accs = s.accs := (u.writeLater_accs _ _ _).trans found.accs
  obtain ⟨only, length, kept, each⟩ := State.pushLanes_words8 (u.writeLater (.v d) 0 8).seq (fun x i =>
    x.newAcc (p.key + 8 * i) 8 (s.address a b k e + BitVec.ofNat 64 (8 * i)) p.page (.load (.lane i 64) u.seq) (u.holders p.key true [.x a, .x b])) p
    (u.writeLater (.v d) 0 8)
  obtain ⟨amid', same', accs', mem'⟩ := (u.sentWords d (s.address a b k e) [.x a, .x b] p).acquiringWords_same o c (u.writeLater (.v d) 0 8).seq
  refine ⟨_, exec_vld s u sw d a b c o k e p h ready ok, ?_, ((amid.trans only.amid).trans amid').goesOn sw _ h, ?_, fun i hi => ?_, ?_, ?_⟩
  · exact ((waits.then_sameRegs only.sameRegs).then_sameRegs same').then_sameRegs (State.retireAfter_sameRegs ..)
  · refine mem'.trans ?_
    unfold State.sentWords
    rw [only]
    exact (u.writeLater_mem _ _ _).trans found.mem
  · obtain ⟨x, sent, at_, mem⟩ := each i hi
    have there : s.amid x := amid.trans sent.amid
    exact ⟨_, accs' ▸ mem, at_.trans (by rw [seq]), there.cur, rfl, rfl, congrArg (AccOp.load _) found.seq, there.pc, rfl⟩
  · exact (congrArg List.length accs').trans (length.trans (by rw [accs]))
  · exact fun x hx => accs' ▸ kept x (accs ▸ hx)

/-- Settles O25: a load whose address passes sends its access to the place that the check has given. -/
theorem loadsSendTheirAccesses : Obligations.LoadsSendTheirAccesses := by
  unfold Obligations.LoadsSendTheirAccesses
  intro s u sw d a b w m c o k e p h size A goes sends one
  have addr : (s.issued [.x a, .x b]).address a b k e = A := s.address_issued _ a b k e
  have plain {j : Instr} {r : Reg} {n : Nat} {f : LoadForm} {order : Option Scope}
      (run : exec j s = .next (s.issue [.x a, .x b] [r] fun s => s.load sw (extBytes e) r [.x a, .x b] (s.address a b k e) n f order fun s _ => s))
      (hr : r = .x d ∨ r = .v d) : one j r n f := by
    rintro ⟨ready, ok⟩
    rw [State.issue_issued (ready.mono (by rcases hr with rfl | rfl <;> simp)), addr] at run
    obtain ⟨⟨awaits, mem, ⟨x, hx, fields⟩, length, kept⟩, goes⟩ := State.load_sends ok sw (extBytes e) r [.x a, .x b] f order
    exact ⟨_, run, awaits, goes, mem, ⟨x, hx, by simpa using fields⟩, length, kept⟩
  have ldc : exec (.ldc sw d a b w k e) s = .next (s.issue [.x a, .x b] [.x d] fun s => s.load sw (extBytes e) (.x d) [.x a, .x b] (s.address a b k e) (ldBytes w)
    (.scalar w) none fun s q => s.modCtx fun c => c.setTaint (.reg (.x d)) (c.inTaint ++ [q])) := rfl
  refine ⟨plain rfl (.inl rfl), ?_, plain rfl (.inr rfl), fun ⟨ready, ok⟩ => State.vld_sends sw d a b c o k e (ready.mono (by simp)) ok, fun ⟨ready, ok⟩ t run => ?_, fun ⟨ready, ok⟩ hd t run => ?_⟩
  · rintro ⟨ready, ok⟩
    rw [State.issue_issued (ready.mono (by simp)), addr] at ldc
    obtain ⟨⟨awaits, mem, ⟨x, hx, fields⟩, length, kept⟩, goes⟩ := State.ldc_sends ok sw (extBytes e) (.x d) [.x a, .x b] (.scalar w)
    exact ⟨_, ldc, awaits, goes, mem, ⟨x, hx, by simpa using fields⟩, length, kept⟩
  · have ld : exec (.ld sw d a b w c true k e) s = .next (s.issue [.x a, .x b] [.x d] fun s => s.load sw (extBytes e) (.x d) [.x a, .x b] (s.address a b k e) (ldBytes w)
      (.scalar w) (some c) fun s _ => s) := rfl
    rw [State.issue_issued (ready.mono (by simp)), addr, run] at ld
    cases ld
    exact State.load_acquires ok sw _ _ _ _ c
  · rw [State.issue_issued (ready.mono (by simp)), addr, run] at ldc
    cases ldc
    exact State.ldc_taints ok sw _ hd _ _

end Sys2Proof.Machine
end

section
/-! PROOF. O26 and O27: stores, gather and scatter (R189 to R193). -/

namespace Sys2Proof.Machine

open Sys2Proof

theorem State.sign_same (s : State) (addr width : Nat) (data : List Byte) :
    s.amid (s.sign addr width data) ∧ s.sameRegs (s.sign addr width data) ∧ (s.sign addr width data).accs = s.accs ∧ (s.sign addr width data).mem = s.mem := by
  rw [State.sign_only]
  exact ⟨⟨rfl, .refl _, rfl⟩, .refl s, rfl, rfl⟩

theorem State.onlySent.mem {s t : State} (h : s.onlySent t) : t.mem = s.mem := by rw [h]

theorem State.sought.within {s t : State} (h : s.sought t) (c : Scope) (key : Nat) : t.within c key = s.within c key := by
  unfold State.within
  rw [h.core]

/-- A release waits for every earlier access of its context within its scope (R191). -/
theorem State.mem_storeAfter {s u : State} {rs : List Reg} (h : (s.issued rs).sought u) {y : Acc} (hy : y ∈ s.accs) {o : Bool} {c : Scope}
    (ho : o = true) (ctx : y.ctx = s.cur) (within : s.within c y.key = true) (tagged : ∀ g, y.op ≠ .tagged g) (arrive : ∀ g v r, y.op ≠ .arrive g v r)
    (swatch : ∀ g v r, y.op ≠ .swatch g v r) (key : Nat) (rs' : List Reg) : y.seq ∈ u.storeAfter o c key rs' := by
  unfold State.storeAfter State.earlier
  rw [if_pos ho, h.accs, h.cur]
  refine List.mem_append_right _ (List.mem_map_of_mem (List.mem_filter.2 ⟨hy, ?_⟩))
  rw [h.within]
  have same : (s.issued rs).within c y.key = s.within c y.key := rfl
  have cur : (s.issued rs).cur = s.cur := rfl
  rw [same, cur, within, decide_eq_true ctx]
  cases op : y.op with
  | tagged g => exact absurd op (tagged g)
  | arrive g v r => exact absurd op (arrive g v r)
  | swatch g v r => exact absurd op (swatch g v r)
  | _ => rfl

theorem exec_st (s u : State) (sw : Bool) (d a b : BitVec 5) (w : MemWidth) (c : Scope) (o : Bool) (k : BitVec 2) (e : Ext) (p : Place) (h : Nat)
    (ready : s.ready [.x a, .x b, .x d])
    (ok : (s.issued [.x a, .x b, .x d]).check .store (s.address a b k e) (memBytes w) (memBytes w) s.exchange = (u, .ok p, h)) :
    exec (.st sw d a b w c o k e) s = .next (((u.push (u.newAcc p.key (memBytes w) (s.address a b k e) p.page
      (.store (bytesOfNat (u.readX d).toNat (memBytes w))) (u.storeAfter o c p.key [.x a, .x b]))).sign (s.address a b k e).toNat (memBytes w)
      (bytesOfNat (u.readX d).toNat (memBytes w))).retireAfter sw (extBytes e) h) := by
  have run : exec (.st sw d a b w c o k e) s = execSt sw d a b w c o k e s := rfl
  unfold execSt at run
  rw [State.issue_issued (by simpa using ready)] at run
  dsimp only at run
  rw [State.address_issued, State.access_ok ok] at run
  exact run

theorem exec_vst (s u : State) (sw : Bool) (d a b : BitVec 5) (c : Scope) (o : Bool) (k : BitVec 2) (e : Ext) (p : Place) (h : Nat)
    (ready : s.ready [.x a, .x b, .v d])
    (ok : (s.issued [.x a, .x b, .v d]).check .store (s.address a b k e) 64 64 s.exchange = (u, .ok p, h)) :
    exec (.vst sw d a b c o k e) s = .next (((State.pushLanes u.seq (fun x i => x.newAcc (p.key + 8 * i) 8 (s.address a b k e + BitVec.ofNat 64 (8 * i)) p.page
      (.store (bytesOfNat (lane (u.readV d) 64 i) 8)) (u.storeAfter o c p.key [.x a, .x b])) words8 u).sign (s.address a b k e).toNat 64
      (bytesOfNat (u.readV d).toNat 64)).retireAfter sw (extBytes e) h) := by
  have run : exec (.vst sw d a b c o k e) s = execVst sw d a b c o k e s := rfl
  unfold execVst at run
  rw [State.issue_issued (by simpa using ready)] at run
  dsimp only at run
  rw [State.address_issued, State.access_ok ok] at run
  exact run

/-- Settles O26: a store whose address passes sends its bytes to the place that the check has given. -/
theorem storesSendTheirBytes : Obligations.StoresSendTheirBytes := by
  unfold Obligations.StoresSendTheirBytes
  intro s u sw d a b w c o k e p h size A goes goesV sends
  constructor
  · rintro ⟨ready, ok⟩
    have found := (State.check_sought ..).of_fst ok
    have amid : s.amid u := (s.issued_amid _).trans found.amid
    have value : u.readX d = s.readX d := by
      unfold State.readX
      rw [found.ctx]
      exact s.readX_issued _ d
    have run := exec_st s u sw d a b w c o k e p h (ready.mono (by simp)) ok
    rw [value] at run
    set x := u.newAcc p.key (memBytes w) A p.page (.store (bytesOfNat (s.readX d).toNat (memBytes w))) (u.storeAfter o c p.key [.x a, .x b]) with hx
    obtain ⟨amid', same', accs', mem'⟩ := (u.push x).sign_same A.toNat (memBytes w) (bytesOfNat (s.readX d).toNat (memBytes w))
    have pushed := u.push_onlySent x
    have list : (u.push x).accs = s.accs ++ [x] := congrArg (· ++ [x]) found.accs
    refine ⟨_, run, ?_, ((amid.trans pushed.amid).trans amid').goesOn sw _ h, mem'.trans found.mem, ⟨x, ?_, ?_⟩, ?_, ?_⟩
    · exact (((((s.issued_sameRegs _).trans found.sameRegs).trans pushed.sameRegs).trans same').trans (State.retireAfter_sameRegs ..))
    · exact accs' ▸ list ▸ List.mem_append_right _ (List.mem_singleton.2 rfl)
    · exact ⟨found.seq, amid.cur, rfl, rfl, rfl, amid.pc, fun ho y hy ctx within tag arr sw => State.mem_storeAfter found hy ho ctx within tag arr sw _ _⟩
    · exact (congrArg List.length (accs'.trans list)).trans (by rw [List.length_append]; rfl)
    · exact fun y hy => accs' ▸ list ▸ List.mem_append_left _ hy
  · rintro ⟨ready, ok⟩
    have found := (State.check_sought ..).of_fst ok
    have amid : s.amid u := (s.issued_amid _).trans found.amid
    have value : u.readV d = s.readV d := by
      unfold State.readV
      rw [found.ctx]
      exact s.readV_inTaint _ d
    have run := exec_vst s u sw d a b c o k e p h (ready.mono (by simp)) ok
    rw [value] at run
    obtain ⟨only, length, kept, each⟩ := State.pushLanes_words8 u.seq (fun x i => x.newAcc (p.key + 8 * i) 8 (A + BitVec.ofNat 64 (8 * i)) p.page
      (.store (bytesOfNat (lane (s.readV d) 64 i) 8)) (u.storeAfter o c p.key [.x a, .x b])) p u
    generalize State.pushLanes u.seq _ words8 u = m at run only length kept each
    obtain ⟨amid', same', accs', mem'⟩ := m.sign_same A.toNat 64 (bytesOfNat (s.readV d).toNat 64)
    refine ⟨_, run, ?_, ((amid.trans only.amid).trans amid').goesOn sw _ h, ?_, fun i hi => ?_, ?_, fun y hy => ?_⟩
    · exact (((((s.issued_sameRegs _).trans found.sameRegs).trans only.sameRegs).trans same').trans (State.retireAfter_sameRegs ..))
    · refine mem'.trans ?_
      rw [only]
      exact found.mem
    · obtain ⟨x, sent, at_, mem⟩ := each i hi
      have there : s.amid x := amid.trans sent.amid
      exact ⟨_, accs' ▸ mem, at_.trans (by rw [found.seq]; rfl), there.cur, rfl, rfl, rfl, there.pc,
        fun ho y hy ctx within tag arr sw => State.mem_storeAfter found hy ho ctx within tag arr sw _ _⟩
    · exact (congrArg List.length accs').trans (length.trans (by rw [found.accs]; rfl))
    · exact accs' ▸ kept y (found.accs ▸ hy)

/-! ## Gather and scatter (R193) -/

theorem State.checkLanes_sought (acc : Access) (n : Nat) (at_ : Nat → Word) : ∀ (is : List Nat) (s : State), s.sought (State.checkLanes acc n at_ is s).1
  | [], s => .refl s
  | i :: is, s => by
    have first := s.check_sought acc (at_ i) n n s.exchange
    unfold State.checkLanes
    split
    case h_1 t f h e => exact first.of_fst e
    case h_2 t p h e =>
      have rest := State.checkLanes_sought acc n at_ is t
      have here := first.of_fst e
      split
      case h_1 u f g e' => exact here.trans (rest.of_fst e')
      case h_2 u ps g e' => exact here.trans (rest.of_fst e')

/-- The places that passed are those of the lanes, in their order. -/
theorem State.checkLanes_lanes (acc : Access) (n : Nat) (at_ : Nat → Word) : ∀ (is : List Nat) (s u : State) (ps : List (Nat × Place)) (h : Nat),
    State.checkLanes acc n at_ is s = (u, .ok ps, h) → ps.map (·.1) = is
  | [], s, u, ps, h, e => by cases e; rfl
  | i :: is, s, u, ps, h, e => by
    unfold State.checkLanes at e
    split at e
    case h_1 => cases e
    case h_2 t p g first =>
      split at e
      case h_1 => cases e
      case h_2 v qs g' rest =>
        cases e
        exact congrArg (i :: ·) (State.checkLanes_lanes acc n at_ is t _ qs g' rest)

theorem State.laneAddr_eq (s : State) (rs : List Reg) (a b : BitVec 5) (w : Nat) (k : BitVec 2) (i : Nat) :
    (s.issued rs).laneAddr a b w k i = s.readX a + BitVec.ofNat 64 (lane (s.readV b) w i) <<< k.toNat := by
  unfold State.laneAddr
  rw [State.readX_issued, show (s.issued rs).readV b = s.readV b from s.readV_inTaint _ b]

theorem State.activeLanes_eq (s : State) (rs : List Reg) (m : BitVec 3) (w : Nat) :
    (s.issued rs).activeLanes m w = (List.range (512 / w)).filter fun i => decide (m = 0) || (s.readP m).getLsbD i := by
  unfold State.activeLanes
  rw [show (s.issued rs).maskAt m = s.maskAt m from s.maskAt_inTaint _ m]
  rfl

theorem State.logEntry_accs (s : State) (withJob : Bool) (cls cause source : Nat) (detail : BitVec 32) (addr : Word) :
    (s.logEntry withJob cls cause source detail addr).accs = s.accs := by rw [State.logEntry_only]

theorem State.logTrap_accs (s : State) (t : TrapInfo) : (s.logTrap t).accs = s.accs := by
  unfold State.logTrap
  split
  · exact State.logEntry_accs ..
  · rfl

theorem State.raise_accs {s : State} (h : s.ctx.trappable) (t : TrapInfo) : (s.raise t).accs = s.accs := by
  have same := State.logTrap_ctx s t
  rw [State.raise, State.takeTrap_trappable (by rwa [same])]
  split
  · rw [State.trace_only]
    exact State.logTrap_accs s t
  · exact State.logTrap_accs s t

/-- Whether a trap is logged does not matter to the handler's entry. -/
theorem Ctx.entered.of_logged {c d : Ctx} {t : TrapInfo} {b : Bool} {v : Word} (h : c.entered d { t with log := b } v) : c.entered d t v := { h with }

/-- A failed check traps, or holds its trap until it is complete (R51). -/
theorem State.trapAccess_failed {s u : State} {rs : List Reg} (trappable : s.ctx.trappable) (found : (s.issued rs).sought u) (f : AccessFault) (h : Nat) :
    s.failed (u.trapAccess f h) f h ∧ (u.trapAccess f h).accs = s.accs := by
  have ctx : u.ctx = (s.issued rs).ctx := found.ctx
  have able : u.ctx.trappable := ctx ▸ State.issued_trappable trappable rs
  have pc : u.pc = s.ctx.pc := (congrArg Ctx.pc ctx).trans (s.issued_sameWay rs).pc
  unfold State.trapAccess State.raiseAfter
  rw [pc]
  by_cases now : h ≤ 1
  · rw [if_pos now]
    refine ⟨⟨fun _ => ?_, fun later => absurd now (Nat.not_le.2 later)⟩, (State.raise_accs able _).trans found.accs⟩
    have entered := State.raise_entered able { TrapInfo.at s.ctx.pc f.cause f.detail f.addr with log := f.isViolation }
    rw [ctx, State.issued_ctx, found.job] at entered
    exact entered.of_inTaint.of_logged
  · rw [if_neg now]
    refine ⟨⟨fun le => absurd le now, fun _ => ⟨⟨fun r => ?_, ?_⟩, found.mem, ?_, ?_, ?_, ?_⟩⟩, found.accs⟩
    all_goals rw [State.ctx_modCtx, ctx, State.issued_ctx]
    · exact Ctx.reg_congr rfl rfl rfl r
    · rw [found.cycle]; rfl

section
variable {s u : State} (sw : Bool) (d a b : BitVec 5) (w : MemWidth) (m : BitVec 3) (k : BitVec 2) {h : Nat}

/-- The address of a lane, as it is at issue. -/
def State.laneAt (s : State) (a b : BitVec 5) (w : MemWidth) (k : BitVec 2) (i : Nat) : Word :=
  s.readX a + BitVec.ofNat 64 (lane (s.readV b) (memBits w) i) <<< k.toNat

/-- The active lanes of a gather or scatter. -/
def State.lanesAt (s : State) (m : BitVec 3) (w : MemWidth) : List Nat := (List.range (512 / memBits w)).filter fun i => decide (m = 0) || (s.readP m).getLsbD i

/-- The registers that VGTH reads. -/
def gatherRegs (a b d : BitVec 5) (m : BitVec 3) : List Reg := [.x a, .v b] ++ maskRegs m ++ if m = 0 then [] else [.v d]

theorem exec_vgth (ready : s.ready (gatherRegs a b d m ++ [.v d])) :
    exec (.vgth sw d a b w m k) s = .next (
      match State.checkLanes .load (memBytes w) (s.laneAt a b w k) (s.lanesAt m w) (s.issued (gatherRegs a b d m)) with
      | (t, .error f, h) => t.trapAccess f h
      | (t, .ok ps, h) =>
        (State.pushPlaces (t.writeLater (.v d) (t.readV d) ps.length).seq (fun x i p =>
          x.newAcc p.key (memBytes w) (t.laneAddr a b (memBits w) k i) p.page (.load (.lane i (memBits w)) t.seq)
            (t.holders p.key true [.x a, .v b])) ps (t.writeLater (.v d) (t.readV d) ps.length)).retireAfter sw 4 h) := by
  have run : exec (.vgth sw d a b w m k) s = execVgth sw d a b w m k s := rfl
  unfold execVgth at run
  rw [show [Reg.x a, .v b] ++ maskRegs m ++ (if m = 0 then [] else [.v d]) = gatherRegs a b d m from rfl, State.issue_issued ready] at run
  dsimp only at run
  have addr : (s.issued (gatherRegs a b d m)).laneAddr a b (memBits w) k = s.laneAt a b w k := funext (s.laneAddr_eq _ a b (memBits w) k)
  rw [State.activeLanes_eq, addr] at run
  rw [run]
  rfl

theorem exec_vsct (ready : s.ready ([.x a, .v b] ++ maskRegs m ++ [.v d])) :
    exec (.vsct sw d a b w m k) s = .next (
      match State.checkLanes .store (memBytes w) (s.laneAt a b w k) (s.lanesAt m w) (s.issued ([.x a, .v b] ++ maskRegs m ++ [.v d])) with
      | (t, .error f, h) => t.trapAccess f h
      | (t, .ok ps, h) =>
        (State.signLanes (memBits w) (t.laneAddr a b (memBits w) k) (t.readV d) (ps.map (·.1)) (State.pushPlaces t.seq (fun x i p =>
          x.newAcc p.key (memBytes w) (t.laneAddr a b (memBits w) k i) p.page
            (.store (bytesOfNat (lane (t.readV d) (memBits w) i) (memBytes w))) (t.holders p.key false [.x a, .v b])) ps t)).retireAfter sw 4 h) := by
  have run : exec (.vsct sw d a b w m k) s = execVsct sw d a b w m k s := rfl
  unfold execVsct at run
  generalize [Reg.x a, .v b] ++ maskRegs m ++ [.v d] = rs at *
  rw [State.issue_issued (by simpa using ready)] at run
  dsimp only at run
  have addr : (s.issued rs).laneAddr a b (memBits w) k = s.laneAt a b w k := funext (s.laneAddr_eq _ a b (memBits w) k)
  rw [State.activeLanes_eq, addr] at run
  rw [run]
  rfl

theorem State.signLanes_same (w : Nat) (at_ : Nat → Word) (v : Vec) : ∀ (is : List Nat) (s : State),
    s.amid (State.signLanes w at_ v is s) ∧ s.sameRegs (State.signLanes w at_ v is s) ∧ (State.signLanes w at_ v is s).accs = s.accs ∧
      (State.signLanes w at_ v is s).mem = s.mem
  | [], s => ⟨⟨rfl, .refl _, rfl⟩, .refl s, rfl, rfl⟩
  | i :: is, s => by
    obtain ⟨amid, same, accs, mem⟩ := s.sign_same (at_ i).toNat (w / 8) (bytesOfNat (lane v w i) (w / 8))
    obtain ⟨amid', same', accs', mem'⟩ := State.signLanes_same w at_ v is (s.sign (at_ i).toNat (w / 8) (bytesOfNat (lane v w i) (w / 8)))
    exact ⟨amid.trans amid', same.trans same', accs'.trans accs, mem'.trans mem⟩

/-- What the checks of a gather or scatter leave its registers' values. -/
theorem State.sought.reads {rs : List Reg} (found : (s.issued rs).sought u) (r : BitVec 5) :
    u.readV r = s.readV r ∧ ∀ i, u.laneAddr a b (memBits w) k i = s.laneAt a b w k i := by
  constructor
  · unfold State.readV
    rw [found.ctx]
    exact s.readV_inTaint _ r
  · intro i
    unfold State.laneAddr State.readX State.readV
    rw [found.ctx]
    exact s.laneAddr_eq rs a b (memBits w) k i

/-- VGTH whose lanes pass their checks sends one access for each (R193). -/
theorem State.vgth_sends (ready : s.ready (gatherRegs a b d m ++ [.v d])) {ps : List (Nat × Place)}
    (ok : State.checkLanes .load (memBytes w) (s.laneAt a b w k) (s.lanesAt m w) (s.issued (gatherRegs a b d m)) = (u, .ok ps, h)) :
    ∃ t, exec (.vgth sw d a b w m k) s = .next t ∧ s.awaits t (.v d) (s.readV d) ps.length ∧ s.goesOn t sw 4 h ∧ t.mem = s.mem ∧
      ps.map (·.1) = s.lanesAt m w ∧ t.accs.length = s.accs.length + ps.length ∧
      ∀ i p, (i, p) ∈ ps → ∃ x ∈ t.accs, x.key = p.key ∧ x.len = memBytes w ∧ x.op = .load (.lane i (memBits w)) s.seq ∧ x.ctx = s.cur ∧
        x.caddr = s.laneAt a b w k i := by
  have found := (State.checkLanes_sought ..).of_fst ok
  have lanes := State.checkLanes_lanes _ _ _ _ _ _ _ _ ok
  have run := exec_vgth sw d a b w m k ready
  rw [ok] at run
  dsimp only at run
  obtain ⟨old, addr⟩ := State.sought.reads a b w k found d
  rw [old] at run
  have amid : s.amid (u.writeLater (.v d) (s.readV d) ps.length) := ((s.issued_amid _).trans found.amid).trans (u.writeLater_amid _ _ _)
  have waits : s.awaits (u.writeLater (.v d) (s.readV d) ps.length) (.v d) (s.readV d) ps.length :=
    (u.writeLater_awaits _ _ _).of_sameRegs ((s.issued_sameRegs _).trans found.sameRegs) found.seq
  have accs : (u.writeLater (.v d) (s.readV d) ps.length).accs = s.accs := (u.writeLater_accs _ _ _).trans found.accs
  have mem : (u.writeLater (.v d) (s.readV d) ps.length).mem = s.mem := (u.writeLater_mem _ _ _).trans found.mem
  generalize u.writeLater (.v d) (s.readV d) ps.length = v at run amid waits accs mem
  obtain ⟨only, _, length, _, each⟩ := State.pushPlaces_sent v.seq (fun x i p => x.newAcc p.key (memBytes w) (u.laneAddr a b (memBits w) k i) p.page
    (.load (.lane i (memBits w)) u.seq) (u.holders p.key true [.x a, .v b])) ps v
  refine ⟨_, run, (waits.then_sameRegs only.sameRegs).then_sameRegs (State.retireAfter_sameRegs ..), (amid.trans only.amid).goesOn sw 4 h, ?_, lanes, ?_, ?_⟩
  · exact only.mem.trans mem
  · rw [← accs]
    exact length
  · intro i p hp
    obtain ⟨j, hj, e⟩ := List.getElem_of_mem hp
    obtain ⟨x, sent, _, at_⟩ := each j hj
    rw [e] at at_
    exact ⟨_, at_, rfl, rfl, congrArg (AccOp.load _) found.seq, (amid.trans sent.amid).cur, addr i⟩

/-- VSCT whose lanes pass their checks sends one store for each (R193). -/
theorem State.vsct_sends (ready : s.ready ([.x a, .v b] ++ maskRegs m ++ [.v d])) {ps : List (Nat × Place)}
    (ok : State.checkLanes .store (memBytes w) (s.laneAt a b w k) (s.lanesAt m w) (s.issued ([.x a, .v b] ++ maskRegs m ++ [.v d])) = (u, .ok ps, h)) :
    ∃ t, exec (.vsct sw d a b w m k) s = .next t ∧ s.sameRegs t ∧ s.goesOn t sw 4 h ∧ t.mem = s.mem ∧
      ps.map (·.1) = s.lanesAt m w ∧ t.accs.length = s.accs.length + ps.length ∧
      ∀ i p, (i, p) ∈ ps → ∃ x ∈ t.accs, x.key = p.key ∧ x.len = memBytes w ∧ x.op = .store (bytesOfNat (lane (s.readV d) (memBits w) i) (memBytes w)) ∧
        x.ctx = s.cur ∧ x.caddr = s.laneAt a b w k i := by
  have found := (State.checkLanes_sought ..).of_fst ok
  have lanes := State.checkLanes_lanes _ _ _ _ _ _ _ _ ok
  have run := exec_vsct sw d a b w m k ready
  rw [ok] at run
  dsimp only at run
  obtain ⟨old, addr⟩ := State.sought.reads a b w k found d
  rw [old] at run
  have amid : s.amid u := (s.issued_amid _).trans found.amid
  obtain ⟨only, _, length, _, each⟩ := State.pushPlaces_sent u.seq (fun x i p => x.newAcc p.key (memBytes w) (u.laneAddr a b (memBits w) k i) p.page
    (.store (bytesOfNat (lane (s.readV d) (memBits w) i) (memBytes w))) (u.holders p.key false [.x a, .v b])) ps u
  generalize State.pushPlaces u.seq _ ps u = v at run only length each
  obtain ⟨amid', same', accs', mem'⟩ := State.signLanes_same (memBits w) (u.laneAddr a b (memBits w) k) (s.readV d) (ps.map (·.1)) v
  refine ⟨_, run, ?_, ((amid.trans only.amid).trans amid').goesOn sw 4 h, ?_, lanes, ?_, ?_⟩
  · exact ((((s.issued_sameRegs _).trans found.sameRegs).trans only.sameRegs).trans same').trans (State.retireAfter_sameRegs ..)
  · exact mem'.trans (only.mem.trans found.mem)
  · exact (congrArg List.length accs').trans (length.trans (congrArg (·.length + ps.length) found.accs))
  · intro i p hp
    obtain ⟨j, hj, e⟩ := List.getElem_of_mem hp
    obtain ⟨x, sent, _, at_⟩ := each j hj
    rw [e] at at_
    exact ⟨_, accs' ▸ at_, rfl, rfl, rfl, (amid.trans sent.amid).cur, addr i⟩

end

/-- Settles O27: the lanes' checks decide what VGTH and VSCT send, or the trap that they take. -/
theorem gatherAndScatterSendEveryActiveLane : Obligations.GatherAndScatterSendEveryActiveLane := by
  unfold Obligations.GatherAndScatterSendEveryActiveLane
  intro s u sw d a b w m k ps h n lanes at_ rs gs fails ready
  have scatter : s.ready ([.x a, .v b] ++ maskRegs m ++ [.v d]) := ready.mono fun q hq => by
    rcases List.mem_append.1 hq with hq | hq
    · exact List.mem_append_left _ (List.mem_append_left _ hq)
    · exact List.mem_append_right _ hq
  refine ⟨fun ok => State.vgth_sends sw d a b w m k ready ok, fun ok => State.vsct_sends sw d a b w m k scatter ok, fun f fault trappable => ?_,
    fun f fault trappable => ?_⟩
  · have run := exec_vgth sw d a b w m k ready
    rw [show State.checkLanes .load (memBytes w) (s.laneAt a b w k) (s.lanesAt m w) (s.issued (gatherRegs a b d m)) = (u, .error f, h) from fault] at run
    obtain ⟨failed, accs⟩ := State.trapAccess_failed trappable ((State.checkLanes_sought ..).of_fst fault) f h
    exact ⟨_, run, accs, failed⟩
  · have run := exec_vsct sw d a b w m k scatter
    rw [show State.checkLanes .store (memBytes w) (s.laneAt a b w k) (s.lanesAt m w) (s.issued ([.x a, .v b] ++ maskRegs m ++ [.v d])) = (u, .error f, h)
      from fault] at run
    obtain ⟨failed, accs⟩ := State.trapAccess_failed trappable ((State.checkLanes_sought ..).of_fst fault) f h
    exact ⟨_, run, accs, failed⟩

end Sys2Proof.Machine
end

section
/-! SUPPORT. Accesses as they are performed (R302, R304). -/

namespace Sys2Proof.Machine

/-- Of a context, nothing has changed but what it orders, and its taints. -/
def Ctx.onlyOrder (c d : Ctx) : Prop := d = { c with order := d.order, taints := d.taints, inTaint := d.inTaint }

theorem Ctx.onlyOrder.trans {c d e : Ctx} (h : c.onlyOrder d) (k : d.onlyOrder e) : c.onlyOrder e := by
  unfold Ctx.onlyOrder at *
  rw [k, h]

theorem Ctx.onlyOrder.reg {c d : Ctx} (h : c.onlyOrder d) (r : Reg) : d.reg r = c.reg r := by
  rw [h]
  exact Ctx.reg_congr rfl rfl rfl r

theorem Ctx.onlyOrder.writes {c d : Ctx} (h : c.onlyOrder d) : d.writes = c.writes := by rw [h]

theorem Ctx.onlyOrder.badLanes {c d : Ctx} (h : c.onlyOrder d) : d.badLanes = c.badLanes := by rw [h]

theorem State.forget_eq (s : State) (seq : Nat) : ∃ g e, s.forget seq = { s with ctxs := mapVec (fun c => c.forget seq g) s.ctxs, early := e } :=
  ⟨_, _, by unfold State.forget State.ordered State.modEarly; rfl⟩

/-- A performed access leaves every context's orders and the outstanding accesses (R192). -/
theorem State.dropAcc_eq (s : State) (a : Acc) : ∃ g g' e, s.dropAcc a =
    { s with ctxs := mapVec (fun c => c.forget (a.acq.getD a.seq) g') (mapVec (fun c => c.forget a.seq g) s.ctxs), early := e,
             accs := s.accs.filter fun u => decide (u.seq ≠ a.seq) } := by
  unfold State.dropAcc State.leaveAcc State.endAcc State.dropEarly State.modEarly
  dsimp only
  generalize List.map _ _ = l
  obtain ⟨g, e, h⟩ := State.forget_eq { s with early := l } a.seq
  rw [h]
  obtain ⟨g', e', h'⟩ := State.forget_eq { s with ctxs := mapVec (fun c => c.forget a.seq g) s.ctxs, early := e } (a.acq.getD a.seq)
  rw [h']
  exact ⟨g, g', e', rfl⟩

/-- An access that has been performed leaves the outstanding ones; beside them, what it ordered and what has been read early, nothing changes. -/
structure State.left (s t : State) (a : Acc) : Prop where
  accs : t.accs = s.accs.filter fun u => decide (u.seq ≠ a.seq)
  only : t = { s with ctxs := t.ctxs, early := t.early, accs := t.accs }
  ctxAt : ∀ n, (s.ctxAt n).onlyOrder (t.ctxAt n)

theorem State.dropAcc_left (s : State) (a : Acc) : s.left (s.dropAcc a) a := by
  obtain ⟨g, g', e, h⟩ := s.dropAcc_eq a
  generalize s.dropAcc a = t at h ⊢
  subst h
  refine ⟨?_, ?_, fun n => ?_⟩
  · rfl
  · rfl
  · unfold State.ctxAt
    dsimp only
    rw [mapVec_get, mapVec_get]
    rfl

theorem State.left.mem {s t : State} {a : Acc} (h : s.left t a) : t.mem = s.mem := by rw [h.only]

theorem State.left.cur {s t : State} {a : Acc} (h : s.left t a) : t.cur = s.cur := by rw [h.only]

/-- Nothing of the instruction is outstanding any more, and it met no uncorrectable data. -/
theorem State.reportBad_none {s : State} {n : Fin 11} (inst : Nat) (h : (s.ctxAt n).badLanes = []) : s.reportBad n inst = s := by
  unfold State.reportBad
  split
  · rfl
  · rw [show (s.ctxs.get n).badLanes = [] from h]
    rfl

theorem State.wake_accs (s : State) : s.wake.accs = s.accs.map fun a : Acc => { a with held := false } := rfl

/-- An access that nothing holds back is performed (R302). -/
theorem exec_accessPerformed {s : State} {a : Acc} (mem : a ∈ s.accs) (one : ∀ y ∈ s.accs, y.seq = a.seq → y = a) (can : s.canPerform a = true)
    (answers : s.answersRetry a = false) : exec (.accessPerformed a.seq) s = .next ((if a.op.splits then s.finishHalves a.key a.len else s).performAcc a) := by
  have found : (s.accs.find? fun x => decide (x.seq = a.seq)) = some a := by
    obtain ⟨y, hy⟩ := Option.isSome_iff_exists.1 (List.find?_isSome.2 ⟨a, mem, decide_eq_true rfl⟩ : (s.accs.find? fun x => decide (x.seq = a.seq)).isSome = true)
    have at_ := List.find?_some hy
    rw [hy, one y (List.mem_of_find?_eq_some hy) (of_decide_eq_true at_)]
  show execAccessPerformed a.seq s = _
  unfold execAccessPerformed
  rw [found]
  dsimp only
  rw [State.tryAcc, if_neg (by rw [can]; exact Bool.noConfusion), answers, if_neg Bool.false_ne_true]

/-- What an access that has been performed leaves of the rest, once the others are awake. -/
theorem State.left.wakes {s t : State} {a : Acc} (h : s.left t a) (clean : ∀ c, (s.ctxAt c).badLanes = []) :
    (∀ y, y ∈ (t.reportBad a.ctx a.inst).wake.accs ↔ ∃ x ∈ s.accs, x.seq ≠ a.seq ∧ y = { x with held := false }) ∧
      (t.reportBad a.ctx a.inst).wake.mem = s.mem ∧ (∀ c r, ((t.reportBad a.ctx a.inst).wake.ctxAt c).reg r = (s.ctxAt c).reg r) ∧
      (∀ c, ((t.reportBad a.ctx a.inst).wake.ctxAt c).writes = (s.ctxAt c).writes) ∧ (t.reportBad a.ctx a.inst).wake.cur = s.cur := by
  rw [State.reportBad_none a.inst ((h.ctxAt a.ctx).badLanes.trans (clean a.ctx))]
  refine ⟨fun y => ?_, h.mem, fun c r => ?_, fun c => ?_, h.cur⟩
  · rw [State.wake_accs, h.accs, List.mem_map]
    constructor
    · rintro ⟨x, hx, rfl⟩
      obtain ⟨mem, ne⟩ := List.mem_filter.1 hx
      exact ⟨x, mem, of_decide_eq_true ne, rfl⟩
    · rintro ⟨x, mem, ne, rfl⟩
      exact ⟨x, List.mem_filter.2 ⟨mem, decide_eq_true ne⟩, rfl⟩
  · rw [State.wake_ctxAt, Ctx.unholdInv_reg]
    exact (h.ctxAt c).reg r
  · rw [State.wake_ctxAt]
    exact (h.ctxAt c).writes

theorem State.fill_ctxAt (s : State) (n : Fin 11) (seq : Nat) (f : Vec → Vec) (dead : Bool) (c : Fin 11) :
    (s.fill n seq f dead).ctxAt c = (s.modCtxAt n fun c => { c with writes := c.writes.map fun w => w.take seq f dead }).ctxAt c := by
  unfold State.fill
  dsimp only
  split <;> rfl

/-- A load's value comes into the write that waits for it (R47). -/
theorem State.fill_writes (s : State) (n : Fin 11) (seq : Nat) (f : Vec → Vec) (dead : Bool) :
    ((s.fill n seq f dead).ctxAt n).writes = (s.ctxAt n).writes.map fun w => w.take seq f dead := by
  rw [State.fill_ctxAt, State.ctxAt_modCtxAt]

theorem State.fill_reg (s : State) (n : Fin 11) (seq : Nat) (f : Vec → Vec) (dead : Bool) (c : Fin 11) (r : Reg) :
    ((s.fill n seq f dead).ctxAt c).reg r = (s.ctxAt c).reg r := by
  rw [State.fill_ctxAt]
  by_cases same : n = c
  · subst same
    rw [State.ctxAt_modCtxAt]
    exact Ctx.reg_congr rfl rfl rfl r
  · rw [State.ctxAt_modCtxAt_ne _ _ _ _ same]

end Sys2Proof.Machine
end

section
/-! PROOF. O28: accesses at their home (R302, R304). -/

namespace Sys2Proof.Machine

open Sys2Proof

theorem overlay_whole (k : Nat) (bs data : List Byte) (h : bs.length = data.length) : overlay k bs k data = data := by
  apply List.ext_getElem
  · rw [overlay, List.length_mapIdx, h]
  · intro i hi hj
    simp only [overlay, List.getElem_mapIdx, Nat.le_add_right, if_true, Nat.add_sub_cancel_left]
    rw [List.getD_eq_getElem _ _ hj]

theorem PendingWrite.take_false (w : PendingWrite) (q : Nat) (f : Vec → Vec) :
    w.take q f false = if w.seq = q then { w with val := f w.val, need := w.need - 1 } else w := by
  unfold PendingWrite.take
  rw [Bool.or_false]

/-- A store that is performed changes its bytes alone (R302). -/
theorem State.performAcc_store {s : State} {a : Acc} {bs : List Byte} (op : a.op = .store bs) (hh : s.unhashed) (snap : s.core.snapshot = none)
    (clean : ∀ c, (s.ctxAt c).badLanes = []) :
    (∀ y, y ∈ (s.performAcc a).accs ↔ ∃ x ∈ s.accs, x.seq ≠ a.seq ∧ y = { x with held := false }) ∧
      (s.performAcc a).mem = Memory.write s.mem a.key bs ∧ ∀ c r, ((s.performAcc a).ctxAt c).reg r = (s.ctxAt c).reg r := by
  obtain ⟨e, poked⟩ : ∃ e, s.poke (s.sourceOf a.ctx) a.key bs = { s with mem := Memory.write s.mem a.key bs, early := e } :=
    ⟨_, State.pokeAs_plain hh snap _ _ a.key bs⟩
  unfold State.performAcc State.performOp
  rw [op]
  dsimp only
  rw [poked]
  obtain ⟨accs, mem, regs, _, _⟩ := (State.dropAcc_left { s with mem := Memory.write s.mem a.key bs, early := e } a).wakes clean
  exact ⟨accs, mem, regs⟩

/-- A load that is performed brings what its context sees into the write that waits for it (R302, R304). -/
theorem State.performAcc_load {s : State} {a : Acc} {f : LoadForm} {q : Nat} (op : a.op = .load f q) (good : s.badAt a.key a.len = none)
    (clean : ∀ c, (s.ctxAt c).badLanes = []) :
    (∀ y, y ∈ (s.performAcc a).accs ↔ ∃ x ∈ s.accs, x.seq ≠ a.seq ∧ y = { x with held := false }) ∧ (s.performAcc a).mem = s.mem ∧
      (∀ c r, ((s.performAcc a).ctxAt c).reg r = (s.ctxAt c).reg r) ∧
      (((s.performAcc a).ctxAt a.ctx).writes = (s.ctxAt a.ctx).writes.map fun w =>
        if w.seq = q then { w with val := f.into (s.seenBy a.ctx a.seq a.key a.len) w.val, need := w.need - 1 } else w) ∧
      (s.performAcc a).cur = s.cur := by
  unfold State.performAcc State.performOp
  rw [op]
  dsimp only
  rw [good]
  dsimp only
  set t := s.fill a.ctx q (f.into (s.seenBy a.ctx a.seq a.key a.len)) false with ht
  have lanes : ∀ c, (t.ctxAt c).badLanes = [] := fun c => by
    rw [ht, State.fill_ctxAt]
    by_cases same : a.ctx = c
    · subst same
      rw [State.ctxAt_modCtxAt]
      exact clean a.ctx
    · rw [State.ctxAt_modCtxAt_ne _ _ _ _ same]
      exact clean c
  have kept : t.accs = s.accs := by rw [ht, State.fill_only]; rfl
  obtain ⟨accs, mem, regs, writes, cur⟩ := (t.dropAcc_left a).wakes lanes
  refine ⟨fun y => by rw [accs y, kept], mem.trans (State.fill_mem ..), fun c r => (regs c r).trans (State.fill_reg ..), ?_,
    cur.trans (by rw [ht, State.fill_only]; rfl)⟩
  rw [writes, ht, State.fill_writes]
  exact List.map_congr_left fun w _ => PendingWrite.take_false w q _

/-- Settles O28: a store writes its bytes, and a load fills the write that waits for it. -/
theorem accessesArePerformedAtTheirHome : Obligations.AccessesArePerformedAtTheirHome := by
  unfold Obligations.AccessesArePerformedAtTheirHome
  constructor
  · intro s a mem one can answers _ clean
    have run := exec_accessPerformed mem one can answers
    constructor
    · intro bs op hh snap
      rw [show a.op.splits = false by rw [op]; rfl, if_neg Bool.false_ne_true] at run
      obtain ⟨accs, mem, regs⟩ := State.performAcc_store op hh snap clean
      exact ⟨_, run, accs, fun k => by rw [mem, Memory.byte_write], regs⟩
    · intro f q op good
      rw [show a.op.splits = false by rw [op]; rfl, if_neg Bool.false_ne_true] at run
      obtain ⟨accs, mem, regs, writes, _⟩ := State.performAcc_load op good clean
      refine ⟨_, run, fun y hy => ?_, mem, regs, writes⟩
      obtain ⟨x, _, ne, rfl⟩ := (accs y).1 hy
      exact ne
  · intro s bs x key one op ctx before at_ length
    have seen (n : Fin 11) : s.seen n key bs.length = if x.ctx = n ∧ x.seq < s.seq then overlay key (Memory.read s.mem key bs.length) x.key bs
        else Memory.read s.mem key bs.length := by
      unfold State.seen State.seenBy State.ownOver
      rw [one, List.foldl_cons, List.foldl_nil, op]
      rfl
    constructor
    · rw [seen, if_pos ⟨ctx, before⟩, at_]
      exact overlay_whole _ _ _ (Memory.length_read ..)
    · intro n ne
      rw [seen, if_neg fun h => ne (h.1.symm.trans ctx)]

end Sys2Proof.Machine
end

section
/-! PROOF. O29: a load's bytes come to its register (R189, R302, R47). -/

namespace Sys2Proof.Machine

open Sys2Proof

/-- What an instruction that sends accesses changes: its context, the numbering, the agenda and the outstanding accesses. -/
def State.onlySends (s t : State) : Prop := t = { s.setCtx t.ctx with seq := t.seq, agenda := t.agenda, accs := t.accs }

theorem State.onlySends.trans {s t u : State} (h : s.onlySends t) (k : t.onlySends u) : s.onlySends u := by
  unfold State.onlySends at *
  generalize t.ctx = c, t.seq = q, t.agenda = l, t.accs = as at h
  subst h
  generalize u.ctx = c', u.seq = q', u.agenda = l', u.accs = as' at k ⊢
  subst k
  exact congrArg (fun x : State => { x with seq := q', agenda := l', accs := as' }) (s.setCtx_setCtx c c')

theorem State.modCtx_onlySends (s : State) (f : Ctx → Ctx) : s.onlySends (s.modCtx f) := by
  unfold State.onlySends
  rw [State.ctx_modCtx]
  rfl

theorem State.writeLater_onlySends (s : State) (r : Reg) (v : Vec) (need : Nat) : s.onlySends (s.writeLater r v need) := by
  unfold State.writeLater
  split
  · exact congrArg (fun x : State => { x with seq := s.seq + 1 }) s.setCtx_ctx.symm
  · have only := s.modCtx_onlySends fun c => { c.setTaint (.reg r) c.inTaint with
      writes := c.writes ++ [{ reg := r, val := v, need, seq := s.seq, due := none, dead := false, late := false, ready := 0 }] }
    generalize (s.modCtx fun c => { c.setTaint (.reg r) c.inTaint with
      writes := c.writes ++ [{ reg := r, val := v, need, seq := s.seq, due := none, dead := false, late := false, ready := 0 }] }) = t at only ⊢
    exact congrArg (fun x : State => { x with seq := s.seq + 1, agenda := if need = 0 then t.agenda ++ [Instr.registerWritePerformed s.cur s.seq] else t.agenda }) only

theorem State.onlySent.onlySends {s t : State} (h : s.onlySent t) : s.onlySends t := by
  have ctx := h.ctx
  unfold State.onlySends
  rw [ctx, State.setCtx_ctx]
  exact h

section
variable {s t : State} (h : s.onlySends t)
include h

theorem State.onlySends.mem : t.mem = s.mem := by rw [h]; rfl
theorem State.onlySends.core : t.core = s.core := by rw [h]; rfl
theorem State.onlySends.clu : t.clu = s.clu := by rw [h]; rfl
theorem State.onlySends.bad : t.bad = s.bad := by rw [h]; rfl
theorem State.onlySends.cycle : t.cycle = s.cycle := by rw [h]; rfl
theorem State.onlySends.cur : t.cur = s.cur := by rw [h]; rfl
theorem State.onlySends.other {n : Fin 11} (ne : n ≠ s.cur) : t.ctxAt n = s.ctxAt n := by
  unfold State.onlySends at h
  generalize t.ctx = c, t.seq = q, t.agenda = l, t.accs = as at h
  subst h
  exact s.setCtx_other c n (Ne.symm ne)

end

theorem State.onlySends.badLanes {s t : State} (h : s.onlySends t) (here : t.ctx.badLanes = s.ctx.badLanes) (clean : ∀ n, (s.ctxAt n).badLanes = [])
    (n : Fin 11) : (t.ctxAt n).badLanes = [] := by
  by_cases same : n = s.cur
  · subst same
    rw [← h.cur]
    exact here.trans (clean s.cur)
  · rw [h.other same]
    exact clean n

theorem State.acquiring_onlySends (u : State) (order : Option Scope) (q : Nat) : u.onlySends (u.acquiring order q) := by
  cases order with
  | none => exact congrArg (fun x : State => x) u.setCtx_ctx.symm
  | some c => exact u.modCtx_onlySends fun x => { x with order := x.order ++ [{ seq := q, scope := c, loads := true }] }

theorem State.sentLoad_onlySends (u : State) (r : Reg) (rs : List Reg) (a : Word) (n : Nat) (f : LoadForm) (p : Place) :
    u.onlySends (u.sentLoad r rs a n f p) :=
  (u.writeLater_onlySends r 0 1).trans (State.push_onlySent _ _).onlySends

/-- A load that issues with nothing outstanding waits for nothing (R191, R192). -/
theorem State.holders_nil {s : State} (order : s.ctx.order = []) (taints : s.ctx.taints = []) (key : Nat) (isLoad : Bool) (rs : List Reg) :
    s.holders key isLoad rs = [] := by
  unfold State.holders Ctx.taintOf
  rw [order, taints]
  rfl

/-- The one outstanding access can be performed, when nothing holds it and nothing answers with RETRY. -/
theorem State.canPerform_alone {s : State} {x : Acc} {f : LoadForm} {q : Nat} (one : s.accs = [x]) (op : x.op = .load f q) (after : x.after = [])
    (retry : x.retry = none) (cmds : ∀ q ∈ s.core.chans.toList, q.cmds = []) : s.canPerform x = true := by
  have gated : s.gatedAcc x = false := by
    unfold State.gatedAcc
    rw [List.any_eq_false]
    intro c hc
    rw [cmds c hc]
    exact Bool.false_ne_true
  unfold State.canPerform State.canSend
  rw [one, gated, retry]
  simp [Acc.awaited, Acc.keeps, Acc.occupies, State.sameLine, after, op]

theorem State.badAt_nil {s : State} (h : s.bad = []) (key n : Nat) : s.badAt key n = none := by
  unfold State.badAt
  rw [h]
  rfl

/-- What a context sees while one load is outstanding is what memory holds. -/
theorem State.seenBy_load {s : State} {x : Acc} {f : LoadForm} {q : Nat} (one : s.accs = [x]) (op : x.op = .load f q) (n : Fin 11) (seq key len : Nat) :
    s.seenBy n seq key len = Memory.read s.mem key len := by
  unfold State.seenBy State.ownOver
  rw [one, List.foldl_cons, List.foldl_nil, op]
  rfl

/-- LD of the own scratchpad, with nothing outstanding: its access, alone and held back by nothing. -/
theorem exec_ld_local {s : State} (sw : Bool) (d a b : BitVec 5) (w : LdWidth) (c : Scope) (o : Bool) (k : BitVec 2) (e : Ext)
    (ready : s.ready [.x a, .x b, .x d]) (run : s.localRun (s.address a b k e) (ldBytes w)) (accs : s.accs = []) (order : s.ctx.order = [])
    (taints : s.ctx.taints = []) :
    ∃ t x, exec (.ld sw d a b w c o k e) s = .next t ∧ s.onlySends t ∧ t.ctx.badLanes = s.ctx.badLanes ∧ s.awaits t (.x d) 0 1 ∧ t.accs = [x] ∧
      x.seq = s.seq + 1 ∧ x.ctx = s.cur ∧ x.key = scratchKey s.core.num.toNat (s.address a b k e).toNat ∧ x.len = ldBytes w ∧
      x.op = .load (.scalar w) s.seq ∧ x.after = [] ∧ x.acq = none ∧ x.retry = none := by
  obtain ⟨aligned, fits, claims⟩ := run
  have pos : 0 < ldBytes w := by cases w <;> decide
  have ok : (s.issued [.x a, .x b]).check .load (s.address a b k e) (ldBytes w) (ldBytes w) s.exchange =
      (s.issued [.x a, .x b], .ok (localPlace s.core.num (s.address a b k e)), 1) :=
    State.check_local (s := s.issued [.x a, .x b]) aligned pos fits (fun _ => State.claimed?_eq_false (s := s.issued [.x a, .x b]) claims) _
  have ld : exec (.ld sw d a b w c o k e) s = .next (s.issue [.x a, .x b] [.x d] fun s => s.load sw (extBytes e) (.x d) [.x a, .x b] (s.address a b k e) (ldBytes w)
    (.scalar w) (orderOf o c) fun s _ => s) := rfl
  rw [State.issue_issued ready, State.address_issued, State.load_eq (s := s.issued [.x a, .x b]) ok] at ld
  obtain ⟨⟨awaits, _, _, _, _⟩, _⟩ := State.load_sends ok sw (extBytes e) (.x d) [.x a, .x b] (.scalar w) (orderOf o c)
  rw [State.load_eq (s := s.issued [.x a, .x b]) ok] at awaits
  have holds : (s.issued [.x a, .x b]).holders (localPlace s.core.num (s.address a b k e)).key true [.x a, .x b] = [] :=
    State.holders_nil (by rw [State.issued_ctx]; exact order) (by rw [State.issued_ctx]; exact taints) ..
  set m := s.issued [.x a, .x b] with hm
  set g := (m.sentLoad (.x d) [.x a, .x b] (s.address a b k e) (ldBytes w) (.scalar w) (localPlace s.core.num (s.address a b k e))).acquiring (orderOf o c) (m.seq + 1)
  have sends : s.onlySends g := (s.modCtx_onlySends _).trans ((m.sentLoad_onlySends ..).trans (State.acquiring_onlySends ..))
  have lanes : g.ctx.badLanes = s.ctx.badLanes := by
    rw [State.acquiring_ctx]
    show (m.writeLater (.x d) 0 1).ctx.badLanes = _
    rw [State.writeLater_ctx, hm, State.issued_ctx]
    split <;> rfl
  have list : g.accs = [(m.writeLater (.x d) 0 1).newAcc (localPlace s.core.num (s.address a b k e)).key (ldBytes w) (s.address a b k e)
      (localPlace s.core.num (s.address a b k e)).page (.load (.scalar w) m.seq) []] := by
    rw [(State.acquiring_rest ..).2.1]
    show (m.writeLater (.x d) 0 1).accs ++ _ = _
    rw [State.writeLater_accs, show m.accs = [] from accs, holds]
    rfl
  refine ⟨_, _, ld, sends.trans (g.modCtx_onlySends _), ?_, awaits, list, ?_, ?_, rfl, rfl, rfl, rfl, rfl, rfl⟩
  · rw [State.retireAfter_ctx, Ctx.sequential_only]
    exact lanes
  · exact m.writeLater_seq (.x d) 0 1
  · exact m.writeLater_cur (.x d) 0 1

/-- Settles O29: the load's access is alone, and its write then is. -/
theorem loadsBringTheBytesOfTheirAddress : Obligations.LoadsBringTheBytesOfTheirAddress := by
  unfold Obligations.LoadsBringTheBytesOfTheirAddress
  intro s sw d a b w c o k e A ready hd run accs writes order taints bad saving cmds clean
  have named : Reg.x d ≠ .x 0 := by simpa using hd
  obtain ⟨t, x, ld, sends, lanes, awaits, one, seq, ctx, key, len, op, after, acq, retry⟩ := exec_ld_local sw d a b w c o k e ready run accs order taints
  have cleanT := sends.badLanes lanes clean
  have can : t.canPerform x = true := State.canPerform_alone one op after retry (by rw [sends.core]; exact cmds)
  have answers : t.answersRetry x = false := by
    unfold State.answersRetry State.retried
    rw [sends.clu, saving]
    exact Bool.and_false _
  have performs := exec_accessPerformed (s := t) (a := x) (by rw [one]; exact List.mem_singleton.2 rfl)
    (fun y hy _ => List.mem_singleton.1 (one ▸ hy)) can answers
  rw [show x.op.splits = false by rw [op]; rfl, if_neg Bool.false_ne_true] at performs
  obtain ⟨outs, mem, regs, formed, cur⟩ := State.performAcc_load op (State.badAt_nil (sends.bad.trans bad) _ _) cleanT
  have here : t.ctx = t.ctxAt s.cur := by rw [← sends.cur]; rfl
  rw [State.seenBy_load one op, sends.mem, key, len, ctx, ← here, awaits.write named, writes] at formed
  set u := t.performAcc x
  set val := wide (loadWord w (Memory.read s.mem (scratchKey s.core.num.toNat A.toNat) (ldBytes w))) with hval
  have formed : (u.ctxAt s.cur).writes = [{ reg := .x d, val, need := 0, seq := s.seq, due := none, dead := false, late := false, ready := 0 }] := by
    simpa [LoadForm.into] using formed
  have arrives := exec_registerWritePerformed (s := u) (c := s.cur) (q := s.seq) (by rw [formed]; exact List.mem_singleton.2 rfl) rfl rfl (Nat.zero_le _)
    (fun y hy _ => List.mem_singleton.1 (formed ▸ hy))
  rw [seq] at performs
  refine ⟨t, u, _, ld, performs, arrives, ?_⟩
  have at_ (f : Ctx → Ctx) : (u.modCtxAt s.cur f).ctx = f (u.ctxAt s.cur) := by
    rw [← State.ctxAt_modCtxAt u s.cur f]
    show (u.modCtxAt s.cur f).ctxAt u.cur = _
    rw [cur.trans sends.cur]
  rw [at_]
  refine ⟨?_, fun r hr => ?_, ?_, ?_, mem.trans sends.mem⟩
  · exact Ctx.performWrite_self (u.ctxAt s.cur) rfl named (Reg.fits_wide _ _)
  · rw [Ctx.performWrite_reg _ _ (.inl hr), regs, ← here]
    exact awaits.regs r
  · rw [Ctx.performWrite_writes, formed]
    simp [overtake]
  · refine List.eq_nil_iff_forall_not_mem.2 fun y hy => ?_
    obtain ⟨z, hz, ne, _⟩ := (outs y).1 hy
    exact ne (congrArg Acc.seq (List.mem_singleton.1 (one ▸ hz)))

end Sys2Proof.Machine
end

section
/-! SUPPORT. Results of variable latency that are formed at issue (R47). -/

namespace Sys2Proof.Machine

theorem State.forms.of_sameRegs {s m t : State} {r : Reg} {v : Vec} (h : m.forms t r v) (same : s.sameRegs m) (seq : m.seq = s.seq) (cur : m.cur = s.cur) :
    s.forms t r v where
  regs q := (h.regs q).trans (same.1 q)
  zero e := (h.zero e).trans same.2
  write e := by rw [h.write e, same.2, seq]
  due e := by rw [← cur, ← seq]; exact h.due e

theorem State.forms.then_sameRegs {s m t : State} {r : Reg} {v : Vec} (h : s.forms m r v) (same : m.sameRegs t) (agenda : ∀ e ∈ m.agenda, e ∈ t.agenda) :
    s.forms t r v where
  regs q := (same.1 q).trans (h.regs q)
  zero e := same.2.trans (h.zero e)
  write e := same.2.trans (h.write e)
  due e := agenda _ (h.due e)

theorem State.writeLater_forms (s : State) (r : Reg) (v : Vec) : s.forms (s.writeLater r v 0) r v where
  regs q := (s.writeLater_awaits r v 0).regs q
  zero e := (s.writeLater_awaits r v 0).zero e
  write e := (s.writeLater_awaits r v 0).write e
  due e := by
    unfold State.writeLater
    rw [if_neg e]
    exact List.mem_append_right _ (List.mem_singleton.2 rfl)

/-- An instruction that forms its result at issue, and completes, in a state that its registers have not changed in. -/
theorem State.forms_retire {s m : State} (amid : s.amid m) (same : s.sameRegs m) (seq : m.seq = s.seq) (r : Reg) (v : Vec) (sw : Bool) (size gap : Nat) :
    s.forms ((m.writeLater r v 0).retireAfter sw size gap) r v ∧ s.goesOn ((m.writeLater r v 0).retireAfter sw size gap) sw size gap ∧
      ((m.writeLater r v 0).retireAfter sw size gap).mem = m.mem :=
  ⟨((m.writeLater_forms r v).of_sameRegs same seq amid.cur).then_sameRegs (State.retireAfter_sameRegs ..) fun _ h => h,
    (amid.trans (m.writeLater_amid r v 0)).goesOn sw size gap, m.writeLater_mem r v 0⟩

end Sys2Proof.Machine
end

section
/-! PROOF. O30: probing, walking and invalidating translations (R194, R195, R205 to R207, R211). -/

namespace Sys2Proof.Machine

open Sys2Proof

theorem State.sought.amid_issued {s u : State} {rs : List Reg} (found : (s.issued rs).sought u) : s.amid u ∧ s.sameRegs u ∧ u.seq = s.seq :=
  ⟨(s.issued_amid rs).trans found.amid, (s.issued_sameRegs rs).trans found.sameRegs, found.seq⟩

/-! ## PREF and FLUSH -/

theorem exec_pref {s : State} (sw : Bool) (a b : BitVec 5) (k : BitVec 2) (e : Ext) (ready : s.ready [.x a, .x b]) :
    exec (.pref sw a b k e) s = .next (((s.issued [.x a, .x b]).post (.walk (s.address a b k e))).retireAfter sw (extBytes e)
      ((s.issued [.x a, .x b]).check .locate (s.address a b k e) 1 1 s.exchange).2.2) := by
  have run : exec (.pref sw a b k e) s = execPref sw a b k e s := rfl
  unfold execPref at run
  rw [State.issue_issued (by simpa using ready), State.address_issued] at run
  exact run

theorem exec_flush {s : State} (sw : Bool) (a b : BitVec 5) (c : Scope) (k : BitVec 2) (e : Ext) (ready : s.ready [.x a, .x b]) {u : State} {p : Place} {h : Nat}
    (ok : (s.issued [.x a, .x b]).check .flush (s.address a b k e) 1 1 s.exchange = (u, .ok p, h)) :
    exec (.flush sw a b c k e) s = .next (u.flushLine sw (extBytes e) c (p.key / 64 * 64) (u.cycle + h)) := by
  have run : exec (.flush sw a b c k e) s = execFlush sw a b c k e s := rfl
  unfold execFlush at run
  rw [State.issue_issued (by simpa using ready), State.issued_wait ready.1] at run
  dsimp only at run
  rw [State.address_issued, State.access_ok ok] at run
  exact run

/-- A store or atomic of the context to the line is outstanding in the scope. -/
def State.lineWaits (s : State) (c : Scope) (line : Nat) : Prop :=
  ∃ y ∈ s.accs, y.ctx = s.cur ∧ y.op.writes = true ∧ overlaps y.key y.len line 64 = true ∧ s.within c y.key = true

theorem State.lineWaits_iff (s : State) (c : Scope) (line : Nat) : (s.accs.any fun u => s.storesTo line u && s.within c u.key) = true ↔ s.lineWaits c line := by
  simp [State.lineWaits, State.storesTo, List.any_eq_true, and_assoc]

theorem State.sought.lineWaits {s u : State} {rs : List Reg} (found : (s.issued rs).sought u) (c : Scope) (line : Nat) :
    u.lineWaits c line ↔ s.lineWaits c line := by
  unfold State.lineWaits
  rw [found.accs, found.cur]
  simp only [found.within]
  exact Iff.rfl

theorem State.flushLine_goes {u : State} {c : Scope} {line : Nat} (h : ¬ u.lineWaits c line) (sw : Bool) (size gap : Nat) :
    u.flushLine sw size c line (u.cycle + gap) = u.retireAfter sw size gap := by
  unfold State.flushLine
  rw [if_neg fun e => h ((u.lineWaits_iff c line).1 e), Nat.add_sub_cancel_left]

/-- A FLUSH that waits stays at its address. -/
theorem State.flushLine_waits {u : State} {c : Scope} {line : Nat} (h : u.lineWaits c line) (sw : Bool) (size ready : Nat) :
    u.sameRegs (u.flushLine sw size c line ready) ∧ (u.flushLine sw size c line ready).mem = u.mem ∧ (u.flushLine sw size c line ready).accs = u.accs ∧
      (u.flushLine sw size c line ready).ctx.wait.isSome = true ∧ (u.flushLine sw size c line ready).ctx.pc = u.ctx.pc := by
  unfold State.flushLine
  rw [if_pos ((u.lineWaits_iff c line).2 h)]
  unfold State.block
  cases wait : u.ctx.wait with
  | none =>
    refine ⟨⟨fun r => ?_, ?_⟩, rfl, rfl, ?_, ?_⟩
    all_goals rw [State.ctx_modCtx, State.ctx_modCtx, wait]
    · exact Ctx.reg_congr rfl rfl rfl r
    · rfl
  | some w =>
    refine ⟨⟨fun r => ?_, ?_⟩, rfl, rfl, ?_, ?_⟩
    all_goals rw [State.ctx_modCtx, State.ctx_modCtx, wait]
    · exact Ctx.reg_congr rfl rfl rfl r
    · dsimp only
      rw [wait]
      rfl

/-! ## TLBINV (R206) -/

theorem State.runInvs_waiting {s : State} : ∀ {is : List Tlbinv}, (∀ y ∈ is, s.invWaits y = true) →
    State.runInvs is s = (s, is.map fun y : Tlbinv => { y with held := true })
  | [], _ => rfl
  | i :: is, h => by
    unfold State.runInvs
    rw [if_pos (h i List.mem_cons_self), State.runInvs_waiting fun y hy => h y (List.mem_cons_of_mem _ hy)]
    rfl

theorem Tlbinv.covers_iff (i : Tlbinv) (base level : Nat) : i.covers base (pageBytes level) = true ↔ i.bytes = 0 ∨ overlaps base (pageBytes level) i.lo i.bytes = true := by
  have pos : pageBytes level ≠ 0 := by
    unfold pageBytes
    split
    · decide
    · split <;> decide
  simp [Tlbinv.covers, pos]

theorem Tlbinv.mem_keep (i : Tlbinv) (l : List TlbEntry) (x : TlbEntry) :
    x ∈ i.keep l ↔ x ∈ l ∧ ¬ (i.bytes = 0 ∨ overlaps x.va (pageBytes x.level) i.lo i.bytes = true) := by
  unfold Tlbinv.keep
  rw [List.mem_filter, ← Tlbinv.covers_iff, Bool.not_eq_true']
  simp

theorem State.dropEntries_invWaits (s : State) (i y : Tlbinv) : (s.dropEntries i).invWaits y = s.invWaits y := rfl

/-- What drops a TLBINV's entries and notes when it is complete (R206, R212). -/
theorem exec_tlbinvCompletion (s : State) (n : Fin 11) : exec (.tlbinvCompletion n) s =
    .next ((State.runInvs (s.ctxAt n).tlbinvs s).1.modCtxAt n fun c => { c with tlbinvs := (State.runInvs (s.ctxAt n).tlbinvs s).2 }) := rfl

/-- The cycle before a TLBINV's time brings its completion due (R212). -/
theorem State.due_tlbinvCompletion {s : State} {n : Fin 11} {j : Tlbinv} (mem : j ∈ (s.ctxAt n).tlbinvs) (ready : s.cycle + 1 = j.ready) :
    .tlbinvCompletion n ∈ s.tick.agenda := by
  have any : ((s.ctxs.get n).tlbinvs.any fun i => decide (i.ready = s.cycle + 1)) = true :=
    List.any_eq_true.2 ⟨j, mem, decide_eq_true ready.symm⟩
  have listed : Instr.tlbinvCompletion n ∈ (List.finRange 11).flatMap fun n =>
      if (s.ctxs.get n).tlbinvs.any fun i => decide (i.ready = s.cycle + 1) then [Instr.tlbinvCompletion n] else [] :=
    List.mem_flatMap.2 ⟨n, List.mem_finRange n, by rw [if_pos any]; exact List.mem_singleton.2 rfl⟩
  refine List.mem_append_right _ ?_
  unfold State.due
  simp only [List.mem_append]
  tauto

/-! ## TLBPRB and walks (R200, R205) -/

theorem State.probeLeaf_sought (s : State) (a : Word) : s.sought (s.probeLeaf a).1 := by
  unfold State.probeLeaf
  split
  · exact s.translate_sought a
  · exact .refl s

theorem State.probeLeaf_unmapped {s : State} {a : Word} (h : regionOf a ≠ .translated) : s.probeLeaf a = (s, 0) := by
  unfold State.probeLeaf
  split
  · next e => exact absurd e h
  · rfl

theorem State.probeLeaf_found {s u : State} {a : Word} {e : TlbEntry} {time : Nat} (h : regionOf a = .translated)
    (found : s.translate a = (u, { found := .ok e, time })) : s.probeLeaf a = (u, e.leaf) := by
  unfold State.probeLeaf
  rw [h]
  dsimp only
  rw [found]

theorem wide_zero : wide 0 = 0 := BitVec.setWidth_zero ..

theorem exec_tlbprb {s : State} (sw : Bool) (d a : BitVec 5) (ready : s.ready [.x a, .x d]) {u : State} {w : Word}
    (probe : (s.issued [.x a]).probeLeaf (s.readX a) = (u, w)) :
    exec (.tlbprb sw d a) s = .next ((u.writeLater (.x d) (wide w) 0).retireAfter sw 4 1) := by
  have run : exec (.tlbprb sw d a) s = execTlbprb sw d a s := rfl
  unfold execTlbprb at run
  rw [State.issue_issued (by simpa using ready)] at run
  dsimp only at run
  rw [State.readX_issued, probe] at run
  exact run

/-- TLBPRB gives the leaf that its probe finds (R205). -/
theorem State.tlbprb_forms {s : State} (sw : Bool) (d a : BitVec 5) (ready : s.ready [.x a, .x d]) {u : State} {w : Word}
    (probe : (s.issued [.x a]).probeLeaf (s.readX a) = (u, w)) :
    ∃ t, exec (.tlbprb sw d a) s = .next t ∧ s.forms t (.x d) (wide w) ∧ s.goesOn t sw 4 1 ∧ t.mem = s.mem := by
  have found : (s.issued [.x a]).sought u := (State.probeLeaf_sought ..).of_fst probe
  obtain ⟨amid, same, seq⟩ := found.amid_issued
  obtain ⟨forms, goes, mem⟩ := State.forms_retire amid same seq (.x d) (wide w) sw 4 1
  exact ⟨_, exec_tlbprb sw d a ready probe, forms, goes, mem.trans found.mem⟩

/-! ## RGNQ (R211) -/

theorem State.regionWord_some {s : State} {r : Nat} {x : BitVec 48} (h : r ≠ 0) (found : s.region r = some x) :
    (s.regionWord r).getLsbD 48 = true ∧ natBits (s.regionWord r).toNat 47 0 = x.toNat ∧ natBits (s.regionWord r).toNat 63 49 = 0 := by
  have small := x.isLt
  have word : (s.regionWord r).toNat = 2 ^ 48 + x.toNat := by
    unfold State.regionWord
    rw [if_neg h, found]
    dsimp only
    rw [BitVec.toNat_ofNat]
    exact Nat.mod_eq_of_lt (by omega)
  refine ⟨getLsbD_eq_of_toNat _ true ?_, ?_, ?_⟩
  · rw [word, Bool.toNat_true]; omega
  · rw [word, natBits]; omega
  · rw [word, natBits]; omega

theorem State.region_issued (s : State) (rs : List Reg) (r : Nat) : (s.issued rs).regionWord r = s.regionWord r := rfl

theorem exec_rgnq {s : State} (sw : Bool) (d a : BitVec 5) (ready : s.ready [.x a, .x d]) :
    exec (.rgnq sw d a) s = .next (if 255 < (s.readX a).toNat then (s.issued [.x a]).illegal
      else ((s.issued [.x a]).writeLater (.x d) (wide (s.regionWord (s.readX a).toNat)) 0).retireAfter sw 4 1) := by
  have run : exec (.rgnq sw d a) s = execRgnq sw d a s := rfl
  unfold execRgnq at run
  rw [State.issue_issued (by simpa using ready)] at run
  rw [State.readX_issued] at run
  exact run

/-! ## TLBINV as it issues (R206) -/

/-- The TLBINV of an instruction, as it is taken up. -/
def State.newTlbinv (s : State) (lo bytes : Nat) (c : Scope) : Tlbinv :=
  { lo, bytes, scope := c, dropped := false, held := false, ready := 0,
    after := (s.accs.filter fun u => s.mine u && u.op.writes && s.within .dev u.key).map (·.seq) }

theorem exec_tlbinv {s : State} (sw : Bool) (a b : BitVec 5) (c : Scope) (ready : s.ready [.x a, .x b]) :
    exec (.tlbinv sw a b c) s = .next (if s.job.mapctl = false then (s.issued [.x a, .x b]).illegal
      else if 4 ≤ s.ctx.tlbinvs.length then (s.issued [.x a, .x b]).block .other 0 (s.readX a)
      else (((s.issued [.x a, .x b]).modCtx fun x =>
        { x with tlbinvs := x.tlbinvs ++ [s.newTlbinv (s.readX a).toNat (s.readX b).toNat c] }).post (.tlbinvCompletion s.cur)).retireAfter sw 4 1) := by
  have run : exec (.tlbinv sw a b c) s = execTlbinv sw a b c s := rfl
  unfold execTlbinv at run
  rw [State.issue_issued (by simpa using ready)] at run
  have invs : (s.issued [.x a, .x b]).ctx.tlbinvs = s.ctx.tlbinvs := by rw [State.issued_ctx]
  dsimp only at run
  rw [State.readX_issued, State.readX_issued, invs] at run
  exact run

/-- A TLBINV that is granted is taken up (R206). -/
theorem State.tlbinv_takes {s : State} (sw : Bool) (a b : BitVec 5) (c : Scope) (ready : s.ready [.x a, .x b]) (granted : s.job.mapctl = true)
    (room : s.ctx.tlbinvs.length < 4) :
    ∃ t i, exec (.tlbinv sw a b c) s = .next t ∧ t.ctx.tlbinvs = s.ctx.tlbinvs ++ [i] ∧ i.lo = (s.readX a).toNat ∧ i.bytes = (s.readX b).toNat ∧
        i.scope = c ∧ i.dropped = false ∧ .tlbinvCompletion s.cur ∈ t.agenda ∧ s.sameRegs t ∧ s.goesOn t sw 4 1 ∧ t.micro = s.micro := by
  have run := exec_tlbinv sw a b c ready
  rw [granted, if_neg (by decide), if_neg (by omega)] at run
  set i := s.newTlbinv (s.readX a).toNat (s.readX b).toNat c
  set m := ((s.issued [.x a, .x b]).modCtx fun x => { x with tlbinvs := x.tlbinvs ++ [i] }).post (.tlbinvCompletion s.cur)
  have ctx : m.ctx = { s.ctx with inTaint := s.ctx.taintOf ([.x a, .x b].map .reg), tlbinvs := s.ctx.tlbinvs ++ [i] } := by
    have upd := (s.issued [.x a, .x b]).ctx_modCtx fun x => { x with tlbinvs := x.tlbinvs ++ [i] }
    rw [State.issued_ctx] at upd
    exact upd
  have amid : s.amid m := ⟨rfl, by rw [ctx]; exact ⟨rfl, rfl, rfl, rfl, rfl, rfl⟩, rfl⟩
  have same : s.sameRegs m := ⟨fun r => by rw [ctx]; exact Ctx.reg_congr rfl rfl rfl r, by rw [ctx]⟩
  refine ⟨_, i, run, ?_, rfl, rfl, rfl, rfl, ?_, same.trans (State.retireAfter_sameRegs ..), amid.goesOn sw 4 1, rfl⟩
  · rw [State.retireAfter_ctx, Ctx.sequential_only, ctx]
  · exact List.mem_append_right _ (List.mem_singleton.2 rfl)

/-- A TLBINV that has dropped its entries is complete once its time is over (R206, R212). -/
theorem State.tlbinv_completes {s : State} {n : Fin 11} {i : Tlbinv} {is : List Tlbinv} (at_ : (s.ctxAt n).tlbinvs = i :: is) (free : s.invWaits i = false)
    (rest : ∀ y ∈ is, s.invWaits y = true) (dropped : i.dropped = true) :
    ∃ t, exec (.tlbinvCompletion n) s = .next t ∧ t.micro = s.micro ∧
      (t.ctxAt n).tlbinvs = (if s.cycle < i.ready then [i] else []) ++ is.map fun y : Tlbinv => { y with held := true } := by
  have runs : State.runInvs (i :: is) s = (s, (if s.cycle < i.ready then [i] else []) ++ is.map fun y : Tlbinv => { y with held := true }) := by
    rw [State.runInvs, free, dropped, if_neg Bool.false_ne_true, if_pos rfl]
    split <;> rw [State.runInvs_waiting rest] <;> rfl
  have run := exec_tlbinvCompletion s n
  rw [at_, runs] at run
  exact ⟨_, run, rfl, by rw [State.ctxAt_modCtxAt]⟩

/-- A TLBINV that waits for nothing drops its entries (R206). -/
theorem State.tlbinv_drops {s : State} {n : Fin 11} {i : Tlbinv} {is : List Tlbinv} (at_ : (s.ctxAt n).tlbinvs = i :: is) (free : s.invWaits i = false)
    (rest : ∀ y ∈ is, s.invWaits y = true) (fresh : i.dropped = false) :
    ∃ t j, exec (.tlbinvCompletion n) s = .next t ∧ t = (s.dropEntries i).modCtxAt n (fun c => { c with tlbinvs := j :: is.map fun y : Tlbinv => { y with held := true } }) ∧
      j.dropped = true ∧ j.ready = s.cycle + invTime i.scope := by
  have run := exec_tlbinvCompletion s n
  have runs : ∃ h, State.runInvs (i :: is) s = (s.dropEntries i, { i with dropped := true, after := s.translatedBy i, ready := s.cycle + invTime i.scope, held := h } ::
      is.map fun y : Tlbinv => { y with held := true }) := by
    rw [State.runInvs, free, fresh, if_neg Bool.false_ne_true, if_neg Bool.false_ne_true]
    dsimp only
    rw [State.runInvs_waiting (s := s.dropEntries i) rest]
    exact ⟨_, rfl⟩
  obtain ⟨h, runs⟩ := runs
  rw [at_, runs] at run
  exact ⟨_, _, run, rfl, rfl, rfl⟩

theorem exec_tlbwait {s : State} (sw : Bool) (ready : s.ready []) :
    exec (.tlbwait sw) s = .next (if s.ctx.tlbinvs = [] then (s.issued []).retireAfter sw 4 1 else (s.issued []).block .other 0 0) := by
  have run : exec (.tlbwait sw) s = execTlbwait sw s := rfl
  unfold execTlbwait at run
  rw [State.issue_issued (by simpa using ready)] at run
  have invs : (s.issued []).ctx.tlbinvs = s.ctx.tlbinvs := by rw [State.issued_ctx]
  simp only [invs, List.isEmpty_iff] at run
  exact run

/-- A translation walk of a running job (R200, R205). -/
theorem exec_walk {s : State} (va : Word) (running : s.job.running = true) : exec (.walk va) s = .next (s.probeLeaf va).1 :=
  congrArg Host.Outcome.next (if_pos running)

/-- A deferred error of a live context (R197). -/
theorem exec_deferredUncorrectable {s : State} {c : Fin 11} (q : Nat) (src : BitVec 3) (iaddr caddr : Word) (live : (s.ctxAt c).live = true) :
    exec (.deferredUncorrectable c q src iaddr caddr) s = .next (s.modCtxAt c fun x =>
      { x with deferred := x.deferred ++ [{ TrapInfo.at iaddr 0x18 (badDetail true src.toNat) caddr with next := true }] }) :=
  congrArg Host.Outcome.next (if_pos live)

theorem badDetail_deferred (src : BitVec 3) : (badDetail true src.toNat).getLsbD 0 = true ∧ natBits (badDetail true src.toNat).toNat 3 1 = src.toNat := by
  revert src
  decide

/-- Settles O30: each instruction and event by the rule of what it does. -/
theorem translationIsProbedWalkedAndInvalidated : Obligations.TranslationIsProbedWalkedAndInvalidated := by
  unfold Obligations.TranslationIsProbedWalkedAndInvalidated
  constructor
  · intro s sw d a b c k e size A
    refine ⟨fun u r h ready found => ?_, fun u p h ready ok => ?_, fun ready low quiet => ?_, fun ready unmapped => ?_, fun x ready mapped cached present => ?_,
      State.tlbinv_takes sw a b c, fun ready refused trappable => ?_, fun n i is at_ free rest => ⟨State.tlbinv_completes at_ free rest, fun fresh => ?_⟩,
      fun ready none => ?_, fun ready some => ?_, fun ready above trappable => ?_, fun ready within => ?_⟩
    · have run := exec_pref sw a b k e ready
      rw [found] at run
      have issued := s.issued_amid [.x a, .x b]
      have amid : s.amid ((s.issued [.x a, .x b]).post (.walk A)) := ⟨issued.cycle, issued.way, issued.cur⟩
      have same : s.sameRegs ((s.issued [.x a, .x b]).post (.walk A)) := s.issued_sameRegs [.x a, .x b]
      refine ⟨_, run, rfl, same.trans (State.retireAfter_sameRegs ..), amid.goesOn sw _ h, ?_⟩
      simp [State.retireAfter, State.issued, State.post, State.modCtx, State.setCtx, State.ctx]
    · have found : (s.issued [.x a, .x b]).sought u := (State.check_sought ..).of_fst ok
      obtain ⟨amid, same, -⟩ := found.amid_issued
      have run := exec_flush sw a b c k e ready ok
      by_cases waits : s.lineWaits c (p.key / 64 * 64)
      · obtain ⟨kept, mem, accs, wait, pc⟩ := State.flushLine_waits ((found.lineWaits c _).2 waits) sw (extBytes e) (u.cycle + h)
        exact ⟨_, run, same.trans kept, mem.trans found.mem, accs.trans found.accs, fun no => absurd waits no,
          fun _ => ⟨wait, pc.trans amid.pc⟩⟩
      · rw [State.flushLine_goes (fun e => waits ((found.lineWaits c _).1 e))] at run
        exact ⟨_, run, same.trans (State.retireAfter_sameRegs ..), found.mem, found.accs, fun _ => amid.goesOn sw _ h,
          fun e => absurd e waits⟩
    · have run := exec_flush sw a b c k e ready (State.check_local (acc := .flush) (by rw [Nat.mod_one]) Nat.one_pos low (fun e => absurd e (by decide)) _)
      rw [State.flushLine_goes] at run
      · exact ⟨_, run, s.issued_retireAfter_passes _ sw _ 1⟩
      · rintro ⟨y, mem, mine, writes, line, -⟩
        exact absurd (quiet y mem mine writes) (by rw [show overlaps y.key y.len (scratchKey s.core.num.toNat A.toNat / 64 * 64) 64 = true from line]; decide)
    · obtain ⟨t, run, forms, goes, -⟩ := State.tlbprb_forms sw d a ready (State.probeLeaf_unmapped (s := s.issued [.x a]) unmapped)
      exact ⟨t, run, wide_zero ▸ forms, goes⟩
    · exact State.tlbprb_forms sw d a ready (State.probeLeaf_found mapped (State.translate_cached cached present))
    · have run := exec_tlbinv sw a b c ready
      rw [refused, if_pos rfl] at run
      exact ⟨_, run, State.issued_illegal_entered trappable _⟩
    · obtain ⟨t, j, run, eq, dropped, time⟩ := State.tlbinv_drops at_ free rest fresh
      have invs : (t.ctxAt n).tlbinvs = j :: is.map fun y : Tlbinv => { y with held := true } := by rw [eq, State.ctxAt_modCtxAt]
      have here : j ∈ (t.ctxAt n).tlbinvs := by rw [invs]; exact List.mem_cons_self
      refine ⟨t, j, run, invs, dropped, time, State.due_tlbinvCompletion here, fun x => ?_, fun core => ?_, fun dev => ?_⟩
      · rw [eq]
        exact i.mem_keep s.micro x
      · rw [eq]
        exact if_pos core
      · rw [eq]
        exact if_neg dev
    · have run := exec_tlbwait sw ready
      rw [if_pos none] at run
      exact ⟨_, run, s.issued_retireAfter_passes [] sw 4 1⟩
    · have run := exec_tlbwait sw ready
      rw [if_neg some] at run
      exact ⟨_, run, s.issued_block_waits ready.1 [] .other 0 0⟩
    · have run := exec_rgnq sw d a ready
      rw [if_pos above] at run
      exact ⟨_, run, State.issued_illegal_entered trappable _⟩
    · have run := exec_rgnq sw d a ready
      rw [if_neg (by omega)] at run
      obtain ⟨forms, goes, mem⟩ := State.forms_retire (s.issued_amid [.x a]) (s.issued_sameRegs [.x a]) rfl (.x d) (wide (s.regionWord (s.readX a).toNat)) sw 4 1
      refine ⟨_, _, run, forms, goes, mem, fun zero => ?_, fun pos absent => ?_, fun x pos present => ?_⟩
      · rw [zero]
        exact if_pos rfl
      · unfold State.regionWord
        rw [if_neg (fun e : (s.readX a).toNat = 0 => pos (BitVec.eq_of_toNat_eq e)), absent]
      · exact State.regionWord_some (fun e => pos (BitVec.eq_of_toNat_eq e)) present
  · intro s va iaddr caddr c q src
    refine ⟨fun running low high => ?_, fun live => ?_⟩
    · have found := s.probeLeaf_sought va
      refine ⟨_, exec_walk va running, found.ctxs, found.mem, found.accs, fun level w micro clu last leaf present => ?_⟩
      obtain ⟨u, time, walk, cached⟩ := State.walkFor_leaf leaf present
      have region : regionOf va = .translated := regionOf_translated low high
      rw [State.probeLeaf_found region ((State.translate_walk micro clu last).trans walk)]
      exact cached _ List.mem_cons_self
    · refine ⟨_, _, exec_deferredUncorrectable q src iaddr caddr live, rfl, by rw [State.ctxAt_modCtxAt], fun m ne => State.ctxAt_modCtxAt_ne _ _ _ _ ne.symm,
        rfl, (badDetail_deferred src).1, (badDetail_deferred src).2, rfl, rfl, rfl⟩

end Sys2Proof.Machine
end

section
/-! SUPPORT. The slots of a landing set (R213). -/

namespace Sys2Proof.Machine

@[simp] theorem Ctx.slot_setSlot (c : Ctx) (t : BitVec 5) (x : Slot) : (c.setSlot t x).slot t = x :=
  Vector.getElem_set_self t.isLt

theorem Ctx.slot_setSlot_ne (c : Ctx) (x : Slot) {t u : BitVec 5} (h : u ≠ t) : (c.setSlot t x).slot u = c.slot u :=
  Vector.getElem_set_ne t.isLt u.isLt fun e => h (BitVec.eq_of_toNat_eq e.symm)

theorem Ctx.setSlot_reg (c : Ctx) (t : BitVec 5) (x : Slot) (r : Reg) : (c.setSlot t x).reg r = c.reg r := Ctx.reg_congr rfl rfl rfl r

theorem Ctx.slot_modSlot (c : Ctx) (t : BitVec 5) (f : Slot → Slot) : (c.modSlot t f).slot t = f (c.slot t) :=
  Vector.getElem_set_self t.isLt

theorem Ctx.slot_land (c : Ctx) (t : BitVec 5) (f : Slot → Slot) (cycle : Nat) : (c.land t f cycle).slot t = { f (c.slot t) with since := cycle } :=
  Vector.getElem_set_self t.isLt

theorem Ctx.slot_land_ne (c : Ctx) (f : Slot → Slot) (cycle : Nat) {t u : BitVec 5} (h : u ≠ t) : (c.land t f cycle).slot u = c.slot u :=
  Vector.getElem_set_ne t.isLt u.isLt fun e => h (BitVec.eq_of_toNat_eq e.symm)

theorem Ctx.slot_modSlot_ne (c : Ctx) (f : Slot → Slot) {t u : BitVec 5} (h : u ≠ t) : (c.modSlot t f).slot u = c.slot u :=
  Vector.getElem_set_ne t.isLt u.isLt fun e => h (BitVec.eq_of_toNat_eq e.symm)

/-- A slot that lands is in the landed queue (R214). -/
theorem Ctx.mem_land (c : Ctx) (t : BitVec 5) (f : Slot → Slot) (cycle : Nat) : t ∈ (c.land t f cycle).landed :=
  List.mem_append_right _ List.mem_cons_self

theorem Ctx.slot_eq {c d : Ctx} (h : d.slots = c.slots) (t : BitVec 5) : d.slot t = c.slot t := by rw [Ctx.slot, h]; rfl

end Sys2Proof.Machine
end

section
/-! PROOF. O31: tagged loads (R213 to R218, R222). -/

namespace Sys2Proof.Machine

open Sys2Proof

/-! ## Launching (R216, R217, R222) -/

/-- A state after a slot's load has started: of the context, the slot alone has changed. -/
structure State.launched (s t : State) (n : BitVec 5) (x : Slot) : Prop where
  ctx : t.ctx = s.ctx.setSlot n x
  cycle : t.cycle = s.cycle
  cur : t.cur = s.cur
  lands : .slotLands s.cur n ∈ t.agenda

theorem State.launched.amid {s t : State} {n : BitVec 5} {x : Slot} (h : s.launched t n x) : s.amid t :=
  ⟨h.cycle, by rw [h.ctx]; exact ⟨rfl, rfl, rfl, rfl, rfl, rfl⟩, h.cur⟩

theorem State.launched.sameRegs {s t : State} {n : BitVec 5} {x : Slot} (h : s.launched t n x) : s.sameRegs t :=
  ⟨fun r => by rw [h.ctx]; exact Ctx.setSlot_reg _ _ _ r, by rw [h.ctx]; rfl⟩

theorem State.setSlot_ctx {u : State} {c : Ctx} (same : u.ctx = c) (n : BitVec 5) (x : Slot) : (u.modCtx fun c => c.setSlot n x).ctx = c.setSlot n x := by
  rw [State.ctx_modCtx, same]

/-- A load that passes its checks goes out as one read (R216). -/
theorem State.launch_sent {s u : State} {n : BitVec 5} {p : Place} {h : Nat}
    (ok : s.check .load (s.ctx.slot n).addr (tagBytes (s.ctx.slot n).width) (tagBytes (s.ctx.slot n).width) s.exchange = (u, .ok p, h)) :
    s.launched (s.launch n) n { s.ctx.slot n with state := .pending, read := false, load := s.seq, cause := 0, detail := 0, caddr := 0 } ∧
      (s.launch n).mem = s.mem ∧ ∃ y, (s.launch n).accs = s.accs ++ [y] ∧ y.ctx = s.cur ∧ y.key = p.key ∧ y.len = tagBytes (s.ctx.slot n).width ∧
        y.op = .tagged n ∧ y.caddr = (s.ctx.slot n).addr := by
  have found : s.sought u := (State.check_sought ..).of_fst ok
  unfold State.launch
  dsimp only
  rw [ok]
  dsimp only
  rw [found.seq]
  refine ⟨⟨?_, found.cycle, found.cur, ?_⟩, found.mem, _, congrArg (· ++ [_]) found.accs, found.cur, rfl, rfl, rfl, rfl⟩
  · exact State.setSlot_ctx found.ctx n _
  · rw [← found.cur]
    exact List.mem_append_right _ (List.mem_cons_of_mem _ List.mem_cons_self)

/-- A load that fails its checks leaves its marker (R217). -/
theorem State.launch_marked {s u : State} {n : BitVec 5} {f : AccessFault} {h : Nat}
    (bad : s.check .load (s.ctx.slot n).addr (tagBytes (s.ctx.slot n).width) (tagBytes (s.ctx.slot n).width) s.exchange = (u, .error f, h)) :
    s.launched (s.launch n) n { s.ctx.slot n with state := .pending, read := false, cause := f.cause, detail := f.detail, caddr := f.addr } ∧
      (s.launch n).accs = s.accs := by
  have found : s.sought u := (State.check_sought ..).of_fst bad
  have logged : ∀ v, v = (if f.isViolation then u.violation f.cause f.detail f.addr else u) →
      v.ctx = s.ctx ∧ v.cycle = s.cycle ∧ v.cur = s.cur ∧ v.accs = s.accs := by
    rintro v rfl
    split
    · exact ⟨(u.logEntry_ctx ..).trans found.ctx, (u.logEntry_cycle ..).trans found.cycle, (u.logEntry_cur ..).trans found.cur,
        (u.logEntry_accs ..).trans found.accs⟩
    · exact ⟨found.ctx, found.cycle, found.cur, found.accs⟩
  unfold State.launch
  dsimp only
  rw [bad]
  dsimp only
  generalize v_eq : (if f.isViolation then u.violation f.cause f.detail f.addr else u) = v
  obtain ⟨ctx, cycle, cur, accs⟩ := logged v v_eq.symm
  exact ⟨⟨State.setSlot_ctx ctx n _, cycle, cur, List.mem_append_right _ (List.mem_singleton.2 rfl)⟩, accs⟩

theorem exec_ldt {s : State} (sw : Bool) (n a b : BitVec 5) (w : TagWidth) (k : BitVec 2) (e : Ext) (ready : s.ready [.x a, .x b]) :
    exec (.ldt sw n a b w k e) s = .next (if (s.ctx.slot n).state ≠ .free then
        (s.issued [.x a, .x b]).trapHere 0x0B (BitVec.ofNat 32 (n.toNat + 256 * (s.ctx.slot n).state.code)) 0
      else ((((s.issued [.x a, .x b]).modCtx fun c =>
        { c.setSlot n { Slot.free with width := w, addr := s.address a b k e, rank := c.nextRank, taint := c.taintOf [.reg (.x a), .reg (.x b)] } with
          nextRank := c.nextRank + 1 }).launch n).retireAfter sw (extBytes e) 1)) := by
  have run : exec (.ldt sw n a b w k e) s = execLdt sw n a b w k e s := rfl
  unfold execLdt at run
  rw [State.issue_issued (by simpa using ready)] at run
  have slot : (s.issued [.x a, .x b]).ctx.slot n = s.ctx.slot n := by rw [State.issued_ctx]; rfl
  dsimp only at run
  rw [slot] at run
  simp only [State.address_issued] at run
  exact run

/-- The state in which LDT launches its slot (R216). -/
def State.tagged (s : State) (n : BitVec 5) (rs : List Reg) (w : TagWidth) (addr : Word) : State :=
  (s.issued rs).modCtx fun c => { c.setSlot n { Slot.free with width := w, addr, rank := c.nextRank, taint := c.taintOf (rs.map .reg) } with nextRank := c.nextRank + 1 }

theorem State.tagged_ctx (s : State) (n : BitVec 5) (rs : List Reg) (w : TagWidth) (addr : Word) : (s.tagged n rs w addr).ctx =
    { s.ctx.setSlot n { Slot.free with width := w, addr, rank := s.ctx.nextRank, taint := s.ctx.taintOf (rs.map .reg) } with
      nextRank := s.ctx.nextRank + 1, inTaint := s.ctx.taintOf (rs.map .reg) } := by
  rw [State.tagged, State.ctx_modCtx, State.issued_ctx]
  rfl

theorem State.tagged_slot (s : State) (n : BitVec 5) (rs : List Reg) (w : TagWidth) (addr : Word) :
    (s.tagged n rs w addr).ctx.slot n = { Slot.free with width := w, addr, rank := s.ctx.nextRank, taint := s.ctx.taintOf (rs.map .reg) } := by
  rw [State.tagged_ctx]
  exact s.ctx.slot_setSlot n _

/-- The state in which RELD launches its slot again (R222). -/
def State.untagged (s : State) (n : BitVec 5) : State := (s.issued []).modCtx fun c => { c with landed := c.landed.filter (· ≠ n) }

theorem exec_reld {s : State} (sw : Bool) (n : BitVec 5) (ready : s.ready []) :
    exec (.reld sw n) s = .next (if (s.ctx.slot n).state ≠ .faulted then (s.issued []).illegal else ((s.untagged n).launch n).retireAfter sw 4 1) := by
  have run : exec (.reld sw n) s = execReld sw n s := rfl
  unfold execReld at run
  rw [State.issue_issued (by simpa using ready)] at run
  have slot : (s.issued []).ctx.slot n = s.ctx.slot n := by rw [State.issued_ctx]; rfl
  rw [slot] at run
  exact run

theorem exec_reldDrop {s : State} (sw : Bool) (n : BitVec 5) (ready : s.ready []) :
    exec (.reldDrop sw n) s = .next (if (s.ctx.slot n).state ≠ .faulted then (s.issued []).illegal
      else ((s.issued []).modCtx fun c => c.freeSlot n).retireAfter sw 4 1) := by
  have run : exec (.reldDrop sw n) s = execReldDrop sw n s := rfl
  unfold execReldDrop at run
  rw [State.issue_issued (by simpa using ready)] at run
  have slot : (s.issued []).ctx.slot n = s.ctx.slot n := by rw [State.issued_ctx]; rfl
  rw [slot] at run
  exact run

/-! ## Landing (R214, R218) -/

theorem State.slotLands_none {s : State} {c : Fin 11} {n : BitVec 5} (none : ∀ y ∈ s.accs, y.ctx = c → y.op ≠ .tagged n) (read : s.slotRead c n = true) :
    exec (.slotLands c n) s = .next (s.landRead c n) := by
  have missing : (s.accs.find? fun a => decide (a.ctx = c) && decide (a.op = .tagged n)) = .none := by
    rw [List.find?_eq_none]
    intro y hy
    simp only [Bool.and_eq_true, decide_eq_true_eq, not_and]
    exact none y hy
  show execSlotLands c n s = _
  unfold execSlotLands
  rw [missing]
  dsimp only
  rw [read, if_pos rfl]

/-- What a slot's landing leaves (R214). -/
theorem State.landRead_lands (s : State) (c : Fin 11) (n : BitVec 5) : (s.landRead c n).mem = s.mem ∧ (s.landRead c n).accs = s.accs ∧
    (∀ m r, ((s.landRead c n).ctxAt m).reg r = (s.ctxAt m).reg r) ∧ n ∈ ((s.landRead c n).ctxAt c).landed ∧
    ((s.landRead c n).ctxAt c).slot n = { (s.ctxAt c).slot n with
      state := if ((s.ctxAt c).slot n).cause = 0 then .landed else .faulted, read := false, since := s.cycle } ∧
    (∀ m, m ≠ n → ((s.landRead c n).ctxAt c).slot m = (s.ctxAt c).slot m) := by
  have counted := State.count_sought (s.modCtxAt c fun x => x.land n (fun x => { x with state := if x.cause = 0 then .landed else .faulted, read := false }) s.cycle) 4
  have ctxAt (m : Fin 11) : (s.landRead c n).ctxAt m = (s.modCtxAt c fun x => x.land n
      (fun x => { x with state := if x.cause = 0 then .landed else .faulted, read := false }) s.cycle).ctxAt m := by
    rw [State.ctxAt, State.landRead, State.landSlot, counted.ctxs]
    rfl
  refine ⟨counted.mem, counted.accs, fun m r => ?_, ?_, ?_, fun m ne => ?_⟩
  · rw [ctxAt]
    by_cases same : c = m
    · subst same
      rw [State.ctxAt_modCtxAt]
      exact Ctx.reg_congr rfl rfl rfl r
    · rw [State.ctxAt_modCtxAt_ne _ _ _ _ same]
  · rw [ctxAt, State.ctxAt_modCtxAt]
    exact Ctx.mem_land ..
  · rw [ctxAt, State.ctxAt_modCtxAt, Ctx.slot_land]
  · rw [ctxAt, State.ctxAt_modCtxAt, Ctx.slot_land_ne _ _ _ ne]

/-- What a slot has read, as the state after it (R218). -/
theorem State.readSlot_good {s : State} {a : Acc} (n : BitVec 5) (good : s.badAt a.key a.len = none) : s.readSlot a n =
    s.modCtxAt a.ctx fun c => c.modSlot n fun x => { x with read := true, val := bitsOfBytes 512 (s.seenBy a.ctx a.seq a.key a.len) } := by
  unfold State.readSlot
  rw [good]

theorem State.readSlot_bad {s : State} {a : Acc} (n : BitVec 5) {src : Nat} (bad : s.badAt a.key a.len = some src) : s.readSlot a n =
    (s.logEntry true 2 0x18 (s.sourceOf a.ctx) (badDetail false src) a.caddr).modCtxAt a.ctx fun c =>
      c.modSlot n fun x => { x with read := true, cause := 0x18, detail := badDetail false src, caddr := a.caddr } := by
  unfold State.readSlot
  rw [bad]

theorem State.modSlotAt_reg (s : State) (c : Fin 11) (n : BitVec 5) (f : Slot → Slot) (m : Fin 11) (r : Reg) :
    ((s.modCtxAt c fun x => x.modSlot n f).ctxAt m).reg r = (s.ctxAt m).reg r := by
  by_cases same : c = m
  · subst same
    rw [State.ctxAt_modCtxAt]
    exact Ctx.reg_congr rfl rfl rfl r
  · rw [State.ctxAt_modCtxAt_ne _ _ _ _ same]

/-- A context whose slot `n` alone has been read: the others, the landed queue and the lanes that met bad data are as they were. -/
structure Ctx.slotRead (c d : Ctx) (n : BitVec 5) (x : Slot) : Prop where
  slot : d.slot n = x
  others : ∀ m, m ≠ n → d.slot m = c.slot m
  landed : d.landed = c.landed

theorem Ctx.modSlot_read (c : Ctx) (n : BitVec 5) (f : Slot → Slot) : c.slotRead (c.modSlot n f) n (f (c.slot n)) :=
  ⟨c.slot_modSlot n f, fun _ ne => c.slot_modSlot_ne f ne, rfl⟩

/-- A tagged load's read, as it is performed (R218). -/
theorem State.performAcc_tagged {s r : State} {a : Acc} {n : BitVec 5} {f : Slot → Slot} (op : a.op = .tagged n)
    (read : s.readSlot a n = r.modCtxAt a.ctx fun c => c.modSlot n f) (ctxAt : ∀ m, r.ctxAt m = s.ctxAt m)
    (clean : (s.ctxAt a.ctx).badLanes = []) :
    (s.performAcc a).mem = r.mem ∧ (∀ m q, ((s.performAcc a).ctxAt m).reg q = (s.ctxAt m).reg q) ∧
      (s.ctxAt a.ctx).slotRead ((s.performAcc a).ctxAt a.ctx) n (f ((s.ctxAt a.ctx).slot n)) ∧ ∀ z ∈ (s.performAcc a).accs, z.seq ≠ a.seq := by
  unfold State.performAcc State.performOp
  rw [op]
  dsimp only
  rw [read]
  set m := r.modCtxAt a.ctx fun c => c.modSlot n f with hm
  have left := m.dropAcc_left a
  have here : m.ctxAt a.ctx = (s.ctxAt a.ctx).modSlot n f := by rw [hm, State.ctxAt_modCtxAt, ctxAt]
  rw [State.reportBad_none a.inst ((left.ctxAt a.ctx).badLanes.trans (by rw [here]; exact clean))]
  refine ⟨left.mem, fun c q => ?_, ?_, fun z hz => ?_⟩
  · rw [State.wake_ctxAt, Ctx.unholdInv_reg, (left.ctxAt c).reg q, hm, State.modSlotAt_reg, ctxAt]
  · have same := left.ctxAt a.ctx
    rw [here] at same
    rw [State.wake_ctxAt]
    unfold Ctx.onlyOrder at same
    generalize (m.dropAcc a).ctxAt a.ctx = d at same ⊢
    rw [same]
    have read := ((s.ctxAt a.ctx)).modSlot_read n f
    exact ⟨read.slot, read.others, read.landed⟩
  · rw [State.wake_accs, left.accs] at hz
    obtain ⟨x, hx, rfl⟩ := List.mem_map.1 hz
    exact of_decide_eq_true (List.mem_filter.1 hx).2

/-- The same of a line that can be read. -/
theorem State.performAcc_tagged_good {s : State} {a : Acc} {n : BitVec 5} (op : a.op = .tagged n) (good : s.badAt a.key a.len = none)
    (clean : (s.ctxAt a.ctx).badLanes = []) :
    (s.performAcc a).mem = s.mem ∧ (∀ m q, ((s.performAcc a).ctxAt m).reg q = (s.ctxAt m).reg q) ∧
      (s.ctxAt a.ctx).slotRead ((s.performAcc a).ctxAt a.ctx) n
        { (s.ctxAt a.ctx).slot n with read := true, val := bitsOfBytes 512 (s.seenBy a.ctx a.seq a.key a.len) } ∧ ∀ z ∈ (s.performAcc a).accs, z.seq ≠ a.seq :=
  State.performAcc_tagged op (State.readSlot_good n good) (fun _ => rfl) clean

/-- The same of a line with uncorrectable data: a marker waits to land (R197). -/
theorem State.performAcc_tagged_bad {s : State} {a : Acc} {n : BitVec 5} {src : Nat} (op : a.op = .tagged n) (bad : s.badAt a.key a.len = some src)
    (clean : (s.ctxAt a.ctx).badLanes = []) :
    (∀ m q, ((s.performAcc a).ctxAt m).reg q = (s.ctxAt m).reg q) ∧ (s.ctxAt a.ctx).slotRead ((s.performAcc a).ctxAt a.ctx) n
        { (s.ctxAt a.ctx).slot n with read := true, cause := 0x18, detail := badDetail false src, caddr := a.caddr } :=
  have all := State.performAcc_tagged op (State.readSlot_bad n bad) (fun m => s.logEntry_ctxAt true 2 0x18 (s.sourceOf a.ctx) (badDetail false src) a.caddr m) clean
  ⟨all.2.1, all.2.2.1⟩

/-- A slot whose load has not read yet reads as it lands (R218). -/
theorem State.slotLands_reads {s : State} {a : Acc} {n : BitVec 5} (mem : a ∈ s.accs) (op : a.op = .tagged n)
    (one : ∀ z ∈ s.accs, z.ctx = a.ctx → z.op = .tagged n → z = a) (can : s.canPerform a = true) (answers : s.answersRetry a = false)
    (read : (s.performAcc a).slotRead a.ctx n = true) : exec (.slotLands a.ctx n) s = .next ((s.performAcc a).landRead a.ctx n) := by
  have found : (s.accs.find? fun x => decide (x.ctx = a.ctx) && decide (x.op = .tagged n)) = some a := by
    obtain ⟨y, hy⟩ := Option.isSome_iff_exists.1 (List.find?_isSome.2 ⟨a, mem, by simp [op]⟩ :
      (s.accs.find? fun x => decide (x.ctx = a.ctx) && decide (x.op = .tagged n)).isSome = true)
    have at_ := List.find?_some hy
    simp only [Bool.and_eq_true, decide_eq_true_eq] at at_
    rw [hy, one y (List.mem_of_find?_eq_some hy) at_.1 at_.2]
  have tried : s.tryAcc a = s.performAcc a := by
    rw [State.tryAcc, if_neg (by rw [can]; exact Bool.noConfusion), answers, if_neg Bool.false_ne_true, op]
    rfl
  show execSlotLands a.ctx n s = _
  unfold execSlotLands
  rw [found]
  dsimp only
  rw [tried, read, if_pos rfl]

theorem State.slotRead_iff {s : State} {c : Fin 11} {n : BitVec 5} : s.slotRead c n = true ↔
    ((s.ctxAt c).slot n).state = .pending ∧ (((s.ctxAt c).slot n).read = true ∨ ((s.ctxAt c).slot n).cause ≠ 0) := by
  simp [State.slotRead]

theorem exec_landingSetDrainBound {s : State} (evicted : s.job.evicted = true) :
    exec .landingSetDrainBound s = .next ((s.modCore fun c => { c with drained := true }).post .coreSave) :=
  congrArg Host.Outcome.next (if_pos evicted)

theorem State.retireAfter_slot (s : State) (sw : Bool) (size gap : Nat) (m : BitVec 5) : (s.retireAfter sw size gap).ctx.slot m = s.ctx.slot m := by
  rw [State.retireAfter_ctx, Ctx.sequential_only]
  rfl

theorem State.retireAfter_landed (s : State) (sw : Bool) (size gap : Nat) : (s.retireAfter sw size gap).ctx.landed = s.ctx.landed := by
  rw [State.retireAfter_ctx, Ctx.sequential_only]

theorem State.retireAfter_nextRank (s : State) (sw : Bool) (size gap : Nat) : (s.retireAfter sw size gap).ctx.nextRank = s.ctx.nextRank := by
  rw [State.retireAfter_ctx, Ctx.sequential_only]

/-- A state in which an instruction has prepared slot `n` for its load. -/
structure State.prepares (s m : State) (n : BitVec 5) : Prop where
  amid : s.amid m
  regs : s.sameRegs m
  others : ∀ k, k ≠ n → m.ctx.slot k = s.ctx.slot k
  mem : m.mem = s.mem
  accs : m.accs = s.accs

theorem State.prepares.others_launched {s m t : State} {n : BitVec 5} {x : Slot} (h : s.prepares m n) (l : m.launched t n x) (sw : Bool) (size : Nat) :
    (∀ k, k ≠ n → (t.retireAfter sw size 1).ctx.slot k = s.ctx.slot k) ∧ s.sameRegs (t.retireAfter sw size 1) ∧ (t.retireAfter sw size 1).ctx.slot n = x ∧
      s.goesOn (t.retireAfter sw size 1) sw size 1 ∧ .slotLands s.cur n ∈ (t.retireAfter sw size 1).agenda := by
  refine ⟨fun k ne => ?_, (h.regs.trans l.sameRegs).trans (State.retireAfter_sameRegs ..), ?_, (h.amid.trans l.amid).goesOn sw size 1, ?_⟩
  · rw [State.retireAfter_slot, l.ctx, Ctx.slot_setSlot_ne _ _ ne, h.others k ne]
  · rw [State.retireAfter_slot, l.ctx, Ctx.slot_setSlot]
  · rw [← h.amid.cur]
    exact l.lands

/-- What the launch of a prepared slot sends (R216). -/
theorem State.prepares.sent {s m u : State} {n : BitVec 5} {p : Place} {time : Nat} (h : s.prepares m n)
    (ok : m.check .load (m.ctx.slot n).addr (tagBytes (m.ctx.slot n).width) (tagBytes (m.ctx.slot n).width) m.exchange = (u, .ok p, time))
    (sw : Bool) (size : Nat) : ((m.launch n).retireAfter sw size 1).accs.length = s.accs.length + 1 ∧
      (∀ y ∈ s.accs, y ∈ ((m.launch n).retireAfter sw size 1).accs) ∧ ∃ y ∈ ((m.launch n).retireAfter sw size 1).accs, y.ctx = s.cur ∧ y.key = p.key ∧
        y.len = tagBytes (m.ctx.slot n).width ∧ y.op = .tagged n ∧ y.caddr = (m.ctx.slot n).addr ∧
        .slotLands s.cur n ∈ ((m.launch n).retireAfter sw size 1).agenda := by
  obtain ⟨l, -, y, accs, ctx, rest⟩ := State.launch_sent ok
  obtain ⟨-, -, -, -, lands⟩ := h.others_launched l sw size
  have all : ((m.launch n).retireAfter sw size 1).accs = s.accs ++ [y] := accs.trans (congrArg (· ++ [y]) h.accs)
  rw [all]
  exact ⟨List.length_append, fun z hz => List.mem_append_left _ hz, y, List.mem_append_right _ (List.mem_singleton.2 rfl), ctx.trans h.amid.cur,
    rest.1, rest.2.1, rest.2.2.1, rest.2.2.2, lands⟩

theorem State.tagged_prepares (s : State) (n : BitVec 5) (rs : List Reg) (w : TagWidth) (addr : Word) : s.prepares (s.tagged n rs w addr) n where
  amid := ⟨rfl, by rw [State.tagged_ctx]; exact ⟨rfl, rfl, rfl, rfl, rfl, rfl⟩, rfl⟩
  regs := ⟨fun r => by rw [State.tagged_ctx]; exact Ctx.reg_congr rfl rfl rfl r, by rw [State.tagged_ctx]; rfl⟩
  others k ne := by rw [State.tagged_ctx]; exact s.ctx.slot_setSlot_ne _ ne
  mem := rfl
  accs := rfl

theorem State.untagged_ctx (s : State) (n : BitVec 5) : (s.untagged n).ctx =
    { s.ctx with landed := s.ctx.landed.filter (· ≠ n), inTaint := s.ctx.taintOf [] } := by
  rw [State.untagged, State.ctx_modCtx, State.issued_ctx]
  rfl

theorem State.untagged_slot (s : State) (n m : BitVec 5) : (s.untagged n).ctx.slot m = s.ctx.slot m := by
  rw [State.untagged_ctx]
  rfl

theorem State.untagged_prepares (s : State) (n : BitVec 5) : s.prepares (s.untagged n) n where
  amid := ⟨rfl, by rw [State.untagged_ctx]; exact ⟨rfl, rfl, rfl, rfl, rfl, rfl⟩, rfl⟩
  regs := ⟨fun r => by rw [State.untagged_ctx]; exact Ctx.reg_congr rfl rfl rfl r, by rw [State.untagged_ctx]⟩
  others k _ := s.untagged_slot n k
  mem := rfl
  accs := rfl

theorem State.freed_slot (s : State) (n : BitVec 5) : ((s.issued []).modCtx fun c => c.freeSlot n).ctx =
    { s.ctx.setSlot n Slot.free with landed := s.ctx.landed.filter (· ≠ n), inTaint := s.ctx.taintOf [] } := by
  rw [State.ctx_modCtx, State.issued_ctx]
  rfl

/-- RELD.drop frees its slot, and changes nothing but its context (R222). -/
theorem State.reldDrop_frees (s : State) (n : BitVec 5) (sw : Bool) (t : State) (eq : t = ((s.issued []).modCtx fun c => c.freeSlot n).retireAfter sw 4 1) :
    t = s.setCtx t.ctx ∧ s.goesOn t sw 4 1 ∧ s.sameRegs t ∧ (∀ m, m ≠ n → t.ctx.slot m = s.ctx.slot m) ∧ (t.ctx.slot n).state = .free ∧
      t.ctx.landed = s.ctx.landed.filter (· ≠ n) := by
  have amid : s.amid ((s.issued []).modCtx fun c => c.freeSlot n) := ⟨rfl, by rw [State.freed_slot]; exact ⟨rfl, rfl, rfl, rfl, rfl, rfl⟩, rfl⟩
  have same : s.sameRegs ((s.issued []).modCtx fun c => c.freeSlot n) :=
    ⟨fun r => by rw [State.freed_slot]; exact Ctx.reg_congr rfl rfl rfl r, by rw [State.freed_slot]; rfl⟩
  subst eq
  refine ⟨?_, amid.goesOn sw 4 1, same.trans (State.retireAfter_sameRegs ..), fun m ne => ?_, ?_, ?_⟩
  · simp [State.retireAfter, State.issued, State.modCtx, State.setCtx, State.ctx]
  · rw [State.retireAfter_slot, State.freed_slot]
    exact s.ctx.slot_setSlot_ne _ ne
  · rw [State.retireAfter_slot, State.freed_slot]
    exact congrArg Slot.state (s.ctx.slot_setSlot n Slot.free)
  · rw [State.retireAfter_landed, State.freed_slot]

/-- Settles O31: a launch sends or marks, and a landing takes what has been read. -/
theorem taggedLoadsAreLaunchedAndLand : Obligations.TaggedLoadsAreLaunchedAndLand := by
  unfold Obligations.TaggedLoadsAreLaunchedAndLand
  intro s u sw n a b w k e p f h size A x prep again others sent marked
  have slot : prep.ctx.slot n = { Slot.free with width := w, addr := A, rank := s.ctx.nextRank, taint := s.ctx.taintOf ([Reg.x a, .x b].map .reg) } :=
    s.tagged_slot n [.x a, .x b] w A
  have prepares : s.prepares prep n := s.tagged_prepares n [.x a, .x b] w A
  have rank : prep.ctx.nextRank = s.ctx.nextRank + 1 := by
    show (s.tagged n [.x a, .x b] w A).ctx.nextRank = _
    rw [State.tagged_ctx]
  have slotAgain : again.ctx.slot n = x := s.untagged_slot n n
  have preparesAgain : s.prepares again n := s.untagged_prepares n
  have landed : again.ctx.landed = s.ctx.landed.filter (· ≠ n) := by
    show (s.untagged n).ctx.landed = _
    rw [State.untagged_ctx]
  refine ⟨fun ready free ok => ?_, fun ready free bad => ?_, fun ready busy trappable => ?_, fun ready faulted ok => ?_, fun ready faulted bad => ?_,
    fun ready faulted => ?_, fun j which ready not trappable unclaimed => ?_, fun c y mem ctx op one pending clean can answers lanes => ?_,
    fun c absent pending read => ?_, fun evicted => ⟨_, exec_landingSetDrainBound evicted, rfl, List.mem_append_right _ (List.mem_singleton.2 rfl), rfl, rfl⟩⟩
  · have run := exec_ldt sw n a b w k e ready
    rw [if_neg (not_not.2 free)] at run
    have checked : prep.check .load (prep.ctx.slot n).addr (tagBytes (prep.ctx.slot n).width) (tagBytes (prep.ctx.slot n).width) prep.exchange = (u, .ok p, h) := by
      rw [slot]; exact ok
    obtain ⟨l, mem, -⟩ := State.launch_sent checked
    obtain ⟨kept, regs, here, goes, -⟩ := prepares.others_launched l sw (extBytes e)
    have sends := prepares.sent checked sw (extBytes e)
    rw [slot] at sends here
    refine ⟨_, run, goes, ⟨mem.trans prepares.mem, kept, regs, ?_, ?_, ?_, ?_, ?_, sends⟩, ?_⟩
    · exact (congrArg Slot.state here).trans rfl
    · exact (congrArg Slot.cause here).trans rfl
    · exact (congrArg Slot.width here).trans rfl
    · exact (congrArg Slot.addr here).trans rfl
    · exact (congrArg Slot.rank here).trans rfl
    · rw [State.retireAfter_nextRank]
      exact (congrArg Ctx.nextRank l.ctx).trans rank
  · have run := exec_ldt sw n a b w k e ready
    rw [if_neg (not_not.2 free)] at run
    have checked : prep.check .load (prep.ctx.slot n).addr (tagBytes (prep.ctx.slot n).width) (tagBytes (prep.ctx.slot n).width) prep.exchange = (u, .error f, h) := by
      rw [slot]; exact bad
    obtain ⟨l, accs⟩ := State.launch_marked checked
    obtain ⟨kept, regs, here, goes, lands⟩ := prepares.others_launched l sw (extBytes e)
    rw [slot] at here
    refine ⟨_, run, goes, ⟨kept, regs, ?_, ?_, ?_, ?_, ?_, ?_, ?_, accs.trans prepares.accs, lands⟩, ?_⟩
    · exact (congrArg Slot.state here).trans rfl
    · exact (congrArg Slot.cause here).trans rfl
    · exact (congrArg Slot.detail here).trans rfl
    · exact (congrArg Slot.caddr here).trans rfl
    · exact (congrArg Slot.width here).trans rfl
    · exact (congrArg Slot.addr here).trans rfl
    · exact (congrArg Slot.rank here).trans rfl
    · rw [State.retireAfter_nextRank]
      exact (congrArg Ctx.nextRank l.ctx).trans rank
  · have run := exec_ldt sw n a b w k e ready
    rw [if_pos busy] at run
    exact ⟨_, run, State.raise_accs (State.issued_trappable trappable _) _, State.issued_trapHere_entered trappable ..⟩
  · have run := exec_reld sw n ready
    rw [if_neg (not_not.2 faulted)] at run
    have checked : again.check .load (again.ctx.slot n).addr (tagBytes (again.ctx.slot n).width) (tagBytes (again.ctx.slot n).width) again.exchange = (u, .ok p, h) := by
      rw [slotAgain]; exact ok
    obtain ⟨l, mem, -⟩ := State.launch_sent checked
    obtain ⟨kept, regs, here, goes, -⟩ := preparesAgain.others_launched l sw 4
    have sends := preparesAgain.sent checked sw 4
    rw [slotAgain] at sends here
    refine ⟨_, run, goes, ⟨mem.trans preparesAgain.mem, kept, regs, ?_, ?_, ?_, ?_, ?_, sends⟩, ?_⟩
    · exact (congrArg Slot.state here).trans rfl
    · exact (congrArg Slot.cause here).trans rfl
    · exact (congrArg Slot.width here).trans rfl
    · exact (congrArg Slot.addr here).trans rfl
    · exact (congrArg Slot.rank here).trans rfl
    · rw [State.retireAfter_landed]
      exact (congrArg Ctx.landed l.ctx).trans landed
  · have run := exec_reld sw n ready
    rw [if_neg (not_not.2 faulted)] at run
    have checked : again.check .load (again.ctx.slot n).addr (tagBytes (again.ctx.slot n).width) (tagBytes (again.ctx.slot n).width) again.exchange = (u, .error f, h) := by
      rw [slotAgain]; exact bad
    obtain ⟨l, accs⟩ := State.launch_marked checked
    obtain ⟨kept, regs, here, goes, lands⟩ := preparesAgain.others_launched l sw 4
    rw [slotAgain] at here
    refine ⟨_, run, goes, ⟨kept, regs, ?_, ?_, ?_, ?_, ?_, ?_, ?_, accs.trans preparesAgain.accs, lands⟩, ?_⟩
    · exact (congrArg Slot.state here).trans rfl
    · exact (congrArg Slot.cause here).trans rfl
    · exact (congrArg Slot.detail here).trans rfl
    · exact (congrArg Slot.caddr here).trans rfl
    · exact (congrArg Slot.width here).trans rfl
    · exact (congrArg Slot.addr here).trans rfl
    · exact (congrArg Slot.rank here).trans rfl
    · rw [State.retireAfter_landed]
      exact (congrArg Ctx.landed l.ctx).trans landed
  · have run := exec_reldDrop sw n ready
    rw [if_neg (not_not.2 faulted)] at run
    exact ⟨_, run, s.reldDrop_frees n sw _ rfl⟩
  · have run : exec j s = .next (s.issued []).illegal := by
      obtain rfl | rfl := which
      · exact (exec_reld sw n ready).trans (congrArg Host.Outcome.next (if_pos not))
      · exact (exec_reldDrop sw n ready).trans (congrArg Host.Outcome.next (if_pos not))
    exact ⟨_, run, State.issued_raise_unclaimed trappable unclaimed [] rfl, State.issued_illegal_entered trappable []⟩
  · subst ctx
    have good (ok : s.badAt y.key y.len = none) := State.performAcc_tagged_good op ok lanes
    refine ⟨fun ok single => ?_, fun ok => ?_, fun src bad => ?_⟩
    · obtain ⟨kept, regs, slots, gone⟩ := good ok
      have run := exec_accessPerformed mem single can answers
      rw [op] at run
      exact ⟨_, run, kept, slots.slot, slots.landed, regs, gone⟩
    · obtain ⟨kept, regs, slots, gone⟩ := good ok
      have read : (s.performAcc y).slotRead y.ctx n = true := State.slotRead_iff.2 (by rw [slots.slot]; exact ⟨pending, .inl rfl⟩)
      obtain ⟨mem', accs, regs', joined, slot, rest⟩ := State.landRead_lands (s.performAcc y) y.ctx n
      refine ⟨_, State.slotLands_reads mem op one can answers read, mem'.trans kept, fun m r => (regs' m r).trans (regs m r), ?_, ?_, joined,
        fun m ne => (rest m ne).trans (slots.others m ne), fun z hz => gone z (by rwa [accs] at hz)⟩
      · rw [slot, slots.slot]
        exact if_pos clean
      · rw [slot, slots.slot]
    · obtain ⟨regs, slots⟩ := State.performAcc_tagged_bad op bad lanes
      have read : (s.performAcc y).slotRead y.ctx n = true := State.slotRead_iff.2 (by rw [slots.slot]; exact ⟨pending, .inl rfl⟩)
      obtain ⟨-, -, regs', joined, slot, -⟩ := State.landRead_lands (s.performAcc y) y.ctx n
      refine ⟨_, State.slotLands_reads mem op one can answers read, fun m r => (regs' m r).trans (regs m r), ?_, ?_, ?_, joined⟩
      · rw [slot, slots.slot]
        exact if_neg (c := (0x18 : BitVec 8) = 0) (t := SlotState.landed) (by decide)
      · rw [slot, slots.slot]
      · rw [slot, slots.slot]
  · have ready : s.slotRead c n = true := State.slotRead_iff.2 ⟨pending, read.symm⟩
    obtain ⟨mem, -, regs, joined, slot, rest⟩ := State.landRead_lands s c n
    exact ⟨_, State.slotLands_none absent ready, mem, regs, joined, slot, rest⟩

end Sys2Proof.Machine
end

section
/-! SUPPORT. Results of variable latency that come at a known cycle (R230), and what a take's order says (R219, R225). -/

namespace Sys2Proof.Machine

/-- The outstanding write of a result that arrives `lat` cycles after its issue; x0 takes none (R24). -/
def State.lateWrites (s : State) (r : Reg) (v : Vec) (lat : Nat) : List PendingWrite :=
  if r = .x 0 then []
  else [{ reg := r, val := v, need := 0, seq := s.seq, due := some (s.cycle + lat), dead := false, late := true, ready := 0 }]

/-- What a take tells the landing set from: the slots, the landed queue, the mode and the recorded order. -/
structure Ctx.sameSet (c d : Ctx) : Prop where
  slots : d.slots = c.slots
  landed : d.landed = c.landed
  lsord : d.lsord = c.lsord
  tookFree : d.tookFree = c.tookFree
  takeOrder : d.takeOrder = c.takeOrder
  replay : d.replay = c.replay

theorem Ctx.sameSet.trans {c d e : Ctx} (h : c.sameSet d) (k : d.sameSet e) : c.sameSet e :=
  ⟨k.slots.trans h.slots, k.landed.trans h.landed, k.lsord.trans h.lsord, k.tookFree.trans h.tookFree, k.takeOrder.trans h.takeOrder, k.replay.trans h.replay⟩

theorem Ctx.sameSet.slot {c d : Ctx} (h : c.sameSet d) (t : BitVec 5) : d.slot t = c.slot t := Ctx.slot_eq h.slots t

theorem Ctx.sameSet.inClass {c d : Ctx} (h : c.sameSet d) (v : Bool) (t : BitVec 5) : d.inClass v t = c.inClass v t := by
  rw [Ctx.inClass, h.slot]
  rfl

theorem Ctx.sameSet.lowestRank {c d : Ctx} (h : c.sameSet d) : ∀ ts, d.lowestRank ts = c.lowestRank ts
  | [] => rfl
  | t :: ts => by
    rw [Ctx.lowestRank, Ctx.lowestRank, h.lowestRank ts]
    simp only [h.slot]

theorem Ctx.sameSet.choose {c d : Ctx} (h : c.sameSet d) (v : Bool) : d.choose v = c.choose v := by
  have cls : d.inClass v = c.inClass v := funext (h.inClass v)
  unfold Ctx.choose
  rw [cls, h.lsord, h.replay, h.landed]
  dsimp only
  rw [h.lowestRank]

/-- A state that has the outstanding writes `ws` more: no register has changed. -/
structure State.owes (s t : State) (ws : List PendingWrite) : Prop where
  amid : s.amid t
  regs : ∀ q, t.ctx.reg q = s.ctx.reg q
  writes : t.ctx.writes = s.ctx.writes ++ ws
  accs : t.accs = s.accs

theorem State.owes.trans {s t u : State} {ws xs : List PendingWrite} (h : s.owes t ws) (k : t.owes u xs) : s.owes u (ws ++ xs) :=
  ⟨h.amid.trans k.amid, fun q => (k.regs q).trans (h.regs q), by rw [k.writes, h.writes, List.append_assoc], k.accs.trans h.accs⟩

/-- Of the context, a change that keeps its place, its registers and its writes. -/
theorem State.owes.of_ctx {s t : State} {c : Ctx} (ctx : t.ctx = c) (way : s.ctx.sameWay c) (regs : ∀ q, c.reg q = s.ctx.reg q) (writes : c.writes = s.ctx.writes)
    (cycle : t.cycle = s.cycle) (cur : t.cur = s.cur) (accs : t.accs = s.accs) : s.owes t [] :=
  ⟨⟨cycle, by rw [ctx]; exact way, cur⟩, by rw [ctx]; exact regs, by rw [ctx, writes, List.append_nil], accs⟩

theorem Ctx.setTaint_way (c : Ctx) (r : TReg) (ts : List Nat) : c.sameWay (c.setTaint r ts) ∧ c.sameSet (c.setTaint r ts) ∧
    (∀ q, (c.setTaint r ts).reg q = c.reg q) ∧ (c.setTaint r ts).writes = c.writes := by
  unfold Ctx.setTaint
  split
  · exact ⟨.refl _, ⟨rfl, rfl, rfl, rfl, rfl, rfl⟩, fun _ => rfl, rfl⟩
  · exact ⟨⟨rfl, rfl, rfl, rfl, rfl, rfl⟩, ⟨rfl, rfl, rfl, rfl, rfl, rfl⟩, fun q => Ctx.reg_congr rfl rfl rfl q, rfl⟩

/-- A result that arrives later (R230) is owed. -/
theorem State.writeLate_owes (s : State) (r : Reg) (v : Vec) (lat : Nat) : s.owes (s.writeLate r v lat) (s.lateWrites r v lat) ∧
    s.ctx.sameSet (s.writeLate r v lat).ctx ∧ (s.writeLate r v lat).mem = s.mem := by
  unfold State.writeLate State.lateWrites
  by_cases zero : r = .x 0
  · rw [if_pos zero, if_pos zero]
    exact ⟨⟨⟨rfl, .refl _, rfl⟩, fun _ => rfl, (List.append_nil _).symm, rfl⟩, ⟨rfl, rfl, rfl, rfl, rfl, rfl⟩, rfl⟩
  · rw [if_neg zero, if_neg zero]
    obtain ⟨way, set, regs, writes⟩ := s.ctx.setTaint_way (.reg r) s.ctx.inTaint
    have ctx := s.ctx_modCtx fun c =>
      { c.setTaint (.reg r) c.inTaint with
        writes := c.writes ++ [{ reg := r, val := v, need := 0, seq := s.seq, due := some (s.cycle + lat), dead := false, late := true, ready := 0 }] }
    generalize hm : (s.modCtx fun c =>
      { c.setTaint (.reg r) c.inTaint with
        writes := c.writes ++ [{ reg := r, val := v, need := 0, seq := s.seq, due := some (s.cycle + lat), dead := false, late := true, ready := 0 }] }) = m at ctx ⊢
    have rest : m.cycle = s.cycle ∧ m.cur = s.cur ∧ m.accs = s.accs ∧ m.mem = s.mem := by rw [← hm]; exact ⟨rfl, rfl, rfl, rfl⟩
    obtain ⟨cycle, cur, accs, mem⟩ := rest
    refine ⟨⟨⟨cycle, ?_, cur⟩, fun q => ?_, ?_, accs⟩, ?_, mem⟩
    · show s.ctx.sameWay m.ctx
      rw [ctx]
      exact ⟨way.pc, way.lc, way.le, way.lead, way.rptst, way.frame⟩
    · show m.ctx.reg q = _
      rw [ctx, ← regs q]
      exact Ctx.reg_congr rfl rfl rfl q
    · show m.ctx.writes = _
      rw [ctx]
    · show s.ctx.sameSet m.ctx
      rw [ctx]
      exact ⟨set.slots, set.landed, set.lsord, set.tookFree, set.takeOrder, set.replay⟩

/-- Setting what an instruction has read changes no place, register or slot. -/
theorem State.inTaint_owes (s : State) (l : List Nat) : s.owes (s.modCtx fun c => { c with inTaint := l }) [] ∧
    s.ctx.sameSet (s.modCtx fun c => { c with inTaint := l }).ctx := by
  have ctx := s.ctx_modCtx fun c => { c with inTaint := l }
  refine ⟨.of_ctx ctx ⟨rfl, rfl, rfl, rfl, rfl, rfl⟩ (fun q => Ctx.reg_congr rfl rfl rfl q) rfl rfl rfl rfl, ?_⟩
  rw [ctx]
  exact ⟨rfl, rfl, rfl, rfl, rfl, rfl⟩

end Sys2Proof.Machine
end

section
/-! PROOF. O32: takes, the landing set's mode and its queries (R219 to R226, R229). -/

namespace Sys2Proof.Machine

open Sys2Proof

/-! ## The slot that is taken (R219) -/

theorem mem_allTags (t : BitVec 5) : t ∈ allTags :=
  List.mem_map.2 ⟨t.toNat, List.mem_range.2 t.isLt, BitVec.ofNat_toNat .. |>.trans (BitVec.setWidth_eq t)⟩

theorem Ctx.mem_lowestRank {c : Ctx} {u : BitVec 5} : ∀ {ts}, c.lowestRank ts = some u → u ∈ ts
  | [], h => nomatch h
  | t :: ts, h => by
    rw [Ctx.lowestRank] at h
    split at h
    · exact (Option.some.inj h) ▸ List.mem_cons_self
    · next w found =>
      split at h
      · exact (Option.some.inj h) ▸ List.mem_cons_self
      · exact (Option.some.inj h) ▸ List.mem_cons_of_mem _ (Ctx.mem_lowestRank found)

theorem Ctx.lowestRank_eq {c : Ctx} {g : BitVec 5} : ∀ {ts}, g ∈ ts → (∀ y ∈ ts, y ≠ g → (c.slot g).rank < (c.slot y).rank) → c.lowestRank ts = some g
  | t :: ts, mem, least => by
    have rest : ∀ y ∈ ts, y ≠ g → (c.slot g).rank < (c.slot y).rank := fun y hy => least y (List.mem_cons_of_mem _ hy)
    rw [Ctx.lowestRank]
    by_cases same : t = g
    · subst same
      split
      · rfl
      · next u found =>
        by_cases eq : u = t
        · rw [eq, if_pos (Nat.le_refl _)]
        · rw [if_pos (Nat.le_of_lt (rest u (Ctx.mem_lowestRank found) eq))]
    · have inTail : g ∈ ts := (List.mem_cons.1 mem).resolve_left fun e => same e.symm
      rw [Ctx.lowestRank_eq inTail rest]
      exact if_neg (Nat.not_le.2 (least t List.mem_cons_self same))

/-- Some slot is of the class. -/
theorem Ctx.class_some {c : Ctx} {v : Bool} {g : BitVec 5} (cls : c.inClass v g = true) : (allTags.filter (c.inClass v)).isEmpty = false := by
  have mem : g ∈ allTags.filter (c.inClass v) := List.mem_filter.2 ⟨mem_allTags g, cls⟩
  cases e : allTags.filter (c.inClass v) with
  | nil => rw [e] at mem; exact nomatch mem
  | cons => rfl

theorem Ctx.choose_free {c : Ctx} {v : Bool} {g : BitVec 5} (cls : c.inClass v g = true) (free : c.lsord = false) : c.choose v =
    match c.replay with
    | some (t :: _) => if c.inClass v t then .slot t else .diverged t
    | _ =>
      match c.landed.find? (c.inClass v) with
      | some t => .slot t
      | none => .later := by
  unfold Ctx.choose
  dsimp only
  rw [Ctx.class_some cls, if_neg Bool.false_ne_true, free, if_neg Bool.false_ne_true] <;> rfl

/-- The slot `g` is the one that a take of its class takes: the lowest rank in issue order, the next recorded tag in a replay, and else the
first that landed. -/
theorem Ctx.choose_slot {c : Ctx} {v : Bool} {g : BitVec 5} (cls : c.inClass v g = true)
    (order : c.lsord = true → ∀ y, y ≠ g → c.inClass v y = true → (c.slot g).rank < (c.slot y).rank)
    (free : c.lsord = false → (∃ l, c.replay = some (g :: l)) ∨
      ((c.replay = none ∨ c.replay = some []) ∧ ∃ l r, c.landed = l ++ g :: r ∧ ∀ y ∈ l, c.inClass v y = false)) : c.choose v = .slot g := by
  cases ord : c.lsord with
  | true =>
    have mem : g ∈ allTags.filter (c.inClass v) := List.mem_filter.2 ⟨mem_allTags g, cls⟩
    unfold Ctx.choose
    dsimp only
    rw [Ctx.class_some cls, if_neg Bool.false_ne_true, ord, if_pos rfl,
      Ctx.lowestRank_eq mem fun y hy ne => order ord y ne (List.mem_filter.1 hy).2]
  | false =>
    have first (h : ∃ l r, c.landed = l ++ g :: r ∧ ∀ y ∈ l, c.inClass v y = false) : c.landed.find? (c.inClass v) = some g := by
      obtain ⟨l, r, eq, before⟩ := h
      rw [eq, List.find?_append, List.find?_eq_none.2 fun y hy => by rw [before y hy]; exact Bool.false_ne_true, List.find?_cons_of_pos cls]
      rfl
    rw [Ctx.choose_free cls ord]
    obtain ⟨l, replay⟩ | ⟨used, landed⟩ := free ord
    · rw [replay]
      exact if_pos cls
    · rw [first landed]
      obtain absent | ended := used
      · rw [absent]
      · rw [ended]

theorem Ctx.choose_none {c : Ctx} {v : Bool} (h : ∀ g, c.inClass v g = false) : c.choose v = .none := by
  have empty : allTags.filter (c.inClass v) = [] := List.filter_eq_nil_iff.2 fun g _ => by rw [h g]; exact Bool.false_ne_true
  unfold Ctx.choose
  dsimp only
  rw [empty]
  rfl

theorem Ctx.inClass_iff {c : Ctx} {v : Bool} {t : BitVec 5} : c.inClass v t = true ↔ (c.slot t).state ≠ .free ∧ (c.slot t).isVec = v := by
  simp [Ctx.inClass]

/-! ## A take (R219, R220, R225) -/

/-- What a landed slot gives its destination (R219): a scalar extended as LD extends it. -/
def Slot.value (x : Slot) : Vec :=
  match x.width with
  | .scalar w => wide (loadWord w (bytesOfNat x.val.toNat (ldBytes w)))
  | .vec => x.val

/-- The slot's value comes to the register of its class (R219, R230). -/
theorem State.takeInto_owes {s : State} {v : Bool} {x : Slot} (cls : x.isVec = v) (d : BitVec 5) :
    s.owes (s.takeInto v d x) (s.lateWrites (takeReg v d) x.value 2) ∧ s.ctx.sameSet (s.takeInto v d x).ctx ∧ (s.takeInto v d x).mem = s.mem := by
  have into (r : Reg) (w : Vec) : s.owes ((s.modCtx fun c => { c with inTaint := x.taint }).writeLate r w 2) (s.lateWrites r w 2) ∧
      s.ctx.sameSet ((s.modCtx fun c => { c with inTaint := x.taint }).writeLate r w 2).ctx ∧ ((s.modCtx fun c => { c with inTaint := x.taint }).writeLate r w 2).mem = s.mem := by
    obtain ⟨noted, same⟩ := s.inTaint_owes x.taint
    obtain ⟨owes, set, mem⟩ := (s.modCtx fun c => { c with inTaint := x.taint }).writeLate_owes r w 2
    exact ⟨noted.trans owes, same.trans set, mem⟩
  subst cls
  unfold State.takeInto Slot.value takeReg Slot.isVec
  cases x.width with
  | scalar w => exact into (.x d) _
  | vec => exact into (.v d) _

/-- A context whose slot `t` is free again (R219): it is out of the landed queue. -/
structure Ctx.freed (c d : Ctx) (t : BitVec 5) : Prop where
  slot : (d.slot t).state = .free
  others : ∀ y, y ≠ t → d.slot y = c.slot y
  landed : d.landed = c.landed.filter (· ≠ t)

theorem Ctx.freed.of_same {c d e : Ctx} {t : BitVec 5} (h : c.freed d t) (slots : e.slots = d.slots) (landed : e.landed = d.landed) : c.freed e t :=
  ⟨by rw [Ctx.slot_eq slots, h.slot], fun y ne => (Ctx.slot_eq slots y).trans (h.others y ne), landed.trans h.landed⟩

/-- What a take leaves of a landed slot, before the instruction goes on. -/
def State.takenSlot (s : State) (v : Bool) (d t : BitVec 5) : State :=
  ((s.takeOrders (s.ctx.slot t).load).takeInto v d (s.ctx.slot t)).modCtx fun c => c.freeSlot t

theorem State.takenSlot_owes {s : State} {v : Bool} {t : BitVec 5} (cls : (s.ctx.slot t).isVec = v) (d : BitVec 5) :
    s.owes (s.takenSlot v d t) (s.lateWrites (takeReg v d) (s.ctx.slot t).value 2) ∧ s.ctx.freed (s.takenSlot v d t).ctx t ∧
      (s.takenSlot v d t).mem = s.mem ∧ (s.takenSlot v d t).ctx.lsord = s.ctx.lsord ∧ (s.takenSlot v d t).ctx.takeOrder = s.ctx.takeOrder ∧
      (s.takenSlot v d t).ctx.replay = s.ctx.replay := by
  obtain ⟨owes, set, mem⟩ := State.takeInto_owes (s := s.takeOrders (s.ctx.slot t).load) cls d
  have ctx := ((s.takeOrders (s.ctx.slot t).load).takeInto v d (s.ctx.slot t)).ctx_modCtx fun c => c.freeSlot t
  set m := (s.takeOrders (s.ctx.slot t).load).takeInto v d (s.ctx.slot t)
  have freed : (m.modCtx fun c => c.freeSlot t).ctx.slots = (m.ctx.setSlot t Slot.free).slots := by rw [ctx]; rfl
  have early : s.owes (s.takeOrders (s.ctx.slot t).load) [] := ⟨⟨rfl, .refl _, rfl⟩, fun _ => rfl, (List.append_nil _).symm, rfl⟩
  have last : m.owes (s.takenSlot v d t) [] := .of_ctx ctx ⟨rfl, rfl, rfl, rfl, rfl, rfl⟩ (fun q => Ctx.reg_congr rfl rfl rfl q) rfl rfl rfl rfl
  have all := (early.trans owes).trans last
  rw [List.append_nil] at all
  refine ⟨all, ⟨?_, fun y ne => ?_, ?_⟩, mem, ?_, ?_, ?_⟩
  · exact congrArg Slot.state ((Ctx.slot_eq freed t).trans (Ctx.slot_setSlot ..))
  · exact ((Ctx.slot_eq freed y).trans (Ctx.slot_setSlot_ne _ _ ne)).trans (set.slot y)
  · show (m.modCtx fun c => c.freeSlot t).ctx.landed = _
    rw [ctx]
    exact congrArg (List.filter (· ≠ t)) set.landed
  · show (m.modCtx fun c => c.freeSlot t).ctx.lsord = _
    rw [ctx]
    exact set.lsord
  · show (m.modCtx fun c => c.freeSlot t).ctx.takeOrder = _
    rw [ctx]
    exact set.takeOrder
  · show (m.modCtx fun c => c.freeSlot t).ctx.replay = _
    rw [ctx]
    exact set.replay

theorem State.takeSlot_landed {s : State} {t : BitVec 5} (landed : (s.ctx.slot t).state = .landed) (whole : s.gangTakes = false) (v : Bool) (d : BitVec 5)
    (k : State → State) : s.takeSlot v d t k = k (s.takenSlot v d t) := by
  unfold State.takeSlot
  dsimp only
  rw [landed]
  dsimp only
  rw [whole, if_neg Bool.false_ne_true]
  rfl

theorem State.takeSlot_waits {s : State} {t : BitVec 5} (h : ((s.ctx.slot t).state = .landed ∧ s.gangTakes = true) ∨ (s.ctx.slot t).state = .pending)
    (v : Bool) (d : BitVec 5) (k : State → State) : s.takeSlot v d t k = s.block .other 3 0 := by
  unfold State.takeSlot
  dsimp only
  obtain ⟨landed, part⟩ | pending := h
  · rw [landed]
    exact if_pos part
  · rw [pending]

theorem State.takeSlot_faulted {s : State} {t : BitVec 5} (h : (s.ctx.slot t).state = .faulted) (v : Bool) (d : BitVec 5) (k : State → State) :
    s.takeSlot v d t k = s.raise { TrapInfo.at s.pc (s.ctx.slot t).cause (s.ctx.slot t).detail (s.ctx.slot t).caddr with tag := some t } := by
  unfold State.takeSlot
  dsimp only
  rw [h]
  rfl

/-- The order that a take notes (R225, R226). -/
def Ctx.noteTake (c : Ctx) (record : Bool) (t : BitVec 5) : Ctx :=
  if c.lsord then c
  else { c with tookFree := true, takeOrder := if record then c.takeOrder ++ [t] else c.takeOrder, replay := c.replay.map (·.drop 1) }

/-- The recorded tags of a context go to the trace ring, if there is one, and the context's record is empty again (R226). -/
theorem State.flushTakes_eq (s : State) (n : Fin 11) : s.flushTakes n = s ∨
    ∃ d m, s.flushTakes n = { s with dev := d, mem := m, ctxs := (s.modCtxAt n fun c => { c with takeOrder := [] }).ctxs } ∧ (s.dev.trbase = 0 → m = s.mem) := by
  unfold State.flushTakes
  split
  · exact .inl rfl
  · next payload _ =>
    have only := s.trace_only 5 n.val (takePayload (s.ctxs.get n).takeOrder)
    have mem : s.dev.trbase = 0 → (s.trace 5 n.val (takePayload (s.ctxs.get n).takeOrder)).mem = s.mem := fun zero => by
      unfold State.trace
      dsimp only
      rw [if_pos zero]
    generalize s.trace 5 n.val (takePayload (s.ctxs.get n).takeOrder) = u at only mem ⊢
    rw [only]
    exact .inr ⟨u.dev, u.mem, rfl, mem⟩

theorem State.flushTakes_ctx (s : State) : (s.flushTakes s.cur).ctx = { s.ctx with takeOrder := (s.flushTakes s.cur).ctx.takeOrder } := by
  obtain same | ⟨d, m, eq, -⟩ := s.flushTakes_eq s.cur
  · rw [same]
  · rw [eq]
    show (s.modCtxAt s.cur fun c => { c with takeOrder := [] }).ctxAt s.cur = { s.ctx with takeOrder := ((s.modCtxAt s.cur fun c => { c with takeOrder := [] }).ctxAt s.cur).takeOrder }
    rw [State.ctxAt_modCtxAt]
    rfl

theorem State.flushTakes_rest (s : State) : (s.flushTakes s.cur).cycle = s.cycle ∧ (s.flushTakes s.cur).cur = s.cur ∧ (s.flushTakes s.cur).accs = s.accs ∧
    (s.dev.trbase = 0 → (s.flushTakes s.cur).mem = s.mem) := by
  obtain same | ⟨d, m, eq, mem⟩ := s.flushTakes_eq s.cur
  · rw [same]
    exact ⟨rfl, rfl, rfl, fun _ => rfl⟩
  · rw [eq]
    exact ⟨rfl, rfl, rfl, mem⟩

theorem Ctx.noteTake_way (c : Ctx) (record : Bool) (t : BitVec 5) : c.sameWay (c.noteTake record t) ∧ (∀ q, (c.noteTake record t).reg q = c.reg q) ∧
    (c.noteTake record t).writes = c.writes ∧ (c.noteTake record t).slots = c.slots ∧ (c.noteTake record t).landed = c.landed := by
  unfold Ctx.noteTake
  split
  · exact ⟨.refl _, fun _ => rfl, rfl, rfl, rfl⟩
  · exact ⟨⟨rfl, rfl, rfl, rfl, rfl, rfl⟩, fun q => Ctx.reg_congr rfl rfl rfl q, rfl, rfl, rfl⟩

theorem Ctx.noteTake_length (c : Ctx) (record : Bool) (t : BitVec 5) (h : c.takeOrder.length < 5) : (c.noteTake record t).takeOrder.length ≠ 6 := by
  unfold Ctx.noteTake
  split
  · omega
  · dsimp only
    split
    · rw [List.length_append, List.length_singleton]; omega
    · omega

theorem State.noteTake_eq (s : State) (t : BitVec 5) : s.noteTake t =
    if ((s.modCtx fun c => c.noteTake s.job.record t).ctx.takeOrder.length = 6) then
      (s.modCtx fun c => c.noteTake s.job.record t).flushTakes (s.modCtx fun c => c.noteTake s.job.record t).cur
    else s.modCtx fun c => c.noteTake s.job.record t := rfl

/-- Noting a take changes the recorded order alone; six tags go to the trace ring. -/
theorem State.noteTake_owes (s : State) (t : BitVec 5) : s.owes (s.noteTake t) [] ∧
    (s.noteTake t).ctx.slots = s.ctx.slots ∧ (s.noteTake t).ctx.landed = s.ctx.landed ∧
    (s.dev.trbase = 0 ∨ s.ctx.takeOrder.length < 5 → (s.noteTake t).mem = s.mem) ∧
    (s.ctx.lsord = false → (s.noteTake t).ctx.tookFree = true ∧ (s.noteTake t).ctx.replay = s.ctx.replay.map (·.drop 1) ∧
      (s.job.record = true → s.ctx.takeOrder.length < 5 → (s.noteTake t).ctx.takeOrder = s.ctx.takeOrder ++ [t])) := by
  have ctx := s.ctx_modCtx fun c => c.noteTake s.job.record t
  obtain ⟨way, regs, writes, slots, landed⟩ := s.ctx.noteTake_way s.job.record t
  have short : s.ctx.takeOrder.length < 5 → (s.modCtx fun c => c.noteTake s.job.record t).ctx.takeOrder.length ≠ 6 := fun h => by
    rw [ctx]
    exact s.ctx.noteTake_length _ t h
  have order : s.ctx.lsord = false → s.ctx.noteTake s.job.record t = { s.ctx with
      tookFree := true, takeOrder := if s.job.record then s.ctx.takeOrder ++ [t] else s.ctx.takeOrder, replay := s.ctx.replay.map (·.drop 1) } := fun free => by
    rw [Ctx.noteTake]
    exact if_neg (by rw [free]; exact Bool.false_ne_true)
  rw [State.noteTake_eq]
  set u := s.modCtx fun c => c.noteTake s.job.record t
  split
  · next six =>
    have after := u.flushTakes_ctx
    obtain ⟨cycle, cur, accs, mem⟩ := u.flushTakes_rest
    generalize u.flushTakes u.cur = w at after cycle cur accs mem ⊢
    rw [ctx] at after
    refine ⟨.of_ctx after ⟨way.pc, way.lc, way.le, way.lead, way.rptst, way.frame⟩ (fun q => (Ctx.reg_congr rfl rfl rfl q).trans (regs q)) writes cycle cur accs,
      ?_, ?_, fun h => ?_, fun free => ⟨?_, ?_, fun _ few => absurd six (short few)⟩⟩
    · rw [after]; exact slots
    · rw [after]; exact landed
    · obtain zero | few := h
      · exact mem zero
      · exact absurd six (short few)
    · rw [after, order free]
    · rw [after, order free]
  · refine ⟨.of_ctx ctx way regs writes rfl rfl rfl, ?_, ?_, fun _ => rfl, fun free => ⟨?_, ?_, fun record _ => ?_⟩⟩
    · rw [ctx]; exact slots
    · rw [ctx]; exact landed
    · rw [ctx, order free]
    · rw [ctx, order free]
    · rw [ctx, order free]
      exact if_pos record

theorem State.mem_lateWrites {s m : State} (cycle : m.cycle = s.cycle) (r : Reg) (v : Vec) (lat : Nat) :
    (∀ y ∈ m.lateWrites r v lat, y.reg = r ∧ y.val = v) ∧
      (r ≠ .x 0 → ∃ y ∈ m.lateWrites r v lat, y.reg = r ∧ y.val = v ∧ y.need = 0 ∧ y.due = some (s.cycle + lat) ∧ y.late = true ∧ y.dead = false) := by
  unfold State.lateWrites
  refine ⟨fun y hy => ?_, fun ne => ?_⟩
  · split at hy
    · exact nomatch hy
    · obtain rfl := List.mem_singleton.1 hy
      exact ⟨rfl, rfl⟩
  · rw [if_neg ne, cycle]
    exact ⟨_, List.mem_singleton.2 rfl, rfl, rfl, rfl, rfl, rfl, rfl⟩

/-! ## TKA and TKT -/

/-- What TKA does for what it chooses. -/
def State.tka (sw : Bool) (d a : BitVec 5) (v : Bool) : Choice → State → State
  | .none, s => s.illegal
  | .diverged t, s => s.diverge t
  | .later, s => s.block .other 3 0
  | .slot t, s => s.takeSlot v d t fun s => (((s.noteTake t).modCtx fun c => { c with inTaint := [] }).writeLate (.x a) (t.setWidth 512) 2).retireAfter sw 4 1

theorem State.issued_sameSet (s : State) (rs : List Reg) : s.ctx.sameSet (s.issued rs).ctx := by
  rw [State.issued_ctx]
  exact ⟨rfl, rfl, rfl, rfl, rfl, rfl⟩

theorem exec_tka {s : State} (sw : Bool) (d a : BitVec 5) (v : Bool) (ready : s.ready [takeReg v d, .x a]) :
    exec (.tka sw d a v) s = .next (State.tka sw d a v (s.ctx.choose v) (s.issued [])) := by
  have run : exec (.tka sw d a v) s = execTka sw d a v s := rfl
  unfold execTka at run
  rw [State.issue_issued (by simpa using ready), (s.issued_sameSet []).choose] at run
  rw [run]
  cases s.ctx.choose v <;> rfl

theorem exec_tkt {s : State} (sw : Bool) (d n : BitVec 5) (v : Bool) (ready : s.ready [takeReg v d]) :
    exec (.tkt sw d n v) s = .next (if s.ctx.inClass v n then (s.issued []).takeSlot v d n fun s => s.retireAfter sw 4 1 else (s.issued []).illegal) := by
  have run : exec (.tkt sw d n v) s = execTkt sw d n v s := rfl
  unfold execTkt at run
  rw [State.issue_issued (by simpa using ready), (s.issued_sameSet []).inClass] at run
  exact run

/-- What is left of the slot that an instruction takes as it issues. -/
theorem State.issued_takenSlot {s : State} {v : Bool} {n : BitVec 5} (cls : s.ctx.inClass v n = true) (d : BitVec 5) :
    s.owes ((s.issued []).takenSlot v d n) (s.lateWrites (takeReg v d) (s.ctx.slot n).value 2) ∧ s.ctx.freed ((s.issued []).takenSlot v d n).ctx n ∧
      ((s.issued []).takenSlot v d n).mem = s.mem ∧ ((s.issued []).takenSlot v d n).ctx.lsord = s.ctx.lsord ∧
      ((s.issued []).takenSlot v d n).ctx.takeOrder = s.ctx.takeOrder ∧ ((s.issued []).takenSlot v d n).ctx.replay = s.ctx.replay := by
  have same := s.issued_sameSet []
  obtain ⟨owes, freed, mem, lsord, order, replay⟩ := State.takenSlot_owes (s := s.issued []) (v := v) (t := n) (by rw [same.slot]; exact (Ctx.inClass_iff.1 cls).2) d
  rw [same.slot] at owes
  have issued : s.owes (s.issued []) [] := (s.inTaint_owes (s.ctx.taintOf [])).1
  exact ⟨issued.trans owes, ⟨freed.slot, fun y ne => (freed.others y ne).trans (same.slot y), by rw [freed.landed, same.landed]⟩, mem, lsord.trans same.lsord,
    order.trans same.takeOrder, replay.trans same.replay⟩

theorem State.takenSlot_dev {s : State} (v : Bool) (d t : BitVec 5) : (s.takenSlot v d t).dev = s.dev ∧ (s.takenSlot v d t).job = s.job := by
  have late (u : State) (r : Reg) (w : Vec) : (u.writeLate r w 2).dev = u.dev ∧ (u.writeLate r w 2).job = u.job := by
    unfold State.writeLate
    split <;> exact ⟨rfl, rfl⟩
  have into (u : State) (x : Slot) : (u.takeInto v d x).dev = u.dev ∧ (u.takeInto v d x).job = u.job := by
    unfold State.takeInto
    split
    · exact late (u.modCtx _) ..
    · exact late (u.modCtx _) ..
  exact into (s.takeOrders (s.ctx.slot t).load) (s.ctx.slot t)

/-- The context after TKA has taken slot `g`, noted its take and given its tag to xA (R219, R225). -/
theorem State.tka_takes {s : State} {v : Bool} {g : BitVec 5} (cls : s.ctx.inClass v g = true) (d a : BitVec 5) {m : State}
    (made : m = ((((s.issued []).takenSlot v d g).noteTake g).modCtx fun c => { c with inTaint := [] }).writeLate (.x a) (g.setWidth 512) 2) :
    (∃ u : State, u.cycle = s.cycle ∧ s.owes m (s.lateWrites (takeReg v d) (s.ctx.slot g).value 2 ++ u.lateWrites (.x a) (g.setWidth 512) 2)) ∧ s.ctx.freed m.ctx g ∧
      (s.dev.trbase = 0 ∨ s.ctx.takeOrder.length < 5 → m.mem = s.mem) ∧
      (s.ctx.lsord = false → m.ctx.tookFree = true ∧ m.ctx.replay = s.ctx.replay.map (·.drop 1) ∧
        (s.job.record = true → s.ctx.takeOrder.length < 5 → m.ctx.takeOrder = s.ctx.takeOrder ++ [g])) := by
  obtain ⟨owes, freed, mem, lsord, order, replay⟩ := State.issued_takenSlot cls d
  obtain ⟨dev, job⟩ := State.takenSlot_dev (s := s.issued []) v d g
  obtain ⟨noted, slots, landed, mem', free⟩ := ((s.issued []).takenSlot v d g).noteTake_owes g
  rw [dev, order] at mem'
  rw [lsord, order, replay, job] at free
  set n := ((s.issued []).takenSlot v d g).noteTake g
  obtain ⟨cleared, set⟩ := n.inTaint_owes []
  obtain ⟨tag, set', mem''⟩ := (n.modCtx fun c => { c with inTaint := [] }).writeLate_owes (.x a) (g.setWidth 512) 2
  have all := ((owes.trans noted).trans cleared).trans tag
  have same := set.trans set'
  rw [List.append_nil, List.append_nil] at all
  rw [← made] at all same mem''
  refine ⟨⟨_, ((owes.trans noted).trans cleared).amid.cycle, all⟩, freed.of_same (same.slots.trans slots) (same.landed.trans landed),
    fun h => (mem''.trans (mem' h)).trans mem, fun h => ?_⟩
  obtain ⟨took, rep, rec⟩ := free h
  exact ⟨same.tookFree.trans took, same.replay.trans rep, fun r l => same.takeOrder.trans (rec r l)⟩

theorem Ctx.freed.of_retireAfter {c : Ctx} {m : State} {g : BitVec 5} (h : c.freed m.ctx g) (sw : Bool) (size gap : Nat) :
    c.freed (m.retireAfter sw size gap).ctx g := by
  rw [State.retireAfter_ctx, Ctx.sequential_only]
  exact h.of_same rfl rfl

/-! ## LSQ (R229) -/

/-- Some slot is not free. -/
def Ctx.anyHeld (c : Ctx) : Prop := ∃ t, (c.slot t).state ≠ .free

theorem Ctx.anyHeld_iff (c : Ctx) : (allTags.any fun t => (c.slot t).state ≠ .free) = true ↔ c.anyHeld := by
  simp [Ctx.anyHeld, List.any_eq_true, mem_allTags]

theorem exec_lsmode_free {s : State} (sw m : Bool) (ready : s.ready []) (free : ¬ s.ctx.anyHeld) :
    exec (.lsmode sw m) s = .next (((s.issued []).modCtx fun c => { c with lsord := m }).retireAfter sw 4 1) := by
  have run : exec (.lsmode sw m) s = execLsmode sw m s := rfl
  unfold execLsmode at run
  rw [State.issue_issued (by simpa using ready), if_neg fun h => free (by
    obtain ⟨t, held⟩ := (Ctx.anyHeld_iff _).1 h
    exact ⟨t, by rwa [(s.issued_sameSet []).slot] at held⟩)] at run
  exact run

theorem exec_lsmode_held {s : State} (sw m : Bool) (ready : s.ready []) (held : s.ctx.anyHeld) : exec (.lsmode sw m) s = .next (s.issued []).illegal := by
  have run : exec (.lsmode sw m) s = execLsmode sw m s := rfl
  unfold execLsmode at run
  obtain ⟨t, held⟩ := held
  rw [State.issue_issued (by simpa using ready), if_pos ((Ctx.anyHeld_iff _).2 ⟨t, by rwa [(s.issued_sameSet []).slot]⟩)] at run
  exact run

theorem Ctx.sameSet.lsq {c d : Ctx} (h : c.sameSet d) (e : BitVec 2) : d.lsq e = c.lsq e := by
  have mask (x : SlotState) : d.slotMask x = c.slotMask x := by
    unfold Ctx.slotMask
    simp only [h.slot]
  have count (x : SlotState) : d.slotsIn x = c.slotsIn x := by
    unfold Ctx.slotsIn
    simp only [h.slot]
  have head : d.headSlot = c.headSlot := by
    unfold Ctx.headSlot
    simp only [h.slot, h.lsord, h.landed, h.lowestRank]
  unfold Ctx.lsq Ctx.lsqSum
  rw [mask, mask, mask, count, count, count, head, h.lsord, h.replay]

theorem State.lsq_gives (s : State) (sw : Bool) (d : BitVec 5) (e : BitVec 2) : s.gives (.lsq sw d e) [.x d] sw 4 (.x d) (wide (s.ctx.lsq e)) 2 := by
  refine State.issue_gives [] [.x d] (fun u => wide (u.ctx.lsq e)) rfl (fun f => ?_) (Reg.fits_wide _ _)
  have same : s.ctx.sameSet (s.modCtx fun c => { c with inTaint := f c }).ctx := by
    rw [State.ctx_modCtx]
    exact ⟨rfl, rfl, rfl, rfl, rfl, rfl⟩
  rw [same.lsq]

/-- A mask of the slots in a state has a bit for each tag (R229). -/
theorem Ctx.slotMask_getLsbD (c : Ctx) (x : SlotState) (i : Nat) :
    (c.slotMask x).getLsbD i = (decide (i < 32) && decide ((c.slot (BitVec.ofNat 5 i)).state = x)) := by
  have tags : (allTags.map fun t => bitAt (decide ((c.slot t).state = x)) t.toNat) =
      (List.finRange 32).map fun g : Fin 32 => bitAt (decide ((c.slot (BitVec.ofNat 5 g.val)).state = x)) g.val := by
    rw [allTags, List.map_map, ← List.map_coe_finRange_eq_range, List.map_map]
    refine List.map_congr_left fun g _ => ?_
    simp only [Function.comp_apply, BitVec.toNat_ofNat]
    rw [Nat.mod_eq_of_lt (by have := g.isLt; omega)]
  obtain ⟨lt, bits⟩ := testBit_sum_bitAt fun g : Fin 32 => decide ((c.slot (BitVec.ofNat 5 g.val)).state = x)
  rw [Ctx.slotMask, tags, BitVec.getLsbD_ofNat]
  by_cases small : i < 32
  · rw [bits ⟨i, small⟩, decide_eq_true (by omega : i < 64), decide_eq_true small]
  · rw [Nat.testBit_lt_two_pow (Nat.lt_of_lt_of_le lt (Nat.pow_le_pow_right (by decide) (by omega))), decide_eq_false small, Bool.and_false, Bool.false_and]

theorem Ctx.slotsIn_le (c : Ctx) (x : SlotState) : c.slotsIn x ≤ 32 := by
  have := List.length_filter_le (fun t => decide ((c.slot t).state = x)) allTags
  simpa [Ctx.slotsIn, allTags] using this

theorem Ctx.lsqSum_toNat (c : Ctx) : c.lsqSum.toNat = (!c.lsord && c.replay.any fun l => !l.isEmpty).toNat * 2 ^ 39 + c.lsord.toNat * 2 ^ 38 + c.headSlot.isSome.toNat * 2 ^ 37
    + (c.headSlot.getD 0).toNat * 2 ^ 32 + c.slotsIn .faulted * 2 ^ 16 + c.slotsIn .pending * 2 ^ 8 + c.slotsIn .landed := by
  have faulted := c.slotsIn_le .faulted
  have pending := c.slotsIn_le .pending
  have landed := c.slotsIn_le .landed
  have head := (c.headSlot.getD 0).isLt
  unfold Ctx.lsqSum
  rw [BitVec.toNat_ofNat, bitAt_eq, bitAt_eq, bitAt_eq]
  have a := Bool.toNat_le (!c.lsord && c.replay.any fun l => !l.isEmpty)
  have b := Bool.toNat_le c.lsord
  have e := Bool.toNat_le c.headSlot.isSome
  exact Nat.mod_eq_of_lt (by omega)

/-- LSQ.sum, field by field (R229). -/
theorem Ctx.lsqSum_fields (c : Ctx) : natBits c.lsqSum.toNat 5 0 = c.slotsIn .landed ∧ natBits c.lsqSum.toNat 13 8 = c.slotsIn .pending ∧
    natBits c.lsqSum.toNat 21 16 = c.slotsIn .faulted ∧ c.lsqSum.getLsbD 38 = c.lsord ∧
    c.lsqSum.getLsbD 39 = (!c.lsord && c.replay.any fun l => !l.isEmpty) := by
  have faulted := c.slotsIn_le .faulted
  have pending := c.slotsIn_le .pending
  have landed := c.slotsIn_le .landed
  have head := (c.headSlot.getD 0).isLt
  have word := c.lsqSum_toNat
  have a := Bool.toNat_le (!c.lsord && c.replay.any fun l => !l.isEmpty)
  have b := Bool.toNat_le c.lsord
  have e := Bool.toNat_le c.headSlot.isSome
  refine ⟨?_, ?_, ?_, getLsbD_eq_of_toNat _ _ ?_, getLsbD_eq_of_toNat _ _ ?_⟩
  · rw [word, natBits]; omega
  · rw [word, natBits]; omega
  · rw [word, natBits]; omega
  · rw [word]; omega
  · rw [word]; omega

theorem Ctx.replaying_iff (c : Ctx) : (!c.lsord && c.replay.any fun l => !l.isEmpty) = true ↔ c.lsord = false ∧ ∃ g l, c.replay = some (g :: l) := by
  rw [Bool.and_eq_true, Bool.not_eq_true']
  refine and_congr_right fun _ => ?_
  rcases c.replay with _ | _ | ⟨g, l⟩
  · simp
  · simp
  · simp

/-- A replay that names no slot of the class ends the job (R226). -/
theorem State.diverge_ends {s : State} (running : s.job.running = true) (t : BitVec 5) :
    (s.diverge t).job.running = false ∧ (s.diverge t).job.ended = true ∧ ∀ c, ((s.diverge t).ctxAt c).live = false := by
  have run : (s.logEntry true 7 0 s.source (t.setWidth 32) 0).job.running = true := by rw [State.logEntry_only]; exact running
  unfold State.diverge State.abortJob
  rw [if_pos run]
  exact ⟨rfl, rfl, State.releaseJob_live _⟩

/-- Settles O32: what is chosen is taken, faults or waits. -/
theorem takesReturnLandedValues : Obligations.TakesReturnLandedValues := by
  unfold Obligations.TakesReturnLandedValues
  intro s sw d a n v m e R chosen value taken faults illegal quiet
  have raised (t : TrapInfo) (h : quiet) (log : t.log = false) := State.issued_raise_only h.1 h.2 [] log
  have wrong (j : Instr) (h : quiet) (run : exec j s = .next (s.issued []).illegal) : illegal j :=
    ⟨_, run, State.issued_raise_unclaimed h.1 h.2 [] rfl, State.issued_illegal_entered h.1 []⟩
  have same := s.issued_sameSet []
  have waits {rs : List Reg} (ready : s.ready rs) : s.waits ((s.issued []).block .other 3 0) := s.issued_block_waits ready.1 [] .other 3 0
  have faulted {j : Instr} {g : BitVec 5} {k : State → State} (h : quiet) (fault : (s.ctx.slot g).state = .faulted)
      (run : exec j s = .next ((s.issued []).takeSlot v d g k)) : faults j g := by
    rw [State.takeSlot_faulted (by rw [same.slot]; exact fault), same.slot, State.issued_pc] at run
    obtain ⟨only, entered⟩ := raised { TrapInfo.at s.ctx.pc (s.ctx.slot g).cause (s.ctx.slot g).detail (s.ctx.slot g).caddr with tag := some g } h rfl
    exact ⟨_, run, only, entered⟩
  have held {j : Instr} {g : BitVec 5} {k : State → State} {rs : List Reg} (ready : s.ready rs) (run : exec j s = .next ((s.issued []).takeSlot v d g k))
      (h : ((s.ctx.slot g).state = .landed ∧ s.gangTakes = true) ∨ (s.ctx.slot g).state = .pending) : ∃ t, exec j s = .next t ∧ s.waits t := by
    rw [State.takeSlot_waits (by rw [same.slot]; exact h)] at run
    exact ⟨_, run, waits ready⟩
  have later (c : State) (cycle : c.cycle = s.cycle) (r : Reg) (w : Vec) := State.mem_lateWrites cycle r w 2
  refine ⟨fun g ready pick => ?_, fun ready empty h => ?_, fun ready some free absent early => ?_, fun g l ready running some free next out => ?_,
    fun ready cls => ?_, fun ready out h => ?_, fun ready free => ?_, fun ready taken h => wrong _ h (exec_lsmode_held sw m ready taken), s.lsq_gives sw d e, fun i => ⟨s.ctx.slotMask_getLsbD .pending i, s.ctx.slotMask_getLsbD .landed i,
      s.ctx.slotMask_getLsbD .faulted i⟩, ?_⟩
  · obtain ⟨cls, order, free⟩ := pick
    have run := exec_tka sw d a v ready
    rw [Ctx.choose_slot cls order free, State.tka] at run
    refine ⟨fun landed part => held ready run (.inl ⟨landed, part⟩), fun landed whole => ?_, fun fault h => faulted h fault run,
      fun pending => held ready run (.inr pending)⟩
    obtain ⟨⟨u, cycle, owes⟩, freed, mem, noted⟩ := State.tka_takes cls d a rfl
    rw [State.takeSlot_landed (s := s.issued []) (by rw [same.slot]; exact landed) whole] at run
    have after := freed.of_retireAfter sw 4 1
    obtain ⟨val, here⟩ := later s rfl R (s.ctx.slot g).value
    obtain ⟨tag, there⟩ := later u cycle (.x a) (g.setWidth 512)
    have writes := (State.retireAfter_sameRegs _ sw 4 1).2.trans owes.writes
    refine ⟨_, run, ⟨fun q => ((State.retireAfter_sameRegs ..).1 q).trans (owes.regs q), after.slot, after.others, after.landed, owes.amid.goesOn sw 4 1, owes.accs, mem,
      fun y hy => ?_, fun y hy => ?_, fun q hq ne => ?_⟩, fun free => ?_⟩
    · rw [writes]
      exact List.mem_append_left _ hy
    · rw [writes, List.mem_append, List.mem_append] at hy
      obtain old | first | second := hy
      · exact .inl old
      · exact .inr ⟨_, List.mem_cons_self, val y first⟩
      · exact .inr ⟨_, List.mem_cons_of_mem _ List.mem_cons_self, (tag y second).1, (tag y second).2.trans (by simp)⟩
    · rw [writes]
      obtain rfl | second := List.mem_cons.1 hq
      · obtain ⟨y, hy, is⟩ := here ne
        exact ⟨y, List.mem_append_right _ (List.mem_append_left _ hy), is⟩
      · obtain rfl := List.mem_singleton.1 second
        obtain ⟨y, hy, reg, is, rest⟩ := there ne
        exact ⟨y, List.mem_append_right _ (List.mem_append_right _ hy), reg, is.trans (by simp), rest⟩
    · obtain ⟨took, replay, order⟩ := noted free
      rw [State.retireAfter_ctx, Ctx.sequential_only]
      exact ⟨took, replay, order⟩
  · have run := exec_tka sw d a v ready
    rw [Ctx.choose_none empty] at run
    exact wrong _ h run
  · obtain ⟨g, cls⟩ := some
    have run := exec_tka sw d a v ready
    have none : s.ctx.landed.find? (s.ctx.inClass v) = .none := List.find?_eq_none.2 fun y hy => by rw [early y hy]; exact Bool.false_ne_true
    rw [Ctx.choose_free cls free, absent] at run
    dsimp only at run
    rw [none] at run
    exact ⟨_, run, waits ready⟩
  · obtain ⟨y, cls⟩ := some
    have run := exec_tka sw d a v ready
    rw [Ctx.choose_free cls free, next] at run
    dsimp only at run
    rw [out, if_neg Bool.false_ne_true] at run
    exact ⟨_, run, State.diverge_ends (s := s.issued []) running g⟩
  · have run := exec_tkt sw d n v ready
    rw [if_pos cls] at run
    refine ⟨fun landed part => held ready run (.inl ⟨landed, part⟩), fun landed whole => ?_, fun fault h => faulted h fault run,
      fun pending => held ready run (.inr pending)⟩
    obtain ⟨owes, freed, mem, -⟩ := State.issued_takenSlot cls d
    rw [State.takeSlot_landed (s := s.issued []) (by rw [same.slot]; exact landed) whole] at run
    have after := freed.of_retireAfter sw 4 1
    obtain ⟨val, here⟩ := later s rfl R (s.ctx.slot n).value
    have writes := (State.retireAfter_sameRegs _ sw 4 1).2.trans owes.writes
    refine ⟨_, run, ⟨fun q => ((State.retireAfter_sameRegs ..).1 q).trans (owes.regs q), after.slot, after.others, after.landed, owes.amid.goesOn sw 4 1, owes.accs,
      fun _ => mem, fun y hy => ?_, fun y hy => ?_, fun q hq ne => ?_⟩, mem⟩
    · rw [writes]
      exact List.mem_append_left _ hy
    · rw [writes, List.mem_append] at hy
      exact hy.imp_right fun new => ⟨_, List.mem_cons_self, val y new⟩
    · rw [writes]
      obtain rfl := List.mem_singleton.1 hq
      obtain ⟨y, hy, is⟩ := here ne
      exact ⟨y, List.mem_append_right _ hy, is⟩
  · have run := exec_tkt sw d n v ready
    rw [out, if_neg Bool.false_ne_true] at run
    exact wrong _ h run
  · have run := exec_lsmode_free sw m ready fun ⟨t, held⟩ => held (free t)
    have ctx := (s.issued []).ctx_modCtx fun c => { c with lsord := m }
    have amid : s.amid ((s.issued []).modCtx fun c => { c with lsord := m }) := ⟨rfl, by rw [ctx, State.issued_ctx]; exact ⟨rfl, rfl, rfl, rfl, rfl, rfl⟩, rfl⟩
    have regs : s.sameRegs ((s.issued []).modCtx fun c => { c with lsord := m }) :=
      ⟨fun r => by rw [ctx, State.issued_ctx]; exact Ctx.reg_congr rfl rfl rfl r, by rw [ctx, State.issued_ctx]⟩
    refine ⟨_, run, ?_, regs.trans (State.retireAfter_sameRegs ..), amid.goesOn sw 4 1, ?_, ?_⟩
    · simp [State.retireAfter, State.issued, State.modCtx, State.setCtx, State.ctx]
    · rw [State.retireAfter_ctx, Ctx.sequential_only, ctx]
    · rw [State.retireAfter_ctx, Ctx.sequential_only, ctx, State.issued_ctx]
  · obtain ⟨landed, pending, faulted, lsord, replay⟩ := s.ctx.lsqSum_fields
    refine ⟨landed, pending, faulted, lsord, ?_⟩
    show s.ctx.lsqSum.getLsbD 39 = true ↔ _
    rw [replay]
    exact s.ctx.replaying_iff

end Sys2Proof.Machine
end

section
/-! SUPPORT. Traps that are logged (R11), and the engine queues (R236). -/

namespace Sys2Proof.Machine

theorem State.violation_ctx (s : State) (cause : BitVec 8) (detail : BitVec 32) (addr : Word) : (s.violation cause detail addr).ctx = s.ctx := State.logEntry_ctx ..

/-- A trap of an instruction whose violation is logged first. -/
theorem State.issued_violation_entered {s : State} (h : s.ctx.trappable) (rs : List Reg) (cause c : BitVec 8) (detail d : BitVec 32) (addr a : Word) :
    s.ctx.entered (((s.issued rs).violation cause detail addr).trapHere c d a).ctx (TrapInfo.at s.ctx.pc c d a) s.job.trapvec := by
  have same := (s.issued rs).violation_ctx cause detail addr
  have vec : ((s.issued rs).violation cause detail addr).job.trapvec = s.job.trapvec := State.logEntry_trapvec ..
  generalize (s.issued rs).violation cause detail addr = u at same vec ⊢
  rw [State.issued_ctx] at same
  have pc : u.pc = s.ctx.pc := by rw [State.pc, same]
  have entered := State.raise_entered (s := u) (by rw [same]; exact h) (TrapInfo.at u.pc c d a)
  rw [vec, pc, same] at entered
  rw [State.trapHere, pc]
  exact entered.of_inTaint

/-- The core as a trap that is logged first leaves it. -/
theorem State.issued_violation_core {s : State} (h : s.ctx.trappable) (rs : List Reg) (cause c : BitVec 8) (detail d : BitVec 32) (addr a : Word) :
    (((s.issued rs).violation cause detail addr).trapHere c d a).core = s.core :=
  (State.raise_core (by rw [State.violation_ctx]; exact State.issued_trappable h rs) _).trans (State.logEntry_core ..)

theorem State.issued_phaseViolation_entered {s : State} (h : s.ctx.trappable) (rs : List Reg) :
    s.ctx.entered (s.issued rs).phaseViolation.ctx (TrapInfo.at s.ctx.pc 0x07 0 0) s.job.trapvec := State.issued_violation_entered h rs ..

theorem State.issued_phaseViolation_core {s : State} (h : s.ctx.trappable) (rs : List Reg) : (s.issued rs).phaseViolation.core = s.core :=
  State.issued_violation_core h rs ..

theorem State.issued_illegal_core {s : State} (h : s.ctx.trappable) (rs : List Reg) : (s.issued rs).illegal.core = s.core :=
  State.raise_core (State.issued_trappable h rs) _

@[simp] theorem State.chan_setChan (s : State) (q : Fin 5) (c : Chan) : (s.setChan q c).chan q = c := Vector.getElem_set_self q.isLt

theorem State.chan_setChan_ne (s : State) (c : Chan) {q r : Fin 5} (h : r ≠ q) : (s.setChan q c).chan r = s.chan r :=
  Vector.getElem_set_ne q.isLt r.isLt fun e => h (Fin.ext e.symm)

theorem State.readV_issued {s : State} (rs : List Reg) (a : BitVec 5) : (s.issued rs).readV a = s.readV a := by
  unfold State.readV
  rw [State.issued_ctx]
  unfold Ctx.operands
  dsimp only
  split <;> rfl

end Sys2Proof.Machine
end

section
/-! PROOF. O33: pushes (R238, R259). -/

namespace Sys2Proof.Machine

open Sys2Proof

/-- The command that a push makes (R238). -/
def State.newCmd (s : State) (k : CmdKind) (v : Vec) (c : Scope) : Cmd :=
  { seq := s.seq, kind := k, vec := v, ctx := s.cur, exchange := s.exchange, after := s.pushAfter c, held := false,
    started := false, path := .none, status := 0, bytes := 0, wm := s.markOf k v 0, next := 0, head := 0, ptr := none,
    sum := 0, off := 0, copying := false, logged := none, used := [], pulled := [], stores := [], lazy := false,
    skipped := [], redo := none, newer := [], stopped := false, retry := none }

/-- The phase accepts the command (R259). -/
def State.accepts (s : State) (k : CmdKind) (v : Vec) : Prop :=
  s.job.superstep = false ∨ ((s.exchange = true ∨ k = .copy) ∧ s.refusedIn (cmdRuns k v s.exchange) = none)

theorem State.refused_issued (s : State) (rs : List Reg) (at_ : Nat → Word) : ∀ n e, (s.issued rs).refused at_ n e = s.refused at_ n e
  | 0, _ => rfl
  | n + 1, e => by
    rw [State.refused, State.refused, State.refused_issued s rs at_ n]
    rfl

theorem State.refusedIn_issued (s : State) (rs : List Reg) : ∀ l, (s.issued rs).refusedIn l = s.refusedIn l
  | [] => rfl
  | (base, sp, f, n) :: l => by
    rw [State.refusedIn, State.refusedIn, State.refusedIn_issued s rs l, State.refused_issued]
    rfl

theorem State.accepts_issued {s : State} {k : CmdKind} {v : Vec} (h : s.accepts k v) (rs : List Reg) : (s.issued rs).accepts k v :=
  h.imp_right fun ⟨phase, accepted⟩ => ⟨phase, (State.refusedIn_issued ..).trans accepted⟩

theorem State.phaseOk_accepts {s : State} {k : CmdKind} {v : Vec} (h : s.accepts k v) (go : State → State) : s.phaseOk k v go = go s := by
  unfold State.phaseOk
  obtain free | ⟨phase, none⟩ := h
  · rw [if_pos free]
  · split
    · rfl
    · rw [if_neg fun e => e.2 (phase.resolve_left (by rw [e.1]; exact Bool.false_ne_true)), none]

theorem State.phaseOk_refused {s : State} {k : CmdKind} {v : Vec} {x : Word} (step : s.job.superstep = true) (phase : s.exchange = true ∨ k = .copy)
    (refused : s.refusedIn (cmdRuns k v s.exchange) = some x) (go : State → State) : s.phaseOk k v go = s.trapLogged 0x07 0 x := by
  unfold State.phaseOk
  rw [if_neg (by rw [step]; exact Bool.noConfusion), if_neg fun e => e.2 (phase.resolve_left (by rw [e.1]; exact Bool.false_ne_true)), refused]

theorem State.phaseOk_compute {s : State} {k : CmdKind} (v : Vec) (step : s.job.superstep = true) (phase : s.exchange = false) (other : k ≠ .copy)
    (go : State → State) : s.phaseOk k v go = s.phaseViolation := by
  unfold State.phaseOk
  rw [if_neg (by rw [step]; exact Bool.noConfusion), if_pos ⟨phase, other⟩]

/-- A command that finds a place joins its queue (R238). -/
theorem State.enqueue_joins {s : State} {q : Fin 5} (room : (s.chan q).cmds.length + (s.chan q).ready.length < 8) (sw : Bool) (k : CmdKind) (v : Vec) (c : Scope) :
    ∃ e, s.enqueue sw q k v c = ({ (s.setChan q { s.chan q with cmds := (s.chan q).cmds ++ [s.newCmd k v c] }) with
      seq := s.seq + 1, agenda := s.agenda ++ [Instr.commandStart q], early := e }).retireAfter sw 4 1 := by
  unfold State.enqueue
  dsimp only
  rw [if_neg (by omega)]
  split
  · exact ⟨_, rfl⟩
  · exact ⟨_, rfl⟩

/-- What a push does of a command that is checked. -/
theorem State.pushes {s : State} {j : Instr} {sw : Bool} {a : BitVec 5} {c : Scope} {q : Fin 5} {k : CmdKind} {b : Vec → Bool}
    (run : s.ready [.v a] → exec j s = .next ((s.issued [.v a]).pushCmd sw q k a c b)) :
    let v := s.readV a
    let len := (s.chan q).cmds.length + (s.chan q).ready.length
    (s.ready [.v a] → b v = false → s.badMark k v = false → s.accepts k v → len < 8 →
        ∃ t x, exec j s = .next t ∧ (t.chan q).cmds = (s.chan q).cmds ++ [x] ∧ (t.chan q).ready = (s.chan q).ready ∧
          (∀ r, r ≠ q → t.chan r = s.chan r) ∧ x.kind = k ∧ x.vec = v ∧ x.ctx = s.cur ∧ x.exchange = s.exchange ∧ x.started = false ∧ x.status = 0 ∧
          x.bytes = 0 ∧ x.next = 0 ∧ x.wm = s.markOf k v 0 ∧
          (∀ y ∈ s.accs, y.ctx = s.cur → (∀ g, y.op ≠ .tagged g) →
            s.within c y.key = true ∨ (Config.scratchBase ≤ y.key ∧ y.key < Config.peerBase) → y.seq ∈ x.after) ∧
          .commandStart q ∈ t.agenda ∧ s.sameRegs t ∧ s.goesOn t sw 4 1 ∧ t.mem = s.mem ∧ t.accs = s.accs) ∧
      (s.ready [.v a] → b v = false → s.badMark k v = false → s.accepts k v → 8 ≤ len → ∃ t, exec j s = .next t ∧ s.waits t) ∧
      (s.ready [.v a] → b v = true ∨ s.badMark k v = true → s.ctx.trappable →
        ∃ t, exec j s = .next t ∧ t.core = s.core ∧ s.ctx.entered t.ctx (TrapInfo.at s.ctx.pc 0x02 0 0) s.job.trapvec) ∧
      (∀ x, s.ready [.v a] → b v = false → s.badMark k v = false → s.job.superstep = true → (s.exchange = true ∨ k = .copy) →
        s.refusedIn (cmdRuns k v s.exchange) = some x → s.ctx.trappable →
        ∃ t, exec j s = .next t ∧ t.core = s.core ∧ s.ctx.entered t.ctx (TrapInfo.at s.ctx.pc 0x07 0 x) s.job.trapvec) ∧
      (s.ready [.v a] → b v = false → s.badMark k v = false → s.job.superstep = true → s.exchange = false → k ≠ .copy → s.ctx.trappable →
        ∃ t, exec j s = .next t ∧ t.core = s.core ∧ s.ctx.entered t.ctx (TrapInfo.at s.ctx.pc 0x07 0 0) s.job.trapvec) := by
  intro v len
  have checked (ready : s.ready [.v a]) (good : b v = false) (mark : s.badMark k v = false) :
      exec j s = .next ((s.issued [.v a]).phaseOk k v fun u => u.enqueue sw q k v c) := by
    rw [run ready, State.pushCmd, State.readV_issued, if_neg]
    rintro (bad | bad)
    · rw [show b (s.readV a) = false from good] at bad; exact Bool.false_ne_true bad
    · rw [show (s.issued [.v a]).badMark k (s.readV a) = false from mark] at bad; exact Bool.false_ne_true bad
  refine ⟨fun ready good mark ok room => ?_, fun ready good mark ok full => ?_, fun ready bad trappable => ?_, fun x ready good mark step phase refused trappable => ?_,
    fun ready good mark step phase other trappable => ?_⟩
  · have run := checked ready good mark
    rw [State.phaseOk_accepts (State.accepts_issued ok [.v a])] at run
    obtain ⟨e, joined⟩ := State.enqueue_joins (s := s.issued [.v a]) (q := q) room sw k v c
    rw [joined] at run
    set m := { ((s.issued [.v a]).setChan q { (s.issued [.v a]).chan q with cmds := ((s.issued [.v a]).chan q).cmds ++ [(s.issued [.v a]).newCmd k v c] }) with
      seq := (s.issued [.v a]).seq + 1, agenda := (s.issued [.v a]).agenda ++ [Instr.commandStart q], early := e }
    have issued := s.issued_amid [.v a]
    have same := s.issued_sameRegs [.v a]
    have amid : s.amid m := ⟨issued.cycle, issued.way, issued.cur⟩
    have regs : s.sameRegs m := ⟨same.1, same.2⟩
    refine ⟨_, (s.issued [.v a]).newCmd k v c, run, ?_, ?_, fun r ne => State.chan_setChan_ne (s.issued [.v a]) _ ne, rfl, rfl, rfl, rfl, rfl, rfl, rfl, rfl, rfl,
      fun y hy mine untagged near => ?_, List.mem_append_right _ (List.mem_singleton.2 rfl), regs.trans (State.retireAfter_sameRegs ..), amid.goesOn sw 4 1, rfl, rfl⟩
    · exact congrArg Chan.cmds (State.chan_setChan ..)
    · exact (congrArg Chan.ready (State.chan_setChan ..)).trans rfl
    · have out : (s.issued [.v a]).mine y = true := by
        unfold State.mine
        rw [show (s.issued [.v a]).cur = s.cur from rfl, decide_eq_true mine, Bool.true_and]
        split
        · next g tagged => exact absurd tagged (untagged g)
        · rfl
      refine List.mem_append_left _ (List.mem_append_left _ (List.mem_map.2 ⟨y, List.mem_filter.2 ⟨hy, ?_⟩, rfl⟩))
      rw [out, Bool.true_and, Bool.or_eq_true, Bool.and_eq_true, decide_eq_true_eq, decide_eq_true_eq]
      exact near
  · have run := checked ready good mark
    rw [State.phaseOk_accepts (State.accepts_issued ok [.v a]), State.enqueue] at run
    rw [show (s.issued [.v a]).chan q = s.chan q from rfl, if_pos full] at run
    exact ⟨_, run, s.issued_block_waits ready.1 ..⟩
  · have run := run ready
    rw [State.pushCmd, State.readV_issued, if_pos (show b (s.readV a) = true ∨ (s.issued [.v a]).badMark k (s.readV a) = true from bad)] at run
    exact ⟨_, run, State.issued_illegal_core trappable _, State.issued_illegal_entered trappable _⟩
  · have run := checked ready good mark
    rw [State.phaseOk_refused (s := s.issued [.v a]) step phase ((State.refusedIn_issued ..).trans refused)] at run
    exact ⟨_, run, State.issued_violation_core trappable .., State.issued_violation_entered trappable ..⟩
  · have run := checked ready good mark
    rw [State.phaseOk_compute (s := s.issued [.v a]) v step phase other] at run
    exact ⟨_, run, State.issued_phaseViolation_core trappable _, State.issued_phaseViolation_entered trappable _⟩

/-- Settles O33: each push by what a checked command does. -/
theorem commandsArePushed : Obligations.CommandsArePushed := by
  unfold Obligations.CommandsArePushed
  intro s sw qn a c v push
  refine ⟨State.pushes fun ready => ?_, State.pushes fun ready => ?_, State.pushes fun ready => ?_, State.pushes fun ready => ?_⟩
  all_goals exact congrArg Host.Outcome.next (State.issue_issued (by simpa using ready) _)

end Sys2Proof.Machine
end

section
/-! SUPPORT. What an instruction has noted and written does not change where it goes on. -/

namespace Sys2Proof.Machine

/-- A context with what its instruction has read, the taints and the outstanding writes replaced. -/
def Ctx.noting (c : Ctx) (l : List Nat) (ts : List (TReg × Nat)) (ws : List PendingWrite) : Ctx := { c with inTaint := l, taints := ts, writes := ws }

theorem Ctx.endTests_noting (pc : Word) (size : Nat) (l : List Nat) (ts : List (TReg × Nat)) (ws : List PendingWrite) : ∀ (ns : List (Fin 3)) (c : Ctx),
    Ctx.endTests pc size ns (c.noting l ts ws) = (Ctx.endTests pc size ns c).noting l ts ws
  | [], _ => rfl
  | n :: ns, c => by
    have counts : (c.noting l ts ws).ctl = c.ctl := rfl
    have ends : (c.noting l ts ws).loopEndsIn n pc size = c.loopEndsIn n pc size := rfl
    have exits : ((c.noting l ts ws).countLoop n).exitLoop n = ((c.countLoop n).exitLoop n).noting l ts ws := rfl
    unfold Ctx.endTests
    rw [ends, counts, exits, Ctx.endTests_noting pc size l ts ws ns, Ctx.endTests_noting pc size l ts ws ns]
    split
    · split <;> rfl
    · rfl

theorem Ctx.frameNext_noting (c : Ctx) (l : List Nat) (ts : List (TReg × Nat)) (ws : List PendingWrite) : (c.noting l ts ws).frameNext = c.frameNext.noting l ts ws := by
  have counts : (c.noting l ts ws).ctl = c.ctl := rfl
  unfold Ctx.frameNext
  rw [counts]
  dsimp only
  split
  · rfl
  · split <;> rfl

theorem Ctx.sequential_noting (c : Ctx) (size : Nat) (l : List Nat) (ts : List (TReg × Nat)) (ws : List PendingWrite) :
    (c.noting l ts ws).sequential size = (c.sequential size).noting l ts ws := by
  unfold Ctx.sequential
  rw [Ctx.frameNext_noting, show (c.noting l ts ws).frame = c.frame from rfl, show (c.noting l ts ws).loopOrder = c.loopOrder from rfl,
    show (c.noting l ts ws).pc = c.pc from rfl, Ctx.endTests_noting]
  split <;> rfl

theorem State.lands.then_sameRegs {s m t : State} {r : Reg} {v : Vec} {lat : Nat} (h : s.lands m r v lat) (same : m.sameRegs t) : s.lands t r v lat where
  others q hq := (same.1 q).trans (h.others q hq)
  zero e := same.2.trans (h.zero e)
  now ne le := ⟨(same.1 r).trans (h.now ne le).1, same.2.trans (h.now ne le).2⟩
  later ne lt := same.2.trans (h.later ne lt)

/-- A context that has no write due keeps them all. -/
theorem Ctx.settle_undue {c : Ctx} {cycle : Nat} (h : ∀ w ∈ c.writes, ∀ d, w.due = some d → cycle < d) : c.settle cycle = c := by
  refine Ctx.performAll_none (fun u hu => ?_) _
  cases due : u.due with
  | none => rfl
  | some d => exact decide_eq_false (Nat.not_le.2 (h u hu d due))

end Sys2Proof.Machine
end

section
/-! PROOF. O35: pops (R239 to R241, R158, R249, R256). -/

namespace Sys2Proof.Machine

open Sys2Proof

/-- What a context acquires drops what it had read early. -/
theorem State.acquireFrom_eq (s : State) (n : Nat) (c : Scope) : ∃ early, s.acquireFrom n c = { s with early } := by
  unfold State.acquireFrom State.learn
  exact ⟨_, rfl⟩

/-- The state in which an element has been taken from its queue; what the context acquires with it drops what had been read early (R240). -/
theorem State.takeElement_eq (s : State) (sw : Bool) (d : BitVec 5) (q : Fin 5) (e : Element) : ∃ early,
    s.takeElement sw d q e = (((({ s.setChan q { s.chan q with ready := (s.chan q).ready.drop 1 } with early } : State).write (.x d) (wide e.word) 2).retire sw 4).overflowTrap s.pc e) := by
  unfold State.takeElement
  dsimp only
  obtain ⟨early, acquired⟩ := ((s.setChan q { s.chan q with ready := (s.chan q).ready.drop 1 }).writeX d e.word 2).acquireFrom_eq (cmdAgent e.cmd) .sys
  rw [acquired]
  exact ⟨early, rfl⟩

/-- A write of latency 2 to an x register leaves the context's writes and taints alone to change. -/
theorem Ctx.write_noting (c : Ctx) (r : Reg) (v : Vec) (cycle seq : Nat) : ∃ ts ws, c.write r v 2 cycle seq = c.noting c.inTaint ts ws ∧
    (r = .x 0 → ws = c.writes) := by
  unfold Ctx.write
  split
  · exact ⟨c.taints, c.writes, rfl, fun _ => rfl⟩
  · next ne =>
    rw [if_neg (by decide)]
    unfold Ctx.setTaint
    split
    · exact ⟨_, _, rfl, fun e => absurd e ne⟩
    · exact ⟨_, _, rfl, fun e => absurd e ne⟩

/-- The context of a pop that has completed: it goes on where the instruction does. -/
theorem State.popped_ctx {s m : State} (ctx : m.ctx = (s.issued []).ctx) (sw : Bool) (r : Reg) (v : Vec) : ∃ ts ws,
    ((m.write r v 2).retire sw 4).ctx =
      { (s.ctx.sequential 4).noting (s.ctx.taintOf []) ts ws with parked := sw, nextIssue := m.cycle + 1, wait := none, afterSync := false } ∧
      (r = .x 0 → ws = s.ctx.writes) := by
  obtain ⟨ts, ws, eq, zero⟩ := m.ctx.write_noting r v m.cycle m.seq
  rw [ctx, State.issued_ctx] at eq zero
  refine ⟨ts, ws, ?_, zero⟩
  rw [State.retire, State.retireAfter_ctx, State.write_ctx, ctx, State.issued_ctx, eq]
  show { ((s.ctx.noting (s.ctx.taintOf []) ts ws).sequential 4) with parked := sw, nextIssue := (m.write r v 2).cycle + 1, wait := none, afterSync := false } = _
  rw [Ctx.sequential_noting]
  rfl

/-- An element without an overflow is popped (R239). -/
theorem State.pops_element {s : State} {j : Instr} {sw : Bool} {d : BitVec 5} {q : Fin 5} {e : Element} {es : List Element}
    (run : exec j s = .next ((s.issued []).takeElement sw d q e)) (ready : (s.chan q).ready = e :: es) (none : e.overflow = none) :
    ∃ t, exec j s = .next t ∧ s.lands t (.x d) (wide e.word) 2 ∧ s.goesOn t sw 4 1 ∧ (t.chan q).ready = es ∧ (t.chan q).cmds = (s.chan q).cmds ∧
      (∀ m, m ≠ q → t.chan m = s.chan m) ∧ t.mem = s.mem ∧ t.accs = s.accs := by
  obtain ⟨early, eq⟩ := (s.issued []).takeElement_eq sw d q e
  rw [eq, State.overflowTrap, none] at run
  obtain ⟨lands, goes⟩ := State.completesWith (s := s) (rs := [])
    (m := { (s.issued []).setChan q { (s.issued []).chan q with ready := ((s.issued []).chan q).ready.drop 1 } with early }) rfl rfl rfl sw 4 (.x d) (wide e.word) 2
    (Reg.fits_wide _ _)
  refine ⟨_, run, lands, goes, ?_, ?_, fun m ne => State.chan_setChan_ne (s.issued []) _ ne, rfl, rfl⟩
  · refine (congrArg Chan.ready ((s.issued []).chan_setChan q _)).trans ?_
    show (s.chan q).ready.drop 1 = es
    rw [ready]
    rfl
  · exact (congrArg Chan.cmds ((s.issued []).chan_setChan q _)).trans rfl

/-- The trap that a popped overflow raises (R256). -/
def State.overflowInfo (s : State) (row : BitVec 32) (head : Word) : TrapInfo :=
  { cause := 0x13, detail := row, tag := none, fetch := false, next := true, ret := (s.ctx.sequential 4).pc, iaddr := s.ctx.pc, caddr := head, log := false }

/-- An element with an overflow is popped, and traps once the pop is done (R256). -/
theorem State.pops_overflow {s : State} {j : Instr} {sw : Bool} {d : BitVec 5} {q : Fin 5} {e : Element} {es : List Element}
    (run : exec j s = .next ((s.issued []).takeElement sw d q e)) (ready : (s.chan q).ready = e :: es) {row : BitVec 32} {head : Word}
    (out : e.overflow = some (row, head)) (trappable : s.ctx.trappable) :
    ∃ t, exec j s = .next t ∧ (t.chan q).ready = es ∧ (t.chan q).cmds = (s.chan q).cmds ∧
      (d = 0 → (s.ctx.sequential 4).entered t.ctx (s.overflowInfo row head) s.job.trapvec) ∧
      (d ≠ 0 → s.lands t (.x d) (wide e.word) 2 ∧ t.ctx.trapping = some (s.overflowInfo row head) ∧ t.ctx.pc = (s.overflowInfo row head).ret ∧ t.ctx.inTrap = false) := by
  obtain ⟨early, eq⟩ := (s.issued []).takeElement_eq sw d q e
  obtain ⟨inTrap, writes⟩ := trappable
  set m : State := { (s.issued []).setChan q { (s.issued []).chan q with ready := ((s.issued []).chan q).ready.drop 1 } with early }
  obtain ⟨lands, -⟩ := State.completesWith (s := s) (rs := []) (m := m) rfl rfl rfl sw 4 (.x d) (wide e.word) 2 (Reg.fits_wide _ _)
  obtain ⟨ts, ws, ctx, zero⟩ := State.popped_ctx (s := s) (m := m) rfl sw (.x d) (wide e.word)
  have chans : ((m.write (.x d) (wide e.word) 2).retire sw 4).core = m.core := rfl
  have vec : ((m.write (.x d) (wide e.word) 2).retire sw 4).job = s.job := rfl
  have cycle : ((m.write (.x d) (wide e.word) 2).retire sw 4).cycle = s.cycle := rfl
  rw [eq] at run
  generalize (m.write (.x d) (wide e.word) 2).retire sw 4 = w at lands ctx chans vec cycle run
  have pc : w.pc = (s.ctx.sequential 4).pc := by rw [State.pc, ctx]; rfl
  have out' : w.overflowTrap (s.issued []).pc e = w.raise (s.overflowInfo row head) := by
    unfold State.overflowTrap
    rw [out]
    dsimp only
    rw [pc, State.issued_pc]
    rfl
  rw [out'] at run
  have same : w.core = m.core → (∀ u : State, u.core = w.core → (u.chan q).ready = es ∧ (u.chan q).cmds = (s.chan q).cmds) := fun core u hu => by
    have chan : u.chan q = { s.chan q with ready := (s.chan q).ready.drop 1 } := by
      unfold State.chan
      rw [hu, core]
      exact (s.issued []).chan_setChan q _
    rw [chan, ready]
    exact ⟨rfl, rfl⟩
  have noTrap : w.ctx.inTrap = false := by
    rw [ctx, Ctx.sequential_only]
    exact inTrap
  by_cases zeroth : d = 0
  · have trappable : w.ctx.trappable := ⟨noTrap, by rw [ctx]; exact (zero (by rw [zeroth])).trans writes⟩
    obtain ⟨popped, left⟩ := same chans _ (State.raise_core trappable (s.overflowInfo row head))
    have entered := State.raise_entered trappable (s.overflowInfo row head)
    rw [vec, ctx] at entered
    exact ⟨_, run, popped, left, fun _ => { entered with regs := fun r => (entered.regs r).trans (Ctx.reg_congr rfl rfl rfl r) }, fun ne => absurd zeroth ne⟩
  · have ne : Reg.x d ≠ .x 0 := fun h => zeroth (Reg.x.inj h)
    have later := lands.later ne (by decide)
    rw [writes, List.nil_append] at later
    have kept : w.raise (s.overflowInfo row head) = w.setCtx { w.ctx with trapping := some (s.overflowInfo row head), wait := none, nextIssue := w.cycle + 1 } := by
      have undue : w.ctx.settle w.cycle = w.ctx := Ctx.settle_undue fun p hp d due => by
        rw [later] at hp
        obtain rfl := List.mem_singleton.1 hp
        obtain rfl := Option.some.inj due
        rw [cycle]
        omega
      rw [State.raise, State.logTrap, if_neg (show ¬ (s.overflowInfo row head).log = true from Bool.false_ne_true), State.takeTrap, undue,
        show w.ctx.writes.isEmpty = false by rw [later]; rfl]
      rfl
    rw [kept] at run
    have after : (w.setCtx { w.ctx with trapping := some (s.overflowInfo row head), wait := none, nextIssue := w.cycle + 1 }).ctx =
        { w.ctx with trapping := some (s.overflowInfo row head), wait := none, nextIssue := w.cycle + 1 } := State.ctx_setCtx ..
    obtain ⟨popped, left⟩ := same chans (w.setCtx { w.ctx with trapping := some (s.overflowInfo row head), wait := none, nextIssue := w.cycle + 1 }) rfl
    refine ⟨_, run, popped, left, fun e => absurd e zeroth, fun _ => ⟨lands.then_sameRegs ⟨fun r => ?_, ?_⟩, ?_, ?_, ?_⟩⟩
    · rw [after]; exact Ctx.reg_congr rfl rfl rfl r
    · rw [after]
    · rw [after]
    · rw [after]; exact pc
    · rw [after]; exact noTrap

/-! ## What a queue holds -/

theorem exec_qpop {s : State} (sw : Bool) (d q : BitVec 5) (ne : q ≠ 5) (ready : s.ready [.x d]) : exec (.qpop sw d q) s = .next
    (match (s.chan (chanOf q)).ready with | e :: _ => (s.issued []).takeElement sw d (chanOf q) e | [] => (s.issued []).block .other 0 0) := by
  have run : exec (.qpop sw d q) s = execQpop sw d q s := rfl
  unfold execQpop at run
  rw [State.issue_issued (by simpa using ready), if_neg ne] at run
  exact run

theorem exec_qtry {s : State} (sw : Bool) (d q : BitVec 5) (ready : s.ready [.x d]) : exec (.qtry sw d q) s = .next
    (match (s.chan (chanOf q)).ready with | e :: _ => (s.issued []).takeElement sw d (chanOf q) e | [] => ((s.issued []).writeX d 0 2).retire sw 4) := by
  have run : exec (.qtry sw d q) s = execQtry sw d q s := rfl
  unfold execQtry at run
  rw [State.issue_issued (by simpa using ready)] at run
  exact run

/-! ## The index space (R158) -/

/-- The next range when no other core's take waits and none was handed back: the next grain. -/
theorem State.nextRange_grain {s : State} (takes : s.job.space.takes = []) (pool : s.job.space.pool = []) : s.nextRange =
    let n := Nat.min s.job.space.grain s.job.space.left
    if n = 0 then (s, 0, 0)
    else ({ s with job := { s.job with space := { s.job.space with next := s.job.space.next + n, left := s.job.space.left - n } } }, s.job.space.next, n) := by
  have settled : IndexSpace.settle s.cycle s.job.space.takes s.job.space = s.job.space := by
    rw [takes, IndexSpace.settle, ← takes]
  unfold State.nextRange
  rw [settled]
  dsimp only
  rw [pool]

theorem exec_qpop_range {s : State} (sw : Bool) (d : BitVec 5) (ready : s.ready [.x d]) : exec (.qpop sw d 5) s = .next ((s.issued []).popRange sw d) := by
  have run : exec (.qpop sw d 5) s = execQpop sw d 5 s := rfl
  unfold execQpop at run
  rw [State.issue_issued (by simpa using ready), if_pos rfl] at run
  exact run

/-- A range is taken by the context that pops it. -/
theorem State.popRange_lands {s u : State} {st n : Nat} (next : (s.issued []).nextRange = (u, st, n)) (ctx : u.ctx = (s.issued []).ctx) (cycle : u.cycle = s.cycle)
    (seq : u.seq = s.seq) (sw : Bool) (d : BitVec 5) :
    s.lands ((s.issued []).popRange sw d) (.x d) (wide (BitVec.ofNat 64 (st * 2 ^ 24 + n))) 2 ∧ s.goesOn ((s.issued []).popRange sw d) sw 4 1 ∧
      ((s.issued []).popRange sw d).mem = u.mem ∧ ((s.issued []).popRange sw d).core = u.core ∧ ((s.issued []).popRange sw d).job = u.job ∧
      ((s.issued []).popRange sw d).ctx.range = if n = 0 then none else some (st, n) := by
  unfold State.popRange
  rw [next]
  dsimp only
  have held := u.ctx_modCtx fun c => { c with range := if n = 0 then none else some (st, n) }
  rw [ctx, State.issued_ctx] at held
  set m := u.modCtx fun c => { c with range := if n = 0 then none else some (st, n) }
  have same : s.sameRegs m := ⟨fun r => by rw [held]; exact Ctx.reg_congr rfl rfl rfl r, by rw [held]⟩
  have way : s.ctx.sameWay m.ctx := by rw [held]; exact ⟨rfl, rfl, rfl, rfl, rfl, rfl⟩
  obtain ⟨lands, goes⟩ := State.write_retire_of (m := m) sw 4 (.x d) (wide (BitVec.ofNat 64 (st * 2 ^ 24 + n))) 2 (Reg.fits_wide _ _) same cycle seq way
  refine ⟨lands, goes, rfl, rfl, rfl, ?_⟩
  obtain ⟨ts, ws, eq, -⟩ := m.ctx.write_noting (.x d) (wide (BitVec.ofNat 64 (st * 2 ^ 24 + n))) m.cycle m.seq
  show ((m.write (.x d) (wide (BitVec.ofNat 64 (st * 2 ^ 24 + n))) 2).retireAfter sw 4 1).ctx.range = _
  rw [State.retireAfter_ctx, State.write_ctx, eq, Ctx.sequential_only, held]
  rfl

/-- Settles O35: a pop takes what its queue has ready. -/
theorem elementsArePopped : Obligations.ElementsArePopped := by
  unfold Obligations.ElementsArePopped
  intro s sw d qn q pops
  have pop {j : Instr} (run : ∀ e es, s.ready [.x d] → (s.chan q).ready = e :: es → exec j s = .next ((s.issued []).takeElement sw d q e)) : pops j :=
    fun e es ready some => ⟨State.pops_element (run e es ready some) some, fun row head out trappable => State.pops_overflow (run e es ready some) some out trappable⟩
  refine ⟨fun small => ⟨pop fun e es ready some => ?_, pop fun e es ready some => ?_, fun empty => ⟨fun ready => ?_, fun ready => ?_⟩, ?_, ?_⟩, fun ready takes pool => ?_⟩
  · rw [exec_qpop sw d qn (fun e => by rw [e] at small; exact absurd small (by decide)) ready, show (s.chan (chanOf qn)).ready = e :: es from some]
  · rw [exec_qtry sw d qn ready, show (s.chan (chanOf qn)).ready = e :: es from some]
  · have run := exec_qpop sw d qn (fun e => by rw [e] at small; exact absurd small (by decide)) ready
    rw [show (s.chan (chanOf qn)).ready = [] from empty] at run
    exact ⟨_, run, s.issued_block_waits ready.1 [] .other 0 0⟩
  · have run := exec_qtry sw d qn ready
    rw [show (s.chan (chanOf qn)).ready = [] from empty] at run
    rw [← wide_zero]
    exact ⟨_, run, State.write_retire_computes s (fun c => c.taintOf []) sw 4 (.x d) (wide 0) 2 (Reg.fits_wide _ 0)⟩
  · exact State.issue_gives [] [.x d] (fun u => wide (BitVec.ofNat 64 ((u.chan q).ready.length + 256 * ((u.chan q).cmds.length + (u.chan q).ready.length)))) rfl
      (fun f => rfl) (Reg.fits_wide _ _)
  · exact State.issue_gives [] [.x d] (fun u => wide (match (u.chan q).marks with | k :: _ => BitVec.ofNat 64 (k - scratchKey u.core.num.toNat 0) | [] => BitVec.allOnes 64)) rfl
      (fun f => rfl) (Reg.fits_wide _ _)
  · intro n
    have next := State.nextRange_grain (s := s.issued []) takes pool
    dsimp only at next
    by_cases zero : n = 0
    · rw [if_pos (show Nat.min (s.issued []).job.space.grain (s.issued []).job.space.left = 0 from zero)] at next
      obtain ⟨lands, goes, mem, core, job, range⟩ := State.popRange_lands (s := s) next rfl rfl rfl sw d
      refine ⟨_, exec_qpop_range sw d ready, goes, mem, core, fun pos => absurd zero (Nat.ne_of_gt pos), fun _ => ⟨?_, ?_, range⟩⟩
      · rw [← wide_zero]
        exact lands
      · rw [job]
        rfl
    · rw [if_neg (show ¬ Nat.min (s.issued []).job.space.grain (s.issued []).job.space.left = 0 from zero)] at next
      obtain ⟨lands, goes, mem, core, job, range⟩ := State.popRange_lands (s := s) next rfl rfl rfl sw d
      refine ⟨_, exec_qpop_range sw d ready, goes, mem, core, fun _ => ⟨lands, ?_, ?_, ?_⟩, fun none => absurd none zero⟩
      · rw [job]
        rfl
      · rw [job]
        rfl
      · rw [range]
        exact if_neg zero

end Sys2Proof.Machine
end

section
/-! PROOF. Binding a stream of no element (R257). -/

namespace Sys2Proof.Machine

open Sys2Proof

/-- After reset, SBIND of a read stream with the count of x0, which is 0, binds the stream, and posts no fetch: there is no element to fetch. -/
theorem exec_sbind_empty :
    (match exec (.sbind false 0 0 0 (.int .s32) false) State.reset with
      | .next t => decide (.streamFetch 0 ∉ t.agenda)
      | _ => false) = true := by decide

/-- Refutes O36: a read stream of no element is bound with nothing to fetch, so that no fetch is posted. In the state after reset x0 gives the count 0. -/
theorem not_streamsAreBoundAndFreed : ¬ Obligations.StreamsAreBoundAndFreed := by
  unfold Obligations.StreamsAreBoundAndFreed
  intro h
  obtain ⟨binds, -⟩ := h State.reset false 0 0 0 0 (.int .s32) false
  obtain ⟨bound, -⟩ := binds ⟨rfl, rfl⟩
  obtain ⟨t, run, -, -, posted⟩ := bound (by decide) (by decide) fun y hy => nomatch hy
  have none := exec_sbind_empty
  rw [run] at none
  exact of_decide_eq_true none (posted rfl)

end Sys2Proof.Machine
end

section
/-! SUPPORT. What a trap leaves alone (R140, R11). -/

namespace Sys2Proof.Machine

/-- Nothing has changed but the issuing context, the logs and what memory and the job show of them. -/
def State.onlyTraps (s t : State) : Prop := t = { s.setCtx t.ctx with dev := t.dev, mem := t.mem, job := { s.job with logged := t.job.logged } }

theorem State.onlyTraps.trans {s t u : State} (h : s.onlyTraps t) (k : t.onlyTraps u) : s.onlyTraps u := by
  unfold State.onlyTraps at *
  generalize u.ctx = c, u.dev = d, u.mem = m, u.job.logged = l at k ⊢
  rw [k, h]
  simp [State.setCtx]

theorem State.onlyTraps.core {s t : State} (h : s.onlyTraps t) : t.core = s.core := congrArg (·.core) h
theorem State.onlyTraps.bar {s t : State} (h : s.onlyTraps t) : t.bar = s.bar := congrArg (·.bar) h
theorem State.onlyTraps.clu {s t : State} (h : s.onlyTraps t) : t.clu = s.clu := congrArg (·.clu) h
theorem State.onlyTraps.accs {s t : State} (h : s.onlyTraps t) : t.accs = s.accs := congrArg (·.accs) h
theorem State.onlyTraps.agenda {s t : State} (h : s.onlyTraps t) : t.agenda = s.agenda := congrArg (·.agenda) h
theorem State.onlyTraps.cur {s t : State} (h : s.onlyTraps t) : t.cur = s.cur := congrArg (·.cur) h

theorem State.issued_onlyTraps (s : State) (rs : List Reg) : s.onlyTraps (s.issued rs) := by
  simp [State.onlyTraps, State.issued, State.modCtx, State.setCtx, State.ctx]

theorem State.logEntry_onlyTraps (s : State) (withJob : Bool) (cls cause source : Nat) (detail : BitVec 32) (addr : Word) :
    s.onlyTraps (s.logEntry withJob cls cause source detail addr) := by
  have only := s.logEntry_only withJob cls cause source detail addr
  have ctx := s.logEntry_ctx withJob cls cause source detail addr
  unfold State.onlyTraps
  rw [ctx, s.setCtx_ctx]
  exact only

theorem State.trace_onlyTraps (s : State) (kind n : Nat) (payload : Word) : s.onlyTraps (s.trace kind n payload) := by
  have only := s.trace_only kind n payload
  have ctx := s.trace_ctx kind n payload
  have job : (s.trace kind n payload).job = s.job := by rw [only]
  unfold State.onlyTraps
  rw [ctx, s.setCtx_ctx, job]
  exact only

theorem State.modCtx_onlyTraps (s : State) (f : Ctx → Ctx) : s.onlyTraps (s.modCtx f) := by
  simp [State.onlyTraps, State.modCtx, State.setCtx, State.ctx]

/-- A trap that is entered at once. -/
theorem State.raise_onlyTraps {s : State} (h : s.ctx.trappable) (t : TrapInfo) : s.onlyTraps (s.raise t) := by
  have logged : s.onlyTraps (s.logTrap t) := by
    unfold State.logTrap
    split
    · exact s.logEntry_onlyTraps ..
    · exact s.modCtx_onlyTraps id |> fun k => by rwa [show s.modCtx id = s from s.setCtx_ctx] at k
  have same := State.logTrap_ctx s t
  rw [State.raise, State.takeTrap_trappable (by rwa [same])]
  split
  · exact (logged.trans (State.modCtx_onlyTraps ..)).trans (State.trace_onlyTraps ..)
  · exact logged.trans (State.modCtx_onlyTraps ..)

/-- An instruction that traps with the record of `t`, and changes nothing but its context and the logs. -/
def State.trapsIn (s : State) (j : Instr) (cause : BitVec 8) (detail : BitVec 32) (addr : Word) : Prop :=
  s.ctx.trappable → ∃ t, exec j s = .next t ∧ s.onlyTraps t ∧ s.ctx.entered t.ctx (TrapInfo.at s.ctx.pc cause detail addr) s.job.trapvec

theorem State.trapHere_trapsIn {s : State} {j : Instr} {rs : List Reg} {cause : BitVec 8} {detail : BitVec 32} {addr : Word}
    (run : exec j s = .next ((s.issued rs).trapHere cause detail addr)) : s.trapsIn j cause detail addr := fun trappable =>
  ⟨_, run, (s.issued_onlyTraps rs).trans (State.raise_onlyTraps (State.issued_trappable trappable rs) _), State.issued_trapHere_entered trappable rs ..⟩

theorem State.violation_trapsIn {s : State} {j : Instr} {rs : List Reg} {cause c : BitVec 8} {detail d : BitVec 32} {addr a : Word}
    (run : exec j s = .next (((s.issued rs).violation cause detail addr).trapHere c d a)) : s.trapsIn j c d a := fun trappable =>
  ⟨_, run, ((s.issued_onlyTraps rs).trans (State.logEntry_onlyTraps ..)).trans
    (State.raise_onlyTraps (by rw [State.logEntry_ctx]; exact State.issued_trappable trappable rs) _), State.issued_violation_entered trappable rs ..⟩

end Sys2Proof.Machine
end

section
/-! PROOF. O37: barrier groups (R262 to R267). -/

namespace Sys2Proof.Machine

open Sys2Proof

/-! ## The checks of a group (R264) -/

theorem State.groupCheck_open {s : State} {g : BitVec 5} {member : Bool} (res : (s.group g).res = true) (out : s.bar.domain ≠ some g)
    (free : s.job.superstep = false) (part : member = true → (s.group g).member = true) (k : State → State) : s.groupCheck g member k = k s := by
  unfold State.groupCheck
  rw [if_neg fun h => by rw [res] at h; exact Bool.noConfusion h.1, if_neg, if_neg (by rw [free]; exact Bool.false_ne_true)]
  rintro (dom | ⟨asks, absent⟩)
  · exact out dom
  · rw [part asks] at absent
    exact Bool.noConfusion absent

/-- What a group refuses (R264): a group that is not reserved, the superstep domain, an instruction of a core that is no member, superstep mode. -/
theorem State.groupCheck_traps {s : State} {j : Instr} {rs : List Reg} {g : BitVec 5} {member : Bool} {k : State → State}
    (run : exec j s = .next ((s.issued rs).groupCheck g member k)) :
    ((s.group g).res = false → s.bar.domain ≠ some g → s.trapsIn j 0x08 5 0) ∧ (s.bar.domain = some g → s.trapsIn j 0x02 0 0) ∧
      ((s.group g).res = true → s.bar.domain ≠ some g → (s.group g).member = true → s.job.superstep = true → s.trapsIn j 0x07 0 0) ∧
      (member = true → (s.group g).res = true → s.bar.domain ≠ some g → (s.group g).member = false → s.trapsIn j 0x02 0 0) := by
  unfold State.groupCheck at run
  have res : ((s.issued rs).group g).res = (s.group g).res := rfl
  have part : ((s.issued rs).group g).member = (s.group g).member := rfl
  have dom : (s.issued rs).bar.domain = s.bar.domain := rfl
  have step : (s.issued rs).job.superstep = s.job.superstep := rfl
  rw [res, part, dom, step] at run
  refine ⟨fun none out => ?_, fun domain => ?_, fun held out here mode => ?_, fun asks held out absent => ?_⟩
  · rw [if_pos ⟨none, out⟩] at run
    exact State.trapHere_trapsIn run
  · rw [if_neg fun h => h.2 domain, if_pos (.inl domain)] at run
    exact State.trapHere_trapsIn run
  · rw [if_neg fun h => by rw [held] at h; exact Bool.noConfusion h.1, if_neg, if_pos mode] at run
    · exact State.violation_trapsIn run
    · rintro (d | ⟨-, absent⟩)
      · exact out d
      · rw [here] at absent
        exact Bool.noConfusion absent
  · rw [if_neg fun h => by rw [held] at h; exact Bool.noConfusion h.1, if_pos (.inr ⟨asks, absent⟩)] at run
    exact State.trapHere_trapsIn run

theorem badArrivals_iff (v : Word) : badArrivals v = true ↔ ¬ (1 ≤ v.toNat ∧ v.toNat ≤ 65535) := by
  have zero : v = 0 ↔ v.toNat = 0 := by
    constructor
    · rintro rfl
      rfl
    · exact fun h => BitVec.eq_of_toNat_eq h
  simp only [badArrivals, Bool.or_eq_true, decide_eq_true_eq, zero]
  omega

/-! ## Arrivals (R264) -/

/-- An arrival leaves the core as an access that a release keeps behind the context's earlier ones (R264). -/
theorem State.arrive_sends (s : State) (d g : BitVec 5) (w : BitVec 16) (c : Scope) (o : Bool) : ∃ y,
    (s.arrive d g w c o).ctx = (s.writeLater (.x d) 0 1).ctx ∧ (s.arrive d g w c o).cycle = s.cycle ∧ (s.arrive d g w c o).cur = s.cur ∧
      (s.arrive d g w c o).mem = s.mem ∧ (s.arrive d g w c o).bar = s.bar ∧ (s.arrive d g w c o).accs = s.accs ++ [y] ∧
      .accessPerformed y.seq ∈ (s.arrive d g w c o).agenda ∧ y.op = .arrive g w (some (if d = 0 then 0 else s.seq)) ∧ y.ctx = s.cur ∧
      y.after = if o then s.earlier c ++ s.ctx.order.map (·.seq) else [] := by
  have bar : (s.writeLater (.x d) 0 1).bar = s.bar ∧ (s.writeLater (.x d) 0 1).accs = s.accs := by
    unfold State.writeLater
    split <;> exact ⟨rfl, rfl⟩
  refine ⟨_, rfl, s.writeLater_cycle .., s.writeLater_cur .., s.writeLater_mem .., bar.1, congrArg (· ++ [_]) bar.2, ?_, rfl, s.writeLater_cur .., rfl⟩
  exact List.mem_append_right _ (List.mem_singleton.2 rfl)

/-- The accesses that a release waits for (R191, R303). -/
theorem State.mem_earlier {s : State} {c : Scope} {z : Acc} (mem : z ∈ s.accs) (mine : z.ctx = s.cur) (near : s.within c z.key = true) (untagged : ∀ q, z.op ≠ .tagged q)
    (still : ∀ q v r, z.op ≠ .arrive q v r) (own : ∀ q v r, z.op ≠ .swatch q v r) : z.seq ∈ s.earlier c := by
  refine List.mem_map.2 ⟨z, List.mem_filter.2 ⟨mem, ?_⟩, rfl⟩
  rw [decide_eq_true mine, near, Bool.true_and, Bool.true_and]
  split
  · next t h => exact absurd h (untagged t)
  · next a b c h => exact absurd h (still a b c)
  · next a b c h => exact absurd h (own a b c)
  · rfl

/-- What ARV and ARVN do of a group that takes them. -/
theorem State.arrive_retires {s : State} {j : Instr} {rs : List Reg} (sw : Bool) (d g : BitVec 5) (w : BitVec 16) (c : Scope) (o : Bool)
    (run : exec j s = .next (((s.issued rs).arrive d g w c o).retireAfter sw 4 1)) :
    ∃ t y, exec j s = .next t ∧ s.awaits t (.x d) 0 1 ∧ s.goesOn t sw 4 1 ∧ t.mem = s.mem ∧ t.bar = s.bar ∧
      y ∈ t.accs ∧ y.op = .arrive g w (some (if d = 0 then 0 else s.seq)) ∧ y.ctx = s.cur ∧ .accessPerformed y.seq ∈ t.agenda ∧ (∀ z ∈ s.accs, z ∈ t.accs) ∧
      (o = false → y.after = []) ∧
      (o = true → ∀ z ∈ s.accs, z.ctx = s.cur → s.within c z.key = true → (∀ q, z.op ≠ .tagged q) → (∀ q v r, z.op ≠ .arrive q v r) →
        (∀ q v r, z.op ≠ .swatch q v r) → z.seq ∈ y.after) := by
  obtain ⟨y, ctx, cycle, cur, mem, bar, accs, posted, op, mine, after⟩ := (s.issued rs).arrive_sends d g w c o
  set m := (s.issued rs).arrive d g w c o
  have waits : (s.issued rs).awaits m (.x d) 0 1 :=
    ((s.issued rs).writeLater_awaits (.x d) 0 1).then_sameRegs ⟨fun r => by rw [ctx], by rw [ctx]⟩
  have amid : s.amid m := (s.issued_amid rs).trans ⟨cycle, by rw [ctx]; exact (s.issued rs).writeLater_sameWay .., cur⟩
  have all : (m.retireAfter sw 4 1).accs = s.accs ++ [y] := accs
  refine ⟨_, y, run, (waits.of_sameRegs (s.issued_sameRegs rs) rfl).then_sameRegs (State.retireAfter_sameRegs ..), amid.goesOn sw 4 1, mem, bar, ?_, op, mine, posted,
    fun z hz => ?_, fun plain => ?_, fun release z hz own near untagged still drawn => ?_⟩
  · rw [all]; exact List.mem_append_right _ (List.mem_singleton.2 rfl)
  · rw [all]; exact List.mem_append_left _ hz
  · rw [after, plain]; rfl
  · rw [after, release]
    exact List.mem_append_left _ (State.mem_earlier (s := s.issued rs) hz own near untagged still drawn)

/-! ## WAIT (R265, R161) -/

/-- What an acquire of every scope leaves of what the context had read early: nothing that a later write may have changed (R306). -/
theorem State.acquire_sys (s : State) : ∃ early, s.acquire .sys = { s with early } ∧ ∀ e ∈ early, e.ctx = s.cur → e.newer = [] := by
  refine ⟨(s.acquire .sys).early, rfl, fun e he mine => ?_⟩
  obtain ⟨listed, fresh⟩ := List.mem_filter.1 (show e ∈ s.freshEarly _ from he)
  obtain ⟨f, -, rfl⟩ := List.mem_map.1 listed
  have always : s.within .sys f.key = true := rfl
  rw [if_pos always] at fresh mine ⊢
  cases known : f.newer with
  | nil => simp
  | cons k ks =>
    exfalso
    have source : s.sourceOf f.ctx = s.source := by rw [show f.ctx = s.cur from mine]; rfl
    simp [known, source] at fresh

theorem exec_wait {s : State} (sw : Bool) (a g : BitVec 5) (ready : s.ready [.x a]) : exec (.wait sw a g) s = .next ((s.issued [.x a]).groupCheck g true fun u =>
    if (u.group g).passed ((u.waitValue a).setWidth 16) then u.compareSigs (fun u => u.redundancyAbort 0) fun u => (u.acquire .sys).retireAfter sw 4 1
    else u.block .other 0 (u.waitValue a)) :=
  State.exec_issued (rs := [.x a]) (ws := []) (by simpa using ready) (k := fun u => u.groupCheck g true fun u =>
    if (u.group g).passed ((u.waitValue a).setWidth 16) then u.compareSigs (fun u => u.redundancyAbort 0) fun u => (u.acquire .sys).retireAfter sw 4 1
    else u.block .other 0 (u.waitValue a)) rfl

theorem Group.passed_iff (x : Group) (p : BitVec 16) : x.passed p = true ↔ 1 ≤ (x.node - p).toNat ∧ (x.node - p).toNat ≤ 32768 := by
  simp [Group.passed]

/-- A wait whose phase has completed goes on, having acquired what the phase has brought (R265, R266). -/
theorem State.wait_passes (s : State) (rs : List Reg) (sw : Bool) : (∀ e ∈ (((s.issued rs).acquire .sys).retireAfter sw 4 1).early, e.ctx = s.cur → e.newer = []) ∧
    s.passes { (((s.issued rs).acquire .sys).retireAfter sw 4 1) with early := s.early } sw 4 1 := by
  obtain ⟨early, eq, fresh⟩ := (s.issued rs).acquire_sys
  rw [eq]
  exact ⟨fresh, s.issued_retireAfter_passes rs sw 4 1⟩

/-- An uncorrectable mismatch of a redundant pair ends the job (R163). -/
theorem State.redundancyAbort_ends {s : State} (running : s.job.running = true) (detail : BitVec 32) : (s.redundancyAbort detail).job.running = false := by
  have run : ((s.logEntry true 6 0 s.source detail s.core.sig).logEntry true 6 0 s.partnerSource detail s.core.partnerSig).job.running = true := by
    rw [State.logEntry_only, State.logEntry_only s]
    exact running
  unfold State.redundancyAbort State.abortJob
  rw [if_pos run]
  rfl

/-! ## BGSTAT (R267, R280) -/

theorem State.writeFrom_formsFrom (s : State) (r : Reg) (v : Vec) (lat : Nat) : s.formsFrom (s.writeFrom r v lat) r v lat ∧ s.amid (s.writeFrom r v lat) ∧
    (s.writeFrom r v lat).mem = s.mem ∧ (s.writeFrom r v lat).bar = s.bar ∧ (s.writeFrom r v lat).clu = s.clu := by
  unfold State.writeFrom
  by_cases zero : r = .x 0
  · rw [if_pos zero]
    exact ⟨⟨fun _ => rfl, fun _ => rfl, fun ne => absurd zero ne⟩, ⟨rfl, .refl _, rfl⟩, rfl, rfl, rfl⟩
  · rw [if_neg zero]
    obtain ⟨way, -, regs, -⟩ := s.ctx.setTaint_way (.reg r) s.ctx.inTaint
    have ctx := s.ctx_modCtx fun c =>
      { c.setTaint (.reg r) c.inTaint with
        writes := c.writes ++ [{ reg := r, val := v, need := 0, seq := s.seq, due := none, dead := false, late := false, ready := s.cycle + lat }] }
    generalize hm : (s.modCtx fun c =>
      { c.setTaint (.reg r) c.inTaint with
        writes := c.writes ++ [{ reg := r, val := v, need := 0, seq := s.seq, due := none, dead := false, late := false, ready := s.cycle + lat }] }) = m at ctx ⊢
    have rest : m.cycle = s.cycle ∧ m.cur = s.cur ∧ m.mem = s.mem ∧ m.bar = s.bar ∧ m.clu = s.clu := by rw [← hm]; exact ⟨rfl, rfl, rfl, rfl, rfl⟩
    obtain ⟨cycle, cur, mem, bar, clu⟩ := rest
    refine ⟨⟨fun q => ?_, fun e => absurd e zero, fun _ => ?_⟩, ⟨cycle, ?_, cur⟩, mem, bar, clu⟩
    · show m.ctx.reg q = _
      rw [ctx, ← regs q]
      exact Ctx.reg_congr rfl rfl rfl q
    · show m.ctx.writes = _
      rw [ctx]
    · show s.ctx.sameWay m.ctx
      rw [ctx]
      exact ⟨way.pc, way.lc, way.le, way.lead, way.rptst, way.frame⟩

/-- An instruction whose result comes no earlier than `lat` cycles after, and that completes at once. -/
theorem State.formsFrom_retire {s m : State} (amid : s.amid m) (same : s.sameRegs m) (seq : m.seq = s.seq) (r : Reg) (v : Vec) (lat : Nat) (sw : Bool) (size gap : Nat) :
    s.formsFrom ((m.writeFrom r v lat).retireAfter sw size gap) r v lat ∧ s.goesOn ((m.writeFrom r v lat).retireAfter sw size gap) sw size gap ∧
      ((m.writeFrom r v lat).retireAfter sw size gap).mem = m.mem ∧ ((m.writeFrom r v lat).retireAfter sw size gap).bar = m.bar ∧
      ((m.writeFrom r v lat).retireAfter sw size gap).clu = m.clu := by
  obtain ⟨forms, way, mem, bar, clu⟩ := m.writeFrom_formsFrom r v lat
  have kept := State.retireAfter_sameRegs (m.writeFrom r v lat) sw size gap
  refine ⟨⟨fun q => ((kept.1 q).trans (forms.regs q)).trans (same.1 q), fun e => (kept.2.trans (forms.zero e)).trans same.2, fun e => ?_⟩,
    (amid.trans way).goesOn sw size gap, mem, bar, clu⟩
  rw [kept.2, forms.write e, same.2, seq, amid.cycle]

theorem State.bgstat_fields (s : State) (g : BitVec 5) :
    ((s.group g).res = false → s.bar.domain ≠ some g → s.bgstat g = 0) ∧
    ((s.group g).res = true ∨ s.bar.domain = some g → (s.bgstat g).getLsbD 62 = true ∧ (s.bgstat g).getLsbD 63 = decide (s.bar.domain = some g) ∧
      natBits (s.bgstat g).toNat 15 0 = (s.group g).phase.toNat ∧ natBits (s.bgstat g).toNat 35 16 = (s.group g).arrived % 2 ^ 20 ∧
      natBits (s.bgstat g).toNat 55 36 = (s.group g).expected % 2 ^ 20) := by
  have phase := (s.group g).phase.isLt
  have arrived : (s.group g).arrived % 2 ^ 20 < 2 ^ 20 := Nat.mod_lt _ (Nat.two_pow_pos _)
  have expected : (s.group g).expected % 2 ^ 20 < 2 ^ 20 := Nat.mod_lt _ (Nat.two_pow_pos _)
  have flag := Bool.toNat_le (decide (s.bar.domain = some g))
  refine ⟨fun none out => ?_, fun held => ?_⟩
  · unfold State.bgstat
    dsimp only
    rw [if_neg]
    rintro (h | h)
    · rw [none] at h; exact Bool.noConfusion h
    · exact out (of_decide_eq_true h)
  · have word : (s.bgstat g).toNat = (decide (s.bar.domain = some g)).toNat * 2 ^ 63 + 2 ^ 62 + (s.group g).expected % 2 ^ 20 * 2 ^ 36 +
        (s.group g).arrived % 2 ^ 20 * 2 ^ 16 + (s.group g).phase.toNat := by
      unfold State.bgstat
      dsimp only
      rw [if_pos (held.imp_right decide_eq_true), BitVec.toNat_ofNat, bitAt_eq]
      exact Nat.mod_eq_of_lt (by omega)
    refine ⟨getLsbD_eq_of_toNat _ true ?_, getLsbD_eq_of_toNat _ _ ?_, ?_, ?_, ?_⟩
    · rw [word, Bool.toNat_true]; omega
    · rw [word]; omega
    · rw [word, natBits]; omega
    · rw [word, natBits]; omega
    · rw [word, natBits]; omega

/-! ## The root (R263) -/

theorem State.group_setGroup (s : State) (g : BitVec 5) (x : Group) : (s.setGroup g x).group g = x := Vector.getElem_set_self g.isLt

theorem State.group_setGroup_ne (s : State) (x : Group) {g h : BitVec 5} (ne : h ≠ g) : (s.setGroup g x).group h = s.group h :=
  Vector.getElem_set_ne g.isLt h.isLt fun e => ne (BitVec.eq_of_toNat_eq e.symm)

/-- The root's next network cycle is due. -/
theorem State.rootDue_eq (s : State) (g : BitVec 5) : ∃ agenda, s.rootDue g = { s with agenda } ∧ .arrival g 0 0 none ∈ agenda ∧ ∀ e ∈ s.agenda, e ∈ agenda := by
  unfold State.rootDue
  split
  · next due => exact ⟨s.agenda, rfl, due, fun _ h => h⟩
  · exact ⟨_, rfl, List.mem_append_right _ (List.mem_singleton.2 rfl), fun _ h => List.mem_append_left _ h⟩

theorem State.rootDone_eq (s : State) (g : BitVec 5) (old : BitVec 16) : ∃ agenda, s.rootDone g old = { s with agenda } ∧ .completionBroadcast g old ∈ agenda := by
  unfold State.rootDone
  dsimp only
  split
  · obtain ⟨agenda, eq, -, old⟩ := (s.post (.completionBroadcast g old)).rootDue_eq g
    rw [eq]
    exact ⟨agenda, rfl, old _ (List.mem_append_right _ (List.mem_singleton.2 rfl))⟩
  · exact ⟨_, rfl, List.mem_append_right _ (List.mem_singleton.2 rfl)⟩

/-- The writes of the contexts that have been given the phases of their arrivals. -/
def State.reportAll (l : List (Fin 11 × Nat × BitVec 16)) (s : State) : State :=
  l.foldl (fun u p => u.formWrite p.1 p.2.1 (p.2.2.setWidth 512)) s

theorem State.formWrite_kept (s : State) (n : Fin 11) (q : Nat) (v : Vec) : (s.formWrite n q v).mem = s.mem ∧ (s.formWrite n q v).bar = s.bar ∧
    (∀ m r, ((s.formWrite n q v).ctxAt m).reg r = (s.ctxAt m).reg r) ∧ ∀ e ∈ s.agenda, e ∈ (s.formWrite n q v).agenda := by
  refine ⟨State.fill_mem .., ?_, fun m r => State.fill_reg .., ?_⟩
  · unfold State.formWrite
    rw [State.fill_only]
    rfl
  · unfold State.formWrite State.fill
    dsimp only
    split
    · exact fun e h => List.mem_append_left _ h
    · exact fun e h => h

theorem State.reportAll_kept : ∀ (l : List (Fin 11 × Nat × BitVec 16)) (s : State), (s.reportAll l).mem = s.mem ∧ (s.reportAll l).bar = s.bar ∧
    (∀ m r, ((s.reportAll l).ctxAt m).reg r = (s.ctxAt m).reg r) ∧ ∀ e ∈ s.agenda, e ∈ (s.reportAll l).agenda
  | [], _ => ⟨rfl, rfl, fun _ _ => rfl, fun _ h => h⟩
  | p :: l, s => by
    obtain ⟨mem, bar, regs, posted⟩ := s.formWrite_kept p.1 p.2.1 (p.2.2.setWidth 512)
    obtain ⟨mem', bar', regs', posted'⟩ := State.reportAll_kept l (s.formWrite p.1 p.2.1 (p.2.2.setWidth 512))
    exact ⟨mem'.trans mem, bar'.trans bar, fun m r => (regs' m r).trans (regs m r), fun e h => posted' e (posted e h)⟩

/-- A context's outstanding writes, as the phase of an arrival comes in. -/
theorem State.formWrite_writes (s : State) (n : Fin 11) (q : Nat) (v : Vec) : ((s.formWrite n q v).ctxAt n).writes =
    (s.ctxAt n).writes.map fun y => if y.seq = q then { y with val := v, need := y.need - 1 } else y :=
  (State.fill_writes s n q (fun _ => v) false).trans (List.map_congr_left fun y _ => PendingWrite.take_false y q _)

/-- A write of another number stays as it was. -/
theorem State.formWrite_other (s : State) (n k : Fin 11) {p : Nat} (v : Vec) {y : PendingWrite} (mem : y ∈ (s.ctxAt k).writes) (ne : y.seq ≠ p) :
    y ∈ ((s.formWrite n p v).ctxAt k).writes := by
  by_cases same : n = k
  · subst same
    rw [State.formWrite_writes]
    exact List.mem_map.2 ⟨y, mem, if_neg ne⟩
  · have kept : (s.formWrite n p v).ctxAt k = s.ctxAt k := by
      rw [State.formWrite, State.fill_ctxAt, State.ctxAt_modCtxAt_ne _ _ _ _ same]
    rw [kept]
    exact mem

/-- The place of an arrival among those of its network cycle (R263). -/
def Reached.place (r : Reached) : Nat := r.core.toNat * 16 + (match r.report with | some (n, _) => n.val | none => 15)

theorem rootOrder_sum (l : List Reached) : ((rootOrder l).map fun r => r.weight.toNat).sum = (l.map fun r => r.weight.toNat).sum :=
  ((List.perm_insertionSort _ l).map _).sum_eq

theorem Reached.place_lt {r r' : Reached} (h : r.core.toNat < r'.core.toNat) : r.place < r'.place := by
  have : (match r.report with | some (n, _) => n.val | none => 15) < 16 := by
    split
    · next n _ _ => have := n.isLt; omega
    · decide
  unfold Reached.place
  omega

theorem rootOrder_pair {r r' : Reached} (h : r.place < r'.place) : rootOrder [r, r'] = [r, r'] ∧ rootOrder [r', r] = [r, r'] := by
  unfold rootOrder
  dsimp only
  constructor
  · rw [List.insertionSort_cons, List.insertionSort_cons, List.insertionSort_nil, List.orderedInsert_nil]
    exact List.orderedInsert_cons_of_le _ _ (Nat.le_of_lt h)
  · rw [List.insertionSort_cons, List.insertionSort_cons, List.insertionSort_nil, List.orderedInsert_nil]
    exact List.orderedInsert_of_not_le (r := fun a b : Reached => a.place ≤ b.place) [] (Nat.not_le.2 h)

/-- The root's network cycle of a reserved group (R263). -/
theorem exec_arrival_root {s : State} {g : BitVec 5} (res : (s.group g).res = true) (out : s.bar.domain ≠ some g) :
    exec (.arrival g 0 0 none) s = .next (s.rootCycle g) := by
  refine congrArg Host.Outcome.next ?_
  rw [if_neg, if_pos rfl]
  rintro (⟨none, -⟩ | ⟨dom, -⟩)
  · rw [res] at none; exact Bool.noConfusion none
  · exact out dom

theorem exec_arrival_reaches {s : State} {g : BitVec 5} {core : BitVec 12} {w : BitVec 16} (res : (s.group g).res = true) (out : s.bar.domain ≠ some g) (pos : w ≠ 0)
    (r : Option (Fin 11 × Nat)) : exec (.arrival g core w r) s =
      .next ((s.setGroup g { s.group g with reached := (s.group g).reached ++ [{ core, weight := w, report := r }] }).rootDue g) := by
  refine congrArg Host.Outcome.next ?_
  have noted : s.noteArrival g core w = s := if_neg fun h => out h.1
  rw [if_neg, if_neg pos, noted]
  rintro (⟨none, -⟩ | ⟨dom, -⟩)
  · rw [res] at none; exact Bool.noConfusion none
  · exact out dom

theorem exec_expectReachesRoot {s : State} {g : BitVec 5} (n : BitVec 16) (res : (s.group g).res = true) : exec (.expectReachesRoot g n) s =
    .next ((s.setGroup g { s.group g with expects := (s.group g).expects + n.toNat }).rootDue g) := by
  refine congrArg Host.Outcome.next (if_neg fun h => ?_)
  rw [res] at h
  exact Bool.noConfusion h.1

/-- The group after its root's network cycle, and whether a phase completes (R263). -/
def Group.rootStepped (x : Group) : Group × Bool :=
  ({ x with reached := [], expects := 0 } : Group).rootStep (x.reached.map fun r => r.weight.toNat).sum x.expects

theorem State.rootCycle_eq (s : State) (g : BitVec 5) : ∃ agenda,
    s.rootCycle g = ({ s.setGroup g (s.group g).rootStepped.1 with agenda } : State).reportAll ((s.group g).reports (s.group g).arrived (rootOrder (s.group g).reached)) ∧
      ((s.group g).rootStepped.2 = true → .completionBroadcast g (s.group g).phase ∈ agenda) := by
  unfold State.rootCycle
  dsimp only
  rw [rootOrder_sum]
  change ∃ agenda, State.reportAll _ (if (s.group g).rootStepped.2 = true then (s.setGroup g (s.group g).rootStepped.1).rootDone g (s.group g).phase
    else s.setGroup g (s.group g).rootStepped.1) = _ ∧ _
  split
  · obtain ⟨agenda, eq, posted⟩ := (s.setGroup g (s.group g).rootStepped.1).rootDone_eq g (s.group g).phase
    rw [eq]
    exact ⟨agenda, rfl, fun _ => posted⟩
  · next still => exact ⟨s.agenda, rfl, fun h => absurd h still⟩

theorem Group.rootStepped_waits {x : Group} (h : x.arrived + (x.reached.map fun r => r.weight.toNat).sum < x.expected) : x.rootStepped =
    ({ x with reached := [], expects := 0, arrived := x.arrived + (x.reached.map fun r => r.weight.toNat).sum,
              expected := Nat.min (x.expected + x.expects) (2 ^ 20 - 1) }, false) :=
  if_neg (Nat.not_le.2 h)

theorem Group.rootStepped_completes {x : Group} (h : x.expected ≤ x.arrived + (x.reached.map fun r => r.weight.toNat).sum) : x.rootStepped =
    ({ x with reached := [], expects := 0, phase := x.phase + 1, arrived := x.arrived + (x.reached.map fun r => r.weight.toNat).sum - x.expected,
              expected := x.base + x.expects }, true) :=
  if_pos h

/-- Nothing has changed but group `g` and what is due, and no register. -/
def State.atRoot (s t : State) (g : BitVec 5) : Prop :=
  t.mem = s.mem ∧ (∀ m r, (t.ctxAt m).reg r = (s.ctxAt m).reg r) ∧ ∀ h, h ≠ g → t.group h = s.group h

theorem State.group_of_bar {s t : State} (h : t.bar = s.bar) (g : BitVec 5) : t.group g = s.group g := by
  unfold State.group
  rw [h]

/-- An event at the root replaces the group and makes the root's next network cycle due. -/
theorem State.atRoot_setGroup (s : State) (g : BitVec 5) (x : Group) (agenda : List Instr) : s.atRoot { s.setGroup g x with agenda } g :=
  ⟨rfl, fun _ _ => rfl, fun _ ne => State.group_setGroup_ne s x ne⟩

/-- The network cycle of the root of a reserved group (R263). -/
theorem State.rootCycle_clauses (s : State) (g : BitVec 5) (k : Fin 11) (q : Nat) :
    let x := s.group g
    let W := (x.reached.map fun r => r.weight.toNat).sum
    let reports (p : Nat) : Vec := wide ((if p < x.expected then x.phase else x.phase + 1).setWidth 64)
    let t := s.rootCycle g
    s.atRoot t g ∧
      (x.arrived + W < x.expected → t.group g =
        { x with reached := [], expects := 0, arrived := x.arrived + W, expected := Nat.min (x.expected + x.expects) (2 ^ 20 - 1) }) ∧
      (x.expected ≤ x.arrived + W → t.group g =
        { x with reached := [], expects := 0, phase := x.phase + 1, arrived := x.arrived + W - x.expected, expected := x.base + x.expects } ∧
        .completionBroadcast g x.phase ∈ t.agenda) ∧
      (x.reached = [] → t.ctxs = s.ctxs) ∧
      (∀ r, x.reached = [r] → r.report = some (k, q) → (t.ctxAt k).writes = (s.ctxAt k).writes.map fun y =>
        if y.seq = q then { y with val := reports x.arrived, need := y.need - 1 } else y) ∧
      (∀ r r' m p, x.reached = [r, r'] ∨ x.reached = [r', r] → r.core.toNat < r'.core.toNat → r.report = some (m, p) → r'.report = some (k, q) → p ≠ q →
        ∀ y ∈ (s.ctxAt k).writes, y.seq = q → { y with val := reports (x.arrived + r.weight.toNat), need := y.need - 1 } ∈ (t.ctxAt k).writes) := by
  intro x W reports t
  obtain ⟨agenda, eq, posted⟩ := s.rootCycle_eq g
  set v : State := { s.setGroup g x.rootStepped.1 with agenda } with hv
  have run : t = v.reportAll (x.reports x.arrived (rootOrder x.reached)) := eq
  have base : s.atRoot v g := s.atRoot_setGroup g _ agenda
  have own : v.group g = x.rootStepped.1 := State.group_setGroup s g _
  obtain ⟨mem, bar, regs, kept⟩ := v.reportAll_kept (x.reports x.arrived (rootOrder x.reached))
  rw [← run] at mem bar regs kept
  have group (h : BitVec 5) : t.group h = v.group h := State.group_of_bar bar h
  have narrow (b : BitVec 16) : b.setWidth 512 = wide (b.setWidth 64) := (BitVec.setWidth_setWidth (by decide)).symm
  refine ⟨⟨mem.trans base.1, fun m r => (regs m r).trans (base.2.1 m r), fun h ne => (group h).trans (base.2.2 h ne)⟩, fun h => ?_, fun h => ⟨?_, ?_⟩, fun none => ?_,
    fun r one report => ?_, fun r r' m p two lt report report' ne y hy seq => ?_⟩
  · rw [group, own, Group.rootStepped_waits h]
  · rw [group, own, Group.rootStepped_completes h]
  · exact kept _ (posted (by rw [Group.rootStepped_completes h]))
  · rw [run, none]
    rfl
  · have order : x.reports x.arrived (rootOrder x.reached) = [(k, q, if x.arrived < x.expected then x.phase else x.phase + 1)] := by
      rw [one, rootOrder, List.insertionSort_cons, List.insertionSort_nil, List.orderedInsert_nil]
      simp [Group.reports, report]
    rw [run, order]
    refine (State.formWrite_writes v k q _).trans ?_
    rw [narrow]
    rfl
  · have order : x.reports x.arrived (rootOrder x.reached) = [(m, p, if x.arrived < x.expected then x.phase else x.phase + 1),
        (k, q, if x.arrived + r.weight.toNat < x.expected then x.phase else x.phase + 1)] := by
      have sorted := rootOrder_pair (Reached.place_lt lt)
      have ordered : rootOrder x.reached = [r, r'] := two.elim (fun e => by rw [e, sorted.1]) (fun e => by rw [e, sorted.2])
      rw [ordered]
      simp [Group.reports, report, report']
    rw [run, order]
    have first := v.formWrite_other m k (p := p) ((if x.arrived < x.expected then x.phase else x.phase + 1).setWidth 512) (y := y) hy (by rw [seq]; exact ne.symm)
    refine (State.formWrite_writes _ k q _).symm ▸ List.mem_map.2 ⟨y, first, ?_⟩
    rw [if_pos seq, narrow]

/-- What reaches a reserved group's root, its network cycle, and the broadcast of a completion (R263, R265). -/
theorem State.rootClauses (s : State) (g : BitVec 5) :
    let x := s.group g
    let gone (p : BitVec 16) : Prop := 1 ≤ (x.node - p).toNat ∧ (x.node - p).toNat ≤ 32768
    (∀ (core : BitVec 12) (w n : BitVec 16) (k : Fin 11) (q : Nat), x.res = true → s.bar.domain ≠ some g →
        let W := (x.reached.map fun r => r.weight.toNat).sum
        let reports (p : Nat) : Vec := wide ((if p < x.expected then x.phase else x.phase + 1).setWidth 64)
        (w ≠ 0 → ∃ t, exec (.arrival g core w (some (k, q))) s = .next t ∧ s.atRoot t g ∧ t.ctxs = s.ctxs ∧
          t.group g = { x with reached := x.reached ++ [{ core, weight := w, report := some (k, q) }] } ∧ .arrival g 0 0 none ∈ t.agenda) ∧
        (∃ t, exec (.expectReachesRoot g n) s = .next t ∧ s.atRoot t g ∧ t.ctxs = s.ctxs ∧ t.group g = { x with expects := x.expects + n.toNat } ∧
          .arrival g 0 0 none ∈ t.agenda) ∧
        (∃ t, exec (.arrival g 0 0 none) s = .next t ∧ s.atRoot t g ∧
          (x.arrived + W < x.expected → t.group g =
            { x with reached := [], expects := 0, arrived := x.arrived + W, expected := Nat.min (x.expected + x.expects) (2 ^ 20 - 1) }) ∧
          (x.expected ≤ x.arrived + W → t.group g =
            { x with reached := [], expects := 0, phase := x.phase + 1, arrived := x.arrived + W - x.expected, expected := x.base + x.expects } ∧
            .completionBroadcast g x.phase ∈ t.agenda) ∧
          (x.reached = [] → t.ctxs = s.ctxs) ∧
          (∀ r, x.reached = [r] → r.report = some (k, q) → (t.ctxAt k).writes = (s.ctxAt k).writes.map fun y =>
            if y.seq = q then { y with val := reports x.arrived, need := y.need - 1 } else y) ∧
          (∀ r r' m p, x.reached = [r, r'] ∨ x.reached = [r', r] → r.core.toNat < r'.core.toNat → r.report = some (m, p) → r'.report = some (k, q) → p ≠ q →
            ∀ y ∈ (s.ctxAt k).writes, y.seq = q → { y with val := reports (x.arrived + r.weight.toNat), need := y.need - 1 } ∈ (t.ctxAt k).writes)) ∧
        (¬ gone w → ∃ t, exec (.completionBroadcast g w) s = .next t ∧ s.atRoot t g ∧ t.ctxs = s.ctxs ∧ t.group g = { x with node := w + 1 }) ∧
        (gone w → exec (.completionBroadcast g w) s = .next s)) := by
  intro x gone core w n k q res out W reports
  refine ⟨fun pos => ?_, ?_, ⟨s.rootCycle g, exec_arrival_root res out, s.rootCycle_clauses g k q⟩, fun still => ?_, fun past => ?_⟩
  · obtain ⟨agenda, eq, due, -⟩ := (s.setGroup g { x with reached := x.reached ++ [{ core, weight := w, report := some (k, q) }] }).rootDue_eq g
    refine ⟨_, (exec_arrival_reaches res out pos (some (k, q))).trans (congrArg Host.Outcome.next eq), s.atRoot_setGroup g _ agenda, rfl, State.group_setGroup s g _, due⟩
  · obtain ⟨agenda, eq, due, -⟩ := (s.setGroup g { x with expects := x.expects + n.toNat }).rootDue_eq g
    refine ⟨_, (exec_expectReachesRoot n res).trans (congrArg Host.Outcome.next eq), s.atRoot_setGroup g _ agenda, rfl, State.group_setGroup s g _, due⟩
  · have run : exec (.completionBroadcast g w) s = .next (s.setGroup g { x with node := w + 1 }) := by
      refine congrArg Host.Outcome.next ((if_neg fun h => still ((x.passed_iff w).1 h)).trans ?_)
      exact if_neg out
    exact ⟨_, run, s.atRoot_setGroup g _ s.agenda, rfl, State.group_setGroup s g _⟩
  · exact congrArg Host.Outcome.next (if_pos ((x.passed_iff w).2 past))

/-- Settles O37: the checks of a group, then each instruction and the root's cycle by its own rule. -/
theorem barrierGroupsCountPhases : Obligations.BarrierGroupsCountPhases := by
  unfold Obligations.BarrierGroupsCountPhases
  intro s sw d a g c o x open_ gone A count arrives traps ready
  have readyD : s.ready [.x d] := ready.mono (by simp)
  have readyA : s.ready [.x a] := ready.mono (by simp)
  have arv := State.exec_issued (s := s) (j := .arv sw d g c o) (rs := []) (ws := [.x d]) readyD (k := fun u => u.groupCheck g true fun u => (u.arrive d g 1 c o).retireAfter sw 4 1) rfl
  have arvn := State.exec_issued (s := s) (j := .arvn sw d a g c o) (rs := [.x a]) (ws := [.x d]) ready (k := fun u => u.groupCheck g true fun u =>
    if badArrivals (u.readX a) then u.illegal else (u.arrive d g ((u.readX a).setWidth 16) c o).retireAfter sw 4 1) rfl
  have expect := State.exec_issued (s := s) (j := .expect sw a g) (rs := [.x a]) (ws := []) (by simpa using readyA) (k := fun u => u.groupCheck g true fun u =>
    if badArrivals (u.readX a) then u.illegal else (u.post (.expectReachesRoot g ((u.readX a).setWidth 16))).retireAfter sw 4 1) rfl
  have wait := exec_wait sw a g readyA
  have wtest := State.exec_issued (s := s) (j := .wtest sw d a g) (rs := [.x a]) (ws := [.x d]) ready (k := fun u => u.groupCheck g false fun u =>
    (u.writeX d (boolWord ((u.group g).passed ((u.readX a).setWidth 16))) 2).retire sw 4) rfl
  have phase := State.exec_issued (s := s) (j := .phase sw d g) (rs := []) (ws := [.x d]) readyD (k := fun u => u.groupCheck g false fun u =>
    (u.writeX d ((u.group g).node.setWidth 64) 2).retire sw 4) rfl
  have opens {rs : List Reg} {m : Bool} (h : open_) (part : x.member = true) (k : State → State) : (s.issued rs).groupCheck g m k = k (s.issued rs) :=
    State.groupCheck_open (s := s.issued rs) h.1 h.2.1 h.2.2 (fun _ => part) k
  have opens' {rs : List Reg} (h : open_) (k : State → State) : (s.issued rs).groupCheck g false k = k (s.issued rs) :=
    State.groupCheck_open (s := s.issued rs) h.1 h.2.1 h.2.2 (fun h => Bool.noConfusion h) k
  have read : (s.issued [.x a]).readX a = A := State.readX_issued ..
  have value : (s.issued [.x a]).waitValue a = A := State.waitValue_issued s ready.1 _ a
  have node (rs : List Reg) : (s.issued rs).group g = x := rfl
  have passed : x.passed (A.setWidth 16) = true ↔ gone (A.setWidth 16) := x.passed_iff _
  have trap {j : Instr} {cause : BitVec 8} {detail : BitVec 32} (h : s.trapsIn j cause detail 0) : traps j cause detail := fun trappable => by
    obtain ⟨t, run, only, entered⟩ := h trappable
    exact ⟨t, run, only.bar, only.accs, entered⟩
  have refuses {j : Instr} {p : Prop} (h : (x.res = false → s.bar.domain ≠ some g → s.trapsIn j 0x08 5 0) ∧ (s.bar.domain = some g → s.trapsIn j 0x02 0 0) ∧
      (x.res = true → s.bar.domain ≠ some g → x.member = true → s.job.superstep = true → s.trapsIn j 0x07 0 0) ∧ p) :
      (x.res = false → s.bar.domain ≠ some g → traps j 0x08 5) ∧ (s.bar.domain = some g → traps j 0x02 0) ∧
        (x.res = true → s.bar.domain ≠ some g → x.member = true → s.job.superstep = true → traps j 0x07 0) := by
    obtain ⟨unreserved, domain, mode, -⟩ := h
    exact ⟨fun res out => trap (unreserved res out), fun dom => trap (domain dom), fun res out part step => trap (mode res out part step)⟩
  have bad {v : Word} (h : ¬ (1 ≤ v.toNat ∧ v.toNat ≤ 65535)) : badArrivals v = true := (badArrivals_iff v).2 h
  have good {v : Word} (h : 1 ≤ v.toNat ∧ v.toNat ≤ 65535) : ¬ badArrivals v = true := fun e => (badArrivals_iff v).1 e h
  refine ⟨fun h part => ?_, fun h part number => ?_, fun h part number => ?_, fun h part still => ?_, fun h part over_ => ⟨fun single => ?_, fun pair same => ?_,
    fun pair differ running => ?_⟩, fun h => ?_, fun h => ?_, ?_, fun j which => ?_, fun j which held out absent => ?_, fun j which h part number => ?_, ?_⟩
  · rw [opens h part] at arv
    exact State.arrive_retires sw d g 1 c o arv
  · rw [opens h part, read, if_neg (good number)] at arvn
    exact State.arrive_retires sw d g _ c o arvn
  · rw [opens h part, read, if_neg (good number)] at expect
    have issued := s.issued_amid [.x a]
    have amid : s.amid ((s.issued [.x a]).post (.expectReachesRoot g (A.setWidth 16))) := ⟨issued.cycle, issued.way, issued.cur⟩
    have same : s.sameRegs ((s.issued [.x a]).post (.expectReachesRoot g (A.setWidth 16))) := s.issued_sameRegs [.x a]
    exact ⟨_, expect, rfl, rfl, rfl, same.trans (State.retireAfter_sameRegs ..), amid.goesOn sw 4 1⟩
  · rw [opens h part, value, node, if_neg fun e => still (passed.1 e)] at wait
    exact ⟨_, wait, s.issued_block_waits ready.1 ..⟩
  · rw [opens h part, value, node, if_pos (passed.2 over_), State.compareSigs, if_neg (by rw [show (s.issued [.x a]).job.redun = false from single]; exact Bool.false_ne_true)] at wait
    exact ⟨_, wait, s.wait_passes [.x a] sw⟩
  · rw [opens h part, value, node, if_pos (passed.2 over_), State.compareSigs, if_pos (show (s.issued [.x a]).job.redun = true from pair),
      if_pos (show (s.issued [.x a]).core.sig = (s.issued [.x a]).core.partnerSig from same)] at wait
    obtain ⟨early, eq, -⟩ := ((s.issued [.x a]).modCore fun c => { c with sig := 0, partnerSig := 0 }).acquire_sys
    rw [eq] at wait
    have issued := s.issued_amid [.x a]
    have amid : s.amid { ((s.issued [.x a]).modCore fun c => { c with sig := 0, partnerSig := 0 }) with early } := ⟨issued.cycle, issued.way, issued.cur⟩
    have kept : s.sameRegs { ((s.issued [.x a]).modCore fun c => { c with sig := 0, partnerSig := 0 }) with early } := s.issued_sameRegs [.x a]
    exact ⟨_, wait, kept.trans (State.retireAfter_sameRegs ..), amid.goesOn sw 4 1, rfl, rfl, rfl⟩
  · rw [opens h part, value, node, if_pos (passed.2 over_), State.compareSigs, if_pos (show (s.issued [.x a]).job.redun = true from pair),
      if_neg (show ¬ (s.issued [.x a]).core.sig = (s.issued [.x a]).core.partnerSig from differ)] at wait
    exact ⟨_, wait, State.redundancyAbort_ends (s := s.issued [.x a]) running 0⟩
  · rw [opens' h, read, node] at wtest
    refine ⟨x.passed (A.setWidth 16), passed, fun _ => ⟨_, wtest, ?_⟩⟩
    exact State.write_retire_computes s (fun c => c.taintOf [.reg (.x a)]) sw 4 (.x d) _ 2 (Reg.fits_wide _ _)
  · rw [opens' h, node] at phase
    exact fun _ => ⟨_, phase, State.write_retire_computes s (fun c => c.taintOf []) sw 4 (.x d) _ 2 (Reg.fits_wide _ _)⟩
  · obtain ⟨forms, goes, mem, bar, -⟩ := State.formsFrom_retire (s.issued_amid []) (s.issued_sameRegs []) rfl (.x d) (wide (s.bgstat g)) 16 sw 4 1
    have run := State.exec_issued (s := s) (j := .bgstat sw d g) (rs := []) (ws := [.x d]) readyD (k := fun u => (u.writeFrom (.x d) ((u.bgstat g).setWidth 512) 16).retire sw 4) rfl
    exact ⟨_, s.bgstat g, run, forms, goes, mem, bar, s.bgstat_fields g⟩
  · rcases which with rfl | rfl | rfl | rfl | rfl | rfl
    · exact refuses (State.groupCheck_traps arv)
    · exact refuses (State.groupCheck_traps arvn)
    · exact refuses (State.groupCheck_traps expect)
    · exact refuses (State.groupCheck_traps wait)
    · exact refuses (State.groupCheck_traps wtest)
    · exact refuses (State.groupCheck_traps phase)
  · rcases which with rfl | rfl | rfl | rfl
    · exact trap ((State.groupCheck_traps arv).2.2.2 rfl held out absent)
    · exact trap ((State.groupCheck_traps arvn).2.2.2 rfl held out absent)
    · exact trap ((State.groupCheck_traps expect).2.2.2 rfl held out absent)
    · exact trap ((State.groupCheck_traps wait).2.2.2 rfl held out absent)
  · rcases which with rfl | rfl
    · rw [opens h part, read, if_pos (bad number)] at arvn
      exact trap (State.trapHere_trapsIn arvn)
    · rw [opens h part, read, if_pos (bad number)] at expect
      exact trap (State.trapHere_trapsIn expect)
  · exact s.rootClauses g

end Sys2Proof.Machine
end

section
/-! PROOF. O38: a stop that takes effect as SYNC completes (R151, R269, R418). -/

namespace Sys2Proof.Machine

open Sys2Proof

/-- Context 0 of a claimed superstep job, whose stop has been asked for, waits at the SYNC that closes an exchange phase, which has passed; a pause that it made before has not been
ended, and the exchange counter is 0 in cycle 100. -/
def State.pausedAtSync : State :=
  { State.reset with
    ctxs := State.reset.ctxs.set 0 { Ctx.reset with
      live := true, paused := true,
      wait := some { kind := .other, q := 0, addr := 0, since := 0, delivered := none, x := Vector.replicate 32 0, v := Vector.replicate 32 0, p := Vector.replicate 8 0, instr := none, ready := 0 } }
    job := { Job.none with running := true, superstep := true }
    bar := { Barriers.reset with domain := some 0, synced := some 0, xcBase := 100, groups := Barriers.reset.groups.set 0 { Group.unreserved with res := true, member := true, node := 1 } }
    dev := { Device.reset with dbgClaimed := true, dbgStopReq := true } }

/-- The stop drops what remains of the pause: the context may issue in the next cycle, before the exchange counter is 0. -/
theorem exec_sync_pausedAtSync :
    (match exec (.sync false 0) State.pausedAtSync with
      | .next t => decide (t.ctx.nextIssue = 1)
      | _ => false) = true := by decide

/-- Refutes O38: SYNC's clause has the next instruction issue when the exchange counter is 0, and names no pause; where the claimed job's stop takes effect with that SYNC, `State.stopJob` drops what
remains of a pause of the context, which may then issue in the next cycle. -/
theorem not_superstepsFencesAndProbes : ¬ Obligations.SuperstepsFencesAndProbes := by
  unfold Obligations.SuperstepsFencesAndProbes
  intro h
  obtain ⟨-, -, -, passes, -⟩ := h State.pausedAtSync false 0 0 0 .core false
  obtain ⟨t, run, -, -, -, -, next, -⟩ := passes 0 rfl ⟨rfl, rfl, rfl, by decide⟩ rfl (by decide) (.inl rfl)
  have early := exec_sync_pausedAtSync
  rw [run] at early
  have := (of_decide_eq_true early).symm.trans next
  exact absurd this (by decide)

end Sys2Proof.Machine
end

section
/-! PROOF. O46: PHFREE behind another core's vector form (R306, R367, R376). -/

namespace Sys2Proof.Machine

open Sys2Proof

/-- Core 0 has one table, on which a vector form of core 1 is under way; context 0 has read a byte early that the unit of number 5 has written since. -/
def State.tableInUse : State :=
  { State.reset with
    core := { Core.reset with
      tables := [{ base := 0, b := 5, c := 0, spill := 0 }],
      unit := [{ core := 1, jobid := 0, op := .phdel 0 0 [], since := 0, done := [], got := [], started := true }] }
    early := [{ ctx := 0, key := 0, bytes := [0], newer := [[5]], passed := [] }] }

/-- PHFREE waits, and what context 0 has read early is given up: its turn at the unit is an acquire. -/
theorem exec_phfree_tableInUse :
    (match exec (.phfree false 0) State.tableInUse with
      | .next t => decide (t.early = [])
      | _ => false) = true := by decide

/-- Refutes O46: PHFREE comes to its turn before it finds the table in use, and so has acquired what other agents have written (R376) when it waits. In `State.tableInUse` what the context has read
early is given up then, and a wait that changes nothing but the context is not what happens. -/
theorem not_pigeonholesKeepOneValueForAKey : ¬ Obligations.PigeonholesKeepOneValueForAKey := by
  unfold Obligations.PigeonholesKeepOneValueForAKey
  intro h
  have table : State.tableInUse.core.tables.find? (fun t => decide (t.base = (State.tableInUse.readX 0).toNat)) = some { base := 0, b := 5, c := 0, spill := 0 } := by decide
  obtain ⟨-, -, -, -, -, -, inUse, -⟩ := h State.tableInUse State.tableInUse false 0 0 0 .orZ64 { base := 0, b := 5, c := 0, spill := 0 } { cause := 0, detail := 0, addr := 0 } [] 0
  obtain ⟨t, run, waits⟩ := inUse ⟨rfl, rfl⟩ ⟨table, by decide⟩ ⟨rfl, rfl, rfl⟩ (by decide) ⟨_, List.mem_singleton.2 rfl, rfl, rfl⟩
  have early := exec_phfree_tableInUse
  rw [run] at early
  have kept : t.early = State.tableInUse.early := congrArg (·.early) waits.only
  exact absurd ((of_decide_eq_true early).symm.trans kept) (by decide)

end Sys2Proof.Machine
end

section
/-! PROOF. O53: a word of the scratchpad written by the debug engine (R309, R423). -/

namespace Sys2Proof.Machine

open Sys2Proof

/-- The job of JOBID 1 holds core 0, is claimed and is stopped; DBGSEL names the first word of the core's scratchpad, of which context 0 has read a byte early. -/
def State.debugged : State :=
  { State.reset with
    job := { Job.none with running := true, jobid := 1, cores := [0] }
    dev := { Device.reset with dbgClaimed := true, dbgStopped := true, dbgJob := 1, dbgsel := 0x50000 }
    early := [{ ctx := 0, key := scratchKey 0 0, bytes := [0], newer := [], passed := [] }]
    inbox := [{ addr := 0, value := 0, data := [], write := true, n := 0, op := .add, ty := .z64, compare := none, bar0 := true }] }

/-- The write is noted in what has been read early. -/
theorem exec_dbgdataWrite_debugged :
    (match exec .dbgdataWrite State.debugged with
      | .next t => decide (t.early ≠ State.debugged.early)
      | _ => false) = true := by decide

/-- Refutes O53: a word that DBGDATA writes to the scratchpad is newer than the byte of it that context 0 of `State.debugged` has read early, which the model notes (R309): more than memory and the
inbox changes. -/
theorem not_theDebugEngineClaimsStopsAndReads : ¬ Obligations.TheDebugEngineClaimsStopsAndReads := by
  unfold Obligations.TheDebugEngineClaimsStopsAndReads
  intro h
  obtain ⟨-, -, -, -, -, -, -, -, -, -, -, -, -, scratch, -⟩ := h State.debugged
  obtain ⟨-, writes⟩ := scratch ⟨rfl, ⟨rfl, rfl, rfl⟩, by decide⟩ (by decide) (by decide) (by decide)
  obtain ⟨t, run, only, -⟩ := writes _ [] rfl (by decide) rfl
  have noted := exec_dbgdataWrite_debugged
  rw [run] at noted
  exact of_decide_eq_true noted (congrArg (·.early) only)

end Sys2Proof.Machine
end

section
/-! SUPPORT. The bellboard (R272 to R276). -/

namespace Sys2Proof.Machine

theorem Ctx.unholdInv_sameWay (c : Ctx) : c.sameWay c.unholdInv := ⟨rfl, rfl, rfl, rfl, rfl, rfl⟩

/-- An instruction that completes in a state in which what was held has been tried again. -/
theorem State.completesWoken {s m : State} {rs : List Reg} (ctx : m.ctx = (s.issued rs).ctx.unholdInv) (cycle : m.cycle = s.cycle) (sw : Bool) (size gap : Nat) :
    s.sameRegs (m.retireAfter sw size gap) ∧ s.goesOn (m.retireAfter sw size gap) sw size gap :=
  have woken : (s.issued rs).sameRegs m := ⟨fun r => by rw [ctx]; exact Ctx.unholdInv_reg _ r, by rw [ctx]; rfl⟩
  ⟨((s.issued_sameRegs rs).trans woken).trans (m.retireAfter_sameRegs sw size gap),
    (m.retireAfter_goesOn sw size gap).of_sameWay cycle (ctx ▸ (s.issued_sameWay rs).trans (Ctx.unholdInv_sameWay _))⟩

/-! ## Pulses -/

/-- A counter counts the pulses of a source in this network cycle (R274, R275). -/
abbrev BellCounter.hears (k : BellCounter) (src : BitVec 8) : Prop := k.was.getD k.src = src ∧ k.cleared = false

theorem State.pulseFrom_counter (s : State) (src : BitVec 8) (m : Fin 16) :
    ((s.clu.counters.get m).hears src → (s.pulseFrom src).clu.counters.get m = { s.clu.counters.get m with pulses := (s.clu.counters.get m).pulses + 1 }) ∧
      (¬ (s.clu.counters.get m).hears src → (s.pulseFrom src).clu.counters.get m = s.clu.counters.get m) := by
  have get := mapVec_get (fun k : BellCounter => if k.was.getD k.src = src ∧ k.cleared = false then { k with pulses := k.pulses + 1 } else k) s.clu.counters m
  exact ⟨fun h => get.trans (if_pos h), fun h => get.trans (if_neg h)⟩

/-- A pulse that waits has the board's next network cycle written (log 36). -/
theorem State.tick_pulse {t : State} {m : Fin 16} (waits : 0 < (t.clu.counters.get m).pulses) (odd : t.cycle % 2 = 1) : .pulse 255 ∈ t.tick.agenda := by
  have moves : t.boardMoves = true := by
    have counter : (t.clu.counters.toList.any fun k => decide (0 < k.pulses) || k.cleared || k.was.isSome) = true :=
      List.any_eq_true.2 ⟨t.clu.counters.get m, Vector.mem_toList_iff.2 (Vector.getElem_mem m.isLt), by rw [decide_eq_true waits, Bool.true_or, Bool.true_or]⟩
    unfold State.boardMoves
    rw [counter, Bool.true_or, Bool.true_or, Bool.true_or]
  have due : .pulse 255 ∈ t.due := by
    unfold State.due
    rw [if_pos ⟨odd, moves⟩]
    simp [noPulse]
  exact List.mem_append_right _ due

/-! ## The terms -/

theorem State.modTerm_self (s : State) (i : Fin 16) (f : BellTerm → BellTerm) : (s.modTerm i f).clu.terms.get i = f (s.clu.terms.get i) := get_set_self s.clu.terms i _ i.isLt

theorem State.modTerm_ne (s : State) {i m : Fin 16} (f : BellTerm → BellTerm) (ne : m ≠ i) : (s.modTerm i f).clu.terms.get m = s.clu.terms.get m :=
  get_set_ne _ _ _ _ ne.symm

theorem BellTerm.holds_unarmed {t : BellTerm} (h : t.armed = false) (ks : Vector BellCounter 16) : t.holds ks = false := by
  rw [BellTerm.holds, h, Bool.false_and, Bool.false_and]

theorem State.testTerms_append : ∀ (l k : List (Fin 16)) (s : State), State.testTerms (l ++ k) s = State.testTerms k (State.testTerms l s)
  | [], _, _ => rfl
  | i :: l, k, s => by
    rw [List.cons_append, State.testTerms, State.testTerms]
    dsimp only
    split <;> exact State.testTerms_append l k _

/-- Terms of which none holds. -/
theorem State.testTerms_still : ∀ (l : List (Fin 16)) (s : State), (∀ m ∈ l, (s.clu.terms.get m).holds s.clu.counters = false) → State.testTerms l s = s
  | [], _, _ => rfl
  | i :: l, s, h => by
    rw [State.testTerms]
    dsimp only
    rw [if_neg (by rw [h i List.mem_cons_self]; exact Bool.false_ne_true)]
    exact State.testTerms_still l s fun m hm => h m (List.mem_cons_of_mem _ hm)

theorem State.testTerms_unarmed (l : List (Fin 16)) (s : State) (h : ∀ m ∈ l, (s.clu.terms.get m).armed = false) : State.testTerms l s = s :=
  State.testTerms_still l s fun m hm => BellTerm.holds_unarmed (h m hm) _

/-- A term fires (R274). -/
def State.fires (s : State) (i : Fin 16) : State :=
  let t := s.clu.terms.get i
  let u := ({ s with clu := { s.clu with counters := t.consume s.clu.counters } }).count 15
  let v := { u with clu := { u.clu with boardActs := u.clu.boardActs ++ [(u.cycle + 2, i, t)] } }
  if t.cfg.getLsbD 51 then v else (v.modTerm i fun t => { t with armed := false }).wake

theorem State.fires_clu (s : State) (i : Fin 16) (armed : (s.clu.terms.get i).armed = true) :
    (s.fires i).clu.counters = (s.clu.terms.get i).consume s.clu.counters ∧ ((s.fires i).clu.terms.get i).armed = (s.clu.terms.get i).cfg.getLsbD 51 ∧
      (∀ m, m ≠ i → (s.fires i).clu.terms.get m = s.clu.terms.get m) ∧ (s.fires i).clu.boardActs = s.clu.boardActs ++ [(s.cycle + 2, i, s.clu.terms.get i)] := by
  have counted := ({ s with clu := { s.clu with counters := (s.clu.terms.get i).consume s.clu.counters } } : State).count_only 15
  unfold State.fires
  dsimp only
  generalize ({ s with clu := { s.clu with counters := (s.clu.terms.get i).consume s.clu.counters } } : State).count 15 = u at counted ⊢
  have clu : u.clu = { s.clu with counters := (s.clu.terms.get i).consume s.clu.counters } := congrArg (·.clu) counted
  have cycle : u.cycle = s.cycle := congrArg (·.cycle) counted
  rw [clu, cycle]
  split
  · next again =>
    refine ⟨rfl, ?_, fun _ _ => rfl, rfl⟩
    show (s.clu.terms.get i).armed = _
    rw [armed, again]
  · next once =>
    refine ⟨rfl, ?_, fun m ne => get_set_ne s.clu.terms i m _ ne.symm, rfl⟩
    refine (congrArg BellTerm.armed (get_set_self s.clu.terms i _ i.isLt)).trans ?_
    rw [Bool.eq_false_iff.2 once]

theorem State.fires_kept (s : State) (i : Fin 16) : (s.fires i).mem = s.mem ∧ ∀ m r, ((s.fires i).ctxAt m).reg r = (s.ctxAt m).reg r := by
  have counted := ({ s with clu := { s.clu with counters := (s.clu.terms.get i).consume s.clu.counters } } : State).count_only 15
  unfold State.fires
  dsimp only
  generalize ({ s with clu := { s.clu with counters := (s.clu.terms.get i).consume s.clu.counters } } : State).count 15 = u at counted ⊢
  have mem : u.mem = s.mem := congrArg (·.mem) counted
  have ctxs : u.ctxs = s.ctxs := congrArg (·.ctxs) counted
  have at_ (m : Fin 11) : u.ctxAt m = s.ctxAt m := congrArg (·.get m) ctxs
  split
  · exact ⟨mem, fun m r => congrArg (Ctx.reg · r) (at_ m)⟩
  · refine ⟨mem, fun m r => ?_⟩
    rw [State.wake_ctxAt, Ctx.unholdInv_reg]
    exact congrArg (Ctx.reg · r) (at_ m)

/-- One armed term, which holds. -/
theorem State.testTerms_fires {s : State} {i : Fin 16} (others : ∀ m, m ≠ i → (s.clu.terms.get m).armed = false)
    (holds : (s.clu.terms.get i).holds s.clu.counters = true) : State.testTerms (List.finRange 16) s = s.fires i := by
  obtain ⟨before, after, split⟩ := List.append_of_mem (List.mem_finRange i)
  have once : (before ++ i :: after).Nodup := split ▸ List.nodup_finRange 16
  have first : ∀ m ∈ before, m ≠ i := fun m hm e => (List.nodup_append.1 once).2.2 m hm i List.mem_cons_self e
  have last : ∀ m ∈ after, m ≠ i := fun m hm e => (List.nodup_cons.1 (List.nodup_append.1 once).2.1).1 (e ▸ hm)
  have armed : (s.clu.terms.get i).armed = true := by
    rw [BellTerm.holds, Bool.and_eq_true, Bool.and_eq_true] at holds
    exact holds.1.1
  rw [split, State.testTerms_append, State.testTerms_unarmed before s fun m hm => others m (first m hm), State.testTerms]
  dsimp only
  rw [if_pos holds]
  refine State.testTerms_unarmed after (s.fires i) fun m hm => ?_
  rw [(s.fires_clu i armed).2.2.1 m (last m hm)]
  exact others m (last m hm)

theorem BellTerm.consume_get (t : BellTerm) (ks : Vector BellCounter 16) (m : Fin 16) : (t.consume ks).get m =
    if (t.cfg.getLsbD m.val || t.cfg.getLsbD (16 + m.val)) = true ∧ (ks.get m).thresh.toNat ≤ (ks.get m).count then
      { ks.get m with count := (ks.get m).count - (ks.get m).thresh.toNat } else ks.get m := by
  have get : (t.consume ks).get m = if (t.cfg.getLsbD m.val || t.cfg.getLsbD (16 + m.val)) && (ks.get m).ok then
      { ks.get m with count := (ks.get m).count - (ks.get m).thresh.toNat } else ks.get m := by
    simp [BellTerm.consume, get_eq_getElem]
  rw [get]
  refine ite_congr ?_ (fun _ => rfl) fun _ => rfl
  simp [BellCounter.ok]

/-! ## The board's network cycle -/

theorem State.boardDue_none {s : State} (h : ∀ x ∈ s.clu.boardActs, s.cycle < x.1) : s.boardDue = s := by
  have due : (s.clu.boardActs.filter fun x => decide (x.1 ≤ s.cycle)) = [] :=
    List.filter_eq_nil_iff.2 fun x hx e => absurd (of_decide_eq_true e) (Nat.not_le.2 (h x hx))
  have rest : (s.clu.boardActs.filter fun x => decide (s.cycle < x.1)) = s.clu.boardActs := List.filter_eq_self.2 fun x hx => decide_eq_true (h x hx)
  unfold State.boardDue
  rw [due, rest]
  rfl

theorem State.boardDue_one {s : State} {k : Nat} {i : Fin 16} {t : BellTerm} (acts : s.clu.boardActs = [(k, i, t)]) (due : k ≤ s.cycle) :
    s.boardDue = { s with clu := { s.clu with boardActs := [] } }.termAct i t := by
  have late : ¬ s.cycle < k := Nat.not_lt.2 due
  unfold State.boardDue
  simp [acts, due, late]

theorem State.boardPeers_none {s : State} (h : s.clu.boardOps = []) : s.boardPeers = s := by
  unfold State.boardPeers
  rw [h]
  show { s with clu := { s.clu with boardOps := [] } } = s
  rw [← h]

theorem State.boardPeers_one {s : State} {p : Nat} {op : BoardOp} (h : s.clu.boardOps = [(p, op)]) :
    s.boardPeers = { s with clu := { s.clu with boardOps := [] } }.boardOp op := by
  unfold State.boardPeers
  rw [h]
  rfl

/-- The counters with the pulses of the network cycle added (R274). -/
def State.counted (s : State) : State := { s with clu := { s.clu with counters := mapVec BellCounter.add s.clu.counters } }

theorem exec_boardCycle (s : State) : exec (.pulse 255) s = .next (State.testTerms (List.finRange 16) s.boardDue.boardPeers.counted) :=
  congrArg (fun u : State => (.next u : Outcome)) (if_pos (c := (255 : BitVec 8) = noPulse) (t := s.boardCycle) (e := s.pulseFrom 255) rfl)

theorem counters_add (ks : Vector BellCounter 16) : mapVec BellCounter.add ks = Vector.ofFn fun m : Fin 16 => let k := ks.get m
    ({ k with count := Nat.min (k.count + k.pulses) 65535, ovf := k.ovf || decide (65535 < k.count + k.pulses), pulses := 0, cleared := false, was := none } : BellCounter) := by
  apply Vector.ext
  intro i hi
  have left := mapVec_get BellCounter.add ks ⟨i, hi⟩
  rw [get_eq_getElem] at left
  rw [show (mapVec BellCounter.add ks)[i] = _ from left, Vector.getElem_ofFn]
  rfl

/-! ## What a term does (R274) -/

/-- A helper starts (R133, R274). -/
theorem State.startHelper_starts (s : State) (h : Fin 11) (target x1 : Word) : (s.startHelper h.val target x1).mem = s.mem ∧ (s.startHelper h.val target x1).clu = s.clu ∧
    ((s.startHelper h.val target x1).ctxAt h).live = true ∧ ((s.startHelper h.val target x1).ctxAt h).pc = target ∧
      ((s.startHelper h.val target x1).ctxAt h).reg (.x 1) = wide x1 ∧ ∀ m, m ≠ h → (s.startHelper h.val target x1).ctxAt m = s.ctxAt m := by
  have run : s.startHelper h.val target x1 = (s.modCtxAt h fun c =>
      { startedCtx target x1 s.job.chk (s.cycle + 4) with tookFree := c.tookFree, takeOrder := c.takeOrder, replay := c.replay }).forgetEarly h := dif_pos h.isLt
  have kept (u : State) (m : Fin 11) : (u.forgetEarly h).ctxAt m = u.ctxAt m := rfl
  have started : (s.startHelper h.val target x1).ctxAt h =
      { startedCtx target x1 s.job.chk (s.cycle + 4) with tookFree := (s.ctxAt h).tookFree, takeOrder := (s.ctxAt h).takeOrder, replay := (s.ctxAt h).replay } := by
    rw [run, kept]
    exact s.ctxAt_modCtxAt h _
  refine ⟨by rw [run]; rfl, by rw [run]; rfl, by rw [started]; rfl, by rw [started]; rfl, ?_, fun m ne => ?_⟩
  · rw [started]
    exact (Ctx.reg_congr rfl rfl rfl _).trans ((startedCtx_reg target x1 s.job.chk (s.cycle + 4) (.x 1)).trans (if_pos rfl))
  · rw [run, kept]
    exact s.ctxAt_modCtxAt_ne m h _ ne.symm

theorem State.helperLive_eq (s : State) (h : Fin 11) : s.helperLive h.val = (s.ctxAt h).live := dif_pos h.isLt

/-- The registers of every context, memory, and the board but for one term stay. -/
structure State.termOnly (s t : State) (i : Fin 16) : Prop where
  mem : t.mem = s.mem
  counters : t.clu.counters = s.clu.counters
  boardOps : t.clu.boardOps = s.clu.boardOps
  boardActs : t.clu.boardActs = s.clu.boardActs
  others : ∀ m, m ≠ i → t.clu.terms.get m = s.clu.terms.get m
  armed : (t.clu.terms.get i).armed = (s.clu.terms.get i).armed

theorem State.termOnly.of_clu {s t : State} (i : Fin 16) (mem : t.mem = s.mem) (clu : t.clu = s.clu) : s.termOnly t i :=
  ⟨mem, by rw [clu], by rw [clu], by rw [clu], fun m _ => by rw [clu], by rw [clu]⟩

theorem State.modTerm_only (s : State) (i : Fin 16) {f : BellTerm → BellTerm} (h : (f (s.clu.terms.get i)).armed = (s.clu.terms.get i).armed) : s.termOnly (s.modTerm i f) i :=
  ⟨rfl, rfl, rfl, rfl, fun _ ne => s.modTerm_ne f ne, by rw [State.modTerm_self, h]⟩

theorem State.termOnly.wake {s t : State} {i : Fin 16} (h : s.termOnly t i) : s.termOnly t.wake i := ⟨h.mem, h.counters, h.boardOps, h.boardActs, h.others, h.armed⟩

theorem State.termOnly.post {s t : State} {i : Fin 16} (h : s.termOnly t i) (e : Instr) : s.termOnly (t.post e) i :=
  ⟨h.mem, h.counters, h.boardOps, h.boardActs, h.others, h.armed⟩

/-- What the action of a term does, by its kind. -/
theorem State.termAct_does (s : State) (i : Fin 16) (t : BellTerm) : let A := natBits t.cfg.toNat 33 32
    s.termOnly (s.termAct i t) i ∧ (A ≠ 2 → ∀ m r, ((s.termAct i t).ctxAt m).reg r = (s.ctxAt m).reg r) ∧
      (A = 1 → ((s.termAct i t).clu.terms.get i).cred = Nat.min ((s.clu.terms.get i).cred + 1) 255) ∧
      (A = 2 → natBits t.cfg.toNat 39 35 = s.position → ∀ h : Fin 11, h.val = natBits t.cfg.toNat 45 42 →
        ((s.ctxAt h).live = true → s.termAct i t = s.modTerm i fun t => { t with pend := true }) ∧
        ((s.ctxAt h).live = false → s.termAct i t = s.startHelper h.val t.start (BitVec.ofNat 64 i.val))) ∧
      (A = 3 → .arrival (BitVec.ofNat 5 (natBits t.cfg.toNat 50 46)) (s.clusterCore 0) 1 none ∈ (s.termAct i t).agenda) := by
  intro A
  have kind : termAction t.cfg.toNat = A := rfl
  unfold State.termAct
  dsimp only
  rw [kind]
  clear_value A
  split
  · refine ⟨(s.modTerm_only i (by rfl)).wake, fun _ m r => ?_, fun _ => ?_, fun e => absurd e (by decide), fun e => absurd e (by decide)⟩
    · rw [State.wake_ctxAt, Ctx.unholdInv_reg]
      rfl
    · exact congrArg BellTerm.cred (s.modTerm_self i fun t => { t with cred := Nat.min (t.cred + 1) 255 })
  · refine ⟨?_, fun ne => absurd rfl ne, fun e => absurd e (by decide), fun _ here h number => ?_, fun e => absurd e (by decide)⟩
    · unfold State.termHelper State.termElsewhere State.startHelper
      dsimp only
      split
      · split
        · exact s.modTerm_only i rfl
        · split <;> exact .of_clu i rfl rfl
      · split
        · exact (s.modTerm_only i rfl).post _
        · exact .of_clu i rfl rfl
    · rw [if_pos (decide_eq_true here), State.termHelper, ← number, State.helperLive_eq]
      exact ⟨fun live => if_pos live, fun free => if_neg (by rw [free]; exact Bool.false_ne_true)⟩
  · refine ⟨.of_clu i rfl rfl, fun _ _ _ => rfl, fun e => absurd e (by decide), fun e => absurd e (by decide), fun _ => ?_⟩
    exact List.mem_append_right _ (List.mem_singleton.2 rfl)
  · next one two three => exact ⟨.of_clu i rfl rfl, fun _ _ _ => rfl, fun e => absurd e one, fun e => absurd e two, fun e => absurd e three⟩

end Sys2Proof.Machine
end

section
/-! PROOF. O39: the bellboard (R272 to R276). -/

namespace Sys2Proof.Machine

open Sys2Proof

theorem State.ownsBoard_iff (s : State) : s.ownsBoard = true ↔ ∀ p < 32, s.clusterCore p ∈ s.job.cores := by
  simp [State.ownsBoard, List.all_eq_true]

/-- What BBRD reads of a counter (R276). -/
theorem counterWord_fields (k : BellCounter) : (counterWord k).getLsbD 63 = k.ovf ∧ natBits (counterWord k).toNat 39 32 = k.src.toNat ∧
    natBits (counterWord k).toNat 31 16 = k.thresh.toNat ∧ natBits (counterWord k).toNat 15 0 = k.count % 2 ^ 16 := by
  have src := k.src.isLt
  have thresh := k.thresh.isLt
  have count : k.count % 2 ^ 16 < 2 ^ 16 := Nat.mod_lt _ (Nat.two_pow_pos _)
  have flag := Bool.toNat_le k.ovf
  have word : (counterWord k).toNat = k.ovf.toNat * 2 ^ 63 + k.src.toNat * 2 ^ 32 + k.thresh.toNat * 2 ^ 16 + k.count % 2 ^ 16 := by
    rw [counterWord, BitVec.toNat_ofNat, bitAt_eq]
    exact Nat.mod_eq_of_lt (by omega)
  refine ⟨getLsbD_eq_of_toNat _ _ ?_, ?_, ?_, ?_⟩ <;> rw [word]
  · omega
  · rw [natBits]; omega
  · rw [natBits]; omega
  · rw [natBits]; omega

/-- What BBRD reads of a term (R276). -/
theorem termWord_fields (t : BellTerm) : (termWord t).getLsbD 63 = t.armed ∧ (termWord t).getLsbD 62 = t.pend ∧
    natBits (termWord t).toNat 61 54 = t.cred % 2 ^ 8 ∧ natBits (termWord t).toNat 51 0 = t.cfg.toNat := by
  have cfg := t.cfg.isLt
  have cred : t.cred % 2 ^ 8 < 2 ^ 8 := Nat.mod_lt _ (Nat.two_pow_pos _)
  have armed := Bool.toNat_le t.armed
  have pend := Bool.toNat_le t.pend
  have word : (termWord t).toNat = t.armed.toNat * 2 ^ 63 + t.pend.toNat * 2 ^ 62 + t.cred % 2 ^ 8 * 2 ^ 54 + t.cfg.toNat := by
    rw [termWord, BitVec.toNat_ofNat, bitAt_eq, bitAt_eq]
    exact Nat.mod_eq_of_lt (by omega)
  refine ⟨getLsbD_eq_of_toNat _ _ ?_, getLsbD_eq_of_toNat _ _ ?_, ?_, ?_⟩ <;> rw [word]
  · omega
  · omega
  · rw [natBits]; omega
  · rw [natBits]; omega

/-- What BBCLR does to the board (R275). -/
theorem State.clearBoard_board (s : State) (w : Word) (m : Fin 16) :
    (s.clearBoard w).clu.counters.get m = (if w.getLsbD m.val then { s.clu.counters.get m with count := 0, ovf := false, pulses := 0, cleared := true } else s.clu.counters.get m) ∧
      (s.clearBoard w).clu.terms.get m = if w.getLsbD (16 + m.val) then { s.clu.terms.get m with armed := false } else s.clu.terms.get m := by
  constructor
  · exact (get_eq_getElem _ _).trans (Vector.getElem_ofFn ..)
  · exact (get_eq_getElem _ _).trans (Vector.getElem_ofFn ..)

theorem State.clearBoard_unarmed {s : State} (h : ∀ m, (s.clu.terms.get m).armed = false) (w : Word) (m : Fin 16) : ((s.clearBoard w).clu.terms.get m).armed = false := by
  rw [(s.clearBoard_board w m).2]
  split
  · rfl
  · exact h m

/-- A pulse of a source, the board having been touched or not. -/
theorem State.pulses {s t : State} {src : BitVec 8} (kept : t.clu = { s.clu with counters := (s.pulseFrom src).clu.counters, boardLast := t.clu.boardLast }) :
    t.clu = { s.clu with counters := t.clu.counters, boardLast := t.clu.boardLast } ∧
      ((∃ m, (s.clu.counters.get m).hears src) → t.cycle % 2 = 1 → .pulse 255 ∈ t.tick.agenda) ∧ ∀ m : Fin 16,
        ((s.clu.counters.get m).hears src → t.clu.counters.get m = { s.clu.counters.get m with pulses := (s.clu.counters.get m).pulses + 1 }) ∧
          (¬ (s.clu.counters.get m).hears src → t.clu.counters.get m = s.clu.counters.get m) := by
  have counters : t.clu.counters = (s.pulseFrom src).clu.counters := congrArg (·.counters) kept
  refine ⟨by rw [counters]; exact kept, fun ⟨m, hears⟩ odd => State.tick_pulse (m := m) ?_ odd, fun m => ?_⟩
  · rw [counters, (s.pulseFrom_counter src m).1 hears]
    exact Nat.succ_pos _
  · rw [counters]
    exact s.pulseFrom_counter src m

theorem State.touchBoard_amid (s : State) : s.amid s.touchBoard := ⟨rfl, .refl _, rfl⟩

theorem State.clearBoard_clu {u v : State} (h : u.clu = v.clu) (w : Word) : (u.clearBoard w).clu = (v.clearBoard w).clu := by
  have eq (x : State) : (x.clearBoard w).clu = { x.clu with
      counters := Vector.ofFn fun n : Fin 16 => if w.getLsbD n.val then { x.clu.counters.get n with count := 0, ovf := false, pulses := 0, cleared := true } else x.clu.counters.get n,
      terms := Vector.ofFn fun n : Fin 16 => if w.getLsbD (16 + n.val) then { x.clu.terms.get n with armed := false } else x.clu.terms.get n } := rfl
  rw [eq, eq, h]

theorem State.clearBoard_kept (s : State) (w : Word) : (s.clearBoard w).mem = s.mem ∧ (s.clearBoard w).bar = s.bar ∧ (s.clearBoard w).cycle = s.cycle ∧
    (s.clearBoard w).cur = s.cur ∧ ∀ m, (s.clearBoard w).ctxAt m = (s.ctxAt m).unholdInv := by
  unfold State.clearBoard
  exact ⟨rfl, rfl, rfl, rfl, fun m => State.wake_ctxAt ..⟩

theorem State.pulseFrom_only (s : State) (src : BitVec 8) : ∃ ks, (∀ t : State, t.clu = s.clu → (t.pulseFrom src).clu = { s.clu with counters := ks }) ∧
    s.pulseFrom src = { s with clu := { s.clu with counters := ks } } :=
  ⟨_, fun t h => by rw [State.pulseFrom, h], rfl⟩

/-- The bellboard's instructions (R273 to R276). -/
theorem State.boardInstructions (s : State) (sw : Bool) (a d : BitVec 5) (n : BitVec 4) (term : Bool) (ready : s.ready [.x a, .x d]) :
    let i := n.toFin
    let w := s.readX a
    let calm (t : State) : Prop := t.mem = s.mem ∧ t.bar = s.bar ∧ s.sameRegs t ∧ s.goesOn t sw 4 1
    (s.ownsBoard = true →
      (s.badTerm w = false → ∃ t, exec (.bbset sw a true n) s = .next t ∧ calm t ∧
        t.clu = (s.modTerm i fun T => { T with cfg := w.setWidth 52, armed := decide (natBits (w.setWidth 52 : BitVec 52).toNat 33 32 ≠ 0), start := s.core.mbox.get 7 }).touchBoard.clu) ∧
      (badCounter w = false → ∃ t, exec (.bbset sw a false n) s = .next t ∧ calm t ∧
        t.clu = (s.touchBoard.setCounter i (w.setWidth 8) (BitVec.ofNat 16 (natBits w.toNat 23 8))).clu) ∧
      (s.badTerm w = true → s.trapsIn (.bbset sw a true n) 0x02 0 0) ∧ (badCounter w = true → s.trapsIn (.bbset sw a false n) 0x02 0 0) ∧
      (∃ t, exec (.bbrd sw d term n) s = .next t ∧ s.formsFrom t (.x d) (wide (if term then termWord (s.clu.terms.get i) else counterWord (s.clu.counters.get i))) 16 ∧
        s.goesOn t sw 4 1 ∧ t.clu = s.touchBoard.clu ∧ t.mem = s.mem) ∧
      (∃ t, exec (.bbclr sw a) s = .next t ∧ calm t ∧ t.clu = (s.touchBoard.clearBoard w).clu) ∧
      (∃ t, exec (.bbpulse sw n) s = .next t ∧ calm t ∧ t.clu = (s.touchBoard.pulseFrom (136 + n.setWidth 8)).clu)) ∧
    (s.ownsBoard = false → s.trapsIn (.bbset sw a term n) 0x02 0 0 ∧ s.trapsIn (.bbrd sw d term n) 0x02 0 0 ∧ s.trapsIn (.bbclr sw a) 0x02 0 0 ∧
      s.trapsIn (.bbpulse sw n) 0x02 0 0) := by
  intro i w calm
  have readyA : s.ready [.x a] := ready.mono (by simp)
  have readyD : s.ready [.x d] := ready.mono (by simp)
  have none : s.ready [] := ready.mono (by simp)
  have set (term : Bool) := State.exec_issued (s := s) (j := .bbset sw a term n) (rs := [.x a]) (ws := []) readyA (k := fun u =>
    if u.ownsBoard = false then u.illegal
    else if term then
      if u.badTerm (u.readX a) then u.illegal else (u.touchBoard.setTerm n.toFin ((u.readX a).setWidth 52) (u.core.mbox.get 7)).retire sw 4
    else if badCounter (u.readX a) then u.illegal
    else (u.touchBoard.setCounter n.toFin ((u.readX a).setWidth 8) (BitVec.ofNat 16 (natBits (u.readX a).toNat 23 8))).retire sw 4) rfl
  have read := State.exec_issued (s := s) (j := .bbrd sw d term n) (rs := []) (ws := [.x d]) readyD (k := fun u =>
    if u.ownsBoard = false then u.illegal
    else (u.touchBoard.writeFrom (.x d) ((if term then termWord (u.clu.terms.get n.toFin) else counterWord (u.clu.counters.get n.toFin)).setWidth 512) 16).retire sw 4) rfl
  have clear := State.exec_issued (s := s) (j := .bbclr sw a) (rs := [.x a]) (ws := []) readyA (k := fun u =>
    if u.ownsBoard = false then u.illegal else (u.touchBoard.clearBoard (u.readX a)).retire sw 4) rfl
  have pulse := State.exec_issued (s := s) (j := .bbpulse sw n) (rs := []) (ws := []) none (k := fun u =>
    if u.ownsBoard = false then u.illegal else (u.touchBoard.pulseFrom (136 + n.setWidth 8)).retire sw 4) rfl
  have value : (s.issued [.x a]).readX a = w := State.readX_issued ..
  have owns (rs : List Reg) : (s.issued rs).ownsBoard = s.ownsBoard := rfl
  have bad : (s.issued [.x a]).badTerm w = s.badTerm w := rfl
  rw [owns] at read clear pulse
  simp only [owns, value, bad] at set
  rw [value] at clear
  refine ⟨fun own => ?_, fun foreign => ?_⟩
  · have own' : ¬ s.ownsBoard = false := by rw [own]; exact Bool.noConfusion
    rw [if_neg own'] at read clear pulse
    simp only [if_neg own'] at set
    refine ⟨fun good => ?_, fun good => ?_, fun wrong => ?_, fun wrong => ?_, ?_, ?_, ?_⟩
    · have run := set true
      rw [if_pos rfl, if_neg (by rw [good]; exact Bool.false_ne_true)] at run
      obtain ⟨same, goes⟩ := State.completesWoken (s := s) (m := ((s.issued [.x a]).touchBoard.setTerm n.toFin (w.setWidth 52) ((s.issued [.x a]).core.mbox.get 7)))
        (rs := [.x a]) (State.wake_ctx _) rfl sw 4 1
      exact ⟨_, run, ⟨rfl, rfl, same, goes⟩, rfl⟩
    · have run := set false
      rw [if_neg Bool.false_ne_true, if_neg (by rw [good]; exact Bool.false_ne_true)] at run
      obtain ⟨same, goes⟩ := State.completes (s := s) (m := ((s.issued [.x a]).touchBoard.setCounter n.toFin (w.setWidth 8) (BitVec.ofNat 16 (natBits w.toNat 23 8))))
        (rs := [.x a]) rfl rfl sw 4 1
      exact ⟨_, run, ⟨rfl, rfl, same, goes⟩, rfl⟩
    · have run := set true
      rw [if_pos rfl, if_pos wrong] at run
      exact State.trapHere_trapsIn run
    · have run := set false
      rw [if_neg Bool.false_ne_true, if_pos wrong] at run
      exact State.trapHere_trapsIn run
    · obtain ⟨forms, goes, mem, -, clu⟩ := State.formsFrom_retire (s := s) (m := (s.issued []).touchBoard) ((s.issued_amid []).trans (State.touchBoard_amid _))
        (s.issued_sameRegs []) rfl (.x d)
        (wide (if term then termWord (s.clu.terms.get i) else counterWord (s.clu.counters.get i))) 16 sw 4 1
      exact ⟨_, read, forms, goes, clu, mem⟩
    · have clu : ((s.issued [.x a]).touchBoard.clearBoard w).clu = (s.touchBoard.clearBoard w).clu := State.clearBoard_clu rfl w
      obtain ⟨mem, bar, cycle, cur, at_⟩ := (s.issued [.x a]).touchBoard.clearBoard_kept w
      generalize (s.issued [.x a]).touchBoard.clearBoard w = m at clear clu mem bar cycle cur at_
      have ctx : m.ctx = (s.issued [.x a]).ctx.unholdInv := by
        show m.ctxAt m.cur = _
        rw [at_, cur]
        rfl
      obtain ⟨same, goes⟩ := State.completesWoken (s := s) (m := m) (rs := [.x a]) ctx cycle sw 4 1
      exact ⟨_, clear, ⟨mem, bar, same, goes⟩, clu⟩
    · obtain ⟨ks, clu, eq⟩ := (s.issued []).touchBoard.pulseFrom_only (136 + n.setWidth 8)
      rw [eq] at pulse
      obtain ⟨same, goes⟩ := State.completes (s := s) (m := { (s.issued []).touchBoard with clu := { (s.issued []).touchBoard.clu with counters := ks } }) (rs := []) rfl rfl sw 4 1
      exact ⟨_, pulse, ⟨rfl, rfl, same, goes⟩, (clu s.touchBoard rfl).symm⟩
  · rw [if_pos foreign] at read clear pulse
    simp only [if_pos foreign] at set
    exact ⟨State.trapHere_trapsIn (set term), State.trapHere_trapsIn read, State.trapHere_trapsIn clear, State.trapHere_trapsIn pulse⟩

/-- The counters at the end of the network cycle (R274). -/
def BellCounter.atEnd (v : Vector BellCounter 16) : Vector BellCounter 16 := Vector.ofFn fun m : Fin 16 => let k := v.get m
  ({ k with count := Nat.min (k.count + k.pulses) 65535, ovf := k.ovf || decide (65535 < k.count + k.pulses), pulses := 0, cleared := false, was := none } : BellCounter)

theorem State.counted_eq (s : State) : s.counted = { s with clu := { s.clu with counters := BellCounter.atEnd s.clu.counters } } := by
  rw [State.counted, counters_add]
  rfl

/-- A network cycle in which no action is due and no other core acts. -/
theorem State.boardCycle_quiet {s : State} {ks : Vector BellCounter 16} (ends : BellCounter.atEnd s.clu.counters = ks) (acts : ∀ x ∈ s.clu.boardActs, s.cycle < x.1)
    (ops : s.clu.boardOps = []) (i : Fin 16) :
    ((∀ m, (s.clu.terms.get m).holds ks = false) → exec (.pulse 255) s = .next { s with clu := { s.clu with counters := ks } }) ∧
      ((∀ m, m ≠ i → (s.clu.terms.get m).armed = false) → (s.clu.terms.get i).holds ks = true → ∃ t, exec (.pulse 255) s = .next t ∧
        (t.mem = s.mem ∧ ∀ m r, (t.ctxAt m).reg r = (s.ctxAt m).reg r) ∧ t.clu.counters = (s.clu.terms.get i).consume ks ∧
        (t.clu.terms.get i).armed = (s.clu.terms.get i).cfg.getLsbD 51 ∧ (∀ m, m ≠ i → t.clu.terms.get m = s.clu.terms.get m) ∧
        t.clu.boardActs = s.clu.boardActs ++ [(s.cycle + 2, i, s.clu.terms.get i)]) := by
  have run := exec_boardCycle s
  rw [State.boardDue_none acts, State.boardPeers_none ops, State.counted_eq, ends] at run
  have terms : ({ s with clu := { s.clu with counters := ks } } : State).clu.terms = s.clu.terms := rfl
  have counters : ({ s with clu := { s.clu with counters := ks } } : State).clu.counters = ks := rfl
  have mem : ({ s with clu := { s.clu with counters := ks } } : State).mem = s.mem := rfl
  have at_ (m : Fin 11) : ({ s with clu := { s.clu with counters := ks } } : State).ctxAt m = s.ctxAt m := rfl
  have acted : ({ s with clu := { s.clu with counters := ks } } : State).clu.boardActs = s.clu.boardActs := rfl
  have cycle : ({ s with clu := { s.clu with counters := ks } } : State).cycle = s.cycle := rfl
  generalize ({ s with clu := { s.clu with counters := ks } } : State) = u at run terms counters mem at_ acted cycle ⊢
  rw [← terms, ← counters, ← mem, ← acted, ← cycle]
  refine ⟨fun still => ?_, fun others holds => ?_⟩
  · rw [run, State.testTerms_still _ _ fun m _ => still m]
  · have armed : (u.clu.terms.get i).armed = true := by
      have h := holds
      rw [BellTerm.holds, Bool.and_eq_true, Bool.and_eq_true] at h
      exact h.1.1
    rw [State.testTerms_fires others holds] at run
    obtain ⟨fired, again, rest, posted⟩ := u.fires_clu i armed
    obtain ⟨still, regs⟩ := u.fires_kept i
    exact ⟨_, run, ⟨still, fun m r => (regs m r).trans (congrArg (Ctx.reg · r) (at_ m))⟩, fired, again, rest, posted⟩

/-- A network cycle in which one action is due, and no term is armed. -/
theorem State.boardCycle_acts {s : State} {k : Nat} {i : Fin 16} {T' : BellTerm} (acts : s.clu.boardActs = [(k, i, T')]) (due : k ≤ s.cycle) (ops : s.clu.boardOps = [])
    (unarmed : ∀ m, (s.clu.terms.get m).armed = false) : exec (.pulse 255) s = .next ({ s with clu := { s.clu with boardActs := [] } }.termAct i T').counted := by
  have run := exec_boardCycle s
  rw [State.boardDue_one acts due] at run
  obtain ⟨only, -⟩ := ({ s with clu := { s.clu with boardActs := [] } } : State).termAct_does i T'
  generalize ({ s with clu := { s.clu with boardActs := [] } } : State).termAct i T' = u at run only ⊢
  rw [State.boardPeers_none (only.boardOps.trans ops), State.testTerms_unarmed] at run
  · exact run
  · intro m _
    by_cases own : m = i
    · rw [own]
      exact only.armed.trans (unarmed i)
    · exact (congrArg BellTerm.armed (only.others m own)).trans (unarmed m)

theorem State.counted_keeps (u : State) : u.counted.mem = u.mem ∧ u.counted.clu.counters = BellCounter.atEnd u.clu.counters ∧ u.counted.clu.terms = u.clu.terms ∧
    u.counted.clu.boardActs = u.clu.boardActs ∧ (∀ m, u.counted.ctxAt m = u.ctxAt m) ∧ u.counted.agenda = u.agenda := by
  unfold State.counted
  exact ⟨rfl, counters_add _, rfl, rfl, fun _ => rfl, rfl⟩

/-- What has happened then. -/
theorem State.boardCycle_acted {s : State} {k : Nat} {i : Fin 16} {T' : BellTerm} (acts : s.clu.boardActs = [(k, i, T')]) (due : k ≤ s.cycle) (ops : s.clu.boardOps = [])
    (unarmed : ∀ m, (s.clu.terms.get m).armed = false) : let A := natBits T'.cfg.toNat 33 32
    ∃ t, exec (.pulse 255) s = .next t ∧ t.mem = s.mem ∧ t.clu.counters = BellCounter.atEnd s.clu.counters ∧ t.clu.boardActs = [] ∧ (∀ m, m ≠ i → t.clu.terms.get m = s.clu.terms.get m) ∧
      (A ≠ 2 → t.mem = s.mem ∧ ∀ m r, (t.ctxAt m).reg r = (s.ctxAt m).reg r) ∧ (A = 1 → (t.clu.terms.get i).cred = Nat.min ((s.clu.terms.get i).cred + 1) 255) ∧
      (A = 2 → natBits T'.cfg.toNat 39 35 = s.position → ∀ h : Fin 11, h.val = natBits T'.cfg.toNat 45 42 →
        ((s.ctxAt h).live = true → (t.clu.terms.get i).pend = true ∧ t.mem = s.mem ∧ ∀ m r, (t.ctxAt m).reg r = (s.ctxAt m).reg r) ∧
        ((s.ctxAt h).live = false → (t.ctxAt h).live = true ∧ (t.ctxAt h).pc = T'.start ∧ (t.ctxAt h).reg (.x 1) = wide (BitVec.ofNat 64 i.val) ∧
          ∀ m, m ≠ h → ∀ r, (t.ctxAt m).reg r = (s.ctxAt m).reg r)) ∧
      (A = 3 → .arrival (BitVec.ofNat 5 (natBits T'.cfg.toNat 50 46)) (s.clusterCore 0) 1 none ∈ t.agenda) := by
  intro A
  have run := State.boardCycle_acts acts due ops unarmed
  have base : ({ s with clu := { s.clu with boardActs := [] } } : State).mem = s.mem ∧ ({ s with clu := { s.clu with boardActs := [] } } : State).clu.counters = s.clu.counters ∧
      ({ s with clu := { s.clu with boardActs := [] } } : State).clu.terms = s.clu.terms ∧ ({ s with clu := { s.clu with boardActs := [] } } : State).clu.boardActs = [] ∧
      (∀ m, ({ s with clu := { s.clu with boardActs := [] } } : State).ctxAt m = s.ctxAt m) ∧ ({ s with clu := { s.clu with boardActs := [] } } : State).position = s.position ∧
      ({ s with clu := { s.clu with boardActs := [] } } : State).clusterCore 0 = s.clusterCore 0 := ⟨rfl, rfl, rfl, rfl, fun _ => rfl, rfl, rfl⟩
  generalize ({ s with clu := { s.clu with boardActs := [] } } : State) = v at run base
  obtain ⟨mem, counters, terms, gone, at_, position, first⟩ := base
  obtain ⟨only, others, credit, helper, arrives⟩ := v.termAct_does i T'
  rw [position] at helper
  rw [first] at arrives
  rw [terms] at credit
  obtain ⟨mem', counters', terms', acted', at', agenda'⟩ := (v.termAct i T').counted_keeps
  generalize hu : v.termAct i T' = u at run only others credit arrives mem' counters' terms' acted' at' agenda'
  refine ⟨u.counted, run, ?_⟩
  generalize u.counted = t at mem' counters' terms' acted' at' agenda' ⊢
  rw [mem', counters', terms', acted', agenda']
  have regs (h : ∀ m r, (u.ctxAt m).reg r = (v.ctxAt m).reg r) : u.mem = s.mem ∧ ∀ m r, (t.ctxAt m).reg r = (s.ctxAt m).reg r :=
    ⟨only.mem.trans mem, fun m r => by rw [at', h, at_]⟩
  refine ⟨only.mem.trans mem, by rw [only.counters, counters], only.boardActs.trans gone, fun m ne => by rw [only.others m ne, terms], fun ne => regs (others ne), credit,
    fun act here h number => ⟨fun live => ?_, fun free => ?_⟩, arrives⟩
  · have eq := hu.symm.trans ((helper act here h number).1 (by rw [at_]; exact live))
    have pend := congrArg BellTerm.pend (v.modTerm_self i fun t => { t with pend := true })
    rw [← eq] at pend
    exact ⟨pend, regs fun m r => by rw [eq]; rfl⟩
  · have eq := hu.symm.trans ((helper act here h number).2 (by rw [at_]; exact free))
    obtain ⟨-, -, live, pc, x1, rest⟩ := v.startHelper_starts h T'.start (BitVec.ofNat 64 i.val)
    rw [← eq] at live pc x1 rest
    rw [at']
    exact ⟨live, pc, x1, fun m ne r => by rw [at', rest m ne, at_]⟩

/-- A network cycle in which another core clears counters and terms. -/
theorem State.boardCycle_clears {s : State} {p : Nat} {mask : Word} (acts : s.clu.boardActs = []) (ops : s.clu.boardOps = [(p, .clear mask)])
    (unarmed : ∀ m, (s.clu.terms.get m).armed = false) : exec (.pulse 255) s = .next ({ s with clu := { s.clu with boardOps := [] } }.clearBoard mask).counted := by
  have run := exec_boardCycle s
  rw [State.boardDue_none (by rw [acts]; exact fun _ h => absurd h List.not_mem_nil), State.boardPeers_one ops, State.boardOp] at run
  rw [run, State.testTerms_unarmed]
  exact fun m _ => State.clearBoard_unarmed (s := { s with clu := { s.clu with boardOps := [] } }) unarmed mask m

/-- Settles O39: its instructions write the board and no register, a pulse is counted at the end of the board's network cycle, which the model writes as a pulse of source 255, and there the terms are
tested and act. -/
theorem theBellboardCountsAndFires : Obligations.TheBellboardCountsAndFires := by
  unfold Obligations.TheBellboardCountsAndFires
  intro s sw a d n term i w T K calm counts pulsed illegal
  have trap {j : Instr} (h : s.trapsIn j 0x02 0 0) : illegal j := fun trappable => by
    obtain ⟨t, run, only, entered⟩ := h trappable
    exact ⟨t, run, only.clu, entered⟩
  refine ⟨s.ownsBoard_iff, fun ready own => ?_, fun ready foreign => ?_, fun src real => ?_, fun k T' p mask => ?_, fun held elsewhere => ?_, fun h held here number free => ?_⟩
  · obtain ⟨instrs, -⟩ := s.boardInstructions sw a d n term ready
    obtain ⟨setTerm, setCounter, badTerm, badWord, read, clear, pulse⟩ := instrs own
    refine ⟨fun good => ?_, fun good => ?_, fun wrong => trap (badTerm wrong), fun wrong => trap (badWord wrong), ?_, ?_, ?_⟩
    · obtain ⟨t, run, still, clu⟩ := setTerm good
      have self := s.modTerm_self i fun T => { T with cfg := w.setWidth 52, armed := decide (natBits (w.setWidth 52 : BitVec 52).toNat 33 32 ≠ 0), start := s.core.mbox.get 7 }
      have action : natBits (w.setWidth 52 : BitVec 52).toNat 33 32 = natBits w.toNat 33 32 := by
        rw [BitVec.toNat_setWidth, natBits, natBits]
        omega
      rw [action] at self clu
      refine ⟨t, run, still, by rw [clu]; rfl, fun m ne => ?_, ?_⟩
      · rw [clu]
        exact get_set_ne s.clu.terms i m _ ne.symm
      · rw [clu]
        exact self
    · obtain ⟨t, run, still, clu⟩ := setCounter good
      refine ⟨t, run, still, by rw [clu]; rfl, fun m ne => ?_, ?_⟩
      · rw [clu]
        exact get_set_ne s.clu.counters i m _ ne.symm
      · rw [clu]
        exact get_set_self s.clu.counters i _ i.isLt
    · obtain ⟨t, run, forms, goes, clu, mem⟩ := read
      refine ⟨t, _, run, forms, goes, by rw [clu]; rfl, mem, fun counter => ?_, fun isTerm => ?_⟩
      · rw [if_neg (by rw [counter]; exact Bool.false_ne_true)]
        exact counterWord_fields K
      · rw [if_pos isTerm]
        exact termWord_fields T
    · obtain ⟨t, run, still, clu⟩ := clear
      refine ⟨t, run, still, fun m => ?_⟩
      rw [clu]
      exact s.touchBoard.clearBoard_board w m
    · obtain ⟨t, run, still, clu⟩ := pulse
      refine ⟨t, run, still, State.pulses ?_⟩
      rw [clu]
      rfl
  · obtain ⟨-, traps⟩ := s.boardInstructions sw a d n term ready
    obtain ⟨set, read, clear, pulse⟩ := traps foreign
    exact ⟨trap set, trap read, trap clear, trap pulse⟩
  · exact ⟨s.pulseFrom src, congrArg (fun u : State => (.next u : Outcome)) (if_neg (c := src = noPulse) (t := s.boardCycle) real), rfl, rfl, State.pulses rfl⟩
  · intro ks took regs A
    refine ⟨fun acts ops => ?_, fun acts due ops unarmed => ?_, fun acts ops unarmed => ?_⟩
    · obtain ⟨still, fires⟩ := State.boardCycle_quiet (s := s) (ks := ks) rfl acts ops i
      refine ⟨fun none => ⟨_, still none, rfl⟩, fun others holds => ?_⟩
      obtain ⟨t, run, kept, counters, rest⟩ := fires others holds
      refine ⟨t, run, kept, fun m => ?_, rest⟩
      rw [counters]
      exact BellTerm.consume_get T ks m
    · obtain ⟨t, run, mem, counters, rest⟩ := State.boardCycle_acted acts due ops unarmed
      exact ⟨t, run, mem, counters, rest⟩
    · have run := State.boardCycle_clears acts ops unarmed
      have board (m : Fin 16) := ({ s with clu := { s.clu with boardOps := [] } } : State).clearBoard_board mask m
      obtain ⟨mem, -, -, -, at_⟩ := ({ s with clu := { s.clu with boardOps := [] } } : State).clearBoard_kept mask
      generalize ({ s with clu := { s.clu with boardOps := [] } } : State).clearBoard mask = u at run board mem at_
      obtain ⟨mem', -, -, -, at', -⟩ := u.counted_keeps
      refine ⟨u.counted, run, ⟨mem'.trans mem, fun m r => ?_⟩, fun m cleared => ?_⟩
      · rw [at', at_]
        exact Ctx.unholdInv_reg _ r
      · have counter := (board m).1
        rw [if_pos cleared] at counter
        have get : u.counted.clu.counters.get m = (u.clu.counters.get m).add := mapVec_get BellCounter.add u.clu.counters m
        rw [get, counter]
        exact ⟨rfl, rfl⟩
  · exact ⟨s.modTerm i fun t => { t with pend := false }, congrArg (fun u : State => (.next u : Outcome)) (if_pos ⟨held, elsewhere⟩), rfl, rfl,
      congrArg BellTerm.pend (s.modTerm_self i fun t => { t with pend := false })⟩
  · have notLive : s.helperLive (natBits T.cfg.toNat 45 42) = false := by
      rw [← number, State.helperLive_eq]
      exact free
    have run : exec (.heldHelperStart n) s = .next ((s.modTerm i fun t => { t with pend := false }).startHelper h.val T.start (n.setWidth 64)) := by
      rw [number]
      exact congrArg (fun u : State => (.next u : Outcome)) ((if_neg fun e => e.2 here).trans (if_pos ⟨held, notLive⟩))
    obtain ⟨mem, clu, live, pc, x1, rest⟩ := (s.modTerm i fun t => { t with pend := false }).startHelper_starts h T.start (n.setWidth 64)
    refine ⟨_, run, mem, ?_, live, pc, x1, rest⟩
    rw [clu]
    exact congrArg BellTerm.pend (s.modTerm_self i fun t => { t with pend := false })

end Sys2Proof.Machine
end

section
/-! PROOF. O54: the device is tested, powered and reset (R417, R421, R424 to R430). -/

namespace Sys2Proof.Machine

open Sys2Proof

/-! ## The health table and the queues -/

theorem Device.healthOf_setHealth (d : Device) (u v : Nat) (h : Health) : (d.setHealth u h).healthOf v = if v = u then h else d.healthOf v := Sparse.get_set ..

theorem Device.queue_setQueue (d : Device) (q m : Nat) (x : Queue) : (d.setQueue q x).queue m = if m = q then x else d.queue m := Sparse.get_set ..

theorem State.logFor_device (s : State) (jobid : BitVec 32) (sstep cls cause source : Nat) (detail : BitVec 32) (addr : Word) :
    (s.logFor jobid sstep cls cause source detail addr).dev.health = s.dev.health ∧ (s.logFor jobid sstep cls cause source detail addr).dev.bringUp = s.dev.bringUp := by
  unfold State.logFor
  dsimp only
  split <;> exact ⟨rfl, rfl⟩

/-- A slice that has failed (R421). -/
theorem State.endSlice_failed (s : State) (u : Nat) : (s.endSlice u false).dev.bringUp = s.dev.bringUp ∧
    ∀ v, (s.endSlice u false).dev.healthOf v = if v = u then { pass := false, time := s.dev.devtime, fails := (s.dev.healthOf u).fails + 1, running := false } else s.dev.healthOf v := by
  unfold State.endSlice
  dsimp only
  rw [if_neg Bool.false_ne_true, if_neg Bool.false_ne_true]
  obtain ⟨health, step⟩ := ({ s with dev := s.dev.setHealth u { pass := false, time := s.dev.devtime, fails := (s.dev.healthOf u).fails + 1, running := false } } : State).logFor_device 0 0 9 0
    (if u < 3072 then 0xF000 + u else noSource) (BitVec.ofNat 32 u) 0
  refine ⟨step, fun v => ?_⟩
  rw [Device.healthOf, health]
  exact s.dev.healthOf_setHealth u v _

theorem State.endSlices_failed : ∀ (us : List Nat) (s : State), (us.foldl (fun t u => t.endSlice u false) s).dev.bringUp = s.dev.bringUp ∧
    ∀ v, ((us.foldl (fun t u => t.endSlice u false) s).dev.healthOf v).pass = ((s.dev.healthOf v).pass && !decide (v ∈ us))
  | [], s => ⟨rfl, fun v => by simp⟩
  | u :: us, s => by
    obtain ⟨step, health⟩ := s.endSlice_failed u
    obtain ⟨steps, healths⟩ := State.endSlices_failed us (s.endSlice u false)
    refine ⟨steps.trans step, fun v => (healths v).trans ?_⟩
    rw [health v]
    by_cases own : v = u <;> simp [own]

theorem Device.queuesOff : ∀ (qs : List Nat) (d : Device), let t := qs.foldl (fun d q => d.setQueue q { d.queue q with en := false }) d
    t.bringUp = d.bringUp ∧ ∀ m, t.queue m = if m ∈ qs then { d.queue m with en := false } else d.queue m
  | [], d => ⟨rfl, fun m => by simp⟩
  | q :: qs, d => by
    obtain ⟨steps, queues⟩ := Device.queuesOff qs (d.setQueue q { d.queue q with en := false })
    refine ⟨steps, fun m => (queues m).trans ?_⟩
    rw [Device.queue_setQueue]
    by_cases own : m = q <;> by_cases later : m ∈ qs <;> simp [own, later]

/-! ## Bring-up (R429) -/

theorem State.bringUp_rests {s : State} (h : s.dev.power ≠ .d0 ∨ s.dev.bringUp = 0 ∨ 5 ≤ s.dev.bringUp) : s.bringUpStep = s := if_pos h

theorem State.bringUp_steps {s : State} (on : s.dev.power = .d0) :
    (s.dev.bringUp = 1 ∨ s.dev.bringUp = 2 → s.bringUpStep = { s with dev := { s.dev with bringUp := s.dev.bringUp + 1 } }) ∧
    (s.dev.bringUp = 3 → s.bringUpStep = ((List.range 3456).filter fun u => !Config.bringUpPass s.cycle u).foldl (fun t u => t.endSlice u false)
      { s with dev := { s.dev with bringUp := s.dev.bringUp + 1 } }) ∧
    (s.dev.bringUp = 4 → s.bringUpStep = { s with dev := (s.dev.queues.map (·.1)).foldl (fun d q => d.setQueue q { d.queue q with en := false }) { s.dev with bringUp := s.dev.bringUp + 1 } }) := by
  have goes {n : Nat} (at_ : s.dev.bringUp = n) (low : n ≠ 0) (high : n < 5) : ¬ (s.dev.power ≠ .d0 ∨ s.dev.bringUp = 0 ∨ 5 ≤ s.dev.bringUp) := by
    rintro (off | zero | done)
    · exact off on
    · omega
    · omega
  refine ⟨fun h => ?_, fun h => ?_, fun h => ?_⟩ <;> unfold State.bringUpStep <;> dsimp only
  · rcases h with h | h <;> rw [if_neg (goes h (by decide) (by decide))] <;> simp only [h]
  · rw [if_neg (goes h (by decide) (by decide))]
    simp only [h]
  · rw [if_neg (goes h (by decide) (by decide))]
    simp only [h]

/-! ## Resets (R427, R428, R430) -/

/-- What every reset leaves (R428). -/
theorem State.fresh_empty (s : State) (d : Device) : (s.fresh d).job = Job.none ∧ (∀ m, (s.fresh d).ctxAt m = Ctx.reset) ∧ (s.fresh d).core = { Core.reset with num := s.core.num } ∧
    (s.fresh d).accs = [] ∧ (s.fresh d).full = [] ∧ (s.fresh d).evicted = [] ∧ (s.fresh d).micro = [] ∧ (s.fresh d).clutlb = [] ∧ (s.fresh d).lasttlb = [] ∧ (s.fresh d).icache = [] ∧
    (s.fresh d).regions = [] ∧ (s.fresh d).drapers = [] ∧ (s.fresh d).bar = Barriers.reset ∧ (s.fresh d).clu = Cluster.reset ∧ (s.fresh d).inbox = s.inbox ∧ (s.fresh d).turns = s.turns ∧
    ∀ k, Memory.byte (s.fresh d).mem k = if Config.peerBase ≤ k then Memory.byte s.mem k else 0 := by
  refine ⟨rfl, fun m => State.reset_ctxAt m, rfl, rfl, rfl, rfl, rfl, rfl, rfl, rfl, rfl, rfl, rfl, rfl, rfl, rfl, fun k => ?_⟩
  have byte := Sparse.get_filter (d := Memory.unlisted) (fun k => decide (Config.peerBase ≤ k)) s.mem k
  refine byte.trans ?_
  simp only [decide_eq_true_eq]
  rfl

/-! ## What the outside brings -/

/-- An event that takes what the outside brings, and finds nothing. -/
theorem exec_quiet {s : State} {e : Instr} {k : HostReq → State → State} (run : exec e s = .next (s.withReq k)) : s.inbox = [] → exec e s = .next s := fun none => by
  rw [run, State.withReq_nil none]

/-- An event that takes what the outside brings, and finds it. -/
theorem exec_brought {s : State} {e : Instr} {k : HostReq → State → State} {r : HostReq} {l : List HostReq} (run : exec e s = .next (s.withReq k)) (h : s.inbox = r :: l) :
    exec e s = .next (k r { s with inbox := l }) := by
  rw [run, State.withReq_cons h]

theorem State.coreBusy_iff (s : State) (c : BitVec 12) : s.coreBusy c = true ↔ (s.job.running = true ∧ c ∈ s.job.cores) ∨ ∃ j ∈ s.dev.jobs, j.saved = false ∧ c ∈ j.job.cores := by
  simp [State.coreBusy]

/-- A unit of the health table whose cores run no job is idle (R421). -/
theorem State.unitIdle_core {s : State} {u : Nat} (low : u < 3072) : s.unitIdle u = !s.coreBusy (BitVec.ofNat 12 u) := if_pos low

theorem State.unitIdle_matrix {s : State} {u : Nat} (high : 3072 ≤ u) : s.unitIdle u = (List.range 8).all fun i => !s.coreBusy (BitVec.ofNat 12 ((u - 3072) * 8 + i)) :=
  if_neg (Nat.not_lt.2 high)

theorem State.unitIdle_free {s : State} (h : ∀ c, s.coreBusy c = false) (u : Nat) : s.unitIdle u = true := by
  unfold State.unitIdle
  split
  · rw [h]; rfl
  · exact List.all_eq_true.2 fun i _ => by rw [h]; rfl

/-- What a test slice does (R421). -/
theorem exec_testSlice_brought {s : State} {r : HostReq} {l : List HostReq} (h : s.inbox = r :: l) :
    (r.addr < 3456 → s.unitIdle r.addr = true → exec .testSlice s = .next { s with inbox := l, dev := s.dev.setHealth r.addr { s.dev.healthOf r.addr with running := true } }) ∧
      (¬ (r.addr < 3456 ∧ s.unitIdle r.addr = true) → exec .testSlice s = .next { s with inbox := l }) := by
  have run := exec_brought (e := .testSlice) (k := fun r s => if r.addr < 3456 ∧ s.unitIdle r.addr then
      { s with dev := s.dev.setHealth r.addr { s.dev.healthOf r.addr with running := true } } else s) rfl h
  have same : ({ s with inbox := l } : State).unitIdle r.addr = s.unitIdle r.addr := rfl
  rw [same] at run
  exact ⟨fun low idle => run.trans (by rw [if_pos ⟨low, idle⟩]), fun no => run.trans (by rw [if_neg no])⟩

/-- What the end of a test slice does (R421). -/
theorem exec_testSliceEnd_brought {s : State} {r : HostReq} {l : List HostReq} (h : s.inbox = r :: l) : exec .testSliceEnd s =
    .next (if (s.dev.healthOf r.addr).running = false then { s with inbox := l } else ({ s with inbox := l } : State).endSlice r.addr (r.value.getLsbD 0)) :=
  exec_brought (k := fun r s => if (s.dev.healthOf r.addr).running = false then s else s.endSlice r.addr (r.value.getLsbD 0)) rfl h

theorem State.endSlice_passed (s : State) (u : Nat) : s.endSlice u true =
    { s with dev := s.dev.setHealth u { pass := true, time := s.dev.devtime, fails := (s.dev.healthOf u).fails, running := false } } := by
  unfold State.endSlice
  rfl

/-- The entry of a failed slice in the error-log ring (R421, R422). -/
theorem State.endSlice_logs {s : State} (u : Nat) (ring : s.dev.elbase ≠ 0) (room : (s.dev.elprod - s.dev.elcons).toNat < 2 ^ (s.dev.elsize.toNat + 7)) :
    (s.endSlice u false).dev.elprod = s.dev.elprod + 1 ∧
      Memory.byte (s.endSlice u false).mem (hbmKey (s.dev.elbase.toNat + 32 * (s.dev.elprod.toNat % 2 ^ (s.dev.elsize.toNat + 7)))) = 9 := by
  unfold State.endSlice
  dsimp only
  rw [if_neg Bool.false_ne_true, if_neg Bool.false_ne_true]
  generalize (if u < 3072 then 0xF000 + u else noSource) = source
  generalize ({ pass := false, time := s.dev.devtime, fails := (s.dev.healthOf u).fails + 1, running := false } : Health) = h
  have full : ¬ (s.dev.elbase = 0 ∨ s.dev.elCapacity ≤ (s.dev.elprod - s.dev.elcons).toNat) := by
    rintro (none | full)
    · exact ring none
    · exact absurd room (Nat.not_lt.2 full)
  have eq : ({ s with dev := s.dev.setHealth u h } : State).logFor 0 0 9 0 source (BitVec.ofNat 32 u) 0 = { s with
      dev := { s.dev.setHealth u h with elprod := s.dev.elprod + 1 },
      mem := Memory.write s.mem (hbmKey (s.dev.elbase.toNat + 32 * (s.dev.elprod.toNat % 2 ^ (s.dev.elsize.toNat + 7)))) (logBytes 9 0 source 0 (BitVec.ofNat 32 u) 0 s.dev.devtime 0) } := if_neg full
  rw [eq]
  refine ⟨rfl, ?_⟩
  dsimp only
  refine (Memory.byte_write ..).trans ((if_pos ⟨Nat.le_refl _, Nat.lt_add_of_pos_right (Nat.succ_pos _)⟩).trans ?_)
  exact congrArg (fun n => (logBytes 9 0 source 0 (BitVec.ofNat 32 u) 0 s.dev.devtime 0).getD n 0) (Nat.sub_self _)

theorem filter_range_none {p : Nat → Bool} {n : Nat} (h : ∀ u < n, p u = true) : ((List.range n).filter fun u => !p u) = [] :=
  List.filter_eq_nil_iff.2 fun u hu failed => by
    rw [h u (List.mem_range.1 hu)] at failed
    exact Bool.noConfusion failed

theorem decide_mem_filter_range {p : Nat → Bool} {n u : Nat} (low : u < n) : decide (u ∈ (List.range n).filter fun u => p u) = p u := by
  simp [List.mem_filter, low]

/-- Settles O54: each event of the device does what its row says. -/
theorem theDeviceIsTestedPoweredAndReset : Obligations.TheDeviceIsTestedPoweredAndReset := by
  unfold Obligations.TheDeviceIsTestedPoweredAndReset
  intro s d quiet fresh
  refine ⟨⟨exec_quiet rfl, exec_quiet rfl, exec_quiet rfl, exec_quiet rfl, exec_quiet rfl, exec_quiet rfl⟩, fun r l brought => ?_, ?_, ?_, ?_, fun e which => ?_, ?_, fun on => rfl, ?_, rfl⟩
  · intro dev h
    obtain ⟨starts, refused⟩ := exec_testSlice_brought brought
    have ends := exec_testSliceEnd_brought brought
    refine ⟨exec_brought (k := fun r s => { s with dev := if 1000000 ≤ r.value.toInt then { s.dev with devtime := s.dev.devtime + r.value, slew := 0 } else { s.dev with slew := r.value.toInt } }) rfl brought,
      exec_brought (k := fun r s => { s with dev := { s.dev with
        pwrEn := r.value.getLsbD 16, pwrCap := BitVec.ofNat 16 (Nat.max 1200 (Nat.min 3200 (natBits r.value.toNat 15 0))) } }) rfl brought,
      exec_brought (k := fun r s => { s with dev := { s.dev with hot := s.dev.hot && !r.value.getLsbD 25 } }) rfl brought, fun high => refused fun both => absurd both.1 (Nat.not_lt.2 high), ⟨fun low busy => ?_, fun high top busy => ?_⟩,
      fun low idle others => ?_, fun still => ?_, fun runs pass => ?_, fun runs failed ring room => ?_, ?_⟩
    · refine refused fun both => ?_
      have idle := both.2
      rw [State.unitIdle_core low, (s.coreBusy_iff _).2 busy] at idle
      exact Bool.noConfusion idle
    · obtain ⟨i, small, busy⟩ := busy
      refine refused fun both => ?_
      have idle := both.2
      rw [State.unitIdle_matrix high] at idle
      have free := List.all_eq_true.1 idle i (List.mem_range.2 small)
      rw [(s.coreBusy_iff _).2 busy] at free
      exact Bool.noConfusion free
    · have free (c : BitVec 12) : s.coreBusy c = false := by
        rw [Bool.eq_false_iff]
        intro busy
        rcases (s.coreBusy_iff c).1 busy with ⟨runs, -⟩ | ⟨j, listed, gone, -⟩
        · rw [idle] at runs; exact Bool.noConfusion runs
        · rw [others j listed] at gone; exact Bool.noConfusion gone
      refine ⟨_, starts low (State.unitIdle_free free _), rfl, rfl, ?_, fun u ne => ?_⟩
      · exact (d.healthOf_setHealth r.addr r.addr _).trans (if_pos rfl)
      · exact (d.healthOf_setHealth r.addr u _).trans (if_neg ne)
    · exact ends.trans (by rw [if_pos still])
    · rw [if_neg (by rw [runs]; exact Bool.noConfusion), pass, State.endSlice_passed] at ends
      refine ⟨_, ends, rfl, rfl, ?_, fun u ne => ?_⟩
      · exact (d.healthOf_setHealth r.addr r.addr _).trans (if_pos rfl)
      · exact (d.healthOf_setHealth r.addr u _).trans (if_neg ne)
    · rw [if_neg (by rw [runs]; exact Bool.noConfusion), failed] at ends
      obtain ⟨-, health⟩ := ({ s with inbox := l } : State).endSlice_failed r.addr
      obtain ⟨prod, byte⟩ := State.endSlice_logs (s := { s with inbox := l }) r.addr ring room
      exact ⟨_, ends, (health r.addr).trans (if_pos rfl), prod, byte⟩
    · refine ⟨_, exec_brought rfl brought, rfl, rfl, fun p => ?_⟩
      exact List.mem_dedup.trans (List.mem_cons.trans or_comm)
  · refine ⟨_, rfl, rfl, rfl, rfl, fun hot => ?_, fun hot => ?_, fun over_ => ?_, fun under cool => ?_⟩
    · exact ⟨by dsimp only; rw [decide_eq_true hot, Bool.or_true], by dsimp only; rw [decide_eq_true hot, Bool.or_true]⟩
    · dsimp only
      rw [show s.dev.hot = true from hot, Bool.true_or]
    · dsimp only
      rw [decide_eq_true (show s.dev.powerLimit < _ from over_), Bool.true_or]
    · dsimp only
      rw [decide_eq_false (show ¬ s.dev.powerLimit < _ from Nat.not_lt.2 under), decide_eq_false (Nat.not_le.2 cool)]
      exact ⟨rfl, Bool.or_false _⟩
  · exact ⟨_, rfl, s.fresh_empty _, rfl, rfl, rfl, rfl, rfl, rfl, rfl, rfl, rfl, rfl⟩
  · exact ⟨_, rfl, s.fresh_empty _, rfl, rfl, rfl, rfl, rfl, rfl⟩
  · rcases which with rfl | rfl
    · exact ⟨s.unpowered, rfl, s.fresh_empty _, rfl, rfl, rfl⟩
    · exact ⟨s.unpowered, rfl, s.fresh_empty _, rfl, rfl, rfl⟩
  · exact ⟨_, rfl, rfl, rfl, rfl, rfl, rfl, fun m => congrArg Ctx.live (State.reset_ctxAt m), rfl, rfl, rfl, rfl, rfl⟩
  · intro up next
    have step : next = s.bringUpStep := rfl
    rw [step]
    refine ⟨State.bringUp_rests, fun on => ?_⟩
    obtain ⟨early, slices, queues⟩ := State.bringUp_steps on
    refine ⟨early, fun at_ => ?_, fun at_ => ?_⟩
    · have run := slices at_
      have none : (∀ u < 3456, Config.bringUpPass s.cycle u = true) → ((List.range 3456).filter fun u => !Config.bringUpPass s.cycle u) = [] := filter_range_none
      have some (u : Nat) (low : u < 3456) := decide_mem_filter_range (p := fun u => !Config.bringUpPass s.cycle u) low
      generalize (List.range 3456).filter (fun u => !Config.bringUpPass s.cycle u) = failing at run none some
      obtain ⟨steps, health⟩ := State.endSlices_failed failing { s with dev := { s.dev with bringUp := s.dev.bringUp + 1 } }
      rw [run]
      refine ⟨steps.trans (congrArg (· + 1) at_), fun all => ?_, fun u low => (health u).trans ?_⟩
      · rw [none all]
        rfl
      · rw [some u low, Bool.not_not]
        rfl
    · rw [queues at_]
      obtain ⟨steps, off⟩ := Device.queuesOff (s.dev.queues.map (·.1)) { s.dev with bringUp := s.dev.bringUp + 1 }
      refine ⟨steps.trans (congrArg (· + 1) at_), fun q listed => ?_, rfl⟩
      dsimp only
      rw [off q.1, if_pos (List.mem_map.2 ⟨q, listed, rfl⟩)]

end Sys2Proof.Machine
end

section
/-! SUPPORT. Packets that are accepted (R411, R429). -/

namespace Sys2Proof.Machine

/-- Only what the acceptance of packets can change of the device has changed. -/
theorem State.acceptFrom_only (q : Nat) : ∀ (n : Nat) (i : BitVec 32) (s : State), ∃ events clashes,
    State.acceptFrom q n i s = { s with dev := { s.dev with events, clashes } }
  | 0, _, s => ⟨s.dev.events, s.dev.clashes, rfl⟩
  | n + 1, i, s => by
    have one : ∃ events clashes, s.acceptPacket q i = { s with dev := { s.dev with events, clashes } } := by
      unfold State.acceptPacket Device.settleEvent
      dsimp only
      split
      · exact ⟨s.dev.events, s.dev.clashes, rfl⟩
      · split
        · exact ⟨_, _, rfl⟩
        · exact ⟨_, _, rfl⟩
    obtain ⟨events, clashes, eq⟩ := one
    obtain ⟨events', clashes', eq'⟩ := State.acceptFrom_only q n (i + 1) (s.acceptPacket q i)
    exact ⟨events', clashes', by rw [State.acceptFrom, eq', eq]⟩

/-- With no error-log ring no packet is accepted (R429). -/
theorem State.acceptQueue_unset {s : State} (h : s.dev.elbase = 0) (q : Nat) : s.acceptQueue q = s := if_pos h

theorem State.acceptQueue_set {s : State} (h : s.dev.elbase ≠ 0) (q : Nat) : s.acceptQueue q =
    (State.acceptFrom q ((s.dev.queue q).tail - (s.dev.queue q).accepted).toNat (s.dev.queue q).accepted s).modQueue q fun y => { y with accepted := y.tail } := if_neg h

theorem State.acceptQueue_only {s : State} (h : s.dev.elbase ≠ 0) (q : Nat) : ∃ dev : Device, s.acceptQueue q = { s with dev } ∧ dev.elbase = s.dev.elbase ∧
    ∀ m, dev.queue m = if m = q then { s.dev.queue q with accepted := (s.dev.queue q).tail } else s.dev.queue m := by
  obtain ⟨events, clashes, eq⟩ := State.acceptFrom_only q ((s.dev.queue q).tail - (s.dev.queue q).accepted).toNat (s.dev.queue q).accepted s
  rw [State.acceptQueue_set h, eq]
  exact ⟨_, rfl, rfl, fun m => Device.queue_setQueue ..⟩

theorem State.acceptQueues_unset {s : State} (h : s.dev.elbase = 0) : ∀ qs : List Nat, qs.foldl State.acceptQueue s = s
  | [] => rfl
  | q :: qs => by
    rw [List.foldl_cons, State.acceptQueue_unset h]
    exact State.acceptQueues_unset h qs

/-- Once the error-log ring is set, what waits in the queues is accepted (R429). -/
theorem State.acceptQueues_only : ∀ (qs : List Nat) (s : State), s.dev.elbase ≠ 0 → ∃ dev : Device, qs.foldl State.acceptQueue s = { s with dev } ∧ dev.elbase = s.dev.elbase ∧
    ∀ m, dev.queue m = if m ∈ qs then { s.dev.queue m with accepted := (s.dev.queue m).tail } else s.dev.queue m
  | [], s, _ => ⟨s.dev, rfl, rfl, fun m => by simp⟩
  | q :: qs, s, ring => by
    obtain ⟨dev, eq, base, queues⟩ := State.acceptQueue_only ring q
    obtain ⟨dev', eq', base', queues'⟩ := State.acceptQueues_only qs (s.acceptQueue q) (by rw [eq]; exact base ▸ ring)
    rw [eq] at eq' base' queues'
    refine ⟨dev', by rw [List.foldl_cons, eq, eq'], base'.trans base, fun m => (queues' m).trans ?_⟩
    dsimp only
    rw [queues m]
    by_cases own : m = q <;> by_cases later : m ∈ qs <;> simp [own, later]

end Sys2Proof.Machine
end

section
/-! PROOF. O52: the host reaches memory and registers (R209, R314, R405, R416, R420, R424, R429, R430). -/

namespace Sys2Proof.Machine

open Sys2Proof

/-! ## Memory -/

/-- Every job of the device lets the host write these bytes (R209). -/
theorem State.hostMayWrite_iff (s : State) (key n : Nat) : s.hostMayWrite key n = true ↔
    (s.job.running = false ∨ ∀ f ∈ s.revmap, overlaps key n f.1 f.2.1 = true → ∃ w, s.region f.2.2 = some w ∧ codeAllowsHost (writerCode w s.job.superstep s.exchange) = true) ∧
      ∀ j ∈ s.dev.jobs, j.saved = true ∨ Config.otherAllows j.job.jobid s.cycle key n = true := by
  have region (f : Nat × Nat × Nat) : (!overlaps key n f.1 f.2.1 || (match s.region f.2.2 with
      | some e => codeAllowsHost (writerCode e s.job.superstep s.exchange)
      | none => false)) = true ↔
      (overlaps key n f.1 f.2.1 = true → ∃ w, s.region f.2.2 = some w ∧ codeAllowsHost (writerCode w s.job.superstep s.exchange) = true) := by
    cases overlaps key n f.1 f.2.1 <;> cases s.region f.2.2 <;> simp
  unfold State.hostMayWrite
  rw [Bool.and_eq_true, Bool.or_eq_true, Bool.not_eq_true', List.all_eq_true, List.all_eq_true]
  refine and_congr (or_congr_right (forall₂_congr fun f _ => region f)) (forall₂_congr fun j _ => ?_)
  rw [Bool.or_eq_true]

theorem hbmKey_low {a : Nat} (h : a < 2 ^ 40) : hbmKey a = a := (Nat.zero_add _).trans (Nat.mod_eq_of_lt h)

/-- A write by the host or by a peer device is performed at its home (R209, R314). -/
theorem State.written {s : State} {l : List HostReq} (plain : s.unhashed) (day : s.core.snapshot = none) (key : Nat) (bs : List Byte) :
    let t := (({ s with inbox := l } : State).poke noSource key bs).wake
    (t.job = s.job ∧ t.core.matrix.acc = s.core.matrix.acc ∧ t.full = s.full ∧ ∀ m r, (t.ctxAt m).reg r = (s.ctxAt m).reg r) ∧
      t.inbox = l ∧ t.dev = s.dev ∧ t.mem = Memory.write s.mem key bs := by
  dsimp only
  rw [State.poke, State.pokeAs_plain (s := { s with inbox := l }) plain day]
  refine ⟨⟨rfl, rfl, rfl, fun m r => ?_⟩, rfl, rfl, rfl⟩
  rw [State.wake_ctxAt, Ctx.unholdInv_reg]
  rfl

/-- Where no atomic has read the word and not written it, none is written (R286). -/
theorem State.finishUnits_none {s : State} {key n : Nat} (h : s.halfDone key n = false) : s.finishUnits key n = s := by
  obtain ⟨accs, halves⟩ := (Bool.or_eq_false_iff).1 h
  have units : ∀ l : List Acc, (l.any fun a => match a.op with | .unitWrite _ => overlaps a.key a.len key n | _ => false) = false →
      l.foldl (fun t a => match a.op with | .unitWrite _ => if overlaps a.key a.len key n then t.performAcc a else t | _ => t) s = s := by
    intro l
    induction l with
    | nil => exact fun _ => rfl
    | cons a l ih =>
      intro none
      rw [List.any_cons, Bool.or_eq_false_iff] at none
      obtain ⟨here, rest⟩ := none
      rw [List.foldl_cons]
      have same : (match a.op with | .unitWrite _ => if overlaps a.key a.len key n then s.performAcc a else s | _ => s) = s := by
        split
        · next op =>
          rw [op] at here
          exact if_neg (by rw [show overlaps a.key a.len key n = false from here]; exact Bool.false_ne_true)
        · rfl
      exact (congrArg (fun u => List.foldl _ u l) same).trans (ih rest)
  have others : ∀ l : List Half, (l.any fun h => overlaps h.key h.data.length key n) = false →
      l.foldl (fun t h => if overlaps h.key h.data.length key n then t.writeHalf h else t) s = s := by
    intro l
    induction l with
    | nil => exact fun _ => rfl
    | cons x l ih =>
      intro none
      rw [List.any_cons, Bool.or_eq_false_iff] at none
      obtain ⟨here, rest⟩ := none
      rw [List.foldl_cons, if_neg (by rw [here]; exact Bool.false_ne_true)]
      exact ih rest
  exact (congrArg (fun u : State => u.finishHalves key n) (units s.accs accs)).trans (others s.halves halves)

/-- A read-modify-write from outside brings back the old value, and writes later (R286, R424). -/
theorem State.outsideAtomic_swaps {s : State} {key : Nat} {op : Rmw} (b : Word) (none : s.halfDone key (atomicBits op.ty / 8) = false) (good : s.bad = []) :
    let n := atomicBits op.ty / 8
    let old := natOfBytes (Memory.read s.mem key n)
    s.outsideAtomic key op b = { s with
      halves := s.halves ++ [{ seq := s.seq, source := 0xFFFF, key, data := bytesOfNat (op.new old b) n }], seq := s.seq + 1,
      agenda := s.agenda ++ [.accessPerformed s.seq], dev := { s.dev with reply := bytesOfNat old n } } := by
  dsimp only
  unfold State.outsideAtomic
  dsimp only
  rw [State.finishUnits_none none, State.badAt_nil good]
  rfl

/-- Bytes of the module read as they are (R197). -/
theorem State.unitRead_good {s : State} (good : s.bad = []) (key n : Nat) : s.unitRead key n = Memory.read s.mem key n := by
  refine List.ext_getElem (List.length_mapIdx ..) fun i _ _ => ?_
  simp [State.unitRead, State.badAt_nil good, State.peek]

/-! ## Registers -/

/-- A register in the block of a queue (R405). -/
theorem State.bar0Read_queue {s : State} {off : Nat} (low : 0x10000 ≤ off) (high : off < 0x14000) : s.bar0Read off = (s.dev.queue ((off - 0x10000) / 64 % 256)).read (off % 64) :=
  if_pos ⟨low, high⟩

theorem Queue.read_control (x : Queue) : x.read 32 =
    BitVec.ofNat 64 ((if x.en then 1 else 0) + (if x.td then 2 else 0) + x.vec.toNat * 256 + (if x.irq then 65536 else 0)) := by
  have sum : bitAt x.irq 16 + x.vec.toNat * 2 ^ 8 + bitAt x.td 1 + bitAt x.en 0 = (if x.en then 1 else 0) + (if x.td then 2 else 0) + x.vec.toNat * 256 + (if x.irq then 65536 else 0) := by
    simp only [bitAt, pow_zero, pow_one, show 2 ^ 16 = 65536 from rfl]
    omega
  exact congrArg (BitVec.ofNat 64) sum

theorem Queue.read_none {x : Queue} {off : Nat} (h : 0x28 ≤ off) : x.read off = 0 := by
  unfold Queue.read
  split <;> first | omega | rfl

/-- A counter's number among those of the device (R420). -/
theorem counter_number (n : Nat) (k : Fin 16) : (16 * n + k.val) / 16 = n ∧ Fin.ofNat 16 (16 * n + k.val) = k ∧ (16 * n + k.val) % 16 = k.val := by
  have low := k.isLt
  refine ⟨by omega, Fin.ext ?_, by omega⟩
  show (16 * n + k.val) % 16 = k.val
  omega

/-- The registers of this core's counters (R420). -/
theorem State.bar0Read_counter {s : State} (k : Fin 16) (low : s.core.num.toNat < 3072) :
    s.bar0Read (0x100000 + 8 * (16 * s.core.num.toNat + k.val)) = (s.core.counters.get k).word ∧
      s.bar0Read (0x180000 + 8 * (16 * s.core.num.toNat + k.val)) = (s.core.counters.get k).val.setWidth 64 := by
  obtain ⟨own, name, -⟩ := counter_number s.core.num.toNat k
  have small := k.isLt
  constructor
  · have number : (0x100000 + 8 * (16 * s.core.num.toNat + k.val) - 0x100000) / 8 = 16 * s.core.num.toNat + k.val := by omega
    unfold State.bar0Read
    dsimp only
    rw [if_neg (by omega), if_pos ⟨by omega, by omega, (by omega : _ < 3072)⟩, number, if_pos own, name]
  · have number : (0x180000 + 8 * (16 * s.core.num.toNat + k.val) - 0x180000) / 8 = 16 * s.core.num.toNat + k.val := by omega
    unfold State.bar0Read
    dsimp only
    rw [if_neg (by omega), if_neg (by omega), if_pos ⟨by omega, by omega, (by omega : _ < 3072)⟩, number, if_pos own, name]

theorem Counter.word_sum (c : Counter) : c.word = BitVec.ofNat 64 (c.evsel.toNat + (if c.ovf then 2 ^ 61 else 0) + (if c.ovie then 2 ^ 62 else 0) + if c.en then 2 ^ 63 else 0) := by
  refine congrArg (BitVec.ofNat 64) ?_
  simp only [bitAt]
  omega

theorem State.claimWord_sum (s : State) : s.claimWord = BitVec.ofNat 64 (s.dev.dbgJob.toNat + (if s.dev.dbgClaimed then 2 ^ 32 else 0) +
    (if s.dev.dbgStopped && s.dev.dbgClaimed && s.runs s.dev.dbgJob then 2 ^ 33 else 0) + if s.dev.dbgBad then 2 ^ 34 else 0) := by
  refine congrArg (BitVec.ofNat 64) ?_
  simp only [bitAt]
  omega

theorem Device.pwrstWord_sum (d : Device) : d.pwrstWord = BitVec.ofNat 64 (d.pwr.toNat + d.tjmax.toNat * 2 ^ 16 + (if d.throt then 2 ^ 24 else 0) + if d.hot then 2 ^ 25 else 0) := by
  refine congrArg (BitVec.ofNat 64) ?_
  simp only [bitAt]
  omega

/-- PMCSR shows the power state and No_Soft_Reset (R430). -/
theorem Device.configRead_pmcsr (d : Device) : (d.configRead Config.pmcsr).getLsbD 3 = true ∧
    natBits (d.configRead Config.pmcsr).toNat 1 0 = (if d.power = .d0 then 0 else 3) ∧
      ∀ k, k ≠ 0 → k ≠ 1 → k ≠ 3 → (d.configRead Config.pmcsr).getLsbD k = (Config.configSpace Config.pmcsr).getLsbD k := by
  have eq : d.configRead Config.pmcsr = (Config.configSpace Config.pmcsr &&& ~~~3#32) ||| 8#32 ||| d.power.code.setWidth 32 := if_pos rfl
  rw [eq]
  generalize Config.configSpace Config.pmcsr = w
  have state : ((w &&& ~~~3#32) ||| 8#32 ||| d.power.code.setWidth 32).setWidth 2 = d.power.code := by
    refine BitVec.eq_of_getLsbD_eq fun i hi => ?_
    match i, hi with
    | 0, _ => simp
    | 1, _ => simp
  have flag : (d.power.code.setWidth 32 : BitVec 32).getLsbD 3 = false := by simp
  refine ⟨by simp, ?_, fun k zero one three => ?_⟩
  · have number := congrArg BitVec.toNat state
    rw [BitVec.toNat_setWidth] at number
    rw [natBits, Nat.pow_zero, Nat.div_one]
    refine number.trans ?_
    cases d.power <;> rfl
  · by_cases wide : k < 32
    · have three' : (8#32 : BitVec 32).getLsbD k = false := by
        rw [show (8#32 : BitVec 32) = BitVec.twoPow 32 3 from rfl, BitVec.getLsbD_twoPow]
        simp [Ne.symm three]
      have two : (3#32 : BitVec 32).getLsbD k = false := by
        show Nat.testBit 3 k = false
        rw [show 3 = 2 ^ 2 - 1 from rfl, Nat.testBit_two_pow_sub_one]
        exact decide_eq_false (by omega)
      have code : (d.power.code.setWidth 32 : BitVec 32).getLsbD k = false := by
        rw [BitVec.getLsbD_setWidth, BitVec.getLsbD_of_ge _ _ (by omega), Bool.and_false]
      rw [BitVec.getLsbD_or, BitVec.getLsbD_or, BitVec.getLsbD_and, BitVec.getLsbD_not, three', two, code]
      simp [wide]
    · rw [BitVec.getLsbD_of_ge _ _ (by omega), BitVec.getLsbD_of_ge _ _ (by omega)]

/-! ## What the outside asks for -/

theorem hostOp_iff (r : HostReq) : hostOp r = true ↔ (r.compare.isSome = true ∨ r.op = .add ∨ r.op = .swap) ∧ r.addr % (atomicBits r.ty / 8) = 0 ∧ r.addr < 2 ^ 40 := by
  simp [hostOp, or_assoc, and_assoc]

theorem State.hostReaches_iff (s : State) : s.hostReaches = true ↔ s.dev.hostLink = true ∧ s.dev.power = .d0 := by
  simp [State.hostReaches]

/-- A host access that a region refuses (R11, R209). -/
theorem State.refuseHost_logs {s : State} (l : List HostReq) (a : Nat) (unset : s.dev.elbase = 0) (room : s.dev.lost ≠ BitVec.allOnes 32) :
    ({ s with inbox := l } : State).refuseHost a = { s with inbox := l, dev := { s.dev with lost := s.dev.lost + 1, reply := [] } } := by
  unfold State.refuseHost State.logFor State.answer
  dsimp only
  rw [if_pos (.inl unset), if_neg room]

/-- What the host asks of module memory (R209, R314, R424). -/
theorem State.hostReaches_memory {s : State} {r : HostReq} {l : List HostReq} (h : s.inbox = r :: l) :
    exec .hostWrite s = .next (if s.hostReaches = false ∨ 2 ^ 40 < r.addr + r.data.length then { s with inbox := l }
      else if s.hostMayWrite (hbmKey r.addr) r.data.length then (({ s with inbox := l } : State).poke noSource (hbmKey r.addr) r.data).wake
      else ({ s with inbox := l } : State).refuseHost r.addr) ∧
    exec .hostRead s = .next (if s.hostReaches = false then { s with inbox := l }
      else if r.bar0 then ({ s with inbox := l } : State).answer (bytesOfNat (s.bar0Read r.addr).toNat 8)
      else if 2 ^ 40 < r.addr + r.n then { s with inbox := l }
      else ({ s with inbox := l } : State).answer (({ s with inbox := l } : State).unitRead (hbmKey r.addr) r.n)) ∧
    exec .hostAtomicop s = .next (if s.hostReaches = false ∨ hostOp r = false then { s with inbox := l }
      else if s.hostMayWrite (hbmKey r.addr) (atomicBits r.ty / 8) then ({ s with inbox := l } : State).outsideAtomic (hbmKey r.addr) (reqAtomic r) r.value
      else ({ s with inbox := l } : State).refuseHost r.addr) ∧
    exec .peerDeviceAccess s = .next (if 2 ^ 40 ≤ r.addr ∨ s.dev.power ≠ .d0 then { s with inbox := l }
      else if r.write then (({ s with inbox := l } : State).poke noSource (hbmKey r.addr) r.data).wake
      else if r.n = 0 then ({ s with inbox := l } : State).outsideAtomic (hbmKey r.addr) (reqAtomic r) r.value
      else ({ s with inbox := l } : State).answer (({ s with inbox := l } : State).unitRead (hbmKey r.addr) r.n)) := by
  refine ⟨exec_brought (k := fun r s => if s.hostReaches = false ∨ 2 ^ 40 < r.addr + r.data.length then s
      else if s.hostMayWrite (hbmKey r.addr) r.data.length then (s.poke noSource (hbmKey r.addr) r.data).wake else s.refuseHost r.addr) rfl h,
    exec_brought (k := fun r s => if s.hostReaches = false then s
      else if r.bar0 then s.answer (bytesOfNat (s.bar0Read r.addr).toNat 8)
      else if 2 ^ 40 < r.addr + r.n then s else s.answer (s.unitRead (hbmKey r.addr) r.n)) rfl h,
    exec_brought (k := fun r s => if s.hostReaches = false ∨ hostOp r = false then s
      else if s.hostMayWrite (hbmKey r.addr) (atomicBits r.ty / 8) then s.outsideAtomic (hbmKey r.addr) (reqAtomic r) r.value else s.refuseHost r.addr) rfl h,
    exec_brought (k := fun r s => if 2 ^ 40 ≤ r.addr ∨ s.dev.power ≠ .d0 then s
      else if r.write then (s.poke noSource (hbmKey r.addr) r.data).wake
      else if r.n = 0 then s.outsideAtomic (hbmKey r.addr) (reqAtomic r) r.value
      else s.answer (s.unitRead (hbmKey r.addr) r.n)) rfl h⟩

theorem reqAtomic_ty (r : HostReq) : (reqAtomic r).ty = r.ty := by
  unfold reqAtomic
  split <;> rfl

/-- A manifest of a JOBID that has one only (R416). -/
theorem find_manifest {l : List (BitVec 32 × List Byte)} {m : BitVec 32 × List Byte} (listed : m ∈ l) (unique : ∀ u ∈ l, u.1 = m.1 → u = m) :
    l.reverse.find? (fun u => decide (u.1.toNat = m.1.toNat)) = some m := by
  cases found : l.reverse.find? fun u => decide (u.1.toNat = m.1.toNat) with
  | none => exact absurd (decide_eq_true rfl) (List.find?_eq_none.1 found m (List.mem_reverse.2 listed))
  | some u =>
    have same : u.1.toNat = m.1.toNat := by simpa using List.find?_some found
    rw [unique u (List.mem_reverse.1 (List.mem_of_find?_eq_some found)) (BitVec.eq_of_toNat_eq same)]

theorem exec_vendor {s : State} {r : HostReq} {l : List HostReq} (h : s.inbox = r :: l) : exec .vendorDefinedRequest s =
    .next (match s.dev.manifests.reverse.find? fun m => decide (m.1.toNat = r.addr) with
      | some m => ({ s with inbox := l } : State).answer m.2
      | none => ({ s with inbox := l } : State).answer []) :=
  exec_brought (k := fun r s => match s.dev.manifests.reverse.find? fun m => decide (m.1.toNat = r.addr) with
    | some m => s.answer m.2
    | none => s.answer []) rfl h

/-- A counter with its configuration written: OVF is cleared by a one (R420). -/
def Counter.configured (c : Counter) (v : Word) : Counter :=
  { en := v.getLsbD 63, ovie := v.getLsbD 62, ovf := c.ovf && !v.getLsbD 61, evsel := v.setWidth 8, val := if v.getLsbD 61 then 0 else c.val }

theorem Counter.configured_eq (c : Counter) (v : Word) : c.configured v =
    if v.getLsbD 61 then { en := v.getLsbD 63, ovie := v.getLsbD 62, ovf := false, evsel := v.setWidth 8, val := 0 }
    else { c with en := v.getLsbD 63, ovie := v.getLsbD 62, evsel := v.setWidth 8 } := by
  unfold Counter.configured
  cases v.getLsbD 61 <;> simp

/-- A counter of this core is configured (R420). -/
theorem exec_cntcfg {s : State} {r : HostReq} {l : List HostReq} {k : Fin 16} (h : s.inbox = r :: l) (number : (r.addr - 0x100000) / 8 = 16 * s.core.num.toNat + k.val)
    (low : s.core.num.toNat < 3072) : ∃ t, exec .cntcfg s = .next t ∧ t = { s with
      inbox := l, core := { s.core with counters := s.core.counters.set k.val ((s.core.counters.get k).configured r.value) k.isLt } } := by
  obtain ⟨own, name, place⟩ := counter_number s.core.num.toNat k
  have small : ¬ Config.cores ≤ s.core.num.toNat := Nat.not_le.2 low
  refine ⟨_, exec_brought (e := .cntcfg) rfl h, ?_⟩
  dsimp only
  simp only [number, own, place, name]
  rw [if_neg small, if_pos trivial]
  rfl

/-- Settles O52: what the host and the peer devices ask for comes to its home, is refused and logged, or is answered from the registers. -/
theorem theHostReachesMemoryAndRegisters : Obligations.TheHostReachesMemoryAndRegisters := by
  unfold Obligations.TheHostReachesMemoryAndRegisters
  intro s quiet calm
  refine ⟨⟨exec_quiet rfl, exec_quiet rfl, exec_quiet rfl, exec_quiet rfl, exec_quiet rfl, exec_quiet rfl, exec_quiet rfl, exec_quiet rfl, exec_quiet rfl, exec_quiet rfl⟩, rfl, rfl, fun r l brought => ?_⟩
  intro key replies nothing rgn allowed w old op swaps writes refused proper up
  obtain ⟨write, read, atomic, peer⟩ := State.hostReaches_memory brought
  have reach : s.hostReaches = true ↔ up := s.hostReaches_iff
  have may (n : Nat) : s.hostMayWrite key n = true ↔ allowed n := s.hostMayWrite_iff key n
  have written {e : Instr} (run : exec e s = .next (({ s with inbox := l } : State).poke noSource key r.data).wake) : writes e := fun plain day =>
    ⟨_, run, State.written plain day key r.data⟩
  have swapped {e : Instr} (run : exec e s = .next (({ s with inbox := l } : State).outsideAtomic key (reqAtomic r) r.value)) : swaps e := fun none good => by
    rw [State.outsideAtomic_swaps (s := { s with inbox := l }) r.value (by rw [reqAtomic_ty]; exact none) good, reqAtomic_ty] at run
    exact ⟨_, run, ⟨rfl, rfl, rfl, fun _ _ => rfl⟩, rfl, rfl, rfl, List.mem_append_right _ (List.mem_singleton.2 rfl), rfl⟩
  have refuses {e : Instr} (run : exec e s = .next (({ s with inbox := l } : State).refuseHost r.addr)) : refused e := fun unset room => by
    rw [run, State.refuseHost_logs l r.addr unset room]
  refine ⟨fun down => ?_, fun on => ?_, fun off => ?_, fun low on => ?_, fun first last => ?_, fun other => ?_,
    exec_brought (k := fun r s => s.answer (bytesOfNat (Config.spdmReply r.addr).toNat 8)) rfl brought, fun absent => ?_, fun m listed here unique => ?_,
    fun early => ?_, fun ready => ?_, ?_, fun k here low => ?_⟩
  · have no : s.hostReaches = false := Bool.eq_false_iff.2 fun yes => down (reach.1 yes)
    rw [if_pos (.inl no)] at write atomic
    rw [if_pos no] at read
    exact ⟨write, read, atomic⟩
  · have yes : ¬ s.hostReaches = false := by rw [reach.2 on]; exact Bool.noConfusion
    rw [if_neg yes] at read
    refine ⟨fun past => ?_, fun low fits => ?_, fun module past => ?_, fun module low fits good => ?_, fun wrong => ?_, fun right => ?_, fun register => ?_⟩
    · exact write.trans (by rw [if_pos (.inr past)])
    · rw [if_neg (not_or.2 ⟨yes, Nat.not_lt.2 fits⟩), hbmKey_low low] at write
      refine ⟨fun granted => ?_, fun forbidden => ?_⟩
      · rw [if_pos ((may _).2 granted)] at write
        exact written write
      · rw [if_neg fun h => forbidden ((may _).1 h)] at write
        exact refuses write
    · exact read.trans (by rw [if_neg (by rw [module]; exact Bool.false_ne_true), if_pos past])
    · rw [if_neg (by rw [module]; exact Bool.false_ne_true), if_neg (Nat.not_lt.2 fits), hbmKey_low low, State.unitRead_good (s := { s with inbox := l }) good] at read
      exact read
    · exact atomic.trans (by rw [if_pos (.inr (Bool.eq_false_iff.2 fun h => wrong ((hostOp_iff r).1 h)))])
    · rw [if_neg (not_or.2 ⟨yes, by rw [(hostOp_iff r).2 right]; exact Bool.noConfusion⟩), hbmKey_low right.2.2] at atomic
      refine ⟨fun granted => ?_, fun forbidden => ?_⟩
      · rw [if_pos ((may _).2 granted)] at atomic
        exact swapped atomic
      · rw [if_neg fun h => forbidden ((may _).1 h)] at atomic
        exact refuses atomic
    · rw [if_pos register] at read
      intro reads x
      have shows {v : Word} (h : s.bar0Read r.addr = v) : reads v := by
        rw [h] at read
        exact read
      refine ⟨fun low high => ?_, fun h => shows ?_, fun h => shows ?_, fun h => shows ?_, fun h => shows ?_, fun h => shows ?_, fun h => shows ?_, fun h => shows ?_, fun h => shows ?_,
        fun h => shows ?_, fun k h low => ?_, fun k h low => shows ?_⟩
      · have block := s.bar0Read_queue low high
        refine ⟨fun h => shows ?_, fun h => shows ?_, fun h => shows ?_, fun h => shows ?_, fun h => shows ?_, fun h => shows ?_⟩
        · rw [block, h]; rfl
        · rw [block, h]; rfl
        · rw [block, h]; rfl
        · rw [block, h]; rfl
        · rw [block, h]; exact x.read_control
        · rw [block]; exact Queue.read_none h
      · rw [h, Nat.add_comm]; rfl
      · rw [h]; exact s.dev.pwrstWord_sum
      · rw [h]; rfl
      · rw [h]; rfl
      · rw [h]; rfl
      · rw [h]; rfl
      · rw [h]; rfl
      · rw [h]; rfl
      · rw [h]; exact s.claimWord_sum
      · intro c
        refine shows ?_
        rw [h, (State.bar0Read_counter k low).1, Counter.word_sum]
      · rw [h, (State.bar0Read_counter k low).2]
  · rw [if_pos off] at peer
    exact peer
  · rw [if_neg (not_or.2 ⟨Nat.not_le.2 low, not_not.2 on⟩), hbmKey_low low] at peer
    refine ⟨fun writes => ?_, fun reads none => ?_, fun reads some good => ?_⟩
    · rw [if_pos writes] at peer
      exact written peer
    · rw [if_neg (by rw [reads]; exact Bool.false_ne_true), if_pos none] at peer
      exact swapped peer
    · rw [if_neg (by rw [reads]; exact Bool.false_ne_true), if_neg some, State.unitRead_good (s := { s with inbox := l }) good] at peer
      exact peer
  · have run := exec_brought (e := .getMeasurements) (k := fun r s => if 1 ≤ r.addr ∧ r.addr ≤ 8 then s.answer (bytesOfNat (Config.firmwareMeasurement r.addr).toNat 64)
      else s.answer (bytesOfNat (Config.spdmReply r.addr).toNat 8)) rfl brought
    rw [if_pos ⟨first, last⟩] at run
    exact run
  · have run := exec_brought (e := .getMeasurements) (k := fun r s => if 1 ≤ r.addr ∧ r.addr ≤ 8 then s.answer (bytesOfNat (Config.firmwareMeasurement r.addr).toNat 64)
      else s.answer (bytesOfNat (Config.spdmReply r.addr).toNat 8)) rfl brought
    rw [if_neg (by omega)] at run
    exact run
  · have run := exec_vendor brought
    rw [List.find?_eq_none.2 fun m hm e => absent m (List.mem_reverse.1 hm) (of_decide_eq_true e)] at run
    exact run
  · have run := exec_vendor brought
    rw [← here, find_manifest listed unique] at run
    exact run
  · have run := exec_brought (e := .configurationSpaceAccess) (k := fun r s => s.answer (if s.dev.bringUp < 5 then [] else bytesOfNat (s.dev.configRead r.addr).toNat 4)) rfl brought
    rw [if_pos early] at run
    exact run
  · have run := exec_brought (e := .configurationSpaceAccess) (k := fun r s => s.answer (if s.dev.bringUp < 5 then [] else bytesOfNat (s.dev.configRead r.addr).toNat 4)) rfl brought
    rw [if_neg (Nat.not_lt.2 ready)] at run
    refine ⟨_, run, fun other => if_neg other, fun pmcsr => ?_⟩
    rw [pmcsr]
    exact s.dev.configRead_pmcsr
  · have run := exec_brought (e := .elbase) (k := fun r s => (s.dev.queues.map (·.1)).foldl State.acceptQueue { s with dev := { s.dev with elbase := r.value &&& ~~~0xFFF#64 } }) rfl brought
    by_cases set : r.value &&& ~~~0xFFF#64 = 0
    · rw [State.acceptQueues_unset set] at run
      exact ⟨_, run, rfl, rfl, rfl, fun ne => absurd set ne⟩
    · obtain ⟨dev, eq, base, queues⟩ := State.acceptQueues_only (s.dev.queues.map (·.1)) ({ s with inbox := l, dev := { s.dev with elbase := r.value &&& ~~~0xFFF#64 } } : State) set
      rw [eq] at run
      exact ⟨_, run, rfl, rfl, base, fun _ q listed => (queues q).trans (if_pos listed)⟩
  · obtain ⟨own, name, place⟩ := counter_number s.core.num.toNat k
    have number : (r.addr - 0x100000) / 8 = 16 * s.core.num.toNat + k.val := by rw [here]; omega
    obtain ⟨t, run, eq⟩ := exec_cntcfg brought number low
    rw [eq] at run
    refine ⟨_, run, rfl, rfl, rfl, fun j ne => get_set_ne _ _ _ _ ne.symm, ?_⟩
    exact (get_set_self s.core.counters k _ k.isLt).trans (Counter.configured_eq _ _)

end Sys2Proof.Machine
end

section
/-! SUPPORT. Completion records, byte by byte (R407, R412). -/

namespace Sys2Proof.Machine

theorem length_recordTail (start finish count logged : Word) : (recordTail start finish count logged).length = 56 := by
  simp [recordTail, length_bytesOfNat]

theorem bytesOfNat_eight (v : Nat) : bytesOfNat v 8 = bytesOfNat v 7 ++ bytesOfNat (v / 2 ^ 56) 1 := by
  simp [bytesOfNat, Nat.div_div_eq_div_mul]

/-- A record stands whole at its place, while the host's link is up or is not needed. -/
theorem State.writeRecord_bytes (s : State) (compl : Word) (evt q status dword0 : Nat) (start finish count logged : Word)
    (up : compl.getLsbD 63 = true → s.dev.hostLink = true) (k : Nat) :
    Memory.byte (s.writeRecord compl evt q status dword0 start finish count logged).mem k =
      if complKey compl ≤ k ∧ k < complKey compl + 64 then (bytesOfNat dword0 8 ++ recordTail start finish count logged).getD (k - complKey compl) 0 else Memory.byte s.mem k := by
  have reaches : ¬ (compl.getLsbD 63 && !s.dev.hostLink) = true := by
    cases outside : compl.getLsbD 63
    · rw [Bool.false_and]; exact Bool.false_ne_true
    · rw [up outside]; exact Bool.false_ne_true
  have mem : (s.writeRecord compl evt q status dword0 start finish count logged).mem = Memory.write (Memory.write (Memory.write s.mem (complKey compl + 8) (recordTail start finish count logged))
      (complKey compl) (bytesOfNat dword0 7)) (complKey compl + 7) (bytesOfNat (dword0 / 2 ^ 56) 1) := if_neg reaches
  rw [mem, Memory.byte_write, Memory.byte_write, Memory.byte_write, length_bytesOfNat, length_bytesOfNat, length_recordTail, bytesOfNat_eight]
  generalize complKey compl = key
  by_cases here : key ≤ k ∧ k < key + 64
  · rw [if_pos here]
    obtain ⟨i, rfl⟩ := Nat.exists_eq_add_of_le here.1
    have small : i < 64 := by omega
    rw [Nat.add_sub_cancel_left]
    have seven : (bytesOfNat dword0 7 ++ bytesOfNat (dword0 / 2 ^ 56) 1).length = 8 := by rw [List.length_append, length_bytesOfNat, length_bytesOfNat]
    by_cases low : i < 7
    · rw [if_neg (by omega), if_pos (by omega), List.getD_append _ _ _ _ (by omega), List.getD_append _ _ _ _ (by rw [length_bytesOfNat]; omega)]
    · by_cases last : i = 7
      · rw [if_pos (by omega), last, List.getD_append _ _ _ _ (by omega), List.getD_append_right _ _ _ _ (by rw [length_bytesOfNat]), length_bytesOfNat, Nat.sub_self, Nat.sub_self]
      · rw [if_neg (by omega), if_neg (by omega), if_pos (by omega), List.getD_append_right _ _ _ _ (by omega), seven]
        exact congrArg (fun n => (recordTail start finish count logged).getD n 0) (by omega)
  · rw [if_neg here, if_neg (by omega), if_neg (by omega), if_neg (by omega)]

/-- A byte of the record's first dword. -/
theorem State.writeRecord_dword (s : State) (compl : Word) (evt q status dword0 : Nat) (start finish count logged : Word)
    (up : compl.getLsbD 63 = true → s.dev.hostLink = true) {i : Nat} (h : i < 8) :
    Memory.byte (s.writeRecord compl evt q status dword0 start finish count logged).mem (complKey compl + i) = BitVec.ofNat 8 (dword0 / 256 ^ i) := by
  rw [State.writeRecord_bytes s compl evt q status dword0 start finish count logged up, if_pos ⟨Nat.le_add_right _ _, by omega⟩, Nat.add_sub_cancel_left,
    List.getD_append _ _ _ _ (by rw [length_bytesOfNat]; exact h), getD_bytesOfNat _ h]

/-- What a record writes of the device: an event, and the vector of the queue (R406, R411). -/
theorem State.writeRecord_only (s : State) (compl : Word) (evt q status dword0 : Nat) (start finish count logged : Word) :
    let t := s.writeRecord compl evt q status dword0 start finish count logged
    { t with dev := s.dev, mem := s.mem } = s ∧ { t.dev with events := s.dev.events, msix := s.dev.msix } = s.dev ∧
      t.dev.msix = (if (s.dev.queue q).irq then s.dev.msix ++ [(s.dev.queue q).vec] else s.dev.msix) ∧
      ∀ e, Sparse.get EventState.done t.dev.events e = if e = evt ∧ evt ≠ 0 then (if status = 1 then .done else .failed) else Sparse.get EventState.done s.dev.events e := by
  have settled (n : Nat) (x : EventState) : ∃ events, s.dev.settleEvent n x = { s.dev with events } ∧
      ∀ e, Sparse.get EventState.done events e = if e = n ∧ n ≠ 0 then x else Sparse.get EventState.done s.dev.events e := by
    unfold Device.settleEvent
    split
    · next zero => exact ⟨s.dev.events, rfl, fun e => by rw [if_neg fun h => h.2 zero]⟩
    · next real => exact ⟨_, rfl, fun e => by rw [Sparse.get_set]; simp [real]⟩
  obtain ⟨events, eq, get⟩ := settled evt (if status = 1 then .done else .failed)
  unfold State.writeRecord Device.raiseIrq
  dsimp only
  rw [eq]
  have queue : ({ s.dev with events } : Device).queue q = s.dev.queue q := rfl
  rw [queue]
  split
  · exact ⟨rfl, rfl, rfl, get⟩
  · exact ⟨rfl, rfl, rfl, get⟩

theorem State.writeRecord_queue (s : State) (compl : Word) (evt q status dword0 : Nat) (start finish count logged : Word) (m : Nat) :
    (s.writeRecord compl evt q status dword0 start finish count logged).dev.queue m = s.dev.queue m := by
  obtain ⟨-, dev, -⟩ := s.writeRecord_only compl evt q status dword0 start finish count logged
  have queues : (s.writeRecord compl evt q status dword0 start finish count logged).dev.queues = s.dev.queues := congrArg (·.queues) dev
  exact congrArg (fun qs => Sparse.get Queue.reset qs m) queues

/-- The first dwords of the record of a packet that never ran (R412). -/
theorem neverRan_bytes {status reason : Nat} (jobid : BitVec 32) (time : Word) (i : Nat) :
    (bytesOfNat (recordDword status reason false false false false jobid) 8 ++ recordTail 0 time 0 0).getD i 0 =
      (bytesOfNat (status * 2 ^ 56 + reason * 2 ^ 48 + jobid.toNat) 8 ++ bytesOfNat 0 8 ++ bytesOfNat time.toNat 8).getD i 0 := by
  have dword : recordDword status reason false false false false jobid = status * 2 ^ 56 + reason * 2 ^ 48 + jobid.toNat := by
    simp [recordDword, bitAt]
  have zeros : bytesOfNat 0 8 ++ bytesOfNat 0 8 ++ List.replicate 24 (0 : Byte) = List.replicate 40 0 := by decide
  have split : bytesOfNat (recordDword status reason false false false false jobid) 8 ++ recordTail 0 time 0 0 =
      (bytesOfNat (status * 2 ^ 56 + reason * 2 ^ 48 + jobid.toNat) 8 ++ bytesOfNat 0 8 ++ bytesOfNat time.toNat 8) ++ List.replicate 40 0 := by
    rw [dword, ← zeros, recordTail]
    simp only [List.append_assoc]
    rfl
  rw [split]
  by_cases low : i < 24
  · exact List.getD_append _ _ _ _ (by simpa using low)
  · rw [List.getD_append_right _ _ _ _ (by simpa using low), List.getD_eq_default (_ ++ _) _ (by simpa using low)]
    rw [List.getD_eq_getElem?_getD]
    exact List.getElem?_getD_replicate_default_eq ..

/-- A packet that never ran leaves the ring, with its record (R405, R412). -/
structure State.gone (s t : State) (q : Nat) (p : Packet) (clash : Bool) (status reason : Nat) : Prop where
  only : { t with dev := s.dev, mem := s.mem } = s
  queue : t.dev.queue q = { s.dev.queue q with head := (s.dev.queue q).head + 1 }
  others : ∀ m, m ≠ q → t.dev.queue m = s.dev.queue m
  jobs : t.dev.jobs = s.dev.jobs
  bytes : ∀ k, Memory.byte t.mem k = if complKey p.compl ≤ k ∧ k < complKey p.compl + 64 then
    (bytesOfNat (status * 2 ^ 56 + reason * 2 ^ 48 + p.jobid.toNat) 8 ++ bytesOfNat 0 8 ++ bytesOfNat s.dev.devtime.toNat 8).getD (k - complKey p.compl) 0 else Memory.byte s.mem k
  msix : t.dev.msix = if (s.dev.queue q).irq then s.dev.msix ++ [(s.dev.queue q).vec] else s.dev.msix
  events : ∀ e, Sparse.get EventState.done t.dev.events e = if e = p.evt ∧ e ≠ 0 ∧ clash = false then .failed else Sparse.get EventState.done s.dev.events e

theorem State.neverRan_gone (s : State) (q : Nat) (p : Packet) (clash : Bool) {status : Nat} (reason : Nat) (failed : status ≠ 1)
    (up : p.compl.getLsbD 63 = true → s.dev.hostLink = true) : s.gone ((s.neverRan q p clash status reason).advanceHead q) q p clash status reason := by
  have bytes := s.writeRecord_bytes p.compl (if clash then 0 else p.evt) q status (recordDword status reason false false false false p.jobid) 0 s.dev.devtime 0 0 up
  have queue := s.writeRecord_queue p.compl (if clash then 0 else p.evt) q status (recordDword status reason false false false false p.jobid) 0 s.dev.devtime 0 0
  obtain ⟨only, dev, msix, events⟩ := s.writeRecord_only p.compl (if clash then 0 else p.evt) q status (recordDword status reason false false false false p.jobid) 0 s.dev.devtime 0 0
  unfold State.neverRan
  generalize s.writeRecord p.compl (if clash then 0 else p.evt) q status (recordDword status reason false false false false p.jobid) 0 s.dev.devtime 0 0 = u at bytes queue only dev msix events
  unfold State.advanceHead
  dsimp only
  refine ⟨only, ?_, fun m ne => ?_, ?_, fun k => ?_, msix, fun e => ?_⟩
  · refine (Device.queue_setQueue u.dev q q _).trans ((if_pos rfl).trans ?_)
    rw [queue]
  · exact (Device.queue_setQueue u.dev q m _).trans ((if_neg ne).trans (queue m))
  · exact (congrArg Device.jobs dev :)
  · refine (bytes k).trans ?_
    rw [neverRan_bytes]
  · refine (events e).trans ?_
    rw [if_neg failed]
    refine ite_congr (propext ?_) (fun _ => rfl) fun _ => rfl
    cases clash
    · simp only [Bool.false_eq_true, if_false, and_true]
      exact and_congr_right fun eq => by rw [eq]
    · simp

end Sys2Proof.Machine
end

section
/-! PROOF. O51: the host's queues (R405, R411, R414). -/

namespace Sys2Proof.Machine

open Sys2Proof

/-! ## Writes of a queue's registers -/

/-- A write to a queue's register that is ignored (R11, R405). -/
theorem State.ignoreWrite_logs (s : State) (off : Nat) :
    (s.dev.elbase = 0 → s.dev.lost ≠ BitVec.allOnes 32 → s.ignoreWrite off = { s with dev := { s.dev with lost := s.dev.lost + 1, reply := [] } }) ∧
      (s.dev.elbase ≠ 0 → (s.dev.elprod - s.dev.elcons).toNat < 2 ^ (s.dev.elsize.toNat + 7) → s.ignoreWrite off = { s with
        dev := { s.dev with elprod := s.dev.elprod + 1, reply := [] },
        mem := Memory.write s.mem (hbmKey (s.dev.elbase.toNat + 32 * (s.dev.elprod.toNat % 2 ^ (s.dev.elsize.toNat + 7))))
          (bytesOfNat 1 1 ++ bytesOfNat 0 1 ++ bytesOfNat 0xFFFF 2 ++ bytesOfNat 0 12 ++ bytesOfNat s.dev.devtime.toNat 8 ++ bytesOfNat (off % 2 ^ 64) 8) }) := by
  refine ⟨fun unset room => ?_, fun ring room => ?_⟩
  · unfold State.ignoreWrite State.logFor State.answer
    dsimp only
    rw [if_pos (.inl unset), if_neg room]
  · have full : ¬ (s.dev.elbase = 0 ∨ s.dev.elCapacity ≤ (s.dev.elprod - s.dev.elcons).toNat) := by
      rintro (none | full)
      · exact ring none
      · exact absurd room (Nat.not_lt.2 full)
    have bytes : logBytes 1 0 0xFFFF 0 0 0 s.dev.devtime (BitVec.ofNat 64 off) =
        bytesOfNat 1 1 ++ bytesOfNat 0 1 ++ bytesOfNat 0xFFFF 2 ++ bytesOfNat 0 12 ++ bytesOfNat s.dev.devtime.toNat 8 ++ bytesOfNat (off % 2 ^ 64) 8 := by
      simp [logBytes, bytesOfNat]
    unfold State.ignoreWrite State.logFor State.answer
    dsimp only
    rw [if_neg full, ← bytes]
    rfl

/-- Only the queue named has changed. -/
theorem State.modQueue_only (s : State) (q : Nat) (f : Queue → Queue) : { (s.modQueue q f) with dev := s.dev } = s ∧ { (s.modQueue q f).dev with queues := s.dev.queues } = s.dev ∧
    (∀ m, m ≠ q → (s.modQueue q f).dev.queue m = s.dev.queue m) ∧ (s.modQueue q f).dev.queue q = f (s.dev.queue q) :=
  ⟨rfl, rfl, fun m ne => (s.dev.queue_setQueue q m _).trans (if_neg ne), (s.dev.queue_setQueue q q _).trans (if_pos rfl)⟩

/-- A QTAIL write that is taken moves the tail, and what waits is accepted (R405, R411). -/
theorem State.writeTail_takes {s : State} {off : Nat} {v : Word} (on : (s.dev.queue (queueOf off)).en = true)
    (forward : ((s.dev.queue (queueOf off)).tail - (s.dev.queue (queueOf off)).head).toNat ≤ (v.setWidth 32 - (s.dev.queue (queueOf off)).head).toNat)
    (room : (v.setWidth 32 - (s.dev.queue (queueOf off)).head).toNat ≤ 2 ^ ((s.dev.queue (queueOf off)).size.toNat + 4)) :
    s.writeTail off v = (s.modQueue (queueOf off) fun x => { x with tail := v.setWidth 32 }).acceptQueue (queueOf off) := by
  unfold State.writeTail
  dsimp only
  rw [if_neg]
  rintro (disabled | back | wide)
  · rw [on] at disabled; exact Bool.noConfusion disabled
  · omega
  · omega

theorem State.writeTail_ignores {s : State} {off : Nat} {v : Word} (h : ¬ ((s.dev.queue (queueOf off)).en = true ∧
    ((s.dev.queue (queueOf off)).tail - (s.dev.queue (queueOf off)).head).toNat ≤ (v.setWidth 32 - (s.dev.queue (queueOf off)).head).toNat ∧
      (v.setWidth 32 - (s.dev.queue (queueOf off)).head).toNat ≤ 2 ^ ((s.dev.queue (queueOf off)).size.toNat + 4))) : s.writeTail off v = s.ignoreWrite off := by
  unfold State.writeTail
  dsimp only
  rw [if_pos]
  by_contra taken
  obtain ⟨on, forward, room⟩ := (not_or.1 taken).imp_right not_or.1
  exact h ⟨Bool.of_not_eq_false on, Nat.not_lt.1 forward, Nat.not_lt.1 room⟩

/-- A packet is read by its ring's base and size. -/
theorem State.packetAt_modQueue (s : State) (q : Nat) {f : Queue → Queue} (base : (f (s.dev.queue q)).base = (s.dev.queue q).base)
    (size : (f (s.dev.queue q)).size = (s.dev.queue q).size) (i : BitVec 32) : (s.modQueue q f).packetAt q i = s.packetAt q i := by
  have queue := (s.modQueue_only q f).2.2.2
  unfold State.packetAt State.packetBytes
  dsimp only
  rw [queue, base, size]
  rfl

/-- One packet is accepted (R411). -/
theorem State.acceptPacket_one (s : State) (q : Nat) (i : BitVec 32) : let ev := (s.packetAt q i).evt
    ∃ events clashes, s.acceptPacket q i = { s with dev := { s.dev with events, clashes } } ∧
      (ev ≠ 0 → ∀ e, Sparse.get EventState.done events e = if e = ev then .pending else Sparse.get EventState.done s.dev.events e) ∧
      (ev ≠ 0 → Sparse.get EventState.done s.dev.events ev = .pending → clashes = s.dev.clashes ++ [(q, i)]) ∧
      (ev = 0 ∨ Sparse.get EventState.done s.dev.events ev ≠ .pending → clashes = s.dev.clashes) := by
  intro ev
  unfold State.acceptPacket Device.settleEvent
  dsimp only
  by_cases none : ev = 0
  · exact ⟨s.dev.events, s.dev.clashes, if_pos none, fun real => absurd none real, fun real => absurd none real, fun _ => rfl⟩
  · rw [if_neg none]
    by_cases waits : Sparse.get EventState.done s.dev.events ev = .pending
    · refine ⟨s.dev.events, s.dev.clashes ++ [(q, i)], if_pos waits, fun _ e => ?_, fun _ _ => rfl, fun free => ?_⟩
      · by_cases own : e = ev
        · rw [if_pos own, own, waits]
        · rw [if_neg own]
      · exact absurd waits (free.resolve_left none)
    · refine ⟨Sparse.set EventState.done s.dev.events ev .pending, s.dev.clashes, (if_neg waits).trans ?_, fun _ e => Sparse.get_set .., fun _ pending => absurd pending waits, fun _ => rfl⟩
      rw [if_neg none]

/-- What a taken QTAIL write leaves (R405, R411). -/
theorem State.writeTail_accepts {s : State} {off : Nat} {v : Word} (ring : s.dev.elbase ≠ 0) : let q := queueOf off
    let x := s.dev.queue q
    let new : BitVec 32 := v.setWidth 32
    ∃ dev : Device, (s.modQueue q fun x => { x with tail := new }).acceptQueue q = { s with dev } ∧ dev.queue q = { x with tail := new, accepted := new } ∧
      (∀ m, m ≠ q → dev.queue m = s.dev.queue m) ∧ (new = x.accepted → dev.events = s.dev.events ∧ dev.clashes = s.dev.clashes) ∧
      (new = x.accepted + 1 → let ev := (s.packetAt q x.accepted).evt
        (ev ≠ 0 → ∀ e, Sparse.get EventState.done dev.events e = if e = ev then .pending else Sparse.get EventState.done s.dev.events e) ∧
        (ev ≠ 0 → Sparse.get EventState.done s.dev.events ev = .pending → dev.clashes = s.dev.clashes ++ [(q, x.accepted)]) ∧
        (ev = 0 ∨ Sparse.get EventState.done s.dev.events ev ≠ .pending → dev.clashes = s.dev.clashes)) := by
  intro q x new
  obtain ⟨-, -, others, own⟩ := s.modQueue_only q fun x => { x with tail := new }
  have same := s.packetAt_modQueue q (f := fun x => { x with tail := new }) rfl rfl x.accepted
  have only : s.modQueue q (fun x => { x with tail := new }) = { s with dev := (s.modQueue q fun x => { x with tail := new }).dev } := rfl
  have events : (s.modQueue q fun x => { x with tail := new }).dev.events = s.dev.events := rfl
  have clashes : (s.modQueue q fun x => { x with tail := new }).dev.clashes = s.dev.clashes := rfl
  have base : (s.modQueue q fun x => { x with tail := new }).dev.elbase ≠ 0 := ring
  generalize s.modQueue q (fun x => { x with tail := new }) = u at others own same only events clashes base
  obtain ⟨evs, cls, eq⟩ := State.acceptFrom_only q ((u.dev.queue q).tail - (u.dev.queue q).accepted).toNat (u.dev.queue q).accepted u
  have run := State.acceptQueue_set base q
  have counts : ((u.dev.queue q).tail - (u.dev.queue q).accepted).toNat = (new - x.accepted).toNat := by rw [own]
  have first : (u.dev.queue q).accepted = x.accepted := by rw [own]
  have tail : (u.dev.queue q).tail = new := by rw [own]
  refine ⟨_, run.trans (by rw [eq, only]; rfl), ?_, fun m ne => ?_, fun none => ?_, fun one => ?_⟩
  · refine (Device.queue_setQueue ..).trans ((if_pos rfl).trans ?_)
    show ({ u.dev.queue q with accepted := (u.dev.queue q).tail } : Queue) = _
    rw [own]
  · exact (Device.queue_setQueue ..).trans ((if_neg ne).trans (others m ne))
  · rw [counts, none, BitVec.sub_self] at eq
    have zero := congrArg (·.dev) eq
    exact ⟨(congrArg (·.events) zero).symm.trans events, (congrArg (·.clashes) zero).symm.trans clashes⟩
  · have single : (new - x.accepted).toNat = 1 := by
      rw [one, BitVec.add_comm, BitVec.add_sub_cancel]
      rfl
    rw [counts, single, first] at eq
    obtain ⟨evs', cls', eq', pending, clash, free⟩ := u.acceptPacket_one q x.accepted
    have both := congrArg (·.dev) (eq'.symm.trans eq)
    have evs_eq : evs' = evs := congrArg (·.events) both
    have cls_eq : cls' = cls := congrArg (·.clashes) both
    rw [same, evs_eq, events] at pending
    rw [same, cls_eq, events, clashes] at clash free
    exact ⟨pending, clash, free⟩

/-! ## QCTL and teardown (R405, R414) -/

/-- A queue with the vector of a QCTL write. -/
def Queue.controlled (x : Queue) (v : Word) : Queue := { x with vec := v.extractLsb' 8 8, irq := v.getLsbD 16 }

theorem vector_field (v : Word) : BitVec.ofNat 8 (natBits v.toNat 15 8) = v.extractLsb' 8 8 := by
  refine BitVec.eq_of_toNat_eq ?_
  rw [BitVec.toNat_ofNat, BitVec.extractLsb'_toNat, natBits, Nat.shiftRight_eq_div_pow]
  omega

/-- What a QCTL write does, by its bits. -/
theorem State.writeCtl_does (s : State) (off : Nat) (v : Word) : let q := queueOf off
    let x := s.dev.queue q
    let y := x.controlled v
    (x.td = true → v.getLsbD 0 = true → s.writeCtl off v = s.ignoreWrite off) ∧
    (v.getLsbD 1 = false → v.getLsbD 0 = true → x.td = false → x.en = false → s.writeCtl off v =
      { (s.modQueue q fun _ => { y with en := true, head := 0, tail := 0, accepted := 0 }) with
        dev := { (s.modQueue q fun _ => { y with en := true, head := 0, tail := 0, accepted := 0 }).dev with clashes := s.dev.clashes.filter fun c => decide (c.1 ≠ q) } }) ∧
    (v.getLsbD 1 = false → v.getLsbD 0 = true → x.td = false → x.en = true → s.writeCtl off v = s.modQueue q fun _ => y) ∧
    (v.getLsbD 1 = false → v.getLsbD 0 = false → s.writeCtl off v = s.modQueue q fun _ => { y with en := false }) ∧
    (v.getLsbD 1 = true → v.getLsbD 0 = false → x.td = true → s.writeCtl off v = s.modQueue q fun _ => { y with en := false, td := true }) ∧
    (v.getLsbD 1 = true → x.td = false → s.writeCtl off v = (s.modQueue q fun _ => { y with en := false, td := true }).startTeardown q) := by
  intro q x y
  have no {b : Bool} (h : b = false) : ¬ b = true := by rw [h]; exact Bool.false_ne_true
  refine ⟨fun td set => ?_, fun down set td en => ?_, fun down set td en => ?_, fun down set => ?_, fun down set td => ?_, fun down td => ?_⟩ <;>
    unfold State.writeCtl <;> dsimp only <;> rw [vector_field]
  · rw [if_pos ⟨td, set⟩]
  · rw [if_neg fun h => no td h.1, if_neg (no down), if_pos set, if_neg (no en)]
    rfl
  · rw [if_neg fun h => no td h.1, if_neg (no down), if_pos set, if_pos en]
    rfl
  · rw [if_neg fun h => no set h.2, if_neg (no down), if_neg (no set)]
    rfl
  · rw [if_neg fun h => no set h.2, if_pos down, if_pos td]
    rfl
  · rw [if_neg fun h => no td h.1, if_pos down, if_neg (no td)]
    rfl

/-- A teardown of a queue whose packets have been dispatched, with no job elsewhere (R414). -/
theorem State.startTeardown_empty {s : State} {q : Nat} (jobs : s.dev.jobs = []) (saved : s.evicted = []) (empty : (s.dev.queue q).tail = (s.dev.queue q).head) :
    s.startTeardown q = (if s.job.running ∧ jobQueue s.job.jobid = q then s.stopContexts 1 else s).post (.teardownCompletes (BitVec.ofNat 8 q)) := by
  have none : State.cancelFrom q ((s.dev.queue q).tail - (s.dev.queue q).head).toNat s = s := by
    rw [empty, BitVec.sub_self]
    rfl
  unfold State.startTeardown
  dsimp only
  rw [none]
  simp only [jobs, saved, List.filter_nil, State.abortOthers, State.abortSaved]

/-- The record of a job that has ended: STATUS and REASON in its first dword, and of the device its event, its manifest and a vector (R406, R412, R416). -/
theorem State.recordJob_keeps (s : State) (j : Job) (repro : Bool) (count : Word) {status reason : Nat} (low : reason < 256)
    (up : j.compl.getLsbD 63 = true → s.dev.hostLink = true) : let t := s.recordJob j repro count status reason
    (Memory.byte t.mem (complKey j.compl + 7) = BitVec.ofNat 8 status ∧ Memory.byte t.mem (complKey j.compl + 6) = BitVec.ofNat 8 reason) ∧
      { t with dev := s.dev, mem := s.mem } = s ∧ t.dev.jobs = s.dev.jobs ∧ ∀ m, t.dev.queue m = s.dev.queue m := by
  intro t
  obtain ⟨st, re, -⟩ := recordDword_parts (status := status) low j.manif j.tamper j.noReplay repro j.jobid
  have manifest : ∃ manifests, s.addManifest j (j.dword0 repro status reason) count = { s with dev := { s.dev with manifests } } := by
    unfold State.addManifest
    split
    · exact ⟨_, rfl⟩
    · exact ⟨s.dev.manifests, rfl⟩
  obtain ⟨manifests, eq⟩ := manifest
  have run : t = State.writeRecord { s with dev := { s.dev with manifests } } j.compl j.evt.toNat (jobQueue j.jobid) status (j.dword0 repro status reason) j.startTime s.dev.devtime count
      (BitVec.ofNat 64 j.logged) := by rw [← eq]; rfl
  have byte (i : Nat) (h : i < 8) := State.writeRecord_dword { s with dev := { s.dev with manifests } } j.compl j.evt.toNat (jobQueue j.jobid) status (j.dword0 repro status reason) j.startTime
    s.dev.devtime count (BitVec.ofNat 64 j.logged) up h
  have queue := State.writeRecord_queue { s with dev := { s.dev with manifests } } j.compl j.evt.toNat (jobQueue j.jobid) status (j.dword0 repro status reason) j.startTime
    s.dev.devtime count (BitVec.ofNat 64 j.logged)
  obtain ⟨only, dev, -, -⟩ := State.writeRecord_only { s with dev := { s.dev with manifests } } j.compl j.evt.toNat (jobQueue j.jobid) status (j.dword0 repro status reason) j.startTime
    s.dev.devtime count (BitVec.ofNat 64 j.logged)
  rw [← run] at byte queue only dev
  have jobs : t.dev.jobs = s.dev.jobs := (congrArg Device.jobs dev :)
  have same : { t with dev := s.dev, mem := s.mem } = s := congrArg (fun u : State => { u with dev := s.dev }) only
  refine ⟨⟨(byte 7 (by decide)).trans (congrArg _ ?_), (byte 6 (by decide)).trans (BitVec.eq_of_toNat_eq ?_)⟩, same, jobs, queue⟩
  · exact st
  · rw [BitVec.toNat_ofNat, BitVec.toNat_ofNat, Nat.mod_eq_of_lt (show reason < 2 ^ 8 from low)]
    exact re

/-- A teardown of a queue with one packet, and no job elsewhere (R414). -/
theorem State.startTeardown_one {s : State} {q : Nat} (jobs : s.dev.jobs = []) (saved : s.evicted = []) (one : (s.dev.queue q).tail = (s.dev.queue q).head + 1) :
    let p := s.packetAt q (s.dev.queue q).head
    let clash := decide ((q, (s.dev.queue q).head) ∈ s.dev.clashes)
    (p.compl.getLsbD 63 = true → s.dev.hostLink = true) → ∃ u, s.gone u q p clash 2 0 ∧
      s.startTeardown q = (if u.job.running ∧ jobQueue u.job.jobid = q then u.stopContexts 1 else u).post (.teardownCompletes (BitVec.ofNat 8 q)) := by
  intro p clash up
  have gone := s.neverRan_gone q p clash 0 (status := 2) (by decide) up
  have first : State.cancelFrom q ((s.dev.queue q).tail - (s.dev.queue q).head).toNat s = (s.neverRan q p clash 2 0).advanceHead q := by
    rw [one, BitVec.add_comm, BitVec.add_sub_cancel]
    rfl
  refine ⟨_, gone, ?_⟩
  unfold State.startTeardown
  dsimp only
  rw [first]
  generalize (s.neverRan q p clash 2 0).advanceHead q = u at gone
  have saved' : u.evicted = [] := (congrArg (·.evicted) gone.only).trans saved
  simp only [gone.jobs, jobs, saved', List.filter_nil, State.abortOthers, State.abortSaved]

theorem State.recordJob_other (s : State) (j : Job) (repro : Bool) (count : Word) (status reason : Nat) :
    (s.recordJob j repro count status reason).evicted = s.evicted ∧ (s.recordJob j repro count status reason).job = s.job := by
  unfold State.recordJob State.addManifest
  dsimp only
  split <;> exact ⟨rfl, rfl⟩

theorem State.endOther_evicted (s : State) (x : OtherJob) (count : Word) (status reason : Nat) : (s.endOther x count status reason).evicted = s.evicted := (State.recordJob_other ..).1

theorem State.endOther_job (s : State) (x : OtherJob) (count : Word) (status reason : Nat) : (s.endOther x count status reason).job = s.job := (State.recordJob_other ..).2

/-- A job of other cores is ABORTED (R414). -/
theorem State.endOther_aborts (s : State) (x : OtherJob) (count : Word) {reason : Nat} (low : reason < 256) (up : x.job.compl.getLsbD 63 = true → s.dev.hostLink = true) :
    let t := s.endOther x count 3 reason
    Memory.byte t.mem (complKey x.job.compl + 7) = 3 ∧ Memory.byte t.mem (complKey x.job.compl + 6) = BitVec.ofNat 8 reason ∧
      t.dev.jobs = (s.dev.jobs.filter fun u => decide (u.job.jobid ≠ x.job.jobid)) ∧ t.evicted = s.evicted ∧ t.job = s.job ∧ ∀ m, t.dev.queue m = s.dev.queue m := by
  intro t
  let u : State := { s with
    dev := { s.dev with jobs := s.dev.jobs.filter fun u => decide (u.job.jobid ≠ x.job.jobid) },
    agenda := s.agenda ++ if s.evicted.isEmpty then [] else [Instr.restore] }
  have run : t = u.recordJob (s.otherRecord x.job) (x.job.record || (!x.tookFree && Config.othersRepro x.job.jobid)) (if x.job.superstep then Machine.sstepCount count else 0) 3 reason := rfl
  rw [run]
  obtain ⟨bytes, rest⟩ := State.recordJob_keeps u (s.otherRecord x.job) (x.job.record || (!x.tookFree && Config.othersRepro x.job.jobid))
    (if x.job.superstep then Machine.sstepCount count else 0) (status := 3) low up
  obtain ⟨same, jobs, queues⟩ := rest
  exact ⟨bytes.1, bytes.2, jobs, congrArg (·.evicted) same, congrArg (·.job) same, queues⟩

/-- A teardown of a queue whose one job is of other cores, and whose packets have been dispatched (R414). -/
theorem State.startTeardown_other {s : State} {q : Nat} {j : OtherJob} (jobs : s.dev.jobs = [j]) (saved : s.evicted = []) (empty : (s.dev.queue q).tail = (s.dev.queue q).head)
    (own : jobQueue j.job.jobid = q) (idle : s.job.running = false) :
    s.startTeardown q = (s.endOther j (Config.otherSstep j.job.jobid s.cycle) 3 1).post (.teardownCompletes (BitVec.ofNat 8 q)) := by
  have none : State.cancelFrom q ((s.dev.queue q).tail - (s.dev.queue q).head).toNat s = s := by
    rw [empty, BitVec.sub_self]
    rfl
  have others : State.abortOthers 1 (s.dev.jobs.filter fun j => decide (jobQueue j.job.jobid = q)) s = s.endOther j (Config.otherSstep j.job.jobid s.cycle) 3 1 := by
    rw [jobs, List.filter_cons, if_pos (decide_eq_true own)]
    rfl
  unfold State.startTeardown
  dsimp only
  rw [none, others]
  have saved' : (s.endOther j (Config.otherSstep j.job.jobid s.cycle) 3 1).evicted = [] := saved ▸ State.endOther_evicted ..
  have idle' : (s.endOther j (Config.otherSstep j.job.jobid s.cycle) 3 1).job = s.job := State.endOther_job ..
  rw [saved', List.filter_nil, State.abortSaved, if_neg]
  rw [idle', idle]
  exact fun h => Bool.noConfusion h.1

/-- A byte of the first dword of a packet that never ran. -/
theorem neverRan_dword (status reason : Nat) (jobid : BitVec 32) (time : Word) {i : Nat} (h : i < 8) :
    (bytesOfNat (status * 2 ^ 56 + reason * 2 ^ 48 + jobid.toNat) 8 ++ bytesOfNat 0 8 ++ bytesOfNat time.toNat 8).getD i 0 =
      BitVec.ofNat 8 ((status * 2 ^ 56 + reason * 2 ^ 48 + jobid.toNat) / 256 ^ i) := by
  rw [List.append_assoc, List.getD_append _ _ _ _ (by rw [length_bytesOfNat]; exact h), getD_bytesOfNat _ h]

/-- The contexts of a job that is to end stop, and its engine commands end; nothing else of the machine changes (R145, R259). -/
theorem State.stopContexts_does (s : State) (reason : Nat) : (s.stopContexts reason).mem = s.mem ∧ (s.stopContexts reason).dev = s.dev ∧ (s.stopContexts reason).inbox = s.inbox ∧
    (∀ m r, ((s.stopContexts reason).ctxAt m).reg r = (s.ctxAt m).reg r) ∧
    (s.job.stopping = true → s.stopContexts reason = s) ∧
    (s.job.stopping = false → (s.stopContexts reason).job = { s.job with stopping := true, stopReason := reason } ∧
      ∀ k, (s.stopContexts reason).core.chans.get k = (s.core.chans.get k).abort.unhold) := by
  have parts := (s.stopContexts_parts reason).2.2
  refine ⟨?_, ?_, ?_, fun m r => (parts m).2.2 r, fun stopping => if_pos stopping, fun going => ?_⟩
  · unfold State.stopContexts; split <;> rfl
  · unfold State.stopContexts; split <;> rfl
  · unfold State.stopContexts; split <;> rfl
  · have run : s.stopContexts reason = ({ s with job := { s.job with stopping := true, stopReason := reason } } : State).abortCmds := if_neg (by rw [going]; exact Bool.false_ne_true)
    rw [run]
    exact ⟨rfl, fun k => State.abortCmds_chans _ k⟩

theorem State.flushAllTakes_none {s : State} (h : ∀ m, (s.ctxAt m).takeOrder = []) : s.flushAllTakes = s := by
  have one (n : Fin 11) : s.flushTakes n = s := by
    unfold State.flushTakes
    rw [show (s.ctxs.get n).takeOrder = [] from h n]
  unfold State.flushAllTakes
  induction List.finRange 11 with
  | nil => rfl
  | cons n l ih => rw [List.foldl_cons, one, ih]

/-- A job whose accesses are performed and whose tags are recorded is ABORTED (R145, R412, R414). -/
theorem State.abortJob_records {s : State} {reason : Nat} (running : s.job.running = true) (accs : s.accs = []) (takes : ∀ m, (s.ctxAt m).takeOrder = []) (low : reason < 256)
    (up : s.job.compl.getLsbD 63 = true → s.dev.hostLink = true) : let t := s.abortJob reason
    t.job.running = false ∧ (∀ m, (t.ctxAt m).live = false) ∧ Memory.byte t.mem (complKey s.job.compl + 7) = 3 ∧
      Memory.byte t.mem (complKey s.job.compl + 6) = BitVec.ofNat 8 reason ∧ ∀ m, t.dev.queue m = s.dev.queue m := by
  intro t
  have run : t = (s.endRecord 3 reason).releaseJob := by
    have whole : t = ((State.finishWrites s.accs s).flushAllTakes.endRecord 3 reason).releaseJob := if_pos running
    rw [whole, accs, State.finishWrites, State.flushAllTakes_none takes]
  obtain ⟨bytes, -, -, queues⟩ := s.recordJob_keeps s.job s.repro (Machine.sstepCount s.bar.sstep) (status := 3) low up
  rw [run]
  exact ⟨rfl, State.releaseJob_live _, bytes.1, bytes.2, queues⟩

/-- TEARDOWN_COMPLETES (R414). -/
theorem exec_teardownCompletes_does (s : State) (n : BitVec 8) :
    (¬ (s.job.running = true ∧ s.job.stopping = true ∧ jobQueue s.job.jobid = n.toNat) → exec (.teardownCompletes n) s =
      .next (if (s.dev.queue n.toNat).td then s.modQueue n.toNat fun x => { x with td := false, head := x.tail, accepted := x.tail } else s)) ∧
    (s.job.running = true ∧ s.job.stopping = true ∧ jobQueue s.job.jobid = n.toNat → ((∃ m, (s.ctxAt m).live = true ∧ (s.ctxAt m).mustRun = true) → exec (.teardownCompletes n) s = .next s) ∧
      ((∀ m, (s.ctxAt m).live = true → (s.ctxAt m).mustRun = false) → exec (.teardownCompletes n) s =
        .next (if (s.dev.queue n.toNat).td then (s.abortJob s.job.stopReason).modQueue n.toNat fun x => { x with td := false, head := x.tail, accepted := x.tail }
          else s.abortJob s.job.stopReason))) := by
  have run : exec (.teardownCompletes n) s = .next (if (s.job.running && s.job.stopping && decide (jobQueue s.job.jobid = n.toNat)) = true ∧
      (s.ctxs.toList.any fun c => c.live && c.mustRun) = true then s
      else if (s.dev.queue n.toNat).td then (if (s.job.running && s.job.stopping && decide (jobQueue s.job.jobid = n.toNat)) = true then s.abortJob s.job.stopReason else s).modQueue n.toNat
        fun x => { x with td := false, head := x.tail, accepted := x.tail }
      else if (s.job.running && s.job.stopping && decide (jobQueue s.job.jobid = n.toNat)) = true then s.abortJob s.job.stopReason else s) := rfl
  have mine : (s.job.running && s.job.stopping && decide (jobQueue s.job.jobid = n.toNat)) = true ↔
      s.job.running = true ∧ s.job.stopping = true ∧ jobQueue s.job.jobid = n.toNat := by simp [and_assoc]
  have going : (s.ctxs.toList.any fun c => c.live && c.mustRun) = true ↔ ∃ m, (s.ctxAt m).live = true ∧ (s.ctxAt m).mustRun = true := by
    rw [List.any_eq_true]
    constructor
    · rintro ⟨c, listed, both⟩
      obtain ⟨i, hi, rfl⟩ := List.mem_iff_getElem.mp listed
      rw [Bool.and_eq_true] at both
      refine ⟨⟨i, by simpa using hi⟩, ?_⟩
      simpa [State.ctxAt, get_eq_getElem] using both
    · rintro ⟨m, live, must⟩
      exact ⟨s.ctxAt m, Vector.mem_toList_iff.2 (Vector.getElem_mem m.isLt), by rw [live, must]; rfl⟩
  refine ⟨fun foreign => ?_, fun own => ⟨fun runs => ?_, fun stopped => ?_⟩⟩
  · rw [run, if_neg fun h => foreign (mine.1 h.1), if_neg fun h => foreign (mine.1 h)]
  · rw [run, if_pos ⟨mine.2 own, going.2 runs⟩]
  · rw [run, if_neg fun h => ?_, if_pos (mine.2 own)]
    obtain ⟨m, live, must⟩ := going.1 h.2
    rw [stopped m live] at must
    exact Bool.noConfusion must

/-- The device with a register written that has no row of its own (R405, R423). -/
def Device.written (d : Device) (off : Nat) (v : Word) : Device :=
  match off with
  | 0x0108 => { d with elsize := v.setWidth 4 }
  | 0x0118 => { d with elcons := v.setWidth 32 }
  | 0x0210 => { d with trbase := v &&& ~~~0xFFF#64 }
  | 0x0218 => { d with trsize := v.setWidth 4 }
  | 0x0228 => { d with trcons := v.setWidth 32 }
  | 0x0240 => { d with dbgsel := v }
  | _ => d

theorem Device.written_none (d : Device) {off : Nat} (v : Word) (h : off = 0x110 ∨ off = 0x220 ∨ 0x200000 ≤ off) : d.written off v = d := by
  unfold Device.written
  split <;> first | rfl | omega

/-- REGISTER_WRITE (R405, R423). -/
theorem exec_registerWrite_brought {s : State} {r : HostReq} {l : List HostReq} (h : s.inbox = r :: l) :
    (0x10000 ≤ r.addr ∧ r.addr < 0x14000 ∧ (0x28 ≤ r.addr % 64 ∨ r.addr % 64 = 0x10) → exec .registerWrite s = .next (({ s with inbox := l } : State).ignoreWrite r.addr)) ∧
      (¬ (0x10000 ≤ r.addr ∧ r.addr < 0x14000 ∧ (0x28 ≤ r.addr % 64 ∨ r.addr % 64 = 0x10)) → exec .registerWrite s = .next { s with inbox := l, dev := s.dev.written r.addr r.value }) := by
  have run : exec .registerWrite s = .next (if 0x10000 ≤ r.addr ∧ r.addr < 0x14000 ∧ (0x28 ≤ r.addr % 64 ∨ r.addr % 64 = 0x10) then ({ s with inbox := l } : State).ignoreWrite r.addr
      else { s with inbox := l, dev := s.dev.written r.addr r.value }) :=
    exec_brought (k := fun r s => if 0x10000 ≤ r.addr ∧ r.addr < 0x14000 ∧ (0x28 ≤ r.addr % 64 ∨ r.addr % 64 = 0x10) then s.ignoreWrite r.addr
      else { s with dev := s.dev.written r.addr r.value }) rfl h
  exact ⟨fun bad => run.trans (by rw [if_pos bad]), fun good => run.trans (by rw [if_neg good])⟩

/-- Settles O51: the registers of a queue's block, its teardown, and the registers without a row of their own. -/
theorem queuesTakePacketsAndAreTornDown : Obligations.QueuesTakePacketsAndAreTornDown := by
  unfold Obligations.QueuesTakePacketsAndAreTornDown
  intro s quiet
  refine ⟨⟨exec_quiet rfl, exec_quiet rfl, exec_quiet rfl, exec_quiet rfl, exec_quiet rfl, exec_quiet rfl, exec_quiet rfl, exec_quiet rfl⟩, fun r l brought => ?_, fun n => ?_⟩
  · intro q x new only ignored takes
    have ignores {e : Instr} (run : exec e s = .next (({ s with inbox := l } : State).ignoreWrite r.addr)) : ignored e := by
      obtain ⟨unset, ring⟩ := ({ s with inbox := l } : State).ignoreWrite_logs r.addr
      refine ⟨fun base room => run.trans (by rw [unset base room]), fun base room => ?_⟩
      have logged := run
      rw [ring base room] at logged
      exact ⟨_, logged, rfl, rfl, rfl, rfl⟩
    have alone (f : Queue → Queue) : only (({ s with inbox := l } : State).modQueue q f) ∧ (({ s with inbox := l } : State).modQueue q f).dev.queue q = f x := by
      obtain ⟨-, -, others, own⟩ := ({ s with inbox := l } : State).modQueue_only q f
      exact ⟨⟨rfl, rfl, rfl, others⟩, own⟩
    have doorbell : exec .doorbell s = .next (({ s with inbox := l } : State).writeTail r.addr r.value) :=
      exec_brought (k := fun r s => s.writeTail r.addr r.value) rfl brought
    have qbase : exec .qbase s = .next (if (s.dev.queue q).en ∨ r.value.toNat % 64 ≠ 0 then ({ s with inbox := l } : State).ignoreWrite r.addr
      else ({ s with inbox := l } : State).modQueue q fun x => { x with base := r.value }) := exec_brought (k := fun r s => s.writeBase r.addr r.value) rfl brought
    have qsize : exec .qsize s = .next (if (s.dev.queue q).en ∨ 12 ≤ r.value.toNat then ({ s with inbox := l } : State).ignoreWrite r.addr
      else ({ s with inbox := l } : State).modQueue q fun x => { x with size := r.value.setWidth 4 }) := exec_brought (k := fun r s => s.writeSize r.addr r.value) rfl brought
    refine ⟨fun no => ?_, fun taken unset => ?_, fun taken ring => ?_, fun off aligned => ?_, fun bad => ?_, fun off small => ?_, fun bad => ?_, ignores (exec_brought (k := fun r s => s.ignoreWrite r.addr) rfl brought),
      fun e which => ?_, ?_⟩
    · rw [State.writeTail_ignores (s := { s with inbox := l }) no] at doorbell
      exact ignores doorbell
    · obtain ⟨on, forward, room⟩ := taken
      rw [State.writeTail_takes (s := { s with inbox := l }) on forward room, State.acceptQueue_unset (s := ({ s with inbox := l } : State).modQueue (queueOf r.addr) _) unset] at doorbell
      exact ⟨_, doorbell, alone _⟩
    · obtain ⟨on, forward, room⟩ := taken
      rw [State.writeTail_takes (s := { s with inbox := l }) on forward room] at doorbell
      obtain ⟨dev, eq, own, others, none, one⟩ := State.writeTail_accepts (s := { s with inbox := l }) (off := r.addr) (v := r.value) ring
      rw [eq] at doorbell
      exact ⟨_, doorbell, rfl, rfl, own, others, none, one⟩
    · rw [if_neg (by rintro (on | odd); · rw [show (s.dev.queue q).en = false from off] at on; exact Bool.noConfusion on
                     · exact odd aligned)] at qbase
      exact ⟨_, qbase, alone _⟩
    · rw [if_pos bad] at qbase
      exact ignores qbase
    · rw [if_neg (by rintro (on | big); · rw [show (s.dev.queue q).en = false from off] at on; exact Bool.noConfusion on
                     · exact absurd big (Nat.not_le.2 small))] at qsize
      exact ⟨_, qsize, alone _⟩
    · rw [if_pos bad] at qsize
      exact ignores qsize
    · have run : exec e s = .next (({ s with inbox := l } : State).writeCtl r.addr r.value) := by
        rcases which with rfl | rfl | rfl <;> exact exec_brought (k := fun r s => s.writeCtl r.addr r.value) rfl brought
      intro y
      obtain ⟨held, enables, keeps, disables, again, tears⟩ := ({ s with inbox := l } : State).writeCtl_does r.addr r.value
      refine ⟨fun td set => ?_, fun down set td en => ?_, fun down set td en => ?_, fun down set => ?_, fun down set td => ?_, fun j down td jobs saved empty own idle up => ?_,
        fun down td jobs saved => ?_⟩
      · exact ignores (run.trans (by rw [held td set]))
      · obtain ⟨⟨-, -, -, others⟩, own⟩ := alone fun _ => { y with en := true, head := 0, tail := 0, accepted := 0 }
        rw [enables down set td en] at run
        refine ⟨_, run, rfl, rfl, rfl, others, own, fun c => ?_⟩
        exact List.mem_filter.trans (and_congr_right fun _ => decide_eq_true_iff)
      · rw [keeps down set td en] at run
        exact ⟨_, run, alone _⟩
      · rw [disables down set] at run
        exact ⟨_, run, alone _⟩
      · obtain ⟨only, own⟩ := alone fun _ => { y with en := false, td := true }
        rw [again down set td] at run
        refine ⟨_, run, only, own.trans ?_⟩
        show ({ y with en := false, td := true } : Queue) = { y with en := false, td := x.td }
        rw [td]
      · obtain ⟨⟨-, -, -, -⟩, queue⟩ := alone fun _ => { y with en := false, td := true }
        have whole : ({ s with inbox := l } : State).writeCtl r.addr r.value = (({ s with inbox := l } : State).modQueue q fun _ => { y with en := false, td := true }).startTeardown q := tears down td
        have jobs' : (({ s with inbox := l } : State).modQueue q fun _ => { y with en := false, td := true }).dev.jobs = [j] := jobs
        have saved' : (({ s with inbox := l } : State).modQueue q fun _ => { y with en := false, td := true }).evicted = [] := saved
        have idle' : (({ s with inbox := l } : State).modQueue q fun _ => { y with en := false, td := true }).job.running = false := idle
        have link : (({ s with inbox := l } : State).modQueue q fun _ => { y with en := false, td := true }).dev.hostLink = s.dev.hostLink := rfl
        have start := State.startTeardown_other (s := ({ s with inbox := l } : State).modQueue q fun _ => { y with en := false, td := true }) (q := q) jobs' saved' (by rw [queue]; exact empty) own idle'
        obtain ⟨status, reason, left, -, -, queues⟩ := (({ s with inbox := l } : State).modQueue q fun _ => { y with en := false, td := true }).endOther_aborts j
          (Config.otherSstep j.job.jobid (({ s with inbox := l } : State).modQueue q fun _ => { y with en := false, td := true }).cycle) (reason := 1) (by decide) (by rw [link]; exact up)
        rw [whole, start] at run
        refine ⟨_, run, ?_, (queues q).trans queue, status, reason⟩
        refine left.trans ?_
        rw [jobs']
        simp
      · obtain ⟨⟨-, -, -, others⟩, queue⟩ := alone fun _ => { y with en := false, td := true }
        have whole : ({ s with inbox := l } : State).writeCtl r.addr r.value = (({ s with inbox := l } : State).modQueue q fun _ => { y with en := false, td := true }).startTeardown q := tears down td
        refine ⟨fun empty => ?_, fun one => ?_⟩
        · intro ours
          have start := State.startTeardown_empty (s := ({ s with inbox := l } : State).modQueue q fun _ => { y with en := false, td := true }) (q := q) jobs saved (by rw [queue]; exact empty)
          have parts : (({ s with inbox := l } : State).modQueue q fun _ => { y with en := false, td := true }).job = s.job ∧
            (({ s with inbox := l } : State).modQueue q fun _ => { y with en := false, td := true }).core = s.core ∧
            (({ s with inbox := l } : State).modQueue q fun _ => { y with en := false, td := true }).mem = s.mem ∧
            (({ s with inbox := l } : State).modQueue q fun _ => { y with en := false, td := true }).inbox = l ∧
            ∀ m, (({ s with inbox := l } : State).modQueue q fun _ => { y with en := false, td := true }).ctxAt m = s.ctxAt m := ⟨rfl, rfl, rfl, rfl, fun _ => rfl⟩
          rw [whole, start] at run
          generalize ({ s with inbox := l } : State).modQueue q (fun _ => { y with en := false, td := true }) = u at run parts others queue
          obtain ⟨job, core, mem, inbox, at_⟩ := parts
          obtain ⟨mem', dev', inbox', regs', stays, stops⟩ := u.stopContexts_does 1
          rw [job] at run stays stops
          rw [core] at stops
          by_cases mine : s.job.running = true ∧ jobQueue s.job.jobid = q
          · rw [if_pos mine] at run
            refine ⟨_, run, mem'.trans mem, fun m r => (regs' m r).trans (congrArg (Ctx.reg · r) (at_ m)), inbox'.trans inbox, ?_, fun m ne => ?_,
              List.mem_append_right _ (List.mem_singleton.2 rfl), fun foreign => absurd mine foreign, fun _ stopping => ?_, fun _ going => ?_⟩
            · exact (congrArg (fun d : Device => d.queue q) dev').trans queue
            · exact (congrArg (fun d : Device => d.queue m) dev').trans (others m ne)
            · rw [stays stopping]
              exact ⟨core, job⟩
            · obtain ⟨stopped, chans⟩ := stops going
              refine ⟨stopped, fun k => ?_⟩
              rw [State.post_core, chans k]
              exact ⟨rfl, rfl⟩
          · rw [if_neg mine] at run
            exact ⟨_, run, mem, fun m r => congrArg (Ctx.reg · r) (at_ m), inbox, queue, others, List.mem_append_right _ (List.mem_singleton.2 rfl), fun _ => ⟨core, job⟩,
              fun own => absurd own mine, fun own => absurd own mine⟩
        · intro p up
          have head : ((({ s with inbox := l } : State).modQueue q fun _ => { y with en := false, td := true }).dev.queue q).head = x.head := (congrArg Queue.head queue :)
          have same : (({ s with inbox := l } : State).modQueue q fun _ => { y with en := false, td := true }).packetAt q x.head = p :=
            ({ s with inbox := l } : State).packetAt_modQueue q (f := fun _ => { y with en := false, td := true }) rfl rfl x.head
          obtain ⟨u, gone, start⟩ := State.startTeardown_one (s := ({ s with inbox := l } : State).modQueue q fun _ => { y with en := false, td := true }) (q := q) jobs saved
            (by rw [queue]; exact one) (by rw [head, same]; exact up)
          rw [head, same] at gone
          rw [whole, start] at run
          obtain ⟨mem', dev', inbox', regs', -, -⟩ := u.stopContexts_does 1
          have at_ (m : Fin 11) : u.ctxAt m = s.ctxAt m := (congrArg (fun v : State => v.ctxAt m) gone.only :)
          have inbox : u.inbox = l := (congrArg State.inbox gone.only :)
          have status : Memory.byte u.mem (complKey p.compl + 7) = 2 := by
            rw [gone.bytes, if_pos ⟨Nat.le_add_right _ _, by omega⟩, Nat.add_sub_cancel_left]
            exact (neverRan_dword 2 0 p.jobid _ (i := 7) (by decide)).trans (by have := p.jobid.isLt; rw [show (2 * 2 ^ 56 + 0 * 2 ^ 48 + p.jobid.toNat) / 256 ^ 7 = 2 by omega]; rfl)
          have reason : Memory.byte u.mem (complKey p.compl + 6) = 0 := by
            rw [gone.bytes, if_pos ⟨Nat.le_add_right _ _, by omega⟩, Nat.add_sub_cancel_left]
            exact (neverRan_dword 2 0 p.jobid _ (i := 6) (by decide)).trans (by have := p.jobid.isLt; rw [show (2 * 2 ^ 56 + 0 * 2 ^ 48 + p.jobid.toNat) / 256 ^ 6 = 512 by omega]; rfl)
          have event (free : (q, x.head) ∉ s.dev.clashes) (real : p.evt ≠ 0) : Sparse.get EventState.done u.dev.events p.evt = .failed :=
            (gone.events p.evt).trans (if_pos ⟨rfl, real, decide_eq_false free⟩)
          have left : u.dev.queue q = { y with en := false, td := true, head := x.tail } := by
            refine gone.queue.trans ?_
            rw [queue, one]
          by_cases mine : u.job.running = true ∧ jobQueue u.job.jobid = q
          · rw [if_pos mine] at run
            exact ⟨_, run, fun m r => (regs' m r).trans (congrArg (Ctx.reg · r) (at_ m)), inbox'.trans inbox, (congrArg (fun d : Device => d.queue q) dev').trans left,
              List.mem_append_right _ (List.mem_singleton.2 rfl), (congrArg (fun m => Memory.byte m _) mem').trans status, (congrArg (fun m => Memory.byte m _) mem').trans reason,
              fun free real => (congrArg (fun d : Device => Sparse.get EventState.done d.events p.evt) dev').trans (event free real)⟩
          · rw [if_neg mine] at run
            exact ⟨_, run, fun m r => congrArg (Ctx.reg · r) (at_ m), inbox, left, List.mem_append_right _ (List.mem_singleton.2 rfl), status, reason, event⟩
    · obtain ⟨bad, good⟩ := exec_registerWrite_brought brought
      intro low puts
      have put {d : Device} (out : ¬ (0x10000 ≤ r.addr ∧ r.addr < 0x14000)) (h : s.dev.written r.addr r.value = d) : puts d := by
        rw [← h]
        exact good fun inside => out ⟨inside.1, inside.2.1⟩
      refine ⟨fun first last block => ignores (bad ⟨first, last, block⟩), fun h => put (by omega) ?_, fun h => put (by omega) ?_, fun h => put (by omega) ?_, fun h => put (by omega) ?_,
        fun h => put (by omega) ?_, fun h => put (by omega) ?_, fun h => put (by omega) (s.dev.written_none r.value h)⟩ <;> rw [h] <;> rfl
  · intro x mine
    obtain ⟨foreign, own⟩ := exec_teardownCompletes_does s n
    refine ⟨fun down no => ?_, fun ours runs => (own ours).1 runs, fun td no => ?_, fun ours stopped accs low takes up => ?_⟩
    · rw [foreign no, if_neg (by rw [show (s.dev.queue n.toNat).td = false from down]; exact Bool.false_ne_true)]
    · rw [if_pos (show (s.dev.queue n.toNat).td = true from td)] at foreign
      obtain ⟨-, -, others, queue⟩ := s.modQueue_only n.toNat fun x => { x with td := false, head := x.tail, accepted := x.tail }
      exact ⟨_, foreign no, rfl, rfl, others, queue⟩
    · have run := (own ours).2 stopped
      obtain ⟨over_, live, status, reason, queues⟩ := State.abortJob_records ours.1 accs takes low up
      generalize s.abortJob s.job.stopReason = u at run over_ live status reason queues
      by_cases td : (s.dev.queue n.toNat).td = true
      · rw [if_pos td] at run
        refine ⟨_, run, over_, live, status, reason, ?_⟩
        rw [if_pos (show x.td = true from td)]
        refine (u.modQueue_only n.toNat fun x => { x with td := false, head := x.tail, accepted := x.tail }).2.2.2.trans ?_
        rw [queues]
      · rw [if_neg td] at run
        exact ⟨_, run, over_, live, status, reason, (queues _).trans (if_neg td).symm⟩

end Sys2Proof.Machine
end

section
/-! PROOF. O40: atomics (R282 to R287). -/

namespace Sys2Proof.Machine

open Sys2Proof

/-! ## The checks of an atomic (R283, R285) -/

theorem State.atomicCheck_sought (s : State) (host : Bool) (c : Scope) (a : Word) (n : Nat) : s.sought (s.atomicCheck host c a n).1 := by
  have first := s.check_sought (.rmw host) a n n s.exchange
  unfold State.atomicCheck
  split
  case h_1 t f h e => exact first.of_fst e
  case h_2 t p h e =>
    have here := first.of_fst e
    split <;> exact here

theorem State.checkAtomics_sought (host : Bool) (c : Scope) (n : Nat) (at_ : Nat → Word) : ∀ (is : List Nat) (s : State),
    s.sought (State.checkAtomics host c n at_ is s).1
  | [], s => .refl s
  | i :: is, s => by
    have first := s.atomicCheck_sought host c (at_ i) n
    unfold State.checkAtomics
    split
    case h_1 t f h e => exact first.of_fst e
    case h_2 t p h e =>
      have rest := State.checkAtomics_sought host c n at_ is t
      have here := first.of_fst e
      split
      case h_1 u f g e' => exact here.trans (rest.of_fst e')
      case h_2 u ps g e' => exact here.trans (rest.of_fst e')

/-- The places that passed are those of the lanes, in their order. -/
theorem State.checkAtomics_lanes (host : Bool) (c : Scope) (n : Nat) (at_ : Nat → Word) : ∀ (is : List Nat) (s u : State) (ps : List (Nat × Place)) (h : Nat),
    State.checkAtomics host c n at_ is s = (u, .ok ps, h) → ps.map (·.1) = is
  | [], s, u, ps, h, e => by cases e; rfl
  | i :: is, s, u, ps, h, e => by
    unfold State.checkAtomics at e
    split at e
    case h_1 => cases e
    case h_2 t p g first =>
      split at e
      case h_1 => cases e
      case h_2 v qs g' rest =>
        cases e
        exact congrArg (i :: ·) (State.checkAtomics_lanes host c n at_ is t _ qs g' rest)

/-- In the own scratchpad the scopes of the core and the cluster are paired with the address, and the others are not (R282). -/
theorem State.atomicCheck_local {s : State} {a : Word} {n : Nat} (run : s.localRun a n) (pos : 0 < n) (host : Bool) (c : Scope) :
    s.atomicCheck host c a n = if c = .core ∨ c = .clu then (s, .ok (localPlace s.core.num a), 1)
      else (s, .error { cause := 0x02, detail := 0, addr := a }, 1) := by
  obtain ⟨aligned, fits, free⟩ := run
  have unclaimed : s.claimed? a.toNat n = false := by
    unfold State.claimed?
    exact List.any_eq_false.2 fun c hc => by rw [free c hc]; exact Bool.false_ne_true
  unfold State.atomicCheck
  rw [State.check_local aligned pos fits fun _ => unclaimed]
  cases c <;> rfl

/-! ## What an atomic sends (R283) -/

/-- An atomic that has passed its checks has sent one access, an acquire's with the barrier that its read lifts. -/
structure State.sendsAtomic (s t : State) (sw : Bool) (a : Word) (n : Nat) (c : Scope) (o : Bool) (r : Rmw) (b : Word) (w : Option Nat) (p : Place) (h : Nat) : Prop where
  mem : t.mem = s.mem
  goes : s.goesOn t sw 4 h
  kept : ∀ z ∈ s.accs, z ∈ t.accs
  one : t.accs.length = s.accs.length + 1
  sent : ∃ y ∈ t.accs, y.ctx = s.cur ∧ y.key = p.key ∧ y.len = n ∧ y.op = .atomic r b w (p.splits c) ∧ y.caddr = a ∧ .accessPerformed y.seq ∈ t.agenda ∧
    (o = true → ∀ z ∈ s.accs, z.ctx = s.cur → s.within c z.key = true → (∀ q, z.op ≠ .tagged q) → (∀ q v r, z.op ≠ .arrive q v r) →
      (∀ q v r, z.op ≠ .swatch q v r) → z.seq ∈ y.after) ∧
    (o = true → w.isSome = true → ∃ m, y.acq = some m ∧ (⟨m, c, true⟩ : Barrier) ∈ t.ctx.order)

theorem State.retireAfter_agenda (s : State) (sw : Bool) (size gap : Nat) : (s.retireAfter sw size gap).agenda = s.agenda := rfl

/-- The access `x` of an atomic joins the outstanding ones; an acquire's names its read, for which later accesses wait (R283). -/
def State.sendAtomic (v : State) (x : Acc) (sw : Bool) (c : Scope) (acq : Prop) [Decidable acq] (h : Nat) : State :=
  if acq then
    let v' := v.push { x with acq := some (v.seq + 1) }
    ({ v' with seq := v'.seq + 1 }.addBarrier { seq := v.seq + 1, scope := c, loads := true }).retireAfter sw 4 h
  else (v.push x).retireAfter sw 4 h

/-- The access and the barrier of an atomic, of a state that has the write which it fills. -/
theorem State.atomic_pushed {s v : State} (amid : s.amid v) (accs : v.accs = s.accs) (mem : v.mem = s.mem) (sw : Bool) {a : Word} {n : Nat} (c : Scope) (o : Bool)
    (r : Rmw) (b : Word) (w : Option Nat) (p : Place) (h : Nat) {after : List Nat}
    (waits : o = true → ∀ z ∈ s.accs, z.ctx = s.cur → s.within c z.key = true → (∀ q, z.op ≠ .tagged q) → (∀ q v r, z.op ≠ .arrive q v r) →
      (∀ q v r, z.op ≠ .swatch q v r) → z.seq ∈ after) :
    let x := v.newAcc p.key n a p.page (.atomic r b w (p.splits c)) after
    let t := v.sendAtomic x sw c (o ∧ w.isSome) h
    s.sendsAtomic t sw a n c o r b w p h ∧ v.sameRegs t := by
  intro x t
  by_cases acq : o = true ∧ w.isSome = true
  · have eq : t = ({ v.push { x with acq := some (v.seq + 1) } with seq := v.seq + 1 + 1 }.addBarrier { seq := v.seq + 1, scope := c, loads := true }).retireAfter sw 4 h :=
      if_pos acq
    have pushed : v.amid { v.push { x with acq := some (v.seq + 1) } with seq := v.seq + 1 + 1 } := ⟨rfl, .refl _, rfl⟩
    have barred : s.amid ({ v.push { x with acq := some (v.seq + 1) } with seq := v.seq + 1 + 1 }.addBarrier { seq := v.seq + 1, scope := c, loads := true }) := by
      refine (amid.trans pushed).modCtx ?_
      exact ⟨rfl, rfl, rfl, rfl, rfl, rfl⟩
    have list : t.accs = s.accs ++ [{ x with acq := some (v.seq + 1) }] := by rw [eq, ← accs]; rfl
    rw [eq] at list ⊢
    refine ⟨⟨mem, barred.goesOn sw 4 h, fun z hz => list ▸ List.mem_append_left _ hz, by rw [list, List.length_append]; rfl,
      ⟨_, list ▸ List.mem_append_right _ (List.mem_singleton.2 rfl), amid.cur, rfl, rfl, rfl, rfl, ?_, waits, fun _ _ => ⟨v.seq + 1, rfl, ?_⟩⟩⟩, ?_⟩
    · exact List.mem_append_right _ (List.mem_singleton.2 rfl)
    · rw [State.retireAfter_ctx, Ctx.sequential_order, State.addBarrier, State.ctx_modCtx]
      exact List.mem_append_right _ (List.mem_singleton.2 rfl)
    · refine State.sameRegs.trans ⟨fun q => ?_, ?_⟩ (State.retireAfter_sameRegs ..)
      · rw [State.addBarrier, State.ctx_modCtx]
        exact Ctx.reg_congr rfl rfl rfl q
      · rw [State.addBarrier, State.ctx_modCtx]
        rfl
  · have eq : t = (v.push x).retireAfter sw 4 h := if_neg acq
    have list : t.accs = s.accs ++ [x] := by rw [eq, ← accs]; rfl
    rw [eq] at list ⊢
    have pushed := v.push_onlySent x
    refine ⟨⟨mem, (amid.trans pushed.amid).goesOn sw 4 h, fun z hz => list ▸ List.mem_append_left _ hz, by rw [list, List.length_append]; rfl,
      ⟨x, list ▸ List.mem_append_right _ (List.mem_singleton.2 rfl), amid.cur, rfl, rfl, rfl, rfl, ?_, waits, fun ho hw => absurd ⟨ho, hw⟩ acq⟩⟩,
      pushed.sameRegs.trans (State.retireAfter_sameRegs ..)⟩
    exact List.mem_append_right _ (List.mem_singleton.2 rfl)

theorem State.atomic_ok {s u : State} {host : Bool} {c : Scope} {a : Word} {op : Rmw} {p : Place} {h : Nat}
    (ok : s.atomicCheck host c a (atomicBytes op.ty) = (u, .ok p, h)) (sw : Bool) (rs : List Reg) (o : Bool) (b : Word) (d : Option (BitVec 5)) :
    let v := match d with | some d => u.writeLater (.x d) 0 1 | none => u
    s.atomic sw a rs c o host op b d =
      v.sendAtomic (v.newAcc p.key (atomicBytes op.ty) a p.page (.atomic op b (d.map fun _ => u.seq) (p.splits c)) (u.storeAfter o c p.key rs)) sw c (o ∧ d.isSome) h := by
  unfold State.atomic
  dsimp only
  rw [ok]
  rfl

section
variable {s u : State} {rs : List Reg} {host : Bool} {c : Scope} {a : Word} {op : Rmw} {p : Place} {h : Nat}
  (ok : (s.issued rs).atomicCheck host c a (atomicBytes op.ty) = (u, .ok p, h))
include ok

/-- AMO and CAS: the old value comes to xD. -/
theorem State.atomic_sends (sw : Bool) (rs' : List Reg) (o : Bool) (b : Word) (d : BitVec 5) :
    s.awaits ((s.issued rs).atomic sw a rs' c o host op b (some d)) (.x d) 0 1 ∧
      s.sendsAtomic ((s.issued rs).atomic sw a rs' c o host op b (some d)) sw a (atomicBytes op.ty) c o op b (some s.seq) p h := by
  have found := (State.atomicCheck_sought ..).of_fst ok
  have seq : u.seq = s.seq := found.seq
  have amid : s.amid (u.writeLater (.x d) 0 1) := ((s.issued_amid rs).trans found.amid).trans (u.writeLater_amid _ _ _)
  have waits : s.awaits (u.writeLater (.x d) 0 1) (.x d) 0 1 := (u.writeLater_awaits _ _ _).of_sameRegs ((s.issued_sameRegs _).trans found.sameRegs) found.seq
  obtain ⟨sends, same⟩ := State.atomic_pushed amid ((u.writeLater_accs _ _ _).trans found.accs) ((u.writeLater_mem _ _ _).trans found.mem) sw (a := a)
    (n := atomicBytes op.ty) c o op b (some s.seq) p h (after := u.storeAfter o c p.key rs') fun ho y hy ctx within tag arr swa =>
      State.mem_storeAfter found hy ho ctx within tag arr swa _ _
  have run := State.atomic_ok ok sw rs' o b (some d)
  dsimp only [Option.map_some] at run
  rw [seq] at run
  rw [run]
  exact ⟨waits.then_sameRegs same, sends⟩

/-- RED: nothing comes back. -/
theorem State.atomic_passes (sw : Bool) (rs' : List Reg) (o : Bool) (b : Word) :
    s.sameRegs ((s.issued rs).atomic sw a rs' c o host op b none) ∧
      s.sendsAtomic ((s.issued rs).atomic sw a rs' c o host op b none) sw a (atomicBytes op.ty) c o op b none p h := by
  have found := (State.atomicCheck_sought ..).of_fst ok
  obtain ⟨sends, same⟩ := State.atomic_pushed ((s.issued_amid rs).trans found.amid) found.accs found.mem sw (a := a)
    (n := atomicBytes op.ty) c o op b none p h (after := u.storeAfter o c p.key rs') fun ho y hy ctx within tag arr swa =>
      State.mem_storeAfter found hy ho ctx within tag arr swa _ _
  rw [State.atomic_ok ok sw rs' o b none]
  exact ⟨((s.issued_sameRegs _).trans found.sameRegs).trans same, sends⟩

end

theorem State.atomic_fails {s u : State} {rs : List Reg} {host : Bool} {c : Scope} {a : Word} {op : Rmw} {f : AccessFault} {h : Nat}
    (trappable : s.ctx.trappable) (fault : (s.issued rs).atomicCheck host c a (atomicBytes op.ty) = (u, .error f, h)) (sw : Bool) (rs' : List Reg) (o : Bool)
    (b : Word) (d : Option (BitVec 5)) :
    s.failed ((s.issued rs).atomic sw a rs' c o host op b d) f h ∧ ((s.issued rs).atomic sw a rs' c o host op b d).accs = s.accs := by
  have run : (s.issued rs).atomic sw a rs' c o host op b d = u.trapAccess f h := by
    unfold State.atomic
    dsimp only
    rw [fault]
  rw [run]
  exact State.trapAccess_failed trappable ((State.atomicCheck_sought ..).of_fst fault) f h

section
variable {s : State} (sw : Bool) (d a b : BitVec 5) (op : AtomicOp) (c : Scope) (o : Bool) (ty : AtomicTy)

theorem exec_amo (ready : s.ready [.x a, .x b, .x d]) :
    exec (.amo sw d a b op c o ty) s = .next ((s.issued [.x a, .x b]).atomic sw (s.readX a) [.x a] c o (decide (op = .add ∨ op = .swap)) (.op op ty) (s.readX b) (some d)) := by
  have run : exec (.amo sw d a b op c o ty) s = execAmo sw d a b op c o ty s := rfl
  have host : amoHost op = decide (op = .add ∨ op = .swap) := by simp [amoHost]
  rwa [execAmo, State.issue_issued ready, State.readX_issued, State.readX_issued, host] at run

theorem exec_red (ready : s.ready [.x a, .x b]) :
    exec (.red sw a b op c o ty) s = .next ((s.issued [.x a, .x b]).atomic sw (s.readX a) [.x a] c o (decide (op = .add)) (.op op ty) (s.readX b) none) := by
  have run : exec (.red sw a b op c o ty) s = execRed sw a b op c o ty s := rfl
  rwa [execRed, State.issue_issued (by simpa using ready), State.readX_issued, State.readX_issued] at run

theorem exec_cas (ready : s.ready [.x a, .x b, .x d, .x d]) :
    exec (.cas sw d a b c o ty) s = .next ((s.issued [.x a, .x b, .x d]).atomic sw (s.readX a) [.x a] c o true (.cas ty (s.readX d)) (s.readX b) (some d)) := by
  have run : exec (.cas sw d a b c o ty) s = execCas sw d a b c o ty s := rfl
  rwa [execCas, State.issue_issued ready, State.readX_issued, State.readX_issued, State.readX_issued] at run

end

/-! ## REDV (R285) -/

section
variable {s u : State} (sw : Bool) (d a b : BitVec 5) (op : AtomicOp) (c : Scope) (ty : AtomicTy) {h : Nat}

theorem exec_redv (ready : s.ready [.x a, .v b, .v d]) :
    exec (.redv sw d a b op c ty) s = .next (
      match State.checkAtomics (decide (op = .add)) c (atomicBits ty / 8) (redvAddr (s.readX a) (s.readV b) (atomicBits ty)) (redvLanes (s.readV b) (atomicBits ty))
        (s.issued [.x a, .v b, .v d]) with
      | (u, .error f, h) => u.trapAccess f h
      | (u, .ok ps, h) =>
        (State.pushPlaces u.seq (fun x i p =>
          x.newAcc p.key (atomicBits ty / 8) (redvAddr (s.readX a) (s.readV b) (atomicBits ty) i) p.page
            (.atomic (.op op ty) (BitVec.ofNat 64 (lane (u.readV d) (atomicBits ty) i)) none (p.splits c)) (u.holders p.key false [.x a, .v b])) ps u).retireAfter sw 4 h) := by
  have run : exec (.redv sw d a b op c ty) s = execRedv sw d a b op c ty s := rfl
  unfold execRedv at run
  rw [State.issue_issued (by simpa using ready)] at run
  dsimp only at run
  rw [State.readX_issued, show (s.issued [.x a, .v b, .v d]).readV b = s.readV b from s.readV_inTaint _ b] at run
  exact run

/-- REDV whose lanes pass their checks sends one access for each that is not skipped. -/
theorem State.redv_sends (ready : s.ready [.x a, .v b, .v d]) {ps : List (Nat × Place)}
    (ok : State.checkAtomics (decide (op = .add)) c (atomicBits ty / 8) (redvAddr (s.readX a) (s.readV b) (atomicBits ty)) (redvLanes (s.readV b) (atomicBits ty))
      (s.issued [.x a, .v b, .v d]) = (u, .ok ps, h)) :
    ∃ t, exec (.redv sw d a b op c ty) s = .next t ∧ s.sameRegs t ∧ s.goesOn t sw 4 h ∧ t.mem = s.mem ∧ ps.map (·.1) = redvLanes (s.readV b) (atomicBits ty) ∧
      t.accs.length = s.accs.length + ps.length ∧ (∀ z ∈ s.accs, z ∈ t.accs) ∧
      ∀ i q, (i, q) ∈ ps → ∃ y ∈ t.accs, y.key = q.key ∧ y.len = atomicBits ty / 8 ∧ y.ctx = s.cur ∧
        y.caddr = redvAddr (s.readX a) (s.readV b) (atomicBits ty) i ∧
        y.op = .atomic (.op op ty) (BitVec.ofNat 64 (lane (s.readV d) (atomicBits ty) i)) none (q.splits c) := by
  have found := (State.checkAtomics_sought ..).of_fst ok
  have run := exec_redv (s := s) sw d a b op c ty ready
  rw [ok] at run
  dsimp only at run
  have old : u.readV d = s.readV d := by
    unfold State.readV
    rw [found.ctx]
    exact s.readV_inTaint _ d
  rw [old] at run
  have amid : s.amid u := (s.issued_amid _).trans found.amid
  obtain ⟨only, _, length, kept, each⟩ := State.pushPlaces_sent u.seq (fun x i p => x.newAcc p.key (atomicBits ty / 8) (redvAddr (s.readX a) (s.readV b) (atomicBits ty) i) p.page
    (.atomic (.op op ty) (BitVec.ofNat 64 (lane (s.readV d) (atomicBits ty) i)) none (p.splits c)) (u.holders p.key false [.x a, .v b])) ps u
  refine ⟨_, run, (((s.issued_sameRegs _).trans found.sameRegs).trans only.sameRegs).trans (State.retireAfter_sameRegs ..), (amid.trans only.amid).goesOn sw 4 h,
    only.mem.trans found.mem, State.checkAtomics_lanes _ _ _ _ _ _ _ _ _ ok, length.trans (congrArg (·.length + ps.length) found.accs),
    fun z hz => kept z (found.accs ▸ hz), fun i q hq => ?_⟩
  obtain ⟨j, hj, e⟩ := List.getElem_of_mem hq
  obtain ⟨x, sent, _, at_⟩ := each j hj
  rw [e] at at_
  exact ⟨_, at_, rfl, rfl, (amid.trans sent.amid).cur, rfl, rfl⟩

theorem State.redv_fails (ready : s.ready [.x a, .v b, .v d]) (trappable : s.ctx.trappable) {f : AccessFault}
    (fault : State.checkAtomics (decide (op = .add)) c (atomicBits ty / 8) (redvAddr (s.readX a) (s.readV b) (atomicBits ty)) (redvLanes (s.readV b) (atomicBits ty))
      (s.issued [.x a, .v b, .v d]) = (u, .error f, h)) :
    ∃ t, exec (.redv sw d a b op c ty) s = .next t ∧ t.accs = s.accs ∧ s.failed t f h := by
  have run := exec_redv (s := s) sw d a b op c ty ready
  rw [fault] at run
  obtain ⟨failed, accs⟩ := State.trapAccess_failed trappable ((State.checkAtomics_sought ..).of_fst fault) f h
  exact ⟨_, run, accs, failed⟩

end

/-! ## The access is performed (R283, R286) -/

/-- The old value comes into the write that waits for it, if there is one. -/
def State.giveBack (s : State) (n : Fin 11) (w : Option Nat) (v : Vec) : State := match w with | some q => s.fill n q (fun _ => v) false | none => s

/-- What the unit gives back comes into the write that waits for it, if there is one; no register and no byte of memory changes. -/
structure State.fills (s t : State) (n : Fin 11) (w : Option Nat) (v : Vec) : Prop where
  only : t = { s with ctxs := t.ctxs, agenda := t.agenda }
  regs : ∀ k q, (t.ctxAt k).reg q = (s.ctxAt k).reg q
  bad : ∀ k, (t.ctxAt k).badLanes = (s.ctxAt k).badLanes
  write : ∀ q, w = some q → (t.ctxAt n).writes = (s.ctxAt n).writes.map fun x => if x.seq = q then { x with val := v, need := x.need - 1 } else x

theorem State.fill_fills (s : State) (n : Fin 11) (w : Option Nat) (v : Vec) :
    s.fills (s.giveBack n w v) n w v := by
  cases w with
  | none => exact ⟨rfl, fun _ _ => rfl, fun _ => rfl, fun q h => by cases h⟩
  | some q =>
    refine ⟨?_, fun k r => State.fill_reg .., fun k => ?_, fun q' h => ?_⟩
    · rw [State.giveBack]
      rw [State.fill_only]
      rfl
    · rw [State.giveBack]
      rw [State.fill_ctxAt]
      by_cases same : n = k
      · subst same
        rw [State.ctxAt_modCtxAt]
      · rw [State.ctxAt_modCtxAt_ne _ _ _ _ same]
    · cases h
      rw [State.giveBack]
      rw [State.fill_writes]
      exact List.map_congr_left fun x _ => PendingWrite.take_false x q _

theorem State.dropRead_eq (s : State) (a : Acc) : ∃ ctxs early accs, s.dropRead a = { s with ctxs, early, accs } ∧
    (∀ n, (s.ctxAt n).onlyOrder (State.ctxAt { s with ctxs, early, accs } n)) ∧ (a ∈ s.accs → ∃ q, { a with acq := q } ∈ accs) := by
  unfold State.dropRead
  split
  case h_1 n e =>
    obtain ⟨g, early, eq⟩ := s.forget_eq n
    rw [eq]
    refine ⟨_, _, _, rfl, fun m => ?_, fun mem => ⟨none, List.mem_map.2 ⟨a, mem, by rw [if_pos rfl]⟩⟩⟩
    unfold State.ctxAt
    dsimp only
    rw [mapVec_get]
    rfl
  case h_2 => exact ⟨s.ctxs, s.early, s.accs, rfl, fun _ => rfl, fun mem => ⟨a.acq, mem⟩⟩

/-- A read-modify-write of good bytes (R283, R286). -/
theorem State.performOp_atomic {s : State} {y : Acc} {r : Rmw} {v : Word} {w : Option Nat} {half : Bool} (op : y.op = .atomic r v w half)
    (good : s.badAt y.key y.len = none) :
    let old := natOfBytes (Memory.read s.mem y.key y.len)
    let t := s.giveBack y.ctx w (wide (atomicResult r.ty old))
    s.performOp y = if half = true then
        State.post { t.dropRead y with
          accs := (t.dropRead y).accs.map fun u : Acc => if u.seq = y.seq then { u with op := .unitWrite (bytesOfNat (r.new old v) y.len) } else u } (.accessPerformed y.seq)
      else (t.poke (t.sourceOf y.ctx) y.key (bytesOfNat (r.new old v) y.len)).dropAcc y := by
  unfold State.performOp
  rw [op]
  dsimp only
  rw [good]
  rfl

section
variable {s : State} {y : Acc} {r : Rmw} {v : Word} {w : Option Nat} {half : Bool} (op : y.op = .atomic r v w half) (good : s.badAt y.key y.len = none)
  (clean : ∀ k, (s.ctxAt k).badLanes = [])
include op good clean

/-- An atomic that its home performs at once (R283). -/
theorem State.performAcc_atomic (whole : half = false) (hh : s.unhashed) (snap : s.core.snapshot = none) :
    let old := natOfBytes (Memory.read s.mem y.key y.len)
    (∀ k q, ((s.performAcc y).ctxAt k).reg q = (s.ctxAt k).reg q) ∧
      (∀ q, w = some q → ((s.performAcc y).ctxAt y.ctx).writes = (s.ctxAt y.ctx).writes.map fun x =>
        if x.seq = q then { x with val := wide (atomicResult r.ty old), need := x.need - 1 } else x) ∧
      (∀ z ∈ (s.performAcc y).accs, z.seq ≠ y.seq) ∧ ∀ k, Memory.byte (s.performAcc y).mem k =
        if y.key ≤ k ∧ k < y.key + y.len then BitVec.ofNat 8 (r.new old v / 256 ^ (k - y.key)) else Memory.byte s.mem k := by
  intro old
  have fills := s.fill_fills y.ctx w (wide (atomicResult r.ty old))
  have run : s.performAcc y = ((((s.giveBack y.ctx w (wide (atomicResult r.ty old))).poke
      ((s.giveBack y.ctx w (wide (atomicResult r.ty old))).sourceOf y.ctx) y.key
      (bytesOfNat (r.new old v) y.len)).dropAcc y).reportBad y.ctx y.inst).wake := by
    rw [State.performAcc, State.performOp_atomic op good, whole]
    rfl
  rw [run]
  generalize (s.giveBack y.ctx w (wide (atomicResult r.ty old))) = t at fills ⊢
  have hashed : t.unhashed := by rw [fills.only]; exact hh
  have free : t.core.snapshot = none := by rw [fills.only]; exact snap
  obtain ⟨e, poked⟩ : ∃ e, t.poke (t.sourceOf y.ctx) y.key (bytesOfNat (r.new old v) y.len) =
      { t with mem := Memory.write t.mem y.key (bytesOfNat (r.new old v) y.len), early := e } := ⟨_, State.pokeAs_plain hashed free _ _ y.key _⟩
  rw [poked]
  obtain ⟨accs, mem, regs, writes, _⟩ := (State.dropAcc_left { t with mem := Memory.write t.mem y.key (bytesOfNat (r.new old v) y.len), early := e } y).wakes
    fun k => (fills.bad k).trans (clean k)
  refine ⟨fun k q => (regs k q).trans (fills.regs k q), fun q h => (writes y.ctx).trans (fills.write q h), fun z hz => ?_, fun k => ?_⟩
  · obtain ⟨x, _, ne, rfl⟩ := (accs z).1 hz
    exact ne
  · rw [mem, show t.mem = s.mem by rw [fills.only], Memory.byte_write, length_bytesOfNat]
    by_cases inside : y.key ≤ k ∧ k < y.key + y.len
    · rw [if_pos inside, if_pos inside, getD_bytesOfNat _ (by omega)]
    · rw [if_neg inside, if_neg inside]

/-- An atomic of a unit that reads first, and writes with a second access (R286). -/
theorem State.performAcc_splitAtomic (splits : half = true) (mem : y ∈ s.accs) :
    let old := natOfBytes (Memory.read s.mem y.key y.len)
    (∀ k q, ((s.performAcc y).ctxAt k).reg q = (s.ctxAt k).reg q) ∧
      (∀ q, w = some q → ((s.performAcc y).ctxAt y.ctx).writes = (s.ctxAt y.ctx).writes.map fun x =>
        if x.seq = q then { x with val := wide (atomicResult r.ty old), need := x.need - 1 } else x) ∧
      (s.performAcc y).mem = s.mem ∧ ∃ z ∈ (s.performAcc y).accs, z.seq = y.seq ∧ z.key = y.key ∧ z.op = .unitWrite (bytesOfNat (r.new old v) y.len) := by
  intro old
  have fills := s.fill_fills y.ctx w (wide (atomicResult r.ty old))
  have run : s.performAcc y = ((State.post { (s.giveBack y.ctx w (wide (atomicResult r.ty old))).dropRead y with
      accs := ((s.giveBack y.ctx w (wide (atomicResult r.ty old))).dropRead y).accs.map fun u : Acc =>
        if u.seq = y.seq then { u with op := .unitWrite (bytesOfNat (r.new old v) y.len) } else u } (.accessPerformed y.seq)).reportBad y.ctx y.inst).wake := by
    rw [State.performAcc, State.performOp_atomic op good, splits]
    rfl
  rw [run]
  generalize (s.giveBack y.ctx w (wide (atomicResult r.ty old))) = t at fills ⊢
  have here : y ∈ t.accs := by rw [fills.only]; exact mem
  obtain ⟨ctxs, early, accs, eq, ctx, kept⟩ := t.dropRead_eq y
  obtain ⟨q', at_⟩ := kept here
  rw [eq]
  generalize agree : State.post _ _ = x
  have ctxAt (k : Fin 11) : x.ctxAt k = State.ctxAt { t with ctxs, early, accs } k := by rw [← agree]; rfl
  have lanes : x.reportBad y.ctx y.inst = x := State.reportBad_none y.inst (by rw [ctxAt, (ctx y.ctx).badLanes, fills.bad, clean])
  rw [lanes]
  refine ⟨fun k q => ?_, fun q h => ?_, ?_, ?_⟩
  · rw [State.wake_ctxAt, Ctx.unholdInv_reg, ctxAt]
    exact ((ctx k).reg q).trans (fills.regs k q)
  · rw [State.wake_ctxAt]
    exact (congrArg Ctx.writes (ctxAt y.ctx)).trans ((ctx y.ctx).writes.trans (fills.write q h))
  · show x.mem = s.mem
    rw [← agree]
    exact (show t.mem = s.mem by rw [fills.only])
  · rw [State.wake_accs, ← agree]
    refine ⟨_, List.mem_map.2 ⟨_, List.mem_map.2 ⟨_, at_, rfl⟩, rfl⟩, ?_⟩
    rw [if_pos rfl]
    exact ⟨rfl, rfl, rfl⟩

end

/-- No other agent's atomic has read the bytes and not written them (R286). -/
theorem State.finishHalves_none {s : State} {key n : Nat} (none : ∀ x ∈ s.halves, overlaps x.key x.data.length key n = false) : s.finishHalves key n = s := by
  unfold State.finishHalves
  suffices all : ∀ (l : List Half) (_ : ∀ x ∈ l, overlaps x.key x.data.length key n = false) (t : State),
      l.foldl (fun t h => if overlaps h.key h.data.length key n then t.writeHalf h else t) t = t from all _ none s
  intro l
  induction l with
  | nil => exact fun _ _ => rfl
  | cons x xs ih =>
    intro h t
    rw [List.foldl_cons, h x (List.mem_cons_self ..), if_neg Bool.false_ne_true]
    exact ih (fun z hz => h z (List.mem_cons_of_mem _ hz)) t

/-! ## The operations (R284) -/

theorem sextNat_toInt (x : BitVec 64) : sextNat x.toNat 64 = x.toInt := by
  unfold sextNat
  dsimp only
  rw [BitVec.toInt_eq_toNat_cond]
  have := x.isLt
  split <;> split <;> omega

theorem Rmw.new_op_z64 (o : AtomicOp) (x v : BitVec 64) : Rmw.new (.op o .z64) x.toNat v = atomicFn o .z64 x.toNat v.toNat :=
  congrArg (atomicFn o .z64 x.toNat) (Nat.mod_eq_of_lt v.isLt)

theorem Rmw.new_op_s64 (o : AtomicOp) (x v : BitVec 64) : Rmw.new (.op o .s64) x.toNat v = atomicFn o .s64 x.toNat v.toNat :=
  congrArg (atomicFn o .s64 x.toNat) (Nat.mod_eq_of_lt v.isLt)

theorem atomicFn_min_z64 (x v : Nat) : atomicFn .min .z64 x v = Nat.min x v := by
  have whole : atomicFn .min .z64 x v = if (x : Int) ≤ (v : Int) then x else v := rfl
  simp only [whole, Int.ofNat_le]
  exact (Nat.min_def (n := x) (m := v)).symm

theorem atomicFn_max_z64 (x v : Nat) : atomicFn .max .z64 x v = Nat.max x v := by
  have whole : atomicFn .max .z64 x v = if (v : Int) ≤ (x : Int) then x else v := rfl
  simp only [whole, Int.ofNat_le]
  rw [show Nat.max x v = Nat.max v x from Nat.max_comm x v]
  exact (Nat.max_def (n := v) (m := x)).symm

theorem atomicFn_min_s64 (x v : BitVec 64) : atomicFn .min .s64 x.toNat v.toNat = (if x.toInt ≤ v.toInt then x else v).toNat := by
  have whole : atomicFn .min .s64 x.toNat v.toNat = if sextNat x.toNat 64 ≤ sextNat v.toNat 64 then x.toNat else v.toNat := rfl
  rw [whole, sextNat_toInt, sextNat_toInt, apply_ite BitVec.toNat]

theorem atomicFn_max_s64 (x v : BitVec 64) : atomicFn .max .s64 x.toNat v.toNat = (if v.toInt ≤ x.toInt then x else v).toNat := by
  have whole : atomicFn .max .s64 x.toNat v.toNat = if sextNat v.toNat 64 ≤ sextNat x.toNat 64 then x.toNat else v.toNat := rfl
  rw [whole, sextNat_toInt, sextNat_toInt, apply_ite BitVec.toNat]

theorem Rmw.new_cas_z64 (x y v : BitVec 64) : Rmw.new (.cas .z64 y) x.toNat v = (if x = y then v else x).toNat := by
  have whole : Rmw.new (.cas .z64 y) x.toNat v = if x.toNat = y.toNat % 2 ^ 64 then v.toNat % 2 ^ 64 else x.toNat := rfl
  rw [whole, Nat.mod_eq_of_lt y.isLt, Nat.mod_eq_of_lt v.isLt, apply_ite BitVec.toNat]
  simp only [BitVec.toNat_inj]

theorem atomicBytes_eq (ty : AtomicTy) : (match ty with | .z64 => 8 | .s64 => 8 | .z32 => 4 | .s32 => 4) = atomicBytes ty := by
  cases ty <;> rfl

/-- Settles O40: the checks of an atomic decide what it sends; what is sent reads, modifies and writes its word. -/
theorem atomicsReadModifyAndWrite : Obligations.AtomicsReadModifyAndWrite := by
  unfold Obligations.AtomicsReadModifyAndWrite
  intro s u sw d a b op c o ty p f h ps n A start sent fails
  have bytes : n = atomicBytes ty := atomicBytes_eq ty
  have sends {r : Rmw} {w : Option Nat} {t : State} (x : s.sendsAtomic t sw A n c o r (s.readX b) w p h) : sent t r w :=
    ⟨x.mem, x.goes, x.kept, x.one, x.sent⟩
  have pos : 0 < n := by cases ty <;> decide
  clear_value n
  subst bytes
  refine ⟨fun ⟨ready, ok⟩ => ?_, fun ⟨ready, fault⟩ able => ?_, fun ⟨ready, ok⟩ => ?_, fun ⟨ready, fault⟩ able => ?_, fun ⟨ready, ok⟩ => ?_,
    fun ⟨ready, fault⟩ able => ?_, ?_, fun run host => ⟨fun own => ?_, fun out => ?_⟩, ?_, fun x y v => ⟨?_, ?_, ?_, ?_, ?_, ?_, ?_, ?_, ?_, ?_⟩⟩
  · have run := exec_amo (s := s) sw d a b op c o ty ready
    obtain ⟨awaits, atomic⟩ := State.atomic_sends (op := .op op ty) ok sw [.x a] o (s.readX b) d
    exact ⟨_, run, awaits, sends atomic⟩
  · have run := exec_amo (s := s) sw d a b op c o ty ready
    obtain ⟨failed, accs⟩ := State.atomic_fails (op := .op op ty) able fault sw [.x a] o (s.readX b) (some d)
    exact ⟨_, run, accs, failed⟩
  · have run := exec_red (s := s) sw a b op c o ty (ready.mono (by simp))
    obtain ⟨same, atomic⟩ := State.atomic_passes (op := .op op ty) ok sw [.x a] o (s.readX b)
    exact ⟨_, run, same, sends atomic⟩
  · have run := exec_red (s := s) sw a b op c o ty (ready.mono (by simp))
    obtain ⟨failed, accs⟩ := State.atomic_fails (op := .op op ty) able fault sw [.x a] o (s.readX b) none
    exact ⟨_, run, accs, failed⟩
  · have run := exec_cas (s := s) sw d a b c o ty ready
    obtain ⟨awaits, atomic⟩ := State.atomic_sends (op := .cas ty (s.readX d)) ok sw [.x a] o (s.readX b) d
    exact ⟨_, run, awaits, sends atomic⟩
  · have run := exec_cas (s := s) sw d a b c o ty ready
    obtain ⟨failed, accs⟩ := State.atomic_fails (op := .cas ty (s.readX d)) able fault sw [.x a] o (s.readX b) (some d)
    exact ⟨_, run, accs, failed⟩
  · intro ix at_ lanes ready
    have bits : 8 * atomicBytes ty = atomicBits ty := by cases ty <;> rfl
    have count : 64 / atomicBytes ty = 512 / atomicBits ty := by cases ty <;> rfl
    have addr : redvAddr A ix (atomicBits ty) = at_ := by funext i; rw [← bits]; cases ty <;> rfl
    have list : redvLanes ix (atomicBits ty) = lanes := by rw [redvLanes, ← count, ← bits]
    have fault := State.redv_fails (s := s) (u := u) sw d a b op c ty (h := h) ready
    have passed := State.redv_sends (s := s) (u := u) sw d a b op c ty (h := h) ready (ps := ps)
    rw [addr, list, show atomicBits ty / 8 = atomicBytes ty from rfl] at fault passed
    refine ⟨fun bad able => fault able bad, fun ok => ?_⟩
    rw [bits]
    exact passed ok
  · rw [State.atomicCheck_local run pos, if_pos own]
    rfl
  · rw [State.atomicCheck_local run pos, if_neg (by rcases out with rfl | rfl <;> simp)]
  · intro y r v w half mem one can answers clean kind good apart hashed snap old
    have run := exec_accessPerformed mem one can answers
    have start : (if y.op.splits = true then s.finishHalves y.key y.len else s) = s := by
      rw [kind]
      cases half with
      | false => rfl
      | true => exact State.finishHalves_none (apart rfl)
    rw [start] at run
    cases half with
    | false =>
      obtain ⟨regs, writes, gone, byte⟩ := State.performAcc_atomic kind good clean rfl hashed snap
      exact ⟨_, run, regs, writes, fun _ => ⟨gone, byte⟩, fun h => Bool.noConfusion h⟩
    | true =>
      obtain ⟨regs, writes, kept, second⟩ := State.performAcc_splitAtomic kind good clean rfl mem
      exact ⟨_, run, regs, writes, fun h => Bool.noConfusion h, fun _ => ⟨kept, second⟩⟩
  · rw [Rmw.new_op_z64, BitVec.toNat_add]; rfl
  · rw [Rmw.new_op_z64, BitVec.toNat_and]; rfl
  · rw [Rmw.new_op_z64, BitVec.toNat_or]; rfl
  · rw [Rmw.new_op_z64, BitVec.toNat_xor]; rfl
  · rw [Rmw.new_op_z64]; rfl
  · rw [Rmw.new_op_z64, atomicFn_min_z64]
  · rw [Rmw.new_op_z64, atomicFn_max_z64]
  · rw [Rmw.new_op_s64, atomicFn_min_s64]
  · rw [Rmw.new_op_s64, atomicFn_max_s64]
  · exact Rmw.new_cas_z64 x y v

end Sys2Proof.Machine
end

section
/-! PROOF. O41: full/empty words and drapers (R288 to R291, R296 to R299). -/

namespace Sys2Proof.Machine

open Sys2Proof

/-! ## Reaching a word (R288, R154, R249) -/

theorem State.withWord_ok {s : State} {a : Word} {p : Place} (ok : s.wordCheck a = .ok p) (k : State → Place → State) : s.withWord a k = k s p := by
  rw [State.withWord, ok]

theorem State.waitAddress_ready {s : State} (h : s.ctx.wait = none) (v : Word) : s.waitAddress v = v := by
  rw [State.waitAddress, h]

/-- An instruction that has been answered with RETRY waits (R154). -/
theorem State.issued_awaitResend_waits (s : State) (rs : List Reg) (v : Word) : s.waits ((s.issued rs).awaitResend v) := by
  have ctx : ((s.issued rs).awaitResend v).ctx =
      { (s.issued rs).ctx with wait := some { (s.issued rs).ctx.waiting .other 1 v s.cycle with since := s.cycle }, nextIssue := s.cycle + 1 } := by
    rw [State.awaitResend, State.ctx_modCtx]
    rfl
  refine ⟨?_, ?_, ?_⟩
  · rw [ctx, State.awaitResend]
    simp [State.issued, State.modCtx, State.setCtx, State.ctx]
  · rw [ctx, State.issued_ctx]
  · rw [ctx]
    rfl

section
variable {s : State} {rs : List Reg} (idle : s.ctx.wait = none) (key : Nat) (rel : Option Scope) (v : Word) (k : State → State)
include idle

/-- Behind a watermark, and while the owner answers with RETRY, the instruction waits. -/
theorem State.atWord_blocked (h : ¬ (s.gated key 8 = false ∧ s.retried key = false)) : s.waits ((s.issued rs).atWord key rel v k) := by
  unfold State.atWord
  have gate : (s.issued rs).gated key 8 = s.gated key 8 := rfl
  have again : (s.issued rs).retried key = s.retried key := rfl
  have sends : (s.issued rs).resends = true := by
    unfold State.resends
    rw [State.issued_wait idle]
  rw [gate, again, sends]
  by_cases g : s.gated key 8 = true
  · rw [if_pos g]
    exact s.issued_block_waits idle rs .other 0 v
  · rw [if_neg g, if_neg (by decide), if_pos (by simpa [g] using h)]
    exact s.issued_awaitResend_waits rs v

theorem State.atWord_clear (gate : s.gated key 8 = false) (again : s.retried key = false) :
    (s.issued rs).atWord key rel v k = (s.issued rs).whenDone ((s.issued rs).wordWaits key rel) v k := by
  unfold State.atWord
  have gate' : (s.issued rs).gated key 8 = false := gate
  have again' : (s.issued rs).retried key = false := again
  have sends : (s.issued rs).resends = true := by
    unfold State.resends
    rw [State.issued_wait idle]
  rw [gate', again', sends]
  rfl

theorem State.atWord_done (gate : s.gated key 8 = false) (again : s.retried key = false) (done : ∀ y ∈ s.accs, (s.issued rs).wordWaits key rel y = false) :
    (s.issued rs).atWord key rel v k = k (s.issued rs) := by
  have none : (s.issued rs).accs.any ((s.issued rs).wordWaits key rel) = false :=
    List.any_eq_false.2 fun y hy => by rw [done y hy]; exact Bool.false_ne_true
  rw [State.atWord_clear idle key rel v k gate again, State.whenDone, none]
  rfl

theorem State.atWord_waits (gate : s.gated key 8 = false) (again : s.retried key = false) (held : ∃ y ∈ s.accs, (s.issued rs).wordWaits key rel y = true) :
    s.waits ((s.issued rs).atWord key rel v k) := by
  have some : (s.issued rs).accs.any ((s.issued rs).wordWaits key rel) = true := List.any_eq_true.2 held
  rw [State.atWord_clear idle key rel v k gate again, State.whenDone, if_pos some]
  exact s.issued_block_waits idle rs .other 0 v

end

/-! ## FPUT (R289) -/

theorem State.isFull_setFull_self (s : State) (key : Nat) (b : Bool) : (s.setFull key b).isFull key = b := Sparse.get_set_self ..

theorem State.isFull_setFull_ne (s : State) {key q : Nat} (h : q ≠ key) (b : Bool) : (s.setFull key b).isFull q = s.isFull q := Sparse.get_set_ne h ..

theorem State.deliver_same (s : State) (n : Fin 11) (v : Word) : s.amid (s.modCtxAt n fun c => c.deliver v) ∧ s.sameRegs (s.modCtxAt n fun c => c.deliver v) := by
  by_cases own : n = s.cur
  · subst own
    have ctx : (s.modCtxAt s.cur fun c => c.deliver v).ctx = s.ctx.deliver v := s.ctxAt_modCtxAt s.cur _
    exact ⟨⟨rfl, by rw [ctx]; exact ⟨rfl, rfl, rfl, rfl, rfl, rfl⟩, rfl⟩, fun r => by rw [ctx]; exact Ctx.reg_congr rfl rfl rfl r, by rw [ctx]; rfl⟩
  · have ctx : (s.modCtxAt n fun c => c.deliver v).ctx = s.ctx := s.ctxAt_modCtxAt_ne _ _ _ own
    exact ⟨⟨rfl, by rw [ctx]; exact .refl _, rfl⟩, fun r => by rw [ctx], by rw [ctx]⟩

/-- What an FPUT at the owner's banks does: the word is written, and given to its oldest deferred take, or full. -/
structure State.puts (u t : State) (key : Nat) (v : Word) : Prop where
  amid : u.amid t
  same : u.sameRegs t
  mem : t.mem = Memory.write u.mem key (bytesOfNat v.toNat 8)
  fills : (∀ e ∈ u.takers, e.key ≠ key) → t.isFull key = true ∧ t.takers = u.takers
  gives : ∀ e l r, u.takers = l ++ e :: r → (∀ x ∈ l, x.key ≠ key) → e.key = key → t.isFull key = u.isFull key ∧ t.takers = l ++ r ∧
    (e.core = u.core.num → t.ctxAt e.ctx = (u.ctxAt e.ctx).deliver v)

theorem State.fputAt_puts {u : State} (hashed : u.unhashed) (snap : u.core.snapshot = none) (source key id : Nat) (v : Word) :
    u.puts (u.fputAt source key id v) key v := by
  unfold State.fputAt
  obtain ⟨early, poked⟩ : ∃ early, u.poke source key (bytesOfNat v.toNat 8) = { u with mem := Memory.write u.mem key (bytesOfNat v.toNat 8), early } :=
    ⟨_, State.pokeAs_plain hashed snap _ _ key _⟩
  rw [poked]
  dsimp only
  split
  case h_1 none =>
    have no (e) (he : e ∈ u.takers) : e.key ≠ key := fun h => by simpa [h] using List.find?_eq_none.1 none e he
    exact ⟨⟨rfl, .refl _, rfl⟩, .refl u, rfl, fun _ => ⟨State.isFull_setFull_self .., rfl⟩,
      fun e l r split _ at_ => absurd at_ (no e (split ▸ List.mem_append_right _ (List.mem_cons_self ..)))⟩
  case h_2 e found =>
    have at_ : e.key = key := by simpa using List.find?_some found
    have listed : e ∈ u.takers := List.mem_of_find?_eq_some found
    have first (x l r) (split : u.takers = l ++ x :: r) (before : ∀ y ∈ l, y.key ≠ key) (hx : x.key = key) : x = e ∧ u.takers.erase e = l ++ r := by
      have here : (u.takers.find? fun e => decide (e.key = key)) = some x := by
        rw [split, List.find?_append, List.find?_eq_none.2 fun y hy => by simpa using before y hy]
        simp [hx]
      have eq : x = e := Option.some.inj (here.symm.trans found)
      subst eq
      refine ⟨rfl, ?_⟩
      rw [split, List.erase_append_right _ fun mem => before x mem hx, List.erase_cons_head]
    by_cases own : e.core = u.core.num
    · rw [if_pos own]
      generalize hw : ({ u with mem := Memory.write u.mem key (bytesOfNat v.toNat 8), early, filler := _, takers := _ } : State) = w
      obtain ⟨amid, same⟩ := w.deliver_same e.ctx v
      subst hw
      refine ⟨⟨amid.cycle, amid.way, amid.cur⟩, ⟨same.1, same.2⟩, rfl, fun no => absurd at_ (no e listed), fun x l r split before hx => ?_⟩
      obtain ⟨rfl, erased⟩ := first x l r split before hx
      exact ⟨rfl, erased, fun _ => State.ctxAt_modCtxAt ..⟩
    · rw [if_neg own]
      refine ⟨⟨rfl, .refl _, rfl⟩, .refl u, rfl, fun no => absurd at_ (no e listed), fun x l r split before hx => ?_⟩
      obtain ⟨rfl, erased⟩ := first x l r split before hx
      exact ⟨rfl, erased, fun own' => absurd own' own⟩

section
variable {s : State} (sw : Bool) (d a b : BitVec 5) (c : Scope) (k : Bool) {p : Place} (ok : s.wordCheck (s.readX a) = .ok p)
include ok

theorem exec_fput (ready : s.ready [.x a, .x b]) :
    exec (.fput sw a b c) s = .next ((s.issued [.x a, .x b]).atWord p.key (some c) (s.readX a) fun u =>
      if u.isFull p.key then u.trapHere 0x10 0 (s.readX a)
      else (u.fputAt u.source p.key (u.identity u.cur) (u.readX b)).retireAfter sw 4 (if p.owner = u.core.num then 4 else 24)) := by
  have run : exec (.fput sw a b c) s = execFput sw a b c s := rfl
  unfold execFput at run
  rw [State.issue_issued (by simpa using ready)] at run
  dsimp only at run
  have ok' : (s.issued [.x a, .x b]).wordCheck (s.readX a) = .ok p := ok
  rw [State.readX_issued, State.waitAddress_ready (State.issued_wait ready.1 _), State.withWord_ok ok'] at run
  exact run

theorem exec_ftake (ready : s.ready [.x a, .x d]) :
    exec (.ftake sw d a c) s = .next ((s.issued [.x a]).atWord p.key none (s.readX a) fun u =>
      match u.presentTake u.cur p.key with
      | (t, some v) => t.takeDone sw d c v
      | (t, none) => t.block .ftake 0 (u.readX a)) := by
  have run : exec (.ftake sw d a c) s = execFtake sw d a c s := rfl
  unfold execFtake at run
  rw [State.issue_issued (by simpa using ready)] at run
  have ok' : (s.issued [.x a]).wordCheck (s.readX a) = .ok p := ok
  rw [State.issued_wait ready.1] at run
  rw [State.readX_issued, State.withWord_ok ok', State.readX_issued] at run
  exact run

theorem exec_fpeek (ready : s.ready [.x a, .x d]) : let t := (s.issued [.x a]).writeLater (.x d) 0 1
    exec (.fpeek sw d a k) s = .next ((t.push (t.newAcc p.key 8 (s.readX a) (0, 0) (if k then .fullBit s.seq else .load (.scalar .z64) s.seq)
      ((s.issued [.x a]).holders p.key true [.x a]))).retire sw 4) := by
  have run : exec (.fpeek sw d a k) s = execFpeek sw d a k s := rfl
  unfold execFpeek at run
  rw [State.issue_issued (by simpa using ready)] at run
  dsimp only at run
  have ok' : (s.issued [.x a]).wordCheck (s.readX a) = .ok p := ok
  rw [State.readX_issued, State.withWord_ok ok', State.readX_issued] at run
  exact run

theorem exec_finit (ready : s.ready [.x a, .x b]) : let u := s.issued [.x a, .x b]
    exec (.finit sw a b k) s = .next ((u.push (u.newAcc p.key 8 (s.readX a) (0, 0) (.finit (s.readX b) k) (u.holders p.key false [.x a]))).retire sw 4) := by
  have run : exec (.finit sw a b k) s = execFinit sw a b k s := rfl
  unfold execFinit at run
  rw [State.issue_issued (by simpa using ready)] at run
  have ok' : (s.issued [.x a, .x b]).wordCheck (s.readX a) = .ok p := ok
  rw [State.readX_issued, State.withWord_ok ok', State.readX_issued, State.readX_issued] at run
  exact run

end

/-- A taken value comes to xD, and the context goes on (R289). -/
theorem State.takeDone_forms {s m : State} (amid : s.amid m) (same : s.sameRegs m) (seq : m.seq = s.seq) (sw : Bool) (d : BitVec 5) (c : Scope) (v : Word) :
    s.forms (m.takeDone sw d c v) (.x d) (wide v) ∧ s.goesOn (m.takeDone sw d c v) sw 4 1 ∧ (m.takeDone sw d c v).mem = m.mem ∧ (m.takeDone sw d c v).full = m.full := by
  have acquired : s.amid (m.acquire c) := amid.trans ⟨rfl, .refl _, rfl⟩
  obtain ⟨forms, goes, mem⟩ := State.forms_retire acquired (m := m.acquire c) ⟨same.1, same.2⟩ seq (.x d) (wide v) sw 4 1
  have full : ((m.acquire c).writeLater (.x d) (wide v) 0).full = m.full := by
    have only := (m.acquire c).writeLater_onlySends (.x d) (wide v) 0
    rw [only]
    rfl
  exact ⟨forms, goes, mem, full⟩

theorem State.presentTake_full {s : State} {key : Nat} (h : s.isFull key = true) (n : Fin 11) :
    s.presentTake n key = (s.setFull key false, some (bitsOfBytes 64 (Memory.read s.mem key 8))) := by
  rw [State.presentTake, if_pos h]
  rfl

theorem State.presentTake_empty {s : State} {key : Nat} (h : s.isFull key = false) (room : s.takers.length < 64) (n : Fin 11) :
    s.presentTake n key = ({ s with takers := s.takers ++ [{ core := s.core.num, ctx := n, key }] }, none) := by
  rw [State.presentTake, if_neg (by rw [h]; exact Bool.false_ne_true), if_pos (Nat.lt_of_le_of_lt (List.length_filter_le ..) room)]

/-- A waiting take to which its value has been delivered completes. -/
theorem exec_ftake_delivered {s : State} (sw : Bool) (d a : BitVec 5) (c : Scope) {w : Wait} {v : Word} (wait : s.ctx.wait = some w) (kind : w.kind = .ftake)
    (delivered : w.delivered = some v) : exec (.ftake sw d a c) s = .next (s.takeDone sw d c v) := by
  have run : exec (.ftake sw d a c) s = execFtake sw d a c s := rfl
  unfold execFtake at run
  rw [State.issue, if_pos (by rw [wait]; rfl), wait] at run
  dsimp only at run
  rw [if_pos kind, delivered] at run
  exact run

theorem State.block_idle {u : State} (h : u.ctx.wait = none) (kind : WaitKind) (q : BitVec 8) (addr : Word) :
    u.block kind q addr = u.setCtx { u.ctx with wait := some (u.ctx.waiting kind q addr u.cycle), nextIssue := u.cycle + 1 } := by
  unfold State.block State.modCtx
  dsimp only
  rw [h]

/-- A stalled take is presented again (R289). -/
theorem exec_takePresentedAgain {s : State} {n : Fin 11} {w : Wait} {key : Nat} (wait : (s.ctxAt n).wait = some w) (stalled : s.stalledTake n = true)
    (word : s.wordKey w.addr = some key) : exec (.takePresentedAgain n) s = .next (
      if s.gated key 8 = true ∨ s.retried key = true then s
      else match s.presentTake n key with
        | (t, some v) => t.modCtxAt n fun c => c.deliver v
        | (t, none) => t) := by
  have run : exec (.takePresentedAgain n) s = execTakePresentedAgain n s := rfl
  unfold execTakePresentedAgain at run
  rw [if_pos stalled, wait, Option.bind_some, word] at run
  exact run

/-! ## FINIT and swatches as they are performed (R289, R297) -/

/-- FINIT at the owner's banks writes the word and its bit, and sends its deferred takes back. -/
theorem State.performAcc_finit {s : State} {y : Acc} {v : Word} {f : Bool} (op : y.op = .finit v f) (hashed : s.unhashed) (snap : s.core.snapshot = none)
    (clean : ∀ m, (s.ctxAt m).badLanes = []) :
    (s.performAcc y).isFull y.key = f ∧ (∀ e ∈ (s.performAcc y).takers, e.key ≠ y.key) ∧
      ∀ q, Memory.byte (s.performAcc y).mem q = if y.key ≤ q ∧ q < y.key + 8 then BitVec.ofNat 8 (v.toNat / 256 ^ (q - y.key)) else Memory.byte s.mem q := by
  obtain ⟨early, poked⟩ : ∃ early, s.poke (s.sourceOf y.ctx) y.key (bytesOfNat v.toNat 8) = { s with mem := Memory.write s.mem y.key (bytesOfNat v.toNat 8), early } :=
    ⟨_, State.pokeAs_plain hashed snap _ _ y.key _⟩
  have run : s.performAcc y = (((s.finitAt (s.sourceOf y.ctx) y.key v f).dropAcc y).reportBad y.ctx y.inst).wake := by
    rw [State.performAcc, State.performOp, op]
  have put : s.finitAt (s.sourceOf y.ctx) y.key v f = { s with
      mem := Memory.write s.mem y.key (bytesOfNat v.toNat 8), early, full := Sparse.set false s.full y.key f, takers := s.takers.filter fun e => decide (e.key ≠ y.key) } := by
    rw [State.finitAt, poked]
    rfl
  rw [run, put]
  generalize ht : ({ s with mem := _, early := early, full := _, takers := _ } : State) = t
  have left := t.dropAcc_left y
  have lanes (m : Fin 11) : (t.ctxAt m).badLanes = [] := by rw [← ht]; exact clean m
  obtain ⟨_, mem, _, _, _⟩ := left.wakes lanes
  have quiet := State.reportBad_none y.inst ((left.ctxAt y.ctx).badLanes.trans (lanes y.ctx))
  rw [quiet] at mem ⊢
  refine ⟨?_, fun e he => ?_, fun q => ?_⟩
  · show Sparse.get false (t.dropAcc y).full y.key = f
    rw [left.only, ← ht]
    exact Sparse.get_set_self ..
  · have listed : e ∈ (t.dropAcc y).takers := he
    rw [left.only, ← ht] at listed
    exact of_decide_eq_true (List.mem_filter.1 listed).2
  · rw [mem, ← ht, Memory.byte_write, length_bytesOfNat]
    by_cases inside : y.key ≤ q ∧ q < y.key + 8
    · rw [if_pos inside, if_pos inside, getD_bytesOfNat _ (by omega)]
    · rw [if_neg inside, if_neg inside]

theorem State.drawSwatch_draper (s : State) (n : Nat) :
    (s.drawSwatch n).draper n = (s.draper n).map fun g => if g.limit ≤ g.next then g else g.advance := by
  unfold State.draper State.drawSwatch
  dsimp only
  induction s.drapers with
  | nil => rfl
  | cons q l ih =>
    rw [List.map_cons, List.find?_cons, List.find?_cons]
    by_cases here : q.1 = n
    · by_cases more : q.2.next < q.2.limit
      · simp [here, more, Nat.not_le.2 more]
      · simp [here, more, Nat.not_lt.1 more]
    · simpa [here] using ih

/-- A draper's answer comes into xD and p0, and the draper goes on to its next swatch (R297). -/
theorem State.performAcc_swatch {s : State} {y : Acc} {n wx wp : Nat} {g : Draper} (op : y.op = .swatch n wx wp) (apart : wx ≠ wp) (granted : s.draper n = some g)
    (clean : ∀ m, (s.ctxAt m).badLanes = []) :
    (s.performAcc y).mem = s.mem ∧ (s.performAcc y).draper n = some (if g.limit ≤ g.next then g else g.advance) ∧
      ((s.performAcc y).ctxAt y.ctx).writes = (s.ctxAt y.ctx).writes.map fun x =>
        if x.seq = wx then { x with val := if g.limit ≤ g.next then 0 else BitVec.ofNat 512 g.next, need := x.need - 1 }
        else if x.seq = wp then { x with val := if g.limit ≤ g.next then 0 else wide (BitVec.allOnes 64), need := x.need - 1 } else x := by
  have run : s.performAcc y = (((((s.drawSwatch n).formWrite y.ctx wx (BitVec.ofNat 512 g.swatch.1)).formWrite y.ctx wp (g.swatch.2.setWidth 512)).dropAcc y).reportBad
      y.ctx y.inst).wake := by
    rw [State.performAcc, State.performOp, op]
    dsimp only
    rw [State.serveSwatch, granted]
  rw [run]
  have first : (s.drawSwatch n).fills ((s.drawSwatch n).formWrite y.ctx wx (BitVec.ofNat 512 g.swatch.1)) y.ctx (some wx) (BitVec.ofNat 512 g.swatch.1) :=
    State.fill_fills _ y.ctx (some wx) _
  generalize (s.drawSwatch n).formWrite y.ctx wx (BitVec.ofNat 512 g.swatch.1) = t at first ⊢
  have second : t.fills (t.formWrite y.ctx wp (g.swatch.2.setWidth 512)) y.ctx (some wp) (g.swatch.2.setWidth 512) := State.fill_fills _ y.ctx (some wp) _
  generalize t.formWrite y.ctx wp (g.swatch.2.setWidth 512) = u at second ⊢
  have lanes (m : Fin 11) : (u.ctxAt m).badLanes = [] := (second.bad m).trans ((first.bad m).trans (clean m))
  have left := u.dropAcc_left y
  obtain ⟨_, mem, _, writes, _⟩ := left.wakes lanes
  have drapers : ((u.dropAcc y).reportBad y.ctx y.inst).wake.drapers = (s.drawSwatch n).drapers := by
    rw [State.reportBad_none y.inst ((left.ctxAt y.ctx).badLanes.trans (lanes y.ctx))]
    show (u.dropAcc y).drapers = _
    rw [left.only, second.only, first.only]
  refine ⟨?_, ?_, ?_⟩
  · rw [mem, second.only, first.only]
    rfl
  · unfold State.draper
    rw [drapers]
    exact (s.drawSwatch_draper n).trans (by rw [granted]; rfl)
  · rw [writes, second.write wp rfl, first.write wx rfl, List.map_map]
    refine List.map_congr_left fun x _ => ?_
    have one : (BitVec.ofNat 512 g.swatch.1 : Vec) = if g.limit ≤ g.next then 0 else BitVec.ofNat 512 g.next := by
      unfold Draper.swatch
      split <;> rfl
    have two : (g.swatch.2.setWidth 512 : Vec) = if g.limit ≤ g.next then 0 else wide (BitVec.allOnes 64) := by
      unfold Draper.swatch
      split
      · simp
      · exact congrArg (BitVec.setWidth 512) (show allOnes64 = BitVec.allOnes 64 from rfl)
    rw [one, two, Function.comp_apply]
    by_cases hx : x.seq = wx
    · rw [if_pos hx, if_pos hx]
      exact if_neg fun e => apart (hx.symm.trans e)
    · rw [if_neg hx, if_neg hx]

/-! ## Drapers (R296 to R299) -/

section
variable {s : State} (sw : Bool) (d a : BitVec 5) (ready : s.ready [.x a, .x d, .p 0])
include ready

theorem exec_swalloc : exec (.swalloc sw d a) s = .next (
    if s.job.superstep then (s.issued [.x a]).phaseViolation
    else (s.issued [.x a]).withDraper (s.readX a) fun s' _ =>
      let t := s'.writeLater (.x d) 0 1
      let u := t.writeLater (.p 0) 0 1
      (u.push (u.newAcc 0 0 0 (0, 0) (.swatch (s'.readX a).toNat s'.seq t.seq) [])).retire sw 4) := by
  have run : exec (.swalloc sw d a) s = execSwalloc sw d a s := rfl
  unfold execSwalloc at run
  rw [State.issue_issued (by simpa using ready), State.readX_issued] at run
  exact run

theorem exec_swstat : exec (.swstat sw d a) s = .next ((s.issued [.x a]).withDraper (s.readX a) fun s p =>
    (s.writeLater (.x d) (BitVec.ofNat 512 (2 ^ 63 + p.sz % 8 * 2 ^ 60 + Nat.min p.left (2 ^ 32 - 1))) 0).retire sw 4) := by
  have run : exec (.swstat sw d a) s = execSwstat sw d a s := rfl
  unfold execSwstat at run
  rw [State.issue_issued (ready.mono (by simp)), State.readX_issued] at run
  exact run

end

/-- Both instructions ask for the draper first, SWALLOC outside superstep mode. -/
theorem exec_drapered {s : State} {sw : Bool} {d a : BitVec 5} {j : Instr} (ready : s.ready [.x a, .x d, .p 0])
    (which : j = .swalloc sw d a ∧ s.job.superstep = false ∨ j = .swstat sw d a) : ∃ k, exec j s = .next ((s.issued [.x a]).withDraper (s.readX a) k) := by
  rcases which with ⟨rfl, compute⟩ | rfl
  · have run := exec_swalloc sw d a ready
    rw [if_neg (by rw [compute]; exact Bool.false_ne_true)] at run
    exact ⟨_, run⟩
  · exact ⟨_, exec_swstat sw d a ready⟩

theorem State.withDraper_granted {s : State} {a : Word} {g : Draper} (small : a.toNat ≤ 127) (granted : s.draper a.toNat = some g) (k : State → Draper → State) :
    s.withDraper a k = k s g := by
  rw [State.withDraper, if_neg (Nat.not_lt.2 small), granted]

theorem State.withDraper_refused {s : State} {a : Word} (small : a.toNat ≤ 127) (refused : s.draper a.toNat = none) (k : State → Draper → State) :
    s.withDraper a k = s.resource 3 := by
  rw [State.withDraper, if_neg (Nat.not_lt.2 small), refused]

theorem State.withDraper_none {s : State} {a : Word} (big : 127 < a.toNat) (k : State → Draper → State) : s.withDraper a k = s.illegal := by
  rw [State.withDraper, if_pos big]

/-- The fields of what SWSTAT reads (R299). -/
theorem swstat_fields (z m : Nat) (hm : m < 2 ^ 32) : let N := 2 ^ 63 + z % 8 * 2 ^ 60 + m
    (BitVec.ofNat 512 N : Vec) = wide (BitVec.ofNat 64 N) ∧ (BitVec.ofNat 64 N).getLsbD 63 = true ∧ natBits (BitVec.ofNat 64 N).toNat 62 60 = z % 8 ∧
      natBits (BitVec.ofNat 64 N).toNat 59 32 = 0 ∧ natBits (BitVec.ofNat 64 N).toNat 31 0 = m := by
  intro N
  have hz : z % 8 < 8 := Nat.mod_lt _ (by decide)
  have hN : N < 2 ^ 64 := by omega
  have val : (BitVec.ofNat 64 N).toNat = N := by rw [BitVec.toNat_ofNat, Nat.mod_eq_of_lt hN]
  refine ⟨?_, ?_, ?_, ?_, ?_⟩
  · apply BitVec.eq_of_toNat_eq
    rw [BitVec.toNat_setWidth, val, BitVec.toNat_ofNat]
  · rw [BitVec.getLsbD, val, Nat.testBit_eq_decide_div_mod_eq]
    exact decide_eq_true (by omega)
  all_goals
    rw [val]
    unfold natBits
    omega

/-- Settles O41: what stands in the word's bit, its deferred list and the draper decides what an instruction does. -/
theorem fullEmptyWordsAndDrapers : Obligations.FullEmptyWordsAndDrapers := by
  unfold Obligations.FullEmptyWordsAndDrapers
  intro s sw d a b c k p A B still clear
  refine ⟨fun ok => ⟨fun blocked => ⟨fun ready => ?_, fun ready => ?_⟩, fun ⟨gate, again⟩ ready done empty hashed snap => ?_, fun ⟨gate, again⟩ ready held => ?_,
    fun ⟨gate, again⟩ ready done full able => ?_, fun ⟨gate, again⟩ ready held => ?_, fun ⟨gate, again⟩ ready done => ⟨fun full => ?_, fun empty room => ?_⟩, fun ready => ?_,
    fun ready => ?_⟩, fun w v wait kind delivered => ?_, fun n w key wait stalled word => ⟨fun blocked => ?_, fun gate again => ⟨fun full => ?_, fun empty room => ?_⟩⟩,
    fun y v f mem one op can answers clean hashed snap => ?_, fun g ready small granted => ⟨fun compute => ?_, ?_⟩, fun ready phase able => ?_,
    fun j which ready able => ⟨fun big => ?_, fun small refused => ?_⟩, fun y n wx wp g mem one op apart granted can answers clean => ?_⟩
  · exact ⟨_, exec_fput sw a b c ok ready, State.atWord_blocked ready.1 _ _ _ _ blocked⟩
  · exact ⟨_, exec_ftake sw d a c ok ready, State.atWord_blocked ready.1 _ _ _ _ blocked⟩
  · have run := exec_fput sw a b c ok ready
    rw [State.atWord_done ready.1 _ _ _ _ gate again done] at run
    have vacant : (s.issued [.x a, .x b]).isFull p.key = false := empty
    rw [vacant, if_neg Bool.false_ne_true, State.readX_issued] at run
    have puts := State.fputAt_puts (u := s.issued [.x a, .x b]) hashed snap (s.issued [.x a, .x b]).source p.key
      ((s.issued [.x a, .x b]).identity (s.issued [.x a, .x b]).cur) B
    generalize (s.issued [.x a, .x b]).fputAt _ p.key _ _ = t at run puts
    refine ⟨_, run, ((s.issued_amid _).trans puts.amid).goesOn sw 4 _, ((s.issued_sameRegs _).trans puts.same).trans (State.retireAfter_sameRegs ..), fun q => ?_,
      fun no => puts.fills no, fun e l r split before at_ => ?_⟩
    · rw [State.retireAfter_mem, puts.mem, Memory.byte_write, length_bytesOfNat]
      by_cases inside : p.key ≤ q ∧ q < p.key + 8
      · rw [if_pos inside, if_pos inside, getD_bytesOfNat _ (by omega)]
      · rw [if_neg inside, if_neg inside]
        rfl
    · obtain ⟨kept, takers, delivers⟩ := puts.gives e l r split before at_
      refine ⟨kept.trans empty, takers, fun own w wait ne => ?_⟩
      have cur : t.cur = s.cur := puts.amid.cur
      rw [State.retireAfter, State.ctxAt_modCtx_ne _ _ (by rw [cur]; exact ne), delivers own]
      have same : (s.issued [.x a, .x b]).ctxAt e.ctx = s.ctxAt e.ctx := State.ctxAt_modCtx_ne _ _ ne
      rw [same, Ctx.deliver, wait]
      rfl
  · exact ⟨_, exec_fput sw a b c ok ready, State.atWord_waits ready.1 _ _ _ _ gate again held⟩
  · have run := exec_fput sw a b c ok ready
    rw [State.atWord_done ready.1 _ _ _ _ gate again done] at run
    have there : (s.issued [.x a, .x b]).isFull p.key = true := full
    rw [if_pos there] at run
    obtain ⟨t, run', only, entered⟩ := State.trapHere_trapsIn run able
    exact ⟨t, run', (congrArg State.full (show t = _ from only) :), entered⟩
  · exact ⟨_, exec_ftake sw d a c ok ready, State.atWord_waits ready.1 _ _ _ _ gate again held⟩
  · have run := exec_ftake sw d a c ok ready
    rw [State.atWord_done ready.1 _ _ _ _ gate again done, State.presentTake_full (show (s.issued [.x a]).isFull p.key = true from full)] at run
    dsimp only at run
    rw [show (s.issued [.x a]).mem = s.mem from rfl] at run
    have amid : s.amid ((s.issued [.x a]).setFull p.key false) := (s.issued_amid _).trans ⟨rfl, .refl _, rfl⟩
    obtain ⟨forms, goes, mem, bits⟩ := State.takeDone_forms amid (m := (s.issued [.x a]).setFull p.key false) (s.issued_sameRegs _) rfl sw d c
      (bitsOfBytes 64 (Memory.read s.mem p.key 8))
    refine ⟨_, run, forms, goes, ?_, fun q ne => ?_, mem⟩
    · rw [State.isFull, bits]
      exact State.isFull_setFull_self (s.issued [.x a]) p.key false
    · rw [State.isFull, bits]
      exact State.isFull_setFull_ne (s.issued [.x a]) ne false
  · have run := exec_ftake sw d a c ok ready
    rw [State.atWord_done ready.1 _ _ _ _ gate again done, State.presentTake_empty (show (s.issued [.x a]).isFull p.key = false from empty) room] at run
    dsimp only at run
    rw [State.block_idle] at run
    case h => exact State.issued_wait ready.1 _
    refine ⟨_, (s.issued [.x a]).ctx.waiting .ftake 0 ((s.issued [.x a]).readX a) s.cycle, run, rfl, ?_, ?_, ?_, ?_, ⟨fun r => ?_, ?_⟩, rfl, rfl⟩
    · rw [State.ctx_setCtx]
      rfl
    · rw [Ctx.waiting, State.issued_wait ready.1]
    · rw [Ctx.waiting, State.issued_wait ready.1]
    · rw [State.ctx_setCtx]
      exact (s.issued_sameWay [.x a]).pc
    · rw [State.ctx_setCtx]
      exact (Ctx.reg_congr rfl rfl rfl r).trans ((s.issued_sameRegs [.x a]).1 r)
    · rw [State.ctx_setCtx]
      exact (s.issued_sameRegs [.x a]).2
  · have run := exec_fpeek sw d a k ok ready
    have late := (s.issued [.x a]).writeLater_onlySends (.x d) 0 1
    have amid : s.amid ((s.issued [.x a]).writeLater (.x d) 0 1) := (s.issued_amid _).trans ((s.issued [.x a]).writeLater_amid _ _ _)
    have waits : s.awaits ((s.issued [.x a]).writeLater (.x d) 0 1) (.x d) 0 1 := ((s.issued [.x a]).writeLater_awaits _ _ _).of_sameRegs (s.issued_sameRegs _) rfl
    have accs : ((s.issued [.x a]).writeLater (.x d) 0 1).accs = s.accs := State.writeLater_accs ..
    dsimp only at run
    generalize (s.issued [.x a]).writeLater (.x d) 0 1 = m at run late amid waits accs
    refine ⟨_, _, run, waits.then_sameRegs (State.sameRegs.trans ⟨fun _ => rfl, rfl⟩ (State.retireAfter_sameRegs ..)), ⟨late.mem, ?_, ?_, fun z hz => ?_⟩,
      List.mem_append_right _ (List.mem_singleton.2 rfl), rfl, rfl, amid.cur, rfl⟩
    · show m.full = s.full
      rw [late]
      rfl
    · exact (amid.trans (State.push_onlySent m _).amid).goesOn sw 4 1
    · exact List.mem_append_left _ (accs ▸ hz)
  · have run := exec_finit sw a b k ok ready
    exact ⟨_, _, run, (s.issued_sameRegs _).trans (State.sameRegs.trans ⟨fun _ => rfl, rfl⟩ (State.retireAfter_sameRegs ..)),
      ⟨rfl, rfl, ((s.issued_amid _).trans (State.push_onlySent _ _).amid).goesOn sw 4 1, fun z hz => List.mem_append_left _ hz⟩,
      List.mem_append_right _ (List.mem_singleton.2 rfl), rfl, rfl, rfl, rfl⟩
  · obtain ⟨forms, goes, mem, full⟩ := State.takeDone_forms (s := s) (m := s) ⟨rfl, .refl _, rfl⟩ (.refl s) rfl sw d c v
    exact ⟨_, exec_ftake_delivered sw d a c wait kind delivered, forms, goes, mem, full⟩
  · have run := exec_takePresentedAgain wait stalled word
    rw [if_pos blocked] at run
    exact run
  · have run := exec_takePresentedAgain wait stalled word
    rw [if_neg (by rw [gate, again]; simp), State.presentTake_full full] at run
    dsimp only at run
    refine ⟨_, run, s.isFull_setFull_self key false, rfl, ?_⟩
    rw [State.ctxAt_modCtxAt]
    have same : (s.setFull key false).ctxAt n = s.ctxAt n := rfl
    show Option.map _ ((s.setFull key false).ctxAt n).wait = _
    rw [same, wait]
    rfl
  · have run := exec_takePresentedAgain wait stalled word
    rw [if_neg (by rw [gate, again]; simp), State.presentTake_empty empty room] at run
    exact ⟨_, run, rfl⟩
  · have run := exec_accessPerformed mem one can answers
    rw [show y.op.splits = false by rw [op]; rfl, if_neg Bool.false_ne_true] at run
    exact ⟨_, run, State.performAcc_finit op hashed snap clean⟩
  · have run := exec_swalloc sw d a ready
    rw [if_neg (by rw [compute]; exact Bool.false_ne_true), State.withDraper_granted small (show (s.issued [.x a]).draper A.toNat = some g from granted)] at run
    dsimp only at run
    rw [State.readX_issued] at run
    have late := (s.issued [.x a]).writeLater_onlySends (.x d) 0 1
    have amid : s.amid ((s.issued [.x a]).writeLater (.x d) 0 1) := (s.issued_amid _).trans ((s.issued [.x a]).writeLater_amid _ _ _)
    have first : s.awaits ((s.issued [.x a]).writeLater (.x d) 0 1) (.x d) 0 1 := ((s.issued [.x a]).writeLater_awaits _ _ _).of_sameRegs (s.issued_sameRegs _) rfl
    have seq : ((s.issued [.x a]).writeLater (.x d) 0 1).seq = s.seq + 1 := State.writeLater_seq ..
    generalize (s.issued [.x a]).writeLater (.x d) 0 1 = m at run late amid first seq
    have late' := late.trans (m.writeLater_onlySends (.p 0) 0 1)
    have amid' := amid.trans (m.writeLater_amid (.p 0) 0 1)
    have second := m.writeLater_awaits (.p 0) 0 1
    generalize m.writeLater (.p 0) 0 1 = u at run late' amid' second
    have retired := State.retireAfter_sameRegs (u.push (u.newAcc 0 0 0 (0, 0) (.swatch A.toNat (s.issued [.x a]).seq m.seq) [])) sw 4 1
    have writes : u.ctx.writes = m.ctx.writes ++ [⟨.p 0, 0, 1, s.seq + 1, none, false, false, 0⟩] := (second.write (by simp)).trans (by rw [seq])
    refine ⟨_, _, run, fun q => (retired.1 q).trans ((second.regs q).trans (first.regs q)), (amid'.trans (State.push_onlySent u _).amid).goesOn sw 4 1, late'.mem, ?_,
      List.mem_append_right _ (List.mem_singleton.2 rfl), ?_, amid'.cur, fun hd => ?_, ?_⟩
    · show u.drapers = s.drapers
      rw [late']
      rfl
    · exact congrArg (AccOp.swatch A.toNat s.seq) seq
    · refine (congrArg (_ ∈ ·) (retired.2.trans writes)).mpr (List.mem_append_left _ ?_)
      rw [first.write (by simpa using hd)]
      exact List.mem_append_right _ (List.mem_singleton.2 rfl)
    · exact (congrArg (_ ∈ ·) (retired.2.trans writes)).mpr (List.mem_append_right _ (List.mem_singleton.2 rfl))
  · have run := exec_swstat sw d a ready
    rw [State.withDraper_granted small (show (s.issued [.x a]).draper A.toNat = some g from granted)] at run
    obtain ⟨same, top, size, zero, left⟩ := swstat_fields g.sz (Nat.min g.left (2 ^ 32 - 1)) (Nat.lt_of_le_of_lt (Nat.min_le_right ..) (by decide))
    rw [same] at run
    obtain ⟨forms, goes, mem⟩ := State.forms_retire (s.issued_amid [.x a]) (s.issued_sameRegs _) rfl (.x d) (wide (BitVec.ofNat 64 (2 ^ 63 + g.sz % 8 * 2 ^ 60 +
      Nat.min g.left (2 ^ 32 - 1)))) sw 4 1
    exact ⟨_, _, run, forms, goes, mem, top, size, zero, left⟩
  · have run := exec_swalloc sw d a ready
    rw [if_pos phase] at run
    exact ⟨_, run, State.issued_phaseViolation_entered able _⟩
  · obtain ⟨k, run⟩ := exec_drapered ready which
    rw [State.withDraper_none big] at run
    exact ⟨_, run, State.issued_illegal_entered able _⟩
  · obtain ⟨k, run⟩ := exec_drapered ready which
    rw [State.withDraper_refused small (show (s.issued [.x a]).draper A.toNat = none from refused)] at run
    exact ⟨_, run, State.issued_trapHere_entered able ..⟩
  · have run := exec_accessPerformed mem one can answers
    rw [show y.op.splits = false by rw [op]; rfl, if_neg Bool.false_ne_true] at run
    exact ⟨_, run, State.performAcc_swatch op apart granted clean⟩

end Sys2Proof.Machine
end

section
/-! PROOF. O42: spikes (R292 to R295). -/

namespace Sys2Proof.Machine

open Sys2Proof

/-! ## Traps of a state that a check has left -/

/-- A trap of an instruction whose context is as it was at issue leaves the core's units as they are. -/
theorem State.trapHere_refuses {s m : State} {rs : List Reg} (able : s.ctx.trappable) (ctx : m.ctx = (s.issued rs).ctx) (job : m.job = s.job) (cause : BitVec 8)
    (detail : BitVec 32) (addr : Word) : (m.trapHere cause detail addr).core = m.core ∧
      s.ctx.entered (m.trapHere cause detail addr).ctx (TrapInfo.at s.ctx.pc cause detail addr) s.job.trapvec := by
  have able' : m.ctx.trappable := ctx ▸ State.issued_trappable able rs
  have pc : m.pc = s.ctx.pc := (congrArg Ctx.pc ctx).trans (s.issued_sameWay rs).pc
  refine ⟨State.raise_core able' _, ?_⟩
  have entered := State.raise_entered able' (TrapInfo.at m.pc cause detail addr)
  rw [ctx, State.issued_ctx, job, pc] at entered
  rw [State.trapHere, pc]
  exact entered.of_inTaint

/-- A failed check leaves the core's units as they are. -/
theorem State.trapAccess_spike {s u : State} {rs : List Reg} (trappable : s.ctx.trappable) (found : (s.issued rs).sought u) (f : AccessFault) (h : Nat) :
    (u.trapAccess f h).core.spike = s.core.spike := by
  have able : u.ctx.trappable := found.ctx ▸ State.issued_trappable trappable rs
  have same : u.core.spike = s.core.spike := by rw [found.core]; rfl
  unfold State.trapAccess State.raiseAfter
  split
  · rw [State.raise_core able]
    exact same
  · exact same

/-! ## Bytes and entries -/

theorem entryBytes_length : ∀ l : List Word, (entryBytes l).length = 8 * l.length
  | [] => rfl
  | e :: l => by
    have tail := entryBytes_length l
    unfold entryBytes at tail ⊢
    rw [List.flatMap_cons, List.length_append, tail, length_bytesOfNat, List.length_cons]
    omega

theorem getD_entryBytes : ∀ (l : List Word) (i : Nat), i < 8 * l.length → (entryBytes l).getD i 0 = BitVec.ofNat 8 ((l.getD (i / 8) 0).toNat / 256 ^ (i % 8))
  | [], i, h => absurd h (Nat.not_lt_zero i)
  | e :: l, i, h => by
    have cons : entryBytes (e :: l) = bytesOfNat e.toNat 8 ++ entryBytes l := List.flatMap_cons ..
    rw [cons]
    by_cases first : i < 8
    · rw [List.getD_append _ _ _ _ (by rw [length_bytesOfNat]; exact first), getD_bytesOfNat _ first, Nat.div_eq_of_lt first, Nat.mod_eq_of_lt first]
      rfl
    · rw [List.getD_append_right _ _ _ _ (by rw [length_bytesOfNat]; omega), length_bytesOfNat,
        getD_entryBytes l (i - 8) (by rw [List.length_cons] at h; omega), show i / 8 = (i - 8) / 8 + 1 by omega, show i % 8 = (i - 8) % 8 by omega, List.getD_cons_succ]

theorem Memory.read_drop_take (m : List Host.Cell) (k n i j : Nat) (h : i + j ≤ n) : ((Memory.read m k n).drop i).take j = Memory.read m (k + i) j := by
  obtain ⟨r, rfl⟩ : ∃ r, n = i + (j + r) := ⟨n - (i + j), by omega⟩
  rw [Memory.read_add, List.drop_left' (Memory.length_read ..), Memory.read_add, List.take_left' (Memory.length_read ..)]

/-- The entries of a batch as it is read back (R293). -/
theorem entriesOf_read (m : List Host.Cell) (k : Nat) :
    entriesOf (Memory.read m k 2048) = (List.range 256).map fun i => BitVec.ofNat 64 (natOfBytes (Memory.read m (k + 8 * i) 8)) := by
  unfold entriesOf
  refine List.map_congr_left fun i hi => ?_
  rw [Memory.read_drop_take _ _ _ _ _ (by have : i < 256 := List.mem_range.1 hi; omega)]

theorem packNat_congr (w : Nat) {f g : Nat → Nat} : ∀ n, (∀ i < n, f i = g i) → packNat w f n = packNat w g n
  | 0, _ => rfl
  | n + 1, h => by
    rw [packNat, packNat, packNat_congr w n fun i hi => h i (Nat.lt_succ_of_lt hi), h n (Nat.lt_succ_self n)]

/-! ## Spike descriptors (R292) -/

/-- A power of two in the range of a ring's size. -/
theorem isPow2_ring (n : Nat) : (4096 ≤ n ∧ n ≤ 65536 ∧ isPow2 n = true) ↔ ∃ k, 12 ≤ k ∧ k ≤ 16 ∧ n = 2 ^ k := by
  constructor
  · rintro ⟨lo, hi, pow⟩
    have two : n &&& (n - 1) = 0 := by
      unfold isPow2 at pow
      exact of_decide_eq_true ((Bool.and_eq_true _ _).mp pow).2
    obtain ⟨k, rfl⟩ := (Nat.and_sub_one_eq_zero_iff_isPowerOfTwo (by omega)).1 two
    exact ⟨k, (Nat.pow_le_pow_iff_right (by decide : 1 < 2)).1 lo, (Nat.pow_le_pow_iff_right (by decide : 1 < 2)).1 hi, rfl⟩
  · rintro ⟨k, lo, hi, rfl⟩
    interval_cases k <;> decide

/-- A descriptor is refused where a field is out of its range (R292). -/
theorem badSpike_iff (ring rsize spill ssize : Nat) : badSpike ring rsize spill ssize = false ↔
    (∃ k, 12 ≤ k ∧ k ≤ 16 ∧ rsize = 2 ^ k) ∧ ring % rsize = 0 ∧ spill % 2048 = 0 ∧ ssize < 2 ^ 32 ∧ ssize % 2048 = 0 ∧
      (ssize ≠ 0 → regionOf (BitVec.ofNat 64 spill) = .translated) := by
  rw [← isPow2_ring]
  unfold badSpike
  simp only [Bool.or_eq_false_iff, Bool.and_eq_false_iff, decide_eq_false_iff_not, Bool.not_eq_false', Nat.not_lt, Nat.not_le, ne_eq, Classical.not_not]
  tauto

theorem State.inClaim_iff (s : State) (k : ClaimKind) (lo n m : Nat) :
    s.inClaim k lo (n + m) = true ↔ ∃ c ∈ s.job.claims, c.kind = k ∧ c.off ≤ lo ∧ lo + n + m ≤ c.off + c.bytes := by
  simp only [State.inClaim, List.any_eq_true, Bool.and_eq_true, decide_eq_true_eq, and_assoc, Nat.add_assoc]

/-- The own scratchpad's bytes that an instruction reads at issue, in the local window, with no access outstanding and behind no watermark. -/
theorem State.withOwn_open {s : State} {a : Word} {n align : Nat} (accs : s.accs = []) (gate : s.gated (scratchKey s.core.num.toNat a.toNat) n = false)
    (aligned : a.toNat % align = 0) (pos : 0 < n) (fits : a.toNat + n ≤ 0x80000) (free : s.claimed? a.toNat n = false) (v : Word) (k : State → List Byte → State) :
    s.withOwn a n align v k =
      k (s.dropEarly s.cur (scratchKey s.core.num.toNat a.toNat) n) (Memory.read s.mem (scratchKey s.core.num.toNat a.toNat) n) := by
  unfold State.withOwn State.checkOwn
  rw [State.check_local aligned pos fits fun _ => free]
  dsimp only [localPlace]
  rw [gate, State.whenDone, accs]
  have seen : s.seen s.cur (scratchKey s.core.num.toNat a.toNat) n = Memory.read s.mem (scratchKey s.core.num.toNat a.toNat) n := by
    unfold State.seen State.seenBy State.ownOver
    rw [accs]
    rfl
  rw [seen]
  rfl

/-- The empty spike of a descriptor's bytes (R292). -/
def claimedSpike (bs : List Byte) : Spike :=
  { ring := BitVec.ofNat 19 (fieldAt bs 0 8), rsize := fieldAt bs 8 8, spill := BitVec.ofNat 64 (fieldAt bs 16 8), ssize := fieldAt bs 24 8,
    entries := [], staging := [], head := 0, batches := 0 }

/-! ## The instructions -/

section
variable {s : State} (sw : Bool) (d a : BitVec 5)

theorem exec_spkclaim (ready : s.ready [.x a]) (aligned : (s.readX a).toNat % 8 = 0) (fits : (s.readX a).toNat + 32 ≤ 0x80000)
    (free : ∀ c ∈ s.job.claims, overlaps (s.readX a).toNat 32 c.off c.bytes = false) (accs : s.accs = [])
    (gate : s.gated (scratchKey s.core.num.toNat (s.readX a).toNat) 32 = false) :
    let u := (s.issued [.x a]).dropEarly s.cur (scratchKey s.core.num.toNat (s.readX a).toNat) 32
    let bs := Memory.read s.mem (scratchKey s.core.num.toNat (s.readX a).toNat) 32
    exec (.spkclaim sw a) s = .next (
      if s.core.spike.isSome ∨ badSpike (fieldAt bs 0 8) (fieldAt bs 8 8) (fieldAt bs 16 8) (fieldAt bs 24 8) then u.illegal
      else if s.inClaim .spike (fieldAt bs 0 8) (fieldAt bs 8 8 + 2048) = false then u.resource 3
      else (u.modCore fun c => { c with spike := some (claimedSpike bs) }).retire sw 4) := by
  have run : exec (.spkclaim sw a) s = execSpkclaim sw a s := rfl
  unfold execSpkclaim at run
  have unclaimed : (s.issued [.x a]).claimed? (s.readX a).toNat 32 = false := by
    unfold State.claimed?
    exact List.any_eq_false.2 fun c hc => by rw [free c hc]; exact Bool.false_ne_true
  rw [State.issue_issued (by simpa using ready)] at run
  dsimp only at run
  rw [State.readX_issued, State.waitAddress_ready (State.issued_wait ready.1 _), State.withOwn_open (s := s.issued [.x a]) accs gate aligned (by decide) fits unclaimed] at run
  exact run

theorem exec_spkpush (ready : s.ready [.x a]) : exec (.spkpush sw a) s = .next (match s.core.spike with
    | none => (s.issued [.x a]).illegal
    | some p => (s.issued [.x a]).pushRoom p fun t key h => (t.spikeAppend p (s.readX a) key).retireAfter sw 4 (Nat.max h 1)) := by
  have run : exec (.spkpush sw a) s = execSpkpush sw a s := rfl
  unfold execSpkpush at run
  rw [State.issue_issued (by simpa using ready), State.readX_issued] at run
  exact run

theorem exec_spkpop (ready : s.ready [.v d, .x a]) : exec (.spkpop sw d a) s = .next (match s.core.spike with
    | none => (s.issued []).illegal
    | some p =>
      if 8 ≤ p.staging.length ∨ p.batches = 0 then (s.issued []).spikeTake sw d a p 4 1
      else if s.job.superstep then (s.issued []).spikePhase (p.batchAddr 0)
      else match (s.issued []).check .load (p.batchAddr 0) 2048 8 s.exchange with
        | (t, .error f, h) => t.trapAccess f h
        | (t, .ok q, h) => t.spikeTake sw d a
            { p with staging := p.staging ++ entriesOf (t.peek q.key 2048), head := (p.head + 1) % p.slots, batches := p.batches - 1 } (36 + h + t.loadTime q.key) h) := by
  have run : exec (.spkpop sw d a) s = execSpkpop sw d a s := rfl
  unfold execSpkpop at run
  rw [State.issue_issued (by simpa using ready)] at run
  exact run

end

theorem Ctx.write_sameWay (c : Ctx) (r : Reg) (v : Vec) (lat cycle seq : Nat) : c.sameWay (c.write r v lat cycle seq) := by
  rw [Ctx.write_only]
  exact ⟨rfl, rfl, rfl, rfl, rfl, rfl⟩

theorem State.write_amid (s : State) (r : Reg) (v : Vec) (lat : Nat) : s.amid (s.write r v lat) :=
  ⟨rfl, by rw [State.write_ctx]; exact Ctx.write_sameWay .., rfl⟩

/-- What SPKPOP leaves: the entries taken go to vD and their number to xA. -/
theorem State.spikeTake_pops {s m : State} (amid : s.amid m) (same : s.sameRegs m) (seq : m.seq = s.seq) (sw : Bool) (d a : BitVec 5) (p : Spike) {lat : Nat} (hold : Nat)
    (late : 1 < lat) (all : List Word) (first : ∀ i < 8, all.getD i 0 = (p.staging ++ p.entries).getD i 0) (length : Nat.min 8 all.length = Nat.min 8 (p.staging ++ p.entries).length) :
    let t := m.spikeTake sw d a p lat hold
    (s.goesOn t sw 4 hold ∧ (∀ r, t.ctx.reg r = s.ctx.reg r) ∧
      ⟨.v d, ofLanes 64 8 fun i => (all.getD i 0).toNat, 0, s.seq, some (s.cycle + lat), false, false, 0⟩ ∈ t.ctx.writes ∧
      (a ≠ 0 → ⟨.x a, wide (BitVec.ofNat 64 (Nat.min 8 all.length)), 0, s.seq + 1, some (s.cycle + lat), false, false, 0⟩ ∈ t.ctx.writes)) ∧
      t.mem = m.mem ∧ t.core.spike = some { p with staging := p.staging.drop 8, entries := p.entries.drop (8 - p.staging.length) } := by
  intro t
  have out (i : Nat) (hi : i < 8) : ((p.staging ++ p.entries).take 8).getD i 0 = (p.staging ++ p.entries).getD i 0 := by
    simp only [List.getD_eq_getElem?_getD, List.getElem?_take, hi, if_true]
  have vec : (ofLanes 64 8 fun i => (((p.staging ++ p.entries).take 8).getD i 0).toNat) = ofLanes 64 8 fun i => (all.getD i 0).toNat :=
    congrArg (BitVec.ofNat 512) (packNat_congr 64 8 fun i hi => by rw [out i hi, first i hi])
  have count : ((p.staging ++ p.entries).take 8).length = Nat.min 8 all.length := by rw [List.length_take, length]
  generalize hn : m.modCore (fun c => { c with spike := some { p with staging := p.staging.drop 8, entries := p.entries.drop (8 - p.staging.length) } }) = n at *
  have eq : t = (((n.writeV d (ofLanes 64 8 fun i => (all.getD i 0).toNat) lat).writeX a (BitVec.ofNat 64 (Nat.min 8 all.length)) lat).retireAfter sw 4 hold) := by
    show m.spikeTake sw d a p lat hold = _
    unfold State.spikeTake
    dsimp only
    rw [hn, vec, count]
  have n_amid : s.amid n := by subst hn; exact amid.trans ⟨rfl, .refl _, rfl⟩
  have n_same : s.sameRegs n := by subst hn; exact same
  have n_seq : n.seq = s.seq := by subst hn; exact seq
  have first' := n.write_lands (.v d) (ofLanes 64 8 fun i => (all.getD i 0).toNat) lat trivial
  have w_amid := n_amid.trans (n.write_amid (.v d) (ofLanes 64 8 fun i => (all.getD i 0).toNat) lat)
  have w_seq : (n.write (.v d) (ofLanes 64 8 fun i => (all.getD i 0).toNat) lat).seq = s.seq + 1 := congrArg (· + 1) n_seq
  have w_mem : (n.write (.v d) (ofLanes 64 8 fun i => (all.getD i 0).toNat) lat).mem = m.mem := by subst hn; rfl
  have w_core : (n.write (.v d) (ofLanes 64 8 fun i => (all.getD i 0).toNat) lat).core.spike =
      some { p with staging := p.staging.drop 8, entries := p.entries.drop (8 - p.staging.length) } := by subst hn; rfl
  rw [State.writeV, State.writeX] at eq
  generalize n.write (.v d) (ofLanes 64 8 fun i => (all.getD i 0).toNat) lat = w at *
  have second := w.write_lands (.x a) (wide (BitVec.ofNat 64 (Nat.min 8 all.length))) lat (Reg.fits_wide _ _)
  have x_amid := w_amid.trans (w.write_amid (.x a) (wide (BitVec.ofNat 64 (Nat.min 8 all.length))) lat)
  rw [eq]
  generalize hx : w.write (.x a) (wide (BitVec.ofNat 64 (Nat.min 8 all.length))) lat = x at *
  have retired := x.retireAfter_sameRegs sw 4 hold
  have here : ⟨.v d, ofLanes 64 8 fun i => (all.getD i 0).toNat, 0, s.seq, some (s.cycle + lat), false, false, 0⟩ ∈ w.ctx.writes := by
    rw [first'.later (by simp) late, n_seq, n_amid.cycle]
    exact List.mem_append_right _ (List.mem_singleton.2 rfl)
  refine ⟨⟨x_amid.goesOn sw 4 hold, fun r => ?_, ?_, fun ha => ?_⟩, ?_, ?_⟩
  · rw [retired.1, second.others r (.inr (.inl late)), first'.others r (.inr (.inl late)), n_same.1]
  · rw [retired.2]
    by_cases ha : a = 0
    · rwa [second.zero (by rw [ha])]
    · rw [second.later (by simpa using ha) late]
      exact List.mem_append_left _ here
  · rw [retired.2, second.later (by simpa using ha) late, w_seq, w_amid.cycle]
    exact List.mem_append_right _ (List.mem_singleton.2 rfl)
  · subst hx
    exact w_mem
  · subst hx
    exact w_core

theorem State.retire_calm {s m : State} (amid : s.amid m) (same : s.sameRegs m) (sw : Bool) :
    s.sameRegs (m.retire sw 4) ∧ s.goesOn (m.retire sw 4) sw 4 1 := ⟨same.trans (State.retireAfter_sameRegs ..), amid.goesOn sw 4 1⟩

/-- Settles O42: the descriptor, the ring's room and the staged entries decide what a spike does. -/
theorem spikesKeepTheirEntriesInOrder : Obligations.SpikesKeepTheirEntriesInOrder := by
  unfold Obligations.SpikesKeepTheirEntriesInOrder
  intro s u sw d a p q h A bs calm refuses field pow good inside pops
  have trap {j : Instr} {m : State} {rs : List Reg} {cause : BitVec 8} {detail : BitVec 32} {addr : Word} (run : exec j s = .next (m.trapHere cause detail addr))
      (ctx : m.ctx = (s.issued rs).ctx) (job : m.job = s.job) (core : m.core = s.core) : refuses j cause detail addr := fun able => by
    obtain ⟨kept, entered⟩ := State.trapHere_refuses able ctx job cause detail addr
    exact ⟨_, run, by rw [kept, core], entered⟩
  have phase {j : Instr} {rs : List Reg} {x : Word} (run : exec j s = .next ((s.issued rs).spikePhase x)) : refuses j 0x07 0 0 := fun able =>
    ⟨_, run, congrArg Core.spike (State.issued_violation_core able rs ..), State.issued_violation_entered able rs ..⟩
  have taken : badSpike (fieldAt bs 0 8) (fieldAt bs 8 8) (fieldAt bs 16 8) (fieldAt bs 24 8) = false ↔ good := badSpike_iff ..
  have claimed : s.inClaim .spike (fieldAt bs 0 8) (fieldAt bs 8 8 + 2048) = true ↔ inside := State.inClaim_iff ..
  refine ⟨fun ready aligned fits free accs gate => ⟨fun vacant ok within => ?_, fun refused => ?_, fun vacant ok out => ?_⟩, fun vacant ready => ⟨?_, ?_⟩,
    fun there ready => ⟨fun room => ?_, fun full spent => ?_, fun full more step => ?_, fun full more step hashed snap ok => ?_, fun f full more step able fault => ?_,
      fun f few some step able fault => ?_, fun enough => ?_, fun few some step => ?_, fun few some step ok => ?_⟩, ?_, fun ready => ?_⟩
  · have run := exec_spkclaim sw a ready aligned fits free accs gate
    dsimp only at run
    rw [vacant, if_neg (by rw [taken.2 ok]; simp), if_neg (by rw [claimed.2 within]; simp)] at run
    have amid : s.amid (State.modCore ((s.issued [.x a]).dropEarly s.cur (scratchKey s.core.num.toNat A.toNat) 32) fun c => { c with spike := some (claimedSpike bs) }) :=
      (s.issued_amid [.x a]).trans ⟨rfl, .refl _, rfl⟩
    obtain ⟨same, goes⟩ := State.retire_calm amid (s.issued_sameRegs [.x a]) sw
    exact ⟨_, claimedSpike bs, run, ⟨same, goes, rfl⟩, rfl, rfl, rfl, rfl, rfl, rfl, rfl, rfl, rfl⟩
  · have run := exec_spkclaim sw a ready aligned fits free accs gate
    dsimp only at run
    have no : s.core.spike.isSome = true ∨ badSpike (fieldAt bs 0 8) (fieldAt bs 8 8) (fieldAt bs 16 8) (fieldAt bs 24 8) = true :=
      refused.imp id fun bad => Bool.of_not_eq_false fun e => bad (taken.1 e)
    rw [if_pos no] at run
    exact trap (rs := [.x a]) run rfl rfl rfl
  · have run := exec_spkclaim sw a ready aligned fits free accs gate
    dsimp only at run
    rw [vacant, if_neg (by rw [taken.2 ok]; simp), if_pos (Bool.eq_false_of_not_eq_true fun e => out (claimed.1 e))] at run
    exact trap (rs := [.x a]) run rfl rfl rfl
  · have run := exec_spkpush (s := s) sw a (ready.mono (by simp))
    rw [vacant] at run
    exact trap run rfl rfl rfl
  · have run := exec_spkpop (s := s) sw d a (ready.mono (by simp))
    rw [vacant] at run
    exact trap run rfl rfl rfl
  · have run := exec_spkpush (s := s) sw a (ready.mono (by simp))
    rw [there] at run
    dsimp only at run
    rw [State.pushRoom, if_pos room] at run
    have amid : s.amid ((s.issued [.x a]).modCore fun c => { c with spike := some { p with entries := p.entries ++ [A] } }) := (s.issued_amid [.x a]).trans ⟨rfl, .refl _, rfl⟩
    obtain ⟨same, goes⟩ := State.retire_calm amid (s.issued_sameRegs [.x a]) sw
    exact ⟨_, run, ⟨same, goes, rfl⟩, rfl, rfl⟩
  · have run := exec_spkpush (s := s) sw a (ready.mono (by simp))
    rw [there] at run
    dsimp only at run
    rw [State.pushRoom, if_neg (Nat.not_lt.2 full), if_pos (show p.slots ≤ p.batches from spent)] at run
    exact trap run rfl rfl rfl
  · have run := exec_spkpush (s := s) sw a (ready.mono (by simp))
    rw [there] at run
    dsimp only at run
    rw [State.pushRoom, if_neg (Nat.not_lt.2 full), if_neg (show ¬ p.slots ≤ p.batches from Nat.not_le.2 more), if_pos (show (s.issued [.x a]).job.superstep = true from step)] at run
    exact phase run
  · have run := exec_spkpush (s := s) sw a (ready.mono (by simp))
    rw [there] at run
    dsimp only at run
    rw [State.pushRoom, if_neg (Nat.not_lt.2 full), if_neg (show ¬ p.slots ≤ p.batches from Nat.not_le.2 more),
      if_neg (by rw [show (s.issued [.x a]).job.superstep = false from step]; exact Bool.false_ne_true), show (s.issued [.x a]).exchange = s.exchange from rfl, ok] at run
    dsimp only at run
    have found : (s.issued [.x a]).sought u := (State.check_sought ..).of_fst ok
    have plain : u.unhashed := by rw [State.unhashed, State.allJobs, found]; exact hashed
    have free : u.core.snapshot = none := by rw [found.core]; exact snap
    obtain ⟨early, poked⟩ : ∃ early, u.poke u.unitSource q.key (entryBytes (p.entries.take 256)) =
        { u with mem := Memory.write u.mem q.key (entryBytes (p.entries.take 256)), early } := ⟨_, State.pokeAs_plain plain free _ _ q.key _⟩
    rw [State.spikeAppend] at run
    dsimp only [batchEntries] at run
    rw [poked] at run
    refine ⟨_, run, ((s.issued_sameRegs _).trans found.sameRegs).trans (State.sameRegs.trans ⟨fun _ => rfl, rfl⟩ (State.retireAfter_sameRegs ..)),
      State.amid.goesOn ?_ sw 4 _, found.accs, rfl, fun k => ?_⟩
    · exact ((s.issued_amid _).trans found.amid).trans ⟨rfl, .refl _, rfl⟩
    have length : (entryBytes (p.entries.take 256)).length = 8 * Nat.min 256 p.entries.length := by rw [entryBytes_length, List.length_take]
    show Memory.byte (Memory.write u.mem q.key (entryBytes (p.entries.take 256))) k = _
    rw [Memory.byte_write, length, found.mem]
    by_cases within : q.key ≤ k ∧ k < q.key + 8 * Nat.min 256 p.entries.length
    · have small : k - q.key < 8 * Nat.min 256 p.entries.length := by omega
      rw [if_pos within, if_pos within, getD_entryBytes _ _ (by rw [List.length_take]; exact small)]
      have entry : (p.entries.take 256).getD ((k - q.key) / 8) 0 = p.entries.getD ((k - q.key) / 8) 0 := by
        have : (k - q.key) / 8 < 256 := by have : Nat.min 256 p.entries.length ≤ 256 := Nat.min_le_left ..; omega
        simp only [List.getD_eq_getElem?_getD, List.getElem?_take, this, if_true]
      rw [entry]
    · rw [if_neg within, if_neg within]
      rfl
  · have run := exec_spkpush (s := s) sw a (ready.mono (by simp))
    rw [there] at run
    dsimp only at run
    rw [State.pushRoom, if_neg (Nat.not_lt.2 full), if_neg (show ¬ p.slots ≤ p.batches from Nat.not_le.2 more), if_neg (by rw [show (s.issued [.x a]).job.superstep = false from step]; exact Bool.false_ne_true),
      show (s.issued [.x a]).exchange = s.exchange from rfl, fault] at run
    have found := (State.check_sought ..).of_fst fault
    exact ⟨_, run, State.trapAccess_spike able found f h, (State.trapAccess_failed able found f h).1⟩
  · have run := exec_spkpop (s := s) sw d a (ready.mono (by simp))
    rw [there] at run
    dsimp only at run
    rw [if_neg (by omega), if_neg (by rw [step]; exact Bool.false_ne_true), fault] at run
    have found := (State.check_sought ..).of_fst fault
    exact ⟨_, run, State.trapAccess_spike able found f h, (State.trapAccess_failed able found f h).1⟩
  · have run := exec_spkpop (s := s) sw d a (ready.mono (by simp))
    rw [there] at run
    dsimp only at run
    rw [if_pos enough] at run
    obtain ⟨popped, mem, spike⟩ := State.spikeTake_pops (s.issued_amid []) (s.issued_sameRegs []) rfl sw d a p (lat := 4) 1 (by decide) (p.staging ++ p.entries) (fun _ _ => rfl) rfl
    exact ⟨_, run, popped, mem, spike⟩
  · have run := exec_spkpop (s := s) sw d a (ready.mono (by simp))
    rw [there] at run
    dsimp only at run
    rw [if_neg (by omega), if_pos step] at run
    exact phase run
  · have run := exec_spkpop (s := s) sw d a (ready.mono (by simp))
    rw [there] at run
    dsimp only at run
    rw [if_neg (by omega), if_neg (by rw [step]; exact Bool.false_ne_true), ok] at run
    dsimp only at run
    have found : (s.issued []).sought u := (State.check_sought ..).of_fst ok
    have time : u.loadTime q.key = s.loadTime q.key := by
      unfold State.loadTime State.die State.within
      rw [found.core, found.cycle]
      rfl
    rw [State.peek, found.mem, entriesOf_read, time] at run
    intro st
    have long : 8 ≤ st.length := by
      rw [List.length_append, List.length_map, List.length_range]
      omega
    obtain ⟨popped, mem, spike⟩ := State.spikeTake_pops ((s.issued_amid _).trans found.amid) ((s.issued_sameRegs _).trans found.sameRegs) found.seq sw d a
      { p with staging := st, head := (p.head + 1) % p.slots, batches := p.batches - 1 } (lat := 36 + h + s.loadTime q.key) h (by omega) st
      (fun i hi => (List.getD_append st p.entries 0 i (by omega)).symm)
      ((Nat.min_eq_left long).trans (Nat.min_eq_left (by show 8 ≤ (st ++ p.entries).length; rw [List.length_append (as := st)]; omega)).symm)
    refine ⟨_, run, popped, mem.trans found.mem, spike.trans ?_⟩
    rw [show 8 - st.length = 0 by omega]
    rfl
  · exact State.issue_gives (v := fun u => wide (spkWord u.core.spike)) [] [.x d] rfl (fun _ => rfl) (Reg.fits_wide _ _)
  · have run : exec (.spkfree sw) s = execSpkfree sw s := rfl
    rw [execSpkfree, State.issue_issued ready] at run
    obtain ⟨same, goes⟩ := State.retire_calm (m := (s.issued []).modCore fun c => { c with spike := none }) ((s.issued_amid []).trans ⟨rfl, .refl _, rfl⟩) (s.issued_sameRegs []) sw
    exact ⟨_, run, ⟨same, goes, rfl⟩, rfl, rfl⟩

end Sys2Proof.Machine
end

section
/-! SUPPORT. Looms as their instructions see them (R347 to R358). -/

namespace Sys2Proof.Machine

/-- What an instruction leaves that completes and has changed the core's units or what is known of the cluster. -/
theorem State.retire_units (s : State) (rs : List Reg) (k : Core) (l : Cluster) (sw : Bool) (gap : Nat) :
    let t := ({ s.issued rs with core := k, clu := l } : State).retireAfter sw 4 gap
    (t.mem = s.mem ∧ t.accs = s.accs ∧ s.sameRegs t ∧ s.goesOn t sw 4 gap) ∧ t.core = k ∧ t.clu = l := by
  intro t
  have amid : s.amid { s.issued rs with core := k, clu := l } := (s.issued_amid rs).trans ⟨rfl, .refl _, rfl⟩
  exact ⟨⟨rfl, rfl, (s.issued_sameRegs rs).trans (State.sameRegs.trans ⟨fun _ => rfl, rfl⟩ (State.retireAfter_sameRegs ..)), amid.goesOn sw 4 gap⟩, rfl, rfl⟩

/-- A trap that an instruction takes leaves the core's units as they are. -/
def State.refuses (s : State) (j : Instr) (cause : BitVec 8) (detail : BitVec 32) (caddr : Word) : Prop := s.ctx.trappable →
  ∃ t, exec j s = .next t ∧ t.core = s.core ∧ s.ctx.entered t.ctx (TrapInfo.at s.ctx.pc cause detail caddr) s.job.trapvec

section
variable {s : State} {j : Instr} {rs : List Reg}

theorem State.refuses_trapHere {cause : BitVec 8} {detail : BitVec 32} {addr : Word} (run : exec j s = .next ((s.issued rs).trapHere cause detail addr)) :
    s.refuses j cause detail addr := fun able => by
  obtain ⟨kept, entered⟩ := State.trapHere_refuses (m := s.issued rs) able rfl rfl cause detail addr
  exact ⟨_, run, kept, entered⟩

theorem State.refuses_illegal (run : exec j s = .next (s.issued rs).illegal) : s.refuses j 0x02 0 0 := State.refuses_trapHere run

theorem State.refuses_resource {detail : BitVec 32} (run : exec j s = .next ((s.issued rs).resource detail)) : s.refuses j 0x08 detail 0 := State.refuses_trapHere run

theorem State.refuses_phase (run : exec j s = .next (s.issued rs).phaseViolation) : s.refuses j 0x07 0 0 := fun able =>
  ⟨_, run, State.issued_phaseViolation_core able rs, State.issued_phaseViolation_entered able rs⟩

theorem State.refuses_fault {e : AccessFault} (run : exec j s = .next ((s.issued rs).trapAccess e 1)) : s.refuses j e.cause e.detail e.addr := fun able => by
  refine ⟨_, run, ?_, (State.trapAccess_failed (rs := rs) able (State.sought.refl (s.issued rs)) e 1).1.now (Nat.le_refl 1)⟩
  unfold State.trapAccess State.raiseAfter
  rw [if_pos (Nat.le_refl 1)]
  exact State.raise_core (State.issued_trappable able rs) _

end

/-- Nothing of the context's own accesses to its scratchpad is outstanding. -/
theorem State.afterOwn_clear {s : State} {rs : List Reg} (clear : ∀ y ∈ s.accs, y.ctx = s.cur → s.within .core y.key = false) (k : State → State) :
    (s.issued rs).afterOwn k = k (s.issued rs) := by
  unfold State.afterOwn State.whenDone
  have none : (s.issued rs).accs.any (fun a => decide (a.ctx = (s.issued rs).cur) && (s.issued rs).within .core a.key) = false :=
    List.any_eq_false.2 fun y hy => by
      by_cases own : y.ctx = s.cur
      · have off : (s.issued rs).within .core y.key = false := clear y hy own
        rw [off, Bool.and_false]
        exact Bool.false_ne_true
      · have other : ¬ y.ctx = (s.issued rs).cur := own
        rw [decide_eq_false other, Bool.false_and]
        exact Bool.false_ne_true
  rw [none]
  rfl

/-- The fault of an operand's span in the own scratchpad (R329). -/
def State.spanFault (s : State) (a : Word) (n align : Nat) : Option AccessFault := if a.toNat % align ≠ 0 then some (addressFault 3 a) else s.ownSpan a.toNat n

theorem State.ownSpan_congr {s t : State} (position : t.position = s.position) (job : t.job = s.job) (a : Int) (n : Nat) : t.ownSpan a n = s.ownSpan a n := by
  unfold State.ownSpan
  rw [position, job]

theorem State.spanCheck_fault {s : State} {a : Word} {n align : Nat} {e : AccessFault} (h : s.spanFault a n align = some e) (rs : List Reg) (k : State → State) :
    (s.issued rs).spanCheck a n align k = (s.issued rs).trapAccess e 1 := by
  unfold State.spanFault at h
  unfold State.spanCheck
  split at h
  case isTrue off =>
    cases h
    exact if_pos off
  case isFalse aligned => rw [if_neg aligned, State.ownSpan_congr (s := s) (t := s.issued rs) rfl rfl, h]

theorem State.spanCheck_ok {s : State} {a : Word} {n align : Nat} (h : s.spanFault a n align = none) (rs : List Reg) (k : State → State) :
    (s.issued rs).spanCheck a n align k = k (s.issued rs) := by
  unfold State.spanFault at h
  unfold State.spanCheck
  split at h
  case isTrue => cases h
  case isFalse aligned => rw [if_neg aligned, State.ownSpan_congr (s := s) (t := s.issued rs) rfl rfl, h]

theorem State.inLoom_whole {s : State} (some : s.core.loom.size ≠ 0) (whole : s.loomBroken = false) (rs : List Reg) (k : State → State) :
    (s.issued rs).inLoom k = k (s.issued rs) := by
  have broken : (s.issued rs).loomBroken = false := whole
  unfold State.inLoom
  rw [broken]
  exact if_neg fun h => h.elim some Bool.false_ne_true

theorem State.inLoom_none {s : State} (h : ¬ (s.core.loom.size ≠ 0 ∧ s.loomBroken = false)) (rs : List Reg) (k : State → State) :
    (s.issued rs).inLoom k = (s.issued rs).illegal := by
  refine if_pos ?_
  by_cases none : s.core.loom.size = 0
  · exact .inl none
  · exact .inr (Bool.of_not_eq_false fun e => h ⟨none, e⟩)

/-- A range forms no loom, as R348 says it. -/
theorem rangeClashes_iff (clash : List (Nat × Nat)) (waiting ended : List Peer) (p n cycle : Nat) : rangeClashes clash waiting ended p n cycle = true ↔
    (p / n * n, n) ∈ clash ∨ (∃ q ∈ rangeOthers p n, (ended.any fun x => decide (x.pos = q) && decide (x.since ≤ cycle)) = true) ∨
      ∃ x ∈ waiting, x.since ≤ cycle ∧ x.n ≠ n ∧ (x.pos / n = p / n ∨ x.pos / x.n = p / x.n) := by
  have rivals : (!(peerRivals waiting p n cycle).isEmpty) = true ↔ ∃ x ∈ waiting, x.since ≤ cycle ∧ x.n ≠ n ∧ (x.pos / n = p / n ∨ x.pos / x.n = p / x.n) := by
    rw [Bool.not_eq_true', List.isEmpty_eq_false_iff_exists_mem]
    unfold peerRivals
    simp only [List.mem_filter, Bool.and_eq_true, Bool.or_eq_true, decide_eq_true_eq, and_assoc]
  unfold rangeClashes
  rw [Bool.or_eq_true, Bool.or_eq_true, rivals, decide_eq_true_eq, List.any_eq_true]
  unfold rangeOf
  rw [or_assoc, or_comm (b := ∃ q ∈ rangeOthers p n, _)]

end Sys2Proof.Machine
end

section
/-! SUPPORT. Joining, leaving, drafting and arming (R348 to R358). -/

namespace Sys2Proof.Machine

open Sys2Proof

section
variable {s : State} (sw : Bool) (a d : BitVec 5) (n : BitVec 2)

theorem exec_lmjoin (ready : s.ready [.x a]) : exec (.lmjoin sw a n) s = .next (
    let others := rangeOthers s.position (loomSize n)
    let u := s.issued [.x a]
    if s.cur ≠ 0 ∨ s.core.loom.size ≠ 0 ∨ s.job.redun then u.illegal
    else if s.job.superstep then u.phaseViolation
    else if others.any fun p => !decide (s.clusterCore p ∈ s.job.cores) then u.resource 2
    else if !(s.job.claims.any fun c => decide (c.kind = .loom) && decide (c.off = (s.readX a).toNat) && decide (c.bytes = 65536)) then u.resource 3
    else if rangeClashes s.clu.loomClash s.clu.loomWait s.clu.ended s.position (loomSize n) s.cycle then
      (u.noteLoomClash (clashOf s.clu.loomWait s.position (loomSize n) s.cycle)).illegal
    else if peersWait s.clu.loomWait others (loomSize n) s.cycle then
      let t := (u.modLoom fun _ => { Loom.reset with size := n, lpos := s.position % loomSize n, area := BitVec.ofNat 19 (s.readX a).toNat }).retire sw 4
      { t with clu := { t.clu with loomWait := t.clu.loomWait.filter fun x => !(decide (x.pos ∈ others) && decide (x.since ≤ s.cycle)) } }
    else u.block .other 0 0) := by
  have run : exec (.lmjoin sw a n) s = execLmjoin sw a n s := rfl
  unfold execLmjoin at run
  rw [State.issue_issued (by simpa using ready)] at run
  dsimp only at run
  rw [State.readX_issued] at run
  exact run

theorem exec_lmjoinLeave (ready : s.ready []) : exec (.lmjoinLeave sw) s = .next (
    if s.cur ≠ 0 then (s.issued []).illegal
    else if s.core.loom.size = 0 then (s.issued []).retire sw 4
    else if s.loomBroken = false ∧ s.weaving then (s.issued []).illegal
    else (s.issued []).leaveLoom.retire sw 4) := by
  have run : exec (.lmjoinLeave sw) s = execLmjoinLeave sw s := rfl
  unfold execLmjoinLeave at run
  rw [State.issue_issued ready] at run
  exact run

theorem exec_draft (ready : s.ready [.x a]) : exec (.draft sw a) s = .next ((s.issued [.x a]).inLoom fun u =>
    if u.core.loom.armed ∨ u.core.loom.running then u.illegal
    else u.spanCheck (u.readX a) 1056 64 fun u => u.afterOwn fun u => u.takeDraft sw (u.unitRead (u.ownKey (u.readX a)) 1056)) := by
  have run : exec (.draft sw a) s = execDraft sw a s := rfl
  unfold execDraft at run
  rwa [State.issue_issued (by simpa using ready)] at run

theorem exec_warp (ready : s.ready [.x a]) : exec (.warp sw a) s = .next ((s.issued [.x a]).inLoom fun u =>
    if u.core.loom.armed ∨ u.core.loom.running ∨ u.core.loom.injWarp.isSome then u.illegal
    else u.injection (u.readX a) false fun t u => (u.modLoom fun l => { l with injWarp := some t, warps := l.warps ++ [(l.lpos, t.id, t.src)] }).retire sw 4) := by
  have run : exec (.warp sw a) s = execWarp sw a s := rfl
  unfold execWarp at run
  rwa [State.issue_issued (by simpa using ready)] at run

theorem exec_weft (ready : s.ready [.x a]) : exec (.weft sw a) s = .next ((s.issued [.x a]).inLoom fun u =>
    if u.core.loom.armed ∨ u.core.loom.running ∨ u.core.loom.injWeft.isSome then u.illegal
    else u.injection (u.readX a) true fun t u => (u.modLoom fun l => { l with injWeft := some t }).retire sw 4) := by
  have run : exec (.weft sw a) s = execWeft sw a s := rfl
  unfold execWeft at run
  rwa [State.issue_issued (by simpa using ready)] at run

theorem exec_lmgo (ready : s.ready [.x a]) (zero : s.cur = 0) : exec (.lmgo sw a) s = .next ((s.issued [.x a]).inLoom fun u =>
    if u.core.loom.badGo (u.readX a) then u.illegal
    else if natBits (u.readX a).toNat 6 0 ≠ 0 ∧ u.core.matrix.weight = 0 then u.resource 8
    else if u.core.loom.formats.any fun f => noBook f.fa u.core.matrix.cbaIssued || noBook f.fb u.core.matrix.cbbIssued then u.illegal
    else (u.modLoom fun l => { (l.mapEntries fun e => { e with fired := false, mismatched := false }) with
      out := 0, exp := natBits (u.readX a).toNat 6 0, armed := true, armedAt := u.cycle, lmgoAt := u.pc, bell := (u.readX a).getLsbD 8 }).retire sw 4) := by
  have run : exec (.lmgo sw a) s = execLmgo sw a s := rfl
  unfold execLmgo at run
  rw [State.issue_issued (by simpa using ready)] at run
  have here : (s.issued [.x a]).cur = 0 := zero
  rw [if_neg (fun h => h here)] at run
  exact run

theorem exec_lmwait (ready : s.ready [.x d]) : exec (.lmwait sw d) s = .next (
    if s.core.loom.size = 0 then (s.issued []).illegal
    else if s.loomBroken then ((s.issued []).leaveLoom.writeLater (.x d) 2 0).retire sw 4
    else if s.weaving then (s.issued []).block .other 0 0
    else ((s.issued []).writeLater (.x d) (if s.core.loom.ms then 1 else 0) 0).retire sw 4) := by
  have run : exec (.lmwait sw d) s = execLmwait sw d s := rfl
  unfold execLmwait at run
  rw [State.issue_issued (by simpa using ready)] at run
  have idle := State.issued_wait ready.1 []
  have missed : (s.issued []).missedHere = none := by
    unfold State.missedHere
    rw [idle]
    rfl
  rw [missed, idle] at run
  by_cases none : s.core.loom.size = 0
  · rw [if_pos none]
    rwa [if_pos ⟨none, rfl⟩] at run
  · rw [if_neg none]
    rw [if_neg (fun h => none h.1)] at run
    by_cases broken : s.loomBroken = true
    · rw [if_pos broken]
      rwa [if_pos (.inr broken)] at run
    · rw [if_neg broken]
      rwa [if_neg (fun h => h.elim none broken)] at run

end

end Sys2Proof.Machine
end

section
/-! SUPPORT. Weaves: their pairs, tasks and passes (R352 to R356). -/

namespace Sys2Proof.Machine

open Sys2Proof

/-! ## A draft's entries and a pair (R352) -/

/-- What a pair does to entry `i` of the draft: the entry afterwards, and its task. -/
def fireOne (fmts : List Fmt) (x y : Tile) (i : Nat) (e : DraftEntry) : DraftEntry × Option Task :=
  if e.valid ∧ e.fired = false ∧ x.id = e.warp ∧ y.id = e.weft then
    match fmts[e.ctx.toNat]? with
    | some f =>
      if fitsFormat f x y then ({ e with fired := true }, some { entry := i, trow := e.trow.toNat, tcol := e.tcol.toNat, fmt := f, zero := e.zero, warp := x, weft := y })
      else ({ e with mismatched := true }, none)
    | none => (e, none)
  else (e, none)

theorem fireEntries_cons (fmts : List Fmt) (x y : Tile) (i : Nat) (e : DraftEntry) (es : List DraftEntry) :
    fireEntries fmts x y i (e :: es) = ((fireOne fmts x y i e).1 :: (fireEntries fmts x y (i + 1) es).1,
      (fireOne fmts x y i e).2.toList ++ (fireEntries fmts x y (i + 1) es).2) := by
  have head : fmts[e.ctx.toNat]? = (fmts.drop e.ctx.toNat).head? := by rw [List.head?_drop]
  rw [fireEntries, fireOne, head]
  split
  · cases fmts.drop e.ctx.toNat with
    | nil => rfl
    | cons f l =>
      dsimp only [List.head?_cons]
      split <;> rfl
  · rfl

theorem fireOne_task {fmts : List Fmt} {x y : Tile} {i : Nat} {e : DraftEntry} {q : Task} (h : (fireOne fmts x y i e).2 = some q) : q.entry = i := by
  unfold fireOne at h
  split at h
  · split at h
    · split at h
      · cases h; rfl
      · cases h
    · cases h
  · cases h

/-- Each entry fares as it would alone. -/
theorem fireEntries_at (fmts : List Fmt) (x y : Tile) : ∀ (es : List DraftEntry) (b : Nat),
    (fireEntries fmts x y b es).1.length = es.length ∧
      (∀ (i : Nat) (h : i < es.length), (fireEntries fmts x y b es).1[i]? = some (fireOne fmts x y (b + i) es[i]).1) ∧
      (∀ q, q ∈ (fireEntries fmts x y b es).2 ↔ ∃ (i : Nat) (h : i < es.length), (fireOne fmts x y (b + i) es[i]).2 = some q)
  | [], b => ⟨rfl, fun i h => absurd h (Nat.not_lt_zero i), fun q => ⟨fun h => absurd h (List.not_mem_nil), fun ⟨i, h, _⟩ => absurd h (Nat.not_lt_zero i)⟩⟩
  | e :: es, b => by
    obtain ⟨length, entries, tasks⟩ := fireEntries_at fmts x y es (b + 1)
    rw [fireEntries_cons]
    refine ⟨congrArg (· + 1) length, fun i h => ?_, fun q => ⟨fun h => ?_, fun ⟨i, h, t⟩ => ?_⟩⟩
    · cases i with
      | zero => rfl
      | succ i => exact (entries i (Nat.lt_of_succ_lt_succ h)).trans (by rw [show b + 1 + i = b + (i + 1) by omega]; rfl)
    · rcases List.mem_append.1 h with first | rest
      · exact ⟨0, Nat.succ_pos _, Option.mem_toList.1 first⟩
      · obtain ⟨i, h, t⟩ := (tasks q).1 rest
        exact ⟨i + 1, Nat.succ_lt_succ h, by rw [show b + (i + 1) = b + 1 + i by omega]; exact t⟩
    · cases i with
      | zero => exact List.mem_append_left _ (Option.mem_toList.2 t)
      | succ i => exact List.mem_append_right _ ((tasks q).2 ⟨i, Nat.lt_of_succ_lt_succ h, by rw [show b + 1 + i = b + (i + 1) by omega]; exact t⟩)

/-! ## Tasks and the matrix queue (R352, R353) -/

/-- Of the machine, nothing has changed but the matrix queue, the latched tasks and the agenda. -/
structure State.tasked (s t : State) : Prop where
  mem : t.mem = s.mem
  ctxs : t.ctxs = s.ctxs
  loom : t.core.loom = { s.core.loom with latched := t.core.loom.latched }

theorem State.tasked.trans {s t u : State} (h : s.tasked t) (k : t.tasked u) : s.tasked u :=
  ⟨k.mem.trans h.mem, k.ctxs.trans h.ctxs, by rw [k.loom, h.loom]⟩

theorem State.tasked.task {s t : State} (h : s.tasked t) (q : Task) : t.taskCommand q = s.taskCommand q := by
  unfold State.taskCommand
  rw [h.loom]

theorem State.join_tasked (s : State) (c : MCmd) : s.tasked (s.join c) ∧ (s.join c).core.matrix.queue = s.core.matrix.queue ++ [c] ∧ (s.join c).core.loom = s.core.loom := by
  unfold State.join
  dsimp only
  split <;> exact ⟨⟨rfl, rfl, rfl⟩, rfl, rfl⟩

theorem State.dispatchTask_joins {s : State} (q : Task) (room : s.core.matrix.queue.length < 16) (none : s.core.loom.latched = []) :
    s.dispatchTask q = s.join (s.taskCommand q) := by
  unfold State.dispatchTask State.queueFull
  rw [none, decide_eq_false (Nat.not_le.2 room)]
  rfl

theorem State.dispatchTask_latches {s : State} (q : Task) (full : s.core.loom.latched ≠ [] ∨ 16 ≤ s.core.matrix.queue.length) :
    s.dispatchTask q = s.modLoom fun l => { l with latched := l.latched ++ [q] } := by
  refine if_pos ?_
  unfold State.queueFull
  rcases full with some | long
  · rw [Bool.or_eq_true, Bool.not_eq_true', List.isEmpty_eq_false_iff]
    exact .inr some
  · rw [decide_eq_true long, Bool.true_or]

/-- Tasks that find room join the queue in their order. -/
theorem State.dispatch_joins : ∀ (ts : List Task) (s : State), s.core.loom.latched = [] → s.core.matrix.queue.length + ts.length ≤ 16 →
    s.tasked (ts.foldl State.dispatchTask s) ∧ (ts.foldl State.dispatchTask s).core.matrix.queue = s.core.matrix.queue ++ ts.map s.taskCommand ∧
      (ts.foldl State.dispatchTask s).core.loom.latched = []
  | [], s, free, _ => ⟨⟨rfl, rfl, rfl⟩, (List.append_nil _).symm, free⟩
  | q :: ts, s, free, room => by
    rw [List.length_cons] at room
    obtain ⟨one, queue, loom⟩ := s.join_tasked (s.taskCommand q)
    obtain ⟨rest, queue', latched⟩ := State.dispatch_joins ts (s.join (s.taskCommand q)) (by rw [loom, free])
      (by rw [queue, List.length_append, List.length_singleton]; omega)
    rw [List.foldl_cons, State.dispatchTask_joins q (by omega) free]
    refine ⟨one.trans rest, ?_, latched⟩
    rw [queue', queue, List.map_cons, List.append_assoc, List.singleton_append, List.map_congr_left fun x _ => one.task x]

/-- Tasks that find none are latched in their order. -/
theorem State.dispatch_latches : ∀ (ts : List Task) (s : State), s.core.loom.latched ≠ [] ∨ 16 ≤ s.core.matrix.queue.length →
    s.tasked (ts.foldl State.dispatchTask s) ∧ (ts.foldl State.dispatchTask s).core.matrix.queue = s.core.matrix.queue ∧
      (ts.foldl State.dispatchTask s).core.loom.latched = s.core.loom.latched ++ ts
  | [], s, _ => ⟨⟨rfl, rfl, rfl⟩, rfl, (List.append_nil _).symm⟩
  | q :: ts, s, full => by
    obtain ⟨rest, queue, latched⟩ := State.dispatch_latches ts (s.modLoom fun l => { l with latched := l.latched ++ [q] })
      (full.imp (fun _ => by show s.core.loom.latched ++ [q] ≠ []; simp) id)
    rw [List.foldl_cons, State.dispatchTask_latches q full]
    have one : s.tasked (s.modLoom fun l => { l with latched := l.latched ++ [q] }) := ⟨rfl, rfl, rfl⟩
    exact ⟨one.trans rest, queue, latched.trans (List.append_assoc ..)⟩

/-- Every task joins the queue or is latched. -/
theorem State.dispatch_tasked : ∀ (ts : List Task) (s : State), s.tasked (ts.foldl State.dispatchTask s)
  | [], _ => ⟨rfl, rfl, rfl⟩
  | q :: ts, s => by
    rw [List.foldl_cons]
    refine State.tasked.trans ?_ (State.dispatch_tasked ts _)
    unfold State.dispatchTask
    split
    · exact ⟨rfl, rfl, rfl⟩
    · exact (s.join_tasked _).1

/-- The first pick of a pass compares its pair (R352). -/
theorem exec_pick {s : State} {x y : Tile} {dr : Draft} (w f : Option Tile) (running : s.core.loom.running = true) (going : s.core.loom.passEnd = false)
    (first : s.core.loom.pick = 0) (last : s.core.loom.last ≠ 0) (warp : s.core.loom.curWarp = some x) (weft : s.core.loom.curWeft = some y)
    (draft : s.core.loom.draft = some dr) : let r := fireEntries dr.fmts x y 0 dr.entries
    exec (.pick w f) s = .next ((r.2.foldl State.dispatchTask ((s.count 8).modLoom fun l =>
      { l with draft := some { dr with entries := r.1 }, exp := l.exp - r.2.length, out := l.out + r.2.length })).modLoom fun k =>
        { k with pick := 1, curWarp := w.map (received s.core.loom.last 1), curWeft := f.map (received s.core.loom.last 1), wake := some y }) := by
  have run : exec (.pick w f) s = execPick w f s := rfl
  have loom : (s.count 8).core.loom = s.core.loom := by rw [State.count_only]
  have pair : (s.count 8).firePair (some x) (some y) = (fireEntries dr.fmts x y 0 dr.entries).2.foldl State.dispatchTask ((s.count 8).modLoom fun l =>
      { l with draft := some { dr with entries := (fireEntries dr.fmts x y 0 dr.entries).1 }, exp := l.exp - (fireEntries dr.fmts x y 0 dr.entries).2.length,
               out := l.out + (fireEntries dr.fmts x y 0 dr.entries).2.length }) := by
    unfold State.firePair
    rw [loom, draft]
  unfold execPick at run
  dsimp only at run
  rw [running, going, if_neg (by simp), first, warp, weft, if_pos (Nat.pos_of_ne_zero last), if_neg (by decide), pair] at run
  rw [run]
  dsimp only
  congr 3
  funext k
  exact if_pos (Nat.pos_of_ne_zero last)

/-! ## The weave's end (R356) -/

theorem firstUnfired_none : ∀ (es : List DraftEntry) (i : Nat), (∀ e ∈ es, e.valid = true → e.fired = true) → firstUnfired i es = none
  | [], _, _ => rfl
  | e :: es, i, h => by
    rw [firstUnfired, if_neg (fun ⟨v, f⟩ => by rw [h e (List.mem_cons_self ..) v] at f; cases f)]
    exact firstUnfired_none es (i + 1) fun x hx => h x (List.mem_cons_of_mem _ hx)

theorem State.logMissed_none : ∀ (es : List DraftEntry) (i : Nat) (s : State), (∀ e ∈ es, e.valid = true → e.fired = true) → State.logMissed i es s = s
  | [], _, _, _ => rfl
  | e :: es, i, s, h => by
    rw [State.logMissed, if_neg (fun ⟨v, f⟩ => by rw [h e (List.mem_cons_self ..) v] at f; cases f)]
    exact State.logMissed_none es (i + 1) s fun x hx => h x (List.mem_cons_of_mem _ hx)

/-- Logging what has been missed leaves the core and the contexts as they are. -/
theorem State.logMissed_kept : ∀ (es : List DraftEntry) (i : Nat) (s : State), (State.logMissed i es s).core = s.core ∧ (State.logMissed i es s).ctxs = s.ctxs
  | [], _, _ => ⟨rfl, rfl⟩
  | e :: es, i, s => by
    obtain ⟨core, ctxs⟩ := State.logMissed_kept es (i + 1)
      (if e.valid ∧ e.fired = false then s.logEntry true 4 0x0E s.unitSource (missedDetail i s.core.loom.lpos e.mismatched false) (s.core.loom.srcOf e.warp) else s)
    rw [State.logMissed, core, ctxs]
    split
    · exact ⟨State.logEntry_core .., State.logEntry_ctxs ..⟩
    · exact ⟨rfl, rfl⟩

theorem Loom.ended_fired (l : Loom) (ms : Bool) : ∀ q ∈ (l.ended ms).entries, q.valid = true → q.fired = true := by
  intro q hq valid
  have list : (l.ended ms).entries = l.entries.map fun e => { e with valid := e.valid && e.fired } := by
    unfold Loom.ended Loom.mapEntries Loom.entries
    cases l.draft <;> rfl
  rw [list] at hq
  obtain ⟨e, _, rfl⟩ := List.mem_map.1 hq
  exact ((Bool.and_eq_true _ _).mp valid).2

theorem Loom.missed_isSome {l : Loom} {i : Nat} {e : DraftEntry} (h : firstUnfired 0 l.entries = some (i, e)) (o : Option MissedAt) : (l.missed o).isSome = true := by
  unfold Loom.missed
  rw [h]
  cases o with
  | none => rfl
  | some o =>
    dsimp only
    split <;> rfl

/-! ## LMSTAT (R358) -/

theorem testBit_of_div {N i : Nat} {b : Bool} (h : N / 2 ^ i % 2 = b.toNat) : N.testBit i = b := by
  rw [Nat.testBit_eq_decide_div_mod_eq, h]
  cases b <;> rfl

/-- The fields of what LMSTAT reads. -/
theorem lmstat_fields {size lpos pick out exp valid : Nat} {a b c d : Bool} (hs : size < 4) (hl : lpos < 32) (hp : pick < 32) (ho : out < 2 ^ 15) (he : exp < 2 ^ 16)
    (hv : valid < 2 ^ 16) : let v := BitVec.ofNat 64 (2 ^ 63 + size * 2 ^ 61 + bitAt a 60 + bitAt b 59 + bitAt c 58 + lpos * 2 ^ 53 + pick * 2 ^ 48 + bitAt d 47 + out * 2 ^ 32 +
      exp * 2 ^ 16 + valid)
    v.getLsbD 63 = true ∧ natBits v.toNat 62 61 = size ∧ v.getLsbD 60 = a ∧ v.getLsbD 59 = b ∧ v.getLsbD 58 = c ∧ natBits v.toNat 57 53 = lpos ∧
      natBits v.toNat 52 48 = pick ∧ v.getLsbD 47 = d ∧ natBits v.toNat 46 32 = out ∧ natBits v.toNat 31 16 = exp ∧ natBits v.toNat 15 0 = valid := by
  intro v
  have la := Bool.toNat_le a
  have lb := Bool.toNat_le b
  have lc := Bool.toNat_le c
  have ld := Bool.toNat_le d
  have val : v.toNat = 2 ^ 63 + size * 2 ^ 61 + a.toNat * 2 ^ 60 + b.toNat * 2 ^ 59 + c.toNat * 2 ^ 58 + lpos * 2 ^ 53 + pick * 2 ^ 48 + d.toNat * 2 ^ 47 + out * 2 ^ 32 +
      exp * 2 ^ 16 + valid := by
    rw [BitVec.toNat_ofNat, bitAt_eq, bitAt_eq, bitAt_eq, bitAt_eq, Nat.mod_eq_of_lt (by omega)]
  exact ⟨testBit_of_div (by rw [val, Bool.toNat_true]; omega), by rw [natBits, val]; omega, testBit_of_div (by rw [val]; omega), testBit_of_div (by rw [val]; omega), testBit_of_div (by rw [val]; omega), by rw [natBits, val]; omega,
    by rw [natBits, val]; omega, testBit_of_div (by rw [val]; omega), by rw [natBits, val]; omega, by rw [natBits, val]; omega, by rw [natBits, val]; omega⟩

end Sys2Proof.Machine
end

section
/-! PROOF. O45: looms (R347 to R360). -/

namespace Sys2Proof.Machine

open Sys2Proof

/-- The two header checks of a tile (R350). -/
theorem State.injection_ok {s : State} {a : Word} {family : Bool} {rs : List Reg} {tile : Tile} (first : s.spanFault a 64 64 = none)
    (own : ∀ y ∈ s.accs, y.ctx = s.cur → s.within .core y.key = false) (good : s.bad = [])
    (header : s.tileHeader a family (Memory.read s.mem (s.ownKey a) 16) = some tile) (second : s.spanFault a (64 + tileSize tile.fmt tile.sc) 64 = none)
    (k : Tile → State → State) : (s.issued rs).injection a family k = k tile (s.issued rs) := by
  have bytes : (s.issued rs).unitRead ((s.issued rs).ownKey a) 16 = Memory.read s.mem (s.ownKey a) 16 := State.unitRead_good (s := s.issued rs) good _ _
  have same : (s.issued rs).tileHeader a family (Memory.read s.mem (s.ownKey a) 16) = some tile := header
  unfold State.injection
  rw [State.spanCheck_ok first, State.afterOwn_clear own, bytes, same]
  exact State.spanCheck_ok second rs (k tile)

theorem State.injection_bad {s : State} {a : Word} {family : Bool} {rs : List Reg} (first : s.spanFault a 64 64 = none)
    (own : ∀ y ∈ s.accs, y.ctx = s.cur → s.within .core y.key = false) (good : s.bad = [])
    (header : s.tileHeader a family (Memory.read s.mem (s.ownKey a) 16) = none) (k : Tile → State → State) :
    (s.issued rs).injection a family k = (s.issued rs).illegal := by
  have bytes : (s.issued rs).unitRead ((s.issued rs).ownKey a) 16 = Memory.read s.mem (s.ownKey a) 16 := State.unitRead_good (s := s.issued rs) good _ _
  have same : (s.issued rs).tileHeader a family (Memory.read s.mem (s.ownKey a) 16) = none := header
  unfold State.injection
  rw [State.spanCheck_ok first, State.afterOwn_clear own, bytes, same]

/-- Rows that lie in the core's plane (R329). -/
theorem filterMap_none {α β : Type} {p : α → Bool} {f : α → Option β} {l : List α} (h : ∀ e ∈ l, p e = true → f e = none) : (l.filter p).filterMap f = [] := by
  rw [List.filterMap_eq_nil_iff]
  intro e he
  obtain ⟨mem, pe⟩ := List.mem_filter.1 he
  exact h e mem pe

theorem State.takeDraft_ok {s : State} {rs : List Reg} {bs : List Byte} {fs : List Fmt} (sw : Bool) (formats : draftFormats bs = some fs)
    (good : ∀ b ∈ draftBlocks bs, badEntry b = false) (rows : ∀ e ∈ (draftBlocks bs).map draftEntry, e.valid = true → s.rowsOutside e.trow.toNat 64 = none) :
    (s.issued rs).takeDraft sw bs = ((s.issued rs).modLoom fun l => { l with draft := some { fmts := fs, entries := (draftBlocks bs).map draftEntry } }).retireAfter sw 4 24 := by
  have fine : (draftBlocks bs).any badEntry = false := List.any_eq_false.2 fun b hb => by rw [good b hb]; exact Bool.false_ne_true
  have within : (((draftBlocks bs).map draftEntry).filter (·.valid)).filterMap (fun e => (s.issued rs).rowsOutside e.trow.toNat 64) = [] := filterMap_none rows
  unfold State.takeDraft
  rw [formats]
  dsimp only
  rw [fine, if_neg Bool.false_ne_true, within]

theorem State.takeDraft_bad {s : State} {rs : List Reg} {bs : List Byte} (sw : Bool) (bad : draftFormats bs = none ∨ ∃ b ∈ draftBlocks bs, badEntry b = true) :
    (s.issued rs).takeDraft sw bs = (s.issued rs).illegal := by
  unfold State.takeDraft
  cases formats : draftFormats bs with
  | none => rfl
  | some fs =>
    have broken : (draftBlocks bs).any badEntry = true := List.any_eq_true.2 (bad.resolve_left (by rw [formats]; simp))
    dsimp only
    rw [broken, if_pos rfl]

theorem State.noteLoomClash_mem (s : State) {r : Nat × Nat} {rs : List (Nat × Nat)} (h : r ∈ rs) : r ∈ (s.noteLoomClash rs).clu.loomClash :=
  List.mem_dedup.2 (List.mem_append_right _ h)

/-- The cores of the loom count as armed no more (R357). -/
theorem State.leaveLoom_disarms (s : State) (rs : List Reg) : ∀ x ∈ (s.issued rs).leaveLoom.clu.loomArmed, x.pos ∉ s.loomOthers := fun x hx => by
  have kept := (List.mem_filter.1 hx).2
  have same : (s.issued rs).loomOthers = s.loomOthers := rfl
  rw [same] at kept
  simpa using kept

/-- A loom instruction of a core that is in no whole loom, or whose weave is armed or runs. -/
theorem State.inLoom_refused {s : State} {rs : List Reg} {k : State → State}
    (refused : ¬ (s.core.loom.size ≠ 0 ∧ s.loomBroken = false) ∨ ¬ (s.core.loom.armed = false ∧ s.core.loom.running = false))
    (busy : s.core.loom.armed = true ∨ s.core.loom.running = true → k (s.issued rs) = (s.issued rs).illegal) : (s.issued rs).inLoom k = (s.issued rs).illegal := by
  by_cases whole : s.core.loom.size ≠ 0 ∧ s.loomBroken = false
  · rw [State.inLoom_whole whole.1 whole.2]
    refine busy ?_
    by_contra none
    have free := not_or.1 none
    exact (refused.resolve_left (fun h => h whole)) ⟨Bool.eq_false_of_not_eq_true free.1, Bool.eq_false_of_not_eq_true free.2⟩
  · exact State.inLoom_none whole rs k

theorem noBook_false {t : Ty} {copied : Bool} (h : t = .cb4 → copied = true) : noBook t copied = false := by
  unfold noBook
  by_cases book : t = .cb4
  · rw [h book, decide_eq_true book]
    rfl
  · rw [decide_eq_false book, Bool.false_and]

theorem Loom.entries_mapEntries (l : Loom) (f : DraftEntry → DraftEntry) : (l.mapEntries f).entries = l.entries.map f := by
  unfold Loom.mapEntries Loom.entries
  cases l.draft <;> rfl

theorem wide_ofNat (n : Nat) (h : n < 2 ^ 64) : wide (BitVec.ofNat 64 n) = BitVec.ofNat 512 n := by
  apply BitVec.eq_of_toNat_eq
  rw [BitVec.toNat_setWidth, BitVec.toNat_ofNat, BitVec.toNat_ofNat, Nat.mod_eq_of_lt h]

theorem wide_two : wide 2 = 2 := wide_ofNat 2 (by decide)

/-- What the first pick's comparison starts from, and the tiles that come in after it. -/
theorem exec_pick_first {s : State} {x y : Tile} {dr : Draft} (w f : Option Tile) (running : s.core.loom.running = true) (going : s.core.loom.passEnd = false)
    (first : s.core.loom.pick = 0) (last : s.core.loom.last ≠ 0) (warp : s.core.loom.curWarp = some x) (weft : s.core.loom.curWeft = some y)
    (draft : s.core.loom.draft = some dr) : let r := fireEntries dr.fmts x y 0 dr.entries
    ∃ m, exec (.pick w f) s = .next ((r.2.foldl State.dispatchTask m).modLoom fun k =>
        { k with pick := 1, curWarp := w.map (received s.core.loom.last 1), curWeft := f.map (received s.core.loom.last 1), wake := some y }) ∧
      m.mem = s.mem ∧ m.ctxs = s.ctxs ∧
      m.core.loom = { s.core.loom with draft := some { dr with entries := r.1 }, exp := s.core.loom.exp - r.2.length, out := s.core.loom.out + r.2.length } ∧
      m.core.matrix = s.core.matrix := by
  intro r
  have only := s.count_only 8
  refine ⟨_, exec_pick w f running going first last warp weft draft, ?_, ?_, ?_, ?_⟩
  · exact (congrArg State.mem only :)
  · exact (congrArg State.ctxs only :)
  · exact congrArg (fun l : Loom => { l with draft := some { dr with entries := r.1 }, exp := l.exp - r.2.length, out := l.out + r.2.length })
      (congrArg (fun u : State => u.core.loom) only :)
  · exact (congrArg (fun u : State => u.core.matrix) only :)

theorem State.raiseMissed_other (s : State) (m : BitVec 32 × Word) {n : Fin 11} (ne : n ≠ 0) : (s.raiseMissed m).ctxAt n = s.ctxAt n := s.ctxAt_modCtxAt_ne _ _ _ ne.symm

theorem State.raiseMissed_deferred (s : State) (m : BitVec 32 × Word) : ((s.raiseMissed m).ctxAt 0).deferred = (s.ctxAt 0).deferred ++
    [{ cause := 0x0E, detail := m.1, tag := none, fetch := false, next := true, ret := 0, iaddr := s.core.loom.lmgoAt, caddr := m.2, log := false }] :=
  congrArg Ctx.deferred (s.ctxAt_modCtxAt 0 _)

/-- Settles O45: each refusal, each weave's pass and its end. -/
theorem loomsWeaveTheirDrafts : Obligations.LoomsWeaveTheirDrafts := by
  unfold Obligations.LoomsWeaveTheirDrafts
  intro s sw a d n L M X calm becomes disarmed traps size others clash mates area whole idle key clear spanFault
  have open_ (zero : s.cur = 0) (none : L.size = 0) (unpaired : s.job.redun = false) : ¬ (s.cur ≠ 0 ∨ L.size ≠ 0 ∨ s.job.redun = true) := by
    rw [unpaired]
    rintro (h | h | h)
    · exact h zero
    · exact h none
    · cases h
  have mates_iff : ¬ mates ↔ ((rangeOthers s.position (loomSize n)).any fun p => !decide (s.clusterCore p ∈ s.job.cores)) = true := by
    rw [List.any_eq_true]
    simp only [Bool.not_eq_true', decide_eq_false_iff_not]
    exact ⟨fun h => by_contra fun none => h fun p hp => by_contra fun no => none ⟨p, hp, no⟩, fun ⟨p, hp, no⟩ h => no (h p hp)⟩
  have clash_iff : rangeClashes s.clu.loomClash s.clu.loomWait s.clu.ended s.position (loomSize n) s.cycle = true ↔ clash := rangeClashes_iff ..
  have area_iff : ¬ area ↔ (!(s.job.claims.any fun c => decide (c.kind = .loom) && decide (c.off = (s.readX a).toNat) && decide (c.bytes = 65536))) = true := by
    rw [Bool.not_eq_true', ← Bool.not_eq_true, List.any_eq_true]
    exact not_congr (exists_congr fun c => and_congr_right fun _ => by simp only [Bool.and_eq_true, decide_eq_true_eq, and_assoc]; rfl)
  have still (h : idle) : ¬ ((s.issued [.x a]).core.loom.armed = true ∨ (s.issued [.x a]).core.loom.running = true) := by
    rintro (armed | running)
    · exact Bool.noConfusion (h.1.symm.trans armed)
    · exact Bool.noConfusion (h.2.symm.trans running)
  have fresh {t : Option Tile} (h : idle) (free : t = none) :
      ¬ ((s.issued [.x a]).core.loom.armed = true ∨ (s.issued [.x a]).core.loom.running = true ∨ t.isSome = true) := by
    rw [free]
    rintro (armed | running | some)
    · exact still h (.inl armed)
    · exact still h (.inr running)
    · cases some
  refine ⟨fun ready => ⟨fun bad => ?_, fun zero none unpaired => ⟨fun step => ?_, fun step away => ?_, fun step with_ out => ?_, fun step with_ within clashes able => ?_,
      fun step with_ within free => ⟨fun peers => ?_, fun peers => ?_⟩⟩⟩, fun ready other => ?_, fun ready zero none => ?_, fun ready zero some ends => ?_,
    fun ready zero some unbroken weaves => ?_, fun j which ready refused => ?_,
    fun ready whole idle => ⟨fun e fault => ?_, fun span ⟨own, good⟩ => ⟨fun fs formats fine rows => ?_, fun bad => ?_⟩, fun tile span ⟨own, good⟩ => ⟨fun free header second => ?_,
      fun free header second => ?_⟩, fun span ⟨own, good⟩ free header => ?_, fun span ⟨own, good⟩ free header => ?_⟩,
    fun ready zero whole => ⟨fun bad => ?_, fun good tasks weight => ?_, fun good weight books => ?_⟩,
    fun ready => ⟨fun none => ?_, fun some broken => ?_, fun whole weaves => ?_, fun whole rests => ?_, fun none => ?_, fun some lpos pick out exp valid => ?_⟩, ?_⟩
  · have run := exec_lmjoin sw a n ready
    dsimp only at run
    rw [if_pos bad] at run
    exact State.refuses_illegal run
  · have run := exec_lmjoin sw a n ready
    dsimp only at run
    rw [if_neg (open_ zero none unpaired), if_pos step] at run
    exact State.refuses_phase run
  · have run := exec_lmjoin sw a n ready
    dsimp only at run
    rw [if_neg (open_ zero none unpaired), if_neg (by rw [step]; exact Bool.false_ne_true), if_pos (mates_iff.1 away)] at run
    exact State.refuses_resource run
  · have run := exec_lmjoin sw a n ready
    dsimp only at run
    rw [if_neg (open_ zero none unpaired), if_neg (by rw [step]; exact Bool.false_ne_true), if_neg (fun h => mates_iff.2 h with_), if_pos (area_iff.1 out)] at run
    exact State.refuses_resource run
  · have run := exec_lmjoin sw a n ready
    dsimp only at run
    rw [if_neg (open_ zero none unpaired), if_neg (by rw [step]; exact Bool.false_ne_true), if_neg (fun h => mates_iff.2 h with_), if_neg (fun h => area_iff.2 h within),
      if_pos (clash_iff.2 clashes)] at run
    obtain ⟨core, entered⟩ := State.trapHere_refuses (rs := [.x a]) (m := (s.issued [.x a]).noteLoomClash (clashOf s.clu.loomWait s.position (loomSize n) s.cycle)) able rfl rfl
      0x02 0 0
    refine ⟨_, run, core, ?_, entered⟩
    have only := State.raise_onlyTraps (s := (s.issued [.x a]).noteLoomClash (clashOf s.clu.loomWait s.position (loomSize n) s.cycle))
      (State.issued_trappable able [.x a]) (TrapInfo.at (s.issued [.x a]).pc 0x02 0 0)
    refine (congrArg (fun l : Cluster => (s.position / size * size, size) ∈ l.loomClash) only.clu).mpr ?_
    exact State.noteLoomClash_mem _ (List.mem_cons_self ..)
  · have run := exec_lmjoin sw a n ready
    dsimp only at run
    rw [if_neg (open_ zero none unpaired), if_neg (by rw [step]; exact Bool.false_ne_true), if_neg (fun h => mates_iff.2 h with_), if_neg (fun h => area_iff.2 h within),
      if_neg (fun h => free (clash_iff.1 h)), if_pos (show peersWait s.clu.loomWait (rangeOthers s.position (loomSize n)) (loomSize n) s.cycle = true from peers)] at run
    obtain ⟨rests, core, clu⟩ := s.retire_units [.x a] { s.core with loom := { Loom.reset with size := n, lpos := s.position % size, area := BitVec.ofNat 19 X.toNat } }
      { s.clu with loomWait := s.clu.loomWait.filter fun x => !(decide (x.pos ∈ rangeOthers s.position (loomSize n)) && decide (x.since ≤ s.cycle)) } sw 1
    refine ⟨_, run, rests, rfl, fun x hx among => ?_⟩
    have kept : x.pos ∉ rangeOthers s.position (loomSize n) ∨ s.cycle < x.since := by simpa using (List.mem_filter.1 hx).2
    exact kept.resolve_left fun no => no among
  · have run := exec_lmjoin sw a n ready
    dsimp only at run
    rw [if_neg (open_ zero none unpaired), if_neg (by rw [step]; exact Bool.false_ne_true), if_neg (fun h => mates_iff.2 h with_), if_neg (fun h => area_iff.2 h within),
      if_neg (fun h => free (clash_iff.1 h)), if_neg (by rw [show peersWait s.clu.loomWait (rangeOthers s.position (loomSize n)) (loomSize n) s.cycle = false from peers]; exact Bool.false_ne_true)] at run
    exact ⟨_, run, s.issued_block_waits ready.1 ..⟩
  · have run := exec_lmjoinLeave (s := s) sw ready
    rw [if_pos other] at run
    exact State.refuses_illegal run
  · have run := exec_lmjoinLeave (s := s) sw ready
    rw [if_neg (fun h => h zero), if_pos none] at run
    obtain ⟨rests, core, clu⟩ := s.retire_units [] s.core s.clu sw 1
    exact ⟨_, run, rests, core⟩
  · have run := exec_lmjoinLeave (s := s) sw ready
    have done : ¬ (s.loomBroken = false ∧ s.weaving = true) := fun ⟨unbroken, weaves⟩ => by
      rcases ends with broken | rests
      · rw [broken] at unbroken; cases unbroken
      · rw [rests] at weaves; cases weaves
    rw [if_neg (fun h => h zero), if_neg some, if_neg done] at run
    obtain ⟨rests, core, clu⟩ := s.retire_units [] { s.core with loom := Loom.reset } (s.issued []).leaveLoom.clu sw 1
    exact ⟨_, run, rests, core, s.leaveLoom_disarms []⟩
  · have run := exec_lmjoinLeave (s := s) sw ready
    rw [if_neg (fun h => h zero), if_neg some, if_pos ⟨unbroken, weaves⟩] at run
    exact State.refuses_illegal run
  · rcases which with rfl | rfl | rfl
    · refine State.refuses_illegal (rs := [.x a]) ((exec_draft sw a ready).trans (congrArg _ (State.inLoom_refused refused fun busy => ?_)))
      exact if_pos busy
    · refine State.refuses_illegal (rs := [.x a]) ((exec_warp sw a ready).trans (congrArg _ (State.inLoom_refused refused fun busy => ?_)))
      exact if_pos (busy.imp id .inl)
    · refine State.refuses_illegal (rs := [.x a]) ((exec_weft sw a ready).trans (congrArg _ (State.inLoom_refused refused fun busy => ?_)))
      exact if_pos (busy.imp id .inl)
  · have run := exec_draft sw a ready
    rw [State.inLoom_whole whole.1 whole.2, if_neg (still idle), State.readX_issued, State.spanCheck_fault fault] at run
    exact State.refuses_fault run
  · have run := exec_draft sw a ready
    rw [State.inLoom_whole whole.1 whole.2, if_neg (still idle), State.readX_issued, State.spanCheck_ok span, State.afterOwn_clear own, State.readX_issued,
      State.unitRead_good (s := s.issued [.x a]) good] at run
    rw [show Memory.read (s.issued [.x a]).mem ((s.issued [.x a]).ownKey X) 1056 = Memory.read s.mem key 1056 from rfl, State.takeDraft_ok sw formats fine rows] at run
    obtain ⟨rests, core, clu⟩ := s.retire_units [.x a] { s.core with loom := { L with draft := some { fmts := fs, entries := (draftBlocks (Memory.read s.mem key 1056)).map draftEntry } } }
      s.clu sw 24
    exact ⟨_, run, rests, core⟩
  · have run := exec_draft sw a ready
    rw [State.inLoom_whole whole.1 whole.2, if_neg (still idle), State.readX_issued, State.spanCheck_ok span, State.afterOwn_clear own, State.readX_issued,
      State.unitRead_good (s := s.issued [.x a]) good] at run
    rw [show Memory.read (s.issued [.x a]).mem ((s.issued [.x a]).ownKey X) 1056 = Memory.read s.mem key 1056 from rfl, State.takeDraft_bad sw bad] at run
    exact State.refuses_illegal run
  · have run := exec_warp sw a ready
    rw [State.inLoom_whole whole.1 whole.2, if_neg (fresh (t := (s.issued [.x a]).core.loom.injWarp) idle free), State.readX_issued, State.injection_ok span own good header second] at run
    obtain ⟨rests, core, clu⟩ := s.retire_units [.x a] { s.core with loom := { L with injWarp := some tile, warps := L.warps ++ [(L.lpos, tile.id, tile.src)] } } s.clu sw 1
    exact ⟨_, run, rests, core⟩
  · have run := exec_weft sw a ready
    rw [State.inLoom_whole whole.1 whole.2, if_neg (fresh (t := (s.issued [.x a]).core.loom.injWeft) idle free), State.readX_issued, State.injection_ok span own good header second] at run
    obtain ⟨rests, core, clu⟩ := s.retire_units [.x a] { s.core with loom := { L with injWeft := some tile } } s.clu sw 1
    exact ⟨_, run, rests, core⟩
  · have run := exec_warp sw a ready
    rw [State.inLoom_whole whole.1 whole.2, if_neg (fresh (t := (s.issued [.x a]).core.loom.injWarp) idle free), State.readX_issued, State.injection_bad span own good header] at run
    exact State.refuses_illegal run
  · have run := exec_weft sw a ready
    rw [State.inLoom_whole whole.1 whole.2, if_neg (fresh (t := (s.issued [.x a]).core.loom.injWeft) idle free), State.readX_issued, State.injection_bad span own good header] at run
    exact State.refuses_illegal run
  · have run := exec_lmgo sw a ready zero
    rw [State.inLoom_whole whole.1 whole.2, State.readX_issued, if_pos (show (s.issued [.x a]).core.loom.badGo X = true from bad)] at run
    exact State.refuses_illegal run
  · have run := exec_lmgo sw a ready zero
    rw [State.inLoom_whole whole.1 whole.2, State.readX_issued, if_neg (by rw [show (s.issued [.x a]).core.loom.badGo X = false from good]; exact Bool.false_ne_true),
      if_pos ⟨tasks, weight⟩] at run
    exact State.refuses_resource run
  · have run := exec_lmgo sw a ready zero
    have copied : ((s.issued [.x a]).core.loom.formats.any fun f => noBook f.fa (s.issued [.x a]).core.matrix.cbaIssued || noBook f.fb (s.issued [.x a]).core.matrix.cbbIssued) =
        false := List.any_eq_false.2 fun f hf => by
      obtain ⟨fa, fb⟩ := books f hf
      have first : noBook f.fa (s.issued [.x a]).core.matrix.cbaIssued = false := noBook_false fa
      have second : noBook f.fb (s.issued [.x a]).core.matrix.cbbIssued = false := noBook_false fb
      rw [first, second]
      exact Bool.false_ne_true
    rw [State.inLoom_whole whole.1 whole.2, State.readX_issued, if_neg (by rw [show (s.issued [.x a]).core.loom.badGo X = false from good]; exact Bool.false_ne_true),
      if_neg (fun h => weight.elim h.1 fun w => w h.2), copied, if_neg Bool.false_ne_true] at run
    obtain ⟨rests, core, clu⟩ := s.retire_units [.x a] { s.core with loom := { (L.mapEntries fun e => { e with fired := false, mismatched := false }) with
      out := 0, exp := natBits X.toNat 6 0, armed := true, armedAt := s.cycle, lmgoAt := (s.issued [.x a]).pc, bell := X.getLsbD 8 } } s.clu sw 1
    refine ⟨_, run, rests, rfl, rfl, rfl, rfl, fun e he => ?_, ?_⟩
    · have listed : e ∈ L.entries.map fun e => { e with fired := false, mismatched := false } := (Loom.entries_mapEntries L _) ▸ he
      obtain ⟨x, _, rfl⟩ := List.mem_map.1 listed
      rfl
    · exact (congrArg List.length (Loom.entries_mapEntries L _)).trans (List.length_map ..)
  · have run := exec_lmwait (s := s) sw d ready
    rw [if_pos none] at run
    exact State.refuses_illegal run
  · have run := exec_lmwait (s := s) sw d ready
    rw [if_neg some, if_pos broken, ← wide_two] at run
    obtain ⟨forms, goes, mem⟩ := State.forms_retire (m := (s.issued []).leaveLoom) ((s.issued_amid []).trans ⟨rfl, .refl _, rfl⟩) (s.issued_sameRegs []) rfl (.x d) (wide 2) sw 4 1
    have late := (s.issued []).leaveLoom.writeLater_onlySends (.x d) (wide 2) 0
    refine ⟨_, run, forms, goes, late.core, mem, fun x hx => s.leaveLoom_disarms [] x ?_⟩
    rwa [← late.clu]
  · have run := exec_lmwait (s := s) sw d ready
    rw [if_neg whole.1, if_neg (by rw [whole.2]; exact Bool.false_ne_true), if_pos weaves] at run
    exact ⟨_, run, s.issued_block_waits ready.1 ..⟩
  · have run := exec_lmwait (s := s) sw d ready
    rw [if_neg whole.1, if_neg (by rw [whole.2]; exact Bool.false_ne_true), if_neg (by rw [rests]; exact Bool.false_ne_true)] at run
    have value : (if s.core.loom.ms = true then 1 else 0 : Vec) = wide (if L.ms then 1 else 0) := by
      show (if L.ms = true then 1 else 0 : Vec) = _
      cases L.ms with
      | false => exact wide_zero.symm
      | true => exact (wide_ofNat 1 (by decide)).symm
    rw [value] at run
    obtain ⟨forms, goes, mem⟩ := State.forms_retire (s.issued_amid []) (s.issued_sameRegs []) rfl (.x d) (wide (if L.ms then 1 else 0)) sw 4 1
    have late := (s.issued []).writeLater_onlySends (.x d) (wide (if L.ms then 1 else 0)) 0
    exact ⟨_, run, forms, goes, late.core, mem⟩
  · have zero : s.lmstat = 0 := if_pos none
    have reads := State.issue_gives (s := s) (i := .lmstat sw d) (sw := sw) (size := 4) (lat := 2) (v := fun u => wide u.lmstat) [] [.x d] rfl (fun _ => rfl) (Reg.fits_wide _ _)
    rwa [zero, wide_zero] at reads
  · have word : s.lmstat = BitVec.ofNat 64 (2 ^ 63 + L.size.toNat * 2 ^ 61 + bitAt (!s.loomBroken && (L.running || L.armed)) 60 + bitAt L.rp 59 + bitAt L.ms 58
        + L.lpos * 2 ^ 53 + L.pick * 2 ^ 48 + bitAt s.loomBroken 47 + L.out * 2 ^ 32 + L.exp * 2 ^ 16 + L.valid) := if_neg some
    refine ⟨s.lmstat, State.issue_gives (v := fun u => wide u.lmstat) [] [.x d] rfl (fun _ => rfl) (Reg.fits_wide _ _), ?_⟩
    rw [word]
    exact lmstat_fields L.size.isLt lpos pick out exp valid
  · intro still'
    refine ⟨fun armed => ?_, fun unarmed => ?_, fun w f x y dr running going first last warp weft draft => ?_, fun fmts x y es i inside => ?_, fun q qs latched room => ?_,
      fun w f running ended first => ?_, fun o running ended first missed => ?_, fun i e first o => Loom.missed_isSome first o, fun o running ended done out => ?_,
      fun running ended out => ⟨fun fired => ?_, fun i e second first count => ?_⟩⟩
    · have run : exec .weaveStart s = execWeaveStart s := rfl
      rw [execWeaveStart, if_pos armed] at run
      exact ⟨_, run, ⟨rfl, rfl⟩, rfl⟩
    · have run : exec .weaveStart s = execWeaveStart s := rfl
      rwa [execWeaveStart, if_neg (by rw [unarmed]; exact Bool.false_ne_true)] at run
    · intro r
      obtain ⟨m, run, mem, ctxs, loom, matrix⟩ := exec_pick_first w f running going first last warp weft draft
      have all := State.dispatch_tasked r.2 m
      have fields := all.loom
      rw [loom] at fields
      have command : m.taskCommand = s.taskCommand := by
        funext q
        unfold State.taskCommand
        rw [loom]
      refine ⟨_, run, ⟨all.mem.trans mem, all.ctxs.trans ctxs⟩, rfl, (congrArg Loom.draft fields :), (congrArg Loom.out fields :), (congrArg Loom.exp fields :), rfl, rfl, rfl,
        fun none room => ?_, fun full => ?_⟩
      · obtain ⟨_, queue, latched⟩ := State.dispatch_joins r.2 m (by rw [loom]; exact none) (by rw [matrix]; exact room)
        exact ⟨queue.trans (by rw [matrix, command]), latched⟩
      · obtain ⟨_, queue, latched⟩ := State.dispatch_latches r.2 m (by rw [loom, matrix]; exact full)
        exact ⟨queue.trans (by rw [matrix]), latched.trans (by rw [loom])⟩
    · intro e meets out
      obtain ⟨length, entries, tasks⟩ := fireEntries_at fmts x y es 0
      have here : e = es[i] := (List.getD_eq_getElem _ _ inside)
      have at_ : out.1[i]? = some (fireOne fmts x y i e).1 := by rw [here]; simpa using entries i inside
      have taskless (no : (fireOne fmts x y i e).2 = none) : ∀ q ∈ out.2, q.entry ≠ i := fun q hq same => by
        obtain ⟨j, hj, task⟩ := (tasks q).1 hq
        have index := fireOne_task task
        rw [Nat.zero_add] at index task
        have eq : j = i := index.symm.trans same
        subst eq
        rw [← here, no] at task
        cases task
      refine ⟨length, fun no => ?_, fun f met format => ⟨fun fits => ?_, fun misfits => ?_⟩⟩
      · have one : fireOne fmts x y i e = (e, none) := if_neg no
        exact ⟨at_.trans (by rw [one]), taskless (by rw [one])⟩
      · have one : fireOne fmts x y i e = ({ e with fired := true },
            some { entry := i, trow := e.trow.toNat, tcol := e.tcol.toNat, fmt := f, zero := e.zero, warp := x, weft := y }) := by
          rw [fireOne, if_pos met, format]
          exact if_pos fits
        refine ⟨at_.trans (by rw [one]), (tasks _).2 ⟨i, inside, ?_⟩⟩
        rw [Nat.zero_add, ← here, one]
      · have one : fireOne fmts x y i e = ({ e with mismatched := true }, none) := by
          rw [fireOne, if_pos met, format]
          exact if_neg (by rw [misfits]; exact Bool.false_ne_true)
        exact ⟨at_.trans (by rw [one]), taskless (by rw [one])⟩
    · have run : exec .latchedTask s = execLatchedTask s := rfl
      unfold execLatchedTask at run
      rw [latched] at run
      dsimp only at run
      rw [if_neg (Nat.not_le.2 room)] at run
      obtain ⟨tasked, queue, loom⟩ := (s.modLoom fun l => { l with latched := qs }).join_tasked (s.taskCommand q)
      generalize (s.modLoom fun l => { l with latched := qs }).join (s.taskCommand q) = u at run tasked queue loom
      refine ⟨_, run, ?_⟩
      split
      · exact ⟨⟨tasked.mem, tasked.ctxs⟩, queue, congrArg Loom.latched loom⟩
      · exact ⟨⟨tasked.mem, tasked.ctxs⟩, queue, congrArg Loom.latched loom⟩
    · have run : exec (.rePickPass w f) s = execRePickPass w f s := rfl
      unfold execRePickPass at run
      dsimp only at run
      rw [if_neg (by rw [running, ended, first]; simp)] at run
      refine ⟨_, run, ⟨rfl, rfl⟩, rfl, rfl, rfl, fun x inj => ?_, fun x inj => ?_⟩
      · show Option.map s.readTile (Option.filter _ L.injWarp) = _
        rw [inj, Option.filter]
        simp only [Bool.or_eq_true]
        split <;> rfl
      · show Option.map s.readTile (Option.filter _ L.injWeft) = _
        rw [inj, Option.filter]
        simp only [Bool.or_eq_true]
        split <;> rfl
    · have run : exec (.weaveEnd o) s = execWeaveEnd o s := rfl
      unfold execWeaveEnd at run
      dsimp only at run
      rwa [if_pos (.inr (.inr ⟨first, missed⟩))] at run
    · have run : exec (.weaveEnd o) s = execWeaveEnd o s := rfl
      unfold execWeaveEnd at run
      dsimp only at run
      have over_ : ¬ (s.core.loom.running = false ∨ s.core.loom.passEnd = false ∨ s.core.loom.rp = false ∧ (s.core.loom.missed o).isSome = true) := by
        rw [running, ended]
        rintro (h | h | ⟨h, missed⟩)
        · cases h
        · cases h
        · rcases done with second | free'
          · exact Bool.noConfusion (second.symm.trans h)
          · have free : s.core.loom.missed o = none := free'
            rw [free] at missed
            cases missed
      rw [if_neg over_, if_pos out] at run
      exact ⟨_, run, ⟨rfl, rfl⟩, rfl⟩
    · have run : exec (.weaveEnd none) s = execWeaveEnd none s := rfl
      have nothing : L.missed none = none := by
        unfold Loom.missed
        rw [firstUnfired_none _ 0 fired]
      unfold execWeaveEnd at run
      dsimp only at run
      rw [if_neg (by rw [running, ended, nothing]; simp), if_neg (not_not.2 out), nothing, State.logMissed_none _ 0 s fired] at run
      dsimp only at run
      refine ⟨_, run, ?_, rfl, rfl, rfl, rfl, rfl, fun zero bell => ?_⟩
      · split <;> exact ⟨rfl, rfl⟩
      · rw [if_pos ⟨zero, bell⟩]
        exact List.mem_append_right _ (List.mem_singleton.2 rfl)
    · have run : exec (.weaveEnd none) s = execWeaveEnd none s := rfl
      have one : L.missed none = some (missedDetail i L.lpos e.mismatched false, L.srcOf e.warp) := by
        unfold Loom.missed
        rw [first]
        dsimp only
        rw [count]
        rfl
      obtain ⟨core, ctxs⟩ := State.logMissed_kept L.entries 0 s
      unfold execWeaveEnd at run
      dsimp only at run
      rw [if_neg (by rw [running, ended, second]; simp), if_neg (not_not.2 out), one] at run
      dsimp only at run
      generalize State.logMissed 0 s.core.loom.entries s = u at run core ctxs
      obtain ⟨v, eq, core', ctxs'⟩ : ∃ v, (if s.core.loom.lpos = 0 ∧ s.core.loom.bell = true then u.post (.pulse (132 + BitVec.ofNat 8 (s.position / 8))) else u) = v ∧
          v.core = s.core ∧ v.ctxs = s.ctxs := by
        split
        · exact ⟨_, rfl, core, ctxs⟩
        · exact ⟨_, rfl, core, ctxs⟩
      rw [eq] at run
      have kept (m : Fin 11) : v.ctxAt m = s.ctxAt m := congrArg (·.get m) ctxs'
      by_cases lead : L.lpos = 0
      · rw [if_pos lead] at run
        have here : (v.raiseMissed (missedDetail i L.lpos e.mismatched false, L.srcOf e.warp)).core = s.core := core'
        refine ⟨_, run, rfl, rfl, rfl, ?_, fun m ne => ?_, fun away => absurd lead away, fun _ => ?_⟩
        · exact (congrArg (fun k : Core => ∀ q ∈ (k.loom.ended true).entries, q.valid = true → q.fired = true) here).mpr (L.ended_fired true)
        · exact (v.raiseMissed_other _ ne).trans (kept m)
        · refine (v.raiseMissed_deferred _).trans ?_
          rw [kept 0, core', missedDetail, lead]
          rfl
      · rw [if_neg lead] at run
        refine ⟨_, run, rfl, rfl, rfl, ?_, fun m _ => kept m, fun _ => kept 0, fun zero => absurd zero lead⟩
        exact (congrArg (fun k : Core => ∀ q ∈ (k.loom.ended true).entries, q.valid = true → q.fired = true) core').mpr (L.ended_fired true)

end Sys2Proof.Machine
end

section
/-! SUPPORT. Ports, bindings and the words of a packet (R385 to R388). -/

namespace Sys2Proof.Machine

/-! ## The ports of the core -/

theorem State.port_modPort (s : State) (n : BitVec 2) (f : Port → Port) : (s.modPort n f).port n = f (s.port n) :=
  Vector.getElem_set_self n.isLt

theorem State.port_modPort_ne (s : State) {n k : BitVec 2} (f : Port → Port) (ne : k ≠ n) : (s.modPort n f).port k = s.port k :=
  Vector.getElem_set_ne n.isLt k.isLt fun same => ne (BitVec.eq_of_toNat_eq same.symm)

theorem State.sign_units (s : State) (addr width : Nat) (data : List Byte) :
    ∃ a b, s.sign addr width data = { s with core := { s.core with sig := a, partnerSig := b } } := by
  unfold State.sign
  split
  · exact ⟨_, _, rfl⟩
  · exact ⟨_, _, rfl⟩

theorem State.learn_eq (s : State) (n : Nat) (p : List Nat → Bool) (c : Scope) : ∃ early, s.learn n p c = { s with early } := by
  unfold State.learn State.modEarly
  exact ⟨_, rfl⟩

theorem State.closeRoute_port (s : State) (n : BitVec 2) (p : Nat → Bool) : (s.closeRoute n p).port n = (s.port n).close (cmdAgent s.seq) ∧
    ∀ k, k ≠ n → (s.closeRoute n p).port k = s.port k := by
  unfold State.closeRoute
  obtain ⟨early, eq⟩ := State.learn_eq ({ s with seq := s.seq + 1 }.modPort n fun x => x.close (cmdAgent s.seq)) (cmdAgent s.seq) (fun k => k.any p) .dev
  rw [eq]
  exact ⟨State.port_modPort { s with seq := s.seq + 1 } n fun x => x.close (cmdAgent s.seq), fun k ne =>
    State.port_modPort_ne { s with seq := s.seq + 1 } (fun x => x.close (cmdAgent s.seq)) ne⟩

/-! ## A state in the midst of a PSEND -/

/-- A state that a PSEND of `s` has come to, in which the context's binding is `b`: its ports apart, nothing that the statements speak of has changed. -/
structure State.packs (s t : State) (b : SendBinding) : Prop where
  mem : t.mem = s.mem
  accs : t.accs = s.accs
  cycle : t.cycle = s.cycle
  cur : t.cur = s.cur
  job : t.job = s.job
  num : t.core.num = s.core.num
  ctx : t.ctx = { s.ctx with send := b }

namespace State.packs

variable {s t u : State} {b d : SendBinding}

theorem binding (h : s.packs t b) : t.binding = b := congrArg Ctx.send h.ctx

theorem trans (h : s.packs t b) (k : t.packs u d) : s.packs u d :=
  ⟨k.mem.trans h.mem, k.accs.trans h.accs, k.cycle.trans h.cycle, k.cur.trans h.cur, k.job.trans h.job, k.num.trans h.num, by rw [k.ctx, h.ctx]⟩

theorem amid (h : s.packs t b) : s.amid t := ⟨h.cycle, by rw [h.ctx]; exact ⟨rfl, rfl, rfl, rfl, rfl, rfl⟩, h.cur⟩

theorem sameRegs (h : s.packs t b) : s.sameRegs t := ⟨fun r => by rw [h.ctx]; exact Ctx.reg_congr rfl rfl rfl r, by rw [h.ctx]⟩

theorem refl (s : State) : s.packs s s.binding := ⟨rfl, rfl, rfl, rfl, rfl, rfl, rfl⟩

theorem localPort (h : s.packs t b) (same : b.core = s.binding.core) : t.localPort = s.localPort := by
  unfold State.localPort
  rw [h.binding, h.num, same]

end State.packs

theorem State.modSend_packs (s : State) (f : SendBinding → SendBinding) : s.packs (s.modSend f) (f s.binding) :=
  ⟨rfl, rfl, rfl, rfl, rfl, rfl, s.ctx_modCtx _⟩

theorem State.modPort_packs (s : State) (n : BitVec 2) (f : Port → Port) : s.packs (s.modPort n f) s.binding := ⟨rfl, rfl, rfl, rfl, rfl, rfl, rfl⟩

/-- The binding after a word (R386). -/
def SendBinding.sent (b : SendBinding) : SendBinding := { b with sst := 2, words := b.words + 1, allow := b.allow - 1 }

/-- The binding after the words `ws`. -/
def SendBinding.sentAll (b : SendBinding) (ws : List Word) : SendBinding := ws.foldl (fun b _ => b.sent) b

/-- A port after the words `ws`. -/
def Port.enterAll (p : Port) (ws : List Word) : Port := ws.foldl Port.enter p

theorem SendBinding.sentAll_eq : ∀ (ws : List Word) (b : SendBinding), b.sentAll ws =
    { b with sst := if ws = [] then b.sst else 2, words := b.words + ws.length, allow := b.allow - ws.length }
  | [], _ => rfl
  | w :: ws, b => by
    show b.sent.sentAll ws = _
    rw [SendBinding.sentAll_eq ws b.sent, if_neg (List.cons_ne_nil w ws), List.length_cons]
    unfold SendBinding.sent
    simp only [ite_self, SendBinding.mk.injEq, true_and]
    omega

theorem Port.enterAll_eq : ∀ (ws : List Word) (p : Port), p.enterAll ws =
    { p with buf := p.buf ++ ws.map some, rw := p.rw + ws.length, given := p.given - ws.length }
  | [], p => by
    show p = _
    rw [List.map_nil, List.append_nil]
    rfl
  | w :: ws, p => by
    show (p.enter w).enterAll ws = _
    rw [Port.enterAll_eq ws (p.enter w), List.length_cons, List.map_cons]
    unfold Port.enter
    simp only [Port.mk.injEq, List.append_assoc, List.singleton_append, true_and, and_true]
    omega

/-- The ports of this core after words for `m` have gone out from `s`: they enter port `m` where it is this core's. -/
structure State.delivers (s t : State) (m : BitVec 2) (ws : List Word) : Prop where
  into : s.localPort = true → t.port m = (s.port m).enterAll ws
  rest : ∀ k, k ≠ m ∨ s.localPort = false → t.port k = s.port k

theorem State.sendWord_packs (s : State) (w : Word) : s.packs (s.sendWord w) s.binding.sent ∧ s.delivers (s.sendWord w) s.binding.port [w] := by
  obtain ⟨x, y, signed⟩ := s.sign_units (s.binding.core.toNat * 4 + s.binding.port.toNat) 8 (bytesOfNat w.toNat 8)
  let u : State := { s with core := { s.core with sig := x, partnerSig := y } }
  have step : s.packs (u.modSend SendBinding.sent) s.binding.sent :=
    State.packs.trans (t := u) (b := s.binding) ⟨rfl, rfl, rfl, rfl, rfl, rfl, rfl⟩ (u.modSend_packs _)
  have eq : s.sendWord w = if s.localPort then (u.modSend SendBinding.sent).modPort s.binding.port fun p => p.enter w else u.modSend SendBinding.sent := by
    unfold State.sendWord
    dsimp only
    rw [signed]
    rfl
  rw [eq]
  split
  case isTrue here =>
    have put := (u.modSend SendBinding.sent).modPort_packs s.binding.port fun p => p.enter w
    rw [step.binding] at put
    exact ⟨step.trans put, fun _ => State.port_modPort .., fun k other => State.port_modPort_ne _ _ (other.resolve_right (by rw [here]; exact Bool.noConfusion))⟩
  case isFalse there => exact ⟨step, fun here => absurd here there, fun _ _ => rfl⟩

/-- The words of a PSEND go out where the allowances reach (R385, R386). -/
theorem State.sendWords_packs : ∀ (ws : List Word) (n : Nat) (s : State),
    ws.length ≤ (if s.localPort then (s.port s.binding.port).given else s.binding.allow) →
    ∃ t, State.sendWords ws n s = (t, n + ws.length) ∧ s.packs t (s.binding.sentAll ws) ∧ s.delivers t s.binding.port ws
  | [], n, s, _ => ⟨s, rfl, .refl s, fun _ => rfl, fun _ _ => rfl⟩
  | w :: ws, n, s, room => by
    obtain ⟨step, put⟩ := s.sendWord_packs w
    have port : (s.sendWord w).binding.port = s.binding.port := (congrArg SendBinding.port step.binding :)
    have here : (s.sendWord w).localPort = s.localPort := step.localPort rfl
    rw [List.length_cons] at room
    have allowed : s.allowances ≠ 0 := by
      have pos : 0 < s.allowances := by
        unfold State.allowances
        split at room
        case isTrue own =>
          rw [if_pos own]
          exact Nat.lt_of_lt_of_le (Nat.lt_of_lt_of_le (Nat.succ_pos _) room) (Nat.le_max_left _ _ : _ ≤ Nat.max _ _)
        case isFalse out =>
          rw [if_neg out]
          exact Nat.lt_of_lt_of_le (Nat.succ_pos _) room
      exact Nat.ne_of_gt pos
    have left : ws.length ≤ (if (s.sendWord w).localPort then ((s.sendWord w).port (s.sendWord w).binding.port).given else (s.sendWord w).binding.allow) := by
      rw [here, port]
      split at room
      case isTrue own =>
        rw [if_pos own, put.into own]
        exact Nat.le_sub_of_add_le room
      case isFalse out =>
        rw [if_neg out, step.binding]
        exact Nat.le_sub_of_add_le room
    obtain ⟨t, run, packed, delivered⟩ := State.sendWords_packs ws (n + 1) (s.sendWord w) left
    rw [port] at delivered
    rw [step.binding] at packed
    refine ⟨t, ?_, step.trans packed, fun own => ?_, fun k other => ?_⟩
    · rw [State.sendWords, if_neg allowed, run, List.length_cons, Nat.add_assoc, Nat.add_comm 1]
    · rw [delivered.into (here.trans own), put.into own]
      rfl
    · rw [delivered.rest k (by rwa [here]), put.rest k other]

theorem State.sendMarker_packs (s : State) : s.packs s.sendMarker { s.binding with sst := 1, words := 0, allow := 0 } ∧
    (s.localPort = true → ∃ mark, s.sendMarker.port s.binding.port = (s.port s.binding.port).close mark) ∧
    ∀ k, k ≠ s.binding.port ∨ s.localPort = false → s.sendMarker.port k = s.port k := by
  unfold State.sendMarker
  split
  case isTrue here =>
    obtain ⟨self, rest⟩ := s.closeRoute_port s.binding.port fun a => decide (a = s.source)
    obtain ⟨early, eq⟩ := State.learn_eq ({ s with seq := s.seq + 1 }.modPort s.binding.port fun x => x.close (cmdAgent s.seq)) (cmdAgent s.seq)
      (fun k => k.any fun a => decide (a = s.source)) .dev
    have closed : s.packs (s.closeRoute s.binding.port fun a => decide (a = s.source)) s.binding := by
      unfold State.closeRoute
      rw [eq]
      exact ⟨rfl, rfl, rfl, rfl, rfl, rfl, rfl⟩
    have step := closed.trans (State.modSend_packs _ fun b => { b with sst := 1, words := 0, allow := 0 })
    rw [closed.binding] at step
    exact ⟨step, fun _ => ⟨_, self⟩, fun k other => rest k (other.resolve_right (by rw [here]; exact Bool.noConfusion))⟩
  case isFalse there => exact ⟨s.modSend_packs _, fun here => absurd here there, fun _ _ => rfl⟩

/-- The route of a packet's first word (R386). -/
def State.opened (s : State) : State := if s.binding.words = 0 then s.openRoute else s

theorem State.opened_packs (s : State) : s.packs s.opened s.binding ∧ ∀ k, k ≠ s.binding.port ∨ s.localPort = false → s.opened.port k = s.port k := by
  unfold State.opened State.openRoute
  split
  · split
    case isTrue here => exact ⟨s.modPort_packs .., fun k other => State.port_modPort_ne _ _ (other.resolve_right (by rw [here]; exact Bool.noConfusion))⟩
    case isFalse => exact ⟨.refl s, fun _ _ => rfl⟩
  · exact ⟨.refl s, fun _ _ => rfl⟩

/-- The binding after a PSEND of `ws` whose words have all gone. -/
def SendBinding.after (b : SendBinding) (ws : List Word) (e : Bool) : SendBinding :=
  if e then { b.sentAll ws with sst := 1, words := 0, allow := 0 } else b.sentAll ws

/-- A PSEND whose words all go completes; its words, and its marker behind them, are in the port where that is this core's. -/
theorem State.sendOn_sends {s : State} {ws : List Word} (sw e : Bool) (opens : s.binding.words = 0 → s.routeOpens = true)
    (room : ws.length ≤ (if s.localPort then (s.opened.port s.binding.port).given else s.binding.allow)) :
    ∃ t, s.sendOn sw ws e 0 = t.retireAfter sw 4 ws.length ∧ s.packs t (s.binding.after ws e) ∧
      (s.localPort = true → ∃ mark, t.port s.binding.port =
        if e then ((s.opened.port s.binding.port).enterAll ws).close mark else (s.opened.port s.binding.port).enterAll ws) ∧
      ∀ k, k ≠ s.binding.port ∨ s.localPort = false → t.port k = s.port k := by
  obtain ⟨first, apart⟩ := s.opened_packs
  have port : s.opened.binding.port = s.binding.port := (congrArg SendBinding.port first.binding :)
  have here : s.opened.localPort = s.localPort := first.localPort rfl
  obtain ⟨t, run, packed, delivered⟩ := State.sendWords_packs ws 0 s.opened (by rwa [here, port, first.binding])
  rw [port] at delivered
  rw [first.binding] at packed
  have going : s.sendOn sw ws e 0 = (if e then t.sendMarker else t).retireAfter sw 4 ws.length := by
    have stays : ¬ (s.binding.words = 0 ∧ s.routeOpens = false) := fun h => by
      rw [opens h.1] at h
      exact Bool.noConfusion h.2
    unfold State.sendOn
    dsimp only
    rw [if_neg stays, List.drop_zero, show (if s.binding.words = 0 then s.openRoute else s) = s.opened from rfl, run]
    dsimp only
    rw [Nat.zero_add, if_neg (Nat.lt_irrefl _)]
  have whole := first.trans packed
  have port' : t.binding.port = s.binding.port := by rw [whole.binding, SendBinding.sentAll_eq]
  have here' : t.localPort = s.localPort := whole.localPort (by rw [SendBinding.sentAll_eq])
  refine ⟨_, going, ?_⟩
  cases e with
  | false => exact ⟨whole, fun own => ⟨0, delivered.into (here.trans own)⟩, fun k other => (delivered.rest k (by rwa [here])).trans (apart k other)⟩
  | true =>
    obtain ⟨marked, closed, rest⟩ := t.sendMarker_packs
    rw [whole.binding] at marked
    rw [port', here'] at closed rest
    refine ⟨whole.trans marked, fun own => ?_, fun k other => (rest k other).trans ((delivered.rest k (by rwa [here])).trans (apart k other))⟩
    obtain ⟨mark, shut⟩ := closed own
    exact ⟨mark, by rw [if_pos rfl, if_pos rfl, shut, delivered.into (here.trans own)]⟩

/-- A PSEND that cannot send its first word waits in its port's line (R386). -/
theorem State.sendOn_waits {s : State} {w : Word} {ws : List Word} (sw e : Bool) (stays : s.binding.words = 0 ∧ s.routeOpens = false ∨ 0 < s.binding.words ∧ s.allowances = 0) :
    s.sendOn sw (w :: ws) e 0 = (if s.binding.words = 0 ∧ s.localPort = true then s.joinLine else s).waitOn .psend (s.binding.port.setWidth 8) 0 := by
  unfold State.sendOn
  dsimp only
  rcases stays with ⟨none, closed⟩ | ⟨some, out⟩
  · rw [if_pos ⟨none, closed⟩]
    simp only [none, true_and]
    rfl
  · have going : ¬ s.binding.words = 0 := Nat.ne_of_gt some
    rw [if_neg fun h => going h.1, if_neg going, List.drop_zero, State.sendWords, if_pos out]
    dsimp only
    rw [if_pos (show 0 < (w :: ws).length from Nat.succ_pos _), if_neg (show ¬ (s.binding.words = 0 ∧ s.localPort = true) from fun h => going h.1)]
    rfl

end Sys2Proof.Machine
end

section
/-! SUPPORT. PSEND, PRECV and what a port's instructions leave (R386, R387). -/

namespace Sys2Proof.Machine

theorem State.retireAfter_send (s : State) (sw : Bool) (size gap : Nat) : (s.retireAfter sw size gap).ctx.send = s.ctx.send := by
  rw [State.retireAfter_ctx, Ctx.sequential_only]

/-- What a PSEND that completes leaves. -/
theorem State.packs.completes {s t : State} {rs : List Reg} {b : SendBinding} (h : (s.issued rs).packs t b) (sw : Bool) (gap : Nat) :
    let u := t.retireAfter sw 4 gap
    (u.mem = s.mem ∧ u.accs = s.accs ∧ s.sameRegs u ∧ s.goesOn u sw 4 gap) ∧ u.ctx.send = b :=
  ⟨⟨h.mem, h.accs, ((s.issued_sameRegs rs).trans h.sameRegs).trans (State.retireAfter_sameRegs ..), ((s.issued_amid rs).trans h.amid).goesOn sw 4 gap⟩,
    (t.retireAfter_send sw 4 gap).trans h.binding⟩

theorem Ctx.waiting_kind (c : Ctx) (kind : WaitKind) (q : BitVec 8) (addr : Word) (cycle : Nat) : (c.waiting kind q addr cycle).kind = kind := by
  unfold Ctx.waiting
  split <;> rfl

/-- What a PSEND that waits leaves. -/
theorem State.packs.awaits {s t : State} {rs : List Reg} {b : SendBinding} (h : (s.issued rs).packs t b) (q : BitVec 8) (x : Word) :
    let u := t.waitOn .psend q x
    (∃ w, u.ctx.wait = some w ∧ w.kind = .psend) ∧ u.ctx.pc = s.ctx.pc ∧ s.sameRegs u ∧ u.mem = s.mem := by
  intro u
  have ctx : u.ctx = { t.ctx with wait := some (t.ctx.waiting .psend q x t.cycle), nextIssue := t.cycle + 1 } := t.ctx_modCtx _
  have same : t.sameRegs u := ⟨fun r => by rw [ctx]; exact Ctx.reg_congr rfl rfl rfl r, by rw [ctx]⟩
  exact ⟨⟨_, congrArg Ctx.wait ctx, Ctx.waiting_kind ..⟩, (congrArg Ctx.pc ctx).trans ((s.issued_amid rs).trans h.amid).pc, ((s.issued_sameRegs rs).trans h.sameRegs).trans same, h.mem⟩

/-- The words that a PSEND sends (R386). -/
def State.packet (s : State) (a : BitVec 5) (v : Bool) : List Word :=
  if v then (List.range 8).map fun i => BitVec.ofNat 64 (lane (s.readV a) 64 i) else [s.readX a]

theorem State.packet_cons (s : State) (a : BitVec 5) (v : Bool) : ∃ w ws, s.packet a v = w :: ws := by
  cases v
  · exact ⟨_, _, rfl⟩
  · exact ⟨_, _, rfl⟩

/-- A binding whose packet has been aborted, and has ended, is idle again (R396). -/
def SendBinding.mended (b : SendBinding) : SendBinding := if b.sst = 3 then { b with sst := 1 } else b

theorem SendBinding.mended_eq (b : SendBinding) : ∃ sst, b.mended = { b with sst } := by
  unfold SendBinding.mended
  split
  · exact ⟨_, rfl⟩
  · exact ⟨b.sst, rfl⟩

theorem exec_psend {s : State} {a : BitVec 5} (ready : s.ready [.x a, .v a]) (sw v e : Bool) :
    ∃ rs, exec (.psend sw a v e) s = .next ((s.issued rs).psend sw (s.packet a v) e) := by
  have run : exec (.psend sw a v e) s = execPsend sw a v e s := rfl
  unfold execPsend at run
  cases v with
  | false =>
    rw [if_neg Bool.false_ne_true, State.issue_issued (ready.mono (by simp)), State.readX_issued] at run
    exact ⟨_, run⟩
  | true =>
    rw [if_pos rfl, State.issue_issued (ready.mono (by simp)), State.readV_issued] at run
    exact ⟨_, run⟩

theorem State.issued_binding (s : State) (rs : List Reg) : (s.issued rs).binding = s.ctx.send := by
  unfold State.binding
  rw [State.issued_ctx]

/-- The state of a PSEND that sends. -/
def State.sending (s : State) (rs : List Reg) : State := (s.issued rs).modSend SendBinding.mended

theorem State.sending_packs (s : State) (rs : List Reg) : (s.issued rs).packs (s.sending rs) s.ctx.send.mended := by
  exact s.issued_binding rs ▸ (s.issued rs).modSend_packs SendBinding.mended

theorem State.psend_free {s : State} (wait : s.ctx.wait = none) (free : s.job.superstep = false) (rs : List Reg) (sw : Bool) (ws : List Word) (e : Bool) :
    (s.issued rs).psend sw ws e =
      if s.ctx.send.sst = 0 then (s.issued rs).illegal
      else if s.ctx.send.sst = 3 ∧ 0 < s.ctx.send.words then (s.issued rs).sendNothing sw ws.length e
      else if tooLong s.ctx.send.words ws.length e then (s.sending rs).trapHere 0x14 0 0
      else (s.sending rs).whenDone (s.beforeClosing e) 0 fun u => u.sendOn sw ws e 0 := by
  have words : (s.sending rs).binding.words = s.ctx.send.words := by
    obtain ⟨sst, eq⟩ := s.ctx.send.mended_eq
    rw [(s.sending_packs rs).binding, eq]
  have before : (s.sending rs).beforeClosing e = s.beforeClosing e := by
    have order : (s.sending rs).ctx.order = s.ctx.order := by rw [(s.sending_packs rs).ctx, State.issued_ctx]
    funext y
    unfold State.beforeClosing
    rw [order]
    rfl
  unfold State.psend State.freeJob
  rw [show (s.issued rs).job.superstep = false from free, if_neg Bool.false_ne_true]
  dsimp only
  rw [State.issued_wait wait]
  dsimp only
  rw [State.issued_binding, show ((s.issued rs).modSend fun b => if b.sst = 3 then { b with sst := 1 } else b) = s.sending rs from rfl, words, before]

theorem Ctx.entered.of_send {c d : Ctx} {b : SendBinding} {t : TrapInfo} {v : Word} (h : ({ c with send := b } : Ctx).entered d t v) : c.entered d t v :=
  { h with regs := fun r => (h.regs r).trans (Ctx.reg_congr rfl rfl rfl r) }

/-- The trap of a packet that would be too long (R386). -/
theorem State.sending_trap {s : State} (able : s.ctx.trappable) (rs : List Reg) (cause : BitVec 8) (detail : BitVec 32) (addr : Word) :
    let t := (s.sending rs).trapHere cause detail addr
    t.core = s.core ∧ s.ctx.entered t.ctx (TrapInfo.at s.ctx.pc cause detail addr) s.job.trapvec ∧ t.ctx.send = s.ctx.send.mended := by
  intro t
  have packs := s.sending_packs rs
  have ctx : (s.sending rs).ctx = { { s.ctx with send := s.ctx.send.mended } with inTaint := s.ctx.taintOf (rs.map .reg) } := by
    rw [packs.ctx, State.issued_ctx]
  have able' : (s.sending rs).ctx.trappable := by
    rw [ctx]
    exact able
  have pc : (s.sending rs).pc = s.ctx.pc := by
    unfold State.pc
    rw [ctx]
  have entered := State.raise_entered able' (TrapInfo.at (s.sending rs).pc cause detail addr)
  have send : t.ctx.send = s.ctx.send.mended := by
    rw [show t.ctx = _ from State.raise_ctx able' _]
    rw [ctx]
    rfl
  rw [ctx, pc] at entered
  refine ⟨State.raise_core able' _, ?_, send⟩
  have trap := entered.of_inTaint.of_send
  rwa [← pc] at trap ⊢

theorem tooLong_iff (w m : Nat) (e : Bool) : tooLong w m e = false ↔ w + m < 256 ∨ w + m = 256 ∧ e = true := by
  unfold tooLong
  cases e <;> simp <;> omega

/-! ## PRECV (R387) -/

theorem State.writeLate_seq (s : State) (r : Reg) (v : Vec) (lat : Nat) : (s.writeLate r v lat).seq = s.seq + 1 ∧ (s.writeLate r v lat).core = s.core := by
  unfold State.writeLate
  split
  · exact ⟨rfl, rfl⟩
  · exact ⟨rfl, rfl⟩

/-- The results of a take are owed, two cycles later, and its context goes on. -/
theorem State.takeResult_gives (u : State) (sw : Bool) (d : BitVec 5) (v : Bool) (ws : List Word) (flag : Bool) :
    let t := u.takeResult sw d v ws flag
    let R : Reg := if v then .v d else .x d
    (∀ r, t.ctx.reg r = u.ctx.reg r) ∧ u.goesOn t sw 4 1 ∧ t.mem = u.mem ∧ t.core = u.core ∧
      (R ≠ .x 0 → ⟨R, if v then ofLanes 64 8 fun i => (ws.getD i 0).toNat else wide (ws.headD 0), 0, u.seq, some (u.cycle + 2), false, true, 0⟩ ∈ t.ctx.writes) ∧
      ⟨.p 0, wide ((if flag then endFlag else 0) ||| BitVec.ofNat 64 (2 ^ ws.length - 1)), 0, u.seq + 1, some (u.cycle + 2), false, true, 0⟩ ∈ t.ctx.writes := by
  intro t R
  let val : Vec := if v then ofLanes 64 8 fun i => (ws.getD i 0).toNat else wide (ws.headD 0)
  let p0 : Vec := wide ((if flag then endFlag else 0) ||| BitVec.ofNat 64 (2 ^ ws.length - 1))
  obtain ⟨first, -, mem⟩ := u.writeLate_owes R val 2
  obtain ⟨seq, core⟩ := u.writeLate_seq R val 2
  obtain ⟨second, -, mem'⟩ := (u.writeLate R val 2).writeLate_owes (.p 0) p0 2
  obtain ⟨-, core'⟩ := (u.writeLate R val 2).writeLate_seq (.p 0) p0 2
  have both := first.trans second
  obtain ⟨regs, writes⟩ := ((u.writeLate R val 2).writeLate (.p 0) p0 2).retireAfter_sameRegs sw 4 1
  have all : t.ctx.writes = u.ctx.writes ++ (u.lateWrites R val 2 ++ (u.writeLate R val 2).lateWrites (.p 0) p0 2) := writes.trans both.writes
  refine ⟨fun r => (regs r).trans (both.regs r), both.amid.goesOn sw 4 1, mem'.trans mem, core'.trans core, fun some => ?_, ?_⟩
  · rw [all]
    refine List.mem_append_right _ (List.mem_append_left _ ?_)
    rw [State.lateWrites, if_neg some]
    exact List.mem_singleton.2 rfl
  · rw [all]
    refine List.mem_append_right _ (List.mem_append_right _ ?_)
    rw [State.lateWrites, if_neg Reg.noConfusion, seq, first.amid.cycle]
    exact List.mem_singleton.2 rfl

/-- The words that a take removes before a marker, before the words' end, and before a closing word (R387). -/
theorem takeWords_marker (l : List (Option Word)) : ∀ (xs : List Word) (k : Nat), xs.length ≤ k → takeWords false k (xs.map some ++ none :: l) = (xs, l, true)
  | [], 0, _ => rfl
  | [], _ + 1, _ => rfl
  | x :: xs, k + 1, fits => by
    rw [List.map_cons, List.cons_append, takeWords, if_neg (by simp)]
    dsimp only
    rw [takeWords_marker l xs k (Nat.le_of_succ_le_succ fits)]

theorem takeWords_full {l : List (Option Word)} (words : ∀ y ∈ l, y.isSome = true) : ∀ xs : List Word, takeWords false xs.length (xs.map some ++ l) = (xs, l, false)
  | [] => by
    cases l with
    | nil => rfl
    | cons y l =>
      cases y with
      | none => exact absurd (words none (List.mem_cons_self ..)) (by simp)
      | some w => rfl
  | x :: xs => by
    rw [List.map_cons, List.cons_append, List.length_cons, takeWords, if_neg (by simp)]
    dsimp only
    rw [takeWords_full words xs]

theorem takeWords_ending : ∀ (xs : List Word) (k : Nat), xs ≠ [] →
    takeWords true k (xs.map some) = (xs.dropLast.take k, (xs.drop (Nat.min k (xs.length - 1))).map some, false)
  | [], _, held => absurd rfl held
  | x :: xs, 0, _ => by
    rw [show Nat.min 0 ((x :: xs).length - 1) = 0 from Nat.zero_min _]
    rfl
  | [x], k + 1, _ => by
    rw [show Nat.min (k + 1) ([x].length - 1) = 0 from Nat.min_zero _]
    rfl
  | x :: y :: xs, k + 1, _ => by
    have tail := takeWords_ending (y :: xs) k (List.cons_ne_nil y xs)
    have least : Nat.min (k + 1) ((x :: y :: xs).length - 1) = Nat.min k ((y :: xs).length - 1) + 1 := Nat.succ_min_succ _ _
    rw [List.map_cons, takeWords, if_neg (by simp)]
    dsimp only
    rw [tail, least]
    rfl

/-- A take that has reached the marker: only what its context knows has changed, and the port's marks. -/
theorem State.takeMarker_eq (s : State) (n : BitVec 2) : ∃ early, s.takeMarker n = ({ s with early } : State).modPort n fun p => { p with marks := p.marks.drop 1 } := by
  unfold State.takeMarker
  obtain ⟨early, eq⟩ := s.acquireFrom_eq ((s.port n).marks.headD 0) .dev
  rw [eq]
  exact ⟨early, rfl⟩

/-- A state that has changed nothing but a port of the core, and what its contexts know. -/
structure State.taken (s t : State) (n : BitVec 2) (p : Port) : Prop where
  mem : t.mem = s.mem
  cycle : t.cycle = s.cycle
  seq : t.seq = s.seq
  cur : t.cur = s.cur
  ctx : t.ctx = s.ctx
  rest : ∀ k, k ≠ n → t.port k = s.port k
  port : ∃ marks, t.port n = { p with marks }

theorem State.modPort_taken (s : State) (n : BitVec 2) (f : Port → Port) : s.taken (s.modPort n f) n (f (s.port n)) :=
  ⟨rfl, rfl, rfl, rfl, rfl, fun _ ne => State.port_modPort_ne _ _ ne, _, State.port_modPort ..⟩

theorem State.returnAllowances_taken (s : State) (n : BitVec 2) (l : List (Option Word)) (k : Nat) (end_ : Bool) :
    let t := (s.modPort n fun p => { p with buf := l }).returnAllowances n k
    s.taken (if end_ then t.takeMarker n else t) n
      { s.port n with buf := l, given := if (s.port n).state = .route then (s.port n).given + k else (s.port n).given } := by
  intro t
  have port : t.port n = { s.port n with buf := l, given := if (s.port n).state = .route then (s.port n).given + k else (s.port n).given } := by
    show ((s.modPort n fun p => { p with buf := l }).modPort n _).port n = _
    rw [State.port_modPort, State.port_modPort]
    dsimp only
    split
    · rfl
    · rfl
  have rest (m : BitVec 2) (ne : m ≠ n) : t.port m = s.port m := (State.port_modPort_ne _ _ ne).trans (State.port_modPort_ne _ _ ne)
  cases end_ with
  | false => exact ⟨rfl, rfl, rfl, rfl, rfl, rest, _, port⟩
  | true =>
    obtain ⟨early, eq⟩ := t.takeMarker_eq n
    rw [if_pos rfl, eq]
    exact ⟨rfl, rfl, rfl, rfl, rfl, fun m ne => (State.port_modPort_ne _ _ ne).trans (rest m ne), (t.port n).marks.drop 1,
      (State.port_modPort { t with early } n _).trans (by rw [show State.port { t with early } n = t.port n from rfl, port])⟩

/-- PSTAT's fields (R398). -/
theorem pstat_fields {sst : BitVec 2} {core src : BitVec 12} {port : BitVec 2} {ctx : Fin 11} {words rw_ m : Nat} {state : PortState} (hw : words < 512) (hr : rw_ < 512) (hm : m ≤ 64) :
    let w := BitVec.ofNat 64 (sst.toNat * 2 ^ 62 + words * 2 ^ 53 + core.toNat * 2 ^ 41 + port.toNat * 2 ^ 39 + state.code * 2 ^ 34
      + ctx.val * 2 ^ 30 + src.toNat * 2 ^ 18 + rw_ * 2 ^ 9 + m)
    natBits w.toNat 63 62 = sst.toNat ∧ natBits w.toNat 61 53 = words ∧ natBits w.toNat 52 41 = core.toNat ∧ natBits w.toNat 40 39 = port.toNat ∧
      natBits w.toNat 35 34 = state.code ∧ natBits w.toNat 33 30 = ctx.val ∧ natBits w.toNat 29 18 = src.toNat ∧ natBits w.toNat 17 9 = rw_ ∧
      natBits w.toNat 6 0 = m := by
  intro w
  have h1 := sst.isLt
  have h2 := core.isLt
  have h3 := port.isLt
  have h4 := ctx.isLt
  have h5 := src.isLt
  have h6 : state.code < 4 := by cases state <;> decide
  have val : w.toNat = sst.toNat * 2 ^ 62 + words * 2 ^ 53 + core.toNat * 2 ^ 41 + port.toNat * 2 ^ 39 + state.code * 2 ^ 34
      + ctx.val * 2 ^ 30 + src.toNat * 2 ^ 18 + rw_ * 2 ^ 9 + m := by
    rw [BitVec.toNat_ofNat, Nat.mod_eq_of_lt (by omega)]
  refine ⟨?_, ?_, ?_, ?_, ?_, ?_, ?_, ?_, ?_⟩ <;> (rw [natBits, val]; omega)

/-- An instruction that changes a port and completes (R385). -/
theorem State.modPort_retires (s : State) (rs : List Reg) (n : BitVec 2) (f : Port → Port) (sw : Bool) :
    let t := ((s.issued rs).modPort n f).retire sw 4
    (t.mem = s.mem ∧ t.accs = s.accs ∧ s.sameRegs t ∧ s.goesOn t sw 4 1) ∧ (∀ k, k ≠ n → t.port k = s.port k) ∧ t.port n = f (s.port n) :=
  ⟨(s.retire_units rs _ s.clu sw 1).1, fun _ ne => (s.issued rs).port_modPort_ne f ne, (s.issued rs).port_modPort n f⟩

/-- An event that changes a port has changed no context and no memory. -/
theorem State.modPort_still (s : State) (n : BitVec 2) (f : Port → Port) : ∀ m r, ((s.modPort n f).ctxAt m).reg r = (s.ctxAt m).reg r := fun _ _ => rfl

/-- The registers of a PRECV are among those that the network's instructions use. -/
theorem precv_uses (a d : BitVec 5) (v : Bool) : ∀ r ∈ ([] : List Reg) ++ [if v then .v d else .x d, .p 0], r ∈ [.x a, .v a, .x d, .v d, Reg.p 0] := by
  cases v <;> simp

/-! ## Lines and routes (R386) -/

theorem State.joinLine_joins (s : State) : s.packs s.joinLine s.binding ∧ (s.core.num, s.cur) ∈ (s.joinLine.port s.binding.port).requests ∧
    (s.joinLine.port s.binding.port).buf = (s.port s.binding.port).buf := by
  have port := s.port_modPort s.binding.port fun p => if (s.core.num, s.cur) ∈ p.requests then p else { p with requests := p.requests ++ [(s.core.num, s.cur)] }
  refine ⟨s.modPort_packs .., ?_⟩
  rw [State.joinLine, port]
  split
  case isTrue there => exact ⟨there, rfl⟩
  case isFalse => exact ⟨List.mem_append_right _ (List.mem_singleton.2 rfl), rfl⟩

theorem State.opened_first {s : State} (first : s.binding.words = 0) (own : s.localPort = true) : s.opened.port s.binding.port =
    { (s.port s.binding.port).openRoute s.core.num with requests := (s.port s.binding.port).requests.filter (· ≠ (s.core.num, s.cur)) } := by
  rw [State.opened, if_pos first, State.openRoute, if_pos own]
  exact State.port_modPort ..

theorem State.opened_later {s : State} (some : 0 < s.binding.words) : s.opened = s := if_neg (Nat.ne_of_gt some)

theorem SendBinding.after_eq (b : SendBinding) {ws : List Word} (some : ws ≠ []) (e : Bool) : b.after ws e =
    if e then { b with sst := 1, words := 0, allow := 0 } else { b with sst := 2, words := b.words + ws.length, allow := b.allow - ws.length } := by
  rw [SendBinding.after, SendBinding.sentAll_eq, if_neg some]

/-- The state that a PSEND sends from. -/
structure State.sends (s m : State) (rs : List Reg) : Prop where
  packs : ∃ sst, (s.issued rs).packs m { s.ctx.send with sst }
  ports : ∀ k, m.port k = s.port k
  core : m.core = s.core
  job : m.job = s.job

theorem State.sending_sends (s : State) (rs : List Reg) : s.sends (s.sending rs) rs := by
  obtain ⟨sst, eq⟩ := s.ctx.send.mended_eq
  exact ⟨⟨sst, eq ▸ s.sending_packs rs⟩, fun _ => rfl, rfl, rfl⟩

theorem State.sends.localPort {s m : State} {rs : List Reg} (h : s.sends m rs) : m.localPort = true ↔ s.ctx.send.core = s.core.num := by
  obtain ⟨sst, packs⟩ := h.packs
  rw [State.localPort, packs.binding, h.core, decide_eq_true_eq]

/-- A PSEND whose words all go. -/
theorem State.sends.goes {s m : State} {rs : List Reg} (h : s.sends m rs) {ws : List Word} (some : ws ≠ []) (sw e : Bool)
    (opens : s.ctx.send.words = 0 → m.routeOpens = true)
    (room : ws.length ≤ (if m.localPort then (m.opened.port s.ctx.send.port).given else s.ctx.send.allow)) :
    ∃ t : State, m.sendOn sw ws e 0 = t.retireAfter sw 4 ws.length ∧
      (let u := t.retireAfter sw 4 ws.length
       (u.mem = s.mem ∧ u.accs = s.accs ∧ s.sameRegs u ∧ s.goesOn u sw 4 ws.length) ∧
        (u.ctx.send = if e then { s.ctx.send with sst := 1, words := 0, allow := 0 }
          else { s.ctx.send with sst := 2, words := s.ctx.send.words + ws.length, allow := s.ctx.send.allow - ws.length }) ∧
        (m.localPort = true → ∃ mark, u.port s.ctx.send.port =
          if e then ((m.opened.port s.ctx.send.port).enterAll ws).close mark else (m.opened.port s.ctx.send.port).enterAll ws) ∧
        ∀ k, k ≠ s.ctx.send.port ∨ m.localPort = false → u.port k = s.port k) := by
  obtain ⟨sst, packs⟩ := h.packs
  have port : m.binding.port = s.ctx.send.port := by rw [packs.binding]
  have words : m.binding.words = s.ctx.send.words := by rw [packs.binding]
  have allow : m.binding.allow = s.ctx.send.allow := by rw [packs.binding]
  obtain ⟨t, run, packed, into, rest⟩ := State.sendOn_sends (s := m) (ws := ws) sw e (by rwa [words]) (by rwa [port, allow])
  rw [packs.binding, SendBinding.after_eq _ some] at packed
  rw [port] at into rest
  obtain ⟨calm, send⟩ := (packs.trans packed).completes sw ws.length
  exact ⟨t, run, calm, send, into, fun k other => (rest k other).trans (h.ports k)⟩

/-- A PSEND whose first word cannot go. -/
theorem State.sends.stays {s m : State} {rs : List Reg} (h : s.sends m rs) {w : Word} {ws : List Word} (sw e : Bool)
    (held : s.ctx.send.words = 0 ∧ m.routeOpens = false ∨ 0 < s.ctx.send.words ∧ m.allowances = 0) :
    let u := m.sendOn sw (w :: ws) e 0
    ((∃ w, u.ctx.wait = some w ∧ w.kind = .psend) ∧ u.ctx.pc = s.ctx.pc ∧ s.sameRegs u ∧ u.mem = s.mem) ∧ (0 < s.ctx.send.words → u.core = s.core) ∧
      (s.ctx.send.words = 0 → m.localPort = true → (s.core.num, s.cur) ∈ (u.port s.ctx.send.port).requests ∧
        (u.port s.ctx.send.port).buf = (s.port s.ctx.send.port).buf) := by
  intro u
  obtain ⟨sst, packs⟩ := h.packs
  have port : m.binding.port = s.ctx.send.port := by rw [packs.binding]
  have words : m.binding.words = s.ctx.send.words := by rw [packs.binding]
  have eq : u = _ := State.sendOn_waits (s := m) (w := w) (ws := ws) sw e (by rwa [words])
  rw [words] at eq
  rw [eq]
  by_cases line : s.ctx.send.words = 0 ∧ m.localPort = true
  · rw [if_pos line]
    obtain ⟨joined, mem, buf⟩ := m.joinLine_joins
    rw [packs.binding] at joined
    rw [port, h.ports, h.core, show m.cur = s.cur from packs.cur] at *
    exact ⟨(packs.trans joined).awaits .., fun some => absurd line.1 (Nat.ne_of_gt some), fun _ _ => ⟨mem, buf⟩⟩
  · rw [if_neg line]
    exact ⟨packs.awaits .., fun _ => h.core, fun none own => absurd ⟨none, own⟩ line⟩

/-- A binding that needs no mending is as it was. -/
theorem State.sending_idle {s : State} (idle : s.ctx.send.sst ≠ 3) (rs : List Reg) : s.sending rs = s.issued rs := by
  have same : { (s.issued rs).ctx with send := (s.issued rs).ctx.send.mended } = (s.issued rs).ctx := by
    rw [State.issued_ctx]
    unfold SendBinding.mended
    rw [if_neg idle]
  show (s.issued rs).setCtx { (s.issued rs).ctx with send := (s.issued rs).ctx.send.mended } = s.issued rs
  rw [same, State.setCtx_ctx]

/-- What a PRECV leaves that has removed words from a port. -/
theorem State.taken.gives {s u : State} {rs : List Reg} {n : BitVec 2} {p : Port} (h : (s.issued rs).taken u n p) (sw : Bool) (d : BitVec 5) (v : Bool) (ws : List Word)
    (flag : Bool) : let t := u.takeResult sw d v ws flag
    let R : Reg := if v then .v d else .x d
    ((∀ r, t.ctx.reg r = s.ctx.reg r) ∧ s.goesOn t sw 4 1 ∧ t.mem = s.mem ∧
      (R ≠ .x 0 → ⟨R, if v then ofLanes 64 8 fun i => (ws.getD i 0).toNat else wide (ws.headD 0), 0, s.seq, some (s.cycle + 2), false, true, 0⟩ ∈ t.ctx.writes) ∧
      ⟨.p 0, wide ((if flag then endFlag else 0) ||| BitVec.ofNat 64 (2 ^ ws.length - 1)), 0, s.seq + 1, some (s.cycle + 2), false, true, 0⟩ ∈ t.ctx.writes) ∧
      (∀ k, k ≠ n → t.port k = s.port k) ∧ ∃ marks, t.port n = { p with marks } := by
  intro t R
  obtain ⟨regs, goes, mem, core, result, count⟩ := u.takeResult_gives sw d v ws flag
  have port (k : BitVec 2) : t.port k = u.port k := by
    unfold State.port
    rw [show t.core = u.core from core]
  have way : s.ctx.sameWay u.ctx := by
    rw [h.ctx]
    exact s.issued_sameWay rs
  have seq : u.seq = s.seq := h.seq
  have cycle : u.cycle = s.cycle := h.cycle
  rw [seq, cycle] at result count
  refine ⟨⟨fun r => (regs r).trans ?_, goes.of_sameWay cycle way, mem.trans h.mem, result, count⟩, fun k ne => (port k).trans (h.rest k ne), ?_⟩
  · rw [h.ctx]
    exact (s.issued_sameRegs rs).1 r
  · rw [port]
    exact h.port

/-! ## Words, markers and aborts from other cores (R388, R396) -/

/-- What an event leaves that changes a port alone, and may post another event. -/
theorem State.modPort_posts (s : State) (n : BitVec 2) (f : Port → Port) (e : Bool) (x : Instr) : let t := if e then (s.modPort n f).post x else s.modPort n f
    (t.mem = s.mem ∧ t.accs = s.accs ∧ ∀ m r, (t.ctxAt m).reg r = (s.ctxAt m).reg r) ∧ (∀ k, k ≠ n → t.port k = s.port k) ∧ t.port n = f (s.port n) ∧
      (e = true → x ∈ t.agenda) := by
  cases e with
  | false => exact ⟨⟨rfl, rfl, fun _ _ => rfl⟩, fun _ ne => State.port_modPort_ne _ _ ne, State.port_modPort .., fun h => Bool.noConfusion h⟩
  | true => exact ⟨⟨rfl, rfl, fun _ _ => rfl⟩, fun _ ne => State.port_modPort_ne _ _ ne, State.port_modPort .., fun _ => List.mem_append_right _ (List.mem_singleton.2 rfl)⟩

theorem State.routeFor_iff (s : State) (p : Port) (src : BitVec 12) : s.routeFor p src = true ↔
    p.state = .opened ∧ p.waiting + p.owed < 64 ∧ s.job.evicted = false ∧ ∀ r, p.requests.head? = some r → r.1 = src := by
  unfold State.routeFor
  rw [Bool.and_eq_true, Bool.and_eq_true, Bool.and_eq_true, decide_eq_true_eq, decide_eq_true_eq, Bool.not_eq_true', and_assoc, and_assoc]
  refine and_congr_right fun _ => and_congr_right fun _ => and_congr_right fun _ => ?_
  cases p.requests with
  | nil => exact ⟨fun _ _ h => (by cases h), fun _ => rfl⟩
  | cons r l => exact decide_eq_true_iff.trans ⟨fun h x hx => Option.some.inj hx ▸ h, fun h => h r rfl⟩

theorem exec_portWordArrival_opened {s : State} {n : BitVec 2} {src : BitVec 12} {w : Word} {e : Bool} (open_ : (s.port n).state = .opened) :
    exec (.portWordArrival n src w e) s = .next (if s.routeFor (s.port n) src then
      (let t := s.modPort n fun p => { (p.openRoute src).enter w with requests := p.requests.drop 1, ending := e }
       if e then t.post (.closingMarker n) else t) else s) := by
  have run : exec (.portWordArrival n src w e) s = execPortWordArrival n src w e s := rfl
  rw [run, execPortWordArrival]
  dsimp only
  rw [open_]
  dsimp only
  by_cases route : s.routeFor (s.port n) src = true
  · rw [if_pos route, if_pos route]
    rfl
  · rw [if_neg route, if_neg route]

theorem exec_portWordArrival_route {s : State} {n : BitVec 2} {src : BitVec 12} {w : Word} {e : Bool} (route : (s.port n).state = .route) :
    exec (.portWordArrival n src w e) s = .next (
      if (s.port n).rsrc = src ∧ (0 < (s.port n).given ∨ s.job.evicted) ∧ (s.port n).ending = false then
      (let t := s.modPort n fun p => { p.enter w with ending := e }
       if e then t.post (.closingMarker n) else t) else s) := by
  have run : exec (.portWordArrival n src w e) s = execPortWordArrival n src w e s := rfl
  rw [run, execPortWordArrival]
  dsimp only
  rw [route]
  dsimp only
  by_cases takes : (s.port n).rsrc = src ∧ (0 < (s.port n).given ∨ s.job.evicted) ∧ (s.port n).ending = false
  · rw [if_pos takes, if_pos takes]
    rfl
  · rw [if_neg takes, if_neg takes]

theorem exec_portWordArrival_shut {s : State} {n : BitVec 2} {src : BitVec 12} {w : Word} {e : Bool} (shut : (s.port n).state = .closed ∨ (s.port n).state = .aborted) :
    exec (.portWordArrival n src w e) s = .next s := by
  have run : exec (.portWordArrival n src w e) s = execPortWordArrival n src w e s := rfl
  rw [run, execPortWordArrival]
  dsimp only
  rcases shut with shut | shut
  · rw [shut]
  · rw [shut]

/-- The contexts and the port after an abort (R396). -/
theorem exec_abortCloseFlit {s : State} {n : BitVec 2} (route : (s.port n).state = .route) : ∃ u : State,
    exec (.abortCloseFlit n) s = .next ((u.modPort n Port.abortRoute).postReclaim n (s.port n).given) ∧ u.mem = s.mem ∧ u.accs = s.accs ∧
      (∀ m r, (u.ctxAt m).reg r = (s.ctxAt m).reg r) ∧ (∀ k, u.port k = s.port k) ∧
      ∀ k, s.routeSender n = some k → (u.ctxAt k).send = (s.ctxAt k).send.abort := by
  have run : exec (.abortCloseFlit n) s = execAbortCloseFlit n s := rfl
  rw [execAbortCloseFlit, if_pos route] at run
  dsimp only at run
  cases sender : s.routeSender n with
  | none =>
    rw [sender] at run
    exact ⟨s, run, rfl, rfl, fun _ _ => rfl, fun _ => rfl, fun _ h => by cases h⟩
  | some c =>
    rw [sender] at run
    refine ⟨_, run, rfl, rfl, fun m r => ?_, fun _ => rfl, fun k h => ?_⟩
    · by_cases same : c = m
      · rw [same, State.ctxAt_modCtxAt]
        exact Ctx.reg_congr rfl rfl rfl r
      · rw [State.ctxAt_modCtxAt_ne _ _ _ _ same]
    · rw [← Option.some.inj h, State.ctxAt_modCtxAt]

theorem State.postReclaim_keeps (s : State) (n : BitVec 2) (k : Nat) : let t := s.postReclaim n k
    t.mem = s.mem ∧ t.accs = s.accs ∧ t.ctxs = s.ctxs ∧ t.core = s.core ∧ (0 < k → .reclaimMessage n k ∈ t.agenda) := by
  intro t
  show (if k = 0 then s else s.post (.reclaimMessage n k)).mem = _ ∧ _
  by_cases none : k = 0
  · rw [show t = s from if_pos none, if_pos none]
    exact ⟨rfl, rfl, rfl, rfl, fun some => absurd none (Nat.ne_of_gt some)⟩
  · rw [show t = s.post (.reclaimMessage n k) from if_neg none, if_neg none]
    exact ⟨rfl, rfl, rfl, rfl, fun _ => List.mem_append_right _ (List.mem_singleton.2 rfl)⟩

theorem State.pstat_inTaint (s : State) (n : BitVec 2) (f : Ctx → List Nat) : (s.modCtx fun c => { c with inTaint := f c }).pstat n = s.pstat n := by
  unfold State.pstat State.binding
  rw [State.ctx_modCtx]
  rfl

end Sys2Proof.Machine
end

section
/-! PROOF. O47: stream ports (R384 to R388, R396, R398). -/

namespace Sys2Proof.Machine

open Sys2Proof

/-- Settles O47: what a port and a binding become is what the words, the marker and the allowances make of them. -/
theorem portsCarryPackets : Obligations.PortsCarryPackets := by
  unfold Obligations.PortsCarryPackets
  intro s sw a d n v e X p B q ws room calm traps R gives opens bound fits free
  refine ⟨?_, fun ready plain => ?_, fun ready plain => ?_, fun ready plain => ?_, fun ready plain => ?_, ?_, ?_, ?_⟩
  · intro j which ready super
    have phase (rs : List Reg) (k : State → State) : (s.issued rs).freeJob k = (s.issued rs).phaseViolation := if_pos super
    rcases which with rfl | rfl | rfl | rfl | rfl
    · have run : exec (.rwin sw a n) s = execRwin sw a n s := rfl
      rw [execRwin, State.issue_issued (ready.mono (by simp)), phase] at run
      exact State.refuses_phase run
    · have run : exec (.popen sw a) s = execPopen sw a s := rfl
      rw [execPopen, State.issue_issued (ready.mono (by simp)), phase] at run
      exact State.refuses_phase run
    · obtain ⟨rs, run⟩ := exec_psend (a := a) (ready.mono (by simp)) sw v e
      rw [State.psend, phase] at run
      exact State.refuses_phase run
    · have run : exec (.precv sw d v n) s = execPrecv sw d v n s := rfl
      have used : s.ready ([] ++ [if v then .v d else .x d, .p 0]) := ready.mono (precv_uses a d v)
      rw [execPrecv, State.issue_issued used, phase] at run
      exact State.refuses_phase run
    · have run : exec (.mcast sw d a a) s = execMcast sw d a a s := rfl
      rw [execMcast, State.issue_issued (ready.mono (by simp)), phase] at run
      exact State.refuses_phase run
  · have run : exec (.rwin sw a n) s = execRwin sw a n s := rfl
    rw [execRwin, State.issue_issued (by simpa using ready), State.freeJob, if_neg (by rw [show (s.issued [.x a]).job.superstep = false from plain]; exact Bool.false_ne_true)] at run
    dsimp only at run
    rw [State.readX_issued, show (s.issued [.x a]).port n = p from rfl, show (s.issued [.x a]).cur = s.cur from rfl] at run
    have zero_ne : ¬ (0 : Word) = 1 := by decide
    refine ⟨fun one shut => ?_, fun one open_ mine => ?_, fun one open_ other => ?_, fun zero idle empty => ?_, fun zero held => ?_, fun some more => ?_⟩
    · rw [if_pos one, if_neg (show ¬ (p.state ≠ .closed ∧ p.rctx ≠ s.cur) from fun h => h.1 shut), if_neg (show ¬ p.state ≠ .closed from fun h => h shut)] at run
      obtain ⟨calm', rest, port⟩ := s.modPort_retires [.x a] n (fun _ => { Port.closed with state := .opened, rctx := s.cur, owed := p.owed, requests := p.requests }) sw
      exact ⟨_, run, calm', rest, by rw [port], by rw [port], by rw [port]; rfl, by rw [port]⟩
    · rw [if_pos one, if_neg (show ¬ (p.state ≠ .closed ∧ p.rctx ≠ s.cur) from fun h => h.2 mine), if_pos (show p.state ≠ .closed from open_)] at run
      exact ⟨_, run, s.issued_retireAfter_passes [.x a] sw 4 1⟩
    · rw [if_pos one, if_pos (show p.state ≠ .closed ∧ p.rctx ≠ s.cur from ⟨open_, other⟩)] at run
      exact State.refuses_illegal run
    · rw [if_neg (show ¬ s.readX a = 1 from fun h => zero_ne (zero.symm.trans h)), if_pos zero,
        if_neg (show ¬ (p.state = .route ∨ 0 < p.waiting) from fun h => h.elim idle (by rw [empty]; exact Nat.lt_irrefl 0))] at run
      obtain ⟨calm', rest, port⟩ := s.modPort_retires [.x a] n (fun _ => { Port.closed with owed := p.owed, requests := p.requests }) sw
      exact ⟨_, run, calm', rest, by rw [port]; rfl, by rw [port]⟩
    · rw [if_neg (show ¬ s.readX a = 1 from fun h => zero_ne (zero.symm.trans h)), if_pos zero, if_pos (show p.state = .route ∨ 0 < p.waiting from held)] at run
      exact State.refuses_illegal run
    · rw [if_neg (show ¬ s.readX a = 1 from more), if_neg (show ¬ s.readX a = 0 from some)] at run
      exact State.refuses_illegal run
  · have run : exec (.popen sw a) s = execPopen sw a s := rfl
    rw [execPopen, State.issue_issued (by simpa using ready), State.freeJob, if_neg (by rw [show (s.issued [.x a]).job.superstep = false from plain]; exact Bool.false_ne_true)] at run
    dsimp only at run
    rw [State.readX_issued, show (s.issued [.x a]).job = s.job from rfl, show s.readX a = X from rfl] at run
    have same : (s.issued [.x a]).ctx.send = B := s.issued_binding [.x a]
    refine ⟨fun bad => ?_, fun clean out => ?_, fun clean small mine => ⟨fun sending => ?_, fun idle => ?_⟩⟩
    · rw [if_pos bad] at run
      exact State.refuses_illegal run
    · rw [if_neg (fun h => h clean), if_pos (show Config.cores ≤ (X.setWidth 12).toNat ∨ ¬ X.setWidth 12 ∈ s.job.cores from out)] at run
      exact State.refuses_trapHere run
    · rw [if_neg (fun h => h clean), if_neg (show ¬ (Config.cores ≤ (X.setWidth 12).toNat ∨ ¬ X.setWidth 12 ∈ s.job.cores) from
        fun h => h.elim (Nat.not_le.2 small) fun h => h mine), same, if_pos sending] at run
      exact State.refuses_illegal run
    · rw [if_neg (fun h => h clean), if_neg (show ¬ (Config.cores ≤ (X.setWidth 12).toNat ∨ ¬ X.setWidth 12 ∈ s.job.cores) from
        fun h => h.elim (Nat.not_le.2 small) fun h => h mine), same, if_neg idle] at run
      obtain ⟨calm', send⟩ := ((s.issued [.x a]).modSend_packs fun _ => { sst := 1, core := X.setWidth 12, port := BitVec.ofNat 2 (natBits X.toNat 17 16), words := 0, allow := 0 }).completes sw 1
      have port : BitVec.ofNat 2 (natBits X.toNat 17 16) = X.extractLsb' 16 2 := by
        apply BitVec.eq_of_toNat_eq
        simp [natBits, Nat.shiftRight_eq_div_pow]
      exact ⟨_, run, calm', rfl, send.trans (by rw [port])⟩
  · obtain ⟨rs, run⟩ := exec_psend (a := a) ready sw v e
    rw [State.psend_free ready.1 plain, show s.packet a v = ws from rfl, show s.ctx.send = B from rfl] at run
    obtain ⟨w, l, cons⟩ : ∃ w l, ws = w :: l := s.packet_cons a v
    have held : ws ≠ [] := by rw [cons]; exact List.cons_ne_nil w l
    have pos : 0 < ws.length := List.length_pos_of_ne_nil held
    have sends : s.sends (s.sending rs) rs := s.sending_sends rs
    refine ⟨fun unbound => ?_, fun bound' long able => ?_, fun aborted words => ?_, fun going fit blocked => ?_, fun free' => ?_⟩
    · rw [if_pos unbound] at run
      exact State.refuses_illegal run
    · have too : tooLong B.words ws.length e = true := Bool.of_not_eq_false fun h => long ((tooLong_iff ..).1 h)
      rw [if_neg bound'.1, if_neg (fun h => (Nat.ne_of_gt h.2) (bound'.2 h.1)), if_pos too] at run
      obtain ⟨kept, entered, send⟩ := State.sending_trap able rs 0x14 0 0
      exact ⟨_, run, kept, entered, send⟩
    · rw [if_neg (by rw [aborted]; decide), if_pos ⟨aborted, words⟩] at run
      obtain ⟨calm', send⟩ := ((s.issued rs).modSend_packs fun b => if e then { b with words := 0 } else b).completes sw ws.length
      exact ⟨_, run, calm', rfl, send.trans (by rw [State.issued_binding])⟩
    · have fine : ¬ tooLong B.words ws.length e = true := by rw [(tooLong_iff ..).2 fit]; exact Bool.false_ne_true
      have some : B.sst ≠ 0 ∧ B.sst ≠ 3 := by rcases going with h | h <;> rw [h] <;> decide
      have early : (s.sending rs).accs.any (s.beforeClosing e) = true := List.any_eq_true.2 blocked
      rw [if_neg some.1, if_neg (fun h => some.2 h.1), if_neg fine, State.whenDone, if_pos early, State.sending_idle some.2] at run
      exact ⟨_, run, s.issued_block_waits ready.1 ..⟩
    · obtain ⟨bound', fit, clear⟩ := free'
      have fine : ¬ tooLong B.words ws.length e = true := by rw [(tooLong_iff ..).2 fit]; exact Bool.false_ne_true
      have done : ¬ (s.sending rs).accs.any (s.beforeClosing e) = true := by
        rw [List.any_eq_true]
        rintro ⟨y, hy, waits⟩
        rw [clear y hy] at waits
        cases waits
      rw [if_neg bound'.1, if_neg (fun h => (Nat.ne_of_gt h.2) (bound'.2 h.1)), if_neg fine, State.whenDone, if_neg done] at run
      generalize s.sending rs = m at run sends
      obtain ⟨sst, packs⟩ := sends.packs
      have port : m.binding.port = B.port := by rw [packs.binding]
      refine ⟨fun here first open_ line fits' => ?_, fun here later fits' => ?_, fun here later none calm' => ?_, fun here first shut => ?_, fun there fits' => ?_, fun there none => ?_⟩
      · have own := sends.localPort.2 here
        have opened := State.opened_first (s := m) (by rw [packs.binding]; exact first) own
        rw [port, sends.ports] at opened
        have lines : ((m.port m.binding.port).requests.isEmpty || decide ((m.port m.binding.port).requests.head? = some (m.core.num, m.cur))) = true := by
          rw [port, sends.ports, sends.core, show m.cur = s.cur from packs.cur, Bool.or_eq_true, List.isEmpty_iff, decide_eq_true_eq]
          exact line
        have opens' : m.routeOpens = true := by
          unfold State.routeOpens
          rw [if_pos own]
          dsimp only
          rw [lines, port, sends.ports, show (s.port B.port).state = .opened from open_, show s.port B.port = q from rfl, decide_eq_true (by omega : q.waiting + q.owed < 64)]
          rfl
        obtain ⟨t, sent, calm', send, into, rest⟩ := sends.goes held sw e (fun _ => opens') (by rw [if_pos own, opened]; show _ ≤ 64 - q.waiting - q.owed; omega)
        rw [sent] at run
        obtain ⟨mark, into⟩ := into own
        rw [opened, sends.core, Port.enterAll_eq] at into
        refine ⟨_, run, calm', fun k ne => rest k (.inl ne), ?_⟩
        cases e with
        | false =>
          rw [if_neg Bool.false_ne_true] at into send
          rw [into, send]
          exact ⟨(List.append_nil _).symm, Nat.zero_add _, fun _ => ⟨rfl, rfl, rfl, rfl, by show B.words + _ = _; rw [first, Nat.zero_add]⟩, fun h => Bool.noConfusion h⟩
        | true =>
          rw [if_pos rfl] at into send
          rw [into, send]
          exact ⟨rfl, Nat.zero_add _, fun h => Bool.noConfusion h, fun _ => ⟨rfl, rfl, rfl⟩⟩
      · have own := sends.localPort.2 here
        have opened : m.opened = m := State.opened_later (by rw [packs.binding]; exact later)
        obtain ⟨t, sent, calm', send, into, rest⟩ := sends.goes held sw e (fun first => absurd first (Nat.ne_of_gt later)) (by rw [if_pos own, opened, sends.ports]; exact fits')
        rw [sent] at run
        obtain ⟨mark, into⟩ := into own
        rw [opened, sends.ports, Port.enterAll_eq] at into
        refine ⟨_, run, calm', fun k ne => rest k (.inl ne), ?_⟩
        cases e with
        | false =>
          rw [if_neg Bool.false_ne_true] at into send
          rw [into, send]
          exact ⟨(List.append_nil _).symm, fun _ => ⟨rfl, rfl, rfl, rfl⟩, fun h => Bool.noConfusion h⟩
        | true =>
          rw [if_pos rfl] at into send
          rw [into, send]
          exact ⟨rfl, fun h => Bool.noConfusion h, fun _ => ⟨rfl, rfl, rfl⟩⟩
      · have out : m.allowances = 0 := by
          unfold State.allowances
          rw [if_pos (sends.localPort.2 here), port, sends.ports, sends.job, calm', show (s.port B.port).given = 0 from none]
          rfl
        obtain ⟨⟨⟨x, wait, kind⟩, pc, same, mem⟩, kept, -⟩ := sends.stays (w := w) (ws := l) sw e (.inr ⟨later, out⟩)
        rw [cons] at run
        exact ⟨_, x, run, wait, kind, pc, kept later, same, mem⟩
      · have own := sends.localPort.2 here
        have closed : m.routeOpens = false := by
          unfold State.routeOpens
          rw [if_pos own, port]
          dsimp only
          rw [sends.ports, sends.core, show m.cur = s.cur from packs.cur]
          rcases shut with shut | ⟨r, head, ne⟩
          · rw [decide_eq_false (show ¬ (s.port B.port).state = .opened from shut), Bool.false_and, Bool.false_and]
          · have some : q.requests.isEmpty = false := by
              cases h : q.requests with
              | nil => rw [h] at head; cases head
              | cons => rfl
            have other : ¬ q.requests.head? = .some (s.core.num, s.cur) := by
              rw [head]
              exact fun h => ne (Option.some.inj h)
            rw [show (s.port B.port).requests.isEmpty = false from some, decide_eq_false (show ¬ (s.port B.port).requests.head? = .some (s.core.num, s.cur) from other),
              Bool.or_false, Bool.and_false]
        obtain ⟨⟨⟨x, wait, kind⟩, pc, same, mem⟩, -, joined⟩ := sends.stays (w := w) (ws := l) sw e (.inl ⟨first, closed⟩)
        obtain ⟨line, buf⟩ := joined first own
        rw [cons] at run
        exact ⟨_, x, run, wait, kind, pc, line, buf, same, mem⟩
      · have out : m.localPort = false := Bool.eq_false_of_not_eq_true fun h => there (sends.localPort.1 h)
        have opens' : m.routeOpens = true := by
          unfold State.routeOpens
          rw [if_neg (by rw [out]; exact Bool.false_ne_true), packs.binding]
          exact decide_eq_true (Nat.lt_of_lt_of_le pos fits')
        obtain ⟨t, sent, calm', send, -, rest⟩ := sends.goes held sw e (fun _ => opens') (by rw [if_neg (by rw [out]; exact Bool.false_ne_true)]; exact fits')
        rw [sent] at run
        exact ⟨_, run, calm', fun k => rest k (.inr out), send⟩
      · have out : m.localPort = false := Bool.eq_false_of_not_eq_true fun h => there (sends.localPort.1 h)
        have closed : m.routeOpens = false := by
          unfold State.routeOpens
          rw [if_neg (by rw [out]; exact Bool.false_ne_true), packs.binding]
          exact decide_eq_false (by rw [show ({ s.ctx.send with sst } : SendBinding).allow = 0 from none]; exact Nat.lt_irrefl 0)
        have spent : m.allowances = 0 := by
          unfold State.allowances
          rw [if_neg (by rw [out]; exact Bool.false_ne_true), packs.binding]
          exact none
        obtain ⟨⟨⟨x, wait, kind⟩, pc, same, mem⟩, -⟩ := sends.stays (w := w) (ws := l) sw e
          ((Nat.eq_zero_or_pos B.words).imp (fun first => ⟨first, closed⟩) fun later => ⟨later, spent⟩)
        rw [cons] at run
        exact ⟨_, x, run, wait, kind, pc, same, mem⟩
  · have run : exec (.precv sw d v n) s = execPrecv sw d v n s := rfl
    rw [execPrecv, State.issue_issued (by simpa using ready), State.freeJob, if_neg (by rw [show (s.issued []).job.superstep = false from plain]; exact Bool.false_ne_true)] at run
    dsimp only at run
    rw [show (s.issued []).port n = p from rfl, show (s.issued []).cur = s.cur from rfl] at run
    refine ⟨fun shut => ?_, fun open_ mine => ?_⟩
    · rw [if_pos shut] at run
      exact State.refuses_illegal run
    · intro r
      rw [if_neg (fun h => h.elim open_ fun ne => ne mine)] at run
      refine ⟨fun some => ?_, fun none broken => ?_, fun none whole => ?_⟩
      · rw [if_neg (show ¬ r.1.isEmpty = true from fun h => some (List.isEmpty_iff.1 h))] at run
        obtain ⟨given, rest, marks, port⟩ := ((s.issued []).returnAllowances_taken n r.2.1 r.1.length r.2.2).gives sw d v r.1 r.2.2
        exact ⟨_, run, given, rest, by rw [port], by rw [port]; rfl, fun route => by rw [port]; exact if_pos route⟩
      · rw [if_pos (show r.1.isEmpty = true from List.isEmpty_iff.2 none), if_pos broken] at run
        obtain ⟨given, rest, marks, port⟩ := ((s.issued []).modPort_taken n fun p => { p with state := .opened, buf := [], marks := [] }).gives sw d v [] true
        exact ⟨_, run, given, rest, by rw [port], by rw [port]⟩
      · rw [if_pos (show r.1.isEmpty = true from List.isEmpty_iff.2 none), if_neg whole] at run
        exact ⟨_, run, s.issued_block_waits ready.1 ..⟩
  · exact fun xs l k => ⟨takeWords_marker l xs k, takeWords_full (fun y hy => (List.mem_filter.1 hy).2) xs, takeWords_ending xs k⟩
  · intro short few
    refine ⟨s.pstat n, ?_, pstat_fields short few (Nat.min_le_right _ _)⟩
    exact State.issue_gives [] [.x d] (fun u => wide (u.pstat n)) rfl (fun f => congrArg wide (s.pstat_inTaint n f)) (Reg.fits_wide ..)
  · intro still src w c k
    refine ⟨fun open_ space here first => ?_, fun open_ refused => ?_, fun route mine allowed going => ?_, fun refused => ?_, fun route ending => ?_, fun route => ?_, fun far bound' => ?_, ?_⟩
    · have run := exec_portWordArrival_opened (src := src) (w := w) (e := e) open_
      rw [if_pos ((s.routeFor_iff ..).2 ⟨open_, space, here, first⟩)] at run
      obtain ⟨still', rest, port, posts⟩ := s.modPort_posts n (fun p => { (p.openRoute src).enter w with requests := p.requests.drop 1, ending := e }) e (.closingMarker n)
      exact ⟨_, run, still', rest, port, posts⟩
    · rw [exec_portWordArrival_opened open_, if_neg]
      intro h
      obtain ⟨-, space, here, first⟩ := (s.routeFor_iff ..).1 h
      rcases refused with full | evicted | ⟨r, head, other⟩
      · exact Nat.not_le.2 space full
      · rw [here] at evicted
        cases evicted
      · exact other (first r head)
    · have run := exec_portWordArrival_route (src := src) (w := w) (e := e) route
      rw [if_pos ⟨mine, allowed, going⟩] at run
      obtain ⟨still', rest, port, posts⟩ := s.modPort_posts n (fun p => { p.enter w with ending := e }) e (.closingMarker n)
      exact ⟨_, run, still', rest, port, posts⟩
    · rcases refused with shut | shut | ⟨route, why⟩
      · exact exec_portWordArrival_shut (.inl shut)
      · exact exec_portWordArrival_shut (.inr shut)
      · rw [exec_portWordArrival_route route, if_neg]
        rintro ⟨mine, allowed, going⟩
        rcases why with other | closing | ⟨none, here⟩
        · exact other mine
        · rw [show p.ending = false from going] at closing
          cases closing
        · rcases allowed with some | evicted
          · exact Nat.ne_of_gt some none
          · rw [here] at evicted
            cases evicted
    · have run : exec (.closingMarker n) s = execClosingMarker n s := rfl
      rw [execClosingMarker, if_pos ⟨route, ending⟩] at run
      obtain ⟨port, rest⟩ := s.closeRoute_port n (agentOf (s.port n).rsrc)
      obtain ⟨early, eq⟩ := State.learn_eq ({ s with seq := s.seq + 1 }.modPort n fun x => x.close (cmdAgent s.seq)) (cmdAgent s.seq)
        (fun k => k.any (agentOf (s.port n).rsrc)) .dev
      have still' : still (s.closeRoute n (agentOf (s.port n).rsrc)) := by
        unfold State.closeRoute
        rw [eq]
        exact ⟨rfl, rfl, fun _ _ => rfl⟩
      exact ⟨_, run, still', rest, port⟩
    · obtain ⟨u, run, mem, accs, regs, ports, send⟩ := exec_abortCloseFlit route
      obtain ⟨mem', accs', ctxs, core', posts⟩ := (u.modPort n Port.abortRoute).postReclaim_keeps n (s.port n).given
      have ctxAt (m : Fin 11) : (((u.modPort n Port.abortRoute).postReclaim n (s.port n).given).ctxAt m) = u.ctxAt m := by
        unfold State.ctxAt
        rw [ctxs]
        rfl
      have port (m : BitVec 2) : ((u.modPort n Port.abortRoute).postReclaim n (s.port n).given).port m = (u.modPort n Port.abortRoute).port m :=
        congrArg (fun k : Core => k.ports.get m.toFin) core'
      refine ⟨_, run, ⟨mem'.trans mem, accs'.trans accs, fun m r => by rw [ctxAt]; exact regs m r⟩, fun m ne => ?_, ?_, posts, fun m sender => by rw [ctxAt]; exact send m sender⟩
      · rw [port, State.port_modPort_ne _ _ ne, ports]
      · rw [port, State.port_modPort, ports]
        rfl
    · have run : exec (.sendAllowance c) s = execSendAllowance c s := rfl
      rw [execSendAllowance, if_pos ⟨far, bound'⟩] at run
      refine ⟨_, run, ⟨rfl, rfl, fun m r => ?_⟩, by rw [State.ctxAt_modCtxAt], fun m ne => State.ctxAt_modCtxAt_ne _ _ _ _ ne.symm⟩
      by_cases same : c = m
      · rw [same, State.ctxAt_modCtxAt]
        exact Ctx.reg_congr rfl rfl rfl r
      · rw [State.ctxAt_modCtxAt_ne _ _ _ _ same]
    · exact ⟨_, rfl, ⟨rfl, rfl, fun _ _ => rfl⟩, rfl, fun m ne => State.port_modPort_ne _ _ ne, State.port_modPort ..⟩

end Sys2Proof.Machine
end

section
/-! SUPPORT. The issue side of the matrix unit (R326 to R331, R343). -/

namespace Sys2Proof.Machine

/-! ## The checks of R329 -/

/-- A matrix command's checks after that of its weight, in their order, each with the trap of its failure; `u` is where they lead. -/
def State.checked (s : State) (rs : List Reg) (illegal : Bool) (rows : Option Nat) (spans : List (Option AccessFault)) (u : State) : State :=
  if illegal then (s.issued rs).illegal
  else rows.elim ((spans.findSome? id).elim u fun e => (s.issued rs).trapAccess e 1) fun r => (s.issued rs).trapHere 0x0C (BitVec.ofNat 32 r) 0

theorem State.checked_plain (s : State) (rs : List Reg) (u : State) : u = s.checked rs false none [] u := rfl

theorem State.checked_legal (s : State) (rs : List Reg) (illegal : Bool) (k : State → State) :
    (s.issued rs).unlessIllegal illegal k = s.checked rs illegal none [] (k (s.issued rs)) := rfl

theorem State.rowCheck_issued (s : State) (rs : List Reg) (row0 n : Nat) (k : State → State) : (s.issued rs).rowCheck row0 n k =
    (s.rowsOutside row0 n).elim (k (s.issued rs)) fun r => (s.issued rs).trapHere 0x0C (BitVec.ofNat 32 r) 0 := by
  have same : (s.issued rs).rowsOutside row0 n = s.rowsOutside row0 n := rfl
  unfold State.rowCheck
  rw [same]
  cases s.rowsOutside row0 n <;> rfl

theorem State.spanCheck_issued (s : State) (rs : List Reg) (a : Word) (n align : Nat) (k : State → State) : (s.issued rs).spanCheck a n align k =
    (s.spanFault a n align).elim (k (s.issued rs)) fun e => (s.issued rs).trapAccess e 1 := by
  cases fault : s.spanFault a n align with
  | none => exact State.spanCheck_ok fault rs k
  | some e => exact State.spanCheck_fault fault rs k

theorem findSome_pair {α β : Type} (x y : Option α) (k : β) (f : α → β) : ([x, y].findSome? id).elim k f = x.elim (y.elim k f) f := by
  cases x <;> cases y <;> rfl

theorem State.checked_span (s : State) (rs : List Reg) (a : Word) (n align : Nat) (k : State → State) :
    (s.issued rs).spanCheck a n align k = s.checked rs false none [s.spanFault a n align] (k (s.issued rs)) := by
  rw [State.spanCheck_issued]
  cases s.spanFault a n align <;> rfl

theorem State.checked_legal_span (s : State) (rs : List Reg) (illegal : Bool) (a : State → Word) (n align : Nat) (k : State → State) :
    ((s.issued rs).unlessIllegal illegal fun u => u.spanCheck (a u) n align k) = s.checked rs illegal none [s.spanFault (a (s.issued rs)) n align] (k (s.issued rs)) := by
  unfold State.unlessIllegal State.checked
  dsimp only
  rw [State.spanCheck_issued]
  cases s.spanFault (a (s.issued rs)) n align <;> rfl

theorem State.checked_rows (s : State) (rs : List Reg) (illegal : Bool) (row0 n : Nat) (k : State → State) :
    ((s.issued rs).unlessIllegal illegal fun u => u.rowCheck row0 n k) = s.checked rs illegal (s.rowsOutside row0 n) [] (k (s.issued rs)) := by
  unfold State.unlessIllegal State.checked
  dsimp only
  rw [State.rowCheck_issued]
  rfl

theorem State.checked_rows_span (s : State) (rs : List Reg) (illegal : Bool) (row0 m : Nat) (a : State → Word) (n align : Nat) (k : State → State) :
    ((s.issued rs).unlessIllegal illegal fun u => u.rowCheck row0 m fun u => u.spanCheck (a u) n align k) =
      s.checked rs illegal (s.rowsOutside row0 m) [s.spanFault (a (s.issued rs)) n align] (k (s.issued rs)) := by
  unfold State.unlessIllegal State.checked
  dsimp only
  rw [State.rowCheck_issued, State.spanCheck_issued]
  cases s.spanFault (a (s.issued rs)) n align <;> rfl

theorem State.checked_rows_spans (s : State) (rs : List Reg) (illegal : Bool) (row0 m : Nat) (a b : State → Word) (n l align : Nat) (k : State → State) :
    ((s.issued rs).unlessIllegal illegal fun u => u.rowCheck row0 m fun u => u.spanCheck (a u) n align fun u => u.spanCheck (b u) l align k) =
      s.checked rs illegal (s.rowsOutside row0 m) [s.spanFault (a (s.issued rs)) n align, s.spanFault (b (s.issued rs)) l align] (k (s.issued rs)) := by
  unfold State.unlessIllegal State.checked
  dsimp only
  rw [State.rowCheck_issued, State.spanCheck_issued, State.spanCheck_issued, findSome_pair]

/-! ## Joining the queue (R326, R331) -/

/-- A command of the issuing context joins the queue. -/
structure State.queued (s t : State) (c : MCmd) (f : Matrix → Matrix) : Prop where
  matrix : t.core.matrix = { f s.core.matrix with queue := s.core.matrix.queue ++ [c] }
  mem : t.mem = s.mem
  accs : t.accs = s.accs
  ctx : t.ctx = s.ctx
  cycle : t.cycle = s.cycle
  cur : t.cur = s.cur
  next : s.core.matrix.queue = [] → ∀ e ∈ t.core.matrix.next, e ∈ t.agenda

theorem State.join_queued (s : State) (c : MCmd) {f : Matrix → Matrix} (keeps : (f s.core.matrix).queue = s.core.matrix.queue) (kind : MKind) (desc a b : Word) :
    s.queued (((s.modCore fun k => { k with matrix := f k.matrix }).join c).signCommand kind desc a b) c f := by
  obtain ⟨x, y, signed⟩ := ((s.modCore fun k => { k with matrix := f k.matrix }).join c).sign_units a.toNat 18
    (bytesOfNat kind.code 2 ++ bytesOfNat desc.toNat 8 ++ bytesOfNat b.toNat 8)
  have joined : ∃ l, (s.modCore fun k => { k with matrix := f k.matrix }).join c =
      { s with core := { s.core with matrix := { f s.core.matrix with queue := s.core.matrix.queue ++ [c] } }, agenda := l } ∧
      (s.core.matrix.queue = [] → ∀ e ∈ ({ f s.core.matrix with queue := s.core.matrix.queue ++ [c] } : Matrix).next, e ∈ l) := by
    unfold State.join
    dsimp only
    rw [show (s.modCore fun k => { k with matrix := f k.matrix }).core.matrix.queue = s.core.matrix.queue from keeps]
    split
    · exact ⟨_, rfl, fun _ e he => List.mem_append_right _ he⟩
    case isFalse some => exact ⟨_, rfl, fun none => absurd (by rw [none]; rfl) some⟩
  obtain ⟨l, eq, next⟩ := joined
  rw [State.signCommand, signed, eq]
  exact ⟨rfl, rfl, rfl, rfl, rfl, rfl, next⟩

end Sys2Proof.Machine
end

section
/-! PROOF. O43: the checks of matrix commands, and their queue (R326 to R343). -/

namespace Sys2Proof.Machine

open Sys2Proof

/-- What a matrix command does whose checks are these, in their order: the traps, the wait while the queue is full, and its place in the queue. -/
def State.commands (s : State) (sw : Bool) (d : BitVec 5) (j : Instr) (k : MKind) (desc p q : Word) (result illegal : Bool) (rows : Option Nat)
    (spans : List (Option AccessFault)) (f : Matrix → Matrix) : Prop :=
  let M := s.core.matrix
  let full : Prop := 16 ≤ M.queue.length ∨ s.core.loom.latched ≠ []
  (M.weight = 0 → s.refuses j 0x08 8 0) ∧
  (M.weight ≠ 0 → illegal = true → s.refuses j 0x02 0 0) ∧
  (M.weight ≠ 0 → illegal = false → ∀ r, rows = some r → s.refuses j 0x0C (BitVec.ofNat 32 r) 0) ∧
  (M.weight ≠ 0 → illegal = false → rows = none → ∀ e, spans.findSome? id = some e → s.refuses j e.cause e.detail e.addr) ∧
  (M.weight ≠ 0 → illegal = false → rows = none → spans.findSome? id = none → full → ∃ t, exec j s = .next t ∧ s.waits t) ∧
  (M.weight ≠ 0 → illegal = false → rows = none → spans.findSome? id = none → ¬ full →
    ∃ t c, exec j s = .next t ∧ t.core.matrix = { f M with queue := M.queue ++ [c] } ∧ c.kind = k ∧ c.desc = desc ∧ c.a = p ∧ c.b = q ∧ c.ctx = s.cur ∧
      c.steps = 0 ∧ c.finished = false ∧ c.iaddr = s.ctx.pc ∧ c.mism = [] ∧ (∀ y ∈ s.accs, y.ctx = s.cur → s.within .core y.key = true → y.seq ∈ c.after) ∧
      t.mem = s.mem ∧ t.accs = s.accs ∧ s.goesOn t sw 4 1 ∧ (M.queue = [] → ∀ e ∈ t.core.matrix.next, e ∈ t.agenda) ∧
      (result = false → c.result = none ∧ s.sameRegs t) ∧ (result = true → c.result = (if d = 0 then none else some s.seq) ∧ s.awaits t (.x d) 0 1))

theorem State.queueFull_iff (s : State) : s.queueFull = true ↔ 16 ≤ s.core.matrix.queue.length ∨ s.core.loom.latched ≠ [] := by
  unfold State.queueFull
  rw [Bool.or_eq_true, decide_eq_true_eq, Bool.not_eq_true', List.isEmpty_eq_false_iff]

/-- An access of the issuing context to its own scratchpad is one that its command waits for (R331). -/
theorem State.mem_ownAccesses {s : State} {y : Acc} (mem : y ∈ s.accs) (own : y.ctx = s.cur) (near : s.within .core y.key = true) : y.seq ∈ s.ownAccesses :=
  List.mem_map.2 ⟨y, List.mem_filter.2 ⟨mem, by rw [decide_eq_true own, near]; rfl⟩, rfl⟩

section
variable {s : State} {j : Instr} {sw illegal : Bool} {d : BitVec 5} {kind : MKind} {desc p q : Word} {rows : Option Nat} {spans : List (Option AccessFault)}
  {f : Matrix → Matrix} {rs : List Reg} {k : State → State} {u : State}

/-- The traps of the checks, whatever the command does that passes them. -/
theorem State.checked_refuses (run : exec j s = .next ((s.issued rs).weighed k)) (checks : k (s.issued rs) = s.checked rs illegal rows spans u) :
    (s.core.matrix.weight = 0 → s.refuses j 0x08 8 0) ∧
    (s.core.matrix.weight ≠ 0 → illegal = true → s.refuses j 0x02 0 0) ∧
    (s.core.matrix.weight ≠ 0 → illegal = false → ∀ r, rows = some r → s.refuses j 0x0C (BitVec.ofNat 32 r) 0) ∧
    (s.core.matrix.weight ≠ 0 → illegal = false → rows = none → ∀ e, spans.findSome? id = some e → s.refuses j e.cause e.detail e.addr) ∧
    (s.core.matrix.weight ≠ 0 → illegal = false → rows = none → spans.findSome? id = none → exec j s = .next u) := by
  rw [State.weighed, checks, State.checked] at run
  have same : (s.issued rs).core.matrix.weight = s.core.matrix.weight := rfl
  rw [same] at run
  refine ⟨fun none => ?_, fun weight bad => ?_, fun weight good r out => ?_, fun weight good inside e fault => ?_, fun weight good inside fine => ?_⟩
  · rw [if_pos none] at run
    exact State.refuses_resource run
  · rw [if_neg weight, if_pos bad] at run
    exact State.refuses_illegal run
  · rw [if_neg weight, good, if_neg Bool.false_ne_true, out] at run
    exact State.refuses_trapHere run
  · rw [if_neg weight, good, if_neg Bool.false_ne_true, inside, fault] at run
    exact State.refuses_fault run
  · rw [if_neg weight, good, if_neg Bool.false_ne_true, inside, fine] at run
    exact run

/-- A command without a result. -/
theorem State.command_commands (wait : s.ctx.wait = none) (run : exec j s = .next ((s.issued rs).weighed k))
    (checks : k (s.issued rs) = s.checked rs illegal rows spans ((s.issued rs).command sw kind desc p q f))
    (keeps : (f s.core.matrix).queue = s.core.matrix.queue) : s.commands sw d j kind desc p q false illegal rows spans f := by
  obtain ⟨resource, illegal', outside, fault, passes⟩ := State.checked_refuses run checks
  refine ⟨resource, illegal', outside, fault, fun weight good inside fine full => ?_, fun weight good inside fine room => ?_⟩
  · have run := passes weight good inside fine
    rw [State.command, if_pos ((State.queueFull_iff (s.issued rs)).2 full)] at run
    exact ⟨_, run, s.issued_block_waits wait ..⟩
  · have run := passes weight good inside fine
    rw [State.command, if_neg (fun h => room ((State.queueFull_iff (s.issued rs)).1 h))] at run
    obtain ⟨matrix, mem, accs, ctx, cycle, cur, next⟩ := (s.issued rs).join_queued ((s.issued rs).newCommand kind desc p q none) (f := f) keeps kind desc p q
    obtain ⟨same, goes⟩ := State.completes ctx cycle sw 4 1
    exact ⟨_, _, run, matrix, rfl, rfl, rfl, rfl, rfl, rfl, rfl, (s.issued_amid rs).pc, rfl, fun y hy own near => State.mem_ownAccesses (s := s.issued rs) hy own near,
      mem, accs, goes, next, fun _ => ⟨rfl, same⟩, fun h => Bool.noConfusion h⟩

/-- A command with a result. -/
theorem State.commandTo_commands (wait : s.ctx.wait = none) (run : exec j s = .next ((s.issued rs).weighed k))
    (checks : k (s.issued rs) = s.checked rs illegal rows spans ((s.issued rs).commandTo sw d kind desc f))
    (keeps : (f s.core.matrix).queue = s.core.matrix.queue) : s.commands sw d j kind desc 0 0 true illegal rows spans f := by
  obtain ⟨resource, illegal', outside, fault, passes⟩ := State.checked_refuses run checks
  refine ⟨resource, illegal', outside, fault, fun weight good inside fine full => ?_, fun weight good inside fine room => ?_⟩
  · have run := passes weight good inside fine
    rw [State.commandTo, if_pos ((State.queueFull_iff (s.issued rs)).2 full)] at run
    exact ⟨_, run, s.issued_block_waits wait ..⟩
  · have run := passes weight good inside fine
    rw [State.commandTo, if_neg (fun h => room ((State.queueFull_iff (s.issued rs)).1 h))] at run
    dsimp only at run
    have only := (s.issued rs).writeLater_onlySends (.x d) 0 1
    have accs' := (s.issued rs).writeLater_accs (.x d) 0 1
    have amid' := (s.issued rs).writeLater_amid (.x d) 0 1
    have awaits' := (s.issued rs).writeLater_awaits (.x d) 0 1
    have mem' := (s.issued rs).writeLater_mem (.x d) 0 1
    generalize (s.issued rs).writeLater (.x d) 0 1 = m at run only accs' amid' awaits' mem'
    have core : m.core = s.core := (congrArg State.core only :)
    obtain ⟨matrix, mem, accs, ctx, cycle, cur, next⟩ := m.join_queued (m.newCommand kind desc 0 0 (if d = 0 then none else some (s.issued rs).seq)) (f := f)
      (by rw [core]; exact keeps) kind desc 0 0
    rw [core] at matrix next
    have amid : s.amid m := (s.issued_amid rs).trans amid'
    have near (y : Acc) (h : s.within .core y.key = true) : m.within .core y.key = true := by
      unfold State.within at h ⊢
      rw [core]
      exact h
    refine ⟨_, _, run, matrix, rfl, rfl, rfl, rfl, amid.cur, rfl, rfl, amid.pc, rfl,
      fun y hy own within => State.mem_ownAccesses (by rw [accs']; exact hy) (own.trans amid.cur.symm) (near y within), mem.trans mem', accs.trans accs', ?_, next,
      fun h => Bool.noConfusion h, fun _ => ⟨rfl, ?_⟩⟩
    · exact (amid.trans ⟨cycle, by rw [ctx]; exact .refl _, cur⟩).goesOn sw 4 1
    · exact (awaits'.of_sameRegs (s.issued_sameRegs rs) rfl).then_sameRegs (State.sameRegs.trans ⟨fun r => by rw [ctx], by rw [ctx]⟩ (State.retireAfter_sameRegs ..))

end

/-- The fields of an accepted format word (R332). -/
theorem fmtOfWord_fields {w : Word} {f : Fmt} (h : fmtOfWord w = some f) : Ty.ofCode (w.extractLsb' 0 5) = some f.fa ∧ Ty.ofCode (w.extractLsb' 8 5) = some f.fb ∧
    f.sma = w.getLsbD 16 ∧ f.smb = w.getLsbD 18 ∧ pairs f.fa f.fb = true := by
  have low : BitVec.ofNat 5 (natBits w.toNat 4 0) = w.extractLsb' 0 5 := by
    apply BitVec.eq_of_toNat_eq
    simp [natBits]
  have high : BitVec.ofNat 5 (natBits w.toNat 12 8) = w.extractLsb' 8 5 := by
    apply BitVec.eq_of_toNat_eq
    simp [natBits, Nat.shiftRight_eq_div_pow]
  unfold fmtOfWord at h
  dsimp only at h
  rw [low, high] at h
  split at h
  · cases h
  · split at h
    case _ fa fb one two =>
      split at h
      case isTrue paired =>
        cases h
        exact ⟨one, two, rfl, rfl, paired⟩
      case isFalse => cases h
    case _ => cases h

/-- MSTAT's fields (R343). -/
theorem mstat_fields {m : Matrix} (row : ∀ r, m.keptIssued = some r → r < 2048) :
    natBits m.stat.toNat 4 0 = Nat.min m.queue.length 16 ∧ natBits m.stat.toNat 19 16 = m.weight.toNat ∧ m.stat.getLsbD 22 = m.shadowIssued.isSome ∧
      m.stat.getLsbD 23 = m.ownIssue ∧ natBits m.stat.toNat 39 32 = m.rflt.toNat ∧
      ∀ r, m.keptIssued = some r → m.stat.getLsbD 20 = true ∧ natBits m.stat.toNat 15 5 = r := by
  have l1 := m.rflt.isLt
  have l2 := m.weight.isLt
  have l3 := Bool.toNat_le m.ownIssue
  have l4 := Bool.toNat_le m.shadowIssued.isSome
  have l5 := Bool.toNat_le (swapWaits m.queue)
  have l6 := Bool.toNat_le m.keptIssued.isSome
  have l7 : m.keptIssued.getD 0 < 2048 := by
    cases kept : m.keptIssued with
    | none => exact Nat.zero_lt_succ _
    | some r => exact row r kept
  have l8 : Nat.min m.queue.length 16 ≤ 16 := Nat.min_le_right _ _
  have val : m.stat.toNat = m.rflt.toNat * 2 ^ 32 + m.ownIssue.toNat * 2 ^ 23 + m.shadowIssued.isSome.toNat * 2 ^ 22 + (swapWaits m.queue).toNat * 2 ^ 21
      + m.keptIssued.isSome.toNat * 2 ^ 20 + m.weight.toNat * 2 ^ 16 + m.keptIssued.getD 0 * 2 ^ 5 + Nat.min m.queue.length 16 := by
    rw [Matrix.stat, BitVec.toNat_ofNat, bitAt_eq, bitAt_eq, bitAt_eq, bitAt_eq, Nat.mod_eq_of_lt (by omega)]
  refine ⟨by rw [natBits, val]; omega, by rw [natBits, val]; omega, testBit_of_div (by rw [val]; omega), testBit_of_div (by rw [val]; omega), by rw [natBits, val]; omega,
    fun r kept => ?_⟩
  rw [kept, Option.isSome_some, Option.getD_some] at val
  have l9 := row r kept
  exact ⟨testBit_of_div (by rw [val, Bool.toNat_true]; omega), by rw [natBits, val]; omega⟩

/-- What an acquire of one agent's writes leaves of what the context had read early: no entry that such a write has changed (R307). -/
theorem State.acquireFrom_early (s : State) (n : Nat) (c : Scope) : ∀ e ∈ (s.acquireFrom n c).early, e.ctx = s.cur → s.within c e.key = true →
    ∀ k ∈ e.newer, n ∉ k := by
  intro e he mine near k hk known
  obtain ⟨listed, fresh⟩ := List.mem_filter.1 (show e ∈ s.freshEarly _ from he)
  obtain ⟨f, -, rfl⟩ := List.mem_map.1 listed
  have covered : s.within c f.key = true := by
    split at near
    · assumption
    · exact near
  rw [if_pos covered] at fresh mine hk
  obtain ⟨k₀, -, rfl⟩ := List.mem_map.1 hk
  have source : s.sourceOf f.ctx = s.source := by rw [show f.ctx = s.cur from mine]; rfl
  dsimp only at known hk
  have learnt : s.source ∈ if decide (n ∈ k₀) then s.source :: k₀ else k₀ := by
    by_cases there : n ∈ k₀
    · rw [decide_eq_true there, if_pos rfl]
      exact List.mem_cons_self ..
    · rw [if_neg (show ¬ decide (n ∈ k₀) = true from fun h => there (of_decide_eq_true h))] at known
      exact absurd known there
  rw [Bool.not_eq_true', List.any_eq_false] at fresh
  exact fresh _ hk (by rw [source]; exact decide_eq_true learnt)

/-- Settles O43: each command's checks are `checked`, and its place in the queue is `join`. -/
theorem matrixCommandsAreCheckedAndQueued : Obligations.MatrixCommandsAreCheckedAndQueued := by
  unfold Obligations.MatrixCommandsAreCheckedAndQueued
  intro s sw d a b n x M X Y W span traps full cmd ready
  have cmd_eq : cmd = s.commands sw d := rfl
  have span_eq : span = s.spanFault := rfl
  clear_value cmd span
  subst cmd_eq span_eq
  have wait := ready.1
  have readX (rs : List Reg) (r : BitVec 5) : (s.issued rs).readX r = s.readX r := State.readX_issued ..
  refine ⟨?_, fun f => fmtOfWord_fields, ?_, fun free weight => ⟨?_, ?_, ?_⟩, fun free weight => ?_, fun f have_ => ⟨?_, ?_, fun fw live => ?_⟩, ?_, ?_, ?_, ?_, ?_, ?_, ?_, ?_, ?_, ?_, ?_, ?_⟩
  · have run : exec (.mctx sw a) s = execMctx sw a s := rfl
    rw [execMctx, State.issue_issued (ready.mono (by simp))] at run
    refine State.command_commands wait run ?_ rfl
    dsimp only
    rw [readX]
    show _ = s.checked [.x a] (fmtOfWord (s.readX a)).isNone none [] ((s.issued [.x a]).command sw (.mctx (s.readX a)) (s.readX a) 0 0 fun m => { m with fmtIssued := fmtOfWord (s.readX a) })
    cases fmtOfWord (s.readX a) with
    | none => rfl
    | some f => rfl
  · have run : exec (.mcbk sw a x) s = execMcbk sw a x s := rfl
    rw [execMcbk, State.issue_issued (ready.mono (by simp))] at run
    refine State.command_commands wait run ?_ (by cases x <;> rfl)
    rw [readX, State.checked_span, readX]
  · have run : exec (.mmul sw d a b x) s = execMmul sw d a b x s := rfl
    rw [execMmul, State.issue_issued (ready.mono (by simp)), State.weighed, if_neg (show ¬ (s.issued _).core.matrix.weight = 0 from weight)] at run
    dsimp only at run
    rw [show (s.issued [.x d, .x a, .x b]).core.matrix.fmtIssued = none from free] at run
    exact State.refuses_illegal run
  · have run : exec (.mloads sw a) s = execMloads sw a s := rfl
    rw [execMloads, State.issue_issued (ready.mono (by simp)), State.weighed, if_neg (show ¬ (s.issued _).core.matrix.weight = 0 from weight)] at run
    rw [show (s.issued [.x a]).core.matrix.fmtIssued = none from free] at run
    exact State.refuses_illegal run
  · have run : exec (.mstream sw d a) s = execMstream sw d a s := rfl
    rw [execMstream, State.issue_issued (ready.mono (by simp)), State.weighed, if_neg (show ¬ (s.issued _).core.matrix.weight = 0 from weight)] at run
    dsimp only at run
    rw [show (s.issued [.x d, .x a]).core.matrix.fmtIssued = none from free] at run
    exact State.refuses_illegal run
  · have run : exec (.mstream sw d a) s = execMstream sw d a s := rfl
    rw [execMstream, State.issue_issued (ready.mono (by simp)), State.weighed, if_neg (show ¬ (s.issued _).core.matrix.weight = 0 from weight)] at run
    dsimp only at run
    rw [show (s.issued [.x d, .x a]).core.matrix.liveIssued = none from free] at run
    revert run
    cases (s.issued [.x d, .x a]).core.matrix.fmtIssued with
    | none => exact State.refuses_illegal
    | some f => exact State.refuses_illegal
  · have run : exec (.mmul sw d a b x) s = execMmul sw d a b x s := rfl
    rw [execMmul, State.issue_issued (ready.mono (by simp))] at run
    refine State.command_commands wait run ?_ rfl
    dsimp only
    rw [show (s.issued [.x d, .x a, .x b]).core.matrix.fmtIssued = some f from have_, readX]
    refine (State.checked_rows_spans ..).trans ?_
    rw [readX, readX]
    rfl
  · have run : exec (.mloads sw a) s = execMloads sw a s := rfl
    rw [execMloads, State.issue_issued (ready.mono (by simp))] at run
    refine State.command_commands wait run ?_ rfl
    rw [show (s.issued [.x a]).core.matrix.fmtIssued = some f from have_]
    refine (State.checked_legal_span ..).trans ?_
    rw [readX]
    rfl
  · have run : exec (.mstream sw d a) s = execMstream sw d a s := rfl
    rw [execMstream, State.issue_issued (ready.mono (by simp))] at run
    refine State.command_commands wait run ?_ rfl
    dsimp only
    rw [show (s.issued [.x d, .x a]).core.matrix.fmtIssued = some f from have_, show (s.issued [.x d, .x a]).core.matrix.liveIssued = some fw from live, readX]
    refine (State.checked_rows_span ..).trans ?_
    rw [readX]
    rfl
  · have run : exec (.mswap sw) s = execMswap sw s := rfl
    rw [execMswap, State.issue_issued (ready.mono (by simp))] at run
    exact State.command_commands wait run (State.checked_legal ..) rfl
  · have run : exec (.mdrain sw) s = execMdrain sw s := rfl
    rw [execMdrain, State.issue_issued (ready.mono (by simp))] at run
    exact State.command_commands wait run (State.checked_plain ..) rfl
  · have run : exec (.acrd sw d a) s = execAcrd sw d a s := rfl
    rw [execAcrd, State.issue_issued (ready.mono (by simp))] at run
    refine State.command_commands wait run ?_ rfl
    rw [State.rowCopy, readX]
    refine (State.checked_rows_span ..).trans ?_
    rw [readX]
    rfl
  · have run : exec (.acwr sw d a) s = execAcwr sw d a s := rfl
    rw [execAcwr, State.issue_issued (ready.mono (by simp))] at run
    refine State.command_commands wait run ?_ rfl
    rw [State.rowCopy, readX]
    refine (State.checked_rows_span ..).trans ?_
    rw [readX]
    rfl
  · have run : exec (.mzeroAcc sw d) s = execMzeroAcc sw d s := rfl
    rw [execMzeroAcc, State.issue_issued (ready.mono (by simp))] at run
    refine State.command_commands wait run ?_ rfl
    dsimp only
    rw [readX]
    exact State.checked_rows ..
  · have run : exec (.mzeroSt sw) s = execMzeroSt sw s := rfl
    rw [execMzeroSt, State.issue_issued (ready.mono (by simp))] at run
    exact State.command_commands wait run (State.checked_plain ..) rfl
  · have run : exec (.mchkKat sw d) s = execMchkKat sw d s := rfl
    rw [execMchkKat, State.issue_issued (ready.mono (by simp))] at run
    exact State.commandTo_commands wait run (State.checked_plain ..) rfl
  · have run : exec (.mchkInj sw d a) s = execMchkInj sw d a s := rfl
    rw [execMchkInj, State.issue_issued (ready.mono (by simp))] at run
    refine State.commandTo_commands wait run ?_ rfl
    rw [readX]
    exact (State.checked_legal ..).trans (by rw [readX]; rfl)
  · have run : exec (.mflag sw d x) s = execMflag sw d x s := rfl
    rw [execMflag, State.issue_issued (ready.mono (by simp))] at run
    exact State.commandTo_commands wait run (State.checked_plain ..) rfl
  · intro row
    refine ⟨M.stat, ?_, mstat_fields row⟩
    exact State.issue_gives [] [.x d] (fun u => wide u.core.matrix.stat) rfl (fun _ => rfl) (Reg.fits_wide ..)
  · intro few
    have run : exec (.mwait sw n) s = execMwait sw n s := rfl
    rw [execMwait, State.issue_issued (ready.mono (by simp)), if_pos (show (s.issued []).core.matrix.pending (s.issued []).cur ≤ n.toNat from few)] at run
    refine ⟨_, run, ?_, (s.issued []).acquireFrom_early s.unitSource .core⟩
    obtain ⟨early, eq⟩ := (s.issued []).acquireFrom_eq (s.issued []).unitSource .core
    rw [eq]
    exact s.issued_retireAfter_passes [] sw 4 1
  · intro many
    have run : exec (.mwait sw n) s = execMwait sw n s := rfl
    rw [execMwait, State.issue_issued (ready.mono (by simp)), if_neg (show ¬ (s.issued []).core.matrix.pending (s.issued []).cur ≤ n.toNat from Nat.not_le.2 many)] at run
    exact ⟨_, run, s.issued_block_waits wait ..⟩

end Sys2Proof.Machine
end

section
/-! SUPPORT. What a write to memory records beside the bytes (R162, R310, R415, R422), and what it leaves. -/

namespace Sys2Proof.Machine

/-- Only what is recorded of a write has changed: memory, the daybook, the log, and what the contexts and jobs are told of it. -/
def State.onlyRecords (s t : State) : Prop :=
  t = { s with core := { s.core with snapshot := t.core.snapshot }, job := t.job, evicted := t.evicted, dev := t.dev, mem := t.mem, early := t.early }

namespace State.onlyRecords

variable {s t u : State}

theorem refl (s : State) : s.onlyRecords s := rfl

theorem trans (h : s.onlyRecords t) (k : t.onlyRecords u) : s.onlyRecords u := by
  unfold State.onlyRecords at *
  rw [h] at k
  exact k

theorem ctxs (h : s.onlyRecords t) : t.ctxs = s.ctxs := by rw [h]
theorem accs (h : s.onlyRecords t) : t.accs = s.accs := by rw [h]
theorem agenda (h : s.onlyRecords t) : t.agenda = s.agenda := by rw [h]
theorem cur (h : s.onlyRecords t) : t.cur = s.cur := by rw [h]
theorem cycle (h : s.onlyRecords t) : t.cycle = s.cycle := by rw [h]
theorem seq (h : s.onlyRecords t) : t.seq = s.seq := by rw [h]
theorem core (h : s.onlyRecords t) : t.core = { s.core with snapshot := t.core.snapshot } := congrArg State.core h

theorem ctx (h : s.onlyRecords t) : t.ctx = s.ctx := by
  unfold State.ctx
  rw [h.ctxs, h.cur]

end State.onlyRecords

theorem State.logFor_onlyRecords (s : State) (jobid : BitVec 32) (sstep cls cause source : Nat) (detail : BitVec 32) (addr : Word) :
    s.onlyRecords (s.logFor jobid sstep cls cause source detail addr) := by
  unfold State.onlyRecords
  rw [State.logFor_only]

theorem State.logEntry_onlyRecords (s : State) (withJob : Bool) (cls cause source : Nat) (detail : BitVec 32) (addr : Word) :
    s.onlyRecords (s.logEntry withJob cls cause source detail addr) := by
  unfold State.onlyRecords
  rw [State.logEntry_only]

theorem State.tamperCheck_onlyRecords (s : State) (source key n : Nat) : s.onlyRecords (s.tamperCheck source key n) := by
  unfold State.tamperCheck
  generalize (s.allJobs.filter fun j => j.hashed.any fun r => overlaps key n r.1 r.2) = l
  induction l generalizing s with
  | nil => exact .refl s
  | cons j l ih =>
    have step : s.onlyRecords ((s.logAbout j.jobid 8 0 source 0 (BitVec.ofNat 64 (plainAddress key))).modJob j.jobid fun j => { j with tamper := true }) :=
      (s.logFor_onlyRecords ..).trans (State.onlyRecords.trans (t := s.logAbout j.jobid 8 0 source 0 (BitVec.ofNat 64 (plainAddress key))) rfl rfl)
    exact step.trans (ih _)

theorem State.daybook_onlyRecords (s : State) (old new : Snapshot) : s.onlyRecords (s.daybook old new) := by
  have noted : s.onlyRecords (s.modCore fun c => { c with snapshot := some new }) := rfl
  unfold State.daybook
  dsimp only
  split
  · exact noted.trans ((State.logEntry_onlyRecords _ true 10 0 s.unitSource 0 0).trans rfl)
  · exact noted

theorem State.daybookLines_onlyRecords (s : State) (ls : List Nat) : s.onlyRecords (s.daybookLines ls) := by
  unfold State.daybookLines
  split
  · exact s.daybook_onlyRecords ..
  · exact .refl s

theorem State.pokeAs_onlyRecords (s : State) (agent source key : Nat) (bs : List Byte) : s.onlyRecords (s.pokeAs agent source key bs) :=
  ((s.tamperCheck_onlyRecords source key bs.length).trans (State.daybookLines_onlyRecords _ _)).trans rfl

/-- No job has hashed any of the bytes. -/
theorem State.tamperCheck_apart {s : State} {key n : Nat} (apart : ∀ j ∈ s.allJobs, ∀ r ∈ j.hashed, overlaps key n r.1 r.2 = false) (source : Nat) :
    s.tamperCheck source key n = s := by
  have none : (s.allJobs.filter fun j => j.hashed.any fun r => overlaps key n r.1 r.2) = [] := List.filter_eq_nil_iff.2 fun j hj => by
    rw [List.any_eq_true]
    rintro ⟨r, hr, hit⟩
    rw [apart j hj r hr] at hit
    cases hit
  unfold State.tamperCheck
  rw [none]
  rfl

/-- The daybook has room for the lines, or has overflowed before. -/
def State.dayRoom (s : State) (n : Nat) : Prop :=
  ∀ sn, s.core.snapshot = some sn → sn.entries + n ≤ s.job.dayEntries ∨ s.job.dayEntries < sn.entries

/-- Lines that the daybook has room for are recorded without an overflow (R162). -/
theorem State.daybookLines_room {s : State} {ls : List Nat} (room : s.dayRoom ls.length) :
    ∃ snap, s.daybookLines ls = { s with core := { s.core with snapshot := snap } } ∧
      (ls = [] → snap.map Snapshot.entries = s.core.snapshot.map Snapshot.entries) := by
  unfold State.daybookLines
  cases have_ : s.core.snapshot with
  | none =>
    have same : ({ s with core := { s.core with snapshot := none } } : State) = s := by rw [← have_]
    exact ⟨none, same.symm, fun _ => rfl⟩
  | some sn =>
    dsimp only
    have few : ((ls.filter fun l => !(sn.lines.any fun x => x.1 = l)).map fun l => (l, Memory.read s.mem (64 * l) 64)).length ≤ ls.length := by
      rw [List.length_map]
      exact List.length_filter_le ..
    generalize hl : (ls.filter fun l => !(sn.lines.any fun x => x.1 = l)).map (fun l => (l, Memory.read s.mem (64 * l) 64)) = new at few
    have count : ({ sn with lines := sn.lines ++ new } : Snapshot).entries = sn.entries + new.length := by
      unfold Snapshot.entries
      dsimp only
      rw [List.length_append]
      omega
    refine ⟨some { sn with lines := sn.lines ++ new }, ?_, fun none => ?_⟩
    · unfold State.daybook
      dsimp only
      rw [count, if_neg]
      · rfl
      · rintro ⟨below, above⟩
        rcases room sn have_ with fits | past
        · omega
        · omega
    · have zero : new.length = 0 := by
        rw [none] at few
        exact Nat.le_zero.1 few
      rw [Option.map_some, Option.map_some, count, zero, Nat.add_zero]

/-- Bytes that no job has hashed, and that the daybook has room for, are written: memory changes, and nothing else but the daybook's lines and what the
contexts had read early. -/
theorem State.poke_room {s : State} {key : Nat} {bs : List Byte} (apart : ∀ j ∈ s.allJobs, ∀ r ∈ j.hashed, overlaps key bs.length r.1 r.2 = false)
    (room : s.dayRoom (s.ownLines key bs.length).length) (source : Nat) :
    ∃ snap early, s.poke source key bs = { s with core := { s.core with snapshot := snap }, mem := Memory.write s.mem key bs, early } ∧
      (s.ownLines key bs.length = [] → snap.map Snapshot.entries = s.core.snapshot.map Snapshot.entries) := by
  obtain ⟨snap, eq, same⟩ := State.daybookLines_room room
  unfold State.poke State.pokeAs
  rw [State.tamperCheck_apart apart, eq]
  exact ⟨snap, _, rfl, same⟩

/-- Two keys as far apart as two scratchpads do not both lie in this core's. -/
theorem State.ownLines_once (s : State) {key pair : Nat} (n m : Nat) (apart : pair = key + Config.scratchBytes ∨ key = pair + Config.scratchBytes) :
    s.ownLines key n = [] ∨ s.ownLines pair m = [] := by
  unfold State.ownLines
  dsimp only
  by_cases own : scratchKey s.core.num.toNat 0 ≤ key ∧ key < scratchKey s.core.num.toNat 0 + Config.scratchBytes ∧ n ≠ 0
  · right
    refine if_neg fun other => ?_
    omega
  · exact .inl (if_neg own)

theorem State.ownLines_few (s : State) (key n : Nat) : (s.ownLines key n).length ≤ 2 * (n / 64 + 1) := by
  unfold State.ownLines
  dsimp only
  split
  · rw [List.length_map, List.length_range]
    omega
  · exact Nat.zero_le _

end Sys2Proof.Machine
end

section
/-! SUPPORT. Stores that reach both cores of a pair, and multicasts (R160, R389 to R391). -/

namespace Sys2Proof.Machine

/-! ## Stores of a redundant pair (R160) -/

/-- A write of `n` bytes at `key` is not to a hashed range, and overflows no daybook. -/
def State.hushed (s : State) (key n : Nat) : Prop := (∀ j ∈ s.allJobs, ∀ r ∈ j.hashed, overlaps key n r.1 r.2 = false) ∧
  ∀ sn, s.core.snapshot = some sn → sn.entries + 2 * (n / 64 + 1) ≤ s.job.dayEntries ∨ s.job.dayEntries < sn.entries

theorem State.hushed.room {s : State} {key n : Nat} (h : s.hushed key n) : s.dayRoom (s.ownLines key n).length := fun sn have_ =>
  (h.2 sn have_).imp (fun fits => Nat.le_trans (Nat.add_le_add_left (s.ownLines_few key n) _) fits) id

/-- Bytes that are stored at `key`, and in a redundant job at the pair's other core too. -/
def State.pokePair (s : State) (source key pair : Nat) (data : List Byte) : State :=
  let t := s.poke source key data
  if s.job.redun then t.poke source pair data else t

theorem State.pokePair_onlyRecords (s : State) (source key pair : Nat) (data : List Byte) : s.onlyRecords (s.pokePair source key pair data) := by
  unfold State.pokePair
  dsimp only
  split
  · exact (s.pokeAs_onlyRecords ..).trans (State.pokeAs_onlyRecords ..)
  · exact s.pokeAs_onlyRecords ..

/-- Where they are stored, and that no other byte changes. -/
theorem State.pokePair_bytes {s : State} {key pair : Nat} {data : List Byte} (apart : pair = key + Config.scratchBytes ∨ key = pair + Config.scratchBytes)
    (quiet : s.hushed key data.length) (quiet' : s.job.redun = true → s.hushed pair data.length) (source q : Nat) :
    Memory.byte (s.pokePair source key pair data).mem q = if s.job.redun = true ∧ pair ≤ q ∧ q < pair + data.length then data.getD (q - pair) 0
      else if key ≤ q ∧ q < key + data.length then data.getD (q - key) 0 else Memory.byte s.mem q := by
  obtain ⟨snap, early, first, same⟩ := State.poke_room quiet.1 quiet.room source
  unfold State.pokePair
  dsimp only
  rw [first]
  by_cases redun : s.job.redun = true
  · have quiet₂ := quiet' redun
    let u : State := { s with core := { s.core with snapshot := snap }, mem := Memory.write s.mem key data, early }
    have room : u.dayRoom (u.ownLines pair data.length).length := fun sn have_ => by
      have lines : u.ownLines pair data.length = s.ownLines pair data.length := rfl
      rcases s.ownLines_once data.length data.length apart with first_ | second
      · have entries := same first_
        rw [show snap = some sn from have_] at entries
        cases old : s.core.snapshot with
        | none => rw [old] at entries; cases entries
        | some sn₀ =>
          rw [old] at entries
          rw [lines, Option.some.inj entries]
          exact quiet₂.room sn₀ old
      · rw [lines, second]
        exact (Nat.lt_or_ge s.job.dayEntries sn.entries).symm
    obtain ⟨snap', early', second, -⟩ := State.poke_room (s := u) (key := pair) (bs := data) quiet₂.1 room source
    rw [if_pos redun]
    show Memory.byte (u.poke source pair data).mem q = _
    rw [second]
    show Memory.byte (Memory.write (Memory.write s.mem key data) pair data) q = _
    rw [Memory.byte_write, Memory.byte_write]
    simp only [redun, true_and]
  · rw [if_neg redun]
    show Memory.byte (Memory.write s.mem key data) q = _
    rw [Memory.byte_write, if_neg (show ¬ (s.job.redun = true ∧ pair ≤ q ∧ q < pair + data.length) from fun h => redun h.1)]

theorem xor_one_apart (n : Nat) : n ^^^ 1 = n + 1 ∨ n = (n ^^^ 1) + 1 := by
  rcases Nat.mod_two_eq_zero_or_one n with even | odd
  · exact .inl (Nat.xor_one_of_even (Nat.even_iff.2 even))
  · have one := Nat.xor_one_of_odd (Nat.odd_iff.2 odd)
    omega

theorem scratchKey_apart (n off : Nat) : scratchKey (n ^^^ 1) off = scratchKey n off + Config.scratchBytes ∨
    scratchKey n off = scratchKey (n ^^^ 1) off + Config.scratchBytes := by
  unfold scratchKey
  rcases xor_one_apart n with up | down
  · left
    rw [up, Nat.add_mul]
    omega
  · right
    generalize n ^^^ 1 = m at down
    rw [down, Nat.add_mul]
    omega

/-! ## Multicasts (R389, R390) -/

/-- Signing changes the two signatures alone, and nothing outside a redundant job (R161). -/
theorem State.signMcast_units (doff : Nat) (data : List Byte) : ∀ (ts : List (BitVec 12)) (s : State), ∃ x y,
    s.signMcast ts doff data = { s with core := { s.core with sig := x, partnerSig := y } } ∧ (s.job.redun = false → x = s.core.sig ∧ y = s.core.partnerSig)
  | [], s => ⟨s.core.sig, s.core.partnerSig, rfl, fun _ => ⟨rfl, rfl⟩⟩
  | c :: ts, s => by
    have step : ∃ x y, s.sign (scratchForm c doff) data.length data = { s with core := { s.core with sig := x, partnerSig := y } } ∧
        (s.job.redun = false → x = s.core.sig ∧ y = s.core.partnerSig) := by
      unfold State.sign
      split
      case isTrue on => exact ⟨_, _, rfl, fun off => by rw [on] at off; cases off⟩
      case isFalse => exact ⟨s.core.sig, s.core.partnerSig, rfl, fun _ => ⟨rfl, rfl⟩⟩
    obtain ⟨x, y, eq, off⟩ := step
    obtain ⟨x', y', eq', off'⟩ := State.signMcast_units doff data ts (s.sign (scratchForm c doff) data.length data)
    refine ⟨x', y', ?_, fun h => ?_⟩
    · show (s.sign (scratchForm c doff) data.length data).signMcast ts doff data = _
      rw [eq', eq]
    · rw [eq] at off'
      exact ⟨(off' h).1.trans (off h).1, (off' h).2.trans (off h).2⟩

/-- What an event leaves that has gone on with a multicast: memory and jobs, the registers, and what is to come. -/
structure State.forwards (s t : State) : Prop where
  mem : t.mem = s.mem
  job : t.job = s.job
  regs : ∀ k r, (t.ctxAt k).reg r = (s.ctxAt k).reg r
  posted : ∀ e ∈ s.agenda, e ∈ t.agenda

theorem State.wake_forwards (s : State) : s.forwards s.wake :=
  ⟨rfl, rfl, fun k r => by rw [State.wake_ctxAt, Ctx.unholdInv_reg], fun e he => by
    unfold State.wake
    simp only [List.mem_append]
    exact .inl (.inl (.inl (.inl (.inl (.inl he)))))⟩

theorem State.forwards.trans {s t u : State} (h : s.forwards t) (k : t.forwards u) : s.forwards u :=
  ⟨k.mem.trans h.mem, k.job.trans h.job, fun n r => (k.regs n r).trans (h.regs n r), fun e he => k.posted e (h.posted e he)⟩

/-- A multicast has passed its last hop. -/
theorem State.mcastDone_ends (s : State) (m : Mcast) : let t := (s.mcastDone m).wake
    s.forwards t ∧ (∀ u ∈ t.core.mcasts, u.seq ≠ m.seq) ∧ ∀ w, m.result = some w → (t.ctxAt m.ctx).writes =
      (s.ctxAt m.ctx).writes.map fun y => if y.seq = w then { y with val := wide m.word, need := y.need - 1 } else y := by
  have gone (u : Mcast) (h : u ∈ (s.setMcast m.seq none).core.mcasts) : u.seq ≠ m.seq := by
    obtain ⟨v, -, kept⟩ := List.mem_filterMap.1 h
    intro same
    split at kept
    · cases kept
    case isFalse other => exact other (Option.some.inj kept ▸ same)
  have woken {t : State} (clear : ∀ u ∈ t.core.mcasts, u.seq ≠ m.seq) (u : Mcast) (h : u ∈ t.wake.core.mcasts) : u.seq ≠ m.seq := by
    obtain ⟨v, hv, rfl⟩ := List.mem_map.1 h
    exact clear v hv
  unfold State.mcastDone
  dsimp only
  cases m.result with
  | none => exact ⟨State.forwards.trans (t := s.setMcast m.seq none) ⟨rfl, rfl, fun _ _ => rfl, fun _ h => h⟩ (State.wake_forwards _), woken gone, fun _ h => by cases h⟩
  | some w =>
    obtain ⟨mem, -, regs, posted⟩ := (s.setMcast m.seq none).formWrite_kept m.ctx w (m.word.setWidth 512)
    have only := State.fill_only (s.setMcast m.seq none) m.ctx w (fun _ => m.word.setWidth 512) false
    refine ⟨State.forwards.trans (t := (s.setMcast m.seq none).formWrite m.ctx w (m.word.setWidth 512)) ⟨mem, (congrArg State.job only :), regs, posted⟩ (State.wake_forwards _),
      woken fun u h => gone u ?_, fun w' h => ?_⟩
    · rwa [show ((s.setMcast m.seq none).formWrite m.ctx w (m.word.setWidth 512)).core = (s.setMcast m.seq none).core from (congrArg State.core only :)] at h
    · cases h
      rw [State.wake_ctxAt]
      exact State.formWrite_writes ..

/-- A multicast that has hops to come. -/
theorem State.setMcast_goes (s : State) {m m' : Mcast} (mem : m ∈ s.core.mcasts) (e : Instr) : let t := ((s.setMcast m.seq (some m')).post e).wake
    s.forwards t ∧ e ∈ t.agenda ∧ { m' with held := false } ∈ t.core.mcasts := by
  intro t
  have woken := ((s.setMcast m.seq (some m')).post e).wake_forwards
  have set : m' ∈ (s.setMcast m.seq (some m')).core.mcasts := List.mem_filterMap.2 ⟨m, mem, if_pos rfl⟩
  refine ⟨State.forwards.trans (t := (s.setMcast m.seq (some m')).post e) ⟨rfl, rfl, fun _ _ => rfl, fun x h => List.mem_append_left _ h⟩ woken,
    woken.posted e (List.mem_append_right _ (List.mem_singleton.2 rfl)), List.mem_map.2 ⟨m', set, rfl⟩⟩

theorem laneMask_from : ∀ (k i : Nat), laneMask ((List.range k).map (i + ·)) = 2 ^ i * (2 ^ k - 1)
  | 0, _ => by simp [laneMask]
  | k + 1, i => by
    have rest := laneMask_from k i
    unfold laneMask at rest ⊢
    rw [List.range_succ, List.map_append, List.map_append, List.sum_append, rest]
    have pos := Nat.two_pow_pos k
    simp only [List.map_cons, List.map_nil, List.sum_cons, List.sum_nil, Nat.add_zero]
    rw [Nat.pow_add, ← Nat.mul_add]
    congr 1
    rw [Nat.pow_succ]
    omega

/-- The multicast of an event is the one of its number. -/
theorem exec_mcastHop {s : State} {m : Mcast} (mem : m ∈ s.core.mcasts) (one : ∀ u ∈ s.core.mcasts, u.seq = m.seq → u = m) {c : BitVec 12} {cs : List (BitVec 12)}
    (targets : m.targets = c :: cs) (refused : Bool) : exec (.mcastHop m.ctx m.seq refused) s = .next (
      if refused ∨ m.resets.any (inCluster · c) then
        (s.mcastDone { m with refused := m.refused + 2 ^ m.index * (2 ^ (cs.length + 1) - 1) }).wake
      else if (s.accs.any fun a => decide (a.seq ∈ m.after)) ∨ s.bufferTaken m c then s.setMcast m.seq (some { m with held := true })
      else
        let data := m.data.getD (s.unitRead m.src (64 * m.lines))
        let r := s.mcastStore (s.sourceOf m.ctx) m.id m.group m.doff c data
        let m' := { m with data := some data, targets := cs, index := m.index + 1, holds := some c,
                           stored := m.stored + (if r.2 then 1 else 0), refused := m.refused + (if r.2 then 0 else 2 ^ m.index) }
        (if cs.isEmpty then r.1.mcastDone m' else (r.1.setMcast m.seq (some m')).post (.mcastHop m.ctx m.seq false)).wake) := by
  have found : (s.core.mcasts.find? fun u => decide (u.seq = m.seq) && decide (u.ctx = m.ctx)) = some m := by
    obtain ⟨y, hy⟩ := Option.isSome_iff_exists.1 (List.find?_isSome.2 ⟨m, mem, by simp⟩ :
      (s.core.mcasts.find? fun u => decide (u.seq = m.seq) && decide (u.ctx = m.ctx)).isSome = true)
    have at_ := List.find?_some hy
    simp only [Bool.and_eq_true, decide_eq_true_eq] at at_
    rw [hy, one y (List.mem_of_find?_eq_some hy) at_.1]
  have run : exec (.mcastHop m.ctx m.seq refused) s = execMcastHop m.ctx m.seq refused s := rfl
  rw [run, execMcastHop, found]
  dsimp only
  rw [targets]
  dsimp only
  rw [List.length_cons, laneMask_from]

/-- A tile is stored at a target where no claimed area takes it (R390). -/
theorem State.mcastStore_stores {s : State} {doff : Nat} {data : List Byte} (free : ∀ k ∈ s.job.claims, overlaps doff data.length k.off k.bytes = false) (source : Nat)
    (id : BitVec 16) (group : Option (BitVec 5)) (c : BitVec 12) :
    ∃ t, s.mcastStore source id group doff c data = (t, true) ∧ t.core.mcasts = s.core.mcasts ∧ t.ctxs = s.ctxs ∧
      (∀ g, group = some g → .arrival g c 1 none ∈ t.agenda) ∧
      t.mem = (s.pokePair source (scratchKey c.toNat doff) (scratchKey (c ^^^ 1).toNat doff) data).mem := by
  have none : (s.job.claims.filter fun k => overlaps doff data.length k.off k.bytes) = [] := List.filter_eq_nil_iff.2 fun k hk => by
    rw [free k hk]
    exact Bool.false_ne_true
  have only := s.pokePair_onlyRecords source (scratchKey c.toNat doff) (scratchKey (c ^^^ 1).toNat doff) data
  have eq : s.mcastStore source id group doff c data =
      ((match group with
        | some g => (s.pokePair source (scratchKey c.toNat doff) (scratchKey (c ^^^ 1).toNat doff) data).post (.arrival g c 1 Option.none)
        | Option.none => s.pokePair source (scratchKey c.toNat doff) (scratchKey (c ^^^ 1).toNat doff) data), true) := by
    unfold State.mcastStore
    rw [none]
    rfl
  generalize s.pokePair source (scratchKey c.toNat doff) (scratchKey (c ^^^ 1).toNat doff) data = u at only eq
  have mcasts : u.core.mcasts = s.core.mcasts := (congrArg Core.mcasts only.core :)
  refine ⟨_, eq, ?_⟩
  cases group with
  | none => exact ⟨mcasts, only.ctxs, fun _ h => (by cases h), rfl⟩
  | some g => exact ⟨mcasts, only.ctxs, fun g' h => Option.some.inj h ▸ List.mem_append_right _ (List.mem_singleton.2 rfl), rfl⟩

theorem logBytes_length (cls cause source : Nat) (jobid detail : BitVec 32) (sstep : Nat) (time addr : Word) :
    (logBytes cls cause source jobid detail sstep time addr).length = 32 := by
  unfold logBytes
  simp only [List.length_append, length_bytesOfNat]

/-- An entry of the error log changes no byte outside its place in the ring. -/
theorem State.logFor_outside (s : State) (jobid : BitVec 32) (sstep cls cause source : Nat) (detail : BitVec 32) (addr : Word) :
    let log := hbmKey (s.dev.elbase.toNat + 32 * (s.dev.elprod.toNat % s.dev.elCapacity))
    ∀ q, q < log ∨ log + 32 ≤ q → Memory.byte (s.logFor jobid sstep cls cause source detail addr).mem q = Memory.byte s.mem q := by
  intro log q out
  unfold State.logFor
  dsimp only
  split
  · rfl
  · refine (Memory.byte_write ..).trans (if_neg ?_)
    rw [logBytes_length]
    rintro ⟨low, high⟩
    rcases out with below | above
    · exact Nat.not_le.2 below low
    · exact Nat.not_le.2 high above

/-- A claimed area that takes it is left as it is, and the refusal is logged (R28, R390). -/
theorem State.mcastStore_refuses {s : State} {doff : Nat} {data : List Byte} (taken : ∃ k ∈ s.job.claims, overlaps doff data.length k.off k.bytes = true) (source : Nat)
    (id : BitVec 16) (group : Option (BitVec 5)) (c : BitVec 12) :
    ∃ t, s.mcastStore source id group doff c data = (t, false) ∧ t.core.mcasts = s.core.mcasts ∧ t.ctxs = s.ctxs ∧ t.job.logged = s.job.logged + 1 ∧
      (let log := hbmKey (s.dev.elbase.toNat + 32 * (s.dev.elprod.toNat % s.dev.elCapacity))
       ∀ q, q < log ∨ log + 32 ≤ q → Memory.byte t.mem q = Memory.byte s.mem q) := by
  obtain ⟨k, hk, hit⟩ := taken
  have eq : ∃ a, s.mcastStore source id group doff c data = (s.logEntry true 1 0x06 (c.toNat + 15 * 2 ^ 12) (id.setWidth 32) a, false) := by
    unfold State.mcastStore
    split
    case h_1 none =>
      have empty := List.filter_eq_nil_iff.1 (List.map_eq_nil_iff.1 none) k hk
      exact absurd hit empty
    case h_2 x xs _ => exact ⟨_, rfl⟩
  obtain ⟨a, eq⟩ := eq
  have only := s.logEntry_onlyRecords true 1 0x06 (c.toNat + 15 * 2 ^ 12) (id.setWidth 32) a
  refine ⟨_, eq, (congrArg Core.mcasts only.core :), only.ctxs, ?_,
    s.logFor_outside s.job.jobid (sstepField s.bar.sstep) 1 0x06 (c.toNat + 15 * 2 ^ 12) (id.setWidth 32) a⟩
  unfold State.logEntry
  rw [if_pos rfl, State.logFor_only]

end Sys2Proof.Machine
end

section
/-! SUPPORT. One network cycle's arbitration (R392, R393). -/

namespace Sys2Proof.Machine

/-- One request comes before another whose counter is not saturated either: by class, then age, then input (R393). -/
def beats (age : RouterReq → Nat) (w r : RouterReq) : Prop :=
  r.cls < w.cls ∨ r.cls = w.cls ∧ (age r < age w ∨ age r = age w ∧ w.input ≤ r.input)

theorem beats_refl (age : RouterReq → Nat) (w : RouterReq) : beats age w w := .inr ⟨rfl, .inr ⟨rfl, BitVec.le_refl _⟩⟩

theorem beats_trans {age : RouterReq → Nat} {a b c : RouterReq} (h : beats age a b) (k : beats age b c) : beats age a c := by
  unfold beats at *
  rw [BitVec.le_def] at *
  omega

theorem beats_input {age : RouterReq → Nat} {a b : RouterReq} (h : beats age a b) (k : beats age b a) : a.input = b.input := by
  unfold beats at *
  rw [BitVec.le_def] at h k
  exact BitVec.eq_of_toNat_eq (by omega)

/-- The counter of a request's buffer. -/
def ageIn (ages : List (Nat × Nat)) (r : RouterReq) : Nat := Sparse.get 0 ages (reqBuffer r)

theorem betterReq_beats (ages : List (Nat × Nat)) (a b : RouterReq) :
    (betterReq ages a b = a ∨ betterReq ages a b = b) ∧ beats (ageIn ages) (betterReq ages a b) a ∧ beats (ageIn ages) (betterReq ages a b) b := by
  have first (h : beats (ageIn ages) a b) : (a = a ∨ a = b) ∧ beats (ageIn ages) a a ∧ beats (ageIn ages) a b := ⟨.inl rfl, beats_refl _ a, h⟩
  have second (h : beats (ageIn ages) b a) : (b = a ∨ b = b) ∧ beats (ageIn ages) b a ∧ beats (ageIn ages) b b := ⟨.inr rfl, h, beats_refl _ b⟩
  unfold betterReq
  dsimp only
  split
  case isTrue cls => exact first (.inl cls)
  case isFalse low =>
    split
    case isTrue cls => exact second (.inl cls)
    case isFalse high =>
      have cls : a.cls = b.cls := by omega
      split
      case isTrue age => exact first (.inr ⟨cls.symm, .inl age⟩)
      case isFalse young =>
        split
        case isTrue age => exact second (.inr ⟨cls, .inl age⟩)
        case isFalse old =>
          have age : ageIn ages a = ageIn ages b := Nat.le_antisymm (Nat.not_lt.1 young) (Nat.not_lt.1 old)
          split
          case isTrue input => exact first (.inr ⟨cls.symm, .inr ⟨age.symm, input⟩⟩)
          case isFalse input => exact second (.inr ⟨cls, .inr ⟨age, BitVec.le_of_lt (BitVec.not_le.1 input)⟩⟩)

theorem foldl_betterReq (ages : List (Nat × Nat)) : ∀ (rs : List RouterReq) (a : RouterReq), rs.foldl (betterReq ages) a ∈ a :: rs ∧
    ∀ r ∈ a :: rs, beats (ageIn ages) (rs.foldl (betterReq ages) a) r
  | [], a => ⟨List.mem_singleton.2 rfl, fun r hr => by rw [List.mem_singleton.1 hr]; exact beats_refl _ a⟩
  | b :: rs, a => by
    obtain ⟨which, first, second⟩ := betterReq_beats ages a b
    obtain ⟨mem, all⟩ := foldl_betterReq ages rs (betterReq ages a b)
    have top := all _ (List.mem_cons_self ..)
    rw [List.foldl_cons]
    refine ⟨?_, fun r hr => ?_⟩
    · rcases List.mem_cons.1 mem with same | rest
      · rw [same]
        rcases which with h | h <;> rw [h] <;> simp
      · exact List.mem_cons_of_mem _ (List.mem_cons_of_mem _ rest)
    · rcases List.mem_cons.1 hr with rfl | hr
      · exact beats_trans top first
      · rcases List.mem_cons.1 hr with rfl | hr
        · exact beats_trans top second
        · exact all r (List.mem_cons_of_mem _ hr)

/-- The winner of an arbitration is the lowest saturated input, or, when none is saturated, the request that comes before the others. -/
theorem arbitrate_wins (ages : List (Nat × Nat)) {rs : List RouterReq} (some : rs ≠ []) : ∃ w saturated, arbitrate ages rs = .some (w, saturated) ∧ w ∈ rs ∧
    ((63 ≤ ageIn ages w ∧ ∀ r ∈ rs, 63 ≤ ageIn ages r → w.input ≤ r.input) ∨
      ((∀ r ∈ rs, ageIn ages r < 63) ∧ ∀ r ∈ rs, beats (ageIn ages) w r)) := by
  unfold arbitrate
  have sorted := List.pairwise_insertionSort (fun a b : RouterReq => a.input.toNat ≤ b.input.toNat) (rs.filter fun r => decide (63 ≤ Sparse.get 0 ages (reqBuffer r)))
  have mem (r : RouterReq) := List.mem_insertionSort (fun a b : RouterReq => a.input.toNat ≤ b.input.toNat) (x := r)
    (l := rs.filter fun r => decide (63 ≤ Sparse.get 0 ages (reqBuffer r)))
  generalize (rs.filter fun r => decide (63 ≤ Sparse.get 0 ages (reqBuffer r))).insertionSort (fun a b => a.input.toNat ≤ b.input.toNat) = l at sorted mem
  simp only [List.mem_filter, decide_eq_true_eq] at mem
  cases l with
  | cons w l =>
    obtain ⟨low, -⟩ := List.pairwise_cons.1 sorted
    obtain ⟨hw, old⟩ := (mem w).1 (List.mem_cons_self ..)
    refine ⟨w, true, rfl, hw, .inl ⟨old, fun r hr sat => ?_⟩⟩
    rcases List.mem_cons.1 ((mem r).2 ⟨hr, sat⟩) with rfl | rest
    · exact BitVec.le_refl _
    · exact BitVec.le_def.2 (low r rest)
  | nil =>
    have young (r : RouterReq) (hr : r ∈ rs) : ageIn ages r < 63 := Nat.not_le.1 fun sat => List.not_mem_nil ((mem r).2 ⟨hr, sat⟩)
    cases rs with
    | nil => exact absurd rfl some
    | cons r rs =>
      obtain ⟨in_, all⟩ := foldl_betterReq ages rs r
      exact ⟨_, false, rfl, in_, .inr ⟨young, all⟩⟩

/-- The counters after an arbitration: the winner's is 0, the losers' have risen, and no other changes. -/
theorem ageAll_get (w : RouterReq) : ∀ (rs : List RouterReq) (ages : List (Nat × Nat)), (rs.map reqBuffer).Nodup →
    (∀ k, k ∉ rs.map reqBuffer → Sparse.get 0 (ageAll rs w ages) k = Sparse.get 0 ages k) ∧
    ∀ r ∈ rs, ageIn (ageAll rs w ages) r = if r.input = w.input then 0 else Nat.min (ageIn ages r + 1) 63
  | [], _, _ => ⟨fun _ _ => rfl, fun _ h => absurd h List.not_mem_nil⟩
  | x :: rs, ages, once => by
    rw [List.map_cons, List.nodup_cons] at once
    obtain ⟨apart, once⟩ := once
    let ages' := Sparse.set 0 ages (reqBuffer x) (if x.input = w.input then 0 else Nat.min (Sparse.get 0 ages (reqBuffer x) + 1) 63)
    obtain ⟨other, each⟩ := ageAll_get w rs ages' once
    have step : ageAll (x :: rs) w ages = ageAll rs w ages' := rfl
    rw [step]
    refine ⟨fun k hk => ?_, fun r hr => ?_⟩
    · rw [List.map_cons, List.mem_cons, not_or] at hk
      rw [other k hk.2]
      exact Sparse.get_set_ne hk.1 ..
    · rcases List.mem_cons.1 hr with rfl | hr
      · unfold ageIn
        rw [other _ apart]
        exact Sparse.get_set_self ..
      · have ne : reqBuffer r ≠ reqBuffer x := fun same => apart (same ▸ List.mem_map_of_mem hr)
        have kept : ageIn ages' r = ageIn ages r := Sparse.get_set_ne ne ..
        rw [each r hr, kept]

/-- What one output's arbitration does. -/
theorem State.arbitrateOutput_wins (t : State) {rs : List RouterReq} (some : rs ≠ []) : ∃ x ∈ rs, let u := t.arbitrateOutput rs
    (u.mem = t.mem ∧ u.ctxs = t.ctxs ∧ u.accs = t.accs ∧ u.job = t.job) ∧ u.dev.winners = t.dev.winners ++ [(reqOut x, x.input)] ∧
    ((∃ r ∈ rs, r.cls = timedClass) → x.cls = timedClass ∧ u.dev.ages = t.dev.ages) ∧
    ((¬ ∃ r ∈ rs, r.cls = timedClass) → u.dev.ages = ageAll rs x t.dev.ages ∧
      ((63 ≤ ageIn t.dev.ages x ∧ ∀ r ∈ rs, 63 ≤ ageIn t.dev.ages r → x.input ≤ r.input) ∨
        ((∀ r ∈ rs, ageIn t.dev.ages r < 63) ∧ ∀ r ∈ rs, beats (ageIn t.dev.ages) x r))) := by
  unfold State.arbitrateOutput
  dsimp only
  cases found : rs.find? fun r => decide (r.cls = timedClass) with
  | some x =>
    have cls : x.cls = timedClass := of_decide_eq_true (List.find?_some (p := fun r : RouterReq => decide (r.cls = timedClass)) found)
    have mem := List.mem_of_find?_eq_some found
    exact ⟨x, mem, ⟨rfl, rfl, rfl, rfl⟩, rfl, fun _ => ⟨cls, rfl⟩, fun untimed => absurd ⟨x, mem, cls⟩ untimed⟩
  | none =>
    have untimed : ¬ ∃ r ∈ rs, r.cls = timedClass := fun ⟨r, hr, cls⟩ => List.find?_eq_none.1 found r hr (decide_eq_true cls)
    obtain ⟨x, saturated, won, mem, wins⟩ := arbitrate_wins t.dev.ages some
    dsimp only
    rw [won]
    dsimp only
    refine ⟨x, mem, ?_⟩
    split
    · have only := State.count_only { t with dev := { t.dev with ages := ageAll rs x t.dev.ages, winners := t.dev.winners ++ [(reqOut x, x.input)] } } 14
      rw [only]
      exact ⟨⟨rfl, rfl, rfl, rfl⟩, rfl, fun timed => absurd timed untimed, fun _ => ⟨rfl, wins⟩⟩
    · exact ⟨⟨rfl, rfl, rfl, rfl⟩, rfl, fun timed => absurd timed untimed, fun _ => ⟨rfl, wins⟩⟩

/-! ## All the outputs of a cycle -/

/-- The requests for the output that `w` asks for. -/
def rivalsOf (reqs : List RouterReq) (w : RouterReq) : List RouterReq := reqs.filter fun r => decide (reqOut r = reqOut w)

/-- One of them is of a timed send. -/
def timedFor (reqs : List RouterReq) (w : RouterReq) : Prop := ∃ r ∈ rivalsOf reqs w, r.cls = timedClass

/-- The request that its output takes (R392, R393). -/
def takesOutput (age : RouterReq → Nat) (reqs : List RouterReq) (w : RouterReq) : Prop := w.cls = timedClass ∨ ¬ timedFor reqs w ∧
  ((63 ≤ age w ∧ ∀ r ∈ rivalsOf reqs w, 63 ≤ age r → w.input ≤ r.input) ∨ ((∀ r ∈ rivalsOf reqs w, age r < 63) ∧ ∀ r ∈ rivalsOf reqs w, beats age w r))

/-- What an arbitration has made of a request: whether it has won, and its counter. -/
structure State.settled (u : State) (age : RouterReq → Nat) (reqs : List RouterReq) (w : RouterReq) : Prop where
  won : (reqOut w, w.input) ∈ u.dev.winners ↔ takesOutput age reqs w
  timed : timedFor reqs w → ageIn u.dev.ages w = age w
  winner : ¬ timedFor reqs w → takesOutput age reqs w → ageIn u.dev.ages w = 0
  loser : ¬ timedFor reqs w → ¬ takesOutput age reqs w → ageIn u.dev.ages w = Nat.min (age w + 1) 63

/-- Requests of one cycle: each comes from its own buffer, and an output has one timed flit at most. -/
structure Requests (reqs : List RouterReq) : Prop where
  once : (reqs.map reqBuffer).Nodup
  one : ∀ r ∈ reqs, ∀ u ∈ reqs, r.cls = timedClass → u.cls = timedClass → reqOut r = reqOut u → r = u

theorem Requests.eq_of_input {reqs : List RouterReq} (h : Requests reqs) {a b : RouterReq} (ha : a ∈ reqs) (hb : b ∈ reqs) (out : reqOut a = reqOut b)
    (input : a.input = b.input) : a = b := by
  have la := a.output.isLt
  have lb := b.output.isLt
  unfold reqOut at out
  have node : a.node.toNat = b.node.toNat := by omega
  refine List.inj_on_of_nodup_map h.once ha hb ?_
  unfold reqBuffer
  rw [node, input]

/-- One output's arbitration settles its requests, and no other's. -/
theorem State.arbitrateOutput_settles {t : State} {reqs : List RouterReq} (h : Requests reqs) {age : RouterReq → Nat} {w₀ : RouterReq} (mem : w₀ ∈ reqs)
    (fresh : ∀ w ∈ rivalsOf reqs w₀, ageIn t.dev.ages w = age w ∧ (reqOut w, w.input) ∉ t.dev.winners) :
    let u := t.arbitrateOutput (rivalsOf reqs w₀)
    (u.mem = t.mem ∧ u.ctxs = t.ctxs ∧ u.accs = t.accs ∧ u.job = t.job) ∧
    (∀ w ∈ reqs, reqOut w ≠ reqOut w₀ → ageIn u.dev.ages w = ageIn t.dev.ages w ∧ ((reqOut w, w.input) ∈ u.dev.winners ↔ (reqOut w, w.input) ∈ t.dev.winners)) ∧
    ∀ w ∈ reqs, reqOut w = reqOut w₀ → u.settled age reqs w := by
  intro u
  have rival {w : RouterReq} : w ∈ rivalsOf reqs w₀ ↔ w ∈ reqs ∧ reqOut w = reqOut w₀ := by
    unfold rivalsOf
    rw [List.mem_filter, decide_eq_true_eq]
  have self : w₀ ∈ rivalsOf reqs w₀ := rival.2 ⟨mem, rfl⟩
  obtain ⟨x, hx, frame, winners, whenTimed, whenNot⟩ := t.arbitrateOutput_wins (List.ne_nil_of_mem self)
  obtain ⟨xin, xout⟩ := rival.1 hx
  have nodup : ((rivalsOf reqs w₀).map reqBuffer).Nodup := h.once.sublist ((List.filter_sublist (l := reqs)).map _)
  have kept := (ageAll_get x (rivalsOf reqs w₀) t.dev.ages nodup).1
  have set := (ageAll_get x (rivalsOf reqs w₀) t.dev.ages nodup).2
  have sameRivals {w : RouterReq} (out : reqOut w = reqOut w₀) : rivalsOf reqs w = rivalsOf reqs w₀ := by
    unfold rivalsOf
    rw [out]
  refine ⟨frame, fun w hw out => ⟨?_, ?_⟩, fun w hw out => ?_⟩
  · by_cases timed : ∃ r ∈ rivalsOf reqs w₀, r.cls = timedClass
    · rw [(whenTimed timed).2]
    · rw [(whenNot timed).1]
      refine kept _ fun there => out ?_
      obtain ⟨r, hr, same⟩ := List.mem_map.1 there
      obtain ⟨hr, rout⟩ := rival.1 hr
      rw [← List.inj_on_of_nodup_map h.once hr hw same, rout]
  · rw [winners, List.mem_append, List.mem_singleton]
    refine or_iff_left fun same => out ?_
    rw [(Prod.mk.inj same).1, xout]
  · obtain ⟨_, new⟩ := fresh w (rival.2 ⟨hw, out⟩)
    have won : (reqOut w, w.input) ∈ u.dev.winners ↔ w = x := by
      rw [winners, List.mem_append, List.mem_singleton]
      exact ⟨fun h' => h.eq_of_input hw xin (out.trans xout.symm) (Prod.mk.inj (h'.resolve_left new)).2, fun same => .inr (by rw [same])⟩
    have ages (r : RouterReq) (hr : r ∈ rivalsOf reqs w₀) : ageIn t.dev.ages r = age r := (fresh r hr).1
    by_cases timed : timedFor reqs w
    · have timed₀ : ∃ r ∈ rivalsOf reqs w₀, r.cls = timedClass := by rwa [timedFor, sameRivals out] at timed
      obtain ⟨xcls, same⟩ := whenTimed timed₀
      have takes : takesOutput age reqs w ↔ w = x := by
        refine ⟨fun h' => ?_, fun same => .inl (same ▸ xcls)⟩
        rcases h' with cls | ⟨untimed, -⟩
        · exact h.one w hw x xin cls xcls (out.trans xout.symm)
        · exact absurd timed untimed
      exact ⟨won.trans takes.symm, fun _ => by rw [same]; exact ages w (rival.2 ⟨hw, out⟩), fun no => absurd timed no, fun no => absurd timed no⟩
    · have untimed : ¬ ∃ r ∈ rivalsOf reqs w₀, r.cls = timedClass := by rwa [timedFor, sameRivals out] at timed
      obtain ⟨new, wins⟩ := whenNot untimed
      have wins' : (63 ≤ age x ∧ ∀ r ∈ rivalsOf reqs w₀, 63 ≤ age r → x.input ≤ r.input) ∨
          ((∀ r ∈ rivalsOf reqs w₀, age r < 63) ∧ ∀ r ∈ rivalsOf reqs w₀, beats age x r) := by
        have same (r : RouterReq) (hr : r ∈ rivalsOf reqs w₀) := ages r hr
        refine wins.imp (fun ⟨old, low⟩ => ⟨by rw [← ages x hx]; exact old, fun r hr old => low r hr (by rw [ages r hr]; exact old)⟩)
          fun ⟨young, all⟩ => ⟨fun r hr => by rw [← ages r hr]; exact young r hr, fun r hr => ?_⟩
        have best := all r hr
        unfold beats at best ⊢
        rwa [ages x hx, ages r hr] at best
      have takes : takesOutput age reqs w ↔ w = x := by
        unfold takesOutput
        rw [sameRivals out]
        refine ⟨fun h' => ?_, fun same => .inr ⟨timed, same ▸ wins'⟩⟩
        rcases h' with cls | ⟨-, best⟩
        · exact absurd ⟨w, rival.2 ⟨hw, out⟩, cls⟩ untimed
        · refine h.eq_of_input hw xin (out.trans xout.symm) ?_
          have hw' := rival.2 ⟨hw, out⟩
          rcases best with ⟨old, low⟩ | ⟨young, all⟩
          · rcases wins' with ⟨old', low'⟩ | ⟨young', -⟩
            · exact BitVec.le_antisymm (low x hx old') (low' w hw' old)
            · exact absurd (young' w hw') (Nat.not_lt.2 old)
          · rcases wins' with ⟨old', -⟩ | ⟨-, all'⟩
            · exact absurd (young x hx) (Nat.not_lt.2 old')
            · exact beats_input (all x hx) (all' w hw')
      have count := set w (rival.2 ⟨hw, out⟩)
      refine ⟨won.trans takes.symm, fun yes => absurd yes timed, fun _ wins => ?_, fun _ loses => ?_⟩
      · rw [new, count, if_pos (congrArg RouterReq.input (takes.1 wins))]
      · rw [new, count, if_neg (fun same => loses (takes.2 (h.eq_of_input hw xin (out.trans xout.symm) same))), ages w (rival.2 ⟨hw, out⟩)]

/-- A cycle's arbitration settles every request. -/
theorem State.arbitrate_settles {reqs : List RouterReq} (h : Requests reqs) (age : RouterReq → Nat) : ∀ (os : List Nat) (t : State), os.Nodup →
    (∀ o ∈ os, ∃ w ∈ reqs, reqOut w = o) →
    (∀ w ∈ reqs, reqOut w ∈ os → ageIn t.dev.ages w = age w ∧ (reqOut w, w.input) ∉ t.dev.winners) →
    let u := os.foldl (fun t o => t.arbitrateOutput (reqs.filter fun r => decide (reqOut r = o))) t
    (u.mem = t.mem ∧ u.ctxs = t.ctxs ∧ u.accs = t.accs ∧ u.job = t.job) ∧
    (∀ w ∈ reqs, reqOut w ∉ os → ageIn u.dev.ages w = ageIn t.dev.ages w ∧ ((reqOut w, w.input) ∈ u.dev.winners ↔ (reqOut w, w.input) ∈ t.dev.winners)) ∧
    ∀ w ∈ reqs, reqOut w ∈ os → u.settled age reqs w
  | [], _, _, _, _ => ⟨⟨rfl, rfl, rfl, rfl⟩, fun _ _ _ => ⟨rfl, .rfl⟩, fun _ _ h => absurd h List.not_mem_nil⟩
  | o :: os, t, once, asked, fresh => by
    obtain ⟨notIn, once⟩ := List.nodup_cons.1 once
    obtain ⟨w₀, mem, out⟩ := asked o (List.mem_cons_self ..)
    have same : (reqs.filter fun r => decide (reqOut r = o)) = rivalsOf reqs w₀ := by rw [rivalsOf, out]
    have first := State.arbitrateOutput_settles (t := t) h (age := age) mem fun w hw => by
      obtain ⟨hw, rout⟩ := List.mem_filter.1 hw
      exact fresh w hw (List.mem_cons.2 (.inl ((of_decide_eq_true rout).trans out)))
    rw [List.foldl_cons, same]
    generalize t.arbitrateOutput (rivalsOf reqs w₀) = t₁ at first ⊢
    obtain ⟨⟨mem₁, ctxs₁, accs₁, job₁⟩, apart₁, settled₁⟩ := first
    obtain ⟨⟨mem₂, ctxs₂, accs₂, job₂⟩, apart₂, settled₂⟩ := State.arbitrate_settles h age os t₁ once (fun o' ho => asked o' (List.mem_cons_of_mem _ ho)) fun w hw later => by
      obtain ⟨age', new⟩ := fresh w hw (List.mem_cons_of_mem _ later)
      obtain ⟨kept, same⟩ := apart₁ w hw fun e => notIn (by rw [← out, ← e]; exact later)
      exact ⟨kept.trans age', fun there => new (same.1 there)⟩
    refine ⟨⟨mem₂.trans mem₁, ctxs₂.trans ctxs₁, accs₂.trans accs₁, job₂.trans job₁⟩, fun w hw no => ?_, fun w hw yes => ?_⟩
    · rw [List.mem_cons, not_or] at no
      obtain ⟨kept, same⟩ := apart₂ w hw no.2
      obtain ⟨kept₁, same₁⟩ := apart₁ w hw (by rw [out]; exact no.1)
      exact ⟨kept.trans kept₁, same.trans same₁⟩
    · rcases List.mem_cons.1 yes with here | later
      · obtain ⟨won, timed, winner, loser⟩ := settled₁ w hw (here.trans out.symm)
        obtain ⟨kept, same⟩ := apart₂ w hw (by rw [here]; exact notIn)
        exact ⟨same.trans won, fun x => kept.trans (timed x), fun x y => kept.trans (winner x y), fun x y => kept.trans (loser x y)⟩
      · exact settled₂ w hw later

end Sys2Proof.Machine
end

section
/-! PROOF. O48: multicasts, timed sends and arbitration (R389 to R393). -/

namespace Sys2Proof.Machine

open Sys2Proof

theorem State.unitRead_length (s : State) (key n : Nat) : (s.unitRead key n).length = n := by
  unfold State.unitRead State.peek
  rw [List.length_mapIdx, Memory.length_read]

/-- The multicast that an MCAST of source `x` and descriptor `v` starts (R389, R390). -/
def State.newMcast (u : State) (d : BitVec 5) (v : Vec) (x : Word) : Mcast :=
  let l0 := lane v 64 0
  { seq := u.seq, ctx := u.cur, id := BitVec.ofNat 16 (natBits l0 63 48), group := if l0.testBit 31 then some (BitVec.ofNat 5 (natBits l0 44 40)) else none,
    src := u.ownKey x, lines := natBits l0 22 16 + 1, doff := natBits (lane v 64 1) 18 0, targets := mcastTargets v, index := 0, data := none, stored := 0, refused := 0,
    result := if d = 0 then none else some u.seq, after := u.ownAccesses, held := false, holds := none, resets := [] }

/-- MCAST goes out to its checks (R384, R389). -/
theorem exec_mcast {s : State} {a b d : BitVec 5} (ready : s.ready [.x a, .v b, .x d]) (free : s.job.superstep = false) (sw : Bool) :
    exec (.mcast sw d a b) s = .next (
      let u := s.issued [.x a, .v b]
      let v := s.readV b
      let l0 := lane v 64 0
      let lines := natBits l0 22 16 + 1
      let doff := natBits (lane v 64 1) 18 0
      let g := BitVec.ofNat 5 (natBits l0 44 40)
      let ts := mcastTargets v
      if badMcast v = true ∨ ascending ts = false ∨ s.core.num ∈ ts ∨ (ts.any fun c => !decide (c ∈ s.job.cores)) = true ∨ 0x80000 < doff + 64 * lines ∨
          (l0.testBit 31 = true ∧ s.badGroup g = true) then u.illegal
      else u.spanCheck (s.readX a) (64 * lines) 64 fun u =>
        if 2 ≤ u.core.mcasts.countP fun m => decide (m.ctx = u.cur) then u.block .other 0 0
        else
          let t := u.writeLater (.x d) 0 1
          let m := u.newMcast d v (u.readX a)
          (((t.modCore fun c => { c with mcasts := c.mcasts ++ [m] }).post (.mcastHop u.cur u.seq false)).signMcast ts doff
            (u.seen u.cur m.src (64 * lines))).retire sw 4) := by
  have run : exec (.mcast sw d a b) s = execMcast sw d a b s := rfl
  rw [execMcast, State.issue_issued (by simpa using ready), State.freeJob, if_neg (by rw [show (s.issued [.x a, .v b]).job.superstep = false from free]; exact Bool.false_ne_true)] at run
  dsimp only at run
  rw [State.readV_issued, State.readX_issued] at run
  exact run

/-- A timed send: signed, and then withheld where the pair's words differ, or stored (R160, R163, R391). -/
theorem State.timedSend_does (s : State) (dest : Word) (v : Vec) : ∃ x y, let t : State := { s with core := { s.core with sig := x, partnerSig := y } }
    s.timedSend dest v = if s.job.redun = true ∧ s.core.upset = true then t.modCore fun c => { c with upset := false, withheld := true }
      else t.pokePair s.source (scratchKey (natBits dest.toNat 55 44) (natBits dest.toNat 18 0)) (scratchKey (natBits dest.toNat 55 44 ^^^ 1) (natBits dest.toNat 18 0))
        (bytesOfNat v.toNat 64) := by
  obtain ⟨x, y, signed⟩ := s.sign_units dest.toNat 64 (bytesOfNat v.toNat 64)
  refine ⟨x, y, ?_⟩
  unfold State.timedSend
  dsimp only
  rw [signed]
  rfl

/-- A timed send has changed no register, and its context goes on. -/
theorem State.timedSend_calm (s : State) (rs : List Reg) (dest : Word) (v : Vec) (sw : Bool) : let t := ((s.issued rs).timedSend dest v).retire sw 4
    s.sameRegs t ∧ s.goesOn t sw 4 1 ∧ t.accs = s.accs := by
  intro t
  obtain ⟨x, y, eq⟩ := (s.issued rs).timedSend_does dest v
  have facts : ∃ m : State, (s.issued rs).timedSend dest v = m ∧ m.ctx = (s.issued rs).ctx ∧ m.cycle = s.cycle ∧ m.accs = s.accs := by
    refine ⟨_, eq, ?_⟩
    split
    · exact ⟨rfl, rfl, rfl⟩
    · have only := State.pokePair_onlyRecords { s.issued rs with core := { (s.issued rs).core with sig := x, partnerSig := y } } (s.issued rs).source
        (scratchKey (natBits dest.toNat 55 44) (natBits dest.toNat 18 0)) (scratchKey (natBits dest.toNat 55 44 ^^^ 1) (natBits dest.toNat 18 0)) (bytesOfNat v.toNat 64)
      exact ⟨only.ctx, only.cycle, only.accs⟩
  obtain ⟨m, same, ctx, cycle, accs⟩ := facts
  have done : t = m.retire sw 4 := by rw [← same]
  rw [done]
  obtain ⟨regs, goes⟩ := State.completes ctx cycle sw 4 1
  exact ⟨regs, goes, accs⟩

/-- Settles O48: a multicast's hop, a timed send, and one cycle's arbitration. -/
theorem multicastsTimedSendsAndArbitration : Obligations.MulticastsTimedSendsAndArbitration := by
  unfold Obligations.MulticastsTimedSendsAndArbitration
  intro s sw a b d slot X v l0 n doff ts traps bad regs quiet stored
  refine ⟨fun ready free => ?_, fun m c cs mem one targets data => ?_, fun ready => ?_, fun reqs small once one => ?_⟩
  · have run := exec_mcast ready free sw
    dsimp only at run
    have bad_iff : bad ↔ (badMcast v = true ∨ ascending ts = false ∨ s.core.num ∈ ts ∨ (ts.any fun c => !decide (c ∈ s.job.cores)) = true ∨ 0x80000 < doff + 64 * n ∨
          (l0.testBit 31 = true ∧ s.badGroup (BitVec.ofNat 5 (natBits l0 44 40)) = true)) := by
      rw [List.any_eq_true]
      simp only [Bool.not_eq_true', decide_eq_false_iff_not]
      exact Iff.rfl
    refine ⟨fun wrong => ?_, fun fine off => ?_, fun fine aligned f fault => ?_, fun fine aligned inside => ⟨fun full => ?_, fun room => ?_⟩⟩
    · rw [if_pos (bad_iff.1 wrong)] at run
      exact State.refuses_illegal run
    · rw [if_neg (fun h => fine (bad_iff.2 h)), State.spanCheck_fault (e := addressFault 3 X) (show s.spanFault X (64 * n) 64 = _ from if_pos off)] at run
      exact State.refuses_fault run
    · rw [if_neg (fun h => fine (bad_iff.2 h)), State.spanCheck_fault (e := f) (show s.spanFault X (64 * n) 64 = _ from (if_neg (fun h => h aligned)).trans fault)] at run
      exact State.refuses_fault run
    · rw [if_neg (fun h => fine (bad_iff.2 h)), State.spanCheck_ok (show s.spanFault X (64 * n) 64 = none from (if_neg (fun h => h aligned)).trans inside),
        if_pos (show 2 ≤ (s.issued [.x a, .v b]).core.mcasts.countP fun m => decide (m.ctx = (s.issued [.x a, .v b]).cur) from full)] at run
      exact ⟨_, run, s.issued_block_waits ready.1 ..⟩
    · rw [if_neg (fun h => fine (bad_iff.2 h)), State.spanCheck_ok (show s.spanFault X (64 * n) 64 = none from (if_neg (fun h => h aligned)).trans inside),
        if_neg (show ¬ 2 ≤ (s.issued [.x a, .v b]).core.mcasts.countP fun m => decide (m.ctx = (s.issued [.x a, .v b]).cur) from Nat.not_le.2 room)] at run
      have readX : (s.issued [.x a, .v b]).readX a = X := State.readX_issued ..
      rw [readX] at run
      have only := (s.issued [.x a, .v b]).writeLater_onlySends (.x d) 0 1
      have amid' := (s.issued [.x a, .v b]).writeLater_amid (.x d) 0 1
      have awaits' := (s.issued [.x a, .v b]).writeLater_awaits (.x d) 0 1
      have mem' := (s.issued [.x a, .v b]).writeLater_mem (.x d) 0 1
      generalize (s.issued [.x a, .v b]).writeLater (.x d) 0 1 = t at run only amid' awaits' mem'
      have core : t.core = s.core := (congrArg State.core only :)
      have job : t.job = s.job := (congrArg State.job only :)
      let m := (s.issued [.x a, .v b]).newMcast d v X
      obtain ⟨x, y, signed, plain⟩ := State.signMcast_units doff ((s.issued [.x a, .v b]).seen s.cur m.src (64 * n)) ts
        ((t.modCore fun c => { c with mcasts := c.mcasts ++ [m] }).post (.mcastHop s.cur s.seq false))
      have run := run.trans (congrArg (fun u : State => Host.Outcome.next (u.retire sw 4)) signed)
      have id_ : (BitVec.ofNat 16 (natBits l0 63 48)).toNat = natBits l0 63 48 := by
        rw [BitVec.toNat_ofNat]
        exact Nat.mod_eq_of_lt (Nat.mod_lt _ (by decide))
      refine ⟨_, m, run, ?_, ?_, mem', ?_, fun plain' => ?_, rfl, rfl, rfl, rfl, rfl, rfl, rfl, rfl, id_, rfl, rfl, rfl, rfl, rfl, rfl,
        List.mem_append_right _ (List.mem_singleton.2 rfl), fun y hy own near => State.mem_ownAccesses (s := s.issued [.x a, .v b]) hy own near⟩
      · exact (awaits'.of_sameRegs (s.issued_sameRegs [.x a, .v b]) rfl).then_sameRegs (State.sameRegs.trans ⟨fun _ => rfl, rfl⟩ (State.retireAfter_sameRegs ..))
      · refine State.amid.goesOn ?_ sw 4 1
        exact ((s.issued_amid [.x a, .v b]).trans amid').trans ⟨rfl, .refl _, rfl⟩
      · show ({ t.core with mcasts := t.core.mcasts ++ [m], sig := x, partnerSig := y } : Core) = { s.core with mcasts := s.core.mcasts ++ [m], sig := x, partnerSig := y }
        rw [core]
      · have same := plain (show t.job.redun = false from job ▸ plain')
        exact core ▸ same
  · intro key pair D ended goes broken
    have size : D.length = 64 * m.lines := by
      show (m.data.getD (s.unitRead m.src (64 * m.lines))).length = _
      cases have_ : m.data with
      | none => exact State.unitRead_length ..
      | some l => exact data l have_
    have finish (t : State) (st rf : Nat) (mcasts : t.core.mcasts = s.core.mcasts) (ctxs : t.ctxs = s.ctxs) :
        let m' : Mcast := { m with data := some D, targets := cs, index := m.index + 1, holds := some c, stored := st, refused := rf }
        let u := (if cs.isEmpty then t.mcastDone m' else (t.setMcast m.seq (some m')).post (.mcastHop m.ctx m.seq false)).wake
        t.forwards u ∧ regs u ∧ goes u st rf := by
      intro m' u
      have same (k : Fin 11) : t.ctxAt k = s.ctxAt k := by
        unfold State.ctxAt
        rw [ctxs]
      by_cases last : cs = []
      · obtain ⟨forwards, gone, writes⟩ := t.mcastDone_ends m'
        have eq : u = (t.mcastDone m').wake := by
          show (if cs.isEmpty then _ else _ : State).wake = _
          rw [if_pos (List.isEmpty_iff.2 last)]
        rw [eq]
        exact ⟨forwards, fun k r => by rw [forwards.regs, same], fun _ => ⟨gone, fun w h => by rw [← same]; exact writes w h⟩, fun some => absurd last some⟩
      · obtain ⟨forwards, posted, set⟩ := t.setMcast_goes (m := m) (m' := m') (by rw [mcasts]; exact mem) (.mcastHop m.ctx m.seq false)
        have eq : u = ((t.setMcast m.seq (some m')).post (.mcastHop m.ctx m.seq false)).wake := by
          show (if cs.isEmpty then _ else _ : State).wake = _
          rw [if_neg (fun h => last (List.isEmpty_iff.1 h))]
        rw [eq]
        exact ⟨forwards, fun k r => by rw [forwards.regs, same], fun none => absurd none last, fun _ => ⟨posted, _, set, rfl⟩⟩
    have goes_ (whole : ¬ broken) (clear : ∀ y ∈ s.accs, y.seq ∉ m.after) (free : s.bufferTaken m c = false) := by
      have run := exec_mcastHop mem one targets false
      rw [if_neg (show ¬ (false = true ∨ (m.resets.any (inCluster · c)) = true) from fun h => h.elim Bool.false_ne_true whole),
        if_neg (show ¬ ((s.accs.any fun a => decide (a.seq ∈ m.after)) = true ∨ s.bufferTaken m c = true) from by
          rintro (waits | taken)
          · obtain ⟨y, hy, after⟩ := List.any_eq_true.1 waits
            exact clear y hy (of_decide_eq_true after)
          · rw [free] at taken
            cases taken)] at run
      exact run
    refine ⟨fun whole held => ?_, fun r stops => ?_, fun whole clear free => ⟨fun open_ => ?_, fun taken => ?_⟩⟩
    · have run := exec_mcastHop mem one targets false
      rw [if_neg (show ¬ (false = true ∨ (m.resets.any (inCluster · c)) = true) from fun h => h.elim Bool.false_ne_true whole),
        if_pos (by rw [List.any_eq_true]; exact held.imp (fun ⟨y, hy, after⟩ => ⟨y, hy, decide_eq_true after⟩) id)] at run
      exact ⟨_, run, rfl, List.mem_filterMap.2 ⟨m, mem, if_pos rfl⟩⟩
    · have run := exec_mcastHop mem one targets r
      rw [if_pos stops] at run
      obtain ⟨forwards, gone, writes⟩ := s.mcastDone_ends { m with refused := m.refused + 2 ^ m.index * (2 ^ (cs.length + 1) - 1) }
      exact ⟨_, run, forwards.regs, forwards.mem, gone, writes⟩
    · have run := goes_ whole clear free
      obtain ⟨t, eq, mcasts, ctxs, arrives, bytes⟩ := State.mcastStore_stores (s := s) (doff := m.doff) (data := D) (by rw [size]; exact open_) (s.sourceOf m.ctx) m.id m.group c
      dsimp only at run
      rw [show s.mcastStore (s.sourceOf m.ctx) m.id m.group m.doff c (m.data.getD (s.unitRead m.src (64 * m.lines))) = (t, true) from eq] at run
      obtain ⟨forwards, same, going⟩ := finish t (m.stored + 1) m.refused mcasts ctxs
      refine ⟨_, run, same, going, fun g h => forwards.posted _ (arrives g h), fun hush hush' q => ?_⟩
      have apart : pair = key + Config.scratchBytes ∨ key = pair + Config.scratchBytes := by
        have xor : (c ^^^ 1).toNat = c.toNat ^^^ 1 := BitVec.toNat_xor ..
        show scratchKey (c ^^^ 1).toNat m.doff = _ ∨ _ = scratchKey (c ^^^ 1).toNat m.doff + _
        rw [xor]
        exact scratchKey_apart c.toNat m.doff
      have stored := State.pokePair_bytes (s := s) (data := D) apart (by rw [size]; exact hush) (fun h => by rw [size]; exact hush' h) (s.sourceOf m.ctx) q
      rw [size] at stored
      refine Eq.trans ?_ stored
      exact congrArg (fun l => Memory.byte l q) (forwards.mem.trans bytes)
    · have run := goes_ whole clear free
      obtain ⟨t, eq, mcasts, ctxs, logged, bytes⟩ := State.mcastStore_refuses (s := s) (doff := m.doff) (data := D) (by rw [size]; exact taken) (s.sourceOf m.ctx) m.id m.group c
      dsimp only at run
      rw [show s.mcastStore (s.sourceOf m.ctx) m.id m.group m.doff c (m.data.getD (s.unitRead m.src (64 * m.lines))) = (t, false) from eq] at run
      obtain ⟨forwards, same, going⟩ := finish t m.stored (m.refused + 2 ^ m.index) mcasts ctxs
      refine ⟨_, run, same, going, ?_, fun q out => ?_⟩
      · exact (congrArg Job.logged forwards.job).trans logged
      · exact (congrArg (fun l => Memory.byte l q) forwards.mem).trans (bytes q out)
  · have run : exec (.sendt sw d a slot) s = execSendt sw d a slot s := rfl
    rw [execSendt, State.issue_issued (by simpa using ready)] at run
    rw [State.readX_issued, State.readV_issued] at run
    refine ⟨fun phase => ?_, fun super exchange => ?_⟩
    · rw [if_pos (show (s.issued [.v d, .x a]).job.superstep = false ∨ (s.issued [.v d, .x a]).exchange = false from phase)] at run
      exact State.refuses_phase run
    · rw [if_neg (show ¬ ((s.issued [.v d, .x a]).job.superstep = false ∨ (s.issued [.v d, .x a]).exchange = false) from by
        rintro (off | off)
        · rw [show (s.issued [.v d, .x a]).job.superstep = true from super] at off
          cases off
        · rw [show (s.issued [.v d, .x a]).exchange = true from exchange] at off
          cases off)] at run
      refine ⟨fun none => ?_, fun e found => ?_⟩
      · have missing : ((s.issued [.v d, .x a]).job.xsched.find? fun e => decide (e.slot = slot)) = Option.none :=
          List.find?_eq_none.2 fun e he same => none e he (of_decide_eq_true same)
        rw [missing] at run
        exact State.refuses_trapHere run
      · rw [show ((s.issued [.v d, .x a]).job.xsched.find? fun e => decide (e.slot = slot)) = some e from found] at run
        dsimp only at run
        refine ⟨fun early => ?_, fun now other => ?_, fun now there => ?_⟩
        · rw [if_pos (show (s.issued [.v d, .x a]).xc ≠ e.t from early)] at run
          exact State.refuses_trapHere run
        · rw [if_neg (show ¬ (s.issued [.v d, .x a]).xc ≠ e.t from fun h => h now), if_pos (show s.readX a ≠ e.dest from other)] at run
          exact State.refuses_trapHere run
        · rw [if_neg (show ¬ (s.issued [.v d, .x a]).xc ≠ e.t from fun h => h now), if_neg (show ¬ s.readX a ≠ e.dest from fun h => h there),
            show e.dest = X from there.symm] at run
          obtain ⟨regs', goes', accs'⟩ := s.timedSend_calm [.v d, .x a] X (s.readV d) sw
          obtain ⟨x, y, eq⟩ := (s.issued [.v d, .x a]).timedSend_does X (s.readV d)
          refine ⟨_, run, regs', goes', accs', fun redun upset => ?_, fun agree hush hush' q => ?_⟩
          · rw [eq, if_pos ⟨redun, upset⟩]
            exact ⟨rfl, rfl, rfl⟩
          · rw [eq, if_neg (show ¬ ((s.issued [.v d, .x a]).job.redun = true ∧ (s.issued [.v d, .x a]).core.upset = true) from by
              rintro ⟨redun, upset⟩
              rcases agree with off | off
              · rw [show s.job.redun = true from redun] at off
                cases off
              · rw [show s.core.upset = true from upset] at off
                cases off)]
            have long : (bytesOfNat (s.readV d).toNat 64).length = 64 := length_bytesOfNat ..
            have stored := State.pokePair_bytes (s := { s.issued [.v d, .x a] with core := { (s.issued [.v d, .x a]).core with sig := x, partnerSig := y } })
              (data := bytesOfNat (s.readV d).toNat 64) (scratchKey_apart (natBits X.toNat 55 44) (natBits X.toNat 18 0))
              (by rw [long]; exact hush) (fun h => by rw [long]; exact hush' h) s.source q
            rw [long] at stored
            refine Eq.trans stored ?_
            refine ite_congr rfl (fun ⟨_, low, high⟩ => ?_) fun _ => ite_congr rfl (fun ⟨low, high⟩ => ?_) fun _ => rfl
            · exact getD_bytesOfNat (s.readV d).toNat (Nat.sub_lt_left_of_lt_add low high)
            · exact getD_bytesOfNat (s.readV d).toNat (Nat.sub_lt_left_of_lt_add low high)
  · intro age rivals timed wins
    have kept : (reqs.filter fun r => decide (r.input.toNat < 5)) = reqs := List.filter_eq_self.2 fun r hr => decide_eq_true (small r hr)
    have run : exec (.routerArbitration reqs) s = execRouterArbitration reqs s := rfl
    rw [execRouterArbitration] at run
    dsimp only at run
    rw [kept] at run
    obtain ⟨⟨mem, ctxs, accs, job⟩, -, settled⟩ := State.arbitrate_settles ⟨once, one⟩ age (reqs.map reqOut).dedup { s with dev := { s.dev with winners := [] } } (List.nodup_dedup _)
      (fun o ho => List.mem_map.1 (List.mem_dedup.1 ho)) fun w _ _ => ⟨rfl, List.not_mem_nil⟩
    refine ⟨_, run, mem, ctxs, accs, job, fun w hw => ?_⟩
    obtain ⟨won, timed', winner, loser⟩ := settled w hw (List.mem_dedup.2 (List.mem_map_of_mem hw))
    exact ⟨won, timed', winner, loser⟩

end Sys2Proof.Machine
end

section
/-! SUPPORT. Memory stays canonical under the operations that instructions share, and under translation and issue. -/

namespace Sys2Proof.Machine

open Sys2Proof

/-- What the machine answers keeps memory canonical, when it answers a state. -/
def Outcome.Safe : Host.Outcome State Fault Refusal → Prop
  | .next t => Sys2Proof.Safe t
  | _ => True

theorem Safe.of_fst {α : Type} {p : State × α} {t : State} {a : α} (e : p = (t, a)) (h : Safe p.1) : Safe t := by rw [e] at h; exact h

theorem Safe.of_mem {s t : State} (h : Safe s) (e : t.mem = s.mem) : Safe t := by rw [Safe, e]; exact h

/-- Doing one thing after another for a list keeps memory canonical when each does. -/
theorem Safe.foldl {α : Type} {s : State} {f : State → α → State} (h : Safe s) (hf : ∀ t a, Safe t → Safe (f t a)) (l : List α) : Safe (l.foldl f s) := by
  induction l generalizing s with
  | nil => exact h
  | cons a l ih => exact ih (hf s a h)

/-! ## The shared operations -/

theorem State.modCtx_safe {s : State} (hs : Safe s) (f : Ctx → Ctx) : Safe (State.modCtx s f) := hs

theorem State.focus_safe {s : State} (hs : Safe s) (n : Fin 11) : Safe (State.focus s n) := hs

theorem State.modCtxAt_safe {s : State} (hs : Safe s) (n : Fin 11) (f : Ctx → Ctx) : Safe (State.modCtxAt s n f) := hs

theorem State.modCore_safe {s : State} (hs : Safe s) (f : Core → Core) : Safe (State.modCore s f) := hs

theorem State.writeX_safe {s : State} (hs : Safe s) (r : BitVec 5) (v : Word) (lat : Nat) : Safe (State.writeX s r v lat) := hs

theorem State.post_safe {s : State} (hs : Safe s) (e : Instr) : Safe (State.post s e) := hs

theorem State.writeLater_safe {s : State} (hs : Safe s) (r : Reg) (v : Vec) (need : Nat) : Safe (State.writeLater s r v need) := by
  unfold State.writeLater
  split <;> exact hs

theorem State.writeLate_safe {s : State} (hs : Safe s) (r : Reg) (v : Vec) (lat : Nat) : Safe (State.writeLate s r v lat) := by
  unfold State.writeLate
  split <;> exact hs

theorem State.writeFrom_safe {s : State} (hs : Safe s) (r : Reg) (v : Vec) (lat : Nat) : Safe (State.writeFrom s r v lat) := by
  unfold State.writeFrom
  split <;> exact hs

theorem State.fill_safe {s : State} (hs : Safe s) (n : Fin 11) (seq : Nat) (f : Vec → Vec) (dead : Bool) : Safe (State.fill s n seq f dead) := by
  unfold State.fill
  dsimp only
  split <;> exact hs

theorem State.formWrite_safe {s : State} (hs : Safe s) (n : Fin 11) (seq : Nat) (v : Vec) : Safe (State.formWrite s n seq v) := State.fill_safe hs ..

theorem State.count_safe {s : State} (hs : Safe s) (ev : BitVec 8) : Safe (State.count s ev) := by
  unfold State.count
  split <;> exact hs

theorem State.tick_safe {s : State} (hs : Safe s) : Safe (State.tick s) := hs

theorem State.halt_safe {s : State} (hs : Safe s) : Safe (State.halt s) := hs

theorem State.stopJob_safe {s : State} (hs : Safe s) : Safe (State.stopJob s) := State.halt_safe (Safe.foldl hs (fun _ _ h => State.trace_safe h ..) ..)

theorem State.answer_safe {s : State} (hs : Safe s) (bs : List Byte) : Safe (State.answer s bs) := hs

theorem State.acquire_safe {s : State} (hs : Safe s) (c : Scope) : Safe (State.acquire s c) := hs

theorem State.acquireFrom_safe {s : State} (hs : Safe s) (n : Nat) (c : Scope) : Safe (State.acquireFrom s n c) := hs

theorem State.dropEarly_safe {s : State} (hs : Safe s) (n : Fin 11) (key : Nat) (len : Nat) : Safe (State.dropEarly s n key len) := hs

theorem State.forgetEarly_safe {s : State} (hs : Safe s) (n : Fin 11) : Safe (State.forgetEarly s n) := hs

theorem State.sign_safe {s : State} (hs : Safe s) (addr : Nat) (width : Nat) (data : List Byte) : Safe (State.sign s addr width data) := by
  unfold State.sign
  split <;> exact hs

theorem State.push_safe {s : State} (hs : Safe s) (a : Acc) : Safe (State.push s a) := hs

theorem State.addBarrier_safe {s : State} (hs : Safe s) (b : Barrier) : Safe (State.addBarrier s b) := hs

theorem State.wake_safe {s : State} (hs : Safe s) : Safe (State.wake s) := hs

theorem State.dropAcc_safe {s : State} (hs : Safe s) (a : Acc) : Safe (State.dropAcc s a) := hs

theorem State.landSlot_safe {s : State} (hs : Safe s) (n : Fin 11) (t : BitVec 5) (f : Slot → Slot) :
    Safe (State.landSlot s n t f) := State.count_safe (State.modCtxAt_safe hs ..) ..

theorem State.setFull_safe {s : State} (hs : Safe s) (key : Nat) (b : Bool) : Safe (State.setFull s key b) := hs

theorem State.addHalf_safe {s : State} (hs : Safe s) (source : Nat) (key : Nat) (data : List Byte) : Safe (State.addHalf s source key data) := hs

theorem State.finishUnits_safe {s : State} (hs : Safe s) (key : Nat) (n : Nat) : Safe (State.finishUnits s key n) := by
  unfold State.finishUnits
  exact State.finishHalves_safe (Safe.foldl hs (fun t1 x h => by
    split
    · split
      · exact State.performAcc_safe h ..
      · exact h
    · exact h) ..) ..

theorem State.idle_safe {s : State} (hs : Safe s) : Safe (State.idle s) := hs

theorem State.releaseJob_safe {s : State} (hs : Safe s) : Safe (State.releaseJob s) := hs

theorem State.abortCmds_safe {s : State} (hs : Safe s) : Safe (State.abortCmds s) := hs

theorem State.stopContexts_safe {s : State} (hs : Safe s) (reason : Nat) : Safe (State.stopContexts s reason) := by
  unfold State.stopContexts
  split <;> exact hs

theorem State.raiseAfter_safe {s : State} (hs : Safe s) (t : TrapInfo) (hold : Nat) : Safe (State.raiseAfter s t hold) := by
  unfold State.raiseAfter
  split
  · exact State.raise_safe hs ..
  · exact hs

theorem State.retireAfter_safe {s : State} (hs : Safe s) (sw : Bool) (size : Nat) (gap : Nat) : Safe (State.retireAfter s sw size gap) := hs

theorem State.retire_safe {s : State} (hs : Safe s) (sw : Bool) (size : Nat) : Safe (State.retire s sw size) := hs

theorem State.block_safe {s : State} (hs : Safe s) (kind : WaitKind) (q : BitVec 8) (addr : Word) : Safe (State.block s kind q addr) := hs

theorem State.waitOn_safe {s : State} (hs : Safe s) (kind : WaitKind) (q : BitVec 8) (addr : Word) : Safe (State.waitOn s kind q addr) := hs

/-! ## Scalar instructions -/

theorem State.binary_safe {s : State} (hs : Safe s) (sw : Bool) (d : BitVec 5) (a : BitVec 5) (b : BitVec 5) (lat : Nat) (f : Word → Word → Word) :
    Safe (State.binary s sw d a b lat f) := State.issue_safe hs _ _ (fun _ h => h)

theorem State.unary_safe {s : State} (hs : Safe s) (sw : Bool) (d : BitVec 5) (a : BitVec 5) (lat : Nat) (size : Nat) (f : Word → Word) :
    Safe (State.unary s sw d a lat size f) := State.issue_safe hs _ _ (fun _ h => h)

theorem execAdd_safe {s : State} (hs : Safe s) (sw : Bool) (d : BitVec 5) (a : BitVec 5) (b : BitVec 5) (t : IntTy) (v : Variant) :
    Outcome.Safe (execAdd sw d a b t v s) := State.binary_safe hs ..

theorem execSub_safe {s : State} (hs : Safe s) (sw : Bool) (d : BitVec 5) (a : BitVec 5) (b : BitVec 5) (t : IntTy) (v : Variant) :
    Outcome.Safe (execSub sw d a b t v s) := State.binary_safe hs ..

theorem execMul_safe {s : State} (hs : Safe s) (sw : Bool) (d : BitVec 5) (a : BitVec 5) (b : BitVec 5) (t : IntTy) (v : Variant) :
    Outcome.Safe (execMul sw d a b t v s) := State.binary_safe hs ..

theorem execMulh_safe {s : State} (hs : Safe s) (sw : Bool) (d : BitVec 5) (a : BitVec 5) (b : BitVec 5) (t : IntTy) :
    Outcome.Safe (execMulh sw d a b t s) := State.binary_safe hs ..

theorem execDiv_safe {s : State} (hs : Safe s) (sw : Bool) (d : BitVec 5) (a : BitVec 5) (b : BitVec 5) (t : IntTy) :
    Outcome.Safe (execDiv sw d a b t s) := State.binary_safe hs ..

theorem execRem_safe {s : State} (hs : Safe s) (sw : Bool) (d : BitVec 5) (a : BitVec 5) (b : BitVec 5) (t : IntTy) :
    Outcome.Safe (execRem sw d a b t s) := State.binary_safe hs ..

theorem execAnd_safe {s : State} (hs : Safe s) (sw : Bool) (d : BitVec 5) (a : BitVec 5) (b : BitVec 5) (t : IntTy) :
    Outcome.Safe (execAnd sw d a b t s) := State.binary_safe hs ..

theorem execOr_safe {s : State} (hs : Safe s) (sw : Bool) (d : BitVec 5) (a : BitVec 5) (b : BitVec 5) (t : IntTy) :
    Outcome.Safe (execOr sw d a b t s) := State.binary_safe hs ..

theorem execXor_safe {s : State} (hs : Safe s) (sw : Bool) (d : BitVec 5) (a : BitVec 5) (b : BitVec 5) (t : IntTy) :
    Outcome.Safe (execXor sw d a b t s) := State.binary_safe hs ..

theorem execShl_safe {s : State} (hs : Safe s) (sw : Bool) (d : BitVec 5) (a : BitVec 5) (b : BitVec 5) (t : IntTy) :
    Outcome.Safe (execShl sw d a b t s) := State.binary_safe hs ..

theorem execShr_safe {s : State} (hs : Safe s) (sw : Bool) (d : BitVec 5) (a : BitVec 5) (b : BitVec 5) (t : IntTy) :
    Outcome.Safe (execShr sw d a b t s) := State.binary_safe hs ..

theorem execSra_safe {s : State} (hs : Safe s) (sw : Bool) (d : BitVec 5) (a : BitVec 5) (b : BitVec 5) (t : IntTy) :
    Outcome.Safe (execSra sw d a b t s) := State.binary_safe hs ..

theorem execClz_safe {s : State} (hs : Safe s) (sw : Bool) (d : BitVec 5) (a : BitVec 5) (t : IntTy) :
    Outcome.Safe (execClz sw d a t s) := State.unary_safe hs ..

theorem execCtz_safe {s : State} (hs : Safe s) (sw : Bool) (d : BitVec 5) (a : BitVec 5) (t : IntTy) :
    Outcome.Safe (execCtz sw d a t s) := State.unary_safe hs ..

theorem execPopc_safe {s : State} (hs : Safe s) (sw : Bool) (d : BitVec 5) (a : BitVec 5) (t : IntTy) :
    Outcome.Safe (execPopc sw d a t s) := State.unary_safe hs ..

theorem execMin_safe {s : State} (hs : Safe s) (sw : Bool) (d : BitVec 5) (a : BitVec 5) (b : BitVec 5) (t : IntTy) :
    Outcome.Safe (execMin sw d a b t s) := State.binary_safe hs ..

theorem execMax_safe {s : State} (hs : Safe s) (sw : Bool) (d : BitVec 5) (a : BitVec 5) (b : BitVec 5) (t : IntTy) :
    Outcome.Safe (execMax sw d a b t s) := State.binary_safe hs ..

theorem execBfx_safe {s : State} (hs : Safe s) (sw : Bool) (d : BitVec 5) (a : BitVec 5) (b : BitVec 5) (t : IntTy) :
    Outcome.Safe (execBfx sw d a b t s) := State.binary_safe hs ..

theorem execBfi_safe {s : State} (hs : Safe s) (sw : Bool) (d : BitVec 5) (a : BitVec 5) (b : BitVec 5) (y4 : IntTy) :
    Outcome.Safe (execBfi sw d a b y4 s) := State.issue_safe hs _ _ (fun _ h => h)

theorem execAbs_safe {s : State} (hs : Safe s) (sw : Bool) (d : BitVec 5) (a : BitVec 5) (t : IntTy) (v : Variant) :
    Outcome.Safe (execAbs sw d a t v s) := State.unary_safe hs ..

theorem execAddi_safe {s : State} (hs : Safe s) (sw : Bool) (d : BitVec 5) (a : BitVec 5) (imm : BitVec 13) (ext : Ext) :
    Outcome.Safe (execAddi sw d a imm ext s) := State.unary_safe hs ..

theorem execMuli_safe {s : State} (hs : Safe s) (sw : Bool) (d : BitVec 5) (a : BitVec 5) (imm : BitVec 13) (ext : Ext) :
    Outcome.Safe (execMuli sw d a imm ext s) := State.unary_safe hs ..

theorem execAndi_safe {s : State} (hs : Safe s) (sw : Bool) (d : BitVec 5) (a : BitVec 5) (imm : BitVec 13) (ext : Ext) :
    Outcome.Safe (execAndi sw d a imm ext s) := State.unary_safe hs ..

theorem execOri_safe {s : State} (hs : Safe s) (sw : Bool) (d : BitVec 5) (a : BitVec 5) (imm : BitVec 13) (ext : Ext) :
    Outcome.Safe (execOri sw d a imm ext s) := State.unary_safe hs ..

theorem execXori_safe {s : State} (hs : Safe s) (sw : Bool) (d : BitVec 5) (a : BitVec 5) (imm : BitVec 13) (ext : Ext) :
    Outcome.Safe (execXori sw d a imm ext s) := State.unary_safe hs ..

theorem execShli_safe {s : State} (hs : Safe s) (sw : Bool) (d : BitVec 5) (a : BitVec 5) (imm : BitVec 6) :
    Outcome.Safe (execShli sw d a imm s) := State.unary_safe hs ..

theorem execShri_safe {s : State} (hs : Safe s) (sw : Bool) (d : BitVec 5) (a : BitVec 5) (imm : BitVec 6) :
    Outcome.Safe (execShri sw d a imm s) := State.unary_safe hs ..

theorem execSrai_safe {s : State} (hs : Safe s) (sw : Bool) (d : BitVec 5) (a : BitVec 5) (imm : BitVec 6) :
    Outcome.Safe (execSrai sw d a imm s) := State.unary_safe hs ..

/-! ## Translation and checks -/

theorem State.noteFrame_safe {s : State} (hs : Safe s) (e : TlbEntry) : Safe (State.noteFrame s e) := hs

theorem State.walkFor_safe {s : State} (hs : Safe s) (a : Word) : Safe (State.walkFor s a).1 := by
  have counted := State.count_safe (State.count_safe hs 11) 12
  unfold State.walkFor
  dsimp only
  split
  · exact counted
  next level w _ =>
    have noted := State.noteFrame_safe counted { va := a.toNat / pageBytes level * pageBytes level, level, leaf := w }
    split
    · exact counted
    · generalize State.noteFrame _ _ = t at noted ⊢
      exact noted

theorem State.translate_safe {s : State} (hs : Safe s) (a : Word) : Safe (State.translate s a).1 := by
  unfold State.translate
  split
  · exact hs
  · split
    · exact hs
    · split
      · exact hs
      · exact State.walkFor_safe hs ..

theorem State.check_safe {s : State} (hs : Safe s) (acc : Access) (a : Word) (n : Nat) (align : Nat) (exchange : Bool) :
    Safe (State.check s acc a n align exchange).1 := by
  unfold State.check
  split
  · exact hs
  · split
    · exact hs
    · split
      · exact hs
      · split
        · rename_i e
          split
          · exact Safe.of_fst e (State.translate_safe hs ..)
          · split
            · exact Safe.of_fst e (State.translate_safe hs ..)
            · exact Safe.of_fst e (State.translate_safe hs ..)
  · exact hs
  · exact hs

theorem State.trapAccess_safe {s : State} (hs : Safe s) (f : AccessFault) (hold : Nat) : Safe (State.trapAccess s f hold) := State.raiseAfter_safe hs ..

theorem State.access_safe {s : State} (hs : Safe s) (acc : Access) (a : Word) (n : Nat) (align : Nat) {k : State → Place → Nat → State}
    (hk : ∀ t x1 x2, Safe t → Safe (k t x1 x2)) :
    Safe (State.access s acc a n align k) := by
  unfold State.access
  split
  · rename_i e
    exact State.trapAccess_safe (Safe.of_fst e (State.check_safe hs ..)) ..
  · rename_i e
    exact hk _ _ _ (Safe.of_fst e (State.check_safe hs ..))

theorem State.logBad_safe {s : State} (hs : Safe s) (deferred : Bool) (source : Nat) (a : Word) :
    Safe (State.logBad s deferred source a) := State.logEntry_safe hs ..

theorem State.checkOwn_safe {s : State} (hs : Safe s) (a : Word) (n : Nat) (align : Nat) : Safe (State.checkOwn s a n align).1 := by
  unfold State.checkOwn
  split
  · rename_i e
    exact Safe.of_fst e (State.check_safe hs ..)
  · rename_i e
    exact Safe.of_fst e (State.check_safe hs ..)

theorem State.withOwn_safe {s : State} (hs : Safe s) (a : Word) (n : Nat) (align : Nat) (v : Word) {k : State → List Byte → State}
    (hk : ∀ t x1, Safe t → Safe (k t x1)) :
    Safe (State.withOwn s a n align v k) := by
  unfold State.withOwn
  split
  · rename_i e
    exact State.trapAccess_safe (Safe.of_fst e (State.checkOwn_safe hs ..)) ..
  · rename_i e
    split
    · exact State.block_safe (Safe.of_fst e (State.checkOwn_safe hs ..)) ..
    · exact State.whenDone_safe (Safe.of_fst e (State.checkOwn_safe hs ..)) _ _ (fun t1 h => hk _ _ (State.dropEarly_safe h ..))

theorem State.fetchLine_safe {s : State} (hs : Safe s) (k : Nat) : Safe (State.fetchLine s k).1 := by
  unfold State.fetchLine
  split
  · exact hs
  · dsimp only
    exact hs

theorem State.fetchPlace_safe {s : State} (hs : Safe s) (a : Word) : Safe (State.fetchPlace s a).1 := by
  unfold State.fetchPlace
  split
  next t _ _ e =>
    have checked : Safe t := Safe.of_fst e (State.check_safe (by exact hs) ..)
    exact checked

theorem State.fetchBytes_safe {s : State} (hs : Safe s) (a : Word) : Safe (State.fetchBytes s a).1 := by
  unfold State.fetchBytes
  split
  · rename_i e
    exact Safe.of_fst e (State.fetchPlace_safe hs ..)
  · rename_i e
    split
    · rename_i e1
      exact Safe.of_fst e1 (State.fetchLine_safe (Safe.of_fst e (State.fetchPlace_safe hs ..)) ..)

theorem State.fetchAt_safe {s : State} (hs : Safe s) (a : Word) : Safe (State.fetchAt s a).1 := by
  unfold State.fetchAt
  split
  · rename_i e
    exact Safe.of_fst e (State.fetchBytes_safe hs ..)
  · rename_i e
    split
    · split
      · rename_i e1
        exact Safe.of_fst e1 (State.fetchBytes_safe (Safe.of_fst e (State.fetchBytes_safe hs ..)) ..)
      · rename_i e1
        exact Safe.of_fst e1 (State.fetchBytes_safe (Safe.of_fst e (State.fetchBytes_safe hs ..)) ..)
    · exact Safe.of_fst e (State.fetchBytes_safe hs ..)

theorem State.trapFetch_safe {s : State} (hs : Safe s) (f : AccessFault) : Safe (State.trapFetch s f) := by
  unfold State.trapFetch
  exact State.raise_safe (by
    split
    · exact State.violation_safe hs ..
    · exact hs) ..

/-! ## Issue -/

theorem State.capture_safe {s : State} (hs : Safe s) (a : Word) (n : Nat) : Safe (State.capture s a n).1 := by
  induction n generalizing s a with
  | zero => exact hs
  | succ n ih =>
    have fetched := State.fetchBytes_safe hs a
    unfold State.capture
    rcases e : s.fetchBytes a with ⟨t, f | bs⟩ <;> rw [e] at fetched
    · exact fetched
    · have later := ih fetched (a + 4)
      dsimp only
      split
      · exact fetched
      · exact fetched
      · split
        · exact fetched
        · rcases c : t.capture (a + 4) n with ⟨u, f | ws⟩ <;> rw [c] at later <;> exact later

theorem State.trapFrame_safe {s : State} (hs : Safe s) (pc : Word) (f : FrameFault) : Safe (State.trapFrame s pc f) := by
  unfold State.trapFrame
  exact State.raise_safe (by
    split
    · exact State.violation_safe hs ..
    · exact hs) ..

theorem State.resumeFrame_safe {s : State} (hs : Safe s) : Safe (State.resumeFrame s) := by
  unfold State.resumeFrame
  dsimp only
  split
  · rename_i e
    exact State.trapFrame_safe (State.modCtx_safe (Safe.of_fst e (State.capture_safe hs ..)) ..) ..
  · rename_i e
    exact State.modCtx_safe (Safe.of_fst e (State.capture_safe hs ..)) ..

theorem State.resume_safe {s : State} (hs : Safe s) (n : Fin 11) : Safe (State.resume s n) := hs

theorem State.begin_safe {s : State} (hs : Safe s) (n : Fin 11) : Safe (State.begin s n) := hs

theorem State.dropStop_safe {s : State} (hs : Safe s) : Safe (State.dropStop s) := hs

theorem State.withGang_safe {before : State} {after : State} (hbefore : Safe before) (hafter : Safe after) : Safe (State.withGang before after) := by
  unfold State.withGang
  split
  · exact hafter
  · split
    · exact hafter
    · exact State.trapHere_safe (State.dropStop_safe hbefore) ..

theorem State.dueTrap_safe {s t : State} (hs : Safe s) (e : State.dueTrap s = some t) : Safe t := by
  unfold State.dueTrap at e
  split at e
  · cases e
    exact State.raise_safe (by exact hs) ..
  · obtain ⟨d, -, rfl⟩ := Option.map_eq_some_iff.1 e
    exact State.raise_safe (by exact hs) ..

theorem State.keep_safe {s : State} (hs : Safe s) (i : Instr) : Safe (State.keep s i) := by
  unfold State.keep
  repeat' split
  all_goals exact hs

theorem State.endStep_safe {s : State} (hs : Safe s) (n : Fin 11) : Safe (State.endStep s n) := by
  unfold State.endStep
  split <;> exact hs

theorem State.countCycle_safe {s : State} (hs : Safe s) : Safe (State.countCycle s) := by
  unfold State.countCycle
  dsimp only
  split
  · split
    · exact State.count_safe (State.count_safe (State.count_safe hs ..) ..) ..
    · exact State.count_safe (State.count_safe hs ..) ..
  · split
    · exact State.count_safe (State.count_safe hs ..) ..
    · exact State.count_safe hs ..

end Sys2Proof.Machine
end

section
/-! SUPPORT. Memory stays canonical under the instructions of a core alone: moves, control, traps, streams, vectors, loads and stores, and the landing set. -/

namespace Sys2Proof.Machine

open Sys2Proof

/-! ## Moves -/

theorem execMov_safe {s : State} (hs : Safe s) (sw : Bool) (d : BitVec 5) (a : BitVec 5) : Outcome.Safe (execMov sw d a s) := State.unary_safe hs ..

theorem execMovFromLoop_safe {s : State} (hs : Safe s) (sw : Bool) (d : BitVec 5) (n : BitVec 2) (r : LoopReg) :
    Outcome.Safe (execMovFromLoop sw d n r s) := State.issue_safe hs _ _ (fun _ h => h)

theorem execMovToLoop_safe {s : State} (hs : Safe s) (sw : Bool) (n : BitVec 2) (a : BitVec 5) (r : LoopReg) : Outcome.Safe (execMovToLoop sw n a r s) := by
  unfold execMovToLoop
  exact State.issue_safe hs _ _ (fun t1 h => by
    split
    · exact State.illegal_safe h
    · exact State.retire_safe (by exact h) ..)

theorem execMovi_safe {s : State} (hs : Safe s) (sw : Bool) (d : BitVec 5) (imm : BitVec 13) (ext : Ext) :
    Outcome.Safe (execMovi sw d imm ext s) := State.issue_safe hs _ _ (fun _ h => h)

theorem execLea_safe {s : State} (hs : Safe s) (sw : Bool) (d : BitVec 5) (a : BitVec 5) (b : BitVec 5) (disp : BitVec 6) (k : BitVec 2) (ext : Ext) :
    Outcome.Safe (execLea sw d a b disp k ext s) := State.issue_safe hs _ _ (fun _ h => h)

theorem execSlt_safe {s : State} (hs : Safe s) (sw : Bool) (d : BitVec 5) (a : BitVec 5) (b : BitVec 5) (t : IntTy) :
    Outcome.Safe (execSlt sw d a b t s) := State.binary_safe hs ..

theorem execSlti_safe {s : State} (hs : Safe s) (sw : Bool) (d : BitVec 5) (a : BitVec 5) (imm : BitVec 13) (ext : Ext) :
    Outcome.Safe (execSlti sw d a imm ext s) := State.unary_safe hs ..

theorem execSeq_safe {s : State} (hs : Safe s) (sw : Bool) (d : BitVec 5) (a : BitVec 5) (b : BitVec 5) (t : IntTy) :
    Outcome.Safe (execSeq sw d a b t s) := State.binary_safe hs ..

theorem execSeqi_safe {s : State} (hs : Safe s) (sw : Bool) (d : BitVec 5) (a : BitVec 5) (imm : BitVec 13) (ext : Ext) :
    Outcome.Safe (execSeqi sw d a imm ext s) := State.unary_safe hs ..

theorem execSel_safe {s : State} (hs : Safe s) (sw : Bool) (d : BitVec 5) (a : BitVec 5) (b : BitVec 5) (p : BitVec 3) :
    Outcome.Safe (execSel sw d a b p s) := State.issue_safe hs _ _ (fun _ h => h)

theorem execPcmp_safe {s : State} (hs : Safe s) (sw : Bool) (d : BitVec 3) (a : BitVec 5) (b : BitVec 5) (t : IntTy) (c : Cond) :
    Outcome.Safe (execPcmp sw d a b t c s) := State.issue_safe hs _ _ (fun _ h => h)

theorem execPlog_safe {s : State} (hs : Safe s) (sw : Bool) (d : BitVec 3) (a : BitVec 3) (b : BitVec 3) (t : BitVec 4) :
    Outcome.Safe (execPlog sw d a b t s) := State.issue_safe hs _ _ (fun _ h => h)

theorem execPmovToPredicate_safe {s : State} (hs : Safe s) (sw : Bool) (d : BitVec 3) (a : BitVec 5) :
    Outcome.Safe (execPmovToPredicate sw d a s) := State.issue_safe hs _ _ (fun _ h => h)

theorem execPmovFromPredicate_safe {s : State} (hs : Safe s) (sw : Bool) (d : BitVec 5) (a : BitVec 3) :
    Outcome.Safe (execPmovFromPredicate sw d a s) := State.issue_safe hs _ _ (fun _ h => h)

theorem execPcnt_safe {s : State} (hs : Safe s) (sw : Bool) (d : BitVec 5) (a : BitVec 3) (t : IntTy) :
    Outcome.Safe (execPcnt sw d a t s) := State.issue_safe hs _ _ (fun _ h => h)

/-! ## Control -/

theorem State.transfer_safe {s : State} (hs : Safe s) (size : Nat) {k : State → State} (hk : ∀ t, Safe t → Safe (k t)) : Safe (State.transfer s size k) := by
  unfold State.transfer
  split
  · exact State.illegal_safe hs
  · exact hk _ hs

theorem State.aligned_safe {s : State} (hs : Safe s) (target : Word) {k : State → State} (hk : ∀ t, Safe t → Safe (k t)) : Safe (State.aligned s target k) := by
  unfold State.aligned
  split
  · exact State.trapLogged_safe hs ..
  · exact hk _ hs

theorem State.branchIf_safe {s : State} (hs : Safe s) (sw : Bool) (taken : Bool) (imm : BitVec 13) (ext : Ext) : Safe (State.branchIf s sw taken imm ext) := by
  unfold State.branchIf
  exact State.transfer_safe hs _ (fun t1 h => by
    split
    · exact h
    · exact h)

theorem execBr_safe {s : State} (hs : Safe s) (sw : Bool) (disp : BitVec 23) (ext : Ext) :
    Outcome.Safe (execBr sw disp ext s) := State.issue_safe hs _ _ (fun _ h => State.transfer_safe h _ (fun _ h1 => h1))

theorem execCall_safe {s : State} (hs : Safe s) (sw : Bool) (disp : BitVec 23) (ext : Ext) :
    Outcome.Safe (execCall sw disp ext s) := State.issue_safe hs _ _ (fun _ h => State.transfer_safe h _ (fun _ h1 => h1))

theorem execJr_safe {s : State} (hs : Safe s) (sw : Bool) (a : BitVec 5) :
    Outcome.Safe (execJr sw a s) :=
  State.issue_safe hs _ _ (fun _ h => State.transfer_safe h _ (fun _ h1 => State.aligned_safe h1 _ (fun _ h2 => h2)))

theorem execCallr_safe {s : State} (hs : Safe s) (sw : Bool) (a : BitVec 5) :
    Outcome.Safe (execCallr sw a s) :=
  State.issue_safe hs _ _ (fun _ h => State.transfer_safe h _ (fun _ h1 => State.aligned_safe h1 _ (fun _ h2 => h2)))

theorem execRet_safe {s : State} (hs : Safe s) (sw : Bool) :
    Outcome.Safe (execRet sw s) :=
  State.issue_safe hs _ _ (fun _ h => State.transfer_safe h _ (fun _ h1 => State.aligned_safe h1 _ (fun _ h2 => h2)))

theorem execBeqz_safe {s : State} (hs : Safe s) (sw : Bool) (a : BitVec 5) (imm : BitVec 13) (ext : Ext) :
    Outcome.Safe (execBeqz sw a imm ext s) := State.issue_safe hs _ _ (fun _ h => State.branchIf_safe h ..)

theorem execBnez_safe {s : State} (hs : Safe s) (sw : Bool) (a : BitVec 5) (imm : BitVec 13) (ext : Ext) :
    Outcome.Safe (execBnez sw a imm ext s) := State.issue_safe hs _ _ (fun _ h => State.branchIf_safe h ..)

theorem execBltz_safe {s : State} (hs : Safe s) (sw : Bool) (a : BitVec 5) (imm : BitVec 13) (ext : Ext) :
    Outcome.Safe (execBltz sw a imm ext s) := State.issue_safe hs _ _ (fun _ h => State.branchIf_safe h ..)

theorem execBgez_safe {s : State} (hs : Safe s) (sw : Bool) (a : BitVec 5) (imm : BitVec 13) (ext : Ext) :
    Outcome.Safe (execBgez sw a imm ext s) := State.issue_safe hs _ _ (fun _ h => State.branchIf_safe h ..)

theorem execBpany_safe {s : State} (hs : Safe s) (sw : Bool) (a : BitVec 3) (imm : BitVec 13) (ext : Ext) :
    Outcome.Safe (execBpany sw a imm ext s) := State.issue_safe hs _ _ (fun _ h => State.branchIf_safe h ..)

theorem execBpnone_safe {s : State} (hs : Safe s) (sw : Bool) (a : BitVec 3) (imm : BitVec 13) (ext : Ext) :
    Outcome.Safe (execBpnone sw a imm ext s) := State.issue_safe hs _ _ (fun _ h => State.branchIf_safe h ..)

theorem State.startLoop_safe {s : State} (hs : Safe s) (sw : Bool) (size : Nat) (n : Fin 3) (count : ℤ) (l : Nat) :
    Safe (State.startLoop s sw size n count l) := by
  unfold State.startLoop
  exact State.transfer_safe hs _ (fun t1 h => by
    dsimp only
    split
    · exact State.illegal_safe h
    · split
      · exact State.illegal_safe h
      · exact h)

theorem execLoop_safe {s : State} (hs : Safe s) (sw : Bool) (n : BitVec 2) (a : BitVec 5) (l : BitVec 8) (ext : Option (BitVec 16)) :
    Outcome.Safe (execLoop sw n a l ext s) := State.issue_safe hs _ _ (fun _ h => State.startLoop_safe h ..)

theorem execLoopi_safe {s : State} (hs : Safe s) (sw : Bool) (n : BitVec 2) (l : BitVec 5) (imm : BitVec 13) (ext : Ext) :
    Outcome.Safe (execLoopi sw n l imm ext s) := State.issue_safe hs _ _ (fun _ h => State.startLoop_safe h ..)

theorem execRptf_safe {s : State} (hs : Safe s) (sw : Bool) (sd : BitVec 5) (sa : BitVec 5) (sb : BitVec 5) (n : BitVec 4) (k : BitVec 4) (ext : Option
    (BitVec 20)) :
    Outcome.Safe (execRptf sw sd sa sb n k ext s) := by
  unfold execRptf
  exact State.issue_safe hs _ _ (fun t1 h => State.transfer_safe h _ (fun t2 h1 => by
    dsimp only
    split
    · exact State.illegal_safe h1
    · split
      · rename_i e
        exact State.trapFrame_safe (Safe.of_fst e (State.capture_safe h1 ..)) ..
      · rename_i e
        exact State.modCtx_safe (Safe.of_fst e (State.capture_safe h1 ..)) ..))

/-! ## Gangs, traps and helpers -/

theorem execNop_safe {s : State} (hs : Safe s) (sw : Bool) : Outcome.Safe (execNop sw s) := State.issue_safe hs _ _ (fun _ h => h)

theorem State.startHelper_safe {s : State} (hs : Safe s) (hh : Nat) (target : Word) (x1 : Word) : Safe (State.startHelper s hh target x1) := by
  unfold State.startHelper
  split <;> exact hs

theorem State.helperAfter_safe {s : State} (hs : Safe s) (hh : Nat) (ns : List Nat) : Safe (State.helperAfter s hh ns) := by
  unfold State.helperAfter
  split <;> exact hs

theorem execHstart_safe {s : State} (hs : Safe s) (sw : Bool) (hh : BitVec 5) (b : BitVec 5) (imm : BitVec 13) (ext : Ext) :
    Outcome.Safe (execHstart sw hh b imm ext s) := by
  unfold execHstart
  exact State.issue_safe hs _ _ (fun t1 h => by
    dsimp only
    split
    · exact State.illegal_safe h
    · split
      · exact State.resource_safe h ..
      · split
        · exact State.illegal_safe h
        · split
          · exact State.trapLogged_safe h ..
          · exact State.retire_safe (State.helperAfter_safe (State.startHelper_safe h ..) ..) ..)

theorem State.acquireHelpers_safe {s : State} (hs : Safe s) (mask : Word) : Safe (State.acquireHelpers s mask) := by
  unfold State.acquireHelpers
  exact Safe.foldl hs (fun t1 x h => by
    split
    · exact h
    · exact h) ..

theorem execHwait_safe {s : State} (hs : Safe s) (sw : Bool) (a : BitVec 5) : Outcome.Safe (execHwait sw a s) := by
  unfold execHwait
  exact State.issue_safe hs _ _ (fun t1 h => by
    split
    · exact State.illegal_safe h
    · split
      · exact State.retire_safe (State.acquireHelpers_safe h ..) ..
      · exact h)

theorem execHstat_safe {s : State} (hs : Safe s) (sw : Bool) (d : BitVec 5) : Outcome.Safe (execHstat sw d s) := State.issue_safe hs _ _ (fun _ h => h)

theorem execGang_safe {s : State} (hs : Safe s) (sw : Bool) (n : BitVec 2) : Outcome.Safe (execGang sw n s) := by
  unfold execGang
  exact State.issue_safe hs _ _ (fun t1 h => by
    dsimp only
    split
    · exact State.illegal_safe h
    · split
      · exact State.resource_safe h ..
      · split
        · exact State.illegal_safe h
        · split
          · exact h
          · exact h)

theorem execSplit_safe {s : State} (hs : Safe s) (sw : Bool) : Outcome.Safe (execSplit sw s) := by
  unfold execSplit
  exact State.issue_safe hs _ _ (fun t1 h => by
    split
    · exact State.illegal_safe h
    · exact h)

theorem execTrap_safe {s : State} (hs : Safe s) (y0 : Bool) (code : BitVec 13) :
    Outcome.Safe (execTrap y0 code s) := State.issue_safe hs _ _ (fun _ h => State.raise_safe h ..)

theorem execBrk_safe {s : State} (hs : Safe s) (sw : Bool) (code : BitVec 8) : Outcome.Safe (execBrk sw code s) := by
  unfold execBrk
  refine State.issue_safe hs _ _ fun t h => ?_
  dsimp only
  have stopped : Safe ((t.trace 3 t.cur.val (traprec0 (breakInfo t.pc code))).retire sw 4) := State.retire_safe (State.trace_safe h ..) ..
  split
  · split
    · exact stopped
    · exact State.halt_safe stopped
  · exact State.raise_safe h _

theorem State.leaveHandler_safe {s : State} (hs : Safe s) (sw : Bool) (target : Word) : Safe (State.leaveHandler s sw target) := by
  unfold State.leaveHandler
  split
  · exact State.resumeFrame_safe hs
  · exact hs

theorem execRte_safe {s : State} (hs : Safe s) (sw : Bool) : Outcome.Safe (execRte sw s) := by
  unfold execRte
  exact State.issue_safe hs _ _ (fun t1 h => State.transfer_safe h _ (fun t2 h1 => by
    split
    · exact State.illegal_safe h1
    · exact State.leaveHandler_safe h1 ..))

theorem execRteXa_safe {s : State} (hs : Safe s) (sw : Bool) (a : BitVec 5) : Outcome.Safe (execRteXa sw a s) := by
  unfold execRteXa
  exact State.issue_safe hs _ _ (fun t1 h => State.transfer_safe h _ (fun t2 h1 => by
    split
    · exact State.illegal_safe h1
    · split
      · exact State.illegal_safe h1
      · split
        · exact State.trapHere_safe h1 ..
        · exact h1))

theorem execUndefinedInstruction_safe {s : State} (hs : Safe s) : Outcome.Safe (execUndefinedInstruction s) := State.trapHere_safe hs ..

theorem State.readClears_safe {s : State} (hs : Safe s) (r : CtrlReg) : Safe (State.readClears s r) := by
  unfold State.readClears
  split <;> exact hs

theorem State.writeCtrl_safe {s : State} (hs : Safe s) (r : CtrlReg) (v : Word) (lv : Word) : Safe (State.writeCtrl s r v lv) := by
  unfold State.writeCtrl
  split <;> exact hs

theorem execMfc_safe {s : State} (hs : Safe s) (sw : Bool) (d : BitVec 5) (r : CtrlReg) :
    Outcome.Safe (execMfc sw d r s) := State.issue_safe hs _ _ (fun _ h => State.retire_safe (State.writeX_safe (State.readClears_safe h ..) ..) ..)

theorem execMtc_safe {s : State} (hs : Safe s) (sw : Bool) (a : BitVec 5) (r : CtrlReg) : Outcome.Safe (execMtc sw a r s) := by
  unfold execMtc
  exact State.issue_safe hs _ _ (fun t1 h => by
    split
    · exact State.illegal_safe h
    · exact State.retire_safe (State.writeCtrl_safe h ..) ..)

theorem State.locate_safe {s : State} (hs : Safe s) (a : Word) : Safe (State.locate s a).1 := by
  unfold State.locate
  split
  · rename_i e
    exact Safe.of_fst e (State.check_safe hs ..)
  · rename_i e
    exact Safe.of_fst e (State.check_safe hs ..)

theorem execIcinv_safe {s : State} (hs : Safe s) (sw : Bool) (a : BitVec 5) (y2 : Scope) : Outcome.Safe (execIcinv sw a y2 s) := by
  unfold execIcinv
  exact State.issue_safe hs _ _ (fun t1 h => by
    dsimp only
    split
    · exact h
    · split
      · exact h
      · split
        · rename_i e
          exact State.retire_safe (Safe.of_fst e (State.locate_safe h ..)) ..
        · rename_i e
          exact State.whenDone_safe (Safe.of_fst e (State.locate_safe h ..)) _ _ (fun t2 h1 => h1))

theorem execIcinvCompletion_safe {s : State} (hs : Safe s) (ctx : Fin 11) : Outcome.Safe (execIcinvCompletion ctx s) := by
  unfold execIcinvCompletion
  split <;> exact hs

theorem execPause_safe {s : State} (hs : Safe s) (sw : Bool) (n : BitVec 13) : Outcome.Safe (execPause sw n s) := State.issue_safe hs _ _ (fun _ h => h)

theorem execPauseExpiry_safe {s : State} (hs : Safe s) (ctx : Fin 11) : Outcome.Safe (execPauseExpiry ctx s) := by
  unfold execPauseExpiry
  split <;> exact hs

theorem execCntrd_safe {s : State} (hs : Safe s) (sw : Bool) (d : BitVec 5) (c : BitVec 4) : Outcome.Safe (execCntrd sw d c s) := by
  unfold execCntrd
  dsimp only
  exact State.issue_safe hs _ _ (fun t1 h => h)

theorem execRegisterWritePerformed_safe {s : State} (hs : Safe s) (ctx : Fin 11) (seq : Nat) : Outcome.Safe (execRegisterWritePerformed ctx seq s) := hs

theorem execCounterOverflow_safe {s : State} (hs : Safe s) (n : BitVec 4) : Outcome.Safe (execCounterOverflow n s) := by
  unfold execCounterOverflow
  split
  · exact State.trace_safe hs ..
  · exact hs

/-! ## Streams -/

theorem State.setStream_safe {s : State} (hs : Safe s) (n : BitVec 2) (t : Stream) : Safe (State.setStream s n t) := hs

theorem State.wantsFetch_safe {s : State} (hs : Safe s) (k : BitVec 2) : Safe (State.wantsFetch s k) := by
  unfold State.wantsFetch
  dsimp only
  split <;> exact hs

theorem State.streamRead_safe {s : State} (hs : Safe s) (k : BitVec 2) (w : Nat) (n : Nat) : Safe (State.streamRead s k w n).1 := by
  unfold State.streamRead
  dsimp only
  exact State.wantsFetch_safe (State.setStream_safe hs ..) ..

theorem State.streamStores_safe {s : State} (hs : Safe s) (k : BitVec 2) (t : Stream) (w : Nat) (active : Nat → Bool) (f : Nat → Nat) (n : Nat) :
    Safe (State.streamStores k t w active f n s) := by
  induction n with
  | zero => exact hs
  | succ n ih =>
    unfold State.streamStores
    dsimp only
    split
    · exact State.sign_safe (State.push_safe ih ..) ..
    · exact ih

theorem State.streamWrite_safe {s : State} (hs : Safe s) (k : BitVec 2) (w : Nat) (n : Nat) (active : Nat → Bool) (f : Nat → Nat) :
    Safe (State.streamWrite s k w n active f) := State.setStream_safe (State.streamStores_safe hs ..) ..

theorem execStreamFetch_safe {s : State} (hs : Safe s) (n : BitVec 2) : Outcome.Safe (execStreamFetch n s) := by
  unfold execStreamFetch
  dsimp only
  split
  · exact hs
  · split
    · exact hs
    · split
      · exact hs
      · exact State.wantsFetch_safe (State.setStream_safe hs ..) ..

theorem State.fetchOne_safe {s : State} (hs : Safe s) (n : BitVec 2) (i : Nat) : Safe (State.fetchOne s n i) := by
  unfold State.fetchOne
  dsimp only
  split <;> exact hs

theorem State.bindTo_safe {s : State} (hs : Safe s) (sw : Bool) (n : BitVec 2) (v : Word) (t : Stream) : Safe (State.bindTo s sw n v t) := by
  unfold State.bindTo
  split
  · exact State.illegal_safe hs
  · split
    · exact State.trapAccess_safe hs ..
    · exact State.whenDone_safe hs _ _ (fun t1 h => State.retire_safe (State.wantsFetch_safe (State.setStream_safe h ..) ..) ..)

theorem execSbind_safe {s : State} (hs : Safe s) (sw : Bool) (n : BitVec 2) (a : BitVec 5) (b : BitVec 5) (ty : LaneTy) (wr : Bool) :
    Outcome.Safe (execSbind sw n a b ty wr s) := by
  unfold execSbind
  exact State.issue_safe hs _ _ (fun t1 h => by
    split
    · exact State.illegal_safe h
    · exact State.bindTo_safe h ..)

theorem execSbindAffine_safe {s : State} (hs : Safe s) (sw : Bool) (n : BitVec 2) (a : BitVec 5) (ty : LaneTy) (wr : Bool) :
    Outcome.Safe (execSbindAffine sw n a ty wr s) := by
  unfold execSbindAffine
  exact State.issue_safe hs _ _ (fun t1 h => State.withOwn_safe h _ _ _ _ (fun t2 x h1 => by
    split
    · exact State.illegal_safe h1
    · exact State.bindTo_safe h1 ..))

theorem execSfree_safe {s : State} (hs : Safe s) (sw : Bool) (n : BitVec 2) :
    Outcome.Safe (execSfree sw n s) := State.issue_safe hs _ _ (fun _ h => State.whenDone_safe h _ _ (fun _ h1 => h1))

theorem execSadv_safe {s : State} (hs : Safe s) (sw : Bool) (n : BitVec 2) (a : BitVec 5) : Outcome.Safe (execSadv sw n a s) := by
  unfold execSadv
  exact State.issue_safe hs _ _ (fun t1 h => by
    dsimp only
    split
    · exact State.illegal_safe h
    · exact State.retire_safe (State.wantsFetch_safe (State.setStream_safe h ..) ..) ..)

theorem execSstat_safe {s : State} (hs : Safe s) (sw : Bool) (d : BitVec 5) (n : BitVec 2) :
    Outcome.Safe (execSstat sw d n s) := State.issue_safe hs _ _ (fun _ h => h)

/-! ## Vectors -/

theorem State.takeField_safe {s : State} (hs : Safe s) (y1 : Option VField) : Safe (State.takeField s y1).1 := by
  unfold State.takeField
  split
  · exact hs
  · exact State.streamRead_safe hs ..
  · exact hs

theorem State.vector_safe {s : State} (hs : Safe s) (sw : Bool) (x : Option VExt) (rs : List Reg) (ws : List Reg) (d : Option VField) (a : Option VField)
    (b : Option VField) (ok : Bool) {k : State → Vec → Vec → State} (hk : ∀ t x1 x2, Safe t → Safe (k t x1 x2)) :
    Safe (State.vector s sw x rs ws d a b ok k) := by
  unfold State.vector
  dsimp only
  split
  · exact hs
  · exact State.issue_safe hs _ _ (fun t1 h => by
      split
      · exact State.retire_safe (hk _ _ _ (State.takeField_safe (State.takeField_safe h ..) ..)) ..
      · exact State.illegal_safe h)

theorem State.emit_safe {s : State} (hs : Safe s) (d : VField) (active : Nat → Bool) (res : Vec) (lat : Nat) : Safe (State.emit s d active res lat) := by
  unfold State.emit
  split
  · exact hs
  · exact State.streamWrite_safe hs ..

theorem State.lanewise_safe {s : State} (hs : Safe s) (sw : Bool) (x : Option VExt) (d : BitVec 5) (a : Option VOpnd) (b : Option VOpnd) (m : BitVec 3)
    (w : Nat) (lat : Nat) (acc : Bool) (f : Nat → Nat → Nat → Nat) :
    Safe (State.lanewise s sw x d a b m w lat acc f) := State.vector_safe hs _ _ _ _ _ _ _ _ (fun _ _ _ h => State.emit_safe h ..)

theorem execVadd_safe {s : State} (hs : Safe s) (sw : Bool) (d : BitVec 5) (a : BitVec 5) (b : BitVec 5) (t : LaneTy) (m : BitVec 3) (x : Option VExt) :
    Outcome.Safe (execVadd sw d a b t m x s) := State.lanewise_safe hs ..

theorem execVsub_safe {s : State} (hs : Safe s) (sw : Bool) (d : BitVec 5) (a : BitVec 5) (b : BitVec 5) (t : LaneTy) (m : BitVec 3) (x : Option VExt) :
    Outcome.Safe (execVsub sw d a b t m x s) := State.lanewise_safe hs ..

theorem execVmul_safe {s : State} (hs : Safe s) (sw : Bool) (d : BitVec 5) (a : BitVec 5) (b : BitVec 5) (t : LaneTy) (m : BitVec 3) (x : Option VExt) :
    Outcome.Safe (execVmul sw d a b t m x s) := State.lanewise_safe hs ..

theorem execVfma_safe {s : State} (hs : Safe s) (sw : Bool) (d : BitVec 5) (a : BitVec 5) (b : BitVec 5) (t : FloatTy) (m : BitVec 3) (x : Option VExt) :
    Outcome.Safe (execVfma sw d a b t m x s) := State.lanewise_safe hs ..

theorem execVmin_safe {s : State} (hs : Safe s) (sw : Bool) (d : BitVec 5) (a : BitVec 5) (b : BitVec 5) (t : LaneTy) (m : BitVec 3) (x : Option VExt) :
    Outcome.Safe (execVmin sw d a b t m x s) := State.lanewise_safe hs ..

theorem execVmax_safe {s : State} (hs : Safe s) (sw : Bool) (d : BitVec 5) (a : BitVec 5) (b : BitVec 5) (t : LaneTy) (m : BitVec 3) (x : Option VExt) :
    Outcome.Safe (execVmax sw d a b t m x s) := State.lanewise_safe hs ..

theorem execVabs_safe {s : State} (hs : Safe s) (sw : Bool) (d : BitVec 5) (a : BitVec 5) (t : LaneTy) (m : BitVec 3) (x : Option VExt) :
    Outcome.Safe (execVabs sw d a t m x s) := State.lanewise_safe hs ..

theorem execVand_safe {s : State} (hs : Safe s) (sw : Bool) (d : BitVec 5) (a : BitVec 5) (b : BitVec 5) (t : IntTy) (m : BitVec 3) (x : Option VExt) :
    Outcome.Safe (execVand sw d a b t m x s) := State.lanewise_safe hs ..

theorem execVor_safe {s : State} (hs : Safe s) (sw : Bool) (d : BitVec 5) (a : BitVec 5) (b : BitVec 5) (t : IntTy) (m : BitVec 3) (x : Option VExt) :
    Outcome.Safe (execVor sw d a b t m x s) := State.lanewise_safe hs ..

theorem execVxor_safe {s : State} (hs : Safe s) (sw : Bool) (d : BitVec 5) (a : BitVec 5) (b : BitVec 5) (t : IntTy) (m : BitVec 3) (x : Option VExt) :
    Outcome.Safe (execVxor sw d a b t m x s) := State.lanewise_safe hs ..

theorem execVshl_safe {s : State} (hs : Safe s) (sw : Bool) (d : BitVec 5) (a : BitVec 5) (b : BitVec 5) (t : IntTy) (m : BitVec 3) (x : Option VExt) :
    Outcome.Safe (execVshl sw d a b t m x s) := State.lanewise_safe hs ..

theorem execVshr_safe {s : State} (hs : Safe s) (sw : Bool) (d : BitVec 5) (a : BitVec 5) (b : BitVec 5) (t : IntTy) (m : BitVec 3) (x : Option VExt) :
    Outcome.Safe (execVshr sw d a b t m x s) := State.lanewise_safe hs ..

theorem execVcmp_safe {s : State} (hs : Safe s) (sw : Bool) (d : BitVec 3) (a : BitVec 5) (b : BitVec 5) (t : LaneTy) (c : Cond) (x : Option VExt) :
    Outcome.Safe (execVcmp sw d a b t c x s) := State.vector_safe hs _ _ _ _ _ _ _ _ (fun _ _ _ h => h)

theorem execVsel_safe {s : State} (hs : Safe s) (sw : Bool) (d : BitVec 5) (a : BitVec 5) (b : BitVec 5) (t : LaneTy) (p : BitVec 3) (x : Option VExt) :
    Outcome.Safe (execVsel sw d a b t p x s) := State.vector_safe hs _ _ _ _ _ _ _ _ (fun _ _ _ h => State.emit_safe h ..)

theorem execVshuf_safe {s : State} (hs : Safe s) (sw : Bool) (d : BitVec 5) (a : BitVec 5) (b : BitVec 5) (t : Ty) (f : ShufFn) (x : Option VExt) :
    Outcome.Safe (execVshuf sw d a b t f x s) := State.vector_safe hs _ _ _ _ _ _ _ _ (fun _ _ _ h => State.emit_safe h ..)

theorem execVperm_safe {s : State} (hs : Safe s) (sw : Bool) (d : BitVec 5) (a : BitVec 5) (b : BitVec 5) (t : IntTy) (m : BitVec 3) (x : Option VExt) :
    Outcome.Safe (execVperm sw d a b t m x s) := State.vector_safe hs _ _ _ _ _ _ _ _ (fun _ _ _ h => State.emit_safe h ..)

theorem execVbcast_safe {s : State} (hs : Safe s) (sw : Bool) (d : BitVec 5) (a : BitVec 5) (t : LaneTy) (m : BitVec 3) (x : Option VExt) :
    Outcome.Safe (execVbcast sw d a t m x s) := State.vector_safe hs _ _ _ _ _ _ _ _ (fun _ _ _ h => State.emit_safe h ..)

theorem execVmovxExtract_safe {s : State} (hs : Safe s) (sw : Bool) (d : BitVec 5) (a : BitVec 5) (b : BitVec 5) (t : LaneTy) (x : Option VExt) :
    Outcome.Safe (execVmovxExtract sw d a b t x s) := State.vector_safe hs _ _ _ _ _ _ _ _ (fun _ _ _ h => h)

theorem execVmovxInsert_safe {s : State} (hs : Safe s) (sw : Bool) (d : BitVec 5) (a : BitVec 5) (b : BitVec 5) (t : LaneTy) (x : Option VExt) :
    Outcome.Safe (execVmovxInsert sw d a b t x s) := State.vector_safe hs _ _ _ _ _ _ _ _ (fun _ _ _ h => State.emit_safe h ..)

theorem execVred_safe {s : State} (hs : Safe s) (sw : Bool) (d : BitVec 5) (a : BitVec 5) (op : RedOp) (t : LaneTy) (m : BitVec 3) (x : Option VExt) :
    Outcome.Safe (execVred sw d a op t m x s) := State.vector_safe hs _ _ _ _ _ _ _ _ (fun _ _ _ h => h)

theorem execVcvt_safe {s : State} (hs : Safe s) (sw : Bool) (d : BitVec 5) (a : BitVec 5) (src : Ty) (dst : Ty) (k : BitVec 3) (x : Option VExt) :
    Outcome.Safe (execVcvt sw d a src dst k x s) := by
  unfold execVcvt
  dsimp only
  exact State.vector_safe hs _ _ _ _ _ _ _ _ (fun t1 x3 x1 h => by
    split
    · exact h
    · exact State.streamWrite_safe h ..)

theorem execVrcp_safe {s : State} (hs : Safe s) (sw : Bool) (d : BitVec 5) (a : BitVec 5) (t : FloatTy) (m : BitVec 3) (x : Option VExt) :
    Outcome.Safe (execVrcp sw d a t m x s) := State.lanewise_safe hs ..

theorem execVrsq_safe {s : State} (hs : Safe s) (sw : Bool) (d : BitVec 5) (a : BitVec 5) (t : FloatTy) (m : BitVec 3) (x : Option VExt) :
    Outcome.Safe (execVrsq sw d a t m x s) := State.lanewise_safe hs ..

theorem State.tableBytes_safe {s : State} (hs : Safe s) (a : Word) (n : Nat) {k : State → List Byte → State} (hk : ∀ t x1, Safe t → Safe (k t x1)) :
    Safe (State.tableBytes s a n k) := by
  unfold State.tableBytes
  split
  · rename_i e
    exact State.trapAccess_safe (Safe.of_fst e (State.checkOwn_safe hs ..)) ..
  · rename_i e
    split
    · exact State.trapHere_safe (State.logBad_safe (Safe.of_fst e (State.checkOwn_safe hs ..)) ..) ..
    · exact State.withOwn_safe (Safe.of_fst e (State.checkOwn_safe hs ..)) _ _ _ _ hk

theorem execVtbld_safe {s : State} (hs : Safe s) (sw : Bool) (n : BitVec 2) (a : BitVec 5) : Outcome.Safe (execVtbld sw n a s) := by
  unfold execVtbld
  exact State.issue_safe hs _ _ (fun t1 h => State.tableBytes_safe h _ _ (fun t2 x h1 => by
    split
    · exact State.trapHere_safe h1 ..
    · exact State.tableBytes_safe h1 _ _ (fun t3 x2 h2 => h2)))

theorem execVinterp_safe {s : State} (hs : Safe s) (sw : Bool) (d : BitVec 5) (a : BitVec 5) (n : BitVec 2) (m : BitVec 3) (x : Option VExt) :
    Outcome.Safe (execVinterp sw d a n m x s) := State.vector_safe hs _ _ _ _ _ _ _ _ (fun _ _ _ h => State.emit_safe h ..)

/-! ## Loads and stores -/

theorem State.load_safe {s : State} (hs : Safe s) (sw : Bool) (size : Nat) (r : Reg) (rs : List Reg) (a : Word) (n : Nat) (f : LoadForm)
    (order : Option Scope) {k : State → Nat → State} (hk : ∀ t x1, Safe t → Safe (k t x1)) :
    Safe (State.load s sw size r rs a n f order k) := by
  unfold State.load
  exact State.access_safe hs _ _ _ _ (fun t1 x x1 h => State.retireAfter_safe (hk _ _ (by
    split
    · exact State.addBarrier_safe (State.push_safe (State.writeLater_safe h ..) ..) ..
    · exact State.push_safe (State.writeLater_safe h ..) ..)) ..)

theorem execLd_safe {s : State} (hs : Safe s) (sw : Bool) (d : BitVec 5) (a : BitVec 5) (b : BitVec 5) (w : LdWidth) (c : Scope) (o : Bool)
    (k : BitVec 2) (ext : Ext) :
    Outcome.Safe (execLd sw d a b w c o k ext s) := State.issue_safe hs _ _ (fun _ h => State.load_safe h _ _ _ _ _ _ _ _ (fun _ _ h1 => h1))

theorem execLdc_safe {s : State} (hs : Safe s) (sw : Bool) (d : BitVec 5) (a : BitVec 5) (b : BitVec 5) (w : LdWidth) (k : BitVec 2) (ext : Ext) :
    Outcome.Safe (execLdc sw d a b w k ext s) := State.issue_safe hs _ _ (fun _ h => State.load_safe h _ _ _ _ _ _ _ _ (fun _ _ h1 => h1))

theorem execVldb_safe {s : State} (hs : Safe s) (sw : Bool) (d : BitVec 5) (a : BitVec 5) (b : BitVec 5) (w : MemWidth) (k : BitVec 2) (ext : Ext) :
    Outcome.Safe (execVldb sw d a b w k ext s) := State.issue_safe hs _ _ (fun _ h => State.load_safe h _ _ _ _ _ _ _ _ (fun _ _ h1 => h1))

theorem State.pushLanes_safe {s : State} (hs : Safe s) (inst : Nat) (mk : State → Nat → Acc) (is : List Nat) : Safe (State.pushLanes inst mk is s) := by
  induction is generalizing s with
  | nil => exact hs
  | cons i is ih => exact ih (State.push_safe hs ..)

theorem execVld_safe {s : State} (hs : Safe s) (sw : Bool) (d : BitVec 5) (a : BitVec 5) (b : BitVec 5) (c : Scope) (o : Bool) (k : BitVec 2) (ext : Ext) :
    Outcome.Safe (execVld sw d a b c o k ext s) := by
  unfold execVld
  exact State.issue_safe hs _ _ (fun t1 h => State.access_safe h _ _ _ _ (fun t2 x x1 h1 => State.retireAfter_safe (by
    split
    · exact State.modCtx_safe (State.pushLanes_safe (State.writeLater_safe h1 ..) ..) ..
    · exact State.pushLanes_safe (State.writeLater_safe h1 ..) ..) ..))

theorem execSt_safe {s : State} (hs : Safe s) (sw : Bool) (d : BitVec 5) (a : BitVec 5) (b : BitVec 5) (w : MemWidth) (c : Scope) (o : Bool)
    (k : BitVec 2) (ext : Ext) :
    Outcome.Safe (execSt sw d a b w c o k ext s) :=
  State.issue_safe hs _ _ (fun _ h => State.access_safe h _ _ _ _ (fun _ _ _ h1 => State.retireAfter_safe (State.sign_safe (State.push_safe h1 ..) ..) ..))

theorem execVst_safe {s : State} (hs : Safe s) (sw : Bool) (d : BitVec 5) (a : BitVec 5) (b : BitVec 5) (c : Scope) (o : Bool) (k : BitVec 2) (ext : Ext) :
    Outcome.Safe (execVst sw d a b c o k ext s) :=
  State.issue_safe hs _ _ (fun _ h => State.access_safe h _ _ _ _ (fun _ _ _ h1 => State.retireAfter_safe (State.sign_safe (State.pushLanes_safe h1 ..) ..) ..))

theorem State.checkLanes_safe {s : State} (hs : Safe s) (acc : Access) (n : Nat) (at_ : Nat → Word) (is : List Nat) :
    Safe (State.checkLanes acc n at_ is s).1 := by
  induction is generalizing s with
  | nil => exact hs
  | cons i is ih =>
    have checked := State.check_safe hs acc (at_ i) n n s.exchange
    unfold State.checkLanes
    rcases e : s.check acc (at_ i) n n s.exchange with ⟨t, f | p, h⟩ <;> rw [e] at checked
    · exact checked
    · have later := ih checked
      dsimp only
      rcases c : State.checkLanes acc n at_ is t with ⟨u, f | ps, g⟩ <;> rw [c] at later <;> exact later

theorem State.pushPlaces_safe {s : State} (hs : Safe s) (inst : Nat) (mk : State → Nat → Place → Acc) (ps : List (Nat × Place)) :
    Safe (State.pushPlaces inst mk ps s) := by
  induction ps generalizing s with
  | nil => exact hs
  | cons p ps ih => exact ih (State.push_safe hs ..)

theorem execVgth_safe {s : State} (hs : Safe s) (sw : Bool) (d : BitVec 5) (a : BitVec 5) (b : BitVec 5) (w : MemWidth) (m : BitVec 3) (k : BitVec 2) :
    Outcome.Safe (execVgth sw d a b w m k s) := by
  unfold execVgth
  exact State.issue_safe hs _ _ (fun t1 h => by
    split
    · rename_i e
      exact State.trapAccess_safe (Safe.of_fst e (State.checkLanes_safe h ..)) ..
    · rename_i e
      exact State.retireAfter_safe (State.pushPlaces_safe (State.writeLater_safe (Safe.of_fst e (State.checkLanes_safe h ..)) ..) ..) ..)

theorem State.signLanes_safe {s : State} (hs : Safe s) (w : Nat) (at_ : Nat → Word) (v : Vec) (is : List Nat) : Safe (State.signLanes w at_ v is s) := by
  induction is generalizing s with
  | nil => exact hs
  | cons i is ih => exact ih (State.sign_safe hs ..)

theorem execVsct_safe {s : State} (hs : Safe s) (sw : Bool) (d : BitVec 5) (a : BitVec 5) (b : BitVec 5) (w : MemWidth) (m : BitVec 3) (k : BitVec 2) :
    Outcome.Safe (execVsct sw d a b w m k s) := by
  unfold execVsct
  exact State.issue_safe hs _ _ (fun t1 h => by
    split
    · rename_i e
      exact State.trapAccess_safe (Safe.of_fst e (State.checkLanes_safe h ..)) ..
    · rename_i e
      exact State.retireAfter_safe (State.signLanes_safe (State.pushPlaces_safe (Safe.of_fst e (State.checkLanes_safe h ..)) ..) ..) ..)

theorem execPref_safe {s : State} (hs : Safe s) (sw : Bool) (a : BitVec 5) (b : BitVec 5) (k : BitVec 2) (ext : Ext) :
    Outcome.Safe (execPref sw a b k ext s) := State.issue_safe hs _ _ (fun _ h => h)

theorem State.flushLine_safe {s : State} (hs : Safe s) (sw : Bool) (size : Nat) (c : Scope) (line : Nat) (ready : Nat) :
    Safe (State.flushLine s sw size c line ready) := by
  unfold State.flushLine
  split <;> exact hs

theorem execFlush_safe {s : State} (hs : Safe s) (sw : Bool) (a : BitVec 5) (b : BitVec 5) (c : Scope) (k : BitVec 2) (ext : Ext) :
    Outcome.Safe (execFlush sw a b c k ext s) := by
  unfold execFlush
  exact State.issue_safe hs _ _ (fun t1 h => by
    split
    · exact State.flushLine_safe h ..
    · exact State.access_safe h _ _ _ _ (fun t2 x3 x4 h1 => State.flushLine_safe h1 ..))

theorem State.probeLeaf_safe {s : State} (hs : Safe s) (a : Word) : Safe (State.probeLeaf s a).1 := by
  unfold State.probeLeaf
  split
  · split
    · rename_i e
      exact Safe.of_fst e (State.translate_safe hs ..)
  · exact hs

theorem execTlbprb_safe {s : State} (hs : Safe s) (sw : Bool) (d : BitVec 5) (a : BitVec 5) : Outcome.Safe (execTlbprb sw d a s) := by
  unfold execTlbprb
  exact State.issue_safe hs _ _ (fun t1 h => by
    split
    · rename_i e
      exact State.retire_safe (State.writeLater_safe (Safe.of_fst e (State.probeLeaf_safe h ..)) ..) ..)

theorem State.dropEntries_safe {s : State} (hs : Safe s) (i : Tlbinv) : Safe (State.dropEntries s i) := hs

theorem execTlbinv_safe {s : State} (hs : Safe s) (sw : Bool) (a : BitVec 5) (b : BitVec 5) (c : Scope) : Outcome.Safe (execTlbinv sw a b c s) := by
  unfold execTlbinv
  exact State.issue_safe hs _ _ (fun t1 h => by
    split
    · exact State.illegal_safe h
    · split
      · exact h
      · exact h)

theorem State.runInvs_safe {s : State} (hs : Safe s) (is : List Tlbinv) : Safe (State.runInvs is s).1 := by
  induction is generalizing s with
  | nil => exact hs
  | cons i is ih =>
    unfold State.runInvs
    split
    · exact ih hs
    · split
      · split
        · exact ih hs
        · exact ih hs
      · exact ih (State.dropEntries_safe hs ..)

theorem execTlbinvCompletion_safe {s : State} (hs : Safe s) (ctx : Fin 11) : Outcome.Safe (execTlbinvCompletion ctx s) := by
  unfold execTlbinvCompletion
  split
  · rename_i e
    exact State.modCtxAt_safe (Safe.of_fst e (State.runInvs_safe hs ..)) ..

theorem execTlbwait_safe {s : State} (hs : Safe s) (sw : Bool) : Outcome.Safe (execTlbwait sw s) := by
  unfold execTlbwait
  exact State.issue_safe hs _ _ (fun t1 h => by
    split
    · exact h
    · exact h)

theorem execRgnq_safe {s : State} (hs : Safe s) (sw : Bool) (d : BitVec 5) (a : BitVec 5) : Outcome.Safe (execRgnq sw d a s) := by
  unfold execRgnq
  exact State.issue_safe hs _ _ (fun t1 h => by
    split
    · exact State.illegal_safe h
    · exact State.retire_safe (State.writeLater_safe h ..) ..)

theorem execWalk_safe {s : State} (hs : Safe s) (va : Word) : Outcome.Safe (execWalk va s) := by
  unfold execWalk
  split
  · exact State.probeLeaf_safe hs ..
  · exact hs

theorem execDeferredUncorrectable_safe {s : State} (hs : Safe s) (ctx : Fin 11) (y1 : Nat) (source : BitVec 3) (iaddr : Word) (caddr : Word) :
    Outcome.Safe (execDeferredUncorrectable ctx y1 source iaddr caddr s) := by
  unfold execDeferredUncorrectable
  split <;> exact hs

/-! ## The landing set -/

theorem State.launch_safe {s : State} (hs : Safe s) (t : BitVec 5) : Safe (State.launch s t) := by
  unfold State.launch
  dsimp only
  split
  · rename_i e
    exact State.post_safe (State.modCtx_safe (by
      split
      · exact State.violation_safe (Safe.of_fst e (State.check_safe hs ..)) ..
      · exact Safe.of_fst e (State.check_safe hs ..)) ..) ..
  · rename_i e
    exact State.push_safe (State.modCtx_safe (Safe.of_fst e (State.check_safe hs ..)) ..) ..

theorem execLdt_safe {s : State} (hs : Safe s) (sw : Bool) (n : BitVec 5) (a : BitVec 5) (b : BitVec 5) (w : TagWidth) (k : BitVec 2) (ext : Ext) :
    Outcome.Safe (execLdt sw n a b w k ext s) := by
  unfold execLdt
  exact State.issue_safe hs _ _ (fun t1 h => by
    dsimp only
    split
    · exact State.trapHere_safe h ..
    · exact State.retire_safe (State.launch_safe (State.modCtx_safe h ..) ..) ..)

theorem State.landRead_safe {s : State} (hs : Safe s) (ctx : Fin 11) (tag : BitVec 5) : Safe (State.landRead s ctx tag) := State.landSlot_safe hs ..

theorem execSlotLands_safe {s : State} (hs : Safe s) (ctx : Fin 11) (tag : BitVec 5) : Outcome.Safe (execSlotLands ctx tag s) := by
  unfold execSlotLands
  split
  · dsimp only
    split
    · exact State.landRead_safe (State.tryAcc_safe hs ..) ..
    · exact State.tryAcc_safe hs ..
  · split
    · exact State.landRead_safe hs ..
    · exact hs

theorem State.takeFault_safe {s : State} (hs : Safe s) (t : BitVec 5) : Safe (State.takeFault s t) := State.raise_safe hs ..

theorem State.takeInto_safe {s : State} (hs : Safe s) (v : Bool) (d : BitVec 5) (x : Slot) : Safe (State.takeInto s v d x) := by
  unfold State.takeInto
  split
  · exact State.writeLate_safe (State.modCtx_safe hs ..) ..
  · exact State.writeLate_safe (State.modCtx_safe hs ..) ..

theorem State.takeOrders_safe {s : State} (hs : Safe s) (load : Nat) : Safe (State.takeOrders s load) := hs

theorem State.takeSlot_safe {s : State} (hs : Safe s) (v : Bool) (d : BitVec 5) (t : BitVec 5) {k : State → State} (hk : ∀ t, Safe t → Safe (k t)) :
    Safe (State.takeSlot s v d t k) := by
  unfold State.takeSlot
  dsimp only
  split
  · split
    · exact hs
    · exact hk _ (State.modCtx_safe (State.takeInto_safe (State.takeOrders_safe hs ..) ..) ..)
  · exact State.takeFault_safe hs ..
  · exact hs

theorem State.noteTake_safe {s : State} (hs : Safe s) (t : BitVec 5) : Safe (State.noteTake s t) := by
  unfold State.noteTake
  dsimp only
  split
  · split
    · exact State.flushTakes_safe (State.modCtx_safe hs ..) ..
    · exact hs
  · split
    · exact State.flushTakes_safe (State.modCtx_safe hs ..) ..
    · exact hs

theorem State.diverge_safe {s : State} (hs : Safe s) (t : BitVec 5) : Safe (State.diverge s t) := State.abortJob_safe (State.logEntry_safe hs ..) ..

theorem execTka_safe {s : State} (hs : Safe s) (sw : Bool) (d : BitVec 5) (a : BitVec 5) (v : Bool) : Outcome.Safe (execTka sw d a v s) := by
  unfold execTka
  exact State.issue_safe hs _ _ (fun t1 h => by
    split
    · exact State.illegal_safe h
    · exact State.diverge_safe h ..
    · exact h
    · exact State.takeSlot_safe h _ _ _ (fun t2 h1 => State.retire_safe (State.writeLate_safe (State.modCtx_safe (State.noteTake_safe h1 ..) ..) ..) ..))

theorem execTkt_safe {s : State} (hs : Safe s) (sw : Bool) (d : BitVec 5) (n : BitVec 5) (v : Bool) : Outcome.Safe (execTkt sw d n v s) := by
  unfold execTkt
  exact State.issue_safe hs _ _ (fun t1 h => by
    split
    · exact State.takeSlot_safe h _ _ _ (fun t2 h1 => h1)
    · exact State.illegal_safe h)

theorem execReld_safe {s : State} (hs : Safe s) (sw : Bool) (n : BitVec 5) : Outcome.Safe (execReld sw n s) := by
  unfold execReld
  exact State.issue_safe hs _ _ (fun t1 h => by
    split
    · exact State.illegal_safe h
    · exact State.retire_safe (State.launch_safe (State.modCtx_safe h ..) ..) ..)

theorem execReldDrop_safe {s : State} (hs : Safe s) (sw : Bool) (n : BitVec 5) : Outcome.Safe (execReldDrop sw n s) := by
  unfold execReldDrop
  exact State.issue_safe hs _ _ (fun t1 h => by
    split
    · exact State.illegal_safe h
    · exact h)

theorem State.relaunchSlots_safe {s : State} (hs : Safe s) :
    Safe (State.relaunchSlots s) := Safe.foldl (State.modCtx_safe hs ..) (fun _ _ h => State.launch_safe h ..) ..

theorem execLsq_safe {s : State} (hs : Safe s) (sw : Bool) (d : BitVec 5) (e : BitVec 2) :
    Outcome.Safe (execLsq sw d e s) := State.issue_safe hs _ _ (fun _ h => h)

theorem execLsmode_safe {s : State} (hs : Safe s) (sw : Bool) (m : Bool) : Outcome.Safe (execLsmode sw m s) := by
  unfold execLsmode
  exact State.issue_safe hs _ _ (fun t1 h => by
    split
    · exact State.illegal_safe h
    · exact h)

end Sys2Proof.Machine
end

section
/-! SUPPORT. Memory stays canonical under transfers, synchronization and atomics. -/

namespace Sys2Proof.Machine

open Sys2Proof

/-! ## Transfers -/

theorem State.setChan_safe {s : State} (hs : Safe s) (q : Fin 5) (c : Chan) : Safe (State.setChan s q c) := hs

theorem State.enqueue_safe {s : State} (hs : Safe s) (sw : Bool) (q : Fin 5) (k : CmdKind) (v : Vec) (c : Scope) : Safe (State.enqueue s sw q k v c) := by
  unfold State.enqueue
  dsimp only
  split
  · exact hs
  · exact State.retire_safe (by
      split
      · exact hs
      · exact hs) ..

theorem State.phaseOk_safe {s : State} (hs : Safe s) (k : CmdKind) (v : Vec) {go : State → State} (hgo : ∀ t, Safe t → Safe (go t)) :
    Safe (State.phaseOk s k v go) := by
  unfold State.phaseOk
  split
  · exact hgo _ hs
  · split
    · exact State.phaseViolation_safe hs
    · split
      · exact State.trapLogged_safe hs ..
      · exact hgo _ hs

theorem State.pushCmd_safe {s : State} (hs : Safe s) (sw : Bool) (q : Fin 5) (k : CmdKind) (a : BitVec 5) (c : Scope) (bad : Vec → Bool) :
    Safe (State.pushCmd s sw q k a c bad) := by
  unfold State.pushCmd
  dsimp only
  split
  · exact State.illegal_safe hs
  · exact State.phaseOk_safe hs _ _ (fun t1 h => State.enqueue_safe h ..)

theorem execQpush_safe {s : State} (hs : Safe s) (sw : Bool) (q : BitVec 5) (a : BitVec 5) (c : Scope) :
    Outcome.Safe (execQpush sw q a c s) := State.issue_safe hs _ _ (fun _ h => State.pushCmd_safe h ..)

theorem execGx_safe {s : State} (hs : Safe s) (sw : Bool) (a : BitVec 5) (c : Scope) :
    Outcome.Safe (execGx sw a c s) := State.issue_safe hs _ _ (fun _ h => State.pushCmd_safe h ..)

theorem execGxs_safe {s : State} (hs : Safe s) (sw : Bool) (a : BitVec 5) (c : Scope) :
    Outcome.Safe (execGxs sw a c s) := State.issue_safe hs _ _ (fun _ h => State.pushCmd_safe h ..)

theorem execCompact_safe {s : State} (hs : Safe s) (sw : Bool) (a : BitVec 5) (c : Scope) :
    Outcome.Safe (execCompact sw a c s) := State.issue_safe hs _ _ (fun _ h => State.pushCmd_safe h ..)

theorem State.overflowTrap_safe {s : State} (hs : Safe s) (pc : Word) (e : Element) : Safe (State.overflowTrap s pc e) := by
  unfold State.overflowTrap
  split
  · exact State.raise_safe hs ..
  · exact hs

theorem State.takeElement_safe {s : State} (hs : Safe s) (sw : Bool) (d : BitVec 5) (q : Fin 5) (e : Element) :
    Safe (State.takeElement s sw d q e) :=
  State.overflowTrap_safe (State.retire_safe (State.acquireFrom_safe (State.writeX_safe (State.setChan_safe hs ..) ..) ..) ..) ..

theorem State.nextRange_safe {s : State} (hs : Safe s) : Safe (State.nextRange s).1 := by
  unfold State.nextRange
  dsimp only
  repeat' split
  all_goals exact hs

theorem State.popRange_safe {s : State} (hs : Safe s) (sw : Bool) (d : BitVec 5) : Safe (State.popRange s sw d) := by
  unfold State.popRange
  split
  · rename_i e
    exact State.retire_safe (State.writeX_safe (State.modCtx_safe (Safe.of_fst e (State.nextRange_safe hs)) ..) ..) ..

theorem execQpop_safe {s : State} (hs : Safe s) (sw : Bool) (d : BitVec 5) (q : BitVec 5) : Outcome.Safe (execQpop sw d q s) := by
  unfold execQpop
  exact State.issue_safe hs _ _ (fun t1 h => by
    split
    · exact State.popRange_safe h ..
    · split
      · exact State.takeElement_safe h ..
      · exact h)

theorem execQtry_safe {s : State} (hs : Safe s) (sw : Bool) (d : BitVec 5) (q : BitVec 5) : Outcome.Safe (execQtry sw d q s) := by
  unfold execQtry
  exact State.issue_safe hs _ _ (fun t1 h => by
    split
    · exact State.takeElement_safe h ..
    · exact h)

theorem execQlen_safe {s : State} (hs : Safe s) (sw : Bool) (d : BitVec 5) (q : BitVec 5) :
    Outcome.Safe (execQlen sw d q s) := State.issue_safe hs _ _ (fun _ h => h)

theorem execWmrd_safe {s : State} (hs : Safe s) (sw : Bool) (d : BitVec 5) (q : BitVec 5) :
    Outcome.Safe (execWmrd sw d q s) := State.issue_safe hs _ _ (fun _ h => h)

theorem State.engineCheck_safe {s : State} (hs : Safe s) (acc : Access) (a : Word) (n : Nat) (exchange : Bool) :
    Safe (State.engineCheck s acc a n exchange).1 := by
  unfold State.engineCheck
  split
  · exact hs
  · split
    · rename_i e
      exact Safe.of_fst e (State.check_safe hs ..)

theorem State.modHead_safe {s : State} (hs : Safe s) (q : Fin 5) (f : Cmd → Cmd) : Safe (State.modHead s q f) := by
  unfold State.modHead
  dsimp only
  split <;> exact hs

theorem State.cmdCheck_safe {s : State} (hs : Safe s) (q : Fin 5) (acc : Access) (a : Word) (n : Nat) : Safe (State.cmdCheck s q acc a n).1 := by
  unfold State.cmdCheck
  split
  · exact State.engineCheck_safe hs ..
  · split
    · exact hs
    · split
      · rename_i e1
        exact Safe.of_fst e1 (State.engineCheck_safe hs ..)
      · rename_i e1
        exact State.modHead_safe (Safe.of_fst e1 (State.engineCheck_safe hs ..)) ..

theorem State.placeMoves_safe {s : State} (hs : Safe s) (q : Fin 5) (ms : List Move) : Safe (State.placeMoves q ms s).1 := by
  induction ms generalizing s with
  | nil => exact hs
  | cons m ms ih =>
    have source := State.cmdCheck_safe hs q .engineRead m.src m.bytes
    unfold State.placeMoves
    rcases e : s.cmdCheck q .engineRead m.src m.bytes with ⟨t, f | p⟩ <;> rw [e] at source
    · exact source
    · have target := State.cmdCheck_safe source q .engineWrite m.dst m.bytes
      dsimp only
      rcases c : t.cmdCheck q .engineWrite m.dst m.bytes with ⟨u, f | r⟩ <;> rw [c] at target
      · exact target
      · have later := ih target
        dsimp only
        rcases l : State.placeMoves q ms u with ⟨w, f | ps⟩ <;> rw [l] at later <;> exact later

theorem State.engineRetry_safe {s : State} (hs : Safe s) (q : Fin 5) : Safe (State.engineRetry s q) := State.modHead_safe hs ..

theorem State.engineFault_safe {s : State} (hs : Safe s) (q : Fin 5) (f : AccessFault) : Safe (State.engineFault s q f) := by
  unfold State.engineFault
  split
  · exact State.modHead_safe hs ..
  · exact State.modHead_safe (State.unitViolation_safe hs ..) ..

theorem State.engineBad_safe {s : State} (hs : Safe s) (q : Fin 5) : Safe (State.engineBad s q) := State.post_safe (State.modHead_safe hs ..) ..

theorem State.skipBad_safe {s : State} (hs : Safe s) (q : Fin 5) (a : Word) (key : Nat) (src : Nat) : Safe (State.skipBad s q a key src) := by
  unfold State.skipBad
  split
  · exact State.modHead_safe (by
      split
      · exact hs
      · exact State.logEntry_safe hs ..) ..
  · exact hs

theorem State.engineWrite_safe {s : State} (hs : Safe s) (q : Fin 5) (key : Nat) (bs : List Byte) : Safe (State.engineWrite s q key bs) := by
  unfold State.engineWrite
  split
  · exact State.modHead_safe (by
      split
      · exact hs
      · split
        · exact State.modHead_safe hs ..
        · exact State.pokeAs_safe hs ..) ..
  · exact hs

theorem State.makeMoves_safe {s : State} (hs : Safe s) (q : Fin 5) (c : Cmd) (i : Nat) (ms : List PlacedMove) : Safe (State.makeMoves q c i ms s) := by
  induction ms generalizing s i with
  | nil => exact hs
  | cons m ms ih =>
    unfold State.makeMoves
    split
    · exact ih (State.skipBad_safe hs ..) _
    · exact ih (State.engineWrite_safe hs ..) _

theorem State.runMoves_safe {s : State} (hs : Safe s) (q : Fin 5) (c : Cmd) (i : Nat)
    (ms : List Move) {fault : State → AccessFault → State} {k : State → State} (hfault : ∀ t x1, Safe t → Safe (fault t x1)) (hk : ∀ t, Safe t → Safe (k t)) :
    Safe (State.runMoves s q c i ms fault k) := by
  unfold State.runMoves
  split
  · rename_i e
    exact hfault _ _ (Safe.of_fst e (State.placeMoves_safe hs ..))
  · rename_i e
    split
    · exact State.engineRetry_safe (Safe.of_fst e (State.placeMoves_safe hs ..)) ..
    · split
      · exact State.engineBad_safe (Safe.of_fst e (State.placeMoves_safe hs ..)) ..
      · exact hk _ (State.makeMoves_safe (Safe.of_fst e (State.placeMoves_safe hs ..)) ..)

theorem State.engineRead_safe {s : State} (hs : Safe s) (q : Fin 5) (c : Cmd) (a : Word) (n : Nat) {k : State → Nat → State} (hk : ∀ t x1, Safe t → Safe
    (k t x1)) :
    Safe (State.engineRead s q c a n k) := by
  unfold State.engineRead
  split
  · rename_i e
    exact State.engineFault_safe (Safe.of_fst e (State.cmdCheck_safe hs ..)) ..
  · rename_i e
    split
    · exact State.engineRetry_safe (Safe.of_fst e (State.cmdCheck_safe hs ..)) ..
    · split
      · split
        · exact hk _ _ (State.skipBad_safe (Safe.of_fst e (State.cmdCheck_safe hs ..)) ..)
        · exact State.engineBad_safe (Safe.of_fst e (State.cmdCheck_safe hs ..)) ..
      · exact hk _ _ (Safe.of_fst e (State.cmdCheck_safe hs ..))

theorem State.enginePiece_safe {s : State} (hs : Safe s) (q : Fin 5) (c : Cmd) (i : Nat) (a : Word) (n : Nat) {k : State → Nat → State}
    (hk : ∀ t x1, Safe t → Safe (k t x1)) :
    Safe (State.enginePiece s q c i a n k) := by
  unfold State.enginePiece
  split
  · exact hk _ _ hs
  · exact State.engineRead_safe hs _ _ _ _ hk

theorem State.engineStore_safe {s : State} (hs : Safe s) (q : Fin 5) (a : Word) (bs : List Byte) {k : State → State} (hk : ∀ t, Safe t → Safe (k t)) :
    Safe (State.engineStore s q a bs k) := by
  unfold State.engineStore
  split
  · rename_i e
    exact State.engineFault_safe (Safe.of_fst e (State.cmdCheck_safe hs ..)) ..
  · rename_i e
    split
    · exact State.engineRetry_safe (Safe.of_fst e (State.cmdCheck_safe hs ..)) ..
    · exact hk _ (State.engineWrite_safe (Safe.of_fst e (State.cmdCheck_safe hs ..)) ..)

theorem State.unitDone_safe {s : State} (hs : Safe s) (q : Fin 5) : Safe (State.unitDone s q) := State.modHead_safe hs ..

theorem State.copyUnit_safe {s : State} (hs : Safe s) (q : Fin 5) (c : Cmd) :
    Safe (State.copyUnit s q c) := State.runMoves_safe hs _ _ _ _ (fun _ _ h => State.engineFault_safe h ..) (fun _ h => State.unitDone_safe h ..)

theorem State.pruneGroup_safe {s : State} (hs : Safe s) (q : Fin 5) (c : Cmd) (i : Nat) (ps : List PlacedMove) : Safe (State.pruneGroup s q c i ps).1 := by
  unfold State.pruneGroup
  dsimp only
  split
  · exact State.skipBad_safe hs ..
  · exact State.engineWrite_safe (State.engineWrite_safe hs ..) ..

theorem State.pruneGroups_safe {s : State} (hs : Safe s) (q : Fin 5) (c : Cmd) (key : Nat) (lo : List PlacedMove) (hi : List PlacedMove) :
    Safe (State.pruneGroups s q c key lo hi) := by
  unfold State.pruneGroups
  dsimp only
  split
  · split
    · exact State.pruneGroup_safe hs ..
    · exact State.engineWrite_safe (State.pruneGroup_safe hs ..) ..
  · split
    · exact State.pruneGroup_safe (State.pruneGroup_safe hs ..) ..
    · exact State.engineWrite_safe (State.pruneGroup_safe (State.pruneGroup_safe hs ..) ..) ..

theorem State.pruneUnit_safe {s : State} (hs : Safe s) (q : Fin 5) (c : Cmd) : Safe (State.pruneUnit s q c) := by
  unfold State.pruneUnit
  split
  · rename_i e
    exact State.engineFault_safe (Safe.of_fst e (State.placeMoves_safe hs ..)) ..
  · rename_i e
    split
    · rename_i e1
      exact State.engineFault_safe (Safe.of_fst e1 (State.cmdCheck_safe (Safe.of_fst e (State.placeMoves_safe hs ..)) ..)) ..
    · rename_i e1
      split
      · exact State.engineRetry_safe (Safe.of_fst e1 (State.cmdCheck_safe (Safe.of_fst e (State.placeMoves_safe hs ..)) ..)) ..
      · split
        · exact State.engineBad_safe (Safe.of_fst e1 (State.cmdCheck_safe (Safe.of_fst e (State.placeMoves_safe hs ..)) ..)) ..
        · exact State.unitDone_safe (State.pruneGroups_safe (Safe.of_fst e1 (State.cmdCheck_safe (Safe.of_fst e (State.placeMoves_safe hs ..)) ..)) ..) ..

theorem State.gatherFault_safe {s : State} (hs : Safe s) (q : Fin 5) (v : Vec) (i : Nat) (x : Nat) (f : AccessFault) :
    Safe (State.gatherFault s q v i x f) := by
  unfold State.gatherFault
  dsimp only
  split
  · exact State.engineFault_safe hs ..
  · exact State.unitViolation_safe (State.engineFault_safe hs ..) ..

theorem State.gatherRow_safe {s : State} (hs : Safe s) (q : Fin 5) (c : Cmd) (x : Nat) :
    Safe (State.gatherRow s q c x) :=
  State.runMoves_safe hs _ _ _ _ (fun _ _ h => State.gatherFault_safe h ..) (fun _ h => State.unitDone_safe h ..)

theorem State.gatherUnit_safe {s : State} (hs : Safe s) (q : Fin 5) (c : Cmd) : Safe (State.gatherUnit s q c) := by
  unfold State.gatherUnit
  dsimp only
  split
  · exact State.gatherRow_safe hs ..
  · split
    · rename_i e
      exact State.engineFault_safe (Safe.of_fst e (State.cmdCheck_safe hs ..)) ..
    · rename_i e
      split
      · exact State.engineRetry_safe (Safe.of_fst e (State.cmdCheck_safe hs ..)) ..
      · split
        · split
          · exact State.unitDone_safe (State.skipBad_safe (Safe.of_fst e (State.cmdCheck_safe hs ..)) ..) ..
          · exact State.engineBad_safe (Safe.of_fst e (State.cmdCheck_safe hs ..)) ..
        · exact State.gatherRow_safe (Safe.of_fst e (State.cmdCheck_safe hs ..)) ..

theorem State.compactCount_safe {s : State} (hs : Safe s) (q : Fin 5) (c : Cmd) (p : Word) : Safe (State.compactCount s q c p) := by
  unfold State.compactCount
  exact State.engineRead_safe hs _ _ _ _ (fun t1 x h => State.engineRead_safe h _ _ _ _ (fun t2 x2 h1 => by
    split
    · exact State.modHead_safe (State.unitViolation_safe h1 ..) ..
    · exact State.modHead_safe h1 ..))

theorem State.compactCopy_safe {s : State} (hs : Safe s) (q : Fin 5) (c : Cmd) (p : Word) :
    Safe (State.compactCopy s q c p) :=
  State.enginePiece_safe hs _ _ _ _ _ (fun _ _ h => State.enginePiece_safe h _ _ _ _ _ (fun _ _ h1 => State.runMoves_safe h1 _ _ _ _ (fun _ _ h2 => State.engineFault_safe h2 ..) (fun _ h2 => State.modHead_safe h2 ..)))

theorem State.compactUnit_safe {s : State} (hs : Safe s) (q : Fin 5) (c : Cmd) : Safe (State.compactUnit s q c) := by
  unfold State.compactUnit
  dsimp only
  split
  · split
    · exact State.engineStore_safe hs _ _ _ (fun t1 h => State.modHead_safe h ..)
    · exact State.engineRead_safe hs _ _ _ _ (fun t1 x3 h => State.modHead_safe h ..)
  · split
    · split
      · exact State.compactCopy_safe hs ..
      · exact State.compactCount_safe hs ..
    · split
      · exact State.modHead_safe hs ..
      · split
        · exact State.modHead_safe hs ..
        · exact State.modHead_safe hs ..

theorem State.engineUnit_safe {s : State} (hs : Safe s) (q : Fin 5) (c : Cmd) : Safe (State.engineUnit s q c) := by
  unfold State.engineUnit
  split
  · split
    · exact State.pruneUnit_safe hs ..
    · exact State.copyUnit_safe hs ..
  · exact State.compactUnit_safe hs ..
  · exact State.gatherUnit_safe hs ..

theorem State.engineNext_safe {s : State} (hs : Safe s) (q : Fin 5) : Safe (State.engineNext s q) := by
  unfold State.engineNext
  repeat' split
  all_goals exact hs

theorem State.engineStep_safe {s : State} (hs : Safe s) (q : Fin 5) (c : Cmd) : Safe (State.engineStep s q c) := by
  unfold State.engineStep
  split
  · exact hs
  · exact State.wake_safe (State.engineNext_safe (State.engineUnit_safe (State.modHead_safe hs ..) ..) ..)

theorem execAccessPerformed_safe {s : State} (hs : Safe s) (seq : Nat) : Outcome.Safe (execAccessPerformed seq s) := by
  unfold execAccessPerformed
  split
  · exact State.tryAcc_safe hs ..
  · split
    · exact State.writeHalf_safe hs ..
    · split
      · split
        · exact State.engineStep_safe hs ..
        · exact hs
      · exact hs

theorem State.modTerm_safe {s : State} (hs : Safe s) (i : Fin 16) (f : BellTerm → BellTerm) : Safe (State.modTerm s i f) := hs

theorem State.takeCredit_safe {s t : State} (hs : Safe s) (q : Fin 5) (e : State.takeCredit s q = some t) : Safe t := by
  unfold State.takeCredit at e
  split at e
  · cases e
    exact hs
  · obtain ⟨i, -, rfl⟩ := Option.map_eq_some_iff.1 e
    exact hs

theorem State.startCmd_safe {s : State} (hs : Safe s) (q : Fin 5) (c : Cmd) : Safe (State.startCmd s q c) := by
  unfold State.startCmd
  exact State.engineNext_safe (State.modHead_safe (by
    split
    · exact State.modHead_safe (State.modCore_safe hs ..) ..
    · exact hs) ..) ..

theorem execCommandStart_safe {s : State} (hs : Safe s) (q : Fin 5) : Outcome.Safe (execCommandStart q s) := by
  unfold execCommandStart
  split
  · exact hs
  · split
    · exact hs
    · split
      next t e =>
        split at e
        · exact State.startCmd_safe (State.takeCredit_safe hs q e) ..
        · cases e
      next => exact State.modHead_safe hs ..

theorem State.drainStores_safe {s : State} (hs : Safe s) (q : Fin 5) : Safe (State.drainStores s q) := by
  unfold State.drainStores
  split
  · exact State.modHead_safe (Safe.foldl hs (fun t1 x2 h => State.pokeAs_safe h ..) ..) ..
  · exact hs

theorem State.finishCmd_safe {s : State} (hs : Safe s) (q : Fin 5) (c : Cmd) (cs : List Cmd) : Safe (State.finishCmd s q c cs) := by
  unfold State.finishCmd
  exact State.wake_safe (by
    split
    · split
      · exact State.post_safe (by
          split
          · exact hs
          · exact hs) ..
      · split
        · exact hs
        · exact hs
    · exact State.post_safe (by
        split
        · exact State.post_safe (by
            split
            · exact hs
            · exact hs) ..
        · split
          · exact hs
          · exact hs) ..)

theorem State.pullPiece_safe {s : State} (hs : Safe s) (q : Fin 5) (u : Nat) (i : Nat) : Safe (State.pullPiece s q u i) := by
  unfold State.pullPiece
  split
  · split
    · exact hs
    · split
      · exact hs
      · split
        · exact hs
        · rename_i e2
          split
          · exact hs
          · exact State.modHead_safe (Safe.of_fst e2 (State.cmdCheck_safe hs ..)) ..
  · exact hs

theorem State.drainStore_safe {s : State} (hs : Safe s) (q : Fin 5) (i : Nat) : Safe (State.drainStore s q i) := by
  unfold State.drainStore
  split
  · split
    · split
      · exact State.wake_safe (State.modHead_safe (State.pokeAs_safe hs ..) ..)
      · exact hs
    · exact hs
  · exact hs

theorem State.deferUnit_safe {s : State} (hs : Safe s) (q : Fin 5) : Safe (State.deferUnit s q) := State.modHead_safe hs ..

theorem State.redoUnit_safe {s : State} (hs : Safe s) (q : Fin 5) (u : Nat) : Safe (State.redoUnit s q u) := State.modHead_safe hs ..

theorem State.delayStores_safe {s : State} (hs : Safe s) (q : Fin 5) : Safe (State.delayStores s q) := State.modHead_safe hs ..

theorem execCommandCompletion_safe {s : State} (hs : Safe s) (q : Fin 5) : Outcome.Safe (execCommandCompletion q s) := by
  unfold execCommandCompletion
  split
  · exact hs
  · split
    · exact hs
    · split
      · exact State.engineRetry_safe hs ..
      · exact State.finishCmd_safe (State.drainStores_safe hs ..) ..

theorem execFirmwarePath_safe {s : State} (hs : Safe s) (q : Fin 5) (resolved : Bool) : Outcome.Safe (execFirmwarePath q resolved s) := by
  unfold execFirmwarePath
  split
  · exact hs
  · split
    · exact hs
    · split
      · exact State.engineNext_safe (State.modHead_safe hs ..) ..
      · exact State.engineNext_safe (State.modHead_safe hs ..) ..

/-! ## Barriers, supersteps and the bellboard -/

theorem State.setGroup_safe {s : State} (hs : Safe s) (g : BitVec 5) (x : Group) : Safe (State.setGroup s g x) := hs

theorem State.groupCheck_safe {s : State} (hs : Safe s) (g : BitVec 5) (member : Bool) {k : State → State} (hk : ∀ t, Safe t → Safe (k t)) :
    Safe (State.groupCheck s g member k) := by
  unfold State.groupCheck
  split
  · exact State.resource_safe hs ..
  · split
    · exact State.illegal_safe hs
    · split
      · exact State.phaseViolation_safe hs
      · exact hk _ hs

theorem State.arrive_safe {s : State} (hs : Safe s) (d : BitVec 5) (g : BitVec 5) (w : BitVec 16) (c : Scope) (o : Bool) :
    Safe (State.arrive s d g w c o) := State.push_safe (State.writeLater_safe hs ..) ..

theorem execArv_safe {s : State} (hs : Safe s) (sw : Bool) (d : BitVec 5) (g : BitVec 5) (c : Scope) (o : Bool) :
    Outcome.Safe (execArv sw d g c o s) :=
  State.issue_safe hs _ _ (fun _ h => State.groupCheck_safe h _ _ (fun _ h1 => State.retire_safe (State.arrive_safe h1 ..) ..))

theorem execArvn_safe {s : State} (hs : Safe s) (sw : Bool) (d : BitVec 5) (a : BitVec 5) (g : BitVec 5) (c : Scope) (o : Bool) :
    Outcome.Safe (execArvn sw d a g c o s) := by
  unfold execArvn
  exact State.issue_safe hs _ _ (fun t1 h => State.groupCheck_safe h _ _ (fun t2 h1 => by
    split
    · exact State.illegal_safe h1
    · exact State.retire_safe (State.arrive_safe h1 ..) ..))

theorem State.compareSigs_safe {s : State} (hs : Safe s) {mismatch : State → State} {k : State → State} (hmismatch : ∀ t, Safe t → Safe (mismatch t))
    (hk : ∀ t, Safe t → Safe (k t)) :
    Safe (State.compareSigs s mismatch k) := by
  unfold State.compareSigs
  split
  · split
    · exact hk _ (State.modCore_safe hs ..)
    · exact hmismatch _ hs
  · exact hk _ hs

theorem State.redundancyAbort_safe {s : State} (hs : Safe s) (detail : BitVec 32) :
    Safe (State.redundancyAbort s detail) := State.abortJob_safe (State.logEntry_safe (State.logEntry_safe hs ..) ..) ..

theorem execWait_safe {s : State} (hs : Safe s) (sw : Bool) (a : BitVec 5) (g : BitVec 5) : Outcome.Safe (execWait sw a g s) := by
  unfold execWait
  exact State.issue_safe hs _ _ (fun t1 h => State.groupCheck_safe h _ _ (fun t2 h1 => by
    split
    · exact State.compareSigs_safe h1 (fun t3 h2 => State.redundancyAbort_safe h2 ..) (fun t3 h2 => h2)
    · exact h1))

theorem execWtest_safe {s : State} (hs : Safe s) (sw : Bool) (d : BitVec 5) (a : BitVec 5) (g : BitVec 5) :
    Outcome.Safe (execWtest sw d a g s) := State.issue_safe hs _ _ (fun _ h => State.groupCheck_safe h _ _ (fun _ h1 => h1))

theorem execPhase_safe {s : State} (hs : Safe s) (sw : Bool) (d : BitVec 5) (g : BitVec 5) :
    Outcome.Safe (execPhase sw d g s) := State.issue_safe hs _ _ (fun _ h => State.groupCheck_safe h _ _ (fun _ h1 => h1))

theorem execExpect_safe {s : State} (hs : Safe s) (sw : Bool) (a : BitVec 5) (g : BitVec 5) : Outcome.Safe (execExpect sw a g s) := by
  unfold execExpect
  exact State.issue_safe hs _ _ (fun t1 h => State.groupCheck_safe h _ _ (fun t2 h1 => by
    split
    · exact State.illegal_safe h1
    · exact h1))

theorem execBgstat_safe {s : State} (hs : Safe s) (sw : Bool) (d : BitVec 5) (g : BitVec 5) :
    Outcome.Safe (execBgstat sw d g s) := State.issue_safe hs _ _ (fun _ h => State.retire_safe (State.writeFrom_safe h ..) ..)

theorem State.rootDue_safe {s : State} (hs : Safe s) (g : BitVec 5) : Safe (State.rootDue s g) := by
  unfold State.rootDue
  split <;> exact hs

theorem State.rootDone_safe {s : State} (hs : Safe s) (g : BitVec 5) (old : BitVec 16) : Safe (State.rootDone s g old) := by
  unfold State.rootDone
  dsimp only
  split
  · exact State.rootDue_safe (State.post_safe hs ..) ..
  · exact hs

theorem State.rootCycle_safe {s : State} (hs : Safe s) (g : BitVec 5) : Safe (State.rootCycle s g) := by
  unfold State.rootCycle
  exact Safe.foldl (by
    split
    · exact State.rootDone_safe (State.setGroup_safe hs ..) ..
    · exact hs) (fun t1 x h => State.formWrite_safe h ..) ..

theorem State.noteArrival_safe {s : State} (hs : Safe s) (g : BitVec 5) (core : BitVec 12) (w : BitVec 16) : Safe (State.noteArrival s g core w) := by
  unfold State.noteArrival
  split <;> exact hs

theorem execArrival_safe {s : State} (hs : Safe s) (g : BitVec 5) (core : BitVec 12) (weight : BitVec 16) (report : Option (Fin 11 × Nat)) :
    Outcome.Safe (execArrival g core weight report s) := by
  unfold execArrival
  dsimp only
  split
  · exact hs
  · split
    · exact State.rootCycle_safe hs ..
    · exact State.rootDue_safe (State.setGroup_safe (State.noteArrival_safe hs ..) ..) ..

theorem execExpectReachesRoot_safe {s : State} (hs : Safe s) (g : BitVec 5) (n : BitVec 16) : Outcome.Safe (execExpectReachesRoot g n s) := by
  unfold execExpectReachesRoot
  dsimp only
  split
  · exact hs
  · exact State.rootDue_safe (State.setGroup_safe hs ..) ..

theorem State.superstepPasses_safe {s : State} (hs : Safe s) : Safe (State.superstepPasses s) := by
  unfold State.superstepPasses
  dsimp only
  split
  · exact hs
  · split
    · exact State.trace_safe (by exact hs) ..
    · exact hs

theorem execCompletionBroadcast_safe {s : State} (hs : Safe s) (g : BitVec 5) (phase : BitVec 16) : Outcome.Safe (execCompletionBroadcast g phase s) := by
  unfold execCompletionBroadcast
  dsimp only
  split
  · exact hs
  · split
    · exact State.superstepPasses_safe hs
    · exact hs

theorem restoreLines_wf {m : List Host.Cell} (w : Memory.wf m = true) (ls : List (Nat × List Byte)) : Memory.wf (restoreLines ls m) = true := by
  induction ls generalizing m with
  | nil => exact w
  | cons l ls ih => exact ih (Memory.wf_write w ..)

theorem State.restoreDaybook_safe {s : State} (hs : Safe s) (sn : Snapshot) : Safe (State.restoreDaybook s sn) := by
  have written : Memory.wf (restoreLines sn.lines s.mem) = true := restoreLines_wf hs _
  unfold State.restoreDaybook
  dsimp only [State.modCore]
  have fetched : ∀ v, Safe v → Safe (([0, 1, 2, 3] : List (BitVec 2)).foldl State.wantsFetch v) :=
    fun v h => Safe.foldl h (fun t a h => State.wantsFetch_safe h a) _
  generalize e : List.foldl State.wantsFetch _ _ = t
  have base : Safe t := e ▸ fetched _ (State.focus_safe (State.relaunchSlots_safe (State.focus_safe (State.forgetEarly_safe (by exact written) ..) ..)) ..)
  exact base

theorem State.openDaybook_safe {s : State} (hs : Safe s) : Safe (State.openDaybook s) := by
  unfold State.openDaybook
  split <;> exact hs

theorem State.syncArrive_safe {s : State} (hs : Safe s) (g : BitVec 5) :
    Safe (State.syncArrive s g) := State.waitOn_safe (State.post_safe (State.noteArrival_safe (by exact hs) ..) ..) ..

theorem State.syncDone_safe {s : State} (hs : Safe s) (sw : Bool) (d : BitVec 5) : Safe (State.syncDone s sw d) := by
  unfold State.syncDone
  dsimp only
  split
  · exact hs
  · split
    · exact State.stopJob_safe (State.openDaybook_safe hs)
    · exact State.openDaybook_safe hs

theorem State.syncMismatch_safe {s : State} (hs : Safe s) : Safe (State.syncMismatch s) := by
  unfold State.syncMismatch
  split
  · split
    · exact State.redundancyAbort_safe hs ..
    · exact State.restoreDaybook_safe hs ..
  · exact State.redundancyAbort_safe hs ..

theorem State.syncWithheld_safe {s : State} (hs : Safe s) : Safe (State.syncWithheld s) := by
  unfold State.syncWithheld
  split
  · exact State.restoreDaybook_safe hs ..
  · exact State.redundancyAbort_safe hs ..

theorem execSync_safe {s : State} (hs : Safe s) (sw : Bool) (d : BitVec 5) : Outcome.Safe (execSync sw d s) := by
  unfold execSync
  exact State.issue_safe hs _ _ (fun t1 h => by
    split
    · exact State.illegal_safe h
    · split
      · exact State.illegal_safe h
      · split
        · split
          · exact h
          · split
            · exact State.syncWithheld_safe h
            · exact State.syncDone_safe h ..
        · split
          · exact h
          · exact State.compareSigs_safe h (fun t2 h1 => State.syncMismatch_safe h1) (fun t2 h1 => State.syncArrive_safe h1 ..))

theorem State.fenceEarly_safe {s : State} (hs : Safe s) (c : Scope) (sc : Bool) : Safe (State.fenceEarly s c sc) := by
  unfold State.fenceEarly
  split <;> exact hs

theorem execFence_safe {s : State} (hs : Safe s) (sw : Bool) (c : Scope) (o : Bool) :
    Outcome.Safe (execFence sw c o s) := State.issue_safe hs _ _ (fun _ h => State.retire_safe (State.modCtx_safe (State.fenceEarly_safe h ..) ..) ..)

theorem State.touchBoard_safe {s : State} (hs : Safe s) : Safe (State.touchBoard s) := hs

theorem State.boardOp_safe {s : State} (hs : Safe s) (y1 : BoardOp) : Safe (State.boardOp s y1) := by
  unfold State.boardOp
  split <;> exact hs

theorem execBbset_safe {s : State} (hs : Safe s) (sw : Bool) (a : BitVec 5) (term : Bool) (i : BitVec 4) : Outcome.Safe (execBbset sw a term i s) := by
  unfold execBbset
  exact State.issue_safe hs _ _ (fun t1 h => by
    dsimp only
    split
    · exact State.illegal_safe h
    · split
      · split
        · exact State.illegal_safe h
        · exact h
      · split
        · exact State.illegal_safe h
        · exact h)

theorem execBbrd_safe {s : State} (hs : Safe s) (sw : Bool) (d : BitVec 5) (term : Bool) (i : BitVec 4) : Outcome.Safe (execBbrd sw d term i s) := by
  unfold execBbrd
  exact State.issue_safe hs _ _ (fun t1 h => by
    split
    · exact State.illegal_safe h
    · exact State.retire_safe (State.writeFrom_safe (State.touchBoard_safe h) ..) ..)

theorem execBbclr_safe {s : State} (hs : Safe s) (sw : Bool) (a : BitVec 5) : Outcome.Safe (execBbclr sw a s) := by
  unfold execBbclr
  exact State.issue_safe hs _ _ (fun t1 h => by
    split
    · exact State.illegal_safe h
    · exact h)

theorem execBbpulse_safe {s : State} (hs : Safe s) (sw : Bool) (j : BitVec 4) : Outcome.Safe (execBbpulse sw j s) := by
  unfold execBbpulse
  exact State.issue_safe hs _ _ (fun t1 h => by
    split
    · exact State.illegal_safe h
    · exact h)

theorem State.termHelper_safe {s : State} (hs : Safe s) (i : Fin 16) (t : BellTerm) : Safe (State.termHelper s i t) := by
  unfold State.termHelper
  dsimp only
  split
  · exact hs
  · exact State.startHelper_safe hs ..

theorem State.termElsewhere_safe {s : State} (hs : Safe s) (i : Fin 16) (t : BellTerm) : Safe (State.termElsewhere s i t) := by
  unfold State.termElsewhere
  split <;> exact hs

theorem State.termAct_safe {s : State} (hs : Safe s) (i : Fin 16) (t : BellTerm) : Safe (State.termAct s i t) := by
  unfold State.termAct
  dsimp only
  split
  · exact hs
  · split
    · exact State.termHelper_safe hs ..
    · exact State.termElsewhere_safe hs ..
  · exact hs
  · exact hs

theorem State.testTerms_safe {s : State} (hs : Safe s) (is : List (Fin 16)) : Safe (State.testTerms is s) := by
  induction is generalizing s with
  | nil => exact hs
  | cons i is ih =>
    unfold State.testTerms
    dsimp only
    split
    · have fired : Safe (({ s with clu := { s.clu with counters := (s.clu.terms.get i).consume s.clu.counters } } : State).count 15) :=
        State.count_safe (by exact hs) 15
      generalize State.count _ _ = t at fired ⊢
      refine ih ?_
      split
      · exact fired
      · exact State.wake_safe (State.modTerm_safe (by exact fired) ..)
    · exact ih hs

theorem State.boardDue_safe {s : State} (hs : Safe s) : Safe (State.boardDue s) := Safe.foldl (by exact hs) (fun t1 x h => State.termAct_safe h ..) ..

theorem State.boardPeers_safe {s : State} (hs : Safe s) : Safe (State.boardPeers s) := Safe.foldl (by exact hs) (fun t1 x h => State.boardOp_safe h ..) ..

theorem State.boardCycle_safe {s : State} (hs : Safe s) :
    Safe (State.boardCycle s) := State.testTerms_safe (by exact Safe.of_mem (State.boardPeers_safe (State.boardDue_safe hs)) rfl) ..

theorem execPulse_safe {s : State} (hs : Safe s) (src : BitVec 8) : Outcome.Safe (execPulse src s) := by
  unfold execPulse
  split
  · exact State.boardCycle_safe hs
  · exact hs

theorem execHeldHelperStart_safe {s : State} (hs : Safe s) (term : BitVec 4) : Outcome.Safe (execHeldHelperStart term s) := by
  unfold execHeldHelperStart
  dsimp only
  split
  · exact hs
  · split
    · exact State.startHelper_safe (State.modTerm_safe hs ..) ..
    · exact hs

theorem State.sendProbe_safe {s : State} (hs : Safe s) (n : Fin 11) (w : Wait) (sender : BitVec 16) (minimum : BitVec 16) :
    Safe (State.sendProbe s n w sender minimum) := by
  unfold State.sendProbe
  split <;> exact hs

theorem execProbe_safe {s : State} (hs : Safe s) (ctx : Fin 11) : Outcome.Safe (execProbe ctx s) := by
  unfold execProbe
  split
  · exact State.sendProbe_safe hs ..
  · exact hs

theorem State.deadlockTrap_safe {s : State} (hs : Safe s) (n : Fin 11) (w : Wait) :
    Safe (State.deadlockTrap s n w) := State.trapHere_safe (State.focus_safe (State.modCore_safe (by exact hs) ..) ..) ..

theorem execProbeReceived_safe {s : State} (hs : Safe s) (ctx : Fin 11) (sender : BitVec 16) (minimum : BitVec 16) :
    Outcome.Safe (execProbeReceived ctx sender minimum s) := by
  unfold execProbeReceived
  split
  · exact hs
  · dsimp only
    split
    · split
      · split
        · exact State.deadlockTrap_safe hs ..
        · exact hs
      · exact hs
    · exact State.sendProbe_safe hs ..

theorem execDlkst_safe {s : State} (hs : Safe s) (sw : Bool) (d : BitVec 5) (a : BitVec 5) : Outcome.Safe (execDlkst sw d a s) := by
  unfold execDlkst
  exact State.issue_safe hs _ _ (fun t1 h => by
    dsimp only
    split
    · exact h
    · exact State.illegal_safe h)

/-! ## Atomics, spikes and drapers -/

theorem State.atomicCheck_safe {s : State} (hs : Safe s) (host : Bool) (c : Scope) (a : Word) (n : Nat) : Safe (State.atomicCheck s host c a n).1 := by
  unfold State.atomicCheck
  split
  · rename_i e
    exact Safe.of_fst e (State.check_safe hs ..)
  · rename_i e
    split
    · exact Safe.of_fst e (State.check_safe hs ..)
    · exact Safe.of_fst e (State.check_safe hs ..)

theorem State.sendAtomic_safe {s : State} (hs : Safe s) (x : Acc) (sw : Bool) (c : Scope) (acq : Prop) [Decidable acq] (h : Nat) :
    Safe (s.sendAtomic x sw c acq h) := by
  have pushed : ∀ y, Safe (s.push y) := State.push_safe hs
  unfold State.sendAtomic
  split
  · have sent := pushed { x with acq := some (s.seq + 1) }
    dsimp only
    generalize s.push _ = v at sent ⊢
    exact State.retireAfter_safe (State.addBarrier_safe (by exact sent) ..) ..
  · exact State.retireAfter_safe (pushed x) ..

theorem State.atomic_safe {s : State} (hs : Safe s) (sw : Bool) (a : Word) (rs : List Reg) (c : Scope) (o : Bool) (host : Bool) (op : Rmw) (b : Word)
    (d : Option (BitVec 5)) : Safe (State.atomic s sw a rs c o host op b d) := by
  have checked := State.atomicCheck_safe hs host c a (atomicBytes op.ty)
  rcases e : s.atomicCheck host c a (atomicBytes op.ty) with ⟨t, f | p, h⟩ <;> rw [e] at checked
  · unfold State.atomic
    dsimp only
    rw [e]
    exact State.trapAccess_safe checked ..
  · rw [State.atomic_ok e]
    refine State.sendAtomic_safe ?_ ..
    cases d
    · exact checked
    · exact State.writeLater_safe checked ..

theorem execAmo_safe {s : State} (hs : Safe s) (sw : Bool) (d : BitVec 5) (a : BitVec 5) (b : BitVec 5) (op : AtomicOp) (c : Scope) (o : Bool) (t : AtomicTy) :
    Outcome.Safe (execAmo sw d a b op c o t s) := State.issue_safe hs _ _ (fun _ h => State.atomic_safe h ..)

theorem execRed_safe {s : State} (hs : Safe s) (sw : Bool) (a : BitVec 5) (b : BitVec 5) (op : AtomicOp) (c : Scope) (o : Bool) (t : AtomicTy) :
    Outcome.Safe (execRed sw a b op c o t s) := State.issue_safe hs _ _ (fun _ h => State.atomic_safe h ..)

theorem execCas_safe {s : State} (hs : Safe s) (sw : Bool) (d : BitVec 5) (a : BitVec 5) (b : BitVec 5) (c : Scope) (o : Bool) (t : AtomicTy) :
    Outcome.Safe (execCas sw d a b c o t s) := State.issue_safe hs _ _ (fun _ h => State.atomic_safe h ..)

theorem State.checkAtomics_safe {s : State} (hs : Safe s) (host : Bool) (c : Scope) (n : Nat) (at_ : Nat → Word) (is : List Nat) :
    Safe (State.checkAtomics host c n at_ is s).1 := by
  induction is generalizing s with
  | nil => exact hs
  | cons i is ih =>
    have checked := State.atomicCheck_safe hs host c (at_ i) n
    unfold State.checkAtomics
    rcases e : s.atomicCheck host c (at_ i) n with ⟨t, f | p, h⟩ <;> rw [e] at checked
    · exact checked
    · have later := ih checked
      dsimp only
      rcases l : State.checkAtomics host c n at_ is t with ⟨u, f | ps, g⟩ <;> rw [l] at later <;> exact later

theorem execRedv_safe {s : State} (hs : Safe s) (sw : Bool) (d : BitVec 5) (a : BitVec 5) (b : BitVec 5) (op : AtomicOp) (c : Scope) (t : AtomicTy) :
    Outcome.Safe (execRedv sw d a b op c t s) := by
  unfold execRedv
  exact State.issue_safe hs _ _ (fun t1 h => by
    dsimp only
    split
    · rename_i e
      exact State.trapAccess_safe (Safe.of_fst e (State.checkAtomics_safe h ..)) ..
    · rename_i e
      exact State.retireAfter_safe (State.pushPlaces_safe (Safe.of_fst e (State.checkAtomics_safe h ..)) ..) ..)

theorem State.withWord_safe {s : State} (hs : Safe s) (a : Word) {k : State → Place → State} (hk : ∀ t x1, Safe t → Safe (k t x1)) :
    Safe (State.withWord s a k) := by
  unfold State.withWord
  split
  · split
    · exact State.illegal_safe hs
    · exact State.trapAccess_safe hs ..
  · exact hk _ _ hs

theorem State.atWord_safe {s : State} (hs : Safe s) (key : Nat) (rel : Option Scope) (v : Word) {k : State → State} (hk : ∀ t, Safe t → Safe (k t)) :
    Safe (State.atWord s key rel v k) := by
  unfold State.atWord
  split
  · exact hs
  · split
    · exact hs
    · split
      · exact hs
      · exact State.whenDone_safe hs _ _ hk

theorem State.presentTake_safe {s : State} (hs : Safe s) (n : Fin 11) (key : Nat) : Safe (State.presentTake s n key).1 := by
  unfold State.presentTake
  repeat' split
  all_goals exact hs

theorem State.takeDone_safe {s : State} (hs : Safe s) (sw : Bool) (d : BitVec 5) (c : Scope) (v : Word) :
    Safe (State.takeDone s sw d c v) := State.retire_safe (State.writeLater_safe (State.acquire_safe hs ..) ..) ..

theorem execFtake_safe {s : State} (hs : Safe s) (sw : Bool) (d : BitVec 5) (a : BitVec 5) (c : Scope) : Outcome.Safe (execFtake sw d a c s) := by
  unfold execFtake
  exact State.issue_safe hs _ _ (fun t1 h => by
    split
    · split
      · split
        · exact State.takeDone_safe h ..
        · exact h
      · exact State.withWord_safe h _ (fun t2 x3 h1 => State.atWord_safe h1 _ _ _ (fun t3 h2 => by
          split
          · rename_i e1
            exact State.takeDone_safe (Safe.of_fst e1 (State.presentTake_safe h2 ..)) ..
          · rename_i e1
            exact State.waitOn_safe (Safe.of_fst e1 (State.presentTake_safe h2 ..)) ..))
    · exact State.withWord_safe h _ (fun t2 x2 h1 => State.atWord_safe h1 _ _ _ (fun t3 h2 => by
        split
        · rename_i e
          exact State.takeDone_safe (Safe.of_fst e (State.presentTake_safe h2 ..)) ..
        · rename_i e
          exact State.block_safe (Safe.of_fst e (State.presentTake_safe h2 ..)) ..)))

theorem execTakePresentedAgain_safe {s : State} (hs : Safe s) (ctx : Fin 11) : Outcome.Safe (execTakePresentedAgain ctx s) := by
  unfold execTakePresentedAgain
  split
  · split
    · split
      · exact hs
      · split
        · rename_i e1
          exact State.modCtxAt_safe (Safe.of_fst e1 (State.presentTake_safe hs ..)) ..
        · rename_i e1
          exact Safe.of_fst e1 (State.presentTake_safe hs ..)
    · exact hs
  · exact hs

theorem State.fputAt_safe {s : State} (hs : Safe s) (source : Nat) (key : Nat) (id : Nat) (v : Word) : Safe (State.fputAt s source key id v) := by
  unfold State.fputAt
  dsimp only
  split
  · exact State.setFull_safe (by exact Safe.of_mem (State.poke_safe hs ..) rfl) ..
  · split
    · exact State.modCtxAt_safe (by exact Safe.of_mem (State.poke_safe hs ..) rfl) ..
    · exact Safe.of_mem (State.poke_safe hs ..) rfl

theorem execFput_safe {s : State} (hs : Safe s) (sw : Bool) (a : BitVec 5) (b : BitVec 5) (c : Scope) : Outcome.Safe (execFput sw a b c s) := by
  unfold execFput
  exact State.issue_safe hs _ _ (fun t1 h => State.withWord_safe h _ (fun t2 x h1 => State.atWord_safe h1 _ _ _ (fun t3 h2 => by
    split
    · exact State.trapHere_safe h2 ..
    · exact State.retireAfter_safe (State.fputAt_safe h2 ..) ..)))

theorem execFpeek_safe {s : State} (hs : Safe s) (sw : Bool) (d : BitVec 5) (a : BitVec 5) (k : Bool) :
    Outcome.Safe (execFpeek sw d a k s) :=
  State.issue_safe hs _ _ (fun _ h => State.withWord_safe h _ (fun _ _ h1 => State.retire_safe (State.push_safe (State.writeLater_safe h1 ..) ..) ..))

theorem execFinit_safe {s : State} (hs : Safe s) (sw : Bool) (a : BitVec 5) (b : BitVec 5) (k : Bool) :
    Outcome.Safe (execFinit sw a b k s) := State.issue_safe hs _ _ (fun _ h => State.withWord_safe h _ (fun _ _ h1 => h1))

theorem execSpkclaim_safe {s : State} (hs : Safe s) (sw : Bool) (a : BitVec 5) : Outcome.Safe (execSpkclaim sw a s) := by
  unfold execSpkclaim
  exact State.issue_safe hs _ _ (fun t1 h => State.withOwn_safe h _ _ _ _ (fun t2 x h1 => by
    dsimp only
    split
    · exact State.illegal_safe h1
    · split
      · exact State.resource_safe h1 ..
      · exact h1))

theorem State.spikePhase_safe {s : State} (hs : Safe s) (a : Word) : Safe (State.spikePhase s a) := State.trapHere_safe (State.violation_safe hs ..) ..

theorem State.pushRoom_safe {s : State} (hs : Safe s) (p : Spike) {k : State → Option Nat → Nat → State} (hk : ∀ t x1 x2, Safe t → Safe (k t x1 x2)) :
    Safe (State.pushRoom s p k) := by
  unfold State.pushRoom
  split
  · exact hk _ _ _ hs
  · split
    · exact State.trapHere_safe hs ..
    · split
      · exact State.spikePhase_safe hs ..
      · split
        · rename_i e
          exact State.trapAccess_safe (Safe.of_fst e (State.check_safe hs ..)) ..
        · rename_i e
          exact hk _ _ _ (Safe.of_fst e (State.check_safe hs ..))

theorem State.spikeAppend_safe {s : State} (hs : Safe s) (p : Spike) (v : Word) (spill : Option Nat) : Safe (State.spikeAppend s p v spill) := by
  unfold State.spikeAppend
  split
  · exact hs
  · exact State.modCore_safe (State.poke_safe hs ..) ..

theorem execSpkpush_safe {s : State} (hs : Safe s) (sw : Bool) (a : BitVec 5) : Outcome.Safe (execSpkpush sw a s) := by
  unfold execSpkpush
  exact State.issue_safe hs _ _ (fun t1 h => by
    split
    · exact State.illegal_safe h
    · exact State.pushRoom_safe h _ (fun t2 x3 x4 h1 => State.retireAfter_safe (State.spikeAppend_safe h1 ..) ..))

theorem State.spikeTake_safe {s : State} (hs : Safe s) (sw : Bool) (d : BitVec 5) (a : BitVec 5) (p : Spike) (lat : Nat) (hold : Nat) :
    Safe (State.spikeTake s sw d a p lat hold) := hs

theorem execSpkpop_safe {s : State} (hs : Safe s) (sw : Bool) (d : BitVec 5) (a : BitVec 5) : Outcome.Safe (execSpkpop sw d a s) := by
  unfold execSpkpop
  exact State.issue_safe hs _ _ (fun t1 h => by
    split
    · exact State.illegal_safe h
    · split
      · exact h
      · split
        · exact State.spikePhase_safe h ..
        · split
          · rename_i e1
            exact State.trapAccess_safe (Safe.of_fst e1 (State.check_safe h ..)) ..
          · rename_i e1
            exact State.spikeTake_safe (Safe.of_fst e1 (State.check_safe h ..)) ..)

theorem execSpklen_safe {s : State} (hs : Safe s) (sw : Bool) (d : BitVec 5) : Outcome.Safe (execSpklen sw d s) := State.issue_safe hs _ _ (fun _ h => h)

theorem execSpkfree_safe {s : State} (hs : Safe s) (sw : Bool) : Outcome.Safe (execSpkfree sw s) := State.issue_safe hs _ _ (fun _ h => h)

theorem State.withDraper_safe {s : State} (hs : Safe s) (a : Word) {k : State → Draper → State} (hk : ∀ t x1, Safe t → Safe (k t x1)) :
    Safe (State.withDraper s a k) := by
  unfold State.withDraper
  split
  · exact State.illegal_safe hs
  · split
    · exact State.resource_safe hs ..
    · exact hk _ _ hs

theorem execSwalloc_safe {s : State} (hs : Safe s) (sw : Bool) (d : BitVec 5) (a : BitVec 5) : Outcome.Safe (execSwalloc sw d a s) := by
  unfold execSwalloc
  exact State.issue_safe hs _ _ (fun t1 h => by
    split
    · exact State.phaseViolation_safe h
    · exact State.withDraper_safe h _ (fun t2 x2 h1 => State.retire_safe (State.push_safe (State.writeLater_safe (State.writeLater_safe h1 ..) ..) ..) ..))

theorem execSwstat_safe {s : State} (hs : Safe s) (sw : Bool) (d : BitVec 5) (a : BitVec 5) :
    Outcome.Safe (execSwstat sw d a s) :=
  State.issue_safe hs _ _ (fun _ h => State.withDraper_safe h _ (fun _ _ h1 => State.retire_safe (State.writeLater_safe h1 ..) ..))

end Sys2Proof.Machine
end

section
/-! SUPPORT. Memory stays canonical under the matrix unit, the loom, pigeonholes and the network. -/

namespace Sys2Proof.Machine

open Sys2Proof

/-! ## The matrix unit -/

theorem State.rowCheck_safe {s : State} (hs : Safe s) (row0 : Nat) (n : Nat) {k : State → State} (hk : ∀ t, Safe t → Safe (k t)) :
    Safe (State.rowCheck s row0 n k) := by
  unfold State.rowCheck
  split
  · exact State.trapHere_safe hs ..
  · exact hk _ hs

theorem State.spanCheck_safe {s : State} (hs : Safe s) (a : Word) (n : Nat) (align : Nat) {k : State → State} (hk : ∀ t, Safe t → Safe (k t)) :
    Safe (State.spanCheck s a n align k) := by
  unfold State.spanCheck
  split
  · exact State.trapAccess_safe hs ..
  · split
    · exact State.trapAccess_safe hs ..
    · exact hk _ hs

theorem State.weighed_safe {s : State} (hs : Safe s) {k : State → State} (hk : ∀ t, Safe t → Safe (k t)) : Safe (State.weighed s k) := by
  unfold State.weighed
  split
  · exact State.resource_safe hs ..
  · exact hk _ hs

theorem State.unlessIllegal_safe {s : State} (hs : Safe s) (p : Bool) {k : State → State} (hk : ∀ t, Safe t → Safe (k t)) :
    Safe (State.unlessIllegal s p k) := by
  unfold State.unlessIllegal
  split
  · exact State.illegal_safe hs
  · exact hk _ hs

theorem State.join_safe {s : State} (hs : Safe s) (c : MCmd) : Safe (State.join s c) := by
  unfold State.join
  dsimp only
  split <;> exact hs

theorem State.signCommand_safe {s : State} (hs : Safe s) (kind : MKind) (desc : Word) (a : Word) (b : Word) :
    Safe (State.signCommand s kind desc a b) := State.sign_safe hs ..

theorem State.command_safe {s : State} (hs : Safe s) (sw : Bool) (kind : MKind) (desc : Word) (a : Word) (b : Word) (f : Matrix → Matrix) :
    Safe (State.command s sw kind desc a b f) := by
  unfold State.command
  split
  · exact hs
  · exact State.retire_safe (State.signCommand_safe (State.join_safe (State.modCore_safe hs ..) ..) ..) ..

theorem State.commandTo_safe {s : State} (hs : Safe s) (sw : Bool) (d : BitVec 5) (kind : MKind) (desc : Word) (f : Matrix → Matrix) :
    Safe (State.commandTo s sw d kind desc f) := by
  unfold State.commandTo
  split
  · exact hs
  · exact State.retire_safe (State.signCommand_safe (State.join_safe (State.modCore_safe (State.writeLater_safe hs ..) ..) ..) ..) ..

theorem execMctx_safe {s : State} (hs : Safe s) (sw : Bool) (a : BitVec 5) : Outcome.Safe (execMctx sw a s) := by
  unfold execMctx
  exact State.issue_safe hs _ _ (fun t1 h => State.weighed_safe h (fun t2 h1 => by
    dsimp only
    split
    · exact State.illegal_safe h1
    · exact State.command_safe h1 ..))

theorem execMcbk_safe {s : State} (hs : Safe s) (sw : Bool) (a : BitVec 5) (isB : Bool) :
    Outcome.Safe (execMcbk sw a isB s) :=
  State.issue_safe hs _ _ (fun _ h => State.weighed_safe h (fun _ h1 => State.spanCheck_safe h1 _ _ _ (fun _ h2 => State.command_safe h2 ..)))

theorem execMmul_safe {s : State} (hs : Safe s) (sw : Bool) (d : BitVec 5) (a : BitVec 5) (b : BitVec 5) (sp : Bool) :
    Outcome.Safe (execMmul sw d a b sp s) := by
  unfold execMmul
  exact State.issue_safe hs _ _ (fun t1 h => State.weighed_safe h (fun t2 h1 => by
    dsimp only
    split
    · exact State.illegal_safe h1
    · exact State.unlessIllegal_safe h1 _ (fun t3 h2 => State.rowCheck_safe h2 _ _ (fun t4 h3 => State.spanCheck_safe h3 _ _ _ (fun t5 h4 =>
        (State.spanCheck_safe h4 _ _ _ (fun t6 h5 => State.command_safe h5 ..)))))))

theorem execMloads_safe {s : State} (hs : Safe s) (sw : Bool) (a : BitVec 5) : Outcome.Safe (execMloads sw a s) := by
  unfold execMloads
  exact State.issue_safe hs _ _ (fun t1 h => State.weighed_safe h (fun t2 h1 => by
    split
    · exact State.illegal_safe h1
    · exact State.unlessIllegal_safe h1 _ (fun t3 h2 => State.spanCheck_safe h2 _ _ _ (fun t4 h3 => State.command_safe h3 ..))))

theorem execMswap_safe {s : State} (hs : Safe s) (sw : Bool) :
    Outcome.Safe (execMswap sw s) :=
  State.issue_safe hs _ _ (fun _ h => State.weighed_safe h (fun _ h1 => State.unlessIllegal_safe h1 _ (fun _ h2 => State.command_safe h2 ..)))

theorem execMstream_safe {s : State} (hs : Safe s) (sw : Bool) (d : BitVec 5) (a : BitVec 5) : Outcome.Safe (execMstream sw d a s) := by
  unfold execMstream
  exact State.issue_safe hs _ _ (fun t1 h => State.weighed_safe h (fun t2 h1 => by
    dsimp only
    split
    · exact State.unlessIllegal_safe h1 _ (fun t3 h2 => State.rowCheck_safe h2 _ _ (fun t4 h3 => State.spanCheck_safe h3 _ _ _ (fun t5 h4 =>
        (State.command_safe h4 ..))))
    · exact State.illegal_safe h1))

theorem execMdrain_safe {s : State} (hs : Safe s) (sw : Bool) :
    Outcome.Safe (execMdrain sw s) := State.issue_safe hs _ _ (fun _ h => State.weighed_safe h (fun _ h1 => State.command_safe h1 ..))

theorem State.rowCopy_safe {s : State} (hs : Safe s) (sw : Bool) (d : BitVec 5) (a : BitVec 5) (kind : MKind) :
    Safe (State.rowCopy s sw d a kind) :=
  State.unlessIllegal_safe hs _ (fun _ h => State.rowCheck_safe h _ _ (fun _ h1 => State.spanCheck_safe h1 _ _ _ (fun _ h2 => State.command_safe h2 ..)))

theorem execAcrd_safe {s : State} (hs : Safe s) (sw : Bool) (d : BitVec 5) (a : BitVec 5) :
    Outcome.Safe (execAcrd sw d a s) := State.issue_safe hs _ _ (fun _ h => State.weighed_safe h (fun _ h1 => State.rowCopy_safe h1 ..))

theorem execAcwr_safe {s : State} (hs : Safe s) (sw : Bool) (d : BitVec 5) (a : BitVec 5) :
    Outcome.Safe (execAcwr sw d a s) := State.issue_safe hs _ _ (fun _ h => State.weighed_safe h (fun _ h1 => State.rowCopy_safe h1 ..))

theorem execMchkKat_safe {s : State} (hs : Safe s) (sw : Bool) (d : BitVec 5) :
    Outcome.Safe (execMchkKat sw d s) := State.issue_safe hs _ _ (fun _ h => State.weighed_safe h (fun _ h1 => State.commandTo_safe h1 ..))

theorem execMchkInj_safe {s : State} (hs : Safe s) (sw : Bool) (d : BitVec 5) (a : BitVec 5) :
    Outcome.Safe (execMchkInj sw d a s) :=
  State.issue_safe hs _ _ (fun _ h => State.weighed_safe h (fun _ h1 => State.unlessIllegal_safe h1 _ (fun _ h2 => State.commandTo_safe h2 ..)))

theorem execMzeroAcc_safe {s : State} (hs : Safe s) (sw : Bool) (d : BitVec 5) :
    Outcome.Safe (execMzeroAcc sw d s) :=
  State.issue_safe hs _ _ (fun _ h => State.weighed_safe h (fun _ h1 => State.unlessIllegal_safe h1 _ (fun _ h2 => State.rowCheck_safe h2 _ _ (fun _ h3 => State.command_safe h3 ..))))

theorem execMzeroSt_safe {s : State} (hs : Safe s) (sw : Bool) :
    Outcome.Safe (execMzeroSt sw s) := State.issue_safe hs _ _ (fun _ h => State.weighed_safe h (fun _ h1 => State.command_safe h1 ..))

theorem execMflag_safe {s : State} (hs : Safe s) (sw : Bool) (d : BitVec 5) (clr : Bool) :
    Outcome.Safe (execMflag sw d clr s) := State.issue_safe hs _ _ (fun _ h => State.weighed_safe h (fun _ h1 => State.commandTo_safe h1 ..))

theorem execMstat_safe {s : State} (hs : Safe s) (sw : Bool) (d : BitVec 5) : Outcome.Safe (execMstat sw d s) := State.issue_safe hs _ _ (fun _ h => h)

theorem execMwait_safe {s : State} (hs : Safe s) (sw : Bool) (n : BitVec 5) : Outcome.Safe (execMwait sw n s) := by
  unfold execMwait
  exact State.issue_safe hs _ _ (fun t1 h => by
    split
    · exact h
    · exact h)

theorem State.writeRows_safe {s : State} (hs : Safe s) (row : Nat) (rs : List (List (BitVec 32))) : Safe (State.writeRows row rs s) := by
  induction rs generalizing s row with
  | nil => exact hs
  | cons ws rs ih => exact ih (State.writeRow_safe hs ..) _

theorem State.drainKept_safe {s : State} (hs : Safe s) : Safe (State.drainKept s) := by
  unfold State.drainKept
  split
  · exact State.modCore_safe (State.writeRows_safe hs ..) ..
  · exact hs

theorem State.drainOutside_safe {s : State} (hs : Safe s) : Safe (State.drainOutside s) := by
  unfold State.drainOutside
  split
  · exact hs
  · exact State.modCore_safe (State.drainKept_safe hs) ..

theorem State.setHead_safe {s : State} (hs : Safe s) (f : MCmd → MCmd) : Safe (State.setHead s f) := hs

theorem State.noteMismatches_safe {s : State} (hs : Safe s) (c : MCmd) (xs : List Mism) : Safe (State.noteMismatches c xs s) := by
  induction xs generalizing s with
  | nil => exact hs
  | cons x xs ih =>
    unfold State.noteMismatches
    exact ih (State.modCore_safe (State.count_safe (State.logEntry_safe hs ..) ..) ..)

theorem State.noteRows_safe {s : State} (hs : Safe s) (c : MCmd) (rs : List (List (BitVec 32) × Bool × List Mism)) :
    Safe (State.noteRows s c rs) := State.noteMismatches_safe (State.setHead_safe (State.modCore_safe hs ..) ..) ..

theorem State.performMmul_safe {s : State} (hs : Safe s) (c : MCmd) (sp : Bool) : Safe (State.performMmul s c sp) := by
  unfold State.performMmul
  split
  · exact hs
  · dsimp only
    split
    · exact State.modCore_safe (State.noteRows_safe hs ..) ..
    · exact State.writeRows_safe (State.modCore_safe (State.noteRows_safe hs ..) ..) ..

theorem State.performTask_safe {s : State} (hs : Safe s) (c : MCmd) (t : Task) :
    Safe (State.performTask s c t) := State.writeRows_safe (State.noteRows_safe hs ..) ..

theorem State.performMstream_safe {s : State} (hs : Safe s) (c : MCmd) (lo : Nat) (hi : Nat) : Safe (State.performMstream s c lo hi) := by
  unfold State.performMstream
  split
  · exact State.writeRows_safe (State.noteRows_safe hs ..) ..
  · exact hs

theorem State.acrdRow_safe {s : State} (hs : Safe s) (c : MCmd) (i : Nat) : Safe (State.acrdRow s c i) := State.pokeAs_safe hs ..

theorem State.acwrRow_safe {s : State} (hs : Safe s) (c : MCmd) (i : Nat) : Safe (State.acwrRow s c i) := State.writeRow_safe hs ..

theorem State.zeroRow_safe {s : State} (hs : Safe s) (c : MCmd) (i : Nat) : Safe (State.zeroRow s c i) := State.writeRow_safe hs ..

theorem State.fillShadow_safe {s : State} (hs : Safe s) (c : MCmd) : Safe (State.fillShadow s c) := by
  unfold State.fillShadow
  split <;> exact hs

theorem State.drainFor_safe {s : State} (hs : Safe s) (c : MCmd) : Safe (State.drainFor s c) := by
  unfold State.drainFor
  split
  · exact hs
  · split
    · exact hs
    · exact State.drainKept_safe hs
  · exact State.drainOutside_safe hs
  · exact State.drainKept_safe hs

theorem State.stepCommand_safe {s : State} (hs : Safe s) (c : MCmd) : Safe (State.stepCommand s c) := by
  unfold State.stepCommand
  dsimp only
  split
  · split
    · exact State.performMmul_safe hs ..
    · exact hs
  · exact State.performTask_safe hs ..
  · exact State.performMstream_safe hs ..
  · exact Safe.foldl hs (fun t1 x2 h => State.acrdRow_safe h ..) ..
  · exact Safe.foldl hs (fun t1 x2 h => State.acwrRow_safe h ..) ..
  · exact Safe.foldl hs (fun t1 x2 h => State.zeroRow_safe h ..) ..
  · exact State.fillShadow_safe hs ..
  · exact hs

theorem execArbiterStep_safe {s : State} (hs : Safe s) : Outcome.Safe (execArbiterStep s) := by
  unfold execArbiterStep
  split
  · exact hs
  · split
    · exact hs
    · split
      · exact hs
      · exact State.post_safe (State.setHead_safe (State.stepCommand_safe (State.drainFor_safe (State.count_safe hs ..) ..) ..) ..) ..

theorem execStationaryPairGrant_safe {s : State} (hs : Safe s) : Outcome.Safe (execStationaryPairGrant s) := by
  unfold execStationaryPairGrant
  repeat' split
  all_goals exact hs

theorem execMswapTakesEffect_safe {s : State} (hs : Safe s) : Outcome.Safe (execMswapTakesEffect s) := by
  unfold execMswapTakesEffect
  repeat' split
  all_goals exact hs

theorem State.takeEffect_safe {s : State} (hs : Safe s) (c : MCmd) : Safe (State.takeEffect s c) := by
  have kept : ∀ f, Safe (s.modCore f) := State.modCore_safe hs
  rcases e : c.kind with w | _ | _ | _ | _ | _ | _ | _ | _ | _ | _ | _ | isB | clr | _ <;> rw [State.takeEffect, e]
  case mctx => exact kept _
  case mcbk =>
    generalize s.unitRead _ _ = bytes
    exact kept _
  case mzeroSt => exact kept _
  case mflag =>
    cases clr
    · exact hs
    · exact kept _
  all_goals exact hs

theorem State.noteKat_safe {s : State} (hs : Safe s) (c : MCmd) : Safe (State.noteKat s c) := by
  unfold State.noteKat
  split
  · dsimp only
    split
    · exact hs
    · exact State.logEntry_safe (State.modCore_safe hs ..) ..
  · exact hs

theorem State.raiseResidue_safe {s : State} (hs : Safe s) (c : MCmd) : Safe (State.raiseResidue s c) := by
  unfold State.raiseResidue
  split <;> exact hs

theorem State.leave_safe {s : State} (hs : Safe s) (c : MCmd) : Safe (State.leave s c) := by
  unfold State.leave
  dsimp only
  split
  · exact State.modCore_safe (State.raiseResidue_safe (by
      split
      · exact State.post_safe (by
          split
          · exact State.formWrite_safe (State.modCore_safe hs ..) ..
          · exact hs) ..
      · split
        · exact State.formWrite_safe (State.modCore_safe hs ..) ..
        · exact hs) ..) ..
  · exact State.raiseResidue_safe (by
      split
      · exact State.post_safe (by
          split
          · exact State.formWrite_safe (State.modCore_safe hs ..) ..
          · exact hs) ..
      · split
        · exact State.formWrite_safe (State.modCore_safe hs ..) ..
        · exact hs) ..

theorem State.matrixGoesOn_safe {s : State} (hs : Safe s) : Safe (State.matrixGoesOn s) := hs

theorem execMatrixCommandComplete_safe {s : State} (hs : Safe s) : Outcome.Safe (execMatrixCommandComplete s) := by
  unfold execMatrixCommandComplete
  split
  · exact hs
  · split
    · exact hs
    · split
      · exact hs
      · exact State.matrixGoesOn_safe (State.noteKat_safe (State.takeEffect_safe (State.leave_safe hs ..) ..) ..)

theorem execMatrixResidueFault_safe {s : State} (hs : Safe s) (ctx : Fin 11) (detail : BitVec 32) (iaddr : Word) (caddr : Word) :
    Outcome.Safe (execMatrixResidueFault ctx detail iaddr caddr s) := hs

/-! ## The loom -/

theorem State.modLoom_safe {s : State} (hs : Safe s) (f : Loom → Loom) : Safe (State.modLoom s f) := hs

theorem State.leaveLoom_safe {s : State} (hs : Safe s) : Safe (State.leaveLoom s) := hs

theorem execLmjoin_safe {s : State} (hs : Safe s) (sw : Bool) (a : BitVec 5) (n : BitVec 2) : Outcome.Safe (execLmjoin sw a n s) := by
  unfold execLmjoin
  exact State.issue_safe hs _ _ (fun t1 h => by
    dsimp only
    split
    · exact State.illegal_safe h
    · split
      · exact State.phaseViolation_safe h
      · split
        · exact State.resource_safe h ..
        · split
          · exact State.resource_safe h ..
          · split
            · exact State.illegal_safe h
            · split
              · exact h
              · exact h)

theorem execLmjoinLeave_safe {s : State} (hs : Safe s) (sw : Bool) : Outcome.Safe (execLmjoinLeave sw s) := by
  unfold execLmjoinLeave
  exact State.issue_safe hs _ _ (fun t1 h => by
    split
    · exact State.illegal_safe h
    · split
      · exact h
      · split
        · exact State.illegal_safe h
        · exact h)

theorem State.inLoom_safe {s : State} (hs : Safe s) {k : State → State} (hk : ∀ t, Safe t → Safe (k t)) : Safe (State.inLoom s k) := by
  unfold State.inLoom
  split
  · exact State.illegal_safe hs
  · exact hk _ hs

theorem State.afterOwn_safe {s : State} (hs : Safe s) {k : State → State} (hk : ∀ t, Safe t → Safe (k t)) :
    Safe (State.afterOwn s k) := State.whenDone_safe hs _ _ hk

theorem State.takeDraft_safe {s : State} (hs : Safe s) (sw : Bool) (bs : List Byte) : Safe (State.takeDraft s sw bs) := by
  unfold State.takeDraft
  split
  · exact State.illegal_safe hs
  · split
    · exact State.illegal_safe hs
    · dsimp only
      split
      · exact State.trapHere_safe hs ..
      · exact hs

theorem execDraft_safe {s : State} (hs : Safe s) (sw : Bool) (a : BitVec 5) : Outcome.Safe (execDraft sw a s) := by
  unfold execDraft
  exact State.issue_safe hs _ _ (fun t1 h => State.inLoom_safe h (fun t2 h1 => by
    split
    · exact State.illegal_safe h1
    · exact State.spanCheck_safe h1 _ _ _ (fun t3 h2 => State.afterOwn_safe h2 (fun t4 h3 => State.takeDraft_safe h3 ..))))

theorem State.injection_safe {s : State} (hs : Safe s) (a : Word) (family : Bool) {k : Tile → State → State} (hk : ∀ x0 t, Safe t → Safe (k x0 t)) :
    Safe (State.injection s a family k) := by
  unfold State.injection
  exact State.spanCheck_safe hs _ _ _ (fun t1 h => State.afterOwn_safe h (fun t2 h1 => by
    split
    · exact State.illegal_safe h1
    · exact State.spanCheck_safe h1 _ _ _ (fun t3 h2 => hk _ _ h2)))

theorem execWarp_safe {s : State} (hs : Safe s) (sw : Bool) (a : BitVec 5) : Outcome.Safe (execWarp sw a s) := by
  unfold execWarp
  exact State.issue_safe hs _ _ (fun t1 h => State.inLoom_safe h (fun t2 h1 => by
    split
    · exact State.illegal_safe h1
    · exact State.injection_safe h1 _ _ (fun x1 t3 h2 => h2)))

theorem execWeft_safe {s : State} (hs : Safe s) (sw : Bool) (a : BitVec 5) : Outcome.Safe (execWeft sw a s) := by
  unfold execWeft
  exact State.issue_safe hs _ _ (fun t1 h => State.inLoom_safe h (fun t2 h1 => by
    split
    · exact State.illegal_safe h1
    · exact State.injection_safe h1 _ _ (fun x1 t3 h2 => h2)))

theorem execLmgo_safe {s : State} (hs : Safe s) (sw : Bool) (a : BitVec 5) : Outcome.Safe (execLmgo sw a s) := by
  unfold execLmgo
  exact State.issue_safe hs _ _ (fun t1 h => by
    split
    · exact State.illegal_safe h
    · exact State.inLoom_safe h (fun t2 h1 => by
        dsimp only
        split
        · exact State.illegal_safe h1
        · split
          · exact State.resource_safe h1 ..
          · split
            · exact State.illegal_safe h1
            · exact h1))

theorem execLmwait_safe {s : State} (hs : Safe s) (sw : Bool) (d : BitVec 5) : Outcome.Safe (execLmwait sw d s) := by
  unfold execLmwait
  exact State.issue_safe hs _ _ (fun t1 h => by
    split
    · exact State.illegal_safe h
    · split
      · exact State.retire_safe (State.writeLater_safe (State.leaveLoom_safe h) ..) ..
      · split
        · exact h
        · split
          · exact State.raise_safe (State.modCtx_safe h ..) ..
          · exact State.retire_safe (State.writeLater_safe h ..) ..)

theorem execLmstat_safe {s : State} (hs : Safe s) (sw : Bool) (d : BitVec 5) : Outcome.Safe (execLmstat sw d s) := State.issue_safe hs _ _ (fun _ h => h)

theorem execWeaveStart_safe {s : State} (hs : Safe s) : Outcome.Safe (execWeaveStart s) := by
  unfold execWeaveStart
  split <;> exact hs

theorem State.dispatchTask_safe {s : State} (hs : Safe s) (t : Task) : Safe (State.dispatchTask s t) := by
  unfold State.dispatchTask
  split
  · exact hs
  · exact State.join_safe hs ..

theorem State.firePair_safe {s : State} (hs : Safe s) (x : Option Tile) (y : Option Tile) : Safe (State.firePair s x y) := by
  unfold State.firePair
  split
  · exact Safe.foldl (State.modLoom_safe hs ..) (fun t1 x6 h => State.dispatchTask_safe h ..) ..
  · exact hs

theorem execPick_safe {s : State} (hs : Safe s) (inWarp : Option Tile) (inWeft : Option Tile) : Outcome.Safe (execPick inWarp inWeft s) := by
  unfold execPick
  dsimp only
  split
  · exact hs
  · exact State.modLoom_safe (by
      split
      · exact State.firePair_safe (by
          split
          · exact State.firePair_safe (State.count_safe hs ..) ..
          · exact State.count_safe hs ..) ..
      · split
        · exact State.firePair_safe (State.count_safe hs ..) ..
        · exact State.count_safe hs ..) ..

theorem execLatchedTask_safe {s : State} (hs : Safe s) : Outcome.Safe (execLatchedTask s) := by
  unfold execLatchedTask
  split
  · exact hs
  · split
    · exact hs
    · dsimp only
      split
      · exact State.join_safe (State.modLoom_safe hs ..) ..
      · exact State.post_safe (State.join_safe (State.modLoom_safe hs ..) ..) ..

theorem execRePickPass_safe {s : State} (hs : Safe s) (inWarp : Option Tile) (inWeft : Option Tile) : Outcome.Safe (execRePickPass inWarp inWeft s) := by
  unfold execRePickPass
  dsimp only
  split <;> exact hs

theorem State.logMissed_safe {s : State} (hs : Safe s) (i : Nat) (es : List DraftEntry) : Safe (State.logMissed i es s) := by
  induction es generalizing s i with
  | nil => exact hs
  | cons e es ih =>
    unfold State.logMissed
    refine ih ?_ _
    split
    · exact State.logEntry_safe hs ..
    · exact hs

theorem State.raiseMissed_safe {s : State} (hs : Safe s) (m : BitVec 32 × Word) : Safe (State.raiseMissed s m) := hs

theorem execWeaveEnd_safe {s : State} (hs : Safe s) (others : Option MissedAt) : Outcome.Safe (execWeaveEnd others s) := by
  have logged := State.logMissed_safe hs 0 s.core.loom.entries
  have rung : ∀ t (b : Prop) [Decidable b] e, Safe t → Safe (if b then t.post e else t) := by
    intro t b _ e h
    split
    · exact State.post_safe h _
    · exact h
  have reported : ∀ t (b : Prop) [Decidable b] m, Safe t → Safe (if b then t.raiseMissed m else t) := by
    intro t b _ m h
    split
    · exact State.raiseMissed_safe h _
    · exact h
  unfold execWeaveEnd
  dsimp only
  split
  · exact hs
  · split
    · exact State.modLoom_safe hs _
    · have last := rung _ (s.core.loom.lpos = 0 ∧ s.core.loom.bell = true) (.pulse (132 + BitVec.ofNat 8 (s.position / 8))) logged
      generalize ite (s.core.loom.lpos = 0 ∧ s.core.loom.bell = true) _ _ = t at last ⊢
      cases s.core.loom.missed others with
      | none => exact last
      | some m =>
        have told := reported t (s.core.loom.lpos = 0) m last
        dsimp only
        generalize ite (s.core.loom.lpos = 0) _ _ = u at told ⊢
        exact told

/-! ## Pigeonholes -/

theorem State.unitCheck_safe {s : State} (hs : Safe s) (p : PhPlace) (write : Bool) (a : Word) : Safe (State.unitCheck s p write a).1 := by
  unfold State.unitCheck
  split
  · exact State.check_safe hs ..
  · split
    next t _ _ e =>
      have checked : Safe t := Safe.of_fst e (State.check_safe (by exact hs) ..)
      exact checked

theorem State.spillAccess_safe {s : State} (hs : Safe s) (p : PhPlace) (i : Nat) (write : Bool) : Safe (State.spillAccess s p i write).1 := by
  unfold State.spillAccess
  dsimp only
  split
  · split
    · exact State.count_safe hs ..
    · split
      · rename_i e
        exact Safe.of_fst e (State.unitCheck_safe (State.count_safe hs ..) ..)
      · rename_i e
        exact Safe.of_fst e (State.unitCheck_safe (State.count_safe hs ..) ..)
  · split
    · exact hs
    · split
      · rename_i e
        exact Safe.of_fst e (State.unitCheck_safe hs ..)
      · rename_i e
        exact Safe.of_fst e (State.unitCheck_safe hs ..)

theorem State.phView_safe {s : State} (hs : Safe s) (p : PhPlace) (k : Word) (o : PhOp) : Safe (State.phView s p k o).1 := by
  unfold State.phView
  dsimp only
  split
  · split
    · rename_i e
      exact Safe.of_fst e (State.spillAccess_safe hs ..)
    · rename_i e
      exact Safe.of_fst e (State.spillAccess_safe hs ..)
  · exact hs

theorem State.phApply_safe {s : State} (hs : Safe s) (p : PhPlace) (k : Word) (o : PhOp) (v : PhView) : Safe (State.phApply s p k o v).1 := by
  unfold State.phApply
  dsimp only
  split
  · split
    · exact hs
    · exact State.poke_safe hs ..
  · split
    · exact hs
    · split
      · exact hs
      · split
        · rename_i e1
          exact Safe.of_fst e1 (State.spillAccess_safe hs ..)
        · rename_i e1
          exact State.poke_safe (State.poke_safe (Safe.of_fst e1 (State.spillAccess_safe hs ..)) ..) ..

theorem State.phKey_safe {s : State} (hs : Safe s) (p : PhPlace) (k : Word) (o : PhOp) : Safe (State.phKey s p k o).1 := by
  unfold State.phKey
  split
  · rename_i e
    exact Safe.of_fst e (State.phView_safe hs ..)
  · rename_i e
    exact State.phApply_safe (Safe.of_fst e (State.phView_safe hs ..)) ..

theorem State.phRun_safe {s : State} (hs : Safe s) (p : PhPlace) (us : List PhUpdate) (done : List Nat) : Safe (State.phRun p us done s).1 := by
  induction us generalizing s done with
  | nil => exact hs
  | cons u us ih =>
    have updated := State.phKey_safe hs p u.key u.op
    unfold State.phRun
    rcases e : s.phKey p u.key u.op with ⟨t, f | old, h⟩ <;> rw [e] at updated
    · exact updated
    · have later := ih updated (done ++ u.lanes)
      dsimp only
      rcases l : State.phRun p us (done ++ u.lanes) t with ⟨w, f | rs, g⟩ <;> rw [l] at later <;> exact later

theorem State.phArrive_safe {s : State} (hs : Safe s) (a : Word) : Safe (State.phArrive s a) := by
  unfold State.phArrive
  split <;> exact hs

theorem State.atUnit_safe {s : State} (hs : Safe s) (a : Word) (p : PhPlace) {k : State → PhPlace → State} (hk : ∀ t x1, Safe t → Safe (k t x1)) :
    Safe (State.atUnit s a p k) := by
  unfold State.atUnit
  split
  · exact hk _ _ hs
  · split
    · exact hs
    · split
      · exact hs
      · split
        · exact hk _ _ (State.acquire_safe hs ..)
        · exact State.phArrive_safe hs ..

theorem State.withTable_safe {s : State} (hs : Safe s) (a : Word) (own : Bool) {k : State → PhPlace → State} (hk : ∀ t x1, Safe t → Safe (k t x1)) :
    Safe (State.withTable s a own k) := by
  unfold State.withTable
  split
  · dsimp only
    split
    · exact State.trapHere_safe hs ..
    · split
      · exact State.trapAccess_safe hs ..
      · split
        · exact State.trapHere_safe hs ..
        · exact State.whenDone_safe hs _ _ (fun t1 h => State.atUnit_safe h _ _ hk)
  · exact State.trapHere_safe hs ..

theorem State.countPh_safe {s : State} (hs : Safe s) (p : PhPlace) : Safe (State.countPh s p) := by
  unfold State.countPh
  split
  · exact State.count_safe hs ..
  · exact hs

theorem State.phLog_safe {s : State} (hs : Safe s) (p : PhPlace) (f : AccessFault) : Safe (State.phLog s p f) := State.logEntry_safe hs ..

theorem State.phTrap_safe {s : State} (hs : Safe s) (p : PhPlace) (f : AccessFault) (hold : Nat) :
    Safe (State.phTrap s p f hold) := State.raiseAfter_safe (State.modCtx_safe (State.phLog_safe hs ..) ..) ..

theorem State.phPerform_safe {s : State} (hs : Safe s) (p : PhPlace) (us : List PhUpdate) {k : State → List (Word × Option Word) → Nat → State}
    (hk : ∀ t x1 x2, Safe t → Safe (k t x1 x2)) :
    Safe (State.phPerform s p us k) := by
  unfold State.phPerform
  split
  · rename_i e
    exact State.phTrap_safe (Safe.of_fst e (State.phRun_safe (State.countPh_safe hs ..) ..)) ..
  · rename_i e
    exact hk _ _ _ (Safe.of_fst e (State.phRun_safe (State.countPh_safe hs ..) ..))

theorem State.phPerformLanes_safe {s : State} (hs : Safe s) (a : Word) (p : PhPlace) (us : List PhUpdate) {k : State → List
    (Word × Option Word) → Nat → State} (hk : ∀ t x1 x2, Safe t → Safe (k t x1 x2)) :
    Safe (State.phPerformLanes s a p us k) := by
  unfold State.phPerformLanes
  dsimp only
  split
  · rename_i e
    exact State.phTrap_safe (Safe.of_fst e (State.phRun_safe (by
      split
      · exact hs
      · exact State.countPh_safe hs ..) ..)) ..
  · rename_i e
    split
    · exact hk _ _ _ (State.modCtx_safe (Safe.of_fst e (State.phRun_safe (by
        split
        · exact hs
        · exact State.countPh_safe hs ..) ..)) ..)
    · exact State.modCtx_safe (Safe.of_fst e (State.phRun_safe (by
        split
        · exact hs
        · exact State.countPh_safe hs ..) ..)) ..

theorem State.phScalar_safe {s : State} (hs : Safe s) (sw : Bool) (a : Word) (key : Word) (o : PhOp) : Safe (State.phScalar s sw a key o) := by
  unfold State.phScalar
  exact State.withTable_safe hs _ _ (fun t1 x h => by
    split
    · exact State.illegal_safe h
    · exact State.phPerform_safe h _ _ (fun t2 x3 x4 h1 => h1))

theorem State.phVector_safe {s : State} (hs : Safe s) (sw : Bool) (a : Word) (keys : Nat → Word) (mk : Nat → PhOp) : Safe (State.phVector s sw a keys mk) := by
  unfold State.phVector
  exact State.withTable_safe hs _ _ (fun t1 x h => by
    split
    · exact State.illegal_safe h
    · exact State.phPerformLanes_safe h _ _ _ (fun t2 x3 x4 h1 => h1))

theorem execPhins_safe {s : State} (hs : Safe s) (sw : Bool) (d : BitVec 5) (a : BitVec 5) (b : BitVec 5) (v : Bool) :
    Outcome.Safe (execPhins sw d a b v s) := by
  unfold execPhins
  split
  · exact State.issue_safe hs _ _ (fun t1 h => State.phVector_safe h ..)
  · exact State.issue_safe hs _ _ (fun t1 h => State.phScalar_safe h ..)

theorem execPhdel_safe {s : State} (hs : Safe s) (sw : Bool) (a : BitVec 5) (b : BitVec 5) (v : Bool) : Outcome.Safe (execPhdel sw a b v s) := by
  unfold execPhdel
  split
  · exact State.issue_safe hs _ _ (fun t1 h => State.phVector_safe h ..)
  · exact State.issue_safe hs _ _ (fun t1 h => State.phScalar_safe h ..)

theorem execPhacc_safe {s : State} (hs : Safe s) (sw : Bool) (d : BitVec 5) (a : BitVec 5) (b : BitVec 5) (op : PhAcc) (v : Bool) :
    Outcome.Safe (execPhacc sw d a b op v s) := by
  unfold execPhacc
  split
  · exact State.issue_safe hs _ _ (fun t1 h => State.phVector_safe h ..)
  · exact State.issue_safe hs _ _ (fun t1 h => State.phScalar_safe h ..)

theorem State.phProbe_safe {s : State} (hs : Safe s) (sw : Bool) (d : BitVec 5) (a : Word) (key : Word) : Safe (State.phProbe s sw d a key) := by
  unfold State.phProbe
  exact State.withTable_safe hs _ _ (fun t1 x h => by
    split
    · exact State.illegal_safe h
    · exact State.phPerform_safe h _ _ (fun t2 x3 x4 h1 => State.retireAfter_safe (State.writeLater_safe (State.writeLater_safe h1 ..) ..) ..))

theorem State.phProbeLanes_safe {s : State} (hs : Safe s) (sw : Bool) (d : BitVec 5) (a : Word) (keys : Nat → Word) :
    Safe (State.phProbeLanes s sw d a keys) := by
  unfold State.phProbeLanes
  exact State.withTable_safe hs _ _ (fun t1 x h => by
    split
    · exact State.illegal_safe h
    · exact State.phPerformLanes_safe h _ _ _ (fun t2 x3 x4 h1 => State.retireAfter_safe (State.writeLater_safe (State.writeLater_safe h1 ..) ..) ..))

theorem execPhprb_safe {s : State} (hs : Safe s) (sw : Bool) (d : BitVec 5) (a : BitVec 5) (b : BitVec 5) (v : Bool) :
    Outcome.Safe (execPhprb sw d a b v s) := by
  unfold execPhprb
  split
  · exact State.issue_safe hs _ _ (fun t1 h => State.phProbeLanes_safe h ..)
  · exact State.issue_safe hs _ _ (fun t1 h => State.phProbe_safe h ..)

theorem State.emptyHomes_safe {s : State} (hs : Safe s) (p : PhPlace) (js : List Nat) : Safe (State.emptyHomes p js s) := by
  induction js generalizing s with
  | nil => exact hs
  | cons j js ih => exact ih (State.poke_safe hs ..)

theorem State.spillPlaces_safe {s : State} (hs : Safe s) (p : PhPlace) (write : Bool) (is : List Nat) : Safe (State.spillPlaces p write is s).1 := by
  induction is generalizing s with
  | nil => exact hs
  | cons i is ih =>
    have checked := State.spillAccess_safe hs p i write
    unfold State.spillPlaces
    rcases e : s.spillAccess p i write with ⟨t, f | k, h⟩ <;> rw [e] at checked
    · exact checked
    · have later := ih checked
      dsimp only
      rcases l : State.spillPlaces p write is t with ⟨u, f | ks, g⟩ <;> rw [l] at later <;> exact later

theorem State.emptySpills_safe {s : State} (hs : Safe s) (p : PhPlace) (keys : List Nat) :
    Safe (State.emptySpills p keys s) := Safe.foldl hs (fun _ _ h => State.poke_safe h ..) ..

theorem State.spillPages_safe {s : State} (hs : Safe s) (as : List Word) (hold : Nat) {k : State → Nat → State} (hk : ∀ t n, Safe t → Safe (k t n)) :
    Safe (State.spillPages s as hold k) := by
  induction as generalizing s hold with
  | nil => exact hk s hold hs
  | cons a as ih =>
    have written := State.check_safe hs (.spill true) a 1 1 s.exchange
    unfold State.spillPages
    rcases e : s.check (.spill true) a 1 1 s.exchange with ⟨t, f | p, h⟩ <;> rw [e] at written
    · exact State.trapAccess_safe written ..
    · have read := State.check_safe written (.spill false) a 1 1 t.exchange
      dsimp only
      rcases l : t.check (.spill false) a 1 1 t.exchange with ⟨u, f | p, g⟩ <;> rw [l] at read
      · exact State.trapAccess_safe read ..
      · exact ih read _

theorem State.claimTable_safe {s : State} (hs : Safe s) (sw : Bool) (t : PhTable) (hold : Nat) : Safe (State.claimTable s sw t hold) := by
  unfold State.claimTable
  dsimp only
  split
  · rename_i e
    exact State.phTrap_safe (Safe.of_fst e (State.spillPlaces_safe hs ..)) ..
  · rename_i e
    exact State.retireAfter_safe (State.modCore_safe (State.emptySpills_safe (State.emptyHomes_safe (Safe.of_fst e
        (State.spillPlaces_safe hs ..)) ..) ..) ..) ..

theorem execPhclaim_safe {s : State} (hs : Safe s) (sw : Bool) (a : BitVec 5) : Outcome.Safe (execPhclaim sw a s) := by
  unfold execPhclaim
  exact State.issue_safe hs _ _ (fun t1 h => State.withOwn_safe h _ _ _ _ (fun t2 x h1 => by
    dsimp only
    split
    · exact State.illegal_safe h1
    · split
      · exact State.resource_safe h1 ..
      · split
        · exact State.phaseViolation_safe h1
        · exact State.spillPages_safe h1 _ _ (fun t3 x4 h2 => State.claimTable_safe h2 ..)))

theorem execPhfree_safe {s : State} (hs : Safe s) (sw : Bool) (a : BitVec 5) : Outcome.Safe (execPhfree sw a s) := by
  unfold execPhfree
  exact State.issue_safe hs _ _ (fun t1 h => State.withTable_safe h _ _ (fun t2 x h1 => by
    split
    · exact State.phArrive_safe h1 ..
    · exact h1))

theorem State.drainTo_safe {s : State} (hs : Safe s) (a : Word) (n : Nat) (es : List (Word × Word)) : Safe (State.drainTo a n es s).1 := by
  induction es generalizing s n with
  | nil => exact hs
  | cons x es ih =>
    have checked := State.check_safe hs .store (a + BitVec.ofNat 64 (16 * n)) 16 16 s.exchange
    unfold State.drainTo
    dsimp only
    rcases e : s.check .store (a + BitVec.ofNat 64 (16 * n)) 16 16 s.exchange with ⟨t, f | q, h⟩ <;> rw [e] at checked
    · exact checked
    · exact ih (State.sign_safe (State.push_safe (State.push_safe checked ..) ..) ..) _

theorem State.drain_safe {s : State} (hs : Safe s) (sw : Bool) (d : BitVec 5) (at_ : Word) (clr : Bool) (p : PhPlace) :
    Safe (State.drain s sw d at_ clr p) := by
  unfold State.drain
  split
  · rename_i e
    exact State.phTrap_safe (Safe.of_fst e (State.spillPlaces_safe (State.countPh_safe hs ..) ..)) ..
  · rename_i e
    split
    · rename_i e1
      exact State.phTrap_safe (Safe.of_fst e1 (State.spillPlaces_safe (Safe.of_fst e (State.spillPlaces_safe (State.countPh_safe hs ..) ..)) ..)) ..
    · rename_i e1
      dsimp only
      split
      · rename_i e2
        exact State.trapAccess_safe (Safe.of_fst e2 (State.drainTo_safe (Safe.of_fst e1 (State.spillPlaces_safe (Safe.of_fst e (State.spillPlaces_safe
            (State.countPh_safe hs ..) ..)) ..)) ..)) ..
      · rename_i e2
        exact State.retireAfter_safe (State.writeLater_safe (by
          split
          · exact State.emptySpills_safe (State.emptyHomes_safe (Safe.of_fst e2 (State.drainTo_safe (Safe.of_fst e1 (State.spillPlaces_safe
              (Safe.of_fst e (State.spillPlaces_safe (State.countPh_safe hs ..) ..)) ..)) ..)) ..) ..
          · exact Safe.of_fst e2 (State.drainTo_safe (Safe.of_fst e1 (State.spillPlaces_safe (Safe.of_fst e (State.spillPlaces_safe
              (State.countPh_safe hs ..) ..)) ..)) ..)) ..) ..

theorem execPhdrn_safe {s : State} (hs : Safe s) (sw : Bool) (d : BitVec 5) (a : BitVec 5) (b : BitVec 5) (clr : Bool) :
    Outcome.Safe (execPhdrn sw d a b clr s) := by
  unfold execPhdrn
  exact State.issue_safe hs _ _ (fun t1 h => State.withTable_safe h _ _ (fun t2 x h1 => by
    split
    · exact State.trapAccess_safe h1 ..
    · exact State.drain_safe h1 ..))

theorem State.dropUnit_safe {s : State} (hs : Safe s) (u : UnitOp) : Safe (State.dropUnit s u) := hs

theorem State.unitStep_safe {s : State} (hs : Safe s) (u : UnitOp) : Safe (State.unitStep s u) := by
  unfold State.unitStep
  split
  · exact hs
  · dsimp only
    split
    · exact hs
    · split
      · rename_i e1
        exact State.answer_safe (State.dropUnit_safe (State.phLog_safe (Safe.of_fst e1 (State.phRun_safe (by
          split
          · exact hs
          · exact State.countPh_safe hs ..) ..)) ..) ..) ..
      · rename_i e1
        split
        · exact State.answer_safe (State.dropUnit_safe (Safe.of_fst e1 (State.phRun_safe (by
            split
            · exact hs
            · exact State.countPh_safe hs ..) ..)) ..) ..
        · exact State.modCore_safe (Safe.of_fst e1 (State.phRun_safe (by
            split
            · exact hs
            · exact State.countPh_safe hs ..) ..)) ..

theorem State.unitAccess_safe {s : State} (hs : Safe s) (core : BitVec 12) (jobid : BitVec 32) (op : RemoteOp) : Safe (State.unitAccess s core jobid op) := by
  unfold State.unitAccess
  split
  · split
    · exact State.unitStep_safe hs ..
    · exact hs
  · exact hs

theorem State.spikeInsert_safe {s : State} (hs : Safe s) (sw : Bool) (d : BitVec 5) (key : Word) (p : PhPlace) (k : Spike) :
    Safe (State.spikeInsert s sw d key p k) := by
  unfold State.spikeInsert
  split
  · rename_i e
    exact State.phTrap_safe (Safe.of_fst e (State.phView_safe (State.countPh_safe hs ..) ..)) ..
  · rename_i e
    split
    · exact State.retireAfter_safe (State.writeX_safe (Safe.of_fst e (State.phView_safe (State.countPh_safe hs ..) ..)) ..) ..
    · exact State.pushRoom_safe (Safe.of_fst e (State.phView_safe (State.countPh_safe hs ..) ..)) _ (fun t1 x4 x5 h => by
        split
        · rename_i e1
          exact State.phTrap_safe (Safe.of_fst e1 (State.phApply_safe h ..)) ..
        · rename_i e1
          exact State.retireAfter_safe (State.writeX_safe (State.spikeAppend_safe (Safe.of_fst e1 (State.phApply_safe h ..)) ..) ..) ..)

theorem execSpkins_safe {s : State} (hs : Safe s) (sw : Bool) (d : BitVec 5) (a : BitVec 5) (b : BitVec 5) : Outcome.Safe (execSpkins sw d a b s) := by
  unfold execSpkins
  exact State.issue_safe hs _ _ (fun t1 h => State.withTable_safe h _ _ (fun t2 x h1 => by
    split
    · exact State.illegal_safe h1
    · split
      · exact State.illegal_safe h1
      · exact State.spikeInsert_safe h1 ..))

/-! ## Ports, multicasts and the routers -/

theorem State.modPort_safe {s : State} (hs : Safe s) (n : BitVec 2) (f : Port → Port) : Safe (State.modPort s n f) := hs

theorem State.freeJob_safe {s : State} (hs : Safe s) {k : State → State} (hk : ∀ t, Safe t → Safe (k t)) : Safe (State.freeJob s k) := by
  unfold State.freeJob
  split
  · exact State.phaseViolation_safe hs
  · exact hk _ hs

theorem execRwin_safe {s : State} (hs : Safe s) (sw : Bool) (a : BitVec 5) (n : BitVec 2) : Outcome.Safe (execRwin sw a n s) := by
  unfold execRwin
  exact State.issue_safe hs _ _ (fun t1 h => State.freeJob_safe h (fun t2 h1 => by
    dsimp only
    split
    · split
      · exact State.illegal_safe h1
      · split
        · exact h1
        · exact h1
    · split
      · split
        · exact State.illegal_safe h1
        · exact h1
      · exact State.illegal_safe h1))

theorem State.postReclaim_safe {s : State} (hs : Safe s) (n : BitVec 2) (k : Nat) : Safe (State.postReclaim s n k) := by
  unfold State.postReclaim
  split <;> exact hs

theorem execPortWordArrival_safe {s : State} (hs : Safe s) (port : BitVec 2) (src : BitVec 12) (w : Word) (closes : Bool) :
    Outcome.Safe (execPortWordArrival port src w closes s) := by
  unfold execPortWordArrival
  dsimp only
  repeat' split
  all_goals exact hs

theorem execClosingMarker_safe {s : State} (hs : Safe s) (port : BitVec 2) : Outcome.Safe (execClosingMarker port s) := by
  unfold execClosingMarker
  split <;> exact hs

theorem execAbortCloseFlit_safe {s : State} (hs : Safe s) (port : BitVec 2) : Outcome.Safe (execAbortCloseFlit port s) := by
  unfold execAbortCloseFlit
  split
  · exact State.postReclaim_safe (State.modPort_safe (by
      split
      · exact hs
      · exact hs) ..) ..
  · exact hs

theorem execSendAllowance_safe {s : State} (hs : Safe s) (ctx : Fin 11) : Outcome.Safe (execSendAllowance ctx s) := by
  unfold execSendAllowance
  split <;> exact hs

theorem execReclaimMessage_safe {s : State} (hs : Safe s) (port : BitVec 2) (n : Nat) : Outcome.Safe (execReclaimMessage port n s) := hs

theorem execPopen_safe {s : State} (hs : Safe s) (sw : Bool) (a : BitVec 5) : Outcome.Safe (execPopen sw a s) := by
  unfold execPopen
  exact State.issue_safe hs _ _ (fun t1 h => State.freeJob_safe h (fun t2 h1 => by
    dsimp only
    split
    · exact State.illegal_safe h1
    · split
      · exact State.trapHere_safe h1 ..
      · split
        · exact State.illegal_safe h1
        · exact h1))

theorem State.modSend_safe {s : State} (hs : Safe s) (f : SendBinding → SendBinding) : Safe (State.modSend s f) := hs

theorem State.openRoute_safe {s : State} (hs : Safe s) : Safe (State.openRoute s) := by
  unfold State.openRoute
  split <;> exact hs

theorem State.sendWord_safe {s : State} (hs : Safe s) (w : Word) : Safe (State.sendWord s w) := by
  unfold State.sendWord
  dsimp only
  split
  · exact State.modPort_safe (State.modSend_safe (State.sign_safe hs ..) ..) ..
  · exact State.modSend_safe (State.sign_safe hs ..) ..

theorem State.sendMarker_safe {s : State} (hs : Safe s) : Safe (State.sendMarker s) := by
  unfold State.sendMarker
  exact State.modSend_safe (by
    split
    · exact hs
    · exact hs) ..

theorem State.sendWords_safe {s : State} (hs : Safe s) (ws : List Word) (n : Nat) : Safe (State.sendWords ws n s).1 := by
  induction ws generalizing s n with
  | nil => exact hs
  | cons w ws ih =>
    unfold State.sendWords
    split
    · exact hs
    · exact ih (State.sendWord_safe hs ..) _

theorem State.sendOn_safe {s : State} (hs : Safe s) (sw : Bool) (ws : List Word) (e : Bool) (gone : Nat) : Safe (State.sendOn s sw ws e gone) := by
  unfold State.sendOn
  dsimp only
  split
  · exact State.waitOn_safe (by
      split
      · exact hs
      · exact hs) ..
  · split
    · split
      · exact State.waitOn_safe (State.sendWords_safe (State.openRoute_safe hs) ..) ..
      · exact State.retireAfter_safe (by
          split
          · exact State.sendMarker_safe (State.sendWords_safe (State.openRoute_safe hs) ..)
          · exact State.sendWords_safe (State.openRoute_safe hs) ..) ..
    · split
      · exact State.waitOn_safe (State.sendWords_safe hs ..) ..
      · exact State.retireAfter_safe (by
          split
          · exact State.sendMarker_safe (State.sendWords_safe hs ..)
          · exact State.sendWords_safe hs ..) ..

theorem State.psend_safe {s : State} (hs : Safe s) (sw : Bool) (ws : List Word) (e : Bool) : Safe (State.psend s sw ws e) := by
  unfold State.psend
  exact State.freeJob_safe hs (fun t1 h => by
    split
    · split
      · split
        · exact h
        · exact State.sendOn_safe h ..
      · exact State.whenDone_safe h _ _ (fun t2 h1 => State.sendOn_safe h1 ..)
    · split
      · exact State.illegal_safe h
      · split
        · exact h
        · dsimp only
          split
          · exact State.trapHere_safe (State.modSend_safe h ..) ..
          · exact State.whenDone_safe (State.modSend_safe h ..) _ _ (fun t2 h1 => State.sendOn_safe h1 ..))

theorem execPsend_safe {s : State} (hs : Safe s) (sw : Bool) (a : BitVec 5) (v : Bool) (e : Bool) : Outcome.Safe (execPsend sw a v e s) := by
  unfold execPsend
  split
  · exact State.issue_safe hs _ _ (fun t1 h => State.psend_safe h ..)
  · exact State.issue_safe hs _ _ (fun t1 h => State.psend_safe h ..)

theorem State.takeResult_safe {s : State} (hs : Safe s) (sw : Bool) (d : BitVec 5) (v : Bool) (ws : List Word) (flag : Bool) :
    Safe (State.takeResult s sw d v ws flag) := State.retire_safe (State.writeLate_safe (State.writeLate_safe hs ..) ..) ..

theorem execPrecv_safe {s : State} (hs : Safe s) (sw : Bool) (d : BitVec 5) (v : Bool) (n : BitVec 2) : Outcome.Safe (execPrecv sw d v n s) := by
  unfold execPrecv
  exact State.issue_safe hs _ _ (fun t1 h => State.freeJob_safe h (fun t2 h1 => by
    dsimp only
    split
    · exact State.illegal_safe h1
    · split
      · split
        · split
          · exact State.takeResult_safe (State.modPort_safe h1 ..) ..
          · exact h1
        · exact State.takeResult_safe (by
            split
            · exact h1
            · exact h1) ..
      · split
        · split
          · exact State.takeResult_safe (State.modPort_safe h1 ..) ..
          · exact h1
        · exact State.takeResult_safe (by
            split
            · exact h1
            · exact h1) ..))

theorem State.signMcast_safe {s : State} (hs : Safe s) (ts : List (BitVec 12)) (doff : Nat) (data : List Byte) :
    Safe (State.signMcast s ts doff data) := Safe.foldl hs (fun _ _ h => State.sign_safe h ..) ..

theorem execMcast_safe {s : State} (hs : Safe s) (sw : Bool) (d : BitVec 5) (a : BitVec 5) (b : BitVec 5) : Outcome.Safe (execMcast sw d a b s) := by
  unfold execMcast
  exact State.issue_safe hs _ _ (fun t1 h => State.freeJob_safe h (fun t2 h1 => by
    dsimp only
    split
    · exact State.illegal_safe h1
    · exact State.spanCheck_safe h1 _ _ _ (fun t3 h2 => by
        split
        · exact h2
        · exact State.retire_safe (State.signMcast_safe (State.post_safe (State.modCore_safe (State.writeLater_safe h2 ..) ..) ..) ..) ..)))

theorem State.setMcast_safe {s : State} (hs : Safe s) (seq : Nat) (m : Option Mcast) : Safe (State.setMcast s seq m) := hs

theorem State.mcastStore_safe {s : State} (hs : Safe s) (source : Nat) (id : BitVec 16) (group : Option (BitVec 5)) (doff : Nat) (c : BitVec 12)
    (data : List Byte) :
    Safe (State.mcastStore s source id group doff c data).1 := by
  unfold State.mcastStore
  split
  · dsimp only
    split
    · exact State.post_safe (by
        split
        · exact State.poke_safe (State.poke_safe hs ..) ..
        · exact State.poke_safe hs ..) ..
    · split
      · exact State.poke_safe (State.poke_safe hs ..) ..
      · exact State.poke_safe hs ..
  · exact State.logEntry_safe hs ..

theorem State.mcastDone_safe {s : State} (hs : Safe s) (m : Mcast) : Safe (State.mcastDone s m) := by
  unfold State.mcastDone
  dsimp only
  split
  · exact State.formWrite_safe (State.setMcast_safe hs ..) ..
  · exact hs

theorem execMcastHop_safe {s : State} (hs : Safe s) (ctx : Fin 11) (seq : Nat) (refused : Bool) : Outcome.Safe (execMcastHop ctx seq refused s) := by
  unfold execMcastHop
  split
  · exact hs
  · split
    · exact State.mcastDone_safe hs ..
    · split
      · exact State.wake_safe (State.mcastDone_safe hs ..)
      · split
        · exact hs
        · dsimp only
          exact State.wake_safe (by
            split
            · exact State.mcastDone_safe (State.mcastStore_safe hs ..) ..
            · exact State.post_safe (State.setMcast_safe (State.mcastStore_safe hs ..) ..) ..)

theorem State.timedSend_safe {s : State} (hs : Safe s) (dest : Word) (v : Vec) : Safe (State.timedSend s dest v) := by
  unfold State.timedSend
  dsimp only
  split
  · exact State.modCore_safe (State.sign_safe hs ..) ..
  · split
    · exact State.poke_safe (State.poke_safe (State.sign_safe hs ..) ..) ..
    · exact State.poke_safe (State.sign_safe hs ..) ..

theorem execSendt_safe {s : State} (hs : Safe s) (sw : Bool) (d : BitVec 5) (a : BitVec 5) (slot : BitVec 13) : Outcome.Safe (execSendt sw d a slot s) := by
  unfold execSendt
  exact State.issue_safe hs _ _ (fun t1 h => by
    split
    · exact State.phaseViolation_safe h
    · split
      · exact State.trapHere_safe h ..
      · split
        · exact State.trapHere_safe h ..
        · split
          · exact State.trapHere_safe h ..
          · exact State.retire_safe (State.timedSend_safe h ..) ..)

theorem execPstat_safe {s : State} (hs : Safe s) (sw : Bool) (d : BitVec 5) (n : BitVec 2) :
    Outcome.Safe (execPstat sw d n s) := State.issue_safe hs _ _ (fun _ h => h)

theorem State.arbitrateOutput_safe {s : State} (hs : Safe s) (reqs : List RouterReq) : Safe (State.arbitrateOutput s reqs) := by
  unfold State.arbitrateOutput
  dsimp only
  split
  · exact hs
  · split
    · exact hs
    · split
      · exact State.count_safe (by exact hs) ..
      · exact hs

theorem execRouterArbitration_safe {s : State} (hs : Safe s) (reqs : List RouterReq) : Outcome.Safe (execRouterArbitration reqs s) := by
  unfold execRouterArbitration
  dsimp only
  exact Safe.foldl (by exact hs) (fun t1 x h => State.arbitrateOutput_safe h ..) ..

end Sys2Proof.Machine
end

section
/-! SUPPORT. Memory stays canonical as jobs end, are saved and launched, and under the host and the device. -/

namespace Sys2Proof.Machine

open Sys2Proof

/-! ## Endings -/

theorem State.awaitEnd_safe {s : State} (hs : Safe s) {k : State → State} (hk : ∀ t, Safe t → Safe (k t)) : Safe (State.awaitEnd s k) := by
  unfold State.awaitEnd
  split
  · exact State.raise_safe (State.modCtx_safe hs ..) ..
  · split
    · exact hs
    · exact hk _ hs

theorem execHend_safe {s : State} (hs : Safe s) (y0 : Bool) : Outcome.Safe (execHend y0 s) := by
  unfold execHend
  exact State.issue_safe hs _ _ (fun t1 h => by
    split
    · exact State.illegal_safe h
    · exact State.awaitEnd_safe h (fun t2 h1 => h1))

theorem execEndCore_safe {s : State} (hs : Safe s) (y0 : Bool) : Outcome.Safe (execEndCore y0 s) := by
  unfold execEndCore
  exact State.issue_safe hs _ _ (fun t1 h => State.transfer_safe h _ (fun t2 h1 => by
    split
    · exact State.illegal_safe h1
    · split
      · exact State.phaseViolation_safe h1
      · split
        · exact h1
        · split
          · exact h1
          · exact State.awaitEnd_safe h1 (fun t3 h2 => State.compareSigs_safe h2 (fun t4 h3 => State.redundancyAbort_safe h3 ..) (fun t4 h3 => h3))))

theorem State.closePort_safe {s : State} (hs : Safe s) (n : Fin 11) (p : BitVec 2) : Safe (State.closePort n s p) := by
  unfold State.closePort
  split
  · exact State.postReclaim_safe (State.modPort_safe (by
      split
      · exact hs
      · exact hs) ..) ..
  · exact hs

theorem State.stopCtx_safe {s : State} (hs : Safe s) (n : Fin 11) : Safe (State.stopCtx s n) := by
  have closed : Safe (([0, 1, 2, 3] : List (BitVec 2)).foldl (State.closePort n) (s.flushTakes n)) :=
    Safe.foldl (State.flushTakes_safe hs n) (fun t k h => State.closePort_safe h ..) _
  unfold State.stopCtx
  generalize List.foldl _ _ _ = t at closed ⊢
  exact closed

theorem execHelperStops_safe {s : State} (hs : Safe s) (ctx : Fin 11) : Outcome.Safe (execHelperStops ctx s) := by
  have stopped := State.wake_safe (State.stopCtx_safe hs ctx)
  unfold execHelperStops
  generalize (s.stopCtx ctx).wake = t at stopped ⊢
  split
  · exact stopped
  · exact hs

theorem State.completeJob_safe {s : State} (hs : Safe s) :
    Safe (State.completeJob s) := State.releaseJob_safe (State.endRecord_safe (State.flushAllTakes_safe (State.finishWrites_safe hs ..)) ..)

theorem State.endShare_safe {s : State} (hs : Safe s) : Safe (State.endShare s) := by
  have stopped := State.stopCtx_safe hs 0
  unfold State.endShare
  generalize s.stopCtx 0 = t at stopped ⊢
  exact stopped

theorem execCoreFree_safe {s : State} (hs : Safe s) : Outcome.Safe (execCoreFree s) := by
  unfold execCoreFree
  split
  · dsimp only
    split
    · exact State.completeJob_safe (State.endShare_safe hs)
    · exact State.wake_safe (State.endShare_safe hs)
  · split
    · exact State.completeJob_safe hs
    · split
      · split
        · exact State.endOther_safe (by exact hs) ..
        · exact hs
      · exact hs

/-! ## Saving and restoring -/

theorem Memory.wf_foldl {α : Type} {f : List Host.Cell → α → List Host.Cell} (hf : ∀ m a, Memory.wf m = true → Memory.wf (f m a) = true) (l : List α)
    {m : List Host.Cell} (w : Memory.wf m = true) : Memory.wf (l.foldl f m) = true := by
  induction l generalizing m with
  | nil => exact w
  | cons a l ih => exact ih (hf m a w)

theorem State.fillSaveArea_safe {s : State} (hs : Safe s) : Safe (State.fillSaveArea s) :=
  Memory.wf_write (Memory.wf_foldl (fun _ _ w => Memory.wf_foldl (fun _ _ w => Memory.wf_write w ..) _ w) _ hs) ..

theorem execCoreSave_safe {s : State} (hs : Safe s) : Outcome.Safe (execCoreSave s) := by
  unfold execCoreSave
  split
  · exact hs
  · split
    · split
      · exact hs
      · exact hs
    · exact State.idle_safe (State.fillSaveArea_safe (State.drainOutside_safe hs))

theorem execLandingSetDrainBound_safe {s : State} (hs : Safe s) : Outcome.Safe (execLandingSetDrainBound s) := by
  unfold execLandingSetDrainBound
  split <;> exact hs

theorem State.retakePair_safe {s : State} (hs : Safe s) (owned : Bool) : Safe (State.retakePair s owned) := by
  unfold State.retakePair
  split <;> exact hs

theorem State.relaunchAll_safe {s : State} (hs : Safe s) :
    Safe (State.relaunchAll s) := State.focus_safe (Safe.foldl hs (fun _ _ h => State.relaunchSlots_safe (State.focus_safe h ..)) ..) ..

theorem State.putBack_safe {s : State} (hs : Safe s) (x : Saved) : Safe (State.putBack s x) := Memory.wf_writeCells (Memory.wf_filter hs _) _

theorem State.restored_safe {s : State} (hs : Safe s) (x : Saved) : Safe (State.restored s x) := by
  have back := State.relaunchAll_safe (State.retakePair_safe (State.putBack_safe hs x) x.owned)
  unfold State.restored
  generalize State.relaunchAll _ = t at back ⊢
  exact back

theorem execRetryResend_safe {s : State} (hs : Safe s) (seq : Nat) : Outcome.Safe (execRetryResend seq s) := by
  unfold execRetryResend
  split
  · exact State.tryAcc_safe (by exact hs) ..
  · exact hs

theorem State.remoteAtomic_safe {s : State} (hs : Safe s) (core : BitVec 12) (off : Nat) (f : AtomicOp) (t : AtomicTy) (b : Word) (clu : Bool) :
    Safe (State.remoteAtomic s core off f t b clu) := by
  unfold State.remoteAtomic
  dsimp only
  split
  · exact State.answer_safe (State.logEntry_safe (by
      split
      · exact State.finishUnits_safe hs ..
      · exact hs) ..) ..
  · exact State.answer_safe (by
      split
      · exact State.addHalf_safe (State.finishUnits_safe hs ..) ..
      · exact State.poke_safe hs ..) ..

theorem State.remoteOp_safe {s : State} (hs : Safe s) (core : BitVec 12) (jobid : BitVec 32) (op : RemoteOp) : Safe (State.remoteOp s core jobid op) := by
  unfold State.remoteOp
  dsimp only
  split
  · exact hs
  · exact State.poke_safe hs ..
  · exact State.remoteAtomic_safe hs ..
  · split
    · exact hs
    · split
      · exact hs
      · exact hs
  · split
    · exact hs
    · exact State.fputAt_safe hs ..
  · exact State.finitAt_safe hs ..
  · exact State.unitAccess_safe hs ..

theorem execRemoteAccess_safe {s : State} (hs : Safe s) (core : BitVec 12) (jobid : BitVec 32) (op : RemoteOp) :
    Outcome.Safe (execRemoteAccess core jobid op s) := by
  unfold execRemoteAccess
  split
  · split
    · exact State.count_safe hs ..
    · exact State.wake_safe (State.remoteOp_safe hs ..)
  · split
    · exact State.count_safe hs ..
    · exact State.answer_safe (State.logAbout_safe hs ..) ..

theorem State.abortOthers_safe {s : State} (hs : Safe s) (reason : Nat) (js : List OtherJob) : Safe (State.abortOthers reason js s) := by
  induction js generalizing s with
  | nil => exact hs
  | cons j js ih => exact ih (State.endOther_safe hs ..)

theorem State.abortEvicted_safe {s : State} (hs : Safe s) (x : Saved) (reason : Nat) : Safe (State.abortEvicted s x reason) := by
  have ended : Safe ((({ s with ctxs := x.ctxs, job := x.job, bar := x.bar } : State).flushAllTakes).endRecord 3 reason) :=
    State.endRecord_safe (State.flushAllTakes_safe (by exact hs)) ..
  unfold State.abortEvicted
  generalize State.endRecord _ _ _ = t at ended ⊢
  exact ended

theorem State.abortSaved_safe {s : State} (hs : Safe s) (reason : Nat) (xs : List Saved) : Safe (State.abortSaved reason xs s) := by
  induction xs generalizing s with
  | nil => exact hs
  | cons x xs ih => exact ih (State.abortEvicted_safe (by exact hs) ..)

theorem State.leaveJob_safe {s : State} (hs : Safe s) (die : BitVec 2) : Safe (State.leaveJob s die) := hs

theorem State.othersLose_safe {s : State} (hs : Safe s) (die : BitVec 2) :
    Safe (State.othersLose s die) := State.abortSaved_safe (State.abortOthers_safe hs ..) ..

theorem execDieFenced_safe {s : State} (hs : Safe s) (die : BitVec 2) : Outcome.Safe (execDieFenced die s) := by
  unfold execDieFenced
  dsimp only
  split
  · split
    · exact State.othersLose_safe hs ..
    · split
      · exact State.abortJob_safe (State.othersLose_safe hs ..) ..
      · split
        · exact State.leaveJob_safe (State.othersLose_safe hs ..) ..
        · exact Safe.of_mem (State.othersLose_safe hs ..) rfl
  · split
    · exact State.othersLose_safe (by exact hs) ..
    · split
      · exact State.abortJob_safe (State.othersLose_safe (by exact hs) ..) ..
      · split
        · exact State.leaveJob_safe (State.othersLose_safe (by exact hs) ..) ..
        · exact Safe.of_mem (State.othersLose_safe (by exact hs) ..) rfl

theorem State.resetOther_safe {s : State} (hs : Safe s) (n : Nat) : Safe (State.resetOther s n) := hs

theorem execClusterReset_safe {s : State} (hs : Safe s) : Outcome.Safe (execClusterReset s) := by
  unfold execClusterReset
  exact State.withReq_safe hs (fun x t1 h => by
    dsimp only
    split
    · exact State.abortOthers_safe h ..
    · split
      · exact State.abortJob_safe (State.abortCmds_safe (State.abortOthers_safe h ..)) ..
      · exact State.resetOther_safe (State.abortOthers_safe h ..) ..)

/-! ## The dispatcher -/

theorem State.evict_safe {s : State} (hs : Safe s) (v : List Holder) : Safe (State.evict s v) := by
  unfold State.evict
  dsimp only
  split <;> exact hs

theorem launchMemory_wf {m : List Host.Cell} (w : Memory.wf m = true) (cs : List (BitVec 12)) (image : List Byte) :
    Memory.wf (launchMemory m cs image) = true := Memory.wf_foldl (fun _ _ w => Memory.wf_write w ..) _ (Memory.wf_filter w _)

theorem State.launchHere_safe {s : State} (hs : Safe s) (p : Packet) (q : Nat) (i : BitVec 32) (cs : List (BitVec 12)) :
    Safe (State.launchHere s p q i cs) := by
  have written := launchMemory_wf hs cs (s.launchImage p s.die (s.blockOf p))
  have opened : ∀ u : State, Memory.wf u.mem = true → Safe
      (if u.openDaybook.job.noReplay then u.openDaybook.logEntry true 10 0 u.openDaybook.unitSource 0 0 else u.openDaybook) := by
    intro u w
    split
    · exact State.logEntry_safe (State.openDaybook_safe w) ..
    · exact State.openDaybook_safe w
  unfold State.launchHere
  exact opened _ written

theorem State.launchThere_safe {s : State} (hs : Safe s) (p : Packet) (q : Nat) (i : BitVec 32) (cs : List (BitVec 12)) :
    Safe (State.launchThere s p q i cs) := by
  have written := launchMemory_wf hs cs (s.launchImage p ((cs.headD 0).toNat / 768) (s.blockOf p))
  unfold State.launchThere
  dsimp only
  split
  · exact State.logAbout_safe (by exact written) ..
  · exact written

theorem State.advanceHead_safe {s : State} (hs : Safe s) (q : Nat) : Safe (State.advanceHead s q) := hs

theorem State.neverRan_safe {s : State} (hs : Safe s) (q : Nat) (p : Packet) (clash : Bool) (status : Nat) (reason : Nat) :
    Safe (State.neverRan s q p clash status reason) := State.writeRecord_safe hs ..

theorem State.place_safe {s : State} (hs : Safe s) (q : Nat) (i : BitVec 32) (p : Packet) (cs : List (BitVec 12)) : Safe (State.place s q i p cs) := by
  unfold State.place
  dsimp only
  split
  · exact State.advanceHead_safe (State.neverRan_safe hs ..) ..
  · split
    · exact State.advanceHead_safe (State.neverRan_safe hs ..) ..
    · split
      · exact hs
      · split
        · exact hs
        · exact State.evict_safe hs ..
        · split
          · exact hs
          · split
            · exact State.advanceHead_safe (State.neverRan_safe hs ..) ..
            · split
              · exact State.advanceHead_safe (State.launchHere_safe hs ..) ..
              · exact State.advanceHead_safe (State.launchThere_safe hs ..) ..

theorem State.returnOther_safe {s : State} (hs : Safe s) (j : Job) : Safe (State.returnOther s j) := Memory.wf_writeCells (Memory.wf_filter hs _) _

theorem State.restoreOther_safe {s : State} (hs : Safe s) (q : Nat) : Safe (State.restoreOther s q) := by
  unfold State.restoreOther
  split
  · split
    · exact hs
    · split
      · exact hs
      · exact State.evict_safe hs ..
      · exact State.returnOther_safe hs ..
  · exact hs

theorem execDispatch_safe {s : State} (hs : Safe s) (q : BitVec 8) (placed : List (BitVec 12)) : Outcome.Safe (execDispatch q placed s) := by
  unfold execDispatch
  dsimp only
  split
  · exact State.restoreOther_safe hs ..
  · split
    · exact State.advanceHead_safe (State.neverRan_safe hs ..) ..
    · split
      · exact State.advanceHead_safe (State.neverRan_safe hs ..) ..
      · split
        · exact State.place_safe hs ..
        · exact hs

theorem execRestore_safe {s : State} (hs : Safe s) : Outcome.Safe (execRestore s) := by
  unfold execRestore
  split
  · exact hs
  · split
    · exact State.evict_safe hs ..
    · split
      · exact hs
      · exact State.restored_safe (by exact hs) ..

/-! ## The host -/

theorem State.ignoreWrite_safe {s : State} (hs : Safe s) (off : Nat) : Safe (State.ignoreWrite s off) := State.answer_safe (State.logFor_safe hs ..) ..

theorem State.modQueue_safe {s : State} (hs : Safe s) (q : Nat) (f : Queue → Queue) : Safe (State.modQueue s q f) := hs

theorem State.acceptPacket_safe {s : State} (hs : Safe s) (q : Nat) (i : BitVec 32) : Safe (State.acceptPacket s q i) := by
  unfold State.acceptPacket
  dsimp only
  repeat' split
  all_goals exact hs

theorem State.acceptFrom_safe {s : State} (hs : Safe s) (q n : Nat) (i : BitVec 32) : Safe (State.acceptFrom q n i s) := by
  induction n generalizing s i with
  | zero => exact hs
  | succ n ih => exact ih (State.acceptPacket_safe hs ..) _

theorem State.acceptQueue_safe {s : State} (hs : Safe s) (q : Nat) : Safe (State.acceptQueue s q) := by
  unfold State.acceptQueue
  dsimp only
  split
  · exact hs
  · exact State.modQueue_safe (State.acceptFrom_safe hs ..) ..

theorem State.writeTail_safe {s : State} (hs : Safe s) (off : Nat) (v : Word) : Safe (State.writeTail s off v) := by
  unfold State.writeTail
  dsimp only
  split
  · exact State.ignoreWrite_safe hs ..
  · exact State.acceptQueue_safe (State.modQueue_safe hs ..) ..

theorem State.writeBase_safe {s : State} (hs : Safe s) (off : Nat) (v : Word) : Safe (State.writeBase s off v) := by
  unfold State.writeBase
  split
  · exact State.ignoreWrite_safe hs ..
  · exact hs

theorem State.writeSize_safe {s : State} (hs : Safe s) (off : Nat) (v : Word) : Safe (State.writeSize s off v) := by
  unfold State.writeSize
  split
  · exact State.ignoreWrite_safe hs ..
  · exact hs

theorem State.cancelFrom_safe {s : State} (hs : Safe s) (q n : Nat) : Safe (State.cancelFrom q n s) := by
  induction n generalizing s with
  | zero => exact hs
  | succ n ih => exact ih (State.advanceHead_safe (State.neverRan_safe hs ..) ..)

theorem State.startTeardown_safe {s : State} (hs : Safe s) (q : Nat) : Safe (State.startTeardown s q) := by
  unfold State.startTeardown
  exact State.post_safe (by
    split
    · exact State.stopContexts_safe (State.abortSaved_safe (State.abortOthers_safe (State.cancelFrom_safe hs ..) ..) ..) ..
    · exact State.abortSaved_safe (State.abortOthers_safe (State.cancelFrom_safe hs ..) ..) ..) ..

theorem State.writeCtl_safe {s : State} (hs : Safe s) (off : Nat) (v : Word) : Safe (State.writeCtl s off v) := by
  unfold State.writeCtl
  dsimp only
  split
  · exact State.ignoreWrite_safe hs ..
  · split
    · split
      · exact hs
      · exact State.startTeardown_safe (State.modQueue_safe hs ..) ..
    · split
      · split
        · exact hs
        · exact hs
      · exact hs

theorem execDoorbell_safe {s : State} (hs : Safe s) : Outcome.Safe (execDoorbell s) := State.withReq_safe hs (fun _ _ h => State.writeTail_safe h ..)

theorem execQbase_safe {s : State} (hs : Safe s) : Outcome.Safe (execQbase s) := State.withReq_safe hs (fun _ _ h => State.writeBase_safe h ..)

theorem execQsize_safe {s : State} (hs : Safe s) : Outcome.Safe (execQsize s) := State.withReq_safe hs (fun _ _ h => State.writeSize_safe h ..)

theorem execQhead_safe {s : State} (hs : Safe s) : Outcome.Safe (execQhead s) := State.withReq_safe hs (fun _ _ h => State.ignoreWrite_safe h ..)

theorem execQueueEnable_safe {s : State} (hs : Safe s) : Outcome.Safe (execQueueEnable s) := State.withReq_safe hs (fun _ _ h => State.writeCtl_safe h ..)

theorem execQueueDisable_safe {s : State} (hs : Safe s) : Outcome.Safe (execQueueDisable s) := State.withReq_safe hs (fun _ _ h => State.writeCtl_safe h ..)

theorem execTeardown_safe {s : State} (hs : Safe s) : Outcome.Safe (execTeardown s) := State.withReq_safe hs (fun _ _ h => State.writeCtl_safe h ..)

theorem execTeardownCompletes_safe {s : State} (hs : Safe s) (q : BitVec 8) : Outcome.Safe (execTeardownCompletes q s) := by
  unfold execTeardownCompletes
  dsimp only
  split
  · exact hs
  · split
    · exact State.modQueue_safe (by
        split
        · exact State.abortJob_safe hs ..
        · exact hs) ..
    · split
      · exact State.abortJob_safe hs ..
      · exact hs

theorem State.refuseHost_safe {s : State} (hs : Safe s) (a : Nat) : Safe (State.refuseHost s a) := State.answer_safe (State.logFor_safe hs ..) ..

theorem execHostWrite_safe {s : State} (hs : Safe s) : Outcome.Safe (execHostWrite s) := by
  unfold execHostWrite
  exact State.withReq_safe hs (fun x t1 h => by
    split
    · exact h
    · split
      · exact State.wake_safe (State.poke_safe h ..)
      · exact State.refuseHost_safe h ..)

theorem execHostRead_safe {s : State} (hs : Safe s) : Outcome.Safe (execHostRead s) := by
  unfold execHostRead
  exact State.withReq_safe hs (fun x t1 h => by
    split
    · exact h
    · split
      · exact h
      · split
        · exact h
        · exact h)

theorem State.outsideAtomic_safe {s : State} (hs : Safe s) (key : Nat) (op : Rmw) (b : Word) : Safe (State.outsideAtomic s key op b) := by
  unfold State.outsideAtomic
  dsimp only
  split
  · exact State.answer_safe (State.finishUnits_safe hs ..) ..
  · exact State.answer_safe (State.addHalf_safe (State.finishUnits_safe hs ..) ..) ..

theorem execHostAtomicop_safe {s : State} (hs : Safe s) : Outcome.Safe (execHostAtomicop s) := by
  unfold execHostAtomicop
  exact State.withReq_safe hs (fun x t1 h => by
    split
    · exact h
    · split
      · exact State.outsideAtomic_safe h ..
      · exact State.refuseHost_safe h ..)

theorem execPeerDeviceAccess_safe {s : State} (hs : Safe s) : Outcome.Safe (execPeerDeviceAccess s) := by
  unfold execPeerDeviceAccess
  exact State.withReq_safe hs (fun x t1 h => by
    split
    · exact h
    · split
      · exact State.wake_safe (State.poke_safe h ..)
      · split
        · exact State.outsideAtomic_safe h ..
        · exact h)

theorem execGetMeasurements_safe {s : State} (hs : Safe s) : Outcome.Safe (execGetMeasurements s) := by
  unfold execGetMeasurements
  exact State.withReq_safe hs (fun x t1 h => by
    split
    · exact h
    · exact h)

theorem execVendorDefinedRequest_safe {s : State} (hs : Safe s) : Outcome.Safe (execVendorDefinedRequest s) := by
  unfold execVendorDefinedRequest
  exact State.withReq_safe hs (fun x t1 h => by
    split
    · exact h
    · exact h)

theorem execSpdmRequest_safe {s : State} (hs : Safe s) : Outcome.Safe (execSpdmRequest s) := State.withReq_safe hs (fun _ _ h => h)

theorem execConfigurationSpaceAccess_safe {s : State} (hs : Safe s) : Outcome.Safe (execConfigurationSpaceAccess s) := State.withReq_safe hs (fun _ _ h => h)

/-! ## The device -/

theorem execElbase_safe {s : State} (hs : Safe s) :
    Outcome.Safe (execElbase s) := State.withReq_safe hs (fun x t1 h => Safe.foldl (by exact h) (fun t2 x1 h1 => State.acceptQueue_safe h1 ..) ..)

theorem execLost_safe {s : State} (hs : Safe s) : Outcome.Safe (execLost s) := hs

theorem execTrdrop_safe {s : State} (hs : Safe s) : Outcome.Safe (execTrdrop s) := hs

theorem execRegisterWrite_safe {s : State} (hs : Safe s) : Outcome.Safe (execRegisterWrite s) := by
  unfold execRegisterWrite
  exact State.withReq_safe hs (fun x t1 h => by
    dsimp only
    split
    · exact State.ignoreWrite_safe h ..
    · exact h)

theorem execCntcfg_safe {s : State} (hs : Safe s) : Outcome.Safe (execCntcfg s) := by
  unfold execCntcfg
  refine State.withReq_safe hs fun r t h => ?_
  obtain ⟨k, number⟩ : ∃ k, k = (r.addr - 0x100000) / 8 := ⟨_, rfl⟩
  simp only [← number]
  split
  · exact h
  · split
    · exact State.modCore_safe h _
    · exact h

theorem State.setDebugIdle_safe {s : State} (hs : Safe s) : Safe (State.setDebugIdle s) := hs

theorem execDebugClaim_safe {s : State} (hs : Safe s) : Outcome.Safe (execDebugClaim s) := State.withReq_safe hs (fun _ _ h => h)

theorem execDebugRelease_safe {s : State} (hs : Safe s) : Outcome.Safe (execDebugRelease s) := State.withReq_safe hs (fun _ _ h => h)

theorem execStop_safe {s : State} (hs : Safe s) : Outcome.Safe (execStop s) := by
  unfold execStop
  split
  · exact hs
  · split
    · split
      · exact hs
      · exact State.stopJob_safe hs
    · split
      · split
        · exact hs
        · exact hs
      · exact hs

theorem execResume_safe {s : State} (hs : Safe s) : Outcome.Safe (execResume s) := by
  unfold execResume
  split <;> exact hs

theorem execStep_safe {s : State} (hs : Safe s) : Outcome.Safe (execStep s) := by
  unfold execStep
  exact State.withReq_safe hs (fun x t1 h => by
    split
    · exact h
    · split
      · exact h
      · split
        · exact h
        · dsimp only
          split
          · exact h
          · exact h)

theorem execKill_safe {s : State} (hs : Safe s) : Outcome.Safe (execKill s) := by
  unfold execKill
  split
  · exact hs
  · split
    · exact State.setDebugIdle_safe (State.abortJob_safe hs ..)
    · exact State.setDebugIdle_safe (State.abortOthers_safe (State.abortSaved_safe hs ..) ..)

theorem State.setDebugItem_safe {s : State} (hs : Safe s) (space : Nat) (i : Nat) (w : Word) : Safe (State.setDebugItem s space i w) := by
  unfold State.setDebugItem
  split
  · split
    · exact hs
    · exact hs
  · dsimp only
    split
    · exact hs
    · exact hs
  · split
    · exact hs
    · exact hs
  · exact hs
  · split
    · exact State.writeCtrl_safe hs ..
    · exact hs
  · exact hs

theorem State.debugWrite_safe {s : State} (hs : Safe s) (w : Word) : Safe (State.debugWrite s w) := by
  unfold State.debugWrite
  dsimp only
  split
  · exact hs
  · split
    · split
      · exact State.poke_safe hs ..
      · exact hs
    · split
      · exact hs
      · split
        · split
          · exact hs
          · exact hs
        · split
          · exact Safe.of_mem (State.setDebugItem_safe (by exact hs) ..) rfl
          · exact hs

theorem execDbgdataRead_safe {s : State} (hs : Safe s) : Outcome.Safe (execDbgdataRead s) := hs

theorem execDbgdataWrite_safe {s : State} (hs : Safe s) :
    Outcome.Safe (execDbgdataWrite s) := State.withReq_safe hs (fun _ _ h => State.debugWrite_safe h ..)

theorem execTestSlice_safe {s : State} (hs : Safe s) : Outcome.Safe (execTestSlice s) := by
  unfold execTestSlice
  exact State.withReq_safe hs (fun x t1 h => by
    split
    · exact h
    · exact h)

theorem State.endSlice_safe {s : State} (hs : Safe s) (u : Nat) (pass : Bool) : Safe (State.endSlice s u pass) := by
  unfold State.endSlice
  dsimp only
  split
  · exact hs
  · exact State.logFor_safe (by exact hs) ..

theorem execTestSliceEnd_safe {s : State} (hs : Safe s) : Outcome.Safe (execTestSliceEnd s) := by
  unfold execTestSliceEnd
  exact State.withReq_safe hs (fun x t1 h => by
    split
    · exact h
    · exact State.endSlice_safe h ..)

theorem State.bringUpStep_safe {s : State} (hs : Safe s) : Safe (State.bringUpStep s) := by
  unfold State.bringUpStep
  dsimp only
  split
  · exact hs
  · split
    · exact Safe.foldl (by exact hs) (fun t1 x3 h => State.endSlice_safe h ..) ..
    · exact hs
    · exact hs

theorem execPtmExchange_safe {s : State} (hs : Safe s) : Outcome.Safe (execPtmExchange s) := State.withReq_safe hs (fun _ _ h => h)

theorem execPwrctl_safe {s : State} (hs : Safe s) : Outcome.Safe (execPwrctl s) := State.withReq_safe hs (fun _ _ h => h)

theorem execPwrst_safe {s : State} (hs : Safe s) : Outcome.Safe (execPwrst s) := State.withReq_safe hs (fun _ _ h => h)

theorem execThrottleWindow_safe {s : State} (hs : Safe s) : Outcome.Safe (execThrottleWindow s) := hs

theorem State.fresh_safe {s : State} (hs : Safe s) (d : Device) : Safe (State.fresh s d) := Memory.wf_filter hs _

theorem State.unpowered_safe {s : State} (hs : Safe s) : Safe (State.unpowered s) := State.fresh_safe hs ..

theorem execTrip_safe {s : State} (hs : Safe s) : Outcome.Safe (execTrip s) := State.unpowered_safe hs

theorem execColdReset_safe {s : State} (hs : Safe s) : Outcome.Safe (execColdReset s) := State.fresh_safe hs ..

theorem execFunctionLevelReset_safe {s : State} (hs : Safe s) : Outcome.Safe (execFunctionLevelReset s) := State.fresh_safe hs ..

theorem execD3hot_safe {s : State} (hs : Safe s) : Outcome.Safe (execD3hot s) := hs

theorem execD0_safe {s : State} (hs : Safe s) : Outcome.Safe (execD0 s) := hs

theorem execD3cold_safe {s : State} (hs : Safe s) : Outcome.Safe (execD3cold s) := State.unpowered_safe hs

theorem execLuralPortDown_safe {s : State} (hs : Safe s) : Outcome.Safe (execLuralPortDown s) := State.withReq_safe hs (fun _ _ h => h)

theorem execHostLinkDown_safe {s : State} (hs : Safe s) : Outcome.Safe (execHostLinkDown s) := hs

end Sys2Proof.Machine
end

section
/-! SUPPORT. Memory stays canonical under every instruction, under what other cores do, and in a step. -/

namespace Sys2Proof.Machine

open Sys2Proof

/-! ## Every instruction -/

theorem exec_safe {s : State} (hs : Safe s) (i : Instr) : Outcome.Safe (exec i s) := by
  unfold exec
  split
  · exact execAdd_safe hs ..
  · exact execAddi_safe hs ..
  · exact execSub_safe hs ..
  · exact execMul_safe hs ..
  · exact execMuli_safe hs ..
  · exact execMulh_safe hs ..
  · exact execDiv_safe hs ..
  · exact execRem_safe hs ..
  · exact execAnd_safe hs ..
  · exact execAndi_safe hs ..
  · exact execOr_safe hs ..
  · exact execOri_safe hs ..
  · exact execXor_safe hs ..
  · exact execXori_safe hs ..
  · exact execShl_safe hs ..
  · exact execShli_safe hs ..
  · exact execShr_safe hs ..
  · exact execShri_safe hs ..
  · exact execSra_safe hs ..
  · exact execSrai_safe hs ..
  · exact execClz_safe hs ..
  · exact execCtz_safe hs ..
  · exact execPopc_safe hs ..
  · exact execMin_safe hs ..
  · exact execMax_safe hs ..
  · exact execBfx_safe hs ..
  · exact execBfi_safe hs ..
  · exact execAbs_safe hs ..
  · exact execMov_safe hs ..
  · exact execMovFromLoop_safe hs ..
  · exact execMovToLoop_safe hs ..
  · exact execMovi_safe hs ..
  · exact execLea_safe hs ..
  · exact execSlt_safe hs ..
  · exact execSlti_safe hs ..
  · exact execSeq_safe hs ..
  · exact execSeqi_safe hs ..
  · exact execSel_safe hs ..
  · exact execPcmp_safe hs ..
  · exact execPlog_safe hs ..
  · exact execPmovToPredicate_safe hs ..
  · exact execPmovFromPredicate_safe hs ..
  · exact execPcnt_safe hs ..
  · exact execBr_safe hs ..
  · exact execCall_safe hs ..
  · exact execJr_safe hs ..
  · exact execCallr_safe hs ..
  · exact execRet_safe hs ..
  · exact execBeqz_safe hs ..
  · exact execBnez_safe hs ..
  · exact execBltz_safe hs ..
  · exact execBgez_safe hs ..
  · exact execBpany_safe hs ..
  · exact execBpnone_safe hs ..
  · exact execLoop_safe hs ..
  · exact execLoopi_safe hs ..
  · exact execRptf_safe hs ..
  · exact execNop_safe hs ..
  · exact execHstart_safe hs ..
  · exact execHend_safe hs ..
  · exact execHwait_safe hs ..
  · exact execHstat_safe hs ..
  · exact execGang_safe hs ..
  · exact execSplit_safe hs ..
  · exact execTrap_safe hs ..
  · exact execRte_safe hs ..
  · exact execRteXa_safe hs ..
  · exact execEndCore_safe hs ..
  · exact execMfc_safe hs ..
  · exact execMtc_safe hs ..
  · exact execIcinv_safe hs ..
  · exact execBrk_safe hs ..
  · exact execPause_safe hs ..
  · exact execCntrd_safe hs ..
  · exact execVadd_safe hs ..
  · exact execVsub_safe hs ..
  · exact execVmul_safe hs ..
  · exact execVfma_safe hs ..
  · exact execVmin_safe hs ..
  · exact execVmax_safe hs ..
  · exact execVabs_safe hs ..
  · exact execVand_safe hs ..
  · exact execVor_safe hs ..
  · exact execVxor_safe hs ..
  · exact execVshl_safe hs ..
  · exact execVshr_safe hs ..
  · exact execVcmp_safe hs ..
  · exact execVsel_safe hs ..
  · exact execVshuf_safe hs ..
  · exact execVperm_safe hs ..
  · exact execVbcast_safe hs ..
  · exact execVred_safe hs ..
  · exact execVcvt_safe hs ..
  · exact execVmovxExtract_safe hs ..
  · exact execVmovxInsert_safe hs ..
  · exact execVrcp_safe hs ..
  · exact execVrsq_safe hs ..
  · exact execVtbld_safe hs ..
  · exact execVinterp_safe hs ..
  · exact execLd_safe hs ..
  · exact execSt_safe hs ..
  · exact execLdc_safe hs ..
  · exact execVld_safe hs ..
  · exact execVst_safe hs ..
  · exact execVldb_safe hs ..
  · exact execVgth_safe hs ..
  · exact execVsct_safe hs ..
  · exact execPref_safe hs ..
  · exact execFlush_safe hs ..
  · exact execTlbinv_safe hs ..
  · exact execTlbprb_safe hs ..
  · exact execTlbwait_safe hs ..
  · exact execRgnq_safe hs ..
  · exact execLdt_safe hs ..
  · exact execTka_safe hs ..
  · exact execTkt_safe hs ..
  · exact execReld_safe hs ..
  · exact execReldDrop_safe hs ..
  · exact execLsq_safe hs ..
  · exact execLsmode_safe hs ..
  · exact execQpush_safe hs ..
  · exact execQpop_safe hs ..
  · exact execQtry_safe hs ..
  · exact execQlen_safe hs ..
  · exact execGx_safe hs ..
  · exact execGxs_safe hs ..
  · exact execCompact_safe hs ..
  · exact execSbind_safe hs ..
  · exact execSbindAffine_safe hs ..
  · exact execSfree_safe hs ..
  · exact execSstat_safe hs ..
  · exact execSadv_safe hs ..
  · exact execWmrd_safe hs ..
  · exact execArv_safe hs ..
  · exact execArvn_safe hs ..
  · exact execWait_safe hs ..
  · exact execWtest_safe hs ..
  · exact execExpect_safe hs ..
  · exact execSync_safe hs ..
  · exact execFence_safe hs ..
  · exact execBbset_safe hs ..
  · exact execBbrd_safe hs ..
  · exact execBbclr_safe hs ..
  · exact execBbpulse_safe hs ..
  · exact execPhase_safe hs ..
  · exact execBgstat_safe hs ..
  · exact execDlkst_safe hs ..
  · exact execAmo_safe hs ..
  · exact execRed_safe hs ..
  · exact execRedv_safe hs ..
  · exact execCas_safe hs ..
  · exact execFtake_safe hs ..
  · exact execFput_safe hs ..
  · exact execFpeek_safe hs ..
  · exact execFinit_safe hs ..
  · exact execSpkclaim_safe hs ..
  · exact execSpkpush_safe hs ..
  · exact execSpkpop_safe hs ..
  · exact execSpkins_safe hs ..
  · exact execSpklen_safe hs ..
  · exact execSpkfree_safe hs ..
  · exact execSwalloc_safe hs ..
  · exact execSwstat_safe hs ..
  · exact execMctx_safe hs ..
  · exact execMmul_safe hs ..
  · exact execMloads_safe hs ..
  · exact execMswap_safe hs ..
  · exact execMstream_safe hs ..
  · exact execMdrain_safe hs ..
  · exact execAcrd_safe hs ..
  · exact execAcwr_safe hs ..
  · exact execMchkKat_safe hs ..
  · exact execMchkInj_safe hs ..
  · exact execMzeroAcc_safe hs ..
  · exact execMzeroSt_safe hs ..
  · exact execMstat_safe hs ..
  · exact execMwait_safe hs ..
  · exact execMcbk_safe hs ..
  · exact execMflag_safe hs ..
  · exact execLmjoin_safe hs ..
  · exact execLmjoinLeave_safe hs ..
  · exact execDraft_safe hs ..
  · exact execWarp_safe hs ..
  · exact execWeft_safe hs ..
  · exact execLmgo_safe hs ..
  · exact execLmwait_safe hs ..
  · exact execLmstat_safe hs ..
  · exact execPhclaim_safe hs ..
  · exact execPhins_safe hs ..
  · exact execPhprb_safe hs ..
  · exact execPhdel_safe hs ..
  · exact execPhacc_safe hs ..
  · exact execPhdrn_safe hs ..
  · exact execPhfree_safe hs ..
  · exact execPopen_safe hs ..
  · exact execPsend_safe hs ..
  · exact execPrecv_safe hs ..
  · exact execMcast_safe hs ..
  · exact execSendt_safe hs ..
  · exact execRwin_safe hs ..
  · exact execPstat_safe hs ..
  · exact execRegisterWritePerformed_safe hs ..
  · exact execPauseExpiry_safe hs ..
  · exact execHelperStops_safe hs ..
  · exact execDispatch_safe hs ..
  · exact execRemoteAccess_safe hs ..
  · exact execRetryResend_safe hs ..
  · exact execDieFenced_safe hs ..
  · exact execDeferredUncorrectable_safe hs ..
  · exact execWalk_safe hs ..
  · exact execTlbinvCompletion_safe hs ..
  · exact execSlotLands_safe hs ..
  · exact execStreamFetch_safe hs ..
  · exact execCommandStart_safe hs ..
  · exact execCommandCompletion_safe hs ..
  · exact execFirmwarePath_safe hs ..
  · exact execArrival_safe hs ..
  · exact execExpectReachesRoot_safe hs ..
  · exact execCompletionBroadcast_safe hs ..
  · exact execPulse_safe hs ..
  · exact execHeldHelperStart_safe hs ..
  · exact execProbe_safe hs ..
  · exact execProbeReceived_safe hs ..
  · exact execTakePresentedAgain_safe hs ..
  · exact execMatrixResidueFault_safe hs ..
  · exact execPick_safe hs ..
  · exact execRePickPass_safe hs ..
  · exact execWeaveEnd_safe hs ..
  · exact execPortWordArrival_safe hs ..
  · exact execClosingMarker_safe hs ..
  · exact execAbortCloseFlit_safe hs ..
  · exact execSendAllowance_safe hs ..
  · exact execReclaimMessage_safe hs ..
  · exact execMcastHop_safe hs ..
  · exact execTeardownCompletes_safe hs ..
  · exact execCounterOverflow_safe hs ..
  · exact execAccessPerformed_safe hs ..
  · exact execIcinvCompletion_safe hs ..
  · exact execRouterArbitration_safe hs ..
  · exact execUndefinedInstruction_safe hs
  · exact execCoreFree_safe hs
  · exact execCoreSave_safe hs
  · exact execLandingSetDrainBound_safe hs
  · exact execRestore_safe hs
  · exact execHostWrite_safe hs
  · exact execHostRead_safe hs
  · exact execArbiterStep_safe hs
  · exact execMatrixCommandComplete_safe hs
  · exact execStationaryPairGrant_safe hs
  · exact execMswapTakesEffect_safe hs
  · exact execWeaveStart_safe hs
  · exact execLatchedTask_safe hs
  · exact execClusterReset_safe hs
  · exact execDoorbell_safe hs
  · exact execQbase_safe hs
  · exact execQsize_safe hs
  · exact execQhead_safe hs
  · exact execQueueEnable_safe hs
  · exact execQueueDisable_safe hs
  · exact execTeardown_safe hs
  · exact execRegisterWrite_safe hs
  · exact execElbase_safe hs
  · exact execLost_safe hs
  · exact execTrdrop_safe hs
  · exact execDebugClaim_safe hs
  · exact execDebugRelease_safe hs
  · exact execStop_safe hs
  · exact execResume_safe hs
  · exact execStep_safe hs
  · exact execKill_safe hs
  · exact execDbgdataRead_safe hs
  · exact execDbgdataWrite_safe hs
  · exact execCntcfg_safe hs
  · exact execTestSlice_safe hs
  · exact execTestSliceEnd_safe hs
  · exact execPtmExchange_safe hs
  · exact execGetMeasurements_safe hs
  · exact execVendorDefinedRequest_safe hs
  · exact execPwrctl_safe hs
  · exact execPwrst_safe hs
  · exact execThrottleWindow_safe hs
  · exact execTrip_safe hs
  · exact execColdReset_safe hs
  · exact execFunctionLevelReset_safe hs
  · exact execD3hot_safe hs
  · exact execD0_safe hs
  · exact execD3cold_safe hs
  · exact execLuralPortDown_safe hs
  · exact execPeerDeviceAccess_safe hs
  · exact execHostAtomicop_safe hs
  · exact execHostLinkDown_safe hs
  · exact execSpdmRequest_safe hs
  · exact execConfigurationSpaceAccess_safe hs

/-! ## What other cores do -/

theorem State.peerActs_safe {s : State} (hs : Safe s) (pos : Nat) (f : Cluster → Cluster) : Safe (State.peerActs s pos f) := by
  unfold State.peerActs
  split <;> exact hs

theorem State.peerGang_safe {s : State} (hs : Safe s) (pos : Nat) (n : Nat) : Safe (State.peerGang s pos n) := by
  unfold State.peerGang
  dsimp only
  repeat' split
  all_goals exact hs

theorem State.peerLoom_safe {s : State} (hs : Safe s) (pos : Nat) (n : Nat) : Safe (State.peerLoom s pos n) := by
  unfold State.peerLoom
  dsimp only
  repeat' split
  all_goals exact hs

theorem State.loomArms_safe {s : State} (hs : Safe s) (pos : Nat) : Safe (State.loomArms s pos) := by
  unfold State.loomArms
  split <;> exact hs

theorem State.peerSaved_safe {s : State} (hs : Safe s) (pos : Nat) (cycles : Nat) : Safe (State.peerSaved s pos cycles) := by
  unfold State.peerSaved
  split <;> exact hs

theorem State.peerTable_safe {s : State} (hs : Safe s) (core : BitVec 12) (t : PhTable) : Safe (State.peerTable s core t) := by
  unfold State.peerTable
  dsimp only
  split
  · exact hs
  · split
    · exact hs
    · rename_i e
      exact State.emptySpills_safe (State.emptyHomes_safe (Safe.of_fst e (State.spillPlaces_safe hs ..)) ..) ..

theorem State.peerFrees_safe {s : State} (hs : Safe s) (core : BitVec 12) (base : Nat) : Safe (State.peerFrees s core base) := by
  unfold State.peerFrees
  split <;> exact hs

theorem State.peerStores_safe {s : State} (hs : Safe s) (core : BitVec 12) (key : Nat) (data : List Byte) : Safe (State.peerStores s core key data) := by
  unfold State.peerStores
  dsimp only
  split
  · exact State.wake_safe (State.poke_safe hs ..)
  · exact hs

theorem State.peerAtomic_safe {s : State} (hs : Safe s) (core : BitVec 12) (key : Nat) (op : AtomicOp) (t : AtomicTy) (b : Word) :
    Safe (State.peerAtomic s core key op t b) := by
  unfold State.peerAtomic
  dsimp only
  split <;> exact hs

theorem State.peerPuts_safe {s : State} (hs : Safe s) (core : BitVec 12) (ctx : Fin 11) (key : Nat) (v : Word) : Safe (State.peerPuts s core ctx key v) := by
  unfold State.peerPuts
  split
  · exact State.wake_safe (State.fputAt_safe hs ..)
  · exact hs

theorem State.peerInits_safe {s : State} (hs : Safe s) (core : BitVec 12) (key : Nat) (v : Word) (full : Bool) : Safe (State.peerInits s core key v full) := by
  unfold State.peerInits
  split
  · exact State.wake_safe (State.finitAt_safe hs ..)
  · exact hs

theorem State.peerTakes_safe {s : State} (hs : Safe s) (core : BitVec 12) (ctx : Fin 11) (key : Nat) : Safe (State.peerTakes s core ctx key) := by
  unfold State.peerTakes
  repeat' split
  all_goals exact hs

theorem State.peerUntakes_safe {s : State} (hs : Safe s) (core : BitVec 12) (ctx : Fin 11) : Safe (State.peerUntakes s core ctx) := by
  unfold State.peerUntakes
  split <;> exact hs

theorem State.peerRange_safe {s : State} (hs : Safe s) (core : BitVec 12) (ctx : Fin 11) : Safe (State.peerRange s core ctx) := by
  unfold State.peerRange
  split <;> exact hs

theorem State.peerDeparts_safe {s : State} (hs : Safe s) (core : BitVec 12) : Safe (State.peerDeparts s core) := by
  unfold State.peerDeparts
  split
  · split
    · exact State.noteArrival_safe hs ..
    · exact hs
  · exact hs

theorem State.peerAsks_safe {s : State} (hs : Safe s) (port : BitVec 2) (core : BitVec 12) (f : List (BitVec 12 × Fin 11) → List (BitVec 12 × Fin 11)) :
    Safe (State.peerAsks s port core f) := by
  unfold State.peerAsks
  split <;> exact hs

theorem State.peerMcast_safe {s : State} (hs : Safe s) (core : BitVec 12) (ctx : Fin 11) (id : BitVec 16) (group : Option (BitVec 5)) (doff : Nat)
    (data : List Byte) :
    Safe (State.peerMcast s core ctx id group doff data) := by
  unfold State.peerMcast
  split
  · exact State.wake_safe (State.mcastStore_safe hs ..)
  · exact hs

theorem State.peerOwns_safe {s : State} (hs : Safe s) (taken : Bool) : Safe (State.peerOwns s taken) := by
  unfold State.peerOwns
  split
  · exact hs
  · dsimp only
    split
    · exact hs
    · exact hs

theorem State.peerWarp_safe {s : State} (hs : Safe s) (lpos : Nat) (id : BitVec 16) (src : Word) : Safe (State.peerWarp s lpos id src) := by
  unfold State.peerWarp
  split <;> exact hs

theorem State.peerBoard_safe {s : State} (hs : Safe s) (pos : Nat) (op : BoardOp) : Safe (State.peerBoard s pos op) := by
  unfold State.peerBoard
  dsimp only
  split
  · exact hs
  · split
    · exact hs
    · split
      · exact hs
      · exact State.boardOp_safe (by exact hs) ..

theorem State.peerPortEnds_safe {s : State} (hs : Safe s) (core : BitVec 12) (port : BitVec 2) : Safe (State.peerPortEnds s core port) := by
  unfold State.peerPortEnds
  split <;> exact hs

theorem State.sampleCtx_safe {s : State} (hs : Safe s) (n : Fin 11) : Safe (State.sampleCtx s n) := by
  unfold State.sampleCtx
  split
  · exact State.trace_safe hs ..
  · exact hs

theorem State.refuseValue_safe {s : State} (hs : Safe s) (a : Acc) (wseq : Nat) :
    Safe (State.refuseValue s a wseq) := State.modCtxAt_safe (State.fill_safe hs ..) ..

theorem State.refuseOp_safe {s : State} (hs : Safe s) (a : Acc) : Safe (State.refuseOp s a) := by
  unfold State.refuseOp
  split
  · exact State.refuseValue_safe hs ..
  · exact State.refuseValue_safe hs ..
  · exact State.refuseValue_safe hs ..
  · exact hs
  · exact hs

theorem State.peerRefuses_safe {s : State} (hs : Safe s) (seq : Nat) : Safe (State.peerRefuses s seq) := by
  unfold State.peerRefuses
  split
  · split
    · exact State.wake_safe (State.dropAcc_safe (State.refuseOp_safe (State.logEntry_safe hs ..) ..) ..)
    · exact hs
  · exact hs

theorem State.peerRefusesCmd_safe {s : State} (hs : Safe s) (q : Fin 5) (a : Word) : Safe (State.peerRefusesCmd s q a) := by
  unfold State.peerRefusesCmd
  split
  · split
    · exact State.engineNext_safe (State.modHead_safe (State.unitViolation_safe hs ..) ..) ..
    · exact hs
  · exact hs

theorem State.otherActs_safe {s : State} (hs : Safe s) (y1 : OtherAct) : Safe (State.otherActs s y1) := by
  unfold State.otherActs
  split
  · exact State.peerGang_safe hs ..
  · exact State.peerLoom_safe hs ..
  · exact State.loomArms_safe hs ..
  · exact State.peerActs_safe hs ..
  · exact State.peerTable_safe hs ..
  · exact State.peerFrees_safe hs ..
  · exact State.peerSaved_safe hs ..
  · exact State.peerStores_safe hs ..
  · exact State.peerPuts_safe hs ..
  · exact State.peerInits_safe hs ..
  · exact State.peerTakes_safe hs ..
  · exact State.peerUntakes_safe hs ..
  · exact hs
  · exact State.peerRange_safe hs ..
  · exact State.peerDeparts_safe hs ..
  · split
    · exact hs
    · exact hs
  · split
    · exact hs
    · exact hs
  · exact State.drainOutside_safe hs
  · exact State.peerOwns_safe hs ..
  · exact State.peerOwns_safe hs ..
  · exact State.peerWarp_safe hs ..
  · exact State.logEntry_safe hs ..
  · exact State.peerAsks_safe hs ..
  · exact State.peerAsks_safe hs ..
  · exact State.peerMcast_safe hs ..
  · split
    · exact hs
    · exact hs
  · exact hs
  · exact hs
  · split
    · exact hs
    · exact hs
  · split
    · exact State.deadlockTrap_safe hs ..
    · exact hs
  · exact State.peerRefuses_safe hs ..
  · exact State.peerRefusesCmd_safe hs ..
  · exact State.peerAtomic_safe hs ..
  · exact hs
  · exact State.peerPortEnds_safe hs ..
  · exact State.peerBoard_safe hs ..
  · exact State.sampleCtx_safe hs ..
  · exact hs
  · exact hs

theorem State.readEarly_safe {s : State} (hs : Safe s) (n : Fin 11) (key : Nat) (len : Nat) : Safe (State.readEarly s n key len) := by
  unfold State.readEarly
  split <;> exact hs

theorem State.readAt_safe {s : State} (hs : Safe s) (e : Early) (a : Acc) : Safe (State.readAt s e a) := hs

theorem State.loadStale_safe {s : State} (hs : Safe s) (seq : Nat) : Safe (State.loadStale s seq) := by
  unfold State.loadStale
  split
  · split
    · split
      · exact State.wake_safe (State.reportBad_safe (State.readAt_safe (State.fill_safe hs ..) ..) ..)
      · exact hs
    · exact hs
  · exact hs

theorem State.freeTurn_safe {s : State} (hs : Safe s) (y1 : Turn) : Safe (State.freeTurn s y1) := by
  unfold State.freeTurn
  split
  · exact State.otherActs_safe hs ..
  · exact State.readEarly_safe hs ..
  · exact State.loadStale_safe hs ..
  · exact State.pullPiece_safe hs ..
  · exact State.drainStore_safe hs ..
  · exact State.delayStores_safe hs ..
  · exact State.deferUnit_safe hs ..
  · exact State.redoUnit_safe hs ..
  · exact State.fetchOne_safe hs ..
  · exact State.bringUpStep_safe hs
  · exact hs
  · exact hs
  · exact hs

/-! ## One step -/

/-- What a context is about to do starts from a state whose memory is canonical. -/
def Next.Safe : Next → Prop
  | .done t => Sys2Proof.Safe t
  | .run _ t => Sys2Proof.Safe t

theorem State.fetchNext_safe {s : State} (hs : Safe s) : Next.Safe s.fetchNext := by
  have fetched := State.fetchAt_safe hs s.pc
  unfold State.fetchNext
  split
  next t f e =>
    rw [e] at fetched
    exact State.trapFetch_safe fetched ..
  next t bs e =>
    rw [e] at fetched
    split
    · exact fetched
    · exact fetched

theorem State.attend_safe {s : State} (hs : Safe s) (n : Fin 11) : Next.Safe (s.attend n) := by
  have resumed := State.resume_safe hs n
  unfold State.attend
  dsimp only
  split
  · split
    · exact resumed
    · split
      · exact State.fetchNext_safe resumed
      · exact resumed
  · split
    next u e => exact State.dueTrap_safe resumed e
    next => exact State.resumeFrame_safe (by exact resumed)

theorem State.select_safe {s : State} (hs : Safe s) (n : Fin 11) : Next.Safe (s.select n) := by
  have begun := State.begin_safe hs n
  unfold State.select
  dsimp only
  split
  · exact State.fetchNext_safe begun
  · exact begun

theorem serve_safe {s : State} (hs : Safe s) (ns : List (Fin 11)) : Outcome.Safe (serve s ns) := by
  induction ns generalizing s with
  | nil => exact hs
  | cons n ns ih =>
    have attended := State.attend_safe hs n
    unfold serve
    split
    · rcases e : s.attend n with ⟨i, t⟩ | t <;> rw [e] at attended
      · have ran := exec_safe attended i
        dsimp only
        rcases r : exec i t with u | f | q <;> rw [r] at ran
        · refine ih ?_
          split
          · exact hs
          · exact State.keep_safe (State.withGang_safe attended ran) i
        · trivial
        · trivial
      · exact ih attended
    · exact ih hs

theorem issueFrom_safe {s : State} (hs : Safe s) (ns : List (Fin 11)) : Outcome.Safe (issueFrom s ns) := by
  induction ns with
  | nil => exact hs
  | cons n ns ih =>
    have selected := State.select_safe hs n
    unfold issueFrom
    split
    · rcases e : s.select n with ⟨i, t⟩ | t <;> rw [e] at selected
      · have ran := exec_safe selected i
        dsimp only
        rcases r : exec i t with u | f | q <;> rw [r] at ran
        · dsimp only
          split
          · exact ih
          · exact State.count_safe (State.keep_safe (State.withGang_safe selected ran) i) 1
        · trivial
        · trivial
      · exact State.endStep_safe (State.dropStop_safe selected) n
    · exact ih

theorem cycleStep_safe {s : State} (hs : Safe s) : Outcome.Safe (cycleStep s) := by
  have issued := issueFrom_safe (State.tick_safe hs) s.tick.order
  unfold cycleStep
  rcases e : issueFrom s.tick s.tick.order with t | f | q <;> rw [e] at issued
  · have served := serve_safe issued (s.tick.order.filter s.tick.attends)
    dsimp only
    rcases r : serve t (s.tick.order.filter s.tick.attends) with u | f | q <;> rw [r] at served
    · exact State.countCycle_safe served
    · trivial
    · trivial
  · trivial
  · trivial

theorem eventStep_safe {s : State} (hs : Safe s) (k : Nat) : Outcome.Safe (eventStep s k) := by
  unfold eventStep
  split
  · exact exec_safe (by exact hs) ..
  · exact hs

theorem step_safe {s : State} (hs : Safe s) : Outcome.Safe (step s) := by
  unfold step
  split
  · split
    · exact exec_safe (by exact hs) ..
    · trivial
  · split
    · exact eventStep_safe (by exact hs) ..
    · exact cycleStep_safe (by exact hs)
    · split
      · exact State.countCycle_safe (State.tick_safe (by exact hs))
      · exact cycleStep_safe (by exact hs)
    · exact State.freeTurn_safe (by exact hs) ..
    · exact eventStep_safe hs ..
    · exact cycleStep_safe hs

end Sys2Proof.Machine
end

section
/-! PROOF. Every step keeps memory in its canonical form. -/

namespace Sys2Proof.Machine

open Sys2Proof

/-- Settles O59, by a lemma for each operation of the model: what an operation gives keeps memory canonical when what it starts from does. -/
theorem everyStepKeepsMemoryCanonical : Obligations.EveryStepKeepsMemoryCanonical := by
  unfold Obligations.EveryStepKeepsMemoryCanonical
  intro s t safe run
  have kept := step_safe safe
  rw [run] at kept
  exact kept

end Sys2Proof.Machine
end

section
/-! SUPPORT. CORE_SAVE (R153): what it waits for, and what it holds. -/

namespace Sys2Proof.Machine

open Sys2Proof

/-- Something of vectors that holds of a place holds of some element. -/
theorem any_toList_of_get {α : Type} {n : Nat} {v : Vector α n} {p : α → Bool} (k : Fin n) (h : p (v.get k) = true) : v.toList.any p = true :=
  List.any_eq_true.2 ⟨v.get k, by simp [Vector.get], h⟩

theorem any_toList_false {α : Type} {n : Nat} {v : Vector α n} {p : α → Bool} (h : ∀ k, p (v.get k) = false) : v.toList.any p = false := by
  refine List.any_eq_false.2 fun x hx => ?_
  obtain ⟨k, small, rfl⟩ := List.mem_iff_getElem.1 hx
  have at_k := h ⟨k, by simpa using small⟩
  simpa [Vector.get] using at_k

theorem any_toList_iff {α : Type} {n : Nat} {v : Vector α n} {p : α → Bool} : v.toList.any p = true ↔ ∃ k, p (v.get k) = true := by
  constructor
  · intro h
    by_contra none
    rw [any_toList_false fun k => by simpa using fun yes => none ⟨k, yes⟩] at h
    cases h
  · rintro ⟨k, h⟩
    exact any_toList_of_get k h

theorem State.coreSave_nothing {s : State}
    (off : s.job.running = false ∨ s.job.evicted = false ∨ s.job.ended = true ∨ s.job.stopping = true ∨ s.saveWaits = true) : exec .coreSave s = .next s := by
  have run : exec .coreSave s = execCoreSave s := rfl
  rw [execCoreSave, if_pos off] at run
  exact run

/-- Anything of a save's list keeps it waiting (R153). -/
theorem State.saveWaits_of {s : State}
    (busy : (∃ a ∈ s.accs, (∃ d, a.op = .store d) ∧ a.retry = none) ∨ s.core.mcasts ≠ [] ∨ (∃ k, ∃ c ∈ (s.core.chans.get k).cmds, c.started = true) ∨
      s.core.unit ≠ [] ∨ ∃ y ∈ s.halves, s.within .core y.key = true) : s.saveWaits = true := by
  unfold State.saveWaits
  rcases busy with ⟨a, ha, ⟨d, op⟩, retry⟩ | mcasts | ⟨k, c, hc, started⟩ | unit | ⟨y, hy, mine⟩
  · have waits : (s.accs.any fun a => !a.op.isTagged && a.retry.isNone) = true := List.any_eq_true.2 ⟨a, ha, by rw [op, retry]; rfl⟩
    rw [waits]
    simp only [Bool.or_true, Bool.true_or]
  · have waits : (!s.core.mcasts.isEmpty) = true := by simpa using mcasts
    rw [waits]
    simp only [Bool.or_true, Bool.true_or]
  · have waits : (s.core.chans.toList.any fun q => q.cmds.any (·.started)) = true := any_toList_of_get k (List.any_eq_true.2 ⟨c, hc, started⟩)
    rw [waits]
    simp only [Bool.or_true, Bool.true_or]
  · have waits : (!s.core.unit.isEmpty) = true := by simpa using unit
    rw [waits]
    simp only [Bool.or_true, Bool.true_or]
  · have waits : (s.halves.any fun h => s.within .core h.key) = true := List.any_eq_true.2 ⟨y, hy, mine⟩
    rw [waits]
    simp only [Bool.or_true, Bool.true_or]

/-- A save need not wait: every live context is at a boundary, and nothing is under way but tagged loads and accesses to be sent again. -/
structure State.saveQuiet (s : State) : Prop where
  ctxs : ∀ m, (s.ctxAt m).live = true → (s.ctxAt m).mustRun = false ∧ (s.ctxAt m).ending = false
  accs : ∀ a ∈ s.accs, (∃ t, a.op = .tagged t) ∨ a.retry ≠ none
  cmds : ∀ k, ∀ c ∈ (s.core.chans.get k).cmds, c.started = false
  matrix : s.core.matrix.queue = []
  mcasts : s.core.mcasts = []
  routes : ∀ k, (s.core.ports.get k).state ≠ .route
  unit : s.core.unit = []
  halves : ∀ y ∈ s.halves, s.within .core y.key = false

theorem Ctx.mustRun_false {c : Ctx} (send : c.send.sst ≠ 2) (trap : c.trapping = none) (ph : c.ph = none) (wait : ∀ w, c.wait = some w → w.delivered = none) :
    c.mustRun = false := by
  unfold Ctx.mustRun
  rw [trap, ph, decide_eq_false send]
  cases e : c.wait with
  | none => rfl
  | some w =>
    have empty := wait w e
    simp [empty]

theorem State.saveQuiet.waits {s : State} (quiet : s.saveQuiet) : s.saveWaits = false := by
  have ctxs : (s.ctxs.toList.any fun c => c.live && (c.mustRun || c.ending)) = false := by
    refine any_toList_false fun m => ?_
    cases live : (s.ctxs.get m).live with
    | false => rfl
    | true =>
      obtain ⟨must, ending⟩ := quiet.ctxs m live
      rw [show (s.ctxs.get m).mustRun = false from must, show (s.ctxs.get m).ending = false from ending]
      rfl
  have accs : (s.accs.any fun a => !a.op.isTagged && a.retry.isNone) = false := by
    refine List.any_eq_false.2 fun a ha => ?_
    rcases quiet.accs a ha with ⟨t, op⟩ | retry
    · rw [op]
      exact Bool.false_ne_true
    · cases e : a.retry with
      | none => exact absurd e retry
      | some r => simp
  have cmds : (s.core.chans.toList.any fun q => q.cmds.any (·.started)) = false :=
    any_toList_false fun k => List.any_eq_false.2 fun c hc => by rw [quiet.cmds k c hc]; exact Bool.false_ne_true
  have routes : (s.core.ports.toList.any fun p => decide (p.state = .route)) = false := any_toList_false fun k => decide_eq_false (quiet.routes k)
  have halves : (s.halves.any fun h => s.within .core h.key) = false := List.any_eq_false.2 fun y hy => by rw [quiet.halves y hy]; exact Bool.false_ne_true
  unfold State.saveWaits
  rw [ctxs, accs, cmds, routes, halves, quiet.matrix, quiet.mcasts, quiet.unit]
  rfl

theorem State.landing_iff {s : State} : s.landing = true ↔ ¬ ∀ m k, ((s.ctxAt m).slots.get k).state ≠ .pending := by
  unfold State.landing
  rw [any_toList_iff]
  push Not
  refine exists_congr fun m => ?_
  rw [List.any_eq_true]
  constructor
  · rintro ⟨t, -, pending⟩
    exact ⟨t.toFin, of_decide_eq_true pending⟩
  · rintro ⟨k, pending⟩
    exact ⟨BitVec.ofFin k, mem_allTags _, decide_eq_true pending⟩

/-- What holds before a list is gone through holds after it, when each of its elements keeps it. -/
theorem foldl_keeps_of_mem {α β : Type} (P : α → Prop) (f : α → β → α) (l : List β) (hf : ∀ b ∈ l, ∀ a, P a → P (f a b)) {a : α} (h : P a) : P (l.foldl f a) := by
  induction l generalizing a with
  | nil => exact h
  | cons b l ih => exact ih (fun c hc => hf c (List.mem_cons_of_mem _ hc)) (hf b List.mem_cons_self a h)

/-- Bytes outside the job's save claims and its save region stay (R153). -/
theorem State.fillSaveArea_byte {s : State} {q : Nat}
    (claims : ∀ k ∈ s.job.claims, k.kind = .save → ∀ c ∈ s.job.cores, q < scratchKey c.toNat k.off ∨ scratchKey c.toNat k.off + k.bytes ≤ q)
    (region : q < hbmKey s.job.save.toNat ∨ hbmKey s.job.save.toNat + s.job.saveLen ≤ q) : Memory.byte s.fillSaveArea.mem q = Memory.byte s.mem q := by
  unfold State.fillSaveArea
  dsimp only
  rw [Memory.byte_write, if_neg (by rw [List.length_map, List.length_range]; omega)]
  refine foldl_keeps_of_mem (fun m => Memory.byte m q = Memory.byte s.mem q) _ _ (fun c hc m hm => ?_) rfl
  refine foldl_keeps_of_mem (fun m => Memory.byte m q = Memory.byte s.mem q) _ _ (fun k hk m hm => ?_) hm
  obtain ⟨claimed, kind⟩ := List.mem_filter.1 hk
  have apart := claims k claimed (of_decide_eq_true kind) c hc
  rw [Memory.byte_write, if_neg (by rw [List.length_map, List.length_range]; omega)]
  exact hm

theorem State.fillSaveArea_only (s : State) : ∃ m, s.fillSaveArea = { s with mem := m } := ⟨_, rfl⟩

theorem State.drainOutside_none {s : State} (kept : s.core.matrix.kept = none) : s.drainOutside = s := by
  unfold State.drainOutside
  rw [kept]
  rfl

/-- The save of a core, once nothing that it waits for is outstanding (R153). -/
theorem State.exec_coreSave {s : State} (running : s.job.running = true) (evicted : s.job.evicted = true) (ended : s.job.ended = false)
    (stopping : s.job.stopping = false) (quiet : s.saveQuiet) (drained : s.landing = false ∨ s.core.drained = true) (kept : s.core.matrix.kept = none) :
    ∃ m, s.fillSaveArea = { s with mem := m } ∧ exec .coreSave s = .next
      { ({ s with mem := m } : State).idle with
        job := Job.none, evicted := s.evicted ++ [({ s with mem := m } : State).savedJob], agenda := ({ s with mem := m } : State).idle.agenda ++ [.restore] } := by
  obtain ⟨m, filled⟩ := s.fillSaveArea_only
  refine ⟨m, filled, ?_⟩
  have run : exec .coreSave s = execCoreSave s := rfl
  rw [execCoreSave, if_neg (by
    rintro (off | off | off | off | off)
    · rw [running] at off; cases off
    · rw [evicted] at off; cases off
    · rw [ended] at off; cases off
    · rw [stopping] at off; cases off
    · rw [quiet.waits] at off; cases off), if_neg (by
    rintro ⟨landing, open_⟩
    rcases drained with h | h
    · rw [h] at landing; cases landing
    · rw [h] at open_; cases open_), State.drainOutside_none kept, filled] at run
  exact run

/-- The landing set is drained first (R227). -/
theorem State.exec_coreSave_lands {s : State} (running : s.job.running = true) (evicted : s.job.evicted = true) (ended : s.job.ended = false)
    (stopping : s.job.stopping = false) (quiet : s.saveQuiet) (landing : s.landing = true) (drained : s.core.drained = false)
    (new : .landingSetDrainBound ∉ s.agenda) : exec .coreSave s = .next { s with agenda := s.agenda ++ [.landingSetDrainBound] } := by
  have run : exec .coreSave s = execCoreSave s := rfl
  rw [execCoreSave, if_neg (by
    rintro (off | off | off | off | off)
    · rw [running] at off; cases off
    · rw [evicted] at off; cases off
    · rw [ended] at off; cases off
    · rw [stopping] at off; cases off
    · rw [quiet.waits] at off; cases off), if_pos ⟨landing, drained⟩, if_neg new] at run
  exact run

/-- A context without an outstanding write is saved with its registers, loops, record and landing set; a waiting instruction, a pause and the words of a
frame are dropped (R61, R151, R152). -/
theorem Ctx.saved_parts {c : Ctx} (writes : c.writes = []) :
    c.saved = { c with
      wait := none, icinv := none, nextIssue := (if c.paused then 0 else c.nextIssue), paused := false, refetch := (c.refetch || !c.frame.isEmpty),
      frame := [] } := by
  unfold Ctx.saved
  rw [Ctx.performAll_none (by rw [writes]; exact fun _ h => absurd h List.not_mem_nil)]

end Sys2Proof.Machine
end

section
/-! SUPPORT. RESTORE (R155, R228, R345): whom it puts back, and what comes back. -/

namespace Sys2Proof.Machine

open Sys2Proof

theorem State.restorable_iff {s : State} {x : Saved} :
    s.restorable x = true ↔ s.savedHead (jobQueue x.job.jobid) = some (x.job, true) ∧ s.victimsBack x.job ≠ none ∧ s.dev.power = .d0 ∧
      s.outranked (savedAsHead x.job (jobQueue x.job.jobid)) = false := by
  unfold State.restorable
  dsimp only
  rw [Bool.and_eq_true, Bool.and_eq_true, Bool.and_eq_true, decide_eq_true_iff, decide_eq_true_iff, Option.isSome_iff_ne_none, and_assoc, and_assoc,
    Bool.not_eq_true']

/-- The job put back is one of the list, and none of the list comes before it (R155). -/
theorem nextRestored_best : ∀ {xs : List Saved} {x : Saved}, nextRestored xs = some x →
    x ∈ xs ∧ ∀ y ∈ xs, rankOf y.job.prio.toNat (jobQueue y.job.jobid) ≤ rankOf x.job.prio.toNat (jobQueue x.job.jobid)
  | [], _, e => by cases e
  | z :: zs, x, e => by
    unfold nextRestored at e
    cases r : nextRestored zs with
    | none =>
      rw [r] at e
      cases e
      have empty : zs = [] := by
        cases zs with
        | nil => rfl
        | cons y ys =>
          unfold nextRestored at r
          split at r
          · cases r
          · split at r <;> cases r
      subst empty
      exact ⟨List.mem_singleton_self _, fun y hy => by rw [List.mem_singleton.1 hy]⟩
    | some w =>
      obtain ⟨mem, best⟩ := nextRestored_best r
      rw [r] at e
      dsimp only at e
      split at e
      next ahead =>
        cases e
        exact ⟨List.mem_cons_self, fun y hy => (List.mem_cons.1 hy).elim (fun h => by rw [h]) fun h => (best y h).trans ahead⟩
      next behind =>
        cases e
        exact ⟨List.mem_cons_of_mem _ mem, fun y hy => (List.mem_cons.1 hy).elim (fun h => by rw [h]; exact (Nat.lt_of_not_le behind).le) fun h => best y h⟩

theorem prio_of_rank {a b qa qb : Nat} (h : rankOf a qa ≤ rankOf b qb) : a ≤ b := by
  unfold rankOf at h
  omega

theorem State.exec_restore_none {s : State} (none_ : nextRestored (s.evicted.filter s.restorable) = none) : exec .restore s = .next s := by
  have run : exec .restore s = execRestore s := rfl
  rw [execRestore, none_] at run
  exact run

theorem State.exec_restore_evicts {s : State} {x : Saved} {h : Holder} {hs : List Holder} (next : nextRestored (s.evicted.filter s.restorable) = some x)
    (victims : s.victimsBack x.job = some (h :: hs)) : exec .restore s = .next (s.evict (h :: hs)) := by
  have run : exec .restore s = execRestore s := rfl
  rw [execRestore, next] at run
  dsimp only at run
  rw [victims] at run
  exact run

theorem State.exec_restore {s : State} {x : Saved} (next : nextRestored (s.evicted.filter s.restorable) = some x)
    (victims : s.victimsBack x.job = some []) :
    exec .restore s = .next (if s.job.running then s else ({ s with dev := s.dev.dropSlices x.job.cores } : State).restored x) := by
  have run : exec .restore s = execRestore s := rfl
  rw [execRestore, next] at run
  dsimp only at run
  rw [victims] at run
  exact run

/-- Victims on other cores are saved whole, and the core's own job is chosen for eviction (R152). -/
theorem State.evict_does (s : State) (v : List Holder) :
    { s.evict v with dev := s.dev, job := s.job, agenda := s.agenda } = s ∧
      (∀ j ∈ s.dev.jobs, j.saved = false → (∃ y ∈ v, y.ours = false ∧ y.jobid = j.job.jobid) →
        { j with saved := true, scratch := s.mem.filter fun c => inScratch j.job.cores c.1 } ∈ (s.evict v).dev.jobs) ∧
      ((∃ y ∈ v, y.ours = true) → (s.evict v).job.evicted = true) := by
  have jobs : (s.evict v).dev.jobs = s.dev.jobs.map fun j : OtherJob =>
      if !j.saved && (v.any fun h => !h.ours && decide (h.jobid = j.job.jobid)) then j.save s.mem else j := by
    unfold State.evict
    dsimp only
    split <;> rfl
  refine ⟨?_, fun j hj kept ⟨y, hy, other, id⟩ => ?_, fun ⟨y, hy, ours⟩ => ?_⟩
  · unfold State.evict
    dsimp only
    split <;> rfl
  · rw [jobs]
    refine List.mem_map.2 ⟨j, hj, ?_⟩
    have hit : (v.any fun h => !h.ours && decide (h.jobid = j.job.jobid)) = true :=
      List.any_eq_true.2 ⟨y, hy, by rw [other, decide_eq_true id]; rfl⟩
    rw [kept, hit]
    rfl
  · have any : v.any (·.ours) = true := List.any_eq_true.2 ⟨y, hy, ours⟩
    unfold State.evict
    dsimp only
    cases e : s.job.evicted with
    | false =>
      rw [if_pos ⟨any, rfl⟩]
      rfl
    | true =>
      rw [if_neg (by rintro ⟨-, off⟩; cases off)]
      exact e

theorem Sparse.key_notMem {α : Type} [DecidableEq α] {d : α} : ∀ {m : List (Nat × α)} {b k : Nat}, Sparse.wfFrom d b m = true → k < b → k ∉ m.map Prod.fst
  | [], _, _, _, _ => List.not_mem_nil
  | c :: m, b, k, w, low => by
    obtain ⟨above, -, rest⟩ := Sparse.wfFrom_cons.1 w
    rw [List.map_cons, List.mem_cons]
    rintro (h | h)
    · omega
    · exact Sparse.key_notMem rest (by omega) h

/-- The bytes of cells in canonical form lie over those that were there. -/
theorem Memory.byte_writeCells : ∀ {cs : List Host.Cell} {b : Nat}, Sparse.wfFrom Memory.unlisted b cs = true → ∀ (m : List Host.Cell) (k : Nat),
    Memory.byte (Memory.writeCells cs m) k = if k ∈ cs.map Prod.fst then Memory.byte cs k else Memory.byte m k
  | [], _, _, m, k => rfl
  | (a, v) :: cs, b, w, m, k => by
    obtain ⟨-, -, rest⟩ := Sparse.wfFrom_cons.1 w
    rw [Memory.writeCells, Memory.byte_writeCells rest]
    by_cases here : a = k
    · subst here
      rw [if_neg (Sparse.key_notMem rest (Nat.lt_succ_self a)), if_pos (by simp), Memory.byte_setByte, if_pos rfl]
      unfold Memory.byte Sparse.get
      rw [if_pos rfl]
    · have elsewhere : Memory.byte ((a, v) :: cs) k = Memory.byte cs k := by
        unfold Memory.byte
        rw [Sparse.get, if_neg here]
      rw [Memory.byte_setByte, if_neg (Ne.symm here), elsewhere]
      refine if_congr ?_ rfl rfl
      rw [List.map_cons, List.mem_cons]
      exact ⟨Or.inr, fun h => h.resolve_left (Ne.symm here)⟩

theorem Sparse.get_notMem {α : Type} {d : α} {m : List (Nat × α)} {k : Nat} (absent : k ∉ m.map Prod.fst) : Sparse.get d m k = d := by
  induction m with
  | nil => rfl
  | cons c m ih =>
    rw [List.map_cons, List.mem_cons] at absent
    push Not at absent
    rw [Sparse.get, if_neg (Ne.symm absent.1), ih absent.2]

/-- The scratchpads of some cores as a saved job has them, and every other byte as it was (R155). -/
theorem Memory.byte_putBack {scratch : List Host.Cell} {cores : List (BitVec 12)} (wf : Memory.wf scratch = true)
    (inside : ∀ c ∈ scratch, inScratch cores c.1 = true) (m : List Host.Cell) (k : Nat) :
    Memory.byte (Memory.writeCells scratch (m.filter fun c => !inScratch cores c.1)) k
      = if inScratch cores k then Memory.byte scratch k else Memory.byte m k := by
  have filtered := Sparse.get_filter (d := Memory.unlisted) (fun k => !inScratch cores k) m k
  rw [Memory.byte_writeCells wf]
  cases mine : inScratch cores k with
  | true =>
    rw [if_pos rfl]
    split
    · rfl
    next absent =>
      unfold Memory.byte
      rw [filtered, mine, Sparse.get_notMem absent]
      rfl
  | false =>
    rw [if_neg (by
      intro h
      obtain ⟨c, hc, rfl⟩ := List.mem_map.1 h
      rw [inside c hc] at mine
      cases mine), if_neg Bool.false_ne_true]
    unfold Memory.byte
    rw [filtered, mine]
    rfl

/-- A context but for what its landing slots wait for (R215). -/
def Ctx.alike (c d : Ctx) : Prop := d = { c with slots := d.slots } ∧ ∀ k, (d.slots.get k).state = (c.slots.get k).state

theorem State.relaunchSlots_none {s : State} (none_ : ∀ k, ((s.ctxAt s.cur).slots.get k).state ≠ .pending) :
    s.relaunchSlots = s.modCtx fun c => { c with slots := mapVec (fun x : Slot => { x with taint := [] }) c.slots } := by
  have empty : (allTags.filter fun t => decide ((s.ctx.slot t).state = .pending)) = [] :=
    List.filter_eq_nil_iff.2 fun t _ h => none_ t.toFin (of_decide_eq_true h)
  unfold State.relaunchSlots
  dsimp only
  rw [empty]
  rfl

/-- With no slot pending nothing is loaded again: only the contexts' landing slots, and who issues, have been touched. -/
theorem State.relaunchAll_none {s : State} (none_ : ∀ m k, ((s.ctxAt m).slots.get k).state ≠ .pending) :
    s.relaunchAll = { s with ctxs := s.relaunchAll.ctxs } ∧ ∀ m, (s.ctxAt m).alike (s.relaunchAll.ctxAt m) := by
  have all : ∀ l : List (Fin 11), let t := l.foldl (fun t n => (t.focus n).relaunchSlots) s
      t = { s with ctxs := t.ctxs, cur := t.cur } ∧ ∀ m, (s.ctxAt m).alike (t.ctxAt m) := by
    intro l
    refine foldl_keeps (fun t : State => t = { s with ctxs := t.ctxs, cur := t.cur } ∧ ∀ m, (s.ctxAt m).alike (t.ctxAt m)) _ (fun t n ⟨only, alike⟩ => ?_) l
      ⟨rfl, fun m => ⟨rfl, fun _ => rfl⟩⟩
    have idle : ∀ k, (((t.focus n).ctxAt (t.focus n).cur).slots.get k).state ≠ .pending := fun k => by
      rw [show ((t.focus n).ctxAt (t.focus n).cur).slots = (t.ctxAt n).slots from rfl, (alike n).2 k]
      exact none_ n k
    rw [State.relaunchSlots_none idle]
    refine ⟨?_, fun m => ?_⟩
    · rw [only]
      rfl
    · by_cases here : m = n
      · subst here
        obtain ⟨same, states⟩ := alike m
        rw [show ((t.focus m).modCtx fun c => { c with slots := mapVec (fun x : Slot => { x with taint := [] }) c.slots }).ctxAt m
          = { t.ctxAt m with slots := mapVec (fun x : Slot => { x with taint := [] }) (t.ctxAt m).slots } from State.ctxAt_modCtx_self (t.focus m) _]
        refine ⟨?_, fun k => ?_⟩
        · generalize t.ctxAt m = d at same
          rw [same]
        · dsimp only
          rw [mapVec_get]
          exact states k
      · rw [State.ctxAt_modCtx_ne (t.focus n) _ here]
        exact alike m
  obtain ⟨only, alike⟩ := all (List.finRange 11)
  unfold State.relaunchAll
  generalize List.foldl _ _ _ = t at only alike ⊢
  refine ⟨?_, alike⟩
  obtain ⟨cs, n, rfl⟩ : ∃ cs n, t = { s with ctxs := cs, cur := n } := ⟨_, _, only⟩
  rfl

/-- What a restore puts back of a job without accesses or pending slots (R155, R228, R345). -/
theorem State.restored_parts {s : State} {x : Saved} (idle : ∀ m k, ((x.ctxs.get m).slots.get k).state ≠ .pending) :
    ∃ cs : Vector Ctx 11, (∀ m, (Ctx.restored s.cycle (x.ctxs.get m)).alike (cs.get m)) ∧
      let u := { (s.putBack x).retakePair x.owned with ctxs := cs }
      s.restored x = { u with agenda := u.agenda ++ u.core.matrix.next
        ++ ((List.finRange 5).filter fun q => !(u.core.chans.get q).cmds.isEmpty).map Instr.commandStart } := by
  have retaken : ((s.putBack x).retakePair x.owned).ctxs = mapVec (Ctx.restored s.cycle) x.ctxs := by
    unfold State.retakePair
    split <;> rfl
  obtain ⟨only, alike⟩ := State.relaunchAll_none (s := (s.putBack x).retakePair x.owned) fun m k => by
    rw [show ((s.putBack x).retakePair x.owned).ctxAt m = Ctx.restored s.cycle (x.ctxs.get m) from by
      rw [State.ctxAt, retaken, mapVec_get]]
    unfold Ctx.restored
    dsimp only
    rw [mapVec_get]
    exact idle m k
  refine ⟨((s.putBack x).retakePair x.owned).relaunchAll.ctxs, fun m => ?_, ?_⟩
  · have at_m := alike m
    rw [State.ctxAt, retaken, mapVec_get] at at_m
    exact at_m
  · exact congrArg (fun t : State => ({ t with agenda := t.agenda ++ t.core.matrix.next
      ++ ((List.finRange 5).filter fun q => !(t.core.chans.get q).cmds.isEmpty).map Instr.commandStart } : State)) only

end Sys2Proof.Machine
end

section
/-! SUPPORT. RETRY_RESEND (R154), and accesses of other cores (R154, R286, R376, R431). -/

namespace Sys2Proof.Machine

open Sys2Proof

/-- A store of a state with no hashed range and no daybook is performed. -/
theorem State.performAcc_stores {s : State} {a : Acc} {bs : List Byte} (op : a.op = .store bs) (hh : s.unhashed) (snap : s.core.snapshot = none)
    (clean : (s.ctxAt a.ctx).badLanes = []) :
    (s.performAcc a).accs = (s.accs.filter fun u => decide (u.seq ≠ a.seq)).map (fun u : Acc => { u with held := false }) ∧
      (s.performAcc a).mem = Memory.write s.mem a.key bs ∧ (s.performAcc a).dev = s.dev ∧ ∀ c r, ((s.performAcc a).ctxAt c).reg r = (s.ctxAt c).reg r := by
  obtain ⟨e, poked⟩ : ∃ e, s.poke (s.sourceOf a.ctx) a.key bs = { s with mem := Memory.write s.mem a.key bs, early := e } :=
    ⟨_, State.pokeAs_plain hh snap _ _ a.key bs⟩
  unfold State.performAcc State.performOp
  rw [op]
  dsimp only
  rw [poked]
  have left := State.dropAcc_left { s with mem := Memory.write s.mem a.key bs, early := e } a
  generalize State.dropAcc _ _ = t at left ⊢
  rw [State.reportBad_none a.inst ((left.ctxAt a.ctx).badLanes.trans clean)]
  refine ⟨?_, ?_, ?_, fun c r => ?_⟩
  · rw [State.wake_accs, left.accs]
  · rw [show t.wake.mem = t.mem from rfl, left.only]
  · rw [show t.wake.dev = t.dev from rfl, left.only]
  · rw [State.wake_ctxAt, Ctx.unholdInv_reg]
    exact (left.ctxAt c).reg r

theorem State.exec_retryResend_nothing {s : State} {seq : Nat} (none_ : ∀ a ∈ s.accs, a.seq = seq → a.retry = none) : exec (.retryResend seq) s = .next s := by
  have run : exec (.retryResend seq) s = execRetryResend seq s := rfl
  have absent : (s.accs.find? fun a => decide (a.seq = seq) && a.retry.isSome) = none := List.find?_eq_none.2 fun a ha h => by
    obtain ⟨same, retry⟩ := (Bool.and_eq_true _ _).mp h
    rw [none_ a ha (of_decide_eq_true same)] at retry
    cases retry
  rw [execRetryResend, absent] at run
  exact run

/-- The one access of a core, sent again: nothing holds it back (R154). -/
theorem State.exec_retryResend {s : State} {a : Acc} {d : List Byte} (one : s.accs = [a]) (op : a.op = .store d) (retry : a.retry.isSome = true)
    (after : a.after = []) (gated : s.gated a.key a.len = false) (saving : s.clu.saving = []) :
    exec (.retryResend a.seq) s = .next (({ s with accs := [{ a with retry := none }] } : State).performAcc { a with retry := none }) := by
  have run : exec (.retryResend a.seq) s = execRetryResend a.seq s := rfl
  have found : (s.accs.find? fun x => decide (x.seq = a.seq) && x.retry.isSome) = some a := by
    rw [one, List.find?_cons_of_pos]
    rw [decide_eq_true rfl, retry]
    rfl
  have again : (s.accs.map fun u : Acc => if u.seq = a.seq then { u with retry := none } else u) = [{ a with retry := none }] := by
    rw [one, List.map_singleton, if_pos rfl]
  rw [execRetryResend, found] at run
  dsimp only at run
  rw [again] at run
  refine run.trans ?_
  have open_ : ({ s with accs := [{ a with retry := none }] } : State).gatedAcc { a with retry := none } = false := by
    unfold State.gatedAcc
    unfold State.gated at gated
    refine List.any_eq_false.2 fun q hq => ?_
    have none_ := List.any_eq_false.1 gated q hq
    rw [Bool.not_eq_true] at none_ ⊢
    refine List.any_eq_false.2 fun c hc => ?_
    have free := List.any_eq_false.1 none_ c hc
    rw [Bool.and_eq_true]
    exact fun h => free h.2
  have can : ({ s with accs := [{ a with retry := none }] } : State).canPerform { a with retry := none } = true := by
    unfold State.canPerform State.canSend
    rw [open_]
    simp [Acc.awaited, Acc.keeps, Acc.occupies, State.sameLine, after, op]
  have answers : ({ s with accs := [{ a with retry := none }] } : State).answersRetry { a with retry := none } = false := by
    unfold State.answersRetry State.retried
    rw [saving]
    exact Bool.and_false _
  unfold State.tryAcc
  rw [if_neg (by rw [can]; exact Bool.noConfusion), if_neg (by rw [answers]; exact Bool.false_ne_true), op]
  rfl

theorem State.saveBegun_iff {s : State} : s.saveBegun = true ↔ s.job.evicted = true ∧
    (∀ m, (s.ctxAt m).live = true → (s.ctxAt m).mustRun = false ∧ (s.ctxAt m).ending = false) ∧ ∀ k, (s.core.ports.get k).state ≠ .route := by
  unfold State.saveBegun
  rw [Bool.and_eq_true, Bool.and_eq_true, Bool.not_eq_true', Bool.not_eq_true', ← Bool.not_eq_true, ← Bool.not_eq_true, any_toList_iff, any_toList_iff, and_assoc]
  refine and_congr_right fun _ => and_congr ?_ ?_
  · push Not
    refine forall_congr' fun m => ?_
    show ¬ ((s.ctxAt m).live && ((s.ctxAt m).mustRun || (s.ctxAt m).ending)) = true ↔ _
    cases (s.ctxAt m).live <;> cases (s.ctxAt m).mustRun <;> cases (s.ctxAt m).ending <;> simp
  · push Not
    exact forall_congr' fun k => by rw [Ne, decide_eq_true_iff]

section
variable {s : State} {c : BitVec 12} {j : BitVec 32} {op : RemoteOp}

theorem State.exec_remote_retry (running : s.job.running = true) (begun : s.saveBegun = true) (new : s.unitHas c s.job.jobid op = false) :
    exec (.remoteAccess c s.job.jobid op) s = .next (s.count 13) := by
  have run : exec (.remoteAccess c s.job.jobid op) s = execRemoteAccess c s.job.jobid op s := rfl
  rw [execRemoteAccess, if_pos ⟨running, rfl⟩, if_pos ⟨begun, new⟩] at run
  exact run

theorem State.exec_remote_saved (running : s.job.running = false) (saved : ∃ x ∈ s.evicted, x.job.jobid = j) :
    exec (.remoteAccess c j op) s = .next (s.count 13) := by
  have run : exec (.remoteAccess c j op) s = execRemoteAccess c j op s := rfl
  obtain ⟨x, hx, id⟩ := saved
  rw [execRemoteAccess, if_neg (by rintro ⟨on, -⟩; rw [running] at on; cases on),
    if_pos ⟨running, List.any_eq_true.2 ⟨x, hx, decide_eq_true id⟩⟩] at run
  exact run

theorem State.exec_remote_other (running : s.job.running = true) (other : s.job.jobid ≠ j) :
    exec (.remoteAccess c j op) s = .next ((s.logAbout j 1 0x03 c.toNat 5 (s.remoteAddr (RemoteOp.off op))).answer []) := by
  have run : exec (.remoteAccess c j op) s = execRemoteAccess c j op s := rfl
  rw [execRemoteAccess, if_neg (by rintro ⟨-, same⟩; exact other same),
    if_neg (by rintro ⟨off, -⟩; rw [running] at off; cases off)] at run
  exact run

theorem State.exec_remote (running : s.job.running = true) (go : s.saveBegun = false ∨ s.unitHas c s.job.jobid op = true) :
    exec (.remoteAccess c s.job.jobid op) s = .next (s.remoteOp c s.job.jobid op).wake := by
  have run : exec (.remoteAccess c s.job.jobid op) s = execRemoteAccess c s.job.jobid op s := rfl
  rw [execRemoteAccess, if_pos ⟨running, rfl⟩, if_neg (by
    rintro ⟨begun, new⟩
    rcases go with h | h
    · rw [h] at begun; cases begun
    · rw [h] at new; cases new)] at run
  exact run

end

/-- With the error-log ring not set, what is logged about a job of another core is counted as lost (R422). -/
theorem State.logAbout_lost {s : State} {j : BitVec 32} (other : s.job.jobid ≠ j) (ring : s.dev.elbase = 0) (room : s.dev.lost ≠ BitVec.allOnes 32)
    (cls cause source : Nat) (detail : BitVec 32) (addr : Word) :
    s.logAbout j cls cause source detail addr = { s with
      evicted := s.evicted.map fun x => if x.job.jobid = j then { x with job := { x.job with logged := x.job.logged + 1 } } else x,
      dev := { s.dev with
        lost := s.dev.lost + 1,
        jobs := s.dev.jobs.map fun x : OtherJob => if x.job.jobid = j then { x with job := { x.job with logged := x.job.logged + 1 } } else x } } := by
  unfold State.logAbout State.logFor
  dsimp only
  rw [if_pos (.inl ring), if_neg room]
  unfold State.modJob
  dsimp only
  rw [if_neg (by rintro ⟨-, same⟩; exact other same)]

end Sys2Proof.Machine
end

section
/-! SUPPORT. What an access of another core does at this core's banks and at its pigeonhole unit (R286, R289, R302, R374, R376). -/

namespace Sys2Proof.Machine

open Sys2Proof

theorem State.wake_regs (s : State) (m : Fin 11) (r : Reg) : (s.wake.ctxAt m).reg r = (s.ctxAt m).reg r := by rw [State.wake_ctxAt, Ctx.unholdInv_reg]

theorem State.poke_plain {s : State} (hashed : s.unhashed) (snap : s.core.snapshot = none) (source key : Nat) (bs : List Byte) :
    ∃ e, s.poke source key bs = { s with mem := Memory.write s.mem key bs, early := e } := ⟨_, State.pokeAs_plain hashed snap source source key bs⟩

section
variable {s : State} {o : Nat} (inside : o < 0x80000) (c : BitVec 12) (j : BitVec 32)
include inside

theorem State.remoteOp_read (good : s.bad = []) (k : Nat) :
    s.remoteOp c j (.read o k) = s.answer (Memory.read s.mem (scratchKey s.core.num.toNat o) k) := by
  unfold State.remoteOp
  dsimp only
  rw [Nat.mod_eq_of_lt inside, State.unitRead_good good]

theorem State.remoteOp_write (hashed : s.unhashed) (snap : s.core.snapshot = none) (bs : List Byte) :
    ∃ e, s.remoteOp c j (.write o bs) = { s with mem := Memory.write s.mem (scratchKey s.core.num.toNat o) bs, early := e } := by
  unfold State.remoteOp
  dsimp only
  rw [Nat.mod_eq_of_lt inside]
  exact State.poke_plain hashed snap ..

/-- An atomic at the banks, done at once. -/
theorem State.remoteOp_atomic (good : s.bad = []) (hashed : s.unhashed) (snap : s.core.snapshot = none) (f : AtomicOp) (t : AtomicTy) (b : Word) :
    let n := atomicBytes t
    let old := natOfBytes (Memory.read s.mem (scratchKey s.core.num.toNat o) n)
    ∃ e, s.remoteOp c j (.atomic o f t b false) = ({ s with
      mem := Memory.write s.mem (scratchKey s.core.num.toNat o) (bytesOfNat (atomicFn f t old (b.toNat % 2 ^ atomicBits t)) n), early := e } : State).answer
        (bytesOfNat old n) := by
  unfold State.remoteOp State.remoteAtomic
  dsimp only
  rw [show o % Config.scratchBytes = o from Nat.mod_eq_of_lt inside, if_neg Bool.false_ne_true, State.badAt_nil good]
  dsimp only
  rw [if_neg Bool.false_ne_true]
  exact ⟨_, congrArg (fun u : State => u.answer _) (State.pokeAs_plain hashed snap ..)⟩

/-- An atomic of the cluster's unit: it reads, and writes with a second access. -/
theorem State.remoteOp_atomic_reads (good : s.bad = []) (f : AtomicOp) (t : AtomicTy) (b : Word)
    (clear : s.halfDone (scratchKey s.core.num.toNat o) (atomicBytes t) = false) :
    let n := atomicBytes t
    let old := natOfBytes (Memory.read s.mem (scratchKey s.core.num.toNat o) n)
    s.remoteOp c j (.atomic o f t b true) = (s.addHalf c.toNat (scratchKey s.core.num.toNat o)
      (bytesOfNat (atomicFn f t old (b.toNat % 2 ^ atomicBits t)) n)).answer (bytesOfNat old n) := by
  unfold State.remoteOp State.remoteAtomic
  dsimp only
  rw [show o % Config.scratchBytes = o from Nat.mod_eq_of_lt inside, if_pos rfl, State.finishUnits_none clear, State.badAt_nil good]
  dsimp only
  rw [if_pos rfl]
  rfl

theorem State.remoteOp_ftake_full (n : Fin 11) (full : s.isFull (scratchKey s.core.num.toNat o) = true) :
    s.remoteOp c j (.ftake o n) =
      (s.setFull (scratchKey s.core.num.toNat o) false).answer (Memory.read s.mem (scratchKey s.core.num.toNat o) 8) := by
  unfold State.remoteOp
  dsimp only
  simp only [Nat.mod_eq_of_lt (show o < Config.scratchBytes from inside)]
  rw [if_pos full]
  rfl

theorem State.remoteOp_ftake_empty (n : Fin 11) (full : s.isFull (scratchKey s.core.num.toNat o) = false) (takers : s.takers = []) :
    s.remoteOp c j (.ftake o n) = { s with takers := [{ core := c, ctx := n, key := scratchKey s.core.num.toNat o }] } := by
  unfold State.remoteOp
  dsimp only
  simp only [Nat.mod_eq_of_lt (show o < Config.scratchBytes from inside)]
  rw [if_neg (by rw [full]; exact Bool.false_ne_true), takers, if_pos (by rw [List.filter_nil]; decide)]
  rfl

theorem State.remoteOp_fput_full (n : Fin 11) (v : Word) (full : s.isFull (scratchKey s.core.num.toNat o) = true) :
    s.remoteOp c j (.fput o n v) = s.answer [] := by
  unfold State.remoteOp
  dsimp only
  simp only [Nat.mod_eq_of_lt (show o < Config.scratchBytes from inside)]
  rw [if_pos full]

theorem State.remoteOp_fput_empty (hashed : s.unhashed) (snap : s.core.snapshot = none) (n : Fin 11) (v : Word)
    (full : s.isFull (scratchKey s.core.num.toNat o) = false) (takers : s.takers = []) :
    ∃ e l, s.remoteOp c j (.fput o n v) = ({ s with
      mem := Memory.write s.mem (scratchKey s.core.num.toNat o) (bytesOfNat v.toNat 8), early := e, filler := l } : State).setFull
        (scratchKey s.core.num.toNat o) true := by
  unfold State.remoteOp State.fputAt
  dsimp only
  simp only [Nat.mod_eq_of_lt (show o < Config.scratchBytes from inside)]
  rw [if_neg (by rw [full]; exact Bool.false_ne_true)]
  obtain ⟨e, poked⟩ := State.poke_plain hashed snap (c.toNat + n.val * 2 ^ 12) (scratchKey s.core.num.toNat o) (bytesOfNat v.toNat 8)
  rw [poked]
  dsimp only
  rw [takers]
  exact ⟨e, _, rfl⟩

theorem State.remoteOp_finit (hashed : s.unhashed) (snap : s.core.snapshot = none) (v : Word) (b : Bool) :
    ∃ e l, s.remoteOp c j (.finit o v b) = ({ s with
      mem := Memory.write s.mem (scratchKey s.core.num.toNat o) (bytesOfNat v.toNat 8), early := e, takers := l } : State).setFull
        (scratchKey s.core.num.toNat o) b := by
  unfold State.remoteOp State.finitAt
  dsimp only
  simp only [Nat.mod_eq_of_lt (show o < Config.scratchBytes from inside)]
  obtain ⟨e, poked⟩ := State.poke_plain hashed snap c.toNat (scratchKey s.core.num.toNat o) (bytesOfNat v.toNat 8)
  rw [poked]
  exact ⟨e, s.takers.filter fun e => decide (e.key ≠ scratchKey s.core.num.toNat o), rfl⟩

end

/-! ## The pigeonhole unit -/

theorem State.remoteOp_table {op : RemoteOp} {table : Nat} (named : op.table = some table) (s : State) (c : BitVec 12) (j : BitVec 32) :
    s.remoteOp c j op = s.unitAccess c j op := by
  cases op with
  | phins => rfl
  | phdel => rfl
  | phprb => rfl
  | phacc => rfl
  | _ => cases named

theorem State.unitAccess_new {s : State} {c : BitVec 12} {j : BitVec 32} {op : RemoteOp} (new : s.unitHas c j op = false) :
    s.unitAccess c j op = s.modCore fun k =>
      { k with unit := k.unit ++ [{ core := c, jobid := j, op, since := s.cycle, done := [], got := [], started := false }] } := by
  unfold State.unitAccess
  rw [List.find?_eq_none.2 (List.any_eq_false.1 new)]

theorem State.unitAccess_own {s : State} {y : UnitOp} (unit : s.core.unit = [y]) :
    s.unitAccess y.core y.jobid y.op = if s.unitTurn y then s.unitStep y else s := by
  unfold State.unitAccess
  rw [unit, List.find?_cons_of_pos (by simp)]

/-- What the unit's work leaves as it is: the contexts, and what waits at the unit. -/
structure State.unitStays (s t : State) : Prop where
  ctxs : t.ctxs = s.ctxs
  unit : t.core.unit = s.core.unit

namespace State.unitStays

variable {s t u : State}

theorem refl (s : State) : s.unitStays s := ⟨rfl, rfl⟩

theorem trans (h : s.unitStays t) (k : t.unitStays u) : s.unitStays u := ⟨k.ctxs.trans h.ctxs, k.unit.trans h.unit⟩

theorem of_sought (h : s.sought t) : s.unitStays t := ⟨h.ctxs, by rw [h.core]⟩

theorem of_records (h : s.onlyRecords t) : s.unitStays t := ⟨h.ctxs, by rw [h.core]⟩

theorem of_fst {α : Type} {p : State × α} {a : α} (h : s.unitStays p.1) (e : p = (t, a)) : s.unitStays t := by
  rw [e] at h
  exact h

end State.unitStays

theorem State.unitCheck_stays (s : State) (p : PhPlace) (write : Bool) (a : Word) : s.unitStays (s.unitCheck p write a).1 := by
  unfold State.unitCheck
  split
  · exact .of_sought (s.check_sought ..)
  · split
    next t r h e =>
      have checked := State.unitStays.of_fst (.of_sought (State.check_sought ..)) e
      exact ⟨checked.ctxs, checked.unit⟩

theorem State.spillAccess_stays (s : State) (p : PhPlace) (i : Nat) (write : Bool) : s.unitStays (s.spillAccess p i write).1 := by
  have counted : s.unitStays (if p.owner = s.core.num then s.count 10 else s) := by
    split
    · exact .of_sought (s.count_sought 10)
    · exact .refl s
  unfold State.spillAccess
  dsimp only
  generalize (if p.owner = s.core.num then s.count 10 else s) = u at counted ⊢
  split
  · exact counted
  · have checked := u.unitCheck_stays p write (p.table.spillAddr i)
    rcases e : u.unitCheck p write (p.table.spillAddr i) with ⟨t, f | q, h⟩ <;> rw [e] at checked <;> exact counted.trans checked

theorem State.phView_stays (s : State) (p : PhPlace) (k : Word) (o : PhOp) : s.unitStays (s.phView p k o).1 := by
  unfold State.phView
  dsimp only
  split
  · have read := s.spillAccess_stays p (p.table.spillOf (p.table.home k)) false
    rcases e : s.spillAccess p (p.table.spillOf (p.table.home k)) false with ⟨t, f | q, h⟩ <;> rw [e] at read <;> exact read
  · exact .refl s

theorem State.poke_stays (s : State) (source key : Nat) (bs : List Byte) : s.unitStays (s.poke source key bs) := .of_records (s.pokeAs_onlyRecords ..)

theorem State.phApply_stays (s : State) (p : PhPlace) (k : Word) (o : PhOp) (v : PhView) : s.unitStays (s.phApply p k o v).1 := by
  unfold State.phApply
  dsimp only
  split
  · dsimp only
    split
    · exact .refl s
    · exact s.poke_stays ..
  · split
    · exact .refl s
    · split
      · exact .refl s
      · have written := s.spillAccess_stays p (p.table.spillOf (p.table.home k)) true
        rcases e : s.spillAccess p (p.table.spillOf (p.table.home k)) true with ⟨u, f | q, g⟩ <;> rw [e] at written
        · exact written
        · exact written.trans ((u.poke_stays ..).trans (State.poke_stays ..))

theorem State.phKey_stays (s : State) (p : PhPlace) (k : Word) (o : PhOp) : s.unitStays (s.phKey p k o).1 := by
  have viewed := s.phView_stays p k o
  unfold State.phKey
  rcases e : s.phView p k o with ⟨t, f | v, h⟩ <;> rw [e] at viewed
  · exact viewed
  · exact viewed.trans (t.phApply_stays p k o v)

theorem State.phRun_stays (p : PhPlace) : ∀ (us : List PhUpdate) (done : List Nat) (s : State), s.unitStays (State.phRun p us done s).1
  | [], _, s => .refl s
  | u :: us, done, s => by
    have updated := s.phKey_stays p u.key u.op
    unfold State.phRun
    rcases e : s.phKey p u.key u.op with ⟨t, f | old, h⟩ <;> rw [e] at updated
    · exact updated
    · have later := State.phRun_stays p us (done ++ u.lanes) t
      dsimp only
      rcases l : State.phRun p us (done ++ u.lanes) t with ⟨w, f | rs, g⟩ <;> rw [l] at later <;> exact updated.trans later

theorem State.countPh_stays (s : State) (p : PhPlace) : s.unitStays (s.countPh p) := by
  unfold State.countPh
  split
  · exact .of_sought (s.count_sought 9)
  · exact .refl s

theorem nextBucket_eq (t : PhTable) (us : List PhUpdate) :
    nextBucket t us = us.filter fun x => some (t.home x.key) = us.head?.map fun x => t.home x.key := by
  cases us with
  | nil => rfl
  | cons u us => simp [nextBucket]

/-- The keys of one home bucket are done in a turn: the access is answered, or keeps its place with what it has done (R374). -/
theorem State.unitStep_runs {s v : State} {y : UnitOp} {table h : Nat} {T : PhTable} {rs : List (Word × Option Word)} (unit : s.core.unit = [y])
    (named : y.op.table = some table) (at_ : s.tableAt s.core.num table = some T) (keys : ∀ e ∈ remoteKeys y.op, e.1 ≠ reservedKey)
    (run : State.phRun { owner := s.core.num, table := T } (nextBucket T ((y.updates T).filter fun x => !(x.lanes.any fun i => decide (i ∈ y.done)))) y.done
      (if y.started then s else s.countPh { owner := s.core.num, table := T }) = (v, .ok rs, h)) :
    let left := (y.updates T).filter fun x => !(x.lanes.any fun i => decide (i ∈ y.done))
    let now := nextBucket T left
    v.ctxs = s.ctxs ∧ s.unitStep y = if left.length ≤ now.length then (v.modCore fun c => { c with unit := [] }).answer (unitAnswer (remoteKeys y.op) (y.got ++ rs))
      else v.modCore fun c => { c with unit := [{ y with done := y.done ++ now.flatMap (·.lanes), got := y.got ++ rs, started := true }] } := by
  intro left now
  have stays : s.unitStays v := by
    have started : s.unitStays (if y.started then s else s.countPh { owner := s.core.num, table := T }) := by
      split
      · exact .refl s
      · exact s.countPh_stays _
    exact started.trans (.of_fst (State.phRun_stays ..) run)
  refine ⟨stays.ctxs, ?_⟩
  have open_ : ((remoteKeys y.op).any fun e => decide (e.1 = reservedKey)) = false :=
    List.any_eq_false.2 fun e he => by simpa using keys e he
  unfold State.unitStep
  rw [named, Option.bind_some, at_]
  dsimp only
  rw [open_, if_neg Bool.false_ne_true, run]
  dsimp only
  have one : v.core.unit = [y] := stays.unit.trans unit
  refine ite_congr rfl (fun _ => ?_) fun _ => ?_
  · unfold State.dropUnit State.modCore
    dsimp only
    rw [one, List.erase_cons_head]
  · unfold State.modCore
    dsimp only
    rw [one, List.map_singleton, if_pos rfl]

end Sys2Proof.Machine
end

section
/-! SUPPORT. Jobs that are ABORTED with their record (R412, R414), and the loss of a die (R159). -/

namespace Sys2Proof.Machine

open Sys2Proof

/-- From `s` to `t` the record of a job has been written: STATUS 3 and a reason, and its event is FAILED; no byte outside the record has changed. -/
structure State.recordsAbort (s t : State) (j : Job) (reason : Nat) : Prop where
  status : Memory.byte t.mem (complKey j.compl + 7) = 3
  reason : Memory.byte t.mem (complKey j.compl + 6) = BitVec.ofNat 8 reason
  outside : ∀ k, k < complKey j.compl ∨ complKey j.compl + 64 ≤ k → Memory.byte t.mem k = Memory.byte s.mem k
  event : j.evt ≠ 0 → Sparse.get EventState.done t.dev.events j.evt.toNat = .failed

theorem State.addManifest_only (s : State) (j : Job) (dword0 : Nat) (count : Word) :
    ∃ manifests, s.addManifest j dword0 count = { s with dev := { s.dev with manifests } } := by
  unfold State.addManifest
  split
  · exact ⟨_, rfl⟩
  · exact ⟨s.dev.manifests, rfl⟩

theorem State.recordJob_aborts (s : State) (j : Job) (repro : Bool) (count : Word) {reason : Nat} (low : reason < 256)
    (up : j.compl.getLsbD 63 = true → s.dev.hostLink = true) : s.recordsAbort (s.recordJob j repro count 3 reason) j reason := by
  obtain ⟨⟨status, re⟩, -, -, -⟩ := s.recordJob_keeps j repro count (status := 3) low up
  obtain ⟨manifests, eq⟩ := s.addManifest_only j (j.dword0 repro 3 reason) count
  have run : s.recordJob j repro count 3 reason = State.writeRecord { s with dev := { s.dev with manifests } } j.compl j.evt.toNat (jobQueue j.jobid) 3
      (j.dword0 repro 3 reason) j.startTime s.dev.devtime count (BitVec.ofNat 64 j.logged) := by
    rw [← eq]
    rfl
  refine ⟨status, re, fun k out => ?_, fun evt => ?_⟩
  · rw [run, State.writeRecord_bytes { s with dev := { s.dev with manifests } } j.compl _ _ _ _ _ _ _ _ up, if_neg (by omega)]
  · obtain ⟨-, -, -, events⟩ := State.writeRecord_only { s with dev := { s.dev with manifests } } j.compl j.evt.toNat (jobQueue j.jobid) 3
      (j.dword0 repro 3 reason) j.startTime s.dev.devtime count (BitVec.ofNat 64 j.logged)
    have nonzero : j.evt.toNat ≠ 0 := fun h => evt (BitVec.eq_of_toNat_eq h)
    rw [run, events, if_pos ⟨rfl, nonzero⟩]
    rfl

/-- The job that holds the core is ABORTED: its record is written, no context is live any more, and every register stays (R412, R414). -/
theorem State.abortJob_recordsAbort {s : State} {reason : Nat} (running : s.job.running = true) (accs : s.accs = []) (takes : ∀ m, (s.ctxAt m).takeOrder = [])
    (low : reason < 256) (up : s.job.compl.getLsbD 63 = true → s.dev.hostLink = true) :
    s.recordsAbort (s.abortJob reason) s.job reason ∧ (s.abortJob reason).job.running = false ∧ (∀ m, ((s.abortJob reason).ctxAt m).live = false) ∧
      ∀ m q, ((s.abortJob reason).ctxAt m).reg q = (s.ctxAt m).reg q := by
  have run : s.abortJob reason = (s.endRecord 3 reason).releaseJob := by
    unfold State.abortJob
    rw [if_pos running, accs, State.finishWrites, State.flushAllTakes_none takes]
  have recorded : s.recordsAbort (s.endRecord 3 reason) s.job reason := s.recordJob_aborts s.job s.repro (Machine.sstepCount s.bar.sstep) low up
  obtain ⟨-, only, -, -⟩ := s.recordJob_keeps s.job s.repro (Machine.sstepCount s.bar.sstep) (status := 3) low up
  have ctxs : (s.endRecord 3 reason).ctxs = s.ctxs := (congrArg State.ctxs only :)
  rw [run]
  generalize s.endRecord 3 reason = t at recorded ctxs
  obtain ⟨status, re, outside, event⟩ := recorded
  refine ⟨⟨status, re, outside, event⟩, rfl, State.releaseJob_live _, fun m q => ?_⟩
  unfold State.releaseJob State.ctxAt
  dsimp only
  rw [mapVec_get, ctxs]
  exact Ctx.reg_congr rfl rfl rfl q

/-- A job of other cores is ABORTED. -/
theorem State.endOther_recordsAbort (s : State) (x : OtherJob) (count : Word) {reason : Nat} (low : reason < 256)
    (up : x.job.compl.getLsbD 63 = true → s.dev.hostLink = true) : s.recordsAbort (s.endOther x count 3 reason) x.job reason := by
  let u : State := { s with
    dev := { s.dev with jobs := s.dev.jobs.filter fun u => decide (u.job.jobid ≠ x.job.jobid) },
    agenda := s.agenda ++ if s.evicted.isEmpty then [] else [Instr.restore] }
  obtain ⟨status, re, outside, event⟩ := u.recordJob_aborts (s.otherRecord x.job) (x.job.record || (!x.tookFree && Config.othersRepro x.job.jobid))
    (if x.job.superstep then Machine.sstepCount count else 0) low up
  exact ⟨status, re, outside, event⟩

/-- The only job of other cores is ABORTED, and no other is there. -/
theorem State.abortOthers_one {s : State} {x : OtherJob} {reason : Nat} (jobs : s.dev.jobs = [x]) (low : reason < 256)
    (up : x.job.compl.getLsbD 63 = true → s.dev.hostLink = true) :
    s.recordsAbort (State.abortOthers reason [x] s) x.job reason ∧ (State.abortOthers reason [x] s).dev.jobs = [] ∧
      (State.abortOthers reason [x] s).evicted = s.evicted ∧ (State.abortOthers reason [x] s).job = s.job := by
  obtain ⟨-, -, left, evicted, job, -⟩ := s.endOther_aborts x (Config.otherSstep x.job.jobid s.cycle) low up
  refine ⟨s.endOther_recordsAbort x (Config.otherSstep x.job.jobid s.cycle) low up, ?_, evicted, job⟩
  refine left.trans ?_
  rw [jobs]
  exact List.filter_eq_nil_iff.2 fun y hy => by
    rw [List.mem_singleton.1 hy]
    simp

/-- The only evicted job is ABORTED, and no other is there. -/
theorem State.abortSaved_one {s : State} {x : Saved} {reason : Nat} (evicted : s.evicted = [x]) (takes : ∀ m, (x.ctxs.get m).takeOrder = []) (low : reason < 256)
    (up : x.job.compl.getLsbD 63 = true → s.dev.hostLink = true) :
    s.recordsAbort (State.abortSaved reason [x] s) x.job reason ∧ (State.abortSaved reason [x] s).dev.jobs = s.dev.jobs ∧
      (State.abortSaved reason [x] s).evicted = [] ∧ (State.abortSaved reason [x] s).job = s.job := by
  let u : State := { s with evicted := s.evicted.erase x, ctxs := x.ctxs, job := x.job, bar := x.bar }
  have none_ : u.flushAllTakes = u := State.flushAllTakes_none takes
  have run : State.abortSaved reason [x] s = { ({ s with evicted := s.evicted.erase x } : State) with
      mem := (u.flushAllTakes.endRecord 3 reason).mem, dev := (u.flushAllTakes.endRecord 3 reason).dev } := rfl
  obtain ⟨-, -, jobs, -⟩ := u.recordJob_keeps u.job u.repro (Machine.sstepCount u.bar.sstep) (status := 3) low up
  obtain ⟨status, re, outside, event⟩ := u.recordJob_aborts u.job u.repro (Machine.sstepCount u.bar.sstep) low up
  rw [none_] at run
  rw [run]
  refine ⟨⟨status, re, outside, event⟩, jobs, ?_, rfl⟩
  show s.evicted.erase x = []
  rw [evicted, List.erase_cons_head]

/-! ## The loss of a die -/

theorem onDie_iff {die : BitVec 2} {k : BitVec 12} : onDie die k = true ↔ k.toNat / 768 = die.toNat := decide_eq_true_iff

theorem any_onDie {die : BitVec 2} {ks : List (BitVec 12)} : ks.any (onDie die) = true ↔ ∃ k ∈ ks, k.toNat / 768 = die.toNat := by
  rw [List.any_eq_true]
  exact exists_congr fun k => and_congr_right fun _ => onDie_iff

theorem Job.endsWith_iff {j : Job} {die : BitVec 2} : j.endsWith die = true ↔ (∃ k ∈ j.cores, k.toNat / 768 = die.toNat) ∧
    (j.superstep = true ∨ j.space.grain = 0 ∨ ∀ k ∈ j.cores, k.toNat / 768 = die.toNat) := by
  unfold Job.endsWith
  rw [Bool.and_eq_true, Bool.or_eq_true, Bool.or_eq_true, any_onDie, decide_eq_true_iff, List.all_eq_true, or_assoc]
  exact and_congr_right fun _ => or_congr_right (or_congr_right (forall_congr' fun k => imp_congr_right fun _ => onDie_iff))

/-- A job that goes on without a die: its cores there are gone, and the ranges held there are handed out again (R159). -/
theorem Job.without_parts {j : Job} (takes : j.space.takes = []) (die : BitVec 2) (n : Nat) :
    j.without die n = { j with
      cores := j.cores.filter fun c => !onDie die c,
      space := { j.space with
        pool := j.space.pool ++ (j.space.taken.filter fun x => onDie die x.1).map (fun x => (x.2.2.1, x.2.2.2)),
        taken := j.space.taken.filter fun x => !onDie die x.1, takes := [] } } := by
  unfold Job.without
  rw [takes]
  rfl

/-- The state once the jobs of the device that do not hold the core have lost a die, where none of them ends (R159). -/
theorem State.othersLose_none {s : State} {die : BitVec 2} (jobs : ∀ j ∈ s.dev.jobs, j.job.endsWith die = false)
    (evicted : ∀ x ∈ s.evicted, x.job.endsWith die = false) :
    let gone := s.evicted.filter fun x => onDie die s.core.num && x.job.cores.any (onDie die)
    s.othersLose die = { s with
      evicted := (s.evicted.filter (· ∉ gone)).map fun x => { x with job := x.job.leaves die s.cycle },
      dev := { s.dev with
        jobs := (s.dev.jobs.map fun j : OtherJob => { j with job := j.job.leaves die s.cycle }) ++ gone.map fun x => x.leave die s.cycle } } := by
  intro gone
  unfold State.othersLose
  rw [List.filter_eq_nil_iff.2 fun x hx => by rw [evicted x hx]; exact Bool.false_ne_true,
    List.filter_eq_nil_iff.2 fun j hj => by rw [jobs j hj]; exact Bool.false_ne_true]
  rfl

end Sys2Proof.Machine
end

section
/-! SUPPORT. DIE_FENCED and CLUSTER_RESET (R159, R396, R412). -/

namespace Sys2Proof.Machine

open Sys2Proof

/-- The state in which a die is marked as fenced off. -/
def State.fence (s : State) (die : BitVec 2) : State :=
  { s with dev := { s.dev with fencedDies := if die ∈ s.dev.fencedDies then s.dev.fencedDies else s.dev.fencedDies ++ [die] } }

theorem State.mem_fence (s : State) (die : BitVec 2) : die ∈ (s.fence die).dev.fencedDies := by
  show die ∈ ite _ _ _
  split
  · assumption
  · exact List.mem_append_right _ (List.mem_singleton_self die)

theorem State.exec_dieFenced (s : State) (die : BitVec 2) : exec (.dieFenced die) s = .next (
    let t := (s.fence die).othersLose die
    if t.job.running = false ∨ ¬ (t.job.cores.any (onDie die)) then t
    else if t.job.endsWith die then t.abortJob 5
    else if t.die = die.toNat then t.leaveJob die
    else { t with job := t.job.without die t.cycle }) := rfl

/-- With no other job on the device its other jobs lose nothing. -/
theorem State.othersLose_alone {s : State} (jobs : s.dev.jobs = []) (evicted : s.evicted = []) (die : BitVec 2) : s.othersLose die = s := by
  have lost := State.othersLose_none (s := s) (die := die) (by rw [jobs]; exact fun _ h => absurd h List.not_mem_nil)
    (by rw [evicted]; exact fun _ h => absurd h List.not_mem_nil)
  refine lost.trans ?_
  rw [evicted, jobs]
  show ({ s with evicted := [], dev := { s.dev with jobs := [] } } : State) = s
  rw [← evicted, ← jobs]

theorem Job.leaves_if (j : Job) (die : BitVec 2) (n : Nat) :
    j.leaves die n = if ∃ k ∈ j.cores, k.toNat / 768 = die.toNat then j.without die n else j := by
  unfold Job.leaves
  exact if_congr any_onDie rfl rfl

/-- Jobs that go on without a lost die, of other cores and evicted (R159). -/
theorem State.othersLose_goOn {s : State} {die : BitVec 2} (jobs : ∀ j ∈ s.dev.jobs, j.job.endsWith die = false)
    (evicted : ∀ x ∈ s.evicted, x.job.endsWith die = false) : let t := s.othersLose die
    { t with dev := s.dev, evicted := s.evicted } = s ∧ { t.dev with jobs := s.dev.jobs } = s.dev ∧
      (∀ j ∈ s.dev.jobs, (if ∃ k ∈ j.job.cores, k.toNat / 768 = die.toNat then { j with job := j.job.without die s.cycle } else j) ∈ t.dev.jobs) ∧
      ∀ x ∈ s.evicted, (∃ k ∈ x.job.cores, k.toNat / 768 = die.toNat) → if s.core.num.toNat / 768 = die.toNat
        then ∃ j ∈ t.dev.jobs, j.saved = true ∧ j.job = x.job.without die s.cycle ∧ j.scratch = x.scratch
        else { x with job := x.job.without die s.cycle } ∈ t.evicted := by
  intro t
  have eq : t = _ := State.othersLose_none jobs evicted
  rw [eq]
  refine ⟨rfl, rfl, fun j hj => ?_, fun x hx off => ?_⟩
  · refine List.mem_append_left _ (List.mem_map.2 ⟨j, hj, ?_⟩)
    rw [Job.leaves_if]
    split <;> rfl
  · have any := any_onDie.2 off
    split
    next mine =>
      refine ⟨x.leave die s.cycle, List.mem_append_right _ (List.mem_map.2 ⟨x, List.mem_filter.2 ⟨hx, ?_⟩, rfl⟩), rfl, rfl, rfl⟩
      rw [onDie_iff.2 mine, any]
      rfl
    next other =>
      refine List.mem_map.2 ⟨x, List.mem_filter.2 ⟨hx, decide_eq_true fun h => ?_⟩, ?_⟩
      · obtain ⟨-, both⟩ := List.mem_filter.1 h
        exact other (onDie_iff.1 (Bool.and_eq_true _ _ |>.mp both).1)
      · rw [Job.leaves_if, if_pos off]

/-- What fencing off a die leaves of the core, where no other job ends with it (R159). -/
theorem State.fence_goOn {s : State} {die : BitVec 2} (jobs : ∀ j ∈ s.dev.jobs, j.job.endsWith die = false)
    (evicted : ∀ x ∈ s.evicted, x.job.endsWith die = false) : let t := (s.fence die).othersLose die
    { t with dev := s.dev, evicted := s.evicted } = s ∧ die ∈ t.dev.fencedDies ∧ t.job = s.job ∧ t.die = s.die ∧ t.cycle = s.cycle ∧ t.mem = s.mem := by
  obtain ⟨same, dev, -, -⟩ := State.othersLose_goOn (s := s.fence die) jobs evicted
  have fenced : ((s.fence die).othersLose die).dev.fencedDies = (s.fence die).dev.fencedDies := (congrArg Device.fencedDies dev :)
  refine ⟨(congrArg (fun t : State => { t with dev := s.dev }) same :), ?_, (congrArg State.job same :), (congrArg State.die same :),
    (congrArg State.cycle same :), (congrArg State.mem same :)⟩
  show die ∈ _
  rw [fenced]
  exact s.mem_fence die

/-- A job goes on without this core, on other dies (R159). -/
theorem State.leaveJob_parts (s : State) (die : BitVec 2) : let t := s.leaveJob die
    t.job = Job.none ∧ t.mem = s.mem ∧ (∀ m, (t.ctxAt m).live = false) ∧ t.dev.fencedDies = s.dev.fencedDies ∧
      ∃ j ∈ t.dev.jobs, j.saved = false ∧ j.job = s.job.without die s.cycle :=
  ⟨rfl, rfl, fun m => s.releaseJob_live m, rfl, _, List.mem_append_right _ (List.mem_singleton_self _), rfl, rfl⟩

/-- The second access of an atomic of the cluster's unit is performed (R286). -/
theorem State.exec_halfWritten {s : State} {y : Half} (mem : y ∈ s.halves) (one : ∀ z ∈ s.halves, z.seq = y.seq → z = y) (apart : ∀ a ∈ s.accs, a.seq ≠ y.seq)
    (hashed : s.unhashed) (snap : s.core.snapshot = none) : ∃ t, exec (.accessPerformed y.seq) s = .next t ∧ t.mem = Memory.write s.mem y.key y.data ∧
      (∀ z, z ∈ t.halves ↔ z ∈ s.halves ∧ z ≠ y) ∧ t.dev = s.dev ∧ ∀ m r, (t.ctxAt m).reg r = (s.ctxAt m).reg r := by
  have none_ : (s.accs.find? fun a => decide (a.seq = y.seq)) = none := List.find?_eq_none.2 fun a ha => by simpa using apart a ha
  have found : (s.halves.find? fun h => decide (h.seq = y.seq)) = some y := by
    obtain ⟨z, hz⟩ := Option.isSome_iff_exists.1 (List.find?_isSome.2 ⟨y, mem, decide_eq_true rfl⟩ : (s.halves.find? fun h => decide (h.seq = y.seq)).isSome = true)
    have at_ := List.find?_some hz
    rw [hz, one z (List.mem_of_find?_eq_some hz) (of_decide_eq_true at_)]
  have run : exec (.accessPerformed y.seq) s = execAccessPerformed y.seq s := rfl
  obtain ⟨e, poked⟩ := State.poke_plain hashed snap y.source y.key y.data
  unfold execAccessPerformed State.writeHalf at run
  rw [none_, found] at run
  dsimp only at run
  rw [poked] at run
  refine ⟨_, run, rfl, fun z => ?_, rfl, State.wake_regs _⟩
  refine List.mem_filter.trans (and_congr_right fun hz => decide_eq_true_iff.trans (not_congr ⟨one z hz, fun h => by rw [h]⟩))

/-- Of a list and its filter: the filter is no shorter exactly when it leaves nothing out. -/
theorem length_filter_le_iff {α : Type} (p : α → Bool) (l : List α) :
    ((∀ x ∈ l, x ∈ l.filter p) → l.length ≤ (l.filter p).length) ∧ ((∃ x ∈ l, x ∉ l.filter p) → ¬ l.length ≤ (l.filter p).length) := by
  refine ⟨fun all => ?_, fun ⟨x, hx, out⟩ => Nat.not_le_of_lt ?_⟩
  · rw [List.filter_eq_self.2 fun x hx => (List.mem_filter.1 (all x hx)).2]
  · exact List.length_filter_lt_length_iff_exists.2 ⟨x, hx, fun h => out (List.mem_filter.2 ⟨hx, h⟩)⟩

/-- A job that has no core on the lost die, or none at all, keeps the core (R159). -/
theorem State.exec_dieFenced_spared {s : State} {die : BitVec 2} (spared : ((s.fence die).othersLose die).job.running = false ∨
    ¬ ∃ k ∈ ((s.fence die).othersLose die).job.cores, k.toNat / 768 = die.toNat) : exec (.dieFenced die) s = .next ((s.fence die).othersLose die) := by
  rw [State.exec_dieFenced]
  exact congrArg Host.Outcome.next (if_pos (spared.imp_right fun h hit => h (any_onDie.1 hit)))

/-- The job that holds the core ends with the lost die (R159, R412). -/
theorem State.exec_dieFenced_ends {s : State} {die : BitVec 2} (jobs : s.dev.jobs = []) (evicted : s.evicted = []) (running : s.job.running = true)
    (ends : s.job.endsWith die = true) : exec (.dieFenced die) s = .next ((s.fence die).abortJob 5) := by
  obtain ⟨touched, -⟩ := Job.endsWith_iff.1 ends
  rw [State.exec_dieFenced, State.othersLose_alone (s := s.fence die) jobs evicted die]
  refine congrArg Host.Outcome.next ((if_neg ?_).trans (if_pos ends))
  rintro (off | off)
  · exact absurd (off.symm.trans running) Bool.false_ne_true
  · exact off (any_onDie.2 touched)

/-- The job that holds the core goes on without the lost die (R159). -/
theorem State.exec_dieFenced_goes {s : State} {die : BitVec 2} (same : ((s.fence die).othersLose die).job = s.job) (running : s.job.running = true)
    (touched : ∃ k ∈ s.job.cores, k.toNat / 768 = die.toNat) (goes : s.job.endsWith die = false) : exec (.dieFenced die) s = .next (
      let t := (s.fence die).othersLose die
      if t.die = die.toNat then t.leaveJob die else { t with job := t.job.without die t.cycle }) := by
  rw [State.exec_dieFenced]
  refine congrArg Host.Outcome.next ((if_neg ?_).trans (if_neg ?_))
  · rw [same]
    rintro (off | off)
    · exact absurd (off.symm.trans running) Bool.false_ne_true
    · exact off (any_onDie.2 touched)
  · rw [same, goes]
    exact Bool.false_ne_true

/-- What a job keeps of its index space when it goes on without a die (R159). -/
theorem Job.without_does {j : Job} (takes : j.space.takes = []) (die : BitVec 2) (n : Nat) : let w := j.without die n
    { w with cores := j.cores, space := j.space } = j ∧ (∀ k, k ∈ w.cores ↔ k ∈ j.cores ∧ ¬ k.toNat / 768 = die.toNat) ∧ w.space.next = j.space.next ∧
      w.space.left = j.space.left ∧
      (∀ k m a b, (k, m, a, b) ∈ j.space.taken → if k.toNat / 768 = die.toNat then (a, b) ∈ w.space.pool ∧ (k, m, a, b) ∉ w.space.taken
        else (k, m, a, b) ∈ w.space.taken) ∧
      ∀ y ∈ j.space.pool, y ∈ w.space.pool := by
  intro w
  have eq : w = _ := Job.without_parts takes die n
  have kept (k : BitVec 12) : (!onDie die k) = true ↔ ¬ k.toNat / 768 = die.toNat := by
    rw [Bool.not_eq_true', ← Bool.not_eq_true, onDie_iff]
  rw [eq]
  refine ⟨rfl, fun k => List.mem_filter.trans (and_congr_right fun _ => kept k), rfl, rfl, fun k m a b held => ?_, fun y hy => List.mem_append_left _ hy⟩
  split
  next off =>
    exact ⟨List.mem_append_right _ (List.mem_map.2 ⟨(k, m, a, b), List.mem_filter.2 ⟨held, onDie_iff.2 off⟩, rfl⟩),
      fun h => (kept k).1 (List.mem_filter.1 h).2 off⟩
  next on => exact List.mem_filter.2 ⟨held, (kept k).2 on⟩

/-- The only other job of the device ends with the lost die, one of other cores … -/
theorem State.othersLose_endsOther {s : State} {j : OtherJob} {die : BitVec 2} (jobs : s.dev.jobs = [j]) (evicted : s.evicted = [])
    (ends : j.job.endsWith die = true) (up : j.job.compl.getLsbD 63 = true → s.dev.hostLink = true) : let t := s.othersLose die
    s.recordsAbort t j.job 5 ∧ t.dev.jobs = [] ∧ t.evicted = [] ∧ t.job = s.job := by
  obtain ⟨⟨status, re, outside, event⟩, none_, kept, job⟩ := State.abortOthers_one (reason := 5) jobs (by decide) up
  have run : s.othersLose die = { State.abortOthers 5 [j] s with
      evicted := [], dev := { (State.abortOthers 5 [j] s).dev with jobs := [] } } := by
    unfold State.othersLose
    rw [evicted, jobs, List.filter_cons_of_pos (p := fun j : OtherJob => j.job.endsWith die) ends, List.filter_nil, List.filter_nil]
    unfold State.abortSaved
    dsimp only
    rw [kept, none_, evicted]
    rfl
  intro t
  rw [show t = _ from run]
  exact ⟨⟨status, re, outside, event⟩, rfl, rfl, job⟩

/-- … or an evicted one (R412). -/
theorem State.othersLose_endsSaved {s : State} {x : Saved} {die : BitVec 2} (jobs : s.dev.jobs = []) (evicted : s.evicted = [x])
    (takes : ∀ m, (x.ctxs.get m).takeOrder = []) (ends : x.job.endsWith die = true) (up : x.job.compl.getLsbD 63 = true → s.dev.hostLink = true) :
    let t := s.othersLose die
    s.recordsAbort t x.job 5 ∧ t.dev.jobs = [] ∧ t.evicted = [] ∧ t.job = s.job := by
  obtain ⟨⟨status, re, outside, event⟩, none_, left, job⟩ := State.abortSaved_one (reason := 5) evicted takes (by decide) up
  have run : s.othersLose die = { State.abortSaved 5 [x] s with
      evicted := [], dev := { (State.abortSaved 5 [x] s).dev with jobs := [] } } := by
    unfold State.othersLose
    rw [evicted, jobs, List.filter_cons_of_pos (p := fun x : Saved => x.job.endsWith die) ends, List.filter_nil, List.filter_nil]
    rw [State.abortOthers]
    dsimp only
    generalize State.abortSaved 5 [x] s = u at left none_ ⊢
    rw [left, none_, jobs]
    rfl
  intro t
  rw [show t = _ from run]
  generalize State.abortSaved 5 [x] s = u at status re outside event job ⊢
  exact ⟨⟨status, re, outside, event⟩, rfl, rfl, job⟩

/-! ## The reset of a cluster -/

theorem inCluster_iff {n : Nat} {k : BitVec 12} : inCluster n k = true ↔ k.toNat / 32 = n := decide_eq_true_iff

theorem any_inCluster {n : Nat} {ks : List (BitVec 12)} : ks.any (inCluster n) = true ↔ ∃ k ∈ ks, k.toNat / 32 = n := by
  rw [List.any_eq_true]
  exact exists_congr fun k => and_congr_right fun _ => inCluster_iff

/-- CLUSTER_RESET, of the cluster that the inbox names. -/
theorem State.exec_clusterReset {s : State} {r : HostReq} {l : List HostReq} (brought : s.inbox = r :: l) : exec .clusterReset s = .next (
    let t := State.abortOthers 5 (s.dev.jobs.filter fun j => !j.saved && j.job.cores.any (inCluster r.addr)) { s with inbox := l }
    if t.job.running = false ∨ ¬ (t.job.cores.any (inCluster r.addr)) then t
    else if inCluster r.addr t.core.num ∨ r.n ≠ 0 then t.abortCmds.abortJob 5
    else t.resetOther r.addr) :=
  exec_brought (e := .clusterReset) (k := fun r s =>
      let t := State.abortOthers 5 (s.dev.jobs.filter fun j => !j.saved && j.job.cores.any (inCluster r.addr)) s
      if t.job.running = false ∨ ¬ (t.job.cores.any (inCluster r.addr)) then t
      else if inCluster r.addr t.core.num ∨ r.n ≠ 0 then t.abortCmds.abortJob 5
      else t.resetOther r.addr) rfl brought

/-- No job of other cores has a core in the cluster. -/
theorem filter_inCluster_none {jobs : List OtherJob} {n : Nat} (none_ : ∀ j ∈ jobs, j.saved = false → ∀ k ∈ j.job.cores, ¬ k.toNat / 32 = n) :
    (jobs.filter fun j => !j.saved && j.job.cores.any (inCluster n)) = [] :=
  List.filter_eq_nil_iff.2 fun j hj h => by
    obtain ⟨kept, hit⟩ := (Bool.and_eq_true _ _).mp h
    obtain ⟨k, hk, there⟩ := any_inCluster.1 hit
    exact none_ j hj (by simpa using kept) k hk there

/-- A reset of a cluster of the only job of other cores (R412). -/
theorem State.exec_clusterReset_other {s : State} {r : HostReq} {l : List HostReq} (brought : s.inbox = r :: l) {j : OtherJob} (jobs : s.dev.jobs = [j])
    (kept : j.saved = false) (touched : ∃ k ∈ j.job.cores, k.toNat / 32 = r.addr) (idle : s.job.running = false) :
    exec .clusterReset s = .next (State.abortOthers 5 [j] { s with inbox := l }) := by
  have hit : (!j.saved && j.job.cores.any (inCluster r.addr)) = true := by
    rw [kept, any_inCluster.2 touched]
    rfl
  rw [State.exec_clusterReset brought, jobs, List.filter_cons_of_pos (p := fun j : OtherJob => !j.saved && j.job.cores.any (inCluster r.addr)) hit, List.filter_nil]
  have job : (State.abortOthers 5 [j] { s with inbox := l }).job = s.job := State.endOther_job { s with inbox := l } j _ 3 5
  exact congrArg Host.Outcome.next (if_pos (.inl (by rw [job, idle])))

/-- With no job of other cores in the cluster, what a reset does to the job that holds the core (R396, R412). -/
theorem State.exec_clusterReset_own {s : State} {r : HostReq} {l : List HostReq} (brought : s.inbox = r :: l)
    (others : ∀ j ∈ s.dev.jobs, j.saved = false → ∀ k ∈ j.job.cores, ¬ k.toNat / 32 = r.addr) : exec .clusterReset s = .next (
      if s.job.running = false ∨ ¬ ∃ k ∈ s.job.cores, k.toNat / 32 = r.addr then { s with inbox := l }
      else if s.core.num.toNat / 32 = r.addr ∨ r.n ≠ 0 then ({ s with inbox := l } : State).abortCmds.abortJob 5
      else ({ s with inbox := l } : State).resetOther r.addr) := by
  rw [State.exec_clusterReset brought, filter_inCluster_none others, State.abortOthers]
  dsimp only
  simp only [any_inCluster, inCluster_iff]

/-- What a job of this core sees of the reset of another cluster (R396). -/
theorem State.resetOther_does (s : State) (n : Nat) : let t := s.resetOther n
    t.mem = s.mem ∧ t.job = s.job ∧ t.inbox = s.inbox ∧ (∀ m q, (t.ctxAt m).reg q = (s.ctxAt m).reg q) ∧
      (∀ k, t.core.ports.get k = if (s.core.ports.get k).state = .route ∧ (s.core.ports.get k).rsrc.toNat / 32 = n then (s.core.ports.get k).abortRoute
        else s.core.ports.get k) ∧
      (∀ k : BitVec 2, (s.port k).state = .route → (s.port k).rsrc.toNat / 32 = n → 0 < (s.port k).given → .reclaimMessage k (s.port k).given ∈ t.agenda) ∧
      (∀ u ∈ s.core.mcasts, { u with resets := n :: u.resets, held := false } ∈ t.core.mcasts ∧ (u.held = true → .mcastHop u.ctx u.seq false ∈ t.agenda)) ∧
      ∀ m, (t.ctxAt m).send = if (s.ctxAt m).send.core.toNat / 32 = n then (s.ctxAt m).send.abort else (s.ctxAt m).send := by
  intro t
  have at_m (m : Fin 11) : t.ctxAt m = (if inCluster n (s.ctxAt m).send.core then { s.ctxAt m with send := (s.ctxAt m).send.abort } else s.ctxAt m).unholdInv := by
    refine (State.wake_ctxAt _ m).trans ?_
    rw [State.ctxAt, mapVec_get]
    rfl
  have agenda_of (e : Instr) (he : e ∈ ((([0, 1, 2, 3] : List (BitVec 2)).filter fun i =>
      decide ((s.port i).state = .route) && inCluster n (s.port i).rsrc && decide (0 < (s.port i).given)).map fun i =>
        Instr.reclaimMessage i (s.port i).given)) : e ∈ t.agenda := (State.wake_forwards _).posted e (List.mem_append_left _ he)
  refine ⟨rfl, rfl, rfl, fun m q => ?_, fun k => ?_, fun k route there given => ?_, fun u hu => ⟨?_, fun held => ?_⟩, fun m => ?_⟩
  · rw [at_m, Ctx.unholdInv_reg]
    split
    · exact Ctx.reg_congr rfl rfl rfl q
    · rfl
  · refine (mapVec_get _ s.core.ports k).trans ?_
    exact if_congr (and_congr_right fun _ => inCluster_iff) rfl rfl
  · refine agenda_of _ (List.mem_map.2 ⟨k, List.mem_filter.2 ⟨?_, ?_⟩, rfl⟩)
    · exact (by decide : ∀ k : BitVec 2, k ∈ ([0, 1, 2, 3] : List (BitVec 2))) k
    · rw [decide_eq_true route, inCluster_iff.2 there, decide_eq_true given]
      rfl
  · exact List.mem_map.2 ⟨{ u with resets := n :: u.resets }, List.mem_map.2 ⟨u, hu, rfl⟩, rfl⟩
  · refine List.mem_append_right _ (List.mem_map.2 ⟨{ u with resets := n :: u.resets }, List.mem_filter.2 ⟨List.mem_map.2 ⟨u, hu, rfl⟩, held⟩, rfl⟩)
  · rw [at_m]
    have unheld (c : Ctx) : c.unholdInv.send = c.send := rfl
    rw [unheld]
    by_cases there : (s.ctxAt m).send.core.toNat / 32 = n
    · rw [if_pos (inCluster_iff.2 there), if_pos there]
    · rw [if_neg (fun h => there (inCluster_iff.1 h)), if_neg there]

end Sys2Proof.Machine
end

section
/-! PROOF. Saving, restoring, accesses of other cores, and the loss of a die or a cluster (R152 to R159, R396, R412, R431). -/

namespace Sys2Proof.Machine

open Sys2Proof

/-- What CORE_SAVE holds of a core at rest (R61, R153). -/
theorem State.coreSave_holds {s : State} (running : s.job.running = true) (evicted : s.job.evicted = true) (ended : s.job.ended = false)
    (stopping : s.job.stopping = false) (quiet : s.saveQuiet) (drained : s.landing = false ∨ s.core.drained = true) (kept : s.core.matrix.kept = none)
    (writes : ∀ m, (s.ctxAt m).writes = []) : ∃ t x, exec .coreSave s = .next t ∧
      t.job = Job.none ∧ (∀ q, (∀ k ∈ s.job.claims, k.kind = .save → ∀ c ∈ s.job.cores, q < scratchKey c.toNat k.off ∨ scratchKey c.toNat k.off + k.bytes ≤ q) →
        q < hbmKey s.job.save.toNat ∨ hbmKey s.job.save.toNat + s.job.saveLen ≤ q → Memory.byte t.mem q = Memory.byte s.mem q) ∧ t.dev = s.dev ∧
      t.evicted = s.evicted ++ [x] ∧ (∀ m, t.ctxAt m = Ctx.reset) ∧ t.core.num = s.core.num ∧ t.core.counters = s.core.counters ∧
      x.job = { s.job with evicted := false } ∧ x.bar = s.bar ∧ x.regions = s.regions ∧ x.drapers = s.drapers ∧ x.full = s.full ∧ x.owned = s.core.matrix.own ∧
      x.core.matrix.own = false ∧ x.core.matrix.acc = s.core.matrix.acc ∧ x.core.streams = s.core.streams ∧ x.core.mbox = s.core.mbox ∧
      (∀ k b, (k, b) ∈ x.scratch ↔ (k, b) ∈ t.mem ∧ inScratch s.job.cores k = true) ∧
      ∀ m, (x.ctxs.get m).pc = (s.ctxAt m).pc ∧ (x.ctxs.get m).live = (s.ctxAt m).live ∧ (∀ r, (x.ctxs.get m).reg r = (s.ctxAt m).reg r) ∧
        (x.ctxs.get m).slots = (s.ctxAt m).slots ∧ (x.ctxs.get m).lc = (s.ctxAt m).lc ∧ (x.ctxs.get m).le = (s.ctxAt m).le ∧
        (x.ctxs.get m).traprec = (s.ctxAt m).traprec ∧ (x.ctxs.get m).wait = none ∧ (x.ctxs.get m).frame = [] ∧
        ((s.ctxAt m).frame ≠ [] → (x.ctxs.get m).refetch = true) := by
  obtain ⟨mem, filled, run⟩ := State.exec_coreSave running evicted ended stopping quiet drained kept
  refine ⟨_, _, run, rfl, fun q claims region => ?_, rfl, rfl, fun m => ?_, rfl, rfl, rfl, rfl, rfl, rfl, rfl, rfl, rfl, rfl, rfl, rfl, fun k b => List.mem_filter,
    fun m => ?_⟩
  · have bytes := State.fillSaveArea_byte claims region
    rw [filled] at bytes
    exact bytes
  · exact Vector.getElem_replicate ..
  · have saved : (({ s with mem } : State).savedJob.ctxs.get m) = (s.ctxAt m).saved := mapVec_get ..
    rw [saved, Ctx.saved_parts (writes m)]
    refine ⟨rfl, rfl, fun r => Ctx.reg_congr rfl rfl rfl r, rfl, rfl, rfl, rfl, rfl, rfl, fun frame => ?_⟩
    show ((s.ctxAt m).refetch || !(s.ctxAt m).frame.isEmpty) = true
    cases e : (s.ctxAt m).frame with
    | nil => exact absurd e frame
    | cons w ws => exact Bool.or_true _

theorem Ctx.restored_parts {cycle : Nat} {c d : Ctx} (same : d = { Ctx.restored cycle c with slots := d.slots }) :
    d.pc = c.pc ∧ d.live = c.live ∧ cycle < d.nextIssue ∧ ∀ r, d.reg r = c.reg r := by
  have late : cycle < Nat.max c.nextIssue (cycle + 1) := Nat.lt_of_lt_of_le (Nat.lt_succ_self cycle) (le_max_right c.nextIssue (cycle + 1))
  unfold Ctx.restored at same
  dsimp only at same
  generalize d.slots = slots at same
  subst same
  exact ⟨rfl, rfl, late, fun r => Ctx.reg_congr rfl rfl rfl r⟩

/-- What RESTORE puts back of a job without accesses or pending slots (R155, R228, R345). -/
theorem State.restore_puts {s : State} {x : Saved} (running : s.job.running = false) (next : nextRestored (s.evicted.filter s.restorable) = some x)
    (victims : s.victimsBack x.job = some []) (idle : ∀ m k, ((x.ctxs.get m).slots.get k).state ≠ .pending) (wf : Memory.wf x.scratch = true)
    (inside : ∀ c ∈ x.scratch, inScratch x.job.cores c.1 = true) : ∃ t, exec .restore s = .next t ∧
      t.job = x.job ∧ t.dev = s.dev.dropSlices x.job.cores ∧ t.evicted = s.evicted.erase x ∧ t.regions = x.regions ∧ t.drapers = x.drapers ∧ t.full = x.full ∧
      t.core.mbox = x.core.mbox ∧ t.core.streams = x.core.streams ∧ t.core.matrix.acc = x.core.matrix.acc ∧ t.bar.groups = x.bar.groups ∧
      t.bar.sstep = x.bar.sstep ∧ (∀ k, Memory.byte t.mem k = if inScratch x.job.cores k then Memory.byte x.scratch k else Memory.byte s.mem k) ∧
      (∀ m, (t.ctxAt m).pc = (x.ctxs.get m).pc ∧ (t.ctxAt m).live = (x.ctxs.get m).live ∧ s.cycle < (t.ctxAt m).nextIssue ∧
        ∀ r, (t.ctxAt m).reg r = (x.ctxs.get m).reg r) ∧
      (x.owned = true → t.core.matrix.own = false ∧ t.core.matrix.retake = true ∧ (s.core.matrix.otherOwner = false → .stationaryPairGrant ∈ t.agenda)) ∧
      t.core.matrix.otherOwner = s.core.matrix.otherOwner ∧ ∀ k, (x.core.chans.get k).cmds ≠ [] → .commandStart k ∈ t.agenda := by
  have run := State.exec_restore next victims
  rw [running, if_neg Bool.false_ne_true] at run
  obtain ⟨cs, alike, eq⟩ := State.restored_parts (s := { s with dev := s.dev.dropSlices x.job.cores }) idle
  have core : ((({ s with dev := s.dev.dropSlices x.job.cores } : State).putBack x).retakePair x.owned).core = { x.core with
      counters := s.core.counters, num := s.core.num, last := s.core.last,
      matrix := (if x.owned then { x.core.matrix with otherOwner := s.core.matrix.otherOwner, own := false, retake := true }
        else { x.core.matrix with otherOwner := s.core.matrix.otherOwner }) } := by
    unfold State.retakePair
    split <;> rfl
  have rest : ∃ k, (({ s with dev := s.dev.dropSlices x.job.cores } : State).putBack x).retakePair x.owned
      = { ({ s with dev := s.dev.dropSlices x.job.cores } : State).putBack x with core := k } := by
    unfold State.retakePair
    split
    · exact ⟨_, rfl⟩
    · exact ⟨_, rfl⟩
  obtain ⟨k, rest⟩ := rest
  rw [eq] at run
  dsimp only at run
  rw [rest] at run core
  dsimp only at core
  subst core
  unfold State.putBack at run
  dsimp only at run
  refine ⟨_, run, ?_, ?_, ?_, ?_, ?_, ?_, ?_, ?_, ?_, ?_, ?_, fun k => Memory.byte_putBack wf inside s.mem k, fun m => ?_, fun owned => ?_, ?_, fun k cmds => ?_⟩
  · rfl
  · rfl
  · rfl
  · rfl
  · rfl
  · rfl
  · rfl
  · rfl
  · dsimp only
    split <;> rfl
  · rfl
  · rfl
  · obtain ⟨same, -⟩ := alike m
    exact Ctx.restored_parts same
  · dsimp only
    rw [if_pos owned]
    refine ⟨rfl, rfl, fun free => List.mem_append_left _ (List.mem_append_right _ ?_)⟩
    unfold Matrix.next
    dsimp only
    rw [if_pos rfl, if_neg (by rw [free]; exact Bool.false_ne_true)]
    exact List.mem_singleton_self _
  · dsimp only
    split <;> rfl
  · refine List.mem_append_right _ (List.mem_map.2 ⟨k, List.mem_filter.2 ⟨List.mem_finRange k, ?_⟩, rfl⟩)
    simpa using cmds

/-- What other cores' accesses do here for the job that holds the core: each outcome is `remoteOp`'s, and the woken core has its registers (R154, R431). -/
theorem State.remote_goes {s u : State} {c : BitVec 12} {op : RemoteOp} (running : s.job.running = true)
    (go : s.saveBegun = false ∨ s.unitHas c s.job.jobid op = true) (does : s.remoteOp c s.job.jobid op = u) (regs : ∀ m r, (u.ctxAt m).reg r = (s.ctxAt m).reg r) :
    exec (.remoteAccess c s.job.jobid op) s = .next u.wake ∧ ∀ m r, (u.wake.ctxAt m).reg r = (s.ctxAt m).reg r :=
  ⟨by rw [State.exec_remote running go, does], fun m r => (u.wake_regs m r).trans (regs m r)⟩

/-- An operation that is under way at the unit (R374, R376). -/
theorem State.remote_underWay {s : State} {y : UnitOp} {table : Nat} (running : s.job.running = true) (unit : s.core.unit = [y]) (mine : y.jobid = s.job.jobid)
    (named : y.op.table = some table) :
    exec (.remoteAccess y.core s.job.jobid y.op) s = .next (if s.unitTurn y then s.unitStep y else s).wake := by
  have has : s.unitHas y.core s.job.jobid y.op = true := by
    unfold State.unitHas
    rw [unit, ← mine]
    simp
  rw [State.exec_remote running (.inr has), State.remoteOp_table named, ← mine, State.unitAccess_own unit]

/-- Settles O50: each event is given by its own lemma, and what an ending job leaves by the record it writes. -/
theorem jobsAreSavedRestoredAndLoseCores : Obligations.JobsAreSavedRestoredAndLoseCores := by
  unfold Obligations.JobsAreSavedRestoredAndLoseCores
  intro s quiet landed begun key aborts aborted
  have rest (q : quiet) (accs : ∀ a ∈ s.accs, (∃ t, a.op = .tagged t) ∨ a.retry ≠ none) : s.saveQuiet := by
    obtain ⟨ctxs, cmds, matrix, mcasts, routes, unit, halves⟩ := q
    refine ⟨fun m live => ?_, accs, cmds, matrix, mcasts, routes, unit, halves⟩
    obtain ⟨ending, sst, trap, ph, wait⟩ := ctxs m live
    exact ⟨Ctx.mustRun_false sst trap ph wait, ending⟩
  have begun_iff : s.saveBegun = true ↔ begun := State.saveBegun_iff
  refine ⟨?_, ?_, ?_, fun x => State.restorable_iff, ?_, ?_, ?_, ?_, ?_, ?_, fun seq => State.exec_retryResend_nothing, ?_, ?_, ?_, ?_, ?_⟩
  · rintro (off | off | off | off | busy)
    · exact State.coreSave_nothing (.inl off)
    · exact State.coreSave_nothing (.inr (.inl off))
    · exact State.coreSave_nothing (.inr (.inr (.inl off)))
    · exact State.coreSave_nothing (.inr (.inr (.inr (.inl off))))
    · exact State.coreSave_nothing (.inr (.inr (.inr (.inr (State.saveWaits_of busy)))))
  · intro running evicted ended stopping q
    refine ⟨fun accs away drained new => ?_, fun accs drained kept writes => ?_⟩
    · exact State.exec_coreSave_lands running evicted ended stopping (rest q accs) (State.landing_iff.2 away) drained new
    · refine State.coreSave_holds running evicted ended stopping (rest q (by rw [accs]; exact fun _ h => absurd h List.not_mem_nil)) ?_ kept writes
      refine drained.imp_left fun all => ?_
      rw [← Bool.not_eq_true]
      exact fun h => State.landing_iff.1 h all
  · rfl
  · intro none_
    refine State.exec_restore_none ?_
    rw [List.filter_eq_nil_iff.2 fun x hx => by rw [none_ x hx]; exact Bool.false_ne_true]
    rfl
  · intro x h hs next victims
    exact ⟨_, State.exec_restore_evicts next victims, s.evict_does (h :: hs)⟩
  · intro x next victims running
    rw [State.exec_restore next victims, running, if_pos rfl]
  · intro x next
    obtain ⟨mem, best⟩ := nextRestored_best next
    obtain ⟨mem, fit⟩ := List.mem_filter.1 mem
    exact ⟨mem, fit, fun y hy ok => BitVec.le_def.2 (prio_of_rank (best y (List.mem_filter.2 ⟨hy, ok⟩)))⟩
  · intro x running next victims accs idle wf inside
    exact State.restore_puts running next victims idle wf inside
  · intro a d one op retry after gated saving hashed snap clean
    obtain ⟨accs, mem, dev, regs⟩ := State.performAcc_stores (s := { s with accs := [{ a with retry := none }] }) (a := { a with retry := none }) op hashed snap clean
    refine ⟨_, State.exec_retryResend one op retry after gated saving, ?_, mem, dev, regs⟩
    rw [accs]
    simp
  · intro c o inside w regs
    refine ⟨?_, ?_, ?_, ?_, ?_⟩
    · intro op running yes new
      exact State.exec_remote_retry running (begun_iff.2 yes) new
    · intro op j running saved
      exact State.exec_remote_saved running saved
    · intro op j running other ring room
      refine ⟨_, State.exec_remote_other running other, ?_⟩
      rw [State.logAbout_lost other ring room]
      exact ⟨rfl, rfl, rfl, rfl, rfl, rfl, rfl, rfl⟩
    · intro running no good hashed snap
      have go (op : RemoteOp) : s.saveBegun = false ∨ s.unitHas c s.job.jobid op = true := .inl (by rw [← Bool.not_eq_true, begun_iff]; exact no)
      refine ⟨fun k => ?_, fun bs => ?_, fun f ty b clu clear => ?_, fun n full => ?_, fun n full takers => ?_, fun n v full => ?_, fun n v full takers => ?_,
        fun v b => ?_, fun op table named new => ?_⟩
      · obtain ⟨run, same⟩ := State.remote_goes running (go _) (State.remoteOp_read inside c s.job.jobid good k) fun _ _ => rfl
        exact ⟨_, run, same, rfl, rfl⟩
      · obtain ⟨e, does⟩ := State.remoteOp_write inside c s.job.jobid hashed snap bs
        obtain ⟨run, same⟩ := State.remote_goes running (go _) does fun _ _ => rfl
        exact ⟨_, run, same, rfl, rfl⟩
      · cases clu with
        | false =>
          obtain ⟨e, does⟩ := State.remoteOp_atomic inside c s.job.jobid good hashed snap f ty b
          obtain ⟨run, same⟩ := State.remote_goes running (go _) does fun _ _ => rfl
          exact ⟨_, run, same, rfl, fun _ => ⟨rfl, rfl⟩, fun h => by cases h⟩
        | true =>
          obtain ⟨run, same⟩ := State.remote_goes running (go _) (State.remoteOp_atomic_reads inside c s.job.jobid good f ty b (clear rfl)) fun _ _ => rfl
          exact ⟨_, run, same, rfl, fun h => absurd h.symm Bool.false_ne_true, fun _ => ⟨rfl, rfl, (State.wake_forwards _).posted _ (List.mem_append_right _ (List.mem_singleton_self _))⟩⟩
      · obtain ⟨run, same⟩ := State.remote_goes running (go _) (State.remoteOp_ftake_full inside c s.job.jobid n full) fun _ _ => rfl
        exact ⟨_, run, same, rfl, State.isFull_setFull_self s w false, rfl, rfl⟩
      · obtain ⟨run, same⟩ := State.remote_goes running (go _) (State.remoteOp_ftake_empty inside c s.job.jobid n full takers) fun _ _ => rfl
        exact ⟨_, run, same, rfl, rfl, rfl⟩
      · obtain ⟨run, same⟩ := State.remote_goes running (go _) (State.remoteOp_fput_full inside c s.job.jobid n v full) fun _ _ => rfl
        exact ⟨_, run, same, rfl, full, rfl⟩
      · obtain ⟨e, l, does⟩ := State.remoteOp_fput_empty inside c s.job.jobid hashed snap n v full takers
        obtain ⟨run, same⟩ := State.remote_goes running (go _) does fun _ _ => rfl
        exact ⟨_, run, same, State.isFull_setFull_self _ w true, rfl⟩
      · obtain ⟨e, l, does⟩ := State.remoteOp_finit inside c s.job.jobid hashed snap v b
        obtain ⟨run, same⟩ := State.remote_goes running (go _) does fun _ _ => rfl
        exact ⟨_, run, same, State.isFull_setFull_self _ w b, rfl⟩
      · have does := (State.remoteOp_table named s c s.job.jobid).trans (State.unitAccess_new new)
        obtain ⟨run, same⟩ := State.remote_goes running (go _) does fun _ _ => rfl
        exact ⟨_, run, same, rfl, rfl, rfl⟩
    · intro y table running unit core mine named
      subst core
      have run := State.remote_underWay running unit mine named
      refine ⟨fun turn => ?_, fun turn gone => ?_, fun T rs v h turn at_ keys => ?_⟩
      · rw [turn, if_neg Bool.false_ne_true] at run
        exact ⟨_, run, s.wake_regs, rfl, unit⟩
      · rw [turn, if_pos rfl, show s.unitStep y = (s.dropUnit y).answer [] from by
          unfold State.unitStep
          rw [named, Option.bind_some, gone]] at run
        refine ⟨_, run, State.wake_regs _, rfl, ?_, rfl⟩
        show s.core.unit.erase y = []
        rw [unit, List.erase_cons_head]
      · intro P left now did
        have turns : now = nextBucket T left := (nextBucket_eq T left).symm
        obtain ⟨ctxs, does⟩ := State.unitStep_runs unit named at_ keys (by rw [← did, turns])
        rw [turn, if_pos rfl, does] at run
        obtain ⟨all, some_⟩ := length_filter_le_iff (fun x : PhUpdate => decide (some (T.home x.key) = left.head?.map fun x => T.home x.key)) left
        by_cases le : left.length ≤ now.length
        · rw [show ite _ _ _ = _ from if_pos (show left.length ≤ (nextBucket T left).length from turns ▸ le)] at run
          exact ⟨_, run, fun m r => (State.wake_regs _ m r).trans (congrArg (fun v : Vector Ctx 11 => (v.get m).reg r) ctxs), rfl, fun _ => ⟨rfl, rfl⟩, fun more => absurd le (some_ more)⟩
        · rw [show ite _ _ _ = _ from if_neg (show ¬ left.length ≤ (nextBucket T left).length from turns ▸ le)] at run
          exact ⟨_, run, fun m r => (State.wake_regs _ m r).trans (congrArg (fun v : Vector Ctx 11 => (v.get m).reg r) ctxs), rfl, fun done => absurd (all done) le, fun _ => by rw [turns]; rfl⟩
  · intro y hy one apart hashed snap
    exact State.exec_halfWritten hy one apart hashed snap
  · intro die off mark others
    refine ⟨fun j => Job.endsWith_iff, fun j n takes => Job.without_does takes die n, fun other kept => ?_, fun j jobs evicted ends up idle => ?_, fun x jobs evicted takes ends up idle => ?_,
      fun running ends evicted jobs accs takes up => ?_, fun other running touched goes mine => ?_, fun other running touched goes away => ?_⟩
    · obtain ⟨-, -, jobs, evicted⟩ := State.othersLose_goOn (s := s.fence die) other.1 other.2
      obtain ⟨same, fenced, job, -⟩ := State.fence_goOn other.1 other.2
      refine ⟨_, State.exec_dieFenced_spared ?_, same, fenced, jobs, evicted⟩
      rw [job]
      exact kept.imp_right fun none_ ⟨k, hk, hit⟩ => none_ k hk hit
    · obtain ⟨⟨status, re, outside, event⟩, none_, left, job⟩ := State.othersLose_endsOther (s := s.fence die) jobs evicted ends up
      exact ⟨_, State.exec_dieFenced_spared (.inl (by rw [job]; exact idle)), left, none_, status, re, outside, event⟩
    · obtain ⟨⟨status, re, outside, event⟩, none_, left, job⟩ := State.othersLose_endsSaved (s := s.fence die) jobs evicted takes ends up
      exact ⟨_, State.exec_dieFenced_spared (.inl (by rw [job]; exact idle)), left, none_, status, re, outside, event⟩
    · obtain ⟨⟨status, re, outside, event⟩, stopped, live, regs⟩ := State.abortJob_recordsAbort (s := s.fence die) (reason := 5) running accs takes (by decide) up
      exact ⟨_, State.exec_dieFenced_ends jobs evicted running ends, stopped, live, regs, status, re, outside, event⟩
    · obtain ⟨same, fenced, job, dieOf, cycle, mem⟩ := State.fence_goOn other.1 other.2
      have run := State.exec_dieFenced_goes job running touched goes
      obtain ⟨none_, stays, live, dies, j, hj, kept, left⟩ := State.leaveJob_parts ((s.fence die).othersLose die) die
      refine ⟨_, run.trans (congrArg Host.Outcome.next (if_pos (dieOf.trans mine))), none_, stays.trans mem, ?_, live, j, hj, kept, by rw [left, job, cycle]⟩
      show die ∈ _
      rw [dies]
      exact fenced
    · obtain ⟨same, fenced, job, dieOf, cycle, mem⟩ := State.fence_goOn other.1 other.2
      have run := State.exec_dieFenced_goes job running touched goes
      refine ⟨_, run.trans (congrArg Host.Outcome.next (if_neg fun h => away (dieOf.symm.trans h))),
        (congrArg (fun t : State => { t with dev := s.dev, job := s.job }) same :), fenced, ?_⟩
      show Job.without _ _ _ = _
      rw [job, cycle]
  · exact fun none_ => exec_quiet (k := fun r s =>
      let t := State.abortOthers 5 (s.dev.jobs.filter fun j => !j.saved && j.job.cores.any (inCluster r.addr)) s
      if t.job.running = false ∨ ¬ (t.job.cores.any (inCluster r.addr)) then t
      else if inCluster r.addr t.core.num ∨ r.n ≠ 0 then t.abortCmds.abortJob 5
      else t.resetOther r.addr) rfl none_
  · intro r l brought off others
    refine ⟨fun other spared => ?_, fun j jobs evicted kept touched up idle => ?_, fun running touched lost evicted jobs accs takes up => ?_,
      fun other running touched away kept => ?_⟩
    · rw [State.exec_clusterReset_own brought other]
      exact congrArg Host.Outcome.next (if_pos (spared.imp_right fun none_ ⟨k, hk, hit⟩ => none_ k hk hit))
    · obtain ⟨⟨status, re, outside, event⟩, none_, left, job⟩ := State.abortOthers_one (s := { s with inbox := l }) (reason := 5) jobs (by decide) up
      have run := State.exec_clusterReset_other brought jobs kept touched idle
      exact ⟨_, run, left.trans evicted, none_, status, re, outside, event⟩
    · have none_ : ∀ j ∈ s.dev.jobs, j.saved = false → ∀ k ∈ j.job.cores, ¬ k.toNat / 32 = r.addr := by
        rw [jobs]
        exact fun _ h => absurd h List.not_mem_nil
      obtain ⟨⟨status, re, outside, event⟩, stopped, live, regs⟩ := State.abortJob_recordsAbort (s := ({ s with inbox := l } : State).abortCmds) (reason := 5) running
        (congrArg (List.map fun a : Acc => { a with held := false }) accs :) (fun m => (congrArg Ctx.takeOrder (State.abortCmds_ctxAt _ m)).trans (takes m)) (by decide) up
      have run := State.exec_clusterReset_own brought none_
      rw [if_neg (by simpa [running] using touched), if_pos lost] at run
      exact ⟨_, run, stopped, live, fun m q => (regs m q).trans ((congrArg (fun c : Ctx => c.reg q) (State.abortCmds_ctxAt _ m)).trans (Ctx.unholdInv_reg _ q)),
        status, re, outside, event⟩
    · have run := State.exec_clusterReset_own brought other
      rw [if_neg (by simpa [running] using touched), if_neg (by simpa [kept] using away)] at run
      exact ⟨_, run, ({ s with inbox := l } : State).resetOther_does r.addr⟩

end Sys2Proof.Machine
end

section
/-! SUPPORT. The head of a queue: when it is ready, what refuses or cancels it, and whom it may evict (R152, R155 to R157, R405 to R411). -/

namespace Sys2Proof.Machine

open Sys2Proof

/-! ## Readiness and rank -/

theorem jobQueue_iff {j : BitVec 32} {n : Nat} : jobQueue j = n ↔ j.toNat / 2 ^ 24 = n := by
  have := j.isLt
  unfold jobQueue natBits
  omega

theorem State.savedHead_none {s : State} {n : Nat} : s.savedHead n = none ↔
    (∀ e ∈ s.evicted, e.job.jobid.toNat / 2 ^ 24 ≠ n) ∧ ∀ j ∈ s.dev.jobs, j.saved = true → j.job.jobid.toNat / 2 ^ 24 ≠ n := by
  unfold State.savedHead State.savedOf
  rw [List.getLast?_eq_none_iff, List.filter_eq_nil_iff]
  refine ⟨fun all => ⟨fun e he eq => ?_, fun j hj saved eq => ?_⟩, fun ⟨evicted, jobs⟩ x hx eq => ?_⟩
  · exact all (e.job, true) (List.mem_append_right _ (List.mem_map.2 ⟨e, he, rfl⟩)) (decide_eq_true (jobQueue_iff.2 eq))
  · exact all (j.job, false) (List.mem_append_left _ (List.mem_map.2 ⟨j, List.mem_filter.2 ⟨hj, saved⟩, rfl⟩)) (decide_eq_true (jobQueue_iff.2 eq))
  · have queue := jobQueue_iff.1 (of_decide_eq_true eq)
    rcases List.mem_append.1 hx with h | h
    · obtain ⟨j, hj, rfl⟩ := List.mem_map.1 h
      obtain ⟨hj, saved⟩ := List.mem_filter.1 hj
      exact jobs j hj saved queue
    · obtain ⟨e, he, rfl⟩ := List.mem_map.1 h
      exact evicted e he queue

theorem State.headReady_iff {s : State} {n : Nat} : s.headReady n = true ↔
    s.dev.power = .d0 ∧ s.dev.elbase ≠ 0 ∧ (s.dev.queue n).en = true ∧ (s.dev.queue n).td = false ∧ (s.dev.queue n).head ≠ (s.dev.queue n).accepted ∧
      (∀ e ∈ s.evicted, e.job.jobid.toNat / 2 ^ 24 ≠ n) ∧ ∀ j ∈ s.dev.jobs, j.saved = true → j.job.jobid.toNat / 2 ^ 24 ≠ n := by
  rw [← State.savedHead_none]
  unfold State.headReady
  dsimp only
  simp only [Bool.and_eq_true, decide_eq_true_iff, Bool.not_eq_true', Option.isNone_iff_eq_none, and_assoc]

theorem State.outranked_iff {s : State} {h : Head} : s.outranked h = true ↔
    ∃ m < 256, ∃ y, s.headOf m = some y ∧ h.rank < y.rank ∧ ∃ d ∈ y.dies, d ∈ h.dies := by
  unfold State.outranked
  simp only [List.any_eq_true, List.mem_range, Option.any_eq_true, Bool.and_eq_true, decide_eq_true_iff]

theorem rankOf_lt_iff {e g m k : Nat} (hm : m < 256) (hk : k < 256) : rankOf e m < rankOf g k ↔ e < g ∨ e = g ∧ k < m := by
  unfold rankOf
  omega

/-! ## Refusal and dependences -/

theorem Packet.badFields_iff {p : Packet} : p.badFields = true ↔ p.dword0.testBit 63 = true ∨ natBits p.dword0 24 16 ≠ 0 ∨ natBits p.dword0 9 0 ≠ 0 ∨
    natBits p.dword0 35 34 = 3 ∨ 23 < natBits p.dword0 33 29 ∨ 10 < natBits p.dword0 28 25 ∨ p.code.toNat % 4 ≠ 0 ∨ p.compl.toNat % 64 ≠ 0 ∨
    (p.compl.getLsbD 63 = false ∧ 2 ^ 40 ≤ p.compl.toNat) ∨ p.res % 64 ≠ 0 ∨ 2 ^ 40 ≤ p.res ∨ natBits p.root.toNat 63 40 ≠ 0 ∨ natBits p.root.toNat 11 0 ≠ 0 := by
  unfold Packet.badFields Packet.shape Packet.prio Packet.helpers
  simp only [Bool.or_eq_true, Bool.and_eq_true, decide_eq_true_iff, Bool.not_eq_true', or_assoc]

/-- Outside reason 1, a packet's COUNT matches its SHAPE exactly when it is of one of the three forms (R157). -/
theorem Packet.badShape_iff {p : Packet} (fields : p.badFields = false) : p.badShape = false ↔
    (natBits p.dword0 35 34 = 0 ∧ (p.count = 1 ∨ p.count = 2 ∨ p.count = 4 ∨ p.count = 8 ∨ p.count = 16)) ∨
      (natBits p.dword0 35 34 = 1 ∧ p.count % 32 = 0 ∧ 32 ≤ p.count ∧ p.count ≤ 768) ∨
      (natBits p.dword0 35 34 = 2 ∧ p.count % 768 = 0 ∧ 768 ≤ p.count ∧ p.count ≤ 3072) := by
  have three : p.shape ≠ 3 := fun h => by
    have bad := Packet.badFields_iff.2 (.inr (.inr (.inr (.inl h))))
    rw [fields] at bad
    cases bad
  have four : p.shape < 4 := Nat.mod_lt _ (by decide)
  have shape : natBits p.dword0 35 34 = p.shape := rfl
  unfold Packet.badShape
  rw [shape]
  generalize p.count = n
  generalize p.shape = k at three four
  have cases_ : k = 0 ∨ k = 1 ∨ k = 2 := by omega
  rcases cases_ with rfl | rfl | rfl
  · simp
    omega
  · simp
    omega
  · simp
    omega

/-- The reasons 1 and 2 that a packet's own fields give come before the others (R409). -/
theorem State.refusal_fields {s : State} {p : Packet} (bad : p.badFields = true) (clash : Bool) : s.refusal p clash = some 1 := by
  unfold State.refusal
  exact if_pos bad

theorem State.refusal_shape {s : State} {p : Packet} (fields : p.badFields = false) (bad : p.badShape = true) (clash : Bool) : s.refusal p clash = some 2 := by
  unfold State.refusal
  dsimp only
  rw [if_neg (by rw [fields]; exact Bool.false_ne_true), if_pos bad]

/-- A packet that nothing else refuses is refused for an event that is PENDING for another (R409). -/
theorem State.refusal_clash {s : State} {p : Packet} (good : s.refusal p false = none) : s.refusal p true = some 7 := by
  unfold State.refusal at good ⊢
  dsimp only at good ⊢
  split at good
  · cases good
  next fields =>
    rw [if_neg fields]
    split at good
    · cases good
    next shape =>
      rw [if_neg shape]
      split at good
      · cases good
      next block =>
        rw [if_neg block]
        split at good
        · cases good
        next claims =>
          rw [if_neg claims]
          split at good
          · cases good
          next save =>
            rw [if_neg save]
            split at good
            · cases good
            next slots => rw [if_neg slots, if_pos rfl]

/-- What a packet that is not refused has passed. -/
theorem State.refusal_none {s : State} {p : Packet} {clash : Bool} (good : s.refusal p clash = none) : p.badFields = false ∧ s.badBlock (s.blockOf p) = false := by
  unfold State.refusal at good
  dsimp only at good
  split at good
  · cases good
  next fields =>
    split at good
    · cases good
    · split at good
      · cases good
      next block => exact ⟨by simpa using fields, by simpa using block⟩

theorem State.depFailed_iff {s : State} {p : Packet} : s.depFailed p = true ↔ ∃ j < 4, natBits p.deps (16 * j + 14) (16 * j) ≠ 0 ∧
    p.deps.testBit (16 * j + 15) = false ∧ Sparse.get EventState.done s.dev.events (natBits p.deps (16 * j + 14) (16 * j)) = .failed := by
  unfold State.depFailed Packet.dep
  simp only [List.any_eq_true, List.mem_range, Bool.and_eq_true, decide_eq_true_iff, Bool.not_eq_true', and_assoc]

theorem State.depsMet_iff {s : State} {p : Packet} : s.depsMet p = true ↔ ∀ j < 4, natBits p.deps (16 * j + 14) (16 * j) = 0 ∨
    Sparse.get EventState.done s.dev.events (natBits p.deps (16 * j + 14) (16 * j)) = .done ∨
    (p.deps.testBit (16 * j + 15) = true ∧ Sparse.get EventState.done s.dev.events (natBits p.deps (16 * j + 14) (16 * j)) = .failed) := by
  unfold State.depsMet Packet.dep
  simp only [List.all_eq_true, List.mem_range, Bool.or_eq_true, Bool.and_eq_true, decide_eq_true_iff, or_assoc]

/-! ## Victims (R152) -/

/-- As few victims as do, in their order. -/
theorem leastVictims_some {v w : List Holder} {fits : List Holder → Bool} (h : leastVictims v fits = some w) :
    ∃ k, w = v.take k ∧ fits w = true ∧ ∀ j < k, fits (v.take j) = false := by
  unfold leastVictims at h
  obtain ⟨k, found, rfl⟩ := Option.map_eq_some_iff.1 h
  obtain ⟨fit, -, least⟩ := List.find?_range_eq_some.1 found
  exact ⟨k, rfl, fit, fun j hj => by simpa using least j hj⟩

/-- None where all would not suffice. -/
theorem leastVictims_none {v : List Holder} {fits : List Holder → Bool} (h : leastVictims v fits = none) (k : Nat) : fits (v.take k) = false := by
  unfold leastVictims at h
  have none_ := List.find?_range_eq_none.1 (Option.map_eq_none_iff.1 h)
  by_cases inside : k < v.length + 1
  · simpa using none_ k inside
  · have whole := none_ v.length (Nat.lt_succ_self _)
    rw [List.take_of_length_le (by omega)]
    rw [List.take_length] at whole
    simpa using whole

theorem State.mem_lowerHolders {s : State} {prio : Nat} {may : BitVec 12 → Bool} {h : Holder} (mem : h ∈ s.lowerHolders prio may) :
    h.movable = true ∧ h.prio < prio ∧ ∃ c ∈ h.cores, may c = true := by
  unfold State.lowerHolders at mem
  obtain ⟨-, fit⟩ := List.mem_filter.1 ((List.perm_insertionSort _ _).mem_iff.1 mem)
  simpa [and_assoc] using fit

theorem State.lowerHolders_sorted (s : State) (prio : Nat) (may : BitVec 12 → Bool) :
    (s.lowerHolders prio may).Pairwise fun a b => a.prio < b.prio ∨ a.prio = b.prio ∧ b.start ≤ a.start := by
  have total : Std.Total fun a b : Holder => a.prio < b.prio ∨ a.prio = b.prio ∧ b.start ≤ a.start := ⟨fun a b => by omega⟩
  have trans_ : IsTrans Holder fun a b => a.prio < b.prio ∨ a.prio = b.prio ∧ b.start ≤ a.start := ⟨fun a b c => by omega⟩
  exact List.pairwise_insertionSort _ _

theorem State.victimsBack_some {s : State} {j : Job} {v : List Holder} (h : s.victimsBack j = some v) :
    (∀ h ∈ v, h.movable = true ∧ h.prio < j.prio.toNat ∧ ∃ c ∈ h.cores, c ∈ j.cores) ∧ ∀ c ∈ j.cores, s.coreOpen v c = true := by
  obtain ⟨k, rfl, fit, -⟩ := leastVictims_some h
  refine ⟨fun x hx => ?_, List.all_eq_true.1 fit⟩
  obtain ⟨movable, low, c, hc, mine⟩ := State.mem_lowerHolders (List.mem_of_mem_take hx)
  exact ⟨movable, low, c, hc, of_decide_eq_true mine⟩

/-- What the eviction of victims changes, whole (R152). -/
theorem State.evict_all (s : State) (v : List Holder) : let t := s.evict v
    { t with dev := s.dev, job := s.job, agenda := s.agenda } = s ∧
      t.dev = { s.dev with jobs := s.dev.jobs.map fun j =>
        if j.saved = false ∧ v.any (fun x => !x.ours && decide (x.jobid = j.job.jobid)) = true
          then { j with saved := true, scratch := s.mem.filter fun c => inScratch j.job.cores c.1 } else j } ∧
      t.job = { s.job with evicted := s.job.evicted || v.any (·.ours) } ∧
      t.agenda = if v.any (·.ours) ∧ s.job.evicted = false then s.agenda ++ [.coreSave] else s.agenda := by
  intro t
  have same {j : Job} {b : Bool} (e : j.evicted = b) : j = { j with evicted := b } := by
    subst e
    rfl
  have jobs : (s.dev.jobs.map fun j : OtherJob => if !j.saved && (v.any fun h => !h.ours && decide (h.jobid = j.job.jobid)) then j.save s.mem else j) =
      s.dev.jobs.map fun j : OtherJob => if j.saved = false ∧ v.any (fun x => !x.ours && decide (x.jobid = j.job.jobid)) = true
          then { j with saved := true, scratch := s.mem.filter fun c => inScratch j.job.cores c.1 } else j := by
    refine List.map_congr_left fun j _ => if_congr ?_ rfl rfl
    rw [Bool.and_eq_true, Bool.not_eq_true']
  have eq : t = s.evict v := rfl
  unfold State.evict at eq
  dsimp only at eq
  rw [jobs] at eq
  rw [eq]
  cases e : s.job.evicted with
  | false =>
    cases any : v.any (·.ours) with
    | true => exact ⟨rfl, rfl, rfl, rfl⟩
    | false =>
      exact ⟨rfl, rfl, same e, rfl⟩
  | true =>
    rw [if_neg (by rintro ⟨-, off⟩; cases off), if_neg (by rintro ⟨-, off⟩; cases off)]
    exact ⟨rfl, rfl, same e, rfl⟩

end Sys2Proof.Machine
end

section
/-! SUPPORT. What a launch leaves (R21, R78, R151, R407, R408): the scratchpads of the job's cores, this core, and the list of other cores' jobs. -/

namespace Sys2Proof.Machine

open Sys2Proof

/-! ## The image in the scratchpads (R78) -/

theorem inScratch_iff {cs : List (BitVec 12)} (cores : ∀ c ∈ cs, c.toNat < Config.cores) {k : Nat} :
    inScratch cs k = true ↔ ∃ c ∈ cs, scratchKey c.toNat 0 ≤ k ∧ k < scratchKey c.toNat 0 + 0x80000 := by
  unfold inScratch scratchKey
  simp only [Bool.and_eq_true, decide_eq_true_iff, Config.scratchBase, Config.scratchBytes, Config.cores] at cores ⊢
  constructor
  · rintro ⟨⟨low, high⟩, mem⟩
    refine ⟨_, mem, ?_⟩
    rw [BitVec.toNat_ofNat, Nat.mod_eq_of_lt (by omega)]
    omega
  · rintro ⟨c, hc, low, high⟩
    have small := cores c hc
    have same : BitVec.ofNat 12 ((k - 2 ^ 60) / 0x80000) = c := BitVec.eq_of_toNat_eq (by
      rw [BitVec.toNat_ofNat, Nat.mod_eq_of_lt (by omega)]
      omega)
    exact ⟨⟨by omega, by omega⟩, by rw [same]; exact hc⟩

theorem inScratch_scratchKey {cs : List (BitVec 12)} (cores : ∀ c ∈ cs, c.toNat < Config.cores) {c : BitVec 12} (mem : c ∈ cs) {o : Nat} (inside : o < 0x80000) :
    inScratch cs (scratchKey c.toNat o) = true :=
  (inScratch_iff cores).2 ⟨c, mem, Nat.le_add_right _ _, Nat.add_lt_add_left inside _⟩

/-- The offset of a key in the scratchpad that holds it. -/
def scratchOffset (k : Nat) : Nat := (k - Config.scratchBase) % Config.scratchBytes

theorem scratchOffset_key (c : Nat) {o : Nat} (inside : o < 0x80000) : scratchOffset (scratchKey c o) = o := by
  unfold scratchOffset scratchKey
  dsimp only [Config.scratchBase, Config.scratchBytes]
  omega

theorem scratchOffset_of_le {c k : Nat} (low : scratchKey c 0 ≤ k) (high : k < scratchKey c 0 + 0x80000) : k - scratchKey c 0 = scratchOffset k := by
  unfold scratchOffset
  unfold scratchKey at low high ⊢
  dsimp only [Config.scratchBase, Config.scratchBytes] at low high ⊢
  omega

/-- The image is written to every core's scratchpad, one after the other. -/
theorem byte_writeImages {image : List Byte} (fits : image.length ≤ 0x80000) : ∀ {cs : List (BitVec 12)}, (∀ c ∈ cs, c.toNat < Config.cores) →
    ∀ (m : List Host.Cell) (k : Nat), Memory.byte (cs.foldl (fun m c => Memory.write m (scratchKey c.toNat 0) image) m) k =
      if inScratch cs k = true ∧ scratchOffset k < image.length then image.getD (scratchOffset k) 0 else Memory.byte m k
  | [], cores, m, k => by
    rw [if_neg (fun h => by obtain ⟨c, hc, -⟩ := (inScratch_iff cores).1 h.1; exact absurd hc List.not_mem_nil)]
    rfl
  | c :: cs, cores, m, k => by
    have rest : ∀ d ∈ cs, d.toNat < Config.cores := fun d hd => cores d (List.mem_cons_of_mem _ hd)
    rw [List.foldl_cons, byte_writeImages fits rest, Memory.byte_write]
    by_cases later : inScratch cs k = true ∧ scratchOffset k < image.length
    · obtain ⟨d, hd, there⟩ := (inScratch_iff rest).1 later.1
      rw [if_pos later, if_pos ⟨(inScratch_iff cores).2 ⟨d, List.mem_cons_of_mem _ hd, there⟩, later.2⟩]
    · rw [if_neg later]
      by_cases here : scratchKey c.toNat 0 ≤ k ∧ k < scratchKey c.toNat 0 + image.length
      · have offset := scratchOffset_of_le here.1 (by omega)
        rw [if_pos here, if_pos ⟨(inScratch_iff cores).2 ⟨c, List.mem_cons_self, here.1, by omega⟩, by omega⟩, offset]
      · rw [if_neg here, if_neg]
        rintro ⟨inside, short⟩
        obtain ⟨d, hd, low, high⟩ := (inScratch_iff cores).1 inside
        rcases List.mem_cons.1 hd with rfl | hd
        · have offset := scratchOffset_of_le low high
          exact here ⟨low, by omega⟩
        · exact later ⟨(inScratch_iff rest).2 ⟨d, hd, low, high⟩, short⟩

/-- The image lies in zeroed scratchpads, and memory elsewhere stays. -/
theorem byte_launchMemory {image : List Byte} (fits : image.length ≤ 0x80000) {cs : List (BitVec 12)} (cores : ∀ c ∈ cs, c.toNat < Config.cores)
    (m : List Host.Cell) : (∀ c ∈ cs, ∀ o < 0x80000, Memory.byte (launchMemory m cs image) (scratchKey c.toNat o) = image.getD o 0) ∧
      ∀ k, inScratch cs k = false → Memory.byte (launchMemory m cs image) k = Memory.byte m k := by
  have filtered (k : Nat) : Memory.byte (m.filter fun x => !inScratch cs x.1) k = if !inScratch cs k then Memory.byte m k else Memory.unlisted :=
    Sparse.get_filter (d := Memory.unlisted) (fun k => !inScratch cs k) m k
  unfold launchMemory
  refine ⟨fun c hc o inside => ?_, fun k out => ?_⟩
  · have mine := inScratch_scratchKey cores hc inside
    rw [byte_writeImages fits cores, filtered, mine, scratchOffset_key c.toNat inside]
    by_cases short : o < image.length
    · rw [if_pos ⟨rfl, short⟩]
    · rw [if_neg (fun h => short h.2), List.getD_eq_default _ _ (by omega)]
      rfl
  · rw [byte_writeImages fits cores, filtered, out, if_neg (by rintro ⟨h, -⟩; cases h)]
    rfl

/-- The parts of a translated range have its length together. -/
theorem State.readThrough_sum (s : State) (die root : Nat) (wr : Bool) : ∀ (fuel va n : Nat) {l : List (Nat × Nat)},
    s.readThrough die root wr fuel va n = some l → (l.map (·.2)).sum = n
  | 0, va, n, l, h => by
    unfold State.readThrough at h
    split at h
    next zero =>
      cases h
      exact zero.symm
    · cases h
  | fuel + 1, va, n, l, h => by
    unfold State.readThrough at h
    split at h
    next zero =>
      cases h
      exact zero.symm
    · split at h
      · cases h
      · dsimp only at h
        split at h
        · cases h
        · split at h
          · cases h
          · obtain ⟨rest, there, rfl⟩ := Option.map_eq_some_iff.1 h
            have sum := State.readThrough_sum s die root wr fuel _ _ there
            rw [List.map_cons, List.sum_cons, sum]
            exact Nat.add_sub_cancel' (Nat.min_le_left ..)

theorem State.length_partBytes (s : State) (ps : List (Nat × Nat)) : (s.partBytes ps).length = (ps.map (·.2)).sum := by
  unfold State.partBytes State.peek
  rw [List.length_flatMap]
  simp only [Memory.length_read]

/-- The image of a packet that is not refused fits a scratchpad (R408). -/
theorem State.launchImage_fits {s : State} {p : Packet} {clash : Bool} (good : s.refusal p clash = none) (die : Nat) :
    (s.launchImage p die (s.blockOf p)).length ≤ 0x80000 := by
  obtain ⟨-, block⟩ := State.refusal_none good
  have size : blockField (s.blockOf p) 0x148 ≤ 0x80000 := by
    unfold State.badBlock at block
    dsimp only at block
    simp only [Bool.or_eq_false_iff, decide_eq_false_iff_not] at block
    omega
  unfold State.launchImage
  rw [State.length_partBytes]
  cases e : s.parts p die (BitVec.ofNat 64 (blockField (s.blockOf p) 0x140)) (blockField (s.blockOf p) 0x148) with
  | none => exact Nat.zero_le _
  | some l =>
    have sum := s.readThrough_sum _ _ _ _ _ _ e
    exact sum.le.trans size

/-! ## The start on this core and on others (R21) -/

/-- A log entry changes the log's fields and memory alone. -/
theorem State.logFor_parts (s : State) (jobid : BitVec 32) (sstep cls cause source : Nat) (detail : BitVec 32) (addr : Word) :
    ∃ lost elprod mem, s.logFor jobid sstep cls cause source detail addr = { s with dev := { s.dev with lost, elprod }, mem } := by
  unfold State.logFor
  dsimp only
  split
  · exact ⟨_, s.dev.elprod, s.mem, rfl⟩
  · exact ⟨s.dev.lost, _, _, rfl⟩

theorem State.logEntry_parts (s : State) (cls cause source : Nat) (detail : BitVec 32) (addr : Word) :
    ∃ lost elprod mem logged, s.logEntry true cls cause source detail addr = { s with
      dev := { s.dev with lost, elprod },
      mem, job := { s.job with logged } } := by
  unfold State.logEntry
  rw [if_pos rfl]
  obtain ⟨lost, elprod, mem, eq⟩ := s.logFor_parts s.job.jobid (sstepField s.bar.sstep) cls cause source detail addr
  rw [eq]
  exact ⟨lost, elprod, mem, s.job.logged + 1, rfl⟩

/-- The index of this core among the logical cores of a job (R160). -/
def State.logicalIndex (s : State) (p : Packet) (cs : List (BitVec 12)) : Nat :=
  (p.logical cs).findIdx (· = if p.redun then s.core.num &&& 0xFFE else s.core.num)

/-- The start of a job on this core, but for a superstep job's daybook and the note that it cannot replay. -/
def State.started (s : State) (p : Packet) (q : Nat) (i : BitVec 32) (cs : List (BitVec 12)) : State :=
  let bs := s.blockOf p
  { s.idle with
    ctxs := s.launchCtxs p bs, cur := 0,
    core := { s.idle.core with
      last := 10, mbox := launchMbox (s.partBytes ((s.parts p s.die p.arg (Nat.min (blockField bs 8) 64)).getD [])),
      gang := if p.redun then some (pairGang s.core.num) else none, matrix := { s.idle.core.matrix with weight := BitVec.ofNat 4 (blockField bs 0xA0) } },
    job := s.launchJob p q i bs cs (s.logicalIndex p cs) s.die, bar := s.launchBarriers p bs (s.logicalIndex p cs) (p.logical cs).length,
    mem := launchMemory s.mem cs (s.launchImage p s.die bs), dev := s.dev.dropSlices cs,
    regions := (s.regionRecords bs).map fun w => (natBits w 63 56, BitVec.ofNat 48 w), revmap := framesOf s.mem (jobDies cs) 3 p.root.toNat,
    drapers := s.launchDrapers bs }

theorem State.launchHere_eq (s : State) (p : Packet) (q : Nat) (i : BitVec 32) (cs : List (BitVec 12)) :
    s.launchHere p q i cs = if (s.started p q i cs).openDaybook.job.noReplay
      then (s.started p q i cs).openDaybook.logEntry true 10 0 (s.started p q i cs).openDaybook.unitSource 0 0 else (s.started p q i cs).openDaybook := by
  unfold State.launchHere State.started State.logicalIndex
  rfl

theorem State.openDaybook_parts (s : State) : ∃ snapshot, s.openDaybook = { s with core := { s.core with snapshot } } := by
  unfold State.openDaybook
  split
  · exact ⟨_, rfl⟩
  · exact ⟨s.core.snapshot, rfl⟩

theorem State.launchHere_parts (s : State) (p : Packet) (q : Nat) (i : BitVec 32) (cs : List (BitVec 12)) :
    ∃ snapshot lost elprod mem logged,
      s.launchHere p q i cs = { s.started p q i cs with
        core := { (s.started p q i cs).core with snapshot },
        job := { (s.started p q i cs).job with logged },
        mem,
        dev := { (s.started p q i cs).dev with lost, elprod } } ∧ ((s.started p q i cs).job.noReplay = false → mem = (s.started p q i cs).mem) := by
  rw [State.launchHere_eq]
  generalize s.started p q i cs = u
  obtain ⟨snapshot, daybook⟩ := u.openDaybook_parts
  rw [daybook]
  dsimp only
  by_cases no : u.job.noReplay = true
  case neg =>
    rw [if_neg no]
    exact ⟨snapshot, u.dev.lost, u.dev.elprod, u.mem, u.job.logged, rfl, fun _ => rfl⟩
  case pos =>
    rw [if_pos no]
    generalize ({ u with core := { u.core with snapshot } } : State).unitSource = source
    obtain ⟨lost, elprod, mem, logged, eq⟩ := ({ u with core := { u.core with snapshot } } : State).logEntry_parts 10 0 source 0 0
    rw [eq]
    exact ⟨snapshot, lost, elprod, mem, logged, rfl, fun h => absurd (h.symm.trans no) Bool.false_ne_true⟩

/-- A job is added to those of other cores, with the note that it cannot replay where it cannot. -/
theorem State.logAbout_added {s : State} {o : OtherJob} (added : o ∈ s.dev.jobs) (cls cause source : Nat) (detail : BitVec 32) (addr : Word) :
    let t := if o.job.noReplay then s.logAbout o.job.jobid cls cause source detail addr else s
    (∀ m, t.dev.queue m = s.dev.queue m) ∧ (o.job.noReplay = false → t = s) ∧
      { o with job := { o.job with logged := o.job.logged + if o.job.noReplay then 1 else 0 } } ∈ t.dev.jobs := by
  intro t
  by_cases no : o.job.noReplay = true
  case neg =>
    rw [show t = s from if_neg no, if_neg no]
    exact ⟨fun m => rfl, fun _ => rfl, added⟩
  case pos =>
    obtain ⟨lost, elprod, mem, eq⟩ := s.logFor_parts o.job.jobid (sstepField (s.sstepAbout o.job.jobid)) cls cause source detail addr
    rw [show t = s.logAbout o.job.jobid cls cause source detail addr from if_pos no, if_pos no]
    unfold State.logAbout
    rw [eq]
    refine ⟨fun m => rfl, fun h => absurd (h.symm.trans no) Bool.false_ne_true, ?_⟩
    exact List.mem_map.2 ⟨o, added, if_pos rfl⟩

/-- A job of other cores as its launch makes it (R21, R78; log 40). -/
def State.startedThere (s : State) (p : Packet) (q : Nat) (i : BitVec 32) (cs : List (BitVec 12)) : OtherJob :=
  otherJob (s.launchJob p q i (s.blockOf p) cs 0 ((cs.headD 0).toNat / 768)) (Vector.replicate 11 Ctx.reset) none
    (blockGroups (s.blockOf p) ++ ((s.domainOf p (s.blockOf p)).map BitVec.toNat).toList) (s.blockRegions (s.blockOf p)) (s.blockDrapers (s.blockOf p))

/-- The state in which that job has been added. -/
def State.withStarted (s : State) (p : Packet) (q : Nat) (i : BitVec 32) (cs : List (BitVec 12)) : State :=
  { s with
    mem := launchMemory s.mem cs (s.launchImage p ((cs.headD 0).toNat / 768) (s.blockOf p)),
    dev := { s.dev.dropSlices cs with jobs := s.dev.jobs ++ [s.startedThere p q i cs] } }

theorem State.launchThere_eq (s : State) (p : Packet) (q : Nat) (i : BitVec 32) (cs : List (BitVec 12)) :
    s.launchThere p q i cs = if (s.startedThere p q i cs).job.noReplay
      then (s.withStarted p q i cs).logAbout (s.startedThere p q i cs).job.jobid 10 0 ((cs.headD 0).toNat + 15 * 2 ^ 12) 0 0 else s.withStarted p q i cs := by
  unfold State.launchThere State.withStarted State.startedThere otherJob
  rfl

/-- The contexts at launch: context 0 is live at CODE, and every register is 0. -/
theorem State.launchCtxs_get (s : State) (p : Packet) (bs : List Byte) (m : Fin 11) :
    ∃ replay, (s.launchCtxs p bs).get m = if m = 0 then { Ctx.reset with
      replay, live := true, pc := p.code, chk := p.dword0.testBit 10, nextIssue := s.cycle + 1 } else { Ctx.reset with replay } := by
  unfold State.launchCtxs
  rw [show (Vector.ofFn _).get m = _ from Vector.getElem_ofFn ..]
  exact ⟨_, rfl⟩

end Sys2Proof.Machine
end

section
/-! PROOF. O49: DISPATCH (R152, R155 to R157, R405 to R413). -/

namespace Sys2Proof.Machine

open Sys2Proof

section
variable {s : State} {q : BitVec 8} {cs : List (BitVec 12)}

/-- Without a head that is ready, an evicted job of other cores may return. -/
theorem State.exec_dispatch_back (off : s.headReady q.toNat = false) : exec (.dispatch q cs) s = .next (s.restoreOther q.toNat) := by
  have run : exec (.dispatch q cs) s = execDispatch q cs s := rfl
  rw [execDispatch] at run
  dsimp only at run
  rw [if_pos off] at run
  exact run

/-- The packet at the head of a queue, and whether its event is PENDING for another. -/
def State.headPacket (s : State) (n : Nat) : Packet := s.packetAt n (s.dev.queue n).head

def State.headClash (s : State) (n : Nat) : Bool := decide ((n, (s.dev.queue n).head) ∈ s.dev.clashes)

variable (on : s.headReady q.toNat = true)
include on

theorem State.exec_dispatch_refused {r : Nat} (refused : s.refusal (s.headPacket q.toNat) (s.headClash q.toNat) = some r) :
    exec (.dispatch q cs) s = .next ((s.neverRan q.toNat (s.headPacket q.toNat) (s.headClash q.toNat) 4 r).advanceHead q.toNat) := by
  have run : exec (.dispatch q cs) s = execDispatch q cs s := rfl
  unfold State.headPacket State.headClash at *
  rw [execDispatch] at run
  dsimp only at run
  rw [if_neg (by rw [on]; exact Bool.noConfusion), refused] at run
  exact run

theorem State.exec_dispatch_good (good : s.refusal (s.headPacket q.toNat) (s.headClash q.toNat) = none) : exec (.dispatch q cs) s = .next (
    if s.depFailed (s.headPacket q.toNat) then (s.neverRan q.toNat (s.headPacket q.toNat) (s.headClash q.toNat) 2 0).advanceHead q.toNat
    else if s.depsMet (s.headPacket q.toNat) ∧ s.placementOk q.toNat (s.headPacket q.toNat) cs ∧ s.outranked (s.packetAsHead q.toNat (s.headPacket q.toNat)) = false
      then s.place q.toNat (s.dev.queue q.toNat).head (s.headPacket q.toNat) cs
    else s) := by
  have run : exec (.dispatch q cs) s = execDispatch q cs s := rfl
  unfold State.headPacket State.headClash at *
  rw [execDispatch] at run
  dsimp only at run
  rw [if_neg (by rw [on]; exact Bool.noConfusion), good] at run
  exact run

end

/-! ## An evicted job of other cores (R155) -/

theorem State.restoreOther_none {s : State} {n : Nat} (none_ : ∀ j, s.savedHead n ≠ some (j, false)) : s.restoreOther n = s := by
  unfold State.restoreOther
  split
  next j e => exact absurd e (none_ j)
  · rfl

section
variable {s : State} {n : Nat} {j : Job} (head : s.savedHead n = some (j, false))
include head

theorem State.restoreOther_waits (waits : s.outranked (savedAsHead j n) = true ∨ s.victimsBack j = none) : s.restoreOther n = s := by
  unfold State.restoreOther
  rw [head]
  dsimp only
  split
  · rfl
  next first =>
    rw [waits.resolve_left first]

theorem State.restoreOther_evicts (first : s.outranked (savedAsHead j n) = false) {h : Holder} {hs : List Holder} (victims : s.victimsBack j = some (h :: hs)) :
    s.restoreOther n = s.evict (h :: hs) := by
  unfold State.restoreOther
  rw [head]
  dsimp only
  rw [if_neg (by rw [first]; exact Bool.false_ne_true), victims]

theorem State.restoreOther_returns (first : s.outranked (savedAsHead j n) = false) (victims : s.victimsBack j = some []) : s.restoreOther n = s.returnOther j := by
  unfold State.restoreOther
  rw [head]
  dsimp only
  rw [if_neg (by rw [first]; exact Bool.false_ne_true), victims]

end

/-- A job of other cores is back, with its scratchpads (R153, R155). -/
theorem State.returnOther_does (s : State) (j : Job) : let t := s.returnOther j
    { t with dev := s.dev, mem := s.mem } = s ∧ (∀ y ∈ t.dev.jobs, y.job = j → y.saved = false) ∧ t.dev.jobs.map (·.job) = s.dev.jobs.map (·.job) ∧
      ∀ y, s.dev.jobs.find? (fun y => y.saved && decide (y.job = j)) = some y → t.mem = Memory.writeCells y.scratch (s.mem.filter fun c => !inScratch j.cores c.1) := by
  intro t
  refine ⟨rfl, fun y hy same => ?_, ?_, fun y found => ?_⟩
  · obtain ⟨x, -, rfl⟩ := List.mem_map.1 hy
    split
    · rfl
    next other =>
      rw [if_neg other] at same
      exact absurd same other
  · refine (List.map_map ..).trans (List.map_congr_left fun x _ => ?_)
    show (ite _ _ _ : OtherJob).job = x.job
    split <;> rfl
  · show Memory.writeCells (Option.getD (Option.map _ _) _) _ = _
    rw [found]
    rfl

/-! ## The placement of a packet (R156, R157, R409) -/

section
variable {s : State} {n : Nat} {i : BitVec 32} {p : Packet} {cs : List (BitVec 12)}

theorem State.place_conflict (conflict : scheduleConflict (p.logical cs) (s.scheduleEntries (s.blockOf p)) = true) :
    s.place n i p cs = (s.neverRan n p false 4 5).advanceHead n := by
  unfold State.place
  exact if_pos conflict

variable (apart : scheduleConflict (p.logical cs) (s.scheduleEntries (s.blockOf p)) = false)
include apart

theorem State.place_writable (writable : s.writableCode p ((cs.headD 0).toNat / 768) (s.blockOf p) = true) :
    s.place n i p cs = (s.neverRan n p false 4 6).advanceHead n := by
  unfold State.place
  dsimp only
  rw [apart, if_neg Bool.false_ne_true]
  exact if_pos writable

variable (sealed : s.writableCode p ((cs.headD 0).toNat / 768) (s.blockOf p) = false)
include sealed

theorem State.place_busy (busy : s.resourcesBusy p (s.blockOf p) = true) : s.place n i p cs = s := by
  unfold State.place
  dsimp only
  rw [apart, if_neg Bool.false_ne_true, sealed, if_neg Bool.false_ne_true]
  exact if_pos busy

theorem State.place_crowded (victims : s.victims n p = none) : s.place n i p cs = s := by
  unfold State.place
  dsimp only
  rw [apart, if_neg Bool.false_ne_true, sealed, if_neg Bool.false_ne_true, victims, ite_self]

theorem State.place_taken (victims : s.victims n p = some []) (taken : ∃ c ∈ cs, s.coreOpen [] c = false) : s.place n i p cs = s := by
  obtain ⟨c, hc, shut⟩ := taken
  have all : cs.all (s.coreOpen []) = false := List.all_eq_false.2 ⟨c, hc, by rw [shut]; exact Bool.false_ne_true⟩
  unfold State.place
  dsimp only
  rw [apart, if_neg Bool.false_ne_true, sealed, if_neg Bool.false_ne_true, victims]
  dsimp only
  rw [if_pos all, ite_self]

variable (free : s.resourcesBusy p (s.blockOf p) = false)
include free

theorem State.place_evicts {h : Holder} {hs : List Holder} (victims : s.victims n p = some (h :: hs)) : s.place n i p cs = s.evict (h :: hs) := by
  unfold State.place
  dsimp only
  rw [apart, if_neg Bool.false_ne_true, sealed, if_neg Bool.false_ne_true, free, if_neg Bool.false_ne_true, victims]

/-- With its cores open, a packet is refused for an input that cannot be read, or its job starts. -/
theorem State.place_chosen (victims : s.victims n p = some []) (open_ : ∀ c ∈ cs, s.coreOpen [] c = true) : s.place n i p cs =
    if s.unreadable p n i ((cs.headD 0).toNat / 768) (s.blockOf p) then (s.neverRan n p false 4 8).advanceHead n
    else if s.core.num ∈ cs then (s.launchHere p n i cs).advanceHead n else (s.launchThere p n i cs).advanceHead n := by
  unfold State.place
  dsimp only
  rw [apart, if_neg Bool.false_ne_true, sealed, if_neg Bool.false_ne_true, free, if_neg Bool.false_ne_true, victims]
  dsimp only
  rw [if_neg (by rw [List.all_eq_true.2 open_]; exact Bool.noConfusion)]

end

theorem State.placementOk_cores {s : State} {n : Nat} {p : Packet} {cs : List (BitVec 12)} (ok : s.placementOk n p cs = true) : ∀ c ∈ cs, c.toNat < Config.cores := by
  unfold State.placementOk at ok
  dsimp only at ok
  rw [Bool.and_eq_true, Bool.and_eq_true] at ok
  intro c hc
  have fit := List.all_eq_true.1 ok.1.2 c hc
  rw [Bool.and_eq_true] at fit
  exact of_decide_eq_true fit.1

/-- The packet leaves the ring (R405). -/
theorem State.advanceHead_queue (s : State) (n : Nat) : (s.advanceHead n).dev.queue n = { s.dev.queue n with head := (s.dev.queue n).head + 1 } ∧
    ∀ m, m ≠ n → (s.advanceHead n).dev.queue m = s.dev.queue m :=
  ⟨(Device.queue_setQueue s.dev n n _).trans (if_pos rfl), fun m ne => (Device.queue_setQueue s.dev n m _).trans (if_neg ne)⟩

theorem State.startedThere_fields (s : State) (p : Packet) (n : Nat) (i : BitVec 32) (cs : List (BitVec 12)) : let y := s.startedThere p n i cs
    let L := s.launchJob p n i (s.blockOf p) cs 0 ((cs.headD 0).toNat / 768)
    y.job = L ∧ L.logged = 0 ∧ y.saved = false ∧ y.groups = blockGroups (s.blockOf p) ++ ((s.domainOf p (s.blockOf p)).map BitVec.toNat).toList ∧
      y.regions = s.blockRegions (s.blockOf p) ∧ y.drapers = s.blockDrapers (s.blockOf p) := by
  intro y L
  have job : y.job = L := by
    unfold y State.startedThere otherJob
    rfl
  refine ⟨job, ?_, ?_, ?_, ?_, ?_⟩
  · unfold L State.launchJob
    rfl
  · unfold y State.startedThere otherJob
    rfl
  all_goals
    unfold y State.startedThere otherJob
    dsimp only

/-- A job started on other cores (R21, R78; log 40). -/
theorem State.launchThere_does {s : State} {n : Nat} {i : BitVec 32} {p : Packet} {cs : List (BitVec 12)} (cores : ∀ c ∈ cs, c.toNat < Config.cores)
    (good : s.refusal p false = none) : let L := s.launchJob p n i (s.blockOf p) cs 0 ((cs.headD 0).toNat / 768)
    let image := s.launchImage p ((cs.headD 0).toNat / 768) (s.blockOf p)
    let t := (s.launchThere p n i cs).advanceHead n
    (t.dev.queue n = { s.dev.queue n with head := (s.dev.queue n).head + 1 } ∧ ∀ m, m ≠ n → t.dev.queue m = s.dev.queue m) ∧
      (L.noReplay = false → { t with dev := s.dev, mem := s.mem } = s ∧
        (∀ c ∈ cs, ∀ o < 0x80000, Memory.byte t.mem (scratchKey c.toNat o) = image.getD o 0) ∧
        ∀ k, inScratch cs k = false → Memory.byte t.mem k = Memory.byte s.mem k) ∧
      ∃ y ∈ t.dev.jobs, y.saved = false ∧ y.job = { L with logged := if L.noReplay then 1 else 0 } ∧
        y.groups = blockGroups (s.blockOf p) ++ ((s.domainOf p (s.blockOf p)).map BitVec.toNat).toList ∧ y.regions = s.blockRegions (s.blockOf p) ∧
        y.drapers = s.blockDrapers (s.blockOf p) := by
  intro L image t
  have image_fits := s.launchImage_fits good ((cs.headD 0).toNat / 768)
  have added : s.startedThere p n i cs ∈ (s.withStarted p n i cs).dev.jobs := List.mem_append_right _ (List.mem_singleton_self _)
  obtain ⟨queue, same, mem⟩ := State.logAbout_added added 10 0 ((cs.headD 0).toNat + 15 * 2 ^ 12) 0 0
  rw [← State.launchThere_eq] at queue same mem
  obtain ⟨own, others⟩ := (s.launchThere p n i cs).advanceHead_queue n
  have kept (m : Nat) : (s.withStarted p n i cs).dev.queue m = s.dev.queue m := rfl
  refine ⟨⟨own.trans ?_, fun m ne => (others m ne).trans ((queue m).trans (kept m))⟩, fun no => ?_, _, mem, ?_⟩
  · rw [queue, kept]
  · have eq := same no
    refine ⟨?_, ?_⟩
    · show ({ (s.launchThere p n i cs).advanceHead n with dev := s.dev, mem := s.mem } : State) = s
      rw [eq]
      rfl
    · show (∀ c ∈ cs, ∀ o < 0x80000, Memory.byte (s.launchThere p n i cs).mem _ = _) ∧ ∀ k, _ → Memory.byte (s.launchThere p n i cs).mem k = _
      rw [eq]
      exact byte_launchMemory image_fits cores s.mem
  · obtain ⟨job, none_, saved, groups, regions, drapers⟩ := s.startedThere_fields p n i cs
    generalize s.startedThere p n i cs = o at job saved groups regions drapers ⊢
    refine ⟨saved, ?_, groups, regions, drapers⟩
    show ({ o.job with logged := o.job.logged + if o.job.noReplay then 1 else 0 } : Job) = _
    rw [job, none_, Nat.zero_add]

/-- What a start on this core sets. -/
theorem State.started_fields (s : State) (p : Packet) (n : Nat) (i : BitVec 32) (cs : List (BitVec 12)) : let u := s.started p n i cs
    u.ctxs = s.launchCtxs p (s.blockOf p) ∧ u.job = s.launchJob p n i (s.blockOf p) cs (s.logicalIndex p cs) s.die ∧
      u.bar = s.launchBarriers p (s.blockOf p) (s.logicalIndex p cs) (p.logical cs).length ∧ u.mem = launchMemory s.mem cs (s.launchImage p s.die (s.blockOf p)) ∧
      (∀ m, u.dev.queue m = s.dev.queue m) ∧ u.accs = [] ∧ u.full = [] ∧ u.micro = [] ∧ u.clutlb = [] ∧ u.lasttlb = [] ∧ u.icache = [] ∧
      u.core.gang = (if p.redun then some (pairGang s.core.num) else none) ∧ u.core.num = s.core.num ∧ u.core.ports = Core.reset.ports ∧
      u.core.streams = Core.reset.streams ∧ u.core.matrix.acc = [] := by
  intro u
  refine ⟨?_, ?_, ?_, ?_, fun m => ?_, ?_, ?_, ?_, ?_, ?_, ?_, ?_, ?_, ?_, ?_, ?_⟩
  all_goals
    unfold u State.started
    rfl

theorem State.launchJob_fields (s : State) (p : Packet) (n : Nat) (i : BitVec 32) (bs : List Byte) (cs : List (BitVec 12)) (idx die : Nat) :
    let L := s.launchJob p n i bs cs idx die
    L.running = true ∧ L.jobid = p.jobid ∧ L.prio = BitVec.ofNat 5 p.prio ∧ L.superstep = p.superstep ∧ L.redun = p.redun ∧ L.manif = p.manif ∧
      L.record = p.dword0.testBit 12 ∧ L.mapctl = p.dword0.testBit 11 ∧ L.helpers = p.helpers ∧ L.arg = p.arg ∧ L.trapvec = p.trapvec ∧ L.root = p.root ∧
      L.compl = p.compl ∧ L.evt = BitVec.ofNat 15 p.evt ∧ L.cores = cs ∧ L.startTime = s.dev.devtime ∧ L.began = false ∧ L.claims = launchClaims bs ∧
      L.space = launchSpace p bs ∧ (p.superstep = false → L.noReplay = false) := by
  intro L
  refine ⟨?_, ?_, ?_, ?_, ?_, ?_, ?_, ?_, ?_, ?_, ?_, ?_, ?_, ?_, ?_, ?_, ?_, ?_, ?_, fun free => ?_⟩
  case refine_20 =>
    show (p.superstep && _) = false
    rw [free]
    rfl
  all_goals
    unfold L State.launchJob
    rfl

theorem Packet.prio_small (p : Packet) : (BitVec.ofNat 5 p.prio).toNat = p.prio := by
  have small : p.prio < 32 := Nat.mod_lt _ (by decide)
  rw [BitVec.toNat_ofNat]
  exact Nat.mod_eq_of_lt small

/-- The superstep domain is a group that the block does not reserve (R268). -/
theorem State.domainOf_free {s : State} {p : Packet} {bs : List Byte} {g : BitVec 5} (domain : s.domainOf p bs = some g) :
    p.superstep = true ∧ g.toNat ∉ blockGroups bs := by
  unfold State.domainOf at domain
  dsimp only at domain
  split at domain
  next superstep =>
    obtain ⟨n, there, rfl⟩ := Option.map_eq_some_iff.1 domain
    obtain ⟨range, free⟩ := List.mem_filter.1 (List.mem_of_getElem? there)
    have small : n < 32 := List.mem_range.1 range
    rw [BitVec.toNat_ofNat, Nat.mod_eq_of_lt small]
    refine ⟨superstep, fun held => ?_⟩
    rw [decide_eq_true held] at free
    cases free
  · cases domain

/-- A context at launch (R16, R407). -/
theorem State.launchCtxs_fields (s : State) (p : Packet) (bs : List Byte) (m : Fin 11) : let c := (s.launchCtxs p bs).get m
    c.live = decide (m = 0) ∧ (∀ r, c.reg r = 0) ∧ c.inTrap = false ∧ c.lsord = false ∧ c.writes = [] ∧ (∀ k, (c.slots.get k).state = .free) ∧
      (m = 0 → c.pc = p.code ∧ c.chk = p.dword0.testBit 10) := by
  intro c
  obtain ⟨replay, eq⟩ := s.launchCtxs_get p bs m
  rw [show c = _ from eq]
  split
  next first =>
    subst first
    exact ⟨rfl, fun r => (Ctx.reg_congr rfl rfl rfl r).trans (Ctx.reset_reg r), rfl, rfl, rfl, fun k => congrArg Slot.state (Vector.getElem_replicate ..), fun _ => ⟨rfl, rfl⟩⟩
  next other =>
    exact ⟨(decide_eq_false other).symm, fun r => (Ctx.reg_congr rfl rfl rfl r).trans (Ctx.reset_reg r), rfl, rfl, rfl, fun k => congrArg Slot.state (Vector.getElem_replicate ..), fun h => absurd h other⟩

/-- What of a job that starts on this core is as its packet says (R21, R78, R151, R160, R407). -/
theorem State.launchHere_does {s : State} {n : Nat} {i : BitVec 32} {p : Packet} {cs : List (BitVec 12)} (cores : ∀ c ∈ cs, c.toNat < Config.cores)
    (good : s.refusal p false = none) : let bs := s.blockOf p
    let image := s.launchImage p s.die bs
    let t := (s.launchHere p n i cs).advanceHead n
    (t.dev.queue n = { s.dev.queue n with head := (s.dev.queue n).head + 1 } ∧ ∀ m, m ≠ n → t.dev.queue m = s.dev.queue m) ∧
      t.ctxs = s.launchCtxs p bs ∧ (∃ logged, t.job = { s.launchJob p n i bs cs (s.logicalIndex p cs) s.die with logged }) ∧
      t.bar = s.launchBarriers p bs (s.logicalIndex p cs) (p.logical cs).length ∧
      (p.superstep = false → (∀ c ∈ cs, ∀ o < 0x80000, Memory.byte t.mem (scratchKey c.toNat o) = image.getD o 0) ∧
        ∀ k, inScratch cs k = false → Memory.byte t.mem k = Memory.byte s.mem k) ∧
      t.core.gang = (if p.redun then some (pairGang s.core.num) else none) ∧ (∀ k, (t.core.ports.get k).state = .closed) ∧
      (∀ k, (t.core.streams.get k).bnd = false) ∧ t.core.matrix.acc = [] ∧ t.core.num = s.core.num ∧ t.accs = [] ∧ t.full = [] ∧ t.micro = [] ∧
      t.clutlb = [] ∧ t.lasttlb = [] ∧ t.icache = [] := by
  intro bs image t
  have image_fits := s.launchImage_fits good s.die
  obtain ⟨ctxs, job, bar, mem, queue, accs, full, micro, clutlb, lasttlb, icache, gang, num, ports, streams, acc⟩ := s.started_fields p n i cs
  obtain ⟨own, others⟩ := (s.launchHere p n i cs).advanceHead_queue n
  obtain ⟨snapshot, lost, elprod, mem', logged, eq, keeps⟩ := s.launchHere_parts p n i cs
  have free (h : p.superstep = false) : (s.started p n i cs).job.noReplay = false := by
    obtain ⟨-, -, -, -, -, -, -, -, -, -, -, -, -, -, -, -, -, -, -, free⟩ := s.launchJob_fields p n i bs cs (s.logicalIndex p cs) s.die
    rw [job]
    exact free h
  have t_eq : t = (s.launchHere p n i cs).advanceHead n := rfl
  rw [eq] at own others t_eq
  rw [t_eq]
  generalize s.started p n i cs = u at ctxs job bar mem queue accs full micro clutlb lasttlb icache gang num ports streams acc keeps free own others ⊢
  refine ⟨⟨own.trans ?_, fun m ne => (others m ne).trans (queue m)⟩, ctxs, ?_, bar, fun superstep => ?_, gang, fun k => ?_, fun k => ?_, acc, num, accs, full, micro,
    clutlb, lasttlb, icache⟩
  · rw [show ∀ x y : Queue, x = y → ({ x with head := x.head + 1 } : Queue) = { y with head := y.head + 1 } from fun x y h => by rw [h]]
    exact queue n
  · rw [← job]
    exact ⟨logged, rfl⟩
  · have lands := byte_launchMemory image_fits cores s.mem
    rw [← mem, ← keeps (free superstep)] at lands
    exact lands
  · show (u.core.ports.get k).state = _
    rw [ports]
    exact congrArg Port.state (Vector.getElem_replicate ..)
  · show (u.core.streams.get k).bnd = _
    rw [streams]
    exact congrArg Stream.bnd (Vector.getElem_replicate ..)

theorem launchSpace_superstep {p : Packet} {bs : List Byte} (superstep : p.superstep = true) : (launchSpace p bs).left = 0 := by
  unfold launchSpace
  dsimp only
  rw [if_pos (.inl superstep)]
  rfl

theorem launchSpace_free {p : Packet} {bs : List Byte} (free : p.superstep = false) :
    (launchSpace p bs).next = (if natBits (blockField bs 0x18) 31 0 = 0 then 0 else blockField bs 0x10) ∧
      (launchSpace p bs).left = natBits (blockField bs 0x18) 31 0 := by
  unfold launchSpace
  dsimp only
  by_cases none_ : natBits (blockField bs 0x18) 31 0 = 0
  · rw [if_pos (.inr none_), if_pos none_, none_]
    exact ⟨rfl, rfl⟩
  · rw [if_neg (by rintro (h | h); exacts [absurd (free.symm.trans h) Bool.false_ne_true, none_ h]), if_neg none_]
    exact ⟨rfl, rfl⟩

/-- Settles O49: the head is refused, cancelled, left waiting, evicts others, or starts, as each test of DISPATCH says. -/
theorem jobsAreRefusedCancelledPlacedAndLaunched : Obligations.JobsAreRefusedCancelledPlacedAndLaunched := by
  unfold Obligations.JobsAreRefusedCancelledPlacedAndLaunched
  intro s q cs n x i p bs D cnt clash die logical ready key went never bad fits dep any event lost met fine chosen evicts image loaded L
  have ready_iff : s.headReady n = true ↔ ready := State.headReady_iff
  have gone (c : Bool) (hc : c = decide clash) (st rs : Nat) (failed : st ≠ 1) (run : exec (.dispatch q cs) s = .next ((s.neverRan n p c st rs).advanceHead n)) :
      never st rs := fun up => by
    obtain ⟨only, queue, others, jobs, bytes, msix, events⟩ := s.neverRan_gone n p c rs failed up
    refine ⟨_, run, only, ⟨queue, others⟩, bytes, msix, fun e => (events e).trans ?_⟩
    refine ite_congr (propext (and_congr_right fun _ => and_congr_right fun _ => ?_)) (fun _ => rfl) fun _ => rfl
    rw [hc, decide_eq_false_iff_not]
  have evicting (v : List Holder) (run : exec (.dispatch q cs) s = .next (s.evict v)) : evicts v := ⟨_, run, s.evict_all v⟩
  refine ⟨fun h => State.outranked_iff, fun e g m k => rankOf_lt_iff, fun off none_ => ?_, fun j off head => ?_, fun j v => State.victimsBack_some, ?_, fun on => ?_⟩
  · rw [State.exec_dispatch_back (by rw [← Bool.not_eq_true, ready_iff]; exact off), State.restoreOther_none none_]
  · have run : exec (.dispatch q cs) s = _ := State.exec_dispatch_back (by rw [← Bool.not_eq_true, ready_iff]; exact off)
    refine ⟨fun waits => ?_, fun first h hs victims => evicting _ ?_, fun first victims => ?_⟩
    · rw [run, State.restoreOther_waits head waits]
    · rw [run, State.restoreOther_evicts head first victims]
    · rw [run, State.restoreOther_returns head first victims]
      exact ⟨_, rfl, s.returnOther_does j⟩
  · refine ⟨fun h hv => ?_, s.lowerHolders_sorted p.prio (p.mayUse n), fun v => leastVictims_some, leastVictims_none⟩
    obtain ⟨movable, low, c, hc, may⟩ := State.mem_lowerHolders hv
    rw [Packet.mayUse, Bool.or_eq_true, decide_eq_true_iff, decide_eq_true_iff] at may
    exact ⟨movable, low, c, hc, may⟩
  · have on' := ready_iff.2 on
    have refused (r : Nat) (h : s.refusal p (decide clash) = some r) : never 4 r := gone _ rfl 4 r (by decide) (State.exec_dispatch_refused on' h)
    have bad_iff : p.badFields = true ↔ bad := Packet.badFields_iff
    have good_run (good : s.refusal p false = none) (free : ¬ clash) : exec (.dispatch q cs) s = .next (
        if s.depFailed p then (s.neverRan n p (decide clash) 2 0).advanceHead n
        else if s.depsMet p ∧ s.placementOk n p cs ∧ s.outranked (s.packetAsHead n p) = false then s.place n i p cs else s) :=
      State.exec_dispatch_good on' (show s.refusal p (decide clash) = none by rw [decide_eq_false free]; exact good)
    have unclashed (free : ¬ clash) : false = decide clash := (decide_eq_false free).symm
    refine ⟨fun h => refused 1 (State.refusal_fields (bad_iff.2 h) _), fun fields shape => refused 2 (State.refusal_shape ?_ ?_ _), refused, fun good c => ?_,
      fun good free l => ?_, fun good free l waits => ?_, fun good free l m placed first => ?_⟩
    · rw [← Bool.not_eq_true, bad_iff]
      exact fields
    · rw [← Bool.not_eq_false, Packet.badShape_iff (by rw [← Bool.not_eq_true, bad_iff]; exact fields)]
      exact shape
    · refine refused 7 ?_
      rw [decide_eq_true c]
      exact State.refusal_clash good
    · have run := good_run good free
      rw [if_pos (State.depFailed_iff.2 l)] at run
      exact gone _ rfl 2 0 (by decide) run
    · have run := good_run good free
      rw [if_neg (fun h => l (State.depFailed_iff.1 h)), if_neg] at run
      · exact run
      · rintro ⟨ok, fit, top⟩
        rcases waits with h | h | h
        · exact h (State.depsMet_iff.1 ok)
        · exact absurd (h.symm.trans fit) Bool.false_ne_true
        · exact absurd (top.symm.trans h) Bool.false_ne_true
    · have run := good_run good free
      rw [if_neg (fun h => l (State.depFailed_iff.1 h)), if_pos ⟨State.depsMet_iff.2 m, placed, first⟩] at run
      have cores := State.placementOk_cores placed
      refine ⟨fun conflict => ?_, fun apart writable => ?_, fun ok busy => ?_, fun ok open_ h hs victims => ?_, fun ok victims => ?_, fun ok victims taken => ?_,
        fun ok picked open_ unread => ?_, fun ok picked open_ read away => ?_, fun ok picked open_ read here => ?_⟩
      · exact gone false (unclashed free) 4 5 (by decide) (run.trans (congrArg Host.Outcome.next (State.place_conflict conflict)))
      · exact gone false (unclashed free) 4 6 (by decide) (run.trans (congrArg Host.Outcome.next (State.place_writable apart writable)))
      · exact run.trans (congrArg Host.Outcome.next (State.place_busy ok.1 ok.2 busy))
      · exact evicting _ (run.trans (congrArg Host.Outcome.next (State.place_evicts ok.1 ok.2 open_ victims)))
      · exact run.trans (congrArg Host.Outcome.next (State.place_crowded ok.1 ok.2 victims))
      · exact run.trans (congrArg Host.Outcome.next (State.place_taken ok.1 ok.2 victims taken))
      · have placed := State.place_chosen (i := i) ok.1 ok.2 open_ picked.1 picked.2
        rw [if_pos unread] at placed
        exact gone false (unclashed free) 4 8 (by decide) (run.trans (congrArg Host.Outcome.next placed))
      · have placed := State.place_chosen (i := i) ok.1 ok.2 open_ picked.1 picked.2
        rw [if_neg (by rw [read]; exact Bool.false_ne_true), if_neg away] at placed
        obtain ⟨moved, only, there⟩ := State.launchThere_does (n := n) (i := i) cores good
        obtain ⟨-, jobid, prio, superstep, -, -, -, -, -, -, -, -, compl, evt, cores_, start, -⟩ := s.launchJob_fields p n i bs cs 0 die
        exact ⟨_, run.trans (congrArg Host.Outcome.next placed), moved, only, jobid, compl, evt, cores_, start, by rw [prio]; exact p.prio_small, superstep, there⟩
      · have placed := State.place_chosen (i := i) ok.1 ok.2 open_ picked.1 picked.2
        rw [if_neg (by rw [read]; exact Bool.false_ne_true), if_pos here] at placed
        obtain ⟨moved, ctxs, ⟨logged, job⟩, bar, bytes, gang, ports, streams, acc, num, accs, full, micro, clutlb, lasttlb, icache⟩ := State.launchHere_does (n := n) (i := i) cores good
        have run' := run.trans (congrArg Host.Outcome.next placed)
        obtain ⟨running, jobid, prio, superstep, redun, manif, record, mapctl, helpers, arg, trapvec, root, compl, -, cores_, -, began, claims, space, -⟩ :=
          s.launchJob_fields p n i bs cs (s.logicalIndex p cs) s.die
        have at_ (m : Fin 11) := s.launchCtxs_fields p bs m
        obtain ⟨-, -, -, -, -, -, first⟩ := at_ 0
        have ctxAt (m : Fin 11) : ((s.launchHere p n i cs).advanceHead n).ctxAt m = (s.launchCtxs p bs).get m := congrArg (fun v => Vector.get v m) ctxs
        have domain : ((s.launchHere p n i cs).advanceHead n).bar.domain = s.domainOf p bs := by
          rw [bar]
          unfold State.launchBarriers
          rfl
        refine ⟨_, run.trans (congrArg Host.Outcome.next placed), ?_⟩
        generalize (s.launchHere p n i cs).advanceHead n = t at *
        rw [job]
        generalize s.launchJob p n i bs cs (s.logicalIndex p cs) s.die = J at *
        refine ⟨moved, fun m => ?_, fun m r => ?_, ?_, ?_, fun m => ?_, running, jobid, by rw [← p.prio_small, ← prio], superstep, redun, manif, record, mapctl,
          helpers, arg, trapvec, root, compl, cores_, began, claims, gang, ports, streams, acc, num, accs, full, micro, clutlb, lasttlb, icache,
          fun free => ?_, fun step => ?_⟩
        · obtain ⟨live, -⟩ := at_ m
          rw [ctxAt]
          exact live
        · obtain ⟨-, regs, -⟩ := at_ m
          rw [ctxAt]
          exact regs r
        · rw [ctxAt]
          exact (first rfl).1
        · rw [ctxAt]
          exact (first rfl).2
        · obtain ⟨-, -, inTrap, lsord, writes, slots, -⟩ := at_ m
          rw [ctxAt]
          exact ⟨inTrap, lsord, writes, slots⟩
        · obtain ⟨next, left⟩ := launchSpace_free (bs := bs) free
          rw [space, domain]
          refine ⟨next, left, ?_, bytes free⟩
          refine Option.eq_none_iff_forall_ne_some.2 fun g held => ?_
          exact absurd (free.symm.trans (State.domainOf_free held).1) Bool.false_ne_true
        · rw [space, domain]
          exact ⟨launchSpace_superstep step, fun g held => (State.domainOf_free held).2⟩

end Sys2Proof.Machine
end

section
/-! SUPPORT. The accumulator store's rows, and what a step of a matrix command leaves (R330, R334 to R340). -/

namespace Sys2Proof.Machine

open Sys2Proof

/-! ## Bytes and codes -/

theorem natOfBytes_append (xs ys : List Byte) : natOfBytes (xs ++ ys) = natOfBytes xs + 256 ^ xs.length * natOfBytes ys := by
  induction xs with
  | nil => simp [natOfBytes]
  | cons x xs ih =>
    rw [List.cons_append, natOfBytes, natOfBytes, ih, List.length_cons, Nat.pow_succ']
    ring

/-- The code of `j` bytes at place `i` of a run is the number of those bytes (R89). -/
theorem codeAt_read (m : List Host.Cell) (key : Nat) {n i j : Nat} (inside : j * i + j ≤ n) :
    codeAt (natOfBytes (Memory.read m key n)) (8 * j) i = natOfBytes (Memory.read m (key + j * i) j) := by
  obtain ⟨r, rfl⟩ : ∃ r, n = j * i + (j + r) := ⟨n - (j * i + j), by omega⟩
  have power (k : Nat) : 2 ^ (8 * k) = 256 ^ k := by
    rw [show (256 : Nat) = 2 ^ 8 from rfl, ← Nat.pow_mul]
  have low := natOfBytes_lt (Memory.read m key (j * i))
  have here := natOfBytes_lt (Memory.read m (key + j * i) j)
  rw [Memory.length_read] at low here
  unfold codeAt
  rw [Memory.read_add, natOfBytes_append, Memory.read_add, natOfBytes_append, Memory.length_read, Memory.length_read, Nat.mul_assoc, power, power,
    Nat.add_mul_div_left _ _ (Nat.pow_pos (by decide)), Nat.div_eq_of_lt low, Nat.zero_add, Nat.add_mul_mod_self_left, Nat.mod_eq_of_lt here]

/-! ## Rows -/

/-- The words of a row are written, and no others. -/
theorem get_rowWords (r : Nat) : ∀ (ws : List (BitVec 32)) (c : Nat) (m : List (Nat × BitVec 32)), c + ws.length ≤ 64 → ∀ q k, k < 64 →
    Sparse.get 0 (rowWords r ws c m) (q * 64 + k) = if q = r ∧ c ≤ k ∧ k < c + ws.length then ws.getD (k - c) 0 else Sparse.get 0 m (q * 64 + k)
  | [], c, m, fit, q, k, hk => by
    rw [if_neg (by rintro ⟨-, low, high⟩; rw [List.length_nil] at high; omega)]
    rfl
  | w :: ws, c, m, fit, q, k, hk => by
    rw [List.length_cons] at fit ⊢
    rw [rowWords, get_rowWords r ws (c + 1) _ (by omega) q k hk, Sparse.get_set]
    by_cases later : q = r ∧ c + 1 ≤ k ∧ k < c + 1 + ws.length
    · rw [if_pos later, if_pos ⟨later.1, by omega, by omega⟩, show k - c = (k - (c + 1)) + 1 by omega, List.getD_cons_succ]
    · rw [if_neg later]
      by_cases here : q = r ∧ k = c
      · rw [if_pos (by omega), if_pos ⟨here.1, by omega, by omega⟩, here.2, Nat.sub_self, List.getD_cons_zero]
      · rw [if_neg (by omega), if_neg]
        rintro ⟨same, low, high⟩
        exact later ⟨same, by omega, by omega⟩

/-- Rows written one after the other. -/
def putRows (l : List (Nat × List (BitVec 32))) (m : List (Nat × BitVec 32)) : List (Nat × BitVec 32) := l.foldl (fun m x => rowWords x.1 x.2 0 m) m

theorem putRows_cons (x : Nat × List (BitVec 32)) (l : List (Nat × List (BitVec 32))) (m : List (Nat × BitVec 32)) :
    putRows (x :: l) m = putRows l (rowWords x.1 x.2 0 m) := rfl

theorem get_putRows_other : ∀ {l : List (Nat × List (BitVec 32))} {q k : Nat}, (∀ x ∈ l, x.2.length = 64) → k < 64 → q ∉ l.map (·.1) →
    ∀ m, Sparse.get 0 (putRows l m) (q * 64 + k) = Sparse.get 0 m (q * 64 + k)
  | [], _, _, _, _, _, m => rfl
  | x :: l, q, k, whole, hk, out, m => by
    rw [List.map_cons, List.mem_cons, not_or] at out
    rw [putRows_cons, get_putRows_other (fun y hy => whole y (List.mem_cons_of_mem _ hy)) hk out.2,
      get_rowWords x.1 x.2 0 m (by rw [whole x List.mem_cons_self]) q k hk, if_neg (fun h => out.1 h.1)]

/-- Each row written once holds what was written. -/
theorem get_putRows : ∀ {l : List (Nat × List (BitVec 32))} {x : Nat × List (BitVec 32)} {k : Nat}, (∀ x ∈ l, x.2.length = 64) → k < 64 →
    (l.map (·.1)).Nodup → x ∈ l → ∀ m, Sparse.get 0 (putRows l m) (x.1 * 64 + k) = x.2.getD k 0
  | [], _, _, _, _, _, mem, m => absurd mem List.not_mem_nil
  | y :: l, x, k, whole, hk, once, mem, m => by
    rw [List.map_cons, List.nodup_cons] at once
    have rest : ∀ z ∈ l, z.2.length = 64 := fun z hz => whole z (List.mem_cons_of_mem _ hz)
    rw [putRows_cons]
    rcases List.mem_cons.1 mem with rfl | there
    · have size := whole x List.mem_cons_self
      rw [get_putRows_other rest hk once.1, get_rowWords x.1 x.2 0 m (by omega) x.1 k hk, if_pos ⟨rfl, Nat.zero_le _, by omega⟩, Nat.sub_zero]
    · exact get_putRows rest hk once.2 there _

/-- Up to 64 rows from a first one are distinct rows of the store. -/
theorem rows_nodup (row0 : Nat) {n : Nat} (few : n ≤ 64) : ((List.range n).map fun i => (row0 + i) % 256).Nodup := by
  refine List.Nodup.map_on (fun i hi j hj same => ?_) List.nodup_range
  have hi := List.mem_range.1 hi
  have hj := List.mem_range.1 hj
  omega

/-- The state with another accumulator store. -/
def State.withAcc (s : State) (acc : List (Nat × BitVec 32)) : State := s.modCore fun c => { c with matrix := { c.matrix with acc } }

theorem State.withAcc_withAcc (s : State) (a b : List (Nat × BitVec 32)) : (s.withAcc a).withAcc b = s.withAcc b := rfl

theorem State.withAcc_acc (s : State) (a : List (Nat × BitVec 32)) : (s.withAcc a).core.matrix.acc = a := rfl

theorem State.writeRow_acc {s : State} (snap : s.core.snapshot = none) (row : Nat) (ws : List (BitVec 32)) :
    s.writeRow row ws = s.withAcc (rowWords row ws 0 s.core.matrix.acc) := by
  unfold State.writeRow
  rw [snap]
  rfl

theorem State.writeRows_acc : ∀ (rs : List (List (BitVec 32))) (row : Nat) {s : State}, s.core.snapshot = none →
    State.writeRows row rs s = s.withAcc (putRows (rs.mapIdx fun i ws => ((row + i) % 256, ws)) s.core.matrix.acc)
  | [], row, s, snap => rfl
  | ws :: rs, row, s, snap => by
    have rest := State.writeRows_acc rs (row + 1) (s := s.writeRow (row % 256) ws) (by rw [State.writeRow_acc snap]; exact snap)
    rw [State.writeRows, rest, State.writeRow_acc snap, List.mapIdx_cons]
    have shift (i : Nat) : row + 1 + i = row + (i + 1) := by omega
    simp only [shift, State.withAcc_withAcc, State.withAcc_acc, putRows_cons, Nat.add_zero]

theorem State.foldl_acwrRow {s : State} (snap : s.core.snapshot = none) (c : MCmd) : ∀ (is : List Nat) (acc : List (Nat × BitVec 32)),
    is.foldl (fun u i => u.acwrRow c i) (s.withAcc acc) =
      s.withAcc (putRows (is.map fun i => ((descRow0 c.desc + i) % 256, wordsOf (s.unitRead (s.ownKey c.a + 256 * i) 256))) acc)
  | [], acc => rfl
  | i :: is, acc => by
    have one : (s.withAcc acc).acwrRow c i = s.withAcc (rowWords ((descRow0 c.desc + i) % 256) (wordsOf (s.unitRead (s.ownKey c.a + 256 * i) 256)) 0 acc) :=
      State.writeRow_acc (s := s.withAcc acc) snap _ _
    rw [List.foldl_cons, one, State.foldl_acwrRow snap c is, List.map_cons, putRows_cons]

theorem State.foldl_zeroRow {s : State} (snap : s.core.snapshot = none) (c : MCmd) : ∀ (is : List Nat) (acc : List (Nat × BitVec 32)),
    is.foldl (fun u i => u.zeroRow c i) (s.withAcc acc) =
      s.withAcc (putRows (is.map fun i => ((descRow0 c.desc + i) % 256, List.replicate 64 0)) acc)
  | [], acc => rfl
  | i :: is, acc => by
    have one : (s.withAcc acc).zeroRow c i = s.withAcc (rowWords ((descRow0 c.desc + i) % 256) (List.replicate 64 0) 0 acc) :=
      State.writeRow_acc (s := s.withAcc acc) snap _ _
    rw [List.foldl_cons, one, State.foldl_zeroRow snap c is]
    rw [List.map_cons, putRows_cons]

/-- The bytes of a row of the store, as ACRD copies them. -/
def rowBytes (ws : List (BitVec 32)) : List Byte := (ws.map fun w => bytesOfNat w.toNat 4).flatten

theorem length_rowBytes (ws : List (BitVec 32)) : (rowBytes ws).length = 4 * ws.length := by
  unfold rowBytes
  induction ws with
  | nil => rfl
  | cons w ws ih => rw [List.map_cons, List.flatten_cons, List.length_append, ih, length_bytesOfNat, List.length_cons]; omega

theorem getD_rowBytes : ∀ (ws : List (BitVec 32)) {i : Nat}, i < 4 * ws.length → (rowBytes ws).getD i 0 = BitVec.ofNat 8 ((ws.getD (i / 4) 0).toNat / 256 ^ (i % 4))
  | [], i, h => by rw [List.length_nil] at h; omega
  | w :: ws, i, h => by
    have split : rowBytes (w :: ws) = bytesOfNat w.toNat 4 ++ rowBytes ws := rfl
    rw [List.length_cons] at h
    rw [split]
    by_cases first : i < 4
    · rw [List.getD_append _ _ _ _ (by rw [length_bytesOfNat]; exact first), getD_bytesOfNat _ first, Nat.div_eq_of_lt first, Nat.mod_eq_of_lt first,
        List.getD_cons_zero]
    · rw [List.getD_append_right _ _ _ _ (by rw [length_bytesOfNat]; omega), length_bytesOfNat, getD_rowBytes ws (by omega),
        show i / 4 = (i - 4) / 4 + 1 by omega, List.getD_cons_succ, show (i - 4) % 4 = i % 4 by omega]

theorem length_accRow (s : State) (row : Nat) : (s.accRow row).length = 64 := by
  unfold State.accRow rowOf
  rw [List.length_map, List.length_range]

theorem getD_accRow (s : State) (row : Nat) {k : Nat} (hk : k < 64) : (s.accRow row).getD k 0 = Sparse.get 0 s.core.matrix.acc (row % 256 * 64 + k) := by
  unfold State.accRow rowOf
  rw [List.getD_eq_getElem?_getD, List.getElem?_map, List.getElem?_range hk]
  rfl

/-- ACRD's rows, one after another, in the scratchpad. -/
theorem State.foldl_acrdRow {s : State} (hashed : s.unhashed) (snap : s.core.snapshot = none) (c : MCmd) : ∀ n, ∃ mem early,
    (List.range n).foldl (fun u i => u.acrdRow c i) s = { s with mem, early } ∧ ∀ q, Memory.byte mem q =
      if s.ownKey c.a ≤ q ∧ q < s.ownKey c.a + 256 * n then
        BitVec.ofNat 8 ((Sparse.get 0 s.core.matrix.acc ((descRow0 c.desc + (q - s.ownKey c.a) / 256) % 256 * 64 + (q - s.ownKey c.a) % 256 / 4)).toNat / 256 ^ ((q - s.ownKey c.a) % 4))
      else Memory.byte s.mem q
  | 0 => ⟨s.mem, s.early, rfl, fun q => by rw [if_neg (by omega)]⟩
  | n + 1 => by
    obtain ⟨mem, early, run, bytes⟩ := State.foldl_acrdRow hashed snap c n
    have one : ∃ e, ({ s with mem, early } : State).acrdRow c n
        = { s with mem := Memory.write mem (s.ownKey c.a + 256 * n) (rowBytes (s.accRow (descRow0 c.desc + n))), early := e } :=
      ⟨_, State.pokeAs_plain (s := { s with mem, early }) hashed snap ..⟩
    obtain ⟨e, one⟩ := one
    rw [List.range_succ, List.foldl_append, run, List.foldl_cons, List.foldl_nil, one]
    refine ⟨_, _, rfl, fun q => ?_⟩
    have size : (rowBytes (s.accRow (descRow0 c.desc + n))).length = 256 := by rw [length_rowBytes, length_accRow]
    rw [Memory.byte_write, size, bytes]
    by_cases here : s.ownKey c.a + 256 * n ≤ q ∧ q < s.ownKey c.a + 256 * n + 256
    · rw [if_pos here, if_pos (by omega), getD_rowBytes _ (by rw [length_accRow]; omega), getD_accRow _ _ (by omega)]
      rw [show (q - s.ownKey c.a) / 256 = n by omega, show (q - s.ownKey c.a) % 256 = q - (s.ownKey c.a + 256 * n) by omega,
        show (q - s.ownKey c.a) % 4 = (q - (s.ownKey c.a + 256 * n)) % 4 by omega]
    · rw [if_neg here]
      by_cases before : s.ownKey c.a ≤ q ∧ q < s.ownKey c.a + 256 * n
      · rw [if_pos before, if_pos (by omega)]
      · rw [if_neg before, if_neg (by omega)]

end Sys2Proof.Machine
end

section
/-! SUPPORT. A step of a matrix command changes no register and, of the queue, the mismatches of its head alone (R330, R334 to R344). -/

namespace Sys2Proof.Machine

open Sys2Proof

/-- From `s` to `t` no context has changed, and of the queue the mismatches of its head alone. -/
structure State.onlySteps (s t : State) : Prop where
  ctxs : t.ctxs = s.ctxs
  queue : ∀ c cs, s.core.matrix.queue = c :: cs → ∃ mism, t.core.matrix.queue = { c with mism } :: cs

namespace State.onlySteps

variable {s t u : State}

theorem refl (s : State) : s.onlySteps s := ⟨rfl, fun c _ h => ⟨c.mism, h⟩⟩

theorem trans (h : s.onlySteps t) (k : t.onlySteps u) : s.onlySteps u := by
  refine ⟨k.ctxs.trans h.ctxs, fun c cs queue => ?_⟩
  obtain ⟨mism, queue⟩ := h.queue c cs queue
  obtain ⟨mism, queue⟩ := k.queue _ cs queue
  exact ⟨mism, queue⟩

theorem of_queue (ctxs : t.ctxs = s.ctxs) (queue : t.core.matrix.queue = s.core.matrix.queue) : s.onlySteps t :=
  ⟨ctxs, fun c _ h => ⟨c.mism, queue.trans h⟩⟩

theorem of_records (h : s.onlyRecords t) : s.onlySteps t :=
  .of_queue (by rw [h]) (by rw [h])

end State.onlySteps

theorem State.writeRow_steps (s : State) (row : Nat) (ws : List (BitVec 32)) : s.onlySteps (s.writeRow row ws) := by
  unfold State.writeRow
  refine State.onlySteps.trans (t := match s.core.snapshot with
    | some sn => if sn.rows.any fun x => x.1 = row then s else s.daybook sn { sn with rows := sn.rows ++ [(row, rowOf s.core.matrix.acc row)] }
    | none => s) ?_ (.of_queue rfl rfl)
  split
  · split
    · exact .refl s
    · exact .of_records (s.daybook_onlyRecords ..)
  · exact .refl s

theorem State.writeRows_steps : ∀ (rs : List (List (BitVec 32))) (row : Nat) (s : State), s.onlySteps (State.writeRows row rs s)
  | [], _, s => .refl s
  | ws :: rs, row, s => (s.writeRow_steps (row % 256) ws).trans (State.writeRows_steps rs (row + 1) _)

theorem State.drainKept_steps (s : State) : s.onlySteps s.drainKept := by
  unfold State.drainKept
  split
  · exact (State.writeRows_steps ..).trans (.of_queue rfl rfl)
  · exact .refl s

theorem State.drainOutside_steps (s : State) : s.onlySteps s.drainOutside := by
  unfold State.drainOutside
  split
  · exact .refl s
  · exact s.drainKept_steps.trans (.of_queue rfl rfl)

theorem State.drainFor_steps (s : State) (c : MCmd) : s.onlySteps (s.drainFor c) := by
  unfold State.drainFor
  split
  · exact .refl s
  · split
    · exact .refl s
    · exact s.drainKept_steps
  · exact s.drainOutside_steps
  · exact s.drainKept_steps

/-- Without a kept tile nothing is drained (R336). -/
theorem State.drainFor_none {s : State} (kept : s.core.matrix.kept = none) (c : MCmd) : s.drainFor c = s := by
  have inside : s.drainKept = s := by
    unfold State.drainKept
    rw [kept]
  unfold State.drainFor
  split
  · rfl
  next k e =>
    rw [kept] at e
    cases e
  · exact State.drainOutside_none kept
  · exact inside

/-- What mismatches are noted in: the log, a counter, and RFLT. -/
theorem State.noteMismatches_core (c : MCmd) : ∀ (xs : List Mism) (s : State), (State.noteMismatches c xs s).ctxs = s.ctxs ∧
    ∃ counters rflt, (State.noteMismatches c xs s).core = { s.core with counters, matrix := { s.core.matrix with rflt } }
  | [], s => ⟨rfl, s.core.counters, s.core.matrix.rflt, rfl⟩
  | x :: xs, s => by
    have logged := s.logEntry_core true 3 0x0D (s.sourceOf c.ctx) (s.residueDetail x false) (s.blockAddr c x.block)
    have ctxs := s.logEntry_ctxs true 3 0x0D (s.sourceOf c.ctx) (s.residueDetail x false) (s.blockAddr c x.block)
    unfold State.noteMismatches
    generalize s.logEntry true 3 0x0D (s.sourceOf c.ctx) (s.residueDetail x false) (s.blockAddr c x.block) = u at logged ctxs ⊢
    dsimp only
    obtain ⟨same, counters, rflt, core⟩ := State.noteMismatches_core c xs ((u.count 7).modCore fun k =>
      { k with matrix := { k.matrix with rflt := if k.matrix.rflt = 255 then 255 else k.matrix.rflt + 1 } })
    refine ⟨same.trans ?_, counters, rflt, core.trans ?_⟩
    · exact (congrArg State.ctxs (u.count_only 7)).trans ctxs
    · rw [State.count_only, State.modCore, ← logged]

/-- What computed rows leave: IOVF, the mismatches of the head of the queue, and RFLT. -/
theorem State.noteRows_core (s : State) (c : MCmd) (rs : List (List (BitVec 32) × Bool × List Mism)) : s.onlySteps (s.noteRows c rs) ∧
    (s.noteRows c rs).core.matrix.acc = s.core.matrix.acc ∧ (s.noteRows c rs).core.matrix.kept = s.core.matrix.kept ∧
      (s.noteRows c rs).core.snapshot = s.core.snapshot := by
  unfold State.noteRows
  dsimp only
  generalize (rs.map (·.2.2)).flatten = xs
  generalize rs.any (·.2.1) = over_
  obtain ⟨ctxs, counters, rflt, core⟩ := State.noteMismatches_core c xs
    ((s.modCore fun k => { k with matrix := { k.matrix with iovf := k.matrix.iovf || over_, upsets := [] } }).setHead fun h => { h with mism := h.mism ++ xs })
  refine ⟨⟨ctxs, fun d ds queue => ⟨d.mism ++ xs, ?_⟩⟩, ?_, ?_, ?_⟩
  · rw [core]
    unfold State.setHead State.modCore
    dsimp only
    rw [queue]
  all_goals
    rw [core]
    rfl

theorem State.noteRows_steps (s : State) (c : MCmd) (rs : List (List (BitVec 32) × Bool × List Mism)) : s.onlySteps (s.noteRows c rs) := by
  obtain ⟨steps, -⟩ := s.noteRows_core c rs
  exact steps

theorem State.performMmul_steps (s : State) (c : MCmd) (sp : Bool) : s.onlySteps (s.performMmul c sp) := by
  unfold State.performMmul
  split
  · exact .refl s
  · dsimp only
    generalize Product.tile _ _ _ _ _ = rs
    have noted := s.noteRows_steps c rs
    split
    · exact noted.trans (.of_queue rfl rfl)
    · have dropped : (s.noteRows c rs).onlySteps ((s.noteRows c rs).modCore fun k => { k with matrix := { k.matrix with kept := none } }) := .of_queue rfl rfl
      exact (noted.trans dropped).trans (State.writeRows_steps ..)

theorem State.performTask_steps (s : State) (c : MCmd) (t : Task) : s.onlySteps (s.performTask c t) := by
  unfold State.performTask
  exact (s.noteRows_steps c _).trans (State.writeRows_steps ..)

theorem State.performMstream_steps (s : State) (c : MCmd) (lo hi : Nat) : s.onlySteps (s.performMstream c lo hi) := by
  unfold State.performMstream
  split
  · exact (s.noteRows_steps c _).trans (State.writeRows_steps ..)
  · exact .refl s

theorem State.foldl_steps {f : State → Nat → State} (each : ∀ (s : State) (i : Nat), s.onlySteps (f s i)) : ∀ (is : List Nat) (s : State), s.onlySteps (is.foldl f s)
  | [], s => .refl s
  | i :: is, s => (each s i).trans (State.foldl_steps each is (f s i))

theorem State.stepCommand_steps (s : State) (c : MCmd) : s.onlySteps (s.stepCommand c) := by
  unfold State.stepCommand
  dsimp only
  split
  · split
    · exact s.performMmul_steps ..
    · exact .refl s
  · exact s.performTask_steps ..
  · exact s.performMstream_steps ..
  · exact State.foldl_steps (fun s i => .of_records (s.pokeAs_onlyRecords ..)) ..
  · exact State.foldl_steps (fun s i => s.writeRow_steps ..) ..
  · exact State.foldl_steps (fun s i => s.writeRow_steps ..) ..
  · unfold State.fillShadow
    split
    · exact .refl s
    · exact .of_queue rfl rfl
  · exact .refl s

/-! ## The integer blocks (R101, R102) -/

theorem Val.scaled_ofInt (x : Int) : (Val.ofInt x).scaled = (x, 0) := by
  unfold Val.ofInt Val.scaled
  dsimp only
  by_cases neg : x < 0
  · rw [decide_eq_true neg, if_pos rfl]
    exact Prod.ext (by dsimp only; omega) rfl
  · rw [decide_eq_false neg, if_neg Bool.false_ne_true]
    exact Prod.ext (by dsimp only; omega) rfl

/-- A value that is an integer with exponent 0. -/
def Val.holds (v : Val) (x : Int) : Prop := ∃ s m, v = .num s m 0 ∧ v.scaled = (x, 0)

theorem Val.holds_ofInt (x : Int) : (Val.ofInt x).holds x := ⟨_, _, rfl, Val.scaled_ofInt x⟩

theorem Val.holds_mul {v w : Val} {x y : Int} (hv : v.holds x) (hw : w.holds y) : (v.mul w).holds (x * y) := by
  obtain ⟨s, m, rfl, hx⟩ := hv
  obtain ⟨t, n, rfl, hy⟩ := hw
  unfold Val.scaled at hx hy
  dsimp only at hx hy
  obtain ⟨rfl, -⟩ := Prod.mk.inj hx
  obtain ⟨rfl, -⟩ := Prod.mk.inj hy
  refine ⟨s != t, m * n, rfl, ?_⟩
  unfold Val.mul Val.scaled
  dsimp only
  cases s <;> cases t <;> simp

theorem Val.holds_add {v w : Val} {x y : Int} (hv : v.holds x) (hw : w.holds y) : (v.add w).holds (x + y) := by
  obtain ⟨s, m, rfl, hx⟩ := hv
  obtain ⟨t, n, rfl, hy⟩ := hw
  unfold Val.add
  dsimp only
  split
  next zero =>
    obtain ⟨rfl, rfl⟩ := zero
    have none_ (s : Bool) {x : Int} (h : (Val.num s 0 0).scaled = (x, 0)) : x = 0 := by
      cases s <;> exact (congrArg Prod.fst h).symm
    rw [none_ s hx, none_ t hy]
    refine ⟨_, _, rfl, ?_⟩
    cases s && t <;> rfl
  · have sum : dyAdd (x, 0) (y, 0) = (x + y, 0) := by simp [dyAdd]
    rw [hx, hy, sum]
    exact Val.holds_ofInt (x + y)

/-- The sum of the products of integers. -/
theorem sumProducts_holds : ∀ (xs : List (Int × Int)) {v : Val} {x : Int}, v.holds x →
    ((xs.map fun y => (Val.ofInt y.1, Val.ofInt y.2)).foldl (fun s p => s.add (p.1.mul p.2)) v).holds (x + (xs.map fun y => y.1 * y.2).sum)
  | [], v, x, h => by
    rw [List.map_nil, List.map_nil, List.sum_nil, Int.add_zero]
    exact h
  | y :: ys, v, x, h => by
    rw [List.map_cons, List.map_cons, List.foldl_cons, List.sum_cons, ← Int.add_assoc]
    exact sumProducts_holds ys (Val.holds_add h (Val.holds_mul (Val.holds_ofInt y.1) (Val.holds_ofInt y.2)))

theorem residue_int (x : Int) : (residue (x, 0) : Int) = x % 127 := by
  unfold residue
  simp
  omega

/-- The check of integer products is the residue of their sum: no false mismatch (R105). -/
theorem checkValue_ints (xs : List (Int × Int)) :
    checkValue (xs.map fun y => (Val.ofInt y.1, Val.ofInt y.2)) = residue ((xs.map fun y => y.1 * y.2).sum, 0) := by
  have sum : ((((xs.map fun y => (Val.ofInt y.1, Val.ofInt y.2)).map fun p => residue p.1.scaled * residue p.2.scaled).sum : Nat) : Int) % 127 =
      (xs.map fun y => y.1 * y.2).sum % 127 := by
    induction xs with
    | nil => rfl
    | cons y ys ih =>
      rw [List.map_cons, List.map_cons, List.sum_cons, List.map_cons, List.sum_cons, Nat.cast_add, Int.add_emod, ih, Val.scaled_ofInt, Val.scaled_ofInt,
        Nat.cast_mul, residue_int, residue_int, ← Int.mul_emod, ← Int.add_emod]
  have whole := residue_int (xs.map fun y => y.1 * y.2).sum
  unfold checkValue
  omega

/-- An integer block adds its exact sum of products, wrapped (R101, R102). -/
theorem intBlock_ints (xs : List (Int × Int)) (acc : BitVec 32) :
    let w := acc.toInt + (xs.map fun y => y.1 * y.2).sum
    intBlock (xs.map fun y => (Val.ofInt y.1, Val.ofInt y.2)) (0, 0) acc =
      { word := BitVec.ofInt 32 w, ovf := decide (w < -2 ^ 31 ∨ 2 ^ 31 - 1 < w), bad := false } := by
  intro w
  obtain ⟨s, m, -, scaled⟩ := sumProducts_holds xs (v := .num false 0 0) (x := 0) ⟨false, 0, rfl, rfl⟩
  have sum : dyAdd (sumProducts (xs.map fun y => (Val.ofInt y.1, Val.ofInt y.2))).scaled (0, 0) = ((xs.map fun y => y.1 * y.2).sum, 0) := by
    rw [show (sumProducts (xs.map fun y => (Val.ofInt y.1, Val.ofInt y.2))).scaled = _ from scaled]
    simp [dyAdd]
  unfold intBlock
  dsimp only
  rw [sum, checkValue_ints, if_neg (fun h => h rfl)]
  have word : acc.toInt + (xs.map fun y => y.1 * y.2).sum * 2 ^ (0 : Int).toNat = w := by simp [w]
  rw [word, ← Bool.decide_or]

end Sys2Proof.Machine
end

section
/-! SUPPORT. ARBITER_STEP and MATRIX_COMMAND_COMPLETE (R326, R330, R334 to R345). -/

namespace Sys2Proof.Machine

open Sys2Proof

/-! ## Steps -/

theorem State.count_eq (s : State) (ev : BitVec 8) : ∃ counters agenda, s.count ev = { s with core := { s.core with counters }, agenda } :=
  ⟨_, _, s.count_only ev⟩

/-- A step of the command at the head of the queue, where nothing holds the core back (R330). -/
theorem State.exec_arbiterStep {s : State} {c : MCmd} {cs : List MCmd} (queue : s.core.matrix.queue = c :: cs) (evicted : s.job.evicted = false)
    (stopping : s.job.stopping = false) (retake : s.core.matrix.retake = false) (finished : c.finished = false) (steps : c.kind.stepless = false)
    (swap : c.kind ≠ .mswap) (owns : c.kind = .mloads → s.core.matrix.own = true) : exec .arbiterStep s = .next (
      if s.commandReady c = false then s.holdHead
      else ((((s.count 6).drainFor c).stepCommand c).setHead fun h => { h with steps := c.steps + 1, finished := decide (c.stepCount ≤ c.steps + 1) }).post
        (if decide (c.stepCount ≤ c.steps + 1) then .matrixCommandComplete else .arbiterStep)) := by
  have run : exec .arbiterStep s = execArbiterStep s := rfl
  unfold execArbiterStep State.keepsBack at run
  rw [queue] at run
  dsimp only at run
  have free : (c.finished || c.kind.stepless || decide (c.kind = .mswap) || (decide (c.kind = .mloads) && !s.core.matrix.own)
      || ((s.job.evicted || s.job.stopping || s.core.matrix.retake) && !c.finished && decide (c.steps = 0)) || s.job.stopping) = false := by
    rw [finished, steps, decide_eq_false swap, evicted, stopping, retake]
    by_cases loads : c.kind = .mloads
    · rw [owns loads]
      simp
    · rw [decide_eq_false loads]
      rfl
  rw [free, if_neg Bool.false_ne_true] at run
  exact run

theorem State.commandReady_waits {s : State} {c : MCmd} (waits : ∃ y ∈ s.accs, y.seq ∈ c.after) : s.commandReady c = false := by
  obtain ⟨y, hy, after⟩ := waits
  have any : (s.accs.any fun u => decide (u.seq ∈ c.after)) = true := List.any_eq_true.2 ⟨y, hy, decide_eq_true after⟩
  unfold State.commandReady
  rw [any]
  rfl

theorem State.commandReady_free {s : State} {c : MCmd} (free : ¬ ∃ y ∈ s.accs, y.seq ∈ c.after)
    (open_ : c.kind = .acwr → s.gated (s.ownKey c.a) (256 * descRows c.desc) = false) : s.commandReady c = true := by
  have none_ : (s.accs.any fun u => decide (u.seq ∈ c.after)) = false := List.any_eq_false.2 fun y hy h => free ⟨y, hy, of_decide_eq_true h⟩
  unfold State.commandReady
  rw [none_]
  split
  next acwr =>
    rw [open_ acwr]
    rfl
  · rfl

/-- The rows of a command of up to 64 rows are taken in its one step. -/
theorem stepRows {n steps : Nat} (first : steps = 0) (few : n ≤ 64) :
    (List.range (Nat.min (64 * steps + 64) n - 64 * steps)).map (64 * steps + ·) = List.range n := by
  subst first
  rw [show Nat.min (64 * 0 + 64) n = n from Nat.min_eq_right few]
  exact (List.map_congr_left fun i _ => Nat.zero_add i).trans (List.map_id _)

section
variable {s : State} {c : MCmd} (first : c.steps = 0) (few : descRows c.desc ≤ 64)
include first few

theorem State.stepCommand_zero (snap : s.core.snapshot = none) (kind : c.kind = .mzeroAcc) : s.stepCommand c =
    s.withAcc (putRows ((List.range (descRows c.desc)).map fun i => ((descRow0 c.desc + i) % 256, List.replicate 64 0)) s.core.matrix.acc) := by
  unfold State.stepCommand
  rw [kind]
  dsimp only
  rw [stepRows first few]
  exact State.foldl_zeroRow snap c (List.range (descRows c.desc)) s.core.matrix.acc

theorem State.stepCommand_acwr (snap : s.core.snapshot = none) (kind : c.kind = .acwr) : s.stepCommand c =
    s.withAcc (putRows ((List.range (descRows c.desc)).map fun i => ((descRow0 c.desc + i) % 256, wordsOf (s.unitRead (s.ownKey c.a + 256 * i) 256)))
      s.core.matrix.acc) := by
  unfold State.stepCommand
  rw [kind]
  dsimp only
  rw [stepRows first few]
  exact State.foldl_acwrRow snap c (List.range (descRows c.desc)) s.core.matrix.acc

theorem State.stepCommand_acrd (hashed : s.unhashed) (snap : s.core.snapshot = none) (kind : c.kind = .acrd) : ∃ mem early,
    s.stepCommand c = { s with mem, early } ∧ ∀ q, Memory.byte mem q =
      if s.ownKey c.a ≤ q ∧ q < s.ownKey c.a + 256 * descRows c.desc then
        BitVec.ofNat 8 ((Sparse.get 0 s.core.matrix.acc ((descRow0 c.desc + (q - s.ownKey c.a) / 256) % 256 * 64 + (q - s.ownKey c.a) % 256 / 4)).toNat / 256 ^ ((q - s.ownKey c.a) % 4))
      else Memory.byte s.mem q := by
  obtain ⟨mem, early, run, bytes⟩ := State.foldl_acrdRow hashed snap c (descRows c.desc)
  refine ⟨mem, early, ?_, bytes⟩
  unfold State.stepCommand
  rw [kind]
  dsimp only
  rw [stepRows first few]
  exact run

end

/-- The rows that a command of up to 64 rows writes (R340). -/
theorem get_stepRows {row0 n : Nat} (few : n ≤ 64) {f : Nat → List (BitVec 32)} (whole : ∀ i, (f i).length = 64) (m : List (Nat × BitVec 32)) {k : Nat} (hk : k < 64) :
    (∀ i < n, Sparse.get 0 (putRows ((List.range n).map fun i => ((row0 + i) % 256, f i)) m) ((row0 + i) % 256 * 64 + k) = (f i).getD k 0) ∧
      ∀ r, (¬ ∃ i < n, (row0 + i) % 256 = r) → Sparse.get 0 (putRows ((List.range n).map fun i => ((row0 + i) % 256, f i)) m) (r * 64 + k) = Sparse.get 0 m (r * 64 + k) := by
  have size : ∀ x ∈ (List.range n).map fun i => ((row0 + i) % 256, f i), x.2.length = 64 := fun x hx => by
    obtain ⟨i, -, rfl⟩ := List.mem_map.1 hx
    exact whole i
  refine ⟨fun i hi => ?_, fun r out => ?_⟩
  · refine get_putRows (x := ((row0 + i) % 256, f i)) size hk ?_ (List.mem_map.2 ⟨i, List.mem_range.2 hi, rfl⟩) m
    rw [List.map_map]
    exact rows_nodup row0 few
  · refine get_putRows_other size hk (fun h => out ?_) m
    rw [List.map_map] at h
    obtain ⟨i, hi, same⟩ := List.mem_map.1 h
    exact ⟨i, List.mem_range.1 hi, same⟩

theorem length_wordsOf (bs : List Byte) : (wordsOf bs).length = 64 := by
  unfold wordsOf
  rw [List.length_map, List.length_range]

/-- A word of a row as ACWR reads it. -/
theorem getD_wordsOf_read (m : List Host.Cell) (key : Nat) {k : Nat} (hk : k < 64) :
    (wordsOf (Memory.read m key 256)).getD k 0 = BitVec.ofNat 32 (natOfBytes (Memory.read m (key + 4 * k) 4)) := by
  unfold wordsOf
  rw [List.getD_eq_getElem?_getD, List.getElem?_map, List.getElem?_range hk, show (32 : Nat) = 8 * 4 from rfl]
  exact congrArg (BitVec.ofNat 32) (codeAt_read m key (by omega))

/-! ## MMUL -/

theorem Product.length_row (p : Product) (us : List Upset) (i row rot : Nat) (old : List (BitVec 32)) : (p.row us i row rot old).1.length = 64 := by
  unfold Product.row
  dsimp only
  rw [List.length_map, List.length_range]

theorem mapIdx_map_range {α β : Type} (n : Nat) (f : Nat → α) (g : Nat → α → β) : ((List.range n).map f).mapIdx g = (List.range n).map fun i => g i (f i) :=
  List.ext_getElem (by simp) fun i h k => by simp

/-- The rows of a tile of the store or of zeros. -/
theorem Product.tile_rows (p : Product) (us : List Upset) (row0 rot n : Nat) (f : Nat → List (BitVec 32)) :
    (p.tile us row0 rot ((List.range n).map f)).map (·.1) = (List.range n).map fun i => (p.row us i (row0 + i) rot (f i)).1 := by
  unfold Product.tile
  rw [mapIdx_map_range, List.map_map]
  rfl

theorem State.startTile_eq {s : State} (kept : s.core.matrix.kept = none) (row0 : Nat) (zero : Bool) :
    s.startTile row0 zero = (List.range 64).map fun i => if zero then List.replicate 64 0 else rowOf s.core.matrix.acc ((row0 + i) % 256) := by
  unfold State.startTile
  rw [kept]
  cases zero with
  | false => rfl
  | true =>
    rw [if_pos rfl, List.map_congr_left (g := fun _ => List.replicate 64 0) fun i _ => if_pos rfl, List.map_const', List.length_range]

/-- No tile is kept any more. -/
def State.dropKept (s : State) : State := s.modCore fun k => { k with matrix := { k.matrix with kept := none } }

/-- What the last step of an MMUL leaves (R334 to R336). -/
theorem State.performMmul_does {s : State} {c : MCmd} {sp : Bool} {f : Fmt} (fmt : s.core.matrix.fmt = some f) (kept : s.core.matrix.kept = none)
    (upsets : s.core.matrix.upsets = []) (snap : s.core.snapshot = none) :
    let p := tileProduct f sp (s.core.matrix.cba.getD []) (s.core.matrix.cbb.getD []) (descTiles c.desc)
      (s.unitRead (s.ownKey c.a) (descTiles c.desc * if sp then prunedSize f.fa else tileSize f.fa (scalesFollow f.fa f.sma)))
      (s.unitRead (s.ownKey c.b) (descTiles c.desc * tileSize f.fb (scalesFollow f.fb f.smb)))
    let out (i : Nat) := (p.row [] i (descRow0 c.desc + i) 0 (if descZero c.desc then List.replicate 64 0 else rowOf s.core.matrix.acc ((descRow0 c.desc + i) % 256))).1
    (descKeep c.desc = false → (s.performMmul c sp).core.matrix.acc =
      putRows ((List.range 64).map fun i => ((descRow0 c.desc + i) % 256, out i)) s.core.matrix.acc) ∧
    (descKeep c.desc = true → (s.performMmul c sp).core.matrix.acc = s.core.matrix.acc ∧
      (s.performMmul c sp).core.matrix.kept = some { row0 := descRow0 c.desc, rows := (List.range 64).map out }) := by
  intro p out
  have rows : ((p.tile [] (descRow0 c.desc) 0 (s.startTile (descRow0 c.desc) (descZero c.desc))).map (·.1)) = (List.range 64).map out := by
    rw [State.startTile_eq kept]
    exact p.tile_rows ..
  have run : s.performMmul c sp = if descKeep c.desc then
        (s.noteRows c (p.tile [] (descRow0 c.desc) 0 (s.startTile (descRow0 c.desc) (descZero c.desc)))).modCore fun k =>
          { k with matrix := { k.matrix with kept := some { row0 := descRow0 c.desc, rows := (List.range 64).map out } } }
      else State.writeRows (descRow0 c.desc) ((List.range 64).map out)
        ((s.noteRows c (p.tile [] (descRow0 c.desc) 0 (s.startTile (descRow0 c.desc) (descZero c.desc)))).modCore fun k =>
          { k with matrix := { k.matrix with kept := none } }) := by
    rw [← rows]
    unfold State.performMmul
    rw [fmt]
    dsimp only
    rw [upsets]
  generalize p.tile [] (descRow0 c.desc) 0 (s.startTile (descRow0 c.desc) (descZero c.desc)) = rs at run
  obtain ⟨-, acc, -, snapshot⟩ := s.noteRows_core c rs
  generalize s.noteRows c rs = v at run acc snapshot
  rw [run]
  clear_value out
  refine ⟨fun keep => ?_, fun keep => ?_⟩
  · rw [keep, if_neg Bool.false_ne_true]
    have dropped : v.dropKept.core.matrix.acc = v.core.matrix.acc ∧ v.dropKept.core.snapshot = v.core.snapshot := ⟨rfl, rfl⟩
    change (State.writeRows _ _ v.dropKept).core.matrix.acc = _
    rw [State.writeRows_acc _ _ (dropped.2.trans (snapshot.trans snap)), State.withAcc_acc, dropped.1, acc, mapIdx_map_range]
  · rw [keep, if_pos rfl]
    exact ⟨acc, rfl⟩

end Sys2Proof.Machine
end

section
/-! SUPPORT. A command that completes (R326, R328, R332, R333, R337, R341 to R344). -/

namespace Sys2Proof.Machine

open Sys2Proof

/-- A command at the head that is done, or takes no step, completes once the accesses it waits for are done. -/
theorem State.exec_matrixCommandComplete {s : State} {c : MCmd} {cs : List MCmd} (queue : s.core.matrix.queue = c :: cs) (evicted : s.job.evicted = false)
    (stopping : s.job.stopping = false) (retake : s.core.matrix.retake = false) (done : c.finished = true ∨ c.kind.stepless = true)
    (ready : s.commandReady c = true) : exec .matrixCommandComplete s = .next (((s.leave c).takeEffect c |>.noteKat c).matrixGoesOn) := by
  have run : exec .matrixCommandComplete s = execMatrixCommandComplete s := rfl
  unfold execMatrixCommandComplete State.keepsBack at run
  rw [queue] at run
  dsimp only at run
  rw [evicted, stopping, retake, ready, Bool.or_false, Bool.or_false, Bool.false_and, Bool.false_and, Bool.or_false, (Bool.or_eq_true _ _).mpr done, Bool.not_true,
    if_neg Bool.false_ne_true, if_neg (fun h : true = false => Bool.noConfusion h)] at run
  exact run

/-- A command's result arrives in the write that waits for it. -/
theorem State.formWrite_parts (s : State) (n : Fin 11) (seq : Nat) (v : Vec) : ∃ ctxs agenda, s.formWrite n seq v = { s with ctxs, agenda } ∧
    (∀ m q, ((s.formWrite n seq v).ctxAt m).reg q = (s.ctxAt m).reg q) ∧ (∀ e ∈ s.agenda, e ∈ agenda) ∧
      ((s.formWrite n seq v).ctxAt n).writes = (s.ctxAt n).writes.map fun y => if y.seq = seq then { y with val := v, need := y.need - 1 } else y := by
  have only := s.fill_only n seq (fun _ => v) false
  refine ⟨_, _, only, fun m q => s.fill_reg n seq _ _ m q, fun e he => ?_, (s.fill_writes n seq _ _).trans ?_⟩
  · unfold State.fill
    dsimp only
    split
    · exact List.mem_append_left _ he
    · exact he
  · refine List.map_congr_left fun y _ => ?_
    unfold PendingWrite.take
    rw [Bool.or_false]

/-- The state without the command at the head of the queue. -/
def State.dropHead (s : State) : State := s.modCore fun k => { k with matrix := { k.matrix with queue := k.matrix.queue.drop 1 } }

/-- A command's result is given to the write that waits for it. -/
def State.answers (s : State) (c : MCmd) (v : Word) : State :=
  match c.result with
  | some n => s.formWrite c.ctx n (v.setWidth 512)
  | none => s

/-- A loom's task counts down. -/
def State.countsDown (s : State) (c : MCmd) : State :=
  match c.kind with
  | .task _ => s.modCore fun k => { k with loom := { k.loom with out := k.loom.out - 1 } }
  | _ => s

theorem State.leave_eq (s : State) (c : MCmd) : s.leave c =
    ((if descBell c.desc then (s.dropHead.answers c (s.commandResult c)).post (.pulse (128 + BitVec.ofNat 8 (s.position / 8)))
      else s.dropHead.answers c (s.commandResult c)).raiseResidue c).countsDown c := by
  unfold State.leave State.countsDown State.answers State.dropHead
  rfl

theorem State.answers_parts (s : State) (c : MCmd) (v : Word) : ∃ ctxs agenda, s.answers c v = { s with ctxs, agenda } ∧
    (∀ m q, (ctxs.get m).reg q = (s.ctxAt m).reg q) ∧
      ∀ q, c.result = some q → (ctxs.get c.ctx).writes = (s.ctxAt c.ctx).writes.map fun y =>
        if y.seq = q then { y with val := v.setWidth 512, need := y.need - 1 } else y := by
  unfold State.answers
  cases c.result with
  | none => exact ⟨s.ctxs, s.agenda, rfl, fun _ _ => rfl, fun q h => by cases h⟩
  | some n =>
    obtain ⟨ctxs, agenda, eq, regs, -, writes⟩ := s.formWrite_parts c.ctx n (v.setWidth 512)
    rw [eq] at regs writes
    exact ⟨ctxs, agenda, eq, regs, fun q h => by cases h; exact writes⟩

theorem State.raiseResidue_parts (s : State) (c : MCmd) : ∃ rest, s.raiseResidue c = { s with agenda := s.agenda ++ rest } ∧
    ∀ m, c.mism = [m] → .matrixResidueFault c.ctx (s.residueDetail m false) c.iaddr (s.blockAddr c m.block) ∈ rest := by
  unfold State.raiseResidue
  split
  next none_ =>
    refine ⟨[], by rw [List.append_nil], fun m one => ?_⟩
    rw [one] at none_
    cases none_
  next x found =>
    refine ⟨_, rfl, fun m one => ?_⟩
    rw [one] at found
    obtain rfl : m = x := Option.some.inj found
    rw [one]
    exact List.mem_singleton_self _

theorem State.countsDown_parts (s : State) (c : MCmd) : ∃ loom, s.countsDown c = { s with core := { s.core with loom } } := by
  unfold State.countsDown
  split
  · exact ⟨_, rfl⟩
  · exact ⟨s.core.loom, rfl⟩

/-- What a command that leaves the queue leaves behind. -/
theorem State.leave_parts (s : State) (c : MCmd) : ∃ ctxs agenda loom,
    s.leave c = { s with
      ctxs, agenda, core := { s.core with matrix := { s.core.matrix with queue := s.core.matrix.queue.drop 1 }, loom } } ∧
      (∀ m q, (ctxs.get m).reg q = (s.ctxAt m).reg q) ∧
      (∀ q, c.result = some q → (ctxs.get c.ctx).writes = (s.ctxAt c.ctx).writes.map fun y =>
        if y.seq = q then { y with val := (s.commandResult c).setWidth 512, need := y.need - 1 } else y) ∧
      (c.desc.getLsbD 34 = true → .pulse (128 + BitVec.ofNat 8 (s.position / 8)) ∈ agenda) ∧
      (∀ m, c.mism = [m] → .matrixResidueFault c.ctx (s.residueDetail m false) c.iaddr (s.blockAddr c m.block) ∈ agenda) := by
  obtain ⟨ctxs, agenda, answered, regs, writes⟩ := s.dropHead.answers_parts c (s.commandResult c)
  have rung : ∃ rest, (if descBell c.desc then ({ s.dropHead with ctxs, agenda } : State).post (.pulse (128 + BitVec.ofNat 8 (s.position / 8)))
      else { s.dropHead with ctxs, agenda }) = { s.dropHead with ctxs, agenda := agenda ++ rest } ∧
      (c.desc.getLsbD 34 = true → .pulse (128 + BitVec.ofNat 8 (s.position / 8)) ∈ rest) := by
    by_cases bell : descBell c.desc = true
    · rw [if_pos bell]
      exact ⟨_, rfl, fun _ => List.mem_singleton_self _⟩
    · rw [if_neg bell]
      exact ⟨[], by rw [List.append_nil], fun h => absurd h bell⟩
  obtain ⟨rest, rung, bell⟩ := rung
  obtain ⟨fault, raised, residue⟩ := State.raiseResidue_parts { s.dropHead with ctxs, agenda := agenda ++ rest } c
  obtain ⟨loom, counted⟩ := State.countsDown_parts { s.dropHead with ctxs, agenda := agenda ++ rest ++ fault } c
  have run := s.leave_eq c
  rw [answered] at run
  rw [show s.leave c = { s.dropHead with ctxs, agenda := agenda ++ rest ++ fault, core := { s.dropHead.core with loom } } from
    run.trans ((congrArg (fun t : State => (t.raiseResidue c).countsDown c) rung).trans ((congrArg (State.countsDown · c) raised).trans counted))]
  exact ⟨ctxs, agenda ++ rest ++ fault, loom, rfl, regs, writes, fun h => List.mem_append_left _ (List.mem_append_right _ (bell h)),
    fun m one => List.mem_append_right _ (residue m one)⟩

/-- What a command without a step does in queue order leaves the queue and the accumulator store. -/
theorem State.takeEffect_parts (s : State) (c : MCmd) : ∃ matrix, s.takeEffect c = { s with core := { s.core with matrix } } ∧
    matrix.queue = s.core.matrix.queue ∧ matrix.acc = s.core.matrix.acc := by
  unfold State.takeEffect
  cases c.kind with
  | mctx w => exact ⟨_, rfl, rfl, rfl⟩
  | mcbk x =>
    cases x with
    | true => exact ⟨_, rfl, rfl, rfl⟩
    | false => exact ⟨_, rfl, rfl, rfl⟩
  | mzeroSt => exact ⟨_, rfl, rfl, rfl⟩
  | mflag x =>
    cases x with
    | true => exact ⟨_, rfl, rfl, rfl⟩
    | false => exact ⟨s.core.matrix, rfl, rfl, rfl⟩
  | _ => exact ⟨s.core.matrix, rfl, rfl, rfl⟩

theorem State.takeEffect_mctx {s : State} {c : MCmd} {w : Word} (kind : c.kind = .mctx w) : (s.takeEffect c).core.matrix.fmt = fmtOfWord w := by
  unfold State.takeEffect
  rw [kind]
  rfl

theorem State.takeEffect_mcbk {s : State} {c : MCmd} {x : Bool} (kind : c.kind = .mcbk x) :
    (if x then (s.takeEffect c).core.matrix.cbb else (s.takeEffect c).core.matrix.cba) = some (bookOf (s.unitRead (s.ownKey c.a) 32)) := by
  unfold State.takeEffect
  rw [kind]
  cases x <;> rfl

theorem State.takeEffect_mzeroSt {s : State} {c : MCmd} (kind : c.kind = .mzeroSt) :
    (s.takeEffect c).core.matrix.own = false ∧ (s.takeEffect c).core.matrix.shadow = none ∧ (s.takeEffect c).core.matrix.live = none := by
  unfold State.takeEffect
  rw [kind]
  exact ⟨rfl, rfl, rfl⟩

theorem State.takeEffect_mflag {s : State} {c : MCmd} (kind : c.kind = .mflag true) : (s.takeEffect c).core.matrix.iovf = false := by
  unfold State.takeEffect
  rw [kind]
  rfl

theorem State.noteKat_parts (s : State) (c : MCmd) : ∃ katRuns dev mem job,
    s.noteKat c = { s with dev, mem, job, core := { s.core with matrix := { s.core.matrix with katRuns } } } ∧ (c.kind ≠ .mchkKat → mem = s.mem) := by
  unfold State.noteKat
  split
  next kind =>
    dsimp only
    split
    · exact ⟨_, s.dev, s.mem, s.job, rfl, fun _ => rfl⟩
    · rw [State.logEntry_only]
      exact ⟨_, _, _, _, rfl, fun h => absurd kind h⟩
  next kind => exact ⟨s.core.matrix.katRuns, s.dev, s.mem, s.job, rfl, fun _ => rfl⟩

end Sys2Proof.Machine
end

section
/-! PROOF. O44: commands of the matrix unit are performed (R101, R102, R105, R330 to R345). -/

namespace Sys2Proof.Machine

open Sys2Proof

/-! ## The grant of the stationary pair (R337, R345) -/

theorem State.grant_retakes {s : State} (other : s.core.matrix.otherOwner = false) (retake : s.core.matrix.retake = true) :
    exec .stationaryPairGrant s = .next s.retaken := by
  have run : exec .stationaryPairGrant s = execStationaryPairGrant s := rfl
  rw [execStationaryPairGrant, other, if_neg Bool.false_ne_true, retake, if_pos rfl] at run
  exact run

theorem State.grant_loads {s : State} {c : MCmd} {cs : List MCmd} (queue : s.core.matrix.queue = c :: cs) (other : s.core.matrix.otherOwner = false)
    (retake : s.core.matrix.retake = false) (evicted : s.job.evicted = false) (stopping : s.job.stopping = false) (kind : c.kind = .mloads)
    (own : s.core.matrix.own = false) :
    exec .stationaryPairGrant s = .next ((s.modCore fun k => { k with matrix := { k.matrix with own := true } }).post .arbiterStep) := by
  have run : exec .stationaryPairGrant s = execStationaryPairGrant s := rfl
  have free : s.keepsBack c = false := by
    unfold State.keepsBack
    rw [evicted, stopping, retake]
    rfl
  rw [execStationaryPairGrant, other, if_neg Bool.false_ne_true, retake, if_neg Bool.false_ne_true, queue] at run
  dsimp only at run
  rw [if_pos ⟨kind, own, free⟩] at run
  exact run

theorem State.mswap_takes {s : State} {c : MCmd} {cs : List MCmd} (queue : s.core.matrix.queue = c :: cs)
    (retake : s.core.matrix.retake = false) (evicted : s.job.evicted = false) (stopping : s.job.stopping = false) (kind : c.kind = .mswap)
    (unfinished : c.finished = false) : exec .mswapTakesEffect s = .next (((s.modCore fun k =>
      { k with matrix := { k.matrix with live := k.matrix.shadow, shadow := none } }).setHead fun h => { h with finished := true }).post .matrixCommandComplete) := by
  have run : exec .mswapTakesEffect s = execMswapTakesEffect s := rfl
  have free : s.keepsBack c = false := by
    unfold State.keepsBack
    rw [evicted, stopping, retake]
    rfl
  rw [execMswapTakesEffect, queue] at run
  dsimp only at run
  rw [if_pos ⟨kind, unfinished, free⟩] at run
  exact run

theorem State.arbiterStep_stops {s : State} (stopping : s.job.stopping = true) : exec .arbiterStep s = .next s := by
  have run : exec .arbiterStep s = execArbiterStep s := rfl
  rw [execArbiterStep, stopping] at run
  simp only [Bool.or_true, if_true] at run
  refine run.trans ?_
  split <;> rfl

theorem State.setHead_cons {s : State} {c : MCmd} {cs : List MCmd} (queue : s.core.matrix.queue = c :: cs) (f : MCmd → MCmd) :
    s.setHead f = s.modCore fun k => { k with matrix := { k.matrix with queue := f c :: cs } } := by
  unfold State.setHead State.modCore
  dsimp only
  rw [queue]

/-! ## Steps -/

section
variable {s : State} {c : MCmd}

/-- Steps that leave memory as it is: all but those that copy rows out or note mismatches. -/
theorem State.stepCommand_mem (snap : s.core.snapshot = none) (acrd : c.kind ≠ .acrd) (mmul : ∀ f, c.kind ≠ .mmul f) (task : ∀ f, c.kind ≠ .task f)
    (mstream : c.kind ≠ .mstream) : (s.stepCommand c).mem = s.mem := by
  unfold State.stepCommand
  dsimp only
  split
  next sp kind => exact absurd kind (mmul sp)
  next t kind => exact absurd kind (task t)
  next kind => exact absurd kind mstream
  next kind => exact absurd kind acrd
  · exact (congrArg State.mem (State.foldl_acwrRow snap c _ s.core.matrix.acc) :)
  · exact (congrArg State.mem (State.foldl_zeroRow snap c _ s.core.matrix.acc) :)
  · unfold State.fillShadow
    split <;> rfl
  · rfl

theorem State.stepCommand_mloads {f : Fmt} (kind : c.kind = .mloads) (fmt : s.core.matrix.fmt = some f) (good : s.bad = []) :
    (s.stepCommand c).core.matrix.shadow = some
      { addr := c.a, fmt := f.fb, scaled := f.smb && carriesScales f.fb,
        data := Memory.read s.mem (s.ownKey c.a) (tileSize f.fb (f.smb && carriesScales f.fb)), book := s.core.matrix.cbb.getD [] } := by
  unfold State.stepCommand State.fillShadow
  rw [kind]
  dsimp only
  rw [fmt]
  dsimp only
  rw [State.unitRead_good good]
  rfl

/-- The last step of an MMUL, with its operands read (R334 to R336). -/
theorem State.stepCommand_mmul {f : Fmt} {sp : Bool} (kind : c.kind = .mmul sp) (fmt : s.core.matrix.fmt = some f) (last : c.steps + 1 = descTiles c.desc)
    (snap : s.core.snapshot = none) (good : s.bad = []) (upsets : s.core.matrix.upsets = []) (kept : s.core.matrix.kept = none) :
    let p := tileProduct f sp (s.core.matrix.cba.getD []) (s.core.matrix.cbb.getD []) (descTiles c.desc)
      (Memory.read s.mem (s.ownKey c.a) (descTiles c.desc * if sp then prunedSize f.fa else tileSize f.fa (scalesFollow f.fa f.sma)))
      (Memory.read s.mem (s.ownKey c.b) (descTiles c.desc * tileSize f.fb (scalesFollow f.fb f.smb)))
    let out (i : Nat) := (p.row [] i (descRow0 c.desc + i) 0 (if descZero c.desc then List.replicate 64 0 else rowOf s.core.matrix.acc ((descRow0 c.desc + i) % 256))).1
    (descKeep c.desc = false → ∀ i k, i < 64 → k < 64 → Sparse.get 0 (s.stepCommand c).core.matrix.acc ((descRow0 c.desc + i) % 256 * 64 + k) = (out i).getD k 0) ∧
    (descKeep c.desc = true → (s.stepCommand c).core.matrix.acc = s.core.matrix.acc ∧
      (s.stepCommand c).core.matrix.kept = some { row0 := descRow0 c.desc, rows := (List.range 64).map out }) := by
  intro p out
  have run : s.stepCommand c = s.performMmul c sp := by
    unfold State.stepCommand
    rw [kind]
    exact if_pos last
  have does := State.performMmul_does (c := c) (sp := sp) fmt kept upsets snap
  rw [State.unitRead_good good, State.unitRead_good good] at does
  obtain ⟨stores, keeps⟩ := does
  rw [run]
  refine ⟨fun keep i k hi hk => ?_, keeps⟩
  rw [stores keep]
  obtain ⟨written, -⟩ := get_stepRows (row0 := descRow0 c.desc) (n := 64) (f := out) le_rfl (fun i => Product.length_row ..) s.core.matrix.acc hk
  exact written i hi

end

/-- The codebook that MCBK copies (R333). -/
theorem bookOf_read (m : List Host.Cell) (key : Nat) :
    bookOf (Memory.read m key 32) = (List.range 16).map fun i => BitVec.ofNat 16 (natOfBytes (Memory.read m (key + 2 * i) 2)) := by
  unfold bookOf
  refine List.map_congr_left fun i hi => ?_
  have small := List.mem_range.1 hi
  rw [show (16 : Nat) = 8 * 2 from rfl, codeAt_read m key (by omega)]

/-- The state with an event counted. -/
def State.counting (s : State) (counters : Vector Counter 16) (agenda : List Instr) : State := { s with core := { s.core with counters }, agenda }

/-- A step taken (R330): the registers stay, the head has one step more, and what follows is posted. -/
theorem State.arbiterStep_takes {s : State} {c : MCmd} {cs : List MCmd} (queue : s.core.matrix.queue = c :: cs) (evicted : s.job.evicted = false)
    (stopping : s.job.stopping = false) (retake : s.core.matrix.retake = false) (finished : c.finished = false) (steps : c.kind.stepless = false)
    (swap : c.kind ≠ .mswap) (owns : c.kind = .mloads → s.core.matrix.own = true) (ready : s.commandReady c = true) : ∃ counters agenda w mism,
      w = ((s.counting counters agenda).drainFor c).stepCommand c ∧ w.ctxs = s.ctxs ∧
      exec .arbiterStep s = .next ((w.modCore fun k => { k with matrix := { k.matrix with
        queue := { c with mism, steps := c.steps + 1, finished := decide (c.stepCount ≤ c.steps + 1) } :: cs } }).post
          (if decide (c.stepCount ≤ c.steps + 1) then .matrixCommandComplete else .arbiterStep)) := by
  have run := State.exec_arbiterStep queue evicted stopping retake finished steps swap owns
  rw [ready, if_neg (by exact Bool.noConfusion)] at run
  obtain ⟨counters, agenda, counted⟩ := s.count_eq 6
  rw [counted, ← State.counting] at run
  have taken : s.onlySteps (((s.counting counters agenda).drainFor c).stepCommand c) :=
    (State.onlySteps.of_queue (s := s) (t := s.counting counters agenda) rfl rfl).trans ((State.drainFor_steps _ c).trans (State.stepCommand_steps _ c))
  obtain ⟨mism, head⟩ := taken.queue c cs queue
  rw [State.setHead_cons head] at run
  exact ⟨counters, agenda, _, mism, rfl, taken.ctxs, run⟩

theorem State.drainFor_mloads {s : State} {c : MCmd} (kind : c.kind = .mloads) : s.drainFor c = s := by
  unfold State.drainFor
  rw [kind]

theorem State.matrixGoesOn_parts (s : State) : ∃ rest, s.matrixGoesOn = { s with agenda := s.agenda ++ rest } ∧ ∀ e ∈ s.core.matrix.next, e ∈ rest := by
  unfold State.matrixGoesOn
  dsimp only
  rw [List.append_assoc, List.append_assoc]
  exact ⟨_, rfl, fun e he => List.mem_append_right _ (List.mem_append_right _ he)⟩

/-- What a command that completes leaves (R326, R328, R332, R333, R337, R341 to R344). -/
theorem State.completed_does (s : State) (c : MCmd) : let t := (((s.leave c).takeEffect c).noteKat c).matrixGoesOn
    t.core.matrix.queue = s.core.matrix.queue.drop 1 ∧ t.core.matrix.acc = s.core.matrix.acc ∧ (∀ m q, (t.ctxAt m).reg q = (s.ctxAt m).reg q) ∧
      (c.kind ≠ .mchkKat → t.mem = s.mem) ∧
      (∀ q, c.result = some q → (t.ctxAt c.ctx).writes = (s.ctxAt c.ctx).writes.map fun y =>
        if y.seq = q then { y with val := wide (s.commandResult c), need := y.need - 1 } else y) ∧
      (c.desc.getLsbD 34 = true → .pulse (128 + BitVec.ofNat 8 (s.position / 8)) ∈ t.agenda) ∧
      (∀ m, c.mism = [m] → .matrixResidueFault c.ctx (s.residueDetail m false) c.iaddr (s.blockAddr c m.block) ∈ t.agenda) ∧
      (∀ w, c.kind = .mctx w → t.core.matrix.fmt = fmtOfWord w) ∧
      (∀ x, c.kind = .mcbk x → (if x then t.core.matrix.cbb else t.core.matrix.cba) = some (bookOf (s.unitRead (s.ownKey c.a) 32))) ∧
      (c.kind = .mzeroSt → t.core.matrix.own = false ∧ t.core.matrix.shadow = none ∧ t.core.matrix.live = none) ∧
      (c.kind = .mflag true → t.core.matrix.iovf = false) ∧ ∀ e ∈ t.core.matrix.next, e ∈ t.agenda := by
  intro t
  obtain ⟨ctxs, agenda, loom, left, regs, writes, bell, residue⟩ := s.leave_parts c
  have read : (s.leave c).unitRead ((s.leave c).ownKey c.a) 32 = s.unitRead (s.ownKey c.a) 32 := by rw [left]; rfl
  have fmt {w : Word} := State.takeEffect_mctx (s := s.leave c) (c := c) (w := w)
  have books {x : Bool} := State.takeEffect_mcbk (s := s.leave c) (c := c) (x := x)
  have released := State.takeEffect_mzeroSt (s := s.leave c) (c := c)
  have cleared := State.takeEffect_mflag (s := s.leave c) (c := c)
  obtain ⟨matrix, effect, queue, acc⟩ := (s.leave c).takeEffect_parts c
  obtain ⟨katRuns, dev, mem, job, kat, same⟩ := ((s.leave c).takeEffect c).noteKat_parts c
  obtain ⟨rest, goes, next⟩ := (((s.leave c).takeEffect c).noteKat c).matrixGoesOn_parts
  rw [show t = _ from goes]
  rw [kat] at next ⊢
  rw [effect] at next same fmt books released cleared ⊢
  rw [read] at books
  rw [left] at next same queue acc ⊢
  exact ⟨queue, acc, regs, same, writes, fun h => List.mem_append_left _ (bell h), fun m h => List.mem_append_left _ (residue m h), fun w => fmt, fun x => books,
    released, cleared, fun e he => List.mem_append_right _ (next e he)⟩

/-- Settles O44: a step is `stepCommand`'s, a completion `leave`'s and `takeEffect`'s, and the integer block is exact. -/
theorem matrixCommandsArePerformed : Obligations.MatrixCommandsArePerformed := by
  unfold Obligations.MatrixCommandsArePerformed
  intro s c cs M row0 rows regs word key plain waits
  refine ⟨fun other => ?_, fun p other retake live good => ?_, State.arbiterStep_stops, fun queue evicted stopping retake => ⟨fun unfinished steps swap owns => ?_,
    intBlock_ints, fun kind own other fresh => ?_, fun kind unfinished => ?_, fun done free acwr mism => ?_, fun finished m mism free acwr => ?_⟩, ?_⟩
  · have run : exec .stationaryPairGrant s = execStationaryPairGrant s := rfl
    rw [execStationaryPairGrant, other, if_pos rfl] at run
    exact run
  · refine ⟨_, State.grant_retakes other retake, rfl, rfl, rfl, rfl, rfl, ?_⟩
    show M.live.map s.refill = _
    rw [live, Option.map_some, State.refill, State.unitRead_good good]
  · refine ⟨fun waiting => ?_, fun free gate => ?_⟩
    · have run := State.exec_arbiterStep queue evicted stopping retake unfinished steps swap owns
      rw [if_pos (State.commandReady_waits waiting), State.holdHead, State.setHead_cons queue] at run
      exact ⟨_, run, rfl, rfl, rfl⟩
    · obtain ⟨counters, agenda, w, mism, taken, ctxs, run⟩ := State.arbiterStep_takes queue evicted stopping retake unfinished steps swap owns (State.commandReady_free free gate)
      have calm (p : plain) : w = (s.counting counters agenda).stepCommand c := by
        obtain ⟨-, -, -, -, -, kept⟩ := p
        rw [taken, State.drainFor_none (s := s.counting counters agenda) kept]
      refine ⟨_, _, run, fun m r => congrArg (fun v : Vector Ctx 11 => (v.get m).reg r) ctxs, rfl, rfl, rfl, rfl, List.mem_append_right _ (List.mem_singleton_self _),
        fun p acrd mmul task mstream => ?_, fun kind first few p r k hr hk => ?_, fun kind first few p i k hi hk => ?_, fun kind first few p => ?_,
        fun f kind fmt good => ?_, fun f sp kind fmt last p => ?_⟩
      · show w.mem = s.mem
        rw [calm p]
        obtain ⟨-, snap, -⟩ := p
        exact State.stepCommand_mem (s := s.counting counters agenda) snap acrd mmul task mstream
      · show Sparse.get 0 w.core.matrix.acc _ = _
        rw [calm p]
        obtain ⟨-, snap, -⟩ := p
        rw [State.stepCommand_zero (s := s.counting counters agenda) first few snap kind, State.withAcc_acc]
        obtain ⟨written, others⟩ := get_stepRows (row0 := row0) (f := fun _ => List.replicate 64 0) few (fun _ => List.length_replicate) M.acc hk
        split
        next hit =>
          obtain ⟨i, hi, rfl⟩ := hit
          exact (written i hi).trans (by rw [List.getD_eq_getElem?_getD]; exact List.getElem?_getD_replicate_default_eq ..)
        next miss => exact others r miss
      · show Sparse.get 0 w.core.matrix.acc _ = _
        rw [calm p]
        obtain ⟨-, snap, good, -⟩ := p
        rw [State.stepCommand_acwr (s := s.counting counters agenda) first few snap kind, State.withAcc_acc]
        obtain ⟨written, -⟩ := get_stepRows (row0 := row0) few (fun i => length_wordsOf ((s.counting counters agenda).unitRead (key + 256 * i) 256)) M.acc hk
        refine (written i hi).trans ?_
        rw [State.unitRead_good (s := s.counting counters agenda) good, getD_wordsOf_read _ _ hk]
        rfl
      · obtain ⟨hashed, snap, -⟩ := id p
        obtain ⟨mem, early, did, bytes⟩ := State.stepCommand_acrd (s := s.counting counters agenda) first few hashed snap kind
        have eq := (calm p).trans did
        subst eq
        exact ⟨rfl, bytes⟩
      · rw [State.drainFor_mloads kind] at taken
        have shadow := State.stepCommand_mloads (s := s.counting counters agenda) kind fmt good
        rw [← taken] at shadow
        exact shadow
      · have eq := calm p
        obtain ⟨-, snap, good, -, upsets, kept⟩ := p
        have does := State.stepCommand_mmul (s := s.counting counters agenda) kind fmt last snap good upsets kept
        rw [← eq] at does
        exact does
  · refine ⟨_, State.grant_loads queue other retake evicted stopping kind own, rfl, rfl, rfl, rfl⟩
  · have run := State.mswap_takes queue retake evicted stopping kind unfinished
    have queue' : (s.modCore fun k => { k with matrix := { k.matrix with live := k.matrix.shadow, shadow := none } }).core.matrix.queue = c :: cs := queue
    rw [State.setHead_cons queue'] at run
    exact ⟨_, run, List.mem_append_right _ (List.mem_singleton_self _), rfl, rfl, rfl⟩
  · have run := State.exec_matrixCommandComplete queue evicted stopping retake done (State.commandReady_free free fun h => absurd h acwr)
    obtain ⟨left, acc, same, mem, writes, bell, -, fmt, books, released, cleared, next⟩ := s.completed_does c
    refine ⟨_, run, left.trans (by rw [show s.core.matrix.queue = _ from queue]; rfl), acc, same, mem, fun q v result flag inj kat kinds => ?_, bell, fmt,
      fun x kind good => ?_, released, cleared, next⟩
    · refine (writes q result).trans ?_
      have value : s.commandResult c = v := by
        unfold State.commandResult
        rcases kinds with ⟨x, kind⟩ | kind | kind
        · rw [kind, flag x kind]
          rfl
        · rw [kind, inj kind]
        · rw [kind, kat kind]
      rw [value]
    · rw [books x kind, State.unitRead_good good, bookOf_read]
  · have run := State.exec_matrixCommandComplete queue evicted stopping retake (.inl finished) (State.commandReady_free free fun h => absurd h acwr)
    obtain ⟨-, -, -, -, -, -, residue, -⟩ := s.completed_does c
    exact ⟨_, run, residue m mism⟩
  · intro k detail iaddr caddr
    refine ⟨_, rfl, rfl, fun m ne => ?_, ?_⟩
    · exact State.ctxAt_modCtxAt_ne _ _ _ _ (Ne.symm ne)
    · exact State.ctxAt_modCtxAt ..

end Sys2Proof.Machine
end

section
/-! SUPPORT. How an engine works at the head command of a queue (R206, R243, R245 to R247): its checks, its moves and its writes, and what they leave. -/

namespace Sys2Proof.Machine

open Sys2Proof

/-! ## The head of a queue -/

theorem State.headCmd_cons {s : State} {q : Fin 5} {c : Cmd} {cs : List Cmd} (head : (s.chan q).cmds = c :: cs) : s.headCmd q = some c := by
  rw [State.headCmd, head, List.head?_cons]

theorem State.modHead_cons {s : State} {q : Fin 5} {c : Cmd} {cs : List Cmd} (head : (s.chan q).cmds = c :: cs) (f : Cmd → Cmd) :
    s.modHead q f = s.setChan q { s.chan q with cmds := f c :: cs } := by
  rw [State.modHead, head]

theorem State.modHead_cmds {s : State} {q : Fin 5} {c : Cmd} {cs : List Cmd} (head : (s.chan q).cmds = c :: cs) (f : Cmd → Cmd) :
    ((s.modHead q f).chan q).cmds = f c :: cs := by
  rw [State.modHead_cons head, State.chan_setChan]

theorem State.modHead_ready (s : State) (q : Fin 5) (f : Cmd → Cmd) : ((s.modHead q f).chan q).ready = (s.chan q).ready := by
  cases head : (s.chan q).cmds with
  | nil => rw [State.modHead, head]
  | cons c cs => rw [State.modHead_cons head, State.chan_setChan]

/-- A head command that is changed to itself leaves the state as it is. -/
theorem State.modHead_self {s : State} {q : Fin 5} {c : Cmd} {cs : List Cmd} (head : (s.chan q).cmds = c :: cs) {f : Cmd → Cmd} (self : f c = c) :
    s.modHead q f = s := by
  have chans : s.core.chans.set q.val { s.chan q with cmds := f c :: cs } q.isLt = s.core.chans := by
    rw [self, ← head]
    exact Vector.set_getElem_self q.isLt
  rw [State.modHead_cons head, State.setChan]
  exact congrArg (fun v => { s with core := { s.core with chans := v } }) chans

/-- Only the queues have changed. -/
theorem State.modHead_chans (s : State) (q : Fin 5) (f : Cmd → Cmd) :
    s.modHead q f = { s with core := { s.core with chans := (s.modHead q f).core.chans } } := by
  unfold State.modHead
  dsimp only
  split
  · rfl
  · rfl

theorem State.chan_wake (s : State) (q : Fin 5) : s.wake.chan q = (s.chan q).unhold := mapVec_get _ _ _

theorem State.mem_wake_agenda {s : State} {e : Instr} (h : e ∈ s.agenda) : e ∈ s.wake.agenda :=
  (s.wake_forwards).posted e h

/-! ## What an engine's work changes -/

/-- From `s` to `t` an engine's checks and writes have changed queues, event counters, the agenda, caches and memory, and nothing else. -/
def State.serves (s t : State) : Prop :=
  t = { s with core := { s.core with chans := t.core.chans, counters := t.core.counters }, agenda := t.agenda, micro := t.micro, clutlb := t.clutlb,
               lasttlb := t.lasttlb, revmap := t.revmap, icache := t.icache, mem := t.mem, early := t.early }

namespace State.serves

variable {s t u : State}

theorem refl (s : State) : s.serves s := rfl

theorem trans (h : s.serves t) (k : t.serves u) : s.serves u := by
  unfold State.serves at *
  rw [h] at k
  exact k

theorem of_sought (h : s.sought t) : s.serves t := by
  unfold State.serves State.sought at *
  rw [h]

theorem modHead (h : s.serves t) (q : Fin 5) (f : Cmd → Cmd) : s.serves (t.modHead q f) := by
  refine h.trans ?_
  unfold State.serves
  rw [t.modHead_chans q f]

theorem ctxAt (h : s.serves t) (m : Fin 11) : t.ctxAt m = s.ctxAt m := by
  unfold State.serves at h
  rw [h]
  rfl

theorem clu (h : s.serves t) : t.clu = s.clu := by rw [h]
theorem bad (h : s.serves t) : t.bad = s.bad := by rw [h]
theorem snapshot (h : s.serves t) : t.core.snapshot = s.core.snapshot := by rw [h]

theorem unhashed (h : s.serves t) (plain : s.unhashed) : t.unhashed := by
  have jobs : t.allJobs = s.allJobs := by rw [h]; rfl
  rw [State.unhashed, jobs]
  exact plain

end State.serves

theorem State.engineCheck_sought (s : State) (acc : Access) (a : Word) (n : Nat) (exchange : Bool) : s.sought (s.engineCheck acc a n exchange).1 := by
  have found := s.check_sought acc a n n exchange
  unfold State.engineCheck
  split
  · exact .refl s
  · split
    case h_1 e => exact found.of_fst e

/-! ## A command at work -/

/-- An engine that began at `s` with the command `c` at the head of queue `q`, and `cs` behind it, has come to `t`: memory is `m`, and of the command
no more than its translations and its watermark differ. -/
structure State.working (s : State) (q : Fin 5) (cs : List Cmd) (m : List Host.Cell) (c : Cmd) (t : State) : Prop where
  serves : s.serves t
  mem : t.mem = m
  cmds : ∃ used wm, (t.chan q).cmds = { c with used, wm } :: cs

/-- Nothing about the command or the machine makes its accesses come out of order, be refused or be recorded (R154, R246, R247). -/
structure State.calm (s : State) (c : Cmd) : Prop where
  started : c.started = true
  path : c.path = .none
  lazy : c.lazy = false
  skipped : c.skipped = []
  redo : c.redo = none
  fresh : ∀ key n, c.outdone key n = false
  stopped : c.stopped = false
  retry : c.retry = none
  saving : s.clu.saving = []
  bad : s.bad = []
  unhashed : s.unhashed
  snapshot : s.core.snapshot = none

namespace State.working

variable {s t u : State} {q : Fin 5} {cs : List Cmd} {m : List Host.Cell} {c : Cmd}

theorem start (head : (s.chan q).cmds = c :: cs) : s.working q cs s.mem c s := ⟨.refl s, rfl, c.used, c.wm, head⟩

theorem regs (w : s.working q cs m c t) (n : Fin 11) (r : Reg) : (t.ctxAt n).reg r = (s.ctxAt n).reg r := by rw [w.serves.ctxAt]

theorem retried (w : s.working q cs m c t) (saving : s.clu.saving = []) (key : Nat) : t.retried key = false := by
  rw [State.retried, w.serves.clu, saving]
  rfl

theorem badAt (w : s.working q cs m c t) (bad : s.bad = []) (key n : Nat) : t.badAt key n = none := State.badAt_nil (w.serves.bad.trans bad) key n

theorem peek (w : s.working q cs m c t) (key n : Nat) : t.peek key n = Memory.read m key n := congrArg (Memory.read · key n) w.mem

/-- The head command is changed in what is not its translations or its watermark. -/
theorem modHead (w : s.working q cs m c t) {f : Cmd → Cmd} {d : Cmd}
    (same : ∀ used wm, ∃ wm', f { c with used, wm } = { d with used, wm := wm' }) : s.working q cs m d (t.modHead q f) := by
  obtain ⟨used, wm, cmds⟩ := w.cmds
  obtain ⟨wm', eq⟩ := same used wm
  refine ⟨w.serves.modHead q f, ?_, used, wm', ?_⟩
  · rw [t.modHead_chans q f]
    exact w.mem
  · rw [State.modHead_cmds cmds, eq]

/-- A translation joins those of the command (R206). -/
theorem holds (w : s.working q cs m c t) (p : Place) : s.working q cs m c (t.modHead q fun x => x.holds p) := by
  obtain ⟨used, wm, cmds⟩ := w.cmds
  have held : ∃ used', ({ c with used, wm } : Cmd).holds p = { c with used := used', wm } := by
    unfold Cmd.holds
    split
    · exact ⟨_, rfl⟩
    · exact ⟨_, rfl⟩
  obtain ⟨used', held⟩ := held
  refine ⟨w.serves.modHead q _, ?_, used', wm, ?_⟩
  · rw [t.modHead_chans q]
    exact w.mem
  · rw [State.modHead_cmds cmds, held]

theorem sought (w : s.working q cs m c t) (found : t.sought u) : s.working q cs m c u := by
  obtain ⟨used, wm, cmds⟩ := w.cmds
  refine ⟨w.serves.trans (.of_sought found), found.mem.trans w.mem, used, wm, ?_⟩
  rw [State.chan, found.core]
  exact cmds

/-- A check that passes changes what a translation changes (R245). -/
theorem cmdCheck (w : s.working q cs m c t) {acc : Access} {a : Word} {n : Nat} {p : Place} (check : t.cmdCheck q acc a n = (u, .ok p)) :
    s.working q cs m c u := by
  obtain ⟨used, wm, cmds⟩ := w.cmds
  have found := t.engineCheck_sought acc a n c.exchange
  rw [State.cmdCheck, State.headCmd_cons cmds] at check
  dsimp only at check
  split at check
  · exact (Prod.mk.inj check).1 ▸ w
  · split at check
    · exact absurd (Prod.mk.inj check).2 (by simp)
    case h_2 e =>
      rw [e] at found
      obtain ⟨rfl, _⟩ := Prod.mk.inj check
      exact (w.sought found).holds _

theorem placed : ∀ {ms : List Move} {ps : List PlacedMove} {t : State}, s.working q cs m c t → State.placeMoves q ms t = (u, .ok ps) →
    s.working q cs m c u ∧ ps.map (·.move) = ms
  | [], _, t, w, run => by
    obtain ⟨rfl, nil⟩ := Prod.mk.inj run
    cases nil
    exact ⟨w, rfl⟩
  | a :: ms, ps, t, w, run => by
    rw [State.placeMoves] at run
    split at run
    · exact absurd (Prod.mk.inj run).2 (by simp)
    case h_2 t1 p e1 =>
      split at run
      · exact absurd (Prod.mk.inj run).2 (by simp)
      case h_2 t2 r e2 =>
        split at run
        · exact absurd (Prod.mk.inj run).2 (by simp)
        case h_2 t3 rest e3 =>
          obtain ⟨last, eq⟩ := Prod.mk.inj run
          rw [last] at e3
          cases eq
          obtain ⟨w3, moves⟩ := placed ((w.cmdCheck e1).cmdCheck e2) e3
          exact ⟨w3, by rw [List.map_cons, moves]⟩

/-! ## Reading and writing -/

/-- With nothing read ahead a source is read from memory as it stands. -/
theorem source? (w : s.working q cs m c t) (bad : s.bad = []) {d : Cmd} (pulled : d.pulledAt d.unit i = none) (p : PlacedMove) :
    t.source? d i p = .ok (Memory.read m p.rd p.move.bytes) := by
  rw [State.source?, pulled]
  dsimp only
  rw [w.badAt bad]
  exact congrArg Except.ok (w.peek ..)

/-- A write of the command is in memory, and is counted (R241). -/
theorem write (w : s.working q cs m c t) (calm : s.calm c) (key : Nat) (bs : List Byte) :
    s.working q cs (Memory.write m key bs) { c with bytes := c.bytes + bs.length } (t.engineWrite q key bs) := by
  obtain ⟨used, wm, cmds⟩ := w.cmds
  have fresh : ({ c with used, wm } : Cmd).outdone key bs.length = false := calm.fresh key bs.length
  have wrote := State.pokeAs_plain (w.serves.unhashed calm.unhashed) (w.serves.snapshot.trans calm.snapshot) (cmdAgent c.seq) t.unitSource key bs
  have poked : s.working q cs (Memory.write m key bs) c (t.pokeAs (cmdAgent c.seq) t.unitSource key bs) := by
    rw [wrote]
    exact ⟨w.serves.trans rfl, congrArg (Memory.write · key bs) w.mem, used, wm, cmds⟩
  rw [State.engineWrite, State.headCmd_cons cmds]
  dsimp only
  rw [fresh, if_neg Bool.false_ne_true, if_neg (ne_true_of_eq_false calm.lazy)]
  exact poked.modHead fun used wm => ⟨wm, by dsimp only; rw [calm.skipped, List.isEmpty_nil, if_pos rfl]⟩

end State.working

theorem State.calm.withBytes {s : State} {c : Cmd} (calm : s.calm c) (n : Nat) : s.calm { c with bytes := n } := { calm with }

/-- With no unit put off the next unit of work is the next one. -/
theorem State.calm.unit {s : State} {c : Cmd} (calm : s.calm c) (more : c.next < c.units) : c.unit = c.next := by
  rw [Cmd.unit, calm.redo, if_pos more]
  rfl

theorem State.calm.advance_next {s : State} {c : Cmd} (calm : s.calm c) : c.advance.next = c.next + 1 := by
  have next : c.advance.next = if c.unit ∈ c.skipped then c.next else c.next + 1 := rfl
  rw [next, calm.skipped, if_neg List.not_mem_nil]

/-- The memory that some moves leave, made one by one. -/
def movedBy (ps : List PlacedMove) (m : List Host.Cell) : List Host.Cell := ps.foldl (fun m p => Memory.write m p.wr (Memory.read m p.rd p.move.bytes)) m

/-- The bytes that some moves write. -/
def movedBytes (ms : List Move) : Nat := (ms.map (·.bytes)).sum

namespace State.working

variable {s t u : State} {q : Fin 5} {cs : List Cmd} {m : List Host.Cell} {c : Cmd}

/-- The moves of a unit are made one by one, each from memory as the earlier ones have left it. -/
theorem makeMoves {d : Cmd} {n : Nat} (pulled : ∀ i < n, d.pulledAt d.unit i = none) :
    ∀ (ps : List PlacedMove) {t : State} {m : List Host.Cell} {c : Cmd} (i : Nat), i + ps.length ≤ n → s.working q cs m c t → s.calm c →
    s.working q cs (movedBy ps m) { c with bytes := c.bytes + movedBytes (ps.map (·.move)) } (State.makeMoves q d i ps t)
  | [], t, m, c, i, _, w, _ => w
  | p :: ps, t, m, c, i, le, w, calm => by
    rw [List.length_cons] at le
    have rest := makeMoves pulled ps (i + 1) (by omega) (w.write calm p.wr (Memory.read m p.rd p.move.bytes)) (calm.withBytes _)
    rw [State.makeMoves, w.source? calm.bad (pulled i (by omega)) p]
    dsimp only at rest ⊢
    rw [Memory.length_read, Nat.add_assoc] at rest
    exact rest

theorem meetsBad (w : s.working q cs m c t) (bad : s.bad = []) {d : Cmd} {n : Nat} (pulled : ∀ i < n, d.pulledAt d.unit i = none) {i : Nat}
    {ps : List PlacedMove} (le : i + ps.length ≤ n) :
    t.meetsBad d i ps = false := by
  rw [State.meetsBad, List.any_eq_false]
  intro x hx
  obtain ⟨j, lt, rfl⟩ := List.mem_mapIdx.1 hx
  rw [w.source? bad (pulled _ (by omega))]
  exact Bool.false_ne_true

/-- Moves whose checks pass are made (R247). -/
theorem runMoves (w : s.working q cs m c t) (calm : s.calm c) {d : Cmd} {i : Nat} {ms : List Move}
    {ps : List PlacedMove} (pulled : ∀ j < i + ms.length, d.pulledAt d.unit j = none) (placed : State.placeMoves q ms t = (u, .ok ps)) (fault : State → AccessFault → State) (k : State → State) :
    ∃ z, t.runMoves q d i ms fault k = k z ∧ s.working q cs (movedBy ps m) { c with bytes := c.bytes + movedBytes ms } z := by
  obtain ⟨w, moves⟩ := w.placed placed
  have le : i + ps.length ≤ i + ms.length := by rw [← moves, List.length_map]
  have answered : (ps.any fun p => u.retried p.rd || u.retried p.wr) = false := by
    rw [List.any_eq_false]
    intro p _
    rw [w.retried calm.saving, w.retried calm.saving]
    exact Bool.false_ne_true
  refine ⟨_, ?_, moves ▸ w.makeMoves pulled ps i le calm⟩
  rw [State.runMoves, placed]
  dsimp only
  rw [answered, if_neg Bool.false_ne_true, w.meetsBad calm.bad pulled le, if_neg fun h => Bool.false_ne_true h.2]

/-- A word that the engine reads for itself (R247). -/
theorem engineRead (w : s.working q cs m c t) (calm : s.calm c) {d : Cmd} {a : Word} {n : Nat} {p : Place} (check : t.cmdCheck q .engineRead a n = (u, .ok p))
    (k : State → Nat → State) : t.engineRead q d a n k = k u (natOfBytes (Memory.read m p.key n)) := by
  have w := w.cmdCheck check
  rw [State.engineRead, check]
  dsimp only
  rw [w.retried calm.saving, if_neg Bool.false_ne_true, w.badAt calm.bad]
  exact congrArg (fun bs => k u (natOfBytes bs)) (w.peek ..)

theorem enginePiece (w : s.working q cs m c t) (calm : s.calm c) {d : Cmd} {i : Nat} (pulled : d.pulledAt d.unit i = none) {a : Word} {n : Nat} {p : Place}
    (check : t.cmdCheck q .engineRead a n = (u, .ok p)) (k : State → Nat → State) :
    t.enginePiece q d i a n k = k u (natOfBytes (Memory.read m p.key n)) := by
  rw [State.enginePiece, pulled]
  exact w.engineRead calm check k

/-- A word that the engine forms itself is written. -/
theorem engineStore (w : s.working q cs m c t) (calm : s.calm c) {a : Word} {n : Nat} {bs : List Byte} {p : Place} (len : bs.length = n)
    (check : t.cmdCheck q .engineWrite a n = (u, .ok p)) (k : State → State) :
    ∃ z, t.engineStore q a bs k = k z ∧ s.working q cs (Memory.write m p.key bs) { c with bytes := c.bytes + n } z := by
  subst len
  have w := w.cmdCheck check
  refine ⟨_, ?_, w.write calm p.key bs⟩
  rw [State.engineStore, check]
  dsimp only
  rw [w.retried calm.saving, if_neg Bool.false_ne_true]

/-- A unit of work is done (R249). -/
theorem unitDone (w : s.working q cs m c t) : s.working q cs m c.advance (t.unitDone q) := w.modHead fun _ _ => ⟨_, rfl⟩

/-- What the command does next is posted. -/
theorem engineNext (w : s.working q cs m c t) : s.working q cs m c (t.engineNext q) := by
  unfold State.engineNext
  split
  · split
    · exact w
    · split
      · exact ⟨w.serves.trans rfl, w.mem, w.cmds⟩
      · exact ⟨w.serves.trans rfl, w.mem, w.cmds⟩
  · exact w

end State.working

/-! ## The unit of work is the command's -/

/-- The number of the head command of queue `q` names nothing else that an access may be. -/
structure State.soleWork (s : State) (q : Fin 5) (n : Nat) : Prop where
  accs : ∀ y ∈ s.accs, y.seq ≠ n
  halves : ∀ y ∈ s.halves, y.seq ≠ n
  others : ∀ m x xs, m ≠ q → (s.chan m).cmds = x :: xs → x.seq ≠ n

theorem State.workingQueue_head {s : State} {q : Fin 5} {c : Cmd} {cs : List Cmd} (head : (s.chan q).cmds = c :: cs) (calm : s.calm c) (more : c.next < c.units)
    (sole : s.soleWork q c.seq) : s.workingQueue c.seq = some q := by
  have works : (decide (c.seq = c.seq) && c.started && decide (c.path ≠ .waiting) && !c.finished) = true := by
    simp [calm.started, calm.path, Cmd.finished, calm.stopped, more]
  unfold State.workingQueue
  generalize e : (List.finRange 5).find? _ = found
  cases found with
  | none =>
    have none := List.find?_eq_none.1 e q (List.mem_finRange q)
    rw [State.headCmd_cons head] at none
    exact absurd works none
  | some m =>
    have some := List.find?_some e
    by_cases m = q
    case pos same => rw [same]
    case neg ne =>
      cases other : (s.chan m).cmds with
      | nil => simp [State.headCmd, other] at some
      | cons x xs =>
        rw [State.headCmd_cons other] at some
        simp [sole.others m x xs ne other] at some

/-- A unit of work is done, and the command goes on. -/
theorem State.calm.performs {s t : State} {q : Fin 5} {c d : Cmd} {cs : List Cmd} {m : List Host.Cell} (calm : s.calm c) (head : (s.chan q).cmds = c :: cs)
    (more : c.next < c.units) (sole : s.soleWork q c.seq) (unit : s.engineUnit q c = t) (w : s.working q cs m d t) :
    ∃ u x, exec (.accessPerformed c.seq) s = .next u ∧ u.mem = m ∧ (∀ n r, (u.ctxAt n).reg r = (s.ctxAt n).reg r) ∧ (u.chan q).cmds.head? = some x ∧
      ∃ used wm, x = { d with used, wm, held := false } := by
  have run : exec (.accessPerformed c.seq) s = execAccessPerformed c.seq s := rfl
  have again : ({ c with retry := none } : Cmd) = c := by
    have none := calm.retry
    cases c
    dsimp only at none
    subst none
    rfl
  have noAcc : (s.accs.find? fun a => decide (a.seq = c.seq)) = none := List.find?_eq_none.2 fun y hy => by simpa using sole.accs y hy
  have noHalf : (s.halves.find? fun a => decide (a.seq = c.seq)) = none := List.find?_eq_none.2 fun y hy => by simpa using sole.halves y hy
  have awake : s.resting c = false := by rw [State.resting, calm.retry]; rfl
  rw [execAccessPerformed, noAcc, noHalf, State.workingQueue_head head calm more sole] at run
  dsimp only at run
  rw [State.headCmd_cons head] at run
  dsimp only at run
  rw [State.engineStep, awake, if_neg Bool.false_ne_true, again, State.modHead_self head again, unit] at run
  obtain ⟨used, wm, cmds⟩ := w.engineNext.cmds
  refine ⟨_, _, run, w.engineNext.mem, fun n r => (State.wake_regs _ n r).trans (w.engineNext.regs n r), ?_, used, wm, rfl⟩
  rw [State.chan_wake, Chan.unhold, cmds]
  rfl

end Sys2Proof.Machine
end

section
/-! SUPPORT. The order in which PRUNE ranks the elements of a group, and the two that it keeps (R251). -/

namespace Sys2Proof.Machine

open Sys2Proof

/-! ## Magnitudes -/

/-- The size of a value: a NaN is above the infinities, and they are above every number. -/
def Val.size : Val → WithTop (WithTop ℚ)
  | .nan => ⊤
  | .inf _ => ((⊤ : WithTop ℚ) : WithTop (WithTop ℚ))
  | .num _ m q => (((m : ℚ) * 2 ^ q : ℚ) : WithTop ℚ)

/-- Two numbers compare as their mantissas do once both have the lower exponent. -/
theorem scaled_lt_iff (m n : Nat) (q : Int) (k : Nat) : (m : ℚ) * 2 ^ q < n * 2 ^ (q + k) ↔ (m : Int) < n * 2 ^ k := by
  have same : (n : ℚ) * 2 ^ (q + k) = (n * 2 ^ k) * 2 ^ q := by rw [zpow_add₀ two_ne_zero, zpow_natCast]; ring
  rw [same, mul_lt_mul_iff_left₀ (zpow_pos two_pos q)]
  exact_mod_cast Iff.rfl

theorem scaled_lt_iff_left (m n : Nat) (r : Int) (k : Nat) : (m : ℚ) * 2 ^ (r + k) < n * 2 ^ r ↔ (m : Int) * 2 ^ k < n := by
  have same : (m : ℚ) * 2 ^ (r + k) = (m * 2 ^ k) * 2 ^ r := by rw [zpow_add₀ two_ne_zero, zpow_natCast]; ring
  rw [same, mul_lt_mul_iff_left₀ (zpow_pos two_pos r)]
  exact_mod_cast Iff.rfl

/-- A difference of two numbers is negative where the first is below the second. -/
theorem dyAdd_neg_iff (m n : Nat) (q r : Int) : (dyAdd ((m : Int), q) (-(n : Int), r)).1 < 0 ↔ (m : ℚ) * 2 ^ q < n * 2 ^ r := by
  unfold dyAdd
  dsimp only
  split
  case isTrue le =>
    obtain ⟨k, rfl⟩ := Int.le.dest le
    rw [scaled_lt_iff, add_sub_cancel_left, Int.toNat_natCast, neg_mul]
    exact add_neg_lt_iff_lt_add.trans (by rw [zero_add])
  case isFalse gt =>
    obtain ⟨k, rfl⟩ := Int.le.dest (Int.le_of_lt (Int.not_le.1 gt))
    rw [scaled_lt_iff_left, add_sub_cancel_left, Int.toNat_natCast]
    exact add_neg_lt_iff_lt_add.trans (by rw [zero_add])

theorem compare_lt (m n : Nat) (q r : Int) : decide ((Val.num false m q).cmp (.num false n r) = .lt) = true ↔ (m : ℚ) * 2 ^ q < n * 2 ^ r := by
  rw [decide_eq_true_iff, ← dyAdd_neg_iff]
  exact Int.compare_eq_lt

/-- PRUNE ranks two elements by the size of their values. -/
theorem smaller_iff (t : Ty) (a b : Nat) : smaller t a b = true ↔ (elemValue t a).size < (elemValue t b).size := by
  unfold smaller
  generalize elemValue t a = x
  generalize elemValue t b = y
  cases x with
  | nan => simp [Val.size]
  | inf _ =>
    cases y with
    | nan => simp [Val.size]
    | inf _ => simp [Val.size, Val.abs, Val.cmp]
    | num _ n r => exact iff_of_false Bool.false_ne_true (not_lt.2 (WithTop.coe_le_coe.2 le_top))
  | num _ m q =>
    cases y with
    | nan => exact iff_of_true rfl (WithTop.coe_lt_top _)
    | inf _ => exact iff_of_true rfl (WithTop.coe_lt_coe.2 (WithTop.coe_lt_top _))
    | num _ n r => exact (compare_lt m n q r).trans (by rw [Val.size, Val.size, WithTop.coe_lt_coe, WithTop.coe_lt_coe])

/-! ## The two largest of four -/

/-- The outcome of every meeting of two of four positions, given by six of them. -/
def duels (d01 d02 d03 d12 d13 d23 : Bool) : Nat → Nat → Bool
  | 0, 1 => d01 | 1, 0 => !d01
  | 0, 2 => d02 | 2, 0 => !d02
  | 0, 3 => d03 | 3, 0 => !d03
  | 1, 2 => d12 | 2, 1 => !d12
  | 1, 3 => d13 | 3, 1 => !d13
  | 2, 3 => d23 | 3, 2 => !d23
  | _, _ => false

/-- The positions that fewer than two of the four others beat. -/
def leaders (f : Nat → Nat → Bool) : List Nat :=
  (List.range 4).filter fun i => ((List.range 4).filter fun j => decide (j ≠ i) && f j i).length < 2

theorem leaders_congr {f g : Nat → Nat → Bool} (h : ∀ i < 4, ∀ j < 4, i ≠ j → f i j = g i j) : leaders f = leaders g := by
  refine List.filter_congr fun i hi => ?_
  have same : ((List.range 4).filter fun j => decide (j ≠ i) && f j i) = (List.range 4).filter fun j => decide (j ≠ i) && g j i :=
    List.filter_congr fun j hj => by
      by_cases eq : j = i
      · simp [eq]
      · simp [eq, h j (List.mem_range.1 hj) i (List.mem_range.1 hi) eq]
  rw [same]

/-- Where no three positions beat each other in a circle, two lead, and no other beats either. -/
theorem leaders_duels : ∀ d01 d02 d03 d12 d13 d23 : Bool,
    (∀ i j k : Fin 4, duels d01 d02 d03 d12 d13 d23 i j = true → duels d01 d02 d03 d12 d13 d23 j k = true →
      duels d01 d02 d03 d12 d13 d23 k i = false) →
    ∃ a b : Fin 4, a < b ∧ leaders (duels d01 d02 d03 d12 d13 d23) = [a.val, b.val] ∧
      ∀ k : Fin 4, k ≠ a → k ≠ b → duels d01 d02 d03 d12 d13 d23 k a = false ∧ duels d01 d02 d03 d12 d13 d23 k b = false := by
  decide

/-- Position `j` of a group goes before position `i` (R251): its element is larger, or as large and at a lower position. -/
theorem before_iff (t : Ty) (es : List Nat) (j i : Nat) : before t es j i = true ↔
    (elemValue t (es.getD i 0)).size < (elemValue t (es.getD j 0)).size ∨
      (elemValue t (es.getD i 0)).size ≤ (elemValue t (es.getD j 0)).size ∧ j < i := by
  rw [before, Bool.or_eq_true, Bool.and_eq_true, decide_eq_true_iff, smaller_iff, Bool.not_eq_true', ← Bool.not_eq_true, smaller_iff, not_lt]

theorem before_not {t : Ty} {es : List Nat} {i j : Nat} (ne : i ≠ j) : before t es j i = !before t es i j := by
  rw [Bool.eq_not_iff, Ne, Bool.eq_iff_iff, before_iff, before_iff]
  generalize (elemValue t (es.getD i 0)).size = x
  generalize (elemValue t (es.getD j 0)).size = y
  rcases lt_trichotomy x y with lt | rfl | gt
  · simp [lt, not_lt.2 lt.le, not_le.2 lt]
  · simp only [lt_irrefl, le_refl, false_or, true_and]
    omega
  · simp [gt, not_lt.2 gt.le, not_le.2 gt]

theorem before_irrefl (t : Ty) (es : List Nat) (i : Nat) : before t es i i = false := by
  rw [← Bool.not_eq_true, before_iff]
  simp

theorem before_trans {t : Ty} {es : List Nat} {i j k : Nat} (h : before t es i j = true) (g : before t es j k = true) : before t es i k = true := by
  rw [before_iff] at h g ⊢
  rcases h with h | ⟨h, ij⟩
  · rcases g with g | ⟨g, _⟩
    · exact .inl (g.trans h)
    · exact .inl (g.trans_lt h)
  · rcases g with g | ⟨g, jk⟩
    · exact .inl (g.trans_le h)
    · exact .inr ⟨g.trans h, ij.trans jk⟩

/-- The positions of a group meet each other as some six meetings say. -/
theorem before_duels (t : Ty) (es : List Nat) : ∀ i < 4, ∀ j < 4, i ≠ j →
    before t es i j = duels (before t es 0 1) (before t es 0 2) (before t es 0 3) (before t es 1 2) (before t es 1 3) (before t es 2 3) i j := by
  intro i hi j hj ne
  rcases ne.lt_or_gt with lt | gt
  · interval_cases j <;> interval_cases i <;> rfl
  · rw [before_not ne.symm]
    interval_cases i <;> interval_cases j <;> rfl

theorem before_circle {t : Ty} {es : List Nat} {i j k : Nat} (h : before t es i j = true) (g : before t es j k = true) : before t es k i = false := by
  have ik := before_trans h g
  by_cases same : i = k
  · rw [same, before_irrefl] at ik
    exact absurd ik Bool.false_ne_true
  · rw [before_not same, ik]
    rfl

/-- Every meeting of two positions, a position with itself included. -/
theorem duels_before (t : Ty) (es : List Nat) (i j : Fin 4) :
    duels (before t es 0 1) (before t es 0 2) (before t es 0 3) (before t es 1 2) (before t es 1 3) (before t es 2 3) i j = before t es i j := by
  by_cases same : i = j
  · rw [same, before_irrefl]
    fin_cases j <;> rfl
  · exact (before_duels t es i i.isLt j j.isLt fun h => same (Fin.ext h)).symm

/-- The two positions that a group keeps, ascending: no other goes before either (R251). -/
theorem keptOf_two (t : Ty) (es : List Nat) : ∃ a b, a < b ∧ b < 4 ∧ keptOf t es = [a, b] ∧
    ∀ k < 4, k ≠ a → k ≠ b → before t es k a = false ∧ before t es k b = false := by
  obtain ⟨a, b, lt, lead, others⟩ := leaders_duels (before t es 0 1) (before t es 0 2) (before t es 0 3) (before t es 1 2) (before t es 1 3) (before t es 2 3)
    fun i j k h g => by
      rw [duels_before] at h g ⊢
      exact before_circle h g
  refine ⟨a, b, lt, b.isLt, (leaders_congr (before_duels t es)).trans lead, fun k lk ka kb => ?_⟩
  have last := others ⟨k, lk⟩ (fun h => ka (congrArg Fin.val h)) (fun h => kb (congrArg Fin.val h))
  rwa [duels_before, duels_before] at last

/-- What does not go before is no larger, and no earlier where it is as large. -/
theorem smaller_of_not_before {t : Ty} {es : List Nat} {k j : Nat} (ne : k ≠ j) (h : before t es k j = false) :
    smaller t (es.getD j 0) (es.getD k 0) = false ∧ (smaller t (es.getD k 0) (es.getD j 0) = false → j < k) := by
  rw [before, Bool.or_eq_false_iff, Bool.and_eq_false_iff] at h
  obtain ⟨no, order⟩ := h
  refine ⟨no, fun asLarge => ?_⟩
  rcases order with larger | later
  · rw [asLarge] at larger
    exact absurd larger (by decide)
  · have := of_decide_eq_false later
    omega

end Sys2Proof.Machine
end

section
/-! SUPPORT. A unit of work of a pruned transfer (R251): its one or two groups, and its metadata byte. -/

namespace Sys2Proof.Machine

open Sys2Proof

/-- Where move `k` of some reads. -/
def rdAt (l : List PlacedMove) (k : Nat) : Nat := (l[k]?.map (·.rd)).getD 0

/-- Where move `k` of some writes. -/
def wrAt (l : List PlacedMove) (k : Nat) : Nat := (l[k]?.map (·.wr)).getD 0

/-- The element of `n` bytes that move `k` of some reads. -/
def elemAt (n : Nat) (m : List Host.Cell) (l : List PlacedMove) (k : Nat) : List Byte := Memory.read m (rdAt l k) n

/-- PRUNE of the group `l` of elements of `n` bytes takes memory from `m` to `m'`, with the nibble `nib` (R251). -/
def prunesTo (n : Nat) (ty : Ty) (m m' : List Host.Cell) (l : List PlacedMove) (nib : Nat) : Prop := ∃ a b, a < b ∧ b < 4 ∧ nib = a + 4 * b ∧
  (∀ k < 4, k ≠ a → k ≠ b → ∀ j ∈ [a, b], smaller ty (natOfBytes (elemAt n m l j)) (natOfBytes (elemAt n m l k)) = false ∧
    (smaller ty (natOfBytes (elemAt n m l k)) (natOfBytes (elemAt n m l j)) = false → j < k)) ∧
  m' = Memory.write (Memory.write m (wrAt l 0) (elemAt n m l a)) (wrAt l 2) (elemAt n m l b)

/-- The four elements of a group. -/
def groupElems (n : Nat) (m : List Host.Cell) (l : List PlacedMove) : List (List Byte) := (List.range 4).map (elemAt n m l)

theorem groupElems_getD {n : Nat} {m : List Host.Cell} {l : List PlacedMove} {k : Nat} (lt : k < 4) : (groupElems n m l).getD k [] = elemAt n m l k := by
  rw [groupElems, List.getD_eq_getElem?_getD, List.getElem?_map, List.getElem?_range lt]
  rfl

theorem groupValues_getD {n : Nat} {m : List Host.Cell} {l : List PlacedMove} {k : Nat} (lt : k < 4) :
    ((groupElems n m l).map natOfBytes).getD k 0 = natOfBytes (elemAt n m l k) := by
  rw [groupElems, List.map_map, List.getD_eq_getElem?_getD, List.getElem?_map, List.getElem?_range lt]
  rfl

namespace State.working

variable {s t u : State} {q : Fin 5} {cs : List Cmd} {m : List Host.Cell} {c : Cmd}

/-- Of a group the two kept elements are written, each at its destination. -/
theorem pruneGroup (w : s.working q cs m c t) (calm : s.calm c) {d : Cmd} {i n : Nat} {ty : Ty} {l : List PlacedMove} (len : l.length = 4)
    (pulled : ∀ j < i + 4, d.pulledAt d.unit j = none) (bytes : ∀ p ∈ l, p.move.bytes = n) (format : pruneFormat (cmdPfmt d.vec) (cmdEsz d.vec) = some ty) :
    ∃ z m' nib, t.pruneGroup q d i l = (z, some nib) ∧ prunesTo n ty m m' l nib ∧ s.working q cs m' { c with bytes := c.bytes + 2 * n } z := by
  have reads : (l.mapIdx fun j p => (p, t.source? d (i + j) p)) = l.map fun p => (p, .ok (Memory.read m p.rd n)) := by
    refine List.ext_getElem (by simp) fun j hj _ => ?_
    rw [List.length_mapIdx] at hj
    rw [List.getElem_mapIdx, List.getElem_map, w.source? calm.bad (pulled _ (by omega)), bytes _ (List.getElem_mem hj)]
  obtain ⟨a, b, lt, b4, kept, others⟩ := keptOf_two ty ((groupElems n m l).map natOfBytes)
  have prune : t.pruneGroup q d i l =
      ((t.engineWrite q (wrAt l 0) (elemAt n m l a)).engineWrite q (wrAt l 2) (elemAt n m l b), some (a + 4 * b)) := by
    have elems : l.map (fun p => Memory.read m p.rd n) = groupElems n m l := by
      refine List.ext_getElem (by simp [groupElems, len]) fun k hk _ => ?_
      rw [List.length_map] at hk
      simp [groupElems, elemAt, rdAt, hk]
    unfold State.pruneGroup
    dsimp only
    rw [reads, List.findSome?_map, List.map_map]
    dsimp only [Function.comp_def]
    rw [List.findSome?_eq_none_iff.2 fun _ _ => rfl]
    dsimp only
    rw [elems, format, Option.getD_some, kept]
    rw [List.getD_cons_zero, List.getD_cons_succ, List.getD_cons_zero, groupElems_getD (lt.trans b4), groupElems_getD b4]
    rfl
  refine ⟨_, _, _, prune, ⟨a, b, lt, b4, rfl, fun k hk ka kb j hj => ?_, rfl⟩, ?_⟩
  · obtain ⟨na, nb⟩ := others k hk ka kb
    have no : before ty ((groupElems n m l).map natOfBytes) k j = false ∧ j < 4 ∧ k ≠ j := by
      rcases List.mem_pair.1 hj with rfl | rfl
      · exact ⟨na, by omega, ka⟩
      · exact ⟨nb, b4, kb⟩
    have last := smaller_of_not_before no.2.2 no.1
    rwa [groupValues_getD hk, groupValues_getD no.2.1] at last
  · have wrote := (w.write calm (wrAt l 0) (elemAt n m l a)).write (calm.withBytes _) (wrAt l 2) (elemAt n m l b)
    dsimp only at wrote
    rw [elemAt, elemAt, Memory.length_read, Memory.length_read, Nat.add_assoc, ← Nat.two_mul] at wrote
    exact wrote

/-- The groups of a metadata byte are pruned, and the byte is written (R251). -/
theorem pruneGroups (w : s.working q cs m c t) (calm : s.calm c) {d : Cmd} {n key : Nat} {ty : Ty} {lo hi : List PlacedMove} (loLen : lo.length = 4)
    (hiLen : hi = [] ∨ hi.length = 4) (pulled : ∀ j, d.pulledAt d.unit j = none) (bytes : ∀ p ∈ lo ++ hi, p.move.bytes = n)
    (format : pruneFormat (cmdPfmt d.vec) (cmdEsz d.vec) = some ty) :
    ∃ m1 m2 a b, prunesTo n ty m m1 lo a ∧ (hi = [] → m2 = m1 ∧ b = 0) ∧ (hi ≠ [] → prunesTo n ty m1 m2 hi b) ∧
      s.working q cs (Memory.write m2 key [BitVec.ofNat 8 (a + 16 * b)]) { c with bytes := c.bytes + (if hi = [] then 2 else 4) * n + 1 }
        (t.pruneGroups q d key lo hi) := by
  obtain ⟨z1, m1, a, run1, prunes1, w1⟩ := w.pruneGroup calm (i := 0) loLen (fun j _ => pulled j) (fun p hp => bytes p (List.mem_append_left _ hp)) format
  rcases hiLen with rfl | hiLen
  · refine ⟨m1, m1, a, 0, prunes1, fun _ => ⟨rfl, rfl⟩, fun ne => absurd rfl ne, ?_⟩
    have wrote := w1.write (calm.withBytes _) key [BitVec.ofNat 8 (a + 16 * 0)]
    have run : t.pruneGroups q d key lo [] = z1.engineWrite q key [BitVec.ofNat 8 (a + 16 * 0)] := by
      unfold State.pruneGroups
      dsimp only
      rw [run1]
      rfl
    rw [run, if_pos rfl]
    exact wrote
  · obtain ⟨z2, m2, b, run2, prunes2, w2⟩ := w1.pruneGroup (calm.withBytes _) (i := 4) hiLen (fun j _ => pulled j)
      (fun p hp => bytes p (List.mem_append_right _ hp)) format
    have some : hi ≠ [] := by
      rintro rfl
      exact absurd hiLen (by decide)
    refine ⟨m1, m2, a, b, prunes1, fun no => absurd no some, fun _ => prunes2, ?_⟩
    have wrote := w2.write (calm.withBytes _) key [BitVec.ofNat 8 (a + 16 * b)]
    have run : t.pruneGroups q d key lo hi = z2.engineWrite q key [BitVec.ofNat 8 (a + 16 * b)] := by
      unfold State.pruneGroups
      dsimp only
      rw [run1]
      dsimp only
      simp only [List.isEmpty_eq_false_iff.2 some, Bool.false_eq_true, if_false]
      rw [run2]
      rfl
    rw [run, if_neg some]
    dsimp only at wrote
    rw [show c.bytes + 2 * n + 2 * n + [BitVec.ofNat 8 (a + 16 * b)].length = c.bytes + 4 * n + 1 by rw [List.length_singleton]; omega] at wrote
    exact wrote

theorem pruneUnit (w : s.working q cs m c t) (calm : s.calm c) {d : Cmd} {n : Nat} {ty : Ty} {lo hi : List PlacedMove} {v z : State} {r : Place}
    (loLen : lo.length = 4) (hiLen : hi = [] ∨ hi.length = 4) (pulled : ∀ j, d.pulledAt d.unit j = none) (bytes : ∀ p ∈ lo ++ hi, p.move.bytes = n)
    (format : pruneFormat (cmdPfmt d.vec) (cmdEsz d.vec) = some ty) (placed : State.placeMoves q (pruneMoves d.vec d.unit) t = (v, .ok (lo ++ hi)))
    (check : v.cmdCheck q .engineWrite (runAddr (cmdAddr d.vec 7) 1 d.unit) 1 = (z, .ok r)) :
    ∃ m1 m2 a b, prunesTo n ty m m1 lo a ∧ (hi = [] → m2 = m1 ∧ b = 0) ∧ (hi ≠ [] → prunesTo n ty m1 m2 hi b) ∧
      s.working q cs (Memory.write m2 r.key [BitVec.ofNat 8 (a + 16 * b)]) ({ c with bytes := c.bytes + (if hi = [] then 2 else 4) * n + 1 } : Cmd).advance
        (t.pruneUnit q d) := by
  have w := (w.placed placed).1.cmdCheck check
  obtain ⟨m1, m2, a, b, first, one, two, w'⟩ := w.pruneGroups calm (key := r.key) loLen hiLen pulled bytes format
  refine ⟨m1, m2, a, b, first, one, two, ?_⟩
  have answered : ¬ (((lo ++ hi).any fun p => z.retried p.rd || z.retried p.wr) = true ∨ z.retried r.key = true) := by
    simp only [w.retried calm.saving]
    simp
  have run : t.pruneUnit q d = (z.pruneGroups q d r.key lo hi).unitDone q := by
    rw [State.pruneUnit, placed]
    dsimp only
    rw [check]
    dsimp only
    rw [if_neg answered, w.meetsBad calm.bad (fun j _ => pulled j) (Nat.le_refl _), if_neg fun h => Bool.false_ne_true h.2, List.take_left' loLen, List.drop_left' loLen]
  rw [run]
  exact w'.unitDone

end State.working

end Sys2Proof.Machine
end

section
/-! SUPPORT. The units of work of block transfers, gathers, scatters and COMPACT (R243, R248, R253, R255). -/

namespace Sys2Proof.Machine

open Sys2Proof

/-- The words of a row of `2 ^ e` bytes are the row. -/
theorem movedBytes_rowMoves (a b : Word) (e : Nat) : movedBytes (rowMoves a b (2 ^ e)) = 2 ^ e := by
  have width : min (2 ^ e) (2 ^ 3) ∣ 2 ^ e := by
    rcases Nat.le_total e 3 with le | ge
    · rw [Nat.min_eq_left (Nat.pow_le_pow_right (by decide) le)]
    · rw [Nat.min_eq_right (Nat.pow_le_pow_right (by decide) ge)]
      exact Nat.pow_dvd_pow 2 ge
  have bytes : (rowMoves a b (2 ^ e)).map (·.bytes) = List.replicate (2 ^ e / min (2 ^ e) (2 ^ 3)) (min (2 ^ e) (2 ^ 3)) := by
    unfold rowMoves
    dsimp only
    rw [List.map_map, Function.comp_def, List.map_const', List.length_range]
    rfl
  rw [movedBytes, bytes, List.sum_replicate, smul_eq_mul, Nat.div_mul_cancel width]

theorem movedBytes_swatchMoves (v : Vec) (p : Word) (first count : Nat) : movedBytes (swatchMoves v p first count) = count * 2 ^ cmdEsz v := by
  unfold swatchMoves movedBytes
  dsimp only
  rw [List.map_flatMap, List.flatMap_def, List.sum_flatten, List.map_map, Function.comp_def]
  have each : ((List.range count).map fun i => ((rowMoves (p + 16 + BitVec.ofNat 64 (2 ^ cmdEsz v * i)) (runAddr (cmdAddr v 3) (2 ^ cmdEsz v) (first + i))
      (2 ^ cmdEsz v)).map (·.bytes)).sum) = List.replicate count (2 ^ cmdEsz v) :=
    (List.map_congr_left fun i _ => movedBytes_rowMoves ..).trans ((List.map_const' ..).trans (by rw [List.length_range]))
  rw [each, List.sum_replicate, smul_eq_mul]

namespace State.working

variable {s t u v : State} {q : Fin 5} {cs : List Cmd} {m : List Host.Cell} {c d : Cmd}

/-- An element inside the extents is moved (R243). -/
theorem copyUnit_inside (w : s.working q cs m c t) (calm : s.calm c) {p r : Place} (inside : cmdInside d.vec d.unit = true)
    (pulled : d.pulledAt d.unit 0 = none) (reads : t.cmdCheck q .engineRead (cmdSrc d.vec d.unit) (2 ^ cmdEsz d.vec) = (u, .ok p))
    (writes : u.cmdCheck q .engineWrite (cmdDst d.vec d.unit) (2 ^ cmdEsz d.vec) = (v, .ok r)) :
    s.working q cs (Memory.write m r.key (Memory.read m p.key (2 ^ cmdEsz d.vec))) ({ c with bytes := c.bytes + 2 ^ cmdEsz d.vec } : Cmd).advance (t.copyUnit q d) := by
  have placed : State.placeMoves q (copyMoves d.vec d.unit) t =
      (v, .ok [{ move := { src := cmdSrc d.vec d.unit, dst := cmdDst d.vec d.unit, bytes := 2 ^ cmdEsz d.vec }, rd := p.key, wr := r.key }]) := by
    rw [copyMoves, if_pos inside, State.placeMoves]
    dsimp only
    rw [reads]
    dsimp only
    rw [writes]
    rfl
  have one : ∀ j < 0 + (copyMoves d.vec d.unit).length, d.pulledAt d.unit j = none := fun j lt => by
    rw [copyMoves, if_pos inside, Nat.zero_add, List.length_singleton, Nat.lt_one_iff] at lt
    rw [lt, pulled]
  obtain ⟨z, run, w⟩ := w.runMoves calm one placed (fun s f => s.engineFault q f) (fun s => s.unitDone q)
  rw [State.copyUnit, run]
  have sum : movedBytes (copyMoves d.vec d.unit) = 2 ^ cmdEsz d.vec := by
    rw [copyMoves, if_pos inside]
    exact Nat.add_zero _
  rw [sum] at w
  exact w.unitDone

/-- An element outside the extents is neither read nor written (R248). -/
theorem copyUnit_outside (w : s.working q cs m c t) (calm : s.calm c) (outside : cmdInside d.vec d.unit = false) : s.working q cs m c.advance (t.copyUnit q d) := by
  have placed : State.placeMoves q (copyMoves d.vec d.unit) t = (t, .ok []) := by
    rw [copyMoves, outside, if_neg Bool.false_ne_true, State.placeMoves]
  have none : copyMoves d.vec d.unit = [] := by rw [copyMoves, outside, if_neg Bool.false_ne_true]
  obtain ⟨z, run, w⟩ := w.runMoves calm (by rw [none]; exact fun j lt => absurd lt (Nat.not_lt_zero j)) placed (fun s f => s.engineFault q f) (fun s => s.unitDone q)
  rw [none] at w
  rw [State.copyUnit, run]
  exact w.unitDone

/-- A row whose index is read is moved (R253). -/
theorem gatherUnit (w : s.working q cs m c t) (calm : s.calm c) (pulled : ∀ j, d.pulledAt d.unit j = none) {r : Place} {ps : List PlacedMove}
    (index : t.cmdCheck q .engineRead (runAddr (cmdAddr d.vec 1) (indexBytes d.vec) d.unit) (indexBytes d.vec) = (u, .ok r))
    (placed : State.placeMoves q (gatherMoves d.kind d.vec d.unit (natOfBytes (Memory.read m r.key (indexBytes d.vec)))) u = (v, .ok ps)) :
    s.working q cs (movedBy ps m) ({ c with bytes := c.bytes + 2 ^ cmdEsz d.vec } : Cmd).advance (t.gatherUnit q d) := by
  have w := w.cmdCheck index
  obtain ⟨z, run, w'⟩ := w.runMoves calm (d := d) (i := 1) (fun j _ => pulled j) placed (fun s f => s.gatherFault q d.vec d.unit (natOfBytes (Memory.read m r.key (indexBytes d.vec))) f)
    (fun s => s.unitDone q)
  have sum : movedBytes (gatherMoves d.kind d.vec d.unit (natOfBytes (Memory.read m r.key (indexBytes d.vec)))) = 2 ^ cmdEsz d.vec := by
    unfold gatherMoves
    split
    · exact movedBytes_rowMoves ..
    · exact movedBytes_rowMoves ..
  rw [sum] at w'
  have row : t.gatherUnit q d = z.unitDone q := by
    rw [State.gatherUnit, pulled 0]
    dsimp only
    rw [index]
    dsimp only
    rw [w.retried calm.saving, if_neg Bool.false_ne_true, w.badAt calm.bad, w.peek]
    exact run
  rw [row]
  exact w'.unitDone

/-- A row's offset is written, and a pass over its chain begins; the closing offset ends the command's work (R255). -/
theorem compactOffset (w : s.working q cs m c t) (calm : s.calm c) {r : Place} (head : d.ptr = none) (copying : d.copying = false)
    (check : t.cmdCheck q .engineWrite (runAddr (cmdAddr d.vec 2) 4 d.next) 4 = (u, .ok r)) :
    s.working q cs (Memory.write m r.key (bytesOfNat d.off 4))
      (if d.next = cmdWord d.vec 4 then ({ c with bytes := c.bytes + 4 } : Cmd).advance else { c with bytes := c.bytes + 4, copying := true }) (t.compactUnit q d) := by
  obtain ⟨z, run, w⟩ := w.engineStore calm (length_bytesOfNat d.off 4) check fun s => s.modHead q fun x => if d.next = cmdWord d.vec 4 then x.advance else { x with copying := true }
  rw [State.compactUnit]
  dsimp only
  rw [head]
  dsimp only
  rw [if_pos copying, run]
  split
  · exact w.modHead fun _ _ => ⟨_, rfl⟩
  · exact w.modHead fun _ _ => ⟨_, rfl⟩

/-- The entries of a swatch of the row are counted (R255). -/
theorem compactCount (w : s.working q cs m c t) (calm : s.calm c) {p : Word} {r r' : Place} (head : d.ptr = some p) (some : p ≠ 0) (copying : d.copying = false)
    (next : t.cmdCheck q .engineRead p 8 = (u, .ok r)) (counts : u.cmdCheck q .engineRead (p + 8) 8 = (v, .ok r'))
    (row : natOfBytes (Memory.read m r'.key 8) % 2 ^ 32 = d.next) :
    s.working q cs m (c.follow (natOfBytes (Memory.read m r.key 8)) (natBits (natOfBytes (Memory.read m r'.key 8)) 39 32)) (t.compactUnit q d) := by
  have w1 := w.cmdCheck next
  have w2 := w1.cmdCheck counts
  rw [State.compactUnit]
  dsimp only
  rw [head]
  dsimp only
  rw [if_pos some, copying, if_neg Bool.false_ne_true, State.compactCount, w.engineRead calm next, w1.engineRead calm counts, if_neg (not_not_intro row)]
  exact w2.modHead fun _ wm => ⟨wm, rfl⟩

/-- The entries of a swatch are copied, in their order (R255). -/
theorem compactCopy (w : s.working q cs m c t) (calm : s.calm c) (pulled : ∀ j, d.pulledAt d.unit j = none) {p : Word} {r r' : Place} {z : State} {ps : List PlacedMove}
    (head : d.ptr = some p) (some : p ≠ 0) (copying : d.copying = true)
    (next : t.cmdCheck q .engineRead p 8 = (u, .ok r)) (counts : u.cmdCheck q .engineRead (p + 8) 8 = (v, .ok r'))
    (placed : State.placeMoves q (swatchMoves d.vec p (d.off + d.sum) (natBits (natOfBytes (Memory.read m r'.key 8)) 39 32)) v = (z, .ok ps)) :
    s.working q cs (movedBy ps m)
      (({ c with bytes := c.bytes + natBits (natOfBytes (Memory.read m r'.key 8)) 39 32 * 2 ^ cmdEsz d.vec } : Cmd).follow (natOfBytes (Memory.read m r.key 8))
        (natBits (natOfBytes (Memory.read m r'.key 8)) 39 32)) (t.compactUnit q d) := by
  have w1 := w.cmdCheck next
  have w2 := w1.cmdCheck counts
  obtain ⟨y, run, w3⟩ := w2.runMoves calm (d := d) (i := 2) (fun j _ => pulled j) placed (fun s f => s.engineFault q f)
    (fun s => s.modHead q fun x => x.follow (natOfBytes (Memory.read m r.key 8)) (natBits (natOfBytes (Memory.read m r'.key 8)) 39 32))
  rw [movedBytes_swatchMoves] at w3
  rw [State.compactUnit]
  dsimp only
  rw [head]
  dsimp only
  rw [if_pos some, if_pos copying, State.compactCopy, w.enginePiece calm (pulled 0) next, w1.enginePiece calm (pulled 1) counts, run]
  exact w3.modHead fun _ wm => ⟨wm, rfl⟩

end State.working

end Sys2Proof.Machine
end

section
/-! SUPPORT. How a command starts, how it completes, and what the firmware path makes of it (R241, R242, R246 to R248, R274). -/

namespace Sys2Proof.Machine

open Sys2Proof

/-! ## What follows a unit of work -/

theorem State.engineNext_agenda (s : State) (q : Fin 5) : s.engineNext q = { s with agenda := (s.engineNext q).agenda } := by
  unfold State.engineNext
  split
  · split
    · rfl
    · split <;> rfl
  · rfl

section
variable {s : State} {q : Fin 5} {c : Cmd} {cs : List Cmd} (head : (s.chan q).cmds = c :: cs) (path : c.path ≠ .waiting) (retry : c.retry = none)
include head path retry

theorem State.engineNext_goesOn (more : c.finished = false) : s.engineNext q = s.post (.accessPerformed c.seq) := by
  rw [State.engineNext, State.headCmd_cons head]
  dsimp only
  rw [if_neg (by simp [path, retry]), more, if_neg Bool.false_ne_true]

theorem State.engineNext_completes (done : c.finished = true) : s.engineNext q = s.post (.commandCompletion q) := by
  rw [State.engineNext, State.headCmd_cons head]
  dsimp only
  rw [if_neg (by simp [path, retry]), if_pos done]

end

theorem State.mem_post (s : State) (e : Instr) : e ∈ (s.post e).agenda := List.mem_append_right _ (List.mem_singleton_self _)

/-! ## Starting -/

/-- A credit is there to take, or the channel is not gated (R274). -/
def State.hasCredit (s : State) (q : Fin 5) : Prop := s.gatesOf q = [] ∨ ∃ i ∈ s.gatesOf q, 0 < (s.clu.terms.get i).cred

/-- One credit of one gating term is taken, where the channel is gated. -/
def State.creditTaken (s : State) (q : Fin 5) (t : State) : Prop :=
  s.gatesOf q = [] ∧ t = s ∨ s.gatesOf q ≠ [] ∧ ∃ i ∈ s.gatesOf q, 0 < (s.clu.terms.get i).cred ∧ t = s.modTerm i fun t => { t with cred := t.cred - 1 }

theorem State.takeCredit_some {s : State} {q : Fin 5} (credit : s.hasCredit q) : ∃ t, s.takeCredit q = some t ∧ s.creditTaken q t := by
  unfold State.takeCredit
  split
  case h_1 gates => exact ⟨s, rfl, .inl ⟨gates, rfl⟩⟩
  case h_2 gated =>
    obtain none | ⟨i, gate, some⟩ := credit
    · exact absurd none gated
    · generalize e : (s.gatesOf q).find? _ = found
      cases found with
      | none => exact absurd (decide_eq_true some) (List.find?_eq_none.1 e i gate)
      | some k => exact ⟨_, rfl, .inr ⟨gated, k, List.mem_of_find?_eq_some e, of_decide_eq_true (List.find?_some e :), rfl⟩⟩

theorem State.takeCredit_none {s : State} {q : Fin 5} (credit : ¬ s.hasCredit q) : s.takeCredit q = none := by
  unfold State.takeCredit
  split
  case h_1 gates => exact absurd (.inl gates) credit
  case h_2 =>
    rw [List.find?_eq_none.2 fun i gate some => credit (.inr ⟨i, gate, of_decide_eq_true some⟩)]
    rfl

/-- The command as it stands when it has started. -/
def Cmd.begun (c : Cmd) : Cmd := { (if c.posts then c.note 1 else c) with started := true, held := false }

theorem Cmd.begun_plain {c : Cmd} (posts : c.posts = false) : c.begun = { c with started := true, held := false } := by
  rw [Cmd.begun, posts, if_neg Bool.false_ne_true]

theorem Cmd.begun_posts {c : Cmd} (posts : c.posts = true) : c.begun = { c.note 1 with started := true, held := false } := by
  rw [Cmd.begun, if_pos posts]

/-- A command that starts is started, and its box is posted where it is clipped (R246, R248). -/
theorem State.startCmd_does {s : State} {q : Fin 5} {c : Cmd} {cs : List Cmd} (head : (s.chan q).cmds = c :: cs) :
    ∃ u : State, s.startCmd q c = u.engineNext q ∧ (u.chan q).cmds = c.begun :: cs ∧
      u.core.mbq = (if c.posts then s.core.mbq ++ [boxWord c.vec q.val] else s.core.mbq) ∧ u.clu = s.clu ∧ u.mem = s.mem ∧ u.ctxs = s.ctxs := by
  unfold State.startCmd
  dsimp only
  by_cases posts : c.posts = true
  · have boxed : ((s.modCore fun k => { k with mbq := k.mbq ++ [boxWord c.vec q.val] }).chan q).cmds = c :: cs := head
    have noted := State.modHead_cmds boxed fun c => c.note 1
    rw [if_pos posts, if_pos posts, Cmd.begun_posts posts]
    refine ⟨_, rfl, State.modHead_cmds noted _, ?_, ?_, ?_, ?_⟩
    all_goals
      rw [State.modHead_chans _ q, State.modHead_chans _ q]
      rfl
  · rw [if_neg posts, if_neg posts, Cmd.begun_plain (Bool.eq_false_iff.2 posts)]
    refine ⟨_, rfl, State.modHead_cmds head _, ?_, ?_, ?_, ?_⟩
    all_goals
      rw [State.modHead_chans _ q]

theorem State.exec_commandStart {s t : State} {q : Fin 5} {c : Cmd} {cs : List Cmd} (head : (s.chan q).cmds = c :: cs) (fresh : c.started = false)
    (may : s.mayStart c = true) (credit : s.takeCredit q = some t) : exec (.commandStart q) s = .next (t.startCmd q c) := by
  have run : exec (.commandStart q) s = execCommandStart q s := rfl
  rw [run, execCommandStart, State.headCmd_cons head]
  dsimp only
  rw [fresh, if_neg Bool.false_ne_true, if_pos may, credit]

theorem State.exec_commandStart_held {s : State} {q : Fin 5} {c : Cmd} {cs : List Cmd} (head : (s.chan q).cmds = c :: cs) (fresh : c.started = false)
    (no : s.mayStart c = false ∨ ¬ s.hasCredit q) : exec (.commandStart q) s = .next (s.modHead q fun c => { c with held := true }) := by
  have run : exec (.commandStart q) s = execCommandStart q s := rfl
  have none : (if s.mayStart c then s.takeCredit q else none) = none := by
    rcases no with no | no
    · rw [no, if_neg Bool.false_ne_true]
    · rw [State.takeCredit_none no, ite_self]
  rw [run, execCommandStart, State.headCmd_cons head]
  dsimp only
  rw [fresh, if_neg Bool.false_ne_true, none]

/-! ## Completing -/

/-- A write leaves it as it is whether the job is redundant. -/
theorem State.modJob_redun (s : State) (id : BitVec 32) (f : Job → Job) (same : ∀ j, (f j).redun = j.redun) : (s.modJob id f).job.redun = s.job.redun := by
  unfold State.modJob
  dsimp only
  split
  · exact same _
  · rfl

theorem State.logAbout_redun (s : State) (id : BitVec 32) (cls cause source : Nat) (detail : BitVec 32) (addr : Word) :
    (s.logAbout id cls cause source detail addr).job.redun = s.job.redun := by
  refine (State.modJob_redun _ _ _ fun _ => ?_).trans ?_
  · rfl
  · rw [State.logFor_only]

theorem State.tamperCheck_redun (s : State) (source key n : Nat) : (s.tamperCheck source key n).job.redun = s.job.redun := by
  unfold State.tamperCheck
  generalize (s.allJobs.filter fun j => j.hashed.any fun r => overlaps key n r.1 r.2) = l
  induction l generalizing s with
  | nil => rfl
  | cons j l ih =>
    refine (ih _).trans ((State.modJob_redun _ _ _ fun _ => ?_).trans (State.logAbout_redun ..))
    rfl

theorem State.daybookLines_redun (s : State) (ls : List Nat) : (s.daybookLines ls).job.redun = s.job.redun := by
  unfold State.daybookLines
  split
  · unfold State.daybook
    dsimp only
    split
    · unfold State.logEntry
      dsimp only
      rw [if_pos rfl, State.logFor_only]
      rfl
    · rfl
  · rfl

theorem State.pokeAs_redun (s : State) (agent source key : Nat) (bs : List Byte) : (s.pokeAs agent source key bs).job.redun = s.job.redun :=
  (State.daybookLines_redun ..).trans (State.tamperCheck_redun ..)

theorem State.pokeAs_sender (s : State) (agent source key : Nat) (bs : List Byte) : (s.pokeAs agent source key bs).sender = s.sender := by
  rw [State.sender, State.sender, State.pokeAs_redun, (s.pokeAs_onlyRecords agent source key bs).core]

/-- Some writes of a command, oldest first. -/
def State.pokeAll (s : State) (agent : Nat) (ws : List (Nat × List Byte)) : State := ws.foldl (fun t w => t.pokeAs agent t.unitSource w.1 w.2) s

theorem State.pokeAll_onlyRecords (agent : Nat) : ∀ (ws : List (Nat × List Byte)) (s : State), s.onlyRecords (s.pokeAll agent ws)
  | [], s => .refl s
  | _ :: ws, _ => (State.pokeAs_onlyRecords ..).trans (State.pokeAll_onlyRecords agent ws _)

theorem State.pokeAll_sender (agent : Nat) : ∀ (ws : List (Nat × List Byte)) (s : State), (s.pokeAll agent ws).sender = s.sender
  | [], _ => rfl
  | _ :: ws, _ => (State.pokeAll_sender agent ws _).trans (State.pokeAs_sender ..)

theorem State.pokeAll_mem (agent : Nat) : ∀ (ws : List (Nat × List Byte)) (s : State), s.unhashed → s.core.snapshot = none →
    (s.pokeAll agent ws).mem = ws.foldl (fun m x => Memory.write m x.1 x.2) s.mem
  | [], _, _, _ => rfl
  | w :: ws, s, plain, free => by
    rw [State.pokeAll, List.foldl_cons, State.pokeAs_plain plain free]
    exact State.pokeAll_mem agent ws _ plain free

/-- The writes of a command that still wait are performed, oldest first, and its watermark follows (R249). -/
theorem State.drainStores_does {s : State} {q : Fin 5} {c : Cmd} {cs : List Cmd} (head : (s.chan q).cmds = c :: cs) :
    (∃ wm, ((s.drainStores q).chan q).cmds = { c with stores := [], wm } :: cs) ∧ ((s.drainStores q).chan q).ready = (s.chan q).ready ∧
      (s.drainStores q).ctxs = s.ctxs ∧ (s.drainStores q).sender = s.sender ∧ (c.stores = [] → (s.drainStores q).mem = s.mem) ∧
      (s.unhashed → s.core.snapshot = none → (s.drainStores q).mem = c.stores.foldl (fun m x => Memory.write m x.1 x.2) s.mem) := by
  have only := State.pokeAll_onlyRecords (cmdAgent c.seq) c.stores s
  have chans : (s.pokeAll (cmdAgent c.seq) c.stores).core.chans = s.core.chans := by rw [only.core]
  have drain : s.drainStores q = (s.pokeAll (cmdAgent c.seq) c.stores).modHead q fun c => s.remark { c with stores := [] } := by
    rw [State.drainStores, State.headCmd_cons head]
    rfl
  have same := (s.pokeAll (cmdAgent c.seq) c.stores).modHead_chans q fun c => s.remark { c with stores := [] }
  rw [drain]
  refine ⟨⟨_, (State.modHead_cmds (c := c) (cs := cs) ?_ _).trans rfl⟩, (State.modHead_ready ..).trans ?_, ?_, ?_, fun none => ?_, fun plain free => ?_⟩
  · rw [State.chan, chans]
    exact head
  · rw [State.chan, chans]
    rfl
  · rw [same]
    exact only.ctxs
  · rw [same]
    exact State.pokeAll_sender ..
  · rw [same, none]
    rfl
  · rw [same]
    exact State.pokeAll_mem _ _ _ plain free

/-- The fields of the element of a command whose status fits (R241). -/
theorem Cmd.element_fields {c : Cmd} (fits : c.status < 256) :
    c.element.word.getLsbD 63 = true ∧ natBits c.element.word.toNat 62 56 = 0 ∧ natBits c.element.word.toNat 55 48 = c.status ∧
      natBits c.element.word.toNat 47 32 = cmdId c.vec ∧ natBits c.element.word.toNat 31 0 = c.bytes % 2 ^ 32 := by
  have id : cmdId c.vec < 2 ^ 16 := natBits_lt ..
  have bytes : c.bytes % 2 ^ 32 < 2 ^ 32 := Nat.mod_lt _ (by decide)
  have word : c.element.word.toNat = 2 ^ 63 + c.status * 2 ^ 48 + cmdId c.vec * 2 ^ 32 + c.bytes % 2 ^ 32 := by
    rw [Cmd.element, BitVec.toNat_ofNat]
    omega
  refine ⟨?_, ?_, ?_, ?_, ?_⟩
  · rw [BitVec.getLsbD, word, Nat.testBit_eq_decide_div_mod_eq]
    exact decide_eq_true (by omega)
  all_goals
    rw [word, natBits]
    omega

theorem Cmd.lastElement_word (c : Cmd) : c.lastElement.word = c.element.word := by
  unfold Cmd.lastElement
  split <;> rfl

theorem Cmd.lastElement_overflow (c : Cmd) : (c.status ≠ 8 → c.lastElement.overflow = none) ∧
    (c.status = 8 → c.lastElement.overflow = some (BitVec.ofNat 32 c.sum, cmdAddr c.vec 1 + BitVec.ofNat 64 (8 * c.sum))) := by
  unfold Cmd.lastElement
  split
  case isTrue eight => exact ⟨fun no => absurd eight no, fun _ => rfl⟩
  case isFalse no => exact ⟨fun _ => rfl, fun eight => absurd eight no⟩

/-- An event that is posted under a condition. -/
def State.postIf (s : State) (p : Prop) [Decidable p] (e : Instr) : State := if p then s.post e else s

/-- Events have been posted, and nothing else has happened. -/
structure State.onlyPosts (s t : State) : Prop where
  same : t = { s with agenda := t.agenda }
  kept : ∀ e ∈ s.agenda, e ∈ t.agenda

theorem State.onlyPosts.trans {s t u : State} (h : s.onlyPosts t) (k : t.onlyPosts u) : s.onlyPosts u := by
  refine ⟨?_, fun e he => k.kept e (h.kept e he)⟩
  have same := k.same
  rw [h.same] at same
  exact same

theorem State.postIf_onlyPosts (s : State) (p : Prop) [Decidable p] (e : Instr) : s.onlyPosts (s.postIf p e) := by
  unfold State.postIf
  split
  · exact ⟨rfl, fun _ h => List.mem_append_left _ h⟩
  · exact ⟨rfl, fun _ h => h⟩

theorem State.mem_postIf (s : State) {p : Prop} [Decidable p] (e : Instr) (h : p) : e ∈ (s.postIf p e).agenda := by
  rw [State.postIf, if_pos h]
  exact s.mem_post e

/-- A command that completes leaves the queue, its element is ready, and its pulse and its arrival are made (R241, R246). -/
theorem State.finishCmd_does (s : State) (q : Fin 5) (c : Cmd) (cs : List Cmd) :
    ((s.finishCmd q c cs).chan q).cmds.length = cs.length ∧ ((s.finishCmd q c cs).chan q).ready = (s.chan q).ready ++ [c.lastElement] ∧
      (cmdArv c.vec = true → c.status ≠ 10 → .arrival (cmdBg c.vec) s.sender 1 none ∈ (s.finishCmd q c cs).agenda) ∧
      (cmdBell c.vec = true → c.status ≠ 10 → q.val < 4 → .pulse (BitVec.ofNat 8 (4 * (s.sender.toNat % 32) + q.val)) ∈ (s.finishCmd q c cs).agenda) ∧
      (cs ≠ [] → .commandStart q ∈ (s.finishCmd q c cs).agenda) ∧ (∀ m x, ((s.finishCmd q c cs).ctxAt m).reg x = (s.ctxAt m).reg x) ∧
      (s.finishCmd q c cs).mem = s.mem := by
  generalize left : s.setChan q { cmds := cs, ready := (s.chan q).ready ++ [c.lastElement] } = t
  generalize rung : t.postIf (cmdBell c.vec ∧ c.status ≠ 10 ∧ q.val < 4) (.pulse (BitVec.ofNat 8 (4 * (s.sender.toNat % 32) + q.val))) = u
  generalize arrived : u.postIf (cmdArv c.vec ∧ c.status ≠ 10) (.arrival (cmdBg c.vec) s.sender 1 none) = w
  have run : s.finishCmd q c cs = (w.postIf (¬ cs.isEmpty) (.commandStart q)).wake := by
    rw [← arrived, ← rung, ← left]
    unfold State.finishCmd State.postIf
    rw [ite_not]
  have last := w.postIf_onlyPosts (¬ cs.isEmpty) (.commandStart q)
  have third : u.onlyPosts w := arrived ▸ u.postIf_onlyPosts ..
  have second : t.onlyPosts u := rung ▸ t.postIf_onlyPosts ..
  have all := (second.trans third).trans last
  have chan : (w.postIf (¬ cs.isEmpty) (.commandStart q)).chan q = { cmds := cs, ready := (s.chan q).ready ++ [c.lastElement] } := by
    rw [all.same, ← left]
    exact State.chan_setChan ..
  rw [run]
  refine ⟨?_, ?_, fun arv ten => ?_, fun bell ten low => ?_, fun more => ?_, fun m x => ?_, ?_⟩
  · rw [State.chan_wake, chan]
    exact List.length_map _
  · rw [State.chan_wake, chan]
    rfl
  · exact State.mem_wake_agenda (last.kept _ (arrived ▸ u.mem_postIf _ ⟨arv, ten⟩))
  · exact State.mem_wake_agenda (last.kept _ (third.kept _ (rung ▸ t.mem_postIf _ ⟨bell, ten, low⟩)))
  · exact State.mem_wake_agenda (w.mem_postIf _ (by rwa [List.isEmpty_iff]))
  · rw [State.wake_regs, all.same, ← left]
    rfl
  · rw [State.wake_mem, all.same, ← left]
    rfl

theorem State.exec_commandCompletion {s : State} {q : Fin 5} {c x : Cmd} {cs : List Cmd} (head : (s.chan q).cmds = c :: cs) (started : c.started = true)
    (path : c.path ≠ .waiting) (done : c.finished = true) (retry : c.retry = none) (saving : s.clu.saving = [])
    (drained : ((s.drainStores q).chan q).cmds = x :: cs) : exec (.commandCompletion q) s = .next ((s.drainStores q).finishCmd q x cs) := by
  have run : exec (.commandCompletion q) s = execCommandCompletion q s := rfl
  have rested : s.resting c = false := by rw [State.resting, retry]; rfl
  have answered : (c.stores.any fun w => s.retried w.1) = false := by simp [State.retried, saving]
  rw [run, execCommandCompletion, head]
  dsimp only
  rw [if_neg (by simp [started, path, done, rested]), answered, if_neg Bool.false_ne_true, State.headCmd_cons drained]
  rfl

/-! ## The firmware path -/

/-- The command with its remainder in the firmware's hands (R247). -/
def Cmd.resumed (c : Cmd) : Cmd := { c.note 2 with path := .active }

section
variable {s : State} {q : Fin 5} {c : Cmd} {cs : List Cmd} (head : (s.chan q).cmds = c :: cs) (path : c.path = .waiting)
include head path

/-- The firmware goes on with the remainder, with STATUS 2 (R247). -/
theorem State.exec_firmwarePath_resolved (retry : c.retry = none) (stopped : c.stopped = false) (more : c.next < c.units) :
    exec (.firmwarePath q true) s = .next ((s.modHead q Cmd.resumed).post (.accessPerformed c.seq)) := by
  have run : exec (.firmwarePath q true) s = execFirmwarePath q true s := rfl
  rw [run, execFirmwarePath, State.headCmd_cons head]
  dsimp only
  rw [if_neg (not_not_intro path), if_pos rfl]
  have unfinished : c.finished = false := by simp [Cmd.finished, stopped, more]
  exact congrArg Host.Outcome.next (State.engineNext_goesOn (c := c.resumed) (State.modHead_cmds head Cmd.resumed) (by simp [Cmd.resumed]) retry unfinished)

/-- Where the host refuses, the command stops with STATUS 6 (R247). -/
theorem State.exec_firmwarePath_refused (retry : c.retry = none) :
    exec (.firmwarePath q false) s = .next ((s.modHead q fun c => { c.stop 6 with path := .active }).post (.commandCompletion q)) := by
  have run : exec (.firmwarePath q false) s = execFirmwarePath q false s := rfl
  rw [run, execFirmwarePath, State.headCmd_cons head]
  dsimp only
  rw [if_neg (not_not_intro path), if_neg Bool.false_ne_true]
  exact congrArg Host.Outcome.next (State.engineNext_completes (State.modHead_cmds head _) (by simp) retry rfl)

end

end Sys2Proof.Machine
end

section
/-! PROOF. O34: commands of the engines start, move and complete (R241 to R248, R251, R253, R255). -/

namespace Sys2Proof.Machine

open Sys2Proof

section
variable {s : State} {q : Fin 5} {c : Cmd} {cs : List Cmd}

/-- R246, R248, R274: the oldest command starts, and takes its credit. -/
theorem State.command_starts (head : (s.chan q).cmds = c :: cs) (fresh : c.started = false) (path : c.path = .none) (next : c.next = 0) (skipped : c.skipped = [])
    (stopped : c.stopped = false) (retry : c.retry = none) (may : s.mayStart c = true) (credit : s.hasCredit q) :
    ∃ t x, exec (.commandStart q) s = .next t ∧ (t.chan q).cmds = x :: cs ∧ x.started = true ∧ x.held = false ∧ x.seq = c.seq ∧ x.vec = c.vec ∧ x.next = 0 ∧
      (c.posts = false → x.status = c.status ∧ t.core.mbq = s.core.mbq) ∧
      (c.posts = true → x.status = Nat.max c.status 1 ∧ t.core.mbq = s.core.mbq ++ [boxWord c.vec q.val]) ∧
      (0 < c.units → .accessPerformed c.seq ∈ t.agenda) ∧ (c.units = 0 → .commandCompletion q ∈ t.agenda) ∧
      (s.gatesOf q = [] → t.clu = s.clu) ∧
      (s.gatesOf q ≠ [] → ∃ i ∈ s.gatesOf q, (t.clu.terms.get i).cred + 1 = (s.clu.terms.get i).cred ∧ ∀ m, m ≠ i → t.clu.terms.get m = s.clu.terms.get m) ∧
      t.mem = s.mem ∧ ∀ m x, (t.ctxAt m).reg x = (s.ctxAt m).reg x := by
  obtain ⟨t, taken, credits⟩ := State.takeCredit_some credit
  have same : t.core = s.core ∧ t.mem = s.mem ∧ t.ctxs = s.ctxs := by
    obtain ⟨_, rfl⟩ | ⟨_, i, _, _, rfl⟩ := credits
    · exact ⟨rfl, rfl, rfl⟩
    · exact ⟨rfl, rfl, rfl⟩
  obtain ⟨core, mem, ctxs⟩ := same
  have head' : (t.chan q).cmds = c :: cs := by
    rw [State.chan, core]
    exact head
  obtain ⟨u, run, cmds, mbq, clu, mem', ctxs'⟩ := State.startCmd_does head'
  have path' : c.begun.path ≠ .waiting := by
    unfold Cmd.begun
    split <;> simp [Cmd.note, path]
  have fields : c.begun.retry = none ∧ c.begun.finished = c.finished ∧ c.begun.seq = c.seq ∧ c.begun.vec = c.vec ∧ c.begun.next = 0 ∧
      c.begun.started = true ∧ c.begun.held = false := by
    unfold Cmd.begun
    split <;> exact ⟨retry, rfl, rfl, rfl, next, rfl, rfl⟩
  obtain ⟨retry', finished, seq, vec, next', started, held⟩ := fields
  have agenda := u.engineNext_agenda q
  rw [core] at mbq
  rw [State.exec_commandStart head fresh may taken, run]
  refine ⟨_, c.begun, rfl, ?_, started, held, seq, vec, next', fun plain => ⟨?_, ?_⟩, fun posts => ⟨?_, ?_⟩, fun some => ?_, fun none => ?_, fun open_ => ?_, fun gated => ?_, ?_, ?_⟩
  · rw [agenda]
    exact cmds
  · rw [Cmd.begun_plain plain]
  · rw [agenda]
    rw [plain, if_neg Bool.false_ne_true] at mbq
    exact mbq
  · rw [Cmd.begun_posts posts]
    rfl
  · rw [agenda]
    rw [if_pos posts] at mbq
    exact mbq
  · have more : c.begun.finished = false := by
      rw [finished, Cmd.finished, stopped, next, decide_eq_false (Nat.not_le.2 some)]
      rfl
    rw [State.engineNext_goesOn cmds path' retry' more, seq]
    exact u.mem_post _
  · have done : c.begun.finished = true := by
      rw [finished, Cmd.finished, stopped, skipped, none, decide_eq_true (Nat.zero_le _)]
      rfl
    rw [State.engineNext_completes cmds path' retry' done]
    exact u.mem_post _
  · rw [agenda]
    obtain ⟨_, rfl⟩ | ⟨gated, _⟩ := credits
    · exact clu
    · exact absurd open_ gated
  · obtain ⟨open_, _⟩ | ⟨_, i, gate, some, rfl⟩ := credits
    · exact absurd open_ gated
    · refine ⟨i, gate, ?_, fun m ne => ?_⟩
      · rw [agenda]
        dsimp only
        rw [clu, State.modTerm_self]
        exact Nat.sub_add_cancel some
      · rw [agenda]
        dsimp only
        rw [clu]
        exact State.modTerm_ne s _ ne
  · rw [agenda]
    exact mem'.trans mem
  · intro m x
    rw [agenda]
    exact congrArg (fun v : Vector Ctx 11 => (v.get m).reg x) (ctxs'.trans ctxs)

/-- What holds a command back leaves it held, and nothing else changes (R274). -/
theorem State.command_isHeld (head : (s.chan q).cmds = c :: cs) (fresh : c.started = false) (no : s.mayStart c = false ∨ ¬ s.hasCredit q) :
    ∃ t, exec (.commandStart q) s = .next t ∧ (t.chan q).cmds = { c with held := true } :: cs ∧ t.mem = s.mem ∧
      (∀ m x, (t.ctxAt m).reg x = (s.ctxAt m).reg x) ∧ t.clu = s.clu := by
  refine ⟨_, State.exec_commandStart_held head fresh no, State.modHead_cmds head _, ?_⟩
  rw [State.modHead_chans]
  exact ⟨rfl, fun _ _ => rfl, rfl⟩

section
variable (head : (s.chan q).cmds = c :: cs) (unused : c.used = []) {acc : Access} {a : Word} {n k : Nat} {t : State} (plain : a.getLsbD 63 = false)
include head unused plain

/-- A command that has used no translation makes the access's own check (R206). -/
theorem State.cmdCheck_fails {f : AccessFault} (check : s.check acc a n n c.exchange = (t, .error f, k)) : s.cmdCheck q acc a n = (t, .error f) := by
  have none : tlbFind c.used a.toNat = none := by rw [unused]; rfl
  have failed : s.engineCheck acc a n c.exchange = (t, .error f) := by rw [State.engineCheck, plain, if_neg Bool.false_ne_true, check]
  rw [State.cmdCheck, State.headCmd_cons head]
  dsimp only
  rw [none, failed]
  split
  · contradiction
  · rfl

theorem State.cmdCheck_passes {p : Place} (check : s.check acc a n n c.exchange = (t, .ok p, k)) :
    s.cmdCheck q acc a n = (t.modHead q fun y => y.holds p, .ok p) := by
  have none : tlbFind c.used a.toNat = none := by rw [unused]; rfl
  have passed : s.engineCheck acc a n c.exchange = (t, .ok p) := by rw [State.engineCheck, plain, if_neg Bool.false_ne_true, check]
  rw [State.cmdCheck, State.headCmd_cons head]
  dsimp only
  rw [none, passed]
  split
  · contradiction
  · rfl

end

/-- R206: where the command has used a translation of an address before, it goes there by that one. -/
theorem State.cmdCheck_used (head : (s.chan q).cmds = c :: cs) {acc : Access} {a : Word} {n : Nat} {e : TlbEntry} (place : placeCheck a n n = .ok .translated)
    (used : tlbFind c.used a.toNat = some e) (present : s.targetAbsent e.leaf = false) (leaf : s.leafCheck acc e.leaf a c.exchange = .ok ()) :
    ∃ x, s.cmdCheck q acc a n = (s, .ok x) ∧ x.key = leafKey s.die e.leaf e.level a.toNat := by
  have held : s.checkHeld acc a e c.exchange =
      .ok { key := leafKey s.die e.leaf e.level a.toNat, core := none, leaf := some e.leaf, page := (e.va, pageBytes e.level) } := by
    rw [State.checkHeld, State.presentOr, present, if_neg Bool.false_ne_true]
    dsimp only
    rw [leaf]
  refine ⟨{ key := leafKey s.die e.leaf e.level a.toNat, core := none, leaf := some e.leaf, page := (e.va, pageBytes e.level) }, ?_, rfl⟩
  rw [State.cmdCheck, State.headCmd_cons head]
  dsimp only
  rw [place, used]
  dsimp only
  rw [held]

/-- R241, R242, R246: a command with its work done completes. -/
theorem State.command_completes (head : (s.chan q).cmds = c :: cs) (started : c.started = true) (path : c.path ≠ .waiting) (done : c.finished = true)
    (retry : c.retry = none) (saving : s.clu.saving = []) :
    ∃ t e, exec (.commandCompletion q) s = .next t ∧ (t.chan q).cmds.length = cs.length ∧ (t.chan q).ready = (s.chan q).ready ++ [e] ∧
      (c.status < 256 → e.word.getLsbD 63 = true ∧ natBits e.word.toNat 62 56 = 0 ∧ natBits e.word.toNat 55 48 = c.status ∧ natBits e.word.toNat 47 32 = cmdId c.vec ∧
        natBits e.word.toNat 31 0 = c.bytes % 2 ^ 32) ∧
      (c.status ≠ 8 → e.overflow = none) ∧ (c.status = 8 → e.overflow = some (BitVec.ofNat 32 c.sum, cmdAddr c.vec 1 + BitVec.ofNat 64 (8 * c.sum))) ∧
      (cmdArv c.vec = true → c.status ≠ 10 → .arrival (cmdBg c.vec) s.sender 1 none ∈ t.agenda) ∧
      (cmdBell c.vec = true → c.status ≠ 10 → q.val < 4 → .pulse (BitVec.ofNat 8 (4 * (s.sender.toNat % 32) + q.val)) ∈ t.agenda) ∧
      (cs ≠ [] → .commandStart q ∈ t.agenda) ∧ (∀ m x, (t.ctxAt m).reg x = (s.ctxAt m).reg x) ∧ (c.stores = [] → t.mem = s.mem) ∧
      (s.unhashed → s.core.snapshot = none → t.mem = c.stores.foldl (fun m x => Memory.write m x.1 x.2) s.mem) := by
  obtain ⟨⟨wm, cmds⟩, ready, ctxs, sender, empty, writes⟩ := State.drainStores_does head
  obtain ⟨len, ready', arv, bell, more, regs, mem⟩ := (s.drainStores q).finishCmd_does q { c with stores := [], wm } cs
  obtain ⟨none, some⟩ := ({ c with stores := [], wm } : Cmd).lastElement_overflow
  rw [sender] at arv bell
  rw [ready] at ready'
  refine ⟨_, _, State.exec_commandCompletion head started path done retry saving cmds, len, ready', fun fits => ?_, none, some, arv, bell, more, fun m x => ?_,
    fun no => mem.trans (empty no), fun plain free => mem.trans (writes plain free)⟩
  · rw [Cmd.lastElement_word]
    exact Cmd.element_fields (c := { c with stores := [], wm }) fits
  · exact (regs m x).trans (congrArg (fun v : Vector Ctx 11 => (v.get m).reg x) ctxs)

/-- R247: the firmware path goes on with STATUS 2, or, refused, ends the command with STATUS 6. -/
theorem State.firmware_goesOn (head : (s.chan q).cmds = c :: cs) (path : c.path = .waiting) (more : c.next < c.units) (stopped : c.stopped = false) (retry : c.retry = none) :
    (∃ t x, exec (.firmwarePath q true) s = .next t ∧ (t.chan q).cmds = x :: cs ∧ x.path = .active ∧ x.status = Nat.max c.status 2 ∧ x.next = c.next ∧
      .accessPerformed c.seq ∈ t.agenda ∧ t.mem = s.mem ∧ ∀ m x, (t.ctxAt m).reg x = (s.ctxAt m).reg x) ∧
    (∃ t x, exec (.firmwarePath q false) s = .next t ∧ (t.chan q).cmds = x :: cs ∧ x.status = Nat.max c.status 6 ∧ x.stopped = true ∧ x.next = c.next ∧
      .commandCompletion q ∈ t.agenda ∧ t.mem = s.mem ∧ ∀ m x, (t.ctxAt m).reg x = (s.ctxAt m).reg x) := by
  refine ⟨⟨_, _, State.exec_firmwarePath_resolved head path retry stopped more, State.modHead_cmds head _, rfl, rfl, rfl, State.mem_post .., ?_⟩,
    ⟨_, _, State.exec_firmwarePath_refused head path retry, State.modHead_cmds head _, rfl, rfl, rfl, State.mem_post .., ?_⟩⟩
  all_goals
    rw [State.modHead_chans]
    exact ⟨rfl, fun _ _ => rfl⟩

/-! ## Units of work -/

/-- What is done of a unit of work: memory is `m`, registers stay, and the command, its number and its status kept, is as `f` says. -/
def State.unitGives (s : State) (q : Fin 5) (c : Cmd) (m : List Host.Cell) (f : Cmd → Prop) : Prop :=
  ∃ t x, exec (.accessPerformed c.seq) s = .next t ∧ t.mem = m ∧ (∀ m r, (t.ctxAt m).reg r = (s.ctxAt m).reg r) ∧
    (t.chan q).cmds.head? = some x ∧ x.seq = c.seq ∧ x.status = c.status ∧ f x

/-- What a unit of work makes of the command is known but for its translations and its watermark. -/
theorem State.calm.gives {t : State} {d : Cmd} {m : List Host.Cell} {f : Cmd → Prop} (calm : s.calm c) (head : (s.chan q).cmds = c :: cs)
    (more : c.next < c.units) (sole : s.soleWork q c.seq) (unit : s.engineUnit q c = t) (w : s.working q cs m d t) (seq : d.seq = c.seq) (status : d.status = c.status)
    (fields : ∀ used wm, f { d with used, wm, held := false }) : s.unitGives q c m f := by
  obtain ⟨u, x, run, mem, regs, first, used, wm, rfl⟩ := calm.performs head more sole unit w
  exact ⟨u, _, run, mem, regs, first, seq, status, fields used wm⟩

theorem State.engineUnit_copy (kind : c.kind = .copy) (prune : cmdPrune c.vec = false) : s.engineUnit q c = s.copyUnit q c := by
  rw [State.engineUnit, kind]
  exact if_neg (ne_true_of_eq_false prune)

theorem State.engineUnit_prune (kind : c.kind = .copy) (prune : cmdPrune c.vec = true) : s.engineUnit q c = s.pruneUnit q c := by
  rw [State.engineUnit, kind]
  exact if_pos prune

theorem State.engineUnit_compact (kind : c.kind = .compact) : s.engineUnit q c = s.compactUnit q c := by rw [State.engineUnit, kind]

theorem State.engineUnit_gx (kind : c.kind = .gx) : s.engineUnit q c = s.gatherUnit q c := by rw [State.engineUnit, kind]

theorem State.engineUnit_gxs (kind : c.kind = .gxs) : s.engineUnit q c = s.gatherUnit q c := by rw [State.engineUnit, kind]

/-- R243: an element inside the extents goes from its source address to its destination address. -/
theorem State.copy_moves {u w : State} {p r : Place} (calm : s.calm c) (head : (s.chan q).cmds = c :: cs) (sole : s.soleWork q c.seq) (kind : c.kind = .copy)
    (prune : cmdPrune c.vec = false) (inside : cmdInside c.vec c.next = true) (more : c.next < c.units) (pulled : c.pulledAt c.next 0 = none)
    (reads : s.cmdCheck q .engineRead (cmdSrc c.vec c.next) (2 ^ cmdEsz c.vec) = (u, .ok p))
    (writes : u.cmdCheck q .engineWrite (cmdDst c.vec c.next) (2 ^ cmdEsz c.vec) = (w, .ok r)) :
    s.unitGives q c (Memory.write s.mem r.key (Memory.read s.mem p.key (2 ^ cmdEsz c.vec))) fun x => x.next = c.next + 1 ∧ x.bytes = c.bytes + 2 ^ cmdEsz c.vec := by
  have unit := calm.unit more
  refine calm.gives head more sole (State.engineUnit_copy kind prune)
    ((State.working.start head).copyUnit_inside calm (d := c) (unit ▸ inside) (unit ▸ pulled) (unit ▸ reads) (unit ▸ writes)) rfl rfl fun used wm => ⟨?_, rfl⟩
  exact (calm.withBytes _).advance_next

/-- R248: an element outside the extents is neither read nor written. -/
theorem State.copy_skips (calm : s.calm c) (head : (s.chan q).cmds = c :: cs) (more : c.next < c.units) (sole : s.soleWork q c.seq) (kind : c.kind = .copy)
    (prune : cmdPrune c.vec = false) (outside : cmdInside c.vec c.next = false) : s.unitGives q c s.mem fun x => x.next = c.next + 1 ∧ x.bytes = c.bytes :=
  calm.gives head more sole (State.engineUnit_copy kind prune) ((State.working.start head).copyUnit_outside calm (d := c) (calm.unit more ▸ outside)) rfl rfl
    fun _ _ => ⟨calm.advance_next, rfl⟩

/-- R253: a gather or a scatter moves the row of the index it reads. -/
theorem State.gather_moves {u w : State} {r : Place} {ps : List PlacedMove} (calm : s.calm c) (head : (s.chan q).cmds = c :: cs) (more : c.next < c.units)
    (sole : s.soleWork q c.seq) (unread : ∀ u i, c.pulledAt u i = none) (unit : s.engineUnit q c = s.gatherUnit q c)
    (index : s.cmdCheck q .engineRead (runAddr (cmdAddr c.vec 1) (indexBytes c.vec) c.next) (indexBytes c.vec) = (u, .ok r))
    (placed : State.placeMoves q (gatherMoves c.kind c.vec c.next (natOfBytes (Memory.read s.mem r.key (indexBytes c.vec)))) u = (w, .ok ps)) :
    s.unitGives q c (movedBy ps s.mem) fun x => x.next = c.next + 1 ∧ x.bytes = c.bytes + 2 ^ cmdEsz c.vec := by
  rw [← calm.unit more] at index placed
  refine calm.gives head more sole unit ((State.working.start head).gatherUnit calm (fun _ => unread ..) index placed) rfl rfl fun used wm => ⟨?_, rfl⟩
  exact (calm.withBytes _).advance_next

theorem length_groupMoves (v : Vec) (g : Nat) : (groupMoves v g).length = 4 := by
  rw [groupMoves, List.length_map, List.length_range]

theorem bytes_groupMoves {v : Vec} {g : Nat} {x : Move} (h : x ∈ groupMoves v g) : x.bytes = 2 ^ cmdEsz v := by
  obtain ⟨i, _, rfl⟩ := List.mem_map.1 h
  rfl

theorem bytes_pruneMoves {v : Vec} {i : Nat} {x : Move} (h : x ∈ pruneMoves v i) : x.bytes = 2 ^ cmdEsz v := by
  unfold pruneMoves at h
  rcases List.mem_append.1 h with h | h
  · exact bytes_groupMoves h
  · split at h
    · exact bytes_groupMoves h
    · exact absurd h List.not_mem_nil

/-- Behind the first group of a metadata byte stands a second one, or none. -/
theorem length_pruneMoves (v : Vec) (i : Nat) : (pruneMoves v i).length = 4 ∨ (pruneMoves v i).length = 8 := by
  unfold pruneMoves
  split
  · exact .inr (by rw [List.length_append, length_groupMoves, length_groupMoves])
  · exact .inl (by rw [List.append_nil, length_groupMoves])

/-- R251: of each group the two largest elements are written, and then the metadata byte. -/
theorem State.prune_keeps {u w : State} {r : Place} {ty : Ty} {lo hi : List PlacedMove} (calm : s.calm c) (head : (s.chan q).cmds = c :: cs) (more : c.next < c.units)
    (sole : s.soleWork q c.seq) (unread : ∀ u i, c.pulledAt u i = none) (kind : c.kind = .copy) (prune : cmdPrune c.vec = true)
    (format : pruneFormat (cmdPfmt c.vec) (cmdEsz c.vec) = some ty) (len : lo.length = 4)
    (placed : State.placeMoves q (pruneMoves c.vec c.next) s = (u, .ok (lo ++ hi)))
    (check : u.cmdCheck q .engineWrite (runAddr (cmdAddr c.vec 7) 1 c.next) 1 = (w, .ok r)) :
    ∃ m m' a b, prunesTo (2 ^ cmdEsz c.vec) ty s.mem m lo a ∧ (hi = [] → m' = m ∧ b = 0) ∧ (hi ≠ [] → prunesTo (2 ^ cmdEsz c.vec) ty m m' hi b) ∧
      s.unitGives q c (Memory.write m' r.key [BitVec.ofNat 8 (a + 16 * b)]) fun x =>
        x.next = c.next + 1 ∧ x.bytes = c.bytes + (if hi = [] then 2 else 4) * 2 ^ cmdEsz c.vec + 1 := by
  rw [← calm.unit more] at placed check
  have start := State.working.start head
  have moves := (start.placed placed).2
  have hiLen : hi = [] ∨ hi.length = 4 := by
    have total := congrArg List.length moves
    rw [List.length_map, List.length_append, len] at total
    rcases length_pruneMoves c.vec c.unit with four | eight
    · exact .inl (List.length_eq_zero_iff.1 (by omega))
    · exact .inr (by omega)
  have bytes : ∀ p ∈ lo ++ hi, p.move.bytes = 2 ^ cmdEsz c.vec := fun p hp => bytes_pruneMoves (moves ▸ List.mem_map_of_mem hp)
  obtain ⟨m, m', a, b, first, one, two, done⟩ := start.pruneUnit calm len hiLen (fun _ => unread ..) bytes format placed check
  refine ⟨m, m', a, b, first, one, two, calm.gives head more sole (State.engineUnit_prune kind prune) done rfl rfl fun used wm => ⟨?_, rfl⟩⟩
  exact (calm.withBytes _).advance_next

/-- R255: a row's offset is written, and the pass over its chain begins; the closing offset ends the work. -/
theorem State.compact_offset {u : State} {r : Place} (calm : s.calm c) (head : (s.chan q).cmds = c :: cs) (more : c.next < c.units) (sole : s.soleWork q c.seq)
    (kind : c.kind = .compact) (ptr : c.ptr = none) (copying : c.copying = false)
    (check : s.cmdCheck q .engineWrite (runAddr (cmdAddr c.vec 2) 4 c.next) 4 = (u, .ok r)) :
    s.unitGives q c (Memory.write s.mem r.key (bytesOfNat c.off 4)) fun x => x.bytes = c.bytes + 4 ∧ (c.next = cmdWord c.vec 4 → x.next = c.next + 1) ∧
      (c.next ≠ cmdWord c.vec 4 → x.next = c.next ∧ x.copying = true) := by
  have w := (State.working.start head).compactOffset calm ptr copying check
  by_cases c.next = cmdWord c.vec 4
  case pos last =>
    rw [if_pos last] at w
    refine calm.gives head more sole (State.engineUnit_compact kind) w rfl rfl fun used wm => ⟨rfl, fun _ => ?_, fun no => absurd last no⟩
    exact (calm.withBytes _).advance_next
  case neg row =>
    rw [if_neg row] at w
    exact calm.gives head more sole (State.engineUnit_compact kind) w rfl rfl fun used wm => ⟨rfl, fun last => absurd last row, fun _ => ⟨rfl, rfl⟩⟩

end

/-- Settles O34, by one lemma for each unit of work: an engine that works at a command keeps all but queues, counters, caches and memory. -/
theorem commandsStartMoveAndComplete : Obligations.CommandsStartMoveAndComplete := by
  unfold Obligations.CommandsStartMoveAndComplete
  refine ⟨fun s u w q c cs p r head => ?_, fun s u w q c cs r ps plain => ?_⟩
  · refine ⟨fun fresh path next skipped stopped retry may credit => State.command_starts head fresh path next skipped stopped retry may credit,
      fun fresh no => State.command_isHeld head fresh no, ?_, fun a n acc unused plain => ?_,
      fun a n acc e place used present leaf => State.cmdCheck_used head place used present leaf,
      fun started path done retry saving => State.command_completes head started path done retry saving,
      fun path more stopped retry => State.firmware_goesOn head path more stopped retry⟩
    · intro kind prune inside started path more pulled lazy skipped redo stopped retry saving accs halves others plain free bad reads writes
      have calm : s.calm c := ⟨started, path, lazy, skipped, redo, fun _ _ => by rw [Cmd.outdone, kind]; rfl, stopped, retry, saving, bad, plain, free⟩
      obtain ⟨t, x, run, mem, regs, first, seq, status, next, bytes⟩ := State.copy_moves calm head ⟨accs, halves, others⟩ kind prune inside more pulled reads writes
      refine ⟨t, x, run, regs, fun k => ?_, first, seq, next, bytes, status⟩
      rw [mem, Memory.byte_write, Memory.length_read]
      split
      case isTrue within =>
        rw [Memory.getD_read]
        omega
      case isFalse => rfl
    · split
      case h_1 e => exact State.cmdCheck_fails head unused plain e
      case h_2 e => exact State.cmdCheck_passes head unused plain e
  · obtain ⟨head, started, path, more, pulled, lazy, skipped, redo, newer, stopped, retry, saving, bad, hashed, free, accs, halves, others⟩ := plain
    have calm : s.calm c := ⟨started, path, lazy, skipped, redo, fun _ _ => by rw [Cmd.outdone, newer, List.any_nil, Bool.and_false], stopped, retry, saving, bad, hashed, free⟩
    have sole : s.soleWork q c.seq := ⟨accs, halves, others⟩
    have unread : ∀ u i, c.pulledAt u i = none := fun u i => by rw [Cmd.pulledAt, pulled]; rfl
    refine ⟨fun kind prune outside => ?_, fun x kind index eq placed => ?_, fun x kind index eq placed => ?_, fun ty lo hi kind prune format len placed check => ?_,
      fun kind ptr copying check => ?_, fun p k nx kind ptr some next eq w' z r' counts eq' => ⟨fun copying row => ?_, fun copying placed => ?_⟩⟩
    · exact State.copy_skips calm head more sole kind prune outside
    · subst eq
      refine State.gather_moves (w := w) calm head more sole unread (State.engineUnit_gx kind) index ?_
      rw [gatherMoves, if_pos kind]
      exact placed
    · subst eq
      refine State.gather_moves (w := w) calm head more sole unread (State.engineUnit_gxs kind) index ?_
      rw [gatherMoves, if_neg (by rw [kind]; decide)]
      exact placed
    · refine State.prune_keeps (w := w) calm head more sole unread kind prune format len placed ?_
      rw [runAddr, Nat.one_mul]
      exact check
    · exact State.compact_offset calm head more sole kind ptr copying check
    · rw [eq, eq']
      exact calm.gives head more sole (State.engineUnit_compact kind) ((State.working.start head).compactCount calm ptr some copying next counts row) rfl rfl
        fun used wm => ⟨rfl, rfl, rfl⟩
    · rw [eq'] at placed
      rw [eq, eq']
      exact calm.gives head more sole (State.engineUnit_compact kind) ((State.working.start head).compactCopy calm (fun _ => unread ..) ptr some copying next counts placed) rfl rfl
        fun used wm => ⟨rfl, rfl, rfl⟩

end Sys2Proof.Machine
end
